-- ==== Sys2Proof/Word.lean ====
section
/-! DEFINITION. The word and byte types of the package: a register is 32 bits wide and little-endian (R7),
a memory cell is one byte. -/

namespace Sys2Proof

/-- The contents of a register of the package control space (R7). -/
abbrev Word := BitVec 32

/-- One byte of memory. -/
abbrev Byte := BitVec 8

end Sys2Proof
end

