-- ==== Sys2Proof/Syntax.lean ====
section
/-! DEFINITION. The commands that the package takes from outside, one constructor for each row of the opcode table, and
the operands they carry: requesters, lanes, stitches, frames and markers. -/

namespace Sys2Proof

/-- Who makes an access to the package control space (R4, R14). -/
inductive Requester where
  /-- A processor hart: die and core. -/
  | hart (die : Fin 2) (core : Fin 96)
  /-- A host I/O site: H0 or H1. -/
  | hostIo (site : Fin 2)
  /-- A queue processor: compute die and number. -/
  | queueProc (die : Fin 8) (n : Fin 4)
  /-- A package control unit: PCU-A or PCU-B. -/
  | pcu (unit : Fin 2)
  /-- The IEEE 1149.1 port. -/
  | jtag
  /-- The management interface. -/
  | mgmt
  deriving DecidableEq, Repr

/-- An on-package lane site.plane.k (R5). -/
structure Lane where
  site : Fin 24
  plane : Fin 42
  k : Fin 24
  deriving DecidableEq, Repr

/-- A fence indication of a lane (R133): its code, and what the tests of R47 find: the transmit ring's loop reports loss of lock or its
monitor shows less than half the calibrated modulation; the drop filter's loop reports loss of lock. -/
structure FenceSign where
  lane : Lane
  code : Fin 16
  txFault : Bool
  rxFault : Bool
  deriving DecidableEq, Repr

/-- A lane of a link: an on-package lane by its transmit ring, or lane `l` of port `j`, outgoing where it sends and incoming where it receives. -/
inductive LinkLane where
  | pkg (lane : Lane)
  | port (j : Fin 16) (l : Fin 40)
  deriving DecidableEq, Repr

/-- What a fence indication names: an on-package lane, or a lane of a port with its direction and code (R133, R210). -/
inductive FenceTarget where
  | pkg (sign : FenceSign)
  | port (j : Fin 16) (l : Fin 40) (incoming : Bool) (code : Fin 16)
  deriving DecidableEq, Repr

/-- A stitch: the fields of R141. `rsv` is bits [12:0] of the route word, which a stitch that the package sends has zero. -/
structure Stitch where
  version : Nat := 1
  dstNode : Nat := 0
  dstSite : Nat := 0
  srcNode : Nat := 0
  srcSite : Nat := 0
  tenant : Nat := 0
  cls : Nat := 0
  hops : Nat := 0
  escape : Nat := 0
  rsv : Nat := 0
  opcode : Nat := 0
  seq : Nat := 0
  sync : Nat := 0
  start : Nat := 0
  countM1 : Nat := 0
  cnt : Nat := 0
  opf : Nat := 0
  opspec : Nat := 0
  ppa : Nat := 0
  /-- The 64 bytes of DATA; missing bytes are zero. -/
  data : List Nat := []
  entryTs : Nat := 0
  check : Nat := 0
  /-- The requester's own mark on a request at its source adapter; it does not travel. -/
  tag : Nat := 0
  deriving DecidableEq, Repr

/-- A frame of the link layer (R124). The payload is 384 bytes; missing bytes are zero. -/
structure Frame where
  payload : List Nat := []
  seq : Nat := 0
  ack : Nat := 0
  ftype : Nat := 0
  /-- Flag byte: bit 7 REPLAY, bit 6 NAK, bits [3:0] by type (R125). -/
  flags : Nat := 0
  slot : Nat := 0
  rowTag : Nat := 0
  runCheck : Nat := 0
  crc : Nat := 0
  deriving DecidableEq, Repr

/-- A row marker as a receiver sees it (R122): whether the sync word was found in place, then the fields. -/
structure Marker where
  syncFound : Bool
  row : Nat
  timestamp : Nat
  health : Nat
  dataFrames : Nat
  nextSeq : Nat
  ack : Nat
  fill : List Nat
  crc : Nat
  /-- Bytes 26 and 27 and bytes 28 to 35 of a port marker (R206); not in the marker of an on-package lane. -/
  credit : Nat := 0
  message : Nat := 0
  /-- The symbols of the sync word as the receiver of a port lane slices them, as I and Q levels, while it has not yet resolved its carrier phase (R203). -/
  symbols : List (Int × Int) := []
  deriving DecidableEq, Repr

/-- The context that issues a request at a source adapter, as the interface of the die at the site names it (R150): a command queue of a partition, a core of a compute die with the thread
or descriptor on it, a hart of a processor die, or a partition's own context at another site. -/
inductive IssueCtx where
  | queue (t : Fin 16) (q : Fin 64)
  | core (k : Fin 136)
  | hart (k : Fin 96)
  | context (t : Fin 16)
  deriving DecidableEq, Repr

/-- Where a command comes from (R415, R429): command queue `q` of a tenant, the admin queue, or a fabric manager's FM_CMD. -/
inductive CmdSrc where
  | queue (t : Fin 16) (q : Fin 64)
  | admin
  | fm (node : Fin 4096)
  deriving DecidableEq, Repr


/-- A message of the control network (R291): a count landing of a site for an object, a return of ingress credits, a stitch to or from site 31, a link acknowledgement of a lane, another message. -/
inductive NetMessage where
  | landing (site : Fin 24) (obj : Fin 65536)
  | credits (src dst : Fin 24) (pool : Fin 2)
  | stitch (site : Fin 32) (st : Stitch)
  | linkAck (lane : Lane)
  | other
  deriving DecidableEq, Repr

/-- What the sensors measure over one row (R500, R530, R91): input voltage of the lower blade pair in 10 mV; input power in W; the rails of the ten dies in mV; the power of the ten dies at
the rails, stacked SRAM included, of the stacked SRAM dies together and of the six domains of PWR.DOMAIN_W in W; whether the input current still lies above the limit (R505); a bit for each
compute die in which a matrix engine performed a k-step (R509); coolant flow in 0.01 L/min and pressure drop in 0.1 kPa. -/
structure Telemetry where
  vin : Nat := 4800
  watts : Nat := 0
  rails : List Nat := []
  dies : List Nat := []
  sram : Nat := 0
  domains : List Nat := []
  overCurrent : Bool := false
  kSteps : Nat := 0
  flow : Nat := 0
  drop : Nat := 0
  fb0 : Option Bool := none
  fb1 : Option Bool := none
  deriving DecidableEq, Repr

/-- What a sweep finds of one twin of a slot (R88): whether its resonance is found, its extinction in 0.01 dB, the heater code it needs on its line. -/
structure TwinSweep where
  found : Bool
  extinction : BitVec 16
  code : BitVec 16
  deriving DecidableEq, Repr

/-- What the swatch of a ring measures (R88, R104): both twins, the slope in units of the lock-in result per GHz, the heater efficiency of the selected twin in 0.01 GHz/mW. -/
structure RingSweep where
  twin0 : TwinSweep
  twin1 : TwinSweep
  slope : BitVec 16
  eff : BitVec 16
  deriving DecidableEq, Repr

/-- What comes to lock again (R480, R485, R486, R490): every retuned PLL of a die, or the PLL of a region. -/
inductive PllLock where
  | die (d : Fin 10)
  | region (r : Fin 94)
  deriving DecidableEq, Repr

/-- What the physical world decides in a step of cast-on (R444): whether the step's own work succeeds; the combs that lock, in order; whether every line of FB0 and of FB1 has
light; the control units that become ready, in order; lanes whose training fails; rings that fail the swatch, as site, plane, receive side and wavelength, and the sweeps of rings that are given; pseudo-channels, cores and processor dies that fail; whether the saved
installer tables read back whole; the deviations of the gauges of the sites and of the rail converters in 0.001 %, the reference counters that fail; milliseconds since the start. -/
structure CastOutcome where
  ok : Bool := true
  combs : List (Fin 2) := []
  fb0 : Bool := false
  fb1 : Bool := false
  units : List (Fin 2) := []
  lanes : List Lane := []
  rings : List (Fin 24 × Fin 42 × Bool × Fin 40) := []
  sweeps : List ((Fin 24 × Fin 42 × Bool × Fin 40) × RingSweep) := []
  channels : List (Fin 8 × Fin 2 × Fin 64) := []
  cores : List (Fin 8 × Fin 136) := []
  dies : List (Fin 2) := []
  tables : Bool := true
  gauges : List (BitVec 16) := []
  power : BitVec 16 := 0
  failed : BitVec 4 := 0
  ms : BitVec 23 := 0
  deriving DecidableEq, Repr

/-- The commands: one constructor for each row of spec/opcode_table.json, in its order. -/
inductive Instr where
  /-- REGISTER_WRITE (R7): A write to a register that has no row of its own is checked for width, mapping, role, gating and update class and applied. -/
  | registerWrite (req : Requester) (off : BitVec 28) (v : BitVec 32) (whole : Bool)
  /-- LO_READ_LATCH (R4): A read of a _LO register returns its value and latches the matching _HI register for that requester. -/
  | loReadLatch (req : Requester) (off : BitVec 28)
  /-- RC_READ (R7): A read of a read-clear field returns its value and then sets it to zero. -/
  | rcRead (req : Requester) (off : BitVec 28) (whole : Bool)
  /-- MIRROR_DATA_READ (R15): A read of DBG.MIRROR_DATA returns the selected register's present value without side effects, or zero with a MIRROR_STATUS bit. -/
  | mirrorDataRead (req : Requester)
  /-- ALIAS_WRITE (R17): A write through a group or broadcast alias is delivered to every member, each applying it by its own state. -/
  | aliasWrite (req : Requester) (off : BitVec 28) (v : BitVec 32)
  /-- ALIAS_READ (R18): A read through a broadcast or group alias returns zero and sets PCU.BUS_ERR.ALIAS_READ. -/
  | aliasRead (req : Requester) (off : BitVec 28)
  /-- ROW_BOUNDARY (R175): At each row boundary the package applies substitutions, light steps, circuit changes, Cal/Test moves, W-class fields, calendars, frequency changes and telemetry in order. -/
  | rowBoundary (t : Telemetry) (temps : List (Fin 24 × Fin 42 × BitVec 16)) (raw : List (Fin 24 × List Bool)) (edgeRaw : List (Fin 16 × List Bool)) (ecc : Fin 3)
  /-- EMULATED_ACCESS_TIMEOUT (R431): When no PCU has held the token for 100 µs, waiting emulated accesses complete as zero reads or dropped writes. -/
  | emulatedAccessTimeout
  /-- LANE_FENCE (R133): A fence indication fences a lane at both ends and starts the sparing engine. -/
  | laneFence (t : FenceTarget)
  /-- RECEIVER_REACQUIRED (R49): Once the receivers of a substituted plane have re-acquired, held frames are resent by one go-back. -/
  | receiverReacquired (site : Fin 24) (plane : Fin 42) (rx : Bool)
  /-- SUBST_GO (R61): SITE.SUBST_REQ.GO requests a test substitution of a plane by a spare at the boundary where the write takes effect. -/
  | substGo (req : Requester) (site : Fin 24) (v : BitVec 32)
  /-- SUBST_RESTORE (R61): SITE.SUBST_REQ.RESTORE returns a test-substituted plane to its own rings. -/
  | substRestore (req : Requester) (site : Fin 24) (v : BitVec 32)
  /-- DETECT_HOLD_END (R57): The detection hold of a light-source change ends after 20 µs and unrecovered lanes are fenced. -/
  | detectHoldEnd (lost : List FenceSign)
  /-- LINE_FLAG (R68): A comb line falling 3 dB below its reference is flagged, starting a source change and setting DETECT_HOLD. -/
  | lineFlag (line : Fin 40)
  /-- LIGHT_DIP (R68): Every flag clears within 1 µs, the hold clears and a light-dip event is recorded. -/
  | lightDip
  /-- SPACING_LOCK_LOST (R63): A comb's spacing error beyond ±20 MHz for 10 µs declares its spacing lock lost. -/
  | spacingLockLost (comb : Fin 2)
  /-- COMB_LOSS_DECLARED (R69): A line flagged for 1 µs declares the active comb lost and the package switches to the standby or enters fallback. -/
  | combLossDeclared
  /-- FALLBACK_ENTRY_END (R75): Entry to fallback ends when every lane of planes 0–15 has locked or 4 ms have passed, and MODE becomes 0x5. -/
  | fallbackEntryEnd (unlocked : List Lane)
  /-- STANDBY_READY (R66): A comb that has held both locks for 100 ms becomes a ready standby. -/
  | standbyReady (comb : Fin 2) (mhz : BitVec 16)
  /-- STANDBY_LOST (R84): The standby comb is lost and enters restarting, with a LIGHT_STATE notice. -/
  | standbyLost (comb : Fin 2)
  /-- COMB_RESTART (R72): PCU firmware holding the token starts a restart attempt of a comb in the restarting state. -/
  | combRestart (comb : Fin 2)
  /-- RESTART_TIMEOUT (R72): A restart that has not reached STANDBY_READY within 2 s fails and may fence the comb. -/
  | restartTimeout (comb : Fin 2)
  /-- LSU_SWAP (R73): LSU.CTRL.SWAP exchanges the active and standby combs at the next row boundary. -/
  | lsuSwap (req : Requester) (v : BitVec 32)
  /-- LSU_RETURN (R81): LSU.CTRL.RETURN starts a return from fallback to a qualifying comb. -/
  | lsuReturn (req : Requester) (v : BitVec 32)
  /-- LSU_RESTART (R72): LSU.CTRL.RESTART_A or RESTART_B grants one more restart attempt to a fenced comb. -/
  | lsuRestart (req : Requester) (v : BitVec 32)
  /-- LSU_CTRL_PENDING_RUN (R65): A held LSU.CTRL command is rechecked and carried out when a PCU next holds the token. -/
  | lsuCtrlPendingRun
  /-- RETURN_COMMIT (R81): At the boundary after every lane of branch H has locked, branches L and X switch to the returning comb. -/
  | returnCommit (failed : List FenceSign)
  /-- DARK_MODE (R80): Loss of FB0 light in fallback darkens every lane and the package enters the dark mode. -/
  | darkMode
  /-- LOOP_VISIT (R91): A lock-in engine visits a ring, measures its detuning and updates its heater code. -/
  | loopVisit (site : Fin 24) (plane : Fin 42) (d : Fin 2) (k : Fin 40) (inPhase : BitVec 16) (p : BitVec 16)
  /-- RING_LOSS_OF_LOCK (R94): A locked loop reports loss of lock, fencing the lane unless a hold applies. -/
  | ringLossOfLock (site : Fin 24) (plane : Fin 42) (d : Fin 2) (k : Fin 40)
  /-- ACQUIRE_TIMEOUT (R93): A loop not locked by the end of its acquisition window is fenced. -/
  | acquireTimeout (site : Fin 24) (plane : Fin 42) (d : Fin 2) (k : Fin 40)
  /-- ENGINE_FAIL (R97): A lock-in engine that misses a visit or fails self-check moves its rings to Hold and makes plane faults. -/
  | engineFail (site : Fin 24) (plane : Fin 42)
  /-- SWATCH_REQ (R100): TNS.SWATCH_REQ.GO sets the MANUAL trigger for one group or every group of the site. -/
  | swatchReq (req : Requester) (site : Fin 24) (v : BitVec 32)
  /-- EDGE_TRIGGER (R100): A heater code outside its band for 64 rows sets the EDGE trigger. -/
  | edgeTrigger (site : Fin 24) (plane : Fin 42) (d : Fin 2) (k : Fin 40)
  /-- TRIGGER_INTERVAL_EXPIRY (R101): MIN_INTERVAL after the last calibration passes and a held TEMP or LOAD trigger becomes pending. -/
  | triggerIntervalExpiry (site : Fin 24) (group : Fin 42)
  /-- SWATCH_START (R103): The scheduler books a lane swatch at a row boundary while a PCU holds the token and its sites are free. -/
  | swatchStart
  /-- SWATCH_END (R105): A lane swatch ends, writes offsets or fails and fences the ring, and may complete its group's calibration. -/
  | swatchEnd (site : Fin 24) (plane : Fin 42) (k : Fin 40) (measured : List RingSweep)
  /-- SWATCH_LEASE_ABANDON (R109): A swatch waiting through a lease gap of 1,024 rows is abandoned. -/
  | swatchLeaseAbandon (site : Fin 24) (plane : Fin 42) (k : Fin 40)
  /-- GAUGE_GO (R112): TNS.GAUGE_CTRL.GO runs a gauge check at the site. -/
  | gaugeGo (req : Requester) (site : Fin 24) (v : BitVec 32) (dev : BitVec 16) (failed : BitVec 4)
  /-- GAUGE_PERIODIC (R112): Every PERIOD hours every site runs a gauge check at the same row. -/
  | gaugePeriodic (devs : List (BitVec 16)) (failed : BitVec 4) (power : BitVec 16)
  /-- FRAME_SEND (R125): A lane sends the frame of its next frame slot: data, IDLE, TRAIN or PATTERN. -/
  | frameSend (ln : LinkLane) (slot : Fin 77)
  /-- FRAME_RECEIVE (R126): A receiver checks a frame's CRC, alignment and sequence and accepts, discards or refuses it. -/
  | frameReceive (ln : LinkLane) (f : Frame) (pos : Fin 77) (codewords : List (List (BitVec 10)))
  /-- NAK_REPEAT_TIMEOUT (R130): After TIMEOUT frame slots without a REPLAY frame, the receiver sends its NAK again. -/
  | nakRepeatTimeout (ln : LinkLane)
  /-- GOBACK_TIMEOUT (R131): The oldest unacknowledged frame waiting TIMEOUT slots causes a timeout go-back. -/
  | gobackTimeout (ln : LinkLane)
  /-- ROW_MARKER_RECEIVE (R123): A receiver checks a row marker's sync, CRC, row, timestamp and fill. -/
  | rowMarkerReceive (ln : LinkLane) (m : Marker) (arrived : BitVec 64)
  /-- LINK_ACK_MESSAGE (R128): A link-acknowledgement message on the control network acknowledges a switched or unpartnered lane. -/
  | linkAckMessage (lane : Lane)
  /-- LANE_UP (R135): A lane pair that has seen good markers and 64 good TRAIN frames enters Up at one boundary. -/
  | laneUp (lane : Lane)
  /-- TRAINING_TIMEOUT (R135): A lane not Up within 64 rows of training is fenced with code 0x9. -/
  | trainingTimeout (lane : Lane)
  /-- PATTERN_GO (R139): LANE.PAT_CTRL.GO books a pattern run on the selected lane. -/
  | patternGo (req : Requester) (site : Fin 24) (v : BitVec 32)
  /-- PATTERN_STOP (R139): LANE.PAT_CTRL.STOP ends the pattern run at the next row boundary. -/
  | patternStop (req : Requester) (site : Fin 24) (v : BitVec 32)
  /-- INJECT_GO (R140): LANE.INJ.GO arms one error injection on a lane. -/
  | injectGo (req : Requester) (site : Fin 24) (v : BitVec 32)
  /-- STITCH_ENTRY (R151): A source adapter builds a stitch from a request, checks it and makes it outstanding or refuses it. -/
  | stitchEntry (site : Fin 24) (ctx : IssueCtx) (top : Fin 64) (req : Stitch)
  /-- STITCH_ARRIVAL (R152): A destination adapter checks an arriving stitch, performs or delivers it and answers. -/
  | stitchArrival (site : Fin 32) (plane : Fin 64) (k : Fin 64) (ecc : Fin 3) (st : Stitch)
  /-- ACK_SEND (R156): A coalesced ACK or NACK is sent when ACK_DELAY has passed or the window is full. -/
  | ackSend (site : Fin 32)
  /-- ANSWER_ARRIVAL (R158): An answer is matched to its outstanding stitch and counted, or discarded as late. -/
  | answerArrival (site : Fin 32) (plane : Fin 64) (k : Fin 64) (st : Stitch)
  /-- E2E_TIMEOUT (R158): An outstanding stitch without answer after E2E_TIMEOUT rows completes TIMEOUT. -/
  | e2eTimeout (site : Fin 32) (node : Fin 4096) (tenant : Fin 16) (seq : BitVec 16)
  /-- CREDIT_RETURN (R168): A destination returns freed ingress credits in a batch of 64 or after 128 cycles. -/
  | creditReturn (src : Fin 24) (dst : Fin 24) (pool : Fin 2)
  /-- MSG_TIMEOUT (R172): A refusal-cache entry or an incomplete slot older than MSG_TIMEOUT rows is freed or discarded. -/
  | msgTimeout (site : Fin 24)
  /-- STREAM_RESULT (R173): Once STREAM_END and all its STREAM_DATA have landed, the requester writes the result block and completes. -/
  | streamResult (site : Fin 24) (node : Fin 4096) (tenant : Fin 16) (seq : BitVec 16)
  /-- RQ_CFG_WRITE (R170): A write of SITE.RQ_CFG_q is applied or ignored by the queue's enable and overlap rules. -/
  | rqCfgWrite (req : Requester) (site : Fin 24) (q : Fin 64) (base : Bool) (v : BitVec 32)
  /-- SHARE_WRITE (R167): A SHARE write is checked against the sum of shares and accepted or ignored. -/
  | shareWrite (req : Requester) (t : Fin 16) (v : BitVec 32)
  /-- ARM_GO (R183): CIRC.ARM_t.GO arms a circuit pattern for a tenant after checking it. -/
  | armGo (req : Requester) (t : Fin 16) (v : BitVec 32)
  /-- ARM_CANCEL (R183): CIRC.ARM_t.CANCEL cancels an armed, untriggered pattern. -/
  | armCancel (req : Requester) (t : Fin 16) (v : BitVec 32)
  /-- PATTERN_TRIGGER (R183): An armed pattern triggers at once, at its row or when its sync count reaches VALUE. -/
  | patternTrigger (t : Fin 16)
  /-- PATTERN_APPLY (R184): At its target boundary a triggered pattern applies if its changing circuits have drained, or is deferred or forced. -/
  | patternApply (t : Fin 16)
  /-- ALLOT_WRITE (R179): A write of CIRC.ALLOT_e is applied or ignored when the plane stands or is named by an armed pattern. -/
  | allotWrite (req : Requester) (e : Fin 112) (v : BitVec 32)
  /-- PAT_WRITE (R182): A write to a pattern header or entry is ignored while that pattern is armed. -/
  | patWrite (req : Requester) (p : Fin 64) (e : Option (Fin 112)) (v : BitVec 32)
  /-- RUN_REQUEST (R189): A holder's adapter opens a push run on a standing circuit and deals its groups to lanes. -/
  | runRequest (site : Fin 24) (ctx : IssueCtx) (req : Stitch) (src : BitVec 46) (srcLocal : Bool)
  /-- RUN_WAIT_TIMEOUT (R189): A run request without a standing circuit for RUN_WAIT rows completes NO_PATH. -/
  | runWaitTimeout (site : Fin 24)
  /-- RUN_COMPLETE (R192): A run completes and is answered once every block landed or an error ended it. -/
  | runComplete (site : Fin 24) (e : Fin 144) (runNo : Fin 256)
  /-- REDEAL (R193): A lane leaving a run deal makes both ends re-deal its lost groups to the remaining lanes. -/
  | redeal (e : Fin 144) (k : Fin 40)
  /-- PORT_ASSIGN_GO (R196): CIRC.PORT_ASSIGN_j.GO reserves port data lanes for a tenant's circuits after agreement with the partner. -/
  | portAssignGo (req : Requester) (j : Fin 16) (v : BitVec 32) (agreed : Bool)
  /-- PORT_LIGHT_DROP (R209): Port input power more than 6 dB low makes every receive loop of the port hold. -/
  | portLightDrop (j : Fin 16) (dataIn : BitVec 16) (loIn : BitVec 16)
  /-- PORT_LIGHT_RETURN (R209): Power returning within 1.2 µs resumes the held loops. -/
  | portLightReturn (j : Fin 16) (dataIn : BitVec 16) (loIn : BitVec 16)
  /-- PORT_DOWN (R220): A port goes down, stops accepting frames, sends TRAIN frames and PORT_STATE, and hands off held stitches. -/
  | portDown (j : Fin 16) (code : Fin 16)
  /-- PORT_STATE_ARRIVAL (R220): The partner's PORT_STATE frees accepted frames and reissues the later stitches through routing. -/
  | portStateArrival (st : Stitch)
  /-- RECORD_WAIT_TIMEOUT (R220): No PORT_STATE within RECORD_WAIT rows answers the held stitches UNREACHABLE. -/
  | recordWaitTimeout (j : Fin 16)
  /-- PORT_TRAIN_START (R214): An enabled port with light on both inputs starts training. -/
  | portTrainStart (j : Fin 16) (dataIn : BitVec 16) (loIn : BitVec 16)
  /-- PORT_UP (R214): Both ends name a boundary at which lanes enter Up or Standby and the port is Up. -/
  | portUp (j : Fin 16) (node : Fin 4096) (site : Fin 24) (port : Fin 16) (maxLevel : BitVec 8) (minLevel : BitVec 8) (bad : List (Fin 40 × Bool))
  /-- PORT_TRAIN_TIMEOUT (R214): A port not Up 20 ms after light restarts training, and after three restarts is held down. -/
  | portTrainTimeout (j : Fin 16)
  /-- PORT_RETRAIN (R221): EDGE.CTRL.RETRAIN releases a held port and trains it. -/
  | portRetrain (req : Requester) (j : Fin 16) (v : BitVec 32)
  /-- PORT_DOWN_CMD (R246): EDGE.CTRL.DOWN sends a DEPARTURE and takes the port down and holds it under code 0x6. -/
  | portDownCmd (req : Requester) (j : Fin 16) (v : BitVec 32)
  /-- SPARE_REQ (R216): A received SPARE_REQ makes the sending end resend the lane's frames on the spare from boundary ROW. -/
  | spareReq (j : Fin 16) (lane : Fin 40) (carrier : Fin 40) (row : BitVec 48)
  /-- SPARE_GRANT (R215): A received SPARE_GRANT confirms the spare change. -/
  | spareGrant (j : Fin 16) (lane : Fin 40) (carrier : Fin 40) (row : BitVec 48)
  /-- SPARE_REFUSE (R216): A received SPARE_REFUSE makes the receiving end request the next free spare. -/
  | spareRefuse (j : Fin 16) (lane : Fin 40) (carrier : Fin 40) (row : BitVec 48)
  /-- TX_FAULT (R216): A received TX_FAULT makes the receiving end spare the named lane. -/
  | txFault (j : Fin 16) (lane : Fin 40)
  /-- CAL_REQ (R217): A received CAL_REQ moves a lane to a spare for calibration or a pattern run. -/
  | calReq (j : Fin 16) (lane : Fin 40) (carrier : Fin 40) (row : BitVec 48)
  /-- CAL_GRANT (R215): A received CAL_GRANT confirms the calibration move. -/
  | calGrant (j : Fin 16) (lane : Fin 40) (carrier : Fin 40) (row : BitVec 48)
  /-- CAL_END (R217): A received CAL_END returns the lane from its calibration spare. -/
  | calEnd (j : Fin 16) (lane : Fin 40) (carrier : Fin 40) (row : BitVec 48)
  /-- REDEAL_LINK_MESSAGE (R222): A received REDEAL link message gives the last accepted sequence of a port deal lane. -/
  | redealLinkMessage (j : Fin 16) (lane : Fin 40) (lastSeq : BitVec 16) (runNo : BitVec 8)
  /-- EDGE_PATTERN_GO (R217): EDGE.PAT_CTRL.GO books a pattern run on a port lane. -/
  | edgePatternGo (req : Requester) (j : Fin 16) (v : BitVec 32)
  /-- EDGE_INJECT_GO (R140): EDGE.INJ.GO arms one error injection on a port lane. -/
  | edgeInjectGo (req : Requester) (j : Fin 16) (v : BitVec 32)
  /-- EDGE_FORWARD (R230): A stitch at the head of an edge site's queue is placed on the least-deep candidate port with credit. -/
  | edgeForward (e : Fin 4) (node : Fin 4096) (pool : Fin 3)
  /-- ESCAPE_TIMEOUT (R236): A stitch lacking adaptive credit for ESC_WAIT moves to the escape channel. -/
  | escapeTimeout (e : Fin 4) (node : Fin 4096) (control : Bool)
  /-- DETOUR_TIMEOUT (R240): DETOUR_WAIT rows without a candidate declare a node unreachable and answer its stitches. -/
  | detourTimeout (node : Fin 4096)
  /-- DEPTH_PUBLISH (R231): Every 256 cycles each edge site publishes its port depths and detour count. -/
  | depthPublish (e : Fin 4)
  /-- NODE_STATE_WRITE (R241): A write of ROUTE.NODE_STATE_n sets reachability and an override by its rules. -/
  | nodeStateWrite (req : Requester) (n : Fin 4096) (v : BitVec 32)
  /-- DEPARTURE_ARRIVAL (R220): A DEPARTURE from the partner takes the port down under code 0x5 without a failure. -/
  | departureArrival (j : Fin 16) (st : Stitch)
  /-- DEPARTURE_DARK_ROW (R246): At the dark row the departing port's transmitters go dark. -/
  | departureDarkRow (j : Fin 16)
  /-- PARTIAL_FLUSH_TIMEOUT (R268): A partial held FLUSH_ROWS rows is released at the next boundary. -/
  | partialFlushTimeout (unit : Fin 12) (ecc : Fin 3)
  /-- DET_WAIT_TIMEOUT (R273): A deterministic slot held DET_WAIT rows lands what it holds with DET_PARTIAL. -/
  | detWaitTimeout (n : Fin 8) (ecc : Fin 3)
  /-- MC_COPY_PLACE (R277): Multicast copies are placed once a credit is held on every child port. -/
  | mcCopyPlace (e : Fin 4)
  /-- RED_CTX_ALLOC (R279): Allocates and enables a reduction context. -/
  | redCtxAlloc (src : CmdSrc) (idx : BitVec 16)
  /-- RED_CTX_FLUSH (R279): Releases every partial or lands every slot of a context. -/
  | redCtxFlush (src : CmdSrc) (idx : BitVec 16)
  /-- RED_CTX_FREE (R279): Frees a reduction context unless it is busy. -/
  | redCtxFree (src : CmdSrc) (idx : BitVec 16)
  /-- MC_ALLOC (R274): The group home allocates the lowest free multicast group ID. -/
  | mcAlloc (src : CmdSrc) (idx : BitVec 16)
  /-- MC_FREE (R279): The group home frees a multicast group ID. -/
  | mcFree (src : CmdSrc) (idx : BitVec 16)
  /-- MC_SET (R275): Writes a checked group-table entry. -/
  | mcSet (src : CmdSrc) (idx : BitVec 16)
  /-- MC_CLEAR (R279): Disables a group-table entry. -/
  | mcClear (src : CmdSrc) (idx : BitVec 16)
  /-- SYNC_READ (R285): SYNC_OP READ returns the object unchanged. -/
  | syncRead (st : Stitch)
  /-- SYNC_ADD (R285): SYNC_OP ADD adds VALUE to COUNT. -/
  | syncAdd (st : Stitch)
  /-- SYNC_SET (R285): SYNC_OP SET sets COUNT and clears ERROR. -/
  | syncSet (st : Stitch)
  /-- SYNC_ARM (R285): SYNC_OP ARM sets TARGET and clears COUNT, ERROR and DONE. -/
  | syncArm (st : Stitch)
  /-- SYNC_WAIT (R286): SYNC_OP WAIT is answered when its condition holds or is held in the wait table. -/
  | syncWait (st : Stitch)
  /-- SYNC_ARRIVE (R285): SYNC_OP ARRIVE counts a barrier arrival and advances the generation when complete. -/
  | syncArrive (st : Stitch)
  /-- SYNC_SET_PARTIES (R285): SYNC_OP SET_PARTIES sets a barrier's parties unless a generation is in progress. -/
  | syncSetParties (st : Stitch)
  /-- SYNC_ACQUIRE (R288): SYNC_OP ACQUIRE grants a free lock with an optional lease, or answers BUSY. -/
  | syncAcquire (st : Stitch)
  /-- SYNC_RELEASE (R288): SYNC_OP RELEASE frees a lock held by the owner and answers FREE waits. -/
  | syncRelease (st : Stitch)
  /-- SYNC_RENEW (R288): SYNC_OP RENEW moves the owner's lease expiry. -/
  | syncRenew (st : Stitch)
  /-- COUNT_LANDING (R292): A count landing adds to a counter, records its error and re-evaluates waits and sync triggers. -/
  | countLanding (site : Fin 24) (obj : Fin 65536) (inc : Nat) (status : Nat)
  /-- WAIT_LIMIT (R286): A held wait reaching its row limit is answered WAIT_LIMIT. -/
  | waitLimit (obj : Fin 65536)
  /-- LEASE_EXPIRY (R289): A lock whose lease reaches EXPIRY is abandoned at that boundary. -/
  | leaseExpiry (obj : Fin 65536)
  /-- LOCK_ABANDON (R289): A lock is abandoned on an owner reset or unreachable owner, answering FREE waits ABANDONED. -/
  | lockAbandon (obj : Fin 65536)
  /-- SYNC_ALLOC (R290): Assigns a run of contiguous sync objects to a tenant. -/
  | syncAlloc (src : CmdSrc) (idx : BitVec 16)
  /-- SYNC_FREE (R290): Frees sync objects unless any is busy or foreign. -/
  | syncFree (src : CmdSrc) (idx : BitVec 16)
  /-- CONTROL_NET_UNCORR (R293): A control-network message with an uncorrectable flit is discarded, counted and reported. -/
  | controlNetUncorr (stop : Fin 27) (m : NetMessage)
  /-- TIME_EXCH_SEND (R296): Every EXCH_ROWS rows each port end sends a TIME_EXCH stitch. -/
  | timeExchSend (j : Fin 16) (ttx : BitVec 64) (rs : BitVec 48) (trx : BitVec 64) (rp : BitVec 48)
  /-- TIME_EXCH_ARRIVAL (R297): A received TIME_EXCH updates offset, link delay and the fabric-clock steer. -/
  | timeExchArrival (j : Fin 16) (st : Stitch) (t2 : BitVec 64) (t3 : BitVec 64)
  /-- HOLDOVER_TIMEOUT (R299): After HOLDOVER seconds a package may become source or enter free-run. -/
  | holdoverTimeout
  /-- OBJ_W0_LO_READ (R4): A read of SYN.OBJ_W0_LO snapshots the selected object's 16 bytes into the requester's latch. -/
  | objW0LoRead (req : Requester)
  /-- EPUSH (R317): Pushes a scratch descriptor onto an engine queue and returns its ticket. -/
  | epush (die : Fin 8) (core : Fin 136) (slot : Fin 64) (tid : Fin 2048) (rd : Fin 32) (rs1 : Fin 32) (rs2 : Fin 32)
  /-- EPOLL (R320): Returns a ticket's status, or pending. -/
  | epoll (die : Fin 8) (core : Fin 136) (slot : Fin 64) (tid : Fin 2048) (rd : Fin 32) (rs1 : Fin 32) (rs2 : Fin 32)
  /-- EWAIT (R320): Suspends the thread until a ticket is done and returns its status. -/
  | ewait (die : Fin 8) (core : Fin 136) (slot : Fin 64) (tid : Fin 2048) (rd : Fin 32) (rs1 : Fin 32) (rs2 : Fin 32)
  /-- TBAR (R317): Suspends the thread until every live thread of the block has executed TBAR. -/
  | tbar (die : Fin 8) (core : Fin 136) (slot : Fin 64) (tid : Fin 2048)
  /-- FWSET (R314): Sets or clears a far window of the thread's block. -/
  | fwset (die : Fin 8) (core : Fin 136) (slot : Fin 64) (tid : Fin 2048) (w : Fin 16) (rs1 : Fin 32) (rs2 : Fin 32)
  /-- FENCE_G (R315): Waits for the thread's far stores and atomics and returns and clears FARERR. -/
  | fenceG (die : Fin 8) (core : Fin 136) (slot : Fin 64) (tid : Fin 2048) (rd : Fin 32)
  /-- SOP_READ (R318): SOP builds a SYNC_OP READ and returns COUNT. -/
  | sopRead (die : Fin 8) (core : Fin 136) (slot : Fin 64) (tid : Fin 2048) (rd : Fin 32) (rs1 : Fin 32)
  /-- SOP_ADD (R318): SOP builds a SYNC_OP ADD. -/
  | sopAdd (die : Fin 8) (core : Fin 136) (slot : Fin 64) (tid : Fin 2048) (rd : Fin 32) (rs1 : Fin 32) (rs2 : Fin 32)
  /-- SOP_SET (R318): SOP builds a SYNC_OP SET. -/
  | sopSet (die : Fin 8) (core : Fin 136) (slot : Fin 64) (tid : Fin 2048) (rd : Fin 32) (rs1 : Fin 32) (rs2 : Fin 32)
  /-- SOP_WAIT (R318): SOP builds a SYNC_OP WAIT GE. -/
  | sopWait (die : Fin 8) (core : Fin 136) (slot : Fin 64) (tid : Fin 2048) (rd : Fin 32) (rs1 : Fin 32) (rs2 : Fin 32)
  /-- SOP_ARRIVE (R318): SOP builds a SYNC_OP ARRIVE. -/
  | sopArrive (die : Fin 8) (core : Fin 136) (slot : Fin 64) (tid : Fin 2048) (rd : Fin 32) (rs1 : Fin 32) (flag : Bool)
  /-- SOP_ACQUIRE (R318): SOP builds a SYNC_OP ACQUIRE. -/
  | sopAcquire (die : Fin 8) (core : Fin 136) (slot : Fin 64) (tid : Fin 2048) (rd : Fin 32) (rs1 : Fin 32) (rs2 : Fin 32)
  /-- SOP_RELEASE (R318): SOP builds a SYNC_OP RELEASE. -/
  | sopRelease (die : Fin 8) (core : Fin 136) (slot : Fin 64) (tid : Fin 2048) (rd : Fin 32) (rs1 : Fin 32) (flag : Bool)
  /-- SOP_RENEW (R318): SOP builds a SYNC_OP RENEW. -/
  | sopRenew (die : Fin 8) (core : Fin 136) (slot : Fin 64) (tid : Fin 2048) (rd : Fin 32) (rs1 : Fin 32) (rs2 : Fin 32)
  /-- TEXIT (R317): Ends the thread. -/
  | texit (die : Fin 8) (core : Fin 136) (slot : Fin 64) (tid : Fin 2048)
  /-- AMO_W (R317): Performs a 4-byte atomic at a thread address and returns the old value. -/
  | amoW (die : Fin 8) (core : Fin 136) (slot : Fin 64) (tid : Fin 2048) (fn : Fin 32) (rd : Fin 32) (rs1 : Fin 32) (rs2 : Fin 32)
  /-- AMO_D (R317): Performs an 8-byte atomic at a thread address and returns the old value. -/
  | amoD (die : Fin 8) (core : Fin 136) (slot : Fin 64) (tid : Fin 2048) (fn : Fin 32) (rd : Fin 32) (rs1 : Fin 32) (rs2 : Fin 32)
  /-- FADD_DP (R317): FP64 add of register pairs. -/
  | faddDp (die : Fin 8) (core : Fin 136) (slot : Fin 64) (tid : Fin 2048) (rd : Fin 32) (rs1 : Fin 32) (rs2 : Fin 32)
  /-- FSUB_DP (R317): FP64 subtract of register pairs. -/
  | fsubDp (die : Fin 8) (core : Fin 136) (slot : Fin 64) (tid : Fin 2048) (rd : Fin 32) (rs1 : Fin 32) (rs2 : Fin 32)
  /-- FMUL_DP (R317): FP64 multiply of register pairs. -/
  | fmulDp (die : Fin 8) (core : Fin 136) (slot : Fin 64) (tid : Fin 2048) (rd : Fin 32) (rs1 : Fin 32) (rs2 : Fin 32)
  /-- FMAC_DP (R317): FP64 fused multiply-add of register pairs. -/
  | fmacDp (die : Fin 8) (core : Fin 136) (slot : Fin 64) (tid : Fin 2048) (rd : Fin 32) (rs1 : Fin 32) (rs2 : Fin 32)
  /-- FDIV_DP (R317): FP64 divide of register pairs. -/
  | fdivDp (die : Fin 8) (core : Fin 136) (slot : Fin 64) (tid : Fin 2048) (rd : Fin 32) (rs1 : Fin 32) (rs2 : Fin 32)
  /-- FSQRT_DP (R317): FP64 square root of a register pair. -/
  | fsqrtDp (die : Fin 8) (core : Fin 136) (slot : Fin 64) (tid : Fin 2048) (rd : Fin 32) (rs1 : Fin 32)
  /-- FMIN_DP (R317): FP64 minimumNumber of register pairs. -/
  | fminDp (die : Fin 8) (core : Fin 136) (slot : Fin 64) (tid : Fin 2048) (rd : Fin 32) (rs1 : Fin 32) (rs2 : Fin 32)
  /-- FMAX_DP (R317): FP64 maximumNumber of register pairs. -/
  | fmaxDp (die : Fin 8) (core : Fin 136) (slot : Fin 64) (tid : Fin 2048) (rd : Fin 32) (rs1 : Fin 32) (rs2 : Fin 32)
  /-- FCVT_S_DP (R317): Converts an FP64 pair to FP32. -/
  | fcvtSDp (die : Fin 8) (core : Fin 136) (slot : Fin 64) (tid : Fin 2048) (rd : Fin 32) (rs1 : Fin 32)
  /-- FCVT_DP_S (R317): Converts FP32 to an FP64 pair. -/
  | fcvtDpS (die : Fin 8) (core : Fin 136) (slot : Fin 64) (tid : Fin 2048) (rd : Fin 32) (rs1 : Fin 32)
  /-- FCVT_DP_W (R317): Converts a signed integer to an FP64 pair. -/
  | fcvtDpW (die : Fin 8) (core : Fin 136) (slot : Fin 64) (tid : Fin 2048) (rd : Fin 32) (rs1 : Fin 32)
  /-- FCVT_W_DP (R317): Converts an FP64 pair to a saturated signed integer. -/
  | fcvtWDp (die : Fin 8) (core : Fin 136) (slot : Fin 64) (tid : Fin 2048) (rd : Fin 32) (rs1 : Fin 32)
  /-- FEQ_DP (R317): Compares FP64 pairs for equality. -/
  | feqDp (die : Fin 8) (core : Fin 136) (slot : Fin 64) (tid : Fin 2048) (rd : Fin 32) (rs1 : Fin 32) (rs2 : Fin 32)
  /-- FLT_DP (R317): Compares FP64 pairs for less-than. -/
  | fltDp (die : Fin 8) (core : Fin 136) (slot : Fin 64) (tid : Fin 2048) (rd : Fin 32) (rs1 : Fin 32) (rs2 : Fin 32)
  /-- FLE_DP (R317): Compares FP64 pairs for less-or-equal. -/
  | fleDp (die : Fin 8) (core : Fin 136) (slot : Fin 64) (tid : Fin 2048) (rd : Fin 32) (rs1 : Fin 32) (rs2 : Fin 32)
  /-- THREAD_INSTRUCTION (R311): A thread executes a standard RISC-V instruction of its instruction set. -/
  | threadInstruction (die : Fin 8) (core : Fin 136) (slot : Fin 64) (tid : Fin 2048) (w : BitVec 32)
  /-- FAR_ANSWER (R315): A far access answer writes data to the thread or records an error in FARERR. -/
  | farAnswer (die : Fin 8) (core : Fin 136) (slot : Fin 64) (tid : Fin 2048)
  /-- THREAD_EXCEPTION (R332): A thread exception stops its block, records the cause and fails the launch. -/
  | threadException (die : Fin 8) (core : Fin 136) (slot : Fin 64) (tid : Fin 2048) (cause : Fin 7) (addr : BitVec 32)
  /-- CORE_FAULT (R305): An uncorrectable core error fences the core, stops its threads and fails its descriptors. -/
  | coreFault (die : Fin 8) (core : Fin 136) (engine : Option (Fin 6))
  /-- SRAM_PAGE_RETIRE (R307): An uncorrectable stacked SRAM error retires its 4 KiB page. -/
  | sramPageRetire (die : Fin 8) (page : Fin 262144)
  /-- QP_FAULT (R330): A queue processor's uncorrectable error fences it and fails its queues. -/
  | qpFault (die : Fin 8) (n : Fin 4)
  /-- BLOCK_PLACE (R331): A waiting block is placed on the lowest named core with room. -/
  | blockPlace (src : CmdSrc) (idx : BitVec 16)
  /-- BLOCK_END (R331): A block ends when all its threads have executed TEXIT. -/
  | blockEnd (die : Fin 8) (core : Fin 136) (slot : Fin 64)
  /-- CORE_HALT (R333): CMP.CORE_CTRL_k.HALT stops instruction issue of the core. -/
  | coreHalt (req : Requester) (die : Fin 8) (core : Fin 136) (breakHalt : Bool)
  /-- CORE_RESUME (R333): CMP.CORE_CTRL_k.RESUME restarts issue. -/
  | coreResume (req : Requester) (die : Fin 8) (core : Fin 136) (breakHalt : Bool)
  /-- CORE_ERR_CLEAR (R320): CMP.CORE_CTRL_k.ERR_CLEAR clears CORE_ERR and every queue's FIRST_ERR. -/
  | coreErrClear (req : Requester) (die : Fin 8) (core : Fin 136) (breakHalt : Bool)
  /-- DESCRIPTOR_COMPLETE (R321): A descriptor completes with its status, counts at SYNC and may put the queue into skip. -/
  | descriptorComplete (die : Fin 8) (core : Fin 136) (q : Fin 8)
  /-- ENGINE_NOP (R321): An engine NOP completes OK and clears a queue's skip. -/
  | engineNop (die : Fin 8) (core : Fin 136) (q : Fin 8)
  /-- SFE_EXP (R323): SFE computes e^x. -/
  | sfeExp (die : Fin 8) (core : Fin 136)
  /-- SFE_LN (R323): SFE computes ln x. -/
  | sfeLn (die : Fin 8) (core : Fin 136)
  /-- SFE_RECIP (R323): SFE computes 1/x. -/
  | sfeRecip (die : Fin 8) (core : Fin 136)
  /-- SFE_RSQRT (R323): SFE computes 1/√x. -/
  | sfeRsqrt (die : Fin 8) (core : Fin 136)
  /-- SFE_SIGMOID (R323): SFE computes the logistic function. -/
  | sfeSigmoid (die : Fin 8) (core : Fin 136)
  /-- SFE_TANH (R323): SFE computes tanh x. -/
  | sfeTanh (die : Fin 8) (core : Fin 136)
  /-- SFE_GELU (R323): SFE computes GELU. -/
  | sfeGelu (die : Fin 8) (core : Fin 136)
  /-- SFE_ROWMAX (R323): SFE writes each row's maximum to AUX and copies the data. -/
  | sfeRowmax (die : Fin 8) (core : Fin 136)
  /-- SFE_EXPSUM (R323): SFE computes shifted exponentials and their row sums. -/
  | sfeExpsum (die : Fin 8) (core : Fin 136)
  /-- SFE_SCALE (R323): SFE multiplies elements by SCALE. -/
  | sfeScale (die : Fin 8) (core : Fin 136)
  /-- GATHER (R324): GSE gathers indexed elements into scratch. -/
  | gather (die : Fin 8) (core : Fin 136)
  /-- SCATTER (R324): GSE scatters scratch elements to indexed targets. -/
  | scatter (die : Fin 8) (core : Fin 136)
  /-- SCATTER_ADD (R324): GSE adds scratch elements into indexed targets. -/
  | scatterAdd (die : Fin 8) (core : Fin 136)
  /-- DME_COPY (R325): DME copies a region by stitches or runs. -/
  | dmeCopy (die : Fin 8) (core : Fin 136) (n : Fin 3)
  /-- DME_REDUCE (R325): DME sends a region as REDUCE stitches. -/
  | dmeReduce (die : Fin 8) (core : Fin 136) (n : Fin 3)
  /-- DME_MCAST (R327): DME sends a region as MC_STORE to a group. -/
  | dmeMcast (die : Fin 8) (core : Fin 136) (n : Fin 3)
  /-- DME_STREAM (R328): DME streams data into a ring governed by a release counter. -/
  | dmeStream (die : Fin 8) (core : Fin 136) (n : Fin 3)
  /-- DME_FILL (R325): DME writes a repeated pattern over the destination. -/
  | dmeFill (die : Fin 8) (core : Fin 136) (n : Fin 3)
  /-- DME_ATOMIC (R329): DME performs one atomic on a global address and writes the old value to scratch. -/
  | dmeAtomic (die : Fin 8) (core : Fin 136) (n : Fin 3)
  /-- MMA (R345): MXE adds A × B into an accumulator tile in ascending k groups. -/
  | mma (die : Fin 8) (core : Fin 136)
  /-- ACC_LOAD (R348): MXE loads a tile from scratch and sets its kind. -/
  | accLoad (die : Fin 8) (core : Fin 136)
  /-- ACC_STORE (R349): MXE converts and writes a tile to scratch with scaling and rounding. -/
  | accStore (die : Fin 8) (core : Fin 136)
  /-- ENCODE (R369): SPE converts a dense region to a block-sparse panel. -/
  | encode (die : Fin 8) (core : Fin 136)
  /-- DECODE (R368): SPE converts a panel to a dense region. -/
  | decode (die : Fin 8) (core : Fin 136)
  /-- PRUNE24 (R368): SPE prunes dense rows to 2:4 compressed rows and metadata. -/
  | prune24 (die : Fin 8) (core : Fin 136)
  /-- EXPAND24 (R368): SPE expands 2:4 compressed rows to dense rows. -/
  | expand24 (die : Fin 8) (core : Fin 136)
  /-- ROUTE (R373): TKE ranks experts per token, admits slots against capacity and writes weights and dispatch lists. -/
  | route (die : Fin 8) (core : Fin 136)
  /-- PATROL_PASS (R386): A patrol pass reads and checks every populated half-line and retires pseudo-channels with uncorrectable errors. -/
  | patrolPass (n : Fin 8) (corrected : List (BitVec 40)) (bad : List (BitVec 40))
  /-- RECALL_TIMEOUT (R397): A recall unanswered for 1 µs takes the memory site's own copy and reports a fault. -/
  | recallTimeout (site : Fin 24) (die : Fin 2) (line : BitVec 46)
  /-- ZEROING_DONE (R390): Zeroing of a page ends and accesses waiting on it proceed. -/
  | zeroingDone (frame : Fin 524288)
  /-- FILL_S (R403): A processor LOAD with FILL_S reads a shared copy. -/
  | fillS (site : Fin 32) (plane : Fin 64) (k : Fin 64) (ecc : Fin 3) (st : Stitch)
  /-- FILL_M (R403): A processor LOAD with FILL_M reads a modified copy, recalling others. -/
  | fillM (site : Fin 32) (plane : Fin 64) (k : Fin 64) (ecc : Fin 3) (st : Stitch)
  /-- WB (R403): A processor STORE with WB writes back a modified line and leaves the filter. -/
  | wb (site : Fin 32) (plane : Fin 64) (k : Fin 64) (st : Stitch)
  /-- RECALL_INV (R403): A recall asks a processor die to give up a line. -/
  | recallInv (site : Fin 24) (die : Fin 2) (line : BitVec 46)
  /-- RECALL_SHARE (R403): A recall asks a processor die to keep a line shared. -/
  | recallShare (site : Fin 24) (die : Fin 2) (line : BitVec 46)
  /-- RECALL_RESPONSE (R403): A processor's LOAD_RSP answers a recall with DIRTY or NOT_HELD. -/
  | recallResponse (site : Fin 24) (die : Fin 2) (st : Stitch)
  /-- RQ_POP (R405): A read of RQ_POP_q removes the oldest complete message and returns its fields. -/
  | rqPop (die : Fin 2) (core : Fin 96) (q : Fin 64)
  /-- RQ_FREE (R405): A write of RQ_FREE_q frees a popped slot or is counted as an error. -/
  | rqFree (die : Fin 2) (core : Fin 96) (q : Fin 64) (v : BitVec 64)
  /-- HART_FAULT (R400): An uncorrectable processor error fences a hart or die. -/
  | hartFault (die : Fin 2) (core : Option (Fin 96))
  /-- SURPRISE_DOWN (R408): A surprise link down is contained by DPC. -/
  | surpriseDown (r : Fin 16)
  /-- CLKOUT_WRITE (R413): A write of HIO.CLKOUT_c is accepted or ignored when it would spread a common-clock slot's clock. -/
  | clkoutWrite (req : Requester) (o : Fin 2) (v : BitVec 32)
  /-- CLKOUT_PERIOD_END (R412): At the end of a modulation period new DEPTH and RATE take effect. -/
  | clkoutPeriodEnd (o : Fin 2)
  /-- SLOT_CFG_WRITE (R413): A write of HIO.SLOT_CFG_s applies static fields only while stopped and refuses spread clocks. -/
  | slotCfgWrite (req : Requester) (sl : Fin 4) (v : BitVec 32)
  /-- QUEUE_TAIL_WRITE (R417): A write of a queue's TAIL adds packets or is ignored and counted. -/
  | queueTailWrite (req : Requester) (src : CmdSrc) (v : BitVec 32)
  /-- PACKET_FETCH (R417): The package fetches the next command packet while room allows. -/
  | packetFetch (src : CmdSrc)
  /-- COMMAND_COMPLETE (R421): A command writes its status record, applies its count and advances the completion count. -/
  | commandComplete (src : CmdSrc) (idx : BitVec 16)
  /-- CMD_NOP (R425): Command NOP completes OK. -/
  | cmdNop (src : CmdSrc) (idx : BitVec 16)
  /-- LAUNCH (R331): Command LAUNCH places blocks of threads on named cores. -/
  | launch (src : CmdSrc) (idx : BitVec 16)
  /-- DMA (R426): Command DMA pushes a DME descriptor onto a core's queue 7. -/
  | dma (src : CmdSrc) (idx : BitVec 16)
  /-- WAIT (R426): Command WAIT waits on a sync object condition. -/
  | wait (src : CmdSrc) (idx : BitVec 16)
  /-- SIGNAL (R426): Command SIGNAL applies ADD, SET or ARRIVE to a sync object. -/
  | signal (src : CmdSrc) (idx : BitVec 16)
  /-- GET_VERSION (R428): Returns the interface and image versions. -/
  | getVersion (src : CmdSrc) (idx : BitVec 16)
  /-- CQ_CREATE (R416): Creates a compute or management command queue. -/
  | cqCreate (src : CmdSrc) (idx : BitVec 16)
  /-- CQ_DESTROY (R416): Destroys a command queue. -/
  | cqDestroy (src : CmdSrc) (idx : BitVec 16)
  /-- FM_SEND (R430): Sends a command packet to another node's service as FM_CMD. -/
  | fmSend (src : CmdSrc) (idx : BitVec 16)
  /-- INSTALL_SAVE (R438): Writes the installer tables to the installer area. -/
  | installSave (src : CmdSrc) (idx : BitVec 16)
  /-- SEC_KEY_SET (R436): Writes an installer public key slot. -/
  | secKeySet (src : CmdSrc) (idx : BitVec 16)
  /-- FW_STAGE (R440): Writes image bytes into the slot that did not boot. -/
  | fwStage (src : CmdSrc) (idx : BitVec 16)
  /-- FW_COMMIT (R440): Verifies the staged slot and writes a trial boot order. -/
  | fwCommit (src : CmdSrc) (idx : BitVec 16)
  /-- FW_ACTIVATE (R440): Departs, binds off and starts a full cast-on on the new image. -/
  | fwActivate (src : CmdSrc) (idx : BitVec 16)
  /-- FW_RATCHET (R441): Blows fuses to raise the anti-rollback count. -/
  | fwRatchet (src : CmdSrc) (idx : BitVec 16)
  /-- BIND_OFF (R446): Runs the orderly shutdown sequence. -/
  | bindOff (src : CmdSrc) (idx : BitVec 16)
  /-- BIND_OFF_GRACE_EXPIRY (R446): At GRACE, partitions whose jobs have not ended are reset and DEPARTUREs follow. -/
  | bindOffGraceExpiry
  /-- BIND_OFF_HOST_WAIT_EXPIRY (R446): At HOST_WAIT, running harts are held in reset and rails are lowered. -/
  | bindOffHostWaitExpiry
  /-- PKG_RESET (R447): Command PKG_RESET binds off and runs a full cast-on. -/
  | pkgReset (src : CmdSrc) (idx : BitVec 16)
  /-- FM_CMD_ARRIVAL (R429): An FM_CMD stitch is accepted and run as an admin command, or discarded. -/
  | fmCmdArrival (st : Stitch)
  /-- NOTICE_ARRIVAL (R430): A notice or FM_REPLY is written into the notice ring or dropped when it is full. -/
  | noticeArrival (st : Stitch)
  /-- EMULATED_ACCESS (R431): PCU firmware serves an access to an emulated register. -/
  | emulatedAccess
  /-- AUTH_CHALLENGE (R435): SEC.AUTH_CTRL.CHALLENGE makes a new nonce and clears SIG. -/
  | authChallenge (req : Requester) (v : BitVec 32)
  /-- AUTH_VERIFY (R435): SEC.AUTH_CTRL.VERIFY checks the signature and opens a session or counts a failure. -/
  | authVerify (req : Requester) (v : BitVec 32)
  /-- AUTH_DROP (R433): SEC.AUTH_CTRL.DROP ends a session. -/
  | authDrop (req : Requester) (v : BitVec 32)
  /-- SESSION_EXPIRY (R433): A session's lifetime expires and it ends. -/
  | sessionExpiry (n : Fin 4)
  /-- NONCE_EXPIRY (R435): A nonce unused for 60 s becomes invalid. -/
  | nonceExpiry
  /-- LOCKOUT_EXPIRY (R435): The 10-minute verification lockout ends. -/
  | lockoutExpiry
  /-- BOOT_ROM_START (R442): The boot ROM checks the image slots, loads PCU firmware or enters recovery. -/
  | bootRomStart
  /-- TRIAL_WATCHDOG (R443): A trial cast-on not at PKG_READY after 60 s switches boot order and restarts cast-on. -/
  | trialWatchdog
  /-- CAST_ON (R444): Cast-on runs its twelve steps from power good to PKG_READY. -/
  | castOn (step : Fin 13) (o : CastOutcome)
  /-- PORT_WAIT_TIMEOUT (R444): Step 11 ends once unlit ports have waited PORT_WAIT seconds. -/
  | portWaitTimeout
  /-- WARM_CAST_ON (R445): REFCLK present for 1 ms starts a warm cast-on from step 4. -/
  | warmCastOn
  /-- DUMP_DATA_READ (R448): A read of PCU.DUMP_DATA returns a dump word and advances WORD. -/
  | dumpDataRead (req : Requester)
  /-- PART_CREATE (R452): Creates a partition from a creation record. -/
  | partCreate (src : CmdSrc) (idx : BitVec 16)
  /-- PART_START (R454): Rebuilds core maps, clears engines and enters RUNNING. -/
  | partStart (src : CmdSrc) (idx : BitVec 16)
  /-- PART_RESET (R455): Stops the tenant's work at this package and returns it to READY. -/
  | partReset (src : CmdSrc) (idx : BitVec 16)
  /-- PART_DESTROY (R456): Frees everything of the tenant and returns it to FREE. -/
  | partDestroy (src : CmdSrc) (idx : BitVec 16)
  /-- PART_JOIN (R457): Records an SPID and member table at a READY tenant. -/
  | partJoin (src : CmdSrc) (idx : BitVec 16)
  /-- PART_FROG (R461): Arms a frog at row F and sends FROG to every member. -/
  | partFrog (src : CmdSrc) (idx : BitVec 16)
  /-- PART_LEAVE (R459): Clears the SPID and member table of a READY tenant. -/
  | partLeave (src : CmdSrc) (idx : BitVec 16)
  /-- PART_DIGEST (R468): Computes the CRC-64 digest of a tenant region. -/
  | partDigest (src : CmdSrc) (idx : BitVec 16)
  /-- PART_FENCE (R463): Fences a named unit as if it reported an uncorrectable error. -/
  | partFence (src : CmdSrc) (idx : BitVec 16)
  /-- FROG_ARRIVAL (R461): A received FROG arms the frog at F or the next boundary. -/
  | frogArrival (st : Stitch)
  /-- FROG_EFFECT (R462): At row F the frog takes effect and the tenant enters FROGGED. -/
  | frogEffect (tenant : Fin 16)
  /-- FROG_ACK_ARRIVAL (R461): A frog acknowledgement reaches the origin. -/
  | frogAckArrival (st : Stitch)
  /-- FROG_ACK_TIMEOUT (R461): ACK_WAIT rows after F, PART_FROG completes with missing members. -/
  | frogAckTimeout (tenant : Fin 16)
  /-- FROG_DRAIN_END (R462): DRAIN rows after F the tenant returns to READY. -/
  | frogDrainEnd (tenant : Fin 16)
  /-- DIGEST_COMPLETE (R469): A digest finishes its reads and completes with its CRC or error. -/
  | digestComplete (die : Fin 8)
  /-- FABRIC_PLL_LOSS (R474): Loss of the active fabric PLL moves the mesh to the standby and fences it. -/
  | fabricPllLoss
  /-- FCHG_ANNOUNCE (R479): CLK.FCHG_d.GO announces a frequency change for a target row. -/
  | fchgAnnounce (req : Requester) (d : Fin 10) (v : BitVec 32)
  /-- FCHG_CANCEL (R479): CLK.FCHG_d.CANCEL withdraws an announced change. -/
  | fchgCancel (req : Requester) (d : Fin 10) (v : BitVec 32)
  /-- PLL_RELOCK_DONE (R480): Every retuned PLL has locked and regions return at the next boundary. -/
  | pllRelockDone (what : PllLock)
  /-- RELOCK_TIMEOUT (R486): A PLL not locked within RELOCK_MAX rows is lost. -/
  | relockTimeout (r : Fin 94)
  /-- MUX_HANG (R482): A multiplexer switch not done within MUX_WATCH cycles triggers a domain reset. -/
  | muxHang (r : Fin 90)
  /-- DOMAIN_RESET (R485): CLK.DOMAIN_RESET.GO resets a region's crossings, multiplexer and PLL. -/
  | domainReset (req : Requester) (v : BitVec 32)
  /-- REGIONAL_PLL_LOSS (R486): A lost regional PLL moves its region to INT or the paired PLL, or hangs. -/
  | regionalPllLoss (r : Fin 94) (stopped : Bool)
  /-- REFCLK_ABSENT (R487): No REFCLK edge for 50 ns makes every PLL hold. -/
  | refclkAbsent
  /-- REFCLK_GAP_END (R487): REFCLK returning within 2 µs is counted as a gap. -/
  | refclkGapEnd
  /-- REFCLK_LOST (R488): REFCLK absent for 2 µs enters the clock-loss safe state. -/
  | refclkLost
  /-- GATE_WRITE (R490): A write of CLK.GATE_EN gates or ungates units at the next boundary or is rejected. -/
  | gateWrite (req : Requester) (hi : Bool) (v : BitVec 32)
  /-- CLUSTER_GATE_WRITE (R490): A write of CLK.CL_GATE_d gates or ungates clusters. -/
  | clusterGateWrite (req : Requester) (d : Fin 8) (v : BitVec 32)
  /-- PWR_GET (R510): Returns power, limit, slack and throttle reasons. -/
  | pwrGet (src : CmdSrc) (idx : BitVec 16)
  /-- PWR_CAP (R510): Sets the operator power cap. -/
  | pwrCap (src : CmdSrc) (idx : BitVec 16)
  /-- PWR_TARGET (R510): Sets or withdraws a power target with a lifetime. -/
  | pwrTarget (src : CmdSrc) (idx : BitVec 16)
  /-- TARGET_EXPIRY (R510): A power target's lifetime ends and E returns to the other terms. -/
  | targetExpiry
  /-- DROOP_DETECT (R508): A rail droop stretches the region's clock. -/
  | droopDetect (r : Fin 82)
  /-- DROOP_END (R508): Stretching ends after the rail holds for DROOP_HOLD. -/
  | droopEnd (r : Fin 82)
  /-- CURRENT_LIMIT_TRIP (R505): Input current above the limit for 1 µs sets every compute die to ISSUE_FLOOR. -/
  | currentLimitTrip
  /-- BRAKE_ASSERT (R512): PWRBRAKE_n low for 1 µs holds every compute die in the minimum state. -/
  | brakeAssert
  /-- BRAKE_RELEASE (R512): PWRBRAKE_n high for 10 µs releases the brake. -/
  | brakeRelease
  /-- AGEING_CHECK (R502): Ageing monitors are checked and may raise the trim or retire points. -/
  | ageingCheck (d : Fin 10) (below : Bool)
  /-- UNDERVOLTAGE (R514): V_in below 40 V for 10 µs sets UV. -/
  | undervoltage
  /-- POWER_FAIL (R514): V_in below 36 V for 20 µs enters power fail. -/
  | powerFail
  /-- ZONE_SAMPLE (R520): The thermal hub samples a zone and applies the ceiling rules. -/
  | zoneSample (z : Fin 144) (temps : List (BitVec 16))
  /-- SENSOR_BROKEN (R522): A sensor is marked broken and reported. -/
  | sensorBroken (z : Fin 144) (sensor : Fin 64) (reading : BitVec 16) (full : Bool)
  /-- CRITICAL_TRIP (R524): A CRIT crossing or two broken sensors run the hardware trip sequence. -/
  | criticalTrip (z : Fin 144) (sensor : Fin 64) (reading : BitVec 16) (full : Bool)
  /-- THM_TRIP_ACK (R527): Acknowledges a pending trip record. -/
  | thmTripAck (src : CmdSrc) (idx : BitVec 16)
  /-- THM_GET (R527): Returns the hottest zone, inlet temperature and flow. -/
  | thmGet (src : CmdSrc) (idx : BitVec 16)
  /-- COOLANT_WARN (R530): Inlet, rise or flow out of range for 1 s sets COOL_WARN and may lower ceilings. -/
  | coolantWarn (lowFlow : Bool)
  /-- FLOW_STOP (R530): Flow below FLOW_STOP for 100 ms requests the emergency path for all compute dies. -/
  | flowStop
  /-- LEASE_RENEW (R534): The active PCU renews the 8 µs lease every 2 µs. -/
  | leaseRenew (unit : Fin 2) (passed : Bool)
  /-- PCU_LEASE_EXPIRY (R536): The lease expires and the arbiter grants the token to a ready standby. -/
  | pcuLeaseExpiry (beat : Bool) (halted : Bool) (gap : BitVec 16) (bad : BitVec 16)
  /-- LEASE_RELEASE (R535): A failing PCU releases the lease at once. -/
  | leaseRelease (why : Fin 4) (beat : Bool) (gap : BitVec 16) (bad : BitVec 16)
  /-- NO_TOKEN_TIMEOUT (R538): No token for NOPCU_MS requests the emergency path and asserts FAULT_n. -/
  | noTokenTimeout
  /-- PCU_STANDBY_READY (R539): A restarted PCU passes self-test, copies the mirror and becomes standby-ready. -/
  | pcuStandbyReady (unit : Fin 2) (ok : Bool) (gap : BitVec 16) (bad : BitVec 16)
  /-- DEBUG_HOLD_WRITE (R540): A write of PCU.DEBUG_HOLD.EN stops or restarts lease expiry. -/
  | debugHoldWrite (req : Requester) (v : BitVec 32)
  /-- EVENT_RECORD (R546): A captured event becomes a new record or a repeat of an existing one. -/
  | eventRecord
  /-- EVR_FREEZE (R549): EVR.CTRL.FREEZE stops changes to the volatile store. -/
  | evrFreeze (req : Requester) (v : BitVec 32)
  /-- EVR_UNFREEZE (R549): EVR.CTRL.UNFREEZE applies queued events and ends the freeze. -/
  | evrUnfreeze (req : Requester) (v : BitVec 32)
  /-- FREEZE_TIMEOUT (R549): A freeze lasting FREEZE_MAX seconds ends by itself. -/
  | freezeTimeout
  /-- EVR_CLEAR (R547): EVR.CLEAR.VOL empties the volatile store. -/
  | evrClear (req : Requester) (v : BitVec 32)
  /-- EVR_NV_CLEAR (R548): EVR.NV_CLEAR.GENERAL empties the general non-volatile part. -/
  | evrNvClear (req : Requester) (v : BitVec 32)
  /-- OP_SECS_SAVE (R544): The island saves operating seconds to flash each hour. -/
  | opSecsSave
  /-- PWR_GOOD_RISE (R562): PWR_GOOD rises and cast-on can start once REFCLK is stable. -/
  | pwrGoodRise (addr : Fin 4) (long : Bool)
  /-- PWR_GOOD_FALL (R562): PWR_GOOD falls and the package acts as for power fail and turns off. -/
  | pwrGoodFall
  /-- PKG_RESET_ASSERT (R563): PKG_RESET_n low for 5 µs resets the package. -/
  | pkgResetAssert
  /-- PKG_RESET_RELEASE (R563): PKG_RESET_n rising starts a full cast-on. -/
  | pkgResetRelease
  /-- VIO_LOSS (R568): VIO_1V8 below 1.55 V for 10 µs acts as power fail. -/
  | vioLoss
  /-- PRSNT_CHANGE (R566): A debounced change of PRSNT_n_r moves PERST_n_r. -/
  | prsntChange (r : Fin 16) (present : Bool)
  /-- PERST_RELEASE (R566): PERST_n_r rises after its 100 ms and clock conditions are met. -/
  | perstRelease (r : Fin 16)
  /-- MGMT_READ (R573): A management READ request returns a register value. -/
  | mgmtRead (off : BitVec 32) (pec : Bool)
  /-- MGMT_WRITE (R573): A management WRITE request writes a register as operator. -/
  | mgmtWrite (off : BitVec 32) (v : BitVec 32) (pec : Bool)
  /-- RECOVERY_WRITE (R573): Writes recovery image bytes in recovery. -/
  | recoveryWrite (off : BitVec 32) (bytes : List (BitVec 8)) (pec : Bool)
  /-- RECOVERY_END (R443): Verifies the recovery image, writes slot A and restarts cast-on. -/
  | recoveryEnd (len : BitVec 32) (pec : Bool)
  /-- I3C_CCC (R572): The I3C target serves a supported common command code. -/
  | i3cCcc (ccc : BitVec 8) (arg : BitVec 16)
  /-- JTAG_EXTEST (R577): EXTEST drives boundary cells while reset or power is low. -/
  | jtagExtest (cells : BitVec 64)
  /-- JTAG_IDCODE (R576): IDCODE returns the 32-bit identity. -/
  | jtagIdcode
  /-- JTAG_SAMPLE_PRELOAD (R576): SAMPLE/PRELOAD captures or loads the boundary scan. -/
  | jtagSamplePreload (cells : BitVec 64)
  /-- JTAG_DTMCS (R399): DTMCS accesses debug transport control. -/
  | jtagDtmcs (v : BitVec 32)
  /-- JTAG_DMI (R399): DMI accesses a processor debug module. -/
  | jtagDmi (op : Fin 4) (addr : BitVec 18) (data : BitVec 32)
  /-- JTAG_RECOVERY (R576): RECOVERY accepts image bytes in recovery. -/
  | jtagRecovery (off : BitVec 32) (bytes : List (BitVec 8))
  /-- JTAG_PCS (R576): PCS performs a package control space access at Update. -/
  | jtagPcs (dr : BitVec 64)
  /-- JTAG_BYPASS (R576): BYPASS selects the one-bit register. -/
  | jtagBypass (code : BitVec 8)
  /-- MPO_PLUG_REMOVE (R579): Removing an MPO plug darkens the site's port outputs within 1 ms. -/
  | mpoPlugRemove (e : Fin 4)
  /-- MPO_PLUG_SEAT (R579): Seating an MPO plug lets its ports train when light is present. -/
  | mpoPlugSeat (e : Fin 4)
  /-- INBOUND_DMA (R409): An inbound DMA request of a PCIe sub-port is tagged with PORT_TENANT, translated by the IOMMU and becomes a stitch, an IMSIC write, a PCS access or a fault-queue entry. -/
  | inboundDma (r : Fin 16) (w : Option (Fin 1024)) (a : BitVec 46) (isWrite : Bool) (n : Fin 4097) (data : List (BitVec 8))
  /-- PCIE_LINK_UP (R408): A root-port sub-port finishes training and its HIO.PORT_STATUS moves from training to up with its speed, width, flit mode and kind. -/
  | pcieLinkUp (r : Fin 16) (speed : Fin 7) (width : Fin 17) (flit : Bool) (device : Fin 3)
  /-- FLOW_RESTORED (R530): Coolant flow above FLOW_MIN for 1 s ends the FLOW_STOP hold of every compute die's ceiling at 0. -/
  | flowRestored
  /-- LANDING_MERGE_END (R292): At the end of the COALESCE window a site sends one merged count landing with the summed increment and first error to its sync store. -/
  | landingMergeEnd (site : Fin 24) (obj : Fin 65536)
  deriving DecidableEq, Repr

end Sys2Proof
end

