-- ==== Sys2Proof/Decode.lean ====
section
/-! DEFINITION. The command that a word spells. The table gives no row bits (its rows have no fields): the commands reach the block as accesses, frames, events and measurements, not as words. -/

namespace Sys2Proof

/-- The command that a word spells by the table's bits: none, for no row of the table has bits. -/
def decodeTableWord (_nbits _w : Nat) : Option Instr := none

end Sys2Proof
end

