-- ==== Sys2Proof/Machine/Bits.lean ====
section
/-! DEFINITION. Bit fields of numbers, saturating counts, two's complement, little-endian byte lists and the cyclic
redundancy checks the spec names. Every function is arithmetic on natural numbers. -/

namespace Sys2Proof.Machine

/-- Bits `[hi:lo]` of `w`. -/
def fget (w hi lo : Nat) : Nat := w / 2 ^ lo % 2 ^ (hi + 1 - lo)

/-- `w` with bits `[hi:lo]` replaced by the low bits of `v`. -/
def fset (w hi lo v : Nat) : Nat :=
  w % 2 ^ lo + v % 2 ^ (hi + 1 - lo) * 2 ^ lo + w / 2 ^ (hi + 1) * 2 ^ (hi + 1)

/-- Bit `n` of `w`. -/
def bitOf (w n : Nat) : Bool := w / 2 ^ n % 2 == 1

/-- One for true, zero for false, as a field of one bit holds it. -/
def b2n (b : Bool) : Nat := if b then 1 else 0

/-- `a + b`, never above `top`: a saturating count. -/
def satAdd (top a b : Nat) : Nat := min top (a + b)

/-- The integer that the low `n` bits of `v` hold in two's complement. -/
def toSigned (n v : Nat) : Int :=
  let u := v % 2 ^ n
  if u < 2 ^ (n - 1) then (u : Int) else (u : Int) - (2 ^ n : Nat)

/-- The low `n` bits of the two's complement form of `x`. -/
def ofSigned (n : Nat) (x : Int) : Nat := (x % ((2 ^ n : Nat) : Int)).toNat

/-- `x` brought into the range of an `n`-bit two's complement field. -/
def clampSigned (n : Nat) (x : Int) : Int :=
  max (-((2 ^ (n - 1) : Nat) : Int)) (min (((2 ^ (n - 1) : Nat) : Int) - 1) x)

/-- `a - b` modulo `2 ^ n`. -/
def subMod (n a b : Nat) : Nat := (a % 2 ^ n + 2 ^ n - b % 2 ^ n) % 2 ^ n

/-- The `n` bytes of `v`, least significant first. -/
def leBytes : Nat → Nat → List Nat
  | 0, _ => []
  | n + 1, v => v % 256 :: leBytes n (v / 256)

/-- The number that bytes `bs`, least significant first, spell. -/
def leNat : List Nat → Nat
  | [] => 0
  | b :: bs => b % 256 + 256 * leNat bs

/-- The bits of a byte list as one number cut to `n` bytes from byte `at_`. -/
def leField (bs : List Nat) (at_ n : Nat) : Nat := leNat ((bs.drop at_).take n)

/-- How many of the low `n` bits of `w` are set. -/
def popCount : Nat → Nat → Nat
  | 0, _ => 0
  | n + 1, w => w % 2 + popCount n (w / 2)

/-- The numbers below `n` whose bit is set in `w`, in rising order. -/
def setBits (n w : Nat) : List Nat := (List.range n).filter (bitOf w)

/-- The lowest number below `n` whose bit is clear in `w`. -/
def lowestClear (n w : Nat) : Option Nat := (List.range n).find? (fun i => !bitOf w i)

/-- One bit step of a reflected cyclic redundancy check. -/
def crcBit (poly c : Nat) : Nat := if c % 2 == 1 then Nat.xor (c / 2) poly else c / 2

/-- `n` bit steps of a reflected cyclic redundancy check. -/
def crcBits (poly : Nat) : Nat → Nat → Nat
  | 0, c => c
  | n + 1, c => crcBits poly n (crcBit poly c)

/-- A reflected cyclic redundancy check over bytes, from register value `c`. -/
def crcBytes (poly : Nat) : List Nat → Nat → Nat
  | [], c => c
  | b :: bs, c => crcBytes poly bs (crcBits poly 8 (Nat.xor c (b % 256)))

/-- CRC-32 of a frame or marker (R122): reflected polynomial 0xEDB88320, start and final inversion. -/
def crc32 (bs : List Nat) : Nat := Nat.xor (crcBytes 0xEDB88320 bs 0xFFFFFFFF) 0xFFFFFFFF

/-- CRC-32C of a stitch and of a mirror page (R147): reflected polynomial 0x82F63B78, start and final inversion. -/
def crc32c (bs : List Nat) : Nat := Nat.xor (crcBytes 0x82F63B78 bs 0xFFFFFFFF) 0xFFFFFFFF

/-- Absolute difference of two numbers. -/
def absDiff (a b : Nat) : Nat := if a ≤ b then b - a else a - b

/-- The first element with property `p`, replaced by `f` of it. -/
def updFirst {α : Type} (p : α → Bool) (f : α → α) : List α → List α
  | [] => []
  | x :: xs => if p x then f x :: xs else x :: updFirst p f xs

/-- The list without its first element that has property `p`. -/
def dropFirst {α : Type} (p : α → Bool) : List α → List α
  | [] => []
  | x :: xs => if p x then xs else x :: dropFirst p xs

/-- Write a value under a key: the pair with that key replaced, or a new pair at the front. -/
def putKey {κ ν : Type} [DecidableEq κ] (k : κ) (v : ν) : List (κ × ν) → List (κ × ν)
  | [] => [(k, v)]
  | x :: xs => if x.1 = k then (k, v) :: xs else x :: putKey k v xs

/-- The value under a key. -/
def getKey {κ ν : Type} [DecidableEq κ] (k : κ) : List (κ × ν) → Option ν
  | [] => none
  | x :: xs => if x.1 = k then some x.2 else getKey k xs

/-- The list without the pairs of a key. -/
def delKey {κ ν : Type} [DecidableEq κ] (k : κ) (l : List (κ × ν)) : List (κ × ν) := l.filter (fun x => x.1 ≠ k)

/-- Element `n` replaced by `f` of it; the list unchanged where there is no element `n`. -/
def updAt {α : Type} (n : Nat) (f : α → α) : List α → List α
  | [] => []
  | x :: xs => match n with
    | 0 => f x :: xs
    | m + 1 => x :: updAt m f xs

/-- A number put into a rising list at its place. -/
def insertNat (a : Nat) : List Nat → List Nat
  | [] => [a]
  | x :: xs => if a ≤ x then a :: x :: xs else x :: insertNat a xs

/-- A list of numbers in rising order. -/
def sortNat (l : List Nat) : List Nat := l.foldr insertNat []

/-- A list split into pieces of `n` elements (`fuel` bounds the recursion). -/
def chunks {α : Type} (n : Nat) : Nat → List α → List (List α)
  | 0, _ => []
  | fuel + 1, l => if l.isEmpty then [] else l.take n :: chunks n fuel (l.drop n)

end Sys2Proof.Machine
end

