-- ==== Sys2Proof/Config.lean ====
section
/-! DEFINITION. What is fixed for a package: the kinds of its sites and their planes, the tables of voltage and
frequency points and of thermal limits, and the FREE VALUES: results the manual leaves open, as constants without a
body, so that nothing can evaluate them. -/

namespace Sys2Proof.Config

/-- The kinds of site (R25). -/
inductive SiteKind where
  | compute | processor | memory | edge | hostIo
  deriving DecidableEq, Repr

/-- The kind of site number `i` (R25). -/
def siteKind (i : Nat) : SiteKind :=
  if i < 8 then .compute else if i < 10 then .processor else if i < 18 then .memory
  else if i < 22 then .edge else .hostIo

/-- The code of a kind in SITE.PLANE_INFO.TYPE. -/
def SiteKind.code : SiteKind → Nat
  | .compute => 0 | .processor => 1 | .memory => 2 | .edge => 3 | .hostIo => 4

/-- Fixed planes of a site (R32). -/
def fixedPlanes (i : Nat) : Nat :=
  match siteKind i with
  | .compute => 32 | .processor => 16 | .memory => 32 | .edge => 32 | .hostIo => 8

/-- Switched planes of a site (R32). -/
def switchedPlanes (i : Nat) : Nat :=
  match siteKind i with
  | .compute => 8 | .processor => 0 | .memory => 4 | .edge => 4 | .hostIo => 0

/-- Spare planes of a site (R32). -/
def sparePlanes (i : Nat) : Nat :=
  match siteKind i with
  | .compute => 2 | .processor => 2 | .memory => 2 | .edge => 2 | .hostIo => 1

/-- All planes of a site, numbered fixed, then switched, then spare (R32). -/
def planes (i : Nat) : Nat := fixedPlanes i + switchedPlanes i + sparePlanes i

/-- The kind of plane `p` of site `i`, as SITE.PLANE_STATE.KIND codes it. -/
def planeKind (i p : Nat) : Nat :=
  if p < fixedPlanes i then 1 else if p < fixedPlanes i + switchedPlanes i then 2
  else if p < planes i then 3 else 0

/-- The kinds of thermal zone that have level limits (R519). -/
inductive ZoneKind where
  | silicon | sram | hbm | converter | comb | coolant
  deriving DecidableEq, Repr

/-- The kind of zone `z` (R517, R519). -/
def zoneKind (z : Nat) : ZoneKind :=
  if z < 72 then .silicon else if z < 80 then .sram else if z < 88 then .silicon
  else if z < 104 then .hbm else if z < 136 then .silicon else if z < 138 then .comb
  else if z < 142 then .converter else .coolant

/-- THROTTLE in °C, factory value (R519). -/
def zoneThrottle (z : Nat) : Nat :=
  match zoneKind z with
  | .silicon => 100 | .sram => 95 | .hbm => 85 | .converter => 110 | .comb => 70 | .coolant => 0

/-- MIN in °C, factory value (R519). -/
def zoneMin (z : Nat) : Nat :=
  match zoneKind z with
  | .silicon => 108 | .sram => 100 | .hbm => 95 | .converter => 120 | .comb => 75 | .coolant => 0

/-- CRIT in °C, fused (R519). -/
def zoneCrit (z : Nat) : Nat :=
  match zoneKind z with
  | .silicon => 115 | .sram => 105 | .hbm => 105 | .converter => 125 | .comb => 80 | .coolant => 0

/-- Sensors of zone `z` (R517); a base-layer zone has one per calibration group of its site (R91, R100). -/
def zoneSensors (z : Nat) : Nat :=
  if z < 64 then 4 else if z < 80 then 2 else if z < 88 then 3 else if z < 112 then 2
  else if z < 136 then
    planes (z - 112) + (if siteKind (z - 112) = .edge then 4 else 0)
  else 2

/-! Free values: results that the manual leaves open. Each is a constant without a body. -/

/-- The temperature that a report gives for a unit, from the sensor nearest it (R464): which sensor that is, is not stated. Free value. -/
opaque reportTemp : Nat → Nat → Nat

/-- The supply rail that a report gives for a unit, as its regulator measures it, in mV (R464). Free value. -/
opaque reportRail : Nat → Nat → Nat

/-- Byte `n` of the DATA of a LIGHT_STATE notice (R144, R245): no chapter states its layout. Free value. -/
opaque lightStateByte : Nat → Nat → Nat

/-- Byte `n` of the DATA of the notice with which bind-off begins, and at `n` = 64 its subtype (R446): neither is stated. Free value, by a count of draws. -/
opaque bindNotice : Nat → Nat → Nat

/-- The byte that a device behind a root port gives to a read, by address and a count of draws (R407): the device is outside the package. Free value. -/
opaque deviceByte : Nat → Nat → Nat

/-- PHASE of the status record in an FM_REPLY, which belongs to no ring (R422, R429). Free value. -/
opaque fmReplyPhase : Nat

/-- The status with which the commands of a fenced queue processor fail (R330, R467): not stated. Free value. -/
opaque qpFaultStatus : Nat

/-- The count of core cycles that a thread reads (R311): the model has no core clock. Free value, by a count of draws. -/
opaque coreCycle : Nat → Nat

/-- The FP32 result of a special function of an input that is no NaN (R323): by operation code and FP32 input. The manual bounds its error and does not fix its bits. Free value. -/
opaque sfeResult : Nat → Nat → Nat

/-- The FP32 result of e^(x - y) (R323), for inputs that are no NaN. Free value. -/
opaque sfeExpDiff : Nat → Nat → Nat

/-- An element of a column of the B buffer that no MMA has loaded (R344): by column and k, and a count of draws. Free value. -/
opaque staleB : Nat → Nat → Nat → Nat

/-- The bits that fill the last byte of a stored row of an odd number of 4-bit elements (R338, R348), by a count of draws. Free value. -/
opaque padBits : Nat → Nat

/-- The key by which the routing engine ranks an expert whose biased score is no number though every score is finite (R372): by expert. Free value. -/
opaque nanKey : Nat → Nat

/-- The power of a compute die without its matrix engines, and of the matrix engines at ISSUE 64, in W, as the power manager's model has them after its corrections (R506): by
die, point and a count of draws. The manual gives typical values at cast-on and not how they are corrected. Free values. -/
opaque modelStatic : Nat → Nat → Nat → Nat
opaque modelDynamic : Nat → Nat → Nat → Nat

/-- A word of a crash dump that the state of a control unit's firmware decides (R448): by dump and word. Free value. -/
opaque dumpWord : Nat → Nat → Nat

/-- What the boot ROM finds in the bytes of an image slot (R440, R442), as PCU.BOOT_STATUS.RESULT_A codes it, leaving the security version aside: 0 valid, 1 header, 2 key, 3 signature, 4 digest.
The manual does not give the header's layout, the keys or the signature scheme in full. Free value. -/
opaque imageCheck : List (Nat × Byte) → Nat

/-- A byte of the range of an image slot that an interrupted FW_STAGE leaves undefined (R427): by a count of draws and place in the range. Free value. -/
opaque flashByte : Nat → Nat → Nat

/-- Fields of the header of an image (R439): 0 the image version as PCU.FW_VERSION holds it, 1 the security version. Free value. -/
opaque imageField : Nat → List (Nat × Byte) → Nat

/-- Whether 96 bytes are a point of P-384 (R436), and whether a signature of 96 bytes verifies under a key over a message (R435). -/
opaque pointOnCurve : List Nat → Bool
opaque signatureOk : List Nat → List Nat → List Nat → Bool

/-- The maker key, held in the signed image (R435): 96 bytes by image. Free value. -/
opaque makerKey : List (Nat × Byte) → List Nat

/-- A word of a nonce (R435): fresh random bytes, by a count of draws. Free value. -/
opaque nonceWord : Nat → Nat → Nat

/-- What the debug module of a processor die gives to an access (R399): by operation, address, data and a count of draws. The debug specification that it names is outside this manual. Free value. -/
opaque debugWord : Nat → Nat → Nat → Nat → Nat

/-- The level at a contact that a boundary-scan cell captures (R576): by a count of draws. Free value. -/
opaque contactLevels : Nat → Nat

/-- Whether the boot flash still answers once VIO_1V8 is lost (R568): by a count of draws. Free value. -/
opaque flashAnswers : Nat → Bool

/-- The manufacturer identity that IDCODE shows (R576): fused. Free value. -/
opaque jtagMaker : Nat

/-- The answer bytes of a common command code of the I3C target whose content the manual does not give (R572): by code and byte. Free value. -/
opaque cccByte : Nat → Nat → Nat

/-- What a register that shows a physical measurement holds (an optical power, a signal quality, a count of corrected codewords, a latency), for which no command carries the value:
by offset and a count of draws. Free value. -/
opaque measured : Nat → Nat → Nat

/-- The factory record of the second twin of a slot (R113): its word as TNS.RING_FACTORY shows it when that twin is selected, and the offset between the twins in 0.01 GHz. Fused for the
part. Free values, by the offset of the ring's state register. -/
opaque secondTwin : Nat → Nat
opaque twinOffset : Nat → Nat

/-- The first state of a pattern generator (R138): the manual gives the polynomials and no first state. Free value, by a count of draws. -/
opaque patternSeed : Nat → Nat

/-- The power of a line of the source on branch X in a row, in 0.01 dBm (R67): by line and number of the row. Free value. -/
opaque linePower : Nat → Nat → Nat

/-- The code that a lane or a port takes when PART_FENCE takes it out of service (R463): the manual says that it is fenced as a fault of its kind and not with which code. Free values,
by lane and port. -/
opaque partFenceCode : Nat → Nat
opaque partFenceDown : Nat → Nat

end Sys2Proof.Config
end

