-- ==== Sys2Proof/Machine/Regs.lean ====
section
/-! DEFINITION. The registers of the package control space by name: the offset of each register
(a function of its indices) and each of its fields as offset, high bit and low bit.
The names, offsets and bit ranges are those of the register tables of spec/00 to spec/23 (R6, R16, R27). -/

namespace Sys2Proof.Machine

/-- A field of a register: the register's offset in the package control space, its highest and lowest bit (R6). -/
structure FRef where
  off : Nat
  hi : Nat
  lo : Nat
  deriving DecidableEq, Repr

namespace R

/-- PCU.PKG_ID (spec/00, role O). -/
abbrev PCU_PKG_ID : Nat := 0x0
abbrev PCU_PKG_ID_FAMILY : FRef := ⟨PCU_PKG_ID, 31, 24⟩
abbrev PCU_PKG_ID_STACK_GIB : FRef := ⟨PCU_PKG_ID, 23, 16⟩
abbrev PCU_PKG_ID_STEPPING : FRef := ⟨PCU_PKG_ID, 15, 8⟩
/-- DBG.MIRROR_SEL (spec/00, role I). -/
abbrev DBG_MIRROR_SEL : Nat := 0xf000000
abbrev DBG_MIRROR_SEL_OFFSET : FRef := ⟨DBG_MIRROR_SEL, 27, 0⟩
/-- DBG.MIRROR_DATA (spec/00, role I). -/
abbrev DBG_MIRROR_DATA : Nat := 0xf000004
abbrev DBG_MIRROR_DATA_DATA : FRef := ⟨DBG_MIRROR_DATA, 31, 0⟩
/-- DBG.MIRROR_STATUS (spec/00, role I). -/
abbrev DBG_MIRROR_STATUS : Nat := 0xf000008
abbrev DBG_MIRROR_STATUS_WINDOW : FRef := ⟨DBG_MIRROR_STATUS, 3, 3⟩
abbrev DBG_MIRROR_STATUS_GATED : FRef := ⟨DBG_MIRROR_STATUS, 2, 2⟩
abbrev DBG_MIRROR_STATUS_ALIAS : FRef := ⟨DBG_MIRROR_STATUS, 1, 1⟩
abbrev DBG_MIRROR_STATUS_UNMAPPED : FRef := ⟨DBG_MIRROR_STATUS, 0, 0⟩
/-- PCU.BUS_ERR (spec/00, role O). -/
abbrev PCU_BUS_ERR : Nat := 0x10
abbrev PCU_BUS_ERR_TENANT : FRef := ⟨PCU_BUS_ERR, 5, 5⟩
abbrev PCU_BUS_ERR_ROLE : FRef := ⟨PCU_BUS_ERR, 4, 4⟩
abbrev PCU_BUS_ERR_WIDTH : FRef := ⟨PCU_BUS_ERR, 3, 3⟩
abbrev PCU_BUS_ERR_UNMAPPED : FRef := ⟨PCU_BUS_ERR, 2, 2⟩
abbrev PCU_BUS_ERR_ALIAS_EMPTY : FRef := ⟨PCU_BUS_ERR, 1, 1⟩
abbrev PCU_BUS_ERR_ALIAS_READ : FRef := ⟨PCU_BUS_ERR, 0, 0⟩
/-- PCU.BUS_ERR_ADDR (spec/00, role O). -/
abbrev PCU_BUS_ERR_ADDR : Nat := 0x14
abbrev PCU_BUS_ERR_ADDR_OFFSET : FRef := ⟨PCU_BUS_ERR_ADDR, 27, 0⟩
/-- PCU.GROUP_MASK_b_g (spec/00, role O). -/
abbrev PCU_GROUP_MASK (b : Nat) (g : Nat) : Nat := 0x1000 + b * 0x40 + g * 0x4
abbrev PCU_GROUP_MASK_MEMBERS (b : Nat) (g : Nat) : FRef := ⟨PCU_GROUP_MASK b g, 23, 0⟩
/-- OPF.CFG (spec/02, role I). -/
abbrev OPF_CFG : Nat := 0x1e00000
abbrev OPF_CFG_LOSS_WARN : FRef := ⟨OPF_CFG, 15, 8⟩
abbrev OPF_CFG_PLANE_FAULT_LANES : FRef := ⟨OPF_CFG, 7, 4⟩
abbrev OPF_CFG_RX_FIRST : FRef := ⟨OPF_CFG, 1, 1⟩
abbrev OPF_CFG_AUTO_SPARE : FRef := ⟨OPF_CFG, 0, 0⟩
/-- OPF.STATUS (spec/02, role O). -/
abbrev OPF_STATUS : Nat := 0x1e00004
abbrev OPF_STATUS_SPARES_FREE : FRef := ⟨OPF_STATUS, 23, 16⟩
abbrev OPF_STATUS_SUBST_PENDING : FRef := ⟨OPF_STATUS, 15, 8⟩
abbrev OPF_STATUS_DETECT_HOLD : FRef := ⟨OPF_STATUS, 1, 1⟩
abbrev OPF_STATUS_CFG_REJECT : FRef := ⟨OPF_STATUS, 0, 0⟩
/-- OPF.SUBST_COUNT (spec/02, role O). -/
abbrev OPF_SUBST_COUNT : Nat := 0x1e00008
abbrev OPF_SUBST_COUNT_COUNT : FRef := ⟨OPF_SUBST_COUNT, 31, 0⟩
/-- OPF.NO_PATH_COUNT (spec/02, role O). -/
abbrev OPF_NO_PATH_COUNT : Nat := 0x1e0000c
abbrev OPF_NO_PATH_COUNT_COUNT : FRef := ⟨OPF_NO_PATH_COUNT, 31, 0⟩
/-- OPF.SKEIN_SEL (spec/02, role O). -/
abbrev OPF_SKEIN_SEL : Nat := 0x1e00010
abbrev OPF_SKEIN_SEL_DST : FRef := ⟨OPF_SKEIN_SEL, 9, 5⟩
abbrev OPF_SKEIN_SEL_SRC : FRef := ⟨OPF_SKEIN_SEL, 4, 0⟩
/-- OPF.SKEIN_STATE (spec/02, role O). -/
abbrev OPF_SKEIN_STATE : Nat := 0x1e00014
abbrev OPF_SKEIN_STATE_SWITCHED : FRef := ⟨OPF_SKEIN_STATE, 31, 24⟩
abbrev OPF_SKEIN_STATE_BUILT : FRef := ⟨OPF_SKEIN_STATE, 23, 16⟩
abbrev OPF_SKEIN_STATE_IN_SERVICE : FRef := ⟨OPF_SKEIN_STATE, 15, 8⟩
abbrev OPF_SKEIN_STATE_LOST : FRef := ⟨OPF_SKEIN_STATE, 7, 0⟩
/-- SITE.PLANE_INFO (spec/02, role O). -/
abbrev SITE_PLANE_INFO (i : Nat) : Nat := 0x1000000 + i * 0x10000
abbrev SITE_PLANE_INFO_TYPE (i : Nat) : FRef := ⟨SITE_PLANE_INFO i, 31, 24⟩
abbrev SITE_PLANE_INFO_FIXED (i : Nat) : FRef := ⟨SITE_PLANE_INFO i, 23, 16⟩
abbrev SITE_PLANE_INFO_SWITCHED (i : Nat) : FRef := ⟨SITE_PLANE_INFO i, 15, 8⟩
abbrev SITE_PLANE_INFO_SPARE (i : Nat) : FRef := ⟨SITE_PLANE_INFO i, 7, 0⟩
/-- SITE.PLANE_STATE_p (spec/02, role O). -/
abbrev SITE_PLANE_STATE (i : Nat) (p : Nat) : Nat := 0x1000100 + i * 0x10000 + p * 0x4
abbrev SITE_PLANE_STATE_KIND (i : Nat) (p : Nat) : FRef := ⟨SITE_PLANE_STATE i p, 25, 24⟩
abbrev SITE_PLANE_STATE_TX_STATE (i : Nat) (p : Nat) : FRef := ⟨SITE_PLANE_STATE i p, 23, 22⟩
abbrev SITE_PLANE_STATE_RX_STATE (i : Nat) (p : Nat) : FRef := ⟨SITE_PLANE_STATE i p, 21, 20⟩
abbrev SITE_PLANE_STATE_TX_PARTNER (i : Nat) (p : Nat) : FRef := ⟨SITE_PLANE_STATE i p, 19, 14⟩
abbrev SITE_PLANE_STATE_RX_PARTNER (i : Nat) (p : Nat) : FRef := ⟨SITE_PLANE_STATE i p, 13, 8⟩
/-- SITE.TX_FENCE_p (spec/02, role O). -/
abbrev SITE_TX_FENCE (i : Nat) (p : Nat) : Nat := 0x1000200 + i * 0x10000 + p * 0x4
abbrev SITE_TX_FENCE_RINGS (i : Nat) (p : Nat) : FRef := ⟨SITE_TX_FENCE i p, 23, 0⟩
/-- SITE.RX_FENCE_p (spec/02, role O). -/
abbrev SITE_RX_FENCE (i : Nat) (p : Nat) : Nat := 0x1000300 + i * 0x10000 + p * 0x4
abbrev SITE_RX_FENCE_RINGS (i : Nat) (p : Nat) : FRef := ⟨SITE_RX_FENCE i p, 23, 0⟩
/-- SITE.SUBST_REQ (spec/02, role I). -/
abbrev SITE_SUBST_REQ (i : Nat) : Nat := 0x1000400 + i * 0x10000
abbrev SITE_SUBST_REQ_GO (i : Nat) : FRef := ⟨SITE_SUBST_REQ i, 31, 31⟩
abbrev SITE_SUBST_REQ_RESTORE (i : Nat) : FRef := ⟨SITE_SUBST_REQ i, 30, 30⟩
abbrev SITE_SUBST_REQ_DIR (i : Nat) : FRef := ⟨SITE_SUBST_REQ i, 16, 16⟩
abbrev SITE_SUBST_REQ_SPARE (i : Nat) : FRef := ⟨SITE_SUBST_REQ i, 13, 8⟩
abbrev SITE_SUBST_REQ_PLANE (i : Nat) : FRef := ⟨SITE_SUBST_REQ i, 5, 0⟩
/-- SITE.SUBST_RESULT (spec/02, role O). -/
abbrev SITE_SUBST_RESULT (i : Nat) : Nat := 0x1000404 + i * 0x10000
abbrev SITE_SUBST_RESULT_STATUS (i : Nat) : FRef := ⟨SITE_SUBST_RESULT i, 31, 28⟩
abbrev SITE_SUBST_RESULT_ROW (i : Nat) : FRef := ⟨SITE_SUBST_RESULT i, 15, 0⟩
/-- SITE.BOND_REPAIR (spec/02, role O). -/
abbrev SITE_BOND_REPAIR (i : Nat) : Nat := 0x1000500 + i * 0x10000
abbrev SITE_BOND_REPAIR_GROUPS (i : Nat) : FRef := ⟨SITE_BOND_REPAIR i, 15, 0⟩
/-- LSU.CFG (spec/03, role I). -/
abbrev LSU_CFG : Nat := 0x500000
abbrev LSU_CFG_HOLDOFF : FRef := ⟨LSU_CFG, 31, 16⟩
abbrev LSU_CFG_RESTARTS : FRef := ⟨LSU_CFG, 11, 8⟩
abbrev LSU_CFG_FB_FITTED : FRef := ⟨LSU_CFG, 1, 1⟩
/-- LSU.STATUS (spec/03, role O). -/
abbrev LSU_STATUS : Nat := 0x500004
abbrev LSU_STATUS_MODE : FRef := ⟨LSU_STATUS, 31, 28⟩
abbrev LSU_STATUS_FB1_LIGHT : FRef := ⟨LSU_STATUS, 19, 19⟩
abbrev LSU_STATUS_FB0_LIGHT : FRef := ⟨LSU_STATUS, 18, 18⟩
abbrev LSU_STATUS_STANDBY_READY : FRef := ⟨LSU_STATUS, 17, 17⟩
abbrev LSU_STATUS_DETECT_HOLD : FRef := ⟨LSU_STATUS, 16, 16⟩
abbrev LSU_STATUS_CFG_REJECT : FRef := ⟨LSU_STATUS, 0, 0⟩
/-- LSU.COMB_c (spec/03, role O). -/
abbrev LSU_COMB (c : Nat) : Nat := 0x500010 + c * 0x4
abbrev LSU_COMB_STATE (c : Nat) : FRef := ⟨LSU_COMB c, 31, 28⟩
abbrev LSU_COMB_SPACING_LOCK (c : Nat) : FRef := ⟨LSU_COMB c, 27, 27⟩
abbrev LSU_COMB_OFFSET_LOCK (c : Nat) : FRef := ⟨LSU_COMB c, 26, 26⟩
abbrev LSU_COMB_OUTPUT (c : Nat) : FRef := ⟨LSU_COMB c, 23, 16⟩
abbrev LSU_COMB_RESTARTS_USED (c : Nat) : FRef := ⟨LSU_COMB c, 15, 12⟩
abbrev LSU_COMB_HELD (c : Nat) : FRef := ⟨LSU_COMB c, 11, 0⟩
/-- LSU.OFFSET (spec/03, role O). -/
abbrev LSU_OFFSET : Nat := 0x500018
abbrev LSU_OFFSET_MHZ : FRef := ⟨LSU_OFFSET, 15, 0⟩
/-- LSU.SWITCH_COUNT (spec/03, role O). -/
abbrev LSU_SWITCH_COUNT : Nat := 0x50001c
abbrev LSU_SWITCH_COUNT_FALLBACK : FRef := ⟨LSU_SWITCH_COUNT, 31, 16⟩
abbrev LSU_SWITCH_COUNT_SWITCH : FRef := ⟨LSU_SWITCH_COUNT, 15, 0⟩
/-- LSU.LAST_ROW_LO (spec/03, role O). -/
abbrev LSU_LAST_ROW_LO : Nat := 0x500020
abbrev LSU_LAST_ROW_LO_ROW : FRef := ⟨LSU_LAST_ROW_LO, 31, 0⟩
/-- LSU.LAST_ROW_HI (spec/03, role O). -/
abbrev LSU_LAST_ROW_HI : Nat := 0x500024
abbrev LSU_LAST_ROW_HI_ROW : FRef := ⟨LSU_LAST_ROW_HI, 15, 0⟩
/-- LSU.CTRL (spec/03, role I). -/
abbrev LSU_CTRL : Nat := 0x500030
abbrev LSU_CTRL_SWAP : FRef := ⟨LSU_CTRL, 31, 31⟩
abbrev LSU_CTRL_RETURN : FRef := ⟨LSU_CTRL, 30, 30⟩
abbrev LSU_CTRL_RESTART_A : FRef := ⟨LSU_CTRL, 29, 29⟩
abbrev LSU_CTRL_RESTART_B : FRef := ⟨LSU_CTRL, 28, 28⟩
/-- LSU.CTRL_RESULT (spec/03, role O). -/
abbrev LSU_CTRL_RESULT : Nat := 0x500034
abbrev LSU_CTRL_RESULT_STATUS : FRef := ⟨LSU_CTRL_RESULT, 31, 28⟩
abbrev LSU_CTRL_RESULT_ROW : FRef := ⟨LSU_CTRL_RESULT, 15, 0⟩
/-- LSU.POWER (spec/03, role O). -/
abbrev LSU_POWER : Nat := 0x500038
abbrev LSU_POWER_DECIWATTS : FRef := ⟨LSU_POWER, 15, 0⟩
/-- LSU.LINE_PWR_n (spec/03, role O). -/
abbrev LSU_LINE_PWR (n : Nat) : Nat := 0x500100 + n * 0x4
abbrev LSU_LINE_PWR_NOW (n : Nat) : FRef := ⟨LSU_LINE_PWR n, 31, 16⟩
abbrev LSU_LINE_PWR_REF (n : Nat) : FRef := ⟨LSU_LINE_PWR n, 15, 0⟩
/-- TNS.CFG (spec/04, role I). -/
abbrev TNS_CFG (i : Nat) : Nat := 0x2040000 + i * 0x100000
abbrev TNS_CFG_TEMP_DELTA (i : Nat) : FRef := ⟨TNS_CFG i, 31, 24⟩
abbrev TNS_CFG_LOAD_PCT (i : Nat) : FRef := ⟨TNS_CFG i, 23, 16⟩
abbrev TNS_CFG_DITHER_AMP (i : Nat) : FRef := ⟨TNS_CFG i, 15, 8⟩
abbrev TNS_CFG_GAIN (i : Nat) : FRef := ⟨TNS_CFG i, 7, 4⟩
abbrev TNS_CFG_FF_EN (i : Nat) : FRef := ⟨TNS_CFG i, 3, 3⟩
abbrev TNS_CFG_AUTO_SWATCH (i : Nat) : FRef := ⟨TNS_CFG i, 0, 0⟩
/-- TNS.CFG2 (spec/04, role I). -/
abbrev TNS_CFG2 (i : Nat) : Nat := 0x2040004 + i * 0x100000
abbrev TNS_CFG2_MIN_INTERVAL (i : Nat) : FRef := ⟨TNS_CFG2 i, 31, 16⟩
abbrev TNS_CFG2_HEADROOM (i : Nat) : FRef := ⟨TNS_CFG2 i, 15, 8⟩
abbrev TNS_CFG2_CIRC_WAIT (i : Nat) : FRef := ⟨TNS_CFG2 i, 7, 0⟩
/-- TNS.STATUS (spec/04, role O). -/
abbrev TNS_STATUS (i : Nat) : Nat := 0x2040008 + i * 0x100000
abbrev TNS_STATUS_LOOPS_LOCKED (i : Nat) : FRef := ⟨TNS_STATUS i, 31, 20⟩
abbrev TNS_STATUS_GROUPS_PENDING (i : Nat) : FRef := ⟨TNS_STATUS i, 15, 8⟩
abbrev TNS_STATUS_GAUGE_FAIL (i : Nat) : FRef := ⟨TNS_STATUS i, 2, 2⟩
abbrev TNS_STATUS_SWATCH_BUSY (i : Nat) : FRef := ⟨TNS_STATUS i, 1, 1⟩
abbrev TNS_STATUS_CFG_REJECT (i : Nat) : FRef := ⟨TNS_STATUS i, 0, 0⟩
/-- TNS.SWATCH_NOW (spec/04, role O). -/
abbrev TNS_SWATCH_NOW (i : Nat) : Nat := 0x204000c + i * 0x100000
abbrev TNS_SWATCH_NOW_ACTIVE (i : Nat) : FRef := ⟨TNS_SWATCH_NOW i, 31, 31⟩
abbrev TNS_SWATCH_NOW_END (i : Nat) : FRef := ⟨TNS_SWATCH_NOW i, 30, 30⟩
abbrev TNS_SWATCH_NOW_SCOPE (i : Nat) : FRef := ⟨TNS_SWATCH_NOW i, 29, 28⟩
abbrev TNS_SWATCH_NOW_PLANE (i : Nat) : FRef := ⟨TNS_SWATCH_NOW i, 27, 22⟩
abbrev TNS_SWATCH_NOW_K (i : Nat) : FRef := ⟨TNS_SWATCH_NOW i, 21, 16⟩
abbrev TNS_SWATCH_NOW_STEP_ROW (i : Nat) : FRef := ⟨TNS_SWATCH_NOW i, 8, 0⟩
/-- TNS.SWATCH_REQ (spec/04, role I). -/
abbrev TNS_SWATCH_REQ (i : Nat) : Nat := 0x2040010 + i * 0x100000
abbrev TNS_SWATCH_REQ_GO (i : Nat) : FRef := ⟨TNS_SWATCH_REQ i, 31, 31⟩
abbrev TNS_SWATCH_REQ_ALL (i : Nat) : FRef := ⟨TNS_SWATCH_REQ i, 6, 6⟩
abbrev TNS_SWATCH_REQ_GROUP (i : Nat) : FRef := ⟨TNS_SWATCH_REQ i, 5, 0⟩
/-- TNS.SWATCH_COUNT (spec/04, role O). -/
abbrev TNS_SWATCH_COUNT (i : Nat) : Nat := 0x2040014 + i * 0x100000
abbrev TNS_SWATCH_COUNT_FAILED (i : Nat) : FRef := ⟨TNS_SWATCH_COUNT i, 31, 16⟩
abbrev TNS_SWATCH_COUNT_ABANDONED (i : Nat) : FRef := ⟨TNS_SWATCH_COUNT i, 15, 0⟩
/-- TNS.GAUGE_CTRL (spec/04, role I). -/
abbrev TNS_GAUGE_CTRL (i : Nat) : Nat := 0x2040020 + i * 0x100000
abbrev TNS_GAUGE_CTRL_GO (i : Nat) : FRef := ⟨TNS_GAUGE_CTRL i, 31, 31⟩
abbrev TNS_GAUGE_CTRL_PERIOD (i : Nat) : FRef := ⟨TNS_GAUGE_CTRL i, 15, 0⟩
/-- TNS.GAUGE_RESULT (spec/04, role O). -/
abbrev TNS_GAUGE_RESULT (i : Nat) : Nat := 0x2040024 + i * 0x100000
abbrev TNS_GAUGE_RESULT_STATUS (i : Nat) : FRef := ⟨TNS_GAUGE_RESULT i, 31, 28⟩
abbrev TNS_GAUGE_RESULT_DEVIATION (i : Nat) : FRef := ⟨TNS_GAUGE_RESULT i, 15, 0⟩
/-- TNS.GROUP_TEMP_g (spec/04, role O). -/
abbrev TNS_GROUP_TEMP (i : Nat) (g : Nat) : Nat := 0x2041000 + i * 0x100000 + g * 0x20
abbrev TNS_GROUP_TEMP_NOW (i : Nat) (g : Nat) : FRef := ⟨TNS_GROUP_TEMP i g, 31, 16⟩
abbrev TNS_GROUP_TEMP_REF (i : Nat) (g : Nat) : FRef := ⟨TNS_GROUP_TEMP i g, 15, 0⟩
/-- TNS.GROUP_TRIG_g (spec/04, role O). -/
abbrev TNS_GROUP_TRIG (i : Nat) (g : Nat) : Nat := 0x2041004 + i * 0x100000 + g * 0x20
abbrev TNS_GROUP_TRIG_P_REF (i : Nat) (g : Nat) : FRef := ⟨TNS_GROUP_TRIG i g, 31, 16⟩
abbrev TNS_GROUP_TRIG_LANES_LEFT (i : Nat) (g : Nat) : FRef := ⟨TNS_GROUP_TRIG i g, 15, 8⟩
abbrev TNS_GROUP_TRIG_EDGE (i : Nat) (g : Nat) : FRef := ⟨TNS_GROUP_TRIG i g, 4, 4⟩
abbrev TNS_GROUP_TRIG_MANUAL (i : Nat) (g : Nat) : FRef := ⟨TNS_GROUP_TRIG i g, 3, 3⟩
abbrev TNS_GROUP_TRIG_LOAD (i : Nat) (g : Nat) : FRef := ⟨TNS_GROUP_TRIG i g, 2, 2⟩
abbrev TNS_GROUP_TRIG_TEMP (i : Nat) (g : Nat) : FRef := ⟨TNS_GROUP_TRIG i g, 1, 1⟩
abbrev TNS_GROUP_TRIG_DARK (i : Nat) (g : Nat) : FRef := ⟨TNS_GROUP_TRIG i g, 0, 0⟩
/-- TNS.GROUP_COUNT_g (spec/04, role O). -/
abbrev TNS_GROUP_COUNT (i : Nat) (g : Nat) : Nat := 0x2041008 + i * 0x100000 + g * 0x20
abbrev TNS_GROUP_COUNT_COUNT (i : Nat) (g : Nat) : FRef := ⟨TNS_GROUP_COUNT i g, 31, 0⟩
/-- TNS.GROUP_LAST_ROW_LO_g (spec/04, role O). -/
abbrev TNS_GROUP_LAST_ROW_LO (i : Nat) (g : Nat) : Nat := 0x204100c + i * 0x100000 + g * 0x20
abbrev TNS_GROUP_LAST_ROW_LO_ROW (i : Nat) (g : Nat) : FRef := ⟨TNS_GROUP_LAST_ROW_LO i g, 31, 0⟩
/-- TNS.GROUP_LAST_ROW_HI_g (spec/04, role O). -/
abbrev TNS_GROUP_LAST_ROW_HI (i : Nat) (g : Nat) : Nat := 0x2041010 + i * 0x100000 + g * 0x20
abbrev TNS_GROUP_LAST_ROW_HI_ROW (i : Nat) (g : Nat) : FRef := ⟨TNS_GROUP_LAST_ROW_HI i g, 15, 0⟩
/-- TNS.GROUP_LAST_SECS_g (spec/04, role O). -/
abbrev TNS_GROUP_LAST_SECS (i : Nat) (g : Nat) : Nat := 0x2041014 + i * 0x100000 + g * 0x20
abbrev TNS_GROUP_LAST_SECS_SECS (i : Nat) (g : Nat) : FRef := ⟨TNS_GROUP_LAST_SECS i g, 31, 0⟩
/-- TNS.RING_STATE_p_k_d (spec/04, role O). -/
abbrev TNS_RING_STATE (i : Nat) (p : Nat) (d : Nat) (k : Nat) : Nat := 0x2050000 + i * 0x100000 + p * 0x300 + d * 0x180 + k * 0x10
abbrev TNS_RING_STATE_TWIN (i : Nat) (p : Nat) (d : Nat) (k : Nat) : FRef := ⟨TNS_RING_STATE i p d k, 31, 31⟩
abbrev TNS_RING_STATE_LOOP (i : Nat) (p : Nat) (d : Nat) (k : Nat) : FRef := ⟨TNS_RING_STATE i p d k, 30, 28⟩
abbrev TNS_RING_STATE_HEATER (i : Nat) (p : Nat) (d : Nat) (k : Nat) : FRef := ⟨TNS_RING_STATE i p d k, 15, 0⟩
/-- TNS.RING_FACTORY_p_k_d (spec/04, role M). -/
abbrev TNS_RING_FACTORY (i : Nat) (p : Nat) (d : Nat) (k : Nat) : Nat := 0x2050004 + i * 0x100000 + p * 0x300 + d * 0x180 + k * 0x10
abbrev TNS_RING_FACTORY_HEAT_REF (i : Nat) (p : Nat) (d : Nat) (k : Nat) : FRef := ⟨TNS_RING_FACTORY i p d k, 31, 16⟩
abbrev TNS_RING_FACTORY_EFF (i : Nat) (p : Nat) (d : Nat) (k : Nat) : FRef := ⟨TNS_RING_FACTORY i p d k, 15, 8⟩
abbrev TNS_RING_FACTORY_TCOEF (i : Nat) (p : Nat) (d : Nat) (k : Nat) : FRef := ⟨TNS_RING_FACTORY i p d k, 7, 0⟩
/-- TNS.RING_OFFSET_p_k_d (spec/04, role I). -/
abbrev TNS_RING_OFFSET (i : Nat) (p : Nat) (d : Nat) (k : Nat) : Nat := 0x2050008 + i * 0x100000 + p * 0x300 + d * 0x180 + k * 0x10
abbrev TNS_RING_OFFSET_HEAT_OFS (i : Nat) (p : Nat) (d : Nat) (k : Nat) : FRef := ⟨TNS_RING_OFFSET i p d k, 31, 16⟩
abbrev TNS_RING_OFFSET_EFF_OFS (i : Nat) (p : Nat) (d : Nat) (k : Nat) : FRef := ⟨TNS_RING_OFFSET i p d k, 15, 8⟩
abbrev TNS_RING_OFFSET_TCOEF_OFS (i : Nat) (p : Nat) (d : Nat) (k : Nat) : FRef := ⟨TNS_RING_OFFSET i p d k, 7, 0⟩
/-- TNS.RING_DETUNE_p_k_d (spec/04, role O). -/
abbrev TNS_RING_DETUNE (i : Nat) (p : Nat) (d : Nat) (k : Nat) : Nat := 0x205000c + i * 0x100000 + p * 0x300 + d * 0x180 + k * 0x10
abbrev TNS_RING_DETUNE_DETUNE (i : Nat) (p : Nat) (d : Nat) (k : Nat) : FRef := ⟨TNS_RING_DETUNE i p d k, 31, 16⟩
abbrev TNS_RING_DETUNE_MON_PWR (i : Nat) (p : Nat) (d : Nat) (k : Nat) : FRef := ⟨TNS_RING_DETUNE i p d k, 15, 0⟩
/-- LSU.GAUGE (spec/04, role O). -/
abbrev LSU_GAUGE : Nat := 0x500040
abbrev LSU_GAUGE_STATUS : FRef := ⟨LSU_GAUGE, 31, 28⟩
abbrev LSU_GAUGE_FAILED : FRef := ⟨LSU_GAUGE, 27, 24⟩
/-- LANE.CFG (spec/05, role I). -/
abbrev LANE_CFG (i : Nat) : Nat := 0x2000000 + i * 0x100000
abbrev LANE_CFG_RETRY_MAX (i : Nat) : FRef := ⟨LANE_CFG i, 31, 24⟩
abbrev LANE_CFG_RETRY_WIN (i : Nat) : FRef := ⟨LANE_CFG i, 23, 8⟩
abbrev LANE_CFG_TIMEOUT (i : Nat) : FRef := ⟨LANE_CFG i, 7, 0⟩
/-- LANE.CFG2 (spec/05, role I). -/
abbrev LANE_CFG2 (i : Nat) : Nat := 0x2000004 + i * 0x100000
abbrev LANE_CFG2_PHASE_AGE (i : Nat) : FRef := ⟨LANE_CFG2 i, 31, 16⟩
abbrev LANE_CFG2_SCR_OFF (i : Nat) : FRef := ⟨LANE_CFG2 i, 0, 0⟩
/-- LANE.STATUS (spec/05, role O). -/
abbrev LANE_STATUS (i : Nat) : Nat := 0x2000008 + i * 0x100000
abbrev LANE_STATUS_LANES_UP (i : Nat) : FRef := ⟨LANE_STATUS i, 31, 20⟩
abbrev LANE_STATUS_LANES_FENCED (i : Nat) : FRef := ⟨LANE_STATUS i, 19, 12⟩
abbrev LANE_STATUS_CFG_REJECT (i : Nat) : FRef := ⟨LANE_STATUS i, 0, 0⟩
/-- LANE.PAT_SEL (spec/05, role I). -/
abbrev LANE_PAT_SEL (i : Nat) : Nat := 0x2000010 + i * 0x100000
abbrev LANE_PAT_SEL_PATTERN (i : Nat) : FRef := ⟨LANE_PAT_SEL i, 31, 28⟩
abbrev LANE_PAT_SEL_PLANE (i : Nat) : FRef := ⟨LANE_PAT_SEL i, 13, 8⟩
abbrev LANE_PAT_SEL_K (i : Nat) : FRef := ⟨LANE_PAT_SEL i, 4, 0⟩
/-- LANE.PAT_CTRL (spec/05, role I). -/
abbrev LANE_PAT_CTRL (i : Nat) : Nat := 0x2000014 + i * 0x100000
abbrev LANE_PAT_CTRL_GO (i : Nat) : FRef := ⟨LANE_PAT_CTRL i, 31, 31⟩
abbrev LANE_PAT_CTRL_STOP (i : Nat) : FRef := ⟨LANE_PAT_CTRL i, 30, 30⟩
abbrev LANE_PAT_CTRL_ROWS (i : Nat) : FRef := ⟨LANE_PAT_CTRL i, 15, 0⟩
/-- LANE.PAT_WORD (spec/05, role I). -/
abbrev LANE_PAT_WORD (i : Nat) : Nat := 0x2000018 + i * 0x100000
abbrev LANE_PAT_WORD_WORD (i : Nat) : FRef := ⟨LANE_PAT_WORD i, 31, 0⟩
/-- LANE.PAT_RESULT (spec/05, role O). -/
abbrev LANE_PAT_RESULT (i : Nat) : Nat := 0x200001c + i * 0x100000
abbrev LANE_PAT_RESULT_STATUS (i : Nat) : FRef := ⟨LANE_PAT_RESULT i, 31, 28⟩
abbrev LANE_PAT_RESULT_ROW (i : Nat) : FRef := ⟨LANE_PAT_RESULT i, 15, 0⟩
/-- LANE.PAT_BITS_LO (spec/05, role O). -/
abbrev LANE_PAT_BITS_LO (i : Nat) : Nat := 0x2000020 + i * 0x100000
abbrev LANE_PAT_BITS_LO_BITS (i : Nat) : FRef := ⟨LANE_PAT_BITS_LO i, 31, 0⟩
/-- LANE.PAT_BITS_HI (spec/05, role O). -/
abbrev LANE_PAT_BITS_HI (i : Nat) : Nat := 0x2000024 + i * 0x100000
abbrev LANE_PAT_BITS_HI_BITS (i : Nat) : FRef := ⟨LANE_PAT_BITS_HI i, 15, 0⟩
/-- LANE.PAT_ERRS (spec/05, role O). -/
abbrev LANE_PAT_ERRS (i : Nat) : Nat := 0x2000028 + i * 0x100000
abbrev LANE_PAT_ERRS_ERRS (i : Nat) : FRef := ⟨LANE_PAT_ERRS i, 31, 0⟩
/-- LANE.INJ (spec/05, role I). -/
abbrev LANE_INJ (i : Nat) : Nat := 0x2000030 + i * 0x100000
abbrev LANE_INJ_GO (i : Nat) : FRef := ⟨LANE_INJ i, 31, 31⟩
abbrev LANE_INJ_COUNT_FENCE (i : Nat) : FRef := ⟨LANE_INJ i, 30, 30⟩
abbrev LANE_INJ_MODE (i : Nat) : FRef := ⟨LANE_INJ i, 29, 27⟩
abbrev LANE_INJ_PLANE (i : Nat) : FRef := ⟨LANE_INJ i, 13, 8⟩
abbrev LANE_INJ_K (i : Nat) : FRef := ⟨LANE_INJ i, 4, 0⟩
/-- LANE.INJ_RESULT (spec/05, role O). -/
abbrev LANE_INJ_RESULT (i : Nat) : Nat := 0x2000034 + i * 0x100000
abbrev LANE_INJ_RESULT_STATUS (i : Nat) : FRef := ⟨LANE_INJ_RESULT i, 31, 28⟩
abbrev LANE_INJ_RESULT_ROW (i : Nat) : FRef := ⟨LANE_INJ_RESULT i, 15, 0⟩
/-- LANE.STATE_p_k (spec/05, role O). -/
abbrev LANE_STATE (i : Nat) (p : Nat) (k : Nat) : Nat := 0x2010000 + i * 0x100000 + p * 0x300 + k * 0x20
abbrev LANE_STATE_STATE (i : Nat) (p : Nat) (k : Nat) : FRef := ⟨LANE_STATE i p k, 31, 28⟩
abbrev LANE_STATE_REASON (i : Nat) (p : Nat) (k : Nat) : FRef := ⟨LANE_STATE i p k, 27, 24⟩
abbrev LANE_STATE_WIN_COUNT (i : Nat) (p : Nat) (k : Nat) : FRef := ⟨LANE_STATE i p k, 23, 16⟩
abbrev LANE_STATE_NEXT_SEQ (i : Nat) (p : Nat) (k : Nat) : FRef := ⟨LANE_STATE i p k, 15, 0⟩
/-- LANE.RETRY_p_k (spec/05, role O). -/
abbrev LANE_RETRY (i : Nat) (p : Nat) (k : Nat) : Nat := 0x2010004 + i * 0x100000 + p * 0x300 + k * 0x20
abbrev LANE_RETRY_COUNT (i : Nat) (p : Nat) (k : Nat) : FRef := ⟨LANE_RETRY i p k, 31, 0⟩
/-- LANE.RX_ERR_p_k (spec/05, role O). -/
abbrev LANE_RX_ERR (i : Nat) (p : Nat) (k : Nat) : Nat := 0x2010008 + i * 0x100000 + p * 0x300 + k * 0x20
abbrev LANE_RX_ERR_CRC_FAIL (i : Nat) (p : Nat) (k : Nat) : FRef := ⟨LANE_RX_ERR i p k, 31, 16⟩
abbrev LANE_RX_ERR_REFUSED (i : Nat) (p : Nat) (k : Nat) : FRef := ⟨LANE_RX_ERR i p k, 15, 8⟩
abbrev LANE_RX_ERR_MARKER (i : Nat) (p : Nat) (k : Nat) : FRef := ⟨LANE_RX_ERR i p k, 7, 0⟩
/-- LANE.FILL_ERR_p_k (spec/05, role O). -/
abbrev LANE_FILL_ERR (i : Nat) (p : Nat) (k : Nat) : Nat := 0x201000c + i * 0x100000 + p * 0x300 + k * 0x20
abbrev LANE_FILL_ERR_ERRS (i : Nat) (p : Nat) (k : Nat) : FRef := ⟨LANE_FILL_ERR i p k, 31, 0⟩
/-- LANE.TXEQ_p_k (spec/05, role O). -/
abbrev LANE_TXEQ (i : Nat) (p : Nat) (k : Nat) : Nat := 0x2010010 + i * 0x100000 + p * 0x300 + k * 0x20
abbrev LANE_TXEQ_PRE (i : Nat) (p : Nat) (k : Nat) : FRef := ⟨LANE_TXEQ i p k, 31, 24⟩
abbrev LANE_TXEQ_MAIN (i : Nat) (p : Nat) (k : Nat) : FRef := ⟨LANE_TXEQ i p k, 23, 16⟩
abbrev LANE_TXEQ_POST (i : Nat) (p : Nat) (k : Nat) : FRef := ⟨LANE_TXEQ i p k, 15, 8⟩
abbrev LANE_TXEQ_OVR (i : Nat) (p : Nat) (k : Nat) : FRef := ⟨LANE_TXEQ i p k, 0, 0⟩
/-- LANE.EQ_OVR_p_k (spec/05, role I). -/
abbrev LANE_EQ_OVR (i : Nat) (p : Nat) (k : Nat) : Nat := 0x2010014 + i * 0x100000 + p * 0x300 + k * 0x20
abbrev LANE_EQ_OVR_PRE (i : Nat) (p : Nat) (k : Nat) : FRef := ⟨LANE_EQ_OVR i p k, 31, 24⟩
abbrev LANE_EQ_OVR_POST (i : Nat) (p : Nat) (k : Nat) : FRef := ⟨LANE_EQ_OVR i p k, 15, 8⟩
abbrev LANE_EQ_OVR_EN (i : Nat) (p : Nat) (k : Nat) : FRef := ⟨LANE_EQ_OVR i p k, 0, 0⟩
/-- SITE.XPORT_CFG (spec/06, role I). -/
abbrev SITE_XPORT_CFG (i : Nat) : Nat := 0x1000800 + i * 0x10000
abbrev SITE_XPORT_CFG_E2E_TIMEOUT (i : Nat) : FRef := ⟨SITE_XPORT_CFG i, 31, 16⟩
abbrev SITE_XPORT_CFG_ACK_DELAY (i : Nat) : FRef := ⟨SITE_XPORT_CFG i, 15, 8⟩
abbrev SITE_XPORT_CFG_MSG_TIMEOUT (i : Nat) : FRef := ⟨SITE_XPORT_CFG i, 7, 0⟩
/-- SITE.XPORT_STATUS (spec/06, role O). -/
abbrev SITE_XPORT_STATUS (i : Nat) : Nat := 0x1000804 + i * 0x10000
abbrev SITE_XPORT_STATUS_FLOWS (i : Nat) : FRef := ⟨SITE_XPORT_STATUS i, 31, 20⟩
abbrev SITE_XPORT_STATUS_OUTSTANDING (i : Nat) : FRef := ⟨SITE_XPORT_STATUS i, 17, 1⟩
abbrev SITE_XPORT_STATUS_CFG_REJECT (i : Nat) : FRef := ⟨SITE_XPORT_STATUS i, 0, 0⟩
/-- SITE.E2E_FAIL (spec/06, role O). -/
abbrev SITE_E2E_FAIL (i : Nat) : Nat := 0x1000808 + i * 0x10000
abbrev SITE_E2E_FAIL_COUNT (i : Nat) : FRef := ⟨SITE_E2E_FAIL i, 31, 0⟩
/-- SITE.E2E_LAST (spec/06, role O). -/
abbrev SITE_E2E_LAST (i : Nat) : Nat := 0x100080c + i * 0x10000
abbrev SITE_E2E_LAST_PLANE (i : Nat) : FRef := ⟨SITE_E2E_LAST i, 31, 26⟩
abbrev SITE_E2E_LAST_K (i : Nat) : FRef := ⟨SITE_E2E_LAST i, 25, 21⟩
abbrev SITE_E2E_LAST_SRC_SITE (i : Nat) : FRef := ⟨SITE_E2E_LAST i, 20, 16⟩
abbrev SITE_E2E_LAST_ROW (i : Nat) : FRef := ⟨SITE_E2E_LAST i, 15, 0⟩
/-- SITE.LATE (spec/06, role O). -/
abbrev SITE_LATE (i : Nat) : Nat := 0x1000810 + i * 0x10000
abbrev SITE_LATE_COUNT (i : Nat) : FRef := ⟨SITE_LATE i, 31, 0⟩
/-- SITE.MSG_TABLE (spec/06, role O). -/
abbrev SITE_MSG_TABLE (i : Nat) : Nat := 0x1000814 + i * 0x10000
abbrev SITE_MSG_TABLE_REFUSALS (i : Nat) : FRef := ⟨SITE_MSG_TABLE i, 31, 23⟩
abbrev SITE_MSG_TABLE_ORPHANS (i : Nat) : FRef := ⟨SITE_MSG_TABLE i, 15, 0⟩
/-- SITE.REFUSED_s (spec/06, role O). -/
abbrev SITE_REFUSED (i : Nat) (s : Nat) : Nat := 0x1000900 + i * 0x10000 + s * 0x4
abbrev SITE_REFUSED_COUNT (i : Nat) (s : Nat) : FRef := ⟨SITE_REFUSED i s, 31, 0⟩
/-- SITE.RQ_CFG_q (spec/06, role O). -/
abbrev SITE_RQ_CFG (i : Nat) (q : Nat) : Nat := 0x1001000 + i * 0x10000 + q * 0x10
abbrev SITE_RQ_CFG_EN (i : Nat) (q : Nat) : FRef := ⟨SITE_RQ_CFG i q, 31, 31⟩
abbrev SITE_RQ_CFG_REMOTE_READ (i : Nat) (q : Nat) : FRef := ⟨SITE_RQ_CFG i q, 30, 30⟩
abbrev SITE_RQ_CFG_TENANT (i : Nat) (q : Nat) : FRef := ⟨SITE_RQ_CFG i q, 29, 26⟩
abbrev SITE_RQ_CFG_SLOT_STITCHES (i : Nat) (q : Nat) : FRef := ⟨SITE_RQ_CFG i q, 22, 15⟩
abbrev SITE_RQ_CFG_DEPTH_LOG2 (i : Nat) (q : Nat) : FRef := ⟨SITE_RQ_CFG i q, 14, 11⟩
/-- SITE.RQ_BASE_q (spec/06, role O). -/
abbrev SITE_RQ_BASE (i : Nat) (q : Nat) : Nat := 0x1001004 + i * 0x10000 + q * 0x10
abbrev SITE_RQ_BASE_BASE (i : Nat) (q : Nat) : FRef := ⟨SITE_RQ_BASE i q, 14, 0⟩
/-- SITE.RQ_STATE_q (spec/06, role O). -/
abbrev SITE_RQ_STATE (i : Nat) (q : Nat) : Nat := 0x1001008 + i * 0x10000 + q * 0x10
abbrev SITE_RQ_STATE_FILLED (i : Nat) (q : Nat) : FRef := ⟨SITE_RQ_STATE i q, 31, 16⟩
abbrev SITE_RQ_STATE_RESERVED (i : Nat) (q : Nat) : FRef := ⟨SITE_RQ_STATE i q, 15, 0⟩
/-- SITE.RQ_REFUSED_q (spec/06, role O). -/
abbrev SITE_RQ_REFUSED (i : Nat) (q : Nat) : Nat := 0x100100c + i * 0x10000 + q * 0x10
abbrev SITE_RQ_REFUSED_COUNT (i : Nat) (q : Nat) : FRef := ⟨SITE_RQ_REFUSED i q, 31, 0⟩
/-- PART.TENANT_t (spec/06, role O). -/
abbrev PART_TENANT (t : Nat) : Nat := 0x700000 + t * 0x10
abbrev PART_TENANT_EN (t : Nat) : FRef := ⟨PART_TENANT t, 31, 31⟩
abbrev PART_TENANT_SHARE (t : Nat) : FRef := ⟨PART_TENANT t, 8, 0⟩
/-- PART.STATUS (spec/06, role O). -/
abbrev PART_STATUS : Nat := 0x700100
abbrev PART_STATUS_SHARE_SUM : FRef := ⟨PART_STATUS, 24, 16⟩
abbrev PART_STATUS_SHARE_REJECT : FRef := ⟨PART_STATUS, 1, 1⟩
abbrev PART_STATUS_CFG_REJECT : FRef := ⟨PART_STATUS, 0, 0⟩
/-- PART.SLOTS_LO_t (spec/06, role O). -/
abbrev PART_SLOTS_LO (t : Nat) : Nat := 0x700200 + t * 0x8
abbrev PART_SLOTS_LO_SLOTS (t : Nat) : FRef := ⟨PART_SLOTS_LO t, 31, 0⟩
/-- PART.SLOTS_HI_t (spec/06, role O). -/
abbrev PART_SLOTS_HI (t : Nat) : Nat := 0x700204 + t * 0x8
abbrev PART_SLOTS_HI_SLOTS (t : Nat) : FRef := ⟨PART_SLOTS_HI t, 15, 0⟩
/-- CIRC.CFG (spec/07, role I). -/
abbrev CIRC_CFG : Nat := 0x5100000
abbrev CIRC_CFG_DEFER_MAX : FRef := ⟨CIRC_CFG, 31, 24⟩
abbrev CIRC_CFG_RUN_WAIT : FRef := ⟨CIRC_CFG, 23, 8⟩
/-- CIRC.STATUS (spec/07, role O). -/
abbrev CIRC_STATUS : Nat := 0x5100004
abbrev CIRC_STATUS_PAT_REJECT : FRef := ⟨CIRC_STATUS, 2, 2⟩
abbrev CIRC_STATUS_ALLOT_REJECT : FRef := ⟨CIRC_STATUS, 1, 1⟩
abbrev CIRC_STATUS_CFG_REJECT : FRef := ⟨CIRC_STATUS, 0, 0⟩
/-- CIRC.COUNTS (spec/07, role O). -/
abbrev CIRC_COUNTS : Nat := 0x5100008
abbrev CIRC_COUNTS_CUT : FRef := ⟨CIRC_COUNTS, 31, 16⟩
abbrev CIRC_COUNTS_DEFERS : FRef := ⟨CIRC_COUNTS, 15, 0⟩
/-- CIRC.ALLOT_e (spec/07, role O). -/
abbrev CIRC_ALLOT (e : Nat) : Nat := 0x5100100 + e * 0x4
abbrev CIRC_ALLOT_EN (e : Nat) : FRef := ⟨CIRC_ALLOT e, 31, 31⟩
abbrev CIRC_ALLOT_TENANT (e : Nat) : FRef := ⟨CIRC_ALLOT e, 3, 0⟩
/-- CIRC.ARM_t (spec/07, role O). -/
abbrev CIRC_ARM (t : Nat) : Nat := 0x5100400 + t * 0x10
abbrev CIRC_ARM_GO (t : Nat) : FRef := ⟨CIRC_ARM t, 31, 31⟩
abbrev CIRC_ARM_CANCEL (t : Nat) : FRef := ⟨CIRC_ARM t, 30, 30⟩
abbrev CIRC_ARM_MODE (t : Nat) : FRef := ⟨CIRC_ARM t, 29, 28⟩
abbrev CIRC_ARM_PATTERN (t : Nat) : FRef := ⟨CIRC_ARM t, 21, 16⟩
abbrev CIRC_ARM_ROW (t : Nat) : FRef := ⟨CIRC_ARM t, 15, 0⟩
/-- CIRC.ARM_SYNC_t (spec/07, role O). -/
abbrev CIRC_ARM_SYNC (t : Nat) : Nat := 0x5100404 + t * 0x10
abbrev CIRC_ARM_SYNC_SYNC (t : Nat) : FRef := ⟨CIRC_ARM_SYNC t, 15, 0⟩
/-- CIRC.ARM_VALUE_t (spec/07, role O). -/
abbrev CIRC_ARM_VALUE (t : Nat) : Nat := 0x5100408 + t * 0x10
abbrev CIRC_ARM_VALUE_VALUE (t : Nat) : FRef := ⟨CIRC_ARM_VALUE t, 31, 0⟩
/-- CIRC.ARM_RESULT_t (spec/07, role O). -/
abbrev CIRC_ARM_RESULT (t : Nat) : Nat := 0x510040c + t * 0x10
abbrev CIRC_ARM_RESULT_STATUS (t : Nat) : FRef := ⟨CIRC_ARM_RESULT t, 31, 28⟩
abbrev CIRC_ARM_RESULT_PATTERN (t : Nat) : FRef := ⟨CIRC_ARM_RESULT t, 21, 16⟩
abbrev CIRC_ARM_RESULT_ROW (t : Nat) : FRef := ⟨CIRC_ARM_RESULT t, 15, 0⟩
/-- CIRC.PLANE_e (spec/07, role O). -/
abbrev CIRC_PLANE (e : Nat) : Nat := 0x5100600 + e * 0x4
abbrev CIRC_PLANE_STATE (e : Nat) : FRef := ⟨CIRC_PLANE e, 31, 30⟩
abbrev CIRC_PLANE_DST_BANK (e : Nat) : FRef := ⟨CIRC_PLANE e, 29, 23⟩
abbrev CIRC_PLANE_TENANT (e : Nat) : FRef := ⟨CIRC_PLANE e, 22, 19⟩
abbrev CIRC_PLANE_OPEN_RUNS (e : Nat) : FRef := ⟨CIRC_PLANE e, 18, 14⟩
abbrev CIRC_PLANE_DEAL_LANES (e : Nat) : FRef := ⟨CIRC_PLANE e, 13, 8⟩
abbrev CIRC_PLANE_RUN_NO (e : Nat) : FRef := ⟨CIRC_PLANE e, 7, 0⟩
/-- CIRC.PORT_ASSIGN_j (spec/07, role I). -/
abbrev CIRC_PORT_ASSIGN (j : Nat) : Nat := 0x5100800 + j * 0x4
abbrev CIRC_PORT_ASSIGN_GO (j : Nat) : FRef := ⟨CIRC_PORT_ASSIGN j, 31, 31⟩
abbrev CIRC_PORT_ASSIGN_RES_LANES (j : Nat) : FRef := ⟨CIRC_PORT_ASSIGN j, 29, 24⟩
abbrev CIRC_PORT_ASSIGN_EXPRESS (j : Nat) : FRef := ⟨CIRC_PORT_ASSIGN j, 23, 23⟩
abbrev CIRC_PORT_ASSIGN_TENANT (j : Nat) : FRef := ⟨CIRC_PORT_ASSIGN j, 19, 16⟩
abbrev CIRC_PORT_ASSIGN_STATUS (j : Nat) : FRef := ⟨CIRC_PORT_ASSIGN j, 15, 12⟩
/-- CIRC.PAT_HDR_p (spec/07, role O). -/
abbrev CIRC_PAT_HDR (p : Nat) : Nat := 0x5101000 + p * 0x4
abbrev CIRC_PAT_HDR_CHAIN (p : Nat) : FRef := ⟨CIRC_PAT_HDR p, 31, 31⟩
abbrev CIRC_PAT_HDR_NEXT (p : Nat) : FRef := ⟨CIRC_PAT_HDR p, 29, 24⟩
abbrev CIRC_PAT_HDR_STEP (p : Nat) : FRef := ⟨CIRC_PAT_HDR p, 19, 4⟩
abbrev CIRC_PAT_HDR_TENANT (p : Nat) : FRef := ⟨CIRC_PAT_HDR p, 3, 0⟩
/-- CIRC.PAT_p_e (spec/07, role O). -/
abbrev CIRC_PAT (p : Nat) (e : Nat) : Nat := 0x5108000 + p * 0x200 + e * 0x4
abbrev CIRC_PAT_VALID (p : Nat) (e : Nat) : FRef := ⟨CIRC_PAT p e, 31, 31⟩
abbrev CIRC_PAT_DST_BANK (p : Nat) (e : Nat) : FRef := ⟨CIRC_PAT p e, 30, 24⟩
abbrev CIRC_PAT_TENANT (p : Nat) (e : Nat) : FRef := ⟨CIRC_PAT p e, 23, 20⟩
/-- EDGE.CFG (spec/08, role I). -/
abbrev EDGE_CFG (j : Nat) : Nat := 0x4000000 + j * 0x40000
abbrev EDGE_CFG_RETRY_MAX (j : Nat) : FRef := ⟨EDGE_CFG j, 31, 24⟩
abbrev EDGE_CFG_RETRY_WIN (j : Nat) : FRef := ⟨EDGE_CFG j, 23, 8⟩
abbrev EDGE_CFG_MIN_LANES (j : Nat) : FRef := ⟨EDGE_CFG j, 7, 0⟩
/-- EDGE.CFG2 (spec/08, role I). -/
abbrev EDGE_CFG2 (j : Nat) : Nat := 0x4000004 + j * 0x40000
abbrev EDGE_CFG2_TIMEOUT (j : Nat) : FRef := ⟨EDGE_CFG2 j, 31, 22⟩
abbrev EDGE_CFG2_FLAP_MAX (j : Nat) : FRef := ⟨EDGE_CFG2 j, 21, 16⟩
abbrev EDGE_CFG2_RECORD_WAIT (j : Nat) : FRef := ⟨EDGE_CFG2 j, 15, 8⟩
abbrev EDGE_CFG2_EN (j : Nat) : FRef := ⟨EDGE_CFG2 j, 0, 0⟩
/-- EDGE.STATUS (spec/08, role O). -/
abbrev EDGE_STATUS (j : Nat) : Nat := 0x4000008 + j * 0x40000
abbrev EDGE_STATUS_STATE (j : Nat) : FRef := ⟨EDGE_STATUS j, 31, 28⟩
abbrev EDGE_STATUS_REASON (j : Nat) : FRef := ⟨EDGE_STATUS j, 27, 24⟩
abbrev EDGE_STATUS_LANES_IN (j : Nat) : FRef := ⟨EDGE_STATUS j, 23, 16⟩
abbrev EDGE_STATUS_SPARES_TX (j : Nat) : FRef := ⟨EDGE_STATUS j, 15, 14⟩
abbrev EDGE_STATUS_SPARES_RX (j : Nat) : FRef := ⟨EDGE_STATUS j, 13, 12⟩
abbrev EDGE_STATUS_CFG_REJECT (j : Nat) : FRef := ⟨EDGE_STATUS j, 0, 0⟩
/-- EDGE.PARTNER (spec/08, role O). -/
abbrev EDGE_PARTNER (j : Nat) : Nat := 0x400000c + j * 0x40000
abbrev EDGE_PARTNER_NODE (j : Nat) : FRef := ⟨EDGE_PARTNER j, 31, 20⟩
abbrev EDGE_PARTNER_SITE (j : Nat) : FRef := ⟨EDGE_PARTNER j, 19, 15⟩
abbrev EDGE_PARTNER_PORT (j : Nat) : FRef := ⟨EDGE_PARTNER j, 14, 11⟩
abbrev EDGE_PARTNER_VALID (j : Nat) : FRef := ⟨EDGE_PARTNER j, 0, 0⟩
/-- EDGE.LIGHT (spec/08, role O). -/
abbrev EDGE_LIGHT (j : Nat) : Nat := 0x4000010 + j * 0x40000
abbrev EDGE_LIGHT_DATA_IN (j : Nat) : FRef := ⟨EDGE_LIGHT j, 31, 16⟩
abbrev EDGE_LIGHT_LO_IN (j : Nat) : FRef := ⟨EDGE_LIGHT j, 15, 0⟩
/-- EDGE.COUNTS (spec/08, role O). -/
abbrev EDGE_COUNTS (j : Nat) : Nat := 0x4000014 + j * 0x40000
abbrev EDGE_COUNTS_DOWNS (j : Nat) : FRef := ⟨EDGE_COUNTS j, 31, 16⟩
abbrev EDGE_COUNTS_REISSUED (j : Nat) : FRef := ⟨EDGE_COUNTS j, 15, 0⟩
/-- EDGE.CTRL (spec/08, role I). -/
abbrev EDGE_CTRL (j : Nat) : Nat := 0x4000018 + j * 0x40000
abbrev EDGE_CTRL_RETRAIN (j : Nat) : FRef := ⟨EDGE_CTRL j, 31, 31⟩
abbrev EDGE_CTRL_DOWN (j : Nat) : FRef := ⟨EDGE_CTRL j, 30, 30⟩
/-- EDGE.SPARE_TX (spec/08, role O). -/
abbrev EDGE_SPARE_TX (j : Nat) : Nat := 0x4000020 + j * 0x40000
abbrev EDGE_SPARE_TX_SPARES (j : Nat) : FRef := ⟨EDGE_SPARE_TX j, 29, 0⟩
/-- EDGE.SPARE_RX (spec/08, role O). -/
abbrev EDGE_SPARE_RX (j : Nat) : Nat := 0x4000024 + j * 0x40000
abbrev EDGE_SPARE_RX_SPARES (j : Nat) : FRef := ⟨EDGE_SPARE_RX j, 29, 0⟩
/-- EDGE.LANE_STATE_l (spec/08, role O). -/
abbrev EDGE_LANE_STATE (j : Nat) (l : Nat) : Nat := 0x4001000 + j * 0x40000 + l * 0x20
abbrev EDGE_LANE_STATE_TX_STATE (j : Nat) (l : Nat) : FRef := ⟨EDGE_LANE_STATE j l, 31, 28⟩
abbrev EDGE_LANE_STATE_RX_STATE (j : Nat) (l : Nat) : FRef := ⟨EDGE_LANE_STATE j l, 27, 24⟩
abbrev EDGE_LANE_STATE_REASON (j : Nat) (l : Nat) : FRef := ⟨EDGE_LANE_STATE j l, 23, 20⟩
abbrev EDGE_LANE_STATE_TX_ON (j : Nat) (l : Nat) : FRef := ⟨EDGE_LANE_STATE j l, 19, 14⟩
abbrev EDGE_LANE_STATE_RX_ON (j : Nat) (l : Nat) : FRef := ⟨EDGE_LANE_STATE j l, 13, 8⟩
abbrev EDGE_LANE_STATE_WIN_COUNT (j : Nat) (l : Nat) : FRef := ⟨EDGE_LANE_STATE j l, 7, 0⟩
/-- EDGE.LANE_RETRY_l (spec/08, role O). -/
abbrev EDGE_LANE_RETRY (j : Nat) (l : Nat) : Nat := 0x4001004 + j * 0x40000 + l * 0x20
abbrev EDGE_LANE_RETRY_COUNT (j : Nat) (l : Nat) : FRef := ⟨EDGE_LANE_RETRY j l, 31, 0⟩
/-- EDGE.LANE_RX_ERR_l (spec/08, role O). -/
abbrev EDGE_LANE_RX_ERR (j : Nat) (l : Nat) : Nat := 0x4001008 + j * 0x40000 + l * 0x20
abbrev EDGE_LANE_RX_ERR_CRC_FAIL (j : Nat) (l : Nat) : FRef := ⟨EDGE_LANE_RX_ERR j l, 31, 16⟩
abbrev EDGE_LANE_RX_ERR_REFUSED (j : Nat) (l : Nat) : FRef := ⟨EDGE_LANE_RX_ERR j l, 15, 8⟩
abbrev EDGE_LANE_RX_ERR_MARKER (j : Nat) (l : Nat) : FRef := ⟨EDGE_LANE_RX_ERR j l, 7, 0⟩
/-- EDGE.LANE_FEC_CORR_l (spec/08, role O). -/
abbrev EDGE_LANE_FEC_CORR (j : Nat) (l : Nat) : Nat := 0x400100c + j * 0x40000 + l * 0x20
abbrev EDGE_LANE_FEC_CORR_CODEWORDS (j : Nat) (l : Nat) : FRef := ⟨EDGE_LANE_FEC_CORR j l, 31, 0⟩
/-- EDGE.LANE_FEC_UNCORR_l (spec/08, role O). -/
abbrev EDGE_LANE_FEC_UNCORR (j : Nat) (l : Nat) : Nat := 0x4001010 + j * 0x40000 + l * 0x20
abbrev EDGE_LANE_FEC_UNCORR_CODEWORDS (j : Nat) (l : Nat) : FRef := ⟨EDGE_LANE_FEC_UNCORR j l, 31, 0⟩
/-- EDGE.LANE_COH_l (spec/08, role O). -/
abbrev EDGE_LANE_COH (j : Nat) (l : Nat) : Nat := 0x4001014 + j * 0x40000 + l * 0x20
abbrev EDGE_LANE_COH_TX_BIAS (j : Nat) (l : Nat) : FRef := ⟨EDGE_LANE_COH j l, 31, 31⟩
abbrev EDGE_LANE_COH_LO_POL (j : Nat) (l : Nat) : FRef := ⟨EDGE_LANE_COH j l, 30, 30⟩
abbrev EDGE_LANE_COH_BRANCH (j : Nat) (l : Nat) : FRef := ⟨EDGE_LANE_COH j l, 29, 29⟩
abbrev EDGE_LANE_COH_PHASE (j : Nat) (l : Nat) : FRef := ⟨EDGE_LANE_COH j l, 28, 28⟩
abbrev EDGE_LANE_COH_CDR (j : Nat) (l : Nat) : FRef := ⟨EDGE_LANE_COH j l, 27, 27⟩
abbrev EDGE_LANE_COH_HOLD (j : Nat) (l : Nat) : FRef := ⟨EDGE_LANE_COH j l, 26, 26⟩
abbrev EDGE_LANE_COH_ROTATION (j : Nat) (l : Nat) : FRef := ⟨EDGE_LANE_COH j l, 25, 24⟩
abbrev EDGE_LANE_COH_SNR (j : Nat) (l : Nat) : FRef := ⟨EDGE_LANE_COH j l, 15, 0⟩
/-- EDGE.LANE_TXEQ_l (spec/08, role O). -/
abbrev EDGE_LANE_TXEQ (j : Nat) (l : Nat) : Nat := 0x4001018 + j * 0x40000 + l * 0x20
abbrev EDGE_LANE_TXEQ_PRE (j : Nat) (l : Nat) : FRef := ⟨EDGE_LANE_TXEQ j l, 31, 24⟩
abbrev EDGE_LANE_TXEQ_MAIN (j : Nat) (l : Nat) : FRef := ⟨EDGE_LANE_TXEQ j l, 23, 16⟩
abbrev EDGE_LANE_TXEQ_POST (j : Nat) (l : Nat) : FRef := ⟨EDGE_LANE_TXEQ j l, 15, 8⟩
/-- EDGE.LANE_RXPWR_l (spec/08, role O). -/
abbrev EDGE_LANE_RXPWR (j : Nat) (l : Nat) : Nat := 0x400101c + j * 0x40000 + l * 0x20
abbrev EDGE_LANE_RXPWR_DATA (j : Nat) (l : Nat) : FRef := ⟨EDGE_LANE_RXPWR j l, 31, 16⟩
abbrev EDGE_LANE_RXPWR_LO (j : Nat) (l : Nat) : FRef := ⟨EDGE_LANE_RXPWR j l, 15, 0⟩
/-- ROUTE.NODE (spec/09, role I). -/
abbrev ROUTE_NODE : Nat := 0x4800000
abbrev ROUTE_NODE_NODE : FRef := ⟨ROUTE_NODE, 11, 0⟩
/-- ROUTE.DIMS (spec/09, role I). -/
abbrev ROUTE_DIMS : Nat := 0x4800004
abbrev ROUTE_DIMS_DZ : FRef := ⟨ROUTE_DIMS, 14, 10⟩
abbrev ROUTE_DIMS_DY : FRef := ⟨ROUTE_DIMS, 9, 5⟩
abbrev ROUTE_DIMS_DX : FRef := ⟨ROUTE_DIMS, 4, 0⟩
/-- ROUTE.CFG (spec/09, role I). -/
abbrev ROUTE_CFG : Nat := 0x4800008
abbrev ROUTE_CFG_EXP_GAIN : FRef := ⟨ROUTE_CFG, 31, 24⟩
abbrev ROUTE_CFG_ESC_WAIT : FRef := ⟨ROUTE_CFG, 23, 16⟩
abbrev ROUTE_CFG_DETOUR_WAIT : FRef := ⟨ROUTE_CFG, 15, 0⟩
/-- ROUTE.STATUS (spec/09, role O). -/
abbrev ROUTE_STATUS : Nat := 0x480000c
abbrev ROUTE_STATUS_LEVEL_MAX : FRef := ⟨ROUTE_STATUS, 31, 24⟩
abbrev ROUTE_STATUS_LEVEL_MIN : FRef := ⟨ROUTE_STATUS, 23, 16⟩
abbrev ROUTE_STATUS_NODE_BAD : FRef := ⟨ROUTE_STATUS, 2, 2⟩
abbrev ROUTE_STATUS_STOPPED : FRef := ⟨ROUTE_STATUS, 1, 1⟩
abbrev ROUTE_STATUS_CFG_REJECT : FRef := ⟨ROUTE_STATUS, 0, 0⟩
/-- ROUTE.FM (spec/09, role I). -/
abbrev ROUTE_FM : Nat := 0x4800010
abbrev ROUTE_FM_EN : FRef := ⟨ROUTE_FM, 31, 31⟩
abbrev ROUTE_FM_NODE : FRef := ⟨ROUTE_FM, 11, 0⟩
/-- ROUTE.FAULTS (spec/09, role O). -/
abbrev ROUTE_FAULTS : Nat := 0x4800014
abbrev ROUTE_FAULTS_HOP_FAULT : FRef := ⟨ROUTE_FAULTS, 31, 16⟩
abbrev ROUTE_FAULTS_LEVEL_DROP : FRef := ⟨ROUTE_FAULTS, 15, 0⟩
/-- ROUTE.ESCAPES (spec/09, role O). -/
abbrev ROUTE_ESCAPES : Nat := 0x4800018
abbrev ROUTE_ESCAPES_COUNT : FRef := ⟨ROUTE_ESCAPES, 31, 0⟩
/-- ROUTE.DETOUR (spec/09, role O). -/
abbrev ROUTE_DETOUR : Nat := 0x480001c
abbrev ROUTE_DETOUR_WAITING : FRef := ⟨ROUTE_DETOUR, 31, 16⟩
abbrev ROUTE_DETOUR_NACKED : FRef := ⟨ROUTE_DETOUR, 15, 0⟩
/-- ROUTE.PORT_MAP_j (spec/09, role I). -/
abbrev ROUTE_PORT_MAP (j : Nat) : Nat := 0x4800040 + j * 0x4
abbrev ROUTE_PORT_MAP_ROLE (j : Nat) : FRef := ⟨ROUTE_PORT_MAP j, 2, 0⟩
/-- ROUTE.PORT_INFO_j (spec/09, role O). -/
abbrev ROUTE_PORT_INFO (j : Nat) : Nat := 0x4800100 + j * 0x10
abbrev ROUTE_PORT_INFO_LEVEL (j : Nat) : FRef := ⟨ROUTE_PORT_INFO j, 31, 24⟩
abbrev ROUTE_PORT_INFO_CTRL (j : Nat) : FRef := ⟨ROUTE_PORT_INFO j, 23, 14⟩
/-- ROUTE.PORT_DEPTH_j (spec/09, role O). -/
abbrev ROUTE_PORT_DEPTH (j : Nat) : Nat := 0x4800104 + j * 0x10
abbrev ROUTE_PORT_DEPTH_ADAPT (j : Nat) : FRef := ⟨ROUTE_PORT_DEPTH j, 31, 16⟩
abbrev ROUTE_PORT_DEPTH_ESC (j : Nat) : FRef := ⟨ROUTE_PORT_DEPTH j, 15, 0⟩
/-- ROUTE.PORT_CREDIT_j (spec/09, role O). -/
abbrev ROUTE_PORT_CREDIT (j : Nat) : Nat := 0x4800108 + j * 0x10
abbrev ROUTE_PORT_CREDIT_ADAPT (j : Nat) : FRef := ⟨ROUTE_PORT_CREDIT j, 31, 16⟩
abbrev ROUTE_PORT_CREDIT_ESC (j : Nat) : FRef := ⟨ROUTE_PORT_CREDIT j, 15, 0⟩
/-- ROUTE.NO_RES_k (spec/09, role O). -/
abbrev ROUTE_NO_RES (k : Nat) : Nat := 0x4800200 + k * 0x4
abbrev ROUTE_NO_RES_COUNT (k : Nat) : FRef := ⟨ROUTE_NO_RES k, 31, 0⟩
/-- ROUTE.NODE_STATE_n (spec/09, role I). -/
abbrev ROUTE_NODE_STATE (n : Nat) : Nat := 0x4810000 + n * 0x4
abbrev ROUTE_NODE_STATE_STATE (n : Nat) : FRef := ⟨ROUTE_NODE_STATE n, 31, 30⟩
abbrev ROUTE_NODE_STATE_OVR_EN (n : Nat) : FRef := ⟨ROUTE_NODE_STATE n, 29, 29⟩
abbrev ROUTE_NODE_STATE_WAITING (n : Nat) : FRef := ⟨ROUTE_NODE_STATE n, 28, 28⟩
abbrev ROUTE_NODE_STATE_MASK (n : Nat) : FRef := ⟨ROUTE_NODE_STATE n, 15, 0⟩
/-- RED.CFG (spec/10, role I). -/
abbrev RED_CFG : Nat := 0x5000000
abbrev RED_CFG_FLUSH_ROWS : FRef := ⟨RED_CFG, 31, 24⟩
abbrev RED_CFG_DET_WAIT : FRef := ⟨RED_CFG, 23, 8⟩
abbrev RED_CFG_COMBINE_EN : FRef := ⟨RED_CFG, 0, 0⟩
/-- RED.STATUS (spec/10, role O). -/
abbrev RED_STATUS : Nat := 0x5000004
abbrev RED_STATUS_CTX_USED : FRef := ⟨RED_STATUS, 31, 21⟩
abbrev RED_STATUS_GROUPS_SET : FRef := ⟨RED_STATUS, 20, 8⟩
abbrev RED_STATUS_CFG_REJECT : FRef := ⟨RED_STATUS, 0, 0⟩
/-- RED.MC_HOME (spec/10, role I). -/
abbrev RED_MC_HOME : Nat := 0x5000008
abbrev RED_MC_HOME_EN : FRef := ⟨RED_MC_HOME, 31, 31⟩
abbrev RED_MC_HOME_NODE : FRef := ⟨RED_MC_HOME, 11, 0⟩
/-- RED.COUNTS (spec/10, role O). -/
abbrev RED_COUNTS : Nat := 0x500000c
abbrev RED_COUNTS_PASSED : FRef := ⟨RED_COUNTS, 31, 16⟩
abbrev RED_COUNTS_FLUSHED : FRef := ⟨RED_COUNTS, 15, 0⟩
/-- RED.MC_DROP (spec/10, role O). -/
abbrev RED_MC_DROP : Nat := 0x5000010
abbrev RED_MC_DROP_COUNT : FRef := ⟨RED_MC_DROP, 31, 0⟩
/-- RED.DET_COUNTS (spec/10, role O). -/
abbrev RED_DET_COUNTS : Nat := 0x5000014
abbrev RED_DET_COUNTS_PARTIAL : FRef := ⟨RED_DET_COUNTS, 31, 16⟩
abbrev RED_DET_COUNTS_FULL : FRef := ⟨RED_DET_COUNTS, 15, 0⟩
/-- RED.UNIT_u (spec/10, role O). -/
abbrev RED_UNIT (u : Nat) : Nat := 0x5000100 + u * 0x4
abbrev RED_UNIT_RESERVED (u : Nat) : FRef := ⟨RED_UNIT u, 31, 16⟩
abbrev RED_UNIT_IN_USE (u : Nat) : FRef := ⟨RED_UNIT u, 15, 0⟩
/-- RED.CTX_A_c (spec/10, role O). -/
abbrev RED_CTX_A (c : Nat) : Nat := 0x5001000 + c * 0x10
abbrev RED_CTX_A_EN (c : Nat) : FRef := ⟨RED_CTX_A c, 31, 31⟩
abbrev RED_CTX_A_DET (c : Nat) : FRef := ⟨RED_CTX_A c, 30, 30⟩
abbrev RED_CTX_A_TENANT (c : Nat) : FRef := ⟨RED_CTX_A c, 29, 26⟩
abbrev RED_CTX_A_TYPE (c : Nat) : FRef := ⟨RED_CTX_A c, 25, 22⟩
abbrev RED_CTX_A_OP (c : Nat) : FRef := ⟨RED_CTX_A c, 21, 18⟩
abbrev RED_CTX_A_EDGE_EN (c : Nat) : FRef := ⟨RED_CTX_A c, 15, 15⟩
abbrev RED_CTX_A_EDGE (c : Nat) : FRef := ⟨RED_CTX_A c, 14, 13⟩
/-- RED.CTX_B_c (spec/10, role O). -/
abbrev RED_CTX_B (c : Nat) : Nat := 0x5001004 + c * 0x10
abbrev RED_CTX_B_EXPECT_EDGE (c : Nat) : FRef := ⟨RED_CTX_B c, 31, 22⟩
abbrev RED_CTX_B_EXPECT_MEM (c : Nat) : FRef := ⟨RED_CTX_B c, 21, 12⟩
abbrev RED_CTX_B_K (c : Nat) : FRef := ⟨RED_CTX_B c, 9, 0⟩
/-- RED.CTX_C_c (spec/10, role O). -/
abbrev RED_CTX_C (c : Nat) : Nat := 0x5001008 + c * 0x10
abbrev RED_CTX_C_RES_EDGE (c : Nat) : FRef := ⟨RED_CTX_C c, 31, 16⟩
abbrev RED_CTX_C_RES_MEM (c : Nat) : FRef := ⟨RED_CTX_C c, 15, 0⟩
/-- RED.CTX_D_c (spec/10, role O). -/
abbrev RED_CTX_D (c : Nat) : Nat := 0x500100c + c * 0x10
abbrev RED_CTX_D_PENDING (c : Nat) : FRef := ⟨RED_CTX_D c, 31, 16⟩
abbrev RED_CTX_D_ERRORS (c : Nat) : FRef := ⟨RED_CTX_D c, 15, 0⟩
/-- RED.MC_OWN_w (spec/10, role O). -/
abbrev RED_MC_OWN (w : Nat) : Nat := 0x5006000 + w * 0x4
abbrev RED_MC_OWN_ALLOC_3 (w : Nat) : FRef := ⟨RED_MC_OWN w, 31, 31⟩
abbrev RED_MC_OWN_TENANT_3 (w : Nat) : FRef := ⟨RED_MC_OWN w, 27, 24⟩
abbrev RED_MC_OWN_ALLOC_2 (w : Nat) : FRef := ⟨RED_MC_OWN w, 23, 23⟩
abbrev RED_MC_OWN_TENANT_2 (w : Nat) : FRef := ⟨RED_MC_OWN w, 19, 16⟩
abbrev RED_MC_OWN_ALLOC_1 (w : Nat) : FRef := ⟨RED_MC_OWN w, 15, 15⟩
abbrev RED_MC_OWN_TENANT_1 (w : Nat) : FRef := ⟨RED_MC_OWN w, 11, 8⟩
abbrev RED_MC_OWN_ALLOC_0 (w : Nat) : FRef := ⟨RED_MC_OWN w, 7, 7⟩
abbrev RED_MC_OWN_TENANT_0 (w : Nat) : FRef := ⟨RED_MC_OWN w, 3, 0⟩
/-- RED.MC_A_g (spec/10, role O). -/
abbrev RED_MC_A (g : Nat) : Nat := 0x5008000 + g * 0x8
abbrev RED_MC_A_EN (g : Nat) : FRef := ⟨RED_MC_A g, 31, 31⟩
abbrev RED_MC_A_ROOT (g : Nat) : FRef := ⟨RED_MC_A g, 30, 30⟩
abbrev RED_MC_A_MEMBER (g : Nat) : FRef := ⟨RED_MC_A g, 29, 29⟩
abbrev RED_MC_A_PARENT (g : Nat) : FRef := ⟨RED_MC_A g, 28, 24⟩
abbrev RED_MC_A_TENANT (g : Nat) : FRef := ⟨RED_MC_A g, 23, 20⟩
abbrev RED_MC_A_CHILDREN (g : Nat) : FRef := ⟨RED_MC_A g, 15, 0⟩
/-- RED.MC_B_g (spec/10, role O). -/
abbrev RED_MC_B (g : Nat) : Nat := 0x5008004 + g * 0x8
abbrev RED_MC_B_ROOT_NODE (g : Nat) : FRef := ⟨RED_MC_B g, 31, 20⟩
abbrev RED_MC_B_ROOT_SITE (g : Nat) : FRef := ⟨RED_MC_B g, 19, 15⟩
abbrev RED_MC_B_TOTAL (g : Nat) : FRef := ⟨RED_MC_B g, 12, 0⟩
/-- SYN.CFG (spec/11, role I). -/
abbrev SYN_CFG : Nat := 0x800000
abbrev SYN_CFG_WAIT_MAX : FRef := ⟨SYN_CFG, 31, 16⟩
abbrev SYN_CFG_COALESCE : FRef := ⟨SYN_CFG, 15, 8⟩
abbrev SYN_CFG_LEASE_HOLD : FRef := ⟨SYN_CFG, 0, 0⟩
/-- SYN.STATUS (spec/11, role O). -/
abbrev SYN_STATUS : Nat := 0x800004
abbrev SYN_STATUS_WAITS : FRef := ⟨SYN_STATUS, 31, 16⟩
abbrev SYN_STATUS_LEASES : FRef := ⟨SYN_STATUS, 15, 2⟩
abbrev SYN_STATUS_CFG_REJECT : FRef := ⟨SYN_STATUS, 0, 0⟩
/-- SYN.ALLOC (spec/11, role O). -/
abbrev SYN_ALLOC : Nat := 0x800008
abbrev SYN_ALLOC_ASSIGNED : FRef := ⟨SYN_ALLOC, 16, 0⟩
/-- SYN.COUNTS (spec/11, role O). -/
abbrev SYN_COUNTS : Nat := 0x80000c
abbrev SYN_COUNTS_ABANDONED : FRef := ⟨SYN_COUNTS, 31, 16⟩
abbrev SYN_COUNTS_NO_WAIT : FRef := ⟨SYN_COUNTS, 15, 0⟩
/-- SYN.OBJ_SEL (spec/11, role O). -/
abbrev SYN_OBJ_SEL : Nat := 0x800010
abbrev SYN_OBJ_SEL_OBJECT : FRef := ⟨SYN_OBJ_SEL, 15, 0⟩
/-- SYN.OBJ_W0_LO (spec/11, role O). -/
abbrev SYN_OBJ_W0_LO : Nat := 0x800014
abbrev SYN_OBJ_W0_LO_BITS : FRef := ⟨SYN_OBJ_W0_LO, 31, 0⟩
/-- SYN.OBJ_W0_HI (spec/11, role O). -/
abbrev SYN_OBJ_W0_HI : Nat := 0x800018
abbrev SYN_OBJ_W0_HI_BITS : FRef := ⟨SYN_OBJ_W0_HI, 31, 0⟩
/-- SYN.OBJ_W1_LO (spec/11, role O). -/
abbrev SYN_OBJ_W1_LO : Nat := 0x80001c
abbrev SYN_OBJ_W1_LO_BITS : FRef := ⟨SYN_OBJ_W1_LO, 31, 0⟩
/-- SYN.OBJ_W1_HI (spec/11, role O). -/
abbrev SYN_OBJ_W1_HI : Nat := 0x800020
abbrev SYN_OBJ_W1_HI_BITS : FRef := ⟨SYN_OBJ_W1_HI, 31, 0⟩
/-- SYN.NET_STATUS (spec/11, role O). -/
abbrev SYN_NET_STATUS : Nat := 0x800030
abbrev SYN_NET_STATUS_MAX_P0 : FRef := ⟨SYN_NET_STATUS, 31, 24⟩
abbrev SYN_NET_STATUS_MAX_P2 : FRef := ⟨SYN_NET_STATUS, 23, 16⟩
abbrev SYN_NET_STATUS_ECC_CORR : FRef := ⟨SYN_NET_STATUS, 15, 0⟩
/-- SYN.NET_UNCORR (spec/11, role O). -/
abbrev SYN_NET_UNCORR : Nat := 0x800034
abbrev SYN_NET_UNCORR_COUNT : FRef := ⟨SYN_NET_UNCORR, 31, 0⟩
/-- TIME.CFG (spec/11, role I). -/
abbrev TIME_CFG : Nat := 0x600000
abbrev TIME_CFG_PRIORITY : FRef := ⟨TIME_CFG, 31, 24⟩
abbrev TIME_CFG_EXCH_ROWS : FRef := ⟨TIME_CFG, 23, 16⟩
abbrev TIME_CFG_HOLDOVER : FRef := ⟨TIME_CFG, 15, 8⟩
abbrev TIME_CFG_LATE_STEP : FRef := ⟨TIME_CFG, 0, 0⟩
/-- TIME.STATUS (spec/11, role O). -/
abbrev TIME_STATUS : Nat := 0x600004
abbrev TIME_STATUS_STATE : FRef := ⟨TIME_STATUS, 31, 28⟩
abbrev TIME_STATUS_PARENT : FRef := ⟨TIME_STATUS, 27, 23⟩
abbrev TIME_STATUS_HOPS : FRef := ⟨TIME_STATUS, 22, 16⟩
abbrev TIME_STATUS_CONFLICT : FRef := ⟨TIME_STATUS, 2, 2⟩
abbrev TIME_STATUS_STEPPED : FRef := ⟨TIME_STATUS, 1, 1⟩
abbrev TIME_STATUS_CFG_REJECT : FRef := ⟨TIME_STATUS, 0, 0⟩
/-- TIME.NOW_LO (spec/11, role O). -/
abbrev TIME_NOW_LO : Nat := 0x600008
abbrev TIME_NOW_LO_NS : FRef := ⟨TIME_NOW_LO, 31, 0⟩
/-- TIME.NOW_HI (spec/11, role O). -/
abbrev TIME_NOW_HI : Nat := 0x60000c
abbrev TIME_NOW_HI_NS : FRef := ⟨TIME_NOW_HI, 31, 0⟩
/-- TIME.ROW_LO (spec/11, role O). -/
abbrev TIME_ROW_LO : Nat := 0x600010
abbrev TIME_ROW_LO_ROW : FRef := ⟨TIME_ROW_LO, 31, 0⟩
/-- TIME.ROW_HI (spec/11, role O). -/
abbrev TIME_ROW_HI : Nat := 0x600014
abbrev TIME_ROW_HI_ROW : FRef := ⟨TIME_ROW_HI, 31, 0⟩
/-- TIME.OFFSET (spec/11, role O). -/
abbrev TIME_OFFSET : Nat := 0x600018
abbrev TIME_OFFSET_THETA : FRef := ⟨TIME_OFFSET, 31, 0⟩
/-- TIME.FREQ (spec/11, role O). -/
abbrev TIME_FREQ : Nat := 0x60001c
abbrev TIME_FREQ_STEER : FRef := ⟨TIME_FREQ, 31, 0⟩
/-- TIME.SOURCE (spec/11, role O). -/
abbrev TIME_SOURCE : Nat := 0x600020
abbrev TIME_SOURCE_NODE : FRef := ⟨TIME_SOURCE, 31, 20⟩
abbrev TIME_SOURCE_PRIORITY : FRef := ⟨TIME_SOURCE, 19, 12⟩
/-- TIME.MISMATCH (spec/11, role O). -/
abbrev TIME_MISMATCH : Nat := 0x600024
abbrev TIME_MISMATCH_COUNT : FRef := ⟨TIME_MISMATCH, 31, 0⟩
/-- TIME.ASYM_j (spec/11, role I). -/
abbrev TIME_ASYM (j : Nat) : Nat := 0x600100 + j * 0x8
abbrev TIME_ASYM_PS (j : Nat) : FRef := ⟨TIME_ASYM j, 15, 0⟩
/-- TIME.LINK_DELAY_j (spec/11, role O). -/
abbrev TIME_LINK_DELAY (j : Nat) : Nat := 0x600104 + j * 0x8
abbrev TIME_LINK_DELAY_DELAY (j : Nat) : FRef := ⟨TIME_LINK_DELAY j, 31, 0⟩
/-- CMP.DIE_STATUS (spec/12, role O). -/
abbrev CMP_DIE_STATUS (d : Nat) : Nat := 0x6000000 + d * 0x800000
abbrev CMP_DIE_STATUS_ACTIVE (d : Nat) : FRef := ⟨CMP_DIE_STATUS d, 31, 24⟩
abbrev CMP_DIE_STATUS_FENCED (d : Nat) : FRef := ⟨CMP_DIE_STATUS d, 23, 16⟩
abbrev CMP_DIE_STATUS_SPARE (d : Nat) : FRef := ⟨CMP_DIE_STATUS d, 15, 8⟩
abbrev CMP_DIE_STATUS_CFG_REJECT (d : Nat) : FRef := ⟨CMP_DIE_STATUS d, 0, 0⟩
/-- CMP.QP_STATUS_n (spec/12, role O). -/
abbrev CMP_QP_STATUS (d : Nat) (n : Nat) : Nat := 0x6000100 + d * 0x800000 + n * 0x10
abbrev CMP_QP_STATUS_STATE (d : Nat) (n : Nat) : FRef := ⟨CMP_QP_STATUS d n, 31, 28⟩
abbrev CMP_QP_STATUS_QUEUE (d : Nat) (n : Nat) : FRef := ⟨CMP_QP_STATUS d n, 27, 22⟩
abbrev CMP_QP_STATUS_TENANT (d : Nat) (n : Nat) : FRef := ⟨CMP_QP_STATUS d n, 21, 18⟩
/-- CMP.QP_COUNT_n (spec/12, role O). -/
abbrev CMP_QP_COUNT (d : Nat) (n : Nat) : Nat := 0x6000104 + d * 0x800000 + n * 0x10
abbrev CMP_QP_COUNT_COMMANDS (d : Nat) (n : Nat) : FRef := ⟨CMP_QP_COUNT d n, 31, 0⟩
/-- CMP.CL_STATUS_c (spec/12, role O). -/
abbrev CMP_CL_STATUS (d : Nat) (c : Nat) : Nat := 0x6010000 + d * 0x800000 + c * 0x100
abbrev CMP_CL_STATUS_FENCED (d : Nat) (c : Nat) : FRef := ⟨CMP_CL_STATUS d c, 16, 0⟩
/-- CMP.CL_SRAM_c (spec/12, role O). -/
abbrev CMP_CL_SRAM (d : Nat) (c : Nat) : Nat := 0x6010004 + d * 0x800000 + c * 0x100
abbrev CMP_CL_SRAM_RETIRED (d : Nat) (c : Nat) : FRef := ⟨CMP_CL_SRAM d c, 31, 16⟩
abbrev CMP_CL_SRAM_CORRECTED (d : Nat) (c : Nat) : FRef := ⟨CMP_CL_SRAM d c, 15, 0⟩
/-- CMP.CORE_STATE_k (spec/12, role O). -/
abbrev CMP_CORE_STATE (d : Nat) (k : Nat) : Nat := 0x6020000 + d * 0x800000 + k * 0x400
abbrev CMP_CORE_STATE_STATE (d : Nat) (k : Nat) : FRef := ⟨CMP_CORE_STATE d k, 31, 29⟩
abbrev CMP_CORE_STATE_LOGICAL (d : Nat) (k : Nat) : FRef := ⟨CMP_CORE_STATE d k, 28, 24⟩
abbrev CMP_CORE_STATE_TENANT (d : Nat) (k : Nat) : FRef := ⟨CMP_CORE_STATE d k, 23, 20⟩
abbrev CMP_CORE_STATE_OWNED (d : Nat) (k : Nat) : FRef := ⟨CMP_CORE_STATE d k, 19, 19⟩
abbrev CMP_CORE_STATE_BLOCKS (d : Nat) (k : Nat) : FRef := ⟨CMP_CORE_STATE d k, 18, 12⟩
abbrev CMP_CORE_STATE_THREADS (d : Nat) (k : Nat) : FRef := ⟨CMP_CORE_STATE d k, 11, 0⟩
/-- CMP.CORE_CTRL_k (spec/12, role I). -/
abbrev CMP_CORE_CTRL (d : Nat) (k : Nat) : Nat := 0x6020004 + d * 0x800000 + k * 0x400
abbrev CMP_CORE_CTRL_HALT (d : Nat) (k : Nat) : FRef := ⟨CMP_CORE_CTRL d k, 31, 31⟩
abbrev CMP_CORE_CTRL_RESUME (d : Nat) (k : Nat) : FRef := ⟨CMP_CORE_CTRL d k, 30, 30⟩
abbrev CMP_CORE_CTRL_ERR_CLEAR (d : Nat) (k : Nat) : FRef := ⟨CMP_CORE_CTRL d k, 29, 29⟩
abbrev CMP_CORE_CTRL_BREAK_HALT (d : Nat) (k : Nat) : FRef := ⟨CMP_CORE_CTRL d k, 0, 0⟩
/-- CMP.CORE_ERR_k (spec/12, role O). -/
abbrev CMP_CORE_ERR (d : Nat) (k : Nat) : Nat := 0x6020008 + d * 0x800000 + k * 0x400
abbrev CMP_CORE_ERR_CAUSE (d : Nat) (k : Nat) : FRef := ⟨CMP_CORE_ERR d k, 31, 28⟩
abbrev CMP_CORE_ERR_TID (d : Nat) (k : Nat) : FRef := ⟨CMP_CORE_ERR d k, 27, 17⟩
abbrev CMP_CORE_ERR_BID (d : Nat) (k : Nat) : FRef := ⟨CMP_CORE_ERR d k, 16, 0⟩
/-- CMP.CORE_ERR_PC_k (spec/12, role O). -/
abbrev CMP_CORE_ERR_PC (d : Nat) (k : Nat) : Nat := 0x602000c + d * 0x800000 + k * 0x400
abbrev CMP_CORE_ERR_PC_PC (d : Nat) (k : Nat) : FRef := ⟨CMP_CORE_ERR_PC d k, 31, 0⟩
/-- CMP.CORE_ERR_ADDR_k (spec/12, role O). -/
abbrev CMP_CORE_ERR_ADDR (d : Nat) (k : Nat) : Nat := 0x6020010 + d * 0x800000 + k * 0x400
abbrev CMP_CORE_ERR_ADDR_ADDR (d : Nat) (k : Nat) : FRef := ⟨CMP_CORE_ERR_ADDR d k, 31, 0⟩
/-- CMP.CORE_EQ_k_q (spec/12, role O). -/
abbrev CMP_CORE_EQ (d : Nat) (k : Nat) (q : Nat) : Nat := 0x6020020 + d * 0x800000 + k * 0x400 + q * 0x4
abbrev CMP_CORE_EQ_NEXT (d : Nat) (k : Nat) (q : Nat) : FRef := ⟨CMP_CORE_EQ d k q, 31, 16⟩
abbrev CMP_CORE_EQ_DEPTH (d : Nat) (k : Nat) (q : Nat) : FRef := ⟨CMP_CORE_EQ d k q, 15, 9⟩
abbrev CMP_CORE_EQ_SKIP (d : Nat) (k : Nat) (q : Nat) : FRef := ⟨CMP_CORE_EQ d k q, 8, 8⟩
abbrev CMP_CORE_EQ_FIRST_ERR (d : Nat) (k : Nat) (q : Nat) : FRef := ⟨CMP_CORE_EQ d k q, 7, 0⟩
/-- CMP.CORE_COUNTS_k (spec/12, role O). -/
abbrev CMP_CORE_COUNTS (d : Nat) (k : Nat) : Nat := 0x6020040 + d * 0x800000 + k * 0x400
abbrev CMP_CORE_COUNTS_EXCEPTIONS (d : Nat) (k : Nat) : FRef := ⟨CMP_CORE_COUNTS d k, 31, 16⟩
abbrev CMP_CORE_COUNTS_ECC_CORR (d : Nat) (k : Nat) : FRef := ⟨CMP_CORE_COUNTS d k, 15, 0⟩
/-- CMP.MXE_STATE_k (spec/13, role O). -/
abbrev CMP_MXE_STATE (d : Nat) (k : Nat) : Nat := 0x6101000 + d * 0x800000 + k * 0x20
abbrev CMP_MXE_STATE_ARRAY_BUSY (d : Nat) (k : Nat) : FRef := ⟨CMP_MXE_STATE d k, 31, 31⟩
abbrev CMP_MXE_STATE_PORT_BUSY (d : Nat) (k : Nat) : FRef := ⟨CMP_MXE_STATE d k, 30, 30⟩
abbrev CMP_MXE_STATE_B_VALID (d : Nat) (k : Nat) : FRef := ⟨CMP_MXE_STATE d k, 29, 29⟩
abbrev CMP_MXE_STATE_B_FMT (d : Nat) (k : Nat) : FRef := ⟨CMP_MXE_STATE d k, 28, 25⟩
abbrev CMP_MXE_STATE_TILE_INT (d : Nat) (k : Nat) : FRef := ⟨CMP_MXE_STATE d k, 23, 16⟩
abbrev CMP_MXE_STATE_TICKET (d : Nat) (k : Nat) : FRef := ⟨CMP_MXE_STATE d k, 15, 0⟩
/-- CMP.MXE_FLAGS_k (spec/13, role O). -/
abbrev CMP_MXE_FLAGS (d : Nat) (k : Nat) : Nat := 0x6101004 + d * 0x800000 + k * 0x20
abbrev CMP_MXE_FLAGS_IOVF (d : Nat) (k : Nat) : FRef := ⟨CMP_MXE_FLAGS d k, 5, 5⟩
abbrev CMP_MXE_FLAGS_SAT (d : Nat) (k : Nat) : FRef := ⟨CMP_MXE_FLAGS d k, 4, 4⟩
abbrev CMP_MXE_FLAGS_NV (d : Nat) (k : Nat) : FRef := ⟨CMP_MXE_FLAGS d k, 3, 3⟩
abbrev CMP_MXE_FLAGS_OF (d : Nat) (k : Nat) : FRef := ⟨CMP_MXE_FLAGS d k, 2, 2⟩
abbrev CMP_MXE_FLAGS_UF (d : Nat) (k : Nat) : FRef := ⟨CMP_MXE_FLAGS d k, 1, 1⟩
abbrev CMP_MXE_FLAGS_NX (d : Nat) (k : Nat) : FRef := ⟨CMP_MXE_FLAGS d k, 0, 0⟩
/-- CMP.MXE_SEED_k (spec/13, role O). -/
abbrev CMP_MXE_SEED (d : Nat) (k : Nat) : Nat := 0x6101008 + d * 0x800000 + k * 0x20
abbrev CMP_MXE_SEED_SEED (d : Nat) (k : Nat) : FRef := ⟨CMP_MXE_SEED d k, 31, 0⟩
/-- CMP.MXE_LFSR_k (spec/13, role O). -/
abbrev CMP_MXE_LFSR (d : Nat) (k : Nat) : Nat := 0x610100c + d * 0x800000 + k * 0x20
abbrev CMP_MXE_LFSR_STATE (d : Nat) (k : Nat) : FRef := ⟨CMP_MXE_LFSR d k, 31, 0⟩
/-- CMP.MXE_ACTIVE_LO_k (spec/13, role O). -/
abbrev CMP_MXE_ACTIVE_LO (d : Nat) (k : Nat) : Nat := 0x6101010 + d * 0x800000 + k * 0x20
abbrev CMP_MXE_ACTIVE_LO_CYCLES (d : Nat) (k : Nat) : FRef := ⟨CMP_MXE_ACTIVE_LO d k, 31, 0⟩
/-- CMP.MXE_ACTIVE_HI_k (spec/13, role O). -/
abbrev CMP_MXE_ACTIVE_HI (d : Nat) (k : Nat) : Nat := 0x6101014 + d * 0x800000 + k * 0x20
abbrev CMP_MXE_ACTIVE_HI_CYCLES (d : Nat) (k : Nat) : FRef := ⟨CMP_MXE_ACTIVE_HI d k, 15, 0⟩
/-- CMP.MXE_PAUSED_LO_k (spec/13, role O). -/
abbrev CMP_MXE_PAUSED_LO (d : Nat) (k : Nat) : Nat := 0x6101018 + d * 0x800000 + k * 0x20
abbrev CMP_MXE_PAUSED_LO_CYCLES (d : Nat) (k : Nat) : FRef := ⟨CMP_MXE_PAUSED_LO d k, 31, 0⟩
/-- CMP.MXE_PAUSED_HI_k (spec/13, role O). -/
abbrev CMP_MXE_PAUSED_HI (d : Nat) (k : Nat) : Nat := 0x610101c + d * 0x800000 + k * 0x20
abbrev CMP_MXE_PAUSED_HI_CYCLES (d : Nat) (k : Nat) : FRef := ⟨CMP_MXE_PAUSED_HI d k, 15, 0⟩
/-- CMP.SKIP_LO_k (spec/14, role O). -/
abbrev CMP_SKIP_LO (d : Nat) (k : Nat) : Nat := 0x6120000 + d * 0x800000 + k * 0x20
abbrev CMP_SKIP_LO_BLOCKS (d : Nat) (k : Nat) : FRef := ⟨CMP_SKIP_LO d k, 31, 0⟩
/-- CMP.SKIP_HI_k (spec/14, role O). -/
abbrev CMP_SKIP_HI (d : Nat) (k : Nat) : Nat := 0x6120004 + d * 0x800000 + k * 0x20
abbrev CMP_SKIP_HI_BLOCKS (d : Nat) (k : Nat) : FRef := ⟨CMP_SKIP_HI d k, 15, 0⟩
/-- CMP.SPE_ERRS_k (spec/14, role O). -/
abbrev CMP_SPE_ERRS (d : Nat) (k : Nat) : Nat := 0x6120008 + d * 0x800000 + k * 0x20
abbrev CMP_SPE_ERRS_BAD_META (d : Nat) (k : Nat) : FRef := ⟨CMP_SPE_ERRS d k, 31, 16⟩
abbrev CMP_SPE_ERRS_PANEL_FULL (d : Nat) (k : Nat) : FRef := ⟨CMP_SPE_ERRS d k, 15, 0⟩
/-- CMP.TKE_SLOTS_k (spec/14, role O). -/
abbrev CMP_TKE_SLOTS (d : Nat) (k : Nat) : Nat := 0x612000c + d * 0x800000 + k * 0x20
abbrev CMP_TKE_SLOTS_ACCEPTED (d : Nat) (k : Nat) : FRef := ⟨CMP_TKE_SLOTS d k, 31, 0⟩
/-- CMP.TKE_DROPPED_k (spec/14, role O). -/
abbrev CMP_TKE_DROPPED (d : Nat) (k : Nat) : Nat := 0x6120010 + d * 0x800000 + k * 0x20
abbrev CMP_TKE_DROPPED_SLOTS (d : Nat) (k : Nat) : FRef := ⟨CMP_TKE_DROPPED d k, 31, 0⟩
/-- CMP.TKE_REROUTED_k (spec/14, role O). -/
abbrev CMP_TKE_REROUTED (d : Nat) (k : Nat) : Nat := 0x6120014 + d * 0x800000 + k * 0x20
abbrev CMP_TKE_REROUTED_SLOTS (d : Nat) (k : Nat) : FRef := ⟨CMP_TKE_REROUTED d k, 31, 0⟩
/-- CMP.TKE_NAN_k (spec/14, role O). -/
abbrev CMP_TKE_NAN (d : Nat) (k : Nat) : Nat := 0x6120018 + d * 0x800000 + k * 0x20
abbrev CMP_TKE_NAN_TOKENS (d : Nat) (k : Nat) : FRef := ⟨CMP_TKE_NAN d k, 31, 0⟩
/-- MEM.INFO (spec/15, role O). -/
abbrev MEM_INFO (n : Nat) : Nat := 0xa000000 + n * 0x100000
abbrev MEM_INFO_STACK_GIB (n : Nat) : FRef := ⟨MEM_INFO n, 31, 24⟩
abbrev MEM_INFO_HEIGHT (n : Nat) : FRef := ⟨MEM_INFO n, 23, 16⟩
abbrev MEM_INFO_RATE (n : Nat) : FRef := ⟨MEM_INFO n, 15, 8⟩
/-- MEM.STATUS (spec/15, role O). -/
abbrev MEM_STATUS (n : Nat) : Nat := 0xa000004 + n * 0x100000
abbrev MEM_STATUS_STATE (n : Nat) : FRef := ⟨MEM_STATUS n, 31, 28⟩
abbrev MEM_STATUS_RETIRED_A (n : Nat) : FRef := ⟨MEM_STATUS n, 27, 20⟩
abbrev MEM_STATUS_RETIRED_B (n : Nat) : FRef := ⟨MEM_STATUS n, 19, 12⟩
abbrev MEM_STATUS_SCRUB_BUSY (n : Nat) : FRef := ⟨MEM_STATUS n, 1, 1⟩
abbrev MEM_STATUS_CFG_REJECT (n : Nat) : FRef := ⟨MEM_STATUS n, 0, 0⟩
/-- MEM.SCRUB_CFG (spec/15, role I). -/
abbrev MEM_SCRUB_CFG (n : Nat) : Nat := 0xa000008 + n * 0x100000
abbrev MEM_SCRUB_CFG_HOURS (n : Nat) : FRef := ⟨MEM_SCRUB_CFG n, 31, 16⟩
abbrev MEM_SCRUB_CFG_EN (n : Nat) : FRef := ⟨MEM_SCRUB_CFG n, 0, 0⟩
/-- MEM.ECC_CORR_s (spec/15, role O). -/
abbrev MEM_ECC_CORR (n : Nat) (s : Nat) : Nat := 0xa000010 + n * 0x100000 + s * 0x4
abbrev MEM_ECC_CORR_COUNT (n : Nat) (s : Nat) : FRef := ⟨MEM_ECC_CORR n s, 31, 0⟩
/-- MEM.ECC_UNCORR (spec/15, role O). -/
abbrev MEM_ECC_UNCORR (n : Nat) : Nat := 0xa000018 + n * 0x100000
abbrev MEM_ECC_UNCORR_STACK_B (n : Nat) : FRef := ⟨MEM_ECC_UNCORR n, 31, 16⟩
abbrev MEM_ECC_UNCORR_STACK_A (n : Nat) : FRef := ⟨MEM_ECC_UNCORR n, 15, 0⟩
/-- MEM.ECC_LAST_LO (spec/15, role O). -/
abbrev MEM_ECC_LAST_LO (n : Nat) : Nat := 0xa000020 + n * 0x100000
abbrev MEM_ECC_LAST_LO_ADDR (n : Nat) : FRef := ⟨MEM_ECC_LAST_LO n, 31, 0⟩
/-- MEM.ECC_LAST_HI (spec/15, role O). -/
abbrev MEM_ECC_LAST_HI (n : Nat) : Nat := 0xa000024 + n * 0x100000
abbrev MEM_ECC_LAST_HI_KIND (n : Nat) : FRef := ⟨MEM_ECC_LAST_HI n, 31, 30⟩
abbrev MEM_ECC_LAST_HI_STACK (n : Nat) : FRef := ⟨MEM_ECC_LAST_HI n, 29, 29⟩
abbrev MEM_ECC_LAST_HI_Q (n : Nat) : FRef := ⟨MEM_ECC_LAST_HI n, 28, 23⟩
abbrev MEM_ECC_LAST_HI_ADDR (n : Nat) : FRef := ⟨MEM_ECC_LAST_HI n, 7, 0⟩
/-- MEM.PC_RETIRED_LO_s (spec/15, role O). -/
abbrev MEM_PC_RETIRED_LO (n : Nat) (s : Nat) : Nat := 0xa000030 + n * 0x100000 + s * 0x8
abbrev MEM_PC_RETIRED_LO_Q (n : Nat) (s : Nat) : FRef := ⟨MEM_PC_RETIRED_LO n s, 31, 0⟩
/-- MEM.PC_RETIRED_HI_s (spec/15, role O). -/
abbrev MEM_PC_RETIRED_HI (n : Nat) (s : Nat) : Nat := 0xa000034 + n * 0x100000 + s * 0x8
abbrev MEM_PC_RETIRED_HI_Q (n : Nat) (s : Nat) : FRef := ⟨MEM_PC_RETIRED_HI n s, 31, 0⟩
/-- MEM.SNOOP (spec/15, role O). -/
abbrev MEM_SNOOP (n : Nat) : Nat := 0xa000040 + n * 0x100000
abbrev MEM_SNOOP_IN_USE (n : Nat) : FRef := ⟨MEM_SNOOP n, 31, 11⟩
/-- MEM.SNOOP_RECALLS (spec/15, role O). -/
abbrev MEM_SNOOP_RECALLS (n : Nat) : Nat := 0xa000044 + n * 0x100000
abbrev MEM_SNOOP_RECALLS_COUNT (n : Nat) : FRef := ⟨MEM_SNOOP_RECALLS n, 31, 0⟩
/-- MEM.SNOOP_EVICT (spec/15, role O). -/
abbrev MEM_SNOOP_EVICT (n : Nat) : Nat := 0xa000048 + n * 0x100000
abbrev MEM_SNOOP_EVICT_COUNT (n : Nat) : FRef := ⟨MEM_SNOOP_EVICT n, 31, 0⟩
/-- MEM.XLAT_SEL (spec/15, role O). -/
abbrev MEM_XLAT_SEL (n : Nat) : Nat := 0xa000050 + n * 0x100000
abbrev MEM_XLAT_SEL_INDEX (n : Nat) : FRef := ⟨MEM_XLAT_SEL n, 18, 0⟩
/-- MEM.XLAT_DATA (spec/15, role O). -/
abbrev MEM_XLAT_DATA (n : Nat) : Nat := 0xa000054 + n * 0x100000
abbrev MEM_XLAT_DATA_VALID (n : Nat) : FRef := ⟨MEM_XLAT_DATA n, 31, 31⟩
abbrev MEM_XLAT_DATA_TENANT (n : Nat) : FRef := ⟨MEM_XLAT_DATA n, 30, 27⟩
abbrev MEM_XLAT_DATA_FRAME (n : Nat) : FRef := ⟨MEM_XLAT_DATA n, 18, 0⟩
/-- PART.HBM_BASE_t (spec/15, role O). -/
abbrev PART_HBM_BASE (t : Nat) : Nat := 0x701000 + t * 0x8
abbrev PART_HBM_BASE_BASE (t : Nat) : FRef := ⟨PART_HBM_BASE t, 18, 0⟩
/-- PART.HBM_PAGES_t (spec/15, role O). -/
abbrev PART_HBM_PAGES (t : Nat) : Nat := 0x701004 + t * 0x8
abbrev PART_HBM_PAGES_PAGES (t : Nat) : FRef := ⟨PART_HBM_PAGES t, 19, 0⟩
/-- PART.FRAMES_FREE (spec/15, role O). -/
abbrev PART_FRAMES_FREE : Nat := 0x701080
abbrev PART_FRAMES_FREE_REFUSED : FRef := ⟨PART_FRAMES_FREE, 31, 20⟩
abbrev PART_FRAMES_FREE_FRAMES : FRef := ⟨PART_FRAMES_FREE, 19, 0⟩
/-- PART.FRAMES_LOST (spec/15, role O). -/
abbrev PART_FRAMES_LOST : Nat := 0x701084
abbrev PART_FRAMES_LOST_FRAMES : FRef := ⟨PART_FRAMES_LOST, 19, 0⟩
/-- PART.RETIRED_Q_LO (spec/15, role O). -/
abbrev PART_RETIRED_Q_LO : Nat := 0x701088
abbrev PART_RETIRED_Q_LO_Q : FRef := ⟨PART_RETIRED_Q_LO, 31, 0⟩
/-- PART.RETIRED_Q_HI (spec/15, role O). -/
abbrev PART_RETIRED_Q_HI : Nat := 0x70108c
abbrev PART_RETIRED_Q_HI_Q : FRef := ⟨PART_RETIRED_Q_HI, 31, 0⟩
/-- PART.SRAM_OWN_w (spec/15, role O). -/
abbrev PART_SRAM_OWN (w : Nat) : Nat := 0x702000 + w * 0x4
abbrev PART_SRAM_OWN_VALID_3 (w : Nat) : FRef := ⟨PART_SRAM_OWN w, 31, 31⟩
abbrev PART_SRAM_OWN_TENANT_3 (w : Nat) : FRef := ⟨PART_SRAM_OWN w, 27, 24⟩
abbrev PART_SRAM_OWN_VALID_2 (w : Nat) : FRef := ⟨PART_SRAM_OWN w, 23, 23⟩
abbrev PART_SRAM_OWN_TENANT_2 (w : Nat) : FRef := ⟨PART_SRAM_OWN w, 19, 16⟩
abbrev PART_SRAM_OWN_VALID_1 (w : Nat) : FRef := ⟨PART_SRAM_OWN w, 15, 15⟩
abbrev PART_SRAM_OWN_TENANT_1 (w : Nat) : FRef := ⟨PART_SRAM_OWN w, 11, 8⟩
abbrev PART_SRAM_OWN_VALID_0 (w : Nat) : FRef := ⟨PART_SRAM_OWN w, 7, 7⟩
abbrev PART_SRAM_OWN_TENANT_0 (w : Nat) : FRef := ⟨PART_SRAM_OWN w, 3, 0⟩
/-- PART.XWIN_BASE_t_r (spec/15, role O). -/
abbrev PART_XWIN_BASE (t : Nat) (r : Nat) : Nat := 0x703000 + t * 0x40 + r * 0x10
abbrev PART_XWIN_BASE_EN (t : Nat) (r : Nat) : FRef := ⟨PART_XWIN_BASE t r, 31, 31⟩
abbrev PART_XWIN_BASE_BASE (t : Nat) (r : Nat) : FRef := ⟨PART_XWIN_BASE t r, 24, 0⟩
/-- PART.XWIN_LIMIT_t_r (spec/15, role O). -/
abbrev PART_XWIN_LIMIT (t : Nat) (r : Nat) : Nat := 0x703004 + t * 0x40 + r * 0x10
abbrev PART_XWIN_LIMIT_LIMIT (t : Nat) (r : Nat) : FRef := ⟨PART_XWIN_LIMIT t r, 24, 0⟩
/-- HIO.STATUS (spec/16, role O). -/
abbrev HIO_STATUS : Nat := 0xb000000
abbrev HIO_STATUS_CLK_REJECT : FRef := ⟨HIO_STATUS, 1, 1⟩
abbrev HIO_STATUS_CFG_REJECT : FRef := ⟨HIO_STATUS, 0, 0⟩
/-- HIO.SLOT_CFG_s (spec/16, role I). -/
abbrev HIO_SLOT_CFG (s : Nat) : Nat := 0xb000100 + s * 0x10
abbrev HIO_SLOT_CFG_EN (s : Nat) : FRef := ⟨HIO_SLOT_CFG s, 31, 31⟩
abbrev HIO_SLOT_CFG_BIFUR (s : Nat) : FRef := ⟨HIO_SLOT_CFG s, 27, 26⟩
abbrev HIO_SLOT_CFG_CLK_MODE (s : Nat) : FRef := ⟨HIO_SLOT_CFG s, 25, 25⟩
abbrev HIO_SLOT_CFG_CXL_EN (s : Nat) : FRef := ⟨HIO_SLOT_CFG s, 24, 24⟩
abbrev HIO_SLOT_CFG_MAX_SPEED (s : Nat) : FRef := ⟨HIO_SLOT_CFG s, 23, 20⟩
abbrev HIO_SLOT_CFG_CLKSRC (s : Nat) : FRef := ⟨HIO_SLOT_CFG s, 19, 18⟩
abbrev HIO_SLOT_CFG_CXL_CACHE (s : Nat) : FRef := ⟨HIO_SLOT_CFG s, 17, 17⟩
/-- HIO.PORT_STATUS_r (spec/16, role O). -/
abbrev HIO_PORT_STATUS (r : Nat) : Nat := 0xb000200 + r * 0x4
abbrev HIO_PORT_STATUS_STATE (r : Nat) : FRef := ⟨HIO_PORT_STATUS r, 31, 28⟩
abbrev HIO_PORT_STATUS_SPEED (r : Nat) : FRef := ⟨HIO_PORT_STATUS r, 27, 24⟩
abbrev HIO_PORT_STATUS_WIDTH (r : Nat) : FRef := ⟨HIO_PORT_STATUS r, 23, 19⟩
abbrev HIO_PORT_STATUS_FLIT (r : Nat) : FRef := ⟨HIO_PORT_STATUS r, 18, 18⟩
abbrev HIO_PORT_STATUS_KIND (r : Nat) : FRef := ⟨HIO_PORT_STATUS r, 17, 16⟩
abbrev HIO_PORT_STATUS_DOWNS (r : Nat) : FRef := ⟨HIO_PORT_STATUS r, 15, 0⟩
/-- HIO.PORT_TENANT_r (spec/16, role I). -/
abbrev HIO_PORT_TENANT (r : Nat) : Nat := 0xb000300 + r * 0x4
abbrev HIO_PORT_TENANT_EN (r : Nat) : FRef := ⟨HIO_PORT_TENANT r, 31, 31⟩
abbrev HIO_PORT_TENANT_PCS_EN (r : Nat) : FRef := ⟨HIO_PORT_TENANT r, 30, 30⟩
abbrev HIO_PORT_TENANT_TENANT (r : Nat) : FRef := ⟨HIO_PORT_TENANT r, 3, 0⟩
/-- HIO.CLKOUT_c (spec/16, role I). -/
abbrev HIO_CLKOUT (c : Nat) : Nat := 0xb000400 + c * 0x4
abbrev HIO_CLKOUT_EN (c : Nat) : FRef := ⟨HIO_CLKOUT c, 31, 31⟩
abbrev HIO_CLKOUT_DEPTH (c : Nat) : FRef := ⟨HIO_CLKOUT c, 7, 4⟩
abbrev HIO_CLKOUT_RATE (c : Nat) : FRef := ⟨HIO_CLKOUT c, 2, 0⟩
/-- HIO.TXEQ_l (spec/16, role I). -/
abbrev HIO_TXEQ (l : Nat) : Nat := 0xb001000 + l * 0x4
abbrev HIO_TXEQ_P64 (l : Nat) : FRef := ⟨HIO_TXEQ l, 15, 12⟩
abbrev HIO_TXEQ_P32 (l : Nat) : FRef := ⟨HIO_TXEQ l, 11, 8⟩
abbrev HIO_TXEQ_P16 (l : Nat) : FRef := ⟨HIO_TXEQ l, 7, 4⟩
abbrev HIO_TXEQ_P8 (l : Nat) : FRef := ⟨HIO_TXEQ l, 3, 0⟩
/-- CPU.DIE_STATUS_d (spec/16, role O). -/
abbrev CPU_DIE_STATUS (d : Nat) : Nat := 0xb800000 + d * 0x4
abbrev CPU_DIE_STATUS_STATE (d : Nat) : FRef := ⟨CPU_DIE_STATUS d, 31, 28⟩
abbrev CPU_DIE_STATUS_RUNNING (d : Nat) : FRef := ⟨CPU_DIE_STATUS d, 27, 20⟩
abbrev CPU_DIE_STATUS_FENCED (d : Nat) : FRef := ⟨CPU_DIE_STATUS d, 19, 12⟩
abbrev CPU_DIE_STATUS_FREE_ERR (d : Nat) : FRef := ⟨CPU_DIE_STATUS d, 11, 1⟩
abbrev CPU_DIE_STATUS_CFG_REJECT (d : Nat) : FRef := ⟨CPU_DIE_STATUS d, 0, 0⟩
/-- CPU.CORE_STATE_d_c (spec/16, role O). -/
abbrev CPU_CORE_STATE (d : Nat) (c : Nat) : Nat := 0xb801000 + d * 0x400 + c * 0x4
abbrev CPU_CORE_STATE_STATE (d : Nat) (c : Nat) : FRef := ⟨CPU_CORE_STATE d c, 31, 28⟩
abbrev CPU_CORE_STATE_TENANT_EN (d : Nat) (c : Nat) : FRef := ⟨CPU_CORE_STATE d c, 27, 27⟩
abbrev CPU_CORE_STATE_TENANT (d : Nat) (c : Nat) : FRef := ⟨CPU_CORE_STATE d c, 26, 23⟩
/-- CPU.RWIN_d_w (spec/16, role O). -/
abbrev CPU_RWIN (d : Nat) (w : Nat) : Nat := 0xb810000 + d * 0x1000 + w * 0x4
abbrev CPU_RWIN_EN (d : Nat) (w : Nat) : FRef := ⟨CPU_RWIN d w, 31, 31⟩
abbrev CPU_RWIN_NODE (d : Nat) (w : Nat) : FRef := ⟨CPU_RWIN d w, 11, 0⟩
/-- PCU.IF_VERSION (spec/17, role O). -/
abbrev PCU_IF_VERSION : Nat := 0x2000
abbrev PCU_IF_VERSION_MAJOR : FRef := ⟨PCU_IF_VERSION, 31, 16⟩
abbrev PCU_IF_VERSION_MINOR : FRef := ⟨PCU_IF_VERSION, 15, 0⟩
/-- PCU.FW_VERSION (spec/17, role O). -/
abbrev PCU_FW_VERSION : Nat := 0x2004
abbrev PCU_FW_VERSION_MAJOR : FRef := ⟨PCU_FW_VERSION, 31, 24⟩
abbrev PCU_FW_VERSION_MINOR : FRef := ⟨PCU_FW_VERSION, 23, 16⟩
abbrev PCU_FW_VERSION_PATCH : FRef := ⟨PCU_FW_VERSION, 15, 0⟩
/-- PCU.BOOT_STATUS (spec/17, role O). -/
abbrev PCU_BOOT_STATUS : Nat := 0x2008
abbrev PCU_BOOT_STATUS_SLOT : FRef := ⟨PCU_BOOT_STATUS, 31, 31⟩
abbrev PCU_BOOT_STATUS_TRIAL : FRef := ⟨PCU_BOOT_STATUS, 30, 30⟩
abbrev PCU_BOOT_STATUS_RECOVERED : FRef := ⟨PCU_BOOT_STATUS, 29, 29⟩
abbrev PCU_BOOT_STATUS_RESULT_A : FRef := ⟨PCU_BOOT_STATUS, 23, 20⟩
abbrev PCU_BOOT_STATUS_RESULT_B : FRef := ⟨PCU_BOOT_STATUS, 19, 16⟩
abbrev PCU_BOOT_STATUS_SVN : FRef := ⟨PCU_BOOT_STATUS, 15, 8⟩
abbrev PCU_BOOT_STATUS_FUSED : FRef := ⟨PCU_BOOT_STATUS, 7, 0⟩
/-- PCU.CASTON (spec/17, role O). -/
abbrev PCU_CASTON : Nat := 0x200c
abbrev PCU_CASTON_STEP : FRef := ⟨PCU_CASTON, 31, 28⟩
abbrev PCU_CASTON_FAILED : FRef := ⟨PCU_CASTON, 27, 24⟩
abbrev PCU_CASTON_WARM : FRef := ⟨PCU_CASTON, 23, 23⟩
abbrev PCU_CASTON_MS : FRef := ⟨PCU_CASTON, 22, 0⟩
/-- PCU.CASTON_CFG (spec/17, role I). -/
abbrev PCU_CASTON_CFG : Nat := 0x2010
abbrev PCU_CASTON_CFG_PORT_WAIT : FRef := ⟨PCU_CASTON_CFG, 5, 0⟩
/-- PCU.EMU_STATUS (spec/17, role O). -/
abbrev PCU_EMU_STATUS : Nat := 0x2014
abbrev PCU_EMU_STATUS_DROPPED : FRef := ⟨PCU_EMU_STATUS, 31, 16⟩
abbrev PCU_EMU_STATUS_FM_DROP : FRef := ⟨PCU_EMU_STATUS, 15, 0⟩
/-- PCU.CQ_REJECT (spec/17, role O). -/
abbrev PCU_CQ_REJECT : Nat := 0x2018
abbrev PCU_CQ_REJECT_COUNT : FRef := ⟨PCU_CQ_REJECT, 31, 0⟩
/-- PCU.ADMQ_CFG (spec/17, role O). -/
abbrev PCU_ADMQ_CFG : Nat := 0x2020
abbrev PCU_ADMQ_CFG_EN : FRef := ⟨PCU_ADMQ_CFG, 31, 31⟩
abbrev PCU_ADMQ_CFG_STOPPED : FRef := ⟨PCU_ADMQ_CFG, 30, 30⟩
abbrev PCU_ADMQ_CFG_SIZE_LOG2 : FRef := ⟨PCU_ADMQ_CFG, 3, 0⟩
/-- PCU.ADMQ_BASE_LO (spec/17, role O). -/
abbrev PCU_ADMQ_BASE_LO : Nat := 0x2024
abbrev PCU_ADMQ_BASE_LO_ADDR : FRef := ⟨PCU_ADMQ_BASE_LO, 31, 0⟩
/-- PCU.ADMQ_BASE_HI (spec/17, role O). -/
abbrev PCU_ADMQ_BASE_HI : Nat := 0x2028
abbrev PCU_ADMQ_BASE_HI_ADDR : FRef := ⟨PCU_ADMQ_BASE_HI, 13, 0⟩
/-- PCU.ADMQ_STAT_LO (spec/17, role O). -/
abbrev PCU_ADMQ_STAT_LO : Nat := 0x202c
abbrev PCU_ADMQ_STAT_LO_ADDR : FRef := ⟨PCU_ADMQ_STAT_LO, 31, 0⟩
/-- PCU.ADMQ_STAT_HI (spec/17, role O). -/
abbrev PCU_ADMQ_STAT_HI : Nat := 0x2030
abbrev PCU_ADMQ_STAT_HI_ADDR : FRef := ⟨PCU_ADMQ_STAT_HI, 13, 0⟩
/-- PCU.ADMQ_TAIL (spec/17, role O). -/
abbrev PCU_ADMQ_TAIL : Nat := 0x2034
abbrev PCU_ADMQ_TAIL_INDEX : FRef := ⟨PCU_ADMQ_TAIL, 15, 0⟩
/-- PCU.ADMQ_HEAD (spec/17, role O). -/
abbrev PCU_ADMQ_HEAD : Nat := 0x2038
abbrev PCU_ADMQ_HEAD_INDEX : FRef := ⟨PCU_ADMQ_HEAD, 15, 0⟩
/-- PCU.FMQ_CFG (spec/17, role O). -/
abbrev PCU_FMQ_CFG : Nat := 0x2040
abbrev PCU_FMQ_CFG_EN : FRef := ⟨PCU_FMQ_CFG, 31, 31⟩
abbrev PCU_FMQ_CFG_SIZE_LOG2 : FRef := ⟨PCU_FMQ_CFG, 19, 16⟩
abbrev PCU_FMQ_CFG_DROPPED : FRef := ⟨PCU_FMQ_CFG, 15, 0⟩
/-- PCU.FMQ_BASE_LO (spec/17, role O). -/
abbrev PCU_FMQ_BASE_LO : Nat := 0x2044
abbrev PCU_FMQ_BASE_LO_VALUE : FRef := ⟨PCU_FMQ_BASE_LO, 31, 0⟩
/-- PCU.FMQ_BASE_HI (spec/17, role O). -/
abbrev PCU_FMQ_BASE_HI : Nat := 0x2048
abbrev PCU_FMQ_BASE_HI_VALUE : FRef := ⟨PCU_FMQ_BASE_HI, 13, 0⟩
/-- PCU.FMQ_PRODUCED (spec/17, role O). -/
abbrev PCU_FMQ_PRODUCED : Nat := 0x204c
abbrev PCU_FMQ_PRODUCED_VALUE : FRef := ⟨PCU_FMQ_PRODUCED, 15, 0⟩
/-- PCU.FMQ_CONSUMED (spec/17, role O). -/
abbrev PCU_FMQ_CONSUMED : Nat := 0x2050
abbrev PCU_FMQ_CONSUMED_VALUE : FRef := ⟨PCU_FMQ_CONSUMED, 15, 0⟩
/-- PCU.DUMP_SEL (spec/17, role I). -/
abbrev PCU_DUMP_SEL : Nat := 0x2080
abbrev PCU_DUMP_SEL_SOURCE : FRef := ⟨PCU_DUMP_SEL, 31, 29⟩
abbrev PCU_DUMP_SEL_WORD : FRef := ⟨PCU_DUMP_SEL, 13, 0⟩
/-- PCU.DUMP_INFO (spec/17, role O). -/
abbrev PCU_DUMP_INFO : Nat := 0x2084
abbrev PCU_DUMP_INFO_VALID : FRef := ⟨PCU_DUMP_INFO, 31, 31⟩
abbrev PCU_DUMP_INFO_CAUSE : FRef := ⟨PCU_DUMP_INFO, 23, 16⟩
abbrev PCU_DUMP_INFO_LENGTH : FRef := ⟨PCU_DUMP_INFO, 15, 0⟩
/-- PCU.DUMP_DATA (spec/17, role I). -/
abbrev PCU_DUMP_DATA : Nat := 0x2088
abbrev PCU_DUMP_DATA_DATA : FRef := ⟨PCU_DUMP_DATA, 31, 0⟩
/-- PCU.CQ_CFG_t_q (spec/17, role O). -/
abbrev PCU_CQ_CFG (t : Nat) (q : Nat) : Nat := 0x10000 + t * 0x800 + q * 0x20
abbrev PCU_CQ_CFG_EN (t : Nat) (q : Nat) : FRef := ⟨PCU_CQ_CFG t q, 31, 31⟩
abbrev PCU_CQ_CFG_STOPPED (t : Nat) (q : Nat) : FRef := ⟨PCU_CQ_CFG t q, 30, 30⟩
abbrev PCU_CQ_CFG_KIND (t : Nat) (q : Nat) : FRef := ⟨PCU_CQ_CFG t q, 29, 29⟩
abbrev PCU_CQ_CFG_DIE (t : Nat) (q : Nat) : FRef := ⟨PCU_CQ_CFG t q, 24, 22⟩
abbrev PCU_CQ_CFG_QP (t : Nat) (q : Nat) : FRef := ⟨PCU_CQ_CFG t q, 21, 20⟩
abbrev PCU_CQ_CFG_SIZE_LOG2 (t : Nat) (q : Nat) : FRef := ⟨PCU_CQ_CFG t q, 19, 16⟩
abbrev PCU_CQ_CFG_DONE (t : Nat) (q : Nat) : FRef := ⟨PCU_CQ_CFG t q, 15, 0⟩
/-- PCU.CQ_BASE_LO_t_q (spec/17, role O). -/
abbrev PCU_CQ_BASE_LO (t : Nat) (q : Nat) : Nat := 0x10004 + t * 0x800 + q * 0x20
abbrev PCU_CQ_BASE_LO_ADDR (t : Nat) (q : Nat) : FRef := ⟨PCU_CQ_BASE_LO t q, 31, 0⟩
/-- PCU.CQ_BASE_HI_t_q (spec/17, role O). -/
abbrev PCU_CQ_BASE_HI (t : Nat) (q : Nat) : Nat := 0x10008 + t * 0x800 + q * 0x20
abbrev PCU_CQ_BASE_HI_ADDR (t : Nat) (q : Nat) : FRef := ⟨PCU_CQ_BASE_HI t q, 13, 0⟩
/-- PCU.CQ_STAT_LO_t_q (spec/17, role O). -/
abbrev PCU_CQ_STAT_LO (t : Nat) (q : Nat) : Nat := 0x1000c + t * 0x800 + q * 0x20
abbrev PCU_CQ_STAT_LO_ADDR (t : Nat) (q : Nat) : FRef := ⟨PCU_CQ_STAT_LO t q, 31, 0⟩
/-- PCU.CQ_STAT_HI_t_q (spec/17, role O). -/
abbrev PCU_CQ_STAT_HI (t : Nat) (q : Nat) : Nat := 0x10010 + t * 0x800 + q * 0x20
abbrev PCU_CQ_STAT_HI_ADDR (t : Nat) (q : Nat) : FRef := ⟨PCU_CQ_STAT_HI t q, 13, 0⟩
/-- PCU.CQ_TAIL_t_q (spec/17, role O). -/
abbrev PCU_CQ_TAIL (t : Nat) (q : Nat) : Nat := 0x10014 + t * 0x800 + q * 0x20
abbrev PCU_CQ_TAIL_INDEX (t : Nat) (q : Nat) : FRef := ⟨PCU_CQ_TAIL t q, 15, 0⟩
/-- PCU.CQ_HEAD_t_q (spec/17, role O). -/
abbrev PCU_CQ_HEAD (t : Nat) (q : Nat) : Nat := 0x10018 + t * 0x800 + q * 0x20
abbrev PCU_CQ_HEAD_INDEX (t : Nat) (q : Nat) : FRef := ⟨PCU_CQ_HEAD t q, 15, 0⟩
/-- SEC.STATUS (spec/17, role O). -/
abbrev SEC_STATUS : Nat := 0x5200000
abbrev SEC_STATUS_FAILS : FRef := ⟨SEC_STATUS, 31, 24⟩
abbrev SEC_STATUS_LOCKED : FRef := ⟨SEC_STATUS, 8, 8⟩
abbrev SEC_STATUS_KEY1 : FRef := ⟨SEC_STATUS, 2, 2⟩
abbrev SEC_STATUS_KEY0 : FRef := ⟨SEC_STATUS, 1, 1⟩
abbrev SEC_STATUS_CFG_REJECT : FRef := ⟨SEC_STATUS, 0, 0⟩
/-- SEC.SERIAL_LO (spec/17, role O). -/
abbrev SEC_SERIAL_LO : Nat := 0x5200004
abbrev SEC_SERIAL_LO_SERIAL : FRef := ⟨SEC_SERIAL_LO, 31, 0⟩
/-- SEC.SERIAL_HI (spec/17, role O). -/
abbrev SEC_SERIAL_HI : Nat := 0x5200008
abbrev SEC_SERIAL_HI_SERIAL : FRef := ⟨SEC_SERIAL_HI, 31, 0⟩
/-- SEC.AUTH_CTRL (spec/17, role O). -/
abbrev SEC_AUTH_CTRL : Nat := 0x5200010
abbrev SEC_AUTH_CTRL_CHALLENGE : FRef := ⟨SEC_AUTH_CTRL, 31, 31⟩
abbrev SEC_AUTH_CTRL_VERIFY : FRef := ⟨SEC_AUTH_CTRL, 30, 30⟩
abbrev SEC_AUTH_CTRL_DROP : FRef := ⟨SEC_AUTH_CTRL, 29, 29⟩
abbrev SEC_AUTH_CTRL_ROLE : FRef := ⟨SEC_AUTH_CTRL, 28, 27⟩
abbrev SEC_AUTH_CTRL_BIND : FRef := ⟨SEC_AUTH_CTRL, 26, 25⟩
abbrev SEC_AUTH_CTRL_BIND_ID : FRef := ⟨SEC_AUTH_CTRL, 24, 13⟩
abbrev SEC_AUTH_CTRL_SESSION : FRef := ⟨SEC_AUTH_CTRL, 12, 11⟩
/-- SEC.AUTH_RESULT (spec/17, role O). -/
abbrev SEC_AUTH_RESULT : Nat := 0x5200014
abbrev SEC_AUTH_RESULT_STATUS : FRef := ⟨SEC_AUTH_RESULT, 31, 28⟩
abbrev SEC_AUTH_RESULT_SESSION : FRef := ⟨SEC_AUTH_RESULT, 17, 16⟩
abbrev SEC_AUTH_RESULT_ROW : FRef := ⟨SEC_AUTH_RESULT, 15, 0⟩
/-- SEC.AUTH_LIFE (spec/17, role O). -/
abbrev SEC_AUTH_LIFE : Nat := 0x5200018
abbrev SEC_AUTH_LIFE_LIFETIME : FRef := ⟨SEC_AUTH_LIFE, 15, 0⟩
/-- SEC.NONCE_w (spec/17, role O). -/
abbrev SEC_NONCE (w : Nat) : Nat := 0x5200020 + w * 0x4
abbrev SEC_NONCE_BYTES (w : Nat) : FRef := ⟨SEC_NONCE w, 31, 0⟩
/-- SEC.SIG_w (spec/17, role O). -/
abbrev SEC_SIG (w : Nat) : Nat := 0x5200080 + w * 0x4
abbrev SEC_SIG_BYTES (w : Nat) : FRef := ⟨SEC_SIG w, 31, 0⟩
/-- SEC.SESSION_n (spec/17, role O). -/
abbrev SEC_SESSION (n : Nat) : Nat := 0x5200100 + n * 0x4
abbrev SEC_SESSION_VALID (n : Nat) : FRef := ⟨SEC_SESSION n, 31, 31⟩
abbrev SEC_SESSION_ROLE (n : Nat) : FRef := ⟨SEC_SESSION n, 30, 29⟩
abbrev SEC_SESSION_BIND (n : Nat) : FRef := ⟨SEC_SESSION n, 28, 27⟩
abbrev SEC_SESSION_BIND_ID (n : Nat) : FRef := ⟨SEC_SESSION n, 26, 15⟩
abbrev SEC_SESSION_LEFT (n : Nat) : FRef := ⟨SEC_SESSION n, 14, 0⟩
/-- SEC.GATED_COUNT (spec/17, role O). -/
abbrev SEC_GATED_COUNT : Nat := 0x5200110
abbrev SEC_GATED_COUNT_COUNT : FRef := ⟨SEC_GATED_COUNT, 31, 0⟩
/-- PART.FROG_CFG (spec/18, role I). -/
abbrev PART_FROG_CFG : Nat := 0x704000
abbrev PART_FROG_CFG_DRAIN : FRef := ⟨PART_FROG_CFG, 31, 16⟩
abbrev PART_FROG_CFG_LEAD : FRef := ⟨PART_FROG_CFG, 15, 0⟩
/-- PART.FROG_WAIT (spec/18, role I). -/
abbrev PART_FROG_WAIT : Nat := 0x704004
abbrev PART_FROG_WAIT_ACK_WAIT : FRef := ⟨PART_FROG_WAIT, 15, 0⟩
/-- PART.FAULT_SEQ (spec/18, role O). -/
abbrev PART_FAULT_SEQ : Nat := 0x704008
abbrev PART_FAULT_SEQ_FM_DROPPED : FRef := ⟨PART_FAULT_SEQ, 31, 16⟩
abbrev PART_FAULT_SEQ_NEXT : FRef := ⟨PART_FAULT_SEQ, 15, 0⟩
/-- PART.STATE_t (spec/18, role O). -/
abbrev PART_STATE (t : Nat) : Nat := 0x704100 + t * 0x40
abbrev PART_STATE_STATE (t : Nat) : FRef := ⟨PART_STATE t, 31, 28⟩
abbrev PART_STATE_JOINED (t : Nat) : FRef := ⟨PART_STATE t, 27, 27⟩
abbrev PART_STATE_MEMBERS (t : Nat) : FRef := ⟨PART_STATE t, 26, 14⟩
abbrev PART_STATE_CLUSTERS (t : Nat) : FRef := ⟨PART_STATE t, 13, 7⟩
abbrev PART_STATE_DIGESTS (t : Nat) : FRef := ⟨PART_STATE t, 6, 0⟩
/-- PART.SPID_t (spec/18, role O). -/
abbrev PART_SPID (t : Nat) : Nat := 0x704104 + t * 0x40
abbrev PART_SPID_SPID (t : Nat) : FRef := ⟨PART_SPID t, 31, 0⟩
/-- PART.FAULT_RING_LO_t (spec/18, role O). -/
abbrev PART_FAULT_RING_LO (t : Nat) : Nat := 0x704108 + t * 0x40
abbrev PART_FAULT_RING_LO_ADDR (t : Nat) : FRef := ⟨PART_FAULT_RING_LO t, 31, 0⟩
/-- PART.FAULT_RING_HI_t (spec/18, role O). -/
abbrev PART_FAULT_RING_HI (t : Nat) : Nat := 0x70410c + t * 0x40
abbrev PART_FAULT_RING_HI_ADDR (t : Nat) : FRef := ⟨PART_FAULT_RING_HI t, 31, 0⟩
/-- PART.FAULT_RING_CFG_t (spec/18, role O). -/
abbrev PART_FAULT_RING_CFG (t : Nat) : Nat := 0x704110 + t * 0x40
abbrev PART_FAULT_RING_CFG_EN (t : Nat) : FRef := ⟨PART_FAULT_RING_CFG t, 31, 31⟩
abbrev PART_FAULT_RING_CFG_SIZE_LOG2 (t : Nat) : FRef := ⟨PART_FAULT_RING_CFG t, 19, 16⟩
abbrev PART_FAULT_RING_CFG_FAULT_SYNC (t : Nat) : FRef := ⟨PART_FAULT_RING_CFG t, 15, 0⟩
/-- PART.FAULT_PROD_t (spec/18, role O). -/
abbrev PART_FAULT_PROD (t : Nat) : Nat := 0x704114 + t * 0x40
abbrev PART_FAULT_PROD_COUNT (t : Nat) : FRef := ⟨PART_FAULT_PROD t, 15, 0⟩
/-- PART.FAULT_CONS_t (spec/18, role O). -/
abbrev PART_FAULT_CONS (t : Nat) : Nat := 0x704118 + t * 0x40
abbrev PART_FAULT_CONS_COUNT (t : Nat) : FRef := ⟨PART_FAULT_CONS t, 15, 0⟩
/-- PART.FAULT_COUNT_t (spec/18, role O). -/
abbrev PART_FAULT_COUNT (t : Nat) : Nat := 0x70411c + t * 0x40
abbrev PART_FAULT_COUNT_REPORTS (t : Nat) : FRef := ⟨PART_FAULT_COUNT t, 31, 16⟩
abbrev PART_FAULT_COUNT_DROPPED (t : Nat) : FRef := ⟨PART_FAULT_COUNT t, 15, 0⟩
/-- PART.FROG_t (spec/18, role O). -/
abbrev PART_FROG (t : Nat) : Nat := 0x704120 + t * 0x40
abbrev PART_FROG_FROG_ID (t : Nat) : FRef := ⟨PART_FROG t, 31, 16⟩
abbrev PART_FROG_LATE (t : Nat) : FRef := ⟨PART_FROG t, 15, 12⟩
abbrev PART_FROG_ROW (t : Nat) : FRef := ⟨PART_FROG t, 11, 0⟩
/-- PART.FIRST_UNIT_t (spec/18, role O). -/
abbrev PART_FIRST_UNIT (t : Nat) : Nat := 0x704124 + t * 0x40
abbrev PART_FIRST_UNIT_UNIT (t : Nat) : FRef := ⟨PART_FIRST_UNIT t, 31, 0⟩
/-- PART.FENCED_k (spec/18, role O). -/
abbrev PART_FENCED (k : Nat) : Nat := 0x704800 + k * 0x4
abbrev PART_FENCED_COUNT (k : Nat) : FRef := ⟨PART_FENCED k, 31, 0⟩
/-- CMP.DIGEST_STATUS (spec/18, role O). -/
abbrev CMP_DIGEST_STATUS (d : Nat) : Nat := 0x6000200 + d * 0x800000
abbrev CMP_DIGEST_STATUS_STATE (d : Nat) : FRef := ⟨CMP_DIGEST_STATUS d, 31, 28⟩
abbrev CMP_DIGEST_STATUS_TENANT (d : Nat) : FRef := ⟨CMP_DIGEST_STATUS d, 27, 24⟩
abbrev CMP_DIGEST_STATUS_QUEUED (d : Nat) : FRef := ⟨CMP_DIGEST_STATUS d, 23, 20⟩
abbrev CMP_DIGEST_STATUS_STATUS (d : Nat) : FRef := ⟨CMP_DIGEST_STATUS d, 7, 0⟩
/-- CMP.DIGEST_LO (spec/18, role O). -/
abbrev CMP_DIGEST_LO (d : Nat) : Nat := 0x6000204 + d * 0x800000
abbrev CMP_DIGEST_LO_CRC (d : Nat) : FRef := ⟨CMP_DIGEST_LO d, 31, 0⟩
/-- CMP.DIGEST_HI (spec/18, role O). -/
abbrev CMP_DIGEST_HI (d : Nat) : Nat := 0x6000208 + d * 0x800000
abbrev CMP_DIGEST_HI_CRC (d : Nat) : FRef := ⟨CMP_DIGEST_HI d, 31, 0⟩
/-- CLK.CFG (spec/19, role I). -/
abbrev CLK_CFG : Nat := 0x200000
abbrev CLK_CFG_RELOCK_MAX : FRef := ⟨CLK_CFG, 31, 24⟩
abbrev CLK_CFG_ANNOUNCE_MIN : FRef := ⟨CLK_CFG, 23, 16⟩
abbrev CLK_CFG_MUX_WATCH : FRef := ⟨CLK_CFG, 15, 8⟩
/-- CLK.STATUS (spec/19, role O). -/
abbrev CLK_STATUS : Nat := 0x200004
abbrev CLK_STATUS_REFCLK_OK : FRef := ⟨CLK_STATUS, 31, 31⟩
abbrev CLK_STATUS_SAFE : FRef := ⟨CLK_STATUS, 30, 30⟩
abbrev CLK_STATUS_FAB_PLL : FRef := ⟨CLK_STATUS, 29, 29⟩
abbrev CLK_STATUS_FAB_STANDBY : FRef := ⟨CLK_STATUS, 28, 28⟩
abbrev CLK_STATUS_GATE_REJECT : FRef := ⟨CLK_STATUS, 3, 3⟩
abbrev CLK_STATUS_FCHG_REJECT : FRef := ⟨CLK_STATUS, 2, 2⟩
abbrev CLK_STATUS_HUNG_SEEN : FRef := ⟨CLK_STATUS, 1, 1⟩
abbrev CLK_STATUS_CFG_REJECT : FRef := ⟨CLK_STATUS, 0, 0⟩
/-- CLK.REFCLK_MON (spec/19, role O). -/
abbrev CLK_REFCLK_MON : Nat := 0x200008
abbrev CLK_REFCLK_MON_LOSSES : FRef := ⟨CLK_REFCLK_MON, 31, 16⟩
abbrev CLK_REFCLK_MON_GAPS : FRef := ⟨CLK_REFCLK_MON, 15, 0⟩
/-- CLK.REFCLK_LAST (spec/19, role O). -/
abbrev CLK_REFCLK_LAST : Nat := 0x20000c
abbrev CLK_REFCLK_LAST_SECS : FRef := ⟨CLK_REFCLK_LAST, 31, 0⟩
/-- CLK.DOMAIN_RESET (spec/19, role I). -/
abbrev CLK_DOMAIN_RESET : Nat := 0x200020
abbrev CLK_DOMAIN_RESET_GO : FRef := ⟨CLK_DOMAIN_RESET, 31, 31⟩
abbrev CLK_DOMAIN_RESET_REGION : FRef := ⟨CLK_DOMAIN_RESET, 6, 0⟩
/-- CLK.DOMAIN_RESET_RESULT (spec/19, role O). -/
abbrev CLK_DOMAIN_RESET_RESULT : Nat := 0x200024
abbrev CLK_DOMAIN_RESET_RESULT_STATUS : FRef := ⟨CLK_DOMAIN_RESET_RESULT, 31, 28⟩
abbrev CLK_DOMAIN_RESET_RESULT_REGION : FRef := ⟨CLK_DOMAIN_RESET_RESULT, 22, 16⟩
abbrev CLK_DOMAIN_RESET_RESULT_ROW : FRef := ⟨CLK_DOMAIN_RESET_RESULT, 15, 0⟩
/-- CLK.GATE_EN_LO (spec/19, role I). -/
abbrev CLK_GATE_EN_LO : Nat := 0x200030
abbrev CLK_GATE_EN_LO_EN : FRef := ⟨CLK_GATE_EN_LO, 31, 0⟩
/-- CLK.GATE_EN_HI (spec/19, role I). -/
abbrev CLK_GATE_EN_HI : Nat := 0x200034
abbrev CLK_GATE_EN_HI_EN : FRef := ⟨CLK_GATE_EN_HI, 7, 0⟩
/-- CLK.GATE_STATUS_LO (spec/19, role O). -/
abbrev CLK_GATE_STATUS_LO : Nat := 0x200038
abbrev CLK_GATE_STATUS_LO_GATED : FRef := ⟨CLK_GATE_STATUS_LO, 31, 0⟩
/-- CLK.GATE_STATUS_HI (spec/19, role O). -/
abbrev CLK_GATE_STATUS_HI : Nat := 0x20003c
abbrev CLK_GATE_STATUS_HI_GATED : FRef := ⟨CLK_GATE_STATUS_HI, 31, 0⟩
/-- CLK.CL_GATE_d (spec/19, role I). -/
abbrev CLK_CL_GATE (d : Nat) : Nat := 0x200040 + d * 0x4
abbrev CLK_CL_GATE_GATED (d : Nat) : FRef := ⟨CLK_CL_GATE d, 15, 8⟩
abbrev CLK_CL_GATE_EN (d : Nat) : FRef := ⟨CLK_CL_GATE d, 7, 0⟩
/-- CLK.GATED_COUNT (spec/19, role O). -/
abbrev CLK_GATED_COUNT : Nat := 0x200060
abbrev CLK_GATED_COUNT_COUNT : FRef := ⟨CLK_GATED_COUNT, 31, 0⟩
/-- CLK.GATED_LAST (spec/19, role O). -/
abbrev CLK_GATED_LAST : Nat := 0x200064
abbrev CLK_GATED_LAST_REQ : FRef := ⟨CLK_GATED_LAST, 31, 29⟩
abbrev CLK_GATED_LAST_WRITE : FRef := ⟨CLK_GATED_LAST, 28, 28⟩
abbrev CLK_GATED_LAST_OFFSET : FRef := ⟨CLK_GATED_LAST, 27, 0⟩
/-- CLK.FCHG_d (spec/19, role M). -/
abbrev CLK_FCHG (d : Nat) : Nat := 0x200100 + d * 0x10
abbrev CLK_FCHG_GO (d : Nat) : FRef := ⟨CLK_FCHG d, 31, 31⟩
abbrev CLK_FCHG_CANCEL (d : Nat) : FRef := ⟨CLK_FCHG d, 30, 30⟩
abbrev CLK_FCHG_MULT (d : Nat) : FRef := ⟨CLK_FCHG d, 29, 23⟩
abbrev CLK_FCHG_ROW (d : Nat) : FRef := ⟨CLK_FCHG d, 15, 0⟩
/-- CLK.FCHG_RESULT_d (spec/19, role O). -/
abbrev CLK_FCHG_RESULT (d : Nat) : Nat := 0x200104 + d * 0x10
abbrev CLK_FCHG_RESULT_STATUS (d : Nat) : FRef := ⟨CLK_FCHG_RESULT d, 31, 28⟩
abbrev CLK_FCHG_RESULT_DEFERS (d : Nat) : FRef := ⟨CLK_FCHG_RESULT d, 27, 24⟩
abbrev CLK_FCHG_RESULT_ROW (d : Nat) : FRef := ⟨CLK_FCHG_RESULT d, 15, 0⟩
/-- CLK.FCHG_NOW_d (spec/19, role O). -/
abbrev CLK_FCHG_NOW (d : Nat) : Nat := 0x200108 + d * 0x10
abbrev CLK_FCHG_NOW_MULT (d : Nat) : FRef := ⟨CLK_FCHG_NOW d, 30, 24⟩
abbrev CLK_FCHG_NOW_TARGET (d : Nat) : FRef := ⟨CLK_FCHG_NOW d, 22, 16⟩
/-- CLK.REGION_r (spec/19, role O). -/
abbrev CLK_REGION (r : Nat) : Nat := 0x201000 + r * 0x4
abbrev CLK_REGION_SRC (r : Nat) : FRef := ⟨CLK_REGION r, 31, 30⟩
abbrev CLK_REGION_LOCK (r : Nat) : FRef := ⟨CLK_REGION r, 29, 29⟩
abbrev CLK_REGION_MON_OK (r : Nat) : FRef := ⟨CLK_REGION r, 28, 28⟩
abbrev CLK_REGION_FENCED (r : Nat) : FRef := ⟨CLK_REGION r, 27, 27⟩
abbrev CLK_REGION_HUNG (r : Nat) : FRef := ⟨CLK_REGION r, 26, 26⟩
abbrev CLK_REGION_GATED (r : Nat) : FRef := ⟨CLK_REGION r, 25, 25⟩
abbrev CLK_REGION_MULT (r : Nat) : FRef := ⟨CLK_REGION r, 24, 18⟩
/-- CLK.XLAT_r (spec/19, role O). -/
abbrev CLK_XLAT (r : Nat) : Nat := 0x201400 + r * 0x4
abbrev CLK_XLAT_UP (r : Nat) : FRef := ⟨CLK_XLAT r, 31, 16⟩
abbrev CLK_XLAT_DOWN (r : Nat) : FRef := ⟨CLK_XLAT r, 15, 0⟩
/-- PWR.CFG (spec/20, role I). -/
abbrev PWR_CFG : Nat := 0x300000
abbrev PWR_CFG_PPL : FRef := ⟨PWR_CFG, 25, 16⟩
abbrev PWR_CFG_DVFS_ROWS : FRef := ⟨PWR_CFG, 15, 8⟩
abbrev PWR_CFG_RELEASE_ROWS : FRef := ⟨PWR_CFG, 7, 0⟩
/-- PWR.CAP (spec/20, role O). -/
abbrev PWR_CAP : Nat := 0x300004
abbrev PWR_CAP_CAP : FRef := ⟨PWR_CAP, 25, 16⟩
/-- PWR.STATUS (spec/20, role O). -/
abbrev PWR_STATUS : Nat := 0x300008
abbrev PWR_STATUS_BRAKE : FRef := ⟨PWR_STATUS, 31, 31⟩
abbrev PWR_STATUS_EMERGENCY : FRef := ⟨PWR_STATUS, 30, 30⟩
abbrev PWR_STATUS_FAST_LIMIT : FRef := ⟨PWR_STATUS, 29, 29⟩
abbrev PWR_STATUS_UV : FRef := ⟨PWR_STATUS, 28, 28⟩
abbrev PWR_STATUS_LIMIT_UNMET : FRef := ⟨PWR_STATUS, 27, 27⟩
abbrev PWR_STATUS_TARGET_VALID : FRef := ⟨PWR_STATUS, 26, 26⟩
abbrev PWR_STATUS_GAUGE_FAIL : FRef := ⟨PWR_STATUS, 25, 25⟩
abbrev PWR_STATUS_CAP_REJECT : FRef := ⟨PWR_STATUS, 2, 2⟩
abbrev PWR_STATUS_CFG_REJECT : FRef := ⟨PWR_STATUS, 0, 0⟩
/-- PWR.LIMIT (spec/20, role O). -/
abbrev PWR_LIMIT : Nat := 0x30000c
abbrev PWR_LIMIT_EFFECTIVE : FRef := ⟨PWR_LIMIT, 25, 16⟩
abbrev PWR_LIMIT_TARGET : FRef := ⟨PWR_LIMIT, 9, 0⟩
/-- PWR.TARGET_LEFT (spec/20, role O). -/
abbrev PWR_TARGET_LEFT : Nat := 0x300010
abbrev PWR_TARGET_LEFT_MS : FRef := ⟨PWR_TARGET_LEFT, 15, 0⟩
/-- PWR.INPUT (spec/20, role O). -/
abbrev PWR_INPUT : Nat := 0x300014
abbrev PWR_INPUT_VIN : FRef := ⟨PWR_INPUT, 31, 16⟩
abbrev PWR_INPUT_ROW_W : FRef := ⟨PWR_INPUT, 15, 0⟩
/-- PWR.MEAN (spec/20, role O). -/
abbrev PWR_MEAN : Nat := 0x300018
abbrev PWR_MEAN_PEAK_W : FRef := ⟨PWR_MEAN, 31, 16⟩
abbrev PWR_MEAN_MEAN_W : FRef := ⟨PWR_MEAN, 15, 0⟩
/-- PWR.ENERGY_LO (spec/20, role O). -/
abbrev PWR_ENERGY_LO : Nat := 0x300020
abbrev PWR_ENERGY_LO_UJ : FRef := ⟨PWR_ENERGY_LO, 31, 0⟩
/-- PWR.ENERGY_HI (spec/20, role O). -/
abbrev PWR_ENERGY_HI : Nat := 0x300024
abbrev PWR_ENERGY_HI_UJ : FRef := ⟨PWR_ENERGY_HI, 31, 0⟩
/-- PWR.THROTTLE (spec/20, role O). -/
abbrev PWR_THROTTLE : Nat := 0x300028
abbrev PWR_THROTTLE_ACTIVE : FRef := ⟨PWR_THROTTLE, 10, 0⟩
/-- PWR.SLACK (spec/20, role O). -/
abbrev PWR_SLACK : Nat := 0x30002c
abbrev PWR_SLACK_SLACK : FRef := ⟨PWR_SLACK, 7, 0⟩
/-- PWR.CFG2 (spec/20, role I). -/
abbrev PWR_CFG2 : Nat := 0x300030
abbrev PWR_CFG2_SLACK_ROWS : FRef := ⟨PWR_CFG2, 31, 16⟩
abbrev PWR_CFG2_DROOP_MV : FRef := ⟨PWR_CFG2, 15, 8⟩
abbrev PWR_CFG2_DROOP_HOLD : FRef := ⟨PWR_CFG2, 7, 0⟩
/-- PWR.AGE_CFG (spec/20, role I). -/
abbrev PWR_AGE_CFG : Nat := 0x300034
abbrev PWR_AGE_CFG_HOURS : FRef := ⟨PWR_AGE_CFG, 15, 0⟩
/-- PWR.GAUGE (spec/20, role O). -/
abbrev PWR_GAUGE : Nat := 0x300038
abbrev PWR_GAUGE_STATUS : FRef := ⟨PWR_GAUGE, 31, 28⟩
abbrev PWR_GAUGE_DEVIATION : FRef := ⟨PWR_GAUGE, 15, 0⟩
/-- PWR.THR_ROWS_LO_n (spec/20, role O). -/
abbrev PWR_THR_ROWS_LO (n : Nat) : Nat := 0x300100 + n * 0x8
abbrev PWR_THR_ROWS_LO_ROWS (n : Nat) : FRef := ⟨PWR_THR_ROWS_LO n, 31, 0⟩
/-- PWR.THR_ROWS_HI_n (spec/20, role O). -/
abbrev PWR_THR_ROWS_HI (n : Nat) : Nat := 0x300104 + n * 0x8
abbrev PWR_THR_ROWS_HI_ROWS (n : Nat) : FRef := ⟨PWR_THR_ROWS_HI n, 15, 0⟩
/-- PWR.DIE_d (spec/20, role O). -/
abbrev PWR_DIE (d : Nat) : Nat := 0x300200 + d * 0x10
abbrev PWR_DIE_POINT (d : Nat) : FRef := ⟨PWR_DIE d, 31, 28⟩
abbrev PWR_DIE_MAX_POINT (d : Nat) : FRef := ⟨PWR_DIE d, 27, 24⟩
abbrev PWR_DIE_TRIM (d : Nat) : FRef := ⟨PWR_DIE d, 23, 16⟩
abbrev PWR_DIE_ISSUE (d : Nat) : FRef := ⟨PWR_DIE d, 15, 9⟩
/-- PWR.RAIL_d (spec/20, role O). -/
abbrev PWR_RAIL (d : Nat) : Nat := 0x300204 + d * 0x10
abbrev PWR_RAIL_SET_MV (d : Nat) : FRef := ⟨PWR_RAIL d, 31, 16⟩
abbrev PWR_RAIL_MEAS_MV (d : Nat) : FRef := ⟨PWR_RAIL d, 15, 0⟩
/-- PWR.DIE_W_d (spec/20, role O). -/
abbrev PWR_DIE_W (d : Nat) : Nat := 0x300208 + d * 0x10
abbrev PWR_DIE_W_DROOPS (d : Nat) : FRef := ⟨PWR_DIE_W d, 31, 16⟩
abbrev PWR_DIE_W_W (d : Nat) : FRef := ⟨PWR_DIE_W d, 15, 0⟩
/-- PWR.DOMAIN_W_n (spec/20, role O). -/
abbrev PWR_DOMAIN_W (n : Nat) : Nat := 0x300300 + n * 0x4
abbrev PWR_DOMAIN_W_W (n : Nat) : FRef := ⟨PWR_DOMAIN_W n, 15, 0⟩
/-- THM.CFG (spec/21, role I). -/
abbrev THM_CFG : Nat := 0x400000
abbrev THM_CFG_HYST : FRef := ⟨THM_CFG, 31, 24⟩
abbrev THM_CFG_RATE_STEP : FRef := ⟨THM_CFG, 23, 16⟩
abbrev THM_CFG_RATE_MIN : FRef := ⟨THM_CFG, 15, 8⟩
abbrev THM_CFG_RAISE_MS : FRef := ⟨THM_CFG, 7, 0⟩
/-- THM.CFG2 (spec/21, role I). -/
abbrev THM_CFG2 : Nat := 0x400004
abbrev THM_CFG2_BROKEN_C : FRef := ⟨THM_CFG2, 31, 28⟩
abbrev THM_CFG2_BROKEN_P : FRef := ⟨THM_CFG2, 27, 24⟩
/-- THM.STATUS (spec/21, role O). -/
abbrev THM_STATUS : Nat := 0x400008
abbrev THM_STATUS_PENDING_ACK : FRef := ⟨THM_STATUS, 31, 31⟩
abbrev THM_STATUS_COOL_WARN : FRef := ⟨THM_STATUS, 30, 30⟩
abbrev THM_STATUS_FLOW_STOP : FRef := ⟨THM_STATUS, 29, 29⟩
abbrev THM_STATUS_FAST : FRef := ⟨THM_STATUS, 23, 16⟩
abbrev THM_STATUS_BROKEN : FRef := ⟨THM_STATUS, 15, 8⟩
abbrev THM_STATUS_CFG_REJECT : FRef := ⟨THM_STATUS, 0, 0⟩
/-- THM.COOL_CFG (spec/21, role I). -/
abbrev THM_COOL_CFG : Nat := 0x40000c
abbrev THM_COOL_CFG_INLET_MAX : FRef := ⟨THM_COOL_CFG, 31, 24⟩
abbrev THM_COOL_CFG_FLOW_MIN : FRef := ⟨THM_COOL_CFG, 23, 12⟩
abbrev THM_COOL_CFG_FLOW_STOP : FRef := ⟨THM_COOL_CFG, 11, 0⟩
/-- THM.COOLANT (spec/21, role O). -/
abbrev THM_COOLANT : Nat := 0x400010
abbrev THM_COOLANT_INLET : FRef := ⟨THM_COOLANT, 31, 16⟩
abbrev THM_COOLANT_OUTLET : FRef := ⟨THM_COOLANT, 15, 0⟩
/-- THM.FLOW (spec/21, role O). -/
abbrev THM_FLOW : Nat := 0x400014
abbrev THM_FLOW_FLOW : FRef := ⟨THM_FLOW, 31, 16⟩
abbrev THM_FLOW_DP : FRef := ⟨THM_FLOW, 15, 0⟩
/-- THM.TRIP (spec/21, role O). -/
abbrev THM_TRIP : Nat := 0x400018
abbrev THM_TRIP_CAUSE : FRef := ⟨THM_TRIP, 31, 28⟩
abbrev THM_TRIP_PENDING : FRef := ⟨THM_TRIP, 27, 24⟩
abbrev THM_TRIP_ZONE : FRef := ⟨THM_TRIP, 23, 16⟩
abbrev THM_TRIP_SEQ : FRef := ⟨THM_TRIP, 15, 0⟩
/-- THM.CEIL_d (spec/21, role O). -/
abbrev THM_CEIL (d : Nat) : Nat := 0x400100 + d * 0x4
abbrev THM_CEIL_CEIL (d : Nat) : FRef := ⟨THM_CEIL d, 31, 28⟩
abbrev THM_CEIL_REASON (d : Nat) : FRef := ⟨THM_CEIL d, 27, 24⟩
/-- THM.ZONE_T_z (spec/21, role O). -/
abbrev THM_ZONE_T (z : Nat) : Nat := 0x401000 + z * 0x10
abbrev THM_ZONE_T_HOT (z : Nat) : FRef := ⟨THM_ZONE_T z, 31, 16⟩
abbrev THM_ZONE_T_RATE (z : Nat) : FRef := ⟨THM_ZONE_T z, 15, 0⟩
/-- THM.ZONE_LIM_z (spec/21, role I). -/
abbrev THM_ZONE_LIM (z : Nat) : Nat := 0x401004 + z * 0x10
abbrev THM_ZONE_LIM_THROTTLE (z : Nat) : FRef := ⟨THM_ZONE_LIM z, 31, 24⟩
abbrev THM_ZONE_LIM_MIN (z : Nat) : FRef := ⟨THM_ZONE_LIM z, 23, 16⟩
abbrev THM_ZONE_LIM_CRIT (z : Nat) : FRef := ⟨THM_ZONE_LIM z, 15, 8⟩
/-- THM.ZONE_STATE_z (spec/21, role O). -/
abbrev THM_ZONE_STATE (z : Nat) : Nat := 0x401008 + z * 0x10
abbrev THM_ZONE_STATE_STATE (z : Nat) : FRef := ⟨THM_ZONE_STATE z, 31, 28⟩
abbrev THM_ZONE_STATE_SENSORS (z : Nat) : FRef := ⟨THM_ZONE_STATE z, 27, 20⟩
abbrev THM_ZONE_STATE_BROKEN (z : Nat) : FRef := ⟨THM_ZONE_STATE z, 19, 16⟩
abbrev THM_ZONE_STATE_STEPS (z : Nat) : FRef := ⟨THM_ZONE_STATE z, 15, 0⟩
/-- PCU.LEASE_STATUS (spec/22, role O). -/
abbrev PCU_LEASE_STATUS : Nat := 0x400
abbrev PCU_LEASE_STATUS_HOLDER : FRef := ⟨PCU_LEASE_STATUS, 31, 30⟩
abbrev PCU_LEASE_STATUS_DEBUG_HOLD : FRef := ⟨PCU_LEASE_STATUS, 29, 29⟩
abbrev PCU_LEASE_STATUS_NO_TOKEN : FRef := ⟨PCU_LEASE_STATUS, 28, 28⟩
abbrev PCU_LEASE_STATUS_SWITCHES : FRef := ⟨PCU_LEASE_STATUS, 15, 0⟩
/-- PCU.LEASE_CFG (spec/22, role I). -/
abbrev PCU_LEASE_CFG : Nat := 0x404
abbrev PCU_LEASE_CFG_NOPCU_MS : FRef := ⟨PCU_LEASE_CFG, 31, 24⟩
abbrev PCU_LEASE_CFG_RESTARTS : FRef := ⟨PCU_LEASE_CFG, 3, 0⟩
/-- PCU.DEBUG_HOLD (spec/22, role M). -/
abbrev PCU_DEBUG_HOLD : Nat := 0x408
abbrev PCU_DEBUG_HOLD_EN : FRef := ⟨PCU_DEBUG_HOLD, 31, 31⟩
/-- PCU.LEASE_LAST (spec/22, role O). -/
abbrev PCU_LEASE_LAST : Nat := 0x40c
abbrev PCU_LEASE_LAST_CAUSE : FRef := ⟨PCU_LEASE_LAST, 31, 28⟩
abbrev PCU_LEASE_LAST_FROM : FRef := ⟨PCU_LEASE_LAST, 27, 27⟩
abbrev PCU_LEASE_LAST_GAP : FRef := ⟨PCU_LEASE_LAST, 26, 16⟩
abbrev PCU_LEASE_LAST_ROW : FRef := ⟨PCU_LEASE_LAST, 15, 0⟩
/-- PCU.STALE_WR (spec/22, role O). -/
abbrev PCU_STALE_WR : Nat := 0x410
abbrev PCU_STALE_WR_COUNT : FRef := ⟨PCU_STALE_WR, 31, 0⟩
/-- PCU.UNIT_c (spec/22, role O). -/
abbrev PCU_UNIT (c : Nat) : Nat := 0x420 + c * 0x4
abbrev PCU_UNIT_STATE (c : Nat) : FRef := ⟨PCU_UNIT c, 31, 28⟩
abbrev PCU_UNIT_RESTARTS_USED (c : Nat) : FRef := ⟨PCU_UNIT c, 27, 24⟩
abbrev PCU_UNIT_CHECK_FAILS (c : Nat) : FRef := ⟨PCU_UNIT c, 23, 16⟩
abbrev PCU_UNIT_ROW (c : Nat) : FRef := ⟨PCU_UNIT c, 15, 0⟩
/-- PCU.MIRROR (spec/22, role O). -/
abbrev PCU_MIRROR : Nat := 0x430
abbrev PCU_MIRROR_REBUILT : FRef := ⟨PCU_MIRROR, 31, 16⟩
abbrev PCU_MIRROR_VALID : FRef := ⟨PCU_MIRROR, 15, 0⟩
/-- EVR.CFG (spec/22, role I). -/
abbrev EVR_CFG : Nat := 0x100000
abbrev EVR_CFG_BURST_S : FRef := ⟨EVR_CFG, 31, 24⟩
abbrev EVR_CFG_FREEZE_MAX : FRef := ⟨EVR_CFG, 23, 16⟩
/-- EVR.STATUS (spec/22, role O). -/
abbrev EVR_STATUS : Nat := 0x100004
abbrev EVR_STATUS_COUNT : FRef := ⟨EVR_STATUS, 31, 19⟩
abbrev EVR_STATUS_FULL : FRef := ⟨EVR_STATUS, 18, 18⟩
abbrev EVR_STATUS_FROZEN : FRef := ⟨EVR_STATUS, 17, 17⟩
abbrev EVR_STATUS_CFG_REJECT : FRef := ⟨EVR_STATUS, 0, 0⟩
/-- EVR.NV_STATUS (spec/22, role O). -/
abbrev EVR_NV_STATUS : Nat := 0x100008
abbrev EVR_NV_STATUS_COUNT : FRef := ⟨EVR_NV_STATUS, 31, 23⟩
abbrev EVR_NV_STATUS_RESERVE : FRef := ⟨EVR_NV_STATUS, 22, 18⟩
abbrev EVR_NV_STATUS_FULL : FRef := ⟨EVR_NV_STATUS, 17, 17⟩
abbrev EVR_NV_STATUS_TRIP_OVER : FRef := ⟨EVR_NV_STATUS, 16, 16⟩
/-- EVR.CTRL (spec/22, role O). -/
abbrev EVR_CTRL : Nat := 0x10000c
abbrev EVR_CTRL_FREEZE : FRef := ⟨EVR_CTRL, 31, 31⟩
abbrev EVR_CTRL_UNFREEZE : FRef := ⟨EVR_CTRL, 30, 30⟩
/-- EVR.CLEAR (spec/22, role I). -/
abbrev EVR_CLEAR : Nat := 0x100010
abbrev EVR_CLEAR_VOL : FRef := ⟨EVR_CLEAR, 31, 31⟩
/-- EVR.NV_CLEAR (spec/22, role M). -/
abbrev EVR_NV_CLEAR : Nat := 0x100014
abbrev EVR_NV_CLEAR_GENERAL : FRef := ⟨EVR_NV_CLEAR, 31, 31⟩
/-- EVR.LOST (spec/22, role O). -/
abbrev EVR_LOST : Nat := 0x100018
abbrev EVR_LOST_VOL : FRef := ⟨EVR_LOST, 31, 16⟩
abbrev EVR_LOST_NV : FRef := ⟨EVR_LOST, 15, 0⟩
/-- EVR.OP_SECS (spec/22, role O). -/
abbrev EVR_OP_SECS : Nat := 0x10001c
abbrev EVR_OP_SECS_COUNT : FRef := ⟨EVR_OP_SECS, 31, 0⟩
/-- EVR.POWER_CYCLES (spec/22, role O). -/
abbrev EVR_POWER_CYCLES : Nat := 0x100020
abbrev EVR_POWER_CYCLES_COUNT : FRef := ⟨EVR_POWER_CYCLES, 31, 0⟩
/-- EVR.SEL (spec/22, role O). -/
abbrev EVR_SEL : Nat := 0x100024
abbrev EVR_SEL_NV : FRef := ⟨EVR_SEL, 31, 31⟩
abbrev EVR_SEL_INDEX : FRef := ⟨EVR_SEL, 11, 0⟩
/-- EVR.REC_w (spec/22, role O). -/
abbrev EVR_REC (w : Nat) : Nat := 0x100040 + w * 0x4
abbrev EVR_REC_WORD (w : Nat) : FRef := ⟨EVR_REC w, 31, 0⟩
/-- EVR.TRIG_CFG_n (spec/22, role I). -/
abbrev EVR_TRIG_CFG (n : Nat) : Nat := 0x101000 + n * 0x80
abbrev EVR_TRIG_CFG_EN (n : Nat) : FRef := ⟨EVR_TRIG_CFG n, 31, 31⟩
abbrev EVR_TRIG_CFG_BLOCK_ONLY (n : Nat) : FRef := ⟨EVR_TRIG_CFG n, 30, 30⟩
abbrev EVR_TRIG_CFG_NSNAP (n : Nat) : FRef := ⟨EVR_TRIG_CFG n, 20, 16⟩
abbrev EVR_TRIG_CFG_CODE (n : Nat) : FRef := ⟨EVR_TRIG_CFG n, 15, 0⟩
/-- EVR.TRIG_HITS_n (spec/22, role O). -/
abbrev EVR_TRIG_HITS (n : Nat) : Nat := 0x101004 + n * 0x80
abbrev EVR_TRIG_HITS_COUNT (n : Nat) : FRef := ⟨EVR_TRIG_HITS n, 31, 0⟩
/-- EVR.TRIG_OFS_n_i (spec/22, role I). -/
abbrev EVR_TRIG_OFS (n : Nat) (i : Nat) : Nat := 0x101040 + n * 0x80 + i * 0x4
abbrev EVR_TRIG_OFS_OFFSET (n : Nat) (i : Nat) : FRef := ⟨EVR_TRIG_OFS n i, 27, 0⟩
/-- TNS.PORT_RING_STATE_j_l_d (spec/04, role O). -/
abbrev TNS_PORT_RING_STATE (i : Nat) (j : Nat) (d : Nat) (l : Nat) : Nat := 0x2060000 + i * 0x100000 + j * 0x500 + d * 0x280 + l * 0x10
abbrev TNS_PORT_RING_STATE_TWIN (i : Nat) (j : Nat) (d : Nat) (l : Nat) : FRef := ⟨TNS_PORT_RING_STATE i j d l, 31, 31⟩
abbrev TNS_PORT_RING_STATE_LOOP (i : Nat) (j : Nat) (d : Nat) (l : Nat) : FRef := ⟨TNS_PORT_RING_STATE i j d l, 30, 28⟩
abbrev TNS_PORT_RING_STATE_HEATER (i : Nat) (j : Nat) (d : Nat) (l : Nat) : FRef := ⟨TNS_PORT_RING_STATE i j d l, 15, 0⟩
/-- TNS.PORT_RING_FACTORY_j_l_d (spec/04, role M). -/
abbrev TNS_PORT_RING_FACTORY (i : Nat) (j : Nat) (d : Nat) (l : Nat) : Nat := 0x2060004 + i * 0x100000 + j * 0x500 + d * 0x280 + l * 0x10
abbrev TNS_PORT_RING_FACTORY_HEAT_REF (i : Nat) (j : Nat) (d : Nat) (l : Nat) : FRef := ⟨TNS_PORT_RING_FACTORY i j d l, 31, 16⟩
abbrev TNS_PORT_RING_FACTORY_EFF (i : Nat) (j : Nat) (d : Nat) (l : Nat) : FRef := ⟨TNS_PORT_RING_FACTORY i j d l, 15, 8⟩
abbrev TNS_PORT_RING_FACTORY_TCOEF (i : Nat) (j : Nat) (d : Nat) (l : Nat) : FRef := ⟨TNS_PORT_RING_FACTORY i j d l, 7, 0⟩
/-- TNS.PORT_RING_OFFSET_j_l_d (spec/04, role I). -/
abbrev TNS_PORT_RING_OFFSET (i : Nat) (j : Nat) (d : Nat) (l : Nat) : Nat := 0x2060008 + i * 0x100000 + j * 0x500 + d * 0x280 + l * 0x10
abbrev TNS_PORT_RING_OFFSET_HEAT_OFS (i : Nat) (j : Nat) (d : Nat) (l : Nat) : FRef := ⟨TNS_PORT_RING_OFFSET i j d l, 31, 16⟩
abbrev TNS_PORT_RING_OFFSET_EFF_OFS (i : Nat) (j : Nat) (d : Nat) (l : Nat) : FRef := ⟨TNS_PORT_RING_OFFSET i j d l, 15, 8⟩
abbrev TNS_PORT_RING_OFFSET_TCOEF_OFS (i : Nat) (j : Nat) (d : Nat) (l : Nat) : FRef := ⟨TNS_PORT_RING_OFFSET i j d l, 7, 0⟩
/-- TNS.PORT_RING_DETUNE_j_l_d (spec/04, role O). -/
abbrev TNS_PORT_RING_DETUNE (i : Nat) (j : Nat) (d : Nat) (l : Nat) : Nat := 0x206000c + i * 0x100000 + j * 0x500 + d * 0x280 + l * 0x10
abbrev TNS_PORT_RING_DETUNE_DETUNE (i : Nat) (j : Nat) (d : Nat) (l : Nat) : FRef := ⟨TNS_PORT_RING_DETUNE i j d l, 31, 16⟩
abbrev TNS_PORT_RING_DETUNE_MON_PWR (i : Nat) (j : Nat) (d : Nat) (l : Nat) : FRef := ⟨TNS_PORT_RING_DETUNE i j d l, 15, 0⟩
/-- EDGE.PAT_SEL (spec/08, role I). -/
abbrev EDGE_PAT_SEL (j : Nat) : Nat := 0x4000040 + j * 0x40000
abbrev EDGE_PAT_SEL_PATTERN (j : Nat) : FRef := ⟨EDGE_PAT_SEL j, 31, 28⟩
abbrev EDGE_PAT_SEL_LANE (j : Nat) : FRef := ⟨EDGE_PAT_SEL j, 5, 0⟩
/-- EDGE.PAT_CTRL (spec/08, role I). -/
abbrev EDGE_PAT_CTRL (j : Nat) : Nat := 0x4000044 + j * 0x40000
abbrev EDGE_PAT_CTRL_GO (j : Nat) : FRef := ⟨EDGE_PAT_CTRL j, 31, 31⟩
abbrev EDGE_PAT_CTRL_STOP (j : Nat) : FRef := ⟨EDGE_PAT_CTRL j, 30, 30⟩
abbrev EDGE_PAT_CTRL_ROWS (j : Nat) : FRef := ⟨EDGE_PAT_CTRL j, 15, 0⟩
/-- EDGE.PAT_WORD (spec/08, role I). -/
abbrev EDGE_PAT_WORD (j : Nat) : Nat := 0x4000048 + j * 0x40000
abbrev EDGE_PAT_WORD_WORD (j : Nat) : FRef := ⟨EDGE_PAT_WORD j, 31, 0⟩
/-- EDGE.PAT_RESULT (spec/08, role O). -/
abbrev EDGE_PAT_RESULT (j : Nat) : Nat := 0x400004c + j * 0x40000
abbrev EDGE_PAT_RESULT_STATUS (j : Nat) : FRef := ⟨EDGE_PAT_RESULT j, 31, 28⟩
abbrev EDGE_PAT_RESULT_ROW (j : Nat) : FRef := ⟨EDGE_PAT_RESULT j, 15, 0⟩
/-- EDGE.PAT_BITS_LO (spec/08, role O). -/
abbrev EDGE_PAT_BITS_LO (j : Nat) : Nat := 0x4000050 + j * 0x40000
abbrev EDGE_PAT_BITS_LO_BITS (j : Nat) : FRef := ⟨EDGE_PAT_BITS_LO j, 31, 0⟩
/-- EDGE.PAT_BITS_HI (spec/08, role O). -/
abbrev EDGE_PAT_BITS_HI (j : Nat) : Nat := 0x4000054 + j * 0x40000
abbrev EDGE_PAT_BITS_HI_BITS (j : Nat) : FRef := ⟨EDGE_PAT_BITS_HI j, 15, 0⟩
/-- EDGE.PAT_ERRS (spec/08, role O). -/
abbrev EDGE_PAT_ERRS (j : Nat) : Nat := 0x4000058 + j * 0x40000
abbrev EDGE_PAT_ERRS_ERRS (j : Nat) : FRef := ⟨EDGE_PAT_ERRS j, 31, 0⟩
/-- EDGE.INJ (spec/08, role I). -/
abbrev EDGE_INJ (j : Nat) : Nat := 0x400005c + j * 0x40000
abbrev EDGE_INJ_GO (j : Nat) : FRef := ⟨EDGE_INJ j, 31, 31⟩
abbrev EDGE_INJ_COUNT_FENCE (j : Nat) : FRef := ⟨EDGE_INJ j, 30, 30⟩
abbrev EDGE_INJ_MODE (j : Nat) : FRef := ⟨EDGE_INJ j, 29, 27⟩
abbrev EDGE_INJ_LANE (j : Nat) : FRef := ⟨EDGE_INJ j, 5, 0⟩
/-- EDGE.INJ_RESULT (spec/08, role O). -/
abbrev EDGE_INJ_RESULT (j : Nat) : Nat := 0x4000060 + j * 0x40000
abbrev EDGE_INJ_RESULT_STATUS (j : Nat) : FRef := ⟨EDGE_INJ_RESULT j, 31, 28⟩
abbrev EDGE_INJ_RESULT_ROW (j : Nat) : FRef := ⟨EDGE_INJ_RESULT j, 15, 0⟩

end R

end Sys2Proof.Machine
end

