-- ==== Sys2Proof/Machine/RegMap.lean ====
section
/-! DEFINITION. The register map of the package control space as a table: for every register its block, name, base,
index dimensions, write role and fields, each field with its access type, update class and reset value
(R6 to R10, R16, R27 and the register tables of every chapter), and the look-up of an offset. -/

namespace Sys2Proof.Machine

/-- The register blocks of the control space (R27); LANE and TNS share a slot. -/
inductive Blk where
  | pcu | dbg | opf | site | lsu | tns | lane | part | circ | edge | route | red | syn | time | cmp | mem | hio | cpu | sec | clk | pwr | thm | evr
  deriving DecidableEq, Repr

/-- The roles, lowest to highest: operator, installer, maker (R10). -/
inductive Role where
  | operator | installer | maker
  deriving DecidableEq, Repr

/-- The access types of R7. -/
inductive AccessType where
  | ro | rw | rc | w1c | w1s | wo
  deriving DecidableEq, Repr

/-- The update classes of R8: static, next row, live. -/
inductive UpdClass where
  | s | w | l
  deriving DecidableEq, Repr

/-- The reset value of a field: a number, or a value the spec gives as a function of the register's index. -/
inductive Rst where
  | val (n : Nat) | laneOn | portRole | nodeSelf | partState | maxPoint | zoneThrottle | zoneMin | zoneCrit | zoneSensors
  | planeType | planeFixed | planeSwitched | planeSpare | planeKind
  deriving DecidableEq, Repr

/-- One field of a register table: bits, access type, update class, reset value. Reserved bits have no entry (R7). -/
structure Fld where
  hi : Nat
  lo : Nat
  acc : AccessType
  cls : UpdClass
  rst : Rst
  deriving DecidableEq, Repr

/-- One index dimension of a register: how many values, the stride in bytes, the first value. -/
structure Dim where
  count : Nat
  stride : Nat
  first : Nat
  deriving DecidableEq, Repr

/-- One register table: its block, name, lowest offset, dimensions from the largest stride down, the lowest role that may write it, its fields. -/
structure RegDesc where
  blk : Blk
  name : String
  base : Nat
  dims : List Dim
  role : Role
  flds : List Fld
  deriving DecidableEq, Repr

/-- Registers of block PCU, part 0. -/
def regsPCU0 : List RegDesc := [
  ⟨.pcu, "PCU.PKG_ID", 0x0, [], .operator,
    [⟨31, 24, .ro, .l, .val 8⟩, ⟨23, 16, .ro, .l, .val 0x40⟩, ⟨15, 8, .ro, .l, .val 0x0⟩]⟩,
  ⟨.pcu, "PCU.BUS_ERR", 0x10, [], .operator,
    [⟨5, 5, .w1c, .l, .val 0⟩, ⟨4, 4, .w1c, .l, .val 0⟩, ⟨3, 3, .w1c, .l, .val 0⟩, ⟨2, 2, .w1c, .l, .val 0⟩, ⟨1, 1, .w1c, .l, .val 0⟩, ⟨0, 0, .w1c, .l, .val 0⟩]⟩,
  ⟨.pcu, "PCU.BUS_ERR_ADDR", 0x14, [], .operator,
    [⟨27, 0, .ro, .l, .val 0⟩]⟩,
  ⟨.pcu, "PCU.GROUP_MASK_b_g", 0x1000, [⟨5, 0x40, 0⟩, ⟨15, 0x4, 0⟩], .operator,
    [⟨23, 0, .rw, .l, .val 0⟩]⟩,
  ⟨.pcu, "PCU.IF_VERSION", 0x2000, [], .operator,
    [⟨31, 16, .ro, .l, .val 2⟩, ⟨15, 0, .ro, .l, .val 1⟩]⟩,
  ⟨.pcu, "PCU.FW_VERSION", 0x2004, [], .operator,
    [⟨31, 24, .ro, .l, .val 0⟩, ⟨23, 16, .ro, .l, .val 0⟩, ⟨15, 0, .ro, .l, .val 0⟩]⟩,
  ⟨.pcu, "PCU.BOOT_STATUS", 0x2008, [], .operator,
    [⟨31, 31, .ro, .l, .val 0⟩, ⟨30, 30, .ro, .l, .val 0⟩, ⟨29, 29, .ro, .l, .val 0⟩, ⟨23, 20, .ro, .l, .val 0xf⟩, ⟨19, 16, .ro, .l, .val 0xf⟩, ⟨15, 8, .ro, .l, .val 0⟩, ⟨7, 0, .ro, .l, .val 0⟩]⟩,
  ⟨.pcu, "PCU.CASTON", 0x200c, [], .operator,
    [⟨31, 28, .ro, .l, .val 0⟩, ⟨27, 24, .ro, .l, .val 0⟩, ⟨23, 23, .ro, .l, .val 0⟩, ⟨22, 0, .ro, .l, .val 0⟩]⟩,
  ⟨.pcu, "PCU.CASTON_CFG", 0x2010, [], .installer,
    [⟨5, 0, .rw, .l, .val 0x1e⟩]⟩,
  ⟨.pcu, "PCU.EMU_STATUS", 0x2014, [], .operator,
    [⟨31, 16, .ro, .l, .val 0⟩, ⟨15, 0, .ro, .l, .val 0⟩]⟩]

/-- Registers of block PCU, part 1. -/
def regsPCU1 : List RegDesc := [
  ⟨.pcu, "PCU.CQ_REJECT", 0x2018, [], .operator,
    [⟨31, 0, .ro, .l, .val 0⟩]⟩,
  ⟨.pcu, "PCU.ADMQ_CFG", 0x2020, [], .operator,
    [⟨31, 31, .rw, .l, .val 0⟩, ⟨30, 30, .ro, .l, .val 0⟩, ⟨3, 0, .rw, .s, .val 4⟩]⟩,
  ⟨.pcu, "PCU.ADMQ_BASE_LO", 0x2024, [], .operator,
    [⟨31, 0, .rw, .s, .val 0⟩]⟩,
  ⟨.pcu, "PCU.ADMQ_BASE_HI", 0x2028, [], .operator,
    [⟨13, 0, .rw, .s, .val 0⟩]⟩,
  ⟨.pcu, "PCU.ADMQ_STAT_LO", 0x202c, [], .operator,
    [⟨31, 0, .rw, .s, .val 0⟩]⟩,
  ⟨.pcu, "PCU.ADMQ_STAT_HI", 0x2030, [], .operator,
    [⟨13, 0, .rw, .s, .val 0⟩]⟩,
  ⟨.pcu, "PCU.ADMQ_TAIL", 0x2034, [], .operator,
    [⟨15, 0, .rw, .l, .val 0⟩]⟩,
  ⟨.pcu, "PCU.ADMQ_HEAD", 0x2038, [], .operator,
    [⟨15, 0, .ro, .l, .val 0⟩]⟩,
  ⟨.pcu, "PCU.FMQ_CFG", 0x2040, [], .operator,
    [⟨31, 31, .rw, .l, .val 0⟩, ⟨19, 16, .rw, .s, .val 8⟩, ⟨15, 0, .ro, .l, .val 0⟩]⟩,
  ⟨.pcu, "PCU.FMQ_BASE_LO", 0x2044, [], .operator,
    [⟨31, 0, .rw, .s, .val 0⟩]⟩]

/-- Registers of block PCU, part 2. -/
def regsPCU2 : List RegDesc := [
  ⟨.pcu, "PCU.FMQ_BASE_HI", 0x2048, [], .operator,
    [⟨13, 0, .rw, .s, .val 0⟩]⟩,
  ⟨.pcu, "PCU.FMQ_PRODUCED", 0x204c, [], .operator,
    [⟨15, 0, .ro, .l, .val 0⟩]⟩,
  ⟨.pcu, "PCU.FMQ_CONSUMED", 0x2050, [], .operator,
    [⟨15, 0, .rw, .l, .val 0⟩]⟩,
  ⟨.pcu, "PCU.DUMP_SEL", 0x2080, [], .installer,
    [⟨31, 29, .rw, .l, .val 0⟩, ⟨13, 0, .rw, .l, .val 0⟩]⟩,
  ⟨.pcu, "PCU.DUMP_INFO", 0x2084, [], .operator,
    [⟨31, 31, .ro, .l, .val 0⟩, ⟨23, 16, .ro, .l, .val 0⟩, ⟨15, 0, .ro, .l, .val 0⟩]⟩,
  ⟨.pcu, "PCU.DUMP_DATA", 0x2088, [], .installer,
    [⟨31, 0, .ro, .l, .val 0⟩]⟩,
  ⟨.pcu, "PCU.CQ_CFG_t_q", 0x10000, [⟨16, 0x800, 0⟩, ⟨64, 0x20, 0⟩], .operator,
    [⟨31, 31, .ro, .l, .val 0⟩, ⟨30, 30, .ro, .l, .val 0⟩, ⟨29, 29, .ro, .l, .val 0⟩, ⟨24, 22, .ro, .l, .val 0⟩, ⟨21, 20, .ro, .l, .val 0⟩, ⟨19, 16, .ro, .l, .val 0⟩, ⟨15, 0, .ro, .l, .val 0⟩]⟩,
  ⟨.pcu, "PCU.CQ_BASE_LO_t_q", 0x10004, [⟨16, 0x800, 0⟩, ⟨64, 0x20, 0⟩], .operator,
    [⟨31, 0, .ro, .l, .val 0⟩]⟩,
  ⟨.pcu, "PCU.CQ_BASE_HI_t_q", 0x10008, [⟨16, 0x800, 0⟩, ⟨64, 0x20, 0⟩], .operator,
    [⟨13, 0, .ro, .l, .val 0⟩]⟩,
  ⟨.pcu, "PCU.CQ_STAT_LO_t_q", 0x1000c, [⟨16, 0x800, 0⟩, ⟨64, 0x20, 0⟩], .operator,
    [⟨31, 0, .ro, .l, .val 0⟩]⟩]

/-- Registers of block PCU, part 3. -/
def regsPCU3 : List RegDesc := [
  ⟨.pcu, "PCU.CQ_STAT_HI_t_q", 0x10010, [⟨16, 0x800, 0⟩, ⟨64, 0x20, 0⟩], .operator,
    [⟨13, 0, .ro, .l, .val 0⟩]⟩,
  ⟨.pcu, "PCU.CQ_TAIL_t_q", 0x10014, [⟨16, 0x800, 0⟩, ⟨64, 0x20, 0⟩], .operator,
    [⟨15, 0, .rw, .l, .val 0⟩]⟩,
  ⟨.pcu, "PCU.CQ_HEAD_t_q", 0x10018, [⟨16, 0x800, 0⟩, ⟨64, 0x20, 0⟩], .operator,
    [⟨15, 0, .ro, .l, .val 0⟩]⟩,
  ⟨.pcu, "PCU.LEASE_STATUS", 0x400, [], .operator,
    [⟨31, 30, .ro, .l, .val 3⟩, ⟨29, 29, .ro, .l, .val 0⟩, ⟨28, 28, .ro, .l, .val 0⟩, ⟨15, 0, .ro, .l, .val 0⟩]⟩,
  ⟨.pcu, "PCU.LEASE_CFG", 0x404, [], .installer,
    [⟨31, 24, .rw, .l, .val 0xa⟩, ⟨3, 0, .rw, .l, .val 3⟩]⟩,
  ⟨.pcu, "PCU.DEBUG_HOLD", 0x408, [], .maker,
    [⟨31, 31, .rw, .l, .val 0⟩]⟩,
  ⟨.pcu, "PCU.LEASE_LAST", 0x40c, [], .operator,
    [⟨31, 28, .ro, .l, .val 0⟩, ⟨27, 27, .ro, .l, .val 0⟩, ⟨26, 16, .ro, .l, .val 0⟩, ⟨15, 0, .ro, .l, .val 0⟩]⟩,
  ⟨.pcu, "PCU.STALE_WR", 0x410, [], .operator,
    [⟨31, 0, .ro, .l, .val 0⟩]⟩,
  ⟨.pcu, "PCU.UNIT_c", 0x420, [⟨2, 0x4, 0⟩], .operator,
    [⟨31, 28, .ro, .l, .val 0⟩, ⟨27, 24, .ro, .l, .val 0⟩, ⟨23, 16, .ro, .l, .val 0⟩, ⟨15, 0, .ro, .l, .val 0⟩]⟩,
  ⟨.pcu, "PCU.MIRROR", 0x430, [], .operator,
    [⟨31, 16, .ro, .l, .val 0⟩, ⟨15, 0, .ro, .l, .val 0⟩]⟩]

/-- Registers of block DBG. -/
def regsDBG : List RegDesc := [
  ⟨.dbg, "DBG.MIRROR_SEL", 0xf000000, [], .installer,
    [⟨27, 0, .rw, .l, .val 0⟩]⟩,
  ⟨.dbg, "DBG.MIRROR_DATA", 0xf000004, [], .installer,
    [⟨31, 0, .ro, .l, .val 0⟩]⟩,
  ⟨.dbg, "DBG.MIRROR_STATUS", 0xf000008, [], .installer,
    [⟨3, 3, .w1c, .l, .val 0⟩, ⟨2, 2, .w1c, .l, .val 0⟩, ⟨1, 1, .w1c, .l, .val 0⟩, ⟨0, 0, .w1c, .l, .val 0⟩]⟩]

/-- Registers of block OPF. -/
def regsOPF : List RegDesc := [
  ⟨.opf, "OPF.CFG", 0x1e00000, [], .installer,
    [⟨15, 8, .rw, .l, .val 4⟩, ⟨7, 4, .rw, .l, .val 4⟩, ⟨1, 1, .rw, .l, .val 0⟩, ⟨0, 0, .rw, .l, .val 1⟩]⟩,
  ⟨.opf, "OPF.STATUS", 0x1e00004, [], .operator,
    [⟨23, 16, .ro, .l, .val 0x5c⟩, ⟨15, 8, .ro, .l, .val 0⟩, ⟨1, 1, .ro, .l, .val 0⟩, ⟨0, 0, .w1c, .l, .val 0⟩]⟩,
  ⟨.opf, "OPF.SUBST_COUNT", 0x1e00008, [], .operator,
    [⟨31, 0, .ro, .l, .val 0⟩]⟩,
  ⟨.opf, "OPF.NO_PATH_COUNT", 0x1e0000c, [], .operator,
    [⟨31, 0, .ro, .l, .val 0⟩]⟩,
  ⟨.opf, "OPF.SKEIN_SEL", 0x1e00010, [], .operator,
    [⟨9, 5, .rw, .l, .val 0⟩, ⟨4, 0, .rw, .l, .val 0⟩]⟩,
  ⟨.opf, "OPF.SKEIN_STATE", 0x1e00014, [], .operator,
    [⟨31, 24, .ro, .l, .val 0⟩, ⟨23, 16, .ro, .l, .val 0⟩, ⟨15, 8, .ro, .l, .val 0⟩, ⟨7, 0, .ro, .l, .val 0⟩]⟩]

/-- Registers of block SITE, part 0. -/
def regsSITE0 : List RegDesc := [
  ⟨.site, "SITE.PLANE_INFO", 0x1000000, [⟨24, 0x10000, 0⟩], .operator,
    [⟨31, 24, .ro, .l, .planeType⟩, ⟨23, 16, .ro, .l, .planeFixed⟩, ⟨15, 8, .ro, .l, .planeSwitched⟩, ⟨7, 0, .ro, .l, .planeSpare⟩]⟩,
  ⟨.site, "SITE.PLANE_STATE_p", 0x1000100, [⟨24, 0x10000, 0⟩, ⟨42, 0x4, 0⟩], .operator,
    [⟨25, 24, .ro, .l, .planeKind⟩, ⟨23, 22, .ro, .l, .val 0⟩, ⟨21, 20, .ro, .l, .val 0⟩, ⟨19, 14, .ro, .l, .val 0x3f⟩, ⟨13, 8, .ro, .l, .val 0x3f⟩]⟩,
  ⟨.site, "SITE.TX_FENCE_p", 0x1000200, [⟨24, 0x10000, 0⟩, ⟨42, 0x4, 0⟩], .operator,
    [⟨23, 0, .ro, .l, .val 0⟩]⟩,
  ⟨.site, "SITE.RX_FENCE_p", 0x1000300, [⟨24, 0x10000, 0⟩, ⟨42, 0x4, 0⟩], .operator,
    [⟨23, 0, .ro, .l, .val 0⟩]⟩,
  ⟨.site, "SITE.SUBST_REQ", 0x1000400, [⟨24, 0x10000, 0⟩], .installer,
    [⟨31, 31, .wo, .w, .val 0⟩, ⟨30, 30, .wo, .w, .val 0⟩, ⟨16, 16, .rw, .l, .val 0⟩, ⟨13, 8, .rw, .l, .val 0⟩, ⟨5, 0, .rw, .l, .val 0⟩]⟩,
  ⟨.site, "SITE.SUBST_RESULT", 0x1000404, [⟨24, 0x10000, 0⟩], .operator,
    [⟨31, 28, .ro, .l, .val 0⟩, ⟨15, 0, .ro, .l, .val 0⟩]⟩,
  ⟨.site, "SITE.BOND_REPAIR", 0x1000500, [⟨24, 0x10000, 0⟩], .operator,
    [⟨15, 0, .ro, .l, .val 0⟩]⟩,
  ⟨.site, "SITE.XPORT_CFG", 0x1000800, [⟨24, 0x10000, 0⟩], .installer,
    [⟨31, 16, .rw, .l, .val 0x1000⟩, ⟨15, 8, .rw, .l, .val 0x40⟩, ⟨7, 0, .rw, .l, .val 0x40⟩]⟩,
  ⟨.site, "SITE.XPORT_STATUS", 0x1000804, [⟨24, 0x10000, 0⟩], .operator,
    [⟨31, 20, .ro, .l, .val 0⟩, ⟨17, 1, .ro, .l, .val 0⟩, ⟨0, 0, .w1c, .l, .val 0⟩]⟩,
  ⟨.site, "SITE.E2E_FAIL", 0x1000808, [⟨24, 0x10000, 0⟩], .operator,
    [⟨31, 0, .ro, .l, .val 0⟩]⟩]

/-- Registers of block SITE, part 1. -/
def regsSITE1 : List RegDesc := [
  ⟨.site, "SITE.E2E_LAST", 0x100080c, [⟨24, 0x10000, 0⟩], .operator,
    [⟨31, 26, .ro, .l, .val 0⟩, ⟨25, 21, .ro, .l, .val 0⟩, ⟨20, 16, .ro, .l, .val 0⟩, ⟨15, 0, .ro, .l, .val 0⟩]⟩,
  ⟨.site, "SITE.LATE", 0x1000810, [⟨24, 0x10000, 0⟩], .operator,
    [⟨31, 0, .ro, .l, .val 0⟩]⟩,
  ⟨.site, "SITE.MSG_TABLE", 0x1000814, [⟨24, 0x10000, 0⟩], .operator,
    [⟨31, 23, .ro, .l, .val 0⟩, ⟨15, 0, .ro, .l, .val 0⟩]⟩,
  ⟨.site, "SITE.REFUSED_s", 0x1000904, [⟨24, 0x10000, 0⟩, ⟨12, 0x4, 1⟩], .operator,
    [⟨31, 0, .ro, .l, .val 0⟩]⟩,
  ⟨.site, "SITE.RQ_CFG_q", 0x1001000, [⟨24, 0x10000, 0⟩, ⟨64, 0x10, 0⟩], .operator,
    [⟨31, 31, .rw, .l, .val 0⟩, ⟨30, 30, .rw, .l, .val 0⟩, ⟨29, 26, .rw, .l, .val 0⟩, ⟨22, 15, .rw, .l, .val 0⟩, ⟨14, 11, .rw, .l, .val 0⟩]⟩,
  ⟨.site, "SITE.RQ_BASE_q", 0x1001004, [⟨24, 0x10000, 0⟩, ⟨64, 0x10, 0⟩], .operator,
    [⟨14, 0, .rw, .l, .val 0⟩]⟩,
  ⟨.site, "SITE.RQ_STATE_q", 0x1001008, [⟨24, 0x10000, 0⟩, ⟨64, 0x10, 0⟩], .operator,
    [⟨31, 16, .ro, .l, .val 0⟩, ⟨15, 0, .ro, .l, .val 0⟩]⟩,
  ⟨.site, "SITE.RQ_REFUSED_q", 0x100100c, [⟨24, 0x10000, 0⟩, ⟨64, 0x10, 0⟩], .operator,
    [⟨31, 0, .ro, .l, .val 0⟩]⟩]

/-- Registers of block LSU, part 0. -/
def regsLSU0 : List RegDesc := [
  ⟨.lsu, "LSU.CFG", 0x500000, [], .installer,
    [⟨31, 16, .rw, .l, .val 0xa⟩, ⟨11, 8, .rw, .l, .val 3⟩, ⟨1, 1, .rw, .l, .val 0⟩]⟩,
  ⟨.lsu, "LSU.STATUS", 0x500004, [], .operator,
    [⟨31, 28, .ro, .l, .val 0⟩, ⟨19, 19, .ro, .l, .val 0⟩, ⟨18, 18, .ro, .l, .val 0⟩, ⟨17, 17, .ro, .l, .val 0⟩, ⟨16, 16, .ro, .l, .val 0⟩, ⟨0, 0, .w1c, .l, .val 0⟩]⟩,
  ⟨.lsu, "LSU.COMB_c", 0x500010, [⟨2, 0x4, 0⟩], .operator,
    [⟨31, 28, .ro, .l, .val 0⟩, ⟨27, 27, .ro, .l, .val 0⟩, ⟨26, 26, .ro, .l, .val 0⟩, ⟨23, 16, .ro, .l, .val 0⟩, ⟨15, 12, .ro, .l, .val 0⟩, ⟨11, 0, .ro, .l, .val 0⟩]⟩,
  ⟨.lsu, "LSU.OFFSET", 0x500018, [], .operator,
    [⟨15, 0, .ro, .l, .val 0x8000⟩]⟩,
  ⟨.lsu, "LSU.SWITCH_COUNT", 0x50001c, [], .operator,
    [⟨31, 16, .ro, .l, .val 0⟩, ⟨15, 0, .ro, .l, .val 0⟩]⟩,
  ⟨.lsu, "LSU.LAST_ROW_LO", 0x500020, [], .operator,
    [⟨31, 0, .ro, .l, .val 0⟩]⟩,
  ⟨.lsu, "LSU.LAST_ROW_HI", 0x500024, [], .operator,
    [⟨15, 0, .ro, .l, .val 0⟩]⟩,
  ⟨.lsu, "LSU.CTRL", 0x500030, [], .installer,
    [⟨31, 31, .wo, .l, .val 0⟩, ⟨30, 30, .wo, .l, .val 0⟩, ⟨29, 29, .wo, .l, .val 0⟩, ⟨28, 28, .wo, .l, .val 0⟩]⟩,
  ⟨.lsu, "LSU.CTRL_RESULT", 0x500034, [], .operator,
    [⟨31, 28, .ro, .l, .val 0⟩, ⟨15, 0, .ro, .l, .val 0⟩]⟩,
  ⟨.lsu, "LSU.POWER", 0x500038, [], .operator,
    [⟨15, 0, .ro, .w, .val 0⟩]⟩]

/-- Registers of block LSU, part 1. -/
def regsLSU1 : List RegDesc := [
  ⟨.lsu, "LSU.LINE_PWR_n", 0x500100, [⟨40, 0x4, 0⟩], .operator,
    [⟨31, 16, .ro, .l, .val 0⟩, ⟨15, 0, .ro, .w, .val 0⟩]⟩,
  ⟨.lsu, "LSU.GAUGE", 0x500040, [], .operator,
    [⟨31, 28, .ro, .l, .val 0⟩, ⟨27, 24, .ro, .l, .val 0⟩]⟩]

/-- Registers of block TNS, part 0. -/
def regsTNS0 : List RegDesc := [
  ⟨.tns, "TNS.CFG", 0x2040000, [⟨24, 0x100000, 0⟩], .installer,
    [⟨31, 24, .rw, .l, .val 0x10⟩, ⟨23, 16, .rw, .l, .val 0x19⟩, ⟨15, 8, .rw, .w, .val 0x32⟩, ⟨7, 4, .rw, .w, .val 8⟩, ⟨3, 3, .rw, .w, .val 1⟩, ⟨0, 0, .rw, .l, .val 1⟩]⟩,
  ⟨.tns, "TNS.CFG2", 0x2040004, [⟨24, 0x100000, 0⟩], .installer,
    [⟨31, 16, .rw, .l, .val 0xa⟩, ⟨15, 8, .rw, .l, .val 8⟩, ⟨7, 0, .rw, .l, .val 0x40⟩]⟩,
  ⟨.tns, "TNS.STATUS", 0x2040008, [⟨24, 0x100000, 0⟩], .operator,
    [⟨31, 20, .ro, .l, .val 0⟩, ⟨15, 8, .ro, .l, .val 0⟩, ⟨2, 2, .ro, .l, .val 0⟩, ⟨1, 1, .ro, .l, .val 0⟩, ⟨0, 0, .w1c, .l, .val 0⟩]⟩,
  ⟨.tns, "TNS.SWATCH_NOW", 0x204000c, [⟨24, 0x100000, 0⟩], .operator,
    [⟨31, 31, .ro, .l, .val 0⟩, ⟨30, 30, .ro, .l, .val 0⟩, ⟨29, 28, .ro, .l, .val 0⟩, ⟨27, 22, .ro, .l, .val 0⟩, ⟨21, 16, .ro, .l, .val 0⟩, ⟨8, 0, .ro, .l, .val 0⟩]⟩,
  ⟨.tns, "TNS.SWATCH_REQ", 0x2040010, [⟨24, 0x100000, 0⟩], .installer,
    [⟨31, 31, .wo, .l, .val 0⟩, ⟨6, 6, .rw, .l, .val 0⟩, ⟨5, 0, .rw, .l, .val 0⟩]⟩,
  ⟨.tns, "TNS.SWATCH_COUNT", 0x2040014, [⟨24, 0x100000, 0⟩], .operator,
    [⟨31, 16, .ro, .l, .val 0⟩, ⟨15, 0, .ro, .l, .val 0⟩]⟩,
  ⟨.tns, "TNS.GAUGE_CTRL", 0x2040020, [⟨24, 0x100000, 0⟩], .installer,
    [⟨31, 31, .wo, .l, .val 0⟩, ⟨15, 0, .rw, .l, .val 0x18⟩]⟩,
  ⟨.tns, "TNS.GAUGE_RESULT", 0x2040024, [⟨24, 0x100000, 0⟩], .operator,
    [⟨31, 28, .ro, .l, .val 0⟩, ⟨15, 0, .ro, .l, .val 0⟩]⟩,
  ⟨.tns, "TNS.GROUP_TEMP_g", 0x2041000, [⟨24, 0x100000, 0⟩, ⟨42, 0x20, 0⟩], .operator,
    [⟨31, 16, .ro, .w, .val 0⟩, ⟨15, 0, .ro, .l, .val 0⟩]⟩,
  ⟨.tns, "TNS.GROUP_TRIG_g", 0x2041004, [⟨24, 0x100000, 0⟩, ⟨42, 0x20, 0⟩], .operator,
    [⟨31, 16, .ro, .l, .val 0⟩, ⟨15, 8, .ro, .l, .val 0⟩, ⟨4, 4, .ro, .l, .val 0⟩, ⟨3, 3, .ro, .l, .val 0⟩, ⟨2, 2, .ro, .l, .val 0⟩, ⟨1, 1, .ro, .l, .val 0⟩, ⟨0, 0, .ro, .l, .val 0⟩]⟩]

/-- Registers of block TNS, part 1. -/
def regsTNS1 : List RegDesc := [
  ⟨.tns, "TNS.GROUP_COUNT_g", 0x2041008, [⟨24, 0x100000, 0⟩, ⟨42, 0x20, 0⟩], .operator,
    [⟨31, 0, .ro, .l, .val 0⟩]⟩,
  ⟨.tns, "TNS.GROUP_LAST_ROW_LO_g", 0x204100c, [⟨24, 0x100000, 0⟩, ⟨42, 0x20, 0⟩], .operator,
    [⟨31, 0, .ro, .l, .val 0⟩]⟩,
  ⟨.tns, "TNS.GROUP_LAST_ROW_HI_g", 0x2041010, [⟨24, 0x100000, 0⟩, ⟨42, 0x20, 0⟩], .operator,
    [⟨15, 0, .ro, .l, .val 0⟩]⟩,
  ⟨.tns, "TNS.GROUP_LAST_SECS_g", 0x2041014, [⟨24, 0x100000, 0⟩, ⟨42, 0x20, 0⟩], .operator,
    [⟨31, 0, .ro, .l, .val 0⟩]⟩,
  ⟨.tns, "TNS.RING_STATE_p_k_d", 0x2050000, [⟨24, 0x100000, 0⟩, ⟨42, 0x300, 0⟩, ⟨2, 0x180, 0⟩, ⟨24, 0x10, 0⟩], .operator,
    [⟨31, 31, .ro, .l, .val 0⟩, ⟨30, 28, .ro, .l, .val 0⟩, ⟨15, 0, .ro, .l, .val 0⟩]⟩,
  ⟨.tns, "TNS.RING_FACTORY_p_k_d", 0x2050004, [⟨24, 0x100000, 0⟩, ⟨42, 0x300, 0⟩, ⟨2, 0x180, 0⟩, ⟨24, 0x10, 0⟩], .maker,
    [⟨31, 16, .ro, .l, .val 0x5000⟩, ⟨15, 8, .ro, .l, .val 0x50⟩, ⟨7, 0, .ro, .l, .val 0x78⟩]⟩,
  ⟨.tns, "TNS.RING_OFFSET_p_k_d", 0x2050008, [⟨24, 0x100000, 0⟩, ⟨42, 0x300, 0⟩, ⟨2, 0x180, 0⟩, ⟨24, 0x10, 0⟩], .installer,
    [⟨31, 16, .rw, .w, .val 0⟩, ⟨15, 8, .rw, .w, .val 0⟩, ⟨7, 0, .rw, .w, .val 0⟩]⟩,
  ⟨.tns, "TNS.RING_DETUNE_p_k_d", 0x205000c, [⟨24, 0x100000, 0⟩, ⟨42, 0x300, 0⟩, ⟨2, 0x180, 0⟩, ⟨24, 0x10, 0⟩], .operator,
    [⟨31, 16, .ro, .l, .val 0⟩, ⟨15, 0, .ro, .l, .val 0⟩]⟩,
  ⟨.tns, "TNS.PORT_RING_STATE_j_l_d", 0x3260000, [⟨4, 0x100000, 18⟩, ⟨4, 0x500, 0⟩, ⟨2, 0x280, 0⟩, ⟨40, 0x10, 0⟩], .operator,
    [⟨31, 31, .ro, .l, .val 0⟩, ⟨30, 28, .ro, .l, .val 0⟩, ⟨15, 0, .ro, .l, .val 0⟩]⟩,
  ⟨.tns, "TNS.PORT_RING_FACTORY_j_l_d", 0x3260004, [⟨4, 0x100000, 18⟩, ⟨4, 0x500, 0⟩, ⟨2, 0x280, 0⟩, ⟨40, 0x10, 0⟩], .maker,
    [⟨31, 16, .ro, .l, .val 0x5000⟩, ⟨15, 8, .ro, .l, .val 0x50⟩, ⟨7, 0, .ro, .l, .val 0x78⟩]⟩]

/-- Registers of block TNS, part 2. -/
def regsTNS2 : List RegDesc := [
  ⟨.tns, "TNS.PORT_RING_OFFSET_j_l_d", 0x3260008, [⟨4, 0x100000, 18⟩, ⟨4, 0x500, 0⟩, ⟨2, 0x280, 0⟩, ⟨40, 0x10, 0⟩], .installer,
    [⟨31, 16, .rw, .w, .val 0⟩, ⟨15, 8, .rw, .w, .val 0⟩, ⟨7, 0, .rw, .w, .val 0⟩]⟩,
  ⟨.tns, "TNS.PORT_RING_DETUNE_j_l_d", 0x326000c, [⟨4, 0x100000, 18⟩, ⟨4, 0x500, 0⟩, ⟨2, 0x280, 0⟩, ⟨40, 0x10, 0⟩], .operator,
    [⟨31, 16, .ro, .l, .val 0⟩, ⟨15, 0, .ro, .l, .val 0⟩]⟩]

/-- Registers of block LANE, part 0. -/
def regsLANE0 : List RegDesc := [
  ⟨.lane, "LANE.CFG", 0x2000000, [⟨24, 0x100000, 0⟩], .installer,
    [⟨31, 24, .rw, .l, .val 0x10⟩, ⟨23, 8, .rw, .l, .val 0x3d1⟩, ⟨7, 0, .rw, .l, .val 0x20⟩]⟩,
  ⟨.lane, "LANE.CFG2", 0x2000004, [⟨24, 0x100000, 0⟩], .installer,
    [⟨31, 16, .rw, .l, .val 0x400⟩, ⟨0, 0, .rw, .s, .val 0⟩]⟩,
  ⟨.lane, "LANE.STATUS", 0x2000008, [⟨24, 0x100000, 0⟩], .operator,
    [⟨31, 20, .ro, .l, .val 0⟩, ⟨19, 12, .ro, .l, .val 0⟩, ⟨0, 0, .w1c, .l, .val 0⟩]⟩,
  ⟨.lane, "LANE.PAT_SEL", 0x2000010, [⟨24, 0x100000, 0⟩], .installer,
    [⟨31, 28, .rw, .l, .val 2⟩, ⟨13, 8, .rw, .l, .val 0⟩, ⟨4, 0, .rw, .l, .val 0⟩]⟩,
  ⟨.lane, "LANE.PAT_CTRL", 0x2000014, [⟨24, 0x100000, 0⟩], .installer,
    [⟨31, 31, .wo, .l, .val 0⟩, ⟨30, 30, .wo, .l, .val 0⟩, ⟨15, 0, .rw, .l, .val 0x3e8⟩]⟩,
  ⟨.lane, "LANE.PAT_WORD", 0x2000018, [⟨24, 0x100000, 0⟩], .installer,
    [⟨31, 0, .rw, .l, .val 0⟩]⟩,
  ⟨.lane, "LANE.PAT_RESULT", 0x200001c, [⟨24, 0x100000, 0⟩], .operator,
    [⟨31, 28, .ro, .l, .val 0⟩, ⟨15, 0, .ro, .l, .val 0⟩]⟩,
  ⟨.lane, "LANE.PAT_BITS_LO", 0x2000020, [⟨24, 0x100000, 0⟩], .operator,
    [⟨31, 0, .ro, .l, .val 0⟩]⟩,
  ⟨.lane, "LANE.PAT_BITS_HI", 0x2000024, [⟨24, 0x100000, 0⟩], .operator,
    [⟨15, 0, .ro, .l, .val 0⟩]⟩,
  ⟨.lane, "LANE.PAT_ERRS", 0x2000028, [⟨24, 0x100000, 0⟩], .operator,
    [⟨31, 0, .ro, .l, .val 0⟩]⟩]

/-- Registers of block LANE, part 1. -/
def regsLANE1 : List RegDesc := [
  ⟨.lane, "LANE.INJ", 0x2000030, [⟨24, 0x100000, 0⟩], .installer,
    [⟨31, 31, .wo, .l, .val 0⟩, ⟨30, 30, .rw, .l, .val 0⟩, ⟨29, 27, .rw, .l, .val 0⟩, ⟨13, 8, .rw, .l, .val 0⟩, ⟨4, 0, .rw, .l, .val 0⟩]⟩,
  ⟨.lane, "LANE.INJ_RESULT", 0x2000034, [⟨24, 0x100000, 0⟩], .operator,
    [⟨31, 28, .ro, .l, .val 0⟩, ⟨15, 0, .ro, .l, .val 0⟩]⟩,
  ⟨.lane, "LANE.STATE_p_k", 0x2010000, [⟨24, 0x100000, 0⟩, ⟨42, 0x300, 0⟩, ⟨24, 0x20, 0⟩], .operator,
    [⟨31, 28, .ro, .l, .val 0⟩, ⟨27, 24, .ro, .l, .val 0⟩, ⟨23, 16, .ro, .l, .val 0⟩, ⟨15, 0, .ro, .l, .val 0⟩]⟩,
  ⟨.lane, "LANE.RETRY_p_k", 0x2010004, [⟨24, 0x100000, 0⟩, ⟨42, 0x300, 0⟩, ⟨24, 0x20, 0⟩], .operator,
    [⟨31, 0, .ro, .l, .val 0⟩]⟩,
  ⟨.lane, "LANE.RX_ERR_p_k", 0x2010008, [⟨24, 0x100000, 0⟩, ⟨42, 0x300, 0⟩, ⟨24, 0x20, 0⟩], .operator,
    [⟨31, 16, .ro, .l, .val 0⟩, ⟨15, 8, .ro, .l, .val 0⟩, ⟨7, 0, .ro, .l, .val 0⟩]⟩,
  ⟨.lane, "LANE.FILL_ERR_p_k", 0x201000c, [⟨24, 0x100000, 0⟩, ⟨42, 0x300, 0⟩, ⟨24, 0x20, 0⟩], .operator,
    [⟨31, 0, .ro, .l, .val 0⟩]⟩,
  ⟨.lane, "LANE.TXEQ_p_k", 0x2010010, [⟨24, 0x100000, 0⟩, ⟨42, 0x300, 0⟩, ⟨24, 0x20, 0⟩], .operator,
    [⟨31, 24, .ro, .l, .val 0⟩, ⟨23, 16, .ro, .l, .val 0x40⟩, ⟨15, 8, .ro, .l, .val 0⟩, ⟨0, 0, .ro, .l, .val 0⟩]⟩,
  ⟨.lane, "LANE.EQ_OVR_p_k", 0x2010014, [⟨24, 0x100000, 0⟩, ⟨42, 0x300, 0⟩, ⟨24, 0x20, 0⟩], .installer,
    [⟨31, 24, .rw, .l, .val 0⟩, ⟨15, 8, .rw, .l, .val 0⟩, ⟨0, 0, .rw, .l, .val 0⟩]⟩]

/-- Registers of block PART, part 0. -/
def regsPART0 : List RegDesc := [
  ⟨.part, "PART.TENANT_t", 0x700000, [⟨16, 0x10, 0⟩], .operator,
    [⟨31, 31, .ro, .l, .val 0⟩, ⟨8, 0, .rw, .w, .val 0⟩]⟩,
  ⟨.part, "PART.STATUS", 0x700100, [], .operator,
    [⟨24, 16, .ro, .w, .val 0⟩, ⟨1, 1, .w1c, .l, .val 0⟩, ⟨0, 0, .w1c, .l, .val 0⟩]⟩,
  ⟨.part, "PART.SLOTS_LO_t", 0x700200, [⟨16, 0x8, 0⟩], .operator,
    [⟨31, 0, .ro, .l, .val 0⟩]⟩,
  ⟨.part, "PART.SLOTS_HI_t", 0x700204, [⟨16, 0x8, 0⟩], .operator,
    [⟨15, 0, .ro, .l, .val 0⟩]⟩,
  ⟨.part, "PART.HBM_BASE_t", 0x701000, [⟨16, 0x8, 0⟩], .operator,
    [⟨18, 0, .ro, .w, .val 0⟩]⟩,
  ⟨.part, "PART.HBM_PAGES_t", 0x701004, [⟨16, 0x8, 0⟩], .operator,
    [⟨19, 0, .ro, .w, .val 0⟩]⟩,
  ⟨.part, "PART.FRAMES_FREE", 0x701080, [], .operator,
    [⟨31, 20, .ro, .l, .val 0⟩, ⟨19, 0, .ro, .l, .val 0⟩]⟩,
  ⟨.part, "PART.FRAMES_LOST", 0x701084, [], .operator,
    [⟨19, 0, .ro, .l, .val 0⟩]⟩,
  ⟨.part, "PART.RETIRED_Q_LO", 0x701088, [], .operator,
    [⟨31, 0, .ro, .l, .val 0⟩]⟩,
  ⟨.part, "PART.RETIRED_Q_HI", 0x70108c, [], .operator,
    [⟨31, 0, .ro, .l, .val 0⟩]⟩]

/-- Registers of block PART, part 1. -/
def regsPART1 : List RegDesc := [
  ⟨.part, "PART.SRAM_OWN_w", 0x702000, [⟨1024, 0x4, 0⟩], .operator,
    [⟨31, 31, .ro, .w, .val 0⟩, ⟨27, 24, .ro, .w, .val 0⟩, ⟨23, 23, .ro, .w, .val 0⟩, ⟨19, 16, .ro, .w, .val 0⟩, ⟨15, 15, .ro, .w, .val 0⟩, ⟨11, 8, .ro, .w, .val 0⟩, ⟨7, 7, .ro, .w, .val 0⟩, ⟨3, 0, .ro, .w, .val 0⟩]⟩,
  ⟨.part, "PART.XWIN_BASE_t_r", 0x703000, [⟨16, 0x40, 0⟩, ⟨4, 0x10, 0⟩], .operator,
    [⟨31, 31, .ro, .w, .val 0⟩, ⟨24, 0, .ro, .w, .val 0⟩]⟩,
  ⟨.part, "PART.XWIN_LIMIT_t_r", 0x703004, [⟨16, 0x40, 0⟩, ⟨4, 0x10, 0⟩], .operator,
    [⟨24, 0, .ro, .w, .val 0⟩]⟩,
  ⟨.part, "PART.FROG_CFG", 0x704000, [], .installer,
    [⟨31, 16, .rw, .l, .val 0x2000⟩, ⟨15, 0, .rw, .l, .val 0x80⟩]⟩,
  ⟨.part, "PART.FROG_WAIT", 0x704004, [], .installer,
    [⟨15, 0, .rw, .l, .val 0x400⟩]⟩,
  ⟨.part, "PART.FAULT_SEQ", 0x704008, [], .operator,
    [⟨31, 16, .ro, .l, .val 0⟩, ⟨15, 0, .ro, .l, .val 0⟩]⟩,
  ⟨.part, "PART.STATE_t", 0x704100, [⟨16, 0x40, 0⟩], .operator,
    [⟨31, 28, .ro, .l, .partState⟩, ⟨27, 27, .ro, .l, .val 0⟩, ⟨26, 14, .ro, .l, .val 0⟩, ⟨13, 7, .ro, .l, .val 0⟩, ⟨6, 0, .ro, .l, .val 0⟩]⟩,
  ⟨.part, "PART.SPID_t", 0x704104, [⟨16, 0x40, 0⟩], .operator,
    [⟨31, 0, .ro, .l, .val 0⟩]⟩,
  ⟨.part, "PART.FAULT_RING_LO_t", 0x704108, [⟨16, 0x40, 0⟩], .operator,
    [⟨31, 0, .ro, .l, .val 0⟩]⟩,
  ⟨.part, "PART.FAULT_RING_HI_t", 0x70410c, [⟨16, 0x40, 0⟩], .operator,
    [⟨31, 0, .ro, .l, .val 0⟩]⟩]

/-- Registers of block PART, part 2. -/
def regsPART2 : List RegDesc := [
  ⟨.part, "PART.FAULT_RING_CFG_t", 0x704110, [⟨16, 0x40, 0⟩], .operator,
    [⟨31, 31, .ro, .l, .val 0⟩, ⟨19, 16, .ro, .l, .val 0⟩, ⟨15, 0, .ro, .l, .val 0xffff⟩]⟩,
  ⟨.part, "PART.FAULT_PROD_t", 0x704114, [⟨16, 0x40, 0⟩], .operator,
    [⟨15, 0, .ro, .l, .val 0⟩]⟩,
  ⟨.part, "PART.FAULT_CONS_t", 0x704118, [⟨16, 0x40, 0⟩], .operator,
    [⟨15, 0, .rw, .l, .val 0⟩]⟩,
  ⟨.part, "PART.FAULT_COUNT_t", 0x70411c, [⟨16, 0x40, 0⟩], .operator,
    [⟨31, 16, .ro, .l, .val 0⟩, ⟨15, 0, .ro, .l, .val 0⟩]⟩,
  ⟨.part, "PART.FROG_t", 0x704120, [⟨16, 0x40, 0⟩], .operator,
    [⟨31, 16, .ro, .l, .val 0⟩, ⟨15, 12, .ro, .l, .val 0⟩, ⟨11, 0, .ro, .l, .val 0⟩]⟩,
  ⟨.part, "PART.FIRST_UNIT_t", 0x704124, [⟨16, 0x40, 0⟩], .operator,
    [⟨31, 0, .ro, .l, .val 0⟩]⟩,
  ⟨.part, "PART.FENCED_k", 0x704804, [⟨15, 0x4, 1⟩], .operator,
    [⟨31, 0, .ro, .l, .val 0⟩]⟩]

/-- Registers of block CIRC, part 0. -/
def regsCIRC0 : List RegDesc := [
  ⟨.circ, "CIRC.CFG", 0x5100000, [], .installer,
    [⟨31, 24, .rw, .l, .val 4⟩, ⟨23, 8, .rw, .l, .val 0x10⟩]⟩,
  ⟨.circ, "CIRC.STATUS", 0x5100004, [], .operator,
    [⟨2, 2, .w1c, .l, .val 0⟩, ⟨1, 1, .w1c, .l, .val 0⟩, ⟨0, 0, .w1c, .l, .val 0⟩]⟩,
  ⟨.circ, "CIRC.COUNTS", 0x5100008, [], .operator,
    [⟨31, 16, .ro, .l, .val 0⟩, ⟨15, 0, .ro, .l, .val 0⟩]⟩,
  ⟨.circ, "CIRC.ALLOT_e", 0x5100100, [⟨112, 0x4, 0⟩], .operator,
    [⟨31, 31, .rw, .l, .val 0⟩, ⟨3, 0, .rw, .l, .val 0⟩]⟩,
  ⟨.circ, "CIRC.ARM_t", 0x5100400, [⟨16, 0x10, 0⟩], .operator,
    [⟨31, 31, .wo, .l, .val 0⟩, ⟨30, 30, .wo, .l, .val 0⟩, ⟨29, 28, .rw, .l, .val 0⟩, ⟨21, 16, .rw, .l, .val 0⟩, ⟨15, 0, .rw, .l, .val 0⟩]⟩,
  ⟨.circ, "CIRC.ARM_SYNC_t", 0x5100404, [⟨16, 0x10, 0⟩], .operator,
    [⟨15, 0, .rw, .l, .val 0⟩]⟩,
  ⟨.circ, "CIRC.ARM_VALUE_t", 0x5100408, [⟨16, 0x10, 0⟩], .operator,
    [⟨31, 0, .rw, .l, .val 0⟩]⟩,
  ⟨.circ, "CIRC.ARM_RESULT_t", 0x510040c, [⟨16, 0x10, 0⟩], .operator,
    [⟨31, 28, .ro, .l, .val 0⟩, ⟨21, 16, .ro, .l, .val 0⟩, ⟨15, 0, .ro, .l, .val 0⟩]⟩,
  ⟨.circ, "CIRC.PLANE_e", 0x5100600, [⟨112, 0x4, 0⟩], .operator,
    [⟨31, 30, .ro, .l, .val 0⟩, ⟨29, 23, .ro, .l, .val 0⟩, ⟨22, 19, .ro, .l, .val 0⟩, ⟨18, 14, .ro, .l, .val 0⟩, ⟨13, 8, .ro, .l, .val 0⟩, ⟨7, 0, .ro, .l, .val 0⟩]⟩,
  ⟨.circ, "CIRC.PORT_ASSIGN_j", 0x5100800, [⟨16, 0x4, 0⟩], .installer,
    [⟨31, 31, .wo, .l, .val 0⟩, ⟨29, 24, .rw, .l, .val 0⟩, ⟨23, 23, .rw, .l, .val 0⟩, ⟨19, 16, .rw, .l, .val 0⟩, ⟨15, 12, .ro, .l, .val 0⟩]⟩]

/-- Registers of block CIRC, part 1. -/
def regsCIRC1 : List RegDesc := [
  ⟨.circ, "CIRC.PAT_HDR_p", 0x5101000, [⟨64, 0x4, 0⟩], .operator,
    [⟨31, 31, .rw, .l, .val 0⟩, ⟨29, 24, .rw, .l, .val 0⟩, ⟨19, 4, .rw, .l, .val 0⟩, ⟨3, 0, .rw, .l, .val 0⟩]⟩,
  ⟨.circ, "CIRC.PAT_p_e", 0x5108000, [⟨64, 0x200, 0⟩, ⟨112, 0x4, 0⟩], .operator,
    [⟨31, 31, .rw, .l, .val 0⟩, ⟨30, 24, .rw, .l, .val 0⟩, ⟨23, 20, .rw, .l, .val 0⟩]⟩]

/-- Registers of block EDGE, part 0. -/
def regsEDGE0 : List RegDesc := [
  ⟨.edge, "EDGE.CFG", 0x4000000, [⟨16, 0x40000, 0⟩], .installer,
    [⟨31, 24, .rw, .l, .val 0x10⟩, ⟨23, 8, .rw, .l, .val 0x3d1⟩, ⟨7, 0, .rw, .l, .val 0x12⟩]⟩,
  ⟨.edge, "EDGE.CFG2", 0x4000004, [⟨16, 0x40000, 0⟩], .installer,
    [⟨31, 22, .rw, .l, .val 0x120⟩, ⟨21, 16, .rw, .l, .val 8⟩, ⟨15, 8, .rw, .l, .val 0x10⟩, ⟨0, 0, .rw, .l, .val 1⟩]⟩,
  ⟨.edge, "EDGE.STATUS", 0x4000008, [⟨16, 0x40000, 0⟩], .operator,
    [⟨31, 28, .ro, .l, .val 0⟩, ⟨27, 24, .ro, .l, .val 0⟩, ⟨23, 16, .ro, .l, .val 0⟩, ⟨15, 14, .ro, .l, .val 0⟩, ⟨13, 12, .ro, .l, .val 0⟩, ⟨0, 0, .w1c, .l, .val 0⟩]⟩,
  ⟨.edge, "EDGE.PARTNER", 0x400000c, [⟨16, 0x40000, 0⟩], .operator,
    [⟨31, 20, .ro, .l, .val 0⟩, ⟨19, 15, .ro, .l, .val 0⟩, ⟨14, 11, .ro, .l, .val 0⟩, ⟨0, 0, .ro, .l, .val 0⟩]⟩,
  ⟨.edge, "EDGE.LIGHT", 0x4000010, [⟨16, 0x40000, 0⟩], .operator,
    [⟨31, 16, .ro, .l, .val 0⟩, ⟨15, 0, .ro, .l, .val 0⟩]⟩,
  ⟨.edge, "EDGE.COUNTS", 0x4000014, [⟨16, 0x40000, 0⟩], .operator,
    [⟨31, 16, .ro, .l, .val 0⟩, ⟨15, 0, .ro, .l, .val 0⟩]⟩,
  ⟨.edge, "EDGE.CTRL", 0x4000018, [⟨16, 0x40000, 0⟩], .installer,
    [⟨31, 31, .wo, .l, .val 0⟩, ⟨30, 30, .wo, .l, .val 0⟩]⟩,
  ⟨.edge, "EDGE.SPARE_TX", 0x4000020, [⟨16, 0x40000, 0⟩], .operator,
    [⟨29, 0, .ro, .l, .val 0x3f0fc3f⟩]⟩,
  ⟨.edge, "EDGE.SPARE_RX", 0x4000024, [⟨16, 0x40000, 0⟩], .operator,
    [⟨29, 0, .ro, .l, .val 0x3f0fc3f⟩]⟩,
  ⟨.edge, "EDGE.LANE_STATE_l", 0x4001000, [⟨16, 0x40000, 0⟩, ⟨40, 0x20, 0⟩], .operator,
    [⟨31, 28, .ro, .l, .val 0⟩, ⟨27, 24, .ro, .l, .val 0⟩, ⟨23, 20, .ro, .l, .val 0⟩, ⟨19, 14, .ro, .l, .laneOn⟩, ⟨13, 8, .ro, .l, .laneOn⟩, ⟨7, 0, .ro, .l, .val 0⟩]⟩]

/-- Registers of block EDGE, part 1. -/
def regsEDGE1 : List RegDesc := [
  ⟨.edge, "EDGE.LANE_RETRY_l", 0x4001004, [⟨16, 0x40000, 0⟩, ⟨40, 0x20, 0⟩], .operator,
    [⟨31, 0, .ro, .l, .val 0⟩]⟩,
  ⟨.edge, "EDGE.LANE_RX_ERR_l", 0x4001008, [⟨16, 0x40000, 0⟩, ⟨40, 0x20, 0⟩], .operator,
    [⟨31, 16, .ro, .l, .val 0⟩, ⟨15, 8, .ro, .l, .val 0⟩, ⟨7, 0, .ro, .l, .val 0⟩]⟩,
  ⟨.edge, "EDGE.LANE_FEC_CORR_l", 0x400100c, [⟨16, 0x40000, 0⟩, ⟨40, 0x20, 0⟩], .operator,
    [⟨31, 0, .ro, .l, .val 0⟩]⟩,
  ⟨.edge, "EDGE.LANE_FEC_UNCORR_l", 0x4001010, [⟨16, 0x40000, 0⟩, ⟨40, 0x20, 0⟩], .operator,
    [⟨31, 0, .ro, .l, .val 0⟩]⟩,
  ⟨.edge, "EDGE.LANE_COH_l", 0x4001014, [⟨16, 0x40000, 0⟩, ⟨40, 0x20, 0⟩], .operator,
    [⟨31, 31, .ro, .l, .val 0⟩, ⟨30, 30, .ro, .l, .val 0⟩, ⟨29, 29, .ro, .l, .val 0⟩, ⟨28, 28, .ro, .l, .val 0⟩, ⟨27, 27, .ro, .l, .val 0⟩, ⟨26, 26, .ro, .l, .val 0⟩, ⟨25, 24, .ro, .l, .val 0⟩, ⟨15, 0, .ro, .l, .val 0⟩]⟩,
  ⟨.edge, "EDGE.LANE_TXEQ_l", 0x4001018, [⟨16, 0x40000, 0⟩, ⟨40, 0x20, 0⟩], .operator,
    [⟨31, 24, .ro, .l, .val 0⟩, ⟨23, 16, .ro, .l, .val 0x40⟩, ⟨15, 8, .ro, .l, .val 0⟩]⟩,
  ⟨.edge, "EDGE.LANE_RXPWR_l", 0x400101c, [⟨16, 0x40000, 0⟩, ⟨40, 0x20, 0⟩], .operator,
    [⟨31, 16, .ro, .l, .val 0⟩, ⟨15, 0, .ro, .l, .val 0⟩]⟩,
  ⟨.edge, "EDGE.PAT_SEL", 0x4000040, [⟨16, 0x40000, 0⟩], .installer,
    [⟨31, 28, .rw, .l, .val 2⟩, ⟨5, 0, .rw, .l, .val 0⟩]⟩,
  ⟨.edge, "EDGE.PAT_CTRL", 0x4000044, [⟨16, 0x40000, 0⟩], .installer,
    [⟨31, 31, .wo, .l, .val 0⟩, ⟨30, 30, .wo, .l, .val 0⟩, ⟨15, 0, .rw, .l, .val 0x3e8⟩]⟩,
  ⟨.edge, "EDGE.PAT_WORD", 0x4000048, [⟨16, 0x40000, 0⟩], .installer,
    [⟨31, 0, .rw, .l, .val 0⟩]⟩]

/-- Registers of block EDGE, part 2. -/
def regsEDGE2 : List RegDesc := [
  ⟨.edge, "EDGE.PAT_RESULT", 0x400004c, [⟨16, 0x40000, 0⟩], .operator,
    [⟨31, 28, .ro, .l, .val 0⟩, ⟨15, 0, .ro, .l, .val 0⟩]⟩,
  ⟨.edge, "EDGE.PAT_BITS_LO", 0x4000050, [⟨16, 0x40000, 0⟩], .operator,
    [⟨31, 0, .ro, .l, .val 0⟩]⟩,
  ⟨.edge, "EDGE.PAT_BITS_HI", 0x4000054, [⟨16, 0x40000, 0⟩], .operator,
    [⟨15, 0, .ro, .l, .val 0⟩]⟩,
  ⟨.edge, "EDGE.PAT_ERRS", 0x4000058, [⟨16, 0x40000, 0⟩], .operator,
    [⟨31, 0, .ro, .l, .val 0⟩]⟩,
  ⟨.edge, "EDGE.INJ", 0x400005c, [⟨16, 0x40000, 0⟩], .installer,
    [⟨31, 31, .wo, .l, .val 0⟩, ⟨30, 30, .rw, .l, .val 0⟩, ⟨29, 27, .rw, .l, .val 0⟩, ⟨5, 0, .rw, .l, .val 0⟩]⟩,
  ⟨.edge, "EDGE.INJ_RESULT", 0x4000060, [⟨16, 0x40000, 0⟩], .operator,
    [⟨31, 28, .ro, .l, .val 0⟩, ⟨15, 0, .ro, .l, .val 0⟩]⟩]

/-- Registers of block ROUTE, part 0. -/
def regsROUTE0 : List RegDesc := [
  ⟨.route, "ROUTE.NODE", 0x4800000, [], .installer,
    [⟨11, 0, .rw, .s, .val 0⟩]⟩,
  ⟨.route, "ROUTE.DIMS", 0x4800004, [], .installer,
    [⟨14, 10, .rw, .s, .val 1⟩, ⟨9, 5, .rw, .s, .val 1⟩, ⟨4, 0, .rw, .s, .val 1⟩]⟩,
  ⟨.route, "ROUTE.CFG", 0x4800008, [], .installer,
    [⟨31, 24, .rw, .w, .val 2⟩, ⟨23, 16, .rw, .l, .val 0x40⟩, ⟨15, 0, .rw, .l, .val 0x800⟩]⟩,
  ⟨.route, "ROUTE.STATUS", 0x480000c, [], .operator,
    [⟨31, 24, .ro, .l, .val 3⟩, ⟨23, 16, .ro, .l, .val 2⟩, ⟨2, 2, .ro, .l, .val 0⟩, ⟨1, 1, .ro, .l, .val 1⟩, ⟨0, 0, .w1c, .l, .val 0⟩]⟩,
  ⟨.route, "ROUTE.FM", 0x4800010, [], .installer,
    [⟨31, 31, .rw, .l, .val 0⟩, ⟨11, 0, .rw, .l, .val 0⟩]⟩,
  ⟨.route, "ROUTE.FAULTS", 0x4800014, [], .operator,
    [⟨31, 16, .ro, .l, .val 0⟩, ⟨15, 0, .ro, .l, .val 0⟩]⟩,
  ⟨.route, "ROUTE.ESCAPES", 0x4800018, [], .operator,
    [⟨31, 0, .ro, .l, .val 0⟩]⟩,
  ⟨.route, "ROUTE.DETOUR", 0x480001c, [], .operator,
    [⟨31, 16, .ro, .l, .val 0⟩, ⟨15, 0, .ro, .l, .val 0⟩]⟩,
  ⟨.route, "ROUTE.PORT_MAP_j", 0x4800040, [⟨16, 0x4, 0⟩], .installer,
    [⟨2, 0, .rw, .s, .portRole⟩]⟩,
  ⟨.route, "ROUTE.PORT_INFO_j", 0x4800100, [⟨16, 0x10, 0⟩], .operator,
    [⟨31, 24, .ro, .l, .val 0⟩, ⟨23, 14, .ro, .l, .val 0⟩]⟩]

/-- Registers of block ROUTE, part 1. -/
def regsROUTE1 : List RegDesc := [
  ⟨.route, "ROUTE.PORT_DEPTH_j", 0x4800104, [⟨16, 0x10, 0⟩], .operator,
    [⟨31, 16, .ro, .l, .val 0⟩, ⟨15, 0, .ro, .l, .val 0⟩]⟩,
  ⟨.route, "ROUTE.PORT_CREDIT_j", 0x4800108, [⟨16, 0x10, 0⟩], .operator,
    [⟨31, 16, .ro, .l, .val 0⟩, ⟨15, 0, .ro, .l, .val 0⟩]⟩,
  ⟨.route, "ROUTE.NO_RES_k", 0x4800200, [⟨8, 0x4, 0⟩], .operator,
    [⟨31, 0, .ro, .l, .val 0⟩]⟩,
  ⟨.route, "ROUTE.NODE_STATE_n", 0x4810000, [⟨4096, 0x4, 0⟩], .installer,
    [⟨31, 30, .rw, .l, .nodeSelf⟩, ⟨29, 29, .rw, .w, .val 0⟩, ⟨28, 28, .ro, .l, .val 0⟩, ⟨15, 0, .rw, .w, .val 0⟩]⟩]

/-- Registers of block RED, part 0. -/
def regsRED0 : List RegDesc := [
  ⟨.red, "RED.CFG", 0x5000000, [], .installer,
    [⟨31, 24, .rw, .l, .val 0x40⟩, ⟨23, 8, .rw, .l, .val 0x400⟩, ⟨0, 0, .rw, .l, .val 1⟩]⟩,
  ⟨.red, "RED.STATUS", 0x5000004, [], .operator,
    [⟨31, 21, .ro, .l, .val 0⟩, ⟨20, 8, .ro, .l, .val 0⟩, ⟨0, 0, .w1c, .l, .val 0⟩]⟩,
  ⟨.red, "RED.MC_HOME", 0x5000008, [], .installer,
    [⟨31, 31, .rw, .l, .val 0⟩, ⟨11, 0, .rw, .l, .val 0⟩]⟩,
  ⟨.red, "RED.COUNTS", 0x500000c, [], .operator,
    [⟨31, 16, .ro, .l, .val 0⟩, ⟨15, 0, .ro, .l, .val 0⟩]⟩,
  ⟨.red, "RED.MC_DROP", 0x5000010, [], .operator,
    [⟨31, 0, .ro, .l, .val 0⟩]⟩,
  ⟨.red, "RED.DET_COUNTS", 0x5000014, [], .operator,
    [⟨31, 16, .ro, .l, .val 0⟩, ⟨15, 0, .ro, .l, .val 0⟩]⟩,
  ⟨.red, "RED.UNIT_u", 0x5000100, [⟨12, 0x4, 0⟩], .operator,
    [⟨31, 16, .ro, .l, .val 0⟩, ⟨15, 0, .ro, .l, .val 0⟩]⟩,
  ⟨.red, "RED.CTX_A_c", 0x5001000, [⟨1024, 0x10, 0⟩], .operator,
    [⟨31, 31, .ro, .l, .val 0⟩, ⟨30, 30, .ro, .l, .val 0⟩, ⟨29, 26, .ro, .l, .val 0⟩, ⟨25, 22, .ro, .l, .val 0⟩, ⟨21, 18, .ro, .l, .val 0⟩, ⟨15, 15, .ro, .l, .val 0⟩, ⟨14, 13, .ro, .l, .val 0⟩]⟩,
  ⟨.red, "RED.CTX_B_c", 0x5001004, [⟨1024, 0x10, 0⟩], .operator,
    [⟨31, 22, .ro, .l, .val 0⟩, ⟨21, 12, .ro, .l, .val 0⟩, ⟨9, 0, .ro, .l, .val 0⟩]⟩,
  ⟨.red, "RED.CTX_C_c", 0x5001008, [⟨1024, 0x10, 0⟩], .operator,
    [⟨31, 16, .ro, .l, .val 0⟩, ⟨15, 0, .ro, .l, .val 0⟩]⟩]

/-- Registers of block RED, part 1. -/
def regsRED1 : List RegDesc := [
  ⟨.red, "RED.CTX_D_c", 0x500100c, [⟨1024, 0x10, 0⟩], .operator,
    [⟨31, 16, .ro, .l, .val 0⟩, ⟨15, 0, .ro, .l, .val 0⟩]⟩,
  ⟨.red, "RED.MC_OWN_w", 0x5006000, [⟨1024, 0x4, 0⟩], .operator,
    [⟨31, 31, .ro, .l, .val 0⟩, ⟨27, 24, .ro, .l, .val 0⟩, ⟨23, 23, .ro, .l, .val 0⟩, ⟨19, 16, .ro, .l, .val 0⟩, ⟨15, 15, .ro, .l, .val 0⟩, ⟨11, 8, .ro, .l, .val 0⟩, ⟨7, 7, .ro, .l, .val 0⟩, ⟨3, 0, .ro, .l, .val 0⟩]⟩,
  ⟨.red, "RED.MC_A_g", 0x5008000, [⟨4096, 0x8, 0⟩], .operator,
    [⟨31, 31, .ro, .l, .val 0⟩, ⟨30, 30, .ro, .l, .val 0⟩, ⟨29, 29, .ro, .l, .val 0⟩, ⟨28, 24, .ro, .l, .val 0x1f⟩, ⟨23, 20, .ro, .l, .val 0⟩, ⟨15, 0, .ro, .l, .val 0⟩]⟩,
  ⟨.red, "RED.MC_B_g", 0x5008004, [⟨4096, 0x8, 0⟩], .operator,
    [⟨31, 20, .ro, .l, .val 0⟩, ⟨19, 15, .ro, .l, .val 0⟩, ⟨12, 0, .ro, .l, .val 0⟩]⟩]

/-- Registers of block SYN, part 0. -/
def regsSYN0 : List RegDesc := [
  ⟨.syn, "SYN.CFG", 0x800000, [], .installer,
    [⟨31, 16, .rw, .l, .val 0x800⟩, ⟨15, 8, .rw, .l, .val 0x10⟩, ⟨0, 0, .rw, .l, .val 0⟩]⟩,
  ⟨.syn, "SYN.STATUS", 0x800004, [], .operator,
    [⟨31, 16, .ro, .l, .val 0⟩, ⟨15, 2, .ro, .l, .val 0⟩, ⟨0, 0, .w1c, .l, .val 0⟩]⟩,
  ⟨.syn, "SYN.ALLOC", 0x800008, [], .operator,
    [⟨16, 0, .ro, .l, .val 0⟩]⟩,
  ⟨.syn, "SYN.COUNTS", 0x80000c, [], .operator,
    [⟨31, 16, .ro, .l, .val 0⟩, ⟨15, 0, .ro, .l, .val 0⟩]⟩,
  ⟨.syn, "SYN.OBJ_SEL", 0x800010, [], .operator,
    [⟨15, 0, .rw, .l, .val 0⟩]⟩,
  ⟨.syn, "SYN.OBJ_W0_LO", 0x800014, [], .operator,
    [⟨31, 0, .ro, .l, .val 0⟩]⟩,
  ⟨.syn, "SYN.OBJ_W0_HI", 0x800018, [], .operator,
    [⟨31, 0, .ro, .l, .val 0⟩]⟩,
  ⟨.syn, "SYN.OBJ_W1_LO", 0x80001c, [], .operator,
    [⟨31, 0, .ro, .l, .val 0⟩]⟩,
  ⟨.syn, "SYN.OBJ_W1_HI", 0x800020, [], .operator,
    [⟨31, 0, .ro, .l, .val 0⟩]⟩,
  ⟨.syn, "SYN.NET_STATUS", 0x800030, [], .operator,
    [⟨31, 24, .ro, .l, .val 0⟩, ⟨23, 16, .ro, .l, .val 0⟩, ⟨15, 0, .ro, .l, .val 0⟩]⟩]

/-- Registers of block SYN, part 1. -/
def regsSYN1 : List RegDesc := [
  ⟨.syn, "SYN.NET_UNCORR", 0x800034, [], .operator,
    [⟨31, 0, .ro, .l, .val 0⟩]⟩]

/-- Registers of block TIME, part 0. -/
def regsTIME0 : List RegDesc := [
  ⟨.time, "TIME.CFG", 0x600000, [], .installer,
    [⟨31, 24, .rw, .l, .val 0x80⟩, ⟨23, 16, .rw, .l, .val 0x10⟩, ⟨15, 8, .rw, .l, .val 0x3c⟩, ⟨0, 0, .rw, .l, .val 1⟩]⟩,
  ⟨.time, "TIME.STATUS", 0x600004, [], .operator,
    [⟨31, 28, .ro, .l, .val 0⟩, ⟨27, 23, .ro, .l, .val 0x1f⟩, ⟨22, 16, .ro, .l, .val 0x7f⟩, ⟨2, 2, .ro, .l, .val 0⟩, ⟨1, 1, .ro, .l, .val 0⟩, ⟨0, 0, .w1c, .l, .val 0⟩]⟩,
  ⟨.time, "TIME.NOW_LO", 0x600008, [], .operator,
    [⟨31, 0, .ro, .l, .val 0⟩]⟩,
  ⟨.time, "TIME.NOW_HI", 0x60000c, [], .operator,
    [⟨31, 0, .ro, .l, .val 0⟩]⟩,
  ⟨.time, "TIME.ROW_LO", 0x600010, [], .operator,
    [⟨31, 0, .ro, .l, .val 0⟩]⟩,
  ⟨.time, "TIME.ROW_HI", 0x600014, [], .operator,
    [⟨31, 0, .ro, .l, .val 0⟩]⟩,
  ⟨.time, "TIME.OFFSET", 0x600018, [], .operator,
    [⟨31, 0, .ro, .l, .val 0⟩]⟩,
  ⟨.time, "TIME.FREQ", 0x60001c, [], .operator,
    [⟨31, 0, .ro, .l, .val 0⟩]⟩,
  ⟨.time, "TIME.SOURCE", 0x600020, [], .operator,
    [⟨31, 20, .ro, .l, .val 0⟩, ⟨19, 12, .ro, .l, .val 0xff⟩]⟩,
  ⟨.time, "TIME.MISMATCH", 0x600024, [], .operator,
    [⟨31, 0, .ro, .l, .val 0⟩]⟩]

/-- Registers of block TIME, part 1. -/
def regsTIME1 : List RegDesc := [
  ⟨.time, "TIME.ASYM_j", 0x600100, [⟨16, 0x8, 0⟩], .installer,
    [⟨15, 0, .rw, .l, .val 0⟩]⟩,
  ⟨.time, "TIME.LINK_DELAY_j", 0x600104, [⟨16, 0x8, 0⟩], .operator,
    [⟨31, 0, .ro, .l, .val 0⟩]⟩]

/-- Registers of block CMP, part 0. -/
def regsCMP0 : List RegDesc := [
  ⟨.cmp, "CMP.DIE_STATUS", 0x6000000, [⟨8, 0x800000, 0⟩], .operator,
    [⟨31, 24, .ro, .l, .val 0⟩, ⟨23, 16, .ro, .l, .val 0⟩, ⟨15, 8, .ro, .l, .val 0⟩, ⟨0, 0, .w1c, .l, .val 0⟩]⟩,
  ⟨.cmp, "CMP.QP_STATUS_n", 0x6000100, [⟨8, 0x800000, 0⟩, ⟨4, 0x10, 0⟩], .operator,
    [⟨31, 28, .ro, .l, .val 0⟩, ⟨27, 22, .ro, .l, .val 0⟩, ⟨21, 18, .ro, .l, .val 0⟩]⟩,
  ⟨.cmp, "CMP.QP_COUNT_n", 0x6000104, [⟨8, 0x800000, 0⟩, ⟨4, 0x10, 0⟩], .operator,
    [⟨31, 0, .ro, .l, .val 0⟩]⟩,
  ⟨.cmp, "CMP.CL_STATUS_c", 0x6010000, [⟨8, 0x800000, 0⟩, ⟨8, 0x100, 0⟩], .operator,
    [⟨16, 0, .ro, .l, .val 0⟩]⟩,
  ⟨.cmp, "CMP.CL_SRAM_c", 0x6010004, [⟨8, 0x800000, 0⟩, ⟨8, 0x100, 0⟩], .operator,
    [⟨31, 16, .ro, .l, .val 0⟩, ⟨15, 0, .ro, .l, .val 0⟩]⟩,
  ⟨.cmp, "CMP.CORE_STATE_k", 0x6020000, [⟨8, 0x800000, 0⟩, ⟨136, 0x400, 0⟩], .operator,
    [⟨31, 29, .ro, .l, .val 0⟩, ⟨28, 24, .ro, .l, .val 0x1f⟩, ⟨23, 20, .ro, .l, .val 0⟩, ⟨19, 19, .ro, .l, .val 0⟩, ⟨18, 12, .ro, .l, .val 0⟩, ⟨11, 0, .ro, .l, .val 0⟩]⟩,
  ⟨.cmp, "CMP.CORE_CTRL_k", 0x6020004, [⟨8, 0x800000, 0⟩, ⟨136, 0x400, 0⟩], .installer,
    [⟨31, 31, .wo, .l, .val 0⟩, ⟨30, 30, .wo, .l, .val 0⟩, ⟨29, 29, .wo, .l, .val 0⟩, ⟨0, 0, .rw, .l, .val 0⟩]⟩,
  ⟨.cmp, "CMP.CORE_ERR_k", 0x6020008, [⟨8, 0x800000, 0⟩, ⟨136, 0x400, 0⟩], .operator,
    [⟨31, 28, .ro, .l, .val 0⟩, ⟨27, 17, .ro, .l, .val 0⟩, ⟨16, 0, .ro, .l, .val 0⟩]⟩,
  ⟨.cmp, "CMP.CORE_ERR_PC_k", 0x602000c, [⟨8, 0x800000, 0⟩, ⟨136, 0x400, 0⟩], .operator,
    [⟨31, 0, .ro, .l, .val 0⟩]⟩,
  ⟨.cmp, "CMP.CORE_ERR_ADDR_k", 0x6020010, [⟨8, 0x800000, 0⟩, ⟨136, 0x400, 0⟩], .operator,
    [⟨31, 0, .ro, .l, .val 0⟩]⟩]

/-- Registers of block CMP, part 1. -/
def regsCMP1 : List RegDesc := [
  ⟨.cmp, "CMP.CORE_EQ_k_q", 0x6020020, [⟨8, 0x800000, 0⟩, ⟨136, 0x400, 0⟩, ⟨8, 0x4, 0⟩], .operator,
    [⟨31, 16, .ro, .l, .val 0⟩, ⟨15, 9, .ro, .l, .val 0⟩, ⟨8, 8, .ro, .l, .val 0⟩, ⟨7, 0, .ro, .l, .val 0⟩]⟩,
  ⟨.cmp, "CMP.CORE_COUNTS_k", 0x6020040, [⟨8, 0x800000, 0⟩, ⟨136, 0x400, 0⟩], .operator,
    [⟨31, 16, .ro, .l, .val 0⟩, ⟨15, 0, .ro, .l, .val 0⟩]⟩,
  ⟨.cmp, "CMP.MXE_STATE_k", 0x6101000, [⟨8, 0x800000, 0⟩, ⟨136, 0x20, 0⟩], .operator,
    [⟨31, 31, .ro, .l, .val 0⟩, ⟨30, 30, .ro, .l, .val 0⟩, ⟨29, 29, .ro, .l, .val 0⟩, ⟨28, 25, .ro, .l, .val 0⟩, ⟨23, 16, .ro, .l, .val 0⟩, ⟨15, 0, .ro, .l, .val 0⟩]⟩,
  ⟨.cmp, "CMP.MXE_FLAGS_k", 0x6101004, [⟨8, 0x800000, 0⟩, ⟨136, 0x20, 0⟩], .operator,
    [⟨5, 5, .w1c, .l, .val 0⟩, ⟨4, 4, .w1c, .l, .val 0⟩, ⟨3, 3, .w1c, .l, .val 0⟩, ⟨2, 2, .w1c, .l, .val 0⟩, ⟨1, 1, .w1c, .l, .val 0⟩, ⟨0, 0, .w1c, .l, .val 0⟩]⟩,
  ⟨.cmp, "CMP.MXE_SEED_k", 0x6101008, [⟨8, 0x800000, 0⟩, ⟨136, 0x20, 0⟩], .operator,
    [⟨31, 0, .rw, .l, .val 1⟩]⟩,
  ⟨.cmp, "CMP.MXE_LFSR_k", 0x610100c, [⟨8, 0x800000, 0⟩, ⟨136, 0x20, 0⟩], .operator,
    [⟨31, 0, .ro, .l, .val 1⟩]⟩,
  ⟨.cmp, "CMP.MXE_ACTIVE_LO_k", 0x6101010, [⟨8, 0x800000, 0⟩, ⟨136, 0x20, 0⟩], .operator,
    [⟨31, 0, .ro, .l, .val 0⟩]⟩,
  ⟨.cmp, "CMP.MXE_ACTIVE_HI_k", 0x6101014, [⟨8, 0x800000, 0⟩, ⟨136, 0x20, 0⟩], .operator,
    [⟨15, 0, .ro, .l, .val 0⟩]⟩,
  ⟨.cmp, "CMP.MXE_PAUSED_LO_k", 0x6101018, [⟨8, 0x800000, 0⟩, ⟨136, 0x20, 0⟩], .operator,
    [⟨31, 0, .ro, .l, .val 0⟩]⟩,
  ⟨.cmp, "CMP.MXE_PAUSED_HI_k", 0x610101c, [⟨8, 0x800000, 0⟩, ⟨136, 0x20, 0⟩], .operator,
    [⟨15, 0, .ro, .l, .val 0⟩]⟩]

/-- Registers of block CMP, part 2. -/
def regsCMP2 : List RegDesc := [
  ⟨.cmp, "CMP.SKIP_LO_k", 0x6120000, [⟨8, 0x800000, 0⟩, ⟨136, 0x20, 0⟩], .operator,
    [⟨31, 0, .ro, .l, .val 0⟩]⟩,
  ⟨.cmp, "CMP.SKIP_HI_k", 0x6120004, [⟨8, 0x800000, 0⟩, ⟨136, 0x20, 0⟩], .operator,
    [⟨15, 0, .ro, .l, .val 0⟩]⟩,
  ⟨.cmp, "CMP.SPE_ERRS_k", 0x6120008, [⟨8, 0x800000, 0⟩, ⟨136, 0x20, 0⟩], .operator,
    [⟨31, 16, .ro, .l, .val 0⟩, ⟨15, 0, .ro, .l, .val 0⟩]⟩,
  ⟨.cmp, "CMP.TKE_SLOTS_k", 0x612000c, [⟨8, 0x800000, 0⟩, ⟨136, 0x20, 0⟩], .operator,
    [⟨31, 0, .ro, .l, .val 0⟩]⟩,
  ⟨.cmp, "CMP.TKE_DROPPED_k", 0x6120010, [⟨8, 0x800000, 0⟩, ⟨136, 0x20, 0⟩], .operator,
    [⟨31, 0, .ro, .l, .val 0⟩]⟩,
  ⟨.cmp, "CMP.TKE_REROUTED_k", 0x6120014, [⟨8, 0x800000, 0⟩, ⟨136, 0x20, 0⟩], .operator,
    [⟨31, 0, .ro, .l, .val 0⟩]⟩,
  ⟨.cmp, "CMP.TKE_NAN_k", 0x6120018, [⟨8, 0x800000, 0⟩, ⟨136, 0x20, 0⟩], .operator,
    [⟨31, 0, .ro, .l, .val 0⟩]⟩,
  ⟨.cmp, "CMP.DIGEST_STATUS", 0x6000200, [⟨8, 0x800000, 0⟩], .operator,
    [⟨31, 28, .ro, .l, .val 0⟩, ⟨27, 24, .ro, .l, .val 0⟩, ⟨23, 20, .ro, .l, .val 0⟩, ⟨7, 0, .ro, .l, .val 0⟩]⟩,
  ⟨.cmp, "CMP.DIGEST_LO", 0x6000204, [⟨8, 0x800000, 0⟩], .operator,
    [⟨31, 0, .ro, .l, .val 0⟩]⟩,
  ⟨.cmp, "CMP.DIGEST_HI", 0x6000208, [⟨8, 0x800000, 0⟩], .operator,
    [⟨31, 0, .ro, .l, .val 0⟩]⟩]

/-- Registers of block MEM, part 0. -/
def regsMEM0 : List RegDesc := [
  ⟨.mem, "MEM.INFO", 0xa000000, [⟨8, 0x100000, 0⟩], .operator,
    [⟨31, 24, .ro, .l, .val 0x40⟩, ⟨23, 16, .ro, .l, .val 0x10⟩, ⟨15, 8, .ro, .l, .val 0x50⟩]⟩,
  ⟨.mem, "MEM.STATUS", 0xa000004, [⟨8, 0x100000, 0⟩], .operator,
    [⟨31, 28, .ro, .l, .val 0⟩, ⟨27, 20, .ro, .l, .val 0⟩, ⟨19, 12, .ro, .l, .val 0⟩, ⟨1, 1, .ro, .l, .val 0⟩, ⟨0, 0, .w1c, .l, .val 0⟩]⟩,
  ⟨.mem, "MEM.SCRUB_CFG", 0xa000008, [⟨8, 0x100000, 0⟩], .installer,
    [⟨31, 16, .rw, .l, .val 0x18⟩, ⟨0, 0, .rw, .l, .val 1⟩]⟩,
  ⟨.mem, "MEM.ECC_CORR_s", 0xa000010, [⟨8, 0x100000, 0⟩, ⟨2, 0x4, 0⟩], .operator,
    [⟨31, 0, .ro, .l, .val 0⟩]⟩,
  ⟨.mem, "MEM.ECC_UNCORR", 0xa000018, [⟨8, 0x100000, 0⟩], .operator,
    [⟨31, 16, .ro, .l, .val 0⟩, ⟨15, 0, .ro, .l, .val 0⟩]⟩,
  ⟨.mem, "MEM.ECC_LAST_LO", 0xa000020, [⟨8, 0x100000, 0⟩], .operator,
    [⟨31, 0, .ro, .l, .val 0⟩]⟩,
  ⟨.mem, "MEM.ECC_LAST_HI", 0xa000024, [⟨8, 0x100000, 0⟩], .operator,
    [⟨31, 30, .ro, .l, .val 0⟩, ⟨29, 29, .ro, .l, .val 0⟩, ⟨28, 23, .ro, .l, .val 0⟩, ⟨7, 0, .ro, .l, .val 0⟩]⟩,
  ⟨.mem, "MEM.PC_RETIRED_LO_s", 0xa000030, [⟨8, 0x100000, 0⟩, ⟨2, 0x8, 0⟩], .operator,
    [⟨31, 0, .ro, .l, .val 0⟩]⟩,
  ⟨.mem, "MEM.PC_RETIRED_HI_s", 0xa000034, [⟨8, 0x100000, 0⟩, ⟨2, 0x8, 0⟩], .operator,
    [⟨31, 0, .ro, .l, .val 0⟩]⟩,
  ⟨.mem, "MEM.SNOOP", 0xa000040, [⟨8, 0x100000, 0⟩], .operator,
    [⟨31, 11, .ro, .l, .val 0⟩]⟩]

/-- Registers of block MEM, part 1. -/
def regsMEM1 : List RegDesc := [
  ⟨.mem, "MEM.SNOOP_RECALLS", 0xa000044, [⟨8, 0x100000, 0⟩], .operator,
    [⟨31, 0, .ro, .l, .val 0⟩]⟩,
  ⟨.mem, "MEM.SNOOP_EVICT", 0xa000048, [⟨8, 0x100000, 0⟩], .operator,
    [⟨31, 0, .ro, .l, .val 0⟩]⟩,
  ⟨.mem, "MEM.XLAT_SEL", 0xa000050, [⟨8, 0x100000, 0⟩], .operator,
    [⟨18, 0, .rw, .l, .val 0⟩]⟩,
  ⟨.mem, "MEM.XLAT_DATA", 0xa000054, [⟨8, 0x100000, 0⟩], .operator,
    [⟨31, 31, .ro, .l, .val 0⟩, ⟨30, 27, .ro, .l, .val 0⟩, ⟨18, 0, .ro, .l, .val 0⟩]⟩]

/-- Registers of block HIO. -/
def regsHIO : List RegDesc := [
  ⟨.hio, "HIO.STATUS", 0xb000000, [], .operator,
    [⟨1, 1, .w1c, .l, .val 0⟩, ⟨0, 0, .w1c, .l, .val 0⟩]⟩,
  ⟨.hio, "HIO.SLOT_CFG_s", 0xb000100, [⟨4, 0x10, 0⟩], .installer,
    [⟨31, 31, .rw, .l, .val 0⟩, ⟨27, 26, .rw, .s, .val 0⟩, ⟨25, 25, .rw, .s, .val 0⟩, ⟨24, 24, .rw, .s, .val 0⟩, ⟨23, 20, .rw, .s, .val 6⟩, ⟨19, 18, .rw, .s, .val 2⟩, ⟨17, 17, .rw, .s, .val 0⟩]⟩,
  ⟨.hio, "HIO.PORT_STATUS_r", 0xb000200, [⟨16, 0x4, 0⟩], .operator,
    [⟨31, 28, .ro, .l, .val 0⟩, ⟨27, 24, .ro, .l, .val 0⟩, ⟨23, 19, .ro, .l, .val 0⟩, ⟨18, 18, .ro, .l, .val 0⟩, ⟨17, 16, .ro, .l, .val 0⟩, ⟨15, 0, .ro, .l, .val 0⟩]⟩,
  ⟨.hio, "HIO.PORT_TENANT_r", 0xb000300, [⟨16, 0x4, 0⟩], .installer,
    [⟨31, 31, .rw, .l, .val 0⟩, ⟨30, 30, .rw, .l, .val 0⟩, ⟨3, 0, .rw, .l, .val 0⟩]⟩,
  ⟨.hio, "HIO.CLKOUT_c", 0xb000400, [⟨2, 0x4, 0⟩], .installer,
    [⟨31, 31, .rw, .l, .val 0⟩, ⟨7, 4, .rw, .l, .val 0⟩, ⟨2, 0, .rw, .l, .val 0⟩]⟩,
  ⟨.hio, "HIO.TXEQ_l", 0xb001000, [⟨64, 0x4, 0⟩], .installer,
    [⟨15, 12, .rw, .l, .val 4⟩, ⟨11, 8, .rw, .l, .val 4⟩, ⟨7, 4, .rw, .l, .val 4⟩, ⟨3, 0, .rw, .l, .val 4⟩]⟩]

/-- Registers of block CPU. -/
def regsCPU : List RegDesc := [
  ⟨.cpu, "CPU.DIE_STATUS_d", 0xb800000, [⟨2, 0x4, 0⟩], .operator,
    [⟨31, 28, .ro, .l, .val 0⟩, ⟨27, 20, .ro, .l, .val 0⟩, ⟨19, 12, .ro, .l, .val 0⟩, ⟨11, 1, .ro, .l, .val 0⟩, ⟨0, 0, .w1c, .l, .val 0⟩]⟩,
  ⟨.cpu, "CPU.CORE_STATE_d_c", 0xb801000, [⟨2, 0x400, 0⟩, ⟨96, 0x4, 0⟩], .operator,
    [⟨31, 28, .ro, .l, .val 0⟩, ⟨27, 27, .ro, .l, .val 0⟩, ⟨26, 23, .ro, .l, .val 0⟩]⟩,
  ⟨.cpu, "CPU.RWIN_d_w", 0xb810004, [⟨2, 0x1000, 0⟩, ⟨1022, 0x4, 1⟩], .operator,
    [⟨31, 31, .rw, .l, .val 0⟩, ⟨11, 0, .rw, .l, .val 0⟩]⟩]

/-- Registers of block SEC. -/
def regsSEC : List RegDesc := [
  ⟨.sec, "SEC.STATUS", 0x5200000, [], .operator,
    [⟨31, 24, .ro, .l, .val 0⟩, ⟨8, 8, .ro, .l, .val 0⟩, ⟨2, 2, .ro, .l, .val 0⟩, ⟨1, 1, .ro, .l, .val 0⟩, ⟨0, 0, .w1c, .l, .val 0⟩]⟩,
  ⟨.sec, "SEC.SERIAL_LO", 0x5200004, [], .operator,
    [⟨31, 0, .ro, .l, .val 0⟩]⟩,
  ⟨.sec, "SEC.SERIAL_HI", 0x5200008, [], .operator,
    [⟨31, 0, .ro, .l, .val 0⟩]⟩,
  ⟨.sec, "SEC.AUTH_CTRL", 0x5200010, [], .operator,
    [⟨31, 31, .wo, .l, .val 0⟩, ⟨30, 30, .wo, .l, .val 0⟩, ⟨29, 29, .wo, .l, .val 0⟩, ⟨28, 27, .rw, .l, .val 0⟩, ⟨26, 25, .rw, .l, .val 0⟩, ⟨24, 13, .rw, .l, .val 0⟩, ⟨12, 11, .rw, .l, .val 0⟩]⟩,
  ⟨.sec, "SEC.AUTH_RESULT", 0x5200014, [], .operator,
    [⟨31, 28, .ro, .l, .val 0⟩, ⟨17, 16, .ro, .l, .val 0⟩, ⟨15, 0, .ro, .l, .val 0⟩]⟩,
  ⟨.sec, "SEC.AUTH_LIFE", 0x5200018, [], .operator,
    [⟨15, 0, .rw, .l, .val 0xe10⟩]⟩,
  ⟨.sec, "SEC.NONCE_w", 0x5200020, [⟨12, 0x4, 0⟩], .operator,
    [⟨31, 0, .ro, .l, .val 0⟩]⟩,
  ⟨.sec, "SEC.SIG_w", 0x5200080, [⟨24, 0x4, 0⟩], .operator,
    [⟨31, 0, .wo, .l, .val 0⟩]⟩,
  ⟨.sec, "SEC.SESSION_n", 0x5200100, [⟨4, 0x4, 0⟩], .operator,
    [⟨31, 31, .ro, .l, .val 0⟩, ⟨30, 29, .ro, .l, .val 0⟩, ⟨28, 27, .ro, .l, .val 0⟩, ⟨26, 15, .ro, .l, .val 0⟩, ⟨14, 0, .ro, .l, .val 0⟩]⟩,
  ⟨.sec, "SEC.GATED_COUNT", 0x5200110, [], .operator,
    [⟨31, 0, .ro, .l, .val 0⟩]⟩]

/-- Registers of block CLK, part 0. -/
def regsCLK0 : List RegDesc := [
  ⟨.clk, "CLK.CFG", 0x200000, [], .installer,
    [⟨31, 24, .rw, .l, .val 0x10⟩, ⟨23, 16, .rw, .l, .val 2⟩, ⟨15, 8, .rw, .l, .val 0xc8⟩]⟩,
  ⟨.clk, "CLK.STATUS", 0x200004, [], .operator,
    [⟨31, 31, .ro, .l, .val 0⟩, ⟨30, 30, .ro, .l, .val 0⟩, ⟨29, 29, .ro, .l, .val 0⟩, ⟨28, 28, .ro, .l, .val 0⟩, ⟨3, 3, .w1c, .l, .val 0⟩, ⟨2, 2, .w1c, .l, .val 0⟩, ⟨1, 1, .w1c, .l, .val 0⟩, ⟨0, 0, .w1c, .l, .val 0⟩]⟩,
  ⟨.clk, "CLK.REFCLK_MON", 0x200008, [], .operator,
    [⟨31, 16, .ro, .l, .val 0⟩, ⟨15, 0, .ro, .l, .val 0⟩]⟩,
  ⟨.clk, "CLK.REFCLK_LAST", 0x20000c, [], .operator,
    [⟨31, 0, .ro, .l, .val 0⟩]⟩,
  ⟨.clk, "CLK.DOMAIN_RESET", 0x200020, [], .installer,
    [⟨31, 31, .wo, .l, .val 0⟩, ⟨6, 0, .rw, .l, .val 0⟩]⟩,
  ⟨.clk, "CLK.DOMAIN_RESET_RESULT", 0x200024, [], .operator,
    [⟨31, 28, .ro, .l, .val 0⟩, ⟨22, 16, .ro, .l, .val 0⟩, ⟨15, 0, .ro, .l, .val 0⟩]⟩,
  ⟨.clk, "CLK.GATE_EN_LO", 0x200030, [], .installer,
    [⟨31, 0, .rw, .w, .val 0xffffffff⟩]⟩,
  ⟨.clk, "CLK.GATE_EN_HI", 0x200034, [], .installer,
    [⟨7, 0, .rw, .w, .val 0xff⟩]⟩,
  ⟨.clk, "CLK.GATE_STATUS_LO", 0x200038, [], .operator,
    [⟨31, 0, .ro, .l, .val 0⟩]⟩,
  ⟨.clk, "CLK.GATE_STATUS_HI", 0x20003c, [], .operator,
    [⟨31, 0, .ro, .l, .val 0⟩]⟩]

/-- Registers of block CLK, part 1. -/
def regsCLK1 : List RegDesc := [
  ⟨.clk, "CLK.CL_GATE_d", 0x200040, [⟨8, 0x4, 0⟩], .installer,
    [⟨15, 8, .ro, .l, .val 0⟩, ⟨7, 0, .rw, .w, .val 0xff⟩]⟩,
  ⟨.clk, "CLK.GATED_COUNT", 0x200060, [], .operator,
    [⟨31, 0, .ro, .l, .val 0⟩]⟩,
  ⟨.clk, "CLK.GATED_LAST", 0x200064, [], .operator,
    [⟨31, 29, .ro, .l, .val 0⟩, ⟨28, 28, .ro, .l, .val 0⟩, ⟨27, 0, .ro, .l, .val 0⟩]⟩,
  ⟨.clk, "CLK.FCHG_d", 0x200100, [⟨10, 0x10, 0⟩], .maker,
    [⟨31, 31, .wo, .l, .val 0⟩, ⟨30, 30, .wo, .l, .val 0⟩, ⟨29, 23, .rw, .l, .val 0⟩, ⟨15, 0, .rw, .l, .val 0⟩]⟩,
  ⟨.clk, "CLK.FCHG_RESULT_d", 0x200104, [⟨10, 0x10, 0⟩], .operator,
    [⟨31, 28, .ro, .l, .val 0⟩, ⟨27, 24, .ro, .l, .val 0⟩, ⟨15, 0, .ro, .l, .val 0⟩]⟩,
  ⟨.clk, "CLK.FCHG_NOW_d", 0x200108, [⟨10, 0x10, 0⟩], .operator,
    [⟨30, 24, .ro, .l, .val 0⟩, ⟨22, 16, .ro, .l, .val 0⟩]⟩,
  ⟨.clk, "CLK.REGION_r", 0x201000, [⟨94, 0x4, 0⟩], .operator,
    [⟨31, 30, .ro, .l, .val 3⟩, ⟨29, 29, .ro, .l, .val 0⟩, ⟨28, 28, .ro, .l, .val 0⟩, ⟨27, 27, .ro, .l, .val 0⟩, ⟨26, 26, .ro, .l, .val 0⟩, ⟨25, 25, .ro, .l, .val 0⟩, ⟨24, 18, .ro, .l, .val 0⟩]⟩,
  ⟨.clk, "CLK.XLAT_r", 0x201400, [⟨94, 0x4, 0⟩], .operator,
    [⟨31, 16, .ro, .l, .val 0⟩, ⟨15, 0, .ro, .l, .val 0⟩]⟩]

/-- Registers of block PWR, part 0. -/
def regsPWR0 : List RegDesc := [
  ⟨.pwr, "PWR.CFG", 0x300000, [], .installer,
    [⟨25, 16, .rw, .w, .val 0x2ee⟩, ⟨15, 8, .rw, .l, .val 0x40⟩, ⟨7, 0, .rw, .l, .val 0x40⟩]⟩,
  ⟨.pwr, "PWR.CAP", 0x300004, [], .operator,
    [⟨25, 16, .rw, .w, .val 0x2ee⟩]⟩,
  ⟨.pwr, "PWR.STATUS", 0x300008, [], .operator,
    [⟨31, 31, .ro, .l, .val 0⟩, ⟨30, 30, .ro, .l, .val 0⟩, ⟨29, 29, .ro, .l, .val 0⟩, ⟨28, 28, .ro, .l, .val 0⟩, ⟨27, 27, .ro, .l, .val 0⟩, ⟨26, 26, .ro, .l, .val 0⟩, ⟨25, 25, .ro, .l, .val 0⟩, ⟨2, 2, .w1c, .l, .val 0⟩, ⟨0, 0, .w1c, .l, .val 0⟩]⟩,
  ⟨.pwr, "PWR.LIMIT", 0x30000c, [], .operator,
    [⟨25, 16, .ro, .w, .val 0x2ee⟩, ⟨9, 0, .ro, .l, .val 0⟩]⟩,
  ⟨.pwr, "PWR.TARGET_LEFT", 0x300010, [], .operator,
    [⟨15, 0, .ro, .l, .val 0⟩]⟩,
  ⟨.pwr, "PWR.INPUT", 0x300014, [], .operator,
    [⟨31, 16, .ro, .w, .val 0⟩, ⟨15, 0, .ro, .w, .val 0⟩]⟩,
  ⟨.pwr, "PWR.MEAN", 0x300018, [], .operator,
    [⟨31, 16, .ro, .w, .val 0⟩, ⟨15, 0, .ro, .w, .val 0⟩]⟩,
  ⟨.pwr, "PWR.ENERGY_LO", 0x300020, [], .operator,
    [⟨31, 0, .ro, .w, .val 0⟩]⟩,
  ⟨.pwr, "PWR.ENERGY_HI", 0x300024, [], .operator,
    [⟨31, 0, .ro, .w, .val 0⟩]⟩,
  ⟨.pwr, "PWR.THROTTLE", 0x300028, [], .operator,
    [⟨10, 0, .ro, .w, .val 0⟩]⟩]

/-- Registers of block PWR, part 1. -/
def regsPWR1 : List RegDesc := [
  ⟨.pwr, "PWR.SLACK", 0x30002c, [], .operator,
    [⟨7, 0, .ro, .w, .val 0xff⟩]⟩,
  ⟨.pwr, "PWR.CFG2", 0x300030, [], .installer,
    [⟨31, 16, .rw, .l, .val 0x400⟩, ⟨15, 8, .rw, .l, .val 0x1e⟩, ⟨7, 0, .rw, .l, .val 0x20⟩]⟩,
  ⟨.pwr, "PWR.AGE_CFG", 0x300034, [], .installer,
    [⟨15, 0, .rw, .l, .val 0x18⟩]⟩,
  ⟨.pwr, "PWR.GAUGE", 0x300038, [], .operator,
    [⟨31, 28, .ro, .l, .val 0⟩, ⟨15, 0, .ro, .l, .val 0⟩]⟩,
  ⟨.pwr, "PWR.THR_ROWS_LO_n", 0x300100, [⟨11, 0x8, 0⟩], .operator,
    [⟨31, 0, .ro, .w, .val 0⟩]⟩,
  ⟨.pwr, "PWR.THR_ROWS_HI_n", 0x300104, [⟨11, 0x8, 0⟩], .operator,
    [⟨15, 0, .ro, .w, .val 0⟩]⟩,
  ⟨.pwr, "PWR.DIE_d", 0x300200, [⟨10, 0x10, 0⟩], .operator,
    [⟨31, 28, .ro, .l, .val 0⟩, ⟨27, 24, .ro, .l, .maxPoint⟩, ⟨23, 16, .ro, .l, .val 0⟩, ⟨15, 9, .ro, .l, .val 0x40⟩]⟩,
  ⟨.pwr, "PWR.RAIL_d", 0x300204, [⟨10, 0x10, 0⟩], .operator,
    [⟨31, 16, .ro, .l, .val 0⟩, ⟨15, 0, .ro, .w, .val 0⟩]⟩,
  ⟨.pwr, "PWR.DIE_W_d", 0x300208, [⟨10, 0x10, 0⟩], .operator,
    [⟨31, 16, .ro, .l, .val 0⟩, ⟨15, 0, .ro, .w, .val 0⟩]⟩,
  ⟨.pwr, "PWR.DOMAIN_W_n", 0x300300, [⟨6, 0x4, 0⟩], .operator,
    [⟨15, 0, .ro, .w, .val 0⟩]⟩]

/-- Registers of block THM, part 0. -/
def regsTHM0 : List RegDesc := [
  ⟨.thm, "THM.CFG", 0x400000, [], .installer,
    [⟨31, 24, .rw, .l, .val 0x18⟩, ⟨23, 16, .rw, .l, .val 8⟩, ⟨15, 8, .rw, .l, .val 0x28⟩, ⟨7, 0, .rw, .l, .val 0xa⟩]⟩,
  ⟨.thm, "THM.CFG2", 0x400004, [], .installer,
    [⟨31, 28, .rw, .l, .val 3⟩, ⟨27, 24, .rw, .l, .val 2⟩]⟩,
  ⟨.thm, "THM.STATUS", 0x400008, [], .operator,
    [⟨31, 31, .ro, .l, .val 0⟩, ⟨30, 30, .ro, .l, .val 0⟩, ⟨29, 29, .ro, .l, .val 0⟩, ⟨23, 16, .ro, .l, .val 0⟩, ⟨15, 8, .ro, .l, .val 0⟩, ⟨0, 0, .w1c, .l, .val 0⟩]⟩,
  ⟨.thm, "THM.COOL_CFG", 0x40000c, [], .installer,
    [⟨31, 24, .rw, .l, .val 0x28⟩, ⟨23, 12, .rw, .l, .val 0x258⟩, ⟨11, 0, .rw, .l, .val 0xc8⟩]⟩,
  ⟨.thm, "THM.COOLANT", 0x400010, [], .operator,
    [⟨31, 16, .ro, .l, .val 0⟩, ⟨15, 0, .ro, .l, .val 0⟩]⟩,
  ⟨.thm, "THM.FLOW", 0x400014, [], .operator,
    [⟨31, 16, .ro, .l, .val 0⟩, ⟨15, 0, .ro, .l, .val 0⟩]⟩,
  ⟨.thm, "THM.TRIP", 0x400018, [], .operator,
    [⟨31, 28, .ro, .l, .val 0⟩, ⟨27, 24, .ro, .l, .val 0⟩, ⟨23, 16, .ro, .l, .val 0⟩, ⟨15, 0, .ro, .l, .val 0⟩]⟩,
  ⟨.thm, "THM.CEIL_d", 0x400100, [⟨10, 0x4, 0⟩], .operator,
    [⟨31, 28, .ro, .l, .maxPoint⟩, ⟨27, 24, .ro, .l, .val 0⟩]⟩,
  ⟨.thm, "THM.ZONE_T_z", 0x401000, [⟨144, 0x10, 0⟩], .operator,
    [⟨31, 16, .ro, .l, .val 0⟩, ⟨15, 0, .ro, .l, .val 0⟩]⟩,
  ⟨.thm, "THM.ZONE_LIM_z", 0x401004, [⟨144, 0x10, 0⟩], .installer,
    [⟨31, 24, .rw, .l, .zoneThrottle⟩, ⟨23, 16, .rw, .l, .zoneMin⟩, ⟨15, 8, .ro, .l, .zoneCrit⟩]⟩]

/-- Registers of block THM, part 1. -/
def regsTHM1 : List RegDesc := [
  ⟨.thm, "THM.ZONE_STATE_z", 0x401008, [⟨144, 0x10, 0⟩], .operator,
    [⟨31, 28, .ro, .l, .val 0⟩, ⟨27, 20, .ro, .l, .zoneSensors⟩, ⟨19, 16, .ro, .l, .val 0⟩, ⟨15, 0, .ro, .l, .val 0⟩]⟩]

/-- Registers of block EVR, part 0. -/
def regsEVR0 : List RegDesc := [
  ⟨.evr, "EVR.CFG", 0x100000, [], .installer,
    [⟨31, 24, .rw, .l, .val 0x3c⟩, ⟨23, 16, .rw, .l, .val 0xa⟩]⟩,
  ⟨.evr, "EVR.STATUS", 0x100004, [], .operator,
    [⟨31, 19, .ro, .l, .val 0⟩, ⟨18, 18, .ro, .l, .val 0⟩, ⟨17, 17, .ro, .l, .val 0⟩, ⟨0, 0, .w1c, .l, .val 0⟩]⟩,
  ⟨.evr, "EVR.NV_STATUS", 0x100008, [], .operator,
    [⟨31, 23, .ro, .l, .val 0⟩, ⟨22, 18, .ro, .l, .val 0⟩, ⟨17, 17, .ro, .l, .val 0⟩, ⟨16, 16, .ro, .l, .val 0⟩]⟩,
  ⟨.evr, "EVR.CTRL", 0x10000c, [], .operator,
    [⟨31, 31, .wo, .l, .val 0⟩, ⟨30, 30, .wo, .l, .val 0⟩]⟩,
  ⟨.evr, "EVR.CLEAR", 0x100010, [], .installer,
    [⟨31, 31, .wo, .l, .val 0⟩]⟩,
  ⟨.evr, "EVR.NV_CLEAR", 0x100014, [], .maker,
    [⟨31, 31, .wo, .l, .val 0⟩]⟩,
  ⟨.evr, "EVR.LOST", 0x100018, [], .operator,
    [⟨31, 16, .ro, .l, .val 0⟩, ⟨15, 0, .ro, .l, .val 0⟩]⟩,
  ⟨.evr, "EVR.OP_SECS", 0x10001c, [], .operator,
    [⟨31, 0, .ro, .l, .val 0⟩]⟩,
  ⟨.evr, "EVR.POWER_CYCLES", 0x100020, [], .operator,
    [⟨31, 0, .ro, .l, .val 0⟩]⟩,
  ⟨.evr, "EVR.SEL", 0x100024, [], .operator,
    [⟨31, 31, .rw, .l, .val 0⟩, ⟨11, 0, .rw, .l, .val 0⟩]⟩]

/-- Registers of block EVR, part 1. -/
def regsEVR1 : List RegDesc := [
  ⟨.evr, "EVR.REC_w", 0x100040, [⟨32, 0x4, 0⟩], .operator,
    [⟨31, 0, .ro, .l, .val 0⟩]⟩,
  ⟨.evr, "EVR.TRIG_CFG_n", 0x101000, [⟨32, 0x80, 0⟩], .installer,
    [⟨31, 31, .rw, .l, .val 0⟩, ⟨30, 30, .rw, .l, .val 0⟩, ⟨20, 16, .rw, .l, .val 0⟩, ⟨15, 0, .rw, .l, .val 0⟩]⟩,
  ⟨.evr, "EVR.TRIG_HITS_n", 0x101004, [⟨32, 0x80, 0⟩], .operator,
    [⟨31, 0, .ro, .l, .val 0⟩]⟩,
  ⟨.evr, "EVR.TRIG_OFS_n_i", 0x101040, [⟨32, 0x80, 0⟩, ⟨16, 0x4, 0⟩], .installer,
    [⟨27, 0, .rw, .l, .val 0⟩]⟩]

/-- Every register of block PCU. -/
def tabPCU : List RegDesc := regsPCU0 ++ regsPCU1 ++ regsPCU2 ++ regsPCU3
/-- Every register of block DBG. -/
def tabDBG : List RegDesc := regsDBG
/-- Every register of block OPF. -/
def tabOPF : List RegDesc := regsOPF
/-- Every register of block SITE. -/
def tabSITE : List RegDesc := regsSITE0 ++ regsSITE1
/-- Every register of block LSU. -/
def tabLSU : List RegDesc := regsLSU0 ++ regsLSU1
/-- Every register of block TNS. -/
def tabTNS : List RegDesc := regsTNS0 ++ regsTNS1 ++ regsTNS2
/-- Every register of block LANE. -/
def tabLANE : List RegDesc := regsLANE0 ++ regsLANE1
/-- Every register of block PART. -/
def tabPART : List RegDesc := regsPART0 ++ regsPART1 ++ regsPART2
/-- Every register of block CIRC. -/
def tabCIRC : List RegDesc := regsCIRC0 ++ regsCIRC1
/-- Every register of block EDGE. -/
def tabEDGE : List RegDesc := regsEDGE0 ++ regsEDGE1 ++ regsEDGE2
/-- Every register of block ROUTE. -/
def tabROUTE : List RegDesc := regsROUTE0 ++ regsROUTE1
/-- Every register of block RED. -/
def tabRED : List RegDesc := regsRED0 ++ regsRED1
/-- Every register of block SYN. -/
def tabSYN : List RegDesc := regsSYN0 ++ regsSYN1
/-- Every register of block TIME. -/
def tabTIME : List RegDesc := regsTIME0 ++ regsTIME1
/-- Every register of block CMP. -/
def tabCMP : List RegDesc := regsCMP0 ++ regsCMP1 ++ regsCMP2
/-- Every register of block MEM. -/
def tabMEM : List RegDesc := regsMEM0 ++ regsMEM1
/-- Every register of block HIO. -/
def tabHIO : List RegDesc := regsHIO
/-- Every register of block CPU. -/
def tabCPU : List RegDesc := regsCPU
/-- Every register of block SEC. -/
def tabSEC : List RegDesc := regsSEC
/-- Every register of block CLK. -/
def tabCLK : List RegDesc := regsCLK0 ++ regsCLK1
/-- Every register of block PWR. -/
def tabPWR : List RegDesc := regsPWR0 ++ regsPWR1
/-- Every register of block THM. -/
def tabTHM : List RegDesc := regsTHM0 ++ regsTHM1
/-- Every register of block EVR. -/
def tabEVR : List RegDesc := regsEVR0 ++ regsEVR1

/-- The indices that bring the dimensions from their lowest offset to `r` bytes above it. -/
def matchDims : List Dim → Nat → Option (List Nat)
  | [], r => if r = 0 then some [] else none
  | d :: ds, r =>
    if r / d.stride < d.count then
      (matchDims ds (r % d.stride)).map (fun l => (r / d.stride + d.first) :: l)
    else none

/-- The indices with which a register table covers an offset. -/
def RegDesc.indices (d : RegDesc) (off : Nat) : Option (List Nat) :=
  if off < d.base then none else matchDims d.dims (off - d.base)

/-- The register of a table that lies at an offset, with its indices. -/
def findIn : List RegDesc → Nat → Option (RegDesc × List Nat)
  | [], _ => none
  | d :: ds, off => match d.indices off with
    | some is => some (d, is)
    | none => findIn ds off

/-- The registers of the block that an offset falls in (R27). -/
def blockTab (off : Nat) : List RegDesc :=
  if off < 0x100000 then tabPCU else if off < 0x200000 then tabEVR else if off < 0x300000 then tabCLK
  else if off < 0x400000 then tabPWR else if off < 0x500000 then tabTHM else if off < 0x600000 then tabLSU
  else if off < 0x700000 then tabTIME else if off < 0x800000 then tabPART else if off < 0x900000 then tabSYN
  else if off < 0x1000000 then [] else if off < 0x1180000 then tabSITE else if off < 0x1E00000 then []
  else if off < 0x1E10000 then tabOPF else if off < 0x2000000 then [] else if off < 0x3800000 then tabLANE ++ tabTNS
  else if off < 0x4000000 then [] else if off < 0x4400000 then tabEDGE else if off < 0x4800000 then []
  else if off < 0x5000000 then tabROUTE else if off < 0x5100000 then tabRED else if off < 0x5200000 then tabCIRC
  else if off < 0x5300000 then tabSEC else if off < 0x6000000 then [] else if off < 0xA000000 then tabCMP
  else if off < 0xA800000 then tabMEM else if off < 0xB000000 then [] else if off < 0xC000000 then tabHIO ++ tabCPU
  else if off < 0xF000000 then [] else if off < 0x10000000 then tabDBG else []

/-- The register at an offset of the control space; none where the offset holds no register (R12, R27). -/
def findReg (off : Nat) : Option (RegDesc × List Nat) := findIn (blockTab off) off

/-- The reset value of a field with the given register indices. -/
def Rst.eval (is : List Nat) : Rst → Nat
  | .val n => n
  | .laneOn => is.getD 1 0
  | .portRole => if is.getD 0 0 < 12 then is.getD 0 0 / 2 else 6
  | .nodeSelf => if is.getD 0 0 = 0 then 3 else 0
  | .partState => if is.getD 0 0 = 0 then 2 else 0
  | .maxPoint => if is.getD 0 0 < 8 then 7 else 5
  | .zoneThrottle => Config.zoneThrottle (is.getD 0 0)
  | .zoneMin => Config.zoneMin (is.getD 0 0)
  | .zoneCrit => Config.zoneCrit (is.getD 0 0)
  | .zoneSensors => Config.zoneSensors (is.getD 0 0)
  | .planeType => (Config.siteKind (is.getD 0 0)).code
  | .planeFixed => Config.fixedPlanes (is.getD 0 0)
  | .planeSwitched => Config.switchedPlanes (is.getD 0 0)
  | .planeSpare => Config.sparePlanes (is.getD 0 0)
  | .planeKind => Config.planeKind (is.getD 0 0) (is.getD 1 0)

/-- The reset value of a whole register: its fields' reset values in their places. -/
def resetFields (is : List Nat) : List Fld → Nat
  | [] => 0
  | f :: fs => f.rst.eval is % 2 ^ (f.hi + 1 - f.lo) * 2 ^ f.lo + resetFields is fs

/-- What the register at an offset holds at reset; zero where there is none. -/
def resetWord (off : Nat) : Word :=
  match findReg off with
  | some (d, is) => BitVec.ofNat 32 (resetFields is d.flds)
  | none => 0

end Sys2Proof.Machine
end

