-- ==== Sys2Proof/Machine/State.lean ====
section
/-! DEFINITION. The state of the package as plain data: the registers, every buffer, queue, table and mode behind them, the
memory, and the queue of waiting commands; the reasons for a fault or a refusal; the state after reset. -/

namespace Sys2Proof.Machine

/-- A write to fields of class W, held for its row boundary (R20): register offset, mask of the bits written, their values,
the row at whose boundary it takes effect (0 for a write accepted before rows run). -/
structure HeldWrite where
  off : Nat
  mask : Nat
  val : Nat
  row : Nat
  deriving DecidableEq, Repr

/-- The latch of one requester: the _LO register whose read filled it and the words it holds (R4). -/
structure ReadLatch where
  req : Requester
  lo : Nat
  words : List Nat
  deriving DecidableEq, Repr

/-- A requester's own copy of the mirror port: selected offset and status bits (R15). -/
structure MirrorPort where
  req : Requester
  sel : Nat
  status : Nat
  deriving DecidableEq, Repr

/-- An access that waits for a PCU to take the control token (R431) or behind an earlier write of its requester (R14); for a write through an alias that has been accepted, the members
sampled then (R19). -/
structure EmuAccess where
  req : Requester
  off : Nat
  isWrite : Bool
  val : Nat
  time : Nat
  members : Option (List Nat) := none
  deriving DecidableEq, Repr

/-- The last answer given to a requester: the data of a read, or a status of the management interface and the port's bytes (R573). -/
structure Answer where
  req : Requester
  status : Nat
  data : Nat
  deriving DecidableEq, Repr

/-- A captured event that waits to become a record (R541, R543, R545): code, single tenant or none, unit, arguments, time. -/
structure Event where
  code : Nat
  tenant : Option Nat
  unit : Nat
  args : List Nat
  time : Nat
  timeState : Nat
  deriving DecidableEq, Repr

/-- The state of register access (R4, R15, R20, R431). -/
structure Access where
  held : List HeldWrite := []
  latches : List ReadLatch := []
  mirrors : List MirrorPort := []
  emuWait : List EmuAccess := []
  answer : Option Answer := none
  deriving DecidableEq, Repr

/-- One side of a plane: site, plane, receive side or transmit side (R45). -/
structure Side where
  site : Nat
  plane : Nat
  rx : Bool
  deriving DecidableEq, Repr

/-- A substitution booked for a plane side (R49): the lanes whose fences asked for it, the first one first; those of them whose localization was inconclusive (R50); when it was
localized; whether the whole plane side is at fault; and the row at whose boundary it is applied. -/
structure Booking where
  side : Side
  lanes : List (Nat × Nat × Nat)
  guess : List (Nat × Nat × Nat)
  located : Nat
  whole : Bool
  row : Nat
  deriving DecidableEq, Repr

/-- A lane fence, kept for the count of R48 and the lanes that a substitution carries (R49): the lane, the side to which it is localized, the side at its other end, row. -/
structure FenceNote where
  lane : Nat × Nat × Nat
  side : Side
  other : Side
  row : Nat
  deriving DecidableEq, Repr

/-- A request for a test substitution or its return, held for its row boundary (R61). -/
structure SubstReq where
  site : Nat
  go : Bool
  restore : Bool
  side : Side
  spare : Nat
  row : Nat
  deriving DecidableEq, Repr

/-- The base-layer fabric beyond its registers (R45 to R61). -/
structure Opf where
  booked : List Booking := []
  fences : List FenceNote := []
  /-- Substitutions made after an inconclusive localization, for R50. -/
  guessed : List Booking := []
  reacquiring : List Side := []
  /-- Fixed lanes lost for the power-on period: site, plane, wavelength (R56). -/
  lost : List (Nat × Nat × Nat) := []
  degraded : List (Nat × Nat) := []
  lostSkeins : List (Nat × Nat) := []
  substReqs : List SubstReq := []
  deriving DecidableEq, Repr

/-- The light supply beyond its registers (R62 to R85). -/
structure Light where
  /-- Flagged lines (R67); the time in fabric cycles at which the present source change began, and that of the change during which it began, if any (R68). -/
  flagged : List Nat := []
  changeAt : Option Nat := none
  changeBefore : Option Nat := none
  /-- The row in which the switch-over began that made the active comb active, in fabric cycles (R74). -/
  tookOver : Option Nat := none
  /-- An accepted SWAP and its boundary (R73). -/
  swapRow : Option Nat := none
  /-- An LSU.CTRL command held while no PCU has the token (R65): the word written. -/
  heldCtrl : Option Nat := none
  /-- The comb that returns, the row at whose boundary it goes to full output, and whether it has done so (R81). -/
  returning : Option (Nat × Nat × Bool) := none
  /-- The lanes that failed on the way to a commit that waits for its row boundary, and the row at whose boundary a return was committed (R81). -/
  commit : Option (List FenceSign) := none
  returnedRow : Option Nat := none
  /-- The time in fabric cycles at which the package entered fallback, while the entry has not ended (R75). -/
  entered : Option Nat := none
  /-- Per comb: the row since which both locks have held; the time of the pump start of a restart attempt; whether LSU.CTRL has granted an
  attempt that has not ended; the offset last measured, as LSU.OFFSET holds it. -/
  locked : List (Nat × Nat) := []
  restartAt : List (Nat × Nat) := []
  granted : List Nat := []
  offsets : List (Nat × Nat) := []
  /-- Rows for which the monitors have read the lines of branch X, and the lines flagged in any of them, by number of the row (R67). -/
  rowsRead : Nat := 0
  flagRows : List (Nat × Nat) := []
  /-- A LIGHT_STATE notice that waits for a port to come up (R79). -/
  heldNotice : Bool := false
  deriving DecidableEq, Repr

/-- A ring: site, plane (or 42 plus the local port of an edge site), direction 0 transmit or 1 receive, wavelength or port lane. -/
structure RingKey where
  site : Nat
  plane : Nat
  d : Nat
  k : Nat
  deriving DecidableEq, Repr

/-- A lane swatch booked or in progress (R102 to R105): the lane, its scope (1 transmit, 2 receive, 3 both), the booking boundary, the sites it books, its rings with the codes they had,
the rows for which it stood still without the token (R96), whether it has begun, and what it measured for each ring once it has ended. -/
structure Swatch where
  site : Nat
  plane : Nat
  k : Nat
  scope : Nat
  start : Nat
  sites : List Nat
  codes : List (RingKey × Nat)
  gap : Nat := 0
  begun : Bool := false
  ended : Option (List RingSweep) := none
  deriving DecidableEq, Repr

/-- The pending calibration of a group (R100 to R102): its rings not yet swatched, whether a lane swatch of it has begun, the row since which it pends, and whether a MANUAL trigger came
while it ran (R101). -/
structure Calib where
  site : Nat
  group : Nat
  left : List RingKey
  started : Bool := false
  row : Nat
  again : Bool := false
  deriving DecidableEq, Repr

/-- Tension control beyond its registers (R86 to R115). Groups are named by site and group number. -/
structure Tension where
  /-- The last readings of a group's sensor, newest first, in 0.125 °C. -/
  temps : List ((Nat × Nat) × List Int) := []
  /-- TEMP (1) and LOAD (2) triggers that pend but wait for MIN_INTERVAL (R101): site, group, bit. -/
  heldTrig : List (Nat × Nat × Nat) := []
  calibs : List Calib := []
  swatches : List Swatch := []
  /-- Lanes whose abandoned swatch is to be made again first (R109). -/
  first : List (Nat × Nat × Nat) := []
  /-- Consecutive good visits of a ring in acquisition (R93); the highest drop power that a ring in a search or sweep has met, with its code. -/
  good : List (RingKey × Nat) := []
  best : List (RingKey × (Int × Nat)) := []
  /-- Searches in progress: the group whose rings search, and the row in which the search began (R75, R81, R93, R214). -/
  searches : List ((Nat × Nat) × Nat) := []
  /-- Slopes that a swatch measured, in units of the lock-in result per GHz, and the draw behind those of the cast-on swatch (R90). -/
  slopes : List (RingKey × Nat) := []
  castDraw : Nat := 0
  /-- Rings whose code sat at an end of its range at their last visit (R94); rings whose code is outside its band, and since which row (R100). -/
  atEnd : List RingKey := []
  /-- Locked rings that were beyond 6.0 GHz at their last visit (R94). -/
  beyond : List RingKey := []
  outside : List (RingKey × Nat) := []
  /-- Lanes whose abandoned swatch returns them at the first boundary after the hold (R109). -/
  returning : List (Nat × Nat × Nat) := []
  /-- The scale correction of a site, in 0.001 %, and one that waits for the next boundary (R110). -/
  correction : List (Nat × Int) := []
  corrDue : List (Nat × Int) := []
  /-- Operating seconds of a site's last cast-on or periodic gauge check (R112). -/
  gaugeAt : List (Nat × Nat) := []
  deriving DecidableEq, Repr

/-- The sending end of a lane's link (R129 to R132): the replay buffer, how many frames of it are still to be resent by the
go-back in progress, frame slots the oldest has waited, rows of the retry events in the window,
whether an acknowledgement has come since the partner was fenced (R137); the sequence of the frame that an injection of modes 1 to 3 changed, while its go-back is to stay out of the
window; the row in which injection mode 4 suppresses acknowledgements, and whether one has been suppressed and its go-back stays out of the window (R140); the last frame sent, the
slots in which frames left in this row, each with whether it was a data frame, and the go-backs made in it (R122), and whether a timeout go-back was made in the present frame slot
(R136). -/
structure LinkTx where
  replay : List Frame := []
  resend : Nat := 0
  waited : Nat := 0
  window : List Nat := []
  ackLate : Bool := false
  injected : Option Nat := none
  suppressRow : Option Nat := none
  suppressFree : Bool := false
  quiet : Bool := false
  lastFrame : Option Frame := none
  sent : List (Nat × Bool) := []
  backs : Nat := 0
  wentBack : Bool := false
  /-- The next link sequence to be assigned (LANE.STATE.NEXT_SEQ). -/
  nextSeq : Nat := 0
  deriving DecidableEq, Repr

/-- The receiving end of a lane's link (R123, R126, R130, R135): expected sequence, whether a data frame was ever accepted,
whether a NAK is to be sent, whether one was sent for the present incident and frame slots since, consecutive marker errors,
good markers and good TRAIN frames in succession, whether the control network carries the acknowledgements (R137), and frame slots since its last message (R128). -/
structure LinkRx where
  expect : Nat := 0
  accepted : Bool := false
  nakDue : Bool := false
  nakSent : Bool := false
  nakSlots : Nat := 0
  badMarkers : Nat := 0
  goodMarkers : Nat := 0
  goodTrain : Nat := 0
  /-- Node, site and plane that the last TRAIN frame of a port lane named (R214). -/
  ident : Nat := 0
  netAck : Bool := false
  ackSlots : Nat := 0
  deriving DecidableEq, Repr

/-- A pattern run of a lane: site of the request, lane, pattern, first row at whose boundary it may be booked and then its booking row b, rows, whether it runs, is on a self-test lane
or is to stop, whether it has its booking, and the states of the pattern generator and of the checker (R138, R139). -/
structure PatRun where
  site : Nat
  plane : Nat
  k : Nat
  pattern : Nat
  row : Nat
  rows : Nat
  running : Bool
  selfTest : Bool
  stop : Bool
  booked : Bool := false
  gen : Nat := 0
  checker : Option Nat := none
  deriving DecidableEq, Repr

/-- An armed error injection of a site (R140). -/
structure Injection where
  site : Nat
  plane : Nat
  k : Nat
  mode : Nat
  countFence : Bool
  deriving DecidableEq, Repr

/-- The lane layer beyond its registers. Lanes are named by site, plane and wavelength of their transmit ring. -/
structure Lanes where
  tx : List ((Nat × Nat × Nat) × LinkTx) := []
  rx : List ((Nat × Nat × Nat) × LinkRx) := []
  runs : List PatRun := []
  inj : List Injection := []
  /-- Whether a lane that changed its state in this row was Up at the row's boundary (R165). -/
  wasUp : List ((Nat × Nat × Nat) × Bool) := []
  /-- The fabric cycle in which a lane was last fenced (R136). -/
  fencedAt : List ((Nat × Nat × Nat) × Nat) := []
  /-- Row in which a lane began to train (R135). -/
  trainRow : List ((Nat × Nat × Nat) × Nat) := []
  /-- Whether training was begun since the last cast-on, so that the block counts as running. -/
  started : Bool := false
  /-- Phase store of the receive lanes of switched banks: receiving site, plane and wavelength, source site, row of the last lock (R119). -/
  phases : List ((Nat × Nat × Nat × Nat) × Nat) := []
  /-- The lanes that were booked for Cal or Test when the calendars of the row were set up (R165). -/
  calBooked : List (Nat × Nat × Nat) := []
  deriving DecidableEq, Repr

/-- An outstanding stitch (R155): the site that holds it, the stitch, its row of acceptance, whether its timeout has run, and for
a STREAM_READ the STREAM_DATA landed and the result block when it has come (R173); for an MC_STORE the answers so far and the first error among
them (R278). -/
structure OutEntry where
  site : Nat
  st : Stitch
  row : Nat
  dead : Option Nat := none
  landed : Nat := 0
  result : Option (List Nat) := none
  answers : Nat := 0
  firstErr : Nat := 0
  deriving DecidableEq, Repr

/-- An ACK being collected: answering site, the answered stitches' source node and site, their tenant and destination node, base
sequence, acknowledged offsets, time in fabric cycles of the first bit (R156). -/
structure AckPend where
  site : Nat
  node : Nat
  srcSite : Nat
  tenant : Nat
  dstNode : Nat
  base : Nat
  offs : List Nat
  since : Nat
  deriving DecidableEq, Repr

/-- A NACK being collected: as an ACK, with entries of sequence and status (R157). -/
structure NackPend where
  site : Nat
  node : Nat
  srcSite : Nat
  tenant : Nat
  dstNode : Nat
  entries : List (Nat × Nat)
  since : Nat
  deriving DecidableEq, Repr

/-- A message tag: flow and the sequence of INDEX 0 (R169). -/
structure MsgTag where
  srcNode : Nat
  srcSite : Nat
  tenant : Nat
  seq0 : Nat
  deriving DecidableEq, Repr

/-- A slot of a receive queue that is reserved, complete or popped (R169, R171, R405): site, queue, slot number, tag, TOTAL, the
reserving stitch's SYNC and CNT, stitches that came with index and bytes, length, row of reservation. -/
structure RqSlot where
  site : Nat
  queue : Nat
  slot : Nat
  tag : MsgTag
  total : Nat
  sync : Nat
  cnt : Nat
  got : List (Nat × List Nat)
  complete : Bool
  popped : Bool
  row : Nat
  deriving DecidableEq, Repr

/-- An entry of a refusal cache (R172). -/
structure Refusal172 where
  site : Nat
  queue : Nat
  tag : MsgTag
  total : Nat
  refused : Nat
  row : Nat
  deriving DecidableEq, Repr

/-- A completion given to a requester: site, opcode, tenant, sequence, status, and the data of a response. -/
structure Completion where
  site : Nat
  opcode : Nat
  tenant : Nat
  seq : Nat
  status : Nat
  data : List Nat := []
  deriving DecidableEq, Repr

/-- A message being sent: site, tag, destination node, TOTAL, answers so far by index, SYNC and CNT, the index that enters next, and the sequences its stitches took (R154, R162, R163). -/
structure SendMsg where
  site : Nat
  tag : MsgTag
  dstNode : Nat
  total : Nat
  answers : List (Nat × Nat)
  sync : Nat
  cnt : Nat
  /-- Destination site and queue, which with the rest tell messages of one flow apart. -/
  dstSite : Nat := 0
  queue : Nat := 0
  next : Nat := 1
  seqs : List Nat := []
  deriving DecidableEq, Repr

/-- A count landing, merged at its site or on its way to the sync store (R292). -/
structure Landing where
  site : Nat
  obj : Nat
  inc : Nat
  status : Nat
  since : Nat
  deriving DecidableEq, Repr

/-- A stitch that came to a site and waits for its destination adapter: site, delivering plane and wavelength, stitch. -/
structure Arrived where
  site : Nat
  plane : Nat
  k : Nat
  st : Stitch
  deriving DecidableEq, Repr

/-- Transport beyond its registers (R154 to R174). -/
structure Xport where
  nextSeq : List ((Nat × Nat × Nat) × Nat) := []
  out : List OutEntry := []
  waiting : List (Nat × Stitch) := []
  stalled : List (Nat × Stitch) := []
  arrived : List Arrived := []
  acks : List AckPend := []
  nacks : List NackPend := []
  slots : List RqSlot := []
  refusals : List Refusal172 := []
  /-- Slots used in this row: source, destination, tenant (R165). -/
  used : List ((Nat × Nat × Nat) × Nat) := []
  /-- Slots in succession that went to other classes than 0: source, destination, tenant (R166). -/
  streak : List ((Nat × Nat × Nat) × Nat) := []
  /-- Tenant served last under rule 2 of R165: source, destination. -/
  turn : List ((Nat × Nat) × Nat) := []
  /-- Ingress credits in use: source, destination, pool 0 requests, 1 responses (R168). -/
  credits : List ((Nat × Nat × Nat) × Nat) := []
  /-- Freed entries not yet returned, and the fabric cycle in which the first of a part-batch was freed. -/
  freed : List ((Nat × Nat × Nat) × Nat) := []
  freedAt : List ((Nat × Nat × Nat) × Nat) := []
  /-- The slot calendars of the row (R165, R233): S of each port that was Up at the boundary, and SHARE of each tenant then, zero where it was not enabled. -/
  cal : List ((Nat × Nat) × Nat) := []
  shares : List (Nat × Nat) := []
  sends : List SendMsg := []
  /-- The fabric cycle in which each SEND that waits at its adapter arrived (R174). -/
  arrivedAt : List (Arrived × Nat) := []
  /-- Landings being merged at a site, and merged landings on their way (R292). -/
  merging : List Landing := []
  landings : List Landing := []
  /-- Stitches that left the package on a port lane: port and stitch, newest last, until the port's frame takes them. -/
  done : Option Completion := none
  /-- Completions of marked requests that their requesters have not taken: mark and completion, oldest first. -/
  comps : List (Nat × Completion) := []
  deriving DecidableEq, Repr

/-- An armed pattern of a tenant (R183, R184): pattern, mode, row, sync object and value; once triggered, the row at whose boundary it applies
and how often it was deferred. -/
structure ArmedPattern where
  tenant : Nat
  pattern : Nat
  mode : Nat
  row : Nat
  sync : Nat
  value : Nat
  target : Option Nat
  deferrals : Nat
  /-- The row in which it was armed. -/
  since : Nat := 0
  deriving DecidableEq, Repr

/-- A run at the site that pushes it (R189 to R193), or at an edge site for a port (R222). `e` is the circuit's plane index, or 112 plus the port.
`todo` holds the groups not yet sent as (group, lane, order), where the order rises with every re-deal of the circuit (R193); `sent` the groups in
flight as (group, lane, link sequence). The data comes from memory at `src`, or for a run that an edge site carries on from the run landing there that
`relayOf` names. `pull` is the request that the run's answer answers: the site that answers and the stitch (R195, R222). -/
structure SrcRun where
  site : Nat
  e : Nat
  runNo : Nat
  opening : Stitch
  startLane : Nat
  deal : List Nat
  todo : List (Nat × Nat × Nat)
  sent : List (Nat × Nat × Nat)
  src : Nat
  srcLocal : Bool
  relayOf : Option (Nat × Nat × Nat)
  opened : Bool
  answered : Bool
  pull : Option (Nat × Stitch)
  /-- Whether its destination has answered it, the answer being under way (R192). -/
  landed : Bool := false
  deriving DecidableEq, Repr

/-- A run at the site where it lands (R191): circuit, or 128 plus the port it comes in by; the opening; the groups still to come as (group, lane,
order); the first error met; and at an edge site that carries the run on, the groups that have come (R222). -/
structure DstRun where
  site : Nat
  e : Nat
  runNo : Nat
  opening : Stitch
  todo : List (Nat × Nat × Nat)
  status : Nat
  relay : Bool
  got : List (Nat × List Nat)
  deriving DecidableEq, Repr

/-- A run request that waits for a standing circuit (R189): site, destination, opening, source address and mode, row of the request. -/
structure RunWait where
  site : Nat
  opening : Stitch
  src : Nat
  srcLocal : Bool
  relayOf : Option (Nat × Nat × Nat)
  pull : Option (Nat × Stitch)
  row : Nat
  deriving DecidableEq, Repr

/-- Circuits and runs beyond their registers (R175 to R198). -/
structure Circuits where
  armed : List ArmedPattern := []
  src : List SrcRun := []
  dst : List DstRun := []
  waits : List RunWait := []
  /-- The lane that took the last group, per circuit or port (R190). -/
  start : List (Nat × Nat) := []
  /-- Re-deals made so far, per circuit or port (R193); run numbers of ports (R222). -/
  redeals : List (Nat × Nat) := []
  portRuns : List (Nat × Nat) := []
  /-- RUN frames accepted on a lane whose run is not open yet (R191). -/
  early : List ((Nat × Nat × Nat) × Frame) := []
  /-- A port assignment agreed and waiting (R196): port, tenant, lanes. -/
  assigning : List (Nat × Nat × Nat) := []
  /-- Assignments in effect (R196): port, tenant, lanes. -/
  reserved : List (Nat × Nat × Nat) := []
  /-- Circuits pointed at the last boundary: plane index, row, the lanes that need cold acquisition (R185). -/
  fresh : List (Nat × Nat × List Nat) := []
  /-- The circuits that were drained at cycle 2,000 of the row (R184); none before that cycle. -/
  drainedAt : Option (List Nat) := none
  /-- The run deal of each side of a port as of the last boundary, and as noted at cycle 2,000 for the next (R222): 112 + port outgoing, 128 + port incoming. -/
  portDeal : List (Nat × List Nat) := []
  dealNext : Option (List (Nat × List Nat)) := none
  /-- Ports whose lanes that change hands retrain (R196), and ports whose present partner has the matching assignment (R197). -/
  retraining : List Nat := []
  matched : List Nat := []
  deriving DecidableEq, Repr

/-- A stitch in an edge site's pools or detour queue (R234, R240): the edge site; the port and pool it came in by, or the site of this package it
came from; the time at which it was found at the head of its queue without credit, in fabric cycles; the row it entered the detour queue. -/
structure PoolEntry where
  edge : Nat
  fromPort : Option (Nat × Nat)
  fromSite : Option Nat
  st : Stitch
  since : Option Nat
  row : Nat
  /-- The lane that delivered it: plane and wavelength, or the port's lane; 63 and 31 where none did (R148, R232). -/
  plane : Nat := 63
  k : Nat := 31
  deriving DecidableEq, Repr

/-- A spare change or a calibration move agreed on a port (R216, R217): port, incoming or outgoing, logical lane, carrier, boundary row. -/
structure SpareMove where
  port : Nat
  incoming : Bool
  lane : Nat
  carrier : Nat
  row : Nat
  cal : Bool
  ending : Bool
  deriving DecidableEq, Repr

/-- A port's departure (R246): port, dark row, whether the port alone departs. -/
structure Departing where
  port : Nat
  darkRow : Nat
  single : Bool
  deriving DecidableEq, Repr

/-- The edge ports and system routing beyond their registers (R199 to R250). -/
structure Edge where
  pools : List PoolEntry := []
  detour : List PoolEntry := []
  /-- Stitches chosen for a port and not yet in a frame. -/
  portQ : List (Nat × PoolEntry) := []
  /-- Stitches that an edge site passes on over the skeins of this package: edge site, next site, entry. -/
  relay : List (Nat × Nat × PoolEntry) := []
  /-- Published depth of each port and of each edge site's detour queue (R231). -/
  pubDepth : List (Nat × Nat) := []
  pubDetour : List (Nat × Nat) := []
  /-- Entries sent, entries the partner has freed, entries freed here: by port and pool, since the port came Up (R235). -/
  sent : List ((Nat × Nat) × Nat) := []
  partnerFreed : List ((Nat × Nat) × Nat) := []
  freed : List ((Nat × Nat) × Nat) := []
  /-- Entries freed here as of cycle 2,000 of the row, which the credit words of its markers carry (R235); none before that cycle. -/
  freedMark : Option (List ((Nat × Nat) × Nat)) := none
  /-- TRAIN frames that came on lanes of an Up port in its last frame slots: port, slot, lanes (R219). -/
  trains : List (Nat × Nat × List Nat) := []
  /-- Lanes of a port whose streams lost alignment: port, row, lanes (R219). -/
  misaligned : List (Nat × Nat × List Nat) := []
  /-- Ports that were held down when EN was cleared, with their reasons (R221). -/
  heldOff : List (Nat × Nat) := []
  /-- Escaped stitches on their way between two edge sites of this package along their ring: next edge, stitch, the port each came in by (R237). -/
  ringHops : List (Nat × Stitch × Nat) := []
  /-- Ports whose loops hold for missing light and since when; ports whose light has returned and when (R209). -/
  lightLost : List (Nat × Nat) := []
  lightBack : List (Nat × Nat) := []
  /-- Times of the downs of a port, in rows (R221); training restarts and start time of the training in progress (R214). -/
  downs : List (Nat × Nat) := []
  /-- The row expected in the incoming stream of a port lane (R206, R212): port and lane. -/
  inRow : List ((Nat × Nat) × Nat) := []
  restarts : List (Nat × Nat) := []
  training : List (Nat × Nat) := []
  /-- The last sequences accepted by incoming lane at a down (R220); parts of the partner's record that have come; rows of the downs that wait for it. -/
  lastSeq : List ((Nat × Nat) × Nat) := []
  record : List ((Nat × Nat) × List Nat) := []
  waiting : List (Nat × Nat) := []
  /-- Port engines that have failed (R221). -/
  engineFailed : List Nat := []
  /-- Link messages to send or being repeated: port, word, first row (R215). -/
  msgs : List (Nat × Nat × Nat) := []
  /-- Link messages taken: port and word, so that a repeat is taken once. -/
  taken : List (Nat × Nat) := []
  moves : List SpareMove := []
  departing : List Departing := []
  dark : List Nat := []
  runs : List PatRun := []
  inj : List Injection := []
  /-- Codewords that a port lane's receiver has decoded, by port and lane: the row of the stream, those taken in it, and those flagged uncorrectable (R204, R205). -/
  fec : List ((Nat × Nat) × (Nat × List Nat × List Nat)) := []
  /-- Data lanes that carry lane 39's stream (R213): port, incoming, data lane. -/
  ctrlOn : List (Nat × Bool × Nat) := []
  deriving DecidableEq, Repr

/-- A partial held at a combining unit (R267): the unit (edge site E0 to E3, then memory sites M0 to M7), the context, the fields that its stitches
share, the accumulated elements (FP32 or INT64 bits), the contributions, the stitches merged, and the row in which it began. -/
structure Partial where
  unit : Nat
  ctx : Nat
  key : Stitch
  acc : List Nat
  n : Nat
  held : List Stitch
  row : Nat
  deriving DecidableEq, Repr

/-- An address slot of a deterministic context at a memory site (R271): its contributions, and the row of the first. -/
structure DetSlot where
  unit : Nat
  ctx : Nat
  key : Stitch
  got : List Stitch
  row : Nat
  deriving DecidableEq, Repr

/-- The answer records of a partial that an edge site has released (R268): the released stitch by its flow and sequence, and the stitches to answer. -/
structure RelayRec where
  edge : Nat
  ctx : Nat
  node : Nat
  tenant : Nat
  seq : Nat
  held : List Stitch
  deriving DecidableEq, Repr

/-- An MC_STORE whose copies wait for a credit on every child port (R277): the edge site, the stitch, and where its entry came from. -/
structure McWait where
  edge : Nat
  st : Stitch
  fromPort : Option (Nat × Nat)
  fromSite : Option Nat
  plane : Nat := 63
  k : Nat := 31
  deriving DecidableEq, Repr

/-- Reductions and multicast beyond their registers (R261 to R278). -/
structure Combining where
  partials : List Partial := []
  slots : List DetSlot := []
  relays : List RelayRec := []
  mcWait : List McWait := []
  /-- Copies on their way to another edge site of this package, and the child port each is for. -/
  mcHop : List (Nat × Stitch) := []
  deriving DecidableEq, Repr

/-- A sync object (R281): the fields of its two words. An unassigned object is not listed. -/
structure SyncObj where
  kind : Nat
  tenant : Nat
  error : Nat := 0
  abandoned : Bool := false
  held : Bool := false
  count : Nat := 0
  done : Bool := false
  target : Nat := 0
  generation : Nat := 0
  parties : Nat := 0
  ownerNode : Nat := 0
  ownerSite : Nat := 0
  ownerCore : Nat := 0
  leased : Bool := false
  expiry : Nat := 0
  /-- TARGET or PARTIES of its allocation, to which a frog returns it (R290, R302). -/
  alloc : Nat := 0
  deriving DecidableEq, Repr

/-- Who waits on a sync object: the requester of a SYNC_OP stitch, or the WAIT command at the head of a command queue. -/
inductive Waiter where
  | stitch (st : Stitch)
  | queue (tenant queue : Nat)
  deriving DecidableEq, Repr

/-- A held wait (R286): object, waiter, condition, value, row of arrival, limit in rows; for an ARRIVE the object before it (R285). -/
structure HeldWait where
  obj : Nat
  who : Waiter
  cond : Nat
  value : Nat
  row : Nat
  limit : Nat
  before : Option SyncObj := none
  deriving DecidableEq, Repr

/-- A reset of a lock owner: node, site, core, row; ACQUIRE from it is answered BUSY for 2 rows (R289). -/
structure OwnerReset where
  node : Nat
  site : Nat
  core : Nat
  row : Nat
  deriving DecidableEq, Repr

/-- The sync store beyond its registers, and the results of waits for command queues. -/
structure SyncStore where
  objs : List (Nat × SyncObj) := []
  waits : List HeldWait := []
  /-- Locks whose lease fell due while SYN.CFG.LEASE_HOLD was set (R289). -/
  due : List Nat := []
  /-- Partitions reset at this package, with the row: every owner of such a partition is one that was reset (R289). -/
  partResets : List (Nat × Nat) := []
  resets : List OwnerReset := []
  /-- Answers to WAIT commands: tenant, queue, result code, COUNT of the object. -/
  answered : List ((Nat × Nat) × (Nat × Nat)) := []
  deriving DecidableEq, Repr

/-- What the last TIME_EXCH of a port's partner said (R296, R297): its state, source priority, hops and source node; whether the two asymmetries agree; the
offset to it in 1/16 ns. -/
structure TimeEnd where
  port : Nat
  state : Nat
  priority : Nat
  hops : Nat
  source : Nat
  agree : Bool
  theta : Int
  deriving DecidableEq, Repr

/-- The time service beyond its registers (R294 to R300). -/
structure TimeSvc where
  ends : List TimeEnd := []
  /-- Ports whose mismatch of asymmetry has been counted. -/
  counted : List Nat := []
  /-- Ports that may not be parent, and the row until which (R300). -/
  barred : List (Nat × Nat) := []
  /-- Updates in succession within 2 ns; the integral part of the steer in 0.001 ppm. -/
  good : Nat := 0
  integral : Int := 0
  /-- T at which holdover began. -/
  heldSince : Nat := 0
  /-- Row of the last exchange sent on a port. -/
  sentRow : List (Nat × Nat) := []
  /-- A step of the row counter that waits for its boundary, in rows (R299). -/
  step : Option Int := none
  deriving DecidableEq, Repr

/-- What a suspended thread waits for (R309, R317 to R320): a free entry of a queue; a ticket of a queue; the other threads of its block; the answers of its far stores and
atomics; the answer of a far access or of a SYNC_OP; nothing, having ended. -/
inductive ThreadWait where
  | none
  | push (q : Nat)
  | ticket (q ticket rd : Nat)
  | barrier
  | fence (rd : Nat)
  | answer
  | ended
  deriving DecidableEq, Repr

/-- An access of a thread that has not been answered (R314, R315, R318): what is to be done with the answer. -/
inductive FarKind where
  | load (rd bytes : Nat) (signed : Bool)
  | loadF (rd bytes : Nat)
  | store
  | amo (rd bytes : Nat)
  | sop (rd : Nat) (count : Bool)
  deriving DecidableEq, Repr

/-- An outstanding access: the tag under which its completion comes, byte in its block, kind. -/
structure FarOp where
  tag : Nat
  start : Nat
  kind : FarKind
  deriving DecidableEq, Repr

/-- A thread (R309): integer and floating-point registers, pc, fcsr, FARERR, what it waits for, its outstanding accesses, instructions retired. -/
structure Thread where
  x : List Nat
  f : List Nat
  pc : Nat
  fcsr : Nat := 0
  farErr : Nat := 0
  wait : ThreadWait := .none
  far : List FarOp := []
  retired : Nat := 0
  deriving DecidableEq, Repr

/-- A resident block (R314, R331): where it runs (die, core, slot of the core), the launch it belongs to, its number, tenant, threads per block, scratch region, valid far
windows, threads. -/
structure Block where
  die : Nat
  core : Nat
  slot : Nat
  src : CmdSrc
  idx : Nat
  bid : Nat
  tenant : Nat
  bdim : Nat
  scratch : Nat
  bytes : Nat
  windows : List (Nat × Nat)
  threads : List Thread
  deriving DecidableEq, Repr

/-- A launch (R331): its command, die, tenant, physical cores in order of their logical numbers, and parameters; the next BID to place, blocks ended. -/
structure Launch where
  src : CmdSrc
  idx : Nat
  die : Nat
  tenant : Nat
  cores : List Nat
  bdim : Nat
  blocks : Nat
  bytes : Nat
  pc : Nat
  arg : Nat
  windows : List (Nat × Nat)
  next : Nat := 0
  ended : Nat := 0
  deriving DecidableEq, Repr

/-- A part of an engine's work: the bytes of one destination block or run (R326), number `n` of its descriptor. `parts` are the pieces of the source still to be read
(global address, bytes), `got` the bytes read, `dst` the global address written, `how` the kind of write: 0 store, 1 reduce, 2 multicast, 3 atomic add, 4 push run,
5 pull run, 6 atomic. -/
structure Xfer where
  n : Nat
  dst : Nat
  parts : List (Nat × Nat)
  got : List Nat := []
  how : Nat := 0
  /-- The stream bytes that must be released before this part is read (R328). -/
  gate : Nat := 0
  /-- The tag of the stitch or run on its way. -/
  flight : Option Nat := none
  deriving DecidableEq, Repr

/-- A descriptor in an engine queue (R319 to R321): its ticket, its 64 bytes, the DMA command behind it; whether the engine has begun, the work left, the errors met by
part number, the status that its work ends with where none was met, the status once its work has ended; for a STREAM, the parts in all and the landed parts counted. -/
structure Desc where
  ticket : Nat
  bytes : List Nat
  cmd : Option (CmdSrc × Nat) := none
  begun : Bool := false
  work : List Xfer := []
  errs : List (Nat × Nat) := []
  final : Nat := 0
  status : Option Nat := none
  total : Nat := 0
  landed : Nat := 0
  deriving DecidableEq, Repr

/-- A thread suspended in EPUSH (R320), in the order of suspension. -/
structure PushWait where
  die : Nat
  core : Nat
  q : Nat
  slot : Nat
  tid : Nat
  rd : Nat
  bytes : List Nat
  deriving DecidableEq, Repr

/-- The compute dies beyond their registers (R303 to R335). Queues are named by die, core and queue. -/
structure Compute where
  blocks : List Block := []
  launches : List Launch := []
  queues : List ((Nat × Nat × Nat) × List Desc) := []
  /-- Tickets done and their statuses, newest last (R320). -/
  done : List ((Nat × Nat × Nat) × List (Nat × Nat)) := []
  pushers : List PushWait := []
  /-- The next tag of a request. -/
  tag : Nat := 1
  deriving DecidableEq, Repr

/-- The B buffer of a matrix engine (R343, R356): depth K, format code, columns loaded, elements in order of column and then k, scales in order of column and block. -/
structure MxeB where
  k : Nat
  fmt : Nat
  cols : Nat
  elems : List Nat
  scales : List Nat
  deriving DecidableEq, Repr

/-- The matrix engines beyond their registers (R341, R343): accumulator tiles by die, core and tile, row-major, an absent one all zero; B buffers. -/
structure Mxe where
  tiles : List ((Nat × Nat × Nat) × List Nat) := []
  bufs : List ((Nat × Nat) × MxeB) := []
  deriving DecidableEq, Repr

/-- An entry of a snoop filter (R394): line address, the view address and tenant under which the line was filled (R403), which dies hold the line, and the
die that may hold it modified. The list is in order of allocation, oldest first. -/
structure SnoopEntry where
  line : Nat
  view : Nat
  tenant : Nat
  dies : List Nat
  owner : Option Nat
  deriving DecidableEq, Repr

/-- What waits at an owning site for recalls or for zeroing (R390, R395): a stitch with the lane that delivered it, what the error correction finds and its place in memory when
it is performed; the landing of a partial; of a deterministic slot; of a group of a run. -/
inductive ParkedOp where
  | stitch (plane k ecc place : Nat) (st : Stitch)
  | landing (place ecc : Nat) (p : Partial)
  | slot (place ecc : Nat) (d : DetSlot)
  | group (e runNo g : Nat) (tenant : Nat) (blocks : List (List Nat))
  /-- The line is wanted for an access of the package itself, which is made again once the recalls are answered. -/
  | probe
  deriving DecidableEq, Repr

/-- A parked access: the site, the access, the line it waits for and the dies still to answer, whether they may keep a shared copy, whether the line is
recalled to free its filter entry (R394), the frame that is being zeroed, the time in fabric cycles. -/
structure ParkedAccess where
  site : Nat
  op : ParkedOp
  line : Nat
  dies : List Nat
  share : Bool
  evict : Bool
  frame : Option Nat
  since : Nat
  deriving DecidableEq, Repr

/-- A recall sent to a processor die (R403): owning site, die, line, share or invalidate, tenant and sequence of its LOAD, time in fabric cycles. -/
structure Recall where
  site : Nat
  die : Nat
  line : Nat
  share : Bool
  tenant : Nat
  seq : Nat
  since : Nat
  deriving DecidableEq, Repr

/-- The memory sites beyond their registers (R389 to R395): valid translation entries (index, tenant, frame), frames being zeroed, the snoop filters, parked
accesses and recalls. -/
structure MemSites where
  xlat : List (Nat × (Nat × Nat)) := []
  zeroing : List Nat := []
  snoop : List SnoopEntry := []
  parked : List ParkedAccess := []
  recalls : List Recall := []
  /-- Retired 4 KiB pages of stacked SRAM: die and page (R307). -/
  sramRetired : List (Nat × Nat) := []
  /-- Cores, by aperture, whose scratch an access has found with an uncorrectable error and which are to be fenced (R306). -/
  scratchBad : List Nat := []
  deriving DecidableEq, Repr

/-- The processor dies and host I/O beyond their registers (R398 to R413). -/
structure HostIo where
  /-- DEPTH and RATE that an output modulates with now: output, then the two (R412). -/
  modulation : List (Nat × (Nat × Nat)) := []
  /-- Sub-ports whose DMA a frog has stopped until their PORT_TENANT changes (R414). -/
  dmaStopped : List Nat := []
  /-- Pending identities of the IMSIC files: offset of the file in the site-local window, identity (R404, R408). -/
  imsic : List (Nat × Nat) := []
  /-- The fault queues of the IOMMUs: sub-port, address, oldest first (R409). -/
  dmaFaults : List (Nat × Nat) := []
  /-- Harts to which bind-off has raised a machine external interrupt: die and hart (R446). -/
  meip : List (Nat × Nat) := []
  /-- The words of the IOMMU register files (R407), by PCS offset; an offset that is not listed reads zero. -/
  iommu : List (Nat × Nat) := []
  deriving DecidableEq, Repr

/-- A command that was fetched and has not completed (R417, R421): where it came from, its packet index, the 64 bytes of its packet; whether it has started,
whether it has passed its commit point (R427), the bytes it works on where it is not done at once, and its status with RESULT0 and RESULT1 once it has ended. -/
structure Cmd where
  src : CmdSrc
  idx : Nat
  pkt : List Nat
  started : Bool := false
  committed : Bool := false
  aux : List Nat := []
  result : Option (Nat × Nat × Nat) := none
  deriving DecidableEq, Repr

/-- A bind-off in progress (R446): time of its start in fabric cycles, GRACE and HOST_WAIT in seconds, the DEPARTURE reason, the part of the timeline reached,
and whether a full cast-on follows (R440, R447). -/
structure BindOff where
  since : Nat
  grace : Nat
  wait : Nat
  reason : Nat
  phase : Nat
  restart : Bool
  deriving DecidableEq, Repr

/-- The command interface beyond its registers (R415 to R430): the commands fetched and not completed, the next number of a fabric-manager command,
and the bind-off in progress. -/
structure Commands where
  cmds : List Cmd := []
  fmNext : Nat := 0
  binding : Option BindOff := none
  deriving DecidableEq, Repr

/-- A crash dump of a control unit (R448): unit, cause, timestamp, operating seconds, power cycles, image version; `id` names the words that its firmware's state decides. -/
structure Dump where
  unit : Nat
  cause : Nat
  time : Nat
  secs : Nat
  cycles : Nat
  version : Nat
  id : Nat
  deriving DecidableEq, Repr

/-- A boot-order record (R440): the slot named first, TRIAL, its sequence number. -/
structure BootOrder where
  first : Nat
  trial : Bool
  seq : Nat
  deriving DecidableEq, Repr

/-- The host table of the installer area (R418): HBM pages, stacked SRAM pages, SHARE. -/
structure HostTable where
  pages : Nat := 8192
  sram : List Nat := []
  share : Nat := 16
  deriving DecidableEq, Repr

/-- An event record (R543): snapshot values last. `pending` marks a trip record that waits for its acknowledgement, `seq` its sequence (R526). -/
structure EventRec where
  code : Nat
  tenant : Option Nat
  unit : Nat
  args : List Nat
  time : Nat
  timeState : Nat
  secs : Nat
  cycles : Nat
  count : Nat := 0
  last : Nat := 0
  late : Bool := false
  nv : Bool := false
  trig : Bool := false
  snaps : List Nat := []
  deriving DecidableEq, Repr

/-- A record of the trip reserve (R525, R548): its event record; for a trip its cause, zone, sensor and reading, sequence, whether it waits for acknowledgement, the rails in mV and the
zone temperatures in °C; whether only the header could be written. -/
structure TripRec where
  record : EventRec
  cause : Nat
  zone : Nat
  sensor : Nat
  reading : Nat
  seq : Nat
  pending : Bool
  rails : List Nat
  temps : List Int
  headerOnly : Bool
  deriving DecidableEq, Repr

/-- What lasts through the loss of power: the boot flash and the fuses (R436, R438 to R441, R448, R502, R544, R548). -/
structure Flash where
  slotA : List Host.Cell := []
  slotB : List Host.Cell := []
  /-- The copies of the boot-order record. -/
  orders : List BootOrder := []
  /-- The saved installer tables as register offsets and words, and the host table. -/
  tables : List (Nat × Word) := []
  host : HostTable := {}
  /-- The installer keys by slot: 96 bytes. -/
  keys : List (Nat × List Nat) := []
  /-- Dumps of either unit, newest first. -/
  dumps : List Dump := []
  secs : Nat := 0
  cycles : Nat := 0
  /-- The general part and the trip reserve of the non-volatile records, and the next trip sequence. -/
  records : List EventRec := []
  reserve : List TripRec := []
  tripSeq : Nat := 0
  tripOver : Bool := false
  /-- The fused anti-rollback count; trims in 5 mV steps above −40 mV are kept as the register field; retired points: die, TRIM, MAX_POINT. -/
  fused : Nat := 0
  trims : List (Nat × (Nat × Nat)) := []
  deriving DecidableEq, Repr

/-- The security block and boot beyond their registers (R433 to R443). -/
structure Security where
  /-- Time in nanoseconds at which the nonce ends; times of the failed verifications; end of a lockout; ends of sessions. -/
  nonceUntil : Option Nat := none
  fails : List Nat := []
  lockedUntil : Option Nat := none
  ends : List (Nat × Nat) := []
  /-- The image that the boot ROM collects in recovery (R443). -/
  image : List Host.Cell := []
  /-- Live crash dumps (R448). -/
  live : List Dump := []
  /-- Time in nanoseconds at which cast-on step 11 began (R444). -/
  portsAt : Nat := 0
  /-- The cast-on in progress releases FAULT_n at the end of step 2 (R565). -/
  release : Bool := true
  /-- The boot ROM has loaded the PCU firmware of a slot in this cast-on (R442). -/
  booted : Bool := false
  /-- The record of the installer tables does not read back whole in this cast-on (R438). -/
  tablesBad : Bool := false
  deriving DecidableEq, Repr

/-- The event recorder's volatile store, its freeze queue and the end of a freeze in nanoseconds (R543 to R550). -/
structure Recorder where
  records : List EventRec := []
  frozen : Option Nat := none
  queue : List EventRec := []
  /-- Nanoseconds of the present operating second (R544). -/
  nanos : Nat := 0
  deriving DecidableEq, Repr

/-- An error report made at a fault and not yet delivered (R464): the tenants whose rings take it, and the captured fields. -/
structure Report where
  unit : Nat
  tenants : List Nat
  pkg : Bool
  opclass : Nat
  opcode : Nat
  cause : Nat
  action : Nat
  time : Nat
  secs : Nat
  cycles : Nat
  temp : Nat
  rail : Nat
  seq : Nat
  deriving DecidableEq, Repr

/-- A frog that is armed (R461): tenant and the row F at whose boundary it acts. -/
structure FrogArm where
  tenant : Nat
  row : Nat
  deriving DecidableEq, Repr

/-- An acknowledgement that a member owes once its frog has taken effect (R461): tenant, origin node, FROG_ID, CAUSE. -/
structure FrogWant where
  tenant : Nat
  origin : Nat
  id : Nat
  cause : Nat
  deriving DecidableEq, Repr

/-- A PART_FROG that waits for its members (R461): its command, tenant, SPID, FROG_ID, row, the nodes that have acknowledged. -/
structure FrogWait where
  src : CmdSrc
  idx : Nat
  tenant : Nat
  spid : Nat
  id : Nat
  row : Nat
  acked : List Nat
  deriving DecidableEq, Repr

/-- A digest running or queued (R468 to R470): die, its command, tenant, region. -/
structure Digest where
  die : Nat
  src : CmdSrc
  idx : Nat
  tenant : Nat
  addr : Nat
  len : Nat
  deriving DecidableEq, Repr

/-- Partitions beyond their registers (R450 to R470). -/
structure Partitions where
  /-- Member tables (R457). -/
  members : List (Nat × List Nat) := []
  frogs : List FrogArm := []
  wants : List FrogWant := []
  waits : List FrogWait := []
  /-- Acknowledgements that wait for the token: node and DATA (R462). -/
  acks : List (Nat × List Nat) := []
  /-- Tenants in FROGGED and the row of their frog; the SPID under which it took effect is that of the tenant (R462). -/
  draining : List (Nat × Nat) := []
  /-- Tenants whose circuits are parked at the next boundary (R455). -/
  park : List Nat := []
  /-- Digests in order of arrival; the first of a die runs (R470). -/
  digests : List Digest := []
  /-- Frogs started by this package as origin (R460). -/
  started : Nat := 0
  deriving DecidableEq, Repr

/-- An announced frequency change (R479): die, MULT, target row, and the time in nanoseconds from which the rail stands at the new voltage (R507). -/
structure FreqChange where
  die : Nat
  mult : Nat
  row : Nat
  settled : Nat
  deriving DecidableEq, Repr

/-- A frequency change in progress (R480): die, new MULT, row of its boundary, whether a PLL of the die was lost on the way, whether every other PLL has locked. -/
structure FreqRun where
  die : Nat
  mult : Nat
  row : Nat
  lost : Bool
  locked : Bool
  deriving DecidableEq, Repr

/-- A PLL that relocks outside a frequency change: of a region under domain reset (R485), of a region whose gate unit is being ungated (R490), of a host I/O slot (R486); since which
row, and whether it has locked. -/
structure Relock where
  region : Nat
  row : Nat
  locked : Bool
  deriving DecidableEq, Repr

/-- The clocks beyond their registers (R472 to R492). -/
structure Clocks where
  announced : List FreqChange := []
  /-- Changes dropped at their row for want of the token, which the unit that takes it announces again: die and MULT (R29). -/
  dropped : List (Nat × Nat) := []
  running : List FreqRun := []
  /-- Domain resets and host I/O slots that relock. -/
  resets : List Relock := []
  /-- Regions of units that are being ungated. -/
  waking : List Relock := []
  /-- REFCLK is flagged absent (R487). -/
  absent : Bool := false
  /-- Failed relocks of a host I/O slot since its loss (R486). -/
  failed : List (Nat × Nat) := []
  /-- Fabric PLLs lost in this power-on period (R474). -/
  fabLost : List Nat := []
  deriving DecidableEq, Repr

/-- Why the emergency path holds a compute die (R503): the board brake, a thermal rule 1, stopped flow, a power fail, no control unit. -/
inductive Emergency where
  | brake | thermal | flow | powerFail | noToken
  deriving DecidableEq, Repr

/-- Power management beyond its registers (R493 to R516). -/
structure Power where
  /-- What the sensors measured in the last 1,024 rows, newest first (R500). -/
  hist : List Telemetry := []
  /-- Energy at the input in nanojoules (R500). -/
  energy : Nat := 0
  /-- The issue fraction that the power manager has set for a die (R506), which the current limit and the emergency path override. -/
  issue : List (Nat × Nat) := []
  /-- Compute dies that the emergency path holds, and why (R503). -/
  emergency : List (Nat × Emergency) := []
  /-- Time in nanoseconds at which the power target ends (R510). -/
  targetUntil : Nat := 0
  /-- Regions whose clocks are stretched (R508), and droop events of the row by die. -/
  stretching : List Nat := []
  droops : List (Nat × Nat) := []
  /-- Row before which points do not rise after a brake (R512); time of the brake's last record, and the row of the assertion by which its repeats know it (R513). -/
  releaseRow : Nat := 0
  brakeAt : Nat := 0
  brakeRow : Nat := 0
  /-- The brake was asserted as PWR_GOOD rose, and no LAUNCH is admitted before the compute dies are in the minimum state (R513). -/
  holdLaunch : Bool := false
  /-- Whether E limited a die in the last decision (R511), and the dies that a droop burst lowered. -/
  limited : Bool := false
  /-- The present slack window (R509): slack rows, die rows, rows. -/
  slack : Nat × Nat × Nat := (0, 0, 0)
  /-- Dies whose trim has risen and whose rail follows at a boundary (R502). -/
  trimDue : List Nat := []
  deriving DecidableEq, Repr

/-- A thermal zone (R517 to R520): its samples as time in nanoseconds and temperature in 0.125 °C, newest first; since when every sensor reads below THROTTLE − 7 °C; whether rule 1
holds it and since when it no longer meets rule 1; since when the condition of rule 5 holds. -/
structure Zone where
  samples : List (Nat × Int) := []
  cool : Option Nat := none
  ruleOne : Bool := false
  clear : Option Nat := none
  calm : Option Nat := none
  deriving DecidableEq, Repr

/-- The thermal hub beyond its registers (R517 to R531). -/
structure Thermal where
  zones : List (Nat × Zone) := []
  /-- Broken sensors: zone and sensor (R522). -/
  broken : List (Nat × Nat) := []
  /-- The ceiling that a zone gives a die, where it is below MAX_POINT: zone and die, point (R520). -/
  ceils : List ((Nat × Nat) × Nat) := []
  /-- Time of the last lowering step of a die under rules 3 and 4. -/
  stepped : List (Nat × Nat) := []
  /-- Dies whose rule-1 hold came from a rate (R520, R511). -/
  rateHeld : List Nat := []
  /-- Flow below FLOW_MIN (R530); inlet or rise out of range. -/
  lowFlow : Bool := false
  hot : Bool := false
  deriving DecidableEq, Repr

/-- The control units beyond their registers (R532 to R540): the row and the time in fabric cycles at which the token was last lost, the lease's expiry in fabric cycles, the cause. -/
structure Pcus where
  lostRow : Nat := 0
  lostAt : Nat := 0
  leaseUntil : Nat := 0
  /-- Units that a debugger holds halted (R539). -/
  halted : List Nat := []
  /-- The maker session that set the lease debug hold (R540). -/
  holdBy : Option Nat := none
  /-- Notices to the fabric manager that wait for the token: CTRL subtype and data (R245). -/
  notices : List (Nat × List Nat) := []
  deriving DecidableEq, Repr

/-- What the package as a whole does (R444, R446, R488, R514, R524, R562, R563): off, held in reset, casting on, running, waiting in the clock-loss safe state, in power fail, in trip
shutdown, resting after bind-off, in recovery. -/
inductive Phase where
  | off | held | castOn | running | safe | powerFail | trip | rest | recovery
  deriving DecidableEq, Repr

/-- What the package drives on the XSPI contacts (R567, R575): nothing (high impedance, XSPI_RESET_n pulled down); 1S-1S-1S at 25 MHz, in which it reads the flash's SFDP; 8D-8D-8D at 200 MHz DTR. In
the two last XSPI_RESET_n is high. -/
inductive Xspi where
  | highZ | sfdp | octal
  deriving DecidableEq, Repr

/-- The contacts of the package (chapter 23). A name ending in N is true while the contact is asserted (low). -/
structure Pins where
  phase : Phase := .off
  vio : Bool := true
  pwrGood : Bool := false
  resetN : Bool := false
  brakeN : Bool := false
  pkgReady : Bool := false
  /-- FAULT_n is held low until the end of cast-on step 2 (R565). -/
  faultN : Bool := true
  thermTripN : Bool := false
  /-- Management address straps as sampled at the rise of PWR_GOOD, the dynamic address of the I3C target, in-band interrupts raised and enabled, read and write length limits (R572,
  R574). -/
  addr : Nat := 0
  dynamic : Option Nat := none
  interrupts : List Nat := []
  interruptsOn : Bool := true
  maxRead : Nat := 253
  maxWrite : Nat := 253
  /-- Devices present on the logical root ports, and since when; sub-ports whose PERST_n is released (R566). -/
  present : List (Nat × Nat) := []
  released : List Nat := []
  /-- Time in nanoseconds at which a slot was enabled, and at which a clock output began to run (R566). -/
  slotOn : List (Nat × Nat) := []
  clockOn : List (Nat × Nat) := []
  xspi : Xspi := .highZ
  /-- Receptacles with a seated plug (R579). -/
  plugs : List Nat := [0, 1, 2, 3]
  /-- The boundary-scan cells and the last instruction and captured data of the test access port (R576, R577). -/
  boundary : Nat := 0
  instruction : Nat := 1
  captured : Nat := 0
  deriving DecidableEq, Repr

/-- The package but for its memory: the registers that were written since reset (the others read as their reset values), the row
counter and the cycle in the row, and the state of every subsystem behind the registers. -/
structure Chip where
  regs : List (Nat × Word) := []
  /-- Row counter (48 bits), the part of the full row number above it (`n div 2^48`) and fabric cycle in the row; whether rows run (R294). -/
  row : Nat := 0
  epoch : Nat := 0
  cyc : Nat := 0
  rowsRun : Bool := false
  /-- Events captured and not yet made records, oldest first, and those lost to a full capture queue (R541, R551). -/
  captured : List Event := []
  captureLost : Nat := 0
  /-- How many free values have been drawn: the model's own field, no register of the package. -/
  drawn : Nat := 0
  /-- Error reports made and not yet delivered, oldest first (R464, R466). -/
  reports : List Report := []
  acc : Access := {}
  opf : Opf := {}
  lanes : Lanes := {}
  xport : Xport := {}
  sync : SyncStore := {}
  mems : MemSites := {}
  light : Light := {}
  tns : Tension := {}
  pcu : Pcus := {}
  pins : Pins := {}
  circ : Circuits := {}
  edge : Edge := {}
  red : Combining := {}
  cmd : Commands := {}
  hio : HostIo := {}
  time : TimeSvc := {}
  comp : Compute := {}
  mxe : Mxe := {}
  part : Partitions := {}
  clk : Clocks := {}
  pwr : Power := {}
  thm : Thermal := {}
  sec : Security := {}
  evr : Recorder := {}
  flash : Flash := {}
  deriving DecidableEq, Repr

/-- A change to the `acc` part of the package. -/
def Chip.onAcc (c : Chip) (g : Access → Access) : Chip := { c with acc := g c.acc }

/-- A change to the `opf` part of the package. -/
def Chip.onOpf (c : Chip) (g : Opf → Opf) : Chip := { c with opf := g c.opf }

/-- A change to the `lanes` part of the package. -/
def Chip.onLanes (c : Chip) (g : Lanes → Lanes) : Chip := { c with lanes := g c.lanes }

/-- A change to the `xport` part of the package. -/
def Chip.onXport (c : Chip) (g : Xport → Xport) : Chip := { c with xport := g c.xport }

/-- A change to the `sync` part of the package. -/
def Chip.onSync (c : Chip) (g : SyncStore → SyncStore) : Chip := { c with sync := g c.sync }

/-- A change to the `mems` part of the package. -/
def Chip.onMems (c : Chip) (g : MemSites → MemSites) : Chip := { c with mems := g c.mems }

/-- A change to the `light` part of the package. -/
def Chip.onLight (c : Chip) (g : Light → Light) : Chip := { c with light := g c.light }

/-- A change to the `tns` part of the package. -/
def Chip.onTns (c : Chip) (g : Tension → Tension) : Chip := { c with tns := g c.tns }

/-- A change to the `pcu` part of the package. -/
def Chip.onPcu (c : Chip) (g : Pcus → Pcus) : Chip := { c with pcu := g c.pcu }

/-- A change to the `pins` part of the package. -/
def Chip.onPins (c : Chip) (g : Pins → Pins) : Chip := { c with pins := g c.pins }

/-- A change to the `circ` part of the package. -/
def Chip.onCirc (c : Chip) (g : Circuits → Circuits) : Chip := { c with circ := g c.circ }

/-- A change to the `edge` part of the package. -/
def Chip.onEdge (c : Chip) (g : Edge → Edge) : Chip := { c with edge := g c.edge }

/-- A change to the `red` part of the package. -/
def Chip.onRed (c : Chip) (g : Combining → Combining) : Chip := { c with red := g c.red }

/-- A change to the `cmd` part of the package. -/
def Chip.onCmd (c : Chip) (g : Commands → Commands) : Chip := { c with cmd := g c.cmd }

/-- A change to the `hio` part of the package. -/
def Chip.onHio (c : Chip) (g : HostIo → HostIo) : Chip := { c with hio := g c.hio }

/-- A change to the `time` part of the package. -/
def Chip.onTime (c : Chip) (g : TimeSvc → TimeSvc) : Chip := { c with time := g c.time }

/-- A change to the `comp` part of the package. -/
def Chip.onComp (c : Chip) (g : Compute → Compute) : Chip := { c with comp := g c.comp }

/-- A change to the `mxe` part of the package. -/
def Chip.onMxe (c : Chip) (g : Mxe → Mxe) : Chip := { c with mxe := g c.mxe }

/-- A change to the `part` part of the package. -/
def Chip.onPart (c : Chip) (g : Partitions → Partitions) : Chip := { c with part := g c.part }

/-- A change to the `clk` part of the package. -/
def Chip.onClk (c : Chip) (g : Clocks → Clocks) : Chip := { c with clk := g c.clk }

/-- A change to the `pwr` part of the package. -/
def Chip.onPwr (c : Chip) (g : Power → Power) : Chip := { c with pwr := g c.pwr }

/-- A change to the `thm` part of the package. -/
def Chip.onThm (c : Chip) (g : Thermal → Thermal) : Chip := { c with thm := g c.thm }

/-- A change to the `sec` part of the package. -/
def Chip.onSec (c : Chip) (g : Security → Security) : Chip := { c with sec := g c.sec }

/-- A change to the `evr` part of the package. -/
def Chip.onEvr (c : Chip) (g : Recorder → Recorder) : Chip := { c with evr := g c.evr }

/-- A change to the `flash` part of the package. -/
def Chip.onFlash (c : Chip) (g : Flash → Flash) : Chip := { c with flash := g c.flash }

/-- Why a step stops with a fault. No command of the table ends so: an access the manual does not allow is answered as the manual
says (a status, an error bit), and the package goes on. -/
inductive Fault where
  /-- Raised by nobody; kept so that the type names a reason. Safe. -/
  | none
  deriving DecidableEq, Repr

/-- Why a step is refused. -/
inductive Refusal where
  /-- The command of that mnemonic has no meaning in the model yet. Safe: the machine stops. -/
  | notModelled (mnemonic : String)
  deriving DecidableEq, Repr

/-- The whole machine: the waiting commands first in first out, the memory (package physical or machine address and byte), the package. -/
structure State where
  pending : List Instr := []
  mem : List Host.Cell := []
  chip : Chip := {}
  deriving DecidableEq, Repr

/-- The machine right after reset: every register at its reset value, nothing listed in memory, no command waiting. -/
def State.reset : State := {}

end Sys2Proof.Machine
end

