-- ==== Sys2Proof/Machine/Ops.lean ====
section
/-! DEFINITION. The named operations over memory, registers, time and the event queue, which every meaning uses. -/

namespace Sys2Proof.Machine

/-! Memory: a list of address and byte pairs, addresses strictly rising, no byte zero; an unlisted address reads as zero. -/

/-- What an unlisted address reads as (DESIGN CHOICE, log entry 2). -/
def memDefault : Byte := 0

/-- The byte at an address. -/
def memGet : List Host.Cell → Nat → Byte
  | [], _ => memDefault
  | c :: cs, a => if c.1 = a then c.2 else memGet cs a

/-- The memory with a byte written at an address, in canonical form: a byte that equals the default is not listed. -/
def memPut : List Host.Cell → Nat → Byte → List Host.Cell
  | [], a, b => if b = memDefault then [] else [(a, b)]
  | c :: cs, a, b =>
    if c.1 = a then (if b = memDefault then cs else (a, b) :: cs)
    else if a < c.1 then (if b = memDefault then c :: cs else (a, b) :: c :: cs)
    else c :: memPut cs a b

/-- Every address of the list lies above `a`, in strictly rising order, and no byte is the default. -/
def memWfFrom : Nat → List Host.Cell → Bool
  | _, [] => true
  | lo, c :: cs => decide (lo ≤ c.1) && c.2 != memDefault && memWfFrom (c.1 + 1) cs

/-- The canonical form of memory: addresses strictly rising, no byte equal to what an unlisted address reads as. -/
def Memory.wf (m : List Host.Cell) : Bool := memWfFrom 0 m

/-- `n` bytes from an address upward, as numbers. -/
def memRead (m : List Host.Cell) (a : Nat) : Nat → List Nat
  | 0 => []
  | n + 1 => (memGet m a).toNat :: memRead m (a + 1) n

/-- Bytes written from an address upward. -/
def memWrite (m : List Host.Cell) (a : Nat) : List Nat → List Host.Cell
  | [] => m
  | b :: bs => memWrite (memPut m a (BitVec.ofNat 8 b)) (a + 1) bs

/-- The little-endian number of `n` bytes at an address. -/
def memNat (m : List Host.Cell) (a n : Nat) : Nat := leNat (memRead m a n)

/-- A number stored as `n` little-endian bytes at an address. -/
def memPutNat (m : List Host.Cell) (a n v : Nat) : List Host.Cell := memWrite m a (leBytes n v)

/-- The memory with every byte from `lo` up to but not at `hi` zero. -/
def memZero (m : List Host.Cell) (lo hi : Nat) : List Host.Cell := m.filter (fun c => !(decide (lo ≤ c.1) && decide (c.1 < hi)))

/-! Registers. -/

/-- The written registers with the word at one offset replaced, offsets strictly rising. -/
def regPut : List (Nat × Word) → Nat → Word → List (Nat × Word)
  | [], o, w => [(o, w)]
  | x :: xs, o, w => if x.1 = o then (o, w) :: xs else if o < x.1 then (o, w) :: x :: xs else x :: regPut xs o w

/-- The word written at an offset, if any. -/
def regGet : List (Nat × Word) → Nat → Option Word
  | [], _ => none
  | x :: xs, o => if x.1 = o then some x.2 else regGet xs o

/-- What the register at an offset holds: the word last put there, or its reset value. -/
def Chip.word (c : Chip) (off : Nat) : Word := (regGet c.regs off).getD (resetWord off)

/-- The register at an offset holds `w` from now on. -/
def Chip.setWord (c : Chip) (off : Nat) (w : Word) : Chip := { c with regs := regPut c.regs off w }

/-- The value of a field. -/
def Chip.rd (c : Chip) (f : FRef) : Nat := fget (c.word f.off).toNat f.hi f.lo

/-- A field takes a value (its low bits, as many as the field has). -/
def Chip.wr (c : Chip) (f : FRef) (v : Nat) : Chip :=
  c.setWord f.off (BitVec.ofNat 32 (fset (c.word f.off).toNat f.hi f.lo v))

/-- Whether a field of one bit is set. -/
def Chip.on (c : Chip) (f : FRef) : Bool := c.rd f == 1

/-- The largest value of a field. -/
def FRef.top (f : FRef) : Nat := 2 ^ (f.hi + 1 - f.lo) - 1

/-- A count in a field rises by `n` and saturates at the field's largest value. -/
def Chip.count (c : Chip) (f : FRef) (n : Nat := 1) : Chip := c.wr f (satAdd f.top (c.rd f) n)

/-- A number in a field falls by `n`, not below zero. -/
def Chip.drop (c : Chip) (f : FRef) (n : Nat := 1) : Chip := c.wr f (c.rd f - n)

/-- A field of which zero acts as one. -/
def Chip.rdPos (c : Chip) (f : FRef) : Nat := max 1 (c.rd f)

/-- A 64-bit or shorter count split over a _LO and a _HI field. -/
def Chip.rdPair (c : Chip) (lo hi : FRef) : Nat := c.rd lo + 2 ^ 32 * c.rd hi

/-- A number written over a _LO and a _HI field. -/
def Chip.wrPair (c : Chip) (lo hi : FRef) (v : Nat) : Chip := (c.wr lo (v % 2 ^ 32)).wr hi (v / 2 ^ 32)

/-- `f` applied for every element of a list, left to right. -/
def Chip.each {α : Type} (c : Chip) (l : List α) (f : Chip → α → Chip) : Chip := l.foldl f c

/-- `f` applied when a condition holds. -/
def Chip.when (c : Chip) (b : Bool) (f : Chip → Chip) : Chip := if b then f c else c

/-! Time. -/

/-- The global timestamp in nanoseconds: T = 1,024 × row + cycle / 2 (R294). -/
def Chip.now (c : Chip) : Nat := 1024 * (2 ^ 48 * c.epoch + c.row) + c.cyc / 2

/-- Whether the mesh stands still, so that nothing passes between sites: in the clock-loss safe state, in power fail, in trip shutdown and at rest after bind-off (R446, R488, R514, R524). -/
def Chip.meshStopped (c : Chip) : Bool := c.pins.phase == .safe || c.pins.phase == .powerFail || c.pins.phase == .trip || c.pins.phase == .rest

/-- The time in fabric cycles. -/
def Chip.cycles (c : Chip) : Nat := 2048 * c.row + c.cyc

/-- The low 16 bits of the row, as result registers hold it. -/
def Chip.row16 (c : Chip) : Nat := c.row % 65536

/-- The row at whose boundary something that needs `n` cycles of notice takes effect: the first boundary at least `n` cycles from now. -/
def Chip.boundaryAfter (c : Chip) (n : Nat) : Nat :=
  if c.cyc + n ≤ 2048 then c.row + 1 else c.row + 1 + (c.cyc + n - 2048 + 2047) / 2048

/-- Operating seconds (R544). -/
def Chip.opSecs (c : Chip) : Nat := c.rd R.EVR_OP_SECS_COUNT

/-! The control token (R534). -/

/-- Whether a PCU holds the control token. -/
def Chip.tokenHeld (c : Chip) : Bool := c.rd R.PCU_LEASE_STATUS_HOLDER != 3

/-! Events. -/

/-- A fresh number for a free value; the count that distinguishes draws goes on. -/
def Chip.draw (c : Chip) : Nat × Chip := (c.drawn, { c with drawn := c.drawn + 1 })

/-- An event raised by a block is taken into the capture queue of 512 entries (R541); overflow is counted (R551). -/
def Chip.event (c : Chip) (code : Nat) (tenant : Option Nat) (unit : Nat) (args : List Nat) : Chip :=
  if c.captured.length < 512 then
    { c with captured := c.captured ++ [{ code := code, tenant := tenant, unit := unit, args := args, time := c.now
                                          timeState := c.rd R.TIME_STATUS_STATE }] }
  else { c with captureLost := c.captureLost + 1 }

/-! The contacts FAULT_n and PKG_READY (R564, R565), and the in-band interrupts of the management interface (R574). -/

/-- An in-band interrupt is raised where the target has a dynamic address and interrupts are enabled. -/
def Chip.interrupt (c : Chip) (n : Nat) : Chip :=
  if c.pins.interruptsOn && c.pins.dynamic.isSome then c.onPins (fun p => { p with interrupts := p.interrupts ++ [n] }) else c

/-- FAULT_n is asserted; interrupt 1 tells it. -/
def Chip.assertFault (c : Chip) : Chip := if c.pins.faultN then c else (c.onPins (fun p => { p with faultN := true })).interrupt 1

/-- PKG_READY takes a level; interrupt 2 tells a change. -/
def Chip.setReady (c : Chip) (b : Bool) : Chip := if c.pins.pkgReady == b then c else (c.onPins (fun p => { p with pkgReady := b })).interrupt 2

/-- A change to the package that leaves memory and the queue alone. -/
def State.onChip (s : State) (f : Chip → Chip) : State := { s with chip := f s.chip }

/-- The outcome of a command: the machine goes on in a next state. -/
abbrev Result := Host.Outcome State Fault Refusal

end Sys2Proof.Machine
end

