-- ==== Sys2Proof/Machine/Events.lean ====
section
/-! DEFINITION. Event codes (R545), the encodings of physical units in reports (R465), and the actions of a report (R464).
A code is a block ID in [15:8] and an event number in [7:0]; the numbers of a block follow its chapter's closing statement,
then the events recorded under its rules in order of their labels (log entry 11). -/

namespace Sys2Proof.Machine

namespace Ev
/-! Base layer (OPF): chapter 02 has no closing statement, so the numbers follow the labels. -/
def testLaneFault : Nat := 0x1E01
def skeinDegraded : Nat := 0x1E02
def substitution : Nat := 0x1E03
/-! Light supply. -/
def lightDip : Nat := 0x0501
def switchOver : Nat := 0x0502
def swap : Nat := 0x0503
def fallbackEntry : Nat := 0x0504
def lightReturn : Nat := 0x0505
def combRestart : Nat := 0x0506
def combFence : Nat := 0x0507
def fbMissing : Nat := 0x0508
/-! Tension control. -/
def swatchFailed : Nat := 0x2101
def swatchAbandoned : Nat := 0x2102
def twinChange : Nat := 0x2103
def gaugeResult : Nat := 0x2104
/-! Lanes: no closing statement. -/
def injectedFence : Nat := 0x2001
/-! Circuits. -/
def patternForced : Nat := 0x5101
def runCut : Nat := 0x5102
def portAssigned : Nat := 0x5103
def chainFailed : Nat := 0x5104
def patternDeferred : Nat := 0x5105
/-! Edge ports. -/
def portDown : Nat := 0x4001
def portUp : Nat := 0x4002
def spareChange : Nat := 0x4003
def calAbandoned : Nat := 0x4004
def portHeld : Nat := 0x4005
/-! Routing. -/
def nodeUnreachable : Nat := 0x4801
def noticeNotSent : Nat := 0x4802
def portHeldRoute : Nat := 0x4803
def noResource : Nat := 0x4804
/-! Reduction and multicast. -/
def detFull : Nat := 0x5001
def detPartial : Nat := 0x5002
def mcDiscard : Nat := 0x5003
def allocNoResource : Nat := 0x5004
/-! Sync store and time. -/
def lockAbandoned : Nat := 0x0801
def netUncorr : Nat := 0x0802
def timeStep : Nat := 0x0601
def timeState : Nat := 0x0602
def domainConflict : Nat := 0x0603
def timeMismatch : Nat := 0x0604
/-! Compute dies, then the sparsity engines of chapter 14. -/
def coreFence : Nat := 0x6001
def pageRetired : Nat := 0x6002
def qpFence : Nat := 0x6003
def threadException : Nat := 0x6004
def nanBatch : Nat := 0x6005
def badMeta : Nat := 0x6006
def panelFull : Nat := 0x6007
/-! Memory sites. -/
def pcRetired : Nat := 0xA001
def recallTimeout : Nat := 0xA002
def partRefused : Nat := 0xA003
def corrBurst : Nat := 0xA004
/-! Processor dies and host I/O. -/
def hartFence : Nat := 0xB801
def dieFence : Nat := 0xB802
def linkDown : Nat := 0xB001
def dpc : Nat := 0xB002
def cxlPoison : Nat := 0xB003
def clockRefused : Nat := 0xB004
/-! Commands, firmware, security (SEC): closing statement of chapter 17, then R429, R430, R437, R438 by label, then R11. -/
def castOn : Nat := 0x5201
def castOnStepFailed : Nat := 0x5202
def slotRejected : Nat := 0x5203
def recoveryEntered : Nat := 0x5204
def trialFallback : Nat := 0x5205
def fwCommit : Nat := 0x5206
def fwActivate : Nat := 0x5207
def fwRatchet : Nat := 0x5208
def bindOff : Nat := 0x5209
def crashDump : Nat := 0x520A
def writeRefused : Nat := 0x5214
def gatedWrite : Nat := 0x5212
def fmDropped : Nat := 0x520B
def noticeDropped : Nat := 0x520C
def sessionOpened : Nat := 0x520D
def sessionEnded : Nat := 0x520E
def sessionExpired : Nat := 0x520F
def lockout : Nat := 0x5211
def makerWrite : Nat := 0x5210
def installSave : Nat := 0x5213
/-! Partitions. -/
def partCreate : Nat := 0x0701
def partStart : Nat := 0x0702
def partReset : Nat := 0x0703
def partDestroy : Nat := 0x0704
def partJoin : Nat := 0x0705
def partLeave : Nat := 0x0706
def partFence : Nat := 0x0707
def frog : Nat := 0x0708
def faultReport : Nat := 0x0709
/-! Clocks. -/
def refclkGap : Nat := 0x0201
def refclkLoss : Nat := 0x0202
def pllLoss : Nat := 0x0203
def muxHang : Nat := 0x0204
def domainReset : Nat := 0x0205
def fabricSwitch : Nat := 0x0206
def fchgDropped : Nat := 0x0207
/-! Power. -/
def trimStep : Nat := 0x0301
def pointRetired : Nat := 0x0302
def clamped : Nat := 0x0303
def powerGaugeFail : Nat := 0x0304
def brake : Nat := 0x0305
def limitUnmet : Nat := 0x0306
def currentTrip : Nat := 0x0307
def powerFail : Nat := 0x0308
def droopBurst : Nat := 0x0309
/-! Thermal. -/
def ceilingStep : Nat := 0x0401
def ruleOne : Nat := 0x0402
def sensorBroken : Nat := 0x0403
def coolantWarn : Nat := 0x0404
def trip : Nat := 0x0405
def tripLost : Nat := 0x0406
def tripAck : Nat := 0x0407
def combHot : Nat := 0x0408
/-! Control units and recorder: the codes R545 lists. -/
def switchOverPcu : Nat := 0x0001
def unitReady : Nat := 0x0002
def unitFenced : Nat := 0x0003
def noToken : Nat := 0x0004
def pageRebuilt : Nat := 0x0005
def staleWrite : Nat := 0x0006
def volFull : Nat := 0x0101
def freezeEnded : Nat := 0x0102
def volCleared : Nat := 0x0103
def nvCleared : Nat := 0x0104
end Ev

/-- Whether an event also goes to the non-volatile records (R437, R439, R502, R513, R540, R545, R548 and the closing statements). -/
def Ev.nonVolatile (code : Nat) : Bool :=
  [Ev.switchOverPcu, Ev.unitReady, Ev.unitFenced, Ev.noToken, Ev.pageRebuilt, Ev.volFull, Ev.volCleared, Ev.nvCleared,
   Ev.trimStep, Ev.pointRetired, Ev.powerFail, Ev.trip, Ev.tripLost, Ev.tripAck, Ev.refclkLoss, Ev.castOnStepFailed,
   Ev.sessionOpened, Ev.sessionEnded, Ev.sessionExpired, Ev.lockout, Ev.bindOff,
   Ev.makerWrite].contains code

/-- Whether an event belongs to the trip reserve of the non-volatile store (R548). -/
def Ev.tripReserve (code : Nat) : Bool := [Ev.trip, Ev.tripLost, Ev.powerFail].contains code

/-- Whether further occurrences add to the record for as long as a condition lasts or whatever the time
(R55, R249, R300, R506, R513, R546). -/
def Ev.tied (code : Nat) : Bool := [Ev.skeinDegraded, Ev.noResource, Ev.timeMismatch, Ev.brake, Ev.limitUnmet].contains code

namespace Unit
/-! UNIT encodings (R465). -/
def lane (site plane k : Nat) (rx : Bool) : Nat :=
  0x1 * 2 ^ 28 + site * 2 ^ 23 + plane * 2 ^ 17 + k * 2 ^ 12 + (if rx then 2 else 1) * 2 ^ 10
def portLane (port lane : Nat) (incoming : Bool) : Nat := 0x2 * 2 ^ 28 + port * 2 ^ 24 + lane * 2 ^ 18 + b2n incoming * 2 ^ 17
def port (port : Nat) : Nat := portLane port 0x3F false
def core (die k : Nat) : Nat := 0x3 * 2 ^ 28 + die * 2 ^ 25 + k * 2 ^ 17
def engine (die k code : Nat) : Nat := 0x4 * 2 ^ 28 + die * 2 ^ 25 + k * 2 ^ 17 + code * 2 ^ 13
def qp (die n : Nat) : Nat := 0x5 * 2 ^ 28 + die * 2 ^ 25 + n * 2 ^ 23
def sramPage (die page : Nat) : Nat := 0x6 * 2 ^ 28 + die * 2 ^ 25 + page * 2 ^ 7
def pc (n stack q : Nat) : Nat := 0x7 * 2 ^ 28 + n * 2 ^ 25 + stack * 2 ^ 24 + q * 2 ^ 18
def hart (die core : Nat) : Nat := 0x8 * 2 ^ 28 + die * 2 ^ 27 + core * 2 ^ 20
def cpuDie (die : Nat) : Nat := 0x9 * 2 ^ 28 + die * 2 ^ 27
def sitePair (s d : Nat) : Nat := 0xA * 2 ^ 28 + s * 2 ^ 23 + d * 2 ^ 18
def netStop (stop : Nat) : Nat := 0xB * 2 ^ 28 + stop * 2 ^ 23
def subPort (r : Nat) : Nat := 0xC * 2 ^ 28 + r * 2 ^ 24
def node (n : Nat) : Nat := 0xD * 2 ^ 28 + n * 2 ^ 16
def light (which : Nat) : Nat := 0xE * 2 ^ 28 + which * 2 ^ 26
def pcu (u : Nat) : Nat := 0xF * 2 ^ 28 + u * 2 ^ 27
end Unit

/-- The kind of a unit: bits [31:28] of UNIT (R465). -/
def unitKind (u : Nat) : Nat := fget u 31 28

/-- The actions of a report (R464). -/
def actReported : Nat := 0
def actFenced : Nat := 1
def actRetired : Nat := 2
def actSpared : Nat := 3
def actPortDown : Nat := 4

end Sys2Proof.Machine
end

