-- ==== Sys2Proof/Machine/Wire.lean ====
section
/-! DEFINITION. The byte forms of stitches, frames and markers, their checks, the scrambler of the lane layer, and the
named numbers of opcodes, classes and status codes (R118, R122, R124, R141, R144, R147, R153). -/

namespace Sys2Proof.Machine

/-- `l` cut or filled with zeros to `n` bytes. -/
def padTo (n : Nat) (l : List Nat) : List Nat := l.take n ++ List.replicate (n - l.length) 0

/-- The route word of a stitch with HOPS and ESCAPE as given (R141). -/
def Stitch.routeWord (st : Stitch) (hops escape : Nat) : Nat :=
  st.version % 16 * 2 ^ 60 + st.dstNode % 4096 * 2 ^ 48 + st.dstSite % 32 * 2 ^ 43 + st.srcNode % 4096 * 2 ^ 31
    + st.srcSite % 32 * 2 ^ 26 + st.tenant % 16 * 2 ^ 22 + st.cls % 8 * 2 ^ 19 + hops % 32 * 2 ^ 14
    + escape % 2 * 2 ^ 13 + st.rsv % 8192

/-- The op word of a stitch (R141). -/
def Stitch.opWord (st : Stitch) : Nat :=
  st.opcode % 256 * 2 ^ 56 + st.seq % 65536 * 2 ^ 40 + st.sync % 65536 * 2 ^ 24 + st.start % 64 * 2 ^ 18
    + st.countM1 % 64 * 2 ^ 12 + st.cnt % 4 * 2 ^ 10 + st.opf % 1024

/-- The address word of a stitch (R141). -/
def Stitch.addrWord (st : Stitch) : Nat := st.opspec % 2 ^ 18 * 2 ^ 46 + st.ppa % 2 ^ 46

/-- Bytes 0 to 91 of a stitch with HOPS and ESCAPE as given. -/
def Stitch.body (st : Stitch) (hops escape : Nat) : List Nat :=
  leBytes 8 (Stitch.routeWord st hops escape) ++ leBytes 8 (Stitch.opWord st) ++ leBytes 8 (Stitch.addrWord st)
    ++ padTo 64 st.data ++ leBytes 4 st.entryTs

/-- The end-to-end check that the fields of a stitch call for, HOPS and ESCAPE taken as zero (R147). -/
def Stitch.checkOf (st : Stitch) : Nat := crc32c (Stitch.body st 0 0)

/-- Whether the stitch carries the check its fields call for (R148). -/
def Stitch.checkOk (st : Stitch) : Bool := st.check == Stitch.checkOf st

/-- The stitch with its CHECK made (R147). -/
def Stitch.sealed (st : Stitch) : Stitch := { st with check := Stitch.checkOf st }

/-- The 96 bytes of a stitch (R141). -/
def Stitch.bytes (st : Stitch) : List Nat := Stitch.body st st.hops st.escape ++ leBytes 4 st.check

/-- The stitch that 96 bytes spell (R141). -/
def Stitch.parse (bs : List Nat) : Stitch :=
  let r := leField bs 0 8
  let o := leField bs 8 8
  let a := leField bs 16 8
  { version := fget r 63 60, dstNode := fget r 59 48, dstSite := fget r 47 43, srcNode := fget r 42 31
    srcSite := fget r 30 26, tenant := fget r 25 22, cls := fget r 21 19, hops := fget r 18 14
    escape := fget r 13 13, rsv := fget r 12 0, opcode := fget o 63 56, seq := fget o 55 40
    sync := fget o 39 24, start := fget o 23 18, countM1 := fget o 17 12, cnt := fget o 11 10, opf := fget o 9 0
    opspec := fget a 63 46, ppa := fget a 45 0, data := (bs.drop 24).take 64
    entryTs := leField bs 88 4, check := leField bs 92 4 }

/-- Stitch opcodes (R144). -/
def opLOAD : Nat := 0x10
def opLOAD_RSP : Nat := 0x11
def opSTORE : Nat := 0x12
def opMC_STORE : Nat := 0x14
def opATOMIC : Nat := 0x20
def opATOMIC_RSP : Nat := 0x21
def opREDUCE : Nat := 0x30
def opSEND : Nat := 0x40
def opSTREAM_READ : Nat := 0x41
def opSTREAM_DATA : Nat := 0x42
def opSTREAM_END : Nat := 0x43
def opRUN_OPEN : Nat := 0x50
def opACK : Nat := 0x60
def opNACK : Nat := 0x61
def opSYNC_OP : Nat := 0x70
def opSYNC_RSP : Nat := 0x71
def opCTRL : Nat := 0x78

/-- Whether an opcode is defined (R144). -/
def opDefined (o : Nat) : Bool :=
  [0x10, 0x11, 0x12, 0x14, 0x20, 0x21, 0x30, 0x40, 0x41, 0x42, 0x43, 0x50, 0x60, 0x61, 0x70, 0x71, 0x78].contains o

/-- Whether an opcode takes a sequence number and is answered (R144). -/
def opSequenced (o : Nat) : Bool := [0x10, 0x12, 0x14, 0x20, 0x30, 0x40, 0x41, 0x50, 0x70].contains o

/-- Whether an opcode answers a request (R144). -/
def opResponse (o : Nat) : Bool := [0x11, 0x21, 0x42, 0x43, 0x60, 0x61, 0x71].contains o

/-- Whether a class is allowed for an opcode (R144, R145). -/
def classAllowed (o cls : Nat) : Bool :=
  if [0x10, 0x12, 0x40].contains o then cls == 0 || cls == 1
  else if o == 0x14 then cls == 3
  else if o == 0x30 then cls == 2
  else if o == 0x50 then cls == 0
  else if o == 0x78 then cls == 4
  else cls == 1

/-- Stitch status codes (R153). -/
def stOK : Nat := 0x00
def stSHORT : Nat := 0x01
def stNO_BUFFER : Nat := 0x02
def stMSG_SIZE : Nat := 0x03
def stNO_QUEUE : Nat := 0x04
def stNO_PATH : Nat := 0x05
def stUNREACHABLE : Nat := 0x06
def stTENANT : Nat := 0x07
def stWINDOW : Nat := 0x08
def stSYNC : Nat := 0x09
def stMALFORMED : Nat := 0x0A
def stMEM_ERR : Nat := 0x0B
def stTIMEOUT : Nat := 0x0C

/-- Status codes of memory operations (R260). -/
def stNO_CTX : Nat := 0x10
def stBAD_TYPE : Nat := 0x11
def stTARGET : Nat := 0x12
def stDET_ORDER : Nat := 0x13
def stDET_PARTIAL : Nat := 0x14
def stMC_GROUP : Nat := 0x15
def stDET_FULL : Nat := 0x16

/-- Whether a status is an error: every code but OK and SHORT (R153). -/
def isErr (status : Nat) : Bool := status != 0 && status != 1

/-- Frame types (R125). -/
def ftIDLE : Nat := 0x00
def ftSTITCH : Nat := 0x01
def ftRUN : Nat := 0x02
def ftTRAIN : Nat := 0x10
def ftPATTERN : Nat := 0x11

/-- Data frames take a sequence, are acknowledged and resent (R125). -/
def isData (ft : Nat) : Bool := ft == 1 || ft == 2 || ft == 0x11

/-- Bytes 0 to 395 of a frame (R124). -/
def Frame.body (f : Frame) : List Nat :=
  padTo 384 f.payload ++ leBytes 2 f.seq ++ leBytes 2 f.ack ++ [f.ftype % 256, f.flags % 256, f.slot % 256, f.rowTag % 256]
    ++ leBytes 4 f.runCheck

/-- Whether the link CRC of a frame is right (R124, R126). -/
def Frame.crcOk (f : Frame) : Bool := f.crc == crc32 (Frame.body f)

/-- The frame with its link CRC made (R124). -/
def Frame.sealed (f : Frame) : Frame := { f with crc := crc32 (Frame.body f) }

/-- REPLAY and NAK flags of a frame (R125). -/
def Frame.replay (f : Frame) : Bool := bitOf f.flags 7
def Frame.nak (f : Frame) : Bool := bitOf f.flags 6

/-- The stitches of a STITCH frame, by its slot bits (R124, R125). -/
def Frame.stitches (f : Frame) : List Stitch :=
  (setBits 4 f.flags).map (fun n => Stitch.parse ((f.payload.drop (96 * n)).take 96))

/-- The run blocks of a RUN frame, from block 0 (R124, R125). -/
def Frame.runBlocks (f : Frame) : List (List Nat) :=
  (List.range (min 6 (f.flags % 8))).map (fun n => padTo 64 ((f.payload.drop (64 * n)).take 64))

/-- The run check of a RUN frame: CRC-32C over its valid blocks (R124). -/
def Frame.runCheckOf (f : Frame) : Nat := crc32c (Frame.runBlocks f).flatten

/-- Bytes 8 to 163 of a row marker (R122). -/
def Marker.body (m : Marker) : List Nat :=
  leBytes 6 m.row ++ leBytes 8 m.timestamp ++ leBytes 2 m.health ++ leBytes 2 m.dataFrames ++ leBytes 2 m.nextSeq
    ++ leBytes 2 m.ack ++ [0, 0] ++ padTo 128 m.fill ++ [0, 0, 0, 0]

/-- Whether the marker's link CRC is right (R122, R123). -/
def Marker.crcOk (m : Marker) : Bool := m.crc == crc32 (Marker.body m)

/-- The bit errors of the marker's fill, which is zero before scrambling (R122, R123). -/
def Marker.fillErrors (m : Marker) : Nat := ((padTo 128 m.fill).map (popCount 8)).sum

/-- The scrambler state at cycle 0 of row `r` (R118). -/
def scramblerSeed (r : Nat) : Nat :=
  let v := Nat.xor (r % 2 ^ 31) (0x5A5A5A5A % 2 ^ 31)
  if v = 0 then 1 else v

/-- One step of the scrambler x³¹ + x²⁸ + 1: the bit it gives and its next state (R118). That the bit given is the one shifted into bit 0, and that bit i of the seed is bit i of the state, is
the model's choice (DESIGN CHOICE, log entry 169). -/
def scramblerStep (st : Nat) : Bool × Nat :=
  let b := bitOf st 30 != bitOf st 27
  (b, (st * 2 + b2n b) % 2 ^ 31)

/-- A stream of bits exclusive-ored with the scrambler from a state; the state after it (R118). -/
def scramble : List Bool → Nat → List Bool × Nat
  | [], st => ([], st)
  | x :: xs, st =>
    let (b, st') := scramblerStep st
    let (ys, st'') := scramble xs st'
    ((x != b) :: ys, st'')

/-- The level of a PAM4 symbol from its two bits, MSB first: Gray code (R116). -/
def pam4Level (msb lsb : Bool) : Nat :=
  match msb, lsb with
  | false, false => 0 | false, true => 1 | true, true => 2 | true, false => 3

/-- The wire and the fabric cycle that carry bit `b` of a row's stream (R117). -/
def wireOfBit (b : Nat) : Nat × Nat := (b % 56, b / 56)

/-! Rows on a lane (R116 to R118, R121, R122). -/

/-- The bits of bytes, each from bit 0 (R117), and the bytes that bits spell. -/
def bytesBits (bs : List Nat) : List Bool := bs.flatMap (fun b => (List.range 8).map (bitOf b))
def bitsNat (l : List Bool) : Nat := l.foldr (fun b n => b2n b + 2 * n) 0
def bitsBytes (l : List Bool) : List Nat := (chunks 8 l.length l).map bitsNat

/-- The 400 bytes of a frame, and the frame that 400 bytes spell (R124). -/
def Frame.bytes (f : Frame) : List Nat := Frame.body f ++ leBytes 4 f.crc
def Frame.parse (bs : List Nat) : Frame :=
  { payload := bs.take 384, seq := leField bs 384 2, ack := leField bs 386 2, ftype := leField bs 388 1, flags := leField bs 389 1, slot := leField bs 390 1
    rowTag := leField bs 391 1, runCheck := leField bs 392 4, crc := leField bs 396 4 }

/-- The sync word of a marker (R122, R206). -/
def syncWord : Nat := 0x96E10FF03C5AA5C3

/-- Bits of a row's stream on an on-package lane, where its frame slots, its marker and its guard begin (R121). -/
def rowBits : Nat := 114688
def frameAt (slot : Nat) : Nat := 3200 * slot
def markerAt : Nat := 112000
def guardAt : Nat := 113344

/-- The guard: symbols at level 0 and level 3 in turn, level 3 being MSB 1 and LSB 0 (R116, R121). -/
def guardBits : List Bool := (List.range (rowBits - guardAt)).map (fun b => b % 4 == 3)

/-- The scrambler's state before scrambled bit `n` of a row, from its seed (R118). -/
def scramblerAfter (seed n : Nat) : Nat := (List.range n).foldl (fun st _ => (scramblerStep st).2) seed

/-- Bits as the scrambler passes them, where it is on, from a state (R118). -/
def scrambleIf (on : Bool) (bits : List Bool) (st : Nat) : List Bool := if on then (scramble bits st).1 else bits

/-- Bytes exclusive-ored with the scrambler from a state. -/
def scrambleBytes (bs : List Nat) (st : Nat) : List Nat := bitsBytes (scramble (bytesBits bs) st).1

/-- The stream of a row on an on-package lane from its 35 frames and its marker (R118, R121, R122): frames, the sync word unscrambled, the rest of the marker, the guard unscrambled. -/
def rowStream (on : Bool) (row : Nat) (frames : List Frame) (m : Marker) : List Bool :=
  let fs := frames.flatMap (fun f => bytesBits (Frame.bytes f))
  scrambleIf on fs (scramblerSeed row) ++ bytesBits (leBytes 8 syncWord)
    ++ scrambleIf on (bytesBits (Marker.body m ++ leBytes 4 m.crc)) (scramblerAfter (scramblerSeed row) fs.length) ++ guardBits

/-- The levels that a lane sends in one fabric cycle from the bits of its 56 wires: symbol j carries wire 2j + 1 as MSB and wire 2j as LSB, symbol 0 first (R117). -/
def cycleLevels (wires : List Bool) : List Nat :=
  (List.range 28).map (fun j => pam4Level (wires.getD (2 * j + 1) false) (wires.getD (2 * j) false))

/-- The symbols of a row: cycle by cycle, bit b on wire b mod 56 in cycle b / 56 (R117). -/
def rowLevels (stream : List Bool) : List (List Nat) := (chunks 56 stream.length stream).map cycleLevels

/-- The scrambler state of lane `l` of a port at the start of row `r` (R207). -/
def portSeed (r l : Nat) : Nat :=
  let v := Nat.xor (Nat.xor r 0x5A5A5A5A) (l * 0x1000000) % 2 ^ 31
  if v = 0 then 1 else v

/-! Patterns (R138). -/

/-- Degree and tap of the pseudo-random patterns 0x0 to 0x2, x⁷ + x⁶ + 1, x¹⁵ + x¹⁴ + 1 and x³¹ + x²⁸ + 1; frame mode uses the last. -/
def prbsTaps (pattern : Nat) : Nat × Nat := if pattern = 0 then (7, 6) else if pattern = 1 then (15, 14) else (31, 28)

/-- `n` bits of a pseudo-random pattern from a state of its register, and the state after them. -/
def prbs (taps : Nat × Nat) : Nat → Nat → List Bool × Nat
  | 0, st => ([], st)
  | n + 1, st =>
    let b := bitOf st (taps.1 - 1) != bitOf st (taps.2 - 1)
    let (bs, st') := prbs taps n ((st * 2 + b2n b) % 2 ^ taps.1)
    (b :: bs, st')

/-- Bits `from_` to `from_ + n - 1` of a raw pattern: a pseudo-random sequence; the square wave of eight symbols at level 0 and eight at level 3; the pattern word from bit 0. -/
def patternBits (pattern word state from_ n : Nat) : List Bool :=
  if pattern < 3 then (prbs (prbsTaps pattern) (from_ + n) state).1.drop from_
  else if pattern = 3 then (List.range n).map (fun i => decide (16 ≤ (from_ + i) % 32) && (from_ + i) % 2 == 1)
  else (List.range n).map (fun i => bitOf word ((from_ + i) % 32))

/-- The bits in which what a checker received differs from what the generator sent. -/
def bitErrors (sent got : List Bool) : Nat := ((sent.zip got).filter (fun x => x.1 != x.2)).length

/-- The bit errors of a payload in frame mode, with the register of the checker: it takes its first state from the first 31 bits of a run and continues from frame to frame. -/
def payloadErrors (checker : Option Nat) (payload : List Nat) : Nat × Nat :=
  let bits := bytesBits (padTo 384 payload)
  match checker with
  | some st => let (e, st') := prbs (31, 28) bits.length st
               (bitErrors e bits, st')
  | none =>
    let (e, st') := prbs (31, 28) (bits.length - 31) ((bits.take 31).foldl (fun n b => 2 * n + b2n b) 0)
    (bitErrors e (bits.drop 31), st')

end Sys2Proof.Machine
end

