-- ==== Sys2Proof/Machine/Faults.lean ====
section
/-! DEFINITION. The fault path: an error report is made at a fault with its fields captured there (R464, R465), counted, recorded, and
kept until it is delivered to the fault rings and the fabric manager (R466). -/

namespace Sys2Proof.Machine

/-- Whether the manual gives a unit of that kind a temperature and a rail of its own: not a site pair, a remote node or a light supply (R464). -/
def unitMeasured (u : Nat) : Bool := !(unitKind u == 0xA || unitKind u == 0xD || unitKind u == 0xE)

/-- Whether a unit of that kind serves a single tenant: a core, an engine, a queue processor, an SRAM page, a hart, a sub-port (R464, R466). -/
def unitSingle (u : Nat) : Bool := [3, 4, 5, 6, 8, 0xC].contains (unitKind u)

/-- A fault makes one error report (R464): numbered, captured, counted under its unit kind when the unit is fenced or retired, and an
event. `tenants` are the affected tenants (R466); PKG is set where the unit serves no single tenant. -/
def Chip.report (c : Chip) (unit : Nat) (tenants : List Nat) (opclass opcode cause action : Nat) : Chip :=
  let measured := unitMeasured unit
  let r : Report :=
    { unit := unit, tenants := tenants, pkg := !(unitSingle unit && tenants.length == 1), opclass := opclass, opcode := opcode, cause := cause
      action := action, time := c.now, secs := c.opSecs, cycles := c.rd R.EVR_POWER_CYCLES_COUNT
      temp := if measured then Config.reportTemp unit c.drawn else 0x8000
      rail := if measured then Config.reportRail unit c.drawn else 0, seq := c.rd R.PART_FAULT_SEQ_NEXT }
  let c := { c with reports := c.reports ++ [r], drawn := c.drawn + 1 }
  let c := c.wr R.PART_FAULT_SEQ_NEXT (r.seq + 1)
  let c := if action = actFenced ∨ action = actRetired then c.count (R.PART_FENCED_COUNT (unitKind unit)) else c
  c.event Ev.faultReport tenants.head? unit [cause, action]

/-- The 32 bytes of a report (R464). -/
def Report.bytes (r : Report) (node : Nat) : List Nat :=
  leBytes 4 r.unit ++ [r.opclass, r.opcode, r.cause,
    r.tenants.headD 0 + (if r.pkg then 16 else 0) + 32 * r.action]
    ++ leBytes 8 r.time ++ leBytes 4 r.secs ++ leBytes 4 r.cycles ++ leBytes 2 r.temp ++ leBytes 2 r.rail
    ++ leBytes 2 node ++ leBytes 2 r.seq

/-- The tenants whose fault rings a report goes to: the affected ones, and tenant 0 for a report of the package (R466). -/
def Report.rings (r : Report) : List Nat := (r.tenants ++ (if r.pkg then [0] else [])).eraseDups

/-- A CTRL stitch of a subtype to site 31 of a node, with data (R430, R466). -/
def Chip.ctrlStitch (c : Chip) (node subtype : Nat) (data : List Nat) : Stitch :=
  Stitch.sealed
    { dstNode := node, dstSite := 31, srcNode := c.rd R.ROUTE_NODE_NODE, srcSite := 31, cls := 4, opcode := opCTRL, countM1 := 63
      opspec := subtype * 1024, data := padTo 64 data, entryTs := c.now % 2 ^ 32 }

end Sys2Proof.Machine
end

