-- ==== Sys2Proof/Machine/Access.lean ====
section
/-! DEFINITION. Access to the package control space: who may reach what, the checks in their order, the classes of fields, held writes,
bus errors, gating, emulated registers (R4, R7 to R13, R20, R431 to R433, R437, R490, R491, R533). -/

namespace Sys2Proof.Machine

/-- Bits of PCU.BUS_ERR. -/
def beALIAS_READ : Nat := 0
def beALIAS_EMPTY : Nat := 1
def beUNMAPPED : Nat := 2
def beWIDTH : Nat := 3
def beROLE : Nat := 4
def beTENANT : Nat := 5

/-- A bus error bit is set; BUS_ERR_ADDR takes the offset when all bits were zero (PCU.BUS_ERR_ADDR). -/
def Chip.busErr (c : Chip) (bit off : Nat) : Chip :=
  let c := if c.word R.PCU_BUS_ERR = 0 then c.wr R.PCU_BUS_ERR_ADDR_OFFSET off else c
  c.wr ⟨R.PCU_BUS_ERR, bit, bit⟩ 1

/-- The requester kind and identity that a session names (R433); none for a requester that no session can bind. -/
def sessionKey : Requester → Option (Nat × Nat)
  | .hart d k => some (0, d.val * 128 + k.val)
  | .jtag => some (1, 0)
  | _ => none

/-- A session's role as a role. -/
def roleOfCode (n : Nat) : Role := if n = 2 then .maker else if n = 1 then .installer else .operator

/-- The rank of a role (R10). -/
def Role.rank : Role → Nat
  | .operator => 0 | .installer => 1 | .maker => 2

/-- The role of the session that binds a kind and identity (BIND_ID is not compared for the IEEE 1149.1 port and the admin queue), else
operator (R433). -/
def Chip.roleBound (c : Chip) (bind id : Nat) : Role :=
  match (List.range 4).find? (fun n => c.on (R.SEC_SESSION_VALID n) && c.rd (R.SEC_SESSION_BIND n) == bind
      && (bind == 1 || bind == 2 || c.rd (R.SEC_SESSION_BIND_ID n) == id)) with
  | some n => roleOfCode (c.rd (R.SEC_SESSION_ROLE n))
  | none => .operator

/-- The role with which a requester acts (R432, R433). PCU firmware has the rights of every role; the management interface acts as operator. -/
def Chip.roleOf (c : Chip) (req : Requester) : Role :=
  match req with
  | .pcu _ => .maker
  | _ => match sessionKey req with
    | some (b, i) => c.roleBound b i
    | none => .operator

/-- The kind of requester that CLK.GATED_LAST records. -/
def reqKind : Requester → Nat
  | .hart _ _ => 1 | .hostIo _ => 2 | .queueProc _ _ => 3 | .pcu _ => 4 | .jtag => 5 | .mgmt => 4

/-- The tenant of a tenant hart: mtenant EN 1 and a tenant of 1 to 15 (R402, R432). -/
def Chip.hartTenant (c : Chip) (d k : Nat) : Option Nat :=
  if c.on (R.CPU_CORE_STATE_TENANT_EN d k) ∧ c.rd (R.CPU_CORE_STATE_TENANT d k) ≠ 0 then some (c.rd (R.CPU_CORE_STATE_TENANT d k)) else none

/-- Whether an offset is one of a register's (its lowest offset `base` and the number, stride of one dimension). -/
def offIn (off base n stride : Nat) : Bool := decide (base ≤ off) && decide ((off - base) / stride < n) && (off - base) % stride == 0

/-- Whether an offset is a tenant register of tenant `t` that it may read, or write (R432). -/
def Chip.tenantOpen (c : Chip) (t off : Nat) (isWrite : Bool) : Bool :=
  let cq := R.PCU_CQ_CFG t 0
  if cq ≤ off ∧ off < cq + 0x800 then true
  else if [R.CIRC_ARM t, R.CIRC_ARM_SYNC t, R.CIRC_ARM_VALUE t, R.CIRC_ARM_RESULT t].contains off then true
  else if [R.PART_TENANT t, R.PART_STATE t, R.PART_SPID t, R.PART_FAULT_RING_LO t, R.PART_FAULT_RING_HI t, R.PART_FAULT_RING_CFG t,
      R.PART_FAULT_PROD t, R.PART_FAULT_COUNT t, R.PART_FROG t, R.PART_FIRST_UNIT t, R.PCU_IF_VERSION, R.PCU_FW_VERSION, R.TIME_STATUS,
      R.TIME_NOW_LO, R.TIME_NOW_HI, R.TIME_ROW_LO, R.TIME_ROW_HI].contains off then !isWrite
  else if off = R.PART_FAULT_CONS t then true
  else if 0x1000000 ≤ off ∧ off < 0x1180000 then
    let i := (off - 0x1000000) / 0x10000
    let r := off % 0x10000
    !isWrite && decide (0x1000 ≤ r) && (r % 16 == 8 || r % 16 == 12) && decide ((r - 0x1000) / 16 < 64)
      && c.rd (R.SITE_RQ_CFG_TENANT i ((r - 0x1000) / 16)) == t
  else if 0x6000000 ≤ off ∧ off < 0xA000000 then
    let d := (off - 0x6000000) / 0x800000
    match findReg off with
    | some (r, _ :: k :: _) =>
      let owned := c.on (R.CMP_CORE_STATE_OWNED d k) && c.rd (R.CMP_CORE_STATE_TENANT d k) == t
      let base := r.base
      owned && decide (0x6020000 ≤ base) && base != R.CMP_CORE_CTRL 0 0
        && (!isWrite || base == R.CMP_MXE_FLAGS 0 0 || base == R.CMP_MXE_SEED 0 0)
    | _ => false
  else false

/-- Whether an offset is one that a queue processor may reach: its die's CMP slot and the registers of the queues it serves (R432). -/
def Chip.qpOpen (c : Chip) (d n off : Nat) : Bool :=
  if 0x6000000 + d * 0x800000 ≤ off ∧ off < 0x6800000 + d * 0x800000 then true
  else if 0x10000 ≤ off ∧ off < 0x18000 then
    let t := (off - 0x10000) / 0x800
    let q := off % 0x800 / 0x20
    c.on (R.PCU_CQ_CFG_EN t q) && !c.on (R.PCU_CQ_CFG_KIND t q) && c.rd (R.PCU_CQ_CFG_DIE t q) == d && c.rd (R.PCU_CQ_CFG_QP t q) == n
  else false

/-- Whether a requester may reach a mapped offset (R432). -/
def Chip.mayReach (c : Chip) (req : Requester) (off : Nat) (isWrite : Bool) : Bool :=
  match req with
  | .hart d k => match c.hartTenant d.val k.val with
    | some t => c.tenantOpen t off isWrite && !(isWrite && off == R.PART_TENANT t)
    | none => true
  | .queueProc d n => c.qpOpen d.val n.val off
  | _ => true

/-- The gate unit that an offset belongs to (R490). -/
def gateUnitOf (off : Nat) : Option Nat :=
  if 0x6000000 ≤ off ∧ off < 0xA000000 then some ((off - 0x6000000) / 0x800000)
  else if 0xA000000 ≤ off ∧ off < 0xA800000 then some (8 + (off - 0xA000000) / 0x100000)
  else if 0xB800000 ≤ off ∧ off < 0xC000000 then
    match findReg off with
    | some (_, p :: _ :: _) => some (16 + p)
    | _ => none
  else if 0xB000000 ≤ off ∧ off < 0xB800000 then
    match findReg off with
    | some (r, [i]) => if r.base = R.HIO_SLOT_CFG 0 then some (18 + i)
                       else if r.base = R.HIO_PORT_STATUS 0 ∨ r.base = R.HIO_PORT_TENANT 0 then some (18 + i / 4) else none
    | _ => none
  else if 0x4000000 ≤ off ∧ off < 0x4400000 then some (22 + (off - 0x4000000) / 0x40000)
  else if 0x5000000 ≤ off ∧ off < 0x5100000 then some 38
  else if 0x5100000 ≤ off ∧ off < 0x5200000 then some 39
  else none

/-- Whether gate unit `u` is gated (CLK.GATE_STATUS). -/
def Chip.unitGated (c : Chip) (u : Nat) : Bool :=
  if u < 32 then bitOf (c.rd R.CLK_GATE_STATUS_LO_GATED) u else bitOf (c.rd R.CLK_GATE_STATUS_HI_GATED) (u - 32)

/-- Whether the register at an offset is in a gated block (R13, R491). -/
def Chip.gated (c : Chip) (off : Nat) : Bool :=
  match gateUnitOf off with
  | some u => c.unitGated u
  | none => false

/-- An access to a gated register is counted and noted (R491). -/
def Chip.countGated (c : Chip) (req : Requester) (off : Nat) (isWrite : Bool) : Chip :=
  (((c.count R.CLK_GATED_COUNT_COUNT).wr R.CLK_GATED_LAST_REQ (reqKind req)).wr R.CLK_GATED_LAST_WRITE (b2n isWrite)).wr
    R.CLK_GATED_LAST_OFFSET off

/-- Whether a register is emulated by PCU firmware (R431). -/
def emulated (off : Nat) : Bool :=
  (decide (0x300000 ≤ off) && decide (off < 0x500000)) || (decide (0x100000 ≤ off) && decide (off < 0x200000))
    || (decide (0x5200000 ≤ off) && decide (off < 0x5300000)) || (decide (0x2000 ≤ off) && decide (off < 0x4000))

/-- Whether an offset lies in an alias region (R16). -/
def aliasOff (off : Nat) : Bool :=
  (decide (0x1F00000 ≤ off) && decide (off < 0x2000000)) || (decide (0x3800000 ≤ off) && decide (off < 0x4000000))
    || (decide (0x4400000 ≤ off) && decide (off < 0x4800000)) || (decide (0xC000000 ≤ off) && decide (off < 0xE000000))
    || (decide (0xA800000 ≤ off) && decide (off < 0xB000000))

/-- Whether an offset lies in the debug alias window (R10, R15). -/
def windowOff (off : Nat) : Bool := decide (0xF000000 ≤ off) && decide (off < 0x10000000)

/-- Whether a requester can make an access: a hart or a queue processor that the base layer holds in reset executes nothing, nor does a fenced one (R23, R330, R400). -/
def Chip.mayIssue (c : Chip) (req : Requester) : Bool :=
  let runs := fun (st : Nat) => st != 0 && st != 4
  match req with
  | .hart d k => runs (c.rd (R.CPU_CORE_STATE_STATE d.val k.val))
  | .queueProc d n => runs (c.rd (R.CMP_QP_STATUS_STATE d.val n.val))
  | _ => true

/-- What the checks of an access find, in their order (R10 to R13, R432); `held`: the requester is held in reset, so that there is no access (R23). -/
inductive Verdict where
  | held | width | unmapped | tenant | role | gated | ok
  deriving DecidableEq, Repr

/-- The checks of an access to an offset outside the alias regions. `aligned`: naturally aligned and 32 bits wide. An operator's read of an offset of the debug alias window
that holds no register is found unmapped before its role is looked at, and an access of a gated register by a requester that may not reach it or whose role is too low is found so
before the gate (DESIGN CHOICE, log entry 113). -/
def Chip.judge (c : Chip) (req : Requester) (off : Nat) (isWrite aligned : Bool) : Verdict :=
  if !c.mayIssue req then .held
  else if !aligned || off % 4 != 0 then .width
  else match findReg off with
  | none => .unmapped
  | some (r, _) =>
    if !c.mayReach req off isWrite then .tenant
    else if (isWrite || windowOff off) && decide ((c.roleOf req).rank < r.role.rank) then .role
    else if c.gated off then .gated
    else .ok

/-- What a refused access leaves behind: a bus error bit and, for a write of too low a role, a record; or a gated count (R11 to R13, R432, R491). -/
def Chip.refused (c : Chip) (req : Requester) (off : Nat) (isWrite : Bool) (v : Verdict) : Chip :=
  match v with
  | .held => c
  | .width => c.busErr beWIDTH off
  | .unmapped => c.busErr beUNMAPPED off
  | .tenant => c.busErr beTENANT off
  | .role =>
    let c := c.busErr beROLE off
    if isWrite then c.event Ev.writeRefused none 0 [off] else c
  | .gated => c.countGated req off isWrite
  | .ok => c

/-- Whether the block of an S field counts as stopped before a write of `v` (chapters 05, 09, 16, 17). -/
def Chip.stopped (c : Chip) (r : RegDesc) (is : List Nat) : Bool :=
  match r.blk with
  | .lane => !c.lanes.started
  | .route => (List.range 16).all (fun j => c.rd (R.EDGE_STATUS_STATE j) == 0 || c.rd (R.EDGE_STATUS_STATE j) == 4)
  | .hio => !c.on (R.HIO_SLOT_CFG_EN (is.headD 0))
  | .pcu => if r.base < R.PCU_FMQ_CFG then !c.on R.PCU_ADMQ_CFG_EN else !c.on R.PCU_FMQ_CFG_EN
  | _ => true

/-- A write to an S field of a running block sets the block's CFG_REJECT flag, where the block has one (R8). -/
def Chip.cfgReject (c : Chip) (r : RegDesc) (is : List Nat) : Chip :=
  match r.blk with
  | .lane => c.wr (R.LANE_STATUS_CFG_REJECT (is.headD 0)) 1
  | .route => c.wr R.ROUTE_STATUS_CFG_REJECT 1
  | .hio => c.wr R.HIO_STATUS_CFG_REJECT 1
  | _ => c

/-- The row at whose boundary a W-class write accepted now takes effect; 0 while rows do not run: the first boundary after they begin (R20). -/
def Chip.wRow (c : Chip) : Nat := if c.rowsRun then c.boundaryAfter 200 else 0

/-- One field of a register takes its part of a written word, by its type and class (R7 to R9, R20). -/
def Chip.storeField (c : Chip) (r : RegDesc) (is : List Nat) (off v : Nat) (stopped : Bool) (f : Fld) : Chip :=
  let x := fget v f.hi f.lo
  let fr : FRef := ⟨off, f.hi, f.lo⟩
  match f.acc with
  | .ro => c
  | .rc => c
  | .wo => c
  | .w1c => c.wr fr (c.rd fr - Nat.land (c.rd fr) x)
  | .w1s => c.wr fr (Nat.lor (c.rd fr) x)
  | .rw =>
    match f.cls with
    | .l => c.wr fr x
    | .s => if stopped then c.wr fr x else c.cfgReject r is
    | .w => c.onAcc (fun a => { a with held := a.held ++ [(⟨off, fset 0 f.hi f.lo (fr.top), fset 0 f.hi f.lo x, c.wRow⟩ : HeldWrite)] })

/-- The fields of a register take a written word (R9). -/
def Chip.store (c : Chip) (r : RegDesc) (is : List Nat) (off v : Nat) : Chip :=
  let stopped := c.stopped r is
  c.each r.flds (fun c f => c.storeField r is off v stopped f)

/-- The session of a requester as a record holds it: its number plus one, or zero. -/
def Chip.sessionOf (c : Chip) (req : Requester) : Nat :=
  match sessionKey req with
  | none => 0
  | some (b, i) =>
    match (List.range 4).find? (fun n => c.on (R.SEC_SESSION_VALID n) && c.rd (R.SEC_SESSION_BIND n) == b
        && (b == 1 || c.rd (R.SEC_SESSION_BIND_ID n) == i)) with
    | some n => n + 1
    | none => 0

/-- The session that binds a kind and identity of requester. -/
def Chip.sessionFor (c : Chip) (bind id : Nat) : Option Nat :=
  (List.range 4).find? (fun n => c.on (R.SEC_SESSION_VALID n) && c.rd (R.SEC_SESSION_BIND n) == bind
    && (bind == 1 || bind == 2 || c.rd (R.SEC_SESSION_BIND_ID n) == id))

/-- The lease debug hold is cleared: the lease runs again, and the clearing is recorded (R540). -/
def Chip.clearHold (c : Chip) : Chip :=
  let w := (c.word R.PCU_DEBUG_HOLD).toNat
  let c := (c.wr R.PCU_DEBUG_HOLD_EN 0).onPcu (fun x => { x with holdBy := none, leaseUntil := c.cycles + 16000 })
  c.event Ev.makerWrite none 0 [R.PCU_DEBUG_HOLD, w, 0, 0]

/-- A session is open no longer; a debug hold that it set ends with it (R433, R540). -/
def Chip.closeSession (c : Chip) (n : Nat) : Chip :=
  if c.on (R.SEC_SESSION_VALID n) then
    let c := (c.setWord (R.SEC_SESSION n) 0).onSec (fun x => { x with ends := delKey n x.ends })
    if c.pcu.holdBy = some n then c.clearHold else c
  else c

/-- A session is dropped or expires, which is recorded (R437). -/
def Chip.endSession (c : Chip) (n code : Nat) : Chip :=
  if c.on (R.SEC_SESSION_VALID n) then
    (c.event code none 0 [n, c.rd (R.SEC_SESSION_ROLE n), c.rd (R.SEC_SESSION_BIND n), c.rd (R.SEC_SESSION_BIND_ID n)]).closeSession n
  else c

/-- The session of a hart ends as the hart is fenced or reset (R433). -/
def Chip.endHartSession (c : Chip) (d k : Nat) : Chip :=
  match c.sessionFor 0 (d * 128 + k) with
  | some n => c.closeSession n
  | none => c

/-- A gated write that was accepted is recorded with its old and new values and counted (R11, R437). -/
def Chip.recordGated (c : Chip) (req : Requester) (r : RegDesc) (off old v : Nat) : Chip :=
  match r.role with
  | .operator => c
  | .installer => (c.count R.SEC_GATED_COUNT_COUNT).event Ev.gatedWrite none 0 [off, old, v, c.sessionOf req]
  | .maker => (c.count R.SEC_GATED_COUNT_COUNT).event Ev.makerWrite none 0 [off, old, v, c.sessionOf req]

/-- What a register does with a write beyond storing its fields: whether the write is taken, what happens where it is ignored, and its
effect once the fields are stored. -/
structure WriteHook where
  takes : Bool
  ignored : Chip → Chip
  effect : Chip → Chip

/-- The hook of a register without one of its own. -/
def WriteHook.plain : WriteHook := ⟨true, id, id⟩

/-- A hook with an effect alone. -/
def WriteHook.does (f : Chip → Chip) : WriteHook := ⟨true, id, f⟩

/-- An accepted write to a register: recorded when gated, its fields stored, and the effect of its register carried out; where the
register's own rules ignore the write, only what they say of that. -/
def Chip.acceptWrite (c : Chip) (req : Requester) (off v : Nat) (h : WriteHook) : Chip :=
  match findReg off with
  | none => c
  | some (r, is) => if h.takes then h.effect ((c.recordGated req r off (c.word off).toNat v).store r is off v) else h.ignored c

/-- An emulated access waits for a PCU to take the control token (R431). -/
def Chip.waitEmu (c : Chip) (req : Requester) (off : Nat) (isWrite : Bool) (v : Nat) : Chip :=
  c.onAcc (fun a => { a with emuWait := a.emuWait ++ [(⟨req, off, isWrite, v, c.cycles, none⟩ : EmuAccess)] })

/-! Actuators (R533, R539). -/

/-- Whether an offset is an actuator's that only the token holder may write: heater-loop parameters and offsets, frequency, gate and domain-reset writes, light-supply controls
(R533). The regulators' setpoints and ISSUE values have no writable register. -/
def actuatorOff (off : Nat) : Bool :=
  off == R.LSU_CTRL || off == R.CLK_DOMAIN_RESET || off == R.CLK_GATE_EN_LO || off == R.CLK_GATE_EN_HI || offIn off (R.CLK_CL_GATE 0) 8 4
    || offIn off (R.CLK_FCHG 0) 10 0x10
    || (decide (0x2000000 ≤ off) && decide (off < 0x3800000) && (match findReg off with
      | some (r, _) => [R.TNS_CFG 0, R.TNS_CFG2 0, R.TNS_RING_OFFSET 0 0 0 0, R.TNS_PORT_RING_OFFSET 0 0 0 0].contains r.base
      | none => false))

/-- A control unit takes a state (PCU.UNIT). -/
def Chip.setUnit (c : Chip) (u state : Nat) : Chip := (c.wr (R.PCU_UNIT_STATE u) state).wr (R.PCU_UNIT_ROW u) c.row16

/-- A control unit is reset and restarts from the verified image; one without a restart left is fenced (R539). -/
def Chip.restartUnit (c : Chip) (u : Nat) : Chip :=
  if c.rd (R.PCU_UNIT_RESTARTS_USED u) < c.rd R.PCU_LEASE_CFG_RESTARTS then (c.count (R.PCU_UNIT_RESTARTS_USED u)).setUnit u 5
  else ((c.setUnit u 6).event Ev.unitFenced none (Unit.pcu u) [u]).report (Unit.pcu u) [] 0 0 0 actFenced

/-- An actuator write of a control unit without the token is dropped and counted; the unit stops and restarts (R533). -/
def Chip.staleWrite (c : Chip) (u off : Nat) : Chip :=
  let c := (c.count R.PCU_STALE_WR_COUNT).event Ev.staleWrite none (Unit.pcu u) [off]
  if [3, 4, 7].contains (c.rd (R.PCU_UNIT_STATE u)) then c.restartUnit u else c

/-- The control unit whose write of an actuator is stale. -/
def Chip.staleFrom (c : Chip) (req : Requester) (off : Nat) : Option Nat :=
  match req with
  | .pcu u => if c.rd R.PCU_LEASE_STATUS_HOLDER != u.val && actuatorOff off then some u.val else none
  | _ => none

/-- The requesters whose writes take effect in the order of their issue: processor dies, host I/O sites, queue processors, control units, the IEEE 1149.1 port (R14); the
management interface as one more. -/
def reqOrder : Requester → Nat × Nat
  | .hart d _ => (0, d.val)
  | .hostIo n => (1, n.val)
  | .queueProc d n => (2, 4 * d.val + n.val)
  | .pcu u => (3, u.val)
  | .jtag => (4, 0)
  | .mgmt => (5, 0)

/-- Whether a write needs a control unit that holds the token: an emulated register (R431); an actuator, which only the token holder writes, for every requester but a control
unit, whose stale write is dropped (R28, R533; DEDUCED, log entry 114). A command of LSU.CTRL is held by the light supply itself (R65). -/
def needsToken (req : Requester) (off : Nat) : Bool :=
  emulated off || (actuatorOff off && off != R.LSU_CTRL && (reqOrder req).1 != 3)

/-- Whether an earlier write of the same requester waits (R14). -/
def Chip.behindOwn (c : Chip) (req : Requester) : Bool := c.acc.emuWait.any (fun e => e.isWrite && reqOrder e.req == reqOrder req)

/-- Whether a write that needs the token waits: no control unit holds it, or an earlier write of any requester still waits for it (R14, R431, R533). -/
def Chip.tokenWaits (c : Chip) : Bool := !c.tokenHeld || c.acc.emuWait.any (fun e => e.isWrite && (needsToken e.req e.off || e.members.isSome))

/-- Whether a write waits: for the token and the earlier writes that wait for it, or behind an earlier write of the same requester (R14, R431, R533; log entry 151). -/
def Chip.writeWaits (c : Chip) (req : Requester) (off : Nat) : Bool := (needsToken req off && c.tokenWaits) || c.behindOwn req

/-- A write of one register, checked in order, with the effect of its register where it is accepted. It waits where it needs the token and no PCU holds it, and behind an
earlier write of its requester that waits. -/
def Chip.writeReg (c : Chip) (req : Requester) (off v : Nat) (h : WriteHook) : Chip :=
  match c.judge req off true true with
  | .ok => match c.staleFrom req off with
    | some u => c.staleWrite u off
    | none => if c.writeWaits req off then c.waitEmu req off true v else c.acceptWrite req off v h
  | x => c.refused req off true x

/-- The held W-class fields that are due at a row take effect (R20, R175 step 5). -/
def Chip.applyHeld (c : Chip) (row : Nat) : Chip :=
  let due := c.acc.held.filter (fun h => decide (h.row ≤ row))
  let c := c.onAcc (fun a => { a with held := a.held.filter (fun h => !decide (h.row ≤ row)) })
  c.each due (fun c h => c.setWord h.off (BitVec.ofNat 32 ((c.word h.off).toNat - Nat.land (c.word h.off).toNat h.mask + h.val)))

end Sys2Proof.Machine
end

