-- ==== Sys2Proof/Machine/Transport.lean ====
section
/-! DEFINITION. Transport between sites: the outstanding table, flows, answers, completion counts, receive queues and ingress
credits (R141 to R174). -/

namespace Sys2Proof.Machine

/-- The number of this node (ROUTE.NODE). -/
def Chip.node (c : Chip) : Nat := c.rd R.ROUTE_NODE_NODE

/-- Whether a tenant is enabled at this package (PART.TENANT_t.EN). -/
def Chip.tenantOn (c : Chip) (t : Nat) : Bool := c.on (R.PART_TENANT_EN t)

/-- Fixed width of the skein from `s` to `d`; the self-test lanes where they are equal (R38, OPF.SKEIN_STATE.BUILT). -/
def skeinBuilt (s d : Nat) : Nat := min (Config.fixedPlanes s) (Config.fixedPlanes d)

/-- The wavelength of the lanes from site `s` to site `d` (R38). -/
def skeinK (s d : Nat) : Nat := (d + 24 - s % 24) % 24

/-- Whether the skein from `s` to `d` is lost (R56). -/
def Chip.skeinLost (c : Chip) (s d : Nat) : Bool := c.opf.lostSkeins.contains (s, d)

/-- A stitch with its entry time: bits [31:0] of the timestamp at which its adapter takes it (R149). -/
def Chip.stamped (c : Chip) (st : Stitch) : Stitch := Stitch.sealed { st with entryTs := c.now % 2 ^ 32 }

/-- The full entry time of a stitch at an adapter with timestamp T: T − ((T − ENTRY_TS) mod 2³²) (R149). -/
def Chip.entryTime (c : Chip) (st : Stitch) : Nat := c.now - subMod 32 c.now st.entryTs

/-- A site, or the service, gives a stitch to the fabric: to the control network when it goes to or comes from the service of this
node (R146), else into the queue of stitches that wait for a slot of their skein. Answers and the stitches of the service take their entry time here; an answer bound for a site whose
skein is lost is discarded and counted (R56, R174). -/
def Chip.send (c : Chip) (site : Nat) (st : Stitch) : Chip :=
  let st := if opResponse st.opcode || st.opcode == opCTRL then c.stamped st else st
  if opResponse st.opcode && st.dstNode == c.node && st.dstSite != 31 && site != 31 && c.skeinLost site st.dstSite then c.count R.OPF_NO_PATH_COUNT_COUNT
  else if st.dstNode = c.node ∧ (site = 31 ∨ st.dstSite = 31) then
    { c with xport := { c.xport with arrived := c.xport.arrived ++ [⟨st.dstSite, 63, 31, st⟩] } }
  else { c with xport := { c.xport with waiting := c.xport.waiting ++ [(site, st)] } }

/-- A site counts a landing: merged, within SYN.CFG.COALESCE cycles of the first, with the landings of the same object that wait at the site, keeping the first error; with COALESCE 0
nothing is merged (R282, R292). -/
def Chip.landCount (c : Chip) (site obj inc status : Nat) : Chip :=
  let m := c.xport.merging
  let mine := fun (l : Landing) => l.site == site && l.obj == obj
  let new : Landing := ⟨site, obj, inc, status, c.cycles⟩
  if c.rd R.SYN_CFG_COALESCE = 0 then c.onXport (fun x => { x with landings := x.landings ++ [new] })
  else match m.find? mine with
  | none => { c with xport := { c.xport with merging := m ++ [new] } }
  | some l =>
    if c.cycles < l.since + c.rd R.SYN_CFG_COALESCE then
      let more := fun (l : Landing) => { l with inc := l.inc + inc, status := if isErr l.status then l.status else status }
      { c with xport := { c.xport with merging := updFirst mine more m } }
    else { c with xport := { c.xport with merging := dropFirst mine m ++ [new], landings := c.xport.landings ++ [l] } }

/-- Whether CNT counts at the source for an opcode (R143, R162). -/
def countsAtSource (opcode cnt : Nat) : Bool :=
  if opcode == opLOAD || opcode == opATOMIC || opcode == opSYNC_OP then cnt != 0 else cnt / 2 == 1

/-- Whether CNT counts at the destination for an opcode (R143, R162). -/
def countsAtDest (opcode cnt : Nat) : Bool :=
  if opcode == opLOAD || opcode == opATOMIC || opcode == opSYNC_OP || opcode == opSTREAM_READ then false else cnt % 2 == 1

/-- SITE.XPORT_STATUS follows the outstanding table of a site. -/
def Chip.outCounts (c : Chip) (site : Nat) : Chip :=
  if site < 24 then
    let mine := c.xport.out.filter (fun e => e.site == site)
    let live := mine.filter (fun e => e.dead.isNone)
    let flows := (live.map (fun e => (e.st.dstNode, e.st.tenant))).eraseDups
    (c.wr (R.SITE_XPORT_STATUS_OUTSTANDING site) live.length).wr (R.SITE_XPORT_STATUS_FLOWS site) flows.length
  else c

/-- A status other than OK given at an adapter is counted there (SITE.REFUSED_s). -/
def Chip.countRefused (c : Chip) (site status : Nat) : Chip :=
  if site < 24 ∧ 1 ≤ status ∧ status ≤ 12 then c.count (R.SITE_REFUSED_COUNT site status) else c

/-- The data that a LOAD's requester has with an error: zero (R259, R384), or all ones for a device range whose sub-port is not up (R407). -/
def errorData (st : Stitch) (status : Nat) : List Nat :=
  if st.opcode = opLOAD ∧ isErr status then List.replicate 64 (if status = stMEM_ERR ∧ 0x100000000000 ≤ st.ppa then 255 else 0) else []

/-- The requester of a stitch has its completion. -/
def Chip.finish (c : Chip) (site : Nat) (st : Stitch) (status : Nat) : Chip :=
  let d : Completion := ⟨site, st.opcode, st.tenant, st.seq, status, errorData st status⟩
  let x := c.xport
  { c with xport := { x with done := some d, comps := if st.tag = 0 then x.comps else x.comps ++ [(st.tag, d)] } }

/-- The data of the completion just given (R158, R162). -/
def Chip.finishData (c : Chip) (st : Stitch) (data : List Nat) : Chip :=
  let x := c.xport
  { c with xport := { x with done := x.done.map (fun d => { d with data := data })
                             comps := x.comps.map (fun d => if d.1 = st.tag ∧ st.tag ≠ 0 then (d.1, { d.2 with data := data }) else d) } }

/-- The status of a message with these answers, in the order they came (R163): OK when all are OK; TIMEOUT when a stitch timed out and none failed before; else that of the lowest index that
was not OK. -/
def messageStatus (answers : List (Nat × Nat)) : Nat :=
  let bad := answers.filter (fun a => isErr a.2)
  match bad with
  | [] => stOK
  | first :: rest =>
    if first.2 = stTIMEOUT then stTIMEOUT else (rest.foldl (fun (b : Nat × Nat) a => if a.1 < b.1 then a else b) first).2

/-- One stitch of a message has its answer, from its destination or refused at entry; the message completes, and counts at the source once, when every stitch of it has one (R162, R163). -/
def Chip.messageAnswer (c : Chip) (mine : SendMsg → Bool) (st : Stitch) (idx status : Nat) : Chip :=
  match c.xport.sends.find? mine with
  | none => c
  | some m =>
    let m' := { m with answers := m.answers ++ [(idx, status)] }
    if m'.answers.length < m.total then { c with xport := { c.xport with sends := updFirst mine (fun _ => m') c.xport.sends } }
    else
      let status := messageStatus m'.answers
      let c := { c with xport := { c.xport with sends := dropFirst mine c.xport.sends } }
      let c := c.finish m.site st status
      if countsAtSource opSEND m.cnt then c.landCount m.site m.sync 1 status else c

/-- An outstanding stitch of a message has its answer. -/
def Chip.answerSend (c : Chip) (site : Nat) (st : Stitch) (status : Nat) : Chip :=
  c.messageAnswer (fun m => m.site == site && m.dstNode == st.dstNode && m.tag.tenant == st.tenant && m.seqs.contains st.seq) st (fget st.opspec 9 2) status

/-- TOTAL and INDEX of a SEND (R144). -/
def sendTotal (st : Stitch) : Nat := fget st.opspec 17 10 + 1
def sendIndex (st : Stitch) : Nat := fget st.opspec 9 2

/-- QUEUE of a SEND or a STREAM_READ (R144). -/
def queueNo (st : Stitch) : Nat := fget st.ppa 45 40

/-- The message of a flow whose stitches are entering: some have a sequence and some are still to come (R154). -/
def Chip.entering (c : Chip) (site node tenant : Nat) : Option SendMsg :=
  c.xport.sends.find? (fun m => m.site == site && m.dstNode == node && m.tag.tenant == tenant && decide (m.next < m.total) && !m.seqs.isEmpty)

/-- Whether a request is the next stitch of a message (R154, R162). -/
def SendMsg.takes (m : SendMsg) (site : Nat) (req : Stitch) : Bool :=
  m.site == site && m.dstNode == req.dstNode && m.tag.tenant == req.tenant && m.next == sendIndex req && m.total == sendTotal req
    && decide (m.next < m.total) && m.dstSite == req.dstSite && m.queue == queueNo req && m.sync == req.sync && m.cnt == req.cnt

/-- The record of the message that a request goes on with: for one that enters, first that of a message with all its stitches so far entered; for one that is refused, first that of a message
with a stitch refused before. -/
def Chip.sendRecord (c : Chip) (site : Nat) (req : Stitch) (refused : Bool) : Option SendMsg :=
  let l := c.xport.sends.filter (fun m => m.takes site req)
  l.find? (fun m => (m.seqs.length == m.next) != refused) <|> l.head?

/-- Whether a request is the next stitch of the message that is entering its flow, or of one that none enters before (R154). -/
def Chip.continues (c : Chip) (site : Nat) (req : Stitch) : Bool :=
  req.opcode == opSEND && (match c.entering site req.dstNode req.tenant with
    | some m => m.takes site req
    | none => (c.sendRecord site req false).isSome)

/-- The record of a request's message once the request has entered, with its sequence, or was refused, with none. -/
def Chip.messageRecord (c : Chip) (site : Nat) (req : Stitch) (seq : Option Nat) : Option SendMsg :=
  if sendIndex req = 0 then
    some { site := site, tag := ⟨c.node, site, req.tenant, seq.getD 0⟩, dstNode := req.dstNode, total := sendTotal req, answers := []
           sync := req.sync, cnt := req.cnt, dstSite := req.dstSite, queue := queueNo req, next := 1, seqs := seq.toList }
  else (c.sendRecord site req seq.isNone).map (fun m => { m with next := m.next + 1, seqs := m.seqs ++ seq.toList })

/-- A stitch of a message has entered, or was refused at entry: the first makes the record of the message (R154, R162). -/
def Chip.messageEnters (c : Chip) (site : Nat) (req : Stitch) (seq : Option Nat) : Chip :=
  match c.messageRecord site req seq with
  | none => c
  | some m =>
    let x := c.xport
    if sendIndex req = 0 then { c with xport := { x with sends := x.sends ++ [m] } }
    else { c with xport := { x with sends := updFirst (fun y => c.sendRecord site req seq.isNone == some y) (fun _ => m) x.sends } }

/-- A request is refused at its source adapter: it goes nowhere, its completion carries the status and counts at the source when CNT includes the source (R151). A stitch of a message so has
its answer, and the message completes as a whole (R162). -/
def Chip.refuseEntry (c : Chip) (site : Nat) (st : Stitch) (status : Nat) : Chip :=
  let c := c.countRefused site status
  if st.opcode = opSEND then
    (c.messageEnters site st none).messageAnswer (fun m => c.messageRecord site st none == some m) st (sendIndex st) status
  else
    let c := c.finish site st status
    if countsAtSource st.opcode st.cnt then c.landCount site st.sync 1 status else c

/-- The fabric cycles for which ACKs and NACKs of a site are collected (R156); the service has a fixed 64. -/
def Chip.ackDelay (c : Chip) (site : Nat) : Nat := if site < 24 then max 8 (c.rd (R.SITE_XPORT_CFG_ACK_DELAY site)) else 64

/-- The ACK stitch of a collected ACK (R156). -/
def ackStitch (a : AckPend) : Stitch :=
  Stitch.sealed
    { dstNode := a.node, dstSite := a.srcSite, srcNode := a.dstNode, srcSite := a.site, tenant := a.tenant, cls := 1
      opcode := opACK, seq := a.base, countM1 := 63
      data := leBytes 64 (a.offs.foldl (fun n o => n + 2 ^ o) 0) }

/-- The NACK stitch of a collected NACK (R157). Its SEQ is that of the first request it answers (R154). -/
def nackStitch (a : NackPend) : Stitch :=
  Stitch.sealed
    { dstNode := a.node, dstSite := a.srcSite, srcNode := a.dstNode, srcSite := a.site, tenant := a.tenant, cls := 1
      opcode := opNACK, seq := (a.entries.head?.map (·.1)).getD 0, countM1 := 63, opf := a.entries.length - 1
      data := padTo 64 ((a.entries.map (fun e => leBytes 2 e.1 ++ [e.2, 0])).flatten) }

/-- The adapter of `site` acknowledges a stitch: its bit joins the flow's ACK; an ACK that the bit does not fit is sent first (R156). -/
def Chip.ack (c : Chip) (site : Nat) (st : Stitch) : Chip :=
  let mine := fun (a : AckPend) => a.site == site && a.node == st.srcNode && a.srcSite == st.srcSite && a.tenant == st.tenant && a.dstNode == st.dstNode
  let fresh : AckPend := ⟨site, st.srcNode, st.srcSite, st.tenant, st.dstNode, st.seq, [0], c.cycles⟩
  match c.xport.acks.find? mine with
  | none => { c with xport := { c.xport with acks := c.xport.acks ++ [fresh] } }
  | some a =>
    let o := subMod 16 st.seq a.base
    if o < 512 then { c with xport := { c.xport with acks := updFirst mine (fun a => { a with offs := a.offs ++ [o] }) c.xport.acks } }
    else ({ c with xport := { c.xport with acks := updFirst mine (fun _ => fresh) c.xport.acks } }).send site (ackStitch a)

/-- The adapter of `site` refuses a stitch that arrived: counted there, and an entry in the flow's NACK (R152, R157). A stitch with a reserved opcode has one too (R22, R144); CTRL and
answers are answered by nothing. -/
def Chip.refuse (c : Chip) (site : Nat) (st : Stitch) (status : Nat) : Chip :=
  let c := c.countRefused site status
  if st.opcode == opCTRL || opResponse st.opcode then c
  else
    let mine := fun (a : NackPend) => a.site == site && a.node == st.srcNode && a.srcSite == st.srcSite && a.tenant == st.tenant && a.dstNode == st.dstNode
    match c.xport.nacks.find? mine with
    | none => { c with xport := { c.xport with nacks := c.xport.nacks ++ [⟨site, st.srcNode, st.srcSite, st.tenant, st.dstNode, [(st.seq, status)], c.cycles⟩] } }
    | some a =>
      if a.entries.length < 15 then
        { c with xport := { c.xport with nacks := updFirst mine (fun a => { a with entries := a.entries ++ [(st.seq, status)] }) c.xport.nacks } }
      else ({ c with xport := { c.xport with nacks := dropFirst mine c.xport.nacks } }).send site
        (nackStitch { a with entries := a.entries ++ [(st.seq, status)] })

/-- The answer records of a partial that an edge site released: every merged stitch is answered with the same status (R268, R280). -/
def Chip.relayAnswers (c : Chip) (r : RelayRec) (status : Nat) : Chip :=
  let c := { c with red := { c.red with relays := dropFirst (fun x => x == r) c.red.relays } }
  let c := if isErr status then c.count (R.RED_CTX_D_ERRORS r.ctx) r.held.length else c
  c.each r.held (fun c st => if isErr status then c.refuse (18 + r.edge) st status else c.ack (18 + r.edge) st)

/-- The answer records behind an outstanding stitch. -/
def Chip.relayOf (c : Chip) (e : OutEntry) : Option RelayRec :=
  c.red.relays.find? (fun r => 18 + r.edge == e.site && r.node == e.st.dstNode && r.tenant == e.st.tenant && r.seq == e.st.seq)

/-- A LOAD that ends UNREACHABLE or TIMEOUT is reported, naming the node (R259). -/
def Chip.loadLost (c : Chip) (st : Stitch) (status : Nat) : Chip :=
  if st.opcode = opLOAD ∧ (status = stUNREACHABLE ∨ status = stTIMEOUT) then
    c.report (Unit.node st.dstNode) [st.tenant] 1 opLOAD status actReported
  else c

/-- An outstanding stitch completes with a status: the requester's completion and the count at the source (R155, R162, R163); the stitches merged into
it at an edge site have theirs (R268). -/
def Chip.complete (c : Chip) (e : OutEntry) (status : Nat) : Chip :=
  if e.st.opcode = opSEND then c.answerSend e.site e.st status
  else match c.relayOf e with
  | some r => c.relayAnswers r status
  | none =>
    let c := (c.loadLost e.st status).finish e.site e.st status
    if countsAtSource e.st.opcode e.st.cnt then
      c.landCount e.site e.st.sync (if e.st.opcode = opREDUCE then e.st.opf + 1 else 1) status
    else c

/-- An outstanding entry is freed. -/
def Chip.freeOut (c : Chip) (e : OutEntry) : Chip :=
  ({ c with xport := { c.xport with out := dropFirst (fun x => x == e) c.xport.out } }).outCounts e.site

/-- The next sequence of a flow (R154). -/
def Chip.flowNext (c : Chip) (site node tenant : Nat) : Nat := (getKey (site, node, tenant) c.xport.nextSeq).getD 0

/-- Whether a site's outstanding table, its flows and the flow itself have room for one more stitch (R155). A timed-out stitch is no longer outstanding, but its sequence stays counted in
the flow for E2E_TIMEOUT rows (R158). -/
def Chip.outRoom (c : Chip) (site node tenant : Nat) : Bool :=
  let mine := c.xport.out.filter (fun e => e.site == site)
  let flow := mine.filter (fun e => e.st.dstNode == node && e.st.tenant == tenant)
  let live := mine.filter (fun e => e.dead.isNone)
  let flows := (live.map (fun e => (e.st.dstNode, e.st.tenant))).eraseDups
  live.length < 65536 && flow.length < 32768 && (flows.contains (node, tenant) || flows.length < 2048)

/-- A dimension of ROUTE.DIMS: zero acts as 1, above 16 as 16 (R225). -/
def dimOf (v : Nat) : Nat := max 1 (min 16 v)

/-- DX, DY and DZ (R225). -/
def Chip.dims (c : Chip) : Nat × Nat × Nat := (dimOf (c.rd R.ROUTE_DIMS_DX), dimOf (c.rd R.ROUTE_DIMS_DY), dimOf (c.rd R.ROUTE_DIMS_DZ))

/-- N, the number of nodes of the system (R225). -/
def Chip.nodeCount (c : Chip) : Nat := c.dims.1 * c.dims.2.1 * c.dims.2.2

/-- Whether node `n` is unreachable at this package (R242). -/
def Chip.nodeUnreachable (c : Chip) (n : Nat) : Bool :=
  n != c.node && (decide (c.nodeCount ≤ n) || c.rd (R.ROUTE_NODE_STATE_STATE n) == 1 || c.rd (R.ROUTE_NODE_STATE_STATE n) == 2)

/-- Whether system routing reaches a node (R151, R242). -/
def Chip.reaches (c : Chip) (node : Nat) : Bool := !c.nodeUnreachable node

/-- Whether a PPA lies in the stacked SRAM or a core scratch aperture of compute die `d` (R173, R308). -/
def inDieMemory (d a : Nat) : Bool :=
  let sram := 0x10000000000 + d * 0x40000000
  let scr := 0x10200000000 + d * (136 * 0x200000)
  (decide (sram ≤ a) && decide (a < sram + 0x40000000)) || (decide (scr ≤ a) && decide (a < scr + 136 * 0x200000))

/-- The object a request counts at its source is a counter or completion counter of the tenant (R282). -/
def Chip.syncCountable (c : Chip) (obj tenant : Nat) : Bool :=
  match getKey obj c.sync.objs with
  | some o => (o.kind == 1 || o.kind == 2) && o.tenant == tenant
  | none => false

/-- The checks of the source adapter in order; the status of the first that fails (R151, R145, R173, R282). The rules give the WINDOW refusal of a STREAM_READ no place in that order: it is made
here after the SYNC check and before the checks of the way (DESIGN CHOICE, log entry 158; safe). -/
def Chip.entryCheck (c : Chip) (site : Nat) (st : Stitch) : Nat :=
  let here := st.dstNode == c.node
  if !((decide (st.dstSite < 24) && !(here && st.dstSite == site)) || st.dstSite == 31) then stMALFORMED
  else if !(st.opcode == opCTRL && site == 31) && !c.tenantOn st.tenant then stTENANT
  else if !opDefined st.opcode || !classAllowed st.opcode st.cls
      || (st.opcode == opSTREAM_READ && !decide (site < 8)) || (st.opcode == opCTRL && site != 31)
      || (st.opcode == opSYNC_OP && st.dstSite != 31) then stMALFORMED
  else if countsAtSource st.opcode st.cnt && !c.syncCountable st.sync st.tenant then stSYNC
  else if st.opcode == opSTREAM_READ && !(inDieMemory site (leField st.data 0 8) && inDieMemory site (leField st.data 8 8)) then stWINDOW
  else if here && st.dstSite != 31 && site != 31 && c.skeinLost site st.dstSite then stNO_PATH
  else if !here && !c.reaches st.dstNode then stUNREACHABLE
  else stOK

/-- OPSPEC, OPF and PPA of a request with what the opcode table marks zero made zero, and the address of a block aligned (R142, R144). -/
def zeroed (st : Stitch) : Stitch :=
  let o := st.opcode
  let keep := fun (low high : Nat) => st.opspec % 2 ^ high / 2 ^ low * 2 ^ low
  let block := st.ppa / 64 * 64
  if o = opLOAD then { st with opspec := 0, opf := st.opf % 16, ppa := block, data := [] }
  else if o = opSTORE then { st with opspec := 0, opf := st.opf % 2, ppa := block }
  else if o = opMC_STORE then { st with opspec := keep 6 18, opf := st.opf % 2, ppa := block }
  else if o = opATOMIC then { st with opspec := keep 10 18, opf := 0, ppa := block }
  else if o = opREDUCE then { st with opf := 0, ppa := block }
  else if o = opSEND then { st with opspec := keep 2 18, opf := 0, ppa := st.ppa / 2 ^ 40 * 2 ^ 40 }
  else if o = opSTREAM_READ then { st with opspec := keep 10 14, opf := 0 }
  else if o = opRUN_OPEN then { st with opspec := keep 8 18, opf := st.opf % 4, start := 0, countM1 := 63, ppa := block }
  else if o = opSYNC_OP then { st with opspec := keep 12 18, opf := 0 }
  else if o = opCTRL then { st with opspec := keep 10 18 }
  else st

/-- DATA with every byte outside START to START + COUNT_M1 zero (R142). -/
def coveredData (start countM1 : Nat) (data : List Nat) : List Nat :=
  (padTo 64 data).zipIdx.map (fun x => if start ≤ x.2 ∧ x.2 ≤ start + countM1 then x.1 else 0)

/-- The stitch that a source adapter builds from a request it accepted (R142, R147, R149, R154). A range that would run past the block ends with it (log entry 130). -/
def Chip.build (c : Chip) (site : Nat) (req : Stitch) : Stitch :=
  let st := zeroed req
  let start := st.start % 64
  let countM1 := min st.countM1 (63 - start)
  c.stamped { st with version := 1, srcNode := c.node, srcSite := site, hops := 0, escape := 0, rsv := 0, start := start, countM1 := countM1
                      seq := if opSequenced st.opcode then c.flowNext site st.dstNode st.tenant else if st.opcode = opCTRL then 0 else st.seq
                      data := coveredData start countM1 st.data }

/-- Whether a request has to wait at entry (R154, R155): at a limit; behind requests of its flow that wait; while a message of its flow is entering, but for that message's next stitch; or as
a stitch of a message whose first has not entered. -/
def Chip.entryStalls (c : Chip) (site : Nat) (req : Stitch) : Bool :=
  !c.outRoom site req.dstNode req.tenant ||
    (!c.continues site req &&
      ((c.entering site req.dstNode req.tenant).isSome || (req.opcode == opSEND && sendIndex req != 0)
        || (c.xport.stalled.any (fun x => x.1 == site && x.2.dstNode == req.dstNode && x.2.tenant == req.tenant
              && !(x.2.opcode == opSEND && sendIndex x.2 != 0 && req.opcode == opSEND && sendIndex req == 0)))))

/-- Whether a later stitch of a message waits for the first, which is stalled at entry; its checks are made when its turn comes (R154). -/
def Chip.waitsForFirst (c : Chip) (site : Nat) (req : Stitch) : Bool :=
  req.opcode == opSEND && sendIndex req != 0 && (c.sendRecord site req true).isNone
    && c.xport.stalled.any (fun x => x.1 == site && x.2.opcode == opSEND && sendIndex x.2 == 0 && sendTotal x.2 == sendTotal req && x.2.dstNode == req.dstNode
      && x.2.tenant == req.tenant && x.2.dstSite == req.dstSite && queueNo x.2 == queueNo req)

/-- A source adapter takes a request: refused with the status of the first check that fails, stalled where it has to wait, else built, made outstanding and given to the fabric
(R151, R154, R155). A refusal for a lost skein is counted (R56). -/
def Chip.enterOne (c : Chip) (site : Nat) (req : Stitch) : Chip :=
  let status := c.entryCheck site req
  if c.waitsForFirst site req then { c with xport := { c.xport with stalled := c.xport.stalled ++ [(site, req)] } }
  else if status ≠ stOK then
    let c := if status = stNO_PATH then c.count R.OPF_NO_PATH_COUNT_COUNT else c
    c.refuseEntry site req status
  else if opSequenced req.opcode && c.entryStalls site req then
    { c with xport := { c.xport with stalled := c.xport.stalled ++ [(site, req)] } }
  else
    let st := c.build site req
    if opSequenced req.opcode then
      let c := if req.opcode = opSEND then c.messageEnters site req (some st.seq) else c
      let x := c.xport
      let c := { c with xport := { x with
        nextSeq := putKey (site, req.dstNode, req.tenant) ((st.seq + 1) % 65536) x.nextSeq
        out := x.out ++ [({ site := site, st := st, row := c.row } : OutEntry)] } }
      (c.outCounts site).send site { st with tag := 0 }
    else c.send site st

/-- The requests stalled at entry are tried again in their order (R155). -/
def Chip.unstallOnce (c : Chip) : Chip :=
  let q := c.xport.stalled
  ({ c with xport := { c.xport with stalled := [] } }).each q (fun c x => c.enterOne x.1 x.2)

/-- The requests stalled at entry are tried again until none enters any more: a message lets the stitches that wait for it follow (R154, R155). -/
def Chip.unstall (c : Chip) : Chip := if c.xport.stalled.isEmpty then c else c.each c.xport.stalled (fun c _ => c.unstallOnce)

/-- A request at a source adapter, and those that it lets enter. -/
def Chip.enter (c : Chip) (site : Nat) (req : Stitch) : Chip := let c := c.enterOne site req
  if req.opcode = opSEND then c.unstall else c

/-- The collected ACKs and NACKs of a site whose delay has passed are sent (R156, R157). -/
def Chip.sendAnswers (c : Chip) (site : Nat) : Chip :=
  let due := fun (s since : Nat) => s == site && decide (c.ackDelay site ≤ c.cycles - since)
  let as := c.xport.acks.filter (fun a => due a.site a.since)
  let ns := c.xport.nacks.filter (fun a => due a.site a.since)
  let c := { c with xport := { c.xport with acks := c.xport.acks.filter (fun a => !due a.site a.since)
                                            nacks := c.xport.nacks.filter (fun a => !due a.site a.since) } }
  (c.each as (fun c a => c.send site (ackStitch a))).each ns (fun c a => c.send site (nackStitch a))

/-- A response stitch to a request, with data and completion status OK (R144): fields of the flow turned round. -/
def responseTo (site : Nat) (st : Stitch) (opcode : Nat) (data : List Nat) : Stitch :=
  Stitch.sealed
    { dstNode := st.srcNode, dstSite := st.srcSite, srcNode := st.dstNode, srcSite := site, tenant := st.tenant, cls := 1
      opcode := opcode, seq := st.seq, sync := st.sync, start := st.start, countM1 := st.countM1, opspec := st.opspec
      ppa := st.ppa, data := padTo 64 data }

/-- The live outstanding entry of a site that an answer names (R156, R158). -/
def Chip.outstanding (c : Chip) (site node tenant seq : Nat) : Option OutEntry :=
  c.xport.out.find? (fun e => e.site == site && e.st.dstNode == node && e.st.tenant == tenant && e.st.seq == seq && e.dead.isNone)

/-- One answered sequence: matched and completed, or counted as late (R158). An MC_STORE completes with its TOTALth answer, the first error kept (R278). -/
def Chip.answerOne (c : Chip) (site node tenant seq status : Nat) : Chip :=
  match c.outstanding site node tenant seq with
  | some e =>
    if e.st.opcode = opMC_STORE ∧ e.answers + 1 < c.rd (R.RED_MC_B_TOTAL (fget e.st.opspec 17 6)) then
      let kept := fun (x : OutEntry) => { x with answers := x.answers + 1, firstErr := if x.firstErr = 0 then (if isErr status then status else 0) else x.firstErr }
      { c with xport := { c.xport with out := updFirst (fun x => x == e) kept c.xport.out } }
    else ((c.freeOut e).complete e (if e.firstErr = 0 then status else e.firstErr)).unstall
  | none => if site < 24 then c.count (R.SITE_LATE_COUNT site) else c

/-- An ACK or NACK arrives at the adapter of `site` (R156 to R158). -/
def Chip.answerMany (c : Chip) (site : Nat) (st : Stitch) : Chip :=
  if st.opcode = opACK then
    c.each (setBits 512 (leNat (padTo 64 st.data))) (fun c i => c.answerOne site st.srcNode st.tenant ((st.seq + i) % 65536) stOK)
  else
    c.each (List.range (st.opf % 16 + 1)) (fun c n =>
      c.answerOne site st.srcNode st.tenant (leField st.data (4 * n) 2) (st.data.getD (4 * n + 2) 0))

/-- Whether a response opcode answers a request opcode (R144). -/
def answers (rsp req : Nat) : Bool :=
  (rsp == opLOAD_RSP && req == opLOAD) || (rsp == opATOMIC_RSP && req == opATOMIC) || (rsp == opSYNC_RSP && req == opSYNC_OP)
    || (rsp == opSTREAM_DATA && req == opSTREAM_READ) || (rsp == opSTREAM_END && req == opSTREAM_READ)

/-- An entry whose end-to-end timeout has run completes TIMEOUT and stays counted in its flow (R158). -/
def Chip.timeOut (c : Chip) (e : OutEntry) : Chip :=
  let c := { c with xport := { c.xport with out := updFirst (fun x => x == e) (fun x => { x with dead := some c.row }) c.xport.out } }
  (((c.outCounts e.site).countRefused e.site stTIMEOUT).complete e stTIMEOUT).unstall

/-- The rows of the end-to-end timeout of a site (SITE.XPORT_CFG.E2E_TIMEOUT). -/
def Chip.e2eRows (c : Chip) (site : Nat) : Nat :=
  if site < 24 then max 0x40 (c.rd (R.SITE_XPORT_CFG_E2E_TIMEOUT site)) else 0x1000

/-- Timed-out entries whose sequences are no longer counted leave the table, and requests that waited for them enter (R155, R158). -/
def Chip.purgeDead (c : Chip) : Chip :=
  ({ c with xport := { c.xport with out := c.xport.out.filter (fun e => match e.dead with
      | some r => decide (c.row < r + c.e2eRows e.site)
      | none => true) } } : Chip).unstall

/-- The request behind a run has its answer from the site that serves it: an acknowledgement or a NACK entry (R195, R222). -/
def Chip.answerPull (c : Chip) (pull : Option (Nat × Stitch)) (status : Nat) : Chip :=
  match pull with
  | none => c
  | some (site, st) => if isErr status then c.refuse site st status else c.ack site st

/-- A run request ends before it opened: its requester's completion and count, and the answer to the request behind it (R189). -/
def Chip.refuseRun (c : Chip) (w : RunWait) (status : Nat) : Chip :=
  let c := c.answerPull w.pull status
  let c := match w.relayOf with
    | some (s, e, n) => { c with circ := { c.circ with dst := c.circ.dst.filter (fun d => !(d.site == s && d.e == e && d.runNo == n)) } }
    | none => c
  if w.pull.isSome then c.countRefused w.site status else c.refuseEntry w.site { w.opening with opcode := opRUN_OPEN } status

/-- The run requests that wait at entry and satisfy `p` are refused with a status (R56, R159). -/
def Chip.refuseWaits (c : Chip) (p : RunWait → Bool) (status : Nat) : Chip :=
  let hit := c.circ.waits.filter p
  ({ c with circ := { c.circ with waits := c.circ.waits.filter (fun w => !p w) } }).each hit (fun c w =>
    (if status = stNO_PATH then c.count R.OPF_NO_PATH_COUNT_COUNT else c).refuseRun w status)

/-- Every outstanding and waiting request to a node that is declared unreachable completes UNREACHABLE, a run request that waits for a circuit with them; a LOAD among them is reported
(R159, R259). -/
def Chip.nodeGone (c : Chip) (node : Nat) : Chip :=
  let hit := c.xport.out.filter (fun e => e.st.dstNode == node && e.dead.isNone)
  let stalled := c.xport.stalled.filter (fun x => x.2.dstNode == node)
  let c := c.refuseWaits (fun w => w.opening.dstNode == node) stUNREACHABLE
  let c := { c with xport := { c.xport with stalled := c.xport.stalled.filter (fun x => x.2.dstNode != node)
                                            waiting := c.xport.waiting.filter (fun x => x.2.dstNode != node || x.2.dstNode == c.node) } }
  let c := c.each hit (fun c e => (((c.freeOut e).countRefused e.site stUNREACHABLE).complete e stUNREACHABLE))
  (c.each stalled (fun c x => (c.loadLost x.2 stUNREACHABLE).refuseEntry x.1 x.2 stUNREACHABLE)).unstall

/-! Ingress credits (R168). -/

/-- The credit pool of a stitch: 1 for responses, ACKs and NACKs, 0 for requests. -/
def creditPool (st : Stitch) : Nat := if opResponse st.opcode then 1 else 0

/-- The size of a pool. -/
def poolSize (pool : Nat) : Nat := if pool = 0 then 1024 else 256

/-- Whether a source holds a credit of the pool that a stitch for a site of this package needs. -/
def Chip.hasCredit (c : Chip) (s d : Nat) (st : Stitch) : Bool :=
  decide ((getKey (s, d, creditPool st) c.xport.credits).getD 0 < poolSize (creditPool st))

/-- A credit is taken when the stitch is placed. -/
def Chip.takeCredit (c : Chip) (s d : Nat) (st : Stitch) : Chip :=
  let k := (s, d, creditPool st)
  { c with xport := { c.xport with credits := putKey k ((getKey k c.xport.credits).getD 0 + 1) c.xport.credits } }

/-- A credit is given back by a stitch that its destination never took (R134). -/
def Chip.giveCredit (c : Chip) (s d : Nat) (st : Stitch) : Chip :=
  let k := (s, d, creditPool st)
  { c with xport := { c.xport with credits := putKey k ((getKey k c.xport.credits).getD 0 - 1) c.xport.credits } }

/-- The destination has performed or forwarded the stitch: its entry is freed and waits to be returned. -/
def Chip.freeCredit (c : Chip) (s d : Nat) (st : Stitch) : Chip :=
  let k := (s, d, creditPool st)
  if s < 24 ∧ d < 24 then
    let n := (getKey k c.xport.freed).getD 0
    { c with xport := { c.xport with freed := putKey k (min ((getKey k c.xport.credits).getD 0) (n + 1)) c.xport.freed
                                     freedAt := if n % 64 = 0 then putKey k c.cycles c.xport.freedAt else c.xport.freedAt } }
  else c

/-- Whether freed credits of a pool may return (R168): a batch of 64, or a part-batch whose first entry was freed 128 fabric cycles ago. -/
def Chip.creditsDue (c : Chip) (s d pool : Nat) : Bool :=
  let k := (s, d, pool)
  decide (64 ≤ (getKey k c.xport.freed).getD 0) || decide ((getKey k c.xport.freedAt).getD 0 + 128 ≤ c.cycles)

/-- A batch of at most 64 freed credits of a pool returns to its source when it is due (R168). -/
def Chip.returnCredits (c : Chip) (s d pool : Nat) : Chip :=
  let k := (s, d, pool)
  let n := min 64 ((getKey k c.xport.freed).getD 0)
  if c.creditsDue s d pool then
    { c with xport := { c.xport with freed := putKey k ((getKey k c.xport.freed).getD 0 - n) c.xport.freed
                                     credits := putKey k ((getKey k c.xport.credits).getD 0 - n) c.xport.credits } }
  else c

end Sys2Proof.Machine
end

