-- ==== Sys2Proof/Machine/LaneOps.lean ====
section
/-! DEFINITION. Lanes by name: what a lane is for, where it ends, its partner, its state, the frames it holds, and a fence of it
(R34 to R36, R127, R133 to R135, R177). A lane is named by site, plane and wavelength of its transmit ring. -/

namespace Sys2Proof.Machine

/-- Lane states (R135). -/
def lsOFF : Nat := 0
def lsTRAIN : Nat := 1
def lsUP : Nat := 2
def lsCAL : Nat := 3
def lsTEST : Nat := 4
def lsHOLD : Nat := 5
def lsFENCED : Nat := 6
def lsPARKED : Nat := 7
def lsMONITOR : Nat := 8

/-- The state of a lane (LANE.STATE). -/
def Chip.laneState (c : Chip) (s p k : Nat) : Nat := c.rd (R.LANE_STATE_STATE s p k)

/-- A result of the pattern generator or of error injection: status and the row in which it changed. -/
def Chip.patResult (c : Chip) (site status : Nat) : Chip := (c.wr (R.LANE_PAT_RESULT_STATUS site) status).wr (R.LANE_PAT_RESULT_ROW site) c.row16
def Chip.injResult (c : Chip) (site status : Nat) : Chip := (c.wr (R.LANE_INJ_RESULT_STATUS site) status).wr (R.LANE_INJ_RESULT_ROW site) c.row16

/-- An armed injection of a lane is cancelled (R140). -/
def Chip.cancelInjection (c : Chip) (s p k : Nat) : Chip :=
  if c.lanes.inj.any (fun i => i.site == s && i.plane == p && i.k == k) then
    (c.onLanes (fun y => { y with inj := y.inj.filter (fun i => !(i.site == s && i.plane == p && i.k == k)) })).injResult s 3
  else c

/-- A lane takes a state; one that leaves Up loses its armed injection (R140), and the slot calendar of the row keeps what the lane was (R165). -/
def Chip.setLane (c : Chip) (s p k v : Nat) : Chip :=
  let was := c.laneState s p k == lsUP
  let c := if (getKey (s, p, k) c.lanes.wasUp).isSome then c else c.onLanes (fun y => { y with wasUp := y.wasUp ++ [((s, p, k), was)] })
  (if v = lsUP then c else c.cancelInjection s p k).wr (R.LANE_STATE_STATE s p k) v

/-- The destination site of a fixed lane, where it has the plane (R34, R36). -/
def fixedDest (s p k : Nat) : Option Nat := if p < Config.fixedPlanes ((s + k) % 24) then some ((s + k) % 24) else none

/-- Whether a lane is a self-test lane (R35). -/
def selfTest (s p k : Nat) : Bool := Config.planeKind s p == 1 && k == 0

/-- Whether a lane is a monitor lane (R36). -/
def monitorLane (s p k : Nat) : Bool := Config.planeKind s p == 1 && (fixedDest s p k).isNone

/-- Whether a lane is a fixed traffic lane. -/
def fixedTraffic (s p k : Nat) : Bool := Config.planeKind s p == 1 && k != 0 && (fixedDest s p k).isSome && decide (k < 24)

/-- Whether a lane carries traffic: a fixed traffic lane or a lane of a switched plane. -/
def trafficLane (s p k : Nat) : Bool := fixedTraffic s p k || Config.planeKind s p == 2

/-- Whether plane `p` of site `s` takes its light from branch H: fixed planes 16 to 31, switched and spare planes (R64). -/
def branchH (s p : Nat) : Bool := if Config.planeKind s p = 1 then decide (16 ≤ p) else decide (Config.planeKind s p ≠ 0)

/-- The global index of switched plane or bank `p` of site `s` (R177). -/
def switchedIndex (s p : Nat) : Nat := if s < 8 then 8 * s + (p - 32) else if s < 18 then 64 + 4 * (s - 10) + (p - 32) else 96 + 4 * (s - 18) + (p - 32)

/-- The site and plane of a global index (R177). -/
def switchedAt (e : Nat) : Nat × Nat := if e < 64 then (e / 8, 32 + e % 8) else if e < 96 then (10 + (e - 64) / 4, 32 + e % 4) else (18 + (e - 96) / 4, 32 + e % 4)

/-- The state of a lane in service (R35, R36, R41, R135): Up for a traffic lane, Parked where no circuit points its plane, Monitor for self-test and monitor lanes. A spare plane's own
entries hold no state: they follow the side (LANE.STATE of a spare plane). -/
def Chip.serviceState (c : Chip) (s p k : Nat) : Nat :=
  match Config.planeKind s p with
  | 1 => if fixedTraffic s p k then lsUP else lsMONITOR
  | 2 => if c.rd (R.CIRC_PLANE_STATE (switchedIndex s p)) = 1 then lsUP else lsPARKED
  | _ => lsOFF

/-- The receive side where a lane ends: its plane's bank at its destination, the bank its circuit points at, or its own site's bank while
parked (R34, R41). None for a monitor lane. -/
def Chip.rxSide (c : Chip) (s p k : Nat) : Option Side :=
  match Config.planeKind s p with
  | 1 => (fixedDest s p k).map (fun d => ⟨d, p, true⟩)
  | 2 =>
    let e := switchedIndex s p
    if c.rd (R.CIRC_PLANE_STATE e) = 1 then
      let b := switchedAt (c.rd (R.CIRC_PLANE_DST_BANK e))
      some ⟨b.1, b.2, true⟩
    else some ⟨s, p, true⟩
  | 3 => some ⟨s, p, true⟩
  | _ => none

/-- The lanes that a plane side carries, by the names of their transmit rings. -/
def Chip.sideLanes (c : Chip) (x : Side) : List (Nat × Nat × Nat) :=
  if !x.rx then (List.range 24).map (fun k => (x.site, x.plane, k))
  else match Config.planeKind x.site x.plane with
  | 1 => ((List.range 24).map (fun k => ((x.site + 24 - k) % 24, x.plane, k))).filter (fun l => Config.planeKind l.1 x.plane == 1)
  | 2 =>
    let e := switchedIndex x.site x.plane
    ((List.range 112).filter (fun f => (c.rd (R.CIRC_PLANE_STATE f) == 1 && c.rd (R.CIRC_PLANE_DST_BANK f) == e)
        || (f == e && c.rd (R.CIRC_PLANE_STATE f) == 0))).flatMap
      (fun f => (List.range 24).map (fun k => ((switchedAt f).1, (switchedAt f).2, k)))
  | _ => []

/-- The partner of a fixed traffic lane (R127); a self-test lane is its own. -/
def partner (s p k : Nat) : Option (Nat × Nat × Nat) :=
  if selfTest s p k then some (s, p, k) else if fixedTraffic s p k then some ((s + k) % 24, p, (24 - k) % 24) else none

/-- The sending and the receiving end of a lane's link. -/
def Chip.linkTx (c : Chip) (l : Nat × Nat × Nat) : LinkTx := (getKey l c.lanes.tx).getD {}
def Chip.linkRx (c : Chip) (l : Nat × Nat × Nat) : LinkRx := (getKey l c.lanes.rx).getD {}
def Chip.setTx (c : Chip) (l : Nat × Nat × Nat) (x : LinkTx) : Chip := c.onLanes (fun y => { y with tx := putKey l x y.tx })
def Chip.setRx (c : Chip) (l : Nat × Nat × Nat) (x : LinkRx) : Chip := c.onLanes (fun y => { y with rx := putKey l x y.rx })

/-- The frames that a lane holds and its receiver did not accept (R134). -/
def Chip.heldFrames (c : Chip) (l : Nat × Nat × Nat) : List Frame :=
  (c.linkTx l).replay.filter (fun f => decide (subMod 16 f.seq (c.linkRx l).expect < 32768))

/-- The source adapter reissues the stitches of the held STITCH frames of a lane on the other lanes of its skein, and openings on the other lanes of their circuit; the ingress credits that they
took are given back, for they take others when they are placed again (R134, R168). -/
def Chip.reissue (c : Chip) (l : Nat × Nat × Nat) : Chip :=
  let sts := ((c.heldFrames l).filter (fun f => f.ftype == ftSTITCH)).flatMap Frame.stitches
  let c := match c.rxSide l.1 l.2.1 l.2.2 with
    | some x => c.each sts (fun c st => c.giveCredit l.1 x.site st)
    | none => c
  let c := if Config.planeKind l.1 l.2.1 = 2 then
      c.onCirc (fun y => { y with src := y.src.map (fun r => if sts.contains r.opening then
        { r with opened := false, startLane := if r.startLane = l.2.2 then (r.deal.filter (fun k => k != l.2.2)).headD l.2.2 else r.startLane } else r) })
    else c.onXport (fun y => { y with waiting := sts.map (fun st => (l.1, st)) ++ y.waiting })
  c.setTx l { c.linkTx l with replay := (c.linkTx l).replay.filter (fun f => f.ftype == ftRUN), resend := 0 }

/-- The sites that hold an end of a lane, which its swatch or pattern run books (R103, R108, R139). -/
def Chip.laneSites (c : Chip) (s p k : Nat) : List Nat :=
  if Config.siteKind s = .edge ∧ 38 ≤ p then [s]
  else match c.rxSide s p k with
  | some x => if x.site = s then [s] else [s, x.site]
  | none => [s]

/-- Whether a site is booked by a lane swatch, or by a pattern run of a traffic lane (R103, R139). -/
def Chip.siteBooked (c : Chip) (s : Nat) : Bool :=
  c.tns.swatches.any (fun w => w.sites.contains s) || c.lanes.runs.any (fun r => r.booked && !r.selfTest && (c.laneSites r.site r.plane r.k).contains s)
    || c.edge.runs.any (fun r => r.booked && 18 + r.site / 4 == s)

/-- The sites of a lane show it in TNS.SWATCH_NOW: the lane, its scope, which end the site has. -/
def Chip.showBooking (c : Chip) (sites : List Nat) (site plane k scope : Nat) : Chip :=
  c.each sites (fun c s =>
    ((((((c.wr (R.TNS_SWATCH_NOW_ACTIVE s) 1).wr (R.TNS_SWATCH_NOW_END s) (b2n (s != site))).wr (R.TNS_SWATCH_NOW_SCOPE s) scope).wr
      (R.TNS_SWATCH_NOW_PLANE s) plane).wr (R.TNS_SWATCH_NOW_K s) k).wr (R.TNS_SWATCH_NOW_STEP_ROW s) 0).wr (R.TNS_STATUS_SWATCH_BUSY s) 1)
def Chip.clearBooking (c : Chip) (sites : List Nat) : Chip :=
  c.each sites (fun c s => (c.wr (R.TNS_SWATCH_NOW_ACTIVE s) 0).wr (R.TNS_STATUS_SWATCH_BUSY s) 0)

/-- A pattern run leaves the sites that it books. -/
def Chip.runLeaves (c : Chip) (r : PatRun) : Chip := if r.booked && !r.selfTest then c.clearBooking (c.laneSites r.site r.plane r.k) else c

/-- The pattern runs of a lane end with a status, and its armed injection is not applied (R136, R140). -/
def Chip.endTests (c : Chip) (s p k status : Nat) : Chip :=
  let run := fun (r : PatRun) => r.site == s && r.plane == p && r.k == k
  let runs := c.lanes.runs.filter run
  ((c.onLanes (fun y => { y with runs := y.runs.filter (fun r => !run r) })).each runs (fun c r => (c.runLeaves r).patResult s status)).cancelInjection s p k

/-- A lane is fenced at both ends with a code (R133, R134): nothing further is placed on it, its held frames stay, its tests end, and the
acknowledgements of the lane that runs the other way are late (R137). A lane that is fenced already keeps its first code, but for a lower one of the same fabric cycle (R136). -/
def Chip.fenceLane (c : Chip) (s p k code : Nat) : Chip :=
  if c.laneState s p k = lsFENCED then
    (if getKey (s, p, k) c.lanes.fencedAt = some c.cycles then c.wr (R.LANE_STATE_REASON s p k) (min code (c.rd (R.LANE_STATE_REASON s p k))) else c)
  else
    let c := ((c.setLane s p k lsFENCED).wr (R.LANE_STATE_REASON s p k) code).endTests s p k 7
    let c := c.onLanes (fun y => { y with fencedAt := putKey (s, p, k) c.cycles y.fencedAt })
    match partner s p k with
    | some q => c.setTx q { c.linkTx q with ackLate := true }
    | none => c

/-- A retry event of a lane (R132): counted in LANE.RETRY, and in the fence window unless it is excepted. -/
def Chip.retryEvent (c : Chip) (l : Nat × Nat × Nat) (inWindow : Bool) : Chip :=
  let c := c.count (R.LANE_RETRY_COUNT l.1 l.2.1 l.2.2)
  if inWindow then
    let t := c.linkTx l
    let w := t.window.filter (fun r => decide (c.row < r + c.rdPos (R.LANE_CFG_RETRY_WIN l.1))) ++ [c.row]
    (c.setTx l { t with window := w }).wr (R.LANE_STATE_WIN_COUNT l.1 l.2.1 l.2.2) (min 255 w.length)
  else c

/-- The held frames of a lane are to be resent by one go-back (R131). -/
def Chip.goBack (c : Chip) (l : Nat × Nat × Nat) : Chip :=
  let t := c.linkTx l
  c.setTx l { t with resend := t.replay.length, waited := 0, backs := t.backs + 1 }

/-- The link of a lane resynchronizes before the lane returns from Cal or Test (R104, R139): the PATTERN frames of a run in frame mode that were not acknowledged are gone, and their sequences with
them; the receiver expects the oldest frame that the sender still holds, or the next. -/
def Chip.resync (c : Chip) (l : Nat × Nat × Nat) : Chip :=
  let t := c.linkTx l
  let r := c.linkRx l
  let held := t.replay.filter (fun f => f.ftype != ftPATTERN)
  let next := match held.getLast? with
    | some f => (f.seq + 1) % 65536
    | none => t.nextSeq
  let c := (c.setTx l { t with replay := held, nextSeq := next, resend := held.length, waited := 0, injected := none, quiet := false }).setRx l
    { r with expect := ((held.head?.map (·.seq)).getD next), nakDue := false, nakSent := false, nakSlots := 0, badMarkers := 0 }
  if next = t.nextSeq then c else c.wr (R.LANE_STATE_NEXT_SEQ l.1 l.2.1 l.2.2) next

/-- A switched lane has locked to its source: the phase store of its receive lane has an entry for it (R119). -/
def Chip.phaseLocked (c : Chip) (l : Nat × Nat × Nat) : Chip :=
  if Config.planeKind l.1 l.2.1 = 2 then
    (match c.rxSide l.1 l.2.1 l.2.2 with
    | some x => c.onLanes (fun y => { y with phases := putKey (x.site, x.plane, l.2.2, l.1) c.row y.phases })
    | none => c)
  else c

/-- A lane returns from Cal or Test to what its kind and its circuit give it (R104, R139, R180). -/
def Chip.laneReturns (c : Chip) (l : Nat × Nat × Nat) : Chip :=
  let c := (c.resync l).phaseLocked l
  if c.laneState l.1 l.2.1 l.2.2 = lsCAL ∨ c.laneState l.1 l.2.1 l.2.2 = lsTEST then c.setLane l.1 l.2.1 l.2.2 (c.serviceState l.1 l.2.1 l.2.2) else c

/-- OPF.STATUS.DETECT_HOLD and its copy in LSU.STATUS (R57). -/
def Chip.setDetectHold (c : Chip) (b : Bool) : Chip := (c.wr R.OPF_STATUS_DETECT_HOLD (b2n b)).wr R.LSU_STATUS_DETECT_HOLD (b2n b)

/-- Whether the package enters fallback, is in it, or returns from it (R75, R78, R81). -/
def Chip.fallbackMode (c : Chip) : Bool := decide (4 ≤ c.rd R.LSU_STATUS_MODE) && decide (c.rd R.LSU_STATUS_MODE ≤ 6)

/-- Whether a fence indication is held off (R133): loss of light and of lock of a lane under calibration (R58) or while DETECT_HOLD is set (R57), and those and loss of alignment of a
lane that the light supply holds, in the search of R75 or dark with branch H (R78). -/
def Chip.fenceHeld (c : Chip) (s p k code : Nat) : Bool :=
  let loss := decide (1 ≤ code) && decide (code ≤ 4)
  let swatched := c.tns.swatches.any (fun w => w.begun && w.site == s && w.plane == p && w.k == k)
  (loss && (c.laneState s p k == lsCAL || swatched || c.on R.OPF_STATUS_DETECT_HOLD)) || ((loss || code == 6) && c.laneState s p k == lsHOLD && c.fallbackMode)

/-- A link-acknowledgement message of a lane's receiver has been sent (R128, R137): the count of frame slots starts again, also after a message that a NAK sent at once (DESIGN CHOICE, log entry
162; safe), and a NAK that it carries is sent (R130). -/
def Chip.ackMessageSent (c : Chip) (key : Nat × Nat × Nat) : Chip :=
  let r := c.linkRx key
  let r := { r with ackSlots := 0 }
  c.setRx key (if r.nakDue then { r with nakDue := false, nakSent := true, nakSlots := 0 } else r)

end Sys2Proof.Machine
end

