-- ==== Sys2Proof/Machine/Notices.lean ====
section
/-! DEFINITION. Notices to the fabric manager (R245). -/

namespace Sys2Proof.Machine

/-- A notice to the fabric manager: recorded and not sent while ROUTE.FM.EN is 0; kept while no PCU holds the token; else a class-4 stitch to
site 31 of ROUTE.FM.NODE (R245). -/
def Chip.notice (c : Chip) (subtype : Nat) (data : List Nat) : Chip :=
  if !c.on R.ROUTE_FM_EN then c.event Ev.noticeNotSent none 0 [subtype]
  else if !c.tokenHeld then { c with pcu := { c.pcu with notices := c.pcu.notices ++ [(subtype, data)] } }
  else c.send 31 (c.ctrlStitch (c.rd R.ROUTE_FM_NODE) subtype data)

/-- The notices that waited for the token are sent when a PCU holds it. -/
def Chip.sendNotices (c : Chip) : Chip :=
  if c.tokenHeld then
    let l := c.pcu.notices
    ({ c with pcu := { c.pcu with notices := [] } }).each l (fun c n => c.notice n.1 n.2)
  else c

/-- A LIGHT_STATE notice; its DATA is a free value (log entry 13). -/
def Chip.lightNotice (c : Chip) : Chip :=
  let n := c.drawn
  ({ c with drawn := n + 1 }).notice 1 ((List.range 64).map (Config.lightStateByte n))

end Sys2Proof.Machine
end

