-- ==== Sys2Proof/Machine/Sync.lean ====
section
/-! DEFINITION. The sync store: objects, functions, waits, locks and leases, allocation, count landings
(R281 to R293, R302). -/

namespace Sys2Proof.Machine

/-- Result codes of SYNC_RSP (R285). -/
def srDONE : Nat := 0x0
def srGRANTED : Nat := 0x1
def srBUSY : Nat := 0x2
def srABANDONED : Nat := 0x3
def srGRANTED_ABANDONED : Nat := 0x4
def srNOT_OWNER : Nat := 0x5
def srWRONG_KIND : Nat := 0x6
def srWAIT_LIMIT : Nat := 0x7
def srNO_WAIT : Nat := 0x8
def srNO_LEASE : Nat := 0x9
def srFROGGED : Nat := 0xA
def srBAD_FUNC : Nat := 0xB

/-- Word 0 of an object (R281). -/
def SyncObj.word0 (o : SyncObj) : Nat :=
  o.kind * 2 ^ 60 + o.tenant * 2 ^ 56
    + (if o.kind = 4 then b2n o.abandoned * 2 ^ 49 + b2n o.held * 2 ^ 48 else if o.kind = 3 then 0 else o.error * 2 ^ 48)
    + o.count % 2 ^ 48

/-- Word 1 of an object (R281). -/
def SyncObj.word1 (o : SyncObj) : Nat :=
  if o.kind = 2 then b2n o.done * 2 ^ 63 + o.target % 2 ^ 48
  else if o.kind = 3 then o.generation % 65536 * 2 ^ 48 + o.parties % 2 ^ 32
  else if o.kind = 4 then o.ownerNode * 2 ^ 52 + o.ownerSite * 2 ^ 47 + o.ownerCore * 2 ^ 39 + b2n o.leased * 2 ^ 24 + o.expiry
  else 0

/-- The 16 bytes of an object; zero for one that is not assigned. -/
def syncBytes : Option SyncObj → List Nat
  | none => List.replicate 16 0
  | some o => leBytes 8 o.word0 ++ leBytes 8 o.word1

/-- DONE of a completion counter after a change of its count (R282). -/
def SyncObj.reeval (o : SyncObj) : SyncObj :=
  if o.kind = 2 ∧ o.target ≠ 0 ∧ o.target ≤ o.count then { o with done := true } else o

/-- A landing of `inc` with a status (R282). -/
def SyncObj.land (o : SyncObj) (inc status : Nat) : SyncObj :=
  if o.kind = 1 ∨ o.kind = 2 then
    SyncObj.reeval { o with count := (o.count + inc) % 2 ^ 48, error := if isErr status ∧ o.error = 0 then status else o.error }
  else o

/-- Whether a wait condition holds; none where the condition is not defined for the object's kind (R286). -/
def SyncObj.holds (o : SyncObj) (cond value : Nat) : Option Bool :=
  if cond = 0 then (if o.kind = 1 ∨ o.kind = 2 then some (decide (value ≤ o.count)) else none)
  else if cond = 1 then (if o.kind = 1 ∨ o.kind = 2 then some (o.count == value) else none)
  else if cond = 2 then (if o.kind = 3 then some (o.generation != value % 65536) else none)
  else if cond = 3 then (if o.kind = 4 then some (!o.held) else none)
  else if cond = 4 then (if o.kind = 2 then some o.done else none)
  else none

/-- The object of a number. -/
def Chip.obj (c : Chip) (n : Nat) : Option SyncObj := getKey n c.sync.objs

/-- SYN.STATUS and SYN.ALLOC follow the tables of the store. -/
def Chip.syncCounts (c : Chip) : Chip :=
  ((c.wr R.SYN_STATUS_WAITS c.sync.waits.length).wr R.SYN_STATUS_LEASES
    (c.sync.objs.filter (fun x => x.2.leased)).length).wr R.SYN_ALLOC_ASSIGNED c.sync.objs.length

/-- A waiter has its answer: a SYNC_RSP with the result code and the object before and after (R285, R287), or the result of a WAIT command. The response carries its own 40 bytes, whatever range the request gave, so it covers the block (R142; DEDUCED, log entry 161; safe). -/
def Chip.answerWait (c : Chip) (who : Waiter) (code : Nat) (before after : Option SyncObj) : Chip :=
  match who with
  | .stitch st =>
    c.send 31 (responseTo 31 { st with start := 0, countM1 := 63 } opSYNC_RSP
      ([code] ++ List.replicate 7 0 ++ syncBytes before ++ syncBytes after))
  | .queue t q =>
    { c with sync := { c.sync with answered := c.sync.answered ++ [((t, q), (code, (after.map (·.count)).getD 0))] } }

/-! Armed circuit patterns, which a count may trigger (R183). -/

/-- Whether the package is in fallback or dark, so that no pattern applies (R76, R186). -/
def Chip.inFallback (c : Chip) : Bool := decide (4 ≤ c.rd R.LSU_STATUS_MODE) && decide (c.rd R.LSU_STATUS_MODE ≤ 7)

/-- The result of an arming (CIRC.ARM_RESULT_t). -/
def Chip.armResult (c : Chip) (t status pattern : Nat) : Chip :=
  ((c.wr (R.CIRC_ARM_RESULT_STATUS t) status).wr (R.CIRC_ARM_RESULT_PATTERN t) pattern).wr (R.CIRC_ARM_RESULT_ROW t) c.row16

/-- The armed pattern of a tenant. -/
def Chip.armedOf (c : Chip) (t : Nat) : Option ArmedPattern := c.circ.armed.find? (fun a => a.tenant == t)

/-- Whether the trigger condition of an armed pattern holds now (R183): for a row, in a row after the one in which it was armed. -/
def Chip.triggerHolds (c : Chip) (a : ArmedPattern) : Bool :=
  if a.mode = 0 then true
  else if a.mode = 1 then c.row16 == a.row && decide (a.since < c.row)
  else match c.obj a.sync with
    | some o => decide (a.value ≤ o.count)
    | none => false

/-- An armed pattern triggers: it applies at the first boundary at least 256 cycles away; in fallback it stays armed with status 8 (R183, R186). -/
def Chip.trigger183 (c : Chip) (t : Nat) : Chip :=
  match c.armedOf t with
  | none => c
  | some a =>
    if a.target.isSome then c
    else
      let c := c.onCirc (fun x => { x with armed := updFirst (fun a => a.tenant == t) (fun a => { a with target := some (c.boundaryAfter 256) }) x.armed })
      if c.inFallback then c.armResult t 8 a.pattern else c

/-- The armed patterns of the tenants that meet a condition trigger where theirs holds (R183). -/
def Chip.triggerAll (c : Chip) (p : ArmedPattern → Bool) : Chip :=
  c.each (c.circ.armed.filter p) (fun c a => if c.triggerHolds a then c.trigger183 a.tenant else c)

/-- An object takes a new value, the held waits on it whose condition now holds are answered DONE in the order they entered the table (R286), and the patterns armed on it are checked at the
change of its count (R183). -/
def Chip.setObj (c : Chip) (n : Nat) (o : SyncObj) : Chip :=
  let met := fun (w : HeldWait) => w.obj == n && o.holds w.cond w.value == some true
  let hit := c.sync.waits.filter met
  let old := c.obj n
  let leaseStands := old.any (fun p => p.leased && o.leased && p.expiry == o.expiry)
  let c := { c with sync := { c.sync with objs := putKey n o c.sync.objs, waits := c.sync.waits.filter (fun w => !met w)
                                          due := if leaseStands then c.sync.due else c.sync.due.filter (fun x => x != n) } }
  ((c.each hit (fun c w => c.answerWait w.who srDONE (w.before.or (some o)) (some o))).syncCounts).triggerAll (fun a => a.mode == 2 && a.sync == n)

/-- A lock is abandoned: HELD and LEASED cleared, ABANDONED set, every FREE wait answered ABANDONED, counted and recorded (R289). -/
def Chip.abandon (c : Chip) (n cause : Nat) : Chip :=
  match c.obj n with
  | none => c
  | some o =>
    if o.kind = 4 ∧ o.held = true then
      let o' := { o with held := false, leased := false, abandoned := true }
      let free := fun (w : HeldWait) => w.obj == n && w.cond == 3
      let hit := c.sync.waits.filter free
      let c := { c with sync := { c.sync with objs := putKey n o' c.sync.objs, waits := c.sync.waits.filter (fun w => !free w) } }
      let c := c.each hit (fun c w => c.answerWait w.who srABANDONED (some o) (some o'))
      let c := c.count R.SYN_COUNTS_ABANDONED
      (c.event Ev.lockAbandoned (some o.tenant) 0 [n, o.ownerNode, o.ownerSite, o.ownerCore, cause]).syncCounts
    else c

/-- The longest a wait may be held, in rows (R286). -/
def Chip.waitLimit (c : Chip) (limit : Nat) : Nat :=
  let m := c.rdPos R.SYN_CFG_WAIT_MAX
  if limit = 0 then m else min limit m

/-- A wait is answered at once when its condition holds, else held, or answered NO_WAIT when the table of 32,768 is full (R286). `before`: the object before the ARRIVE that waits (R285). -/
def Chip.waitFrom (c : Chip) (before : Option SyncObj) (n : Nat) (who : Waiter) (cond value limit : Nat) : Chip :=
  match c.obj n with
  | none => c
  | some o =>
    let b := before.or (some o)
    if 4 < cond then c.answerWait who srBAD_FUNC b (some o)
    else match o.holds cond value with
    | none => c.answerWait who srWRONG_KIND b (some o)
    | some true => c.answerWait who srDONE b (some o)
    | some false =>
      if 32768 ≤ c.sync.waits.length then
        (c.count R.SYN_COUNTS_NO_WAIT).answerWait who srNO_WAIT b (some o)
      else
        ({ c with sync := { c.sync with waits := c.sync.waits ++ [(⟨n, who, cond, value, c.row, c.waitLimit limit, before⟩ : HeldWait)] } }).syncCounts
def Chip.wait (c : Chip) (n : Nat) (who : Waiter) (cond value limit : Nat) : Chip := c.waitFrom none n who cond value limit

/-- The operands of a SYNC_OP: VALUE, LIMIT or LEASE, COND, FLAGS, OWNER_CORE (R284). -/
def syncValue (st : Stitch) : Nat := leField st.data 0 6
def syncLimit (st : Stitch) : Nat := leField st.data 8 4 % 2 ^ 20
def syncCond (st : Stitch) : Nat := st.data.getD 12 0
def syncFlags (st : Stitch) : Nat := st.data.getD 13 0
def syncOwner (st : Stitch) : Nat := st.data.getD 14 0

/-- Whether the requester owns the lock (R288). -/
def SyncObj.ownedBy (o : SyncObj) (st : Stitch) : Bool :=
  o.held && o.ownerNode == st.srcNode && o.ownerSite == st.srcSite && o.ownerCore == syncOwner st

/-- Whether the requester of a stitch was reset within the last two rows (R289). -/
def Chip.ownerFresh (c : Chip) (st : Stitch) : Bool :=
  c.sync.resets.any (fun r => r.node == st.srcNode && r.site == st.srcSite && r.core == syncOwner st && decide (c.row < r.row + 2))
    || (st.srcNode == c.node && c.sync.partResets.any (fun r => r.1 == st.tenant && decide (c.row < r.2 + 2)))

/-- One function carried out: the object takes a value and the requester has a result code. -/
def Chip.syncAnswer (c : Chip) (st : Stitch) (o o' : SyncObj) (code : Nat) : Chip :=
  (if o' = o then c else c.setObj st.sync o').answerWait (.stitch st) code (some o) (some o')

/-- The new expiry of a lease (R288). -/
def Chip.leaseEnd (c : Chip) (lease : Nat) : Nat := (c.row + lease) % 2 ^ 24

/-- How many leases are in use (R288). -/
def Chip.leases (c : Chip) : Nat := (c.sync.objs.filter (fun x => x.2.leased)).length

/-- The functions of SYNC_OP on an object of the right tenant (R285, R286, R288). -/
def Chip.syncFunction (c : Chip) (fn : Nat) (st : Stitch) (o : SyncObj) : Chip :=
  let counts := decide (o.kind = 1 ∨ o.kind = 2)
  let wrong := c.syncAnswer st o o srWRONG_KIND
  if fn = 0x00 then c.syncAnswer st o o srDONE
  else if fn = 0x01 then
    if counts then c.syncAnswer st o (SyncObj.reeval { o with count := (o.count + syncValue st) % 2 ^ 48 }) srDONE else wrong
  else if fn = 0x02 then
    if counts then c.syncAnswer st o (SyncObj.reeval { o with count := syncValue st, error := 0, done := false }) srDONE else wrong
  else if fn = 0x03 then
    if o.kind = 2 then c.syncAnswer st o { o with target := syncValue st, count := 0, error := 0, done := false } srDONE else wrong
  else if fn = 0x04 then c.wait st.sync (.stitch st) (syncCond st) (syncValue st) (syncLimit st)
  else if fn = 0x08 then
    if o.kind = 3 then
      let full := o.count + 1 == max 1 o.parties
      let o' := if full then { o with count := 0, generation := (o.generation + 1) % 65536 } else { o with count := o.count + 1 }
      if bitOf (syncFlags st) 1 ∧ full = false then (c.setObj st.sync o').waitFrom (some o) st.sync (.stitch st) 2 o.generation (syncLimit st)
      else c.syncAnswer st o o' srDONE
    else wrong
  else if fn = 0x09 then
    if o.kind = 3 then
      if o.count ≠ 0 then c.syncAnswer st o o srBUSY
      else c.syncAnswer st o { o with parties := syncValue st % 2 ^ 32 } srDONE
    else wrong
  else if fn = 0x10 then
    if o.kind = 4 then
      if o.held ∨ c.ownerFresh st then c.syncAnswer st o o srBUSY
      else if syncLimit st ≠ 0 ∧ 8192 ≤ c.leases then c.syncAnswer st o o srNO_LEASE
      else
        let leased := decide (syncLimit st ≠ 0)
        c.syncAnswer st o
          { o with held := true, ownerNode := st.srcNode, ownerSite := st.srcSite, ownerCore := syncOwner st
                   count := (o.count + 1) % 2 ^ 48, leased := leased
                   expiry := if leased then c.leaseEnd (syncLimit st) else o.expiry }
          (if o.abandoned then srGRANTED_ABANDONED else srGRANTED)
    else wrong
  else if fn = 0x11 then
    if o.kind = 4 then
      if o.ownedBy st then
        c.syncAnswer st o { o with held := false, leased := false
                                   abandoned := o.abandoned && !bitOf (syncFlags st) 0 } srDONE
      else c.syncAnswer st o o srNOT_OWNER
    else wrong
  else if fn = 0x12 then
    if o.kind = 4 then
      if o.ownedBy st then
        if syncLimit st = 0 then c.syncAnswer st o { o with leased := false } srDONE
        else if o.leased = false ∧ 8192 ≤ c.leases then c.syncAnswer st o o srNO_LEASE
        else c.syncAnswer st o { o with leased := true, expiry := c.leaseEnd (syncLimit st) } srDONE
      else c.syncAnswer st o o srNOT_OWNER
    else wrong
  else c.syncAnswer st o o srBAD_FUNC

/-- A SYNC_OP reaches the store: refused with SYNC when the object is not assigned to the tenant, else its function is carried out (R284). -/
def Chip.syncOp (c : Chip) (fn : Nat) (st : Stitch) : Chip :=
  match c.obj st.sync with
  | none => c.refuse 31 st stSYNC
  | some o => if o.tenant = st.tenant then c.syncFunction fn st o else c.refuse 31 st stSYNC

/-- A count landing reaches the store (R282, R292). A landing for an object that takes no counts changes nothing. -/
def Chip.landing (c : Chip) (obj inc status : Nat) : Chip :=
  match c.obj obj with
  | none => c
  | some o => if o.kind = 1 ∨ o.kind = 2 then c.setObj obj (o.land inc status) else c

/-- The lowest run of `n` contiguous unassigned objects (R290); `fuel` bounds the search. -/
def Chip.freeRun (c : Chip) (n : Nat) : Option Nat :=
  let used := c.sync.objs.map (·.1)
  let starts := 0 :: (used.map (· + 1))
  let ok := fun (a : Nat) => decide (a + n ≤ 65536) && !used.any (fun u => decide (a ≤ u) && decide (u < a + n))
  (starts.filter ok).foldl (fun (b : Option Nat) a => match b with
    | none => some a
    | some x => some (min x a)) none

/-- A fresh object of a kind (R290). -/
def freshObj (kind tenant p : Nat) : SyncObj :=
  { kind := kind, tenant := tenant, target := if kind = 2 then p % 2 ^ 48 else 0, parties := if kind = 3 then p % 2 ^ 32 else 0, alloc := p }

/-- Whether an object may be freed by a tenant: its own, with no held wait, no held lock, no pending landing (R290). -/
def Chip.objFreeable (c : Chip) (tenant n : Nat) : Bool :=
  (match c.obj n with
   | some o => o.tenant == tenant && !(o.kind == 4 && o.held)
   | none => true)
  && !c.sync.waits.any (fun w => w.obj == n)
  && !c.xport.merging.any (fun l => l.obj == n) && !c.xport.landings.any (fun l => l.obj == n)

/-- A reset of an owner's core at this package: it is remembered for 2 rows (R289). -/
def Chip.resetOwner (c : Chip) (site core : Nat) : Chip :=
  { c with sync := { c.sync with resets := (c.sync.resets.filter (fun r => decide (c.row < r.row + 2))) ++ [⟨c.node, site, core, c.row⟩] } }

/-- A reset of a partition at this package: every owner of it is one that was reset for 2 rows (R289). -/
def Chip.resetOwners (c : Chip) (t : Nat) : Chip :=
  c.onSync (fun y => { y with partResets := (y.partResets.filter (fun r => decide (c.row < r.2 + 2))) ++ [(t, c.row)] })

/-- The locks held by owners of this node that satisfy `p` (site, core). -/
def Chip.locksHeldBy (c : Chip) (p : SyncObj → Bool) : List Nat :=
  (c.sync.objs.filter (fun x => x.2.kind == 4 && x.2.held && p x.2)).map (·.1)

/-- A frog of a tenant: its held waits are answered FROGGED, its objects return to their allocation state, its landings in flight are
discarded (R302). -/
def Chip.frogSync (c : Chip) (t : Nat) : Chip :=
  let mine := fun (n : Nat) => (c.obj n).any (fun o => o.tenant == t)
  let hit := c.sync.waits.filter (fun w => mine w.obj)
  let c' := { c with sync := { c.sync with
      waits := c.sync.waits.filter (fun w => !mine w.obj)
      objs := c.sync.objs.map (fun (x : Nat × SyncObj) => if x.2.tenant = t then
        (x.1, freshObj x.2.kind t x.2.alloc) else x)
      due := c.sync.due.filter (fun n => !mine n) }
                     xport := { c.xport with merging := c.xport.merging.filter (fun l => !mine l.obj)
                                             landings := c.xport.landings.filter (fun l => !mine l.obj) } }
  (c'.each hit (fun c' w => c'.answerWait w.who srFROGGED (w.before.or (c.obj w.obj)) (c'.obj w.obj))).syncCounts

/-! The commands of the sync store. -/

/-- SYNC_READ and the other functions: a SYNC_OP stitch with that function reaches the store. -/
def execSyncRead (st : Stitch) (s : State) : Result := .next (s.onChip (fun c => c.syncOp 0x00 st))
def execSyncAdd (st : Stitch) (s : State) : Result := .next (s.onChip (fun c => c.syncOp 0x01 st))
def execSyncSet (st : Stitch) (s : State) : Result := .next (s.onChip (fun c => c.syncOp 0x02 st))
def execSyncArm (st : Stitch) (s : State) : Result := .next (s.onChip (fun c => c.syncOp 0x03 st))
def execSyncWait (st : Stitch) (s : State) : Result := .next (s.onChip (fun c => c.syncOp 0x04 st))
def execSyncArrive (st : Stitch) (s : State) : Result := .next (s.onChip (fun c => c.syncOp 0x08 st))
def execSyncSetParties (st : Stitch) (s : State) : Result := .next (s.onChip (fun c => c.syncOp 0x09 st))
def execSyncAcquire (st : Stitch) (s : State) : Result := .next (s.onChip (fun c => c.syncOp 0x10 st))
def execSyncRelease (st : Stitch) (s : State) : Result := .next (s.onChip (fun c => c.syncOp 0x11 st))
def execSyncRenew (st : Stitch) (s : State) : Result := .next (s.onChip (fun c => c.syncOp 0x12 st))

/-- A merged count landing reaches the store and leaves the control network (R282, R292). -/
def Chip.countLanding (c : Chip) (site obj inc status : Nat) : Chip :=
  let mine := fun (l : Landing) => l.site == site && l.obj == obj && l.inc == inc && l.status == status
  ({ c with xport := { c.xport with landings := dropFirst mine c.xport.landings } }).landing obj inc status

def execCountLanding (site : Fin 24) (obj : Fin 65536) (inc status : Nat) (s : State) : Result :=
  .next (s.onChip (fun c => c.countLanding site.val obj.val inc status))

/-- The merge window of a site's landing for an object ends: the sum and the first error go to the sync store (R292). -/
def Chip.landingMergeEnd (c : Chip) (site obj : Nat) : Chip :=
  let mine := fun (l : Landing) => l.site == site && l.obj == obj
  match c.xport.merging.find? mine with
  | none => c
  | some l =>
    if c.cycles < l.since + c.rd R.SYN_CFG_COALESCE then c
    else { c with xport := { c.xport with merging := dropFirst mine c.xport.merging, landings := c.xport.landings ++ [l] } }

def execLandingMergeEnd (site : Fin 24) (obj : Fin 65536) (s : State) : Result :=
  .next (s.onChip (fun c => c.landingMergeEnd site.val obj.val))

/-- The held waits of an object whose rows have passed are answered WAIT_LIMIT (R286). -/
def Chip.waitsExpire (c : Chip) (obj : Nat) : Chip :=
  let due := fun (w : HeldWait) => w.obj == obj && decide (w.row + w.limit < c.row)
  let hit := c.sync.waits.filter due
  let c := { c with sync := { c.sync with waits := c.sync.waits.filter (fun w => !due w) } }
  (c.each hit (fun c w => c.answerWait w.who srWAIT_LIMIT (w.before.or (c.obj obj)) (c.obj obj))).syncCounts

def execWaitLimit (obj : Fin 65536) (s : State) : Result := .next (s.onChip (fun c => c.waitsExpire obj.val))

/-- Whether the row counter has reached a 24-bit expiry (R289): a lease is shorter than 2^20 rows (R288), so any other difference is one of rows that have passed. -/
def Chip.expired (c : Chip) (expiry : Nat) : Bool := decide (subMod 24 c.row expiry < 2 ^ 24 - 2 ^ 20)

/-- A lock whose lease has reached its expiry is abandoned, unless leases are held (R289). -/
def Chip.leaseExpiry (c : Chip) (obj : Nat) : Chip :=
  match c.obj obj with
  | none => c
  | some o => if o.held ∧ o.leased ∧ (c.expired o.expiry ∨ c.sync.due.contains obj) ∧ c.on R.SYN_CFG_LEASE_HOLD = false then c.abandon obj 1 else c

/-- The leases at a row boundary (R289, R302): a lock whose lease has reached its expiry is abandoned before any operation of the row; while leases are held, what falls due is kept for the
boundary after the hold is cleared. -/
def Chip.leaseStep (c : Chip) : Chip :=
  let lapsed := (c.sync.objs.filter (fun x => x.2.held && x.2.leased && (c.expired x.2.expiry || c.sync.due.contains x.1))).map (·.1)
  if c.on R.SYN_CFG_LEASE_HOLD then c.onSync (fun y => { y with due := lapsed }) else (c.each lapsed Chip.leaseExpiry).onSync (fun y => { y with due := [] })

def execLeaseExpiry (obj : Fin 65536) (s : State) : Result := .next (s.onChip (fun c => c.leaseExpiry obj.val))

/-- A lock is abandoned because its owner was reset at this package, or its owner's node is unreachable (R289). -/
def Chip.lockAbandon (c : Chip) (obj : Nat) : Chip :=
  match c.obj obj with
  | none => c
  | some o =>
    if o.ownerNode = c.node then
      if c.sync.resets.any (fun r => r.node == o.ownerNode && r.site == o.ownerSite && r.core == o.ownerCore) || c.sync.partResets.any (fun r => r.1 == o.tenant) then c.abandon obj 2 else c
    else if c.reaches o.ownerNode then c else c.abandon obj 3

def execLockAbandon (obj : Fin 65536) (s : State) : Result := .next (s.onChip (fun c => c.lockAbandon obj.val))

end Sys2Proof.Machine
end

