-- ==== Sys2Proof/Machine/AddressMap.lean ====
section
/-! DEFINITION. The package physical map: which site owns an address, what a tenant may reach, the translation of HBM views, and the
retirement of pseudo-channels (R252, R253, R307, R308, R382 to R393, R407). -/

namespace Sys2Proof.Machine

/-- The ranges of the package physical map (R388). -/
inductive Range where
  | hbm | sram | scratch | cxl | mmio | pcs | none
  deriving DecidableEq, Repr

/-- The range an address lies in (R388). -/
def rangeOf (a : Nat) : Range :=
  if a < 0x10000000000 then .hbm
  else if a < 0x10200000000 then .sram
  else if a < 0x10300000000 then .scratch
  else if 0x100000000000 ≤ a ∧ a < 0x300000000000 then .cxl
  else if 0x3E0000000000 ≤ a ∧ a < 0x3F0000000000 then .mmio
  else if 0x3FF000000000 ≤ a ∧ a < 0x3FF010000000 then .pcs
  else .none

/-- Core index of a scratch aperture: 136 × die + built core (R308). -/
def scratchIndex (a : Nat) : Nat := (a - 0x10200000000) / 0x200000

/-- Where the scratch aperture of core `k` of die `d` starts (R308). -/
def scratchBase (d k : Nat) : Nat := 0x10200000000 + (136 * d + k) * 0x200000

/-- Bytes of scratch in an aperture (R308). -/
def scratchBytes : Nat := 0x180000

/-- Where the stacked SRAM of die `d`, cluster `cl` starts (R308). -/
def sramBase (d cl : Nat) : Nat := 0x10000000000 + d * 0x40000000 + cl * 0x8000000

/-- The host I/O slot of a CXL or PCIe MMIO address (R407). -/
def slotOf (a : Nat) : Nat :=
  if rangeOf a = .cxl then (a - 0x100000000000) / 0x80000000000 else (a - 0x3E0000000000) / 0x4000000000

/-- The site that owns an address; none where no range lists it (R252). The slots 0 and 1 are at H0, 2 and 3 at H1 (R407). -/
def ownerSite (a : Nat) : Option Nat :=
  match rangeOf a with
  | .hbm => some (10 + fget a 15 13)
  | .sram => some (fget a 32 30)
  | .scratch => if scratchIndex a / 136 < 8 then some (scratchIndex a / 136) else none
  | .cxl => some (22 + slotOf a / 2)
  | .mmio => if slotOf a < 4 then some (22 + slotOf a / 2) else none
  | .pcs => none
  | .none => none

/-- Whether an opcode may target a range (R253). -/
def opcodeTargets (o : Nat) (r : Range) : Bool :=
  match r with
  | .hbm => o == opLOAD || o == opSTORE || o == opATOMIC || o == opREDUCE || o == opMC_STORE
  | .sram => o == opLOAD || o == opSTORE || o == opATOMIC || o == opMC_STORE
  | .scratch => o == opLOAD || o == opSTORE
  | .cxl => o == opLOAD || o == opSTORE
  | .mmio => o == opLOAD || o == opSTORE
  | .pcs => false
  | .none => false

/-- Capacity of a stack in GiB (PCU.PKG_ID). -/
def Chip.stackGib (c : Chip) : Nat := c.rd R.PCU_PKG_ID_STACK_GIB

/-- The number of frames that exist (R382). -/
def Chip.frameCount (c : Chip) : Nat := c.stackGib * 8192

/-- The pseudo-channel number of a frame, the same on every stack (R382). -/
def frameQ (f : Nat) : Nat := Nat.xor (f % 64) (f / 64 % 64)

/-- The machine address of an offset in a frame (R382). -/
def machineAddr (frame off : Nat) : Nat := 0x200000 * frame + off % 0x200000

/-- Stack index 0 to 15 of a machine address; its site and stack within the site (R382). -/
def stackOf (a : Nat) : Nat := fget a 15 12

/-- Whether a pseudo-channel `q` of stack `st` (0 a, 1 b) of memory site `n` is retired (MEM.PC_RETIRED). -/
def Chip.pcRetired (c : Chip) (n st q : Nat) : Bool :=
  if q < 32 then bitOf (c.rd (R.MEM_PC_RETIRED_LO_Q n st)) q else bitOf (c.rd (R.MEM_PC_RETIRED_HI_Q n st)) (q - 32)

/-- Whether a frame is lost: its q is retired on some stack (R385). -/
def Chip.frameLost (c : Chip) (f : Nat) : Bool :=
  let q := frameQ f
  if q < 32 then bitOf (c.rd R.PART_RETIRED_Q_LO_Q) q else bitOf (c.rd R.PART_RETIRED_Q_HI_Q) (q - 32)

/-- Whether an access to a machine address meets a retired pseudo-channel (R385). -/
def Chip.machineRetired (c : Chip) (a : Nat) : Bool :=
  c.pcRetired (stackOf a / 2) (stackOf a % 2) (frameQ (a / 0x200000))

/-- The owner of page `p` of the stacked SRAM (R391). -/
def Chip.sramOwner (c : Chip) (p : Nat) : Option Nat :=
  let w := (c.word (R.PART_SRAM_OWN (p / 4))).toNat
  let b := 8 * (p % 4)
  if bitOf w (b + 7) then some (fget w (b + 3) b) else none

/-- A stacked SRAM page has an owner or none from now on (R391). -/
def Chip.setSramOwner (c : Chip) (p : Nat) (t : Option Nat) : Chip :=
  let o := R.PART_SRAM_OWN (p / 4)
  let b := 8 * (p % 4)
  c.wr ⟨o, b + 7, b⟩ (match t with | some t => 128 + t | none => 0)

/-- The tenant of core `k` of die `d` while it is owned (R392). -/
def Chip.coreTenant (c : Chip) (d k : Nat) : Option Nat :=
  if c.on (R.CMP_CORE_STATE_OWNED d k) then some (c.rd (R.CMP_CORE_STATE_TENANT d k)) else none

/-- Whether an address lies within one of the tenant's four enabled device ranges (R392). -/
def Chip.inXwin (c : Chip) (t a : Nat) : Bool :=
  (List.range 4).any (fun r => c.on (R.PART_XWIN_BASE_EN t r) && decide (c.rd (R.PART_XWIN_BASE_BASE t r) ≤ a / 0x200000)
    && decide (a / 0x200000 ≤ c.rd (R.PART_XWIN_LIMIT_LIMIT t r)))

/-- The translation of an HBM view address of a tenant to a machine address (R389). -/
def Chip.translate (c : Chip) (t a : Nat) : Option Nat :=
  let v := a / 0x200000
  if v < c.rd (R.PART_HBM_PAGES_PAGES t) then
    match getKey (c.rd (R.PART_HBM_BASE_BASE t) + v) c.mems.xlat with
    | some (t', f) => if t' = t then some (machineAddr f a) else none
    | none => none
  else none

/-- Whether a core answers at its scratch aperture: not fenced and not spare (R308). States: CMP.CORE_STATE_k. -/
def Chip.coreUsable (c : Chip) (d k : Nat) : Bool := c.rd (R.CMP_CORE_STATE_STATE d k) != 5 && c.rd (R.CMP_CORE_STATE_STATE d k) != 6

/-- The place in memory that a tenant's address names, or none where the access is refused with WINDOW (R308, R389, R391, R392). -/
def Chip.resolve (c : Chip) (t a : Nat) : Option Nat :=
  match rangeOf a with
  | .hbm => c.translate t a
  | .sram => if c.sramOwner ((a - 0x10000000000) / 0x200000) = some t then some a else none
  | .scratch =>
    let i := scratchIndex a
    if i / 136 < 8 ∧ (a - 0x10200000000) % 0x200000 < scratchBytes ∧ c.coreTenant (i / 136) (i % 136) = some t
      ∧ c.coreUsable (i / 136) (i % 136) then some a else none
  | .cxl => if c.inXwin t a then some a else none
  | .mmio => if c.inXwin t a then some a else none
  | .pcs => none
  | .none => none

/-- Whether a resolved place can be read or written: its pseudo-channel is not retired and its SRAM page is not retired (R307, R385). -/
def Chip.placeGood (c : Chip) (a : Nat) : Bool :=
  match rangeOf a with
  | .hbm => !c.machineRetired a
  | .sram => !c.mems.sramRetired.contains ((a - 0x10000000000) / 0x40000000, (a - 0x10000000000) % 0x40000000 / 4096)
  | _ => true

/-- Frames that exist, are not lost and are in no valid entry; frames lost (R385, R393). The number of lost frames is the number of
retired q values times the frames of one q. -/
def Chip.frameCounts (c : Chip) : Chip :=
  let qs := popCount 32 (c.rd R.PART_RETIRED_Q_LO_Q) + popCount 32 (c.rd R.PART_RETIRED_Q_HI_Q)
  let lost := qs * (c.frameCount / 64)
  let used := (c.mems.xlat.filter (fun x => !c.frameLost x.2.2)).length
  (c.wr R.PART_FRAMES_LOST_FRAMES lost).wr R.PART_FRAMES_FREE_FRAMES (c.frameCount - lost - used)

/-! Snoop filters (R394, R395, R410). -/

/-- The 64-byte line of an address. -/
def lineOf (a : Nat) : Nat := a - a % 64

/-- Whether a place is cacheable by the processor dies: HBM, and the CXL windows of slots that allow it (R388, R410). -/
def Chip.cacheable (c : Chip) (a : Nat) : Bool :=
  match rangeOf a with
  | .hbm => true
  | .cxl => c.on (R.HIO_SLOT_CFG_CXL_CACHE (slotOf a))
  | _ => false

/-- The filter entry of the line of a place. -/
def Chip.snoopAt (c : Chip) (a : Nat) : Option SnoopEntry := if c.cacheable a then c.mems.snoop.find? (fun e => e.line == lineOf a) else none

/-- The processor dies other than `self` whose copy an access to a place must be recalled from: every holder for a write, the one that may hold it
modified for a read (R395). -/
def Chip.recallFrom (c : Chip) (a : Nat) (write : Bool) (self : Option Nat) : List Nat :=
  match c.snoopAt a with
  | none => []
  | some e => (if write then e.dies else e.owner.toList).filter (fun d => some d != self)

/-- What an access to a list of places has to wait for: the zeroing of a frame (R390), or recalls of a line (R395); the line, the dies, the frame. -/
def Chip.obstacle (c : Chip) (places : List Nat) (write : Bool) (self : Option Nat) : Option (Nat × List Nat × Option Nat) :=
  match places.find? (fun a => rangeOf a == .hbm && c.mems.zeroing.contains (a / 0x200000)) with
  | some a => some (lineOf a, [], some (a / 0x200000))
  | none => (places.find? (fun a => !(c.recallFrom a write self).isEmpty)).map (fun a => (lineOf a, c.recallFrom a write self, none))

/-- An access is parked until its recalls are answered or its page is zeroed (R390, R395). -/
def Chip.park (c : Chip) (site : Nat) (op : ParkedOp) (o : Nat × List Nat × Option Nat) (share evict : Bool) : Chip :=
  c.onMems (fun m => { m with parked := m.parked ++ [⟨site, op, o.1, o.2.1, share, evict, o.2.2, c.cycles⟩] })

end Sys2Proof.Machine
end

