-- ==== Sys2Proof/Machine/Flags.lean ====
section
/-! DEFINITION. The exception flags of floating-point results, as RISC-V's fflags holds them, and the rounding directions (R311, R317). -/

namespace Sys2Proof.Machine

/-- The exception flags of one floating-point operation: invalid, divide by zero, overflow, underflow, inexact. -/
structure FFlags where
  nv : Bool := false
  dz : Bool := false
  of : Bool := false
  uf : Bool := false
  nx : Bool := false
  deriving DecidableEq, Repr

/-- The flags as the low five bits of fflags: NX 0, UF 1, OF 2, DZ 3, NV 4. -/
def FFlags.bits (f : FFlags) : Nat := 16 * b2n f.nv + 8 * b2n f.dz + 4 * b2n f.of + 2 * b2n f.uf + b2n f.nx

/-- No exception. -/
def FFlags.none : FFlags := {}

/-- The invalid exception alone. -/
def FFlags.invalid : FFlags := { nv := true }

/-- The exceptions of two operations together. -/
def FFlags.or (a b : FFlags) : FFlags :=
  { nv := a.nv || b.nv, dz := a.dz || b.dz, of := a.of || b.of, uf := a.uf || b.uf, nx := a.nx || b.nx }

/-- The rounding directions of IEEE 754-2019 as RISC-V numbers them: to nearest even, towards zero, down, up, to nearest with ties away. -/
inductive Rm where
  | rne | rtz | rdn | rup | rmm
  deriving DecidableEq, Repr

/-- The rounding direction of an rm or frm code; none for a reserved one. -/
def Rm.ofCode (n : Nat) : Option Rm :=
  if n = 0 then some .rne else if n = 1 then some .rtz else if n = 2 then some .rdn
  else if n = 3 then some .rup else if n = 4 then some .rmm else none

end Sys2Proof.Machine
end

