-- ==== Sys2Proof/Machine/Operands.lean ====
section
/-! DEFINITION. Floating-point operands: the binary formats, their values, rounding to a format, and the operations of IEEE 754-2019
on them. Every operation is exact arithmetic on numbers followed by one rounding (R256, R263, R317). -/

namespace Sys2Proof.Machine

/-- A binary interchange format: bits of the exponent field and of the fraction field. -/
structure Fmt where
  eb : Nat
  mb : Nat
  deriving DecidableEq, Repr

def fp64 : Fmt := ⟨11, 52⟩
def fp32 : Fmt := ⟨8, 23⟩
def fp16 : Fmt := ⟨5, 10⟩
def bf16 : Fmt := ⟨8, 7⟩

/-- Width of a format in bits, and in bytes. -/
def Fmt.width (f : Fmt) : Nat := 1 + f.eb + f.mb
def Fmt.size (f : Fmt) : Nat := f.width / 8

/-- The smallest exponent of a unit in the last place: that of the subnormal numbers. -/
def Fmt.qmin (f : Fmt) : Int := 2 - (2 ^ (f.eb - 1) : Nat) - (f.mb : Int)

/-- The bits of plus infinity, of the largest finite number, of the sign, and of the canonical quiet NaN. -/
def Fmt.infBits (f : Fmt) : Nat := (2 ^ f.eb - 1) * 2 ^ f.mb
def Fmt.maxBits (f : Fmt) : Nat := f.infBits - 1
def Fmt.signBit (f : Fmt) : Nat := 2 ^ (f.eb + f.mb)
def Fmt.qnan (f : Fmt) : Nat := f.infBits + 2 ^ (f.mb - 1)

/-- A number with a sign bit. -/
def Fmt.signed (f : Fmt) (neg : Bool) (bits : Nat) : Nat := if neg then bits + f.signBit else bits

/-- What a bit pattern means: not a number, an infinity, or (−1)^neg × m × 2^e. -/
inductive Fv where
  | nan (signaling : Bool)
  | inf (neg : Bool)
  | fin (neg : Bool) (m : Nat) (e : Int)
  deriving DecidableEq, Repr

/-- The value of a bit pattern. -/
def Fmt.val (f : Fmt) (b : Nat) : Fv :=
  let neg := bitOf b (f.eb + f.mb)
  let ex := fget b (f.eb + f.mb - 1) f.mb
  let m := b % 2 ^ f.mb
  if ex = 2 ^ f.eb - 1 then (if m = 0 then .inf neg else .nan (!bitOf m (f.mb - 1)))
  else if ex = 0 then .fin neg m f.qmin
  else .fin neg (m + 2 ^ f.mb) (f.qmin + (ex - 1 : Nat))

/-- Number of bits of `m`. -/
def bitLen (m : Nat) : Nat := if m = 0 then 0 else m.log2 + 1

/-- Whether a magnitude cut to a quotient is rounded up: by direction, sign, its last bit, and how the rest compares with a half
(0 nothing, 1 below, 2 equal, 3 above). -/
def roundUp (rm : Rm) (neg odd : Bool) (rest : Nat) : Bool :=
  match rm with
  | .rne => rest == 3 || (rest == 2 && odd)
  | .rtz => false
  | .rdn => neg && rest != 0
  | .rup => !neg && rest != 0
  | .rmm => rest == 3 || rest == 2

/-- How the low `n` bits of `m`, with `sticky` for bits below them, compare with a half of the bit above. -/
def restOf (m n : Nat) (sticky : Bool) : Nat :=
  let r := m % 2 ^ n
  let half := if n = 0 then 0 else 2 ^ (n - 1)
  if n = 0 then (if sticky then 1 else 0)
  else if r = 0 ∧ sticky = false then 0
  else if r < half then 1
  else if r = half ∧ sticky = false then 2
  else 3

/-- The magnitude m × 2^e (and a little more when `sticky`) rounded to `p` bits, the unit in the last place not below 2^qmin: the integer,
its exponent, whether it is inexact. -/
def roundTo (rm : Rm) (neg : Bool) (p : Nat) (qmin : Int) (m : Nat) (e : Int) (sticky : Bool) : Nat × Int × Bool :=
  let q := max (e + bitLen m - p) qmin
  if q ≤ e then (m * 2 ^ (e - q).toNat, q, sticky)
  else
    let n := (q - e).toNat
    let rest := restOf m n sticky
    let k := m / 2 ^ n
    ((if roundUp rm neg (k % 2 == 1) rest then k + 1 else k), q, rest != 0)

/-- What overflow gives: infinity or the largest finite number, by direction. -/
def Fmt.overflow (f : Fmt) (rm : Rm) (neg : Bool) : Nat :=
  let inf := match rm with
    | .rne => true | .rmm => true | .rtz => false | .rdn => neg | .rup => !neg
  f.signed neg (if inf then f.infBits else f.maxBits)

/-- A magnitude rounded to a format, with the exceptions. Tininess is detected after rounding. -/
def Fmt.round (f : Fmt) (rm : Rm) (neg : Bool) (m : Nat) (e : Int) (sticky : Bool) : Nat × FFlags :=
  if m = 0 ∧ sticky = false then (f.signed neg 0, {})
  else
    let (k, q, nx) := roundTo rm neg (f.mb + 1) f.qmin m e sticky
    let bits := (q - f.qmin).toNat * 2 ^ f.mb + k
    if f.infBits ≤ bits then (f.overflow rm neg, { of := true, nx := true })
    else
      let (k', q', _) := roundTo rm neg (f.mb + 1) (f.qmin - (2 * f.mb + 4 : Nat)) m e sticky
      let tiny := decide (bitLen k' + q' ≤ f.qmin + f.mb)
      (f.signed neg bits, { nx := nx, uf := nx && tiny })

/-- An exact signed number n × 2^e rounded to a format; `zneg` is the sign of an exact zero. -/
def Fmt.roundInt (f : Fmt) (rm : Rm) (n : Int) (e : Int) (zneg : Bool) : Nat × FFlags :=
  if n = 0 then (f.signed zneg 0, {}) else f.round rm (decide (n < 0)) n.natAbs e false

/-- A finite value as a signed integer. -/
def sgn (neg : Bool) (m : Nat) : Int := if neg then -(m : Int) else (m : Int)

/-- The invalid operation's result. -/
def Fmt.invalid (f : Fmt) : Nat × FFlags := (f.qnan, FFlags.invalid)

/-- Whether a value is a NaN, and a signaling one. -/
def Fv.isNan : Fv → Bool
  | .nan _ => true
  | _ => false
def Fv.isSnan : Fv → Bool
  | .nan s => s
  | _ => false

/-- A NaN result: canonical, invalid when an operand signals. -/
def Fmt.nanOut (f : Fmt) (l : List Fv) : Nat × FFlags := (f.qnan, { nv := l.any Fv.isSnan })

/-- Addition of two values, rounded to a format (IEEE 754-2019). -/
def Fmt.addV (f : Fmt) (rm : Rm) (a b : Fv) : Nat × FFlags :=
  match a, b with
  | .fin s m e, .fin t n g =>
    let q := min e g
    let x := sgn s m * (2 ^ (e - q).toNat : Nat) + sgn t n * (2 ^ (g - q).toNat : Nat)
    f.roundInt rm x q (if s = t then s else rm == .rdn)
  | .inf s, .inf t => if s = t then (f.signed s f.infBits, {}) else f.invalid
  | .inf s, .fin _ _ _ => (f.signed s f.infBits, {})
  | .fin _ _ _, .inf t => (f.signed t f.infBits, {})
  | a, b => f.nanOut [a, b]

/-- The value with its sign turned. -/
def Fv.neg : Fv → Fv
  | .fin s m e => .fin (!s) m e
  | .inf s => .inf (!s)
  | .nan x => .nan x

/-- Sum, difference and product of two numbers of a format. -/
def Fmt.add (f : Fmt) (rm : Rm) (a b : Nat) : Nat × FFlags := f.addV rm (f.val a) (f.val b)
def Fmt.sub (f : Fmt) (rm : Rm) (a b : Nat) : Nat × FFlags := f.addV rm (f.val a) (f.val b).neg

/-- Multiplication of two values, rounded to a format. -/
def Fmt.mulV (f : Fmt) (rm : Rm) (a b : Fv) : Nat × FFlags :=
  match a, b with
  | .fin s m e, .fin t n g => f.round rm (s != t) (m * n) (e + g) false
  | .inf s, .inf t => (f.signed (s != t) f.infBits, {})
  | .inf s, .fin t n _ => if n = 0 then f.invalid else (f.signed (s != t) f.infBits, {})
  | .fin s m _, .inf t => if m = 0 then f.invalid else (f.signed (s != t) f.infBits, {})
  | a, b => f.nanOut [a, b]
def Fmt.mul (f : Fmt) (rm : Rm) (a b : Nat) : Nat × FFlags := f.mulV rm (f.val a) (f.val b)

/-- Fused a × b + c with one rounding. Infinity times zero is invalid also when `c` is a NaN. -/
def Fmt.fmaV (f : Fmt) (rm : Rm) (a b c : Fv) : Nat × FFlags :=
  let badProduct := match a, b with
    | .inf _, .fin _ n _ => n == 0
    | .fin _ m _, .inf _ => m == 0
    | _, _ => false
  if a.isNan || b.isNan || c.isNan then (f.qnan, { nv := a.isSnan || b.isSnan || c.isSnan || badProduct })
  else if badProduct then f.invalid
  else match a, b, c with
  | .fin s m e, .fin t n g, .fin u k h =>
    let q := min (e + g) h
    let x := sgn (s != t) (m * n) * (2 ^ (e + g - q).toNat : Nat) + sgn u k * (2 ^ (h - q).toNat : Nat)
    f.roundInt rm x q (if (s != t) = u then u else rm == .rdn)
  | .fin _ _ _, .fin _ _ _, .inf u => (f.signed u f.infBits, {})
  | a, b, c =>
    let ps := (match a with | .fin s _ _ => s | .inf s => s | .nan _ => false) != (match b with | .fin s _ _ => s | .inf s => s | .nan _ => false)
    match c with
    | .inf u => if ps = u then (f.signed ps f.infBits, {}) else f.invalid
    | _ => (f.signed ps f.infBits, {})
def Fmt.fma (f : Fmt) (rm : Rm) (a b c : Nat) : Nat × FFlags := f.fmaV rm (f.val a) (f.val b) (f.val c)

/-- Division, correctly rounded. -/
def Fmt.div (f : Fmt) (rm : Rm) (a b : Nat) : Nat × FFlags :=
  match f.val a, f.val b with
  | .fin s m e, .fin t n g =>
    if n = 0 then (if m = 0 then f.invalid else (f.signed (s != t) f.infBits, { dz := true }))
    else
      let sh := f.mb + 3 + bitLen n
      f.round rm (s != t) (m * 2 ^ sh / n) (e - g - sh) (m * 2 ^ sh % n != 0)
  | .inf _, .inf _ => f.invalid
  | .inf s, .fin t _ _ => (f.signed (s != t) f.infBits, {})
  | .fin s _ _, .inf t => (f.signed (s != t) 0, {})
  | x, y => f.nanOut [x, y]

/-- The whole part of a square root, found bit by bit from bit `n` down. -/
def isqrtFrom : Nat → Nat → Nat → Nat
  | 0, x, r => if (r + 1) * (r + 1) ≤ x then r + 1 else r
  | n + 1, x, r => if (r + 2 ^ (n + 1)) * (r + 2 ^ (n + 1)) ≤ x then isqrtFrom n x (r + 2 ^ (n + 1)) else isqrtFrom n x r

/-- The whole part of the square root of `x`. -/
def isqrt (x : Nat) : Nat := isqrtFrom (bitLen x / 2) x 0

/-- Square root, correctly rounded. -/
def Fmt.sqrt (f : Fmt) (rm : Rm) (a : Nat) : Nat × FFlags :=
  match f.val a with
  | .fin s m e =>
    if m = 0 then (f.signed s 0, {})
    else if s then f.invalid
    else
      let sh := 2 * (f.mb + 3) + (if e % 2 = 0 then 0 else 1)
      let x := m * 2 ^ sh
      let r := isqrt x
      f.round rm false r ((e - sh) / 2) (r * r != x)
  | .inf s => if s then f.invalid else (f.infBits, {})
  | x => f.nanOut [x]

/-- Whether one value is less than another; none when a NaN is among them. The zeros are equal. -/
def Fv.lt (a b : Fv) : Option Bool :=
  match a, b with
  | .nan _, _ => none
  | _, .nan _ => none
  | .inf s, .inf t => some (s && !t)
  | .inf s, .fin _ _ _ => some s
  | .fin _ _ _, .inf t => some (!t)
  | .fin s m e, .fin t n g =>
    let q := min e g
    some (decide (sgn s m * (2 ^ (e - q).toNat : Nat) < sgn t n * (2 ^ (g - q).toNat : Nat)))

/-- Whether two values are equal; none when a NaN is among them. -/
def Fv.eq (a b : Fv) : Option Bool :=
  match a.lt b, b.lt a with
  | some x, some y => some (!x && !y)
  | _, _ => none

/-- The number whose sign bit is set. -/
def Fmt.isNeg (f : Fmt) (b : Nat) : Bool := bitOf b (f.eb + f.mb)

/-- Of two numbers that are no NaN, the lesser or the greater, −0 below +0. -/
def Fmt.pick (f : Fmt) (greater : Bool) (a b : Nat) : Nat :=
  match (f.val a).lt (f.val b) with
  | some true => if greater then b else a
  | _ => match (f.val b).lt (f.val a) with
    | some true => if greater then a else b
    | _ => if f.isNeg a = greater then b else a

/-- minimum and maximum of IEEE 754-2019: a NaN operand gives the canonical NaN (R263). -/
def Fmt.extremum (f : Fmt) (greater : Bool) (a b : Nat) : Nat :=
  if (f.val a).isNan || (f.val b).isNan then f.qnan else f.pick greater a b

/-- minimumNumber and maximumNumber of IEEE 754-2019 with exceptions: a NaN operand gives way to a number (R317). -/
def Fmt.extremumNum (f : Fmt) (greater : Bool) (a b : Nat) : Nat × FFlags :=
  let x := f.val a
  let y := f.val b
  let fl : FFlags := { nv := x.isSnan || y.isSnan }
  if x.isNan && y.isNan then (f.qnan, fl)
  else if x.isNan then (b, fl)
  else if y.isNan then (a, fl)
  else (f.pick greater a b, fl)

/-- A value brought into another format, rounded once. -/
def Fmt.conv (src dst : Fmt) (rm : Rm) (a : Nat) : Nat × FFlags :=
  match src.val a with
  | .fin s m e => dst.round rm s m e false
  | .inf s => (dst.signed s dst.infBits, {})
  | .nan x => (dst.qnan, { nv := x })

/-- An integer as a number of a format. -/
def Fmt.ofInt (f : Fmt) (rm : Rm) (x : Int) : Nat × FFlags := f.roundInt rm x 0 false

/-- A value rounded to an integer of `n` bits, signed or not, saturating with invalid outside its range; a NaN gives the largest. -/
def Fmt.toInt (f : Fmt) (rm : Rm) (n : Nat) (isSigned : Bool) (a : Nat) : Int × FFlags :=
  let hi : Int := if isSigned then (2 ^ (n - 1) : Nat) - 1 else (2 ^ n : Nat) - 1
  let lo : Int := if isSigned then -((2 ^ (n - 1) : Nat) : Int) else 0
  match f.val a with
  | .nan _ => (hi, FFlags.invalid)
  | .inf s => (if s then lo else hi, FFlags.invalid)
  | .fin s m e =>
    let (k, nx) := if 0 ≤ e then (m * 2 ^ e.toNat, false)
      else
        let d := (-e).toNat
        let rest := restOf m d false
        ((if roundUp rm s (m / 2 ^ d % 2 == 1) rest then m / 2 ^ d + 1 else m / 2 ^ d), rest != 0)
    let x := sgn s k
    if x < lo then (lo, FFlags.invalid) else if hi < x then (hi, FFlags.invalid) else (x, { nx := nx })

/-- The class mask of RISC-V's FCLASS. -/
def Fmt.classify (f : Fmt) (a : Nat) : Nat :=
  let neg := f.isNeg a
  match f.val a with
  | .inf _ => if neg then 1 else 128
  | .nan s => if s then 256 else 512
  | .fin _ m _ =>
    if m = 0 then (if neg then 8 else 16)
    else if m < 2 ^ f.mb then (if neg then 4 else 32)
    else if neg then 2 else 64

end Sys2Proof.Machine
end

