-- ==== Sys2Proof/Machine/Combine.lean ====
section
/-! DEFINITION. Reduction contexts, the arithmetic of combining units, partials at edge sites and their answer records, and the
replication of multicast stitches (R261 to R280). Unit u is edge site E0 to E3, then memory sites M0 to M7. -/

namespace Sys2Proof.Machine

/-! Elements (R261 to R263). -/

/-- Bytes of an element of a type; zero for a reserved type. -/
def elemSize (ty : Nat) : Nat := if ty = 0 then 4 else if ty = 1 then 2 else if ty = 2 then 2 else if ty = 3 then 4 else if ty = 4 then 8 else 0

/-- Whether the table of R261 allows an operator for a type. -/
def redAllowed (ty op : Nat) : Bool := if ty ≤ 2 then decide (op ≤ 2) else if ty ≤ 4 then decide (op ≤ 5) else false

/-- Context, element type, operator and contributions of a REDUCE (R144, R262). -/
def redCtx (st : Stitch) : Nat := fget st.opspec 17 8
def redType (st : Stitch) : Nat := fget st.opspec 7 4
def redOp (st : Stitch) : Nat := fget st.opspec 3 0
def redCount (st : Stitch) : Nat := st.opf % 1024 + 1

/-- An element widened exactly: to FP32, or to INT64. -/
def widenElem (ty b : Nat) : Nat :=
  if ty = 0 then b % 2 ^ 32
  else if ty = 1 then b % 2 ^ 16 * 2 ^ 16
  else if ty = 2 then (Fmt.conv fp16 fp32 .rne b).1
  else if ty = 3 then ofSigned 64 (toSigned 32 b)
  else b % 2 ^ 64

/-- One rounding of an accumulated element to its type. -/
def narrowElem (ty b : Nat) : Nat :=
  if ty = 0 then b
  else if ty = 1 then (Fmt.conv fp32 bf16 .rne b).1
  else if ty = 2 then (Fmt.conv fp32 fp16 .rne b).1
  else if ty = 3 then b % 2 ^ 32
  else b

/-- a (op) b on widened elements (R263). -/
def redCombine (ty op a b : Nat) : Nat :=
  if ty ≤ 2 then
    if op = 0 then (fp32.add .rne a b).1 else if op = 1 then fp32.extremum true a b else fp32.extremum false a b
  else if op = 0 then (a + b) % 2 ^ 64
  else if op = 1 then (if toSigned 64 a < toSigned 64 b then b else a)
  else if op = 2 then (if toSigned 64 b < toSigned 64 a then b else a)
  else if op = 3 then Nat.land a b
  else if op = 4 then Nat.lor a b
  else Nat.xor a b

/-- The elements of `n` bytes each that a list of bytes spells. -/
def elemsOf (n : Nat) (bs : List Nat) : List Nat := (chunks n (bs.length + 1) bs).map leNat

/-- The widened elements that a REDUCE carries. -/
def redElems (st : Stitch) : List Nat :=
  (elemsOf (elemSize (redType st)) (((padTo 64 st.data).drop st.start).take (st.countM1 + 1))).map (widenElem (redType st))

/-- Two lists of widened elements combined. -/
def redMerge (ty op : Nat) (a b : List Nat) : List Nat := (a.zip b).map (fun x => redCombine ty op x.1 x.2)

/-- The bytes of narrowed elements. -/
def redBytes (ty : Nat) (l : List Nat) : List Nat := l.flatMap (fun x => leBytes (elemSize ty) (narrowElem ty x))

/-- Whether START and the length of a REDUCE are multiples of its element size (R262). -/
def redLayout (st : Stitch) : Bool :=
  let n := elemSize (redType st)
  n == 0 || (st.start % n == 0 && (st.countM1 + 1) % n == 0)

/-! Contexts (R264, R265). -/

/-- Whether a context is enabled for a stitch's tenant with its type and operator. -/
def Chip.ctxMatches (c : Chip) (st : Stitch) : Bool :=
  let n := redCtx st
  c.on (R.RED_CTX_A_EN n) && c.rd (R.RED_CTX_A_TENANT n) == st.tenant && c.rd (R.RED_CTX_A_TYPE n) == redType st
    && c.rd (R.RED_CTX_A_OP n) == redOp st

/-- Whether a context is deterministic; EXPECT and K of a context (RED.CTX_B). -/
def Chip.ctxDet (c : Chip) (n : Nat) : Bool := c.on (R.RED_CTX_A_DET n)
def Chip.expectEdge (c : Chip) (n : Nat) : Nat := c.rd (R.RED_CTX_B_EXPECT_EDGE n) + 1
def Chip.expectMem (c : Chip) (n : Nat) : Nat := c.rd (R.RED_CTX_B_EXPECT_MEM n) + 1
def Chip.ctxK (c : Chip) (n : Nat) : Nat := c.rd (R.RED_CTX_B_K n) + 1

/-- Entries that a partial of a type uses (R267). -/
def entriesOf (ty : Nat) : Nat := if ty = 1 ∨ ty = 2 then 2 else 1

/-- Entries of a unit (R265). -/
def unitEntries (u : Nat) : Nat := if u < 4 then 32768 else 16384

/-- Entries that a context reserves at a unit (R265, R271). -/
def Chip.ctxReserve (c : Chip) (u n : Nat) : Nat :=
  if !c.on (R.RED_CTX_A_EN n) then 0
  else if u < 4 then c.rd (R.RED_CTX_C_RES_EDGE n)
  else if c.ctxDet n then c.rd (R.RED_CTX_C_RES_MEM n) * c.ctxK n else c.rd (R.RED_CTX_C_RES_MEM n)

/-- Entries in use at a unit, of one context or of all. -/
def Chip.entriesUsed (c : Chip) (u : Nat) (ctx : Option Nat) : Nat :=
  let mine := fun (v n : Nat) => v == u && (ctx == none || ctx == some n)
  ((c.red.partials.filter (fun p => mine p.unit p.ctx)).map (fun p => entriesOf (redType p.key))).sum
    + ((c.red.slots.filter (fun d => mine d.unit d.ctx)).map (fun d => d.got.length)).sum

/-- Entries reserved at a unit (RED.UNIT). -/
def Chip.unitReserved (c : Chip) (u : Nat) : Nat := ((List.range 1024).map (c.ctxReserve u)).sum

/-- Partials and slots of a context that the package holds (RED.CTX_D.PENDING). -/
def Chip.ctxPending (c : Chip) (n : Nat) : Nat :=
  (c.red.partials.filter (fun p => p.ctx == n)).length + (c.red.slots.filter (fun d => d.ctx == n)).length

/-- A stitch of a context was refused or answered with an error here (RED.CTX_D.ERRORS). -/
def Chip.ctxError (c : Chip) (n k : Nat) : Chip := c.count (R.RED_CTX_D_ERRORS n) k

/-- The fields that stitches of one partial share (R267). -/
def sameKey (a b : Stitch) : Bool :=
  a.tenant == b.tenant && redCtx a == redCtx b && a.dstNode == b.dstNode && a.ppa == b.ppa && a.start == b.start && a.countM1 == b.countM1
    && a.sync == b.sync && a.cnt % 2 == b.cnt % 2

/-- The partial of a stitch that a unit holds. -/
def Chip.heldPartial (c : Chip) (u : Nat) (st : Stitch) : Option Partial := c.red.partials.find? (fun p => p.unit == u && sameKey p.key st)

/-- A partial leaves its unit; a partial takes a new form. -/
def Chip.dropPartial (c : Chip) (p : Partial) : Chip := c.onRed (fun x => { x with partials := dropFirst (fun y => y == p) x.partials })
def Chip.setPartial (c : Chip) (p p' : Partial) : Chip := c.onRed (fun x => { x with partials := updFirst (fun y => y == p) (fun _ => p') x.partials })

/-- A partial with one stitch more. -/
def Partial.add (p : Partial) (st : Stitch) : Partial :=
  { p with acc := redMerge (redType p.key) (redOp p.key) p.acc (redElems st), n := p.n + redCount st, held := p.held ++ [st] }

/-- The partial that a stitch starts. -/
def Chip.freshPartial (c : Chip) (u : Nat) (st : Stitch) : Partial := ⟨u, redCtx st, st, redElems st, redCount st, [st], c.row⟩

/-- Whether a context has a free reserved entry at a unit for one partial more (R267). -/
def Chip.entryFree (c : Chip) (u : Nat) (st : Stitch) : Bool :=
  decide (c.entriesUsed u (some (redCtx st)) + entriesOf (redType st) ≤ c.ctxReserve u (redCtx st))

/-! Edge sites (R268). -/

/-- Answer records in use at an edge site. -/
def Chip.answerRecords (c : Chip) (e : Nat) : Nat :=
  ((c.red.partials.filter (fun p => p.unit == e)).map (fun p => p.held.length)).sum
    + ((c.red.relays.filter (fun r => r.edge == e)).map (fun r => r.held.length)).sum

/-- Whether an edge site has a free answer record (R265). -/
def Chip.recordFree (c : Chip) (e : Nat) : Bool := decide (c.answerRecords e < 262144)

/-- The stitch that an edge site releases for a partial (R268). -/
def Chip.releasedStitch (c : Chip) (p : Partial) : Stitch :=
  Stitch.sealed { p.key with version := 1, srcNode := c.node, srcSite := 18 + p.unit, hops := 0, escape := 0, rsv := 0
                             seq := c.flowNext (18 + p.unit) p.key.dstNode p.key.tenant
                             opf := p.n - 1, cnt := p.key.cnt % 2, entryTs := c.now % 2 ^ 32
                             data := List.replicate p.key.start 0 ++ redBytes (redType p.key) p.acc }

/-- An edge site releases a partial: a new REDUCE of its own flow joins its queues, and its stitches keep their answer records (R268). While the
site's outstanding table has no room the partial stays (R155). -/
def Chip.releaseEdge (c : Chip) (p : Partial) : Chip :=
  let site := 18 + p.unit
  let st := c.releasedStitch p
  if c.outRoom site st.dstNode st.tenant then
    let c := c.dropPartial p
    let c := c.onXport (fun x => { x with
      nextSeq := putKey (site, st.dstNode, st.tenant) ((st.seq + 1) % 65536) x.nextSeq
      out := x.out ++ [({ site := site, st := st, row := c.row } : OutEntry)] })
    let c := c.onRed (fun x => { x with relays := x.relays ++ [⟨p.unit, p.ctx, st.dstNode, st.tenant, st.seq, p.held⟩] })
    c.onEdge (fun y => { y with pools := y.pools ++ [({ edge := p.unit, fromPort := none, fromSite := none, st := st, since := none, row := c.row } : PoolEntry)] })
  else c

/-- Whether the combining unit of this package may merge a stitch (R267): combining on, and its context enabled in default mode. -/
def Chip.mayMerge (c : Chip) (st : Stitch) : Bool :=
  c.on R.RED_CFG_COMBINE_EN && st.opcode == opREDUCE && c.ctxMatches st && !c.ctxDet (redCtx st) && redAllowed (redType st) (redOp st)
    && redLayout st && decide (st.start + st.countM1 ≤ 63)

/-- A REDUCE at an edge site: merged into a partial or started as one; none where it is forwarded unchanged, with the counts of R267. -/
def Chip.edgeCombine (c : Chip) (e : Nat) (st : Stitch) : Option Chip × Chip :=
  if !c.mayMerge st || (st.srcNode == c.node && st.srcSite == 18 + e) then (none, c)
  else
    let expect := c.expectEdge (redCtx st)
    let start := fun (c : Chip) =>
      if expect ≤ redCount st then (none, c)
      else if c.entryFree e st && c.recordFree e then
        (some (c.onRed (fun x => { x with partials := x.partials ++ [c.freshPartial e st] })), c)
      else (none, c.count R.RED_COUNTS_PASSED)
    match c.heldPartial e st with
    | none => start c
    | some p =>
      if !c.recordFree e then (none, c.count R.RED_COUNTS_PASSED)
      else if 1024 < p.n + redCount st then start (c.releaseEdge p)
      else
        let p' := p.add st
        let c := c.setPartial p p'
        (some (if expect ≤ p'.n then c.releaseEdge p' else c), c)

/-- Held partials of an edge site that a condition names are released. -/
def Chip.flushEdge (c : Chip) (e : Nat) (hit : Partial → Bool) : Chip :=
  c.each (c.red.partials.filter (fun p => p.unit == e && hit p)) Chip.releaseEdge

/-! Multicast groups (R274 to R277). -/

/-- The group of an MC_STORE, and DOWN (R144, R276). -/
def mcGroup (st : Stitch) : Nat := fget st.opspec 17 6
def mcDown (st : Stitch) : Bool := bitOf st.opf 0

/-- Whether the group table has an enabled entry for a stitch's group and tenant. -/
def Chip.mcEntry (c : Chip) (st : Stitch) : Bool :=
  c.on (R.RED_MC_A_EN (mcGroup st)) && c.rd (R.RED_MC_A_TENANT (mcGroup st)) == st.tenant

/-- The child ports of a group. -/
def Chip.mcChildren (c : Chip) (g : Nat) : List Nat := setBits 16 (c.rd (R.RED_MC_A_CHILDREN g))

/-- A multicast copy is discarded: counted in RED.MC_DROP, recorded, and reported where R277 asks for it (site: the discarding edge site). -/
def Chip.mcDiscard (c : Chip) (st : Stitch) : Chip := (c.count R.RED_MC_DROP_COUNT).event Ev.mcDiscard (some st.tenant) 0 [mcGroup st, c.row]

/-- A discard under R277 is also reported, naming the port that the copy came by, or the link from its source. -/
def Chip.mcMismatch (c : Chip) (e : Nat) (port : Option Nat) (st : Stitch) : Chip :=
  let unit := match port with
    | some j => Unit.port j
    | none => Unit.sitePair st.srcSite (18 + e)
  (c.mcDiscard st).report unit [st.tenant] 1 opMC_STORE 0 actReported

/-- A copy of a multicast stitch (R277): DOWN 1, a new CHECK; DST_SITE is the owner for a member's copy. -/
def mcCopy (st : Stitch) (owner : Option Nat) : Stitch :=
  let st := { st with opf := st.opf / 2 * 2 + 1 }
  Stitch.sealed (match owner with
    | some d => { st with dstSite := d }
    | none => st)

/-! Allocation (R264, R265, R271, R279). -/

/-- Whether a context's reservations fit at every unit beside those in effect (R265, R271). -/
def Chip.reserveFits (c : Chip) (resEdge resMem : Nat) : Bool :=
  (List.range 12).all (fun u => decide (c.unitReserved u + (if u < 4 then resEdge else resMem) ≤ unitEntries u))

/-- A frog of tenant `t`: its partials, answer records, slots and waiting copies are discarded without answer or count (R280). -/
def Chip.frogCombine (c : Chip) (t : Nat) : Chip :=
  c.onRed (fun x => { x with
    partials := x.partials.filter (fun p => p.key.tenant != t), slots := x.slots.filter (fun d => d.key.tenant != t)
    relays := x.relays.filter (fun r => r.tenant != t), mcWait := x.mcWait.filter (fun w => w.st.tenant != t)
    mcHop := x.mcHop.filter (fun h => h.2.tenant != t) })

end Sys2Proof.Machine
end

