-- ==== Sys2Proof/Machine/Route.lean ====
section
/-! DEFINITION. System routing: the torus, candidate ports, pools and credits of the edge sites, the escape channel, the detour queue
and node states (R225 to R250). Pools are numbered 0 adaptive, 1 escape, 2 control (R234). -/

namespace Sys2Proof.Machine

/-- Whether NODE is N or more (R225, ROUTE.STATUS.NODE_BAD). -/
def Chip.nodeBad (c : Chip) : Bool := decide (c.nodeCount ≤ c.node)

/-- The size of dimension `i` (0 X, 1 Y, 2 Z). -/
def Chip.dim (c : Chip) (i : Nat) : Nat := if i = 0 then c.dims.1 else if i = 1 then c.dims.2.1 else c.dims.2.2

/-- Coordinate `i` of node `n` (R226). -/
def Chip.coord (c : Chip) (n i : Nat) : Nat :=
  if i = 0 then n % c.dims.1 else if i = 1 then n / c.dims.1 % c.dims.2.1 else n / (c.dims.1 * c.dims.2.1)

/-- The offset Δ along dimension `i` from node `a` to node `b` (R226). -/
def Chip.delta (c : Chip) (a b i : Nat) : Nat := (c.coord b i + c.dim i - c.coord a i % c.dim i) % c.dim i

/-- The torus distance of two nodes (R226). -/
def Chip.dist (c : Chip) (a b : Nat) : Nat :=
  ((List.range 3).map (fun i => min (c.delta a b i) (c.dim i - c.delta a b i))).sum

/-- The role of port `j`: a torus direction 0 to 5, 6 express, 7 none; a role that a port cannot take acts as none (R227). -/
def Chip.portRole (c : Chip) (j : Nat) : Nat :=
  let r := c.rd (R.ROUTE_PORT_MAP_ROLE j)
  if j < 12 then (if r < 6 then r else 7) else (if r = 6 then 6 else 7)

/-- Whether a port is Up (EDGE.STATUS). -/
def Chip.portUp (c : Chip) (j : Nat) : Bool := c.rd (R.EDGE_STATUS_STATE j) == 2

/-- Whether new stitches may be placed on a port: Up and not departing (R246). -/
def Chip.portOpen (c : Chip) (j : Nat) : Bool := c.portUp j && !c.edge.departing.any (fun d => d.port == j)

/-- The node of a port's partner. -/
def Chip.partnerNode (c : Chip) (j : Nat) : Nat := c.rd (R.EDGE_PARTNER_NODE j)

/-- The ports of a torus direction that are Up, in rising order. -/
def Chip.portsOf (c : Chip) (role : Nat) : List Nat := (List.range 16).filter (fun j => c.portRole j == role && c.portOpen j)

/-- Whether the partner that training names is the one the port's role expects (R227, R228). -/
def Chip.partnerExpected (c : Chip) (j partner : Nat) : Bool :=
  let r := c.portRole j
  if r = 7 then true
  else if r = 6 then partner != c.node
  else
    let i := r / 2
    let d := c.dim i
    (List.range 3).all (fun x =>
      if x = i then c.coord partner x == (if r % 2 = 0 then (c.coord c.node x + 1) % d else (c.coord c.node x + d - 1) % d)
      else c.coord partner x == c.coord c.node x) && decide (partner < c.nodeCount) && decide (1 < d)

/-- Whether an override of node `n` is in effect (R241). -/
def Chip.overridden (c : Chip) (n : Nat) : Bool := c.on (R.ROUTE_NODE_STATE_OVR_EN n)

/-- The Up ports of an override (R241). -/
def Chip.overridePorts (c : Chip) (n : Nat) : List Nat := (setBits 16 (c.rd (R.ROUTE_NODE_STATE_MASK n))).filter c.portOpen

/-- The candidate ports for a stitch to node `d` (R229, R241). -/
def Chip.candidates (c : Chip) (d : Nat) : List Nat :=
  if c.overridden d then c.overridePorts d
  else (List.range 16).filter (fun j => c.portOpen j &&
    (let r := c.portRole j
     if r < 6 then
       let i := r / 2
       let x := c.delta c.node d i
       x != 0 && (if r % 2 = 0 then decide (2 * x ≤ c.dim i) else decide (c.dim i ≤ 2 * x))
     else if r = 6 then decide (c.dist (c.partnerNode j) d + c.rdPos R.ROUTE_CFG_EXP_GAIN ≤ c.dist c.node d)
     else false))

/-- The direction of the dimension order towards node `d`: X first, then Y, then Z (R236). -/
def Chip.orderDir (c : Chip) (d : Nat) : Option Nat :=
  match (List.range 3).find? (fun i => c.delta c.node d i != 0) with
  | none => none
  | some i => some (2 * i + (if 2 * c.delta c.node d i ≤ c.dim i then 0 else 1))

/-- The ports that an escaped stitch may take: the Up ports of its direction, or the lowest Up port of an override (R236, R241). -/
def Chip.escapePorts (c : Chip) (d : Nat) : List Nat :=
  if c.overridden d then (c.overridePorts d).take 1
  else match c.orderDir d with
    | none => []
    | some r => c.portsOf r

/-! Pools and credits. -/

/-- The pool of a stitch (R234). -/
def poolOf (st : Stitch) : Nat := if st.cls = 4 then 2 else if st.escape = 1 then 1 else 0

/-- Entries of a pool of one incoming port (R234). -/
def portPoolSize (pool : Nat) : Nat := if pool = 0 then 36864 else if pool = 1 then 4096 else 512

/-- Credits held for a pool of port `j`, which count from where it enters Up (R235). -/
def Chip.portCredit (c : Chip) (j pool : Nat) : Nat :=
  if !c.portUp j then 0 else portPoolSize pool + (getKey (j, pool) c.edge.partnerFreed).getD 0 - (getKey (j, pool) c.edge.sent).getD 0

/-- A credit of a pool of a port is used. -/
def Chip.useCredit (c : Chip) (j pool : Nat) : Chip :=
  c.onEdge (fun e => { e with sent := putKey (j, pool) ((getKey (j, pool) e.sent).getD 0 + 1) e.sent })

/-- The credit of a stitch queued for a port that does not go out by it is given back (R235, R239). -/
def Chip.unuseCredit (c : Chip) (j pool : Nat) : Chip :=
  c.onEdge (fun e => { e with sent := putKey (j, pool) ((getKey (j, pool) e.sent).getD 0 - 1) e.sent })

/-- The entry of a stitch is freed: its port's pool entry, or its ingress credit at the edge site (R168, R234, R240). -/
def Chip.freeEntry (c : Chip) (x : PoolEntry) : Chip :=
  match x.fromPort, x.fromSite with
  | some (j, p), _ => c.onEdge (fun e => { e with freed := putKey (j, p) ((getKey (j, p) e.freed).getD 0 + 1) e.freed })
  | none, some s => c.freeCredit s (18 + x.edge) x.st
  | none, none => c

/-- The depth of port `j`: stitches of classes 0 to 3 queued for it and not yet in a frame (R230). -/
def Chip.portDepth (c : Chip) (j : Nat) : Nat := (c.edge.portQ.filter (fun x => x.1 == j && x.2.st.cls != 4)).length

/-- Escaped stitches queued for port `j` (ROUTE.PORT_DEPTH_j.ESC). -/
def Chip.portDepthEsc (c : Chip) (j : Nat) : Nat := (c.edge.portQ.filter (fun x => x.1 == j && x.2.st.cls != 4 && x.2.st.escape == 1)).length

/-- The port of smallest depth of a list, the lower number among equals; `depth` gives the depths. -/
def leastDeep (depth : Nat → Nat) (l : List Nat) : Option Nat :=
  l.foldl (fun b j => match b with
    | none => some j
    | some x => if depth j < depth x ∨ (depth j = depth x ∧ j < x) then some j else some x) none

/-- The stitches in the detour queue of an edge site. -/
def Chip.detourCount (c : Chip) (e : Nat) : Nat := (c.edge.detour.filter (fun x => x.edge == e)).length

/-- The edge site that a source adapter sends a stitch for node `d` to, by the published depths (R231). -/
def Chip.chooseEdge (c : Chip) (d : Nat) : Nat :=
  match leastDeep (fun j => (getKey j c.edge.pubDepth).getD 0) (c.candidates d) with
  | some j => j / 4
  | none => (leastDeep (fun e => (getKey e c.edge.pubDetour).getD 0) (List.range 4)).getD 0

/-- The site that a waiting stitch of a source adapter goes to next: its destination site, the combining edge site of its context (R266), or an
edge site of this package by depth (R231). -/
def Chip.nextSite (c : Chip) (st : Stitch) : Nat :=
  if st.dstNode = c.node then st.dstSite
  else if st.opcode = opREDUCE ∧ c.ctxMatches st ∧ c.on (R.RED_CTX_A_EDGE_EN (redCtx st)) then 18 + c.rd (R.RED_CTX_A_EDGE (redCtx st))
  else 18 + c.chooseEdge st.dstNode

/-! Lost skeins. -/

/-- A stitch that waits at site `s` for a lost skein (R56, R174): counted; an answer is discarded; a request of the site's own completes NO_PATH there, and one that an edge site was to
pass on is refused to its source. -/
def Chip.lostStitch (c : Chip) (s : Nat) (st : Stitch) : Chip :=
  let c := c.count R.OPF_NO_PATH_COUNT_COUNT
  if opResponse st.opcode then c
  else if st.srcNode = c.node ∧ st.srcSite = s then
    match c.outstanding s st.dstNode st.tenant st.seq with
    | some e => if opSequenced st.opcode then ((c.freeOut e).countRefused s stNO_PATH).complete e stNO_PATH else c
    | none => c
  else c.refuse s st stNO_PATH

/-- The stitches that wait at site `s` for site `d`, its own and those an edge site passes on, when their skein is lost (R56, R174). -/
def Chip.skeinGone (c : Chip) (s d : Nat) : Chip :=
  let mine := fun (x : Nat × Stitch) => x.1 == s && c.nextSite x.2 == d && x.2.dstSite != 31
  let pass := fun (x : Nat × Nat × PoolEntry) => x.1 == s && x.2.1 == d
  let own := (c.xport.waiting.filter mine).map (·.2)
  let through := (c.edge.relay.filter pass).map (·.2.2)
  let c := (c.onXport (fun y => { y with waiting := y.waiting.filter (fun x => !mine x) })).onEdge (fun y => { y with relay := y.relay.filter (fun x => !pass x) })
  let c := c.refuseWaits (fun w => w.site == s && w.opening.dstNode == c.node && w.opening.dstSite == d) stNO_PATH
  let c := c.each own (fun c st => c.lostStitch s st)
  (c.each through (fun c x => (c.freeEntry x).lostStitch s x.st)).unstall

/-- An edge site has a stitch to pass on to site `d` of this package (R230, R232). -/
def Chip.passOn (c : Chip) (s d : Nat) (x : PoolEntry) : Chip :=
  if c.skeinLost s d then (c.freeEntry x).lostStitch s x.st else c.onEdge (fun y => { y with relay := y.relay ++ [(s, d, x)] })

/-- The port by which an escaped stitch came into the package in the escape pool, here or at the edge site that passed it on (R237). -/
def Chip.ringPort (c : Chip) (x : PoolEntry) : Option Nat :=
  match x.fromPort with
  | some (j, 1) => some j
  | some _ => none
  | none => (c.edge.ringHops.find? (fun h => h.1 == x.edge && h.2.1 == x.st)).map (·.2.2)

/-- The note of an escaped stitch's port is used up at the edge site that it was passed to. -/
def Chip.dropRingHop (c : Chip) (x : PoolEntry) : Chip :=
  c.onEdge (fun y => { y with ringHops := dropFirst (fun h => h.1 == x.edge && h.2.1 == x.st) y.ringHops })

/-- An escaped stitch that another edge site is to place on a port keeps the note of the port that it came in by (R237). -/
def Chip.noteRingHop (c : Chip) (e' : Nat) (x : PoolEntry) : Chip :=
  match c.ringPort x with
  | some j => (c.dropRingHop x).onEdge (fun y => { y with ringHops := y.ringHops ++ [(e', x.st, j)] })
  | none => c

/-- The stitches at the heads of queues wait afresh for a credit where a candidate port has one again: ESC_WAIT runs while every candidate lacks one (R236, R238). -/
def Chip.creditsBack (c : Chip) : Chip :=
  c.onEdge (fun y => { y with pools := y.pools.map (fun x =>
    if x.since.isSome && !(if x.st.escape = 1 then [] else c.candidates x.st.dstNode).all (fun j => c.portCredit j (poolOf x.st) == 0) then { x with since := none } else x) })

/-- What has come to wait for a lost skein since is ended too. -/
def Chip.lostSkeinStep (c : Chip) : Chip := c.each c.opf.lostSkeins (fun c x => c.skeinGone x.1 x.2)

/-! The context that issues a request. -/

/-- The tenant of the context that issues a request at a site (R150): of an enabled command queue whose commands the die of the site executes, of the compute core, of the processor hart with
mtenant enabled (R402), or, for inbound DMA at a host I/O site, of a root port of that site (HIO.PORT_TENANT_r). The requester names its context and no tenant of its own choice. -/
def Chip.ctxTenant (c : Chip) (site : Nat) : IssueCtx → Option Nat
  | .queue t q => if site < 8 ∧ c.on (R.PCU_CQ_CFG_EN t.val q.val) ∧ c.rd (R.PCU_CQ_CFG_KIND t.val q.val) = 0 ∧ c.rd (R.PCU_CQ_CFG_DIE t.val q.val) = site then some t.val else none
  | .core k => if site < 8 then c.coreTenant site k.val else none
  | .hart k => if (site = 8 ∨ site = 9) ∧ c.on (R.CPU_CORE_STATE_TENANT_EN (site - 8) k.val) then some (c.rd (R.CPU_CORE_STATE_TENANT (site - 8) k.val)) else none
  | .context t => if (List.range 16).any (fun r => site == 22 + r / 8 && c.on (R.HIO_PORT_TENANT_EN r) && c.rd (R.HIO_PORT_TENANT_TENANT r) == t.val) then some t.val else none

/-! Answers and discards at an edge site. -/

/-- An edge site answers a stitch UNREACHABLE and counts it (R240, R242). -/
def Chip.nackUnreachable (c : Chip) (e : Nat) (st : Stitch) : Chip := (c.refuse (18 + e) st stUNREACHABLE).count R.ROUTE_DETOUR_NACKED

/-- A stitch that fails its end-to-end check, or is treated so, is discarded without answer, counted with its lane and reported (R148, R232). -/
def Chip.e2eFail (c : Chip) (site plane k : Nat) (port : Option (Nat × Nat)) (st : Stitch) : Chip :=
  let c := if site < 24 then
      ((((c.count (R.SITE_E2E_FAIL_COUNT site)).wr (R.SITE_E2E_LAST_PLANE site) plane).wr (R.SITE_E2E_LAST_K site) k).wr
        (R.SITE_E2E_LAST_SRC_SITE site) st.srcSite).wr (R.SITE_E2E_LAST_ROW site) c.row16
    else c
  let unit := match port with
    | some (j, l) => Unit.portLane j l true
    | none => Unit.lane (site % 32) plane k true
  c.report unit [] 1 st.opcode 0 actReported

/-- Whether a stitch is a multicast copy on its way down the tree (R277). -/
def isCopy (st : Stitch) : Bool := st.opcode == opMC_STORE && mcDown st

/-- A stitch that a combining unit has to replicate, or a copy for a child port, at edge site `e` (R277): it waits for its copies to be placed; what
does not match the group table is discarded, counted and reported. -/
def Chip.mcAtEdge (c : Chip) (x : PoolEntry) : Chip :=
  let g := mcGroup x.st
  let port := x.fromPort.map (·.1)
  let bad := (c.freeEntry x).mcMismatch x.edge port x.st
  if !c.mcEntry x.st then bad
  else if mcDown x.st then
    match x.fromPort with
    | some (j, _) => if c.rd (R.RED_MC_A_PARENT g) = j then c.onRed (fun y => { y with mcWait := y.mcWait ++ [⟨x.edge, x.st, x.fromPort, x.fromSite, x.plane, x.k⟩] }) else bad
    | none =>
      match c.red.mcHop.find? (fun h => h.1 / 4 == x.edge && h.2 == x.st) with
      | none => bad
      | some h =>
        let c := (c.freeEntry x).onRed (fun y => { y with mcHop := dropFirst (fun z => z == h) y.mcHop })
        if !c.portUp h.1 then c.mcDiscard x.st
        else if (c.mcChildren g).contains h.1 then
          c.onEdge (fun y => { y with portQ := y.portQ ++ [(h.1, { x with fromPort := none, fromSite := none, since := none })] })
        else c.mcMismatch x.edge none x.st
  else if c.on (R.RED_MC_A_ROOT g) ∧ c.rd (R.RED_MC_B_ROOT_SITE g) = 18 + x.edge then
    c.onRed (fun y => { y with mcWait := y.mcWait ++ [⟨x.edge, x.st, x.fromPort, x.fromSite, x.plane, x.k⟩] })
  else bad

/-- A stitch arrives at an edge site to be forwarded, from a port or from a site of this package (R147, R234): checked end to end, discarded where its tenant is in FROGGED here (R280), merged by the combining
unit where R267 has it so, replicated where it is a multicast copy (R277). -/
def Chip.edgeArrive (c : Chip) (x : PoolEntry) (plane k : Nat) (lane : Option (Nat × Nat)) : Chip :=
  let x : PoolEntry := { x with plane := plane, k := k }
  let queue := fun (c : Chip) => c.onEdge (fun e => { e with pools := e.pools ++ [x] })
  if Stitch.checkOk x.st then
    if x.st.opcode ≠ opCTRL ∧ c.rd (R.PART_STATE_STATE x.st.tenant) = 3 then c.freeEntry x
    else if x.st.opcode = opREDUCE then
      match c.edgeCombine x.edge x.st with
      | (some c', _) => c'.freeEntry x
      | (none, c') => queue c'
    else if isCopy x.st then c.mcAtEdge x
    else queue c
  else (c.freeEntry x).e2eFail (18 + x.edge) plane k lane x.st

/-- The stitches that the service, or the adapter of edge site `e` itself, sends to other nodes join that edge site's queues (R231, R238). -/
def Chip.edgeIntake (c : Chip) (e : Nat) : Chip :=
  let mine := fun (x : Nat × Stitch) => x.2.dstNode != c.node && (x.1 == 31 || x.1 == 18 + e) && c.chooseEdge x.2.dstNode == e
  let hit := c.xport.waiting.filter mine
  let c := c.onXport (fun y => { y with waiting := y.waiting.filter (fun x => !mine x) })
  c.onEdge (fun y => { y with pools := y.pools ++ hit.map (fun x => ({ edge := e, fromPort := none, fromSite := none, st := x.2, since := none, row := c.row } : PoolEntry)) })

/-- Whether the protocol levels of a port define the subtype of a CTRL stitch (R144, R248): level 0x03 has subtypes 1 to 8, and R248 names none that level 0x02 lacks. -/
def ctrlDefined (st : Stitch) : Bool :=
  let sub := fget st.opspec 17 10
  decide (1 ≤ sub) && decide (sub ≤ 8)

/-- Where a queue of an edge site has its head: edge site, destination node, pool. -/
def queueOf (e node pool : Nat) (x : PoolEntry) : Bool := x.edge == e && x.st.dstNode == node && poolOf x.st == pool

/-- A stitch placed on port `j` by edge site `e`: queued for the port, or passed to the edge site that owns it (R230, R232, R248). -/
def Chip.placeOnPort (c : Chip) (e j : Nat) (x : PoolEntry) : Chip :=
  if j / 4 ≠ e then (c.noteRingHop (j / 4) x).passOn (18 + e) (18 + j / 4) x
  else
    let c := if (c.ringPort x).isSome then c.dropRingHop x else c
    if 31 < x.st.hops + 1 then
      ((c.freeEntry x).count R.ROUTE_FAULTS_HOP_FAULT).e2eFail (18 + e) x.plane x.k (x.fromPort.map (fun f => (f.1, x.k))) x.st
    else if x.st.opcode = opCTRL ∧ ctrlDefined x.st = false then (c.freeEntry x).count R.ROUTE_FAULTS_LEVEL_DROP
    else (c.useCredit j (poolOf x.st)).onEdge (fun y => { y with portQ := y.portQ ++ [(j, x)] })

/-- Whether an escaped stitch that came in by a port goes on along its ring in direction `r` (R237): it came in through the port of the opposite
direction, in the escape pool, at this edge site or at the one that passed it on. -/
def Chip.onRing (c : Chip) (x : PoolEntry) (r : Nat) : Bool :=
  match c.ringPort x with
  | some j => c.portRole j == (if r % 2 = 0 then r + 1 else r - 1)
  | none => false

/-- The bubble rule: credits that a stitch must find at a port of direction `r` (R237). -/
def Chip.bubbleNeed (c : Chip) (x : PoolEntry) (r : Nat) : Nat := if c.onRing x r then 1 else 2

/-- The port that an escaped stitch takes by dimension order and the bubble rule, with the credits of a pool (R236 to R238). -/
def Chip.escapeChoice (c : Chip) (x : PoolEntry) (pool : Nat) : Option Nat :=
  leastDeep c.portDepth ((c.escapePorts x.st.dstNode).filter (fun j => decide (c.bubbleNeed x (c.portRole j) ≤ c.portCredit j pool)))

/-- A stitch without an Up candidate goes to the detour queue, its entry freed; a full queue answers it at once (R240). -/
def Chip.toDetour (c : Chip) (x : PoolEntry) : Chip :=
  let c := c.freeEntry x
  if 4096 ≤ c.detourCount x.edge then c.nackUnreachable x.edge x.st
  else c.onEdge (fun e => { e with detour := e.detour ++ [({ x with fromPort := none, fromSite := none, since := none, row := c.row } : PoolEntry)] })

/-- The stitch at the head of an edge site's queue for a node is handled: delivered within the package, answered, placed on a port, put into the
detour queue, or left to wait for credit (R230, R236, R238, R240, R242, R250). -/
def Chip.forwardHead (c : Chip) (e node pool : Nat) : Chip :=
  match c.edge.pools.find? (queueOf e node pool) with
  | none => c
  | some x =>
    let c' := c.onEdge (fun y => { y with pools := dropFirst (fun z => z == x) y.pools })
    if node = c.node then
      if x.st.dstSite = 31 ∨ x.st.dstSite = 18 + e then
        (c'.freeEntry x).onXport (fun y => { y with arrived := y.arrived ++ [⟨x.st.dstSite, 63, 31, x.st⟩] })
      else c'.passOn (18 + e) x.st.dstSite x
    else if c.nodeUnreachable node then (c'.freeEntry x).nackUnreachable e x.st
    else
      let cand := if pool = 1 then c.escapePorts node else c.candidates node
      if cand.isEmpty then c'.toDetour x
      else
        let choice := if pool = 1 then c.escapeChoice x 1
          else leastDeep c.portDepth (cand.filter (fun j => decide (1 ≤ c.portCredit j pool)))
        match choice with
        | some j => c'.placeOnPort e j { x with since := none }
        | none =>
          if x.since.isSome then c
          else c.onEdge (fun y => { y with pools := updFirst (fun z => z == x) (fun z => { z with since := some c.cycles }) y.pools })

/-- A stitch that has waited ESC_WAIT × 8 cycles at the head of its queue moves to the escape channel where every candidate port still lacks an adaptive credit; one of class 4 takes the
dimension-order port once that holds the control credits of the bubble rule (R236, R238). -/
def Chip.escapeHead (c : Chip) (e node : Nat) (control : Bool) : Chip :=
  match c.edge.pools.find? (queueOf e node (if control then 2 else 0)) with
  | none => c
  | some x =>
    let starved := (c.candidates node).all (fun j => c.portCredit j (poolOf x.st) == 0)
    match x.since with
    | some t =>
      if t + 8 * c.rdPos R.ROUTE_CFG_ESC_WAIT ≤ c.cycles ∧ (control || starved) ∧ (c.candidates node).isEmpty = false then
        if control then
          match c.escapeChoice x 2 with
          | some j => (c.onEdge (fun y => { y with pools := dropFirst (fun z => z == x) y.pools })).placeOnPort e j { x with since := none }
          | none => c
        else
          let moved : PoolEntry := { x with st := { x.st with escape := 1 }, since := none }
          (c.onEdge (fun y => { y with pools := updFirst (fun z => z == x) (fun _ => moved) y.pools })).count R.ROUTE_ESCAPES_COUNT
      else c
    | none => c

/-- Stitches of the detour queues that have a candidate go back to routing (R240). -/
def Chip.detourRecheck (c : Chip) : Chip :=
  let ready := fun (x : PoolEntry) => !(if x.st.escape = 1 then c.escapePorts x.st.dstNode else c.candidates x.st.dstNode).isEmpty
  c.onEdge (fun e => { e with pools := e.pools ++ e.detour.filter ready, detour := e.detour.filter (fun x => !ready x) })

/-- The stitches for node `n` in the detour queues are answered UNREACHABLE, and the package's own sources complete theirs (R159, R240, R242). -/
def Chip.answerDetour (c : Chip) (n : Nat) : Chip :=
  let hit := c.edge.detour.filter (fun x => x.st.dstNode == n)
  let c := c.onEdge (fun e => { e with detour := e.detour.filter (fun x => x.st.dstNode != n) })
  (c.each hit (fun c x => c.nackUnreachable x.edge x.st)).nodeGone n

/-- A node is declared unreachable by hardware (R240). -/
def Chip.declareUnreachable (c : Chip) (n : Nat) : Chip :=
  ((c.wr (R.ROUTE_NODE_STATE_STATE n) 1).answerDetour n).event Ev.nodeUnreachable none (Unit.node n) [n]

/-- Nodes set unreachable by hardware are reachable again at the boundary at which a candidate port is Up (R240). -/
def Chip.reachAgain (c : Chip) : Chip :=
  c.each (List.range (min 4096 c.nodeCount)) (fun c n =>
    if c.rd (R.ROUTE_NODE_STATE_STATE n) = 1 ∧ (c.candidates n).isEmpty = false then c.wr (R.ROUTE_NODE_STATE_STATE n) 0 else c)

/-- The stitches queued for a port and not yet in a frame are chosen again (R239); multicast copies among them are discarded (R280). -/
def Chip.requeuePort (c : Chip) (j : Nat) : Chip :=
  let mine := (c.edge.portQ.filter (fun x => x.1 == j)).map (·.2)
  let c := c.onEdge (fun e => { e with pools := mine.filter (fun x => !isCopy x.st) ++ e.pools
                                       portQ := e.portQ.filter (fun x => x.1 != j) })
  let c := c.each mine (fun c x => c.unuseCredit j (poolOf x.st))
  c.each (mine.filter (fun x => isCopy x.st)) (fun c x => c.mcDiscard x.st)

/-- A frog of tenant `t`: its stitches in pools, port queues and detour queues are discarded without answer, their entries freed (R250). -/
def Chip.frogEdge (c : Chip) (t : Nat) : Chip :=
  let mine := fun (x : PoolEntry) => x.st.tenant == t && x.st.cls != 4
  let hit := c.edge.pools.filter mine ++ (c.edge.portQ.map (·.2)).filter mine ++ (c.edge.relay.map (·.2.2)).filter mine
  let placed := c.edge.portQ.filter (fun x => mine x.2)
  let c := c.onEdge (fun e => { e with pools := e.pools.filter (fun x => !mine x), detour := e.detour.filter (fun x => !mine x)
                                       portQ := e.portQ.filter (fun x => !mine x.2), relay := e.relay.filter (fun x => !mine x.2.2)
                                       ringHops := e.ringHops.filter (fun h => h.2.1.tenant != t) })
  let c := c.each placed (fun c x => c.unuseCredit x.1 (poolOf x.2.st))
  (c.each hit (fun c x => c.freeEntry x)).creditsBack

/-- ROUTE.NODE_STATE_n: STATE takes only 0 and 2; the entry of this node and those of n ≥ N ignore writes (R241, R242). -/
def Chip.nodeStateHook (c : Chip) (n v : Nat) : WriteHook :=
  let old := c.rd (R.ROUTE_NODE_STATE_STATE n)
  ⟨n != c.node && decide (n < c.nodeCount), id, fun c =>
    let x := fget v 31 30
    if x = 1 ∨ x = 3 then c.wr (R.ROUTE_NODE_STATE_STATE n) old
    else if x = 2 then c.answerDetour n else c⟩

/-- A waiting multicast stitch as the pool entry that it holds. -/
def McWait.entry (w : McWait) : PoolEntry := { edge := w.edge, fromPort := w.fromPort, fromSite := w.fromSite, st := w.st, since := none, row := 0 }

/-- Whether every child port of a waiting multicast stitch has a credit: two where its copies enter a ring (R237, R277). -/
def Chip.mcReady (c : Chip) (w : McWait) : Bool :=
  (c.mcChildren (mcGroup w.st)).all (fun j =>
    let inRing := match w.fromPort with
      | some (i, _) => c.portRole i == (if c.portRole j % 2 = 0 then c.portRole j + 1 else c.portRole j - 1)
      | none => false
    decide ((if inRing then 1 else 2) ≤ c.portCredit j 0) && c.portOpen j)

/-- The copies of a waiting multicast stitch are placed (R277): one to the owner of its address at a member, one for each child port; a child port of another
edge site has its copy sent to that site over the package. A stitch of which the table makes no copy is discarded, counted and reported as one that does not match it (R277; log entry 159). -/
def Chip.mcPlace (c : Chip) (w : McWait) : Chip :=
  let g := mcGroup w.st
  let st := mcCopy { w.st with escape := 0 } none
  let entry := fun (s : Stitch) => ({ edge := w.edge, fromPort := none, fromSite := none, st := s, since := none, row := c.row, plane := w.plane, k := w.k } : PoolEntry)
  let c := c.onRed (fun y => { y with mcWait := dropFirst (fun z => z == w) y.mcWait })
  let c := c.each (c.mcChildren g) (fun c j =>
    if 31 < st.hops + 1 then (c.count R.ROUTE_FAULTS_HOP_FAULT).e2eFail (18 + w.edge) w.plane w.k (w.fromPort.map (fun (f : Nat × Nat) => (f.1, w.k))) st
    else if j / 4 = w.edge then (c.useCredit j 0).onEdge (fun y => { y with portQ := y.portQ ++ [(j, entry st)] })
    else if c.skeinLost (18 + w.edge) (18 + j / 4) then (c.count R.OPF_NO_PATH_COUNT_COUNT).mcDiscard st
    else ((c.useCredit j 0).onEdge (fun y => { y with relay := y.relay ++ [(18 + w.edge, 18 + j / 4, entry st)] })).onRed
      (fun y => { y with mcHop := y.mcHop ++ [(j, st)] }))
  let c := match c.on (R.RED_MC_A_MEMBER g), ownerSite st.ppa with
    | true, some d => c.passOn (18 + w.edge) d (entry (mcCopy st (some d)))
    | true, none => c.mcMismatch w.edge (w.fromPort.map Prod.fst) w.st
    | false, _ => if (c.mcChildren g).isEmpty then c.mcMismatch w.edge (w.fromPort.map Prod.fst) w.st else c
  c.freeEntry w.entry

/-! The commands. -/

/-- EDGE_FORWARD (R230): the head of edge site `e`'s queue for a node, by pool. -/
def execEdgeForward (e : Fin 4) (node : Fin 4096) (pool : Fin 3) (s : State) : Result :=
  .next (s.onChip (fun c => (c.edgeIntake e.val).forwardHead e.val node.val pool.val))

/-- ESCAPE_TIMEOUT (R236, R238). -/
def execEscapeTimeout (e : Fin 4) (node : Fin 4096) (control : Bool) (s : State) : Result :=
  .next (s.onChip (fun c => c.escapeHead e.val node.val control))

/-- DETOUR_TIMEOUT (R240): DETOUR_WAIT rows have passed with stitches for the node waiting and no candidate. -/
def execDetourTimeout (node : Fin 4096) (s : State) : Result :=
  .next (s.onChip (fun c =>
    let n := node.val
    if c.edge.detour.any (fun x => x.st.dstNode == n && decide (x.row + c.rdPos R.ROUTE_CFG_DETOUR_WAIT ≤ c.row))
      ∧ (c.candidates n).isEmpty ∧ n ≠ c.node then c.declareUnreachable n else c))

/-- DEPTH_PUBLISH (R231). -/
def execDepthPublish (e : Fin 4) (s : State) : Result :=
  .next (s.onChip (fun c =>
    let c := c.each [4 * e.val, 4 * e.val + 1, 4 * e.val + 2, 4 * e.val + 3]
      (fun c j => c.onEdge (fun y => { y with pubDepth := putKey j (c.portDepth j) y.pubDepth }))
    c.onEdge (fun y => { y with pubDetour := putKey e.val (c.detourCount e.val) y.pubDetour })))

/-- NODE_STATE_WRITE (R241). -/
def execNodeStateWrite (req : Requester) (n : Fin 4096) (v : BitVec 32) (s : State) : Result :=
  .next (s.onChip (fun c => c.writeReg req (R.ROUTE_NODE_STATE n.val) v.toNat (c.nodeStateHook n.val v.toNat)))

/-- MC_COPY_PLACE (R277): the first waiting multicast stitch of edge site `e` whose child ports all have credit. One whose entry is gone is discarded (R280). -/
def execMcCopyPlace (e : Fin 4) (s : State) : Result :=
  .next (s.onChip (fun c =>
    match c.red.mcWait.find? (fun w => w.edge == e.val && (!c.mcEntry w.st || c.mcReady w)) with
    | none => c
    | some w =>
      if c.mcEntry w.st then c.mcPlace w
      else
        let c := c.onRed (fun y => { y with mcWait := dropFirst (fun z => z == w) y.mcWait })
        (c.freeEntry w.entry).mcMismatch e.val (w.fromPort.map (·.1)) w.st))

end Sys2Proof.Machine
end

