-- ==== Sys2Proof/Machine/Circuits.lean ====
section
/-! DEFINITION. Circuit patterns, standing circuits and runs (R175 to R198, R222). -/

namespace Sys2Proof.Machine

/-! Circuits. -/

/-- Whether plane and bank `e` are allotted to tenant `t` (R179). -/
def Chip.allotted (c : Chip) (e t : Nat) : Bool := decide (e < 112) && c.on (R.CIRC_ALLOT_EN e) && c.rd (R.CIRC_ALLOT_TENANT e) == t

/-- Whether a circuit stands on plane `e`. -/
def Chip.standing (c : Chip) (e : Nat) : Bool := decide (e < 112) && c.rd (R.CIRC_PLANE_STATE e) == 1

/-- The entries of pattern `p` that are valid, as plane and bank. -/
def Chip.validEntries (c : Chip) (p : Nat) : List (Nat × Nat) :=
  ((List.range 112).filter (fun e => c.on (R.CIRC_PAT_VALID p e))).map (fun e => (e, c.rd (R.CIRC_PAT_DST_BANK p e)))

/-- Whether a bank's receive side is dark (R54, R181). -/
def Chip.bankDark (c : Chip) (b : Nat) : Bool :=
  let x := switchedAt b
  c.rd (R.SITE_PLANE_STATE_RX_STATE x.1 x.2) == 2

/-- Where pattern `p` points plane `e`: a bank, or nowhere: not valid, a dark plane, a dark bank (R181, R182). -/
def Chip.pointed (c : Chip) (p e : Nat) : Option Nat :=
  if c.on (R.CIRC_PAT_VALID p e) ∧ c.rd (R.CIRC_PLANE_STATE e) ≠ 2 ∧ c.bankDark (c.rd (R.CIRC_PAT_DST_BANK p e)) = false then
    some (c.rd (R.CIRC_PAT_DST_BANK p e)) else none

/-- The circuits that pattern `p` of tenant `t` ends or re-points (R184). -/
def Chip.changed (c : Chip) (t p : Nat) : List Nat :=
  (List.range 112).filter (fun e => c.standing e && c.allotted e t && c.pointed p e != some (c.rd (R.CIRC_PLANE_DST_BANK e)))

/-- The planes that pattern `p` of tenant `t` ends, re-points, or points anew (R185). -/
def Chip.turning (c : Chip) (t p : Nat) : List Nat :=
  (List.range 112).filter (fun e => c.allotted e t && decide (c.rd (R.CIRC_PLANE_STATE e) < 2)
    && c.pointed p e != (if c.standing e then some (c.rd (R.CIRC_PLANE_DST_BANK e)) else none))

/-- Whether a circuit is a changing circuit: a triggered pattern ends or re-points it (R184). -/
def Chip.isChanging (c : Chip) (e : Nat) : Bool :=
  c.circ.armed.any (fun a => a.target.isSome && (c.changed a.tenant a.pattern).contains e)

/-- Whether a pattern may be armed for a tenant (R183, CIRC.PAT_p_e.TENANT). -/
def Chip.patternValid (c : Chip) (t p mode sync : Nat) : Bool :=
  let es := c.validEntries p
  c.rd (R.CIRC_PAT_HDR_TENANT p) == t && decide (mode < 3)
    && es.all (fun x => (!c.allotted x.1 t || c.allotted x.2 t) && decide (x.2 < 112) && (switchedAt x.2).1 != (switchedAt x.1).1
        && c.rd (R.CIRC_PAT_TENANT p x.1) == t)
    && decide ((es.map (·.2)).Nodup)
    && (mode != 2 || (match c.obj sync with
        | some o => o.tenant == t
        | none => false))

/-- A pattern is armed, and triggers at once where its condition holds already (R183). -/
def Chip.arm (c : Chip) (a : ArmedPattern) : Chip :=
  let c := (c.onCirc (fun x => { x with armed := x.armed ++ [a] })).armResult a.tenant 1 a.pattern
  if a.mode ≠ 1 ∧ c.triggerHolds a then c.trigger183 a.tenant else c

/-- CIRC.ARM_t: GO arms a pattern, CANCEL cancels one that has not triggered (R183). -/
def armHook (t v : Nat) : WriteHook :=
  .does (fun c =>
    let p := fget v 21 16
    let mode := fget v 29 28
    if bitOf v 31 then
      if (c.armedOf t).isSome then c.armResult t 4 p
      else if c.patternValid t p mode (c.rd (R.CIRC_ARM_SYNC_SYNC t)) then
        c.arm ⟨t, p, mode, fget v 15 0, c.rd (R.CIRC_ARM_SYNC_SYNC t), c.rd (R.CIRC_ARM_VALUE_VALUE t), none, 0, c.row⟩
      else c.armResult t 3 p
    else if bitOf v 30 then
      match c.armedOf t with
      | some a => if a.target.isSome then c
        else (c.onCirc (fun x => { x with armed := x.armed.filter (fun a => a.tenant != t) })).armResult t 7 a.pattern
      | none => c
    else c)

/-! Lanes and deals of circuits and ports. -/

/-- Whether a lane is booked for Cal or Test at the coming boundary, or in either (R104, R139). -/
def Chip.laneBooked (c : Chip) (s p k : Nat) : Bool :=
  c.tns.swatches.any (fun w => w.begun && w.site == s && w.plane == p && w.k == k)
    || c.lanes.runs.any (fun r => r.booked && r.site == s && r.plane == p && r.k == k)

/-- The reserved lanes of port `j` and their tenant (R196). -/
def Chip.reservedOf (c : Chip) (j : Nat) : Option (Nat × Nat) := (c.circ.reserved.find? (fun x => x.1 == j)).map (·.2)

/-- The data lanes of port `j` that are reserved for circuits, in rising order (R196). -/
def Chip.reservedLanes (c : Chip) (j : Nat) : List Nat :=
  match c.reservedOf j with
  | some (_, n) => (List.range (min 36 n)).map (fun i => 36 - min 36 n + i)
  | none => []

/-- The reserved lanes of a side of a port that are in service now (R222): Up, or about to be carried by a spare, which leaves a lane its place in the deal. -/
def Chip.portDealNow (c : Chip) (e : Nat) : List Nat :=
  let inc := decide (128 ≤ e)
  let j := if inc then e - 128 else e - 112
  let st := fun (l : Nat) => if inc then c.rd (R.EDGE_LANE_STATE_RX_STATE j l) else c.rd (R.EDGE_LANE_STATE_TX_STATE j l)
  (c.reservedLanes j).filter (fun l => st l == lsUP || c.edge.moves.any (fun m => m.port == j && m.incoming == inc && m.lane == l)
    || (!inc && st l == lsFENCED && c.edge.msgs.any (fun m => m.1 == j && m.2.1 / 2 ^ 60 == 4 && m.2.1 / 2 ^ 54 % 64 == c.rd (R.EDGE_LANE_STATE_TX_ON j l))))

/-- The lanes that a run opened now would deal to (R190, R222): of circuit `e`, or of the outgoing (112 + j) or incoming (128 + j) lanes of port `j`, as they were held at the row's boundary. -/
def Chip.dealLanes (c : Chip) (e : Nat) : List Nat :=
  if e < 112 then
    let x := switchedAt e
    (List.range 24).filter (fun k => c.laneState x.1 x.2 k == lsUP && !c.laneBooked x.1 x.2 k)
  else (getKey e c.circ.portDeal).getD (c.portDealNow e)

/-- The deals of the ports that are Up, as their lanes stand now. -/
def Chip.dealsNow (c : Chip) : List (Nat × List Nat) :=
  ((List.range 16).filter c.portUp).flatMap (fun j => [(112 + j, c.portDealNow (112 + j)), (128 + j, c.portDealNow (128 + j))])

/-- A row boundary: changes of the deals that lane-health bit 13 has marked take effect (R222). -/
def Chip.dealStep (c : Chip) : Chip := c.onCirc (fun x => { x with portDeal := x.dealNext.getD c.dealsNow, dealNext := none })

/-- Whether the deal of a side of a port changes at the coming boundary (R206, R222). -/
def Chip.dealTurns (c : Chip) (e : Nat) : Bool := (getKey e c.circ.portDeal).any (fun d => d != ((c.circ.dealNext.bind (getKey e)).getD (c.portDealNow e)))

/-- The key of the link that carries lane `k` of a circuit or port. -/
def runLane (e k : Nat) : Nat × Nat × Nat :=
  if e < 112 then ((switchedAt e).1, (switchedAt e).2, k) else if e < 128 then (24 + (e - 112), 0, k) else (24 + (e - 128), 0, k)

/-- Blocks of a run, from its opening (R187). -/
def runBlocksOf (st : Stitch) : Nat := fget st.opspec 17 8 + 1

/-- Groups of a run (R190). -/
def runGroups (st : Stitch) : Nat := (runBlocksOf st + 5) / 6

/-- How many blocks group `g` of a run holds (R190). -/
def groupSize (st : Stitch) (g : Nat) : Nat := min 6 (runBlocksOf st - 6 * g)

/-- The address of block `b` (R188). -/
def blockAddr (base : Nat) (siteLocal : Bool) (b : Nat) : Nat :=
  if siteLocal then base + b / 128 * 0x10000 + b % 128 * 64 else base + 64 * b

/-- PULL and SITE_LOCAL of an opening (R187). -/
def runPull (st : Stitch) : Bool := bitOf st.opf 0
def runLocal (st : Stitch) : Bool := bitOf st.opf 1

/-- The groups dealt to lanes from a starting index (R190), in an order class. -/
def dealGroups (deal : List Nat) (start groups order : Nat) : List (Nat × Nat × Nat) :=
  if deal.isEmpty then []
  else (List.range groups).map (fun j => (j, deal.getD ((start + j) % deal.length) 0, order))

/-- START of a run that opens with a deal (R190): the index of the lane after the one that took the last group of the previous run on the circuit or port; 0 for the first run. -/
def Chip.dealStart (c : Chip) (e : Nat) (deal : List Nat) : Nat :=
  match getKey e c.circ.start with
  | none => 0
  | some last => deal.findIdx (fun k => decide (last < k)) % max 1 deal.length

/-- The lane that takes the last group of a run is kept for the next run's START (R190). -/
def Chip.dealtTo (c : Chip) (e : Nat) (deal : List Nat) (start groups : Nat) : Chip :=
  c.onCirc (fun x => { x with start := putKey e (deal.getD ((start + groups - 1) % max 1 deal.length) 0) x.start })

/-- The open runs at the source on a circuit or port. -/
def Chip.srcRuns (c : Chip) (e : Nat) : List SrcRun := c.circ.src.filter (fun r => r.e == e)

/-- Groups waiting on a circuit or port (R189, R222). -/
def Chip.groupsWaiting (c : Chip) (e : Nat) : Nat := ((c.srcRuns e).map (fun r => r.todo.length)).sum

/-- A run at the source is kept in its new form. -/
def Chip.setSrcRun (c : Chip) (r r' : SrcRun) : Chip := c.onCirc (fun x => { x with src := updFirst (fun y => y == r) (fun _ => r') x.src })

/-- A run at the source is gone: its circuit has one open run fewer. -/
def Chip.dropSrcRun (c : Chip) (r : SrcRun) : Chip :=
  let c := c.onCirc (fun x => { x with src := dropFirst (fun y => y == r) x.src })
  if r.e < 112 then c.drop (R.CIRC_PLANE_OPEN_RUNS r.e) else c

/-- A run at its destination is kept in its new form, or gone. -/
def Chip.setDstRun (c : Chip) (r r' : DstRun) : Chip := c.onCirc (fun x => { x with dst := updFirst (fun y => y == r) (fun _ => r') x.dst })
def Chip.dropDstRun (c : Chip) (r : DstRun) : Chip := c.onCirc (fun x => { x with dst := dropFirst (fun y => y == r) x.dst })

/-! Opening runs. -/

/-- The standing circuits that a run of a tenant from `site` to a site or node may take, not changing (R184, R189). -/
def Chip.runCircuits (c : Chip) (site : Nat) (st : Stitch) : List Nat :=
  (List.range 112).filter (fun e => c.standing e && (switchedAt e).1 == site && c.rd (R.CIRC_PLANE_TENANT e) == st.tenant
    && (let d := (switchedAt (c.rd (R.CIRC_PLANE_DST_BANK e))).1
        if st.dstNode = c.node then d == st.dstSite else decide (18 ≤ d)))

/-- The opening stitch of a push run with its deal (R187): lane mask, run number, circuit, bank, START. -/
def openingOf (req : Stitch) (deal : List Nat) (runNo e bank start : Nat) : Stitch :=
  { req with cls := 0, opcode := opRUN_OPEN, start := 0, countM1 := 63, opf := req.opf % 4 / 2 * 2
             data := padTo 64 (leBytes 3 ((deal.map (fun k => 2 ^ k)).sum) ++ [runNo, e, bank, start, 0]) }

/-- A push run opens on circuit `e` (R189, R190, R154, R155): its opening is built, numbered in its flow and made outstanding. -/
def Chip.openRun (c : Chip) (e : Nat) (w : RunWait) : Chip :=
  let deal := c.dealLanes e
  let start := c.dealStart e deal
  let runNo := c.rd (R.CIRC_PLANE_RUN_NO e)
  let st := c.build w.site (openingOf w.opening deal runNo e (c.rd (R.CIRC_PLANE_DST_BANK e)) start)
  let g := runGroups st
  let r : SrcRun := { site := w.site, e := e, runNo := runNo, opening := st, startLane := deal.getD start 0, deal := deal
                      todo := dealGroups deal start g ((getKey e c.circ.redeals).getD 0), sent := [], src := w.src, srcLocal := w.srcLocal
                      relayOf := w.relayOf, opened := false, answered := false, pull := w.pull }
  let c := (c.onCirc (fun x => { x with src := x.src ++ [r] })).dealtTo e deal start g
  let c := c.onXport (fun x => { x with nextSeq := putKey (w.site, st.dstNode, st.tenant) ((st.seq + 1) % 65536) x.nextSeq
                                        out := x.out ++ [({ site := w.site, st := st, row := c.row } : OutEntry)] })
  ((c.outCounts w.site).wr (R.CIRC_PLANE_RUN_NO e) (runNo + 1)).wr (R.CIRC_PLANE_OPEN_RUNS e) (c.rd (R.CIRC_PLANE_OPEN_RUNS e) + 1)

/-- A run request that could open on none of its circuits now keeps waiting; one that can, opens on the circuit with the fewest groups waiting
and then the lower index (R184, R189). While a message of its flow enters, it waits for the message's last stitch (R154). -/
def Chip.tryRun (c : Chip) (w : RunWait) : Chip :=
  let free := (c.runCircuits w.site w.opening).filter (fun e => !c.isChanging e && decide (c.rd (R.CIRC_PLANE_OPEN_RUNS e) < 16)
    && !(c.dealLanes e).isEmpty)
  match leastDeep c.groupsWaiting free with
  | some e => if c.outRoom w.site w.opening.dstNode w.opening.tenant ∧ c.entering w.site w.opening.dstNode w.opening.tenant = none then c.openRun e w
              else c.onCirc (fun x => { x with waits := x.waits ++ [w] })
  | none => c.onCirc (fun x => { x with waits := x.waits ++ [w] })

/-- The waiting run requests are tried again in their order. -/
def Chip.retryRuns (c : Chip) : Chip :=
  let ws := c.circ.waits
  (c.onCirc (fun x => { x with waits := [] })).each ws Chip.tryRun

/-- A push run is requested at a site (R151, R189); one of a tenant in FROGGED is discarded (R462). A refusal for a lost skein is counted (R56). -/
def Chip.requestRun (c : Chip) (w : RunWait) : Chip :=
  let st := { w.opening with opcode := opRUN_OPEN, cls := 0 }
  let status := c.entryCheck w.site st
  if c.rd (R.PART_STATE_STATE w.opening.tenant) = 3 then c
  else if status ≠ stOK then (if status = stNO_PATH then c.count R.OPF_NO_PATH_COUNT_COUNT else c).refuseRun w status
  else if (c.runCircuits w.site st).isEmpty ∧ c.rd R.CIRC_CFG_RUN_WAIT = 0 then c.refuseRun w stNO_PATH
  else c.tryRun w

/-! The ends of runs. -/

/-- The source of a run has its answer (R192): the request behind it is answered, and the run is gone, but one whose groups an edge site still
takes is sent to its end (R222). -/
def Chip.runAnswered (c : Chip) (site node tenant seq status : Nat) : Chip :=
  match c.circ.src.find? (fun r => !(decide (112 ≤ r.e) && decide (r.e < 144)) && r.site == site && r.opening.dstNode == node && r.opening.tenant == tenant && r.opening.seq == seq && !r.answered) with
  | none => c
  | some r =>
    let c := c.answerPull r.pull status
    let carried := c.circ.dst.any (fun d => d.e == r.e && d.runNo == r.runNo && d.relay)
    let c := match r.relayOf with
      | some (s, e, n) => c.onCirc (fun x => { x with dst := x.dst.filter (fun d => !(d.site == s && d.e == e && d.runNo == n)) })
      | none => c
    if carried ∧ (r.todo.isEmpty = false ∨ r.sent.isEmpty = false) then c.setSrcRun r { r with answered := true, pull := none }
    else (c.dropSrcRun r).retryRuns

/-- A number that no circuit, port or run that left its circuit has: 144 and above (R189, R222). -/
def Chip.offCircuit (c : Chip) : Nat := ((c.circ.src.map (·.e)) ++ (c.circ.dst.map (·.e))).foldl max 143 + 1

/-- Run `runNo` leaves circuit `e`, which ends or points elsewhere, while its answer, or its continuation on a port, is under way: nothing more of it travels on the circuit (R184, R192). -/
def Chip.detachRun (c : Chip) (e runNo : Nat) : Chip :=
  let n := c.offCircuit
  let mine := fun (r : SrcRun) => r.e == e && r.runNo == runNo
  let open_ := (c.circ.src.filter mine).length
  let c := c.onCirc (fun x => { x with
    src := x.src.map (fun r => if mine r then { r with e := n, todo := [], sent := [], landed := true }
      else if r.relayOf = some (r.site, e, runNo) then { r with relayOf := some (r.site, n, runNo) } else r)
    waits := x.waits.map (fun w => if w.relayOf = some (w.site, e, runNo) then { w with relayOf := some (w.site, n, runNo) } else w)
    dst := x.dst.map (fun d => if d.e = e ∧ d.runNo = runNo then { d with e := n } else d) })
  if e < 112 then c.drop (R.CIRC_PLANE_OPEN_RUNS e) open_ else c

/-- Whether a group of a run waits at its destination for recalls or for zeroing (R390, R395). -/
def Chip.groupParked (c : Chip) (e n : Nat) : Bool :=
  c.mems.parked.any (fun p => match p.op with
    | .group e' n' _ _ _ => e' == e && n' == n
    | _ => false)

/-- Whether a destination has taken every group of a run. -/
def Chip.runTaken (c : Chip) (d : DstRun) : Bool := d.todo.isEmpty && !c.groupParked d.e d.runNo

/-- A run that has taken its groups is answered at its destination: acknowledged and counted, or refused with the error it met (R192). Its source has the answer to come. -/
def Chip.landRunDone (c : Chip) (d : DstRun) : Chip :=
  let c := (c.dropDstRun d).onCirc (fun x => { x with src := x.src.map (fun r => if r.e = d.e ∧ r.runNo = d.runNo then { r with landed := true } else r) })
  if isErr d.status then c.refuse d.site d.opening d.status
  else
    let c := c.ack d.site d.opening
    if countsAtDest opRUN_OPEN d.opening.cnt then c.landCount d.site d.opening.sync 1 stOK else c

/-- A run at its destination ends without its blocks: answered NO_PATH, counted and recorded (R192, R194); nothing more of it leaves its source. -/
def Chip.cutDst (c : Chip) (r : DstRun) : Chip :=
  ((((c.dropDstRun r).refuse r.site r.opening stNO_PATH).count R.CIRC_COUNTS_CUT).event Ev.runCut (some r.opening.tenant) 0 [r.e, r.runNo]).detachRun r.e r.runNo

/-- A run whose opening never reached its destination ends at its source (R192, R194). -/
def Chip.cutSrc (c : Chip) (r : SrcRun) : Chip :=
  let c := ((c.dropSrcRun r).count R.CIRC_COUNTS_CUT).event Ev.runCut (some r.opening.tenant) 0 [r.e, r.runNo]
  let c := c.answerPull r.pull stNO_PATH
  match c.outstanding r.site r.opening.dstNode r.opening.tenant r.opening.seq with
  | some o => if r.answered then c else ((c.freeOut o).countRefused r.site stNO_PATH).complete o stNO_PATH
  | none => c

/-- The runs that landed whole on a circuit that ends or points elsewhere are answered at their destinations or go on from an edge site, and wait for no more of it (R184, R192, R222). -/
def Chip.settleRuns (c : Chip) (e : Nat) : Chip :=
  let taken := c.circ.dst.filter (fun d => d.e == e && c.runTaken d)
  let c := c.each taken (fun c d => if d.relay then c else c.landRunDone d)
  let gone := ((taken.map (·.runNo)) ++ (((c.srcRuns e).filter (fun r => r.landed || r.answered)).map (·.runNo))).eraseDups
  c.each gone (fun c n => c.detachRun e n)

/-- Every run still open on a circuit that ends is cut, but one that has landed whole (R184, R186, R192, R194). -/
def Chip.cutRuns (c : Chip) (e : Nat) : Chip :=
  let c := if e < 112 then c.settleRuns e else c
  let ds := c.circ.dst.filter (fun d => d.e == e)
  let ss := (c.srcRuns e).filter (fun r => !ds.any (fun d => d.runNo == r.runNo))
  let c := (c.each ds Chip.cutDst).each ss Chip.cutSrc
  c.onCirc (fun x => { x with src := x.src.filter (fun r => r.e != e || !r.answered), early := x.early.filter (fun f =>
    !(e < 112 && f.1.1 == (switchedAt e).1 && f.1.2.1 == (switchedAt e).2)) })

/-- Whether every group of the runs on a circuit has been accepted (R184). -/
def Chip.drained (c : Chip) (e : Nat) : Bool :=
  (c.srcRuns e).all (fun r => r.landed || c.circ.dst.any (fun d => d.e == e && d.runNo == r.runNo)) && (c.circ.dst.filter (fun d => d.e == e)).all c.runTaken

/-- Cycle 2,000 of a row: the circuits that are drained then, the deals of the ports for the coming boundary, and the entries freed by then, which the credit words of the row's markers carry (R184, R222, R235). -/
def Chip.atMarker (c : Chip) : Chip :=
  (c.onCirc (fun x => { x with drainedAt := some ((List.range 112).filter c.drained), dealNext := some c.dealsNow })).onEdge (fun y => { y with freedMark := some y.freed })

/-- Whether a circuit counts as drained for the boundary that comes, or has come: as it stood at cycle 2,000 of the row (R184), or now where the row has not passed that cycle. -/
def Chip.wasDrained (c : Chip) (e : Nat) : Bool :=
  match c.circ.drainedAt with
  | some l => l.contains e
  | none => c.drained e

/-! Applying a pattern. -/

/-- The lanes from plane `e` to a bank that need cold acquisition: the phase store of the receive lane has no entry for the site, or an old one (R119, R185). The lanes of a bank that a
spare takes have none until their next lock. -/
def Chip.coldLanes (c : Chip) (e b : Nat) : List Nat :=
  let x := switchedAt b
  (List.range 24).filter (fun k => match getKey (x.1, x.2, k, (switchedAt e).1) c.lanes.phases with
    | some row => decide (row + 64 * c.rd (R.LANE_CFG2_PHASE_AGE x.1) < c.row)
    | none => true)

/-- Whether a lane of a switched plane is in service but for its circuit: Up or Parked, or held for a substitution of a bank that it no longer reads, with no light-source change under
way and no side of its own that re-acquires (R180, R198). -/
def Chip.laneTurns (c : Chip) (s p k : Nat) : Bool :=
  let st := c.laneState s p k
  st == lsUP || st == lsPARKED || (st == lsHOLD && !c.inFallback && !c.on R.OPF_STATUS_DETECT_HOLD && !c.opf.reacquiring.any (fun x => (c.sideLanes x).contains (s, p, k)))

/-- The lanes of a plane change with its circuit: unacknowledged frames are not resent, and the new receivers take the sequence of the first frame
they accept (R136, R185). -/
def Chip.turnLanes (c : Chip) (e : Nat) (up : Bool) : Chip :=
  let x := switchedAt e
  c.each (List.range 24) (fun c k =>
    let key := (x.1, x.2, k)
    let t := c.linkTx key
    let c := (c.setTx key { t with replay := [], resend := 0, waited := 0 }).setRx key { expect := t.nextSeq, accepted := true }
    if c.laneTurns x.1 x.2 k then c.setLane x.1 x.2 k (if up then lsUP else lsPARKED) else c)

/-- Plane `e` points at a bank from this boundary (R180, R182, R185). Of its lanes, those in service lock to the new source (R119). -/
def Chip.pointPlane (c : Chip) (e b t : Nat) : Chip :=
  let cold := c.coldLanes e b
  let c := ((((c.wr (R.CIRC_PLANE_STATE e) 1).wr (R.CIRC_PLANE_DST_BANK e) b).wr (R.CIRC_PLANE_TENANT e) t).wr (R.CIRC_PLANE_RUN_NO e) 0).wr
    (R.CIRC_PLANE_OPEN_RUNS e) 0
  let c := (c.onCirc (fun y => { y with start := delKey e y.start, fresh := y.fresh.filter (fun f => f.1 != e) ++ [(e, c.row, cold)] })).turnLanes e true
  c.each ((c.sideLanes ⟨(switchedAt e).1, (switchedAt e).2, false⟩).filter (fun l => c.laneState l.1 l.2.1 l.2.2 == lsUP)) Chip.phaseLocked

/-- Plane `e` is parked from this boundary (R180, R182). -/
def Chip.parkPlane (c : Chip) (e : Nat) : Chip :=
  let c := (((c.wr (R.CIRC_PLANE_STATE e) 0).wr (R.CIRC_PLANE_DST_BANK e) 0).wr (R.CIRC_PLANE_TENANT e) 0).wr (R.CIRC_PLANE_OPEN_RUNS e) 0
  c.turnLanes e false

/-- A pattern applies to every plane allotted to its tenant that is not dark (R181, R182). The runs on its changing circuits have landed; after a forced change those that have not are
cut (R184). -/
def Chip.applyPattern (c : Chip) (t p : Nat) (ready : Bool) : Chip :=
  let mine := (List.range 112).filter (fun e => c.allotted e t && decide (c.rd (R.CIRC_PLANE_STATE e) < 2))
  let c := c.each (c.changed t p) (fun c e => (if ready then c.settleRuns e else c.cutRuns e).parkPlane e)
  c.each mine (fun c e => match c.pointed p e with
    | some b => if c.standing e ∧ c.rd (R.CIRC_PLANE_DST_BANK e) = b then c else c.pointPlane e b t
    | none => c)

/-- The pattern that an applied one chains to is armed, or refused with a record (R183). -/
def Chip.chain (c : Chip) (a : ArmedPattern) : Chip :=
  if c.on (R.CIRC_PAT_HDR_CHAIN a.pattern) then
    let n := c.rd (R.CIRC_PAT_HDR_NEXT a.pattern)
    if c.patternValid a.tenant n 2 a.sync then
      c.arm ⟨a.tenant, n, 2, 0, a.sync, (a.value + c.rd (R.CIRC_PAT_HDR_STEP a.pattern)) % 2 ^ 48, none, 0, c.row⟩
    else (c.armResult a.tenant 3 n).event Ev.chainFailed (some a.tenant) 0 [a.pattern, n, c.row]
  else c

/-- A tenant's triggered pattern at its target boundary: applied when its changing circuits have drained, else deferred a row, and forced after
DEFER_MAX deferrals; in fallback, and at the boundary of the return from it, held (R81, R184, R186). -/
def Chip.patternBoundary (c : Chip) (t : Nat) : Chip :=
  match c.armedOf t with
  | none => c
  | some a =>
    match a.target with
    | none => c
    | some row =>
      if c.row < row then c
      else if c.inFallback || c.light.returnedRow == some c.row then (if c.rd (R.CIRC_ARM_RESULT_STATUS t) = 8 then c else c.armResult t 8 a.pattern)
      else
        let ready := (c.changed t a.pattern).all c.wasDrained
        if ready ∨ c.rdPos R.CIRC_CFG_DEFER_MAX ≤ a.deferrals then
          let c := c.onCirc (fun x => { x with armed := x.armed.filter (fun a => a.tenant != t) })
          let c := c.applyPattern t a.pattern ready
          let c := if ready then c.armResult t 2 a.pattern
            else (c.armResult t 6 a.pattern).event Ev.patternForced (some t) 0 [a.pattern, c.row]
          (c.chain a).retryRuns
        else
          let later : ArmedPattern := { a with target := some (c.row + 1), deferrals := a.deferrals + 1 }
          let c := c.onCirc (fun x => { x with armed := updFirst (fun a => a.tenant == t) (fun _ => later) x.armed })
          ((c.armResult t 5 a.pattern).count R.CIRC_COUNTS_DEFERS).event Ev.patternDeferred (some t) 0 [a.pattern, c.row]

/-- Step 3 of a row boundary: the patterns of all tenants (R175, R198). A pattern armed for a row triggers as that row begins (R183). -/
def Chip.patternStep (c : Chip) : Chip := (c.each (List.range 16) Chip.patternBoundary).triggerAll (fun a => a.mode == 1)

/-- A frog of tenant `t`: its runs are discarded without count, its armed pattern is cancelled, its circuits are parked at the next boundary
without drain (R198). Parking is the second function, for that boundary. -/
def Chip.frogRuns (c : Chip) (t : Nat) : Chip :=
  let c := c.each (c.circ.src.filter (fun r => r.opening.tenant == t)) Chip.dropSrcRun
  let c := match c.armedOf t with
    | some a => c.armResult t 7 a.pattern
    | none => c
  c.onCirc (fun x => { x with armed := x.armed.filter (fun a => a.tenant != t), dst := x.dst.filter (fun d => d.opening.tenant != t)
                              waits := x.waits.filter (fun w => w.opening.tenant != t) })
def Chip.frogPark (c : Chip) (t : Nat) : Chip :=
  c.each ((List.range 112).filter (fun e => c.standing e && c.rd (R.CIRC_PLANE_TENANT e) == t)) Chip.parkPlane

/-! Re-dealing. -/

/-- Whether a booked lane is in the first part of row b, before cycle 2,000, in which it still delivers the groups that it has sent (R104, R139, R193). -/
def Chip.laneEmpties (c : Chip) (s p k : Nat) : Bool :=
  decide (c.cyc < 2000) && (c.tns.swatches.any (fun w => w.begun && w.site == s && w.plane == p && w.k == k && w.start == c.row)
    || c.lanes.runs.any (fun r => r.booked && !r.running && r.rows != 0 && r.row == c.row && r.site == s && r.plane == p && r.k == k))

/-- Whether lane `k` has left the deals of circuit or port `e` (R193): it is fenced, or booked for Cal or Test and in or past cycle 2,000 of row b; an incoming lane of a port also when it is not, or no longer, a
reserved lane in service; for an outgoing lane of a port the partner's REDEAL says so (R222). A lane that holds for a substitution or a light-source change has not. -/
def Chip.laneLeft (c : Chip) (e k : Nat) : Bool :=
  if e < 112 then
    let x := switchedAt e
    let st := c.laneState x.1 x.2 k
    decide (24 ≤ k) || st == lsFENCED || st == lsOFF || st == lsCAL || st == lsTEST || (c.laneBooked x.1 x.2 k && !c.laneEmpties x.1 x.2 k)
  else if e < 128 then false
  else !((c.dealLanes e).contains k || (c.reservedLanes (e - 128)).contains k && c.rd (R.EDGE_LANE_STATE_RX_STATE (e - 128) k) == lsHOLD)

/-- The lost groups of a run at its source, and then at its destination, dealt afresh to the remaining lanes of its deal from the lowest (R193).
`first` is the link sequence after the last that the destination accepted on lane `k`. -/
def redealSrc (k first order : Nat) (r : SrcRun) : SrcRun :=
  let rest := r.deal.filter (fun x => x != k)
  if !r.deal.contains k || rest.isEmpty then r
  else
    let lost := ((r.sent.filter (fun x => x.2.1 == k && decide (subMod 16 x.2.2 first < 32768))).map (·.1)) ++ ((r.todo.filter (fun x => x.2.1 == k)).map (·.1))
    let lost := sortNat lost
    let fresh := lost.zipIdx.map (fun (x : Nat × Nat) => (x.1, rest.getD (x.2 % rest.length) 0, order))
    { r with deal := rest, todo := r.todo.filter (fun x => x.2.1 != k) ++ fresh, sent := r.sent.filter (fun x => x.2.1 != k)
             startLane := if r.startLane = k then rest.headD 0 else r.startLane }
def redealDst (k order : Nat) (rest : List Nat) (r : DstRun) : DstRun :=
  let lost := sortNat ((r.todo.filter (fun x => x.2.1 == k)).map (·.1))
  let fresh := lost.zipIdx.map (fun (x : Nat × Nat) => (x.1, rest.getD (x.2 % max 1 rest.length) 0, order))
  if rest.isEmpty then r else { r with todo := r.todo.filter (fun x => x.2.1 != k) ++ fresh }

/-! Link messages. -/

/-- A link message as a word (R215). -/
def linkMsg (type lane carrier row : Nat) : Nat := type * 2 ^ 60 + lane % 64 * 2 ^ 54 + carrier % 64 * 2 ^ 48 + row % 2 ^ 48

/-- The first row whose marker can carry a message sent now: this row, or the next when cycle 2,000 has passed (R216). -/
def Chip.nextMarker (c : Chip) : Nat := if c.cyc ≤ 2000 then c.row else c.row + 1

/-- The row of the marker that carries the next new message of a port: the next marker's, or the row after that of the last message that waits (R216, R224). -/
def Chip.markerRow (c : Chip) (j : Nat) : Nat := ((c.edge.msgs.filter (fun m => m.1 == j)).map (fun m => m.2.2 + 1)).foldl max c.nextMarker

/-- A port sends a link message, repeated for at most 8 rows (R215). -/
def Chip.sendMsg (c : Chip) (j word : Nat) : Chip := c.onEdge (fun e => { e with msgs := e.msgs ++ [(j, word, c.markerRow j)] })

/-- The link message in the markers of a port's lanes this row (R215): one that is new in this row, else the oldest that is still repeated; 0 for none. -/
def Chip.messageNow (c : Chip) (j : Nat) : Nat :=
  let ms := c.edge.msgs.filter (fun m => m.1 == j && decide (m.2.2 ≤ c.row))
  ((ms.find? (fun m => m.2.2 == c.row) <|> ms.head?).map (·.2.1)).getD 0

/-- Lane `k` leaves the deals of the open runs on `e` (R193): both ends re-deal its lost groups, and the frames the lane holds for them are gone. The receiving
end of a port tells its partner in a REDEAL the last link sequence accepted and the highest run number (R222), at a level that
has this message (R248). -/
def Chip.redeal (c : Chip) (e k : Nat) : Chip :=
  let key := runLane e k
  let first := (c.linkRx key).expect
  let order := (getKey e c.circ.redeals).getD 0 + 1
  let rest := fun (d : DstRun) => match (c.srcRuns e).find? (fun r => r.runNo == d.runNo) with
    | some r => r.deal.filter (fun x => x != k)
    | none => (c.dealLanes e).filter (fun x => x != k)
  let c := c.onCirc (fun x => { x with
    redeals := putKey e order x.redeals
    dst := x.dst.map (fun d => if d.e = e then redealDst k order (rest d) d else d)
    src := x.src.map (fun r => if r.e = e then redealSrc k first order r else r) })
  let c := match (c.srcRuns e).getLast? with
    | some r => (match r.todo.find? (fun (g : Nat × Nat × Nat) => g.1 + 1 == runGroups r.opening && g.2.2 == order) with
      | some g => c.onCirc (fun x => { x with start := putKey e g.2.1 x.start })
      | none => c)
    | none => c
  if e < 128 then c.setTx key { c.linkTx key with replay := (c.linkTx key).replay.filter (fun f => f.ftype != ftRUN), resend := 0 }
  else
    if c.rd (R.ROUTE_PORT_INFO_LEVEL (e - 128)) < 3 then c else
    let high := (getKey e c.circ.portRuns).getD 0 + 255
    c.sendMsg (e - 128) (linkMsg 8 k k ((first + 65535) % 65536 * 2 ^ 32 + high % 256 * 2 ^ 24))

/-! Register writes of this block. -/

/-- CIRC.ALLOT_e: a write that would change it is ignored while the plane or bank stands in a circuit or an armed pattern points or names it (R179). -/
def Chip.allotHook (c : Chip) (e v : Nat) : WriteHook :=
  let changes := bitOf v 31 != c.on (R.CIRC_ALLOT_EN e) || fget v 3 0 != c.rd (R.CIRC_ALLOT_TENANT e)
  let stands := c.standing e || (List.range 112).any (fun f => c.standing f && c.rd (R.CIRC_PLANE_DST_BANK f) == e)
  let named := c.circ.armed.any (fun a => (c.validEntries a.pattern).any (fun x => x.1 == e || x.2 == e))
  ⟨!(changes && (stands || named)), fun c => c.wr R.CIRC_STATUS_ALLOT_REJECT 1, id⟩

/-- CIRC.PAT_HDR_p and CIRC.PAT_p_e: ignored while the pattern is armed (R182). -/
def Chip.patHook (c : Chip) (p : Nat) : WriteHook :=
  ⟨!c.circ.armed.any (fun a => a.pattern == p), fun c => c.wr R.CIRC_STATUS_PAT_REJECT 1, id⟩

/-- The data lanes of port `j` that a write of CIRC.PORT_ASSIGN_j reserves (R196). -/
def assignedLanes (j v : Nat) : Nat := if bitOf v 23 && decide (12 ≤ j) then 36 else min 36 (fget v 29 24)

/-- The data lanes that change hands with an assignment: from stitches to circuits, from circuits to stitches, or from one tenant's circuits to another's (R196). -/
def Chip.lanesHanded (c : Chip) (x : Nat × Nat × Nat) : List Nat :=
  let new := (List.range (min 36 x.2.2)).map (fun i => 36 - min 36 x.2.2 + i)
  let old := c.reservedLanes x.1
  let same := (c.reservedOf x.1).any (fun r => r.1 == x.2.1)
  (List.range 36).filter (fun l => new.contains l != old.contains l || (new.contains l && !same))

/-- A port assignment is in effect from now on (R196): the lanes that changed hands are in service again, and both ends hold the assignment. -/
def Chip.assignDone (c : Chip) (x : Nat × Nat × Nat) : Chip :=
  let j := x.1
  let c := if c.circ.retraining.contains j then
      c.each (c.lanesHanded x) (fun c l =>
        let up := fun (c : Chip) (f : FRef) => if c.rd f = lsTRAIN then c.wr f lsUP else c
        up (up c (R.EDGE_LANE_STATE_RX_STATE j l)) (R.EDGE_LANE_STATE_TX_STATE j l))
    else c
  let c := c.onCirc (fun y => { y with reserved := y.reserved.filter (fun r => r.1 != j) ++ (if x.2.2 = 0 then [] else [x])
                                       assigning := y.assigning.filter (fun r => r.1 != j), retraining := y.retraining.filter (fun i => i != j)
                                       matched := if y.matched.contains j then y.matched else y.matched ++ [j]
                                       portDeal := y.portDeal.filter (fun d => d.1 != 112 + j && d.1 != 128 + j) })
  (c.wr (R.CIRC_PORT_ASSIGN_STATUS j) 2).event Ev.portAssigned (some x.2.1) (Unit.port j) [x.2.1, x.2.2, c.row]

/-- Whether a run uses the lanes of a port that change hands (R196). -/
def Chip.portRunsOpen (c : Chip) (x : Nat × Nat × Nat) : Bool :=
  let mine := c.lanesHanded x
  c.circ.src.any (fun r => r.e == 112 + x.1 && r.deal.any mine.contains) || c.circ.dst.any (fun r => r.e == 128 + x.1 && r.todo.any (fun g => mine.contains g.2.1))

/-- The receiver of a port lane has seen what training asks for (R196, R214). -/
def Chip.portLaneTrained (c : Chip) (j l : Nat) : Bool := let r := c.linkRx (24 + j, 0, l)
  decide (2 ≤ r.goodMarkers) && decide (64 ≤ r.goodTrain)

/-- An agreed assignment goes on (R196): while no run uses the lanes that change hands they retrain, and only they; once all that are in service have trained it is in effect. One by which no lane
changes hands is in effect at once. -/
def Chip.assignOn (c : Chip) (x : Nat × Nat × Nat) : Chip :=
  let j := x.1
  let live := (c.lanesHanded x).filter (fun l => c.rd (R.EDGE_LANE_STATE_RX_STATE j l) != lsFENCED && c.rd (R.EDGE_LANE_STATE_RX_STATE j l) != lsOFF)
  if c.portRunsOpen x then c
  else if live.isEmpty then c.assignDone x
  else if c.circ.retraining.contains j then (if live.all (c.portLaneTrained j) then c.assignDone x else c)
  else
    let c := c.each (c.lanesHanded x) (fun c l =>
      let train := fun (c : Chip) (f : FRef) => if c.rd f = lsUP then c.wr f lsTRAIN else c
      (train (train c (R.EDGE_LANE_STATE_RX_STATE j l)) (R.EDGE_LANE_STATE_TX_STATE j l)).setRx (24 + j, 0, l) { c.linkRx (24 + j, 0, l) with goodMarkers := 0, goodTrain := 0 })
    c.onCirc (fun y => { y with retraining := y.retraining ++ [j] })

/-- Pending assignments go on (R196). -/
def Chip.assignStep (c : Chip) : Chip := c.each c.circ.assigning Chip.assignOn

/-- CIRC.PORT_ASSIGN_j.GO: refused with the port down or the partner not agreeing, else pending until no run uses the lanes (R196). EXPRESS reads 0 on
ports 0 to 11, and RES_LANES above 36 acts as 36. -/
def assignHook (j v : Nat) (agreed : Bool) : WriteHook :=
  .does (fun c =>
    let c := if j < 12 then c.wr (R.CIRC_PORT_ASSIGN_EXPRESS j) 0 else c
    if bitOf v 31 then
      if c.portUp j = false then c.wr (R.CIRC_PORT_ASSIGN_STATUS j) 3
      else if agreed = false then c.wr (R.CIRC_PORT_ASSIGN_STATUS j) 4
      else
        let c := (c.wr (R.CIRC_PORT_ASSIGN_STATUS j) 1).onCirc (fun y =>
          { y with assigning := y.assigning.filter (fun r => r.1 != j) ++ [(j, fget v 19 16, assignedLanes j v)] })
        c.assignStep
    else c)

/-! The commands. -/

/-- ARM_GO: a write of CIRC.ARM_t with GO (R183). -/
def execArmGo (req : Requester) (t : Fin 16) (v : BitVec 32) (s : State) : Result :=
  .next (s.onChip (fun c => c.writeReg req (R.CIRC_ARM t.val) v.toNat (armHook t.val v.toNat)))

/-- ARM_CANCEL: a write of CIRC.ARM_t with CANCEL (R183). -/
def execArmCancel (req : Requester) (t : Fin 16) (v : BitVec 32) (s : State) : Result :=
  .next (s.onChip (fun c => c.writeReg req (R.CIRC_ARM t.val) v.toNat (armHook t.val v.toNat)))

/-- PATTERN_TRIGGER (R183): the armed pattern of a tenant triggers where its condition holds. -/
def execPatternTrigger (t : Fin 16) (s : State) : Result :=
  .next (s.onChip (fun c => match c.armedOf t.val with
    | some a => if c.triggerHolds a then c.trigger183 t.val else c
    | none => c))

/-- PATTERN_APPLY (R184): the target boundary of a tenant's triggered pattern. Patterns apply at row boundaries alone (R176): in mid-row nothing happens. -/
def execPatternApply (t : Fin 16) (s : State) : Result := .next (s.onChip (fun c => if c.cyc = 0 then c.patternBoundary t.val else c))

/-- ALLOT_WRITE (R179). -/
def execAllotWrite (req : Requester) (e : Fin 112) (v : BitVec 32) (s : State) : Result :=
  .next (s.onChip (fun c => c.writeReg req (R.CIRC_ALLOT e.val) v.toNat (c.allotHook e.val v.toNat)))

/-- PAT_WRITE (R182): a write of a pattern's header (no plane given) or of its entry for a plane. -/
def execPatWrite (req : Requester) (p : Fin 64) (e : Option (Fin 112)) (v : BitVec 32) (s : State) : Result :=
  .next (s.onChip (fun c => match e with
    | none => c.writeReg req (R.CIRC_PAT_HDR p.val) v.toNat (c.patHook p.val)
    | some e => c.writeReg req (R.CIRC_PAT p.val e.val) v.toNat (c.patHook p.val)))

/-- RUN_REQUEST (R189): a die asks its adapter to push blocks, from a source address and address mode; TENANT is that of the context that issues it (R150). -/
def execRunRequest (site : Fin 24) (ctx : IssueCtx) (req : Stitch) (src : BitVec 46) (srcLocal : Bool) (s : State) : Result :=
  .next (s.onChip (fun c => match c.ctxTenant site.val ctx with
    | some t => c.requestRun ⟨site.val, { req with tag := 0, tenant := t }, src.toNat, srcLocal, none, none, c.row⟩
    | none => c))

/-- RUN_WAIT_TIMEOUT (R189): the run requests of a site that have waited RUN_WAIT rows without a standing circuit complete NO_PATH. -/
def execRunWaitTimeout (site : Fin 24) (s : State) : Result :=
  .next (s.onChip (fun c =>
    let late := fun (w : RunWait) => w.site == site.val && (c.runCircuits w.site w.opening).isEmpty && decide (w.row + c.rd R.CIRC_CFG_RUN_WAIT ≤ c.row)
    let hit := c.circ.waits.filter late
    (c.onCirc (fun x => { x with waits := x.waits.filter (fun w => !late w) })).each hit (fun c w => c.refuseRun w stNO_PATH)))

/-- Whether a run at its destination has lost every lane of its deal, or its circuit (R194). -/
def Chip.runLost (c : Chip) (d : DstRun) : Bool := !d.todo.isEmpty && d.todo.all (fun x => c.laneLeft d.e x.2.1)
  && (match (c.srcRuns d.e).find? (fun r => r.runNo == d.runNo) with
      | some r => r.deal.all (fun k => c.laneLeft d.e k)
      | none => true)

/-- RUN_COMPLETE (R192): a run at its destination is answered: every block landed, an error met, or no lane left. -/
def execRunComplete (site : Fin 24) (e : Fin 144) (runNo : Fin 256) (s : State) : Result :=
  .next (s.onChip (fun c =>
    match c.circ.dst.find? (fun d => d.site == site.val && d.e == e.val && d.runNo == runNo.val && !d.relay) with
    | some d =>
      if c.runTaken d then c.landRunDone d else if c.runLost d then c.cutDst d else c
    | none =>
      match (c.srcRuns e.val).find? (fun r => r.site == site.val && r.runNo == runNo.val && !r.answered && !r.landed) with
      | some r => if e.val < 112 ∧ r.deal.all (fun k => c.laneLeft e.val k)
          ∧ c.circ.dst.any (fun d => d.e == e.val && d.runNo == runNo.val) = false then c.cutSrc r else c
      | none => c))

/-- REDEAL (R193): lane `k` has left the deals of circuit `e`, or of a port where `e` is 112 plus the port or 128 plus it for the incoming side. -/
def execRedeal (e : Fin 144) (k : Fin 40) (s : State) : Result :=
  .next (s.onChip (fun c => if c.laneLeft e.val k.val then c.redeal e.val k.val else c))

/-- PORT_ASSIGN_GO (R196): a write of CIRC.PORT_ASSIGN_j; `agreed` is what the partner answers on lane 39. -/
def execPortAssignGo (req : Requester) (j : Fin 16) (v : BitVec 32) (agreed : Bool) (s : State) : Result :=
  .next (s.onChip (fun c => c.writeReg req (R.CIRC_PORT_ASSIGN j.val) v.toNat (assignHook j.val v.toNat agreed)))

end Sys2Proof.Machine
end

