-- ==== Sys2Proof/Machine/Shift.lean ====
section
/-! DEFINITION. A step of T (R299): the times that the package has noted for its own measures and bookings move with the clock that they were read from, so that a duration or a coming row boundary is
not changed by the step. What names a row of the system time by its number, as a frog's row or that of a pattern armed for a row, stays. -/

namespace Sys2Proof.Machine

/-- A noted row, cycle time and time in nanoseconds, moved by `d` rows. -/
def rowBy (d : Int) (r : Nat) : Nat := ((r : Int) + d).toNat
def cycleBy (d : Int) (t : Nat) : Nat := rowBy (2048 * d) t
def nanoBy (d : Int) (t : Nat) : Nat := rowBy (1024 * d) t

/-- The times of a table, moved. -/
def valuesBy {α : Type} (f : Nat → Nat) (l : List (α × Nat)) : List (α × Nat) := l.map (fun x => (x.1, f x.2))

def Opf.shift (d : Int) (o : Opf) : Opf :=
  let b := fun (b : Booking) => { b with located := rowBy d b.located, row := rowBy d b.row }
  { o with booked := o.booked.map b, guessed := o.guessed.map b, fences := o.fences.map (fun f => { f with row := rowBy d f.row })
           substReqs := o.substReqs.map (fun r => { r with row := rowBy d r.row }) }

def Light.shift (d : Int) (l : Light) : Light :=
  { l with
    changeAt := l.changeAt.map (cycleBy d), changeBefore := l.changeBefore.map (cycleBy d), tookOver := l.tookOver.map (cycleBy d), entered := l.entered.map (cycleBy d)
    swapRow := l.swapRow.map (rowBy d), returnedRow := l.returnedRow.map (rowBy d), returning := l.returning.map (fun x => (x.1, rowBy d x.2.1, x.2.2)), locked := valuesBy (rowBy d) l.locked
    restartAt := valuesBy (nanoBy d) l.restartAt }

def Tension.shift (d : Int) (t : Tension) : Tension :=
  { t with swatches := t.swatches.map (fun w => { w with start := rowBy d w.start }), calibs := t.calibs.map (fun k => { k with row := rowBy d k.row })
           searches := valuesBy (rowBy d) t.searches, outside := valuesBy (rowBy d) t.outside }

def Lanes.shift (d : Int) (y : Lanes) : Lanes :=
  { y with tx := y.tx.map (fun x => (x.1, { x.2 with window := x.2.window.map (rowBy d), suppressRow := x.2.suppressRow.map (rowBy d) }))
           runs := y.runs.map (fun r => { r with row := rowBy d r.row }), fencedAt := valuesBy (cycleBy d) y.fencedAt
           trainRow := valuesBy (rowBy d) y.trainRow, phases := valuesBy (rowBy d) y.phases }

def Xport.shift (d : Int) (x : Xport) : Xport :=
  { x with out := x.out.map (fun e => { e with row := rowBy d e.row }), acks := x.acks.map (fun a => { a with since := cycleBy d a.since })
           nacks := x.nacks.map (fun a => { a with since := cycleBy d a.since }), slots := x.slots.map (fun z => { z with row := rowBy d z.row })
           refusals := x.refusals.map (fun z => { z with row := rowBy d z.row }), freedAt := valuesBy (cycleBy d) x.freedAt, arrivedAt := valuesBy (cycleBy d) x.arrivedAt
           merging := x.merging.map (fun l => { l with since := cycleBy d l.since }), landings := x.landings.map (fun l => { l with since := cycleBy d l.since }) }

def Circuits.shift (d : Int) (x : Circuits) : Circuits :=
  { x with armed := x.armed.map (fun a => { a with target := a.target.map (rowBy d), since := rowBy d a.since })
           waits := x.waits.map (fun w => { w with row := rowBy d w.row }), fresh := x.fresh.map (fun f => (f.1, rowBy d f.2.1, f.2.2)) }

def PoolEntry.shift (d : Int) (x : PoolEntry) : PoolEntry := { x with since := x.since.map (cycleBy d), row := rowBy d x.row }

def Edge.shift (d : Int) (e : Edge) : Edge :=
  { e with
    pools := e.pools.map (PoolEntry.shift d), detour := e.detour.map (PoolEntry.shift d), portQ := e.portQ.map (fun x => (x.1, x.2.shift d))
    relay := e.relay.map (fun x => (x.1, x.2.1, x.2.2.shift d)), lightLost := valuesBy (cycleBy d) e.lightLost, lightBack := valuesBy (cycleBy d) e.lightBack
    downs := valuesBy (rowBy d) e.downs, training := valuesBy (cycleBy d) e.training, waiting := valuesBy (rowBy d) e.waiting
    msgs := e.msgs.map (fun m => (m.1, m.2.1, rowBy d m.2.2)), moves := e.moves.map (fun m => { m with row := rowBy d m.row })
    departing := e.departing.map (fun x => { x with darkRow := rowBy d x.darkRow }), runs := e.runs.map (fun r => { r with row := rowBy d r.row })
    misaligned := e.misaligned.map (fun x => (x.1, rowBy d x.2.1, x.2.2)) }

def Combining.shift (d : Int) (x : Combining) : Combining :=
  { x with partials := x.partials.map (fun p => { p with row := rowBy d p.row }), slots := x.slots.map (fun z => { z with row := rowBy d z.row }) }

def SyncStore.shift (d : Int) (x : SyncStore) : SyncStore :=
  { x with waits := x.waits.map (fun w => { w with row := rowBy d w.row }), resets := x.resets.map (fun r => { r with row := rowBy d r.row })
           partResets := valuesBy (rowBy d) x.partResets }

def TimeSvc.shift (d : Int) (x : TimeSvc) : TimeSvc :=
  { x with barred := valuesBy (rowBy d) x.barred, heldSince := nanoBy d x.heldSince, sentRow := valuesBy (rowBy d) x.sentRow }

def MemSites.shift (d : Int) (m : MemSites) : MemSites :=
  { m with parked := m.parked.map (fun p => { p with since := cycleBy d p.since }), recalls := m.recalls.map (fun r => { r with since := cycleBy d r.since }) }

def Clocks.shift (d : Int) (x : Clocks) : Clocks :=
  let l := fun (r : Relock) => { r with row := rowBy d r.row }
  { x with announced := x.announced.map (fun f => { f with row := rowBy d f.row, settled := nanoBy d f.settled }), running := x.running.map (fun f => { f with row := rowBy d f.row })
           resets := x.resets.map l, waking := x.waking.map l }

def Power.shift (d : Int) (x : Power) : Power := { x with targetUntil := nanoBy d x.targetUntil, releaseRow := rowBy d x.releaseRow, brakeAt := nanoBy d x.brakeAt }

def Thermal.shift (d : Int) (x : Thermal) : Thermal :=
  let t := fun (o : Option Nat) => o.map (nanoBy d)
  { x with zones := x.zones.map (fun z => (z.1, { z.2 with samples := z.2.samples.map (fun y => (nanoBy d y.1, y.2)), cool := t z.2.cool, clear := t z.2.clear, calm := t z.2.calm }))
           stepped := valuesBy (nanoBy d) x.stepped }

def Security.shift (d : Int) (x : Security) : Security :=
  { x with nonceUntil := x.nonceUntil.map (nanoBy d), fails := x.fails.map (nanoBy d), lockedUntil := x.lockedUntil.map (nanoBy d), ends := valuesBy (nanoBy d) x.ends
           portsAt := nanoBy d x.portsAt }

def Pins.shift (d : Int) (p : Pins) : Pins :=
  { p with present := valuesBy (nanoBy d) p.present, slotOn := valuesBy (nanoBy d) p.slotOn, clockOn := valuesBy (nanoBy d) p.clockOn }

/-- The row counter and T step by `d` rows (R299), and the noted times with them. -/
def Chip.shift (c : Chip) (d : Int) : Chip :=
  { c with
    row := (((c.row : Int) + d) % ((2 ^ 48 : Nat) : Int)).toNat
    epoch := (((c.epoch : Int) + ((c.row : Int) + d) / ((2 ^ 48 : Nat) : Int)) % 64).toNat
    acc := { c.acc with held := c.acc.held.map (fun h => { h with row := rowBy d h.row }), emuWait := c.acc.emuWait.map (fun e => { e with time := cycleBy d e.time }) }
    opf := c.opf.shift d, light := c.light.shift d, tns := c.tns.shift d, lanes := c.lanes.shift d, xport := c.xport.shift d, circ := c.circ.shift d, edge := c.edge.shift d
    red := c.red.shift d, sync := c.sync.shift d, time := c.time.shift d, mems := c.mems.shift d, clk := c.clk.shift d, pwr := c.pwr.shift d, thm := c.thm.shift d, sec := c.sec.shift d
    pins := c.pins.shift d
    evr := { c.evr with frozen := c.evr.frozen.map (nanoBy d) }
    cmd := { c.cmd with binding := c.cmd.binding.map (fun b => { b with since := nanoBy d b.since }) }
    part := { c.part with draining := valuesBy (rowBy d) c.part.draining }
    pcu := { c.pcu with lostRow := rowBy d c.pcu.lostRow, lostAt := cycleBy d c.pcu.lostAt, leaseUntil := cycleBy d c.pcu.leaseUntil } }

end Sys2Proof.Machine
end

