-- ==== Sys2Proof/Machine/Time.lean ====
section
/-! DEFINITION. The time service: the exchange of times with neighbours, the choice of a parent or source, holdover (R294 to R300). -/

namespace Sys2Proof.Machine

/-- The states of TIME.STATUS (R299). -/
def tsFREE : Nat := 0
def tsSOURCE : Nat := 1
def tsACQUIRING : Nat := 2
def tsALIGNED : Nat := 3
def tsHOLDOVER : Nat := 4

/-- A quotient rounded to the nearest integer, a half upwards (log entry 12). -/
def roundQuot (a : Int) (b : Nat) : Int := (2 * a + (b : Int)) / (2 * (b : Int))

/-- The state of the time service changes, and the change is recorded. -/
def Chip.setTimeState (c : Chip) (st : Nat) : Chip :=
  let old := c.rd R.TIME_STATUS_STATE
  if old = st then c else (c.wr R.TIME_STATUS_STATE st).event Ev.timeState none 0 [old, st, c.row]

/-- A domain conflict is shown and recorded (R299). -/
def Chip.timeConflict (c : Chip) (j : Nat) : Chip := (c.wr R.TIME_STATUS_CONFLICT 1).event Ev.domainConflict none (Unit.port j) [j]

/-- What port `j`'s partner last said. -/
def Chip.timeEnd (c : Chip) (j : Nat) : Option TimeEnd := c.time.ends.find? (fun e => e.port == j)

/-- Whether a port may be the time parent: Up, its partner advertises a system time, the asymmetries agree, not barred (R297, R299, R300). -/
def Chip.timeEligible (c : Chip) (e : TimeEnd) : Bool :=
  c.portUp e.port && (e.state == tsSOURCE || e.state == tsALIGNED || e.state == tsHOLDOVER) && e.agree
    && !(c.time.barred.any (fun b => b.1 == e.port && decide (c.row < b.2)))

/-- The key by which a parent is chosen (R299). -/
def TimeEnd.key (e : TimeEnd) : Nat :=
  (((b2n (e.state == tsHOLDOVER) * 256 + e.priority) * 4096 + e.source) * 128 + e.hops) * 16 + e.port

/-- The end with the smallest key. -/
def bestEnd : List TimeEnd → Option TimeEnd
  | [] => none
  | e :: l => match bestEnd l with
    | none => some e
    | some f => if e.key ≤ f.key then some e else some f

/-- The port that a package takes as its time parent. -/
def Chip.timeBest (c : Chip) : Option TimeEnd := bestEnd (c.time.ends.filter c.timeEligible)

/-- The hops and source of the package follow those of its parent. -/
def Chip.followEnd (c : Chip) (e : TimeEnd) : Chip :=
  (((c.wr R.TIME_STATUS_PARENT e.port).wr R.TIME_STATUS_HOPS (min 0x7F (e.hops + 1))).wr R.TIME_SOURCE_NODE e.source).wr R.TIME_SOURCE_PRIORITY e.priority

/-- A port becomes the time parent, without a step. -/
def Chip.takeParent (c : Chip) (e : TimeEnd) : Chip :=
  ((c.followEnd e).setTimeState tsACQUIRING).wr R.TIME_OFFSET_THETA (ofSigned 32 e.theta) |>.onTime (fun x => { x with good := 0 })

/-- The package becomes source of its own time (R299 steps 2 and 5). -/
def Chip.becomeSource (c : Chip) : Chip :=
  let c := ((c.wr R.TIME_STATUS_PARENT 0x1F).wr R.TIME_STATUS_HOPS 0).wr R.TIME_SOURCE_NODE c.node
  (c.wr R.TIME_SOURCE_PRIORITY (c.rd R.TIME_CFG_PRIORITY)).setTimeState tsSOURCE

/-- The package has no system time. -/
def Chip.becomeFree (c : Chip) : Chip :=
  let c := ((c.wr R.TIME_STATUS_PARENT 0x1F).wr R.TIME_STATUS_HOPS 0x7F).wr R.TIME_SOURCE_NODE 0
  (c.wr R.TIME_SOURCE_PRIORITY 0xFF).setTimeState tsFREE

/-- The step to a parent's time, taken at the next boundary as whole rows (R299 steps 1 and 3). -/
def Chip.stepTo (c : Chip) (e : TimeEnd) : Chip := c.onTime (fun x => { x with step := some (-(roundQuot e.theta 16384)) })

/-- A parent is lost: the next best port without a step, or holdover (R299 step 4). -/
def Chip.parentLost (c : Chip) : Chip :=
  match c.timeBest with
  | some e => c.takeParent e
  | none => ((c.wr R.TIME_STATUS_PARENT 0x1F).setTimeState tsHOLDOVER).onTime (fun x => { x with heldSince := c.now })

/-- Whether the package takes its time from port `j`. -/
def Chip.isParent (c : Chip) (j : Nat) : Bool :=
  (c.rd R.TIME_STATUS_STATE == tsACQUIRING || c.rd R.TIME_STATUS_STATE == tsALIGNED) && c.rd R.TIME_STATUS_PARENT == j

/-- A port has gone down: what its partner said is forgotten (R299 step 4). -/
def Chip.timePortDown (c : Chip) (j : Nat) : Chip :=
  let was := c.isParent j
  let c := c.onTime (fun x => { x with ends := x.ends.filter (fun e => e.port != j) })
  if was then c.parentLost else c

/-- A mismatch of the time in a marker (R123, R206, R300): counted and recorded; on-package reported, as an error of the time service, the record naming the lane (DEDUCED, log entry 173); the parent port is barred for 1,024 rows. -/
def Chip.timeMismatch (c : Chip) (unit : Nat) (port : Option Nat) (late : Int) : Chip :=
  let c := (c.count R.TIME_MISMATCH_COUNT).event Ev.timeMismatch none unit [0, ofSigned 32 late]
  match port with
  | none => c.report (Unit.netStop 26) [] 0 0 0 actReported
  | some j =>
    if c.isParent j then (c.onTime (fun x => { x with barred := putKey j (c.row + 1024) x.barred })).parentLost else c

/-- The time chosen at cast-on step 11 (R299 steps 1 and 2). -/
def Chip.timeCastOn (c : Chip) : Chip :=
  match c.timeBest with
  | some e => (c.takeParent e).stepTo e
  | none => if c.rd R.TIME_CFG_PRIORITY < 0xFF then c.becomeSource else c

/-- A step of T that waits takes effect at a row boundary (R299); what is held for a boundary is held for the same one (R20). -/
def Chip.timeStepNow (c : Chip) : Chip :=
  match c.time.step with
  | none => c
  | some d =>
    let was := c.row
    let c := ((c.shift d).onTime (fun x => { x with step := none })).wr R.TIME_STATUS_STEPPED 1
    c.event Ev.timeStep none 0 [was, c.row]

/-- EXCH_ROWS as it acts (TIME.CFG). -/
def Chip.exchRows (c : Chip) : Nat := max 4 (c.rd R.TIME_CFG_EXCH_ROWS)

/-- The offset to a parent steers the fabric clock (R295, R297): θ in 1/16 ns; STEER in 0.001 ppm, the proportional part within 40 ppm, the sum within 250 ppm. -/
def Chip.steer (c : Chip) (theta : Int) : Chip :=
  let n := 1024 * c.exchRows
  let prop := roundQuot (theta * 1000000000) (128 * n)
  let prop := max (-40000) (min 40000 prop)
  let old := c.time.integral
  let c := c.wr R.TIME_FREQ_STEER (ofSigned 32 (max (-250000) (min 250000 (old + prop))))
  c.onTime (fun x => { x with integral := max (-250000) (min 250000 (old + roundQuot (theta * 1000000000) (4096 * n))) })

/-- An update from the parent (R297, R299): offset, steer, acquiring or aligned. -/
def Chip.parentUpdate (c : Chip) (e : TimeEnd) : Chip :=
  let within := decide (e.theta.natAbs ≤ 32)
  let good := if within then c.time.good + 1 else 0
  let c := ((c.wr R.TIME_OFFSET_THETA (ofSigned 32 e.theta)).steer e.theta).onTime (fun x => { x with good := min 4 good })
  let c := c.followEnd e
  if within then (if 4 ≤ good then c.setTimeState tsALIGNED else c) else c.setTimeState tsACQUIRING

/-- A source is better than another by priority, then node (R299). -/
def betterSource (p n p' n' : Nat) : Bool := decide (p * 4096 + n < p' * 4096 + n')

/-- The package reacts to what a neighbour advertises (R299 steps 3 to 6). `ready` is PKG_READY. -/
def Chip.timeReact (c : Chip) (e : TimeEnd) (ready : Bool) : Chip :=
  let st := c.rd R.TIME_STATUS_STATE
  if c.isParent e.port then (if c.timeEligible e then c.parentUpdate e else c.parentLost)
  else if ready = false ∨ c.timeEligible e = false then c
  else if st = tsFREE then
    (if e.state = tsHOLDOVER then c
     else if c.on R.TIME_CFG_LATE_STEP ∧ ((List.range 15).all (fun t => !c.tenantOn (t + 1))) then (let b := c.timeBest.getD e
                                                                                                   (c.takeParent b).stepTo b)
     else c.timeConflict e.port)
  else if st = tsHOLDOVER then c.takeParent e
  else if betterSource e.priority e.source (c.rd R.TIME_SOURCE_PRIORITY) (c.rd R.TIME_SOURCE_NODE) then
    (if e.theta.natAbs ≤ 16000 then c.takeParent e else c.timeConflict e.port)
  else c

/-- A TIME_EXCH of the partner of port `j` (R296, R297). `t2` and `t3` are the package's own captures in 1/16 ns: of the partner's reference point, and of its own
that the partner reports. -/
def Chip.timeExch (c : Chip) (j : Nat) (st : Stitch) (t2 t3 : Nat) (ready : Bool) : Chip :=
  if c.portUp j = false then c
  else
    let d := padTo 64 st.data
    let path : Int := (t2 : Int) - (leField d 8 8 : Nat)
    let back : Int := (leField d 24 8 : Nat) - (t3 : Int)
    let asym := toSigned 16 (c.rd (R.TIME_ASYM_PS j))
    let theta := roundQuot ((path - back) * 1000 + asym * 16) 2000
    let agree := decide ((asym + toSigned 16 (leField d 40 2)).natAbs ≤ 100)
    let e : TimeEnd := ⟨j, leField d 3 1, leField d 4 1, leField d 5 1 % 128, leField d 6 2 % 4096, agree, theta⟩
    let c := c.wr (R.TIME_LINK_DELAY_DELAY j) (ofSigned 32 ((path + back) / 2))
    let c := c.onTime (fun x => { x with ends := x.ends.filter (fun y => y.port != j) ++ [e] })
    let c := if agree then c.onTime (fun x => { x with counted := x.counted.filter (fun y => y != j) })
      else if c.time.counted.contains j then c
      else ((c.count R.TIME_MISMATCH_COUNT).event Ev.timeMismatch none (Unit.port j) [j]).onTime (fun x => { x with counted := x.counted ++ [j] })
    c.timeReact e ready

/-- The DATA of a TIME_EXCH (R296). -/
def Chip.timeExchData (c : Chip) (j ttx rs trx rp : Nat) : List Nat :=
  leBytes 2 c.node ++ [j, c.rd R.TIME_STATUS_STATE, c.rd R.TIME_SOURCE_PRIORITY, c.rd R.TIME_STATUS_HOPS] ++ leBytes 2 (c.rd R.TIME_SOURCE_NODE)
    ++ leBytes 8 ttx ++ leBytes 6 rs ++ [0, 0] ++ leBytes 8 trx ++ leBytes 6 rp ++ [0, 0] ++ leBytes 2 (c.rd (R.TIME_ASYM_PS j))

/-- What fixes the order of an event after the fact (R301): the package that recorded it, T, whether its time state was source or aligned, and the source and sequence of the stitch it is of. -/
structure Stamp where
  node : Nat
  t : Nat
  aligned : Bool
  srcNode : Nat
  srcSite : Nat
  seq : Nat
  deriving DecidableEq, Repr

/-- Whether timestamps show that one event came before another: 1 ns apart at one package, more than 20 ns apart at two that are aligned (R301). -/
def Stamp.surelyBefore (a b : Stamp) : Bool := if a.node = b.node then decide (a.t + 1 ≤ b.t) else a.aligned && b.aligned && decide (a.t + 20 < b.t)

/-- The order that every reader gives to events that timestamps leave open (R301). -/
def Stamp.sortsBefore (a b : Stamp) : Bool :=
  let key := fun (x : Stamp) => ((x.t * 4096 + x.srcNode % 4096) * 32 + x.srcSite % 32) * 65536 + x.seq % 65536
  decide (key a ≤ key b)

/-- HOLDOVER_TIMEOUT (R299 step 5): after HOLDOVER seconds the package becomes source when its priority is better than that of every source its neighbours
advertise, else it is free-run. -/
def execHoldoverTimeout (s : State) : Result :=
  .next (s.onChip (fun c =>
    if c.rd R.TIME_STATUS_STATE = tsHOLDOVER ∧ c.time.heldSince + c.rd R.TIME_CFG_HOLDOVER * 1000000000 ≤ c.now then
      let p := c.rd R.TIME_CFG_PRIORITY
      if p < 0xFF ∧ c.time.ends.all (fun e => e.state == tsFREE || decide (p < e.priority)) then c.becomeSource else c.becomeFree
    else c))

/-- A message of the control network (R291; its ring of flits: log entry 171): a count landing, an ingress credit return, a stitch to or from site 31, a
link-acknowledgement message, or another. -/
def Chip.netLost (c : Chip) (m : NetMessage) : Chip :=
  match m with
  | .landing site obj => c.onXport (fun x => { x with landings := dropFirst (fun l => l.site == site.val && l.obj == obj.val) x.landings })
  | .credits s d pool => c.onXport (fun x => { x with freed := delKey (s.val, d.val, pool.val) x.freed })
  | .stitch site st => c.onXport (fun x => { x with arrived := dropFirst (fun a => (a.site == site.val || a.st.srcSite == site.val) && a.plane == 63 && a.k == 31 && a.st == st) x.arrived })
  | .linkAck lane => c.ackMessageSent (lane.site.val, lane.plane.val, lane.k.val)
  | .other => c

/-- The opcode and tenant that a message carries. -/
def netOp : NetMessage → Nat × Nat × List Nat
  | .stitch _ st => (1, st.opcode, [st.tenant])
  | _ => (0, 0, [])

/-- CONTROL_NET_UNCORR (R293): a message with an uncorrectable flit is discarded whole, counted and reported, naming the stop that found it. -/
def execControlNetUncorr (stop : Fin 27) (m : NetMessage) (s : State) : Result :=
  .next (s.onChip (fun c =>
    let (a, b, t) := netOp m
    let u := Unit.netStop stop.val
    (((c.netLost m).count R.SYN_NET_UNCORR_COUNT).event Ev.netUncorr none u []).report u t a b (if a = 0 then 0 else stTIMEOUT) actReported))

end Sys2Proof.Machine
end

