-- ==== Sys2Proof/Machine/Edge.lean ====
section
/-! DEFINITION. Edge ports: lanes and spares of a port, fences, link messages, a port going down and what follows from it
(R199 to R224, R243 to R246). -/

namespace Sys2Proof.Machine

/-- The state of a port lane's outgoing or incoming side (EDGE.LANE_STATE). -/
def portLaneRef (j l : Nat) (incoming : Bool) : FRef := if incoming then R.EDGE_LANE_STATE_RX_STATE j l else R.EDGE_LANE_STATE_TX_STATE j l
def Chip.portLane (c : Chip) (j l : Nat) (incoming : Bool) : Nat := c.rd (portLaneRef j l incoming)

/-- The results of a pattern run or an injection of a port. -/
def Chip.edgePatResult (c : Chip) (j status : Nat) : Chip := (c.wr (R.EDGE_PAT_RESULT_STATUS j) status).wr (R.EDGE_PAT_RESULT_ROW j) c.row16
def Chip.edgeInjResult (c : Chip) (j status : Nat) : Chip := (c.wr (R.EDGE_INJ_RESULT_STATUS j) status).wr (R.EDGE_INJ_RESULT_ROW j) c.row16

/-- The armed injections of some lanes of a port are cancelled (R140). -/
def Chip.cancelEdgeInjections (c : Chip) (j : Nat) (lane : Nat → Bool) : Chip :=
  if c.edge.inj.any (fun i => i.site == j && lane i.k) then
    (c.onEdge (fun e => { e with inj := e.inj.filter (fun i => !(i.site == j && lane i.k)) })).edgeInjResult j 3
  else c

/-- A port lane takes a state; an outgoing one that leaves Up loses its armed injection (R140). -/
def Chip.setPortLane (c : Chip) (j l : Nat) (incoming : Bool) (v : Nat) : Chip :=
  (if v = lsUP ∨ incoming = true then c else c.cancelEdgeInjections j (fun k => k == l)).wr (portLaneRef j l incoming) v

/-- The lane state Standby of an idle spare (R212). -/
def lsSTANDBY : Nat := 9

/-- The physical lane that carries a logical lane. -/
def portOnRef (j l : Nat) (incoming : Bool) : FRef := if incoming then R.EDGE_LANE_STATE_RX_ON j l else R.EDGE_LANE_STATE_TX_ON j l

/-- Carried lane and state of spare 36 + n: 0 free, 1 failure, 2 calibration, 3 fenced (EDGE.SPARE_TX, EDGE.SPARE_RX). -/
def spareReg (j : Nat) (incoming : Bool) : Nat := if incoming then R.EDGE_SPARE_RX j else R.EDGE_SPARE_TX j
def spareLaneRef (j : Nat) (incoming : Bool) (n : Nat) : FRef := ⟨spareReg j incoming, 10 * n + 5, 10 * n⟩
def spareStateRef (j : Nat) (incoming : Bool) (n : Nat) : FRef := ⟨spareReg j incoming, 10 * n + 7, 10 * n + 6⟩

/-- A spare takes a state and a carried lane (0x3F none). -/
def Chip.setSpare (c : Chip) (j : Nat) (incoming : Bool) (n state lane : Nat) : Chip :=
  (c.wr (spareStateRef j incoming n) state).wr (spareLaneRef j incoming n) lane

/-- Whether spare 36 + n of port `j` is under a swatch of its own, booked or running: it is held for calibration (R108, R218). -/
def Chip.spareSwatched (c : Chip) (j n : Nat) : Bool := c.tns.swatches.any (fun w => w.site == 18 + j / 4 && w.plane == 38 + j % 4 && w.k == 36 + n)

/-- Free spares of a direction: state free, no swatch of their own and no agreed move to them (R108, R216). -/
def Chip.freeSpares (c : Chip) (j : Nat) (incoming : Bool) : List Nat :=
  (List.range 3).filter (fun n => c.rd (spareStateRef j incoming n) == 0 && !c.spareSwatched j n
    && !c.edge.moves.any (fun m => m.port == j && m.incoming == incoming && m.carrier == 36 + n && !m.ending))

/-- Whether a data lane is in service in a direction: not fenced, or about to be carried by a spare, and not lane 39's carrier (R213, R218). -/
def Chip.dataInService (c : Chip) (j l : Nat) (incoming : Bool) : Bool :=
  decide (l < 36) && (c.portLane j l incoming != lsFENCED || c.edge.moves.any (fun m => m.port == j && m.incoming == incoming && m.lane == l))
    && !c.edge.ctrlOn.any (fun x => x.1 == j && x.2.1 == incoming && x.2.2 == l)

/-- The data lane that carries lane 39's stream where no spare is free: the lowest in service (R213). -/
def Chip.controlLane (c : Chip) (j : Nat) (incoming : Bool) : Option Nat :=
  (List.range 36).find? (fun d => c.dataInService j d incoming && c.portLane j d incoming == lsUP)

/-- Data lanes in service of a direction (EDGE.STATUS.LANES_IN for the outgoing one). -/
def Chip.lanesIn (c : Chip) (j : Nat) (incoming : Bool) : Nat := ((List.range 36).filter (fun l => c.dataInService j l incoming)).length

/-- EDGE.CFG.MIN_LANES: zero acts as 1, above 36 as 36. -/
def Chip.minLanes (c : Chip) (j : Nat) : Nat := min 36 (c.rdPos (R.EDGE_CFG_MIN_LANES j))

/-! Link messages. -/

/-- The answer to messages of a type for a lane has come: they are not repeated (R215). -/
def Chip.stopMsg (c : Chip) (j type lane : Nat) : Chip :=
  c.onEdge (fun e => { e with msgs := e.msgs.filter (fun m => !(m.1 == j && m.2.1 / 2 ^ 60 == type && m.2.1 / 2 ^ 54 % 64 == lane)) })

/-- Whether a received message is new; a repeated one is taken once (R215). -/
def Chip.newMsg (c : Chip) (j word : Nat) : Bool := !c.edge.taken.contains (j, word)
def Chip.takeMsg (c : Chip) (j word : Nat) : Chip := c.onEdge (fun e => { e with taken := e.taken ++ [(j, word)] })

/-! Notices, DEPARTURE and PORT_STATE. -/

/-- DATA of PORT_STATE (R244): node, port, state and reason, part, the last sequences of 20 lanes with their valid bits, the row. -/
def Chip.portStateData (c : Chip) (j part : Nat) (seqs : List (Option Nat)) : List Nat :=
  leBytes 2 c.node ++ [j, c.rd (R.EDGE_STATUS_STATE j) * 16 + c.rd (R.EDGE_STATUS_REASON j), part, 0, 0, 0]
    ++ (seqs.flatMap (fun s => leBytes 2 (s.getD 0))) ++ leBytes 3 ((seqs.zipIdx.map (fun x => if x.1.isSome then 2 ^ x.2 else 0)).sum)
    ++ [0, 0, 0, 0, 0] ++ leBytes 6 c.row ++ [0, 0]

/-- The PORT_STATE notice of a port, with the partner for a port that came Up (R245). -/
def Chip.portNotice (c : Chip) (j : Nat) : Chip :=
  let d := leBytes 2 c.node ++ [j, c.rd (R.EDGE_STATUS_STATE j) * 16 + c.rd (R.EDGE_STATUS_REASON j), 0, 0, 0, 0]
    ++ (if c.portUp j then leBytes 2 (c.partnerNode j) ++ [c.rd (R.EDGE_PARTNER_PORT j)] ++ List.replicate 45 0 else List.replicate 48 0)
    ++ leBytes 6 c.row ++ [0, 0]
  c.notice 2 d

/-- A class-4 stitch to the partner of port `j` is sent on its lane 39 and crosses no other node (R238). -/
def Chip.sendOnPort (c : Chip) (j : Nat) (st : Stitch) : Chip :=
  (c.useCredit j 2).onEdge (fun e => { e with portQ := e.portQ ++ [(j, { edge := j / 4, fromPort := none, fromSite := none, st := st, since := none, row := c.row })] })

/-- A DEPARTURE of port `j` (R246). -/
def Chip.departureStitch (c : Chip) (j reason : Nat) (single : Bool) : Stitch :=
  let st := c.ctrlStitch (c.partnerNode j) 3 (leBytes 2 c.node ++ [reason, b2n single, j, 0, 0, 0] ++ leBytes 6 (c.row + 64))
  st

/-- Port `j` departs: no new stitches are placed on it, then a DEPARTURE is sent; it goes down under 0x6 at the next boundary (R246). -/
def Chip.depart (c : Chip) (j reason : Nat) (single : Bool) : Chip :=
  if c.portOpen j then
    let c := c.onEdge (fun e => { e with departing := e.departing ++ [(⟨j, c.row + 64, single⟩ : Departing)] })
    (c.requeuePort j).sendOnPort j (c.departureStitch j reason single)
  else c

/-! Port down. -/

/-- Rows in one second (R221). -/
def rowsPerSecond : Nat := 976563

/-- A pattern run of a port lane leaves its site. -/
def Chip.edgeRunLeaves (c : Chip) (r : PatRun) : Chip :=
  let c := c.onEdge (fun e => { e with runs := dropFirst (fun x => x == r) e.runs })
  if r.booked then c.clearBooking [18 + r.site / 4] else c

/-- The pattern runs and armed injections of a port lane, or of a whole port, end (R136, R140). -/
def Chip.endEdgeTests (c : Chip) (j : Nat) (l : Option Nat) : Chip :=
  let c := c.each (c.edge.runs.filter (fun r => r.site == j && (l.isNone || l == some r.k))) (fun c r => (c.edgeRunLeaves r).edgePatResult j 7)
  c.cancelEdgeInjections j (fun k => l.isNone || l == some k)

/-- The runs that cross a port that goes down end NO_PATH at their sources; what an incoming port fed is dropped (R192, R220). -/
def Chip.cutPortRuns (c : Chip) (j : Nat) : Chip :=
  let out := c.circ.src.filter (fun r => r.e == 112 + j)
  let c := c.each out (fun c r =>
    let c := c.dropSrcRun r
    match c.circ.dst.find? (fun d => r.relayOf == some (d.site, d.e, d.runNo)) with
    | some d => (c.dropDstRun d).refuse d.site d.opening stNO_PATH
    | none => c)
  let ins := c.circ.dst.filter (fun d => d.e == 128 + j)
  c.each ins (fun c d =>
    let fed := fun (x : Option (Nat × Nat × Nat)) => x == some (d.site, d.e, d.runNo)
    let rs := c.circ.src.filter (fun r => fed r.relayOf)
    let c := (c.dropDstRun d).onCirc (fun x => { x with waits := x.waits.filter (fun w => !fed w.relayOf) })
    c.each rs (fun c r =>
      let c := (c.dropSrcRun r).onCirc (fun x => { x with dst := x.dst.filter (fun y => !(y.e == r.e && y.runNo == r.runNo)) })
      match c.outstanding r.site r.opening.dstNode r.opening.tenant r.opening.seq with
      | some o => c.freeOut o
      | none => c))

/-- A port is held down with a reason (R214, R221, R228, R247). -/
def Chip.holdPort (c : Chip) (j reason : Nat) : Chip :=
  ((c.wr (R.EDGE_STATUS_STATE j) 4).wr (R.EDGE_STATUS_REASON j) reason).event Ev.portHeld none (Unit.port j) [reason, c.row]

/-- The stitches in held frames of a port's lanes that the partner did not accept, after an accepted record; or all (R220). -/
def Chip.heldOn (c : Chip) (j l : Nat) (accepted : Option Nat) : List Frame :=
  (c.linkTx (24 + j, 0, l)).replay.filter (fun f => match accepted with
    | some a => decide (32768 ≤ subMod 16 a f.seq)
    | none => true)

/-- The replay buffers of a port are empty from now on. -/
def Chip.clearPortTx (c : Chip) (j : Nat) : Chip :=
  c.each (List.range 40) (fun c l => c.setTx (24 + j, 0, l) { c.linkTx (24 + j, 0, l) with replay := [], resend := 0, waited := 0 })

/-- No record has come in time: the stitches of the held frames are answered UNREACHABLE (R220);
multicast copies are discarded (R280). -/
def Chip.recordLost (c : Chip) (j : Nat) : Chip :=
  let sts := ((List.range 40).flatMap (fun l => (c.heldOn j l none).filter (fun f => f.ftype == ftSTITCH))).flatMap Frame.stitches
  let c := (c.clearPortTx j).onEdge (fun e => { e with waiting := delKey j e.waiting, record := e.record.filter (fun r => r.1.1 != j) })
  c.each sts (fun c st => if isCopy st then c.mcDiscard st else c.refuse (18 + j / 4) st stUNREACHABLE)

/-- The sequence that a record part gives for a lane, if valid (R244). -/
def recordSeq (d0 d1 : List Nat) (l : Nat) : Option Nat :=
  let d := if l < 20 then d0 else d1
  let i := l % 20
  if bitOf (leField d 48 3) i then some (leField d (8 + 2 * i) 2) else none

/-- Both parts of the partner's record have come: accepted frames are freed, the stitches of later frames go back to routing (R220). -/
def Chip.recordComplete (c : Chip) (j : Nat) (d0 d1 : List Nat) : Chip :=
  let frames := (List.range 40).flatMap (fun l => (c.heldOn j l (recordSeq d0 d1 l)).filter (fun f => f.ftype == ftSTITCH))
  let c := (c.clearPortTx j).onEdge (fun e => { e with waiting := delKey j e.waiting, record := e.record.filter (fun r => r.1.1 != j) })
  let sts := frames.flatMap Frame.stitches
  let entries := (sts.filter (fun st => !isCopy st)).map (fun st => ({ edge := j / 4, fromPort := none, fromSite := none, st := st, since := none, row := c.row } : PoolEntry))
  let c := c.each (sts.filter isCopy) (fun c st => c.mcDiscard st)
  (c.count (R.EDGE_COUNTS_REISSUED j) frames.length).onEdge (fun e => { e with pools := entries ++ e.pools })

/-- Both parts of the partner's record have come for a port that waits for them (R220, R244). -/
def Chip.recordIfBoth (c : Chip) (j : Nat) : Chip :=
  match getKey j c.edge.waiting, getKey (j, 0) c.edge.record, getKey (j, 1) c.edge.record with
  | some _, some d0, some d1 => c.recordComplete j d0 d1
  | _, _, _ => c

/-- The receive rings of a port that has lost its partner's light hold: no light can reach them (R92). -/
def Chip.holdPortRx (c : Chip) (j : Nat) : Chip :=
  c.each (List.range 40) (fun c k =>
    let l : FRef := ⟨R.TNS_PORT_RING_STATE (18 + j / 4) (j % 4) 1 k, 30, 28⟩
    if [1, 2, 3, 5].contains (c.rd l) then c.wr l 4 else c)

/-- A port goes down under a code of R219; the steps of R220, and what holds it down (R221). A port that is enabled and Off or held already is held under codes 0xB and 0x6 without a down (R97,
R221). -/
def Chip.portDown (c : Chip) (j code : Nat) : Chip :=
  let st := c.rd (R.EDGE_STATUS_STATE j)
  if st = 4 ∨ (st = 0 ∧ c.on (R.EDGE_CFG2_EN j)) then
    (if code = 0xB ∨ (code = 6 ∧ st = 0) then
      let c := (c.wr (R.EDGE_STATUS_STATE j) 4).wr (R.EDGE_STATUS_REASON j) code
      c.event Ev.portHeld none (Unit.port j) [code, c.row]
    else c)
  else if st = 0 ∨ (st ≠ 2 ∧ ¬(code = 6 ∨ code = 7 ∨ code = 0xB)) then c
  else
    let wasUp := st == 2
    let dark := code == 7 || code == 0xB
    let last := (List.range 40).map (fun l => let r := c.linkRx (24 + j, 0, l); if r.accepted then some ((r.expect + 65535) % 65536) else none)
    let recent := (c.edge.downs.filter (fun d => d.1 == j && decide (c.row < d.2 + rowsPerSecond))).length + 1
    let held := code == 6 || code == 0xB || decide (c.rdPos (R.EDGE_CFG2_FLAP_MAX j) ≤ recent)
    let c := ((c.wr (R.EDGE_STATUS_STATE j) (if held then 4 else 3)).wr (R.EDGE_STATUS_REASON j) code).count (R.EDGE_COUNTS_DOWNS j)
    let c := c.each (List.range 40) (fun c l =>
      let put := fun (c : Chip) (inc : Bool) => if c.portLane j l inc = lsFENCED then c
        else c.setPortLane j l inc (if dark && !inc then lsOFF else lsTRAIN)
      put (put c true) false)
    let c := (c.wr (R.ROUTE_PORT_INFO_LEVEL j) 0).endEdgeTests j none
    let c := c.onEdge (fun e => { e with
      downs := e.downs.filter (fun d => !(d.1 == j && decide (d.2 + rowsPerSecond ≤ c.row))) ++ [(j, c.row)]
      moves := e.moves.filter (fun m => m.port != j), msgs := e.msgs.filter (fun m => m.1 != j), taken := e.taken.filter (fun m => m.1 != j)
      trains := e.trains.filter (fun x => x.1 != j), misaligned := e.misaligned.filter (fun x => x.1 != j), training := delKey j e.training
      engineFailed := if code = 0xB ∧ e.engineFailed.contains j = false then e.engineFailed ++ [j] else e.engineFailed })
    let c := ((c.requeuePort j).cutPortRuns j).timePortDown j
    let c := if wasUp then
        let c := c.onEdge (fun e => { e with waiting := putKey j c.row e.waiting })
        c.each [0, 1] (fun c part =>
          let st := c.ctrlStitch (c.partnerNode j) 2 (c.portStateData j part ((last.drop (20 * part)).take 20))
          c.send 31 (Stitch.sealed { st with opf := part }))
      else c
    let c := if wasUp then c.recordIfBoth j else c
    let c := c.onCirc (fun x => { x with retraining := x.retraining.filter (fun i => i != j), portDeal := x.portDeal.filter (fun d => d.1 != 112 + j && d.1 != 128 + j) })
    let c := c.event Ev.portDown none (Unit.port j) [code, c.row]
    let c := if held ∧ code ≠ 6 then c.event Ev.portHeld none (Unit.port j) [code, c.row] else c
    let c := if code = 1 then c.holdPortRx j else c
    let c := if [1, 2, 3, 4, 0xB].contains code then c.report (Unit.port j) [] 0 0 code actPortDown else c
    c.portNotice j

/-- Four or more lanes of a port have had TRAIN frames in two frame slots in succession (R219). -/
def Chip.trainsSeen (c : Chip) (j : Nat) : Bool :=
  let big := c.edge.trains.filter (fun x => x.1 == j && decide (4 ≤ x.2.2.length))
  big.any (fun x => big.any (fun y => y.2.1 == x.2.1 + 1))

/-- Eight or more lanes of a port have lost alignment in one row (R219). -/
def Chip.misalignedMany (c : Chip) (j : Nat) : Bool := c.edge.misaligned.any (fun x => x.1 == j && decide (8 ≤ x.2.2.length))

/-- A port whose data lanes in service are fewer than MIN_LANES goes down (R218). -/
def Chip.checkMinLanes (c : Chip) (j : Nat) : Chip :=
  if c.portUp j ∧ (c.lanesIn j true < c.minLanes j ∨ c.lanesIn j false < c.minLanes j) then c.portDown j 3 else c

/-! Fences and sparing of port lanes. -/

/-- Whether a fence indication of a port lane is held off: loss of light, of a ring's lock, of clock or coherent lock in Cal or Test, of an idle spare under swatch too (R58, R217), loss of a ring's
lock while DETECT_HOLD is set (R57, R94), loops that hold or have just resumed (R209). -/
def Chip.portFenceHeld (c : Chip) (j l : Nat) (incoming : Bool) (code : Nat) : Bool :=
  let optical := decide (1 ≤ code ∧ code ≤ 4) || code == 0xC
  let on := c.rd (portOnRef j l incoming)
  let testing := c.portLane j l incoming == lsCAL || c.portLane j l incoming == lsTEST
    || c.tns.swatches.any (fun w => w.begun && w.site == 18 + j / 4 && w.plane == 38 + j % 4 && w.k == l)
    || (on != l && decide (36 ≤ on) && decide (on < 39) && c.rd (spareStateRef j incoming (on - 36)) == 2)
  let back := match getKey j c.edge.lightBack with
    | some t => decide (c.cycles < t + 24000)
    | none => false
  (optical && testing) || ((code == 3 || code == 4) && c.on R.OPF_STATUS_DETECT_HOLD) || ((code == 2 || code == 0xC) && (back || (getKey j c.edge.lightLost).isSome))

/-- A lane of the incoming direction is to be read from a carrier: SPARE_REQ names the boundary three rows after the row of its marker; of the lanes whose requests wait for
their markers the lowest goes first (R216, R224). -/
def Chip.requestCarrier (c : Chip) (j l carrier : Nat) : Chip :=
  let waits := fun (m : SpareMove) => m.port == j && m.incoming && !m.cal && decide (c.nextMarker + 3 ≤ m.row)
  let mine := ⟨j, true, l, carrier, c.markerRow j + 3, false, false⟩
  let all := c.edge.moves.filter (fun m => !(m.port == j && m.incoming && m.lane == l && !m.cal)) ++ [mine]
  let rows := sortNat ((all.filter waits).map (·.row))
  let lanes := sortNat ((all.filter waits).map (·.lane))
  let rowOf := fun (m : SpareMove) => if waits m then rows.getD (lanes.idxOf m.lane) m.row else m.row
  let moves := all.map (fun m => { m with row := rowOf m })
  let c := c.sendMsg j (linkMsg 1 l carrier mine.row)
  c.onEdge (fun e => { e with
    moves := moves
    msgs := e.msgs.map (fun m => if m.1 == j && m.2.1 / 2 ^ 60 == 1 && decide (c.nextMarker ≤ m.2.2) then
        match moves.find? (fun x => waits x && x.lane == m.2.1 / 2 ^ 54 % 64 && x.carrier == m.2.1 / 2 ^ 48 % 64) with
        | some x => (j, linkMsg 1 x.lane x.carrier x.row, x.row - 3)
        | none => m
      else m) })

/-- Both directions of a lane are to move for a calibration, or to return (R217). -/
def Chip.calMoves (c : Chip) (j l carrier row : Nat) (ending : Bool) : Chip :=
  c.onEdge (fun e => { e with moves := e.moves ++ [⟨j, true, l, carrier, row, true, ending⟩, ⟨j, false, l, carrier, row, true, ending⟩] })

/-- The calibration of lane `l` is abandoned: moves that have not been made are void, and the lane returns at the boundary of `row` (R218). -/
def Chip.endCal (c : Chip) (j l row : Nat) : Chip :=
  (c.onEdge (fun e => { e with moves := e.moves.filter (fun m => !(m.port == j && m.lane == l && m.cal)) })).calMoves j l l row true

/-- The lane for whose calibration spare 36 + n is held in the incoming direction, by a move made or agreed (R217, R218). -/
def Chip.calLane (c : Chip) (j n : Nat) : Option Nat :=
  if c.rd (spareStateRef j true n) = 2 then some (c.rd (spareLaneRef j true n))
  else (c.edge.moves.find? (fun m => m.port == j && m.incoming && m.cal && !m.ending && m.carrier == 36 + n)).map (·.lane)

/-- A calibration that holds a spare of the incoming direction is abandoned; its lane returns at the boundary of the SPARE_REQ, which asks for its spare (R218). The swatch of an idle spare itself
is abandoned as soon as the request is made. -/
def Chip.abandonCal (c : Chip) (j n : Nat) : Chip :=
  match c.calLane j n with
  | none => c
  | some l =>
  let c := (c.endCal j l (c.markerRow j + 3)).endEdgeTests j (some l)
  (c.count (R.TNS_SWATCH_COUNT_ABANDONED (18 + j / 4))).event Ev.calAbandoned none (Unit.portLane j l true) [l, c.row]

/-- The receiving end spares a lane of its incoming direction: the lowest free spare is requested for a boundary three rows after the marker that carries the request, else the
spare of a calibration; with none left a data lane is lost, and lane 39 goes to the lowest data lane in service, which leaves the data lanes (R213, R216, R218). -/
def Chip.spareIncoming (c : Chip) (j l : Nat) : Chip :=
  match (c.freeSpares j true).head? with
  | some n => c.requestCarrier j l (36 + n)
  | none =>
    match (List.range 3).find? (fun n => ((c.calLane j n).isSome || (c.rd (spareStateRef j true n) == 0 && c.spareSwatched j n))
      && !c.edge.moves.any (fun m => m.port == j && m.incoming && m.carrier == 36 + n && !m.ending && !m.cal)) with
    | some n => (c.abandonCal j n).requestCarrier j l (36 + n)
    | none =>
      let c := if l = 39 then
          match c.controlLane j true with
          | some d => (c.onEdge (fun e => { e with ctrlOn := e.ctrlOn ++ [(j, true, d)] })).requestCarrier j l d
          | none => c
        else c
      c.checkMinLanes j

/-- A port lane is fenced with a code (R133, R210, R216): the receiving end spares its incoming lanes; for an outgoing lane the sending end
tells its partner with TX_FAULT. A spare that fails is fenced, and the lane it carries is spared again (R218). A port that
is not Up has its lanes fenced by codes 0x8 and 0xA alone (R97, R75), and its next training spares them (R214). -/
def Chip.fencePort (c : Chip) (j l : Nat) (incoming : Bool) (code : Nat) : Chip :=
  if c.portLane j l incoming = lsFENCED ∨ c.portLane j l incoming = lsOFF ∨ c.portFenceHeld j l incoming code = true then c
  else if c.portUp j = false then
    (if code = 8 ∨ code = 0xA then ((c.setPortLane j l incoming lsFENCED).wr (R.EDGE_LANE_STATE_REASON j l) code).report (Unit.portLane j l incoming) [] 0 0 code actFenced else c)
  else
    let spare := decide (36 ≤ l) && decide (l < 39)
    let carried := if spare then c.rd (spareLaneRef j incoming (l - 36)) else 0x3F
    let c := (((c.setPortLane j l incoming lsFENCED).wr (R.EDGE_LANE_STATE_REASON j l) code).endEdgeTests j (some l))
    let c := if spare then c.setSpare j incoming (l - 36) 3 0x3F else c
    let target := if spare then carried else l
    let on := c.rd (portOnRef j l incoming)
    let c := if !spare && decide (36 ≤ on) && decide (on < 39) then c.setSpare j incoming (on - 36) 3 0x3F else c
    let c := if target = 0x3F then c
      else
        let c := if spare then (c.setPortLane j target incoming lsFENCED).wr (R.EDGE_LANE_STATE_REASON j target) code else c
        if incoming then c.spareIncoming j target
        else (c.sendMsg j (linkMsg 4 on 0 0)).checkMinLanes j
    c.report (Unit.portLane j l incoming) [] 0 0 code
      (if c.edge.moves.any (fun m => m.port == j && m.incoming == incoming && m.lane == target) then actSpared else actFenced)

/-- A port lane's replay buffer is resent by one go-back, counted in EDGE.LANE_RETRY and not in the window (R132, R216). -/
def Chip.portGoBack (c : Chip) (j l : Nat) : Chip :=
  let key := (24 + j, 0, l)
  if (c.linkTx key).replay.isEmpty then c else (c.goBack key).count (R.EDGE_LANE_RETRY_COUNT j l)

/-- A spare change or calibration move agreed for this boundary takes place (R216, R217). A data lane that lane 39's stream takes is off from then on (R213; log entry 147). -/
def Chip.applyMove (c : Chip) (m : SpareMove) : Chip :=
  let n := m.carrier - 36
  if m.ending then
    let on := c.rd (portOnRef m.port m.lane m.incoming)
    if 36 ≤ on ∧ on < 39 ∧ c.rd (spareStateRef m.port m.incoming (on - 36)) = 2 then
      (let c := (c.setSpare m.port m.incoming (on - 36) 0 0x3F).wr (portOnRef m.port m.lane m.incoming) m.lane
       if m.incoming then c else c.portGoBack m.port m.lane)
    else c
  else
    let c := if m.carrier < 36 then c.setPortLane m.port m.carrier m.incoming lsOFF else c.setSpare m.port m.incoming n (if m.cal then 2 else 1) m.lane
    let c := c.wr (portOnRef m.port m.lane m.incoming) m.carrier
    let c := c.setPortLane m.port m.lane m.incoming lsUP
    let c := if m.incoming then c else c.portGoBack m.port m.lane
    if m.cal then c else c.event Ev.spareChange none (Unit.portLane m.port m.lane m.incoming) [m.lane, m.carrier, c.row]

/-- What the ports do at a row boundary: the agreed moves of their outgoing lanes, messages of more than 8 rows ago, departing ports whose DEPARTURE has been sent going down (R215 to R217, R246). Incoming lanes move at the
boundary of the incoming stream. -/
def Chip.edgeStep (c : Chip) : Chip :=
  let due := c.edge.moves.filter (fun m => !m.incoming && decide (m.row ≤ c.row))
  let kept := c.edge.moves.filter (fun m => m.incoming || !decide (m.row ≤ c.row))
  let c := c.onEdge (fun e => { e with moves := kept, msgs := e.msgs.filter (fun m => decide (c.row < m.2.2 + 8)) })
  let c := c.each (due.filter (fun m => m.ending)) Chip.applyMove
  let c := c.each (due.filter (fun m => !m.ending)) Chip.applyMove
  c.each (c.edge.departing.filter (fun d => c.portUp d.port && !c.edge.portQ.any (fun x => x.1 == d.port && x.2.st.opcode == opCTRL && fget x.2.st.opspec 17 10 == 3))) (fun c d => c.portDown d.port 6)

/-- CAL_REQ is sent for a port lane with a free spare in both directions, three rows ahead (R217). -/
def Chip.calRequest (c : Chip) (j l : Nat) : Chip :=
  match (c.freeSpares j true).find? (fun n => (c.freeSpares j false).contains n) with
  | some n => c.sendMsg j (linkMsg 5 l (36 + n) (c.markerRow j + 3))
  | none => c

/-- CAL_END is sent: the lane returns three rows ahead (R217). -/
def Chip.calEndRequest (c : Chip) (j l : Nat) : Chip :=
  let row := c.markerRow j + 3
  (c.sendMsg j (linkMsg 7 l (c.rd (portOnRef j l true)) row)).calMoves j l l row true

/-- Every port goes dark with the light supply (R219 code 0x7). -/
def Chip.portsDark (c : Chip) : Chip := c.each (List.range 16) (fun c j => c.portDown j 7)

/-- A fence indication of R133 or R210 for a port lane. -/
def Chip.fencePortSign (c : Chip) (j : Fin 16) (l : Fin 40) (incoming : Bool) (code : Fin 16) : Chip := c.fencePort j.val l.val incoming code.val

end Sys2Proof.Machine
end

