-- ==== Sys2Proof/Machine/Rings.lean ====
section
/-! DEFINITION. Rings and plane sides by name: the states of a plane side and its spare, the ring that serves a lane, factory and live values of a ring, the choice of a twin, groups of
rings with their pending calibrations, and a lane swatch leaving its sites (R45, R53, R78, R86 to R92, R100 to R109, R113, R114). Codes and efficiencies are fixed-point numbers; a
division rounds down (log entry 12). -/

namespace Sys2Proof.Machine

/-! Plane sides. -/

/-- The state of a plane side (SITE.PLANE_STATE): 0 own rings or warm, 1 substituted or in service, 2 fenced, 3 the same for a test. -/
def Chip.sideState (c : Chip) (x : Side) : Nat :=
  if x.rx then c.rd (R.SITE_PLANE_STATE_RX_STATE x.site x.plane) else c.rd (R.SITE_PLANE_STATE_TX_STATE x.site x.plane)

/-- The partner plane of a side: its spare, or the plane a spare carries. -/
def Chip.sidePartner (c : Chip) (x : Side) : Nat :=
  if x.rx then c.rd (R.SITE_PLANE_STATE_RX_PARTNER x.site x.plane) else c.rd (R.SITE_PLANE_STATE_TX_PARTNER x.site x.plane)

/-- A plane side takes a state and a partner. -/
def Chip.setSide (c : Chip) (x : Side) (state partner : Nat) : Chip :=
  if x.rx then (c.wr (R.SITE_PLANE_STATE_RX_STATE x.site x.plane) state).wr (R.SITE_PLANE_STATE_RX_PARTNER x.site x.plane) partner
  else (c.wr (R.SITE_PLANE_STATE_TX_STATE x.site x.plane) state).wr (R.SITE_PLANE_STATE_TX_PARTNER x.site x.plane) partner

/-- The side at the other end of a substitution: the spare of a plane side, the plane side of a spare. -/
def Chip.otherSide (c : Chip) (x : Side) : Side := { x with plane := c.sidePartner x }

/-- The side whose rings serve the lanes of a plane side: its spare's while it is substituted, else its own (R43, R49). -/
def Chip.ringSide (c : Chip) (x : Side) : Side := if c.sideState x % 2 = 1 ∧ Config.planeKind x.site x.plane ≠ 3 then c.otherSide x else x

/-- Every lane state passed through a function of the lane. Lanes never written are Off and stay so. -/
def Chip.mapLanes (c : Chip) (g : Nat → Nat → Nat → Nat → Nat) : Chip :=
  { c with regs := c.regs.map (fun x =>
      let i := (x.1 - 0x2000000) / 0x100000
      let r := x.1 % 0x100000
      let n := (r - 0x10000) / 0x20
      if 0x2000000 ≤ x.1 ∧ x.1 < 0x3800000 ∧ 0x10000 ≤ r ∧ n < 1008 ∧ r % 0x20 = 0 then
        (x.1, BitVec.ofNat 32 (fset x.2.toNat 31 28 (g i (n / 24) (n % 24) (fget x.2.toNat 31 28))))
      else x) }

/-- The lanes in a state, by their registers. -/
def Chip.lanesAt (c : Chip) (st : Nat) : List (Nat × Nat × Nat) :=
  (c.regs.filter (fun x => decide (0x2000000 ≤ x.1) && decide (x.1 < 0x3800000) && decide (0x10000 ≤ x.1 % 0x100000) && decide (x.1 % 0x100000 < 0x17E00) && x.1 % 0x20 == 0
      && fget x.2.toNat 31 28 == st)).map
    (fun x => ((x.1 - 0x2000000) / 0x100000, (x.1 % 0x100000 - 0x10000) / 0x300, (x.1 % 0x100000 - 0x10000) / 0x20 % 24))

/-- Whether a lane runs on a spare on one of its sides (R78). -/
def Chip.onSpare (c : Chip) (s p k : Nat) : Bool :=
  c.sideState ⟨s, p, false⟩ % 2 == 1 || (match c.rxSide s p k with | some x => c.sideState x % 2 == 1 | none => false)

/-- Whether a lane has no light: in the dark mode, or in fallback with branch H or on a spare (R78, R80). -/
def Chip.laneDark (c : Chip) (s p k : Nat) : Bool :=
  c.rd R.LSU_STATUS_MODE == 7 || (c.fallbackMode && (branchH s p || c.onSpare s p k))

/-! Rings and their loops. -/

/-- Loop states (R92). -/
def loOFF : Nat := 0
def loSEARCH : Nat := 1
def loACQUIRE : Nat := 2
def loLOCKED : Nat := 3
def loHOLD : Nat := 4
def loSWATCH : Nat := 5
def loFENCED : Nat := 6

/-- Whether a ring is a port ring: group 38 to 41 of an edge site (TNS.SWATCH_REQ.GROUP). -/
def RingKey.isPort (x : RingKey) : Bool := decide (18 ≤ x.site) && decide (x.site < 22) && decide (38 ≤ x.plane)

/-- Whether a ring is a receive ring of a port: it works on the partner's light (R71, R211). -/
def RingKey.portRx (x : RingKey) : Bool := x.isPort && x.d == 1

/-- The port of a port ring. -/
def RingKey.port (x : RingKey) : Nat := 4 * (x.site - 18) + (x.plane - 38)

/-- The registers of a ring. -/
def ringState (x : RingKey) : Nat := if x.isPort then R.TNS_PORT_RING_STATE x.site (x.plane - 38) x.d x.k else R.TNS_RING_STATE x.site x.plane x.d x.k
def ringLoop (x : RingKey) : FRef := ⟨ringState x, 30, 28⟩
def ringHeater (x : RingKey) : FRef := ⟨ringState x, 15, 0⟩
def ringTwin (x : RingKey) : FRef := ⟨ringState x, 31, 31⟩
def ringOffset (x : RingKey) : Nat := ringState x + 8
def ringDetune (x : RingKey) : FRef := ⟨ringState x + 12, 31, 16⟩
def ringPower (x : RingKey) : FRef := ⟨ringState x + 12, 15, 0⟩

/-- The ring state register at an offset is that of a plane ring or a port ring: whether the offset is one (R113 entries of 0x10). -/
def ringStateOff (off : Nat) : Bool :=
  decide (0x2000000 ≤ off) && decide (off < 0x3800000) && decide (0x50000 ≤ off % 0x100000) && decide (off % 0x100000 < 0x70000) && off % 16 == 0

/-- The ring whose state register is at an offset. -/
def ringAt (off : Nat) : RingKey :=
  let s := (off - 0x2000000) / 0x100000
  let r := off % 0x100000
  if r < 0x60000 then
    (let i := (r - 0x50000) / 16
     ⟨s, i / 48, i % 48 / 24, i % 24⟩)
  else
    (let i := (r - 0x60000) / 16
     ⟨s, 38 + i / 80, i % 80 / 40, i % 40⟩)

/-- The loop state that a ring state word holds. -/
def loopOf (w : Word) : Nat := fget w.toNat 30 28

/-- Every written register passed through a function of its offset and word. -/
def Chip.mapRegs (c : Chip) (f : Nat → Word → Word) : Chip := { c with regs := c.regs.map (fun x => (x.1, f x.1 x.2)) }

/-- The rings in one of the states of a list, by their registers: a ring never written is Off. -/
def Chip.ringsIn (c : Chip) (states : List Nat) : List RingKey :=
  (c.regs.filter (fun x => ringStateOff x.1 && states.contains (loopOf x.2))).map (fun x => ringAt x.1)

/-- The group of a ring: its plane, or 38 plus the port (R100). -/
def RingKey.group (x : RingKey) : Nat × Nat := (x.site, x.plane)

/-- The side that a plane ring belongs to. -/
def RingKey.side (x : RingKey) : Side := ⟨x.site, x.plane, x.d == 1⟩

/-- The rings that serve a lane: its transmit ring and, where the lane has a receiver in the package, its receive filter (R34, R36, R49). A port lane has both at its own port. -/
def Chip.txRing (c : Chip) (s p k : Nat) : RingKey := if Config.siteKind s = .edge ∧ 38 ≤ p then ⟨s, p, 0, k⟩ else ⟨s, (c.ringSide ⟨s, p, false⟩).plane, 0, k⟩
def Chip.rxRing (c : Chip) (s p k : Nat) : Option RingKey :=
  if Config.siteKind s = .edge ∧ 38 ≤ p then some ⟨s, p, 1, k⟩
  else (c.rxSide s p k).map (fun x => ⟨x.site, (c.ringSide x).plane, 1, k⟩)

/-- The lane that a ring serves: by its transmit ring, or by the wavelength its filter takes. None for a slot that never gets light (R98) and for the own rings of a plane side that a
spare carries (R49, R61). A spare that carries nothing serves its own entry. -/
def Chip.laneOfRing (c : Chip) (x : RingKey) : Option (Nat × Nat × Nat) :=
  if x.isPort then some (x.site, x.plane, x.k)
  else
    let spare := Config.planeKind x.site x.plane == 3
    let at_ := c.sideState x.side
    if spare && at_ % 2 == 0 then some (x.site, x.plane, x.k)
    else if !spare && at_ % 2 == 1 then none
    else
      let p := if spare then c.sidePartner x.side else x.plane
      if x.d = 0 then some (x.site, p, x.k) else (c.sideLanes ⟨x.site, p, true⟩).find? (fun l => l.2.2 == x.k)

/-- Whether a ring is a receive slot that never gets light: no transmitter of its source has the plane (R98). -/
def unlitSlot (x : RingKey) : Bool :=
  !x.isPort && x.d == 1 && Config.planeKind x.site x.plane == 1 && Config.planeKind ((x.site + 24 - x.k) % 24) x.plane != 1

/-- Whether a ring is on branch H (R64). -/
def RingKey.branchH (x : RingKey) : Bool := !x.isPort && Sys2Proof.Machine.branchH x.site x.plane

/-- Whether a ring has no light while branch H is dark: it is on that branch, or a receive filter whose lane is sent by a spare, whose rings are on that branch (R64, R78). -/
def Chip.ringDark (c : Chip) (x : RingKey) : Bool :=
  x.branchH || (!x.isPort && x.d == 1 && (c.laneOfRing x).any (fun l => c.sideState ⟨l.1, l.2.1, false⟩ % 2 == 1))

/-! Factory and live values (R86, R113, R114). -/

/-- The factory word of a twin of the ring whose state register is at `off`, as TNS.RING_FACTORY lays it out (R113). -/
def Chip.factoryOf (c : Chip) (off twin : Nat) : Nat := if twin = 0 then (c.word (off + 4)).toNat else Config.secondTwin off % 2 ^ 32

/-- The factory word of the selected twin. -/
def Chip.factory (c : Chip) (off : Nat) : Nat := c.factoryOf off (c.rd ⟨off, 31, 31⟩)

/-- The efficiency in 0.01 GHz/mW and the magnitude of the thermal shift in 0.01 GHz/°C that a factory word gives with a word of TNS.RING_OFFSET: EFF is in 2 GHz/mW, its offset in
0.5 %; TCOEF in 0.1 GHz/°C, its offset in 0.01 GHz/°C (R114). -/
def effOf (factory ofs : Nat) : Int := (fget factory 15 8 : Int) * (200 + toSigned 8 (fget ofs 15 8))
def tcOf (factory ofs : Nat) : Int := (fget factory 7 0 : Int) * 10 + toSigned 8 (fget ofs 7 0)

/-- Heater codes for a shift in MHz at an efficiency in 0.01 GHz/mW: 65,536 codes are 2.4 mW (R86). -/
def codesAt (eff mhz : Int) : Int := mhz * 65536 / (24 * max 1 eff)

/-- The live heater efficiency and thermal shift of a ring (R114). -/
def Chip.liveEff (c : Chip) (off : Nat) : Int := effOf (c.factory off) (c.word (off + 8)).toNat
def Chip.liveTc (c : Chip) (off : Nat) : Int := tcOf (c.factory off) (c.word (off + 8)).toNat

/-- Heater codes for a shift in MHz at the ring whose state register is at `off`. -/
def Chip.codesFor (c : Chip) (off : Nat) (mhz : Int) : Int := codesAt (c.liveEff off) mhz

/-- A heater code moved and clamped to 0 to 65,535 (R91). -/
def clampCode (code : Nat) (d : Int) : Nat := (max 0 (min 65535 ((code : Int) + d))).toNat

/-- The 64-row mean temperature of a ring's group, in 0.125 °C. -/
def Chip.groupTemp (c : Chip) (x : RingKey) : Int := toSigned 16 (c.rd (R.TNS_GROUP_TEMP_NOW x.site x.plane))

/-- Codes by which a ring at `temp`, in 0.125 °C, must be heated beyond what it needs at 60.0 °C: an unheated ring falls as it warms (R86, R113). -/
def warmCodes (eff tc temp : Int) : Int := codesAt eff ((480 - temp) * tc * 10 / 8)

/-- The predicted position of a ring as a heater code: HEAT_REF with its offset, at the present temperature of its group (R93, R114). -/
def Chip.predicted (c : Chip) (x : RingKey) : Int :=
  let off := ringState x
  (fget (c.factory off) 31 16 : Int) + toSigned 16 (fget (c.word (off + 8)).toNat 31 16) + warmCodes (c.liveEff off) (c.liveTc off) (c.groupTemp x)

/-- The factory position of a ring at the present temperature of its group (R98). -/
def Chip.factoryPos (c : Chip) (x : RingKey) : Int :=
  let w := c.factory (ringState x)
  (fget w 31 16 : Int) + warmCodes (effOf w 0) (tcOf w 0) (c.groupTemp x)

/-- The headroom H of a twin of a ring: the codes that follow a warming of HEADROOM degrees; offsets apply to the selected twin (R88, R115). -/
def Chip.headroomOf (c : Chip) (x : RingKey) (twin : Nat) : Int :=
  let w := c.factoryOf (ringState x) twin
  let ofs := if c.rd (ringTwin x) = twin then (c.word (ringOffset x)).toNat else 0
  codesAt (effOf w ofs) ((c.rd (R.TNS_CFG2_HEADROOM x.site) : Int) * tcOf w ofs * 10)
def Chip.headroom (c : Chip) (x : RingKey) : Int := c.headroomOf x (c.rd (ringTwin x))

/-- Whether a sweep finds a twin's resonance with an extinction of at least 6 dB, and whether the twin is eligible (R88). -/
def twinGood (t : TwinSweep) : Bool := t.found && decide (600 ≤ t.extinction.toNat)
def Chip.eligible (c : Chip) (x : RingKey) (twin : Nat) (t : TwinSweep) : Bool :=
  twinGood t && decide (c.headroomOf x twin ≤ (t.code.toNat : Int)) && decide (t.code.toNat ≤ 64511)

/-- The twin that a swatch selects and its heater code: among eligible twins the one with the lower code, else one that passes the first two checks; none where neither does, and
the ring is fenced (R88). Where both twins pass those checks and neither is eligible, the lower code again (log entry 116). -/
def Chip.selectTwin (c : Chip) (x : RingKey) (m : RingSweep) : Option (Nat × Nat) :=
  let lower := if m.twin1.code.toNat < m.twin0.code.toNat then 1 else 0
  let pick := fun (ok : Nat → TwinSweep → Bool) =>
    if ok 0 m.twin0 && ok 1 m.twin1 then some lower else if ok 0 m.twin0 then some 0 else if ok 1 m.twin1 then some 1 else none
  ((pick (c.eligible x)).orElse (fun _ => pick (fun _ t => twinGood t))).map (fun t => (t, if t = 0 then m.twin0.code.toNat else m.twin1.code.toNat))

/-- The slope of a ring in units of the lock-in result per GHz, as its last swatch measured it; that of the cast-on swatch is a free value (R90). -/
def Chip.slopeOf (c : Chip) (x : RingKey) : Nat :=
  max 1 ((getKey x c.tns.slopes).getD (Config.measured (ringState x + 8) c.tns.castDraw % 65536))

/-- The dither amplitude of a site in 0.01 GHz: below 0x14 it acts as 0x14, above 0x64 as 0x64 (TNS.CFG.DITHER_AMP). -/
def Chip.ditherAmp (c : Chip) (s : Nat) : Nat := max 0x14 (min 0x64 (c.rd (R.TNS_CFG_DITHER_AMP s)))

/-- A ring's loop locks: visits count afresh towards a loss of lock (R94). -/
def Chip.lockRing (c : Chip) (x : RingKey) : Chip :=
  { c.wr (ringLoop x) loLOCKED with tns := { c.tns with atEnd := c.tns.atEnd.filter (fun y => y != x), beyond := c.tns.beyond.filter (fun y => y != x) } }

/-- The scale correction of a site's converters, in 0.001 % (R110). The correction at cast-on is the factory's, of which the spec gives no value: none (DESIGN CHOICE, log entry 156). -/
def Chip.scaleOf (c : Chip) (s : Nat) : Int := (getKey s c.tns.correction).getD 0

/-- A converter's reading with the site's scale correction, and a power in 0.01 dBm, of which a factor is a difference (R110; log entry 117). -/
def Chip.scaled (c : Chip) (s : Nat) (v : Int) : Int := v + v * c.scaleOf s / 100000
def Chip.scaledPower (c : Chip) (s : Nat) (p : Int) : Int := p + c.scaleOf s * 434 / 100000

/-- What the heater DAC of a ring is given in quarter `q` of a dither period: the code, the dither at the phase of the ring's wavelength, in one quarter up and two later down, and the
scale correction of the site (R86, R90, R110). The heater of a ring that is Off or Fenced is unpowered, and not dithered (R92). -/
def Chip.dacCode (c : Chip) (x : RingKey) (q : Nat) : Nat :=
  if c.rd (ringLoop x) = loOFF ∨ c.rd (ringLoop x) = loFENCED then 0
  else
  let a := c.codesFor (ringState x) ((c.ditherAmp x.site : Int) * 10)
  let turn := (q + x.k) % 4
  let code : Int := (c.rd (ringHeater x) : Int) + (if turn = 1 then a else if turn = 3 then -a else 0)
  clampCode 0 (code * 100000 / (100000 + c.scaleOf x.site))

/-- Rings of a list step their resonance by `mhz`: heat moves it downward (R69, R86). -/
def Chip.stepRings (c : Chip) (l : List RingKey) (mhz : Int) : Chip :=
  c.each l (fun c x => c.wr (ringHeater x) (clampCode (c.rd (ringHeater x)) (-(c.codesFor (ringState x) mhz))))

/-- The heater step of R69: every ring on the package's light whose loop runs. The receive rings of the ports work on the partner's light (R71). -/
def Chip.heaterStep (c : Chip) (mhz : Int) : Chip :=
  c.stepRings ((c.ringsIn [loACQUIRE, loLOCKED]).filter (fun x => !x.portRx)) mhz

/-! Groups and their pending calibrations. -/

/-- The groups of a site: its planes, and on an edge site its four ports. -/
def groupsOf (s : Nat) : Nat := if Config.siteKind s = .edge then 42 else Config.planes s

/-- Whether a group is a port's. -/
def portGroup (s g : Nat) : Bool := decide (Config.siteKind s = .edge) && decide (38 ≤ g)

/-- The rings of a group (R100). -/
def groupRings (s g : Nat) : List RingKey :=
  [0, 1].flatMap (fun d => (List.range (if portGroup s g then 40 else 24)).map (fun k => (⟨s, g, d, k⟩ : RingKey)))

/-- The bits of TNS.GROUP_TRIG that pend. -/
def Chip.trigBits (c : Chip) (s g : Nat) : Nat := fget (c.word (R.TNS_GROUP_TRIG s g)).toNat 4 1

/-- The pending calibration of a group. -/
def Chip.calibOf (c : Chip) (s g : Nat) : Option Calib := c.tns.calibs.find? (fun k => k.site == s && k.group == g)

/-- A change to the pending calibration of a group. -/
def Chip.updCalib (c : Chip) (s g : Nat) (f : Calib → Calib) : Chip :=
  { c with tns := { c.tns with calibs := updFirst (fun k => k.site == s && k.group == g) f c.tns.calibs } }

/-- The lane swatches of a calibration not yet done: one for each lane that a ring of the group serves (R102, TNS.GROUP_TRIG.LANES_LEFT). -/
def Chip.lanesLeft (c : Chip) (k : Calib) : Nat := ((k.left.map (fun x => (c.laneOfRing x).getD (x.site, x.plane, x.k + 64 * x.d))).eraseDups).length

/-- LANES_LEFT of a group is shown. -/
def Chip.showLeft (c : Chip) (s g : Nat) : Chip :=
  c.wr (R.TNS_GROUP_TRIG_LANES_LEFT s g) (match c.calibOf s g with
    | some k => c.lanesLeft k
    | none => 0)

/-- A trigger of a group pends: bit 1 TEMP, 2 LOAD, 3 MANUAL, 4 EDGE; triggers that fall together make one pending calibration, of every ring that is neither fenced nor without light
(R98, R100, R101). During the group's own calibration a MANUAL trigger waits for its end, and the others are evaluated again after it. -/
def Chip.trigger (c : Chip) (s g bit : Nat) : Chip :=
  match c.calibOf s g with
  | some k =>
    if k.started then (if bit = 3 then c.updCalib s g (fun k => { k with again := true }) else c)
    else c.wr ⟨R.TNS_GROUP_TRIG s g, bit, bit⟩ 1
  | none =>
    let rings := (groupRings s g).filter (fun x => !unlitSlot x && c.rd (ringLoop x) != loFENCED)
    let c := { c with tns := { c.tns with calibs := c.tns.calibs ++ [({ site := s, group := g, left := rings, row := c.row } : Calib)] } }
    (c.wr ⟨R.TNS_GROUP_TRIG s g, bit, bit⟩ 1).showLeft s g

/-- Whether MIN_INTERVAL has passed since the group's last completed calibration (R101). -/
def Chip.intervalPassed (c : Chip) (s g : Nat) : Bool :=
  c.rd (R.TNS_GROUP_COUNT_COUNT s g) == 0
    || decide (c.rd (R.TNS_GROUP_LAST_SECS_SECS s g) + c.rd (R.TNS_CFG2_MIN_INTERVAL s) ≤ c.opSecs)

/-- A TEMP or LOAD trigger pends; set before MIN_INTERVAL has passed, it waits for that (R101). -/
def Chip.triggerTimed (c : Chip) (s g bit : Nat) : Chip :=
  if bitOf (c.word (R.TNS_GROUP_TRIG s g)).toNat bit then c
  else
    let c := c.trigger s g bit
    if c.intervalPassed s g || c.tns.heldTrig.contains (s, g, bit) then c
    else { c with tns := { c.tns with heldTrig := c.tns.heldTrig ++ [(s, g, bit)] } }

/-- The pending calibration of a group is gone: its bits, its held triggers. -/
def Chip.dropCalib (c : Chip) (s g : Nat) : Chip :=
  let c := { c with tns := { c.tns with calibs := c.tns.calibs.filter (fun k => !(k.site == s && k.group == g))
                                        heldTrig := c.tns.heldTrig.filter (fun t => !(t.1 == s && t.2.1 == g)) } }
  (c.wr ⟨R.TNS_GROUP_TRIG s g, 4, 1⟩ 0).wr (R.TNS_GROUP_TRIG_LANES_LEFT s g) 0

/-- A calibration of a group has completed (R105): counted, with its row, seconds, temperature and power; a MANUAL trigger that came during it pends now (R101). -/
def Chip.groupDone (c : Chip) (s g : Nat) : Chip :=
  let again := (c.calibOf s g).any (·.again)
  let c := (c.count (R.TNS_GROUP_COUNT_COUNT s g)).wrPair (R.TNS_GROUP_LAST_ROW_LO_ROW s g) (R.TNS_GROUP_LAST_ROW_HI_ROW s g) c.row
  let c := (c.wr (R.TNS_GROUP_LAST_SECS_SECS s g) c.opSecs).wr (R.TNS_GROUP_TEMP_REF s g) (c.rd (R.TNS_GROUP_TEMP_NOW s g))
  let c := (c.wr (R.TNS_GROUP_TRIG_P_REF s g) (c.rd R.PWR_MEAN_MEAN_W)).dropCalib s g
  if again then c.trigger s g 3 else c

/-- Rings leave the pending calibrations: swatched, or fenced so that no swatch of theirs is left. A calibration that has begun is complete with its last lane swatch (R102, R105). -/
def Chip.ringsDone (c : Chip) (l : List RingKey) : Chip :=
  c.each ((l.map RingKey.group).eraseDups) (fun c g =>
    match c.calibOf g.1 g.2 with
    | none => c
    | some k =>
      let left := k.left.filter (fun x => !l.contains x)
      let c := (c.updCalib g.1 g.2 (fun k => { k with left := left })).showLeft g.1 g.2
      if left.isEmpty then (if k.started then c.groupDone g.1 g.2 else c.dropCalib g.1 g.2) else c)

/-! Fencing rings. -/

/-- The fenced rings of a side (SITE.TX_FENCE, SITE.RX_FENCE). -/
def fenceReg (x : Side) : FRef := if x.rx then R.SITE_RX_FENCE_RINGS x.site x.plane else R.SITE_TX_FENCE_RINGS x.site x.plane

/-- Rings are fenced: their loops off the line, their heaters at 0 (R92). -/
def Chip.fenceLoops (c : Chip) (l : List RingKey) : Chip :=
  (c.each l (fun c x => (c.wr (ringLoop x) loFENCED).wr (ringHeater x) 0)).ringsDone l
def Chip.fenceLoop (c : Chip) (x : RingKey) : Chip := c.fenceLoops [x]

/-- Whether the spares have light: not while branch H is dark (R78, R80). -/
def Chip.sparesLit (c : Chip) : Bool := c.rd R.LSU_STATUS_MODE != 7 && !c.fallbackMode

/-- The state that a spare plane's own lane entry reads, which is also what its lane sends (R46, R135): Fenced with the spare or its ring, the state of the lane that it carries, else Monitor while
it is warm and Hold without light, from the start of training on. -/
def Chip.spareEntry (c : Chip) (s p k : Nat) : Nat :=
  let x : Side := ⟨s, p, false⟩
  let v := c.sideState x
  if v = 2 ∨ bitOf (c.rd (fenceReg x)) k then lsFENCED
  else if v = 1 ∨ v = 3 then c.laneState s (c.sidePartner x) k
  else if c.lanes.started then (if c.sparesLit then lsMONITOR else lsHOLD) else lsOFF

/-- The ring of one wavelength of a side. -/
def Side.ring (x : Side) (k : Nat) : RingKey := ⟨x.site, x.plane, b2n x.rx, k⟩

/-- All 24 selected rings of a side are fenced (R49). -/
def Chip.fenceAllRings (c : Chip) (x : Side) : Chip := (c.wr (fenceReg x) 0xFFFFFF).fenceLoops ((List.range 24).map x.ring)

/-- The ring of one wavelength of a side is fenced. -/
def Chip.fenceRing (c : Chip) (x : Side) (k : Nat) : Chip := (c.wr (fenceReg x) (Nat.lor (c.rd (fenceReg x)) (2 ^ k))).fenceLoop (x.ring k)

/-- A group is in Hold, so that no trigger of it is evaluated, or leaves it (TNS.GROUP_TRIG.DARK). -/
def Chip.setDark (c : Chip) (s g : Nat) (b : Bool) : Chip := c.wr (R.TNS_GROUP_TRIG_DARK s g) (b2n b)

/-! Lane swatches leaving their sites. -/

/-- Whether a swatch is of a port lane. -/
def Swatch.isPort (w : Swatch) : Bool := portGroup w.site w.plane

/-- The lane of a swatch. -/
def Swatch.lane (w : Swatch) : Nat × Nat × Nat := (w.site, w.plane, w.k)

/-- TNS.SWATCH_NOW of the sites of a swatch. -/
def Chip.showSwatch (c : Chip) (w : Swatch) : Chip := c.showBooking w.sites w.site w.plane w.k w.scope

/-- A swatch leaves its sites. -/
def Chip.clearSwatch (c : Chip) (w : Swatch) : Chip :=
  let c := { c with tns := { c.tns with swatches := dropFirst (fun x => x == w) c.tns.swatches } }
  if w.begun then c.clearBooking w.sites else c

/-- A port lane goes back after its swatch: one that a spare carries returns from it (R217). -/
def Chip.portLaneReturns (c : Chip) (l : Nat × Nat × Nat) : Chip :=
  let j := 4 * (l.1 - 18) + (l.2.1 - 38)
  if c.rd (portOnRef j l.2.2 true) ≠ l.2.2 ∧ c.portUp j = true then c.calEndRequest j l.2.2 else c
def Chip.portSwatchEnds (c : Chip) (w : Swatch) : Chip := c.portLaneReturns w.lane

/-- The rings of a swatch that is given up are back at their codes before it and locked, and it is to be made again first (R109). -/
def Chip.swatchDrop (c : Chip) (w : Swatch) : Chip :=
  let c := (c.clearSwatch w).each w.codes (fun c x => if c.rd (ringLoop x.1) = loSWATCH then (c.lockRing x.1).wr (ringHeater x.1) x.2 else c)
  { c with tns := { c.tns with first := c.tns.first ++ [w.lane] } }

/-- A swatch is abandoned (R109): counted and recorded, its rings back at their codes before it and locked, the lane to return at the first boundary after a hold, and its swatch to be
made again first. One that has not begun only loses its booking. -/
def Chip.swatchAbandon (c : Chip) (w : Swatch) : Chip :=
  if !w.begun then c.clearSwatch w
  else
    let c := ((c.swatchDrop w).count (R.TNS_SWATCH_COUNT_ABANDONED w.site)).event Ev.swatchAbandoned none (Unit.lane w.site w.plane w.k false) [w.scope]
    if (Config.planeKind w.site w.plane = 3 ∧ w.isPort = false) ∨ (w.isPort = true ∧ 36 ≤ w.k ∧ w.k < 39) then c
    else { c with tns := { c.tns with returning := c.tns.returning ++ [w.lane] } }

/-- The swatches of which a ring is one of a list's are abandoned. -/
def Chip.abandonOn (c : Chip) (rings : List RingKey) : Chip :=
  c.each (c.tns.swatches.filter (fun w => w.codes.any (fun x => rings.contains x.1))) Chip.swatchAbandon

end Sys2Proof.Machine
end

