-- ==== Sys2Proof/Machine/Sparing.lean ====
section
/-! DEFINITION. The sparing engine: fences, localization, booking and applying plane substitutions, what happens when spares run out,
test substitutions (R45 to R61). -/

namespace Sys2Proof.Machine

/-! Spares. -/

/-- The spare planes of a site (R32). -/
def sparesOf (s : Nat) : List Nat := (List.range (Config.sparePlanes s)).map (fun i => Config.fixedPlanes s + Config.switchedPlanes s + i)

/-- The spare sides of a site and direction in a state. -/
def Chip.sparesIn (c : Chip) (s : Nat) (rx : Bool) (state : Nat) : List Nat := (sparesOf s).filter (fun p => c.sideState ⟨s, p, rx⟩ == state)

/-- The warm spares of a site and direction (R46, R78). -/
def Chip.warmSpares (c : Chip) (s : Nat) (rx : Bool) : List Nat := if c.sparesLit then c.sparesIn s rx 0 else []

/-- The spares that a test holds and a fault may take (R61): not one whose test ends by a fault of its own at the same boundary. -/
def Chip.testSpares (c : Chip) (s : Nat) (rx : Bool) : List Nat :=
  if c.sparesLit then (c.sparesIn s rx 3).filter (fun sp => !c.opf.booked.any (fun b => b.side == c.otherSide ⟨s, sp, rx⟩)) else []

/-- Warm spare sides in the package (OPF.STATUS.SPARES_FREE). -/
def Chip.sparesFree (c : Chip) : Nat := ((List.range 24).map (fun s => (c.warmSpares s false).length + (c.warmSpares s true).length)).sum

/-- The entries of a spare plane that is fenced show the reason (R135). -/
def Chip.spareReason (c : Chip) (x : Side) (code : Nat) : Chip :=
  if Config.planeKind x.site x.plane = 3 then c.each (List.range 24) (fun c k => c.wr (R.LANE_STATE_REASON x.site x.plane k) code) else c

/-- The reason of a booking's fault: that of its first lane. -/
def Chip.bookedCode (c : Chip) (b : Booking) : Nat := let l := b.lanes.headD (0, 0, 0)
  c.rd (R.LANE_STATE_REASON l.1 l.2.1 l.2.2)

/-! Bookings. -/

/-- Whether a booking comes before another for the last spare: localized first, then fixed before switched, then the lower plane (R51). -/
def Booking.before (a b : Booking) : Bool :=
  if a.located ≠ b.located then decide (a.located < b.located)
  else
    let ka := Config.planeKind a.side.site a.side.plane
    let kb := Config.planeKind b.side.site b.side.plane
    if ka ≠ kb then decide (ka < kb) else decide (a.side.plane < b.side.plane)

/-- A booking put in its place. -/
def insertBooking (b : Booking) : List Booking → List Booking
  | [] => [b]
  | x :: xs => if b.before x then b :: x :: xs else x :: insertBooking b xs

/-- The number of lost lanes of the skein from `s` to `d` (OPF.SKEIN_STATE.LOST). -/
def Chip.skeinLostCount (c : Chip) (s d : Nat) : Nat := (c.opf.lost.filter (fun l => l.1 == s && l.2.2 == skeinK s d)).length

/-- A fixed traffic lane is lost for the power-on period: counted for its skein, with the skein-degraded event at the threshold and for every
further loss (R55), its held stitches reissued (R134), and the skein lost with its last lane (R56). -/
def Chip.loseLane (c : Chip) (s p k : Nat) : Chip :=
  if !fixedTraffic s p k || c.opf.lost.contains (s, p, k) then c
  else
    let d := (s + k) % 24
    let c := c.onOpf (fun o => { o with lost := o.lost ++ [(s, p, k)] })
    let n := c.skeinLostCount s d
    let c := if c.rdPos R.OPF_CFG_LOSS_WARN ≤ n then
        (c.onOpf (fun o => { o with degraded := if o.degraded.contains (s, d) then o.degraded else o.degraded ++ [(s, d)] })).event
          Ev.skeinDegraded none (Unit.sitePair s d) [0, n]
      else c
    let c := c.reissue (s, p, k)
    if skeinBuilt s d ≤ n ∧ c.skeinLost s d = false then
      ((c.onOpf (fun o => { o with lostSkeins := o.lostSkeins ++ [(s, d)] })).skeinGone s d).report (Unit.sitePair s d) [] 0 0 0 actReported
    else c

/-- A switched plane side that no spare takes: a transmit plane is dark, and a circuit into a dark bank ends, its lanes parked (R54). -/
def Chip.darkSwitched (c : Chip) (x : Side) : Chip :=
  let e := switchedIndex x.site x.plane
  let lanes := c.sideLanes x
  if x.rx then
    let c := c.each (List.range 112) (fun c f =>
      if c.rd (R.CIRC_PLANE_STATE f) = 1 ∧ c.rd (R.CIRC_PLANE_DST_BANK f) = e then (c.cutRuns f).wr (R.CIRC_PLANE_STATE f) 0 else c)
    c.each lanes (fun c l => if c.laneState l.1 l.2.1 l.2.2 = lsUP then c.setLane l.1 l.2.1 l.2.2 lsPARKED else c)
  else
    let c := c.each lanes (fun c l => c.fenceLane l.1 l.2.1 l.2.2 8)
    (c.cutRuns e).wr (R.CIRC_PLANE_STATE e) 2

/-- A fault of a plane side that no spare takes (R54): the failed lanes stay fenced, their rings too; or, for a plane fault and on a switched plane, the side is fenced without a spare,
every lane of it with the side, and a spare that carried it (R53). -/
def Chip.unspared (c : Chip) (b : Booking) : Chip :=
  let x := b.side
  let rings := c.ringSide x
  let switched := Config.planeKind x.site x.plane == 2
  if b.whole || switched then
    let lanes := c.sideLanes x
    let c := c.fenceAllRings rings
    let c := (if rings = x then c else ((c.setSide rings 2 0x3F).spareReason rings (c.bookedCode b)).fenceAllRings x).setSide x 2 0x3F
    if switched then c.darkSwitched x else c.each lanes (fun c l => (c.fenceLane l.1 l.2.1 l.2.2 8).loseLane l.1 l.2.1 l.2.2)
  else c.each b.lanes (fun c l => (c.fenceRing rings l.2.2).loseLane l.1 l.2.1 l.2.2)

/-- The bookings that compete for the spares of a site and direction. -/
def Chip.rivals (c : Chip) (x : Side) : List Booking := c.opf.booked.filter (fun b => b.side.site == x.site && b.side.rx == x.rx && c.sideState b.side != 3)

/-- A plane side at fault is booked to a spare where one is left for it, at the first boundary at least 64 cycles away (R49 to R51, R54, R60). A fault in a plane side under a test
substitution is one of its test spare: it ends the test and takes no spare (R61). -/
def Chip.book (c : Chip) (b : Booking) : Chip :=
  let x := b.side
  let add := fun (c : Chip) => c.onOpf (fun o => { o with booked := insertBooking b o.booked })
  if c.opf.booked.any (fun y => y.side == x) then
    let join := fun (y : Booking) => { y with whole := y.whole || b.whole, lanes := y.lanes ++ b.lanes, guess := y.guess ++ b.guess }
    c.onOpf (fun o => { o with booked := updFirst (fun y => y.side == x) join o.booked })
  else if c.sideState x = 3 then add c
  else if !c.on R.OPF_CFG_AUTO_SPARE ∨ c.sideState x = 2 then c.unspared b
  else
    let rivals := c.rivals x
    if rivals.length < (c.warmSpares x.site x.rx).length + (c.testSpares x.site x.rx).length then add c
    else match rivals.getLast? with
      | some w => if b.before w ∧ w.row = b.row then
          (add (c.onOpf (fun o => { o with booked := dropFirst (fun y => y == w) o.booked }))).unspared w
        else c.unspared b
      | none => c.unspared b

/-! Plane faults. -/

/-- Lanes noted as fenced on a side in the present row, whichever side their fault was localized to (R48). -/
def Chip.fencedInRow (c : Chip) (x : Side) : List (Nat × Nat × Nat) :=
  ((c.opf.fences.filter (fun f => f.row == c.row && (f.side == x || f.other == x))).map (·.lane)).eraseDups

/-- Enough lanes of a side are fenced in the present row for a plane fault of the first kind (R48). -/
def Chip.planeFaulty (c : Chip) (x : Side) : Bool := decide (max 2 (c.rd R.OPF_CFG_PLANE_FAULT_LANES) ≤ (c.fencedInRow x).length)

/-- A plane fault of the first kind localizes the lanes of the side to it without further tests: what was booked in this row for them on a mere guess is not (R48; log entry 118). -/
def Chip.localizeTo (c : Chip) (x : Side) : Chip :=
  let mine := c.fencedInRow x
  c.onOpf (fun o => { o with
    fences := o.fences.map (fun f => if f.row = c.row ∧ f.other = x then { f with side := x, other := f.side } else f)
    booked := (o.booked.map (fun b => if b.side = x ∨ b.whole then b
      else { b with lanes := b.lanes.filter (fun l => !(mine.contains l && b.guess.contains l)), guess := b.guess.filter (fun l => !mine.contains l) })).filter
        (fun b => !b.lanes.isEmpty) })

/-- What a fault report says became of a side: spared, or fenced. -/
def Chip.sideAction (c : Chip) (x : Side) : Nat := if c.opf.booked.any (fun y => y.side == x) then actSpared else actFenced

/-- A warm spare side fails: it is fenced (R45, R53). -/
def Chip.spareFails (c : Chip) (x : Side) (k code : Nat) : Chip :=
  (((c.setSide x 2 0x3F).fenceAllRings x).spareReason x code).report (Unit.lane x.site x.plane k x.rx) [] 0 0 code actFenced

/-- The own rings of a plane side under a test substitution fail: the substitution becomes one for a fault (R61). -/
def Chip.ownSideFails (c : Chip) (x : Side) (k code : Nat) : Chip :=
  let sp := c.otherSide x
  ((((c.setSide x 1 sp.plane).setSide sp 1 x.plane).fenceAllRings x).event Ev.substitution none (Unit.lane x.site x.plane k x.rx)
    [x.site, x.plane, b2n x.rx, sp.plane, c.row]).report (Unit.lane x.site x.plane k x.rx) [] 0 0 code actSpared

/-- The lanes of a plane side that are in service are fenced with code 0x8, and the side is booked as a whole (R48, R97). -/
def Chip.sideFails (c : Chip) (x : Side) : Chip :=
  let live := (c.sideLanes x).filter (fun l => c.laneState l.1 l.2.1 l.2.2 != lsFENCED && c.laneState l.1 l.2.1 l.2.2 != lsOFF)
  let c := c.each live (fun c l =>
    (c.fenceLane l.1 l.2.1 l.2.2 8).onOpf (fun o => { o with fences := o.fences ++ [(⟨l, x, x, c.row⟩ : FenceNote)] }))
  let c := c.book ⟨x, if live.isEmpty then [(x.site, x.plane, 0)] else live, [], c.cycles, true, c.boundaryAfter 64⟩
  let l := live.headD (x.site, x.plane, 0)
  c.report (Unit.lane l.1 l.2.1 l.2.2 x.rx) [] 0 0 8 (c.sideAction x)

/-- The rings of a plane side fail as a whole (R48, R97). Rings that a spare already stands in for carry nothing; a spare in service fails as the side it carries. -/
def Chip.planeFault (c : Chip) (x : Side) : Chip :=
  let st := c.sideState x
  if st = 2 then c
  else if Config.planeKind x.site x.plane = 3 then (if st = 0 then c.spareFails x 0 8 else c.sideFails (c.otherSide x))
  else if st = 0 then c.sideFails x
  else if st = 3 then c.ownSideFails x 0 8
  else c

/-! Fences. -/

/-- The side to which the fault of a lane is localized (R47, R50): by the test that is conclusive, else the transmit side, or the receive side with RX_FIRST; the other side where the
lane is fenced again within two rows of a substitution made on an inconclusive test. -/
def Chip.localize (c : Chip) (tx rx : Side) (before : Option Booking) (txFault rxFault : Bool) : Side :=
  match before with
  | some g => if g.side.rx then tx else rx
  | none => if txFault then tx else if rxFault then rx else if c.on R.OPF_CFG_RX_FIRST then rx else tx

/-- A lane is fenced on an indication, the fault localized and the plane side booked (R47 to R52, R133). The fence of a spare plane's own entry is one of the spare, or of the lane
that it carries. A lane that is fenced already keeps its first code, but for a lower one of the same cycle (R136). -/
def Chip.fenceOwn (c : Chip) (s p k code : Nat) (txFault rxFault : Bool) : Chip :=
  if c.fenceHeld s p k code || c.laneState s p k == lsOFF || Config.planeKind s p == 0 then c
  else if c.laneState s p k = lsFENCED then c.fenceLane s p k code
  else
    let trunk := !c.on R.OPF_STATUS_DETECT_HOLD && c.rd R.LSU_STATUS_MODE != 0 && !c.laneDark s p k
    let c := c.fenceLane s p k code
    let tx : Side := ⟨s, p, false⟩
    let rx := (c.rxSide s p k).getD tx
    let before := c.opf.guessed.find? (fun g => g.guess.contains (s, p, k) && decide (c.row ≤ g.row + 2))
    let first := c.localize tx rx before txFault rxFault
    let far := if first.rx then tx else rx
    let c := c.onOpf (fun o => { o with fences := o.fences ++ [(⟨(s, p, k), first, far, c.row⟩ : FenceNote)] })
    let whole1 := c.planeFaulty first || c.planeFaulty far
    let side := if c.planeFaulty first || !c.planeFaulty far then first else far
    let c := if whole1 then c.localizeTo side else c
    let whole := whole1 || (selfTest s p k && ((code == 1 && trunk) || before.any (·.whole)))
    let guess := !txFault && !rxFault && !whole1 && before.isNone
    let unit := Unit.lane s p k side.rx
    let c := if code = 0xB then c.event Ev.injectedFence none unit [] else c
    if !trafficLane s p k && !whole then ((c.fenceRing (c.ringSide side) k).event Ev.testLaneFault none unit [code]).report unit [] 0 0 code actFenced
    else
      let c := c.book ⟨side, [(s, p, k)], if guess then [(s, p, k)] else [], c.cycles, whole, c.boundaryAfter 64⟩
      c.report unit [] 0 0 code (c.sideAction side)

/-- Whether a fence indication of a warm spare's own lane is held off: as for any lane under calibration or a detection hold (R57, R58), and loss of light, lock or alignment while the spares
have no light (R78, R133). -/
def Chip.spareFenceHeld (c : Chip) (s p k code : Nat) : Bool :=
  c.fenceHeld s p k code || ((decide (1 ≤ code ∧ code ≤ 4) || code == 6) && !c.sparesLit)

/-- A lane by the name of a fixed or switched plane, or of a spare plane's own entry, is fenced. -/
def Chip.fence (c : Chip) (s p k code : Nat) (txFault rxFault : Bool) : Chip :=
  if Config.planeKind s p = 3 then
    let x : Side := ⟨s, p, rxFault⟩
    let st := c.sideState x
    if st = 2 ∨ (1 ≤ code ∧ code ≤ 4 ∧ c.on R.OPF_STATUS_DETECT_HOLD = true) then c
    else if st = 0 then (if c.spareFenceHeld s p k code then c else c.spareFails x k code)
    else match (c.sideLanes (c.otherSide x)).find? (fun l => l.2.2 == k) with
      | some l => c.fenceOwn l.1 l.2.1 l.2.2 code (!rxFault) rxFault
      | none => c
  else c.fenceOwn s p k code txFault rxFault

/-- A lane fence by a sign of R133. -/
def Chip.fenceSign (c : Chip) (f : FenceSign) : Chip := c.fence f.lane.site f.lane.plane f.lane.k f.code f.txFault f.rxFault

/-! Substitutions. -/

/-- The lanes of a side that changes rings hold until their receivers have re-acquired (R49, R135): lanes in service, lanes whose swatch is abandoned or whose pattern run ends, and the lanes that a
fence of that side took, which are no longer lost. A bank's new receivers have locked to no source yet (R119, R185). -/
def Chip.holdSide (c : Chip) (x : Side) : Chip :=
  let lanes := c.sideLanes x
  let noted := (c.opf.fences.filter (fun f => f.side == x)).map (·.lane)
  let c := c.each lanes (fun c l =>
    let st := c.laneState l.1 l.2.1 l.2.2
    if st = lsUP ∨ st = lsMONITOR ∨ st = lsPARKED ∨ st = lsCAL ∨ st = lsTEST ∨ (st = lsFENCED ∧ noted.contains l = true) then c.setLane l.1 l.2.1 l.2.2 lsHOLD else c)
  let c := c.onOpf (fun o => { o with reacquiring := if o.reacquiring.contains x then o.reacquiring else o.reacquiring ++ [x]
                                      fences := o.fences.filter (fun f => f.side != x)
                                      lost := o.lost.filter (fun l => !(lanes.contains l && noted.contains l)) })
  if x.rx then c.onLanes (fun y => { y with phases := y.phases.filter (fun e => !(e.1.1 == x.site && e.1.2.1 == x.plane)) }) else c

/-- The pending calibration of a plane's group leaves the rings of the side that a spare replaces, and its triggers pass to the spare's group (R109). -/
def Chip.passTriggers (c : Chip) (x sp : Side) : Chip :=
  match c.calibOf x.site x.plane with
  | none => c
  | some _ =>
    let bits := (List.range 5).filter (fun b => bitOf (c.word (R.TNS_GROUP_TRIG x.site x.plane)).toNat b && b != 0)
    (c.each bits (fun c b => c.trigger sp.site sp.plane b)).ringsDone ((List.range 24).map x.ring)

/-- The swatches of a list of lanes are abandoned, and their pattern runs, which are swatches, end (R109, R139; log entry 129). -/
def Chip.clearLanes (c : Chip) (lanes : List (Nat × Nat × Nat)) : Chip :=
  (c.each (c.tns.swatches.filter (fun w => lanes.contains w.lane)) Chip.swatchAbandon).each (c.lanes.runs.filter (fun r => lanes.contains (r.site, r.plane, r.k)))
    (fun c r => c.endTests r.site r.plane r.k 7)

/-- A spare side takes a plane side for a fault or for a test: swatches of the plane side's lanes are abandoned, its pending triggers pass on, the spare has its port, its lanes hold, and
the substitution is counted and recorded with the row (R49, R59, R61, R109). -/
def Chip.joinSpare (c : Chip) (x sp : Side) (state k : Nat) : Chip :=
  let c := c.clearLanes (c.sideLanes x)
  let c := c.passTriggers (c.ringSide x) sp
  let c := ((c.setSide x state sp.plane).setSide sp state x.plane).holdSide x
  (c.count R.OPF_SUBST_COUNT_COUNT).event Ev.substitution none (Unit.lane x.site x.plane k x.rx) [x.site, x.plane, b2n x.rx, sp.plane, c.row]

/-- A test substitution ends: the plane's own side returns and the spare takes a state. -/
def Chip.endTest (c : Chip) (x : Side) (spareState : Nat) : Chip :=
  let sp := c.otherSide x
  let c := c.clearLanes (c.sideLanes x)
  ((c.setSide x 0 0x3F).setSide sp spareState 0x3F).holdSide x

/-- The spare that a booking takes: the lowest warm one, else one that a test holds, whose test ends (R61). -/
def Chip.takeSpare (c : Chip) (x : Side) : Option (Nat × Chip) :=
  match (c.warmSpares x.site x.rx).head? with
  | some sp => some (sp, c)
  | none => match (c.testSpares x.site x.rx).head? with
    | some sp => some (sp, c.endTest (c.otherSide ⟨x.site, sp, x.rx⟩) 0)
    | none => none

/-- A booked substitution is applied at its boundary (R49, R53, R61): the rings that the lanes leave are fenced, those of a spare that failed in service with the spare. -/
def Chip.substitute (c : Chip) (b : Booking) : Chip :=
  let x := b.side
  if c.sideState x = 3 then
    let sp := c.otherSide x
    ((c.endTest x 2).spareReason sp (c.bookedCode b)).fenceAllRings sp
  else match c.takeSpare x with
  | none => c.unspared b
  | some (sp, c) =>
    let left := c.ringSide x
    let code := c.bookedCode b
    let c := c.joinSpare x ⟨x.site, sp, x.rx⟩ 1 (b.lanes.headD (0, 0, 0)).2.2
    let c := (if left = x then c else (c.setSide left 2 0x3F).spareReason left code).fenceAllRings left
    if b.guess.isEmpty then c else c.onOpf (fun o => { o with guessed := o.guessed ++ [b] })

/-- A result of a test-substitution request (R61). -/
def Chip.substResult (c : Chip) (site status : Nat) : Chip :=
  (c.wr (R.SITE_SUBST_RESULT_STATUS site) status).wr (R.SITE_SUBST_RESULT_ROW site) c.row16

/-- The status that a test-substitution request would have now: that of the first check that fails, or 1 (R61). -/
def Chip.substStatus (c : Chip) (r : SubstReq) : Nat :=
  let x := r.side
  let kind := Config.planeKind x.site x.plane
  if r.go && r.restore then 5
  else if r.restore then (if c.sideState x ≠ 3 ∨ kind = 3 then 4 else 1)
  else if !(kind == 1 || kind == 2) || c.sideState x != 0 then 3
  else if (c.warmSpares x.site x.rx).contains r.spare = false then 2
  else 1

/-- A test-substitution request at its boundary: the first check that fails gives its status (R61). -/
def Chip.testSubst (c : Chip) (r : SubstReq) : Chip :=
  let status := c.substStatus r
  (if status ≠ 1 then c else if r.restore then c.endTest r.side 0 else c.joinSpare r.side ⟨r.side.site, r.spare, r.side.rx⟩ 3 0).substResult r.site status

/-- Step 1 of a row boundary: the substitutions booked for it, then the test substitutions in the order of their writes (R175; log entry 119). -/
def Chip.sparingStep (c : Chip) : Chip :=
  let due := c.opf.booked.filter (fun b => decide (b.row ≤ c.row))
  let reqs := c.opf.substReqs.filter (fun r => decide (r.row ≤ c.row))
  let c := c.onOpf (fun o => { o with booked := o.booked.filter (fun b => !decide (b.row ≤ c.row))
                                      substReqs := o.substReqs.filter (fun r => !decide (r.row ≤ c.row)) })
  (c.each due Chip.substitute).each reqs Chip.testSubst

/-- The receivers fed by a substituted side have re-acquired: its lanes are in service again, and those that hold frames go back once, counted in LANE.RETRY
and not in the window (R49, R132). A lane that is dark, or whose other side re-acquires still, holds on. -/
def Chip.reacquired (c : Chip) (x : Side) : Chip :=
  if c.opf.reacquiring.contains x then
    let c := c.onOpf (fun o => { o with reacquiring := o.reacquiring.filter (fun y => y != x) })
    c.each (c.sideLanes x) (fun c l =>
      if c.laneState l.1 l.2.1 l.2.2 = lsHOLD ∧ c.laneDark l.1 l.2.1 l.2.2 = false ∧ c.opf.reacquiring.any (fun y => (c.sideLanes y).contains l) = false then
        let c := (c.setLane l.1 l.2.1 l.2.2 (c.serviceState l.1 l.2.1 l.2.2)).phaseLocked l
        if (c.linkTx l).replay.isEmpty then c else (c.goBack l).retryEvent l false
      else c)
  else c

/-- SITE.SUBST_REQ: a write with GO or RESTORE is a request for the boundary at which the write takes effect (R61). Several requests for one boundary are all kept, each with the PLANE,
SPARE and DIR of its own write (log entry 119). -/
def substHook (site v : Nat) : WriteHook :=
  .does (fun c => if bitOf v 31 || bitOf v 30 then
    c.onOpf (fun o => { o with substReqs := o.substReqs ++
      [(⟨site, bitOf v 31, bitOf v 30, ⟨site, fget v 5 0, bitOf v 16⟩, fget v 13 8, c.wRow⟩ : SubstReq)] }) else c)

/-! The commands. -/

/-- LANE_FENCE (R133, R210): a fence indication of an on-package lane or of a port lane. -/
def execLaneFence (t : FenceTarget) (s : State) : Result :=
  .next (s.onChip (fun c => match t with
    | .pkg sign => c.fenceSign sign
    | .port j l incoming code => c.fencePortSign j l incoming code))

/-- RECEIVER_REACQUIRED (R49). -/
def execReceiverReacquired (site : Fin 24) (plane : Fin 42) (rx : Bool) (s : State) : Result :=
  .next (s.onChip (fun c => c.reacquired ⟨site.val, plane.val, rx⟩))

/-- SUBST_GO: a write of SITE.SUBST_REQ (R61). -/
def execSubstGo (req : Requester) (site : Fin 24) (v : BitVec 32) (s : State) : Result :=
  .next (s.onChip (fun c => c.writeReg req (R.SITE_SUBST_REQ site.val) v.toNat (substHook site.val v.toNat)))

/-- SUBST_RESTORE: a write of SITE.SUBST_REQ (R61). -/
def execSubstRestore (req : Requester) (site : Fin 24) (v : BitVec 32) (s : State) : Result :=
  .next (s.onChip (fun c => c.writeReg req (R.SITE_SUBST_REQ site.val) v.toNat (substHook site.val v.toNat)))

end Sys2Proof.Machine
end

