-- ==== Sys2Proof/Machine/Tension.lean ====
section
/-! DEFINITION. Tension control: visits and the loop law, searches, loss of lock, readings of calibration groups and their triggers, the swatch scheduler and lane swatches, user offsets,
gauge checks (R86 to R115). -/

namespace Sys2Proof.Machine

/-! Readings and triggers. -/

/-- The mean of a list of readings, as a whole number of their unit. -/
def meanOf (l : List Int) : Int := if l.isEmpty then 0 else l.sum / l.length

/-- Since which row a ring's code lies outside its band, H / 2 to 64,511, brought up to date (R100, EDGE). -/
def Chip.watchBand (c : Chip) (x : RingKey) : Chip :=
  let code : Int := c.rd (ringHeater x)
  if c.rd (ringLoop x) = loLOCKED ∧ (code < c.headroom x / 2 ∨ 64511 < code) then
    (if (getKey x c.tns.outside).isSome then c else { c with tns := { c.tns with outside := putKey x c.row c.tns.outside } })
  else { c with tns := { c.tns with outside := delKey x c.tns.outside } }

/-- The feedforward of a ring for a change `dsum` of the sum of eight readings (R91): loops whose law runs, and those in Hold (R92). -/
def Chip.feedForward (c : Chip) (x : RingKey) (dsum : Int) : Chip :=
  let l := c.rd (ringLoop x)
  if l = loACQUIRE ∨ l = loLOCKED ∨ l = loHOLD then
    c.wr (ringHeater x) (clampCode (c.rd (ringHeater x)) (-(c.codesFor (ringState x) (dsum * c.liveTc (ringState x) * 10 / 64))))
  else c

/-- The TEMP and LOAD triggers of a group (R100): not for a group in Hold, not before its first calibration has given it references (log entry 120), and not during its own
calibration (R101). -/
def Chip.groupTriggers (c : Chip) (s g : Nat) : Chip :=
  if !c.on (R.TNS_CFG_AUTO_SWATCH s) || c.on (R.TNS_GROUP_TRIG_DARK s g) || c.rd (R.TNS_GROUP_COUNT_COUNT s g) == 0 || (c.calibOf s g).any (·.started) then c
  else
    let dT := (toSigned 16 (c.rd (R.TNS_GROUP_TEMP_NOW s g)) - toSigned 16 (c.rd (R.TNS_GROUP_TEMP_REF s g))).natAbs
    let c := if c.rdPos (R.TNS_CFG_TEMP_DELTA s) < dT then c.triggerTimed s g 1 else c
    let pct := c.rd (R.TNS_CFG_LOAD_PCT s)
    let ref := c.rd (R.TNS_GROUP_TRIG_P_REF s g)
    if pct ≠ 0 ∧ pct * ref < 100 * absDiff (c.rd R.PWR_MEAN_MEAN_W) ref then c.triggerTimed s g 2 else c

/-- One group's reading at a row boundary, with the scale correction of its site (R91, R100, R110): the feedforward of its rings, once eight earlier readings give a mean (log entry
120), its mean of the last 64 rows or of as many as there are, its triggers. -/
def Chip.groupRow (c : Chip) (s g : Nat) (reading : Int) : Chip :=
  let old := (getKey (s, g) c.tns.temps).getD []
  let new := (c.scaled s reading :: old).take 64
  let c := { c with tns := { c.tns with temps := putKey (s, g) new c.tns.temps } }
  let dsum := (new.take 8).sum - (old.take 8).sum
  let c := if c.on (R.TNS_CFG_FF_EN s) && decide (8 ≤ old.length) then c.each (groupRings s g) (fun c x => c.feedForward x dsum) else c
  let c := c.each (groupRings s g) Chip.watchBand
  (c.wr (R.TNS_GROUP_TEMP_NOW s g) (ofSigned 16 (meanOf new))).groupTriggers s g

/-! Loss of lock, and rings that do not lock. -/

/-- A ring fails with a code (R94, R93, R106): it is fenced, and its lane fenced and localized to the ring's side, unless the fence is held off, as it is for a lit ring of a lane that is dark at its other end (R78). A failure of the own rings of a plane
side under a test substitution makes that substitution one for a fault (R61). Port rings are the port's (R210). -/
def Chip.ringFault (c : Chip) (x : RingKey) (code : Nat) : Chip :=
  if x.isPort then
    (if c.portFenceHeld x.port x.k (x.d == 1) code then c else (c.fenceLoop x).fencePort x.port x.k (x.d == 1) code)
  else
    let loss := decide (1 ≤ code) && decide (code ≤ 4)
    if loss && c.on R.OPF_STATUS_DETECT_HOLD then c
    else if c.sideState x.side = 3 ∧ Config.planeKind x.site x.plane ≠ 3 then c.ownSideFails x.side x.k code
    else match c.laneOfRing x with
    | none => c
    | some l => if c.fenceHeld l.1 l.2.1 l.2.2 code || (code == 0xA && c.laneDark l.1 l.2.1 l.2.2 && !c.ringDark x) then c else (c.fenceRing x.side x.k).fence l.1 l.2.1 l.2.2 code (x.d == 0) (x.d == 1)

/-- A locked loop reports loss of lock (R94). -/
def Chip.ringLost (c : Chip) (x : RingKey) : Chip := if c.rd (ringLoop x) = loLOCKED then c.ringFault x (if x.d = 0 then 3 else 4) else c

/-! Visits. -/

/-- The rows that a swatch has run, without those for which it stood still (R96, R104). -/
def Chip.swatchRows (c : Chip) (w : Swatch) : Nat := c.row - w.start - w.gap

/-- The row of a ring's own part of a swatch: in a swatch of both scopes the receive filter follows 128 rows after the transmit ring (R104). -/
def Chip.ringStep (c : Chip) (w : Swatch) (x : RingKey) : Nat := if w.scope = 3 ∧ x.d = 1 then c.swatchRows w - 128 else c.swatchRows w

/-- A searching or swept ring meets a drop power; the highest is kept with its code (R93, R104). -/
def Chip.meetPower (c : Chip) (x : RingKey) (p : Int) : Chip :=
  if (getKey x c.tns.best).all (fun b => decide (b.1 < p)) then { c with tns := { c.tns with best := putKey x (p, c.rd (ringHeater x)) c.tns.best } } else c

/-- The loop law of a ring for a detuning `e` in 0.01 GHz (R91). -/
def Chip.loopLaw (c : Chip) (x : RingKey) (e : Int) : Chip :=
  c.wr (ringHeater x) (clampCode (c.rd (ringHeater x)) (c.codesFor (ringState x) (e * 10 * (c.rdPos (R.TNS_CFG_GAIN x.site) : Int) / 16)))

/-- Consecutive visits within 1.0 GHz (R93): four of them are a lock, which stands. -/
def Chip.goodVisits (c : Chip) (x : RingKey) (e : Int) : Nat :=
  let n := (getKey x c.tns.good).getD 0
  if 4 ≤ n then 4 else if e.natAbs < 100 then n + 1 else 0
def Chip.setGood (c : Chip) (x : RingKey) (n : Nat) : Chip := { c with tns := { c.tns with good := if n = 0 then delKey x c.tns.good else putKey x n c.tns.good } }

/-- Whether a list of rings has marked a ring, and the list with the mark set as a visit finds it. -/
def markRing (l : List RingKey) (x : RingKey) (b : Bool) : List RingKey := if b then (if l.contains x then l else l ++ [x]) else l.filter (fun y => y != x)

/-- The detuning of a ring that a visit finds, in 0.01 GHz: the in-phase result of the monitor converter, with its scale correction, divided by the ring's slope (R90, R110). -/
def Chip.detuneOf (c : Chip) (x : RingKey) (inPhase : Int) : Int := clampSigned 16 (100 * c.scaled x.site inPhase / (c.slopeOf x : Int))

/-- A visit of a ring (R90 to R94): the in-phase result divided by the ring's slope is its detuning `e`, here in 0.01 GHz; the monitor power is in 0.01 dBm. A searching or swept ring
keeps the highest power; visits count towards a lock in the 79 rows of the acquisition window of a swatch (R93, R104). Two consecutive visits of a locked ring beyond 6.0 GHz, or with the code at an end of its range, are a loss of lock. -/
def Chip.visit (c : Chip) (x : RingKey) (inPhase p : Int) : Chip :=
  let l := c.rd (ringLoop x)
  let e := c.detuneOf x inPhase
  let power := clampSigned 16 (c.scaledPower x.site p)
  let c := (c.wr (ringDetune x) (ofSigned 16 e)).wr (ringPower x) (ofSigned 16 power)
  if l = loSEARCH then c.meetPower x power
  else if l = loSWATCH then
    match c.tns.swatches.find? (fun w => w.codes.any (fun y => y.1 == x)) with
    | none => c
    | some w =>
      let m := c.ringStep w x
      if 1 ≤ m ∧ m ≤ 49 then c.meetPower x power else if 50 ≤ m ∧ m ≤ 128 then (c.loopLaw x e).setGood x (c.goodVisits x e) else c
  else if l = loACQUIRE then
    let n := c.goodVisits x e
    let c := c.loopLaw x e
    if 4 ≤ n then (c.setGood x 0).lockRing x else c.setGood x n
  else if l = loLOCKED then
    let c := c.loopLaw x e
    let atEnd := c.rd (ringHeater x) == 0 || c.rd (ringHeater x) == 65535
    let far := decide (600 < e.natAbs)
    let twice := (atEnd && c.tns.atEnd.contains x) || (far && c.tns.beyond.contains x)
    let c := { c with tns := { c.tns with atEnd := markRing c.tns.atEnd x atEnd, beyond := markRing c.tns.beyond x far } }
    if twice = true then c.ringLost x else c
  else c

/-! Searches. -/

/-- Rings begin a search around their predicted position (R75, R81, R93, R214). -/
def Chip.beginSearch (c : Chip) (l : List RingKey) : Chip :=
  let groups := (l.map RingKey.group).eraseDups
  let c := { c with tns := { c.tns with best := c.tns.best.filter (fun b => !l.contains b.1), good := c.tns.good.filter (fun b => !l.contains b.1)
                                        searches := c.tns.searches.filter (fun (y : (Nat × Nat) × Nat) => !groups.contains y.1) ++ groups.map (fun (g : Nat × Nat) => (g, c.row)) } }
  c.each l (fun c x => c.wr (ringLoop x) loSEARCH)

/-- One row of the searches (R92, R93): 49 steps of 0.5 GHz over ±12 GHz; then the step of highest drop power, and Acquire. -/
def Chip.searchStep (c : Chip) : Chip :=
  if c.tns.searches.isEmpty then c
  else
    let c := c.each (c.ringsIn [loSEARCH]) (fun c x =>
      match getKey x.group c.tns.searches with
      | none => c
      | some r =>
        let n := c.row - r
        if n ≤ 49 then c.wr (ringHeater x) (clampCode 0 (c.predicted x + c.codesFor (ringState x) (((n : Int) - 25) * 500)))
        else (c.wr (ringHeater x) (match getKey x c.tns.best with
          | some b => b.2
          | none => clampCode 0 (c.predicted x))).wr (ringLoop x) loACQUIRE)
    { c with tns := { c.tns with searches := c.tns.searches.filter (fun g => decide (c.row < g.2 + 50)) } }

/-! The swatch scheduler. -/

/-- The class of a pending calibration in the order of R103: EDGE, MANUAL, TEMP and LOAD; none while all of its triggers wait for MIN_INTERVAL (R101). -/
def Chip.calibClass (c : Chip) (k : Calib) : Option Nat :=
  let may := fun (b : Nat) => bitOf (c.word (R.TNS_GROUP_TRIG k.site k.group)).toNat b && !c.tns.heldTrig.contains (k.site, k.group, b)
  if may 4 then some 0 else if may 3 then some 1 else if may 1 || may 2 then some 2 else none

/-- The place of a lane in the order of R103: an abandoned swatch first (R109); the class; for TEMP and LOAD the largest change of temperature; plane; wavelength; then the site (log
entry 121). -/
def Chip.swatchRank (c : Chip) (k : Calib) (cls : Nat) (l : Nat × Nat × Nat) : List Nat :=
  let dT := (toSigned 16 (c.rd (R.TNS_GROUP_TEMP_NOW k.site k.group)) - toSigned 16 (c.rd (R.TNS_GROUP_TEMP_REF k.site k.group))).natAbs
  [b2n (!c.tns.first.contains l), cls, if cls = 2 then 65536 - dT else 0, l.2.1, l.2.2, l.1]

/-- Whether a rank comes before another. -/
def rankBefore : List Nat → List Nat → Bool
  | [], _ => false
  | _ :: _, [] => false
  | a :: as, b :: bs => if a = b then rankBefore as bs else decide (a < b)

/-- The lanes that wait for a swatch, each with its rank and the row since which it waits. -/
def Chip.swatchQueue (c : Chip) : List (List Nat × (Nat × Nat × Nat) × Nat) :=
  c.tns.calibs.flatMap (fun k => match c.calibClass k with
    | none => []
    | some cls => k.left.filterMap (fun x => (c.laneOfRing x).map (fun l => (c.swatchRank k cls l, l, k.row))))

/-- The first of a queue. -/
def firstOf (l : List (List Nat × (Nat × Nat × Nat) × Nat)) : Option ((Nat × Nat × Nat) × Nat) :=
  (l.foldl (fun (b : Option (List Nat × (Nat × Nat × Nat) × Nat)) x => match b with
    | none => some x
    | some y => if rankBefore x.1 y.1 then some x else some y) none).map (·.2)

/-- The rings that wait for a swatch of a lane: both scopes are one swatch, for one group or for two (R102). -/
def Chip.ringsOfLane (c : Chip) (l : Nat × Nat × Nat) : List RingKey :=
  (c.tns.calibs.filter (fun k => (c.calibClass k).isSome)).flatMap (fun k => k.left.filter (fun x => c.laneOfRing x == some l))

/-- Whether a port lane may be swatched: its port carries nothing, a calibration spare has its traffic in both directions, or it is an idle spare (R108, R217). -/
def Chip.portLaneReady (c : Chip) (j l : Nat) : Bool :=
  let moved := fun (inc : Bool) => let on := c.rd (portOnRef j l inc)
    decide (36 ≤ on) && decide (on < 39) && on != l && c.rd (spareStateRef j inc (on - 36)) == 2
  let idle := fun (inc : Bool) => c.rd (spareStateRef j inc (l - 36)) == 0
  !c.portUp j || (if decide (36 ≤ l) && decide (l < 39) then idle true && idle false else moved true && moved false)

/-- Whether the scheduler may book a lane for the next boundary (R103, R107, R108): its sites hold no other swatch, its rings are locked, and it is in service; a lane of a plane that a
circuit points waits for the release, at most CIRC_WAIT × 64 rows. -/
def Chip.mayBook (c : Chip) (l : Nat × Nat × Nat) (since : Nat) : Bool :=
  let (s, p, k) := l
  let st := c.laneState s p k
  let pointed := Config.planeKind s p == 2 && c.rd (R.CIRC_PLANE_STATE (switchedIndex s p)) == 1
  let ready := if portGroup s p then c.portLaneReady (4 * (s - 18) + (p - 38)) k
    else if Config.planeKind s p = 3 then true
    else (st == lsUP || st == lsPARKED || st == lsMONITOR) && (!pointed || decide (since + 64 * c.rd (R.TNS_CFG2_CIRC_WAIT s) ≤ c.row))
  ready && (c.laneSites s p k).all (fun x => !c.siteBooked x) && (c.ringsOfLane l).all (fun x => c.rd (ringLoop x) == loLOCKED)

/-- Whether a calibration move of a port is asked for, agreed or in force. -/
def Chip.calAsked (c : Chip) (j : Nat) : Bool :=
  c.edge.msgs.any (fun m => m.1 == j && m.2.1 / 2 ^ 60 == 5) || c.edge.moves.any (fun m => m.port == j && m.cal)
    || [false, true].any (fun inc => (List.range 3).any (fun n => c.rd (spareStateRef j inc n) == 2))

/-- A port whose lane is the first to wait asks its partner to move a lane to a spare, once (R108, R217). -/
def Chip.askPorts (c : Chip) : Chip :=
  c.each ((List.range 16).filter c.portUp) (fun c j =>
    let s := 18 + j / 4
    let p := 38 + j % 4
    match firstOf (c.swatchQueue.filter (fun x => x.2.1.1 == s && x.2.1.2.1 == p && !c.portLaneReady j x.2.1.2.2)) with
    | some (l, _) => if c.calAsked j ∨ (36 ≤ l.2.2 ∧ l.2.2 < 39) then c else c.calRequest j l.2.2
    | none => c)

/-- The scheduler books the first lane that can be booked, for the next row boundary, while a PCU holds the token (R103). -/
def Chip.swatchBook (c : Chip) : Chip :=
  if !c.tokenHeld || c.on R.OPF_STATUS_DETECT_HOLD then c
  else match firstOf (c.swatchQueue.filter (fun x => c.mayBook x.2.1 x.2.2)) with
  | none => c.askPorts
  | some (l, _) =>
    let rings := c.ringsOfLane l
    let scope := b2n (rings.any (fun x => x.d == 0)) + 2 * b2n (rings.any (fun x => x.d == 1))
    let w : Swatch := { site := l.1, plane := l.2.1, k := l.2.2, scope := scope, start := c.row + 1, sites := c.laneSites l.1 l.2.1 l.2.2, codes := rings.map (fun x => (x, 0)) }
    { c with tns := { c.tns with swatches := c.tns.swatches ++ [w], first := c.tns.first.filter (fun x => x != l) } }.askPorts

/-! Lane swatches. -/

/-- A change to a swatch in progress. -/
def Chip.updSwatch (c : Chip) (w : Swatch) (f : Swatch → Swatch) : Chip := { c with tns := { c.tns with swatches := updFirst (fun x => x == w) f c.tns.swatches } }

/-- A booked swatch begins at its boundary b (R104): the lane leaves service, its rings are driven by the swatch, and the calibrations of its groups have begun. Without the token, or
where its lane can no longer be taken, the booking is gone. -/
def Chip.swatchBegin (c : Chip) (w : Swatch) : Chip :=
  let dropped := c.clearSwatch w
  let since := ((c.tns.calibs.filter (fun k => w.codes.any (fun x => k.left.contains x.1))).map (·.row)).foldl min c.row
  if !c.tokenHeld || c.on R.OPF_STATUS_DETECT_HOLD || !dropped.mayBook w.lane since then dropped
  else
    let rings := w.codes.map (·.1)
    let w' := { w with begun := true, start := c.row, codes := rings.map (fun x => (x, c.rd (ringHeater x))) }
    let c := c.updSwatch w (fun _ => w')
    let c := { c with tns := { c.tns with best := c.tns.best.filter (fun b => !rings.contains b.1), good := c.tns.good.filter (fun b => !rings.contains b.1) } }
    let c := c.each ((rings.map RingKey.group).eraseDups) (fun c g => c.updCalib g.1 g.2 (fun k => { k with started := true }))
    let c := c.each rings (fun c x => c.wr (ringLoop x) loSWATCH)
    (if w.isPort || Config.planeKind w.site w.plane == 3 || c.laneState w.site w.plane w.k == lsMONITOR then c else c.setLane w.site w.plane w.k lsCAL).showSwatch w'

/-- The row at whose boundary a swatch returns its lane (R104, R96). -/
def Swatch.returnRow (w : Swatch) : Nat := w.start + w.gap + (if w.scope = 3 then 258 else 130)

/-- The lane of a swatch that has ended returns to service; its rings are done, and so is a group with its last lane swatch (R104, R105, R217). -/
def Chip.swatchReturn (c : Chip) (w : Swatch) : Chip :=
  let c := c.clearSwatch w
  let c := if w.isPort then c.portSwatchEnds w else c.laneReturns w.lane
  c.ringsDone (w.codes.map (·.1))

/-- One row of a swatch that runs (R96, R104): one whose port lane returns from its spare before its end is over, counted already (R218); it stands still without the token; in its second row the stitches not acknowledged are reissued; each ring is swept over 49 points of ±12
GHz around its last position and set to the centre found. -/
def Chip.swatchRow (c : Chip) (w : Swatch) : Chip :=
  let spareTaken := fun (inc : Bool) => decide (36 ≤ w.k) && decide (w.k < 39) && c.rd (spareStateRef (4 * (w.site - 18) + (w.plane - 38)) inc (w.k - 36)) == 1
  if w.ended.isNone ∧ w.isPort = true ∧ (spareTaken true || spareTaken false) = true then c.swatchAbandon w
  else if w.ended.isNone ∧ w.isPort = true ∧ c.edge.moves.any (fun m => m.port == 4 * (w.site - 18) + (w.plane - 38) && m.lane == w.k && m.ending && decide (m.row ≤ c.row)) then c.swatchDrop w
  else if w.ended.isSome then (if w.returnRow ≤ c.row then c.swatchReturn w else c)
  else if !c.tokenHeld then c.updSwatch w (fun w => { w with gap := w.gap + 1 })
  else
    let n := c.swatchRows w
    let c := c.each w.sites (fun c s => c.wr (R.TNS_SWATCH_NOW_STEP_ROW s) (min 257 n))
    let c := if n = 1 ∧ w.isPort = false then c.reissue w.lane else c
    c.each (w.codes.filter (fun x => c.rd (ringLoop x.1) == loSWATCH)) (fun c x =>
      let m := c.ringStep w x.1
      if 1 ≤ m ∧ m ≤ 49 then c.wr (ringHeater x.1) (clampCode x.2 (c.codesFor (ringState x.1) (((m : Int) - 25) * 500)))
      else if m = 50 then (match getKey x.1 c.tns.best with
        | some b => c.wr (ringHeater x.1) b.2
        | none => c.wr (ringHeater x.1) x.2)
      else c)

/-- Step 4 of a row boundary for Cal: abandoned lanes return once no hold stands, booked swatches begin, swatches in progress go on or return their lanes (R104, R109, R175). -/
def Chip.calStep (c : Chip) : Chip :=
  let c := if c.on R.OPF_STATUS_DETECT_HOLD then c
    else
      let back := c.tns.returning
      let c := { c with tns := { c.tns with returning := [] } }
      c.each back (fun c l => if portGroup l.1 l.2.1 then c.portLaneReturns l else c.laneReturns l)
  let run := c.tns.swatches.filter (fun w => w.begun)
  let due := c.tns.swatches.filter (fun w => !w.begun && decide (w.start ≤ c.row))
  (c.each run Chip.swatchRow).each due Chip.swatchBegin

/-- The swatch that runs on a lane. -/
def Chip.swatchOn (c : Chip) (s p k : Nat) : Option Swatch := c.tns.swatches.find? (fun w => w.begun && w.site == s && w.plane == p && w.k == k)

/-- The result of a ring's swatch: the twin selected and its code; none where the swatch fails, because no twin passes, or the acquisition has not locked (R88, R106). -/
def Chip.ringResult (c : Chip) (x : RingKey) (m : Option RingSweep) : Option (Nat × Nat × RingSweep) :=
  match m with
  | none => none
  | some m => if (getKey x c.tns.good).getD 0 < 4 then none else (c.selectTwin x m).map (fun t => (t.1, t.2, m))

/-- The word of TNS.RING_OFFSET after a swatch (R105): the measured efficiency and the code at 60.0 °C that it gives, as differences from the factory values of the twin. The thermal
shift is not measured: its offset stays with the twin and is 0 for a new one (R115; log entry 122). -/
def Chip.offsetsOf (c : Chip) (x : RingKey) (twin code : Nat) (eff : Nat) : Nat :=
  let w := c.factoryOf (ringState x) twin
  let tcOfs := if c.rd (ringTwin x) = twin then (c.word (ringOffset x)).toNat % 256 else 0
  let effOfs := ofSigned 8 (clampSigned 8 ((eff : Int) / max 1 (fget w 15 8 : Int) - 200))
  let ofs := effOfs * 256 + tcOfs
  let heat := (code : Int) - (fget w 31 16 : Int) - warmCodes (effOf w ofs) (tcOf w ofs) (c.groupTemp x)
  ofSigned 16 (clampSigned 16 heat) * 65536 + ofs

/-- A ring takes the twin and code that a swatch has selected, and the offsets and slope that it measured; a twin change is recorded (R88, R105). A write of the offsets that still waits for
its boundary is older than the result (R114). A ring that is under swatch no more, being fenced since, takes none (R92). -/
def Chip.takeResult (c : Chip) (x : RingKey) (t : Nat × Nat × RingSweep) : Chip :=
  if c.rd (ringLoop x) ≠ loSWATCH then c
  else
  let word := c.offsetsOf x t.1 t.2.1 t.2.2.eff.toNat
  let changed := c.rd (ringTwin x) != t.1
  let c := ((c.setWord (ringOffset x) (BitVec.ofNat 32 word)).wr (ringTwin x) t.1).wr (ringHeater x) t.2.1
  let c := { c with tns := { c.tns with slopes := putKey x t.2.2.slope.toNat c.tns.slopes, good := delKey x c.tns.good } }
  let c := c.lockRing x
  let c := { c with acc := { c.acc with held := c.acc.held.filter (fun h => h.off != ringOffset x) } }
  if changed then c.event Ev.twinChange none (Unit.lane x.site x.plane x.k (x.d == 1)) [t.1] else c

/-- The ring of a port lane's swatch fails: it is fenced, and the lane stays on the spare that has its stream, as for a failure (R106, R216, R217). For a receive filter this end asks for that with
a SPARE_REQ at whose boundary the calibration ends (R224), for a transmit ring it tells its partner with TX_FAULT. -/
def Chip.portRingFails (c : Chip) (x : RingKey) : Chip :=
  let inc := x.d == 1
  let on := c.rd (portOnRef x.port x.k inc)
  let c := c.fenceLoop x
  if 36 ≤ on ∧ on < 39 ∧ on ≠ x.k then
    let c := (c.wr (R.EDGE_LANE_STATE_REASON x.port x.k) 7).report (Unit.portLane x.port x.k inc) [] 0 0 7 actSpared
    if inc then (c.endCal x.port x.k (c.markerRow x.port + 3)).requestCarrier x.port x.k on else c.sendMsg x.port (linkMsg 4 x.k 0 0)
  else c.fencePort x.port x.k inc 7

/-- A lane swatch ends with what it measured of each ring of its scope (R104 to R106): the results are taken, and the lane returns at its boundary; or a ring fails, is fenced with code
0x7, localized to the swatched side, and the swatch is over. -/
def Chip.swatchEnd (c : Chip) (s p k : Nat) (measured : List RingSweep) : Chip :=
  match c.swatchOn s p k with
  | none => c
  | some w =>
    if w.ended.isSome ∨ c.tokenHeld = false ∨ c.row + 1 < w.returnRow then c
    else
      let rings := w.codes.map (·.1)
      let found := rings.zipIdx.map (fun x => (x.1, c.ringResult x.1 measured[x.2]?))
      let bad := (found.filter (fun x => x.2.isNone && c.rd (ringLoop x.1) == loSWATCH)).map (·.1)
      let c := c.each found (fun c x => match x.2 with
        | some t => c.takeResult x.1 t
        | none => c)
      if bad.isEmpty then c.updSwatch w (fun w => { w with ended := some measured })
      else
        let c := (c.clearSwatch w).count (R.TNS_SWATCH_COUNT_FAILED s)
        let c := c.event Ev.swatchFailed none (Unit.lane s p k (bad.all (fun x => x.d == 1))) [w.scope]
        let c := if w.isPort || Config.planeKind s p == 3 then c else c.setLane s p k (c.serviceState s p k)
        let c := c.each bad (fun c x => if x.isPort then c.portRingFails x else (c.wr (ringLoop x) loLOCKED).ringFault x 7)
        c.ringsDone rings

/-! User offsets (R114). -/

/-- Step 5 of a row boundary for the held writes: where one changes the offsets of a ring whose loop runs, the heater steps by the change in predicted position at the present
temperature. -/
def Chip.applyFields (c : Chip) : Chip :=
  let due := ((c.acc.held.filter (fun h => decide (h.row ≤ c.row) && decide (8 ≤ h.off) && ringStateOff (h.off - 8) && h.off % 16 == 8)).map (fun h => ringAt (h.off - 8))).eraseDups
  let moved := due.filter (fun x => let l := c.rd (ringLoop x); l == loACQUIRE || l == loLOCKED || l == loHOLD)
  let old := moved.map (fun x => (x, c.predicted x))
  (c.applyHeld c.row).each old (fun c x => c.wr (ringHeater x.1) (clampCode (c.rd (ringHeater x.1)) (c.predicted x.1 - x.2)))

/-! Gauge checks. -/

/-- A gauge check of a site with the deviation found, in 0.001 % (R110): within 0.5 % it becomes the correction at the next boundary. -/
def Chip.gaugeCheck (c : Chip) (s : Nat) (dev : Int) : Chip :=
  let pass := decide (dev.natAbs ≤ 500)
  let c := ((c.wr (R.TNS_GAUGE_RESULT_STATUS s) (if pass then 1 else 2)).wr (R.TNS_GAUGE_RESULT_DEVIATION s) (ofSigned 16 dev)).wr
    (R.TNS_STATUS_GAUGE_FAIL s) (b2n (!pass))
  let c := if pass then { c with tns := { c.tns with corrDue := putKey s dev c.tns.corrDue } } else c
  c.event Ev.gaugeResult none 0 [s, b2n pass, ofSigned 16 dev]

/-- The REFCLK gauge check with the counters that failed: bit 0 spacing A, 1 spacing B, 2 offset A, 3 offset B (R111). -/
def Chip.refGauge (c : Chip) (failed : Nat) : Chip :=
  ((c.wr R.LSU_GAUGE_STATUS (if failed % 16 = 0 then 1 else 3)).wr R.LSU_GAUGE_FAILED failed).event Ev.gaugeResult none (Unit.light 2) [failed % 16]

/-- The gauge of the rail converters and the input sensors with the deviation found, in 0.001 % (R497): within 0.5 % it passes, else the last good correction is kept. -/
def Chip.powerGauge (c : Chip) (dev : Int) : Chip :=
  let pass := decide (dev.natAbs ≤ 500)
  let c := ((c.wr R.PWR_GAUGE_STATUS (if pass then 1 else 2)).wr R.PWR_GAUGE_DEVIATION (ofSigned 16 dev)).wr R.PWR_STATUS_GAUGE_FAIL (b2n (!pass))
  if pass then c else c.event Ev.powerGaugeFail none 0 [ofSigned 16 dev]

/-- The scale corrections found since the last boundary take effect (R110). -/
def Chip.gaugeStep (c : Chip) : Chip :=
  { c with tns := { c.tns with correction := c.tns.corrDue ++ c.tns.correction.filter (fun x => !c.tns.corrDue.any (fun y => y.1 == x.1)), corrDue := [] } }

/-- The periodic checks of sites count from now (R112). -/
def Chip.gaugeDone (c : Chip) (sites : List Nat) : Chip :=
  { c with tns := { c.tns with gaugeAt := sites.map (fun s => (s, c.opSecs)) ++ c.tns.gaugeAt.filter (fun x => !sites.contains x.1) } }

/-- MANUAL of a group: a group whose rings are in Hold evaluates no trigger (R100; log entry 157). -/
def Chip.manualTrigger (c : Chip) (s g : Nat) : Chip := if c.on (R.TNS_GROUP_TRIG_DARK s g) then c else c.trigger s g 3

/-- TNS.SWATCH_REQ: GO sets MANUAL for one group or for every group of the site (R100). -/
def swatchReqHook (s v : Nat) : WriteHook :=
  .does (fun c => if bitOf v 31 then
    (if bitOf v 6 then c.each (List.range (groupsOf s)) (fun c g => c.manualTrigger s g)
     else if fget v 5 0 < groupsOf s then c.manualTrigger s (fget v 5 0) else c) else c)

/-- TNS.GAUGE_CTRL: GO runs a gauge check with what it finds (R112); LSU.GAUGE follows the check at site C0. -/
def gaugeHook (s v : Nat) (dev : Int) (failed : Nat) : WriteHook :=
  .does (fun c => if bitOf v 31 then (let c := c.gaugeCheck s dev; if s = 0 then c.refGauge failed else c) else c)

/-! The commands. A ring is named by site, plane (38 to 41 for the ports of an edge site), direction and wavelength or port lane. -/

/-- LOOP_VISIT (R90, R91): the in-phase result of the visit and the monitor power in 0.01 dBm. -/
def execLoopVisit (site : Fin 24) (plane : Fin 42) (d : Fin 2) (k : Fin 40) (inPhase p : BitVec 16) (s : State) : Result :=
  .next (s.onChip (fun c => c.visit ⟨site.val, plane.val, d.val, k.val⟩ inPhase.toInt p.toInt))

/-- RING_LOSS_OF_LOCK (R94). -/
def execRingLossOfLock (site : Fin 24) (plane : Fin 42) (d : Fin 2) (k : Fin 40) (s : State) : Result :=
  .next (s.onChip (fun c => c.ringLost ⟨site.val, plane.val, d.val, k.val⟩))

/-- ACQUIRE_TIMEOUT (R93): a loop in Search or Acquire at the end of its window is fenced, with code 0xA for a search of the light supply (R75, R81; log entry 123). -/
def execAcquireTimeout (site : Fin 24) (plane : Fin 42) (d : Fin 2) (k : Fin 40) (s : State) : Result :=
  .next (s.onChip (fun c =>
    let x : RingKey := ⟨site.val, plane.val, d.val, k.val⟩
    if c.rd (ringLoop x) = loSEARCH ∨ c.rd (ringLoop x) = loACQUIRE then c.ringFault x (if c.fallbackMode then 0xA else 7) else c))

/-- SWATCH_REQ: a write of TNS.SWATCH_REQ (R100). -/
def execSwatchReq (req : Requester) (site : Fin 24) (v : BitVec 32) (s : State) : Result :=
  .next (s.onChip (fun c => c.writeReg req (R.TNS_SWATCH_REQ site.val) v.toNat (swatchReqHook site.val v.toNat)))

/-- EDGE_TRIGGER (R100): a selected ring's code has stayed below H / 2 or above 64,511 for 64 rows; a group in Hold evaluates no trigger. -/
def execEdgeTrigger (site : Fin 24) (plane : Fin 42) (d : Fin 2) (k : Fin 40) (s : State) : Result :=
  .next (s.onChip (fun c =>
    let x : RingKey := ⟨site.val, plane.val, d.val, k.val⟩
    let c := c.watchBand x
    match getKey x c.tns.outside with
    | some r => if r + 64 ≤ c.row ∧ c.on (R.TNS_GROUP_TRIG_DARK x.site x.plane) = false then c.trigger x.site x.plane 4 else c
    | none => c))

/-- TRIGGER_INTERVAL_EXPIRY (R101): the waiting triggers of a group may be served once MIN_INTERVAL has passed. -/
def execTriggerIntervalExpiry (site : Fin 24) (group : Fin 42) (s : State) : Result :=
  .next (s.onChip (fun c =>
    if c.intervalPassed site.val group.val then
      { c with tns := { c.tns with heldTrig := c.tns.heldTrig.filter (fun t => !(t.1 == site.val && t.2.1 == group.val)) } }
    else c))

/-- SWATCH_START (R103): the scheduler's choice for the next row boundary. -/
def execSwatchStart (s : State) : Result := .next (s.onChip Chip.swatchBook)

/-- SWATCH_END (R105, R106): what the swatch of a lane has measured, for each ring of its scope. -/
def execSwatchEnd (site : Fin 24) (plane : Fin 42) (k : Fin 40) (measured : List RingSweep) (s : State) : Result :=
  .next (s.onChip (fun c => c.swatchEnd site.val plane.val k.val measured))

/-- SWATCH_LEASE_ABANDON (R96, R109): a swatch that has waited through a lease gap of 1,024 rows is abandoned. -/
def execSwatchLeaseAbandon (site : Fin 24) (plane : Fin 42) (k : Fin 40) (s : State) : Result :=
  .next (s.onChip (fun c => match c.swatchOn site.val plane.val k.val with
    | some w => if !c.tokenHeld ∧ c.pcu.lostRow + 1024 ≤ c.row then c.swatchAbandon w else c
    | none => c))

/-- GAUGE_GO: a write of TNS.GAUGE_CTRL, with what the check finds (R110 to R112). -/
def execGaugeGo (req : Requester) (site : Fin 24) (v : BitVec 32) (dev : BitVec 16) (failed : BitVec 4) (s : State) : Result :=
  .next (s.onChip (fun c => c.writeReg req (R.TNS_GAUGE_CTRL site.val) v.toNat (gaugeHook site.val v.toNat dev.toInt failed.toNat)))

/-- GAUGE_PERIODIC (R112): the check of every site whose PERIOD hours have passed since its last, with the deviations found. -/
def execGaugePeriodic (devs : List (BitVec 16)) (failed : BitVec 4) (power : BitVec 16) (s : State) : Result :=
  .next (s.onChip (fun c =>
    let due := fun (i : Nat) => let h := c.rd (R.TNS_GAUGE_CTRL_PERIOD i)
      h != 0 && decide ((getKey i c.tns.gaugeAt).getD 0 + 3600 * h ≤ c.opSecs)
    let sites := (List.range 24).filter due
    let c := (c.each sites (fun c i => c.gaugeCheck i (devs.getD i 0).toInt)).gaugeDone sites
    let c := if sites.contains 0 then c.refGauge failed.toNat else c
    if sites.isEmpty then c else c.powerGauge power.toInt))

end Sys2Proof.Machine
end

