-- ==== Sys2Proof/Machine/Light.lean ====
section
/-! DEFINITION. The light supply: source changes, switch-over, SWAP, fallback and the return from it, restarts of a comb (R62 to R85). -/

namespace Sys2Proof.Machine

/-! Combs. -/

/-- A change to the light supply. -/
def Chip.setLight (c : Chip) (g : Light → Light) : Chip := { c with light := g c.light }

/-- The active comb: the one whose state is active. -/
def Chip.activeComb (c : Chip) : Option Nat := if c.rd (R.LSU_COMB_STATE 0) = 3 then some 0 else if c.rd (R.LSU_COMB_STATE 1) = 3 then some 1 else none

/-- A comb takes a state and an output in percent. -/
def Chip.setComb (c : Chip) (x state output : Nat) : Chip := (c.wr (R.LSU_COMB_STATE x) state).wr (R.LSU_COMB_OUTPUT x) output

/-- A comb's offset lock is gone, or has nothing to lock to: HELD is zero (R66, R81). -/
def Chip.dropOffset (c : Chip) (x : Nat) : Chip :=
  ((c.wr (R.LSU_COMB_OFFSET_LOCK x) 0).wr (R.LSU_COMB_HELD x) 0).setLight (fun l => { l with locked := delKey x l.locked, offsets := delKey x l.offsets })

/-- A comb's locks are gone and HELD is zero. -/
def Chip.unlockComb (c : Chip) (x : Nat) : Chip := (c.wr (R.LSU_COMB_SPACING_LOCK x) 0).dropOffset x

/-- Seconds for which both locks of a comb have held (LSU.COMB.HELD). -/
def Chip.combHeld (c : Chip) (x : Nat) : Nat :=
  match getKey x c.light.locked with
  | some r => min 4095 ((c.row - r) * 1024 / 1000000000)
  | none => 0

/-- A comb whose attempts are used up is fenced for the power-on period (R72). -/
def Chip.combFenced (c : Chip) (x : Nat) : Chip := ((c.setComb x 5 0).event Ev.combFence none (Unit.light x) []).report (Unit.light x) [] 0 0 0 actFenced

/-- A comb is lost: its pump is off and it enters the restarting state (R69, R75, R84). One that restarts already goes on with its attempt and has only nothing to lock its offset to; a
fenced comb stays so. -/
def Chip.combDown (c : Chip) (x : Nat) : Chip :=
  if c.rd (R.LSU_COMB_STATE x) = 5 then c
  else if c.rd (R.LSU_COMB_STATE x) = 4 then c.dropOffset x
  else (c.unlockComb x).setComb x 4 0

/-- The result of a command of LSU.CTRL. -/
def Chip.ctrlResult (c : Chip) (status : Nat) : Chip := (c.wr R.LSU_CTRL_RESULT_STATUS status).wr R.LSU_CTRL_RESULT_ROW c.row16

/-- An accepted SWAP is abandoned before its boundary (R84). -/
def Chip.dropSwap (c : Chip) : Chip := if c.light.swapRow.isSome then (c.ctrlResult 6).setLight (fun l => { l with swapRow := none }) else c

/-- Whether the trunk runs on a comb: modes A active, B active, and a switch-over in progress. -/
def Chip.onComb (c : Chip) : Bool := c.rd R.LSU_STATUS_MODE == 1 || c.rd R.LSU_STATUS_MODE == 2 || c.rd R.LSU_STATUS_MODE == 3

/-- The mode that names a comb as active. -/
def modeOf (comb : Nat) : Nat := comb + 1

/-- The standby is lost: no ready standby, a SWAP before its boundary abandoned, a notice (R84). -/
def Chip.standbyGone (c : Chip) (b : Nat) : Chip :=
  ((((c.combDown b).wr R.LSU_STATUS_STANDBY_READY 0).wr R.LSU_OFFSET_MHZ 0x8000).dropSwap).lightNotice

/-- The power of a healthy line in a row, in 0.01 dBm: a free value of the +8 dBm to +12 dBm that a source at full output delivers (R67, R83). -/
def lineLevel (n row : Nat) : Int := 800 + ((Config.linePower n row % 401 : Nat) : Int)

/-- The reference of a line (R67): the mean of its power over the last 1,024 rows in which it was not flagged, in 0.01 dBm. -/
def Chip.lineRef (c : Chip) (n : Nat) : Int :=
  let back := (List.range (min c.light.rowsRead (1024 + c.light.flagRows.length))).map (fun i => c.light.rowsRead - 1 - i)
  meanOf (((back.filter (fun r => !c.light.flagRows.contains (n, r))).take 1024).map (lineLevel n))

/-- The power of a line now (LSU.LINE_PWR.NOW): of a flagged line a free value more than 3 dB below its reference (R67). -/
def Chip.lineNow (c : Chip) (n : Nat) : Int :=
  if c.light.flagged.contains n then c.lineRef n - 301 - ((Config.linePower n c.light.rowsRead % 4096 : Nat) : Int) else lineLevel n c.light.rowsRead

/-! Source changes. -/

/-- A source change begins: DETECT_HOLD is set, LAST_ROW names the row, pattern runs end and swatches are abandoned (R57, R68, R109, R139). One that begins while an earlier one's hold
stands keeps that one's beginning, for the case that it is a mere dip. -/
def Chip.beginChange (c : Chip) : Chip :=
  let c := ((c.setDetectHold true).wrPair R.LSU_LAST_ROW_LO_ROW R.LSU_LAST_ROW_HI_ROW c.row).setLight (fun l => { l with changeAt := some c.cycles, changeBefore := l.changeAt })
  let runs := c.lanes.runs
  let c := (c.onLanes (fun y => { y with runs := [] })).each runs (fun c r =>
    let c := (c.runLeaves r).patResult r.site 8
    if c.laneState r.site r.plane r.k = lsTEST then { c with tns := { c.tns with returning := c.tns.returning ++ [(r.site, r.plane, r.k)] } } else c)
  c.each c.tns.swatches Chip.swatchAbandon

/-- A source change by a declaration begins with it, unless a flag has begun it (R68). -/
def Chip.declareChange (c : Chip) : Chip := if c.light.flagged.isEmpty then c.beginChange else c

/-- The end of a light-source change: MODE names the active comb (R57, R69). Of the two moments between which it may do so, that the held frames have been resent and that DETECT_HOLD
clears, the model takes the latter (DESIGN CHOICE, log entry 153). -/
def Chip.changeEnds (c : Chip) : Chip :=
  let c := (c.setDetectHold false).setLight (fun l => { l with changeAt := none, changeBefore := none, flagged := [] })
  if c.rd R.LSU_STATUS_MODE = 3 then c.wr R.LSU_STATUS_MODE (modeOf (c.activeComb.getD 0)) else c

/-- The receivers of the switched lanes in service have locked to their sources again (R119). -/
def Chip.relocked (c : Chip) : Chip := c.each ((c.lanesAt lsUP).filter (fun l => Config.planeKind l.1 l.2.1 == 2)) Chip.phaseLocked

/-! Fallback and the dark mode. -/

/-- Jobs are lost: what the engines, cores and queue processors hold of them (R80; log entry 125). -/
def Chip.loseJobs (c : Chip) : Chip := { c with comp := { tag := c.comp.tag }, mxe := {}, cmd := { fmNext := c.cmd.fmNext } }

/-- Rings that get no light hold, a swatch's or a search's too; their groups evaluate no trigger (R92, R98, R100). -/
def Chip.holdRings (c : Chip) (p : RingKey → Bool) : Chip :=
  let l := (c.ringsIn [loSEARCH, loACQUIRE, loLOCKED, loSWATCH]).filter p
  (c.each l (fun c x => c.wr (ringLoop x) loHOLD)).each ((l.map RingKey.group).eraseDups) (fun c g => c.setDark g.1 g.2 true)

/-- Single rings that get no light hold; the other rings of their groups keep the group's triggers (R92). -/
def Chip.ringsHold (c : Chip) (p : RingKey → Bool) : Chip :=
  c.each ((c.ringsIn [loSEARCH, loACQUIRE, loLOCKED, loSWATCH]).filter p) (fun c x => c.wr (ringLoop x) loHOLD)

/-- Branch H is dark: its rings hold with their groups, and so do the filters that its light would reach on other branches (R76, R78, R92). -/
def Chip.holdBranchH (c : Chip) : Chip := (c.holdRings RingKey.branchH).ringsHold c.ringDark

/-- Every on-package lane goes dark and the package enters the dark mode (R80): left by a cast-on alone. -/
def Chip.darkMode (c : Chip) : Chip :=
  let c := c.each [0, 1] Chip.combDown
  let c := (c.portsDark.wr R.LSU_STATUS_MODE 7).mapLanes (fun _ _ _ st => if st = lsFENCED ∨ st = lsOFF then st else lsHOLD)
  let c := ((c.holdRings (fun x => !x.portRx)).setLight (fun l => { l with returning := none, commit := none, entered := none, flagged := [], swapRow := none })).loseJobs
  (c.setReady false).assertFault

/-- The circuits end, their planes dark with branch H (R76, R186). -/
def Chip.circuitsDark (c : Chip) : Chip :=
  c.each (List.range 112) (fun c e => if c.rd (R.CIRC_PLANE_STATE e) = 2 then c else (c.cutRuns e).wr (R.CIRC_PLANE_STATE e) 3)

/-- The package enters fallback (R74 to R76, R78): branch L on FB0, branch X on FB1, branch H dark. Held stitches of dark lanes are reissued; every lane holds; the rings of the lit
branches search, but for the receive rings of the ports, which work on the partner's light (R71, R211). Without light at FB1 the ports' transmit rings hold (R80). -/
def Chip.enterFallback (c : Chip) : Chip :=
  let c := (c.count R.LSU_SWITCH_COUNT_FALLBACK).wr R.LSU_STATUS_STANDBY_READY 0
  let c := c.each [0, 1] Chip.combDown
  let c := ((c.wr R.LSU_OFFSET_MHZ 0x8000).setLight (fun l => { l with tookOver := none, returning := none, commit := none, flagged := [], changeBefore := none, entered := some c.cycles }))
  let c := c.event Ev.fallbackEntry none (Unit.light 2) [c.rdPair R.LSU_LAST_ROW_LO_ROW R.LSU_LAST_ROW_HI_ROW]
  let c := c.circuitsDark
  if !c.on R.LSU_STATUS_FB0_LIGHT then c.darkMode
  else
    let c := (c.wr R.LSU_STATUS_MODE 4).setDetectHold true
    let dark := (c.lanes.tx.map (·.1)).filter (fun l => decide (l.1 < 24) && (branchH l.1 l.2.1 || c.onSpare l.1 l.2.1 l.2.2))
    let c := c.each dark Chip.reissue
    let c := c.mapLanes (fun _ _ _ st => if st = lsUP ∨ st = lsCAL ∨ st = lsTEST ∨ st = lsPARKED ∨ st = lsMONITOR then lsHOLD else st)
    let c := c.portsDark.holdBranchH
    let c := if c.on R.LSU_STATUS_FB1_LIGHT then c else c.holdRings (fun x => x.isPort && x.d == 0)
    c.beginSearch ((c.ringsIn [loSEARCH, loACQUIRE, loLOCKED, loSWATCH]).filter (fun x => !x.portRx))

/-- The active comb is declared lost (R69, R74, R84): a ready standby takes over, unless the comb has itself just taken over; else the package
enters fallback. A SWAP before its boundary is abandoned. -/
def Chip.combLost (c : Chip) (a : Nat) : Chip :=
  let c := c.dropSwap
  let fresh := match c.light.tookOver with
    | some t => decide (c.cycles ≤ t + 40000)
    | none => false
  if c.on R.LSU_STATUS_STANDBY_READY && !fresh then
    let b := 1 - a
    let mhz := toSigned 16 (c.rd R.LSU_OFFSET_MHZ)
    let c := ((c.combDown a).setComb b 3 100).dropOffset b
    let c := (((c.wr R.LSU_STATUS_MODE 3).wr R.LSU_STATUS_STANDBY_READY 0).count R.LSU_SWITCH_COUNT_SWITCH).heaterStep mhz
    let c := (c.wr R.LSU_OFFSET_MHZ 0x8000).setLight (fun l => { l with tookOver := l.changeAt, flagged := [], changeBefore := none })
    c.event Ev.switchOver none (Unit.light a) [b, c.rdPair R.LSU_LAST_ROW_LO_ROW R.LSU_LAST_ROW_HI_ROW]
  else c.enterFallback

/-- A return is abandoned before its commit (R82): the package stays in fallback, branch H dark again. -/
def Chip.returnFails (c : Chip) (x : Nat) : Chip :=
  let c := (((c.combDown x).wr R.LSU_STATUS_MODE 5).ctrlResult 6).setLight (fun l => { l with returning := none, commit := none, flagged := [] })
  c.holdBranchH

/-- A comb is lost: the active one as R69 and R74 say, the standby as R84, a returning one with its return (R82). -/
def Chip.combFails (c : Chip) (x : Nat) : Chip :=
  if c.rd (R.LSU_COMB_STATE x) = 3 ∧ c.onComb = true then c.declareChange.combLost x
  else if c.rd (R.LSU_COMB_STATE x) = 2 then c.standbyGone x
  else if c.rd (R.LSU_COMB_STATE x) = 7 then c.returnFails x
  else c

/-! LSU.CTRL. -/

/-- The offset last measured of a comb, as LSU.OFFSET holds it. -/
def Chip.combOffset (c : Chip) (x : Nat) : Nat := (getKey x c.light.offsets).getD 0x8000

/-- The comb with both locks that have held for `secs`, its offset within `mhz`: the longer HELD first, comb A where both are equal (R81). -/
def Chip.bestComb (c : Chip) (secs mhz : Nat) : Option Nat :=
  let ok := fun (x : Nat) => c.on (R.LSU_COMB_SPACING_LOCK x) && c.on (R.LSU_COMB_OFFSET_LOCK x) && decide (secs ≤ c.combHeld x)
    && decide ((toSigned 16 (c.combOffset x)).natAbs ≤ mhz)
  if ok 0 && ok 1 then some (if c.combHeld 0 < c.combHeld 1 then 1 else 0)
  else if ok 0 then some 0 else if ok 1 then some 1 else none

/-- The comb that would return from fallback: both locks held for HOLDOFF seconds, the offset to FB0 within 1 GHz (R81). -/
def Chip.returnCandidate (c : Chip) : Option Nat := c.bestComb (c.rdPos R.LSU_CFG_HOLDOFF) 1000

/-- What LSU.OFFSET shows: the standby's offset, or in fallback that of the returning candidate. -/
def Chip.shownOffset (c : Chip) : Nat :=
  if c.fallbackMode then (match c.light.returning with
    | some (x, _, _) => c.combOffset x
    | none => ((c.bestComb 0 32767).map c.combOffset).getD 0x8000)
  else c.rd R.LSU_OFFSET_MHZ

/-- Why a command of LSU.CTRL is refused, as CTRL_RESULT shows it (R72, R73, R81). -/
def Chip.ctrlRefusal (c : Chip) (v : Nat) : Option Nat :=
  if bitOf v 31 then (if c.on R.LSU_STATUS_STANDBY_READY then none else some 3)
  else if bitOf v 30 then (if c.rd R.LSU_STATUS_MODE ≠ 5 then some 4 else if c.returnCandidate.isNone then some 5 else none)
  else if c.rd (R.LSU_COMB_STATE (if bitOf v 29 then 0 else 1)) ≠ 5 then some 7
  else none

/-- A command of LSU.CTRL that meets its conditions is carried out (R72, R73, R81). -/
def Chip.lsuCtrl (c : Chip) (v : Nat) : Chip :=
  let c := c.ctrlResult 1
  if bitOf v 31 then c.setLight (fun l => { l with swapRow := some (c.row + 1) })
  else if bitOf v 30 then
    let x := c.returnCandidate.getD 0
    ((c.wr R.LSU_STATUS_MODE 6).wr (R.LSU_COMB_STATE x) 7).setLight (fun l => { l with returning := some (x, c.row + 1, false) })
  else
    let x := if bitOf v 29 then 0 else 1
    (c.wr (R.LSU_COMB_STATE x) 4).setLight (fun l => { l with granted := l.granted ++ [x] })

/-- LSU.CTRL: one command bit; checked at the write, and held while no PCU has the token (R65). A second write replaces a command that is held (log entry 124). -/
def lsuCtrlHook (v : Nat) : WriteHook :=
  .does (fun c =>
    let n := popCount 4 (v / 2 ^ 28)
    if n = 0 then c
    else if 1 < n then c.ctrlResult 8
    else match c.ctrlRefusal v with
      | some st => c.ctrlResult st
      | none => if c.tokenHeld then c.lsuCtrl v else (c.ctrlResult 1).setLight (fun l => { l with heldCtrl := some v }))

/-! Row boundaries. -/

/-- An accepted SWAP is applied at its boundary (R73): loss detection ignores the outgoing comb from here on. -/
def Chip.swapStep (c : Chip) : Chip :=
  match c.light.swapRow, c.activeComb with
  | some r, some a =>
    if r ≤ c.row then
      let b := 1 - a
      let mhz := toSigned 16 (c.rd R.LSU_OFFSET_MHZ)
      let c := (c.setLight (fun l => { l with swapRow := none, flagged := [] })).beginChange
      let c := (((c.setComb b 3 100).setComb a 2 30).dropOffset a).dropOffset b
      let c := (c.wr R.LSU_STATUS_STANDBY_READY 0).setLight (fun l => { l with tookOver := some c.cycles, changeBefore := none })
      let c := (((c.wr R.LSU_STATUS_MODE 3).count R.LSU_SWITCH_COUNT_SWITCH).heaterStep mhz).wr R.LSU_OFFSET_MHZ 0x8000
      (c.ctrlResult 2).event Ev.swap none (Unit.light a) [b]
    else c
  | _, _ => c

/-- Step 1 of a return, at a row boundary while a PCU holds the token (R81): the returning comb goes to full output with branch H on it, and the rings of branch H that get light
search. -/
def Chip.returnStep (c : Chip) : Chip :=
  match c.light.returning with
  | some (x, r, false) =>
    if r ≤ c.row ∧ c.rd R.LSU_STATUS_MODE = 6 ∧ c.tokenHeld = true then
      ((c.wr (R.LSU_COMB_OUTPUT x) 100).setLight (fun l => { l with returning := some (x, r, true) })).beginSearch
        ((c.ringsIn [loHOLD]).filter (fun y => c.ringDark y && !unlitSlot y))
    else c
  | _ => c

/-- The spacing lock of a comb that restarts is acquired 200 ms after its pump start at the latest (R63; log entry 126). -/
def Chip.spacingStep (c : Chip) : Chip :=
  c.each (c.light.restartAt.filter (fun x => decide (x.2 + 200000000 ≤ c.now) && decide (c.now < x.2 + 200001024))) (fun c x => c.wr (R.LSU_COMB_SPACING_LOCK x.1) 1)

/-- The monitors have read the lines for one row more; lines that are flagged still are so in the new row (R67). -/
def Chip.lineStep (c : Chip) : Chip :=
  if c.rd R.LSU_STATUS_MODE = 0 then c
  else c.setLight (fun l => { l with rowsRead := l.rowsRead + 1, flagRows := l.flagRows ++ l.flagged.map (fun n => (n, l.rowsRead + 1)) })

/-- The groups of branch H evaluate their triggers again, but for those whose rings still hold (R97, R98, R100). -/
def Chip.lightGroups (c : Chip) : Chip :=
  let held := (((c.ringsIn [loHOLD]).filter (fun x => !unlitSlot x)).map RingKey.group).eraseDups
  c.each (List.range 24) (fun c s => c.each ((List.range (Config.planes s)).filter (branchH s)) (fun c p => if held.contains (s, p) then c else c.setDark s p false))

/-- Whether the rings that search for a return have all locked or failed (R81). -/
def Chip.returnLocked (c : Chip) : Bool := (c.ringsIn [loSEARCH, loACQUIRE]).all (fun y => !c.ringDark y)

/-- A return commits with comb `x` (R81): branches L and X switch to it with the heater step, the lanes of branch H and those on spares enter service, but the ones that have failed, which
are fenced, and the circuits may apply again from the next boundary. A comb that has its spacing lock besides is the standby, not yet ready. -/
def Chip.commitReturn (c : Chip) (x : Nat) (failed : List FenceSign) : Chip :=
  let mhz := toSigned 16 (c.combOffset x)
  let other := 1 - x
  let step := (c.ringsIn [loACQUIRE, loLOCKED]).filter (fun y => !c.ringDark y && !y.portRx)
  let c := (c.setLight (fun l => { l with returning := none, commit := none, returnedRow := some c.row, tookOver := some c.cycles, flagged := [] })).beginChange
  let c := (((c.setComb x 3 100).wr R.LSU_STATUS_MODE (modeOf x)).dropOffset x).dropOffset other
  let c := if c.rd (R.LSU_COMB_STATE other) = 4 ∧ c.on (R.LSU_COMB_SPACING_LOCK other) = true ∧ (getKey other c.light.restartAt).isNone = true
    then c.setComb other 2 30 else c
  let c := c.stepRings step mhz
  let c := c.each (List.range 112) (fun c e => if c.rd (R.CIRC_PLANE_STATE e) = 3 then c.wr (R.CIRC_PLANE_STATE e) 0 else c)
  let c := c.each (c.lanesAt lsHOLD) (fun c l =>
    if c.opf.reacquiring.any (fun y => (c.sideLanes y).contains l) then c else c.setLane l.1 l.2.1 l.2.2 (c.serviceState l.1 l.2.1 l.2.2))
  let c := c.lightGroups.each failed Chip.fenceSign
  ((c.ctrlResult 2).event Ev.lightReturn none (Unit.light x) [c.row]).lightNotice

/-- A return whose lanes have all locked or failed commits at the first row boundary after that at which a PCU holds the token (R81, R176). -/
def Chip.commitStep (c : Chip) : Chip :=
  match c.light.returning, c.light.commit with
  | some (x, r, true), some failed =>
    if c.rd R.LSU_STATUS_MODE = 6 ∧ r < c.row ∧ c.tokenHeld = true ∧ c.returnLocked = true then c.commitReturn x failed else c
  | _, _ => c

/-- A comb that is to restart with no attempt left and none in progress is fenced (R72): at the first row boundary (DEDUCED, log entry 154). -/
def Chip.usedUpStep (c : Chip) : Chip :=
  c.each [0, 1] (fun c x =>
    if c.rd (R.LSU_COMB_STATE x) = 4 ∧ c.rd R.LSU_CFG_RESTARTS ≤ c.rd (R.LSU_COMB_RESTARTS_USED x) ∧ (getKey x c.light.restartAt).isNone = true
      ∧ c.light.granted.contains x = false ∧ c.on (R.LSU_COMB_SPACING_LOCK x) = false then c.combFenced x else c)

/-- Step 2 of a row boundary (R175). -/
def Chip.lightStep (c : Chip) : Chip := c.lineStep.spacingStep.usedUpStep.swapStep.commitStep.returnStep

/-- What the receptacles show in a row (R83): light lost at FB0 in fallback leads to the dark mode (R80). -/
def Chip.readFallbackLight (c : Chip) (fb0 fb1 : Option Bool) : Chip :=
  let c := match fb1 with
    | some b => c.wr R.LSU_STATUS_FB1_LIGHT (b2n b)
    | none => c
  match fb0 with
  | some b =>
    let c := c.wr R.LSU_STATUS_FB0_LIGHT (b2n b)
    if !b && c.fallbackMode then c.darkMode else c
  | none => c

/-! The commands. -/

/-- LINE_FLAG (R67, R68): a line of the active comb is flagged; the first one begins a source change. Of a returning comb, a flag is only kept (R82). -/
def execLineFlag (line : Fin 40) (s : State) : Result :=
  .next (s.onChip (fun c =>
    if !c.onComb && c.rd R.LSU_STATUS_MODE != 6 then c
    else
      let c := if c.onComb then c.declareChange else c
      c.setLight (fun l => { l with flagged := if l.flagged.contains line.val then l.flagged else l.flagged ++ [line.val]
                                    flagRows := if l.flagRows.contains (line.val, l.rowsRead) then l.flagRows else l.flagRows ++ [(line.val, l.rowsRead)] })))

/-- LIGHT_DIP (R68): every flag clears before a line has stayed flagged for 1 µs. The hold of an earlier change that has not had its 20 µs goes on. -/
def execLightDip (s : State) : Result :=
  .next (s.onChip (fun c =>
    if c.light.flagged.isEmpty then c
    else
      let earlier := c.light.changeBefore.filter (fun t => decide (c.cycles < t + 40000))
      let c := match earlier with
        | some t => c.setLight (fun l => { l with changeAt := some t, changeBefore := none, flagged := [] })
        | none => if c.onComb then c.changeEnds else c.setLight (fun l => { l with flagged := [] })
      c.event Ev.lightDip none (Unit.light (c.activeComb.getD 2)) [c.rdPair R.LSU_LAST_ROW_LO_ROW R.LSU_LAST_ROW_HI_ROW]))

/-- SPACING_LOCK_LOST (R63): a comb's spacing lock is declared lost; the active comb is then lost, the standby too, and a returning comb ends
its return (R67, R82, R84). -/
def execSpacingLockLost (comb : Fin 2) (s : State) : Result :=
  .next (s.onChip (fun c => (c.unlockComb comb.val).combFails comb.val))

/-- COMB_LOSS_DECLARED (R67, R69): a line of the active comb has stayed flagged for 1 µs, or one of a returning comb (R82). -/
def execCombLossDeclared (s : State) : Result :=
  .next (s.onChip (fun c =>
    if c.light.flagged.isEmpty then c
    else match c.activeComb, c.light.returning with
    | some a, _ => c.combFails a
    | none, some (x, _, _) => c.combFails x
    | none, none => c))

/-- Lanes of the lit planes that the entry to fallback still holds (R75), and those of them whose rings have not locked. -/
def Chip.entryLanes (c : Chip) : List (Nat × Nat × Nat) := (c.lanesAt lsHOLD).filter (fun l => !branchH l.1 l.2.1 && !c.onSpare l.1 l.2.1 l.2.2)
def Chip.searching (c : Chip) (x : RingKey) : Bool := c.rd (ringLoop x) == loSEARCH || c.rd (ringLoop x) == loACQUIRE
def Chip.laneSearching (c : Chip) (l : Nat × Nat × Nat) : Bool := c.searching (c.txRing l.1 l.2.1 l.2.2) || (c.rxRing l.1 l.2.1 l.2.2).any c.searching

/-- FALLBACK_ENTRY_END (R75, R79): every lane of planes 0 to 15 has locked, or 4 ms have passed and the lanes that have not, by their rings or as named, are fenced with code 0xA. The
others enter service. -/
def execFallbackEntryEnd (unlocked : List Lane) (s : State) : Result :=
  .next (s.onChip (fun c =>
    let held := c.entryLanes
    let left := held.filter (fun l => c.laneSearching l || unlocked.any (fun u => (u.site.val, u.plane.val, u.k.val) == l))
    let timeUp := match c.light.entered with
      | some t => decide (t + 8000000 ≤ c.cycles)
      | none => true
    if c.rd R.LSU_STATUS_MODE ≠ 4 ∨ (left.isEmpty = false ∧ timeUp = false) then c
    else
      let c := c.each left (fun c l => c.fence l.1 l.2.1 l.2.2 0xA false false)
      let c := c.each (held.filter (fun l => c.laneState l.1 l.2.1 l.2.2 == lsHOLD)) (fun c l => c.setLane l.1 l.2.1 l.2.2 (c.serviceState l.1 l.2.1 l.2.2))
      let c := (c.wr R.LSU_STATUS_MODE 5).changeEnds.setLight (fun l => { l with entered := none })
      if c.rd R.ROUTE_FM_NODE = c.node then c.lightNotice
      else (c.setLight (fun l => { l with heldNotice := true })).event Ev.noticeNotSent none 0 [1]))

/-- STANDBY_READY (R66): a comb has held both locks for 100 ms, its line 0 at `mhz` from the active comb's, or from FB0's in fallback, where no comb is standby. -/
def execStandbyReady (comb : Fin 2) (mhz : BitVec 16) (s : State) : Result :=
  .next (s.onChip (fun c =>
    let x := comb.val
    let st := c.rd (R.LSU_COMB_STATE x)
    if st ≠ 2 ∧ st ≠ 4 ∧ st ≠ 1 then c
    else
      let c := (c.wr (R.LSU_COMB_SPACING_LOCK x) 1).wr (R.LSU_COMB_OFFSET_LOCK x) 1
      let c := c.setLight (fun l => { l with locked := putKey x (c.row - 97656) l.locked, restartAt := delKey x l.restartAt, offsets := putKey x mhz.toNat l.offsets })
      let c := if c.onComb then ((c.setComb x 2 30).wr R.LSU_STATUS_STANDBY_READY 1).wr R.LSU_OFFSET_MHZ mhz.toNat else c.wr (R.LSU_COMB_OUTPUT x) 30
      let c := if c.light.granted.contains x then (c.ctrlResult 2).setLight (fun l => { l with granted := l.granted.filter (· != x) }) else c
      if st = 4 then c.event Ev.combRestart none (Unit.light x) [1] else c))

/-- STANDBY_LOST (R66, R84): a standby is lost; in fallback a comb's offset lock to FB0 breaks, and HELD starts again (R81). The break of the returning comb's lock ends its return (R82;
DESIGN CHOICE, log entry 155). -/
def execStandbyLost (comb : Fin 2) (s : State) : Result :=
  .next (s.onChip (fun c =>
    if c.rd (R.LSU_COMB_STATE comb.val) = 2 ∧ c.onComb = true then c.standbyGone comb.val
    else if c.rd (R.LSU_COMB_STATE comb.val) = 7 then c.returnFails comb.val
    else if c.fallbackMode then c.dropOffset comb.val else c))

/-- COMB_RESTART (R72): PCU firmware that holds the token starts an attempt for a comb in the restarting state that has attempts left. -/
def execCombRestart (comb : Fin 2) (s : State) : Result :=
  .next (s.onChip (fun c =>
    let x := comb.val
    if c.tokenHeld && c.rd (R.LSU_COMB_STATE x) == 4 && (getKey x c.light.restartAt).isNone
        && (c.light.granted.contains x || decide (c.rd (R.LSU_COMB_RESTARTS_USED x) < c.rd R.LSU_CFG_RESTARTS)) then
      (c.count (R.LSU_COMB_RESTARTS_USED x)).setLight (fun l => { l with restartAt := putKey x c.now l.restartAt })
    else c))

/-- RESTART_TIMEOUT (R72): an attempt has not reached STANDBY_READY within 2 s; with its attempts used up the comb is fenced. -/
def execRestartTimeout (comb : Fin 2) (s : State) : Result :=
  .next (s.onChip (fun c =>
    let x := comb.val
    match getKey x c.light.restartAt with
    | none => c
    | some t =>
      if c.now < t + 2000000000 then c
      else
        let granted := c.light.granted.contains x
        let c := ((c.unlockComb x).setLight (fun l => { l with restartAt := delKey x l.restartAt, granted := l.granted.filter (· != x) })).event Ev.combRestart none (Unit.light x) [0]
        let c := if granted then c.ctrlResult 6 else c
        if c.rd R.LSU_CFG_RESTARTS ≤ c.rd (R.LSU_COMB_RESTARTS_USED x) then c.combFenced x else c))

/-- LSU_SWAP, LSU_RETURN, LSU_RESTART: a write of LSU.CTRL (R65, R72, R73, R81). -/
def execLsuSwap (req : Requester) (v : BitVec 32) (s : State) : Result :=
  .next (s.onChip (fun c => c.writeReg req R.LSU_CTRL v.toNat (lsuCtrlHook v.toNat)))
def execLsuReturn (req : Requester) (v : BitVec 32) (s : State) : Result :=
  .next (s.onChip (fun c => c.writeReg req R.LSU_CTRL v.toNat (lsuCtrlHook v.toNat)))
def execLsuRestart (req : Requester) (v : BitVec 32) (s : State) : Result :=
  .next (s.onChip (fun c => c.writeReg req R.LSU_CTRL v.toNat (lsuCtrlHook v.toNat)))

/-- LSU_CTRL_PENDING_RUN (R65): a PCU holds the token again, and the held command is checked again and carried out or abandoned. -/
def execLsuCtrlPendingRun (s : State) : Result :=
  .next (s.onChip (fun c => match c.light.heldCtrl with
    | some v =>
      if c.tokenHeld then
        let c := c.setLight (fun l => { l with heldCtrl := none })
        if (c.ctrlRefusal v).isSome then c.ctrlResult 6 else c.lsuCtrl v
      else c
    | none => c))

/-- RETURN_COMMIT (R81): every lane of branch H has locked or, as named, failed; the return commits at the next row boundary. -/
def execReturnCommit (failed : List FenceSign) (s : State) : Result :=
  .next (s.onChip (fun c => match c.light.returning with
    | some (_, r, true) =>
      if c.rd R.LSU_STATUS_MODE = 6 ∧ r ≤ c.row ∧ c.tokenHeld = true ∧ c.returnLocked = true then c.setLight (fun l => { l with commit := some failed }) else c
    | _ => c))

/-- DARK_MODE (R80): FB0 loses its light in fallback. -/
def execDarkMode (s : State) : Result :=
  .next (s.onChip (fun c => if c.fallbackMode then (c.wr R.LSU_STATUS_FB0_LIGHT 0).darkMode else c))

/-- DETECT_HOLD_END (R57): the 20 µs hold of a switch-over, a SWAP or a return ends; the lanes that have not re-acquired come with it and are
fenced. -/
def execDetectHoldEnd (lost : List FenceSign) (s : State) : Result :=
  .next (s.onChip (fun c =>
    let timeUp := match c.light.changeAt with
      | some t => decide (t + 40000 ≤ c.cycles)
      | none => true
    if c.on R.OPF_STATUS_DETECT_HOLD ∧ c.rd R.LSU_STATUS_MODE ≠ 4 ∧ timeUp = true then (c.changeEnds.each lost Chip.fenceSign).relocked else c))

end Sys2Proof.Machine
end

