-- ==== Sys2Proof/Machine/Fec.lean ====
section
/-! DEFINITION. The code and the symbols of a port lane: RS(544,514) over GF(2¹⁰), the layout of a row in codewords, 16-QAM and the rotation of its carrier phase (R203 to R205). -/

namespace Sys2Proof.Machine

/-! The field with the polynomial x¹⁰ + x³ + 1 (R204). -/

/-- Product with x. -/
def gfStep (a : Nat) : Nat := if bitOf a 9 then Nat.xor (2 * a % 1024) 9 else 2 * a

/-- Product: the multiples of `a` by powers of x that the bits of `b` select. -/
def gfMul (a b : Nat) : Nat := ((List.range 10).foldl (fun (p : Nat × Nat) i => (if bitOf b i then Nat.xor p.1 p.2 else p.1, gfStep p.2)) (0, a)).1

/-- The power of the generator x with exponent `n`. -/
def gfExp (n : Nat) : Nat := (List.range (n % 1023)).foldl (fun a _ => gfStep a) 1

/-- The inverse: the power 1,022, which is the product of the powers 2, 4 to 512. -/
def gfInv (a : Nat) : Nat := ((List.range 9).foldl (fun (p : Nat × Nat) _ => (gfMul p.1 (gfMul p.2 p.2), gfMul p.2 p.2)) (1, a)).1

/-- A polynomial, lowest coefficient first: its value at a point, the sum of two, a multiple, a product by x. -/
def polyAt (p : List Nat) (x : Nat) : Nat := p.foldr (fun a v => Nat.xor a (gfMul x v)) 0
def polyAdd : List Nat → List Nat → List Nat
  | [], q => q
  | p, [] => p
  | a :: p, b :: q => Nat.xor a b :: polyAdd p q
def polyScale (k : Nat) (p : List Nat) : List Nat := p.map (gfMul k)

/-! Encoding. -/

/-- The generator polynomial, the product of x − αʲ for j from 0 to 29, lowest coefficient first (R204; log entry 128). -/
def rsGenerator : List Nat := (List.range 30).foldl (fun g j => polyAdd (0 :: g) (polyScale (gfExp j) g)) [1]

/-- The 30 parity symbols of 514 message symbols, in the order sent (R204). -/
def rsParity (msg : List Nat) : List Nat :=
  let low := (rsGenerator.take 30).reverse
  msg.foldl (fun r m =>
    let k := Nat.xor m (r.headD 0)
    (r.drop 1 ++ [0]).zipWith Nat.xor (polyScale k low)) (List.replicate 30 0)

/-- A codeword: the message symbols first, then the parity symbols. -/
def rsEncode (msg : List Nat) : List Nat := msg ++ rsParity msg

/-! Decoding. -/

/-- The syndromes of a received word: its value at the 30 roots of the generator. -/
def syndromes (word : List Nat) : List Nat := (List.range 30).map (fun j => polyAt word.reverse (gfExp j))

/-- The search for the shortest recurrence of the syndromes: the error locator so far and the one before its last change, with its discrepancy; its degree; steps since that change. -/
structure Locator where
  c : List Nat
  b : List Nat
  d : Nat
  l : Nat
  m : Nat
  deriving DecidableEq, Repr

/-- One step of the search, at syndrome `n`. -/
def Locator.step (s : List Nat) (x : Locator) (n : Nat) : Locator :=
  let d := (List.range (x.l + 1)).foldl (fun v i => if i ≤ n then Nat.xor v (gfMul (x.c.getD i 0) (s.getD (n - i) 0)) else v) 0
  if d = 0 then { x with m := x.m + 1 }
  else
    let c := polyAdd x.c (List.replicate x.m 0 ++ polyScale (gfMul d (gfInv x.d)) x.b)
    if 2 * x.l ≤ n then { c := c, b := x.c, d := d, l := n + 1 - x.l, m := 1 } else { x with c := c, m := x.m + 1 }

/-- The error locator of a received word and its degree. -/
def errorLocator (s : List Nat) : Locator := (List.range 30).foldl (Locator.step s) ⟨[1], [1], 1, 0, 1⟩

/-- The error of the symbol that stands for the power `i` of x, where the locator has a root there (Forney's formula). -/
def errorAt (s : List Nat) (c : List Nat) (i : Nat) : Nat :=
  let x := gfExp i
  let y := gfInv x
  let omega := (List.range 30).map (fun n => (List.range (n + 1)).foldl (fun v k => Nat.xor v (gfMul (c.getD k 0) (s.getD (n - k) 0))) 0)
  let odd := (List.range c.length).map (fun k => if k % 2 = 0 then c.getD (k + 1) 0 else 0)
  gfMul x (gfMul (polyAt omega y) (gfInv (polyAt odd y)))

/-- A received word of 544 symbols: its codeword with up to 15 symbols corrected and whether any was, or none where it is uncorrectable (R204). -/
def rsDecode (word : List Nat) : Option (List Nat × Bool) :=
  let s := syndromes word
  if s.all (fun v => v == 0) then some (word, false)
  else
    let e := errorLocator s
    let at_ := (List.range 544).filter (fun i => polyAt e.c (gfInv (gfExp i)) == 0)
    if 15 < e.l ∨ at_.length ≠ e.l then none
    else
      let fixed := at_.foldl (fun w i => updAt (543 - i) (fun v => Nat.xor v (errorAt s e.c i)) w) word
      if (syndromes fixed).all (fun v => v == 0) then some (fixed, true) else none

/-! Symbols (R203). -/

/-- The level that a pair of bits selects. -/
def qamLevel (hi lo : Bool) : Int :=
  match hi, lo with
  | false, false => -3 | false, true => -1 | true, true => 1 | true, false => 3

/-- The symbols of the encoder's output, four bits at a time, the first as b3: (b3, b2) the I level, (b1, b0) the Q level. -/
def qamSymbols (bits : List Bool) : List (Int × Int) :=
  (chunks 4 bits.length bits).map (fun g => (qamLevel (g.getD 0 false) (g.getD 1 false), qamLevel (g.getD 2 false) (g.getD 3 false)))

/-- The bits of a level, and of symbols. -/
def levelBits (v : Int) : List Bool := if v ≤ -2 then [false, false] else if v ≤ 0 then [false, true] else if v ≤ 2 then [true, true] else [true, false]
def qamBits (l : List (Int × Int)) : List Bool := l.flatMap (fun s => levelBits s.1 ++ levelBits s.2)

/-- A symbol turned by k quarter turns. -/
def turn : Nat → Int × Int → Int × Int
  | 0, s => s
  | k + 1, s => turn k (-s.2, s.1)

/-- The rotation of a receiver's carrier phase, in quarter turns, from the symbols in which it sees the sync word; and the symbols with a rotation removed. -/
def findRotation (seen : List (Int × Int)) : Option Nat :=
  (List.range 4).find? (fun k => seen == (qamSymbols (bytesBits (leBytes 8 syncWord))).map (turn k))
def unturn (k : Nat) (seen : List (Int × Int)) : List (Int × Int) := seen.map (turn (4 - k % 4))

/-! The row of a port lane (R205). -/

/-- Message bits of a codeword, codewords of a row. -/
def wordBits : Nat := 5140
def rowWords : Nat := 48

/-- The codewords that hold the bits of frame `slot`, and of the port marker. -/
def wordsOfFrame (slot : Nat) : List Nat := (List.range rowWords).filter (fun c => decide (frameAt slot / wordBits ≤ c) && decide (c ≤ (frameAt slot + 3199) / wordBits))
def markerWord : Nat := 47

/-- The codewords of a message stream: each symbol takes ten bits, the first as bit 0 (R204). -/
def codewords (message : List Bool) : List (List Nat) :=
  (chunks wordBits message.length message).map (fun w => rsEncode ((chunks 10 w.length w).map bitsNat))

/-- The message stream of a row: 77 frames scrambled from the seed of the lane, the sync word, the rest of the marker scrambled (R205, R207). -/
def portMessage (row lane : Nat) (frames : List Frame) (marker : List Nat) : List Bool :=
  let fs := frames.flatMap (fun f => bytesBits (Frame.bytes f))
  scrambleIf true fs (portSeed row lane) ++ bytesBits (leBytes 8 syncWord) ++ scrambleIf true (bytesBits marker) (scramblerAfter (portSeed row lane) fs.length)

/-- The symbols of a row: 48 codewords, then the guard (R205). -/
def portSymbols (message : List Bool) : List (Int × Int) :=
  qamSymbols ((codewords message).flatMap (fun w => w.flatMap (fun v => (List.range 10).map (bitOf v))))
    ++ (List.range 256).map (fun i => if i % 2 = 0 then (3, 3) else (-3, -3))

end Sys2Proof.Machine
end

