-- ==== Sys2Proof/Machine/Links.lean ====
section
/-! DEFINITION. The link layer of on-package lanes and port lanes: sending and receiving frames and markers, acknowledgement and go-back,
training, pattern runs and error injection (R116 to R140, R205 to R217). A link is named by site, plane and wavelength of its transmit ring, a
port lane by 24 + port, 0 and the lane. -/

namespace Sys2Proof.Machine

/-- The name of a link. -/
def linkKey : LinkLane → Nat × Nat × Nat
  | .pkg l => (l.site.val, l.plane.val, l.k.val)
  | .port j l => (24 + j.val, 0, l.val)

/-- Whether a link is a port lane's, and its port. -/
def isPort (key : Nat × Nat × Nat) : Bool := decide (24 ≤ key.1)
def portOf (key : Nat × Nat × Nat) : Nat := key.1 - 24

/-- The state of a link's sending end and of its receiving end (R135, R212). The lanes of a warm spare send the idle pattern under the spare's own name; those of a spare in service have the names
of the lanes that it carries (R46). -/
def Chip.txState (c : Chip) (key : Nat × Nat × Nat) : Nat :=
  if isPort key then c.portLane (portOf key) key.2.2 false
  else if Config.planeKind key.1 key.2.1 = 3 then (if c.sideState ⟨key.1, key.2.1, false⟩ % 2 = 1 then lsOFF else c.spareEntry key.1 key.2.1 key.2.2)
  else c.laneState key.1 key.2.1 key.2.2
def Chip.rxState (c : Chip) (key : Nat × Nat × Nat) : Nat :=
  if isPort key then c.portLane (portOf key) key.2.2 true else c.laneState key.1 key.2.1 key.2.2

/-- Depth of the replay buffer (R129, R212). -/
def replayDepth (key : Nat × Nat × Nat) : Nat :=
  if isPort key then 256 else if Config.planeKind key.1 key.2.1 = 2 then 24 else 16

/-- The go-back timeout in frame slots (R131, R212). -/
def Chip.linkTimeout (c : Chip) (key : Nat × Nat × Nat) : Nat :=
  if isPort key then max 0x40 (c.rd (R.EDGE_CFG2_TIMEOUT (portOf key))) else max 0x10 (c.rd (R.LANE_CFG_TIMEOUT key.1))

/-- The row that a receiver expects in a link's stream: its own, or for a port lane the one its markers establish (R126, R212). -/
def Chip.streamRow (c : Chip) (key : Nat × Nat × Nat) : Nat :=
  if isPort key then (getKey (portOf key, key.2.2) c.edge.inRow).getD c.row else c.row

/-- The link whose sending end is at the receiver of `key`, and whose acknowledgements travel in `key`'s trailers (R127, R212). -/
def ackedLink (key : Nat × Nat × Nat) : Option (Nat × Nat × Nat) := if isPort key then some key else partner key.1 key.2.1 key.2.2

/-- The acknowledged sequence of a link: the last frame taken, 0xFFFF before any; a RUN frame whose run is not open yet is not acknowledged, nor is any after it (R129, R191). -/
def Chip.ackSeq (c : Chip) (key : Nat × Nat × Nat) : Nat :=
  let r := c.linkRx key
  if r.accepted then subMod 16 (((c.circ.early.find? (fun f => f.1 == key)).map (·.2.seq)).getD r.expect) 1 else 0xFFFF

/-! Retry events. -/

/-- A retry event of a link (R132): counted, in the fence window unless excepted; too many in the window fence the lane with code 0x5. -/
def Chip.linkRetry (c : Chip) (key : Nat × Nat × Nat) (inWindow : Bool) : Chip :=
  if isPort key then
    let j := portOf key
    let l := key.2.2
    let c := c.count (R.EDGE_LANE_RETRY_COUNT j l)
    if inWindow then
      let t := c.linkTx key
      let w := t.window.filter (fun r => decide (c.row < r + c.rdPos (R.EDGE_CFG_RETRY_WIN j))) ++ [c.row]
      let c := (c.setTx key { t with window := w }).wr (R.EDGE_LANE_STATE_WIN_COUNT j l) (min 255 w.length)
      if c.rdPos (R.EDGE_CFG_RETRY_MAX j) < w.length then c.fencePort j l false 5 else c
    else c
  else
    let c := c.retryEvent key inWindow
    if inWindow ∧ c.rdPos (R.LANE_CFG_RETRY_MAX key.1) < (c.linkTx key).window.length then c.fence key.1 key.2.1 key.2.2 5 false false else c

/-- The circuit or port whose run groups a link carries. -/
def runsOn (key : Nat × Nat × Nat) : Option Nat :=
  if isPort key then some (112 + portOf key) else if Config.planeKind key.1 key.2.1 = 2 then some (switchedIndex key.1 key.2.1) else none

/-- Groups whose frames were acknowledged are no longer in flight; a run that an edge site has sent whole on a port is gone (R222). -/
def Chip.runsAcked (c : Chip) (key : Nat × Nat × Nat) (seqs : List Nat) : Chip :=
  match runsOn key with
  | none => c
  | some e =>
    let c := c.onCirc (fun x => { x with src := x.src.map (fun r => if r.e = e then
      { r with sent := r.sent.filter (fun g => !(g.2.1 == key.2.2 && seqs.contains g.2.2)) } else r) })
    let ended := (c.srcRuns e).filter (fun r => r.opened && r.todo.isEmpty && r.sent.isEmpty && (decide (112 ≤ e) || r.answered))
    c.each ended (fun c r =>
      let c := c.dropSrcRun r
      match r.relayOf with
      | some (s, e', n) => if 112 ≤ e then c.onCirc (fun x => { x with dst := x.dst.filter (fun d => !(d.site == s && d.e == e' && d.runNo == n)) }) else c
      | none => c)

/-- An acknowledged sequence and NAK flag reach the sending end of a link (R126, R129 to R132). A NAK in the frame slot of a timeout go-back is one go-back with it (R136). A go-back on a NAK
stays out of the window only when an injection caused it: the NAK names the frame before the one that the injection changed (R140). -/
def Chip.takeAck (c : Chip) (key : Nat × Nat × Nat) (a : Nat) (nak : Bool) : Chip :=
  let t := c.linkTx key
  if t.suppressRow = some c.row then c.setTx key { t with quiet := t.quiet || t.suppressFree }
  else
    let done := fun (f : Frame) => decide (subMod 16 a f.seq < 32768)
    let keep := t.replay.filter (fun f => !done f)
    let progress := decide (keep.length < t.replay.length)
    let caused := t.injected.any (fun q => a == subMod 16 q 1)
    let c := c.runsAcked key ((t.replay.filter (fun f => done f && f.ftype == ftRUN)).map (·.seq))
    let t' : LinkTx := { t with
      replay := keep, waited := if progress || nak then 0 else t.waited, resend := if nak then keep.length else min t.resend keep.length, ackLate := false
      injected := if nak && caused || t.injected.any (fun q => !keep.any (fun f => f.seq == q)) then none else t.injected, quiet := t.quiet && !progress
      backs := if nak && !t.wentBack then t.backs + 1 else t.backs }
    let c := c.setTx key t'
    if nak && !t.wentBack then c.linkRetry key (!caused) else c

/-! Sending. -/

/-- The identity in a TRAIN frame (R125, R214). -/
def Chip.trainPayload (c : Chip) (key : Nat × Nat × Nat) : List Nat :=
  let site := if isPort key then 18 + portOf key / 4 else key.1
  let plane := if isPort key then 38 + portOf key % 4 else key.2.1
  leBytes 4 (c.node * 2 ^ 20 + site * 2 ^ 15 + plane * 2 ^ 9 + key.2.2 * 2 ^ 3)

/-- A frame of a link for a frame slot: sequence, acknowledgement and NAK of the link that runs the other way, slot and row tag, CRC (R124, R125). -/
def Chip.makeFrame (c : Chip) (key : Nat × Nat × Nat) (slot ftype flags seq runCheck : Nat) (payload : List Nat) : Frame :=
  let q := ackedLink key
  let nak := match q with
    | some q => (c.linkRx q).nakDue && !(c.linkRx q).netAck
    | none => false
  Frame.sealed { payload := padTo 384 payload, seq := seq % 65536, ack := (q.map c.ackSeq).getD 0xFFFF, ftype := ftype
                 flags := flags + (if nak then 64 else 0), slot := slot, rowTag := c.row % 256, runCheck := runCheck }

/-- A NAK that a frame carries has been sent (R130). -/
def Chip.nakSent (c : Chip) (key : Nat × Nat × Nat) : Chip :=
  match ackedLink key with
  | some q => let r := c.linkRx q
    if r.nakDue && !r.netAck then c.setRx q { r with nakDue := false, nakSent := true, nakSlots := 0 } else c
  | none => c

/-- A frame leaves on a link; the oldest unacknowledged frame has waited one frame slot more (R131). -/
def Chip.emit (c : Chip) (key : Nat × Nat × Nat) (f : Frame) : Chip :=
  let c := c.nakSent key
  let t := c.linkTx key
  c.setTx key { t with lastFrame := some f, waited := if t.replay.isEmpty then 0 else t.waited + 1, sent := t.sent ++ [(f.slot, isData f.ftype)], wentBack := false }

/-- A frame that is not a data frame: it repeats the last assigned sequence (R125). -/
def Chip.emitPlain (c : Chip) (key : Nat × Nat × Nat) (slot ftype : Nat) (payload : List Nat) : Chip :=
  c.emit key (c.makeFrame key slot ftype 0 (subMod 16 (c.linkTx key).nextSeq 1) 0 payload)

/-- The armed injection of a link (R140). -/
def Chip.injectionOn (c : Chip) (key : Nat × Nat × Nat) : Option Injection :=
  if isPort key then c.edge.inj.find? (fun i => i.site == portOf key && i.k == key.2.2)
  else c.lanes.inj.find? (fun i => i.site == key.1 && i.plane == key.2.1 && i.k == key.2.2)

/-- An injection has been applied (R140). One of modes 1 to 3 that is not to count in the fence window is remembered with the sequence of the frame it changed. -/
def Chip.injected (c : Chip) (key : Nat × Nat × Nat) (i : Injection) (seq : Nat) : Chip :=
  let c := if isPort key then (c.onEdge (fun e => { e with inj := dropFirst (fun x => x == i) e.inj })).edgeInjResult (portOf key) 2
    else (c.onLanes (fun y => { y with inj := dropFirst (fun x => x == i) y.inj })).injResult key.1 2
  if i.mode ≤ 3 ∧ i.countFence = false then c.setTx key { c.linkTx key with injected := some seq } else c

/-- The first byte of a list with its lowest bit turned round. -/
def flipFirst : List Nat → List Nat
  | [] => []
  | b :: bs => (if b % 2 = 0 then b + 1 else b - 1) :: bs

/-- A data frame as an injection changes the copy that is sent (R140): one payload bit, the CRC, a sequence number skipped. -/
def injectFrame (mode : Nat) (f : Frame) : Frame :=
  if mode = 1 then { f with payload := flipFirst f.payload }
  else if mode = 2 then { f with crc := Nat.xor (f.crc % 2 ^ 32) 0xFFFFFFFF }
  else if mode = 3 then Frame.sealed { f with seq := (f.seq + 1) % 65536 }
  else f

/-- A new data frame leaves: numbered, kept in the replay buffer, changed by an armed injection (R125, R129, R140). -/
def Chip.emitData (c : Chip) (key : Nat × Nat × Nat) (slot ftype flags runCheck : Nat) (payload : List Nat) : Chip :=
  let t := c.linkTx key
  let inj := c.injectionOn key
  let payload := if ftype = ftSTITCH ∧ inj.any (fun i => i.mode == 6) then payload.take 24 ++ flipFirst (payload.drop 24) else payload
  let f := c.makeFrame key slot ftype flags t.nextSeq runCheck payload
  let c := c.setTx key { t with nextSeq := (t.nextSeq + 1) % 65536, replay := t.replay ++ [f] }
  let c := if isPort key then c else c.wr (R.LANE_STATE_NEXT_SEQ key.1 key.2.1 key.2.2) ((t.nextSeq + 1) % 65536)
  match inj with
  | some i =>
    if i.mode ≤ 3 then (c.emit key (injectFrame i.mode f)).injected key i f.seq
    else if i.mode = 6 ∧ ftype = ftSTITCH then (c.emit key f).injected key i f.seq
    else c.emit key f
  | none => c.emit key f

/-- Whether a fixed lane offers slots now (R164): Up and not booked. -/
def Chip.offersNow (c : Chip) (s p k : Nat) : Bool := fixedTraffic s p k && c.laneState s p k == lsUP && !c.laneBooked s p k

/-- Lanes of the skein from `s` to `d` that offered slots at the boundary of this row: Up and not booked then, whatever has become of them in mid-row (R165). -/
def Chip.offering (c : Chip) (s d : Nat) : Nat :=
  let k := skeinK s d
  ((List.range 32).filter (fun p => fixedTraffic s p k && (getKey (s, p, k) c.lanes.wasUp).getD (c.laneState s p k == lsUP) && !c.lanes.calBooked.contains (s, p, k))).length

/-- S of the slot calendar of a skein, or of a port (24 + j) by its data lanes in service and not reserved (R165, R233). -/
def Chip.portSlots (c : Chip) (j : Nat) : Nat := 308 * ((List.range 36).filter (fun l => c.dataInService j l false && !(c.reservedLanes j).contains l)).length
def Chip.slotsOf (c : Chip) (s d : Nat) : Nat := if s < 24 then 140 * c.offering s d else (getKey (s, 0) c.xport.cal).getD (c.portSlots (s - 24))

/-- SHARE of a tenant: values above 256 act as 256 (PART.TENANT_t); zero for one that is not enabled. -/
def Chip.share (c : Chip) (t : Nat) : Nat := if c.tenantOn t then min 256 (c.rd (R.PART_TENANT_SHARE t)) else 0

/-- G_t, the guarantee of a tenant: by its SHARE and EN at the boundary of the row (R165, R174). -/
def Chip.guarantee (c : Chip) (s d t : Nat) : Nat := c.slotsOf s d * (getKey t c.xport.shares).getD (c.share t) / 256

/-- Step 6 of a row boundary: the slot calendars are set up and use counts start again (R165). -/
def Chip.newCalendars (c : Chip) : Chip :=
  let ports := (List.range 16).filter c.portUp
  (c.onXport (fun x => { x with used := [], cal := ports.map (fun j => ((24 + j, 0), c.portSlots j)), shares := (List.range 16).map (fun t => (t, c.share t)) })).onLanes
    (fun y => { y with wasUp := [], calBooked := (((c.tns.swatches.filter (·.begun)).map Swatch.lane) ++ (c.lanes.runs.filter (·.booked)).map (fun r => (r.site, r.plane, r.k))).eraseDups })

/-- Slots that a tenant has used in the row. -/
def Chip.usedSlots (c : Chip) (s d t : Nat) : Nat := (getKey (s, d, t) c.xport.used).getD 0

/-- A stitch that waits for a slot: its stitch, and where it is kept: a source adapter's, an edge site's to pass on, or a port's. -/
inductive SlotCand where
  | own (st : Stitch)
  | relay (x : PoolEntry)
  | port (x : PoolEntry)
  deriving DecidableEq, Repr

/-- The stitch of a candidate. -/
def SlotCand.st : SlotCand → Stitch
  | .own st => st
  | .relay x => x.st
  | .port x => x.st

/-- The stitches that wait for a slot from `s` to `d` and hold what they need (R164, R168, R231): those of classes 0 to 3, and class-4 stitches that an edge site passes to another edge site, whose
port they leave by (R146, R238). -/
def Chip.slotCands (c : Chip) (s d : Nat) : List SlotCand :=
  if s < 24 then
    ((c.xport.waiting.filter (fun x => x.1 == s && c.nextSite x.2 == d && x.2.cls != 4)).map (fun x => SlotCand.own x.2)
      ++ (c.edge.relay.filter (fun x => x.1 == s && x.2.1 == d)).map (fun x => SlotCand.relay x.2.2)).filter
        (fun x => c.hasCredit s d x.st)
  else (c.edge.portQ.filter (fun x => x.1 == s - 24 && x.2.st.cls != 4)).map (fun x => SlotCand.port x.2)

/-- The tenant that takes a slot: the least used/G under its guarantee, else the next in turn (R165). -/
def Chip.slotTenant (c : Chip) (s d : Nat) (ts : List Nat) : Option Nat :=
  let under := ts.filter (fun t => decide (c.usedSlots s d t < c.guarantee s d t))
  let best := under.foldl (fun (b : Option Nat) t => match b with
    | none => some t
    | some x =>
      let l := c.usedSlots s d t * c.guarantee s d x
      let r := c.usedSlots s d x * c.guarantee s d t
      if l < r ∨ (l = r ∧ t < x) then some t else some x) none
  match best with
  | some t => some t
  | none =>
    let turn := (getKey (s, d) c.xport.turn).getD 15
    (((List.range 16).map (fun i => (turn + 1 + i) % 16)).find? (fun t => ts.contains t))

/-- The oldest of a list of candidates by its entry time (R149, R166). -/
def Chip.oldest (c : Chip) (l : List SlotCand) : Option SlotCand :=
  l.foldl (fun b x => match b with
    | none => some x
    | some y => if c.entryTime x.st < c.entryTime y.st then some x else some y) none

/-- The stitch that takes the next slot from `s` to `d` (R165, R166). A class-4 stitch, which has no tenant, goes first (DESIGN CHOICE, log entry 163; safe). -/
def Chip.slotWinner (c : Chip) (s d : Nat) : Option SlotCand :=
  let cands := c.slotCands s d
  if cands.any (fun x => x.st.cls == 4) then c.oldest (cands.filter (fun x => x.st.cls == 4))
  else match c.slotTenant s d ((cands.map (fun x => x.st.tenant)).eraseDups) with
  | none => none
  | some t =>
    let mine := cands.filter (fun x => x.st.tenant == t)
    let bulk := mine.filter (fun x => x.st.cls == 0)
    let order := if 7 ≤ (getKey (s, d, t) c.xport.streak).getD 0 ∧ bulk.isEmpty = false then [0, 1, 2, 3] else [1, 2, 3, 0]
    (order.findSome? (fun k => c.oldest (mine.filter (fun x => x.st.cls == k))))

/-- A slot is used by a tenant (R165, R166, PART.SLOTS). -/
def Chip.useSlot (c : Chip) (s d : Nat) (st : Stitch) : Chip :=
  let t := st.tenant
  let under := decide (c.usedSlots s d t < c.guarantee s d t)
  let c := c.onXport (fun x => { x with
    used := putKey (s, d, t) ((getKey (s, d, t) x.used).getD 0 + 1) x.used
    streak := putKey (s, d, t) (if st.cls = 0 then 0 else (getKey (s, d, t) x.streak).getD 0 + 1) x.streak
    turn := if under then x.turn else putKey (s, d) t x.turn })
  if s < 24 then c.wrPair (R.PART_SLOTS_LO_SLOTS t) (R.PART_SLOTS_HI_SLOTS t) ((c.rdPair (R.PART_SLOTS_LO_SLOTS t) (R.PART_SLOTS_HI_SLOTS t) + 1) % 2 ^ 48)
  else c

/-- A candidate leaves its queue for a frame: credits are taken and entries freed; on a port it has crossed one package more (R168, R232, R234). -/
def Chip.takeCand (c : Chip) (s d : Nat) (x : SlotCand) : Stitch × Chip :=
  match x with
  | .own st => (st, (c.onXport (fun y => { y with waiting := dropFirst (fun z => z.1 == s && z.2 == st) y.waiting })).takeCredit s d st)
  | .relay p => (p.st, ((c.onEdge (fun y => { y with relay := dropFirst (fun z => z == (s, d, p)) y.relay })).freeEntry p).takeCredit s d p.st)
  | .port p => ({ p.st with hops := (p.st.hops + 1) % 32 }, (c.onEdge (fun y => { y with portQ := dropFirst (fun z => z == (s - 24, p)) y.portQ })).freeEntry p)

/-- A slot goes to a candidate: it leaves its queue. A class-4 stitch is counted for no tenant. -/
def Chip.giveSlot (c : Chip) (s d : Nat) (x : SlotCand) : Stitch × Chip := (if x.st.cls = 4 then c else c.useSlot s d x.st).takeCand s d x

/-- The next `n` stitches that win slots from `s` to `d`, in the order of the slots (R165, R166). -/
def Chip.winners (c : Chip) (s d : Nat) : Nat → List SlotCand
  | 0 => []
  | n + 1 =>
    match c.slotWinner s d with
    | none => []
    | some x => x :: (c.giveSlot s d x).2.winners s d n

/-- The stitches of a frame of the lane in place `r` of `m` lanes that offer the same four slots and have not sent yet (R164): the winners fill the slots in the order of time, slot 0 of every lane
by rising plane, then slot 1, so every `m`th winner is this lane's. -/
def Chip.fillSlots (c : Chip) (s d m r : Nat) : List Stitch × Chip :=
  (((c.winners s d (4 * m)).zipIdx.filter (fun x => x.2 % m == r)).map (·.1)).foldl (fun z x =>
    let (st, c) := z.2.giveSlot s d x
    (z.1 ++ [st], c)) ([], c)

/-- The planes of the lanes of a fixed lane's skein that offer the same slots and have not sent yet, its own among them (R164): Up, not booked, free to send new data, and without a frame in frame
slot `slot` of this row. -/
def Chip.slotPlanes (c : Chip) (key : Nat × Nat × Nat) (slot : Nat) : List Nat :=
  (List.range 32).filter (fun p => p == key.2.1 || (c.offersNow key.1 p key.2.2 &&
    (let t := c.linkTx (key.1, p, key.2.2)
     t.resend == 0 && decide (t.replay.length < replayDepth (key.1, p, key.2.2)) && !t.sent.any (fun x => x.1 == slot))))

/-- Up to `n` class-4 stitches of lane 39 of port `j` (R213). Each holds the control credit that it took when it was queued for the port (R235, R238). -/
def Chip.fillControl (c : Chip) (j : Nat) : Nat → List Stitch × Chip
  | 0 => ([], c)
  | n + 1 =>
    match c.edge.portQ.find? (fun x => x.1 == j && x.2.st.cls == 4) with
    | none => ([], c)
    | some x =>
      let c := (c.onEdge (fun y => { y with portQ := dropFirst (fun z => z == x) y.portQ })).freeEntry x.2
      let (rest, c) := c.fillControl j n
      ({ x.2.st with hops := (x.2.st.hops + 1) % 32 } :: rest, c)

/-- A STITCH frame leaves, or IDLE where no stitch takes a slot (R125). -/
def Chip.emitStitches (c : Chip) (key : Nat × Nat × Nat) (slot : Nat) (sts : List Stitch) : Chip :=
  if sts.isEmpty then c.emitPlain key slot ftIDLE []
  else c.emitData key slot ftSTITCH (2 ^ sts.length - 1) 0 (sts.flatMap Stitch.bytes)

/-- Whether a run's data for a group is at hand: in memory with no modified processor copy and no zeroing (R390, R395), or come to the edge site (R222). -/
def Chip.groupAtHand (c : Chip) (r : SrcRun) (g : Nat) : Bool :=
  match r.relayOf with
  | none => (c.obstacle ((List.range (groupSize r.opening g)).filterMap (fun i => c.resolve r.opening.tenant (blockAddr r.src r.srcLocal (6 * g + i))))
      false none).isNone
  | some (s, e, n) => c.circ.dst.any (fun d => d.site == s && d.e == e && d.runNo == n && d.got.any (fun x => x.1 == g))

/-- The next group that a lane sends: least order class, then run order (R190, R193). -/
def Chip.nextGroup (c : Chip) (e k : Nat) : Option (SrcRun × Nat × Nat) :=
  let firsts := (c.srcRuns e).filterMap (fun r => (r.todo.find? (fun g => g.2.1 == k)).map (fun g => (r, g.1, g.2.2)))
  (firsts.foldl (fun (b : Option (SrcRun × Nat × Nat)) x => match b with
    | none => some x
    | some y => if x.2.2 < y.2.2 then some x else some y) none).filter (fun x => c.groupAtHand x.1 x.2.1)

/-- The blocks of a group, from memory at the source (unmapped blocks read as zero) or from the edge site's landing (R188, R190). -/
def State.groupBlocks (s : State) (r : SrcRun) (g : Nat) : List (List Nat) :=
  match r.relayOf with
  | none => (List.range (groupSize r.opening g)).map (fun i =>
      match s.chip.resolve r.opening.tenant (blockAddr r.src r.srcLocal (6 * g + i)) with
      | some a => memRead s.mem a 64
      | none => List.replicate 64 0)
  | some (st, e, n) =>
    match s.chip.circ.dst.find? (fun d => d.site == st && d.e == e && d.runNo == n) with
    | some d => chunks 64 6 ((getKey g d.got).getD [])
    | none => []

/-- A lane of a circuit or of a port's reserved lanes sends an opening, a group, or IDLE (R184, R185, R190, R222). On a circuit an opening needs an ingress credit of the destination (R168). -/
def State.sendRun (s : State) (key : Nat × Nat × Nat) (e slot : Nat) : Chip :=
  let c := s.chip
  let k := key.2.2
  let idle := e < 112 && (
    c.circ.fresh.any (fun f => f.1 == e && f.2.1 == c.row && (slot == 0 || (f.2.2.contains k && decide (slot ≤ 17))))
      || (decide (33 ≤ slot) && c.circ.armed.any (fun a => a.target == some (c.row + 1) && (c.changed a.tenant a.pattern).contains e)))
  if idle then c.emitPlain key slot ftIDLE []
  else
    let dest := (switchedAt (c.rd (R.CIRC_PLANE_DST_BANK e))).1
    let waiting := ((c.srcRuns e).filter (fun r => !r.opened && r.startLane == k)).take 4
    let (opens, c) := waiting.foldl (fun (x : List SrcRun × Chip) r =>
      if 112 ≤ e then (x.1 ++ [r], x.2)
      else if x.2.hasCredit key.1 dest r.opening then (x.1 ++ [r], x.2.takeCredit key.1 dest r.opening) else x) ([], c)
    if !opens.isEmpty then
      let c := c.each opens (fun c r => c.setSrcRun r { r with opened := true })
      c.emitStitches key slot (opens.map (·.opening))
    else match c.nextGroup e k with
    | none => c.emitPlain key slot ftIDLE []
    | some (r, g, _) =>
      let blocks := s.groupBlocks r g
      let seq := (c.linkTx key).nextSeq
      let c := c.setSrcRun r { r with todo := r.todo.filter (fun x => x.1 != g), sent := r.sent ++ [(g, k, seq)] }
      c.emitData key slot ftRUN blocks.length (crc32c blocks.flatten) blocks.flatten

/-- An Up lane sends new data or IDLE. A lane booked for Cal or Test takes none, a switched one no group (R104, R139, R193); self-test and monitor lanes carry no traffic (R35, R36). -/
def State.sendNew (s : State) (key : Nat × Nat × Nat) (slot : Nat) : Chip :=
  let c := s.chip
  if isPort key then
    let j := portOf key
    if key.2.2 = 39 then
      let (sts, c) := c.fillControl j 4
      c.emitStitches key slot sts
    else if c.edge.ctrlOn.contains (j, false, key.2.2) then c.emitPlain key slot ftIDLE []
    else if (c.reservedLanes j).contains key.2.2 then s.sendRun key (112 + j) slot
    else if key.2.2 < 36 then
      let (sts, c) := c.fillSlots key.1 0 1 0
      c.emitStitches key slot sts
    else c.emitPlain key slot ftIDLE []
  else if c.laneBooked key.1 key.2.1 key.2.2 then c.emitPlain key slot ftIDLE []
  else if Config.planeKind key.1 key.2.1 = 2 then s.sendRun key (switchedIndex key.1 key.2.1) slot
  else if !fixedTraffic key.1 key.2.1 key.2.2 then c.emitPlain key slot ftIDLE []
  else
    let planes := c.slotPlanes key slot
    let (sts, c) := c.fillSlots key.1 ((key.1 + key.2.2) % 24) planes.length (planes.idxOf key.2.1)
    c.emitStitches key slot sts

/-- The pattern run that a link carries now (R138). -/
def Chip.runOn (c : Chip) (key : Nat × Nat × Nat) : Option PatRun :=
  if isPort key then c.edge.runs.find? (fun r => r.running && (24 + r.site, 0, r.k) == key)
  else c.lanes.runs.find? (fun r => r.running && (r.site, r.plane, r.k) == key)

/-- A pattern run in its new form. -/
def Chip.setRun (c : Chip) (key : Nat × Nat × Nat) (r r' : PatRun) : Chip :=
  if isPort key then c.onEdge (fun e => { e with runs := updFirst (fun x => x == r) (fun _ => r') e.runs })
  else c.onLanes (fun y => { y with runs := updFirst (fun x => x == r) (fun _ => r') y.runs })

/-- A PATTERN frame leaves: PRBS31 continues from frame to frame (R125, R138). -/
def Chip.emitPattern (c : Chip) (key : Nat × Nat × Nat) (slot : Nat) (r : PatRun) : Chip :=
  let (bits, gen) := prbs (31, 28) 3072 r.gen
  (c.setRun key r { r with gen := gen }).emitData key slot ftPATTERN 0 0 (bitsBytes bits)

/-- Whether a link carries data frames (R125, R138): in Up, and in Test, or on a self-test lane in Monitor, while a run in frame mode goes on. -/
def Chip.carriesData (c : Chip) (key : Nat × Nat × Nat) : Bool :=
  c.txState key == lsUP || ((c.txState key == lsTEST || c.txState key == lsMONITOR) && (c.runOn key).any (fun r => r.pattern == 5))

/-- A lane sends the frame of a frame slot (R125, R129, R131, R138): a frame of a go-back in progress, new data, or what its state carries. A lane that carries nothing, or a raw pattern, sends
no frame; an on-package lane has frame slots 0 to 34 (R121). -/
def State.sendFrame (s : State) (key : Nat × Nat × Nat) (slot : Nat) : Chip :=
  let c := s.chip
  let st := c.txState key
  let t := c.linkTx key
  if isPort key = false ∧ 35 ≤ slot then c
  else if c.carriesData key then
    if 0 < t.resend then
      match t.replay[t.replay.length - t.resend]? with
      | none => c
      | some f =>
        let g := c.makeFrame key slot f.ftype (128 + f.flags % 64) f.seq f.runCheck f.payload
        (c.setTx key { t with resend := t.resend - 1 }).emit key g
    else if replayDepth key ≤ t.replay.length then c.emitPlain key slot ftIDLE []
    else match st == lsUP, c.runOn key with
      | false, some r => c.emitPattern key slot r
      | _, _ => s.sendNew key slot
  else if st = lsTEST ∨ (c.runOn key).isSome then c
  else if st = lsTRAIN then c.emitPlain key slot ftTRAIN (c.trainPayload key)
  else if st = lsHOLD ∨ st = lsPARKED ∨ st = lsMONITOR ∨ st = lsSTANDBY then c.emitPlain key slot ftIDLE []
  else c

/-! The row of a lane: its marker and its stream (R117 to R122, R206). -/

/-- Whether the scrambler of a lane's sending end is on (LANE.CFG2.SCR_OFF; a port has no such bit). -/
def Chip.scrambles (c : Chip) (site : Nat) : Bool := !c.on (R.LANE_CFG2_SCR_OFF site)

/-- The health word of a lane's marker (R122, R206): go-backs in the row; frames in the replay buffer, on a port in units of 8; the transmit ring's lock; Hold; a substitution, or on a port a
spare change, at the coming boundary, booked or asked for as a test (R61); a circuit that ends, changes or is newly pointed, or a change of the run deal, there. A fence takes effect at once, so none pends (log entry 131). -/
def Chip.laneHealth (c : Chip) (key : Nat × Nat × Nat) : Nat :=
  let t := c.linkTx key
  let next := c.row + 1
  let j := portOf key
  let ring : RingKey := if isPort key then ⟨18 + j / 4, 38 + j % 4, 0, key.2.2⟩ else c.txRing key.1 key.2.1 key.2.2
  let frames := if isPort key then min 31 ((t.replay.length + 7) / 8) else min 31 t.replay.length
  let moves := if isPort key then c.edge.moves.any (fun m => m.port == j && m.lane == key.2.2 && m.row == next)
    else c.opf.booked.any (fun b => b.row == next && (c.sideLanes b.side).contains key)
      || c.opf.substReqs.any (fun r => r.row == next && c.substStatus r == 1 && (c.sideLanes r.side).contains key)
  let change := if isPort key then c.dealTurns (112 + j)
    else Config.planeKind key.1 key.2.1 == 2 && !c.inFallback && c.circ.armed.any (fun a => a.target == some next
      && (c.turning a.tenant a.pattern).contains (switchedIndex key.1 key.2.1)
      && ((c.changed a.tenant a.pattern).all c.wasDrained || decide (c.rdPos R.CIRC_CFG_DEFER_MAX ≤ a.deferrals)))
  min 15 t.backs + 16 * frames + 512 * b2n (c.rd (ringLoop ring) == loLOCKED) + 1024 * b2n (c.txState key == lsHOLD) + 4096 * b2n moves + 8192 * b2n change

/-- The row marker that a lane sends at cycle 2,000 of the present row (R122): the timestamp of that cycle, the data frames sent in the row, the next sequence, the acknowledgement as in the
last trailer, its CRC. -/
def Chip.rowMarker (c : Chip) (key : Nat × Nat × Nat) : Marker :=
  let t := c.linkTx key
  let m : Marker := { row := c.row, timestamp := 1024 * c.row + 1000, health := c.laneHealth key, dataFrames := (t.sent.filter (·.2)).length, nextSeq := t.nextSeq
                      ack := (t.lastFrame.map (·.ack)).getD (((ackedLink key).map c.ackSeq).getD 0xFFFF), crc := 0, fill := [], credit := 0, message := 0, syncFound := true }
  { m with crc := crc32 (Marker.body m) }

/-- The 114,688 bits of an on-package lane's row from the 35 frames that it sent in it (R117, R118, R121). -/
def Chip.laneBits (c : Chip) (key : Nat × Nat × Nat) (frames : List Frame) : List Bool := rowStream (c.scrambles key.1) c.row frames (c.rowMarker key)

/-- Bytes 8 to 35 of a port marker, over which its link CRC runs (R206). -/
def Marker.portBody (m : Marker) : List Nat :=
  leBytes 6 m.row ++ leBytes 4 m.timestamp ++ leBytes 2 m.health ++ [m.dataFrames % 256, 0] ++ leBytes 2 m.nextSeq ++ leBytes 2 m.ack
    ++ leBytes 2 m.credit ++ leBytes 8 m.message

/-- The credit word of a port lane's marker (R235): lane l carries pool l mod 3, the entries freed since the port came Up as of cycle 2,000 of the row, in units of 4. -/
def Chip.creditNow (c : Chip) (j l : Nat) : Nat := l % 3 * 2 ^ 14 + (getKey (j, l % 3) (c.edge.freedMark.getD c.edge.freed)).getD 0 / 4 % 2 ^ 14

/-- The marker of a port lane's row (R206): the timestamp of symbol 65,280 of the row before, the credit word, the link message. -/
def Chip.portMarker (c : Chip) (key : Nat × Nat × Nat) : Marker :=
  let m := { c.rowMarker key with timestamp := (1024 * c.row - 4) % 2 ^ 32, credit := c.creditNow (portOf key) key.2.2, message := c.messageNow (portOf key) }
  { m with crc := crc32 (Marker.portBody m) }

/-- The symbols of a port lane's row from the 77 frames that it sent in it (R203 to R207). -/
def Chip.portLaneSymbols (c : Chip) (key : Nat × Nat × Nat) (frames : List Frame) : List (Int × Int) :=
  let m := c.portMarker key
  portSymbols (portMessage c.row key.2.2 frames (Marker.portBody m ++ leBytes 4 m.crc))

/-! Receiving. -/

/-- The receive side's error counts of a link (LANE.RX_ERR, EDGE.LANE_RX_ERR): offset of the register. -/
def Chip.rxErrReg (c : Chip) (key : Nat × Nat × Nat) : Option Nat :=
  if isPort key then some (R.EDGE_LANE_RX_ERR (portOf key) key.2.2)
  else (c.rxSide key.1 key.2.1 key.2.2).map (fun x => R.LANE_RX_ERR x.site x.plane key.2.2)
def Chip.countRx (c : Chip) (key : Nat × Nat × Nat) (hi lo n : Nat) : Chip :=
  match c.rxErrReg key with
  | some off => c.count ⟨off, hi, lo⟩ n
  | none => c

/-- A frame that failed or was refused makes the receiver send one NAK for the incident (R130). -/
def Chip.wantNak (c : Chip) (key : Nat × Nat × Nat) : Chip :=
  let r := c.linkRx key
  if r.nakSent then c else c.setRx key { r with nakDue := true }

/-- A CRC failure, and a refusal for alignment or sequence (R126, R130). -/
def Chip.crcFailure (c : Chip) (key : Nat × Nat × Nat) : Chip := (c.countRx key 31 16 1).wantNak key
def Chip.refuseFrame (c : Chip) (key : Nat × Nat × Nat) : Chip := (c.countRx key 15 8 1).wantNak key

/-- Frame types that a lane's state allows (R125). Where the replay buffer of a lane in Test is full it carries IDLE (R129; log entry 132). -/
def typeAllowed (state : Nat) (run : Bool) (ftype : Nat) : Bool :=
  if state = lsUP then ftype == ftIDLE || ftype == ftSTITCH || ftype == ftRUN
  else if state = lsTRAIN then ftype == ftTRAIN
  else if state = lsTEST || run then ftype == ftPATTERN || ftype == ftIDLE
  else ftype == ftIDLE

/-- The places in memory of a group's blocks, by the tenant's windows (R188). -/
def Chip.groupPlaces (c : Chip) (st : Stitch) (g n : Nat) : List (Option Nat) :=
  (List.range n).map (fun i => c.resolve st.tenant (blockAddr st.ppa (runLocal st) (6 * g + i)))

/-- Blocks of a group land at a run's destination: written when every address is the tenant's and can be written, an error noted otherwise (R191, R192). -/
def State.landBlocks (s : State) (d : DstRun) (g : Nat) (blocks : List (List Nat)) : State :=
  let places := (s.chip.groupPlaces d.opening g blocks.length).map (fun p => p.filter s.chip.placeGood)
  let ok := places.all Option.isSome
  let mem := (places.zip blocks).foldl (fun m (x : Option Nat × List Nat) => match x.1 with
    | some a => memWrite m a (padTo 64 x.2)
    | none => m) s.mem
  { s with mem := mem, chip := s.chip.setDstRun d { d with status := if ok ∨ isErr d.status then d.status else stMEM_ERR } }

/-- A group is taken at a run's destination: kept at an edge site that carries the run on (R222); parked while a processor copy of one of its lines is recalled
or its page is zeroed (R390, R395); else landed. -/
def State.landGroup (s : State) (d : DstRun) (g : Nat) (blocks : List (List Nat)) : State :=
  let d' := { d with todo := d.todo.filter (fun x => x.1 != g) }
  if d.relay then { s with chip := s.chip.setDstRun d { d' with got := d.got ++ [(g, blocks.flatten)] } }
  else
    let c := s.chip.setDstRun d d'
    match c.obstacle ((c.groupPlaces d.opening g blocks.length).filterMap id) true none with
    | some o => { s with chip := c.park d.site (.group d.e d.runNo g d.opening.tenant blocks) o false false }
    | none => State.landBlocks { s with chip := c } d' g blocks

/-- The blocks of a RUN frame go to their run, or the frame is held until the run's opening is accepted (R191, R222). -/
def State.takeRun (s : State) (key : Nat × Nat × Nat) (f : Frame) : State :=
  let c := s.chip
  let k := key.2.2
  let hold := { s with chip := c.onCirc (fun x => { x with early := x.early ++ [(key, f)] }) }
  if isPort key then
    let ds := (c.circ.dst.filter (fun d => d.e == 128 + portOf key)).filterMap (fun d => (d.todo.find? (fun g => g.2.1 == k)).map (fun g => (d, g.1, g.2.2)))
    match ds.foldl (fun (b : Option (DstRun × Nat × Nat)) x => match b with
        | none => some x
        | some y => if x.2.2 < y.2.2 then some x else some y) none with
    | some (d, g, _) => s.landGroup d g (Frame.runBlocks f)
    | none => hold
  else
    let e := switchedIndex key.1 key.2.1
    match (c.srcRuns e).findSome? (fun r => (r.sent.find? (fun g => g.2.1 == k && g.2.2 == f.seq)).map (fun g => (r, g.1))) with
    | none => s
    | some (r, g) =>
      match c.circ.dst.find? (fun d => d.e == e && d.runNo == r.runNo) with
      | some d => s.landGroup d g (Frame.runBlocks f)
      | none => if r.answered then s else hold

/-- The frames held for runs of `e` are taken when an opening has been accepted (R191). -/
def State.takeEarly (s : State) (e : Nat) : State :=
  let mine := fun (x : (Nat × Nat × Nat) × Frame) =>
    if e < 112 then x.1.1 == (switchedAt e).1 && x.1.2.1 == (switchedAt e).2 else x.1.1 == 24 + (e - 128)
  let fs := s.chip.circ.early.filter mine
  let s := { s with chip := s.chip.onCirc (fun x => { x with early := x.early.filter (fun y => !mine y) }) }
  fs.foldl (fun s x => s.takeRun x.1 x.2) s

/-- A stitch comes off a link: to the destination adapter, or into an edge site's queues (R126, R222, R231, R234). -/
def Chip.stitchIn (c : Chip) (key : Nat × Nat × Nat) (st : Stitch) : Chip :=
  let arrive := fun (c : Chip) (site plane k : Nat) => c.onXport (fun y => { y with
    arrived := y.arrived ++ [⟨site, plane, k, st⟩]
    arrivedAt := if st.opcode = opSEND then y.arrivedAt.filter (fun a => y.arrived.contains a.1) ++ [(⟨site, plane, k, st⟩, c.cycles)] else y.arrivedAt })
  if isPort key then
    let j := portOf key
    if st.opcode = opRUN_OPEN ∧ (c.reservedLanes j).contains key.2.2 then arrive c (18 + j / 4) (38 + j % 4) key.2.2
    else c.edgeArrive { edge := j / 4, fromPort := some (j, poolOf st), fromSite := none, st := st, since := none, row := c.row } (38 + j % 4) key.2.2 (some (j, key.2.2))
  else
    match c.rxSide key.1 key.2.1 key.2.2 with
    | none => c
    | some x =>
      if 18 ≤ x.site ∧ x.site < 22 ∧ st.dstNode ≠ c.node ∧ Config.planeKind key.1 key.2.1 ≠ 2 then
        c.edgeArrive { edge := x.site - 18, fromPort := none, fromSite := some key.1, st := st, since := none, row := c.row } x.plane key.2.2 none
      else arrive c x.site x.plane key.2.2

/-- The bits and bit errors that a checker counts (R138, R139). -/
def Chip.countPattern (c : Chip) (key : Nat × Nat × Nat) (bits errs : Nat) : Chip :=
  if isPort key then
    let j := portOf key
    (c.wrPair (R.EDGE_PAT_BITS_LO_BITS j) (R.EDGE_PAT_BITS_HI_BITS j) ((c.rdPair (R.EDGE_PAT_BITS_LO_BITS j) (R.EDGE_PAT_BITS_HI_BITS j) + bits) % 2 ^ 48)).count
      (R.EDGE_PAT_ERRS_ERRS j) errs
  else
    let i := key.1
    (c.wrPair (R.LANE_PAT_BITS_LO_BITS i) (R.LANE_PAT_BITS_HI_BITS i) ((c.rdPair (R.LANE_PAT_BITS_LO_BITS i) (R.LANE_PAT_BITS_HI_BITS i) + bits) % 2 ^ 48)).count
      (R.LANE_PAT_ERRS_ERRS i) errs

/-- The checker of a run in frame mode takes the payload of an accepted PATTERN frame. -/
def Chip.checkPattern (c : Chip) (key : Nat × Nat × Nat) (payload : List Nat) : Chip :=
  match c.runOn key with
  | none => c.countPattern key 3072 0
  | some r =>
    let (errs, st) := payloadErrors r.checker payload
    (c.setRun key r { r with checker := some st }).countPattern key 3072 errs

/-- A data frame in sequence is accepted (R126). -/
def State.accept (s : State) (key : Nat × Nat × Nat) (f : Frame) : State :=
  let r := s.chip.linkRx key
  let c := s.chip.setRx key { r with expect := (r.expect + 1) % 65536, accepted := true, nakSent := r.nakSent && !Frame.replay f
                                     nakDue := r.nakDue && !Frame.replay f }
  let s := { s with chip := c }
  if f.ftype = ftSTITCH then { s with chip := c.each (Frame.stitches f) (fun c st => c.stitchIn key st) }
  else if f.ftype = ftRUN then s.takeRun key f
  else { s with chip := c.checkPattern key f.payload }

/-- A RUN frame that fails its run check counts as a CRC failure, and as a failed end-to-end check with a report (R191). -/
def Chip.runCheckFails (c : Chip) (key : Nat × Nat × Nat) (f : Frame) : Chip :=
  let st : Stitch := { opcode := opRUN_OPEN, srcSite := key.1 % 32, data := f.payload.take 0 }
  let c := c.crcFailure key
  if isPort key then c.e2eFail (18 + portOf key / 4) (38 + portOf key % 4) key.2.2 (some (portOf key, key.2.2)) st
  else match c.rxSide key.1 key.2.1 key.2.2 with
    | some x => c.e2eFail x.site x.plane key.2.2 none st
    | none => c

/-- The frame of an on-package lane as its receiver has it: where the scramblers of the two ends' sites differ, its bits are exclusive-ored with the sequence of the row (R118, LANE.CFG2.SCR_OFF;
log entry 127). -/
def Chip.unscrambled (c : Chip) (key : Nat × Nat × Nat) (pos : Nat) (f : Frame) : Frame :=
  match c.rxSide key.1 key.2.1 key.2.2 with
  | some x => if c.scrambles key.1 = c.scrambles x.site then f
      else Frame.parse (scrambleBytes (Frame.bytes f) (scramblerAfter (scramblerSeed c.row) (frameAt pos)))
  | none => f

/-- The codewords of a port lane that hold frame position `pos`, as they arrive (R204, R205): each is decoded, one corrected or flagged uncorrectable is counted once, and the frame is read from
them: the frame, whether one of them is uncorrectable. -/
def Chip.decodeWords (c : Chip) (j l row pos : Nat) (words : List (List Nat)) (f : Frame) : Frame × Bool × Chip :=
  let idx := wordsOfFrame pos
  let (taken, bad) := match getKey (j, l) c.edge.fec with
    | some x => if x.1 = row then x.2 else ([], [])
    | none => ([], [])
  let dec := (idx.zip words).map (fun x => (x.1, rsDecode x.2, x.2))
  let fresh := dec.filter (fun x => !taken.contains x.1)
  let bad := bad ++ (fresh.filter (fun x => x.2.1.isNone)).map (·.1)
  let c := (c.count (R.EDGE_LANE_FEC_CORR_CODEWORDS j l) (fresh.filter (fun x => x.2.1.any (·.2))).length).count
    (R.EDGE_LANE_FEC_UNCORR_CODEWORDS j l) (fresh.filter (fun x => x.2.1.isNone)).length
  let c := c.onEdge (fun e => { e with fec := putKey (j, l) (row, taken ++ fresh.map (·.1), bad) e.fec })
  let f := if words.length < idx.length then f
    else
      let bits := dec.flatMap (fun x => (((x.2.1.map (·.1)).getD x.2.2).take 514).flatMap (fun v => (List.range 10).map (bitOf v)))
      Frame.parse (scrambleBytes (bitsBytes ((bits.drop (frameAt pos - wordBits * idx.headD 0)).take 3200)) (scramblerAfter (portSeed row l) (frameAt pos)))
  (f, idx.any bad.contains, c)

/-- A TRAIN frame has come on a lane of an Up port in frame slot `n` of the incoming stream (R219): refused, as a type that Up does not allow (R125); where four or more lanes have had one in this slot
and in the slot before, the port is down under code 0x2. -/
def Chip.trainSeen (c : Chip) (j l n : Nat) : Chip :=
  let key := (24 + j, 0, l)
  let c := (c.refuseFrame key).setRx key { (c.refuseFrame key).linkRx key with goodTrain := 0 }
  let now := ((c.edge.trains.find? (fun x => x.1 == j && x.2.1 == n)).map (·.2.2)).getD []
  let c := c.onEdge (fun e => { e with trains := e.trains.filter (fun x => x.1 != j || (x.2.1 + 1 == n)) ++ [(j, n, if now.contains l then now else now ++ [l])] })
  if c.trainsSeen j then c.portDown j 2 else c

/-- A frame reaches the receiver of a link in frame position `pos` (R126): the checks in order, the acknowledgement it carries, its payload. On a port lane `words` are the codewords that hold it (R204); a frame in an uncorrectable one is a CRC failure (R205). The run check is made with the link CRC (R191). The acknowledgement and NAK of a frame refused for alignment, or only for
its type, are not used (DESIGN CHOICE, log entry 164; safe). A lane that is off, fenced or under calibration accepts nothing; a monitor
lane has no receiver. -/
def State.receiveFrame (s : State) (key : Nat × Nat × Nat) (f : Frame) (pos : Nat) (words : List (List Nat)) : State :=
  let c := s.chip
  let st := c.rxState key
  if st = lsOFF ∨ st = lsFENCED ∨ st = lsCAL ∨ (c.rxErrReg key).isNone then s
  else
    let (f, lost, c) := if isPort key then (if words.isEmpty then (f, false, c) else c.decodeWords (portOf key) key.2.2 (c.streamRow key) pos words f)
      else (c.unscrambled key pos f, false, c)
    let set := fun (c : Chip) => { s with chip := c }
    let r := c.linkRx key
    let c := c.setRx key { r with nakSlots := if r.nakSent then r.nakSlots + 1 else r.nakSlots, ackSlots := r.ackSlots + 1 }
    if lost || !Frame.crcOk f then
      set ((c.crcFailure key).setRx key { (c.crcFailure key).linkRx key with goodTrain := 0 })
    else if f.ftype = ftRUN ∧ f.runCheck ≠ Frame.runCheckOf f then set (c.runCheckFails key f)
    else if isPort key = true ∧ f.ftype = ftTRAIN ∧ c.portUp (portOf key) = true ∧ st ≠ lsTRAIN ∧ f.slot = pos ∧ f.rowTag = c.streamRow key % 256 then
      set (c.trainSeen (portOf key) key.2.2 (77 * c.streamRow key + pos))
    else if f.slot ≠ pos ∨ f.rowTag ≠ c.streamRow key % 256 ∨ typeAllowed st ((c.runOn key).any (fun r => r.pattern == 5)) f.ftype = false then set ((c.refuseFrame key).setRx key { (c.refuseFrame key).linkRx key with goodTrain := 0 })
    else
      let c := match ackedLink key with
        | some q => c.takeAck q f.ack (Frame.nak f)
        | none => c
      let r := c.linkRx key
      if f.ftype = ftTRAIN then
        let who := leField f.payload 0 4
        let good := if isPort key then decide (who / 8 % 64 = key.2.2) && (r.goodTrain == 0 || r.ident == who / 512) else decide (f.payload.take 4 = c.trainPayload key)
        set (c.setRx key { r with goodTrain := if good then r.goodTrain + 1 else 0, ident := if isPort key then who / 512 else r.ident })
      else if !isData f.ftype then set c
      else if f.seq = r.expect then (set c).accept key f
      else if subMod 16 r.expect f.seq ≤ 32768 then set c
      else set (c.refuseFrame key)

/-! Markers. -/

/-- Loss of alignment: the lane is fenced with code 0x6 (R123, R133); on eight or more lanes of a port in one row it takes the port down under code 0x4 (R219). -/
def Chip.misaligned (c : Chip) (key : Nat × Nat × Nat) : Chip :=
  if isPort key then
    let j := portOf key
    let now := ((c.edge.misaligned.find? (fun x => x.1 == j && x.2.1 == c.row)).map (·.2.2)).getD []
    let c := c.onEdge (fun e => { e with misaligned := e.misaligned.filter (fun x => x.1 != j) ++ [(j, c.row, if now.contains key.2.2 then now else now ++ [key.2.2])] })
    let c := c.fencePort j key.2.2 true 6
    if c.misalignedMany j then c.portDown j 4 else c
  else c.fence key.1 key.2.1 key.2.2 6 false false

/-- The credit word of a port marker (R235): pool in [15:14], entries freed since the port came Up in units of 4 and modulo 16,384. -/
def Chip.creditWord (c : Chip) (j w : Nat) : Chip :=
  let pool := fget w 15 14
  if pool = 3 then c
  else
    let old := (getKey (j, pool) c.edge.partnerFreed).getD 0
    let step := subMod 14 (fget w 13 0) (old / 4)
    (c.onEdge (fun e => { e with partnerFreed := putKey (j, pool) (old / 4 * 4 + 4 * step) e.partnerFreed })).creditsBack

/-- How much later than its timestamp says a marker has come, in nanoseconds (R123, R206, R300): `arrived` is the receiver's own timestamp at the marker's arrival, on a package lane in
nanoseconds with the lane's calibrated flight time removed, on a port lane in 1/16 ns, from which LINK_DELAY of the port is subtracted; a port's marker has bits [31:0] of the timestamp at
cycle 2,000 of the row before. -/
def Chip.markerLate (c : Chip) (key : Nat × Nat × Nat) (m : Marker) (arrived : Nat) : Int :=
  if isPort key then toSigned 32 (subMod 32 ((arrived - c.rd (R.TIME_LINK_DELAY_DELAY (portOf key))) / 16) (m.timestamp + 1024))
  else (arrived : Int) - (m.timestamp : Int)

/-- The marker's bytes as its receiver has them: exclusive-ored with the scrambler's sequence where the ends' sites differ (R118; log entry 127). -/
def Chip.markerUnscrambled (c : Chip) (key : Nat × Nat × Nat) : Bool :=
  isPort key || (match c.rxSide key.1 key.2.1 key.2.2 with
    | some x => c.scrambles key.1 == c.scrambles x.site
    | none => true)

/-- A row of a port lane's incoming stream has ended, whatever its marker was: the stream is in the next row (R206, R212). -/
def Chip.nextInRow (c : Chip) (j l : Nat) : Chip :=
  match getKey (j, l) c.edge.inRow with
  | some r => c.onEdge (fun e => { e with inRow := putKey (j, l) (r + 1) e.inRow })
  | none => c

/-- The agreed moves of the incoming lanes of port `j` whose boundary the incoming stream has reached take place (R216, R217): `row` is the row that begins in it. A lane goes on in the row of the
stream. -/
def Chip.incomingMoves (c : Chip) (j row : Nat) : Chip :=
  let due := c.edge.moves.filter (fun m => m.port == j && m.incoming && decide (m.row ≤ row))
  let c := c.onEdge (fun e => { e with moves := e.moves.filter (fun m => !(m.port == j && m.incoming && decide (m.row ≤ row))) })
  let c := (c.each (due.filter (fun m => m.ending)) Chip.applyMove).each (due.filter (fun m => !m.ending)) Chip.applyMove
  c.onEdge (fun e => { e with inRow := due.foldl (fun l m => putKey (j, m.lane) row l) e.inRow })

/-- A row marker reaches the receiver of a link (R123, R206, R235). A marker that an injection of mode 5 changed fails its CRC (R140), and so does one that is scrambled by one end alone; on a port
lane the rotation of the carrier phase is found from the symbols of the sync word (R203), and an uncorrectable codeword under the marker is a marker error (R205). `arrived` says when it
came. Wrong fill bits of a marker whose CRC fails are not counted, for that CRC covers the fill (DESIGN CHOICE, log entry 165; safe). -/
def Chip.receiveMarker (c : Chip) (key : Nat × Nat × Nat) (m : Marker) (arrived : Nat) : Chip :=
  let st := c.rxState key
  if st = lsOFF ∨ st = lsFENCED ∨ st = lsCAL ∨ (c.rxErrReg key).isNone then c
  else
    let inj := (c.injectionOn key).filter (fun i => i.mode == 5)
    let c : Chip := match inj with
      | some i => c.injected key i 0
      | none => c
    let turns := if isPort key then findRotation m.symbols else none
    let c : Chip := match turns with
      | some k => c.wr (R.EDGE_LANE_COH_ROTATION (portOf key) key.2.2) k
      | none => c
    let found := if isPort key && !m.symbols.isEmpty then turns.isSome else m.syncFound
    let flagged := isPort key && (match getKey (portOf key, key.2.2) c.edge.fec with
      | some x => x.1 == c.streamRow key && x.2.2.contains markerWord
      | none => false)
    let good := found && inj.isNone && !flagged && c.markerUnscrambled key && (if isPort key then m.crc == crc32 (Marker.portBody m) else Marker.crcOk m)
    let r : LinkRx := c.linkRx key
    if !good then
      let c : Chip := (c.countRx key 7 0 1).setRx key { r with badMarkers := r.badMarkers + 1, goodMarkers := 0 }
      let c : Chip := if isPort key then c.nextInRow (portOf key) key.2.2 else c
      if 1 ≤ r.badMarkers then c.misaligned key else c
    else
      let c := c.setRx key { r with badMarkers := 0, goodMarkers := r.goodMarkers + 1 }
      let c := if isPort key then c else
        match c.rxSide key.1 key.2.1 key.2.2 with
        | some x => c.count (R.LANE_FILL_ERR_ERRS x.site x.plane key.2.2) (Marker.fillErrors m)
        | none => c
      let known := !isPort key || (getKey (portOf key, key.2.2) c.edge.inRow).isSome
      if known ∧ m.row ≠ c.streamRow key then c.misaligned key
      else
        let late := c.markerLate key m arrived
        let c := if isPort key then
            let c := c.onEdge (fun e => { e with inRow := putKey (portOf key, key.2.2) (m.row + 1) e.inRow })
            (c.creditWord (portOf key) m.credit).incomingMoves (portOf key) (m.row + 1)
          else c
        if 16 < late.natAbs then
          let unit := if isPort key then Unit.portLane (portOf key) key.2.2 true else Unit.lane key.1 key.2.1 key.2.2 true
          c.timeMismatch unit (if isPort key then some (portOf key) else none) late
        else c

/-! Training (R135). -/

/-- Whether the receiver of a lane has seen what training asks for. -/
def Chip.trained (c : Chip) (key : Nat × Nat × Nat) : Bool := decide (2 ≤ (c.linkRx key).goodMarkers) && decide (64 ≤ (c.linkRx key).goodTrain)

/-- A trained lane enters the state its kind has in service: Up, Parked for a switched plane, Monitor for a self-test lane (R135). -/
def Chip.enterService (c : Chip) (key : Nat × Nat × Nat) : Chip :=
  (c.setLane key.1 key.2.1 key.2.2 (c.serviceState key.1 key.2.1 key.2.2)).onLanes (fun y => { y with trainRow := delKey key y.trainRow })

/-- A lane pair enters Up at one row boundary; a lane whose partner is fenced enters alone (R135). In mid-row nothing happens. -/
def Chip.laneUp (c : Chip) (key : Nat × Nat × Nat) : Chip :=
  if c.cyc ≠ 0 ∨ c.laneState key.1 key.2.1 key.2.2 ≠ lsTRAIN ∨ c.trained key = false ∨ c.laneDark key.1 key.2.1 key.2.2 = true then c
  else match partner key.1 key.2.1 key.2.2 with
    | none => c.enterService key
    | some q =>
      if q = key ∨ c.laneState q.1 q.2.1 q.2.2 = lsFENCED then c.enterService key
      else if c.laneState q.1 q.2.1 q.2.2 = lsTRAIN ∧ c.trained q = true then (c.enterService key).enterService q
      else c

/-- Link-acknowledgement messages carry the acknowledgements of a lane whose partner is lost (R137). -/
def Chip.netAckStep (c : Chip) : Chip :=
  let carried := c.opf.lost.filterMap (fun l => partner l.1 l.2.1 l.2.2)
  let c := c.each carried (fun c q => let r := c.linkRx q
    if r.netAck then c else c.setRx q { r with netAck := true })
  c.onLanes (fun y => { y with rx := y.rx.map (fun x => if x.2.netAck && !carried.contains x.1 then (x.1, { x.2 with netAck := false }) else x) })

/-! Pattern runs and injections (R138 to R140). -/

/-- LANE.PAT_CTRL: GO asks for a run on the lane of LANE.PAT_SEL, which is booked at a boundary at least 64 cycles away; STOP ends it at the next boundary (R139; log entry 133). -/
def patHook (i v : Nat) : WriteHook :=
  .does (fun c =>
    let p := c.rd (R.LANE_PAT_SEL_PLANE i)
    let k := c.rd (R.LANE_PAT_SEL_K i)
    let pat := c.rd (R.LANE_PAT_SEL_PATTERN i)
    let c := if bitOf v 31 then
        if 5 < pat ∨ monitorLane i p k = true ∨ 24 ≤ k ∨ Config.planeKind i p = 0 then c.patResult i 6
        else if selfTest i p k = false ∧ c.laneState i p k ≠ lsUP then c.patResult i 5
        else
          let run : PatRun := { site := i, plane := p, k := k, pattern := pat, row := c.boundaryAfter 64, rows := max 1 (fget v 15 0), running := false, selfTest := selfTest i p k, stop := false }
          (c.patResult i 1).onLanes (fun y => { y with runs := y.runs ++ [run] })
      else c
    if bitOf v 30 then c.onLanes (fun y => { y with runs := y.runs.map (fun r => if r.site = i then { r with stop := true } else r) }) else c)

/-- Whether a run may have its booking at this boundary (R103, R139): a traffic lane Up, the token held, both sites free, no detection hold; a self-test lane needs no booking, but its site's
generator. -/
def Chip.mayRun (c : Chip) (r : PatRun) : Bool :=
  if r.selfTest then c.laneState r.site r.plane r.k == lsMONITOR && !c.lanes.runs.any (fun x => x.booked && x.site == r.site)
  else c.laneState r.site r.plane r.k == lsUP && c.tokenHeld && !c.on R.OPF_STATUS_DETECT_HOLD && (c.laneSites r.site r.plane r.k).all (fun x => !c.siteBooked x)
    && !c.lanes.runs.any (fun x => x.booked && x.site == r.site)

/-- The bits of a row that a raw pattern sends (R138): a pseudo-random sequence continues from row to row, the others start again, their periods dividing a row's bits. A symbol of a port lane
has four bits: the square wave there is 32 bits of the level -3 and 32 of the level 3 (R203). -/
def rawRow (port : Bool) (pattern word gen bits : Nat) : List Bool :=
  if port && pattern == 3 then (List.range bits).map (fun i => decide (32 ≤ i % 64) && i % 2 == 0) else patternBits pattern word gen 0 bits

/-- The register of a raw pattern's generator after a row. -/
def rawNext (pattern gen bits : Nat) : Nat := if pattern < 3 then (prbs (prbsTaps pattern) bits gen).2 else gen

/-- A row of a raw pattern has passed: the checker compares every bit of it with what came, and the generator goes on (R138, R139). -/
def Chip.rawRun (c : Chip) (key : Nat × Nat × Nat) (r : PatRun) (word bits : Nat) (got : Option (List Bool)) : Chip :=
  let errs := match got with
    | some g => bitErrors (rawRow (isPort key) r.pattern word r.gen bits) g
    | none => 0
  (c.countPattern key bits errs).setRun key r { r with gen := rawNext r.pattern r.gen bits }

/-- A run starts: its counters clear, its generator has a first state of its own (log entry 134). -/
def Chip.startRun (c : Chip) (key : Nat × Nat × Nat) (r : PatRun) (row : Nat) : Chip :=
  let seed := 1 + Config.patternSeed c.drawn % (2 ^ (prbsTaps r.pattern).1 - 1)
  ({ c with drawn := c.drawn + 1 }).setRun key r { r with running := true, gen := seed, checker := none, row := row }

/-- The pattern runs at a row boundary (R139). At b a run has its booking, and no new data is placed on its lane in row b; at b + 1 what is not acknowledged is reissued and the pattern starts; after its
rows, or at a stop, the link resynchronizes for a row; then the lane returns. `raw` gives the bits that came in the row just ended, by the site of a run in raw mode. -/
def Chip.patStep (c : Chip) (raw : List (Nat × List Bool)) : Chip :=
  c.each c.lanes.runs (fun c r =>
    let key := (r.site, r.plane, r.k)
    let sites := c.laneSites r.site r.plane r.k
    let drop := fun (c : Chip) => (c.onLanes (fun y => { y with runs := dropFirst (fun x => x == r) y.runs })).runLeaves r
    if !r.booked then
      if r.stop then (drop c).patResult r.site 4
      else if r.row ≤ c.row ∧ c.mayRun r = true then
        let c := c.setRun key r { r with booked := true, row := c.row }
        if r.selfTest then c else c.showBooking sites r.site r.plane r.k 3
      else c
    else if r.running then
      let c := if r.pattern = 5 then c else c.rawRun key r (c.word (R.LANE_PAT_WORD r.site)).toNat rowBits (getKey r.site raw)
      let r := (c.runOn key).getD r
      if r.stop ∨ r.row + r.rows < c.row then c.setRun key r { r with running := false, rows := 0, row := c.row } else c
    else if r.rows = 0 then
      if r.row < c.row then ((drop c).laneReturns key).patResult r.site (if r.stop then 4 else 3) else c
    else if r.stop then (drop c).patResult r.site 4
    else if r.row < c.row then
      let c := if r.selfTest then c else (c.reissue key).setLane r.site r.plane r.k lsTEST
      let c := ((c.wrPair (R.LANE_PAT_BITS_LO_BITS r.site) (R.LANE_PAT_BITS_HI_BITS r.site) 0).wr (R.LANE_PAT_ERRS_ERRS r.site) 0).patResult r.site 2
      c.startRun key r r.row
    else c)

/-- An injection of mode 4 acts in the row that begins (R140; log entry 135): the acknowledgements of its lane are suppressed in it. -/
def Chip.suppressAcks (c : Chip) (key : Nat × Nat × Nat) (i : Injection) : Chip :=
  (c.injected key i 0).setTx key { (c.injected key i 0).linkTx key with suppressRow := some c.row, suppressFree := !i.countFence }

/-- What the links do at a row boundary: the counts of a row start again (R122), and injections of mode 4 act. -/
def Chip.linkStep (c : Chip) : Chip :=
  let c := c.onLanes (fun y => { y with tx := y.tx.map (fun x => (x.1, { x.2 with sent := [], backs := 0, wentBack := false })) })
  let c := c.each (c.lanes.inj.filter (fun i => i.mode == 4)) (fun c i => c.suppressAcks (i.site, i.plane, i.k) i)
  c.each (c.edge.inj.filter (fun i => i.mode == 4)) (fun c i => c.suppressAcks (24 + i.site, 0, i.k) i)

/-- LANE.INJ.GO arms one injection of a site (R140); mode 7 forces loss of clock lock at once, and is recorded. Where MODE is 0 and the lane is not Up as well, the refusal is 0x4 (DESIGN CHOICE, log
entry 166; safe). -/
def injHook (i v : Nat) : WriteHook :=
  .does (fun c =>
    let mode := fget v 29 27
    let p := fget v 13 8
    let k := fget v 4 0
    if bitOf v 31 then
      if c.lanes.inj.any (fun x => x.site == i) then c.injResult i 5
      else if mode = 0 then c.injResult i 4
      else if c.laneState i p k ≠ lsUP ∨ 24 ≤ k then c.injResult i 3
      else if mode = 7 then (c.injResult i 2).fence i p k 0xB false false
      else (c.injResult i 1).onLanes (fun y => { y with inj := y.inj ++ [⟨i, p, k, mode, bitOf v 30⟩] })
    else c)

/-! The commands. -/

/-- FRAME_SEND (R125). -/
def execFrameSend (ln : LinkLane) (slot : Fin 77) (s : State) : Result := .next { s with chip := s.sendFrame (linkKey ln) slot.val }

/-- FRAME_RECEIVE (R126, R204): no frame is taken while the mesh stands still. -/
def execFrameReceive (ln : LinkLane) (f : Frame) (pos : Fin 77) (codewords : List (List (BitVec 10))) (s : State) : Result :=
  .next (if s.chip.meshStopped then s else s.receiveFrame (linkKey ln) f pos.val (codewords.map (fun w => w.map (·.toNat))))

/-- NAK_REPEAT_TIMEOUT (R130): TIMEOUT frame slots have passed since the NAK without a REPLAY frame. -/
def execNakRepeatTimeout (ln : LinkLane) (s : State) : Result :=
  .next (s.onChip (fun c =>
    let r := c.linkRx (linkKey ln)
    if r.nakSent ∧ c.linkTimeout (linkKey ln) ≤ r.nakSlots then c.setRx (linkKey ln) { r with nakSent := false, nakDue := true } else c))

/-- Whether a timeout go-back of a lane is not counted in the fence window (R132, R209). -/
def Chip.timeoutExcepted (c : Chip) (key : Nat × Nat × Nat) : Bool :=
  let t := c.linkTx key
  t.ackLate || t.quiet || (t.replay.head?).any (fun f => t.injected == some f.seq) ||
    (if isPort key then
      (match getKey (portOf key) c.edge.lightBack with
       | some b => decide (c.cycles < b + 24000)
       | none => false) || (getKey (portOf key) c.edge.lightLost).isSome
     else c.on R.OPF_STATUS_DETECT_HOLD || c.opf.reacquiring.any (fun x => (c.sideLanes x).contains key))

/-- Whether a port lane waits for its spare, with no timeout go-back (R216). -/
def Chip.waitsForSpare (c : Chip) (key : Nat × Nat × Nat) : Bool := isPort key && c.txState key == lsHOLD

/-- GOBACK_TIMEOUT (R131): the oldest unacknowledged frame has waited TIMEOUT frame slots. A port lane that waits for its spare makes no timeout
go-back (R216). -/
def execGobackTimeout (ln : LinkLane) (s : State) : Result :=
  .next (s.onChip (fun c =>
    let key := linkKey ln
    let t := c.linkTx key
    if t.replay.isEmpty ∨ t.waited < c.linkTimeout key ∨ c.carriesData key = false ∨ c.waitsForSpare key = true then c
    else
      let inWindow := !c.timeoutExcepted key
      let c := c.goBack key
      (c.setTx key { c.linkTx key with injected := none, quiet := false, wentBack := true }).linkRetry key inWindow))

/-- ROW_MARKER_RECEIVE (R123). -/
def execRowMarkerReceive (ln : LinkLane) (m : Marker) (arrived : BitVec 64) (s : State) : Result :=
  .next (s.onChip (fun c => c.receiveMarker (linkKey ln) m arrived.toNat))

/-- Whether a lane's acknowledgements travel in link-acknowledgement messages (R128, R137): a lane of a standing circuit, or one whose partner is lost. -/
def Chip.messageAcked (c : Chip) (key : Nat × Nat × Nat) : Bool :=
  (Config.planeKind key.1 key.2.1 == 2 && c.standing (switchedIndex key.1 key.2.1)) || (c.linkRx key).netAck

/-- LINK_ACK_MESSAGE (R128, R137): after every eighth frame slot, and at once with every NAK, the destination adapter sends the acknowledged sequence and NAK flag of a lane, and the sending end
takes them. -/
def execLinkAckMessage (lane : Lane) (s : State) : Result :=
  .next (s.onChip (fun c =>
    let key := (lane.site.val, lane.plane.val, lane.k.val)
    let r := c.linkRx key
    if c.messageAcked key ∧ (r.nakDue = true ∨ 8 ≤ r.ackSlots) then (c.ackMessageSent key).takeAck key (c.ackSeq key) r.nakDue else c))

/-- LANE_UP (R135). -/
def execLaneUp (lane : Lane) (s : State) : Result := .next (s.onChip (fun c => c.laneUp (lane.site.val, lane.plane.val, lane.k.val)))

/-- TRAINING_TIMEOUT (R135): a lane not Up within 64 rows of the start of training. -/
def execTrainingTimeout (lane : Lane) (s : State) : Result :=
  .next (s.onChip (fun c =>
    let key := (lane.site.val, lane.plane.val, lane.k.val)
    match getKey key c.lanes.trainRow with
    | some r => if c.laneState key.1 key.2.1 key.2.2 = lsTRAIN ∧ r + 64 ≤ c.row then c.fence key.1 key.2.1 key.2.2 9 false false else c
    | none => c))

/-- PATTERN_GO: a write of LANE.PAT_CTRL (R139). -/
def execPatternGo (req : Requester) (site : Fin 24) (v : BitVec 32) (s : State) : Result :=
  .next (s.onChip (fun c => c.writeReg req (R.LANE_PAT_CTRL site.val) v.toNat (patHook site.val v.toNat)))

/-- PATTERN_STOP: a write of LANE.PAT_CTRL (R139). -/
def execPatternStop (req : Requester) (site : Fin 24) (v : BitVec 32) (s : State) : Result :=
  .next (s.onChip (fun c => c.writeReg req (R.LANE_PAT_CTRL site.val) v.toNat (patHook site.val v.toNat)))

/-- INJECT_GO: a write of LANE.INJ (R140). -/
def execInjectGo (req : Requester) (site : Fin 24) (v : BitVec 32) (s : State) : Result :=
  .next (s.onChip (fun c => c.writeReg req (R.LANE_INJ site.val) v.toNat (injHook site.val v.toNat)))

end Sys2Proof.Machine
end

