-- ==== Sys2Proof/Machine/Messages.lean ====
section
/-! DEFINITION. Requests at a source adapter, answers, receive queues, messages and stream reads, shares (R141 to R174). -/

namespace Sys2Proof.Machine

/-! Receive queues (R169 to R173). -/

/-- Whether a site has receive queues: compute and processor sites (R169). -/
def hasQueues (site : Nat) : Bool := decide (site < 10)

/-- Slots of a queue and stitches per slot (SITE.RQ_CFG_q). -/
def Chip.rqSlots (c : Chip) (site q : Nat) : Nat := 2 ^ min 12 (c.rd (R.SITE_RQ_CFG_DEPTH_LOG2 site q))
def Chip.rqStitches (c : Chip) (site q : Nat) : Nat := c.rd (R.SITE_RQ_CFG_SLOT_STITCHES site q) + 1

/-- The slots of a queue in use. -/
def Chip.rqUsed (c : Chip) (site q : Nat) : List RqSlot := c.xport.slots.filter (fun s => s.site == site && s.queue == q)

/-- SITE.RQ_STATE_q and SITE.MSG_TABLE follow the tables of the adapter. -/
def Chip.rqCounts (c : Chip) (site q : Nat) : Chip :=
  let l := c.rqUsed site q
  let c := (c.wr (R.SITE_RQ_STATE_FILLED site q) (l.filter (fun s => s.complete && !s.popped)).length).wr (R.SITE_RQ_STATE_RESERVED site q)
    (l.filter (fun s => !s.complete)).length
  c.wr (R.SITE_MSG_TABLE_REFUSALS site) (c.xport.refusals.filter (fun r => r.site == site)).length

/-- The lowest free slot of a queue. -/
def Chip.rqFree (c : Chip) (site q : Nat) : Option Nat :=
  let used := (c.rqUsed site q).map (·.slot)
  (List.range (c.rqSlots site q)).find? (fun n => !used.contains n)

/-- The tag of a message (R169). -/
def tagOf (st : Stitch) : MsgTag := ⟨st.srcNode, st.srcSite, st.tenant, subMod 16 st.seq (sendIndex st)⟩

/-- Whether a queue is enabled and owned by a tenant (R152 check 6). -/
def Chip.queueOpen (c : Chip) (site q t : Nat) : Bool :=
  hasQueues site && c.on (R.SITE_RQ_CFG_EN site q) && c.rd (R.SITE_RQ_CFG_TENANT site q) == t

/-- A message is refused: its tag enters the refusal cache of 256 entries, the oldest dropped when it is full, and leaves it when all its stitches have
been refused (R172). -/
def Chip.refuseMessage (c : Chip) (site : Nat) (st : Stitch) : Chip :=
  let q := queueNo st
  let tag := tagOf st
  let mine := fun (r : Refusal172) => r.site == site && r.queue == q && r.tag == tag
  let c := c.refuse site st stNO_BUFFER
  match c.xport.refusals.find? mine with
  | some r =>
    if r.total ≤ r.refused + 1 then (c.onXport (fun x => { x with refusals := dropFirst mine x.refusals })).rqCounts site q
    else c.onXport (fun x => { x with refusals := updFirst mine (fun r => { r with refused := r.refused + 1 }) x.refusals })
  | none =>
    let c := c.count (R.SITE_RQ_REFUSED_COUNT site q)
    if sendTotal st = 1 then c
    else
      let here := c.xport.refusals.filter (fun r => r.site == site)
      let c := if 256 ≤ here.length then c.onXport (fun x => { x with refusals := dropFirst (fun r => r.site == site) x.refusals }) else c
      (c.onXport (fun x => { x with refusals := x.refusals ++ [⟨site, q, tag, sendTotal st, 1, c.row⟩] })).rqCounts site q

/-- A SEND that passed the first five checks (R152 checks 6 to 8, R171, R172): refused, or its data, from START on, written into its slot and acknowledged; the last stitch of
a message makes it visible and counts it. A stitch that differs from the one that reserved its slot is MALFORMED; one that names another queue reserves a slot there (DESIGN CHOICE, log entry
170). -/
def Chip.sendIn (c : Chip) (site : Nat) (st : Stitch) : Chip :=
  let q := queueNo st
  let tag := tagOf st
  let mine := fun (s : RqSlot) => s.site == site && s.queue == q && s.tag == tag && !s.complete
  let differs := (c.xport.slots.find? mine).any (fun s => s.sync != st.sync || s.cnt != st.cnt || s.total != sendTotal st)
  if !c.queueOpen site q st.tenant then c.refuse site st stNO_QUEUE
  else if differs then c.refuse site st stMALFORMED
  else if c.rqStitches site q < sendTotal st then c.refuse site st stMSG_SIZE
  else if c.xport.refusals.any (fun r => r.site == site && r.queue == q && r.tag == tag) then c.refuseMessage site st
  else
    let bytes := ((padTo 64 st.data).drop st.start).take (st.countM1 + 1)
    let put := fun (c : Chip) (s : RqSlot) =>
      let s' : RqSlot := { s with got := s.got ++ [(sendIndex st, bytes)] }
      let done := decide (s.total ≤ s'.got.length)
      let c := c.onXport (fun x => { x with slots := if done then dropFirst (fun y => y == s) x.slots ++ [{ s' with complete := true }]
                                                     else updFirst (fun y => y == s) (fun _ => s') x.slots })
      let c := (c.ack site st).rqCounts site q
      if done && countsAtDest opSEND s.cnt then c.landCount site s.sync 1 stOK else c
    match c.xport.slots.find? mine with
    | some s => put c s
    | none =>
      match c.rqFree site q with
      | none => c.refuseMessage site st
      | some n =>
        let s : RqSlot := ⟨site, q, n, tag, sendTotal st, st.sync, st.cnt, [], false, false, c.row⟩
        put (c.onXport (fun x => { x with slots := x.slots ++ [s] })) s

/-- The bytes of a complete message, in index order. -/
def RqSlot.message (s : RqSlot) : List Nat := (List.range s.total).flatMap (fun i => (getKey i s.got).getD [])

/-- The 64-byte pieces of a message at an address (R173). -/
def streamPieces (addr : Nat) (m : List Nat) : List (Nat × List Nat) :=
  (chunks 64 (m.length + 1) m).zipIdx.map (fun x => (addr + 64 * x.2, x.1))

/-- A STREAM_READ that passed its checks: up to MAX complete messages leave the queue as STREAM_DATA, then STREAM_END with the result block (R173). The messages are taken in the order in which they became complete (DESIGN CHOICE, log entry 70; unsafe). PPA carries the address of a block
(R142), so the messages stand from the block of DATA_PPA on (DEDUCED, log entry 160; unsafe). -/
def Chip.streamRead (c : Chip) (site : Nat) (st : Stitch) : Chip :=
  let q := queueNo st
  if !c.queueOpen site q st.tenant || !c.on (R.SITE_RQ_CFG_REMOTE_READ site q) then c.refuse site st stNO_QUEUE
  else
    let want := fget st.opspec 13 10 + 1
    let ready := ((c.rqUsed site q).filter (fun s => s.complete && !s.popped)).take want
    let msgs := ready.map RqSlot.message
    let base := leField st.data 0 8 / 64 * 64
    let placed := msgs.foldl (fun (acc : Nat × List (Nat × List Nat)) m => (acc.1 + 64 * ((m.length + 63) / 64), acc.2 ++ streamPieces acc.1 m)) (base, [])
    let c := (c.onXport (fun x => { x with slots := x.slots.filter (fun s => !ready.contains s) })).rqCounts site q
    let c := c.each placed.2 (fun c p => c.send site
      (Stitch.sealed { responseTo site st opSTREAM_DATA p.2 with ppa := p.1, start := 0, countM1 := p.2.length - 1, opspec := 0, sync := 0 }))
    let status := if ready.length < want then stSHORT else stOK
    let block := [ready.length, 0] ++ leBytes 2 placed.2.length ++ (List.range 16).flatMap (fun i => leBytes 2 ((msgs[i]?.map List.length).getD 0)) ++ [status]
    c.send site (Stitch.sealed { responseTo site st opSTREAM_END block with ppa := 0, start := 0, countM1 := 63, opspec := 0, sync := 0 })

/-- SITE.RQ_CFG_q and SITE.RQ_BASE_q: the rules of R170. -/
def Chip.rqHook (c : Chip) (site q v : Nat) (base : Bool) : WriteHook :=
  let reject := fun (c : Chip) => c.wr (R.SITE_XPORT_STATUS_CFG_REJECT site) 1
  if !hasQueues site then ⟨false, id, id⟩
  else
    let on := c.on (R.SITE_RQ_CFG_EN site q)
    let span := fun (cfg b : Nat) => (b, b + (fget cfg 22 15 + 1) * 2 ^ min 12 (fget cfg 14 11))
    if base then ⟨!(on && fget v 14 0 != c.rd (R.SITE_RQ_BASE_BASE site q)), reject, id⟩
    else
      let changes := fget v 29 26 != c.rd (R.SITE_RQ_CFG_TENANT site q) || fget v 22 15 != c.rd (R.SITE_RQ_CFG_SLOT_STITCHES site q)
        || fget v 14 11 != c.rd (R.SITE_RQ_CFG_DEPTH_LOG2 site q)
      let mine := span v (c.rd (R.SITE_RQ_BASE_BASE site q))
      let clash := decide (32768 < mine.2) || (List.range 64).any (fun p => p != q && c.on (R.SITE_RQ_CFG_EN site p) &&
        (let o := span (c.word (R.SITE_RQ_CFG site p)).toNat (c.rd (R.SITE_RQ_BASE_BASE site p))
         decide (mine.1 < o.2) && decide (o.1 < mine.2)))
      if on && changes then ⟨false, reject, id⟩
      else if !on && bitOf v 31 && clash then ⟨false, reject, id⟩
      else .does (fun c => if on && !bitOf v 31 then
          (c.onXport (fun x => { x with slots := x.slots.filter (fun s => !(s.site == site && s.queue == q)) })).rqCounts site q
        else c)

/-! Shares (R167). -/

/-- The latest accepted SHARE of a tenant: in effect, or waiting for its boundary. -/
def Chip.latestShare (c : Chip) (t : Nat) : Nat :=
  match (c.acc.held.filter (fun h => h.off == R.PART_TENANT t)).getLast? with
  | some h => min 256 (fget h.val 8 0)
  | none => min 256 (c.rd (R.PART_TENANT_SHARE t))

/-- The sum of SHARE over enabled tenants (PART.STATUS.SHARE_SUM). -/
def Chip.shareSum (c : Chip) : Nat := (((List.range 16).filter c.tenantOn).map (fun t => min 256 (c.rd (R.PART_TENANT_SHARE t)))).sum

/-- PART.TENANT_t.SHARE: ignored where the sum over enabled tenants, the written one counted in any case, would exceed 256 (R167). -/
def Chip.shareHook (c : Chip) (t v : Nat) : WriteHook :=
  let others := (((List.range 16).filter (fun u => u != t && c.tenantOn u)).map c.latestShare).sum
  ⟨decide (others + min 256 (fget v 8 0) ≤ 256), fun c => c.wr R.PART_STATUS_SHARE_REJECT 1, id⟩

/-! Answers (R156 to R158, R163, R173). -/

/-- An outstanding stitch of a run that has its answer also ends the run at its source (R192). -/
def Chip.answered (c : Chip) (site node tenant seq status : Nat) : Chip :=
  match c.outstanding site node tenant seq with
  | some e => if e.st.opcode = opRUN_OPEN then (c.answerOne site node tenant seq status).runAnswered site node tenant seq status
              else c.answerOne site node tenant seq status
  | none => c.answerOne site node tenant seq status

/-- A response with data: the entry it answers is completed OK, with the data for its requester (R158, R162). -/
def Chip.dataAnswer (c : Chip) (site : Nat) (st : Stitch) (status : Nat) : Chip :=
  match c.outstanding site st.srcNode st.tenant st.seq with
  | some e =>
    if answers st.opcode e.st.opcode then
      let c := (c.freeOut e).complete e status
      let c := c.finishData e.st (padTo 64 st.data)
      c.unstall
    else if site < 24 then c.count (R.SITE_LATE_COUNT site) else c
  | none => if site < 24 then c.count (R.SITE_LATE_COUNT site) else c

/-- A response of a stream read: data landed in the requesting die's memory, or the result block kept until all has landed (R173). -/
def State.streamAnswer (s : State) (site : Nat) (st : Stitch) : State :=
  let c := s.chip
  match c.outstanding site st.srcNode st.tenant st.seq with
  | some e =>
    if answers st.opcode e.st.opcode then
      let upd := fun (f : OutEntry → OutEntry) => c.onXport (fun x => { x with out := updFirst (fun y => y == e) f x.out })
      if st.opcode = opSTREAM_DATA then
        { s with mem := memWrite s.mem st.ppa ((padTo 64 st.data).take (st.countM1 + 1)), chip := upd (fun e => { e with landed := e.landed + 1 }) }
      else { s with chip := upd (fun e => { e with result := some (padTo 64 st.data) }) }
    else { s with chip := if site < 24 then c.count (R.SITE_LATE_COUNT site) else c }
  | none => { s with chip := if site < 24 then c.count (R.SITE_LATE_COUNT site) else c }

/-! The commands. -/

/-- Whether a request names its target by a global address (R251). -/
def byAddress (o : Nat) : Bool := o == opLOAD || o == opSTORE || o == opATOMIC || o == opREDUCE

/-- The destination that a source adapter sets from a request's address or multicast group, or the status it refuses it with (R251, R252, R276). `top` is bits
[63:58] of the global address. -/
def Chip.aim (c : Chip) (top : Nat) (req : Stitch) : Nat × Stitch :=
  if byAddress req.opcode then
    if top ≠ 0 then (stMALFORMED, req)
    else match ownerSite req.ppa with
      | some d => (stOK, { req with dstSite := d })
      | none => (stWINDOW, req)
  else if req.opcode = opMC_STORE then
    if c.mcEntry req = true ∧ (ownerSite req.ppa).isNone then (stWINDOW, req)
    else if c.mcEntry req then
      (stOK, { req with dstNode := c.rd (R.RED_MC_B_ROOT_NODE (mcGroup req)), dstSite := c.rd (R.RED_MC_B_ROOT_SITE (mcGroup req)), opf := 0 })
    else (stMC_GROUP, req)
  else (stOK, req)

/-- A request at a source adapter (R151); one of a tenant in FROGGED is discarded (R462). CNT of a pull is taken as 0b10 (R187). -/
def Chip.request (c : Chip) (site top : Nat) (req : Stitch) : Chip :=
  let req := if req.opcode = opRUN_OPEN ∧ runPull req then { req with cnt := 2 } else req
  let (status, st) := c.aim top req
  if c.rd (R.PART_STATE_STATE req.tenant) = 3 then c
  else if status = stOK then (if st.opcode = opSEND then (c.enter site st).retryRuns else c.enter site st) else c.refuseEntry site req status

/-- OWNER_CORE of the context that issues a request (R283): a core of a compute or processor site, 0xFF for any other. -/
def issueCore : IssueCtx → Nat
  | .core k => k.val
  | .hart k => k.val
  | _ => 0xFF

/-- A SYNC_OP with OWNER_CORE as its adapter writes it, whatever range the requester gave (R283, R284): the range becomes the whole block, its bytes outside the requester's range zero (DEDUCED,
log entry 161; safe). -/
def withOwner (ctx : IssueCtx) (req : Stitch) : Stitch :=
  if req.opcode = opSYNC_OP then
    { req with start := 0, countM1 := 63, data := updAt 14 (fun _ => issueCore ctx) (coveredData (req.start % 64) (min req.countM1 (63 - req.start % 64)) req.data) }
  else req

/-- STITCH_ENTRY (R151, R251, R252, R276): a request of a die at its source adapter; the adapter writes TENANT and a SYNC_OP's OWNER_CORE from the context that issued it (R150,
R283), and a context without a partition issues none; `top` is bits [63:58] of a global address. -/
def execStitchEntry (site : Fin 24) (ctx : IssueCtx) (top : Fin 64) (req : Stitch) (s : State) : Result :=
  .next (s.onChip (fun c => match c.ctxTenant site.val ctx with
    | some t => c.request site.val top.val { withOwner ctx req with tag := 0, tenant := t }
    | none => c))

/-- ACK_SEND (R156, R157): the collected answers of a site whose delay has passed. -/
def execAckSend (site : Fin 32) (s : State) : Result := .next (s.onChip (fun c => c.sendAnswers site.val))

/-- Whether a response, ACK or NACK that has arrived answers a sequence of its flow. -/
def answersSeq (st : Stitch) (seq : Nat) : Bool :=
  if st.opcode = opACK then decide (subMod 16 seq st.seq < 512) && bitOf (leNat (padTo 64 st.data)) (subMod 16 seq st.seq)
  else if st.opcode = opNACK then (List.range (st.opf % 16 + 1)).any (fun n => leField st.data (4 * n) 2 == seq)
  else opResponse st.opcode && st.seq == seq

/-- E2E_TIMEOUT (R158): an outstanding stitch of a site has had no answer for E2E_TIMEOUT rows. An answer that has come to its adapter is taken first (R174). -/
def execE2eTimeout (site : Fin 32) (node : Fin 4096) (tenant : Fin 16) (seq : BitVec 16) (s : State) : Result :=
  .next (s.onChip (fun c => match c.outstanding site.val node.val tenant.val seq.toNat with
    | some e => if e.row + c.e2eRows site.val ≤ c.row ∧ c.xport.arrived.any (fun a => a.site == site.val && a.st.srcNode == node.val && a.st.tenant == tenant.val
          && answersSeq a.st seq.toNat) = false then
        (let c := c.timeOut e
         if e.st.opcode = opRUN_OPEN then c.runAnswered site.val node.val tenant.val seq.toNat stTIMEOUT else c) else c
    | none => c))

/-- CREDIT_RETURN (R168): a batch of freed credits of a pool returns to its source. -/
def execCreditReturn (src dst : Fin 24) (pool : Fin 2) (s : State) : Result :=
  .next (s.onChip (fun c => c.returnCredits src.val dst.val pool.val))

/-- MSG_TIMEOUT (R172): the refusal-cache entries and incomplete slots of a site older than MSG_TIMEOUT rows go. -/
def execMsgTimeout (site : Fin 24) (s : State) : Result :=
  .next (s.onChip (fun c =>
    let i := site.val
    let limit := c.rdPos (R.SITE_XPORT_CFG_MSG_TIMEOUT i)
    let old := fun (row : Nat) => decide (row + limit ≤ c.row)
    let late := c.xport.slots.filter (fun s => s.site == i && !s.complete && old s.row)
    let c := c.onXport (fun x => { x with slots := x.slots.filter (fun s => !late.contains s)
                                          refusals := x.refusals.filter (fun r => !(r.site == i && old r.row)) })
    let c := c.count (R.SITE_MSG_TABLE_ORPHANS i) late.length
    c.each (if hasQueues i then List.range 64 else []) (fun c q => c.rqCounts i q)))

/-- STREAM_RESULT (R173): the result block is written once STREAM_END and the STREAM_DATA it announces have landed, and the request completes. -/
def execStreamResult (site : Fin 24) (node : Fin 4096) (tenant : Fin 16) (seq : BitVec 16) (s : State) : Result :=
  .next (match s.chip.outstanding site.val node.val tenant.val seq.toNat with
    | some e =>
      match e.result with
      | some b =>
        if leField b 2 2 ≤ e.landed then
          let status := b.getD 36 0
          let c := if status = stSHORT then s.chip.countRefused site.val stSHORT else s.chip
          { s with mem := memWrite s.mem (leField e.st.data 8 8) b, chip := ((c.freeOut e).complete e status).unstall }
        else s
      | none => s
    | none => s)

/-- RQ_CFG_WRITE (R170): a write of SITE.RQ_CFG_q, or of SITE.RQ_BASE_q where `base` says so. -/
def execRqCfgWrite (req : Requester) (site : Fin 24) (q : Fin 64) (base : Bool) (v : BitVec 32) (s : State) : Result :=
  .next (s.onChip (fun c => c.writeReg req (if base then R.SITE_RQ_BASE site.val q.val else R.SITE_RQ_CFG site.val q.val) v.toNat
    (c.rqHook site.val q.val v.toNat base)))

/-- SHARE_WRITE (R167): a write of PART.TENANT_t. -/
def execShareWrite (req : Requester) (t : Fin 16) (v : BitVec 32) (s : State) : Result :=
  .next (s.onChip (fun c => c.writeReg req (R.PART_TENANT t.val) v.toNat (c.shareHook t.val v.toNat)))

end Sys2Proof.Machine
end

