-- ==== Sys2Proof/Machine/Memory.lean ====
section
/-! DEFINITION. Memory operations at the owning site: loads, stores, atomics, reductions, multicast copies, the snoop filter and its recalls,
error correction and retirement (R251 to R280, R381 to R397, R403, R407, R410). -/

namespace Sys2Proof.Machine

/-! Error correction and retirement (R383 to R385, R307). -/

/-- The tenants whose windows map a frame of pseudo-channel `q` (R466). -/
def Chip.tenantsOfQ (c : Chip) (q : Nat) : List Nat := ((c.mems.xlat.filter (fun x => frameQ x.2.2 == q)).map (fun x => x.2.1)).eraseDups

/-- Pseudo-channel `q` of stack `st` of memory site `n` retires: its bit, the counts, the lost frames, the record (R384, R385, R387). -/
def Chip.retirePc (c : Chip) (n st q : Nat) : Chip :=
  if c.pcRetired n st q then c
  else
    let pc := if q < 32 then R.MEM_PC_RETIRED_LO_Q n st else R.MEM_PC_RETIRED_HI_Q n st
    let part := if q < 32 then R.PART_RETIRED_Q_LO_Q else R.PART_RETIRED_Q_HI_Q
    let c := (c.wr pc (Nat.lor (c.rd pc) (2 ^ (q % 32)))).wr part (Nat.lor (c.rd part) (2 ^ (q % 32)))
    let c := c.count (if st = 0 then R.MEM_STATUS_RETIRED_A n else R.MEM_STATUS_RETIRED_B n)
    let c := c.when (c.rd (R.MEM_STATUS_RETIRED_A n) == 64 && c.rd (R.MEM_STATUS_RETIRED_B n) == 64) (fun c => c.wr (R.MEM_STATUS_STATE n) 4)
    c.frameCounts.event Ev.pcRetired none (Unit.pc n st q) [2 * n + st, q]

/-- MEM.ECC_LAST takes the machine address of a half-line corrected (1) or found uncorrectable (2). -/
def Chip.eccLast (c : Chip) (a kind : Nat) : Chip :=
  let n := stackOf a / 2
  ((((c.wr (R.MEM_ECC_LAST_LO_ADDR n) (a % 2 ^ 32)).wr (R.MEM_ECC_LAST_HI_KIND n) kind).wr (R.MEM_ECC_LAST_HI_STACK n) (stackOf a % 2)).wr
    (R.MEM_ECC_LAST_HI_Q n) (frameQ (a / 0x200000))).wr (R.MEM_ECC_LAST_HI_ADDR n) (a / 2 ^ 32)

/-- A corrected half-line of HBM (R383). -/
def Chip.eccCorrected (c : Chip) (a : Nat) : Chip :=
  let n := stackOf a / 2
  ((c.count (R.MEM_ECC_CORR_COUNT n (stackOf a % 2))).eccLast a 1).event Ev.corrBurst none (Unit.pc n (stackOf a % 2) (frameQ (a / 0x200000))) []

/-- An uncorrectable half-line of HBM (R384): counted, its pseudo-channel retired, reported with the operation that met it (opcode zero: none did). -/
def Chip.eccUncorrected (c : Chip) (a opcode : Nat) (tenants : List Nat) : Chip :=
  let n := stackOf a / 2
  let q := frameQ (a / 0x200000)
  let c := (c.count (if stackOf a % 2 = 0 then R.MEM_ECC_UNCORR_STACK_A n else R.MEM_ECC_UNCORR_STACK_B n)).eccLast a 2
  let c := c.retirePc n (stackOf a % 2) q
  c.report (Unit.pc n (stackOf a % 2) q) (tenants ++ c.tenantsOfQ q).eraseDups (if opcode = 0 then 0 else 1) opcode (if opcode = 0 then 0 else stMEM_ERR)
    actRetired

/-- A 4 KiB page of the stacked SRAM retires: counted in CMP.CL_SRAM and recorded (R307). -/
def Chip.retirePage (c : Chip) (die page : Nat) (opclass opcode : Nat) : Chip :=
  if c.mems.sramRetired.contains (die, page) then c
  else
    let c := c.onMems (fun m => { m with sramRetired := m.sramRetired ++ [(die, page)] })
    let c := (c.count (R.CMP_CL_SRAM_RETIRED die (page / 32768))).event Ev.pageRetired none (Unit.sramPage die page) [die, page]
    c.report (Unit.sramPage die page) (c.sramOwner (die * 512 + page / 512)).toList opclass opcode (if opclass = 0 then 0 else stMEM_ERR) actRetired

/-- What an access that reads a place finds: `ecc` is 0 for no error, 1 for a corrected one, else uncorrectable. A core whose scratch has an uncorrectable error is fenced with the access
(R306, `fenceScratch`). -/
def Chip.eccFound (c : Chip) (a ecc opcode tenant : Nat) : Chip :=
  if ecc = 0 then c
  else match rangeOf a with
  | .hbm => if ecc = 1 then c.eccCorrected a else c.eccUncorrected a opcode [tenant]
  | .sram =>
    let d := (a - 0x10000000000) / 0x40000000
    let o := (a - 0x10000000000) % 0x40000000
    if ecc = 1 then c.count (R.CMP_CL_SRAM_CORRECTED d (o / 0x8000000)) else c.retirePage d (o / 4096) 1 opcode
  | .cxl => if ecc = 1 then c
            else (c.report (Unit.subPort (4 * slotOf a)) [tenant] 1 opcode stMEM_ERR actReported).event Ev.cxlPoison (some tenant) (Unit.subPort (4 * slotOf a)) [a]
  | .scratch =>
    let i := scratchIndex a
    if ecc = 1 then c.count (R.CMP_CORE_COUNTS_ECC_CORR (i / 136) (i % 136)) else c.onMems (fun m => { m with scratchBad := m.scratchBad ++ [i] })
  | _ => c

/-! Answers of an owning site. -/

/-- The site that a stitch came from on this package, by its delivering lane: on a switched bank the source of the circuit that points at it; none for a stitch that came by a port or by no lane. -/
def Chip.laneSource (c : Chip) (site plane k : Nat) : Option Nat :=
  match Config.planeKind site plane with
  | 1 => if k < 24 then some ((site + 24 - k) % 24) else none
  | 2 => ((List.range 112).find? (fun e => c.standing e && c.rd (R.CIRC_PLANE_DST_BANK e) == switchedIndex site plane)).map (fun e => (switchedAt e).1)
  | _ => none

/-- The ingress entry of a stitch is free once it has been performed or refused (R168). -/
def Chip.arrivalDone (c : Chip) (site plane k : Nat) (st : Stitch) : Chip :=
  match c.laneSource site plane k with
  | some s => c.freeCredit s site st
  | none => c

/-- A stitch is refused at its destination; for a REDUCE the context counts it (RED.CTX_D.ERRORS). -/
def Chip.refuseOp (c : Chip) (site : Nat) (st : Stitch) (status : Nat) : Chip :=
  let c := c.refuse site st status
  if st.opcode = opREDUCE then c.ctxError (redCtx st) 1 else c

/-- A stitch that landed is acknowledged, and counted where CNT includes the destination (R156, R162). -/
def Chip.landed (c : Chip) (site : Nat) (st : Stitch) : Chip :=
  let c := c.ack site st
  if countsAtDest st.opcode st.cnt then c.landCount site st.sync 1 stOK else c

/-! Loads, stores and atomics (R254 to R258). -/

/-- The bytes of a block at START to START + COUNT_M1, with zero elsewhere. -/
def coveredBytes (st : Stitch) (block : List Nat) : List Nat := List.replicate st.start 0 ++ (block.drop st.start).take (st.countM1 + 1)

/-- Function and width of an ATOMIC (R144, R256). -/
def atomFn (st : Stitch) : Nat := fget st.opspec 17 12
def atomWidth (st : Stitch) : Nat := fget st.opspec 11 10

/-- The target's bytes; zero for a reserved width. -/
def atomBytes (st : Stitch) : Nat := if atomWidth st = 3 then 0 else 4 * 2 ^ atomWidth st

/-- Whether the table of R256 allows a function with a width. -/
def atomAllowed (st : Stitch) : Bool :=
  if atomFn st = 1 then decide (atomWidth st ≤ 2) else decide (atomFn st ≤ 0x0A) && decide (atomWidth st ≤ 1)

/-- The layout rules of R257. -/
def atomLayout (st : Stitch) : Bool :=
  let w := atomBytes st
  if atomFn st = 1 then st.countM1 == 2 * w - 1 && st.start % (2 * w) == 0 else st.countM1 == w - 1 && st.start % w == 0

/-- The new value of an atomic of `w` bytes from the old value and the operands (R256). -/
def atomNew (fn w old x cmp swap : Nat) : Nat :=
  let n := 8 * w
  let s := fun (v : Nat) => toSigned n v
  if fn = 0 then x
  else if fn = 1 then (if old = cmp then swap else old)
  else if fn = 2 then (old + x) % 2 ^ n
  else if fn = 3 then Nat.land old x
  else if fn = 4 then Nat.lor old x
  else if fn = 5 then Nat.xor old x
  else if fn = 6 then (if s old < s x then x else old)
  else if fn = 7 then (if s x < s old then x else old)
  else if fn = 8 then max old x
  else if fn = 9 then min old x
  else ((if w = 4 then fp32 else fp64).add .rne old x).1

/-- Whether an access reads a half-line of its block: all but a store that covers whole half-lines (R384). -/
def readsHalfLine (st : Stitch) : Bool :=
  if st.opcode = opSTORE ∨ st.opcode = opMC_STORE then !(st.start % 32 == 0 && (st.start + st.countM1 + 1) % 32 == 0) else true

/-- Whether an access only reads. -/
def readsOnly (st : Stitch) : Bool := st.opcode == opLOAD && !decide (st.opf % 4 = 2)

/-! Device ranges (R407, R410). -/

/-- Sub-ports of a slot (R406). -/
def Chip.slotWays (c : Chip) (s : Nat) : Nat := if c.rd (R.HIO_SLOT_CFG_BIFUR s) = 1 then 2 else if c.rd (R.HIO_SLOT_CFG_BIFUR s) = 2 then 4 else 1

/-- The status of an access to a device range: OK, WINDOW for an unmapped part, MEM_ERR where the sub-port is not up (R407, R410). -/
def Chip.deviceStatus (c : Chip) (a : Nat) : Nat :=
  let s := slotOf a
  if rangeOf a = .cxl then
    (if (List.range 4).any (fun b => c.rd (R.HIO_PORT_STATUS_STATE (4 * s + b)) == 2 && c.rd (R.HIO_PORT_STATUS_KIND (4 * s + b)) == 1) then stOK else stMEM_ERR)
  else
    let o := (a - 0x3E0000000000) % 0x4000000000
    if o < 0x40000000 then (if o < 0x10010000 then stOK else stWINDOW)
    else if c.rd (R.HIO_PORT_STATUS_STATE (4 * s + o / (0x4000000000 / c.slotWays s))) = 2 then stOK else stMEM_ERR

/-- The bytes that a device gives (R407): free values. -/
def Chip.deviceBlock (c : Chip) (a : Nat) : List Nat × Chip :=
  let (n, c) := c.draw
  ((List.range 64).map (fun i => Config.deviceByte (a + i) n % 256), c)

/-! The snoop filter (R394, R395, R403). -/

/-- The memory site or slot counts of the filter of a place: entries in use, recalls, evictions (MEM.SNOOP). -/
def Chip.snoopCounts (c : Chip) : Chip :=
  c.each (List.range 8) (fun c n => c.wr (R.MEM_SNOOP_IN_USE n)
    (c.mems.snoop.filter (fun e => rangeOf e.line == .hbm && stackOf e.line / 2 == n)).length)

/-- The filter set of a line at its site, and the ways of a set (R394, R410). -/
def snoopSet (a : Nat) : Nat :=
  if rangeOf a = .hbm then (a / 65536 * 128 + a % 8192 / 64) % 65536 else (a / 64) % 16384

/-- Whether two lines lie in one set of one site's filter. -/
def sameSet (a b : Nat) : Bool := ownerSite a == ownerSite b && snoopSet a == snoopSet b

/-- The entry that must be freed before a line can be entered: the oldest of a full set (R394). -/
def Chip.snoopVictim (c : Chip) (a : Nat) : Option SnoopEntry :=
  if (c.snoopAt a).isSome then none
  else
    let set := c.mems.snoop.filter (fun e => sameSet e.line a)
    if 16 ≤ set.length then set.head? else none

/-- A die holds a line from now on; `mod`: it may hold it modified. -/
def Chip.snoopAdd (c : Chip) (a view tenant die : Nat) (mod : Bool) : Chip :=
  let fresh : SnoopEntry := ⟨lineOf a, view, tenant, [die], if mod then some die else none⟩
  let upd := fun (e : SnoopEntry) => { e with dies := (die :: e.dies).eraseDups, owner := if mod then some die else if e.owner = some die then none else e.owner }
  (c.onMems (fun m => { m with snoop := if m.snoop.any (fun e => e.line == lineOf a) then updFirst (fun e => e.line == lineOf a) upd m.snoop
                                        else m.snoop ++ [fresh] })).snoopCounts

/-- A die no longer holds a line; `keep`: it keeps a shared copy. An entry without a holder is freed. -/
def Chip.snoopLeave (c : Chip) (line die : Nat) (keep : Bool) : Chip :=
  let upd := fun (e : SnoopEntry) => { e with dies := if keep then e.dies else e.dies.filter (fun d => d != die)
                                              owner := if e.owner = some die then none else e.owner }
  (c.onMems (fun m => { m with snoop := (updFirst (fun e => e.line == line) upd m.snoop).filter (fun e => !e.dies.isEmpty) })).snoopCounts

/-! Reductions at a memory site (R269 to R273). -/

/-- The combining unit of a memory site. -/
def unitOf (site : Nat) : Nat := 4 + (site - 10)

/-- The block with contributions combined into the elements at START, in order: memory ⊕ each, rounded once to the type at the end (R263, R272). -/
def landElems (ty op : Nat) (memory : List Nat) (contribs : List (List Nat)) : List Nat :=
  redBytes ty (contribs.foldl (redMerge ty op) ((elemsOf (elemSize ty) memory).map (widenElem ty)))

/-- The read-modify-write of a block for elements of a stitch's key (R269). -/
def landMemory (mem : List Host.Cell) (place : Nat) (key : Stitch) (contribs : List (List Nat)) : List Host.Cell :=
  memWrite mem (place + key.start) (landElems (redType key) (redOp key) (memRead mem (place + key.start) (key.countM1 + 1)) contribs)

/-- The contributions of a slot in rising order of source (R272). -/
def slotOrder (l : List Stitch) : List Stitch :=
  l.foldl (fun acc st => acc.takeWhile (fun x => decide (x.srcNode * 32 + x.srcSite ≤ st.srcNode * 32 + st.srcSite)) ++ [st]
    ++ acc.dropWhile (fun x => decide (x.srcNode * 32 + x.srcSite ≤ st.srcNode * 32 + st.srcSite))) []

/-- Every contribution held is answered with an error, and nothing is written (R397). -/
def Chip.refuseHeld (c : Chip) (site : Nat) (l : List Stitch) (status : Nat) : Chip := c.each l (fun c st => c.refuseOp site st status)

/-- The landing of contributions at a place: refused with MEM_ERR where the place cannot be written or the read finds an uncorrectable error; else written,
counted by `n` at SYNC where CNT has bit 0, and every stitch answered (R269, R272, R397). `short`: answered DET_PARTIAL (R273). -/
def State.landReduce (s : State) (site place ecc : Nat) (key : Stitch) (contribs : List (List Nat)) (held : List Stitch) (n : Nat) (short : Bool) : State :=
  let bad := !s.chip.placeGood place
  let c := if bad then s.chip else s.chip.eccFound place ecc opREDUCE key.tenant
  if bad ∨ 2 ≤ ecc then { s with chip := c.refuseHeld site held stMEM_ERR }
  else
    let c := if key.cnt % 2 = 1 then c.landCount site key.sync n (if short then stDET_PARTIAL else stOK) else c
    { s with mem := landMemory s.mem place key contribs
             chip := c.each held (fun c st => if short then c.refuseOp site st stDET_PARTIAL else c.ack site st) }

/-! An access at its owning site, once its checks have passed. -/

/-- What a stitch does at the place of its block (R254 to R257, R278, R384). -/
def State.doStitch (s : State) (site ecc place : Nat) (st : Stitch) : State :=
  let c := s.chip
  let dev := rangeOf place == .cxl || rangeOf place == .mmio
  let status := if dev then c.deviceStatus place else if c.placeGood place then stOK else stMEM_ERR
  let lostLine := dev && st.opcode == opSTORE && bitOf st.opf 0
  if status ≠ stOK then
    let c := if lostLine then c.report (Unit.subPort (4 * slotOf place)) [st.tenant] 1 opSTORE status actReported else c
    { s with chip := c.refuseOp site st status }
  else
    let c := if readsHalfLine st then c.eccFound place ecc st.opcode st.tenant else c
    if readsHalfLine st ∧ 2 ≤ ecc then { s with chip := c.refuseOp site st stMEM_ERR }
    else if st.opcode = opLOAD then
      let (block, c) := if rangeOf place = .mmio then c.deviceBlock place else (memRead s.mem place 64, c)
      let die := st.srcSite - 8
      let fill := st.opf % 4
      let alone := fill == 1 && ((c.snoopAt place).map (fun e => e.dies.filter (fun d => d != die))).getD [] == []
      let c := if fill = 0 then c else c.snoopAdd place st.ppa st.tenant die (fill == 2 || alone)
      { s with chip := c.send site (Stitch.sealed { responseTo site st opLOAD_RSP (coveredBytes st block) with opf := b2n alone }) }
    else if st.opcode = opATOMIC then
      let w := atomBytes st
      let old := memNat s.mem (place + st.start) w
      let x := leField (padTo 64 st.data) st.start w
      let swap := leField (padTo 64 st.data) (st.start + w) w
      let rsp := Stitch.sealed { responseTo site st opATOMIC_RSP (List.replicate st.start 0 ++ leBytes w old) with
        opf := b2n (atomFn st == 1 && old == x) }
      { s with mem := memPutNat s.mem (place + st.start) w (atomNew (atomFn st) w old x x swap), chip := c.send site rsp }
    else
      let c := if st.opcode = opSTORE ∧ st.opf % 2 = 1 then c.snoopLeave (lineOf place) (st.srcSite - 8) false else c
      let bytes := ((padTo 64 st.data).drop st.start).take (st.countM1 + 1)
      { s with mem := if rangeOf place = .mmio then s.mem else memWrite s.mem (place + st.start) bytes, chip := c.landed site st }

/-- The processor die whose own cached access a stitch is: a fill or a write-back (R395, R403). -/
def fillDie (st : Stitch) : Option Nat :=
  if (st.opcode = opLOAD ∧ st.opf % 4 ≠ 0) ∨ (st.opcode = opSTORE ∧ st.opf % 2 = 1) then some (st.srcSite - 8) else none

/-- A parked or new access is tried at site `site` (R390, R394, R395): parked again while its line has to be recalled, a filter entry freed or its page zeroed;
else performed. -/
def State.tryAccess (s : State) (site : Nat) (op : ParkedOp) : State :=
  let c := s.chip
  let wait := fun (o : Nat × List Nat × Option Nat) (share evict : Bool) => { s with chip := c.park site op o share evict }
  match op with
  | .probe => s
  | .stitch plane k ecc place st =>
    let victim := if (fillDie st).isSome ∧ st.opcode = opLOAD then c.snoopVictim place else none
    match c.obstacle [place] (!readsOnly st) (fillDie st), victim with
    | some o, _ => wait o (readsOnly st) false
    | none, some e => wait (e.line, e.dies, none) false true
    | none, none =>
      let s := s.doStitch site ecc place st
      { s with chip := s.chip.arrivalDone site plane k st }
  | .landing place ecc p =>
    match c.obstacle [place] true none with
    | some o => wait o false false
    | none => s.landReduce site place ecc p.key [p.acc] p.held p.n false
  | .slot place ecc d =>
    match c.obstacle [place] true none with
    | some o => wait o false false
    | none =>
      let short := decide (d.got.length < c.ctxK d.ctx)
      let s := s.landReduce site place ecc d.key ((slotOrder d.got).map redElems) d.got d.got.length short
      if short then { s with chip := (s.chip.count R.RED_DET_COUNTS_PARTIAL).event Ev.detPartial (some d.key.tenant) 0 [d.ctx, c.row] } else s
  | .group e n g _ blocks =>
    match c.circ.dst.find? (fun d => d.e == e && d.runNo == n) with
    | none => s
    | some d =>
      match c.obstacle ((c.groupPlaces d.opening g blocks.length).filterMap id) true none with
      | some o => wait o false false
      | none => s.landBlocks d g blocks

/-- The parked accesses that have nothing left to wait for are tried, in their order. -/
def State.resume (s : State) : State :=
  let ready := fun (p : ParkedAccess) => p.dies.isEmpty && p.frame.isNone
  let hit := s.chip.mems.parked.filter ready
  hit.foldl (fun s p => s.tryAccess p.site p.op)
    { s with chip := s.chip.onMems (fun m => { m with parked := m.parked.filter (fun p => !ready p) }) }

/-- A landing at a memory site: its address translated, or its contributions refused with WINDOW where the tenant's window no longer has it. -/
def State.landAt (s : State) (site : Nat) (key : Stitch) (held : List Stitch) (op : Nat → ParkedOp) : State :=
  match s.chip.resolve key.tenant key.ppa with
  | some a => s.tryAccess site (op a)
  | none => { s with chip := s.chip.refuseHeld site held stWINDOW }

/-- A partial of a memory site lands (R269). -/
def State.landPartial (s : State) (p : Partial) (ecc : Nat) : State :=
  State.landAt { s with chip := s.chip.dropPartial p } (p.unit + 6) p.key p.held (fun a => .landing a ecc p)

/-- A deterministic slot lands (R272, R273). -/
def State.landSlot (s : State) (d : DetSlot) (ecc : Nat) : State :=
  State.landAt { s with chip := s.chip.onRed (fun x => { x with slots := dropFirst (fun y => y == d) x.slots }) } (d.unit + 6) d.key d.got (fun a => .slot a ecc d)

/-- A contribution to a deterministic context (R271 to R273). -/
def State.detReduce (s : State) (site ecc : Nat) (st : Stitch) : State :=
  let c := s.chip
  let u := unitOf site
  let n := redCtx st
  let mine := c.red.slots.filter (fun d => d.unit == u && d.ctx == n)
  let refuse := fun (c : Chip) (status : Nat) => { s with chip := c.refuseOp site st status }
  match mine.find? (fun d => d.key.tenant == st.tenant && d.key.ppa == st.ppa && d.key.start == st.start && d.key.countM1 == st.countM1) with
  | some d =>
    if redCount st ≠ 1 ∨ d.got.any (fun x => x.srcNode == st.srcNode && x.srcSite == st.srcSite) then refuse c stDET_ORDER
    else
      let d' := { d with got := d.got ++ [st] }
      let s := { s with chip := c.onRed (fun x => { x with slots := updFirst (fun y => y == d) (fun _ => d') x.slots }) }
      if c.ctxK n ≤ d'.got.length then s.landSlot d' ecc else s
  | none =>
    if redCount st ≠ 1 then refuse c stDET_ORDER
    else if c.rd (R.RED_CTX_C_RES_MEM n) ≤ mine.length then
      refuse ((c.count R.RED_DET_COUNTS_FULL).event Ev.detFull (some st.tenant) 0 [n, c.row]) stDET_FULL
    else { s with chip := c.onRed (fun x => { x with slots := x.slots ++ [⟨u, n, st, [st], c.row⟩] }) }

/-- A REDUCE whose checks have passed at its memory site (R267, R269, R271). -/
def State.reduceIn (s : State) (site ecc : Nat) (st : Stitch) : State :=
  let c := s.chip
  let u := unitOf site
  let n := redCtx st
  let expect := c.expectMem n
  let alone := fun (s : State) => s.landAt site st [st] (fun a => .landing a ecc (s.chip.freshPartial u st))
  let start := fun (s : State) =>
    if expect ≤ redCount st then alone s
    else if s.chip.entryFree u st then { s with chip := s.chip.onRed (fun x => { x with partials := x.partials ++ [s.chip.freshPartial u st] }) }
    else alone { s with chip := s.chip.count R.RED_COUNTS_PASSED }
  if c.ctxDet n then s.detReduce site ecc st
  else if !c.on R.RED_CFG_COMBINE_EN then alone s
  else match c.heldPartial u st with
  | none => start s
  | some p =>
    if 1024 < p.n + redCount st then start (s.landPartial p 0)
    else
      let p' := p.add st
      let s := { s with chip := c.setPartial p p' }
      if expect ≤ p'.n then s.landPartial p' ecc else s

/-- A memory operation at its owning site after check 5 of R152: the checks of R260, then its execution. -/
def State.memoryOp (s : State) (site plane k ecc : Nat) (st : Stitch) : State :=
  let c := s.chip
  let fail := fun (status : Nat) => { s with chip := (c.refuseOp site st status).arrivalDone site plane k st }
  if (st.opcode = opATOMIC ∧ !atomAllowed st) ∨ (st.opcode = opREDUCE ∧ !redAllowed (redType st) (redOp st)) then fail stBAD_TYPE
  else if !opcodeTargets st.opcode (rangeOf st.ppa) then fail stTARGET
  else if st.opcode = opREDUCE ∧ !c.ctxMatches st then fail stNO_CTX
  else if st.opcode = opREDUCE then
    let s := s.reduceIn site ecc st
    { s with chip := s.chip.arrivalDone site plane k st }
  else match c.resolve st.tenant st.ppa with
  | some a => s.tryAccess site (.stitch plane k ecc a st)
  | none => fail stWINDOW

/-! The commands. -/

/-- The partials of a unit that a condition names are released (R268) or landed (R269); `ecc` is what the read of the first landing finds. -/
def State.flushUnit (s : State) (u ecc : Nat) (hit : Partial → Bool) : State :=
  if u < 4 then { s with chip := s.chip.flushEdge u hit }
  else ((s.chip.red.partials.filter (fun p => p.unit == u && hit p)).zipIdx).foldl (fun s p => s.landPartial p.1 (if p.2 = 0 then ecc else 0)) s

/-- PARTIAL_FLUSH_TIMEOUT (R268, R269): the partials of a unit that have been held FLUSH_ROWS rows are released. -/
def execPartialFlushTimeout (unit : Fin 12) (ecc : Fin 3) (s : State) : Result :=
  .next (let c := s.chip
         let late := fun (p : Partial) => decide (p.row + c.rdPos R.RED_CFG_FLUSH_ROWS ≤ c.row)
         let hit := c.red.partials.filter (fun p => p.unit == unit.val && late p)
         State.flushUnit { s with chip := c.count R.RED_COUNTS_FLUSHED hit.length } unit.val ecc.val late)

/-- The deterministic slots that a condition names land what they hold. -/
def State.flushSlots (s : State) (ecc : Nat) (hit : DetSlot → Bool) : State :=
  ((s.chip.red.slots.filter hit).zipIdx).foldl (fun s d => s.landSlot d.1 (if d.2 = 0 then ecc else 0)) s

/-- DET_WAIT_TIMEOUT (R273): the slots of a memory site that have waited DET_WAIT rows land what they hold. -/
def execDetWaitTimeout (n : Fin 8) (ecc : Fin 3) (s : State) : Result :=
  .next (s.flushSlots ecc.val (fun d => d.unit == 4 + n.val && decide (d.row + s.chip.rdPos R.RED_CFG_DET_WAIT ≤ s.chip.row)))

/-- PATROL_PASS (R384, R386): a pass of memory site `n` over every populated half-line finds corrected and uncorrectable half-lines, by machine address. -/
def execPatrolPass (n : Fin 8) (corrected bad : List (BitVec 40)) (s : State) : Result :=
  .next (s.onChip (fun c =>
    if c.on (R.MEM_SCRUB_CFG_EN n.val) ∧ c.rd (R.MEM_STATUS_STATE n.val) = 3 then
      let here := fun (l : List (BitVec 40)) => (l.map BitVec.toNat).filter (fun a => stackOf a / 2 == n.val && decide (a / 0x200000 < c.frameCount))
      (c.each (here corrected) Chip.eccCorrected).each (here bad) (fun c a => c.eccUncorrected a 0 [])
    else c))

/-- Whether a recall of a line from a die is wanted: by a parked access, or for a shared copy by a run that reads the line (R395). -/
def Chip.recallWanted (c : Chip) (site die line : Nat) (share : Bool) : Bool :=
  c.mems.parked.any (fun p => p.site == site && p.line == line && p.share == share && p.dies.contains die)
    || (share && c.circ.src.any (fun r => r.relayOf.isNone && r.todo.any (fun g => (List.range (groupSize r.opening g.1)).any (fun i =>
      ((c.resolve r.opening.tenant (blockAddr r.src r.srcLocal (6 * g.1 + i))).map lineOf) == some line)))
      && ((c.snoopAt line).map (fun e => e.owner == some die)).getD false)

/-- A recall is sent to a die as a LOAD of class 1 with the view address and tenant of the filter entry (R403). -/
def Chip.sendRecall (c : Chip) (site die line : Nat) (share : Bool) : Chip :=
  match c.snoopAt line with
  | none => c
  | some e =>
    if c.recallWanted site die line share ∧ c.mems.recalls.any (fun r => r.site == site && r.die == die && r.line == line) = false
        ∧ c.outRoom site c.node e.tenant ∧ c.entering site c.node e.tenant = none then
      let seq := c.flowNext site c.node e.tenant
      let evict := c.mems.parked.any (fun p => p.site == site && p.line == line && p.evict)
      let c := if 10 ≤ site ∧ site < 18 then c.count (if evict then R.MEM_SNOOP_EVICT_COUNT (site - 10) else R.MEM_SNOOP_RECALLS_COUNT (site - 10)) else c
      let st := c.build site { dstNode := c.node, dstSite := 8 + die, tenant := e.tenant, cls := 1, opcode := opLOAD, countM1 := 63
                               opf := if share then 8 else 4, ppa := lineOf e.view }
      let c := c.onXport (fun x => { x with nextSeq := putKey (site, c.node, e.tenant) ((seq + 1) % 65536) x.nextSeq
                                            out := x.out ++ [({ site := site, st := st, row := c.row } : OutEntry)] })
      ((c.outCounts site).send site st).onMems (fun m => { m with recalls := m.recalls ++ [⟨site, die, line, share, e.tenant, seq, c.cycles⟩] })
    else c

/-- RECALL_INV and RECALL_SHARE (R403): an owning site asks a die to give up a line, or to keep it shared. -/
def execRecallInv (site : Fin 24) (die : Fin 2) (line : BitVec 46) (s : State) : Result :=
  .next (s.onChip (fun c => c.sendRecall site.val die.val (lineOf line.toNat) false))

def execRecallShare (site : Fin 24) (die : Fin 2) (line : BitVec 46) (s : State) : Result :=
  .next (s.onChip (fun c => c.sendRecall site.val die.val (lineOf line.toNat) true))

/-- A recall is over: the parked accesses of its line wait no longer for the die; those with nothing left to wait for are tried. -/
def State.recallOver (s : State) (r : Recall) (keep : Bool) : State :=
  let c := s.chip.onMems (fun m => { m with
    recalls := dropFirst (fun x => x == r) m.recalls
    parked := m.parked.map (fun p => if p.site = r.site ∧ p.line = r.line then { p with dies := p.dies.filter (fun d => d != r.die) } else p) })
  let c := c.snoopLeave r.line r.die keep
  let c := match c.xport.out.find? (fun e => e.site == r.site && e.st.tenant == r.tenant && e.st.seq == r.seq && e.st.dstNode == c.node) with
    | some e => c.freeOut e
    | none => c
  State.resume { s with chip := c }

/-- The recall that a LOAD_RSP at a site answers: by SRC_SITE, tenant and sequence (R403). -/
def Chip.recallOf (c : Chip) (site : Nat) (st : Stitch) : Option Recall :=
  c.mems.recalls.find? (fun r => r.site == site && r.die + 8 == st.srcSite && r.tenant == st.tenant && r.seq == st.seq && st.srcNode == c.node)

/-- A die's answer to a recall (R403): modified data is written to the line, and a line no longer held leaves the filter; a late answer is counted. -/
def State.recallAnswer (s : State) (site : Nat) (st : Stitch) : State :=
  match s.chip.recallOf site st with
  | none => s.onChip (fun c => c.count (R.SITE_LATE_COUNT site))
  | some r =>
    let s := if bitOf st.opf 0 ∧ s.chip.placeGood r.line then { s with mem := memWrite s.mem r.line (padTo 64 st.data) } else s
    s.recallOver r (r.share && !bitOf st.opf 1)

/-- Whether a processor die runs: cast-on has released it and it is not fenced (R23, R400). -/
def Chip.dieRuns (c : Chip) (d : Nat) : Bool := c.rd (R.CPU_DIE_STATUS_STATE d) == 1 || c.rd (R.CPU_DIE_STATUS_STATE d) == 2

/-- RECALL_RESPONSE (R403): the LOAD_RSP of processor die `die` to a recall of `site`; a die that is held in reset answers nothing (R23). -/
def execRecallResponse (site : Fin 24) (die : Fin 2) (st : Stitch) (s : State) : Result :=
  .next (if st.opcode = opLOAD_RSP ∧ Stitch.checkOk st ∧ s.chip.dieRuns die.val then s.recallAnswer site.val { st with srcNode := s.chip.node, srcSite := 8 + die.val } else s)

/-- RECALL_TIMEOUT (R397): a recall unanswered for 1 µs: the site takes its own copy and reports a processor-die fault. -/
def execRecallTimeout (site : Fin 24) (die : Fin 2) (line : BitVec 46) (s : State) : Result :=
  .next (
    match s.chip.mems.recalls.find? (fun r => r.site == site.val && r.die == die.val && r.line == lineOf line.toNat) with
    | none => s
    | some r =>
      if r.since + 2000 ≤ s.chip.cycles then
        let s := s.recallOver r false
        s.onChip (fun c => (c.report (Unit.cpuDie die.val) [r.tenant] 1 opLOAD stTIMEOUT actReported).event Ev.recallTimeout (some r.tenant)
          (Unit.cpuDie die.val) [site.val, r.line])
      else s)

/-- ZEROING_DONE (R390): the zeroing of a frame ends, and the accesses that wait for it proceed and see zero. -/
def execZeroingDone (frame : Fin 524288) (s : State) : Result :=
  .next (
    if s.chip.mems.zeroing.contains frame.val then
      let c := s.chip.onMems (fun m => { m with
        zeroing := m.zeroing.filter (fun f => f != frame.val)
        parked := m.parked.map (fun p => if p.frame = some frame.val then { p with frame := none } else p) })
      State.resume { s with mem := memZero s.mem (machineAddr frame.val 0) (machineAddr (frame.val + 1) 0), chip := c }
    else s)

end Sys2Proof.Machine
end

