-- ==== Sys2Proof/Machine/HostIo.lean ====
section
/-! DEFINITION. Processor dies and host I/O: receive-queue windows, hart and die faults, slots and sub-ports, board clocks (R398 to R414). -/

namespace Sys2Proof.Machine

/-! Answers to a hart or a device. -/

/-- The status of an answer: done, access fault, unsupported request. -/
def anDONE : Nat := 0
def anFAULT : Nat := 1
def anUNSUPPORTED : Nat := 2

/-- A requester's access is answered. -/
def Chip.answerTo (c : Chip) (req : Requester) (status data : Nat) : Chip := c.onAcc (fun a => { a with answer := some ⟨req, status, data⟩ })

/-! The site-local window (R404, R405). -/

/-- A hart's tenant owns a receive queue of its die's site. -/
def Chip.hartOwnsQueue (c : Chip) (d k q : Nat) : Bool := c.queueOpen (8 + d) q (c.rd (R.CPU_CORE_STATE_TENANT d k))

/-- First receive-buffer entry of a slot. -/
def Chip.slotEntry (c : Chip) (s : RqSlot) : Nat := c.rd (R.SITE_RQ_BASE_BASE s.site s.queue) + s.slot * c.rqStitches s.site s.queue

/-- Bytes of a message minus one (R405). -/
def RqSlot.lenM1 (s : RqSlot) : Nat := (s.total - 1) * 64 + (((getKey (s.total - 1) s.got).getD []).length - 1)

/-- The value that RQ_POP_q returns for a message (R405). -/
def Chip.popValue (c : Chip) (s : RqSlot) : Nat :=
  fset (fset (fset (fset (fset (fset 0 63 63 1) 61 46 s.tag.seq0) 45 34 s.tag.srcNode) 33 29 s.tag.srcSite) 28 15 s.lenM1) 14 0 (c.slotEntry s)

/-- RQ_POP (R405). -/
def execRqPop (die : Fin 2) (core : Fin 96) (q : Fin 64) (s : State) : Result :=
  .next (s.onChip (fun c =>
    let site := 8 + die.val
    let req : Requester := .hart die core
    if c.hartOwnsQueue die.val core.val q.val = false then c.answerTo req anFAULT 0
    else match (c.rqUsed site q.val).find? (fun x => x.complete && !x.popped) with
    | none => c.answerTo req anDONE 0
    | some m =>
      let v := c.popValue m
      let c := c.onXport (fun x => { x with slots := updFirst (fun y => y == m) (fun y => { y with popped := true }) x.slots })
      (c.rqCounts site q.val).answerTo req anDONE v))

/-- RQ_FREE (R405). -/
def execRqFree (die : Fin 2) (core : Fin 96) (q : Fin 64) (v : BitVec 64) (s : State) : Result :=
  .next (s.onChip (fun c =>
    let site := 8 + die.val
    let req : Requester := .hart die core
    if c.hartOwnsQueue die.val core.val q.val = false then c.answerTo req anFAULT 0
    else match (c.rqUsed site q.val).find? (fun x => x.popped && c.slotEntry x == fget v.toNat 14 0) with
    | none => (c.count (R.CPU_DIE_STATUS_FREE_ERR die.val)).answerTo req anDONE 0
    | some m => ((c.onXport (fun x => { x with slots := dropFirst (fun y => y == m) x.slots })).rqCounts site q.val).answerTo req anDONE 0))

/-! Harts and dies (R400). -/

/-- A hart is fenced; its session ends (R433). -/
def Chip.stopHart (c : Chip) (d k : Nat) : Chip :=
  (((c.endHartSession d k).wr (R.CPU_CORE_STATE_STATE d k) 4).drop (R.CPU_DIE_STATUS_RUNNING d)).count (R.CPU_DIE_STATUS_FENCED d)

/-- A hart meets an uncorrectable error: fenced for the power-on period and reported (R400, R466). -/
def Chip.fenceHart (c : Chip) (d k : Nat) : Chip :=
  if c.rd (R.CPU_CORE_STATE_STATE d k) = 4 then c
  else
    let t := if c.on (R.CPU_CORE_STATE_TENANT_EN d k) then some (c.rd (R.CPU_CORE_STATE_TENANT d k)) else none
    ((c.stopHart d k).event Ev.hartFence t (Unit.hart d k) []).report (Unit.hart d k) t.toList 0 0 0 actFenced

/-- A die meets an uncorrectable error in its L3: the die and every hart of it are fenced (R400). -/
def Chip.fenceDie (c : Chip) (d : Nat) : Chip :=
  if c.rd (R.CPU_DIE_STATUS_STATE d) = 3 then c
  else
    let c := c.each (List.range 96) (fun c k => if c.rd (R.CPU_CORE_STATE_STATE d k) = 4 then c else c.stopHart d k)
    ((c.wr (R.CPU_DIE_STATUS_STATE d) 3).event Ev.dieFence none (Unit.cpuDie d) []).report (Unit.cpuDie d) [] 0 0 0 actFenced

/-- HART_FAULT (R400): in a core, or with no core named in L3. -/
def execHartFault (die : Fin 2) (core : Option (Fin 96)) (s : State) : Result :=
  .next (s.onChip (fun c => match core with
    | some k => c.fenceHart die.val k.val
    | none => c.fenceDie die.val))

/-! Slots and sub-ports (R406 to R410). -/

/-- MAX_SPEED as it acts. -/
def Chip.slotSpeed (c : Chip) (s : Nat) : Nat := max 1 (min 6 (c.rd (R.HIO_SLOT_CFG_MAX_SPEED s)))

/-- A sub-port's status other than its counter of downs. -/
def Chip.setPort (c : Chip) (r state speed width flit kind : Nat) : Chip :=
  let w := fset (fset (fset (fset (fset (c.word (R.HIO_PORT_STATUS r)).toNat 31 28 state) 27 24 speed) 23 19 width) 18 18 flit) 17 16 kind
  c.setWord (R.HIO_PORT_STATUS r) (BitVec.ofNat 32 w)

/-- PCIE_LINK_UP (R408, R410): a sub-port that trains comes up with the rate, width and mode that were negotiated. `device`: 0 PCIe, 1 a CXL Type 3 device, 2 a device
that offers CXL.cache. An outcome that the slot's settings do not allow does not happen. -/
def execPcieLinkUp (r : Fin 16) (speed : Fin 7) (width : Fin 17) (flit : Bool) (device : Fin 3) (s : State) : Result :=
  .next (s.onChip (fun c =>
    let sl := r.val / 4
    let ok := decide (1 ≤ speed.val) && decide (speed.val ≤ c.slotSpeed sl) && [1, 2, 4, 8, 16].contains width.val
      && decide (width.val * c.slotWays sl ≤ 16) && (flit || decide (speed.val < 6))
    if c.rd (R.HIO_PORT_STATUS_STATE r.val) = 1 ∧ ok then
      c.setPort r.val 2 speed.val width.val (b2n flit) (if c.on (R.HIO_SLOT_CFG_CXL_EN sl) then device.val else 0)
    else c))

/-- The snoop filter of a slot's CXL window loses its entries (R414). -/
def Chip.dropCxlLines (c : Chip) (sl : Nat) : Chip :=
  (c.onMems (fun x => { x with snoop := x.snoop.filter (fun e => !(rangeOf e.line == .cxl && slotOf e.line == sl)) })).snoopCounts

/-- DPC contains a sub-port whose link was up (R408, R414). -/
def Chip.surpriseDown (c : Chip) (r : Nat) : Chip :=
  if c.rd (R.HIO_PORT_STATUS_STATE r) = 2 then
    let u := Unit.subPort r
    let t := if c.on (R.HIO_PORT_TENANT_EN r) then some (c.rd (R.HIO_PORT_TENANT_TENANT r)) else none
    let c := if c.rd (R.HIO_PORT_STATUS_KIND r) = 1 then c.dropCxlLines (r / 4) else c
    ((c.setPort r 3 0 0 0 0).count (R.HIO_PORT_STATUS_DOWNS r)).event Ev.linkDown t u [] |>.event Ev.dpc t u []
  else c

/-- SURPRISE_DOWN (R408, R414). -/
def execSurpriseDown (r : Fin 16) (s : State) : Result := .next (s.onChip (fun c => c.surpriseDown r.val))

/-! Slot settings and board clocks (R411 to R413). -/

/-- DEPTH and RATE of an output as they act. -/
def clkDepth (v : Nat) : Nat := min 10 (fget v 7 4)
def clkRate (v : Nat) : Nat := min 6 (fget v 2 0)

/-- Whether an output carries spread: it runs, and its setting or its present modulation has a depth. -/
def Chip.clkSpread (c : Chip) (o : Nat) : Bool :=
  c.on (R.HIO_CLKOUT_EN o) && (c.rd (R.HIO_CLKOUT_DEPTH o) != 0 || ((getKey o c.hio.modulation).getD (0, 0)).1 != 0)

/-- Whether an output feeds an enabled slot on a common clock (R413). -/
def Chip.feedsCommon (c : Chip) (o : Nat) : Bool :=
  (List.range 4).any (fun s => c.on (R.HIO_SLOT_CFG_EN s) && !c.on (R.HIO_SLOT_CFG_CLK_MODE s) && c.rd (R.HIO_SLOT_CFG_CLKSRC s) == o)

/-- A refused clock write (R413). -/
def Chip.clkReject (c : Chip) (which : Nat) : Chip := (c.wr R.HIO_STATUS_CLK_REJECT 1).event Ev.clockRefused none 0 [which]

/-- HIO.CLKOUT_c (R412, R413). An output that was not running takes its setting at once. -/
def Chip.clkoutHook (c : Chip) (o v : Nat) : WriteHook :=
  let was := c.on (R.HIO_CLKOUT_EN o)
  ⟨!(decide (clkDepth v ≠ 0) && c.feedsCommon o), fun c => c.clkReject o,
   fun c =>
    if bitOf v 31 = false then c.onPins (fun p => { p with clockOn := delKey o p.clockOn })
    else if was then c
    else (c.onHio (fun x => { x with modulation := putKey o (clkDepth v, clkRate v) x.modulation })).onPins (fun p => { p with clockOn := putKey o c.now p.clockOn })⟩

/-- CLKOUT_WRITE (R413). -/
def execClkoutWrite (req : Requester) (o : Fin 2) (v : BitVec 32) (s : State) : Result :=
  .next (s.onChip (fun c => c.writeReg req (R.HIO_CLKOUT o.val) v.toNat (c.clkoutHook o.val v.toNat)))

/-- CLKOUT_PERIOD_END (R412). -/
def execClkoutPeriodEnd (o : Fin 2) (s : State) : Result :=
  .next (s.onChip (fun c =>
    let v := (c.word (R.HIO_CLKOUT o.val)).toNat
    c.onHio (fun x => { x with modulation := putKey o.val (clkDepth v, clkRate v) x.modulation })))

/-- The sub-ports of a slot follow its EN and BIFUR, and PERST_n falls with EN (R406, R566). -/
def Chip.slotPorts (c : Chip) (sl : Nat) (was : Bool) : Chip :=
  let on := c.on (R.HIO_SLOT_CFG_EN sl)
  if on == was then c
  else
    let c := c.onPins (fun p => if on then { p with slotOn := putKey sl c.now p.slotOn } else { p with slotOn := delKey sl p.slotOn, released := p.released.filter (fun r => r / 4 != sl) })
    c.each (List.range 4) (fun c b => c.setPort (4 * sl + b) (if on then (if b < c.slotWays sl then 1 else 4) else 0) 0 0 0 0)

/-- HIO.SLOT_CFG_s (R406, R413). -/
def Chip.slotHook (c : Chip) (sl v : Nat) : WriteHook :=
  let was := c.on (R.HIO_SLOT_CFG_EN sl)
  let src := fget v 19 18
  ⟨!(!was && bitOf v 31 && !bitOf v 25 && decide (src < 2) && c.clkSpread src), fun c => c.clkReject (2 + sl), fun c => c.slotPorts sl was⟩

/-- SLOT_CFG_WRITE (R406, R413). -/
def execSlotCfgWrite (req : Requester) (sl : Fin 4) (v : BitVec 32) (s : State) : Result :=
  .next (s.onChip (fun c => c.writeReg req (R.HIO_SLOT_CFG sl.val) v.toNat (c.slotHook sl.val v.toNat)))

/-- HIO.PORT_TENANT_r: a change ends the stop that a frog put on the sub-port's DMA (R414). -/
def Chip.portTenantHook (c : Chip) (r : Nat) : WriteHook :=
  let old := c.word (R.HIO_PORT_TENANT r)
  .does (fun c => if c.word (R.HIO_PORT_TENANT r) = old then c else c.onHio (fun x => { x with dmaStopped := x.dmaStopped.filter (fun y => y != r) }))

/-- A frog of a tenant stops the DMA of its sub-ports (R414). -/
def Chip.frogDma (c : Chip) (t : Nat) : Chip :=
  let hit := (List.range 16).filter (fun r => c.on (R.HIO_PORT_TENANT_EN r) && c.rd (R.HIO_PORT_TENANT_TENANT r) == t)
  c.onHio (fun x => { x with dmaStopped := (x.dmaStopped ++ hit).eraseDups })

end Sys2Proof.Machine
end

