-- ==== Sys2Proof/Machine/View.lean ====
section
/-! DEFINITION. Accesses that the package itself makes in a tenant's view: packets, status records, fault rings, notices, descriptors and their
operands. Each is checked as an access of the tenant and is coherent with the processor dies (R389 to R395, R415). -/

namespace Sys2Proof.Machine

/-- The 64-byte lines of an address range, each with its part: offset of its first byte in the range, bytes. -/
def viewLines (a n : Nat) : List (Nat × Nat) :=
  (List.range ((a % 64 + n + 63) / 64)).map (fun i =>
    let lo := max a (lineOf a + 64 * i)
    (lo, min (a + n) (lineOf a + 64 * (i + 1)) - lo))

/-- The places of a range of a tenant's view, line by line. -/
def Chip.viewPlaces (c : Chip) (t a n : Nat) : List (Option Nat × Nat) :=
  (viewLines a n).map (fun x => ((c.resolve t (lineOf x.1)).map (fun p => p + x.1 % 64), x.2))

/-- The status of an access to a range of a tenant's view: WINDOW where a line is not the tenant's, MEM_ERR where one cannot be used, else OK. -/
def Chip.viewStatus (c : Chip) (t a n : Nat) : Nat :=
  let ps := c.viewPlaces t a n
  if ps.any (fun p => p.1.isNone) then stWINDOW
  else if ps.any (fun p => match p.1 with
      | some a => (match rangeOf a with
        | .cxl => c.deviceStatus a != stOK
        | .mmio => c.deviceStatus a != stOK
        | _ => !c.placeGood a)
      | none => true) then stMEM_ERR
  else stOK

/-- The bytes of a range of a tenant's view. -/
def State.viewBytes (s : State) (t a n : Nat) : List Nat :=
  (s.chip.viewPlaces t a n).flatMap (fun p => match p.1 with
    | some a => memRead s.mem a p.2
    | none => List.replicate p.2 0)

/-- Bytes written to a range of a tenant's view. -/
def State.viewWrite (s : State) (t a : Nat) (bytes : List Nat) : State :=
  let go := (s.chip.viewPlaces t a bytes.length).foldl (fun (acc : List Host.Cell × List Nat) p =>
    (match p.1 with
      | some a => memWrite acc.1 a (acc.2.take p.2)
      | none => acc.1, acc.2.drop p.2)) (s.mem, bytes)
  { s with mem := go.1 }

/-- What an access to a range of a tenant's view has to wait for (R390, R395). -/
def Chip.viewObstacle (c : Chip) (t a n : Nat) (write : Bool) : Option (Nat × List Nat × Option Nat) :=
  c.obstacle ((c.viewPlaces t a n).filterMap (·.1)) write none

/-- A line is wanted by the package itself: its recalls are asked for once. -/
def Chip.probe (c : Chip) (o : Nat × List Nat × Option Nat) (share : Bool) : Chip :=
  if c.mems.parked.any (fun p => p.op == .probe && p.line == o.1 && p.share == share) then c
  else c.park ((ownerSite o.1).getD 0) .probe o share false

/-- An access of the package itself to a range of a tenant's view: made at once, or its recalls are asked for and it is left for later. -/
def State.whenClear (s : State) (t a n : Nat) (write : Bool) (k : State → State) : State :=
  match s.chip.viewObstacle t a n write with
  | some o => { s with chip := s.chip.probe o (!write) }
  | none => k s

end Sys2Proof.Machine
end

