-- ==== Sys2Proof/Machine/Commands.lean ====
section
/-! DEFINITION. Command queues: packets, checks, completion, and the allocation commands (R249, R279, R290, R415 to R430). -/

namespace Sys2Proof.Machine

/-! Command status codes (R423). -/
def csINVALID : Nat := 0x80
def csNO_RESOURCE : Nat := 0x81
def csBUSY : Nat := 0x82
def csINTERRUPTED : Nat := 0x83
def csVERSION : Nat := 0x84
def csBAD_OPCODE : Nat := 0x85
def csPARTITION : Nat := 0x86
def csROLE : Nat := 0x87
def csNOT_READY : Nat := 0x88
def csIMAGE : Nat := 0x89
def csROLLBACK : Nat := 0x8A
def csTHREAD_FAULT : Nat := 0x8B
def csCORE_FAULT : Nat := 0x8C
def csFROGGED : Nat := 0x8D
def csFETCH : Nat := 0x8E

/-! Queues (R415 to R417). -/

/-- The tenant in whose view a queue's rings lie. -/
def srcTenant : CmdSrc → Nat
  | .queue t _ => t.val
  | _ => 0

/-- Whether a queue is enabled and not stopped; its ring size, its two rings, its counts. -/
def Chip.qOn (c : Chip) : CmdSrc → Bool
  | .queue t q => c.on (R.PCU_CQ_CFG_EN t.val q.val) && !c.on (R.PCU_CQ_CFG_STOPPED t.val q.val)
  | .admin => c.on R.PCU_ADMQ_CFG_EN && !c.on R.PCU_ADMQ_CFG_STOPPED
  | .fm _ => false
def Chip.qSize (c : Chip) : CmdSrc → Nat
  | .queue t q => 2 ^ c.rd (R.PCU_CQ_CFG_SIZE_LOG2 t.val q.val)
  | .admin => 2 ^ max 4 (min 12 (c.rd R.PCU_ADMQ_CFG_SIZE_LOG2))
  | .fm _ => 1
def Chip.qBase (c : Chip) : CmdSrc → Nat
  | .queue t q => c.rdPair (R.PCU_CQ_BASE_LO_ADDR t.val q.val) (R.PCU_CQ_BASE_HI_ADDR t.val q.val) / 64 * 64
  | .admin => c.rdPair R.PCU_ADMQ_BASE_LO_ADDR R.PCU_ADMQ_BASE_HI_ADDR / 64 * 64
  | .fm _ => 0
def Chip.qStat (c : Chip) : CmdSrc → Nat
  | .queue t q => c.rdPair (R.PCU_CQ_STAT_LO_ADDR t.val q.val) (R.PCU_CQ_STAT_HI_ADDR t.val q.val) / 64 * 64
  | .admin => c.rdPair R.PCU_ADMQ_STAT_LO_ADDR R.PCU_ADMQ_STAT_HI_ADDR / 64 * 64
  | .fm _ => 0
def Chip.qTail (c : Chip) : CmdSrc → Nat
  | .queue t q => c.rd (R.PCU_CQ_TAIL_INDEX t.val q.val)
  | .admin => c.rd R.PCU_ADMQ_TAIL_INDEX
  | .fm _ => 0
def headRef : CmdSrc → FRef
  | .queue t q => R.PCU_CQ_HEAD_INDEX t.val q.val
  | _ => R.PCU_ADMQ_HEAD_INDEX
def stoppedRef : CmdSrc → FRef
  | .queue t q => R.PCU_CQ_CFG_STOPPED t.val q.val
  | _ => R.PCU_ADMQ_CFG_STOPPED

/-- The commands of a queue that are fetched and not completed, oldest first. -/
def Chip.cmdsOf (c : Chip) (src : CmdSrc) : List Cmd := c.cmd.cmds.filter (fun x => x.src == src)

/-- Whether a queue is a management queue (R416). -/
def Chip.isMgmt (c : Chip) : CmdSrc → Bool
  | .queue t q => c.on (R.PCU_CQ_CFG_KIND t.val q.val)
  | _ => true

/-- A fetched command takes a new form, or goes. -/
def Chip.setCmd (c : Chip) (x x' : Cmd) : Chip := c.onCmd (fun y => { y with cmds := updFirst (fun z => z == x) (fun _ => x') y.cmds })
def Chip.dropCmd (c : Chip) (x : Cmd) : Chip := c.onCmd (fun y => { y with cmds := dropFirst (fun z => z == x) y.cmds })

/-! The packet (R419). -/

def Cmd.opcode (x : Cmd) : Nat := leField x.pkt 0 1
def Cmd.partition (x : Cmd) : Nat := leField x.pkt 1 1 % 16
def Cmd.syncEn (x : Cmd) : Bool := bitOf (leField x.pkt 1 1) 4
def Cmd.order (x : Cmd) : Bool := bitOf (leField x.pkt 1 1) 5
def Cmd.seq (x : Cmd) : Nat := leField x.pkt 2 2
def Cmd.sync (x : Cmd) : Nat := leField x.pkt 4 2
def Cmd.major (x : Cmd) : Nat := leField x.pkt 7 1

/-- Parameter bytes of a packet, `n` of them from byte `at_`. -/
def Cmd.par (x : Cmd) (at_ n : Nat) : Nat := leField x.pkt at_ n

/-- Compute and management opcodes (R425). -/
def isComputeOp (o : Nat) : Bool := decide (o ≤ 4)
def isMgmtOp (o : Nat) : Bool :=
  o == 0 || (decide (0x40 ≤ o) && decide (o ≤ 0x44)) || (decide (0x48 ≤ o) && decide (o ≤ 0x4E)) || (decide (0x50 ≤ o) && decide (o ≤ 0x56)) || o == 0x58 || o == 0x59
    || (decide (0x60 ≤ o) && decide (o ≤ 0x62)) || o == 0x68 || o == 0x69 || o == 0x70 || o == 0x78 || o == 0x79 || (decide (0x7C ≤ o) && decide (o ≤ 0x81))

/-- The lowest role of an opcode (R425, R434). SEC_KEY_SET checks its own (R436). -/
def opRole (o : Nat) : Role :=
  if o = 0x59 ∨ o = 0x78 ∨ (0x7C ≤ o ∧ o ≤ 0x81) then .installer else .operator

/-- The role with which a command runs (R433). -/
def Chip.cmdRole (c : Chip) : CmdSrc → Role
  | .queue _ _ => .operator
  | .admin => c.roleBound 2 0
  | .fm n => c.roleBound 3 n.val

/-- The session of a command's sender as a record holds it: its number plus one, or zero (R433, R437). -/
def Chip.cmdSession (c : Chip) : CmdSrc → Nat
  | .queue _ _ => 0
  | .admin => ((c.sessionFor 2 0).map (· + 1)).getD 0
  | .fm n => ((c.sessionFor 3 n.val).map (· + 1)).getD 0

/-- Opcodes that the admin queue accepts before PKG_READY (R444), and those that run whatever IF_MAJOR says (R428). -/
def earlyOp (o : Nat) : Bool := [0x40, 0x41, 0x42, 0x43, 0x44, 0x7C, 0x7D, 0x78, 0x79].contains o
def anyMajor (o : Nat) : Bool := [0x40, 0x7C, 0x7D, 0x7E].contains o

/-- PKG_READY: cast-on has reached its last step (R444). -/
def Chip.ready (c : Chip) : Bool := c.rd R.PCU_CASTON_STEP == 12

/-- The checks that a command meets as it starts; OK where it may run (R420, R425, R428, R434, R444, R446). -/
def Chip.precheck (c : Chip) (x : Cmd) : Nat :=
  let o := x.opcode
  let mgmt := c.isMgmt x.src
  let foreign : Bool := match x.src with
    | .queue t _ => x.partition != t.val
    | _ => false
  if (if mgmt then !isMgmtOp o else !isComputeOp o) then csBAD_OPCODE
  else if x.major ≠ c.rd R.PCU_IF_VERSION_MAJOR ∧ anyMajor o = false then csVERSION
  else if foreign ∨ (c.tenantOn x.partition = false ∧ ¬ (0x50 ≤ o ∧ o ≤ 0x5F)) then csPARTITION
  else if (c.cmdRole x.src).rank < (opRole o).rank then csROLE
  else if mgmt ∧ c.ready = false ∧ earlyOp o = false then csNOT_READY
  else if x.syncEn ∧ c.syncCountable x.sync x.partition = false then stSYNC
  else if 1 ≤ o ∧ o ≤ 4 ∧ c.rd (R.PART_STATE_STATE x.partition) ≠ 2 then csBUSY
  else if c.cmd.binding.isSome ∧ ((0x50 ≤ o ∧ o ≤ 0x5F) ∨ o = 1) then csBUSY
  else stOK

/-- Whether a fetched command may start now (R421, R426): not started; with ORDER every earlier command of its queue has completed, else each has started; a PCU
holds the token for a management command, works on one command of a queue at a time and on at most eight in all; a WAIT holds the later commands of its queue, a fenced queue
processor serves none (R330), and no LAUNCH is admitted while a brake of cast-on waits for the minimum state (R513). -/
def Chip.startable (c : Chip) (x : Cmd) : Bool :=
  let before := (c.cmdsOf x.src).takeWhile (fun y => y != x)
  let mgmt := c.isMgmt x.src
  !x.started && x.result.isNone && !(x.opcode == 1 && c.pwr.holdLaunch)
    && (if x.order then before.isEmpty else before.all (fun y => y.started || y.result.isSome))
    && (if mgmt then c.tokenHeld && before.all (fun y => y.result.isSome)
          && decide ((c.cmd.cmds.filter (fun y => c.isMgmt y.src && y.started && y.result.isNone)).length < 8)
        else before.all (fun y => y.result.isSome || y.opcode != 3)
          && (match x.src with
            | .queue t q => c.rd (R.CMP_QP_STATUS_STATE (c.rd (R.PCU_CQ_CFG_DIE t.val q.val)) (c.rd (R.PCU_CQ_CFG_QP t.val q.val))) != 4
            | _ => true))

/-- A queue processor decodes a command of a compute queue (R330): CMP.QP_STATUS names the queue, CMP.QP_COUNT counts it. A command that is tried again is not counted again. -/
def Chip.qpDecode (c : Chip) (x : Cmd) : Chip :=
  match x.src with
  | .queue t q =>
    if c.isMgmt x.src ∨ x.aux ≠ [] then c
    else
      let d := c.rd (R.PCU_CQ_CFG_DIE t.val q.val)
      let n := c.rd (R.PCU_CQ_CFG_QP t.val q.val)
      ((c.wr (R.CMP_QP_STATUS_QUEUE d n) q.val).wr (R.CMP_QP_STATUS_TENANT d n) t.val).count (R.CMP_QP_COUNT_COMMANDS d n)
  | _ => c

/-- A command has ended with a status and results; it completes by COMMAND_COMPLETE. -/
def Chip.endCmd (c : Chip) (x : Cmd) (status r0 r1 : Nat) : Chip :=
  c.onCmd (fun y => { y with cmds := updFirst (fun z => z.src == x.src && z.idx == x.idx) (fun z => { z with started := true, result := some (status, r0, r1) }) y.cmds })

/-- A command of an opcode starts: a failed check ends it with its status and no other effect; else it is carried out. -/
def State.begin (s : State) (src : CmdSrc) (idx opcode : Nat) (k : State → Cmd → State) : State :=
  match s.chip.cmd.cmds.find? (fun x => x.src == src && x.idx == idx) with
  | none => s
  | some x =>
    if x.opcode = opcode ∧ s.chip.startable x then
      let status := s.chip.precheck x
      let s := s.onChip (fun c => c.qpDecode x)
      if status ≠ stOK then { s with chip := s.chip.endCmd x status 0 0 }
      else k { s with chip := s.chip.setCmd x { x with started := true } } { x with started := true }
    else s

/-- A command that is carried out at once within the package, with its status and results. -/
def State.atOnce (s : State) (src : CmdSrc) (idx opcode : Nat) (k : Chip → Cmd → Chip × Nat × Nat × Nat) : State :=
  s.begin src idx opcode (fun s x =>
    let r := k s.chip x
    { s with chip := r.1.endCmd x r.2.1 r.2.2.1 r.2.2.2 })

/-- A failure to allocate identifier `k` is counted and recorded (R249). -/
def Chip.noResource (c : Chip) (k tenant : Nat) : Chip := (c.count (R.ROUTE_NO_RES_COUNT k)).event Ev.noResource (some tenant) 0 [k]

/-! Completion (R421, R422). -/

/-- The status record of a command (R422). -/
def Chip.statusRecord (c : Chip) (src : CmdSrc) (idx seq status r0 r1 : Nat) : List Nat :=
  let phase := match src with
    | .fm _ => Config.fmReplyPhase % 2
    | _ => (idx / c.qSize src + 1) % 2
  leBytes 2 seq ++ [status, phase] ++ leBytes 4 r0 ++ leBytes 4 r1 ++ leBytes 4 (c.now % 2 ^ 32)

/-- The view address of the status record of packet `idx`. -/
def Chip.statAddr (c : Chip) (src : CmdSrc) (idx : Nat) : Nat := c.qStat src + 16 * (idx % c.qSize src)

/-- A status record is written to its queue's status ring; one that its tenant's window refuses is lost. -/
def State.writeStatus (s : State) (src : CmdSrc) (idx : Nat) (record : List Nat) : State :=
  if s.chip.viewStatus (srcTenant src) (s.chip.statAddr src idx) 16 = stOK then s.viewWrite (srcTenant src) (s.chip.statAddr src idx) record else s

/-- A command completes: status record or FM_REPLY, count, completion count (R421, R429). -/
def State.completeCmd (s : State) (x : Cmd) (status r0 r1 : Nat) : State :=
  let rec_ := s.chip.statusRecord x.src x.idx x.seq status r0 r1
  let fin := fun (s : State) =>
    let c := if x.syncEn ∧ s.chip.syncCountable x.sync x.partition then s.chip.landing x.sync 1 status else s.chip
    let c := match x.src with
      | .queue t q => c.wr (R.PCU_CQ_CFG_DONE t.val q.val) (c.rd (R.PCU_CQ_CFG_DONE t.val q.val) + 1)
      | _ => c
    { s with chip := c.onCmd (fun y => { y with cmds := dropFirst (fun z => z.src == x.src && z.idx == x.idx) y.cmds }) }
  match x.src with
  | .fm n => fin { s with chip := s.chip.send 31 (s.chip.ctrlStitch n.val 8 (rec_ ++ leBytes 2 s.chip.node)) }
  | _ => s.whenClear (srcTenant x.src) (s.chip.statAddr x.src x.idx) 16 true (fun s => fin (s.writeStatus x.src x.idx rec_))

/-- Whether the FM_CMD that a command sent is still within the package (R430). -/
def Chip.fmHeld (c : Chip) (x : Cmd) : Bool :=
  let hit := fun (st : Stitch) => st.opcode == opCTRL && fget st.opspec 17 10 == 7 && st.data == x.aux && st.srcNode == c.node && st.dstNode != c.node
  c.xport.waiting.any (fun y => hit y.2) || c.edge.pools.any (fun y => hit y.st) || c.edge.detour.any (fun y => hit y.st)
    || c.edge.portQ.any (fun y => hit y.2.st) || c.edge.relay.any (fun y => hit y.2.2.st)

/-- Whether a context still holds partials, slots, answer records or landings (R279). -/
def Chip.ctxBusy (c : Chip) (n : Nat) : Bool :=
  c.ctxPending n != 0 || c.red.relays.any (fun r => r.ctx == n)
    || c.mems.parked.any (fun p => match p.op with
      | .landing _ _ q => q.ctx == n
      | .slot _ _ d => d.ctx == n
      | _ => false)

/-- The status and results of a started command that waited for something, once that has come. -/
def Chip.lateResult (c : Chip) (x : Cmd) : Option (Nat × Nat × Nat) :=
  if x.started = false then none
  else if x.opcode = 3 then
    (match x.src with
      | .queue t q => (getKey (t.val, q.val) c.sync.answered).map (fun a => (stOK, a.1, a.2 % 2 ^ 32))
      | _ => none)
  else if x.opcode = 0x49 then (if c.ctxBusy (x.par 8 2) then none else some (stOK, 0, 0))
  else if x.opcode = 0x70 then (if c.fmHeld x then none else some (stOK, 0, 0))
  else if x.opcode = 0x7C then (if x.aux.isEmpty then none else some (stOK, x.par 12 4, 0))
  else none

/-- COMMAND_COMPLETE (R421): a command that has ended, or what it waited for has come, or that no opcode of R425 names. -/
def execCommandComplete (src : CmdSrc) (idx : BitVec 16) (s : State) : Result :=
  .next (
    match s.chip.cmd.cmds.find? (fun x => x.src == src && x.idx == idx.toNat) with
    | none => s
    | some x =>
      match x.result, s.chip.lateResult x with
      | some (a, b, d), _ => s.completeCmd x a b d
      | none, some (a, b, d) =>
        let s := s.onChip (fun c => match x.src with
          | .queue t q => if x.opcode = 3 then c.onSync (fun y => { y with answered := delKey (t.val, q.val) y.answered }) else c
          | _ => c)
        s.completeCmd x a b d
      | none, none =>
        if s.chip.startable x ∧ (if s.chip.isMgmt x.src then isMgmtOp x.opcode else isComputeOp x.opcode) = false then s.completeCmd x csBAD_OPCODE 0 0 else s)

/-! Queue commands. -/

/-- The offset of a queue's TAIL register. -/
def tailReg : CmdSrc → Nat
  | .queue t q => R.PCU_CQ_TAIL t.val q.val
  | _ => R.PCU_ADMQ_TAIL

/-- Whether a requester may write a queue's TAIL: a hart whose mtenant names the queue's tenant or has EN 0 (R417). -/
def Chip.mayTail (c : Chip) (req : Requester) (src : CmdSrc) : Bool :=
  match req with
  | .hart d k => !c.on (R.CPU_CORE_STATE_TENANT_EN d.val k.val) || c.rd (R.CPU_CORE_STATE_TENANT d.val k.val) == srcTenant src
  | _ => false

/-- A write of TAIL: ignored and counted where it would exceed the ring, comes from another requester, or names a queue that does not exist (R417). -/
def Chip.tailHook (c : Chip) (req : Requester) (src : CmdSrc) (v : Nat) : WriteHook :=
  let exists_ := match src with
    | .queue t q => c.on (R.PCU_CQ_CFG_EN t.val q.val)
    | _ => true
  ⟨exists_ && c.mayTail req src && decide (subMod 16 v (c.rd (headRef src)) ≤ c.qSize src), fun c => c.count R.PCU_CQ_REJECT_COUNT, id⟩

/-- QUEUE_TAIL_WRITE (R417). -/
def execQueueTailWrite (req : Requester) (src : CmdSrc) (v : BitVec 32) (s : State) : Result :=
  .next (match src with
    | .fm _ => s
    | _ => s.onChip (fun c => c.writeReg req (tailReg src) v.toNat (c.tailHook req src v.toNat)))

/-- PACKET_FETCH (R417, R424): the next packet of a queue, while room allows; a fetch that fails stops the queue with a FETCH record. -/
def execPacketFetch (src : CmdSrc) (s : State) : Result :=
  .next (
    let c := s.chip
    let h := c.rd (headRef src)
    let t := srcTenant src
    let a := c.qBase src + 64 * (h % c.qSize src)
    if c.qOn src ∧ h ≠ c.qTail src ∧ (c.cmdsOf src).length < c.qSize src ∧ (c.isMgmt src = false ∨ c.tokenHeld) then
      let status := c.viewStatus t a 64
      if status ≠ stOK then
        s.whenClear t (c.statAddr src h) 16 true (fun s =>
          let s := s.writeStatus src h (s.chip.statusRecord src h 0 csFETCH status 0)
          s.onChip (fun c => c.wr (stoppedRef src) 1))
      else s.whenClear t a 64 false (fun s =>
        let pkt := s.viewBytes t a 64
        s.onChip (fun c => (c.wr (headRef src) (h + 1)).onCmd (fun y => { y with cmds := y.cmds ++ [({ src := src, idx := h, pkt := pkt } : Cmd)] })))
    else s)

/-- CMD_NOP (R425). -/
def execCmdNop (src : CmdSrc) (idx : BitVec 16) (s : State) : Result :=
  .next (s.atOnce src idx.toNat 0x00 (fun c _ => (c, stOK, 0, 0)))

/-- GET_VERSION (R428). -/
def execGetVersion (src : CmdSrc) (idx : BitVec 16) (s : State) : Result :=
  .next (s.atOnce src idx.toNat 0x40 (fun c _ => (c, stOK, (c.word R.PCU_IF_VERSION).toNat, (c.word R.PCU_FW_VERSION).toNat)))

/-- The command queues of a tenant that do not exist, in rising order. -/
def Chip.freeQueues (c : Chip) (t : Nat) : List Nat := (List.range 64).filter (fun q => !c.on (R.PCU_CQ_CFG_EN t q))

/-- Whether a ring of `n` bytes at a view address lies in the tenant's HBM view or its stacked SRAM pages (R415). -/
def Chip.ringOk (c : Chip) (t a n : Nat) : Bool :=
  a % 64 == 0 && decide (a < 2 ^ 46) && (rangeOf a == .hbm || rangeOf a == .sram) && c.viewStatus t a n != stWINDOW

/-- Whether a tenant owns a cluster of compute die `d` (R453). -/
def Chip.ownsClusterOf (c : Chip) (t d : Nat) : Bool := (List.range 8).any (fun cl => c.coreTenant d (17 * cl) == some t)

/-- CQ_CREATE (R416, R453). -/
def execCqCreate (src : CmdSrc) (idx : BitVec 16) (s : State) : Result :=
  .next (s.atOnce src idx.toNat 0x41 (fun c x =>
    let t := x.partition
    let q := x.par 8 1
    let kind := x.par 9 1
    let lg := x.par 10 1
    let die := x.par 11 1
    let qp := x.par 12 1
    let base := x.par 16 8
    let stat := x.par 24 8
    let free := c.freeQueues t
    if (64 ≤ q ∧ q ≠ 0xFF) ∨ 1 < kind ∨ lg < 4 ∨ 12 < lg ∨ 7 < die ∨ 3 < qp ∨ (kind = 0 ∧ c.ownsClusterOf t die = false) ∨ c.ringOk t base (64 * 2 ^ lg) = false ∨ c.ringOk t stat (16 * 2 ^ lg) = false then
      (c, csINVALID, 0, 0)
    else match free with
    | [] => (c.noResource 7 t, csNO_RESOURCE, 0, 0)
    | f :: _ =>
      let n := if q = 0xFF then f else q
      if free.contains n then
        let w := fset (fset (fset (fset (fset 0 31 31 1) 29 29 kind) 24 22 die) 21 20 qp) 19 16 lg
        let c := c.setWord (R.PCU_CQ_CFG t n) (BitVec.ofNat 32 w)
        let c := (c.wrPair (R.PCU_CQ_BASE_LO_ADDR t n) (R.PCU_CQ_BASE_HI_ADDR t n) base).wrPair (R.PCU_CQ_STAT_LO_ADDR t n) (R.PCU_CQ_STAT_HI_ADDR t n) stat
        ((c.wr (R.PCU_CQ_TAIL_INDEX t n) 0).wr (R.PCU_CQ_HEAD_INDEX t n) 0, stOK, n, 0)
      else (c, csBUSY, 0, 0)))

/-- A command queue exists no longer. -/
def Chip.dropQueue (c : Chip) (t q : Nat) : Chip :=
  c.each [R.PCU_CQ_CFG t q, R.PCU_CQ_BASE_LO t q, R.PCU_CQ_BASE_HI t q, R.PCU_CQ_STAT_LO t q, R.PCU_CQ_STAT_HI t q, R.PCU_CQ_TAIL t q, R.PCU_CQ_HEAD t q]
    (fun c o => c.setWord o 0)

/-- CQ_DESTROY (R416, R449). -/
def execCqDestroy (src : CmdSrc) (idx : BitVec 16) (s : State) : Result :=
  .next (s.atOnce src idx.toNat 0x42 (fun c x =>
    let t := x.partition
    let q := x.par 8 1
    if 64 ≤ q ∨ c.on (R.PCU_CQ_CFG_EN t q) = false then (c, csINVALID, 0, 0)
    else if c.cmd.cmds.any (fun y => !(y.src == x.src && y.idx == x.idx) && (match y.src with
        | .queue t' q' => t'.val == t && q'.val == q
        | _ => false)) then (c, csBUSY, 0, 0)
    else (c.dropQueue t q, stOK, 0, 0)))

/-! Sync objects (R290). -/

/-- SYNC_ALLOC (R290). -/
def execSyncAlloc (src : CmdSrc) (idx : BitVec 16) (s : State) : Result :=
  .next (s.atOnce src idx.toNat 0x43 (fun c x =>
    let kind := x.par 8 1
    let n := x.par 10 2
    let p := x.par 16 8
    let t := x.partition
    if kind = 0 ∨ 4 < kind ∨ n = 0 ∨ 4096 < n ∨ (kind = 2 ∧ 2 ^ 48 ≤ p) ∨ (kind = 3 ∧ 2 ^ 32 ≤ p) ∨ ((kind = 1 ∨ kind = 4) ∧ p ≠ 0) then (c, csINVALID, 0, 0)
    else match c.freeRun n with
    | none => (c.noResource 6 t, csNO_RESOURCE, 0, 0)
    | some a => ((c.onSync (fun y => { y with objs := y.objs ++ (List.range n).map (fun i => (a + i, freshObj kind t p)) })).syncCounts, stOK, a, 0)))

/-- SYNC_FREE (R290). Unassigned objects of the range are no obstacle. -/
def execSyncFree (src : CmdSrc) (idx : BitVec 16) (s : State) : Result :=
  .next (s.atOnce src idx.toNat 0x44 (fun c x =>
    let a := x.par 8 2
    let n := x.par 10 2
    if 65536 < a + n then (c, csINVALID, 0, 0)
    else if (List.range n).all (fun i => c.objFreeable x.partition (a + i)) = false then (c, csBUSY, 0, 0)
    else ((c.onSync (fun y => { y with objs := y.objs.filter (fun o => !(decide (a ≤ o.1) && decide (o.1 < a + n))) })).syncCounts, stOK, 0, 0)))

/-! Waits and signals of compute queues (R426). -/

/-- Command WAIT (R286, R426): the answer comes when the condition holds or the limit is reached. -/
def execWait (src : CmdSrc) (idx : BitVec 16) (s : State) : Result :=
  .next (s.begin src idx.toNat 0x03 (fun s x =>
    s.onChip (fun c =>
      match src, c.obj (x.par 8 2) with
      | .queue t q, some o =>
        if o.tenant = x.partition then c.wait (x.par 8 2) (.queue t.val q.val) (x.par 10 1) (x.par 16 6) (x.par 24 4 % 2 ^ 20) else c.endCmd x stSYNC 0 0
      | _, _ => c.endCmd x stSYNC 0 0)))

/-- Function ADD, SET or ARRIVE on an object: the result code and the object after (R285). -/
def signalObj (o : SyncObj) (fn v : Nat) : Nat × SyncObj :=
  let counts := decide (o.kind = 1 ∨ o.kind = 2)
  if fn = 1 then (if counts then (srDONE, SyncObj.reeval { o with count := (o.count + v) % 2 ^ 48 }) else (srWRONG_KIND, o))
  else if fn = 2 then (if counts then (srDONE, SyncObj.reeval { o with count := v % 2 ^ 48, error := 0, done := false }) else (srWRONG_KIND, o))
  else if o.kind = 3 then
    (if o.count + 1 = max 1 o.parties then (srDONE, { o with count := 0, generation := (o.generation + 1) % 65536 }) else (srDONE, { o with count := o.count + 1 }))
  else (srWRONG_KIND, o)

/-- Command SIGNAL (R285, R426). -/
def execSignal (src : CmdSrc) (idx : BitVec 16) (s : State) : Result :=
  .next (s.atOnce src idx.toNat 0x04 (fun c x =>
    let fn := x.par 10 1
    if fn ≠ 1 ∧ fn ≠ 2 ∧ fn ≠ 8 then (c, csINVALID, 0, 0)
    else match c.obj (x.par 8 2) with
    | some o =>
      if o.tenant = x.partition then
        let r := signalObj o fn (x.par 16 6)
        (if r.2 = o then c else c.setObj (x.par 8 2) r.2, stOK, r.1, r.2.count % 2 ^ 32)
      else (c, stSYNC, 0, 0)
    | none => (c, stSYNC, 0, 0)))

/-! Reduction contexts and multicast groups (R274, R275, R279). -/

/-- A failure of an allocation of chapter 10 is recorded with its context or group as well. -/
def Chip.allocFailed (c : Chip) (k n tenant : Nat) : Chip := (c.noResource k tenant).event Ev.allocNoResource (some tenant) 0 [k, n]

/-- RED_CTX_ALLOC (R264, R271, R279). -/
def execRedCtxAlloc (src : CmdSrc) (idx : BitVec 16) (s : State) : Result :=
  .next (s.atOnce src idx.toNat 0x48 (fun c x =>
    let n := x.par 8 2
    let a := x.par 12 4
    let b := x.par 16 4
    let r := x.par 20 4
    let det := bitOf a 30
    let k := fget b 9 0 + 1
    let resEdge := fget r 31 16
    let resMem := fget r 15 0 * (if det then k else 1)
    let free := (List.range 1024).find? (fun i => if n = 0xFFFF then !c.on (R.RED_CTX_A_EN i) else i == n && !c.on (R.RED_CTX_A_EN i))
    if (1024 ≤ n ∧ n ≠ 0xFFFF) ∨ redAllowed (fget a 25 22) (fget a 21 18) = false ∨ (det = true ∧ (k < 2 ∨ resEdge ≠ 0)) then (c, csINVALID, 0, 0)
    else match free with
    | none => (c.allocFailed 1 n x.partition, csNO_RESOURCE, 0, 0)
    | some i =>
      if c.reserveFits resEdge resMem = false then (c.allocFailed 2 i x.partition, csNO_RESOURCE, 0, 0)
      else
        let a' := fset (fset (fset (fset a 31 31 1) 29 26 x.partition) 17 16 0) 12 0 0
        let c := c.setWord (R.RED_CTX_A i) (BitVec.ofNat 32 a')
        let c := c.setWord (R.RED_CTX_B i) (BitVec.ofNat 32 (fset (fset b 11 10 0) 9 0 (if det then k - 1 else 0)))
        ((c.setWord (R.RED_CTX_C i) (BitVec.ofNat 32 r)).setWord (R.RED_CTX_D i) 0, stOK, i, 0)))

/-- Whether a context is enabled for a tenant. -/
def Chip.ctxOwned (c : Chip) (n t : Nat) : Bool := decide (n < 1024) && c.on (R.RED_CTX_A_EN n) && c.rd (R.RED_CTX_A_TENANT n) == t

/-- RED_CTX_FLUSH (R279): releases every partial, lands every slot; completes when all have been answered. -/
def execRedCtxFlush (src : CmdSrc) (idx : BitVec 16) (s : State) : Result :=
  .next (s.begin src idx.toNat 0x49 (fun s x =>
    let n := x.par 8 2
    if s.chip.ctxOwned n x.partition then
      let s := { s with chip := s.chip.setCmd x { x with committed := true } }
      let s := (List.range 12).foldl (fun s u => s.flushUnit u 0 (fun p => p.ctx == n)) s
      s.flushSlots 0 (fun d => d.ctx == n)
    else s.onChip (fun c => c.endCmd x csINVALID 0 0)))

/-- RED_CTX_FREE (R279). -/
def execRedCtxFree (src : CmdSrc) (idx : BitVec 16) (s : State) : Result :=
  .next (s.atOnce src idx.toNat 0x4A (fun c x =>
    let n := x.par 8 2
    if c.ctxOwned n x.partition = false then (c, csINVALID, 0, 0)
    else if c.ctxBusy n then (c, csBUSY, 0, 0)
    else (c.each [R.RED_CTX_A n, R.RED_CTX_B n, R.RED_CTX_C n, R.RED_CTX_D n] (fun c o => c.setWord o 0), stOK, 0, 0)))

/-- The allocation bit and owner of a group at its home (RED.MC_OWN). -/
def mcAllocRef (g : Nat) : FRef := ⟨R.RED_MC_OWN (g / 4), 8 * (g % 4) + 7, 8 * (g % 4) + 7⟩
def mcOwnerRef (g : Nat) : FRef := ⟨R.RED_MC_OWN (g / 4), 8 * (g % 4) + 3, 8 * (g % 4)⟩

/-- Whether this package is the group home (R274). -/
def Chip.isHome (c : Chip) : Bool := c.on R.RED_MC_HOME_EN && c.rd R.RED_MC_HOME_NODE == c.node

/-- MC_ALLOC (R274). -/
def execMcAlloc (src : CmdSrc) (idx : BitVec 16) (s : State) : Result :=
  .next (s.atOnce src idx.toNat 0x4B (fun c x =>
    if c.isHome = false then (c, csINVALID, 0, 0)
    else match (List.range 4096).find? (fun g => !c.on (mcAllocRef g)) with
    | some g => ((c.wr (mcAllocRef g) 1).wr (mcOwnerRef g) x.partition, stOK, g, 0)
    | none => (c.allocFailed 0 0xFFFF x.partition, csNO_RESOURCE, 0, 0)))

/-- MC_FREE (R279). -/
def execMcFree (src : CmdSrc) (idx : BitVec 16) (s : State) : Result :=
  .next (s.atOnce src idx.toNat 0x4C (fun c x =>
    let g := x.par 8 2
    if 4096 ≤ g ∨ c.isHome = false ∨ c.on (mcAllocRef g) = false ∨ c.rd (mcOwnerRef g) ≠ x.partition then (c, csINVALID, 0, 0)
    else ((c.wr (mcAllocRef g) 0).wr (mcOwnerRef g) 0, stOK, 0, 0)))

/-- Whether an entry breaks the rules of R275. -/
def Chip.mcBad (c : Chip) (a b : Nat) : Bool :=
  let root := bitOf a 30
  let parent := fget a 28 24
  let children := setBits 16 (fget a 15 0)
  let hasParent := parent != 0x1F
  let role := c.portRole
  children.any (fun j => decide (6 ≤ role j))
    || (hasParent && (decide (16 ≤ parent) || decide (6 ≤ role parent) || children.contains parent
      || children.any (fun j => decide (role j / 2 < role parent / 2) || (role j / 2 == role parent / 2 && role j == role parent))))
    || root == hasParent || !(decide (18 ≤ fget b 19 15) && decide (fget b 19 15 ≤ 21))

/-- MC_SET (R275). -/
def execMcSet (src : CmdSrc) (idx : BitVec 16) (s : State) : Result :=
  .next (s.atOnce src idx.toNat 0x4D (fun c x =>
    let g := x.par 8 2
    let a := x.par 12 4
    let b := x.par 16 4
    if 4096 ≤ g ∨ c.mcBad a b ∨ (c.on (R.RED_MC_A_EN g) ∧ c.rd (R.RED_MC_A_TENANT g) ≠ x.partition) then (c, csINVALID, 0, 0)
    else ((c.setWord (R.RED_MC_A g) (BitVec.ofNat 32 (fset (fset (fset a 31 31 1) 23 20 x.partition) 19 16 0))).setWord (R.RED_MC_B g)
      (BitVec.ofNat 32 (fset b 14 13 0)), stOK, 0, 0)))

/-- MC_CLEAR (R279): disables the entry of its tenant. -/
def execMcClear (src : CmdSrc) (idx : BitVec 16) (s : State) : Result :=
  .next (s.atOnce src idx.toNat 0x4E (fun c x =>
    let g := x.par 8 2
    if 4096 ≤ g ∨ (c.on (R.RED_MC_A_EN g) ∧ c.rd (R.RED_MC_A_TENANT g) ≠ x.partition) then (c, csINVALID, 0, 0)
    else (c.wr (R.RED_MC_A_EN g) 0, stOK, 0, 0)))

/-! The fabric manager (R429, R430). -/

/-- FM_SEND (R430): the packet at a view address goes to another node's service; complete when it has left the node. -/
def execFmSend (src : CmdSrc) (idx : BitVec 16) (s : State) : Result :=
  .next (s.begin src idx.toNat 0x70 (fun s x =>
    let a := x.par 16 8
    let node := x.par 8 2
    let status := s.chip.viewStatus x.partition a 64
    if 4096 ≤ node then s.onChip (fun c => c.endCmd x csINVALID 0 0)
    else if status ≠ stOK then s.onChip (fun c => c.endCmd x status 0 0)
    else match s.chip.viewObstacle x.partition a 64 false with
    | some o => s.onChip (fun c => (c.probe o true).setCmd x { x with started := false })
    | none =>
      let data := padTo 64 (s.viewBytes x.partition a 64)
      s.onChip (fun c => (c.setCmd x { x with aux := data, committed := true }).send 31 (c.ctrlStitch node 7 data))))

/-- An FM_CMD is accepted and runs as an admin-queue command, or is discarded, counted and recorded (R429). -/
def Chip.fmCmd (c : Chip) (st : Stitch) : Chip :=
  if c.on R.ROUTE_FM_EN ∧ st.srcNode = c.rd R.ROUTE_FM_NODE ∧ st.srcSite = 31 ∧ isMgmtOp (leField st.data 0 1) then
    c.onCmd (fun y => { y with fmNext := (y.fmNext + 1) % 65536
                               cmds := y.cmds ++ [({ src := .fm (Fin.ofNat 4096 st.srcNode), idx := y.fmNext, pkt := padTo 64 st.data } : Cmd)] })
  else (c.count R.PCU_EMU_STATUS_FM_DROP).event Ev.fmDropped none (Unit.node (st.srcNode % 4096)) [leField st.data 0 1]

/-- FM_CMD_ARRIVAL (R429). -/
def execFmCmdArrival (st : Stitch) (s : State) : Result := .next (s.onChip (fun c => c.fmCmd st))

/-- A notice or FM_REPLY is written into the notice ring; dropped, counted and recorded where the ring is full (R430). -/
def State.noticeIn (s : State) (st : Stitch) : State :=
  let c := s.chip
  if !c.on R.PCU_FMQ_CFG_EN then s
  else
    let size := 2 ^ max 4 (min 12 (c.rd R.PCU_FMQ_CFG_SIZE_LOG2))
    let n := c.rd R.PCU_FMQ_PRODUCED_VALUE
    if size ≤ subMod 16 n (c.rd R.PCU_FMQ_CONSUMED_VALUE) then
      s.onChip (fun c => (c.count R.PCU_FMQ_CFG_DROPPED).event Ev.noticeDropped none (Unit.node (st.srcNode % 4096)) [fget st.opspec 17 10])
    else
      let a := c.rdPair R.PCU_FMQ_BASE_LO_VALUE R.PCU_FMQ_BASE_HI_VALUE / 64 * 64 + 128 * (n % size)
      let entry := padTo 128 (padTo 64 st.data ++ leBytes 2 st.srcNode ++ [fget st.opspec 17 10, 0] ++ leBytes 8 c.now)
      let s := if c.viewStatus 0 a 128 = stOK then s.viewWrite 0 a entry else s
      s.onChip (fun c => c.wr R.PCU_FMQ_PRODUCED_VALUE (n + 1))

/-- NOTICE_ARRIVAL (R430). -/
def execNoticeArrival (st : Stitch) (s : State) : Result :=
  .next (
    let c := s.chip
    let size := 2 ^ max 4 (min 12 (c.rd R.PCU_FMQ_CFG_SIZE_LOG2))
    let a := c.rdPair R.PCU_FMQ_BASE_LO_VALUE R.PCU_FMQ_BASE_HI_VALUE / 64 * 64 + 128 * (c.rd R.PCU_FMQ_PRODUCED_VALUE % size)
    s.whenClear 0 a 128 true (fun s => s.noticeIn st))

end Sys2Proof.Machine
end

