-- ==== Sys2Proof/Machine/Cores.lean ====
section
/-! DEFINITION. Compute dies: cores, blocks and threads, engine queues and tickets, what ends a block, a launch or a core (R303 to R335). -/

namespace Sys2Proof.Machine

/-! Descriptor status codes (R322). -/
def dsBAD_DESC : Nat := 0x40
def dsBAD_ADDR : Nat := 0x41
def dsSKIPPED : Nat := 0x42
def dsENGINE_FAULT : Nat := 0x43
def dsINDEX_RANGE : Nat := 0x44
def dsAGED : Nat := 0x45
def dsFROGGED : Nat := 0x46

/-- Bytes of a core's scratch (R306). -/
def coreScratch : Nat := 0x180000

/-! Blocks and threads. -/

/-- The resident block in a slot of a core. -/
def Chip.blockAt (c : Chip) (d k slot : Nat) : Option Block := c.comp.blocks.find? (fun b => b.die == d && b.core == k && b.slot == slot)

/-- A block takes a new form. -/
def Chip.onBlock (c : Chip) (d k slot : Nat) (f : Block → Block) : Chip :=
  c.onComp (fun x => { x with blocks := updFirst (fun b => b.die == d && b.core == k && b.slot == slot) f x.blocks })

/-- A thread takes a new form. -/
def Chip.onThread (c : Chip) (d k slot tid : Nat) (f : Thread → Thread) : Chip :=
  c.onBlock d k slot (fun b => { b with threads := updAt tid f b.threads })

/-- Integer and floating-point registers of a thread; x0 reads zero and discards writes. -/
def Thread.rx (t : Thread) (n : Nat) : Nat := if n = 0 then 0 else t.x.getD n 0
def Thread.wx (t : Thread) (n v : Nat) : Thread := if n = 0 then t else { t with x := updAt n (fun _ => v % 2 ^ 32) t.x }
def Thread.rf (t : Thread) (n : Nat) : Nat := t.f.getD n 0
def Thread.wf (t : Thread) (n v : Nat) : Thread := { t with f := updAt n (fun _ => v % 2 ^ 32) t.f }

/-- Register pairs, low word in the even register (R317). -/
def Thread.rxPair (t : Thread) (n : Nat) : Nat := t.rx n + 2 ^ 32 * t.rx (n + 1)
def Thread.wxPair (t : Thread) (n v : Nat) : Thread := (t.wx n v).wx (n + 1) (v / 2 ^ 32)
def Thread.rfPair (t : Thread) (n : Nat) : Nat := t.rf n + 2 ^ 32 * t.rf (n + 1)
def Thread.wfPair (t : Thread) (n v : Nat) : Thread := (t.wf n v).wf (n + 1) (v / 2 ^ 32)

/-- A thread goes on after its instruction. -/
def Thread.goOn (t : Thread) : Thread := { t with pc := (t.pc + 4) % 2 ^ 32, retired := t.retired + 1 }

/-- The resident blocks of a core. -/
def Chip.blocksOn (c : Chip) (d k : Nat) : List Block := c.comp.blocks.filter (fun b => b.die == d && b.core == k)

/-- CMP.CORE_STATE follows the resident blocks. -/
def Chip.coreCounts (c : Chip) (d k : Nat) : Chip :=
  let l := c.blocksOn d k
  let n := (l.map (·.bdim)).sum
  let c := (c.wr (R.CMP_CORE_STATE_BLOCKS d k) l.length).wr (R.CMP_CORE_STATE_THREADS d k) n
  let st := c.rd (R.CMP_CORE_STATE_STATE d k)
  if st = 2 ∨ st = 3 then c.wr (R.CMP_CORE_STATE_STATE d k) (if l.isEmpty then 2 else 3) else c

/-- Blocks that a condition names are gone: threads, scratch regions and windows released; answers still to come find nobody (R332). -/
def Chip.dropBlocks (c : Chip) (hit : Block → Bool) : Chip :=
  let gone := c.comp.blocks.filter hit
  let c := c.onComp (fun x => { x with
    blocks := x.blocks.filter (fun b => !hit b)
    pushers := x.pushers.filter (fun p => !(gone.any (fun b => b.die == p.die && b.core == p.core && b.slot == p.slot))) })
  c.each ((gone.map (fun b => (b.die, b.core))).eraseDups) (fun c p => c.coreCounts p.1 p.2)

/-- A launch ends before its last block has ended: its blocks stop, and its command ends with a status (R331, R332). -/
def Chip.endLaunch (c : Chip) (src : CmdSrc) (idx status r0 r1 : Nat) : Chip :=
  let c := c.dropBlocks (fun b => b.src == src && b.idx == idx)
  let c := c.onComp (fun x => { x with launches := x.launches.filter (fun l => !(l.src == src && l.idx == idx)) })
  match c.cmd.cmds.find? (fun x => x.src == src && x.idx == idx) with
  | some x => c.endCmd x status r0 r1
  | none => c

/-- A thread raises an exception (R332): the first since CORE_ERR was cleared is recorded, the block stops, its launch ends with THREAD_FAULT. -/
def Chip.threadFault (c : Chip) (d k slot tid cause addr : Nat) : Chip :=
  match c.blockAt d k slot with
  | none => c
  | some b =>
    let pc := ((b.threads[tid]?).map (·.pc)).getD 0
    let c := if c.rd (R.CMP_CORE_ERR_CAUSE d k) = 0 then
        let w := fset (fset (fset 0 31 28 cause) 27 17 tid) 16 0 b.bid
        ((c.setWord (R.CMP_CORE_ERR d k) (BitVec.ofNat 32 w)).setWord (R.CMP_CORE_ERR_PC d k) (BitVec.ofNat 32 pc)).setWord
          (R.CMP_CORE_ERR_ADDR d k) (BitVec.ofNat 32 addr)
      else c
    let c := (c.count (R.CMP_CORE_COUNTS_EXCEPTIONS d k)).event Ev.threadException (some b.tenant) (Unit.core d k) [cause, b.bid, pc, addr]
    let c := c.dropBlocks (fun y => y.die == d && y.core == k && y.slot == slot)
    c.endLaunch b.src b.idx csTHREAD_FAULT (k + cause * 4096) b.bid

/-! Engine queues and tickets (R319, R320). -/

/-- The descriptors of a queue, oldest first. -/
def Chip.descs (c : Chip) (d k q : Nat) : List Desc := (getKey (d, k, q) c.comp.queues).getD []

/-- A queue holds other descriptors; CORE_EQ.DEPTH follows. -/
def Chip.setDescs (c : Chip) (d k q : Nat) (l : List Desc) : Chip :=
  (c.onComp (fun x => { x with queues := if l.isEmpty then delKey (d, k, q) x.queues else putKey (d, k, q) l x.queues })).wr (R.CMP_CORE_EQ_DEPTH d k q) l.length

/-- A descriptor is pushed: it takes the next ticket. -/
def Chip.pushDesc (c : Chip) (d k q : Nat) (bytes : List Nat) (cmd : Option (CmdSrc × Nat)) : Chip × Nat :=
  let t := c.rd (R.CMP_CORE_EQ_NEXT d k q)
  let c := c.setDescs d k q (c.descs d k q ++ [({ ticket := t, bytes := padTo 64 bytes, cmd := cmd } : Desc)])
  let c := c.onComp (fun x => { x with done := putKey (d, k, q) (((getKey (d, k, q) x.done).getD []).filter (fun y => decide (subMod 16 (t + 1) y.1 ≤ 64))) x.done })
  (c.wr (R.CMP_CORE_EQ_NEXT d k q) (t + 1), t)

/-- The status of a ticket (R320): none while it is pending or not yet pushed; AGED when it lies more than 64 behind the next ticket. -/
def Chip.ticketStatus (c : Chip) (d k q t : Nat) : Option Nat :=
  let back := subMod 16 (c.rd (R.CMP_CORE_EQ_NEXT d k q)) t
  if back = 0 ∨ 32768 < back then none
  else if 64 < back then some dsAGED
  else getKey t ((getKey (d, k, q) c.comp.done).getD [])

/-- Threads suspended in EWAIT on tickets that are done go on (R320). -/
def Chip.wakeTickets (c : Chip) (d k : Nat) : Chip :=
  c.onComp (fun x => { x with blocks := x.blocks.map (fun b =>
    if b.die = d ∧ b.core = k then
      { b with threads := b.threads.map (fun t => match t.wait with
        | .ticket q n rd => (match c.ticketStatus d k q n with
          | some st => ({ t with wait := .none } : Thread).wx rd st
          | none => t)
        | _ => t) }
    else b) })

/-- The threads suspended in EPUSH on a queue push in their order while entries are free (R320). -/
def Chip.wakePushers (c : Chip) (d k q : Nat) : Chip :=
  c.each (c.comp.pushers.filter (fun p => p.die == d && p.core == k && p.q == q)) (fun c p =>
    if (c.descs d k q).length < 64 then
      let c := c.onComp (fun x => { x with pushers := dropFirst (fun y => y == p) x.pushers })
      let (c, t) := c.pushDesc d k q p.bytes none
      c.onThread d k p.slot p.tid (fun th => ({ th with wait := .none } : Thread).wx p.rd t)
    else c)

/-! Descriptor headers (R321). -/

def Desc.opc (x : Desc) : Nat := leField x.bytes 0 1
def Desc.word0 (x : Desc) : Nat := leField x.bytes 0 8
def Desc.word1 (x : Desc) : Nat := leField x.bytes 8 8
def Desc.sync (x : Desc) : Nat := leField x.bytes 6 2
def Desc.syncEn (x : Desc) : Bool := bitOf x.word0 32
def Desc.tag (x : Desc) : Nat := leField x.bytes 8 4
/-- A field of a body. -/
def Desc.par (x : Desc) (at_ n : Nat) : Nat := leField x.bytes at_ n

/-- A descriptor completes with a status (R319 to R321): its ticket is done, the first error is kept, its count lands, HALT_ON_ERR puts the queue into skip, the command behind
it ends, and the threads that waited go on. `early` is whether the header was refused (R322). -/
def Chip.descDone (c : Chip) (d k q : Nat) (x : Desc) (status : Nat) : Chip :=
  let t := c.rd (R.CMP_CORE_STATE_TENANT d k)
  let c := c.setDescs d k q ((c.descs d k q).filter (fun y => y.ticket != x.ticket))
  let c := c.onComp (fun y => { y with done := putKey (d, k, q) (((getKey (d, k, q) y.done).getD []) ++ [(x.ticket, status)]) y.done })
  let bad := isErr status
  let c := if bad ∧ c.rd (R.CMP_CORE_EQ_FIRST_ERR d k q) = 0 then c.wr (R.CMP_CORE_EQ_FIRST_ERR d k q) status else c
  let c := if bad ∧ c.rd (R.CMP_CORE_ERR_CAUSE d k) = 0 then
      ((c.setWord (R.CMP_CORE_ERR d k) (BitVec.ofNat 32 (0xF * 2 ^ 28))).setWord (R.CMP_CORE_ERR_PC d k) (BitVec.ofNat 32 x.tag)).setWord
        (R.CMP_CORE_ERR_ADDR d k) (BitVec.ofNat 32 (status + q * 256))
    else c
  let c := if bad ∧ bitOf x.word0 33 then c.wr (R.CMP_CORE_EQ_SKIP d k q) 1 else c
  let c := if x.syncEn ∧ c.syncCountable x.sync t then c.landCount d x.sync 1 status else c
  let c : Chip := match x.cmd with
    | some (src, idx) => (match c.cmd.cmds.find? (fun (y : Cmd) => y.src == src && y.idx == idx) with
      | some y => c.endCmd y status k 0
      | none => c)
    | none => c
  (c.wakePushers d k q).wakeTickets d k

/-! Faults (R305, R307, R330). -/

/-- Every descriptor of a core ends with a status. -/
def Chip.failDescs (c : Chip) (d k status : Nat) : Chip :=
  c.each (List.range 8) (fun c q => c.each (c.descs d k q) (fun c x => c.descDone d k q x status))

/-- The tags under which a core's threads and engines wait for answers. -/
def Chip.coreTags (c : Chip) (d k : Nat) : List Nat :=
  ((c.blocksOn d k).flatMap (fun b => b.threads.flatMap (fun t => t.far.map (·.tag))))
    ++ ((List.range 8).flatMap (fun q => (c.descs d k q).flatMap (fun x => x.work.filterMap (·.flight))))

/-- Outstanding requests under some tags find nobody when they are answered: their answers count as late (R158, R305). -/
def Chip.abandonTags (c : Chip) (site : Nat) (tags : List Nat) : Chip :=
  (c.onXport (fun x => { x with out := x.out.filter (fun e => !(e.site == site && tags.contains e.st.tag))
                                stalled := x.stalled.filter (fun e => !(e.1 == site && tags.contains e.2.tag))
                                comps := x.comps.filter (fun e => !tags.contains e.1) })).outCounts site

/-- The counts of a die's cores (CMP.DIE_STATUS). -/
def Chip.dieCounts (c : Chip) (d : Nat) : Chip :=
  let l := List.range 136
  let c := c.wr (R.CMP_DIE_STATUS_ACTIVE d) (l.filter (fun k => decide (c.rd (R.CMP_CORE_STATE_LOGICAL d k) < 16))).length
  let c := c.wr (R.CMP_DIE_STATUS_FENCED d) (l.filter (fun k => c.rd (R.CMP_CORE_STATE_STATE d k) == 5)).length
  c.wr (R.CMP_DIE_STATUS_SPARE d) (l.filter (fun k => c.rd (R.CMP_CORE_STATE_STATE d k) == 6)).length

/-- Tiles, kinds and B buffer of a core as at a partition start or after a frog (R341), and lost with a fence (R358). -/
def Chip.clearMxe (c : Chip) (d k : Nat) : Chip :=
  let c := c.onMxe (fun x => { x with tiles := x.tiles.filter (fun e => !(e.1.1 == d && e.1.2.1 == k)), bufs := delKey (d, k) x.bufs })
  ((((c.wr (R.CMP_MXE_STATE_TILE_INT d k) 0).wr (R.CMP_MXE_STATE_B_VALID d k) 0).wr (R.CMP_MXE_STATE_B_FMT d k) 0).wr (R.CMP_MXE_STATE_ARRAY_BUSY d k) 0).wr
    (R.CMP_MXE_STATE_PORT_BUSY d k) 0

/-- A core is fenced (R305): its threads stop, its descriptors complete ENGINE_FAULT, its tiles and B buffer are lost (R358), the launches that had blocks there end CORE_FAULT, and its answers find nobody. -/
def Chip.fenceCore (c : Chip) (d k : Nat) : Chip :=
  let hit := c.blocksOn d k
  let c := c.abandonTags d (c.coreTags d k)
  let c := (c.wr (R.CMP_CORE_STATE_STATE d k) 5).wr (R.CMP_CORE_STATE_LOGICAL d k) 0x1F
  let c := c.wr ⟨R.CMP_CL_STATUS d (k / 17), k % 17, k % 17⟩ 1
  let c := ((c.dropBlocks (fun b => b.die == d && b.core == k)).failDescs d k dsENGINE_FAULT).clearMxe d k
  (c.each hit (fun c b => c.endLaunch b.src b.idx csCORE_FAULT k b.bid)).dieCounts d

/-- An uncorrectable error of a core: fenced and reported, once (R305, R463, R464). `engine`: the engine whose datapath met it, and its opcode. -/
def Chip.coreFault (c : Chip) (d k : Nat) (engine : Option (Nat × Nat)) : Chip :=
  if c.rd (R.CMP_CORE_STATE_STATE d k) = 5 then c
  else
    let t := if c.on (R.CMP_CORE_STATE_OWNED d k) then some (c.rd (R.CMP_CORE_STATE_TENANT d k)) else none
    let c := (c.fenceCore d k).event Ev.coreFence t (Unit.core d k) []
    match engine with
    | none => c.report (Unit.core d k) t.toList 0 0 0 actFenced
    | some (e, opc) => c.report (Unit.engine d k e) t.toList 2 opc dsENGINE_FAULT actFenced

/-- The cores whose scratch an access has found with an uncorrectable error are fenced (R305, R306). -/
def Chip.fenceScratch (c : Chip) : Chip :=
  if c.mems.scratchBad.isEmpty then c
  else (c.onMems (fun m => { m with scratchBad := [] })).each c.mems.scratchBad (fun c i => c.coreFault (i / 136) (i % 136) none)

/-- CORE_FAULT (R305). -/
def execCoreFault (die : Fin 8) (core : Fin 136) (engine : Option (Fin 6)) (s : State) : Result :=
  .next (s.onChip (fun c =>
    let opc := fun (e : Nat) => ((c.descs die.val core.val e).head?.map Desc.opc).getD 0
    c.coreFault die.val core.val (engine.map (fun e => (e.val, opc e.val)))))

/-- SRAM_PAGE_RETIRE (R307). -/
def execSramPageRetire (die : Fin 8) (page : Fin 262144) (s : State) : Result :=
  .next (s.onChip (fun c => if c.mems.sramRetired.contains (die.val, page.val) then c else c.retirePage die.val page.val 0 0))

/-- The queues that a queue processor serves (R330): tenant and queue. -/
def Chip.qpQueues (c : Chip) (d n : Nat) : List (Nat × Nat) :=
  (List.range 16).flatMap (fun t => ((List.range 64).filter (fun q => c.on (R.PCU_CQ_CFG_EN t q) && !c.on (R.PCU_CQ_CFG_KIND t q)
    && c.rd (R.PCU_CQ_CFG_DIE t q) == d && c.rd (R.PCU_CQ_CFG_QP t q) == n)).map (fun q => (t, q)))

/-- A queue processor is fenced: its queues stop, and their commands end with an error that the manual does not name (R330). -/
def Chip.fenceQp (c : Chip) (d n : Nat) : Chip :=
  let qs := c.qpQueues d n
  let c := c.wr (R.CMP_QP_STATUS_STATE d n) 4
  let c := c.each qs (fun c q => c.wr (R.PCU_CQ_CFG_STOPPED q.1 q.2) 1)
  let hit := c.cmd.cmds.filter (fun x => x.result.isNone && (match x.src with
    | .queue t q => qs.contains (t.val, q.val)
    | _ => false))
  c.each hit (fun c x =>
    let c := c.onSync (fun y => { y with waits := y.waits.filter (fun w => !(match w.who, x.src with
      | .queue t q, .queue t' q' => t == t'.val && q == q'.val
      | _, _ => false)) })
    let c := c.dropBlocks (fun b => b.src == x.src && b.idx == x.idx)
    let c := c.onComp (fun y => { y with launches := y.launches.filter (fun l => !(l.src == x.src && l.idx == x.idx)) })
    c.endCmd x (Config.qpFaultStatus % 256) 0 0)

/-- An uncorrectable error of a queue processor: fenced and reported, once (R330, R463). -/
def Chip.qpFault (c : Chip) (d n : Nat) : Chip :=
  if c.rd (R.CMP_QP_STATUS_STATE d n) = 4 then c
  else
    let ts := ((c.qpQueues d n).map (fun q => q.1)).eraseDups
    ((c.fenceQp d n).event Ev.qpFence ts.head? (Unit.qp d n) []).report (Unit.qp d n) ts 0 0 0 actFenced

/-- QP_FAULT (R330). -/
def execQpFault (die : Fin 8) (n : Fin 4) (s : State) : Result := .next (s.onChip (fun c => c.qpFault die.val n.val))

/-! Halting (R333). -/

/-- CMP.CORE_CTRL_k: HALT, RESUME and ERR_CLEAR of a written word. -/
def Chip.coreCtrl (c : Chip) (d k v : Nat) : Chip :=
  let st := c.rd (R.CMP_CORE_STATE_STATE d k)
  let c := if bitOf v 31 ∧ (st = 2 ∨ st = 3) then c.wr (R.CMP_CORE_STATE_STATE d k) 4 else c
  let c := if bitOf v 30 ∧ c.rd (R.CMP_CORE_STATE_STATE d k) = 4 then (c.wr (R.CMP_CORE_STATE_STATE d k) 2).coreCounts d k else c
  if bitOf v 29 then
    let c := c.each [R.CMP_CORE_ERR d k, R.CMP_CORE_ERR_PC d k, R.CMP_CORE_ERR_ADDR d k] (fun c o => c.setWord o 0)
    c.each (List.range 8) (fun c q => c.wr (R.CMP_CORE_EQ_FIRST_ERR d k q) 0)
  else c

/-- The hook of CMP.CORE_CTRL_k. -/
def coreCtrlHook (d k v : Nat) : WriteHook := .does (fun c => c.coreCtrl d k v)

/-- A write of CMP.CORE_CTRL_k with one of its commands. -/
def Chip.writeCoreCtrl (c : Chip) (req : Requester) (d k bit : Nat) (breakHalt : Bool) : Chip :=
  let v := 2 ^ bit + b2n breakHalt
  c.writeReg req (R.CMP_CORE_CTRL d k) v (coreCtrlHook d k v)

/-- CORE_HALT (R333); `breakHalt` is the value written to BREAK_HALT. -/
def execCoreHalt (req : Requester) (die : Fin 8) (core : Fin 136) (breakHalt : Bool) (s : State) : Result :=
  .next (s.onChip (fun c => c.writeCoreCtrl req die.val core.val 31 breakHalt))

/-- CORE_RESUME (R333). -/
def execCoreResume (req : Requester) (die : Fin 8) (core : Fin 136) (breakHalt : Bool) (s : State) : Result :=
  .next (s.onChip (fun c => c.writeCoreCtrl req die.val core.val 30 breakHalt))

/-- CORE_ERR_CLEAR (R320). -/
def execCoreErrClear (req : Requester) (die : Fin 8) (core : Fin 136) (breakHalt : Bool) (s : State) : Result :=
  .next (s.onChip (fun c => c.writeCoreCtrl req die.val core.val 29 breakHalt))

/-- THREAD_EXCEPTION (R332): an exception of a thread with its cause and address. -/
def execThreadException (die : Fin 8) (core : Fin 136) (slot : Fin 64) (tid : Fin 2048) (cause : Fin 7) (addr : BitVec 32) (s : State) : Result :=
  .next (s.onChip (fun c => match c.blockAt die.val core.val slot.val with
    | some b => if cause.val ≠ 0 ∧ tid.val < b.bdim then c.threadFault die.val core.val slot.val tid.val cause.val addr.toNat else c
    | none => c))

/-! Placing and ending blocks (R331). -/

/-- The lowest place in a core's scratch for `n` bytes between the regions of its blocks. -/
def Chip.scratchRoom (c : Chip) (d k n : Nat) : Option Nat :=
  let used := (c.blocksOn d k).map (fun b => (b.scratch, b.scratch + b.bytes))
  let starts := sortNat (0 :: used.map (fun u => u.2))
  starts.find? (fun a => decide (a + n ≤ coreScratch) && used.all (fun u => decide (u.2 ≤ a) || decide (a + n ≤ u.1)))

/-- A core that can take a block of a launch, and where (R331): mapped, with room for the threads, a slot and the scratch. -/
def Chip.blockRoom (c : Chip) (l : Launch) (k : Nat) : Option (Nat × Nat × Nat) :=
  let here := c.blocksOn l.die k
  if c.rd (R.CMP_CORE_STATE_LOGICAL l.die k) < 16 ∧ (here.map (·.bdim)).sum + l.bdim ≤ 2048 then
    match (List.range 64).find? (fun n => !(here.any (fun b => b.slot == n))), c.scratchRoom l.die k l.bytes with
    | some slot, some a => some (k, slot, a)
    | _, _ => none
  else none

/-- The threads of a new block (R331). -/
def newThreads (l : Launch) : List Thread :=
  (List.range l.bdim).map (fun _ => { x := updAt 11 (fun _ => l.next) (updAt 10 (fun _ => l.arg) (List.replicate 32 0)), f := List.replicate 32 0, pc := l.pc })

/-- The next block of a launch is placed where there is room; its scratch region is zeroed (R331). -/
def State.placeBlock (s : State) (l : Launch) : State :=
  if l.blocks ≤ l.next then s
  else match l.cores.findSome? (s.chip.blockRoom l) with
  | none => s
  | some (k, slot, a) =>
    let b : Block := ⟨l.die, k, slot, l.src, l.idx, l.next, l.tenant, l.bdim, a, l.bytes, l.windows, newThreads l⟩
    let base := scratchBase l.die k + a
    let c := s.chip.onComp (fun x => { x with blocks := x.blocks ++ [b], launches := updFirst (fun y => y == l) (fun y => { y with next := y.next + 1 }) x.launches })
    { s with mem := memZero s.mem base (base + l.bytes), chip := c.coreCounts l.die k }

/-- BLOCK_PLACE (R331): the next waiting block of the launch of a command. -/
def execBlockPlace (src : CmdSrc) (idx : BitVec 16) (s : State) : Result :=
  .next (match s.chip.comp.launches.find? (fun l => l.src == src && l.idx == idx.toNat) with
    | some l => s.placeBlock l
    | none => s)

/-- BLOCK_END (R331): a block whose threads have all ended; the launch completes with its last block. -/
def execBlockEnd (die : Fin 8) (core : Fin 136) (slot : Fin 64) (s : State) : Result :=
  .next (s.onChip (fun c => match c.blockAt die.val core.val slot.val with
    | some b =>
      if b.threads.all (fun t => t.wait == .ended) then
        let c := c.dropBlocks (fun y => y.die == die.val && y.core == core.val && y.slot == slot.val)
        match c.comp.launches.find? (fun l => l.src == b.src && l.idx == b.idx) with
        | some l =>
          if l.blocks ≤ l.ended + 1 then c.endLaunch b.src b.idx stOK l.blocks 0
          else c.onComp (fun x => { x with launches := updFirst (fun y => y == l) (fun y => { y with ended := y.ended + 1 }) x.launches })
        | none => c
      else c
    | none => c))

end Sys2Proof.Machine
end

