-- ==== Sys2Proof/Machine/Threads.lean ====
section
/-! DEFINITION. Threads: their address space, far accesses and their answers, and the Ablyn instructions (R309 to R318). -/

namespace Sys2Proof.Machine

/-! The address space (R313, R314). -/

/-- Where a thread address leads: a place in a memory of the die, a global address beyond it, or nowhere. -/
inductive ThreadPlace where
  | here (a : Nat)
  | far (g : Nat)
  | fault
  /-- A scratch aperture of the die that answers WINDOW (R308, R392). -/
  | window
  deriving DecidableEq, Repr

/-- The target of a global address for an engine or thread of a die (R314, R325): by the core or die path on its own die, else by stitch. -/
def Chip.globalPlace (c : Chip) (d tenant g : Nat) : ThreadPlace :=
  if g / 2 ^ 46 = c.node ∧ inDieMemory d (g % 2 ^ 46) then
    match c.resolve tenant (g % 2 ^ 46) with
    | some a => .here a
    | none => if rangeOf (g % 2 ^ 46) = .scratch then .window else .fault
  else .far g

/-- The target of a thread address (R313, R314, R391). -/
def Chip.threadPlace (c : Chip) (b : Block) (a : Nat) : ThreadPlace :=
  let page := fun (p : Nat) => match c.resolve b.tenant p with
    | some x => ThreadPlace.here x
    | none => .fault
  if a < coreScratch then .here (scratchBase b.die b.core + a)
  else if 0x10000000 ≤ a ∧ a < 0x18000000 then page (sramBase b.die (b.core / 17) + (a - 0x10000000))
  else if 0x40000000 ≤ a ∧ a < 0x80000000 then page (sramBase b.die 0 + (a - 0x40000000))
  else if 0x80000000 ≤ a then
    match getKey ((a - 0x80000000) / 0x8000000) b.windows with
    | some base => c.globalPlace b.die b.tenant ((base + a % 0x8000000) % 2 ^ 64)
    | none => .fault
  else .fault

/-! Issue. -/

/-- Whether a thread may issue: its block is resident, it waits for nothing, and its core is not halted or fenced (R309, R333). -/
def Chip.issuing (c : Chip) (d k slot tid : Nat) : Option (Block × Thread) :=
  let st := c.rd (R.CMP_CORE_STATE_STATE d k)
  match c.blockAt d k slot with
  | some b => (match b.threads[tid]? with
    | some t => if t.wait = .none ∧ st ≠ 4 ∧ st ≠ 5 then some (b, t) else none
    | none => none)
  | none => none

/-- The names of a thread. -/
structure ThreadAt where
  d : Nat
  k : Nat
  slot : Nat
  tid : Nat
  deriving DecidableEq, Repr

/-- A thread with its block, as an instruction finds them. -/
structure Issue where
  at_ : ThreadAt
  b : Block
  t : Thread
  deriving DecidableEq, Repr

/-- A thread raises an exception with a cause and address (R332). -/
def State.raise (s : State) (i : Issue) (cause addr : Nat) : State := s.onChip (fun c => c.threadFault i.at_.d i.at_.k i.at_.slot i.at_.tid cause addr)

/-- A thread goes on with new registers. -/
def State.putThread (s : State) (i : Issue) (t : Thread) : State := s.onChip (fun c => c.onThread i.at_.d i.at_.k i.at_.slot i.at_.tid (fun _ => t))

/-- A thread issues one instruction: its fetch is checked against the address map (R313), then the instruction acts. -/
def State.issue (s : State) (d k slot tid : Nat) (f : State → Issue → State) : State :=
  match s.chip.issuing d k slot tid with
  | none => s
  | some (b, t) =>
    let i : Issue := ⟨⟨d, k, slot, tid⟩, b, t⟩
    if t.pc % 4 ≠ 0 ∨ s.chip.threadPlace b t.pc = .fault ∨ s.chip.threadPlace b t.pc = .window then s.raise i 2 t.pc else f s i

/-! Far accesses (R314, R315). -/

/-- A new tag. -/
def Chip.newTag (c : Chip) : Nat × Chip := (c.comp.tag, c.onComp (fun x => { x with tag := x.tag + 1 }))

/-- The stitch of an access to a global address (R314, R325): `n` bytes from its START. -/
def farStitch (g tenant cls opcode n tag : Nat) (bytes : List Nat) (opspec : Nat) : Stitch :=
  { dstNode := g / 2 ^ 46 % 4096, tenant := tenant, cls := cls, opcode := opcode, ppa := lineOf (g % 2 ^ 46), start := g % 64, countM1 := n - 1
    opspec := opspec, data := padTo 64 (List.replicate (g % 64) 0 ++ bytes), tag := tag }

/-- A thread issues a far access and keeps it as outstanding; it waits for the answer where `wait`. -/
def State.farAccess (s : State) (i : Issue) (t : Thread) (g opcode n : Nat) (bytes : List Nat) (opspec : Nat) (kind : FarKind) (wait : Bool) : State :=
  let (tag, c) := s.chip.newTag
  let st := farStitch g i.b.tenant 1 opcode n tag bytes opspec
  let t := { t with far := t.far ++ [(⟨tag, g % 64, kind⟩ : FarOp)], wait := if wait then .answer else t.wait }
  let s := { s with chip := c }.putThread i t
  s.onChip (fun c => c.request i.at_.d (g / 2 ^ 58) st)

/-- A thread keeps the first error of its accesses (R315). -/
def Thread.noteErr (t : Thread) (status : Nat) : Thread := if isErr status ∧ t.farErr = 0 then { t with farErr := status } else t

/-- The value that a load writes to its integer register. -/
def loadValue (bytes : Nat) (signed : Bool) (v : Nat) : Nat := if signed then ofSigned 32 (toSigned (8 * bytes) v) else v

/-- The value that a load writes to its floating-point register: a half is NaN-boxed (R311). -/
def loadFValue (bytes v : Nat) : Nat := if bytes = 2 then 0xFFFF0000 + v else v

/-- A load of a thread (R313 to R316). `put` writes what was read to its register. -/
def State.threadLoad (s : State) (i : Issue) (a n : Nat) (kind : FarKind) (put : Thread → Nat → Thread) : State :=
  if a % n ≠ 0 then s.raise i 4 a
  else match s.chip.threadPlace i.b a with
  | .fault => s.raise i 3 a
  | .window => s.putThread i ((put i.t 0).noteErr stWINDOW).goOn
  | .here p =>
    if s.chip.placeGood p then s.putThread i (put i.t (memNat s.mem p n)).goOn else s.putThread i ((put i.t 0).noteErr stMEM_ERR).goOn
  | .far g => s.farAccess i i.t.goOn g opLOAD n [] 0 kind true

/-- A store of a thread (R313 to R316). -/
def State.threadStore (s : State) (i : Issue) (a n v : Nat) : State :=
  if a % n ≠ 0 then s.raise i 4 a
  else match s.chip.threadPlace i.b a with
  | .fault => s.raise i 3 a
  | .window => s.putThread i (i.t.noteErr stWINDOW).goOn
  | .here p =>
    if s.chip.placeGood p then ({ s with mem := memPutNat s.mem p n v }).putThread i i.t.goOn else s.putThread i (i.t.noteErr stMEM_ERR).goOn
  | .far g => s.farAccess i i.t.goOn g opSTORE n (leBytes n v) 0 .store false

/-- An atomic of a thread (R317): old value to its register or pair. The pair x0 has x1 as its high word, so the thread waits for the answer of a far AMO.D of that pair too. -/
def State.threadAmo (s : State) (i : Issue) (fn rd a w x swap : Nat) : State :=
  let put := fun (t : Thread) (v : Nat) => if w = 8 then t.wxPair rd v else t.wx rd v
  if a % w ≠ 0 then s.raise i 4 a
  else match s.chip.threadPlace i.b a with
  | .fault => s.raise i 3 a
  | .window => s.putThread i ((put i.t 0).noteErr stWINDOW).goOn
  | .here p =>
    let own := decide (scratchBase i.at_.d i.at_.k ≤ p) && decide (p < scratchBase i.at_.d i.at_.k + coreScratch)
    if (own || rangeOf p == .sram) = false then s.raise i 3 a
    else if s.chip.placeGood p then
      let old := memNat s.mem p w
      ({ s with mem := memPutNat s.mem p w (atomNew fn w old x x swap) }).putThread i (put i.t old).goOn
    else s.putThread i ((put i.t 0).noteErr stMEM_ERR).goOn
  | .far g =>
    if opcodeTargets opATOMIC (rangeOf (g % 2 ^ 46)) = false then s.raise i 3 a
    else
      let n := if fn = 1 then 2 * w else w
      let bytes := if fn = 1 then leBytes w x ++ leBytes w swap else leBytes w x
      s.farAccess i i.t.goOn g opATOMIC n bytes (fn * 4096 + (if w = 8 then 1024 else 0)) (.amo rd w) (rd != 0 || w == 8)

/-- What an answer does to its thread (R315, R317, R318). -/
def Thread.answered (t : Thread) (o : FarOp) (d : Completion) : Thread :=
  let bad := isErr d.status
  let v := fun (n : Nat) => if bad then 0 else leField (padTo 64 d.data) o.start n
  let t := { t with far := t.far.filter (fun x => x.tag != o.tag) }
  match o.kind with
  | .load rd n sg => ({ t.noteErr d.status with wait := .none } : Thread).wx rd (loadValue n sg (v n))
  | .loadF rd n => ({ t.noteErr d.status with wait := .none } : Thread).wf rd (loadFValue n (v n))
  | .store => t.noteErr d.status
  | .amo rd w =>
    let t := t.noteErr d.status
    if rd = 0 ∧ w ≠ 8 then t else (let t : Thread := { t with wait := .none }
                                    if w = 8 then t.wxPair rd (v 8) else t.wx rd (v 4))
  | .sop rd count =>
    let r := if bad then 0x100 + d.status else if count then leField (padTo 64 d.data) 8 4 else (padTo 64 d.data).getD 0 0
    ({ t with wait := .none } : Thread).wx rd r

/-- A thread that waits in FENCE.G goes on once nothing is outstanding (R315). -/
def Thread.fenceDone (t : Thread) : Thread :=
  match t.wait with
  | .fence rd => if t.far.isEmpty then ({ t with wait := .none, farErr := 0 } : Thread).wx rd t.farErr else t
  | _ => t

/-- FAR_ANSWER (R315): the oldest answer that has come for a thread. -/
def execFarAnswer (die : Fin 8) (core : Fin 136) (slot : Fin 64) (tid : Fin 2048) (s : State) : Result :=
  .next (s.onChip (fun c => match c.blockAt die.val core.val slot.val with
    | none => c
    | some b => match b.threads[tid.val]? with
      | none => c
      | some t => match c.xport.comps.find? (fun x => t.far.any (fun o => o.tag == x.1)) with
        | none => c
        | some x => match t.far.find? (fun o => o.tag == x.1) with
          | none => c
          | some o =>
            let c := c.onXport (fun y => { y with comps := dropFirst (fun z => z.1 == x.1) y.comps })
            c.onThread die.val core.val slot.val tid.val (fun t => (t.answered o x.2).fenceDone)))

/-! Ablyn instructions (R317). -/

/-- EPUSH (R317, R320). -/
def execEpush (die : Fin 8) (core : Fin 136) (slot : Fin 64) (tid : Fin 2048) (rd rs1 rs2 : Fin 32) (s : State) : Result :=
  .next (s.issue die.val core.val slot.val tid.val (fun s i =>
    let a := i.t.rx rs1.val
    let q := i.t.rx rs2.val % 8
    if a % 64 ≠ 0 ∨ coreScratch ≤ a ∨ q = 7 then s.raise i 5 a
    else
      let bytes := memRead s.mem (scratchBase die.val core.val + a) 64
      if 64 ≤ (s.chip.descs die.val core.val q).length then
        (s.putThread i { i.t.goOn with wait := .push q }).onChip (fun c => c.onComp (fun x =>
          { x with pushers := x.pushers ++ [(⟨die.val, core.val, q, slot.val, tid.val, rd.val, bytes⟩ : PushWait)] }))
      else
        let r := s.chip.pushDesc die.val core.val q bytes none
        ({ s with chip := r.1 }).putThread i (i.t.goOn.wx rd.val r.2)))

/-- EPOLL (R320). -/
def execEpoll (die : Fin 8) (core : Fin 136) (slot : Fin 64) (tid : Fin 2048) (rd rs1 rs2 : Fin 32) (s : State) : Result :=
  .next (s.issue die.val core.val slot.val tid.val (fun s i =>
    s.putThread i (i.t.goOn.wx rd.val ((s.chip.ticketStatus die.val core.val (i.t.rx rs2.val % 8) (i.t.rx rs1.val % 65536)).getD 0xFFFFFFFF))))

/-- EWAIT (R320). -/
def execEwait (die : Fin 8) (core : Fin 136) (slot : Fin 64) (tid : Fin 2048) (rd rs1 rs2 : Fin 32) (s : State) : Result :=
  .next (s.issue die.val core.val slot.val tid.val (fun s i =>
    let q := i.t.rx rs2.val % 8
    let n := i.t.rx rs1.val % 65536
    match s.chip.ticketStatus die.val core.val q n with
    | some st => s.putThread i (i.t.goOn.wx rd.val st)
    | none => s.putThread i { i.t.goOn with wait := .ticket q n rd.val }))

/-- The threads of a block go on once every live one is at the barrier. -/
def Block.meet (b : Block) : Block :=
  if b.threads.all (fun t => t.wait == .barrier || t.wait == .ended) then
    { b with threads := b.threads.map (fun t => if t.wait = .barrier then { t with wait := .none } else t) }
  else b

/-- TBAR (R317). -/
def execTbar (die : Fin 8) (core : Fin 136) (slot : Fin 64) (tid : Fin 2048) (s : State) : Result :=
  .next (s.issue die.val core.val slot.val tid.val (fun s i =>
    (s.putThread i { i.t.goOn with wait := .barrier }).onChip (fun c => c.onBlock die.val core.val slot.val Block.meet)))

/-- TEXIT (R317): the thread ends; the barrier is met without it. -/
def execTexit (die : Fin 8) (core : Fin 136) (slot : Fin 64) (tid : Fin 2048) (s : State) : Result :=
  .next (s.issue die.val core.val slot.val tid.val (fun s i =>
    (s.putThread i { i.t.goOn with wait := .ended }).onChip (fun c => c.onBlock die.val core.val slot.val Block.meet)))

/-- FWSET (R314, R317). Of two threads in one cycle the command of the lower TID comes last (R335; log entry 172). -/
def execFwset (die : Fin 8) (core : Fin 136) (slot : Fin 64) (tid : Fin 2048) (w : Fin 16) (rs1 rs2 : Fin 32) (s : State) : Result :=
  .next (s.issue die.val core.val slot.val tid.val (fun s i =>
    let hi := i.t.rx rs2.val
    let base := (i.t.rx rs1.val + 2 ^ 32 * hi) / 4096 * 4096
    let s := s.putThread i i.t.goOn
    s.onChip (fun c => c.onBlock die.val core.val slot.val (fun b =>
      { b with windows := if hi = 0xFFFFFFFF then delKey w.val b.windows else putKey w.val base b.windows }))))

/-- FENCE.G (R315). -/
def execFenceG (die : Fin 8) (core : Fin 136) (slot : Fin 64) (tid : Fin 2048) (rd : Fin 32) (s : State) : Result :=
  .next (s.issue die.val core.val slot.val tid.val (fun s i => s.putThread i ({ i.t.goOn with wait := .fence rd.val } : Thread).fenceDone))

/-- A SYNC_OP of a thread to the store of its own node (R318): function, VALUE, LIMIT or LEASE, flags. -/
def State.sop (s : State) (die : Fin 8) (core : Fin 136) (slot : Fin 64) (tid : Fin 2048) (rd rs1 : Fin 32) (fn flags : Nat) (args : Thread → Nat × Nat) : State :=
  s.issue die.val core.val slot.val tid.val (fun s i =>
    let (value, limit) := args i.t
    let (tag, c) := s.chip.newTag
    let st : Stitch := { dstNode := c.node, dstSite := 31, tenant := i.b.tenant, cls := 1, opcode := opSYNC_OP, sync := i.t.rx rs1.val % 65536, countM1 := 63
                         opspec := fn * 4096, data := padTo 64 (leBytes 8 value ++ leBytes 4 limit ++ [0, flags, core.val]), tag := tag }
    let t := { i.t.goOn with far := i.t.far ++ [(⟨tag, 0, .sop rd.val (fn == 0)⟩ : FarOp)], wait := .answer }
    (({ s with chip := c }).putThread i t).onChip (fun c => c.request die.val 0 st))

/-- SOP READ (R318). -/
def execSopRead (die : Fin 8) (core : Fin 136) (slot : Fin 64) (tid : Fin 2048) (rd rs1 : Fin 32) (s : State) : Result :=
  .next (s.sop die core slot tid rd rs1 0x00 0 (fun _ => (0, 0)))

/-- SOP ADD (R318): VALUE is rs2, sign-extended to 48 bits. -/
def execSopAdd (die : Fin 8) (core : Fin 136) (slot : Fin 64) (tid : Fin 2048) (rd rs1 rs2 : Fin 32) (s : State) : Result :=
  .next (s.sop die core slot tid rd rs1 0x01 0 (fun t => (ofSigned 48 (toSigned 32 (t.rx rs2.val)), 0)))

/-- SOP SET (R318). -/
def execSopSet (die : Fin 8) (core : Fin 136) (slot : Fin 64) (tid : Fin 2048) (rd rs1 rs2 : Fin 32) (s : State) : Result :=
  .next (s.sop die core slot tid rd rs1 0x02 0 (fun t => (t.rx rs2.val, 0)))

/-- SOP WAIT GE, LIMIT 0 (R318). -/
def execSopWait (die : Fin 8) (core : Fin 136) (slot : Fin 64) (tid : Fin 2048) (rd rs1 rs2 : Fin 32) (s : State) : Result :=
  .next (s.sop die core slot tid rd rs1 0x04 0 (fun t => (t.rx rs2.val, 0)))

/-- SOP ARRIVE (R318); FLAG is WAIT. -/
def execSopArrive (die : Fin 8) (core : Fin 136) (slot : Fin 64) (tid : Fin 2048) (rd rs1 : Fin 32) (flag : Bool) (s : State) : Result :=
  .next (s.sop die core slot tid rd rs1 0x08 (2 * b2n flag) (fun _ => (0, 0)))

/-- SOP ACQUIRE (R318). -/
def execSopAcquire (die : Fin 8) (core : Fin 136) (slot : Fin 64) (tid : Fin 2048) (rd rs1 rs2 : Fin 32) (s : State) : Result :=
  .next (s.sop die core slot tid rd rs1 0x10 0 (fun t => (0, t.rx rs2.val % 2 ^ 20)))

/-- SOP RELEASE (R318); FLAG is RECOVER. -/
def execSopRelease (die : Fin 8) (core : Fin 136) (slot : Fin 64) (tid : Fin 2048) (rd rs1 : Fin 32) (flag : Bool) (s : State) : Result :=
  .next (s.sop die core slot tid rd rs1 0x11 (b2n flag) (fun _ => (0, 0)))

/-- SOP RENEW (R318). -/
def execSopRenew (die : Fin 8) (core : Fin 136) (slot : Fin 64) (tid : Fin 2048) (rd rs1 rs2 : Fin 32) (s : State) : Result :=
  .next (s.sop die core slot tid rd rs1 0x12 0 (fun t => (0, t.rx rs2.val % 2 ^ 20)))

/-- AMO.W (R317); a function that R256 reserves for the width is illegal, as is a CAS whose rs2 is odd. -/
def execAmoW (die : Fin 8) (core : Fin 136) (slot : Fin 64) (tid : Fin 2048) (fn rd rs1 rs2 : Fin 32) (s : State) : Result :=
  .next (s.issue die.val core.val slot.val tid.val (fun s i =>
    if 0x0A < fn.val ∨ (fn.val = 1 ∧ rs2.val % 2 = 1) then s.raise i 1 0
    else s.threadAmo i fn.val rd.val (i.t.rx rs1.val) 4 (i.t.rx rs2.val) (i.t.rx (rs2.val + 1))))

/-- AMO.D (R317): rd and rs2 are pairs; CAS takes a multiple of 4. -/
def execAmoD (die : Fin 8) (core : Fin 136) (slot : Fin 64) (tid : Fin 2048) (fn rd rs1 rs2 : Fin 32) (s : State) : Result :=
  .next (s.issue die.val core.val slot.val tid.val (fun s i =>
    if 0x0A < fn.val ∨ rd.val % 2 = 1 ∨ rs2.val % 2 = 1 ∨ (fn.val = 1 ∧ rs2.val % 4 ≠ 0) then s.raise i 1 0
    else s.threadAmo i fn.val rd.val (i.t.rx rs1.val) 8 (i.t.rxPair rs2.val) (i.t.rxPair (rs2.val + 2))))

/-! FP64 on register pairs (R317). -/

/-- Exceptions accumulate in fflags (R311). -/
def Thread.accrue (t : Thread) (fl : FFlags) : Thread := { t with fcsr := Nat.lor t.fcsr fl.bits }

/-- The dynamic rounding mode; none while frm holds a reserved code. -/
def Thread.dynRm (t : Thread) : Option Rm := Rm.ofCode (fget t.fcsr 7 5)

/-- An FP64 instruction whose pair operands are `pairs`: illegal where one is odd, or where it rounds and frm is
reserved. -/
def State.dpInstr (s : State) (die : Fin 8) (core : Fin 136) (slot : Fin 64) (tid : Fin 2048) (pairs : List Nat) (rounds : Bool) (f : Rm → Thread → Thread × FFlags) : State :=
  s.issue die.val core.val slot.val tid.val (fun s i =>
    match (if rounds then i.t.dynRm else some .rne) with
    | none => s.raise i 1 0
    | some rm =>
      if pairs.any (fun n => n % 2 == 1) then s.raise i 1 0
      else s.putThread i (((f rm i.t).1.accrue (f rm i.t).2).goOn))

/-- An FP64 operation of two pairs into a pair. -/
def dpBinary (op : Rm → Nat → Nat → Nat × FFlags) (rd rs1 rs2 : Fin 32) (rm : Rm) (t : Thread) : Thread × FFlags :=
  let r := op rm (t.rfPair rs1.val) (t.rfPair rs2.val)
  (t.wfPair rd.val r.1, r.2)

/-- FADD.DP (R317). -/
def execFaddDp (die : Fin 8) (core : Fin 136) (slot : Fin 64) (tid : Fin 2048) (rd rs1 rs2 : Fin 32) (s : State) : Result :=
  .next (s.dpInstr die core slot tid [rd.val, rs1.val, rs2.val] true (dpBinary fp64.add rd rs1 rs2))

/-- FSUB.DP (R317). -/
def execFsubDp (die : Fin 8) (core : Fin 136) (slot : Fin 64) (tid : Fin 2048) (rd rs1 rs2 : Fin 32) (s : State) : Result :=
  .next (s.dpInstr die core slot tid [rd.val, rs1.val, rs2.val] true (dpBinary fp64.sub rd rs1 rs2))

/-- FMUL.DP (R317). -/
def execFmulDp (die : Fin 8) (core : Fin 136) (slot : Fin 64) (tid : Fin 2048) (rd rs1 rs2 : Fin 32) (s : State) : Result :=
  .next (s.dpInstr die core slot tid [rd.val, rs1.val, rs2.val] true (dpBinary fp64.mul rd rs1 rs2))

/-- FMAC.DP (R317): one rounding. -/
def execFmacDp (die : Fin 8) (core : Fin 136) (slot : Fin 64) (tid : Fin 2048) (rd rs1 rs2 : Fin 32) (s : State) : Result :=
  .next (s.dpInstr die core slot tid [rd.val, rs1.val, rs2.val] true (fun rm t =>
    let r := fp64.fma rm (t.rfPair rs1.val) (t.rfPair rs2.val) (t.rfPair rd.val)
    (t.wfPair rd.val r.1, r.2)))

/-- FDIV.DP (R317). -/
def execFdivDp (die : Fin 8) (core : Fin 136) (slot : Fin 64) (tid : Fin 2048) (rd rs1 rs2 : Fin 32) (s : State) : Result :=
  .next (s.dpInstr die core slot tid [rd.val, rs1.val, rs2.val] true (dpBinary fp64.div rd rs1 rs2))

/-- FSQRT.DP (R317). -/
def execFsqrtDp (die : Fin 8) (core : Fin 136) (slot : Fin 64) (tid : Fin 2048) (rd rs1 : Fin 32) (s : State) : Result :=
  .next (s.dpInstr die core slot tid [rd.val, rs1.val] true (fun rm t =>
    let r := fp64.sqrt rm (t.rfPair rs1.val)
    (t.wfPair rd.val r.1, r.2)))

/-- FMIN.DP (R317). -/
def execFminDp (die : Fin 8) (core : Fin 136) (slot : Fin 64) (tid : Fin 2048) (rd rs1 rs2 : Fin 32) (s : State) : Result :=
  .next (s.dpInstr die core slot tid [rd.val, rs1.val, rs2.val] false (dpBinary (fun _ => fp64.extremumNum false) rd rs1 rs2))

/-- FMAX.DP (R317). -/
def execFmaxDp (die : Fin 8) (core : Fin 136) (slot : Fin 64) (tid : Fin 2048) (rd rs1 rs2 : Fin 32) (s : State) : Result :=
  .next (s.dpInstr die core slot tid [rd.val, rs1.val, rs2.val] false (dpBinary (fun _ => fp64.extremumNum true) rd rs1 rs2))

/-- FCVT.S.DP (R317). -/
def execFcvtSDp (die : Fin 8) (core : Fin 136) (slot : Fin 64) (tid : Fin 2048) (rd rs1 : Fin 32) (s : State) : Result :=
  .next (s.dpInstr die core slot tid [rs1.val] true (fun rm t =>
    let r := Fmt.conv fp64 fp32 rm (t.rfPair rs1.val)
    (t.wf rd.val r.1, r.2)))

/-- FCVT.DP.S (R317). -/
def execFcvtDpS (die : Fin 8) (core : Fin 136) (slot : Fin 64) (tid : Fin 2048) (rd rs1 : Fin 32) (s : State) : Result :=
  .next (s.dpInstr die core slot tid [rd.val] false (fun rm t =>
    let r := Fmt.conv fp32 fp64 rm (t.rf rs1.val)
    (t.wfPair rd.val r.1, r.2)))

/-- FCVT.DP.W (R317). -/
def execFcvtDpW (die : Fin 8) (core : Fin 136) (slot : Fin 64) (tid : Fin 2048) (rd rs1 : Fin 32) (s : State) : Result :=
  .next (s.dpInstr die core slot tid [rd.val] false (fun rm t =>
    let r := fp64.ofInt rm (toSigned 32 (t.rx rs1.val))
    (t.wfPair rd.val r.1, r.2)))

/-- FCVT.W.DP (R317). -/
def execFcvtWDp (die : Fin 8) (core : Fin 136) (slot : Fin 64) (tid : Fin 2048) (rd rs1 : Fin 32) (s : State) : Result :=
  .next (s.dpInstr die core slot tid [rs1.val] true (fun rm t =>
    let r := fp64.toInt rm 32 true (t.rfPair rs1.val)
    (t.wx rd.val (ofSigned 32 r.1), r.2)))

/-- A comparison as the F extension makes it: FEQ is quiet, the others signal on any NaN (R317). -/
def Fmt.compare (f : Fmt) (which a b : Nat) : Bool × FFlags :=
  let x := f.val a
  let y := f.val b
  let nan := x.isNan || y.isNan
  if which = 2 then ((Fv.eq x y).getD false, { nv := x.isSnan || y.isSnan })
  else if which = 1 then ((Fv.lt x y).getD false, { nv := nan })
  else ((Fv.lt x y).getD false || (Fv.eq x y).getD false, { nv := nan })

/-- A comparison of pairs into an integer register. -/
def dpCompare (which : Nat) (rd rs1 rs2 : Fin 32) (t : Thread) : Thread × FFlags :=
  let r := fp64.compare which (t.rfPair rs1.val) (t.rfPair rs2.val)
  (t.wx rd.val (b2n r.1), r.2)

/-- FEQ.DP (R317). -/
def execFeqDp (die : Fin 8) (core : Fin 136) (slot : Fin 64) (tid : Fin 2048) (rd rs1 rs2 : Fin 32) (s : State) : Result :=
  .next (s.dpInstr die core slot tid [rs1.val, rs2.val] false (fun _ => dpCompare 2 rd rs1 rs2))

/-- FLT.DP (R317). -/
def execFltDp (die : Fin 8) (core : Fin 136) (slot : Fin 64) (tid : Fin 2048) (rd rs1 rs2 : Fin 32) (s : State) : Result :=
  .next (s.dpInstr die core slot tid [rs1.val, rs2.val] false (fun _ => dpCompare 1 rd rs1 rs2))

/-- FLE.DP (R317). -/
def execFleDp (die : Fin 8) (core : Fin 136) (slot : Fin 64) (tid : Fin 2048) (rd rs1 rs2 : Fin 32) (s : State) : Result :=
  .next (s.dpInstr die core slot tid [rs1.val, rs2.val] false (fun _ => dpCompare 0 rd rs1 rs2))

end Sys2Proof.Machine
end

