-- ==== Sys2Proof/Machine/Engines.lean ====
section
/-! DEFINITION. Engine queues, the special-function engine, the gather/scatter engine and the data mover (R319 to R329). -/

namespace Sys2Proof.Machine

/-! Starting a descriptor (R319, R321, R322). -/

/-- The engine code of a queue (R319). -/
def engineCode (q : Nat) : Nat := min q 5

/-- The highest operation code that the engine of a queue has (R323, R324, R325, R342, R348). -/
def engineTop (q : Nat) : Nat := if q = 0 then 3 else if q = 1 then 0x0A else if q = 2 then 3 else if q = 3 then 4 else if q = 4 then 1 else 6

/-- Whether a header keeps the rules of its queue (R322). -/
def Desc.headerGood (x : Desc) (q : Nat) : Bool := fget x.word0 11 8 == engineCode q && fget x.word0 47 34 == 0 && x.word1 / 2 ^ 32 == 0

/-- Whether a dependency is met (R321). -/
def Chip.depMet (c : Chip) (d k : Nat) (x : Desc) : Bool := !bitOf x.word0 12 || (c.ticketStatus d k (fget x.word0 15 13) (fget x.word0 31 16)).isSome

/-- Whether some bytes of a descriptor are zero. -/
def Desc.zero (x : Desc) (at_ n : Nat) : Bool := x.par at_ n == 0

/-- Whether a scratch operand lies in the scratch (R322). -/
def inScratch (a n : Nat) : Bool := decide (a + n ≤ coreScratch)

/-- The tenant of a core. -/
def Chip.coreOwner (c : Chip) (d k : Nat) : Nat := c.rd (R.CMP_CORE_STATE_TENANT d k)

/-- A core's scratch, read and written. -/
def State.scr (s : State) (d k a n : Nat) : List Nat := memRead s.mem (scratchBase d k + a) n
def State.scrNat (s : State) (d k a n : Nat) : Nat := memNat s.mem (scratchBase d k + a) n
def State.putScr (s : State) (d k a : Nat) (bs : List Nat) : State := { s with mem := memWrite s.mem (scratchBase d k + a) bs }

/-- A descriptor takes a new form in its queue. -/
def Chip.onDesc (c : Chip) (d k q ticket : Nat) (f : Desc → Desc) : Chip := c.setDescs d k q (updFirst (fun y => y.ticket == ticket) f (c.descs d k q))

/-- The descriptor that an engine may start now: the first that it has not begun; for all but the matrix engine, at the head of its queue; not on a fenced core, in a queue in
skip, or before its dependency is met (R305, R321, R322). -/
def Chip.startsDesc (c : Chip) (d k q : Nat) : Option Desc :=
  match (c.descs d k q).find? (fun x => !x.begun) with
  | none => none
  | some x =>
    if c.rd (R.CMP_CORE_STATE_STATE d k) = 5 ∨ c.on (R.CMP_CORE_EQ_SKIP d k q) then none
    else if q ≠ 0 ∧ ((c.descs d k q).head?.map (·.ticket)) ≠ some x.ticket then none
    else if c.depMet d k x then some x else none

/-- The checks before a descriptor's effect: header, body, SYNC (R322). -/
def Chip.descCheck (c : Chip) (d k q : Nat) (x : Desc) (body : Nat) : Nat :=
  if !x.headerGood q then dsBAD_DESC
  else if body ≠ 0 then body
  else if x.syncEn && !c.syncCountable x.sync (c.coreOwner d k) then stSYNC
  else 0

/-- An engine starts a descriptor with operation code `opc`: refused with the status of the first check that fails, else `run`. -/
def State.engineOp (s : State) (d k q opc : Nat) (body : State → Desc → Nat) (run : State → Desc → State) : State :=
  match s.chip.startsDesc d k q with
  | none => s
  | some x =>
    if x.opc ≠ opc then s
    else
      let status := s.chip.descCheck d k q x (body s x)
      if status ≠ 0 then s.onChip (fun c => c.onDesc d k q x.ticket (fun y => { y with begun := true, status := some status }))
      else run (s.onChip (fun c => c.onDesc d k q x.ticket (fun y => { y with begun := true }))) x

/-- A descriptor's work has ended with a status. -/
def Chip.workDone (c : Chip) (d k q ticket status : Nat) : Chip := c.onDesc d k q ticket (fun y => { y with status := some status })

/-- ENGINE_NOP (R321): a NOP at the head of a queue completes and clears the queue's skip. -/
def execEngineNop (die : Fin 8) (core : Fin 136) (q : Fin 8) (s : State) : Result :=
  .next (s.onChip (fun c =>
    let d := die.val
    let k := core.val
    match c.descs d k q.val with
    | [] => c
    | x :: _ =>
      if x.opc = 0 ∧ c.depMet d k x ∧ c.rd (R.CMP_CORE_STATE_STATE d k) ≠ 5 then
        let status := c.descCheck d k q.val x 0
        (c.wr (R.CMP_CORE_EQ_SKIP d k q.val) 0).descDone d k q.val x status
      else c))

/-! Special-function engine (R323). -/

/-- The format of an element type code. -/
def sfeFmt (ty : Nat) : Fmt := if ty = 0 then fp32 else if ty = 1 then bf16 else fp16

/-- The body checks of the SFE: `rows` for the two operations on rows, `scale` for SCALE. -/
def sfeCheck (rows scale : Bool) (x : Desc) : Nat :=
  let n := x.par 24 4
  let row := x.par 32 4
  let ti := fget (x.par 28 1) 3 0
  let tout := fget (x.par 28 1) 7 4
  let rowsBad := rows && (row == 0 || decide (65536 < row) || n % max 1 row != 0)
  if n = 0 ∨ 393216 < n ∨ 2 < ti ∨ 2 < tout ∨ !x.zero 29 3 ∨ rowsBad ∨ !x.zero 44 20 ∨ (!rows ∧ !x.zero 32 8) ∨ (!scale ∧ !x.zero 40 4) then dsBAD_DESC
  else if !inScratch (x.par 16 4) (n * (sfeFmt ti).size) || !inScratch (x.par 20 4) (n * (sfeFmt tout).size)
      || (rows && !inScratch (x.par 36 4) (4 * (n / max 1 row))) then dsBAD_ADDR
  else 0

/-- The inputs of an SFE descriptor, widened exactly to FP32. -/
def State.sfeIn (s : State) (d k : Nat) (x : Desc) : List Nat :=
  let f := sfeFmt (fget (x.par 28 1) 3 0)
  (List.range (x.par 24 4)).map (fun i => (Fmt.conv f fp32 .rne (s.scrNat d k (x.par 16 4 + i * f.size) f.size)).1)

/-- The results of an SFE descriptor, rounded to nearest even into the output type. -/
def State.sfeOut (s : State) (d k : Nat) (x : Desc) (l : List Nat) : State :=
  let f := sfeFmt (fget (x.par 28 1) 7 4)
  s.putScr d k (x.par 20 4) (l.flatMap (fun v => leBytes f.size (Fmt.conv fp32 f .rne v).1))

/-- A special function of one FP32 input: a NaN gives the canonical NaN. -/
def sfeFn (opc v : Nat) : Nat := if (fp32.val v).isNan then fp32.qnan else Config.sfeResult opc v % 2 ^ 32

/-- An SFE operation on single elements. -/
def State.sfe (s : State) (die : Fin 8) (core : Fin 136) (opc : Nat) : State :=
  s.engineOp die.val core.val 1 opc (fun _ x => sfeCheck false false x) (fun s x =>
    (s.sfeOut die.val core.val x ((s.sfeIn die.val core.val x).map (sfeFn opc))).onChip (fun c => c.workDone die.val core.val 1 x.ticket stOK))

/-- SFE_EXP (R323). -/
def execSfeExp (die : Fin 8) (core : Fin 136) (s : State) : Result := .next (s.sfe die core 0x01)
/-- SFE_LN (R323). -/
def execSfeLn (die : Fin 8) (core : Fin 136) (s : State) : Result := .next (s.sfe die core 0x02)
/-- SFE_RECIP (R323). -/
def execSfeRecip (die : Fin 8) (core : Fin 136) (s : State) : Result := .next (s.sfe die core 0x03)
/-- SFE_RSQRT (R323). -/
def execSfeRsqrt (die : Fin 8) (core : Fin 136) (s : State) : Result := .next (s.sfe die core 0x04)
/-- SFE_SIGMOID (R323). -/
def execSfeSigmoid (die : Fin 8) (core : Fin 136) (s : State) : Result := .next (s.sfe die core 0x05)
/-- SFE_TANH (R323). -/
def execSfeTanh (die : Fin 8) (core : Fin 136) (s : State) : Result := .next (s.sfe die core 0x06)
/-- SFE_GELU (R323). -/
def execSfeGelu (die : Fin 8) (core : Fin 136) (s : State) : Result := .next (s.sfe die core 0x07)

/-- The rows of an SFE descriptor. -/
def sfeRows (x : Desc) (l : List Nat) : List (List Nat) := chunks (x.par 32 4) (l.length / max 1 (x.par 32 4)) l

/-- One FP32 value of each row at AUX. -/
def State.putAux (s : State) (d k : Nat) (x : Desc) (l : List Nat) : State := s.putScr d k (x.par 36 4) (l.flatMap (leBytes 4))

/-- SFE_ROWMAX (R323): AUX takes each row's maximum, DST a copy. -/
def execSfeRowmax (die : Fin 8) (core : Fin 136) (s : State) : Result :=
  .next (s.engineOp die.val core.val 1 0x08 (fun _ x => sfeCheck true false x) (fun s x =>
    let l := s.sfeIn die.val core.val x
    let top := fun (r : List Nat) => r.tail.foldl (fun a b => fp32.extremum true a b) (if (fp32.val (r.headD 0)).isNan then fp32.qnan else r.headD 0)
    ((s.sfeOut die.val core.val x l).putAux die.val core.val x ((sfeRows x l).map top)).onChip
      (fun c => c.workDone die.val core.val 1 x.ticket stOK)))

/-- SFE_EXPSUM (R323): DST takes the exponentials, AUX the sum of each row of DST in element order. -/
def execSfeExpsum (die : Fin 8) (core : Fin 136) (s : State) : Result :=
  .next (s.engineOp die.val core.val 1 0x09 (fun _ x => sfeCheck true false x) (fun s x =>
    let d := die.val
    let k := core.val
    let fo := sfeFmt (fget (x.par 28 1) 7 4)
    let e := fun (m v : Nat) => if (fp32.val v).isNan || (fp32.val m).isNan then fp32.qnan else Config.sfeExpDiff v m % 2 ^ 32
    let rows := (sfeRows x (s.sfeIn d k x)).mapIdx (fun r l => l.map (e (s.scrNat d k (x.par 36 4 + 4 * r) 4)))
    let stored := rows.map (fun l => l.map (fun v => (Fmt.conv fo fp32 .rne (Fmt.conv fp32 fo .rne v).1).1))
    let sums := stored.map (fun l => l.foldl (fun a v => (fp32.add .rne a v).1) 0)
    ((s.sfeOut d k x rows.flatten).putAux d k x sums).onChip (fun c => c.workDone d k 1 x.ticket stOK)))

/-- SFE_SCALE (R323): correctly rounded products with SCALE. -/
def execSfeScale (die : Fin 8) (core : Fin 136) (s : State) : Result :=
  .next (s.engineOp die.val core.val 1 0x0A (fun _ x => sfeCheck false true x) (fun s x =>
    (s.sfeOut die.val core.val x ((s.sfeIn die.val core.val x).map (fun v => (fp32.mul .rne v (x.par 40 4)).1))).onChip
      (fun c => c.workDone die.val core.val 1 x.ticket stOK)))

/-! Moving bytes (R324 to R329). -/

/-- What the mover knows of its descriptor: die, core, queue, tenant, class, whether and where destination blocks count, the operation and its ARG. -/
structure Mover where
  d : Nat
  k : Nat
  q : Nat
  tenant : Nat
  cls : Nat
  count : Bool
  dsync : Nat
  arg : Nat
  siteLocal : Bool
  opc : Nat
  x : Desc
  deriving DecidableEq, Repr

/-- The mover of a descriptor. -/
def Chip.mover (c : Chip) (d k q : Nat) (x : Desc) : Mover :=
  if q = 2 then ⟨d, k, q, c.coreOwner d k, b2n (bitOf (x.par 46 1) 0), false, 0, fget (x.par 46 1) 7 4, false, x.opc, x⟩
  else ⟨d, k, q, c.coreOwner d k, b2n (bitOf (x.par 58 1) 1), bitOf (x.par 58 1) 0, x.par 56 2, x.par 59 5, bitOf (x.par 58 1) 3, x.opc, x⟩

/-- A range cut at the 64-byte blocks of an address: offset and length of each part (R326). -/
def cuts (a len : Nat) : List (Nat × Nat) :=
  (List.range ((a % 64 + len + 63) / 64)).map (fun i => let lo := 64 * i - a % 64; (lo, min len (64 * (i + 1) - a % 64) - lo))

/-- The pieces of a source range. -/
def pieces (a len : Nat) : List (Nat × Nat) := (cuts a len).map (fun p => ((a + p.1) % 2 ^ 64, p.2))

/-- What one part of the work comes to: it goes on, or it has ended with a status. -/
inductive PartEnd where
  | on (f : Xfer)
  | ended (status : Nat)
  deriving DecidableEq, Repr

/-- The source of a part read as far as it lies on the own die: the bytes, the pieces still to be read, or the status that ends the part. -/
def State.readParts (s : State) (m : Mover) : List (Nat × Nat) → List Nat → Nat × List Nat × List (Nat × Nat)
  | [], got => (0, got, [])
  | (a, n) :: ps, got =>
    match s.chip.globalPlace m.d m.tenant a with
    | .here p => if s.chip.placeGood p then s.readParts m ps (got ++ memRead s.mem p n) else (stMEM_ERR, [], [])
    | .fault => (stWINDOW, [], [])
    | .window => (stWINDOW, [], [])
    | .far _ => (0, got, (a, n) :: ps)

/-- A stitch of the mover goes to the site adapter under a new tag (R150, R252). -/
def State.moverSend (s : State) (m : Mover) (f : Xfer) (top : Nat) (st : Stitch) : State × PartEnd :=
  let (tag, c) := s.chip.newTag
  ({ s with chip := c.request m.d top { st with tag := tag } }, .on { f with flight := some tag })

/-- A far access of the mover; a counted write carries CNT bit 0 and SYNC (R326). -/
def State.moverFar (s : State) (m : Mover) (f : Xfer) (g opcode n : Nat) (bytes : List Nat) (opspec : Nat) (counted : Bool) : State × PartEnd :=
  let st := farStitch g m.tenant m.cls opcode n 0 bytes opspec
  s.moverSend m f (g / 2 ^ 58) (if counted then { st with cnt := 1, sync := m.dsync } else st)

/-- A run of the mover: opening with its blocks, address and mode (R187, R189, R195). -/
def runOpening (m : Mover) (g blocks : Nat) (pull : Bool) (data : List Nat) (c : Chip) (tag : Nat) : Stitch :=
  { dstNode := g / 2 ^ 46 % 4096, dstSite := (ownerSite (g % 2 ^ 46)).getD 31, tenant := m.tenant, cls := 0, opcode := opRUN_OPEN
    cnt := if pull then 2 else b2n m.count, sync := if m.count || pull then m.dsync else 0
    ppa := g % 2 ^ 46, countM1 := 63, opf := b2n pull + 2 * b2n m.siteLocal, opspec := (blocks - 1) * 256, data := padTo 64 data, tag := tag, srcNode := c.node }

/-- The operation of R256 on a place of the own die: the old value (R317, R324, R329). -/
def State.placeAtomic (s : State) (p fn w x swap : Nat) : State × Nat :=
  let old := memNat s.mem p w
  ({ s with mem := memPutNat s.mem p w (atomNew fn w old x x swap) }, old)

/-- The old value of a DME ATOMIC is written to scratch (R329). -/
def State.atomicResult (s : State) (m : Mover) (got : List Nat) (old : Nat) : State :=
  let w := m.x.par 32 4
  let a := m.x.par 40 4
  let s := s.putScr m.d m.k a (leBytes w old)
  if m.arg % 64 = 1 then s.putScr m.d m.k (a + w) (leBytes w (b2n (old == leField got 0 w))) else s

/-- The write of a part whose source has been read. -/
def State.writePart (s : State) (m : Mover) (f : Xfer) : State × PartEnd :=
  let n := f.got.length
  if f.how = 1 then
    if inDieMemory m.d (f.dst % 2 ^ 46) ∧ f.dst / 2 ^ 46 = s.chip.node then (s, .ended stTARGET)
    else s.moverFar m f f.dst opREDUCE n f.got (fget m.arg 9 0 * 256 + fget m.arg 13 10 * 16 + fget m.arg 17 14) m.count
  else if f.how = 2 then
    let st := farStitch f.dst m.tenant m.cls opMC_STORE n 0 f.got (fget m.arg 11 0 * 64)
    s.moverSend m f 0 (if m.count then { st with cnt := 1, sync := m.dsync } else st)
  else match s.chip.globalPlace m.d m.tenant f.dst with
  | .fault => (s, .ended stWINDOW)
  | .window => (s, .ended stWINDOW)
  | .here p =>
    if m.count ∧ m.opc ≠ 4 ∧ !s.chip.syncCountable m.dsync m.tenant then (s, .ended stSYNC)
    else if !s.chip.placeGood p then (s, .ended stMEM_ERR)
    else if f.how = 3 then ((s.placeAtomic p (if m.arg = 0 then 0x0A else 2) 4 (leNat f.got) 0).1, .ended stOK)
    else if f.how = 6 then
      let w := m.x.par 32 4
      let r := s.placeAtomic p (m.arg % 64) w (leField f.got 0 w) (leField f.got w w)
      (r.1.atomicResult m f.got r.2, .ended stOK)
    else
      let s := { s with mem := memWrite s.mem p f.got }
      (if m.count ∧ m.opc ≠ 4 then s.onChip (fun c => c.landCount m.d m.dsync 1 stOK) else s, .ended stOK)
  | .far g =>
    if f.how = 3 then s.moverFar m f g opATOMIC 4 f.got ((if m.arg = 0 then 0x0A else 2) * 4096) false
    else if f.how = 6 then
      let w := m.x.par 32 4
      let code := if w = 4 then 0 else if w = 8 then 1 else 2
      s.moverFar { m with cls := 1 } f g opATOMIC n f.got (m.arg % 64 * 4096 + code * 1024) false
    else s.moverFar m f g opSTORE n f.got 0 m.count

/-- A part that is a run: a push run to another die or node, or a pull run from one (R189, R195, R325). A global address with a reserved bit set is refused at entry (R251). -/
def State.runPart (s : State) (m : Mover) (f : Xfer) : State × PartEnd :=
  match f.parts with
  | [] => (s, .ended stOK)
  | (src, len) :: _ =>
    let (tag, c) := s.chip.newTag
    if f.how = 4 then
      let st := runOpening m f.dst (len / 64) false [] c tag
      let w : RunWait := ⟨m.d, st, src % 2 ^ 46, false, none, none, c.row⟩
      ({ s with chip := if f.dst / 2 ^ 58 = 0 then c.requestRun w else c.refuseRun w stMALFORMED }, .on { f with flight := some tag })
    else
      let st := runOpening m src (len / 64) true (List.replicate 8 0 ++ leBytes 8 (f.dst % 2 ^ 46)) c tag
      ({ s with chip := c.request m.d (src / 2 ^ 58) st }, .on { f with flight := some tag })

/-- A part with nothing on its way goes on while the limits leave room (R326). -/
def State.partGo (s : State) (m : Mover) (f : Xfer) (stitches runs : Nat) : State × PartEnd :=
  if f.how = 4 ∨ f.how = 5 then (if runs < 16 then s.runPart m f else (s, .on f))
  else
    let (bad, got, rest) := s.readParts m f.parts f.got
    let f := { f with got := got, parts := rest }
    if bad ≠ 0 then (s, .ended bad)
    else if m.q ≥ 5 ∧ 1024 ≤ stitches then (s, .on f)
    else match rest with
    | (a, n) :: _ => s.moverFar m f a opLOAD n [] 0 false
    | [] => s.writePart m f

/-- An answer for a part: bytes read, the end of its write, or an error. -/
def State.partAnswer (s : State) (m : Mover) (f : Xfer) (d : Completion) : State × PartEnd :=
  if isErr d.status then (s, .ended d.status)
  else match f.parts, (f.how == 4 || f.how == 5) with
  | (a, n) :: ps, false => (s, .on { f with flight := none, parts := ps, got := f.got ++ (((padTo 64 d.data).drop (a % 64)).take n) })
  | _, _ =>
    if f.how = 6 then
      let w := m.x.par 32 4
      (s.atomicResult m f.got (leField (padTo 64 d.data) (f.dst % 64) w), .ended stOK)
    else (s, .ended stOK)

/-- One part of the work takes its answer and goes on where it can. -/
def State.partStep (s : State) (m : Mover) (f : Xfer) (stitches runs released : Nat) : State × PartEnd :=
  match f.flight with
  | some tag => (match getKey tag s.chip.xport.comps with
    | none => (s, .on f)
    | some d =>
      let s := s.onChip (fun c => c.onXport (fun y => { y with comps := dropFirst (fun z => z.1 == tag) y.comps }))
      match s.partAnswer m f d with
      | (s, .on f) => s.partGo m f stitches runs
      | (s, .ended st) => (s, .ended st))
  | none => if released < f.gate then (s, .on f) else s.partGo m f stitches runs

/-- Parts on their way: stitches and runs. -/
def inFlight (l : List Xfer) (run : Bool) : Nat := (l.filter (fun f => f.flight.isSome && (f.how == 4 || f.how == 5) == run)).length

/-- All parts of the work in order: the parts that remain, and the statuses of those that ended in error. `stitches` and `runs` count the parts on their way. -/
def State.partsStep (s : State) (m : Mover) (released : Nat) : List Xfer → Nat → Nat → State × List Xfer × List (Nat × Nat)
  | [], _, _ => (s, [], [])
  | f :: fs, stitches, runs =>
    let isRun := f.how == 4 || f.how == 5
    let (s, e) := s.partStep m f stitches runs released
    let was := b2n f.flight.isSome
    match e with
    | .on g =>
      let now := b2n g.flight.isSome
      let (s, l, errs) := s.partsStep m released fs (if isRun then stitches else stitches + now - was) (if isRun then runs + now - was else runs)
      (s, g :: l, errs)
    | .ended st =>
      let (s, l, errs) := s.partsStep m released fs (if isRun then stitches else stitches - was) (if isRun then runs - was else runs)
      (s, l, if isErr st then (f.n, st) :: errs else errs)

/-- The status of a descriptor whose parts have all ended (R163): that of the lowest part in error, TIMEOUT last; else the status its work ends with. -/
def Desc.result (x : Desc) : Nat :=
  let low := fun (l : List (Nat × Nat)) => l.foldl (fun (b : Option (Nat × Nat)) a => match b with
    | none => some a
    | some y => if a.1 < y.1 then some a else some y) none
  if x.final ≠ 0 then x.final
  else match low (x.errs.filter (fun e => e.2 != stTIMEOUT)) with
  | some a => a.2
  | none => if x.errs.isEmpty then stOK else stTIMEOUT

/-- The parts at the start of a stream that have landed (R328). -/
def Desc.prefix_ (x : Desc) : Nat := (x.work.map (·.n) ++ x.errs.map (·.1)).foldl min x.total

/-- The bytes of a stream that the consumers have released, and the ring (R328). -/
def Chip.released (c : Chip) (m : Mover) : Nat :=
  if m.q ≥ 5 ∧ m.opc = 4 then ((getKey (fget m.arg 20 5) c.sync.objs).map (·.count)).getD 0 + 2 ^ (m.arg % 32) else 0

/-- The engine behind a descriptor takes the answers that have come and goes on (R326, R328). -/
def State.moverStep (s : State) (d k q ticket : Nat) : State :=
  match (s.chip.descs d k q).find? (fun y => y.ticket == ticket) with
  | none => s
  | some x =>
    let m := s.chip.mover d k q x
    let (s, work, errs) := s.partsStep m (s.chip.released m) x.work (inFlight x.work false) (inFlight x.work true)
    let x' := { x with work := work, errs := x.errs ++ errs }
    let x' := { x' with landed := x'.prefix_, status := if work.isEmpty then some x'.result else none }
    let s := s.onChip (fun c => c.onDesc d k q ticket (fun _ => x'))
    if q ≥ 5 ∧ x.opc = 4 ∧ x.landed < x'.landed then s.onChip (fun c => c.landCount d m.dsync (x'.landed - x.landed) stOK) else s

/-- An engine begins work in parts. -/
def State.beginWork (s : State) (d k q ticket : Nat) (work : List Xfer) (final : Nat) : State :=
  (s.onChip (fun c => c.onDesc d k q ticket (fun y => { y with work := work.mapIdx (fun i f => { f with n := i }), final := final, total := work.length }))).moverStep d k q ticket

/-- DESCRIPTOR_COMPLETE (R319 to R322): the descriptor at the head of a queue goes on with the answers that have come, and completes once its work has ended; in a queue in
skip it completes SKIPPED. -/
def execDescriptorComplete (die : Fin 8) (core : Fin 136) (q : Fin 8) (s : State) : Result :=
  let d := die.val
  let k := core.val
  .next (match s.chip.descs d k q.val with
  | [] => s
  | x :: _ =>
    if s.chip.rd (R.CMP_CORE_STATE_STATE d k) = 5 then s
    else if s.chip.on (R.CMP_CORE_EQ_SKIP d k q.val) ∧ !x.begun then
      (if x.opc = 0 then s else s.onChip (fun c => c.descDone d k q.val x dsSKIPPED))
    else if x.begun then
      let s := if x.status.isSome then s else s.moverStep d k q.val x.ticket
      match (s.chip.descs d k q.val).head? with
      | some y => (match y.status with
        | some st => s.onChip (fun c =>
          let c := c.descDone d k q.val y st
          if q.val = 0 then c.wr (if y.opc = 1 then R.CMP_MXE_STATE_ARRAY_BUSY d k else R.CMP_MXE_STATE_PORT_BUSY d k) 0 else c)
        | none => s)
      | none => s
    else if engineTop q.val < x.opc ∧ s.chip.depMet d k x then s.onChip (fun c => c.descDone d k q.val x dsBAD_DESC)
    else s)

/-! Gather/scatter engine (R324). -/

/-- The body checks of the GSE. -/
def gseCheck (add : Bool) (x : Desc) : Nat :=
  let n := x.par 32 4
  let esize := x.par 44 2
  let b := x.par 46 1
  let ty := fget b 7 4
  if n = 0 ∨ 65536 < n ∨ x.par 40 4 % 4 ≠ 0 ∨ esize < 4 ∨ 1024 < esize ∨ esize % 4 ≠ 0 ∨ fget b 3 1 ≠ 0 ∨ !x.zero 47 17
      ∨ (if add then ty ≠ 0 ∧ ty ≠ 3 else ty ≠ 0) then dsBAD_DESC
  else if !inScratch (x.par 24 4) (4 * n) || !inScratch (x.par 28 4) (n * esize) then dsBAD_ADDR
  else 0

/-- The indices of a GSE descriptor in order, with their elements' numbers. -/
def State.gseIndices (s : State) (d k : Nat) (x : Desc) : List (Nat × Nat) := (List.range (x.par 32 4)).map (fun i => (i, s.scrNat d k (x.par 24 4 + 4 * i) 4))

/-- The global address of an element; the global address of a scratch byte. -/
def gseAddr (x : Desc) (idx : Nat) : Nat := (x.par 16 8 + idx * x.par 40 4) % 2 ^ 64
def Chip.scrGlobal (c : Chip) (d k a : Nat) : Nat := c.node * 2 ^ 46 + scratchBase d k + a

/-- Whether an index is out of range, and the status that this gives the descriptor. -/
def gseFinal (x : Desc) (l : List (Nat × Nat)) : Nat := if l.any (fun p => decide (x.par 36 4 ≤ p.2)) then dsINDEX_RANGE else 0

/-- The accesses of a GATHER (R324): each element from its table row to its place in the scratch; an index out of range reads as zero bytes. -/
def State.gatherWork (s : State) (d k : Nat) (x : Desc) : List Xfer :=
  (s.gseIndices d k x).flatMap (fun p =>
    let loc := s.chip.scrGlobal d k (x.par 28 4 + p.1 * x.par 44 2)
    (cuts loc (x.par 44 2)).map (fun o =>
      if x.par 36 4 ≤ p.2 then ({ n := 0, dst := loc + o.1, parts := [], got := List.replicate o.2 0 } : Xfer)
      else { n := 0, dst := loc + o.1, parts := pieces ((gseAddr x p.2 + o.1) % 2 ^ 64) o.2 }))

/-- The elements that a scatter stores, those of an index out of range left out (R324), each by `part` from its position and its address. -/
def State.scatterWork (s : State) (d k : Nat) (x : Desc) (part : Nat → Nat → List Xfer) : List Xfer :=
  ((s.gseIndices d k x).filter (fun p => decide (p.2 < x.par 36 4))).flatMap (fun p => part (x.par 28 4 + p.1 * x.par 44 2) (gseAddr x p.2))

/-- The stores of one element of a SCATTER, from its place in the scratch to its address. -/
def State.scatterPart (s : State) (d k : Nat) (x : Desc) (from_ a : Nat) : List Xfer :=
  (cuts a (x.par 44 2)).map (fun o => ({ n := 0, dst := (a + o.1) % 2 ^ 64, parts := [], got := s.scr d k (from_ + o.1) o.2 } : Xfer))

/-- The atomic additions of one element of a SCATTER_ADD, a word each. -/
def State.scatterAddPart (s : State) (d k : Nat) (x : Desc) (from_ a : Nat) : List Xfer :=
  (List.range (x.par 44 2 / 4)).map (fun w => ({ n := 0, dst := (a + 4 * w) % 2 ^ 64, parts := [], got := s.scr d k (from_ + 4 * w) 4, how := 3 } : Xfer))

/-- GATHER (R324). -/
def execGather (die : Fin 8) (core : Fin 136) (s : State) : Result :=
  let d := die.val
  let k := core.val
  .next (s.engineOp d k 2 0x01 (fun _ x => gseCheck false x) (fun s x => s.beginWork d k 2 x.ticket (s.gatherWork d k x) (gseFinal x (s.gseIndices d k x))))

/-- SCATTER (R324): an index out of range is skipped. -/
def execScatter (die : Fin 8) (core : Fin 136) (s : State) : Result :=
  let d := die.val
  let k := core.val
  .next (s.engineOp d k 2 0x02 (fun _ x => gseCheck false x) (fun s x => s.beginWork d k 2 x.ticket (s.scatterWork d k x (s.scatterPart d k x)) (gseFinal x (s.gseIndices d k x))))

/-- SCATTER_ADD (R324): one indivisible add per 4-byte word. -/
def execScatterAdd (die : Fin 8) (core : Fin 136) (s : State) : Result :=
  let d := die.val
  let k := core.val
  .next (s.engineOp d k 2 0x03 (fun _ x => gseCheck true x) (fun s x => s.beginWork d k 2 x.ticket (s.scatterWork d k x (s.scatterAddPart d k x)) (gseFinal x (s.gseIndices d k x))))

/-! Data mover (R325 to R329). -/

/-- The rows of a region (R325): global addresses of source and destination of each. -/
def dmeRows (x : Desc) : List (Nat × Nat) :=
  let st := fun (at_ : Nat) => toSigned 32 (x.par at_ 4)
  let go := fun (base : Nat) (s1 s2 : Int) (a b : Nat) => ofSigned 64 ((base : Int) + (b : Int) * s2 + (a : Int) * s1)
  (List.range (max 1 (x.par 38 2))).flatMap (fun b => (List.range (max 1 (x.par 36 2))).map (fun a =>
    (go (x.par 16 8) (st 40) (st 48) a b, go (x.par 24 8) (st 44) (st 52) a b)))

/-- The body checks that the operations of the DME share: LEN, the zero bits, and the rules of RUN. -/
def dmeCheck (x : Desc) (argBits : Nat) : Nat :=
  let len := x.par 32 4
  let b := x.par 58 1
  if len = 0 ∨ 16777216 < len ∨ fget b 7 4 ≠ 0 ∨ x.par 59 5 / 2 ^ argBits ≠ 0
      ∨ (bitOf b 2 ∧ (len % 64 ≠ 0 ∨ x.par 24 8 % 64 ≠ 0 ∨ x.par 44 4 % 64 ≠ 0 ∨ x.par 52 4 % 64 ≠ 0)) then dsBAD_DESC
  else 0

/-- The parts of rows that go by stitches. -/
def rowParts (how len : Nat) (r : Nat × Nat) : List Xfer :=
  (cuts r.2 len).map (fun o => { n := 0, dst := (r.2 + o.1) % 2 ^ 64, parts := pieces ((r.1 + o.1) % 2 ^ 64) o.2, how := how })

/-- Whether a global address is reached by the core or die path of a die (R325). -/
def Chip.onDie (c : Chip) (d g : Nat) : Bool := g / 2 ^ 46 == c.node && inDieMemory d (g % 2 ^ 46)

/-- The parts of a row that goes by runs of at most 1,024 blocks (R326). -/
def runParts (how len : Nat) (r : Nat × Nat) : List Xfer :=
  (List.range ((len + 65535) / 65536)).map (fun i =>
    { n := 0, dst := (r.2 + 65536 * i) % 2 ^ 64, parts := [((r.1 + 65536 * i) % 2 ^ 64, min 65536 (len - 65536 * i))], how := how })

/-- The parts of a row of a COPY (R325). -/
def Chip.copyParts (c : Chip) (d len : Nat) (run : Bool) (r : Nat × Nat) : List Xfer :=
  let from_ := c.onDie d r.1
  let to_ := c.onDie d r.2
  if run ∧ from_ ∧ !to_ then runParts 4 len r
  else if run ∧ !from_ ∧ to_ then runParts 5 len r
  else rowParts 0 len r

/-- DME_COPY (R325). -/
def execDmeCopy (die : Fin 8) (core : Fin 136) (n : Fin 3) (s : State) : Result :=
  .next (s.engineOp die.val core.val (5 + n.val) 0x01 (fun _ x => dmeCheck x 0) (fun s x =>
    s.beginWork die.val core.val (5 + n.val) x.ticket ((dmeRows x).flatMap (s.chip.copyParts die.val (x.par 32 4) (bitOf (x.par 58 1) 2))) 0))

/-- The checks of DME_REDUCE: whole elements. -/
def reduceCheck (x : Desc) : Nat :=
  if elemSize (fget (x.par 59 5) 13 10) ≠ 0 ∧ x.par 32 4 % elemSize (fget (x.par 59 5) 13 10) ≠ 0 then dsBAD_DESC else dmeCheck x 18

/-- DME_REDUCE (R325, R327): LEN is a multiple of the element size. -/
def execDmeReduce (die : Fin 8) (core : Fin 136) (n : Fin 3) (s : State) : Result :=
  .next (s.engineOp die.val core.val (5 + n.val) 0x02 (fun _ x => reduceCheck x)
    (fun s x => s.beginWork die.val core.val (5 + n.val) x.ticket ((dmeRows x).flatMap (rowParts 1 (x.par 32 4))) 0))

/-- The checks of DME_MCAST: the destination is a place of a package, not of one package. -/
def mcastCheck (x : Desc) : Nat := if x.par 24 8 / 2 ^ 46 ≠ 0 then dsBAD_DESC else dmeCheck x 12

/-- DME_MCAST (R325, R327). -/
def execDmeMcast (die : Fin 8) (core : Fin 136) (n : Fin 3) (s : State) : Result :=
  .next (s.engineOp die.val core.val (5 + n.val) 0x03 (fun _ x => mcastCheck x)
    (fun s x => s.beginWork die.val core.val (5 + n.val) x.ticket ((dmeRows x).flatMap (rowParts 2 (x.par 32 4))) 0))

/-- The parts of a stream (R328): its bytes in order, cut at the blocks of the ring, each with the bytes that must be released before it is read. -/
def streamParts (x : Desc) : List Xfer :=
  let len := x.par 32 4
  let ring := 2 ^ (x.par 59 5 % 32)
  let dst := x.par 24 8
  let total := len * (dmeRows x).length
  let src := fun (j : Nat) => (((dmeRows x).getD (j / len) (0, 0)).1 + j % len) % 2 ^ 64
  let laps := (List.range ((total + ring - 1) / ring)).flatMap (fun i => (cuts dst (min ring (total - i * ring))).map (fun o => (i * ring + o.1, o.2)))
  laps.map (fun o =>
    let a := dst + o.1 % ring
    { n := 0, dst := a, how := 0, gate := o.1 + o.2
      parts := (List.range (o.2 / len + 2)).flatMap (fun i =>
        let lo := max o.1 (len * (o.1 / len + i))
        let hi := min (o.1 + o.2) (len * (o.1 / len + i + 1))
        if lo < hi then pieces (src lo) (hi - lo) else []) })

/-- The checks of DME_STREAM (R328): the ring is 4 KiB to 64 MiB of an SRAM of its die, its release object a counter of the core's owner. -/
def Chip.streamCheck (c : Chip) (d k : Nat) (x : Desc) : Nat :=
  let ring := x.par 59 5 % 32
  let a := x.par 24 8 % 2 ^ 46
  let isCounter : Bool := match getKey (fget (x.par 59 5) 20 5) c.sync.objs with
    | some o => o.kind == 1 && o.tenant == c.coreOwner d k
    | none => false
  if ring < 12 ∨ 26 < ring ∨ !bitOf (x.par 58 1) 0 ∨ bitOf (x.par 58 1) 2 ∨ !c.onDie d (x.par 24 8)
      ∨ rangeOf a ≠ .sram ∨ sramBase d 0 + 0x40000000 < a + 2 ^ ring ∨ !isCounter then dsBAD_DESC
  else dmeCheck x 21

/-- DME_STREAM (R328): a ring in the stacked SRAM of the own die, released by a counter of the tenant. -/
def execDmeStream (die : Fin 8) (core : Fin 136) (n : Fin 3) (s : State) : Result :=
  .next (s.engineOp die.val core.val (5 + n.val) 0x04 (fun s x => s.chip.streamCheck die.val core.val x)
    (fun s x => s.beginWork die.val core.val (5 + n.val) x.ticket (streamParts x) 0))

/-- The stores of one row of a DME_FILL: the eight-byte pattern, from its first byte at the row's address. -/
def fillParts (x : Desc) (r : Nat × Nat) : List Xfer :=
  let pat := leBytes 8 (x.par 16 8)
  (cuts r.2 (x.par 32 4)).map (fun o => ({ n := 0, dst := (r.2 + o.1) % 2 ^ 64, parts := [], got := (List.range o.2).map (fun j => pat.getD ((o.1 + j) % 8) 0) } : Xfer))

/-- DME_FILL (R325): the pattern, repeated from the first byte of each row. -/
def execDmeFill (die : Fin 8) (core : Fin 136) (n : Fin 3) (s : State) : Result :=
  .next (s.engineOp die.val core.val (5 + n.val) 0x05 (fun _ x => dmeCheck x 0)
    (fun s x => s.beginWork die.val core.val (5 + n.val) x.ticket ((dmeRows x).flatMap (fillParts x)) 0))

/-- The body checks of a DME ATOMIC (R329). -/
def atomicCheck (x : Desc) : Nat :=
  let w := x.par 32 4
  let fn := x.par 59 5
  let dst := x.par 24 8
  let cas := fn == 1
  let src := x.par 16 8
  let out := x.par 40 4
  if 0x0A < fn ∨ !(w == 4 || w == 8 || (w == 16 && cas)) ∨ !x.zero 36 4 ∨ !x.zero 44 14 ∨ Nat.land (x.par 58 1) 0xFD ≠ 0
      ∨ dst % (if cas then 2 * w else w) ≠ 0 ∨ src % (2 * w) ≠ 0 ∨ out % w ≠ 0 ∨ !opcodeTargets opATOMIC (rangeOf (dst % 2 ^ 46)) then dsBAD_DESC
  else if !inScratch src (if cas then 2 * w else w) || !inScratch out (if cas then 2 * w else w) then dsBAD_ADDR
  else 0

/-- DME_ATOMIC (R329). -/
def execDmeAtomic (die : Fin 8) (core : Fin 136) (n : Fin 3) (s : State) : Result :=
  .next (s.engineOp die.val core.val (5 + n.val) 0x06 (fun _ x => atomicCheck x) (fun s x =>
    let w := x.par 32 4
    let len := if x.par 59 5 = 1 then 2 * w else w
    s.beginWork die.val core.val (5 + n.val) x.ticket
      [{ n := 0, dst := x.par 24 8, parts := [], got := s.scr die.val core.val (x.par 16 8) len, how := 6 }] 0))

end Sys2Proof.Machine
end

