-- ==== Sys2Proof/Machine/Matrix.lean ====
section
/-! DEFINITION. Number formats and the matrix engine (R336 to R367). -/

namespace Sys2Proof.Machine

/-! Formats (R336 to R340). -/

/-- Bits per element of a format code. -/
def codeBits (f : Nat) : Nat :=
  if f = 0 ∨ f = 0xC then 32 else if f = 1 ∨ f = 2 then 16 else if f = 7 ∨ f = 8 then 6 else if f = 9 ∨ f = 0xB then 4 else 8

/-- Whether a format code is MX, or an integer. -/
def isMx (f : Nat) : Bool := decide (5 ≤ f) && decide (f ≤ 9)
def isInt (f : Nat) : Bool := decide (0xA ≤ f) && decide (f ≤ 0xC)

/-- The layout of the element of a float format code. -/
def codeFmt (f : Nat) : Fmt :=
  if f = 0 then fp32 else if f = 1 then bf16 else if f = 2 then fp16 else if f = 3 ∨ f = 5 then ⟨4, 3⟩ else if f = 4 ∨ f = 6 then ⟨5, 2⟩
  else if f = 7 then ⟨2, 3⟩ else if f = 8 then ⟨3, 2⟩ else ⟨2, 1⟩

/-- The MXE's own form of an FP32 input (R340). -/
def rf32 : Fmt := ⟨8, 11⟩

/-- The value of an encoding whose exponent field has no special code. -/
def Fmt.plain (f : Fmt) (b : Nat) : Fv :=
  let neg := bitOf b (f.eb + f.mb)
  let ex := fget b (f.eb + f.mb - 1) f.mb
  let m := b % 2 ^ f.mb
  if ex = 0 then .fin neg m f.qmin else .fin neg (m + 2 ^ f.mb) (f.qmin + (ex - 1 : Nat))

/-- The value of a stored element (R337, R338). -/
def elemVal (f b : Nat) : Fv :=
  if isInt f then (let x := toSigned (codeBits f) b; .fin (decide (x < 0)) x.natAbs 0)
  else if f = 3 ∨ f = 5 then (if b % 128 = 0x7F then .nan false else Fmt.plain ⟨4, 3⟩ b)
  else if 7 ≤ f then (codeFmt f).plain b
  else (codeFmt f).val b

/-- The value of an MXE input, and whether reducing it to RF32 made it infinite (R340). -/
def inputVal (f b : Nat) : Fv × Bool :=
  if f = 0 then (let r := Fmt.conv fp32 rf32 .rne b; (rf32.val r.1, r.2.of)) else (elemVal f b, false)

/-- An exact product. -/
def Fv.mulX (a b : Fv) : Fv :=
  match a, b with
  | .fin s m e, .fin t n g => .fin (s != t) (m * n) (e + g)
  | .inf s, .inf t => .inf (s != t)
  | .inf s, .fin t n _ => if n = 0 then .nan false else .inf (s != t)
  | .fin s m _, .inf t => if m = 0 then .nan false else .inf (s != t)
  | _, _ => .nan false

/-- An exact sum. -/
def Fv.addX (a b : Fv) : Fv :=
  match a, b with
  | .fin s m e, .fin t n g =>
    let q := min e g
    let x := sgn s m * (2 ^ (e - q).toNat : Nat) + sgn t n * (2 ^ (g - q).toNat : Nat)
    .fin (decide (x < 0)) x.natAbs q
  | .inf s, .inf t => if s = t then .inf s else .nan false
  | .inf s, .fin _ _ _ => .inf s
  | .fin _ _ _, .inf t => .inf t
  | _, _ => .nan false

/-- The value of an E8M0 scale byte (R338). -/
def scaleVal (e : Nat) : Fv := if e = 255 then .nan false else .fin false 1 ((e : Int) - 127)

/-- Elements packed in bytes (R338): `n` elements of `bits` bits from the little-endian number of their bytes. -/
def unpack (bits n w : Nat) : List Nat := (List.range n).map (fun i => w / 2 ^ (bits * i) % 2 ^ bits)

/-- Bytes of `n` packed elements. -/
def packedBytes (bits n : Nat) : Nat := (bits * n + 7) / 8

/-- Elements packed into a little-endian number. -/
def pack (bits : Nat) (l : List Nat) : Nat := l.foldr (fun v a => v % 2 ^ bits + 2 ^ bits * a) 0

/-- `n` packed elements in a core's scratch. -/
def State.elems (s : State) (d k a bits n : Nat) : List Nat := unpack bits n (s.scrNat d k a (packedBytes bits n))

/-- Whether a value is a float zero, and its magnitude against another's. -/
def Fv.isZero : Fv → Bool
  | .fin _ m _ => m == 0
  | _ => false
def Fv.abs : Fv → Fv
  | .fin _ m e => .fin false m e
  | .inf _ => .inf false
  | .nan x => .nan x

/-! Tiles (R341). -/

/-- The elements of a tile, row-major. -/
def Chip.tile (c : Chip) (d k t : Nat) : List Nat := (getKey (d, k, t) c.mxe.tiles).getD (List.replicate 8192 0)

/-- A tile holds other elements, of a kind. -/
def Chip.setTile (c : Chip) (d k t : Nat) (l : List Nat) (int : Bool) : Chip :=
  let c := c.onMxe (fun x => { x with tiles := if l.all (fun v => v == 0) then delKey (d, k, t) x.tiles else putKey (d, k, t) l x.tiles })
  c.wr ⟨R.CMP_MXE_STATE d k, 16 + t, 16 + t⟩ (b2n int)

/-- Whether a tile has kind INT32. -/
def Chip.tileInt (c : Chip) (d k t : Nat) : Bool := bitOf (c.rd (R.CMP_MXE_STATE_TILE_INT d k)) t

/-! Flags (R353): NX 1, UF 2, OF 4, NV 8, SAT 16, IOVF 32. -/

/-- Flags are raised; the status of the descriptor whose FLAG_ERR is `err`. -/
def Chip.raiseMxe (c : Chip) (d k flags err : Nat) : Chip × Nat :=
  let o : FRef := ⟨R.CMP_MXE_FLAGS d k, 5, 0⟩
  (c.wr o (Nat.lor (c.rd o) flags), if Nat.land flags err = 0 then stOK else 0x47)

/-- The tile that a descriptor of queue 0 names. -/
def Desc.tile (x : Desc) : Nat := if x.opc = 1 then x.par 28 1 % 8 else x.par 27 1 % 8

/-- Whether the unit of a descriptor of queue 0 is free and no earlier running descriptor names its tile (R354). -/
def Chip.mxeReady (c : Chip) (d k : Nat) : Bool :=
  match c.startsDesc d k 0 with
  | none => true
  | some x => (c.descs d k 0).all (fun y => !y.begun || ((y.opc == 1) != (x.opc == 1) && y.tile != x.tile))

/-! MMA (R342 to R347, R359 to R367). -/

/-- The operand A as the array takes it: for each row its present elements with their k, and its scale bytes by block. -/
structure MmaA where
  rows : List (List (Nat × Nat))
  scales : List (List Nat)
  deriving DecidableEq, Repr

/-- A record of a block-sparse tile (R363): its bitmap, its 32 scale bytes, the address of its blocks. -/
structure TileRec where
  bitmap : Nat
  scales : List Nat
  blocks : Nat
  deriving DecidableEq, Repr

/-- Bytes of a record with a number of present blocks (R363). -/
def recBytes (f count : Nat) : Nat := 64 + (count * 8 * codeBits f + 63) / 64 * 64

/-- The records of a panel of `n` tiles from offset `off` (R364); none where one breaks its format. -/
def State.panel (s : State) (d k a len f : Nat) : Nat → Nat → Option (List TileRec)
  | 0, _ => some []
  | n + 1, off =>
    if len < off + 64 then none
    else
      let h := s.scr d k (a + off) 64
      let bm := leField h 0 2
      let count := h.getD 3 0
      if h.getD 2 0 ≠ f ∨ count ≠ popCount 16 bm ∨ leField h 4 28 ≠ 0 ∨ (!isMx f ∧ leField h 32 32 ≠ 0) ∨ len < off + recBytes f count then none
      else (s.panel d k a len f n (off + recBytes f count)).map (fun l => ⟨bm, h.drop 32, a + off + 64⟩ :: l)

/-- The elements of block `b` of a record, row-major; none where the block is absent. -/
def State.blockElems (s : State) (d k f : Nat) (r : TileRec) (b : Nat) : Option (List Nat) :=
  if bitOf r.bitmap b then some (s.elems d k (r.blocks + popCount b (r.bitmap % 2 ^ b) * 8 * codeBits f) (codeBits f) 64) else none

/-- A of a dense or 2:4 MMA (R343, R360). -/
def State.plainA (s : State) (d k : Nat) (x : Desc) : MmaA :=
  let f := fget (x.par 29 1) 3 0
  let bits := codeBits f
  let m := x.par 24 2
  let kk := x.par 26 2
  let a := x.par 16 4
  let lda := x.par 32 4
  let sparse := fget (x.par 31 1) 5 4 == 1
  let row := fun (i : Nat) =>
    if sparse then
      let l := s.elems d k (a + i * lda) bits (kk / 2)
      let codes := s.scrNat d k (x.par 48 4 + i * (kk / 8)) (kk / 8)
      (List.range (kk / 2)).map (fun j =>
        let code := codes / 2 ^ (4 * (j / 2)) % 16
        (4 * (j / 2) + (if j % 2 = 0 then code % 4 else code / 4), l.getD j 0))
    else if bitOf (x.par 31 1) 1 then (List.range kk).map (fun j => (j, s.scrNat d k (a + j * lda + i * (bits / 8)) (bits / 8)))
    else (s.elems d k (a + i * lda) bits kk).mapIdx (fun j v => (j, v))
  { rows := (List.range m).map row
    scales := (List.range m).map (fun i => if isMx f then s.scr d k (x.par 40 4 + i * (kk / 32)) (kk / 32) else []) }

/-- A of a block-mode MMA from its records (R365, R366). -/
def State.panelA (s : State) (d k : Nat) (x : Desc) (recs : List TileRec) : MmaA :=
  let f := fget (x.par 29 1) 3 0
  let cols := x.par 26 2 / 32
  let rec_ := fun (tr tc : Nat) => recs.getD (tr * cols + tc) ⟨0, [], 0⟩
  let row := fun (i : Nat) => (List.range (4 * cols)).flatMap (fun j =>
    match s.blockElems d k f (rec_ (i / 32) (j / 4)) (i % 32 / 8 * 4 + j % 4) with
    | some l => ((l.drop (i % 8 * 8)).take 8).mapIdx (fun c v => (8 * j + c, v))
    | none => [])
  { rows := (List.range (x.par 24 2)).map row
    scales := (List.range (x.par 24 2)).map (fun i => if isMx f then (List.range cols).map (fun tc => (rec_ (i / 32) tc).scales.getD (i % 32) 0) else []) }

/-- The B buffer that an MMA without REUSE_B loads (R343). -/
def State.loadB (s : State) (d k : Nat) (x : Desc) : MxeB :=
  let f := fget (x.par 29 1) 7 4
  let bits := codeBits f
  let n := x.par 30 1 % 64 + 1
  let kk := x.par 26 2
  let b := x.par 20 4
  let ldb := x.par 36 4
  let elems := if bitOf (x.par 31 1) 2 then (List.range n).flatMap (fun j => s.elems d k (b + j * ldb) bits kk)
    else
      let rows := (List.range kk).map (fun i => s.elems d k (b + i * ldb) bits n)
      (List.range n).flatMap (fun j => rows.map (fun r => r.getD j 0))
  ⟨kk, f, n, elems, if isMx f then s.scr d k (x.par 44 4) (n * (kk / 32)) else []⟩

/-- Element (k, n) of the B buffer; of a column that was not loaded, a free value. -/
def MxeB.elem (b : MxeB) (n k draw : Nat) : Nat := if n < b.cols then b.elems.getD (n * b.k + k) 0 else Config.staleB n k draw % 2 ^ codeBits b.fmt

/-- The scale of a block of a column of the B buffer. -/
def MxeB.scale (b : MxeB) (n kb draw : Nat) : Fv :=
  if !isMx b.fmt then .fin false 1 0 else scaleVal (if n < b.cols then b.scales.getD (n * (b.k / 32) + kb) 0 else Config.staleB n (b.k + kb) draw % 256)

/-- One element of a float product (R345, R346): the accumulator after every group, and the flags. `row` holds the present elements of A as values by k; a group that holds none contributes
nothing, whatever the scales are (R361, R366). -/
def mmaFloat (g : Nat) (row : List (Nat × Fv)) (sa : Nat → Fv) (col : Nat → Fv) (sb : Nat → Fv) (kk : Nat) (acc : Nat) : Nat × Nat :=
  (List.range (kk / g)).foldl (fun (a : Nat × Nat) i =>
    let held := row.filter (fun p => p.1 / g == i)
    let sum := held.foldl (fun (v : Fv) p => v.addX (p.2.mulX (col p.1))) (.fin false 0 0)
    let sum := (sum.mulX (sa (g * i / 32))).mulX (sb (g * i / 32))
    if held.isEmpty || sum.isZero then a
    else
      let r := (fp32.addV .rne (fp32.val a.1) sum).1
      let finite := fun (v : Fv) => (match v with | .fin _ _ _ => true | _ => false)
      let inf := (match fp32.val r with | .inf _ => true | _ => false)
      (r, Nat.lor a.2 ((if sum.isNan then 8 else 0) + (if inf && finite (fp32.val a.1) && finite sum then 4 else 0)))) (acc, 0)

/-- One element of an integer product (R347). -/
def mmaInt (row : List (Nat × Int)) (col : Nat → Int) (g kk acc : Nat) : Nat × Nat :=
  (List.range (kk / g)).foldl (fun (a : Nat × Nat) i =>
    let x := toSigned 32 a.1 + ((row.filter (fun p => p.1 / g == i)).map (fun p => p.2 * col p.1)).sum
    (ofSigned 32 x, if x < -(2 ^ 31 : Int) ∨ (2 ^ 31 : Int) ≤ x then Nat.lor a.2 32 else a.2)) (acc, 0)

/-- The product added to a tile (R345 to R347): its new elements and the flags. -/
def mmaTile (a : MmaA) (b : MxeB) (fa n draw : Nat) (old : List Nat) : List Nat × Nat :=
  let g := if codeBits fa ≤ 8 ∧ codeBits b.fmt ≤ 8 then 32 else 4
  let int := isInt fa
  let rows := a.rows.map (fun r => r.map (fun p => (p.1, inputVal fa p.2)))
  let cols := (List.range n).map (fun j => (List.range b.k).map (fun k => inputVal b.fmt (b.elem j k draw)))
  let tooBig := rows.any (fun r => r.any (fun p => p.2.2)) || cols.any (fun l => l.any (fun v => v.2))
  let at_ := fun (i j : Nat) =>
    let acc := old.getD (64 * i + j) 0
    let row := rows.getD i []
    let col := cols.getD j []
    if int then mmaInt ((a.rows.getD i []).map (fun p => (p.1, toSigned (codeBits fa) p.2))) (fun k => toSigned (codeBits b.fmt) (b.elem j k draw)) g b.k acc
    else mmaFloat g (row.map (fun p => (p.1, p.2.1))) (fun kb => if isMx fa then scaleVal ((a.scales.getD i []).getD kb 0) else .fin false 1 0)
      (fun k => (col.getD k (.fin false 0 0, false)).1) (fun kb => b.scale j kb draw) b.k acc
  let cells := (List.range 8192).map (fun e => if e / 64 < a.rows.length ∧ e % 64 < n then at_ (e / 64) (e % 64) else (old.getD e 0, 0))
  (cells.map (·.1), cells.foldl (fun f c => Nat.lor f c.2) (if tooBig && !int then 4 else 0))

/-- The last byte of a strided operand, plus one. -/
def strided (a rows stride bytes : Nat) : Nat := if rows = 0 ∨ bytes = 0 then a else a + (rows - 1) * stride + bytes

/-- The checks of an MMA (R342 to R344, R359, R360, R365). -/
def State.mmaCheck (s : State) (d k : Nat) (x : Desc) : Nat :=
  let fa := fget (x.par 29 1) 3 0
  let fb := fget (x.par 29 1) 7 4
  let m := x.par 24 2
  let kk := x.par 26 2
  let n := x.par 30 1 % 64 + 1
  let o := x.par 31 1
  let reuse := bitOf o 0
  let at_ := bitOf o 1
  let bt := bitOf o 2
  let sparse := fget o 5 4
  let bitsA := codeBits fa
  let bitsB := codeBits fb
  let lda := x.par 32 4
  let ldb := x.par 36 4
  let blk := sparse == 2
  let kA := if sparse = 1 then kk / 2 else kk
  let buf := getKey (d, k) s.chip.mxe.bufs
  let reuseBad : Bool := reuse && (match buf with
    | none => true
    | some b => b.k != kk || b.fmt != fb)
  let bad :=
    decide (0xB < fa) || decide (0xB < fb) || isInt fa != isInt fb || m == 0 || decide (128 < m) || kk % 32 != 0
    || decide (65536 < kk * 64 * bitsB / 8) || decide (63 < x.par 30 1) || decide (15 < x.par 28 1) || bitOf o 3 || decide (63 < o) || sparse == 3
    || x.par 16 4 % 64 != 0 || x.par 20 4 % 64 != 0 || (reuse && !(x.zero 20 4 && x.zero 36 4))
    || ldb % 64 != 0 || (!blk && lda % 64 != 0)
    || (at_ && decide (bitsA < 8)) || (bt && decide (bitsB < 8))
    || (!blk && !at_ && decide (8 * lda < kA * bitsA)) || (!reuse && !bt && decide (8 * ldb < n * bitsB))
    || (!(isMx fa && !blk) && !x.zero 40 4) || (!(isMx fb && !reuse) && !x.zero 44 4)
    || (if sparse = 1 then x.par 48 4 % 64 != 0 else !x.zero 48 4) || (sparse != 0 && at_)
    || (blk && (m % 32 != 0 || fa == 0)) || decide (63 < x.par 52 1) || !x.zero 53 11
    || (!bitOf (x.par 28 1) 3 && s.chip.tileInt d k x.tile != isInt fa) || reuseBad
  let inA := if blk then inScratch (x.par 16 4) lda
    else if at_ then decide (strided (x.par 16 4) kk lda (m * bitsA / 8) ≤ coreScratch)
    else decide (strided (x.par 16 4) m lda (packedBytes bitsA kA) ≤ coreScratch)
  let inB := reuse || (if bt then decide (strided (x.par 20 4) n ldb (packedBytes bitsB kk) ≤ coreScratch)
    else decide (strided (x.par 20 4) kk ldb (packedBytes bitsB n) ≤ coreScratch))
  let inS := (!(isMx fa && !blk) || inScratch (x.par 40 4) (m * (kk / 32))) && (!(isMx fb && !reuse) || inScratch (x.par 44 4) (n * (kk / 32)))
    && (sparse != 1 || inScratch (x.par 48 4) (m * (kk / 8)))
  if bad then dsBAD_DESC else if !(inA && inB && inS) then dsBAD_ADDR else 0

/-- The cycles of k-steps of an MMA (R356, R362, R367): four times the rate r is 1, 2, 4 or 8. -/
def mmaCycles (fa fb kk sparse pMax : Nat) : Nat :=
  let r4 := fun (f : Nat) => if codeBits f = 32 then 1 else if codeBits f = 16 then 2 else if codeBits f = 8 then 4 else 8
  let r := min (r4 fa) (r4 fb)
  if sparse = 2 then (32 * pMax + r - 1) / r else if sparse = 1 then (2 * kk + r - 1) / r else (4 * kk + r - 1) / r

/-- Present blocks in each band of a panel (R366). -/
def bandBlocks (recs : List TileRec) (tileRows cols : Nat) : List Nat :=
  (List.range (4 * tileRows)).map (fun b => ((List.range cols).map (fun tc => popCount 4 ((recs.getD (b / 4 * cols + tc) ⟨0, [], 0⟩).bitmap / 2 ^ (4 * (b % 4)) % 16))).sum)

/-- A descriptor ends BAD_META: counted and recorded (R359). -/
def Chip.badMeta (c : Chip) (d k q ticket e opc : Nat) : Chip :=
  (((c.workDone d k q ticket 0x48).count (R.CMP_SPE_ERRS_BAD_META d k)).event Ev.badMeta (some (c.coreOwner d k)) (Unit.engine d k e) [opc])

/-- An MMA with its operand A runs (R345). -/
def State.mmaRun (s : State) (d k : Nat) (x : Desc) (a : MmaA) (cycles skipped : Nat) : State :=
  let fa := fget (x.par 29 1) 3 0
  let n := x.par 30 1 % 64 + 1
  let t := x.tile
  let b := if bitOf (x.par 31 1) 0 then (getKey (d, k) s.chip.mxe.bufs).getD ⟨0, 0, 0, [], []⟩ else s.loadB d k x
  let old := if bitOf (x.par 28 1) 3 then List.replicate 8192 0 else s.chip.tile d k t
  let (draw, c) := s.chip.draw
  let r := mmaTile a b fa n draw old
  let c := (c.setTile d k t r.1 (isInt fa)).onMxe (fun y => { y with bufs := putKey (d, k) b y.bufs })
  let c := ((c.wr (R.CMP_MXE_STATE_B_VALID d k) 1).wr (R.CMP_MXE_STATE_B_FMT d k) b.fmt).wr (R.CMP_MXE_STATE_ARRAY_BUSY d k) 1
  let c := c.wr (R.CMP_MXE_STATE_TICKET d k) x.ticket
  let active := c.rdPair (R.CMP_MXE_ACTIVE_LO_CYCLES d k) (R.CMP_MXE_ACTIVE_HI_CYCLES d k)
  let c := c.wrPair (R.CMP_MXE_ACTIVE_LO_CYCLES d k) (R.CMP_MXE_ACTIVE_HI_CYCLES d k) ((active + cycles) % 2 ^ 48)
  let skips := c.rdPair (R.CMP_SKIP_LO_BLOCKS d k) (R.CMP_SKIP_HI_BLOCKS d k)
  let c := c.wrPair (R.CMP_SKIP_LO_BLOCKS d k) (R.CMP_SKIP_HI_BLOCKS d k) ((skips + skipped) % 2 ^ 48)
  let (c, status) := c.raiseMxe d k r.2 (x.par 52 1)
  { s with chip := c.workDone d k 0 x.ticket status }

/-- MMA (R342 to R347, R359 to R367). -/
def execMma (die : Fin 8) (core : Fin 136) (s : State) : Result :=
  let d := die.val
  let k := core.val
  .next (if !s.chip.mxeReady d k then s
    else s.engineOp d k 0 0x01 (fun s x => s.mmaCheck d k x) (fun s x =>
      let fa := fget (x.par 29 1) 3 0
      let fb := fget (x.par 29 1) 7 4
      let kk := x.par 26 2
      let sparse := fget (x.par 31 1) 5 4
      if sparse = 2 then
        let rows := x.par 24 2 / 32
        match s.panel d k (x.par 16 4) (x.par 32 4) fa (rows * (kk / 32)) 0 with
        | none => s.onChip (fun c => c.badMeta d k 0 x.ticket 0 1)
        | some recs =>
          let bands := bandBlocks recs rows (kk / 32)
          s.mmaRun d k x (s.panelA d k x recs) (mmaCycles fa fb kk 2 (bands.foldl max 0)) (bands.length * (kk / 8) - bands.sum)
      else s.mmaRun d k x (s.plainA d k x) (mmaCycles fa fb kk sparse 0) 0))

/-! ACC_LOAD and ACC_STORE (R348 to R352). -/

/-- The checks of ACC_LOAD. -/
def accLoadCheck (x : Desc) : Nat :=
  let m := x.par 24 2
  let n := x.par 26 1 % 64 + 1
  let lds := x.par 20 4
  if m = 0 ∨ 128 < m ∨ 63 < x.par 26 1 ∨ 15 < x.par 27 1 ∨ x.par 16 4 % 64 ≠ 0 ∨ lds % 64 ≠ 0 ∨ lds < 4 * n ∨ !x.zero 28 36 then dsBAD_DESC
  else if coreScratch < strided (x.par 16 4) m lds (4 * n) then dsBAD_ADDR
  else 0

/-- The accumulator port works for a descriptor. -/
def Chip.portBusy (c : Chip) (d k : Nat) : Chip := c.wr (R.CMP_MXE_STATE_PORT_BUSY d k) 1

/-- ACC_LOAD (R348). -/
def execAccLoad (die : Fin 8) (core : Fin 136) (s : State) : Result :=
  let d := die.val
  let k := core.val
  .next (if !s.chip.mxeReady d k then s
    else s.engineOp d k 0 0x02 (fun _ x => accLoadCheck x) (fun s x =>
      let m := x.par 24 2
      let n := x.par 26 1 % 64 + 1
      let l := (List.range 8192).map (fun e => if e / 64 < m ∧ e % 64 < n then s.scrNat d k (x.par 16 4 + e / 64 * x.par 20 4 + 4 * (e % 64)) 4 else 0)
      s.onChip (fun c => ((c.setTile d k x.tile l (bitOf (x.par 27 1) 3)).portBusy d k).workDone d k 0 x.ticket stOK)))

/-- One step of the LFSR, and sixteen (R351, R352). -/
def lfsrStep (v : Nat) : Nat := if v % 2 = 1 then Nat.xor (v / 2) 0x80200003 else v / 2
def lfsr16 (v : Nat) : Nat := (List.range 16).foldl (fun v _ => lfsrStep v) v

/-- The LFSR loaded with a value. -/
def lfsrLoad (v : Nat) : Nat := if v = 0 then 1 else v

/-- The directed mode of an RMODE other than stochastic. -/
def storeRm (mode : Nat) : Rm := if mode = 0 then .rne else if mode = 1 then .rtz else if mode = 2 then .rdn else .rup

/-- A magnitude rounded by RMODE to `p` bits, unit not below 2^qmin, with a draw `r` for stochastic rounding (R349, R352): integer, exponent, inexact. -/
def storeRound (mode r : Nat) (neg : Bool) (p : Nat) (qmin : Int) (m : Nat) (e : Int) : Nat × Int × Bool :=
  if mode ≠ 4 then roundTo (storeRm mode) neg p qmin m e false
  else
    let q := max (e + bitLen m - p) qmin
    if q ≤ e then (m * 2 ^ (e - q).toNat, q, false)
    else
      let n := (q - e).toNat
      let t := m / 2 ^ n
      ((if 65536 ≤ m % 2 ^ n * 65536 / 2 ^ n + r then t + 1 else t), q, m % 2 ^ n != 0)

/-- The largest finite code of a float format, without sign. -/
def topCode (f : Nat) : Nat := if f = 3 ∨ f = 5 then 0x7E else if f = 7 ∨ f = 8 then 0x1F else if f = 9 then 7 else (codeFmt f).maxBits

/-- The canonical NaN of a format; +0 where it has none (R337, R349). -/
def nanCode (f : Nat) : Nat := if f = 3 ∨ f = 5 then 0x7F else if f = 4 ∨ f = 6 then 0x7E else if 7 ≤ f then 0 else (codeFmt f).qnan

/-- What a float output takes beyond its range (R349): code and flag. `mx`: an element of an MX block (R350). -/
def beyond (f : Nat) (ovf mx : Bool) (mode : Nat) (neg : Bool) : Nat × Nat :=
  let sg := fun (b : Nat) => (codeFmt f).signed neg b
  if !ovf || mx || decide (7 ≤ f) then (sg (topCode f), 16)
  else if f = 3 then (0x7F, 4)
  else if mode = 0 ∨ (mode = 2 ∧ neg) ∨ (mode = 3 ∧ !neg) then (sg (codeFmt f).infBits, 4)
  else (sg (topCode f), 4)

/-- Whether a magnitude lies beyond the largest finite value of a float format. -/
def beyondTop (f m : Nat) (e : Int) : Bool := (Fv.lt ((codeFmt f).plain (topCode f)) (.fin false m e)).getD false

/-- A value rounded to a float format (R349): code and flags. An element of an MX block saturates where the quotient itself lies beyond the largest finite value (R350). A NaN that becomes +0
is inexact (R353). -/
def storeFloat (f : Nat) (ovf mx : Bool) (mode r : Nat) (v : Fv) : Nat × Nat :=
  match v with
  | .nan _ => (nanCode f, if nanCode f = 0 then 9 else 8)
  | .inf neg => (let b := beyond f ovf mx mode neg; (b.1, Nat.lor b.2 (if b.1 % (codeFmt f).signBit = (codeFmt f).infBits then 0 else 1)))
  | .fin neg m e =>
    let fm := codeFmt f
    if m = 0 then (fm.signed neg 0, 0)
    else if mx && beyondTop f m e then (fm.signed neg (topCode f), 17)
    else
      let (n, q, nx) := storeRound mode r neg (fm.mb + 1) fm.qmin m e
      let bits := (q - fm.qmin).toNat * 2 ^ fm.mb + n
      if topCode f < bits then (let b := beyond f ovf mx mode neg; (b.1, Nat.lor b.2 1))
      else (fm.signed neg bits, if nx then (if bits < 2 ^ fm.mb then 3 else 1) else 0)

/-- A value rounded to an integer format (R349, R353): code and flags. What is stored for a NaN or an infinity differs from it, and a nonzero value that becomes 0 has underflowed. -/
def storeInt (f mode r : Nat) (v : Fv) : Nat × Nat :=
  let w := codeBits f
  let top : Int := (2 ^ (w - 1) : Nat) - 1
  let low : Int := -((2 ^ (w - 1) : Nat) : Int)
  match v with
  | .nan _ => (0, 9)
  | .inf neg => (ofSigned w (if neg then low else top), 9)
  | .fin neg m e =>
    let (n, q, nx) := storeRound mode r neg (bitLen m + e.toNat + 1) 0 m e
    let x := sgn neg (n * 2 ^ q.toNat)
    if x < low then (ofSigned w low, 17) else if top < x then (ofSigned w top, 17) else (ofSigned w x, if nx then (if x = 0 then 3 else 1) else 0)

/-- The exponent X of an MX block (R350), from its largest magnitude. -/
def blockExp (f : Nat) (l : List Fv) : Int :=
  let emax : Int := if f = 5 then 8 else if f = 6 then 15 else if f = 8 then 4 else 2
  let lg := l.filterMap (fun v => match v with
    | .fin _ m e => if m = 0 then none else some (e + bitLen m - 1)
    | _ => none)
  max (-127) (min 127 (lg.foldl max (lg.headD 0) - emax))

/-- An MX block (R350): scale byte, codes and flags, with one draw for each element. A value of a block that holds a NaN or an infinity, other than a NaN itself, differs from what scale 0xFF
makes of it (R353). -/
def storeBlock (f mode : Nat) (l : List (Fv × Nat)) : Nat × List Nat × Nat :=
  let vs := l.map (·.1)
  let isInf := fun (v : Fv) => (match v with | .inf _ => true | _ => false)
  if vs.any (fun v => v.isNan || isInf v) then
    (255, vs.map (fun _ => 0), (if vs.any Fv.isNan then 8 else 0) + (if vs.any isInf then 4 else 0) + (if vs.all Fv.isNan then 0 else 1))
  else if vs.all Fv.isZero then (0, vs.map (fun _ => 0), 0)
  else
    let e := blockExp f vs
    let cs := l.map (fun p => storeFloat f false true mode p.2 (p.1.mulX (.fin false 1 (-e))))
    ((e + 127).toNat, cs.map (·.1), cs.foldl (fun a c => Nat.lor a c.2) 0)

/-- The checks of ACC_STORE (R348). -/
def accStoreCheck (x : Desc) : Nat :=
  let m := x.par 24 2
  let n := x.par 26 1 % 64 + 1
  let f := x.par 28 1 % 16
  let ldd := x.par 20 4
  let finite := fget (x.par 32 4) 30 23 != 255
  if m = 0 ∨ 128 < m ∨ 63 < x.par 26 1 ∨ 15 < x.par 27 1 ∨ x.par 16 4 % 64 ≠ 0 ∨ ldd % 64 ≠ 0 ∨ 8 * ldd < n * codeBits f ∨ 0xC < f ∨ 4 < fget (x.par 28 1) 6 4
      ∨ !x.zero 29 3 ∨ !finite ∨ 1 < x.par 40 1 ∨ !x.zero 41 3 ∨ (isMx f ∧ n % 32 ≠ 0) ∨ (!isMx f ∧ !x.zero 44 4) ∨ 63 < x.par 48 1 ∨ !x.zero 49 15 then dsBAD_DESC
  else if coreScratch < strided (x.par 16 4) m ldd (packedBytes (codeBits f) n) ∨ (isMx f ∧ !inScratch (x.par 44 4) (m * (n / 32))) then dsBAD_ADDR
  else 0

/-- The exact values of a row of a tile times SCALE. -/
def storeRow (int : Bool) (scale : Nat) (row : List Nat) : List Fv :=
  row.map (fun v => (if int then (let x := toSigned 32 v; Fv.fin (decide (x < 0)) x.natAbs 0) else fp32.val v).mulX (fp32.val scale))

/-- The draws of the elements of a store: the LFSR after each, and its last state (R352). -/
def draws : Nat → Nat → List Nat × Nat
  | 0, v => ([], v)
  | n + 1, v => let w := lfsr16 v; let r := draws n w; (w % 65536 :: r.1, r.2)

/-- One row of a store: scale bytes, codes and flags. -/
def storeCodes (f mode : Nat) (ovf copy : Bool) (raw : List Nat) (l : List (Fv × Nat)) : List Nat × List Nat × Nat :=
  if copy then ([], raw, 0)
  else if isMx f then
    let bs := (chunks 32 (l.length / 32) l).map (storeBlock f mode)
    (bs.map (·.1), bs.flatMap (fun b => b.2.1), bs.foldl (fun a b => Nat.lor a b.2.2) 0)
  else
    let cs := l.map (fun p => if isInt f then storeInt f mode p.2 p.1 else storeFloat f ovf false mode p.2 p.1)
    ([], cs.map (·.1), cs.foldl (fun a c => Nat.lor a c.2) 0)

/-- ACC_STORE (R348 to R352). -/
def execAccStore (die : Fin 8) (core : Fin 136) (s : State) : Result :=
  let d := die.val
  let k := core.val
  .next (if !s.chip.mxeReady d k then s
    else s.engineOp d k 0 0x03 (fun _ x => accStoreCheck x) (fun s x =>
      let m := x.par 24 2
      let n := x.par 26 1 % 64 + 1
      let f := x.par 28 1 % 16
      let bits := codeBits f
      let mode := fget (x.par 28 1) 6 4
      let tile := s.chip.tile d k x.tile
      let int := s.chip.tileInt d k x.tile
      let copy := f == 0 && !int && x.par 32 4 == 0x3F800000
      let start := if bitOf (x.par 40 1) 0 then lfsrLoad (x.par 36 4) else s.chip.rd (R.CMP_MXE_LFSR_STATE d k)
      let dr := draws (if mode = 4 then m * n else 0) start
      let (pad, c0) := s.chip.draw
      let rows := (List.range m).map (fun i =>
        let raw := (List.range n).map (fun j => tile.getD (64 * i + j) 0)
        storeCodes f mode (bitOf (x.par 28 1) 7) copy raw ((storeRow int (x.par 32 4) raw).mapIdx (fun j v => (v, dr.1.getD (n * i + j) 0))))
      let bytes := fun (cs : List Nat) => leBytes (packedBytes bits n) (pack bits cs + (if bits * n % 8 = 0 then 0 else 2 ^ (bits * n) * (Config.padBits pad % 16)))
      let s1 := { s with chip := c0 }
      let s2 := (rows.mapIdx (fun i r => (i, r))).foldl (fun (s : State) p =>
        (s.putScr d k (x.par 16 4 + p.1 * x.par 20 4) (bytes p.2.2.1)).putScr d k (x.par 44 4 + p.1 * (n / 32)) p.2.1) s1
      s2.onChip (fun c =>
        let c := c.wr (R.CMP_MXE_LFSR_STATE d k) dr.2
        let c := if bitOf (x.par 27 1) 3 then c.setTile d k x.tile (List.replicate 8192 0) int else c
        let (c, status) := c.raiseMxe d k (rows.foldl (fun a r => Nat.lor a r.2.2) 0) (x.par 48 1)
        (c.portBusy d k).workDone d k 0 x.ticket status)))

end Sys2Proof.Machine
end

