-- ==== Sys2Proof/Machine/Sparse.lean ====
section
/-! DEFINITION. The sparse-format engine and the top-k routing engine (R363 to R377). -/

namespace Sys2Proof.Machine

/-! Sparse-format engine (R368 to R370). -/

/-- Fields of an SPE body. -/
def Desc.speFmt (x : Desc) : Nat := x.par 36 1 % 16
def Desc.speRows (x : Desc) : Nat := x.par 32 2
def Desc.speCols (x : Desc) : Nat := x.par 34 2

/-- Whether two ranges (address, bytes) share a byte. -/
def overlaps (a b : Nat × Nat) : Bool := decide (a.1 < b.1 + b.2) && decide (b.1 < a.1 + a.2)

/-- The range of rows with a stride. -/
def rowsRange (a rows stride bytes : Nat) : Nat × Nat := (a, strided a rows stride bytes - a)

/-- The ranges that an SPE operation reads, and those it writes (R368). -/
def speRanges (op : Nat) (x : Desc) : List (Nat × Nat) × List (Nat × Nat) :=
  let bits := codeBits x.speFmt
  let rows := if op ≤ 2 then 32 * x.speRows else x.speRows
  let full := 4 * x.speCols * bits
  let half := 2 * x.speCols * bits
  let dense := fun (a stride : Nat) => rowsRange a rows stride full
  let ssc := if isMx x.speFmt ∧ op ≤ 2 then [(x.par 40 4, rows * x.speCols)] else []
  let metas := [(x.par 44 4, rows * x.speCols * 4)]
  if op = 1 then (dense (x.par 16 4) (x.par 24 4) :: ssc, [(x.par 20 4, x.par 52 4), (x.par 56 4, 16)])
  else if op = 2 then ([(x.par 16 4, x.par 52 4)], dense (x.par 20 4) (x.par 28 4) :: ssc)
  else if op = 3 then ([dense (x.par 16 4) (x.par 24 4)], rowsRange (x.par 20 4) rows (x.par 28 4) half :: metas)
  else (rowsRange (x.par 16 4) rows (x.par 24 4) half :: metas, [dense (x.par 20 4) (x.par 28 4)])

/-- The body checks of an SPE operation (R368). -/
def speCheck (op : Nat) (x : Desc) : Nat :=
  let f := x.speFmt
  let th := x.par 48 4
  let r := speRanges op x
  let unaligned := [16, 20, 40, 44, 56].any (fun a => x.par a 4 % 64 != 0)
  if unaligned || x.par 24 4 % 64 != 0 || x.par 28 4 % 64 != 0 || (op == 2 && !x.zero 24 4) || (op == 1 && !x.zero 28 4)
      || x.speRows == 0 || decide (4096 < x.speRows) || x.speCols == 0 || decide (2048 < x.speCols) || decide (15 < x.par 36 1) || !x.zero 37 3
      || decide (0xB < f) || (decide (op ≤ 2) && f == 0) || (!(isMx f && decide (op ≤ 2)) && !x.zero 40 4) || (decide (op ≤ 2) && !x.zero 44 4)
      || (op == 1 && (fget th 30 23 == 255 || (bitOf th 31 && th % 2 ^ 31 != 0))) || (op != 1 && !x.zero 56 4) || !x.zero 60 4
      || r.1.any (fun a => r.2.any (overlaps a)) then dsBAD_DESC
  else if (r.1 ++ r.2).any (fun a => !inScratch a.1 a.2) then dsBAD_ADDR
  else 0

/-- The 32 elements of a row segment of a dense region. -/
def State.segment (s : State) (d k a stride f row seg : Nat) : List Nat := s.elems d k (a + row * stride + seg * 4 * codeBits f) (codeBits f) 32

/-- The elements of block `b` of a tile given as 32 row segments, row-major. -/
def blockOf (segs : List (List Nat)) (b : Nat) : List Nat := (List.range 8).flatMap (fun r => ((segs.getD (b / 4 * 8 + r) []).drop (b % 4 * 8)).take 8)

/-- Whether a magnitude exceeds a threshold or is no number. -/
def Fv.above (v : Fv) (limit : Fv) : Bool := v.isNan || (limit.lt v.abs).getD false

/-- One tile of an ENCODE (R363, R368): its record's bytes, blocks present, blocks dropped that held a nonzero element. -/
def encodeTile (f th : Nat) (segs : List (List Nat)) (scales : List Nat) : List Nat × Nat × Nat :=
  let val := fun (b i v : Nat) => (elemVal f v).mulX (if isMx f then scaleVal (scales.getD (b / 4 * 8 + i / 8) 0) else .fin false 1 0)
  let kept := (List.range 16).map (fun b => ((blockOf segs b).mapIdx (val b)).any (fun v => v.above (fp32.val th)))
  let lost := ((List.range 16).filter (fun b => !kept.getD b false && ((blockOf segs b).mapIdx (val b)).any (fun v => !v.isZero))).length
  let present := (List.range 16).filter (fun b => kept.getD b false)
  let body := present.flatMap (fun b => leBytes (8 * codeBits f) (pack (codeBits f) (blockOf segs b)))
  let head := leBytes 2 ((present.map (fun b => 2 ^ b)).sum) ++ [f, present.length] ++ List.replicate 28 0 ++ (if isMx f then padTo 32 scales else List.replicate 32 0)
  (padTo (recBytes f present.length) (head ++ body), present.length, lost)

/-- The tiles of an ENCODE in order, until one does not fit (R369): bytes written, present, dropped, tiles, and whether all fitted. -/
def State.encodeTiles (s : State) (d k : Nat) (x : Desc) : List Nat → Nat → Nat → Nat → Nat → State × Nat × Nat × Nat × Nat × Bool
  | [], off, p, l, n => (s, off, p, l, n, true)
  | t :: ts, off, p, l, n =>
    let f := x.speFmt
    let tr := t / x.speCols
    let tc := t % x.speCols
    let segs := (List.range 32).map (fun i => s.segment d k (x.par 16 4) (x.par 24 4) f (32 * tr + i) tc)
    let scales := if isMx f then (List.range 32).map (fun i => s.scrNat d k (x.par 40 4 + (32 * tr + i) * x.speCols + tc) 1) else []
    let r := encodeTile f (x.par 48 4) segs scales
    if x.par 52 4 < off + r.1.length then (s, off, p, l, n, false)
    else (s.putScr d k (x.par 20 4 + off) r.1).encodeTiles d k x ts (off + r.1.length) (p + r.2.1) (l + r.2.2) (n + 1)

/-- ENCODE (R368, R369). -/
def execEncode (die : Fin 8) (core : Fin 136) (s : State) : Result :=
  let d := die.val
  let k := core.val
  .next (s.engineOp d k 3 0x01 (fun _ x => speCheck 1 x) (fun s x =>
    let (s, off, p, l, n, all) := s.encodeTiles d k x (List.range (x.speRows * x.speCols)) 0 0 0 0
    let s := s.putScr d k (x.par 56 4) ([off, p, l, n].flatMap (leBytes 4))
    if all then s.onChip (fun c => c.workDone d k 3 x.ticket stOK)
    else s.onChip (fun c => (((c.workDone d k 3 x.ticket 0x49).count (R.CMP_SPE_ERRS_PANEL_FULL d k)).event Ev.panelFull
      (some (c.coreOwner d k)) (Unit.engine d k 3) [1]))))

/-- DECODE (R368, R370): every header is checked before a byte is written. -/
def execDecode (die : Fin 8) (core : Fin 136) (s : State) : Result :=
  let d := die.val
  let k := core.val
  .next (s.engineOp d k 3 0x02 (fun _ x => speCheck 2 x) (fun s x =>
    let f := x.speFmt
    let bits := codeBits f
    let cols := x.speCols
    match s.panel d k (x.par 16 4) (x.par 52 4) f (x.speRows * cols) 0 with
    | none => s.onChip (fun c => c.badMeta d k 3 x.ticket 3 2)
    | some recs =>
      let rec_ := fun (tr tc : Nat) => recs.getD (tr * cols + tc) ⟨0, [], 0⟩
      let row := fun (i : Nat) => (List.range (4 * cols)).flatMap (fun j =>
        match s.blockElems d k f (rec_ (i / 32) (j / 4)) (i % 32 / 8 * 4 + j % 4) with
        | some l => (l.drop (i % 8 * 8)).take 8
        | none => List.replicate 8 0)
      let rows := (List.range (32 * x.speRows)).map (fun i =>
        (i, leBytes (4 * cols * bits) (pack bits (row i)), (List.range cols).map (fun tc => (rec_ (i / 32) tc).scales.getD (i % 32) 0)))
      let s := rows.foldl (fun (s : State) r =>
        let s := s.putScr d k (x.par 20 4 + r.1 * x.par 28 4) r.2.1
        if isMx f then s.putScr d k (x.par 40 4 + r.1 * cols) r.2.2 else s) s
      s.onChip (fun c => c.workDone d k 3 x.ticket stOK)))

/-- Whether a magnitude is greater than another; a NaN is the largest. -/
def Fv.greater (a b : Fv) : Bool := (a.isNan && !b.isNan) || (b.abs.lt a.abs).getD false

/-- The two positions of a group that PRUNE24 keeps, ascending (R368). -/
def keepTwo (f : Nat) (g : List Nat) : List Nat :=
  let v := fun (i : Nat) => elemVal f (g.getD i 0)
  let beaten := fun (i : Nat) => ((List.range 4).filter (fun j => (v j).greater (v i) || (!(v i).greater (v j) && decide (j < i)))).length
  (List.range 4).filter (fun i => decide (beaten i < 2))

/-- PRUNE24 (R368). -/
def execPrune24 (die : Fin 8) (core : Fin 136) (s : State) : Result :=
  let d := die.val
  let k := core.val
  .next (s.engineOp d k 3 0x03 (fun _ x => speCheck 3 x) (fun s x =>
    let f := x.speFmt
    let bits := codeBits f
    let n := 32 * x.speCols
    let s := (List.range x.speRows).foldl (fun (s : State) i =>
      let gs := chunks 4 (n / 4) (s.elems d k (x.par 16 4 + i * x.par 24 4) bits n)
      let keep := gs.map (fun g => (g, keepTwo f g))
      let elems := keep.flatMap (fun g => g.2.map (fun j => g.1.getD j 0))
      let codes := keep.map (fun g => g.2.getD 0 0 + 4 * g.2.getD 1 0)
      (s.putScr d k (x.par 20 4 + i * x.par 28 4) (leBytes (n / 2 * bits / 8) (pack bits elems))).putScr d k (x.par 44 4 + i * (n / 8)) (leBytes (n / 8) (pack 4 codes))) s
    s.onChip (fun c => c.workDone d k 3 x.ticket stOK)))

/-- EXPAND24 (R368): a group that names one position twice gives BAD_META. -/
def execExpand24 (die : Fin 8) (core : Fin 136) (s : State) : Result :=
  let d := die.val
  let k := core.val
  .next (s.engineOp d k 3 0x04 (fun _ x => speCheck 4 x) (fun s x =>
    let bits := codeBits x.speFmt
    let n := 32 * x.speCols
    let codes := fun (i : Nat) => unpack 4 (n / 4) (s.scrNat d k (x.par 44 4 + i * (n / 8)) (n / 8))
    let rows := (List.range x.speRows).map (fun i => (i, codes i, s.elems d k (x.par 16 4 + i * x.par 24 4) bits (n / 2)))
    if rows.any (fun r => r.2.1.any (fun c => c % 4 == c / 4)) then s.onChip (fun c => c.badMeta d k 3 x.ticket 3 4)
    else
      let group := fun (l : List Nat) (g c : Nat) => (List.range 4).map (fun j =>
        if j = c % 4 then l.getD (2 * g) 0 else if j = c / 4 then l.getD (2 * g + 1) 0 else 0)
      let s := rows.foldl (fun (s : State) r =>
        let elems := (r.2.1.mapIdx (fun g c => group r.2.2 g c)).flatten
        s.putScr d k (x.par 20 4 + r.1 * x.par 28 4) (leBytes (n * bits / 8) (pack bits elems))) s
      s.onChip (fun c => c.workDone d k 3 x.ticket stOK)))

/-! Top-k routing engine (R371 to R376). -/

/-- The fields of a ROUTE body. -/
structure RouteBody where
  t : Nat
  e : Nat
  k : Nat
  f : Nat
  cap : Nat
  score : Nat
  ovf : Nat
  priority : Bool
  clear : Bool
  lfmt : Nat
  ldl : Nat
  lstride : Nat
  trash : Nat
  deriving DecidableEq, Repr

/-- A ROUTE body read from its descriptor (R371). -/
def routeBody (x : Desc) : RouteBody :=
  let b := x.par 54 1
  ⟨x.par 48 2, x.par 50 1 + 1, x.par 51 1 % 16, x.par 51 1 / 16 + 1, x.par 52 2, b % 4, fget b 3 2, bitOf b 4, bitOf b 5, x.par 55 1, x.par 56 2, x.par 58 2, x.par 44 4⟩

/-- The body checks of ROUTE (R371). -/
def routeCheck (x : Desc) : Nat :=
  let r := routeBody x
  let size := (sfeFmt r.lfmt).size
  let disp := x.par 32 4
  let sidx := x.par 36 4
  let xbase := x.par 40 4
  let bias := x.par 28 4
  if r.t = 0 ∨ r.k = 0 ∨ 8 < r.k ∨ r.e < r.k ∨ r.cap = 0 ∨ r.score = 3 ∨ r.ovf = 3 ∨ 63 < x.par 54 1 ∨ 2 < r.lfmt ∨ r.ldl < r.e * size
      ∨ (disp ≠ 0 ∧ r.lstride < r.cap) ∨ (sidx ≠ 0 ∧ xbase = 0) then dsBAD_DESC
  else
    let arrays := [(x.par 16 4, (r.t - 1) * r.ldl + r.e * size), (x.par 20 4, r.t * r.k * 8), (x.par 24 4, r.e * 4), (x.par 60 4, 16)]
      ++ (if bias ≠ 0 then [(bias, r.e * 4)] else []) ++ (if disp ≠ 0 then [(disp, r.e * r.lstride * 4)] else [])
      ++ (if sidx ≠ 0 then [(sidx, r.k * r.t * r.f * 4), (xbase, r.e * 4)] else [])
    if arrays.any (fun a => !inScratch a.1 a.2) then dsBAD_ADDR else 0

/-- The expert of highest key among those that a condition admits, the lower number first (R372, R373). -/
def bestExpert (keys : List Nat) (ok : Nat → Bool) : Option Nat :=
  (List.range keys.length).foldl (fun (b : Option Nat) e =>
    if ok e then (match b with
      | none => some e
      | some y => if ((fp32.val (keys.getD y 0)).lt (fp32.val (keys.getD e 0))).getD false then some e else some y)
    else b) none

/-- The experts of ranks 0 to n − 1. -/
def topExperts (keys : List Nat) : Nat → List Nat
  | 0 => []
  | n + 1 => let l := topExperts keys n; match bestExpert keys (fun e => !l.contains e) with
    | some e => l ++ [e]
    | none => l

/-- A slot that is settled (R373, R374): token, rank, expert, reason, position. -/
structure RouteSlot where
  t : Nat
  j : Nat
  e : Nat
  reason : Nat
  pos : Nat
  deriving DecidableEq, Repr

/-- Whether a slot was accepted. -/
def RouteSlot.accepted (r : RouteSlot) : Bool := r.reason == 0 || r.reason == 3

/-- One slot is offered to capacity (R373): the counts and the settled slots after it. -/
def offer (b : RouteBody) (keys tops : Nat → List Nat) (a : List Nat × List RouteSlot) (p : Nat × Nat) : List Nat × List RouteSlot :=
  let (t, j) := p
  let e := (tops t).getD j 0
  let n := fun (e : Nat) => a.1.getD e 0
  let take := fun (e reason : Nat) => (updAt e (fun v => v + 1) a.1, a.2 ++ [(⟨t, j, e, reason, n e⟩ : RouteSlot)])
  let dropped := (a.1, a.2 ++ [(⟨t, j, e, 1, 0xFFFF⟩ : RouteSlot)])
  if n e < b.cap then take e 0
  else if b.ovf = 2 then
    let held := tops t ++ ((a.2.filter (fun r => r.t == t && r.reason == 3)).map (·.e))
    match bestExpert (keys t) (fun e => !held.contains e && decide (n e < b.cap)) with
    | some e => take e 3
    | none => dropped
  else dropped

/-- A sum of FP32 numbers in order. -/
def sumFp32 (l : List Nat) : Nat := l.foldl (fun a v => (fp32.add .rne a v).1) 0

/-- The greatest of some FP32 numbers. -/
def maxFp32 (l : List Nat) : Nat := l.tail.foldl (fun a v => fp32.extremum true a v) (l.headD 0)

/-- The weight of an accepted slot (R373): `w` is the set W, `all` the scores of every expert. -/
def routeWeight (b : RouteBody) (w all : List Nat) (s : Nat) : Nat :=
  let e := fun (top v : Nat) => sfeFn 1 (fp32.sub .rne v top).1
  let div := fun (a c : Nat) => (fp32.div .rne a c).1
  if b.score = 0 then div (e (maxFp32 w) s) (sumFp32 (w.map (e (maxFp32 w))))
  else if b.score = 1 then div (e (maxFp32 all) s) (sumFp32 (all.map (e (maxFp32 all))))
  else div (sfeFn 5 s) (sumFp32 (w.map (sfeFn 5)))

/-- ROUTE (R371 to R375). -/
def execRoute (die : Fin 8) (core : Fin 136) (s : State) : Result :=
  let d := die.val
  let k := core.val
  .next (s.engineOp d k 4 0x01 (fun _ x => routeCheck x) (fun s x =>
    let b := routeBody x
    let fm := sfeFmt b.lfmt
    let bias := x.par 28 4
    let score := fun (t : Nat) => (List.range b.e).map (fun e => (Fmt.conv fm fp32 .rne (s.scrNat d k (x.par 16 4 + t * b.ldl + e * fm.size) fm.size)).1)
    let finite := fun (v : Nat) => (match fp32.val v with | .fin _ _ _ => true | _ => false)
    let isNan := fun (t : Nat) => (score t).any (fun v => !finite v)
    let keys := fun (t : Nat) => (score t).mapIdx (fun e v =>
      let key := if bias = 0 then v else (fp32.add .rne v (s.scrNat d k (bias + 4 * e) 4)).1
      if (fp32.val key).isNan then Config.nanKey e else key)
    let tops := fun (t : Nat) => topExperts (keys t) b.k
    let tokens := List.range b.t
    let ranks := List.range b.k
    let order := (if b.priority then ranks.flatMap (fun j => tokens.map (fun t => (t, j))) else tokens.flatMap (fun t => ranks.map (fun j => (t, j)))).filter
      (fun p => !isNan p.1)
    let counts := if b.clear then List.replicate b.e 0 else (List.range b.e).map (fun e => s.scrNat d k (x.par 24 4 + 4 * e) 4)
    let (counts, slots) := order.foldl (offer b keys tops) (counts, [])
    let nans := (tokens.filter isNan).length
    let slotAt := fun (t j : Nat) => (slots.find? (fun r => r.t == t && r.j == j)).getD ⟨t, j, 0xFF, 2, 0xFFFF⟩
    let weight := fun (r : RouteSlot) =>
      if !r.accepted then 0
      else
        let sc := score r.t
        let ws := if b.ovf = 0 then tops r.t else ((ranks.map (slotAt r.t)).filter RouteSlot.accepted).map (·.e)
        routeWeight b (ws.map (fun e => sc.getD e 0)) sc (sc.getD r.e 0)
    let entries := tokens.flatMap (fun t => ranks.flatMap (fun j =>
      let r := slotAt t j
      [r.e, r.reason] ++ leBytes 2 r.pos ++ leBytes 4 (weight r)))
    let accepted := slots.filter RouteSlot.accepted
    let drops := (slots.filter (fun r => r.reason == 1)).length
    let moved := (slots.filter (fun r => r.reason == 3)).length
    let s1 := s.putScr d k (x.par 20 4) entries
    let s1 := if x.par 32 4 = 0 then s1 else accepted.foldl (fun (y : State) r => y.putScr d k (x.par 32 4 + (r.e * b.lstride + r.pos) * 4) (leBytes 4 r.t)) s1
    let s1 := if x.par 36 4 = 0 then s1 else s1.putScr d k (x.par 36 4) (ranks.flatMap (fun j => tokens.flatMap (fun t =>
      let r := slotAt t j
      let base := if r.accepted then s.scrNat d k (x.par 40 4 + 4 * r.e) 4 + r.pos * b.f else b.trash
      (List.range b.f).flatMap (fun c => leBytes 4 (base + c)))))
    let s1 := s1.putScr d k (x.par 24 4) (counts.flatMap (leBytes 4))
    let s1 := s1.putScr d k (x.par 60 4) ([accepted.length, drops, moved, nans].flatMap (leBytes 4))
    s1.onChip (fun c =>
      let c := c.workDone d k 4 x.ticket stOK
      let c := (((c.count (R.CMP_TKE_SLOTS_ACCEPTED d k) accepted.length).count (R.CMP_TKE_DROPPED_SLOTS d k) drops).count
        (R.CMP_TKE_REROUTED_SLOTS d k) moved).count (R.CMP_TKE_NAN_TOKENS d k) nans
      if nans = 0 then c else c.event Ev.nanBatch (some (c.coreOwner d k)) (Unit.engine d k 4) [nans])))

end Sys2Proof.Machine
end

