-- ==== Sys2Proof/Machine/Launch.lean ====
section
/-! DEFINITION. The compute commands LAUNCH and DMA (R330, R331, R426). -/

namespace Sys2Proof.Machine

/-- The die of a command's compute queue. -/
def Chip.cmdDie (c : Chip) : CmdSrc → Nat
  | .queue t q => c.rd (R.PCU_CQ_CFG_DIE t.val q.val)
  | _ => 0

/-- Whether a core belongs to a tenant. -/
def Chip.coreOf (c : Chip) (d k tenant : Nat) : Bool := c.on (R.CMP_CORE_STATE_OWNED d k) && c.coreOwner d k == tenant

/-- The physical core of a die that logical core `l` of cluster `cl` is mapped onto (R304). -/
def Chip.logicalCore (c : Chip) (d cl l : Nat) : Option Nat :=
  ((List.range 17).map (fun p => 17 * cl + p)).find? (fun k => c.rd (R.CMP_CORE_STATE_LOGICAL d k) == l)

/-- The physical cores that CORES of a LAUNCH names, in order; none where one is not mapped or not the tenant's (R426). -/
def Chip.launchCores (c : Chip) (d tenant bits : Nat) : Option (List Nat) :=
  (setBits 128 bits).foldr (fun b (l : Option (List Nat)) => match l, c.logicalCore d (b / 16) (b % 16) with
    | some l, some k => if c.coreOf d k tenant then some (k :: l) else none
    | _, _ => none) (some [])

/-- The far windows of a LAUNCH from its table of 16 words (R314, R426). -/
def farWindows (bs : List Nat) : List (Nat × Nat) :=
  (List.range 16).filterMap (fun w => let v := leField bs (8 * w) 8; if v % 2 = 1 then some (w, v / 4096 * 4096) else none)

/-- Whether the fields of a LAUNCH lie in their ranges (R331, R426). -/
def launchGood (x : Cmd) : Bool :=
  let bdim := x.par 24 2
  let blocks := x.par 28 4
  let bytes := x.par 32 4
  decide (32 ≤ bdim) && decide (bdim ≤ 2048) && bdim % 32 == 0 && x.par 26 2 == 0 && decide (1 ≤ blocks) && decide (blocks ≤ 1048576)
    && bytes % 64 == 0 && decide (bytes ≤ coreScratch) && x.par 44 4 == 0

/-- A launch starts: its blocks are placed in BID order while there is room (R331). -/
def State.startLaunch (s : State) (x : Cmd) (cores : List Nat) (windows : List (Nat × Nat)) : State :=
  let l : Launch := { src := x.src, idx := x.idx, die := s.chip.cmdDie x.src, tenant := x.partition, cores := cores, bdim := x.par 24 2, blocks := x.par 28 4
                      bytes := x.par 32 4, pc := x.par 36 4, arg := x.par 40 4, windows := windows }
  let s := s.onChip (fun c => c.onComp (fun y => { y with launches := y.launches ++ [l] }))
  (List.range (min l.blocks (64 * cores.length))).foldl (fun (s : State) _ =>
    match s.chip.comp.launches.find? (fun y => y.src == x.src && y.idx == x.idx) with
    | some l => s.placeBlock l
    | none => s) s

/-- LAUNCH (R331, R426). -/
def execLaunch (src : CmdSrc) (idx : BitVec 16) (s : State) : Result :=
  .next (s.begin src idx.toNat 0x01 (fun s x =>
    let a := x.par 48 8
    let t := x.partition
    let refuse := fun (st : Nat) => s.onChip (fun c => c.endCmd x st 0 0)
    match s.chip.launchCores (s.chip.cmdDie src) t (x.par 8 16) with
    | some (k :: ks) =>
      if launchGood x = false then refuse csINVALID
      else if a = 0 then s.startLaunch x (k :: ks) []
      else
        let status := s.chip.viewStatus t a 128
        if status ≠ stOK then refuse status
        else match s.chip.viewObstacle t a 128 false with
        | some o => s.onChip (fun c => (c.probe o true).setCmd x { x with started := false, aux := [1] })
        | none => s.startLaunch x (k :: ks) (farWindows (s.viewBytes t a 128))
    | _ => refuse csINVALID))

/-- The core that a DMA command names (R426). -/
def Chip.dmaCore (c : Chip) (x : Cmd) : Option Nat :=
  let d := c.cmdDie x.src
  let k := x.par 8 2
  if k = 0xFFFF then (List.range 136).find? (fun k => c.coreOf d k x.partition && c.coreUsable d k)
  else if k < 136 ∧ c.coreOf d k x.partition then some k else none

/-- DMA (R330, R426): the descriptor goes onto queue 7 of its core, waiting while that queue is full. -/
def execDma (src : CmdSrc) (idx : BitVec 16) (s : State) : Result :=
  let d := s.chip.cmdDie src
  let full := match s.chip.cmd.cmds.find? (fun x => x.src == src && x.idx == idx.toNat) with
    | some x => (match s.chip.dmaCore x with
      | some k => decide (64 ≤ (s.chip.descs d k 7).length)
      | none => false)
    | none => false
  .next (if full then s else s.begin src idx.toNat 0x02 (fun s x => s.onChip (fun c =>
    match c.dmaCore x with
    | none => c.endCmd x csINVALID 0 0
    | some k =>
      if x.par 11 5 ≠ 0 then c.endCmd x csINVALID 0 0
      else if c.rd (R.CMP_CORE_STATE_STATE d k) = 5 then c.endCmd x dsENGINE_FAULT k 0
      else (c.pushDesc d k 7 ([x.par 10 1, 5] ++ List.replicate 14 0 ++ (x.pkt.drop 16).take 48) (some (src, idx.toNat))).1)))

end Sys2Proof.Machine
end

