-- ==== Sys2Proof/Machine/Partitions.lean ====
section
/-! DEFINITION. Partitions: their commands, the frog, the delivery of error reports, digests (R450 to R470, R304). -/

namespace Sys2Proof.Machine

/-! States of a partition (R450). -/
def psFREE : Nat := 0
def psREADY : Nat := 1
def psRUNNING : Nat := 2
def psFROGGED : Nat := 3

def Chip.partState (c : Chip) (t : Nat) : Nat := c.rd (R.PART_STATE_STATE t)
def Chip.setPartState (c : Chip) (t st : Nat) : Chip := c.wr (R.PART_STATE_STATE t) st

/-- Where a partition command may come from (R451): the admin queue and the fabric manager, and for some commands a management queue of the tenant. -/
def partFrom (own : Bool) : CmdSrc → Bool
  | .queue _ _ => own
  | _ => true

/-- A partition command at its commit: refused PARTITION from a source that the table does not allow, INVALID for tenant 0 where that is excluded, BUSY in a state that the
table does not allow (R450, R451). `tenant` names the tenant. -/
def State.partCmd (s : State) (src : CmdSrc) (idx opcode : Nat) (own zero : Bool) (states : List Nat) (tenant : Cmd → Nat) (k : State → Cmd → Nat → State) : State :=
  s.begin src idx opcode (fun s x =>
    let t := tenant x
    let no := fun (st : Nat) => s.onChip (fun c => c.endCmd x st 0 0)
    if !partFrom own src then no csPARTITION
    else if t = 0 ∧ !zero then no csINVALID
    else if 16 ≤ t then no csINVALID
    else if !states.contains (s.chip.partState t) then no csBUSY
    else k s x t)

/-- The effect of a partition command that takes place at a row boundary (R453, R454, R456): in another cycle of a row the command waits for the next one (log entry 149). -/
def State.atRow (s : State) (x : Cmd) (k : State → State) : State := if s.chip.cyc = 0 then k s else s.onChip (fun c => c.setCmd x { x with started := false })

/-! What a partition owns. -/

/-- The clusters of a tenant, as die and cluster (R453). -/
def Chip.clustersOf (c : Chip) (t : Nat) : List (Nat × Nat) :=
  ((List.range 8).flatMap (fun d => (List.range 8).map (fun cl => (d, cl)))).filter (fun p => c.coreTenant p.1 (17 * p.2) == some t)

/-- The cores of a tenant, as die and core. -/
def Chip.coresOf (c : Chip) (t : Nat) : List (Nat × Nat) :=
  ((List.range 8).flatMap (fun d => (List.range 136).map (fun k => (d, k)))).filter (fun p => c.coreTenant p.1 p.2 == some t)

/-- A cluster is given to a tenant, or taken back. -/
def Chip.ownCluster (c : Chip) (d cl : Nat) (t : Option Nat) : Chip :=
  c.each (List.range 17) (fun c p => (c.wr (R.CMP_CORE_STATE_OWNED d (17 * cl + p)) (b2n t.isSome)).wr (R.CMP_CORE_STATE_TENANT d (17 * cl + p)) (t.getD 0))

/-- PART.STATE.CLUSTERS and DIGESTS follow. -/
def Chip.partCounts (c : Chip) (t : Nat) : Chip :=
  (c.wr (R.PART_STATE_CLUSTERS t) (c.clustersOf t).length).wr (R.PART_STATE_DIGESTS t) (c.part.digests.filter (fun g => g.tenant == t)).length

/-- The core mapping of a cluster is rebuilt (R304): the good physical cores in ascending order, the seventeenth to be spare. -/
def Chip.mapCluster (c : Chip) (d cl : Nat) : Chip :=
  let good := ((List.range 17).map (fun p => 17 * cl + p)).filter (fun k => c.rd (R.CMP_CORE_STATE_STATE d k) != 5)
  (c.each (good.zipIdx) (fun c e =>
    if e.2 < 16 then (c.wr (R.CMP_CORE_STATE_LOGICAL d e.1) e.2).wr (R.CMP_CORE_STATE_STATE d e.1) 2
    else (c.wr (R.CMP_CORE_STATE_LOGICAL d e.1) 0x1F).wr (R.CMP_CORE_STATE_STATE d e.1) 6)).dieCounts d

/-! PART_CREATE (R452, R453). -/

/-- A creation record. -/
structure Creation where
  pages : Nat
  sram : Nat
  share : Nat
  clusters : Nat
  xwin : List (Nat × Nat)
  zero : Bool
  frames : List Nat
  srams : List Nat
  deriving DecidableEq, Repr

/-- The bytes of a creation record whose first 64 are given. -/
def creationBytes (head : List Nat) : Nat := 64 + 4 * leField head 0 4 + 2 * leField head 4 2

/-- A creation record read from its bytes. -/
def creation (bs : List Nat) : Creation :=
  let pages := leField bs 0 4
  ⟨pages, leField bs 4 2, leField bs 6 2, leField bs 8 8, (List.range 4).map (fun r => (leField bs (16 + 8 * r) 4, leField bs (20 + 8 * r) 4)),
   leField bs 48 16 == 0, (List.range pages).map (fun i => leField bs (64 + 4 * i) 4), (List.range (leField bs 4 2)).map (fun i => leField bs (64 + 4 * pages + 2 * i) 2)⟩

/-- Whether an enabled extra-window range is valid (R392): `b` and `l` in the layouts of PART.XWIN_BASE and PART.XWIN_LIMIT. -/
def xwinGood (b l : Nat) : Bool :=
  let lo := fget b 24 0
  let hi := fget l 24 0
  !bitOf b 31 || (decide (lo ≤ hi) && ((rangeOf (lo * 0x200000) == .cxl && rangeOf (hi * 0x200000 + 0x1FFFFF) == .cxl)
    || (rangeOf (lo * 0x200000) == .mmio && rangeOf (hi * 0x200000 + 0x1FFFFF) == .mmio)))

/-- The frames that exist, are not lost and in no entry, ascending; the free stacked SRAM pages. -/
def Chip.freeFrames (c : Chip) : List Nat :=
  (List.range c.frameCount).filter (fun f => !c.frameLost f && !c.mems.xlat.any (fun x => x.2.2 == f))
def Chip.freeSram (c : Chip) : List Nat := (List.range 4096).filter (fun p => (c.sramOwner p).isNone)

/-- The lowest entry of the translation array at which `n` entries lie together in no enabled tenant's region (R390, R452). -/
def Chip.arrayRun (c : Chip) (n : Nat) : Option Nat :=
  let regions := ((List.range 16).filter (fun u => c.tenantOn u && c.rd (R.PART_HBM_PAGES_PAGES u) != 0)).map
    (fun u => (c.rd (R.PART_HBM_BASE_BASE u), c.rd (R.PART_HBM_BASE_BASE u) + c.rd (R.PART_HBM_PAGES_PAGES u)))
  let starts := sortNat (0 :: regions.map (fun r => r.2))
  starts.find? (fun a => decide (a + n ≤ 524288) && regions.all (fun r => decide (r.2 ≤ a) || decide (a + n ≤ r.1)))

/-- What a creation record comes to: the frames, SRAM pages and array base, or a status (R390, R392, R393, R452). -/
def Chip.creationPlan (c : Chip) (t : Nat) (r : Creation) : Nat × List Nat × List Nat × Nat :=
  let no := fun (st : Nat) => (st, ([] : List Nat), ([] : List Nat), 0)
  let others := (((List.range 16).filter (fun u => u != t && c.tenantOn u)).map c.latestShare).sum
  let owned := (setBits 64 r.clusters).any (fun b => match c.coreTenant (b / 8) (17 * (b % 8)) with
    | some u => c.tenantOn u
    | none => false)
  let autoF := r.frames.head? == some 0xFFFFFFFF
  let autoS := r.srams.head? == some 0xFFFF
  let free := c.freeFrames
  let freeS := c.freeSram
  let frames := if autoF then free.take r.pages else r.frames
  let srams := if autoS then freeS.take r.sram else r.srams
  if 524288 < r.pages ∨ 4096 < r.sram ∨ 256 < r.share ∨ 256 < others + r.share ∨ owned ∨ !r.zero ∨ r.xwin.any (fun p => !xwinGood p.1 p.2) then no csINVALID
  else if free.length < r.pages ∨ freeS.length < r.sram then no csNO_RESOURCE
  else if frames.any (fun f => !free.contains f) ∨ frames.eraseDups.length ≠ frames.length
      ∨ srams.any (fun p => !freeS.contains p) ∨ srams.eraseDups.length ≠ srams.length then no csINVALID
  else match c.arrayRun r.pages with
  | none => no csNO_RESOURCE
  | some base => (stOK, frames, srams, base)

/-- The resources of a new partition are given to it (R390, R391, R452, R453). -/
def State.createPart (s : State) (t : Nat) (r : Creation) (frames srams : List Nat) (base : Nat) : State :=
  let mem := srams.foldl (fun (m : List Host.Cell) p => memZero m (0x10000000000 + p * 0x200000) (0x10000000000 + (p + 1) * 0x200000)) s.mem
  let c := s.chip.onMems (fun m => { m with xlat := m.xlat ++ frames.mapIdx (fun i f => (base + i, (t, f))), zeroing := m.zeroing ++ frames })
  let c := (c.wr (R.PART_HBM_BASE_BASE t) base).wr (R.PART_HBM_PAGES_PAGES t) r.pages
  let c := c.each srams (fun c p => c.setSramOwner p (some t))
  let c := c.each (setBits 64 r.clusters) (fun c b => c.ownCluster (b / 8) (b % 8) (some t))
  let c := c.each r.xwin.zipIdx (fun c p => (c.setWord (R.PART_XWIN_BASE t p.2) (BitVec.ofNat 32 (fset p.1.1 30 25 0))).setWord (R.PART_XWIN_LIMIT t p.2) (BitVec.ofNat 32 (fset p.1.2 31 25 0)))
  let c := (c.wr (R.PART_TENANT_EN t) 1).wr (R.PART_TENANT_SHARE t) r.share
  let c := ((c.setWord (R.PART_SPID t) 0).wr (R.PART_STATE_JOINED t) 0).wr (R.PART_STATE_MEMBERS t) 0
  { s with mem := mem, chip := ((c.setPartState t psREADY).partCounts t).frameCounts }

/-- PART_CREATE (R452). -/
def execPartCreate (src : CmdSrc) (idx : BitVec 16) (s : State) : Result :=
  .next (s.partCmd src idx.toNat 0x50 false false [psFREE] (fun x => x.par 8 1) (fun s x t =>
    let a := x.par 16 8
    let no := fun (st : Nat) => s.onChip (fun c => c.endCmd x st 0 0)
    let st0 := s.chip.viewStatus 0 a 64
    let n := creationBytes (s.viewBytes 0 a 64)
    if st0 ≠ stOK then no st0
    else if s.chip.viewStatus 0 a n ≠ stOK then no (s.chip.viewStatus 0 a n)
    else match s.chip.viewObstacle 0 a n false with
    | some o => s.onChip (fun c => (c.probe o true).setCmd x { x with started := false })
    | none =>
      let r := creation (s.viewBytes 0 a n)
      let (st, frames, srams, base) := s.chip.creationPlan t r
      if st = csNO_RESOURCE then s.onChip (fun c => ((c.count R.PART_FRAMES_FREE_REFUSED).event Ev.partRefused (some t) 0 [r.pages, r.sram]).endCmd x st 0 0)
      else if st ≠ stOK then no st
      else s.atRow x (fun s => (s.createPart t r frames srams base).onChip (fun c => (c.event Ev.partCreate (some t) 0 [t]).endCmd x stOK base r.pages))))

/-! PART_START (R454). -/

/-- The compute queues of a tenant whose queue processor is fenced go to another of the same die (R330, R467). -/
def Chip.reassignQueues (c : Chip) (t : Nat) : Chip :=
  c.each ((List.range 64).filter (fun q => c.on (R.PCU_CQ_CFG_EN t q) && !c.on (R.PCU_CQ_CFG_KIND t q))) (fun c q =>
    let d := c.rd (R.PCU_CQ_CFG_DIE t q)
    let bad := fun (n : Nat) => c.rd (R.CMP_QP_STATUS_STATE d n) == 4
    if bad (c.rd (R.PCU_CQ_CFG_QP t q)) then
      match (List.range 4).find? (fun n => !bad n) with
      | some n => (c.wr (R.PCU_CQ_CFG_QP t q) n).wr (R.PCU_CQ_CFG_STOPPED t q) 0
      | none => c
    else c)

/-- A core starts afresh (R320, R341, R351, R454). -/
def Chip.startCore (c : Chip) (d k : Nat) : Chip :=
  let c := (c.clearMxe d k).wr (R.CMP_MXE_LFSR_STATE d k) (lfsrLoad (c.rd (R.CMP_MXE_SEED_SEED d k)))
  let c := c.each (List.range 8) (fun c q => (c.setDescs d k q []).wr (R.CMP_CORE_EQ_NEXT d k q) 0)
  c.onComp (fun x => { x with done := x.done.filter (fun e => !(e.1.1 == d && e.1.2.1 == k)) })

/-- A partition starts (R454): the core mapping, tiles, tickets, lost frames, fault ring, and a queue processor that serves for a fenced one. -/
def Chip.startPart (c : Chip) (x : Cmd) (t : Nat) : Chip :=
  let ring := x.par 8 8
  let c := c.each (c.clustersOf t) (fun c p => c.mapCluster p.1 p.2)
  let c := c.each (c.coresOf t) (fun c p => c.startCore p.1 p.2)
  let lost := (c.mems.xlat.filter (fun e => e.2.1 == t && c.frameLost e.2.2)).length
  let c := c.onMems (fun m => { m with xlat := m.xlat.filter (fun e => !(e.2.1 == t && c.frameLost e.2.2)) })
  let c := (c.reassignQueues t).frameCounts
  let c := c.wrPair (R.PART_FAULT_RING_LO_ADDR t) (R.PART_FAULT_RING_HI_ADDR t) ring
  let w := fset (fset (fset 0 31 31 (b2n (ring != 0))) 19 16 (x.par 16 1 % 16)) 15 0 (x.par 18 2)
  let c := (c.setWord (R.PART_FAULT_RING_CFG t) (BitVec.ofNat 32 w)).setWord (R.PART_FIRST_UNIT t) 0
  let mapped := ((c.coresOf t).filter (fun p => decide (c.rd (R.CMP_CORE_STATE_LOGICAL p.1 p.2) < 16))).length
  ((c.setPartState t psRUNNING).event Ev.partStart (some t) 0 [t]).endCmd x stOK mapped lost

/-- PART_START (R451, R454). -/
def execPartStart (src : CmdSrc) (idx : BitVec 16) (s : State) : Result :=
  .next (s.partCmd src idx.toNat 0x51 true true [psREADY] Cmd.partition (fun s x t =>
    let ring := x.par 8 8
    let lg := x.par 16 1
    let sync := x.par 18 2
    let no := fun (st : Nat) => s.onChip (fun c => c.endCmd x st 0 0)
    let counter := sync == 0xFFFF || (match s.chip.obj sync with
      | some o => o.kind == 1 && o.tenant == t
      | none => false)
    if s.chip.rd R.THM_TRIP_PENDING ≠ 0 then no csBUSY
    else if ring % 64 ≠ 0 ∨ 2 ^ 46 ≤ ring ∨ (ring ≠ 0 ∧ (lg < 4 ∨ 12 < lg)) ∨ !counter then no csINVALID
    else s.atRow x (fun s => s.onChip (fun c => c.startPart x t))))

/-! Stopping a tenant's work (R335, R449, R455). -/

/-- Threads and engines of a tenant stop, its engine queues are emptied with FROGGED in FIRST_ERR (R335, R341). -/
def Chip.stopWork (c : Chip) (t : Nat) : Chip :=
  let cores := c.coresOf t
  let c := c.each cores (fun c p => c.abandonTags p.1 (c.coreTags p.1 p.2))
  let c := c.dropBlocks (fun b => b.tenant == t)
  let c := c.onComp (fun x => { x with launches := x.launches.filter (fun l => l.tenant != t) })
  c.each cores (fun c p =>
    let c := c.each (List.range 8) (fun c q =>
      let c := c.setDescs p.1 p.2 q []
      if c.rd (R.CMP_CORE_EQ_FIRST_ERR p.1 p.2 q) = 0 then c.wr (R.CMP_CORE_EQ_FIRST_ERR p.1 p.2 q) dsFROGGED else c)
    c.clearMxe p.1 p.2)

/-- The queued and running commands of a tenant's queues complete FROGGED, but the command that does it (R449, R455). -/
def Chip.frogCmds (c : Chip) (t : Nat) (self : Option (CmdSrc × Nat)) : Chip :=
  let hit := c.cmd.cmds.filter (fun x => x.result.isNone && self != some (x.src, x.idx) && (match x.src with
    | .queue u _ => u.val == t
    | _ => false))
  c.each hit (fun c x =>
    let c := match x.src with
      | .queue u q => if x.opcode = 3 then c.onSync (fun y => { y with waits := y.waits.filter (fun w => w.who != Waiter.queue u.val q.val)
                                                                       answered := delKey (u.val, q.val) y.answered }) else c
      | _ => c
    c.endCmd x csFROGGED 0 0)

/-- The work of a tenant is stopped and its partition ready again (R455); the number is that of the locks abandoned. `self` is the command that does it. -/
def Chip.resetPart (c : Chip) (t : Nat) (self : Option (CmdSrc × Nat)) : Chip × Nat :=
  let c := (c.stopWork t).frogCmds t self
  let c := c.resetOwners t
  let locks := (c.sync.objs.filter (fun o => o.2.kind == 4 && o.2.held && o.2.tenant == t && o.2.ownerNode == c.node)).map (·.1)
  let c := c.each locks (fun c n => c.abandon n 2)
  let c := (c.onCirc (fun y => { y with armed := y.armed.filter (fun a => a.tenant != t) })).onPart (fun y => { y with park := y.park ++ [t] })
  ((c.setPartState t psREADY).event Ev.partReset (some t) 0 [t], locks.length)

/-- PART_RESET (R455): RESULT0 counts the locks abandoned. -/
def execPartReset (src : CmdSrc) (idx : BitVec 16) (s : State) : Result :=
  .next (s.partCmd src idx.toNat 0x52 true false [psRUNNING, psREADY] Cmd.partition (fun s x t => s.onChip (fun c =>
    let r := c.resetPart t (some (x.src, x.idx))
    r.1.endCmd x stOK r.2 0)))

/-! PART_DESTROY (R456). -/

/-- The sync objects of a tenant are free, their held waits answered FROGGED. -/
def Chip.destroySync (c : Chip) (t : Nat) : Chip :=
  let c := c.frogSync t
  (c.onSync (fun y => { y with objs := y.objs.filter (fun o => o.2.tenant != t) })).syncCounts

/-- Registers of a tenant's queues, contexts, groups, allotments and sub-ports are cleared. -/
def Chip.destroyRegs (c : Chip) (t : Nat) : Chip :=
  let c := c.each ((List.range 64).filter (fun q => c.on (R.PCU_CQ_CFG_EN t q))) (fun c q => c.dropQueue t q)
  let c := c.each (List.range 24) (fun c i => c.each (List.range 64) (fun c q =>
    if c.on (R.SITE_RQ_CFG_EN i q) ∧ c.rd (R.SITE_RQ_CFG_TENANT i q) = t then c.wr (R.SITE_RQ_CFG_EN i q) 0 else c))
  let c := c.each ((List.range 1024).filter (fun n => c.ctxOwned n t)) (fun c n =>
    c.each [R.RED_CTX_A n, R.RED_CTX_B n, R.RED_CTX_C n, R.RED_CTX_D n] (fun c o => c.setWord o 0))
  let c := c.each ((List.range 4096).filter (fun g => c.on (R.RED_MC_A_EN g) && c.rd (R.RED_MC_A_TENANT g) == t)) (fun c g => (c.setWord (R.RED_MC_A g) 0).setWord (R.RED_MC_B g) 0)
  let c := c.each ((List.range 112).filter (fun e => c.on (R.CIRC_ALLOT_EN e) && c.rd (R.CIRC_ALLOT_TENANT e) == t)) (fun c e => c.setWord (R.CIRC_ALLOT e) 0)
  c.each ((List.range 16).filter (fun r => c.on (R.HIO_PORT_TENANT_EN r) && c.rd (R.HIO_PORT_TENANT_TENANT r) == t)) (fun c r => c.setWord (R.HIO_PORT_TENANT r) 0)

/-- A tenant is joined no longer (R456, R459). -/
def Chip.leavePart (c : Chip) (t : Nat) : Chip :=
  ((c.setWord (R.PART_SPID t) 0).wr (R.PART_STATE_JOINED t) 0).wr (R.PART_STATE_MEMBERS t) 0 |>.onPart (fun y => { y with members := delKey t y.members })

/-- Everything of a tenant at this package is free (R456). -/
def Chip.destroyPart (c : Chip) (t : Nat) : Chip :=
  let c := c.each (c.clustersOf t) (fun c p => c.ownCluster p.1 p.2 none)
  let c := c.onMems (fun m => { m with xlat := m.xlat.filter (fun e => e.2.1 != t) })
  let c := (c.wr (R.PART_HBM_BASE_BASE t) 0).wr (R.PART_HBM_PAGES_PAGES t) 0
  let c := c.each ((List.range 4096).filter (fun p => c.sramOwner p == some t)) (fun c p => c.setSramOwner p none)
  let c := c.each (List.range 4) (fun c r => (c.setWord (R.PART_XWIN_BASE t r) 0).setWord (R.PART_XWIN_LIMIT t r) 0)
  let c := (((c.destroySync t).destroyRegs t).frogCombine t).onXport (fun y => { y with slots := y.slots.filter (fun z => c.on (R.SITE_RQ_CFG_EN z.site z.queue)
    && c.rd (R.SITE_RQ_CFG_TENANT z.site z.queue) != t) })
  let c := c.onCmd (fun y => { y with cmds := y.cmds.filter (fun z => match z.src with
    | .queue u _ => u.val != t
    | _ => true) })
  let c := ((c.wr (R.PART_TENANT_EN t) 0).wr (R.PART_TENANT_SHARE t) 0).leavePart t
  ((c.setPartState t psFREE).partCounts t).frameCounts.event Ev.partDestroy (some t) 0 [t]

/-- PART_DESTROY (R456): RESULT0 counts the frames freed. -/
def execPartDestroy (src : CmdSrc) (idx : BitVec 16) (s : State) : Result :=
  .next (s.partCmd src idx.toNat 0x53 false false [psREADY] Cmd.partition (fun s x t =>
    if s.chip.part.digests.any (fun g => g.tenant == t) then s.onChip (fun c => c.endCmd x csBUSY 0 0)
    else s.atRow x (fun s => s.onChip (fun c => (c.destroyPart t).endCmd x stOK (c.mems.xlat.filter (fun e => e.2.1 == t)).length 0))))

/-! PART_JOIN and PART_LEAVE (R457, R459). -/

/-- PART_JOIN (R457). -/
def execPartJoin (src : CmdSrc) (idx : BitVec 16) (s : State) : Result :=
  .next (s.partCmd src idx.toNat 0x54 false false [psREADY] Cmd.partition (fun s x t =>
    let spid := x.par 8 4
    let n := x.par 14 2
    let a := x.par 16 8
    let no := fun (st : Nat) => s.onChip (fun c => c.endCmd x st 0 0)
    let st0 := s.chip.viewStatus 0 a (2 * n)
    if spid = 0 ∨ n = 0 ∨ 4096 < n then no csINVALID
    else if x.par 12 1 ≠ s.chip.rd R.PCU_IF_VERSION_MAJOR then no csVERSION
    else if s.chip.on (R.PART_STATE_JOINED t) ∧ s.chip.rd (R.PART_SPID_SPID t) ≠ spid then no csBUSY
    else if st0 ≠ stOK then no st0
    else match s.chip.viewObstacle 0 a (2 * n) false with
    | some o => s.onChip (fun c => (c.probe o true).setCmd x { x with started := false })
    | none =>
      let bs := s.viewBytes 0 a (2 * n)
      let nodes := (List.range n).map (fun i => leField bs (2 * i) 2)
      if !nodes.contains s.chip.node ∨ nodes.any (fun m => decide (s.chip.nodeCount ≤ m)) then no csINVALID
      else s.onChip (fun c =>
        let c := ((c.setWord (R.PART_SPID t) (BitVec.ofNat 32 spid)).wr (R.PART_STATE_JOINED t) 1).wr (R.PART_STATE_MEMBERS t) n
        ((c.onPart (fun y => { y with members := putKey t nodes y.members })).event Ev.partJoin (some t) 0 [spid, n]).endCmd x stOK 0 0)))

/-- PART_LEAVE (R459). -/
def execPartLeave (src : CmdSrc) (idx : BitVec 16) (s : State) : Result :=
  .next (s.partCmd src idx.toNat 0x56 false true [psREADY] Cmd.partition (fun s x t => s.onChip (fun c =>
    ((c.leavePart t).event Ev.partLeave (some t) 0 [t]).endCmd x stOK 0 0)))

/-! The frog (R460 to R462). -/

/-- The DATA of a FROG stitch (R460). -/
def frogData (spid tenant kind id row origin sender cause : Nat) : List Nat :=
  padTo 64 (leBytes 4 spid ++ [tenant, kind] ++ leBytes 2 id ++ leBytes 6 row ++ leBytes 2 origin ++ leBytes 2 sender ++ [cause])

/-- A frog is armed for a tenant; one whose row has passed acts at the next boundary and counts as late (R461). For a tenant with an armed frog the earlier row stands (R471). -/
def Chip.armFrog (c : Chip) (t id row : Nat) : Chip :=
  let late := decide (row ≤ c.row)
  let row := if late then c.row + 1 else row
  let c := if late then c.count (R.PART_FROG_LATE t) else c
  let named := fun (c : Chip) => (c.wr (R.PART_FROG_FROG_ID t) id).wr (R.PART_FROG_ROW t) row
  match c.part.frogs.find? (fun f => f.tenant == t) with
  | some f => if row < f.row then named (c.onPart (fun y => { y with frogs := updFirst (fun g => g == f) (fun _ => ⟨t, row⟩) y.frogs })) else c
  | none => named (c.onPart (fun y => { y with frogs := y.frogs ++ [⟨t, row⟩] }))

/-- The nodes that a tenant's frog goes to: its members, or this node alone (R461). -/
def Chip.frogMembers (c : Chip) (t : Nat) : List Nat := (getKey t c.part.members).getD [c.node]

/-- The waiting PART_FROG of a tenant whose members have all acknowledged completes (R461). -/
def Chip.frogCheck (c : Chip) (t : Nat) (timeUp : Bool) : Chip :=
  match c.part.waits.find? (fun w => w.tenant == t && (timeUp || (c.frogMembers t).all (fun m => w.acked.contains m))) with
  | none => c
  | some w =>
    let missing := (c.frogMembers t).filter (fun m => !w.acked.contains m)
    let c := (c.onPart (fun y => { y with waits := dropFirst (fun v => v == w) y.waits })).event Ev.frog (some t) 0 ([w.row % 2 ^ 32, w.id, missing.length] ++ missing.take 3)
    match c.cmd.cmds.find? (fun (x : Cmd) => x.src == w.src && x.idx == w.idx) with
    | some x => c.endCmd x stOK w.acked.length missing.length
    | none => c

/-- An acknowledgement reaches the origin (R461). -/
def Chip.frogAcked (c : Chip) (t id sender : Nat) : Chip :=
  (c.onPart (fun y => { y with waits := y.waits.map (fun w =>
    if w.tenant = t ∧ w.id = id ∧ (c.frogMembers t).contains sender ∧ w.acked.contains sender = false then { w with acked := w.acked ++ [sender] } else w) })).frogCheck t false

/-- The acknowledgements that a tenant owes for its frog at row `row`: to this node at once, to others through the PCU (R461, R462). -/
def Chip.frogAnswer (c : Chip) (t row : Nat) : Chip :=
  let mine := c.part.wants.filter (fun w => w.tenant == t)
  let c := c.onPart (fun y => { y with wants := y.wants.filter (fun w => w.tenant != t) })
  c.each mine (fun c w =>
    if w.origin = c.node then c.frogAcked t w.id c.node
    else c.onPart (fun y => { y with acks := y.acks ++ [(w.origin, frogData (c.rd (R.PART_SPID_SPID t)) t 2 w.id row w.origin c.node w.cause)] }))

/-- The acknowledgements that wait go out while a PCU holds the token (R462). -/
def Chip.sendFrogAcks (c : Chip) : Chip :=
  if c.tokenHeld then
    let l := c.part.acks
    (c.onPart (fun y => { y with acks := [] })).each l (fun c a => c.send 31 (c.ctrlStitch a.1 4 a.2))
  else c

/-- A frog at the site adapters (R174): a tenant's stitches waiting, arrived or outstanding are discarded without count, its messages and slots too. -/
def Chip.frogXport (c : Chip) (t : Nat) : Chip :=
  let hit := c.xport.arrived.filter (fun a => a.st.tenant == t && a.st.opcode != opCTRL)
  let ctrl := fun (st : Stitch) => st.opcode == opCTRL
  let c := c.each hit (fun c a => c.arrivalDone a.site a.plane a.k a.st)
  let c := c.onXport (fun x => { x with
    arrived := x.arrived.filter (fun a => a.st.tenant != t || ctrl a.st), waiting := x.waiting.filter (fun a => a.2.tenant != t || ctrl a.2)
    stalled := x.stalled.filter (fun a => a.2.tenant != t || ctrl a.2), out := x.out.filter (fun e => e.st.tenant != t)
    slots := x.slots.filter (fun z => z.tag.tenant != t), refusals := x.refusals.filter (fun z => z.tag.tenant != t)
    sends := x.sends.filter (fun z => z.tag.tenant != t), acks := x.acks.filter (fun a => a.tenant != t), nacks := x.nacks.filter (fun a => a.tenant != t) })
  (c.each (List.range 24) (fun c i => (c.each (List.range 64) (fun c q => c.rqCounts i q)).outCounts i)).unstall

/-- A frog at the memory sites (R397): a tenant's queued accesses are discarded. -/
def Chip.frogMems (c : Chip) (t : Nat) : Chip :=
  let mine := fun (p : ParkedAccess) => (match p.op with
    | .stitch _ _ _ _ st => st.tenant == t
    | .landing _ _ q => q.key.tenant == t
    | .slot _ _ d => d.key.tenant == t
    | .group _ _ _ u _ => u == t
    | .probe => false)
  let c := c.each (c.mems.parked.filter mine) (fun c p => match p.op with
    | .stitch plane k _ _ st => c.arrivalDone p.site plane k st
    | _ => c)
  c.onMems (fun m => { m with parked := m.parked.filter (fun p => !mine p) })

/-- The digest that runs on a die is named in its registers. -/
def Chip.digestNow (c : Chip) (d : Nat) : Chip :=
  let l := c.part.digests.filter (fun g => g.die == d)
  let c := c.wr (R.CMP_DIGEST_STATUS_QUEUED d) (l.length - 1)
  match l with
  | g :: _ => (c.wr (R.CMP_DIGEST_STATUS_STATE d) 1).wr (R.CMP_DIGEST_STATUS_TENANT d) g.tenant
  | [] => c

/-- The digests of a tenant stop, their commands complete FROGGED (R470). -/
def Chip.frogDigests (c : Chip) (t : Nat) : Chip :=
  let hit := c.part.digests.filter (fun g => g.tenant == t)
  let running := (List.range 8).filter (fun d => (c.part.digests.find? (fun g => g.die == d)).any (fun g => g.tenant == t))
  let c := c.onPart (fun y => { y with digests := y.digests.filter (fun g => g.tenant != t) })
  let c := c.each hit (fun c g => match c.cmd.cmds.find? (fun (x : Cmd) => x.src == g.src && x.idx == g.idx) with
    | some x => if x.result.isNone then c.endCmd x csFROGGED 0 0 else c
    | none => c)
  let c := c.each running (fun c d => (c.wr (R.CMP_DIGEST_STATUS_STATUS d) csFROGGED).wr (R.CMP_DIGEST_STATUS_STATE d) 3)
  (c.each (List.range 8) Chip.digestNow).partCounts t

/-- A frog takes effect at the package (R462): the outcomes of R174, R198, R280, R302, R335, R397, R414 and R449. -/
def Chip.frogNow (c : Chip) (t : Nat) : Chip :=
  let self := (c.part.waits.find? (fun w => w.tenant == t)).map (fun w => (w.src, w.idx))
  let c := (c.setPartState t psFROGGED).onPart (fun y => { y with frogs := y.frogs.filter (fun f => f.tenant != t), draining := putKey t c.row y.draining })
  let c := (((c.stopWork t).frogCmds t self).frogDigests t).frogXport t
  let c := ((((((c.frogSync t).frogRuns t).onPart (fun y => { y with park := y.park ++ [t] })).frogCombine t).frogEdge t).frogMems t).frogDma t
  (c.event Ev.frog (some t) 0 [c.row % 2 ^ 32]).frogAnswer t c.row

/-- The frogs that are due act as the first step of a boundary (R462). -/
def Chip.frogStep (c : Chip) : Chip :=
  let c := c.each (c.part.frogs.filter (fun f => decide (f.row ≤ c.row))) (fun c f => c.frogNow f.tenant)
  c.sendFrogAcks

/-- The circuits of tenants that were frogged or reset before this boundary are parked at it (R198, R455): `l` names those tenants. -/
def Chip.parkStep (c : Chip) (l : List Nat) : Chip := c.each l Chip.frogPark

/-- PART_FROG (R461). -/
def execPartFrog (src : CmdSrc) (idx : BitVec 16) (s : State) : Result :=
  .next (s.partCmd src idx.toNat 0x55 true false [psRUNNING, psREADY, psFROGGED] Cmd.partition (fun s x t => s.onChip (fun c =>
    let cause := x.par 8 1
    let id := c.part.started % 65536
    let row := c.row + max 16 (c.rd R.PART_FROG_CFG_LEAD)
    let spid := c.rd (R.PART_SPID_SPID t)
    let already := c.partState t == psFROGGED
    let w : FrogWait := ⟨src, idx.toNat, t, spid, id, row, []⟩
    let c := c.onPart (fun y => { y with started := y.started + 1, waits := y.waits ++ [w], wants := y.wants ++ [⟨t, c.node, id, cause⟩] })
    let c := c.setCmd x { x with committed := true }
    let c := if already then c else c.armFrog t id row
    let c := c.each ((c.frogMembers t).filter (fun m => m != c.node)) (fun c m => c.send 31 (c.ctrlStitch m 4 (frogData spid t 1 id row c.node c.node cause)))
    if already then c.frogAnswer t ((getKey t c.part.draining).getD row) else c)))

/-- A FROG of KIND 0x1 (R461, R471): armed where it matches a joined tenant, else discarded and recorded. -/
def Chip.frogIn (c : Chip) (st : Stitch) : Chip :=
  let t := st.data.getD 4 0 % 16
  let spid := leField st.data 0 4
  let id := leField st.data 6 2
  if !(c.on (R.PART_STATE_JOINED t) && c.rd (R.PART_SPID_SPID t) == spid) then c.event Ev.frog (some t) (Unit.node (st.srcNode % 4096)) [spid, id]
  else
    let c := c.onPart (fun y => { y with wants := y.wants ++ [⟨t, leField st.data 14 2 % 4096, id, st.data.getD 18 0⟩] })
    if c.partState t = psFROGGED then c.frogAnswer t ((getKey t c.part.draining).getD c.row) |>.sendFrogAcks
    else c.armFrog t id (leField st.data 8 6)

/-- A FROG of KIND 0x2 (R461). -/
def Chip.frogAckIn (c : Chip) (st : Stitch) : Chip :=
  let t := st.data.getD 4 0 % 16
  if c.rd (R.PART_SPID_SPID t) = leField st.data 0 4 then c.frogAcked t (leField st.data 6 2) (leField st.data 16 2 % 4096) else c

/-- A FROG stitch at the service (R460). -/
def Chip.frogStitch (c : Chip) (st : Stitch) : Chip :=
  if st.data.getD 5 0 = 1 then c.frogIn st else if st.data.getD 5 0 = 2 then c.frogAckIn st else c

/-- FROG_ARRIVAL (R461). -/
def execFrogArrival (st : Stitch) (s : State) : Result := .next (s.onChip (fun c => if st.data.getD 5 0 = 1 then c.frogIn st else c))

/-- FROG_ACK_ARRIVAL (R461). -/
def execFrogAckArrival (st : Stitch) (s : State) : Result := .next (s.onChip (fun c => if st.data.getD 5 0 = 2 then c.frogAckIn st else c))

/-- FROG_EFFECT (R462). -/
def execFrogEffect (tenant : Fin 16) (s : State) : Result :=
  .next (s.onChip (fun c => if c.part.frogs.any (fun f => f.tenant == tenant.val && decide (f.row ≤ c.row)) then (c.frogNow tenant.val).sendFrogAcks else c))

/-- FROG_ACK_TIMEOUT (R461). -/
def execFrogAckTimeout (tenant : Fin 16) (s : State) : Result :=
  .next (s.onChip (fun c =>
    if c.part.waits.any (fun w => w.tenant == tenant.val && decide (w.row + c.rdPos R.PART_FROG_WAIT_ACK_WAIT ≤ c.row)) then c.frogCheck tenant.val true else c))

/-- FROG_DRAIN_END (R462). -/
def execFrogDrainEnd (tenant : Fin 16) (s : State) : Result :=
  .next (s.onChip (fun c => match getKey tenant.val c.part.draining with
    | some f => if f + max 0x1000 (c.rd R.PART_FROG_CFG_DRAIN) ≤ c.row then
        (c.setPartState tenant.val psREADY).onPart (fun y => { y with draining := delKey tenant.val y.draining })
      else c
    | none => c))

/-! Delivery of error reports (R466). -/

/-- A report is written to the fault ring of a tenant, which counts it. -/
def State.ringReport (s : State) (t : Nat) (r : Report) : State :=
  let c := s.chip.count (R.PART_FAULT_COUNT_REPORTS t)
  let c := if c.rd (R.PART_FIRST_UNIT_UNIT t) = 0 then c.wr (R.PART_FIRST_UNIT_UNIT t) r.unit else c
  if !c.on (R.PART_FAULT_RING_CFG_EN t) then { s with chip := c }
  else
    let size := 2 ^ c.rd (R.PART_FAULT_RING_CFG_SIZE_LOG2 t)
    let n := c.rd (R.PART_FAULT_PROD_COUNT t)
    if subMod 16 n (c.rd (R.PART_FAULT_CONS_COUNT t)) = size then { s with chip := c.count (R.PART_FAULT_COUNT_DROPPED t) }
    else
      let a := c.rdPair (R.PART_FAULT_RING_LO_ADDR t) (R.PART_FAULT_RING_HI_ADDR t) + 32 * (n % size)
      let s := { s with chip := c.wr (R.PART_FAULT_PROD_COUNT t) (n + 1) }
      let s := if s.chip.viewStatus t a 32 = stOK then s.viewWrite t a (r.bytes s.chip.node) else s
      let sync := s.chip.rd (R.PART_FAULT_RING_CFG_FAULT_SYNC t)
      if sync = 0xFFFF then s else s.onChip (fun c => c.landing sync 1 stOK)

/-- What the ring writes of a report have to wait for. -/
def Chip.ringObstacle (c : Chip) (r : Report) : Option (Nat × List Nat × Option Nat) :=
  r.rings.findSome? (fun t => if c.on (R.PART_FAULT_RING_CFG_EN t) then
      c.viewObstacle t (c.rdPair (R.PART_FAULT_RING_LO_ADDR t) (R.PART_FAULT_RING_HI_ADDR t) + 32 * (c.rd (R.PART_FAULT_PROD_COUNT t) % 2 ^ c.rd (R.PART_FAULT_RING_CFG_SIZE_LOG2 t))) 32 true
    else none)

/-- The oldest report is delivered to fault rings and the fabric manager while a PCU holds the token (R464, R466). -/
def State.deliverReport (s : State) : State :=
  match s.chip.reports with
  | [] => s
  | r :: rest =>
    if !s.chip.tokenHeld then s
    else match s.chip.ringObstacle r with
    | some o => s.onChip (fun c => c.probe o false)
    | none =>
      let s := r.rings.foldl (fun (s : State) t => s.ringReport t r) { s with chip := { s.chip with reports := rest } }
      s.onChip (fun c => if c.on R.ROUTE_FM_EN then c.send 31 (c.ctrlStitch (c.rd R.ROUTE_FM_NODE) 5 (r.bytes c.node)) else c.count R.PART_FAULT_SEQ_FM_DROPPED)

/-! Digests (R468 to R470). -/

/-- A byte into a CRC-64, most significant bit first. -/
def crc64Byte (crc b : Nat) : Nat :=
  (List.range 8).foldl (fun c _ => if 2 ^ 63 ≤ c then Nat.xor (c * 2 % 2 ^ 64) 0x42F0E1EBA9EA3693 else c * 2) (Nat.xor crc (b * 2 ^ 56))

/-- The CRC-64 of R468. -/
def crc64 (l : List Nat) : Nat := l.foldl crc64Byte 0

/-- PART_DIGEST (R468, R470). -/
def execPartDigest (src : CmdSrc) (idx : BitVec 16) (s : State) : Result :=
  .next (s.partCmd src idx.toNat 0x58 true true [psRUNNING, psREADY] Cmd.partition (fun s x t => s.onChip (fun c =>
    let d := x.par 8 1
    let a := x.par 16 8
    let n := x.par 24 8
    if 7 < d ∨ a % 4096 ≠ 0 ∨ n % 4096 ≠ 0 ∨ n = 0 ∨ 2 ^ 40 < n then c.endCmd x csINVALID 0 0
    else if 9 ≤ (c.part.digests.filter (fun g => g.die == d)).length then c.endCmd x csBUSY 0 0
    else
      let c := c.onPart (fun y => { y with digests := y.digests ++ [⟨d, src, idx.toNat, t, a, n⟩] })
      ((c.setCmd x { x with committed := true }).digestNow d).partCounts t)))

/-- The first status that a region's reads meet: WINDOW beyond the tenant's HBM view and SRAM pages, MEM_ERR where a place is retired (R468, R469). -/
def Chip.digestStatus (c : Chip) (t a n : Nat) : Nat :=
  if (rangeOf a == .hbm || rangeOf a == .sram) && (rangeOf (a + n - 1) == rangeOf a) then c.viewStatus t a n else stWINDOW

/-- DIGEST_COMPLETE (R469): the digest that runs on a die has read its region. -/
def execDigestComplete (die : Fin 8) (s : State) : Result :=
  .next (
    let d := die.val
    match s.chip.part.digests.find? (fun g => g.die == d) with
    | none => s
    | some g =>
      let st := s.chip.digestStatus g.tenant g.addr g.len
      let fin := fun (s : State) (crc : Nat) => s.onChip (fun c =>
        let c := c.onPart (fun y => { y with digests := dropFirst (fun h => h == g) y.digests })
        let c := (c.wr (R.CMP_DIGEST_STATUS_STATE d) (if st = stOK then 2 else 3)).wr (R.CMP_DIGEST_STATUS_STATUS d) st
        let c := if st = stOK then c.wrPair (R.CMP_DIGEST_LO_CRC d) (R.CMP_DIGEST_HI_CRC d) crc else c
        let c := (c.digestNow d).partCounts g.tenant
        match c.cmd.cmds.find? (fun (x : Cmd) => x.src == g.src && x.idx == g.idx) with
        | some x => if st = stOK then c.endCmd x stOK (crc % 2 ^ 32) (crc / 2 ^ 32) else c.endCmd x st 0 0
        | none => c)
      if st ≠ stOK then fin s 0
      else match s.chip.viewObstacle g.tenant g.addr g.len false with
      | some o => s.onChip (fun c => c.probe o true)
      | none => fin s (crc64 (s.viewBytes g.tenant g.addr g.len)))

end Sys2Proof.Machine
end

