-- ==== Sys2Proof/Machine/Clocks.lean ====
section
/-! DEFINITION. The clocks: frequency changes, source multiplexers, domain resets, lost PLLs, loss of REFCLK, gating (R472 to R492). -/

namespace Sys2Proof.Machine

/-! Dies, regions and points (R475, R501). -/

/-- The regions of die `d`: nine of a compute die, five of a processor die (8 and 9). -/
def regionsOf (d : Nat) : List Nat := if d < 8 then (List.range 9).map (fun i => 9 * d + i) else (List.range 5).map (fun i => 72 + 5 * (d - 8) + i)

/-- The die that a region belongs to; none for memory sites and host I/O slots. -/
def dieOfRegion (r : Nat) : Option Nat := if r < 72 then some (r / 9) else if r < 82 then some (8 + (r - 72) / 5) else none

/-- MULT of a region for its die's MULT: a processor uncore takes at most 80 (R475). -/
def regionMult (r mult : Nat) : Nat := if r = 76 ∨ r = 81 then min mult 80 else mult

/-- The points of a die as MULT and table voltage in mV (R501). -/
def pointTable (d : Nat) : List (Nat × Nat) :=
  if d < 8 then [(24, 600), (32, 630), (40, 660), (48, 695), (56, 730), (64, 765), (68, 790), (72, 820)]
  else [(32, 600), (48, 640), (64, 680), (80, 720), (100, 770), (120, 820)]

/-- The lowest point that a MULT needs. -/
def pointOf (d mult : Nat) : Nat := ((pointTable d).takeWhile (fun p => decide (p.1 < mult))).length

/-- MULT of a point. -/
def multOf (d point : Nat) : Nat := ((pointTable d).getD point (0, 0)).1

/-- The voltage of a point of a die in mV: the table's plus the trim, never below 600 (R501, R502). -/
def Chip.pointVolts (c : Chip) (d point : Nat) : Nat :=
  max 600 ((((pointTable d).getD point (0, 820)).2 : Int) + toSigned 8 (c.rd (R.PWR_DIE_TRIM d))).toNat

/-- The rail of a die has a setpoint; the regulator clamps it at 820 mV (R496). -/
def Chip.setRail (c : Chip) (d mv : Nat) : Chip :=
  let c := if 820 < mv then c.event Ev.clamped none 0 [d, mv] else c
  c.wr (R.PWR_RAIL_SET_MV d) (min 820 mv)

/-- RELOCK_MAX and ANNOUNCE_MIN as they act. -/
def Chip.relockMax (c : Chip) : Nat := max 12 (c.rd R.CLK_CFG_RELOCK_MAX)
def Chip.announceMin (c : Chip) : Nat := max 2 (c.rd R.CLK_CFG_ANNOUNCE_MIN)

/-- Whether a region's PLL may be switched away from or to (R484). -/
def Chip.pllGood (c : Chip) (r : Nat) : Bool := c.on (R.CLK_REGION_LOCK r) && c.on (R.CLK_REGION_MON_OK r)

/-- A region whose clocks run and whose PLL is not fenced. -/
def Chip.regionLive (c : Chip) (r : Nat) : Bool := !c.on (R.CLK_REGION_GATED r) && !c.on (R.CLK_REGION_FENCED r)

/-- Whether a die's droop response is active: one of its regions is stretching (R508). -/
def Chip.droopActive (c : Chip) (d : Nat) : Bool := (regionsOf d).any (fun r => c.pwr.stretching.contains r)

/-- Whether the emergency path holds a die (R503). -/
def Chip.inEmergency (c : Chip) (d : Nat) : Bool := c.pwr.emergency.any (fun e => e.1 == d)

/-! Lost PLLs (R486). -/

/-- The unit by which a loss is reported when nothing was fenced (R486), and the tenants it serves. -/
def Chip.regionUnit (c : Chip) (r : Nat) : Nat × List Nat :=
  if r < 72 then (if r % 9 < 8 then (Unit.core (r / 9) (17 * (r % 9)), (c.coreTenant (r / 9) (17 * (r % 9))).toList)
                  else (Unit.qp (r / 9) 0, ((c.qpQueues (r / 9) 0).map (·.1)).eraseDups))
  else if r < 82 then (Unit.hart ((r - 72) / 5) (if (r - 72) % 5 = 4 then 0 else 24 * ((r - 72) % 5)), [])
  else if r < 90 then (Unit.pc (r - 82) 0 0, [])
  else (Unit.subPort (4 * (r - 90)), [])

/-- A region's PLL is fenced; a die's change in progress notes it (R486, R492). -/
def Chip.fencePll (c : Chip) (r : Nat) : Chip :=
  let c := (((c.wr (R.CLK_REGION_FENCED r) 1).wr (R.CLK_REGION_LOCK r) 0).wr (R.CLK_REGION_MON_OK r) 0).event Ev.pllLoss none 0 [r]
  c.onClk (fun x => { x with running := x.running.map (fun f => if dieOfRegion r = some f.die then { f with lost := true } else f) })

/-- The PLL of a host I/O slot is lost: its sub-ports go down and train again once it has relocked; after three failed relocks they are held in reset. -/
def Chip.slotPll (c : Chip) (sl : Nat) : Chip :=
  let n := (getKey sl c.clk.failed).getD 0
  let c := ((c.wr (R.CLK_REGION_LOCK (90 + sl)) 0).wr (R.CLK_REGION_SRC (90 + sl)) 3).event Ev.pllLoss none 0 [90 + sl]
  let c := c.each (List.range 4) (fun c b =>
    let r := 4 * sl + b
    if c.rd (R.HIO_PORT_STATUS_STATE r) = 4 then c
    else
      let c := if c.rd (R.HIO_PORT_STATUS_STATE r) = 2 then (c.count (R.HIO_PORT_STATUS_DOWNS r)).event Ev.linkDown none (Unit.subPort r) [] else c
      c.setPort r (if n < 3 then 1 else 0) 0 0 0 0)
  if n < 3 then c.onClk (fun x => { x with resets := x.resets.filter (fun y => y.region != 90 + sl) ++ [⟨90 + sl, c.row, false⟩] }) else c.wr (R.CLK_REGION_FENCED (90 + sl)) 1

/-- A regional PLL is lost while its clock still runs at half its count or more: the region goes to INT, a memory site to the paired PLL, or with none left its
pseudo-channels retire (R486). -/
def Chip.pllLost (c : Chip) (r : Nat) : Chip :=
  let u := c.regionUnit r
  if 90 ≤ r then (c.slotPll (r - 90)).report u.1 u.2 0 0 0 actReported
  else if 82 ≤ r then
    if c.on (R.CLK_REGION_FENCED r) then
      let c := (c.fencePll r).wr (R.CLK_REGION_SRC r) 3
      let c := c.each (List.range 2) (fun c st => c.each (List.range 64) (fun c q => c.retirePc (r - 82) st q))
      c.report u.1 u.2 0 0 0 actRetired
    else (((c.fencePll r).wr (R.CLK_REGION_SRC r) 2).wr (R.CLK_REGION_LOCK r) 1).wr (R.CLK_REGION_MON_OK r) 1 |>.report u.1 u.2 0 0 0 actReported
  else
    let c := c.fencePll r
    (if c.on (R.CLK_REGION_GATED r) then c else c.wr (R.CLK_REGION_SRC r) 1).report u.1 u.2 0 0 0 actReported

/-- A die's regions go to INT, those that are neither gated nor fenced; one whose check fails is lost (R480, R484, R503). -/
def Chip.toInt (c : Chip) (d : Nat) : Chip :=
  c.each (regionsOf d) (fun c r =>
    if c.regionLive r && c.rd (R.CLK_REGION_SRC r) == 0 then (if c.pllGood r then c.wr (R.CLK_REGION_SRC r) 1 else c.pllLost r) else c)

/-! Frequency changes (R479, R480, R507). -/

/-- STATUS of a die's last change, with the row. -/
def Chip.fchgStatus (c : Chip) (d st : Nat) : Chip := (c.wr (R.CLK_FCHG_RESULT_STATUS d) st).wr (R.CLK_FCHG_RESULT_ROW d) c.row16

/-- An announced change of a die is withdrawn with a status. -/
def Chip.withdraw (c : Chip) (d st : Nat) : Chip :=
  if c.clk.announced.any (fun f => f.die == d) then
    ((c.onClk (fun x => { x with announced := x.announced.filter (fun f => f.die != d) })).fchgStatus d st).wr (R.CLK_FCHG_NOW_TARGET d) 0
  else c

/-- A change is refused. -/
def Chip.fchgRefuse (c : Chip) (d st : Nat) : Chip := (c.fchgStatus d st).wr R.CLK_STATUS_FCHG_REJECT 1

/-- A change of a die to a MULT is announced for a row: a raise starts the rail at once (R479, R507). -/
def Chip.announce (c : Chip) (d mult row : Nat) : Chip :=
  let lo := if d < 8 then 24 else 32
  let hi := if d < 8 then 72 else 120
  if mult < lo ∨ hi < mult then c.fchgRefuse d 4
  else if row < c.row + c.announceMin then c.fchgRefuse d 5
  else if c.clk.announced.any (fun f => f.die == d) ∨ c.clk.running.any (fun f => f.die == d) then c.fchgRefuse d 6
  else
    let old := c.rd (R.PWR_RAIL_SET_MV d)
    let new := c.pointVolts d (pointOf d mult)
    let c := if old < new then c.setRail d new else c
    let c := c.onClk (fun x => { x with announced := x.announced ++ [⟨d, mult, row, c.now + 40 * (new - old)⟩] })
    ((c.fchgStatus d 1).wr (R.CLK_FCHG_RESULT_DEFERS d) 0).wr (R.CLK_FCHG_NOW_TARGET d) mult

/-- The first row after this one whose low 16 bits are `low` (R479). -/
def Chip.rowAhead (c : Chip) (low : Nat) : Nat := c.row + (if subMod 16 low c.row = 0 then 65536 else subMod 16 low c.row)

/-- CLK.FCHG_d (R479): CANCEL withdraws an announced change, GO announces one. -/
def fchgHook (d v : Nat) : WriteHook :=
  .does (fun c =>
    let c := if bitOf v 30 then c.withdraw d 8 else c
    if bitOf v 31 then c.announce d (fget v 29 23) (c.rowAhead (fget v 15 0)) else c)

/-- FCHG_ANNOUNCE: a write of CLK.FCHG_d (R479). -/
def execFchgAnnounce (req : Requester) (d : Fin 10) (v : BitVec 32) (s : State) : Result :=
  .next (s.onChip (fun c => c.writeReg req (R.CLK_FCHG d.val) v.toNat (fchgHook d.val v.toNat)))

/-- FCHG_CANCEL: a write of CLK.FCHG_d (R479). -/
def execFchgCancel (req : Requester) (d : Fin 10) (v : BitVec 32) (s : State) : Result :=
  .next (s.onChip (fun c => c.writeReg req (R.CLK_FCHG d.val) v.toNat (fchgHook d.val v.toNat)))

/-- The regions of a die whose PLLs have locked run at their MULT from a boundary: they leave INT, but while the emergency path holds the die above its lowest MULT (R480, R503). -/
def Chip.leaveInt (c : Chip) (d mult : Nat) : Chip :=
  let stay := c.inEmergency d && mult != multOf d 0
  c.each (regionsOf d) (fun c r =>
    let c := c.wr (R.CLK_REGION_MULT r) (regionMult r mult)
    if c.regionLive r && c.rd (R.CLK_REGION_SRC r) == 1 && c.pllGood r && !stay && !c.clk.resets.any (fun x => x.region == r) then c.wr (R.CLK_REGION_SRC r) 0 else c)

/-- A frequency change whose PLLs have locked completes at a boundary; a lowered rail follows (R480, R507). -/
def Chip.fchgDone (c : Chip) (f : FreqRun) : Chip :=
  let c := c.onClk (fun x => { x with running := x.running.filter (fun g => g.die != f.die) })
  let c := (c.leaveInt f.die f.mult).wr (R.CLK_FCHG_NOW_MULT f.die) f.mult
  let p := pointOf f.die f.mult
  let due := if c.pwr.trimDue.contains f.die then 5 else 0
  let c := (c.wr (R.PWR_DIE_POINT f.die) p).setRail f.die (max 600 (c.pointVolts f.die p - due))
  let c := (c.wr (R.CLK_FCHG_NOW_TARGET f.die) 0).fchgStatus f.die (if f.lost then 9 else 3)
  if f.lost then c.event Ev.fchgDropped none 0 [f.die, 9] else c

/-- An announced change at its boundary (R29, R480, R507): dropped without the token, deferred while a droop response is active or the rail is not there, else begun. -/
def Chip.fchgBegin (c : Chip) (f : FreqChange) : Chip :=
  if !c.tokenHeld then
    ((c.withdraw f.die 7).event Ev.fchgDropped none 0 [f.die, 7]).onClk (fun x => { x with dropped := putKey f.die f.mult x.dropped })
  else if c.droopActive f.die ∨ c.now < f.settled then c.count (R.CLK_FCHG_RESULT_DEFERS f.die)
  else
    let c := c.onClk (fun x => { x with announced := x.announced.filter (fun g => g.die != f.die), running := x.running ++ [⟨f.die, f.mult, c.row, false, false⟩] })
    let c := (c.toInt f.die).fchgStatus f.die 2
    c.each (regionsOf f.die) (fun c r => if c.regionLive r then (c.wr (R.CLK_REGION_LOCK r) 0).wr (R.CLK_REGION_MON_OK r) 0 else c)

/-- The unit that takes the token announces every dropped change again, for the first row that the notice allows (R29, R479; the row is a DESIGN CHOICE, log entry 115). -/
def Chip.reannounce (c : Chip) : Chip :=
  (c.onClk (fun x => { x with dropped := [] })).each c.clk.dropped (fun c x => c.announce x.1 x.2 (c.row + c.announceMin))

/-- Step 7 of a row boundary (R175, R480): changes whose PLLs have locked complete, changes of this row begin, and regions after a domain reset return to their PLLs. -/
def Chip.fchgStep (c : Chip) : Chip :=
  let c := c.each (c.clk.running.filter (fun f => f.locked)) Chip.fchgDone
  let back := c.clk.resets.filter (fun x => x.locked)
  let c := c.onClk (fun x => { x with resets := x.resets.filter (fun y => !y.locked) })
  let c := c.each back (fun c x =>
    let c := match dieOfRegion x.region with
      | some d => c.leaveInt d (c.rd (R.CLK_FCHG_NOW_MULT d))
      | none => c.wr (R.CLK_REGION_SRC x.region) (if c.on (R.CLK_REGION_FENCED x.region) then 2 else 0)
    if c.rd R.CLK_DOMAIN_RESET_RESULT_REGION = x.region then (c.wr R.CLK_DOMAIN_RESET_RESULT_STATUS 2).wr R.CLK_DOMAIN_RESET_RESULT_ROW c.row16 else c)
  c.each (c.clk.announced.filter (fun f => decide (f.row ≤ c.row))) Chip.fchgBegin

/-- PLL_RELOCK_DONE (R480, R485, R486, R490). -/
def execPllRelockDone (what : PllLock) (s : State) : Result :=
  .next (s.onChip (fun c =>
    let lock := fun (c : Chip) (r : Nat) => (c.wr (R.CLK_REGION_LOCK r) 1).wr (R.CLK_REGION_MON_OK r) 1
    match what with
    | .die d =>
      if c.clk.running.any (fun f => f.die == d.val && !f.locked) then
        let c := c.each (regionsOf d.val) (fun c r => if c.regionLive r && !c.clk.resets.any (fun x => x.region == r) then lock c r else c)
        c.onClk (fun x => { x with running := x.running.map (fun f => if f.die = d.val then { f with locked := true } else f) })
      else c
    | .region r =>
      let hit := fun (l : List Relock) => l.any (fun x => x.region == r.val && !x.locked)
      let done := fun (l : List Relock) => l.map (fun x => if x.region = r.val then { x with locked := true } else x)
      let c := if hit c.clk.resets then (lock c r.val).onClk (fun x => { x with resets := done x.resets, failed := delKey (r.val - 90) x.failed }) else c
      if hit c.clk.waking then (lock c r.val).onClk (fun x => { x with waking := done x.waking }) else c))

/-- RELOCK_TIMEOUT (R480, R485, R486, R490): a PLL that was to lock has not within RELOCK_MAX rows. -/
def execRelockTimeout (r : Fin 94) (s : State) : Result :=
  .next (s.onChip (fun c =>
    let late := fun (row : Nat) => decide (row + c.relockMax ≤ c.row)
    let inRun := c.clk.running.any (fun f => dieOfRegion r.val == some f.die && !f.locked && late f.row)
    let c := if inRun && c.regionLive r.val && !c.on (R.CLK_REGION_LOCK r.val) then c.pllLost r.val else c
    let c := if c.clk.resets.any (fun x => x.region == r.val && !x.locked && late x.row) then
        let c := c.onClk (fun x => { x with resets := x.resets.filter (fun y => y.region != r.val) })
        if 90 ≤ r.val then
          ((c.onClk (fun x => { x with failed := putKey (r.val - 90) ((getKey (r.val - 90) x.failed).getD 0 + 1) x.failed })).slotPll (r.val - 90))
        else
          let c := c.pllLost r.val
          if c.rd R.CLK_DOMAIN_RESET_RESULT_REGION = r.val then (c.wr R.CLK_DOMAIN_RESET_RESULT_STATUS 4).wr R.CLK_DOMAIN_RESET_RESULT_ROW c.row16 else c
      else c
    if c.clk.waking.any (fun x => x.region == r.val && !x.locked && late x.row) then
      (c.pllLost r.val).onClk (fun x => { x with waking := x.waking.map (fun y => if y.region = r.val then { y with locked := true } else y) })
    else c))

/-! Domain resets (R485). -/

/-- The units whose state a domain reset destroyed are fenced under their own rules; a running digest of a die region ends. The owners of locks among them count as reset (R289). -/
def Chip.fenceRegion (c : Chip) (r : Nat) : Chip :=
  if r < 72 then
    let d := r / 9
    if r % 9 < 8 then c.each (List.range 17) (fun c p => (c.resetOwner d (17 * (r % 9) + p)).coreFault d (17 * (r % 9) + p) none)
    else
      let c := (c.resetOwner d 0xFF).each (List.range 4) (fun c n => c.qpFault d n)
      match c.part.digests.find? (fun g => g.die == d) with
      | none => c
      | some g =>
        let c := c.onPart (fun y => { y with digests := dropFirst (fun h => h == g) y.digests })
        let c := (((c.wr (R.CMP_DIGEST_STATUS_STATE d) 3).wr (R.CMP_DIGEST_STATUS_STATUS d) dsENGINE_FAULT).digestNow d).partCounts g.tenant
        match c.cmd.cmds.find? (fun (x : Cmd) => x.src == g.src && x.idx == g.idx) with
        | some x => c.endCmd x dsENGINE_FAULT 0 0
        | none => c
  else if r < 82 then
    let p := (r - 72) / 5
    let q := (r - 72) % 5
    if q = 4 then ((c.each (List.range 96) (fun c k => c.resetOwner (8 + p) k)).resetOwner (8 + p) 0xFF).fenceDie p
    else c.each (List.range 24) (fun c k => (c.resetOwner (8 + p) (24 * q + k)).fenceHart p (24 * q + k))
  else c

/-- A domain reset of a region: to INT, its units fenced once units run, the PLL that served it to relock (R485): a memory site may be on the paired one. -/
def Chip.domainReset (c : Chip) (r : Nat) : Chip :=
  let c := ((c.wr R.CLK_DOMAIN_RESET_RESULT_STATUS 1).wr R.CLK_DOMAIN_RESET_RESULT_REGION r).wr R.CLK_DOMAIN_RESET_RESULT_ROW c.row16
  let paired := c.rd (R.CLK_REGION_SRC r) = 2
  let c := (if c.on (R.CLK_REGION_GATED r) then c else c.wr (R.CLK_REGION_SRC r) 1).event Ev.domainReset none 0 [r]
  let c := if c.ready then c.fenceRegion r else c
  if c.on (R.CLK_REGION_FENCED r) ∧ ¬ paired then c.wr R.CLK_DOMAIN_RESET_RESULT_STATUS 4
  else ((c.wr (R.CLK_REGION_LOCK r) 0).wr (R.CLK_REGION_MON_OK r) 0).onClk (fun x => { x with resets := x.resets.filter (fun y => y.region != r) ++ [⟨r, c.row, false⟩] })

/-- CLK.DOMAIN_RESET. -/
def domainResetHook (v : Nat) : WriteHook :=
  .does (fun c =>
    let r := fget v 6 0
    if bitOf v 31 = false then c
    else if r < 90 then c.domainReset r
    else (c.wr R.CLK_DOMAIN_RESET_RESULT_STATUS 3).wr R.CLK_DOMAIN_RESET_RESULT_ROW c.row16)

/-- DOMAIN_RESET: a write of CLK.DOMAIN_RESET (R485). -/
def execDomainReset (req : Requester) (v : BitVec 32) (s : State) : Result :=
  .next (s.onChip (fun c => c.writeReg req R.CLK_DOMAIN_RESET v.toNat (domainResetHook v.toNat)))

/-- MUX_HANG (R482): a switch of a region's multiplexer has not completed within MUX_WATCH cycles. -/
def execMuxHang (r : Fin 90) (s : State) : Result :=
  .next (s.onChip (fun c => (((c.wr (R.CLK_REGION_HUNG r.val) 1).wr R.CLK_STATUS_HUNG_SEEN 1).event Ev.muxHang none 0 [r.val]).domainReset r.val))

/-- REGIONAL_PLL_LOSS (R486): not acted on while REFCLK is flagged absent (R487). `stopped`: the clock gives less than half its count. Then the region of a die hangs until its watchdog
resets it. -/
def execRegionalPllLoss (r : Fin 94) (stopped : Bool) (s : State) : Result :=
  .next (s.onChip (fun c =>
    if c.clk.absent ∨ c.on (R.CLK_REGION_FENCED r.val) ∧ ¬ c.rd (R.CLK_REGION_SRC r.val) = 2 then c
    else if stopped ∧ r.val < 82 then (c.fencePll r.val).wr (R.CLK_REGION_SRC r.val) 3
    else c.pllLost r.val))

/-! REFCLK (R474, R487, R488). -/

/-- What stays of a written register when the package is cast on with its always-on island powered: the control units' own registers, the event recorder but for its hit counters, the
REFCLK counters, the energy counter and the counts of throttled rows (R500, R511), and the fences that last for the power-on period (R305, R330, R384, R400, R448, R463, R487, R543); a lost PLL keeps its outcome until the cast-on alone (R486, log entry 47). Every other register takes its reset value. -/
def keptWord (off : Nat) (w : Word) : Option Word :=
  let v := w.toNat
  match findReg off with
  | none => none
  | some (r, _) =>
    if r.blk = .pcu then (if 0x10000 ≤ off ∨ (0x2020 ≤ off ∧ off < 0x2054) then none else some w)
    else if r.blk = .evr then (if r.base = R.EVR_TRIG_HITS 0 then none else some w)
    else if off = R.CLK_REFCLK_MON ∨ off = R.CLK_REFCLK_LAST ∨ off = R.PWR_ENERGY_LO ∨ off = R.PWR_ENERGY_HI ∨ r.base = R.PWR_THR_ROWS_LO 0 ∨ r.base = R.PWR_THR_ROWS_HI 0 ∨ off = R.PART_RETIRED_Q_LO ∨ off = R.PART_RETIRED_Q_HI
        ∨ r.base = R.MEM_PC_RETIRED_LO 0 0 ∨ r.base = R.MEM_PC_RETIRED_HI 0 0 then some w
    else if r.base = R.MEM_STATUS 0 then
      some (BitVec.ofNat 32 (fset (fset (fset 0 31 28 (if fget v 31 28 = 4 then 4 else 0)) 27 20 (fget v 27 20)) 19 12 (fget v 19 12)))
    else if r.base = R.CMP_CORE_STATE 0 0 then (if fget v 31 29 = 5 then some (BitVec.ofNat 32 (fset (fset 0 31 29 5) 28 24 0x1F)) else none)
    else if r.base = R.CMP_CL_STATUS 0 0 then some (BitVec.ofNat 32 (fget v 16 0))
    else if r.base = R.CMP_CL_SRAM 0 0 then some (BitVec.ofNat 32 (fset 0 31 16 (fget v 31 16)))
    else if r.base = R.CMP_QP_STATUS 0 0 then (if fget v 31 28 = 4 then some (BitVec.ofNat 32 (fset 0 31 28 4)) else none)
    else if r.base = R.CPU_CORE_STATE 0 0 then (if fget v 31 28 = 4 then some (BitVec.ofNat 32 (fset 0 31 28 4)) else none)
    else if r.base = R.CPU_DIE_STATUS 0 then some (BitVec.ofNat 32 (fset (fset 0 31 28 (if fget v 31 28 = 3 then 3 else 0)) 19 12 (fget v 19 12)))
    else none

/-- A register word once its die is held in reset: a compute, processor or memory adapter die keeps its fences and retirements alone, and what lies in the base layer stays (R23). -/
def dieWord (off : Nat) (w : Word) : Option Word :=
  match findReg off with
  | some (r, _) => if r.blk = .cmp ∨ r.blk = .cpu ∨ r.blk = .mem then keptWord off w else some w
  | none => some w

/-- What was under way between the dies is gone with them: stitches, runs, partials, copies, accesses that waited, sync objects, digests and frogs (R23, R270, R280, R302, R488, R524). -/
def Chip.dropTraffic (c : Chip) : Chip :=
  { c with xport := {}, red := {}, sync := {}, part := {}, mems := { sramRetired := c.mems.sramRetired }
           circ := { c.circ with src := [], dst := [], waits := [], early := [] }
           edge := { c.edge with pools := [], detour := [], portQ := [], relay := [] } }

/-- Every die above the base layer is held in reset until cast-on releases it (R23): no hart, core or queue processor executes and no memory site answers; what was resident or queued
in them and the commands they carried are gone, and the sessions of their harts end (R433). -/
def Chip.holdDies (c : Chip) : Chip :=
  let c := c.each (List.range 4) (fun c n => if c.rd (R.SEC_SESSION_BIND n) = 0 then c.closeSession n else c)
  ({ c with regs := c.regs.filterMap (fun x => (dieWord x.1 x.2).map (fun w => (x.1, w)))
            comp := { tag := c.comp.tag }, mxe := {}, cmd := { fmNext := c.cmd.fmNext } } : Chip).dropTraffic

/-- The outputs that asynchronous logic forces in the safe state, in power fail and in a trip (R488, R514, R524, R564 to R567): ports dark, PCIe ports in reset, PKG_READY low, FAULT_n
asserted; rows stop, and the dies above the base layer are held (R23). -/
def Chip.forceOutputs (c : Chip) (phase : Phase) : Chip :=
  let c := c.each (List.range 16) (fun c r => if c.rd (R.HIO_PORT_STATUS_STATE r) = 4 then c else c.setPort r 0 0 0 0 0)
  let c := c.each (List.range 16) (fun c j => if c.portUp j then ((c.wr (R.EDGE_STATUS_STATE j) 3).wr (R.EDGE_STATUS_REASON j) 1).wr (R.ROUTE_PORT_INFO_LEVEL j) 0 else c)
  let c := c.each (List.range 16) (fun c j => c.each (List.range 40) (fun c l => if c.portLane j l false = lsFENCED then c else c.setPortLane j l false lsOFF))
  let c := c.onRed (fun x => { x with partials := [], slots := [], relays := [] })
  let c := { c with rowsRun := false, pins := { c.pins with phase := phase, released := [] } }
  (c.setReady false).assertFault.holdDies

/-- Loss of REFCLK: the clock-loss safe state (R488). Rows and T stop, outputs are forced, a bind-off ends. -/
def Chip.clockLoss (c : Chip) : Chip :=
  let c := ((c.wr R.CLK_STATUS_REFCLK_OK 0).wr R.CLK_STATUS_SAFE 1).count R.CLK_REFCLK_MON_LOSSES
  let c := (c.wr R.CLK_REFCLK_LAST_SECS c.opSecs).event Ev.refclkLoss none 0 [c.opSecs, c.rd R.EVR_POWER_CYCLES_COUNT]
  let c := c.each [0, 1] (fun c x => c.setComb x 6 30)
  (c.each (List.range 94) (fun c r => c.wr (R.CLK_REGION_SRC r) 3)).forceOutputs .safe

/-- Loss of REFCLK with what it does to memory: its contents are lost (R488). -/
def State.clockLoss (s : State) : State := { s with mem := [], chip := s.chip.clockLoss }

/-- FABRIC_PLL_LOSS (R474): the mesh moves to the standby; with none left the package acts as for a loss of REFCLK. -/
def execFabricPllLoss (s : State) : Result :=
  .next (
    if s.chip.clk.absent ∨ !s.chip.on R.CLK_STATUS_REFCLK_OK then s
    else
      let c := s.chip
      let lost := c.rd R.CLK_STATUS_FAB_PLL
      let c := ((c.onClk (fun x => { x with fabLost := x.fabLost ++ [lost] })).event Ev.pllLoss none 0 [94 + lost]).report (Unit.netStop 26) [] 0 0 0 actReported
      if c.on R.CLK_STATUS_FAB_STANDBY then
        { s with chip := ((c.wr R.CLK_STATUS_FAB_PLL (1 - lost)).wr R.CLK_STATUS_FAB_STANDBY 0).event Ev.fabricSwitch none 0 [1 - lost] }
      else { s with chip := c }.clockLoss)

/-- REFCLK_ABSENT (R487). -/
def execRefclkAbsent (s : State) : Result := .next (s.onChip (fun c => (c.onClk (fun x => { x with absent := true }))))

/-- REFCLK_GAP_END (R487): REFCLK is back; a gap counts while the package runs on. -/
def execRefclkGapEnd (s : State) : Result :=
  .next (s.onChip (fun c =>
    if c.clk.absent then
      let c := c.onClk (fun x => { x with absent := false })
      if c.on R.CLK_STATUS_REFCLK_OK then (c.count R.CLK_REFCLK_MON_GAPS).event Ev.refclkGap none 0 [] else c
    else c))

/-- REFCLK_LOST (R488): absent for 2 µs. -/
def execRefclkLost (s : State) : Result := .next (if s.chip.clk.absent ∧ s.chip.on R.CLK_STATUS_REFCLK_OK then s.clockLoss else s)

/-! Gating (R490, R491). -/

/-- Whether a gate unit may be gated (R490). -/
def Chip.mayGate (c : Chip) (u : Nat) : Bool :=
  if u < 8 then (List.range 8).all (fun cl => (c.coreTenant u (17 * cl)).isNone)
  else if u < 16 then c.mems.xlat.isEmpty
  else if u < 18 then c.rd (R.CPU_DIE_STATUS_STATE (u - 16)) == 3
  else if u < 22 then !c.on (R.HIO_SLOT_CFG_EN (u - 18))
  else if u < 38 then !c.on (R.EDGE_CFG2_EN (u - 22))
  else if u = 38 then (List.range 1024).all (fun n => !c.on (R.RED_CTX_A_EN n)) && (List.range 4096).all (fun g => !c.on (R.RED_MC_A_EN g))
  else c.circ.armed.isEmpty && (List.range 112).all (fun e => c.rd (R.CIRC_PLANE_STATE e) != 1)

/-- The regions of a gate unit. -/
def unitRegions (u : Nat) : List Nat :=
  if u < 8 then regionsOf u else if u < 16 then [82 + (u - 8)] else if u < 18 then regionsOf (8 + (u - 16)) else if u < 22 then [90 + (u - 18)] else []

/-- Regions are gated: every clock stops (R490). -/
def Chip.gateRegions (c : Chip) (l : List Nat) : Chip := c.each l (fun c r => (c.wr (R.CLK_REGION_GATED r) 1).wr (R.CLK_REGION_SRC r) 3)

/-- Regions are ungated, on their PLLs at their die's present MULT, a fenced one on INT (R486, R490, R492). -/
def Chip.ungateRegions (c : Chip) (l : List Nat) : Chip :=
  let c := c.onClk (fun x => { x with waking := x.waking.filter (fun y => !l.contains y.region) })
  c.each l (fun c r =>
    let c := (c.wr (R.CLK_REGION_GATED r) 0).wr (R.CLK_REGION_SRC r) (if c.on (R.CLK_REGION_FENCED r) then 1 else 0)
    match dieOfRegion r with
    | some d => c.wr (R.CLK_REGION_MULT r) (regionMult r (c.rd (R.CLK_FCHG_NOW_MULT d)))
    | none => c)

/-- Regions that are to be ungated have their PLLs started; whether all of them have locked. -/
def Chip.wake (c : Chip) (l : List Nat) : Chip :=
  let new := l.filter (fun r => !c.clk.waking.any (fun x => x.region == r))
  c.onClk (fun x => { x with waking := x.waking ++ new.map (fun r => ⟨r, c.row, false⟩) })
def Chip.awake (c : Chip) (l : List Nat) : Bool := l.all (fun r => c.clk.waking.any (fun x => x.region == r && x.locked))

/-- One gate unit or cluster at a boundary: `en` enables it, `is` says that it is gated now; `set` puts the two bits. -/
def Chip.gateOne (c : Chip) (en is may : Bool) (regions : List Nat) (set : Chip → Bool → Bool → Chip) : Chip :=
  if !en && !is then (if may then set (c.gateRegions regions) false true else (set c true false).wr R.CLK_STATUS_GATE_REJECT 1)
  else if en && is then (if c.awake regions then set (c.ungateRegions regions) true false else c.wake regions)
  else if !en then c.onClk (fun x => { x with waking := x.waking.filter (fun y => !regions.contains y.region) })
  else c

/-- The regions that a gate unit's own gate holds: of a compute die those whose cluster is not gated by itself. -/
def Chip.gateRegionsOf (c : Chip) (u : Nat) : List Nat :=
  (unitRegions u).filter (fun r => !(decide (u < 8) && decide (r % 9 < 8) && bitOf (c.rd (R.CLK_CL_GATE_GATED u)) (r % 9)))

/-- The gates at a row boundary (R490): units by CLK.GATE_EN, clusters by CLK.CL_GATE_d. -/
def Chip.gateStep (c : Chip) : Chip :=
  let c := c.each (List.range 40) (fun c u =>
    let en : FRef := if u < 32 then ⟨R.CLK_GATE_EN_LO, u, u⟩ else ⟨R.CLK_GATE_EN_HI, u - 32, u - 32⟩
    let is : FRef := if u < 32 then ⟨R.CLK_GATE_STATUS_LO, u, u⟩ else ⟨R.CLK_GATE_STATUS_HI, u - 32, u - 32⟩
    c.gateOne (c.on en) (c.on is) (c.mayGate u) (c.gateRegionsOf u) (fun c e g => (c.wr en (b2n e)).wr is (b2n g)))
  c.each (List.range 64) (fun c i =>
    let d := i / 8
    let cl := i % 8
    let en : FRef := ⟨R.CLK_CL_GATE d, cl, cl⟩
    let is : FRef := ⟨R.CLK_CL_GATE d, 8 + cl, 8 + cl⟩
    if c.unitGated d then c
    else c.gateOne (c.on en) (c.on is) (c.coreTenant d (17 * cl)).isNone [9 * d + cl] (fun c e g => (c.wr en (b2n e)).wr is (b2n g)))

/-- GATE_WRITE: a write of CLK.GATE_EN_LO or _HI (R490). -/
def execGateWrite (req : Requester) (hi : Bool) (v : BitVec 32) (s : State) : Result :=
  .next (s.onChip (fun c => c.writeReg req (if hi then R.CLK_GATE_EN_HI else R.CLK_GATE_EN_LO) v.toNat WriteHook.plain))

/-- CLUSTER_GATE_WRITE: a write of CLK.CL_GATE_d (R490). -/
def execClusterGateWrite (req : Requester) (d : Fin 8) (v : BitVec 32) (s : State) : Result :=
  .next (s.onChip (fun c => c.writeReg req (R.CLK_CL_GATE d.val) v.toNat WriteHook.plain))

/-- The largest latencies of a region's crossing in ps, to the fabric clock and from it (R477, R478). -/
def Chip.crossing (c : Chip) (r : Nat) : Nat × Nat :=
  if 90 ≤ r then (12000, 12000)
  else
    let src := c.rd (R.CLK_REGION_SRC r)
    let m := c.rd (R.CLK_REGION_MULT r)
    if src = 1 then (2 * 2000 + 3 * 500, 2 * 500 + 3 * 2000)
    else if src = 3 ∨ m = 0 then (0, 0)
    else ((2 * 40000 + 3 * 500 * m + m - 1) / m, (2 * 500 * m + 3 * 40000 + m - 1) / m)

end Sys2Proof.Machine
end

