-- ==== Sys2Proof/Machine/Images.lean ====
section
/-! DEFINITION. The boot flash: image slots, the boot-order record, and the firmware commands (R427, R428, R438 to R441, R449). -/

namespace Sys2Proof.Machine

/-! Slots and the boot order (R439, R440). -/

/-- The size of an image slot. -/
def slotSize : Nat := 0x1E00000

/-- The bytes of slot A (0) or B (1). -/
def Flash.slot (f : Flash) (n : Nat) : List Host.Cell := if n = 0 then f.slotA else f.slotB
def Flash.setSlot (f : Flash) (n : Nat) (l : List Host.Cell) : Flash := if n = 0 then { f with slotA := l } else { f with slotB := l }

/-- The boot order in force: the newest copy; slot A first without TRIAL where there is none (R442). -/
def Flash.order (f : Flash) : BootOrder := f.orders.headD ⟨0, false, 0⟩

/-- A new boot-order record takes the place of the older copy (R440). -/
def Flash.writeOrder (f : Flash) (first : Nat) (trial : Bool) : Flash :=
  { f with orders := ⟨first, trial, f.order.seq + 1⟩ :: f.orders.take 1 }

/-- The security version and the image version in a slot's header. -/
def slotSvn (l : List Host.Cell) : Nat := Config.imageField 1 l % 65
def slotVersion (l : List Host.Cell) : Nat := Config.imageField 0 l % 2 ^ 32

/-- What the checks of R440 find in a slot, as PCU.BOOT_STATUS.RESULT_A codes it: 0 valid, 1 header, 2 key, 3 signature, 4 digest, 5 SVN. A slot that holds nothing has no header. -/
def Flash.slotResult (f : Flash) (n : Nat) : Nat :=
  let l := f.slot n
  if l.isEmpty then 1
  else if Config.imageCheck l % 5 ≠ 0 then Config.imageCheck l % 5
  else if slotSvn l < f.fused then 5 else 0

/-- The slot that did not boot. -/
def Chip.stagedSlot (c : Chip) : Nat := 1 - c.rd R.PCU_BOOT_STATUS_SLOT

/-- Whether a FW_STAGE runs. -/
def Chip.staging (c : Chip) : Bool := c.cmd.cmds.any (fun x => x.opcode == 0x7C && x.started && x.result.isNone)

/-- Power loss or a critical trip during FW_STAGE: the staged slot is invalid (R449). -/
def Chip.stageCut (c : Chip) : Chip := if c.staging then c.onFlash (fun f => f.setSlot c.stagedSlot []) else c

/-- A FW_STAGE that a switch-over interrupts leaves the range it wrote undefined (R427). -/
def Chip.stageUndefined (c : Chip) (x : Cmd) : Chip :=
  let d := c.drawn
  let bytes := (List.range (x.par 12 4)).map (fun i => Config.flashByte d i % 256)
  ({ c with drawn := d + 1 }).onFlash (fun f => f.setSlot c.stagedSlot (memWrite (f.slot c.stagedSlot) (x.par 8 4) bytes))

/-! The installer area (R436, R438). -/

/-- The registers whose values INSTALL_SAVE keeps: HIO.TXEQ and CLKOUT; ROUTE.NODE, DIMS, CFG, FM and PORT_MAP; TIME.CFG and ASYM; LSU.CFG; LANE.CFG2; the installer registers of the power
and thermal blocks; PCU.CASTON_CFG (R438, chapters 20 and 21). -/
def installRegs : List Nat :=
  (List.range 64).map R.HIO_TXEQ ++ (List.range 2).map R.HIO_CLKOUT ++ [R.ROUTE_NODE, R.ROUTE_DIMS, R.ROUTE_CFG, R.ROUTE_FM] ++ (List.range 16).map R.ROUTE_PORT_MAP
    ++ [R.TIME_CFG] ++ (List.range 16).map R.TIME_ASYM ++ [R.LSU_CFG] ++ (List.range 24).map R.LANE_CFG2 ++ [R.PWR_CFG, R.PWR_CFG2, R.PWR_AGE_CFG]
    ++ [R.THM_CFG, R.THM_CFG2, R.THM_COOL_CFG] ++ (List.range 142).map R.THM_ZONE_LIM ++ [R.PCU_CASTON_CFG]

/-- The host table as it stands: the pages, the stacked SRAM pages and the share of tenant 0 (R418). -/
def Chip.hostTable (c : Chip) : HostTable :=
  ⟨c.rd (R.PART_HBM_PAGES_PAGES 0), (List.range 4096).filter (fun p => c.sramOwner p == some 0), c.rd (R.PART_TENANT_SHARE 0)⟩

/-- INSTALL_SAVE (R438): the present values of the installer tables replace the saved record. A value that still waits for its row boundary is not a present value. -/
def execInstallSave (src : CmdSrc) (idx : BitVec 16) (s : State) : Result :=
  .next (s.atOnce src idx.toNat 0x78 (fun c _ =>
    (c.onFlash (fun f => { f with tables := installRegs.map (fun o => (o, c.word o)), host := c.hostTable }), stOK, 0, 0)))

/-! Firmware commands (R440, R441). -/

/-- FW_STAGE (R440): image bytes from a view address go into the slot that did not boot. It has no commit point; its completion comes by COMMAND_COMPLETE. -/
def execFwStage (src : CmdSrc) (idx : BitVec 16) (s : State) : Result :=
  .next (s.begin src idx.toNat 0x7C (fun s x =>
    let off := x.par 8 4
    let n := x.par 12 4
    let a := x.par 16 8
    let status := s.chip.viewStatus x.partition a n
    if off % 4096 ≠ 0 ∨ n = 0 ∨ 0x1000000 < n ∨ slotSize < off + n then s.onChip (fun c => c.endCmd x csINVALID 0 0)
    else if status ≠ stOK then s.onChip (fun c => c.endCmd x status 0 0)
    else match s.chip.viewObstacle x.partition a n false with
    | some o => s.onChip (fun c => (c.probe o true).setCmd x { x with started := false })
    | none =>
      let bytes := s.viewBytes x.partition a n
      s.onChip (fun c => (c.onFlash (fun f => f.setSlot c.stagedSlot (memWrite (f.slot c.stagedSlot) off bytes))).setCmd x { x with aux := [1] })))

/-- FW_COMMIT (R440): the staged slot is verified as the boot ROM does it; a valid one is named first, with TRIAL. RESULT0 is the image version. -/
def execFwCommit (src : CmdSrc) (idx : BitVec 16) (s : State) : Result :=
  .next (s.atOnce src idx.toNat 0x7D (fun c x =>
    let n := c.stagedSlot
    let len := x.par 8 4
    let r := c.flash.slotResult n
    if len = 0 ∨ slotSize < len then (c, csINVALID, 0, 0)
    else if r = 5 then (c.event Ev.fwCommit none 0 [n, csROLLBACK], csROLLBACK, 0, 0)
    else if r ≠ 0 then (c.event Ev.fwCommit none 0 [n, csIMAGE], csIMAGE, 0, 0)
    else
      let v := slotVersion (c.flash.slot n)
      ((c.onFlash (fun f => f.writeOrder n true)).event Ev.fwCommit none 0 [n, stOK, v], stOK, v, 0)))

/-- FW_RATCHET (R441): fuses raise the anti-rollback count. RESULT0 is the new count. -/
def execFwRatchet (src : CmdSrc) (idx : BitVec 16) (s : State) : Result :=
  .next (s.atOnce src idx.toNat 0x7F (fun c x =>
    let t := x.par 8 1
    let good := fun (n : Nat) => c.flash.slotResult n == 0 && decide (t ≤ slotSvn (c.flash.slot n))
    if t ≤ c.flash.fused ∨ 64 < t ∨ good 0 = false ∨ good 1 = false then (c, csROLLBACK, 0, 0)
    else ((((c.onFlash (fun f => { f with fused := t })).wr R.PCU_BOOT_STATUS_FUSED t).event Ev.fwRatchet none 0 [t]), stOK, t, 0)))

end Sys2Proof.Machine
end

