-- ==== Sys2Proof/Machine/Power.lean ====
section
/-! DEFINITION. Power: the limit E, telemetry, the power manager, the emergency path, droop, the brake, power fail (R493 to R516). -/

namespace Sys2Proof.Machine

/-- ISSUE_FLOOR (R503, R504). -/
def issueFloor : Nat := 8

/-! The limit (R499, R510). -/

/-- PPL in W as it acts: 3.0 to 7.5 kW (PWR.CFG). -/
def Chip.ppl (c : Chip) : Nat := 10 * max 0x12C (min 0x2EE (c.rd R.PWR_CFG_PPL))

/-- The terms of E in W, with their throttle reasons (R499, R511): PPL, CAP, a valid target, V_in × 187.5 A. -/
def Chip.limitTerms (c : Chip) : List (Nat × Nat) :=
  [(0, c.ppl), (1, 10 * c.rd R.PWR_CAP_CAP)]
    ++ (if c.on R.PWR_STATUS_TARGET_VALID then [(2, 10 * c.rd R.PWR_LIMIT_TARGET)] else [])
    ++ (match c.pwr.hist with
      | t :: _ => [(3, t.vin * 15 / 8)]
      | [] => [])

/-- E in W: the smallest term. -/
def Chip.limitW (c : Chip) : Nat := (c.limitTerms.map (·.2)).foldl min 7500

/-! The emergency path (R503). -/

/-- ISSUE of a die goes to the floor at once. -/
def Chip.floorIssue (c : Chip) (d : Nat) : Chip := c.wr (R.PWR_DIE_ISSUE d) issueFloor

/-- The emergency path is requested for a compute die: ISSUE_FLOOR, its regions to INT; an announced change is cancelled (R503, R516). -/
def Chip.emergency (c : Chip) (d : Nat) (why : Emergency) : Chip :=
  let held := c.inEmergency d
  let c := if c.pwr.emergency.contains (d, why) then c else c.onPwr (fun x => { x with emergency := x.emergency ++ [(d, why)] })
  let c := (c.floorIssue d).wr R.PWR_STATUS_EMERGENCY 1
  if held then c else (c.withdraw d 8).toInt d

/-- The emergency path is requested for all compute dies. -/
def Chip.emergencyAll (c : Chip) (why : Emergency) : Chip := c.each (List.range 8) (fun c d => c.emergency d why)

/-- A reason for the emergency path has cleared for a die. -/
def Chip.endEmergency (c : Chip) (d : Nat) (why : Emergency) : Chip :=
  let c := c.onPwr (fun x => { x with emergency := x.emergency.filter (fun e => e != (d, why)) })
  if c.pwr.emergency.isEmpty then c.wr R.PWR_STATUS_EMERGENCY 0 else c

/-! The power manager (R506): firmware that acts while a PCU holds the token. -/

/-- Whether a tenant owns a cluster of a compute die. -/
def Chip.dieOwned (c : Chip) (d : Nat) : Bool := (List.range 8).any (fun cl => (c.coreTenant d (17 * cl)).isSome)

/-- What the other blocks draw at the rails, in W: the domains, the processor dies, the stacked SRAM dies. -/
def otherLoads (t : Telemetry) : Nat := t.domains.sum + t.dies.getD 8 0 + t.dies.getD 9 0 + t.sram

/-- The limit referred to the rails, in W. -/
def Chip.railBudget (c : Chip) : Nat := 9264 * c.limitW / 10000

/-- Each owned compute die's share of the compute budget, in W. -/
def Chip.dieShare (c : Chip) (t : Telemetry) : Nat :=
  (c.railBudget - otherLoads t) / max 1 ((List.range 8).filter c.dieOwned).length

/-- The model power of a die at a point, without its matrix engines and of them at ISSUE 64, at this moment. -/
def Chip.model (c : Chip) (d p : Nat) : Nat × Nat := (Config.modelStatic d p c.drawn, Config.modelDynamic d p c.drawn)

/-- The largest fraction in 1/64 that fits a share at a point, at most 64. -/
def Chip.fitIssue (c : Chip) (d p share : Nat) : Nat :=
  let m := c.model d p
  if share < m.1 then 0 else if m.2 = 0 then 64 else min 64 (64 * (share - m.1) / m.2)

/-- The highest point that a die may take: MAX_POINT and the thermal ceiling. -/
def Chip.topPoint (c : Chip) (d : Nat) : Nat := min (c.rd (R.PWR_DIE_MAX_POINT d)) (c.rd (R.THM_CEIL_CEIL d))

/-- The point that the manager chooses for a compute die (step 2). -/
def Chip.choosePoint (c : Chip) (d share : Nat) : Nat :=
  if !c.dieOwned d || c.inEmergency d || decide (c.row < c.pwr.releaseRow) then 0
  else ((List.range (c.topPoint d + 1)).reverse.find? (fun p => decide (48 ≤ c.fitIssue d p share))).getD 0

/-- ISSUE of a compute die for the next row. -/
def Chip.chooseIssue (c : Chip) (d share : Nat) : Nat :=
  if !c.dieOwned d || c.inEmergency d then issueFloor
  else
    let burst := decide (64 < (getKey d c.pwr.droops).getD 0)
    max issueFloor (c.fitIssue d (c.rd (R.PWR_DIE_POINT d)) share - (if burst then 8 else 0))

/-- Whether a compute die is in the minimum state (R503). -/
def Chip.dieMinimum (c : Chip) (d : Nat) : Bool := c.rd (R.PWR_DIE_POINT d) == 0 && c.rd (R.PWR_DIE_ISSUE d) == issueFloor

/-- The manager announces a change of a die to a point: a raise far enough ahead for its rail (R506, R507). -/
def Chip.managePoint (c : Chip) (d p : Nat) : Chip :=
  if c.clk.announced.any (fun f => f.die == d) ∨ c.clk.running.any (fun f => f.die == d) then c
  else
    let up := c.pointVolts d p - c.rd (R.PWR_RAIL_SET_MV d)
    let row := c.row + max c.announceMin (if up = 0 then 0 else (10 * up + 255) / 256 + 1)
    let c := (c.wr (R.CLK_FCHG_MULT d) (multOf d p)).wr (R.CLK_FCHG_ROW d) row
    c.announce d (multOf d p) row

/-- Dies that must move at once: below a ceiling or a retired point, or off INT (R503, R512, R520). -/
def Chip.mustMove (c : Chip) (d : Nat) : Option Nat :=
  let p := c.rd (R.PWR_DIE_POINT d)
  let onInt := (regionsOf d).any (fun r => c.regionLive r && c.rd (R.CLK_REGION_SRC r) == 1 && !c.clk.resets.any (fun x => x.region == r))
  if c.inEmergency d then (if p ≠ 0 ∨ onInt then some 0 else none)
  else if c.topPoint d < p then some (c.topPoint d)
  else if onInt then some p
  else none

/-- The processor dies' points (step 3): lowered while every owned compute die is at the minimum and the budget is short, else raised by one. -/
def Chip.cpuPoint (c : Chip) (d : Nat) (short : Bool) : Nat :=
  let p := c.rd (R.PWR_DIE_POINT d)
  if short then p - 1 else min (c.topPoint d) (p + 1)

/-- The power manager at a row boundary. -/
def Chip.powerManager (c : Chip) (t : Telemetry) : Chip :=
  if !c.tokenHeld then c
  else
    let share := c.dieShare t
    let c := c.each (List.range 8) (fun c d =>
      let i := c.chooseIssue d share
      let c := c.onPwr (fun x => { x with issue := putKey d i x.issue })
      if c.on R.PWR_STATUS_FAST_LIMIT then c else c.wr (R.PWR_DIE_ISSUE d) i)
    let c := c.each (List.range 10) (fun c d => match c.mustMove d with
      | some p => c.managePoint d p
      | none => c)
    if c.row % c.rdPos R.PWR_CFG_DVFS_ROWS = 0 then
      let c := c.each (List.range 8) (fun c d => let p := c.choosePoint d share; if p = c.rd (R.PWR_DIE_POINT d) then c else c.managePoint d p)
      let owned := (List.range 8).filter c.dieOwned
      let short := !owned.isEmpty && owned.all c.dieMinimum && decide (c.railBudget < otherLoads t)
      let c := c.each [8, 9] (fun c d => let p := c.cpuPoint d short; if p = c.rd (R.PWR_DIE_POINT d) then c else c.managePoint d p)
      let limited := owned.any (fun d => !c.inEmergency d && (decide (c.choosePoint d share < c.topPoint d) || decide (c.chooseIssue d share < 64)))
      ({ c with drawn := c.drawn + 1 }).onPwr (fun x => { x with limited := limited })
    else c

/-! Telemetry, throttle reasons and slack (R500, R509, R511). -/

/-- The mean of a measurement over the rows kept. -/
def Chip.meanOf (c : Chip) (f : Telemetry → Nat) : Nat := (c.pwr.hist.map f).sum / max 1 c.pwr.hist.length

/-- The throttle reasons of the row that has ended (R511). -/
def Chip.throttleNow (c : Chip) : Nat :=
  let e := c.limitW
  let term := fun (n : Nat) => c.pwr.limited && c.limitTerms.any (fun x => x.1 == n && x.2 == e)
  let capped := fun (codes : List Nat) => (List.range 10).any (fun d => decide (c.rd (R.THM_CEIL_CEIL d) < c.rd (R.PWR_DIE_MAX_POINT d)) && codes.contains (c.rd (R.THM_CEIL_REASON d)))
  let retired := (List.range 10).any (fun d => decide (c.rd (R.PWR_DIE_MAX_POINT d) < (if d < 8 then 7 else 5)))
  let droop := c.pwr.droops.any (fun x => decide (64 < x.2))
  (b2n (term 0) + 2 * b2n (term 1) + 4 * b2n (term 2) + 8 * b2n (term 3 || c.on R.PWR_STATUS_UV) + 16 * b2n (capped [1, 3, 4, 5])
    + 32 * b2n (capped [2] || !c.thm.rateHeld.isEmpty) + 64 * b2n (c.on R.PWR_STATUS_BRAKE) + 128 * b2n (c.on R.PWR_STATUS_FAST_LIMIT) + 256 * b2n droop
    + 512 * b2n retired + 1024 * b2n (c.on R.PWR_STATUS_LIMIT_UNMET))

/-- Whether queue processor `n` of a die waits on a sync object: a WAIT of a queue it serves has not been answered (R286, R330). -/
def Chip.qpWaits (c : Chip) (d n : Nat) : Bool :=
  c.cmd.cmds.any (fun x => x.opcode == 3 && x.started && x.result.isNone && (match x.src with
    | .queue t q => c.rd (R.PCU_CQ_CFG_DIE t.val q.val) == d && c.rd (R.PCU_CQ_CFG_QP t.val q.val) == n && !c.on (R.PCU_CQ_CFG_KIND t.val q.val)
    | _ => false))

/-- Whether the row that has ended is a slack row of a compute die (R509). -/
def Chip.slackRow (c : Chip) (t : Telemetry) (d : Nat) : Bool :=
  !bitOf t.kSteps d && (List.range 4).all (fun n => (c.qpQueues d n).all (fun q => c.rd (R.PART_STATE_STATE q.1) != 2) || c.qpWaits d n)

/-- The slack window goes on by a row; at its end the slack is published (R509). -/
def Chip.slackStep (c : Chip) (t : Telemetry) : Chip :=
  let owned := (List.range 8).filter c.dieOwned
  let s := c.pwr.slack
  let s := (s.1 + (owned.filter (c.slackRow t)).length, s.2.1 + owned.length, s.2.2 + 1)
  if 64 * c.rdPos R.PWR_CFG2_SLACK_ROWS ≤ s.2.2 then
    (c.wr R.PWR_SLACK_SLACK (if s.2.1 = 0 then 255 else min 255 (256 * s.1 / s.2.1))).onPwr (fun x => { x with slack := (0, 0, 0) })
  else c.onPwr (fun x => { x with slack := s })

/-- The publication of a row's measurements (R500). -/
def Chip.publish (c : Chip) (t : Telemetry) : Chip :=
  let c := c.onPwr (fun x => { x with hist := (t :: x.hist).take 1024, energy := x.energy + 1024 * t.watts })
  let c := (c.wr R.PWR_INPUT_VIN t.vin).wr R.PWR_INPUT_ROW_W t.watts
  let c := (c.wr R.PWR_MEAN_MEAN_W (c.meanOf Telemetry.watts)).wr R.PWR_MEAN_PEAK_W ((c.pwr.hist.map Telemetry.watts).foldl max 0)
  let c := c.each (List.range 10) (fun c d => (c.wr (R.PWR_DIE_W_W d) (c.meanOf (fun t => t.dies.getD d 0))).wr (R.PWR_RAIL_MEAS_MV d) (t.rails.getD d 0))
  let c := c.each (List.range 6) (fun c n => c.wr (R.PWR_DOMAIN_W_W n) (c.meanOf (fun t => t.domains.getD n 0)))
  let uj := c.pwr.energy / 1000
  let c := (c.wr R.PWR_ENERGY_LO_UJ (uj % 2 ^ 32)).wr R.PWR_ENERGY_HI_UJ (uj / 2 ^ 32)
  (c.wr R.THM_FLOW_FLOW t.flow).wr R.THM_FLOW_DP t.drop

/-- LIMIT_UNMET (R499): every compute die at the minimum and the other loads alone above E; recorded as it begins. -/
def Chip.unmetStep (c : Chip) (t : Telemetry) : Chip :=
  let unmet := (List.range 8).all c.dieMinimum && decide (c.railBudget < otherLoads t)
  let was := c.on R.PWR_STATUS_LIMIT_UNMET
  let c := c.wr R.PWR_STATUS_LIMIT_UNMET (b2n unmet)
  if unmet && !was then c.event Ev.limitUnmet none 0 [] else c

/-- Trims that rose take effect as a voltage-only step, but where a lowering change stands at the same boundary (R502, R516). -/
def Chip.trimStep (c : Chip) : Chip :=
  let l := c.pwr.trimDue.filter (fun d => !c.clk.running.any (fun f => f.die == d && f.locked))
  (c.onPwr (fun x => { x with trimDue := x.trimDue.filter (fun d => !l.contains d) })).each l (fun c d => c.setRail d (c.pointVolts d (c.rd (R.PWR_DIE_POINT d))))

/-- The brake's record counts up every 60 s while the brake lasts (R513). -/
def Chip.brakeStep (c : Chip) : Chip :=
  if c.on R.PWR_STATUS_BRAKE ∧ c.pwr.brakeAt + 60000000000 ≤ c.now then
    (c.event Ev.brake none 0 [c.pwr.brakeRow]).onPwr (fun x => { x with brakeAt := x.brakeAt + 60000000000 })
  else c

/-- Step 8 of a row boundary, and the power manager's work for the next row. -/
def Chip.powerStep (c : Chip) (t : Telemetry) : Chip :=
  let active := c.throttleNow
  let c := (c.publish t).wr R.PWR_THROTTLE_ACTIVE active
  let c := c.each (setBits 11 active) (fun c n =>
    let v := c.rdPair (R.PWR_THR_ROWS_LO_ROWS n) (R.PWR_THR_ROWS_HI_ROWS n) + 1
    c.wrPair (R.PWR_THR_ROWS_LO_ROWS n) (R.PWR_THR_ROWS_HI_ROWS n) (v % 2 ^ 48))
  let c := if c.on R.PWR_STATUS_UV && decide (4000 ≤ t.vin) then c.wr R.PWR_STATUS_UV 0 else c
  let c := c.wr R.PWR_LIMIT_EFFECTIVE (c.limitW / 10)
  let c := if c.on R.PWR_STATUS_FAST_LIMIT && !t.overCurrent then
      (c.wr R.PWR_STATUS_FAST_LIMIT 0).each (List.range 8) (fun c d =>
        if c.inEmergency d then c else c.wr (R.PWR_DIE_ISSUE d) ((getKey d c.pwr.issue).getD 64))
    else c
  let bursts := c.pwr.droops.filter (fun x => decide (64 < x.2))
  let c := c.each bursts (fun c x => c.event Ev.droopBurst none 0 [x.1])
  let c := (c.slackStep t).powerManager t
  let c := ((c.onPwr (fun x => { x with droops := [] })).unmetStep t).brakeStep
  if c.pwr.holdLaunch && (!c.on R.PWR_STATUS_BRAKE || (List.range 8).all c.dieMinimum) then c.onPwr (fun x => { x with holdLaunch := false }) else c

/-! Commands (R510). -/

/-- PWR_GET. -/
def execPwrGet (src : CmdSrc) (idx : BitVec 16) (s : State) : Result :=
  .next (s.atOnce src idx.toNat 0x60 (fun c _ =>
    (c, stOK, c.rd R.PWR_MEAN_MEAN_W + 65536 * c.rd R.PWR_LIMIT_EFFECTIVE, c.rd R.PWR_SLACK_SLACK + 256 * c.rd R.PWR_THROTTLE_ACTIVE)))

/-- PWR_CAP: INVALID below 3,000 W or above PPL. -/
def execPwrCap (src : CmdSrc) (idx : BitVec 16) (s : State) : Result :=
  .next (s.atOnce src idx.toNat 0x61 (fun c x =>
    let w := x.par 8 2
    if w < 3000 ∨ c.ppl < w then (c, csINVALID, 0, 0)
    else (let c := c.wr R.PWR_CAP_CAP (w / 10); (c, stOK, c.limitW / 10, 0))))

/-- PWR_TARGET: a target for a lifetime, below 3,000 W as 3,000 W; 0 withdraws it. -/
def execPwrTarget (src : CmdSrc) (idx : BitVec 16) (s : State) : Result :=
  .next (s.atOnce src idx.toNat 0x62 (fun c x =>
    let w := x.par 8 2
    let ms := x.par 10 2
    if w = 0 then (let c := (c.wr R.PWR_LIMIT_TARGET 0).wr R.PWR_STATUS_TARGET_VALID 0; (c, stOK, c.limitW / 10, 0))
    else if ms = 0 then (c, csINVALID, 0, 0)
    else
      let c := (c.wr R.PWR_LIMIT_TARGET (min 1023 (max 300 (w / 10)))).wr R.PWR_STATUS_TARGET_VALID 1
      let c := c.onPwr (fun y => { y with targetUntil := c.now + 1000000 * ms })
      (c, stOK, c.limitW / 10, 0)))

/-- TARGET_EXPIRY (R510). -/
def execTargetExpiry (s : State) : Result :=
  .next (s.onChip (fun c =>
    if c.on R.PWR_STATUS_TARGET_VALID ∧ c.pwr.targetUntil ≤ c.now then (c.wr R.PWR_LIMIT_TARGET 0).wr R.PWR_STATUS_TARGET_VALID 0 else c))

/-- PWR.CAP: a value below 3,000 W or above PPL is ignored. -/
def capHook (c : Chip) (v : Nat) : WriteHook :=
  ⟨decide (0x12C ≤ fget v 25 16) && decide (10 * fget v 25 16 ≤ c.ppl), fun c => c.wr R.PWR_STATUS_CAP_REJECT 1, id⟩

/-! Droop, current limit, brake (R505, R508, R512, R513). -/

/-- DROOP_DETECT (R508): a rail has fallen by more than DROOP_MV below its setpoint in a region. -/
def execDroopDetect (r : Fin 82) (s : State) : Result :=
  .next (s.onChip (fun c => match dieOfRegion r.val with
    | none => c
    | some d =>
      if c.pwr.stretching.contains r.val ∨ c.on (R.CLK_REGION_GATED r.val) then c
      else (c.count (R.PWR_DIE_W_DROOPS d)).onPwr (fun x => { x with stretching := x.stretching ++ [r.val], droops := putKey d ((getKey d x.droops).getD 0 + 1) x.droops })))

/-- DROOP_END (R508). -/
def execDroopEnd (r : Fin 82) (s : State) : Result :=
  .next (s.onChip (fun c => c.onPwr (fun x => { x with stretching := x.stretching.filter (fun y => y != r.val) })))

/-- CURRENT_LIMIT_TRIP (R505). -/
def execCurrentLimitTrip (s : State) : Result :=
  .next (s.onChip (fun c =>
    if c.on R.PWR_STATUS_FAST_LIMIT then c
    else ((c.each (List.range 8) (fun c d => c.floorIssue d)).wr R.PWR_STATUS_FAST_LIMIT 1).event Ev.currentTrip none 0 []))

/-- The brake is asserted: every compute die is held in the minimum state (R512). Each assertion makes a record of its own, told apart by its row (R513, R516). -/
def Chip.brakeOn (c : Chip) : Chip :=
  if c.on R.PWR_STATUS_BRAKE then c
  else ((((c.wr R.PWR_STATUS_BRAKE 1).emergencyAll .brake).event Ev.brake none 0 [c.row % 2 ^ 32])).onPwr (fun x => { x with brakeAt := c.now, brakeRow := c.row % 2 ^ 32 })

/-- BRAKE_ASSERT (R512): PWRBRAKE_n low for 1 µs. Before PKG_READY it holds back until then (R513). -/
def execBrakeAssert (s : State) : Result :=
  .next (s.onChip (fun c =>
    let c := { c with pins := { c.pins with brakeN := true } }
    if c.pins.phase = .running then c.brakeOn else c))

/-- BRAKE_RELEASE (R512): PWRBRAKE_n high for 10 µs. -/
def execBrakeRelease (s : State) : Result :=
  .next (s.onChip (fun c =>
    let c := { c with pins := { c.pins with brakeN := false } }
    if c.on R.PWR_STATUS_BRAKE then
      let c := (c.wr R.PWR_STATUS_BRAKE 0).onPwr (fun x => { x with releaseRow := c.row + c.rd R.PWR_CFG_RELEASE_ROWS })
      c.each (List.range 8) (fun c d => c.endEmergency d .brake)
    else c))

/-! Ageing (R502). -/

/-- The trim and MAX_POINT of a die are kept for the life of the part. -/
def Chip.keepTrim (c : Chip) (d : Nat) : Chip :=
  c.onFlash (fun x => { x with trims := putKey d (c.rd (R.PWR_DIE_TRIM d), c.rd (R.PWR_DIE_MAX_POINT d)) x.trims })

/-- AGEING_CHECK (R502): `below` says that a monitor of the die lies below its guard. A die at point 0 has no point below it to fall to. -/
def execAgeingCheck (d : Fin 10) (below : Bool) (s : State) : Result :=
  .next (s.onChip (fun c =>
    let trim := toSigned 8 (c.rd (R.PWR_DIE_TRIM d.val))
    let p := c.rd (R.PWR_DIE_POINT d.val)
    if !below then c
    else if trim < 0 then
      (((c.wr (R.PWR_DIE_TRIM d.val) (ofSigned 8 (min 0 (trim + 5)))).keepTrim d.val).event Ev.trimStep none 0 [d.val, ofSigned 8 (min 0 (trim + 5))]).onPwr
        (fun x => { x with trimDue := x.trimDue ++ [d.val] })
    else
      let c := (c.wr (R.PWR_DIE_MAX_POINT d.val) (p - 1)).wr (R.THM_CEIL_CEIL d.val) (min (p - 1) (c.rd (R.THM_CEIL_CEIL d.val)))
      (c.keepTrim d.val).event Ev.pointRetired none 0 [d.val, p]))

/-! Undervoltage and power fail (R514). -/

/-- UNDERVOLTAGE (R514): V_in below 40.0 V for 10 µs. -/
def execUndervoltage (s : State) : Result := .next (s.onChip (fun c => if c.pins.phase = .running ∨ c.pins.phase = .castOn then c.wr R.PWR_STATUS_UV 1 else c))

/-- A record joins the trip reserve of the non-volatile store (R548). -/
def Flash.addReserve (f : Flash) (r : TripRec) : Flash :=
  let pending := f.reserve.filter (fun x => x.pending)
  let f := if r.pending then { f with tripSeq := (f.tripSeq + 1) % 65536 } else f
  if r.pending ∧ 15 ≤ pending.length then
    { f with reserve := (updFirst (fun x => some x == pending.getLast?) (fun _ => r) f.reserve), tripOver := true }
  else if f.reserve.length < 16 then { f with reserve := f.reserve ++ [r] }
  else { f with reserve := dropFirst (fun x => !x.pending) f.reserve ++ [r] }

/-- The non-volatile record of a power fail (R514, R548), which the island writes without the token. -/
def Chip.powerFailRecord (c : Chip) : TripRec :=
  let e : EventRec :=
    { code := Ev.powerFail, tenant := none, unit := 0, args := [c.opSecs], time := c.now, timeState := c.rd R.TIME_STATUS_STATE
      secs := c.opSecs, cycles := c.rd R.EVR_POWER_CYCLES_COUNT, nv := true }
  { record := e, cause := 0, zone := 0, sensor := 0, reading := 0, seq := c.flash.tripSeq, pending := false, rails := [], temps := []
    headerOnly := false }

/-- The package enters power fail (R514, R562, R568): emergency path, FAULT_n, PKG_READY low, a non-volatile record where the flash answers; then its rails fall and memory is lost. -/
def Chip.powerFail (c : Chip) (flashAnswers : Bool) : Chip :=
  let r := c.powerFailRecord
  let c := (c.stageCut.emergencyAll .powerFail).onFlash (fun f => if flashAnswers then f.addReserve r else f)
  let c := c.each (List.range 10) (fun c d => c.wr (R.PWR_RAIL_SET_MV d) 0)
  (c.each [0, 1] (fun c x => c.setComb x 0 0)).forceOutputs .powerFail

/-- Power fail of the machine. -/
def State.powerFail (s : State) (flashAnswers : Bool) : State := { s with mem := [], chip := s.chip.powerFail flashAnswers }

/-- Whether the package is powered and not yet in power fail or shutdown. -/
def Chip.powered (c : Chip) : Bool := c.pins.phase == .castOn || c.pins.phase == .running || c.pins.phase == .safe || c.pins.phase == .recovery || c.pins.phase == .rest

/-- POWER_FAIL (R514): V_in below 36.0 V for 20 µs. -/
def execPowerFail (s : State) : Result := .next (if s.chip.powered then s.powerFail true else s)

end Sys2Proof.Machine
end

