-- ==== Sys2Proof/Machine/Thermal.lean ====
section
/-! DEFINITION. Temperature: zones, ceilings, broken sensors, the critical trip, coolant (R517 to R531). -/

namespace Sys2Proof.Machine

/-! Zones (R517, R519, R520). -/

/-- The dies that a zone governs: 0 to 7 compute, 8 and 9 processor. -/
def governed (z : Nat) : List Nat :=
  if z < 64 then [z / 8] else if z < 72 then [z - 64] else if z < 80 then [z - 72] else if z < 88 then [8 + (z - 80) / 4]
  else if z < 112 then List.range 8
  else if z < 136 then (if z - 112 < 10 then [z - 112] else List.range 8)
  else if z < 138 then [] else if z < 142 then List.range 8 else []

/-- The unit nearest a zone, by which its broken sensors are reported (R522). -/
def zoneUnit (z : Nat) : Nat :=
  if z < 64 then Unit.core (z / 8) (17 * (z % 8)) else if z < 72 then Unit.qp (z - 64) 0 else if z < 80 then Unit.sramPage (z - 72) 0
  else if z < 88 then Unit.hart ((z - 80) / 4) (24 * ((z - 80) % 4)) else if z < 104 then Unit.pc ((z - 88) / 2) ((z - 88) % 2) 0
  else if z < 112 then Unit.pc (z - 104) 0 0 else if z < 136 then Unit.lane (z - 112) 0 0 false
  else if z < 138 then Unit.light (z - 136) else Unit.netStop 26

/-- A zone's state behind its registers. -/
def Chip.zone (c : Chip) (z : Nat) : Zone := (getKey z c.thm.zones).getD {}
def Chip.setZone (c : Chip) (z : Nat) (x : Zone) : Chip := c.onThm (fun y => { y with zones := putKey z x y.zones })

/-- THM.CFG and THM.CFG2 as they act. -/
def Chip.hyst (c : Chip) : Nat := max 8 (c.rd R.THM_CFG_HYST)
def Chip.rateStep (c : Chip) : Nat := max 1 (min 8 (c.rd R.THM_CFG_RATE_STEP))
def Chip.rateMin (c : Chip) : Nat := max c.rateStep (min 0x28 (c.rd R.THM_CFG_RATE_MIN))
def Chip.raiseMs (c : Chip) : Nat := max 2 (c.rd R.THM_CFG_RAISE_MS)
def Chip.brokenCap (c : Chip) (d : Nat) : Nat := if d < 8 then min 3 (c.rd R.THM_CFG2_BROKEN_C) else min 2 (c.rd R.THM_CFG2_BROKEN_P)
def Chip.flowMin (c : Chip) : Nat := max 0x258 (c.rd R.THM_COOL_CFG_FLOW_MIN)
def Chip.inletMax (c : Chip) : Nat := min 0x28 (c.rd R.THM_COOL_CFG_INLET_MAX)

/-- THM.ZONE_LIM_z: coolant zones ignore writes (R519). The register keeps the value written; the limits that act are `zoneThrottle` and `zoneMin`. -/
def zoneLimHook (z : Nat) : WriteHook := ⟨Config.zoneKind z != .coolant, id, id⟩

/-- A limit outside the 20 °C below its factory value acts as the nearer bound (R519). -/
def actingLimit (factory v : Nat) : Nat := max (factory - 20) (min factory v)

/-- The THROTTLE and MIN limits that act in a zone, in 0.125 °C (R519). -/
def Chip.zoneThrottle (c : Chip) (z : Nat) : Int := 8 * (actingLimit (Config.zoneThrottle z) (c.rd (R.THM_ZONE_LIM_THROTTLE z)) : Nat)
def Chip.zoneMin (c : Chip) (z : Nat) : Int := 8 * (actingLimit (Config.zoneMin z) (c.rd (R.THM_ZONE_LIM_MIN z)) : Nat)

/-! Ceilings (R520). -/

/-- The ceiling that a zone gives a die. -/
def Chip.zoneCeil (c : Chip) (z d : Nat) : Nat := (getKey (z, d) c.thm.ceils).getD (c.rd (R.PWR_DIE_MAX_POINT d))

/-- The ceiling of a die is the lowest that its zones give it. -/
def Chip.ceilNow (c : Chip) (d : Nat) : Chip :=
  c.wr (R.THM_CEIL_CEIL d) ((c.thm.ceils.filter (fun x => x.1.2 == d)).map (·.2) |>.foldl min (c.rd (R.PWR_DIE_MAX_POINT d)))

/-- A zone gives a die a ceiling; one at MAX_POINT is no ceiling. -/
def Chip.giveCeil (c : Chip) (z d p : Nat) : Chip :=
  (c.onThm (fun x => { x with ceils := if c.rd (R.PWR_DIE_MAX_POINT d) ≤ p then delKey (z, d) x.ceils else putKey (z, d) p x.ceils })).ceilNow d

/-- A zone lowers a die's ceiling to a point, with the rule's code in REASON; the step is counted and recorded where the ceiling falls. -/
def Chip.lowerCeil (c : Chip) (z d p reason : Nat) : Chip :=
  let old := c.zoneCeil z d
  if old ≤ p then c
  else
    let was := c.rd (R.THM_CEIL_CEIL d)
    let c := (c.giveCeil z d p).count (R.THM_ZONE_STATE_STEPS z)
    (if c.rd (R.THM_CEIL_CEIL d) < was then c.wr (R.THM_CEIL_REASON d) reason else c).event Ev.ceilingStep none 0 [z, d, p]

/-- Rules 3 and 4 lower by one point, at most once per millisecond for a die. -/
def Chip.stepDown (c : Chip) (z d reason : Nat) : Chip :=
  let recent := match getKey d c.thm.stepped with
    | some t => decide (c.now < t + 1000000)
    | none => false
  if recent then c
  else (c.lowerCeil z d (c.rd (R.PWR_DIE_POINT d) - 1) reason).onThm (fun x => { x with stepped := putKey d c.now x.stepped })

/-- Rule 1: the emergency path for compute dies, the ceiling at 0. -/
def Chip.ruleOneActs (c : Chip) (z d : Nat) (rate : Bool) : Chip :=
  let c := if d < 8 then c.emergency d .thermal else c
  let c := if rate then c.onThm (fun x => { x with rateHeld := if x.rateHeld.contains d then x.rateHeld else x.rateHeld ++ [d] }) else c
  (c.lowerCeil z d 0 3).wr (R.THM_CEIL_REASON d) 3

/-- A zone that rule 1 held has not met it for 1 ms: a die that no other zone holds so leaves the emergency path. -/
def Chip.ruleOneEnds (c : Chip) (z : Nat) : Chip :=
  c.each (governed z) (fun c d =>
    if c.thm.zones.any (fun x => x.1 != z && x.2.ruleOne && (governed x.1).contains d) then c
    else (c.endEmergency d .thermal).onThm (fun x => { x with rateHeld := x.rateHeld.filter (fun y => y != d) }))

/-- The broken sensors of a zone. -/
def Chip.brokenIn (c : Chip) (z : Nat) : Nat := (c.thm.broken.filter (fun x => x.1 == z)).length

/-- The ceiling rules on a sample: the zone's temperature and rate in 0.125 °C. -/
def Chip.ceilingRules (c : Chip) (z : Nat) (hot rate : Int) : Chip :=
  let dies := governed z
  let thr := c.zoneThrottle z
  let mn := c.zoneMin z
  let byRate := decide ((c.rateMin : Int) ≤ rate)
  let zn := c.zone z
  if mn ≤ hot ∨ byRate then
    let c := if zn.ruleOne then c else c.event Ev.ruleOne none 0 [z]
    (c.setZone z { zn with ruleOne := true, clear := none, calm := none }).each dies (fun c d => c.ruleOneActs z d byRate)
  else
    let since := zn.clear.getD c.now
    let ended := zn.ruleOne && decide (since + 1000000 ≤ c.now)
    let zn := if ended then { zn with ruleOne := false, clear := none } else if zn.ruleOne then { zn with clear := some since } else zn
    let c := c.setZone z zn
    let c := if ended then c.ruleOneEnds z else c
    let c := if 0 < c.brokenIn z then c.each dies (fun c d => c.lowerCeil z d (c.brokenCap d) 4) else c
    if thr ≤ hot then (c.setZone z { zn with calm := none }).each dies (fun c d => c.stepDown z d 1)
    else if (c.rateStep : Int) ≤ rate then (c.setZone z { zn with calm := none }).each dies (fun c d => c.stepDown z d 2)
    else if hot < thr - c.hyst ∧ !zn.ruleOne ∧ !(c.thm.lowFlow && decide (64 ≤ z) && decide (z < 72)) then
      let since := zn.calm.getD c.now
      if since + 1000000 * c.raiseMs ≤ c.now then
        (c.setZone z { zn with calm := some c.now }).each dies (fun c d =>
          let top := if 0 < c.brokenIn z then c.brokenCap d else c.rd (R.PWR_DIE_MAX_POINT d)
          c.giveCeil z d (min top (c.zoneCeil z d + 1)))
      else c.setZone z { zn with calm := some since }
    else c.setZone z { zn with calm := none }

/-- The sampling rate and the state of a zone (R518, THM.ZONE_STATE); `all`: the temperatures of its sensors. Of a comb zone the reaching of THROTTLE and of MIN is recorded,
and nothing else (R521). -/
def Chip.zoneState (c : Chip) (z : Nat) (all : List Int) (hot : Int) : Chip :=
  let thr := c.zoneThrottle z
  let zn := c.zone z
  let was := c.rd (R.THM_ZONE_STATE_STATE z) != 0
  let warm := all.any (fun t => decide (thr - 40 ≤ t))
  let cool := all.all (fun t => decide (t < thr - 56))
  let since := zn.cool.getD c.now
  let fast := warm || (was && !(cool && decide (since + 10000000 ≤ c.now)))
  let c := c.setZone z { zn with cool := if cool then some since else none }
  let comb := Config.zoneKind z == .comb
  let st := if zn.ruleOne || (comb && decide (c.zoneMin z ≤ hot)) then 3 else if thr ≤ hot then 2 else b2n fast
  let c := if comb && decide (2 ≤ st) && decide (c.rd (R.THM_ZONE_STATE_STATE z) < st) then c.event Ev.combHot none (zoneUnit z) [z, st] else c
  let c := c.wr (R.THM_ZONE_STATE_STATE z) st
  if (st != 0) == was then c else if was then c.drop R.THM_STATUS_FAST else c.count R.THM_STATUS_FAST

/-- The hottest of a list of temperatures. -/
def hottest : List Int → Option Int
  | [] => none
  | t :: l => match hottest l with
    | none => some t
    | some u => some (max t u)

/-- ZONE_SAMPLE (R517, R518, R520, R530): the readings of a zone's sensors in 0.125 °C, in order. -/
def execZoneSample (z : Fin 144) (temps : List (BitVec 16)) (s : State) : Result :=
  .next (s.onChip (fun c =>
    let z := z.val
    let all := ((temps.zipIdx).filter (fun x => decide (x.2 < Config.zoneSensors z) && !c.thm.broken.contains (z, x.2))).map (fun x => x.1.toInt)
    match hottest all with
    | none => c
    | some hot =>
      let zn := c.zone z
      let rate := match zn.samples.find? (fun x => decide (x.1 + 1000000 ≤ c.now)) with
        | some x => hot - x.2
        | none => 0
      let c := c.setZone z { zn with samples := ((c.now, hot) :: zn.samples).take 32 }
      let c := (c.wr (R.THM_ZONE_T_HOT z) (ofSigned 16 hot)).wr (R.THM_ZONE_T_RATE z) (ofSigned 16 (clampSigned 16 rate))
      if Config.zoneKind z = .coolant then
        let c := c.wr (if z = 142 then R.THM_COOLANT_INLET else R.THM_COOLANT_OUTLET) (ofSigned 16 hot)
        let inlet := toSigned 16 (c.rd R.THM_COOLANT_INLET)
        let fine := decide (inlet ≤ 8 * (c.inletMax : Int)) && decide (toSigned 16 (c.rd R.THM_COOLANT_OUTLET) - inlet ≤ 120)
        if fine && c.thm.hot then (c.onThm (fun x => { x with hot := false })).wr R.THM_STATUS_COOL_WARN (b2n c.thm.lowFlow) else c
      else (if (governed z).isEmpty then c else c.ceilingRules z hot rate).zoneState z all hot))

/-! The critical trip (R523 to R526). -/

/-- THM.TRIP and PENDING_ACK follow the records of the reserve. -/
def Chip.tripRegs (c : Chip) : Chip :=
  let l := c.flash.reserve.filter (fun x => x.pending)
  let c := (c.wr R.THM_TRIP_PENDING (min 15 l.length)).wr R.THM_STATUS_PENDING_ACK (b2n (!l.isEmpty))
  match l with
  | [] => c.setWord R.THM_TRIP 0
  | r :: _ => ((c.wr R.THM_TRIP_CAUSE r.cause).wr R.THM_TRIP_ZONE r.zone).wr R.THM_TRIP_SEQ r.seq

/-- The record of a trip (R525). -/
def Chip.tripRecord (c : Chip) (cause z i reading : Nat) (full : Bool) : TripRec :=
  let e : EventRec :=
    { code := Ev.trip, tenant := none, unit := zoneUnit z, args := [cause, z, i, reading, c.flash.tripSeq], time := c.now, timeState := c.rd R.TIME_STATUS_STATE
      secs := c.opSecs, cycles := c.rd R.EVR_POWER_CYCLES_COUNT, nv := true }
  { record := e, cause := cause, zone := z, sensor := i, reading := reading, seq := c.flash.tripSeq, pending := true
    rails := if full then (List.range 10).map (fun d => c.rd (R.PWR_RAIL_MEAS_MV d)) else []
    temps := if full then (List.range 144).map (fun y => toSigned 16 (c.rd (R.THM_ZONE_T_HOT y)) / 8) else [], headerOnly := !full }

/-- The trip sequence (R524): outputs forced, every supply off, the record written, shutdown. -/
def Chip.trip (c : Chip) (cause z i reading : Nat) (full : Bool) : Chip :=
  let r := c.tripRecord cause z i reading full
  let c := c.stageCut.onFlash (fun f => f.addReserve r)
  let c := c.each (List.range 10) (fun c d => c.wr (R.PWR_RAIL_SET_MV d) 0)
  let c := (c.each [0, 1] (fun c x => c.setComb x 0 0)).forceOutputs .trip
  (c.onPins (fun p => { p with thermTripN := true, xspi := .highZ })).interrupt 3

/-- A trip of the machine: memory contents are lost. -/
def State.trip (s : State) (cause z i reading : Nat) (full : Bool) : State := { s with mem := [], chip := s.chip.trip cause z i reading full }

/-- Whether the comparators and the broken-sensor count are armed: from cast-on step 2 onward, not in a shutdown (R524); a trip may follow a power fail (R531). -/
def Chip.tripArmed (c : Chip) : Bool := (c.powered || c.pins.phase == .powerFail) && (c.pins.phase != .castOn || decide (1 ≤ c.rd R.PCU_CASTON_STEP))

/-- A critical event of a zone: a comb is switched off and lost (R521), any other zone trips the package. -/
def State.critical (s : State) (cause z i reading : Nat) (full : Bool) : State :=
  if !s.chip.tripArmed then s
  else if Config.zoneKind z = .comb then s.onChip (fun c => (c.unlockComb (z - 136)).combFails (z - 136))
  else s.trip cause z i reading full

/-- CRITICAL_TRIP (R521, R524): a sensor has crossed CRIT; `full` says whether the hold-up energy lasts for the whole record. Coolant zones have no CRIT. -/
def execCriticalTrip (z : Fin 144) (sensor : Fin 64) (reading : BitVec 16) (full : Bool) (s : State) : Result :=
  .next (if Config.zoneKind z.val = .coolant then s else s.critical 1 z.val sensor.val reading.toNat full)

/-- SENSOR_BROKEN (R522, R523): marked for the power-on period, counted and reported; the second of a zone is critical. -/
def execSensorBroken (z : Fin 144) (sensor : Fin 64) (reading : BitVec 16) (full : Bool) (s : State) : Result :=
  .next (
    if s.chip.thm.broken.contains (z.val, sensor.val) ∨ Config.zoneSensors z.val ≤ sensor.val then s
    else
      let s := s.onChip (fun c =>
        let c := c.onThm (fun x => { x with broken := x.broken ++ [(z.val, sensor.val)] })
        let c := ((c.count (R.THM_ZONE_STATE_BROKEN z.val)).count R.THM_STATUS_BROKEN).event Ev.sensorBroken none (zoneUnit z.val) [z.val, sensor.val]
        c.report (zoneUnit z.val) [] 0 0 0 actReported)
      if 2 ≤ s.chip.brokenIn z.val then s.critical 2 z.val sensor.val reading.toNat full else s)

/-! Thermal commands (R527). -/

/-- THM_TRIP_ACK: the pending record of a sequence is acknowledged, which is recorded with the sender's session. -/
def execThmTripAck (src : CmdSrc) (idx : BitVec 16) (s : State) : Result :=
  .next (s.atOnce src idx.toNat 0x68 (fun c x =>
    let n := x.par 8 4
    if c.flash.reserve.any (fun r => r.pending && r.seq == n) then
      let c := (c.onFlash (fun f => { f with reserve := updFirst (fun r => r.pending && r.seq == n) (fun r => { r with pending := false }) f.reserve })).tripRegs
      (c.event Ev.tripAck none 0 [n, c.cmdSession src], stOK, (c.flash.reserve.filter (fun r => r.pending)).length, 0)
    else (c, csINVALID, 0, 0)))

/-- The hottest zone, the lowest-numbered among equals. -/
def Chip.hottestZone (c : Chip) : Nat :=
  (List.range 144).foldl (fun b z => if toSigned 16 (c.rd (R.THM_ZONE_T_HOT b)) < toSigned 16 (c.rd (R.THM_ZONE_T_HOT z)) then z else b) 0

/-- THM_GET. -/
def execThmGet (src : CmdSrc) (idx : BitVec 16) (s : State) : Result :=
  .next (s.atOnce src idx.toNat 0x69 (fun c _ =>
    let z := c.hottestZone
    (c, stOK, z + 65536 * c.rd (R.THM_ZONE_T_HOT z), c.rd R.THM_COOLANT_INLET + 65536 * c.rd R.THM_FLOW_FLOW)))

/-! Coolant (R530). -/

/-- COOLANT_WARN (R530): inlet or rise out of range for 1 s, or flow below FLOW_MIN for a second; each further second of low flow lowers every compute die's ceiling by one
point. The ceiling is that of the die's own region zone. -/
def execCoolantWarn (lowFlow : Bool) (s : State) : Result :=
  .next (s.onChip (fun c =>
    if lowFlow && c.thm.lowFlow then c.each (List.range 8) (fun c d => c.lowerCeil (64 + d) d (c.rd (R.THM_CEIL_CEIL d) - 1) 5)
    else
      let c := c.onThm (fun x => if lowFlow then { x with lowFlow := true } else { x with hot := true })
      (c.wr R.THM_STATUS_COOL_WARN 1).event Ev.coolantWarn none 0 [b2n lowFlow]))

/-- FLOW_STOP (R530). -/
def execFlowStop (s : State) : Result :=
  .next (s.onChip (fun c =>
    let c := (((c.wr R.THM_STATUS_FLOW_STOP 1).emergencyAll .flow).event Ev.coolantWarn none 0 [2]).onThm (fun x => { x with lowFlow := true })
    c.each (List.range 8) (fun c d => c.lowerCeil (64 + d) d 0 5)))

/-- FLOW_RESTORED (R530): flow has exceeded FLOW_MIN for 1 s; ceilings rise again under rule 5. -/
def execFlowRestored (s : State) : Result :=
  .next (s.onChip (fun c =>
    let c := c.onThm (fun x => { x with lowFlow := false })
    let c := (c.wr R.THM_STATUS_FLOW_STOP 0).wr R.THM_STATUS_COOL_WARN (b2n c.thm.hot)
    c.each (List.range 8) (fun c d => c.endEmergency d .flow)))

end Sys2Proof.Machine
end

