-- ==== Sys2Proof/Machine/Views.lean ====
section
/-! DEFINITION. What a register reads: for most registers the word kept under its offset, for the others a view of the state behind it, computed at the read (the read-only
fields of the register tables of every chapter). -/

namespace Sys2Proof.Machine

/-! Event records as words (R543). -/

/-- The 32 words of a record (R543). -/
def EventRec.words (e : EventRec) : List Nat :=
  [e.code * 2 ^ 16 + (e.tenant.getD 0) * 2 ^ 12 + b2n e.tenant.isNone * 2 ^ 11 + e.timeState % 8 * 2 ^ 8 + b2n e.late * 2 ^ 7 + b2n e.nv * 2 ^ 6
      + b2n e.trig * 2 ^ 5 + min 16 e.snaps.length,
    e.count, e.time % 2 ^ 32, e.time / 2 ^ 32, e.secs, e.cycles, e.last % 2 ^ 32, e.last / 2 ^ 32, e.unit]
    ++ (List.range 6).map (fun i => e.args.getD i 0) ++ [0] ++ (List.range 16).map (fun i => e.snaps.getD i 0)

/-- The record that EVR.SEL shows: of the volatile store; of the general part (entries 0 to 239); of the trip reserve (240 to 255) (R547, R548). -/
def Chip.shownRecord (c : Chip) : Option EventRec :=
  let i := c.rd R.EVR_SEL_INDEX
  if c.on R.EVR_SEL_NV then
    if i < 240 then c.flash.records[i]? else (c.flash.reserve[i - 240]?).map (fun r => r.record)
  else c.evr.records[i]?

/-! Crash dumps (R448). -/

/-- The words of a dump: 2,280. -/
def dumpWords : Nat := 2280

/-- A word of a dump; words 8 on hold what the state of the unit's firmware decides. -/
def Dump.word (d : Dump) (w : Nat) : Nat :=
  if dumpWords ≤ w then 0
  else if 8 ≤ w then Config.dumpWord d.id w % 2 ^ 32
  else [0x4B58D0C1, d.unit * 2 ^ 24 + d.cause, d.time % 2 ^ 32, d.time / 2 ^ 32, d.secs, d.cycles, d.version, dumpWords].getD w 0

/-- The dump that PCU.DUMP_SEL selects: a live dump, or the newest or older flash dump of a unit. -/
def Chip.shownDump (c : Chip) : Option Dump :=
  let n := c.rd R.PCU_DUMP_SEL_SOURCE
  if n < 2 then c.sec.live.find? (fun d => d.unit == n)
  else if n < 6 then (c.flash.dumps.filter (fun d => d.unit == (n - 2) / 2))[(n - 2) % 2]?
  else none

/-! Views by block. A view lists bit ranges with the values that a read finds there. -/

/-- The views of a plane of the base layer (OPF.STATUS, OPF.SKEIN_STATE). Spares are dark in fallback and in dark mode (R76, R78). -/
def Chip.viewOpf (c : Chip) (r : RegDesc) : List (Nat × Nat × Nat) :=
  if r.base = R.OPF_STATUS then
    [(23, 16, c.sparesFree), (15, 8, min 255 c.opf.booked.length)]
  else if r.base = R.OPF_SKEIN_STATE then
    let s := c.rd R.OPF_SKEIN_SEL_SRC
    let d := c.rd R.OPF_SKEIN_SEL_DST
    if 24 ≤ s ∨ 24 ≤ d then [(31, 0, 0)]
    else
      let built := skeinBuilt s d
      let up := (List.range built).filter (fun p => let v := c.laneState s p (skeinK s d); v == lsUP || (s == d && v == lsMONITOR))
      let circuits := (List.range 112).filter (fun e => c.rd (R.CIRC_PLANE_STATE e) == 1 && (switchedAt e).1 == s
        && (switchedAt (c.rd (R.CIRC_PLANE_DST_BANK e))).1 == d)
      [(31, 24, 24 * circuits.length), (23, 16, built), (15, 8, up.length), (7, 0, c.skeinLostCount s d)]
  else []

/-- The lanes of a site that carry its own traffic and tests: planes and wavelengths. -/
def ownLanes (s : Nat) : List (Nat × Nat) :=
  ((List.range 42).filter (fun p => Config.planeKind s p == 1 || Config.planeKind s p == 2)).flatMap (fun p => (List.range 24).map (fun k => (p, k)))

/-- Retry events of a link in the fence window now (R132): those of the last `win` rows. -/
def Chip.windowNow (c : Chip) (key : Nat × Nat × Nat) (win : Nat) : Nat := min 255 ((c.linkTx key).window.filter (fun r => decide (c.row < r + win))).length

/-- Whether the test override of a lane's taps is applied now: only in Test (R120, LANE.EQ_OVR). -/
def Chip.eqOverridden (c : Chip) (s p k : Nat) : Bool := c.on (R.LANE_EQ_OVR_EN s p k) && c.laneState s p k == lsTEST

/-- The taps PRE, MAIN and POST that a transmit lane applies, in 1/64 of the swing (R120): the factory's, or in Test the override's, with PRE clamped to -16 to 0, POST to -24 to 0 and MAIN what
is left of 64. -/
def Chip.txTaps (c : Chip) (s p k : Nat) : Int × Int × Int :=
  if c.eqOverridden s p k then
    let pre := max (-16) (min 0 (toSigned 8 (c.rd (R.LANE_EQ_OVR_PRE s p k))))
    let post := max (-24) (min 0 (toSigned 8 (c.rd (R.LANE_EQ_OVR_POST s p k))))
    (pre, 64 - pre.natAbs - post.natAbs, post)
  else (toSigned 8 (c.rd (R.LANE_TXEQ_PRE s p k)), c.rd (R.LANE_TXEQ_MAIN s p k), toSigned 8 (c.rd (R.LANE_TXEQ_POST s p k)))

/-- The views of the lane layer (LANE.STATUS, the fence window, the override of the taps, the entries of absent and spare planes). -/
def Chip.viewLane (c : Chip) (r : RegDesc) (is : List Nat) : List (Nat × Nat × Nat) :=
  let s := is.getD 0 0
  if r.base = R.LANE_STATUS 0 then
    [(31, 20, ((ownLanes s).filter (fun l => c.laneState s l.1 l.2 == lsUP)).length),
     (19, 12, min 255 ((ownLanes s).filter (fun l => c.laneState s l.1 l.2 == lsFENCED)).length)]
  else if R.LANE_STATE 0 0 0 ≤ r.base then
    let p := is.getD 1 0
    let k := is.getD 2 0
    let kind := Config.planeKind s p
    if kind = 0 then [(31, 0, 0)]
    else if kind = 3 then
      if r.base = R.LANE_STATE 0 0 0 then
        let v := c.spareEntry s p k
        [(31, 0, 0), (31, 28, v), (27, 24, if v = lsFENCED ∧ c.sideState ⟨s, p, false⟩ % 2 = 0 then c.rd (R.LANE_STATE_REASON s p k) else 0)]
      else [(31, 0, 0)]
    else if r.base = R.LANE_STATE 0 0 0 then [(23, 16, c.windowNow (s, p, k) (c.rdPos (R.LANE_CFG_RETRY_WIN s)))]
    else if r.base = R.LANE_TXEQ 0 0 0 then [(0, 0, b2n (c.eqOverridden s p k))]
    else []
  else []

/-- The loop states of a site's rings, as far as the site has them. -/
def Chip.loopsIn (c : Chip) (s state : Nat) : Nat :=
  ((List.range 42).map (fun p => if Config.planeKind s p = 0 then 0
      else ((List.range 2).map (fun d => ((List.range 24).filter (fun k => c.rd (ringLoop ⟨s, p, d, k⟩) == state)).length)).sum)).sum
    + (if Config.siteKind s = .edge then
        ((List.range 4).map (fun j => ((List.range 2).map (fun d => ((List.range 40).filter (fun l => c.rd (ringLoop ⟨s, 38 + j, d, l⟩) == state)).length)).sum)).sum
      else 0)

/-- The views of tension control (TNS.STATUS, the entries of planes and ports that a site lacks). -/
def Chip.viewTns (c : Chip) (r : RegDesc) (is : List Nat) (off : Nat) : List (Nat × Nat × Nat) :=
  let s := is.getD 0 0
  if r.base = R.TNS_STATUS 0 then
    [(31, 20, min 4095 (c.loopsIn s loLOCKED)), (15, 8, ((List.range (groupsOf s)).filter (fun g => c.trigBits s g != 0)).length)]
  else if R.TNS_RING_STATE 0 0 0 0 ≤ r.base then
    (if r.base < R.TNS_PORT_RING_STATE 18 0 0 0 ∧ Config.planeKind s (is.getD 1 0) = 0 then [(31, 0, 0)]
     else if r.base = R.TNS_RING_STATE 0 0 0 0 + 4 ∨ r.base = R.TNS_PORT_RING_STATE 18 0 0 0 + 4 then [(31, 0, c.factory (off - 4))]
     else [])
  else []

/-- The views of the site block: planes and receive queues that a site lacks read zero. -/
def viewSite (r : RegDesc) (is : List Nat) : List (Nat × Nat × Nat) :=
  let s := is.getD 0 0
  if R.SITE_RQ_CFG 0 0 ≤ r.base then (if hasQueues s then [] else [(31, 0, 0)])
  else if r.base = R.SITE_PLANE_STATE 0 0 ∨ r.base = R.SITE_TX_FENCE 0 0 ∨ r.base = R.SITE_RX_FENCE 0 0 then
    (if Config.planeKind s (is.getD 1 0) = 0 then [(31, 0, 0)] else [])
  else []

/-- The views of the light supply: HELD, and what it measures. -/
def Chip.viewLsu (c : Chip) (r : RegDesc) (is : List Nat) (off : Nat) : List (Nat × Nat × Nat) :=
  if r.base = R.LSU_COMB 0 then [(11, 0, c.combHeld (is.getD 0 0))]
  else if r.base = R.LSU_OFFSET then [(15, 0, c.shownOffset)]
  else if r.base = R.LSU_POWER then [(15, 0, Config.measured off c.drawn)]
  else if r.base = R.LSU_LINE_PWR 0 then
    (if c.rd R.LSU_STATUS_MODE = 0 then [] else [(31, 16, ofSigned 16 (c.lineNow (is.getD 0 0))), (15, 0, ofSigned 16 (c.lineRef (is.getD 0 0)))])
  else []

/-- The views of the edge ports (EDGE.STATUS, and what a lane measures). A lane whose rings are under swatch, or that a pattern run tests, reads Cal or Test while a spare carries its stream (R135,
R217; DEDUCED, log entry 167; safe). The loops of a lane that has no light read unlocked, those of a trained lane with light locked; while a port trains or its loops hold, what they have reached is a
free value (R208; log entry 168). -/
def Chip.viewEdge (c : Chip) (r : RegDesc) (is : List Nat) (off : Nat) : List (Nat × Nat × Nat) :=
  let j := is.getD 0 0
  if r.base = R.EDGE_STATUS 0 then
    [(23, 16, c.lanesIn j false), (15, 14, (c.freeSpares j false).length), (13, 12, (c.freeSpares j true).length)]
  else if r.base = R.EDGE_LANE_STATE 0 0 then
    (match c.tns.swatches.find? (fun w => w.begun && w.site == 18 + j / 4 && w.plane == 38 + j % 4 && w.k == is.getD 1 0) with
     | some _ => [(31, 28, lsCAL), (27, 24, lsCAL)]
     | none => if c.edge.runs.any (fun r => r.running && r.site == j && r.k == is.getD 1 0) then [(31, 28, lsTEST), (27, 24, lsTEST)] else []) ++ [(7, 0, c.windowNow (24 + j, 0, is.getD 1 0) (c.rdPos (R.EDGE_CFG_RETRY_WIN j)))]
  else if r.base = R.EDGE_LANE_RXPWR 0 0 then [(31, 0, Config.measured off c.drawn)]
  else if r.base = R.EDGE_LANE_COH 0 0 then
    (let st := c.rd (R.EDGE_STATUS_STATE j)
     let l := is.getD 1 0
     if st = 0 ∨ c.portLane j l true = lsOFF then [(31, 27, 0), (15, 0, 0)]
     else if st = 2 ∧ (getKey j c.edge.lightLost).isNone ∧ c.portLane j l true ≠ lsFENCED then [(31, 27, 31), (15, 0, Config.measured off (c.drawn + 1))]
     else [(31, 27, Config.measured off c.drawn), (15, 0, Config.measured off (c.drawn + 1))])
  else []

/-- The views of routing: state, depths and credits (R225, R230, R235, R240). -/
def Chip.viewRoute (c : Chip) (r : RegDesc) (is : List Nat) : List (Nat × Nat × Nat) :=
  let i := is.getD 0 0
  if r.base = R.ROUTE_STATUS then [(2, 2, b2n (decide (c.nodeCount ≤ c.node))), (1, 1, b2n (c.stopped r is))]
  else if r.base = R.ROUTE_DETOUR then [(31, 16, min 65535 c.edge.detour.length)]
  else if r.base = R.ROUTE_PORT_INFO 0 then [(23, 14, c.portCredit i 2)]
  else if r.base = R.ROUTE_PORT_DEPTH 0 then [(31, 16, min 65535 (c.portDepth i)), (15, 0, min 65535 (c.portDepthEsc i))]
  else if r.base = R.ROUTE_PORT_CREDIT 0 then [(31, 16, c.portCredit i 0), (15, 0, c.portCredit i 1)]
  else if r.base = R.ROUTE_NODE_STATE 0 then
    let waiting := (28, 28, b2n (c.edge.detour.any (fun x => x.st.dstNode == i)))
    if c.nodeCount ≤ i then [(31, 30, 1), waiting] else if i = c.node then [(31, 30, 3), waiting] else [waiting]
  else []

/-- The views of the combining tables (RED.STATUS, RED.UNIT, RED.CTX_D). -/
def Chip.viewRed (c : Chip) (r : RegDesc) (is : List Nat) : List (Nat × Nat × Nat) :=
  let i := is.getD 0 0
  if r.base = R.RED_STATUS then
    [(31, 21, ((List.range 1024).filter (fun n => c.on (R.RED_CTX_A_EN n))).length),
     (20, 8, ((List.range 4096).filter (fun n => c.on (R.RED_MC_A_EN n))).length)]
  else if r.base = R.RED_UNIT 0 then [(31, 16, min 65535 (c.unitReserved i)), (15, 0, c.entriesUsed i none)]
  else if r.base = R.RED_CTX_D 0 then [(31, 16, min 65535 (c.ctxPending i))]
  else []

/-- The 16 bytes of the sync object that SYN.OBJ_SEL names, as four words. -/
def Chip.objWords (c : Chip) : List Nat :=
  let bs := syncBytes (c.obj (c.rd R.SYN_OBJ_SEL_OBJECT))
  (List.range 4).map (fun i => leField bs (4 * i) 4)

/-- The views of the sync store: the selected object, and what the control network measures. -/
def Chip.viewSyn (c : Chip) (r : RegDesc) (off : Nat) : List (Nat × Nat × Nat) :=
  if R.SYN_OBJ_W0_LO ≤ r.base ∧ r.base ≤ R.SYN_OBJ_W1_HI then [(31, 0, c.objWords.getD ((r.base - R.SYN_OBJ_W0_LO) / 4) 0)]
  else if r.base = R.SYN_NET_STATUS then [(31, 0, Config.measured off c.drawn)]
  else []

/-- The views of the compute dies: what waits on a sync object, what is measured, and the registers of a core that is no physical core of the tenant map (R305). -/
def Chip.viewCmp (c : Chip) (r : RegDesc) (is : List Nat) (off : Nat) : List (Nat × Nat × Nat) :=
  let d := is.getD 0 0
  if r.base = R.CMP_QP_STATUS 0 0 then
    (if c.qpWaits d (is.getD 1 0) && c.rd (R.CMP_QP_STATUS_STATE d (is.getD 1 0)) != 4 then [(31, 28, 3)] else [])
  else if R.CMP_CORE_CTRL 0 0 ≤ r.base ∧ c.rd (R.CMP_CORE_STATE_STATE d (is.getD 1 0)) = 6 ∧ r.base ≠ R.CMP_CORE_STATE 0 0 then [(31, 0, 0)]
  else if r.base = R.CMP_CORE_COUNTS 0 0 then [(15, 0, min 0xFFFF (fget (c.word off).toNat 15 0 + Config.measured off c.drawn))]
  else if r.base = R.CMP_MXE_PAUSED_LO 0 0 then [(31, 0, Config.measured off c.drawn)]
  else if r.base = R.CMP_MXE_PAUSED_HI 0 0 then [(15, 0, Config.measured off c.drawn)]
  else []

/-- The views of a memory site: the selected translation entry (R389) and the stack capacity (R384). -/
def Chip.viewMem (c : Chip) (r : RegDesc) (is : List Nat) : List (Nat × Nat × Nat) :=
  let i := is.getD 0 0
  if r.base = R.MEM_XLAT_DATA 0 then
    match getKey (c.rd (R.MEM_XLAT_SEL_INDEX i)) c.mems.xlat with
    | some (t, f) => [(31, 0, 0), (31, 31, 1), (30, 27, t), (18, 0, f)]
    | none => [(31, 0, 0)]
  else if r.base = R.MEM_INFO 0 then [(31, 24, c.stackGib)]
  else []

/-- The views of the time service (R294). -/
def Chip.viewTime (c : Chip) (r : RegDesc) : List (Nat × Nat × Nat) :=
  if r.base = R.TIME_NOW_LO then [(31, 0, c.now)]
  else if r.base = R.TIME_NOW_HI then [(31, 0, c.now / 2 ^ 32)]
  else if r.base = R.TIME_ROW_LO then [(31, 0, c.row)]
  else if r.base = R.TIME_ROW_HI then [(15, 0, c.row / 2 ^ 32)]
  else []

/-- The views of the control units' block: the selected dump, and DEBUG_HOLD (R448, R540). -/
def Chip.viewPcu (c : Chip) (r : RegDesc) : List (Nat × Nat × Nat) :=
  if r.base = R.PCU_DUMP_INFO then
    match c.shownDump with
    | some d => [(31, 31, 1), (23, 16, d.cause), (15, 0, dumpWords)]
    | none => [(31, 0, 0)]
  else if r.base = R.PCU_DUMP_DATA then
    match c.shownDump with
    | some d => [(31, 0, d.word (c.rd R.PCU_DUMP_SEL_WORD))]
    | none => [(31, 0, 0)]
  else if r.base = R.PCU_LEASE_STATUS then [(29, 29, c.rd R.PCU_DEBUG_HOLD_EN)]
  else []

/-- The views of the event recorder (R543, R547, R548). -/
def Chip.viewEvr (c : Chip) (r : RegDesc) (is : List Nat) : List (Nat × Nat × Nat) :=
  if r.base = R.EVR_STATUS then [(31, 19, c.evr.records.length), (18, 18, b2n (decide (4096 ≤ c.evr.records.length))), (17, 17, b2n c.evr.frozen.isSome)]
  else if r.base = R.EVR_NV_STATUS then
    [(31, 23, min 240 c.flash.records.length), (22, 18, c.flash.reserve.length), (17, 17, b2n (decide (240 ≤ c.flash.records.length))),
     (16, 16, b2n c.flash.tripOver)]
  else if r.base = R.EVR_REC 0 then
    match c.shownRecord with
    | some e => [(31, 0, e.words.getD (is.getD 0 0) 0)]
    | none => [(31, 0, 0)]
  else []

/-- The seconds of lifetime that a session has left (SEC.SESSION.LEFT). -/
def Chip.sessionLeft (c : Chip) (n : Nat) : Nat :=
  match getKey n c.sec.ends with
  | some e => min 0x7FFF ((e - c.now + 999999999) / 1000000000)
  | none => 0

/-- Failed verifications of the last 10 minutes, at most as many as SEC.STATUS.FAILS shows (R435). -/
def Chip.authFails (c : Chip) : Nat := (c.sec.fails.filter (fun t => decide (c.now < t + 600000000000))).length

/-- The views of the security block (R433, R435, R436). -/
def Chip.viewSec (c : Chip) (r : RegDesc) (is : List Nat) : List (Nat × Nat × Nat) :=
  if r.base = R.SEC_SESSION 0 then [(14, 0, c.sessionLeft (is.getD 0 0))]
  else if r.base = R.SEC_STATUS then
    [(31, 24, min 255 c.authFails), (8, 8, b2n c.sec.lockedUntil.isSome), (2, 2, b2n (getKey 1 c.flash.keys).isSome), (1, 1, b2n (getKey 0 c.flash.keys).isSome)]
  else if r.base = R.SEC_NONCE 0 then
    (match c.sec.nonceUntil with
     | some t => if c.now < t then [] else [(31, 0, 0)]
     | none => [(31, 0, 0)])
  else []

/-- The views of a register: the bit ranges that a read takes from elsewhere than the word kept under the offset. -/
def Chip.views (c : Chip) (r : RegDesc) (is : List Nat) (off : Nat) : List (Nat × Nat × Nat) :=
  match r.blk with
  | .opf => c.viewOpf r
  | .lane => c.viewLane r is
  | .tns => c.viewTns r is off
  | .site => viewSite r is
  | .lsu => c.viewLsu r is off
  | .edge => c.viewEdge r is off
  | .route => c.viewRoute r is
  | .red => c.viewRed r is
  | .syn => c.viewSyn r off
  | .cmp => c.viewCmp r is off
  | .mem => c.viewMem r is
  | .time => c.viewTime r
  | .pcu => c.viewPcu r
  | .evr => c.viewEvr r is
  | .part => if r.base = R.PART_STATUS then [(24, 16, c.shareSum)] else []
  | .circ =>
    if r.base = R.CIRC_PLANE 0 then [(13, 8, (c.dealLanes (is.getD 0 0)).length)]
    else if r.base = R.CIRC_PORT_ASSIGN 0 ∧ is.getD 0 0 < 12 then [(23, 23, 0)] else []
  | .clk => if r.base = R.CLK_XLAT 0 then let x := c.crossing (is.getD 0 0); [(31, 16, x.1), (15, 0, x.2)] else []
  | .pwr => if r.base = R.PWR_TARGET_LEFT then [(15, 0, min 65535 ((c.pwr.targetUntil - c.now + 999999) / 1000000))] else []
  | .thm => if r.base = R.THM_ZONE_LIM 0 ∧ 142 ≤ is.getD 0 0 then [(31, 0, 0)] else []
  | .sec => c.viewSec r is
  | .cpu => if r.base = R.CPU_RWIN 0 0 ∧ (is.getD 1 0 = 0 ∨ is.getD 1 0 = 1023) then [(31, 0, 0)] else []
  | _ => []

/-- Write-only fields read as zero (R7). -/
def hideWo : List Fld → Nat → Nat
  | [], w => w
  | f :: fs, w => hideWo fs (if f.acc = .wo then fset w f.hi f.lo 0 else w)

/-- What a read of the register at an offset finds. -/
def Chip.viewWord (c : Chip) (off : Nat) : Nat :=
  match findReg off with
  | none => 0
  | some (r, is) => (c.views r is off).foldl (fun w v => fset w v.1 v.2.1 v.2.2) (hideWo r.flds (c.word off).toNat)

/-- Whether a read of a register gives a physical measurement, so that each read is a draw of its own. -/
def isMeasured (r : RegDesc) : Bool :=
  [R.LSU_POWER, R.LSU_LINE_PWR 0, R.EDGE_LANE_COH 0 0, R.EDGE_LANE_RXPWR 0 0,
   R.SYN_NET_STATUS, R.CMP_CORE_COUNTS 0 0, R.CMP_MXE_PAUSED_LO 0 0, R.CMP_MXE_PAUSED_HI 0 0].contains r.base

end Sys2Proof.Machine
end

