-- ==== Sys2Proof/Machine/Recorder.lean ====
section
/-! DEFINITION. The event recorder: captured events become records or repeats, triggers and snapshots, the volatile and the non-volatile store, freezing and clearing
(R541, R543 to R551). -/

namespace Sys2Proof.Machine

/-- Whether a time in nanoseconds has come. While rows do not run, T stands still (R551) and the event that names the time says that it has come. -/
def Chip.reached (c : Chip) (t : Nat) : Bool := !c.rowsRun || decide (t ≤ c.now)

/-! Triggers (R550). -/

/-- Whether trigger `n` matches a code. -/
def Chip.trigMatches (c : Chip) (n code : Nat) : Bool :=
  c.on (R.EVR_TRIG_CFG_EN n) && (if c.on (R.EVR_TRIG_CFG_BLOCK_ONLY n) then c.rd (R.EVR_TRIG_CFG_CODE n) / 256 == code / 256
    else c.rd (R.EVR_TRIG_CFG_CODE n) == code)

/-- The triggers that match a code, in rising order. -/
def Chip.trigs (c : Chip) (code : Nat) : List Nat := (List.range 32).filter (fun n => c.trigMatches n code)

/-- What a snapshot read finds at an offset: zero in an alias region, in the debug window, at an unmapped offset and in a gated block (R550). -/
def Chip.snapWord (c : Chip) (off : Nat) : Nat := if aliasOff off ∨ windowOff off ∨ c.gated off then 0 else c.viewWord off

/-- The snapshot of trigger `n`. -/
def Chip.snapshot (c : Chip) (n : Nat) : List Nat :=
  (List.range (min 16 (c.rd (R.EVR_TRIG_CFG_NSNAP n)))).map (fun i => c.snapWord (c.rd (R.EVR_TRIG_OFS_OFFSET n i)))

/-! Records. -/

/-- Whether a new event adds to the repeat count of a record (R546): same code, unit, tenant and first argument, within the burst window or tied to the record. -/
def repeats (burst : Nat) (r e : EventRec) : Bool :=
  r.code == e.code && r.unit == e.unit && r.tenant == e.tenant && r.args.getD 0 0 == e.args.getD 0 0
    && (Ev.tied e.code || (let t := if r.last = 0 then r.time else r.last; decide (t ≤ e.time) && decide (e.time ≤ t + burst)))

/-- A repeat of a record (R546): words 1 and 6 to 7. -/
def EventRec.again (r : EventRec) (time : Nat) : EventRec := { r with count := min 0xFFFFFFFF (r.count + 1), last := time }

/-- The newest record of a store that an event repeats, counted; none where it makes a new record. -/
def addRepeat (burst : Nat) (l : List EventRec) (e : EventRec) : Option (List EventRec) :=
  if l.any (fun r => repeats burst r e) then some (updFirst (fun r => repeats burst r e) (fun r => r.again e.time) l.reverse).reverse else none

/-- The repeat window in nanoseconds. -/
def Chip.burst (c : Chip) : Nat := c.rdPos R.EVR_CFG_BURST_S * 1000000000

/-- A record of an event that the recorder raises itself. -/
def Chip.ownRecord (c : Chip) (code : Nat) (args : List Nat) : EventRec :=
  { code := code, tenant := none, unit := 0, args := args, time := c.now, timeState := c.rd R.TIME_STATUS_STATE, secs := c.opSecs
    cycles := c.rd R.EVR_POWER_CYCLES_COUNT, nv := Ev.nonVolatile code }

/-- An event goes to the general part of the non-volatile store (R548). -/
def Chip.recordNv (c : Chip) (e : EventRec) : Chip :=
  match addRepeat c.burst c.flash.records e with
  | some l => c.onFlash (fun f => { f with records := l })
  | none => if 240 ≤ c.flash.records.length then c.count R.EVR_LOST_NV else c.onFlash (fun f => { f with records := f.records ++ [e] })

/-- An event goes to the volatile store (R547): a repeat, a new record, event 0x0101 in the last entry, or lost. -/
def Chip.recordVol (c : Chip) (e : EventRec) : Chip :=
  match addRepeat c.burst c.evr.records e with
  | some l => c.onEvr (fun x => { x with records := l })
  | none =>
    let n := c.evr.records.length
    if n < 4095 then c.onEvr (fun x => { x with records := x.records ++ [e] })
    else
      let c := c.count R.EVR_LOST_VOL
      if n = 4095 then
        let f := c.ownRecord Ev.volFull []
        (c.onEvr (fun x => { x with records := x.records ++ [f] })).recordNv f
      else c

/-- The volatile store is emptied; its first record says so (R547). -/
def Chip.clearVol (c : Chip) : Chip :=
  let e := c.ownRecord Ev.volCleared [c.evr.records.length]
  (c.onEvr (fun x => { x with records := [e] })).recordNv e

/-- An event for the volatile store: applied, or queued during a freeze (R549). A clearing is a change of the store and waits with the events. -/
def Chip.toVol (c : Chip) (e : EventRec) : Chip :=
  if c.evr.frozen.isNone then (if e.code = Ev.volCleared then c.clearVol else c.recordVol e)
  else if c.evr.queue.length < 256 then c.onEvr (fun x => { x with queue := x.queue ++ [e] })
  else c.count R.EVR_LOST_VOL

/-- A captured event becomes a record or a repeat in the stores it belongs to (R541, R546 to R550). A snapshot is taken when it makes a new record; its freeze keeps it. -/
def Chip.makeRecord (c : Chip) (e : Event) : Chip :=
  let hits := c.trigs e.code
  let c := c.each hits (fun c n => c.count (R.EVR_TRIG_HITS_COUNT n))
  let snaps := match hits with
    | n :: _ => c.snapshot n
    | [] => []
  let r : EventRec :=
    { code := e.code, tenant := e.tenant, unit := e.unit, args := e.args, time := e.time, timeState := e.timeState, secs := c.opSecs
      cycles := c.rd R.EVR_POWER_CYCLES_COUNT, late := decide (0 < c.pcu.lostAt) && decide (2 * e.time ≤ c.pcu.lostAt)
      nv := Ev.nonVolatile e.code, trig := !hits.isEmpty, snaps := snaps }
  let c := if r.nv then c.recordNv r else c
  c.toVol r

/-- EVENT_RECORD (R541, R546): the token holder turns the oldest captured event into a record; events lost to a full capture queue are counted (R551). -/
def execEventRecord (s : State) : Result :=
  .next (s.onChip (fun c =>
    if !c.tokenHeld then c
    else
      let c := { c.count R.EVR_LOST_VOL c.captureLost with captureLost := 0 }
      match c.captured with
      | [] => c
      | e :: es => { c with captured := es }.makeRecord e))

/-! Freezing and clearing (R547 to R549). -/

/-- The freeze ends and the events that waited are applied in order of occurrence (R549). -/
def Chip.thaw (c : Chip) : Chip :=
  let q := c.evr.queue
  let c := c.onEvr (fun x => { x with frozen := none, queue := [] })
  c.each q (fun c e => c.toVol e)

/-- The effect of EVR.CTRL: FREEZE, UNFREEZE; both at once are no command. -/
def evrCtrlHook (v : Nat) : WriteHook :=
  WriteHook.does (fun c =>
    if bitOf v 31 ∧ ¬ bitOf v 30 ∧ c.evr.frozen.isNone then
      c.onEvr (fun x => { x with frozen := some (c.now + c.rdPos R.EVR_CFG_FREEZE_MAX * 1000000000) })
    else if bitOf v 30 ∧ ¬ bitOf v 31 ∧ c.evr.frozen.isSome then c.thaw
    else c)

/-- The effect of EVR.CLEAR. -/
def evrClearHook (v : Nat) : WriteHook := WriteHook.does (fun c => if bitOf v 31 then c.toVol (c.ownRecord Ev.volCleared []) else c)

/-- The effect of EVR.NV_CLEAR: the general part is emptied, never the reserve (R548); the clearing is recorded in both stores. -/
def evrNvClearHook (v : Nat) : WriteHook :=
  WriteHook.does (fun c =>
    if bitOf v 31 then
      let e := c.ownRecord Ev.nvCleared [c.flash.records.length]
      (c.onFlash (fun f => { f with records := [e] })).toVol e
    else c)

/-- EVR_FREEZE: a write of EVR.CTRL (R549). -/
def execEvrFreeze (req : Requester) (v : BitVec 32) (s : State) : Result :=
  .next (s.onChip (fun c => c.writeReg req R.EVR_CTRL v.toNat (evrCtrlHook v.toNat)))

/-- EVR_UNFREEZE: a write of EVR.CTRL (R549). -/
def execEvrUnfreeze (req : Requester) (v : BitVec 32) (s : State) : Result :=
  .next (s.onChip (fun c => c.writeReg req R.EVR_CTRL v.toNat (evrCtrlHook v.toNat)))

/-- FREEZE_TIMEOUT (R549): a freeze that has lasted FREEZE_MAX seconds ends by itself, with event 0x0102. -/
def execFreezeTimeout (s : State) : Result :=
  .next (s.onChip (fun c => match c.evr.frozen with
    | some t => if c.reached t then c.thaw.event Ev.freezeEnded none 0 [] else c
    | none => c))

/-- EVR_CLEAR: a write of EVR.CLEAR (R547). -/
def execEvrClear (req : Requester) (v : BitVec 32) (s : State) : Result :=
  .next (s.onChip (fun c => c.writeReg req R.EVR_CLEAR v.toNat (evrClearHook v.toNat)))

/-- EVR_NV_CLEAR: a write of EVR.NV_CLEAR (R548). -/
def execEvrNvClear (req : Requester) (v : BitVec 32) (s : State) : Result :=
  .next (s.onChip (fun c => c.writeReg req R.EVR_NV_CLEAR v.toNat (evrNvClearHook v.toNat)))

/-! Operating seconds (R544). -/

/-- The operating seconds and the power-cycle count as the flash keeps them. -/
def Chip.saveSecs (c : Chip) : Chip := c.onFlash (fun f => { f with secs := c.opSecs })

/-- OP_SECS_SAVE (R544): while PWR_GOOD is high, the island saves the operating seconds to flash each hour. -/
def execOpSecsSave (s : State) : Result := .next (s.onChip (fun c => if c.pins.pwrGood then c.saveSecs else c))

end Sys2Proof.Machine
end

