-- ==== Sys2Proof/Machine/Pcu.lean ====
section
/-! DEFINITION. The two control units: the lease and its arbiter, switch-overs, restarts, the debug hold, crash dumps, and what the arbiter does without a token
(R427, R448, R532 to R542). -/

namespace Sys2Proof.Machine

/-- Whether a time in fabric cycles has come; while rows do not run, the event that names the time says so. -/
def Chip.reachedCycle (c : Chip) (t : Nat) : Bool := !c.rowsRun || decide (t ≤ c.cycles)

/-- The holder of the token renews its lease for 8 µs (R534). -/
def Chip.renewLease (c : Chip) : Chip := c.onPcu (fun x => { x with leaseUntil := c.cycles + 16000 })

/-! Crash dumps (R448). -/

/-- A unit that lost the token keeps a dump, in place of its former one. -/
def Chip.keepDump (c : Chip) (u cause : Nat) : Chip :=
  let d : Dump := ⟨u, cause, c.now, c.opSecs, c.rd R.EVR_POWER_CYCLES_COUNT, (c.word R.PCU_FW_VERSION).toNat, c.drawn⟩
  let c := { c with drawn := c.drawn + 1 }
  (c.onSec (fun x => { x with live := d :: x.live.filter (fun y => y.unit != u) })).event Ev.crashDump none (Unit.pcu u) [u, cause]

/-- The holder copies the live dumps to flash, which keeps the two newest of each unit. -/
def Chip.copyDumps (c : Chip) : Chip :=
  let fresh := c.sec.live.filter (fun d => !c.flash.dumps.contains d)
  let all := fresh ++ c.flash.dumps
  c.onFlash (fun f => { f with dumps := (all.filter (fun d => d.unit == 0)).take 2 ++ (all.filter (fun d => d.unit == 1)).take 2 })

/-! Losing and taking the token (R534 to R537, R539, R542). -/

/-- The holder loses the token: a dump is kept; the arbiter resets the unit, unless a debugger holds it halted (R535, R537, R539). -/
def Chip.loseToken (c : Chip) (cause : Nat) (halted : Bool) : Chip :=
  let u := c.rd R.PCU_LEASE_STATUS_HOLDER
  let c := (c.wr R.PCU_LEASE_STATUS_HOLDER 3).onPcu (fun x => { x with lostRow := c.row, lostAt := c.cycles })
  let c := ((c.wr R.PCU_LEASE_LAST_CAUSE cause).wr R.PCU_LEASE_LAST_FROM u).wr R.PCU_LEASE_LAST_ROW c.row16
  let c := if cause = 2 then c.count (R.PCU_UNIT_CHECK_FAILS u) else c
  let c := c.keepDump u cause
  if halted then (c.setUnit u 7).onPcu (fun x => { x with halted := x.halted ++ [u] }) else c.restartUnit u

/-- Management commands in flight end INTERRUPTED: those before their commit point, or every one (R427, R542). -/
def Chip.interruptCmds (c : Chip) (every : Bool) : Chip :=
  let hit := fun (x : Cmd) => c.isMgmt x.src && x.started && x.result.isNone && (every || !x.committed)
  c.each (c.cmd.cmds.filter hit) (fun c x => (if x.opcode = 0x7C then c.stageUndefined x else c).endCmd x csINTERRUPTED 0 0)

/-- Mirror pages that fail their check are rebuilt: recorded, reported for the unit that wrote them, and the commands or sessions they held ended (R542). -/
def Chip.rebuildPages (c : Chip) (writer bad : Nat) : Chip :=
  let c := (c.wr R.PCU_MIRROR_REBUILT bad).wr R.PCU_MIRROR_VALID 0xFFFF
  let c := c.each (setBits 16 bad) (fun c p => (c.event Ev.pageRebuilt none (Unit.pcu writer) [p]).report (Unit.pcu writer) [] 0 0 0 actReported)
  let c := if bitOf bad 12 then c.each (List.range 4) (fun c n => c.closeSession n) else c
  if bitOf bad 1 || bitOf bad 2 then c.interruptCmds true else c

/-- A unit takes the token: active, its lease begins, a switch-over is counted and recorded, dumps are copied, commands in flight are ended, and
dropped frequency changes are announced again (R29, R427, R534, R536). `gap` is the time
from the loss to the resumption of the loops in 0.1 µs, `bad` the mirror pages whose headers fail. -/
def Chip.takeToken (c : Chip) (u gap bad : Nat) : Chip :=
  let cause := c.rd R.PCU_LEASE_LAST_CAUSE
  let c := (((c.wr R.PCU_LEASE_STATUS_HOLDER u).setUnit u 4).renewLease).count R.PCU_LEASE_STATUS_SWITCHES
  let c := (c.wr R.PCU_LEASE_LAST_GAP (min 0x7FF gap)).event Ev.switchOverPcu none (Unit.pcu u) [cause]
  ((c.copyDumps.rebuildPages (c.rd R.PCU_LEASE_LAST_FROM) bad).interruptCmds false).reannounce

/-- The standby of unit `u`. -/
def standbyOf (u : Nat) : Nat := 1 - u

/-- The arbiter grants the token to a standby that is ready and whose heartbeat is fresh, unless the debug hold is set (R534, R540). -/
def Chip.grantStandby (c : Chip) (from_ : Nat) (beat : Bool) (gap bad : Nat) : Chip :=
  let v := standbyOf from_
  if beat ∧ c.rd (R.PCU_UNIT_STATE v) = 3 ∧ c.on R.PCU_DEBUG_HOLD_EN = false then c.takeToken v gap bad else c

/-- LEASE_RENEW (R534): a renewal of the active unit, accepted while its self-check has passed. -/
def execLeaseRenew (unit : Fin 2) (passed : Bool) (s : State) : Result :=
  .next (s.onChip (fun c => if c.rd R.PCU_LEASE_STATUS_HOLDER = unit.val ∧ passed then c.renewLease else c))

/-- PCU_LEASE_EXPIRY (R534, R536, R539, R540): the lease runs out; a ready standby takes the token. `beat`: the standby's heartbeat is at most 4 µs old; `halted`: a debugger holds the
unit. -/
def execPcuLeaseExpiry (beat halted : Bool) (gap : BitVec 16) (bad : BitVec 16) (s : State) : Result :=
  .next (s.onChip (fun c =>
    if c.tokenHeld = false ∨ c.on R.PCU_DEBUG_HOLD_EN ∨ c.reachedCycle c.pcu.leaseUntil = false then c
    else
      let u := c.rd R.PCU_LEASE_STATUS_HOLDER
      (c.loseToken 1 halted).grantStandby u beat gap.toNat bad.toNat))

/-- LEASE_RELEASE (R535): the active unit releases the lease at once: 0 failed self-check, 1 exception, 2 watchdog, 3 uncorrectable error. -/
def execLeaseRelease (why : Fin 4) (beat : Bool) (gap : BitVec 16) (bad : BitVec 16) (s : State) : Result :=
  .next (s.onChip (fun c =>
    if c.tokenHeld = false then c
    else
      let u := c.rd R.PCU_LEASE_STATUS_HOLDER
      (c.loseToken (why.val + 2) false).grantStandby u beat gap.toNat bad.toNat))

/-- NO_TOKEN_TIMEOUT (R538): no unit has held the token for NOPCU_MS milliseconds. -/
def execNoTokenTimeout (s : State) : Result :=
  .next (s.onChip (fun c =>
    let ms := c.rdPos R.PCU_LEASE_CFG_NOPCU_MS
    if c.tokenHeld ∨ c.on R.PCU_DEBUG_HOLD_EN ∨ c.on R.PCU_LEASE_STATUS_NO_TOKEN ∨ c.reachedCycle (c.pcu.lostAt + 2000000 * ms) = false then c
    else
      let c := (((c.emergencyAll .noToken).wr R.PCU_LEASE_STATUS_NO_TOKEN 1).assertFault).setReady false
      c.event Ev.noToken none 0 [ms]))

/-- PCU_STANDBY_READY (R534, R539): a restarted unit passes its self-test and copies the mirror, or fails to; one that a debugger held halted has been resumed and reset. A ready unit takes
the token where nobody holds it, as does one that was ready while the debug hold kept it back. -/
def execPcuStandbyReady (unit : Fin 2) (ok : Bool) (gap : BitVec 16) (bad : BitVec 16) (s : State) : Result :=
  .next (s.onChip (fun c =>
    let u := unit.val
    let c : Chip := if c.rd (R.PCU_UNIT_STATE u) = 7 then (c.onPcu (fun x => { x with halted := x.halted.filter (fun y => y != u) })).restartUnit u else c
    let take := fun (c : Chip) => if c.tokenHeld ∨ c.on R.PCU_DEBUG_HOLD_EN then c else c.takeToken u gap.toNat bad.toNat
    if c.rd (R.PCU_UNIT_STATE u) = 3 then take c
    else if c.rd (R.PCU_UNIT_STATE u) ≠ 5 then c
    else if ok = false then c.restartUnit u
    else take ((c.setUnit u 3).event Ev.unitReady none (Unit.pcu u) [u])))

/-- PCU.DEBUG_HOLD (R540): the session that sets EN is kept; clearing it lets the lease run again. -/
def debugHoldHook (c : Chip) (req : Requester) (v : Nat) : WriteHook :=
  let was := c.on R.PCU_DEBUG_HOLD_EN
  let who := c.sessionOf req
  .does (fun c =>
    if bitOf v 31 ∧ was = false then c.onPcu (fun x => { x with holdBy := if who = 0 then none else some (who - 1) })
    else if bitOf v 31 = false ∧ was then c.onPcu (fun x => { x with holdBy := none, leaseUntil := c.cycles + 16000 })
    else c)

/-- DEBUG_HOLD_WRITE: a write of PCU.DEBUG_HOLD (R540). -/
def execDebugHoldWrite (req : Requester) (v : BitVec 32) (s : State) : Result :=
  .next (s.onChip (fun c => c.writeReg req R.PCU_DEBUG_HOLD v.toNat (debugHoldHook c req v.toNat)))

end Sys2Proof.Machine
end

