-- ==== Sys2Proof/Machine/Fencing.lean ====
section
/-! DEFINITION. PART_FENCE: a named unit is fenced by the rule of its kind, as if it had reported an uncorrectable error (R463, R465, R467). -/

namespace Sys2Proof.Machine

/-- A pseudo-channel is retired and reported, though no operation met an error (R384). -/
def Chip.fencePc (c : Chip) (n st q : Nat) : Chip :=
  if c.pcRetired n st q then c else (c.retirePc n st q).report (Unit.pc n st q) (c.tenantsOfQ q) 0 0 0 actRetired

/-- A sub-port is contained and reported (R408). -/
def Chip.fenceSubPort (c : Chip) (r : Nat) : Chip :=
  if c.rd (R.HIO_PORT_STATUS_STATE r) = 3 ∨ c.rd (R.HIO_PORT_STATUS_STATE r) = 4 then c
  else
    let t := if c.on (R.HIO_PORT_TENANT_EN r) then some (c.rd (R.HIO_PORT_TENANT_TENANT r)) else none
    let c := if c.rd (R.HIO_PORT_STATUS_KIND r) = 1 then c.dropCxlLines (r / 4) else c
    (((c.setPort r 3 0 0 0 0).count (R.HIO_PORT_STATUS_DOWNS r)).event Ev.dpc t (Unit.subPort r) []).report (Unit.subPort r) t.toList 0 0 0 actFenced

/-- A comb is lost and fenced (R69, R72). -/
def Chip.fenceComb (c : Chip) (x : Nat) : Chip :=
  if c.rd (R.LSU_COMB_STATE x) = 5 then c
  else
    let c := c.combFails x
    if c.rd (R.LSU_COMB_STATE x) = 5 then c else (c.unlockComb x).combFenced x

/-- A control unit loses the token, if it holds it, as on an uncorrectable error in its memory, and is fenced (R535, R539). -/
def Chip.fencePcu (c : Chip) (u : Nat) : Chip :=
  if c.rd (R.PCU_UNIT_STATE u) = 6 then c
  else
    let c := if c.rd R.PCU_LEASE_STATUS_HOLDER = u then c.loseToken 5 true else c
    let c := (c.onPcu (fun x => { x with halted := x.halted.filter (fun y => y != u) })).setUnit u 6
    (c.event Ev.unitFenced none (Unit.pcu u) [u]).report (Unit.pcu u) [] 0 0 0 actFenced

/-- A unit is fenced by the rule of its kind (R463); none for a kind that has no fence, or a number that names no unit. -/
def Chip.fenceUnit (c : Chip) (u : Nat) : Option Chip :=
  match unitKind u with
  | 1 =>
    let s := fget u 27 23
    let p := fget u 22 17
    let k := fget u 16 12
    if s < 24 ∧ Config.planeKind s p ≠ 0 ∧ k < 24 then
      some (c.fence s p k (5 + Config.partFenceCode u % 5) (bitOf u 10) (bitOf u 11))
    else none
  | 2 =>
    let j := fget u 27 24
    let l := fget u 23 18
    if l = 0x3F then some (c.portDown j (1 + Config.partFenceDown j % 4))
    else if l < 40 then some (c.fencePort j l (bitOf u 17) (5 + Config.partFenceCode u % 5))
    else none
  | 3 => if fget u 24 17 < 136 then some (c.coreFault (fget u 27 25) (fget u 24 17) none) else none
  | 4 => if fget u 24 17 < 136 ∧ fget u 16 13 < 6 then
      let e := fget u 16 13
      some (c.coreFault (fget u 27 25) (fget u 24 17) (some (e, ((c.descs (fget u 27 25) (fget u 24 17) e).head?.map Desc.opc).getD 0)))
    else none
  | 5 => some (c.qpFault (fget u 27 25) (fget u 24 23))
  | 6 => some (c.retirePage (fget u 27 25) (fget u 24 7) 0 0)
  | 7 => some (c.fencePc (fget u 27 25) (fget u 24 24) (fget u 23 18))
  | 8 => if fget u 26 20 < 96 then some (c.fenceHart (fget u 27 27) (fget u 26 20)) else none
  | 9 => some (c.fenceDie (fget u 27 27))
  | 0xC => some (c.fenceSubPort (fget u 27 24))
  | 0xE =>
    let w := fget u 27 26
    if w < 2 then some (c.fenceComb w) else if w = 2 then some ((c.fenceComb 0).fenceComb 1) else none
  | 0xF => some (c.fencePcu (fget u 27 27))
  | _ => none

/-- PART_FENCE (R463). -/
def execPartFence (src : CmdSrc) (idx : BitVec 16) (s : State) : Result :=
  .next (s.partCmd src idx.toNat 0x59 false true (List.range 16) Cmd.partition (fun s x _ => s.onChip (fun c =>
    let u := x.par 8 4
    match (c.setCmd x { x with committed := true }).fenceUnit u with
    | some c => (c.event Ev.partFence none u [u]).endCmd x stOK 0 0
    | none => c.endCmd x csINVALID 0 0)))

end Sys2Proof.Machine
end

