-- ==== Sys2Proof/Machine/Security.lean ====
section
/-! DEFINITION. The security block: nonces, signatures, sessions, lockouts, installer keys (R433 to R437). -/

namespace Sys2Proof.Machine

/-! Outcomes in SEC.AUTH_RESULT. -/
def auNONCE : Nat := 1
def auGRANTED : Nat := 2
def auFAILED : Nat := 3
def auNO_NONCE : Nat := 4
def auLOCKED : Nat := 5
def auNO_SESSION : Nat := 6
def auNO_KEY : Nat := 7
def auDROPPED : Nat := 8
def auINVALID : Nat := 9

/-- SEC.AUTH_RESULT shows an outcome, a session and the row. -/
def Chip.authResult (c : Chip) (status session : Nat) : Chip :=
  ((c.wr R.SEC_AUTH_RESULT_STATUS status).wr R.SEC_AUTH_RESULT_SESSION session).wr R.SEC_AUTH_RESULT_ROW c.row16

/-- Every word of SIG is cleared. -/
def Chip.clearSig (c : Chip) : Chip := c.each (List.range 24) (fun c w => c.setWord (R.SEC_SIG w) 0)

/-- The nonce is used or has expired: its words are zero. -/
def Chip.dropNonce (c : Chip) : Chip := (c.each (List.range 12) (fun c w => c.setWord (R.SEC_NONCE w) 0)).onSec (fun x => { x with nonceUntil := none })

/-- CHALLENGE: a fresh nonce, valid for 60 s, and an empty signature (R435). -/
def Chip.challenge (c : Chip) : Chip :=
  let d := c.drawn
  let c := { c with drawn := d + 1 }
  let c := c.each (List.range 12) (fun c w => c.setWord (R.SEC_NONCE w) (BitVec.ofNat 32 (Config.nonceWord d w)))
  (c.clearSig.onSec (fun x => { x with nonceUntil := some (c.now + 60000000000) })).authResult auNONCE 0

/-- Whether a nonce is valid. -/
def Chip.nonceValid (c : Chip) : Bool :=
  match c.sec.nonceUntil with
  | some t => decide (c.now < t)
  | none => false

/-- The bytes of `n` words of a register array, each little-endian. -/
def Chip.wordBytes (c : Chip) (reg : Nat → Nat) (n : Nat) : List Nat := (List.range n).flatMap (fun w => leBytes 4 (c.word (reg w)).toNat)

/-- The 64-byte message that a signature covers (R435). BIND_ID and LIFETIME are little-endian, as every field of more than one byte. -/
def Chip.authMessage (c : Chip) (role bind id : Nat) : List Nat :=
  c.wordBytes R.SEC_NONCE 12 ++ leBytes 4 (c.word R.SEC_SERIAL_LO).toNat ++ leBytes 4 (c.word R.SEC_SERIAL_HI).toNat ++ [role, bind] ++ leBytes 2 id
    ++ leBytes 2 (c.rd R.SEC_AUTH_LIFE_LIFETIME) ++ [0, 0]

/-- The keys that a role is verified against, in order: installer slots 0 and 1, or the maker key of the booted image. -/
def Chip.authKeys (c : Chip) (role : Nat) : List (List Nat) :=
  if role = 1 then (getKey 0 c.flash.keys).toList ++ (getKey 1 c.flash.keys).toList
  else [Config.makerKey (c.flash.slot (c.rd R.PCU_BOOT_STATUS_SLOT))]

/-- Whether ROLE, BIND and BIND_ID name a role and a requester that a session can bind (R433). -/
def authFieldsGood (role bind id : Nat) : Bool :=
  (role == 1 || role == 2) && (if bind = 0 then decide (id < 256) && decide (id % 128 < 96) else true)

/-- A failed verification is counted; the eighth in 10 minutes locks VERIFY for 10 minutes, which is recorded (R435, R437). -/
def Chip.authFailed (c : Chip) : Chip :=
  let c := (c.onSec (fun x => { x with fails := x.fails.filter (fun t => decide (c.now < t + 600000000000)) ++ [c.now] })).authResult auFAILED 0
  if 8 ≤ c.authFails then (c.onSec (fun x => { x with lockedUntil := some (c.now + 600000000000) })).event Ev.lockout none 0 [c.authFails] else c

/-- A session opens in slot `n` (R433, R437). -/
def Chip.openSession (c : Chip) (n role bind id : Nat) : Chip :=
  let life := c.rdPos R.SEC_AUTH_LIFE_LIFETIME
  let c := ((((c.setWord (R.SEC_SESSION n) 0).wr (R.SEC_SESSION_VALID n) 1).wr (R.SEC_SESSION_ROLE n) role).wr (R.SEC_SESSION_BIND n) bind).wr (R.SEC_SESSION_BIND_ID n) id
  let c := c.onSec (fun x => { x with ends := putKey n (c.now + 1000000000 * life) x.ends })
  (c.event Ev.sessionOpened none 0 [n, role, bind, id]).authResult auGRANTED n

/-- VERIFY (R435): the checks in order; a session of the same requester is replaced. -/
def Chip.verify (c : Chip) (role bind id : Nat) : Chip :=
  if !authFieldsGood role bind id then c.authResult auINVALID 0
  else if c.sec.lockedUntil.isSome then c.authResult auLOCKED 0
  else if !c.nonceValid then c.authResult auNO_NONCE 0
  else
    let msg := c.authMessage role bind id
    let sig := c.wordBytes R.SEC_SIG 24
    let keys := c.authKeys role
    let c := c.dropNonce
    if keys.isEmpty then c.authResult auNO_KEY 0
    else if keys.all (fun k => !Config.signatureOk k msg sig) then c.authFailed
    else match c.sessionFor bind id with
    | some n => (c.closeSession n).openSession n role bind id
    | none => match (List.range 4).find? (fun n => !c.on (R.SEC_SESSION_VALID n)) with
      | some n => c.openSession n role bind id
      | none => c.authResult auNO_SESSION 0

/-- DROP (R433): its own requester or a maker session ends a session; another, or a session that is not open, is an invalid field. -/
def Chip.dropSession (c : Chip) (req : Requester) (n : Nat) : Chip :=
  let own := match sessionKey req with
    | some (b, i) => c.sessionFor b i == some n
    | none => false
  if c.on (R.SEC_SESSION_VALID n) && (own || (c.roleOf req).rank == 2) then (c.endSession n Ev.sessionEnded).authResult auDROPPED n
  else c.authResult auINVALID 0

/-- SEC.AUTH_CTRL: at most one command bit. The management interface cannot open a session (R572). -/
def authHook (req : Requester) (v : Nat) : WriteHook :=
  .does (fun c =>
    let n := popCount 3 (v / 2 ^ 29)
    if n = 0 then c
    else if 1 < n then c.authResult auINVALID 0
    else if bitOf v 31 then c.challenge
    else if bitOf v 29 then c.dropSession req (fget v 12 11)
    else (if req = .mgmt then c.authResult auINVALID 0 else c.verify (fget v 28 27) (fget v 26 25) (fget v 24 13)).clearSig)

/-- SEC.SIG_w keeps the word written, which no read shows (R435). -/
def sigHook (w v : Nat) : WriteHook := .does (fun c => c.setWord (R.SEC_SIG w) (BitVec.ofNat 32 v))

/-- AUTH_CHALLENGE, AUTH_VERIFY, AUTH_DROP: a write of SEC.AUTH_CTRL (R433, R435). -/
def execAuthChallenge (req : Requester) (v : BitVec 32) (s : State) : Result :=
  .next (s.onChip (fun c => c.writeReg req R.SEC_AUTH_CTRL v.toNat (authHook req v.toNat)))
def execAuthVerify (req : Requester) (v : BitVec 32) (s : State) : Result :=
  .next (s.onChip (fun c => c.writeReg req R.SEC_AUTH_CTRL v.toNat (authHook req v.toNat)))
def execAuthDrop (req : Requester) (v : BitVec 32) (s : State) : Result :=
  .next (s.onChip (fun c => c.writeReg req R.SEC_AUTH_CTRL v.toNat (authHook req v.toNat)))

/-- SESSION_EXPIRY (R433). -/
def execSessionExpiry (n : Fin 4) (s : State) : Result :=
  .next (s.onChip (fun c => match getKey n.val c.sec.ends with
    | some t => if c.reached t then c.endSession n.val Ev.sessionExpired else c
    | none => c))

/-- NONCE_EXPIRY (R435). -/
def execNonceExpiry (s : State) : Result :=
  .next (s.onChip (fun c => match c.sec.nonceUntil with
    | some t => if c.reached t then c.dropNonce else c
    | none => c))

/-- LOCKOUT_EXPIRY (R435). -/
def execLockoutExpiry (s : State) : Result :=
  .next (s.onChip (fun c => match c.sec.lockedUntil with
    | some t => if c.reached t then c.onSec (fun x => { x with lockedUntil := none }) else c
    | none => c))

/-- SEC_KEY_SET (R436): a slot takes the 96-byte key at a view address. Without the installer role it is accepted from the admin queue while neither slot holds a key. A key of zeros, which
is no point, would empty a slot: it completes INVALID as every key that is no point. -/
def execSecKeySet (src : CmdSrc) (idx : BitVec 16) (s : State) : Result :=
  .next (s.begin src idx.toNat 0x79 (fun s x =>
    let a := x.par 16 8
    let n := x.par 8 1
    let status := s.chip.viewStatus x.partition a 96
    let role := decide (1 ≤ (s.chip.cmdRole src).rank) || (src == .admin && s.chip.flash.keys.isEmpty)
    if !role then s.onChip (fun c => c.endCmd x csROLE 0 0)
    else if 1 < n then s.onChip (fun c => c.endCmd x csINVALID 0 0)
    else if status ≠ stOK then s.onChip (fun c => c.endCmd x status 0 0)
    else match s.chip.viewObstacle x.partition a 96 false with
    | some o => s.onChip (fun c => (c.probe o true).setCmd x { x with started := false })
    | none =>
      let key := s.viewBytes x.partition a 96
      s.onChip (fun c =>
        if !Config.pointOnCurve key then c.endCmd x csINVALID 0 0
        else (c.onFlash (fun f => { f with keys := putKey n key f.keys })).endCmd x stOK 0 0)))

end Sys2Proof.Machine
end

