-- ==== Sys2Proof/Machine/Boot.lean ====
section
/-! DEFINITION. Cast-on and its twelve steps, the boot ROM and the trial of an image, the warm cast-on, and bind-off (R53, R99, R294, R304, R387, R418, R438, R440, R442 to R447, R489,
R497, R513, R526). -/

namespace Sys2Proof.Machine

/-! What a cast-on clears. -/

/-- Everything that no cast-on keeps is as after reset (R53, R445); T starts again at 0. -/
def Chip.cleared (c : Chip) (warm : Bool) : Chip :=
  { regs := c.regs.filterMap (fun x => (keptWord x.1 x.2).map (fun w => (x.1, w)))
    captured := c.captured, captureLost := c.captureLost, drawn := c.drawn, flash := c.flash
    evr := { c.evr with frozen := c.evr.frozen.map (fun t => t - c.now) }
    pcu := { leaseUntil := 16000, halted := if warm then c.pcu.halted else [] }
    sec := { live := c.sec.live, release := c.sec.release && !warm, booted := warm }
    pwr := { energy := c.pwr.energy }
    thm := { broken := c.thm.broken }
    clk := { fabLost := c.clk.fabLost }
    mems := { sramRetired := c.mems.sramRetired }
    pins := { c.pins with phase := .castOn, pkgReady := false, xspi := if warm then c.pins.xspi else .highZ, released := [], slotOn := [], clockOn := [], present := c.pins.present.map (fun x => (x.1, 0)) } }

/-- The trims and retired points that last for the life of the part (R502). -/
def Chip.takeTrims (c : Chip) : Chip :=
  c.each c.flash.trims (fun c x =>
    if x.1 < 10 then ((c.wr (R.PWR_DIE_TRIM x.1) x.2.1).wr (R.PWR_DIE_MAX_POINT x.1) x.2.2).wr (R.THM_CEIL_CEIL x.1) x.2.2 else c)

/-- Broken sensors stay broken for the power-on period (R522). -/
def Chip.takeBroken (c : Chip) : Chip :=
  c.each c.thm.broken (fun c x => (c.count (R.THM_ZONE_STATE_BROKEN x.1)).count R.THM_STATUS_BROKEN)

/-- A trip record of which only the header was written becomes a trip-record-lost record (R525). -/
def Flash.lostTrips (f : Flash) : Flash :=
  { f with reserve := f.reserve.map (fun r => if r.headerOnly then { r with record := { r.record with code := Ev.tripLost, args := [r.cause, r.zone] }, headerOnly := false } else r) }

/-- A cast-on starts afresh: a full one at step 1, a warm one after step 3 (R444, R445). -/
def Chip.castReset (c : Chip) (warm : Bool) : Chip :=
  let c := c.cleared warm
  let c := if warm then c else c.onFlash Flash.lostTrips
  let c := (((c.setWord R.PCU_CASTON 0).wr R.PCU_CASTON_STEP (if warm then 3 else 0)).wr R.PCU_CASTON_WARM (b2n warm)).wr R.PCU_DEBUG_HOLD_EN 0
  let c := (c.wr R.PCU_LEASE_STATUS_SWITCHES 0).wr R.PCU_LEASE_STATUS_NO_TOKEN 0
  let c := if warm then c else
    (c.wr R.PCU_LEASE_STATUS_HOLDER 3).each [0, 1] (fun c u => if c.rd (R.PCU_UNIT_STATE u) = 6 then c else c.wr (R.PCU_UNIT_STATE u) 0)
  ((c.takeTrims.takeBroken.tripRegs).wr R.CLK_STATUS_REFCLK_OK 1).frameCounts

/-- A cast-on of the machine: memory contents are lost. -/
def State.castReset (s : State) (warm : Bool) : State := { s with mem := [], chip := s.chip.castReset warm }

/-! Failure, trial and recovery (R443, R444). -/

/-- The other slot is named first without TRIAL, and cast-on starts again at step 1 (R443). -/
def Chip.trialFallback (c : Chip) : Chip :=
  let other := 1 - c.rd R.PCU_BOOT_STATUS_SLOT
  let c := ((c.onFlash (fun f => f.writeOrder other false)).wr R.PCU_BOOT_STATUS_TRIAL 0).event Ev.trialFallback none 0 [other]
  (c.holdDies.onSec (fun x => { x with release := false, booted := false })).onPins (fun p => { p with phase := .held, xspi := .highZ })

/-- A step of cast-on fails: FAULT_n, PKG_READY low, the step shown and recorded, every later step held; after a trial boot the older image follows (R443, R444). -/
def Chip.castFail (c : Chip) (n : Nat) : Chip :=
  let c := ((c.setReady false).assertFault.wr R.PCU_CASTON_FAILED n).event Ev.castOnStepFailed none 0 [n]
  if c.on R.PCU_BOOT_STATUS_TRIAL then c.trialFallback else c

/-- The package enters recovery (R443). -/
def Chip.enterRecovery (c : Chip) : Chip := (c.onPins (fun p => { p with phase := .recovery })).event Ev.recoveryEntered none 0 []

/-- A step has ended well. -/
def Chip.castDone (c : Chip) (n : Nat) : Chip := c.wr R.PCU_CASTON_STEP n

/-! The installer tables (R438). -/

/-- The saved words of the registers among `l` are applied. -/
def Chip.applySaved (c : Chip) (l : List Nat) : Chip :=
  if c.sec.tablesBad then c else c.each (c.flash.tables.filter (fun x => l.contains x.1)) (fun c x => c.setWord x.1 x.2)

/-- The tables of the power and thermal blocks and PORT_WAIT; of LANE, ROUTE and the asymmetries; of host I/O. -/
def powerTables : List Nat :=
  [R.PWR_CFG, R.PWR_CFG2, R.PWR_AGE_CFG, R.THM_CFG, R.THM_CFG2, R.THM_COOL_CFG, R.PCU_CASTON_CFG] ++ (List.range 142).map R.THM_ZONE_LIM
def laneTables : List Nat :=
  (List.range 24).map R.LANE_CFG2 ++ [R.ROUTE_NODE, R.ROUTE_DIMS, R.ROUTE_CFG, R.ROUTE_FM] ++ (List.range 16).map R.ROUTE_PORT_MAP ++ (List.range 16).map R.TIME_ASYM
def hioTables : List Nat := (List.range 64).map R.HIO_TXEQ ++ (List.range 2).map R.HIO_CLKOUT

/-! The steps. Each answers the package after its work, and whether it succeeds. -/

/-- Step 3 (R442, R444, R534): units that become ready; the first takes the token, the others stand by, and one that fails its self-test restarts. -/
def Chip.castUnits (c : Chip) (units : List Nat) : Chip × Bool :=
  let ready := (units.eraseDups).filter (fun u => c.rd (R.PCU_UNIT_STATE u) != 6)
  let c := c.each [0, 1] (fun c u =>
    if c.rd (R.PCU_UNIT_STATE u) = 6 then c
    else if ready.contains u then c.setUnit u (if ready.head? = some u then 4 else 3) else c.restartUnit u)
  match ready with
  | [] => (c, false)
  | u :: _ => (((c.wr R.PCU_LEASE_STATUS_HOLDER u).wr R.PCU_MIRROR_VALID 0xFFFF).renewLease.copyDumps, true)

/-- Step 4 (R438, R497): the gauge, the installer tables, every die at the cast-on point. -/
def Chip.castRails (c : Chip) (o : CastOutcome) : Chip × Bool :=
  let c := c.powerGauge o.power.toInt
  let bad := !o.tables && !c.flash.tables.isEmpty
  let c := c.onSec (fun x => { x with tablesBad := bad })
  let c := (if bad then c.event Ev.installSave none 0 [0] else c).applySaved powerTables
  let c := c.each (List.range 10) (fun c d =>
    let p := min (if d < 8 then 2 else 3) (c.rd (R.PWR_DIE_MAX_POINT d))
    (c.wr (R.PWR_DIE_POINT d) p).setRail d (c.pointVolts d p))
  (c, o.ok)

/-- Step 5 (R294, R474, R475): PLLs lock, crossings measure right; T and rows start at 0. It fails where no fabric PLL is left. -/
def Chip.castClocks (c : Chip) (o : CastOutcome) : Chip × Bool :=
  let c := c.applySaved [R.TIME_CFG]
  let fab := [0, 1].filter (fun f => !c.clk.fabLost.contains f)
  let c := (c.wr R.CLK_STATUS_FAB_PLL (fab.headD 0)).wr R.CLK_STATUS_FAB_STANDBY (b2n (fab.length == 2))
  let c := c.each (List.range 10) (fun c d => c.wr (R.CLK_FCHG_NOW_MULT d) (multOf d (c.rd (R.PWR_DIE_POINT d))))
  let c := c.each (List.range 94) (fun c r =>
    let mult := match dieOfRegion r with
      | some d => regionMult r (c.rd (R.CLK_FCHG_NOW_MULT d))
      | none => if r < 90 then 40 else 0
    (((c.wr (R.CLK_REGION_SRC r) 0).wr (R.CLK_REGION_LOCK r) 1).wr (R.CLK_REGION_MON_OK r) 1).wr (R.CLK_REGION_MULT r) mult)
  if o.ok && !fab.isEmpty then (({ c with row := 0, epoch := 0, cyc := 0, rowsRun := true } : Chip).renewLease, true) else (c, false)

/-- Step 6 (R72, R83): both combs start; the first locked becomes active; with none locked the package is in fallback on FB0, or fails without it. -/
def Chip.castCombs (c : Chip) (o : CastOutcome) : Chip × Bool :=
  let c := c.applySaved [R.LSU_CFG]
  let c := (c.wr R.LSU_STATUS_FB0_LIGHT (b2n o.fb0)).wr R.LSU_STATUS_FB1_LIGHT (b2n o.fb1)
  let dark := if c.on R.LSU_CFG_FB_FITTED then (if o.fb0 then [] else [0]) ++ (if o.fb1 then [] else [1]) else []
  let c := c.each dark (fun c n => c.event Ev.fbMissing none (Unit.light 2) [n])
  match o.combs.map (·.val) with
  | [] =>
    let c := c.each [0, 1] Chip.combDown
    if o.fb0 then ((((c.wr R.LSU_STATUS_MODE 5).count R.LSU_SWITCH_COUNT_FALLBACK).event Ev.fallbackEntry none (Unit.light 2) [0]).circuitsDark, true) else (c, false)
  | a :: rest =>
    let b := 1 - a
    let c := ((c.setComb a 3 100).wr (R.LSU_COMB_SPACING_LOCK a) 1).wr (R.LSU_COMB_OFFSET_LOCK a) 0
    let c := if rest.contains b then (c.setComb b 1 30).wr (R.LSU_COMB_SPACING_LOCK b) 1 else c.setComb b 4 0
    (c.wr R.LSU_STATUS_MODE (modeOf a), true)

/-- What the sweep of a ring finds where no command says so: both twins with their resonance and at least 6 dB. Free values (R88, R99). -/
def freeSweep (x : RingKey) (d : Nat) : RingSweep :=
  let twin := fun (i : Nat) => (⟨true, BitVec.ofNat 16 (600 + Config.measured (ringState x + i) d % 1024), BitVec.ofNat 16 (Config.measured (ringState x + i + 2) d)⟩ : TwinSweep)
  ⟨twin 0, twin 4, 0, 0⟩

/-- A ring as the cast-on swatch leaves it: the twin that R88 selects, at its code, the loop locked; receive slots that never get light, those of ports, which wait for the partner's
light, and the rings of branch H in fallback at their factory position in Hold (R76, R98, R99, R214). A ring of which no twin passes fails. The offsets stay
0: R105 gives them to a lane swatch, and of the cast-on swatch the spec does not say (DESIGN CHOICE, log entry 156). -/
def Chip.castRing (c : Chip) (sweeps : List (RingKey × RingSweep)) (x : RingKey) : Chip :=
  if (x.isPort && x.d == 1) || unlitSlot x || (c.fallbackMode && x.branchH) then (c.wr (ringHeater x) (clampCode 0 (c.factoryPos x))).wr (ringLoop x) loHOLD
  else
    let given := getKey x sweeps
    match c.selectTwin x (given.getD (freeSweep x c.tns.castDraw)) with
    | none => c.wr (ringLoop x) loOFF
    | some (t, code) =>
      let c := ((c.wr (ringTwin x) t).wr (ringHeater x) code).wr (ringLoop x) loLOCKED
      match given with
      | some m => { c with tns := { c.tns with slopes := putKey x m.slope.toNat c.tns.slopes } }
      | none => c

/-- The rings of a site: those of its planes, and at an edge site those of its ports. -/
def siteRings (s : Nat) : List RingKey :=
  (List.range (Config.planes s)).flatMap (fun p => [0, 1].flatMap (fun d => (List.range 24).map (fun k => (⟨s, p, d, k⟩ : RingKey))))
    ++ (if Config.siteKind s = .edge then (List.range 4).flatMap (fun j => [0, 1].flatMap (fun d => (List.range 40).map (fun k => (⟨s, 38 + j, d, k⟩ : RingKey)))) else [])

/-- A port lane whose ring fails the cast-on swatch is fenced before the port trains; training spares it (R53, R214). -/
def Chip.castPortRing (c : Chip) (x : RingKey) : Chip :=
  let inc := x.d == 1
  let spare := decide (36 ≤ x.k) && decide (x.k < 39)
  let c := (c.setPortLane x.port x.k inc lsFENCED).wr (R.EDGE_LANE_STATE_REASON x.port x.k) 7
  (if spare then c.setSpare x.port inc (x.k - 36) 3 0x3F else c).report (Unit.portLane x.port x.k inc) [] 0 0 7 actFenced

/-- Every lane that carries light on a fixed or switched plane, by its transmit ring. -/
def castLanes : List (Nat × Nat × Nat) :=
  (List.range 24).flatMap (fun s => (List.range (Config.fixedPlanes s + Config.switchedPlanes s)).flatMap (fun p => (List.range 24).map (fun k => (s, p, k))))

/-- Step 7 (R99, R112): the gauge checks, the swatch of every ring; rings that fail are fenced. Then step 8 begins: every lane trains (R135). -/
def Chip.castSwatch (c : Chip) (o : CastOutcome) : Chip :=
  let c := c.each (List.range 24) (fun c s => c.gaugeCheck s (o.gauges.getD s 0).toInt)
  let c := (c.refGauge o.failed.toNat).gaugeDone (List.range 24)
  let (d, c) := c.draw
  let c := { c with tns := { c.tns with castDraw := d } }
  let key := fun (x : Fin 24 × Fin 42 × Bool × Fin 40) => (⟨x.1.val, x.2.1.val, b2n x.2.2.1, x.2.2.2.val⟩ : RingKey)
  let sweeps := o.sweeps.map (fun x => (key x.1, x.2))
  let c := c.each (List.range 24) (fun c s => c.each (siteRings s) (fun c x => c.castRing sweeps x))
  let failed := o.rings.map key ++ (sweeps.map (·.1)).filter (fun x => c.rd (ringLoop x) == loOFF)
  let c := c.each (List.range 24) (fun c s => c.each (List.range (groupsOf s)) (fun c g =>
    (c.groupDone s g).setDark s g (c.fallbackMode && !portGroup s g && branchH s g)))
  let lit := castLanes.filter (fun l => !c.laneDark l.1 l.2.1 l.2.2)
  let c := (c.applySaved laneTables).onLanes (fun y => { y with started := true, trainRow := lit.map (fun l => (l, c.row)) })
  let c := c.each castLanes (fun c l => c.setLane l.1 l.2.1 l.2.2 lsHOLD)
  let c := c.each lit (fun c l => c.setLane l.1 l.2.1 l.2.2 lsTRAIN)
  c.each failed (fun c x => if x.isPort then (c.fenceLoop x).castPortRing x else c.ringFault x 7)

/-- Step 8 (R135): lanes that have not trained are fenced; the others are in service. Lanes that have lost their light since step 7, with a comb, hold (R84). -/
def Chip.castTrain (c : Chip) (o : CastOutcome) : Chip :=
  let c := c.each (castLanes.filter (fun l => c.laneState l.1 l.2.1 l.2.2 == lsTRAIN && c.laneDark l.1 l.2.1 l.2.2)) (fun c l => c.setLane l.1 l.2.1 l.2.2 lsHOLD)
  let c := c.each (o.lanes.filter (fun l => c.laneState l.site.val l.plane.val l.k.val == lsTRAIN)) (fun c l => c.fence l.site.val l.plane.val l.k.val 9 false true)
  c.each (castLanes.filter (fun l => c.laneState l.1 l.2.1 l.2.2 == lsTRAIN)) Chip.enterService

/-- Step 9 (R304, R387): memory trains, tests itself and is zero; pseudo-channels that fail are retired; cores that fail their self-test are left out, and every cluster maps its cores. -/
def Chip.castMemory (c : Chip) (o : CastOutcome) : Chip × Bool :=
  let c := c.each ((List.range 8).filter (fun n => c.rd (R.MEM_STATUS_STATE n) != 4)) (fun c n => c.wr (R.MEM_STATUS_STATE n) 3)
  let c := c.each o.channels (fun c x => c.fencePc x.1.val x.2.1.val x.2.2.val)
  let c := c.each o.cores (fun c x =>
    if c.rd (R.CMP_CORE_STATE_STATE x.1.val x.2.val) = 5 then c
    else ((((c.wr (R.CMP_CORE_STATE_STATE x.1.val x.2.val) 5).wr (R.CMP_CORE_STATE_LOGICAL x.1.val x.2.val) 0x1F).wr
      ⟨R.CMP_CL_STATUS x.1.val (x.2.val / 17), x.2.val % 17, x.2.val % 17⟩ 1).event Ev.coreFence none (Unit.core x.1.val x.2.val) []).report (Unit.core x.1.val x.2.val) [] 0 0 0 actFenced)
  let c := c.each (List.range 8) (fun c d => c.each (List.range 8) (fun c cl => c.mapCluster d cl))
  let c := c.each (List.range 8) (fun c d => c.each (List.range 4) (fun c n => if c.rd (R.CMP_QP_STATUS_STATE d n) = 4 then c else c.wr (R.CMP_QP_STATUS_STATE d n) 1))
  let c := c.frameCounts
  (c, decide (c.rd R.PART_FRAMES_LOST_FRAMES < c.frameCount))

/-- The host partition of cast-on step 10 (R418): as many of the pages of the host table as there are frames. Its frames are already zero. -/
def State.castHost (s : State) : State :=
  let c := s.chip
  let t := if c.sec.tablesBad then {} else c.flash.host
  let frames := c.freeFrames.take t.pages
  let r : Creation := { creation (List.replicate 64 0) with pages := frames.length, share := t.share }
  let s := s.createPart 0 r frames (t.sram.filter (fun p => decide (p < 4096))) 0
  s.onChip (fun c => (c.onMems (fun m => { m with zeroing := [] })).setPartState 0 psRUNNING)

/-- A processor die starts its boot loader: every hart not fenced runs as the host's (R400, R418, R442). -/
def Chip.startDie (c : Chip) (d : Nat) : Chip :=
  let harts := (List.range 96).filter (fun k => c.rd (R.CPU_CORE_STATE_STATE d k) != 4)
  let c := c.each harts (fun c k => ((c.wr (R.CPU_CORE_STATE_STATE d k) 1).wr (R.CPU_CORE_STATE_TENANT_EN d k) 1).wr (R.CPU_CORE_STATE_TENANT d k) 0)
  (c.wr (R.CPU_DIE_STATUS_STATE d) 1).wr (R.CPU_DIE_STATUS_RUNNING d) harts.length

/-- Step 10 (R411, R412, R418, R442): the tables of host I/O, the host partition, the processor dies whose boot loader starts. It fails when neither does. -/
def State.castProcessors (s : State) (o : CastOutcome) : State × Bool :=
  let s := s.onChip (fun c =>
    let c := c.applySaved hioTables
    c.each ([0, 1].filter (fun x => c.on (R.HIO_CLKOUT_EN x))) (fun c x =>
      let v := (c.word (R.HIO_CLKOUT x)).toNat
      (c.onHio (fun y => { y with modulation := putKey x (clkDepth v, clkRate v) y.modulation })).onPins (fun p => { p with clockOn := putKey x c.now p.clockOn })))
  let s := s.castHost
  let dies := [0, 1].filter (fun d => !(o.dies.map (·.val)).contains d && s.chip.rd (R.CPU_DIE_STATUS_STATE d) != 3)
  (s.onChip (fun c => (c.each dies Chip.startDie).onSec (fun x => { x with portsAt := c.now })), !dies.isEmpty)

/-- Whether cast-on step 11 has ended at port `j`: it is not enabled, is Up or held (R444); once PORT_WAIT has passed, also where it has found no light to train with. -/
def Chip.portSettled (c : Chip) (timeUp : Bool) (j : Nat) : Bool :=
  !c.on (R.EDGE_CFG2_EN j) || c.rd (R.EDGE_STATUS_STATE j) == 2 || c.rd (R.EDGE_STATUS_STATE j) == 4 || (timeUp && c.rd (R.EDGE_STATUS_STATE j) != 1)

/-- Step 11 ends: the time parent is chosen (R299, R444). -/
def Chip.portsDone (c : Chip) : Chip := c.timeCastOn.castDone 11

/-- Step 12 (R443, R444, R513, R564, R565): PKG_READY. TRIAL is cleared; the dies run; a brake that was held back acts. -/
def Chip.castReady (c : Chip) (ms : Nat) : Chip :=
  let c := if c.on R.PCU_BOOT_STATUS_TRIAL then (c.onFlash (fun f => f.writeOrder f.order.first false)).wr R.PCU_BOOT_STATUS_TRIAL 0 else c
  let c := (((c.onPins (fun p => { p with phase := .running, faultN := false })).setReady true).castDone 12).wr R.PCU_CASTON_MS ms
  let c := c.event Ev.castOn none 0 [ms, c.rd R.PCU_CASTON_WARM]
  let c := c.each ((List.range 16).filter (fun j => c.on (R.EDGE_CFG2_EN j) && c.rd (R.EDGE_STATUS_STATE j) == 0)) Chip.portNotice
  let c := c.each ([0, 1].filter (fun d => c.rd (R.CPU_DIE_STATUS_STATE d) == 1)) (fun c d => c.wr (R.CPU_DIE_STATUS_STATE d) 2)
  if c.pins.brakeN then c.brakeOn.onPwr (fun x => { x with holdLaunch := true }) else c

/-- The work of one step from 2 to 12; none where the step has not come to its end. -/
def State.castStep (s : State) (n : Nat) (o : CastOutcome) : Option (State × Bool) :=
  let put := fun (r : Chip × Bool) => some ({ s with chip := r.1 }, r.2)
  let c := s.chip
  match n with
  | 2 =>
    let c := if o.ok && c.sec.release then c.onPins (fun p => { p with faultN := false }) else c
    put (if o.ok then c.onPins (fun p => { p with xspi := .sfdp }) else c, o.ok)
  | 3 => if c.sec.booted then put (c.castUnits (o.units.map (·.val))) else none
  | 4 => put (c.castRails o)
  | 5 => put (c.castClocks o)
  | 6 => put (c.castCombs o)
  | 7 => put (c.castSwatch o, true)
  | 8 => put (c.castTrain o, true)
  | 9 => put (c.castMemory o)
  | 10 => some (s.castProcessors o)
  | 11 => if (List.range 16).all (c.portSettled false) then put (c.timeCastOn, true) else none
  | 12 => if c.time.step.isNone then put (c.castReady o.ms.toNat, true) else none
  | _ => none

/-- Whether the step after the last completed one is `n` and may run: nothing failed, and from step 4 on a control unit holds the token. -/
def Chip.mayCast (c : Chip) (n : Nat) : Bool :=
  c.pins.phase == .castOn && c.rd R.PCU_CASTON_FAILED == 0 && c.rd R.PCU_CASTON_STEP + 1 == n && (decide (n < 4) || c.tokenHeld)

/-- A full cast-on begins: step 1 advances the power-cycle count (R444, R544). -/
def State.castBegin (s : State) : State :=
  (s.castReset false).onChip (fun c =>
    let n := min 0xFFFFFFFF (c.rd R.EVR_POWER_CYCLES_COUNT + 1)
    (((c.wr R.EVR_POWER_CYCLES_COUNT n).onFlash (fun f => { f with cycles := n })).wr R.PCU_BOOT_STATUS_TRIAL 0).castDone 1)

/-- CAST_ON (R444): one step of cast-on ends, with what the physical world made of it. Step 1 waits for PWR_GOOD, VIO_1V8, PKG_RESET_n high and a REFCLK that has been stable for 1 ms (`ok`). -/
def execCastOn (step : Fin 13) (o : CastOutcome) (s : State) : Result :=
  .next (
    let c := s.chip
    let n := step.val
    if n = 1 then (if c.pins.phase = .held ∧ c.pins.pwrGood ∧ c.pins.vio ∧ !c.pins.resetN ∧ o.ok then s.castBegin else s)
    else if c.mayCast n = false then s
    else match s.castStep n o with
    | none => s
    | some (s, true) => s.onChip (fun c => c.castDone n)
    | some (s, false) => s.onChip (fun c =>
      let c := c.castFail n
      if n = 3 ∧ c.pins.phase = .castOn then c.enterRecovery else c))

/-- PORT_WAIT_TIMEOUT (R444): ports without light have waited PORT_WAIT seconds, at most 53; step 11 ends once every other enabled port is Up or held. -/
def execPortWaitTimeout (s : State) : Result :=
  .next (s.onChip (fun c =>
    let ns := 1000000000 * min 53 (c.rd R.PCU_CASTON_CFG_PORT_WAIT)
    if c.mayCast 11 && c.reached (c.sec.portsAt + ns) && (List.range 16).all (c.portSettled true) then c.portsDone else c))

/-! The boot ROM (R440, R442, R443). -/

/-- What the boot ROM records of a slot that it has checked. -/
def Chip.slotChecked (c : Chip) (n : Nat) : Chip :=
  let r := c.flash.slotResult n
  let c := c.wr (if n = 0 then R.PCU_BOOT_STATUS_RESULT_A else R.PCU_BOOT_STATUS_RESULT_B) r
  if r = 0 then c else c.event Ev.slotRejected none 0 [n, r]

/-- The boot ROM loads the firmware of a slot and starts both units (R442). -/
def Chip.bootSlot (c : Chip) (n : Nat) (trial : Bool) : Chip :=
  let c := ((c.wr R.PCU_BOOT_STATUS_SLOT n).wr R.PCU_BOOT_STATUS_SVN (slotSvn (c.flash.slot n))).wr R.PCU_BOOT_STATUS_TRIAL (b2n trial)
  let c := (c.setWord R.PCU_FW_VERSION (BitVec.ofNat 32 (slotVersion (c.flash.slot n)))).onSec (fun x => { x with booted := true })
  c.each [0, 1] (fun c u => if c.rd (R.PCU_UNIT_STATE u) = 6 then c else c.setUnit u 1)

/-- BOOT_ROM_START (R442, R443, R575): the SFDP has been read and the flash runs in 8D-8D-8D; the first slot of the boot order is checked, then the other where it is not valid; with neither valid the package enters recovery. TRIAL holds for the slot that
the order names first. -/
def execBootRomStart (s : State) : Result :=
  .next (s.onChip (fun c =>
    if c.mayCast 3 = false ∨ c.sec.booted then c
    else
      let c := c.onPins (fun p => { p with xspi := .octal })
      let o := c.flash.order
      let a := o.first % 2
      let c := ((c.wr R.PCU_BOOT_STATUS_RESULT_A 0xF).wr R.PCU_BOOT_STATUS_RESULT_B 0xF).wr R.PCU_BOOT_STATUS_FUSED c.flash.fused
      let c := c.slotChecked a
      if c.flash.slotResult a = 0 then c.bootSlot a o.trial
      else
        let c := c.slotChecked (1 - a)
        if c.flash.slotResult (1 - a) = 0 then c.bootSlot (1 - a) false
        else (c.wr R.PCU_BOOT_STATUS_TRIAL 0).castFail 3 |>.enterRecovery))

/-- TRIAL_WATCHDOG (R443): a cast-on that booted a slot with TRIAL has not reached PKG_READY 60 s after PWR_GOOD. -/
def execTrialWatchdog (s : State) : Result :=
  .next (s.onChip (fun c => if c.pins.phase = .castOn ∧ c.on R.PCU_BOOT_STATUS_TRIAL then c.trialFallback else c))

/-- WARM_CAST_ON (R445, R489): REFCLK has been present for 1 ms. Rails are lowered and steps 4 to 12 run; before a boot, a full cast-on starts at step 1. -/
def execWarmCastOn (s : State) : Result :=
  .next (
    if s.chip.pins.phase ≠ .safe ∨ s.chip.clk.absent then s
    else if s.chip.sec.booted then s.castReset true
    else s.onChip (fun c => c.onPins (fun p => { p with phase := .held })))

/-! Bind-off (R440, R446, R447). -/

/-- The notice to the fabric manager with which bind-off begins (R446); its subtype and DATA are free values. -/
def Chip.bindNotice (c : Chip) : Chip :=
  let (n, c) := c.draw
  c.notice (Config.bindNotice n 64 % 256) ((List.range 64).map (fun i => Config.bindNotice n i % 256))

/-- A bind-off begins with its commit. While a FW_STAGE runs, the command waits (R449). -/
def Chip.bindStart (c : Chip) (x : Cmd) (reason grace wait : Nat) (restart : Bool) : Chip :=
  if c.cmd.binding.isSome then c.endCmd x csBUSY 0 0
  else if c.staging then c.setCmd x { x with started := false }
  else
    let b : BindOff := { since := c.now, grace := grace, wait := wait, reason := reason, phase := 0, restart := restart }
    ((c.onCmd (fun y => { y with binding := some b })).endCmd x stOK 0 0).bindNotice

/-- BIND_OFF (R446). -/
def execBindOff (src : CmdSrc) (idx : BitVec 16) (s : State) : Result :=
  .next (s.begin src idx.toNat 0x80 (fun s x => s.onChip (fun c => c.bindStart x 1 (x.par 8 2) (x.par 10 2) false)))

/-- PKG_RESET, the command (R447). -/
def execPkgReset (src : CmdSrc) (idx : BitVec 16) (s : State) : Result :=
  .next (s.begin src idx.toNat 0x81 (fun s x => s.onChip (fun c => c.bindStart x 2 (x.par 8 2) (x.par 10 2) true)))

/-- FW_ACTIVATE (R440): BUSY while a partition other than 0 is enabled, unless FORCE is set. -/
def execFwActivate (src : CmdSrc) (idx : BitVec 16) (s : State) : Result :=
  .next (s.begin src idx.toNat 0x7E (fun s x => s.onChip (fun c =>
    if bitOf (x.par 8 1) 0 = false ∧ (List.range 16).any (fun t => t != 0 && c.tenantOn t) = true then c.endCmd x csBUSY 0 0
    else
      let d := c.bindStart x 3 0 0 true
      if d.cmd.binding.isSome ∧ c.cmd.binding.isNone then d.event Ev.fwActivate none 0 [b2n (bitOf (x.par 8 1) 0)] else d)))

/-- Partitions other than 0 whose jobs have not ended: running with a command in their queues that has not ended, or a block. -/
def Chip.busyParts (c : Chip) : List Nat :=
  (List.range 16).filter (fun t => t != 0 && c.partState t == psRUNNING && (c.comp.blocks.any (fun b => b.tenant == t)
    || c.cmd.cmds.any (fun x => x.result.isNone && (match x.src with
      | .queue u _ => u.val == t
      | _ => false))))

/-- Every hart not fenced of a die that runs. -/
def Chip.runningHarts (c : Chip) : List (Nat × Nat) :=
  [0, 1].flatMap (fun d => ((List.range 96).filter (fun k => [1, 2].contains (c.rd (R.CPU_CORE_STATE_STATE d k)))).map (fun k => (d, k)))

/-- Every hart that can take an interrupt: not off, held or fenced. -/
def Chip.liveHarts (c : Chip) : List (Nat × Nat) :=
  [0, 1].flatMap (fun d => ((List.range 96).filter (fun k => [1, 2, 3].contains (c.rd (R.CPU_CORE_STATE_STATE d k)))).map (fun k => (d, k)))

/-- BIND_OFF_GRACE_EXPIRY (R246, R446): at GRACE, or when no job is left, partitions with jobs are reset, every Up port departs, and every hart gets a machine external interrupt. -/
def execBindOffGraceExpiry (s : State) : Result :=
  .next (s.onChip (fun c => match c.cmd.binding with
    | none => c
    | some b =>
      if b.phase ≠ 0 ∨ (c.reached (b.since + 1000000000 * b.grace) = false ∧ c.busyParts.isEmpty = false) then c
      else
        let c := c.each c.busyParts (fun c t => (c.resetPart t none).1)
        let c := c.each ((List.range 16).filter c.portUp) (fun c j => c.depart j b.reason false)
        let c := c.onHio (fun x => { x with meip := c.liveHarts })
        c.onCmd (fun y => { y with binding := some { b with phase := 1, since := c.now } })))

/-- The end of bind-off (R446, R544, R564): harts held, rails lowered, combs off, recorded, PKG_READY low; the package rests, or a full cast-on follows.
The cast-on of FW_ACTIVATE (reason 3) follows the lowering of the rails, before the bind-off is recorded (R440). -/
def Chip.bindEnd (c : Chip) (b : BindOff) : Chip :=
  let c := c.holdDies
  let c := c.each (List.range 10) (fun c d => c.wr (R.PWR_RAIL_SET_MV d) 0)
  let c := c.each (List.range 16) (fun c r => if c.rd (R.HIO_PORT_STATUS_STATE r) = 4 then c else c.setPort r 0 0 0 0 0)
  let c := c.each ((List.range 16).filter c.portUp) (fun c j => c.portDown j 6)
  let c := (c.each [0, 1] (fun c x => c.setComb x 0 0)).wr R.LSU_STATUS_MODE 0
  let c := if b.reason = 3 then c else c.saveSecs.event Ev.bindOff none 0 [b.reason]
  let c := (c.setReady false).onPins (fun p => { p with phase := if b.restart then .held else .rest, released := [] })
  let c := c.onHio (fun x => { x with meip := [] })
  ({ c with rowsRun := false } : Chip).onSec (fun x => { x with release := false, booted := x.booted && !b.restart })

/-- BIND_OFF_HOST_WAIT_EXPIRY (R446): HOST_WAIT has passed and the ports are dark, or no hart runs any more. -/
def execBindOffHostWaitExpiry (s : State) : Result :=
  .next (s.onChip (fun c => match c.cmd.binding with
    | none => c
    | some b =>
      if b.phase ≠ 1 ∨ (c.reached (b.since + 1000000000 * b.wait) = false ∧ c.runningHarts.isEmpty = false) ∨ c.reached (b.since + 66 * 1024) = false then c
      else c.bindEnd b))

end Sys2Proof.Machine
end

