-- ==== Sys2Proof/Machine/Ports.lean ====
section
/-! DEFINITION. The commands of the edge ports: light, training, going down and up, the partner's records and messages, departures, pattern runs
and injections of port lanes; and the failure of a lock-in engine (R97, R208 to R224, R244 to R246). -/

namespace Sys2Proof.Machine

/-- The loops of a port's lanes hold, or resume (EDGE.LANE_COH.HOLD, R209). -/
def Chip.holdLoops (c : Chip) (j : Nat) (hold : Bool) : Chip := c.each (List.range 40) (fun c l => c.wr (R.EDGE_LANE_COH_HOLD j l) (b2n hold))

/-- The light measured at a port's inputs, in 0.01 dBm (EDGE.LIGHT). -/
def Chip.portLight (c : Chip) (j d l : Nat) : Chip := (c.wr (R.EDGE_LIGHT_DATA_IN j) d).wr (R.EDGE_LIGHT_LO_IN j) l

/-- PORT_LIGHT_DROP (R209): the power at data in or LO in lies more than 6 dB low. -/
def execPortLightDrop (j : Fin 16) (dataIn loIn : BitVec 16) (s : State) : Result :=
  .next (s.onChip (fun c =>
    let c := c.portLight j.val dataIn.toNat loIn.toNat
    if c.portUp j.val ∧ getKey j.val c.edge.lightLost = none then
      (c.holdLoops j.val true).onEdge (fun e => { e with lightLost := putKey j.val c.cycles e.lightLost })
    else c))

/-- PORT_LIGHT_RETURN (R209): within 1.2 µs the held loops resume; later the port is down under code 0x1. -/
def execPortLightReturn (j : Fin 16) (dataIn loIn : BitVec 16) (s : State) : Result :=
  .next (s.onChip (fun c =>
    let c := c.portLight j.val dataIn.toNat loIn.toNat
    match getKey j.val c.edge.lightLost with
    | none => c
    | some t =>
      let late := decide (2400 ≤ c.cycles - t)
      let c := if late then c.portDown j.val 1 else c
      (c.holdLoops j.val false).onEdge (fun e => { e with lightLost := delKey j.val e.lightLost
                                                          lightBack := if late then e.lightBack else putKey j.val c.cycles e.lightBack })))

/-- Whether the condition of a down code holds by the package's own state (R219). Code 0x5 comes by DEPARTURE_ARRIVAL, 0x6 by a departure. -/
def Chip.downHolds (c : Chip) (j code : Nat) : Bool :=
  if code = 1 then (match getKey j c.edge.lightLost with
    | some t => decide (2400 ≤ c.cycles - t)
    | none => false)
  else if code = 3 then decide (c.lanesIn j true < c.minLanes j) || decide (c.lanesIn j false < c.minLanes j)
  else if code = 6 then c.edge.departing.any (fun d => d.port == j)
  else if code = 7 then c.inFallback
  else if code = 2 then c.trainsSeen j
  else if code = 4 then c.misalignedMany j
  else code == 0xB && c.edge.engineFailed.contains j

/-- PORT_DOWN (R219, R220). -/
def execPortDown (j : Fin 16) (code : Fin 16) (s : State) : Result :=
  .next (s.onChip (fun c => if c.downHolds j.val code.val then c.portDown j.val code.val else c))

/-- The port that a PORT_STATE of the partner is for, by the partner's node and port: one that waits for it, or one that is Up still, whose own down is to come (R220, R244). -/
def Chip.recordPort (c : Chip) (st : Stitch) : Option Nat :=
  let mine := fun (j : Nat) => c.partnerNode j == leField st.data 0 2 % 4096 && c.rd (R.EDGE_PARTNER_PORT j) == st.data.getD 2 0
  ((List.range 16).find? (fun j => mine j && (getKey j c.edge.waiting).isSome)) <|> ((List.range 16).find? (fun j => mine j && c.portUp j))

/-- The partner's PORT_STATE (R220, R244): a part that comes before this end has declared the port down is kept for it. -/
def Chip.portStateIn (c : Chip) (st : Stitch) : Chip :=
  match c.recordPort st with
  | none => c
  | some j => (c.onEdge (fun e => { e with record := putKey (j, st.opf % 2) (padTo 64 st.data) e.record })).recordIfBoth j

/-- PORT_STATE_ARRIVAL (R220). -/
def execPortStateArrival (st : Stitch) (s : State) : Result := .next (s.onChip (fun c => c.portStateIn st))

/-- RECORD_WAIT_TIMEOUT (R220). -/
def execRecordWaitTimeout (j : Fin 16) (s : State) : Result :=
  .next (s.onChip (fun c => match getKey j.val c.edge.waiting with
    | some row => if row + c.rdPos (R.EDGE_CFG2_RECORD_WAIT j.val) ≤ c.row then c.recordLost j.val else c
    | none => c))

/-- Whether a port may train (R76, R214, R221, R225, R579): from cast-on step 11, enabled, not held, a plug seated in its receptacle, with light of its own to send (in fallback that of FB1),
its node number good. -/
def Chip.mayTrain (c : Chip) (j : Nat) : Bool :=
  let st := c.rd (R.EDGE_STATUS_STATE j)
  c.on (R.EDGE_CFG2_EN j) && (st == 0 || st == 3) && !c.nodeBad && !c.edge.engineFailed.contains j
    && decide (10 ≤ c.rd R.PCU_CASTON_STEP) && c.pins.plugs.contains (j / 4)
    && ([1, 2, 3].contains (c.rd R.LSU_STATUS_MODE) || (c.rd R.LSU_STATUS_MODE == 5 && c.on R.LSU_STATUS_FB1_LIGHT))

/-- Training starts: lanes that are not fenced send TRAIN frames, the receive rings search, and transmit rings that held without light with them (R92, R214); the loops run (R209), and markers and
TRAIN frames are counted afresh. -/
def Chip.startTraining (c : Chip) (j : Nat) : Chip :=
  let c := c.each (List.range 40) (fun c l =>
    let put := fun (c : Chip) (inc : Bool) => if c.portLane j l inc = lsFENCED then c else c.setPortLane j l inc lsTRAIN
    put (put c true) false)
  let c := c.each (List.range 40) (fun c l => c.setRx (24 + j, 0, l) { c.linkRx (24 + j, 0, l) with goodMarkers := 0, goodTrain := 0, badMarkers := 0 })
  let rings := (groupRings (18 + j / 4) (38 + j % 4)).filter (fun x => c.rd (ringLoop x) != loFENCED && (x.d == 1 || c.rd (ringLoop x) == loHOLD))
  let c := ((c.beginSearch rings).setDark (18 + j / 4) (38 + j % 4) false).holdLoops j false
  (c.wr (R.EDGE_STATUS_STATE j) 1).onEdge (fun e => { e with training := putKey j c.cycles e.training, dark := e.dark.filter (fun d => d != j),
                                                              lightLost := delKey j e.lightLost, inRow := e.inRow.filter (fun x => x.1.1 != j) })

/-- PORT_TRAIN_START (R214): light is present on both inputs of a port. -/
def execPortTrainStart (j : Fin 16) (dataIn loIn : BitVec 16) (s : State) : Result :=
  .next (s.onChip (fun c =>
    let c := c.portLight j.val dataIn.toNat loIn.toNat
    if c.mayTrain j.val then (c.startTraining j.val).onEdge (fun e => { e with restarts := delKey j.val e.restarts }) else c))

/-- Training rebuilds the sparing of one direction from its fences (R214, R224): lanes that are not fenced are Up, idle spares Standby, and
fenced lanes take the lowest free spares; a lane 39 with none takes a data lane, which stays out of the data lanes (R213). -/
def Chip.sparesAtTraining (c : Chip) (j : Nat) (inc : Bool) : Chip :=
  let c := c.each (List.range 3) (fun c n =>
    let bad := c.portLane j (36 + n) inc == lsFENCED || c.rd (spareStateRef j inc n) == 3
    (c.setSpare j inc n (if bad then 3 else 0) 0x3F).setPortLane j (36 + n) inc (if bad then lsFENCED else lsSTANDBY))
  let c := c.each ((List.range 36) ++ [39]) (fun c l =>
    let c := c.wr (portOnRef j l inc) l
    if c.portLane j l inc ≠ lsFENCED then c.setPortLane j l inc lsUP
    else match (c.freeSpares j inc).head? with
      | some n => (((c.setSpare j inc n 1 l).wr (portOnRef j l inc) (36 + n)).setPortLane j (36 + n) inc lsUP).setPortLane j l inc lsUP
      | none => c)
  let took := (c.edge.ctrlOn.filter (fun x => x.1 == j && x.2.1 == inc)).map (·.2.2)
  let c := c.each took (fun c d => c.setPortLane j d inc lsOFF)
  if c.portLane j 39 inc = lsFENCED then
    match (took.find? (fun d => c.rd (R.EDGE_LANE_STATE_REASON j d) == 0)) <|> c.controlLane j inc with
    | some d =>
      let c := if took.contains d then c else c.onEdge (fun e => { e with ctrlOn := e.ctrlOn ++ [(j, inc, d)] })
      ((c.setPortLane j d inc lsOFF).wr (portOnRef j 39 inc) d).setPortLane j 39 inc lsUP
    | none => c
  else c

/-- The links of a port start afresh (R129, R235): sequences and counts from zero. The rows of the incoming streams stay as training's markers established them (R206, R212). -/
def Chip.freshLinks (c : Chip) (j : Nat) : Chip :=
  let c := c.onLanes (fun y => { y with tx := y.tx.filter (fun x => x.1.1 != 24 + j), rx := y.rx.filter (fun x => x.1.1 != 24 + j) })
  c.onEdge (fun e => { e with
    sent := e.sent.filter (fun x => x.1.1 != j), freed := e.freed.filter (fun x => x.1.1 != j), partnerFreed := e.partnerFreed.filter (fun x => x.1.1 != j)
    record := e.record.filter (fun x => x.1.1 != j), training := delKey j e.training, restarts := delKey j e.restarts, lightBack := delKey j e.lightBack })

/-- A port that has trained is Up, or held down for its partner or its protocol level (R214, R228, R240, R245, R247). `bad` are the lanes that
disagreed, with their direction, as either end found and the two told each other on lane 39. A reserved-lane assignment stands, and holds for runs once the partner has the matching
one: it is known of the partner that was there before, of another it takes a new agreement (R197, R224). -/
def Chip.portComesUp (c : Chip) (j node site port maxLevel minLevel : Nat) (bad : List (Nat × Bool)) : Chip :=
  let same := c.partnerNode j == node && c.rd (R.EDGE_PARTNER_PORT j) == port
  let c := if same then c else c.onCirc (fun x => { x with matched := x.matched.filter (fun i => i != j) })
  let c := (((c.wr (R.EDGE_PARTNER_NODE j) node).wr (R.EDGE_PARTNER_SITE j) site).wr (R.EDGE_PARTNER_PORT j) port).wr (R.EDGE_PARTNER_VALID j) 1
  let level := min (c.rd R.ROUTE_STATUS_LEVEL_MAX) maxLevel
  if level < max (c.rd R.ROUTE_STATUS_LEVEL_MIN) minLevel then (c.holdPort j 9).event Ev.portHeldRoute none (Unit.port j) [9, c.row]
  else if c.partnerExpected j node = false then (c.holdPort j 0xA).event Ev.portHeldRoute none (Unit.port j) [0xA, c.row]
  else
    let c := if (getKey j c.edge.waiting).isSome then c.recordLost j else c
    let c := c.each bad (fun c x => if c.portLane j x.1 x.2 = lsFENCED then c
      else ((c.setPortLane j x.1 x.2 lsFENCED).wr (R.EDGE_LANE_STATE_REASON j x.1) 9).report (Unit.portLane j x.1 x.2) [] 0 0 9 actFenced)
    let c := (((c.freshLinks j).sparesAtTraining j true).sparesAtTraining j false)
    let c := (c.wr (R.EDGE_STATUS_STATE j) 2).wr (R.ROUTE_PORT_INFO_LEVEL j) level
    let c := (c.event Ev.portUp none (Unit.port j) [node, port, c.row]).portNotice j
    let c := if c.light.heldNotice then (c.setLight (fun l => { l with heldNotice := false })).lightNotice else c
    (c.reachAgain.detourRecheck).checkMinLanes j

/-- Whether training of port `j` has come to its last step (R214): every incoming lane that is neither fenced nor among those that disagreed has seen two good markers and 64 good TRAIN frames that
name the partner's node, edge site and port. -/
def Chip.portTrained (c : Chip) (j node site port : Nat) (bad : List (Nat × Bool)) : Bool :=
  (List.range 40).all (fun l => c.portLane j l true == lsFENCED || bad.contains (l, true)
    || (c.portLaneTrained j l && (c.linkRx (24 + j, 0, l)).ident == node * 2048 + site * 64 + 38 + port % 4))

/-- PORT_UP (R214). -/
def execPortUp (j : Fin 16) (node : Fin 4096) (site : Fin 24) (port : Fin 16) (maxLevel minLevel : BitVec 8) (bad : List (Fin 40 × Bool)) (s : State) : Result :=
  .next (s.onChip (fun c => if c.rd (R.EDGE_STATUS_STATE j.val) = 1 ∧ c.portTrained j.val node.val site.val port.val (bad.map (fun x => (x.1.val, x.2))) = true then
    c.portComesUp j.val node.val site.val port.val maxLevel.toNat minLevel.toNat (bad.map (fun x => (x.1.val, x.2))) else c))

/-- PORT_TRAIN_TIMEOUT (R214): 20 ms after light a port that is not Up restarts training, and after three restarts is held down. -/
def execPortTrainTimeout (j : Fin 16) (s : State) : Result :=
  .next (s.onChip (fun c =>
    match getKey j.val c.edge.training with
    | some t =>
      if c.rd (R.EDGE_STATUS_STATE j.val) = 1 ∧ t + 40000000 ≤ c.cycles then
        let n := (getKey j.val c.edge.restarts).getD 0
        if 3 ≤ n then (c.holdPort j.val 8).onEdge (fun e => { e with training := delKey j.val e.training })
        else (c.startTraining j.val).onEdge (fun e => { e with restarts := putKey j.val (n + 1) e.restarts })
      else c
    | none => c))

/-- EDGE.CTRL (R221, R246): RETRAIN releases a held port, unless its engine has failed, also one that is disabled; the dark row of a departure of the whole node stands. DOWN departs and holds the
port. -/
def edgeCtrlHook (j v : Nat) : WriteHook :=
  .does (fun c =>
    let c := if bitOf v 31 && c.rd (R.EDGE_STATUS_STATE j) == 4 && !c.edge.engineFailed.contains j then
        (c.wr (R.EDGE_STATUS_STATE j) 3).onEdge (fun e => { e with restarts := delKey j e.restarts, departing := e.departing.filter (fun d => d.port != j || !d.single)
                                                                   dark := e.dark.filter (fun d => d != j) })
      else if bitOf v 31 && !c.edge.engineFailed.contains j then c.onEdge (fun e => { e with heldOff := delKey j e.heldOff })
      else c
    if bitOf v 30 then (if c.portUp j then c.depart j 4 true else c.portDown j 6) else c)

/-- PORT_RETRAIN: a write of EDGE.CTRL (R221). -/
def execPortRetrain (req : Requester) (j : Fin 16) (v : BitVec 32) (s : State) : Result :=
  .next (s.onChip (fun c => c.writeReg req (R.EDGE_CTRL j.val) v.toNat (edgeCtrlHook j.val v.toNat)))

/-- PORT_DOWN_CMD: a write of EDGE.CTRL (R246). -/
def execPortDownCmd (req : Requester) (j : Fin 16) (v : BitVec 32) (s : State) : Result :=
  .next (s.onChip (fun c => c.writeReg req (R.EDGE_CTRL j.val) v.toNat (edgeCtrlHook j.val v.toNat)))

/-- EDGE.CFG2: EN 0 darkens the transmitters and turns the port off (EDGE.CFG2.EN); a port that was held down is held again when EN returns, for RETRAIN alone releases it (R221). -/
def edgeCfg2Hook (j v : Nat) : WriteHook :=
  .does (fun c =>
    if bitOf v 0 then
      match getKey j c.edge.heldOff with
      | some r => if c.rd (R.EDGE_STATUS_STATE j) = 0 then
          ((c.wr (R.EDGE_STATUS_STATE j) 4).wr (R.EDGE_STATUS_REASON j) r).onEdge (fun e => { e with heldOff := delKey j e.heldOff })
        else c
      | none => c
    else if c.rd (R.EDGE_STATUS_STATE j) = 0 then c
    else
      let c := if c.rd (R.EDGE_STATUS_STATE j) = 4 then c.onEdge (fun e => { e with heldOff := putKey j (c.rd (R.EDGE_STATUS_REASON j)) e.heldOff }) else c
      let c := (c.portDown j 6).wr (R.EDGE_STATUS_STATE j) 0
      c.each (List.range 40) (fun c l => if c.portLane j l false = lsFENCED then c else c.setPortLane j l false lsOFF))

/-! Link messages received (R215 to R217, R222). -/

/-- SPARE_REQ (R216): the sending end takes a lane off its carrier, holds its frames, and resends them on the spare from boundary `row`; where the
spare's transmit side has failed it refuses. A calibration that has the spare ends at that boundary (R218); lane 39 may be asked for on a data lane (R213). -/
def execSpareReq (j : Fin 16) (lane : Fin 40) (carrier : Fin 40) (row : BitVec 48) (s : State) : Result :=
  .next (s.onChip (fun c =>
    let j := j.val
    let l := lane.val
    let w := linkMsg 1 l carrier.val row.toNat
    if c.newMsg j w = false ∨ c.portUp j = false ∨ (carrier.val < 36 ∧ l ≠ 39) ∨ 39 ≤ carrier.val then c
    else
      let c := c.takeMsg j w
      let n := carrier.val - 36
      if 36 ≤ carrier.val ∧ c.rd (spareStateRef j false n) = 3 then c.sendMsg j (linkMsg 3 l carrier.val row.toNat)
      else
        let on := c.rd (portOnRef j l false)
        let c := if 36 ≤ on ∧ on < 39 ∧ on ≠ carrier.val then c.setSpare j false (on - 36) 3 0x3F else c
        let c := if carrier.val < 36 then c.onEdge (fun e => { e with ctrlOn := e.ctrlOn ++ [(j, false, carrier.val)] })
          else if c.rd (spareStateRef j false n) = 2 then c.endCal j (c.rd (spareLaneRef j false n)) row.toNat
          else c
        let c := (c.setPortLane j l false lsHOLD).onEdge (fun e => { e with moves := e.moves.filter (fun m => !(m.port == j && !m.incoming && m.lane == l))
                                                                              ++ [⟨j, false, l, carrier.val, row.toNat, false, false⟩] })
        (c.stopMsg j 4 on).sendMsg j (linkMsg 2 l carrier.val row.toNat)))

/-- SPARE_GRANT (R215): the answer to a SPARE_REQ, which is not repeated any more; a repeat of the answer is taken once. -/
def execSpareGrant (j : Fin 16) (lane : Fin 40) (carrier : Fin 40) (row : BitVec 48) (s : State) : Result :=
  .next (s.onChip (fun c =>
    let w := linkMsg 2 lane.val carrier.val row.toNat
    if c.newMsg j.val w then (c.takeMsg j.val w).stopMsg j.val 1 lane.val else c))

/-- SPARE_REFUSE (R216): the spare cannot transmit; the receiving end asks for the next. -/
def execSpareRefuse (j : Fin 16) (lane : Fin 40) (carrier : Fin 40) (row : BitVec 48) (s : State) : Result :=
  .next (s.onChip (fun c =>
    let j := j.val
    let w := linkMsg 3 lane.val carrier.val row.toNat
    if c.newMsg j w = false ∨ carrier.val < 36 ∨ 39 ≤ carrier.val then c
    else
      let c := ((c.takeMsg j w).stopMsg j 1 lane.val).onEdge (fun e => { e with moves := e.moves.filter (fun m => !(m.port == j && m.incoming && m.lane == lane.val && !m.cal)) })
      (c.setSpare j true (carrier.val - 36) 3 0x3F).spareIncoming j lane.val))

/-- TX_FAULT (R216): the transmit side of a physical lane has failed at the partner; the receiving end spares the lane that it carries. A lane whose ring failed in its calibration stays on the spare
that has its stream, for the failure, and the calibration ends with that request (R106, R217, R224). -/
def execTxFault (j : Fin 16) (lane : Fin 40) (s : State) : Result :=
  .next (s.onChip (fun c =>
    let j := j.val
    let w := linkMsg 4 lane.val 0 0
    if c.newMsg j w = false ∨ c.portUp j = false then c
    else
      let c := c.takeMsg j w
      match ((List.range 36) ++ [39]).find? (fun l => c.rd (portOnRef j l true) == lane.val) with
      | some l =>
        let c := if 36 ≤ lane.val ∧ lane.val < 39 then c.setSpare j true (lane.val - 36) 3 0x3F else c
        if c.portLane j l true = lsFENCED then c else (c.setPortLane j l true lsFENCED).spareIncoming j l
      | none =>
        let on := c.rd (portOnRef j lane.val true)
        if 36 ≤ on ∧ on < 39 ∧ c.rd (spareStateRef j true (on - 36)) = 2 then (c.endCal j lane.val (c.markerRow j + 3)).requestCarrier j lane.val on
        else if 36 ≤ lane.val ∧ lane.val < 39 then c.setSpare j true (lane.val - 36) 3 0x3F else c))

/-- CAL_REQ (R217): a lane moves to a spare at boundary `row`; the answer is CAL_GRANT. -/
def execCalReq (j : Fin 16) (lane : Fin 40) (carrier : Fin 40) (row : BitVec 48) (s : State) : Result :=
  .next (s.onChip (fun c =>
    let w := linkMsg 5 lane.val carrier.val row.toNat
    if c.newMsg j.val w = false ∨ c.portUp j.val = false ∨ carrier.val < 36 ∨ 39 ≤ carrier.val then c
    else ((c.takeMsg j.val w).calMoves j.val lane.val carrier.val row.toNat false).sendMsg j.val (linkMsg 6 lane.val carrier.val row.toNat)))

/-- CAL_GRANT (R215, R217): the other end has taken a CAL_REQ; the lane moves at its boundary. -/
def execCalGrant (j : Fin 16) (lane : Fin 40) (carrier : Fin 40) (row : BitVec 48) (s : State) : Result :=
  .next (s.onChip (fun c =>
    let w := linkMsg 6 lane.val carrier.val row.toNat
    if c.newMsg j.val w = false ∨ carrier.val < 36 ∨ 39 ≤ carrier.val then c
    else ((c.takeMsg j.val w).stopMsg j.val 5 lane.val).calMoves j.val lane.val carrier.val row.toNat false))

/-- CAL_END (R217): the lane returns from its spare at boundary `row`. -/
def execCalEnd (j : Fin 16) (lane : Fin 40) (carrier : Fin 40) (row : BitVec 48) (s : State) : Result :=
  .next (s.onChip (fun c =>
    let w := linkMsg 7 lane.val carrier.val row.toNat
    if c.newMsg j.val w = false then c else (c.takeMsg j.val w).calMoves j.val lane.val lane.val row.toNat true))

/-- REDEAL_LINK_MESSAGE (R222): the partner tells the last link sequence it accepted on a lane that left the deal, and the highest run number; the
lost groups are dealt to the remaining lanes. -/
def execRedealLinkMessage (j : Fin 16) (lane : Fin 40) (lastSeq : BitVec 16) (runNo : BitVec 8) (s : State) : Result :=
  .next (s.onChip (fun c =>
    let w := linkMsg 8 lane.val lane.val (lastSeq.toNat * 2 ^ 32 + runNo.toNat * 2 ^ 24)
    if c.newMsg j.val w = false then c else
    let c := c.takeMsg j.val w
    let e := 112 + j.val
    let order := (getKey e c.circ.redeals).getD 0 + 1
    let upTo := fun (r : SrcRun) => r.e == e && decide (subMod 8 runNo.toNat r.runNo < 128)
    let key := (24 + j.val, 0, lane.val)
    let c := c.onCirc (fun x => { x with redeals := putKey e order x.redeals
                                         src := x.src.map (fun r => if upTo r then redealSrc lane.val ((lastSeq.toNat + 1) % 65536) order r else r) })
    c.setTx key { c.linkTx key with replay := (c.linkTx key).replay.filter (fun f => f.ftype != ftRUN), resend := 0 }))

/-! Departures. -/

/-- A DEPARTURE comes in by port `j` (R220, R250): its port goes down under 0x5, with scope 0 every port to that node, and the locks
that the node holds are abandoned (R289). -/
def Chip.departureIn (c : Chip) (j : Nat) (st : Stitch) : Chip :=
  let node := leField st.data 0 2 % 4096
  if st.data.getD 3 0 % 2 = 1 then c.portDown j 5
  else
    let c := c.each ((List.range 16).filter (fun i => i == j || c.partnerNode i == node)) (fun c i => c.portDown i 5)
    c.each ((c.sync.objs.filter (fun x => x.2.kind == 4 && x.2.held && x.2.ownerNode == node)).map (·.1)) (fun c n => c.abandon n 3)

/-- DEPARTURE_ARRIVAL (R220). -/
def execDepartureArrival (j : Fin 16) (st : Stitch) (s : State) : Result := .next (s.onChip (fun c => c.departureIn j.val st))

/-- DEPARTURE_DARK_ROW (R246): at the dark row the departing port's transmitters go dark, unless it alone departed and was released earlier. -/
def execDepartureDarkRow (j : Fin 16) (s : State) : Result :=
  .next (s.onChip (fun c =>
    match c.edge.departing.find? (fun d => d.port == j.val) with
    | some d =>
      if d.darkRow ≤ c.row then
        let c := c.onEdge (fun e => { e with departing := e.departing.filter (fun d => d.port != j.val), dark := e.dark ++ [j.val] })
        c.each (List.range 40) (fun c l => if c.portLane j.val l false = lsFENCED then c else c.setPortLane j.val l false lsOFF)
      else c
    | none => c))

/-! Pattern runs and injections of port lanes (R138 to R140, R217). -/

/-- CAL_REQ is sent for a lane unless a calibration move of its port is under way (R217). -/
def Chip.askCal (c : Chip) (j l : Nat) : Chip := if c.calAsked j ∨ (36 ≤ l ∧ l < 39) then c else c.calRequest j l

/-- EDGE.PAT_CTRL: GO asks for the lane by CAL_REQ and for a run, STOP ends it (R139, R217). -/
def edgePatHook (j v : Nat) : WriteHook :=
  .does (fun c =>
    let l := c.rd (R.EDGE_PAT_SEL_LANE j)
    let pat := c.rd (R.EDGE_PAT_SEL_PATTERN j)
    let c := if bitOf v 31 then
        if 5 < pat ∨ 40 ≤ l then c.edgePatResult j 6
        else if c.portLane j l false ≠ lsUP then c.edgePatResult j 5
        else
          let run : PatRun := { site := j, plane := 0, k := l, pattern := pat, row := c.boundaryAfter 64, rows := max 1 (fget v 15 0), running := false, selfTest := false, stop := false }
          ((c.edgePatResult j 1).askCal j l).onEdge (fun e => { e with runs := e.runs ++ [run] })
      else c
    if bitOf v 30 then c.onEdge (fun e => { e with runs := e.runs.map (fun r => if r.site = j then { r with stop := true } else r) }) else c)

/-- The bits of a row of a port lane: 65,536 symbols of four bits (R205; log entry 136). -/
def portRowBits : Nat := 262144

/-- Bits of payloads in frame mode, checked frame by frame: errors, and the register of the checker. -/
def framesErrors (checker : Option Nat) (bits : List Bool) : Nat × Option Nat :=
  (chunks 3072 bits.length bits).foldl (fun x f =>
    let (n, st) := payloadErrors x.2 (bitsBytes f)
    (x.1 + n, some st)) (0, checker)

/-- A row of a port lane's run has passed: in a raw mode every bit of it is compared, in frame mode the payload bits of the frames accepted (R139; log entry 136). -/
def Chip.edgeRunRow (c : Chip) (r : PatRun) (got : Option (List Bool)) : Chip :=
  let key := (24 + r.site, 0, r.k)
  if r.pattern = 5 then
    let bits := got.getD []
    let (errs, st) := framesErrors r.checker bits
    (c.countPattern key bits.length errs).setRun key r { r with checker := st }
  else c.rawRun key r (c.word (R.EDGE_PAT_WORD r.site)).toNat portRowBits got

/-- Whether a port lane's run may have its booking (R103, R139, R217): a spare carries the lane's stream, the token is held, the edge site is free, no detection hold. -/
def Chip.edgeMayRun (c : Chip) (r : PatRun) : Bool :=
  c.portUp r.site && c.portLaneReady r.site r.k && c.tokenHeld && !c.on R.OPF_STATUS_DETECT_HOLD && !c.siteBooked (18 + r.site / 4)

/-- The pattern runs of port lanes at a row boundary (R139, R217): as runs on the package, with the lane's stream on a spare; a run that ends sends CAL_END. `raw` gives what came in the row just
ended. -/
def Chip.edgePatStep (c : Chip) (raw : List (Nat × List Bool)) : Chip :=
  c.each c.edge.runs (fun c r =>
    let j := r.site
    let key := (24 + j, 0, r.k)
    let ends := fun (c : Chip) =>
      let c := c.edgeRunLeaves r
      if c.rd (portOnRef j r.k true) ≠ r.k ∧ c.portUp j = true then c.calEndRequest j r.k else c
    if !r.booked then
      if r.stop then (ends c).edgePatResult j 4
      else if r.row ≤ c.row ∧ c.edgeMayRun r = true then
        (c.setRun key r { r with booked := true, row := c.row }).showBooking [18 + j / 4] (18 + j / 4) (38 + j % 4) r.k 1
      else if r.row ≤ c.row ∧ !c.portLaneReady j r.k then c.askCal j r.k
      else c
    else if r.running then
      let c := c.edgeRunRow r (getKey j raw)
      let r := (c.runOn key).getD r
      if r.stop ∨ r.row + r.rows < c.row then c.setRun key r { r with running := false, rows := 0, row := c.row } else c
    else if r.rows = 0 then (if r.row < c.row then (ends c).edgePatResult j (if r.stop then 4 else 3) else c)
    else if r.stop then (ends c).edgePatResult j 4
    else if r.row < c.row then
      (((c.wrPair (R.EDGE_PAT_BITS_LO_BITS j) (R.EDGE_PAT_BITS_HI_BITS j) 0).wr (R.EDGE_PAT_ERRS_ERRS j) 0).edgePatResult j 2).startRun key r r.row
    else c)

/-- EDGE.INJ.GO arms one injection of a port (R140). -/
def edgeInjHook (j v : Nat) : WriteHook :=
  .does (fun c =>
    let mode := fget v 29 27
    let l := fget v 5 0
    if bitOf v 31 then
      if c.edge.inj.any (fun x => x.site == j) then c.edgeInjResult j 5
      else if mode = 0 then c.edgeInjResult j 4
      else if c.portLane j l false ≠ lsUP ∨ 40 ≤ l then c.edgeInjResult j 3
      else if mode = 7 then (c.edgeInjResult j 2).fencePort j l true 0xB
      else (c.edgeInjResult j 1).onEdge (fun e => { e with inj := e.inj ++ [⟨j, 0, l, mode, bitOf v 30⟩] })
    else c)

/-- EDGE_PATTERN_GO: a write of EDGE.PAT_CTRL (R217). -/
def execEdgePatternGo (req : Requester) (j : Fin 16) (v : BitVec 32) (s : State) : Result :=
  .next (s.onChip (fun c => c.writeReg req (R.EDGE_PAT_CTRL j.val) v.toNat (edgePatHook j.val v.toNat)))

/-- EDGE_INJECT_GO: a write of EDGE.INJ (R140). -/
def execEdgeInjectGo (req : Requester) (j : Fin 16) (v : BitVec 32) (s : State) : Result :=
  .next (s.onChip (fun c => c.writeReg req (R.EDGE_INJ j.val) v.toNat (edgeInjHook j.val v.toNat)))

/-- ENGINE_FAIL (R97): the rings of a lock-in engine hold and both sides of its plane have plane faults; a port's engine takes its port down. -/
def execEngineFail (site : Fin 24) (plane : Fin 42) (s : State) : Result :=
  .next (s.onChip (fun c =>
    let i := site.val
    let p := plane.val
    if 18 ≤ i ∧ i < 22 ∧ 38 ≤ p then
      let j := 4 * (i - 18) + (p - 38)
      let c := (c.abandonOn (groupRings i p)).holdRings (fun x => x.group == (i, p))
      let c := c.setDark i p true
      let c := if c.edge.engineFailed.contains j then c else c.onEdge (fun e => { e with engineFailed := e.engineFailed ++ [j] })
      c.portDown j 0xB
    else if Config.planeKind i p = 0 then c
    else
      let c := ((c.abandonOn (groupRings i p)).holdRings (fun x => x.group == (i, p))).setDark i p true
      (c.planeFault ⟨i, p, false⟩).planeFault ⟨i, p, true⟩))

end Sys2Proof.Machine
end

