-- ==== Sys2Proof/Machine/Arrival.lean ====
section
/-! DEFINITION. A stitch at its destination adapter: the checks of R152, the delivery to what performs it, and the matching of answers (R152,
R158, R187, R188, R195, R222, R276, R277, R403). -/

namespace Sys2Proof.Machine

/-! Check 2 of R152: the form of a stitch. -/

/-- Whether a list of bytes is all zero. -/
def allZero (l : List Nat) : Bool := l.all (fun b => b % 256 == 0)

/-- Whether the fields that the opcode table marks zero are zero, and the flags are among those that the opcode defines (R141, R144, R187, R276, R403). -/
def zeroFields (st : Stitch) : Bool :=
  let o := st.opcode
  let sp := st.opspec % 2 ^ 18
  let f := st.opf % 1024
  st.rsv % 2 ^ 13 == 0 &&
    (if o = opLOAD then sp == 0 && allZero st.data && (f == 0 || f == 1 || f == 2 || f == 4 || f == 8)
     else if o = opSTORE then sp == 0 && decide (f < 2)
     else if o = opMC_STORE then sp % 64 == 0 && decide (f < 2)
     else if o = opATOMIC then sp % 1024 == 0 && f == 0
     else if o = opREDUCE then true
     else if o = opSEND then sp % 4 == 0 && f == 0 && st.ppa % 2 ^ 40 == 0
     else if o = opSTREAM_READ then sp / 2 ^ 14 == 0 && sp % 1024 == 0 && f == 0
     else if o = opRUN_OPEN then sp % 256 == 0 && decide (f < 4) && st.start == 0 && st.countM1 == 63
     else if o = opSYNC_OP then sp % 4096 == 0 && f == 0 && allZero ((st.data.drop 6).take 2) && allZero (st.data.drop 15)
     else if o = opCTRL then sp % 1024 == 0 && st.tenant == 0 && st.seq == 0
     else if o = opLOAD_RSP then sp == 0 && decide (f < 2)
     else if o = opATOMIC_RSP then sp % 1024 == 0 && decide (f < 2)
     else if o = opSYNC_RSP then sp % 4096 == 0 && f == 0
     else if o = opACK ∨ o = opSTREAM_DATA ∨ o = opSTREAM_END then sp == 0 && f == 0
     else if o = opNACK then sp == 0 && decide (f < 16)
     else true)

/-- Whether the PPA of an opcode carries a block's address (R142). -/
def carriesAddress (o : Nat) : Bool :=
  o == opLOAD || o == opSTORE || o == opMC_STORE || o == opATOMIC || o == opREDUCE || o == opRUN_OPEN || o == opSTREAM_DATA

/-- The rules of a message's stitch: INDEX ≤ TOTAL − 1, and a whole block but in the last (R152). -/
def sendLayout (st : Stitch) : Bool :=
  decide (sendIndex st + 1 ≤ sendTotal st) && (st.countM1 == 63 || sendIndex st + 1 == sendTotal st)

/-- The bytes of an opening that R187 has zero, and for a push the deal: lanes, and a starting index within it. -/
def openingData (st : Stitch) : Bool :=
  let d := padTo 64 st.data
  if runPull st then allZero (d.take 8) && allZero (d.drop 16)
  else allZero (d.drop 7) && leField d 0 3 != 0 && decide (d.getD 6 0 < (setBits 24 (leField d 0 3)).length)

/-- Whether site `n` owns every block of a run, under the rules of its address mode (R188). -/
def runOwned (site : Nat) (st : Stitch) : Bool :=
  (!runLocal st || !(decide (10 ≤ site) && decide (site < 18)) || (st.ppa % 8192 == 0 && fget st.ppa 15 13 == site - 10))
    && (List.range (runBlocksOf st)).all (fun b => ownerSite (blockAddr st.ppa (runLocal st) b) == some site)

/-- Whether the coherence flags of a LOAD or STORE come from a site that may send them, for a range that has them (R403). -/
def Chip.flagsAllowed (c : Chip) (site : Nat) (st : Stitch) : Bool :=
  let cached := rangeOf st.ppa == .hbm || rangeOf st.ppa == .cxl
  let die := fun (n : Nat) => n == 8 || n == 9
  if st.opcode = opLOAD ∧ st.opf % 1024 ≠ 0 then
    st.srcNode == c.node && cached &&
      (if st.opf % 4 = 0 then die site && ownerSite st.ppa == some st.srcSite else die st.srcSite)
  else if st.opcode = opSTORE ∧ st.opf % 1024 ≠ 0 then st.srcNode == c.node && cached && die st.srcSite
  else true

/-- Check 2 of R152, with the layout rules of the opcodes' own chapters. -/
def Chip.wellMade (c : Chip) (site : Nat) (st : Stitch) : Bool :=
  st.version == 1 && opDefined st.opcode && classAllowed st.opcode st.cls && zeroFields st && decide (st.start + st.countM1 ≤ 63)
    && (!carriesAddress st.opcode || st.ppa % 64 == 0)
    && (st.opcode != opSEND || sendLayout st)
    && (st.opcode != opATOMIC || !atomAllowed st || atomLayout st)
    && (st.opcode != opREDUCE || redLayout st)
    && (st.opcode != opRUN_OPEN || openingData st)
    && c.flagsAllowed site st
    && (st.opcode != opCTRL || (site == 31 && st.srcSite == 31)) && (st.opcode != opSYNC_OP || site == 31)

/-! Checks 3 to 5. -/

/-- Whether an opcode names memory by its PPA (R152 check 4). -/
def memoryOpcode (o : Nat) : Bool := o == opLOAD || o == opSTORE || o == opATOMIC || o == opREDUCE || o == opMC_STORE || o == opRUN_OPEN

/-- Whether the memory that a stitch names lies in windows of its tenant and is owned by `site` (R152 check 4, R188). -/
def Chip.windowHas (c : Chip) (site : Nat) (st : Stitch) : Bool :=
  if st.opcode = opRUN_OPEN then
    (List.range (runBlocksOf st)).all (fun b => (c.resolve st.tenant (blockAddr st.ppa (runLocal st) b)).isSome)
  else (c.resolve st.tenant st.ppa).isSome && ownerSite st.ppa == some site

/-- Whether check 5 is made: CNT includes the destination, and the opcode is none of those that R162 exempts; a pull's CNT is 0b10 (R187), and SYNC of a SYNC_OP is the object it works on,
which the function checks (R284). -/
def syncChecked (st : Stitch) : Bool :=
  st.cnt % 2 == 1 && !(st.opcode == opLOAD || st.opcode == opATOMIC || st.opcode == opSYNC_OP || st.opcode == opCTRL || (st.opcode == opRUN_OPEN && runPull st))

/-- The status of the first of checks 2 to 5 that a stitch fails (R152). `owner`: the site whose memory it names. -/
def Chip.arrivalCheck (c : Chip) (site owner : Nat) (st : Stitch) : Nat :=
  if !c.wellMade site st || (st.opcode == opRUN_OPEN && !runOwned owner st) then stMALFORMED
  else if st.opcode != opCTRL && !c.tenantOn st.tenant then stTENANT
  else if memoryOpcode st.opcode && !c.windowHas owner st then stWINDOW
  else if syncChecked st && !c.syncCountable st.sync st.tenant then stSYNC
  else stOK

/-! Openings of runs. -/

/-- The circuit of a push opening, checked under R188: bytes 4 and 5 name a circuit that stands from SRC_SITE to the bank where the opening came, of
its tenant; else the status. -/
def Chip.openingCircuit (c : Chip) (site plane : Nat) (st : Stitch) : Nat × Nat :=
  let e := st.data.getD 4 0
  let b := st.data.getD 5 0
  if !c.standing e || (switchedAt e).1 != st.srcSite || c.rd (R.CIRC_PLANE_DST_BANK e) != b || b != switchedIndex site plane
      || !(decide (32 ≤ plane) && decide (plane < 40)) then (stMALFORMED, e)
  else if c.rd (R.CIRC_PLANE_TENANT e) ≠ st.tenant then (stTENANT, e)
  else (stOK, e)

/-- A run that an opening starts at its destination or at the edge site that carries it on (R190, R191). -/
def Chip.openDst (c : Chip) (site e runNo : Nat) (st : Stitch) (deal : List Nat) (start : Nat) (relay : Bool) : Chip :=
  c.onCirc (fun x => { x with dst := x.dst ++ [⟨site, e, runNo, st, dealGroups deal start (runGroups st) ((getKey e x.redeals).getD 0), 0, relay, []⟩] })

/-- The port that a run crosses by (R222, R248): Up, at a level that has runs, its reserved lanes the tenant's, with the partner's matching assignment (R197), its partner DST_NODE, with the fewest groups
waiting and then the lowest number. -/
def Chip.runPort (c : Chip) (st : Stitch) : Option Nat :=
  leastDeep (fun j => c.groupsWaiting (112 + j)) ((List.range 16).filter (fun j =>
    c.portUp j && decide (3 ≤ c.rd (R.ROUTE_PORT_INFO_LEVEL j)) && (c.reservedOf j).any (fun x => x.1 == st.tenant) && c.circ.matched.contains j
      && c.partnerNode j == st.dstNode && !(c.dealLanes (112 + j)).isEmpty))

/-- The run number that a port's side gives its next run. -/
def Chip.portRunNo (c : Chip) (e : Nat) : Nat := (getKey e c.circ.portRuns).getD 0

/-- The near edge site carries a run on over a port (R222): it takes the groups as they come and sends them on the port's deal. -/
def Chip.crossRun (c : Chip) (site e j : Nat) (st : Stitch) : Chip :=
  let p := 112 + j
  let runNo := st.data.getD 3 0
  let c := c.openDst site e runNo st (setBits 24 (leField st.data 0 3)) (st.data.getD 6 0) true
  let deal := c.dealLanes p
  let start := c.dealStart p deal
  let g := runGroups st
  let n := c.portRunNo p
  let r : SrcRun := { site := site, e := p, runNo := n, opening := st, startLane := deal.headD 0, deal := deal
                      todo := dealGroups deal start g ((getKey p c.circ.redeals).getD 0), sent := [], src := 0, srcLocal := false
                      relayOf := some (site, e, runNo), opened := false, answered := false, pull := none }
  (c.onCirc (fun x => { x with src := x.src ++ [r], portRuns := putKey p ((n + 1) % 256) x.portRuns })).dealtTo p deal start g

/-- The far edge site takes a run from port `j` and opens its own push run to DST_SITE (R222). -/
def Chip.landRun (c : Chip) (site j : Nat) (st : Stitch) : Chip :=
  let p := 128 + j
  let deal := c.dealLanes p
  let start := c.dealStart p deal
  let g := runGroups st
  let n := c.portRunNo p
  let c := c.openDst site p n st deal start true
  let c := (c.onCirc (fun x => { x with portRuns := putKey p ((n + 1) % 256) x.portRuns })).dealtTo p deal start g
  let own : Stitch := { st with cnt := st.cnt % 2, hops := 0, escape := 0, tag := 0 }
  c.requestRun ⟨site, own, 0, false, some (site, p, n), some (site, st), c.row⟩

/-- A pull at the holder of the data: a push run to the requester (R195). -/
def Chip.pullRun (c : Chip) (site : Nat) (st : Stitch) : Chip :=
  let push : Stitch := { dstNode := st.srcNode, dstSite := st.srcSite, tenant := st.tenant, cls := 0, opcode := opRUN_OPEN, countM1 := 63
                         opspec := st.opspec, ppa := leField st.data 8 8 % 2 ^ 46 }
  c.requestRun ⟨site, push, st.ppa, runLocal st, none, some (site, st), c.row⟩

/-- A RUN_OPEN at a site (R188, R195, R222). Openings for a port that holds 64 runs stall: they stay where they are. -/
def State.runOpenIn (s : State) (site plane k : Nat) (st : Stitch) : State :=
  let c := s.chip
  let free := fun (c : Chip) => { s with chip := c.arrivalDone site plane k st }
  let edge := decide (18 ≤ site) && decide (site < 22)
  let fromPort := edge && decide (38 ≤ plane) && decide (plane < 42)
  if fromPort then
    let j := 4 * (site - 18) + (plane - 38)
    let status := c.arrivalCheck site st.dstSite st
    if status ≠ stOK then free (c.refuse site st status)
    else State.takeEarly (free (c.landRun site j st)) (128 + j)
  else if edge ∧ st.dstNode ≠ c.node then
    if !c.wellMade site st then free (c.refuse site st stMALFORMED)
    else if !c.tenantOn st.tenant then free (c.refuse site st stTENANT)
    else
      let (status, e) := c.openingCircuit site plane st
      if status ≠ stOK then free (c.refuse site st status)
      else match c.runPort st with
      | none => free (c.refuse site st stNO_PATH)
      | some j =>
        if 64 ≤ (c.srcRuns (112 + j)).length then s
        else State.takeEarly (free (c.crossRun site e j st)) e
  else
    let status := c.arrivalCheck site site st
    if status ≠ stOK then free (c.refuse site st status)
    else if runPull st then free (c.pullRun site st)
    else
      let (status, e) := c.openingCircuit site plane st
      if status ≠ stOK then free (c.refuse site st status)
      else State.takeEarly (free (c.openDst site e (st.data.getD 3 0) st (setBits 24 (leField st.data 0 3)) (st.data.getD 6 0) false)) e

/-! Delivery. -/

/-- A class-4 stitch at the service, by its subtype (R144). A TIME_EXCH is left to the time service with its captures; a DEPARTURE names its sender's port. -/
def State.ctrlIn (s : State) (st : Stitch) : State :=
  let c := s.chip
  let sub := fget st.opspec 17 10
  if sub = 2 then
    let downs := st.data.getD 3 0 / 16 == 3 || st.data.getD 3 0 / 16 == 4
    let early := downs && (leField st.data 48 3 != 0 || !(c.on R.ROUTE_FM_EN && c.rd R.ROUTE_FM_NODE == c.node))
    match c.recordPort st with
    | some j => if (getKey j c.edge.waiting).isSome || early then s.onChip (fun c => c.portStateIn st) else s.noticeIn st
    | none => s.noticeIn st
  else if sub = 3 then
    match (List.range 16).find? (fun j => c.partnerNode j == leField st.data 0 2 % 4096 && c.rd (R.EDGE_PARTNER_PORT j) == st.data.getD 4 0 && c.portUp j) with
    | some j => s.onChip (fun c => c.departureIn j st)
    | none => s.noticeIn st
  else if sub = 4 then s.onChip (fun c => c.frogStitch st)
  else if sub = 6 then s
  else if sub = 7 then s.onChip (fun c => c.fmCmd st)
  else s.noticeIn st

/-- A stitch that passed its checks is performed or delivered at its site (R152). A recall is handed to the processor die, whose answer is a command of its own. -/
def State.deliver (s : State) (site plane k ecc : Nat) (st : Stitch) : State :=
  let fin := fun (c : Chip) => { s with chip := c.arrivalDone site plane k st }
  if st.opcode = opSEND then fin (s.chip.sendIn site st)
  else if st.opcode = opSTREAM_READ then fin (s.chip.streamRead site st)
  else if st.opcode = opSYNC_OP then fin (s.chip.syncOp (fget st.opspec 17 12) st)
  else if st.opcode = opCTRL then s.ctrlIn st
  else if st.opcode = opLOAD ∧ st.opf % 4 = 0 ∧ st.opf % 1024 ≠ 0 then fin s.chip
  else (s.memoryOp site plane k ecc st).onChip Chip.fenceScratch

/-- A multicast stitch that an edge site has to replicate, or a copy on its way between two edge sites of this package (R276, R277). -/
def Chip.mcIn (c : Chip) (site plane k : Nat) (st : Stitch) : Chip :=
  let x : PoolEntry := { edge := site - 18, fromPort := none, fromSite := c.laneSource site plane k, st := st, since := none, row := c.row, plane := plane, k := k }
  if mcDown st then c.mcAtEdge x
  else if !c.wellMade site st then (c.refuse site st stMALFORMED).arrivalDone site plane k st
  else if !c.tenantOn st.tenant then (c.refuse site st stTENANT).arrivalDone site plane k st
  else if !c.mcEntry st then (c.refuse site st stMC_GROUP).arrivalDone site plane k st
  else c.mcAtEdge x

/-- A stitch at its destination adapter (R152): discarded where its end-to-end check fails or its tenant is in FROGGED (R148, R462), refused with the status of the
first check it fails, else performed. Responses go the way of R158. -/
def State.arrival (s : State) (site plane k ecc : Nat) (st : Stitch) : State :=
  let c := s.chip
  let drop := fun (c : Chip) => { s with chip := c.arrivalDone site plane k st }
  let edge := decide (18 ≤ site) && decide (site < 22)
  if !Stitch.checkOk st then
    drop (c.e2eFail site plane k (if edge && decide (38 ≤ plane) && decide (plane < 42) then some (4 * (site - 18) + (plane - 38), k) else none) st)
  else if st.opcode ≠ opCTRL ∧ c.rd (R.PART_STATE_STATE st.tenant) = 3 then drop c
  else if st.opcode = opRUN_OPEN then s.runOpenIn site plane k st
  else if st.opcode = opMC_STORE ∧ edge = true then { s with chip := c.mcIn site plane k st }
  else
    let called := st.opcode == opLOAD && st.opf % 4 == 0 && st.opf % 1024 != 0
    let status := if called ∧ c.wellMade site st = true then stOK else c.arrivalCheck site site st
    if status ≠ stOK then drop (c.refuseOp site st status) else s.deliver site plane k ecc st

/-! Answers. -/

/-- A response, ACK or NACK at its requester (R158): matched with what is outstanding, else counted as late. A LOAD_RSP that answers a recall ends it (R403). -/
def State.answerIn (s : State) (site : Nat) (st : Stitch) : State :=
  let c := s.chip
  if st.opcode = opACK then
    { s with chip := c.each (setBits 512 (leNat (padTo 64 st.data))) (fun c i => c.answered site st.srcNode st.tenant ((st.seq + i) % 65536) stOK) }
  else if st.opcode = opNACK then
    { s with chip := c.each (List.range (st.opf % 16 + 1)) (fun c n =>
        c.answered site st.srcNode st.tenant (leField st.data (4 * n) 2) (st.data.getD (4 * n + 2) 0)) }
  else if st.opcode = opSTREAM_DATA ∨ st.opcode = opSTREAM_END then s.streamAnswer site st
  else if st.opcode = opLOAD_RSP ∧ s.chip.recallOf site st ≠ none then s.recallAnswer site st
  else { s with chip := c.dataAnswer site st stOK }

/-- A response at its destination adapter: check 1 of R152, the discarding of a frogged tenant's stitches (R174), check 2, then R158. -/
def State.responseArrival (s : State) (site plane k : Nat) (st : Stitch) : State :=
  let c := s.chip
  let fin := fun (s : State) => { s with chip := s.chip.arrivalDone site plane k st }
  if !Stitch.checkOk st then fin { s with chip := c.e2eFail site plane k none st }
  else if c.rd (R.PART_STATE_STATE st.tenant) = 3 then fin s
  else if !c.wellMade site st then fin { s with chip := c.countRefused site stMALFORMED }
  else fin (s.answerIn site st)

/-! The commands. -/

/-- A stitch that waits at a destination adapter is taken, and `f` says what becomes of it; without it nothing happens. -/
def State.takeArrived (s : State) (site plane k : Nat) (st : Stitch) (f : State → State) : State :=
  let a : Arrived := ⟨site, plane, k, st⟩
  if s.chip.xport.arrived.contains a then
    f (s.onChip (fun c => c.onXport (fun x => { x with arrived := dropFirst (fun y => y == a) x.arrived })))
  else s

/-- Whether a stitch of a SEND gives way to another of its message that arrived in the same fabric cycle on a lower plane (R174). -/
def Chip.behindLower (c : Chip) (site plane : Nat) (st : Stitch) : Bool :=
  st.opcode == opSEND && c.xport.arrivedAt.any (fun a => a.1.site == site && a.1.plane == plane && a.1.st == st
    && c.xport.arrivedAt.any (fun b => b.2 == a.2 && b.1.site == site && decide (b.1.plane < plane) && tagOf b.1.st == tagOf st && c.xport.arrived.contains b.1))

/-- A stitch that stays at the adapter for now: an opening that stalls at the near edge (R222), or a SEND whose message has a stitch of a lower plane to be taken first (R174). -/
def State.stallsOpening (s : State) (site plane : Nat) (st : Stitch) : Bool :=
  let c := s.chip
  c.behindLower site plane st || st.opcode == opRUN_OPEN && decide (18 ≤ site) && decide (site < 22) && decide (plane < 38) && st.dstNode != c.node && Stitch.checkOk st
    && c.wellMade site st && c.tenantOn st.tenant && (c.openingCircuit site plane st).1 == stOK
    && (match c.runPort st with
        | some j => decide (64 ≤ (c.srcRuns (112 + j)).length)
        | none => false)

/-- STITCH_ARRIVAL (R152): a stitch that came to `site` on wavelength `k` of `plane`, or on the control network (63), meets its adapter; `ecc` is what the memory access
finds. -/
def execStitchArrival (site : Fin 32) (plane k : Fin 64) (ecc : Fin 3) (st : Stitch) (s : State) : Result :=
  .next (if opResponse st.opcode || s.stallsOpening site.val plane.val st then s
    else s.takeArrived site.val plane.val k.val st (fun s => s.arrival site.val plane.val k.val ecc.val st))

/-- ANSWER_ARRIVAL (R158): a response, ACK or NACK that came to `site`. -/
def execAnswerArrival (site : Fin 32) (plane k : Fin 64) (st : Stitch) (s : State) : Result :=
  .next (if opResponse st.opcode then s.takeArrived site.val plane.val k.val st (fun s => s.responseArrival site.val plane.val k.val st) else s)

/-- FILL_S (R403): a processor die's LOAD for a shared copy. -/
def execFillS (site : Fin 32) (plane k : Fin 64) (ecc : Fin 3) (st : Stitch) (s : State) : Result :=
  .next (if st.opcode = opLOAD ∧ st.opf % 1024 = 1 then s.takeArrived site.val plane.val k.val st (fun s => s.arrival site.val plane.val k.val ecc.val st) else s)

/-- FILL_M (R403): a processor die's LOAD for a copy to modify. -/
def execFillM (site : Fin 32) (plane k : Fin 64) (ecc : Fin 3) (st : Stitch) (s : State) : Result :=
  .next (if st.opcode = opLOAD ∧ st.opf % 1024 = 2 then s.takeArrived site.val plane.val k.val st (fun s => s.arrival site.val plane.val k.val ecc.val st) else s)

/-- WB (R403): a processor die's write-back of a modified line. -/
def execWb (site : Fin 32) (plane k : Fin 64) (st : Stitch) (s : State) : Result :=
  .next (if st.opcode = opSTORE ∧ st.opf % 1024 = 1 then s.takeArrived site.val plane.val k.val st (fun s => s.arrival site.val plane.val k.val 0 st) else s)

end Sys2Proof.Machine
end

