-- ==== Sys2Proof/Machine/Bus.lean ====
section
/-! DEFINITION. Reads and writes of the package control space as a requester makes them: the effect of each register's write, latches, the mirror port,
aliases, emulated registers, crash dumps, inbound DMA (R4, R7 to R20, R404, R409, R431, R432, R448). -/

namespace Sys2Proof.Machine

/-! The effect of a write, register by register. -/

/-- PCU.GROUP_MASK_b_g: bits at or above the block's instance count ignore writes. -/
def groupMaskHook (b g v : Nat) : WriteHook :=
  let n := [24, 24, 16, 8, 8].getD b 0
  .does (fun c => c.wr (R.PCU_GROUP_MASK_MEMBERS b g) (v % 2 ^ n))

/-- CIRC.PORT_ASSIGN_j with the partner's answer on lane 39, which is not the package's to decide. -/
def portAssignHook (j v : Nat) : WriteHook :=
  .does (fun c =>
    let (n, c) := c.draw
    (assignHook j v (Config.measured (R.CIRC_PORT_ASSIGN j) n % 2 == 1)).effect c)

/-- TNS.GAUGE_CTRL with what the check finds, a physical measurement. -/
def gaugeCtrlHook (site v : Nat) : WriteHook :=
  .does (fun c =>
    let (n, c) := c.draw
    let x := Config.measured (R.TNS_GAUGE_CTRL site) n
    (gaugeHook site v (toSigned 16 (x % 65536)) (x / 65536 % 16)).effect c)

/-- PCU.ADMQ_CFG: clearing EN ends a stop by a fetch error (R424). -/
def admqHook (v : Nat) : WriteHook := .does (fun c => if bitOf v 31 then c else c.wr R.PCU_ADMQ_CFG_STOPPED 0)

/-- The rules of a register's own for a write of `v`, found by the register and its indices. -/
def Chip.hookOf (c : Chip) (req : Requester) (r : RegDesc) (is : List Nat) (v : Nat) : WriteHook :=
  let i := is.getD 0 0
  let j := is.getD 1 0
  let b := r.base
  match r.blk with
  | .site =>
    if b = R.SITE_RQ_CFG 0 0 then c.rqHook i j v false
    else if b = R.SITE_RQ_BASE 0 0 then c.rqHook i j v true
    else if b = R.SITE_SUBST_REQ 0 then substHook i v else .plain
  | .lsu => if b = R.LSU_CTRL then lsuCtrlHook v else .plain
  | .tns => if b = R.TNS_SWATCH_REQ 0 then swatchReqHook i v else if b = R.TNS_GAUGE_CTRL 0 then gaugeCtrlHook i v else .plain
  | .lane =>
    if b = R.LANE_PAT_CTRL 0 then Sys2Proof.Machine.patHook i v
    else if b = R.LANE_INJ 0 then injHook i v else .plain
  | .circ =>
    if b = R.CIRC_ARM 0 then armHook i v
    else if b = R.CIRC_ALLOT 0 then c.allotHook i v
    else if b = R.CIRC_PAT_HDR 0 ∨ b = R.CIRC_PAT 0 0 then c.patHook i
    else if b = R.CIRC_PORT_ASSIGN 0 then portAssignHook i v else .plain
  | .edge =>
    if b = R.EDGE_CTRL 0 then edgeCtrlHook i v
    else if b = R.EDGE_CFG2 0 then edgeCfg2Hook i v
    else if b = R.EDGE_PAT_CTRL 0 then edgePatHook i v
    else if b = R.EDGE_INJ 0 then edgeInjHook i v else .plain
  | .route => if b = R.ROUTE_NODE_STATE 0 then c.nodeStateHook i v else .plain
  | .part => if b = R.PART_TENANT 0 then c.shareHook i v else .plain
  | .cmp => if b = R.CMP_CORE_CTRL 0 0 then coreCtrlHook i j v else .plain
  | .hio =>
    if b = R.HIO_CLKOUT 0 then c.clkoutHook i v
    else if b = R.HIO_SLOT_CFG 0 then c.slotHook i v
    else if b = R.HIO_PORT_TENANT 0 then c.portTenantHook i else .plain
  | .cpu => if b = R.CPU_RWIN 0 0 ∧ (j = 0 ∨ j = 1023) then ⟨false, id, id⟩ else .plain
  | .sec => if b = R.SEC_AUTH_CTRL then authHook req v else if b = R.SEC_SIG 0 then sigHook i v else .plain
  | .clk => if b = R.CLK_DOMAIN_RESET then domainResetHook v else if b = R.CLK_FCHG 0 then fchgHook i v else .plain
  | .pwr => if b = R.PWR_CAP then capHook c v else .plain
  | .thm => if b = R.THM_ZONE_LIM 0 then zoneLimHook i else .plain
  | .evr =>
    if b = R.EVR_CTRL then evrCtrlHook v
    else if b = R.EVR_CLEAR then evrClearHook v
    else if b = R.EVR_NV_CLEAR then evrNvClearHook v else .plain
  | .pcu =>
    if b = R.PCU_DEBUG_HOLD then debugHoldHook c req v
    else if b = R.PCU_GROUP_MASK 0 0 then groupMaskHook i j v
    else if b = R.PCU_ADMQ_TAIL then c.tailHook req .admin v
    else if b = R.PCU_CQ_TAIL 0 0 then c.tailHook req (.queue (Fin.ofNat 16 i) (Fin.ofNat 64 j)) v
    else if b = R.PCU_ADMQ_CFG then admqHook v else .plain
  | _ => .plain

/-- An accepted write with the rules of its register. -/
def Chip.doWrite (c : Chip) (req : Requester) (off v : Nat) : Chip :=
  match findReg off with
  | none => c
  | some (r, is) => c.acceptWrite req off v (c.hookOf req r is v)

/-! The mirror port (R15). -/

/-- A requester's own copy of the port. -/
def Chip.mirrorOf (c : Chip) (req : Requester) : MirrorPort := (c.acc.mirrors.find? (fun m => m.req == req)).getD ⟨req, 0, 0⟩

/-- A requester's copy is changed. -/
def Chip.setMirror (c : Chip) (m : MirrorPort) : Chip :=
  c.onAcc (fun a => { a with mirrors := a.mirrors.filter (fun x => x.req != m.req) ++ [m] })

/-- A write of the debug alias window, accepted: the requester's own copy takes it (R11, R15). -/
def Chip.writeWindow (c : Chip) (req : Requester) (off v : Nat) : Chip :=
  let m := c.mirrorOf req
  match findReg off with
  | none => c
  | some (r, _) =>
    let old := if off = R.DBG_MIRROR_SEL then m.sel else if off = R.DBG_MIRROR_STATUS then m.status else 0
    let c := c.recordGated req r off old v
    if off = R.DBG_MIRROR_SEL then c.setMirror { m with sel := v % 2 ^ 28 }
    else if off = R.DBG_MIRROR_STATUS then c.setMirror { m with status := m.status - Nat.land m.status (v % 16) }
    else c

/-- The MIRROR_STATUS bit that a selected offset sets; none where it names a register that can be read. -/
def Chip.mirrorFault (c : Chip) (sel : Nat) : Option Nat :=
  if sel % 4 ≠ 0 then some 0
  else if aliasOff sel then some 1
  else if windowOff sel then some 3
  else if (findReg sel).isNone then some 0
  else if c.gated sel then some 2
  else none

/-! Reads. -/

/-- The value of a register, where a physical measurement is a draw of its own. -/
def Chip.present (c : Chip) (off : Nat) : Nat × Chip :=
  match findReg off with
  | none => (0, c)
  | some (r, _) => (c.viewWord off, if isMeasured r then { c with drawn := c.drawn + 1 } else c)

/-- A read of DBG.MIRROR_DATA (R15). -/
def Chip.readMirror (c : Chip) (req : Requester) : Nat × Chip :=
  let m := c.mirrorOf req
  match c.mirrorFault m.sel with
  | some b => (0, c.setMirror { m with status := Nat.lor m.status (2 ^ b) })
  | none => c.present m.sel

/-- The _LO registers whose read fills the requester's latch with the matching _HI register, which follows each (R4). -/
def loBases : List Nat :=
  [R.LSU_LAST_ROW_LO, R.TNS_GROUP_LAST_ROW_LO 0 0, R.LANE_PAT_BITS_LO 0, R.PART_SLOTS_LO 0, R.TIME_NOW_LO, R.TIME_ROW_LO, R.CMP_MXE_ACTIVE_LO 0 0,
   R.CMP_MXE_PAUSED_LO 0 0, R.CMP_SKIP_LO 0 0, R.MEM_ECC_LAST_LO 0, R.MEM_PC_RETIRED_LO 0 0, R.PART_RETIRED_Q_LO, R.PCU_CQ_BASE_LO 0 0, R.PCU_CQ_STAT_LO 0 0,
   R.SEC_SERIAL_LO, R.PART_FAULT_RING_LO 0, R.CMP_DIGEST_LO 0, R.CLK_GATE_STATUS_LO, R.PWR_ENERGY_LO, R.PWR_THR_ROWS_LO 0, R.EDGE_PAT_BITS_LO 0]

/-- Whether a register is read with side effects (R15): a _LO register, the first word of a sync object, PCU.DUMP_DATA. -/
def sideEffect (b : Nat) : Bool := loBases.contains b || b == R.SYN_OBJ_W0_LO || b == R.PCU_DUMP_DATA

/-- The latch of a requester. -/
def Chip.latchOf (c : Chip) (req : Requester) : Option ReadLatch := c.acc.latches.find? (fun l => l.req == req)

/-- A requester's latch is replaced. -/
def Chip.setLatch (c : Chip) (l : ReadLatch) : Chip :=
  c.onAcc (fun a => { a with latches := a.latches.filter (fun x => x.req != l.req) ++ [l] })

/-- Read-clear fields are zero after their read (R7). -/
def Chip.readClears (c : Chip) (r : RegDesc) (off : Nat) : Chip :=
  c.each r.flds (fun c f => if f.acc = .rc then c.wr ⟨off, f.hi, f.lo⟩ 0 else c)

/-- A read that is performed: its data, the latch it fills or is answered from, and its side effect (R4, R7, R15, R448). -/
def Chip.readNow (c : Chip) (req : Requester) (off : Nat) : Nat × Chip :=
  match findReg off with
  | none => (0, c)
  | some (r, _) =>
    let b := r.base
    let (v, c) := c.present off
    let latched := fun (lo i : Nat) => match c.latchOf req with
      | some l => if l.lo = lo then l.words[i]?.getD v else v
      | none => v
    if b = R.DBG_MIRROR_DATA then c.readMirror req
    else if b = R.DBG_MIRROR_SEL then ((c.mirrorOf req).sel, c)
    else if b = R.DBG_MIRROR_STATUS then ((c.mirrorOf req).status, c)
    else if loBases.contains b then (v, c.setLatch ⟨req, off, [c.viewWord (off + 4)]⟩)
    else if b = R.SYN_OBJ_W0_LO then (v, c.setLatch ⟨req, off, c.objWords⟩)
    else if R.SYN_OBJ_W0_LO < b ∧ b ≤ R.SYN_OBJ_W1_HI then (latched R.SYN_OBJ_W0_LO ((b - R.SYN_OBJ_W0_LO) / 4), c)
    else if 4 ≤ b ∧ loBases.contains (b - 4) then (latched (off - 4) 0, c)
    else if b = R.PCU_DUMP_DATA then (v, c.wr R.PCU_DUMP_SEL_WORD (c.rd R.PCU_DUMP_SEL_WORD + 1))
    else (v, c.readClears r off)

/-- The data of a read goes to its requester. -/
def Chip.answerRead (c : Chip) (req : Requester) (data : Nat) : Chip := c.onAcc (fun a => { a with answer := some ⟨req, 0, data⟩ })

/-- Whether a read waits while no PCU holds the token: of an emulated register, directly or through the mirror port (R15, R431). -/
def Chip.readWaits (c : Chip) (req : Requester) (off : Nat) : Bool :=
  !c.tokenHeld && (emulated off || (off == R.DBG_MIRROR_DATA && emulated (c.mirrorOf req).sel && (c.mirrorFault (c.mirrorOf req).sel).isNone))

/-- A read of the control space: checked in order, then performed, or waiting for the token (R10 to R13, R18, R431, R432). -/
def Chip.readReg (c : Chip) (req : Requester) (off : Nat) (whole : Bool) : Chip :=
  if !c.mayIssue req then c
  else if whole = false ∨ off % 4 ≠ 0 then (c.busErr beWIDTH off).answerRead req 0
  else if aliasOff off then (c.busErr beALIAS_READ off).answerRead req 0
  else match c.judge req off false true with
  | .ok =>
    if c.readWaits req off then c.waitEmu req off false 0
    else
      let (v, c) := c.readNow req off
      c.answerRead req v
  | x => (c.refused req off false x).answerRead req 0

/-! Aliases (R16 to R19). -/

/-- The block behind an alias offset: its index, instances, base, slot stride, alias base, alias stride (R16). -/
def aliasBlock (off : Nat) : Option (Nat × Nat × Nat × Nat × Nat × Nat) :=
  [(0, 24, 0x1000000, 0x10000, 0x1F00000, 0x10000), (1, 24, 0x2000000, 0x100000, 0x3800000, 0x80000), (2, 16, 0x4000000, 0x40000, 0x4400000, 0x40000),
   (3, 8, 0x6000000, 0x800000, 0xC000000, 0x200000), (4, 8, 0xA000000, 0x100000, 0xA800000, 0x80000)].find? (fun x =>
     decide (x.2.2.2.2.1 ≤ off) && decide (off < x.2.2.2.2.1 + 16 * x.2.2.2.2.2))

/-- The instances of a replicated block that hold a register at offset `r` of their slots: all of them, or the four edge sites for the rings of ports (R16). -/
def aliasHolders (n base stride r : Nat) : List Nat := (List.range n).filter (fun i => (findReg (base + i * stride + r)).isSome)

/-- The register that an alias names, as one of its instances holds it. -/
def aliasReg (n base stride r : Nat) : Option RegDesc := (aliasHolders n base stride r).head?.bind (fun i => (findReg (base + i * stride + r)).map (·.1))

/-- An alias write at one member: a gated member drops it, counted (R13, R491); a member whose slot holds no such register has nothing to write. A role-gated write is recorded
for every member that holds the register (R17). -/
def Chip.aliasMember (c : Chip) (req : Requester) (o v : Nat) : Chip :=
  match findReg o with
  | none => c
  | some (r, _) => if c.gated o then (c.recordGated req r o (c.word o).toNat v).countGated req o true else c.doWrite req o v

/-- The offset in instance `i` of the register that an alias offset names. -/
def aliasTarget (off i : Nat) : Nat :=
  match aliasBlock off with
  | some (_, _, base, stride, abase, astride) => base + i * stride + (off - abase) % astride
  | none => off

/-- The members of an alias: all instances, or those in the group's mask (R16). -/
def Chip.aliasMembers (c : Chip) (off : Nat) : List Nat :=
  match aliasBlock off with
  | some (b, n, _, _, abase, astride) =>
    let g := (off - abase) / astride
    if g = 15 then List.range n else (List.range n).filter (fun i => bitOf (c.rd (R.PCU_GROUP_MASK_MEMBERS b g)) i)
  | none => []

/-- An accepted alias write reaches the members that were sampled with its acceptance, or waits with them for the token (R17, R19). -/
def Chip.deliverAlias (c : Chip) (req : Requester) (off v : Nat) (members : List Nat) : Chip :=
  if members.any (fun i => needsToken req (aliasTarget off i)) && c.tokenWaits then
    c.onAcc (fun a => { a with emuWait := a.emuWait ++ [(⟨req, off, true, v, c.cycles, some members⟩ : EmuAccess)] })
  else c.each members (fun c i => c.aliasMember req (aliasTarget off i) v)

/-- The acceptance of an alias write: the mask is sampled, once; an empty one drops the write (R19). -/
def Chip.acceptAlias (c : Chip) (req : Requester) (off v : Nat) : Chip :=
  let members := c.aliasMembers off
  if members.isEmpty then c.busErr beALIAS_EMPTY off
  else match members.findSome? (fun i => c.staleFrom req (aliasTarget off i)) with
  | some u => c.staleWrite u off
  | none => c.deliverAlias req off v members

/-- A write through an alias: checked, then accepted and delivered to every member by its own state (R17, R19). Where several checks fail, the first in the order unmapped, tenant, role,
empty group decides (DESIGN CHOICE, log entry 113). Behind an earlier write of its requester that waits, which may be of the mask, it is accepted in its turn (R14). -/
def Chip.writeAlias (c : Chip) (req : Requester) (off v : Nat) : Chip :=
  match aliasBlock off with
  | none => c.busErr beUNMAPPED off
  | some (_, n, base, stride, abase, astride) =>
    match aliasReg n base stride ((off - abase) % astride) with
    | none => c.busErr beUNMAPPED off
    | some d =>
      let tenantReq := match req with
        | .hart x k => (c.hartTenant x.val k.val).isSome
        | .queueProc _ _ => true
        | _ => false
      if tenantReq then c.busErr beTENANT off
      else if (c.roleOf req).rank < d.role.rank then c.refused req off true .role
      else if c.behindOwn req then c.waitEmu req off true v
      else c.acceptAlias req off v

/-! Writes. -/

/-- A write that waits for nothing: through an alias, to the debug alias window, or to a register (R11, R15, R17). -/
def Chip.performWrite (c : Chip) (req : Requester) (off v : Nat) : Chip :=
  if aliasOff off then c.writeAlias req off v
  else if windowOff off then c.writeWindow req off v
  else c.doWrite req off v

/-- A write of the control space with the effect of whatever register it meets (R7 to R14, R17, R431, R432, R533). -/
def Chip.writeAny (c : Chip) (req : Requester) (off v : Nat) (whole : Bool) : Chip :=
  if !c.mayIssue req then c
  else if whole = false ∨ off % 4 ≠ 0 then c.busErr beWIDTH off
  else if aliasOff off then c.writeAlias req off v
  else match c.judge req off true true with
  | .ok => match c.staleFrom req off with
    | some u => c.staleWrite u off
    | none => if c.writeWaits req off then c.waitEmu req off true v else c.performWrite req off v
  | x => c.refused req off true x

/-! The management interface (R572, R573). -/

/-- Status codes of the management interface and of the PCS instruction. -/
def mgOK : Nat := 0
def mgBUSY : Nat := 1
def mgROLE : Nat := 2
def mgBUS_ERR : Nat := 3
def mgSIDE_EFFECT : Nat := 4
def mgSHUTDOWN : Nat := 5
def mgPEC : Nat := 7
def mgIMAGE : Nat := 8
def mgNOT_RECOVERY : Nat := 9

/-- The status of an access and the number of its bus error, from the PCU.BUS_ERR bits that it sets. -/
def busStatus (bits : Nat) (isWrite : Bool) : Nat × Nat :=
  match (List.range 6).find? (bitOf bits) with
  | none => (mgOK, 0)
  | some b => if isWrite && b == beROLE then (mgROLE, 0) else (mgBUS_ERR, b)

/-- The answer of the management interface. -/
def Chip.mgmtAnswer (c : Chip) (status data : Nat) : Chip := c.onAcc (fun a => { a with answer := some ⟨.mgmt, status, data⟩ })

/-- A management access that is carried out: a read with side effects reads nothing; an access that sets a bus error answers with it. -/
def Chip.mgmtNow (c : Chip) (off : Nat) (isWrite : Bool) (v : Nat) : Chip :=
  let bits := fun (c' : Chip) => (c'.word R.PCU_BUS_ERR).toNat
  let quiet := c.setWord R.PCU_BUS_ERR 0
  if isWrite then
    let (st, d) := busStatus (bits (quiet.writeAny .mgmt off v true)) true
    (c.writeAny .mgmt off v true).mgmtAnswer st d
  else if (match findReg off with
      | some (r, _) => sideEffect r.base && off % 4 == 0 && !windowOff off
      | none => false) then c.mgmtAnswer mgSIDE_EFFECT 0
  else
    let (st, d) := busStatus (bits (quiet.readReg .mgmt off true)) false
    let c := c.readReg .mgmt off true
    let data := match c.acc.answer with
      | some a => a.data
      | none => 0
    c.mgmtAnswer st (if st = mgOK then data else d)

/-! Accesses that waited (R14, R431, R533). -/

/-- A waiting write is performed: an alias write that has been accepted reaches the members it was accepted for (R19). -/
def Chip.performWaited (c : Chip) (e : EmuAccess) : Chip :=
  match e.members with
  | some l => c.deliverAlias e.req e.off e.val l
  | none => c.performWrite e.req e.off e.val

/-- The access at the head of those that wait is performed, with the rest still waiting. -/
def Chip.performWaiting (c : Chip) (e : EmuAccess) : Chip :=
  if e.req = .mgmt then c.mgmtNow e.off e.isWrite e.val
  else if e.isWrite then c.performWaited e
  else
    let (v, c) := c.readNow e.req e.off
    c.answerRead e.req v

/-- With a control unit holding the token the oldest waiting access is performed; the younger ones go on waiting behind it. -/
def Chip.serveEmu (c : Chip) : Chip :=
  match c.acc.emuWait with
  | [] => c
  | e :: es =>
    let d := (c.onAcc (fun a => { a with emuWait := [] })).performWaiting e
    d.onAcc (fun a => { a with emuWait := a.emuWait ++ es })

/-- Whether a waiting access is dropped when no control unit comes: one of PCU firmware's own registers, or a read that firmware would have served. -/
def EmuAccess.dropped (e : EmuAccess) : Bool := !e.isWrite || e.req == .mgmt || emulated e.off

/-- Every waiting access to an emulated register completes without effect: reads give zero; a management request answers BUSY (R431, R584). A write that waited only behind one of
them takes effect, in its order; a write of an actuator goes on waiting (R14, R533). -/
def Chip.dropEmu (c : Chip) : Chip :=
  let l := c.acc.emuWait
  let c := (c.onAcc (fun a => { a with emuWait := [] })).count R.PCU_EMU_STATUS_DROPPED (l.filter (fun e => e.dropped && e.req != .mgmt)).length
  c.each l (fun c e =>
    if e.dropped then (if e.req = .mgmt then c.mgmtAnswer mgBUSY 0 else if e.isWrite then c else c.answerRead e.req 0)
    else if e.members.isSome || aliasOff e.off || !c.writeWaits e.req e.off then c.performWaited e
    else c.waitEmu e.req e.off true e.val)

/-! Inbound DMA (R409, R432). -/

/-- Whether an offset of the site-local window is that of an IMSIC interrupt file (R404). -/
def imsicFile (o : Nat) : Bool :=
  (decide (0x10000000 ≤ o) && decide (o < 0x12000000) && decide ((o - 0x10000000) % 0x1000000 / 0x1000 < 96))
    || (decide (0x20000000 ≤ o) && decide (o < 0x28000000) && decide ((o - 0x20000000) % 0x4000000 / 0x8000 < 96))

/-- A DMA that is not performed is reported in the fault queue of its IOMMU. -/
def Chip.dmaFault (c : Chip) (r a : Nat) : Chip := c.onHio (fun x => { x with dmaFaults := x.dmaFaults ++ [(r, a)] })

/-- The pieces of a DMA range, one block each: address, offset of the piece in the range, bytes. -/
def dmaPieces (a n : Nat) : List (Nat × Nat × Nat) := (viewLines a n).map (fun x => (x.1, x.1 - a, x.2))

/-- A DMA that is refused completes as Unsupported Request at its host I/O site (R409, R414). -/
def Chip.dmaUnsupported (c : Chip) (r : Nat) : Chip := c.answerTo (.hostIo (Fin.ofNat 2 (r / 8))) anUNSUPPORTED 0

/-- An inbound DMA of sub-port `r` to window `w` and address `a`: `data` of a write, or `n` bytes read. -/
def Chip.inbound (c : Chip) (r w a : Nat) (isWrite : Bool) (n : Nat) (data : List Nat) : Chip :=
  let t := c.rd (R.HIO_PORT_TENANT_TENANT r)
  let site := 22 + r / 8
  if !c.on (R.HIO_PORT_TENANT_EN r) || c.hio.dmaStopped.contains r then c.dmaUnsupported r
  else if w = 0 then
    if 0x3FF000000000 ≤ a ∧ a < 0x3FF010000000 then
      if c.on (R.HIO_PORT_TENANT_PCS_EN r) ∧ t = 0 ∧ n = 4 ∧ a % 4 = 0 then
        let req : Requester := .hostIo (Fin.ofNat 2 (r / 8))
        if isWrite then c.writeAny req (a - 0x3FF000000000) (leField data 0 4) true else c.readReg req (a - 0x3FF000000000) true
      else c.dmaFault r a
    else
      c.each (dmaPieces a n) (fun c p =>
        c.request site 0 { opcode := if isWrite then opSTORE else opLOAD, cls := 0, dstNode := c.node, tenant := t, ppa := lineOf p.1, start := p.1 % 64
                           countM1 := p.2.2 - 1
                           data := if isWrite then List.replicate (p.1 % 64) 0 ++ (data.drop p.2.1).take p.2.2 else [] })
  else if w = 1023 then
    if isWrite ∧ n = 4 ∧ a % 4 = 0 ∧ imsicFile a ∧ a % 4096 = 0 then
      c.onHio (fun x => { x with imsic := if x.imsic.contains (a, leField data 0 4) then x.imsic else x.imsic ++ [(a, leField data 0 4)] })
    else c.dmaFault r a
  else c.dmaFault r a

/-! The commands. -/

/-- REGISTER_WRITE (R7): a write of any offset of the control space; `whole`: a naturally aligned 32-bit access. -/
def execRegisterWrite (req : Requester) (off : BitVec 28) (v : BitVec 32) (whole : Bool) (s : State) : Result :=
  .next (s.onChip (fun c => c.writeAny req off.toNat v.toNat whole))

/-- RC_READ (R7): a read of a register, which returns its value and then clears its read-clear fields. No register of the tables has one. -/
def execRcRead (req : Requester) (off : BitVec 28) (whole : Bool) (s : State) : Result :=
  .next (s.onChip (fun c => c.readReg req off.toNat whole))

/-- LO_READ_LATCH (R4): a read of a _LO register. -/
def execLoReadLatch (req : Requester) (off : BitVec 28) (s : State) : Result :=
  .next (s.onChip (fun c => match findReg off.toNat with
    | some (r, _) => if loBases.contains r.base then c.readReg req off.toNat true else c
    | none => c))

/-- MIRROR_DATA_READ (R15). -/
def execMirrorDataRead (req : Requester) (s : State) : Result := .next (s.onChip (fun c => c.readReg req R.DBG_MIRROR_DATA true))

/-- ALIAS_WRITE (R17). -/
def execAliasWrite (req : Requester) (off : BitVec 28) (v : BitVec 32) (s : State) : Result :=
  .next (s.onChip (fun c => if aliasOff off.toNat then c.writeAny req off.toNat v.toNat true else c))

/-- ALIAS_READ (R18). -/
def execAliasRead (req : Requester) (off : BitVec 28) (s : State) : Result :=
  .next (s.onChip (fun c => if aliasOff off.toNat then c.readReg req off.toNat true else c))

/-- EMULATED_ACCESS (R431): the oldest waiting access is served while a PCU holds the token. -/
def execEmulatedAccess (s : State) : Result := .next (s.onChip (fun c => if c.tokenHeld then c.serveEmu else c))

/-- EMULATED_ACCESS_TIMEOUT (R431): no PCU has held the token for 100 µs. -/
def execEmulatedAccessTimeout (s : State) : Result :=
  .next (s.onChip (fun c => if c.tokenHeld = false ∧ c.reachedCycle (c.pcu.lostAt + 200000) then c.dropEmu else c))

/-- DUMP_DATA_READ (R448). -/
def execDumpDataRead (req : Requester) (s : State) : Result := .next (s.onChip (fun c => c.readReg req R.PCU_DUMP_DATA true))

/-- OBJ_W0_LO_READ (R4). -/
def execObjW0LoRead (req : Requester) (s : State) : Result := .next (s.onChip (fun c => c.readReg req R.SYN_OBJ_W0_LO true))

/-- INBOUND_DMA (R409): a request of root port `r` to a translated address: window and address, or none where the translation faulted at `a`; a write's data,
or the number of bytes read. -/
def execInboundDma (r : Fin 16) (w : Option (Fin 1024)) (a : BitVec 46) (isWrite : Bool) (n : Fin 4097) (data : List (BitVec 8)) (s : State) : Result :=
  .next (s.onChip (fun c =>
    let bytes := data.map BitVec.toNat
    match w with
    | some w => if n.val = 0 then c else c.inbound r.val w.val a.toNat isWrite n.val (padTo n.val bytes)
    | none => if c.on (R.HIO_PORT_TENANT_EN r.val) then c.dmaFault r.val a.toNat else c.dmaUnsupported r.val))

end Sys2Proof.Machine
end

