-- ==== Sys2Proof/Machine/Pins.lean ====
section
/-! DEFINITION. The contacts: power good, package reset, presence and PERST_n, the management interface, the test access port, the fibre receptacles (R561 to R579, R584). -/

namespace Sys2Proof.Machine

/-! Power and reset (R526, R562, R563, R568). -/

/-- The package without power on its always-on island: what flash and fuses hold and the levels of the inputs stay. -/
def Chip.islandOff (c : Chip) : Chip :=
  let p := c.pins
  let d : Chip := { flash := c.flash, drawn := c.drawn
                    pins := { vio := p.vio, resetN := p.resetN, brakeN := p.brakeN, present := p.present.map (fun x => (x.1, 0)), plugs := p.plugs
                              addr := p.addr, boundary := p.boundary, instruction := p.instruction, captured := p.captured } }
  (d.wr R.EVR_OP_SECS_COUNT c.flash.secs).wr R.EVR_POWER_CYCLES_COUNT c.flash.cycles

/-- PWR_GOOD_RISE (R526, R562): cast-on waits at step 1 for REFCLK and PKG_RESET_n; the address straps are sampled. `long`: PWR_GOOD has been low for at least 100 ms, without which a package in trip
shutdown stays there. -/
def execPwrGoodRise (addr : Fin 4) (long : Bool) (s : State) : Result :=
  .next (
    let c := s.chip
    if c.pins.pwrGood then s
    else if c.pins.phase = .trip ∧ long = false then s.onChip (fun c => c.onPins (fun p => { p with pwrGood := true, vio := true }))
    else
      let c := if c.pins.phase = .trip then c.islandOff else c
      { s with chip := (c.onPins (fun p => { p with phase := .held, pwrGood := true, vio := true, addr := addr.val })).onSec (fun x => { x with release := true }) })

/-- PWR_GOOD_FALL (R562, R584): power fail, then every rail is off, the island included. In trip shutdown THERMTRIP_n is released and the shutdown stays. -/
def execPwrGoodFall (s : State) : Result :=
  .next (
    if !s.chip.pins.pwrGood then s
    else if s.chip.pins.phase = .trip then s.onChip (fun c => c.onPins (fun p => { p with pwrGood := false, thermTripN := false }))
    else
      let s := if s.chip.powered then s.powerFail true else s
      { s with mem := [], chip := s.chip.islandOff })

/-- PKG_RESET_ASSERT (R563, R584): PKG_RESET_n has been low for 5 µs. Without effect while PWR_GOOD is low or in trip shutdown. -/
def execPkgResetAssert (s : State) : Result :=
  .next (
    let c := s.chip.onPins (fun p => { p with resetN := true })
    if !c.pins.pwrGood ∨ c.pins.phase = .trip then { s with chip := c }
    else { s with mem := [], chip := ((c.stageCut.forceOutputs .held).onPins (fun p => { p with xspi := .highZ })).onSec (fun x => { x with release := true, booted := false }) })

/-- PKG_RESET_RELEASE (R563): a full cast-on may run from step 1. -/
def execPkgResetRelease (s : State) : Result := .next (s.onChip (fun c => c.onPins (fun p => { p with resetN := false })))

/-- VIO_LOSS (R568): VIO_1V8 has stayed below 1.55 V for 10 µs. The record is written only if the flash still answers, which is a free value. -/
def execVioLoss (s : State) : Result :=
  .next (
    let s := s.onChip (fun c => c.onPins (fun p => { p with vio := false }))
    if s.chip.pins.pwrGood ∧ s.chip.powered then
      let (n, c) := s.chip.draw
      { s with chip := c }.powerFail (Config.flashAnswers n)
    else s)

/-! Presence and PERST_n (R566). -/

/-- PRSNT_CHANGE (R566): PRSNT_n_r, debounced, falls (`present`) or rises; a link that is up goes down first. -/
def execPrsntChange (r : Fin 16) (present : Bool) (s : State) : Result :=
  .next (s.onChip (fun c =>
    if present then
      if (getKey r.val c.pins.present).isSome then c else c.onPins (fun p => { p with present := putKey r.val c.now p.present })
    else
      let c := c.surpriseDown r.val
      c.onPins (fun p => { p with present := delKey r.val p.present, released := p.released.filter (fun x => x != r.val) })))

/-- Whether PERST_n of a logical root port may rise (R566): its slot enabled and the sub-port there under BIFUR, a device present, cast-on at step 10 or past it, 100 ms since the later of EN and
presence, and the output that CLKSRC names running for 1 ms. -/
def Chip.perstMayRise (c : Chip) (r : Nat) : Bool :=
  let sl := r / 4
  let src := c.rd (R.HIO_SLOT_CFG_CLKSRC sl)
  c.on (R.HIO_SLOT_CFG_EN sl) && decide (r % 4 < c.slotWays sl) && decide (9 ≤ c.rd R.PCU_CASTON_STEP)
    && (c.pins.phase == .castOn || c.pins.phase == .running)
    && (match getKey sl c.pins.slotOn, getKey r c.pins.present with
        | some a, some b => c.reached (max a b + 100000000)
        | _, _ => false)
    && (decide (2 ≤ src) || (match getKey src c.pins.clockOn with
        | some t => c.reached (t + 1000000)
        | none => false))

/-- PERST_RELEASE (R566). -/
def execPerstRelease (r : Fin 16) (s : State) : Result :=
  .next (s.onChip (fun c => if c.perstMayRise r.val ∧ c.pins.released.contains r.val = false then c.onPins (fun p => { p with released := p.released ++ [r.val] }) else c))

/-! The management interface (R572 to R574). -/

/-- A request reaches the target (R573, R584): PEC checked; nothing answers while the package is off or held; SHUTDOWN in trip shutdown; a wait in a lease gap of less than 100 µs
and behind an earlier request that waits (R14); BUSY before step 3 and
without the token; else `serve`. -/
def Chip.mgmtRequest (c : Chip) (pec : Bool) (wait serve : Chip → Chip) : Chip :=
  if c.pins.phase = .off ∨ c.pins.phase = .held ∨ c.pins.vio = false then c
  else if pec = false then c.mgmtAnswer mgPEC 0
  else if c.pins.phase = .trip then c.mgmtAnswer mgSHUTDOWN 0
  else if c.pins.phase = .recovery ∨ c.pins.phase = .powerFail ∨ (c.pins.phase = .castOn ∧ c.rd R.PCU_CASTON_STEP < 3) then c.mgmtAnswer mgBUSY 0
  else if c.tokenHeld then (if c.acc.emuWait.any (fun e => e.req == .mgmt) then wait c else serve c)
  else if c.cycles < c.pcu.lostAt + 200000 then wait c
  else c.mgmtAnswer mgBUSY 0

/-- MGMT_READ (R573); `pec`: the packet error code, where there is one, is right. -/
def execMgmtRead (off : BitVec 32) (pec : Bool) (s : State) : Result :=
  .next (s.onChip (fun c => c.mgmtRequest pec (fun c => c.waitEmu .mgmt off.toNat false 0) (fun c => c.mgmtNow off.toNat false 0)))

/-- MGMT_WRITE (R573). -/
def execMgmtWrite (off v : BitVec 32) (pec : Bool) (s : State) : Result :=
  .next (s.onChip (fun c => c.mgmtRequest pec (fun c => c.waitEmu .mgmt off.toNat true v.toNat) (fun c => c.mgmtNow off.toNat true v.toNat)))

/-- A request of the boot ROM in recovery (R572, R573). -/
def Chip.romRequest (c : Chip) (pec : Bool) (serve : Chip → Chip) : Chip :=
  if c.pins.phase = .off ∨ c.pins.phase = .held ∨ c.pins.vio = false then c
  else if pec = false then c.mgmtAnswer mgPEC 0
  else if c.pins.phase = .trip then c.mgmtAnswer mgSHUTDOWN 0
  else if c.pins.phase = .recovery then serve c
  else c.mgmtAnswer mgNOT_RECOVERY 0

/-- Bytes of a recovery image are collected. -/
def Chip.collect (c : Chip) (off : Nat) (bytes : List (BitVec 8)) : Chip := c.onSec (fun x => { x with image := memWrite x.image off (bytes.map BitVec.toNat) })

/-- RECOVERY_WRITE (R573): 1 to 240 bytes of an image. -/
def execRecoveryWrite (off : BitVec 32) (bytes : List (BitVec 8)) (pec : Bool) (s : State) : Result :=
  .next (s.onChip (fun c => if bytes.isEmpty ∨ 240 < bytes.length then c else c.romRequest pec (fun c => (c.collect off.toNat bytes).mgmtAnswer mgOK 0)))

/-- The end of a recovery image (R443): verified as R440 has it, written to slot A, named first without TRIAL, and cast-on starts again; or discarded. -/
def Chip.recoveryEnd (c : Chip) (len : Nat) : Chip :=
  let f := c.flash.setSlot 0 (c.sec.image.filter (fun x => decide (x.1 < len)))
  let r := f.slotResult 0
  let c := (c.onSec (fun x => { x with image := [] })).wr R.PCU_BOOT_STATUS_RESULT_A r
  if r = 0 then
    let c := ((c.onFlash (fun _ => f.writeOrder 0 false)).wr R.PCU_BOOT_STATUS_RECOVERED 1).mgmtAnswer mgOK 0
    (c.onSec (fun x => { x with booted := false })).onPins (fun p => { p with phase := .held })
  else (c.event Ev.slotRejected none 0 [0, r]).mgmtAnswer mgIMAGE r

/-- RECOVERY_END (R443, R573). -/
def execRecoveryEnd (len : BitVec 32) (pec : Bool) (s : State) : Result :=
  .next (s.onChip (fun c => c.romRequest pec (fun c => c.recoveryEnd len.toNat)))

/-- The bytes of the 48-bit provisional ID, the low 32 bits from SEC.SERIAL (R572); the top two are the target's and not the manual's. -/
def Chip.provisionalId (c : Chip) : Nat := leNat ((List.range 2).map (fun i => Config.cccByte 0x8D i % 256)) * 2 ^ 32 + (c.word R.SEC_SERIAL_LO).toNat

/-- The answer to a GET code: as far as the manual gives it, else the target's own bytes. -/
def Chip.cccAnswer (c : Chip) (ccc : Nat) : Nat :=
  if ccc = 0x8D then c.provisionalId
  else if ccc = 0x8B then c.pins.maxWrite
  else if ccc = 0x8C then c.pins.maxRead
  else Config.cccByte ccc 0

/-- The effect of a common command code (R572): addresses, in-band interrupts on and off, length limits, answers. A code that the target does not support does nothing. -/
def Chip.i3cCode (c : Chip) (ccc arg : Nat) : Chip :=
  let pins := fun (f : Pins → Pins) => c.onPins f
  if ccc = 0x07 ∨ ccc = 0x87 then pins (fun p => if p.dynamic.isSome && ccc == 0x07 then p else { p with dynamic := some (arg % 128) })
  else if ccc = 0x06 then pins (fun p => { p with dynamic := none })
  else if ccc = 0x00 ∨ ccc = 0x80 then pins (fun p => if bitOf arg 0 then { p with interruptsOn := true } else p)
  else if ccc = 0x01 ∨ ccc = 0x81 then pins (fun p => if bitOf arg 0 then { p with interruptsOn := false } else p)
  else if ccc = 0x09 ∨ ccc = 0x89 then pins (fun p => { p with maxWrite := arg })
  else if ccc = 0x0A ∨ ccc = 0x8A then pins (fun p => { p with maxRead := arg })
  else if ccc = 0x8B ∨ ccc = 0x8C ∨ ccc = 0x8D ∨ ccc = 0x8E ∨ ccc = 0x8F ∨ ccc = 0x90 then c.mgmtAnswer mgOK (c.cccAnswer ccc)
  else c

/-- I3C_CCC (R572): a common command code, with an address, an event mask or a length. -/
def execI3cCcc (ccc : BitVec 8) (arg : BitVec 16) (s : State) : Result :=
  .next (s.onChip (fun c => if c.pins.phase = .off ∨ c.pins.phase = .held ∨ c.pins.vio = false then c else c.i3cCode ccc.toNat arg.toNat))

/-! The test access port (R576, R577). -/

/-- An instruction and what its data register captures. The port runs whenever VIO_1V8 is present. -/
def Chip.tap (c : Chip) (code captured : Nat) : Chip := if c.pins.vio then c.onPins (fun p => { p with instruction := code, captured := captured }) else c

/-- Whether the boundary cells connect to the contacts (R577). -/
def Chip.boundaryOn (c : Chip) : Bool := c.pins.resetN || !c.pins.pwrGood

/-- EXTEST and SAMPLE/PRELOAD: the cells are loaded and the contacts captured, or BYPASS. -/
def Chip.scan (c : Chip) (code cells : Nat) : Chip :=
  if c.boundaryOn && c.pins.vio then
    let (n, c) := c.draw
    (c.tap code (Config.contactLevels n)).onPins (fun p => { p with boundary := cells })
  else c.tap code 0

/-- JTAG_EXTEST (R577). -/
def execJtagExtest (cells : BitVec 64) (s : State) : Result := .next (s.onChip (fun c => c.scan 0x00 cells.toNat))

/-- JTAG_IDCODE (R576). -/
def execJtagIdcode (s : State) : Result :=
  .next (s.onChip (fun c => c.tap 0x01 (c.rd R.PCU_PKG_ID_STEPPING % 16 * 2 ^ 28 + 0x0C08 * 2 ^ 12 + Config.jtagMaker % 2 ^ 11 * 2 + 1)))

/-- JTAG_SAMPLE_PRELOAD (R577). -/
def execJtagSamplePreload (cells : BitVec 64) (s : State) : Result := .next (s.onChip (fun c => c.scan 0x02 cells.toNat))

/-- JTAG_DTMCS (R399, R576): what the debug transport answers is the debug specification's. -/
def execJtagDtmcs (v : BitVec 32) (s : State) : Result :=
  .next (s.onChip (fun c =>
    let (n, c) := c.draw
    c.tap 0x10 (Config.debugWord 4 0 v.toNat n % 2 ^ 32)))

/-- JTAG_DMI (R399): an access to the debug module of a die, by address bits [17:16]; without the maker role it is not answered. -/
def execJtagDmi (op : Fin 4) (addr : BitVec 18) (data : BitVec 32) (s : State) : Result :=
  .next (s.onChip (fun c =>
    if (c.roleOf .jtag).rank = 2 ∧ addr.toNat / 65536 < 2 then
      let (n, c) := c.draw
      c.tap 0x11 (Config.debugWord op.val addr.toNat data.toNat n)
    else c.tap 0x11 0))

/-- JTAG_RECOVERY (R443, R576): 252 bytes of an image, accepted only in recovery. -/
def execJtagRecovery (off : BitVec 32) (bytes : List (BitVec 8)) (s : State) : Result :=
  .next (s.onChip (fun c => if c.pins.phase = .recovery ∧ bytes.length = 252 then (c.collect off.toNat bytes).tap 0x20 0 else c.tap 0x20 0))

/-- An access of the PCS instruction at Update, and what Capture returns of it: status, offset, data (R576). In trip shutdown it answers SHUTDOWN. -/
def Chip.jtagAccess (c : Chip) (off v : Nat) (isWrite : Bool) : Chip :=
  let put := fun (c : Chip) (st data : Nat) => c.tap 0x21 (st * 2 ^ 60 + off % 2 ^ 28 * 2 ^ 32 + data % 2 ^ 32)
  if c.pins.phase = .off ∨ c.pins.phase = .held ∨ c.pins.phase = .powerFail then put c mgBUSY 0
  else if c.pins.phase = .trip then put c mgSHUTDOWN 0
  else
    let quiet := c.setWord R.PCU_BUS_ERR 0
    let bits := fun (c' : Chip) => (c'.word R.PCU_BUS_ERR).toNat
    if isWrite then put (c.writeAny .jtag off v true) (busStatus (bits (quiet.writeAny .jtag off v true)) true).1 0
    else
      let (st, d) := busStatus (bits (quiet.readReg .jtag off true)) false
      let c := c.readReg .jtag off true
      if c.acc.emuWait.any (fun e => e.req == .jtag) then put c mgBUSY 0
      else put c st (if st = mgOK then (c.acc.answer.map (·.data)).getD 0 else d)

/-- JTAG_PCS (R576): bit [63] of the data register WRITE, [59:32] the offset, [31:0] the data. -/
def execJtagPcs (dr : BitVec 64) (s : State) : Result :=
  .next (s.onChip (fun c => if c.pins.vio then c.jtagAccess (fget dr.toNat 59 32) (fget dr.toNat 31 0) (bitOf dr.toNat 63) else c))

/-- JTAG_BYPASS (R576): also every code that names no instruction. -/
def execJtagBypass (code : BitVec 8) (s : State) : Result := .next (s.onChip (fun c => c.tap code.toNat 0))

/-! The fibre receptacles (R579). -/

/-- MPO_PLUG_REMOVE (R579): the fibres of the four ports of Ei go dark, and the ports down under code 0x1. -/
def execMpoPlugRemove (e : Fin 4) (s : State) : Result :=
  .next (s.onChip (fun c =>
    if c.pins.plugs.contains e.val = false then c
    else
      let c := c.onPins (fun p => { p with plugs := p.plugs.filter (fun x => x != e.val) })
      c.each ((List.range 4).map (fun q => 4 * e.val + q)) (fun c j =>
        let c := if c.portUp j then c.portDown j 1 else if c.rd (R.EDGE_STATUS_STATE j) = 1 then c.wr (R.EDGE_STATUS_STATE j) 3 else c
        c.each (List.range 40) (fun c l => if c.portLane j l false = lsFENCED then c else c.setPortLane j l false lsOFF))))

/-- MPO_PLUG_SEAT (R579): training may start when light is present. -/
def execMpoPlugSeat (e : Fin 4) (s : State) : Result :=
  .next (s.onChip (fun c => if c.pins.plugs.contains e.val then c else c.onPins (fun p => { p with plugs := p.plugs ++ [e.val] })))

end Sys2Proof.Machine
end

