-- ==== Sys2Proof/Machine/RiscV.lean ====
section
/-! DEFINITION. The standard instructions of a thread: RV32I, M, F, Zicsr, Zfh, Zfbfmin, Zifencei, Zicntr (R311, R312). -/

namespace Sys2Proof.Machine

/-! Fields of an instruction word. -/

def iOpcode (w : Nat) : Nat := fget w 6 0
def iRd (w : Nat) : Nat := fget w 11 7
def iF3 (w : Nat) : Nat := fget w 14 12
def iRs1 (w : Nat) : Nat := fget w 19 15
def iRs2 (w : Nat) : Nat := fget w 24 20
def iF7 (w : Nat) : Nat := fget w 31 25

/-- Immediates, sign-extended to 32 bits. -/
def immI (w : Nat) : Nat := ofSigned 32 (toSigned 12 (fget w 31 20))
def immS (w : Nat) : Nat := ofSigned 32 (toSigned 12 (fget w 31 25 * 32 + fget w 11 7))
def immB (w : Nat) : Nat := ofSigned 32 (toSigned 13 (fget w 31 31 * 4096 + fget w 7 7 * 2048 + fget w 30 25 * 32 + fget w 11 8 * 2))
def immU (w : Nat) : Nat := fget w 31 12 * 4096
def immJ (w : Nat) : Nat := ofSigned 32 (toSigned 21 (fget w 31 31 * 2 ^ 20 + fget w 19 12 * 4096 + fget w 20 20 * 2048 + fget w 30 21 * 2))

/-- Addition and subtraction of 32-bit words. -/
def add32 (a b : Nat) : Nat := (a + b) % 2 ^ 32
def sub32 (a b : Nat) : Nat := subMod 32 a b

/-- The arithmetic of OP and OP-IMM, by funct3; `alt` is bit 30 (R311: RV32I). -/
def aluOp (f3 : Nat) (alt : Bool) (a b : Nat) : Nat :=
  let sh := b % 32
  if f3 = 0 then (if alt then sub32 a b else add32 a b)
  else if f3 = 1 then a * 2 ^ sh % 2 ^ 32
  else if f3 = 2 then b2n (decide (toSigned 32 a < toSigned 32 b))
  else if f3 = 3 then b2n (decide (a < b))
  else if f3 = 4 then Nat.xor a b
  else if f3 = 5 then (if alt then ofSigned 32 (toSigned 32 a / ((2 ^ sh : Nat) : Int)) else a / 2 ^ sh)
  else if f3 = 6 then Nat.lor a b
  else Nat.land a b

/-- Multiplication and division, by funct3 (R311: M). -/
def mulOp (f3 a b : Nat) : Nat :=
  let sa := toSigned 32 a
  let sb := toSigned 32 b
  if f3 = 0 then a * b % 2 ^ 32
  else if f3 = 1 then ofSigned 32 (sa * sb / ((2 ^ 32 : Nat) : Int))
  else if f3 = 2 then ofSigned 32 (sa * (b : Int) / ((2 ^ 32 : Nat) : Int))
  else if f3 = 3 then a * b / 2 ^ 32
  else if f3 = 4 then (if b = 0 then 2 ^ 32 - 1 else ofSigned 32 (sa.tdiv sb))
  else if f3 = 5 then (if b = 0 then 2 ^ 32 - 1 else a / b)
  else if f3 = 6 then (if b = 0 then a else ofSigned 32 (sa.tmod sb))
  else if b = 0 then a else a % b

/-- The condition of a branch; none for a reserved funct3. -/
def branchTaken (f3 a b : Nat) : Option Bool :=
  if f3 = 0 then some (a == b) else if f3 = 1 then some (a != b)
  else if f3 = 4 then some (decide (toSigned 32 a < toSigned 32 b)) else if f3 = 5 then some (decide (toSigned 32 b ≤ toSigned 32 a))
  else if f3 = 6 then some (decide (a < b)) else if f3 = 7 then some (decide (b ≤ a)) else none

/-- A jump: a target that is not a multiple of 4 is an instruction access fault. -/
def State.jump (s : State) (i : Issue) (t : Thread) (target : Nat) : State :=
  if target % 4 ≠ 0 then s.raise i 2 target else s.putThread i { t with pc := target, retired := t.retired + 1 }

/-! CSRs (R311, R312). -/

/-- The value of a CSR that a thread may read; none for another. A read of cycle draws a free value. -/
def Chip.csrRead (c : Chip) (i : Issue) (n : Nat) : Option (Nat × Chip) :=
  let b := i.b
  let t := i.t
  let cyc := Config.coreCycle c.drawn
  let drawn : Chip := { c with drawn := c.drawn + 1 }
  if n = 1 then some (fget t.fcsr 4 0, c) else if n = 2 then some (fget t.fcsr 7 5, c) else if n = 3 then some (t.fcsr, c)
  else if n = 0xC00 then some (cyc % 2 ^ 32, drawn) else if n = 0xC80 then some (cyc / 2 ^ 32 % 2 ^ 32, drawn)
  else if n = 0xC01 then some (c.now % 2 ^ 32, c) else if n = 0xC81 then some (c.now / 2 ^ 32 % 2 ^ 32, c)
  else if n = 0xC02 then some (t.retired % 2 ^ 32, c) else if n = 0xC82 then some (t.retired / 2 ^ 32 % 2 ^ 32, c)
  else if n = 0xCC0 then some (i.at_.tid, c) else if n = 0xCC1 then some (b.bid, c) else if n = 0xCC2 then some (b.bdim, c)
  else if n = 0xCC3 then some (b.core + 256 * (16 * (b.core / 17) + c.rd (R.CMP_CORE_STATE_LOGICAL b.die b.core) % 16) + 65536 * b.die, c)
  else if n = 0xCC4 then some (b.scratch, c)
  else if n = 0xCC5 then some (c.node + 65536 * b.tenant, c)
  else if n = 0xCC6 then some (t.farErr, c) else none

/-- A write of one of the floating-point CSRs. -/
def Thread.csrWrite (t : Thread) (n v : Nat) : Thread :=
  if n = 1 then { t with fcsr := fset t.fcsr 4 0 (v % 32) } else if n = 2 then { t with fcsr := fset t.fcsr 7 5 (v % 8) }
  else { t with fcsr := v % 256 }

/-- SYSTEM (R311, R312, R333). -/
def State.system (s : State) (i : Issue) (w : Nat) : State :=
  let f3 := iF3 w
  if f3 = 0 then
    if w = 0x00100073 ∧ s.chip.on (R.CMP_CORE_CTRL_BREAK_HALT i.at_.d i.at_.k) then
      (s.putThread i i.t.goOn).onChip (fun c => c.wr (R.CMP_CORE_STATE_STATE i.at_.d i.at_.k) 4)
    else s.raise i 1 0
  else if f3 = 4 then s.raise i 1 0
  else
    let n := fget w 31 20
    let src := if 4 ≤ f3 then iRs1 w else i.t.rx (iRs1 w)
    let writes := f3 % 4 == 1 || iRs1 w != 0
    match s.chip.csrRead i n with
    | none => s.raise i 1 0
    | some (old, c) =>
      if writes ∧ 0xC00 ≤ n then s.raise i 1 0
      else
        let v := if f3 % 4 = 1 then src else if f3 % 4 = 2 then Nat.lor old src else old - Nat.land old src
        let t := if writes then i.t.csrWrite n v else i.t
        ({ s with chip := c }).putThread i (t.goOn.wx (iRd w) old)

/-! Floating point (R311: F, Zfh, Zfbfmin). -/

/-- The format of an fmt field; none for a reserved one. -/
def fmtOf (n : Nat) : Option Fmt := if n = 0 then some fp32 else if n = 2 then some fp16 else none

/-- An operand of a format: one of 16 bits that is not NaN-boxed is the canonical NaN. -/
def Thread.fin (t : Thread) (f : Fmt) (n : Nat) : Nat :=
  let v := t.rf n
  if f.width = 32 then v else if v / 65536 = 0xFFFF then v % 65536 else f.qnan

/-- A result of a format, NaN-boxed where it has 16 bits. -/
def Thread.fout (t : Thread) (f : Fmt) (n v : Nat) : Thread := t.wf n (if f.width = 32 then v else 0xFFFF0000 + v)

/-- The rounding mode of an instruction: its rm field, or frm. -/
def Thread.rmOf (t : Thread) (w : Nat) : Option Rm := if iF3 w = 7 then t.dynRm else Rm.ofCode (iF3 w)

/-- A value with its sign changed. -/
def Fmt.flip (f : Fmt) (v : Nat) : Nat := Nat.xor v f.signBit

/-- The fused multiply-adds: opcode 0x43 FMADD, 0x47 FMSUB, 0x4B FNMSUB, 0x4F FNMADD. -/
def fusedOp (op : Nat) (f : Fmt) (rm : Rm) (a b c : Nat) : Nat × FFlags :=
  let a' := if op = 0x4B ∨ op = 0x4F then f.flip a else a
  let c' := if op = 0x47 ∨ op = 0x4F then f.flip c else c
  f.fma rm a' b c'

/-- Sign injection, by funct3; none for a reserved one. -/
def signInject (f : Fmt) (f3 a b : Nat) : Option Nat :=
  let mag := a % f.signBit
  if f3 = 0 then some (f.signed (f.isNeg b) mag) else if f3 = 1 then some (f.signed (!f.isNeg b) mag)
  else if f3 = 2 then some (f.signed (f.isNeg a != f.isNeg b) mag) else none

/-- The source format of a conversion between formats, by the rs2 field and the destination's fmt (Zfh, Zfbfmin), and its destination. -/
def convPair (fmt rs2 : Nat) : Option (Fmt × Fmt) :=
  if fmt = 0 ∧ rs2 = 2 then some (fp16, fp32) else if fmt = 2 ∧ rs2 = 0 then some (fp32, fp16)
  else if fmt = 0 ∧ rs2 = 6 then some (bf16, fp32) else if fmt = 2 ∧ rs2 = 8 then some (fp32, bf16) else none

/-- OP-FP: the thread after the instruction; none where the encoding is not of R311. -/
def Thread.opFp (t : Thread) (w : Nat) : Option Thread :=
  match fmtOf (iF7 w % 4) with
  | none => none
  | some f =>
    let a := t.fin f (iRs1 w)
    let b := t.fin f (iRs2 w)
    let f3 := iF3 w
    let r2 := iRs2 w
    let rd := iRd w
    let rounded := fun (op : Rm → Nat × FFlags) => (t.rmOf w).map (fun rm => ((t.fout f rd (op rm).1).accrue (op rm).2))
    match iF7 w / 4 with
    | 0x00 => rounded (fun rm => f.add rm a b)
    | 0x01 => rounded (fun rm => f.sub rm a b)
    | 0x02 => rounded (fun rm => f.mul rm a b)
    | 0x03 => rounded (fun rm => f.div rm a b)
    | 0x0B => if r2 = 0 then rounded (fun rm => f.sqrt rm a) else none
    | 0x04 => (signInject f f3 a b).map (fun v => t.fout f rd v)
    | 0x05 => if f3 < 2 then (let r := f.extremumNum (f3 == 1) a b
                              some ((t.fout f rd r.1).accrue r.2)) else none
    | 0x08 => (convPair (iF7 w % 4) r2).bind (fun p => (t.rmOf w).map (fun rm =>
        let r := Fmt.conv p.1 p.2 rm (t.fin p.1 (iRs1 w))
        (t.fout p.2 rd r.1).accrue r.2))
    | 0x14 => if f3 < 3 then (let r := f.compare f3 a b
                              some ((t.wx rd (b2n r.1)).accrue r.2)) else none
    | 0x18 => if r2 < 2 then (t.rmOf w).map (fun rm =>
        let r := f.toInt rm 32 (r2 == 0) a
        (t.wx rd (ofSigned 32 r.1)).accrue r.2) else none
    | 0x1A => if r2 < 2 then (t.rmOf w).map (fun rm =>
        let x := t.rx (iRs1 w)
        let r := f.ofInt rm (if r2 = 0 then toSigned 32 x else (x : Int))
        (t.fout f rd r.1).accrue r.2) else none
    | 0x1C =>
      if r2 = 0 ∧ f3 = 0 then some (t.wx rd (if f.width = 32 then t.rf (iRs1 w) else ofSigned 32 (toSigned 16 (t.rf (iRs1 w) % 65536))))
      else if r2 = 0 ∧ f3 = 1 then some (t.wx rd (f.classify a)) else none
    | 0x1E => if r2 = 0 ∧ f3 = 0 then some (t.fout f rd (t.rx (iRs1 w) % 2 ^ f.width)) else none
    | _ => none

/-- Whether a word of the custom-0 or custom-1 opcode is one of the Ablyn instructions (R317, R318). -/
def isAblyn (w : Nat) : Bool :=
  let f3 := iF3 w
  let f7 := iF7 w
  if iOpcode w = 0x0B then
    if f3 = 4 then decide (f7 < 16)
    else if f3 = 6 then [0, 1, 2, 4, 8, 0x10, 0x11, 0x12, 0x48, 0x51].contains f7
    else f7 == 0
  else if f3 = 2 ∨ f3 = 3 then f7 % 4 == 0
  else f3 == 7 && f7 % 4 == 0 && decide (f7 ≤ 0x38) && (f7 != 0x14 || iRs2 w == 0)

/-- One instruction of a thread (R311). A word that R311 does not define raises an illegal-instruction exception; an Ablyn instruction is a command of its own. -/
def State.riscv (s : State) (i : Issue) (w : Nat) : State :=
  let t := i.t
  let f3 := iF3 w
  let f7 := iF7 w
  let rd := iRd w
  let a := t.rx (iRs1 w)
  let b := t.rx (iRs2 w)
  let bad := s.raise i 1 0
  let go := fun (t : Thread) => s.putThread i t.goOn
  match iOpcode w with
  | 0x37 => go (t.wx rd (immU w))
  | 0x17 => go (t.wx rd (add32 t.pc (immU w)))
  | 0x6F => s.jump i (t.wx rd (add32 t.pc 4)) (add32 t.pc (immJ w))
  | 0x67 => if f3 = 0 then s.jump i (t.wx rd (add32 t.pc 4)) (add32 a (immI w) / 2 * 2) else bad
  | 0x63 => match branchTaken f3 a b with
    | some true => s.jump i t (add32 t.pc (immB w))
    | some false => go t
    | none => bad
  | 0x03 =>
    let x := add32 a (immI w)
    let ld := fun (n : Nat) (sg : Bool) => s.threadLoad i x n (.load rd n sg) (fun t v => t.wx rd (loadValue n sg v))
    if f3 = 0 then ld 1 true else if f3 = 1 then ld 2 true else if f3 = 2 then ld 4 false else if f3 = 4 then ld 1 false else if f3 = 5 then ld 2 false else bad
  | 0x23 =>
    let x := add32 a (immS w)
    if f3 = 0 then s.threadStore i x 1 (b % 256) else if f3 = 1 then s.threadStore i x 2 (b % 65536) else if f3 = 2 then s.threadStore i x 4 b else bad
  | 0x13 =>
    if f3 = 1 ∧ f7 ≠ 0 then bad
    else if f3 = 5 ∧ f7 ≠ 0 ∧ f7 ≠ 0x20 then bad
    else go (t.wx rd (aluOp f3 (f3 == 5 && f7 == 0x20) a (immI w)))
  | 0x33 =>
    if f7 = 1 then go (t.wx rd (mulOp f3 a b))
    else if f7 = 0 then go (t.wx rd (aluOp f3 false a b))
    else if f7 = 0x20 ∧ (f3 = 0 ∨ f3 = 5) then go (t.wx rd (aluOp f3 true a b))
    else bad
  | 0x0F => if f3 ≤ 1 then go t else bad
  | 0x73 => s.system i w
  | 0x07 =>
    let x := add32 a (immI w)
    let ld := fun (n : Nat) => s.threadLoad i x n (.loadF rd n) (fun t v => t.wf rd (loadFValue n v))
    if f3 = 1 then ld 2 else if f3 = 2 then ld 4 else bad
  | 0x27 =>
    let x := add32 a (immS w)
    if f3 = 1 then s.threadStore i x 2 (t.rf (iRs2 w) % 65536) else if f3 = 2 then s.threadStore i x 4 (t.rf (iRs2 w)) else bad
  | 0x53 => match t.opFp w with
    | some t => go t
    | none => bad
  | 0x0B => if isAblyn w then s else bad
  | 0x2B => if isAblyn w then s else bad
  | op =>
    if op = 0x43 ∨ op = 0x47 ∨ op = 0x4B ∨ op = 0x4F then
      match fmtOf (f7 % 4), t.rmOf w with
      | some f, some rm =>
        let r := fusedOp op f rm (t.fin f (iRs1 w)) (t.fin f (iRs2 w)) (t.fin f (f7 / 4))
        go ((t.fout f rd r.1).accrue r.2)
      | _, _ => bad
    else bad

/-- THREAD_INSTRUCTION (R311): a thread executes the instruction `w` that the fetch at its pc gives it; the instruction cache does not follow writes (R313). -/
def execThreadInstruction (die : Fin 8) (core : Fin 136) (slot : Fin 64) (tid : Fin 2048) (w : BitVec 32) (s : State) : Result :=
  .next (s.issue die.val core.val slot.val tid.val (fun s i => s.riscv i w.toNat))

end Sys2Proof.Machine
end

