-- ==== Sys2Proof/Machine/RowBoundary.lean ====
section
/-! DEFINITION. The row boundary: what the package does when a row ends, in the order of R175. -/

namespace Sys2Proof.Machine

/-- The row number goes on by one: its counter has 48 bits, and T, whose 64 bits it is div 1,024, six more (R294). -/
def Chip.nextRow (c : Chip) : Chip := { c with row := (c.row + 1) % 2 ^ 48, epoch := (c.epoch + (c.row + 1) / 2 ^ 48) % 64, cyc := 0 }

/-- Operating seconds count while PWR_GOOD is high (R544); a row lasts 1,024 ns. -/
def Chip.countSeconds (c : Chip) : Chip :=
  if !c.pins.pwrGood then c
  else if 1000000000 ≤ c.evr.nanos + 1024 then (c.count R.EVR_OP_SECS_COUNT).onEvr (fun x => { x with nanos := x.nanos + 1024 - 1000000000 })
  else c.onEvr (fun x => { x with nanos := x.nanos + 1024 })

/-- Steps 1 to 3: frogs, substitutions, light-source steps, circuit pattern changes (R175, R462). -/
def Chip.boundaryStart (c : Chip) : Chip := ((c.onPart (fun y => { y with park := [] })).frogStep.sparingStep.lightStep.patternStep).parkStep c.part.park

/-- Step 4: lanes leaving for, or returning from, Cal and Test, and the moves of port lanes (R104, R139, R215 to R217); the searches of rings go on by a row (R92). -/
def Chip.boundaryLanes (c : Chip) (raw edgeRaw : List (Nat × List Bool)) : Chip := ((((c.calStep.patStep raw).edgeStep.dealStep).edgePatStep edgeRaw).searchStep).linkStep

/-- Step 5, after the leases that the new row ends (R289): W-class fields, and what follows from register fields at a boundary: gates, routes, port assignments, a waiting step of T. A run request that found its flow full tries again. -/
def Chip.boundaryFields (c : Chip) : Chip :=
  (c.leaseStep.applyFields.gateStep.reachAgain.detourRecheck.netAckStep.assignStep.retryRuns).timeStepNow

/-- Step 7: voltage-only steps, then frequency changes (R175, R502, R516). -/
def Chip.boundaryClocks (c : Chip) : Chip := c.trimStep.fchgStep

/-- Partials held when RED.CFG.COMBINE_EN reads 0 at a boundary are released (RED.CFG). -/
def State.combineOff (s : State) (ecc : Nat) : State :=
  if s.chip.on R.RED_CFG_COMBINE_EN then s else (List.range 12).foldl (fun s u => s.flushUnit u ecc (fun _ => true)) s

/-- The temperature readings of calibration groups: site, group, reading in 0.125 °C (R91, R100, TNS.GROUP_TEMP). -/
def Chip.readings (c : Chip) (l : List (Fin 24 × Fin 42 × BitVec 16)) : Chip :=
  c.each (l.filter (fun x => decide (x.2.1.val < groupsOf x.1.val))) (fun c x => c.groupRow x.1.val x.2.1.val x.2.2.toInt)

/-- What was noted at cycle 2,000 of the row that has ended is forgotten. -/
def Chip.forgetMarker (c : Chip) : Chip := (c.onCirc (fun x => { x with drainedAt := none })).onEdge (fun y => { y with freedMark := none })

/-- Every report that can be delivered is. -/
def State.deliverReports (s : State) : State := s.chip.reports.foldl (fun s _ => s.deliverReport) s

/-- What the package does at a row boundary, on the package alone. -/
def Chip.boundary (c : Chip) (t : Telemetry) (temps : List (Fin 24 × Fin 42 × BitVec 16)) (raw edgeRaw : List (Nat × List Bool)) : Chip :=
  let c := (((c.nextRow.readFallbackLight t.fb0 t.fb1).boundaryStart.boundaryLanes raw edgeRaw).boundaryFields.newCalendars.boundaryClocks.powerStep t).readings temps
  (c.gaugeStep.purgeDead.lostSkeinStep.sendNotices).countSeconds.forgetMarker

/-- ROW_BOUNDARY (R175): a row ends. `t` is what the power manager measures in the row, `temps` what calibration groups read, `raw` and `edgeRaw` the bits
that came in the row on the lanes of pattern runs of sites and ports (none: as sent), `ecc` what the read of the first landing of a released partial finds. Without effect while rows do not run. -/
def execRowBoundary (t : Telemetry) (temps : List (Fin 24 × Fin 42 × BitVec 16)) (raw : List (Fin 24 × List Bool)) (edgeRaw : List (Fin 16 × List Bool)) (ecc : Fin 3) (s : State) : Result :=
  .next (
    if !s.chip.rowsRun then s
    else ((s.onChip (fun c => c.boundary t temps (raw.map (fun x => (x.1.val, x.2))) (edgeRaw.map (fun x => (x.1.val, x.2))))).combineOff ecc.val).deliverReports)

end Sys2Proof.Machine
end

