-- ==== Sys2Proof/Machine/TimeExch.lean ====
section
/-! DEFINITION. Sending and receiving TIME_EXCH stitches on a port (R238, R296). -/

namespace Sys2Proof.Machine

/-- TIME_EXCH_SEND (R296): every EXCH_ROWS rows a port end sends its times on lane 39. `ttx` and `trx` are its captures, in 1/16 ns, of the reference points of its own row
`rs` and of its partner's row `rp`. -/
def execTimeExchSend (j : Fin 16) (ttx : BitVec 64) (rs : BitVec 48) (trx : BitVec 64) (rp : BitVec 48) (s : State) : Result :=
  .next (s.onChip (fun c =>
    let due : Bool := match getKey j.val c.time.sentRow with
      | some r => decide (r + c.exchRows ≤ c.row)
      | none => true
    if c.portUp j.val ∧ due then
      let c := c.onTime (fun x => { x with sentRow := putKey j.val c.row x.sentRow })
      c.sendOnPort j.val (c.ctrlStitch (c.partnerNode j.val) 6 (c.timeExchData j.val ttx.toNat rs.toNat trx.toNat rp.toNat))
    else c))

/-- TIME_EXCH_ARRIVAL (R297): `t2` and `t3` are the package's own captures, in 1/16 ns, of the partner's reference point and of its own that the partner names. -/
def execTimeExchArrival (j : Fin 16) (st : Stitch) (t2 t3 : BitVec 64) (s : State) : Result :=
  .next (s.onChip (fun c => c.timeExch j.val st t2.toNat t3.toNat (c.rd R.PCU_CASTON_STEP == 12)))

end Sys2Proof.Machine
end

