-- ==== Sys2Proof/Machine/Dispatch.lean ====
section
/-! DEFINITION. The dispatch of the commands: one arm for each constructor of Instr. -/

namespace Sys2Proof.Machine

def exec (i : Instr) (s : State) : Host.Outcome State Fault Refusal :=
  match i with
  | .registerWrite req off v whole => Sys2Proof.Machine.execRegisterWrite req off v whole s
  | .loReadLatch req off => Sys2Proof.Machine.execLoReadLatch req off s
  | .rcRead req off whole => Sys2Proof.Machine.execRcRead req off whole s
  | .mirrorDataRead req => Sys2Proof.Machine.execMirrorDataRead req s
  | .aliasWrite req off v => Sys2Proof.Machine.execAliasWrite req off v s
  | .aliasRead req off => Sys2Proof.Machine.execAliasRead req off s
  | .rowBoundary t temps raw edgeRaw ecc => Sys2Proof.Machine.execRowBoundary t temps raw edgeRaw ecc s
  | .emulatedAccessTimeout => Sys2Proof.Machine.execEmulatedAccessTimeout s
  | .laneFence t => Sys2Proof.Machine.execLaneFence t s
  | .receiverReacquired site plane rx => Sys2Proof.Machine.execReceiverReacquired site plane rx s
  | .substGo req site v => Sys2Proof.Machine.execSubstGo req site v s
  | .substRestore req site v => Sys2Proof.Machine.execSubstRestore req site v s
  | .detectHoldEnd lost => Sys2Proof.Machine.execDetectHoldEnd lost s
  | .lineFlag line => Sys2Proof.Machine.execLineFlag line s
  | .lightDip => Sys2Proof.Machine.execLightDip s
  | .spacingLockLost comb => Sys2Proof.Machine.execSpacingLockLost comb s
  | .combLossDeclared => Sys2Proof.Machine.execCombLossDeclared s
  | .fallbackEntryEnd unlocked => Sys2Proof.Machine.execFallbackEntryEnd unlocked s
  | .standbyReady comb mhz => Sys2Proof.Machine.execStandbyReady comb mhz s
  | .standbyLost comb => Sys2Proof.Machine.execStandbyLost comb s
  | .combRestart comb => Sys2Proof.Machine.execCombRestart comb s
  | .restartTimeout comb => Sys2Proof.Machine.execRestartTimeout comb s
  | .lsuSwap req v => Sys2Proof.Machine.execLsuSwap req v s
  | .lsuReturn req v => Sys2Proof.Machine.execLsuReturn req v s
  | .lsuRestart req v => Sys2Proof.Machine.execLsuRestart req v s
  | .lsuCtrlPendingRun => Sys2Proof.Machine.execLsuCtrlPendingRun s
  | .returnCommit failed => Sys2Proof.Machine.execReturnCommit failed s
  | .darkMode => Sys2Proof.Machine.execDarkMode s
  | .loopVisit site plane d k e p => Sys2Proof.Machine.execLoopVisit site plane d k e p s
  | .ringLossOfLock site plane d k => Sys2Proof.Machine.execRingLossOfLock site plane d k s
  | .acquireTimeout site plane d k => Sys2Proof.Machine.execAcquireTimeout site plane d k s
  | .engineFail site plane => Sys2Proof.Machine.execEngineFail site plane s
  | .swatchReq req site v => Sys2Proof.Machine.execSwatchReq req site v s
  | .edgeTrigger site plane d k => Sys2Proof.Machine.execEdgeTrigger site plane d k s
  | .triggerIntervalExpiry site group => Sys2Proof.Machine.execTriggerIntervalExpiry site group s
  | .swatchStart => Sys2Proof.Machine.execSwatchStart s
  | .swatchEnd site plane k measured => Sys2Proof.Machine.execSwatchEnd site plane k measured s
  | .swatchLeaseAbandon site plane k => Sys2Proof.Machine.execSwatchLeaseAbandon site plane k s
  | .gaugeGo req site v dev failed => Sys2Proof.Machine.execGaugeGo req site v dev failed s
  | .gaugePeriodic devs failed power => Sys2Proof.Machine.execGaugePeriodic devs failed power s
  | .frameSend ln slot => Sys2Proof.Machine.execFrameSend ln slot s
  | .frameReceive ln f pos words => Sys2Proof.Machine.execFrameReceive ln f pos words s
  | .nakRepeatTimeout ln => Sys2Proof.Machine.execNakRepeatTimeout ln s
  | .gobackTimeout ln => Sys2Proof.Machine.execGobackTimeout ln s
  | .rowMarkerReceive ln m arrived => Sys2Proof.Machine.execRowMarkerReceive ln m arrived s
  | .linkAckMessage lane => Sys2Proof.Machine.execLinkAckMessage lane s
  | .laneUp lane => Sys2Proof.Machine.execLaneUp lane s
  | .trainingTimeout lane => Sys2Proof.Machine.execTrainingTimeout lane s
  | .patternGo req site v => Sys2Proof.Machine.execPatternGo req site v s
  | .patternStop req site v => Sys2Proof.Machine.execPatternStop req site v s
  | .injectGo req site v => Sys2Proof.Machine.execInjectGo req site v s
  | .stitchEntry site ctx top req => Sys2Proof.Machine.execStitchEntry site ctx top req s
  | .stitchArrival site plane k ecc st => Sys2Proof.Machine.execStitchArrival site plane k ecc st s
  | .ackSend site => Sys2Proof.Machine.execAckSend site s
  | .answerArrival site plane k st => Sys2Proof.Machine.execAnswerArrival site plane k st s
  | .e2eTimeout site node tenant seq => Sys2Proof.Machine.execE2eTimeout site node tenant seq s
  | .creditReturn src dst pool => Sys2Proof.Machine.execCreditReturn src dst pool s
  | .msgTimeout site => Sys2Proof.Machine.execMsgTimeout site s
  | .streamResult site node tenant seq => Sys2Proof.Machine.execStreamResult site node tenant seq s
  | .rqCfgWrite req site q base v => Sys2Proof.Machine.execRqCfgWrite req site q base v s
  | .shareWrite req t v => Sys2Proof.Machine.execShareWrite req t v s
  | .armGo req t v => Sys2Proof.Machine.execArmGo req t v s
  | .armCancel req t v => Sys2Proof.Machine.execArmCancel req t v s
  | .patternTrigger t => Sys2Proof.Machine.execPatternTrigger t s
  | .patternApply t => Sys2Proof.Machine.execPatternApply t s
  | .allotWrite req e v => Sys2Proof.Machine.execAllotWrite req e v s
  | .patWrite req p e v => Sys2Proof.Machine.execPatWrite req p e v s
  | .runRequest site ctx req src srcLocal => Sys2Proof.Machine.execRunRequest site ctx req src srcLocal s
  | .runWaitTimeout site => Sys2Proof.Machine.execRunWaitTimeout site s
  | .runComplete site e runNo => Sys2Proof.Machine.execRunComplete site e runNo s
  | .redeal e k => Sys2Proof.Machine.execRedeal e k s
  | .portAssignGo req j v agreed => Sys2Proof.Machine.execPortAssignGo req j v agreed s
  | .portLightDrop j dataIn loIn => Sys2Proof.Machine.execPortLightDrop j dataIn loIn s
  | .portLightReturn j dataIn loIn => Sys2Proof.Machine.execPortLightReturn j dataIn loIn s
  | .portDown j code => Sys2Proof.Machine.execPortDown j code s
  | .portStateArrival st => Sys2Proof.Machine.execPortStateArrival st s
  | .recordWaitTimeout j => Sys2Proof.Machine.execRecordWaitTimeout j s
  | .portTrainStart j dataIn loIn => Sys2Proof.Machine.execPortTrainStart j dataIn loIn s
  | .portUp j node site port maxLevel minLevel bad => Sys2Proof.Machine.execPortUp j node site port maxLevel minLevel bad s
  | .portTrainTimeout j => Sys2Proof.Machine.execPortTrainTimeout j s
  | .portRetrain req j v => Sys2Proof.Machine.execPortRetrain req j v s
  | .portDownCmd req j v => Sys2Proof.Machine.execPortDownCmd req j v s
  | .spareReq j lane carrier row => Sys2Proof.Machine.execSpareReq j lane carrier row s
  | .spareGrant j lane carrier row => Sys2Proof.Machine.execSpareGrant j lane carrier row s
  | .spareRefuse j lane carrier row => Sys2Proof.Machine.execSpareRefuse j lane carrier row s
  | .txFault j lane => Sys2Proof.Machine.execTxFault j lane s
  | .calReq j lane carrier row => Sys2Proof.Machine.execCalReq j lane carrier row s
  | .calGrant j lane carrier row => Sys2Proof.Machine.execCalGrant j lane carrier row s
  | .calEnd j lane carrier row => Sys2Proof.Machine.execCalEnd j lane carrier row s
  | .redealLinkMessage j lane lastSeq runNo => Sys2Proof.Machine.execRedealLinkMessage j lane lastSeq runNo s
  | .edgePatternGo req j v => Sys2Proof.Machine.execEdgePatternGo req j v s
  | .edgeInjectGo req j v => Sys2Proof.Machine.execEdgeInjectGo req j v s
  | .edgeForward e node pool => Sys2Proof.Machine.execEdgeForward e node pool s
  | .escapeTimeout e node control => Sys2Proof.Machine.execEscapeTimeout e node control s
  | .detourTimeout node => Sys2Proof.Machine.execDetourTimeout node s
  | .depthPublish e => Sys2Proof.Machine.execDepthPublish e s
  | .nodeStateWrite req n v => Sys2Proof.Machine.execNodeStateWrite req n v s
  | .departureArrival j st => Sys2Proof.Machine.execDepartureArrival j st s
  | .departureDarkRow j => Sys2Proof.Machine.execDepartureDarkRow j s
  | .partialFlushTimeout unit ecc => Sys2Proof.Machine.execPartialFlushTimeout unit ecc s
  | .detWaitTimeout n ecc => Sys2Proof.Machine.execDetWaitTimeout n ecc s
  | .mcCopyPlace e => Sys2Proof.Machine.execMcCopyPlace e s
  | .redCtxAlloc src idx => Sys2Proof.Machine.execRedCtxAlloc src idx s
  | .redCtxFlush src idx => Sys2Proof.Machine.execRedCtxFlush src idx s
  | .redCtxFree src idx => Sys2Proof.Machine.execRedCtxFree src idx s
  | .mcAlloc src idx => Sys2Proof.Machine.execMcAlloc src idx s
  | .mcFree src idx => Sys2Proof.Machine.execMcFree src idx s
  | .mcSet src idx => Sys2Proof.Machine.execMcSet src idx s
  | .mcClear src idx => Sys2Proof.Machine.execMcClear src idx s
  | .syncRead st => Sys2Proof.Machine.execSyncRead st s
  | .syncAdd st => Sys2Proof.Machine.execSyncAdd st s
  | .syncSet st => Sys2Proof.Machine.execSyncSet st s
  | .syncArm st => Sys2Proof.Machine.execSyncArm st s
  | .syncWait st => Sys2Proof.Machine.execSyncWait st s
  | .syncArrive st => Sys2Proof.Machine.execSyncArrive st s
  | .syncSetParties st => Sys2Proof.Machine.execSyncSetParties st s
  | .syncAcquire st => Sys2Proof.Machine.execSyncAcquire st s
  | .syncRelease st => Sys2Proof.Machine.execSyncRelease st s
  | .syncRenew st => Sys2Proof.Machine.execSyncRenew st s
  | .countLanding site obj inc status => Sys2Proof.Machine.execCountLanding site obj inc status s
  | .waitLimit obj => Sys2Proof.Machine.execWaitLimit obj s
  | .leaseExpiry obj => Sys2Proof.Machine.execLeaseExpiry obj s
  | .lockAbandon obj => Sys2Proof.Machine.execLockAbandon obj s
  | .syncAlloc src idx => Sys2Proof.Machine.execSyncAlloc src idx s
  | .syncFree src idx => Sys2Proof.Machine.execSyncFree src idx s
  | .controlNetUncorr stop m => Sys2Proof.Machine.execControlNetUncorr stop m s
  | .timeExchSend j ttx rs trx rp => Sys2Proof.Machine.execTimeExchSend j ttx rs trx rp s
  | .timeExchArrival j st t2 t3 => Sys2Proof.Machine.execTimeExchArrival j st t2 t3 s
  | .holdoverTimeout => Sys2Proof.Machine.execHoldoverTimeout s
  | .objW0LoRead req => Sys2Proof.Machine.execObjW0LoRead req s
  | .epush die core slot tid rd rs1 rs2 => Sys2Proof.Machine.execEpush die core slot tid rd rs1 rs2 s
  | .epoll die core slot tid rd rs1 rs2 => Sys2Proof.Machine.execEpoll die core slot tid rd rs1 rs2 s
  | .ewait die core slot tid rd rs1 rs2 => Sys2Proof.Machine.execEwait die core slot tid rd rs1 rs2 s
  | .tbar die core slot tid => Sys2Proof.Machine.execTbar die core slot tid s
  | .fwset die core slot tid w rs1 rs2 => Sys2Proof.Machine.execFwset die core slot tid w rs1 rs2 s
  | .fenceG die core slot tid rd => Sys2Proof.Machine.execFenceG die core slot tid rd s
  | .sopRead die core slot tid rd rs1 => Sys2Proof.Machine.execSopRead die core slot tid rd rs1 s
  | .sopAdd die core slot tid rd rs1 rs2 => Sys2Proof.Machine.execSopAdd die core slot tid rd rs1 rs2 s
  | .sopSet die core slot tid rd rs1 rs2 => Sys2Proof.Machine.execSopSet die core slot tid rd rs1 rs2 s
  | .sopWait die core slot tid rd rs1 rs2 => Sys2Proof.Machine.execSopWait die core slot tid rd rs1 rs2 s
  | .sopArrive die core slot tid rd rs1 flag => Sys2Proof.Machine.execSopArrive die core slot tid rd rs1 flag s
  | .sopAcquire die core slot tid rd rs1 rs2 => Sys2Proof.Machine.execSopAcquire die core slot tid rd rs1 rs2 s
  | .sopRelease die core slot tid rd rs1 flag => Sys2Proof.Machine.execSopRelease die core slot tid rd rs1 flag s
  | .sopRenew die core slot tid rd rs1 rs2 => Sys2Proof.Machine.execSopRenew die core slot tid rd rs1 rs2 s
  | .texit die core slot tid => Sys2Proof.Machine.execTexit die core slot tid s
  | .amoW die core slot tid fn rd rs1 rs2 => Sys2Proof.Machine.execAmoW die core slot tid fn rd rs1 rs2 s
  | .amoD die core slot tid fn rd rs1 rs2 => Sys2Proof.Machine.execAmoD die core slot tid fn rd rs1 rs2 s
  | .faddDp die core slot tid rd rs1 rs2 => Sys2Proof.Machine.execFaddDp die core slot tid rd rs1 rs2 s
  | .fsubDp die core slot tid rd rs1 rs2 => Sys2Proof.Machine.execFsubDp die core slot tid rd rs1 rs2 s
  | .fmulDp die core slot tid rd rs1 rs2 => Sys2Proof.Machine.execFmulDp die core slot tid rd rs1 rs2 s
  | .fmacDp die core slot tid rd rs1 rs2 => Sys2Proof.Machine.execFmacDp die core slot tid rd rs1 rs2 s
  | .fdivDp die core slot tid rd rs1 rs2 => Sys2Proof.Machine.execFdivDp die core slot tid rd rs1 rs2 s
  | .fsqrtDp die core slot tid rd rs1 => Sys2Proof.Machine.execFsqrtDp die core slot tid rd rs1 s
  | .fminDp die core slot tid rd rs1 rs2 => Sys2Proof.Machine.execFminDp die core slot tid rd rs1 rs2 s
  | .fmaxDp die core slot tid rd rs1 rs2 => Sys2Proof.Machine.execFmaxDp die core slot tid rd rs1 rs2 s
  | .fcvtSDp die core slot tid rd rs1 => Sys2Proof.Machine.execFcvtSDp die core slot tid rd rs1 s
  | .fcvtDpS die core slot tid rd rs1 => Sys2Proof.Machine.execFcvtDpS die core slot tid rd rs1 s
  | .fcvtDpW die core slot tid rd rs1 => Sys2Proof.Machine.execFcvtDpW die core slot tid rd rs1 s
  | .fcvtWDp die core slot tid rd rs1 => Sys2Proof.Machine.execFcvtWDp die core slot tid rd rs1 s
  | .feqDp die core slot tid rd rs1 rs2 => Sys2Proof.Machine.execFeqDp die core slot tid rd rs1 rs2 s
  | .fltDp die core slot tid rd rs1 rs2 => Sys2Proof.Machine.execFltDp die core slot tid rd rs1 rs2 s
  | .fleDp die core slot tid rd rs1 rs2 => Sys2Proof.Machine.execFleDp die core slot tid rd rs1 rs2 s
  | .threadInstruction die core slot tid w => Sys2Proof.Machine.execThreadInstruction die core slot tid w s
  | .farAnswer die core slot tid => Sys2Proof.Machine.execFarAnswer die core slot tid s
  | .threadException die core slot tid cause addr => Sys2Proof.Machine.execThreadException die core slot tid cause addr s
  | .coreFault die core engine => Sys2Proof.Machine.execCoreFault die core engine s
  | .sramPageRetire die page => Sys2Proof.Machine.execSramPageRetire die page s
  | .qpFault die n => Sys2Proof.Machine.execQpFault die n s
  | .blockPlace src idx => Sys2Proof.Machine.execBlockPlace src idx s
  | .blockEnd die core slot => Sys2Proof.Machine.execBlockEnd die core slot s
  | .coreHalt req die core breakHalt => Sys2Proof.Machine.execCoreHalt req die core breakHalt s
  | .coreResume req die core breakHalt => Sys2Proof.Machine.execCoreResume req die core breakHalt s
  | .coreErrClear req die core breakHalt => Sys2Proof.Machine.execCoreErrClear req die core breakHalt s
  | .descriptorComplete die core q => Sys2Proof.Machine.execDescriptorComplete die core q s
  | .engineNop die core q => Sys2Proof.Machine.execEngineNop die core q s
  | .sfeExp die core => Sys2Proof.Machine.execSfeExp die core s
  | .sfeLn die core => Sys2Proof.Machine.execSfeLn die core s
  | .sfeRecip die core => Sys2Proof.Machine.execSfeRecip die core s
  | .sfeRsqrt die core => Sys2Proof.Machine.execSfeRsqrt die core s
  | .sfeSigmoid die core => Sys2Proof.Machine.execSfeSigmoid die core s
  | .sfeTanh die core => Sys2Proof.Machine.execSfeTanh die core s
  | .sfeGelu die core => Sys2Proof.Machine.execSfeGelu die core s
  | .sfeRowmax die core => Sys2Proof.Machine.execSfeRowmax die core s
  | .sfeExpsum die core => Sys2Proof.Machine.execSfeExpsum die core s
  | .sfeScale die core => Sys2Proof.Machine.execSfeScale die core s
  | .gather die core => Sys2Proof.Machine.execGather die core s
  | .scatter die core => Sys2Proof.Machine.execScatter die core s
  | .scatterAdd die core => Sys2Proof.Machine.execScatterAdd die core s
  | .dmeCopy die core n => Sys2Proof.Machine.execDmeCopy die core n s
  | .dmeReduce die core n => Sys2Proof.Machine.execDmeReduce die core n s
  | .dmeMcast die core n => Sys2Proof.Machine.execDmeMcast die core n s
  | .dmeStream die core n => Sys2Proof.Machine.execDmeStream die core n s
  | .dmeFill die core n => Sys2Proof.Machine.execDmeFill die core n s
  | .dmeAtomic die core n => Sys2Proof.Machine.execDmeAtomic die core n s
  | .mma die core => Sys2Proof.Machine.execMma die core s
  | .accLoad die core => Sys2Proof.Machine.execAccLoad die core s
  | .accStore die core => Sys2Proof.Machine.execAccStore die core s
  | .encode die core => Sys2Proof.Machine.execEncode die core s
  | .decode die core => Sys2Proof.Machine.execDecode die core s
  | .prune24 die core => Sys2Proof.Machine.execPrune24 die core s
  | .expand24 die core => Sys2Proof.Machine.execExpand24 die core s
  | .route die core => Sys2Proof.Machine.execRoute die core s
  | .patrolPass n corrected bad => Sys2Proof.Machine.execPatrolPass n corrected bad s
  | .recallTimeout site die line => Sys2Proof.Machine.execRecallTimeout site die line s
  | .zeroingDone frame => Sys2Proof.Machine.execZeroingDone frame s
  | .fillS site plane k ecc st => Sys2Proof.Machine.execFillS site plane k ecc st s
  | .fillM site plane k ecc st => Sys2Proof.Machine.execFillM site plane k ecc st s
  | .wb site plane k st => Sys2Proof.Machine.execWb site plane k st s
  | .recallInv site die line => Sys2Proof.Machine.execRecallInv site die line s
  | .recallShare site die line => Sys2Proof.Machine.execRecallShare site die line s
  | .recallResponse site die st => Sys2Proof.Machine.execRecallResponse site die st s
  | .rqPop die core q => Sys2Proof.Machine.execRqPop die core q s
  | .rqFree die core q v => Sys2Proof.Machine.execRqFree die core q v s
  | .hartFault die core => Sys2Proof.Machine.execHartFault die core s
  | .surpriseDown r => Sys2Proof.Machine.execSurpriseDown r s
  | .clkoutWrite req o v => Sys2Proof.Machine.execClkoutWrite req o v s
  | .clkoutPeriodEnd o => Sys2Proof.Machine.execClkoutPeriodEnd o s
  | .slotCfgWrite req sl v => Sys2Proof.Machine.execSlotCfgWrite req sl v s
  | .queueTailWrite req src v => Sys2Proof.Machine.execQueueTailWrite req src v s
  | .packetFetch src => Sys2Proof.Machine.execPacketFetch src s
  | .commandComplete src idx => Sys2Proof.Machine.execCommandComplete src idx s
  | .cmdNop src idx => Sys2Proof.Machine.execCmdNop src idx s
  | .launch src idx => Sys2Proof.Machine.execLaunch src idx s
  | .dma src idx => Sys2Proof.Machine.execDma src idx s
  | .wait src idx => Sys2Proof.Machine.execWait src idx s
  | .signal src idx => Sys2Proof.Machine.execSignal src idx s
  | .getVersion src idx => Sys2Proof.Machine.execGetVersion src idx s
  | .cqCreate src idx => Sys2Proof.Machine.execCqCreate src idx s
  | .cqDestroy src idx => Sys2Proof.Machine.execCqDestroy src idx s
  | .fmSend src idx => Sys2Proof.Machine.execFmSend src idx s
  | .installSave src idx => Sys2Proof.Machine.execInstallSave src idx s
  | .secKeySet src idx => Sys2Proof.Machine.execSecKeySet src idx s
  | .fwStage src idx => Sys2Proof.Machine.execFwStage src idx s
  | .fwCommit src idx => Sys2Proof.Machine.execFwCommit src idx s
  | .fwActivate src idx => Sys2Proof.Machine.execFwActivate src idx s
  | .fwRatchet src idx => Sys2Proof.Machine.execFwRatchet src idx s
  | .bindOff src idx => Sys2Proof.Machine.execBindOff src idx s
  | .bindOffGraceExpiry => Sys2Proof.Machine.execBindOffGraceExpiry s
  | .bindOffHostWaitExpiry => Sys2Proof.Machine.execBindOffHostWaitExpiry s
  | .pkgReset src idx => Sys2Proof.Machine.execPkgReset src idx s
  | .fmCmdArrival st => Sys2Proof.Machine.execFmCmdArrival st s
  | .noticeArrival st => Sys2Proof.Machine.execNoticeArrival st s
  | .emulatedAccess => Sys2Proof.Machine.execEmulatedAccess s
  | .authChallenge req v => Sys2Proof.Machine.execAuthChallenge req v s
  | .authVerify req v => Sys2Proof.Machine.execAuthVerify req v s
  | .authDrop req v => Sys2Proof.Machine.execAuthDrop req v s
  | .sessionExpiry n => Sys2Proof.Machine.execSessionExpiry n s
  | .nonceExpiry => Sys2Proof.Machine.execNonceExpiry s
  | .lockoutExpiry => Sys2Proof.Machine.execLockoutExpiry s
  | .bootRomStart => Sys2Proof.Machine.execBootRomStart s
  | .trialWatchdog => Sys2Proof.Machine.execTrialWatchdog s
  | .castOn step o => Sys2Proof.Machine.execCastOn step o s
  | .portWaitTimeout => Sys2Proof.Machine.execPortWaitTimeout s
  | .warmCastOn => Sys2Proof.Machine.execWarmCastOn s
  | .dumpDataRead req => Sys2Proof.Machine.execDumpDataRead req s
  | .partCreate src idx => Sys2Proof.Machine.execPartCreate src idx s
  | .partStart src idx => Sys2Proof.Machine.execPartStart src idx s
  | .partReset src idx => Sys2Proof.Machine.execPartReset src idx s
  | .partDestroy src idx => Sys2Proof.Machine.execPartDestroy src idx s
  | .partJoin src idx => Sys2Proof.Machine.execPartJoin src idx s
  | .partFrog src idx => Sys2Proof.Machine.execPartFrog src idx s
  | .partLeave src idx => Sys2Proof.Machine.execPartLeave src idx s
  | .partDigest src idx => Sys2Proof.Machine.execPartDigest src idx s
  | .partFence src idx => Sys2Proof.Machine.execPartFence src idx s
  | .frogArrival st => Sys2Proof.Machine.execFrogArrival st s
  | .frogEffect tenant => Sys2Proof.Machine.execFrogEffect tenant s
  | .frogAckArrival st => Sys2Proof.Machine.execFrogAckArrival st s
  | .frogAckTimeout tenant => Sys2Proof.Machine.execFrogAckTimeout tenant s
  | .frogDrainEnd tenant => Sys2Proof.Machine.execFrogDrainEnd tenant s
  | .digestComplete die => Sys2Proof.Machine.execDigestComplete die s
  | .fabricPllLoss => Sys2Proof.Machine.execFabricPllLoss s
  | .fchgAnnounce req d v => Sys2Proof.Machine.execFchgAnnounce req d v s
  | .fchgCancel req d v => Sys2Proof.Machine.execFchgCancel req d v s
  | .pllRelockDone what => Sys2Proof.Machine.execPllRelockDone what s
  | .relockTimeout r => Sys2Proof.Machine.execRelockTimeout r s
  | .muxHang r => Sys2Proof.Machine.execMuxHang r s
  | .domainReset req v => Sys2Proof.Machine.execDomainReset req v s
  | .regionalPllLoss r stopped => Sys2Proof.Machine.execRegionalPllLoss r stopped s
  | .refclkAbsent => Sys2Proof.Machine.execRefclkAbsent s
  | .refclkGapEnd => Sys2Proof.Machine.execRefclkGapEnd s
  | .refclkLost => Sys2Proof.Machine.execRefclkLost s
  | .gateWrite req hi v => Sys2Proof.Machine.execGateWrite req hi v s
  | .clusterGateWrite req d v => Sys2Proof.Machine.execClusterGateWrite req d v s
  | .pwrGet src idx => Sys2Proof.Machine.execPwrGet src idx s
  | .pwrCap src idx => Sys2Proof.Machine.execPwrCap src idx s
  | .pwrTarget src idx => Sys2Proof.Machine.execPwrTarget src idx s
  | .targetExpiry => Sys2Proof.Machine.execTargetExpiry s
  | .droopDetect r => Sys2Proof.Machine.execDroopDetect r s
  | .droopEnd r => Sys2Proof.Machine.execDroopEnd r s
  | .currentLimitTrip => Sys2Proof.Machine.execCurrentLimitTrip s
  | .brakeAssert => Sys2Proof.Machine.execBrakeAssert s
  | .brakeRelease => Sys2Proof.Machine.execBrakeRelease s
  | .ageingCheck d below => Sys2Proof.Machine.execAgeingCheck d below s
  | .undervoltage => Sys2Proof.Machine.execUndervoltage s
  | .powerFail => Sys2Proof.Machine.execPowerFail s
  | .zoneSample z temps => Sys2Proof.Machine.execZoneSample z temps s
  | .sensorBroken z sensor reading full => Sys2Proof.Machine.execSensorBroken z sensor reading full s
  | .criticalTrip z sensor reading full => Sys2Proof.Machine.execCriticalTrip z sensor reading full s
  | .thmTripAck src idx => Sys2Proof.Machine.execThmTripAck src idx s
  | .thmGet src idx => Sys2Proof.Machine.execThmGet src idx s
  | .coolantWarn lowFlow => Sys2Proof.Machine.execCoolantWarn lowFlow s
  | .flowStop => Sys2Proof.Machine.execFlowStop s
  | .leaseRenew unit passed => Sys2Proof.Machine.execLeaseRenew unit passed s
  | .pcuLeaseExpiry beat halted gap bad => Sys2Proof.Machine.execPcuLeaseExpiry beat halted gap bad s
  | .leaseRelease why beat gap bad => Sys2Proof.Machine.execLeaseRelease why beat gap bad s
  | .noTokenTimeout => Sys2Proof.Machine.execNoTokenTimeout s
  | .pcuStandbyReady unit ok gap bad => Sys2Proof.Machine.execPcuStandbyReady unit ok gap bad s
  | .debugHoldWrite req v => Sys2Proof.Machine.execDebugHoldWrite req v s
  | .eventRecord => Sys2Proof.Machine.execEventRecord s
  | .evrFreeze req v => Sys2Proof.Machine.execEvrFreeze req v s
  | .evrUnfreeze req v => Sys2Proof.Machine.execEvrUnfreeze req v s
  | .freezeTimeout => Sys2Proof.Machine.execFreezeTimeout s
  | .evrClear req v => Sys2Proof.Machine.execEvrClear req v s
  | .evrNvClear req v => Sys2Proof.Machine.execEvrNvClear req v s
  | .opSecsSave => Sys2Proof.Machine.execOpSecsSave s
  | .pwrGoodRise addr long => Sys2Proof.Machine.execPwrGoodRise addr long s
  | .pwrGoodFall => Sys2Proof.Machine.execPwrGoodFall s
  | .pkgResetAssert => Sys2Proof.Machine.execPkgResetAssert s
  | .pkgResetRelease => Sys2Proof.Machine.execPkgResetRelease s
  | .vioLoss => Sys2Proof.Machine.execVioLoss s
  | .prsntChange r present => Sys2Proof.Machine.execPrsntChange r present s
  | .perstRelease r => Sys2Proof.Machine.execPerstRelease r s
  | .mgmtRead off pec => Sys2Proof.Machine.execMgmtRead off pec s
  | .mgmtWrite off v pec => Sys2Proof.Machine.execMgmtWrite off v pec s
  | .recoveryWrite off bytes pec => Sys2Proof.Machine.execRecoveryWrite off bytes pec s
  | .recoveryEnd len pec => Sys2Proof.Machine.execRecoveryEnd len pec s
  | .i3cCcc ccc arg => Sys2Proof.Machine.execI3cCcc ccc arg s
  | .jtagExtest cells => Sys2Proof.Machine.execJtagExtest cells s
  | .jtagIdcode => Sys2Proof.Machine.execJtagIdcode s
  | .jtagSamplePreload cells => Sys2Proof.Machine.execJtagSamplePreload cells s
  | .jtagDtmcs v => Sys2Proof.Machine.execJtagDtmcs v s
  | .jtagDmi op addr data => Sys2Proof.Machine.execJtagDmi op addr data s
  | .jtagRecovery off bytes => Sys2Proof.Machine.execJtagRecovery off bytes s
  | .jtagPcs dr => Sys2Proof.Machine.execJtagPcs dr s
  | .jtagBypass code => Sys2Proof.Machine.execJtagBypass code s
  | .mpoPlugRemove e => Sys2Proof.Machine.execMpoPlugRemove e s
  | .mpoPlugSeat e => Sys2Proof.Machine.execMpoPlugSeat e s
  | .inboundDma r w a isWrite n data => Sys2Proof.Machine.execInboundDma r w a isWrite n data s
  | .pcieLinkUp r speed width flit device => Sys2Proof.Machine.execPcieLinkUp r speed width flit device s
  | .flowRestored => Sys2Proof.Machine.execFlowRestored s
  | .landingMergeEnd site obj => Sys2Proof.Machine.execLandingMergeEnd site obj s

end Sys2Proof.Machine
end

