-- ==== Sys2Proof/Machine/Step.lean ====
section
/-! DEFINITION. One step: the command at the front of the queue, or a fabric cycle when none waits. -/

namespace Sys2Proof.Machine

/-- A fabric cycle passes (500 ps): where rows run and the row has not come to its last cycle, the count of cycles in the row goes on (R294); at cycle 2,000 the circuits that are drained and the
credit words of the row's markers are noted (R184, R235). The end of a row is a command (ROW_BOUNDARY), for it needs what the sensors measure. -/
def Chip.tick (c : Chip) : Chip :=
  if c.rowsRun && decide (c.cyc + 1 < 2048) then (if c.cyc + 1 = 2000 then { c with cyc := c.cyc + 1 }.atMarker else { c with cyc := c.cyc + 1 }) else c

/-- One step: the command at the front of the queue has its effect with the queue's rest; with no command waiting a fabric cycle passes. -/
def step (s : State) : Host.Outcome State Fault Refusal :=
  match s.pending with
  | [] => .next { s with chip := s.chip.tick }
  | i :: rest => exec i { s with pending := rest }

/-- The state with the command that a word spells at the front of the queue; a word that spells none changes nothing. -/
def State.withFetchWord (s : State) (nbits w : Nat) : State :=
  match decodeTableWord nbits w with
  | some i => { s with pending := i :: s.pending }
  | none => s

end Sys2Proof.Machine
end

