-- ==== Sys2Proof/WellFormed.lean ====
section
/-! DEFINITION. What a command has to be to mean one thing: numbers within the fields that hold them, names of things that the package has. The meanings are total and cut a number to its field;
a sender of the real package cannot send more than a field holds. -/

namespace Sys2Proof

/-- Every number of a list is a byte. -/
def bytesOk (l : List Nat) : Bool := l.all (fun b => decide (b < 256))

/-- Every number fits the count of bits given with it. -/
def fits (l : List (Nat × Nat)) : Bool := l.all (fun x => decide (x.1 / 2 ^ x.2 = 0))

/-- At most `n` bytes. -/
def bytesWithin (n : Nat) (l : List Nat) : Bool := bytesOk l && (l.drop n).isEmpty

/-- Every field of a stitch lies within its width (R141), and DATA has at most 64 bytes. -/
def Stitch.wf (st : Stitch) : Bool :=
  bytesWithin 64 st.data
    && fits ([st.version].map (·, 4) ++ [st.dstNode, st.srcNode].map (·, 12) ++ [st.dstSite, st.srcSite, st.hops].map (·, 5) ++ [(st.tenant, 4), (st.cls, 3), (st.escape, 1), (st.rsv, 13)])
    && fits ([st.seq, st.sync].map (·, 16) ++ [st.start, st.countM1].map (·, 6) ++ [(st.opcode, 8), (st.cnt, 2), (st.opf, 10), (st.opspec, 18), (st.ppa, 46)] ++ [st.entryTs, st.check].map (·, 32))

/-- Every field of a frame lies within its width (R124), and its payload has at most 384 bytes. -/
def Frame.wf (f : Frame) : Bool :=
  bytesWithin 384 f.payload && fits ([f.ftype, f.flags, f.slot, f.rowTag].map (·, 8) ++ [f.seq, f.ack].map (·, 16) ++ [f.runCheck, f.crc].map (·, 32))

/-- Every field of a row marker lies within its width (R122, R206); its sync word takes at most 16 symbols. -/
def Marker.wf (m : Marker) : Bool :=
  bytesOk m.fill && (m.symbols.drop 16).isEmpty
    && fits ([(m.row, 48), (m.dataFrames, 8), (m.crc, 32)] ++ [m.timestamp, m.message].map (·, 64) ++ [m.health, m.nextSeq, m.ack, m.credit].map (·, 16))

/-- The lane is one of a plane that its site has (R5, R32). -/
def Lane.wf (l : Lane) : Bool := decide (l.plane.val < Config.planes l.site.val)

/-- The lane of a link is one of the package. -/
def LinkLane.wf : LinkLane → Bool
  | .pkg l => l.wf
  | .port _ _ => true

/-- What a fence indication names is a lane of the package. -/
def FenceTarget.wf : FenceTarget → Bool
  | .pkg sign => sign.lane.wf
  | .port _ _ _ _ => true

/-- The plane is one of its site, or one of the four groups of port rings of an edge site. -/
def planeOk (site : Fin 24) (plane : Fin 42) : Bool :=
  decide (plane.val < Config.planes site.val) || (decide (Config.siteKind site.val = .edge) && decide (38 ≤ plane.val))

/-- What the sensors measure has one entry for each of ten dies and six domains at most, each in its field (R500). -/
def Telemetry.wf (t : Telemetry) : Bool :=
  fits ([t.vin, t.watts, t.flow, t.drop].map (·, 16) ++ [(t.kSteps, 8)]) && decide (max t.rails.length t.dies.length ≤ 10) && decide (t.domains.length ≤ 6)

/-- A message of the control network carries a stitch within its fields. -/
def NetMessage.wf : NetMessage → Bool
  | .stitch _ st => st.wf
  | .linkAck lane => lane.wf
  | _ => true

/-- Whether a link has a frame slot (R121, R205): 35 a row on an on-package lane, 77 on a port lane. -/
def LinkLane.slotOk (ln : LinkLane) (slot : Fin 77) : Bool :=
  match ln with
  | .pkg _ => decide (slot.val < 35)
  | .port _ _ => true

/-- Whether a command is well formed. -/
def Instr.wf : Instr → Bool
  | .syncRead st | .syncAdd st | .syncSet st | .syncArm st | .syncWait st | .syncArrive st | .syncSetParties st | .syncAcquire st | .syncRelease st | .syncRenew st => st.wf
  | .portStateArrival st | .departureArrival _ st | .timeExchArrival _ st _ _ | .fmCmdArrival st | .noticeArrival st | .frogArrival st | .frogAckArrival st => st.wf
  | .stitchEntry _ _ _ st | .runRequest _ _ st _ _ | .stitchArrival _ _ _ _ st | .answerArrival _ _ _ st => st.wf
  | .fillS _ _ _ _ st | .fillM _ _ _ _ st | .wb _ _ _ st | .recallResponse _ _ st => st.wf
  | .loopVisit site plane _ _ _ _ | .ringLossOfLock site plane _ _ | .acquireTimeout site plane _ _ | .engineFail site plane => planeOk site plane
  | .edgeTrigger site plane _ _ | .swatchLeaseAbandon site plane _ => planeOk site plane
  | .swatchEnd site plane _ measured => planeOk site plane && decide (measured.length ≤ 2)
  | .receiverReacquired site plane _ => decide (plane.val < Config.planes site.val)
  | .nakRepeatTimeout ln | .gobackTimeout ln => ln.wf
  | .linkAckMessage l | .laneUp l | .trainingTimeout l => l.wf
  | .frameSend ln slot => ln.wf && ln.slotOk slot
  | .frameReceive ln f pos _ => ln.wf && ln.slotOk pos && f.wf
  | .rowMarkerReceive ln m _ => ln.wf && m.wf
  | .laneFence t => t.wf
  | .detectHoldEnd lost => lost.all (fun x => x.lane.wf)
  | .fallbackEntryEnd l => l.all Lane.wf
  | .returnCommit l => l.all (fun x => x.lane.wf)
  | .castOn _ o => o.lanes.all Lane.wf
  | .rowBoundary t _ _ _ _ => t.wf
  | .zoneSample z temps => decide (temps.length = Config.zoneSensors z.val)
  | .countLanding _ _ inc status => decide (inc < 2 ^ 64) && decide (status < 256)
  | .controlNetUncorr _ m => m.wf
  | .recoveryWrite _ bytes _ => decide (bytes.length ≤ 252)
  | .jtagRecovery _ bytes => decide (bytes.length = 252)
  | .inboundDma _ _ _ isWrite n data => if isWrite then decide (data.length = n.val) else data.isEmpty
  | _ => true

end Sys2Proof
end

