-- ==== Sys2Proof/Safety.lean ====
section
/-! DEFINITION. What the machine keeps in every state that a step reaches, and the terms in which statements about commands are written. -/

namespace Sys2Proof.Machine

/-- The invariant of the machine: its memory is in canonical form (addresses strictly rising, no listed byte equal to what an unlisted address reads as). -/
def State.inv (s : State) : Prop := Memory.wf s.mem = true

/-- A command completes in a state: the answer is a next state of which `post` holds. -/
def completes (i : Instr) (s : State) (post : State → Prop) : Prop := ∃ t, exec i s = .next t ∧ post t

/-- A write by a requester passes every check of an access, is no stale write of a control unit, and waits neither for the control token nor behind an earlier write of its requester
(R10 to R14, R431 to R433, R533). -/
def writeAccepted (c : Chip) (req : Requester) (off : Nat) : Prop :=
  c.judge req off true true = .ok ∧ c.staleFrom req off = none ∧ c.writeWaits req off = false

/-- A read by a requester passes every check of an access and need not wait for the control token. -/
def readAccepted (c : Chip) (req : Requester) (off : Nat) : Prop :=
  aliasOff off = false ∧ c.judge req off false true = .ok ∧ c.readWaits req off = false

/-- Nothing of the machine changed but the package. -/
def onlyChip (s t : State) : Prop := t.mem = s.mem ∧ t.pending = s.pending

/-- A SYNC_OP of this package has had its function: the object holds its new value, and the requester is sent SYNC_RSP, with its entry time (R149), the code and the object before and after (R285). -/
def syncAnswered (s t : State) (st : Stitch) (o o' : SyncObj) (code : Nat) : Prop :=
  t.chip.obj st.sync = some o' ∧ t.chip.xport.arrived = s.chip.xport.arrived ++ [⟨st.srcSite, 63, 31, s.chip.stamped (responseTo 31 { st with start := 0, countM1 := 63 } opSYNC_RSP
    ([code] ++ List.replicate 7 0 ++ syncBytes (some o) ++ syncBytes (some o')))⟩] ∧ onlyChip s t

/-- A thread is about to execute: it issues, and its pc lies at an instruction that its address map reaches (R309, R313). -/
def threadReady (c : Chip) (d k slot tid : Nat) (b : Block) (t : Thread) : Prop :=
  c.issuing d k slot tid = some (b, t) ∧ t.pc % 4 = 0 ∧ c.threadPlace b t.pc ≠ .fault ∧ c.threadPlace b t.pc ≠ .window

/-- The machine with one thread replaced, and nothing else changed. -/
def State.withThread (s : State) (d k slot tid : Nat) (t : Thread) : State := s.onChip (fun c => c.onThread d k slot tid (fun _ => t))

/-- A thread of a resident block. -/
def Chip.threadOf (c : Chip) (d k slot tid : Nat) : Option Thread := (c.blockAt d k slot).bind (fun b => b.threads[tid]?)

/-- A descriptor may start: it is the one its engine starts next, its operation code is given, every check of R322 is passed; `body` is what the checks of its body give. -/
def descReady (c : Chip) (d k q opc body : Nat) (x : Desc) : Prop :=
  c.startsDesc d k q = some x ∧ x.opc = opc ∧ c.descCheck d k q x body = 0

/-- A descriptor has had its effect and waits for its completion with a status; no other descriptor of its queue changed. -/
def descEnded (s t : State) (d k q : Nat) (x : Desc) (status : Nat) : Prop :=
  t.chip.descs d k q = updFirst (fun y => y.ticket == x.ticket) (fun y => { y with begun := true, status := some status }) (s.chip.descs d k q) ∧ t.pending = s.pending

/-- The status of the descriptor with a ticket. -/
def Chip.descStatus (c : Chip) (d k q ticket : Nat) : Option (Option Nat) := ((c.descs d k q).find? (fun y => y.ticket == ticket)).map (·.status)

/-- The machine as a descriptor has begun. -/
def State.begunDesc (s : State) (d k q ticket : Nat) : State := s.onChip (fun c => c.onDesc d k q ticket (fun y => { y with begun := true }))

/-- Memory and the queue hold what they held. -/
def onlyMem (s t : State) : Prop := t.mem = s.mem ∧ t.pending = s.pending

/-- An address outside a core's scratch. -/
def outsideScratch (d k a : Nat) : Prop := a < scratchBase d k ∨ scratchBase d k + coreScratch ≤ a

/-- Every register but those named holds what it held. -/
def regsSameBut (c d : Chip) (l : List Nat) : Prop := ∀ o, o ∉ l → d.word o = c.word o

/-- A fetched command may start as an opcode and passes every check that a command meets as it starts (R420, R421, R425). -/
def cmdReady (c : Chip) (src : CmdSrc) (idx : BitVec 16) (opcode : Nat) (x : Cmd) : Prop :=
  c.cmd.cmds.find? (fun y => y.src == src && y.idx == idx.toNat) = some x ∧ x.opcode = opcode ∧ c.startable x = true ∧ c.precheck x = stOK

/-- A fetched command stands in its queue as `x'`, and every other as it was. -/
def cmdNow (s t : State) (x x' : Cmd) : Prop := t.chip.cmd.cmds = updFirst (fun z => z.src == x.src && z.idx == x.idx) (fun _ => x') s.chip.cmd.cmds

/-- A fetched command has ended with a status and results, and waits for its completion. -/
def cmdEnded (s t : State) (x : Cmd) (status r0 r1 : Nat) : Prop := cmdNow s t x { x with started := true, result := some (status, r0, r1) }

/-- A fetched command as its effect begins. -/
def Cmd.begun (x : Cmd) : Cmd := { x with started := true }

/-- The machine as the effect of a fetched command begins: its queue processor has decoded it, and it has started (R330). -/
def State.begun (s : State) (x : Cmd) : State := s.onChip (fun c => (c.qpDecode x).setCmd x x.begun)

/-- The stitch of a synchronization instruction of a thread (R318): the function and its operands, to the service of this node. -/
def sopStitch (c : Chip) (b : Block) (core obj fn flags value limit : Nat) : Stitch :=
  { dstNode := c.node, dstSite := 31, tenant := b.tenant, cls := 1, opcode := opSYNC_OP, sync := obj % 65536, countM1 := 63, opspec := fn * 4096
    data := padTo 64 (leBytes 8 value ++ leBytes 4 limit ++ [0, flags, core]), tag := c.comp.tag }

/-- Whether a command stores nothing: whatever it does to the package, every byte of memory stays. False for the commands that can land data, write a ring or a block of scratch, start, end or zero a
partition's memory, or lose the memory with its power or clock. -/
def storesNothing : Instr → Bool
  | .rowBoundary .. | .frameSend .. | .frameReceive .. | .stitchArrival .. | .answerArrival .. | .streamResult .. | .partialFlushTimeout ..
  | .detWaitTimeout .. | .redCtxFlush .. | .amoW .. | .amoD .. | .threadInstruction .. | .blockPlace .. | .descriptorComplete .. | .sfeExp ..
  | .sfeLn .. | .sfeRecip .. | .sfeRsqrt .. | .sfeSigmoid .. | .sfeTanh .. | .sfeGelu .. | .sfeRowmax .. | .sfeExpsum .. | .sfeScale .. | .gather ..
  | .scatter .. | .scatterAdd .. | .dmeCopy .. | .dmeReduce .. | .dmeMcast .. | .dmeStream .. | .dmeFill .. | .dmeAtomic .. | .mma .. | .accLoad ..
  | .accStore .. | .encode .. | .decode .. | .prune24 .. | .expand24 .. | .route .. | .recallTimeout .. | .zeroingDone .. | .fillS .. | .fillM ..
  | .wb .. | .recallResponse .. | .queueTailWrite .. | .packetFetch .. | .commandComplete .. | .launch .. | .dma .. | .wait .. | .fmSend ..
  | .secKeySet .. | .fwStage .. | .fwActivate .. | .bindOff .. | .pkgReset .. | .noticeArrival .. | .castOn .. | .warmCastOn | .partCreate ..
  | .partStart .. | .partReset .. | .partDestroy .. | .partJoin .. | .partFrog .. | .partLeave .. | .partDigest .. | .partFence ..
  | .digestComplete .. | .fabricPllLoss | .refclkLost | .powerFail | .sensorBroken .. | .criticalTrip .. | .pwrGoodRise .. | .pwrGoodFall
  | .pkgResetAssert | .vioLoss => false
  | _ => true

end Sys2Proof.Machine
end

