-- ==== Sys2Proof/Certificates/Slice0/Obligations.lean ====
section
/-! DEFINITION. The statements for the provers. Each clause of a statement about commands names the command, hypotheses on the state and the operands, and what the next state holds. -/

open Sys2Proof Sys2Proof.Machine

/-- Accepted accesses of the control space (R4, R7, R9, R15, R448). -/
def Obligations.RegisterAccessesThatAreAccepted : Prop :=
  (∀ (req : Requester) (off : BitVec 28) (v : BitVec 32) (s : State) (r : RegDesc) (is : List Nat) (f : Fld),
    findReg off.toNat = some (r, is) → r.flds = [f] → f.acc = .rw → f.cls = .l → f.lo ≤ f.hi → f.hi < 32 → r.role = .operator →
    s.chip.hookOf req r is v.toNat = .plain → aliasOff off.toNat = false → windowOff off.toNat = false → writeAccepted s.chip req off.toNat →
    completes (.registerWrite req off v true) s (fun t =>
      t.chip.rd ⟨off.toNat, f.hi, f.lo⟩ = fget v.toNat f.hi f.lo ∧ regsSameBut s.chip t.chip [off.toNat]
        ∧ t.chip = { s.chip with regs := t.chip.regs } ∧ onlyChip s t)) ∧
  (∀ (req : Requester) (off : BitVec 28) (s : State) (r : RegDesc) (is : List Nat),
    findReg off.toNat = some (r, is) → sideEffect r.base = false → r.base ∉ [R.DBG_MIRROR_SEL, R.DBG_MIRROR_DATA, R.DBG_MIRROR_STATUS] → ¬ (R.SYN_OBJ_W0_LO < r.base ∧ r.base ≤ R.SYN_OBJ_W1_HI) →
    loBases.contains (r.base - 4) = false → readAccepted s.chip req off.toNat →
    completes (.rcRead req off true) s (fun t =>
      t.chip.acc.answer = some ⟨req, 0, s.chip.viewWord off.toNat⟩ ∧ ((∀ f ∈ r.flds, f.acc ≠ .rc) → t.chip.regs = s.chip.regs)
        ∧ (∀ f, r.flds = [f] → f.acc = .rc → f.lo ≤ f.hi → f.hi < 32 → t.chip.rd ⟨off.toNat, f.hi, f.lo⟩ = 0)
        ∧ regsSameBut s.chip t.chip [off.toNat] ∧ onlyChip s t)) ∧
  (∀ (req : Requester) (off : BitVec 28) (s : State) (r : RegDesc) (is : List Nat),
    findReg off.toNat = some (r, is) → loBases.contains r.base = true → readAccepted s.chip req off.toNat →
    completes (.loReadLatch req off) s (fun t =>
      t.chip.acc.answer = some ⟨req, 0, s.chip.viewWord off.toNat⟩ ∧ t.chip.regs = s.chip.regs ∧ onlyChip s t
        ∧ (isMeasured r = false → t.chip.latchOf req = some ⟨req, off.toNat, [s.chip.viewWord (off.toNat + 4)]⟩))) ∧
  (∀ (req : Requester) (s : State),
    readAccepted s.chip req R.DBG_MIRROR_DATA → s.chip.mirrorFault (s.chip.mirrorOf req).sel = none →
    completes (.mirrorDataRead req) s (fun t =>
      t.chip.acc.answer = some ⟨req, 0, s.chip.viewWord (s.chip.mirrorOf req).sel⟩ ∧ t.chip.regs = s.chip.regs
        ∧ t.chip.acc.latches = s.chip.acc.latches ∧ onlyChip s t)) ∧
  (∀ (req : Requester) (s : State), readAccepted s.chip req R.PCU_DUMP_DATA →
    completes (.dumpDataRead req) s (fun t =>
      t.chip.acc.answer = some ⟨req, 0, s.chip.viewWord R.PCU_DUMP_DATA⟩ ∧ t.chip.rd R.PCU_DUMP_SEL_WORD = (s.chip.rd R.PCU_DUMP_SEL_WORD + 1) % 16384
        ∧ regsSameBut s.chip t.chip [R.PCU_DUMP_SEL] ∧ onlyChip s t)) ∧
  (∀ (req : Requester) (s : State), readAccepted s.chip req R.SYN_OBJ_W0_LO →
    completes (.objW0LoRead req) s (fun t =>
      t.chip.acc.answer = some ⟨req, 0, s.chip.viewWord R.SYN_OBJ_W0_LO⟩ ∧ t.chip.latchOf req = some ⟨req, R.SYN_OBJ_W0_LO, s.chip.objWords⟩
        ∧ t.chip.regs = s.chip.regs ∧ onlyChip s t))

/-- What a refused access leaves behind (R10 to R13, R18, R432, R491). -/
def Obligations.RefusedAccessesOnlyShowInBusErr : Prop :=
  (∀ (req : Requester) (off : BitVec 28) (v : BitVec 32) (s : State), s.chip.mayIssue req = true → off.toNat % 4 ≠ 0 →
    completes (.registerWrite req off v true) s (fun t => t.chip.rd ⟨R.PCU_BUS_ERR, beWIDTH, beWIDTH⟩ = 1
      ∧ regsSameBut s.chip t.chip [R.PCU_BUS_ERR, R.PCU_BUS_ERR_ADDR] ∧ t.chip = { s.chip with regs := t.chip.regs } ∧ onlyChip s t)) ∧
  (∀ (req : Requester) (off : BitVec 28) (v : BitVec 32) (s : State), s.chip.mayIssue req = true → off.toNat % 4 = 0 → aliasOff off.toNat = false → findReg off.toNat = none →
    completes (.registerWrite req off v true) s (fun t => t.chip.rd ⟨R.PCU_BUS_ERR, beUNMAPPED, beUNMAPPED⟩ = 1
      ∧ regsSameBut s.chip t.chip [R.PCU_BUS_ERR, R.PCU_BUS_ERR_ADDR] ∧ t.chip = { s.chip with regs := t.chip.regs } ∧ onlyChip s t)) ∧
  (∀ (req : Requester) (off : BitVec 28) (v : BitVec 32) (s : State), aliasOff off.toNat = false → s.chip.judge req off.toNat true true = .tenant →
    completes (.registerWrite req off v true) s (fun t => t.chip.rd ⟨R.PCU_BUS_ERR, beTENANT, beTENANT⟩ = 1
      ∧ regsSameBut s.chip t.chip [R.PCU_BUS_ERR, R.PCU_BUS_ERR_ADDR] ∧ t.chip = { s.chip with regs := t.chip.regs } ∧ onlyChip s t)) ∧
  (∀ (req : Requester) (off : BitVec 28) (v : BitVec 32) (s : State), aliasOff off.toNat = false → s.chip.judge req off.toNat true true = .role →
    completes (.registerWrite req off v true) s (fun t => t.chip.rd ⟨R.PCU_BUS_ERR, beROLE, beROLE⟩ = 1
      ∧ regsSameBut s.chip t.chip [R.PCU_BUS_ERR, R.PCU_BUS_ERR_ADDR]
      ∧ t.chip = { s.chip with regs := t.chip.regs, captured := t.chip.captured, captureLost := t.chip.captureLost } ∧ onlyChip s t)) ∧
  (∀ (req : Requester) (off : BitVec 28) (v : BitVec 32) (s : State), aliasOff off.toNat = false → s.chip.judge req off.toNat true true = .gated →
    completes (.registerWrite req off v true) s (fun t => t.chip.rd R.CLK_GATED_COUNT_COUNT = min R.CLK_GATED_COUNT_COUNT.top (s.chip.rd R.CLK_GATED_COUNT_COUNT + 1)
      ∧ regsSameBut s.chip t.chip [R.CLK_GATED_COUNT, R.CLK_GATED_LAST] ∧ t.chip = { s.chip with regs := t.chip.regs } ∧ onlyChip s t)) ∧
  (∀ (req : Requester) (off : BitVec 28) (s : State), s.chip.mayIssue req = true → aliasOff off.toNat = true → off.toNat % 4 = 0 →
    completes (.aliasRead req off) s (fun t => t.chip.rd ⟨R.PCU_BUS_ERR, beALIAS_READ, beALIAS_READ⟩ = 1 ∧ t.chip.acc.answer = some ⟨req, 0, 0⟩ ∧ onlyChip s t))

/-- Alias writes, emulated accesses and inbound DMA (R16, R17, R19, R404, R409, R431). -/
def Obligations.AliasesEmulatedAccessesAndInboundDma : Prop :=
  (∀ (req : Requester) (off : BitVec 28) (v : BitVec 32) (s : State) (b n base stride abase astride : Nat) (d : RegDesc),
    s.chip.mayIssue req = true → off.toNat % 4 = 0 → aliasOff off.toNat = true → aliasBlock off.toNat = some (b, n, base, stride, abase, astride) → (off.toNat - abase) / astride = 15 →
    0 < n → aliasReg n base stride ((off.toNat - abase) % astride) = some d → (∀ die k, req ≠ .hart die k) → (∀ die k, req ≠ .queueProc die k) → (∀ u, req ≠ .pcu u) →
    d.role.rank ≤ (s.chip.roleOf req).rank → (∀ i ∈ List.range n, s.chip.writeWaits req (base + i * stride + (off.toNat - abase) % astride) = false) →
    completes (.aliasWrite req off v) s (fun t => onlyChip s t ∧ t.chip = (List.range n).foldl (fun c i => c.aliasMember req (base + i * stride + (off.toNat - abase) % astride) v.toNat) s.chip)) ∧
  (∀ (req : Requester) (off : BitVec 28) (v : BitVec 32) (s : State) (b n base stride abase astride : Nat) (d : RegDesc),
    s.chip.mayIssue req = true → off.toNat % 4 = 0 → aliasOff off.toNat = true → aliasBlock off.toNat = some (b, n, base, stride, abase, astride) → (off.toNat - abase) / astride ≠ 15 →
    s.chip.rd (R.PCU_GROUP_MASK_MEMBERS b ((off.toNat - abase) / astride)) = 0 →
    aliasReg n base stride ((off.toNat - abase) % astride) = some d → (∀ die k, req ≠ .hart die k) → (∀ die k, req ≠ .queueProc die k) → d.role.rank ≤ (s.chip.roleOf req).rank → s.chip.behindOwn req = false →
    completes (.aliasWrite req off v) s (fun t => t.chip.rd ⟨R.PCU_BUS_ERR, beALIAS_EMPTY, beALIAS_EMPTY⟩ = 1
      ∧ regsSameBut s.chip t.chip [R.PCU_BUS_ERR, R.PCU_BUS_ERR_ADDR] ∧ onlyChip s t)) ∧
  (∀ (s : State) (e : EmuAccess) (es : List EmuAccess), s.chip.tokenHeld = true → s.chip.acc.emuWait = e :: es → e.req ≠ .mgmt → e.isWrite = false →
    completes .emulatedAccess s (fun t => t.chip.acc.emuWait = es
      ∧ t.chip.acc.answer = some ⟨e.req, 0, (({ s.chip with acc := { s.chip.acc with emuWait := es } } : Chip).readNow e.req e.off).1⟩ ∧ onlyChip s t)) ∧
  (∀ (s : State) (e : EmuAccess), s.chip.tokenHeld = false → s.chip.rowsRun = false ∨ s.chip.pcu.lostAt + 200000 ≤ s.chip.cycles → s.chip.acc.emuWait = [e] → e.req ≠ .mgmt → e.dropped = true →
    completes .emulatedAccessTimeout s (fun t => t.chip.acc.emuWait = [] ∧ (e.isWrite = false → t.chip.acc.answer = some ⟨e.req, 0, 0⟩)
      ∧ t.chip.rd R.PCU_EMU_STATUS_DROPPED = min R.PCU_EMU_STATUS_DROPPED.top (s.chip.rd R.PCU_EMU_STATUS_DROPPED + 1)
      ∧ regsSameBut s.chip t.chip [R.PCU_EMU_STATUS] ∧ onlyChip s t)) ∧
  (∀ (r : Fin 16) (a : BitVec 46) (data : List (BitVec 8)) (s : State), s.chip.on (R.HIO_PORT_TENANT_EN r.val) = true → s.chip.hio.dmaStopped.contains r.val = false →
    a.toNat % 4096 = 0 → imsicFile a.toNat = true →
    completes (.inboundDma r (some 1023) a true 4 data) s (fun t => (a.toNat, leField (padTo 4 (data.map BitVec.toNat)) 0 4) ∈ t.chip.hio.imsic
      ∧ t.chip.hio.dmaFaults = s.chip.hio.dmaFaults ∧ t.chip.regs = s.chip.regs ∧ onlyChip s t)) ∧
  (∀ (r : Fin 16) (w : Fin 1024) (a : BitVec 46) (isWrite : Bool) (n : Fin 4097) (data : List (BitVec 8)) (s : State), 0 < n.val → s.chip.on (R.HIO_PORT_TENANT_EN r.val) = false ∨ s.chip.hio.dmaStopped.contains r.val = true →
    completes (.inboundDma r (some w) a isWrite n data) s (fun t => t.chip = { s.chip with acc := { s.chip.acc with answer := some ⟨.hostIo (Fin.ofNat 2 (r.val / 8)), anUNSUPPORTED, 0⟩ } } ∧ onlyChip s t)) ∧
  (∀ (r : Fin 16) (a : BitVec 46) (isWrite : Bool) (n : Fin 4097) (data : List (BitVec 8)) (s : State), s.chip.on (R.HIO_PORT_TENANT_EN r.val) = true →
    completes (.inboundDma r none a isWrite n data) s (fun t => t.chip = { s.chip with hio := { s.chip.hio with dmaFaults := s.chip.hio.dmaFaults ++ [(r.val, a.toNat)] } } ∧ onlyChip s t)) ∧
  (∀ (r : Fin 16) (a : BitVec 46) (n : Fin 4097) (data : List (BitVec 8)) (s : State), s.chip.on (R.HIO_PORT_TENANT_EN r.val) = true → s.chip.hio.dmaStopped.contains r.val = false →
    a.toNat < 0x3FF000000000 → 0 < n.val → a.toNat % 64 + n.val ≤ 64 → data.length = n.val →
    completes (.inboundDma r (some 0) a true n data) s (fun t => onlyChip s t ∧ t.chip = s.chip.request (22 + r.val / 8) 0 { opcode := opSTORE, cls := 0, dstNode := s.chip.node, tenant := s.chip.rd (R.HIO_PORT_TENANT_TENANT r.val), ppa := lineOf a.toNat, start := a.toNat % 64, countM1 := n.val - 1, data := List.replicate (a.toNat % 64) 0 ++ data.map BitVec.toNat }) ∧
    completes (.inboundDma r (some 0) a false n []) s (fun t => onlyChip s t ∧ t.chip = s.chip.request (22 + r.val / 8) 0 { opcode := opLOAD, cls := 0, dstNode := s.chip.node, tenant := s.chip.rd (R.HIO_PORT_TENANT_TENANT r.val), ppa := lineOf a.toNat, start := a.toNat % 64, countM1 := n.val - 1 }))

/-- The sparing engine's commands (R47, R49, R61, R133). -/
def Obligations.SparingCommandsComplete : Prop :=
  (∀ (l : Lane) (code : Fin 16) (s : State), Config.planeKind l.site.val l.plane.val = 1 → trafficLane l.site.val l.plane.val l.k.val = true →
    selfTest l.site.val l.plane.val l.k.val = false → s.chip.laneState l.site.val l.plane.val l.k.val = lsUP →
    s.chip.fenceHeld l.site.val l.plane.val l.k.val code.val = false → s.chip.on R.OPF_CFG_AUTO_SPARE = true → s.chip.opf.booked = [] → s.chip.opf.fences = [] →
    s.chip.opf.guessed = [] → s.chip.sideState ⟨l.site.val, l.plane.val, false⟩ = 0 → s.chip.warmSpares l.site.val false ≠ [] →
    completes (.laneFence (.pkg ⟨l, code, true, false⟩)) s (fun t =>
      (t.chip.opf.booked.map (fun b => (b.side, b.lanes, b.row))) = [(⟨l.site.val, l.plane.val, false⟩, [(l.site.val, l.plane.val, l.k.val)], s.chip.boundaryAfter 64)] ∧ onlyChip s t)) ∧
  (∀ (sign : FenceSign) (s : State),
    completes (.laneFence (.pkg sign)) s (fun t => t.chip = s.chip.fence sign.lane.site sign.lane.plane sign.lane.k sign.code sign.txFault sign.rxFault ∧ onlyChip s t)) ∧
  (∀ (j : Fin 16) (l : Fin 40) (incoming : Bool) (code : Fin 16) (s : State),
    completes (.laneFence (.port j l incoming code)) s (fun t => t.chip = s.chip.fencePort j.val l.val incoming code.val ∧ onlyChip s t)) ∧
  (∀ (site : Fin 24) (plane : Fin 42) (rx : Bool) (s : State), ⟨site.val, plane.val, rx⟩ ∉ s.chip.opf.reacquiring →
    exec (.receiverReacquired site plane rx) s = .next s) ∧
  (∀ (site : Fin 24) (plane : Fin 42) (rx : Bool) (s : State), s.chip.opf.reacquiring = [⟨site.val, plane.val, rx⟩] →
    (∀ l ∈ s.chip.sideLanes ⟨site.val, plane.val, rx⟩, s.chip.laneState l.1 l.2.1 l.2.2 ≠ lsHOLD) →
    completes (.receiverReacquired site plane rx) s (fun t => t.chip.opf.reacquiring = [] ∧ t.chip.regs = s.chip.regs ∧ onlyChip s t)) ∧
  (∀ (req : Requester) (site : Fin 24) (v : BitVec 32) (s : State), writeAccepted s.chip req (R.SITE_SUBST_REQ site.val) → bitOf v.toNat 31 = true ∨ bitOf v.toNat 30 = true →
    completes (.substGo req site v) s (fun t => t.chip.opf.substReqs = s.chip.opf.substReqs ++
        [⟨site.val, bitOf v.toNat 31, bitOf v.toNat 30, ⟨site.val, fget v.toNat 5 0, bitOf v.toNat 16⟩, fget v.toNat 13 8, s.chip.wRow⟩]
      ∧ t.chip.xport = s.chip.xport ∧ t.chip.lanes = s.chip.lanes ∧ onlyChip s t) ∧
    completes (.substRestore req site v) s (fun t => t.chip.opf.substReqs = s.chip.opf.substReqs ++
        [⟨site.val, bitOf v.toNat 31, bitOf v.toNat 30, ⟨site.val, fget v.toNat 5 0, bitOf v.toNat 16⟩, fget v.toNat 13 8, s.chip.wRow⟩]
      ∧ t.chip.xport = s.chip.xport ∧ t.chip.lanes = s.chip.lanes ∧ onlyChip s t))

/-- The light supply's events (R63, R66, R68, R69, R72, R75, R80, R84). -/
def Obligations.LightSourceEventsComplete : Prop :=
  (∀ (line : Fin 40) (s : State), s.chip.onComb = true →
    completes (.lineFlag line) s (fun t => line.val ∈ t.chip.light.flagged ∧ (line.val, t.chip.light.rowsRead) ∈ t.chip.light.flagRows ∧ (∀ x ∈ s.chip.light.flagged, x ∈ t.chip.light.flagged)
      ∧ t.chip.regs = s.chip.declareChange.regs ∧ t.chip.opf = s.chip.declareChange.opf ∧ t.chip.lanes = s.chip.declareChange.lanes ∧ t.chip.tns = s.chip.declareChange.tns ∧ onlyChip s t)) ∧
  (∀ (line : Fin 40) (s : State), s.chip.onComb = true → s.chip.light.flagged = [] → s.chip.light.tookOver = none →
    completes (.lineFlag line) s (fun t => t.chip.light.flagged = [line.val] ∧ t.chip.light.changeAt = some s.chip.cycles ∧ t.chip.on R.OPF_STATUS_DETECT_HOLD = true ∧ onlyChip s t)) ∧
  (∀ (line : Fin 40) (s : State), s.chip.onComb = false → s.chip.rd R.LSU_STATUS_MODE = 6 →
    completes (.lineFlag line) s (fun t => line.val ∈ t.chip.light.flagged ∧ t.chip.regs = s.chip.regs ∧ t.chip.light.changeAt = s.chip.light.changeAt ∧ onlyChip s t)) ∧
  (∀ (s : State), s.chip.light.flagged ≠ [] → s.chip.rd R.LSU_STATUS_MODE = 1 ∨ s.chip.rd R.LSU_STATUS_MODE = 2 → s.chip.light.changeBefore = none →
    completes .lightDip s (fun t => t.chip.light.flagged = [] ∧ t.chip.light.changeAt = none ∧ t.chip.rd R.LSU_STATUS_MODE = s.chip.rd R.LSU_STATUS_MODE ∧ onlyChip s t)) ∧
  (∀ (s : State), s.chip.light.flagged ≠ [] →
    completes .lightDip s (fun t => t.chip.light.flagged = [] ∧ onlyChip s t ∧ ∃ c : Chip, c.light.flagged = [] ∧ c.opf.booked = s.chip.opf.booked
      ∧ t.chip = c.event Ev.lightDip none (Unit.light (c.activeComb.getD 2)) [c.rdPair R.LSU_LAST_ROW_LO_ROW R.LSU_LAST_ROW_HI_ROW])) ∧
  (∀ (a : Fin 2) (s : State), s.chip.activeComb = some a.val → s.chip.onComb = true → s.chip.light.flagged ≠ [] → s.chip.on R.LSU_STATUS_STANDBY_READY = true →
    s.chip.light.swapRow = none → s.chip.light.changeAt.isSome = true →
    completes .combLossDeclared s (fun t => t.chip.light.flagged = [] ∧ t.chip.rd (R.LSU_COMB_STATE (1 - a.val)) = 3 ∧ t.chip.rd (R.LSU_COMB_STATE a.val) = 4
      ∧ t.chip.rd R.LSU_STATUS_MODE = 3 ∧ t.chip.on R.LSU_STATUS_STANDBY_READY = false ∧ onlyChip s t)) ∧
  (∀ (a : Fin 2) (s : State), s.chip.light.flagged ≠ [] → s.chip.activeComb = some a.val →
    completes .combLossDeclared s (fun t => t.chip = s.chip.combFails a.val ∧ onlyChip s t)) ∧
  (∀ (x : Fin 2) (r : Nat) (lit : Bool) (s : State), s.chip.light.flagged ≠ [] → s.chip.activeComb = none → s.chip.light.returning = some (x.val, r, lit) →
    s.chip.rd (R.LSU_COMB_STATE x.val) = 7 → completes .combLossDeclared s (fun t => t.chip = s.chip.returnFails x.val ∧ onlyChip s t)) ∧
  (∀ (comb : Fin 2) (mhz : BitVec 16) (s : State), s.chip.rd (R.LSU_COMB_STATE comb.val) = 4 → s.chip.onComb = true → s.chip.light.granted = [] →
    completes (.standbyReady comb mhz) s (fun t => t.chip.rd (R.LSU_COMB_STATE comb.val) = 2 ∧ t.chip.rd (R.LSU_COMB_OUTPUT comb.val) = 30
      ∧ t.chip.on R.LSU_STATUS_STANDBY_READY = true ∧ t.chip.rd R.LSU_OFFSET_MHZ = mhz.toNat ∧ getKey comb.val t.chip.light.restartAt = none ∧ onlyChip s t)) ∧
  (∀ (comb : Fin 2) (mhz : BitVec 16) (s : State), s.chip.rd (R.LSU_COMB_STATE comb.val) ∈ [1, 2, 4] →
    completes (.standbyReady comb mhz) s (fun t => t.chip.on (R.LSU_COMB_SPACING_LOCK comb.val) = true ∧ t.chip.on (R.LSU_COMB_OFFSET_LOCK comb.val) = true ∧ t.chip.rd (R.LSU_COMB_OUTPUT comb.val) = 30
      ∧ getKey comb.val t.chip.light.restartAt = none ∧ getKey comb.val t.chip.light.offsets = some mhz.toNat
      ∧ (s.chip.onComb = true → t.chip.rd (R.LSU_COMB_STATE comb.val) = 2 ∧ t.chip.on R.LSU_STATUS_STANDBY_READY = true ∧ t.chip.rd R.LSU_OFFSET_MHZ = mhz.toNat) ∧ onlyChip s t)) ∧
  (∀ (comb : Fin 2) (s : State), s.chip.onComb = true → s.chip.rd (R.LSU_COMB_STATE comb.val) = 2 →
    completes (.standbyLost comb) s (fun t => t.chip = s.chip.standbyGone comb.val ∧ onlyChip s t)) ∧
  (∀ (comb : Fin 2) (s : State), s.chip.onComb = true → s.chip.rd (R.LSU_COMB_STATE comb.val) = 2 → s.chip.on R.ROUTE_FM_EN = false →
    completes (.standbyLost comb) s (fun t => t.chip.rd (R.LSU_COMB_STATE comb.val) = 4 ∧ t.chip.rd (R.LSU_COMB_OUTPUT comb.val) = 0
      ∧ t.chip.on R.LSU_STATUS_STANDBY_READY = false ∧ t.chip.light.swapRow = none ∧ onlyChip s t)) ∧
  (∀ (comb : Fin 2) (s : State), s.chip.tokenHeld = true → s.chip.rd (R.LSU_COMB_STATE comb.val) = 4 → getKey comb.val s.chip.light.restartAt = none →
    comb.val ∈ s.chip.light.granted ∨ s.chip.rd (R.LSU_COMB_RESTARTS_USED comb.val) < s.chip.rd R.LSU_CFG_RESTARTS →
    completes (.combRestart comb) s (fun t => getKey comb.val t.chip.light.restartAt = some s.chip.now
      ∧ regsSameBut s.chip t.chip [R.LSU_COMB comb.val] ∧ t.chip.rd (R.LSU_COMB_STATE comb.val) = 4 ∧ onlyChip s t)) ∧
  (∀ (comb : Fin 2) (t0 : Nat) (s : State), getKey comb.val s.chip.light.restartAt = some t0 → t0 + 2000000000 ≤ s.chip.now → s.chip.light.granted = [] →
    s.chip.rd R.LSU_CFG_RESTARTS ≤ s.chip.rd (R.LSU_COMB_RESTARTS_USED comb.val) →
    completes (.restartTimeout comb) s (fun t => t.chip.rd (R.LSU_COMB_STATE comb.val) = 5 ∧ getKey comb.val t.chip.light.restartAt = none ∧ onlyChip s t)) ∧
  (∀ (comb : Fin 2) (t0 : Nat) (s : State), getKey comb.val s.chip.light.restartAt = some t0 → t0 + 2000000000 ≤ s.chip.now →
    completes (.restartTimeout comb) s (fun t => getKey comb.val t.chip.light.restartAt = none ∧ comb.val ∉ t.chip.light.granted ∧ (comb.val ∈ s.chip.light.granted → t.chip.rd R.LSU_CTRL_RESULT_STATUS = 6)
      ∧ (s.chip.rd R.LSU_CFG_RESTARTS ≤ s.chip.rd (R.LSU_COMB_RESTARTS_USED comb.val) → t.chip.rd (R.LSU_COMB_STATE comb.val) = 5) ∧ onlyChip s t)) ∧
  (∀ (unlocked : List Lane) (s : State), s.chip.rd R.LSU_STATUS_MODE = 4 → s.chip.light.entered.all (fun t0 => decide (t0 + 8000000 ≤ s.chip.cycles)) = true →
    completes (.fallbackEntryEnd unlocked) s (fun t => t.chip.rd R.LSU_STATUS_MODE = 5 ∧ t.chip.light.changeAt = none ∧ t.chip.light.flagged = [] ∧ t.chip.light.entered = none ∧ onlyChip s t)) ∧
  (∀ (s : State), s.chip.rd R.LSU_STATUS_MODE = 4 → (∀ l ∈ s.chip.entryLanes, s.chip.laneSearching l = false) →
    completes (.fallbackEntryEnd []) s (fun t => t.chip.rd R.LSU_STATUS_MODE = 5 ∧ t.chip.light.entered = none ∧ onlyChip s t)) ∧
  (∀ (s : State), s.chip.fallbackMode = true →
    completes .darkMode s (fun t => t.chip = (s.chip.wr R.LSU_STATUS_FB0_LIGHT 0).darkMode ∧ t.chip.pins.faultN = true ∧ t.chip.rd R.LSU_STATUS_MODE = 7 ∧ onlyChip s t)) ∧
  (∀ (comb : Fin 2) (s : State), s.chip.rd (R.LSU_COMB_STATE comb.val) ∉ [2, 3, 7] →
    completes (.spacingLockLost comb) s (fun t => t.chip.rd (R.LSU_COMB_SPACING_LOCK comb.val) = 0 ∧ t.chip.rd (R.LSU_COMB_OFFSET_LOCK comb.val) = 0
      ∧ getKey comb.val t.chip.light.locked = none ∧ onlyChip s t)) ∧
  (∀ (comb : Fin 2) (s : State), completes (.spacingLockLost comb) s (fun t => t.chip = (s.chip.unlockComb comb.val).combFails comb.val ∧ onlyChip s t))

/-- The commands of the light supply (R57, R65, R72, R73, R81). -/
def Obligations.LightSupplyCommandsComplete : Prop :=
  (∀ (req : Requester) (v : BitVec 32) (s : State), writeAccepted s.chip req R.LSU_CTRL → v.toNat / 2 ^ 28 = 8 → s.chip.tokenHeld = true →
    s.chip.on R.LSU_STATUS_STANDBY_READY = true →
    completes (.lsuSwap req v) s (fun t => t.chip.light.swapRow = some (s.chip.row + 1) ∧ t.chip.rd R.LSU_CTRL_RESULT_STATUS = 1
      ∧ t.chip.rd R.LSU_STATUS_MODE = s.chip.rd R.LSU_STATUS_MODE ∧ onlyChip s t)) ∧
  (∀ (req : Requester) (v : BitVec 32) (x : Fin 2) (s : State), writeAccepted s.chip req R.LSU_CTRL → v.toNat / 2 ^ 28 = 4 → s.chip.tokenHeld = true →
    s.chip.rd R.LSU_STATUS_MODE = 5 → s.chip.returnCandidate = some x.val →
    completes (.lsuReturn req v) s (fun t => t.chip.light.returning = some (x.val, s.chip.row + 1, false) ∧ t.chip.rd R.LSU_STATUS_MODE = 6
      ∧ t.chip.rd (R.LSU_COMB_STATE x.val) = 7 ∧ t.chip.rd R.LSU_CTRL_RESULT_STATUS = 1 ∧ onlyChip s t)) ∧
  (∀ (req : Requester) (v : BitVec 32) (s : State), writeAccepted s.chip req R.LSU_CTRL → v.toNat / 2 ^ 28 = 2 → s.chip.tokenHeld = true →
    s.chip.rd (R.LSU_COMB_STATE 0) = 5 →
    completes (.lsuRestart req v) s (fun t => t.chip.light.granted = s.chip.light.granted ++ [0] ∧ t.chip.rd (R.LSU_COMB_STATE 0) = 4
      ∧ t.chip.rd R.LSU_CTRL_RESULT_STATUS = 1 ∧ onlyChip s t)) ∧
  (∀ (req : Requester) (v : BitVec 32) (s : State), writeAccepted s.chip req R.LSU_CTRL → 1 < popCount 4 (v.toNat / 2 ^ 28) →
    completes (.lsuSwap req v) s (fun t => t.chip.rd R.LSU_CTRL_RESULT_STATUS = 8 ∧ t.chip.light = s.chip.light ∧ onlyChip s t)) ∧
  (∀ (s : State), s.chip.light.heldCtrl = some (2 ^ 31) → s.chip.tokenHeld = true → s.chip.on R.LSU_STATUS_STANDBY_READY = true →
    completes .lsuCtrlPendingRun s (fun t => t.chip.light.heldCtrl = none ∧ t.chip.light.swapRow = some (s.chip.row + 1) ∧ onlyChip s t)) ∧
  (∀ (s : State), s.chip.light.heldCtrl = some (2 ^ 31) → s.chip.tokenHeld = true → s.chip.on R.LSU_STATUS_STANDBY_READY = false →
    completes .lsuCtrlPendingRun s (fun t => t.chip.light.heldCtrl = none ∧ t.chip.rd R.LSU_CTRL_RESULT_STATUS = 6 ∧ t.chip.light.swapRow = s.chip.light.swapRow ∧ onlyChip s t)) ∧
  (∀ (v : Nat) (s : State), s.chip.light.heldCtrl = some v → s.chip.tokenHeld = true →
    completes .lsuCtrlPendingRun s (fun t => t.chip.light.heldCtrl = none ∧ onlyChip s t
      ∧ (∀ n, (s.chip.setLight (fun l => { l with heldCtrl := none })).ctrlRefusal v = some n → t.chip.rd R.LSU_CTRL_RESULT_STATUS = 6)
      ∧ ((s.chip.setLight (fun l => { l with heldCtrl := none })).ctrlRefusal v = none → t.chip = (s.chip.setLight (fun l => { l with heldCtrl := none })).lsuCtrl v))) ∧
  (∀ (x : Fin 2) (r : Nat) (failed : List FenceSign) (s : State), s.chip.light.returning = some (x.val, r, true) → s.chip.rd R.LSU_STATUS_MODE = 6 → r < s.chip.row → s.chip.tokenHeld = true →
    s.chip.returnLocked = true → s.chip.light.commit = none →
    completes (.returnCommit failed) s (fun t => t.chip = s.chip.setLight (fun l => { l with commit := some failed }) ∧ t.chip.commitStep = t.chip.commitReturn x.val failed
      ∧ t.chip.commitStep.light.returning = none ∧ t.chip.commitStep.light.tookOver = some s.chip.cycles ∧ t.chip.commitStep.rd (R.LSU_COMB_STATE x.val) = 3
      ∧ t.chip.commitStep.rd (R.LSU_COMB_OUTPUT x.val) = 100 ∧ t.chip.commitStep.rd R.LSU_STATUS_MODE = modeOf x.val ∧ t.chip.commitStep.rd R.LSU_CTRL_RESULT_STATUS = 2 ∧ onlyChip s t)) ∧
  (∀ (lost : List FenceSign) (s : State), s.chip.on R.OPF_STATUS_DETECT_HOLD = true → s.chip.rd R.LSU_STATUS_MODE ≠ 4 →
    s.chip.light.changeAt.all (fun t0 => decide (t0 + 40000 ≤ s.chip.cycles)) = true →
    completes (.detectHoldEnd lost) s (fun t => t.chip = (lost.foldl Chip.fenceSign s.chip.changeEnds).relocked ∧ onlyChip s t)) ∧
  (∀ (t0 : Nat) (s : State), s.chip.on R.OPF_STATUS_DETECT_HOLD = true → s.chip.light.changeAt = some t0 → t0 + 40000 ≤ s.chip.cycles → s.chip.rd R.LSU_STATUS_MODE ≠ 4 → s.chip.rd R.LSU_STATUS_MODE ≠ 3 →
    completes (.detectHoldEnd []) s (fun t => t.chip.light.changeAt = none ∧ t.chip.light.flagged = [] ∧ t.chip.on R.OPF_STATUS_DETECT_HOLD = false
      ∧ t.chip.rd R.LSU_STATUS_MODE = s.chip.rd R.LSU_STATUS_MODE ∧ onlyChip s t))

/-- Lock-in loops (R90 to R94). -/
def Obligations.LockInLoopCommandsComplete : Prop :=
  (∀ (site : Fin 24) (plane : Fin 42) (d : Fin 2) (k : Fin 40) (i p : BitVec 16) (s : State), s.chip.rd (ringLoop ⟨site.val, plane.val, d.val, k.val⟩) = loLOCKED → (clampSigned 16 (100 * s.chip.scaled site.val i.toInt / (s.chip.slopeOf ⟨site.val, plane.val, d.val, k.val⟩ : Int))).natAbs ≤ 600 → (⟨site.val, plane.val, d.val, k.val⟩ : RingKey) ∉ s.chip.tns.atEnd →
    completes (.loopVisit site plane d k i p) s (fun t => t.chip.rd (ringHeater ⟨site.val, plane.val, d.val, k.val⟩) = clampCode (s.chip.rd (ringHeater ⟨site.val, plane.val, d.val, k.val⟩))
        (s.chip.codesFor (ringState ⟨site.val, plane.val, d.val, k.val⟩) ((clampSigned 16 (100 * s.chip.scaled site.val i.toInt / (s.chip.slopeOf ⟨site.val, plane.val, d.val, k.val⟩ : Int))) * 10 * (s.chip.rdPos (R.TNS_CFG_GAIN site.val) : Int) / 16))
      ∧ t.chip.rd (ringLoop ⟨site.val, plane.val, d.val, k.val⟩) = loLOCKED ∧ t.chip.rd (ringDetune ⟨site.val, plane.val, d.val, k.val⟩) = ofSigned 16 (clampSigned 16 (100 * s.chip.scaled site.val i.toInt / (s.chip.slopeOf ⟨site.val, plane.val, d.val, k.val⟩ : Int))) ∧ t.chip.rd (ringPower ⟨site.val, plane.val, d.val, k.val⟩) = ofSigned 16 (clampSigned 16 (s.chip.scaledPower site.val p.toInt))
      ∧ regsSameBut s.chip t.chip [ringState ⟨site.val, plane.val, d.val, k.val⟩, ringState ⟨site.val, plane.val, d.val, k.val⟩ + 12] ∧ t.chip.opf = s.chip.opf ∧ t.chip.lanes = s.chip.lanes ∧ onlyChip s t)) ∧
  (∀ (site : Fin 24) (plane : Fin 42) (d : Fin 2) (k : Fin 40) (i p : BitVec 16) (s : State), s.chip.rd (ringLoop ⟨site.val, plane.val, d.val, k.val⟩) = loLOCKED → 600 < (clampSigned 16 (100 * s.chip.scaled site.val i.toInt / (s.chip.slopeOf ⟨site.val, plane.val, d.val, k.val⟩ : Int))).natAbs → (⟨site.val, plane.val, d.val, k.val⟩ : RingKey) ∈ s.chip.tns.beyond →
    completes (.loopVisit site plane d k i p) s (fun t => onlyChip s t ∧ ∃ c : Chip, t.chip = c.ringFault ⟨site.val, plane.val, d.val, k.val⟩ (if d = 0 then 3 else 4)
      ∧ c.rd (ringDetune ⟨site.val, plane.val, d.val, k.val⟩) = ofSigned 16 (clampSigned 16 (100 * s.chip.scaled site.val i.toInt / (s.chip.slopeOf ⟨site.val, plane.val, d.val, k.val⟩ : Int))) ∧ regsSameBut s.chip c [ringState ⟨site.val, plane.val, d.val, k.val⟩, ringState ⟨site.val, plane.val, d.val, k.val⟩ + 12] ∧ c.opf = s.chip.opf ∧ c.lanes = s.chip.lanes)) ∧
  (∀ (site : Fin 24) (plane : Fin 42) (d : Fin 2) (k : Fin 40) (i p : BitVec 16) (s : State), s.chip.rd (ringLoop ⟨site.val, plane.val, d.val, k.val⟩) = loACQUIRE →
    completes (.loopVisit site plane d k i p) s (fun t => t.chip.rd (ringHeater ⟨site.val, plane.val, d.val, k.val⟩) = clampCode (s.chip.rd (ringHeater ⟨site.val, plane.val, d.val, k.val⟩))
        (s.chip.codesFor (ringState ⟨site.val, plane.val, d.val, k.val⟩) ((clampSigned 16 (100 * s.chip.scaled site.val i.toInt / (s.chip.slopeOf ⟨site.val, plane.val, d.val, k.val⟩ : Int))) * 10 * (s.chip.rdPos (R.TNS_CFG_GAIN site.val) : Int) / 16))
      ∧ t.chip.rd (ringDetune ⟨site.val, plane.val, d.val, k.val⟩) = ofSigned 16 (clampSigned 16 (100 * s.chip.scaled site.val i.toInt / (s.chip.slopeOf ⟨site.val, plane.val, d.val, k.val⟩ : Int))) ∧ t.chip.rd (ringPower ⟨site.val, plane.val, d.val, k.val⟩) = ofSigned 16 (clampSigned 16 (s.chip.scaledPower site.val p.toInt))
      ∧ t.chip.rd (ringLoop ⟨site.val, plane.val, d.val, k.val⟩) = (if 4 ≤ s.chip.goodVisits ⟨site.val, plane.val, d.val, k.val⟩ (clampSigned 16 (100 * s.chip.scaled site.val i.toInt / (s.chip.slopeOf ⟨site.val, plane.val, d.val, k.val⟩ : Int))) then loLOCKED else loACQUIRE)
      ∧ getKey (⟨site.val, plane.val, d.val, k.val⟩ : RingKey) t.chip.tns.good
        = (if 4 ≤ s.chip.goodVisits ⟨site.val, plane.val, d.val, k.val⟩ (clampSigned 16 (100 * s.chip.scaled site.val i.toInt / (s.chip.slopeOf ⟨site.val, plane.val, d.val, k.val⟩ : Int))) ∨ s.chip.goodVisits ⟨site.val, plane.val, d.val, k.val⟩ (clampSigned 16 (100 * s.chip.scaled site.val i.toInt / (s.chip.slopeOf ⟨site.val, plane.val, d.val, k.val⟩ : Int))) = 0 then none else some (s.chip.goodVisits ⟨site.val, plane.val, d.val, k.val⟩ (clampSigned 16 (100 * s.chip.scaled site.val i.toInt / (s.chip.slopeOf ⟨site.val, plane.val, d.val, k.val⟩ : Int))))) ∧ onlyChip s t)) ∧
  (∀ (site : Fin 24) (plane : Fin 42) (d : Fin 2) (k : Fin 40) (i p : BitVec 16) (s : State), s.chip.rd (ringLoop ⟨site.val, plane.val, d.val, k.val⟩) = loACQUIRE → (clampSigned 16 (100 * s.chip.scaled site.val i.toInt / (s.chip.slopeOf ⟨site.val, plane.val, d.val, k.val⟩ : Int))).natAbs < 100 →
    getKey (⟨site.val, plane.val, d.val, k.val⟩ : RingKey) s.chip.tns.good = some 3 →
    completes (.loopVisit site plane d k i p) s (fun t => t.chip.rd (ringLoop ⟨site.val, plane.val, d.val, k.val⟩) = loLOCKED ∧ getKey (⟨site.val, plane.val, d.val, k.val⟩ : RingKey) t.chip.tns.good = none ∧ onlyChip s t)) ∧
  (∀ (site : Fin 24) (plane : Fin 42) (d : Fin 2) (k : Fin 40) (i p : BitVec 16) (s : State), s.chip.rd (ringLoop ⟨site.val, plane.val, d.val, k.val⟩) = loSEARCH →
    completes (.loopVisit site plane d k i p) s (fun t => t.chip.rd (ringDetune ⟨site.val, plane.val, d.val, k.val⟩) = ofSigned 16 (clampSigned 16 (100 * s.chip.scaled site.val i.toInt / (s.chip.slopeOf ⟨site.val, plane.val, d.val, k.val⟩ : Int))) ∧ t.chip.rd (ringPower ⟨site.val, plane.val, d.val, k.val⟩) = ofSigned 16 (clampSigned 16 (s.chip.scaledPower site.val p.toInt))
      ∧ t.chip.rd (ringHeater ⟨site.val, plane.val, d.val, k.val⟩) = s.chip.rd (ringHeater ⟨site.val, plane.val, d.val, k.val⟩) ∧ t.chip.rd (ringLoop ⟨site.val, plane.val, d.val, k.val⟩) = loSEARCH
      ∧ (∃ b, getKey (⟨site.val, plane.val, d.val, k.val⟩ : RingKey) t.chip.tns.best = some b ∧ clampSigned 16 (s.chip.scaledPower site.val p.toInt) ≤ b.1) ∧ onlyChip s t)) ∧
  (∀ (site : Fin 24) (plane : Fin 42) (d : Fin 2) (k : Fin 40) (i p : BitVec 16) (s : State), s.chip.rd (ringLoop ⟨site.val, plane.val, d.val, k.val⟩) ∉ [loLOCKED, loACQUIRE, loSEARCH, loSWATCH] →
    completes (.loopVisit site plane d k i p) s (fun t => t.chip.rd (ringDetune ⟨site.val, plane.val, d.val, k.val⟩) = ofSigned 16 (clampSigned 16 (100 * s.chip.scaled site.val i.toInt / (s.chip.slopeOf ⟨site.val, plane.val, d.val, k.val⟩ : Int))) ∧ t.chip.rd (ringPower ⟨site.val, plane.val, d.val, k.val⟩) = ofSigned 16 (clampSigned 16 (s.chip.scaledPower site.val p.toInt))
      ∧ t.chip.rd (ringHeater ⟨site.val, plane.val, d.val, k.val⟩) = s.chip.rd (ringHeater ⟨site.val, plane.val, d.val, k.val⟩) ∧ t.chip.rd (ringLoop ⟨site.val, plane.val, d.val, k.val⟩) = s.chip.rd (ringLoop ⟨site.val, plane.val, d.val, k.val⟩) ∧ t.chip.tns = s.chip.tns ∧ onlyChip s t)) ∧
  (∀ (site : Fin 24) (plane : Fin 42) (d : Fin 2) (k : Fin 40) (s : State), s.chip.rd (ringLoop ⟨site.val, plane.val, d.val, k.val⟩) = loLOCKED →
    completes (.ringLossOfLock site plane d k) s (fun t => t.chip = s.chip.ringFault ⟨site.val, plane.val, d.val, k.val⟩ (if d = 0 then 3 else 4) ∧ onlyChip s t)) ∧
  (∀ (site : Fin 24) (plane : Fin 42) (d : Fin 2) (k : Fin 40) (s : State), s.chip.rd (ringLoop ⟨site.val, plane.val, d.val, k.val⟩) = loSEARCH ∨ s.chip.rd (ringLoop ⟨site.val, plane.val, d.val, k.val⟩) = loACQUIRE →
    completes (.acquireTimeout site plane d k) s (fun t => t.chip = s.chip.ringFault ⟨site.val, plane.val, d.val, k.val⟩ (if s.chip.fallbackMode = true then 0xA else 7) ∧ onlyChip s t)) ∧
  (∀ (x : RingKey) (code : Nat) (c : Chip), x.isPort = true → c.portFenceHeld x.port x.k (x.d == 1) code = false →
    c.ringFault x code = ((c.wr (ringLoop x) loFENCED).wr (ringHeater x) 0 |>.ringsDone [x]).fencePort x.port x.k (x.d == 1) code) ∧
  (∀ (x : RingKey) (code : Nat) (l : Nat × Nat × Nat) (c : Chip), x.isPort = false → 4 < code ∨ c.on R.OPF_STATUS_DETECT_HOLD = false → c.sideState x.side ≠ 3 → c.laneOfRing x = some l →
    c.fenceHeld l.1 l.2.1 l.2.2 code = false → (code == 0xA && c.laneDark l.1 l.2.1 l.2.2 && !c.ringDark x) = false → c.ringFault x code = (c.fenceRing x.side x.k).fence l.1 l.2.1 l.2.2 code (x.d == 0) (x.d == 1)) ∧
  (∀ (site : Fin 24) (plane : Fin 42) (d : Fin 2) (k : Fin 40) (s : State), s.chip.rd (ringLoop ⟨site.val, plane.val, d.val, k.val⟩) ∉ [loLOCKED, loACQUIRE, loSEARCH] →
    exec (.ringLossOfLock site plane d k) s = .next s ∧ exec (.acquireTimeout site plane d k) s = .next s) ∧
  (∀ (x : RingKey) (q : Nat) (c : Chip), c.rd (ringLoop x) = loOFF ∨ c.rd (ringLoop x) = loFENCED → c.dacCode x q = 0) ∧
  (∀ (x : RingKey) (q : Nat) (c : Chip), c.rd (ringLoop x) ≠ loOFF → c.rd (ringLoop x) ≠ loFENCED → c.scaleOf x.site = 0 → (q + x.k) % 2 = 0 → c.dacCode x q = c.rd (ringHeater x))

/-- Calibration (R100 to R112, R497). -/
def Obligations.CalibrationCommandsComplete : Prop :=
  (∀ (req : Requester) (site : Fin 24) (v : BitVec 32) (s : State), writeAccepted s.chip req (R.TNS_SWATCH_REQ site.val) → bitOf v.toNat 31 = true → bitOf v.toNat 6 = false →
    fget v.toNat 5 0 < groupsOf site.val → s.chip.calibOf site.val (fget v.toNat 5 0) = none →
    completes (.swatchReq req site v) s (fun t => t.chip.rd ⟨R.TNS_GROUP_TRIG site.val (fget v.toNat 5 0), 3, 3⟩ = 1 ∧ onlyChip s t)) ∧
  (∀ (site : Fin 24) (plane : Fin 42) (d : Fin 2) (k : Fin 40) (r : Nat) (s : State), s.chip.rd (ringLoop ⟨site.val, plane.val, d.val, k.val⟩) = loLOCKED →
    64511 < s.chip.rd (ringHeater ⟨site.val, plane.val, d.val, k.val⟩) → getKey (⟨site.val, plane.val, d.val, k.val⟩ : RingKey) s.chip.tns.outside = some r → r + 64 ≤ s.chip.row →
    s.chip.on (R.TNS_GROUP_TRIG_DARK site.val plane.val) = false →
    completes (.edgeTrigger site plane d k) s (fun t => t.chip = s.chip.trigger site.val plane.val 4 ∧ onlyChip s t)) ∧
  (∀ (site : Fin 24) (plane : Fin 42) (d : Fin 2) (k : Fin 40) (s : State), getKey (⟨site.val, plane.val, d.val, k.val⟩ : RingKey) (s.chip.watchBand ⟨site.val, plane.val, d.val, k.val⟩).tns.outside = none →
    completes (.edgeTrigger site plane d k) s (fun t => t.chip = s.chip.watchBand ⟨site.val, plane.val, d.val, k.val⟩ ∧ onlyChip s t)) ∧
  (∀ (site : Fin 24) (group : Fin 42) (s : State), s.chip.intervalPassed site.val group.val = true →
    completes (.triggerIntervalExpiry site group) s (fun t => (∀ bit, (site.val, group.val, bit) ∉ t.chip.tns.heldTrig) ∧ (∀ y ∈ s.chip.tns.heldTrig, (y.1, y.2.1) ≠ (site.val, group.val) → y ∈ t.chip.tns.heldTrig)
      ∧ t.chip = { s.chip with tns := { s.chip.tns with heldTrig := t.chip.tns.heldTrig } } ∧ onlyChip s t)) ∧
  (∀ (l : Nat × Nat × Nat) (since : Nat) (s : State), s.chip.tokenHeld = true → s.chip.on R.OPF_STATUS_DETECT_HOLD = false →
    firstOf (s.chip.swatchQueue.filter (fun x => s.chip.mayBook x.2.1 x.2.2)) = some (l, since) →
    completes .swatchStart s (fun t => (∃ w : Swatch, t.chip.tns.swatches = s.chip.tns.swatches ++ [w] ∧ w.lane = l ∧ w.start = s.chip.row + 1 ∧ w.begun = false
        ∧ w.codes.map (·.1) = s.chip.ringsOfLane l ∧ w.sites = s.chip.laneSites l.1 l.2.1 l.2.2) ∧ l ∉ t.chip.tns.first ∧ t.chip.regs = s.chip.regs ∧ onlyChip s t)) ∧
  (∀ (s : State), s.chip.tokenHeld = true → s.chip.on R.OPF_STATUS_DETECT_HOLD = false → firstOf (s.chip.swatchQueue.filter (fun x => s.chip.mayBook x.2.1 x.2.2)) = none →
    completes .swatchStart s (fun t => t.chip = s.chip.askPorts ∧ onlyChip s t)) ∧
  (∀ (site : Fin 24) (plane : Fin 42) (k : Fin 40) (w : Swatch) (measured : List RingSweep) (s : State), s.chip.swatchOn site.val plane.val k.val = some w → w.ended = none →
    s.chip.tokenHeld = true → w.returnRow ≤ s.chip.row + 1 → (∀ x ∈ (w.codes.map (·.1)).zipIdx, (s.chip.ringResult x.1 measured[x.2]?).isSome = true) →
    completes (.swatchEnd site plane k measured) s (fun t => t.chip.tns.swatches = updFirst (fun y => y == w) (fun y => { y with ended := some measured }) s.chip.tns.swatches ∧ onlyChip s t)) ∧
  (∀ (site : Fin 24) (plane : Fin 42) (k : Fin 40) (w : Swatch) (x : RingKey) (n : Nat) (r : RingSweep) (t0 : Nat × Nat × RingSweep) (s : State),
    s.chip.tns.swatches = [w] → s.chip.swatchOn site.val plane.val k.val = some w → w.ended = none → w.codes = [(x, n)] → s.chip.tokenHeld = true → w.returnRow ≤ s.chip.row + 1 →
    s.chip.ringResult x (some r) = some t0 → s.chip.rd (ringLoop x) = loSWATCH →
    completes (.swatchEnd site plane k [r]) s (fun t => t.chip = (s.chip.takeResult x t0).updSwatch w (fun y => { y with ended := some [r] }) ∧ t.chip.rd (ringLoop x) = loLOCKED
      ∧ t.chip.rd (ringTwin x) = t0.1 % 2 ∧ t.chip.rd (ringHeater x) = t0.2.1 % 65536 ∧ getKey x t.chip.tns.slopes = some t0.2.2.slope.toNat ∧ onlyChip s t)) ∧
  (∀ (site : Fin 24) (plane : Fin 42) (k : Fin 40) (w : Swatch) (x : RingKey) (n : Nat) (measured : List RingSweep) (s : State), s.chip.tns.swatches = [w] →
    s.chip.swatchOn site.val plane.val k.val = some w → w.ended = none → w.codes = [(x, n)] → s.chip.tokenHeld = true → w.returnRow ≤ s.chip.row + 1 → s.chip.ringResult x measured[0]? = none → s.chip.rd (ringLoop x) = loSWATCH →
    completes (.swatchEnd site plane k measured) s (fun t => t.chip.tns.swatches = []
      ∧ t.chip.rd (R.TNS_SWATCH_COUNT_FAILED site.val) = min (R.TNS_SWATCH_COUNT_FAILED site.val).top (s.chip.rd (R.TNS_SWATCH_COUNT_FAILED site.val) + 1) ∧ onlyChip s t)) ∧
  (∀ (site : Fin 24) (plane : Fin 42) (k : Fin 40) (w : Swatch) (s : State), s.chip.swatchOn site.val plane.val k.val = some w → s.chip.tokenHeld = false → s.chip.pcu.lostRow + 1024 ≤ s.chip.row →
    completes (.swatchLeaseAbandon site plane k) s (fun t => t.chip = s.chip.swatchAbandon w ∧ t.chip.tns.swatches = dropFirst (fun x => x == w) s.chip.tns.swatches ∧ onlyChip s t)) ∧
  (∀ (req : Requester) (site : Fin 24) (v : BitVec 32) (dev : BitVec 16) (failed : BitVec 4) (s : State), writeAccepted s.chip req (R.TNS_GAUGE_CTRL site.val) →
    bitOf v.toNat 31 = true → site.val ≠ 0 → dev.toInt.natAbs ≤ 500 →
    completes (.gaugeGo req site v dev failed) s (fun t => t.chip.rd (R.TNS_GAUGE_RESULT_STATUS site.val) = 1 ∧ t.chip.rd (R.TNS_GAUGE_RESULT_DEVIATION site.val) = dev.toNat
      ∧ getKey site.val t.chip.tns.corrDue = some dev.toInt ∧ t.chip.tns.correction = s.chip.tns.correction ∧ onlyChip s t)) ∧
  (∀ (devs : List (BitVec 16)) (failed : BitVec 4) (power : BitVec 16) (s : State), (∀ i : Fin 24, s.chip.rd (R.TNS_GAUGE_CTRL_PERIOD i.val) = 0) →
    exec (.gaugePeriodic devs failed power) s = .next s) ∧
  (∀ (devs : List (BitVec 16)) (failed : BitVec 4) (power : BitVec 16) (s : State), (∃ i : Fin 24, s.chip.rd (R.TNS_GAUGE_CTRL_PERIOD i.val) ≠ 0 ∧
      (getKey i.val s.chip.tns.gaugeAt).getD 0 + 3600 * s.chip.rd (R.TNS_GAUGE_CTRL_PERIOD i.val) ≤ s.chip.opSecs) →
    completes (.gaugePeriodic devs failed power) s (fun t => t.chip.rd R.PWR_GAUGE_STATUS = (if power.toInt.natAbs ≤ 500 then 1 else 2) ∧ t.chip.rd R.PWR_GAUGE_DEVIATION = power.toNat
      ∧ (∀ i : Fin 24, s.chip.rd (R.TNS_GAUGE_CTRL_PERIOD i.val) ≠ 0 → (getKey i.val s.chip.tns.gaugeAt).getD 0 + 3600 * s.chip.rd (R.TNS_GAUGE_CTRL_PERIOD i.val) ≤ s.chip.opSecs →
        t.chip.rd (R.TNS_GAUGE_RESULT_DEVIATION i.val) = (devs.getD i.val 0).toNat ∧ t.chip.rd (R.TNS_GAUGE_RESULT_STATUS i.val) = (if (devs.getD i.val 0).toInt.natAbs ≤ 500 then 1 else 2)
          ∧ getKey i.val t.chip.tns.gaugeAt = some s.chip.opSecs) ∧ onlyChip s t))

/-- What a lane sends in a frame slot (R124, R125, R129, R131). -/
def Obligations.FrameSendingCompletes : Prop :=
  (∀ (ln : LinkLane) (slot : Fin 77) (s : State), isPort (linkKey ln) = true ∨ slot.val < 35 → s.chip.txState (linkKey ln) = lsTRAIN → s.chip.runOn (linkKey ln) = none →
    completes (.frameSend ln slot) s (fun t => (t.chip.linkTx (linkKey ln)).lastFrame
        = some (s.chip.makeFrame (linkKey ln) slot.val ftTRAIN 0 (subMod 16 (s.chip.linkTx (linkKey ln)).nextSeq 1) 0 (s.chip.trainPayload (linkKey ln)))
      ∧ (t.chip.linkTx (linkKey ln)).replay = (s.chip.linkTx (linkKey ln)).replay ∧ t.chip.regs = s.chip.regs ∧ onlyChip s t)) ∧
  (∀ (ln : LinkLane) (slot : Fin 77) (s : State), isPort (linkKey ln) = true ∨ slot.val < 35 → s.chip.txState (linkKey ln) ∈ [lsHOLD, lsPARKED, lsMONITOR, lsSTANDBY] → s.chip.runOn (linkKey ln) = none →
    completes (.frameSend ln slot) s (fun t => (t.chip.linkTx (linkKey ln)).lastFrame
        = some (s.chip.makeFrame (linkKey ln) slot.val ftIDLE 0 (subMod 16 (s.chip.linkTx (linkKey ln)).nextSeq 1) 0 [])
      ∧ (t.chip.linkTx (linkKey ln)).replay = (s.chip.linkTx (linkKey ln)).replay ∧ (t.chip.linkTx (linkKey ln)).nextSeq = (s.chip.linkTx (linkKey ln)).nextSeq
      ∧ t.chip.regs = s.chip.regs ∧ onlyChip s t)) ∧
  (∀ (ln : LinkLane) (slot : Fin 77) (f : Frame) (s : State), isPort (linkKey ln) = true ∨ slot.val < 35 → s.chip.carriesData (linkKey ln) = true →
    0 < (s.chip.linkTx (linkKey ln)).resend → (s.chip.linkTx (linkKey ln)).replay[(s.chip.linkTx (linkKey ln)).replay.length - (s.chip.linkTx (linkKey ln)).resend]? = some f →
    completes (.frameSend ln slot) s (fun t => (t.chip.linkTx (linkKey ln)).lastFrame
        = some (s.chip.makeFrame (linkKey ln) slot.val f.ftype (128 + f.flags % 64) f.seq f.runCheck f.payload)
      ∧ (t.chip.linkTx (linkKey ln)).resend = (s.chip.linkTx (linkKey ln)).resend - 1 ∧ (t.chip.linkTx (linkKey ln)).replay = (s.chip.linkTx (linkKey ln)).replay
      ∧ t.chip.regs = s.chip.regs ∧ onlyChip s t)) ∧
  (∀ (ln : LinkLane) (slot : Fin 77) (s : State), isPort (linkKey ln) = true ∨ slot.val < 35 → s.chip.carriesData (linkKey ln) = true → (s.chip.linkTx (linkKey ln)).resend = 0 →
    replayDepth (linkKey ln) ≤ (s.chip.linkTx (linkKey ln)).replay.length →
    completes (.frameSend ln slot) s (fun t => (t.chip.linkTx (linkKey ln)).lastFrame
        = some (s.chip.makeFrame (linkKey ln) slot.val ftIDLE 0 (subMod 16 (s.chip.linkTx (linkKey ln)).nextSeq 1) 0 [])
      ∧ (t.chip.linkTx (linkKey ln)).replay = (s.chip.linkTx (linkKey ln)).replay ∧ t.chip.xport = s.chip.xport ∧ onlyChip s t)) ∧
  (∀ (ln : LinkLane) (slot : Fin 77) (s : State), isPort (linkKey ln) = true ∨ slot.val < 35 → s.chip.txState (linkKey ln) = lsUP → (s.chip.linkTx (linkKey ln)).resend = 0 →
    (s.chip.linkTx (linkKey ln)).replay.length < replayDepth (linkKey ln) →
    completes (.frameSend ln slot) s (fun t => t.chip = s.sendNew (linkKey ln) slot.val ∧ onlyChip s t)) ∧
  (∀ (l : Lane) (slot : Fin 77) (sts : List Stitch) (c : Chip) (s : State), slot.val < 35 → s.chip.txState (linkKey (.pkg l)) = lsUP → (s.chip.linkTx (linkKey (.pkg l))).resend = 0 →
    (s.chip.linkTx (linkKey (.pkg l))).replay.length < replayDepth (linkKey (.pkg l)) → s.chip.laneBooked l.site.val l.plane.val l.k.val = false →
    Config.planeKind l.site.val l.plane.val = 1 → fixedTraffic l.site.val l.plane.val l.k.val = true →
    s.chip.fillSlots l.site.val ((l.site.val + l.k.val) % 24) (s.chip.slotPlanes (linkKey (.pkg l)) slot.val).length ((s.chip.slotPlanes (linkKey (.pkg l)) slot.val).idxOf l.plane.val) = (sts, c) → sts ≠ [] →
    completes (.frameSend (.pkg l) slot) s (fun t => t.chip = c.emitData (linkKey (.pkg l)) slot.val ftSTITCH (2 ^ sts.length - 1) 0 (sts.flatMap Stitch.bytes) ∧ onlyChip s t)) ∧
  (∀ (ln : LinkLane) (slot : Fin 77) (r : PatRun) (s : State), isPort (linkKey ln) = true ∨ slot.val < 35 → s.chip.txState (linkKey ln) = lsTEST → s.chip.runOn (linkKey ln) = some r → r.pattern = 5 → (s.chip.linkTx (linkKey ln)).resend = 0 →
    (s.chip.linkTx (linkKey ln)).replay.length < replayDepth (linkKey ln) →
    completes (.frameSend ln slot) s (fun t => t.chip = s.chip.emitPattern (linkKey ln) slot.val r ∧ onlyChip s t)) ∧
  (∀ (ln : LinkLane) (slot : Fin 77) (s : State), s.chip.txState (linkKey ln) ∈ [lsOFF, lsFENCED, lsCAL] → s.chip.runOn (linkKey ln) = none →
    exec (.frameSend ln slot) s = .next s)

/-- What a receiver does with frames and markers (R123, R126, R129, R130). -/
def Obligations.FrameReceivingCompletes : Prop :=
  (∀ (ln : LinkLane) (f : Frame) (pos : Fin 77) (off : Nat) (s : State), s.chip.rxState (linkKey ln) ∉ [lsOFF, lsFENCED, lsCAL] → s.chip.rxErrReg (linkKey ln) = some off →
    isPort (linkKey ln) = true ∨ s.chip.unscrambled (linkKey ln) pos.val f = f → Frame.crcOk f = false → (s.chip.linkRx (linkKey ln)).nakSent = false →
    completes (.frameReceive ln f pos []) s (fun t => t.chip.rd ⟨off, 31, 16⟩ = min 65535 (s.chip.rd ⟨off, 31, 16⟩ + 1) ∧ (t.chip.linkRx (linkKey ln)).nakDue = true
      ∧ (t.chip.linkRx (linkKey ln)).goodTrain = 0 ∧ (t.chip.linkRx (linkKey ln)).expect = (s.chip.linkRx (linkKey ln)).expect ∧ t.chip.xport = s.chip.xport ∧ regsSameBut s.chip t.chip [off] ∧ onlyChip s t)) ∧
  (∀ (l : Lane) (f : Frame) (pos : Fin 77) (x : Side) (off : Nat) (s : State), s.chip.rxState (linkKey (.pkg l)) = lsUP → s.chip.rxErrReg (linkKey (.pkg l)) = some off →
    s.chip.unscrambled (linkKey (.pkg l)) pos.val f = f → Frame.crcOk f = true → f.slot = pos.val → f.rowTag = s.chip.row % 256 → f.ftype = ftSTITCH → f.seq = (s.chip.linkRx (linkKey (.pkg l))).expect →
    Frame.nak f = false → (∀ q, ackedLink (linkKey (.pkg l)) = some q → (s.chip.linkTx q).replay = []) →
    s.chip.rxSide l.site.val l.plane.val l.k.val = some x → x.site < 18 →
    completes (.frameReceive (.pkg l) f pos []) s (fun t => (t.chip.linkRx (linkKey (.pkg l))).expect = ((s.chip.linkRx (linkKey (.pkg l))).expect + 1) % 65536
      ∧ t.chip.xport.arrived = s.chip.xport.arrived ++ (Frame.stitches f).map (fun st => ⟨x.site, x.plane, l.k.val, st⟩) ∧ t.chip.regs = s.chip.regs ∧ onlyChip s t)) ∧
  (∀ (ln : LinkLane) (f : Frame) (pos : Fin 77) (off : Nat) (s : State), s.chip.rxState (linkKey ln) ∉ [lsOFF, lsFENCED, lsCAL] → s.chip.rxErrReg (linkKey ln) = some off →
    isPort (linkKey ln) = true ∨ s.chip.unscrambled (linkKey ln) pos.val f = f → Frame.crcOk f = true → f.ftype = ftRUN → f.runCheck = Frame.runCheckOf f → f.slot = pos.val → f.rowTag = s.chip.streamRow (linkKey ln) % 256 →
    s.chip.rxState (linkKey ln) = lsUP → (∀ q, ackedLink (linkKey ln) = some q → (s.chip.linkTx q).replay = []) → Frame.nak f = false → f.seq = (s.chip.linkRx (linkKey ln)).expect →
    completes (.frameReceive ln f pos []) s (fun t => ∃ u : State, t = u.takeRun (linkKey ln) f ∧ (u.chip.linkRx (linkKey ln)).expect = ((s.chip.linkRx (linkKey ln)).expect + 1) % 65536 ∧ u.chip.circ = s.chip.circ
      ∧ u.chip.regs = s.chip.regs ∧ onlyChip s u)) ∧
  (∀ (l : Lane) (f : Frame) (pos : Fin 77) (off : Nat) (s : State), s.chip.rxState (linkKey (.pkg l)) = lsTRAIN → s.chip.rxErrReg (linkKey (.pkg l)) = some off →
    s.chip.unscrambled (linkKey (.pkg l)) pos.val f = f → Frame.crcOk f = true → f.slot = pos.val → f.rowTag = s.chip.row % 256 → f.ftype = ftTRAIN → f.payload.take 4 = s.chip.trainPayload (linkKey (.pkg l)) →
    s.chip.runOn (linkKey (.pkg l)) = none → (∀ q, ackedLink (linkKey (.pkg l)) = some q → (s.chip.linkTx q).replay = []) → Frame.nak f = false →
    completes (.frameReceive (.pkg l) f pos []) s (fun t => (t.chip.linkRx (linkKey (.pkg l))).goodTrain = (s.chip.linkRx (linkKey (.pkg l))).goodTrain + 1
      ∧ (t.chip.linkRx (linkKey (.pkg l))).expect = (s.chip.linkRx (linkKey (.pkg l))).expect ∧ t.chip.regs = s.chip.regs ∧ t.chip.xport = s.chip.xport ∧ onlyChip s t)) ∧
  (∀ (l : Lane) (f : Frame) (pos : Fin 77) (off : Nat) (s : State), s.chip.rxState (linkKey (.pkg l)) = lsUP → s.chip.rxErrReg (linkKey (.pkg l)) = some off →
    s.chip.unscrambled (linkKey (.pkg l)) pos.val f = f → Frame.crcOk f = true → f.slot = pos.val → f.rowTag = s.chip.row % 256 → f.ftype = ftSTITCH → f.seq ≠ (s.chip.linkRx (linkKey (.pkg l))).expect →
    subMod 16 (s.chip.linkRx (linkKey (.pkg l))).expect f.seq ≤ 32768 → Frame.nak f = false → (∀ q, ackedLink (linkKey (.pkg l)) = some q → (s.chip.linkTx q).replay = []) →
    completes (.frameReceive (.pkg l) f pos []) s (fun t => (t.chip.linkRx (linkKey (.pkg l))).expect = (s.chip.linkRx (linkKey (.pkg l))).expect ∧ t.chip.xport = s.chip.xport
      ∧ t.chip.regs = s.chip.regs ∧ onlyChip s t)) ∧
  (∀ (ln : LinkLane) (f : Frame) (m : Marker) (arrived : BitVec 64) (pos : Fin 77) (words : List (List (BitVec 10))) (s : State), s.chip.rxState (linkKey ln) ∈ [lsOFF, lsFENCED, lsCAL] →
    exec (.frameReceive ln f pos words) s = .next s ∧ exec (.rowMarkerReceive ln m arrived) s = .next s) ∧
  (∀ (l : Lane) (m : Marker) (arrived : BitVec 64) (x : Side) (off : Nat) (s : State), s.chip.rxState (linkKey (.pkg l)) ∉ [lsOFF, lsFENCED, lsCAL] → s.chip.rxErrReg (linkKey (.pkg l)) = some off →
    s.chip.rxSide l.site.val l.plane.val l.k.val = some x →
    s.chip.injectionOn (linkKey (.pkg l)) = none → s.chip.markerUnscrambled (linkKey (.pkg l)) = true → m.syncFound = true → Marker.crcOk m = true → m.row = s.chip.row → ((arrived.toNat : Int) - (m.timestamp : Int)).natAbs ≤ 16 →
    completes (.rowMarkerReceive (.pkg l) m arrived) s (fun t => (t.chip.linkRx (linkKey (.pkg l))).badMarkers = 0
      ∧ (t.chip.linkRx (linkKey (.pkg l))).goodMarkers = (s.chip.linkRx (linkKey (.pkg l))).goodMarkers + 1 ∧ t.chip.laneState l.site.val l.plane.val l.k.val = s.chip.laneState l.site.val l.plane.val l.k.val
      ∧ t.chip.rd (R.LANE_FILL_ERR_ERRS x.site x.plane l.k.val) = min (R.LANE_FILL_ERR_ERRS x.site x.plane l.k.val).top (s.chip.rd (R.LANE_FILL_ERR_ERRS x.site x.plane l.k.val) + Marker.fillErrors m)
      ∧ onlyChip s t)) ∧
  (∀ (l : Lane) (m : Marker) (arrived : BitVec 64) (off : Nat) (s : State), s.chip.rxState (linkKey (.pkg l)) ∉ [lsOFF, lsFENCED, lsCAL] → s.chip.rxErrReg (linkKey (.pkg l)) = some off →
    s.chip.injectionOn (linkKey (.pkg l)) = none → m.syncFound = false → (s.chip.linkRx (linkKey (.pkg l))).badMarkers = 0 →
    completes (.rowMarkerReceive (.pkg l) m arrived) s (fun t => (t.chip.linkRx (linkKey (.pkg l))).badMarkers = 1
      ∧ t.chip.rd ⟨off, 7, 0⟩ = min 255 (s.chip.rd ⟨off, 7, 0⟩ + 1) ∧ regsSameBut s.chip t.chip [off] ∧ onlyChip s t)) ∧
  (∀ (l : Lane) (m : Marker) (arrived : BitVec 64) (off : Nat) (s : State), s.chip.rxState (linkKey (.pkg l)) ∉ [lsOFF, lsFENCED, lsCAL] → s.chip.rxErrReg (linkKey (.pkg l)) = some off →
    s.chip.injectionOn (linkKey (.pkg l)) = none → m.syncFound = false → 1 ≤ (s.chip.linkRx (linkKey (.pkg l))).badMarkers →
    completes (.rowMarkerReceive (.pkg l) m arrived) s (fun t => onlyChip s t ∧ ∃ c : Chip, t.chip = c.fence l.site.val l.plane.val l.k.val 6 false false
      ∧ c.rd ⟨off, 7, 0⟩ = min 255 (s.chip.rd ⟨off, 7, 0⟩ + 1) ∧ regsSameBut s.chip c [off] ∧ c.opf = s.chip.opf)) ∧
  (∀ (j : Fin 16) (l : Fin 40) (m : Marker) (arrived : BitVec 64) (s : State), s.chip.rxState (linkKey (.port j l)) ∉ [lsOFF, lsFENCED, lsCAL] →
    s.chip.injectionOn (linkKey (.port j l)) = none → m.symbols = [] → m.syncFound = true → m.crc = crc32 (Marker.portBody m) → getKey (j.val, l.val) s.chip.edge.fec = none →
    getKey (j.val, l.val) s.chip.edge.inRow = none ∨ getKey (j.val, l.val) s.chip.edge.inRow = some m.row → (s.chip.markerLate (linkKey (.port j l)) m arrived.toNat).natAbs ≤ 16 →
    completes (.rowMarkerReceive (.port j l) m arrived) s (fun t => getKey (j.val, l.val) t.chip.edge.inRow = some (m.row + 1) ∧ (t.chip.linkRx (linkKey (.port j l))).badMarkers = 0
      ∧ (t.chip.linkRx (linkKey (.port j l))).goodMarkers = (s.chip.linkRx (linkKey (.port j l))).goodMarkers + 1 ∧ t.chip.regs = s.chip.regs ∧ onlyChip s t))

/-- Timeouts, acknowledgement messages, training, pattern runs, injections (R128 to R140). -/
def Obligations.LinkTimeoutsTrainingAndTestsComplete : Prop :=
  (∀ (ln : LinkLane) (s : State), (s.chip.linkRx (linkKey ln)).nakSent = true → s.chip.linkTimeout (linkKey ln) ≤ (s.chip.linkRx (linkKey ln)).nakSlots →
    completes (.nakRepeatTimeout ln) s (fun t => t.chip.linkRx (linkKey ln) = { s.chip.linkRx (linkKey ln) with nakSent := false, nakDue := true } ∧ t.chip.regs = s.chip.regs
      ∧ t.chip.lanes.tx = s.chip.lanes.tx ∧ onlyChip s t)) ∧
  (∀ (l : Lane) (s : State), (s.chip.linkTx (linkKey (.pkg l))).replay ≠ [] → s.chip.linkTimeout (linkKey (.pkg l)) ≤ (s.chip.linkTx (linkKey (.pkg l))).waited →
    s.chip.carriesData (linkKey (.pkg l)) = true → s.chip.timeoutExcepted (linkKey (.pkg l)) = true →
    completes (.gobackTimeout (.pkg l)) s (fun t => (t.chip.linkTx (linkKey (.pkg l))).resend = (s.chip.linkTx (linkKey (.pkg l))).replay.length
      ∧ (t.chip.linkTx (linkKey (.pkg l))).replay = (s.chip.linkTx (linkKey (.pkg l))).replay ∧ (t.chip.linkTx (linkKey (.pkg l))).waited = 0 ∧ onlyChip s t)) ∧
  (∀ (ln : LinkLane) (s : State), (s.chip.linkTx (linkKey ln)).replay ≠ [] → s.chip.linkTimeout (linkKey ln) ≤ (s.chip.linkTx (linkKey ln)).waited → s.chip.carriesData (linkKey ln) = true → s.chip.waitsForSpare (linkKey ln) = false →
    completes (.gobackTimeout ln) s (fun t => t.chip = ((s.chip.goBack (linkKey ln)).setTx (linkKey ln) { (s.chip.goBack (linkKey ln)).linkTx (linkKey ln) with injected := none, quiet := false, wentBack := true }).linkRetry (linkKey ln) (!s.chip.timeoutExcepted (linkKey ln))
      ∧ onlyChip s t)) ∧
  (∀ (l : Lane) (s : State), s.chip.messageAcked (linkKey (.pkg l)) = true → (s.chip.linkRx (linkKey (.pkg l))).nakDue = true ∨ 8 ≤ (s.chip.linkRx (linkKey (.pkg l))).ackSlots →
    completes (.linkAckMessage l) s (fun t => t.chip = (s.chip.ackMessageSent (linkKey (.pkg l))).takeAck (linkKey (.pkg l)) (s.chip.ackSeq (linkKey (.pkg l))) (s.chip.linkRx (linkKey (.pkg l))).nakDue ∧ onlyChip s t)) ∧
  (∀ (l : Lane) (s : State), s.chip.messageAcked (linkKey (.pkg l)) = true → (s.chip.linkRx (linkKey (.pkg l))).nakDue = false → 8 ≤ (s.chip.linkRx (linkKey (.pkg l))).ackSlots →
    (s.chip.linkTx (linkKey (.pkg l))).suppressRow = none → (∀ f ∈ (s.chip.linkTx (linkKey (.pkg l))).replay, subMod 16 (s.chip.ackSeq (linkKey (.pkg l))) f.seq < 32768) →
    completes (.linkAckMessage l) s (fun t => (t.chip.linkTx (linkKey (.pkg l))).replay = [] ∧ (t.chip.linkTx (linkKey (.pkg l))).resend = 0 ∧ (t.chip.linkRx (linkKey (.pkg l))).ackSlots = 0 ∧ onlyChip s t)) ∧
  (∀ (l : Lane) (q : Nat × Nat × Nat) (s : State), s.chip.cyc = 0 → s.chip.laneDark l.site.val l.plane.val l.k.val = false → s.chip.laneState l.site.val l.plane.val l.k.val = lsTRAIN → s.chip.trained (l.site.val, l.plane.val, l.k.val) = true →
    partner l.site.val l.plane.val l.k.val = some q → q.1 ≠ l.site.val → s.chip.laneState q.1 q.2.1 q.2.2 = lsTRAIN → s.chip.trained q = true →
    Config.planeKind l.site.val l.plane.val = 1 → fixedTraffic l.site.val l.plane.val l.k.val = true →
    completes (.laneUp l) s (fun t => t.chip.laneState l.site.val l.plane.val l.k.val = lsUP ∧ getKey (l.site.val, l.plane.val, l.k.val) t.chip.lanes.trainRow = none
      ∧ regsSameBut s.chip t.chip [R.LANE_STATE l.site.val l.plane.val l.k.val, R.LANE_STATE q.1 q.2.1 q.2.2] ∧ onlyChip s t)) ∧
  (∀ (l : Lane) (q : Nat × Nat × Nat) (s : State), s.chip.cyc = 0 → s.chip.laneDark l.site.val l.plane.val l.k.val = false → s.chip.laneState l.site.val l.plane.val l.k.val = lsTRAIN → s.chip.trained (linkKey (.pkg l)) = true →
    partner l.site.val l.plane.val l.k.val = some q → q ≠ linkKey (.pkg l) → s.chip.laneState q.1 q.2.1 q.2.2 = lsTRAIN → s.chip.trained q = true →
    completes (.laneUp l) s (fun t => t.chip = (s.chip.enterService (linkKey (.pkg l))).enterService q ∧ onlyChip s t)) ∧
  (∀ (l : Lane) (s : State), s.chip.cyc = 0 → s.chip.laneDark l.site.val l.plane.val l.k.val = false → s.chip.laneState l.site.val l.plane.val l.k.val = lsTRAIN → s.chip.trained (linkKey (.pkg l)) = true →
    (∀ q, partner l.site.val l.plane.val l.k.val = some q → q = linkKey (.pkg l) ∨ s.chip.laneState q.1 q.2.1 q.2.2 = lsFENCED) →
    completes (.laneUp l) s (fun t => t.chip = s.chip.enterService (linkKey (.pkg l)) ∧ onlyChip s t)) ∧
  (∀ (l : Lane) (r : Nat) (s : State), getKey (l.site.val, l.plane.val, l.k.val) s.chip.lanes.trainRow = some r → s.chip.laneState l.site.val l.plane.val l.k.val = lsTRAIN → r + 64 ≤ s.chip.row →
    completes (.trainingTimeout l) s (fun t => t.chip = s.chip.fence l.site.val l.plane.val l.k.val 9 false false ∧ onlyChip s t)) ∧
  (∀ (l : Lane) (r : Nat) (s : State), getKey (l.site.val, l.plane.val, l.k.val) s.chip.lanes.trainRow = some r → s.chip.row < r + 64 → exec (.trainingTimeout l) s = .next s) ∧
  (∀ (req : Requester) (site : Fin 24) (v : BitVec 32) (s : State), writeAccepted s.chip req (R.LANE_PAT_CTRL site.val) → v.toNat / 2 ^ 30 = 2 → s.chip.rd (R.LANE_PAT_SEL_PATTERN site.val) ≤ 5 →
    monitorLane site.val (s.chip.rd (R.LANE_PAT_SEL_PLANE site.val)) (s.chip.rd (R.LANE_PAT_SEL_K site.val)) = false → s.chip.rd (R.LANE_PAT_SEL_K site.val) < 24 →
    Config.planeKind site.val (s.chip.rd (R.LANE_PAT_SEL_PLANE site.val)) ≠ 0 →
    selfTest site.val (s.chip.rd (R.LANE_PAT_SEL_PLANE site.val)) (s.chip.rd (R.LANE_PAT_SEL_K site.val)) = false →
    s.chip.laneState site.val (s.chip.rd (R.LANE_PAT_SEL_PLANE site.val)) (s.chip.rd (R.LANE_PAT_SEL_K site.val)) = lsUP →
    completes (.patternGo req site v) s (fun t => t.chip.rd (R.LANE_PAT_RESULT_STATUS site.val) = 1
      ∧ t.chip.lanes.runs = s.chip.lanes.runs ++ [{ site := site.val, plane := s.chip.rd (R.LANE_PAT_SEL_PLANE site.val), k := s.chip.rd (R.LANE_PAT_SEL_K site.val), pattern := s.chip.rd (R.LANE_PAT_SEL_PATTERN site.val), row := s.chip.boundaryAfter 64, rows := max 1 (fget v.toNat 15 0), running := false, selfTest := false, stop := false }] ∧ onlyChip s t)) ∧
  (∀ (req : Requester) (site : Fin 24) (v : BitVec 32) (s : State), writeAccepted s.chip req (R.LANE_PAT_CTRL site.val) → v.toNat / 2 ^ 30 = 1 →
    completes (.patternStop req site v) s (fun t => t.chip.lanes.runs = s.chip.lanes.runs.map (fun r => if r.site = site.val then { r with stop := true } else r) ∧ onlyChip s t)) ∧
  (∀ (req : Requester) (site : Fin 24) (v : BitVec 32) (s : State), writeAccepted s.chip req (R.LANE_INJ site.val) → bitOf v.toNat 31 = true → s.chip.lanes.inj = [] →
    1 ≤ fget v.toNat 29 27 → fget v.toNat 29 27 ≤ 3 → fget v.toNat 4 0 < 24 → s.chip.laneState site.val (fget v.toNat 13 8) (fget v.toNat 4 0) = lsUP →
    completes (.injectGo req site v) s (fun t => t.chip.lanes.inj = [⟨site.val, fget v.toNat 13 8, fget v.toNat 4 0, fget v.toNat 29 27, bitOf v.toNat 30⟩]
      ∧ t.chip.rd (R.LANE_INJ_RESULT_STATUS site.val) = 1 ∧ onlyChip s t)) ∧
  (∀ (req : Requester) (site : Fin 24) (v : BitVec 32) (s : State), writeAccepted s.chip req (R.LANE_INJ site.val) → bitOf v.toNat 31 = true → s.chip.lanes.inj = [] → fget v.toNat 29 27 = 0 →
    completes (.injectGo req site v) s (fun t => t.chip.lanes.inj = [] ∧ t.chip.rd (R.LANE_INJ_RESULT_STATUS site.val) = 4 ∧ onlyChip s t))

/-- Source adapters (R147 to R158, R168, R172, R173). -/
def Obligations.SourceAdapterCommandsComplete : Prop :=
  (∀ (site : Fin 24) (ctx : IssueCtx) (top : Fin 64) (req : Stitch) (tn : Nat) (s : State), s.chip.ctxTenant site.val ctx = some tn → 
    completes (.stitchEntry site ctx top req) s (fun t => t.chip = s.chip.request site.val top.val { withOwner ctx req with tag := 0, tenant := tn } ∧ onlyChip s t)) ∧
  (∀ (site : Fin 24) (ctx : IssueCtx) (top : Fin 64) (req st : Stitch) (tn : Nat) (s : State), s.chip.ctxTenant site.val ctx = some tn → s.chip.rd (R.PART_STATE_STATE tn) ≠ 3 →
    req.opcode ≠ opRUN_OPEN → s.chip.aim top.val { withOwner ctx req with tag := 0, tenant := tn } = (stOK, st) → opSequenced st.opcode = true → st.opcode ≠ opSEND → s.chip.entryCheck site.val st = stOK → s.chip.entryStalls site.val st = false →
    st.dstSite < 24 →
    completes (.stitchEntry site ctx top req) s (fun t => t.chip.xport.out = s.chip.xport.out ++ [{ site := site.val, st := s.chip.build site.val st, row := s.chip.row }]
      ∧ t.chip.flowNext site.val st.dstNode st.tenant = ((s.chip.build site.val st).seq + 1) % 65536
      ∧ t.chip.xport.waiting = s.chip.xport.waiting ++ [(site.val, { s.chip.build site.val st with tag := 0 })] ∧ onlyChip s t)) ∧
  (∀ (site : Fin 24) (ctx : IssueCtx) (req : Stitch) (tn : Nat) (s : State), s.chip.ctxTenant site.val ctx = some tn → s.chip.rd (R.PART_STATE_STATE tn) ≠ 3 → req.opcode = opSEND → sendIndex req = 0 →
    s.chip.entryCheck site.val { req with tag := 0, tenant := tn } = stOK → s.chip.entryStalls site.val { req with tag := 0, tenant := tn } = false → s.chip.xport.stalled = [] → req.dstNode = s.chip.node → req.dstSite < 24 →
    completes (.stitchEntry site ctx 0 req) s (fun t => t.chip.xport.out = s.chip.xport.out ++ [{ site := site.val, st := s.chip.build site.val { req with tag := 0, tenant := tn }, row := s.chip.row }]
      ∧ t.chip.flowNext site.val req.dstNode tn = ((s.chip.build site.val { req with tag := 0, tenant := tn }).seq + 1) % 65536 ∧ t.chip.xport.sends.length = s.chip.xport.sends.length + 1
      ∧ t.chip.xport.waiting = s.chip.xport.waiting ++ [(site.val, { s.chip.build site.val { req with tag := 0, tenant := tn } with tag := 0 })] ∧ onlyChip s t)) ∧
  (∀ (site : Fin 24) (ctx : IssueCtx) (top : Fin 64) (req st : Stitch) (tn : Nat) (s : State), s.chip.ctxTenant site.val ctx = some tn → s.chip.rd (R.PART_STATE_STATE tn) ≠ 3 →
    req.opcode ≠ opRUN_OPEN → s.chip.aim top.val { withOwner ctx req with tag := 0, tenant := tn } = (stOK, st) → st.opcode ≠ opSEND → st.tenant = tn → s.chip.entryCheck site.val st = stTENANT → countsAtSource st.opcode st.cnt = false →
    completes (.stitchEntry site ctx top req) s (fun t => t.chip.xport.out = s.chip.xport.out ∧ t.chip.xport.waiting = s.chip.xport.waiting
      ∧ t.chip.xport.done = some ⟨site.val, st.opcode, st.tenant, st.seq, stTENANT, []⟩
      ∧ t.chip.rd (R.SITE_REFUSED_COUNT site.val stTENANT) = min (R.SITE_REFUSED_COUNT site.val stTENANT).top (s.chip.rd (R.SITE_REFUSED_COUNT site.val stTENANT) + 1) ∧ onlyChip s t)) ∧
  (∀ (site : Fin 32) (a : AckPend) (s : State), s.chip.xport.acks = [a] → s.chip.xport.nacks = [] → a.site = site.val → s.chip.ackDelay site.val ≤ s.chip.cycles - a.since →
    site.val ≠ 31 → a.srcSite ≠ 31 → a.node ≠ s.chip.node ∨ s.chip.skeinLost site.val a.srcSite = false →
    completes (.ackSend site) s (fun t => t.chip.xport.acks = [] ∧ t.chip.xport.nacks = [] ∧ t.chip.xport.waiting = s.chip.xport.waiting ++ [(site.val, s.chip.stamped (ackStitch a))]
      ∧ t.chip.regs = s.chip.regs ∧ t.chip.xport.out = s.chip.xport.out ∧ onlyChip s t)) ∧
  (∀ (site : Fin 32) (s : State), completes (.ackSend site) s (fun t => t.chip = s.chip.sendAnswers site.val ∧ (∀ a ∈ t.chip.xport.acks, a.site = site.val → s.chip.cycles - a.since < s.chip.ackDelay site.val)
      ∧ (∀ a ∈ t.chip.xport.nacks, a.site = site.val → s.chip.cycles - a.since < s.chip.ackDelay site.val) ∧ onlyChip s t)) ∧
  (∀ (site : Fin 24) (node : Fin 4096) (tenant : Fin 16) (seq : BitVec 16) (e : OutEntry) (s : State), s.chip.outstanding site.val node.val tenant.val seq.toNat = some e →
    e.site = site.val → s.chip.xport.out = [e] → e.row + s.chip.e2eRows site.val ≤ s.chip.row → e.st.opcode = opSTORE → s.chip.red.relays = [] → s.chip.xport.stalled = [] → s.chip.xport.arrived = [] →
    completes (.e2eTimeout (Fin.castLE (by omega) site) node tenant seq) s (fun t => t.chip.xport.out = [{ e with dead := some s.chip.row }]
      ∧ t.chip.xport.done.map (·.status) = some stTIMEOUT ∧ onlyChip s t)) ∧
  (∀ (site : Fin 32) (node : Fin 4096) (tenant : Fin 16) (seq : BitVec 16) (e : OutEntry) (s : State), s.chip.outstanding site.val node.val tenant.val seq.toNat = some e →
    e.row + s.chip.e2eRows site.val ≤ s.chip.row → (∀ a ∈ s.chip.xport.arrived, answersSeq a.st seq.toNat = false) →
    completes (.e2eTimeout site node tenant seq) s (fun t => t.chip = (if e.st.opcode = opRUN_OPEN then (s.chip.timeOut e).runAnswered site.val node.val tenant.val seq.toNat stTIMEOUT else s.chip.timeOut e) ∧ onlyChip s t)) ∧
  (∀ (src dst : Fin 24) (pool : Fin 2) (s : State), s.chip.creditsDue src.val dst.val pool.val = true →
    completes (.creditReturn src dst pool) s (fun t => t.chip.xport.freed = putKey (src.val, dst.val, pool.val) ((getKey (src.val, dst.val, pool.val) s.chip.xport.freed).getD 0
          - min 64 ((getKey (src.val, dst.val, pool.val) s.chip.xport.freed).getD 0)) s.chip.xport.freed
      ∧ t.chip.xport.credits = putKey (src.val, dst.val, pool.val) ((getKey (src.val, dst.val, pool.val) s.chip.xport.credits).getD 0
          - min 64 ((getKey (src.val, dst.val, pool.val) s.chip.xport.freed).getD 0)) s.chip.xport.credits
      ∧ t.chip.regs = s.chip.regs ∧ onlyChip s t)) ∧
  (∀ (site : Fin 24) (s : State), completes (.msgTimeout site) s (fun t =>
      t.chip.xport.slots = s.chip.xport.slots.filter (fun x => !(x.site == site.val && !x.complete && decide (x.row + s.chip.rdPos (R.SITE_XPORT_CFG_MSG_TIMEOUT site.val) ≤ s.chip.row)))
      ∧ (∀ r ∈ t.chip.xport.refusals, r.site = site.val → s.chip.row < r.row + s.chip.rdPos (R.SITE_XPORT_CFG_MSG_TIMEOUT site.val))
      ∧ t.chip.rd (R.SITE_MSG_TABLE_ORPHANS site.val) = min (R.SITE_MSG_TABLE_ORPHANS site.val).top (s.chip.rd (R.SITE_MSG_TABLE_ORPHANS site.val)
          + (s.chip.xport.slots.filter (fun x => x.site == site.val && !x.complete && decide (x.row + s.chip.rdPos (R.SITE_XPORT_CFG_MSG_TIMEOUT site.val) ≤ s.chip.row))).length)
      ∧ t.chip.xport.out = s.chip.xport.out ∧ onlyChip s t)) ∧
  (∀ (site : Fin 24) (node : Fin 4096) (tenant : Fin 16) (seq : BitVec 16) (e : OutEntry) (b : List Nat) (s : State), s.chip.outstanding site.val node.val tenant.val seq.toNat = some e →
    s.chip.xport.out = [e] → e.result = some b → leField b 2 2 ≤ e.landed → s.chip.xport.stalled = [] → e.st.opcode = opSTREAM_READ → s.chip.red.relays = [] →
    completes (.streamResult site node tenant seq) s (fun t => t.mem = memWrite s.mem (leField e.st.data 8 8) b ∧ t.chip.xport.out = []
      ∧ t.chip.xport.done.map (·.status) = some (b.getD 36 0) ∧ t.pending = s.pending)) ∧
  (∀ (site : Fin 24) (node : Fin 4096) (tenant : Fin 16) (seq : BitVec 16) (e : OutEntry) (b : List Nat) (s : State), s.chip.outstanding site.val node.val tenant.val seq.toNat = some e →
    e.result = some b → leField b 2 2 ≤ e.landed → b.getD 36 0 ≠ stSHORT →
    completes (.streamResult site node tenant seq) s (fun t => t = { s with mem := memWrite s.mem (leField e.st.data 8 8) b, chip := ((s.chip.freeOut e).complete e (b.getD 36 0)).unstall }))

/-- Destination adapters (R148, R152, R156, R158, R254, R255, R403). -/
def Obligations.DestinationAdapterCommandsComplete : Prop :=
  (∀ (site : Fin 32) (plane k : Fin 64) (st : Stitch) (a : Nat) (s : State), (⟨site.val, plane.val, k.val, st⟩ : Arrived) ∈ s.chip.xport.arrived →
    Stitch.checkOk st = true → st.opcode = opSTORE → st.opf = 0 → s.chip.rd (R.PART_STATE_STATE st.tenant) ≠ 3 → s.chip.arrivalCheck site.val site.val st = stOK →
    rangeOf st.ppa = .sram → rangeOf a = .sram → s.chip.resolve st.tenant st.ppa = some a → s.chip.placeGood a = true → s.chip.obstacle [a] true none = none →
    completes (.stitchArrival site plane k 0 st) s (fun t => t.mem = memWrite s.mem (a + st.start) (((padTo 64 st.data).drop st.start).take (st.countM1 + 1))
      ∧ t.chip.xport.arrived = dropFirst (fun y => y == ⟨site.val, plane.val, k.val, st⟩) s.chip.xport.arrived ∧ t.pending = s.pending)) ∧
  (∀ (site : Fin 32) (plane k : Fin 64) (st : Stitch) (a : Nat) (s : State), (⟨site.val, plane.val, k.val, st⟩ : Arrived) ∈ s.chip.xport.arrived →
    Stitch.checkOk st = true → st.opcode = opSTORE → st.opf % 1024 = 1 → s.chip.rd (R.PART_STATE_STATE st.tenant) ≠ 3 → s.chip.arrivalCheck site.val site.val st = stOK →
    rangeOf st.ppa = .hbm → rangeOf a = .hbm → s.chip.resolve st.tenant st.ppa = some a → s.chip.placeGood a = true → s.chip.obstacle [a] true (some (st.srcSite - 8)) = none →
    completes (.wb site plane k st) s (fun t => t.mem = memWrite s.mem (a + st.start) (((padTo 64 st.data).drop st.start).take (st.countM1 + 1)) ∧ t.pending = s.pending)) ∧
  (∀ (site : Fin 32) (plane k : Fin 64) (st : Stitch) (a : Nat) (s : State), (⟨site.val, plane.val, k.val, st⟩ : Arrived) ∈ s.chip.xport.arrived →
    Stitch.checkOk st = true → st.opcode = opLOAD → st.opf = 0 → s.chip.rd (R.PART_STATE_STATE st.tenant) ≠ 3 → s.chip.arrivalCheck site.val site.val st = stOK →
    rangeOf st.ppa = .sram → rangeOf a = .sram → s.chip.resolve st.tenant st.ppa = some a → s.chip.placeGood a = true → s.chip.obstacle [a] false none = none → st.srcNode = s.chip.node →
    site.val ≠ 31 → st.srcSite ≠ 31 → s.chip.skeinLost site.val st.srcSite = false →
    completes (.stitchArrival site plane k 0 st) s (fun t => t.chip.xport.waiting = s.chip.xport.waiting ++
        [(site.val, s.chip.stamped { responseTo site.val st opLOAD_RSP (coveredBytes st (memRead s.mem a 64)) with opf := 0 })] ∧ t.mem = s.mem ∧ t.pending = s.pending)) ∧
  (∀ (site : Fin 32) (plane k : Fin 64) (st : Stitch) (a : Nat) (s : State), (⟨site.val, plane.val, k.val, st⟩ : Arrived) ∈ s.chip.xport.arrived →
    Stitch.checkOk st = true → st.opcode = opLOAD → st.opf % 1024 = 1 → s.chip.rd (R.PART_STATE_STATE st.tenant) ≠ 3 → s.chip.arrivalCheck site.val site.val st = stOK →
    rangeOf st.ppa = .hbm → rangeOf a = .hbm → s.chip.resolve st.tenant st.ppa = some a → s.chip.placeGood a = true → s.chip.obstacle [a] true (some (st.srcSite - 8)) = none →
    s.chip.snoopAt a = none → s.chip.mems.snoop = [] → s.chip.skeinLost site.val st.srcSite = false →
    completes (.fillS site plane k 0 st) s (fun t => t.chip.mems.snoop = [⟨lineOf a, st.ppa, st.tenant, [st.srcSite - 8], some (st.srcSite - 8)⟩]
      ∧ t.chip.xport.waiting.length + t.chip.xport.arrived.length = s.chip.xport.waiting.length + s.chip.xport.arrived.length ∧ t.mem = s.mem ∧ t.pending = s.pending)) ∧
  (∀ (site : Fin 32) (plane k : Fin 64) (st : Stitch) (a : Nat) (s : State), (⟨site.val, plane.val, k.val, st⟩ : Arrived) ∈ s.chip.xport.arrived →
    Stitch.checkOk st = true → st.opcode = opLOAD → st.opf % 1024 = 2 → s.chip.rd (R.PART_STATE_STATE st.tenant) ≠ 3 → s.chip.arrivalCheck site.val site.val st = stOK →
    rangeOf st.ppa = .hbm → rangeOf a = .hbm → s.chip.resolve st.tenant st.ppa = some a → s.chip.placeGood a = true → s.chip.obstacle [a] true (some (st.srcSite - 8)) = none →
    s.chip.snoopAt a = none → s.chip.mems.snoop = [] →
    completes (.fillM site plane k 0 st) s (fun t => t.chip.mems.snoop = [⟨lineOf a, st.ppa, st.tenant, [st.srcSite - 8], some (st.srcSite - 8)⟩] ∧ t.mem = s.mem ∧ t.pending = s.pending)) ∧
  (∀ (site : Fin 32) (plane k : Fin 64) (ecc : Fin 3) (st : Stitch) (s : State), (⟨site.val, plane.val, k.val, st⟩ : Arrived) ∈ s.chip.xport.arrived → Stitch.checkOk st = false →
    opResponse st.opcode = false → st.opcode ≠ opRUN_OPEN →
    completes (.stitchArrival site plane k ecc st) s (fun t => t.mem = s.mem ∧ t.pending = s.pending)) ∧
  (∀ (site : Fin 32) (plane k : Fin 64) (ecc : Fin 3) (st : Stitch) (s : State), (⟨site.val, plane.val, k.val, st⟩ : Arrived) ∉ s.chip.xport.arrived →
    exec (.stitchArrival site plane k ecc st) s = .next s ∧ exec (.answerArrival site plane k st) s = .next s ∧ exec (.fillS site plane k ecc st) s = .next s
      ∧ exec (.fillM site plane k ecc st) s = .next s ∧ exec (.wb site plane k st) s = .next s) ∧
  (∀ (site : Fin 32) (plane k : Fin 64) (st : Stitch) (e : OutEntry) (s : State), s.chip.xport.arrived = [⟨site.val, plane.val, k.val, st⟩] → Stitch.checkOk st = true →
    s.chip.wellMade site.val st = true → st.opcode = opACK → st.data = [1] → s.chip.xport.out = [e] → s.chip.outstanding site.val st.srcNode st.tenant (st.seq % 65536) = some e →
    e.st.opcode = opSTORE → e.st.cnt = 0 → s.chip.xport.stalled = [] → s.chip.red.relays = [] → s.chip.rd (R.PART_STATE_STATE st.tenant) ≠ 3 →
    completes (.answerArrival site plane k st) s (fun t => t.chip.xport.out = [] ∧ t.chip.xport.arrived = [] ∧ t.chip.xport.done.map (·.status) = some stOK ∧ t.mem = s.mem ∧ t.pending = s.pending)) ∧
  (∀ (site : Fin 32) (plane k : Fin 64) (ecc : Fin 3) (st : Stitch) (s : State), (⟨site.val, plane.val, k.val, st⟩ : Arrived) ∈ s.chip.xport.arrived → opResponse st.opcode = false → s.stallsOpening site.val plane.val st = false →
    completes (.stitchArrival site plane k ecc st) s (fun t => t = (s.onChip (fun c => c.onXport (fun x => { x with arrived := dropFirst (fun y => y == ⟨site.val, plane.val, k.val, st⟩) x.arrived }))).arrival site.val plane.val k.val ecc.val st)) ∧
  (∀ (site : Fin 32) (plane k : Fin 64) (st : Stitch) (s : State), (⟨site.val, plane.val, k.val, st⟩ : Arrived) ∈ s.chip.xport.arrived → opResponse st.opcode = true →
    completes (.answerArrival site plane k st) s (fun t => t = (s.onChip (fun c => c.onXport (fun x => { x with arrived := dropFirst (fun y => y == ⟨site.val, plane.val, k.val, st⟩) x.arrived }))).responseArrival site.val plane.val k.val st)) ∧
  (∀ (site : Fin 32) (plane k : Fin 64) (ecc : Fin 3) (st : Stitch) (s : State), (⟨site.val, plane.val, k.val, st⟩ : Arrived) ∈ s.chip.xport.arrived → st.opcode = opLOAD →
    (st.opf % 1024 = 1 → completes (.fillS site plane k ecc st) s (fun t => t = (s.onChip (fun c => c.onXport (fun x => { x with arrived := dropFirst (fun y => y == ⟨site.val, plane.val, k.val, st⟩) x.arrived }))).arrival site.val plane.val k.val ecc.val st)) ∧
    (st.opf % 1024 = 2 → completes (.fillM site plane k ecc st) s (fun t => t = (s.onChip (fun c => c.onXport (fun x => { x with arrived := dropFirst (fun y => y == ⟨site.val, plane.val, k.val, st⟩) x.arrived }))).arrival site.val plane.val k.val ecc.val st))) ∧
  (∀ (site : Fin 32) (plane k : Fin 64) (st : Stitch) (s : State), (⟨site.val, plane.val, k.val, st⟩ : Arrived) ∈ s.chip.xport.arrived → st.opcode = opSTORE → st.opf % 1024 = 1 →
    completes (.wb site plane k st) s (fun t => t = (s.onChip (fun c => c.onXport (fun x => { x with arrived := dropFirst (fun y => y == ⟨site.val, plane.val, k.val, st⟩) x.arrived }))).arrival site.val plane.val k.val 0 st))

/-- Receive-queue and share writes (R167, R170). -/
def Obligations.QueueAndShareWritesComplete : Prop :=
  (∀ (req : Requester) (site : Fin 24) (q : Fin 64) (v : BitVec 32) (s : State), writeAccepted s.chip req (R.SITE_RQ_CFG site.val q.val) → hasQueues site.val = true →
    s.chip.on (R.SITE_RQ_CFG_EN site.val q.val) = true → bitOf v.toNat 31 = false →
    fget v.toNat 29 26 = s.chip.rd (R.SITE_RQ_CFG_TENANT site.val q.val) → fget v.toNat 22 15 = s.chip.rd (R.SITE_RQ_CFG_SLOT_STITCHES site.val q.val) →
    fget v.toNat 14 11 = s.chip.rd (R.SITE_RQ_CFG_DEPTH_LOG2 site.val q.val) →
    completes (.rqCfgWrite req site q false v) s (fun t => t.chip.xport.slots = s.chip.xport.slots.filter (fun x => !(x.site == site.val && x.queue == q.val)) ∧ onlyChip s t)) ∧
  (∀ (req : Requester) (site : Fin 24) (q : Fin 64) (v : BitVec 32) (s : State), writeAccepted s.chip req (R.SITE_RQ_CFG site.val q.val) → hasQueues site.val = true →
    s.chip.on (R.SITE_RQ_CFG_EN site.val q.val) = true → fget v.toNat 29 26 ≠ s.chip.rd (R.SITE_RQ_CFG_TENANT site.val q.val) →
    completes (.rqCfgWrite req site q false v) s (fun t => t.chip.rd (R.SITE_XPORT_STATUS_CFG_REJECT site.val) = 1
      ∧ regsSameBut s.chip t.chip [R.SITE_XPORT_STATUS site.val] ∧ t.chip = { s.chip with regs := t.chip.regs } ∧ onlyChip s t)) ∧
  (∀ (req : Requester) (site : Fin 24) (q : Fin 64) (v : BitVec 32) (s : State), writeAccepted s.chip req (R.SITE_RQ_BASE site.val q.val) → hasQueues site.val = true →
    s.chip.on (R.SITE_RQ_CFG_EN site.val q.val) = false →
    completes (.rqCfgWrite req site q true v) s (fun t => t.chip.rd (R.SITE_RQ_BASE_BASE site.val q.val) = fget v.toNat 14 0 ∧ t.chip.xport = s.chip.xport ∧ onlyChip s t)) ∧
  (∀ (req : Requester) (t0 : Fin 16) (v : BitVec 32) (s : State), writeAccepted s.chip req (R.PART_TENANT t0.val) →
    256 < (((List.range 16).filter (fun u => u != t0.val && s.chip.tenantOn u)).map s.chip.latestShare).sum + min 256 (fget v.toNat 8 0) →
    completes (.shareWrite req t0 v) s (fun t => t.chip.rd R.PART_STATUS_SHARE_REJECT = 1 ∧ regsSameBut s.chip t.chip [R.PART_STATUS] ∧ t.chip = { s.chip with regs := t.chip.regs } ∧ onlyChip s t)) ∧
  (∀ (req : Requester) (t0 : Fin 16) (v : BitVec 32) (s : State), writeAccepted s.chip req (R.PART_TENANT t0.val) → (∀ u : Fin 16, s.chip.tenantOn u.val = false) → fget v.toNat 8 0 ≤ 256 →
    completes (.shareWrite req t0 v) s (fun t => t.chip.latestShare t0.val = fget v.toNat 8 0 ∧ t.chip.rd R.PART_STATUS_SHARE_REJECT = s.chip.rd R.PART_STATUS_SHARE_REJECT ∧ onlyChip s t))

/-- Patterns, allotments and port assignments (R179 to R184, R196). -/
def Obligations.PatternAndAllotmentCommandsComplete : Prop :=
  (∀ (req : Requester) (t : Fin 16) (v : BitVec 32) (s : State), writeAccepted s.chip req (R.CIRC_ARM t.val) → bitOf v.toNat 31 = true → fget v.toNat 29 28 = 1 →
    s.chip.armedOf t.val = none → s.chip.patternValid t.val (fget v.toNat 21 16) 1 (s.chip.rd (R.CIRC_ARM_SYNC_SYNC t.val)) = true →
    completes (.armGo req t v) s (fun u => u.chip.circ = { s.chip.circ with armed := s.chip.circ.armed ++
        [⟨t.val, fget v.toNat 21 16, 1, fget v.toNat 15 0, s.chip.rd (R.CIRC_ARM_SYNC_SYNC t.val), s.chip.rd (R.CIRC_ARM_VALUE_VALUE t.val), none, 0, s.chip.row⟩] }
      ∧ u.chip.rd (R.CIRC_ARM_RESULT_STATUS t.val) = 1 ∧ u.chip.rd (R.CIRC_ARM_RESULT_PATTERN t.val) = fget v.toNat 21 16 ∧ onlyChip s u)) ∧
  (∀ (req : Requester) (t : Fin 16) (v : BitVec 32) (s : State), writeAccepted s.chip req (R.CIRC_ARM t.val) → bitOf v.toNat 31 = true → s.chip.armedOf t.val = none →
    s.chip.patternValid t.val (fget v.toNat 21 16) (fget v.toNat 29 28) (s.chip.rd (R.CIRC_ARM_SYNC_SYNC t.val)) = false →
    completes (.armGo req t v) s (fun u => u.chip.circ = s.chip.circ ∧ u.chip.rd (R.CIRC_ARM_RESULT_STATUS t.val) = 3 ∧ onlyChip s u)) ∧
  (∀ (req : Requester) (t : Fin 16) (v : BitVec 32) (s : State), writeAccepted s.chip req (R.CIRC_ARM t.val) → bitOf v.toNat 31 = true → (s.chip.armedOf t.val).isSome = true →
    completes (.armGo req t v) s (fun u => u.chip.circ = s.chip.circ ∧ u.chip.rd (R.CIRC_ARM_RESULT_STATUS t.val) = 4 ∧ onlyChip s u)) ∧
  (∀ (req : Requester) (t : Fin 16) (v : BitVec 32) (a : ArmedPattern) (s : State), writeAccepted s.chip req (R.CIRC_ARM t.val) → bitOf v.toNat 31 = false → bitOf v.toNat 30 = true →
    s.chip.armedOf t.val = some a → a.target = none →
    completes (.armCancel req t v) s (fun u => u.chip.circ = { s.chip.circ with armed := s.chip.circ.armed.filter (fun x => x.tenant != t.val) }
      ∧ u.chip.rd (R.CIRC_ARM_RESULT_STATUS t.val) = 7 ∧ u.chip.rd (R.CIRC_ARM_RESULT_PATTERN t.val) = a.pattern % 64 ∧ onlyChip s u)) ∧
  (∀ (t : Fin 16) (a : ArmedPattern) (s : State), s.chip.circ.armed = [a] → a.tenant = t.val → a.target = none → s.chip.triggerHolds a = true → s.chip.inFallback = false →
    completes (.patternTrigger t) s (fun u => u.chip.circ = { s.chip.circ with armed := [{ a with target := some (s.chip.boundaryAfter 256) }] }
      ∧ u.chip.regs = s.chip.regs ∧ onlyChip s u)) ∧
  (∀ (t : Fin 16) (a : ArmedPattern) (s : State), s.chip.armedOf t.val = some a → s.chip.triggerHolds a = true →
    completes (.patternTrigger t) s (fun u => u.chip = s.chip.trigger183 t.val ∧ onlyChip s u)) ∧
  (∀ (t : Fin 16) (a : ArmedPattern) (row : Nat) (s : State), s.chip.circ.armed = [a] → a.tenant = t.val → a.target = some row → row ≤ s.chip.row → s.chip.inFallback = false → s.chip.light.returnedRow ≠ some s.chip.row → s.chip.cyc = 0 →
    ((s.chip.changed t.val a.pattern).all s.chip.wasDrained) = false → a.deferrals < s.chip.rdPos R.CIRC_CFG_DEFER_MAX →
    completes (.patternApply t) s (fun u => u.chip.circ = { s.chip.circ with armed := [{ a with target := some (s.chip.row + 1), deferrals := a.deferrals + 1 }] }
      ∧ u.chip.rd (R.CIRC_ARM_RESULT_STATUS t.val) = 5 ∧ onlyChip s u)) ∧
  (∀ (t : Fin 16) (e b : Fin 112) (a : ArmedPattern) (row : Nat) (s : State), s.chip.circ.armed = [a] → a.tenant = t.val → a.target = some row → row ≤ s.chip.row →
    s.chip.inFallback = false → s.chip.light.returnedRow ≠ some s.chip.row → s.chip.cyc = 0 → (∀ x : Fin 112, s.chip.allotted x.val t.val = true → x = e) → s.chip.allotted e.val t.val = true → s.chip.rd (R.CIRC_PLANE_STATE e.val) = 0 →
    s.chip.pointed a.pattern e.val = some b.val → s.chip.on (R.CIRC_PAT_HDR_CHAIN a.pattern) = false → s.chip.circ.waits = [] →
    completes (.patternApply t) s (fun u => u.chip.circ.armed = [] ∧ u.chip.rd (R.CIRC_PLANE_STATE e.val) = 1 ∧ u.chip.rd (R.CIRC_PLANE_DST_BANK e.val) = b.val
      ∧ u.chip.rd (R.CIRC_PLANE_TENANT e.val) = t.val ∧ u.chip.rd (R.CIRC_ARM_RESULT_STATUS t.val) = 2 ∧ onlyChip s u)) ∧
  (∀ (t : Fin 16) (s : State), s.chip.cyc = 0 → completes (.patternApply t) s (fun u => u.chip = s.chip.patternBoundary t.val ∧ onlyChip s u)) ∧
  (∀ (req : Requester) (e : Fin 112) (v : BitVec 32) (s : State), writeAccepted s.chip req (R.CIRC_ALLOT e.val) → (s.chip.allotHook e.val v.toNat).takes = true →
    completes (.allotWrite req e v) s (fun u => u.chip.on (R.CIRC_ALLOT_EN e.val) = bitOf v.toNat 31 ∧ u.chip.rd (R.CIRC_ALLOT_TENANT e.val) = fget v.toNat 3 0
      ∧ regsSameBut s.chip u.chip [R.CIRC_ALLOT e.val] ∧ u.chip = { s.chip with regs := u.chip.regs } ∧ onlyChip s u)) ∧
  (∀ (req : Requester) (e : Fin 112) (v : BitVec 32) (s : State), writeAccepted s.chip req (R.CIRC_ALLOT e.val) → (s.chip.allotHook e.val v.toNat).takes = false →
    completes (.allotWrite req e v) s (fun u => u.chip.rd R.CIRC_STATUS_ALLOT_REJECT = 1 ∧ regsSameBut s.chip u.chip [R.CIRC_STATUS]
      ∧ u.chip = { s.chip with regs := u.chip.regs } ∧ onlyChip s u)) ∧
  (∀ (req : Requester) (p : Fin 64) (v : BitVec 32) (s : State), writeAccepted s.chip req (R.CIRC_PAT_HDR p.val) → s.chip.circ.armed = [] →
    completes (.patWrite req p none v) s (fun u => u.chip.on (R.CIRC_PAT_HDR_CHAIN p.val) = bitOf v.toNat 31 ∧ u.chip.rd (R.CIRC_PAT_HDR_NEXT p.val) = fget v.toNat 29 24
      ∧ u.chip.rd (R.CIRC_PAT_HDR_STEP p.val) = fget v.toNat 19 4 ∧ u.chip.rd (R.CIRC_PAT_HDR_TENANT p.val) = fget v.toNat 3 0
      ∧ regsSameBut s.chip u.chip [R.CIRC_PAT_HDR p.val] ∧ u.chip = { s.chip with regs := u.chip.regs } ∧ onlyChip s u)) ∧
  (∀ (req : Requester) (p : Fin 64) (e : Fin 112) (v : BitVec 32) (a : ArmedPattern) (s : State), writeAccepted s.chip req (R.CIRC_PAT p.val e.val) → a ∈ s.chip.circ.armed → a.pattern = p.val →
    completes (.patWrite req p (some e) v) s (fun u => u.chip.rd R.CIRC_STATUS_PAT_REJECT = 1 ∧ regsSameBut s.chip u.chip [R.CIRC_STATUS]
      ∧ u.chip = { s.chip with regs := u.chip.regs } ∧ onlyChip s u)) ∧
  (∀ (req : Requester) (j : Fin 16) (v : BitVec 32) (s : State), writeAccepted s.chip req (R.CIRC_PORT_ASSIGN j.val) → bitOf v.toNat 31 = true → s.chip.portUp j.val = true →
    s.chip.portRunsOpen (j.val, fget v.toNat 19 16, 36) = false → s.chip.circ.assigning = [] → s.chip.circ.reserved = [] → 12 ≤ j.val → bitOf v.toNat 23 = true →
    (∀ l : Fin 36, s.chip.rd (R.EDGE_LANE_STATE_RX_STATE j.val l.val) = lsFENCED ∨ s.chip.rd (R.EDGE_LANE_STATE_RX_STATE j.val l.val) = lsOFF) → s.chip.circ.retraining = [] →
    completes (.portAssignGo req j v true) s (fun u => u.chip.circ.reserved = [(j.val, fget v.toNat 19 16, 36)] ∧ u.chip.circ.assigning = [] ∧ u.chip.circ.src = s.chip.circ.src
      ∧ u.chip.circ.dst = s.chip.circ.dst ∧ u.chip.rd (R.CIRC_PORT_ASSIGN_STATUS j.val) = 2 ∧ onlyChip s u)) ∧
  (∀ (req : Requester) (j : Fin 16) (v : BitVec 32) (l : Fin 36) (s : State), writeAccepted s.chip req (R.CIRC_PORT_ASSIGN j.val) → bitOf v.toNat 31 = true → s.chip.portUp j.val = true →
    s.chip.portRunsOpen (j.val, fget v.toNat 19 16, 36) = false → s.chip.circ.assigning = [] → s.chip.circ.reserved = [] → 12 ≤ j.val → bitOf v.toNat 23 = true →
    s.chip.rd (R.EDGE_LANE_STATE_RX_STATE j.val l.val) = lsUP → s.chip.circ.retraining = [] →
    completes (.portAssignGo req j v true) s (fun u => u.chip.circ.reserved = [] ∧ u.chip.circ.assigning = [(j.val, fget v.toNat 19 16, 36)] ∧ u.chip.circ.retraining = [j.val]
      ∧ u.chip.rd (R.EDGE_LANE_STATE_RX_STATE j.val l.val) = lsTRAIN ∧ u.chip.rd (R.CIRC_PORT_ASSIGN_STATUS j.val) = 1 ∧ onlyChip s u)) ∧
  (∀ (req : Requester) (j : Fin 16) (v : BitVec 32) (s : State), writeAccepted s.chip req (R.CIRC_PORT_ASSIGN j.val) → bitOf v.toNat 31 = true → s.chip.portUp j.val = true →
    s.chip.portRunsOpen (j.val, fget v.toNat 19 16, 36) = true → s.chip.circ.assigning = [] → 12 ≤ j.val → bitOf v.toNat 23 = true →
    completes (.portAssignGo req j v true) s (fun u => u.chip.circ = { s.chip.circ with assigning := [(j.val, fget v.toNat 19 16, 36)] }
      ∧ u.chip.rd (R.CIRC_PORT_ASSIGN_STATUS j.val) = 1 ∧ onlyChip s u)) ∧
  (∀ (req : Requester) (j : Fin 16) (v : BitVec 32) (agreed : Bool) (s : State), writeAccepted s.chip req (R.CIRC_PORT_ASSIGN j.val) → bitOf v.toNat 31 = true → s.chip.portUp j.val = false →
    completes (.portAssignGo req j v agreed) s (fun u => u.chip.circ = s.chip.circ ∧ u.chip.rd (R.CIRC_PORT_ASSIGN_STATUS j.val) = 3 ∧ onlyChip s u))

/-- Runs and system routing (R189 to R193, R230 to R241, R277). -/
def Obligations.RunAndRoutingCommandsComplete : Prop :=
  (∀ (site : Fin 24) (ctx : IssueCtx) (tn : Nat) (req : Stitch) (src : BitVec 46) (loc : Bool) (e : Fin 112) (s : State), s.chip.ctxTenant site.val ctx = some tn → s.chip.rd (R.PART_STATE_STATE tn) ≠ 3 →
    s.chip.entryCheck site.val { req with tag := 0, tenant := tn, opcode := opRUN_OPEN, cls := 0 } = stOK → s.chip.runCircuits site.val { req with tag := 0, tenant := tn, opcode := opRUN_OPEN, cls := 0 } = [e.val] →
    s.chip.runCircuits site.val { req with tag := 0, tenant := tn } = [e.val] → s.chip.isChanging e.val = false →
    s.chip.rd (R.CIRC_PLANE_OPEN_RUNS e.val) < 16 → (s.chip.dealLanes e.val).isEmpty = false → s.chip.outRoom site.val req.dstNode tn = true →
    completes (.runRequest site ctx req src loc) s (fun t => t.chip.circ.src.length = s.chip.circ.src.length + 1 ∧ t.chip.circ.waits = s.chip.circ.waits
      ∧ t.chip.xport.out.length = s.chip.xport.out.length + 1 ∧ t.chip.rd (R.CIRC_PLANE_OPEN_RUNS e.val) = s.chip.rd (R.CIRC_PLANE_OPEN_RUNS e.val) + 1
      ∧ t.chip.rd (R.CIRC_PLANE_RUN_NO e.val) = (s.chip.rd (R.CIRC_PLANE_RUN_NO e.val) + 1) % 256 ∧ onlyChip s t)) ∧
  (∀ (site : Fin 24) (ctx : IssueCtx) (tn : Nat) (req : Stitch) (src : BitVec 46) (loc : Bool) (s : State), s.chip.ctxTenant site.val ctx = some tn →
    completes (.runRequest site ctx req src loc) s (fun t => t.chip = s.chip.requestRun ⟨site.val, { req with tag := 0, tenant := tn }, src.toNat, loc, none, none, s.chip.row⟩ ∧ onlyChip s t)) ∧
  (∀ (site : Fin 24) (w : RunWait) (s : State), s.chip.circ.waits = [w] → w.site = site.val → s.chip.runCircuits site.val w.opening = [] → w.row + s.chip.rd R.CIRC_CFG_RUN_WAIT ≤ s.chip.row →
    w.pull = none → w.relayOf = none →
    completes (.runWaitTimeout site) s (fun t => t.chip.circ = { s.chip.circ with waits := [] } ∧ t.chip.xport.done.map (·.status) = some stNO_PATH ∧ onlyChip s t)) ∧
  (∀ (site : Fin 24) (s : State), completes (.runWaitTimeout site) s (fun t => onlyChip s t ∧ t.chip =
      (s.chip.circ.waits.filter (fun w => w.site == site.val && (s.chip.runCircuits w.site w.opening).isEmpty && decide (w.row + s.chip.rd R.CIRC_CFG_RUN_WAIT ≤ s.chip.row))).foldl (fun c w => c.refuseRun w stNO_PATH)
        (s.chip.onCirc (fun x => { x with waits := x.waits.filter (fun w => !(w.site == site.val && (s.chip.runCircuits w.site w.opening).isEmpty && decide (w.row + s.chip.rd R.CIRC_CFG_RUN_WAIT ≤ s.chip.row))) })))) ∧
  (∀ (site : Fin 24) (d : DstRun) (e : Fin 144) (n : Fin 256) (s : State), s.chip.circ.dst = [d] → d.site = site.val → d.e = e.val → d.runNo = n.val → d.relay = false → d.todo = [] →
    s.chip.mems.parked = [] → d.status = stOK → d.opening.cnt = 0 →
    completes (.runComplete site e n) s (fun t => t.chip = (s.chip.onCirc (fun x => { x with dst := [] })).ack site.val d.opening ∧ onlyChip s t)) ∧
  (∀ (site : Fin 24) (d : DstRun) (e : Fin 144) (n : Fin 256) (s : State), s.chip.circ.dst.find? (fun d => d.site == site.val && d.e == e.val && d.runNo == n.val && !d.relay) = some d →
    (s.chip.runTaken d = true → completes (.runComplete site e n) s (fun t => t.chip = s.chip.landRunDone d ∧ onlyChip s t)) ∧
    (s.chip.runTaken d = false → s.chip.runLost d = true → completes (.runComplete site e n) s (fun t => t.chip = s.chip.cutDst d ∧ onlyChip s t))) ∧
  (∀ (e : Fin 144) (k : Fin 40) (s : State), s.chip.laneLeft e.val k.val = true →
    completes (.redeal e k) s (fun t => getKey e.val t.chip.circ.redeals = some ((getKey e.val s.chip.circ.redeals).getD 0 + 1)
      ∧ t.chip.circ.src.length = s.chip.circ.src.length ∧ t.chip.circ.dst.length = s.chip.circ.dst.length ∧ t.chip.regs = s.chip.regs ∧ t.chip = s.chip.redeal e.val k.val ∧ onlyChip s t)) ∧
  (∀ (e : Fin 4) (node : Fin 4096) (pool : Fin 3) (x : PoolEntry) (j : Nat) (s : State), s.chip.xport.waiting = [] → s.chip.edge.pools = [x] → queueOf e.val node.val pool.val x = true →
    node.val ≠ s.chip.node → s.chip.nodeUnreachable node.val = false → pool.val ≠ 1 →
    leastDeep s.chip.portDepth ((s.chip.candidates node.val).filter (fun j => decide (1 ≤ s.chip.portCredit j pool.val))) = some j →
    j / 4 = e.val → x.st.hops + 1 ≤ 31 → x.st.opcode ≠ opCTRL →
    completes (.edgeForward e node pool) s (fun t => t.chip.edge.pools = [] ∧ t.chip.edge.portQ = s.chip.edge.portQ ++ [(j, { x with since := none })]
      ∧ getKey (j, poolOf x.st) t.chip.edge.sent = some ((getKey (j, poolOf x.st) s.chip.edge.sent).getD 0 + 1) ∧ t.chip.regs = s.chip.regs ∧ onlyChip s t)) ∧
  (∀ (e : Fin 4) (node : Fin 4096) (pool : Fin 3) (s : State), completes (.edgeForward e node pool) s (fun t => t.chip = (s.chip.edgeIntake e.val).forwardHead e.val node.val pool.val ∧ onlyChip s t)) ∧
  (∀ (e : Fin 4) (node : Fin 4096) (x : PoolEntry) (t0 : Nat) (s : State), s.chip.edge.pools = [x] → queueOf e.val node.val 0 x = true → x.since = some t0 →
    t0 + 8 * s.chip.rdPos R.ROUTE_CFG_ESC_WAIT ≤ s.chip.cycles → (s.chip.candidates node.val).isEmpty = false →
    ((s.chip.candidates node.val).all (fun j => s.chip.portCredit j 0 == 0)) = true →
    completes (.escapeTimeout e node false) s (fun t => t.chip.edge.pools = [{ x with st := { x.st with escape := 1 }, since := none }]
      ∧ t.chip.rd R.ROUTE_ESCAPES_COUNT = min R.ROUTE_ESCAPES_COUNT.top (s.chip.rd R.ROUTE_ESCAPES_COUNT + 1) ∧ regsSameBut s.chip t.chip [R.ROUTE_ESCAPES_COUNT.off] ∧ onlyChip s t)) ∧
  (∀ (e : Fin 4) (node : Fin 4096) (x : PoolEntry) (j t0 : Nat) (s : State), s.chip.edge.pools.find? (queueOf e.val node.val 2) = some x → x.since = some t0 →
    t0 + 8 * s.chip.rdPos R.ROUTE_CFG_ESC_WAIT ≤ s.chip.cycles → (s.chip.candidates node.val).isEmpty = false → s.chip.escapeChoice x 2 = some j →
    completes (.escapeTimeout e node true) s (fun t => t.chip = (s.chip.onEdge (fun y => { y with pools := dropFirst (fun z => z == x) y.pools })).placeOnPort e.val j { x with since := none } ∧ onlyChip s t)) ∧
  (∀ (node : Fin 4096) (x : PoolEntry) (s : State), s.chip.edge.detour = [x] → x.st.dstNode = node.val → x.row + s.chip.rdPos R.ROUTE_CFG_DETOUR_WAIT ≤ s.chip.row → s.chip.candidates node.val = [] →
    node.val ≠ s.chip.node → s.chip.xport.out = [] → s.chip.xport.stalled = [] →
    completes (.detourTimeout node) s (fun t => t.chip.edge = { s.chip.edge with detour := [] } ∧ t.chip.rd (R.ROUTE_NODE_STATE_STATE node.val) = 1 ∧ onlyChip s t)) ∧
  (∀ (node : Fin 4096) (x : PoolEntry) (s : State), x ∈ s.chip.edge.detour → x.st.dstNode = node.val → x.row + s.chip.rdPos R.ROUTE_CFG_DETOUR_WAIT ≤ s.chip.row → s.chip.candidates node.val = [] →
    node.val ≠ s.chip.node → completes (.detourTimeout node) s (fun t => t.chip = s.chip.declareUnreachable node.val ∧ onlyChip s t)) ∧
  (∀ (e : Fin 4) (i : Fin 4) (s : State), completes (.depthPublish e) s (fun t => getKey (4 * e.val + i.val) t.chip.edge.pubDepth = some (s.chip.portDepth (4 * e.val + i.val))
      ∧ getKey e.val t.chip.edge.pubDetour = some (s.chip.detourCount e.val) ∧ t.chip.regs = s.chip.regs ∧ onlyChip s t)) ∧
  (∀ (req : Requester) (n : Fin 4096) (v : BitVec 32) (s : State), writeAccepted s.chip req (R.ROUTE_NODE_STATE n.val) → n.val ≠ s.chip.node → n.val < s.chip.nodeCount → fget v.toNat 31 30 = 0 →
    completes (.nodeStateWrite req n v) s (fun t => t.chip.rd (R.ROUTE_NODE_STATE_STATE n.val) = 0 ∧ t.chip.on (R.ROUTE_NODE_STATE_OVR_EN n.val) = s.chip.on (R.ROUTE_NODE_STATE_OVR_EN n.val)
      ∧ t.chip.acc.held.length = s.chip.acc.held.length + 2 ∧ t.chip.edge = s.chip.edge ∧ onlyChip s t)) ∧
  (∀ (req : Requester) (n : Fin 4096) (v : BitVec 32) (s : State), writeAccepted s.chip req (R.ROUTE_NODE_STATE n.val) → n.val = s.chip.node →
    exec (.nodeStateWrite req n v) s = .next s) ∧
  (∀ (e : Fin 4) (w : McWait) (s : State), s.chip.red.mcWait = [w] → w.edge = e.val → s.chip.mcEntry w.st = true → s.chip.mcReady w = true → s.chip.mcChildren (mcGroup w.st) = [] →
    s.chip.on (R.RED_MC_A_MEMBER (mcGroup w.st)) = true → ownerSite w.st.ppa = some 3 → w.fromPort = none → w.fromSite = none → s.chip.skeinLost (18 + e.val) 3 = false →
    completes (.mcCopyPlace e) s (fun t => t.chip.red.mcWait = [] ∧ t.chip.edge.relay = s.chip.edge.relay ++
      [(18 + e.val, 3, ⟨e.val, none, none, mcCopy (mcCopy { w.st with escape := 0 } none) (some 3), none, s.chip.row, w.plane, w.k⟩)] ∧ onlyChip s t)) ∧
  (∀ (e : Fin 4) (w : McWait) (s : State), s.chip.red.mcWait.find? (fun w => w.edge == e.val && (!s.chip.mcEntry w.st || s.chip.mcReady w)) = some w →
    (s.chip.mcEntry w.st = true → completes (.mcCopyPlace e) s (fun t => t.chip = s.chip.mcPlace w ∧ onlyChip s t)) ∧
    (s.chip.mcEntry w.st = false → completes (.mcCopyPlace e) s (fun t => t.chip = ((s.chip.onRed (fun y => { y with mcWait := dropFirst (fun z => z == w) y.mcWait })).freeEntry
      w.entry).mcMismatch e.val (w.fromPort.map (·.1)) w.st ∧ onlyChip s t))) ∧
  (∀ (e : Fin 4) (s : State), s.chip.red.mcWait = [] → exec (.mcCopyPlace e) s = .next s)

/-- Port states (R97, R209, R214, R219 to R221, R246). -/
def Obligations.PortStateCommandsComplete : Prop :=
  (∀ (j : Fin 16) (a b : BitVec 16) (l : Fin 40) (s : State), s.chip.portUp j.val = true → getKey j.val s.chip.edge.lightLost = none →
    completes (.portLightDrop j a b) s (fun t => t.chip.rd (R.EDGE_LANE_COH_HOLD j.val l.val) = 1 ∧ t.chip.rd (R.EDGE_LIGHT_DATA_IN j.val) = a.toNat
      ∧ t.chip.rd (R.EDGE_LIGHT_LO_IN j.val) = b.toNat ∧ getKey j.val t.chip.edge.lightLost = some s.chip.cycles ∧ t.chip.portUp j.val = true ∧ onlyChip s t)) ∧
  (∀ (j : Fin 16) (a b : BitVec 16) (l : Fin 40) (t0 : Nat) (s : State), s.chip.portUp j.val = true → getKey j.val s.chip.edge.lightLost = some t0 → s.chip.cycles - t0 < 2400 →
    completes (.portLightReturn j a b) s (fun t => t.chip.rd (R.EDGE_LANE_COH_HOLD j.val l.val) = 0 ∧ getKey j.val t.chip.edge.lightLost = none ∧ t.chip.portUp j.val = true ∧ onlyChip s t)) ∧
  (∀ (j : Fin 16) (a b : BitVec 16) (t0 : Nat) (s : State), getKey j.val s.chip.edge.lightLost = some t0 → 2400 ≤ s.chip.cycles - t0 →
    completes (.portLightReturn j a b) s (fun t => t.chip = (((s.chip.portLight j.val a.toNat b.toNat).portDown j.val 1).holdLoops j.val false).onEdge (fun e => { e with lightLost := delKey j.val e.lightLost }) ∧ onlyChip s t)) ∧
  (∀ (j code : Fin 16) (s : State), s.chip.portUp j.val = true → s.chip.downHolds j.val code.val = true → s.chip.circ.src = [] → s.chip.circ.dst = [] → s.chip.edge.runs = [] → s.chip.edge.inj = [] →
    completes (.portDown j code) s (fun t => t.chip.rd (R.EDGE_STATUS_REASON j.val) = code.val ∧ t.chip.rd (R.EDGE_STATUS_STATE j.val) =
      (if code.val = 6 ∨ code.val = 0xB ∨ s.chip.rdPos (R.EDGE_CFG2_FLAP_MAX j.val) ≤ (s.chip.edge.downs.filter (fun d => d.1 == j.val && decide (s.chip.row < d.2 + rowsPerSecond))).length + 1 then 4 else 3)
      ∧ onlyChip s t)) ∧
  (∀ (j code : Fin 16) (s : State), s.chip.downHolds j.val code.val = true →
    completes (.portDown j code) s (fun t => t.chip = s.chip.portDown j.val code.val ∧ onlyChip s t)) ∧
  (∀ (st : Stitch) (j : Fin 16) (row : Nat) (s : State), s.chip.edge.waiting = [(j.val, row)] → s.chip.partnerNode j.val = leField st.data 0 2 % 4096 →
    s.chip.rd (R.EDGE_PARTNER_PORT j.val) = st.data.getD 2 0 → s.chip.edge.record = [] →
    completes (.portStateArrival st) s (fun t => t.chip = s.chip.onEdge (fun e => { e with record := [((j.val, st.opf % 2), padTo 64 st.data)] }) ∧ onlyChip s t)) ∧
  (∀ (st : Stitch) (s : State), completes (.portStateArrival st) s (fun t => t.chip = s.chip.portStateIn st ∧ onlyChip s t)) ∧
  (∀ (j : Fin 16) (row : Nat) (s : State), getKey j.val s.chip.edge.waiting = some row → row + s.chip.rdPos (R.EDGE_CFG2_RECORD_WAIT j.val) ≤ s.chip.row → (∀ l : Fin 40, s.chip.heldOn j.val l.val none = []) →
    completes (.recordWaitTimeout j) s (fun t => getKey j.val t.chip.edge.waiting = none ∧ t.chip.regs = s.chip.regs ∧ t.chip.xport = s.chip.xport ∧ onlyChip s t)) ∧
  (∀ (j : Fin 16) (row : Nat) (s : State), getKey j.val s.chip.edge.waiting = some row → row + s.chip.rdPos (R.EDGE_CFG2_RECORD_WAIT j.val) ≤ s.chip.row →
    completes (.recordWaitTimeout j) s (fun t => t.chip = s.chip.recordLost j.val ∧ onlyChip s t)) ∧
  (∀ (j : Fin 16) (a b : BitVec 16) (s : State), (s.chip.portLight j.val a.toNat b.toNat).mayTrain j.val = true →
    completes (.portTrainStart j a b) s (fun t => t.chip.rd (R.EDGE_STATUS_STATE j.val) = 1 ∧ getKey j.val t.chip.edge.training = some s.chip.cycles ∧ getKey j.val t.chip.edge.restarts = none ∧ onlyChip s t)) ∧
  (∀ (j : Fin 16) (node : Fin 4096) (site : Fin 24) (port : Fin 16) (mx mn : BitVec 8) (bad : List (Fin 40 × Bool)) (s : State), s.chip.rd (R.EDGE_STATUS_STATE j.val) = 1 → s.chip.portTrained j.val node.val site.val port.val (bad.map (fun x => (x.1.val, x.2))) = true →
    min (s.chip.rd R.ROUTE_STATUS_LEVEL_MAX) mx.toNat < max (s.chip.rd R.ROUTE_STATUS_LEVEL_MIN) mn.toNat →
    completes (.portUp j node site port mx mn bad) s (fun t => t.chip.rd (R.EDGE_STATUS_STATE j.val) = 4 ∧ t.chip.rd (R.EDGE_STATUS_REASON j.val) = 9
      ∧ t.chip.rd (R.EDGE_PARTNER_NODE j.val) = node.val ∧ t.chip.rd (R.EDGE_PARTNER_PORT j.val) = port.val ∧ onlyChip s t)) ∧
  (∀ (j : Fin 16) (node : Fin 4096) (site : Fin 24) (port : Fin 16) (mx mn : BitVec 8) (bad : List (Fin 40 × Bool)) (s : State), s.chip.rd (R.EDGE_STATUS_STATE j.val) = 1 → s.chip.portTrained j.val node.val site.val port.val (bad.map (fun x => (x.1.val, x.2))) = true →
    completes (.portUp j node site port mx mn bad) s (fun t => t.chip = s.chip.portComesUp j.val node.val site.val port.val mx.toNat mn.toNat (bad.map (fun x => (x.1.val, x.2))) ∧ onlyChip s t)) ∧
  (∀ (j : Fin 16) (node : Fin 4096) (site : Fin 24) (port : Fin 16) (mx mn : BitVec 8) (s : State), s.chip.rd (R.EDGE_STATUS_STATE j.val) = 1 → s.chip.portTrained j.val node.val site.val port.val [] = true →
    max (s.chip.rd R.ROUTE_STATUS_LEVEL_MIN) mn.toNat ≤ min (s.chip.rd R.ROUTE_STATUS_LEVEL_MAX) mx.toNat → s.chip.portRole j.val = 7 → getKey j.val s.chip.edge.waiting = none →
    s.chip.light.heldNotice = false → (∀ l : Fin 40, s.chip.portLane j.val l.val true ≠ lsFENCED ∧ s.chip.portLane j.val l.val false ≠ lsFENCED) → s.chip.edge.ctrlOn = [] →
    (∀ (i : Fin 3) (inc : Bool), s.chip.rd (spareStateRef j.val inc i.val) ≠ 3) → s.chip.edge.detour = [] →
    completes (.portUp j node site port mx mn []) s (fun t => t.chip.rd (R.EDGE_STATUS_STATE j.val) = 2 ∧ t.chip.rd (R.EDGE_PARTNER_NODE j.val) = node.val
      ∧ t.chip.rd (R.EDGE_PARTNER_VALID j.val) = 1 ∧ onlyChip s t)) ∧
  (∀ (j : Fin 16) (t0 : Nat) (s : State), getKey j.val s.chip.edge.training = some t0 → s.chip.rd (R.EDGE_STATUS_STATE j.val) = 1 → t0 + 40000000 ≤ s.chip.cycles →
    (getKey j.val s.chip.edge.restarts).getD 0 < 3 →
    completes (.portTrainTimeout j) s (fun t => t.chip.rd (R.EDGE_STATUS_STATE j.val) = 1 ∧ getKey j.val t.chip.edge.restarts = some ((getKey j.val s.chip.edge.restarts).getD 0 + 1)
      ∧ getKey j.val t.chip.edge.training = some s.chip.cycles ∧ onlyChip s t)) ∧
  (∀ (j : Fin 16) (t0 : Nat) (s : State), getKey j.val s.chip.edge.training = some t0 → s.chip.rd (R.EDGE_STATUS_STATE j.val) = 1 → t0 + 40000000 ≤ s.chip.cycles →
    3 ≤ (getKey j.val s.chip.edge.restarts).getD 0 →
    completes (.portTrainTimeout j) s (fun t => t.chip.rd (R.EDGE_STATUS_STATE j.val) = 4 ∧ t.chip.rd (R.EDGE_STATUS_REASON j.val) = 8 ∧ getKey j.val t.chip.edge.training = none ∧ onlyChip s t)) ∧
  (∀ (req : Requester) (j : Fin 16) (v : BitVec 32) (s : State), writeAccepted s.chip req (R.EDGE_CTRL j.val) → bitOf v.toNat 31 = true → bitOf v.toNat 30 = false →
    s.chip.rd (R.EDGE_STATUS_STATE j.val) = 4 → s.chip.edge.engineFailed = [] →
    completes (.portRetrain req j v) s (fun t => t.chip.rd (R.EDGE_STATUS_STATE j.val) = 3 ∧ getKey j.val t.chip.edge.restarts = none ∧ onlyChip s t)) ∧
  (∀ (req : Requester) (j : Fin 16) (v : BitVec 32) (s : State), writeAccepted s.chip req (R.EDGE_CTRL j.val) → bitOf v.toNat 31 = false → bitOf v.toNat 30 = true → s.chip.portOpen j.val = true →
    s.chip.edge.portQ = [] →
    completes (.portDownCmd req j v) s (fun t => t.chip.edge.departing = s.chip.edge.departing ++ [⟨j.val, s.chip.row + 64, true⟩] ∧ t.chip.portUp j.val = true ∧ onlyChip s t)) ∧
  (∀ (j : Fin 16) (st : Stitch) (s : State), st.data.getD 3 0 % 2 = 1 →
    completes (.departureArrival j st) s (fun t => t.chip = s.chip.portDown j.val 5 ∧ onlyChip s t)) ∧
  (∀ (j : Fin 16) (st : Stitch) (s : State), completes (.departureArrival j st) s (fun t => t.chip = s.chip.departureIn j.val st ∧ onlyChip s t)) ∧
  (∀ (j : Fin 16) (d : Departing) (l : Fin 40) (s : State), s.chip.edge.departing.find? (fun d => d.port == j.val) = some d → d.darkRow ≤ s.chip.row →
    completes (.departureDarkRow j) s (fun t => t.chip.edge.departing = s.chip.edge.departing.filter (fun d => d.port != j.val) ∧ t.chip.edge.dark = s.chip.edge.dark ++ [j.val]
      ∧ t.chip.portLane j.val l.val false = (if s.chip.portLane j.val l.val false = lsFENCED then lsFENCED else lsOFF) ∧ onlyChip s t)) ∧
  (∀ (j : Fin 16) (d : Fin 2) (l : Fin 40) (site : Fin 24) (plane : Fin 42) (s : State), site.val = 18 + j.val / 4 → plane.val = 38 + j.val % 4 → s.chip.rd (R.EDGE_STATUS_STATE j.val) = 4 →
    s.chip.rd (ringLoop ⟨site.val, plane.val, d.val, l.val⟩) ∈ [loSEARCH, loACQUIRE, loLOCKED, loSWATCH] → j.val ∉ s.chip.edge.engineFailed →
    completes (.engineFail site plane) s (fun t => t.chip.rd (ringLoop ⟨site.val, plane.val, d.val, l.val⟩) = loHOLD
      ∧ t.chip.edge = { s.chip.edge with engineFailed := s.chip.edge.engineFailed ++ [j.val] } ∧ onlyChip s t)) ∧
  (∀ (site : Fin 24) (plane : Fin 42) (s : State), 18 ≤ site.val → site.val < 22 → 38 ≤ plane.val →
    completes (.engineFail site plane) s (fun t => onlyChip s t ∧ ∃ c : Chip, t.chip = c.portDown (4 * (site.val - 18) + (plane.val - 38)) 0xB ∧ 4 * (site.val - 18) + (plane.val - 38) ∈ c.edge.engineFailed
      ∧ c.regs = (((s.chip.abandonOn (groupRings site.val plane.val)).holdRings (fun x => x.group == (site.val, plane.val))).setDark site.val plane.val true).regs)) ∧
  (∀ (site : Fin 24) (plane : Fin 42) (s : State), plane.val < 38 → Config.planeKind site.val plane.val ≠ 0 →
    completes (.engineFail site plane) s (fun t => t.chip = ((((s.chip.abandonOn (groupRings site.val plane.val)).holdRings (fun x => x.group == (site.val, plane.val))).setDark site.val plane.val true).planeFault ⟨site.val, plane.val, false⟩).planeFault ⟨site.val, plane.val, true⟩ ∧ onlyChip s t))

/-- Link messages and tests of port lanes (R139, R140, R215 to R217, R222). -/
def Obligations.PortMessageCommandsComplete : Prop :=
  (∀ (j : Fin 16) (lane carrier : Fin 40) (row : BitVec 48) (s : State), s.chip.newMsg j.val (linkMsg 1 lane.val carrier.val row.toNat) = true → s.chip.portUp j.val = true →
    36 ≤ carrier.val → carrier.val < 39 → s.chip.rd (spareStateRef j.val false (carrier.val - 36)) ≠ 3 →
    completes (.spareReq j lane carrier row) s (fun t => t.chip.portLane j.val lane.val false = lsHOLD
      ∧ (⟨j.val, false, lane.val, carrier.val, row.toNat, false, false⟩ : SpareMove) ∈ t.chip.edge.moves
      ∧ (t.chip.edge.msgs.map (fun m => (m.1, m.2.1))).contains (j.val, linkMsg 2 lane.val carrier.val row.toNat) = true
      ∧ t.chip.newMsg j.val (linkMsg 1 lane.val carrier.val row.toNat) = false ∧ onlyChip s t)) ∧
  (∀ (j : Fin 16) (lane carrier : Fin 40) (row : BitVec 48) (s : State), s.chip.newMsg j.val (linkMsg 1 lane.val carrier.val row.toNat) = true → s.chip.portUp j.val = true →
    36 ≤ carrier.val → carrier.val < 39 → s.chip.rd (spareStateRef j.val false (carrier.val - 36)) = 3 →
    completes (.spareReq j lane carrier row) s (fun t => t.chip.edge.msgs.map (fun m => (m.1, m.2.1)) = s.chip.edge.msgs.map (fun m => (m.1, m.2.1)) ++ [(j.val, linkMsg 3 lane.val carrier.val row.toNat)]
      ∧ t.chip.edge.moves = s.chip.edge.moves ∧ t.chip.regs = s.chip.regs ∧ onlyChip s t)) ∧
  (∀ (j : Fin 16) (lane carrier : Fin 40) (row : BitVec 48) (s : State), completes (.spareGrant j lane carrier row) s (fun t =>
    t.chip.edge.msgs = s.chip.edge.msgs.filter (fun m => !(m.1 == j.val && m.2.1 / 2 ^ 60 == 1 && m.2.1 / 2 ^ 54 % 64 == lane.val))
      ∧ t.chip.newMsg j.val (linkMsg 2 lane.val carrier.val row.toNat) = false ∧ t.chip.regs = s.chip.regs ∧ onlyChip s t)) ∧
  (∀ (j : Fin 16) (lane carrier : Fin 40) (row : BitVec 48) (s : State), s.chip.newMsg j.val (linkMsg 3 lane.val carrier.val row.toNat) = true → 36 ≤ carrier.val → carrier.val < 39 →
    completes (.spareRefuse j lane carrier row) s (fun t => t.chip = ((((s.chip.takeMsg j.val (linkMsg 3 lane.val carrier.val row.toNat)).stopMsg j.val 1 lane.val).onEdge
        (fun e => { e with moves := e.moves.filter (fun m => !(m.port == j.val && m.incoming && m.lane == lane.val && !m.cal)) })).setSpare j.val true (carrier.val - 36) 3 0x3F).spareIncoming j.val lane.val
      ∧ onlyChip s t)) ∧
  (∀ (j : Fin 16) (lane : Fin 36) (n : Fin 3) (s : State), s.chip.newMsg j.val (linkMsg 4 lane.val 0 0) = true → s.chip.portUp j.val = true → s.chip.portLane j.val lane.val true ≠ lsFENCED →
    (∀ l : Fin 40, s.chip.rd (portOnRef j.val l.val true) = l.val) → (s.chip.freeSpares j.val true).head? = some n.val →
    completes (.txFault j (Fin.castLE (by omega) lane)) s (fun t => t.chip.portLane j.val lane.val true = lsFENCED
      ∧ (t.chip.edge.moves.map (fun m => (m.port, m.incoming, m.lane, m.carrier))).contains (j.val, true, lane.val, 36 + n.val) = true ∧ onlyChip s t)) ∧
  (∀ (j : Fin 16) (lane : Fin 40) (l : Nat) (s : State), s.chip.newMsg j.val (linkMsg 4 lane.val 0 0) = true → s.chip.portUp j.val = true →
    ((List.range 36) ++ [39]).find? (fun l => s.chip.rd (portOnRef j.val l true) == lane.val) = some l → lane.val < 36 ∨ lane.val = 39 → s.chip.portLane j.val l true ≠ lsFENCED →
    completes (.txFault j lane) s (fun t => t.chip = ((s.chip.takeMsg j.val (linkMsg 4 lane.val 0 0)).setPortLane j.val l true lsFENCED).spareIncoming j.val l ∧ onlyChip s t)) ∧
  (∀ (j : Fin 16) (lane : Fin 40) (l : Nat) (s : State), s.chip.newMsg j.val (linkMsg 4 lane.val 0 0) = true → s.chip.portUp j.val = true →
    ((List.range 36) ++ [39]).find? (fun l => s.chip.rd (portOnRef j.val l true) == lane.val) = some l → 36 ≤ lane.val → lane.val < 39 →
    completes (.txFault j lane) s (fun t => onlyChip s t ∧ ∃ c : Chip, c = (s.chip.takeMsg j.val (linkMsg 4 lane.val 0 0)).setSpare j.val true (lane.val - 36) 3 0x3F
      ∧ t.chip = (if c.portLane j.val l true = lsFENCED then c else (c.setPortLane j.val l true lsFENCED).spareIncoming j.val l))) ∧
  (∀ (j : Fin 16) (lane carrier : Fin 40) (row : BitVec 48) (s : State), s.chip.newMsg j.val (linkMsg 5 lane.val carrier.val row.toNat) = true → s.chip.portUp j.val = true → 36 ≤ carrier.val → carrier.val < 39 →
    completes (.calReq j lane carrier row) s (fun t => t.chip.edge.moves = s.chip.edge.moves ++
        [⟨j.val, true, lane.val, carrier.val, row.toNat, true, false⟩, ⟨j.val, false, lane.val, carrier.val, row.toNat, true, false⟩]
      ∧ t.chip.edge.msgs.map (fun m => (m.1, m.2.1)) = s.chip.edge.msgs.map (fun m => (m.1, m.2.1)) ++ [(j.val, linkMsg 6 lane.val carrier.val row.toNat)] ∧ t.chip.regs = s.chip.regs ∧ onlyChip s t)) ∧
  (∀ (j : Fin 16) (lane carrier : Fin 40) (row : BitVec 48) (s : State), s.chip.newMsg j.val (linkMsg 6 lane.val carrier.val row.toNat) = true → 36 ≤ carrier.val → carrier.val < 39 →
    completes (.calGrant j lane carrier row) s (fun t => t.chip.edge.moves = s.chip.edge.moves ++
        [⟨j.val, true, lane.val, carrier.val, row.toNat, true, false⟩, ⟨j.val, false, lane.val, carrier.val, row.toNat, true, false⟩]
      ∧ t.chip.edge.msgs = s.chip.edge.msgs.filter (fun m => !(m.1 == j.val && m.2.1 / 2 ^ 60 == 5 && m.2.1 / 2 ^ 54 % 64 == lane.val)) ∧ t.chip.regs = s.chip.regs ∧ onlyChip s t)) ∧
  (∀ (j : Fin 16) (lane carrier : Fin 40) (row : BitVec 48) (s : State), s.chip.newMsg j.val (linkMsg 7 lane.val carrier.val row.toNat) = true →
    completes (.calEnd j lane carrier row) s (fun t => t.chip.edge.moves = s.chip.edge.moves ++
        [⟨j.val, true, lane.val, lane.val, row.toNat, true, true⟩, ⟨j.val, false, lane.val, lane.val, row.toNat, true, true⟩] ∧ t.chip.regs = s.chip.regs ∧ onlyChip s t)) ∧
  (∀ (j : Fin 16) (lane : Fin 40) (q : BitVec 16) (n : BitVec 8) (s : State), completes (.redealLinkMessage j lane q n) s (fun t =>
    getKey (112 + j.val) t.chip.circ.redeals = some ((getKey (112 + j.val) s.chip.circ.redeals).getD 0 + 1) ∧ (t.chip.linkTx (24 + j.val, 0, lane.val)).replay.all (fun f => f.ftype != ftRUN) = true
      ∧ t.chip.regs = s.chip.regs ∧ onlyChip s t)) ∧
  (∀ (req : Requester) (j : Fin 16) (v : BitVec 32) (s : State), writeAccepted s.chip req (R.EDGE_PAT_CTRL j.val) → bitOf v.toNat 31 = true → bitOf v.toNat 30 = false →
    5 < s.chip.rd (R.EDGE_PAT_SEL_PATTERN j.val) →
    completes (.edgePatternGo req j v) s (fun t => t.chip.rd (R.EDGE_PAT_RESULT_STATUS j.val) = 6 ∧ t.chip.edge = s.chip.edge ∧ onlyChip s t)) ∧
  (∀ (req : Requester) (j : Fin 16) (v : BitVec 32) (s : State), writeAccepted s.chip req (R.EDGE_PAT_CTRL j.val) → bitOf v.toNat 31 = true → bitOf v.toNat 30 = false →
    s.chip.rd (R.EDGE_PAT_SEL_PATTERN j.val) ≤ 5 → s.chip.rd (R.EDGE_PAT_SEL_LANE j.val) < 40 → s.chip.portLane j.val (s.chip.rd (R.EDGE_PAT_SEL_LANE j.val)) false = lsUP →
    completes (.edgePatternGo req j v) s (fun t => t.chip.rd (R.EDGE_PAT_RESULT_STATUS j.val) = 1 ∧ t.chip.edge.runs.length = s.chip.edge.runs.length + 1 ∧ onlyChip s t)) ∧
  (∀ (req : Requester) (j : Fin 16) (v : BitVec 32) (s : State), writeAccepted s.chip req (R.EDGE_INJ j.val) → bitOf v.toNat 31 = true → fget v.toNat 29 27 = 1 → s.chip.edge.inj = [] →
    fget v.toNat 5 0 < 40 → s.chip.portLane j.val (fget v.toNat 5 0) false = lsUP →
    completes (.edgeInjectGo req j v) s (fun t => t.chip.rd (R.EDGE_INJ_RESULT_STATUS j.val) = 1 ∧ t.chip.edge = { s.chip.edge with inj := [⟨j.val, 0, fget v.toNat 5 0, 1, bitOf v.toNat 30⟩] } ∧ onlyChip s t)) ∧
  (∀ (req : Requester) (j : Fin 16) (v : BitVec 32) (s : State), writeAccepted s.chip req (R.EDGE_INJ j.val) → bitOf v.toNat 31 = true → fget v.toNat 29 27 = 0 → s.chip.edge.inj = [] →
    completes (.edgeInjectGo req j v) s (fun t => t.chip.rd (R.EDGE_INJ_RESULT_STATUS j.val) = 4 ∧ t.chip.edge = s.chip.edge ∧ onlyChip s t))

/-- Memory sites (R268 to R273, R384 to R403). -/
def Obligations.MemorySiteCommandsComplete : Prop :=
  (∀ (u : Fin 4) (ecc : Fin 3) (p : Partial) (s : State), s.chip.red.partials = [p] → p.unit = u.val → p.row + s.chip.rdPos R.RED_CFG_FLUSH_ROWS ≤ s.chip.row →
    s.chip.outRoom (18 + u.val) (s.chip.releasedStitch p).dstNode (s.chip.releasedStitch p).tenant = true →
    completes (.partialFlushTimeout (Fin.castLE (by omega) u) ecc) s (fun t => t.chip.red.partials = [] ∧ t.chip.red.relays.length = s.chip.red.relays.length + 1
      ∧ t.chip.edge.pools.length = s.chip.edge.pools.length + 1 ∧ t.chip.rd R.RED_COUNTS_FLUSHED = min R.RED_COUNTS_FLUSHED.top (s.chip.rd R.RED_COUNTS_FLUSHED + 1) ∧ onlyChip s t)) ∧
  (∀ (unit : Fin 12) (ecc : Fin 3) (s : State), completes (.partialFlushTimeout unit ecc) s (fun t => t =
      State.flushUnit { s with chip := s.chip.count R.RED_COUNTS_FLUSHED (s.chip.red.partials.filter (fun p => p.unit == unit.val && decide (p.row + s.chip.rdPos R.RED_CFG_FLUSH_ROWS ≤ s.chip.row))).length }
        unit.val ecc.val (fun p => decide (p.row + s.chip.rdPos R.RED_CFG_FLUSH_ROWS ≤ s.chip.row)))) ∧
  (∀ (n : Fin 8) (d : DetSlot) (a : Nat) (s : State), s.chip.red.slots = [d] → d.unit = 4 + n.val → d.row + s.chip.rdPos R.RED_CFG_DET_WAIT ≤ s.chip.row → s.chip.resolve d.key.tenant d.key.ppa = some a →
    s.chip.obstacle [a] true none = none → s.chip.placeGood a = true →
    completes (.detWaitTimeout n 0) s (fun t => t.mem = landMemory s.mem a d.key ((slotOrder d.got).map redElems) ∧ t.chip.red.slots = [] ∧ t.pending = s.pending)) ∧
  (∀ (n : Fin 8) (ecc : Fin 3) (d : DetSlot) (s : State), s.chip.red.slots = [d] → d.unit = 4 + n.val → d.row + s.chip.rdPos R.RED_CFG_DET_WAIT ≤ s.chip.row → s.chip.resolve d.key.tenant d.key.ppa = none →
    completes (.detWaitTimeout n ecc) s (fun t => t.chip.red.slots = [] ∧ onlyChip s t)) ∧
  (∀ (n : Fin 8) (ecc : Fin 3) (s : State), completes (.detWaitTimeout n ecc) s (fun t => t =
      s.flushSlots ecc.val (fun d => d.unit == 4 + n.val && decide (d.row + s.chip.rdPos R.RED_CFG_DET_WAIT ≤ s.chip.row)))) ∧
  (∀ (n : Fin 8) (a : BitVec 40) (s : State), s.chip.on (R.MEM_SCRUB_CFG_EN n.val) = true → s.chip.rd (R.MEM_STATUS_STATE n.val) = 3 → stackOf a.toNat = 2 * n.val → a.toNat / 0x200000 < s.chip.frameCount →
    completes (.patrolPass n [a] []) s (fun t => t.chip.rd (R.MEM_ECC_CORR_COUNT n.val 0) = min (R.MEM_ECC_CORR_COUNT n.val 0).top (s.chip.rd (R.MEM_ECC_CORR_COUNT n.val 0) + 1) ∧ onlyChip s t)) ∧
  (∀ (n : Fin 8) (l m : List (BitVec 40)) (s : State), s.chip.on (R.MEM_SCRUB_CFG_EN n.val) = true → s.chip.rd (R.MEM_STATUS_STATE n.val) = 3 →
    completes (.patrolPass n l m) s (fun t => onlyChip s t ∧ t.chip =
      ((m.map BitVec.toNat).filter (fun a => stackOf a / 2 == n.val && decide (a / 0x200000 < s.chip.frameCount))).foldl (fun c a => c.eccUncorrected a 0 [])
        (((l.map BitVec.toNat).filter (fun a => stackOf a / 2 == n.val && decide (a / 0x200000 < s.chip.frameCount))).foldl Chip.eccCorrected s.chip))) ∧
  (∀ (n : Fin 8) (l m : List (BitVec 40)) (s : State), s.chip.on (R.MEM_SCRUB_CFG_EN n.val) = false → exec (.patrolPass n l m) s = .next s) ∧
  (∀ (site : Fin 24) (die : Fin 2) (line : BitVec 46) (e : SnoopEntry) (s : State), s.chip.snoopAt (lineOf line.toNat) = some e → s.chip.recallWanted site.val die.val (lineOf line.toNat) false = true →
    s.chip.mems.recalls.any (fun r => r.site == site.val && r.die == die.val && r.line == lineOf line.toNat) = false → s.chip.outRoom site.val s.chip.node e.tenant = true →
    completes (.recallInv site die line) s (fun t => t.chip.mems.recalls = s.chip.mems.recalls ++ [⟨site.val, die.val, lineOf line.toNat, false, e.tenant, s.chip.flowNext site.val s.chip.node e.tenant, s.chip.cycles⟩]
      ∧ t.chip.xport.out.length = s.chip.xport.out.length + 1 ∧ t.chip.mems.snoop = s.chip.mems.snoop ∧ onlyChip s t)) ∧
  (∀ (site : Fin 24) (die : Fin 2) (line : BitVec 46) (e : SnoopEntry) (s : State), s.chip.snoopAt (lineOf line.toNat) = some e → s.chip.recallWanted site.val die.val (lineOf line.toNat) true = true →
    s.chip.mems.recalls.any (fun r => r.site == site.val && r.die == die.val && r.line == lineOf line.toNat) = false → s.chip.outRoom site.val s.chip.node e.tenant = true →
    completes (.recallShare site die line) s (fun t => t.chip.mems.recalls = s.chip.mems.recalls ++ [⟨site.val, die.val, lineOf line.toNat, true, e.tenant, s.chip.flowNext site.val s.chip.node e.tenant, s.chip.cycles⟩]
      ∧ t.chip.xport.out.length = s.chip.xport.out.length + 1 ∧ t.chip.mems.snoop = s.chip.mems.snoop ∧ onlyChip s t)) ∧
  (∀ (site : Fin 24) (die : Fin 2) (st : Stitch) (r : Recall) (s : State), s.chip.dieRuns die.val = true → st.opcode = opLOAD_RSP → Stitch.checkOk st = true →
    s.chip.recallOf site.val { st with srcNode := s.chip.node, srcSite := 8 + die.val } = some r → s.chip.mems.parked = [] → s.chip.mems.recalls = [r] → s.chip.placeGood r.line = true →
    completes (.recallResponse site die st) s (fun t => t.mem = (if bitOf st.opf 0 then memWrite s.mem r.line (padTo 64 st.data) else s.mem) ∧ t.chip.mems.recalls = [] ∧ t.pending = s.pending)) ∧
  (∀ (site : Fin 24) (die : Fin 2) (st : Stitch) (s : State), s.chip.dieRuns die.val = true → st.opcode = opLOAD_RSP → Stitch.checkOk st = true →
    completes (.recallResponse site die st) s (fun t => t = s.recallAnswer site.val { st with srcNode := s.chip.node, srcSite := 8 + die.val })) ∧
  (∀ (site : Fin 24) (die : Fin 2) (line : BitVec 46) (r : Recall) (s : State), s.chip.mems.recalls = [r] → r.site = site.val → r.die = die.val → r.line = lineOf line.toNat →
    r.since + 2000 ≤ s.chip.cycles → s.chip.mems.parked = [] → s.chip.mems.snoop = [⟨r.line, 0, r.tenant, [die.val], some die.val⟩] →
    completes (.recallTimeout site die line) s (fun t => t.chip.mems.recalls = [] ∧ t.chip.mems.snoop = [] ∧ t.chip.reports.length = s.chip.reports.length + 1 ∧ onlyChip s t)) ∧
  (∀ (site : Fin 24) (die : Fin 2) (line : BitVec 46) (r : Recall) (s : State), s.chip.mems.recalls.find? (fun r => r.site == site.val && r.die == die.val && r.line == lineOf line.toNat) = some r →
    r.since + 2000 ≤ s.chip.cycles →
    completes (.recallTimeout site die line) s (fun t => t = (s.recallOver r false).onChip (fun c => (c.report (Unit.cpuDie die.val) [r.tenant] 1 opLOAD stTIMEOUT actReported).event Ev.recallTimeout (some r.tenant)
      (Unit.cpuDie die.val) [site.val, r.line]))) ∧
  (∀ (f : Fin 524288) (b : Nat) (s : State), s.chip.mems.zeroing = [f.val] → s.chip.mems.parked = [] → Memory.wf s.mem = true →
    completes (.zeroingDone f) s (fun t => memGet t.mem b = (if machineAddr f.val 0 ≤ b ∧ b < machineAddr (f.val + 1) 0 then 0 else memGet s.mem b) ∧ t.chip.mems.zeroing = [] ∧ t.chip.regs = s.chip.regs ∧ t.pending = s.pending)) ∧
  (∀ (f : Fin 524288) (s : State), f.val ∈ s.chip.mems.zeroing →
    completes (.zeroingDone f) s (fun t => t = State.resume { s with mem := memZero s.mem (machineAddr f.val 0) (machineAddr (f.val + 1) 0), chip := s.chip.onMems (fun m => { m with
      zeroing := m.zeroing.filter (fun x => x != f.val), parked := m.parked.map (fun p => if p.frame = some f.val then { p with frame := none } else p) }) }))

/-- The functions of SYNC_OP (R284 to R288). -/
def Obligations.SyncFunctionsComplete : Prop :=
  (∀ (st : Stitch) (o : SyncObj) (s : State), s.chip.obj st.sync = some o → o.tenant = st.tenant → st.srcNode = s.chip.node → s.chip.sync.waits = [] →
    completes (.syncRead st) s (fun t => syncAnswered s t st o o srDONE)) ∧
  (∀ (st : Stitch) (s : State), completes (.syncRead st) s (fun t => t.chip = s.chip.syncOp 0x00 st ∧ onlyChip s t)) ∧
  (∀ (st : Stitch) (o : SyncObj) (s : State), s.chip.obj st.sync = some o → o.tenant = st.tenant → st.srcNode = s.chip.node → s.chip.sync.waits = [] → o.kind = 1 ∨ o.kind = 2 →
    completes (.syncAdd st) s (fun t => syncAnswered s t st o (SyncObj.reeval { o with count := (o.count + syncValue st) % 2 ^ 48 }) srDONE)) ∧
  (∀ (st : Stitch) (o : SyncObj) (s : State), s.chip.obj st.sync = some o → o.tenant = st.tenant → st.srcNode = s.chip.node → s.chip.sync.waits = [] → o.kind = 3 ∨ o.kind = 4 →
    completes (.syncAdd st) s (fun t => syncAnswered s t st o o srWRONG_KIND)) ∧
  (∀ (st : Stitch) (s : State), completes (.syncAdd st) s (fun t => t.chip = s.chip.syncOp 0x01 st ∧ onlyChip s t)) ∧
  (∀ (st : Stitch) (o : SyncObj) (s : State), s.chip.obj st.sync = some o → o.tenant = st.tenant → st.srcNode = s.chip.node → s.chip.sync.waits = [] → o.kind = 1 ∨ o.kind = 2 →
    completes (.syncSet st) s (fun t => syncAnswered s t st o (SyncObj.reeval { o with count := syncValue st, error := 0, done := false }) srDONE)) ∧
  (∀ (st : Stitch) (s : State), completes (.syncSet st) s (fun t => t.chip = s.chip.syncOp 0x02 st ∧ onlyChip s t)) ∧
  (∀ (st : Stitch) (o : SyncObj) (s : State), s.chip.obj st.sync = some o → o.tenant = st.tenant → st.srcNode = s.chip.node → s.chip.sync.waits = [] → o.kind = 2 →
    completes (.syncArm st) s (fun t => syncAnswered s t st o { o with target := syncValue st, count := 0, error := 0, done := false } srDONE)) ∧
  (∀ (st : Stitch) (s : State), completes (.syncArm st) s (fun t => t.chip = s.chip.syncOp 0x03 st ∧ onlyChip s t)) ∧
  (∀ (st : Stitch) (o : SyncObj) (s : State), s.chip.obj st.sync = some o → o.tenant = st.tenant → st.srcNode = s.chip.node → syncCond st ≤ 4 → o.holds (syncCond st) (syncValue st) = some true →
    completes (.syncWait st) s (fun t => syncAnswered s t st o o srDONE)) ∧
  (∀ (st : Stitch) (o : SyncObj) (s : State), s.chip.obj st.sync = some o → o.tenant = st.tenant → syncCond st ≤ 4 → o.holds (syncCond st) (syncValue st) = some false → s.chip.sync.waits = [] →
    completes (.syncWait st) s (fun t => t.chip.sync = { s.chip.sync with waits := [⟨st.sync, .stitch st, syncCond st, syncValue st, s.chip.row, s.chip.waitLimit (syncLimit st), none⟩] }
      ∧ t.chip.xport = s.chip.xport ∧ onlyChip s t)) ∧
  (∀ (st : Stitch) (s : State), completes (.syncWait st) s (fun t => t.chip = s.chip.syncOp 0x04 st ∧ onlyChip s t)) ∧
  (∀ (st : Stitch) (o : SyncObj) (s : State), s.chip.obj st.sync = some o → o.tenant = st.tenant → st.srcNode = s.chip.node → s.chip.sync.waits = [] → o.kind = 3 → o.count + 1 = max 1 o.parties →
    completes (.syncArrive st) s (fun t => syncAnswered s t st o { o with count := 0, generation := (o.generation + 1) % 65536 } srDONE)) ∧
  (∀ (st : Stitch) (o : SyncObj) (s : State), s.chip.obj st.sync = some o → o.tenant = st.tenant → st.srcNode = s.chip.node → s.chip.sync.waits = [] → o.kind = 3 → o.count + 1 ≠ max 1 o.parties →
    bitOf (syncFlags st) 1 = false →
    completes (.syncArrive st) s (fun t => syncAnswered s t st o { o with count := o.count + 1 } srDONE)) ∧
  (∀ (st : Stitch) (s : State), completes (.syncArrive st) s (fun t => t.chip = s.chip.syncOp 0x08 st ∧ onlyChip s t)) ∧
  (∀ (st : Stitch) (o : SyncObj) (s : State), s.chip.obj st.sync = some o → o.tenant = st.tenant → st.srcNode = s.chip.node → s.chip.sync.waits = [] → o.kind = 3 → o.count = 0 →
    completes (.syncSetParties st) s (fun t => syncAnswered s t st o { o with parties := syncValue st % 2 ^ 32 } srDONE)) ∧
  (∀ (st : Stitch) (s : State), completes (.syncSetParties st) s (fun t => t.chip = s.chip.syncOp 0x09 st ∧ onlyChip s t)) ∧
  (∀ (st : Stitch) (o : SyncObj) (s : State), s.chip.obj st.sync = some o → o.tenant = st.tenant → st.srcNode = s.chip.node → s.chip.sync.waits = [] → o.kind = 4 → o.held = false →
    s.chip.ownerFresh st = false → syncLimit st = 0 →
    completes (.syncAcquire st) s (fun t => syncAnswered s t st o { o with held := true, ownerNode := st.srcNode, ownerSite := st.srcSite, ownerCore := syncOwner st, count := (o.count + 1) % 2 ^ 48, leased := false }
      (if o.abandoned = true then srGRANTED_ABANDONED else srGRANTED))) ∧
  (∀ (st : Stitch) (o : SyncObj) (s : State), s.chip.obj st.sync = some o → o.tenant = st.tenant → st.srcNode = s.chip.node → o.kind = 4 → o.held = true →
    completes (.syncAcquire st) s (fun t => syncAnswered s t st o o srBUSY)) ∧
  (∀ (st : Stitch) (s : State), completes (.syncAcquire st) s (fun t => t.chip = s.chip.syncOp 0x10 st ∧ onlyChip s t)) ∧
  (∀ (st : Stitch) (o : SyncObj) (s : State), s.chip.obj st.sync = some o → o.tenant = st.tenant → st.srcNode = s.chip.node → s.chip.sync.waits = [] → o.kind = 4 → o.ownedBy st = true →
    completes (.syncRelease st) s (fun t => syncAnswered s t st o { o with held := false, leased := false, abandoned := o.abandoned && !bitOf (syncFlags st) 0 } srDONE)) ∧
  (∀ (st : Stitch) (o : SyncObj) (s : State), s.chip.obj st.sync = some o → o.tenant = st.tenant → st.srcNode = s.chip.node → o.kind = 4 → o.ownedBy st = false →
    completes (.syncRelease st) s (fun t => syncAnswered s t st o o srNOT_OWNER)) ∧
  (∀ (st : Stitch) (s : State), completes (.syncRelease st) s (fun t => t.chip = s.chip.syncOp 0x11 st ∧ onlyChip s t)) ∧
  (∀ (st : Stitch) (o : SyncObj) (s : State), s.chip.obj st.sync = some o → o.tenant = st.tenant → st.srcNode = s.chip.node → s.chip.sync.waits = [] → o.kind = 4 → o.ownedBy st = true → o.leased = true → syncLimit st ≠ 0 →
    completes (.syncRenew st) s (fun t => syncAnswered s t st o { o with expiry := (s.chip.row + syncLimit st) % 2 ^ 24 } srDONE)) ∧
  (∀ (st : Stitch) (s : State), completes (.syncRenew st) s (fun t => t.chip = s.chip.syncOp 0x12 st ∧ onlyChip s t))

/-- Landings, waits, leases and time (R282 to R299). -/
def Obligations.LandingsWaitsLeasesAndTimeComplete : Prop :=
  (∀ (site : Fin 24) (obj : Fin 65536) (inc status : Nat) (o : SyncObj) (s : State), s.chip.obj obj.val = some o → o.kind = 1 ∨ o.kind = 2 → s.chip.xport.landings = [⟨site.val, obj.val, inc, status, 0⟩] →
    completes (.countLanding site obj inc status) s (fun t => t.chip.obj obj.val = some (o.land inc status) ∧ t.chip.xport.landings = [] ∧ onlyChip s t)) ∧
  (∀ (site : Fin 24) (obj : Fin 65536) (inc status : Nat) (s : State), completes (.countLanding site obj inc status) s (fun t => t.chip = s.chip.countLanding site.val obj.val inc status ∧ onlyChip s t)) ∧
  (∀ (site : Fin 24) (obj : Fin 65536) (l : Landing) (s : State), s.chip.xport.merging = [l] → l.site = site.val → l.obj = obj.val → l.since + s.chip.rd R.SYN_CFG_COALESCE ≤ s.chip.cycles →
    completes (.landingMergeEnd site obj) s (fun t => t.chip = s.chip.onXport (fun x => { x with merging := [], landings := x.landings ++ [l] }) ∧ onlyChip s t)) ∧
  (∀ (site : Fin 24) (obj : Fin 65536) (s : State), completes (.landingMergeEnd site obj) s (fun t => t.chip = s.chip.landingMergeEnd site.val obj.val ∧ onlyChip s t)) ∧
  (∀ (obj : Fin 65536) (st : Stitch) (o : SyncObj) (cond v row limit : Nat) (s : State), s.chip.obj obj.val = some o → s.chip.sync.waits = [⟨obj.val, .stitch st, cond, v, row, limit, none⟩] → row + limit < s.chip.row →
    st.srcNode = s.chip.node → st.sync = obj.val →
    completes (.waitLimit obj) s (fun t => syncAnswered s t st o o srWAIT_LIMIT ∧ t.chip.sync.waits = [])) ∧
  (∀ (obj : Fin 65536) (s : State), completes (.waitLimit obj) s (fun t => t.chip = s.chip.waitsExpire obj.val ∧ onlyChip s t)) ∧
  (∀ (obj : Fin 65536) (o : SyncObj) (s : State), s.chip.obj obj.val = some o → o.kind = 4 → o.held = true → o.leased = true → s.chip.expired o.expiry = true → s.chip.on R.SYN_CFG_LEASE_HOLD = false →
    completes (.leaseExpiry obj) s (fun t => t.chip.obj obj.val = some { o with held := false, leased := false, abandoned := true } ∧ onlyChip s t)) ∧
  (∀ (obj : Fin 65536) (s : State), completes (.leaseExpiry obj) s (fun t => t.chip = s.chip.leaseExpiry obj.val ∧ onlyChip s t)) ∧
  (∀ (obj : Fin 65536) (o : SyncObj) (s : State), s.chip.obj obj.val = some o → o.kind = 4 → o.held = true → o.ownerNode = s.chip.node →
    s.chip.sync.resets = [⟨o.ownerNode, o.ownerSite, o.ownerCore, s.chip.row⟩] →
    completes (.lockAbandon obj) s (fun t => t.chip.obj obj.val = some { o with held := false, leased := false, abandoned := true } ∧ onlyChip s t)) ∧
  (∀ (obj : Fin 65536) (s : State), completes (.lockAbandon obj) s (fun t => t.chip = s.chip.lockAbandon obj.val ∧ onlyChip s t)) ∧
  (∀ (s : State), s.chip.rd R.TIME_STATUS_STATE = tsHOLDOVER → s.chip.time.heldSince + s.chip.rd R.TIME_CFG_HOLDOVER * 1000000000 ≤ s.chip.now → s.chip.rd R.TIME_CFG_PRIORITY < 255 → s.chip.time.ends.all (fun e => e.state == tsFREE || betterSource (s.chip.rd R.TIME_CFG_PRIORITY) s.chip.node e.priority e.source) = true →
    completes .holdoverTimeout s (fun t => t.chip.rd R.TIME_STATUS_STATE = tsSOURCE ∧ t.chip.rd R.TIME_STATUS_HOPS = 0 ∧ t.chip.rd R.TIME_SOURCE_NODE = s.chip.node
      ∧ t.chip.rd R.TIME_SOURCE_PRIORITY = s.chip.rd R.TIME_CFG_PRIORITY ∧ onlyChip s t)) ∧
  (∀ (s : State), s.chip.rd R.TIME_STATUS_STATE = tsHOLDOVER → s.chip.time.heldSince + s.chip.rd R.TIME_CFG_HOLDOVER * 1000000000 ≤ s.chip.now → s.chip.rd R.TIME_CFG_PRIORITY = 255 ∨ s.chip.time.ends.all (fun e => e.state == tsFREE || betterSource (s.chip.rd R.TIME_CFG_PRIORITY) s.chip.node e.priority e.source) = false →
    completes .holdoverTimeout s (fun t => t.chip.rd R.TIME_STATUS_STATE = tsFREE ∧ t.chip.rd R.TIME_STATUS_HOPS = 0x7F ∧ onlyChip s t)) ∧
  (∀ (stop : Fin 27) (src dst : Fin 24) (pool : Fin 2) (s : State), completes (.controlNetUncorr stop (.credits src dst pool)) s (fun t =>
    t.chip.rd R.SYN_NET_UNCORR_COUNT = min R.SYN_NET_UNCORR_COUNT.top (s.chip.rd R.SYN_NET_UNCORR_COUNT + 1) ∧ t.chip.xport = { s.chip.xport with freed := delKey (src.val, dst.val, pool.val) s.chip.xport.freed }
      ∧ (t.chip.reports.getLast?).map (·.unit) = some (Unit.netStop stop.val) ∧ onlyChip s t)) ∧
  (∀ (stop : Fin 27) (x : NetMessage) (s : State), completes (.controlNetUncorr stop x) s (fun t => onlyChip s t ∧ t.chip = (((s.chip.netLost x).count R.SYN_NET_UNCORR_COUNT).event Ev.netUncorr none (Unit.netStop stop.val) []).report
      (Unit.netStop stop.val) (netOp x).2.2 (netOp x).1 (netOp x).2.1 (if (netOp x).1 = 0 then 0 else stTIMEOUT) actReported)) ∧
  (∀ (j : Fin 16) (a c : BitVec 64) (b d : BitVec 48) (s : State), s.chip.portUp j.val = true → getKey j.val s.chip.time.sentRow = none →
    completes (.timeExchSend j a b c d) s (fun t => getKey j.val t.chip.time.sentRow = some s.chip.row ∧ t.chip.edge.portQ.length = s.chip.edge.portQ.length + 1 ∧ t.chip.regs = s.chip.regs ∧ onlyChip s t)) ∧
  (∀ (j : Fin 16) (a c : BitVec 64) (b d : BitVec 48) (r : Nat) (s : State), s.chip.portUp j.val = true → getKey j.val s.chip.time.sentRow = some r → r + s.chip.exchRows ≤ s.chip.row →
    completes (.timeExchSend j a b c d) s (fun t => getKey j.val t.chip.time.sentRow = some s.chip.row ∧ t.chip.edge.portQ.length = s.chip.edge.portQ.length + 1 ∧ t.chip.regs = s.chip.regs ∧ onlyChip s t)) ∧
  (∀ (j : Fin 16) (st : Stitch) (a b : BitVec 64) (s : State), s.chip.portUp j.val = true →
    completes (.timeExchArrival j st a b) s (fun t => t.chip.rd (R.TIME_LINK_DELAY_DELAY j.val) =
        ofSigned 32 (((a.toNat : Int) - (leField (padTo 64 st.data) 8 8 : Nat) + ((leField (padTo 64 st.data) 24 8 : Nat) - (b.toNat : Int))) / 2) ∧ onlyChip s t)) ∧
  (∀ (j : Fin 16) (st : Stitch) (a b c : BitVec 64) (d e : BitVec 48) (s : State), s.chip.portUp j.val = false →
    exec (.timeExchArrival j st a b) s = .next s ∧ exec (.timeExchSend j a d c e) s = .next s) ∧
  (∀ (j : Fin 16) (st : Stitch) (t2 t3 : BitVec 64) (s : State), completes (.timeExchArrival j st t2 t3) s (fun t => t.chip = s.chip.timeExch j.val st t2.toNat t3.toNat (s.chip.rd R.PCU_CASTON_STEP == 12) ∧ onlyChip s t))

/-- Ablyn instructions other than FP64 (R315 to R320). -/
def Obligations.ThreadCommandsComplete : Prop :=
  (∀ (die : Fin 8) (core : Fin 136) (slot : Fin 64) (tid : Fin 2048) (rd rs1 rs2 : Fin 32) (b : Block) (t : Thread) (s : State), threadReady s.chip die.val core.val slot.val tid.val b t → t.rx rs1.val % 64 = 0 → t.rx rs1.val < coreScratch → t.rx rs2.val % 8 ≠ 7 → (s.chip.descs die.val core.val (t.rx rs2.val % 8)).length < 64 → 
    completes (.epush die core slot tid rd rs1 rs2) s (fun u => u = State.withThread { s with chip := (s.chip.pushDesc die.val core.val (t.rx rs2.val % 8) (memRead s.mem (scratchBase die.val core.val + t.rx rs1.val) 64) none).1 } die.val core.val slot.val tid.val
      (t.goOn.wx rd.val (s.chip.rd (R.CMP_CORE_EQ_NEXT die.val core.val (t.rx rs2.val % 8)))))) ∧
  (∀ (die : Fin 8) (core : Fin 136) (slot : Fin 64) (tid : Fin 2048) (rd rs1 rs2 : Fin 32) (b : Block) (t : Thread) (s : State), threadReady s.chip die.val core.val slot.val tid.val b t → t.rx rs1.val % 64 = 0 → t.rx rs1.val < coreScratch → t.rx rs2.val % 8 ≠ 7 → 64 ≤ (s.chip.descs die.val core.val (t.rx rs2.val % 8)).length →
    completes (.epush die core slot tid rd rs1 rs2) s (fun u => u = (s.withThread die.val core.val slot.val tid.val { t.goOn with wait := .push (t.rx rs2.val % 8) }).onChip (fun c => c.onComp (fun x =>
      { x with pushers := x.pushers ++ [⟨die.val, core.val, t.rx rs2.val % 8, slot.val, tid.val, rd.val, memRead s.mem (scratchBase die.val core.val + t.rx rs1.val) 64⟩] })))) ∧
  (∀ (die : Fin 8) (core : Fin 136) (slot : Fin 64) (tid : Fin 2048) (rd rs1 rs2 : Fin 32) (b : Block) (t : Thread) (s : State), threadReady s.chip die.val core.val slot.val tid.val b t → t.rx rs1.val % 64 ≠ 0 ∨ coreScratch ≤ t.rx rs1.val ∨ t.rx rs2.val % 8 = 7 →
    completes (.epush die core slot tid rd rs1 rs2) s (fun u => u = s.onChip (fun c => c.threadFault die.val core.val slot.val tid.val 5 (t.rx rs1.val)))) ∧
  (∀ (die : Fin 8) (core : Fin 136) (slot : Fin 64) (tid : Fin 2048) (rd rs1 rs2 : Fin 32) (b : Block) (t : Thread) (s : State), threadReady s.chip die.val core.val slot.val tid.val b t → 
    completes (.epoll die core slot tid rd rs1 rs2) s (fun u => u = s.withThread die.val core.val slot.val tid.val (t.goOn.wx rd.val ((s.chip.ticketStatus die.val core.val (t.rx rs2.val % 8) (t.rx rs1.val % 65536)).getD 0xFFFFFFFF)))) ∧
  (∀ (die : Fin 8) (core : Fin 136) (slot : Fin 64) (tid : Fin 2048) (rd rs1 rs2 : Fin 32) (b : Block) (t : Thread) (s : State) (x : Nat), threadReady s.chip die.val core.val slot.val tid.val b t → s.chip.ticketStatus die.val core.val (t.rx rs2.val % 8) (t.rx rs1.val % 65536) = some x → 
    completes (.ewait die core slot tid rd rs1 rs2) s (fun u => u = s.withThread die.val core.val slot.val tid.val (t.goOn.wx rd.val x))) ∧
  (∀ (die : Fin 8) (core : Fin 136) (slot : Fin 64) (tid : Fin 2048) (rd rs1 rs2 : Fin 32) (b : Block) (t : Thread) (s : State), threadReady s.chip die.val core.val slot.val tid.val b t → s.chip.ticketStatus die.val core.val (t.rx rs2.val % 8) (t.rx rs1.val % 65536) = none → 
    completes (.ewait die core slot tid rd rs1 rs2) s (fun u => u = s.withThread die.val core.val slot.val tid.val ({ t.goOn with wait := .ticket (t.rx rs2.val % 8) (t.rx rs1.val % 65536) rd.val }))) ∧
  (∀ (die : Fin 8) (core : Fin 136) (slot : Fin 64) (tid : Fin 2048) (b : Block) (t : Thread) (s : State), threadReady s.chip die.val core.val slot.val tid.val b t → tid.val = 0 → b.threads = [t] → 
    completes (.tbar die core slot tid) s (fun u => u.chip.blockAt die.val core.val slot.val = some { b with threads := [t.goOn] } ∧ u.chip.regs = s.chip.regs ∧ onlyChip s u)) ∧
  (∀ (die : Fin 8) (core : Fin 136) (slot : Fin 64) (tid : Fin 2048) (b : Block) (t : Thread) (s : State), threadReady s.chip die.val core.val slot.val tid.val b t → 
    completes (.tbar die core slot tid) s (fun u => u = (s.withThread die.val core.val slot.val tid.val { t.goOn with wait := .barrier }).onChip (fun c => c.onBlock die.val core.val slot.val Block.meet))
      ∧ completes (.texit die core slot tid) s (fun u => u = (s.withThread die.val core.val slot.val tid.val { t.goOn with wait := .ended }).onChip (fun c => c.onBlock die.val core.val slot.val Block.meet))) ∧
  (∀ (die : Fin 8) (core : Fin 136) (slot : Fin 64) (tid : Fin 2048) (b : Block) (t : Thread) (s : State), threadReady s.chip die.val core.val slot.val tid.val b t → tid.val = 0 → b.threads = [t] → 
    completes (.texit die core slot tid) s (fun u => u.chip.blockAt die.val core.val slot.val = some { b with threads := [{ t.goOn with wait := .ended }] } ∧ u.chip.regs = s.chip.regs ∧ onlyChip s u)) ∧
  (∀ (die : Fin 8) (core : Fin 136) (slot : Fin 64) (tid : Fin 2048) (w : Fin 16) (rs1 rs2 : Fin 32) (b : Block) (t : Thread) (s : State), threadReady s.chip die.val core.val slot.val tid.val b t → t.rx rs2.val ≠ 0xFFFFFFFF → 
    completes (.fwset die core slot tid w rs1 rs2) s (fun u => (u.chip.blockAt die.val core.val slot.val).map (fun x => getKey w.val x.windows) = some (some ((t.rx rs1.val + 2 ^ 32 * t.rx rs2.val) / 4096 * 4096))
      ∧ u.chip.threadOf die.val core.val slot.val tid.val = some t.goOn ∧ u.chip.regs = s.chip.regs ∧ onlyChip s u)) ∧
  (∀ (die : Fin 8) (core : Fin 136) (slot : Fin 64) (tid : Fin 2048) (w : Fin 16) (rs1 rs2 : Fin 32) (b : Block) (t : Thread) (s : State), threadReady s.chip die.val core.val slot.val tid.val b t → t.rx rs2.val = 0xFFFFFFFF →
    completes (.fwset die core slot tid w rs1 rs2) s (fun u => (u.chip.blockAt die.val core.val slot.val).map (fun x => getKey w.val x.windows) = some none
      ∧ u.chip.threadOf die.val core.val slot.val tid.val = some t.goOn ∧ u.chip.regs = s.chip.regs ∧ onlyChip s u)) ∧
  (∀ (die : Fin 8) (core : Fin 136) (slot : Fin 64) (tid : Fin 2048) (rd : Fin 32) (b : Block) (t : Thread) (s : State), threadReady s.chip die.val core.val slot.val tid.val b t → t.far = [] → 
    completes (.fenceG die core slot tid rd) s (fun u => u = s.withThread die.val core.val slot.val tid.val (({ t.goOn with farErr := 0 } : Thread).wx rd.val t.farErr))) ∧
  (∀ (die : Fin 8) (core : Fin 136) (slot : Fin 64) (tid : Fin 2048) (rd : Fin 32) (b : Block) (t : Thread) (s : State), threadReady s.chip die.val core.val slot.val tid.val b t → t.far ≠ [] → 
    completes (.fenceG die core slot tid rd) s (fun u => u = s.withThread die.val core.val slot.val tid.val ({ t.goOn with wait := .fence rd.val }))) ∧
  (∀ (die : Fin 8) (core : Fin 136) (slot : Fin 64) (tid : Fin 2048) (rd rs1 : Fin 32) (b : Block) (t : Thread) (s : State), threadReady s.chip die.val core.val slot.val tid.val b t → 
    completes (.sopRead die core slot tid rd rs1) s (fun u => u.chip.threadOf die.val core.val slot.val tid.val = some { t.goOn with far := t.far ++ [⟨s.chip.comp.tag, 0, .sop rd.val true⟩], wait := .answer }
      ∧ u.chip.comp.tag = s.chip.comp.tag + 1 ∧ onlyChip s u)) ∧
  (∀ (die : Fin 8) (core : Fin 136) (slot : Fin 64) (tid : Fin 2048) (rd rs1 : Fin 32) (b : Block) (t : Thread) (s : State), threadReady s.chip die.val core.val slot.val tid.val b t →
    completes (.sopRead die core slot tid rd rs1) s (fun u => u = (s.withThread die.val core.val slot.val tid.val { t.goOn with far := t.far ++ [⟨s.chip.comp.tag, 0, .sop rd.val true⟩], wait := .answer }).onChip
      (fun c => (c.onComp (fun x => { x with tag := x.tag + 1 })).request die.val 0 (sopStitch s.chip b core.val (t.rx rs1.val) 0x00 0 0 0)))) ∧
  (∀ (die : Fin 8) (core : Fin 136) (slot : Fin 64) (tid : Fin 2048) (rd rs1 : Fin 32) (rs2 : Fin 32) (b : Block) (t : Thread) (s : State), threadReady s.chip die.val core.val slot.val tid.val b t → 
    completes (.sopAdd die core slot tid rd rs1 rs2) s (fun u => u.chip.threadOf die.val core.val slot.val tid.val = some { t.goOn with far := t.far ++ [⟨s.chip.comp.tag, 0, .sop rd.val false⟩], wait := .answer }
      ∧ u.chip.comp.tag = s.chip.comp.tag + 1 ∧ onlyChip s u)) ∧
  (∀ (die : Fin 8) (core : Fin 136) (slot : Fin 64) (tid : Fin 2048) (rd rs1 rs2 : Fin 32) (b : Block) (t : Thread) (s : State), threadReady s.chip die.val core.val slot.val tid.val b t →
    completes (.sopAdd die core slot tid rd rs1 rs2) s (fun u => u = (s.withThread die.val core.val slot.val tid.val { t.goOn with far := t.far ++ [⟨s.chip.comp.tag, 0, .sop rd.val false⟩], wait := .answer }).onChip
      (fun c => (c.onComp (fun x => { x with tag := x.tag + 1 })).request die.val 0 (sopStitch s.chip b core.val (t.rx rs1.val) 0x01 0 (ofSigned 48 (toSigned 32 (t.rx rs2.val))) 0)))) ∧
  (∀ (die : Fin 8) (core : Fin 136) (slot : Fin 64) (tid : Fin 2048) (rd rs1 : Fin 32) (rs2 : Fin 32) (b : Block) (t : Thread) (s : State), threadReady s.chip die.val core.val slot.val tid.val b t → 
    completes (.sopSet die core slot tid rd rs1 rs2) s (fun u => u.chip.threadOf die.val core.val slot.val tid.val = some { t.goOn with far := t.far ++ [⟨s.chip.comp.tag, 0, .sop rd.val false⟩], wait := .answer }
      ∧ u.chip.comp.tag = s.chip.comp.tag + 1 ∧ onlyChip s u)) ∧
  (∀ (die : Fin 8) (core : Fin 136) (slot : Fin 64) (tid : Fin 2048) (rd rs1 rs2 : Fin 32) (b : Block) (t : Thread) (s : State), threadReady s.chip die.val core.val slot.val tid.val b t →
    completes (.sopSet die core slot tid rd rs1 rs2) s (fun u => u = (s.withThread die.val core.val slot.val tid.val { t.goOn with far := t.far ++ [⟨s.chip.comp.tag, 0, .sop rd.val false⟩], wait := .answer }).onChip
      (fun c => (c.onComp (fun x => { x with tag := x.tag + 1 })).request die.val 0 (sopStitch s.chip b core.val (t.rx rs1.val) 0x02 0 (t.rx rs2.val) 0)))) ∧
  (∀ (die : Fin 8) (core : Fin 136) (slot : Fin 64) (tid : Fin 2048) (rd rs1 : Fin 32) (rs2 : Fin 32) (b : Block) (t : Thread) (s : State), threadReady s.chip die.val core.val slot.val tid.val b t → 
    completes (.sopWait die core slot tid rd rs1 rs2) s (fun u => u.chip.threadOf die.val core.val slot.val tid.val = some { t.goOn with far := t.far ++ [⟨s.chip.comp.tag, 0, .sop rd.val false⟩], wait := .answer }
      ∧ u.chip.comp.tag = s.chip.comp.tag + 1 ∧ onlyChip s u)) ∧
  (∀ (die : Fin 8) (core : Fin 136) (slot : Fin 64) (tid : Fin 2048) (rd rs1 rs2 : Fin 32) (b : Block) (t : Thread) (s : State), threadReady s.chip die.val core.val slot.val tid.val b t →
    completes (.sopWait die core slot tid rd rs1 rs2) s (fun u => u = (s.withThread die.val core.val slot.val tid.val { t.goOn with far := t.far ++ [⟨s.chip.comp.tag, 0, .sop rd.val false⟩], wait := .answer }).onChip
      (fun c => (c.onComp (fun x => { x with tag := x.tag + 1 })).request die.val 0 (sopStitch s.chip b core.val (t.rx rs1.val) 0x04 0 (t.rx rs2.val) 0)))) ∧
  (∀ (die : Fin 8) (core : Fin 136) (slot : Fin 64) (tid : Fin 2048) (rd rs1 : Fin 32) (flag : Bool) (b : Block) (t : Thread) (s : State), threadReady s.chip die.val core.val slot.val tid.val b t → 
    completes (.sopArrive die core slot tid rd rs1 flag) s (fun u => u.chip.threadOf die.val core.val slot.val tid.val = some { t.goOn with far := t.far ++ [⟨s.chip.comp.tag, 0, .sop rd.val false⟩], wait := .answer }
      ∧ u.chip.comp.tag = s.chip.comp.tag + 1 ∧ onlyChip s u)) ∧
  (∀ (die : Fin 8) (core : Fin 136) (slot : Fin 64) (tid : Fin 2048) (rd rs1 : Fin 32) (flag : Bool) (b : Block) (t : Thread) (s : State), threadReady s.chip die.val core.val slot.val tid.val b t →
    completes (.sopArrive die core slot tid rd rs1 flag) s (fun u => u = (s.withThread die.val core.val slot.val tid.val { t.goOn with far := t.far ++ [⟨s.chip.comp.tag, 0, .sop rd.val false⟩], wait := .answer }).onChip
      (fun c => (c.onComp (fun x => { x with tag := x.tag + 1 })).request die.val 0 (sopStitch s.chip b core.val (t.rx rs1.val) 0x08 (2 * b2n flag) 0 0)))) ∧
  (∀ (die : Fin 8) (core : Fin 136) (slot : Fin 64) (tid : Fin 2048) (rd rs1 : Fin 32) (rs2 : Fin 32) (b : Block) (t : Thread) (s : State), threadReady s.chip die.val core.val slot.val tid.val b t → 
    completes (.sopAcquire die core slot tid rd rs1 rs2) s (fun u => u.chip.threadOf die.val core.val slot.val tid.val = some { t.goOn with far := t.far ++ [⟨s.chip.comp.tag, 0, .sop rd.val false⟩], wait := .answer }
      ∧ u.chip.comp.tag = s.chip.comp.tag + 1 ∧ onlyChip s u)) ∧
  (∀ (die : Fin 8) (core : Fin 136) (slot : Fin 64) (tid : Fin 2048) (rd rs1 rs2 : Fin 32) (b : Block) (t : Thread) (s : State), threadReady s.chip die.val core.val slot.val tid.val b t →
    completes (.sopAcquire die core slot tid rd rs1 rs2) s (fun u => u = (s.withThread die.val core.val slot.val tid.val { t.goOn with far := t.far ++ [⟨s.chip.comp.tag, 0, .sop rd.val false⟩], wait := .answer }).onChip
      (fun c => (c.onComp (fun x => { x with tag := x.tag + 1 })).request die.val 0 (sopStitch s.chip b core.val (t.rx rs1.val) 0x10 0 0 (t.rx rs2.val % 2 ^ 20))))) ∧
  (∀ (die : Fin 8) (core : Fin 136) (slot : Fin 64) (tid : Fin 2048) (rd rs1 : Fin 32) (flag : Bool) (b : Block) (t : Thread) (s : State), threadReady s.chip die.val core.val slot.val tid.val b t → 
    completes (.sopRelease die core slot tid rd rs1 flag) s (fun u => u.chip.threadOf die.val core.val slot.val tid.val = some { t.goOn with far := t.far ++ [⟨s.chip.comp.tag, 0, .sop rd.val false⟩], wait := .answer }
      ∧ u.chip.comp.tag = s.chip.comp.tag + 1 ∧ onlyChip s u)) ∧
  (∀ (die : Fin 8) (core : Fin 136) (slot : Fin 64) (tid : Fin 2048) (rd rs1 : Fin 32) (flag : Bool) (b : Block) (t : Thread) (s : State), threadReady s.chip die.val core.val slot.val tid.val b t →
    completes (.sopRelease die core slot tid rd rs1 flag) s (fun u => u = (s.withThread die.val core.val slot.val tid.val { t.goOn with far := t.far ++ [⟨s.chip.comp.tag, 0, .sop rd.val false⟩], wait := .answer }).onChip
      (fun c => (c.onComp (fun x => { x with tag := x.tag + 1 })).request die.val 0 (sopStitch s.chip b core.val (t.rx rs1.val) 0x11 (b2n flag) 0 0)))) ∧
  (∀ (die : Fin 8) (core : Fin 136) (slot : Fin 64) (tid : Fin 2048) (rd rs1 : Fin 32) (rs2 : Fin 32) (b : Block) (t : Thread) (s : State), threadReady s.chip die.val core.val slot.val tid.val b t → 
    completes (.sopRenew die core slot tid rd rs1 rs2) s (fun u => u.chip.threadOf die.val core.val slot.val tid.val = some { t.goOn with far := t.far ++ [⟨s.chip.comp.tag, 0, .sop rd.val false⟩], wait := .answer }
      ∧ u.chip.comp.tag = s.chip.comp.tag + 1 ∧ onlyChip s u)) ∧
  (∀ (die : Fin 8) (core : Fin 136) (slot : Fin 64) (tid : Fin 2048) (rd rs1 rs2 : Fin 32) (b : Block) (t : Thread) (s : State), threadReady s.chip die.val core.val slot.val tid.val b t →
    completes (.sopRenew die core slot tid rd rs1 rs2) s (fun u => u = (s.withThread die.val core.val slot.val tid.val { t.goOn with far := t.far ++ [⟨s.chip.comp.tag, 0, .sop rd.val false⟩], wait := .answer }).onChip
      (fun c => (c.onComp (fun x => { x with tag := x.tag + 1 })).request die.val 0 (sopStitch s.chip b core.val (t.rx rs1.val) 0x12 0 0 (t.rx rs2.val % 2 ^ 20))))) ∧
  (∀ (die : Fin 8) (core : Fin 136) (slot : Fin 64) (tid : Fin 2048) (fn rd rs1 rs2 : Fin 32) (b : Block) (t : Thread) (s : State) (p : Nat), threadReady s.chip die.val core.val slot.val tid.val b t → fn.val ≤ 0x0A → fn.val ≠ 1 → t.rx rs1.val % 4 = 0 → s.chip.threadPlace b (t.rx rs1.val) = .here p → scratchBase die.val core.val ≤ p → p < scratchBase die.val core.val + coreScratch → s.chip.placeGood p = true → 
    completes (.amoW die core slot tid fn rd rs1 rs2) s (fun u => u = State.withThread { s with mem := memPutNat s.mem p 4 (atomNew fn.val 4 (memNat s.mem p 4) (t.rx rs2.val) (t.rx rs2.val) (t.rx (rs2.val + 1))) } die.val core.val slot.val tid.val
      (t.wx rd.val (memNat s.mem p 4)).goOn)) ∧
  (∀ (die : Fin 8) (core : Fin 136) (slot : Fin 64) (tid : Fin 2048) (fn rd rs1 rs2 : Fin 32) (b : Block) (t : Thread) (s : State), threadReady s.chip die.val core.val slot.val tid.val b t → fn.val ≤ 0x0A → ¬(fn.val = 1 ∧ rs2.val % 2 = 1) →
    completes (.amoW die core slot tid fn rd rs1 rs2) s (fun u => u = s.threadAmo ⟨⟨die.val, core.val, slot.val, tid.val⟩, b, t⟩ fn.val rd.val (t.rx rs1.val) 4 (t.rx rs2.val) (t.rx (rs2.val + 1)))) ∧
  (∀ (die : Fin 8) (core : Fin 136) (slot : Fin 64) (tid : Fin 2048) (fn rd rs1 rs2 : Fin 32) (b : Block) (t : Thread) (s : State) (p : Nat), threadReady s.chip die.val core.val slot.val tid.val b t → fn.val ≤ 0x0A → fn.val ≠ 1 → rd.val % 2 = 0 → rs2.val % 2 = 0 → t.rx rs1.val % 8 = 0 → s.chip.threadPlace b (t.rx rs1.val) = .here p → scratchBase die.val core.val ≤ p → p < scratchBase die.val core.val + coreScratch → s.chip.placeGood p = true → 
    completes (.amoD die core slot tid fn rd rs1 rs2) s (fun u => u = State.withThread { s with mem := memPutNat s.mem p 8 (atomNew fn.val 8 (memNat s.mem p 8) (t.rxPair rs2.val) (t.rxPair rs2.val) (t.rxPair (rs2.val + 2))) } die.val core.val slot.val tid.val
      (t.wxPair rd.val (memNat s.mem p 8)).goOn)) ∧
  (∀ (die : Fin 8) (core : Fin 136) (slot : Fin 64) (tid : Fin 2048) (fn rd rs1 rs2 : Fin 32) (b : Block) (t : Thread) (s : State), threadReady s.chip die.val core.val slot.val tid.val b t → fn.val ≤ 0x0A → rd.val % 2 = 0 → rs2.val % 2 = 0 → ¬(fn.val = 1 ∧ rs2.val % 4 ≠ 0) →
    completes (.amoD die core slot tid fn rd rs1 rs2) s (fun u => u = s.threadAmo ⟨⟨die.val, core.val, slot.val, tid.val⟩, b, t⟩ fn.val rd.val (t.rx rs1.val) 8 (t.rxPair rs2.val) (t.rxPair (rs2.val + 2)))) ∧
  (∀ (die : Fin 8) (core : Fin 136) (slot : Fin 64) (tid : Fin 2048) (fn rd rs1 rs2 : Fin 32) (b : Block) (t : Thread) (s : State), threadReady s.chip die.val core.val slot.val tid.val b t → 0x0A < fn.val → 
    completes (.amoW die core slot tid fn rd rs1 rs2) s (fun u => u = s.onChip (fun c => c.threadFault die.val core.val slot.val tid.val 1 0)) ∧ completes (.amoD die core slot tid fn rd rs1 rs2) s (fun u => u = s.onChip (fun c => c.threadFault die.val core.val slot.val tid.val 1 0))) ∧
  (∀ (die : Fin 8) (core : Fin 136) (slot : Fin 64) (tid : Fin 2048) (b : Block) (t : Thread) (tag start rd n : Nat) (sg : Bool) (d : Completion) (s : State), s.chip.blockAt die.val core.val slot.val = some b → b.threads[tid.val]? = some t → t.far = [⟨tag, start, .load rd n sg⟩] → s.chip.xport.comps = [(tag, d)] → d.status = stOK → 
    completes (.farAnswer die core slot tid) s (fun u => u = State.withThread (s.onChip (fun c => c.onXport (fun x => { x with comps := [] }))) die.val core.val slot.val tid.val
      (({ t with far := [], wait := .none } : Thread).wx rd (loadValue n sg (leField (padTo 64 d.data) start n))))) ∧
  (∀ (die : Fin 8) (core : Fin 136) (slot : Fin 64) (tid : Fin 2048) (b : Block) (t : Thread) (x : Nat × Completion) (o : FarOp) (s : State), s.chip.blockAt die.val core.val slot.val = some b → b.threads[tid.val]? = some t →
    s.chip.xport.comps.find? (fun x => t.far.any (fun o => o.tag == x.1)) = some x → t.far.find? (fun o => o.tag == x.1) = some o →
    completes (.farAnswer die core slot tid) s (fun u => onlyChip s u ∧ u.chip =
      (s.chip.onXport (fun y => { y with comps := dropFirst (fun z => z.1 == x.1) y.comps })).onThread die.val core.val slot.val tid.val (fun t => (t.answered o x.2).fenceDone)))

/-- FP64 on register pairs (R317). -/
def Obligations.ThreadFloatingPointComplete : Prop :=
  (∀ (die : Fin 8) (core : Fin 136) (slot : Fin 64) (tid : Fin 2048) (rd rs1 rs2 : Fin 32) (b : Block) (t : Thread) (s : State) (rm : Rm), threadReady s.chip die.val core.val slot.val tid.val b t → t.dynRm = some rm → rd.val % 2 = 0 → rs1.val % 2 = 0 → rs2.val % 2 = 0 → 
    completes (.faddDp die core slot tid rd rs1 rs2) s (fun u => u = s.withThread die.val core.val slot.val tid.val
      ({ t.wfPair rd.val (fp64.add rm (t.rfPair rs1.val) (t.rfPair rs2.val)).1 with fcsr := Nat.lor t.fcsr (fp64.add rm (t.rfPair rs1.val) (t.rfPair rs2.val)).2.bits } : Thread).goOn)) ∧
  (∀ (die : Fin 8) (core : Fin 136) (slot : Fin 64) (tid : Fin 2048) (rd rs1 rs2 : Fin 32) (b : Block) (t : Thread) (s : State) (rm : Rm), threadReady s.chip die.val core.val slot.val tid.val b t → t.dynRm = some rm → rd.val % 2 = 0 → rs1.val % 2 = 0 → rs2.val % 2 = 0 → 
    completes (.fsubDp die core slot tid rd rs1 rs2) s (fun u => u = s.withThread die.val core.val slot.val tid.val
      ({ t.wfPair rd.val (fp64.sub rm (t.rfPair rs1.val) (t.rfPair rs2.val)).1 with fcsr := Nat.lor t.fcsr (fp64.sub rm (t.rfPair rs1.val) (t.rfPair rs2.val)).2.bits } : Thread).goOn)) ∧
  (∀ (die : Fin 8) (core : Fin 136) (slot : Fin 64) (tid : Fin 2048) (rd rs1 rs2 : Fin 32) (b : Block) (t : Thread) (s : State) (rm : Rm), threadReady s.chip die.val core.val slot.val tid.val b t → t.dynRm = some rm → rd.val % 2 = 0 → rs1.val % 2 = 0 → rs2.val % 2 = 0 → 
    completes (.fmulDp die core slot tid rd rs1 rs2) s (fun u => u = s.withThread die.val core.val slot.val tid.val
      ({ t.wfPair rd.val (fp64.mul rm (t.rfPair rs1.val) (t.rfPair rs2.val)).1 with fcsr := Nat.lor t.fcsr (fp64.mul rm (t.rfPair rs1.val) (t.rfPair rs2.val)).2.bits } : Thread).goOn)) ∧
  (∀ (die : Fin 8) (core : Fin 136) (slot : Fin 64) (tid : Fin 2048) (rd rs1 rs2 : Fin 32) (b : Block) (t : Thread) (s : State) (rm : Rm), threadReady s.chip die.val core.val slot.val tid.val b t → t.dynRm = some rm → rd.val % 2 = 0 → rs1.val % 2 = 0 → rs2.val % 2 = 0 → 
    completes (.fdivDp die core slot tid rd rs1 rs2) s (fun u => u = s.withThread die.val core.val slot.val tid.val
      ({ t.wfPair rd.val (fp64.div rm (t.rfPair rs1.val) (t.rfPair rs2.val)).1 with fcsr := Nat.lor t.fcsr (fp64.div rm (t.rfPair rs1.val) (t.rfPair rs2.val)).2.bits } : Thread).goOn)) ∧
  (∀ (die : Fin 8) (core : Fin 136) (slot : Fin 64) (tid : Fin 2048) (rd rs1 rs2 : Fin 32) (b : Block) (t : Thread) (s : State) (rm : Rm), threadReady s.chip die.val core.val slot.val tid.val b t → t.dynRm = some rm → rd.val % 2 = 0 → rs1.val % 2 = 0 → rs2.val % 2 = 0 → 
    completes (.fmacDp die core slot tid rd rs1 rs2) s (fun u => u = s.withThread die.val core.val slot.val tid.val
      ({ t.wfPair rd.val (fp64.fma rm (t.rfPair rs1.val) (t.rfPair rs2.val) (t.rfPair rd.val)).1 with fcsr := Nat.lor t.fcsr (fp64.fma rm (t.rfPair rs1.val) (t.rfPair rs2.val) (t.rfPair rd.val)).2.bits } : Thread).goOn)) ∧
  (∀ (die : Fin 8) (core : Fin 136) (slot : Fin 64) (tid : Fin 2048) (rd rs1 : Fin 32) (b : Block) (t : Thread) (s : State) (rm : Rm), threadReady s.chip die.val core.val slot.val tid.val b t → t.dynRm = some rm → rd.val % 2 = 0 → rs1.val % 2 = 0 → 
    completes (.fsqrtDp die core slot tid rd rs1) s (fun u => u = s.withThread die.val core.val slot.val tid.val
      ({ t.wfPair rd.val (fp64.sqrt rm (t.rfPair rs1.val)).1 with fcsr := Nat.lor t.fcsr (fp64.sqrt rm (t.rfPair rs1.val)).2.bits } : Thread).goOn)) ∧
  (∀ (die : Fin 8) (core : Fin 136) (slot : Fin 64) (tid : Fin 2048) (rd rs1 rs2 : Fin 32) (b : Block) (t : Thread) (s : State), threadReady s.chip die.val core.val slot.val tid.val b t → rd.val % 2 = 0 → rs1.val % 2 = 0 → rs2.val % 2 = 0 → 
    completes (.fminDp die core slot tid rd rs1 rs2) s (fun u => u = s.withThread die.val core.val slot.val tid.val
      ({ t.wfPair rd.val (fp64.extremumNum false (t.rfPair rs1.val) (t.rfPair rs2.val)).1 with fcsr := Nat.lor t.fcsr (fp64.extremumNum false (t.rfPair rs1.val) (t.rfPair rs2.val)).2.bits } : Thread).goOn)) ∧
  (∀ (die : Fin 8) (core : Fin 136) (slot : Fin 64) (tid : Fin 2048) (rd rs1 rs2 : Fin 32) (b : Block) (t : Thread) (s : State), threadReady s.chip die.val core.val slot.val tid.val b t → rd.val % 2 = 0 → rs1.val % 2 = 0 → rs2.val % 2 = 0 → 
    completes (.fmaxDp die core slot tid rd rs1 rs2) s (fun u => u = s.withThread die.val core.val slot.val tid.val
      ({ t.wfPair rd.val (fp64.extremumNum true (t.rfPair rs1.val) (t.rfPair rs2.val)).1 with fcsr := Nat.lor t.fcsr (fp64.extremumNum true (t.rfPair rs1.val) (t.rfPair rs2.val)).2.bits } : Thread).goOn)) ∧
  (∀ (die : Fin 8) (core : Fin 136) (slot : Fin 64) (tid : Fin 2048) (rd rs1 : Fin 32) (b : Block) (t : Thread) (s : State) (rm : Rm), threadReady s.chip die.val core.val slot.val tid.val b t → t.dynRm = some rm → rs1.val % 2 = 0 → 
    completes (.fcvtSDp die core slot tid rd rs1) s (fun u => u = s.withThread die.val core.val slot.val tid.val
      ({ t.wf rd.val (Fmt.conv fp64 fp32 rm (t.rfPair rs1.val)).1 with fcsr := Nat.lor t.fcsr (Fmt.conv fp64 fp32 rm (t.rfPair rs1.val)).2.bits } : Thread).goOn)) ∧
  (∀ (die : Fin 8) (core : Fin 136) (slot : Fin 64) (tid : Fin 2048) (rd rs1 : Fin 32) (b : Block) (t : Thread) (s : State), threadReady s.chip die.val core.val slot.val tid.val b t → rd.val % 2 = 0 → 
    completes (.fcvtDpS die core slot tid rd rs1) s (fun u => u = s.withThread die.val core.val slot.val tid.val
      ({ t.wfPair rd.val (Fmt.conv fp32 fp64 .rne (t.rf rs1.val)).1 with fcsr := Nat.lor t.fcsr (Fmt.conv fp32 fp64 .rne (t.rf rs1.val)).2.bits } : Thread).goOn)) ∧
  (∀ (die : Fin 8) (core : Fin 136) (slot : Fin 64) (tid : Fin 2048) (rd rs1 : Fin 32) (b : Block) (t : Thread) (s : State), threadReady s.chip die.val core.val slot.val tid.val b t → rd.val % 2 = 0 → 
    completes (.fcvtDpW die core slot tid rd rs1) s (fun u => u = s.withThread die.val core.val slot.val tid.val
      ({ t.wfPair rd.val (fp64.ofInt .rne (toSigned 32 (t.rx rs1.val))).1 with fcsr := Nat.lor t.fcsr (fp64.ofInt .rne (toSigned 32 (t.rx rs1.val))).2.bits } : Thread).goOn)) ∧
  (∀ (die : Fin 8) (core : Fin 136) (slot : Fin 64) (tid : Fin 2048) (rd rs1 : Fin 32) (b : Block) (t : Thread) (s : State) (rm : Rm), threadReady s.chip die.val core.val slot.val tid.val b t → t.dynRm = some rm → rs1.val % 2 = 0 → 
    completes (.fcvtWDp die core slot tid rd rs1) s (fun u => u = s.withThread die.val core.val slot.val tid.val
      ({ t.wx rd.val (ofSigned 32 (fp64.toInt rm 32 true (t.rfPair rs1.val)).1) with fcsr := Nat.lor t.fcsr (fp64.toInt rm 32 true (t.rfPair rs1.val)).2.bits } : Thread).goOn)) ∧
  (∀ (die : Fin 8) (core : Fin 136) (slot : Fin 64) (tid : Fin 2048) (rd rs1 rs2 : Fin 32) (b : Block) (t : Thread) (s : State), threadReady s.chip die.val core.val slot.val tid.val b t → rs1.val % 2 = 0 → rs2.val % 2 = 0 → 
    completes (.feqDp die core slot tid rd rs1 rs2) s (fun u => u = s.withThread die.val core.val slot.val tid.val
      ({ t.wx rd.val (b2n (fp64.compare 2 (t.rfPair rs1.val) (t.rfPair rs2.val)).1) with fcsr := Nat.lor t.fcsr (fp64.compare 2 (t.rfPair rs1.val) (t.rfPair rs2.val)).2.bits } : Thread).goOn)) ∧
  (∀ (die : Fin 8) (core : Fin 136) (slot : Fin 64) (tid : Fin 2048) (rd rs1 rs2 : Fin 32) (b : Block) (t : Thread) (s : State), threadReady s.chip die.val core.val slot.val tid.val b t → rs1.val % 2 = 0 → rs2.val % 2 = 0 → 
    completes (.fltDp die core slot tid rd rs1 rs2) s (fun u => u = s.withThread die.val core.val slot.val tid.val
      ({ t.wx rd.val (b2n (fp64.compare 1 (t.rfPair rs1.val) (t.rfPair rs2.val)).1) with fcsr := Nat.lor t.fcsr (fp64.compare 1 (t.rfPair rs1.val) (t.rfPair rs2.val)).2.bits } : Thread).goOn)) ∧
  (∀ (die : Fin 8) (core : Fin 136) (slot : Fin 64) (tid : Fin 2048) (rd rs1 rs2 : Fin 32) (b : Block) (t : Thread) (s : State), threadReady s.chip die.val core.val slot.val tid.val b t → rs1.val % 2 = 0 → rs2.val % 2 = 0 → 
    completes (.fleDp die core slot tid rd rs1 rs2) s (fun u => u = s.withThread die.val core.val slot.val tid.val
      ({ t.wx rd.val (b2n (fp64.compare 0 (t.rfPair rs1.val) (t.rfPair rs2.val)).1) with fcsr := Nat.lor t.fcsr (fp64.compare 0 (t.rfPair rs1.val) (t.rfPair rs2.val)).2.bits } : Thread).goOn)) ∧
  (∀ (die : Fin 8) (core : Fin 136) (slot : Fin 64) (tid : Fin 2048) (rd rs1 rs2 : Fin 32) (b : Block) (t : Thread) (s : State), threadReady s.chip die.val core.val slot.val tid.val b t → rs1.val % 2 = 1 → t.dynRm ≠ none → 
    completes (.faddDp die core slot tid rd rs1 rs2) s (fun u => u = s.onChip (fun c => c.threadFault die.val core.val slot.val tid.val 1 0)) ∧ completes (.fleDp die core slot tid rd rs1 rs2) s (fun u => u = s.onChip (fun c => c.threadFault die.val core.val slot.val tid.val 1 0)))

/-- RV32IM instructions of threads (R311 to R316, R332). -/
def Obligations.BaseInstructionsComplete : Prop :=
  (∀ (die : Fin 8) (core : Fin 136) (slot : Fin 64) (tid : Fin 2048) (w : BitVec 32) (b : Block) (t : Thread) (s : State), threadReady s.chip die.val core.val slot.val tid.val b t →
    completes (.threadInstruction die core slot tid w) s (fun u => u = s.riscv ⟨⟨die.val, core.val, slot.val, tid.val⟩, b, t⟩ w.toNat)) ∧
  (∀ (die : Fin 8) (core : Fin 136) (slot : Fin 64) (tid : Fin 2048) (w : BitVec 32) (b : Block) (t : Thread) (s : State), threadReady s.chip die.val core.val slot.val tid.val b t → iOpcode w.toNat = 0x37 → 
    completes (.threadInstruction die core slot tid w) s (fun u => u = s.withThread die.val core.val slot.val tid.val ((t.wx (iRd w.toNat) (immU w.toNat)).goOn))) ∧
  (∀ (die : Fin 8) (core : Fin 136) (slot : Fin 64) (tid : Fin 2048) (w : BitVec 32) (b : Block) (t : Thread) (s : State), threadReady s.chip die.val core.val slot.val tid.val b t → iOpcode w.toNat = 0x17 → 
    completes (.threadInstruction die core slot tid w) s (fun u => u = s.withThread die.val core.val slot.val tid.val ((t.wx (iRd w.toNat) (add32 t.pc (immU w.toNat))).goOn))) ∧
  (∀ (die : Fin 8) (core : Fin 136) (slot : Fin 64) (tid : Fin 2048) (w : BitVec 32) (b : Block) (t : Thread) (s : State), threadReady s.chip die.val core.val slot.val tid.val b t → iOpcode w.toNat = 0x13 → iF3 w.toNat ≠ 1 → iF3 w.toNat ≠ 5 → 
    completes (.threadInstruction die core slot tid w) s (fun u => u = s.withThread die.val core.val slot.val tid.val ((t.wx (iRd w.toNat) (aluOp (iF3 w.toNat) false (t.rx (iRs1 w.toNat)) (immI w.toNat))).goOn))) ∧
  (∀ (die : Fin 8) (core : Fin 136) (slot : Fin 64) (tid : Fin 2048) (w : BitVec 32) (b : Block) (t : Thread) (s : State), threadReady s.chip die.val core.val slot.val tid.val b t → iOpcode w.toNat = 0x13 → iF3 w.toNat = 5 → iF7 w.toNat = 0 ∨ iF7 w.toNat = 0x20 → 
    completes (.threadInstruction die core slot tid w) s (fun u => u = s.withThread die.val core.val slot.val tid.val ((t.wx (iRd w.toNat) (aluOp 5 (iF7 w.toNat == 0x20) (t.rx (iRs1 w.toNat)) (immI w.toNat))).goOn))) ∧
  (∀ (die : Fin 8) (core : Fin 136) (slot : Fin 64) (tid : Fin 2048) (w : BitVec 32) (b : Block) (t : Thread) (s : State), threadReady s.chip die.val core.val slot.val tid.val b t → iOpcode w.toNat = 0x33 → iF7 w.toNat = 0 → 
    completes (.threadInstruction die core slot tid w) s (fun u => u = s.withThread die.val core.val slot.val tid.val ((t.wx (iRd w.toNat) (aluOp (iF3 w.toNat) false (t.rx (iRs1 w.toNat)) (t.rx (iRs2 w.toNat)))).goOn))) ∧
  (∀ (die : Fin 8) (core : Fin 136) (slot : Fin 64) (tid : Fin 2048) (w : BitVec 32) (b : Block) (t : Thread) (s : State), threadReady s.chip die.val core.val slot.val tid.val b t → iOpcode w.toNat = 0x33 → iF7 w.toNat = 0x20 → iF3 w.toNat = 0 ∨ iF3 w.toNat = 5 → 
    completes (.threadInstruction die core slot tid w) s (fun u => u = s.withThread die.val core.val slot.val tid.val ((t.wx (iRd w.toNat) (aluOp (iF3 w.toNat) true (t.rx (iRs1 w.toNat)) (t.rx (iRs2 w.toNat)))).goOn))) ∧
  (∀ (die : Fin 8) (core : Fin 136) (slot : Fin 64) (tid : Fin 2048) (w : BitVec 32) (b : Block) (t : Thread) (s : State), threadReady s.chip die.val core.val slot.val tid.val b t → iOpcode w.toNat = 0x33 → iF7 w.toNat = 1 → 
    completes (.threadInstruction die core slot tid w) s (fun u => u = s.withThread die.val core.val slot.val tid.val ((t.wx (iRd w.toNat) (mulOp (iF3 w.toNat) (t.rx (iRs1 w.toNat)) (t.rx (iRs2 w.toNat)))).goOn))) ∧
  (∀ (die : Fin 8) (core : Fin 136) (slot : Fin 64) (tid : Fin 2048) (w : BitVec 32) (b : Block) (t : Thread) (s : State), threadReady s.chip die.val core.val slot.val tid.val b t → iOpcode w.toNat = 0x6F → add32 t.pc (immJ w.toNat) % 4 = 0 → 
    completes (.threadInstruction die core slot tid w) s (fun u => u = s.withThread die.val core.val slot.val tid.val ({ t.wx (iRd w.toNat) (add32 t.pc 4) with pc := add32 t.pc (immJ w.toNat), retired := t.retired + 1 }))) ∧
  (∀ (die : Fin 8) (core : Fin 136) (slot : Fin 64) (tid : Fin 2048) (w : BitVec 32) (b : Block) (t : Thread) (s : State), threadReady s.chip die.val core.val slot.val tid.val b t → iOpcode w.toNat = 0x67 → iF3 w.toNat = 0 → add32 (t.rx (iRs1 w.toNat)) (immI w.toNat) / 2 * 2 % 4 = 0 → 
    completes (.threadInstruction die core slot tid w) s (fun u => u = s.withThread die.val core.val slot.val tid.val ({ t.wx (iRd w.toNat) (add32 t.pc 4) with pc := add32 (t.rx (iRs1 w.toNat)) (immI w.toNat) / 2 * 2, retired := t.retired + 1 }))) ∧
  (∀ (die : Fin 8) (core : Fin 136) (slot : Fin 64) (tid : Fin 2048) (w : BitVec 32) (b : Block) (t : Thread) (s : State), threadReady s.chip die.val core.val slot.val tid.val b t → iOpcode w.toNat = 0x63 → branchTaken (iF3 w.toNat) (t.rx (iRs1 w.toNat)) (t.rx (iRs2 w.toNat)) = some true → add32 t.pc (immB w.toNat) % 4 = 0 → 
    completes (.threadInstruction die core slot tid w) s (fun u => u = s.withThread die.val core.val slot.val tid.val ({ t with pc := add32 t.pc (immB w.toNat), retired := t.retired + 1 }))) ∧
  (∀ (die : Fin 8) (core : Fin 136) (slot : Fin 64) (tid : Fin 2048) (w : BitVec 32) (b : Block) (t : Thread) (s : State), threadReady s.chip die.val core.val slot.val tid.val b t → iOpcode w.toNat = 0x63 → branchTaken (iF3 w.toNat) (t.rx (iRs1 w.toNat)) (t.rx (iRs2 w.toNat)) = some false → 
    completes (.threadInstruction die core slot tid w) s (fun u => u = s.withThread die.val core.val slot.val tid.val (t.goOn))) ∧
  (∀ (die : Fin 8) (core : Fin 136) (slot : Fin 64) (tid : Fin 2048) (w : BitVec 32) (b : Block) (t : Thread) (s : State) (p : Nat), threadReady s.chip die.val core.val slot.val tid.val b t → iOpcode w.toNat = 0x03 → iF3 w.toNat = 2 → add32 (t.rx (iRs1 w.toNat)) (immI w.toNat) % 4 = 0 → s.chip.threadPlace b (add32 (t.rx (iRs1 w.toNat)) (immI w.toNat)) = .here p → s.chip.placeGood p = true → 
    completes (.threadInstruction die core slot tid w) s (fun u => u = s.withThread die.val core.val slot.val tid.val ((t.wx (iRd w.toNat) (memNat s.mem p 4)).goOn))) ∧
  (∀ (die : Fin 8) (core : Fin 136) (slot : Fin 64) (tid : Fin 2048) (w : BitVec 32) (b : Block) (t : Thread) (s : State) (p : Nat), threadReady s.chip die.val core.val slot.val tid.val b t → iOpcode w.toNat = 0x23 → iF3 w.toNat = 2 → add32 (t.rx (iRs1 w.toNat)) (immS w.toNat) % 4 = 0 → s.chip.threadPlace b (add32 (t.rx (iRs1 w.toNat)) (immS w.toNat)) = .here p → s.chip.placeGood p = true → 
    completes (.threadInstruction die core slot tid w) s (fun u => u = State.withThread { s with mem := memPutNat s.mem p 4 (t.rx (iRs2 w.toNat)) } die.val core.val slot.val tid.val t.goOn)) ∧
  (∀ (die : Fin 8) (core : Fin 136) (slot : Fin 64) (tid : Fin 2048) (w : BitVec 32) (b : Block) (t : Thread) (s : State), threadReady s.chip die.val core.val slot.val tid.val b t → iOpcode w.toNat = 0x03 → iF3 w.toNat = 2 → add32 (t.rx (iRs1 w.toNat)) (immI w.toNat) % 4 ≠ 0 → 
    completes (.threadInstruction die core slot tid w) s (fun u => u = s.onChip (fun c => c.threadFault die.val core.val slot.val tid.val 4 (add32 (t.rx (iRs1 w.toNat)) (immI w.toNat))))) ∧
  (∀ (die : Fin 8) (core : Fin 136) (slot : Fin 64) (tid : Fin 2048) (w : BitVec 32) (b : Block) (t : Thread) (s : State), threadReady s.chip die.val core.val slot.val tid.val b t → iOpcode w.toNat = 0x03 → iF3 w.toNat = 2 → add32 (t.rx (iRs1 w.toNat)) (immI w.toNat) % 4 = 0 → s.chip.threadPlace b (add32 (t.rx (iRs1 w.toNat)) (immI w.toNat)) = .fault → 
    completes (.threadInstruction die core slot tid w) s (fun u => u = s.onChip (fun c => c.threadFault die.val core.val slot.val tid.val 3 (add32 (t.rx (iRs1 w.toNat)) (immI w.toNat))))) ∧
  (∀ (die : Fin 8) (core : Fin 136) (slot : Fin 64) (tid : Fin 2048) (w : BitVec 32) (b : Block) (t : Thread) (s : State), threadReady s.chip die.val core.val slot.val tid.val b t → iOpcode w.toNat = 0x7F → 
    completes (.threadInstruction die core slot tid w) s (fun u => u = s.onChip (fun c => c.threadFault die.val core.val slot.val tid.val 1 0)))

/-- Cores and blocks (R305 to R333). -/
def Obligations.CoreCommandsComplete : Prop :=
  (∀ (die : Fin 8) (core : Fin 136) (slot : Fin 64) (tid : Fin 2048) (cause : Fin 7) (addr : BitVec 32) (b : Block) (s : State), s.chip.comp.blocks = [b] → s.chip.blockAt die.val core.val slot.val = some b → cause.val ≠ 0 → tid.val < b.bdim → s.chip.rd (R.CMP_CORE_ERR_CAUSE die.val core.val) = 0 → s.chip.cmd.cmds = [] → 
    completes (.threadException die core slot tid cause addr) s (fun u => u.chip.comp.blocks = [] ∧ u.chip.rd (R.CMP_CORE_ERR_CAUSE die.val core.val) = cause.val ∧ u.chip.word (R.CMP_CORE_ERR_ADDR die.val core.val) = addr
      ∧ u.chip.rd (R.CMP_CORE_COUNTS_EXCEPTIONS die.val core.val) = min (R.CMP_CORE_COUNTS_EXCEPTIONS die.val core.val).top (s.chip.rd (R.CMP_CORE_COUNTS_EXCEPTIONS die.val core.val) + 1) ∧ onlyChip s u)) ∧
  (∀ (die : Fin 8) (core : Fin 136) (slot : Fin 64) (tid : Fin 2048) (cause : Fin 7) (addr : BitVec 32) (b : Block) (s : State), s.chip.blockAt die.val core.val slot.val = some b → cause.val ≠ 0 → tid.val < b.bdim →
    completes (.threadException die core slot tid cause addr) s (fun u => u.chip = s.chip.threadFault die.val core.val slot.val tid.val cause.val addr.toNat ∧ onlyChip s u)) ∧
  (∀ (die : Fin 8) (core : Fin 136) (s : State), s.chip.rd (R.CMP_CORE_STATE_STATE die.val core.val) ≠ 5 → s.chip.comp.queues = [] → s.chip.comp.blocks = [] → 
    completes (.coreFault die core none) s (fun u => u.chip.rd (R.CMP_CORE_STATE_STATE die.val core.val) = 5 ∧ u.chip.rd (R.CMP_CORE_STATE_LOGICAL die.val core.val) = 31 ∧ u.chip.reports.length = s.chip.reports.length + 1 ∧ onlyChip s u)) ∧
  (∀ (die : Fin 8) (core : Fin 136) (e : Option (Fin 6)) (s : State), completes (.coreFault die core e) s (fun u => onlyChip s u
      ∧ u.chip = s.chip.coreFault die.val core.val (e.map (fun e => (e.val, ((s.chip.descs die.val core.val e.val).head?.map Desc.opc).getD 0))))) ∧
  (∀ (die : Fin 8) (core : Fin 136) (e : Option (Fin 6)) (s : State), s.chip.rd (R.CMP_CORE_STATE_STATE die.val core.val) = 5 → 
    exec (.coreFault die core e) s = .next s) ∧
  (∀ (die : Fin 8) (page : Fin 262144) (s : State), (die.val, page.val) ∉ s.chip.mems.sramRetired → 
    completes (.sramPageRetire die page) s (fun u => (die.val, page.val) ∈ u.chip.mems.sramRetired ∧ onlyChip s u)) ∧
  (∀ (die : Fin 8) (page : Fin 262144) (s : State), (die.val, page.val) ∉ s.chip.mems.sramRetired →
    completes (.sramPageRetire die page) s (fun u => u.chip = s.chip.retirePage die.val page.val 0 0 ∧ onlyChip s u)) ∧
  (∀ (die : Fin 8) (n : Fin 4) (s : State), s.chip.rd (R.CMP_QP_STATUS_STATE die.val n.val) ≠ 4 → s.chip.qpQueues die.val n.val = [] → s.chip.cmd.cmds = [] → 
    completes (.qpFault die n) s (fun u => u.chip.rd (R.CMP_QP_STATUS_STATE die.val n.val) = 4 ∧ u.chip.reports.length = s.chip.reports.length + 1 ∧ onlyChip s u)) ∧
  (∀ (die : Fin 8) (n : Fin 4) (s : State), completes (.qpFault die n) s (fun t => t.chip = s.chip.qpFault die.val n.val ∧ onlyChip s t)) ∧
  (∀ (req : Requester) (die : Fin 8) (core : Fin 136) (bh : Bool) (s : State), writeAccepted s.chip req (R.CMP_CORE_CTRL die.val core.val) → s.chip.rd (R.CMP_CORE_STATE_STATE die.val core.val) = 2 ∨ s.chip.rd (R.CMP_CORE_STATE_STATE die.val core.val) = 3 → 
    completes (.coreHalt req die core bh) s (fun u => u.chip.rd (R.CMP_CORE_STATE_STATE die.val core.val) = 4 ∧ u.chip.comp = s.chip.comp ∧ onlyChip s u)) ∧
  (∀ (req : Requester) (die : Fin 8) (core : Fin 136) (breakHalt : Bool) (s : State), completes (.coreHalt req die core breakHalt) s (fun t => t.chip = s.chip.writeCoreCtrl req die.val core.val 31 breakHalt ∧ onlyChip s t)) ∧
  (∀ (req : Requester) (die : Fin 8) (core : Fin 136) (bh : Bool) (s : State), writeAccepted s.chip req (R.CMP_CORE_CTRL die.val core.val) → s.chip.rd (R.CMP_CORE_STATE_STATE die.val core.val) = 4 → 
    completes (.coreResume req die core bh) s (fun u => u.chip.rd (R.CMP_CORE_STATE_STATE die.val core.val) = (if s.chip.blocksOn die.val core.val = [] then 2 else 3) ∧ u.chip.comp = s.chip.comp ∧ onlyChip s u)) ∧
  (∀ (req : Requester) (die : Fin 8) (core : Fin 136) (breakHalt : Bool) (s : State), completes (.coreResume req die core breakHalt) s (fun t => t.chip = s.chip.writeCoreCtrl req die.val core.val 30 breakHalt ∧ onlyChip s t)) ∧
  (∀ (req : Requester) (die : Fin 8) (core : Fin 136) (bh : Bool) (s : State), writeAccepted s.chip req (R.CMP_CORE_CTRL die.val core.val) → 
    completes (.coreErrClear req die core bh) s (fun u => u.chip.word (R.CMP_CORE_ERR die.val core.val) = 0 ∧ u.chip.word (R.CMP_CORE_ERR_PC die.val core.val) = 0 ∧ u.chip.word (R.CMP_CORE_ERR_ADDR die.val core.val) = 0
      ∧ u.chip.rd (R.CMP_CORE_STATE_STATE die.val core.val) = s.chip.rd (R.CMP_CORE_STATE_STATE die.val core.val) ∧ onlyChip s u)) ∧
  (∀ (req : Requester) (die : Fin 8) (core : Fin 136) (breakHalt : Bool) (s : State), completes (.coreErrClear req die core breakHalt) s (fun t => t.chip = s.chip.writeCoreCtrl req die.val core.val 29 breakHalt ∧ onlyChip s t)) ∧
  (∀ (src : CmdSrc) (idx : BitVec 16) (l : Launch) (k slot a : Nat) (s : State), s.chip.comp.launches = [l] → l.src = src → l.idx = idx.toNat → l.next < l.blocks → l.cores.findSome? (s.chip.blockRoom l) = some (k, slot, a) → Memory.wf s.mem = true → 
    completes (.blockPlace src idx) s (fun u => u.chip.comp.blocks = s.chip.comp.blocks ++ [⟨l.die, k, slot, l.src, l.idx, l.next, l.tenant, l.bdim, a, l.bytes, l.windows, newThreads l⟩]
      ∧ u.chip.comp.launches = [{ l with next := l.next + 1 }] ∧ u.mem = memZero s.mem (scratchBase l.die k + a) (scratchBase l.die k + a + l.bytes) ∧ u.pending = s.pending)) ∧
  (∀ (src : CmdSrc) (idx : BitVec 16) (l : Launch) (s : State), s.chip.comp.launches.find? (fun l => l.src == src && l.idx == idx.toNat) = some l →
    completes (.blockPlace src idx) s (fun u => u = s.placeBlock l)) ∧
  (∀ (src : CmdSrc) (idx : BitVec 16) (l : Launch) (s : State), s.chip.comp.launches = [l] → l.cores.findSome? (s.chip.blockRoom l) = none → 
    exec (.blockPlace src idx) s = .next s) ∧
  (∀ (die : Fin 8) (core : Fin 136) (slot : Fin 64) (b : Block) (s : State), s.chip.comp.blocks = [b] → s.chip.blockAt die.val core.val slot.val = some b → b.threads.all (fun t => t.wait == .ended) = true → s.chip.comp.launches = [] → 
    completes (.blockEnd die core slot) s (fun u => u.chip.comp.blocks = [] ∧ onlyChip s u)) ∧
  (∀ (die : Fin 8) (core : Fin 136) (slot : Fin 64) (b : Block) (l : Launch) (s : State), s.chip.blockAt die.val core.val slot.val = some b → b.threads.all (fun t => t.wait == .ended) = true → (s.chip.dropBlocks (fun y => y.die == die.val && y.core == core.val && y.slot == slot.val)).comp.launches.find? (fun l => l.src == b.src && l.idx == b.idx) = some l → l.blocks ≤ l.ended + 1 →
    completes (.blockEnd die core slot) s (fun u => u.chip = (s.chip.dropBlocks (fun y => y.die == die.val && y.core == core.val && y.slot == slot.val)).endLaunch b.src b.idx stOK l.blocks 0 ∧ onlyChip s u)) ∧
  (∀ (die : Fin 8) (core : Fin 136) (slot : Fin 64) (b : Block) (l : Launch) (s : State), s.chip.blockAt die.val core.val slot.val = some b → b.threads.all (fun t => t.wait == .ended) = true → (s.chip.dropBlocks (fun y => y.die == die.val && y.core == core.val && y.slot == slot.val)).comp.launches.find? (fun l => l.src == b.src && l.idx == b.idx) = some l → l.ended + 1 < l.blocks →
    completes (.blockEnd die core slot) s (fun u => onlyChip s u ∧ u.chip = (s.chip.dropBlocks (fun y => y.die == die.val && y.core == core.val && y.slot == slot.val)).onComp (fun x => { x with launches := updFirst (fun y => y == l) (fun y => { y with ended := y.ended + 1 }) x.launches }))) ∧
  (∀ (die : Fin 8) (core : Fin 136) (slot : Fin 64) (b : Block) (s : State), s.chip.blockAt die.val core.val slot.val = some b → b.threads.all (fun t => t.wait == .ended) = false → 
    exec (.blockEnd die core slot) s = .next s)

/-- The special-function engine, NOP and completion (R319 to R323). -/
def Obligations.SpecialFunctionDescriptorsComplete : Prop :=
  (∀ (die : Fin 8) (core : Fin 136) (x : Desc) (s : State), descReady s.chip die.val core.val 1 1 (sfeCheck false false x) x → 
    completes (.sfeExp die core) s (fun t => descEnded s t die.val core.val 1 x stOK ∧ t.mem = (s.sfeOut die.val core.val x ((s.sfeIn die.val core.val x).map (sfeFn 1))).mem)) ∧
  (∀ (die : Fin 8) (core : Fin 136) (x : Desc) (s : State), descReady s.chip die.val core.val 1 2 (sfeCheck false false x) x → 
    completes (.sfeLn die core) s (fun t => descEnded s t die.val core.val 1 x stOK ∧ t.mem = (s.sfeOut die.val core.val x ((s.sfeIn die.val core.val x).map (sfeFn 2))).mem)) ∧
  (∀ (die : Fin 8) (core : Fin 136) (x : Desc) (s : State), descReady s.chip die.val core.val 1 3 (sfeCheck false false x) x → 
    completes (.sfeRecip die core) s (fun t => descEnded s t die.val core.val 1 x stOK ∧ t.mem = (s.sfeOut die.val core.val x ((s.sfeIn die.val core.val x).map (sfeFn 3))).mem)) ∧
  (∀ (die : Fin 8) (core : Fin 136) (x : Desc) (s : State), descReady s.chip die.val core.val 1 4 (sfeCheck false false x) x → 
    completes (.sfeRsqrt die core) s (fun t => descEnded s t die.val core.val 1 x stOK ∧ t.mem = (s.sfeOut die.val core.val x ((s.sfeIn die.val core.val x).map (sfeFn 4))).mem)) ∧
  (∀ (die : Fin 8) (core : Fin 136) (x : Desc) (s : State), descReady s.chip die.val core.val 1 5 (sfeCheck false false x) x → 
    completes (.sfeSigmoid die core) s (fun t => descEnded s t die.val core.val 1 x stOK ∧ t.mem = (s.sfeOut die.val core.val x ((s.sfeIn die.val core.val x).map (sfeFn 5))).mem)) ∧
  (∀ (die : Fin 8) (core : Fin 136) (x : Desc) (s : State), descReady s.chip die.val core.val 1 6 (sfeCheck false false x) x → 
    completes (.sfeTanh die core) s (fun t => descEnded s t die.val core.val 1 x stOK ∧ t.mem = (s.sfeOut die.val core.val x ((s.sfeIn die.val core.val x).map (sfeFn 6))).mem)) ∧
  (∀ (die : Fin 8) (core : Fin 136) (x : Desc) (s : State), descReady s.chip die.val core.val 1 7 (sfeCheck false false x) x → 
    completes (.sfeGelu die core) s (fun t => descEnded s t die.val core.val 1 x stOK ∧ t.mem = (s.sfeOut die.val core.val x ((s.sfeIn die.val core.val x).map (sfeFn 7))).mem)) ∧
  (∀ (die : Fin 8) (core : Fin 136) (x : Desc) (s : State), descReady s.chip die.val core.val 1 8 (sfeCheck true false x) x → 
    completes (.sfeRowmax die core) s (fun t => descEnded s t die.val core.val 1 x stOK ∧ t.mem = ((s.sfeOut die.val core.val x (s.sfeIn die.val core.val x)).putAux die.val core.val x
      ((sfeRows x (s.sfeIn die.val core.val x)).map (fun r => r.tail.foldl (fun a b => fp32.extremum true a b) (if (fp32.val (r.headD 0)).isNan then fp32.qnan else r.headD 0)))).mem)) ∧
  (∀ (die : Fin 8) (core : Fin 136) (a : Nat) (x : Desc) (s : State), descReady s.chip die.val core.val 1 9 (sfeCheck true false x) x → outsideScratch die.val core.val a → 
    completes (.sfeExpsum die core) s (fun t => descEnded s t die.val core.val 1 x stOK ∧ memGet t.mem a = memGet s.mem a)) ∧
  (∀ (die : Fin 8) (core : Fin 136) (x : Desc) (s : State), descReady s.chip die.val core.val 1 10 (sfeCheck false true x) x → 
    completes (.sfeScale die core) s (fun t => descEnded s t die.val core.val 1 x stOK ∧ t.mem = (s.sfeOut die.val core.val x ((s.sfeIn die.val core.val x).map (fun v => (fp32.mul .rne v (x.par 40 4)).1))).mem)) ∧
  (∀ (die : Fin 8) (core : Fin 136) (x : Desc) (s : State), s.chip.startsDesc die.val core.val 1 = some x → x.opc = 1 → x.headerGood 1 = false → 
    completes (.sfeExp die core) s (fun t => descEnded s t die.val core.val 1 x dsBAD_DESC ∧ t.mem = s.mem)) ∧
  (∀ (die : Fin 8) (core : Fin 136) (q : Fin 8) (x : Desc) (s : State), s.chip.descs die.val core.val q.val = [x] → s.chip.rd (R.CMP_CORE_STATE_STATE die.val core.val) ≠ 5 → s.chip.depMet die.val core.val x = true → x.opc = 0 → s.chip.descCheck die.val core.val q.val x 0 = 0 → s.chip.comp.done = [] → x.cmd = none → s.chip.comp.pushers = [] → 
    completes (.engineNop die core q) s (fun t => t.chip.descs die.val core.val q.val = [] ∧ t.chip.on (R.CMP_CORE_EQ_SKIP die.val core.val q.val) = false ∧ getKey x.ticket ((getKey (die.val, core.val, q.val) t.chip.comp.done).getD []) = some 0 ∧ onlyChip s t)) ∧
  (∀ (die : Fin 8) (core : Fin 136) (q : Fin 8) (x : Desc) (s : State), (s.chip.descs die.val core.val q.val).head? = some x → s.chip.rd (R.CMP_CORE_STATE_STATE die.val core.val) ≠ 5 → s.chip.depMet die.val core.val x = true → x.opc = 0 →
    completes (.engineNop die core q) s (fun t => onlyChip s t ∧ t.chip = (s.chip.wr (R.CMP_CORE_EQ_SKIP die.val core.val q.val) 0).descDone die.val core.val q.val x (s.chip.descCheck die.val core.val q.val x 0))) ∧
  (∀ (die : Fin 8) (core : Fin 136) (q : Fin 8) (st : Nat) (x : Desc) (s : State), s.chip.descs die.val core.val q.val = [x] → s.chip.rd (R.CMP_CORE_STATE_STATE die.val core.val) ≠ 5 → x.begun = true → x.status = some st → s.chip.comp.done = [] → x.cmd = none → s.chip.comp.pushers = [] → 
    completes (.descriptorComplete die core q) s (fun t => t.chip.descs die.val core.val q.val = [] ∧ getKey x.ticket ((getKey (die.val, core.val, q.val) t.chip.comp.done).getD []) = some st ∧ onlyChip s t)) ∧
  (∀ (die : Fin 8) (core : Fin 136) (q : Fin 8) (x : Desc) (s : State), s.chip.descs die.val core.val q.val = [x] → s.chip.rd (R.CMP_CORE_STATE_STATE die.val core.val) ≠ 5 → s.chip.on (R.CMP_CORE_EQ_SKIP die.val core.val q.val) = true → x.begun = false → x.opc ≠ 0 → s.chip.comp.done = [] → x.cmd = none → s.chip.comp.pushers = [] → 
    completes (.descriptorComplete die core q) s (fun t => t.chip.descs die.val core.val q.val = [] ∧ getKey x.ticket ((getKey (die.val, core.val, q.val) t.chip.comp.done).getD []) = some dsSKIPPED ∧ onlyChip s t)) ∧
  (∀ (die : Fin 8) (core : Fin 136) (q : Fin 8) (x : Desc) (st : Nat) (s : State), (s.chip.descs die.val core.val q.val).head? = some x → s.chip.rd (R.CMP_CORE_STATE_STATE die.val core.val) ≠ 5 → s.chip.on (R.CMP_CORE_EQ_SKIP die.val core.val q.val) = false → x.begun = true → x.status = some st → q.val ≠ 0 →
    completes (.descriptorComplete die core q) s (fun t => t.chip = s.chip.descDone die.val core.val q.val x st ∧ onlyChip s t)) ∧
  (∀ (die : Fin 8) (core : Fin 136) (x : Desc) (st : Nat) (s : State), (s.chip.descs die.val core.val 0).head? = some x → s.chip.rd (R.CMP_CORE_STATE_STATE die.val core.val) ≠ 5 → s.chip.on (R.CMP_CORE_EQ_SKIP die.val core.val 0) = false → x.begun = true → x.status = some st →
    completes (.descriptorComplete die core 0) s (fun t => onlyChip s t
      ∧ t.chip = (s.chip.descDone die.val core.val 0 x st).wr (if x.opc = 1 then R.CMP_MXE_STATE_ARRAY_BUSY die.val core.val else R.CMP_MXE_STATE_PORT_BUSY die.val core.val) 0)) ∧
  (∀ (die : Fin 8) (core : Fin 136) (q : Fin 8) (x : Desc) (s : State), (s.chip.descs die.val core.val q.val).head? = some x → s.chip.rd (R.CMP_CORE_STATE_STATE die.val core.val) ≠ 5 → s.chip.on (R.CMP_CORE_EQ_SKIP die.val core.val q.val) = true → x.begun = false → x.opc ≠ 0 →
    completes (.descriptorComplete die core q) s (fun t => t.chip = s.chip.descDone die.val core.val q.val x dsSKIPPED ∧ onlyChip s t)) ∧
  (∀ (die : Fin 8) (core : Fin 136) (q : Fin 8) (x : Desc) (s : State), (s.chip.descs die.val core.val q.val).head? = some x → s.chip.rd (R.CMP_CORE_STATE_STATE die.val core.val) ≠ 5 → s.chip.on (R.CMP_CORE_EQ_SKIP die.val core.val q.val) = false → x.begun = false → engineTop q.val < x.opc → s.chip.depMet die.val core.val x = true →
    completes (.descriptorComplete die core q) s (fun t => t.chip = s.chip.descDone die.val core.val q.val x dsBAD_DESC ∧ onlyChip s t)) ∧
  (∀ (die : Fin 8) (core : Fin 136) (q : Fin 8) (x : Desc) (s : State), (s.chip.descs die.val core.val q.val).head? = some x → s.chip.rd (R.CMP_CORE_STATE_STATE die.val core.val) ≠ 5 → s.chip.on (R.CMP_CORE_EQ_SKIP die.val core.val q.val) = false → x.begun = true → x.status = none →
    (((s.moverStep die.val core.val q.val x.ticket).chip.descs die.val core.val q.val).head?).bind (·.status) = none →
    completes (.descriptorComplete die core q) s (fun t => t = s.moverStep die.val core.val q.val x.ticket))

/-- Engines that move bytes (R324 to R329). -/
def Obligations.MovingDescriptorsComplete : Prop :=
  (∀ (die : Fin 8) (core : Fin 136) (p q : Nat) (x : Desc) (s : State), descReady s.chip die.val core.val 2 1 (gseCheck false x) x → x.par 32 4 = 1 → s.scrNat die.val core.val (x.par 24 4) 4 < x.par 36 4 → cuts (s.chip.scrGlobal die.val core.val (x.par 28 4)) (x.par 44 2) = [(0, x.par 44 2)] → pieces (gseAddr x (s.scrNat die.val core.val (x.par 24 4) 4) % 2 ^ 64) (x.par 44 2) = [(gseAddr x (s.scrNat die.val core.val (x.par 24 4) 4), x.par 44 2)] → s.chip.globalPlace die.val (s.chip.coreOwner die.val core.val) (gseAddr x (s.scrNat die.val core.val (x.par 24 4) 4)) = .here p → s.chip.globalPlace die.val (s.chip.coreOwner die.val core.val) (s.chip.scrGlobal die.val core.val (x.par 28 4)) = .here q → s.chip.placeGood p = true → s.chip.placeGood q = true → 
    completes (.gather die core) s (fun t => t.chip.descStatus die.val core.val 2 x.ticket = some (some stOK) ∧ t.mem = memWrite s.mem q (memRead s.mem p (x.par 44 2)) ∧ t.pending = s.pending)) ∧
  (∀ (die : Fin 8) (core : Fin 136) (q : Nat) (x : Desc) (s : State), descReady s.chip die.val core.val 2 1 (gseCheck false x) x → x.par 32 4 = 1 → x.par 36 4 ≤ s.scrNat die.val core.val (x.par 24 4) 4 → cuts (s.chip.scrGlobal die.val core.val (x.par 28 4)) (x.par 44 2) = [(0, x.par 44 2)] → s.chip.globalPlace die.val (s.chip.coreOwner die.val core.val) (s.chip.scrGlobal die.val core.val (x.par 28 4)) = .here q → s.chip.placeGood q = true → 
    completes (.gather die core) s (fun t => t.chip.descStatus die.val core.val 2 x.ticket = some (some dsINDEX_RANGE) ∧ t.mem = memWrite s.mem q (List.replicate (x.par 44 2) 0) ∧ t.pending = s.pending)) ∧
  (∀ (die : Fin 8) (core : Fin 136) (p : Nat) (x : Desc) (s : State), descReady s.chip die.val core.val 2 2 (gseCheck false x) x → x.par 32 4 = 1 → s.scrNat die.val core.val (x.par 24 4) 4 < x.par 36 4 → cuts (gseAddr x (s.scrNat die.val core.val (x.par 24 4) 4)) (x.par 44 2) = [(0, x.par 44 2)] → gseAddr x (s.scrNat die.val core.val (x.par 24 4) 4) < 2 ^ 64 → s.chip.globalPlace die.val (s.chip.coreOwner die.val core.val) (gseAddr x (s.scrNat die.val core.val (x.par 24 4) 4)) = .here p → s.chip.placeGood p = true → 
    completes (.scatter die core) s (fun t => t.chip.descStatus die.val core.val 2 x.ticket = some (some stOK) ∧ t.mem = memWrite s.mem p (s.scr die.val core.val (x.par 28 4) (x.par 44 2)) ∧ t.pending = s.pending)) ∧
  (∀ (die : Fin 8) (core : Fin 136) (x : Desc) (s : State), descReady s.chip die.val core.val 2 2 (gseCheck false x) x → x.par 32 4 = 1 → x.par 36 4 ≤ s.scrNat die.val core.val (x.par 24 4) 4 → 
    completes (.scatter die core) s (fun t => t.chip.descStatus die.val core.val 2 x.ticket = some (some dsINDEX_RANGE) ∧ onlyMem s t)) ∧
  (∀ (die : Fin 8) (core : Fin 136) (p : Nat) (x : Desc) (s : State), descReady s.chip die.val core.val 2 3 (gseCheck true x) x → x.par 32 4 = 1 → x.par 44 2 = 4 → s.scrNat die.val core.val (x.par 24 4) 4 < x.par 36 4 → gseAddr x (s.scrNat die.val core.val (x.par 24 4) 4) < 2 ^ 64 → s.chip.globalPlace die.val (s.chip.coreOwner die.val core.val) (gseAddr x (s.scrNat die.val core.val (x.par 24 4) 4)) = .here p → s.chip.placeGood p = true → 
    completes (.scatterAdd die core) s (fun t => t.chip.descStatus die.val core.val 2 x.ticket = some (some stOK) ∧ t.mem = memPutNat s.mem p 4 (atomNew (if fget (x.par 46 1) 7 4 = 0 then 0x0A else 2) 4 (memNat s.mem p 4) (s.scrNat die.val core.val (x.par 28 4) 4) (s.scrNat die.val core.val (x.par 28 4) 4) 0) ∧ t.pending = s.pending)) ∧
  (∀ (die : Fin 8) (core : Fin 136) (n : Fin 3) (a b p q : Nat) (x : Desc) (s : State), descReady s.chip die.val core.val (5 + n.val) 1 (dmeCheck x 0) x → dmeRows x = [(a, b)] → cuts b (x.par 32 4) = [(0, x.par 32 4)] → b < 2 ^ 64 → a < 2 ^ 64 → pieces (a % 2 ^ 64) (x.par 32 4) = [(a, x.par 32 4)] → s.chip.globalPlace die.val (s.chip.coreOwner die.val core.val) (a) = .here p → s.chip.placeGood p = true → bitOf (x.par 58 1) 2 = false → bitOf (x.par 58 1) 0 = false → s.chip.globalPlace die.val (s.chip.coreOwner die.val core.val) (b) = .here q → s.chip.placeGood q = true → 
    completes (.dmeCopy die core n) s (fun t => t.chip.descStatus die.val core.val (5 + n.val) x.ticket = some (some stOK) ∧ t.mem = memWrite s.mem q (memRead s.mem p (x.par 32 4)) ∧ t.pending = s.pending)) ∧
  (∀ (die : Fin 8) (core : Fin 136) (n : Fin 3) (a b p : Nat) (x : Desc) (s : State), descReady s.chip die.val core.val (5 + n.val) 2 (reduceCheck x) x → dmeRows x = [(a, b)] → cuts b (x.par 32 4) = [(0, x.par 32 4)] → b < 2 ^ 64 → a < 2 ^ 64 → pieces (a % 2 ^ 64) (x.par 32 4) = [(a, x.par 32 4)] → s.chip.globalPlace die.val (s.chip.coreOwner die.val core.val) (a) = .here p → s.chip.placeGood p = true → inDieMemory die.val (b % 2 ^ 46) = true → b / 2 ^ 46 = s.chip.node → 
    completes (.dmeReduce die core n) s (fun t => t.chip.descStatus die.val core.val (5 + n.val) x.ticket = some (some stTARGET) ∧ onlyMem s t)) ∧
  (∀ (die : Fin 8) (core : Fin 136) (n : Fin 3) (a b p : Nat) (x : Desc) (s : State), descReady s.chip die.val core.val (5 + n.val) 2 (reduceCheck x) x → dmeRows x = [(a, b)] → cuts b (x.par 32 4) = [(0, x.par 32 4)] → b < 2 ^ 64 → a < 2 ^ 64 → pieces (a % 2 ^ 64) (x.par 32 4) = [(a, x.par 32 4)] → s.chip.globalPlace die.val (s.chip.coreOwner die.val core.val) (a) = .here p → s.chip.placeGood p = true → inDieMemory die.val (b % 2 ^ 46) = false → 
    completes (.dmeReduce die core n) s (fun t => t.chip.descStatus die.val core.val (5 + n.val) x.ticket = some (none) ∧ t.chip.comp.tag = s.chip.comp.tag + 1 ∧ onlyMem s t)) ∧
  (∀ (die : Fin 8) (core : Fin 136) (n : Fin 3) (a b p : Nat) (x : Desc) (s : State), descReady s.chip die.val core.val (5 + n.val) 3 (mcastCheck x) x → dmeRows x = [(a, b)] → cuts b (x.par 32 4) = [(0, x.par 32 4)] → b < 2 ^ 64 → a < 2 ^ 64 → pieces (a % 2 ^ 64) (x.par 32 4) = [(a, x.par 32 4)] → s.chip.globalPlace die.val (s.chip.coreOwner die.val core.val) (a) = .here p → s.chip.placeGood p = true → 
    completes (.dmeMcast die core n) s (fun t => t.chip.descStatus die.val core.val (5 + n.val) x.ticket = some (none) ∧ t.chip.comp.tag = s.chip.comp.tag + 1 ∧ onlyMem s t)) ∧
  (∀ (die : Fin 8) (core : Fin 136) (n : Fin 3) (a b p q : Nat) (f : Xfer) (x : Desc) (s : State), descReady s.chip die.val core.val (5 + n.val) 4 (s.chip.streamCheck die.val core.val x) x → streamParts x = [f] → f.parts = [(a, b)] → f.got = [] → f.how = 0 → f.flight = none → f.gate ≤ ((getKey (fget (x.par 59 5) 20 5) s.chip.sync.objs).map (·.count)).getD 0 + 2 ^ (x.par 59 5 % 32) → s.chip.globalPlace die.val (s.chip.coreOwner die.val core.val) (a) = .here p → s.chip.globalPlace die.val (s.chip.coreOwner die.val core.val) (f.dst) = .here q → s.chip.placeGood p = true → s.chip.placeGood q = true → 
    completes (.dmeStream die core n) s (fun t => t.chip.descStatus die.val core.val (5 + n.val) x.ticket = some (some stOK) ∧ t.mem = memWrite s.mem q (memRead s.mem p b) ∧ t.pending = s.pending)) ∧
  (∀ (die : Fin 8) (core : Fin 136) (n : Fin 3) (a b q : Nat) (x : Desc) (s : State), descReady s.chip die.val core.val (5 + n.val) 5 (dmeCheck x 0) x → dmeRows x = [(a, b)] → cuts b (x.par 32 4) = [(0, x.par 32 4)] → b < 2 ^ 64 → bitOf (x.par 58 1) 0 = false → s.chip.globalPlace die.val (s.chip.coreOwner die.val core.val) (b) = .here q → s.chip.placeGood q = true → 
    completes (.dmeFill die core n) s (fun t => t.chip.descStatus die.val core.val (5 + n.val) x.ticket = some (some stOK) ∧ t.mem = memWrite s.mem q ((List.range (x.par 32 4)).map (fun j => (leBytes 8 (x.par 16 8)).getD (j % 8) 0)) ∧ t.pending = s.pending)) ∧
  (∀ (die : Fin 8) (core : Fin 136) (n : Fin 3) (p : Nat) (x : Desc) (s : State), descReady s.chip die.val core.val (5 + n.val) 6 (atomicCheck x) x → x.par 59 5 ≠ 1 → s.chip.globalPlace die.val (s.chip.coreOwner die.val core.val) (x.par 24 8) = .here p → s.chip.placeGood p = true → bitOf (x.par 58 1) 0 = false → 
    completes (.dmeAtomic die core n) s (fun t => t.chip.descStatus die.val core.val (5 + n.val) x.ticket = some (some stOK) ∧ t.pending = s.pending
      ∧ t.mem = memWrite (memPutNat s.mem p (x.par 32 4) (atomNew (x.par 59 5) (x.par 32 4) (memNat s.mem p (x.par 32 4)) (s.scrNat die.val core.val (x.par 16 8) (x.par 32 4)) (s.scrNat die.val core.val (x.par 16 8) (x.par 32 4)) 0))
        (scratchBase die.val core.val + x.par 40 4) (leBytes (x.par 32 4) (memNat s.mem p (x.par 32 4))))) ∧
  (∀ (die : Fin 8) (core : Fin 136) (x : Desc) (s : State), descReady s.chip die.val core.val 2 1 (gseCheck false x) x →
    completes (.gather die core) s (fun t => t = (s.begunDesc die.val core.val 2 x.ticket).beginWork die.val core.val 2 x.ticket (s.gatherWork die.val core.val x) (gseFinal x (s.gseIndices die.val core.val x)))) ∧
  (∀ (die : Fin 8) (core : Fin 136) (x : Desc) (s : State), descReady s.chip die.val core.val 2 2 (gseCheck false x) x →
    completes (.scatter die core) s (fun t => t = (s.begunDesc die.val core.val 2 x.ticket).beginWork die.val core.val 2 x.ticket (s.scatterWork die.val core.val x (s.scatterPart die.val core.val x)) (gseFinal x (s.gseIndices die.val core.val x)))) ∧
  (∀ (die : Fin 8) (core : Fin 136) (x : Desc) (s : State), descReady s.chip die.val core.val 2 3 (gseCheck true x) x →
    completes (.scatterAdd die core) s (fun t => t = (s.begunDesc die.val core.val 2 x.ticket).beginWork die.val core.val 2 x.ticket (s.scatterWork die.val core.val x (s.scatterAddPart die.val core.val x)) (gseFinal x (s.gseIndices die.val core.val x)))) ∧
  (∀ (die : Fin 8) (core : Fin 136) (n : Fin 3) (x : Desc) (s : State), descReady s.chip die.val core.val (5 + n.val) 1 (dmeCheck x 0) x →
    completes (.dmeCopy die core n) s (fun t => t = (s.begunDesc die.val core.val (5 + n.val) x.ticket).beginWork die.val core.val (5 + n.val) x.ticket ((dmeRows x).flatMap (s.chip.copyParts die.val (x.par 32 4) (bitOf (x.par 58 1) 2))) 0)) ∧
  (∀ (die : Fin 8) (core : Fin 136) (n : Fin 3) (x : Desc) (s : State), descReady s.chip die.val core.val (5 + n.val) 2 (reduceCheck x) x →
    completes (.dmeReduce die core n) s (fun t => t = (s.begunDesc die.val core.val (5 + n.val) x.ticket).beginWork die.val core.val (5 + n.val) x.ticket ((dmeRows x).flatMap (rowParts 1 (x.par 32 4))) 0)) ∧
  (∀ (die : Fin 8) (core : Fin 136) (n : Fin 3) (x : Desc) (s : State), descReady s.chip die.val core.val (5 + n.val) 3 (mcastCheck x) x →
    completes (.dmeMcast die core n) s (fun t => t = (s.begunDesc die.val core.val (5 + n.val) x.ticket).beginWork die.val core.val (5 + n.val) x.ticket ((dmeRows x).flatMap (rowParts 2 (x.par 32 4))) 0)) ∧
  (∀ (die : Fin 8) (core : Fin 136) (n : Fin 3) (x : Desc) (s : State), descReady s.chip die.val core.val (5 + n.val) 4 (s.chip.streamCheck die.val core.val x) x →
    completes (.dmeStream die core n) s (fun t => t = (s.begunDesc die.val core.val (5 + n.val) x.ticket).beginWork die.val core.val (5 + n.val) x.ticket (streamParts x) 0)) ∧
  (∀ (die : Fin 8) (core : Fin 136) (n : Fin 3) (x : Desc) (s : State), descReady s.chip die.val core.val (5 + n.val) 5 (dmeCheck x 0) x →
    completes (.dmeFill die core n) s (fun t => t = (s.begunDesc die.val core.val (5 + n.val) x.ticket).beginWork die.val core.val (5 + n.val) x.ticket ((dmeRows x).flatMap (fillParts x)) 0)) ∧
  (∀ (die : Fin 8) (core : Fin 136) (n : Fin 3) (x : Desc) (s : State), descReady s.chip die.val core.val (5 + n.val) 6 (atomicCheck x) x →
    completes (.dmeAtomic die core n) s (fun t => t = (s.begunDesc die.val core.val (5 + n.val) x.ticket).beginWork die.val core.val (5 + n.val) x.ticket ([{ n := 0, dst := x.par 24 8, parts := [], got := s.scr die.val core.val (x.par 16 8) (if x.par 59 5 = 1 then 2 * x.par 32 4 else x.par 32 4), how := 6 }]) 0))

/-- Matrix engine, sparse-format engine, routing engine (R341 to R375). -/
def Obligations.MatrixAndSparseDescriptorsComplete : Prop :=
  (∀ (die : Fin 8) (core : Fin 136) (x : Desc) (s : State), descReady s.chip die.val core.val 0 1 (s.mmaCheck die.val core.val x) x → s.chip.mxeReady die.val core.val = true → fget (x.par 31 1) 5 4 ≠ 2 → bitOf (x.par 31 1) 0 = false → bitOf (x.par 28 1) 3 = true → 
    completes (.mma die core) s (fun t => t.mem = s.mem ∧ t.pending = s.pending ∧ (t.chip.descStatus die.val core.val 0 x.ticket).map Option.isSome = some true
      ∧ t.chip.tile die.val core.val x.tile = (mmaTile (s.plainA die.val core.val x) (s.loadB die.val core.val x) (fget (x.par 29 1) 3 0) (x.par 30 1 % 64 + 1) s.chip.drawn (List.replicate 8192 0)).1)) ∧
  (∀ (die : Fin 8) (core : Fin 136) (x : Desc) (s : State), descReady s.chip die.val core.val 0 1 (s.mmaCheck die.val core.val x) x → s.chip.mxeReady die.val core.val = true → fget (x.par 31 1) 5 4 = 2 → s.panel die.val core.val (x.par 16 4) (x.par 32 4) (fget (x.par 29 1) 3 0) (x.par 24 2 / 32 * (x.par 26 2 / 32)) 0 = none → 
    completes (.mma die core) s (fun t => descEnded s t die.val core.val 0 x 0x48 ∧ t.mem = s.mem ∧ t.chip.mxe = s.chip.mxe)) ∧
  (∀ (die : Fin 8) (core : Fin 136) (x : Desc) (s : State), descReady s.chip die.val core.val 0 2 (accLoadCheck x) x → s.chip.mxeReady die.val core.val = true → 
    completes (.accLoad die core) s (fun t => descEnded s t die.val core.val 0 x stOK ∧ t.mem = s.mem ∧ t.chip.tileInt die.val core.val x.tile = bitOf (x.par 27 1) 3
      ∧ t.chip.tile die.val core.val x.tile = (List.range 8192).map (fun e => if e / 64 < x.par 24 2 ∧ e % 64 < x.par 26 1 % 64 + 1 then s.scrNat die.val core.val (x.par 16 4 + e / 64 * x.par 20 4 + 4 * (e % 64)) 4 else 0))) ∧
  (∀ (die : Fin 8) (core : Fin 136) (a : Nat) (x : Desc) (s : State), descReady s.chip die.val core.val 0 3 (accStoreCheck x) x → s.chip.mxeReady die.val core.val = true → outsideScratch die.val core.val a → 
    completes (.accStore die core) s (fun t => (t.chip.descStatus die.val core.val 0 x.ticket).map Option.isSome = some true ∧ memGet t.mem a = memGet s.mem a ∧ t.pending = s.pending)) ∧
  (∀ (die : Fin 8) (core : Fin 136) (x : Desc) (s : State), descReady s.chip die.val core.val 0 3 (accStoreCheck x) x → s.chip.mxeReady die.val core.val = true → x.par 24 2 = 1 → x.par 26 1 = 0 → x.par 28 1 = 0 → x.par 32 4 = 0x3F800000 → s.chip.tileInt die.val core.val x.tile = false → 
    completes (.accStore die core) s (fun t => t.mem = memWrite s.mem (scratchBase die.val core.val + x.par 16 4) (leBytes 4 ((s.chip.tile die.val core.val x.tile).getD 0 0 % 2 ^ 32)) ∧ t.chip.descStatus die.val core.val 0 x.ticket = some (some stOK) ∧ t.pending = s.pending)) ∧
  (∀ (die : Fin 8) (core : Fin 136) (a : Nat) (x : Desc) (s : State), descReady s.chip die.val core.val 3 1 (speCheck 1 x) x → outsideScratch die.val core.val a → 
    completes (.encode die core) s (fun t => (t.chip.descStatus die.val core.val 3 x.ticket).map Option.isSome = some true ∧ memGet t.mem a = memGet s.mem a ∧ t.pending = s.pending)) ∧
  (∀ (die : Fin 8) (core : Fin 136) (x : Desc) (s : State), descReady s.chip die.val core.val 3 2 (speCheck 2 x) x → s.panel die.val core.val (x.par 16 4) (x.par 52 4) x.speFmt (x.speRows * x.speCols) 0 = none → 
    completes (.decode die core) s (fun t => descEnded s t die.val core.val 3 x 0x48 ∧ t.mem = s.mem)) ∧
  (∀ (die : Fin 8) (core : Fin 136) (a : Nat) (l : List TileRec) (x : Desc) (s : State), descReady s.chip die.val core.val 3 2 (speCheck 2 x) x → outsideScratch die.val core.val a → s.panel die.val core.val (x.par 16 4) (x.par 52 4) x.speFmt (x.speRows * x.speCols) 0 = some l → 
    completes (.decode die core) s (fun t => descEnded s t die.val core.val 3 x stOK ∧ memGet t.mem a = memGet s.mem a)) ∧
  (∀ (die : Fin 8) (core : Fin 136) (a : Nat) (x : Desc) (s : State), descReady s.chip die.val core.val 3 3 (speCheck 3 x) x → outsideScratch die.val core.val a → 
    completes (.prune24 die core) s (fun t => descEnded s t die.val core.val 3 x stOK ∧ memGet t.mem a = memGet s.mem a)) ∧
  (∀ (die : Fin 8) (core : Fin 136) (a : Nat) (x : Desc) (s : State), descReady s.chip die.val core.val 3 4 (speCheck 4 x) x → outsideScratch die.val core.val a → 
    completes (.expand24 die core) s (fun t => (t.chip.descStatus die.val core.val 3 x.ticket = some (some stOK) ∨ (t.chip.descStatus die.val core.val 3 x.ticket = some (some 0x48) ∧ t.mem = s.mem)) ∧ memGet t.mem a = memGet s.mem a ∧ t.pending = s.pending)) ∧
  (∀ (die : Fin 8) (core : Fin 136) (a : Nat) (x : Desc) (s : State), descReady s.chip die.val core.val 4 1 (routeCheck x) x → outsideScratch die.val core.val a → 
    completes (.route die core) s (fun t => descEnded s t die.val core.val 4 x stOK ∧ memGet t.mem a = memGet s.mem a))

/-- Command queues, their packets and the commands about them (R415 to R430). -/
def Obligations.QueueCommandsComplete : Prop :=
  (∀ (d : Fin 2) (k : Fin 96) (tn : Fin 16) (q : Fin 64) (v : BitVec 32) (s : State), writeAccepted s.chip (.hart d k) (R.PCU_CQ_TAIL tn.val q.val) → s.chip.on (R.PCU_CQ_CFG_EN tn.val q.val) = true → s.chip.on (R.CPU_CORE_STATE_TENANT_EN d.val k.val) = true → s.chip.rd (R.CPU_CORE_STATE_TENANT d.val k.val) = tn.val → v.toNat < 65536 → (v.toNat + 65536 - s.chip.rd (R.PCU_CQ_HEAD_INDEX tn.val q.val)) % 65536 ≤ 2 ^ s.chip.rd (R.PCU_CQ_CFG_SIZE_LOG2 tn.val q.val) → 
    completes (.queueTailWrite (.hart d k) (.queue tn q) v) s (fun t => t.chip.rd (R.PCU_CQ_TAIL_INDEX tn.val q.val) = v.toNat ∧ regsSameBut s.chip t.chip [R.PCU_CQ_TAIL tn.val q.val] ∧ onlyChip s t)) ∧
  (∀ (d : Fin 2) (k : Fin 96) (tn : Fin 16) (q : Fin 64) (v : BitVec 32) (s : State), writeAccepted s.chip (.hart d k) (R.PCU_CQ_TAIL tn.val q.val) → s.chip.rd R.PCU_CQ_REJECT_COUNT < 65535 → v.toNat < 65536 → 2 ^ s.chip.rd (R.PCU_CQ_CFG_SIZE_LOG2 tn.val q.val) < (v.toNat + 65536 - s.chip.rd (R.PCU_CQ_HEAD_INDEX tn.val q.val)) % 65536 → 
    completes (.queueTailWrite (.hart d k) (.queue tn q) v) s (fun t => t.chip.rd R.PCU_CQ_REJECT_COUNT = s.chip.rd R.PCU_CQ_REJECT_COUNT + 1 ∧ regsSameBut s.chip t.chip [R.PCU_CQ_REJECT_COUNT.off] ∧ onlyChip s t)) ∧
  (∀ (req : Requester) (tn : Fin 16) (q : Fin 64) (v : BitVec 32) (s : State), completes (.queueTailWrite req (.queue tn q) v) s (fun t => t.chip = s.chip.writeReg req (R.PCU_CQ_TAIL tn.val q.val) v.toNat (s.chip.tailHook req (.queue tn q) v.toNat) ∧ onlyChip s t)
      ∧ completes (.queueTailWrite req .admin v) s (fun t => t.chip = s.chip.writeReg req R.PCU_ADMQ_TAIL v.toNat (s.chip.tailHook req .admin v.toNat) ∧ onlyChip s t)) ∧
  (∀ (src : CmdSrc) (s : State), s.chip.qOn src = true → s.chip.rd (headRef src) ≠ s.chip.qTail src → (s.chip.cmdsOf src).length < s.chip.qSize src → s.chip.isMgmt src = false ∨ s.chip.tokenHeld = true →
    s.chip.viewStatus (srcTenant src) (s.chip.qBase src + 64 * (s.chip.rd (headRef src) % s.chip.qSize src)) 64 = stOK → s.chip.viewObstacle (srcTenant src) (s.chip.qBase src + 64 * (s.chip.rd (headRef src) % s.chip.qSize src)) 64 false = none →
    completes (.packetFetch src) s (fun t => t.chip.cmd.cmds = s.chip.cmd.cmds ++ [({ src := src, idx := s.chip.rd (headRef src), pkt := s.viewBytes (srcTenant src) (s.chip.qBase src + 64 * (s.chip.rd (headRef src) % s.chip.qSize src)) 64 } : Cmd)]
      ∧ t.chip.rd (headRef src) = (s.chip.rd (headRef src) + 1) % 65536 ∧ onlyChip s t)) ∧
  (∀ (tn : Fin 16) (q : Fin 64) (s : State), s.chip.on (R.PCU_CQ_CFG_EN tn.val q.val) = true → s.chip.on (R.PCU_CQ_CFG_STOPPED tn.val q.val) = false → s.chip.on (R.PCU_CQ_CFG_KIND tn.val q.val) = false → s.chip.rd (R.PCU_CQ_HEAD_INDEX tn.val q.val) ≠ s.chip.rd (R.PCU_CQ_TAIL_INDEX tn.val q.val) → s.chip.cmd.cmds = [] → s.chip.viewStatus tn.val (s.chip.qBase (.queue tn q) + 64 * (s.chip.rd (R.PCU_CQ_HEAD_INDEX tn.val q.val) % 2 ^ s.chip.rd (R.PCU_CQ_CFG_SIZE_LOG2 tn.val q.val))) 64 = stOK → s.chip.viewObstacle tn.val (s.chip.qBase (.queue tn q) + 64 * (s.chip.rd (R.PCU_CQ_HEAD_INDEX tn.val q.val) % 2 ^ s.chip.rd (R.PCU_CQ_CFG_SIZE_LOG2 tn.val q.val))) 64 false = none → 
    completes (.packetFetch (.queue tn q)) s (fun t => t.chip.cmd.cmds = [({ src := .queue tn q, idx := s.chip.rd (R.PCU_CQ_HEAD_INDEX tn.val q.val), pkt := s.viewBytes tn.val (s.chip.qBase (.queue tn q) + 64 * (s.chip.rd (R.PCU_CQ_HEAD_INDEX tn.val q.val) % 2 ^ s.chip.rd (R.PCU_CQ_CFG_SIZE_LOG2 tn.val q.val))) 64 } : Cmd)]
      ∧ t.chip.rd (R.PCU_CQ_HEAD_INDEX tn.val q.val) = (s.chip.rd (R.PCU_CQ_HEAD_INDEX tn.val q.val) + 1) % 65536 ∧ regsSameBut s.chip t.chip [R.PCU_CQ_HEAD tn.val q.val] ∧ onlyChip s t)) ∧
  (∀ (tn : Fin 16) (q : Fin 64) (s : State), s.chip.on (R.PCU_CQ_CFG_EN tn.val q.val) = true → s.chip.on (R.PCU_CQ_CFG_STOPPED tn.val q.val) = false → s.chip.on (R.PCU_CQ_CFG_KIND tn.val q.val) = false → s.chip.rd (R.PCU_CQ_HEAD_INDEX tn.val q.val) ≠ s.chip.rd (R.PCU_CQ_TAIL_INDEX tn.val q.val) → s.chip.cmd.cmds = [] → s.chip.viewStatus tn.val (s.chip.qBase (.queue tn q) + 64 * (s.chip.rd (R.PCU_CQ_HEAD_INDEX tn.val q.val) % 2 ^ s.chip.rd (R.PCU_CQ_CFG_SIZE_LOG2 tn.val q.val))) 64 = stWINDOW → s.chip.viewStatus tn.val (s.chip.statAddr (.queue tn q) (s.chip.rd (R.PCU_CQ_HEAD_INDEX tn.val q.val))) 16 = stOK → s.chip.viewObstacle tn.val (s.chip.statAddr (.queue tn q) (s.chip.rd (R.PCU_CQ_HEAD_INDEX tn.val q.val))) 16 true = none → 
    completes (.packetFetch (.queue tn q)) s (fun t => t.chip.on (R.PCU_CQ_CFG_STOPPED tn.val q.val) = true ∧ t.chip.cmd = s.chip.cmd
      ∧ t.mem = (s.viewWrite tn.val (s.chip.statAddr (.queue tn q) (s.chip.rd (R.PCU_CQ_HEAD_INDEX tn.val q.val)))
        (s.chip.statusRecord (.queue tn q) (s.chip.rd (R.PCU_CQ_HEAD_INDEX tn.val q.val)) 0 csFETCH stWINDOW 0)).mem
      ∧ regsSameBut s.chip t.chip [R.PCU_CQ_CFG tn.val q.val] ∧ t.pending = s.pending)) ∧
  (∀ (tn : Fin 16) (q : Fin 64) (idx : BitVec 16) (x : Cmd) (s : State) (a b d : Nat), s.chip.cmd.cmds.find? (fun y => y.src == .queue tn q && y.idx == idx.toNat) = some x → x.result = some (a, b, d) → x.syncEn = false → s.chip.viewStatus tn.val (s.chip.statAddr (.queue tn q) idx.toNat) 16 = stOK → s.chip.viewObstacle tn.val (s.chip.statAddr (.queue tn q) idx.toNat) 16 true = none → 
    completes (.commandComplete (.queue tn q) idx) s (fun t => t.chip.cmd.cmds = dropFirst (fun z => z.src == .queue tn q && z.idx == idx.toNat) s.chip.cmd.cmds ∧ t.chip.rd (R.PCU_CQ_CFG_DONE tn.val q.val) = (s.chip.rd (R.PCU_CQ_CFG_DONE tn.val q.val) + 1) % 65536
      ∧ t.mem = (s.viewWrite tn.val (s.chip.statAddr (.queue tn q) idx.toNat) (leBytes 2 x.seq ++ [a, (idx.toNat / 2 ^ s.chip.rd (R.PCU_CQ_CFG_SIZE_LOG2 tn.val q.val) + 1) % 2] ++ leBytes 4 b ++ leBytes 4 d ++ leBytes 4 (s.chip.now % 2 ^ 32))).mem
      ∧ regsSameBut s.chip t.chip [R.PCU_CQ_CFG tn.val q.val] ∧ t.pending = s.pending)) ∧
  (∀ (idx : BitVec 16) (x : Cmd) (s : State), s.chip.cmd.cmds.find? (fun y => y.src == .admin && y.idx == idx.toNat) = some x → x.opcode = 0 → s.chip.startable x = true → s.chip.precheck x ≠ stOK → 
    completes (.cmdNop .admin idx) s (fun t => cmdEnded s t x (s.chip.precheck x) 0 0 ∧ regsSameBut s.chip t.chip [] ∧ onlyChip s t)) ∧
  (∀ (src : CmdSrc) (idx : BitVec 16) (x : Cmd) (s : State), cmdReady s.chip src idx 0 x → s.chip.isMgmt src = true → 
    completes (.cmdNop src idx) s (fun t => cmdEnded s t x stOK 0 0 ∧ regsSameBut s.chip t.chip [] ∧ onlyChip s t)) ∧
  (∀ (src : CmdSrc) (idx : BitVec 16) (x : Cmd) (s : State), cmdReady s.chip src idx 0x40 x → 
    completes (.getVersion src idx) s (fun t => cmdEnded s t x stOK (s.chip.word R.PCU_IF_VERSION).toNat (s.chip.word R.PCU_FW_VERSION).toNat ∧ regsSameBut s.chip t.chip [] ∧ onlyChip s t)) ∧
  (∀ (src : CmdSrc) (idx : BitVec 16) (x : Cmd) (s : State), cmdReady s.chip src idx 0x41 x → x.par 8 1 < 64 → s.chip.on (R.PCU_CQ_CFG_EN x.partition (x.par 8 1)) = false → x.par 9 1 ≤ 1 → 4 ≤ x.par 10 1 → x.par 10 1 ≤ 12 → x.par 11 1 ≤ 7 → x.par 12 1 ≤ 3 → (x.par 9 1 = 1 ∨ s.chip.ownsClusterOf x.partition (x.par 11 1) = true) → s.chip.ringOk x.partition (x.par 16 8) (64 * 2 ^ x.par 10 1) = true → s.chip.ringOk x.partition (x.par 24 8) (16 * 2 ^ x.par 10 1) = true → 
    completes (.cqCreate src idx) s (fun t => cmdEnded s t x stOK (x.par 8 1) 0 ∧ t.chip.word (R.PCU_CQ_CFG x.partition (x.par 8 1)) = BitVec.ofNat 32 (2 ^ 31 + 2 ^ 29 * x.par 9 1 + 2 ^ 22 * x.par 11 1 + 2 ^ 20 * x.par 12 1 + 2 ^ 16 * x.par 10 1)
      ∧ t.chip.rdPair (R.PCU_CQ_BASE_LO_ADDR x.partition (x.par 8 1)) (R.PCU_CQ_BASE_HI_ADDR x.partition (x.par 8 1)) = x.par 16 8 ∧ t.chip.rdPair (R.PCU_CQ_STAT_LO_ADDR x.partition (x.par 8 1)) (R.PCU_CQ_STAT_HI_ADDR x.partition (x.par 8 1)) = x.par 24 8
      ∧ t.chip.rd (R.PCU_CQ_TAIL_INDEX x.partition (x.par 8 1)) = 0 ∧ t.chip.rd (R.PCU_CQ_HEAD_INDEX x.partition (x.par 8 1)) = 0
      ∧ regsSameBut s.chip t.chip [R.PCU_CQ_CFG x.partition (x.par 8 1), R.PCU_CQ_BASE_LO x.partition (x.par 8 1), R.PCU_CQ_BASE_HI x.partition (x.par 8 1), R.PCU_CQ_STAT_LO x.partition (x.par 8 1), R.PCU_CQ_STAT_HI x.partition (x.par 8 1), R.PCU_CQ_TAIL x.partition (x.par 8 1), R.PCU_CQ_HEAD x.partition (x.par 8 1)] ∧ onlyChip s t)) ∧
  (∀ (src : CmdSrc) (idx : BitVec 16) (x : Cmd) (s : State), cmdReady s.chip src idx 0x42 x → x.par 8 1 < 64 → s.chip.on (R.PCU_CQ_CFG_EN x.partition (x.par 8 1)) = true → 
    completes (.cqDestroy src idx) s (fun t => cmdEnded s t x stOK 0 0 ∧ t.chip.word (R.PCU_CQ_CFG x.partition (x.par 8 1)) = 0 ∧ t.chip.word (R.PCU_CQ_TAIL x.partition (x.par 8 1)) = 0 ∧ t.chip.word (R.PCU_CQ_HEAD x.partition (x.par 8 1)) = 0
      ∧ regsSameBut s.chip t.chip [R.PCU_CQ_CFG x.partition (x.par 8 1), R.PCU_CQ_BASE_LO x.partition (x.par 8 1), R.PCU_CQ_BASE_HI x.partition (x.par 8 1), R.PCU_CQ_STAT_LO x.partition (x.par 8 1), R.PCU_CQ_STAT_HI x.partition (x.par 8 1), R.PCU_CQ_TAIL x.partition (x.par 8 1), R.PCU_CQ_HEAD x.partition (x.par 8 1)] ∧ onlyChip s t)) ∧
  (∀ (src : CmdSrc) (idx : BitVec 16) (x : Cmd) (s : State), cmdReady s.chip src idx 0x70 x → x.par 8 2 < 4096 → x.par 8 2 ≠ s.chip.node → s.chip.viewStatus x.partition (x.par 16 8) 64 = stOK → s.chip.viewObstacle x.partition (x.par 16 8) 64 false = none → 
    completes (.fmSend src idx) s (fun t => cmdNow s t x { x with started := true, committed := true, aux := padTo 64 (s.viewBytes x.partition (x.par 16 8) 64) }
      ∧ t.chip.xport.waiting = s.chip.xport.waiting ++ [(31, s.chip.ctrlStitch (x.par 8 2) 7 (padTo 64 (s.viewBytes x.partition (x.par 16 8) 64)))] ∧ regsSameBut s.chip t.chip [] ∧ onlyChip s t)) ∧
  (∀ (st : Stitch) (s : State), s.chip.on R.ROUTE_FM_EN = true → st.srcNode = s.chip.rd R.ROUTE_FM_NODE → st.srcSite = 31 → isMgmtOp (leField st.data 0 1) = true → 
    completes (.fmCmdArrival st) s (fun t => t.chip.cmd.cmds = s.chip.cmd.cmds ++ [({ src := .fm (Fin.ofNat 4096 st.srcNode), idx := s.chip.cmd.fmNext, pkt := padTo 64 st.data } : Cmd)] ∧ regsSameBut s.chip t.chip [] ∧ onlyChip s t)) ∧
  (∀ (st : Stitch) (s : State), s.chip.on R.ROUTE_FM_EN = false → s.chip.rd R.PCU_EMU_STATUS_FM_DROP < R.PCU_EMU_STATUS_FM_DROP.top → 
    completes (.fmCmdArrival st) s (fun t => t.chip.cmd = s.chip.cmd ∧ t.chip.rd R.PCU_EMU_STATUS_FM_DROP = s.chip.rd R.PCU_EMU_STATUS_FM_DROP + 1 ∧ onlyChip s t)) ∧
  (∀ (st : Stitch) (s : State), completes (.fmCmdArrival st) s (fun t => t.chip = s.chip.fmCmd st ∧ onlyChip s t)) ∧
  (∀ (st : Stitch) (s : State), s.chip.on R.PCU_FMQ_CFG_EN = true → s.chip.viewStatus 0 (s.chip.rdPair R.PCU_FMQ_BASE_LO_VALUE R.PCU_FMQ_BASE_HI_VALUE / 64 * 64 + 128 * (s.chip.rd R.PCU_FMQ_PRODUCED_VALUE % 2 ^ max 4 (min 12 (s.chip.rd R.PCU_FMQ_CFG_SIZE_LOG2)))) 128 = stOK → s.chip.viewObstacle 0 (s.chip.rdPair R.PCU_FMQ_BASE_LO_VALUE R.PCU_FMQ_BASE_HI_VALUE / 64 * 64 + 128 * (s.chip.rd R.PCU_FMQ_PRODUCED_VALUE % 2 ^ max 4 (min 12 (s.chip.rd R.PCU_FMQ_CFG_SIZE_LOG2)))) 128 true = none → subMod 16 (s.chip.rd R.PCU_FMQ_PRODUCED_VALUE) (s.chip.rd R.PCU_FMQ_CONSUMED_VALUE) < 2 ^ max 4 (min 12 (s.chip.rd R.PCU_FMQ_CFG_SIZE_LOG2)) → 
    completes (.noticeArrival st) s (fun t => t.mem = (s.viewWrite 0 (s.chip.rdPair R.PCU_FMQ_BASE_LO_VALUE R.PCU_FMQ_BASE_HI_VALUE / 64 * 64 + 128 * (s.chip.rd R.PCU_FMQ_PRODUCED_VALUE % 2 ^ max 4 (min 12 (s.chip.rd R.PCU_FMQ_CFG_SIZE_LOG2)))) (padTo 128 (padTo 64 st.data ++ leBytes 2 st.srcNode ++ [fget st.opspec 17 10, 0] ++ leBytes 8 s.chip.now))).mem
      ∧ t.chip.rd R.PCU_FMQ_PRODUCED_VALUE = (s.chip.rd R.PCU_FMQ_PRODUCED_VALUE + 1) % 65536 ∧ regsSameBut s.chip t.chip [R.PCU_FMQ_PRODUCED] ∧ t.pending = s.pending)) ∧
  (∀ (st : Stitch) (s : State), s.chip.on R.PCU_FMQ_CFG_EN = true → s.chip.viewObstacle 0 (s.chip.rdPair R.PCU_FMQ_BASE_LO_VALUE R.PCU_FMQ_BASE_HI_VALUE / 64 * 64 + 128 * (s.chip.rd R.PCU_FMQ_PRODUCED_VALUE % 2 ^ max 4 (min 12 (s.chip.rd R.PCU_FMQ_CFG_SIZE_LOG2)))) 128 true = none → 2 ^ max 4 (min 12 (s.chip.rd R.PCU_FMQ_CFG_SIZE_LOG2)) ≤ subMod 16 (s.chip.rd R.PCU_FMQ_PRODUCED_VALUE) (s.chip.rd R.PCU_FMQ_CONSUMED_VALUE) → s.chip.rd R.PCU_FMQ_CFG_DROPPED < 65535 → 
    completes (.noticeArrival st) s (fun t => t.chip.rd R.PCU_FMQ_CFG_DROPPED = s.chip.rd R.PCU_FMQ_CFG_DROPPED + 1 ∧ regsSameBut s.chip t.chip [R.PCU_FMQ_CFG] ∧ onlyChip s t)) ∧
  (∀ (src : CmdSrc) (idx : BitVec 16) (x : Cmd) (s : State), cmdReady s.chip src idx 0x41 x → x.par 9 1 = 0 → s.chip.ownsClusterOf x.partition (x.par 11 1) = false → 
    completes (.cqCreate src idx) s (fun t => cmdEnded s t x csINVALID 0 0 ∧ regsSameBut s.chip t.chip [] ∧ onlyChip s t))

/-- Compute commands and allocation commands (R290, R279, R426). -/
def Obligations.ComputeAndAllocationCommandsComplete : Prop :=
  (∀ (tn : Fin 16) (q : Fin 64) (idx : BitVec 16) (x : Cmd) (k : Nat) (ks : List Nat) (s : State), cmdReady s.chip (.queue tn q) idx 1 x → s.chip.launchCores (s.chip.rd (R.PCU_CQ_CFG_DIE tn.val q.val)) x.partition (x.par 8 16) = some (k :: ks) → launchGood x = true → x.par 48 8 = 0 → s.chip.comp.launches = [] →  
    completes (.launch (.queue tn q) idx) s (fun t => cmdNow s t x { x with started := true } ∧ t.pending = s.pending
      ∧ t.chip.comp.launches.map (fun l => (l.src, l.idx :: l.die :: l.tenant :: l.cores)) = [(.queue tn q, idx.toNat :: s.chip.rd (R.PCU_CQ_CFG_DIE tn.val q.val) :: x.partition :: k :: ks)]
      ∧ t.chip.comp.launches.map (fun l => [l.bdim, l.blocks, l.bytes, l.pc, l.arg, l.windows.length]) = [[x.par 24 2, x.par 28 4, x.par 32 4, x.par 36 4, x.par 40 4, 0]])) ∧
  (∀ (tn : Fin 16) (q : Fin 64) (idx : BitVec 16) (x : Cmd) (k : Nat) (ks : List Nat) (s : State), cmdReady s.chip (.queue tn q) idx 1 x → s.chip.launchCores (s.chip.rd (R.PCU_CQ_CFG_DIE tn.val q.val)) x.partition (x.par 8 16) = some (k :: ks) → launchGood x = true → x.par 48 8 = 0 →
    completes (.launch (.queue tn q) idx) s (fun t => t = (s.begun x).startLaunch x.begun (k :: ks) [])) ∧
  (∀ (tn : Fin 16) (q : Fin 64) (idx : BitVec 16) (x : Cmd) (k : Nat) (ks : List Nat) (s : State), cmdReady s.chip (.queue tn q) idx 1 x → s.chip.launchCores (s.chip.rd (R.PCU_CQ_CFG_DIE tn.val q.val)) x.partition (x.par 8 16) = some (k :: ks) → launchGood x = true → x.par 48 8 ≠ 0 →
    s.chip.viewStatus x.partition (x.par 48 8) 128 = stOK → s.chip.viewObstacle x.partition (x.par 48 8) 128 false = none →
    completes (.launch (.queue tn q) idx) s (fun t => t = (s.begun x).startLaunch x.begun (k :: ks) (farWindows (s.viewBytes x.partition (x.par 48 8) 128)))) ∧
  (∀ (tn : Fin 16) (q : Fin 64) (idx : BitVec 16) (x : Cmd) (s : State), cmdReady s.chip (.queue tn q) idx 1 x → s.chip.launchCores (s.chip.rd (R.PCU_CQ_CFG_DIE tn.val q.val)) x.partition (x.par 8 16) = none → 
    completes (.launch (.queue tn q) idx) s (fun t => cmdEnded s t x csINVALID 0 0 ∧ t.chip.comp = s.chip.comp ∧ onlyChip s t)) ∧
  (∀ (tn : Fin 16) (q : Fin 64) (idx : BitVec 16) (x : Cmd) (k : Nat) (s : State), cmdReady s.chip (.queue tn q) idx 2 x → s.chip.dmaCore x = some k → (s.chip.descs (s.chip.rd (R.PCU_CQ_CFG_DIE tn.val q.val)) k 7).length < 64 → x.par 11 5 = 0 → s.chip.rd (R.CMP_CORE_STATE_STATE (s.chip.rd (R.PCU_CQ_CFG_DIE tn.val q.val)) k) ≠ 5 → 
    completes (.dma (.queue tn q) idx) s (fun t => t.chip.descs (s.chip.rd (R.PCU_CQ_CFG_DIE tn.val q.val)) k 7 = s.chip.descs (s.chip.rd (R.PCU_CQ_CFG_DIE tn.val q.val)) k 7 ++ [({ ticket := s.chip.rd (R.CMP_CORE_EQ_NEXT (s.chip.rd (R.PCU_CQ_CFG_DIE tn.val q.val)) k 7), bytes := padTo 64 ([x.par 10 1, 5] ++ List.replicate 14 0 ++ (x.pkt.drop 16).take 48), cmd := some (.queue tn q, idx.toNat) } : Desc)]
      ∧ t.chip.rd (R.CMP_CORE_EQ_NEXT (s.chip.rd (R.PCU_CQ_CFG_DIE tn.val q.val)) k 7) = (s.chip.rd (R.CMP_CORE_EQ_NEXT (s.chip.rd (R.PCU_CQ_CFG_DIE tn.val q.val)) k 7) + 1) % 65536 ∧ cmdNow s t x { x with started := true } ∧ onlyChip s t)) ∧
  (∀ (tn : Fin 16) (q : Fin 64) (idx : BitVec 16) (x : Cmd) (o : SyncObj) (s : State), cmdReady s.chip (.queue tn q) idx 3 x → s.chip.obj (x.par 8 2) = some o → o.tenant = x.partition → x.par 10 1 ≤ 4 → o.holds (x.par 10 1) (x.par 16 6) = some true → 
    completes (.wait (.queue tn q) idx) s (fun t => t.chip.sync.answered = s.chip.sync.answered ++ [((tn.val, q.val), (srDONE, o.count))] ∧ t.chip.sync.objs = s.chip.sync.objs ∧ cmdNow s t x { x with started := true } ∧ onlyChip s t)) ∧
  (∀ (tn : Fin 16) (q : Fin 64) (idx : BitVec 16) (x : Cmd) (o : SyncObj) (s : State), cmdReady s.chip (.queue tn q) idx 3 x → s.chip.obj (x.par 8 2) = some o → o.tenant = x.partition → x.par 10 1 ≤ 4 → o.holds (x.par 10 1) (x.par 16 6) = some false → s.chip.sync.waits.length < 32768 → 
    completes (.wait (.queue tn q) idx) s (fun t => t.chip.sync.waits = s.chip.sync.waits ++ [⟨x.par 8 2, .queue tn.val q.val, x.par 10 1, x.par 16 6, s.chip.row, s.chip.waitLimit (x.par 24 4 % 2 ^ 20), none⟩] ∧ t.chip.sync.objs = s.chip.sync.objs ∧ cmdNow s t x { x with started := true } ∧ onlyChip s t)) ∧
  (∀ (tn : Fin 16) (q : Fin 64) (idx : BitVec 16) (x : Cmd) (o : SyncObj) (s : State), cmdReady s.chip (.queue tn q) idx 4 x → s.chip.sync.objs = [(x.par 8 2, o)] → s.chip.sync.waits = [] → o.tenant = x.partition → o.kind = 1 → x.par 10 1 = 1 → 
    completes (.signal (.queue tn q) idx) s (fun t => (t.chip.obj (x.par 8 2)).map (fun y => y.count) = some ((o.count + x.par 16 6) % 2 ^ 48)
      ∧ cmdEnded s t x stOK srDONE ((o.count + x.par 16 6) % 2 ^ 48 % 2 ^ 32) ∧ onlyChip s t)) ∧
  (∀ (tn : Fin 16) (q : Fin 64) (idx : BitVec 16) (x : Cmd) (o : SyncObj) (s : State), cmdReady s.chip (.queue tn q) idx 4 x → s.chip.obj (x.par 8 2) = some o → o.tenant = x.partition → x.par 10 1 ∈ [1, 2, 8] →
    completes (.signal (.queue tn q) idx) s (fun t => cmdEnded s t x stOK (signalObj o (x.par 10 1) (x.par 16 6)).1 ((signalObj o (x.par 10 1) (x.par 16 6)).2.count % 2 ^ 32) ∧ onlyChip s t)) ∧
  (∀ (src : CmdSrc) (idx : BitVec 16) (x : Cmd) (a : Nat) (s : State), cmdReady s.chip src idx 0x43 x → 1 ≤ x.par 8 1 → x.par 8 1 ≤ 4 → 1 ≤ x.par 10 2 → x.par 10 2 ≤ 4096 → (x.par 8 1 = 2 ∧ x.par 16 8 < 2 ^ 48) ∨ (x.par 8 1 = 3 ∧ x.par 16 8 < 2 ^ 32) ∨ x.par 16 8 = 0 → s.chip.freeRun (x.par 10 2) = some a → 
    completes (.syncAlloc src idx) s (fun t => cmdEnded s t x stOK a 0 ∧ t.chip.sync.objs = s.chip.sync.objs ++ (List.range (x.par 10 2)).map (fun i => (a + i, freshObj (x.par 8 1) x.partition (x.par 16 8))) ∧ regsSameBut s.chip t.chip [R.SYN_STATUS_WAITS.off, R.SYN_ALLOC_ASSIGNED.off] ∧ onlyChip s t)) ∧
  (∀ (src : CmdSrc) (idx : BitVec 16) (x : Cmd) (s : State), cmdReady s.chip src idx 0x44 x → x.par 8 2 + x.par 10 2 ≤ 65536 → (List.range (x.par 10 2)).all (fun i => s.chip.objFreeable x.partition (x.par 8 2 + i)) = true → 
    completes (.syncFree src idx) s (fun t => cmdEnded s t x stOK 0 0 ∧ t.chip.sync.objs = s.chip.sync.objs.filter (fun o => !(decide (x.par 8 2 ≤ o.1) && decide (o.1 < x.par 8 2 + x.par 10 2))) ∧ regsSameBut s.chip t.chip [R.SYN_STATUS_WAITS.off, R.SYN_ALLOC_ASSIGNED.off] ∧ onlyChip s t)) ∧
  (∀ (src : CmdSrc) (idx : BitVec 16) (x : Cmd) (i : Nat) (s : State), cmdReady s.chip src idx 0x48 x → x.par 8 2 = i → i < 1024 → s.chip.on (R.RED_CTX_A_EN i) = false → redAllowed (x.par 12 4 / 2 ^ 22 % 16) (x.par 12 4 / 2 ^ 18 % 16) = true → bitOf (x.par 12 4) 30 = false → s.chip.reserveFits (x.par 20 4 / 2 ^ 16) (x.par 20 4 % 2 ^ 16) = true → 
    completes (.redCtxAlloc src idx) s (fun t => cmdEnded s t x stOK i 0 ∧ t.chip.on (R.RED_CTX_A_EN i) = true ∧ t.chip.rd (R.RED_CTX_A_TENANT i) = x.partition ∧ t.chip.rd (R.RED_CTX_A_TYPE i) = x.par 12 4 / 2 ^ 22 % 16
      ∧ t.chip.rd (R.RED_CTX_A_OP i) = x.par 12 4 / 2 ^ 18 % 16 ∧ t.chip.on (R.RED_CTX_A_DET i) = false ∧ t.chip.word (R.RED_CTX_C i) = BitVec.ofNat 32 (x.par 20 4) ∧ t.chip.word (R.RED_CTX_D i) = 0
      ∧ regsSameBut s.chip t.chip [R.RED_CTX_A i, R.RED_CTX_B i, R.RED_CTX_C i, R.RED_CTX_D i] ∧ onlyChip s t)) ∧
  (∀ (src : CmdSrc) (idx : BitVec 16) (x : Cmd) (i : Nat) (s : State), cmdReady s.chip src idx 0x48 x → x.par 8 2 = i ∧ i < 1024 ∧ s.chip.on (R.RED_CTX_A_EN i) = false ∨ x.par 8 2 = 0xFFFF ∧ (List.range 1024).find? (fun i => !s.chip.on (R.RED_CTX_A_EN i)) = some i →
    redAllowed (x.par 12 4 / 2 ^ 22 % 16) (x.par 12 4 / 2 ^ 18 % 16) = true → bitOf (x.par 12 4) 30 = true → 1 ≤ x.par 16 4 % 1024 → x.par 20 4 / 2 ^ 16 = 0 → s.chip.reserveFits 0 (x.par 20 4 % 2 ^ 16 * (x.par 16 4 % 1024 + 1)) = true →
    completes (.redCtxAlloc src idx) s (fun t => cmdEnded s t x stOK i 0 ∧ t.chip.on (R.RED_CTX_A_EN i) = true ∧ t.chip.rd (R.RED_CTX_A_TENANT i) = x.partition ∧ t.chip.on (R.RED_CTX_A_DET i) = true
      ∧ t.chip.word (R.RED_CTX_C i) = BitVec.ofNat 32 (x.par 20 4) ∧ t.chip.word (R.RED_CTX_D i) = 0 ∧ onlyChip s t)) ∧
  (∀ (src : CmdSrc) (idx : BitVec 16) (x : Cmd) (s : State), cmdReady s.chip src idx 0x49 x → s.chip.ctxOwned (x.par 8 2) x.partition = true → s.chip.ctxPending (x.par 8 2) = 0 → 
    completes (.redCtxFlush src idx) s (fun t => cmdNow s t x { x with started := true, committed := true } ∧ regsSameBut s.chip t.chip [] ∧ onlyChip s t)) ∧
  (∀ (src : CmdSrc) (idx : BitVec 16) (x : Cmd) (s : State), cmdReady s.chip src idx 0x49 x → s.chip.ctxOwned (x.par 8 2) x.partition = true →
    completes (.redCtxFlush src idx) s (fun t => t = ((List.range 12).foldl (fun s u => s.flushUnit u 0 (fun p => p.ctx == x.par 8 2))
      ((s.begun x).onChip (fun c => c.setCmd x.begun { x.begun with committed := true }))).flushSlots 0 (fun d => d.ctx == x.par 8 2))) ∧
  (∀ (src : CmdSrc) (idx : BitVec 16) (x : Cmd) (i : Nat) (s : State), cmdReady s.chip src idx 0x4A x → s.chip.ctxOwned (x.par 8 2) x.partition = true → s.chip.ctxBusy (x.par 8 2) = false → x.par 8 2 = i → 
    completes (.redCtxFree src idx) s (fun t => cmdEnded s t x stOK 0 0 ∧ t.chip.word (R.RED_CTX_A i) = 0 ∧ t.chip.word (R.RED_CTX_B i) = 0 ∧ t.chip.word (R.RED_CTX_C i) = 0 ∧ t.chip.word (R.RED_CTX_D i) = 0 ∧ regsSameBut s.chip t.chip [R.RED_CTX_A i, R.RED_CTX_B i, R.RED_CTX_C i, R.RED_CTX_D i] ∧ onlyChip s t)) ∧
  (∀ (src : CmdSrc) (idx : BitVec 16) (x : Cmd) (g : Nat) (s : State), cmdReady s.chip src idx 0x4B x → s.chip.isHome = true → (List.range 4096).find? (fun n => !s.chip.on (mcAllocRef n)) = some g → 
    completes (.mcAlloc src idx) s (fun t => cmdEnded s t x stOK g 0 ∧ t.chip.on (mcAllocRef g) = true ∧ t.chip.rd (mcOwnerRef g) = x.partition ∧ regsSameBut s.chip t.chip [R.RED_MC_OWN (g / 4)] ∧ onlyChip s t)) ∧
  (∀ (src : CmdSrc) (idx : BitVec 16) (x : Cmd) (g : Nat) (s : State), cmdReady s.chip src idx 0x4C x → x.par 8 2 = g → g < 4096 → s.chip.isHome = true → s.chip.on (mcAllocRef g) = true → s.chip.rd (mcOwnerRef g) = x.partition → 
    completes (.mcFree src idx) s (fun t => cmdEnded s t x stOK 0 0 ∧ t.chip.on (mcAllocRef g) = false ∧ regsSameBut s.chip t.chip [R.RED_MC_OWN (g / 4)] ∧ onlyChip s t)) ∧
  (∀ (src : CmdSrc) (idx : BitVec 16) (x : Cmd) (g : Nat) (s : State), cmdReady s.chip src idx 0x4D x → x.par 8 2 = g → g < 4096 → s.chip.mcBad (x.par 12 4) (x.par 16 4) = false → s.chip.on (R.RED_MC_A_EN g) = false ∨ s.chip.rd (R.RED_MC_A_TENANT g) = x.partition → 
    completes (.mcSet src idx) s (fun t => cmdEnded s t x stOK 0 0 ∧ t.chip.on (R.RED_MC_A_EN g) = true ∧ t.chip.rd (R.RED_MC_A_TENANT g) = x.partition ∧ t.chip.rd (R.RED_MC_A_PARENT g) = x.par 12 4 / 2 ^ 24 % 32
      ∧ t.chip.rd (R.RED_MC_A_CHILDREN g) = x.par 12 4 % 2 ^ 16 ∧ regsSameBut s.chip t.chip [R.RED_MC_A g, R.RED_MC_B g] ∧ onlyChip s t)) ∧
  (∀ (src : CmdSrc) (idx : BitVec 16) (x : Cmd) (g : Nat) (s : State), cmdReady s.chip src idx 0x4E x → x.par 8 2 = g → g < 4096 → s.chip.on (R.RED_MC_A_EN g) = false ∨ s.chip.rd (R.RED_MC_A_TENANT g) = x.partition → 
    completes (.mcClear src idx) s (fun t => cmdEnded s t x stOK 0 0 ∧ t.chip.on (R.RED_MC_A_EN g) = false ∧ regsSameBut s.chip t.chip [R.RED_MC_A g] ∧ onlyChip s t))

/-- Processor dies and host I/O (R398 to R414), and images (R438 to R441). -/
def Obligations.HostIoAndImageCommandsComplete : Prop :=
  (∀ (die : Fin 2) (core : Fin 96) (q : Fin 64) (m : RqSlot) (s : State), s.chip.hartOwnsQueue die.val core.val q.val = true → s.chip.xport.slots = [m] → m.site = 8 + die.val → m.queue = q.val → m.complete = true → m.popped = false → 
    completes (.rqPop die core q) s (fun t => t.chip.acc.answer = some ⟨.hart die core, anDONE, s.chip.popValue m⟩ ∧ t.chip.xport.slots = [{ m with popped := true }] ∧ t.chip.rd (R.SITE_RQ_STATE_FILLED (8 + die.val) q.val) = 0 ∧ regsSameBut s.chip t.chip [(R.SITE_RQ_STATE_FILLED (8 + die.val) q.val).off, (R.SITE_MSG_TABLE_REFUSALS (8 + die.val)).off] ∧ onlyChip s t)) ∧
  (∀ (die : Fin 2) (core : Fin 96) (q : Fin 64) (m : RqSlot) (s : State), s.chip.hartOwnsQueue die.val core.val q.val = true → (s.chip.rqUsed (8 + die.val) q.val).find? (fun x => x.complete && !x.popped) = some m →
    completes (.rqPop die core q) s (fun t => t.chip.acc.answer = some ⟨.hart die core, anDONE, s.chip.popValue m⟩
      ∧ t.chip.xport.slots = updFirst (fun y => y == m) (fun y => { y with popped := true }) s.chip.xport.slots ∧ onlyChip s t)) ∧
  (∀ (die : Fin 2) (core : Fin 96) (q : Fin 64) (s : State), s.chip.hartOwnsQueue die.val core.val q.val = true → (s.chip.rqUsed (8 + die.val) q.val).find? (fun x => x.complete && !x.popped) = none → 
    completes (.rqPop die core q) s (fun t => t.chip.acc.answer = some ⟨.hart die core, anDONE, 0⟩ ∧ t.chip.xport = s.chip.xport ∧ regsSameBut s.chip t.chip [] ∧ onlyChip s t)) ∧
  (∀ (die : Fin 2) (core : Fin 96) (q : Fin 64) (s : State), s.chip.hartOwnsQueue die.val core.val q.val = false → 
    completes (.rqPop die core q) s (fun t => t.chip.acc.answer = some ⟨.hart die core, anFAULT, 0⟩ ∧ t.chip.xport = s.chip.xport ∧ regsSameBut s.chip t.chip [] ∧ onlyChip s t)) ∧
  (∀ (die : Fin 2) (core : Fin 96) (q : Fin 64) (m : RqSlot) (v : BitVec 64) (s : State), s.chip.hartOwnsQueue die.val core.val q.val = true → s.chip.xport.slots = [m] → m.site = 8 + die.val → m.queue = q.val → m.popped = true → s.chip.slotEntry m = v.toNat % 2 ^ 15 → 
    completes (.rqFree die core q v) s (fun t => t.chip.acc.answer = some ⟨.hart die core, anDONE, 0⟩ ∧ t.chip.xport.slots = [] ∧ regsSameBut s.chip t.chip [(R.SITE_RQ_STATE_FILLED (8 + die.val) q.val).off, (R.SITE_MSG_TABLE_REFUSALS (8 + die.val)).off] ∧ onlyChip s t)) ∧
  (∀ (die : Fin 2) (core : Fin 96) (q : Fin 64) (m : RqSlot) (v : BitVec 64) (s : State), s.chip.hartOwnsQueue die.val core.val q.val = true → (s.chip.rqUsed (8 + die.val) q.val).find? (fun x => x.popped && s.chip.slotEntry x == fget v.toNat 14 0) = some m →
    completes (.rqFree die core q v) s (fun t => t.chip.acc.answer = some ⟨.hart die core, anDONE, 0⟩ ∧ t.chip.xport.slots = dropFirst (fun y => y == m) s.chip.xport.slots ∧ onlyChip s t)) ∧
  (∀ (die : Fin 2) (core : Fin 96) (q : Fin 64) (v : BitVec 64) (s : State), s.chip.hartOwnsQueue die.val core.val q.val = true → (s.chip.rqUsed (8 + die.val) q.val).find? (fun x => x.popped && s.chip.slotEntry x == fget v.toNat 14 0) = none → s.chip.rd (R.CPU_DIE_STATUS_FREE_ERR die.val) < (R.CPU_DIE_STATUS_FREE_ERR die.val).top → 
    completes (.rqFree die core q v) s (fun t => t.chip.acc.answer = some ⟨.hart die core, anDONE, 0⟩ ∧ t.chip.rd (R.CPU_DIE_STATUS_FREE_ERR die.val) = s.chip.rd (R.CPU_DIE_STATUS_FREE_ERR die.val) + 1 ∧ regsSameBut s.chip t.chip [R.CPU_DIE_STATUS die.val] ∧ onlyChip s t)) ∧
  (∀ (die : Fin 2) (core : Fin 96) (s : State), s.chip.rd (R.CPU_CORE_STATE_STATE die.val core.val) ≠ 4 → 
    completes (.hartFault die (some core)) s (fun t => t.chip.rd (R.CPU_CORE_STATE_STATE die.val core.val) = 4 ∧ t.chip.reports.map (fun r => (r.unit, r.action)) = s.chip.reports.map (fun r => (r.unit, r.action)) ++ [(Unit.hart die.val core.val, actFenced)] ∧ onlyChip s t)) ∧
  (∀ (die : Fin 2) (core : Option (Fin 96)) (s : State), completes (.hartFault die core) s (fun t => onlyChip s t ∧ t.chip = (match core with
      | some k => s.chip.fenceHart die.val k.val
      | none => s.chip.fenceDie die.val))) ∧
  (∀ (die : Fin 2) (core : Fin 96) (s : State), s.chip.rd (R.CPU_DIE_STATUS_STATE die.val) ≠ 3 → 
    completes (.hartFault die none) s (fun t => t.chip.rd (R.CPU_DIE_STATUS_STATE die.val) = 3 ∧ t.chip.rd (R.CPU_CORE_STATE_STATE die.val core.val) = 4 ∧ onlyChip s t)) ∧
  (∀ (die : Fin 2) (core : Fin 96) (s : State), s.chip.rd (R.CPU_CORE_STATE_STATE die.val core.val) = 4 → 
    exec (.hartFault die (some core)) s = .next s) ∧
  (∀ (r : Fin 16) (speed : Fin 7) (width : Fin 17) (flit : Bool) (device : Fin 3) (s : State), s.chip.rd (R.HIO_PORT_STATUS_STATE r.val) = 1 → 1 ≤ speed.val → speed.val ≤ max 1 (min 6 (s.chip.rd (R.HIO_SLOT_CFG_MAX_SPEED (r.val / 4)))) → width.val = 1 ∨ width.val = 2 ∨ width.val = 4 ∨ width.val = 8 ∨ width.val = 16 → width.val * s.chip.slotWays (r.val / 4) ≤ 16 → flit = true ∨ speed.val < 6 → s.chip.on (R.HIO_SLOT_CFG_CXL_EN (r.val / 4)) = true → 
    completes (.pcieLinkUp r speed width flit device) s (fun t => t.chip.rd (R.HIO_PORT_STATUS_STATE r.val) = 2 ∧ t.chip.rd (R.HIO_PORT_STATUS_SPEED r.val) = speed.val ∧ t.chip.rd (R.HIO_PORT_STATUS_WIDTH r.val) = width.val
      ∧ t.chip.rd (R.HIO_PORT_STATUS_KIND r.val) = device.val ∧ t.chip.on (R.HIO_PORT_STATUS_FLIT r.val) = flit ∧ regsSameBut s.chip t.chip [R.HIO_PORT_STATUS r.val] ∧ onlyChip s t)) ∧
  (∀ (r : Fin 16) (speed : Fin 7) (width : Fin 17) (flit : Bool) (device : Fin 3) (s : State), s.chip.rd (R.HIO_PORT_STATUS_STATE r.val) = 1 → 1 ≤ speed.val → speed.val ≤ s.chip.slotSpeed (r.val / 4) → width.val ∈ [1, 2, 4, 8, 16] → width.val * s.chip.slotWays (r.val / 4) ≤ 16 → flit = true ∨ speed.val < 6 → s.chip.on (R.HIO_SLOT_CFG_CXL_EN (r.val / 4)) = false →
    completes (.pcieLinkUp r speed width flit device) s (fun t => t.chip.rd (R.HIO_PORT_STATUS_STATE r.val) = 2 ∧ t.chip.rd (R.HIO_PORT_STATUS_KIND r.val) = 0 ∧ onlyChip s t)) ∧
  (∀ (r : Fin 16) (s : State), s.chip.rd (R.HIO_PORT_STATUS_STATE r.val) = 2 → s.chip.rd (R.HIO_PORT_STATUS_KIND r.val) ≠ 1 → s.chip.rd (R.HIO_PORT_STATUS_DOWNS r.val) < (R.HIO_PORT_STATUS_DOWNS r.val).top → 
    completes (.surpriseDown r) s (fun t => t.chip.rd (R.HIO_PORT_STATUS_STATE r.val) = 3 ∧ t.chip.rd (R.HIO_PORT_STATUS_DOWNS r.val) = s.chip.rd (R.HIO_PORT_STATUS_DOWNS r.val) + 1 ∧ regsSameBut s.chip t.chip [R.HIO_PORT_STATUS r.val] ∧ onlyChip s t)) ∧
  (∀ (r : Fin 16) (s : State), s.chip.rd (R.HIO_PORT_STATUS_STATE r.val) ≠ 2 → 
    exec (.surpriseDown r) s = .next s) ∧
  (∀ (r : Fin 16) (s : State), completes (.surpriseDown r) s (fun t => t.chip = s.chip.surpriseDown r.val ∧ onlyChip s t)) ∧
  (∀ (req : Requester) (o : Fin 2) (v : BitVec 32) (s : State), writeAccepted s.chip req (R.HIO_CLKOUT o.val) → s.chip.feedsCommon o.val = true → v.toNat / 16 % 16 ≠ 0 → 
    completes (.clkoutWrite req o v) s (fun t => t.chip.on R.HIO_STATUS_CLK_REJECT = true ∧ t.chip.word (R.HIO_CLKOUT o.val) = s.chip.word (R.HIO_CLKOUT o.val) ∧ regsSameBut s.chip t.chip [R.HIO_STATUS] ∧ onlyChip s t)) ∧
  (∀ (req : Requester) (o : Fin 2) (v : BitVec 32) (s : State), writeAccepted s.chip req (R.HIO_CLKOUT o.val) → s.chip.feedsCommon o.val = false → 
    completes (.clkoutWrite req o v) s (fun t => t.chip.on (R.HIO_CLKOUT_EN o.val) = v.getLsbD 31 ∧ t.chip.rd (R.HIO_CLKOUT_DEPTH o.val) = v.toNat / 16 % 16 ∧ t.chip.rd (R.HIO_CLKOUT_RATE o.val) = v.toNat % 8 ∧ onlyChip s t)) ∧
  (∀ (o : Fin 2) (s : State), 
    completes (.clkoutPeriodEnd o) s (fun t => getKey o.val t.chip.hio.modulation = some (min 10 (s.chip.rd (R.HIO_CLKOUT_DEPTH o.val)), min 6 (s.chip.rd (R.HIO_CLKOUT_RATE o.val))) ∧ regsSameBut s.chip t.chip [] ∧ onlyChip s t)) ∧
  (∀ (req : Requester) (sl : Fin 4) (v : BitVec 32) (s : State), writeAccepted s.chip req (R.HIO_SLOT_CFG sl.val) → s.chip.on (R.HIO_SLOT_CFG_EN sl.val) = false → v.getLsbD 31 = true → v.getLsbD 25 = true → 
    completes (.slotCfgWrite req sl v) s (fun t => t.chip.on (R.HIO_SLOT_CFG_EN sl.val) = true ∧ t.chip.rd (R.HIO_PORT_STATUS_STATE (4 * sl.val)) = 1 ∧ onlyChip s t)) ∧
  (∀ (src : CmdSrc) (idx : BitVec 16) (x : Cmd) (s : State), cmdReady s.chip src idx 0x78 x → 
    completes (.installSave src idx) s (fun t => cmdEnded s t x stOK 0 0 ∧ t.chip.flash.tables = installRegs.map (fun o => (o, s.chip.word o)) ∧ t.chip.flash.host = s.chip.hostTable ∧ regsSameBut s.chip t.chip [] ∧ onlyChip s t)) ∧
  (∀ (src : CmdSrc) (idx : BitVec 16) (x : Cmd) (s : State), cmdReady s.chip src idx 0x7C x → x.par 8 4 % 4096 = 0 → 0 < x.par 12 4 → x.par 12 4 ≤ 0x1000000 → x.par 8 4 + x.par 12 4 ≤ slotSize → s.chip.viewStatus x.partition (x.par 16 8) (x.par 12 4) = stOK → s.chip.viewObstacle x.partition (x.par 16 8) (x.par 12 4) false = none → s.chip.rd R.PCU_BOOT_STATUS_SLOT = 0 → 
    completes (.fwStage src idx) s (fun t => t.chip.flash.slotB = memWrite s.chip.flash.slotB (x.par 8 4) (s.viewBytes x.partition (x.par 16 8) (x.par 12 4)) ∧ t.chip.flash.slotA = s.chip.flash.slotA ∧ cmdNow s t x { x with started := true, aux := [1] } ∧ regsSameBut s.chip t.chip [] ∧ onlyChip s t)) ∧
  (∀ (src : CmdSrc) (idx : BitVec 16) (x : Cmd) (s : State), cmdReady s.chip src idx 0x7D x → s.chip.flash.slotResult s.chip.stagedSlot = 1 → 0 < x.par 8 4 → x.par 8 4 ≤ slotSize → 
    completes (.fwCommit src idx) s (fun t => cmdEnded s t x csIMAGE 0 0 ∧ t.chip.flash = s.chip.flash ∧ regsSameBut s.chip t.chip [] ∧ onlyChip s t)) ∧
  (∀ (src : CmdSrc) (idx : BitVec 16) (x : Cmd) (s : State), cmdReady s.chip src idx 0x7D x → 0 < x.par 8 4 → x.par 8 4 ≤ slotSize → s.chip.rd R.PCU_BOOT_STATUS_SLOT = 0 → 
    completes (.fwCommit src idx) s (fun t => (s.chip.flash.slotResult 1 = 0 → cmdEnded s t x stOK (slotVersion s.chip.flash.slotB) 0 ∧ t.chip.flash = s.chip.flash.writeOrder 1 true) ∧ (s.chip.flash.slotResult 1 ≠ 0 → t.chip.flash = s.chip.flash)
      ∧ regsSameBut s.chip t.chip [] ∧ onlyChip s t)) ∧
  (∀ (src : CmdSrc) (idx : BitVec 16) (x : Cmd) (s : State), cmdReady s.chip src idx 0x7F x → x.par 8 1 ≤ s.chip.flash.fused → 
    completes (.fwRatchet src idx) s (fun t => cmdEnded s t x csROLLBACK 0 0 ∧ t.chip.flash = s.chip.flash ∧ regsSameBut s.chip t.chip [] ∧ onlyChip s t)) ∧
  (∀ (src : CmdSrc) (idx : BitVec 16) (x : Cmd) (s : State), cmdReady s.chip src idx 0x7F x → s.chip.flash.fused < x.par 8 1 → x.par 8 1 ≤ 64 → 
    completes (.fwRatchet src idx) s (fun t => (s.chip.flash.slotResult 0 = 0 ∧ s.chip.flash.slotResult 1 = 0 ∧ x.par 8 1 ≤ slotSvn s.chip.flash.slotA ∧ x.par 8 1 ≤ slotSvn s.chip.flash.slotB →
        cmdEnded s t x stOK (x.par 8 1) 0 ∧ t.chip.flash.fused = x.par 8 1 ∧ t.chip.rd R.PCU_BOOT_STATUS_FUSED = x.par 8 1)
      ∧ (¬ (s.chip.flash.slotResult 0 = 0 ∧ s.chip.flash.slotResult 1 = 0 ∧ x.par 8 1 ≤ slotSvn s.chip.flash.slotA ∧ x.par 8 1 ≤ slotSvn s.chip.flash.slotB) → cmdEnded s t x csROLLBACK 0 0 ∧ t.chip.flash = s.chip.flash)
      ∧ regsSameBut s.chip t.chip [R.PCU_BOOT_STATUS] ∧ onlyChip s t))

/-- Partitions (R450 to R470). -/
def Obligations.PartitionCommandsComplete : Prop :=
  (∀ (idx : BitVec 16) (x : Cmd) (u base : Nat) (fr sr : List Nat) (s : State), cmdReady s.chip .admin idx 0x50 x → s.chip.cyc = 0 → x.par 8 1 = u → 0 < u → u < 16 → s.chip.partState u = psFREE → s.chip.viewStatus 0 (x.par 16 8) 64 = stOK → s.chip.viewStatus 0 (x.par 16 8) (creationBytes (s.viewBytes 0 (x.par 16 8) 64)) = stOK → s.chip.viewObstacle 0 (x.par 16 8) (creationBytes (s.viewBytes 0 (x.par 16 8) 64)) false = none → s.chip.creationPlan u (creation (s.viewBytes 0 (x.par 16 8) (creationBytes (s.viewBytes 0 (x.par 16 8) 64)))) = (stOK, fr, sr, base) → 
    completes (.partCreate .admin idx) s (fun t => cmdEnded s t x stOK base ((creation (s.viewBytes 0 (x.par 16 8) (creationBytes (s.viewBytes 0 (x.par 16 8) 64))))).pages ∧ t.chip.partState u = psREADY ∧ t.chip.tenantOn u = true ∧ t.chip.rd (R.PART_TENANT_SHARE u) = ((creation (s.viewBytes 0 (x.par 16 8) (creationBytes (s.viewBytes 0 (x.par 16 8) 64))))).share ∧ t.chip.rd (R.PART_HBM_BASE_BASE u) = base
      ∧ t.chip.rd (R.PART_HBM_PAGES_PAGES u) = ((creation (s.viewBytes 0 (x.par 16 8) (creationBytes (s.viewBytes 0 (x.par 16 8) 64))))).pages ∧ t.chip.mems.xlat = s.chip.mems.xlat ++ fr.mapIdx (fun i f => (base + i, (u, f))) ∧ t.chip.word (R.PART_SPID u) = 0 ∧ t.pending = s.pending)) ∧
  (∀ (idx : BitVec 16) (x : Cmd) (s : State), cmdReady s.chip .admin idx 0x51 x → s.chip.cyc = 0 → s.chip.partState x.partition = psREADY → s.chip.rd R.THM_TRIP_PENDING = 0 → x.par 8 8 % 64 = 0 → x.par 8 8 < 2 ^ 46 → x.par 8 8 = 0 ∨ (4 ≤ x.par 16 1 ∧ x.par 16 1 ≤ 12) → x.par 18 2 = 0xFFFF ∨ (s.chip.obj (x.par 18 2)).map (fun o => (o.kind, o.tenant)) = some (1, x.partition) → 
    completes (.partStart .admin idx) s (fun t => t.chip.partState x.partition = psRUNNING ∧ t.chip.rdPair (R.PART_FAULT_RING_LO_ADDR x.partition) (R.PART_FAULT_RING_HI_ADDR x.partition) = x.par 8 8 ∧ t.chip.rd (R.PART_FAULT_RING_CFG_SIZE_LOG2 x.partition) = x.par 16 1 % 16
      ∧ t.chip.rd (R.PART_FAULT_RING_CFG_FAULT_SYNC x.partition) = x.par 18 2 ∧ t.chip.word (R.PART_FIRST_UNIT x.partition) = 0
      ∧ (t.chip.cmd.cmds.find? (fun y => y.src == .admin && y.idx == idx.toNat)).map (fun y => y.result) = some (some (stOK, ((t.chip.coresOf x.partition).filter (fun p => decide (t.chip.rd (R.CMP_CORE_STATE_LOGICAL p.1 p.2) < 16))).length,
        (s.chip.mems.xlat.filter (fun e => e.2.1 == x.partition && s.chip.frameLost e.2.2)).length)) ∧ onlyChip s t)) ∧
  (∀ (idx : BitVec 16) (x : Cmd) (s : State), cmdReady s.chip .admin idx 0x52 x → 0 < x.partition → s.chip.partState x.partition = psRUNNING ∨ s.chip.partState x.partition = psREADY → 
    completes (.partReset .admin idx) s (fun t => t.chip.partState x.partition = psREADY ∧ t.chip.comp.blocks.filter (fun b => b.tenant == x.partition) = [] ∧ t.chip.comp.launches.filter (fun l => l.tenant == x.partition) = []
      ∧ t.chip.part.park = s.chip.part.park ++ [x.partition] ∧ (t.chip.cmd.cmds.find? (fun y => y.src == .admin && y.idx == idx.toNat)).map (fun y => y.result.map (fun r => r.1)) = some (some stOK) ∧ onlyChip s t)) ∧
  (∀ (idx : BitVec 16) (x : Cmd) (s : State), cmdReady s.chip .admin idx 0x53 x → s.chip.cyc = 0 → x.partition ≠ 0 → s.chip.partState x.partition = psREADY → s.chip.part.digests.any (fun g => g.tenant == x.partition) = false → 
    completes (.partDestroy .admin idx) s (fun t => t.chip.partState x.partition = psFREE ∧ t.chip.tenantOn x.partition = false ∧ t.chip.rd (R.PART_HBM_PAGES_PAGES x.partition) = 0 ∧ t.chip.mems.xlat = s.chip.mems.xlat.filter (fun e => e.2.1 != x.partition)
      ∧ cmdEnded s t x stOK (s.chip.mems.xlat.filter (fun e => e.2.1 == x.partition)).length 0 ∧ onlyChip s t)) ∧
  (∀ (idx : BitVec 16) (x : Cmd) (s : State), cmdReady s.chip .admin idx 0x53 x → s.chip.cyc ≠ 0 → x.partition ≠ 0 → s.chip.partState x.partition = psREADY → s.chip.part.digests.any (fun g => g.tenant == x.partition) = false → 
    completes (.partDestroy .admin idx) s (fun t => t.chip.regs = s.chip.regs ∧ t.chip.mems = s.chip.mems ∧ t.chip.cmd.cmds.length = s.chip.cmd.cmds.length ∧ (t.chip.cmd.cmds.find? (fun y => y.src == .admin && y.idx == idx.toNat)).map (fun y => (y.started, y.result)) = some (false, none) ∧ onlyChip s t)) ∧
  (∀ (idx : BitVec 16) (x : Cmd) (s : State), cmdReady s.chip .admin idx 0x54 x → x.partition ≠ 0 → s.chip.partState x.partition = psREADY → x.par 8 4 ≠ 0 → x.par 14 2 = 1 → x.par 12 1 = s.chip.rd R.PCU_IF_VERSION_MAJOR → s.chip.on (R.PART_STATE_JOINED x.partition) = false → s.chip.viewStatus 0 (x.par 16 8) 2 = stOK → s.chip.viewObstacle 0 (x.par 16 8) 2 false = none → leField (s.viewBytes 0 (x.par 16 8) 2) 0 2 = s.chip.node → s.chip.node < s.chip.nodeCount → 
    completes (.partJoin .admin idx) s (fun t => cmdEnded s t x stOK 0 0 ∧ t.chip.rd (R.PART_SPID_SPID x.partition) = x.par 8 4 ∧ t.chip.on (R.PART_STATE_JOINED x.partition) = true ∧ t.chip.rd (R.PART_STATE_MEMBERS x.partition) = 1
      ∧ getKey x.partition t.chip.part.members = some [s.chip.node] ∧ regsSameBut s.chip t.chip [R.PART_SPID x.partition, R.PART_STATE x.partition] ∧ onlyChip s t)) ∧
  (∀ (idx : BitVec 16) (x : Cmd) (nodes : List Nat) (s : State), cmdReady s.chip .admin idx 0x54 x → x.partition ≠ 0 → s.chip.partState x.partition = psREADY → x.par 8 4 ≠ 0 → x.par 14 2 ≠ 0 → x.par 14 2 ≤ 4096 → x.par 12 1 = s.chip.rd R.PCU_IF_VERSION_MAJOR →
    s.chip.on (R.PART_STATE_JOINED x.partition) = false ∨ s.chip.rd (R.PART_SPID_SPID x.partition) = x.par 8 4 → s.chip.viewStatus 0 (x.par 16 8) (2 * x.par 14 2) = stOK → s.chip.viewObstacle 0 (x.par 16 8) (2 * x.par 14 2) false = none →
    nodes = (List.range (x.par 14 2)).map (fun i => leField (s.viewBytes 0 (x.par 16 8) (2 * x.par 14 2)) (2 * i) 2) → nodes.contains s.chip.node = true → nodes.any (fun m => decide (s.chip.nodeCount ≤ m)) = false →
    completes (.partJoin .admin idx) s (fun t => cmdEnded s t x stOK 0 0 ∧ t.chip.rd (R.PART_SPID_SPID x.partition) = x.par 8 4 ∧ t.chip.on (R.PART_STATE_JOINED x.partition) = true ∧ getKey x.partition t.chip.part.members = some nodes
      ∧ regsSameBut s.chip t.chip [R.PART_SPID x.partition, R.PART_STATE x.partition] ∧ onlyChip s t)) ∧
  (∀ (idx : BitVec 16) (x : Cmd) (s : State), cmdReady s.chip .admin idx 0x56 x → s.chip.partState x.partition = psREADY → 
    completes (.partLeave .admin idx) s (fun t => cmdEnded s t x stOK 0 0 ∧ t.chip.word (R.PART_SPID x.partition) = 0 ∧ t.chip.on (R.PART_STATE_JOINED x.partition) = false ∧ t.chip.rd (R.PART_STATE_MEMBERS x.partition) = 0
      ∧ regsSameBut s.chip t.chip [R.PART_SPID x.partition, R.PART_STATE x.partition] ∧ onlyChip s t)) ∧
  (∀ (idx : BitVec 16) (x : Cmd) (s : State), cmdReady s.chip .admin idx 0x55 x → x.partition ≠ 0 → s.chip.partState x.partition = psRUNNING → s.chip.frogMembers x.partition = [s.chip.node] → s.chip.part.frogs = [] → 
    completes (.partFrog .admin idx) s (fun t => t.chip.part.frogs = [⟨x.partition, (s.chip.row + max 16 (s.chip.rd R.PART_FROG_CFG_LEAD))⟩] ∧ t.chip.part.waits = s.chip.part.waits ++ [⟨.admin, idx.toNat, x.partition, s.chip.rd (R.PART_SPID_SPID x.partition), s.chip.part.started % 65536, (s.chip.row + max 16 (s.chip.rd R.PART_FROG_CFG_LEAD)), []⟩]
      ∧ t.chip.rd (R.PART_FROG_FROG_ID x.partition) = s.chip.part.started % 65536 ∧ cmdNow s t x { x with started := true, committed := true } ∧ regsSameBut s.chip t.chip [R.PART_FROG x.partition] ∧ onlyChip s t)) ∧
  (∀ (idx : BitVec 16) (x : Cmd) (s : State), cmdReady s.chip .admin idx 0x55 x → x.partition ≠ 0 → s.chip.partState x.partition = psRUNNING ∨ s.chip.partState x.partition = psREADY →
    completes (.partFrog .admin idx) s (fun t => t.chip.part.waits = s.chip.part.waits ++ [⟨.admin, idx.toNat, x.partition, s.chip.rd (R.PART_SPID_SPID x.partition), s.chip.part.started % 65536, s.chip.row + max 16 (s.chip.rd R.PART_FROG_CFG_LEAD), []⟩]
      ∧ t.chip.part.wants = s.chip.part.wants ++ [⟨x.partition, s.chip.node, s.chip.part.started % 65536, x.par 8 1⟩] ∧ t.chip.part.started = s.chip.part.started + 1 ∧ cmdNow s t x { x with started := true, committed := true } ∧ onlyChip s t)) ∧
  (∀ (idx : BitVec 16) (x : Cmd) (s : State), cmdReady s.chip .admin idx 0x58 x → s.chip.partState x.partition = psRUNNING → x.par 8 1 ≤ 7 → x.par 16 8 % 4096 = 0 → x.par 24 8 % 4096 = 0 → 0 < x.par 24 8 → x.par 24 8 ≤ 2 ^ 40 → s.chip.part.digests = [] → 
    completes (.partDigest .admin idx) s (fun t => t.chip.part.digests = [⟨x.par 8 1, .admin, idx.toNat, x.partition, x.par 16 8, x.par 24 8⟩] ∧ cmdNow s t x { x with started := true, committed := true } ∧ t.chip.rd (R.CMP_DIGEST_STATUS_STATE (x.par 8 1)) = 1 ∧ t.chip.rd (R.CMP_DIGEST_STATUS_TENANT (x.par 8 1)) = x.partition ∧ onlyChip s t)) ∧
  (∀ (idx : BitVec 16) (x : Cmd) (s : State), cmdReady s.chip .admin idx 0x58 x → s.chip.partState x.partition = psRUNNING ∨ s.chip.partState x.partition = psREADY → x.par 8 1 ≤ 7 → x.par 16 8 % 4096 = 0 → x.par 24 8 % 4096 = 0 → 0 < x.par 24 8 → x.par 24 8 ≤ 2 ^ 40 →
    (s.chip.part.digests.filter (fun g => g.die == x.par 8 1)).length < 9 →
    completes (.partDigest .admin idx) s (fun t => t.chip.part.digests = s.chip.part.digests ++ [⟨x.par 8 1, .admin, idx.toNat, x.partition, x.par 16 8, x.par 24 8⟩] ∧ cmdNow s t x { x with started := true, committed := true } ∧ onlyChip s t)) ∧
  (∀ (tn : Fin 16) (spid id row origin sender cause : Nat) (st : Stitch) (s : State), st.data = frogData spid tn.val 1 id row origin sender cause → spid < 2 ^ 32 → id < 65536 → row < 2 ^ 48 → origin < 4096 → s.chip.on (R.PART_STATE_JOINED tn.val) = true → s.chip.rd (R.PART_SPID_SPID tn.val) = spid → s.chip.partState tn.val = psRUNNING → s.chip.part.frogs = [] → s.chip.row < row → 
    completes (.frogArrival st) s (fun t => t.chip.part.frogs = [⟨tn.val, row⟩] ∧ t.chip.part.wants = s.chip.part.wants ++ [⟨tn.val, origin, id, cause⟩] ∧ t.chip.rd (R.PART_FROG_FROG_ID tn.val) = id ∧ onlyChip s t)) ∧
  (∀ (st : Stitch) (s : State), st.data.getD 5 0 = 1 → completes (.frogArrival st) s (fun t => t.chip = s.chip.frogIn st ∧ onlyChip s t)) ∧
  (∀ (tn : Fin 16) (id row origin sender cause : Nat) (w : FrogWait) (st : Stitch) (s : State), st.data = frogData (s.chip.rd (R.PART_SPID_SPID tn.val)) tn.val 2 id row origin sender cause → id < 65536 → sender < 4096 → s.chip.part.waits = [w] → w.tenant = tn.val → w.id = id → w.acked = [] → s.chip.frogMembers tn.val = [sender, sender + 1] → 
    completes (.frogAckArrival st) s (fun t => t.chip.part.waits = [{ w with acked := [sender] }] ∧ regsSameBut s.chip t.chip [] ∧ onlyChip s t)) ∧
  (∀ (st : Stitch) (s : State), st.data.getD 5 0 = 2 → completes (.frogAckArrival st) s (fun t => t.chip = s.chip.frogAckIn st ∧ onlyChip s t)) ∧
  (∀ (tn : Fin 16) (f : FrogArm) (s : State), s.chip.part.frogs = [f] → f.tenant = tn.val → f.row ≤ s.chip.row → 
    completes (.frogEffect tn) s (fun t => t.chip.partState tn.val = psFROGGED ∧ getKey tn.val t.chip.part.draining = some s.chip.row ∧ t.chip.part.frogs = []
      ∧ t.chip.comp.blocks.filter (fun b => b.tenant == tn.val) = [] ∧ t.chip.comp.launches.filter (fun l => l.tenant == tn.val) = [] ∧ t.chip.xport.out.filter (fun e => e.st.tenant == tn.val) = [] ∧ t.mem = s.mem ∧ t.pending = s.pending)) ∧
  (∀ (tn : Fin 16) (s : State), s.chip.part.frogs.any (fun f => f.tenant == tn.val && decide (f.row ≤ s.chip.row)) = true →
    completes (.frogEffect tn) s (fun t => t.chip = (s.chip.frogNow tn.val).sendFrogAcks ∧ onlyChip s t)) ∧
  (∀ (tn : Fin 16) (w : FrogWait) (x : Cmd) (s : State), s.chip.part.waits = [w] → w.tenant = tn.val → w.row + max 1 (s.chip.rd R.PART_FROG_WAIT_ACK_WAIT) ≤ s.chip.row → s.chip.cmd.cmds.find? (fun y => y.src == w.src && y.idx == w.idx) = some x → 
    completes (.frogAckTimeout tn) s (fun t => t.chip.part.waits = [] ∧ cmdEnded s t x stOK w.acked.length ((s.chip.frogMembers tn.val).filter (fun m => !w.acked.contains m)).length ∧ onlyChip s t)) ∧
  (∀ (tn : Fin 16) (s : State), s.chip.part.waits.any (fun w => w.tenant == tn.val && decide (w.row + s.chip.rdPos R.PART_FROG_WAIT_ACK_WAIT ≤ s.chip.row)) = true →
    completes (.frogAckTimeout tn) s (fun t => t.chip = s.chip.frogCheck tn.val true ∧ onlyChip s t)) ∧
  (∀ (tn : Fin 16) (f : Nat) (s : State), getKey tn.val s.chip.part.draining = some f → f + max 0x1000 (s.chip.rd R.PART_FROG_CFG_DRAIN) ≤ s.chip.row → 
    completes (.frogDrainEnd tn) s (fun t => t.chip.partState tn.val = psREADY ∧ t.chip.part.draining = delKey tn.val s.chip.part.draining ∧ regsSameBut s.chip t.chip [R.PART_STATE tn.val] ∧ onlyChip s t)) ∧
  (∀ (die : Fin 8) (g : Digest) (x : Cmd) (s : State), s.chip.part.digests.find? (fun g => g.die == die.val) = some g → s.chip.cmd.cmds.find? (fun y => y.src == g.src && y.idx == g.idx) = some x → s.chip.digestStatus g.tenant g.addr g.len = stOK → s.chip.viewObstacle g.tenant g.addr g.len false = none → 
    completes (.digestComplete die) s (fun t => t.chip.part.digests = dropFirst (fun h => h == g) s.chip.part.digests ∧ cmdEnded s t x stOK (crc64 (s.viewBytes g.tenant g.addr g.len) % 2 ^ 32) (crc64 (s.viewBytes g.tenant g.addr g.len) / 2 ^ 32)
      ∧ t.chip.rdPair (R.CMP_DIGEST_LO_CRC die.val) (R.CMP_DIGEST_HI_CRC die.val) = crc64 (s.viewBytes g.tenant g.addr g.len) ∧ onlyChip s t))

/-- Clocks (R472 to R492). -/
def Obligations.ClockCommandsComplete : Prop :=
  (∀ (req : Requester) (d : Fin 10) (v : BitVec 32) (s : State), writeAccepted s.chip req (R.CLK_FCHG d.val) → v.getLsbD 31 = true → v.getLsbD 30 = false → (if d.val < 8 then 24 else 32) ≤ (v.toNat / 2 ^ 23 % 128) → (v.toNat / 2 ^ 23 % 128) ≤ (if d.val < 8 then 72 else 120) → s.chip.row + max 2 (s.chip.rd R.CLK_CFG_ANNOUNCE_MIN) ≤ s.chip.rowAhead (v.toNat % 65536) → s.chip.clk.announced = [] → s.chip.clk.running = [] → 
    completes (.fchgAnnounce req d v) s (fun t => t.chip.clk.announced.map (fun f => (f.die, f.mult, f.row)) = [(d.val, (v.toNat / 2 ^ 23 % 128), s.chip.rowAhead (v.toNat % 65536))] ∧ t.chip.rd (R.CLK_FCHG_RESULT_STATUS d.val) = 1
      ∧ t.chip.rd (R.CLK_FCHG_NOW_TARGET d.val) = (v.toNat / 2 ^ 23 % 128) ∧ onlyChip s t)) ∧
  (∀ (req : Requester) (d : Fin 10) (v : BitVec 32) (s : State), writeAccepted s.chip req (R.CLK_FCHG d.val) → v.getLsbD 31 = true → v.getLsbD 30 = false → (v.toNat / 2 ^ 23 % 128) < 24 → 
    completes (.fchgAnnounce req d v) s (fun t => t.chip.clk = s.chip.clk ∧ t.chip.rd (R.CLK_FCHG_RESULT_STATUS d.val) = 4 ∧ t.chip.on R.CLK_STATUS_FCHG_REJECT = true ∧ onlyChip s t)) ∧
  (∀ (req : Requester) (d : Fin 10) (v : BitVec 32) (f : FreqChange) (s : State), writeAccepted s.chip req (R.CLK_FCHG d.val) → v.getLsbD 31 = false → v.getLsbD 30 = true → s.chip.clk.announced = [f] → f.die = d.val → 
    completes (.fchgCancel req d v) s (fun t => t.chip.clk.announced = [] ∧ t.chip.rd (R.CLK_FCHG_RESULT_STATUS d.val) = 8 ∧ t.chip.rd (R.CLK_FCHG_NOW_TARGET d.val) = 0 ∧ onlyChip s t)) ∧
  (∀ (d : Fin 10) (r : Fin 82) (f : FreqRun) (s : State), s.chip.clk.running = [f] → f.die = d.val → f.locked = false → s.chip.clk.resets = [] → (regionsOf d.val).contains r.val = true → s.chip.regionLive r.val = true → 
    completes (.pllRelockDone (.die d)) s (fun t => t.chip.clk.running = [{ f with locked := true }] ∧ t.chip.on (R.CLK_REGION_LOCK r.val) = true ∧ t.chip.on (R.CLK_REGION_MON_OK r.val) = true ∧ onlyChip s t)) ∧
  (∀ (d : Fin 10) (r : Fin 82) (s : State), s.chip.clk.running.any (fun f => f.die == d.val && !f.locked) = true →
    completes (.pllRelockDone (.die d)) s (fun t => t.chip.clk.running = s.chip.clk.running.map (fun f => if f.die = d.val then { f with locked := true } else f)
      ∧ ((regionsOf d.val).contains r.val = true → s.chip.regionLive r.val = true → s.chip.clk.resets.any (fun x => x.region == r.val) = false → t.chip.on (R.CLK_REGION_LOCK r.val) = true) ∧ onlyChip s t)) ∧
  (∀ (r : Fin 94) (n : Nat) (s : State), s.chip.clk.resets = [⟨r.val, n, false⟩] → s.chip.clk.waking = [] → 
    completes (.pllRelockDone (.region r)) s (fun t => t.chip.clk.resets = [⟨r.val, n, true⟩] ∧ t.chip.on (R.CLK_REGION_LOCK r.val) = true ∧ regsSameBut s.chip t.chip [R.CLK_REGION r.val] ∧ onlyChip s t)) ∧
  (∀ (r : Fin 94) (s : State), s.chip.clk.resets.any (fun x => x.region == r.val && !x.locked) = true ∨ s.chip.clk.waking.any (fun x => x.region == r.val && !x.locked) = true →
    completes (.pllRelockDone (.region r)) s (fun t => t.chip.on (R.CLK_REGION_LOCK r.val) = true ∧ t.chip.on (R.CLK_REGION_MON_OK r.val) = true ∧ t.chip.clk.running = s.chip.clk.running
      ∧ t.chip.clk.resets.any (fun x => x.region == r.val && !x.locked) = false ∧ t.chip.clk.waking.any (fun x => x.region == r.val && !x.locked) = false ∧ onlyChip s t)) ∧
  (∀ (r : Fin 94) (n : Nat) (s : State), s.chip.clk.resets = [⟨r.val, n, false⟩] → s.chip.clk.waking = [] → s.chip.clk.running = [] → r.val < 82 → n + max 12 (s.chip.rd R.CLK_CFG_RELOCK_MAX) ≤ s.chip.row → s.chip.on (R.CLK_REGION_GATED r.val) = false → 
    completes (.relockTimeout r) s (fun t => t.chip.clk.resets = [] ∧ t.chip.on (R.CLK_REGION_FENCED r.val) = true ∧ t.chip.on (R.CLK_REGION_LOCK r.val) = false ∧ t.chip.rd (R.CLK_REGION_SRC r.val) = 1 ∧ t.chip.reports.length = s.chip.reports.length + 1 ∧ onlyChip s t)) ∧
  (∀ (r : Fin 94) (row : Nat) (s : State), s.chip.clk.resets = [⟨r.val, row, false⟩] → s.chip.clk.waking = [] → s.chip.clk.running = [] → 90 ≤ r.val → row + s.chip.relockMax ≤ s.chip.row →
    completes (.relockTimeout r) s (fun t => onlyChip s t ∧ t.chip = (s.chip.onClk (fun x => { x with resets := [], failed := putKey (r.val - 90) ((getKey (r.val - 90) x.failed).getD 0 + 1) x.failed })).slotPll (r.val - 90))) ∧
  (∀ (req : Requester) (v : BitVec 32) (s : State), writeAccepted s.chip req R.CLK_DOMAIN_RESET → v.getLsbD 31 = true → (v.toNat % 128) < 90 → s.chip.ready = false → s.chip.on (R.CLK_REGION_GATED (v.toNat % 128)) = false → s.chip.on (R.CLK_REGION_FENCED (v.toNat % 128)) = false → s.chip.clk.resets = [] → 
    completes (.domainReset req v) s (fun t => t.chip.rd (R.CLK_REGION_SRC (v.toNat % 128)) = 1 ∧ t.chip.on (R.CLK_REGION_LOCK (v.toNat % 128)) = false ∧ t.chip.clk.resets = [⟨(v.toNat % 128), s.chip.row, false⟩] ∧ t.chip.rd R.CLK_DOMAIN_RESET_RESULT_STATUS = 1
      ∧ t.chip.rd R.CLK_DOMAIN_RESET_RESULT_REGION = (v.toNat % 128) ∧ onlyChip s t)) ∧
  (∀ (req : Requester) (v : BitVec 32) (s : State), writeAccepted s.chip req R.CLK_DOMAIN_RESET → v.getLsbD 31 = true → 90 ≤ (v.toNat % 128) → 
    completes (.domainReset req v) s (fun t => t.chip.clk = s.chip.clk ∧ t.chip.rd R.CLK_DOMAIN_RESET_RESULT_STATUS = 3 ∧ onlyChip s t)) ∧
  (∀ (r : Fin 90) (s : State), 
    completes (.muxHang r) s (fun t => t.chip.on (R.CLK_REGION_HUNG r.val) = true ∧ t.chip.on R.CLK_STATUS_HUNG_SEEN = true ∧ t.chip.rd R.CLK_DOMAIN_RESET_RESULT_REGION = r.val ∧ onlyChip s t)) ∧
  (∀ (r : Fin 90) (s : State), completes (.muxHang r) s (fun t => onlyChip s t ∧ t.chip = (((s.chip.wr (R.CLK_REGION_HUNG r.val) 1).wr R.CLK_STATUS_HUNG_SEEN 1).event Ev.muxHang none 0 [r.val]).domainReset r.val)) ∧
  (∀ (r : Fin 94) (s : State), s.chip.clk.absent = false → r.val < 82 → s.chip.on (R.CLK_REGION_FENCED r.val) = false → s.chip.on (R.CLK_REGION_GATED r.val) = false → 
    completes (.regionalPllLoss r false) s (fun t => t.chip.on (R.CLK_REGION_FENCED r.val) = true ∧ t.chip.rd (R.CLK_REGION_SRC r.val) = 1 ∧ t.chip.reports.length = s.chip.reports.length + 1 ∧ onlyChip s t)
      ∧ completes (.regionalPllLoss r true) s (fun t => t.chip.on (R.CLK_REGION_FENCED r.val) = true ∧ t.chip.rd (R.CLK_REGION_SRC r.val) = 3 ∧ t.chip.reports = s.chip.reports ∧ onlyChip s t)) ∧
  (∀ (r : Fin 94) (stopped : Bool) (s : State), s.chip.clk.absent = false → 82 ≤ r.val → r.val < 90 → s.chip.on (R.CLK_REGION_FENCED r.val) = false → s.chip.rd (R.CLK_REGION_SRC r.val) ≠ 2 → 
    completes (.regionalPllLoss r stopped) s (fun t => t.chip.on (R.CLK_REGION_FENCED r.val) = true ∧ t.chip.rd (R.CLK_REGION_SRC r.val) = 2 ∧ t.chip.on (R.CLK_REGION_LOCK r.val) = true ∧ t.chip.reports.length = s.chip.reports.length + 1 ∧ onlyChip s t)) ∧
  (∀ (r : Fin 94) (stopped : Bool) (s : State), s.chip.clk.absent = false → s.chip.on (R.CLK_REGION_FENCED r.val) = false ∨ s.chip.rd (R.CLK_REGION_SRC r.val) = 2 → stopped = false ∨ 82 ≤ r.val →
    completes (.regionalPllLoss r stopped) s (fun t => t.chip = s.chip.pllLost r.val ∧ onlyChip s t)) ∧
  (∀ (r : Fin 94) (stopped : Bool) (s : State), s.chip.clk.absent = true → 
    exec (.regionalPllLoss r stopped) s = .next s) ∧
  (∀ (s : State), s.chip.clk.absent = false → s.chip.on R.CLK_STATUS_REFCLK_OK = true → s.chip.on R.CLK_STATUS_FAB_STANDBY = true → 
    completes .fabricPllLoss s (fun t => t.chip.rd R.CLK_STATUS_FAB_PLL = 1 - s.chip.rd R.CLK_STATUS_FAB_PLL ∧ t.chip.on R.CLK_STATUS_FAB_STANDBY = false ∧ t.chip.rowsRun = s.chip.rowsRun ∧ onlyChip s t)) ∧
  (∀ (s : State), s.chip.clk.absent = false → s.chip.on R.CLK_STATUS_REFCLK_OK = true → s.chip.on R.CLK_STATUS_FAB_STANDBY = false → 
    completes .fabricPllLoss s (fun t => t.mem = [] ∧ t.chip.on R.CLK_STATUS_SAFE = true ∧ t.chip.on R.CLK_STATUS_REFCLK_OK = false ∧ t.chip.pins.phase = .safe ∧ t.chip.rowsRun = false ∧ t.pending = s.pending)) ∧
  (∀ (s : State), 
    completes .refclkAbsent s (fun t => t.chip.clk.absent = true ∧ regsSameBut s.chip t.chip [] ∧ onlyChip s t)) ∧
  (∀ (s : State), s.chip.clk.absent = true → s.chip.on R.CLK_STATUS_REFCLK_OK = true → s.chip.rd R.CLK_REFCLK_MON_GAPS < R.CLK_REFCLK_MON_GAPS.top → 
    completes .refclkGapEnd s (fun t => t.chip.clk.absent = false ∧ t.chip.rd R.CLK_REFCLK_MON_GAPS = s.chip.rd R.CLK_REFCLK_MON_GAPS + 1 ∧ regsSameBut s.chip t.chip [R.CLK_REFCLK_MON] ∧ onlyChip s t)) ∧
  (∀ (r : Fin 94) (s : State), s.chip.clk.absent = true → s.chip.on R.CLK_STATUS_REFCLK_OK = true → 
    completes .refclkLost s (fun t => t.mem = [] ∧ t.chip.on R.CLK_STATUS_SAFE = true ∧ t.chip.on R.CLK_STATUS_REFCLK_OK = false ∧ t.chip.pins.phase = .safe ∧ t.chip.rowsRun = false ∧ t.pending = s.pending ∧ t.chip.rd (R.CLK_REGION_SRC r.val) = 3)) ∧
  (∀ (req : Requester) (v : BitVec 32) (s : State), writeAccepted s.chip req R.CLK_GATE_EN_LO → 
    completes (.gateWrite req false v) s (fun t => t.chip.acc.held = s.chip.acc.held ++ [⟨R.CLK_GATE_EN_LO, 0xFFFFFFFF, v.toNat, s.chip.wRow⟩] ∧ t.chip.word R.CLK_GATE_EN_LO = s.chip.word R.CLK_GATE_EN_LO ∧ onlyChip s t)) ∧
  (∀ (req : Requester) (v : BitVec 32) (s : State), writeAccepted s.chip req R.CLK_GATE_EN_HI → 
    completes (.gateWrite req true v) s (fun t => t.chip.acc.held = s.chip.acc.held ++ [⟨R.CLK_GATE_EN_HI, 0xFF, v.toNat % 256, s.chip.wRow⟩] ∧ t.chip.word R.CLK_GATE_EN_HI = s.chip.word R.CLK_GATE_EN_HI ∧ onlyChip s t)) ∧
  (∀ (req : Requester) (d : Fin 8) (v : BitVec 32) (s : State), writeAccepted s.chip req (R.CLK_CL_GATE d.val) → 
    completes (.clusterGateWrite req d v) s (fun t => t.chip.acc.held = s.chip.acc.held ++ [⟨R.CLK_CL_GATE d.val, 0xFF, v.toNat % 256, s.chip.wRow⟩] ∧ t.chip.word (R.CLK_CL_GATE d.val) = s.chip.word (R.CLK_CL_GATE d.val) ∧ onlyChip s t))

/-- Power (R493 to R516). -/
def Obligations.PowerCommandsComplete : Prop :=
  (∀ (src : CmdSrc) (idx : BitVec 16) (x : Cmd) (s : State), cmdReady s.chip src idx 0x60 x → 
    completes (.pwrGet src idx) s (fun t => cmdEnded s t x stOK (s.chip.rd R.PWR_MEAN_MEAN_W + 65536 * s.chip.rd R.PWR_LIMIT_EFFECTIVE) (s.chip.rd R.PWR_SLACK_SLACK + 256 * s.chip.rd R.PWR_THROTTLE_ACTIVE) ∧ regsSameBut s.chip t.chip [] ∧ onlyChip s t)) ∧
  (∀ (src : CmdSrc) (idx : BitVec 16) (x : Cmd) (s : State), cmdReady s.chip src idx 0x61 x → 3000 ≤ x.par 8 2 → x.par 8 2 ≤ s.chip.ppl → 
    completes (.pwrCap src idx) s (fun t => cmdEnded s t x stOK (t.chip.limitW / 10) 0 ∧ t.chip.rd R.PWR_CAP_CAP = x.par 8 2 / 10 ∧ regsSameBut s.chip t.chip [R.PWR_CAP] ∧ onlyChip s t)) ∧
  (∀ (src : CmdSrc) (idx : BitVec 16) (x : Cmd) (s : State), cmdReady s.chip src idx 0x61 x → x.par 8 2 < 3000 → 
    completes (.pwrCap src idx) s (fun t => cmdEnded s t x csINVALID 0 0 ∧ regsSameBut s.chip t.chip [] ∧ onlyChip s t)) ∧
  (∀ (src : CmdSrc) (idx : BitVec 16) (x : Cmd) (s : State), cmdReady s.chip src idx 0x62 x → 0 < x.par 8 2 → 0 < x.par 10 2 → x.par 8 2 < 65536 → 
    completes (.pwrTarget src idx) s (fun t => cmdEnded s t x stOK (t.chip.limitW / 10) 0 ∧ t.chip.rd R.PWR_LIMIT_TARGET = min 1023 (max 300 (x.par 8 2 / 10)) ∧ t.chip.on R.PWR_STATUS_TARGET_VALID = true ∧ t.chip.pwr.targetUntil = s.chip.now + 1000000 * x.par 10 2 ∧ regsSameBut s.chip t.chip [R.PWR_LIMIT, R.PWR_STATUS] ∧ onlyChip s t)) ∧
  (∀ (src : CmdSrc) (idx : BitVec 16) (x : Cmd) (s : State), cmdReady s.chip src idx 0x62 x → x.par 8 2 = 0 → 
    completes (.pwrTarget src idx) s (fun t => cmdEnded s t x stOK (t.chip.limitW / 10) 0 ∧ t.chip.rd R.PWR_LIMIT_TARGET = 0 ∧ t.chip.on R.PWR_STATUS_TARGET_VALID = false ∧ regsSameBut s.chip t.chip [R.PWR_LIMIT, R.PWR_STATUS] ∧ onlyChip s t)) ∧
  (∀ (s : State), s.chip.on R.PWR_STATUS_TARGET_VALID = true → s.chip.pwr.targetUntil ≤ s.chip.now → 
    completes .targetExpiry s (fun t => t.chip.on R.PWR_STATUS_TARGET_VALID = false ∧ t.chip.rd R.PWR_LIMIT_TARGET = 0 ∧ regsSameBut s.chip t.chip [R.PWR_LIMIT, R.PWR_STATUS] ∧ onlyChip s t)) ∧
  (∀ (s : State), s.chip.now < s.chip.pwr.targetUntil → 
    exec .targetExpiry s = .next s) ∧
  (∀ (r : Fin 82) (s : State), s.chip.pwr.stretching.contains r.val = false → s.chip.on (R.CLK_REGION_GATED r.val) = false → r.val < 72 → s.chip.rd (R.PWR_DIE_W_DROOPS (r.val / 9)) < (R.PWR_DIE_W_DROOPS 0).top → 
    completes (.droopDetect r) s (fun t => t.chip.pwr.stretching = s.chip.pwr.stretching ++ [r.val] ∧ t.chip.rd (R.PWR_DIE_W_DROOPS (r.val / 9)) = s.chip.rd (R.PWR_DIE_W_DROOPS (r.val / 9)) + 1 ∧ regsSameBut s.chip t.chip [R.PWR_DIE_W (r.val / 9)] ∧ onlyChip s t)) ∧
  (∀ (r : Fin 82) (d : Nat) (s : State), dieOfRegion r.val = some d → s.chip.pwr.stretching.contains r.val = false → s.chip.on (R.CLK_REGION_GATED r.val) = false →
    completes (.droopDetect r) s (fun t => t.chip = (s.chip.count (R.PWR_DIE_W_DROOPS d)).onPwr (fun x => { x with stretching := x.stretching ++ [r.val], droops := putKey d ((getKey d x.droops).getD 0 + 1) x.droops }) ∧ onlyChip s t)) ∧
  (∀ (r : Fin 82) (s : State), 
    completes (.droopEnd r) s (fun t => t.chip.pwr.stretching = s.chip.pwr.stretching.filter (fun y => y != r.val) ∧ regsSameBut s.chip t.chip [] ∧ onlyChip s t)) ∧
  (∀ (d : Fin 8) (s : State), s.chip.on R.PWR_STATUS_FAST_LIMIT = false → 
    completes .currentLimitTrip s (fun t => t.chip.on R.PWR_STATUS_FAST_LIMIT = true ∧ t.chip.rd (R.PWR_DIE_ISSUE d.val) = 8 ∧ onlyChip s t)) ∧
  (∀ (d : Fin 8) (s : State), s.chip.pins.phase = .running → s.chip.on R.PWR_STATUS_BRAKE = false → 
    completes .brakeAssert s (fun t => t.chip.pins.brakeN = true ∧ t.chip.on R.PWR_STATUS_BRAKE = true ∧ t.chip.on R.PWR_STATUS_EMERGENCY = true ∧ t.chip.rd (R.PWR_DIE_ISSUE d.val) = 8 ∧ t.chip.inEmergency d.val = true ∧ onlyChip s t)) ∧
  (∀ (s : State), s.chip.pins.phase ≠ .running → 
    completes .brakeAssert s (fun t => t.chip.pins.brakeN = true ∧ regsSameBut s.chip t.chip [] ∧ onlyChip s t)) ∧
  (∀ (s : State), s.chip.on R.PWR_STATUS_BRAKE = true → 
    completes .brakeRelease s (fun t => t.chip.pins.brakeN = false ∧ t.chip.on R.PWR_STATUS_BRAKE = false ∧ t.chip.pwr.emergency.filter (fun e => decide (e.1 < 8) && e.2 == .brake) = [] ∧ t.chip.pwr.releaseRow = s.chip.row + s.chip.rd R.PWR_CFG_RELEASE_ROWS ∧ onlyChip s t)) ∧
  (∀ (d : Fin 10) (s : State), toSigned 8 (s.chip.rd (R.PWR_DIE_TRIM d.val)) < 0 → 
    completes (.ageingCheck d true) s (fun t => toSigned 8 (t.chip.rd (R.PWR_DIE_TRIM d.val)) = min 0 (toSigned 8 (s.chip.rd (R.PWR_DIE_TRIM d.val)) + 5) ∧ t.chip.pwr.trimDue = s.chip.pwr.trimDue ++ [d.val] ∧ regsSameBut s.chip t.chip [(R.PWR_DIE_TRIM d.val).off] ∧ onlyChip s t)) ∧
  (∀ (d : Fin 10) (s : State), 0 ≤ toSigned 8 (s.chip.rd (R.PWR_DIE_TRIM d.val)) → 
    completes (.ageingCheck d true) s (fun t => t.chip.rd (R.PWR_DIE_MAX_POINT d.val) = s.chip.rd (R.PWR_DIE_POINT d.val) - 1 ∧ t.chip.rd (R.THM_CEIL_CEIL d.val) ≤ s.chip.rd (R.PWR_DIE_POINT d.val) - 1 ∧ onlyChip s t)) ∧
  (∀ (d : Fin 10) (s : State), 
    exec (.ageingCheck d false) s = .next s) ∧
  (∀ (s : State), s.chip.pins.phase = .running ∨ s.chip.pins.phase = .castOn → 
    completes .undervoltage s (fun t => t.chip.on R.PWR_STATUS_UV = true ∧ regsSameBut s.chip t.chip [R.PWR_STATUS] ∧ onlyChip s t)) ∧
  (∀ (d : Fin 10) (s : State), s.chip.pins.phase = .running → 
    completes .powerFail s (fun t => t.mem = [] ∧ t.chip.pins.phase = .powerFail ∧ t.chip.rowsRun = false ∧ t.chip.rd (R.PWR_RAIL_SET_MV d.val) = 0 ∧ t.chip.rd (R.LSU_COMB_STATE 0) = 0 ∧ t.chip.rd (R.LSU_COMB_STATE 1) = 0 ∧ t.pending = s.pending)) ∧
  (∀ (s : State), s.chip.pins.phase = .off → 
    exec .powerFail s = .next s)

/-- Thermal limits and coolant (R517 to R530). -/
def Obligations.ThermalCommandsComplete : Prop :=
  (∀ (z : Fin 144) (temps : List (BitVec 16)) (hot : Int) (s : State), s.chip.thm.broken = [] → temps.length ≤ Config.zoneSensors z.val → hottest (temps.map BitVec.toInt) = some hot → 
    completes (.zoneSample z temps) s (fun t => toSigned 16 (t.chip.rd (R.THM_ZONE_T_HOT z.val)) = hot ∧ onlyChip s t)) ∧
  (∀ (z : Fin 144) (temps : List (BitVec 16)) (hot : Int) (s : State), hottest (((temps.zipIdx).filter (fun x => decide (x.2 < Config.zoneSensors z.val) && !s.chip.thm.broken.contains (z.val, x.2))).map (fun x => x.1.toInt)) = some hot →
    completes (.zoneSample z temps) s (fun t => toSigned 16 (t.chip.rd (R.THM_ZONE_T_HOT z.val)) = hot ∧ t.chip.thm.broken = s.chip.thm.broken ∧ onlyChip s t)) ∧
  (∀ (z : Fin 144) (temps : List (BitVec 16)) (hot : Int) (s : State), s.chip.thm.broken = [] → temps.length ≤ Config.zoneSensors z.val → hottest (temps.map BitVec.toInt) = some hot → z.val < 64 → s.chip.zoneMin z.val ≤ hot → 
    completes (.zoneSample z temps) s (fun t => t.chip.inEmergency (z.val / 8) = true ∧ t.chip.rd (R.PWR_DIE_ISSUE (z.val / 8)) = 8 ∧ t.chip.rd (R.THM_ZONE_STATE_STATE z.val) = 3 ∧ onlyChip s t)) ∧
  (∀ (z : Fin 144) (sensor : Fin 64) (reading : BitVec 16) (full : Bool) (s : State), s.chip.thm.broken = [] → sensor.val < Config.zoneSensors z.val → s.chip.rd (R.THM_ZONE_STATE_BROKEN z.val) < (R.THM_ZONE_STATE_BROKEN 0).top → 
    completes (.sensorBroken z sensor reading full) s (fun t => t.chip.thm.broken = [(z.val, sensor.val)] ∧ t.chip.rd (R.THM_ZONE_STATE_BROKEN z.val) = s.chip.rd (R.THM_ZONE_STATE_BROKEN z.val) + 1 ∧ t.chip.reports.length = s.chip.reports.length + 1 ∧ onlyChip s t)) ∧
  (∀ (z : Fin 144) (sensor : Fin 64) (reading : BitVec 16) (full : Bool) (s : State), s.chip.thm.broken.contains (z.val, sensor.val) = false → sensor.val < Config.zoneSensors z.val → s.chip.brokenIn z.val = 0 → 
    completes (.sensorBroken z sensor reading full) s (fun t => t.chip.thm.broken = s.chip.thm.broken ++ [(z.val, sensor.val)] ∧ t.chip.reports.length = s.chip.reports.length + 1 ∧ onlyChip s t)) ∧
  (∀ (z : Fin 144) (sensor : Fin 64) (reading : BitVec 16) (full : Bool) (d : Fin 10) (s : State), Config.zoneKind z.val ≠ .comb → Config.zoneKind z.val ≠ .coolant → s.chip.pins.phase = .running → 
    completes (.criticalTrip z sensor reading full) s (fun t => t.mem = [] ∧ t.chip.pins.phase = .trip ∧ t.chip.pins.thermTripN = true ∧ t.chip.rowsRun = false ∧ t.chip.rd (R.PWR_RAIL_SET_MV d.val) = 0
      ∧ t.chip.flash.reserve.any (fun r => r.pending && r.cause == 1 && r.zone == z.val && r.sensor == sensor.val && r.reading == reading.toNat) = true ∧ t.pending = s.pending)) ∧
  (∀ (z : Fin 144) (sensor : Fin 64) (reading : BitVec 16) (full : Bool) (s : State), Config.zoneKind z.val = .comb → s.chip.pins.phase = .running → 
    completes (.criticalTrip z sensor reading full) s (fun t => t.chip.on (R.LSU_COMB_SPACING_LOCK (z.val - 136)) = false ∧ t.chip.on (R.LSU_COMB_OFFSET_LOCK (z.val - 136)) = false ∧ onlyChip s t)) ∧
  (∀ (z : Fin 144) (sensor : Fin 64) (reading : BitVec 16) (full : Bool) (s : State), Config.zoneKind z.val ≠ .coolant →
    completes (.criticalTrip z sensor reading full) s (fun t => t = s.critical 1 z.val sensor.val reading.toNat full)) ∧
  (∀ (z : Fin 144) (sensor : Fin 64) (reading : BitVec 16) (full : Bool) (s : State), Config.zoneKind z.val = .coolant → 
    exec (.criticalTrip z sensor reading full) s = .next s) ∧
  (∀ (src : CmdSrc) (idx : BitVec 16) (x : Cmd) (r : TripRec) (s : State), cmdReady s.chip src idx 0x68 x → s.chip.flash.reserve = [r] → r.pending = true → r.seq = x.par 8 4 → 
    completes (.thmTripAck src idx) s (fun t => cmdEnded s t x stOK 0 0 ∧ t.chip.flash.reserve = [{ r with pending := false }] ∧ t.chip.rd R.THM_TRIP_PENDING = 0 ∧ t.chip.on R.THM_STATUS_PENDING_ACK = false ∧ regsSameBut s.chip t.chip [R.THM_TRIP, R.THM_STATUS] ∧ onlyChip s t)) ∧
  (∀ (src : CmdSrc) (idx : BitVec 16) (x : Cmd) (s : State), cmdReady s.chip src idx 0x68 x → s.chip.flash.reserve.any (fun r => r.pending && r.seq == x.par 8 4) = true →
    completes (.thmTripAck src idx) s (fun t => t.chip.flash.reserve = updFirst (fun r => r.pending && r.seq == x.par 8 4) (fun r => { r with pending := false }) s.chip.flash.reserve
      ∧ cmdEnded s t x stOK (t.chip.flash.reserve.filter (fun r => r.pending)).length 0 ∧ onlyChip s t)) ∧
  (∀ (src : CmdSrc) (idx : BitVec 16) (x : Cmd) (s : State), cmdReady s.chip src idx 0x68 x → s.chip.flash.reserve = [] → 
    completes (.thmTripAck src idx) s (fun t => cmdEnded s t x csINVALID 0 0 ∧ regsSameBut s.chip t.chip [] ∧ onlyChip s t)) ∧
  (∀ (src : CmdSrc) (idx : BitVec 16) (x : Cmd) (s : State), cmdReady s.chip src idx 0x69 x → 
    completes (.thmGet src idx) s (fun t => cmdEnded s t x stOK (s.chip.hottestZone + 65536 * s.chip.rd (R.THM_ZONE_T_HOT s.chip.hottestZone)) (s.chip.rd R.THM_COOLANT_INLET + 65536 * s.chip.rd R.THM_FLOW_FLOW) ∧ regsSameBut s.chip t.chip [] ∧ onlyChip s t)) ∧
  (∀ (s : State), 
    completes (.coolantWarn false) s (fun t => t.chip.on R.THM_STATUS_COOL_WARN = true ∧ t.chip.thm.hot = true ∧ regsSameBut s.chip t.chip [R.THM_STATUS] ∧ onlyChip s t)) ∧
  (∀ (s : State), s.chip.thm.lowFlow = false → 
    completes (.coolantWarn true) s (fun t => t.chip.on R.THM_STATUS_COOL_WARN = true ∧ t.chip.thm.lowFlow = true ∧ regsSameBut s.chip t.chip [R.THM_STATUS] ∧ onlyChip s t)) ∧
  (∀ (d : Fin 8) (s : State), s.chip.thm.lowFlow = true → s.chip.thm.ceils = [] → 0 < s.chip.rd (R.THM_CEIL_CEIL d.val) → s.chip.rd (R.THM_CEIL_CEIL d.val) ≤ s.chip.rd (R.PWR_DIE_MAX_POINT d.val) → 
    completes (.coolantWarn true) s (fun t => t.chip.rd (R.THM_CEIL_CEIL d.val) = s.chip.rd (R.THM_CEIL_CEIL d.val) - 1 ∧ onlyChip s t)) ∧
  (∀ (s : State), s.chip.thm.lowFlow = true →
    completes (.coolantWarn true) s (fun t => onlyChip s t ∧ t.chip = s.chip.each (List.range 8) (fun c d => c.lowerCeil (64 + d) d (c.rd (R.THM_CEIL_CEIL d) - 1) 5))) ∧
  (∀ (d : Fin 8) (s : State), s.chip.thm.ceils = [] → 0 < s.chip.rd (R.PWR_DIE_MAX_POINT d.val) → 
    completes .flowStop s (fun t => t.chip.on R.THM_STATUS_FLOW_STOP = true ∧ t.chip.inEmergency d.val = true ∧ t.chip.rd (R.PWR_DIE_ISSUE d.val) = 8 ∧ t.chip.rd (R.THM_CEIL_CEIL d.val) = 0 ∧ t.chip.thm.lowFlow = true ∧ onlyChip s t)) ∧
  (∀ (d : Fin 8) (s : State), completes .flowStop s (fun t => t.chip.on R.THM_STATUS_FLOW_STOP = true ∧ t.chip.inEmergency d.val = true ∧ t.chip.thm.lowFlow = true ∧ onlyChip s t)) ∧
  (∀ (s : State), 
    completes .flowRestored s (fun t => t.chip.on R.THM_STATUS_FLOW_STOP = false ∧ t.chip.thm.lowFlow = false ∧ t.chip.on R.THM_STATUS_COOL_WARN = s.chip.thm.hot ∧ t.chip.pwr.emergency = s.chip.pwr.emergency.filter (fun e => !(decide (e.1 < 8) && e.2 == .flow)) ∧ onlyChip s t))

/-- Control units and recorder (R532 to R551), and PART_FENCE (R463). -/
def Obligations.RecorderAndControlUnitCommandsComplete : Prop :=
  (∀ (e : Event) (es : List Event) (s : State), s.chip.tokenHeld = true → s.chip.captured = e :: es → s.chip.captureLost = 0 → s.chip.trigs e.code = [] → Ev.nonVolatile e.code = false → e.code ≠ Ev.volCleared → s.chip.evr.records = [] → s.chip.evr.frozen = none → 
    completes .eventRecord s (fun t => t.chip.captured = es ∧ t.chip.evr.records.map (fun r => (r.code, r.tenant, r.unit)) = [(e.code, e.tenant, e.unit)] ∧ t.chip.evr.records.map (fun r => (r.args, r.time)) = [(e.args, e.time)] ∧ regsSameBut s.chip t.chip [] ∧ onlyChip s t)) ∧
  (∀ (e : Event) (es : List Event) (s : State), s.chip.tokenHeld = true → s.chip.captured = e :: es →
    completes .eventRecord s (fun t => onlyChip s t ∧ t.chip = ({ s.chip.count R.EVR_LOST_VOL s.chip.captureLost with captureLost := 0, captured := es } : Chip).makeRecord e)) ∧
  (∀ (req : Requester) (v : BitVec 32) (s : State), writeAccepted s.chip req R.EVR_CTRL → v.getLsbD 31 = true → v.getLsbD 30 = false → s.chip.evr.frozen = none → 
    completes (.evrFreeze req v) s (fun t => t.chip.evr.frozen = some (s.chip.now + max 1 (s.chip.rd R.EVR_CFG_FREEZE_MAX) * 1000000000) ∧ t.chip.evr.records = s.chip.evr.records ∧ onlyChip s t)) ∧
  (∀ (req : Requester) (v : BitVec 32) (e : EventRec) (n : Nat) (s : State), writeAccepted s.chip req R.EVR_CTRL → v.getLsbD 31 = false → v.getLsbD 30 = true → s.chip.evr.frozen = some n → s.chip.evr.queue = [e] → e.code ≠ Ev.volCleared → s.chip.evr.records = [] → 
    completes (.evrUnfreeze req v) s (fun t => t.chip.evr.frozen = none ∧ t.chip.evr.queue = [] ∧ t.chip.evr.records = [e] ∧ onlyChip s t)) ∧
  (∀ (n : Nat) (s : State), s.chip.evr.frozen = some n → n ≤ s.chip.now → s.chip.evr.queue = [] → s.chip.captured = [] → 
    completes .freezeTimeout s (fun t => t.chip.evr.frozen = none ∧ t.chip.captured.map (fun e => e.code) = [Ev.freezeEnded] ∧ t.chip.evr.records = s.chip.evr.records ∧ regsSameBut s.chip t.chip [] ∧ onlyChip s t)) ∧
  (∀ (n : Nat) (s : State), s.chip.evr.frozen = some n → s.chip.reached n = true →
    completes .freezeTimeout s (fun t => t.chip = s.chip.thaw.event Ev.freezeEnded none 0 [] ∧ onlyChip s t)) ∧
  (∀ (req : Requester) (v : BitVec 32) (s : State), writeAccepted s.chip req R.EVR_CLEAR → v.getLsbD 31 = true → s.chip.evr.frozen = none → 
    completes (.evrClear req v) s (fun t => t.chip.evr.records.map (fun r => (r.code, r.args)) = [(Ev.volCleared, [s.chip.evr.records.length])] ∧ onlyChip s t)) ∧
  (∀ (req : Requester) (v : BitVec 32) (s : State), writeAccepted s.chip req R.EVR_NV_CLEAR → v.getLsbD 31 = true → s.chip.evr.records.length < 4095 → 
    completes (.evrNvClear req v) s (fun t => t.chip.flash.records.map (fun r => (r.code, r.args)) = [(Ev.nvCleared, [s.chip.flash.records.length])] ∧ t.chip.flash.reserve = s.chip.flash.reserve ∧ onlyChip s t)) ∧
  (∀ (s : State), s.chip.pins.pwrGood = true → 
    completes .opSecsSave s (fun t => t.chip.flash.secs = s.chip.opSecs ∧ regsSameBut s.chip t.chip [] ∧ onlyChip s t)) ∧
  (∀ (unit : Fin 2) (s : State), s.chip.rd R.PCU_LEASE_STATUS_HOLDER = unit.val → 
    completes (.leaseRenew unit true) s (fun t => t.chip.pcu.leaseUntil = s.chip.cycles + 16000 ∧ regsSameBut s.chip t.chip [] ∧ onlyChip s t)) ∧
  (∀ (unit : Fin 2) (s : State), 
    exec (.leaseRenew unit false) s = .next s) ∧
  (∀ (unit : Fin 2) (gap : BitVec 16) (s : State), s.chip.rd R.PCU_LEASE_STATUS_HOLDER = unit.val → s.chip.rd (R.PCU_UNIT_STATE (1 - unit.val)) = 3 → s.chip.on R.PCU_DEBUG_HOLD_EN = false → s.chip.sec.live = [] → s.chip.rowsRun = false ∨ s.chip.pcu.leaseUntil ≤ s.chip.cycles → 
    completes (.pcuLeaseExpiry true false gap 0) s (fun t => t.chip.rd R.PCU_LEASE_STATUS_HOLDER = 1 - unit.val ∧ t.chip.rd (R.PCU_UNIT_STATE (1 - unit.val)) = 4 ∧ t.chip.rd R.PCU_LEASE_LAST_CAUSE = 1 ∧ t.chip.rd R.PCU_LEASE_LAST_FROM = unit.val ∧ t.chip.sec.live.map (fun d => (d.unit, d.cause)) = [(unit.val, 1)] ∧ onlyChip s t)) ∧
  (∀ (beat halted : Bool) (gap bad : BitVec 16) (s : State), s.chip.tokenHeld = true → s.chip.on R.PCU_DEBUG_HOLD_EN = false → s.chip.reachedCycle s.chip.pcu.leaseUntil = true →
    completes (.pcuLeaseExpiry beat halted gap bad) s (fun t => t.chip = (s.chip.loseToken 1 halted).grantStandby (s.chip.rd R.PCU_LEASE_STATUS_HOLDER) beat gap.toNat bad.toNat ∧ onlyChip s t)) ∧
  (∀ (unit : Fin 2) (why : Fin 4) (gap : BitVec 16) (s : State), s.chip.rd R.PCU_LEASE_STATUS_HOLDER = unit.val → s.chip.rd (R.PCU_UNIT_STATE (1 - unit.val)) = 3 → s.chip.on R.PCU_DEBUG_HOLD_EN = false → s.chip.sec.live = [] → 
    completes (.leaseRelease why true gap 0) s (fun t => t.chip.rd R.PCU_LEASE_STATUS_HOLDER = 1 - unit.val ∧ t.chip.rd (R.PCU_UNIT_STATE (1 - unit.val)) = 4 ∧ t.chip.rd R.PCU_LEASE_LAST_CAUSE = why.val + 2 ∧ t.chip.rd R.PCU_LEASE_LAST_FROM = unit.val ∧ t.chip.sec.live.map (fun d => (d.unit, d.cause)) = [(unit.val, why.val + 2)] ∧ onlyChip s t)) ∧
  (∀ (why : Fin 4) (beat : Bool) (gap bad : BitVec 16) (s : State), s.chip.tokenHeld = true →
    completes (.leaseRelease why beat gap bad) s (fun t => t.chip = (s.chip.loseToken (why.val + 2) false).grantStandby (s.chip.rd R.PCU_LEASE_STATUS_HOLDER) beat gap.toNat bad.toNat ∧ onlyChip s t)) ∧
  (∀ (d : Fin 8) (s : State), s.chip.tokenHeld = false → s.chip.on R.PCU_DEBUG_HOLD_EN = false → s.chip.on R.PCU_LEASE_STATUS_NO_TOKEN = false → s.chip.rowsRun = false ∨ s.chip.pcu.lostAt + 2000000 * max 1 (s.chip.rd R.PCU_LEASE_CFG_NOPCU_MS) ≤ s.chip.cycles → 
    completes .noTokenTimeout s (fun t => t.chip.on R.PCU_LEASE_STATUS_NO_TOKEN = true ∧ t.chip.inEmergency d.val = true ∧ t.chip.rd (R.PWR_DIE_ISSUE d.val) = 8 ∧ onlyChip s t)) ∧
  (∀ (unit : Fin 2) (gap bad : BitVec 16) (s : State), s.chip.tokenHeld = true → s.chip.rd (R.PCU_UNIT_STATE unit.val) = 5 → 
    completes (.pcuStandbyReady unit true gap bad) s (fun t => t.chip.rd (R.PCU_UNIT_STATE unit.val) = 3 ∧ t.chip.rd R.PCU_LEASE_STATUS_HOLDER = s.chip.rd R.PCU_LEASE_STATUS_HOLDER ∧ onlyChip s t)) ∧
  (∀ (unit : Fin 2) (ok : Bool) (gap bad : BitVec 16) (s : State), s.chip.rd (R.PCU_UNIT_STATE unit.val) = 3 → s.chip.tokenHeld = false → s.chip.on R.PCU_DEBUG_HOLD_EN = false →
    completes (.pcuStandbyReady unit ok gap bad) s (fun t => t.chip = s.chip.takeToken unit.val gap.toNat bad.toNat ∧ onlyChip s t)) ∧
  (∀ (unit : Fin 2) (gap bad : BitVec 16) (s : State), s.chip.rd (R.PCU_UNIT_STATE unit.val) = 5 → s.chip.tokenHeld = false → s.chip.on R.PCU_DEBUG_HOLD_EN = false →
    completes (.pcuStandbyReady unit true gap bad) s (fun t => t.chip = ((s.chip.setUnit unit.val 3).event Ev.unitReady none (Unit.pcu unit.val) [unit.val]).takeToken unit.val gap.toNat bad.toNat ∧ onlyChip s t)) ∧
  (∀ (unit : Fin 2) (gap bad : BitVec 16) (s : State), s.chip.rd (R.PCU_UNIT_STATE unit.val) = 5 →
    completes (.pcuStandbyReady unit false gap bad) s (fun t => t.chip = s.chip.restartUnit unit.val ∧ onlyChip s t)) ∧
  (∀ (req : Requester) (v : BitVec 32) (s : State), writeAccepted s.chip req R.PCU_DEBUG_HOLD → v.getLsbD 31 = true → s.chip.on R.PCU_DEBUG_HOLD_EN = false → 
    completes (.debugHoldWrite req v) s (fun t => t.chip.on R.PCU_DEBUG_HOLD_EN = true ∧ t.chip.pcu.leaseUntil = s.chip.pcu.leaseUntil ∧ onlyChip s t)) ∧
  (∀ (req : Requester) (v : BitVec 32) (s : State), writeAccepted s.chip req R.PCU_DEBUG_HOLD → v.getLsbD 31 = false → s.chip.on R.PCU_DEBUG_HOLD_EN = true → 
    completes (.debugHoldWrite req v) s (fun t => t.chip.on R.PCU_DEBUG_HOLD_EN = false ∧ t.chip.pcu.holdBy = none ∧ t.chip.pcu.leaseUntil = s.chip.cycles + 16000 ∧ onlyChip s t)) ∧
  (∀ (idx : BitVec 16) (x : Cmd) (d : Fin 2) (k : Fin 96) (s : State), cmdReady s.chip .admin idx 0x59 x → x.par 8 4 = Unit.hart d.val k.val → s.chip.rd (R.CPU_CORE_STATE_STATE d.val k.val) ≠ 4 → 
    completes (.partFence .admin idx) s (fun t => t.chip.rd (R.CPU_CORE_STATE_STATE d.val k.val) = 4 ∧ (t.chip.cmd.cmds.find? (fun y => y.src == .admin && y.idx == idx.toNat)).map (fun y => y.result) = some (some (stOK, 0, 0)) ∧ t.chip.reports.length = s.chip.reports.length + 1 ∧ onlyChip s t)) ∧
  (∀ (idx : BitVec 16) (x : Cmd) (c : Chip) (s : State), cmdReady s.chip .admin idx 0x59 x → (((s.begun x).chip.setCmd x.begun { x.begun with committed := true }).fenceUnit (x.par 8 4)) = some c →
    completes (.partFence .admin idx) s (fun t => t.chip = (c.event Ev.partFence none (x.par 8 4) [x.par 8 4]).endCmd x.begun stOK 0 0 ∧ onlyChip s t)) ∧
  (∀ (idx : BitVec 16) (x : Cmd) (s : State), cmdReady s.chip .admin idx 0x59 x → x.par 8 4 = 0 → 
    completes (.partFence .admin idx) s (fun t => cmdEnded s t x csINVALID 0 0 ∧ regsSameBut s.chip t.chip [] ∧ onlyChip s t))

/-- Sessions and keys (R433 to R437). -/
def Obligations.SecurityCommandsComplete : Prop :=
  (∀ (req : Requester) (v : BitVec 32) (w : Fin 24) (i : Fin 12) (s : State), writeAccepted s.chip req R.SEC_AUTH_CTRL → v.toNat / 2 ^ 29 = 4 → 
    completes (.authChallenge req v) s (fun t => t.chip.word (R.SEC_SIG w.val) = 0 ∧ t.chip.word (R.SEC_NONCE i.val) = BitVec.ofNat 32 (Config.nonceWord s.chip.drawn i.val) ∧ t.chip.sec.nonceUntil = some (s.chip.now + 60000000000) ∧ t.chip.rd R.SEC_AUTH_RESULT_STATUS = 1 ∧ onlyChip s t)) ∧
  (∀ (req : Requester) (v : BitVec 32) (n : Fin 4) (s : State), writeAccepted s.chip req R.SEC_AUTH_CTRL → v.toNat / 2 ^ 29 = 2 → req ≠ .mgmt → authFieldsGood (v.toNat / 2 ^ 27 % 4) (v.toNat / 2 ^ 25 % 4) (fget v.toNat 24 13) = true → s.chip.sec.lockedUntil = some 5 → 
    completes (.authVerify req v) s (fun t => t.chip.rd R.SEC_AUTH_RESULT_STATUS = 5 ∧ t.chip.word (R.SEC_SESSION n.val) = s.chip.word (R.SEC_SESSION n.val) ∧ onlyChip s t)) ∧
  (∀ (req : Requester) (v : BitVec 32) (n : Fin 4) (s : State), writeAccepted s.chip req R.SEC_AUTH_CTRL → v.toNat / 2 ^ 29 = 2 → req ≠ .mgmt → authFieldsGood (v.toNat / 2 ^ 27 % 4) (v.toNat / 2 ^ 25 % 4) (fget v.toNat 24 13) = true → s.chip.sec.lockedUntil = none → s.chip.sec.nonceUntil = none → 
    completes (.authVerify req v) s (fun t => t.chip.rd R.SEC_AUTH_RESULT_STATUS = 4 ∧ t.chip.word (R.SEC_SESSION n.val) = s.chip.word (R.SEC_SESSION n.val) ∧ onlyChip s t)) ∧
  (∀ (req : Requester) (v : BitVec 32) (n : Fin 4) (s : State), writeAccepted s.chip req R.SEC_AUTH_CTRL → v.toNat / 2 ^ 29 = 2 → req ≠ .mgmt → (v.toNat / 2 ^ 27 % 4) = 3 → 
    completes (.authVerify req v) s (fun t => t.chip.rd R.SEC_AUTH_RESULT_STATUS = 9 ∧ t.chip.word (R.SEC_SESSION n.val) = s.chip.word (R.SEC_SESSION n.val) ∧ t.chip.sec.nonceUntil = s.chip.sec.nonceUntil ∧ onlyChip s t)) ∧
  (∀ (req : Requester) (v : BitVec 32) (key : List Nat) (n : Nat) (s : State), writeAccepted s.chip req R.SEC_AUTH_CTRL → v.toNat / 2 ^ 29 = 2 → req ≠ .mgmt → (v.toNat / 2 ^ 27 % 4) = 1 → authFieldsGood 1 (v.toNat / 2 ^ 25 % 4) (fget v.toNat 24 13) = true → s.chip.sec.lockedUntil = none → s.chip.sec.nonceUntil = some n → s.chip.now < n → s.chip.flash.keys = [(0, key)] → s.chip.sec.fails = [] → (List.range 4).all (fun i => !s.chip.on (R.SEC_SESSION_VALID i)) = true → 
    completes (.authVerify req v) s (fun t => (Config.signatureOk key (s.chip.authMessage 1 (v.toNat / 2 ^ 25 % 4) (fget v.toNat 24 13)) (s.chip.wordBytes R.SEC_SIG 24) = true →
        t.chip.on (R.SEC_SESSION_VALID 0) = true ∧ t.chip.rd (R.SEC_SESSION_ROLE 0) = 1 ∧ t.chip.rd (R.SEC_SESSION_BIND 0) = (v.toNat / 2 ^ 25 % 4) ∧ t.chip.rd R.SEC_AUTH_RESULT_STATUS = 2)
      ∧ (Config.signatureOk key (s.chip.authMessage 1 (v.toNat / 2 ^ 25 % 4) (fget v.toNat 24 13)) (s.chip.wordBytes R.SEC_SIG 24) = false → t.chip.sec.fails = [s.chip.now] ∧ t.chip.on (R.SEC_SESSION_VALID 0) = false ∧ t.chip.rd R.SEC_AUTH_RESULT_STATUS = 3)
      ∧ t.chip.sec.nonceUntil = none ∧ onlyChip s t)) ∧
  (∀ (u : Fin 2) (v : BitVec 32) (n : Fin 4) (s : State), writeAccepted s.chip (.pcu u) R.SEC_AUTH_CTRL → v.toNat / 2 ^ 29 = 1 → v.toNat / 2 ^ 11 % 4 = n.val → s.chip.on (R.SEC_SESSION_VALID n.val) = true → 
    completes (.authDrop (.pcu u) v) s (fun t => t.chip.on (R.SEC_SESSION_VALID n.val) = false ∧ t.chip.rd R.SEC_AUTH_RESULT_STATUS = 8 ∧ onlyChip s t)) ∧
  (∀ (n : Fin 4) (u : Nat) (s : State), s.chip.sec.ends = [(n.val, u)] → u ≤ s.chip.now → s.chip.on (R.SEC_SESSION_VALID n.val) = true → 
    completes (.sessionExpiry n) s (fun t => t.chip.on (R.SEC_SESSION_VALID n.val) = false ∧ t.chip.sec.ends = [] ∧ onlyChip s t)) ∧
  (∀ (n : Fin 4) (u : Nat) (s : State), getKey n.val s.chip.sec.ends = some u → s.chip.reached u = true →
    completes (.sessionExpiry n) s (fun t => t.chip = s.chip.endSession n.val Ev.sessionExpired ∧ onlyChip s t)) ∧
  (∀ (w : Fin 12) (u : Nat) (s : State), s.chip.sec.nonceUntil = some u → u ≤ s.chip.now → 
    completes .nonceExpiry s (fun t => t.chip.sec.nonceUntil = none ∧ t.chip.word (R.SEC_NONCE w.val) = 0 ∧ onlyChip s t)) ∧
  (∀ (u : Nat) (s : State), s.chip.sec.lockedUntil = some u → u ≤ s.chip.now → 
    completes .lockoutExpiry s (fun t => t.chip.sec.lockedUntil = none ∧ regsSameBut s.chip t.chip [] ∧ onlyChip s t)) ∧
  (∀ (u : Nat) (s : State), s.chip.sec.lockedUntil = some u → s.chip.rowsRun = true → s.chip.now < u → 
    exec .lockoutExpiry s = .next s) ∧
  (∀ (src : CmdSrc) (idx : BitVec 16) (x : Cmd) (s : State), cmdReady s.chip src idx 0x79 x → s.chip.cmdRole src = .installer → x.par 8 1 ≤ 1 → s.chip.viewStatus x.partition (x.par 16 8) 96 = stOK → s.chip.viewObstacle x.partition (x.par 16 8) 96 false = none → 
    completes (.secKeySet src idx) s (fun t => (Config.pointOnCurve (s.viewBytes x.partition (x.par 16 8) 96) = true → cmdEnded s t x stOK 0 0 ∧ t.chip.flash.keys = putKey (x.par 8 1) (s.viewBytes x.partition (x.par 16 8) 96) s.chip.flash.keys)
      ∧ (Config.pointOnCurve (s.viewBytes x.partition (x.par 16 8) 96) = false → cmdEnded s t x csINVALID 0 0 ∧ t.chip.flash = s.chip.flash) ∧ regsSameBut s.chip t.chip [] ∧ onlyChip s t)) ∧
  (∀ (src : CmdSrc) (idx : BitVec 16) (x : Cmd) (s : State), cmdReady s.chip src idx 0x79 x → s.chip.cmdRole src = .installer → 1 < x.par 8 1 → 
    completes (.secKeySet src idx) s (fun t => cmdEnded s t x csINVALID 0 0 ∧ t.chip.flash = s.chip.flash ∧ regsSameBut s.chip t.chip [] ∧ onlyChip s t))

/-- Cast-on and bind-off (R438 to R447). -/
def Obligations.CastOnAndBindOffCommandsComplete : Prop :=
  (∀ (o : CastOutcome) (s : State), s.chip.pins.phase = .held → s.chip.pins.pwrGood = true → s.chip.pins.vio = true → s.chip.pins.resetN = false → o.ok = true → s.chip.rd R.EVR_POWER_CYCLES_COUNT < 2 ^ 32 - 1 → 
    completes (.castOn 1 o) s (fun t => t.mem = [] ∧ t.chip.pins.phase = .castOn ∧ t.chip.rd R.PCU_CASTON_STEP = 1 ∧ t.chip.rd R.EVR_POWER_CYCLES_COUNT = s.chip.rd R.EVR_POWER_CYCLES_COUNT + 1
      ∧ t.chip.flash.cycles = s.chip.rd R.EVR_POWER_CYCLES_COUNT + 1 ∧ t.chip.rowsRun = false ∧ t.pending = s.pending)) ∧
  (∀ (o : CastOutcome) (s : State), s.chip.mayCast 2 = true → o.ok = true → 
    completes (.castOn 2 o) s (fun t => t.chip.rd R.PCU_CASTON_STEP = 2 ∧ t.chip.pins.faultN = (s.chip.pins.faultN && !s.chip.sec.release) ∧ regsSameBut s.chip t.chip [R.PCU_CASTON] ∧ onlyChip s t)) ∧
  (∀ (o : CastOutcome) (s : State), s.chip.mayCast 2 = true → o.ok = false → s.chip.on R.PCU_BOOT_STATUS_TRIAL = false → 
    completes (.castOn 2 o) s (fun t => t.chip.rd R.PCU_CASTON_FAILED = 2 ∧ t.chip.rd R.PCU_CASTON_STEP = s.chip.rd R.PCU_CASTON_STEP ∧ t.chip.pins.pkgReady = false ∧ t.chip.pins.faultN = true ∧ onlyChip s t)) ∧
  (∀ (r : Fin 94) (o : CastOutcome) (s : State), s.chip.mayCast 5 = true → o.ok = true → s.chip.clk.fabLost = [] → 
    completes (.castOn 5 o) s (fun t => t.chip.rd R.PCU_CASTON_STEP = 5 ∧ t.chip.row = 0 ∧ t.chip.cyc = 0 ∧ t.chip.rowsRun = true ∧ t.chip.rd (R.CLK_REGION_SRC r.val) = 0 ∧ t.chip.on (R.CLK_REGION_LOCK r.val) = true ∧ onlyChip s t)) ∧
  (∀ (o : CastOutcome) (s : State), s.chip.mayCast 12 = true → s.chip.time.step = none → 
    completes (.castOn 12 o) s (fun t => t.chip.rd R.PCU_CASTON_STEP = 12 ∧ t.chip.pins.phase = .running ∧ t.chip.pins.pkgReady = true ∧ t.chip.pins.faultN = false ∧ t.chip.on R.PCU_BOOT_STATUS_TRIAL = false ∧ onlyChip s t)) ∧
  (∀ (n : Fin 13) (o : CastOutcome) (s : State), 2 ≤ n.val → s.chip.mayCast n.val = false → 
    exec (.castOn n o) s = .next s) ∧
  (∀ (s : State), s.chip.mayCast 11 = true → s.chip.sec.portsAt + 1000000000 * min 53 (s.chip.rd R.PCU_CASTON_CFG_PORT_WAIT) ≤ s.chip.now → (List.range 16).all (s.chip.portSettled true) = true → 
    completes .portWaitTimeout s (fun t => t.chip.rd R.PCU_CASTON_STEP = 11 ∧ onlyChip s t)) ∧
  (∀ (s : State), s.chip.mayCast 11 = true → s.chip.reached (s.chip.sec.portsAt + 1000000000 * min 53 (s.chip.rd R.PCU_CASTON_CFG_PORT_WAIT)) = true → (List.range 16).all (s.chip.portSettled true) = true →
    completes .portWaitTimeout s (fun t => t.chip = s.chip.portsDone ∧ onlyChip s t)) ∧
  (∀ (s : State), s.chip.mayCast 3 = true → s.chip.sec.booted = false → s.chip.flash.slotA = [] → s.chip.flash.slotB = [] → s.chip.flash.order.first = 0 → s.chip.on R.PCU_BOOT_STATUS_TRIAL = false → 
    completes .bootRomStart s (fun t => t.chip.pins.phase = .recovery ∧ t.chip.rd R.PCU_CASTON_FAILED = 3 ∧ t.chip.rd R.PCU_BOOT_STATUS_RESULT_A = 1 ∧ t.chip.rd R.PCU_BOOT_STATUS_RESULT_B = 1 ∧ t.chip.sec.booted = false ∧ onlyChip s t)) ∧
  (∀ (s : State), s.chip.mayCast 3 = true → s.chip.sec.booted = false → 
    completes .bootRomStart s (fun t => (s.chip.flash.order.first = 1 ∧ s.chip.flash.slotResult 1 = 0 → t.chip.sec.booted = true ∧ t.chip.rd R.PCU_BOOT_STATUS_SLOT = 1 ∧ t.chip.on R.PCU_BOOT_STATUS_TRIAL = s.chip.flash.order.trial ∧ t.chip.rd R.PCU_BOOT_STATUS_RESULT_B = 0) ∧ onlyChip s t)) ∧
  (∀ (s : State), s.chip.pins.phase = .castOn → s.chip.on R.PCU_BOOT_STATUS_TRIAL = true → 
    completes .trialWatchdog s (fun t => t.chip.pins.phase = .held ∧ t.chip.on R.PCU_BOOT_STATUS_TRIAL = false ∧ t.chip.flash.order = ⟨1 - s.chip.rd R.PCU_BOOT_STATUS_SLOT, false, s.chip.flash.order.seq + 1⟩ ∧ t.chip.sec.booted = false ∧ onlyChip s t)) ∧
  (∀ (s : State), s.chip.pins.phase = .safe → s.chip.clk.absent = false → s.chip.sec.booted = true → 
    completes .warmCastOn s (fun t => t.mem = [] ∧ t.chip.pins.phase = .castOn ∧ t.chip.rd R.PCU_CASTON_STEP = 3 ∧ t.chip.on R.PCU_CASTON_WARM = true ∧ t.chip.on R.CLK_STATUS_REFCLK_OK = true ∧ t.pending = s.pending)) ∧
  (∀ (s : State), s.chip.pins.phase = .safe → s.chip.clk.absent = false → s.chip.sec.booted = true →
    completes .warmCastOn s (fun t => t = s.castReset true)) ∧
  (∀ (s : State), s.chip.pins.phase = .safe → s.chip.clk.absent = false → s.chip.sec.booted = false → 
    completes .warmCastOn s (fun t => t.chip.pins.phase = .held ∧ regsSameBut s.chip t.chip [] ∧ onlyChip s t)) ∧
  (∀ (src : CmdSrc) (idx : BitVec 16) (x : Cmd) (s : State), cmdReady s.chip src idx 0x80 x → s.chip.cmd.binding = none → 
    completes (.bindOff src idx) s (fun t => t.chip.cmd.binding = some ⟨s.chip.now, x.par 8 2, x.par 10 2, 1, 0, false⟩ ∧ cmdEnded s t x stOK 0 0 ∧ regsSameBut s.chip t.chip [] ∧ onlyChip s t)) ∧
  (∀ (src : CmdSrc) (idx : BitVec 16) (x : Cmd) (s : State), cmdReady s.chip src idx 0x81 x → s.chip.cmd.binding = none → 
    completes (.pkgReset src idx) s (fun t => t.chip.cmd.binding = some ⟨s.chip.now, x.par 8 2, x.par 10 2, 2, 0, true⟩ ∧ cmdEnded s t x stOK 0 0 ∧ regsSameBut s.chip t.chip [] ∧ onlyChip s t)) ∧
  (∀ (src : CmdSrc) (idx : BitVec 16) (x : Cmd) (s : State), cmdReady s.chip src idx 0x7E x → s.chip.cmd.binding = none → x.par 8 1 = 1 → 
    completes (.fwActivate src idx) s (fun t => t.chip.cmd.binding = some ⟨s.chip.now, 0, 0, 3, 0, true⟩ ∧ cmdEnded s t x stOK 0 0 ∧ regsSameBut s.chip t.chip [] ∧ onlyChip s t)) ∧
  (∀ (src : CmdSrc) (idx : BitVec 16) (x : Cmd) (s : State), cmdReady s.chip src idx 0x7E x → s.chip.tenantOn 1 = true → x.par 8 1 = 0 → 
    completes (.fwActivate src idx) s (fun t => cmdEnded s t x csBUSY 0 0 ∧ t.chip.cmd.binding = s.chip.cmd.binding ∧ regsSameBut s.chip t.chip [] ∧ onlyChip s t)) ∧
  (∀ (b : BindOff) (s : State), s.chip.cmd.binding = some b → b.phase = 0 → s.chip.busyParts = [] → 
    completes .bindOffGraceExpiry s (fun t => t.chip.cmd.binding = some { b with phase := 1, since := s.chip.now } ∧ t.chip.hio.meip = s.chip.liveHarts ∧ onlyChip s t)) ∧
  (∀ (b : BindOff) (s : State), s.chip.cmd.binding = some b → b.phase = 0 → s.chip.reached (b.since + 1000000000 * b.grace) = true ∨ s.chip.busyParts = [] →
    completes .bindOffGraceExpiry s (fun t => (t.chip.cmd.binding).map (fun y => (y.phase, y.reason, y.restart)) = some (1, b.reason, b.restart) ∧ onlyChip s t)) ∧
  (∀ (b : BindOff) (d : Fin 10) (s : State), s.chip.cmd.binding = some b → b.phase = 1 → b.since + 1000000000 * b.wait ≤ s.chip.now → b.since + 66 * 1024 ≤ s.chip.now → 
    completes .bindOffHostWaitExpiry s (fun t => t.chip.cmd.binding = none ∧ t.chip.pins.phase = (if b.restart then .held else .rest) ∧ t.chip.pins.pkgReady = false ∧ t.chip.rowsRun = false ∧ t.chip.rd (R.PWR_RAIL_SET_MV d.val) = 0 ∧ t.chip.rd (R.LSU_COMB_STATE 0) = 0 ∧ t.chip.rd (R.LSU_COMB_STATE 1) = 0 ∧ t.chip.flash.secs = s.chip.opSecs ∧ onlyChip s t)) ∧
  (∀ (n : Fin 13) (o : CastOutcome) (u : State) (s : State), 2 ≤ n.val → s.chip.mayCast n.val = true → s.castStep n.val o = some (u, true) →
    completes (.castOn n o) s (fun t => t = u.onChip (fun c => c.castDone n.val))) ∧
  (∀ (n : Fin 13) (o : CastOutcome) (u : State) (s : State), 4 ≤ n.val → s.chip.mayCast n.val = true → s.castStep n.val o = some (u, false) →
    completes (.castOn n o) s (fun t => t = u.onChip (fun c => c.castFail n.val)))

/-- The contacts (R561 to R584). -/
def Obligations.ContactCommandsComplete : Prop :=
  (∀ (a : Fin 4) (long : Bool) (s : State), s.chip.pins.pwrGood = false → s.chip.pins.phase ≠ .trip → 
    completes (.pwrGoodRise a long) s (fun t => t.chip.pins.phase = .held ∧ t.chip.pins.pwrGood = true ∧ t.chip.pins.vio = true ∧ t.chip.pins.addr = a.val ∧ t.chip.sec.release = true ∧ regsSameBut s.chip t.chip [] ∧ onlyChip s t)) ∧
  (∀ (a : Fin 4) (s : State), s.chip.pins.pwrGood = false → s.chip.pins.phase = .trip → 
    completes (.pwrGoodRise a false) s (fun t => t.chip.pins.phase = .trip ∧ t.chip.pins.pwrGood = true ∧ regsSameBut s.chip t.chip [] ∧ onlyChip s t)) ∧
  (∀ (a : Fin 4) (s : State), s.chip.pins.pwrGood = false → s.chip.pins.phase = .trip → 
    completes (.pwrGoodRise a true) s (fun t => t.chip.pins.phase = .held ∧ t.chip.pins.pwrGood = true ∧ t.chip.flash = s.chip.flash ∧ t.chip.rd R.EVR_POWER_CYCLES_COUNT = s.chip.flash.cycles % 2 ^ 32 ∧ onlyChip s t)) ∧
  (∀ (s : State), s.chip.pins.pwrGood = true → s.chip.pins.phase = .running → 
    completes .pwrGoodFall s (fun t => t.mem = [] ∧ t.chip.pins.phase = .off ∧ t.chip.pins.pwrGood = false ∧ t.chip.rowsRun = false ∧ t.chip.xport = {} ∧ t.pending = s.pending)) ∧
  (∀ (s : State), s.chip.pins.pwrGood = true → s.chip.pins.phase = .trip → 
    completes .pwrGoodFall s (fun t => t.chip.pins.phase = .trip ∧ t.chip.pins.thermTripN = false ∧ t.chip.pins.pwrGood = false ∧ regsSameBut s.chip t.chip [] ∧ onlyChip s t)) ∧
  (∀ (s : State), s.chip.pins.pwrGood = true → s.chip.pins.phase ≠ .trip → 
    completes .pkgResetAssert s (fun t => t.mem = [] ∧ t.chip.pins.resetN = true ∧ t.chip.pins.phase = .held ∧ t.chip.pins.pkgReady = false ∧ t.chip.rowsRun = false ∧ t.chip.sec.booted = false ∧ t.pending = s.pending)) ∧
  (∀ (s : State), s.chip.pins.pwrGood = false → 
    completes .pkgResetAssert s (fun t => t.chip.pins = { s.chip.pins with resetN := true } ∧ regsSameBut s.chip t.chip [] ∧ onlyChip s t)) ∧
  (∀ (s : State), 
    completes .pkgResetRelease s (fun t => t.chip.pins = { s.chip.pins with resetN := false } ∧ regsSameBut s.chip t.chip [] ∧ onlyChip s t)) ∧
  (∀ (s : State), s.chip.pins.pwrGood = true → s.chip.pins.phase = .running → 
    completes .vioLoss s (fun t => t.mem = [] ∧ t.chip.pins.vio = false ∧ t.chip.pins.phase = .powerFail ∧ t.pending = s.pending)) ∧
  (∀ (s : State), s.chip.pins.pwrGood = false → 
    completes .vioLoss s (fun t => t.chip.pins = { s.chip.pins with vio := false } ∧ regsSameBut s.chip t.chip [] ∧ onlyChip s t)) ∧
  (∀ (r : Fin 16) (s : State), getKey r.val s.chip.pins.present = none → 
    completes (.prsntChange r true) s (fun t => getKey r.val t.chip.pins.present = some s.chip.now ∧ regsSameBut s.chip t.chip [] ∧ onlyChip s t)) ∧
  (∀ (r : Fin 16) (s : State), s.chip.rd (R.HIO_PORT_STATUS_STATE r.val) ≠ 2 → 
    completes (.prsntChange r false) s (fun t => t.chip.pins.present = delKey r.val s.chip.pins.present ∧ t.chip.pins.released.contains r.val = false ∧ regsSameBut s.chip t.chip [] ∧ onlyChip s t)) ∧
  (∀ (r : Fin 16) (s : State), completes (.prsntChange r false) s (fun t => onlyChip s t
      ∧ t.chip = (s.chip.surpriseDown r.val).onPins (fun p => { p with present := delKey r.val p.present, released := p.released.filter (fun x => x != r.val) }))) ∧
  (∀ (r : Fin 16) (s : State), s.chip.perstMayRise r.val = true → s.chip.pins.released.contains r.val = false → 
    completes (.perstRelease r) s (fun t => t.chip.pins.released = s.chip.pins.released ++ [r.val] ∧ regsSameBut s.chip t.chip [] ∧ onlyChip s t)) ∧
  (∀ (off v : BitVec 32) (s : State), s.chip.pins.phase = .running → s.chip.pins.vio = true → 
    completes (.mgmtRead off false) s (fun t => t.chip.acc.answer = some ⟨.mgmt, mgPEC, 0⟩ ∧ regsSameBut s.chip t.chip [] ∧ onlyChip s t) ∧ completes (.mgmtWrite off v false) s (fun t => t.chip.acc.answer = some ⟨.mgmt, mgPEC, 0⟩ ∧ regsSameBut s.chip t.chip [] ∧ onlyChip s t)) ∧
  (∀ (off v : BitVec 32) (s : State), s.chip.pins.phase = .running → s.chip.pins.vio = true → s.chip.tokenHeld = false → s.chip.pcu.lostAt + 200000 ≤ s.chip.cycles → 
    completes (.mgmtRead off true) s (fun t => t.chip.acc.answer = some ⟨.mgmt, mgBUSY, 0⟩ ∧ regsSameBut s.chip t.chip [] ∧ onlyChip s t) ∧ completes (.mgmtWrite off v true) s (fun t => t.chip.acc.answer = some ⟨.mgmt, mgBUSY, 0⟩ ∧ regsSameBut s.chip t.chip [] ∧ onlyChip s t)) ∧
  (∀ (off : BitVec 32) (r : RegDesc) (is : List Nat) (s : State), s.chip.pins.phase = .running → s.chip.pins.vio = true → s.chip.tokenHeld = true → s.chip.word R.PCU_BUS_ERR = 0 → findReg off.toNat = some (r, is) → sideEffect r.base = false → r.base ∉ [R.DBG_MIRROR_SEL, R.DBG_MIRROR_DATA, R.DBG_MIRROR_STATUS] → ¬ (R.SYN_OBJ_W0_LO < r.base ∧ r.base ≤ R.SYN_OBJ_W1_HI) → loBases.contains (r.base - 4) = false → r.flds.all (fun f => f.acc != .rc) = true → readAccepted s.chip .mgmt off.toNat → 
    completes (.mgmtRead off true) s (fun t => t.chip.acc.answer = some ⟨.mgmt, mgOK, s.chip.viewWord off.toNat⟩ ∧ regsSameBut s.chip t.chip [] ∧ onlyChip s t)) ∧
  (∀ (off : BitVec 32) (pec : Bool) (s : State), completes (.mgmtRead off pec) s (fun t => t.chip = s.chip.mgmtRequest pec (fun c => c.waitEmu .mgmt off.toNat false 0) (fun c => c.mgmtNow off.toNat false 0) ∧ onlyChip s t)) ∧
  (∀ (off v : BitVec 32) (r : RegDesc) (is : List Nat) (f : Fld) (s : State), s.chip.pins.phase = .running → s.chip.pins.vio = true → s.chip.tokenHeld = true → s.chip.word R.PCU_BUS_ERR = 0 → findReg off.toNat = some (r, is) → r.flds = [f] → f.acc = .rw → f.cls = .l → f.lo ≤ f.hi → f.hi < 32 → r.role = .operator → s.chip.hookOf .mgmt r is v.toNat = .plain → aliasOff off.toNat = false → windowOff off.toNat = false → writeAccepted s.chip .mgmt off.toNat → 
    completes (.mgmtWrite off v true) s (fun t => t.chip.acc.answer = some ⟨.mgmt, mgOK, 0⟩ ∧ t.chip.rd ⟨off.toNat, f.hi, f.lo⟩ = fget v.toNat f.hi f.lo ∧ regsSameBut s.chip t.chip [off.toNat] ∧ onlyChip s t)) ∧
  (∀ (off v : BitVec 32) (pec : Bool) (s : State), completes (.mgmtWrite off v pec) s (fun t => t.chip = s.chip.mgmtRequest pec (fun c => c.waitEmu .mgmt off.toNat true v.toNat) (fun c => c.mgmtNow off.toNat true v.toNat) ∧ onlyChip s t)) ∧
  (∀ (off : BitVec 32) (bytes : List (BitVec 8)) (s : State), s.chip.pins.phase = .recovery → s.chip.pins.vio = true → bytes ≠ [] → bytes.length ≤ 240 → 
    completes (.recoveryWrite off bytes true) s (fun t => t.chip.acc.answer = some ⟨.mgmt, mgOK, 0⟩ ∧ t.chip.sec.image = memWrite s.chip.sec.image off.toNat (bytes.map BitVec.toNat) ∧ regsSameBut s.chip t.chip [] ∧ onlyChip s t)) ∧
  (∀ (off : BitVec 32) (bytes : List (BitVec 8)) (pec : Bool) (s : State), bytes.isEmpty = false → bytes.length ≤ 240 →
    completes (.recoveryWrite off bytes pec) s (fun t => t.chip = s.chip.romRequest pec (fun c => (c.collect off.toNat bytes).mgmtAnswer mgOK 0) ∧ onlyChip s t)) ∧
  (∀ (off : BitVec 32) (bytes : List (BitVec 8)) (len : BitVec 32) (s : State), s.chip.pins.phase = .running → s.chip.pins.vio = true → bytes ≠ [] → bytes.length ≤ 240 → 
    completes (.recoveryWrite off bytes true) s (fun t => t.chip.acc.answer = some ⟨.mgmt, mgNOT_RECOVERY, 0⟩ ∧ t.chip.sec = s.chip.sec ∧ regsSameBut s.chip t.chip [] ∧ onlyChip s t) ∧ completes (.recoveryEnd len true) s (fun t => t.chip.acc.answer = some ⟨.mgmt, mgNOT_RECOVERY, 0⟩ ∧ t.chip.sec = s.chip.sec ∧ regsSameBut s.chip t.chip [] ∧ onlyChip s t)) ∧
  (∀ (len : BitVec 32) (s : State), s.chip.pins.phase = .recovery → s.chip.pins.vio = true → s.chip.sec.image = [] → 
    completes (.recoveryEnd len true) s (fun t => t.chip.acc.answer = some ⟨.mgmt, mgIMAGE, 1⟩ ∧ t.chip.rd R.PCU_BOOT_STATUS_RESULT_A = 1 ∧ t.chip.flash = s.chip.flash ∧ t.chip.pins.phase = .recovery ∧ onlyChip s t)) ∧
  (∀ (len : BitVec 32) (pec : Bool) (s : State), completes (.recoveryEnd len pec) s (fun t => t.chip = s.chip.romRequest pec (fun c => c.recoveryEnd len.toNat) ∧ onlyChip s t)) ∧
  (∀ (arg : BitVec 16) (s : State), s.chip.pins.phase = .running → s.chip.pins.vio = true → 
    completes (.i3cCcc 0x87 arg) s (fun t => t.chip.pins.dynamic = some (arg.toNat % 128) ∧ regsSameBut s.chip t.chip [] ∧ onlyChip s t) ∧ completes (.i3cCcc 0x06 arg) s (fun t => t.chip.pins.dynamic = none ∧ regsSameBut s.chip t.chip [] ∧ onlyChip s t)) ∧
  (∀ (ccc : BitVec 8) (arg : BitVec 16) (s : State), s.chip.pins.phase ≠ .off → s.chip.pins.phase ≠ .held → s.chip.pins.vio = true →
    completes (.i3cCcc ccc arg) s (fun t => t.chip = s.chip.i3cCode ccc.toNat arg.toNat ∧ onlyChip s t)) ∧
  (∀ (cells : BitVec 64) (s : State), s.chip.pins.vio = true → s.chip.pins.resetN = true ∨ s.chip.pins.pwrGood = false → 
    completes (.jtagExtest cells) s (fun t => t.chip.pins.instruction = 0 ∧ t.chip.pins.boundary = cells.toNat ∧ regsSameBut s.chip t.chip [] ∧ onlyChip s t) ∧ completes (.jtagSamplePreload cells) s (fun t => t.chip.pins.instruction = 2 ∧ t.chip.pins.boundary = cells.toNat ∧ regsSameBut s.chip t.chip [] ∧ onlyChip s t)) ∧
  (∀ (cells : BitVec 64) (s : State), completes (.jtagSamplePreload cells) s (fun t => t.chip = s.chip.scan 0x02 cells.toNat ∧ onlyChip s t)) ∧
  (∀ (cells : BitVec 64) (s : State), completes (.jtagExtest cells) s (fun t => t.chip = s.chip.scan 0x00 cells.toNat ∧ onlyChip s t)) ∧
  (∀ (v : BitVec 32) (code : BitVec 8) (s : State), s.chip.pins.vio = true → 
    completes .jtagIdcode s (fun t => t.chip.pins.instruction = 1 ∧ t.chip.pins.captured % 2 = 1 ∧ t.chip.pins.captured / 2 ^ 12 % 2 ^ 16 = 0x0C08 ∧ regsSameBut s.chip t.chip [] ∧ onlyChip s t)
      ∧ completes (.jtagDtmcs v) s (fun t => t.chip.pins.instruction = 0x10 ∧ regsSameBut s.chip t.chip [] ∧ onlyChip s t) ∧ completes (.jtagBypass code) s (fun t => t.chip.pins.instruction = code.toNat ∧ t.chip.pins.captured = 0 ∧ regsSameBut s.chip t.chip [] ∧ onlyChip s t)) ∧
  (∀ (code : BitVec 8) (s : State), completes (.jtagBypass code) s (fun t => t.chip = s.chip.tap code.toNat 0 ∧ onlyChip s t)) ∧
  (∀ (s : State), completes .jtagIdcode s (fun t => t.chip = s.chip.tap 0x01 (s.chip.rd R.PCU_PKG_ID_STEPPING % 16 * 2 ^ 28 + 0x0C08 * 2 ^ 12 + Config.jtagMaker % 2 ^ 11 * 2 + 1) ∧ onlyChip s t)) ∧
  (∀ (op : Fin 4) (addr : BitVec 18) (data : BitVec 32) (s : State), s.chip.pins.vio = true → (s.chip.roleOf .jtag).rank < 2 → 
    completes (.jtagDmi op addr data) s (fun t => t.chip.pins.instruction = 0x11 ∧ t.chip.pins.captured = 0 ∧ regsSameBut s.chip t.chip [] ∧ onlyChip s t)) ∧
  (∀ (op : Fin 4) (addr : BitVec 18) (data : BitVec 32) (s : State), s.chip.pins.vio = true → (s.chip.roleOf .jtag).rank = 2 → addr.toNat < 131072 → 
    completes (.jtagDmi op addr data) s (fun t => t.chip.pins.instruction = 0x11 ∧ t.chip.pins.captured = Config.debugWord op.val addr.toNat data.toNat s.chip.drawn ∧ regsSameBut s.chip t.chip [] ∧ onlyChip s t)) ∧
  (∀ (off : BitVec 32) (bytes : List (BitVec 8)) (s : State), s.chip.pins.phase = .recovery → s.chip.pins.vio = true → bytes.length = 252 → 
    completes (.jtagRecovery off bytes) s (fun t => t.chip.sec.image = memWrite s.chip.sec.image off.toNat (bytes.map BitVec.toNat) ∧ t.chip.pins.instruction = 0x20 ∧ regsSameBut s.chip t.chip [] ∧ onlyChip s t)) ∧
  (∀ (off : BitVec 28) (dr : BitVec 64) (r : RegDesc) (is : List Nat) (s : State), s.chip.pins.phase = .running → s.chip.pins.vio = true → dr.toNat = off.toNat * 2 ^ 32 → s.chip.word R.PCU_BUS_ERR = 0 → s.chip.acc.emuWait = [] → findReg off.toNat = some (r, is) → sideEffect r.base = false → r.base ∉ [R.DBG_MIRROR_SEL, R.DBG_MIRROR_DATA, R.DBG_MIRROR_STATUS] → ¬ (R.SYN_OBJ_W0_LO < r.base ∧ r.base ≤ R.SYN_OBJ_W1_HI) → loBases.contains (r.base - 4) = false → r.flds.all (fun f => f.acc != .rc) = true → readAccepted s.chip .jtag off.toNat → 
    completes (.jtagPcs dr) s (fun t => t.chip.pins.instruction = 0x21 ∧ t.chip.pins.captured = off.toNat * 2 ^ 32 + s.chip.viewWord off.toNat % 2 ^ 32 ∧ regsSameBut s.chip t.chip [] ∧ onlyChip s t)) ∧
  (∀ (dr : BitVec 64) (s : State), s.chip.pins.vio = true →
    completes (.jtagPcs dr) s (fun t => t.chip = s.chip.jtagAccess (fget dr.toNat 59 32) (fget dr.toNat 31 0) (bitOf dr.toNat 63) ∧ onlyChip s t)) ∧
  (∀ (e : Fin 4) (q : Fin 4) (s : State), s.chip.pins.plugs.contains e.val = true → s.chip.portUp (4 * e.val + q.val) = false → s.chip.rd (R.EDGE_STATUS_STATE (4 * e.val + q.val)) = 1 → 
    completes (.mpoPlugRemove e) s (fun t => t.chip.pins.plugs.contains e.val = false ∧ t.chip.rd (R.EDGE_STATUS_STATE (4 * e.val + q.val)) = 3 ∧ onlyChip s t)) ∧
  (∀ (e : Fin 4) (s : State), s.chip.pins.plugs.contains e.val = true →
    completes (.mpoPlugRemove e) s (fun t => t.chip.pins.plugs.contains e.val = false ∧ onlyChip s t)) ∧
  (∀ (e : Fin 4) (s : State), s.chip.pins.plugs.contains e.val = false → 
    completes (.mpoPlugSeat e) s (fun t => t.chip.pins.plugs = s.chip.pins.plugs ++ [e.val] ∧ regsSameBut s.chip t.chip [] ∧ onlyChip s t))

/-- Each command that writes one register: where the access is accepted, the next state is the accepted write with what the command adds to it, whatever the value (R7, R14, R20). -/
def Obligations.AcceptedCommandWritesAct : Prop :=
  (∀ (req : Requester) (site : Fin 24) (v : BitVec 32) (s : State), writeAccepted s.chip req (R.SITE_SUBST_REQ site.val) →
    completes (.substGo req site v) s (fun w => w.chip = s.chip.acceptWrite req (R.SITE_SUBST_REQ site.val) v.toNat (substHook site.val v.toNat) ∧ onlyChip s w)) ∧
  (∀ (req : Requester) (site : Fin 24) (v : BitVec 32) (s : State), writeAccepted s.chip req (R.SITE_SUBST_REQ site.val) →
    completes (.substRestore req site v) s (fun w => w.chip = s.chip.acceptWrite req (R.SITE_SUBST_REQ site.val) v.toNat (substHook site.val v.toNat) ∧ onlyChip s w)) ∧
  (∀ (req : Requester) (v : BitVec 32) (s : State), writeAccepted s.chip req R.LSU_CTRL →
    completes (.lsuSwap req v) s (fun w => w.chip = s.chip.acceptWrite req R.LSU_CTRL v.toNat (lsuCtrlHook v.toNat) ∧ onlyChip s w)) ∧
  (∀ (req : Requester) (v : BitVec 32) (s : State), writeAccepted s.chip req R.LSU_CTRL →
    completes (.lsuReturn req v) s (fun w => w.chip = s.chip.acceptWrite req R.LSU_CTRL v.toNat (lsuCtrlHook v.toNat) ∧ onlyChip s w)) ∧
  (∀ (req : Requester) (v : BitVec 32) (s : State), writeAccepted s.chip req R.LSU_CTRL →
    completes (.lsuRestart req v) s (fun w => w.chip = s.chip.acceptWrite req R.LSU_CTRL v.toNat (lsuCtrlHook v.toNat) ∧ onlyChip s w)) ∧
  (∀ (req : Requester) (site : Fin 24) (v : BitVec 32) (s : State), writeAccepted s.chip req (R.TNS_SWATCH_REQ site.val) →
    completes (.swatchReq req site v) s (fun w => w.chip = s.chip.acceptWrite req (R.TNS_SWATCH_REQ site.val) v.toNat (swatchReqHook site.val v.toNat) ∧ onlyChip s w)) ∧
  (∀ (req : Requester) (site : Fin 24) (v : BitVec 32) (dev : BitVec 16) (failed : BitVec 4) (s : State), writeAccepted s.chip req (R.TNS_GAUGE_CTRL site.val) →
    completes (.gaugeGo req site v dev failed) s (fun w => w.chip = s.chip.acceptWrite req (R.TNS_GAUGE_CTRL site.val) v.toNat (gaugeHook site.val v.toNat dev.toInt failed.toNat) ∧ onlyChip s w)) ∧
  (∀ (req : Requester) (site : Fin 24) (v : BitVec 32) (s : State), writeAccepted s.chip req (R.LANE_PAT_CTRL site.val) →
    completes (.patternGo req site v) s (fun w => w.chip = s.chip.acceptWrite req (R.LANE_PAT_CTRL site.val) v.toNat (patHook site.val v.toNat) ∧ onlyChip s w)) ∧
  (∀ (req : Requester) (site : Fin 24) (v : BitVec 32) (s : State), writeAccepted s.chip req (R.LANE_PAT_CTRL site.val) →
    completes (.patternStop req site v) s (fun w => w.chip = s.chip.acceptWrite req (R.LANE_PAT_CTRL site.val) v.toNat (patHook site.val v.toNat) ∧ onlyChip s w)) ∧
  (∀ (req : Requester) (site : Fin 24) (v : BitVec 32) (s : State), writeAccepted s.chip req (R.LANE_INJ site.val) →
    completes (.injectGo req site v) s (fun w => w.chip = s.chip.acceptWrite req (R.LANE_INJ site.val) v.toNat (injHook site.val v.toNat) ∧ onlyChip s w)) ∧
  (∀ (req : Requester) (site : Fin 24) (q : Fin 64) (base : Bool) (v : BitVec 32) (s : State), writeAccepted s.chip req (if base then R.SITE_RQ_BASE site.val q.val else R.SITE_RQ_CFG site.val q.val) →
    completes (.rqCfgWrite req site q base v) s (fun w => w.chip = s.chip.acceptWrite req (if base then R.SITE_RQ_BASE site.val q.val else R.SITE_RQ_CFG site.val q.val) v.toNat (s.chip.rqHook site.val q.val v.toNat base) ∧ onlyChip s w)) ∧
  (∀ (req : Requester) (t : Fin 16) (v : BitVec 32) (s : State), writeAccepted s.chip req (R.PART_TENANT t.val) →
    completes (.shareWrite req t v) s (fun w => w.chip = s.chip.acceptWrite req (R.PART_TENANT t.val) v.toNat (s.chip.shareHook t.val v.toNat) ∧ onlyChip s w)) ∧
  (∀ (req : Requester) (t : Fin 16) (v : BitVec 32) (s : State), writeAccepted s.chip req (R.CIRC_ARM t.val) →
    completes (.armGo req t v) s (fun w => w.chip = s.chip.acceptWrite req (R.CIRC_ARM t.val) v.toNat (armHook t.val v.toNat) ∧ onlyChip s w)) ∧
  (∀ (req : Requester) (t : Fin 16) (v : BitVec 32) (s : State), writeAccepted s.chip req (R.CIRC_ARM t.val) →
    completes (.armCancel req t v) s (fun w => w.chip = s.chip.acceptWrite req (R.CIRC_ARM t.val) v.toNat (armHook t.val v.toNat) ∧ onlyChip s w)) ∧
  (∀ (req : Requester) (e : Fin 112) (v : BitVec 32) (s : State), writeAccepted s.chip req (R.CIRC_ALLOT e.val) →
    completes (.allotWrite req e v) s (fun w => w.chip = s.chip.acceptWrite req (R.CIRC_ALLOT e.val) v.toNat (s.chip.allotHook e.val v.toNat) ∧ onlyChip s w)) ∧
  (∀ (req : Requester) (j : Fin 16) (v : BitVec 32) (agreed : Bool) (s : State), writeAccepted s.chip req (R.CIRC_PORT_ASSIGN j.val) →
    completes (.portAssignGo req j v agreed) s (fun w => w.chip = s.chip.acceptWrite req (R.CIRC_PORT_ASSIGN j.val) v.toNat (assignHook j.val v.toNat agreed) ∧ onlyChip s w)) ∧
  (∀ (req : Requester) (j : Fin 16) (v : BitVec 32) (s : State), writeAccepted s.chip req (R.EDGE_CTRL j.val) →
    completes (.portRetrain req j v) s (fun w => w.chip = s.chip.acceptWrite req (R.EDGE_CTRL j.val) v.toNat (edgeCtrlHook j.val v.toNat) ∧ onlyChip s w)) ∧
  (∀ (req : Requester) (j : Fin 16) (v : BitVec 32) (s : State), writeAccepted s.chip req (R.EDGE_CTRL j.val) →
    completes (.portDownCmd req j v) s (fun w => w.chip = s.chip.acceptWrite req (R.EDGE_CTRL j.val) v.toNat (edgeCtrlHook j.val v.toNat) ∧ onlyChip s w)) ∧
  (∀ (req : Requester) (j : Fin 16) (v : BitVec 32) (s : State), writeAccepted s.chip req (R.EDGE_PAT_CTRL j.val) →
    completes (.edgePatternGo req j v) s (fun w => w.chip = s.chip.acceptWrite req (R.EDGE_PAT_CTRL j.val) v.toNat (edgePatHook j.val v.toNat) ∧ onlyChip s w)) ∧
  (∀ (req : Requester) (j : Fin 16) (v : BitVec 32) (s : State), writeAccepted s.chip req (R.EDGE_INJ j.val) →
    completes (.edgeInjectGo req j v) s (fun w => w.chip = s.chip.acceptWrite req (R.EDGE_INJ j.val) v.toNat (edgeInjHook j.val v.toNat) ∧ onlyChip s w)) ∧
  (∀ (req : Requester) (n : Fin 4096) (v : BitVec 32) (s : State), writeAccepted s.chip req (R.ROUTE_NODE_STATE n.val) →
    completes (.nodeStateWrite req n v) s (fun w => w.chip = s.chip.acceptWrite req (R.ROUTE_NODE_STATE n.val) v.toNat (s.chip.nodeStateHook n.val v.toNat) ∧ onlyChip s w)) ∧
  (∀ (req : Requester) (o : Fin 2) (v : BitVec 32) (s : State), writeAccepted s.chip req (R.HIO_CLKOUT o.val) →
    completes (.clkoutWrite req o v) s (fun w => w.chip = s.chip.acceptWrite req (R.HIO_CLKOUT o.val) v.toNat (s.chip.clkoutHook o.val v.toNat) ∧ onlyChip s w)) ∧
  (∀ (req : Requester) (sl : Fin 4) (v : BitVec 32) (s : State), writeAccepted s.chip req (R.HIO_SLOT_CFG sl.val) →
    completes (.slotCfgWrite req sl v) s (fun w => w.chip = s.chip.acceptWrite req (R.HIO_SLOT_CFG sl.val) v.toNat (s.chip.slotHook sl.val v.toNat) ∧ onlyChip s w)) ∧
  (∀ (req : Requester) (v : BitVec 32) (s : State), writeAccepted s.chip req R.SEC_AUTH_CTRL →
    completes (.authChallenge req v) s (fun w => w.chip = s.chip.acceptWrite req R.SEC_AUTH_CTRL v.toNat (authHook req v.toNat) ∧ onlyChip s w)) ∧
  (∀ (req : Requester) (v : BitVec 32) (s : State), writeAccepted s.chip req R.SEC_AUTH_CTRL →
    completes (.authVerify req v) s (fun w => w.chip = s.chip.acceptWrite req R.SEC_AUTH_CTRL v.toNat (authHook req v.toNat) ∧ onlyChip s w)) ∧
  (∀ (req : Requester) (v : BitVec 32) (s : State), writeAccepted s.chip req R.SEC_AUTH_CTRL →
    completes (.authDrop req v) s (fun w => w.chip = s.chip.acceptWrite req R.SEC_AUTH_CTRL v.toNat (authHook req v.toNat) ∧ onlyChip s w)) ∧
  (∀ (req : Requester) (d : Fin 10) (v : BitVec 32) (s : State), writeAccepted s.chip req (R.CLK_FCHG d.val) →
    completes (.fchgAnnounce req d v) s (fun w => w.chip = s.chip.acceptWrite req (R.CLK_FCHG d.val) v.toNat (fchgHook d.val v.toNat) ∧ onlyChip s w)) ∧
  (∀ (req : Requester) (d : Fin 10) (v : BitVec 32) (s : State), writeAccepted s.chip req (R.CLK_FCHG d.val) →
    completes (.fchgCancel req d v) s (fun w => w.chip = s.chip.acceptWrite req (R.CLK_FCHG d.val) v.toNat (fchgHook d.val v.toNat) ∧ onlyChip s w)) ∧
  (∀ (req : Requester) (v : BitVec 32) (s : State), writeAccepted s.chip req R.CLK_DOMAIN_RESET →
    completes (.domainReset req v) s (fun w => w.chip = s.chip.acceptWrite req R.CLK_DOMAIN_RESET v.toNat (domainResetHook v.toNat) ∧ onlyChip s w)) ∧
  (∀ (req : Requester) (hi : Bool) (v : BitVec 32) (s : State), writeAccepted s.chip req (if hi then R.CLK_GATE_EN_HI else R.CLK_GATE_EN_LO) →
    completes (.gateWrite req hi v) s (fun w => w.chip = s.chip.acceptWrite req (if hi then R.CLK_GATE_EN_HI else R.CLK_GATE_EN_LO) v.toNat WriteHook.plain ∧ onlyChip s w)) ∧
  (∀ (req : Requester) (d : Fin 8) (v : BitVec 32) (s : State), writeAccepted s.chip req (R.CLK_CL_GATE d.val) →
    completes (.clusterGateWrite req d v) s (fun w => w.chip = s.chip.acceptWrite req (R.CLK_CL_GATE d.val) v.toNat WriteHook.plain ∧ onlyChip s w)) ∧
  (∀ (req : Requester) (v : BitVec 32) (s : State), writeAccepted s.chip req R.PCU_DEBUG_HOLD →
    completes (.debugHoldWrite req v) s (fun w => w.chip = s.chip.acceptWrite req R.PCU_DEBUG_HOLD v.toNat (debugHoldHook s.chip req v.toNat) ∧ onlyChip s w)) ∧
  (∀ (req : Requester) (v : BitVec 32) (s : State), writeAccepted s.chip req R.EVR_CTRL →
    completes (.evrFreeze req v) s (fun w => w.chip = s.chip.acceptWrite req R.EVR_CTRL v.toNat (evrCtrlHook v.toNat) ∧ onlyChip s w)) ∧
  (∀ (req : Requester) (v : BitVec 32) (s : State), writeAccepted s.chip req R.EVR_CTRL →
    completes (.evrUnfreeze req v) s (fun w => w.chip = s.chip.acceptWrite req R.EVR_CTRL v.toNat (evrCtrlHook v.toNat) ∧ onlyChip s w)) ∧
  (∀ (req : Requester) (v : BitVec 32) (s : State), writeAccepted s.chip req R.EVR_CLEAR →
    completes (.evrClear req v) s (fun w => w.chip = s.chip.acceptWrite req R.EVR_CLEAR v.toNat (evrClearHook v.toNat) ∧ onlyChip s w)) ∧
  (∀ (req : Requester) (v : BitVec 32) (s : State), writeAccepted s.chip req R.EVR_NV_CLEAR →
    completes (.evrNvClear req v) s (fun w => w.chip = s.chip.acceptWrite req R.EVR_NV_CLEAR v.toNat (evrNvClearHook v.toNat) ∧ onlyChip s w)) ∧
  (∀ (req : Requester) (p : Fin 64) (e : Option (Fin 112)) (v : BitVec 32) (s : State), writeAccepted s.chip req (match e with | none => R.CIRC_PAT_HDR p.val | some e => R.CIRC_PAT p.val e.val) →
    completes (.patWrite req p e v) s (fun w => w.chip = s.chip.acceptWrite req (match e with | none => R.CIRC_PAT_HDR p.val | some e => R.CIRC_PAT p.val e.val) v.toNat (s.chip.patHook p.val) ∧ onlyChip s w))

/-- The end of a row (R175, R294). -/
def Obligations.RowBoundaryEndsTheRow : Prop :=
  (∀ (tm : Telemetry) (temps : List (Fin 24 × Fin 42 × BitVec 16)) (raw : List (Fin 24 × List Bool)) (edgeRaw : List (Fin 16 × List Bool)) (ecc : Fin 3) (s : State), s.chip.rowsRun = true → s.chip.time.step = none → 
    completes (.rowBoundary tm temps raw edgeRaw ecc) s (fun t => t.chip.row = (s.chip.row + 1) % 2 ^ 48 ∧ t.chip.cyc = 0 ∧ t.chip.rowsRun = true ∧ t.pending = s.pending)) ∧
  (∀ (tm : Telemetry) (temps : List (Fin 24 × Fin 42 × BitVec 16)) (raw : List (Fin 24 × List Bool)) (edgeRaw : List (Fin 16 × List Bool)) (ecc : Fin 3) (s : State), s.chip.rowsRun = false → 
    exec (.rowBoundary tm temps raw edgeRaw ecc) s = .next s)

/-- The front command of the queue runs with the queue's rest (R14). -/
def Obligations.StepRunsTheFrontCommand : Prop :=
  ∀ (i : Instr) (rest : List Instr) (s : State), s.pending = i :: rest → step s = exec i { s with pending := rest }

/-- An empty queue: a fabric cycle passes (log entry 3). -/
def Obligations.EmptyQueueCountsACycle : Prop :=
  (∀ (s : State), s.pending = [] → s.chip.rowsRun = true → s.chip.cyc < 2047 → s.chip.cyc ≠ 1999 → step s = .next { s with chip := { s.chip with cyc := s.chip.cyc + 1 } }) ∧
  (∀ (s : State), s.pending = [] → s.chip.rowsRun = true → s.chip.cyc = 1999 → step s = .next { s with chip := ({ s.chip with cyc := 2000 } : Chip).atMarker }) ∧
  (∀ (s : State), s.pending = [] → s.chip.rowsRun = false ∨ 2047 ≤ s.chip.cyc → step s = .next s)

/-- No command stops the machine. -/
def Obligations.EveryCommandAnswersANextState : Prop :=
  ∀ (i : Instr) (s : State), ∃ t, exec i s = .next t ∧ t.pending = s.pending

/-- Every step keeps the canonical form of memory. -/
def Obligations.MemoryStaysCanonical : Prop :=
  ∀ (s t : State), s.inv → step s = .next t → t.inv

/-- Every step keeps the row counter and the cycle within their ranges. -/
def Obligations.TimeStaysInRange : Prop :=
  ∀ (s t : State), s.chip.row < 2 ^ 48 → s.chip.cyc < 2048 → step s = .next t → t.chip.row < 2 ^ 48 ∧ t.chip.cyc < 2048

/-- The reset state. -/
def Obligations.ResetState : Prop :=
  State.reset.inv ∧ State.reset.pending = [] ∧ State.reset.mem = [] ∧ State.reset.chip.pins.phase = .off ∧ State.reset.chip.rowsRun = false
    ∧ State.reset.chip.row = 0 ∧ State.reset.chip.cyc = 0 ∧ State.reset.chip.sync.objs = [] ∧ State.reset.chip.xport.out = []
    ∧ (∀ j, j < 12 → State.reset.chip.portRole j = j / 2) ∧ (∀ j, 12 ≤ j → j < 16 → State.reset.chip.portRole j = 6)

/-- Stitch fields to bytes and back (R141). -/
def Obligations.StitchesKeepTheirFieldsInBytes : Prop :=
  ∀ (st : Stitch), Stitch.wf st = true → st.data.length = 64 → st.tag = 0 → (Stitch.bytes st).length = 96 ∧ Stitch.parse (Stitch.bytes st) = st

/-- Stitch bytes to fields and back (R141). -/
def Obligations.BytesOfAStitchAllCount : Prop :=
  ∀ (bs : List Nat), bs.length = 96 → bytesOk bs = true → Stitch.wf (Stitch.parse bs) = true ∧ (Stitch.parse bs).data.length = 64 ∧ Stitch.bytes (Stitch.parse bs) = bs

/-- Worked examples of the manual. -/
def Obligations.WrittenOutWords : Prop :=
  (let st : Stitch := { dstNode := 5, dstSite := 13, srcNode := 5, srcSite := 2, tenant := 1, cls := 0, opcode := opSTORE, seq := 0x42, sync := 0x200, start := 16, countM1 := 31, cnt := 1, ppa := 0x1234567040 }
   Stitch.routeWord st 0 0 = 0x1005680288400000 ∧ Stitch.opWord st = 0x120042020041F400 ∧ Stitch.addrWord st = 0x0000001234567040) ∧
  crc32c [0x31, 0x32, 0x33, 0x34, 0x35, 0x36, 0x37, 0x38, 0x39] = 0xE3069283 ∧ scramblerSeed 0 = 0x5A5A5A5A ∧ scramblerSeed 0x5A5A5A5A = 1 ∧ scramblerSeed (2 ^ 31 + 0x5A5A5A5A) = 1

/-- R18. -/
def Obligations.AliasReadsReadNoMember : Prop :=
  ∀ (req : Requester) (off : BitVec 28) (s : State), s.chip.mayIssue req = true → aliasOff off.toNat = true → off.toNat % 4 = 0 →
    completes (.aliasRead req off) s (fun t => t.chip.acc = { s.chip.acc with answer := some ⟨req, 0, 0⟩ } ∧ t.chip.rd R.PCU_BUS_ERR_ALIAS_READ = 1
      ∧ regsSameBut s.chip t.chip [R.PCU_BUS_ERR, R.PCU_BUS_ERR_ADDR] ∧ t.chip = { s.chip with regs := t.chip.regs, acc := t.chip.acc } ∧ onlyChip s t)

/-- R11. -/
def Obligations.WritesOfTooLowARole : Prop :=
  (∀ (c : Chip) (req : Requester) (off v : Nat) (h : WriteHook), c.judge req off true true = .role →
    (c.writeReg req off v h).rd R.PCU_BUS_ERR_ROLE = 1 ∧ regsSameBut c (c.writeReg req off v h) [R.PCU_BUS_ERR, R.PCU_BUS_ERR_ADDR]
      ∧ ((∃ e ∈ (c.writeReg req off v h).captured, e.code = Ev.writeRefused ∧ e.args = [off] ∧ e.time = c.now) ∨ (512 ≤ c.captured.length ∧ (c.writeReg req off v h).captureLost = c.captureLost + 1))
      ∧ (c.writeReg req off v h).acc = c.acc) ∧
  (∀ (c : Chip) (req : Requester) (off v : Nat) (r : RegDesc) (is : List Nat) (h : WriteHook), writeAccepted c req off → findReg off = some (r, is) → r.role ≠ .operator → h.takes = true →
    (∀ (d : Chip) e, e ∈ d.captured → e ∈ (h.effect d).captured) → c.captured.length < 512 →
    ∃ e ∈ (c.writeReg req off v h).captured, (e.code = Ev.gatedWrite ∨ e.code = Ev.makerWrite) ∧ e.args.take 3 = [off, (c.word off).toNat, v] ∧ e.time = c.now)

/-- R12. -/
def Obligations.WidthAndMappingAreChecked : Prop :=
  (∀ (req : Requester) (off : BitVec 28) (v : BitVec 32) (whole : Bool) (s : State), s.chip.mayIssue req = true → whole = false ∨ off.toNat % 4 ≠ 0 →
    completes (.registerWrite req off v whole) s (fun t => t.chip.rd R.PCU_BUS_ERR_WIDTH = 1 ∧ regsSameBut s.chip t.chip [R.PCU_BUS_ERR, R.PCU_BUS_ERR_ADDR]
      ∧ t.chip = { s.chip with regs := t.chip.regs } ∧ onlyChip s t) ∧
    completes (.rcRead req off whole) s (fun t => t.chip.rd R.PCU_BUS_ERR_WIDTH = 1 ∧ t.chip.acc = { s.chip.acc with answer := some ⟨req, 0, 0⟩ }
      ∧ regsSameBut s.chip t.chip [R.PCU_BUS_ERR, R.PCU_BUS_ERR_ADDR] ∧ t.chip = { s.chip with regs := t.chip.regs, acc := t.chip.acc } ∧ onlyChip s t)) ∧
  (∀ (req : Requester) (off : BitVec 28) (v : BitVec 32) (s : State), s.chip.mayIssue req = true → off.toNat % 4 = 0 → aliasOff off.toNat = false → findReg off.toNat = none →
    completes (.registerWrite req off v true) s (fun t => t.chip.rd R.PCU_BUS_ERR_UNMAPPED = 1 ∧ regsSameBut s.chip t.chip [R.PCU_BUS_ERR, R.PCU_BUS_ERR_ADDR]
      ∧ t.chip = { s.chip with regs := t.chip.regs } ∧ onlyChip s t) ∧
    completes (.rcRead req off true) s (fun t => t.chip.rd R.PCU_BUS_ERR_UNMAPPED = 1 ∧ t.chip.acc = { s.chip.acc with answer := some ⟨req, 0, 0⟩ }
      ∧ regsSameBut s.chip t.chip [R.PCU_BUS_ERR, R.PCU_BUS_ERR_ADDR] ∧ t.chip = { s.chip with regs := t.chip.regs, acc := t.chip.acc } ∧ onlyChip s t))

/-- R226. -/
def Obligations.TorusCoordinatesAndDistance : Prop :=
  (∀ (c : Chip) (n : Nat), c.coord n 0 = n % c.dim 0 ∧ c.coord n 1 = n / c.dim 0 % c.dim 1 ∧ c.coord n 2 = n / (c.dim 0 * c.dim 1)) ∧
  (∀ (c : Chip) (a b i : Nat), ((c.delta a b i : Nat) : Int) = (((c.coord b i : Nat) : Int) - ((c.coord a i : Nat) : Int)) % ((c.dim i : Nat) : Int)) ∧
  (∀ (c : Chip) (a b : Nat), c.dist a b = min (c.delta a b 0) (c.dim 0 - c.delta a b 0) + min (c.delta a b 1) (c.dim 1 - c.delta a b 1) + min (c.delta a b 2) (c.dim 2 - c.delta a b 2)
    ∧ c.dist a b ≤ 24)

/-- R347. -/
def Obligations.IntegerAccumulation : Prop :=
  ∀ (row : List (Nat × Int)) (col : Nat → Int) (g n acc : Nat), 0 < g → acc < 2 ^ 32 →
    (mmaInt row col g (g * n) acc).1 = ofSigned 32 (toSigned 32 acc + ((row.filter (fun p => decide (p.1 < g * n))).map (fun p => p.2 * col p.1)).sum)
      ∧ ((mmaInt row col g (g * n) acc).2 = 32 ∨ (mmaInt row col g (g * n) acc).2 = 0)
      ∧ ((mmaInt row col g (g * n) acc).2 = 32 ↔ ∃ i, i < n ∧
          ¬ (-(2 ^ 31 : Int) ≤ toSigned 32 (mmaInt row col g (g * i) acc).1 + ((row.filter (fun p => p.1 / g == i)).map (fun p => p.2 * col p.1)).sum
            ∧ toSigned 32 (mmaInt row col g (g * i) acc).1 + ((row.filter (fun p => p.1 / g == i)).map (fun p => p.2 * col p.1)).sum < (2 ^ 31 : Int)))

/-- R254, R255. -/
def Obligations.LoadsReadAndStoresWriteTheirBytes : Prop :=
  (∀ (s : State) (site place : Nat) (st : Stitch), st.opcode = opLOAD → st.start + st.countM1 ≤ 63 → (rangeOf place = .hbm ∨ rangeOf place = .sram) → s.chip.placeGood place = true →
    ∃ (c : Chip) (rsp : Stitch), (s.doStitch site 0 place st).chip = c.send site rsp ∧ c.xport = s.chip.xport ∧ rsp.opcode = opLOAD_RSP ∧ rsp.seq = st.seq ∧ rsp.start = st.start
      ∧ rsp.countM1 = st.countM1 ∧ rsp.dstNode = st.srcNode ∧ rsp.dstSite = st.srcSite ∧ rsp.data.length = 64
      ∧ (∀ i, i < 64 → rsp.data.getD i 0 = if st.start ≤ i ∧ i ≤ st.start + st.countM1 then (memGet s.mem (place + i)).toNat else 0)
      ∧ (s.doStitch site 0 place st).mem = s.mem) ∧
  (∀ (s : State) (site place : Nat) (st : Stitch) (a : Nat), st.opcode = opSTORE → st.start + st.countM1 ≤ 63 → (rangeOf place = .hbm ∨ rangeOf place = .sram) → s.chip.placeGood place = true →
    Memory.wf s.mem = true →
    memGet (s.doStitch site 0 place st).mem a =
      if place + st.start ≤ a ∧ a ≤ place + st.start + st.countM1 then BitVec.ofNat 8 ((padTo 64 st.data).getD (a - place) 0) else memGet s.mem a)

/-- R287. -/
def Obligations.WaitsAnsweredDoneCarryTheObject : Prop :=
  (∀ (st : Stitch) (o : SyncObj) (s : State), s.chip.obj st.sync = some o → o.tenant = st.tenant → st.srcNode = s.chip.node → (o.kind = 1 ∨ o.kind = 2) → o.error < 256 → o.kind * 16 + o.tenant < 256 →
    o.holds (syncCond st) (syncValue st) = some true →
    completes (.syncWait st) s (fun t => ∃ a ∈ t.chip.xport.arrived, a.st.opcode = opSYNC_RSP ∧ a.st.seq = st.seq ∧ a.st.dstSite = st.srcSite ∧ a.st.data.getD 0 0 = srDONE
      ∧ (a.st.data.drop 24).take 16 = leBytes 8 o.word0 ++ leBytes 8 o.word1 ∧ fget (leField a.st.data 24 8) 55 48 = o.error)) ∧
  (∀ (st w : Stitch) (o o' : SyncObj) (row limit : Nat) (s : State), s.chip.obj st.sync = some o → o.tenant = st.tenant → w.srcNode = s.chip.node → w.sync = st.sync → (o.kind = 1 ∨ o.kind = 2) →
    o.error < 256 → o.kind * 16 + o.tenant < 256 → o' = SyncObj.reeval { o with count := (o.count + syncValue st) % 2 ^ 48 } → o' ≠ o → o'.holds (syncCond w) (syncValue w) = some true →
    s.chip.sync.waits = [⟨st.sync, .stitch w, syncCond w, syncValue w, row, limit, none⟩] →
    completes (.syncAdd st) s (fun t => ∃ a ∈ t.chip.xport.arrived, a.st.opcode = opSYNC_RSP ∧ a.st.seq = w.seq ∧ a.st.dstSite = w.srcSite ∧ a.st.data.getD 0 0 = srDONE
      ∧ (a.st.data.drop 24).take 16 = leBytes 8 o'.word0 ++ leBytes 8 o'.word1 ∧ fget (leField a.st.data 24 8) 55 48 = o'.error))

/-- Each field follows its own type and class (R7 to R9, R20). -/
def Obligations.FieldsFollowTheirTypes : Prop :=
  (∀ (req : Requester) (off : BitVec 28) (v : BitVec 32) (s : State) (r : RegDesc) (is : List Nat) (f : Fld), findReg off.toNat = some (r, is) → f ∈ r.flds →
    (∀ g ∈ r.flds, g.lo ≤ g.hi ∧ g.hi < 32) → r.flds.Pairwise (fun g h => g.hi < h.lo ∨ h.hi < g.lo) → r.role = .operator → off.toNat ∉ [R.ROUTE_STATUS, R.HIO_STATUS] → r.blk ≠ .lane →
    s.chip.hookOf req r is v.toNat = .plain → aliasOff off.toNat = false → windowOff off.toNat = false → writeAccepted s.chip req off.toNat →
    completes (.registerWrite req off v true) s (fun t =>
      t.chip.rd ⟨off.toNat, f.hi, f.lo⟩ = (match f.acc, f.cls with
        | .w1c, _ => s.chip.rd ⟨off.toNat, f.hi, f.lo⟩ - Nat.land (s.chip.rd ⟨off.toNat, f.hi, f.lo⟩) (fget v.toNat f.hi f.lo)
        | .w1s, _ => Nat.lor (s.chip.rd ⟨off.toNat, f.hi, f.lo⟩) (fget v.toNat f.hi f.lo)
        | .rw, .l => fget v.toNat f.hi f.lo
        | .rw, .s => if s.chip.stopped r is then fget v.toNat f.hi f.lo else s.chip.rd ⟨off.toNat, f.hi, f.lo⟩
        | _, _ => s.chip.rd ⟨off.toNat, f.hi, f.lo⟩)
      ∧ (f.acc = .rw → f.cls = .w → ∃ h ∈ t.chip.acc.held, h.off = off.toNat ∧ h.row = s.chip.wRow ∧ fget h.val f.hi f.lo = fget v.toNat f.hi f.lo ∧ fget h.mask f.hi f.lo = 2 ^ (f.hi + 1 - f.lo) - 1)
      ∧ regsSameBut s.chip t.chip [off.toNat, R.ROUTE_STATUS, R.HIO_STATUS] ∧ onlyChip s t)) ∧
  (∀ (c : Chip), c.rowsRun = true → c.cyc < 2048 → c.cycles + 200 ≤ 2048 * c.wRow ∧ 2048 * (c.wRow - 1) < c.cycles + 200) ∧
  (∀ (c : Chip), c.rowsRun = false → c.wRow = 0)

/-- The frame of memory. -/
def Obligations.CommandsThatStoreNothing : Prop :=
  ∀ (i : Instr) (s t : State), storesNothing i = true → exec i s = .next t → t.mem = s.mem

/-- SEC_KEY_SET, SESSION_EXPIRY, NONCE_EXPIRY and LOCKOUT_EXPIRY answer a next state (R433, R435, R436). -/
def Obligations.KeysAndSecurityTimersComplete : Prop :=
  (∀ (src : CmdSrc) (idx : BitVec 16) (x : Cmd) (s : State), cmdReady s.chip src idx 0x79 x → s.chip.cmdRole src = .installer → x.par 8 1 ≤ 1 →
    s.chip.viewStatus x.partition (x.par 16 8) 96 = stOK → s.chip.viewObstacle x.partition (x.par 16 8) 96 false = none →
    ∃ t, exec (.secKeySet src idx) s = .next t ∧ t.mem = s.mem
      ∧ t.chip.flash.keys = (if Config.pointOnCurve (s.viewBytes x.partition (x.par 16 8) 96) = true then putKey (x.par 8 1) (s.viewBytes x.partition (x.par 16 8) 96) s.chip.flash.keys
          else s.chip.flash.keys)
      ∧ cmdEnded s t x (if Config.pointOnCurve (s.viewBytes x.partition (x.par 16 8) 96) = true then stOK else csINVALID) 0 0) ∧
  (∀ (n m : Fin 4) (u : Nat) (s : State), s.chip.sec.ends = [(n.val, u)] → s.chip.reached u = true → s.chip.on (R.SEC_SESSION_VALID n.val) = true →
    ∃ t, exec (.sessionExpiry n) s = .next t ∧ t.mem = s.mem ∧ t.chip.sec.ends = [] ∧ t.chip.on (R.SEC_SESSION_VALID n.val) = false
      ∧ (m ≠ n → t.chip.word (R.SEC_SESSION m.val) = s.chip.word (R.SEC_SESSION m.val))) ∧
  (∀ (w : Fin 12) (u : Nat) (s : State), s.chip.sec.nonceUntil = some u → s.chip.reached u = true →
    ∃ t, exec .nonceExpiry s = .next t ∧ t.mem = s.mem ∧ t.chip.sec.nonceUntil = none ∧ t.chip.word (R.SEC_NONCE w.val) = 0 ∧ t.chip.sec.lockedUntil = s.chip.sec.lockedUntil) ∧
  (∀ (u : Nat) (s : State), s.chip.sec.lockedUntil = some u → s.chip.reached u = true →
    ∃ t, exec .lockoutExpiry s = .next t ∧ t.mem = s.mem ∧ t.chip = s.chip.onSec (fun x => { x with lockedUntil := none }))
end

