-- ==== Sys2Proof/Laws/State.lean ====
section
/-! SUPPORT. What each primitive update of the state leaves: one lemma for each field and each update, so that no proof unfolds a record update. -/

namespace Sys2Proof.Machine

@[simp] theorem Chip.onAcc_acc (c : Chip) (g : Access → Access) : (c.onAcc g).acc = g c.acc := rfl
@[simp] theorem Chip.onAcc_regs (c : Chip) (g : Access → Access) : (c.onAcc g).regs = c.regs := rfl
@[simp] theorem Chip.onAcc_row (c : Chip) (g : Access → Access) : (c.onAcc g).row = c.row := rfl
@[simp] theorem Chip.onAcc_cyc (c : Chip) (g : Access → Access) : (c.onAcc g).cyc = c.cyc := rfl
@[simp] theorem Chip.onAcc_epoch (c : Chip) (g : Access → Access) : (c.onAcc g).epoch = c.epoch := rfl
@[simp] theorem Chip.onAcc_rowsRun (c : Chip) (g : Access → Access) : (c.onAcc g).rowsRun = c.rowsRun := rfl
@[simp] theorem Chip.onAcc_captured (c : Chip) (g : Access → Access) : (c.onAcc g).captured = c.captured := rfl
@[simp] theorem Chip.onAcc_captureLost (c : Chip) (g : Access → Access) : (c.onAcc g).captureLost = c.captureLost := rfl
@[simp] theorem Chip.onAcc_drawn (c : Chip) (g : Access → Access) : (c.onAcc g).drawn = c.drawn := rfl
@[simp] theorem Chip.onAcc_reports (c : Chip) (g : Access → Access) : (c.onAcc g).reports = c.reports := rfl
@[simp] theorem Chip.onAcc_opf (c : Chip) (g : Access → Access) : (c.onAcc g).opf = c.opf := rfl
@[simp] theorem Chip.onAcc_lanes (c : Chip) (g : Access → Access) : (c.onAcc g).lanes = c.lanes := rfl
@[simp] theorem Chip.onAcc_xport (c : Chip) (g : Access → Access) : (c.onAcc g).xport = c.xport := rfl
@[simp] theorem Chip.onAcc_sync (c : Chip) (g : Access → Access) : (c.onAcc g).sync = c.sync := rfl
@[simp] theorem Chip.onAcc_mems (c : Chip) (g : Access → Access) : (c.onAcc g).mems = c.mems := rfl
@[simp] theorem Chip.onAcc_light (c : Chip) (g : Access → Access) : (c.onAcc g).light = c.light := rfl
@[simp] theorem Chip.onAcc_tns (c : Chip) (g : Access → Access) : (c.onAcc g).tns = c.tns := rfl
@[simp] theorem Chip.onAcc_pcu (c : Chip) (g : Access → Access) : (c.onAcc g).pcu = c.pcu := rfl
@[simp] theorem Chip.onAcc_pins (c : Chip) (g : Access → Access) : (c.onAcc g).pins = c.pins := rfl
@[simp] theorem Chip.onAcc_circ (c : Chip) (g : Access → Access) : (c.onAcc g).circ = c.circ := rfl
@[simp] theorem Chip.onAcc_edge (c : Chip) (g : Access → Access) : (c.onAcc g).edge = c.edge := rfl
@[simp] theorem Chip.onAcc_red (c : Chip) (g : Access → Access) : (c.onAcc g).red = c.red := rfl
@[simp] theorem Chip.onAcc_cmd (c : Chip) (g : Access → Access) : (c.onAcc g).cmd = c.cmd := rfl
@[simp] theorem Chip.onAcc_hio (c : Chip) (g : Access → Access) : (c.onAcc g).hio = c.hio := rfl
@[simp] theorem Chip.onAcc_time (c : Chip) (g : Access → Access) : (c.onAcc g).time = c.time := rfl
@[simp] theorem Chip.onAcc_comp (c : Chip) (g : Access → Access) : (c.onAcc g).comp = c.comp := rfl
@[simp] theorem Chip.onAcc_mxe (c : Chip) (g : Access → Access) : (c.onAcc g).mxe = c.mxe := rfl
@[simp] theorem Chip.onAcc_part (c : Chip) (g : Access → Access) : (c.onAcc g).part = c.part := rfl
@[simp] theorem Chip.onAcc_clk (c : Chip) (g : Access → Access) : (c.onAcc g).clk = c.clk := rfl
@[simp] theorem Chip.onAcc_pwr (c : Chip) (g : Access → Access) : (c.onAcc g).pwr = c.pwr := rfl
@[simp] theorem Chip.onAcc_thm (c : Chip) (g : Access → Access) : (c.onAcc g).thm = c.thm := rfl
@[simp] theorem Chip.onAcc_sec (c : Chip) (g : Access → Access) : (c.onAcc g).sec = c.sec := rfl
@[simp] theorem Chip.onAcc_evr (c : Chip) (g : Access → Access) : (c.onAcc g).evr = c.evr := rfl
@[simp] theorem Chip.onAcc_flash (c : Chip) (g : Access → Access) : (c.onAcc g).flash = c.flash := rfl

@[simp] theorem Chip.onOpf_opf (c : Chip) (g : Opf → Opf) : (c.onOpf g).opf = g c.opf := rfl
@[simp] theorem Chip.onOpf_regs (c : Chip) (g : Opf → Opf) : (c.onOpf g).regs = c.regs := rfl
@[simp] theorem Chip.onOpf_row (c : Chip) (g : Opf → Opf) : (c.onOpf g).row = c.row := rfl
@[simp] theorem Chip.onOpf_cyc (c : Chip) (g : Opf → Opf) : (c.onOpf g).cyc = c.cyc := rfl
@[simp] theorem Chip.onOpf_epoch (c : Chip) (g : Opf → Opf) : (c.onOpf g).epoch = c.epoch := rfl
@[simp] theorem Chip.onOpf_rowsRun (c : Chip) (g : Opf → Opf) : (c.onOpf g).rowsRun = c.rowsRun := rfl
@[simp] theorem Chip.onOpf_captured (c : Chip) (g : Opf → Opf) : (c.onOpf g).captured = c.captured := rfl
@[simp] theorem Chip.onOpf_captureLost (c : Chip) (g : Opf → Opf) : (c.onOpf g).captureLost = c.captureLost := rfl
@[simp] theorem Chip.onOpf_drawn (c : Chip) (g : Opf → Opf) : (c.onOpf g).drawn = c.drawn := rfl
@[simp] theorem Chip.onOpf_reports (c : Chip) (g : Opf → Opf) : (c.onOpf g).reports = c.reports := rfl
@[simp] theorem Chip.onOpf_acc (c : Chip) (g : Opf → Opf) : (c.onOpf g).acc = c.acc := rfl
@[simp] theorem Chip.onOpf_lanes (c : Chip) (g : Opf → Opf) : (c.onOpf g).lanes = c.lanes := rfl
@[simp] theorem Chip.onOpf_xport (c : Chip) (g : Opf → Opf) : (c.onOpf g).xport = c.xport := rfl
@[simp] theorem Chip.onOpf_sync (c : Chip) (g : Opf → Opf) : (c.onOpf g).sync = c.sync := rfl
@[simp] theorem Chip.onOpf_mems (c : Chip) (g : Opf → Opf) : (c.onOpf g).mems = c.mems := rfl
@[simp] theorem Chip.onOpf_light (c : Chip) (g : Opf → Opf) : (c.onOpf g).light = c.light := rfl
@[simp] theorem Chip.onOpf_tns (c : Chip) (g : Opf → Opf) : (c.onOpf g).tns = c.tns := rfl
@[simp] theorem Chip.onOpf_pcu (c : Chip) (g : Opf → Opf) : (c.onOpf g).pcu = c.pcu := rfl
@[simp] theorem Chip.onOpf_pins (c : Chip) (g : Opf → Opf) : (c.onOpf g).pins = c.pins := rfl
@[simp] theorem Chip.onOpf_circ (c : Chip) (g : Opf → Opf) : (c.onOpf g).circ = c.circ := rfl
@[simp] theorem Chip.onOpf_edge (c : Chip) (g : Opf → Opf) : (c.onOpf g).edge = c.edge := rfl
@[simp] theorem Chip.onOpf_red (c : Chip) (g : Opf → Opf) : (c.onOpf g).red = c.red := rfl
@[simp] theorem Chip.onOpf_cmd (c : Chip) (g : Opf → Opf) : (c.onOpf g).cmd = c.cmd := rfl
@[simp] theorem Chip.onOpf_hio (c : Chip) (g : Opf → Opf) : (c.onOpf g).hio = c.hio := rfl
@[simp] theorem Chip.onOpf_time (c : Chip) (g : Opf → Opf) : (c.onOpf g).time = c.time := rfl
@[simp] theorem Chip.onOpf_comp (c : Chip) (g : Opf → Opf) : (c.onOpf g).comp = c.comp := rfl
@[simp] theorem Chip.onOpf_mxe (c : Chip) (g : Opf → Opf) : (c.onOpf g).mxe = c.mxe := rfl
@[simp] theorem Chip.onOpf_part (c : Chip) (g : Opf → Opf) : (c.onOpf g).part = c.part := rfl
@[simp] theorem Chip.onOpf_clk (c : Chip) (g : Opf → Opf) : (c.onOpf g).clk = c.clk := rfl
@[simp] theorem Chip.onOpf_pwr (c : Chip) (g : Opf → Opf) : (c.onOpf g).pwr = c.pwr := rfl
@[simp] theorem Chip.onOpf_thm (c : Chip) (g : Opf → Opf) : (c.onOpf g).thm = c.thm := rfl
@[simp] theorem Chip.onOpf_sec (c : Chip) (g : Opf → Opf) : (c.onOpf g).sec = c.sec := rfl
@[simp] theorem Chip.onOpf_evr (c : Chip) (g : Opf → Opf) : (c.onOpf g).evr = c.evr := rfl
@[simp] theorem Chip.onOpf_flash (c : Chip) (g : Opf → Opf) : (c.onOpf g).flash = c.flash := rfl

@[simp] theorem Chip.onLanes_lanes (c : Chip) (g : Lanes → Lanes) : (c.onLanes g).lanes = g c.lanes := rfl
@[simp] theorem Chip.onLanes_regs (c : Chip) (g : Lanes → Lanes) : (c.onLanes g).regs = c.regs := rfl
@[simp] theorem Chip.onLanes_row (c : Chip) (g : Lanes → Lanes) : (c.onLanes g).row = c.row := rfl
@[simp] theorem Chip.onLanes_cyc (c : Chip) (g : Lanes → Lanes) : (c.onLanes g).cyc = c.cyc := rfl
@[simp] theorem Chip.onLanes_epoch (c : Chip) (g : Lanes → Lanes) : (c.onLanes g).epoch = c.epoch := rfl
@[simp] theorem Chip.onLanes_rowsRun (c : Chip) (g : Lanes → Lanes) : (c.onLanes g).rowsRun = c.rowsRun := rfl
@[simp] theorem Chip.onLanes_captured (c : Chip) (g : Lanes → Lanes) : (c.onLanes g).captured = c.captured := rfl
@[simp] theorem Chip.onLanes_captureLost (c : Chip) (g : Lanes → Lanes) : (c.onLanes g).captureLost = c.captureLost := rfl
@[simp] theorem Chip.onLanes_drawn (c : Chip) (g : Lanes → Lanes) : (c.onLanes g).drawn = c.drawn := rfl
@[simp] theorem Chip.onLanes_reports (c : Chip) (g : Lanes → Lanes) : (c.onLanes g).reports = c.reports := rfl
@[simp] theorem Chip.onLanes_acc (c : Chip) (g : Lanes → Lanes) : (c.onLanes g).acc = c.acc := rfl
@[simp] theorem Chip.onLanes_opf (c : Chip) (g : Lanes → Lanes) : (c.onLanes g).opf = c.opf := rfl
@[simp] theorem Chip.onLanes_xport (c : Chip) (g : Lanes → Lanes) : (c.onLanes g).xport = c.xport := rfl
@[simp] theorem Chip.onLanes_sync (c : Chip) (g : Lanes → Lanes) : (c.onLanes g).sync = c.sync := rfl
@[simp] theorem Chip.onLanes_mems (c : Chip) (g : Lanes → Lanes) : (c.onLanes g).mems = c.mems := rfl
@[simp] theorem Chip.onLanes_light (c : Chip) (g : Lanes → Lanes) : (c.onLanes g).light = c.light := rfl
@[simp] theorem Chip.onLanes_tns (c : Chip) (g : Lanes → Lanes) : (c.onLanes g).tns = c.tns := rfl
@[simp] theorem Chip.onLanes_pcu (c : Chip) (g : Lanes → Lanes) : (c.onLanes g).pcu = c.pcu := rfl
@[simp] theorem Chip.onLanes_pins (c : Chip) (g : Lanes → Lanes) : (c.onLanes g).pins = c.pins := rfl
@[simp] theorem Chip.onLanes_circ (c : Chip) (g : Lanes → Lanes) : (c.onLanes g).circ = c.circ := rfl
@[simp] theorem Chip.onLanes_edge (c : Chip) (g : Lanes → Lanes) : (c.onLanes g).edge = c.edge := rfl
@[simp] theorem Chip.onLanes_red (c : Chip) (g : Lanes → Lanes) : (c.onLanes g).red = c.red := rfl
@[simp] theorem Chip.onLanes_cmd (c : Chip) (g : Lanes → Lanes) : (c.onLanes g).cmd = c.cmd := rfl
@[simp] theorem Chip.onLanes_hio (c : Chip) (g : Lanes → Lanes) : (c.onLanes g).hio = c.hio := rfl
@[simp] theorem Chip.onLanes_time (c : Chip) (g : Lanes → Lanes) : (c.onLanes g).time = c.time := rfl
@[simp] theorem Chip.onLanes_comp (c : Chip) (g : Lanes → Lanes) : (c.onLanes g).comp = c.comp := rfl
@[simp] theorem Chip.onLanes_mxe (c : Chip) (g : Lanes → Lanes) : (c.onLanes g).mxe = c.mxe := rfl
@[simp] theorem Chip.onLanes_part (c : Chip) (g : Lanes → Lanes) : (c.onLanes g).part = c.part := rfl
@[simp] theorem Chip.onLanes_clk (c : Chip) (g : Lanes → Lanes) : (c.onLanes g).clk = c.clk := rfl
@[simp] theorem Chip.onLanes_pwr (c : Chip) (g : Lanes → Lanes) : (c.onLanes g).pwr = c.pwr := rfl
@[simp] theorem Chip.onLanes_thm (c : Chip) (g : Lanes → Lanes) : (c.onLanes g).thm = c.thm := rfl
@[simp] theorem Chip.onLanes_sec (c : Chip) (g : Lanes → Lanes) : (c.onLanes g).sec = c.sec := rfl
@[simp] theorem Chip.onLanes_evr (c : Chip) (g : Lanes → Lanes) : (c.onLanes g).evr = c.evr := rfl
@[simp] theorem Chip.onLanes_flash (c : Chip) (g : Lanes → Lanes) : (c.onLanes g).flash = c.flash := rfl

@[simp] theorem Chip.onXport_xport (c : Chip) (g : Xport → Xport) : (c.onXport g).xport = g c.xport := rfl
@[simp] theorem Chip.onXport_regs (c : Chip) (g : Xport → Xport) : (c.onXport g).regs = c.regs := rfl
@[simp] theorem Chip.onXport_row (c : Chip) (g : Xport → Xport) : (c.onXport g).row = c.row := rfl
@[simp] theorem Chip.onXport_cyc (c : Chip) (g : Xport → Xport) : (c.onXport g).cyc = c.cyc := rfl
@[simp] theorem Chip.onXport_epoch (c : Chip) (g : Xport → Xport) : (c.onXport g).epoch = c.epoch := rfl
@[simp] theorem Chip.onXport_rowsRun (c : Chip) (g : Xport → Xport) : (c.onXport g).rowsRun = c.rowsRun := rfl
@[simp] theorem Chip.onXport_captured (c : Chip) (g : Xport → Xport) : (c.onXport g).captured = c.captured := rfl
@[simp] theorem Chip.onXport_captureLost (c : Chip) (g : Xport → Xport) : (c.onXport g).captureLost = c.captureLost := rfl
@[simp] theorem Chip.onXport_drawn (c : Chip) (g : Xport → Xport) : (c.onXport g).drawn = c.drawn := rfl
@[simp] theorem Chip.onXport_reports (c : Chip) (g : Xport → Xport) : (c.onXport g).reports = c.reports := rfl
@[simp] theorem Chip.onXport_acc (c : Chip) (g : Xport → Xport) : (c.onXport g).acc = c.acc := rfl
@[simp] theorem Chip.onXport_opf (c : Chip) (g : Xport → Xport) : (c.onXport g).opf = c.opf := rfl
@[simp] theorem Chip.onXport_lanes (c : Chip) (g : Xport → Xport) : (c.onXport g).lanes = c.lanes := rfl
@[simp] theorem Chip.onXport_sync (c : Chip) (g : Xport → Xport) : (c.onXport g).sync = c.sync := rfl
@[simp] theorem Chip.onXport_mems (c : Chip) (g : Xport → Xport) : (c.onXport g).mems = c.mems := rfl
@[simp] theorem Chip.onXport_light (c : Chip) (g : Xport → Xport) : (c.onXport g).light = c.light := rfl
@[simp] theorem Chip.onXport_tns (c : Chip) (g : Xport → Xport) : (c.onXport g).tns = c.tns := rfl
@[simp] theorem Chip.onXport_pcu (c : Chip) (g : Xport → Xport) : (c.onXport g).pcu = c.pcu := rfl
@[simp] theorem Chip.onXport_pins (c : Chip) (g : Xport → Xport) : (c.onXport g).pins = c.pins := rfl
@[simp] theorem Chip.onXport_circ (c : Chip) (g : Xport → Xport) : (c.onXport g).circ = c.circ := rfl
@[simp] theorem Chip.onXport_edge (c : Chip) (g : Xport → Xport) : (c.onXport g).edge = c.edge := rfl
@[simp] theorem Chip.onXport_red (c : Chip) (g : Xport → Xport) : (c.onXport g).red = c.red := rfl
@[simp] theorem Chip.onXport_cmd (c : Chip) (g : Xport → Xport) : (c.onXport g).cmd = c.cmd := rfl
@[simp] theorem Chip.onXport_hio (c : Chip) (g : Xport → Xport) : (c.onXport g).hio = c.hio := rfl
@[simp] theorem Chip.onXport_time (c : Chip) (g : Xport → Xport) : (c.onXport g).time = c.time := rfl
@[simp] theorem Chip.onXport_comp (c : Chip) (g : Xport → Xport) : (c.onXport g).comp = c.comp := rfl
@[simp] theorem Chip.onXport_mxe (c : Chip) (g : Xport → Xport) : (c.onXport g).mxe = c.mxe := rfl
@[simp] theorem Chip.onXport_part (c : Chip) (g : Xport → Xport) : (c.onXport g).part = c.part := rfl
@[simp] theorem Chip.onXport_clk (c : Chip) (g : Xport → Xport) : (c.onXport g).clk = c.clk := rfl
@[simp] theorem Chip.onXport_pwr (c : Chip) (g : Xport → Xport) : (c.onXport g).pwr = c.pwr := rfl
@[simp] theorem Chip.onXport_thm (c : Chip) (g : Xport → Xport) : (c.onXport g).thm = c.thm := rfl
@[simp] theorem Chip.onXport_sec (c : Chip) (g : Xport → Xport) : (c.onXport g).sec = c.sec := rfl
@[simp] theorem Chip.onXport_evr (c : Chip) (g : Xport → Xport) : (c.onXport g).evr = c.evr := rfl
@[simp] theorem Chip.onXport_flash (c : Chip) (g : Xport → Xport) : (c.onXport g).flash = c.flash := rfl

@[simp] theorem Chip.onSync_sync (c : Chip) (g : SyncStore → SyncStore) : (c.onSync g).sync = g c.sync := rfl
@[simp] theorem Chip.onSync_regs (c : Chip) (g : SyncStore → SyncStore) : (c.onSync g).regs = c.regs := rfl
@[simp] theorem Chip.onSync_row (c : Chip) (g : SyncStore → SyncStore) : (c.onSync g).row = c.row := rfl
@[simp] theorem Chip.onSync_cyc (c : Chip) (g : SyncStore → SyncStore) : (c.onSync g).cyc = c.cyc := rfl
@[simp] theorem Chip.onSync_epoch (c : Chip) (g : SyncStore → SyncStore) : (c.onSync g).epoch = c.epoch := rfl
@[simp] theorem Chip.onSync_rowsRun (c : Chip) (g : SyncStore → SyncStore) : (c.onSync g).rowsRun = c.rowsRun := rfl
@[simp] theorem Chip.onSync_captured (c : Chip) (g : SyncStore → SyncStore) : (c.onSync g).captured = c.captured := rfl
@[simp] theorem Chip.onSync_captureLost (c : Chip) (g : SyncStore → SyncStore) : (c.onSync g).captureLost = c.captureLost := rfl
@[simp] theorem Chip.onSync_drawn (c : Chip) (g : SyncStore → SyncStore) : (c.onSync g).drawn = c.drawn := rfl
@[simp] theorem Chip.onSync_reports (c : Chip) (g : SyncStore → SyncStore) : (c.onSync g).reports = c.reports := rfl
@[simp] theorem Chip.onSync_acc (c : Chip) (g : SyncStore → SyncStore) : (c.onSync g).acc = c.acc := rfl
@[simp] theorem Chip.onSync_opf (c : Chip) (g : SyncStore → SyncStore) : (c.onSync g).opf = c.opf := rfl
@[simp] theorem Chip.onSync_lanes (c : Chip) (g : SyncStore → SyncStore) : (c.onSync g).lanes = c.lanes := rfl
@[simp] theorem Chip.onSync_xport (c : Chip) (g : SyncStore → SyncStore) : (c.onSync g).xport = c.xport := rfl
@[simp] theorem Chip.onSync_mems (c : Chip) (g : SyncStore → SyncStore) : (c.onSync g).mems = c.mems := rfl
@[simp] theorem Chip.onSync_light (c : Chip) (g : SyncStore → SyncStore) : (c.onSync g).light = c.light := rfl
@[simp] theorem Chip.onSync_tns (c : Chip) (g : SyncStore → SyncStore) : (c.onSync g).tns = c.tns := rfl
@[simp] theorem Chip.onSync_pcu (c : Chip) (g : SyncStore → SyncStore) : (c.onSync g).pcu = c.pcu := rfl
@[simp] theorem Chip.onSync_pins (c : Chip) (g : SyncStore → SyncStore) : (c.onSync g).pins = c.pins := rfl
@[simp] theorem Chip.onSync_circ (c : Chip) (g : SyncStore → SyncStore) : (c.onSync g).circ = c.circ := rfl
@[simp] theorem Chip.onSync_edge (c : Chip) (g : SyncStore → SyncStore) : (c.onSync g).edge = c.edge := rfl
@[simp] theorem Chip.onSync_red (c : Chip) (g : SyncStore → SyncStore) : (c.onSync g).red = c.red := rfl
@[simp] theorem Chip.onSync_cmd (c : Chip) (g : SyncStore → SyncStore) : (c.onSync g).cmd = c.cmd := rfl
@[simp] theorem Chip.onSync_hio (c : Chip) (g : SyncStore → SyncStore) : (c.onSync g).hio = c.hio := rfl
@[simp] theorem Chip.onSync_time (c : Chip) (g : SyncStore → SyncStore) : (c.onSync g).time = c.time := rfl
@[simp] theorem Chip.onSync_comp (c : Chip) (g : SyncStore → SyncStore) : (c.onSync g).comp = c.comp := rfl
@[simp] theorem Chip.onSync_mxe (c : Chip) (g : SyncStore → SyncStore) : (c.onSync g).mxe = c.mxe := rfl
@[simp] theorem Chip.onSync_part (c : Chip) (g : SyncStore → SyncStore) : (c.onSync g).part = c.part := rfl
@[simp] theorem Chip.onSync_clk (c : Chip) (g : SyncStore → SyncStore) : (c.onSync g).clk = c.clk := rfl
@[simp] theorem Chip.onSync_pwr (c : Chip) (g : SyncStore → SyncStore) : (c.onSync g).pwr = c.pwr := rfl
@[simp] theorem Chip.onSync_thm (c : Chip) (g : SyncStore → SyncStore) : (c.onSync g).thm = c.thm := rfl
@[simp] theorem Chip.onSync_sec (c : Chip) (g : SyncStore → SyncStore) : (c.onSync g).sec = c.sec := rfl
@[simp] theorem Chip.onSync_evr (c : Chip) (g : SyncStore → SyncStore) : (c.onSync g).evr = c.evr := rfl
@[simp] theorem Chip.onSync_flash (c : Chip) (g : SyncStore → SyncStore) : (c.onSync g).flash = c.flash := rfl

@[simp] theorem Chip.onMems_mems (c : Chip) (g : MemSites → MemSites) : (c.onMems g).mems = g c.mems := rfl
@[simp] theorem Chip.onMems_regs (c : Chip) (g : MemSites → MemSites) : (c.onMems g).regs = c.regs := rfl
@[simp] theorem Chip.onMems_row (c : Chip) (g : MemSites → MemSites) : (c.onMems g).row = c.row := rfl
@[simp] theorem Chip.onMems_cyc (c : Chip) (g : MemSites → MemSites) : (c.onMems g).cyc = c.cyc := rfl
@[simp] theorem Chip.onMems_epoch (c : Chip) (g : MemSites → MemSites) : (c.onMems g).epoch = c.epoch := rfl
@[simp] theorem Chip.onMems_rowsRun (c : Chip) (g : MemSites → MemSites) : (c.onMems g).rowsRun = c.rowsRun := rfl
@[simp] theorem Chip.onMems_captured (c : Chip) (g : MemSites → MemSites) : (c.onMems g).captured = c.captured := rfl
@[simp] theorem Chip.onMems_captureLost (c : Chip) (g : MemSites → MemSites) : (c.onMems g).captureLost = c.captureLost := rfl
@[simp] theorem Chip.onMems_drawn (c : Chip) (g : MemSites → MemSites) : (c.onMems g).drawn = c.drawn := rfl
@[simp] theorem Chip.onMems_reports (c : Chip) (g : MemSites → MemSites) : (c.onMems g).reports = c.reports := rfl
@[simp] theorem Chip.onMems_acc (c : Chip) (g : MemSites → MemSites) : (c.onMems g).acc = c.acc := rfl
@[simp] theorem Chip.onMems_opf (c : Chip) (g : MemSites → MemSites) : (c.onMems g).opf = c.opf := rfl
@[simp] theorem Chip.onMems_lanes (c : Chip) (g : MemSites → MemSites) : (c.onMems g).lanes = c.lanes := rfl
@[simp] theorem Chip.onMems_xport (c : Chip) (g : MemSites → MemSites) : (c.onMems g).xport = c.xport := rfl
@[simp] theorem Chip.onMems_sync (c : Chip) (g : MemSites → MemSites) : (c.onMems g).sync = c.sync := rfl
@[simp] theorem Chip.onMems_light (c : Chip) (g : MemSites → MemSites) : (c.onMems g).light = c.light := rfl
@[simp] theorem Chip.onMems_tns (c : Chip) (g : MemSites → MemSites) : (c.onMems g).tns = c.tns := rfl
@[simp] theorem Chip.onMems_pcu (c : Chip) (g : MemSites → MemSites) : (c.onMems g).pcu = c.pcu := rfl
@[simp] theorem Chip.onMems_pins (c : Chip) (g : MemSites → MemSites) : (c.onMems g).pins = c.pins := rfl
@[simp] theorem Chip.onMems_circ (c : Chip) (g : MemSites → MemSites) : (c.onMems g).circ = c.circ := rfl
@[simp] theorem Chip.onMems_edge (c : Chip) (g : MemSites → MemSites) : (c.onMems g).edge = c.edge := rfl
@[simp] theorem Chip.onMems_red (c : Chip) (g : MemSites → MemSites) : (c.onMems g).red = c.red := rfl
@[simp] theorem Chip.onMems_cmd (c : Chip) (g : MemSites → MemSites) : (c.onMems g).cmd = c.cmd := rfl
@[simp] theorem Chip.onMems_hio (c : Chip) (g : MemSites → MemSites) : (c.onMems g).hio = c.hio := rfl
@[simp] theorem Chip.onMems_time (c : Chip) (g : MemSites → MemSites) : (c.onMems g).time = c.time := rfl
@[simp] theorem Chip.onMems_comp (c : Chip) (g : MemSites → MemSites) : (c.onMems g).comp = c.comp := rfl
@[simp] theorem Chip.onMems_mxe (c : Chip) (g : MemSites → MemSites) : (c.onMems g).mxe = c.mxe := rfl
@[simp] theorem Chip.onMems_part (c : Chip) (g : MemSites → MemSites) : (c.onMems g).part = c.part := rfl
@[simp] theorem Chip.onMems_clk (c : Chip) (g : MemSites → MemSites) : (c.onMems g).clk = c.clk := rfl
@[simp] theorem Chip.onMems_pwr (c : Chip) (g : MemSites → MemSites) : (c.onMems g).pwr = c.pwr := rfl
@[simp] theorem Chip.onMems_thm (c : Chip) (g : MemSites → MemSites) : (c.onMems g).thm = c.thm := rfl
@[simp] theorem Chip.onMems_sec (c : Chip) (g : MemSites → MemSites) : (c.onMems g).sec = c.sec := rfl
@[simp] theorem Chip.onMems_evr (c : Chip) (g : MemSites → MemSites) : (c.onMems g).evr = c.evr := rfl
@[simp] theorem Chip.onMems_flash (c : Chip) (g : MemSites → MemSites) : (c.onMems g).flash = c.flash := rfl

@[simp] theorem Chip.onLight_light (c : Chip) (g : Light → Light) : (c.onLight g).light = g c.light := rfl
@[simp] theorem Chip.onLight_regs (c : Chip) (g : Light → Light) : (c.onLight g).regs = c.regs := rfl
@[simp] theorem Chip.onLight_row (c : Chip) (g : Light → Light) : (c.onLight g).row = c.row := rfl
@[simp] theorem Chip.onLight_cyc (c : Chip) (g : Light → Light) : (c.onLight g).cyc = c.cyc := rfl
@[simp] theorem Chip.onLight_epoch (c : Chip) (g : Light → Light) : (c.onLight g).epoch = c.epoch := rfl
@[simp] theorem Chip.onLight_rowsRun (c : Chip) (g : Light → Light) : (c.onLight g).rowsRun = c.rowsRun := rfl
@[simp] theorem Chip.onLight_captured (c : Chip) (g : Light → Light) : (c.onLight g).captured = c.captured := rfl
@[simp] theorem Chip.onLight_captureLost (c : Chip) (g : Light → Light) : (c.onLight g).captureLost = c.captureLost := rfl
@[simp] theorem Chip.onLight_drawn (c : Chip) (g : Light → Light) : (c.onLight g).drawn = c.drawn := rfl
@[simp] theorem Chip.onLight_reports (c : Chip) (g : Light → Light) : (c.onLight g).reports = c.reports := rfl
@[simp] theorem Chip.onLight_acc (c : Chip) (g : Light → Light) : (c.onLight g).acc = c.acc := rfl
@[simp] theorem Chip.onLight_opf (c : Chip) (g : Light → Light) : (c.onLight g).opf = c.opf := rfl
@[simp] theorem Chip.onLight_lanes (c : Chip) (g : Light → Light) : (c.onLight g).lanes = c.lanes := rfl
@[simp] theorem Chip.onLight_xport (c : Chip) (g : Light → Light) : (c.onLight g).xport = c.xport := rfl
@[simp] theorem Chip.onLight_sync (c : Chip) (g : Light → Light) : (c.onLight g).sync = c.sync := rfl
@[simp] theorem Chip.onLight_mems (c : Chip) (g : Light → Light) : (c.onLight g).mems = c.mems := rfl
@[simp] theorem Chip.onLight_tns (c : Chip) (g : Light → Light) : (c.onLight g).tns = c.tns := rfl
@[simp] theorem Chip.onLight_pcu (c : Chip) (g : Light → Light) : (c.onLight g).pcu = c.pcu := rfl
@[simp] theorem Chip.onLight_pins (c : Chip) (g : Light → Light) : (c.onLight g).pins = c.pins := rfl
@[simp] theorem Chip.onLight_circ (c : Chip) (g : Light → Light) : (c.onLight g).circ = c.circ := rfl
@[simp] theorem Chip.onLight_edge (c : Chip) (g : Light → Light) : (c.onLight g).edge = c.edge := rfl
@[simp] theorem Chip.onLight_red (c : Chip) (g : Light → Light) : (c.onLight g).red = c.red := rfl
@[simp] theorem Chip.onLight_cmd (c : Chip) (g : Light → Light) : (c.onLight g).cmd = c.cmd := rfl
@[simp] theorem Chip.onLight_hio (c : Chip) (g : Light → Light) : (c.onLight g).hio = c.hio := rfl
@[simp] theorem Chip.onLight_time (c : Chip) (g : Light → Light) : (c.onLight g).time = c.time := rfl
@[simp] theorem Chip.onLight_comp (c : Chip) (g : Light → Light) : (c.onLight g).comp = c.comp := rfl
@[simp] theorem Chip.onLight_mxe (c : Chip) (g : Light → Light) : (c.onLight g).mxe = c.mxe := rfl
@[simp] theorem Chip.onLight_part (c : Chip) (g : Light → Light) : (c.onLight g).part = c.part := rfl
@[simp] theorem Chip.onLight_clk (c : Chip) (g : Light → Light) : (c.onLight g).clk = c.clk := rfl
@[simp] theorem Chip.onLight_pwr (c : Chip) (g : Light → Light) : (c.onLight g).pwr = c.pwr := rfl
@[simp] theorem Chip.onLight_thm (c : Chip) (g : Light → Light) : (c.onLight g).thm = c.thm := rfl
@[simp] theorem Chip.onLight_sec (c : Chip) (g : Light → Light) : (c.onLight g).sec = c.sec := rfl
@[simp] theorem Chip.onLight_evr (c : Chip) (g : Light → Light) : (c.onLight g).evr = c.evr := rfl
@[simp] theorem Chip.onLight_flash (c : Chip) (g : Light → Light) : (c.onLight g).flash = c.flash := rfl

@[simp] theorem Chip.onTns_tns (c : Chip) (g : Tension → Tension) : (c.onTns g).tns = g c.tns := rfl
@[simp] theorem Chip.onTns_regs (c : Chip) (g : Tension → Tension) : (c.onTns g).regs = c.regs := rfl
@[simp] theorem Chip.onTns_row (c : Chip) (g : Tension → Tension) : (c.onTns g).row = c.row := rfl
@[simp] theorem Chip.onTns_cyc (c : Chip) (g : Tension → Tension) : (c.onTns g).cyc = c.cyc := rfl
@[simp] theorem Chip.onTns_epoch (c : Chip) (g : Tension → Tension) : (c.onTns g).epoch = c.epoch := rfl
@[simp] theorem Chip.onTns_rowsRun (c : Chip) (g : Tension → Tension) : (c.onTns g).rowsRun = c.rowsRun := rfl
@[simp] theorem Chip.onTns_captured (c : Chip) (g : Tension → Tension) : (c.onTns g).captured = c.captured := rfl
@[simp] theorem Chip.onTns_captureLost (c : Chip) (g : Tension → Tension) : (c.onTns g).captureLost = c.captureLost := rfl
@[simp] theorem Chip.onTns_drawn (c : Chip) (g : Tension → Tension) : (c.onTns g).drawn = c.drawn := rfl
@[simp] theorem Chip.onTns_reports (c : Chip) (g : Tension → Tension) : (c.onTns g).reports = c.reports := rfl
@[simp] theorem Chip.onTns_acc (c : Chip) (g : Tension → Tension) : (c.onTns g).acc = c.acc := rfl
@[simp] theorem Chip.onTns_opf (c : Chip) (g : Tension → Tension) : (c.onTns g).opf = c.opf := rfl
@[simp] theorem Chip.onTns_lanes (c : Chip) (g : Tension → Tension) : (c.onTns g).lanes = c.lanes := rfl
@[simp] theorem Chip.onTns_xport (c : Chip) (g : Tension → Tension) : (c.onTns g).xport = c.xport := rfl
@[simp] theorem Chip.onTns_sync (c : Chip) (g : Tension → Tension) : (c.onTns g).sync = c.sync := rfl
@[simp] theorem Chip.onTns_mems (c : Chip) (g : Tension → Tension) : (c.onTns g).mems = c.mems := rfl
@[simp] theorem Chip.onTns_light (c : Chip) (g : Tension → Tension) : (c.onTns g).light = c.light := rfl
@[simp] theorem Chip.onTns_pcu (c : Chip) (g : Tension → Tension) : (c.onTns g).pcu = c.pcu := rfl
@[simp] theorem Chip.onTns_pins (c : Chip) (g : Tension → Tension) : (c.onTns g).pins = c.pins := rfl
@[simp] theorem Chip.onTns_circ (c : Chip) (g : Tension → Tension) : (c.onTns g).circ = c.circ := rfl
@[simp] theorem Chip.onTns_edge (c : Chip) (g : Tension → Tension) : (c.onTns g).edge = c.edge := rfl
@[simp] theorem Chip.onTns_red (c : Chip) (g : Tension → Tension) : (c.onTns g).red = c.red := rfl
@[simp] theorem Chip.onTns_cmd (c : Chip) (g : Tension → Tension) : (c.onTns g).cmd = c.cmd := rfl
@[simp] theorem Chip.onTns_hio (c : Chip) (g : Tension → Tension) : (c.onTns g).hio = c.hio := rfl
@[simp] theorem Chip.onTns_time (c : Chip) (g : Tension → Tension) : (c.onTns g).time = c.time := rfl
@[simp] theorem Chip.onTns_comp (c : Chip) (g : Tension → Tension) : (c.onTns g).comp = c.comp := rfl
@[simp] theorem Chip.onTns_mxe (c : Chip) (g : Tension → Tension) : (c.onTns g).mxe = c.mxe := rfl
@[simp] theorem Chip.onTns_part (c : Chip) (g : Tension → Tension) : (c.onTns g).part = c.part := rfl
@[simp] theorem Chip.onTns_clk (c : Chip) (g : Tension → Tension) : (c.onTns g).clk = c.clk := rfl
@[simp] theorem Chip.onTns_pwr (c : Chip) (g : Tension → Tension) : (c.onTns g).pwr = c.pwr := rfl
@[simp] theorem Chip.onTns_thm (c : Chip) (g : Tension → Tension) : (c.onTns g).thm = c.thm := rfl
@[simp] theorem Chip.onTns_sec (c : Chip) (g : Tension → Tension) : (c.onTns g).sec = c.sec := rfl
@[simp] theorem Chip.onTns_evr (c : Chip) (g : Tension → Tension) : (c.onTns g).evr = c.evr := rfl
@[simp] theorem Chip.onTns_flash (c : Chip) (g : Tension → Tension) : (c.onTns g).flash = c.flash := rfl

@[simp] theorem Chip.onPcu_pcu (c : Chip) (g : Pcus → Pcus) : (c.onPcu g).pcu = g c.pcu := rfl
@[simp] theorem Chip.onPcu_regs (c : Chip) (g : Pcus → Pcus) : (c.onPcu g).regs = c.regs := rfl
@[simp] theorem Chip.onPcu_row (c : Chip) (g : Pcus → Pcus) : (c.onPcu g).row = c.row := rfl
@[simp] theorem Chip.onPcu_cyc (c : Chip) (g : Pcus → Pcus) : (c.onPcu g).cyc = c.cyc := rfl
@[simp] theorem Chip.onPcu_epoch (c : Chip) (g : Pcus → Pcus) : (c.onPcu g).epoch = c.epoch := rfl
@[simp] theorem Chip.onPcu_rowsRun (c : Chip) (g : Pcus → Pcus) : (c.onPcu g).rowsRun = c.rowsRun := rfl
@[simp] theorem Chip.onPcu_captured (c : Chip) (g : Pcus → Pcus) : (c.onPcu g).captured = c.captured := rfl
@[simp] theorem Chip.onPcu_captureLost (c : Chip) (g : Pcus → Pcus) : (c.onPcu g).captureLost = c.captureLost := rfl
@[simp] theorem Chip.onPcu_drawn (c : Chip) (g : Pcus → Pcus) : (c.onPcu g).drawn = c.drawn := rfl
@[simp] theorem Chip.onPcu_reports (c : Chip) (g : Pcus → Pcus) : (c.onPcu g).reports = c.reports := rfl
@[simp] theorem Chip.onPcu_acc (c : Chip) (g : Pcus → Pcus) : (c.onPcu g).acc = c.acc := rfl
@[simp] theorem Chip.onPcu_opf (c : Chip) (g : Pcus → Pcus) : (c.onPcu g).opf = c.opf := rfl
@[simp] theorem Chip.onPcu_lanes (c : Chip) (g : Pcus → Pcus) : (c.onPcu g).lanes = c.lanes := rfl
@[simp] theorem Chip.onPcu_xport (c : Chip) (g : Pcus → Pcus) : (c.onPcu g).xport = c.xport := rfl
@[simp] theorem Chip.onPcu_sync (c : Chip) (g : Pcus → Pcus) : (c.onPcu g).sync = c.sync := rfl
@[simp] theorem Chip.onPcu_mems (c : Chip) (g : Pcus → Pcus) : (c.onPcu g).mems = c.mems := rfl
@[simp] theorem Chip.onPcu_light (c : Chip) (g : Pcus → Pcus) : (c.onPcu g).light = c.light := rfl
@[simp] theorem Chip.onPcu_tns (c : Chip) (g : Pcus → Pcus) : (c.onPcu g).tns = c.tns := rfl
@[simp] theorem Chip.onPcu_pins (c : Chip) (g : Pcus → Pcus) : (c.onPcu g).pins = c.pins := rfl
@[simp] theorem Chip.onPcu_circ (c : Chip) (g : Pcus → Pcus) : (c.onPcu g).circ = c.circ := rfl
@[simp] theorem Chip.onPcu_edge (c : Chip) (g : Pcus → Pcus) : (c.onPcu g).edge = c.edge := rfl
@[simp] theorem Chip.onPcu_red (c : Chip) (g : Pcus → Pcus) : (c.onPcu g).red = c.red := rfl
@[simp] theorem Chip.onPcu_cmd (c : Chip) (g : Pcus → Pcus) : (c.onPcu g).cmd = c.cmd := rfl
@[simp] theorem Chip.onPcu_hio (c : Chip) (g : Pcus → Pcus) : (c.onPcu g).hio = c.hio := rfl
@[simp] theorem Chip.onPcu_time (c : Chip) (g : Pcus → Pcus) : (c.onPcu g).time = c.time := rfl
@[simp] theorem Chip.onPcu_comp (c : Chip) (g : Pcus → Pcus) : (c.onPcu g).comp = c.comp := rfl
@[simp] theorem Chip.onPcu_mxe (c : Chip) (g : Pcus → Pcus) : (c.onPcu g).mxe = c.mxe := rfl
@[simp] theorem Chip.onPcu_part (c : Chip) (g : Pcus → Pcus) : (c.onPcu g).part = c.part := rfl
@[simp] theorem Chip.onPcu_clk (c : Chip) (g : Pcus → Pcus) : (c.onPcu g).clk = c.clk := rfl
@[simp] theorem Chip.onPcu_pwr (c : Chip) (g : Pcus → Pcus) : (c.onPcu g).pwr = c.pwr := rfl
@[simp] theorem Chip.onPcu_thm (c : Chip) (g : Pcus → Pcus) : (c.onPcu g).thm = c.thm := rfl
@[simp] theorem Chip.onPcu_sec (c : Chip) (g : Pcus → Pcus) : (c.onPcu g).sec = c.sec := rfl
@[simp] theorem Chip.onPcu_evr (c : Chip) (g : Pcus → Pcus) : (c.onPcu g).evr = c.evr := rfl
@[simp] theorem Chip.onPcu_flash (c : Chip) (g : Pcus → Pcus) : (c.onPcu g).flash = c.flash := rfl

@[simp] theorem Chip.onPins_pins (c : Chip) (g : Pins → Pins) : (c.onPins g).pins = g c.pins := rfl
@[simp] theorem Chip.onPins_regs (c : Chip) (g : Pins → Pins) : (c.onPins g).regs = c.regs := rfl
@[simp] theorem Chip.onPins_row (c : Chip) (g : Pins → Pins) : (c.onPins g).row = c.row := rfl
@[simp] theorem Chip.onPins_cyc (c : Chip) (g : Pins → Pins) : (c.onPins g).cyc = c.cyc := rfl
@[simp] theorem Chip.onPins_epoch (c : Chip) (g : Pins → Pins) : (c.onPins g).epoch = c.epoch := rfl
@[simp] theorem Chip.onPins_rowsRun (c : Chip) (g : Pins → Pins) : (c.onPins g).rowsRun = c.rowsRun := rfl
@[simp] theorem Chip.onPins_captured (c : Chip) (g : Pins → Pins) : (c.onPins g).captured = c.captured := rfl
@[simp] theorem Chip.onPins_captureLost (c : Chip) (g : Pins → Pins) : (c.onPins g).captureLost = c.captureLost := rfl
@[simp] theorem Chip.onPins_drawn (c : Chip) (g : Pins → Pins) : (c.onPins g).drawn = c.drawn := rfl
@[simp] theorem Chip.onPins_reports (c : Chip) (g : Pins → Pins) : (c.onPins g).reports = c.reports := rfl
@[simp] theorem Chip.onPins_acc (c : Chip) (g : Pins → Pins) : (c.onPins g).acc = c.acc := rfl
@[simp] theorem Chip.onPins_opf (c : Chip) (g : Pins → Pins) : (c.onPins g).opf = c.opf := rfl
@[simp] theorem Chip.onPins_lanes (c : Chip) (g : Pins → Pins) : (c.onPins g).lanes = c.lanes := rfl
@[simp] theorem Chip.onPins_xport (c : Chip) (g : Pins → Pins) : (c.onPins g).xport = c.xport := rfl
@[simp] theorem Chip.onPins_sync (c : Chip) (g : Pins → Pins) : (c.onPins g).sync = c.sync := rfl
@[simp] theorem Chip.onPins_mems (c : Chip) (g : Pins → Pins) : (c.onPins g).mems = c.mems := rfl
@[simp] theorem Chip.onPins_light (c : Chip) (g : Pins → Pins) : (c.onPins g).light = c.light := rfl
@[simp] theorem Chip.onPins_tns (c : Chip) (g : Pins → Pins) : (c.onPins g).tns = c.tns := rfl
@[simp] theorem Chip.onPins_pcu (c : Chip) (g : Pins → Pins) : (c.onPins g).pcu = c.pcu := rfl
@[simp] theorem Chip.onPins_circ (c : Chip) (g : Pins → Pins) : (c.onPins g).circ = c.circ := rfl
@[simp] theorem Chip.onPins_edge (c : Chip) (g : Pins → Pins) : (c.onPins g).edge = c.edge := rfl
@[simp] theorem Chip.onPins_red (c : Chip) (g : Pins → Pins) : (c.onPins g).red = c.red := rfl
@[simp] theorem Chip.onPins_cmd (c : Chip) (g : Pins → Pins) : (c.onPins g).cmd = c.cmd := rfl
@[simp] theorem Chip.onPins_hio (c : Chip) (g : Pins → Pins) : (c.onPins g).hio = c.hio := rfl
@[simp] theorem Chip.onPins_time (c : Chip) (g : Pins → Pins) : (c.onPins g).time = c.time := rfl
@[simp] theorem Chip.onPins_comp (c : Chip) (g : Pins → Pins) : (c.onPins g).comp = c.comp := rfl
@[simp] theorem Chip.onPins_mxe (c : Chip) (g : Pins → Pins) : (c.onPins g).mxe = c.mxe := rfl
@[simp] theorem Chip.onPins_part (c : Chip) (g : Pins → Pins) : (c.onPins g).part = c.part := rfl
@[simp] theorem Chip.onPins_clk (c : Chip) (g : Pins → Pins) : (c.onPins g).clk = c.clk := rfl
@[simp] theorem Chip.onPins_pwr (c : Chip) (g : Pins → Pins) : (c.onPins g).pwr = c.pwr := rfl
@[simp] theorem Chip.onPins_thm (c : Chip) (g : Pins → Pins) : (c.onPins g).thm = c.thm := rfl
@[simp] theorem Chip.onPins_sec (c : Chip) (g : Pins → Pins) : (c.onPins g).sec = c.sec := rfl
@[simp] theorem Chip.onPins_evr (c : Chip) (g : Pins → Pins) : (c.onPins g).evr = c.evr := rfl
@[simp] theorem Chip.onPins_flash (c : Chip) (g : Pins → Pins) : (c.onPins g).flash = c.flash := rfl

@[simp] theorem Chip.onCirc_circ (c : Chip) (g : Circuits → Circuits) : (c.onCirc g).circ = g c.circ := rfl
@[simp] theorem Chip.onCirc_regs (c : Chip) (g : Circuits → Circuits) : (c.onCirc g).regs = c.regs := rfl
@[simp] theorem Chip.onCirc_row (c : Chip) (g : Circuits → Circuits) : (c.onCirc g).row = c.row := rfl
@[simp] theorem Chip.onCirc_cyc (c : Chip) (g : Circuits → Circuits) : (c.onCirc g).cyc = c.cyc := rfl
@[simp] theorem Chip.onCirc_epoch (c : Chip) (g : Circuits → Circuits) : (c.onCirc g).epoch = c.epoch := rfl
@[simp] theorem Chip.onCirc_rowsRun (c : Chip) (g : Circuits → Circuits) : (c.onCirc g).rowsRun = c.rowsRun := rfl
@[simp] theorem Chip.onCirc_captured (c : Chip) (g : Circuits → Circuits) : (c.onCirc g).captured = c.captured := rfl
@[simp] theorem Chip.onCirc_captureLost (c : Chip) (g : Circuits → Circuits) : (c.onCirc g).captureLost = c.captureLost := rfl
@[simp] theorem Chip.onCirc_drawn (c : Chip) (g : Circuits → Circuits) : (c.onCirc g).drawn = c.drawn := rfl
@[simp] theorem Chip.onCirc_reports (c : Chip) (g : Circuits → Circuits) : (c.onCirc g).reports = c.reports := rfl
@[simp] theorem Chip.onCirc_acc (c : Chip) (g : Circuits → Circuits) : (c.onCirc g).acc = c.acc := rfl
@[simp] theorem Chip.onCirc_opf (c : Chip) (g : Circuits → Circuits) : (c.onCirc g).opf = c.opf := rfl
@[simp] theorem Chip.onCirc_lanes (c : Chip) (g : Circuits → Circuits) : (c.onCirc g).lanes = c.lanes := rfl
@[simp] theorem Chip.onCirc_xport (c : Chip) (g : Circuits → Circuits) : (c.onCirc g).xport = c.xport := rfl
@[simp] theorem Chip.onCirc_sync (c : Chip) (g : Circuits → Circuits) : (c.onCirc g).sync = c.sync := rfl
@[simp] theorem Chip.onCirc_mems (c : Chip) (g : Circuits → Circuits) : (c.onCirc g).mems = c.mems := rfl
@[simp] theorem Chip.onCirc_light (c : Chip) (g : Circuits → Circuits) : (c.onCirc g).light = c.light := rfl
@[simp] theorem Chip.onCirc_tns (c : Chip) (g : Circuits → Circuits) : (c.onCirc g).tns = c.tns := rfl
@[simp] theorem Chip.onCirc_pcu (c : Chip) (g : Circuits → Circuits) : (c.onCirc g).pcu = c.pcu := rfl
@[simp] theorem Chip.onCirc_pins (c : Chip) (g : Circuits → Circuits) : (c.onCirc g).pins = c.pins := rfl
@[simp] theorem Chip.onCirc_edge (c : Chip) (g : Circuits → Circuits) : (c.onCirc g).edge = c.edge := rfl
@[simp] theorem Chip.onCirc_red (c : Chip) (g : Circuits → Circuits) : (c.onCirc g).red = c.red := rfl
@[simp] theorem Chip.onCirc_cmd (c : Chip) (g : Circuits → Circuits) : (c.onCirc g).cmd = c.cmd := rfl
@[simp] theorem Chip.onCirc_hio (c : Chip) (g : Circuits → Circuits) : (c.onCirc g).hio = c.hio := rfl
@[simp] theorem Chip.onCirc_time (c : Chip) (g : Circuits → Circuits) : (c.onCirc g).time = c.time := rfl
@[simp] theorem Chip.onCirc_comp (c : Chip) (g : Circuits → Circuits) : (c.onCirc g).comp = c.comp := rfl
@[simp] theorem Chip.onCirc_mxe (c : Chip) (g : Circuits → Circuits) : (c.onCirc g).mxe = c.mxe := rfl
@[simp] theorem Chip.onCirc_part (c : Chip) (g : Circuits → Circuits) : (c.onCirc g).part = c.part := rfl
@[simp] theorem Chip.onCirc_clk (c : Chip) (g : Circuits → Circuits) : (c.onCirc g).clk = c.clk := rfl
@[simp] theorem Chip.onCirc_pwr (c : Chip) (g : Circuits → Circuits) : (c.onCirc g).pwr = c.pwr := rfl
@[simp] theorem Chip.onCirc_thm (c : Chip) (g : Circuits → Circuits) : (c.onCirc g).thm = c.thm := rfl
@[simp] theorem Chip.onCirc_sec (c : Chip) (g : Circuits → Circuits) : (c.onCirc g).sec = c.sec := rfl
@[simp] theorem Chip.onCirc_evr (c : Chip) (g : Circuits → Circuits) : (c.onCirc g).evr = c.evr := rfl
@[simp] theorem Chip.onCirc_flash (c : Chip) (g : Circuits → Circuits) : (c.onCirc g).flash = c.flash := rfl

@[simp] theorem Chip.onEdge_edge (c : Chip) (g : Edge → Edge) : (c.onEdge g).edge = g c.edge := rfl
@[simp] theorem Chip.onEdge_regs (c : Chip) (g : Edge → Edge) : (c.onEdge g).regs = c.regs := rfl
@[simp] theorem Chip.onEdge_row (c : Chip) (g : Edge → Edge) : (c.onEdge g).row = c.row := rfl
@[simp] theorem Chip.onEdge_cyc (c : Chip) (g : Edge → Edge) : (c.onEdge g).cyc = c.cyc := rfl
@[simp] theorem Chip.onEdge_epoch (c : Chip) (g : Edge → Edge) : (c.onEdge g).epoch = c.epoch := rfl
@[simp] theorem Chip.onEdge_rowsRun (c : Chip) (g : Edge → Edge) : (c.onEdge g).rowsRun = c.rowsRun := rfl
@[simp] theorem Chip.onEdge_captured (c : Chip) (g : Edge → Edge) : (c.onEdge g).captured = c.captured := rfl
@[simp] theorem Chip.onEdge_captureLost (c : Chip) (g : Edge → Edge) : (c.onEdge g).captureLost = c.captureLost := rfl
@[simp] theorem Chip.onEdge_drawn (c : Chip) (g : Edge → Edge) : (c.onEdge g).drawn = c.drawn := rfl
@[simp] theorem Chip.onEdge_reports (c : Chip) (g : Edge → Edge) : (c.onEdge g).reports = c.reports := rfl
@[simp] theorem Chip.onEdge_acc (c : Chip) (g : Edge → Edge) : (c.onEdge g).acc = c.acc := rfl
@[simp] theorem Chip.onEdge_opf (c : Chip) (g : Edge → Edge) : (c.onEdge g).opf = c.opf := rfl
@[simp] theorem Chip.onEdge_lanes (c : Chip) (g : Edge → Edge) : (c.onEdge g).lanes = c.lanes := rfl
@[simp] theorem Chip.onEdge_xport (c : Chip) (g : Edge → Edge) : (c.onEdge g).xport = c.xport := rfl
@[simp] theorem Chip.onEdge_sync (c : Chip) (g : Edge → Edge) : (c.onEdge g).sync = c.sync := rfl
@[simp] theorem Chip.onEdge_mems (c : Chip) (g : Edge → Edge) : (c.onEdge g).mems = c.mems := rfl
@[simp] theorem Chip.onEdge_light (c : Chip) (g : Edge → Edge) : (c.onEdge g).light = c.light := rfl
@[simp] theorem Chip.onEdge_tns (c : Chip) (g : Edge → Edge) : (c.onEdge g).tns = c.tns := rfl
@[simp] theorem Chip.onEdge_pcu (c : Chip) (g : Edge → Edge) : (c.onEdge g).pcu = c.pcu := rfl
@[simp] theorem Chip.onEdge_pins (c : Chip) (g : Edge → Edge) : (c.onEdge g).pins = c.pins := rfl
@[simp] theorem Chip.onEdge_circ (c : Chip) (g : Edge → Edge) : (c.onEdge g).circ = c.circ := rfl
@[simp] theorem Chip.onEdge_red (c : Chip) (g : Edge → Edge) : (c.onEdge g).red = c.red := rfl
@[simp] theorem Chip.onEdge_cmd (c : Chip) (g : Edge → Edge) : (c.onEdge g).cmd = c.cmd := rfl
@[simp] theorem Chip.onEdge_hio (c : Chip) (g : Edge → Edge) : (c.onEdge g).hio = c.hio := rfl
@[simp] theorem Chip.onEdge_time (c : Chip) (g : Edge → Edge) : (c.onEdge g).time = c.time := rfl
@[simp] theorem Chip.onEdge_comp (c : Chip) (g : Edge → Edge) : (c.onEdge g).comp = c.comp := rfl
@[simp] theorem Chip.onEdge_mxe (c : Chip) (g : Edge → Edge) : (c.onEdge g).mxe = c.mxe := rfl
@[simp] theorem Chip.onEdge_part (c : Chip) (g : Edge → Edge) : (c.onEdge g).part = c.part := rfl
@[simp] theorem Chip.onEdge_clk (c : Chip) (g : Edge → Edge) : (c.onEdge g).clk = c.clk := rfl
@[simp] theorem Chip.onEdge_pwr (c : Chip) (g : Edge → Edge) : (c.onEdge g).pwr = c.pwr := rfl
@[simp] theorem Chip.onEdge_thm (c : Chip) (g : Edge → Edge) : (c.onEdge g).thm = c.thm := rfl
@[simp] theorem Chip.onEdge_sec (c : Chip) (g : Edge → Edge) : (c.onEdge g).sec = c.sec := rfl
@[simp] theorem Chip.onEdge_evr (c : Chip) (g : Edge → Edge) : (c.onEdge g).evr = c.evr := rfl
@[simp] theorem Chip.onEdge_flash (c : Chip) (g : Edge → Edge) : (c.onEdge g).flash = c.flash := rfl

@[simp] theorem Chip.onRed_red (c : Chip) (g : Combining → Combining) : (c.onRed g).red = g c.red := rfl
@[simp] theorem Chip.onRed_regs (c : Chip) (g : Combining → Combining) : (c.onRed g).regs = c.regs := rfl
@[simp] theorem Chip.onRed_row (c : Chip) (g : Combining → Combining) : (c.onRed g).row = c.row := rfl
@[simp] theorem Chip.onRed_cyc (c : Chip) (g : Combining → Combining) : (c.onRed g).cyc = c.cyc := rfl
@[simp] theorem Chip.onRed_epoch (c : Chip) (g : Combining → Combining) : (c.onRed g).epoch = c.epoch := rfl
@[simp] theorem Chip.onRed_rowsRun (c : Chip) (g : Combining → Combining) : (c.onRed g).rowsRun = c.rowsRun := rfl
@[simp] theorem Chip.onRed_captured (c : Chip) (g : Combining → Combining) : (c.onRed g).captured = c.captured := rfl
@[simp] theorem Chip.onRed_captureLost (c : Chip) (g : Combining → Combining) : (c.onRed g).captureLost = c.captureLost := rfl
@[simp] theorem Chip.onRed_drawn (c : Chip) (g : Combining → Combining) : (c.onRed g).drawn = c.drawn := rfl
@[simp] theorem Chip.onRed_reports (c : Chip) (g : Combining → Combining) : (c.onRed g).reports = c.reports := rfl
@[simp] theorem Chip.onRed_acc (c : Chip) (g : Combining → Combining) : (c.onRed g).acc = c.acc := rfl
@[simp] theorem Chip.onRed_opf (c : Chip) (g : Combining → Combining) : (c.onRed g).opf = c.opf := rfl
@[simp] theorem Chip.onRed_lanes (c : Chip) (g : Combining → Combining) : (c.onRed g).lanes = c.lanes := rfl
@[simp] theorem Chip.onRed_xport (c : Chip) (g : Combining → Combining) : (c.onRed g).xport = c.xport := rfl
@[simp] theorem Chip.onRed_sync (c : Chip) (g : Combining → Combining) : (c.onRed g).sync = c.sync := rfl
@[simp] theorem Chip.onRed_mems (c : Chip) (g : Combining → Combining) : (c.onRed g).mems = c.mems := rfl
@[simp] theorem Chip.onRed_light (c : Chip) (g : Combining → Combining) : (c.onRed g).light = c.light := rfl
@[simp] theorem Chip.onRed_tns (c : Chip) (g : Combining → Combining) : (c.onRed g).tns = c.tns := rfl
@[simp] theorem Chip.onRed_pcu (c : Chip) (g : Combining → Combining) : (c.onRed g).pcu = c.pcu := rfl
@[simp] theorem Chip.onRed_pins (c : Chip) (g : Combining → Combining) : (c.onRed g).pins = c.pins := rfl
@[simp] theorem Chip.onRed_circ (c : Chip) (g : Combining → Combining) : (c.onRed g).circ = c.circ := rfl
@[simp] theorem Chip.onRed_edge (c : Chip) (g : Combining → Combining) : (c.onRed g).edge = c.edge := rfl
@[simp] theorem Chip.onRed_cmd (c : Chip) (g : Combining → Combining) : (c.onRed g).cmd = c.cmd := rfl
@[simp] theorem Chip.onRed_hio (c : Chip) (g : Combining → Combining) : (c.onRed g).hio = c.hio := rfl
@[simp] theorem Chip.onRed_time (c : Chip) (g : Combining → Combining) : (c.onRed g).time = c.time := rfl
@[simp] theorem Chip.onRed_comp (c : Chip) (g : Combining → Combining) : (c.onRed g).comp = c.comp := rfl
@[simp] theorem Chip.onRed_mxe (c : Chip) (g : Combining → Combining) : (c.onRed g).mxe = c.mxe := rfl
@[simp] theorem Chip.onRed_part (c : Chip) (g : Combining → Combining) : (c.onRed g).part = c.part := rfl
@[simp] theorem Chip.onRed_clk (c : Chip) (g : Combining → Combining) : (c.onRed g).clk = c.clk := rfl
@[simp] theorem Chip.onRed_pwr (c : Chip) (g : Combining → Combining) : (c.onRed g).pwr = c.pwr := rfl
@[simp] theorem Chip.onRed_thm (c : Chip) (g : Combining → Combining) : (c.onRed g).thm = c.thm := rfl
@[simp] theorem Chip.onRed_sec (c : Chip) (g : Combining → Combining) : (c.onRed g).sec = c.sec := rfl
@[simp] theorem Chip.onRed_evr (c : Chip) (g : Combining → Combining) : (c.onRed g).evr = c.evr := rfl
@[simp] theorem Chip.onRed_flash (c : Chip) (g : Combining → Combining) : (c.onRed g).flash = c.flash := rfl

@[simp] theorem Chip.onCmd_cmd (c : Chip) (g : Commands → Commands) : (c.onCmd g).cmd = g c.cmd := rfl
@[simp] theorem Chip.onCmd_regs (c : Chip) (g : Commands → Commands) : (c.onCmd g).regs = c.regs := rfl
@[simp] theorem Chip.onCmd_row (c : Chip) (g : Commands → Commands) : (c.onCmd g).row = c.row := rfl
@[simp] theorem Chip.onCmd_cyc (c : Chip) (g : Commands → Commands) : (c.onCmd g).cyc = c.cyc := rfl
@[simp] theorem Chip.onCmd_epoch (c : Chip) (g : Commands → Commands) : (c.onCmd g).epoch = c.epoch := rfl
@[simp] theorem Chip.onCmd_rowsRun (c : Chip) (g : Commands → Commands) : (c.onCmd g).rowsRun = c.rowsRun := rfl
@[simp] theorem Chip.onCmd_captured (c : Chip) (g : Commands → Commands) : (c.onCmd g).captured = c.captured := rfl
@[simp] theorem Chip.onCmd_captureLost (c : Chip) (g : Commands → Commands) : (c.onCmd g).captureLost = c.captureLost := rfl
@[simp] theorem Chip.onCmd_drawn (c : Chip) (g : Commands → Commands) : (c.onCmd g).drawn = c.drawn := rfl
@[simp] theorem Chip.onCmd_reports (c : Chip) (g : Commands → Commands) : (c.onCmd g).reports = c.reports := rfl
@[simp] theorem Chip.onCmd_acc (c : Chip) (g : Commands → Commands) : (c.onCmd g).acc = c.acc := rfl
@[simp] theorem Chip.onCmd_opf (c : Chip) (g : Commands → Commands) : (c.onCmd g).opf = c.opf := rfl
@[simp] theorem Chip.onCmd_lanes (c : Chip) (g : Commands → Commands) : (c.onCmd g).lanes = c.lanes := rfl
@[simp] theorem Chip.onCmd_xport (c : Chip) (g : Commands → Commands) : (c.onCmd g).xport = c.xport := rfl
@[simp] theorem Chip.onCmd_sync (c : Chip) (g : Commands → Commands) : (c.onCmd g).sync = c.sync := rfl
@[simp] theorem Chip.onCmd_mems (c : Chip) (g : Commands → Commands) : (c.onCmd g).mems = c.mems := rfl
@[simp] theorem Chip.onCmd_light (c : Chip) (g : Commands → Commands) : (c.onCmd g).light = c.light := rfl
@[simp] theorem Chip.onCmd_tns (c : Chip) (g : Commands → Commands) : (c.onCmd g).tns = c.tns := rfl
@[simp] theorem Chip.onCmd_pcu (c : Chip) (g : Commands → Commands) : (c.onCmd g).pcu = c.pcu := rfl
@[simp] theorem Chip.onCmd_pins (c : Chip) (g : Commands → Commands) : (c.onCmd g).pins = c.pins := rfl
@[simp] theorem Chip.onCmd_circ (c : Chip) (g : Commands → Commands) : (c.onCmd g).circ = c.circ := rfl
@[simp] theorem Chip.onCmd_edge (c : Chip) (g : Commands → Commands) : (c.onCmd g).edge = c.edge := rfl
@[simp] theorem Chip.onCmd_red (c : Chip) (g : Commands → Commands) : (c.onCmd g).red = c.red := rfl
@[simp] theorem Chip.onCmd_hio (c : Chip) (g : Commands → Commands) : (c.onCmd g).hio = c.hio := rfl
@[simp] theorem Chip.onCmd_time (c : Chip) (g : Commands → Commands) : (c.onCmd g).time = c.time := rfl
@[simp] theorem Chip.onCmd_comp (c : Chip) (g : Commands → Commands) : (c.onCmd g).comp = c.comp := rfl
@[simp] theorem Chip.onCmd_mxe (c : Chip) (g : Commands → Commands) : (c.onCmd g).mxe = c.mxe := rfl
@[simp] theorem Chip.onCmd_part (c : Chip) (g : Commands → Commands) : (c.onCmd g).part = c.part := rfl
@[simp] theorem Chip.onCmd_clk (c : Chip) (g : Commands → Commands) : (c.onCmd g).clk = c.clk := rfl
@[simp] theorem Chip.onCmd_pwr (c : Chip) (g : Commands → Commands) : (c.onCmd g).pwr = c.pwr := rfl
@[simp] theorem Chip.onCmd_thm (c : Chip) (g : Commands → Commands) : (c.onCmd g).thm = c.thm := rfl
@[simp] theorem Chip.onCmd_sec (c : Chip) (g : Commands → Commands) : (c.onCmd g).sec = c.sec := rfl
@[simp] theorem Chip.onCmd_evr (c : Chip) (g : Commands → Commands) : (c.onCmd g).evr = c.evr := rfl
@[simp] theorem Chip.onCmd_flash (c : Chip) (g : Commands → Commands) : (c.onCmd g).flash = c.flash := rfl

@[simp] theorem Chip.onHio_hio (c : Chip) (g : HostIo → HostIo) : (c.onHio g).hio = g c.hio := rfl
@[simp] theorem Chip.onHio_regs (c : Chip) (g : HostIo → HostIo) : (c.onHio g).regs = c.regs := rfl
@[simp] theorem Chip.onHio_row (c : Chip) (g : HostIo → HostIo) : (c.onHio g).row = c.row := rfl
@[simp] theorem Chip.onHio_cyc (c : Chip) (g : HostIo → HostIo) : (c.onHio g).cyc = c.cyc := rfl
@[simp] theorem Chip.onHio_epoch (c : Chip) (g : HostIo → HostIo) : (c.onHio g).epoch = c.epoch := rfl
@[simp] theorem Chip.onHio_rowsRun (c : Chip) (g : HostIo → HostIo) : (c.onHio g).rowsRun = c.rowsRun := rfl
@[simp] theorem Chip.onHio_captured (c : Chip) (g : HostIo → HostIo) : (c.onHio g).captured = c.captured := rfl
@[simp] theorem Chip.onHio_captureLost (c : Chip) (g : HostIo → HostIo) : (c.onHio g).captureLost = c.captureLost := rfl
@[simp] theorem Chip.onHio_drawn (c : Chip) (g : HostIo → HostIo) : (c.onHio g).drawn = c.drawn := rfl
@[simp] theorem Chip.onHio_reports (c : Chip) (g : HostIo → HostIo) : (c.onHio g).reports = c.reports := rfl
@[simp] theorem Chip.onHio_acc (c : Chip) (g : HostIo → HostIo) : (c.onHio g).acc = c.acc := rfl
@[simp] theorem Chip.onHio_opf (c : Chip) (g : HostIo → HostIo) : (c.onHio g).opf = c.opf := rfl
@[simp] theorem Chip.onHio_lanes (c : Chip) (g : HostIo → HostIo) : (c.onHio g).lanes = c.lanes := rfl
@[simp] theorem Chip.onHio_xport (c : Chip) (g : HostIo → HostIo) : (c.onHio g).xport = c.xport := rfl
@[simp] theorem Chip.onHio_sync (c : Chip) (g : HostIo → HostIo) : (c.onHio g).sync = c.sync := rfl
@[simp] theorem Chip.onHio_mems (c : Chip) (g : HostIo → HostIo) : (c.onHio g).mems = c.mems := rfl
@[simp] theorem Chip.onHio_light (c : Chip) (g : HostIo → HostIo) : (c.onHio g).light = c.light := rfl
@[simp] theorem Chip.onHio_tns (c : Chip) (g : HostIo → HostIo) : (c.onHio g).tns = c.tns := rfl
@[simp] theorem Chip.onHio_pcu (c : Chip) (g : HostIo → HostIo) : (c.onHio g).pcu = c.pcu := rfl
@[simp] theorem Chip.onHio_pins (c : Chip) (g : HostIo → HostIo) : (c.onHio g).pins = c.pins := rfl
@[simp] theorem Chip.onHio_circ (c : Chip) (g : HostIo → HostIo) : (c.onHio g).circ = c.circ := rfl
@[simp] theorem Chip.onHio_edge (c : Chip) (g : HostIo → HostIo) : (c.onHio g).edge = c.edge := rfl
@[simp] theorem Chip.onHio_red (c : Chip) (g : HostIo → HostIo) : (c.onHio g).red = c.red := rfl
@[simp] theorem Chip.onHio_cmd (c : Chip) (g : HostIo → HostIo) : (c.onHio g).cmd = c.cmd := rfl
@[simp] theorem Chip.onHio_time (c : Chip) (g : HostIo → HostIo) : (c.onHio g).time = c.time := rfl
@[simp] theorem Chip.onHio_comp (c : Chip) (g : HostIo → HostIo) : (c.onHio g).comp = c.comp := rfl
@[simp] theorem Chip.onHio_mxe (c : Chip) (g : HostIo → HostIo) : (c.onHio g).mxe = c.mxe := rfl
@[simp] theorem Chip.onHio_part (c : Chip) (g : HostIo → HostIo) : (c.onHio g).part = c.part := rfl
@[simp] theorem Chip.onHio_clk (c : Chip) (g : HostIo → HostIo) : (c.onHio g).clk = c.clk := rfl
@[simp] theorem Chip.onHio_pwr (c : Chip) (g : HostIo → HostIo) : (c.onHio g).pwr = c.pwr := rfl
@[simp] theorem Chip.onHio_thm (c : Chip) (g : HostIo → HostIo) : (c.onHio g).thm = c.thm := rfl
@[simp] theorem Chip.onHio_sec (c : Chip) (g : HostIo → HostIo) : (c.onHio g).sec = c.sec := rfl
@[simp] theorem Chip.onHio_evr (c : Chip) (g : HostIo → HostIo) : (c.onHio g).evr = c.evr := rfl
@[simp] theorem Chip.onHio_flash (c : Chip) (g : HostIo → HostIo) : (c.onHio g).flash = c.flash := rfl

@[simp] theorem Chip.onTime_time (c : Chip) (g : TimeSvc → TimeSvc) : (c.onTime g).time = g c.time := rfl
@[simp] theorem Chip.onTime_regs (c : Chip) (g : TimeSvc → TimeSvc) : (c.onTime g).regs = c.regs := rfl
@[simp] theorem Chip.onTime_row (c : Chip) (g : TimeSvc → TimeSvc) : (c.onTime g).row = c.row := rfl
@[simp] theorem Chip.onTime_cyc (c : Chip) (g : TimeSvc → TimeSvc) : (c.onTime g).cyc = c.cyc := rfl
@[simp] theorem Chip.onTime_epoch (c : Chip) (g : TimeSvc → TimeSvc) : (c.onTime g).epoch = c.epoch := rfl
@[simp] theorem Chip.onTime_rowsRun (c : Chip) (g : TimeSvc → TimeSvc) : (c.onTime g).rowsRun = c.rowsRun := rfl
@[simp] theorem Chip.onTime_captured (c : Chip) (g : TimeSvc → TimeSvc) : (c.onTime g).captured = c.captured := rfl
@[simp] theorem Chip.onTime_captureLost (c : Chip) (g : TimeSvc → TimeSvc) : (c.onTime g).captureLost = c.captureLost := rfl
@[simp] theorem Chip.onTime_drawn (c : Chip) (g : TimeSvc → TimeSvc) : (c.onTime g).drawn = c.drawn := rfl
@[simp] theorem Chip.onTime_reports (c : Chip) (g : TimeSvc → TimeSvc) : (c.onTime g).reports = c.reports := rfl
@[simp] theorem Chip.onTime_acc (c : Chip) (g : TimeSvc → TimeSvc) : (c.onTime g).acc = c.acc := rfl
@[simp] theorem Chip.onTime_opf (c : Chip) (g : TimeSvc → TimeSvc) : (c.onTime g).opf = c.opf := rfl
@[simp] theorem Chip.onTime_lanes (c : Chip) (g : TimeSvc → TimeSvc) : (c.onTime g).lanes = c.lanes := rfl
@[simp] theorem Chip.onTime_xport (c : Chip) (g : TimeSvc → TimeSvc) : (c.onTime g).xport = c.xport := rfl
@[simp] theorem Chip.onTime_sync (c : Chip) (g : TimeSvc → TimeSvc) : (c.onTime g).sync = c.sync := rfl
@[simp] theorem Chip.onTime_mems (c : Chip) (g : TimeSvc → TimeSvc) : (c.onTime g).mems = c.mems := rfl
@[simp] theorem Chip.onTime_light (c : Chip) (g : TimeSvc → TimeSvc) : (c.onTime g).light = c.light := rfl
@[simp] theorem Chip.onTime_tns (c : Chip) (g : TimeSvc → TimeSvc) : (c.onTime g).tns = c.tns := rfl
@[simp] theorem Chip.onTime_pcu (c : Chip) (g : TimeSvc → TimeSvc) : (c.onTime g).pcu = c.pcu := rfl
@[simp] theorem Chip.onTime_pins (c : Chip) (g : TimeSvc → TimeSvc) : (c.onTime g).pins = c.pins := rfl
@[simp] theorem Chip.onTime_circ (c : Chip) (g : TimeSvc → TimeSvc) : (c.onTime g).circ = c.circ := rfl
@[simp] theorem Chip.onTime_edge (c : Chip) (g : TimeSvc → TimeSvc) : (c.onTime g).edge = c.edge := rfl
@[simp] theorem Chip.onTime_red (c : Chip) (g : TimeSvc → TimeSvc) : (c.onTime g).red = c.red := rfl
@[simp] theorem Chip.onTime_cmd (c : Chip) (g : TimeSvc → TimeSvc) : (c.onTime g).cmd = c.cmd := rfl
@[simp] theorem Chip.onTime_hio (c : Chip) (g : TimeSvc → TimeSvc) : (c.onTime g).hio = c.hio := rfl
@[simp] theorem Chip.onTime_comp (c : Chip) (g : TimeSvc → TimeSvc) : (c.onTime g).comp = c.comp := rfl
@[simp] theorem Chip.onTime_mxe (c : Chip) (g : TimeSvc → TimeSvc) : (c.onTime g).mxe = c.mxe := rfl
@[simp] theorem Chip.onTime_part (c : Chip) (g : TimeSvc → TimeSvc) : (c.onTime g).part = c.part := rfl
@[simp] theorem Chip.onTime_clk (c : Chip) (g : TimeSvc → TimeSvc) : (c.onTime g).clk = c.clk := rfl
@[simp] theorem Chip.onTime_pwr (c : Chip) (g : TimeSvc → TimeSvc) : (c.onTime g).pwr = c.pwr := rfl
@[simp] theorem Chip.onTime_thm (c : Chip) (g : TimeSvc → TimeSvc) : (c.onTime g).thm = c.thm := rfl
@[simp] theorem Chip.onTime_sec (c : Chip) (g : TimeSvc → TimeSvc) : (c.onTime g).sec = c.sec := rfl
@[simp] theorem Chip.onTime_evr (c : Chip) (g : TimeSvc → TimeSvc) : (c.onTime g).evr = c.evr := rfl
@[simp] theorem Chip.onTime_flash (c : Chip) (g : TimeSvc → TimeSvc) : (c.onTime g).flash = c.flash := rfl

@[simp] theorem Chip.onComp_comp (c : Chip) (g : Compute → Compute) : (c.onComp g).comp = g c.comp := rfl
@[simp] theorem Chip.onComp_regs (c : Chip) (g : Compute → Compute) : (c.onComp g).regs = c.regs := rfl
@[simp] theorem Chip.onComp_row (c : Chip) (g : Compute → Compute) : (c.onComp g).row = c.row := rfl
@[simp] theorem Chip.onComp_cyc (c : Chip) (g : Compute → Compute) : (c.onComp g).cyc = c.cyc := rfl
@[simp] theorem Chip.onComp_epoch (c : Chip) (g : Compute → Compute) : (c.onComp g).epoch = c.epoch := rfl
@[simp] theorem Chip.onComp_rowsRun (c : Chip) (g : Compute → Compute) : (c.onComp g).rowsRun = c.rowsRun := rfl
@[simp] theorem Chip.onComp_captured (c : Chip) (g : Compute → Compute) : (c.onComp g).captured = c.captured := rfl
@[simp] theorem Chip.onComp_captureLost (c : Chip) (g : Compute → Compute) : (c.onComp g).captureLost = c.captureLost := rfl
@[simp] theorem Chip.onComp_drawn (c : Chip) (g : Compute → Compute) : (c.onComp g).drawn = c.drawn := rfl
@[simp] theorem Chip.onComp_reports (c : Chip) (g : Compute → Compute) : (c.onComp g).reports = c.reports := rfl
@[simp] theorem Chip.onComp_acc (c : Chip) (g : Compute → Compute) : (c.onComp g).acc = c.acc := rfl
@[simp] theorem Chip.onComp_opf (c : Chip) (g : Compute → Compute) : (c.onComp g).opf = c.opf := rfl
@[simp] theorem Chip.onComp_lanes (c : Chip) (g : Compute → Compute) : (c.onComp g).lanes = c.lanes := rfl
@[simp] theorem Chip.onComp_xport (c : Chip) (g : Compute → Compute) : (c.onComp g).xport = c.xport := rfl
@[simp] theorem Chip.onComp_sync (c : Chip) (g : Compute → Compute) : (c.onComp g).sync = c.sync := rfl
@[simp] theorem Chip.onComp_mems (c : Chip) (g : Compute → Compute) : (c.onComp g).mems = c.mems := rfl
@[simp] theorem Chip.onComp_light (c : Chip) (g : Compute → Compute) : (c.onComp g).light = c.light := rfl
@[simp] theorem Chip.onComp_tns (c : Chip) (g : Compute → Compute) : (c.onComp g).tns = c.tns := rfl
@[simp] theorem Chip.onComp_pcu (c : Chip) (g : Compute → Compute) : (c.onComp g).pcu = c.pcu := rfl
@[simp] theorem Chip.onComp_pins (c : Chip) (g : Compute → Compute) : (c.onComp g).pins = c.pins := rfl
@[simp] theorem Chip.onComp_circ (c : Chip) (g : Compute → Compute) : (c.onComp g).circ = c.circ := rfl
@[simp] theorem Chip.onComp_edge (c : Chip) (g : Compute → Compute) : (c.onComp g).edge = c.edge := rfl
@[simp] theorem Chip.onComp_red (c : Chip) (g : Compute → Compute) : (c.onComp g).red = c.red := rfl
@[simp] theorem Chip.onComp_cmd (c : Chip) (g : Compute → Compute) : (c.onComp g).cmd = c.cmd := rfl
@[simp] theorem Chip.onComp_hio (c : Chip) (g : Compute → Compute) : (c.onComp g).hio = c.hio := rfl
@[simp] theorem Chip.onComp_time (c : Chip) (g : Compute → Compute) : (c.onComp g).time = c.time := rfl
@[simp] theorem Chip.onComp_mxe (c : Chip) (g : Compute → Compute) : (c.onComp g).mxe = c.mxe := rfl
@[simp] theorem Chip.onComp_part (c : Chip) (g : Compute → Compute) : (c.onComp g).part = c.part := rfl
@[simp] theorem Chip.onComp_clk (c : Chip) (g : Compute → Compute) : (c.onComp g).clk = c.clk := rfl
@[simp] theorem Chip.onComp_pwr (c : Chip) (g : Compute → Compute) : (c.onComp g).pwr = c.pwr := rfl
@[simp] theorem Chip.onComp_thm (c : Chip) (g : Compute → Compute) : (c.onComp g).thm = c.thm := rfl
@[simp] theorem Chip.onComp_sec (c : Chip) (g : Compute → Compute) : (c.onComp g).sec = c.sec := rfl
@[simp] theorem Chip.onComp_evr (c : Chip) (g : Compute → Compute) : (c.onComp g).evr = c.evr := rfl
@[simp] theorem Chip.onComp_flash (c : Chip) (g : Compute → Compute) : (c.onComp g).flash = c.flash := rfl

@[simp] theorem Chip.onMxe_mxe (c : Chip) (g : Mxe → Mxe) : (c.onMxe g).mxe = g c.mxe := rfl
@[simp] theorem Chip.onMxe_regs (c : Chip) (g : Mxe → Mxe) : (c.onMxe g).regs = c.regs := rfl
@[simp] theorem Chip.onMxe_row (c : Chip) (g : Mxe → Mxe) : (c.onMxe g).row = c.row := rfl
@[simp] theorem Chip.onMxe_cyc (c : Chip) (g : Mxe → Mxe) : (c.onMxe g).cyc = c.cyc := rfl
@[simp] theorem Chip.onMxe_epoch (c : Chip) (g : Mxe → Mxe) : (c.onMxe g).epoch = c.epoch := rfl
@[simp] theorem Chip.onMxe_rowsRun (c : Chip) (g : Mxe → Mxe) : (c.onMxe g).rowsRun = c.rowsRun := rfl
@[simp] theorem Chip.onMxe_captured (c : Chip) (g : Mxe → Mxe) : (c.onMxe g).captured = c.captured := rfl
@[simp] theorem Chip.onMxe_captureLost (c : Chip) (g : Mxe → Mxe) : (c.onMxe g).captureLost = c.captureLost := rfl
@[simp] theorem Chip.onMxe_drawn (c : Chip) (g : Mxe → Mxe) : (c.onMxe g).drawn = c.drawn := rfl
@[simp] theorem Chip.onMxe_reports (c : Chip) (g : Mxe → Mxe) : (c.onMxe g).reports = c.reports := rfl
@[simp] theorem Chip.onMxe_acc (c : Chip) (g : Mxe → Mxe) : (c.onMxe g).acc = c.acc := rfl
@[simp] theorem Chip.onMxe_opf (c : Chip) (g : Mxe → Mxe) : (c.onMxe g).opf = c.opf := rfl
@[simp] theorem Chip.onMxe_lanes (c : Chip) (g : Mxe → Mxe) : (c.onMxe g).lanes = c.lanes := rfl
@[simp] theorem Chip.onMxe_xport (c : Chip) (g : Mxe → Mxe) : (c.onMxe g).xport = c.xport := rfl
@[simp] theorem Chip.onMxe_sync (c : Chip) (g : Mxe → Mxe) : (c.onMxe g).sync = c.sync := rfl
@[simp] theorem Chip.onMxe_mems (c : Chip) (g : Mxe → Mxe) : (c.onMxe g).mems = c.mems := rfl
@[simp] theorem Chip.onMxe_light (c : Chip) (g : Mxe → Mxe) : (c.onMxe g).light = c.light := rfl
@[simp] theorem Chip.onMxe_tns (c : Chip) (g : Mxe → Mxe) : (c.onMxe g).tns = c.tns := rfl
@[simp] theorem Chip.onMxe_pcu (c : Chip) (g : Mxe → Mxe) : (c.onMxe g).pcu = c.pcu := rfl
@[simp] theorem Chip.onMxe_pins (c : Chip) (g : Mxe → Mxe) : (c.onMxe g).pins = c.pins := rfl
@[simp] theorem Chip.onMxe_circ (c : Chip) (g : Mxe → Mxe) : (c.onMxe g).circ = c.circ := rfl
@[simp] theorem Chip.onMxe_edge (c : Chip) (g : Mxe → Mxe) : (c.onMxe g).edge = c.edge := rfl
@[simp] theorem Chip.onMxe_red (c : Chip) (g : Mxe → Mxe) : (c.onMxe g).red = c.red := rfl
@[simp] theorem Chip.onMxe_cmd (c : Chip) (g : Mxe → Mxe) : (c.onMxe g).cmd = c.cmd := rfl
@[simp] theorem Chip.onMxe_hio (c : Chip) (g : Mxe → Mxe) : (c.onMxe g).hio = c.hio := rfl
@[simp] theorem Chip.onMxe_time (c : Chip) (g : Mxe → Mxe) : (c.onMxe g).time = c.time := rfl
@[simp] theorem Chip.onMxe_comp (c : Chip) (g : Mxe → Mxe) : (c.onMxe g).comp = c.comp := rfl
@[simp] theorem Chip.onMxe_part (c : Chip) (g : Mxe → Mxe) : (c.onMxe g).part = c.part := rfl
@[simp] theorem Chip.onMxe_clk (c : Chip) (g : Mxe → Mxe) : (c.onMxe g).clk = c.clk := rfl
@[simp] theorem Chip.onMxe_pwr (c : Chip) (g : Mxe → Mxe) : (c.onMxe g).pwr = c.pwr := rfl
@[simp] theorem Chip.onMxe_thm (c : Chip) (g : Mxe → Mxe) : (c.onMxe g).thm = c.thm := rfl
@[simp] theorem Chip.onMxe_sec (c : Chip) (g : Mxe → Mxe) : (c.onMxe g).sec = c.sec := rfl
@[simp] theorem Chip.onMxe_evr (c : Chip) (g : Mxe → Mxe) : (c.onMxe g).evr = c.evr := rfl
@[simp] theorem Chip.onMxe_flash (c : Chip) (g : Mxe → Mxe) : (c.onMxe g).flash = c.flash := rfl

@[simp] theorem Chip.onPart_part (c : Chip) (g : Partitions → Partitions) : (c.onPart g).part = g c.part := rfl
@[simp] theorem Chip.onPart_regs (c : Chip) (g : Partitions → Partitions) : (c.onPart g).regs = c.regs := rfl
@[simp] theorem Chip.onPart_row (c : Chip) (g : Partitions → Partitions) : (c.onPart g).row = c.row := rfl
@[simp] theorem Chip.onPart_cyc (c : Chip) (g : Partitions → Partitions) : (c.onPart g).cyc = c.cyc := rfl
@[simp] theorem Chip.onPart_epoch (c : Chip) (g : Partitions → Partitions) : (c.onPart g).epoch = c.epoch := rfl
@[simp] theorem Chip.onPart_rowsRun (c : Chip) (g : Partitions → Partitions) : (c.onPart g).rowsRun = c.rowsRun := rfl
@[simp] theorem Chip.onPart_captured (c : Chip) (g : Partitions → Partitions) : (c.onPart g).captured = c.captured := rfl
@[simp] theorem Chip.onPart_captureLost (c : Chip) (g : Partitions → Partitions) : (c.onPart g).captureLost = c.captureLost := rfl
@[simp] theorem Chip.onPart_drawn (c : Chip) (g : Partitions → Partitions) : (c.onPart g).drawn = c.drawn := rfl
@[simp] theorem Chip.onPart_reports (c : Chip) (g : Partitions → Partitions) : (c.onPart g).reports = c.reports := rfl
@[simp] theorem Chip.onPart_acc (c : Chip) (g : Partitions → Partitions) : (c.onPart g).acc = c.acc := rfl
@[simp] theorem Chip.onPart_opf (c : Chip) (g : Partitions → Partitions) : (c.onPart g).opf = c.opf := rfl
@[simp] theorem Chip.onPart_lanes (c : Chip) (g : Partitions → Partitions) : (c.onPart g).lanes = c.lanes := rfl
@[simp] theorem Chip.onPart_xport (c : Chip) (g : Partitions → Partitions) : (c.onPart g).xport = c.xport := rfl
@[simp] theorem Chip.onPart_sync (c : Chip) (g : Partitions → Partitions) : (c.onPart g).sync = c.sync := rfl
@[simp] theorem Chip.onPart_mems (c : Chip) (g : Partitions → Partitions) : (c.onPart g).mems = c.mems := rfl
@[simp] theorem Chip.onPart_light (c : Chip) (g : Partitions → Partitions) : (c.onPart g).light = c.light := rfl
@[simp] theorem Chip.onPart_tns (c : Chip) (g : Partitions → Partitions) : (c.onPart g).tns = c.tns := rfl
@[simp] theorem Chip.onPart_pcu (c : Chip) (g : Partitions → Partitions) : (c.onPart g).pcu = c.pcu := rfl
@[simp] theorem Chip.onPart_pins (c : Chip) (g : Partitions → Partitions) : (c.onPart g).pins = c.pins := rfl
@[simp] theorem Chip.onPart_circ (c : Chip) (g : Partitions → Partitions) : (c.onPart g).circ = c.circ := rfl
@[simp] theorem Chip.onPart_edge (c : Chip) (g : Partitions → Partitions) : (c.onPart g).edge = c.edge := rfl
@[simp] theorem Chip.onPart_red (c : Chip) (g : Partitions → Partitions) : (c.onPart g).red = c.red := rfl
@[simp] theorem Chip.onPart_cmd (c : Chip) (g : Partitions → Partitions) : (c.onPart g).cmd = c.cmd := rfl
@[simp] theorem Chip.onPart_hio (c : Chip) (g : Partitions → Partitions) : (c.onPart g).hio = c.hio := rfl
@[simp] theorem Chip.onPart_time (c : Chip) (g : Partitions → Partitions) : (c.onPart g).time = c.time := rfl
@[simp] theorem Chip.onPart_comp (c : Chip) (g : Partitions → Partitions) : (c.onPart g).comp = c.comp := rfl
@[simp] theorem Chip.onPart_mxe (c : Chip) (g : Partitions → Partitions) : (c.onPart g).mxe = c.mxe := rfl
@[simp] theorem Chip.onPart_clk (c : Chip) (g : Partitions → Partitions) : (c.onPart g).clk = c.clk := rfl
@[simp] theorem Chip.onPart_pwr (c : Chip) (g : Partitions → Partitions) : (c.onPart g).pwr = c.pwr := rfl
@[simp] theorem Chip.onPart_thm (c : Chip) (g : Partitions → Partitions) : (c.onPart g).thm = c.thm := rfl
@[simp] theorem Chip.onPart_sec (c : Chip) (g : Partitions → Partitions) : (c.onPart g).sec = c.sec := rfl
@[simp] theorem Chip.onPart_evr (c : Chip) (g : Partitions → Partitions) : (c.onPart g).evr = c.evr := rfl
@[simp] theorem Chip.onPart_flash (c : Chip) (g : Partitions → Partitions) : (c.onPart g).flash = c.flash := rfl

@[simp] theorem Chip.onClk_clk (c : Chip) (g : Clocks → Clocks) : (c.onClk g).clk = g c.clk := rfl
@[simp] theorem Chip.onClk_regs (c : Chip) (g : Clocks → Clocks) : (c.onClk g).regs = c.regs := rfl
@[simp] theorem Chip.onClk_row (c : Chip) (g : Clocks → Clocks) : (c.onClk g).row = c.row := rfl
@[simp] theorem Chip.onClk_cyc (c : Chip) (g : Clocks → Clocks) : (c.onClk g).cyc = c.cyc := rfl
@[simp] theorem Chip.onClk_epoch (c : Chip) (g : Clocks → Clocks) : (c.onClk g).epoch = c.epoch := rfl
@[simp] theorem Chip.onClk_rowsRun (c : Chip) (g : Clocks → Clocks) : (c.onClk g).rowsRun = c.rowsRun := rfl
@[simp] theorem Chip.onClk_captured (c : Chip) (g : Clocks → Clocks) : (c.onClk g).captured = c.captured := rfl
@[simp] theorem Chip.onClk_captureLost (c : Chip) (g : Clocks → Clocks) : (c.onClk g).captureLost = c.captureLost := rfl
@[simp] theorem Chip.onClk_drawn (c : Chip) (g : Clocks → Clocks) : (c.onClk g).drawn = c.drawn := rfl
@[simp] theorem Chip.onClk_reports (c : Chip) (g : Clocks → Clocks) : (c.onClk g).reports = c.reports := rfl
@[simp] theorem Chip.onClk_acc (c : Chip) (g : Clocks → Clocks) : (c.onClk g).acc = c.acc := rfl
@[simp] theorem Chip.onClk_opf (c : Chip) (g : Clocks → Clocks) : (c.onClk g).opf = c.opf := rfl
@[simp] theorem Chip.onClk_lanes (c : Chip) (g : Clocks → Clocks) : (c.onClk g).lanes = c.lanes := rfl
@[simp] theorem Chip.onClk_xport (c : Chip) (g : Clocks → Clocks) : (c.onClk g).xport = c.xport := rfl
@[simp] theorem Chip.onClk_sync (c : Chip) (g : Clocks → Clocks) : (c.onClk g).sync = c.sync := rfl
@[simp] theorem Chip.onClk_mems (c : Chip) (g : Clocks → Clocks) : (c.onClk g).mems = c.mems := rfl
@[simp] theorem Chip.onClk_light (c : Chip) (g : Clocks → Clocks) : (c.onClk g).light = c.light := rfl
@[simp] theorem Chip.onClk_tns (c : Chip) (g : Clocks → Clocks) : (c.onClk g).tns = c.tns := rfl
@[simp] theorem Chip.onClk_pcu (c : Chip) (g : Clocks → Clocks) : (c.onClk g).pcu = c.pcu := rfl
@[simp] theorem Chip.onClk_pins (c : Chip) (g : Clocks → Clocks) : (c.onClk g).pins = c.pins := rfl
@[simp] theorem Chip.onClk_circ (c : Chip) (g : Clocks → Clocks) : (c.onClk g).circ = c.circ := rfl
@[simp] theorem Chip.onClk_edge (c : Chip) (g : Clocks → Clocks) : (c.onClk g).edge = c.edge := rfl
@[simp] theorem Chip.onClk_red (c : Chip) (g : Clocks → Clocks) : (c.onClk g).red = c.red := rfl
@[simp] theorem Chip.onClk_cmd (c : Chip) (g : Clocks → Clocks) : (c.onClk g).cmd = c.cmd := rfl
@[simp] theorem Chip.onClk_hio (c : Chip) (g : Clocks → Clocks) : (c.onClk g).hio = c.hio := rfl
@[simp] theorem Chip.onClk_time (c : Chip) (g : Clocks → Clocks) : (c.onClk g).time = c.time := rfl
@[simp] theorem Chip.onClk_comp (c : Chip) (g : Clocks → Clocks) : (c.onClk g).comp = c.comp := rfl
@[simp] theorem Chip.onClk_mxe (c : Chip) (g : Clocks → Clocks) : (c.onClk g).mxe = c.mxe := rfl
@[simp] theorem Chip.onClk_part (c : Chip) (g : Clocks → Clocks) : (c.onClk g).part = c.part := rfl
@[simp] theorem Chip.onClk_pwr (c : Chip) (g : Clocks → Clocks) : (c.onClk g).pwr = c.pwr := rfl
@[simp] theorem Chip.onClk_thm (c : Chip) (g : Clocks → Clocks) : (c.onClk g).thm = c.thm := rfl
@[simp] theorem Chip.onClk_sec (c : Chip) (g : Clocks → Clocks) : (c.onClk g).sec = c.sec := rfl
@[simp] theorem Chip.onClk_evr (c : Chip) (g : Clocks → Clocks) : (c.onClk g).evr = c.evr := rfl
@[simp] theorem Chip.onClk_flash (c : Chip) (g : Clocks → Clocks) : (c.onClk g).flash = c.flash := rfl

@[simp] theorem Chip.onPwr_pwr (c : Chip) (g : Power → Power) : (c.onPwr g).pwr = g c.pwr := rfl
@[simp] theorem Chip.onPwr_regs (c : Chip) (g : Power → Power) : (c.onPwr g).regs = c.regs := rfl
@[simp] theorem Chip.onPwr_row (c : Chip) (g : Power → Power) : (c.onPwr g).row = c.row := rfl
@[simp] theorem Chip.onPwr_cyc (c : Chip) (g : Power → Power) : (c.onPwr g).cyc = c.cyc := rfl
@[simp] theorem Chip.onPwr_epoch (c : Chip) (g : Power → Power) : (c.onPwr g).epoch = c.epoch := rfl
@[simp] theorem Chip.onPwr_rowsRun (c : Chip) (g : Power → Power) : (c.onPwr g).rowsRun = c.rowsRun := rfl
@[simp] theorem Chip.onPwr_captured (c : Chip) (g : Power → Power) : (c.onPwr g).captured = c.captured := rfl
@[simp] theorem Chip.onPwr_captureLost (c : Chip) (g : Power → Power) : (c.onPwr g).captureLost = c.captureLost := rfl
@[simp] theorem Chip.onPwr_drawn (c : Chip) (g : Power → Power) : (c.onPwr g).drawn = c.drawn := rfl
@[simp] theorem Chip.onPwr_reports (c : Chip) (g : Power → Power) : (c.onPwr g).reports = c.reports := rfl
@[simp] theorem Chip.onPwr_acc (c : Chip) (g : Power → Power) : (c.onPwr g).acc = c.acc := rfl
@[simp] theorem Chip.onPwr_opf (c : Chip) (g : Power → Power) : (c.onPwr g).opf = c.opf := rfl
@[simp] theorem Chip.onPwr_lanes (c : Chip) (g : Power → Power) : (c.onPwr g).lanes = c.lanes := rfl
@[simp] theorem Chip.onPwr_xport (c : Chip) (g : Power → Power) : (c.onPwr g).xport = c.xport := rfl
@[simp] theorem Chip.onPwr_sync (c : Chip) (g : Power → Power) : (c.onPwr g).sync = c.sync := rfl
@[simp] theorem Chip.onPwr_mems (c : Chip) (g : Power → Power) : (c.onPwr g).mems = c.mems := rfl
@[simp] theorem Chip.onPwr_light (c : Chip) (g : Power → Power) : (c.onPwr g).light = c.light := rfl
@[simp] theorem Chip.onPwr_tns (c : Chip) (g : Power → Power) : (c.onPwr g).tns = c.tns := rfl
@[simp] theorem Chip.onPwr_pcu (c : Chip) (g : Power → Power) : (c.onPwr g).pcu = c.pcu := rfl
@[simp] theorem Chip.onPwr_pins (c : Chip) (g : Power → Power) : (c.onPwr g).pins = c.pins := rfl
@[simp] theorem Chip.onPwr_circ (c : Chip) (g : Power → Power) : (c.onPwr g).circ = c.circ := rfl
@[simp] theorem Chip.onPwr_edge (c : Chip) (g : Power → Power) : (c.onPwr g).edge = c.edge := rfl
@[simp] theorem Chip.onPwr_red (c : Chip) (g : Power → Power) : (c.onPwr g).red = c.red := rfl
@[simp] theorem Chip.onPwr_cmd (c : Chip) (g : Power → Power) : (c.onPwr g).cmd = c.cmd := rfl
@[simp] theorem Chip.onPwr_hio (c : Chip) (g : Power → Power) : (c.onPwr g).hio = c.hio := rfl
@[simp] theorem Chip.onPwr_time (c : Chip) (g : Power → Power) : (c.onPwr g).time = c.time := rfl
@[simp] theorem Chip.onPwr_comp (c : Chip) (g : Power → Power) : (c.onPwr g).comp = c.comp := rfl
@[simp] theorem Chip.onPwr_mxe (c : Chip) (g : Power → Power) : (c.onPwr g).mxe = c.mxe := rfl
@[simp] theorem Chip.onPwr_part (c : Chip) (g : Power → Power) : (c.onPwr g).part = c.part := rfl
@[simp] theorem Chip.onPwr_clk (c : Chip) (g : Power → Power) : (c.onPwr g).clk = c.clk := rfl
@[simp] theorem Chip.onPwr_thm (c : Chip) (g : Power → Power) : (c.onPwr g).thm = c.thm := rfl
@[simp] theorem Chip.onPwr_sec (c : Chip) (g : Power → Power) : (c.onPwr g).sec = c.sec := rfl
@[simp] theorem Chip.onPwr_evr (c : Chip) (g : Power → Power) : (c.onPwr g).evr = c.evr := rfl
@[simp] theorem Chip.onPwr_flash (c : Chip) (g : Power → Power) : (c.onPwr g).flash = c.flash := rfl

@[simp] theorem Chip.onThm_thm (c : Chip) (g : Thermal → Thermal) : (c.onThm g).thm = g c.thm := rfl
@[simp] theorem Chip.onThm_regs (c : Chip) (g : Thermal → Thermal) : (c.onThm g).regs = c.regs := rfl
@[simp] theorem Chip.onThm_row (c : Chip) (g : Thermal → Thermal) : (c.onThm g).row = c.row := rfl
@[simp] theorem Chip.onThm_cyc (c : Chip) (g : Thermal → Thermal) : (c.onThm g).cyc = c.cyc := rfl
@[simp] theorem Chip.onThm_epoch (c : Chip) (g : Thermal → Thermal) : (c.onThm g).epoch = c.epoch := rfl
@[simp] theorem Chip.onThm_rowsRun (c : Chip) (g : Thermal → Thermal) : (c.onThm g).rowsRun = c.rowsRun := rfl
@[simp] theorem Chip.onThm_captured (c : Chip) (g : Thermal → Thermal) : (c.onThm g).captured = c.captured := rfl
@[simp] theorem Chip.onThm_captureLost (c : Chip) (g : Thermal → Thermal) : (c.onThm g).captureLost = c.captureLost := rfl
@[simp] theorem Chip.onThm_drawn (c : Chip) (g : Thermal → Thermal) : (c.onThm g).drawn = c.drawn := rfl
@[simp] theorem Chip.onThm_reports (c : Chip) (g : Thermal → Thermal) : (c.onThm g).reports = c.reports := rfl
@[simp] theorem Chip.onThm_acc (c : Chip) (g : Thermal → Thermal) : (c.onThm g).acc = c.acc := rfl
@[simp] theorem Chip.onThm_opf (c : Chip) (g : Thermal → Thermal) : (c.onThm g).opf = c.opf := rfl
@[simp] theorem Chip.onThm_lanes (c : Chip) (g : Thermal → Thermal) : (c.onThm g).lanes = c.lanes := rfl
@[simp] theorem Chip.onThm_xport (c : Chip) (g : Thermal → Thermal) : (c.onThm g).xport = c.xport := rfl
@[simp] theorem Chip.onThm_sync (c : Chip) (g : Thermal → Thermal) : (c.onThm g).sync = c.sync := rfl
@[simp] theorem Chip.onThm_mems (c : Chip) (g : Thermal → Thermal) : (c.onThm g).mems = c.mems := rfl
@[simp] theorem Chip.onThm_light (c : Chip) (g : Thermal → Thermal) : (c.onThm g).light = c.light := rfl
@[simp] theorem Chip.onThm_tns (c : Chip) (g : Thermal → Thermal) : (c.onThm g).tns = c.tns := rfl
@[simp] theorem Chip.onThm_pcu (c : Chip) (g : Thermal → Thermal) : (c.onThm g).pcu = c.pcu := rfl
@[simp] theorem Chip.onThm_pins (c : Chip) (g : Thermal → Thermal) : (c.onThm g).pins = c.pins := rfl
@[simp] theorem Chip.onThm_circ (c : Chip) (g : Thermal → Thermal) : (c.onThm g).circ = c.circ := rfl
@[simp] theorem Chip.onThm_edge (c : Chip) (g : Thermal → Thermal) : (c.onThm g).edge = c.edge := rfl
@[simp] theorem Chip.onThm_red (c : Chip) (g : Thermal → Thermal) : (c.onThm g).red = c.red := rfl
@[simp] theorem Chip.onThm_cmd (c : Chip) (g : Thermal → Thermal) : (c.onThm g).cmd = c.cmd := rfl
@[simp] theorem Chip.onThm_hio (c : Chip) (g : Thermal → Thermal) : (c.onThm g).hio = c.hio := rfl
@[simp] theorem Chip.onThm_time (c : Chip) (g : Thermal → Thermal) : (c.onThm g).time = c.time := rfl
@[simp] theorem Chip.onThm_comp (c : Chip) (g : Thermal → Thermal) : (c.onThm g).comp = c.comp := rfl
@[simp] theorem Chip.onThm_mxe (c : Chip) (g : Thermal → Thermal) : (c.onThm g).mxe = c.mxe := rfl
@[simp] theorem Chip.onThm_part (c : Chip) (g : Thermal → Thermal) : (c.onThm g).part = c.part := rfl
@[simp] theorem Chip.onThm_clk (c : Chip) (g : Thermal → Thermal) : (c.onThm g).clk = c.clk := rfl
@[simp] theorem Chip.onThm_pwr (c : Chip) (g : Thermal → Thermal) : (c.onThm g).pwr = c.pwr := rfl
@[simp] theorem Chip.onThm_sec (c : Chip) (g : Thermal → Thermal) : (c.onThm g).sec = c.sec := rfl
@[simp] theorem Chip.onThm_evr (c : Chip) (g : Thermal → Thermal) : (c.onThm g).evr = c.evr := rfl
@[simp] theorem Chip.onThm_flash (c : Chip) (g : Thermal → Thermal) : (c.onThm g).flash = c.flash := rfl

@[simp] theorem Chip.onSec_sec (c : Chip) (g : Security → Security) : (c.onSec g).sec = g c.sec := rfl
@[simp] theorem Chip.onSec_regs (c : Chip) (g : Security → Security) : (c.onSec g).regs = c.regs := rfl
@[simp] theorem Chip.onSec_row (c : Chip) (g : Security → Security) : (c.onSec g).row = c.row := rfl
@[simp] theorem Chip.onSec_cyc (c : Chip) (g : Security → Security) : (c.onSec g).cyc = c.cyc := rfl
@[simp] theorem Chip.onSec_epoch (c : Chip) (g : Security → Security) : (c.onSec g).epoch = c.epoch := rfl
@[simp] theorem Chip.onSec_rowsRun (c : Chip) (g : Security → Security) : (c.onSec g).rowsRun = c.rowsRun := rfl
@[simp] theorem Chip.onSec_captured (c : Chip) (g : Security → Security) : (c.onSec g).captured = c.captured := rfl
@[simp] theorem Chip.onSec_captureLost (c : Chip) (g : Security → Security) : (c.onSec g).captureLost = c.captureLost := rfl
@[simp] theorem Chip.onSec_drawn (c : Chip) (g : Security → Security) : (c.onSec g).drawn = c.drawn := rfl
@[simp] theorem Chip.onSec_reports (c : Chip) (g : Security → Security) : (c.onSec g).reports = c.reports := rfl
@[simp] theorem Chip.onSec_acc (c : Chip) (g : Security → Security) : (c.onSec g).acc = c.acc := rfl
@[simp] theorem Chip.onSec_opf (c : Chip) (g : Security → Security) : (c.onSec g).opf = c.opf := rfl
@[simp] theorem Chip.onSec_lanes (c : Chip) (g : Security → Security) : (c.onSec g).lanes = c.lanes := rfl
@[simp] theorem Chip.onSec_xport (c : Chip) (g : Security → Security) : (c.onSec g).xport = c.xport := rfl
@[simp] theorem Chip.onSec_sync (c : Chip) (g : Security → Security) : (c.onSec g).sync = c.sync := rfl
@[simp] theorem Chip.onSec_mems (c : Chip) (g : Security → Security) : (c.onSec g).mems = c.mems := rfl
@[simp] theorem Chip.onSec_light (c : Chip) (g : Security → Security) : (c.onSec g).light = c.light := rfl
@[simp] theorem Chip.onSec_tns (c : Chip) (g : Security → Security) : (c.onSec g).tns = c.tns := rfl
@[simp] theorem Chip.onSec_pcu (c : Chip) (g : Security → Security) : (c.onSec g).pcu = c.pcu := rfl
@[simp] theorem Chip.onSec_pins (c : Chip) (g : Security → Security) : (c.onSec g).pins = c.pins := rfl
@[simp] theorem Chip.onSec_circ (c : Chip) (g : Security → Security) : (c.onSec g).circ = c.circ := rfl
@[simp] theorem Chip.onSec_edge (c : Chip) (g : Security → Security) : (c.onSec g).edge = c.edge := rfl
@[simp] theorem Chip.onSec_red (c : Chip) (g : Security → Security) : (c.onSec g).red = c.red := rfl
@[simp] theorem Chip.onSec_cmd (c : Chip) (g : Security → Security) : (c.onSec g).cmd = c.cmd := rfl
@[simp] theorem Chip.onSec_hio (c : Chip) (g : Security → Security) : (c.onSec g).hio = c.hio := rfl
@[simp] theorem Chip.onSec_time (c : Chip) (g : Security → Security) : (c.onSec g).time = c.time := rfl
@[simp] theorem Chip.onSec_comp (c : Chip) (g : Security → Security) : (c.onSec g).comp = c.comp := rfl
@[simp] theorem Chip.onSec_mxe (c : Chip) (g : Security → Security) : (c.onSec g).mxe = c.mxe := rfl
@[simp] theorem Chip.onSec_part (c : Chip) (g : Security → Security) : (c.onSec g).part = c.part := rfl
@[simp] theorem Chip.onSec_clk (c : Chip) (g : Security → Security) : (c.onSec g).clk = c.clk := rfl
@[simp] theorem Chip.onSec_pwr (c : Chip) (g : Security → Security) : (c.onSec g).pwr = c.pwr := rfl
@[simp] theorem Chip.onSec_thm (c : Chip) (g : Security → Security) : (c.onSec g).thm = c.thm := rfl
@[simp] theorem Chip.onSec_evr (c : Chip) (g : Security → Security) : (c.onSec g).evr = c.evr := rfl
@[simp] theorem Chip.onSec_flash (c : Chip) (g : Security → Security) : (c.onSec g).flash = c.flash := rfl

@[simp] theorem Chip.onEvr_evr (c : Chip) (g : Recorder → Recorder) : (c.onEvr g).evr = g c.evr := rfl
@[simp] theorem Chip.onEvr_regs (c : Chip) (g : Recorder → Recorder) : (c.onEvr g).regs = c.regs := rfl
@[simp] theorem Chip.onEvr_row (c : Chip) (g : Recorder → Recorder) : (c.onEvr g).row = c.row := rfl
@[simp] theorem Chip.onEvr_cyc (c : Chip) (g : Recorder → Recorder) : (c.onEvr g).cyc = c.cyc := rfl
@[simp] theorem Chip.onEvr_epoch (c : Chip) (g : Recorder → Recorder) : (c.onEvr g).epoch = c.epoch := rfl
@[simp] theorem Chip.onEvr_rowsRun (c : Chip) (g : Recorder → Recorder) : (c.onEvr g).rowsRun = c.rowsRun := rfl
@[simp] theorem Chip.onEvr_captured (c : Chip) (g : Recorder → Recorder) : (c.onEvr g).captured = c.captured := rfl
@[simp] theorem Chip.onEvr_captureLost (c : Chip) (g : Recorder → Recorder) : (c.onEvr g).captureLost = c.captureLost := rfl
@[simp] theorem Chip.onEvr_drawn (c : Chip) (g : Recorder → Recorder) : (c.onEvr g).drawn = c.drawn := rfl
@[simp] theorem Chip.onEvr_reports (c : Chip) (g : Recorder → Recorder) : (c.onEvr g).reports = c.reports := rfl
@[simp] theorem Chip.onEvr_acc (c : Chip) (g : Recorder → Recorder) : (c.onEvr g).acc = c.acc := rfl
@[simp] theorem Chip.onEvr_opf (c : Chip) (g : Recorder → Recorder) : (c.onEvr g).opf = c.opf := rfl
@[simp] theorem Chip.onEvr_lanes (c : Chip) (g : Recorder → Recorder) : (c.onEvr g).lanes = c.lanes := rfl
@[simp] theorem Chip.onEvr_xport (c : Chip) (g : Recorder → Recorder) : (c.onEvr g).xport = c.xport := rfl
@[simp] theorem Chip.onEvr_sync (c : Chip) (g : Recorder → Recorder) : (c.onEvr g).sync = c.sync := rfl
@[simp] theorem Chip.onEvr_mems (c : Chip) (g : Recorder → Recorder) : (c.onEvr g).mems = c.mems := rfl
@[simp] theorem Chip.onEvr_light (c : Chip) (g : Recorder → Recorder) : (c.onEvr g).light = c.light := rfl
@[simp] theorem Chip.onEvr_tns (c : Chip) (g : Recorder → Recorder) : (c.onEvr g).tns = c.tns := rfl
@[simp] theorem Chip.onEvr_pcu (c : Chip) (g : Recorder → Recorder) : (c.onEvr g).pcu = c.pcu := rfl
@[simp] theorem Chip.onEvr_pins (c : Chip) (g : Recorder → Recorder) : (c.onEvr g).pins = c.pins := rfl
@[simp] theorem Chip.onEvr_circ (c : Chip) (g : Recorder → Recorder) : (c.onEvr g).circ = c.circ := rfl
@[simp] theorem Chip.onEvr_edge (c : Chip) (g : Recorder → Recorder) : (c.onEvr g).edge = c.edge := rfl
@[simp] theorem Chip.onEvr_red (c : Chip) (g : Recorder → Recorder) : (c.onEvr g).red = c.red := rfl
@[simp] theorem Chip.onEvr_cmd (c : Chip) (g : Recorder → Recorder) : (c.onEvr g).cmd = c.cmd := rfl
@[simp] theorem Chip.onEvr_hio (c : Chip) (g : Recorder → Recorder) : (c.onEvr g).hio = c.hio := rfl
@[simp] theorem Chip.onEvr_time (c : Chip) (g : Recorder → Recorder) : (c.onEvr g).time = c.time := rfl
@[simp] theorem Chip.onEvr_comp (c : Chip) (g : Recorder → Recorder) : (c.onEvr g).comp = c.comp := rfl
@[simp] theorem Chip.onEvr_mxe (c : Chip) (g : Recorder → Recorder) : (c.onEvr g).mxe = c.mxe := rfl
@[simp] theorem Chip.onEvr_part (c : Chip) (g : Recorder → Recorder) : (c.onEvr g).part = c.part := rfl
@[simp] theorem Chip.onEvr_clk (c : Chip) (g : Recorder → Recorder) : (c.onEvr g).clk = c.clk := rfl
@[simp] theorem Chip.onEvr_pwr (c : Chip) (g : Recorder → Recorder) : (c.onEvr g).pwr = c.pwr := rfl
@[simp] theorem Chip.onEvr_thm (c : Chip) (g : Recorder → Recorder) : (c.onEvr g).thm = c.thm := rfl
@[simp] theorem Chip.onEvr_sec (c : Chip) (g : Recorder → Recorder) : (c.onEvr g).sec = c.sec := rfl
@[simp] theorem Chip.onEvr_flash (c : Chip) (g : Recorder → Recorder) : (c.onEvr g).flash = c.flash := rfl

@[simp] theorem Chip.onFlash_flash (c : Chip) (g : Flash → Flash) : (c.onFlash g).flash = g c.flash := rfl
@[simp] theorem Chip.onFlash_regs (c : Chip) (g : Flash → Flash) : (c.onFlash g).regs = c.regs := rfl
@[simp] theorem Chip.onFlash_row (c : Chip) (g : Flash → Flash) : (c.onFlash g).row = c.row := rfl
@[simp] theorem Chip.onFlash_cyc (c : Chip) (g : Flash → Flash) : (c.onFlash g).cyc = c.cyc := rfl
@[simp] theorem Chip.onFlash_epoch (c : Chip) (g : Flash → Flash) : (c.onFlash g).epoch = c.epoch := rfl
@[simp] theorem Chip.onFlash_rowsRun (c : Chip) (g : Flash → Flash) : (c.onFlash g).rowsRun = c.rowsRun := rfl
@[simp] theorem Chip.onFlash_captured (c : Chip) (g : Flash → Flash) : (c.onFlash g).captured = c.captured := rfl
@[simp] theorem Chip.onFlash_captureLost (c : Chip) (g : Flash → Flash) : (c.onFlash g).captureLost = c.captureLost := rfl
@[simp] theorem Chip.onFlash_drawn (c : Chip) (g : Flash → Flash) : (c.onFlash g).drawn = c.drawn := rfl
@[simp] theorem Chip.onFlash_reports (c : Chip) (g : Flash → Flash) : (c.onFlash g).reports = c.reports := rfl
@[simp] theorem Chip.onFlash_acc (c : Chip) (g : Flash → Flash) : (c.onFlash g).acc = c.acc := rfl
@[simp] theorem Chip.onFlash_opf (c : Chip) (g : Flash → Flash) : (c.onFlash g).opf = c.opf := rfl
@[simp] theorem Chip.onFlash_lanes (c : Chip) (g : Flash → Flash) : (c.onFlash g).lanes = c.lanes := rfl
@[simp] theorem Chip.onFlash_xport (c : Chip) (g : Flash → Flash) : (c.onFlash g).xport = c.xport := rfl
@[simp] theorem Chip.onFlash_sync (c : Chip) (g : Flash → Flash) : (c.onFlash g).sync = c.sync := rfl
@[simp] theorem Chip.onFlash_mems (c : Chip) (g : Flash → Flash) : (c.onFlash g).mems = c.mems := rfl
@[simp] theorem Chip.onFlash_light (c : Chip) (g : Flash → Flash) : (c.onFlash g).light = c.light := rfl
@[simp] theorem Chip.onFlash_tns (c : Chip) (g : Flash → Flash) : (c.onFlash g).tns = c.tns := rfl
@[simp] theorem Chip.onFlash_pcu (c : Chip) (g : Flash → Flash) : (c.onFlash g).pcu = c.pcu := rfl
@[simp] theorem Chip.onFlash_pins (c : Chip) (g : Flash → Flash) : (c.onFlash g).pins = c.pins := rfl
@[simp] theorem Chip.onFlash_circ (c : Chip) (g : Flash → Flash) : (c.onFlash g).circ = c.circ := rfl
@[simp] theorem Chip.onFlash_edge (c : Chip) (g : Flash → Flash) : (c.onFlash g).edge = c.edge := rfl
@[simp] theorem Chip.onFlash_red (c : Chip) (g : Flash → Flash) : (c.onFlash g).red = c.red := rfl
@[simp] theorem Chip.onFlash_cmd (c : Chip) (g : Flash → Flash) : (c.onFlash g).cmd = c.cmd := rfl
@[simp] theorem Chip.onFlash_hio (c : Chip) (g : Flash → Flash) : (c.onFlash g).hio = c.hio := rfl
@[simp] theorem Chip.onFlash_time (c : Chip) (g : Flash → Flash) : (c.onFlash g).time = c.time := rfl
@[simp] theorem Chip.onFlash_comp (c : Chip) (g : Flash → Flash) : (c.onFlash g).comp = c.comp := rfl
@[simp] theorem Chip.onFlash_mxe (c : Chip) (g : Flash → Flash) : (c.onFlash g).mxe = c.mxe := rfl
@[simp] theorem Chip.onFlash_part (c : Chip) (g : Flash → Flash) : (c.onFlash g).part = c.part := rfl
@[simp] theorem Chip.onFlash_clk (c : Chip) (g : Flash → Flash) : (c.onFlash g).clk = c.clk := rfl
@[simp] theorem Chip.onFlash_pwr (c : Chip) (g : Flash → Flash) : (c.onFlash g).pwr = c.pwr := rfl
@[simp] theorem Chip.onFlash_thm (c : Chip) (g : Flash → Flash) : (c.onFlash g).thm = c.thm := rfl
@[simp] theorem Chip.onFlash_sec (c : Chip) (g : Flash → Flash) : (c.onFlash g).sec = c.sec := rfl
@[simp] theorem Chip.onFlash_evr (c : Chip) (g : Flash → Flash) : (c.onFlash g).evr = c.evr := rfl

@[simp] theorem Chip.setWord_row (c : Chip) (o : Nat) (w : Word) : (c.setWord o w).row = c.row := rfl
@[simp] theorem Chip.setWord_cyc (c : Chip) (o : Nat) (w : Word) : (c.setWord o w).cyc = c.cyc := rfl
@[simp] theorem Chip.setWord_epoch (c : Chip) (o : Nat) (w : Word) : (c.setWord o w).epoch = c.epoch := rfl
@[simp] theorem Chip.setWord_rowsRun (c : Chip) (o : Nat) (w : Word) : (c.setWord o w).rowsRun = c.rowsRun := rfl
@[simp] theorem Chip.setWord_captured (c : Chip) (o : Nat) (w : Word) : (c.setWord o w).captured = c.captured := rfl
@[simp] theorem Chip.setWord_captureLost (c : Chip) (o : Nat) (w : Word) : (c.setWord o w).captureLost = c.captureLost := rfl
@[simp] theorem Chip.setWord_drawn (c : Chip) (o : Nat) (w : Word) : (c.setWord o w).drawn = c.drawn := rfl
@[simp] theorem Chip.setWord_reports (c : Chip) (o : Nat) (w : Word) : (c.setWord o w).reports = c.reports := rfl
@[simp] theorem Chip.setWord_acc (c : Chip) (o : Nat) (w : Word) : (c.setWord o w).acc = c.acc := rfl
@[simp] theorem Chip.setWord_opf (c : Chip) (o : Nat) (w : Word) : (c.setWord o w).opf = c.opf := rfl
@[simp] theorem Chip.setWord_lanes (c : Chip) (o : Nat) (w : Word) : (c.setWord o w).lanes = c.lanes := rfl
@[simp] theorem Chip.setWord_xport (c : Chip) (o : Nat) (w : Word) : (c.setWord o w).xport = c.xport := rfl
@[simp] theorem Chip.setWord_sync (c : Chip) (o : Nat) (w : Word) : (c.setWord o w).sync = c.sync := rfl
@[simp] theorem Chip.setWord_mems (c : Chip) (o : Nat) (w : Word) : (c.setWord o w).mems = c.mems := rfl
@[simp] theorem Chip.setWord_light (c : Chip) (o : Nat) (w : Word) : (c.setWord o w).light = c.light := rfl
@[simp] theorem Chip.setWord_tns (c : Chip) (o : Nat) (w : Word) : (c.setWord o w).tns = c.tns := rfl
@[simp] theorem Chip.setWord_pcu (c : Chip) (o : Nat) (w : Word) : (c.setWord o w).pcu = c.pcu := rfl
@[simp] theorem Chip.setWord_pins (c : Chip) (o : Nat) (w : Word) : (c.setWord o w).pins = c.pins := rfl
@[simp] theorem Chip.setWord_circ (c : Chip) (o : Nat) (w : Word) : (c.setWord o w).circ = c.circ := rfl
@[simp] theorem Chip.setWord_edge (c : Chip) (o : Nat) (w : Word) : (c.setWord o w).edge = c.edge := rfl
@[simp] theorem Chip.setWord_red (c : Chip) (o : Nat) (w : Word) : (c.setWord o w).red = c.red := rfl
@[simp] theorem Chip.setWord_cmd (c : Chip) (o : Nat) (w : Word) : (c.setWord o w).cmd = c.cmd := rfl
@[simp] theorem Chip.setWord_hio (c : Chip) (o : Nat) (w : Word) : (c.setWord o w).hio = c.hio := rfl
@[simp] theorem Chip.setWord_time (c : Chip) (o : Nat) (w : Word) : (c.setWord o w).time = c.time := rfl
@[simp] theorem Chip.setWord_comp (c : Chip) (o : Nat) (w : Word) : (c.setWord o w).comp = c.comp := rfl
@[simp] theorem Chip.setWord_mxe (c : Chip) (o : Nat) (w : Word) : (c.setWord o w).mxe = c.mxe := rfl
@[simp] theorem Chip.setWord_part (c : Chip) (o : Nat) (w : Word) : (c.setWord o w).part = c.part := rfl
@[simp] theorem Chip.setWord_clk (c : Chip) (o : Nat) (w : Word) : (c.setWord o w).clk = c.clk := rfl
@[simp] theorem Chip.setWord_pwr (c : Chip) (o : Nat) (w : Word) : (c.setWord o w).pwr = c.pwr := rfl
@[simp] theorem Chip.setWord_thm (c : Chip) (o : Nat) (w : Word) : (c.setWord o w).thm = c.thm := rfl
@[simp] theorem Chip.setWord_sec (c : Chip) (o : Nat) (w : Word) : (c.setWord o w).sec = c.sec := rfl
@[simp] theorem Chip.setWord_evr (c : Chip) (o : Nat) (w : Word) : (c.setWord o w).evr = c.evr := rfl
@[simp] theorem Chip.setWord_flash (c : Chip) (o : Nat) (w : Word) : (c.setWord o w).flash = c.flash := rfl

@[simp] theorem Chip.wr_row (c : Chip) (f : FRef) (v : Nat) : (c.wr f v).row = c.row := rfl
@[simp] theorem Chip.wr_cyc (c : Chip) (f : FRef) (v : Nat) : (c.wr f v).cyc = c.cyc := rfl
@[simp] theorem Chip.wr_epoch (c : Chip) (f : FRef) (v : Nat) : (c.wr f v).epoch = c.epoch := rfl
@[simp] theorem Chip.wr_rowsRun (c : Chip) (f : FRef) (v : Nat) : (c.wr f v).rowsRun = c.rowsRun := rfl
@[simp] theorem Chip.wr_captured (c : Chip) (f : FRef) (v : Nat) : (c.wr f v).captured = c.captured := rfl
@[simp] theorem Chip.wr_captureLost (c : Chip) (f : FRef) (v : Nat) : (c.wr f v).captureLost = c.captureLost := rfl
@[simp] theorem Chip.wr_drawn (c : Chip) (f : FRef) (v : Nat) : (c.wr f v).drawn = c.drawn := rfl
@[simp] theorem Chip.wr_reports (c : Chip) (f : FRef) (v : Nat) : (c.wr f v).reports = c.reports := rfl
@[simp] theorem Chip.wr_acc (c : Chip) (f : FRef) (v : Nat) : (c.wr f v).acc = c.acc := rfl
@[simp] theorem Chip.wr_opf (c : Chip) (f : FRef) (v : Nat) : (c.wr f v).opf = c.opf := rfl
@[simp] theorem Chip.wr_lanes (c : Chip) (f : FRef) (v : Nat) : (c.wr f v).lanes = c.lanes := rfl
@[simp] theorem Chip.wr_xport (c : Chip) (f : FRef) (v : Nat) : (c.wr f v).xport = c.xport := rfl
@[simp] theorem Chip.wr_sync (c : Chip) (f : FRef) (v : Nat) : (c.wr f v).sync = c.sync := rfl
@[simp] theorem Chip.wr_mems (c : Chip) (f : FRef) (v : Nat) : (c.wr f v).mems = c.mems := rfl
@[simp] theorem Chip.wr_light (c : Chip) (f : FRef) (v : Nat) : (c.wr f v).light = c.light := rfl
@[simp] theorem Chip.wr_tns (c : Chip) (f : FRef) (v : Nat) : (c.wr f v).tns = c.tns := rfl
@[simp] theorem Chip.wr_pcu (c : Chip) (f : FRef) (v : Nat) : (c.wr f v).pcu = c.pcu := rfl
@[simp] theorem Chip.wr_pins (c : Chip) (f : FRef) (v : Nat) : (c.wr f v).pins = c.pins := rfl
@[simp] theorem Chip.wr_circ (c : Chip) (f : FRef) (v : Nat) : (c.wr f v).circ = c.circ := rfl
@[simp] theorem Chip.wr_edge (c : Chip) (f : FRef) (v : Nat) : (c.wr f v).edge = c.edge := rfl
@[simp] theorem Chip.wr_red (c : Chip) (f : FRef) (v : Nat) : (c.wr f v).red = c.red := rfl
@[simp] theorem Chip.wr_cmd (c : Chip) (f : FRef) (v : Nat) : (c.wr f v).cmd = c.cmd := rfl
@[simp] theorem Chip.wr_hio (c : Chip) (f : FRef) (v : Nat) : (c.wr f v).hio = c.hio := rfl
@[simp] theorem Chip.wr_time (c : Chip) (f : FRef) (v : Nat) : (c.wr f v).time = c.time := rfl
@[simp] theorem Chip.wr_comp (c : Chip) (f : FRef) (v : Nat) : (c.wr f v).comp = c.comp := rfl
@[simp] theorem Chip.wr_mxe (c : Chip) (f : FRef) (v : Nat) : (c.wr f v).mxe = c.mxe := rfl
@[simp] theorem Chip.wr_part (c : Chip) (f : FRef) (v : Nat) : (c.wr f v).part = c.part := rfl
@[simp] theorem Chip.wr_clk (c : Chip) (f : FRef) (v : Nat) : (c.wr f v).clk = c.clk := rfl
@[simp] theorem Chip.wr_pwr (c : Chip) (f : FRef) (v : Nat) : (c.wr f v).pwr = c.pwr := rfl
@[simp] theorem Chip.wr_thm (c : Chip) (f : FRef) (v : Nat) : (c.wr f v).thm = c.thm := rfl
@[simp] theorem Chip.wr_sec (c : Chip) (f : FRef) (v : Nat) : (c.wr f v).sec = c.sec := rfl
@[simp] theorem Chip.wr_evr (c : Chip) (f : FRef) (v : Nat) : (c.wr f v).evr = c.evr := rfl
@[simp] theorem Chip.wr_flash (c : Chip) (f : FRef) (v : Nat) : (c.wr f v).flash = c.flash := rfl

@[simp] theorem Chip.count_row (c : Chip) (f : FRef) (n : Nat) : (c.count f n).row = c.row := rfl
@[simp] theorem Chip.count_cyc (c : Chip) (f : FRef) (n : Nat) : (c.count f n).cyc = c.cyc := rfl
@[simp] theorem Chip.count_epoch (c : Chip) (f : FRef) (n : Nat) : (c.count f n).epoch = c.epoch := rfl
@[simp] theorem Chip.count_rowsRun (c : Chip) (f : FRef) (n : Nat) : (c.count f n).rowsRun = c.rowsRun := rfl
@[simp] theorem Chip.count_captured (c : Chip) (f : FRef) (n : Nat) : (c.count f n).captured = c.captured := rfl
@[simp] theorem Chip.count_captureLost (c : Chip) (f : FRef) (n : Nat) : (c.count f n).captureLost = c.captureLost := rfl
@[simp] theorem Chip.count_drawn (c : Chip) (f : FRef) (n : Nat) : (c.count f n).drawn = c.drawn := rfl
@[simp] theorem Chip.count_reports (c : Chip) (f : FRef) (n : Nat) : (c.count f n).reports = c.reports := rfl
@[simp] theorem Chip.count_acc (c : Chip) (f : FRef) (n : Nat) : (c.count f n).acc = c.acc := rfl
@[simp] theorem Chip.count_opf (c : Chip) (f : FRef) (n : Nat) : (c.count f n).opf = c.opf := rfl
@[simp] theorem Chip.count_lanes (c : Chip) (f : FRef) (n : Nat) : (c.count f n).lanes = c.lanes := rfl
@[simp] theorem Chip.count_xport (c : Chip) (f : FRef) (n : Nat) : (c.count f n).xport = c.xport := rfl
@[simp] theorem Chip.count_sync (c : Chip) (f : FRef) (n : Nat) : (c.count f n).sync = c.sync := rfl
@[simp] theorem Chip.count_mems (c : Chip) (f : FRef) (n : Nat) : (c.count f n).mems = c.mems := rfl
@[simp] theorem Chip.count_light (c : Chip) (f : FRef) (n : Nat) : (c.count f n).light = c.light := rfl
@[simp] theorem Chip.count_tns (c : Chip) (f : FRef) (n : Nat) : (c.count f n).tns = c.tns := rfl
@[simp] theorem Chip.count_pcu (c : Chip) (f : FRef) (n : Nat) : (c.count f n).pcu = c.pcu := rfl
@[simp] theorem Chip.count_pins (c : Chip) (f : FRef) (n : Nat) : (c.count f n).pins = c.pins := rfl
@[simp] theorem Chip.count_circ (c : Chip) (f : FRef) (n : Nat) : (c.count f n).circ = c.circ := rfl
@[simp] theorem Chip.count_edge (c : Chip) (f : FRef) (n : Nat) : (c.count f n).edge = c.edge := rfl
@[simp] theorem Chip.count_red (c : Chip) (f : FRef) (n : Nat) : (c.count f n).red = c.red := rfl
@[simp] theorem Chip.count_cmd (c : Chip) (f : FRef) (n : Nat) : (c.count f n).cmd = c.cmd := rfl
@[simp] theorem Chip.count_hio (c : Chip) (f : FRef) (n : Nat) : (c.count f n).hio = c.hio := rfl
@[simp] theorem Chip.count_time (c : Chip) (f : FRef) (n : Nat) : (c.count f n).time = c.time := rfl
@[simp] theorem Chip.count_comp (c : Chip) (f : FRef) (n : Nat) : (c.count f n).comp = c.comp := rfl
@[simp] theorem Chip.count_mxe (c : Chip) (f : FRef) (n : Nat) : (c.count f n).mxe = c.mxe := rfl
@[simp] theorem Chip.count_part (c : Chip) (f : FRef) (n : Nat) : (c.count f n).part = c.part := rfl
@[simp] theorem Chip.count_clk (c : Chip) (f : FRef) (n : Nat) : (c.count f n).clk = c.clk := rfl
@[simp] theorem Chip.count_pwr (c : Chip) (f : FRef) (n : Nat) : (c.count f n).pwr = c.pwr := rfl
@[simp] theorem Chip.count_thm (c : Chip) (f : FRef) (n : Nat) : (c.count f n).thm = c.thm := rfl
@[simp] theorem Chip.count_sec (c : Chip) (f : FRef) (n : Nat) : (c.count f n).sec = c.sec := rfl
@[simp] theorem Chip.count_evr (c : Chip) (f : FRef) (n : Nat) : (c.count f n).evr = c.evr := rfl
@[simp] theorem Chip.count_flash (c : Chip) (f : FRef) (n : Nat) : (c.count f n).flash = c.flash := rfl

@[simp] theorem Chip.drop_row (c : Chip) (f : FRef) (n : Nat) : (c.drop f n).row = c.row := rfl
@[simp] theorem Chip.drop_cyc (c : Chip) (f : FRef) (n : Nat) : (c.drop f n).cyc = c.cyc := rfl
@[simp] theorem Chip.drop_epoch (c : Chip) (f : FRef) (n : Nat) : (c.drop f n).epoch = c.epoch := rfl
@[simp] theorem Chip.drop_rowsRun (c : Chip) (f : FRef) (n : Nat) : (c.drop f n).rowsRun = c.rowsRun := rfl
@[simp] theorem Chip.drop_captured (c : Chip) (f : FRef) (n : Nat) : (c.drop f n).captured = c.captured := rfl
@[simp] theorem Chip.drop_captureLost (c : Chip) (f : FRef) (n : Nat) : (c.drop f n).captureLost = c.captureLost := rfl
@[simp] theorem Chip.drop_drawn (c : Chip) (f : FRef) (n : Nat) : (c.drop f n).drawn = c.drawn := rfl
@[simp] theorem Chip.drop_reports (c : Chip) (f : FRef) (n : Nat) : (c.drop f n).reports = c.reports := rfl
@[simp] theorem Chip.drop_acc (c : Chip) (f : FRef) (n : Nat) : (c.drop f n).acc = c.acc := rfl
@[simp] theorem Chip.drop_opf (c : Chip) (f : FRef) (n : Nat) : (c.drop f n).opf = c.opf := rfl
@[simp] theorem Chip.drop_lanes (c : Chip) (f : FRef) (n : Nat) : (c.drop f n).lanes = c.lanes := rfl
@[simp] theorem Chip.drop_xport (c : Chip) (f : FRef) (n : Nat) : (c.drop f n).xport = c.xport := rfl
@[simp] theorem Chip.drop_sync (c : Chip) (f : FRef) (n : Nat) : (c.drop f n).sync = c.sync := rfl
@[simp] theorem Chip.drop_mems (c : Chip) (f : FRef) (n : Nat) : (c.drop f n).mems = c.mems := rfl
@[simp] theorem Chip.drop_light (c : Chip) (f : FRef) (n : Nat) : (c.drop f n).light = c.light := rfl
@[simp] theorem Chip.drop_tns (c : Chip) (f : FRef) (n : Nat) : (c.drop f n).tns = c.tns := rfl
@[simp] theorem Chip.drop_pcu (c : Chip) (f : FRef) (n : Nat) : (c.drop f n).pcu = c.pcu := rfl
@[simp] theorem Chip.drop_pins (c : Chip) (f : FRef) (n : Nat) : (c.drop f n).pins = c.pins := rfl
@[simp] theorem Chip.drop_circ (c : Chip) (f : FRef) (n : Nat) : (c.drop f n).circ = c.circ := rfl
@[simp] theorem Chip.drop_edge (c : Chip) (f : FRef) (n : Nat) : (c.drop f n).edge = c.edge := rfl
@[simp] theorem Chip.drop_red (c : Chip) (f : FRef) (n : Nat) : (c.drop f n).red = c.red := rfl
@[simp] theorem Chip.drop_cmd (c : Chip) (f : FRef) (n : Nat) : (c.drop f n).cmd = c.cmd := rfl
@[simp] theorem Chip.drop_hio (c : Chip) (f : FRef) (n : Nat) : (c.drop f n).hio = c.hio := rfl
@[simp] theorem Chip.drop_time (c : Chip) (f : FRef) (n : Nat) : (c.drop f n).time = c.time := rfl
@[simp] theorem Chip.drop_comp (c : Chip) (f : FRef) (n : Nat) : (c.drop f n).comp = c.comp := rfl
@[simp] theorem Chip.drop_mxe (c : Chip) (f : FRef) (n : Nat) : (c.drop f n).mxe = c.mxe := rfl
@[simp] theorem Chip.drop_part (c : Chip) (f : FRef) (n : Nat) : (c.drop f n).part = c.part := rfl
@[simp] theorem Chip.drop_clk (c : Chip) (f : FRef) (n : Nat) : (c.drop f n).clk = c.clk := rfl
@[simp] theorem Chip.drop_pwr (c : Chip) (f : FRef) (n : Nat) : (c.drop f n).pwr = c.pwr := rfl
@[simp] theorem Chip.drop_thm (c : Chip) (f : FRef) (n : Nat) : (c.drop f n).thm = c.thm := rfl
@[simp] theorem Chip.drop_sec (c : Chip) (f : FRef) (n : Nat) : (c.drop f n).sec = c.sec := rfl
@[simp] theorem Chip.drop_evr (c : Chip) (f : FRef) (n : Nat) : (c.drop f n).evr = c.evr := rfl
@[simp] theorem Chip.drop_flash (c : Chip) (f : FRef) (n : Nat) : (c.drop f n).flash = c.flash := rfl

@[simp] theorem Chip.wrPair_row (c : Chip) (lo hi : FRef) (v : Nat) : (c.wrPair lo hi v).row = c.row := rfl
@[simp] theorem Chip.wrPair_cyc (c : Chip) (lo hi : FRef) (v : Nat) : (c.wrPair lo hi v).cyc = c.cyc := rfl
@[simp] theorem Chip.wrPair_epoch (c : Chip) (lo hi : FRef) (v : Nat) : (c.wrPair lo hi v).epoch = c.epoch := rfl
@[simp] theorem Chip.wrPair_rowsRun (c : Chip) (lo hi : FRef) (v : Nat) : (c.wrPair lo hi v).rowsRun = c.rowsRun := rfl
@[simp] theorem Chip.wrPair_captured (c : Chip) (lo hi : FRef) (v : Nat) : (c.wrPair lo hi v).captured = c.captured := rfl
@[simp] theorem Chip.wrPair_captureLost (c : Chip) (lo hi : FRef) (v : Nat) : (c.wrPair lo hi v).captureLost = c.captureLost := rfl
@[simp] theorem Chip.wrPair_drawn (c : Chip) (lo hi : FRef) (v : Nat) : (c.wrPair lo hi v).drawn = c.drawn := rfl
@[simp] theorem Chip.wrPair_reports (c : Chip) (lo hi : FRef) (v : Nat) : (c.wrPair lo hi v).reports = c.reports := rfl
@[simp] theorem Chip.wrPair_acc (c : Chip) (lo hi : FRef) (v : Nat) : (c.wrPair lo hi v).acc = c.acc := rfl
@[simp] theorem Chip.wrPair_opf (c : Chip) (lo hi : FRef) (v : Nat) : (c.wrPair lo hi v).opf = c.opf := rfl
@[simp] theorem Chip.wrPair_lanes (c : Chip) (lo hi : FRef) (v : Nat) : (c.wrPair lo hi v).lanes = c.lanes := rfl
@[simp] theorem Chip.wrPair_xport (c : Chip) (lo hi : FRef) (v : Nat) : (c.wrPair lo hi v).xport = c.xport := rfl
@[simp] theorem Chip.wrPair_sync (c : Chip) (lo hi : FRef) (v : Nat) : (c.wrPair lo hi v).sync = c.sync := rfl
@[simp] theorem Chip.wrPair_mems (c : Chip) (lo hi : FRef) (v : Nat) : (c.wrPair lo hi v).mems = c.mems := rfl
@[simp] theorem Chip.wrPair_light (c : Chip) (lo hi : FRef) (v : Nat) : (c.wrPair lo hi v).light = c.light := rfl
@[simp] theorem Chip.wrPair_tns (c : Chip) (lo hi : FRef) (v : Nat) : (c.wrPair lo hi v).tns = c.tns := rfl
@[simp] theorem Chip.wrPair_pcu (c : Chip) (lo hi : FRef) (v : Nat) : (c.wrPair lo hi v).pcu = c.pcu := rfl
@[simp] theorem Chip.wrPair_pins (c : Chip) (lo hi : FRef) (v : Nat) : (c.wrPair lo hi v).pins = c.pins := rfl
@[simp] theorem Chip.wrPair_circ (c : Chip) (lo hi : FRef) (v : Nat) : (c.wrPair lo hi v).circ = c.circ := rfl
@[simp] theorem Chip.wrPair_edge (c : Chip) (lo hi : FRef) (v : Nat) : (c.wrPair lo hi v).edge = c.edge := rfl
@[simp] theorem Chip.wrPair_red (c : Chip) (lo hi : FRef) (v : Nat) : (c.wrPair lo hi v).red = c.red := rfl
@[simp] theorem Chip.wrPair_cmd (c : Chip) (lo hi : FRef) (v : Nat) : (c.wrPair lo hi v).cmd = c.cmd := rfl
@[simp] theorem Chip.wrPair_hio (c : Chip) (lo hi : FRef) (v : Nat) : (c.wrPair lo hi v).hio = c.hio := rfl
@[simp] theorem Chip.wrPair_time (c : Chip) (lo hi : FRef) (v : Nat) : (c.wrPair lo hi v).time = c.time := rfl
@[simp] theorem Chip.wrPair_comp (c : Chip) (lo hi : FRef) (v : Nat) : (c.wrPair lo hi v).comp = c.comp := rfl
@[simp] theorem Chip.wrPair_mxe (c : Chip) (lo hi : FRef) (v : Nat) : (c.wrPair lo hi v).mxe = c.mxe := rfl
@[simp] theorem Chip.wrPair_part (c : Chip) (lo hi : FRef) (v : Nat) : (c.wrPair lo hi v).part = c.part := rfl
@[simp] theorem Chip.wrPair_clk (c : Chip) (lo hi : FRef) (v : Nat) : (c.wrPair lo hi v).clk = c.clk := rfl
@[simp] theorem Chip.wrPair_pwr (c : Chip) (lo hi : FRef) (v : Nat) : (c.wrPair lo hi v).pwr = c.pwr := rfl
@[simp] theorem Chip.wrPair_thm (c : Chip) (lo hi : FRef) (v : Nat) : (c.wrPair lo hi v).thm = c.thm := rfl
@[simp] theorem Chip.wrPair_sec (c : Chip) (lo hi : FRef) (v : Nat) : (c.wrPair lo hi v).sec = c.sec := rfl
@[simp] theorem Chip.wrPair_evr (c : Chip) (lo hi : FRef) (v : Nat) : (c.wrPair lo hi v).evr = c.evr := rfl
@[simp] theorem Chip.wrPair_flash (c : Chip) (lo hi : FRef) (v : Nat) : (c.wrPair lo hi v).flash = c.flash := rfl

@[simp] theorem Chip.event_regs (c : Chip) (code : Nat) (t : Option Nat) (u : Nat) (a : List Nat) : (c.event code t u a).regs = c.regs := by unfold Chip.event; split <;> rfl
@[simp] theorem Chip.event_row (c : Chip) (code : Nat) (t : Option Nat) (u : Nat) (a : List Nat) : (c.event code t u a).row = c.row := by unfold Chip.event; split <;> rfl
@[simp] theorem Chip.event_cyc (c : Chip) (code : Nat) (t : Option Nat) (u : Nat) (a : List Nat) : (c.event code t u a).cyc = c.cyc := by unfold Chip.event; split <;> rfl
@[simp] theorem Chip.event_epoch (c : Chip) (code : Nat) (t : Option Nat) (u : Nat) (a : List Nat) : (c.event code t u a).epoch = c.epoch := by unfold Chip.event; split <;> rfl
@[simp] theorem Chip.event_rowsRun (c : Chip) (code : Nat) (t : Option Nat) (u : Nat) (a : List Nat) : (c.event code t u a).rowsRun = c.rowsRun := by unfold Chip.event; split <;> rfl
@[simp] theorem Chip.event_drawn (c : Chip) (code : Nat) (t : Option Nat) (u : Nat) (a : List Nat) : (c.event code t u a).drawn = c.drawn := by unfold Chip.event; split <;> rfl
@[simp] theorem Chip.event_reports (c : Chip) (code : Nat) (t : Option Nat) (u : Nat) (a : List Nat) : (c.event code t u a).reports = c.reports := by unfold Chip.event; split <;> rfl
@[simp] theorem Chip.event_acc (c : Chip) (code : Nat) (t : Option Nat) (u : Nat) (a : List Nat) : (c.event code t u a).acc = c.acc := by unfold Chip.event; split <;> rfl
@[simp] theorem Chip.event_opf (c : Chip) (code : Nat) (t : Option Nat) (u : Nat) (a : List Nat) : (c.event code t u a).opf = c.opf := by unfold Chip.event; split <;> rfl
@[simp] theorem Chip.event_lanes (c : Chip) (code : Nat) (t : Option Nat) (u : Nat) (a : List Nat) : (c.event code t u a).lanes = c.lanes := by unfold Chip.event; split <;> rfl
@[simp] theorem Chip.event_xport (c : Chip) (code : Nat) (t : Option Nat) (u : Nat) (a : List Nat) : (c.event code t u a).xport = c.xport := by unfold Chip.event; split <;> rfl
@[simp] theorem Chip.event_sync (c : Chip) (code : Nat) (t : Option Nat) (u : Nat) (a : List Nat) : (c.event code t u a).sync = c.sync := by unfold Chip.event; split <;> rfl
@[simp] theorem Chip.event_mems (c : Chip) (code : Nat) (t : Option Nat) (u : Nat) (a : List Nat) : (c.event code t u a).mems = c.mems := by unfold Chip.event; split <;> rfl
@[simp] theorem Chip.event_light (c : Chip) (code : Nat) (t : Option Nat) (u : Nat) (a : List Nat) : (c.event code t u a).light = c.light := by unfold Chip.event; split <;> rfl
@[simp] theorem Chip.event_tns (c : Chip) (code : Nat) (t : Option Nat) (u : Nat) (a : List Nat) : (c.event code t u a).tns = c.tns := by unfold Chip.event; split <;> rfl
@[simp] theorem Chip.event_pcu (c : Chip) (code : Nat) (t : Option Nat) (u : Nat) (a : List Nat) : (c.event code t u a).pcu = c.pcu := by unfold Chip.event; split <;> rfl
@[simp] theorem Chip.event_pins (c : Chip) (code : Nat) (t : Option Nat) (u : Nat) (a : List Nat) : (c.event code t u a).pins = c.pins := by unfold Chip.event; split <;> rfl
@[simp] theorem Chip.event_circ (c : Chip) (code : Nat) (t : Option Nat) (u : Nat) (a : List Nat) : (c.event code t u a).circ = c.circ := by unfold Chip.event; split <;> rfl
@[simp] theorem Chip.event_edge (c : Chip) (code : Nat) (t : Option Nat) (u : Nat) (a : List Nat) : (c.event code t u a).edge = c.edge := by unfold Chip.event; split <;> rfl
@[simp] theorem Chip.event_red (c : Chip) (code : Nat) (t : Option Nat) (u : Nat) (a : List Nat) : (c.event code t u a).red = c.red := by unfold Chip.event; split <;> rfl
@[simp] theorem Chip.event_cmd (c : Chip) (code : Nat) (t : Option Nat) (u : Nat) (a : List Nat) : (c.event code t u a).cmd = c.cmd := by unfold Chip.event; split <;> rfl
@[simp] theorem Chip.event_hio (c : Chip) (code : Nat) (t : Option Nat) (u : Nat) (a : List Nat) : (c.event code t u a).hio = c.hio := by unfold Chip.event; split <;> rfl
@[simp] theorem Chip.event_time (c : Chip) (code : Nat) (t : Option Nat) (u : Nat) (a : List Nat) : (c.event code t u a).time = c.time := by unfold Chip.event; split <;> rfl
@[simp] theorem Chip.event_comp (c : Chip) (code : Nat) (t : Option Nat) (u : Nat) (a : List Nat) : (c.event code t u a).comp = c.comp := by unfold Chip.event; split <;> rfl
@[simp] theorem Chip.event_mxe (c : Chip) (code : Nat) (t : Option Nat) (u : Nat) (a : List Nat) : (c.event code t u a).mxe = c.mxe := by unfold Chip.event; split <;> rfl
@[simp] theorem Chip.event_part (c : Chip) (code : Nat) (t : Option Nat) (u : Nat) (a : List Nat) : (c.event code t u a).part = c.part := by unfold Chip.event; split <;> rfl
@[simp] theorem Chip.event_clk (c : Chip) (code : Nat) (t : Option Nat) (u : Nat) (a : List Nat) : (c.event code t u a).clk = c.clk := by unfold Chip.event; split <;> rfl
@[simp] theorem Chip.event_pwr (c : Chip) (code : Nat) (t : Option Nat) (u : Nat) (a : List Nat) : (c.event code t u a).pwr = c.pwr := by unfold Chip.event; split <;> rfl
@[simp] theorem Chip.event_thm (c : Chip) (code : Nat) (t : Option Nat) (u : Nat) (a : List Nat) : (c.event code t u a).thm = c.thm := by unfold Chip.event; split <;> rfl
@[simp] theorem Chip.event_sec (c : Chip) (code : Nat) (t : Option Nat) (u : Nat) (a : List Nat) : (c.event code t u a).sec = c.sec := by unfold Chip.event; split <;> rfl
@[simp] theorem Chip.event_evr (c : Chip) (code : Nat) (t : Option Nat) (u : Nat) (a : List Nat) : (c.event code t u a).evr = c.evr := by unfold Chip.event; split <;> rfl
@[simp] theorem Chip.event_flash (c : Chip) (code : Nat) (t : Option Nat) (u : Nat) (a : List Nat) : (c.event code t u a).flash = c.flash := by unfold Chip.event; split <;> rfl

@[simp] theorem State.onChip_chip (s : State) (f : Chip → Chip) : (s.onChip f).chip = f s.chip := rfl
@[simp] theorem State.onChip_mem (s : State) (f : Chip → Chip) : (s.onChip f).mem = s.mem := rfl
@[simp] theorem State.onChip_pending (s : State) (f : Chip → Chip) : (s.onChip f).pending = s.pending := rfl

end Sys2Proof.Machine
end

