-- ==== Sys2Proof/Laws/Regs.lean ====
section
/-! SUPPORT. Laws of the registers: what a field reads after a write of itself, of another field, of another register. -/

namespace Sys2Proof.Machine

theorem regGet_regPut_self {o : Nat} {w : Word} : ∀ {l : List (Nat × Word)}, regGet (regPut l o w) o = some w
  | [] => by simp [regPut, regGet]
  | x :: xs => by
    by_cases h1 : x.1 = o
    · simp [regPut, h1, regGet]
    · by_cases h2 : o < x.1
      · simp [regPut, h1, h2, regGet]
      · simp only [regPut, h1, h2, if_false, regGet]
        exact regGet_regPut_self

theorem regGet_regPut_of_ne {o o' : Nat} {w : Word} (h : o' ≠ o) : ∀ {l : List (Nat × Word)}, regGet (regPut l o w) o' = regGet l o'
  | [] => by simp [regPut, regGet, Ne.symm h]
  | x :: xs => by
    by_cases h1 : x.1 = o
    · have : x.1 ≠ o' := by omega
      rw [show regPut (x :: xs) o w = (o, w) :: xs by simp [regPut, h1], regGet, regGet, if_neg (Ne.symm h), if_neg this]
    · by_cases h2 : o < x.1
      · simp [regPut, h1, h2, regGet, Ne.symm h]
      · simp only [regPut, h1, h2, if_false, regGet]
        rw [regGet_regPut_of_ne h]

theorem word_congr {c d : Chip} (h : c.regs = d.regs) (o : Nat) : c.word o = d.word o := by unfold Chip.word; rw [h]
theorem rd_congr {c d : Chip} (h : c.regs = d.regs) (f : FRef) : c.rd f = d.rd f := by unfold Chip.rd; rw [word_congr h]
theorem on_congr {c d : Chip} (h : c.regs = d.regs) (f : FRef) : c.on f = d.on f := by unfold Chip.on; rw [rd_congr h]

@[simp] theorem word_setWord_self (c : Chip) (o : Nat) (w : Word) : (c.setWord o w).word o = w := by
  simp [Chip.word, Chip.setWord, regGet_regPut_self]

theorem word_setWord_of_ne {c : Chip} {o o' : Nat} {w : Word} (h : o' ≠ o) : (c.setWord o w).word o' = c.word o' := by
  simp [Chip.word, Chip.setWord, regGet_regPut_of_ne h]

theorem word_wr_of_ne {c : Chip} {f : FRef} {v o : Nat} (h : o ≠ f.off) : (c.wr f v).word o = c.word o := word_setWord_of_ne h

/-- A field of another register is not changed by a write of a field. -/
theorem rd_wr_of_ne {c : Chip} {f g : FRef} {v : Nat} (h : g.off ≠ f.off) : (c.wr f v).rd g = c.rd g := by
  unfold Chip.rd; rw [word_wr_of_ne h]

theorem on_wr_of_ne {c : Chip} {f g : FRef} {v : Nat} (h : g.off ≠ f.off) : (c.wr f v).on g = c.on g := by
  unfold Chip.on; rw [rd_wr_of_ne h]

theorem fset_lt {w hi lo v : Nat} (hw : w < 2 ^ 32) (h1 : lo ≤ hi) (h2 : hi < 32) : fset w hi lo v < 2 ^ 32 := by
  unfold fset
  obtain ⟨k, rfl⟩ : ∃ k, hi = lo + k := ⟨hi - lo, by omega⟩
  have e1 : lo + k + 1 - lo = k + 1 := by omega
  rw [e1]
  have ha : w % 2 ^ lo < 2 ^ lo := Nat.mod_lt _ (by positivity)
  have hb : v % 2 ^ (k + 1) + 1 ≤ 2 ^ (k + 1) := Nat.mod_lt _ (by positivity)
  have hp : 2 ^ (lo + k + 1) = 2 ^ (k + 1) * 2 ^ lo := by rw [← pow_add]; congr 1; omega
  have h3 : v % 2 ^ (k + 1) * 2 ^ lo + 2 ^ lo ≤ 2 ^ (lo + k + 1) := by
    rw [hp]; calc _ = (v % 2 ^ (k + 1) + 1) * 2 ^ lo := by ring
      _ ≤ _ := Nat.mul_le_mul_right _ hb
  have h4 : w / 2 ^ (lo + k + 1) < 2 ^ (32 - (lo + k + 1)) := by
    rw [Nat.div_lt_iff_lt_mul (by positivity), ← pow_add]
    calc w < 2 ^ 32 := hw
      _ = _ := by congr 1; omega
  have h5 : (w / 2 ^ (lo + k + 1) + 1) * 2 ^ (lo + k + 1) ≤ 2 ^ 32 := by
    calc _ ≤ 2 ^ (32 - (lo + k + 1)) * 2 ^ (lo + k + 1) := Nat.mul_le_mul_right _ h4
      _ = 2 ^ 32 := by rw [← pow_add]; congr 1; omega
  have h6 : (w / 2 ^ (lo + k + 1) + 1) * 2 ^ (lo + k + 1) = w / 2 ^ (lo + k + 1) * 2 ^ (lo + k + 1) + 2 ^ (lo + k + 1) := by ring
  omega

theorem fget_fset_self {w hi lo v : Nat} (h1 : lo ≤ hi) : fget (fset w hi lo v) hi lo = v % 2 ^ (hi + 1 - lo) := by
  unfold fget fset
  obtain ⟨k, rfl⟩ : ∃ k, hi = lo + k := ⟨hi - lo, by omega⟩
  have e1 : lo + k + 1 - lo = k + 1 := by omega
  rw [e1]
  have hp : 2 ^ (lo + k + 1) = 2 ^ (k + 1) * 2 ^ lo := by rw [← pow_add]; congr 1; omega
  rw [hp]
  have ha : w % 2 ^ lo < 2 ^ lo := Nat.mod_lt _ (by positivity)
  have : w % 2 ^ lo + v % 2 ^ (k + 1) * 2 ^ lo + w / (2 ^ (k + 1) * 2 ^ lo) * (2 ^ (k + 1) * 2 ^ lo)
      = w % 2 ^ lo + 2 ^ lo * (v % 2 ^ (k + 1) + 2 ^ (k + 1) * (w / (2 ^ (k + 1) * 2 ^ lo))) := by ring
  rw [this, Nat.add_mul_div_left _ _ (by positivity), Nat.div_eq_of_lt ha, Nat.zero_add, Nat.add_mul_mod_self_left, Nat.mod_mod]

theorem fget_fset_above {w hi lo v hi' lo' : Nat} (h1 : lo ≤ hi) (h : hi < lo') : fget (fset w hi lo v) hi' lo' = fget w hi' lo' := by
  unfold fget fset
  congr 1
  obtain ⟨k, rfl⟩ : ∃ k, hi = lo + k := ⟨hi - lo, by omega⟩
  obtain ⟨j, rfl⟩ : ∃ j, lo' = lo + k + 1 + j := ⟨lo' - (lo + k + 1), by omega⟩
  have e1 : lo + k + 1 - lo = k + 1 := by omega
  rw [e1, pow_add 2 (lo + k + 1) j, ← Nat.div_div_eq_div_mul, ← Nat.div_div_eq_div_mul]
  congr 1
  have ha : w % 2 ^ lo < 2 ^ lo := Nat.mod_lt _ (by positivity)
  have hb : v % 2 ^ (k + 1) + 1 ≤ 2 ^ (k + 1) := Nat.mod_lt _ (by positivity)
  have hp : 2 ^ (lo + k + 1) = 2 ^ (k + 1) * 2 ^ lo := by rw [← pow_add]; congr 1; omega
  have h3 : v % 2 ^ (k + 1) * 2 ^ lo + 2 ^ lo ≤ 2 ^ (lo + k + 1) := by
    rw [hp]; calc _ = (v % 2 ^ (k + 1) + 1) * 2 ^ lo := by ring
      _ ≤ _ := Nat.mul_le_mul_right _ hb
  rw [Nat.add_mul_div_right _ _ (by positivity), Nat.div_eq_of_lt (by omega), Nat.zero_add]

theorem fget_fset_below {w hi lo v hi' lo' : Nat} (h : hi' < lo) (h0 : lo ≤ hi) : fget (fset w hi lo v) hi' lo' = fget w hi' lo' := by
  by_cases hl : hi' + 1 ≤ lo'
  · have : hi' + 1 - lo' = 0 := by omega
    unfold fget
    rw [this, pow_zero, Nat.mod_one, Nat.mod_one]
  unfold fget
  have key : ∀ x : Nat, x / 2 ^ lo' % 2 ^ (hi' + 1 - lo') = x % 2 ^ (hi' + 1) / 2 ^ lo' := by
    intro x
    have hq : (2 : Nat) ^ (hi' + 1) = 2 ^ lo' * 2 ^ (hi' + 1 - lo') := by rw [← pow_add]; congr 1; omega
    rw [hq, Nat.mod_mul_right_div_self]
  rw [key, key]
  congr 1
  unfold fset
  obtain ⟨j, rfl⟩ : ∃ j, lo = hi' + 1 + j := ⟨lo - (hi' + 1), by omega⟩
  have hd : (2 : Nat) ^ (hi' + 1) ∣ 2 ^ (hi' + 1 + j) := ⟨2 ^ j, by rw [pow_add]⟩
  have hd2 : (2 : Nat) ^ (hi' + 1) ∣ 2 ^ (hi + 1) := pow_dvd_pow 2 (by omega)
  rw [Nat.add_mod, Nat.mod_eq_zero_of_dvd (Dvd.dvd.mul_left hd2 _), Nat.add_zero, Nat.mod_mod, Nat.add_mod,
    Nat.mod_eq_zero_of_dvd (Dvd.dvd.mul_left hd _), Nat.add_zero, Nat.mod_mod, Nat.mod_mod_of_dvd _ hd]

theorem toNat_wr (c : Chip) {f : FRef} (v : Nat) (h1 : f.lo ≤ f.hi) (h2 : f.hi < 32) :
    ((c.wr f v).word f.off).toNat = fset (c.word f.off).toNat f.hi f.lo v := by
  unfold Chip.wr
  rw [word_setWord_self, BitVec.toNat_ofNat, Nat.mod_eq_of_lt (fset_lt (c.word f.off).isLt h1 h2)]

/-- A field reads the low bits of what was last written to it. -/
theorem rd_wr_self (c : Chip) {f : FRef} (v : Nat) (h1 : f.lo ≤ f.hi) (h2 : f.hi < 32) : (c.wr f v).rd f = v % 2 ^ (f.hi + 1 - f.lo) := by
  unfold Chip.rd; rw [toNat_wr c v h1 h2, fget_fset_self h1]

/-- A field of the same register is not changed by a write of another field. -/
theorem rd_wr_apart (c : Chip) {f g : FRef} (v : Nat) (h1 : f.lo ≤ f.hi) (h2 : f.hi < 32) (h : f.hi < g.lo ∨ g.hi < f.lo) :
    (c.wr f v).rd g = c.rd g := by
  by_cases ho : g.off = f.off
  · unfold Chip.rd
    rw [ho, toNat_wr c v h1 h2]
    rcases h with h | h
    · exact fget_fset_above h1 h
    · exact fget_fset_below h h1
  · exact rd_wr_of_ne ho

theorem rd_lt (c : Chip) (f : FRef) : c.rd f < 2 ^ (f.hi + 1 - f.lo) := Nat.mod_lt _ (by positivity)

/-- A count rises and stops at the field's largest value. -/
theorem rd_count_self (c : Chip) {f : FRef} (n : Nat) (h1 : f.lo ≤ f.hi) (h2 : f.hi < 32) : (c.count f n).rd f = min f.top (c.rd f + n) := by
  unfold Chip.count satAdd
  rw [rd_wr_self c _ h1 h2]
  apply Nat.mod_eq_of_lt
  have : f.top < 2 ^ (f.hi + 1 - f.lo) := by unfold FRef.top; have := Nat.one_le_two_pow (n := f.hi + 1 - f.lo); omega
  omega

@[simp] theorem word_event (c : Chip) (code : Nat) (t : Option Nat) (u : Nat) (a : List Nat) (o : Nat) : (c.event code t u a).word o = c.word o :=
  word_congr (Chip.event_regs c code t u a) o
@[simp] theorem rd_event (c : Chip) (code : Nat) (t : Option Nat) (u : Nat) (a : List Nat) (f : FRef) : (c.event code t u a).rd f = c.rd f :=
  rd_congr (Chip.event_regs c code t u a) f
@[simp] theorem on_event (c : Chip) (code : Nat) (t : Option Nat) (u : Nat) (a : List Nat) (f : FRef) : (c.event code t u a).on f = c.on f :=
  on_congr (Chip.event_regs c code t u a) f

@[simp] theorem word_onAcc (c : Chip) (g : Access → Access) (o : Nat) : (c.onAcc g).word o = c.word o := word_congr rfl o
@[simp] theorem rd_onAcc (c : Chip) (g : Access → Access) (f : FRef) : (c.onAcc g).rd f = c.rd f := rd_congr rfl f
@[simp] theorem on_onAcc (c : Chip) (g : Access → Access) (f : FRef) : (c.onAcc g).on f = c.on f := on_congr rfl f
@[simp] theorem word_onOpf (c : Chip) (g : Opf → Opf) (o : Nat) : (c.onOpf g).word o = c.word o := word_congr rfl o
@[simp] theorem rd_onOpf (c : Chip) (g : Opf → Opf) (f : FRef) : (c.onOpf g).rd f = c.rd f := rd_congr rfl f
@[simp] theorem on_onOpf (c : Chip) (g : Opf → Opf) (f : FRef) : (c.onOpf g).on f = c.on f := on_congr rfl f
@[simp] theorem word_onLanes (c : Chip) (g : Lanes → Lanes) (o : Nat) : (c.onLanes g).word o = c.word o := word_congr rfl o
@[simp] theorem rd_onLanes (c : Chip) (g : Lanes → Lanes) (f : FRef) : (c.onLanes g).rd f = c.rd f := rd_congr rfl f
@[simp] theorem on_onLanes (c : Chip) (g : Lanes → Lanes) (f : FRef) : (c.onLanes g).on f = c.on f := on_congr rfl f
@[simp] theorem word_onXport (c : Chip) (g : Xport → Xport) (o : Nat) : (c.onXport g).word o = c.word o := word_congr rfl o
@[simp] theorem rd_onXport (c : Chip) (g : Xport → Xport) (f : FRef) : (c.onXport g).rd f = c.rd f := rd_congr rfl f
@[simp] theorem on_onXport (c : Chip) (g : Xport → Xport) (f : FRef) : (c.onXport g).on f = c.on f := on_congr rfl f
@[simp] theorem word_onSync (c : Chip) (g : SyncStore → SyncStore) (o : Nat) : (c.onSync g).word o = c.word o := word_congr rfl o
@[simp] theorem rd_onSync (c : Chip) (g : SyncStore → SyncStore) (f : FRef) : (c.onSync g).rd f = c.rd f := rd_congr rfl f
@[simp] theorem on_onSync (c : Chip) (g : SyncStore → SyncStore) (f : FRef) : (c.onSync g).on f = c.on f := on_congr rfl f
@[simp] theorem word_onMems (c : Chip) (g : MemSites → MemSites) (o : Nat) : (c.onMems g).word o = c.word o := word_congr rfl o
@[simp] theorem rd_onMems (c : Chip) (g : MemSites → MemSites) (f : FRef) : (c.onMems g).rd f = c.rd f := rd_congr rfl f
@[simp] theorem on_onMems (c : Chip) (g : MemSites → MemSites) (f : FRef) : (c.onMems g).on f = c.on f := on_congr rfl f
@[simp] theorem word_onLight (c : Chip) (g : Light → Light) (o : Nat) : (c.onLight g).word o = c.word o := word_congr rfl o
@[simp] theorem rd_onLight (c : Chip) (g : Light → Light) (f : FRef) : (c.onLight g).rd f = c.rd f := rd_congr rfl f
@[simp] theorem on_onLight (c : Chip) (g : Light → Light) (f : FRef) : (c.onLight g).on f = c.on f := on_congr rfl f
@[simp] theorem word_onTns (c : Chip) (g : Tension → Tension) (o : Nat) : (c.onTns g).word o = c.word o := word_congr rfl o
@[simp] theorem rd_onTns (c : Chip) (g : Tension → Tension) (f : FRef) : (c.onTns g).rd f = c.rd f := rd_congr rfl f
@[simp] theorem on_onTns (c : Chip) (g : Tension → Tension) (f : FRef) : (c.onTns g).on f = c.on f := on_congr rfl f
@[simp] theorem word_onPcu (c : Chip) (g : Pcus → Pcus) (o : Nat) : (c.onPcu g).word o = c.word o := word_congr rfl o
@[simp] theorem rd_onPcu (c : Chip) (g : Pcus → Pcus) (f : FRef) : (c.onPcu g).rd f = c.rd f := rd_congr rfl f
@[simp] theorem on_onPcu (c : Chip) (g : Pcus → Pcus) (f : FRef) : (c.onPcu g).on f = c.on f := on_congr rfl f
@[simp] theorem word_onPins (c : Chip) (g : Pins → Pins) (o : Nat) : (c.onPins g).word o = c.word o := word_congr rfl o
@[simp] theorem rd_onPins (c : Chip) (g : Pins → Pins) (f : FRef) : (c.onPins g).rd f = c.rd f := rd_congr rfl f
@[simp] theorem on_onPins (c : Chip) (g : Pins → Pins) (f : FRef) : (c.onPins g).on f = c.on f := on_congr rfl f
@[simp] theorem word_onCirc (c : Chip) (g : Circuits → Circuits) (o : Nat) : (c.onCirc g).word o = c.word o := word_congr rfl o
@[simp] theorem rd_onCirc (c : Chip) (g : Circuits → Circuits) (f : FRef) : (c.onCirc g).rd f = c.rd f := rd_congr rfl f
@[simp] theorem on_onCirc (c : Chip) (g : Circuits → Circuits) (f : FRef) : (c.onCirc g).on f = c.on f := on_congr rfl f
@[simp] theorem word_onEdge (c : Chip) (g : Edge → Edge) (o : Nat) : (c.onEdge g).word o = c.word o := word_congr rfl o
@[simp] theorem rd_onEdge (c : Chip) (g : Edge → Edge) (f : FRef) : (c.onEdge g).rd f = c.rd f := rd_congr rfl f
@[simp] theorem on_onEdge (c : Chip) (g : Edge → Edge) (f : FRef) : (c.onEdge g).on f = c.on f := on_congr rfl f
@[simp] theorem word_onRed (c : Chip) (g : Combining → Combining) (o : Nat) : (c.onRed g).word o = c.word o := word_congr rfl o
@[simp] theorem rd_onRed (c : Chip) (g : Combining → Combining) (f : FRef) : (c.onRed g).rd f = c.rd f := rd_congr rfl f
@[simp] theorem on_onRed (c : Chip) (g : Combining → Combining) (f : FRef) : (c.onRed g).on f = c.on f := on_congr rfl f
@[simp] theorem word_onCmd (c : Chip) (g : Commands → Commands) (o : Nat) : (c.onCmd g).word o = c.word o := word_congr rfl o
@[simp] theorem rd_onCmd (c : Chip) (g : Commands → Commands) (f : FRef) : (c.onCmd g).rd f = c.rd f := rd_congr rfl f
@[simp] theorem on_onCmd (c : Chip) (g : Commands → Commands) (f : FRef) : (c.onCmd g).on f = c.on f := on_congr rfl f
@[simp] theorem word_onHio (c : Chip) (g : HostIo → HostIo) (o : Nat) : (c.onHio g).word o = c.word o := word_congr rfl o
@[simp] theorem rd_onHio (c : Chip) (g : HostIo → HostIo) (f : FRef) : (c.onHio g).rd f = c.rd f := rd_congr rfl f
@[simp] theorem on_onHio (c : Chip) (g : HostIo → HostIo) (f : FRef) : (c.onHio g).on f = c.on f := on_congr rfl f
@[simp] theorem word_onTime (c : Chip) (g : TimeSvc → TimeSvc) (o : Nat) : (c.onTime g).word o = c.word o := word_congr rfl o
@[simp] theorem rd_onTime (c : Chip) (g : TimeSvc → TimeSvc) (f : FRef) : (c.onTime g).rd f = c.rd f := rd_congr rfl f
@[simp] theorem on_onTime (c : Chip) (g : TimeSvc → TimeSvc) (f : FRef) : (c.onTime g).on f = c.on f := on_congr rfl f
@[simp] theorem word_onComp (c : Chip) (g : Compute → Compute) (o : Nat) : (c.onComp g).word o = c.word o := word_congr rfl o
@[simp] theorem rd_onComp (c : Chip) (g : Compute → Compute) (f : FRef) : (c.onComp g).rd f = c.rd f := rd_congr rfl f
@[simp] theorem on_onComp (c : Chip) (g : Compute → Compute) (f : FRef) : (c.onComp g).on f = c.on f := on_congr rfl f
@[simp] theorem word_onMxe (c : Chip) (g : Mxe → Mxe) (o : Nat) : (c.onMxe g).word o = c.word o := word_congr rfl o
@[simp] theorem rd_onMxe (c : Chip) (g : Mxe → Mxe) (f : FRef) : (c.onMxe g).rd f = c.rd f := rd_congr rfl f
@[simp] theorem on_onMxe (c : Chip) (g : Mxe → Mxe) (f : FRef) : (c.onMxe g).on f = c.on f := on_congr rfl f
@[simp] theorem word_onPart (c : Chip) (g : Partitions → Partitions) (o : Nat) : (c.onPart g).word o = c.word o := word_congr rfl o
@[simp] theorem rd_onPart (c : Chip) (g : Partitions → Partitions) (f : FRef) : (c.onPart g).rd f = c.rd f := rd_congr rfl f
@[simp] theorem on_onPart (c : Chip) (g : Partitions → Partitions) (f : FRef) : (c.onPart g).on f = c.on f := on_congr rfl f
@[simp] theorem word_onClk (c : Chip) (g : Clocks → Clocks) (o : Nat) : (c.onClk g).word o = c.word o := word_congr rfl o
@[simp] theorem rd_onClk (c : Chip) (g : Clocks → Clocks) (f : FRef) : (c.onClk g).rd f = c.rd f := rd_congr rfl f
@[simp] theorem on_onClk (c : Chip) (g : Clocks → Clocks) (f : FRef) : (c.onClk g).on f = c.on f := on_congr rfl f
@[simp] theorem word_onPwr (c : Chip) (g : Power → Power) (o : Nat) : (c.onPwr g).word o = c.word o := word_congr rfl o
@[simp] theorem rd_onPwr (c : Chip) (g : Power → Power) (f : FRef) : (c.onPwr g).rd f = c.rd f := rd_congr rfl f
@[simp] theorem on_onPwr (c : Chip) (g : Power → Power) (f : FRef) : (c.onPwr g).on f = c.on f := on_congr rfl f
@[simp] theorem word_onThm (c : Chip) (g : Thermal → Thermal) (o : Nat) : (c.onThm g).word o = c.word o := word_congr rfl o
@[simp] theorem rd_onThm (c : Chip) (g : Thermal → Thermal) (f : FRef) : (c.onThm g).rd f = c.rd f := rd_congr rfl f
@[simp] theorem on_onThm (c : Chip) (g : Thermal → Thermal) (f : FRef) : (c.onThm g).on f = c.on f := on_congr rfl f
@[simp] theorem word_onSec (c : Chip) (g : Security → Security) (o : Nat) : (c.onSec g).word o = c.word o := word_congr rfl o
@[simp] theorem rd_onSec (c : Chip) (g : Security → Security) (f : FRef) : (c.onSec g).rd f = c.rd f := rd_congr rfl f
@[simp] theorem on_onSec (c : Chip) (g : Security → Security) (f : FRef) : (c.onSec g).on f = c.on f := on_congr rfl f
@[simp] theorem word_onEvr (c : Chip) (g : Recorder → Recorder) (o : Nat) : (c.onEvr g).word o = c.word o := word_congr rfl o
@[simp] theorem rd_onEvr (c : Chip) (g : Recorder → Recorder) (f : FRef) : (c.onEvr g).rd f = c.rd f := rd_congr rfl f
@[simp] theorem on_onEvr (c : Chip) (g : Recorder → Recorder) (f : FRef) : (c.onEvr g).on f = c.on f := on_congr rfl f
@[simp] theorem word_onFlash (c : Chip) (g : Flash → Flash) (o : Nat) : (c.onFlash g).word o = c.word o := word_congr rfl o
@[simp] theorem rd_onFlash (c : Chip) (g : Flash → Flash) (f : FRef) : (c.onFlash g).rd f = c.rd f := rd_congr rfl f
@[simp] theorem on_onFlash (c : Chip) (g : Flash → Flash) (f : FRef) : (c.onFlash g).on f = c.on f := on_congr rfl f

end Sys2Proof.Machine
end

