-- ==== Sys2Proof/Laws/Access.lean ====
section
/-! SUPPORT. What an accepted register write leaves before the effect of its register: the fields stored, and nothing else but the record of a gated write. -/

namespace Sys2Proof.Machine

/-- Two packages that differ in registers, register access and captured events at most. -/
def Chip.sameButRegs (c d : Chip) : Prop := d = { c with regs := d.regs, acc := d.acc, captured := d.captured, captureLost := d.captureLost }

theorem sameButRegs_refl (c : Chip) : c.sameButRegs c := rfl

theorem sameButRegs_trans {c d e : Chip} (h1 : c.sameButRegs d) (h2 : d.sameButRegs e) : c.sameButRegs e := by
  unfold Chip.sameButRegs at *
  rw [h2]
  conv_lhs => rw [h1]

theorem sameButRegs_wr {c d : Chip} (f : FRef) (v : Nat) (h : c.sameButRegs d) : c.sameButRegs (d.wr f v) := sameButRegs_trans h rfl
theorem sameButRegs_count {c d : Chip} (f : FRef) (n : Nat) (h : c.sameButRegs d) : c.sameButRegs (d.count f n) := sameButRegs_trans h rfl
theorem sameButRegs_onAcc {c d : Chip} (g : Access → Access) (h : c.sameButRegs d) : c.sameButRegs (d.onAcc g) := sameButRegs_trans h rfl
theorem sameButRegs_event {c d : Chip} (code : Nat) (t : Option Nat) (u : Nat) (a : List Nat) (h : c.sameButRegs d) : c.sameButRegs (d.event code t u a) := by
  refine sameButRegs_trans h ?_
  unfold Chip.event
  split <;> rfl

theorem sameButRegs_cfgReject {c d : Chip} (r : RegDesc) (is : List Nat) (h : c.sameButRegs d) : c.sameButRegs (d.cfgReject r is) := by
  unfold Chip.cfgReject
  split <;> first | exact sameButRegs_wr _ _ h | exact h

theorem sameButRegs_storeField {c d : Chip} (r : RegDesc) (is : List Nat) (off v : Nat) (st : Bool) (f : Fld) (h : c.sameButRegs d) :
    c.sameButRegs (d.storeField r is off v st f) := by
  unfold Chip.storeField
  simp only []
  split
  · exact h
  · exact h
  · exact h
  · exact sameButRegs_wr _ _ h
  · exact sameButRegs_wr _ _ h
  · split
    · exact sameButRegs_wr _ _ h
    · split
      · exact sameButRegs_wr _ _ h
      · exact sameButRegs_cfgReject _ _ h
    · exact sameButRegs_onAcc _ h

theorem sameButRegs_each {α : Type} {c : Chip} {f : Chip → α → Chip} (hf : ∀ d a, c.sameButRegs d → c.sameButRegs (f d a)) :
    ∀ (l : List α) (d : Chip), c.sameButRegs d → c.sameButRegs (d.each l f)
  | [], _, h => h
  | a :: l, d, h => sameButRegs_each hf l (f d a) (hf d a h)

theorem sameButRegs_recordGated (c : Chip) (req : Requester) (r : RegDesc) (off old v : Nat) : c.sameButRegs (c.recordGated req r off old v) := by
  unfold Chip.recordGated
  split
  · exact sameButRegs_refl c
  · exact sameButRegs_event _ _ _ _ (sameButRegs_count _ _ (sameButRegs_refl c))
  · exact sameButRegs_event _ _ _ _ (sameButRegs_count _ _ (sameButRegs_refl c))

/-- An accepted write stores its fields and then has the effect of its register; before that effect nothing but registers, held writes and captured events has changed. -/
theorem writeReg_does {c : Chip} {req : Requester} {off v : Nat} {f : Chip → Chip}
    (hj : c.judge req off true true = .ok) (hs : c.staleFrom req off = none) (he : c.writeWaits req off = false) :
    ∃ d, c.writeReg req off v (WriteHook.does f) = f d ∧ c.sameButRegs d := by
  have hf : ∃ r is, findReg off = some (r, is) := by
    unfold Chip.judge at hj
    split at hj
    · cases hj
    · split at hj
      · cases hj
      · split at hj
        · cases hj
        · rename_i r is hh; exact ⟨r, is, hh⟩
  obtain ⟨r, is, hf⟩ := hf
  refine ⟨((c.recordGated req r off (c.word off).toNat v).store r is off v), ?_, ?_⟩
  · simp [Chip.writeReg, hj, hs, he, Chip.acceptWrite, hf, WriteHook.does]
  · unfold Chip.store
    exact sameButRegs_each (fun d a h => sameButRegs_storeField _ _ _ _ _ _ h) _ _ (sameButRegs_recordGated c req r off _ v)

/-- The registers that an accepted write may change beside its own: the count of gated writes and the flags of refused S fields. -/
def bookkeeping (o : Nat) : Prop := o = R.SEC_GATED_COUNT ∨ o = R.ROUTE_STATUS ∨ o = R.HIO_STATUS ∨ ∃ i, o = R.LANE_STATUS i

theorem word_cfgReject {c : Chip} {r : RegDesc} {is : List Nat} {o : Nat} (h : ¬ bookkeeping o) : (c.cfgReject r is).word o = c.word o := by
  unfold bookkeeping at h
  simp only [not_or, not_exists] at h
  unfold Chip.cfgReject
  split
  · exact word_wr_of_ne (h.2.2.2 _)
  · exact word_wr_of_ne h.2.1
  · exact word_wr_of_ne h.2.2.1
  · rfl

theorem word_storeField {c : Chip} {r : RegDesc} {is : List Nat} {off v : Nat} {st : Bool} {f : Fld} {o : Nat} (ho : o ≠ off) (h : ¬ bookkeeping o) :
    (c.storeField r is off v st f).word o = c.word o := by
  unfold Chip.storeField
  simp only []
  split
  · rfl
  · rfl
  · rfl
  · exact word_wr_of_ne ho
  · exact word_wr_of_ne ho
  · split
    · exact word_wr_of_ne ho
    · split
      · exact word_wr_of_ne ho
      · exact word_cfgReject h
    · exact word_onAcc _ _ _

theorem word_store {r : RegDesc} {is : List Nat} {off v : Nat} {o : Nat} (ho : o ≠ off) (h : ¬ bookkeeping o) (st : Bool) :
    ∀ (l : List Fld) (c : Chip), (c.each l (fun c f => c.storeField r is off v st f)).word o = c.word o
  | [], _ => rfl
  | f :: l, c => (word_store ho h st l _).trans (word_storeField ho h)

theorem word_recordGated {c : Chip} {req : Requester} {r : RegDesc} {off old v o : Nat} (h : ¬ bookkeeping o) :
    (c.recordGated req r off old v).word o = c.word o := by
  unfold Chip.recordGated
  split
  · rfl
  · rw [word_event]; exact word_wr_of_ne (fun e => h (Or.inl e))
  · rw [word_event]; exact word_wr_of_ne (fun e => h (Or.inl e))

/-- The effect of an accepted write's register finds every register but the written one as it was, but for the bookkeeping ones. -/
theorem writeReg_does_words {c : Chip} {req : Requester} {off v : Nat} {f : Chip → Chip}
    (hj : c.judge req off true true = .ok) (hs : c.staleFrom req off = none) (he : c.writeWaits req off = false) :
    ∃ d, c.writeReg req off v (WriteHook.does f) = f d ∧ c.sameButRegs d ∧ ∀ o, o ≠ off → ¬ bookkeeping o → d.word o = c.word o := by
  have hf : ∃ r is, findReg off = some (r, is) := by
    unfold Chip.judge at hj
    split at hj
    · cases hj
    · split at hj
      · cases hj
      · split at hj
        · cases hj
        · rename_i r is hh; exact ⟨r, is, hh⟩
  obtain ⟨r, is, hf⟩ := hf
  refine ⟨((c.recordGated req r off (c.word off).toNat v).store r is off v), ?_, ?_, ?_⟩
  · simp [Chip.writeReg, hj, hs, he, Chip.acceptWrite, hf, WriteHook.does]
  · unfold Chip.store
    exact sameButRegs_each (fun d a h => sameButRegs_storeField _ _ _ _ _ _ h) _ _ (sameButRegs_recordGated c req r off _ v)
  · intro o ho hb
    unfold Chip.store
    rw [word_store ho hb, word_recordGated hb]

end Sys2Proof.Machine
end

