-- ==== Sys2Proof/Laws/Memory.lean ====
section
/-! SUPPORT. Laws of the memory list: a read after a write, and that every operation keeps the canonical form. -/

namespace Sys2Proof.Machine

theorem memWfFrom_mono {lo lo' : Nat} (h : lo' ≤ lo) : ∀ {m : List Host.Cell}, memWfFrom lo m = true → memWfFrom lo' m = true
  | [], _ => rfl
  | x :: xs, w => by
    simp only [memWfFrom, Bool.and_eq_true, decide_eq_true_eq] at w ⊢
    exact ⟨⟨le_trans h w.1.1, w.1.2⟩, w.2⟩

/-- Nothing is listed below the bound of the form. -/
theorem memGet_of_lt {a : Nat} : ∀ {lo : Nat} {m : List Host.Cell}, memWfFrom lo m = true → a < lo → memGet m a = memDefault
  | _, [], _, _ => rfl
  | lo, x :: xs, w, h => by
    simp only [memWfFrom, Bool.and_eq_true, decide_eq_true_eq] at w
    have hne : x.1 ≠ a := by omega
    simp only [memGet, hne, if_false]
    exact memGet_of_lt w.2 (by omega)

theorem memPut_wf {a : Nat} {b : Byte} : ∀ {lo : Nat} {m : List Host.Cell}, memWfFrom lo m = true → lo ≤ a → memWfFrom lo (memPut m a b) = true
  | lo, [], _, h => by
    by_cases hb : b = memDefault
    · simp [memPut, hb, memWfFrom]
    · simp [memPut, hb, memWfFrom, h]
  | lo, x :: xs, w, h => by
    have w' := w
    simp only [memWfFrom, Bool.and_eq_true, decide_eq_true_eq] at w'
    by_cases h1 : x.1 = a
    · by_cases hb : b = memDefault
      · simp only [memPut, h1, hb, if_true]
        exact memWfFrom_mono (by omega) w'.2
      · simp only [memPut, h1, hb, if_true, if_false, memWfFrom, Bool.and_eq_true, decide_eq_true_eq]
        exact ⟨⟨h, by simpa using hb⟩, h1 ▸ w'.2⟩
    · by_cases h2 : a < x.1
      · by_cases hb : b = memDefault
        · simp only [memPut, h1, h2, hb, if_true, if_false]
          exact w
        · simp only [memPut, h1, h2, hb, if_true, if_false, memWfFrom, Bool.and_eq_true, decide_eq_true_eq]
          exact ⟨⟨h, by simpa using hb⟩, ⟨h2, w'.1.2⟩, w'.2⟩
      · simp only [memPut, h1, h2, if_false, memWfFrom, Bool.and_eq_true, decide_eq_true_eq]
        exact ⟨w'.1, memPut_wf w'.2 (by omega)⟩

/-- A byte reads as it was last written. -/
theorem memGet_memPut_self {a : Nat} {b : Byte} : ∀ {lo : Nat} {m : List Host.Cell}, memWfFrom lo m = true → memGet (memPut m a b) a = b
  | lo, [], _ => by
    by_cases hb : b = memDefault
    · simp [memPut, hb, memGet]
    · simp [memPut, hb, memGet]
  | lo, x :: xs, w => by
    simp only [memWfFrom, Bool.and_eq_true, decide_eq_true_eq] at w
    by_cases h1 : x.1 = a
    · by_cases hb : b = memDefault
      · simp only [memPut, h1, hb, if_true]
        exact memGet_of_lt w.2 (by omega)
      · simp [memPut, h1, hb, memGet]
    · by_cases h2 : a < x.1
      · by_cases hb : b = memDefault
        · simp only [memPut, h1, h2, hb, if_true, if_false, memGet]
          exact memGet_of_lt w.2 (by omega)
        · simp [memPut, h1, h2, hb, memGet]
      · simp only [memPut, h1, h2, if_false, memGet]
        exact memGet_memPut_self w.2

/-- A write leaves every other byte alone. -/
theorem memGet_memPut_of_ne {a a' : Nat} {b : Byte} (h : a' ≠ a) : ∀ {m : List Host.Cell}, memGet (memPut m a b) a' = memGet m a'
  | [] => by
    by_cases hb : b = memDefault
    · simp [memPut, hb]
    · simp [memPut, hb, memGet, Ne.symm h]
  | x :: xs => by
    by_cases h1 : x.1 = a
    · have : x.1 ≠ a' := by omega
      by_cases hb : b = memDefault
      · rw [show memPut (x :: xs) a b = xs by simp [memPut, h1, hb], memGet, if_neg this]
      · rw [show memPut (x :: xs) a b = (a, b) :: xs by simp [memPut, h1, hb], memGet, memGet, if_neg (Ne.symm h), if_neg this]
    · by_cases h2 : a < x.1
      · by_cases hb : b = memDefault
        · simp [memPut, h1, h2, hb]
        · simp [memPut, h1, h2, hb, memGet, Ne.symm h]
      · simp only [memPut, h1, h2, if_false, memGet]
        rw [memGet_memPut_of_ne h]

theorem memWrite_wf : ∀ {bs : List Nat} {a : Nat} {m : List Host.Cell}, Memory.wf m = true → Memory.wf (memWrite m a bs) = true
  | [], _, _, w => w
  | _ :: _, a, _, w => memWrite_wf (bs := _) (a := a + 1) (memPut_wf w (Nat.zero_le a))

/-- A write of bytes leaves every address outside them alone. -/
theorem memGet_memWrite_of_outside {a' : Nat} : ∀ {bs : List Nat} {a : Nat} {m : List Host.Cell}, (a' < a ∨ a + bs.length ≤ a') →
    memGet (memWrite m a bs) a' = memGet m a'
  | [], _, _, _ => rfl
  | _ :: bs, a, _, h => by
    simp only [List.length_cons] at h
    rw [memWrite, memGet_memWrite_of_outside (bs := bs) (by omega), memGet_memPut_of_ne (by omega)]

theorem memFilter_wf {p : Host.Cell → Bool} : ∀ {lo : Nat} {m : List Host.Cell}, memWfFrom lo m = true → memWfFrom lo (m.filter p) = true
  | _, [], _ => rfl
  | lo, x :: xs, w => by
    have w' := w
    simp only [memWfFrom, Bool.and_eq_true, decide_eq_true_eq] at w'
    by_cases h : p x = true
    · rw [List.filter_cons_of_pos h]
      simp only [memWfFrom, Bool.and_eq_true, decide_eq_true_eq]
      exact ⟨w'.1, memFilter_wf w'.2⟩
    · rw [List.filter_cons_of_neg h]
      exact memWfFrom_mono (by omega) (memFilter_wf w'.2)

theorem memZero_wf {lo hi : Nat} {m : List Host.Cell} (w : Memory.wf m = true) : Memory.wf (memZero m lo hi) = true := memFilter_wf w

theorem memPutNat_wf {a n v : Nat} {m : List Host.Cell} (w : Memory.wf m = true) : Memory.wf (memPutNat m a n v) = true := memWrite_wf w

/-- The memory of the reset state is in canonical form. -/
theorem reset_mem_wf : Memory.wf State.reset.mem = true := rfl

end Sys2Proof.Machine
end

