-- ==== Sys2Proof/Tests/Slice0.lean ====
section
/-! SUPPORT. Tests: what well-formedness refuses, values that the manual works out, and for each statement a state that meets its hypotheses. -/

set_option maxRecDepth 100000
set_option Elab.async false
set_option linter.unusedVariables false

namespace Sys2Proof.Tests

open Sys2Proof Sys2Proof.Machine

/-! Well-formedness: an ill-formed term for each check, which the check refuses. -/

/-- Each field of a stitch beyond its width (R141). -/
theorem test_wf_stitch : ([{ version := 16 }, { dstNode := 4096 }, { dstSite := 32 }, { srcNode := 4096 }, { srcSite := 32 }, { tenant := 16 }, { cls := 8 }, { hops := 32 },
    { escape := 2 }, { rsv := 8192 }, { opcode := 256 }, { seq := 65536 }, { sync := 65536 }, { start := 64 }, { countM1 := 64 }, { cnt := 4 }, { opf := 1024 }, { opspec := 2 ^ 18 },
    { ppa := 2 ^ 46 }, { data := List.replicate 65 0 }, { data := [256] }, { entryTs := 2 ^ 32 }, { check := 2 ^ 32 }] : List Stitch).all (fun st => !Stitch.wf st) = true := by decide

/-- Each field of a frame beyond its width (R124). -/
theorem test_wf_frame : ([{ payload := List.replicate 385 0 }, { payload := [256] }, { seq := 65536 }, { ack := 65536 }, { ftype := 256 }, { flags := 256 }, { slot := 256 },
    { rowTag := 256 }, { runCheck := 2 ^ 32 }, { crc := 2 ^ 32 }] : List Frame).all (fun f => !Frame.wf f) = true := by decide

def mk : Marker := { syncFound := true, row := 0, timestamp := 0, health := 0, dataFrames := 0, nextSeq := 0, ack := 0, fill := [], crc := 0 }

/-- Each field of a row marker beyond its width (R122, R206). -/
theorem test_wf_marker : ([{ mk with row := 2 ^ 48 }, { mk with timestamp := 2 ^ 64 }, { mk with health := 65536 }, { mk with dataFrames := 256 }, { mk with nextSeq := 65536 },
    { mk with ack := 65536 }, { mk with fill := [256] }, { mk with crc := 2 ^ 32 }, { mk with credit := 65536 }, { mk with message := 2 ^ 64 },
    { mk with symbols := List.replicate 17 (0, 0) }] : List Marker).all (fun m => !Marker.wf m) = true := by decide

/-- Each field of the telemetry beyond its width (R500). -/
theorem test_wf_telemetry : ([{ vin := 65536 }, { watts := 65536 }, { rails := List.replicate 11 0 }, { dies := List.replicate 11 0 }, { domains := List.replicate 7 0 }, { kSteps := 256 },
    { flow := 65536 }, { drop := 65536 }] : List Telemetry).all (fun t => !Telemetry.wf t) = true := by decide

def badStitch : Stitch := { version := 16 }

/-- Lane C0.0.0, and a lane of a plane that H0 has not. -/
def goodLane : Lane := ⟨0, 0, 0⟩
def badLane : Lane := ⟨22, 9, 0⟩

/-- Commands that name a lane, plane or frame slot which the package has not (R5, R32, R121). -/
theorem test_wf_planes : ([.laneFence (.pkg ⟨badLane, 1, false, false⟩), .receiverReacquired 22 9 true, .detectHoldEnd [⟨badLane, 1, false, false⟩], .fallbackEntryEnd [goodLane, badLane],
    .returnCommit [⟨badLane, 1, false, false⟩], .loopVisit 22 9 0 0 0 0, .ringLossOfLock 22 38 0 0, .acquireTimeout 22 9 0 0, .engineFail 22 38, .edgeTrigger 22 9 0 0,
    .swatchEnd 22 9 0 [], .swatchLeaseAbandon 22 9 0, .frameSend (.pkg badLane) 0, .frameSend (.pkg goodLane) 35, .frameReceive (.pkg badLane) {} 0 [], .frameReceive (.pkg goodLane) {} 35 [],
    .nakRepeatTimeout (.pkg badLane), .gobackTimeout (.pkg badLane), .rowMarkerReceive (.pkg badLane) mk 0, .linkAckMessage badLane, .laneUp badLane, .trainingTimeout badLane,
    .castOn 9 { lanes := [badLane] }] : List Instr).all (fun i => !Instr.wf i) = true := by decide

/-- The operations on synchronization objects that carry a stitch beyond its fields. -/
theorem test_wf_sync : ([.syncRead, .syncAdd, .syncSet, .syncArm, .syncWait, .syncArrive, .syncSetParties, .syncAcquire, .syncRelease, .syncRenew] : List (Stitch → Instr)).all
    (fun f => !Instr.wf (f badStitch)) = true := by decide

/-- The other commands that carry a stitch beyond its fields. -/
theorem test_wf_stitches : ([.stitchEntry 0 (.context 1) 0, .stitchArrival 0 0 0 0, .answerArrival 0 0 0, (.runRequest 0 (.context 1) · 0 false), .portStateArrival, .departureArrival 0,
    (.controlNetUncorr 0 <| .stitch 0 ·), (.timeExchArrival 0 · 0 0), .fillS 0 0 0 0, .fillM 0 0 0 0, .wb 0 0 0, .recallResponse 0 0, .fmCmdArrival, .noticeArrival, .frogArrival,
    .frogAckArrival] : List (Stitch → Instr)).all (fun f => !Instr.wf (f badStitch)) = true := by decide

/-- Commands that carry a frame, marker, message, measurement or list beyond its fields. -/
theorem test_wf_carried : ([.rowBoundary { vin := 65536 } [] [] [] 0, .frameReceive (.pkg goodLane) { seq := 65536 } 0 [], .rowMarkerReceive (.pkg goodLane) { mk with row := 2 ^ 48 } 0,
    .swatchEnd 0 0 0 (List.replicate 3 ⟨⟨true, 0, 0⟩, ⟨true, 0, 0⟩, 0, 0⟩), .countLanding 0 0 (2 ^ 64) 0, .countLanding 0 0 0 256, .controlNetUncorr 0 (.linkAck badLane), .zoneSample 0 [0],
    .recoveryWrite 0 (List.replicate 253 0) true, .jtagRecovery 0 [], .inboundDma 0 none 0 true 2 [0], .inboundDma 0 none 0 false 1 [0]] : List Instr).all (fun i => !Instr.wf i) = true := by decide

/-- Well-formed commands pass. -/
theorem test_wf_passes : ([.laneFence (.pkg ⟨goodLane, 1, false, false⟩), .ringLossOfLock 18 38 0 0, .frameReceive (.pkg goodLane) {} 34 [], .frameSend (.port 0 0) 76, .rowMarkerReceive (.port 0 0) mk 0,
    .stitchEntry 0 (.context 1) 0 {}, .zoneSample 0 [0, 0, 0, 0], .inboundDma 0 none 0 true 1 [0], .lightDip] : List Instr).all Instr.wf = true := by decide

/-! Values that the manual works out. -/

/-- CRC-64 of R468 over "123456789". -/
theorem test_crc64 : crc64 [0x31, 0x32, 0x33, 0x34, 0x35, 0x36, 0x37, 0x38, 0x39] = 0x6C40DF5F0B497347 := by decide +kernel

/-- 0.3 in E4M3 is 0x2A (R337's example): 0.3 as an FP32 product of 3 and 2^-k is not exact, so the nearest FP32 value 0x3E99999A is stored. -/
theorem test_e4m3 : (storeFloat 3 false false 0 0 (fp32.val 0x3E99999A)).1 = 0x2A := by decide +kernel

/-- Addresses of the chapters' examples: CLK.FCHG_4, ROUTE.NODE_STATE_1000, TIME.ASYM_6, SITE.RQ_CFG_3 of C4, CMP.DIGEST_LO of C5, CMP.TKE_DROPPED_0 of C3, EDGE.STATUS of port 13. -/
theorem test_addresses : [R.CLK_FCHG 4, R.ROUTE_NODE_STATE 1000, R.TIME_ASYM 6, R.SITE_RQ_CFG 4 3, R.CMP_DIGEST_LO 5, R.CMP_TKE_DROPPED 3 0, R.EDGE_STATUS 13]
    = [0x200140, 0x4810FA0, 0x600130, 0x1041030, 0x8800204, 0x7920010, 0x4340008] := by decide

/-- Core C2.cl5.core14: its scratch, its cluster's SRAM and the owner of both (the example of the compute chapter); an HBM line of M3 (site 13). -/
theorem test_places : scratchBase 2 99 = 0x01022E600000 ∧ sramBase 2 5 = 0x0100A8000000 ∧ ownerSite 0x0100A8000000 = some 2 ∧ ownerSite 0x001234567040 = some 13 := by decide

def torus16 : Chip := stOf16.chip
where stOf16 : State := { State.reset with chip := ((State.reset.chip.wr R.ROUTE_DIMS_DX 16).wr R.ROUTE_DIMS_DY 16).wr R.ROUTE_DIMS_DZ 16 }

/-- Node 1,000 of a 16 × 16 × 16 torus lies at (8, 14, 3), eight hops from node 5 (the example of the routing chapter). -/
theorem test_torus : [torus16.coord 1000 0, torus16.coord 1000 1, torus16.coord 1000 2] = [8, 14, 3] ∧ torus16.dist 5 1000 = 8 ∧ torus16.dist 1003 1000 = 3 := by decide

/-- The crossing latencies of a region at 0.5, 1.0, 1.6, 1.8 and 3.0 GHz (the table of R477). -/
theorem test_crossing : [20, 40, 64, 72, 120].map (fun m => ((State.reset.chip.wr (R.CLK_REGION_SRC 0) 0).wr (R.CLK_REGION_MULT 0) m).crossing 0)
    = [(5500, 7000), (3500, 4000), (2750, 2875), (2612, 2667), (2167, 2000)] := by decide

/-- Lanes of C3 (the example of the base-layer chapter): C3.12.19 and C3.12.20 are monitor lanes, C3.12.5 a traffic lane to P0; C3.20.5 is a monitor lane; C3.20.9 delivers to M2. -/
theorem test_lanes : [monitorLane 3 12 19, monitorLane 3 12 20, fixedTraffic 3 12 5, monitorLane 3 20 5, fixedTraffic 3 20 9] = [true, true, true, true, true]
    ∧ fixedDest 3 12 5 = some 8 ∧ fixedDest 3 20 9 = some 12 := by decide

/-! States and values that the witnesses use. -/

def stWith (l : List (FRef × Nat)) : State := { State.reset with chip := l.foldl (fun c x => c.wr x.1 x.2) State.reset.chip }
def stOf (l : List (FRef × Nat)) (f : Chip → Chip) : State := { stWith l with chip := f (stWith l).chip }
def regAt (off : Nat) : RegDesc × List Nat := (findReg off).getD (⟨.pcu, "", 0, [], .operator, []⟩, [])
def hold0 : FRef × Nat := (R.PCU_LEASE_STATUS_HOLDER, 0)
def litA : List (FRef × Nat) := [(R.PCU_LEASE_STATUS_HOLDER, 0), (R.LSU_STATUS_MODE, 1), (R.LSU_COMB_STATE 0, 3), (R.LSU_COMB_STATE 1, 2), (R.LSU_STATUS_STANDBY_READY, 1), (R.LSU_CFG_RESTARTS, 3)]
def rk : RingKey := ⟨8, 0, 0, 3⟩
def rp : RingKey := ⟨18, 38, 0, 3⟩
def slope (n : Nat) (c : Chip) : Chip := c.onTns (fun x => { x with slopes := [(rk, n), (rp, n)] })
def sw1 : Swatch := { site := 8, plane := 0, k := 3, scope := 1, start := 0, sites := [8], codes := [(rk, 5)], begun := true }
def sweepA : RingSweep := ⟨⟨true, 900, 30000⟩, ⟨false, 0, 0⟩, 50, 300⟩
def lnA : Lane := ⟨8, 0, 3⟩
def lnB : Lane := ⟨0, 20, 10⟩
def upA : FRef × Nat := (R.LANE_STATE_STATE 8 0 3, lsUP)
def upB : FRef × Nat := (R.LANE_STATE_STATE 0 20 10, lsUP)
def stTx (l : List (FRef × Nat)) (k : Nat × Nat × Nat) (x : LinkTx) : State := stOf l (fun c => c.setTx k x)
def stRx (l : List (FRef × Nat)) (k : Nat × Nat × Nat) (x : LinkRx) : State := stOf l (fun c => c.setRx k x)
def frmS : Frame := Frame.sealed { ftype := ftSTITCH, flags := 1, slot := 4 }
def frmT : Frame := Frame.sealed { ftype := ftTRAIN, slot := 4, payload := State.reset.chip.trainPayload (0, 20, 10) }
def frmR0 : Frame := { ftype := ftRUN, flags := 1, slot := 4 }
def frmR : Frame := Frame.sealed { frmR0 with runCheck := Frame.runCheckOf frmR0 }
def lnC : Lane := ⟨0, 32, 2⟩
def runF : PatRun := { site := 8, plane := 0, k := 3, pattern := 5, row := 0, rows := 4, running := true, selfTest := false, stop := false }
def mrkP : Marker := { syncFound := true, row := 7, timestamp := 0, health := 0, dataFrames := 0, nextSeq := 0, ack := 0, fill := [], crc := 0, credit := 0xC000 }
def mrkQ : Marker := { mrkP with crc := crc32 (Marker.portBody mrkP) }
def mrk : Marker := { syncFound := false, row := 0, timestamp := 0, health := 0, dataFrames := 0, nextSeq := 0, ack := 0, fill := [], crc := 0 }
def mrkG : Marker := { syncFound := true, row := 0, timestamp := 0, health := 0, dataFrames := 0, nextSeq := 0, ack := 0, fill := [], crc := 0 }
def mrkC : Marker := { mrkG with crc := crc32 (Marker.body mrkG) }
def ownA : List (FRef × Nat) := [(⟨R.PART_SRAM_OWN 0, 7, 0⟩, 129), (R.PART_TENANT_EN 1, 1), (R.PART_STATE_STATE 1, 2), (R.ROUTE_NODE_NODE, 5)]
def core1 : List (FRef × Nat) := [(R.CMP_CORE_STATE_OWNED 0 0, 1), (R.CMP_CORE_STATE_TENANT 0 0, 1), (R.CMP_CORE_STATE_OWNED 1 0, 1), (R.CMP_CORE_STATE_TENANT 1 0, 1)]
def coreA : List (FRef × Nat) := ownA ++ core1
def trained (j node site port : Nat) (c : Chip) : Chip :=
  c.each (List.range 40) (fun c l => c.setRx (24 + j, 0, l) { goodMarkers := 2, goodTrain := 64, ident := node * 2048 + site * 64 + 38 + port % 4 })
def stB : Stitch := { dstNode := 5, dstSite := 0, srcNode := 5, srcSite := 1, tenant := 1, cls := 1, opcode := opSTORE, start := 4, countM1 := 3, ppa := 0x10000000000, data := [0, 0, 0, 0, 1, 2, 3, 4] }
def sendSt : State := stOf (upB :: ownA) (fun c => c.onXport (fun y => { y with waiting := [(0, { stB with srcSite := 0, dstSite := 10 })] }))
def sendF : List Stitch × Chip := sendSt.chip.fillSlots 0 10 1 0
def stIn (l : List (FRef × Nat)) (site plane k : Nat) (x : Stitch) : State := stOf l (fun c => c.onXport (fun y => { y with arrived := [⟨site, plane, k, x⟩] }))
def stHbm (site plane k : Nat) (x : Stitch) : State := stOf (ownA ++ [(R.PART_HBM_PAGES_PAGES 1, 1), (R.PART_HBM_BASE_BASE 1, 0)]) (fun c => (c.onXport (fun y => { y with arrived := [⟨site, plane, k, x⟩] })).onMems (fun m => { m with xlat := [(0, (1, 0))] }))
def rqs : RqSlot := ⟨0, 0, 0, ⟨0, 0, 0, 0⟩, 1, 0, 0, [], false, false, 0⟩
def reqS : Stitch := { dstNode := 5, dstSite := 2, tenant := 1, cls := 1, opcode := opSEND }
def outS : OutEntry := { site := 3, st := { dstNode := 5, dstSite := 2, tenant := 1, cls := 1, opcode := opSTORE }, row := 0 }
def outR : OutEntry := { site := 3, st := { dstNode := 5, dstSite := 2, tenant := 1, cls := 1, opcode := opSTREAM_READ, data := [0, 0, 0, 0, 0, 0, 0, 0, 0, 4] }, row := 0, result := some [7] }
def apA : ArmedPattern := ⟨1, 3, 1, 0, 0, 0, none, 0, 0⟩
def stE : Stitch := { stB with srcSite := 0, dstSite := 0, data := [0, 0, 0, 0, 1, 2, 3, 4] }
def pat1 : List (FRef × Nat) := [(R.CIRC_PAT_HDR_TENANT 3, 1), (R.CIRC_PAT_VALID 3 0, 1), (R.CIRC_PAT_DST_BANK 3 0, 20), (R.CIRC_PAT_TENANT 3 0, 1), (R.CIRC_ALLOT_EN 0, 1), (R.CIRC_ALLOT_TENANT 0, 1), (R.CIRC_ALLOT_EN 20, 1), (R.CIRC_ALLOT_TENANT 20, 1)]
def pat2 : List (FRef × Nat) := [(R.CIRC_PAT_HDR_TENANT 3, 1), (R.CIRC_PAT_VALID 3 0, 1), (R.CIRC_PAT_DST_BANK 3 0, 20), (R.CIRC_PAT_TENANT 3 0, 1), (R.CIRC_ALLOT_EN 0, 1), (R.CIRC_ALLOT_TENANT 0, 1)]
def circA : List (FRef × Nat) := ownA ++ [(R.CIRC_PLANE_STATE 0, 1), (R.CIRC_PLANE_TENANT 0, 1), (R.CIRC_PLANE_DST_BANK 0, 20)]
def reqRun : Stitch := { dstNode := 5, dstSite := (switchedAt 20).1, tenant := 1, cls := 0, opcode := opRUN_OPEN, opspec := 0 }
def dstA : DstRun := ⟨1, 0, 7, { srcNode := 5, srcSite := 0, tenant := 1, opcode := opRUN_OPEN }, [], stOK, false, []⟩
def peA : PoolEntry := ⟨1, none, none, { dstNode := 1, tenant := 1, cls := 1, opcode := opSTORE }, none, 0, 63, 31⟩
def peC : PoolEntry := ⟨1, none, none, { dstNode := 1, tenant := 1, cls := 4, opcode := opCTRL }, some 0, 0, 63, 31⟩
def torus : List (FRef × Nat) := [(R.ROUTE_DIMS_DX, 4), (R.ROUTE_DIMS_DY, 1), (R.ROUTE_DIMS_DZ, 1), (R.ROUTE_NODE_NODE, 0), (R.ROUTE_PORT_MAP_ROLE 4, 0), (R.EDGE_STATUS_STATE 4, 2)]
def mcA : McWait := ⟨1, { opcode := opMC_STORE, tenant := 1, ppa := 0x100C0000000 }, none, none, 63, 31⟩
def prt (j st : Nat) : FRef × Nat := (R.EDGE_STATUS_STATE j, st)
def stPort : Stitch := { opcode := opCTRL, data := [7, 0, 2] }
def ptA : Partial := ⟨1, 2, { dstNode := 9, dstSite := 10, tenant := 1, opcode := opREDUCE }, [], 1, [], 0⟩
def detA : DetSlot := ⟨4, 2, { tenant := 1, ppa := 0x40, opcode := opREDUCE }, [{ tenant := 1, ppa := 0x40, opcode := opREDUCE, opf := 0, data := [1] }], 0⟩
def hbmOwn : List (FRef × Nat) := ownA ++ [(R.PART_HBM_PAGES_PAGES 1, 1), (R.PART_HBM_BASE_BASE 1, 0)]
def stMem (l : List (FRef × Nat)) (r : Nat) (f : MemSites → MemSites) (g : Combining → Combining) : State := stOf l (fun c => { (c.onMems f).onRed g with row := r })
def snpA : SnoopEntry := ⟨0x40, 0, 1, [1], some 1⟩
def pkA (sh : Bool) : ParkedAccess := ⟨10, .probe, 0x40, [1], sh, false, none, 0⟩
def rcA : Recall := ⟨10, 1, 0x40, false, 1, 7, 0⟩
def synS : Stitch := { srcNode := 5, srcSite := 2, tenant := 1, opcode := opSYNC_OP, sync := 9, data := [5, 0, 0, 0, 0, 0, 0, 0] }
def synT (d : List Nat) : Stitch := { synS with data := d }
def stSyn (o : SyncObj) (w : List HeldWait) : State := stOf [(R.ROUTE_NODE_NODE, 5)] (fun c => { c with sync := { c.sync with objs := [(9, o)], waits := w }, row := 50 })
def stLand (o : SyncObj) (l m : List Landing) : State := stOf [] (fun c => ({ c with sync := { c.sync with objs := [(9, o)] } }).onXport (fun x => { x with landings := l, merging := m }))
def thA : Thread := { x := (List.range 32).map (fun i => if i = 6 then 64 else if i = 11 then 0x20000000 else 8 * i), f := (List.range 32).map (fun i => if i % 2 = 1 then 0x3FF00000 + i else i), pc := 8 }
def thF : Thread := { thA with far := [⟨1, 2, .store⟩] }
def thL : Thread := { thA with far := [⟨77, 4, .load 5 2 true⟩], wait := .answer }
def thW : Thread := { thA with x := (List.range 32).map (fun i => if i = 9 then 0xFFFFFFFF else 8 * i) }
def blkA (t : Thread) : Block := ⟨1, 2, 3, .queue 1 2, 7, 4, 1, 1, 0, 64, [], [t]⟩
def stThr (t : Thread) : State := stOf [(R.CMP_CORE_STATE_STATE 1 2, 3)] (fun c => c.onComp (fun x => { x with blocks := [blkA t] }))
def stTk (t : Thread) : State := { stThr t with chip := ((stThr t).chip.onComp (fun x => { x with done := [((1, 2, 0), [(64, 9)])] })).wr (R.CMP_CORE_EQ_NEXT 1 2 0) 66 }
def s64 (t : Thread) : State := (stThr t).onChip (fun c => c.setDescs 1 2 (7 * 8 % 8) (List.replicate 64 { ticket := 1, bytes := [] }))
def stCmp (t : Thread) : State := { stThr t with chip := (stThr t).chip.onXport (fun x => { x with comps := [(77, ⟨1, opLOAD_RSP, 1, 0, 0, [0, 0, 0, 0, 0x34, 0x92]⟩)] }) }
def lchA : Launch := { src := .queue 1 2, idx := 7, die := 1, tenant := 1, cores := [2], bdim := 2, blocks := 3, bytes := 64, pc := 16, arg := 5, windows := [] }
def dsc (b : List Nat) : Desc := { ticket := 7, bytes := b }
def dscB (h : List Nat) (_ : Nat) (l : List (Nat × Nat × Nat)) : Desc := { ticket := 7, bytes := l.foldl (fun b f => b.take f.1 ++ leBytes f.2.1 f.2.2 ++ b.drop (f.1 + f.2.1)) (h ++ List.replicate (64 - h.length) 0) }
def stDsc (q : Nat) (x : Desc) : State := stOf [(R.CMP_CORE_STATE_STATE 1 2, 3), (R.CMP_CORE_STATE_TENANT 1 2, 1)] (fun c => c.setDescs 1 2 q [x])
def stSkip (q : Nat) (x : Desc) : State := stOf [(R.CMP_CORE_STATE_STATE 1 2, 3), (R.CMP_CORE_EQ_SKIP 1 2 q, 1)] (fun c => c.setDescs 1 2 q [x])
def stMov (q : Nat) (x : Desc) : State := { stOf [(R.CMP_CORE_STATE_STATE 1 2, 3), (R.CMP_CORE_STATE_TENANT 1 2, 1), (R.PART_TENANT_EN 1, 1), (R.PART_STATE_STATE 1, 2), (⟨R.PART_SRAM_OWN 128, 7, 0⟩, 129), (R.CMP_CORE_STATE_OWNED 1 2, 1), (R.CMP_CORE_STATE_LOGICAL 1 2, 0)] (fun c => { (c.setDescs 1 2 q [x]) with sync := { c.sync with objs := [(9, { kind := 1, tenant := 1 })] } }) with mem := [(scratchBase 1 2 + 256, 5), (scratchBase 1 2 + 257, 6)] }
def stPanel (x : Desc) : State := { stMov 3 x with mem := [(scratchBase 1 2 + 2, 3)] }
def cmdA (op : Nat) (l : List (Nat × Nat × Nat)) : Cmd := { src := .admin, idx := 5, pkt := l.foldl (fun b f => b.take f.1 ++ leBytes f.2.1 f.2.2 ++ b.drop (f.1 + f.2.1)) ([op, 1, 0, 0, 0, 0, 0, 2] ++ List.replicate 56 0) }
def stAdm (x : Cmd) (l : List (FRef × Nat)) (f : Chip → Chip) : State := stOf ([hold0, (R.PCU_CASTON_STEP, 12), (R.PART_TENANT_EN 1, 1), (R.PART_STATE_STATE 1, 2)] ++ l) (fun c => f (c.onCmd (fun y => { y with cmds := [x] })))
def stQ (l : List (FRef × Nat)) : State := stWith (ownA ++ [(R.CPU_CORE_STATE_STATE 1 2, 2), (R.PCU_CASTON_STEP, 12), (R.PCU_CQ_BASE_HI_ADDR 1 3, 0x100), (R.PCU_CQ_STAT_HI_ADDR 1 3, 0x100), (R.PCU_CQ_CFG_EN 1 3, 1), (R.PCU_CQ_CFG_SIZE_LOG2 1 3, 4), (R.PCU_CQ_TAIL_INDEX 1 3, 2), (R.PCU_CQ_STAT_LO_ADDR 1 3, 4096), (R.CPU_CORE_STATE_TENANT_EN 1 2, 1), (R.CPU_CORE_STATE_TENANT 1 2, 1)] ++ l)
def stNot (l : List (FRef × Nat)) : State := stWith ([(R.PCU_FMQ_CFG_EN, 1), (R.PCU_FMQ_BASE_HI_VALUE, 0x100), (⟨R.PART_SRAM_OWN 0, 7, 0⟩, 128)] ++ l)
def rqM : RqSlot := ⟨9, 3, 0, ⟨5, 2, 1, 7⟩, 1, 0, 0, [(0, [1, 2, 3])], true, false, 0⟩
def stRq (l : List RqSlot) : State := stOf [(R.SITE_RQ_CFG_EN 9 3, 1), (R.SITE_RQ_CFG_TENANT 9 3, 1), (R.CPU_CORE_STATE_TENANT 1 2, 1)] (fun c => c.onXport (fun x => { x with slots := l }))
def rowAt (n : Nat) (s : State) : State := { s with chip := { s.chip with row := n } }
def trpA : TripRec := { record := { code := Ev.trip, tenant := none, unit := 0, args := [], time := 0, timeState := 0, secs := 0, cycles := 0, nv := true }, cause := 1, zone := 3, sensor := 0, reading := 900, seq := 7, pending := true, rails := [], temps := [], headerOnly := true }
def evrA : EventRec := { code := 0x0303, tenant := none, unit := 4, args := [9], time := 70, timeState := 0, secs := 0, cycles := 0, nv := false }

/-! For each statement that has hypotheses, a state and operands for each of its clauses that meet them all together. -/

theorem witness_RegisterAccessesThatAreAccepted :
  ((fun (req : Requester) (off : BitVec 28) (v : BitVec 32) (s : State) (r : RegDesc) (is : List Nat) (f : Fld) => (findReg off.toNat = some (r, is)) ∧ (r.flds = [f]) ∧ (f.acc = .rw) ∧ (f.cls = .l) ∧ (f.lo ≤ f.hi) ∧ (f.hi < 32) ∧ (r.role = .operator) ∧ (s.chip.hookOf req r is v.toNat = .plain) ∧ (aliasOff off.toNat = false) ∧ (windowOff off.toNat = false) ∧ (writeAccepted s.chip req off.toNat)) .mgmt (BitVec.ofNat 28 R.SYN_OBJ_SEL) 0x12345 (stWith []) (regAt R.SYN_OBJ_SEL).1 [] ⟨15, 0, .rw, .l, .val 0⟩) ∧
  ((fun (req : Requester) (off : BitVec 28) (s : State) (r : RegDesc) (is : List Nat) => (findReg off.toNat = some (r, is)) ∧ (sideEffect r.base = false) ∧ (r.base ∉ [R.DBG_MIRROR_SEL, R.DBG_MIRROR_DATA, R.DBG_MIRROR_STATUS]) ∧ (¬ (R.SYN_OBJ_W0_LO < r.base ∧ r.base ≤ R.SYN_OBJ_W1_HI)) ∧ (loBases.contains (r.base - 4) = false) ∧ (readAccepted s.chip req off.toNat)) .mgmt (BitVec.ofNat 28 R.SYN_OBJ_SEL) (stWith []) (regAt R.SYN_OBJ_SEL).1 []) ∧
  ((fun (req : Requester) (off : BitVec 28) (s : State) (r : RegDesc) (is : List Nat) => (findReg off.toNat = some (r, is)) ∧ (loBases.contains r.base = true) ∧ (readAccepted s.chip req off.toNat)) .mgmt (BitVec.ofNat 28 R.TIME_ROW_LO) (stWith []) (regAt R.TIME_ROW_LO).1 []) ∧
  ((fun (req : Requester) (s : State) => (readAccepted s.chip req R.DBG_MIRROR_DATA) ∧ (s.chip.mirrorFault (s.chip.mirrorOf req).sel = none)) (.pcu 0) (stOf [] (fun c => c.setMirror ⟨.pcu 0, R.SYN_OBJ_SEL, 0⟩))) ∧
  ((fun (req : Requester) (s : State) => (readAccepted s.chip req R.PCU_DUMP_DATA)) .jtag (stWith [hold0])) ∧
  ((fun (req : Requester) (s : State) => (readAccepted s.chip req R.SYN_OBJ_W0_LO)) .jtag (stWith [])) := by
  refine ⟨?_, ?_⟩
  · repeat' apply And.intro
    all_goals first | decide +kernel | rfl
  iterate 4
    refine ⟨?_, ?_⟩
    · try unfold readAccepted
      decide +kernel
  try unfold readAccepted
  decide +kernel

theorem witness_RefusedAccessesOnlyShowInBusErr :
  ((fun (req : Requester) (off : BitVec 28) (v : BitVec 32) (s : State) => (s.chip.mayIssue req = true) ∧ (off.toNat % 4 ≠ 0)) .mgmt 2 0 (stWith [])) ∧
  ((fun (req : Requester) (off : BitVec 28) (v : BitVec 32) (s : State) => (s.chip.mayIssue req = true) ∧ (off.toNat % 4 = 0) ∧ (aliasOff off.toNat = false) ∧ (findReg off.toNat = none)) .mgmt 0xE000000 0 (stWith [])) ∧
  ((fun (req : Requester) (off : BitVec 28) (v : BitVec 32) (s : State) => (aliasOff off.toNat = false) ∧ (s.chip.judge req off.toNat true true = .tenant)) (.queueProc 0 0) 0 5 (stWith [(R.CMP_QP_STATUS_STATE 0 0, 1)])) ∧
  ((fun (req : Requester) (off : BitVec 28) (v : BitVec 32) (s : State) => (aliasOff off.toNat = false) ∧ (s.chip.judge req off.toNat true true = .role)) .mgmt (BitVec.ofNat 28 R.LSU_CTRL) 5 (stWith [])) ∧
  ((fun (req : Requester) (off : BitVec 28) (v : BitVec 32) (s : State) => (aliasOff off.toNat = false) ∧ (s.chip.judge req off.toNat true true = .gated)) (.pcu 0) (BitVec.ofNat 28 (R.CMP_CORE_CTRL 0 0)) 5 (stWith [(R.CLK_GATE_STATUS_LO_GATED, 1)])) ∧
  ((fun (req : Requester) (off : BitVec 28) (s : State) => (s.chip.mayIssue req = true) ∧ (aliasOff off.toNat = true) ∧ (off.toNat % 4 = 0)) .mgmt 0x1F00000 (stWith [])) := by
  iterate 5
    refine ⟨?_, ?_⟩
    · decide +kernel
  decide +kernel

theorem witness_AliasesEmulatedAccessesAndInboundDma :
  ((fun (req : Requester) (off : BitVec 28) (v : BitVec 32) (s : State) (b n base stride abase astride : Nat) (d : RegDesc) => (s.chip.mayIssue req = true) ∧ (off.toNat % 4 = 0) ∧ (aliasOff off.toNat = true) ∧ (aliasBlock off.toNat = some (b, n, base, stride, abase, astride)) ∧ ((off.toNat - abase) / astride = 15) ∧ (0 < n) ∧ (aliasReg n base stride ((off.toNat - abase) % astride) = some d) ∧ ((∀ die k, req ≠ .hart die k)) ∧ ((∀ die k, req ≠ .queueProc die k)) ∧ ((∀ u, req ≠ .pcu u)) ∧ (d.role.rank ≤ (s.chip.roleOf req).rank) ∧ ((∀ i ∈ List.range n, s.chip.writeWaits req (base + i * stride + (off.toNat - abase) % astride) = false))) (.hostIo 0) (BitVec.ofNat 28 (0x1F00000 + 15 * 0x10000 + (R.SITE_RQ_BASE 0 0 - 0x1000000))) 5 (stWith []) 0 24 0x1000000 0x10000 0x1F00000 0x10000 (regAt (R.SITE_RQ_BASE 0 0)).1) ∧
  ((fun (req : Requester) (off : BitVec 28) (v : BitVec 32) (s : State) (b n base stride abase astride : Nat) (d : RegDesc) => (s.chip.mayIssue req = true) ∧ (off.toNat % 4 = 0) ∧ (aliasOff off.toNat = true) ∧ (aliasBlock off.toNat = some (b, n, base, stride, abase, astride)) ∧ ((off.toNat - abase) / astride ≠ 15) ∧ (s.chip.rd (R.PCU_GROUP_MASK_MEMBERS b ((off.toNat - abase) / astride)) = 0) ∧ (aliasReg n base stride ((off.toNat - abase) % astride) = some d) ∧ ((∀ die k, req ≠ .hart die k)) ∧ ((∀ die k, req ≠ .queueProc die k)) ∧ (d.role.rank ≤ (s.chip.roleOf req).rank) ∧ (s.chip.behindOwn req = false)) (.hostIo 0) (BitVec.ofNat 28 (0x1F00000 + (R.SITE_RQ_BASE 0 0 - 0x1000000))) 5 (stWith []) 0 24 0x1000000 0x10000 0x1F00000 0x10000 (regAt (R.SITE_RQ_BASE 0 0)).1) ∧
  ((fun (s : State) (e : EmuAccess) (es : List EmuAccess) => (s.chip.tokenHeld = true) ∧ (s.chip.acc.emuWait = e :: es) ∧ (e.req ≠ .mgmt) ∧ (e.isWrite = false)) (stOf [hold0] (fun c => c.waitEmu .jtag R.PWR_CAP false 0)) ⟨.jtag, R.PWR_CAP, false, 0, 0, none⟩ []) ∧
  ((fun (s : State) (e : EmuAccess) => (s.chip.tokenHeld = false) ∧ (s.chip.rowsRun = false ∨ s.chip.pcu.lostAt + 200000 ≤ s.chip.cycles) ∧ (s.chip.acc.emuWait = [e]) ∧ (e.req ≠ .mgmt) ∧ (e.dropped = true)) (stOf [(R.PCU_LEASE_STATUS_HOLDER, 3)] (fun c => c.waitEmu .jtag R.PWR_CAP false 0)) ⟨.jtag, R.PWR_CAP, false, 0, 0, none⟩) ∧
  ((fun (r : Fin 16) (a : BitVec 46) (data : List (BitVec 8)) (s : State) => (s.chip.on (R.HIO_PORT_TENANT_EN r.val) = true) ∧ (s.chip.hio.dmaStopped.contains r.val = false) ∧ (a.toNat % 4096 = 0) ∧ (imsicFile a.toNat = true)) 3 0x10000000 [1, 2, 3, 4] (stWith [(R.HIO_PORT_TENANT_EN 3, 1)])) ∧
  ((fun (r : Fin 16) (w : Fin 1024) (a : BitVec 46) (isWrite : Bool) (n : Fin 4097) (data : List (BitVec 8)) (s : State) => (0 < n.val) ∧ (s.chip.on (R.HIO_PORT_TENANT_EN r.val) = false ∨ s.chip.hio.dmaStopped.contains r.val = true)) 3 0 0 true 4 [1, 2, 3, 4] (stWith [])) ∧
  ((fun (r : Fin 16) (a : BitVec 46) (isWrite : Bool) (n : Fin 4097) (data : List (BitVec 8)) (s : State) => (s.chip.on (R.HIO_PORT_TENANT_EN r.val) = true)) 3 0 true 4 [1, 2, 3, 4] (stWith [(R.HIO_PORT_TENANT_EN 3, 1)])) ∧
  ((fun (r : Fin 16) (a : BitVec 46) (n : Fin 4097) (data : List (BitVec 8)) (s : State) => (s.chip.on (R.HIO_PORT_TENANT_EN r.val) = true) ∧ (s.chip.hio.dmaStopped.contains r.val = false) ∧ (a.toNat < 0x3FF000000000) ∧ (0 < n.val) ∧ (a.toNat % 64 + n.val ≤ 64) ∧ (data.length = n.val)) 3 0x1004 4 [1, 2, 3, 4] (stWith [(R.HIO_PORT_TENANT_EN 3, 1), (R.HIO_PORT_TENANT_TENANT 3, 2)])) := by
  iterate 7
    refine ⟨?_, ?_⟩
    · decide +kernel
  decide +kernel

theorem witness_SparingCommandsComplete :
  ((fun (l : Lane) (code : Fin 16) (s : State) => (Config.planeKind l.site.val l.plane.val = 1) ∧ (trafficLane l.site.val l.plane.val l.k.val = true) ∧ (selfTest l.site.val l.plane.val l.k.val = false) ∧ (s.chip.laneState l.site.val l.plane.val l.k.val = lsUP) ∧ (s.chip.fenceHeld l.site.val l.plane.val l.k.val code.val = false) ∧ (s.chip.on R.OPF_CFG_AUTO_SPARE = true) ∧ (s.chip.opf.booked = []) ∧ (s.chip.opf.fences = []) ∧ (s.chip.opf.guessed = []) ∧ (s.chip.sideState ⟨l.site.val, l.plane.val, false⟩ = 0) ∧ (s.chip.warmSpares l.site.val false ≠ [])) ⟨8, 0, 3⟩ 5 (stOf [(R.LANE_STATE_STATE 8 0 3, lsUP), (R.OPF_CFG_AUTO_SPARE, 1)] id)) ∧
  ((fun (site : Fin 24) (plane : Fin 42) (rx : Bool) (s : State) => (⟨site.val, plane.val, rx⟩ ∉ s.chip.opf.reacquiring)) 0 0 true (stWith [])) ∧
  ((fun (site : Fin 24) (plane : Fin 42) (rx : Bool) (s : State) => (s.chip.opf.reacquiring = [⟨site.val, plane.val, rx⟩]) ∧ ((∀ l ∈ s.chip.sideLanes ⟨site.val, plane.val, rx⟩, s.chip.laneState l.1 l.2.1 l.2.2 ≠ lsHOLD))) 0 0 true (stOf [] (fun c => c.onOpf (fun o => { o with reacquiring := [⟨0, 0, true⟩] })))) ∧
  ((fun (req : Requester) (site : Fin 24) (v : BitVec 32) (s : State) => (writeAccepted s.chip req (R.SITE_SUBST_REQ site.val)) ∧ (bitOf v.toNat 31 = true ∨ bitOf v.toNat 30 = true)) (.pcu 0) 3 0x80000000 (stWith [])) := by
  iterate 3
    refine ⟨?_, ?_⟩
    · try unfold writeAccepted
      decide +kernel
  try unfold writeAccepted
  decide +kernel

theorem witness_LightSourceEventsComplete :
  ((fun (line : Fin 40) (s : State) => (s.chip.onComb = true)) 7 (stWith litA)) ∧
  ((fun (line : Fin 40) (s : State) => (s.chip.onComb = true) ∧ (s.chip.light.flagged = []) ∧ (s.chip.light.tookOver = none)) 7 (stWith litA)) ∧
  ((fun (line : Fin 40) (s : State) => (s.chip.onComb = false) ∧ (s.chip.rd R.LSU_STATUS_MODE = 6)) 7 (stWith [(R.LSU_STATUS_MODE, 6)])) ∧
  ((fun (s : State) => (s.chip.light.flagged ≠ []) ∧ (s.chip.rd R.LSU_STATUS_MODE = 1 ∨ s.chip.rd R.LSU_STATUS_MODE = 2) ∧ (s.chip.light.changeBefore = none)) (stOf litA (fun c => c.onLight (fun l => { l with flagged := [3], changeAt := some 0 })))) ∧
  ((fun (s : State) => (s.chip.light.flagged ≠ [])) (stOf litA (fun c => c.onLight (fun l => { l with flagged := [3], changeAt := some 0 })))) ∧
  ((fun (a : Fin 2) (s : State) => (s.chip.activeComb = some a.val) ∧ (s.chip.onComb = true) ∧ (s.chip.light.flagged ≠ []) ∧ (s.chip.on R.LSU_STATUS_STANDBY_READY = true) ∧ (s.chip.light.swapRow = none) ∧ (s.chip.light.changeAt.isSome = true)) 0 (stOf litA (fun c => c.onLight (fun l => { l with flagged := [3], changeAt := some 0 })))) ∧
  ((fun (a : Fin 2) (s : State) => (s.chip.light.flagged ≠ []) ∧ (s.chip.activeComb = some a.val)) 0 (stOf litA (fun c => c.onLight (fun l => { l with flagged := [3], changeAt := some 0 })))) ∧
  ((fun (x : Fin 2) (r : Nat) (lit : Bool) (s : State) => (s.chip.light.flagged ≠ []) ∧ (s.chip.activeComb = none) ∧ (s.chip.light.returning = some (x.val, r, lit)) ∧ (s.chip.rd (R.LSU_COMB_STATE x.val) = 7)) 1 5 true (stOf [(R.LSU_STATUS_MODE, 6), (R.LSU_COMB_STATE 1, 7)] (fun c => c.onLight (fun l => { l with flagged := [3], returning := some (1, 5, true) })))) ∧
  ((fun (comb : Fin 2) (mhz : BitVec 16) (s : State) => (s.chip.rd (R.LSU_COMB_STATE comb.val) = 4) ∧ (s.chip.onComb = true) ∧ (s.chip.light.granted = [])) 1 0x1234 (stOf (litA ++ [(R.LSU_COMB_STATE 1, 4)]) id)) ∧
  ((fun (comb : Fin 2) (mhz : BitVec 16) (s : State) => (s.chip.rd (R.LSU_COMB_STATE comb.val) ∈ [1, 2, 4])) 1 0x1234 (stOf (litA ++ [(R.LSU_COMB_STATE 1, 4)]) id)) ∧
  ((fun (comb : Fin 2) (s : State) => (s.chip.onComb = true) ∧ (s.chip.rd (R.LSU_COMB_STATE comb.val) = 2)) 1 (stWith litA)) ∧
  ((fun (comb : Fin 2) (s : State) => (s.chip.onComb = true) ∧ (s.chip.rd (R.LSU_COMB_STATE comb.val) = 2) ∧ (s.chip.on R.ROUTE_FM_EN = false)) 1 (stOf (litA ++ [(R.ROUTE_FM_EN, 0)]) id)) ∧
  ((fun (comb : Fin 2) (s : State) => (s.chip.tokenHeld = true) ∧ (s.chip.rd (R.LSU_COMB_STATE comb.val) = 4) ∧ (getKey comb.val s.chip.light.restartAt = none) ∧ (comb.val ∈ s.chip.light.granted ∨ s.chip.rd (R.LSU_COMB_RESTARTS_USED comb.val) < s.chip.rd R.LSU_CFG_RESTARTS)) 1 (stOf (litA ++ [(R.LSU_COMB_STATE 1, 4)]) id)) ∧
  ((fun (comb : Fin 2) (t0 : Nat) (s : State) => (getKey comb.val s.chip.light.restartAt = some t0) ∧ (t0 + 2000000000 ≤ s.chip.now) ∧ (s.chip.light.granted = []) ∧ (s.chip.rd R.LSU_CFG_RESTARTS ≤ s.chip.rd (R.LSU_COMB_RESTARTS_USED comb.val))) 1 0 (stOf (litA ++ [(R.LSU_COMB_STATE 1, 4), (R.LSU_COMB_RESTARTS_USED 1, 3)]) (fun c => { c.onLight (fun l => { l with restartAt := [(1, 0)] }) with row := 3000000 }))) ∧
  ((fun (comb : Fin 2) (t0 : Nat) (s : State) => (getKey comb.val s.chip.light.restartAt = some t0) ∧ (t0 + 2000000000 ≤ s.chip.now)) 1 0 (stOf (litA ++ [(R.LSU_COMB_STATE 1, 4)]) (fun c => { c.onLight (fun l => { l with restartAt := [(1, 0)] }) with row := 3000000 }))) ∧
  ((fun (unlocked : List Lane) (s : State) => (s.chip.rd R.LSU_STATUS_MODE = 4) ∧ (s.chip.light.entered.all (fun t0 => decide (t0 + 8000000 ≤ s.chip.cycles)) = true)) [] (stWith [(R.LSU_STATUS_MODE, 4)])) ∧
  ((fun (s : State) => (s.chip.rd R.LSU_STATUS_MODE = 4) ∧ ((∀ l ∈ s.chip.entryLanes, s.chip.laneSearching l = false))) (stWith [(R.LSU_STATUS_MODE, 4)])) ∧
  ((fun (s : State) => (s.chip.fallbackMode = true)) (stWith [(R.LSU_STATUS_MODE, 5)])) ∧
  ((fun (comb : Fin 2) (s : State) => (s.chip.rd (R.LSU_COMB_STATE comb.val) ∉ [2, 3, 7])) 1 (stWith [])) := by
  iterate 18
    refine ⟨?_, ?_⟩
    · decide +kernel
  decide +kernel

theorem witness_LightSupplyCommandsComplete :
  ((fun (req : Requester) (v : BitVec 32) (s : State) => (writeAccepted s.chip req R.LSU_CTRL) ∧ (v.toNat / 2 ^ 28 = 8) ∧ (s.chip.tokenHeld = true) ∧ (s.chip.on R.LSU_STATUS_STANDBY_READY = true)) (.pcu 0) 0x80000000 (stWith litA)) ∧
  ((fun (req : Requester) (v : BitVec 32) (x : Fin 2) (s : State) => (writeAccepted s.chip req R.LSU_CTRL) ∧ (v.toNat / 2 ^ 28 = 4) ∧ (s.chip.tokenHeld = true) ∧ (s.chip.rd R.LSU_STATUS_MODE = 5) ∧ (s.chip.returnCandidate = some x.val)) (.pcu 0) 0x40000000 1 (stOf [(R.PCU_LEASE_STATUS_HOLDER, 0), (R.LSU_STATUS_MODE, 5), (R.LSU_COMB_SPACING_LOCK 1, 1), (R.LSU_COMB_OFFSET_LOCK 1, 1), (R.LSU_CFG_HOLDOFF, 1)] (fun c => { c.onLight (fun l => { l with locked := [(1, 0)], offsets := [(1, 5)] }) with row := 3000000 }))) ∧
  ((fun (req : Requester) (v : BitVec 32) (s : State) => (writeAccepted s.chip req R.LSU_CTRL) ∧ (v.toNat / 2 ^ 28 = 2) ∧ (s.chip.tokenHeld = true) ∧ (s.chip.rd (R.LSU_COMB_STATE 0) = 5)) (.pcu 0) 0x20000000 (stWith [(R.PCU_LEASE_STATUS_HOLDER, 0), (R.LSU_COMB_STATE 0, 5)])) ∧
  ((fun (req : Requester) (v : BitVec 32) (s : State) => (writeAccepted s.chip req R.LSU_CTRL) ∧ (1 < popCount 4 (v.toNat / 2 ^ 28))) (.pcu 0) 0x60000000 (stWith litA)) ∧
  ((fun (s : State) => (s.chip.light.heldCtrl = some (2 ^ 31)) ∧ (s.chip.tokenHeld = true) ∧ (s.chip.on R.LSU_STATUS_STANDBY_READY = true)) (stOf litA (fun c => c.onLight (fun l => { l with heldCtrl := some (2 ^ 31) })))) ∧
  ((fun (s : State) => (s.chip.light.heldCtrl = some (2 ^ 31)) ∧ (s.chip.tokenHeld = true) ∧ (s.chip.on R.LSU_STATUS_STANDBY_READY = false)) (stOf [(R.PCU_LEASE_STATUS_HOLDER, 0)] (fun c => c.onLight (fun l => { l with heldCtrl := some (2 ^ 31) })))) ∧
  ((fun (v : Nat) (s : State) => (s.chip.light.heldCtrl = some v) ∧ (s.chip.tokenHeld = true)) (2 ^ 31) (stOf litA (fun c => c.onLight (fun l => { l with heldCtrl := some (2 ^ 31) })))) ∧
  ((fun (x : Fin 2) (r : Nat) (failed : List FenceSign) (s : State) => (s.chip.light.returning = some (x.val, r, true)) ∧ (s.chip.rd R.LSU_STATUS_MODE = 6) ∧ (r < s.chip.row) ∧ (s.chip.tokenHeld = true) ∧ (s.chip.returnLocked = true) ∧ (s.chip.light.commit = none)) 1 0 [] (stOf [(R.PCU_LEASE_STATUS_HOLDER, 0), (R.LSU_STATUS_MODE, 6)] (fun c => { c.onLight (fun l => { l with returning := some (1, 0, true), changeAt := some 0 }) with row := 2 }))) ∧
  ((fun (lost : List FenceSign) (s : State) => (s.chip.on R.OPF_STATUS_DETECT_HOLD = true) ∧ (s.chip.rd R.LSU_STATUS_MODE ≠ 4) ∧ (s.chip.light.changeAt.all (fun t0 => decide (t0 + 40000 ≤ s.chip.cycles)) = true)) [] (stWith (litA ++ [(R.OPF_STATUS_DETECT_HOLD, 1)]))) ∧
  ((fun (t0 : Nat) (s : State) => (s.chip.on R.OPF_STATUS_DETECT_HOLD = true) ∧ (s.chip.light.changeAt = some t0) ∧ (t0 + 40000 ≤ s.chip.cycles) ∧ (s.chip.rd R.LSU_STATUS_MODE ≠ 4) ∧ (s.chip.rd R.LSU_STATUS_MODE ≠ 3)) 5 (stOf (litA ++ [(R.OPF_STATUS_DETECT_HOLD, 1)]) (fun c => { c.onLight (fun l => { l with changeAt := some 5 }) with row := 100 }))) := by
  iterate 9
    refine ⟨?_, ?_⟩
    · try unfold writeAccepted
      decide +kernel
  try unfold writeAccepted
  decide +kernel

theorem witness_LockInLoopCommandsComplete :
  ((fun (site : Fin 24) (plane : Fin 42) (d : Fin 2) (k : Fin 40) (i p : BitVec 16) (s : State) => (s.chip.rd (ringLoop ⟨site.val, plane.val, d.val, k.val⟩) = loLOCKED) ∧ ((clampSigned 16 (100 * s.chip.scaled site.val i.toInt / (s.chip.slopeOf ⟨site.val, plane.val, d.val, k.val⟩ : Int))).natAbs ≤ 600) ∧ ((⟨site.val, plane.val, d.val, k.val⟩ : RingKey) ∉ s.chip.tns.atEnd)) 8 0 0 3 20 7 (stOf [(ringLoop rk, loLOCKED), (ringHeater rk, 100)] (slope 100))) ∧
  ((fun (site : Fin 24) (plane : Fin 42) (d : Fin 2) (k : Fin 40) (i p : BitVec 16) (s : State) => (s.chip.rd (ringLoop ⟨site.val, plane.val, d.val, k.val⟩) = loLOCKED) ∧ (600 < (clampSigned 16 (100 * s.chip.scaled site.val i.toInt / (s.chip.slopeOf ⟨site.val, plane.val, d.val, k.val⟩ : Int))).natAbs) ∧ ((⟨site.val, plane.val, d.val, k.val⟩ : RingKey) ∈ s.chip.tns.beyond)) 8 0 0 3 2000 7 (stOf [(ringLoop rk, loLOCKED), (ringHeater rk, 100)] (fun c => (slope 100 c).onTns (fun x => { x with beyond := [rk] })))) ∧
  ((fun (site : Fin 24) (plane : Fin 42) (d : Fin 2) (k : Fin 40) (i p : BitVec 16) (s : State) => (s.chip.rd (ringLoop ⟨site.val, plane.val, d.val, k.val⟩) = loACQUIRE)) 8 0 0 3 20 7 (stOf [(ringLoop rk, loACQUIRE), (ringHeater rk, 100)] (slope 100))) ∧
  ((fun (site : Fin 24) (plane : Fin 42) (d : Fin 2) (k : Fin 40) (i p : BitVec 16) (s : State) => (s.chip.rd (ringLoop ⟨site.val, plane.val, d.val, k.val⟩) = loACQUIRE) ∧ ((clampSigned 16 (100 * s.chip.scaled site.val i.toInt / (s.chip.slopeOf ⟨site.val, plane.val, d.val, k.val⟩ : Int))).natAbs < 100) ∧ (getKey (⟨site.val, plane.val, d.val, k.val⟩ : RingKey) s.chip.tns.good = some 3)) 8 0 0 3 20 7 (stOf [(ringLoop rk, loACQUIRE), (ringHeater rk, 100)] (fun c => (slope 100 c).onTns (fun x => { x with good := [(rk, 3)] })))) ∧
  ((fun (site : Fin 24) (plane : Fin 42) (d : Fin 2) (k : Fin 40) (i p : BitVec 16) (s : State) => (s.chip.rd (ringLoop ⟨site.val, plane.val, d.val, k.val⟩) = loSEARCH)) 8 0 0 3 20 7 (stOf [(ringLoop rk, loSEARCH), (ringHeater rk, 100)] (slope 100))) ∧
  ((fun (site : Fin 24) (plane : Fin 42) (d : Fin 2) (k : Fin 40) (i p : BitVec 16) (s : State) => (s.chip.rd (ringLoop ⟨site.val, plane.val, d.val, k.val⟩) ∉ [loLOCKED, loACQUIRE, loSEARCH, loSWATCH])) 8 0 0 3 20 7 (stOf [(ringLoop rk, loHOLD), (ringHeater rk, 100)] (slope 100))) ∧
  ((fun (site : Fin 24) (plane : Fin 42) (d : Fin 2) (k : Fin 40) (s : State) => (s.chip.rd (ringLoop ⟨site.val, plane.val, d.val, k.val⟩) = loLOCKED)) 18 38 0 3 (stWith [(ringLoop rp, loLOCKED), (ringHeater rp, 100)])) ∧
  ((fun (site : Fin 24) (plane : Fin 42) (d : Fin 2) (k : Fin 40) (s : State) => (s.chip.rd (ringLoop ⟨site.val, plane.val, d.val, k.val⟩) = loSEARCH ∨ s.chip.rd (ringLoop ⟨site.val, plane.val, d.val, k.val⟩) = loACQUIRE)) 18 38 0 3 (stWith [(ringLoop rp, loSEARCH), (ringHeater rp, 100)])) ∧
  ((fun (x : RingKey) (code : Nat) (c : Chip) => (x.isPort = true) ∧ (c.portFenceHeld x.port x.k (x.d == 1) code = false)) rp 3 (stWith [(ringLoop rp, loLOCKED), (ringHeater rp, 100)]).chip) ∧
  ((fun (x : RingKey) (code : Nat) (l : Nat × Nat × Nat) (c : Chip) => (x.isPort = false) ∧ (4 < code ∨ c.on R.OPF_STATUS_DETECT_HOLD = false) ∧ (c.sideState x.side ≠ 3) ∧ (c.laneOfRing x = some l) ∧ (c.fenceHeld l.1 l.2.1 l.2.2 code = false) ∧ ((code == 0xA && c.laneDark l.1 l.2.1 l.2.2 && !c.ringDark x) = false)) rk 3 (8, 0, 3) (stWith [upA, (ringLoop rk, loLOCKED), (ringHeater rk, 100)]).chip) ∧
  ((fun (site : Fin 24) (plane : Fin 42) (d : Fin 2) (k : Fin 40) (s : State) => (s.chip.rd (ringLoop ⟨site.val, plane.val, d.val, k.val⟩) ∉ [loLOCKED, loACQUIRE, loSEARCH])) 18 38 0 3 (stWith [(ringLoop rp, loHOLD)])) ∧
  ((fun (x : RingKey) (q : Nat) (c : Chip) => (c.rd (ringLoop x) = loOFF ∨ c.rd (ringLoop x) = loFENCED)) rk 1 (stWith [(ringLoop rk, loFENCED), (ringHeater rk, 100)]).chip) ∧
  ((fun (x : RingKey) (q : Nat) (c : Chip) => (c.rd (ringLoop x) ≠ loOFF) ∧ (c.rd (ringLoop x) ≠ loFENCED) ∧ (c.scaleOf x.site = 0) ∧ ((q + x.k) % 2 = 0)) rk 1 (stWith [(ringLoop rk, loLOCKED), (ringHeater rk, 100)]).chip) := by
  iterate 12
    refine ⟨?_, ?_⟩
    · decide +kernel
  decide +kernel

theorem witness_CalibrationCommandsComplete :
  ((fun (req : Requester) (site : Fin 24) (v : BitVec 32) (s : State) => (writeAccepted s.chip req (R.TNS_SWATCH_REQ site.val)) ∧ (bitOf v.toNat 31 = true) ∧ (bitOf v.toNat 6 = false) ∧ (fget v.toNat 5 0 < groupsOf site.val) ∧ (s.chip.calibOf site.val (fget v.toNat 5 0) = none)) (.pcu 0) 8 0x80000002 (stWith [hold0])) ∧
  ((fun (site : Fin 24) (plane : Fin 42) (d : Fin 2) (k : Fin 40) (r : Nat) (s : State) => (s.chip.rd (ringLoop ⟨site.val, plane.val, d.val, k.val⟩) = loLOCKED) ∧ (64511 < s.chip.rd (ringHeater ⟨site.val, plane.val, d.val, k.val⟩)) ∧ (getKey (⟨site.val, plane.val, d.val, k.val⟩ : RingKey) s.chip.tns.outside = some r) ∧ (r + 64 ≤ s.chip.row) ∧ (s.chip.on (R.TNS_GROUP_TRIG_DARK site.val plane.val) = false)) 8 0 0 3 5 (stOf [(ringLoop rk, loLOCKED), (ringHeater rk, 65000)] (fun c => { c.onTns (fun x => { x with outside := [(rk, 5)] }) with row := 70 }))) ∧
  ((fun (site : Fin 24) (plane : Fin 42) (d : Fin 2) (k : Fin 40) (s : State) => (getKey (⟨site.val, plane.val, d.val, k.val⟩ : RingKey) (s.chip.watchBand ⟨site.val, plane.val, d.val, k.val⟩).tns.outside = none)) 8 0 0 3 (stWith [(ringLoop rk, loHOLD)])) ∧
  ((fun (site : Fin 24) (group : Fin 42) (s : State) => (s.chip.intervalPassed site.val group.val = true)) 8 0 (stOf [] (fun c => c.onTns (fun x => { x with heldTrig := [(8, 0, 1)] })))) ∧
  ((fun (l : Nat × Nat × Nat) (since : Nat) (s : State) => (s.chip.tokenHeld = true) ∧ (s.chip.on R.OPF_STATUS_DETECT_HOLD = false) ∧ (firstOf (s.chip.swatchQueue.filter (fun x => s.chip.mayBook x.2.1 x.2.2)) = some (l, since))) (8, 0, 3) 0 (stOf [hold0, upA, (ringLoop rk, loLOCKED), (⟨R.TNS_GROUP_TRIG 8 0, 3, 3⟩, 1)] (fun c => c.onTns (fun x => { x with calibs := [⟨8, 0, [rk], false, 0, false⟩] })))) ∧
  ((fun (s : State) => (s.chip.tokenHeld = true) ∧ (s.chip.on R.OPF_STATUS_DETECT_HOLD = false) ∧ (firstOf (s.chip.swatchQueue.filter (fun x => s.chip.mayBook x.2.1 x.2.2)) = none)) (stWith [hold0])) ∧
  ((fun (site : Fin 24) (plane : Fin 42) (k : Fin 40) (w : Swatch) (measured : List RingSweep) (s : State) => (s.chip.swatchOn site.val plane.val k.val = some w) ∧ (w.ended = none) ∧ (s.chip.tokenHeld = true) ∧ (w.returnRow ≤ s.chip.row + 1) ∧ ((∀ x ∈ (w.codes.map (·.1)).zipIdx, (s.chip.ringResult x.1 measured[x.2]?).isSome = true))) 8 0 3 sw1 [sweepA] (stOf [hold0, (⟨ringState rk + 4, 31, 0⟩, 0x10005078)] (fun c => { c.onTns (fun x => { x with swatches := [sw1], good := [(rk, 4)] }) with row := 200 }))) ∧
  ((fun (site : Fin 24) (plane : Fin 42) (k : Fin 40) (w : Swatch) (x : RingKey) (n : Nat) (r : RingSweep) (t0 : Nat × Nat × RingSweep) (s : State) => (s.chip.tns.swatches = [w]) ∧ (s.chip.swatchOn site.val plane.val k.val = some w) ∧ (w.ended = none) ∧ (w.codes = [(x, n)]) ∧ (s.chip.tokenHeld = true) ∧ (w.returnRow ≤ s.chip.row + 1) ∧ (s.chip.ringResult x (some r) = some t0) ∧ (s.chip.rd (ringLoop x) = loSWATCH)) 8 0 3 sw1 rk 5 sweepA (0, 30000, sweepA) (stOf [hold0, (ringLoop rk, loSWATCH), (⟨ringState rk + 4, 31, 0⟩, 0x10005078)] (fun c => { c.onTns (fun x => { x with swatches := [sw1], good := [(rk, 4)] }) with row := 200 }))) ∧
  ((fun (site : Fin 24) (plane : Fin 42) (k : Fin 40) (w : Swatch) (x : RingKey) (n : Nat) (measured : List RingSweep) (s : State) => (s.chip.tns.swatches = [w]) ∧ (s.chip.swatchOn site.val plane.val k.val = some w) ∧ (w.ended = none) ∧ (w.codes = [(x, n)]) ∧ (s.chip.tokenHeld = true) ∧ (w.returnRow ≤ s.chip.row + 1) ∧ (s.chip.ringResult x measured[0]? = none) ∧ (s.chip.rd (ringLoop x) = loSWATCH)) 8 0 3 sw1 rk 5 [] (stOf [hold0, (ringLoop rk, loSWATCH)] (fun c => { c.onTns (fun x => { x with swatches := [sw1] }) with row := 200 }))) ∧
  ((fun (site : Fin 24) (plane : Fin 42) (k : Fin 40) (w : Swatch) (s : State) => (s.chip.swatchOn site.val plane.val k.val = some w) ∧ (s.chip.tokenHeld = false) ∧ (s.chip.pcu.lostRow + 1024 ≤ s.chip.row)) 8 0 3 sw1 (stOf [(R.PCU_LEASE_STATUS_HOLDER, 3)] (fun c => { c.onTns (fun x => { x with swatches := [sw1] }) with row := 2000 }))) ∧
  ((fun (req : Requester) (site : Fin 24) (v : BitVec 32) (dev : BitVec 16) (failed : BitVec 4) (s : State) => (writeAccepted s.chip req (R.TNS_GAUGE_CTRL site.val)) ∧ (bitOf v.toNat 31 = true) ∧ (site.val ≠ 0) ∧ (dev.toInt.natAbs ≤ 500)) (.pcu 0) 8 0x80000000 20 0 (stWith [hold0])) ∧
  ((fun (devs : List (BitVec 16)) (failed : BitVec 4) (power : BitVec 16) (s : State) => ((∀ i : Fin 24, s.chip.rd (R.TNS_GAUGE_CTRL_PERIOD i.val) = 0))) [] 0 0 (stOf ((List.range 24).map (fun i => (R.TNS_GAUGE_CTRL_PERIOD i, 0))) id)) ∧
  ((fun (devs : List (BitVec 16)) (failed : BitVec 4) (power : BitVec 16) (s : State) => ((∃ i : Fin 24, s.chip.rd (R.TNS_GAUGE_CTRL_PERIOD i.val) ≠ 0 ∧ (getKey i.val s.chip.tns.gaugeAt).getD 0 + 3600 * s.chip.rd (R.TNS_GAUGE_CTRL_PERIOD i.val) ≤ s.chip.opSecs))) [20] 0 30 (stOf ((List.range 24).map (fun i => (R.TNS_GAUGE_CTRL_PERIOD i, if i = 0 then 5 else 0))) (fun c => c.wr R.EVR_OP_SECS_COUNT 20000))) := by
  iterate 12
    refine ⟨?_, ?_⟩
    · try unfold writeAccepted
      decide +kernel
  try unfold writeAccepted
  decide +kernel

theorem witness_FrameSendingCompletes :
  ((fun (ln : LinkLane) (slot : Fin 77) (s : State) => (isPort (linkKey ln) = true ∨ slot.val < 35) ∧ (s.chip.txState (linkKey ln) = lsTRAIN) ∧ (s.chip.runOn (linkKey ln) = none)) (.pkg lnA) 3 (stWith [(R.LANE_STATE_STATE 8 0 3, lsTRAIN)])) ∧
  ((fun (ln : LinkLane) (slot : Fin 77) (s : State) => (isPort (linkKey ln) = true ∨ slot.val < 35) ∧ (s.chip.txState (linkKey ln) ∈ [lsHOLD, lsPARKED, lsMONITOR, lsSTANDBY]) ∧ (s.chip.runOn (linkKey ln) = none)) (.pkg lnA) 3 (stWith [(R.LANE_STATE_STATE 8 0 3, lsHOLD)])) ∧
  ((fun (ln : LinkLane) (slot : Fin 77) (f : Frame) (s : State) => (isPort (linkKey ln) = true ∨ slot.val < 35) ∧ (s.chip.carriesData (linkKey ln) = true) ∧ (0 < (s.chip.linkTx (linkKey ln)).resend) ∧ ((s.chip.linkTx (linkKey ln)).replay[(s.chip.linkTx (linkKey ln)).replay.length - (s.chip.linkTx (linkKey ln)).resend]? = some f)) (.pkg lnA) 3 {} (stTx [upA] (8, 0, 3) { replay := [{}], resend := 1 })) ∧
  ((fun (ln : LinkLane) (slot : Fin 77) (s : State) => (isPort (linkKey ln) = true ∨ slot.val < 35) ∧ (s.chip.carriesData (linkKey ln) = true) ∧ ((s.chip.linkTx (linkKey ln)).resend = 0) ∧ (replayDepth (linkKey ln) ≤ (s.chip.linkTx (linkKey ln)).replay.length)) (.pkg lnA) 3 (stTx [upA] (8, 0, 3) { replay := List.replicate 16 {} })) ∧
  ((fun (ln : LinkLane) (slot : Fin 77) (s : State) => (isPort (linkKey ln) = true ∨ slot.val < 35) ∧ (s.chip.txState (linkKey ln) = lsUP) ∧ ((s.chip.linkTx (linkKey ln)).resend = 0) ∧ ((s.chip.linkTx (linkKey ln)).replay.length < replayDepth (linkKey ln))) (.pkg lnA) 3 (stWith [upA])) ∧
  ((fun (l : Lane) (slot : Fin 77) (sts : List Stitch) (c : Chip) (s : State) => (slot.val < 35) ∧ (s.chip.txState (linkKey (.pkg l)) = lsUP) ∧ ((s.chip.linkTx (linkKey (.pkg l))).resend = 0) ∧ ((s.chip.linkTx (linkKey (.pkg l))).replay.length < replayDepth (linkKey (.pkg l))) ∧ (s.chip.laneBooked l.site.val l.plane.val l.k.val = false) ∧ (Config.planeKind l.site.val l.plane.val = 1) ∧ (fixedTraffic l.site.val l.plane.val l.k.val = true) ∧ (s.chip.fillSlots l.site.val ((l.site.val + l.k.val) % 24) (s.chip.slotPlanes (linkKey (.pkg l)) slot.val).length ((s.chip.slotPlanes (linkKey (.pkg l)) slot.val).idxOf l.plane.val) = (sts, c)) ∧ (sts ≠ [])) lnB 3 sendF.1 sendF.2 sendSt) ∧
  ((fun (ln : LinkLane) (slot : Fin 77) (r : PatRun) (s : State) => (isPort (linkKey ln) = true ∨ slot.val < 35) ∧ (s.chip.txState (linkKey ln) = lsTEST) ∧ (s.chip.runOn (linkKey ln) = some r) ∧ (r.pattern = 5) ∧ ((s.chip.linkTx (linkKey ln)).resend = 0) ∧ ((s.chip.linkTx (linkKey ln)).replay.length < replayDepth (linkKey ln))) (.pkg lnA) 3 runF (stOf [(R.LANE_STATE_STATE 8 0 3, lsTEST)] (fun c => c.onLanes (fun y => { y with runs := [runF] })))) ∧
  ((fun (ln : LinkLane) (slot : Fin 77) (s : State) => (s.chip.txState (linkKey ln) ∈ [lsOFF, lsFENCED, lsCAL]) ∧ (s.chip.runOn (linkKey ln) = none)) (.pkg lnA) 3 (stWith [])) := by
  iterate 7
    refine ⟨?_, ?_⟩
    · decide +kernel
  decide +kernel

theorem witness_FrameReceivingCompletes :
  ((fun (ln : LinkLane) (f : Frame) (pos : Fin 77) (off : Nat) (s : State) => (s.chip.rxState (linkKey ln) ∉ [lsOFF, lsFENCED, lsCAL]) ∧ (s.chip.rxErrReg (linkKey ln) = some off) ∧ (isPort (linkKey ln) = true ∨ s.chip.unscrambled (linkKey ln) pos.val f = f) ∧ (Frame.crcOk f = false) ∧ ((s.chip.linkRx (linkKey ln)).nakSent = false)) (.pkg lnA) { crc := 1 } 3 (R.LANE_RX_ERR 11 0 3) (stWith [upA])) ∧
  ((fun (l : Lane) (f : Frame) (pos : Fin 77) (x : Side) (off : Nat) (s : State) => (s.chip.rxState (linkKey (.pkg l)) = lsUP) ∧ (s.chip.rxErrReg (linkKey (.pkg l)) = some off) ∧ (s.chip.unscrambled (linkKey (.pkg l)) pos.val f = f) ∧ (Frame.crcOk f = true) ∧ (f.slot = pos.val) ∧ (f.rowTag = s.chip.row % 256) ∧ (f.ftype = ftSTITCH) ∧ (f.seq = (s.chip.linkRx (linkKey (.pkg l))).expect) ∧ (Frame.nak f = false) ∧ ((∀ q, ackedLink (linkKey (.pkg l)) = some q → (s.chip.linkTx q).replay = [])) ∧ (s.chip.rxSide l.site.val l.plane.val l.k.val = some x) ∧ (x.site < 18)) lnB frmS 4 ⟨10, 20, true⟩ (R.LANE_RX_ERR 10 20 10) (stWith [upB])) ∧
  ((fun (ln : LinkLane) (f : Frame) (pos : Fin 77) (off : Nat) (s : State) => (s.chip.rxState (linkKey ln) ∉ [lsOFF, lsFENCED, lsCAL]) ∧ (s.chip.rxErrReg (linkKey ln) = some off) ∧ (isPort (linkKey ln) = true ∨ s.chip.unscrambled (linkKey ln) pos.val f = f) ∧ (Frame.crcOk f = true) ∧ (f.ftype = ftRUN) ∧ (f.runCheck = Frame.runCheckOf f) ∧ (f.slot = pos.val) ∧ (f.rowTag = s.chip.streamRow (linkKey ln) % 256) ∧ (s.chip.rxState (linkKey ln) = lsUP) ∧ ((∀ q, ackedLink (linkKey ln) = some q → (s.chip.linkTx q).replay = [])) ∧ (Frame.nak f = false) ∧ (f.seq = (s.chip.linkRx (linkKey ln)).expect)) (.pkg lnC) frmR 4 (R.LANE_RX_ERR 0 32 2) (stWith [(R.LANE_STATE_STATE 0 32 2, lsUP)])) ∧
  ((fun (l : Lane) (f : Frame) (pos : Fin 77) (off : Nat) (s : State) => (s.chip.rxState (linkKey (.pkg l)) = lsTRAIN) ∧ (s.chip.rxErrReg (linkKey (.pkg l)) = some off) ∧ (s.chip.unscrambled (linkKey (.pkg l)) pos.val f = f) ∧ (Frame.crcOk f = true) ∧ (f.slot = pos.val) ∧ (f.rowTag = s.chip.row % 256) ∧ (f.ftype = ftTRAIN) ∧ (f.payload.take 4 = s.chip.trainPayload (linkKey (.pkg l))) ∧ (s.chip.runOn (linkKey (.pkg l)) = none) ∧ ((∀ q, ackedLink (linkKey (.pkg l)) = some q → (s.chip.linkTx q).replay = [])) ∧ (Frame.nak f = false)) lnB frmT 4 (R.LANE_RX_ERR 10 20 10) (stWith [(R.LANE_STATE_STATE 0 20 10, lsTRAIN)])) ∧
  ((fun (l : Lane) (f : Frame) (pos : Fin 77) (off : Nat) (s : State) => (s.chip.rxState (linkKey (.pkg l)) = lsUP) ∧ (s.chip.rxErrReg (linkKey (.pkg l)) = some off) ∧ (s.chip.unscrambled (linkKey (.pkg l)) pos.val f = f) ∧ (Frame.crcOk f = true) ∧ (f.slot = pos.val) ∧ (f.rowTag = s.chip.row % 256) ∧ (f.ftype = ftSTITCH) ∧ (f.seq ≠ (s.chip.linkRx (linkKey (.pkg l))).expect) ∧ (subMod 16 (s.chip.linkRx (linkKey (.pkg l))).expect f.seq ≤ 32768) ∧ (Frame.nak f = false) ∧ ((∀ q, ackedLink (linkKey (.pkg l)) = some q → (s.chip.linkTx q).replay = []))) lnB { frmS with seq := 0 } 4 (R.LANE_RX_ERR 10 20 10) (stRx [upB] (0, 20, 10) { expect := 1 })) ∧
  ((fun (ln : LinkLane) (f : Frame) (m : Marker) (arrived : BitVec 64) (pos : Fin 77) (words : List (List (BitVec 10))) (s : State) => (s.chip.rxState (linkKey ln) ∈ [lsOFF, lsFENCED, lsCAL])) (.pkg lnA) {} mrk 0 0 [] (stWith [])) ∧
  ((fun (l : Lane) (m : Marker) (arrived : BitVec 64) (x : Side) (off : Nat) (s : State) => (s.chip.rxState (linkKey (.pkg l)) ∉ [lsOFF, lsFENCED, lsCAL]) ∧ (s.chip.rxErrReg (linkKey (.pkg l)) = some off) ∧ (s.chip.rxSide l.site.val l.plane.val l.k.val = some x) ∧ (s.chip.injectionOn (linkKey (.pkg l)) = none) ∧ (s.chip.markerUnscrambled (linkKey (.pkg l)) = true) ∧ (m.syncFound = true) ∧ (Marker.crcOk m = true) ∧ (m.row = s.chip.row) ∧ (((arrived.toNat : Int) - (m.timestamp : Int)).natAbs ≤ 16)) lnB mrkC 0 ⟨10, 20, true⟩ (R.LANE_RX_ERR 10 20 10) (stWith [upB])) ∧
  ((fun (l : Lane) (m : Marker) (arrived : BitVec 64) (off : Nat) (s : State) => (s.chip.rxState (linkKey (.pkg l)) ∉ [lsOFF, lsFENCED, lsCAL]) ∧ (s.chip.rxErrReg (linkKey (.pkg l)) = some off) ∧ (s.chip.injectionOn (linkKey (.pkg l)) = none) ∧ (m.syncFound = false) ∧ ((s.chip.linkRx (linkKey (.pkg l))).badMarkers = 0)) lnA mrk 0 (R.LANE_RX_ERR 11 0 3) (stWith [upA])) ∧
  ((fun (l : Lane) (m : Marker) (arrived : BitVec 64) (off : Nat) (s : State) => (s.chip.rxState (linkKey (.pkg l)) ∉ [lsOFF, lsFENCED, lsCAL]) ∧ (s.chip.rxErrReg (linkKey (.pkg l)) = some off) ∧ (s.chip.injectionOn (linkKey (.pkg l)) = none) ∧ (m.syncFound = false) ∧ (1 ≤ (s.chip.linkRx (linkKey (.pkg l))).badMarkers)) lnA mrk 0 (R.LANE_RX_ERR 11 0 3) (stRx [upA] (8, 0, 3) { badMarkers := 1 })) ∧
  ((fun (j : Fin 16) (l : Fin 40) (m : Marker) (arrived : BitVec 64) (s : State) => (s.chip.rxState (linkKey (.port j l)) ∉ [lsOFF, lsFENCED, lsCAL]) ∧ (s.chip.injectionOn (linkKey (.port j l)) = none) ∧ (m.symbols = []) ∧ (m.syncFound = true) ∧ (m.crc = crc32 (Marker.portBody m)) ∧ (getKey (j.val, l.val) s.chip.edge.fec = none) ∧ (getKey (j.val, l.val) s.chip.edge.inRow = none ∨ getKey (j.val, l.val) s.chip.edge.inRow = some m.row) ∧ ((s.chip.markerLate (linkKey (.port j l)) m arrived.toNat).natAbs ≤ 16)) 4 5 mrkQ 16384 (stWith [prt 4 2, (R.EDGE_LANE_STATE_RX_STATE 4 5, lsUP)])) := by
  iterate 9
    refine ⟨?_, ?_⟩
    · decide +kernel
  decide +kernel

theorem witness_LinkTimeoutsTrainingAndTestsComplete :
  ((fun (ln : LinkLane) (s : State) => ((s.chip.linkRx (linkKey ln)).nakSent = true) ∧ (s.chip.linkTimeout (linkKey ln) ≤ (s.chip.linkRx (linkKey ln)).nakSlots)) (.pkg lnA) (stRx [] (8, 0, 3) { nakSent := true, nakSlots := 2000 })) ∧
  ((fun (l : Lane) (s : State) => ((s.chip.linkTx (linkKey (.pkg l))).replay ≠ []) ∧ (s.chip.linkTimeout (linkKey (.pkg l)) ≤ (s.chip.linkTx (linkKey (.pkg l))).waited) ∧ (s.chip.carriesData (linkKey (.pkg l)) = true) ∧ (s.chip.timeoutExcepted (linkKey (.pkg l)) = true)) lnA (stTx [upA] (8, 0, 3) { replay := [{}], waited := 3000, ackLate := true })) ∧
  ((fun (ln : LinkLane) (s : State) => ((s.chip.linkTx (linkKey ln)).replay ≠ []) ∧ (s.chip.linkTimeout (linkKey ln) ≤ (s.chip.linkTx (linkKey ln)).waited) ∧ (s.chip.carriesData (linkKey ln) = true) ∧ (s.chip.waitsForSpare (linkKey ln) = false)) (.pkg lnA) (stTx [upA] (8, 0, 3) { replay := [{}], waited := 3000 })) ∧
  ((fun (l : Lane) (s : State) => (s.chip.messageAcked (linkKey (.pkg l)) = true) ∧ ((s.chip.linkRx (linkKey (.pkg l))).nakDue = true ∨ 8 ≤ (s.chip.linkRx (linkKey (.pkg l))).ackSlots)) ⟨0, 0, 3⟩ (stRx [] (0, 0, 3) { netAck := true, ackSlots := 8 })) ∧
  ((fun (l : Lane) (s : State) => (s.chip.messageAcked (linkKey (.pkg l)) = true) ∧ ((s.chip.linkRx (linkKey (.pkg l))).nakDue = false) ∧ (8 ≤ (s.chip.linkRx (linkKey (.pkg l))).ackSlots) ∧ ((s.chip.linkTx (linkKey (.pkg l))).suppressRow = none) ∧ ((∀ f ∈ (s.chip.linkTx (linkKey (.pkg l))).replay, subMod 16 (s.chip.ackSeq (linkKey (.pkg l))) f.seq < 32768))) ⟨0, 0, 3⟩ { stTx [] (0, 0, 3) { replay := [{ seq := 65535 }] } with chip := (stTx [] (0, 0, 3) { replay := [{ seq := 65535 }] }).chip.setRx (0, 0, 3) { netAck := true, ackSlots := 8 } }) ∧
  ((fun (l : Lane) (q : Nat × Nat × Nat) (s : State) => (s.chip.cyc = 0) ∧ (s.chip.laneDark l.site.val l.plane.val l.k.val = false) ∧ (s.chip.laneState l.site.val l.plane.val l.k.val = lsTRAIN) ∧ (s.chip.trained (l.site.val, l.plane.val, l.k.val) = true) ∧ (partner l.site.val l.plane.val l.k.val = some q) ∧ (q.1 ≠ l.site.val) ∧ (s.chip.laneState q.1 q.2.1 q.2.2 = lsTRAIN) ∧ (s.chip.trained q = true) ∧ (Config.planeKind l.site.val l.plane.val = 1) ∧ (fixedTraffic l.site.val l.plane.val l.k.val = true)) lnB (10, 20, 14) (stOf [(R.LANE_STATE_STATE 0 20 10, lsTRAIN), (R.LANE_STATE_STATE 10 20 14, lsTRAIN)] (fun c => (c.setRx (0, 20, 10) { goodMarkers := 2, goodTrain := 64 }).setRx (10, 20, 14) { goodMarkers := 2, goodTrain := 64 }))) ∧
  ((fun (l : Lane) (q : Nat × Nat × Nat) (s : State) => (s.chip.cyc = 0) ∧ (s.chip.laneDark l.site.val l.plane.val l.k.val = false) ∧ (s.chip.laneState l.site.val l.plane.val l.k.val = lsTRAIN) ∧ (s.chip.trained (linkKey (.pkg l)) = true) ∧ (partner l.site.val l.plane.val l.k.val = some q) ∧ (q ≠ linkKey (.pkg l)) ∧ (s.chip.laneState q.1 q.2.1 q.2.2 = lsTRAIN) ∧ (s.chip.trained q = true)) lnB (10, 20, 14) (stOf [(R.LANE_STATE_STATE 0 20 10, lsTRAIN), (R.LANE_STATE_STATE 10 20 14, lsTRAIN)] (fun c => (c.setRx (0, 20, 10) { goodMarkers := 2, goodTrain := 64 }).setRx (10, 20, 14) { goodMarkers := 2, goodTrain := 64 }))) ∧
  ((fun (l : Lane) (s : State) => (s.chip.cyc = 0) ∧ (s.chip.laneDark l.site.val l.plane.val l.k.val = false) ∧ (s.chip.laneState l.site.val l.plane.val l.k.val = lsTRAIN) ∧ (s.chip.trained (linkKey (.pkg l)) = true) ∧ ((∀ q, partner l.site.val l.plane.val l.k.val = some q → q = linkKey (.pkg l) ∨ s.chip.laneState q.1 q.2.1 q.2.2 = lsFENCED))) lnB (stOf [(R.LANE_STATE_STATE 0 20 10, lsTRAIN), (R.LANE_STATE_STATE 10 20 14, lsFENCED)] (fun c => c.setRx (0, 20, 10) { goodMarkers := 2, goodTrain := 64 }))) ∧
  ((fun (l : Lane) (r : Nat) (s : State) => (getKey (l.site.val, l.plane.val, l.k.val) s.chip.lanes.trainRow = some r) ∧ (s.chip.laneState l.site.val l.plane.val l.k.val = lsTRAIN) ∧ (r + 64 ≤ s.chip.row)) lnA 0 (stOf [(R.LANE_STATE_STATE 8 0 3, lsTRAIN)] (fun c => { c.onLanes (fun y => { y with trainRow := [((8, 0, 3), 0)] }) with row := 64 }))) ∧
  ((fun (l : Lane) (r : Nat) (s : State) => (getKey (l.site.val, l.plane.val, l.k.val) s.chip.lanes.trainRow = some r) ∧ (s.chip.row < r + 64)) lnA 0 (stOf [] (fun c => c.onLanes (fun y => { y with trainRow := [((8, 0, 3), 0)] })))) ∧
  ((fun (req : Requester) (site : Fin 24) (v : BitVec 32) (s : State) => (writeAccepted s.chip req (R.LANE_PAT_CTRL site.val)) ∧ (v.toNat / 2 ^ 30 = 2) ∧ (s.chip.rd (R.LANE_PAT_SEL_PATTERN site.val) ≤ 5) ∧ (monitorLane site.val (s.chip.rd (R.LANE_PAT_SEL_PLANE site.val)) (s.chip.rd (R.LANE_PAT_SEL_K site.val)) = false) ∧ (s.chip.rd (R.LANE_PAT_SEL_K site.val) < 24) ∧ (Config.planeKind site.val (s.chip.rd (R.LANE_PAT_SEL_PLANE site.val)) ≠ 0) ∧ (selfTest site.val (s.chip.rd (R.LANE_PAT_SEL_PLANE site.val)) (s.chip.rd (R.LANE_PAT_SEL_K site.val)) = false) ∧ (s.chip.laneState site.val (s.chip.rd (R.LANE_PAT_SEL_PLANE site.val)) (s.chip.rd (R.LANE_PAT_SEL_K site.val)) = lsUP)) (.pcu 0) 8 0x80000005 (stWith [upA, (R.LANE_PAT_SEL_K 8, 3)])) ∧
  ((fun (req : Requester) (site : Fin 24) (v : BitVec 32) (s : State) => (writeAccepted s.chip req (R.LANE_PAT_CTRL site.val)) ∧ (v.toNat / 2 ^ 30 = 1)) (.pcu 0) 8 0x40000000 (stOf [] (fun c => c.onLanes (fun y => { y with runs := [runF] })))) ∧
  ((fun (req : Requester) (site : Fin 24) (v : BitVec 32) (s : State) => (writeAccepted s.chip req (R.LANE_INJ site.val)) ∧ (bitOf v.toNat 31 = true) ∧ (s.chip.lanes.inj = []) ∧ (1 ≤ fget v.toNat 29 27) ∧ (fget v.toNat 29 27 ≤ 3) ∧ (fget v.toNat 4 0 < 24) ∧ (s.chip.laneState site.val (fget v.toNat 13 8) (fget v.toNat 4 0) = lsUP)) (.pcu 0) 8 0x88000003 (stWith [upA])) ∧
  ((fun (req : Requester) (site : Fin 24) (v : BitVec 32) (s : State) => (writeAccepted s.chip req (R.LANE_INJ site.val)) ∧ (bitOf v.toNat 31 = true) ∧ (s.chip.lanes.inj = []) ∧ (fget v.toNat 29 27 = 0)) (.pcu 0) 8 0x80000003 (stWith [upA])) := by
  iterate 13
    refine ⟨?_, ?_⟩
    · try unfold writeAccepted
      decide +kernel
  try unfold writeAccepted
  decide +kernel

theorem witness_SourceAdapterCommandsComplete :
  ((fun (site : Fin 24) (ctx : IssueCtx) (top : Fin 64) (req : Stitch) (tn : Nat) (s : State) => (s.chip.ctxTenant site.val ctx = some tn)) 0 (.core 0) 0 reqS 1 (stWith coreA)) ∧
  ((fun (site : Fin 24) (ctx : IssueCtx) (top : Fin 64) (req st : Stitch) (tn : Nat) (s : State) => (s.chip.ctxTenant site.val ctx = some tn) ∧ (s.chip.rd (R.PART_STATE_STATE tn) ≠ 3) ∧ (req.opcode ≠ opRUN_OPEN) ∧ (s.chip.aim top.val { withOwner ctx req with tag := 0, tenant := tn } = (stOK, st)) ∧ (opSequenced st.opcode = true) ∧ (st.opcode ≠ opSEND) ∧ (s.chip.entryCheck site.val st = stOK) ∧ (s.chip.entryStalls site.val st = false) ∧ (st.dstSite < 24)) 1 (.core 0) 0 stE { stE with tag := 0, tenant := 1 } 1 (stWith coreA)) ∧
  ((fun (site : Fin 24) (ctx : IssueCtx) (req : Stitch) (tn : Nat) (s : State) => (s.chip.ctxTenant site.val ctx = some tn) ∧ (s.chip.rd (R.PART_STATE_STATE tn) ≠ 3) ∧ (req.opcode = opSEND) ∧ (sendIndex req = 0) ∧ (s.chip.entryCheck site.val { req with tag := 0, tenant := tn } = stOK) ∧ (s.chip.entryStalls site.val { req with tag := 0, tenant := tn } = false) ∧ (s.chip.xport.stalled = []) ∧ (req.dstNode = s.chip.node) ∧ (req.dstSite < 24)) 0 (.core 0) reqS 1 (stWith coreA)) ∧
  ((fun (site : Fin 24) (ctx : IssueCtx) (top : Fin 64) (req st : Stitch) (tn : Nat) (s : State) => (s.chip.ctxTenant site.val ctx = some tn) ∧ (s.chip.rd (R.PART_STATE_STATE tn) ≠ 3) ∧ (req.opcode ≠ opRUN_OPEN) ∧ (s.chip.aim top.val { withOwner ctx req with tag := 0, tenant := tn } = (stOK, st)) ∧ (st.opcode ≠ opSEND) ∧ (st.tenant = tn) ∧ (s.chip.entryCheck site.val st = stTENANT) ∧ (countsAtSource st.opcode st.cnt = false)) 1 (.core 0) 0 stE { stE with tag := 0, tenant := 1 } 1 (stWith (core1 ++ [(R.ROUTE_NODE_NODE, 5)]))) ∧
  ((fun (site : Fin 32) (a : AckPend) (s : State) => (s.chip.xport.acks = [a]) ∧ (s.chip.xport.nacks = []) ∧ (a.site = site.val) ∧ (s.chip.ackDelay site.val ≤ s.chip.cycles - a.since) ∧ (site.val ≠ 31) ∧ (a.srcSite ≠ 31) ∧ (a.node ≠ s.chip.node ∨ s.chip.skeinLost site.val a.srcSite = false)) 3 ⟨3, 5, 2, 1, 5, 0, [0], 0⟩ (stOf ownA (fun c => { c.onXport (fun y => { y with acks := [⟨3, 5, 2, 1, 5, 0, [0], 0⟩] }) with row := 5 }))) ∧
  ((fun (site : Fin 24) (node : Fin 4096) (tenant : Fin 16) (seq : BitVec 16) (e : OutEntry) (s : State) => (s.chip.outstanding site.val node.val tenant.val seq.toNat = some e) ∧ (e.site = site.val) ∧ (s.chip.xport.out = [e]) ∧ (e.row + s.chip.e2eRows site.val ≤ s.chip.row) ∧ (e.st.opcode = opSTORE) ∧ (s.chip.red.relays = []) ∧ (s.chip.xport.stalled = []) ∧ (s.chip.xport.arrived = [])) 3 5 1 0 outS (stOf ownA (fun c => { c.onXport (fun y => { y with out := [outS] }) with row := 5000 }))) ∧
  ((fun (site : Fin 32) (node : Fin 4096) (tenant : Fin 16) (seq : BitVec 16) (e : OutEntry) (s : State) => (s.chip.outstanding site.val node.val tenant.val seq.toNat = some e) ∧ (e.row + s.chip.e2eRows site.val ≤ s.chip.row) ∧ ((∀ a ∈ s.chip.xport.arrived, answersSeq a.st seq.toNat = false))) 3 5 1 0 outS (stOf ownA (fun c => { c.onXport (fun y => { y with out := [outS] }) with row := 5000 }))) ∧
  ((fun (src dst : Fin 24) (pool : Fin 2) (s : State) => (s.chip.creditsDue src.val dst.val pool.val = true)) 3 5 1 (stOf [] (fun c => c.onXport (fun y => { y with freed := [((3, 5, 1), 70)], credits := [((3, 5, 1), 90)] })))) ∧
  ((fun (site : Fin 24) (node : Fin 4096) (tenant : Fin 16) (seq : BitVec 16) (e : OutEntry) (b : List Nat) (s : State) => (s.chip.outstanding site.val node.val tenant.val seq.toNat = some e) ∧ (s.chip.xport.out = [e]) ∧ (e.result = some b) ∧ (leField b 2 2 ≤ e.landed) ∧ (s.chip.xport.stalled = []) ∧ (e.st.opcode = opSTREAM_READ) ∧ (s.chip.red.relays = [])) 3 5 1 0 outR [7] (stOf [] (fun c => c.onXport (fun y => { y with out := [outR] })))) ∧
  ((fun (site : Fin 24) (node : Fin 4096) (tenant : Fin 16) (seq : BitVec 16) (e : OutEntry) (b : List Nat) (s : State) => (s.chip.outstanding site.val node.val tenant.val seq.toNat = some e) ∧ (e.result = some b) ∧ (leField b 2 2 ≤ e.landed) ∧ (b.getD 36 0 ≠ stSHORT)) 3 5 1 0 outR [7] (stOf [] (fun c => c.onXport (fun y => { y with out := [outR] })))) := by
  iterate 9
    refine ⟨?_, ?_⟩
    · decide +kernel
  decide +kernel

theorem witness_DestinationAdapterCommandsComplete :
  ((fun (site : Fin 32) (plane k : Fin 64) (st : Stitch) (a : Nat) (s : State) => ((⟨site.val, plane.val, k.val, st⟩ : Arrived) ∈ s.chip.xport.arrived) ∧ (Stitch.checkOk st = true) ∧ (st.opcode = opSTORE) ∧ (st.opf = 0) ∧ (s.chip.rd (R.PART_STATE_STATE st.tenant) ≠ 3) ∧ (s.chip.arrivalCheck site.val site.val st = stOK) ∧ (rangeOf st.ppa = .sram) ∧ (rangeOf a = .sram) ∧ (s.chip.resolve st.tenant st.ppa = some a) ∧ (s.chip.placeGood a = true) ∧ (s.chip.obstacle [a] true none = none)) 0 3 7 (Stitch.sealed stB) 0x10000000000 (stIn ownA 0 3 7 (Stitch.sealed stB))) ∧
  ((fun (site : Fin 32) (plane k : Fin 64) (st : Stitch) (a : Nat) (s : State) => ((⟨site.val, plane.val, k.val, st⟩ : Arrived) ∈ s.chip.xport.arrived) ∧ (Stitch.checkOk st = true) ∧ (st.opcode = opSTORE) ∧ (st.opf % 1024 = 1) ∧ (s.chip.rd (R.PART_STATE_STATE st.tenant) ≠ 3) ∧ (s.chip.arrivalCheck site.val site.val st = stOK) ∧ (rangeOf st.ppa = .hbm) ∧ (rangeOf a = .hbm) ∧ (s.chip.resolve st.tenant st.ppa = some a) ∧ (s.chip.placeGood a = true) ∧ (s.chip.obstacle [a] true (some (st.srcSite - 8)) = none)) 10 3 7 (Stitch.sealed { stB with ppa := 0, opf := 1, srcSite := 8, start := 0, countM1 := 63 }) 0 (stHbm 10 3 7 (Stitch.sealed { stB with ppa := 0, opf := 1, srcSite := 8, start := 0, countM1 := 63 }))) ∧
  ((fun (site : Fin 32) (plane k : Fin 64) (st : Stitch) (a : Nat) (s : State) => ((⟨site.val, plane.val, k.val, st⟩ : Arrived) ∈ s.chip.xport.arrived) ∧ (Stitch.checkOk st = true) ∧ (st.opcode = opLOAD) ∧ (st.opf = 0) ∧ (s.chip.rd (R.PART_STATE_STATE st.tenant) ≠ 3) ∧ (s.chip.arrivalCheck site.val site.val st = stOK) ∧ (rangeOf st.ppa = .sram) ∧ (rangeOf a = .sram) ∧ (s.chip.resolve st.tenant st.ppa = some a) ∧ (s.chip.placeGood a = true) ∧ (s.chip.obstacle [a] false none = none) ∧ (st.srcNode = s.chip.node) ∧ (site.val ≠ 31) ∧ (st.srcSite ≠ 31) ∧ (s.chip.skeinLost site.val st.srcSite = false)) 0 3 7 (Stitch.sealed { stB with opcode := opLOAD, data := [] }) 0x10000000000 (stIn ownA 0 3 7 (Stitch.sealed { stB with opcode := opLOAD, data := [] }))) ∧
  ((fun (site : Fin 32) (plane k : Fin 64) (st : Stitch) (a : Nat) (s : State) => ((⟨site.val, plane.val, k.val, st⟩ : Arrived) ∈ s.chip.xport.arrived) ∧ (Stitch.checkOk st = true) ∧ (st.opcode = opLOAD) ∧ (st.opf % 1024 = 1) ∧ (s.chip.rd (R.PART_STATE_STATE st.tenant) ≠ 3) ∧ (s.chip.arrivalCheck site.val site.val st = stOK) ∧ (rangeOf st.ppa = .hbm) ∧ (rangeOf a = .hbm) ∧ (s.chip.resolve st.tenant st.ppa = some a) ∧ (s.chip.placeGood a = true) ∧ (s.chip.obstacle [a] true (some (st.srcSite - 8)) = none) ∧ (s.chip.snoopAt a = none) ∧ (s.chip.mems.snoop = []) ∧ (s.chip.skeinLost site.val st.srcSite = false)) 10 3 7 (Stitch.sealed { stB with opcode := opLOAD, data := [], ppa := 0, opf := 1, srcSite := 8, start := 0, countM1 := 63 }) 0 (stHbm 10 3 7 (Stitch.sealed { stB with opcode := opLOAD, data := [], ppa := 0, opf := 1, srcSite := 8, start := 0, countM1 := 63 }))) ∧
  ((fun (site : Fin 32) (plane k : Fin 64) (st : Stitch) (a : Nat) (s : State) => ((⟨site.val, plane.val, k.val, st⟩ : Arrived) ∈ s.chip.xport.arrived) ∧ (Stitch.checkOk st = true) ∧ (st.opcode = opLOAD) ∧ (st.opf % 1024 = 2) ∧ (s.chip.rd (R.PART_STATE_STATE st.tenant) ≠ 3) ∧ (s.chip.arrivalCheck site.val site.val st = stOK) ∧ (rangeOf st.ppa = .hbm) ∧ (rangeOf a = .hbm) ∧ (s.chip.resolve st.tenant st.ppa = some a) ∧ (s.chip.placeGood a = true) ∧ (s.chip.obstacle [a] true (some (st.srcSite - 8)) = none) ∧ (s.chip.snoopAt a = none) ∧ (s.chip.mems.snoop = [])) 10 3 7 (Stitch.sealed { stB with opcode := opLOAD, data := [], ppa := 0, opf := 2, srcSite := 8, start := 0, countM1 := 63 }) 0 (stHbm 10 3 7 (Stitch.sealed { stB with opcode := opLOAD, data := [], ppa := 0, opf := 2, srcSite := 8, start := 0, countM1 := 63 }))) ∧
  ((fun (site : Fin 32) (plane k : Fin 64) (ecc : Fin 3) (st : Stitch) (s : State) => ((⟨site.val, plane.val, k.val, st⟩ : Arrived) ∈ s.chip.xport.arrived) ∧ (Stitch.checkOk st = false) ∧ (opResponse st.opcode = false) ∧ (st.opcode ≠ opRUN_OPEN)) 0 3 7 0 { stB with check := 1 } (stIn ownA 0 3 7 { stB with check := 1 })) ∧
  ((fun (site : Fin 32) (plane k : Fin 64) (ecc : Fin 3) (st : Stitch) (s : State) => ((⟨site.val, plane.val, k.val, st⟩ : Arrived) ∉ s.chip.xport.arrived)) 0 3 7 0 stB (stWith [])) ∧
  ((fun (site : Fin 32) (plane k : Fin 64) (st : Stitch) (e : OutEntry) (s : State) => (s.chip.xport.arrived = [⟨site.val, plane.val, k.val, st⟩]) ∧ (Stitch.checkOk st = true) ∧ (s.chip.wellMade site.val st = true) ∧ (st.opcode = opACK) ∧ (st.data = [1]) ∧ (s.chip.xport.out = [e]) ∧ (s.chip.outstanding site.val st.srcNode st.tenant (st.seq % 65536) = some e) ∧ (e.st.opcode = opSTORE) ∧ (e.st.cnt = 0) ∧ (s.chip.xport.stalled = []) ∧ (s.chip.red.relays = []) ∧ (s.chip.rd (R.PART_STATE_STATE st.tenant) ≠ 3)) 3 0 9 (Stitch.sealed { dstNode := 5, dstSite := 3, srcNode := 5, srcSite := 2, tenant := 1, cls := 1, opcode := opACK, countM1 := 63, data := [1] }) outS (stOf ownA (fun c => c.onXport (fun y => { y with out := [outS], arrived := [⟨3, 0, 9, Stitch.sealed { dstNode := 5, dstSite := 3, srcNode := 5, srcSite := 2, tenant := 1, cls := 1, opcode := opACK, countM1 := 63, data := [1] }⟩] })))) ∧
  ((fun (site : Fin 32) (plane k : Fin 64) (ecc : Fin 3) (st : Stitch) (s : State) => ((⟨site.val, plane.val, k.val, st⟩ : Arrived) ∈ s.chip.xport.arrived) ∧ (opResponse st.opcode = false) ∧ (s.stallsOpening site.val plane.val st = false)) 0 3 7 0 { stB with check := 1 } (stIn ownA 0 3 7 { stB with check := 1 })) ∧
  ((fun (site : Fin 32) (plane k : Fin 64) (st : Stitch) (s : State) => ((⟨site.val, plane.val, k.val, st⟩ : Arrived) ∈ s.chip.xport.arrived) ∧ (opResponse st.opcode = true)) 3 0 9 { opcode := opACK } (stIn ownA 3 0 9 { opcode := opACK })) ∧
  ((fun (site : Fin 32) (plane k : Fin 64) (ecc : Fin 3) (st : Stitch) (s : State) => ((⟨site.val, plane.val, k.val, st⟩ : Arrived) ∈ s.chip.xport.arrived) ∧ (st.opcode = opLOAD)) 10 3 7 0 { opcode := opLOAD, opf := 1 } (stIn ownA 10 3 7 { opcode := opLOAD, opf := 1 })) ∧
  ((fun (site : Fin 32) (plane k : Fin 64) (st : Stitch) (s : State) => ((⟨site.val, plane.val, k.val, st⟩ : Arrived) ∈ s.chip.xport.arrived) ∧ (st.opcode = opSTORE) ∧ (st.opf % 1024 = 1)) 10 3 7 { opcode := opSTORE, opf := 1 } (stIn ownA 10 3 7 { opcode := opSTORE, opf := 1 })) := by
  iterate 11
    refine ⟨?_, ?_⟩
    · decide +kernel
  decide +kernel

theorem witness_QueueAndShareWritesComplete :
  ((fun (req : Requester) (site : Fin 24) (q : Fin 64) (v : BitVec 32) (s : State) => (writeAccepted s.chip req (R.SITE_RQ_CFG site.val q.val)) ∧ (hasQueues site.val = true) ∧ (s.chip.on (R.SITE_RQ_CFG_EN site.val q.val) = true) ∧ (bitOf v.toNat 31 = false) ∧ (fget v.toNat 29 26 = s.chip.rd (R.SITE_RQ_CFG_TENANT site.val q.val)) ∧ (fget v.toNat 22 15 = s.chip.rd (R.SITE_RQ_CFG_SLOT_STITCHES site.val q.val)) ∧ (fget v.toNat 14 11 = s.chip.rd (R.SITE_RQ_CFG_DEPTH_LOG2 site.val q.val))) (.pcu 0) 0 3 0 (stOf [(R.SITE_RQ_CFG_EN 0 3, 1)] (fun c => c.onXport (fun y => { y with slots := [rqs, { rqs with queue := 3 }] })))) ∧
  ((fun (req : Requester) (site : Fin 24) (q : Fin 64) (v : BitVec 32) (s : State) => (writeAccepted s.chip req (R.SITE_RQ_CFG site.val q.val)) ∧ (hasQueues site.val = true) ∧ (s.chip.on (R.SITE_RQ_CFG_EN site.val q.val) = true) ∧ (fget v.toNat 29 26 ≠ s.chip.rd (R.SITE_RQ_CFG_TENANT site.val q.val))) (.pcu 0) 0 3 0xC4000000 (stWith [(R.SITE_RQ_CFG_EN 0 3, 1)])) ∧
  ((fun (req : Requester) (site : Fin 24) (q : Fin 64) (v : BitVec 32) (s : State) => (writeAccepted s.chip req (R.SITE_RQ_BASE site.val q.val)) ∧ (hasQueues site.val = true) ∧ (s.chip.on (R.SITE_RQ_CFG_EN site.val q.val) = false)) (.pcu 0) 0 3 0x123 (stWith [])) ∧
  ((fun (req : Requester) (t0 : Fin 16) (v : BitVec 32) (s : State) => (writeAccepted s.chip req (R.PART_TENANT t0.val)) ∧ (256 < (((List.range 16).filter (fun u => u != t0.val && s.chip.tenantOn u)).map s.chip.latestShare).sum + min 256 (fget v.toNat 8 0))) (.pcu 0) 2 250 (stWith [(R.PART_TENANT_EN 1, 1), (R.PART_TENANT_SHARE 1, 100)])) ∧
  ((fun (req : Requester) (t0 : Fin 16) (v : BitVec 32) (s : State) => (writeAccepted s.chip req (R.PART_TENANT t0.val)) ∧ ((∀ u : Fin 16, s.chip.tenantOn u.val = false)) ∧ (fget v.toNat 8 0 ≤ 256)) (.pcu 0) 2 250 (stOf ((List.range 16).map (fun i => (R.PART_TENANT_EN i, 0))) id)) := by
  iterate 4
    refine ⟨?_, ?_⟩
    · try unfold writeAccepted
      decide +kernel
  try unfold writeAccepted
  decide +kernel

theorem witness_PatternAndAllotmentCommandsComplete :
  ((fun (req : Requester) (t : Fin 16) (v : BitVec 32) (s : State) => (writeAccepted s.chip req (R.CIRC_ARM t.val)) ∧ (bitOf v.toNat 31 = true) ∧ (fget v.toNat 29 28 = 1) ∧ (s.chip.armedOf t.val = none) ∧ (s.chip.patternValid t.val (fget v.toNat 21 16) 1 (s.chip.rd (R.CIRC_ARM_SYNC_SYNC t.val)) = true)) (.pcu 0) 1 0x90030005 (stWith (hold0 :: pat1))) ∧
  ((fun (req : Requester) (t : Fin 16) (v : BitVec 32) (s : State) => (writeAccepted s.chip req (R.CIRC_ARM t.val)) ∧ (bitOf v.toNat 31 = true) ∧ (s.chip.armedOf t.val = none) ∧ (s.chip.patternValid t.val (fget v.toNat 21 16) (fget v.toNat 29 28) (s.chip.rd (R.CIRC_ARM_SYNC_SYNC t.val)) = false)) (.pcu 0) 1 0x90040005 (stWith (hold0 :: pat1))) ∧
  ((fun (req : Requester) (t : Fin 16) (v : BitVec 32) (s : State) => (writeAccepted s.chip req (R.CIRC_ARM t.val)) ∧ (bitOf v.toNat 31 = true) ∧ ((s.chip.armedOf t.val).isSome = true)) (.pcu 0) 1 0x90040005 (stOf (hold0 :: pat1) (fun c => c.onCirc (fun x => { x with armed := [apA] })))) ∧
  ((fun (req : Requester) (t : Fin 16) (v : BitVec 32) (a : ArmedPattern) (s : State) => (writeAccepted s.chip req (R.CIRC_ARM t.val)) ∧ (bitOf v.toNat 31 = false) ∧ (bitOf v.toNat 30 = true) ∧ (s.chip.armedOf t.val = some a) ∧ (a.target = none)) (.pcu 0) 1 0x40000000 apA (stOf (hold0 :: pat1) (fun c => c.onCirc (fun x => { x with armed := [apA] })))) ∧
  ((fun (t : Fin 16) (a : ArmedPattern) (s : State) => (s.chip.circ.armed = [a]) ∧ (a.tenant = t.val) ∧ (a.target = none) ∧ (s.chip.triggerHolds a = true) ∧ (s.chip.inFallback = false)) 1 apA (stOf (hold0 :: pat1) (fun c => { c.onCirc (fun x => { x with armed := [apA] }) with row := 65536 }))) ∧
  ((fun (t : Fin 16) (a : ArmedPattern) (s : State) => (s.chip.armedOf t.val = some a) ∧ (s.chip.triggerHolds a = true)) 1 apA (stOf (hold0 :: pat1) (fun c => { c.onCirc (fun x => { x with armed := [apA] }) with row := 65536 }))) ∧
  ((fun (t : Fin 16) (a : ArmedPattern) (row : Nat) (s : State) => (s.chip.circ.armed = [a]) ∧ (a.tenant = t.val) ∧ (a.target = some row) ∧ (row ≤ s.chip.row) ∧ (s.chip.inFallback = false) ∧ (s.chip.light.returnedRow ≠ some s.chip.row) ∧ (s.chip.cyc = 0) ∧ (((s.chip.changed t.val a.pattern).all s.chip.wasDrained) = false) ∧ (a.deferrals < s.chip.rdPos R.CIRC_CFG_DEFER_MAX)) 1 { apA with target := some 0 } 0 (stOf (pat2 ++ [(R.CIRC_CFG_DEFER_MAX, 4), (R.CIRC_PLANE_STATE 0, 1), (R.CIRC_PLANE_DST_BANK 0, 30), (R.CIRC_PLANE_OPEN_RUNS 0, 1)]) (fun c => c.onCirc (fun x => { x with armed := [{ apA with target := some 0 }], src := [⟨0, 0, 0, {}, 0, [], [(0, 0, 0)], [], 0, false, none, false, false, none, false⟩] })))) ∧
  ((fun (t : Fin 16) (e b : Fin 112) (a : ArmedPattern) (row : Nat) (s : State) => (s.chip.circ.armed = [a]) ∧ (a.tenant = t.val) ∧ (a.target = some row) ∧ (row ≤ s.chip.row) ∧ (s.chip.inFallback = false) ∧ (s.chip.light.returnedRow ≠ some s.chip.row) ∧ (s.chip.cyc = 0) ∧ ((∀ x : Fin 112, s.chip.allotted x.val t.val = true → x = e)) ∧ (s.chip.allotted e.val t.val = true) ∧ (s.chip.rd (R.CIRC_PLANE_STATE e.val) = 0) ∧ (s.chip.pointed a.pattern e.val = some b.val) ∧ (s.chip.on (R.CIRC_PAT_HDR_CHAIN a.pattern) = false) ∧ (s.chip.circ.waits = [])) 1 0 20 { apA with target := some 0 } 0 (stOf pat2 (fun c => c.onCirc (fun x => { x with armed := [{ apA with target := some 0 }] })))) ∧
  ((fun (t : Fin 16) (s : State) => (s.chip.cyc = 0)) 1 (stWith [])) ∧
  ((fun (req : Requester) (e : Fin 112) (v : BitVec 32) (s : State) => (writeAccepted s.chip req (R.CIRC_ALLOT e.val)) ∧ ((s.chip.allotHook e.val v.toNat).takes = true)) (.pcu 0) 5 0x80000003 (stWith [hold0])) ∧
  ((fun (req : Requester) (e : Fin 112) (v : BitVec 32) (s : State) => (writeAccepted s.chip req (R.CIRC_ALLOT e.val)) ∧ ((s.chip.allotHook e.val v.toNat).takes = false)) (.pcu 0) 0 0x80000003 (stWith (hold0 :: pat1 ++ [(R.CIRC_PLANE_STATE 0, 1)]))) ∧
  ((fun (req : Requester) (p : Fin 64) (v : BitVec 32) (s : State) => (writeAccepted s.chip req (R.CIRC_PAT_HDR p.val)) ∧ (s.chip.circ.armed = [])) (.pcu 0) 5 0x85000103 (stWith [hold0])) ∧
  ((fun (req : Requester) (p : Fin 64) (e : Fin 112) (v : BitVec 32) (a : ArmedPattern) (s : State) => (writeAccepted s.chip req (R.CIRC_PAT p.val e.val)) ∧ (a ∈ s.chip.circ.armed) ∧ (a.pattern = p.val)) (.pcu 0) 3 0 0x85000103 apA (stOf (hold0 :: pat1) (fun c => c.onCirc (fun x => { x with armed := [apA] })))) ∧
  ((fun (req : Requester) (j : Fin 16) (v : BitVec 32) (s : State) => (writeAccepted s.chip req (R.CIRC_PORT_ASSIGN j.val)) ∧ (bitOf v.toNat 31 = true) ∧ (s.chip.portUp j.val = true) ∧ (s.chip.portRunsOpen (j.val, fget v.toNat 19 16, 36) = false) ∧ (s.chip.circ.assigning = []) ∧ (s.chip.circ.reserved = []) ∧ (12 ≤ j.val) ∧ (bitOf v.toNat 23 = true) ∧ ((∀ l : Fin 36, s.chip.rd (R.EDGE_LANE_STATE_RX_STATE j.val l.val) = lsFENCED ∨ s.chip.rd (R.EDGE_LANE_STATE_RX_STATE j.val l.val) = lsOFF)) ∧ (s.chip.circ.retraining = [])) (.pcu 0) 12 0x80810000 (stWith [hold0, (R.EDGE_STATUS_STATE 12, 2)])) ∧
  ((fun (req : Requester) (j : Fin 16) (v : BitVec 32) (l : Fin 36) (s : State) => (writeAccepted s.chip req (R.CIRC_PORT_ASSIGN j.val)) ∧ (bitOf v.toNat 31 = true) ∧ (s.chip.portUp j.val = true) ∧ (s.chip.portRunsOpen (j.val, fget v.toNat 19 16, 36) = false) ∧ (s.chip.circ.assigning = []) ∧ (s.chip.circ.reserved = []) ∧ (12 ≤ j.val) ∧ (bitOf v.toNat 23 = true) ∧ (s.chip.rd (R.EDGE_LANE_STATE_RX_STATE j.val l.val) = lsUP) ∧ (s.chip.circ.retraining = [])) (.pcu 0) 12 0x80810000 3 (stWith [hold0, (R.EDGE_STATUS_STATE 12, 2), (R.EDGE_LANE_STATE_RX_STATE 12 3, lsUP)])) ∧
  ((fun (req : Requester) (j : Fin 16) (v : BitVec 32) (s : State) => (writeAccepted s.chip req (R.CIRC_PORT_ASSIGN j.val)) ∧ (bitOf v.toNat 31 = true) ∧ (s.chip.portUp j.val = true) ∧ (s.chip.portRunsOpen (j.val, fget v.toNat 19 16, 36) = true) ∧ (s.chip.circ.assigning = []) ∧ (12 ≤ j.val) ∧ (bitOf v.toNat 23 = true)) (.pcu 0) 12 0x80810000 (stOf [hold0, (R.EDGE_STATUS_STATE 12, 2)] (fun c => c.onCirc (fun x => { x with dst := [{ dstA with e := 140, todo := [(0, 3, 0)] }] })))) ∧
  ((fun (req : Requester) (j : Fin 16) (v : BitVec 32) (agreed : Bool) (s : State) => (writeAccepted s.chip req (R.CIRC_PORT_ASSIGN j.val)) ∧ (bitOf v.toNat 31 = true) ∧ (s.chip.portUp j.val = false)) (.pcu 0) 12 0x80810000 true (stWith [hold0])) := by
  iterate 16
    refine ⟨?_, ?_⟩
    · try unfold writeAccepted
      decide +kernel
  try unfold writeAccepted
  decide +kernel

theorem witness_RunAndRoutingCommandsComplete :
  ((fun (site : Fin 24) (ctx : IssueCtx) (tn : Nat) (req : Stitch) (src : BitVec 46) (loc : Bool) (e : Fin 112) (s : State) => (s.chip.ctxTenant site.val ctx = some tn) ∧ (s.chip.rd (R.PART_STATE_STATE tn) ≠ 3) ∧ (s.chip.entryCheck site.val { req with tag := 0, tenant := tn, opcode := opRUN_OPEN, cls := 0 } = stOK) ∧ (s.chip.runCircuits site.val { req with tag := 0, tenant := tn, opcode := opRUN_OPEN, cls := 0 } = [e.val]) ∧ (s.chip.runCircuits site.val { req with tag := 0, tenant := tn } = [e.val]) ∧ (s.chip.isChanging e.val = false) ∧ (s.chip.rd (R.CIRC_PLANE_OPEN_RUNS e.val) < 16) ∧ ((s.chip.dealLanes e.val).isEmpty = false) ∧ (s.chip.outRoom site.val req.dstNode tn = true)) ⟨(switchedAt 0).1, by decide⟩ (.core 0) 1 reqRun 0 false 0 (stOf (circA ++ [(R.CMP_CORE_STATE_OWNED (switchedAt 0).1 0, 1), (R.CMP_CORE_STATE_TENANT (switchedAt 0).1 0, 1), (R.LANE_STATE_STATE (switchedAt 0).1 (switchedAt 0).2 0, lsUP)]) id)) ∧
  ((fun (site : Fin 24) (ctx : IssueCtx) (tn : Nat) (req : Stitch) (src : BitVec 46) (loc : Bool) (s : State) => (s.chip.ctxTenant site.val ctx = some tn)) 0 (.core 0) 1 reqRun 0 false (stWith coreA)) ∧
  ((fun (site : Fin 24) (w : RunWait) (s : State) => (s.chip.circ.waits = [w]) ∧ (w.site = site.val) ∧ (s.chip.runCircuits site.val w.opening = []) ∧ (w.row + s.chip.rd R.CIRC_CFG_RUN_WAIT ≤ s.chip.row) ∧ (w.pull = none) ∧ (w.relayOf = none)) 3 ⟨3, reqRun, 0, false, none, none, 0⟩ (stOf [(R.CIRC_CFG_RUN_WAIT, 4)] (fun c => { c.onCirc (fun x => { x with waits := [⟨3, reqRun, 0, false, none, none, 0⟩] }) with row := 4 }))) ∧
  ((fun (site : Fin 24) (d : DstRun) (e : Fin 144) (n : Fin 256) (s : State) => (s.chip.circ.dst = [d]) ∧ (d.site = site.val) ∧ (d.e = e.val) ∧ (d.runNo = n.val) ∧ (d.relay = false) ∧ (d.todo = []) ∧ (s.chip.mems.parked = []) ∧ (d.status = stOK) ∧ (d.opening.cnt = 0)) 1 dstA 0 7 (stOf [] (fun c => c.onCirc (fun x => { x with dst := [dstA] })))) ∧
  ((fun (site : Fin 24) (d : DstRun) (e : Fin 144) (n : Fin 256) (s : State) => (s.chip.circ.dst.find? (fun d => d.site == site.val && d.e == e.val && d.runNo == n.val && !d.relay) = some d)) 1 dstA 0 7 (stOf [] (fun c => c.onCirc (fun x => { x with dst := [dstA] })))) ∧
  ((fun (e : Fin 144) (k : Fin 40) (s : State) => (s.chip.laneLeft e.val k.val = true)) 0 3 (stWith [])) ∧
  ((fun (e : Fin 4) (node : Fin 4096) (pool : Fin 3) (x : PoolEntry) (j : Nat) (s : State) => (s.chip.xport.waiting = []) ∧ (s.chip.edge.pools = [x]) ∧ (queueOf e.val node.val pool.val x = true) ∧ (node.val ≠ s.chip.node) ∧ (s.chip.nodeUnreachable node.val = false) ∧ (pool.val ≠ 1) ∧ (leastDeep s.chip.portDepth ((s.chip.candidates node.val).filter (fun j => decide (1 ≤ s.chip.portCredit j pool.val))) = some j) ∧ (j / 4 = e.val) ∧ (x.st.hops + 1 ≤ 31) ∧ (x.st.opcode ≠ opCTRL)) 1 1 0 peA 4 (stOf torus (fun c => c.onEdge (fun x => { x with pools := [peA] })))) ∧
  ((fun (e : Fin 4) (node : Fin 4096) (x : PoolEntry) (t0 : Nat) (s : State) => (s.chip.edge.pools = [x]) ∧ (queueOf e.val node.val 0 x = true) ∧ (x.since = some t0) ∧ (t0 + 8 * s.chip.rdPos R.ROUTE_CFG_ESC_WAIT ≤ s.chip.cycles) ∧ ((s.chip.candidates node.val).isEmpty = false) ∧ (((s.chip.candidates node.val).all (fun j => s.chip.portCredit j 0 == 0)) = true)) 1 1 { peA with since := some 0 } 0 (stOf torus (fun c => { c.onEdge (fun x => { x with pools := [{ peA with since := some 0 }], sent := [((4, 0), 36864)] }) with row := 100 }))) ∧
  ((fun (e : Fin 4) (node : Fin 4096) (x : PoolEntry) (j t0 : Nat) (s : State) => (s.chip.edge.pools.find? (queueOf e.val node.val 2) = some x) ∧ (x.since = some t0) ∧ (t0 + 8 * s.chip.rdPos R.ROUTE_CFG_ESC_WAIT ≤ s.chip.cycles) ∧ ((s.chip.candidates node.val).isEmpty = false) ∧ (s.chip.escapeChoice x 2 = some j)) 1 1 peC 4 0 (stOf torus (fun c => { c.onEdge (fun x => { x with pools := [peC] }) with row := 100 }))) ∧
  ((fun (node : Fin 4096) (x : PoolEntry) (s : State) => (s.chip.edge.detour = [x]) ∧ (x.st.dstNode = node.val) ∧ (x.row + s.chip.rdPos R.ROUTE_CFG_DETOUR_WAIT ≤ s.chip.row) ∧ (s.chip.candidates node.val = []) ∧ (node.val ≠ s.chip.node) ∧ (s.chip.xport.out = []) ∧ (s.chip.xport.stalled = [])) 1 peA (stOf [] (fun c => { c.onEdge (fun x => { x with detour := [peA] }) with row := 100000 }))) ∧
  ((fun (node : Fin 4096) (x : PoolEntry) (s : State) => (x ∈ s.chip.edge.detour) ∧ (x.st.dstNode = node.val) ∧ (x.row + s.chip.rdPos R.ROUTE_CFG_DETOUR_WAIT ≤ s.chip.row) ∧ (s.chip.candidates node.val = []) ∧ (node.val ≠ s.chip.node)) 1 peA (stOf [] (fun c => { c.onEdge (fun x => { x with detour := [peA] }) with row := 100000 }))) ∧
  ((fun (req : Requester) (n : Fin 4096) (v : BitVec 32) (s : State) => (writeAccepted s.chip req (R.ROUTE_NODE_STATE n.val)) ∧ (n.val ≠ s.chip.node) ∧ (n.val < s.chip.nodeCount) ∧ (fget v.toNat 31 30 = 0)) (.pcu 0) 1 0x20000001 (stWith (hold0 :: torus))) ∧
  ((fun (req : Requester) (n : Fin 4096) (v : BitVec 32) (s : State) => (writeAccepted s.chip req (R.ROUTE_NODE_STATE n.val)) ∧ (n.val = s.chip.node)) (.pcu 0) 0 0x20000001 (stWith (hold0 :: torus))) ∧
  ((fun (e : Fin 4) (w : McWait) (s : State) => (s.chip.red.mcWait = [w]) ∧ (w.edge = e.val) ∧ (s.chip.mcEntry w.st = true) ∧ (s.chip.mcReady w = true) ∧ (s.chip.mcChildren (mcGroup w.st) = []) ∧ (s.chip.on (R.RED_MC_A_MEMBER (mcGroup w.st)) = true) ∧ (ownerSite w.st.ppa = some 3) ∧ (w.fromPort = none) ∧ (w.fromSite = none) ∧ (s.chip.skeinLost (18 + e.val) 3 = false)) 1 mcA (stOf [(R.RED_MC_A_EN 0, 1), (R.RED_MC_A_TENANT 0, 1), (R.RED_MC_A_MEMBER 0, 1)] (fun c => c.onRed (fun x => { x with mcWait := [mcA] })))) ∧
  ((fun (e : Fin 4) (w : McWait) (s : State) => (s.chip.red.mcWait.find? (fun w => w.edge == e.val && (!s.chip.mcEntry w.st || s.chip.mcReady w)) = some w)) 1 mcA (stOf [(R.RED_MC_A_EN 0, 1), (R.RED_MC_A_TENANT 0, 1), (R.RED_MC_A_MEMBER 0, 1)] (fun c => c.onRed (fun x => { x with mcWait := [mcA] })))) ∧
  ((fun (e : Fin 4) (s : State) => (s.chip.red.mcWait = [])) 1 (stWith [])) := by
  iterate 15
    refine ⟨?_, ?_⟩
    · try unfold writeAccepted
      decide +kernel
  try unfold writeAccepted
  decide +kernel

theorem witness_PortStateCommandsComplete :
  ((fun (j : Fin 16) (a b : BitVec 16) (l : Fin 40) (s : State) => (s.chip.portUp j.val = true) ∧ (getKey j.val s.chip.edge.lightLost = none)) 4 100 200 39 (stWith [prt 4 2])) ∧
  ((fun (j : Fin 16) (a b : BitVec 16) (l : Fin 40) (t0 : Nat) (s : State) => (s.chip.portUp j.val = true) ∧ (getKey j.val s.chip.edge.lightLost = some t0) ∧ (s.chip.cycles - t0 < 2400)) 4 100 200 39 7 (stOf [prt 4 2] (fun c => { c.onEdge (fun e => { e with lightLost := [(4, 7)] }) with cyc := 900 }))) ∧
  ((fun (j : Fin 16) (a b : BitVec 16) (t0 : Nat) (s : State) => (getKey j.val s.chip.edge.lightLost = some t0) ∧ (2400 ≤ s.chip.cycles - t0)) 4 100 200 7 (stOf [prt 4 2] (fun c => { c.onEdge (fun e => { e with lightLost := [(4, 7)] }) with row := 9 }))) ∧
  ((fun (j code : Fin 16) (s : State) => (s.chip.portUp j.val = true) ∧ (s.chip.downHolds j.val code.val = true) ∧ (s.chip.circ.src = []) ∧ (s.chip.circ.dst = []) ∧ (s.chip.edge.runs = []) ∧ (s.chip.edge.inj = [])) 4 2 (stOf [prt 4 2] (fun c => c.onEdge (fun e => { e with trains := [(4, 8, [1, 2, 3, 4]), (4, 9, [1, 2, 3, 4])] })))) ∧
  ((fun (j code : Fin 16) (s : State) => (s.chip.downHolds j.val code.val = true)) 4 2 (stOf [prt 4 2] (fun c => c.onEdge (fun e => { e with trains := [(4, 8, [1, 2, 3, 4]), (4, 9, [1, 2, 3, 4])] })))) ∧
  ((fun (st : Stitch) (j : Fin 16) (row : Nat) (s : State) => (s.chip.edge.waiting = [(j.val, row)]) ∧ (s.chip.partnerNode j.val = leField st.data 0 2 % 4096) ∧ (s.chip.rd (R.EDGE_PARTNER_PORT j.val) = st.data.getD 2 0) ∧ (s.chip.edge.record = [])) stPort 4 0 (stOf [(R.EDGE_PARTNER_NODE 4, 7), (R.EDGE_PARTNER_PORT 4, 2)] (fun c => c.onEdge (fun e => { e with waiting := [(4, 0)] })))) ∧
  ((fun (j : Fin 16) (row : Nat) (s : State) => (getKey j.val s.chip.edge.waiting = some row) ∧ (row + s.chip.rdPos (R.EDGE_CFG2_RECORD_WAIT j.val) ≤ s.chip.row) ∧ ((∀ l : Fin 40, s.chip.heldOn j.val l.val none = []))) 4 0 (stOf [] (fun c => { c.onEdge (fun e => { e with waiting := [(4, 0)] }) with row := 1000000 }))) ∧
  ((fun (j : Fin 16) (row : Nat) (s : State) => (getKey j.val s.chip.edge.waiting = some row) ∧ (row + s.chip.rdPos (R.EDGE_CFG2_RECORD_WAIT j.val) ≤ s.chip.row)) 4 0 (stOf [] (fun c => { c.onEdge (fun e => { e with waiting := [(4, 0)] }) with row := 1000000 }))) ∧
  ((fun (j : Fin 16) (a b : BitVec 16) (s : State) => ((s.chip.portLight j.val a.toNat b.toNat).mayTrain j.val = true)) 4 100 200 (stOf [prt 4 3, (R.PCU_CASTON_STEP, 10), (R.LSU_STATUS_MODE, 1), (R.EDGE_CFG2_EN 4, 1)] (fun c => c.onPins (fun p => { p with plugs := [1] })))) ∧
  ((fun (j : Fin 16) (node : Fin 4096) (site : Fin 24) (port : Fin 16) (mx mn : BitVec 8) (bad : List (Fin 40 × Bool)) (s : State) => (s.chip.rd (R.EDGE_STATUS_STATE j.val) = 1) ∧ (s.chip.portTrained j.val node.val site.val port.val (bad.map (fun x => (x.1.val, x.2))) = true) ∧ (min (s.chip.rd R.ROUTE_STATUS_LEVEL_MAX) mx.toNat < max (s.chip.rd R.ROUTE_STATUS_LEVEL_MIN) mn.toNat)) 4 7 19 2 1 1 [] (stOf [prt 4 1, (R.ROUTE_STATUS_LEVEL_MAX, 3), (R.ROUTE_STATUS_LEVEL_MIN, 2)] (trained 4 7 19 2))) ∧
  ((fun (j : Fin 16) (node : Fin 4096) (site : Fin 24) (port : Fin 16) (mx mn : BitVec 8) (bad : List (Fin 40 × Bool)) (s : State) => (s.chip.rd (R.EDGE_STATUS_STATE j.val) = 1) ∧ (s.chip.portTrained j.val node.val site.val port.val (bad.map (fun x => (x.1.val, x.2))) = true)) 4 7 19 2 1 1 [] (stOf [prt 4 1] (trained 4 7 19 2))) ∧
  ((fun (j : Fin 16) (node : Fin 4096) (site : Fin 24) (port : Fin 16) (mx mn : BitVec 8) (s : State) => (s.chip.rd (R.EDGE_STATUS_STATE j.val) = 1) ∧ (s.chip.portTrained j.val node.val site.val port.val [] = true) ∧ (max (s.chip.rd R.ROUTE_STATUS_LEVEL_MIN) mn.toNat ≤ min (s.chip.rd R.ROUTE_STATUS_LEVEL_MAX) mx.toNat) ∧ (s.chip.portRole j.val = 7) ∧ (getKey j.val s.chip.edge.waiting = none) ∧ (s.chip.light.heldNotice = false) ∧ ((∀ l : Fin 40, s.chip.portLane j.val l.val true ≠ lsFENCED ∧ s.chip.portLane j.val l.val false ≠ lsFENCED)) ∧ (s.chip.edge.ctrlOn = []) ∧ ((∀ (i : Fin 3) (inc : Bool), s.chip.rd (spareStateRef j.val inc i.val) ≠ 3)) ∧ (s.chip.edge.detour = [])) 4 7 19 2 2 1 (stOf [prt 4 1, (R.ROUTE_STATUS_LEVEL_MAX, 3), (R.ROUTE_STATUS_LEVEL_MIN, 2), (R.ROUTE_PORT_MAP_ROLE 4, 7)] (trained 4 7 19 2))) ∧
  ((fun (j : Fin 16) (t0 : Nat) (s : State) => (getKey j.val s.chip.edge.training = some t0) ∧ (s.chip.rd (R.EDGE_STATUS_STATE j.val) = 1) ∧ (t0 + 40000000 ≤ s.chip.cycles) ∧ ((getKey j.val s.chip.edge.restarts).getD 0 < 3)) 4 0 (stOf [prt 4 1] (fun c => { c.onEdge (fun e => { e with training := [(4, 0)] }) with row := 20000 }))) ∧
  ((fun (j : Fin 16) (t0 : Nat) (s : State) => (getKey j.val s.chip.edge.training = some t0) ∧ (s.chip.rd (R.EDGE_STATUS_STATE j.val) = 1) ∧ (t0 + 40000000 ≤ s.chip.cycles) ∧ (3 ≤ (getKey j.val s.chip.edge.restarts).getD 0)) 4 0 (stOf [prt 4 1] (fun c => { c.onEdge (fun e => { e with training := [(4, 0)], restarts := [(4, 3)] }) with row := 20000 }))) ∧
  ((fun (req : Requester) (j : Fin 16) (v : BitVec 32) (s : State) => (writeAccepted s.chip req (R.EDGE_CTRL j.val)) ∧ (bitOf v.toNat 31 = true) ∧ (bitOf v.toNat 30 = false) ∧ (s.chip.rd (R.EDGE_STATUS_STATE j.val) = 4) ∧ (s.chip.edge.engineFailed = [])) (.pcu 0) 4 0x80000000 (stWith [hold0, prt 4 4])) ∧
  ((fun (req : Requester) (j : Fin 16) (v : BitVec 32) (s : State) => (writeAccepted s.chip req (R.EDGE_CTRL j.val)) ∧ (bitOf v.toNat 31 = false) ∧ (bitOf v.toNat 30 = true) ∧ (s.chip.portOpen j.val = true) ∧ (s.chip.edge.portQ = [])) (.pcu 0) 4 0x40000000 (stWith [hold0, prt 4 2])) ∧
  ((fun (j : Fin 16) (st : Stitch) (s : State) => (st.data.getD 3 0 % 2 = 1)) 4 { data := [0, 0, 0, 1] } (stWith [prt 4 2])) ∧
  ((fun (j : Fin 16) (d : Departing) (l : Fin 40) (s : State) => (s.chip.edge.departing.find? (fun d => d.port == j.val) = some d) ∧ (d.darkRow ≤ s.chip.row)) 4 ⟨4, 0, true⟩ 3 (stOf [prt 4 2] (fun c => c.onEdge (fun e => { e with departing := [⟨4, 0, true⟩] })))) ∧
  ((fun (j : Fin 16) (d : Fin 2) (l : Fin 40) (site : Fin 24) (plane : Fin 42) (s : State) => (site.val = 18 + j.val / 4) ∧ (plane.val = 38 + j.val % 4) ∧ (s.chip.rd (R.EDGE_STATUS_STATE j.val) = 4) ∧ (s.chip.rd (ringLoop ⟨site.val, plane.val, d.val, l.val⟩) ∈ [loSEARCH, loACQUIRE, loLOCKED, loSWATCH]) ∧ (j.val ∉ s.chip.edge.engineFailed)) 4 1 39 19 38 (stWith [prt 4 4, (ringLoop ⟨19, 38, 1, 39⟩, loLOCKED)])) ∧
  ((fun (site : Fin 24) (plane : Fin 42) (s : State) => (18 ≤ site.val) ∧ (site.val < 22) ∧ (38 ≤ plane.val)) 19 38 (stWith [prt 4 2])) ∧
  ((fun (site : Fin 24) (plane : Fin 42) (s : State) => (plane.val < 38) ∧ (Config.planeKind site.val plane.val ≠ 0)) 8 0 (stWith [upA])) := by
  iterate 20
    refine ⟨?_, ?_⟩
    · try unfold writeAccepted
      decide +kernel
  try unfold writeAccepted
  decide +kernel

theorem witness_PortMessageCommandsComplete :
  ((fun (j : Fin 16) (lane carrier : Fin 40) (row : BitVec 48) (s : State) => (s.chip.newMsg j.val (linkMsg 1 lane.val carrier.val row.toNat) = true) ∧ (s.chip.portUp j.val = true) ∧ (36 ≤ carrier.val) ∧ (carrier.val < 39) ∧ (s.chip.rd (spareStateRef j.val false (carrier.val - 36)) ≠ 3)) 4 3 36 5 (stWith [prt 4 2, (portOnRef 4 3 false, 3)])) ∧
  ((fun (j : Fin 16) (lane carrier : Fin 40) (row : BitVec 48) (s : State) => (s.chip.newMsg j.val (linkMsg 1 lane.val carrier.val row.toNat) = true) ∧ (s.chip.portUp j.val = true) ∧ (36 ≤ carrier.val) ∧ (carrier.val < 39) ∧ (s.chip.rd (spareStateRef j.val false (carrier.val - 36)) = 3)) 4 3 36 5 (stWith [prt 4 2, (spareStateRef 4 false 0, 3)])) ∧
  ((fun (j : Fin 16) (lane carrier : Fin 40) (row : BitVec 48) (s : State) => (s.chip.newMsg j.val (linkMsg 3 lane.val carrier.val row.toNat) = true) ∧ (36 ≤ carrier.val) ∧ (carrier.val < 39)) 4 3 36 5 (stWith [prt 4 2])) ∧
  ((fun (j : Fin 16) (lane : Fin 36) (n : Fin 3) (s : State) => (s.chip.newMsg j.val (linkMsg 4 lane.val 0 0) = true) ∧ (s.chip.portUp j.val = true) ∧ (s.chip.portLane j.val lane.val true ≠ lsFENCED) ∧ ((∀ l : Fin 40, s.chip.rd (portOnRef j.val l.val true) = l.val)) ∧ ((s.chip.freeSpares j.val true).head? = some n.val)) 4 3 0 (stOf ([prt 4 2] ++ (List.range 40).map (fun l => (portOnRef 4 l true, l))) id)) ∧
  ((fun (j : Fin 16) (lane : Fin 40) (l : Nat) (s : State) => (s.chip.newMsg j.val (linkMsg 4 lane.val 0 0) = true) ∧ (s.chip.portUp j.val = true) ∧ (((List.range 36) ++ [39]).find? (fun l => s.chip.rd (portOnRef j.val l true) == lane.val) = some l) ∧ (lane.val < 36 ∨ lane.val = 39) ∧ (s.chip.portLane j.val l true ≠ lsFENCED)) 4 3 3 (stOf ([prt 4 2] ++ (List.range 40).map (fun l => (portOnRef 4 l true, l))) id)) ∧
  ((fun (j : Fin 16) (lane : Fin 40) (l : Nat) (s : State) => (s.chip.newMsg j.val (linkMsg 4 lane.val 0 0) = true) ∧ (s.chip.portUp j.val = true) ∧ (((List.range 36) ++ [39]).find? (fun l => s.chip.rd (portOnRef j.val l true) == lane.val) = some l) ∧ (36 ≤ lane.val) ∧ (lane.val < 39)) 4 36 3 (stOf ([prt 4 2] ++ (List.range 40).map (fun l => (portOnRef 4 l true, if l = 3 then 36 else l))) id)) ∧
  ((fun (j : Fin 16) (lane carrier : Fin 40) (row : BitVec 48) (s : State) => (s.chip.newMsg j.val (linkMsg 5 lane.val carrier.val row.toNat) = true) ∧ (s.chip.portUp j.val = true) ∧ (36 ≤ carrier.val) ∧ (carrier.val < 39)) 4 3 36 5 (stWith [prt 4 2])) ∧
  ((fun (j : Fin 16) (lane carrier : Fin 40) (row : BitVec 48) (s : State) => (s.chip.newMsg j.val (linkMsg 6 lane.val carrier.val row.toNat) = true) ∧ (36 ≤ carrier.val) ∧ (carrier.val < 39)) 4 3 36 5 (stWith [prt 4 2])) ∧
  ((fun (j : Fin 16) (lane carrier : Fin 40) (row : BitVec 48) (s : State) => (s.chip.newMsg j.val (linkMsg 7 lane.val carrier.val row.toNat) = true)) 4 3 36 5 (stWith [prt 4 2])) ∧
  ((fun (req : Requester) (j : Fin 16) (v : BitVec 32) (s : State) => (writeAccepted s.chip req (R.EDGE_PAT_CTRL j.val)) ∧ (bitOf v.toNat 31 = true) ∧ (bitOf v.toNat 30 = false) ∧ (5 < s.chip.rd (R.EDGE_PAT_SEL_PATTERN j.val))) (.pcu 0) 4 0x80000000 (stWith [hold0, (R.EDGE_PAT_SEL_PATTERN 4, 6)])) ∧
  ((fun (req : Requester) (j : Fin 16) (v : BitVec 32) (s : State) => (writeAccepted s.chip req (R.EDGE_PAT_CTRL j.val)) ∧ (bitOf v.toNat 31 = true) ∧ (bitOf v.toNat 30 = false) ∧ (s.chip.rd (R.EDGE_PAT_SEL_PATTERN j.val) ≤ 5) ∧ (s.chip.rd (R.EDGE_PAT_SEL_LANE j.val) < 40) ∧ (s.chip.portLane j.val (s.chip.rd (R.EDGE_PAT_SEL_LANE j.val)) false = lsUP)) (.pcu 0) 4 0x80000000 (stWith [hold0, (R.EDGE_PAT_SEL_PATTERN 4, 2), (portLaneRef 4 0 false, lsUP)])) ∧
  ((fun (req : Requester) (j : Fin 16) (v : BitVec 32) (s : State) => (writeAccepted s.chip req (R.EDGE_INJ j.val)) ∧ (bitOf v.toNat 31 = true) ∧ (fget v.toNat 29 27 = 1) ∧ (s.chip.edge.inj = []) ∧ (fget v.toNat 5 0 < 40) ∧ (s.chip.portLane j.val (fget v.toNat 5 0) false = lsUP)) (.pcu 0) 4 0x88000003 (stWith [hold0, (portLaneRef 4 3 false, lsUP)])) ∧
  ((fun (req : Requester) (j : Fin 16) (v : BitVec 32) (s : State) => (writeAccepted s.chip req (R.EDGE_INJ j.val)) ∧ (bitOf v.toNat 31 = true) ∧ (fget v.toNat 29 27 = 0) ∧ (s.chip.edge.inj = [])) (.pcu 0) 4 0x80000003 (stWith [hold0, (portLaneRef 4 3 false, lsUP)])) := by
  iterate 12
    refine ⟨?_, ?_⟩
    · try unfold writeAccepted
      decide +kernel
  try unfold writeAccepted
  decide +kernel

theorem witness_MemorySiteCommandsComplete :
  ((fun (u : Fin 4) (ecc : Fin 3) (p : Partial) (s : State) => (s.chip.red.partials = [p]) ∧ (p.unit = u.val) ∧ (p.row + s.chip.rdPos R.RED_CFG_FLUSH_ROWS ≤ s.chip.row) ∧ (s.chip.outRoom (18 + u.val) (s.chip.releasedStitch p).dstNode (s.chip.releasedStitch p).tenant = true)) 1 0 ptA (stMem hbmOwn 100000 id (fun r => { r with partials := [ptA] }))) ∧
  ((fun (n : Fin 8) (d : DetSlot) (a : Nat) (s : State) => (s.chip.red.slots = [d]) ∧ (d.unit = 4 + n.val) ∧ (d.row + s.chip.rdPos R.RED_CFG_DET_WAIT ≤ s.chip.row) ∧ (s.chip.resolve d.key.tenant d.key.ppa = some a) ∧ (s.chip.obstacle [a] true none = none) ∧ (s.chip.placeGood a = true)) 0 detA 0x40 (stMem hbmOwn 100000 (fun m => { m with xlat := [(0, (1, 0))] }) (fun r => { r with slots := [detA] }))) ∧
  ((fun (n : Fin 8) (ecc : Fin 3) (d : DetSlot) (s : State) => (s.chip.red.slots = [d]) ∧ (d.unit = 4 + n.val) ∧ (d.row + s.chip.rdPos R.RED_CFG_DET_WAIT ≤ s.chip.row) ∧ (s.chip.resolve d.key.tenant d.key.ppa = none)) 0 1 { detA with key := { ppa := 0x3F00000000 } } (stMem [] 100000 id (fun r => { r with slots := [{ detA with key := { ppa := 0x3F00000000 } }] }))) ∧
  ((fun (n : Fin 8) (a : BitVec 40) (s : State) => (s.chip.on (R.MEM_SCRUB_CFG_EN n.val) = true) ∧ (s.chip.rd (R.MEM_STATUS_STATE n.val) = 3) ∧ (stackOf a.toNat = 2 * n.val) ∧ (a.toNat / 0x200000 < s.chip.frameCount)) 0 0x40 (stWith [(R.MEM_SCRUB_CFG_EN 0, 1), (R.MEM_STATUS_STATE 0, 3)])) ∧
  ((fun (n : Fin 8) (l m : List (BitVec 40)) (s : State) => (s.chip.on (R.MEM_SCRUB_CFG_EN n.val) = true) ∧ (s.chip.rd (R.MEM_STATUS_STATE n.val) = 3)) 0 [0x40] [] (stWith [(R.MEM_SCRUB_CFG_EN 0, 1), (R.MEM_STATUS_STATE 0, 3)])) ∧
  ((fun (n : Fin 8) (l m : List (BitVec 40)) (s : State) => (s.chip.on (R.MEM_SCRUB_CFG_EN n.val) = false)) 0 [1] [2] (stWith [(R.MEM_SCRUB_CFG_EN 0, 0)])) ∧
  ((fun (site : Fin 24) (die : Fin 2) (line : BitVec 46) (e : SnoopEntry) (s : State) => (s.chip.snoopAt (lineOf line.toNat) = some e) ∧ (s.chip.recallWanted site.val die.val (lineOf line.toNat) false = true) ∧ (s.chip.mems.recalls.any (fun r => r.site == site.val && r.die == die.val && r.line == lineOf line.toNat) = false) ∧ (s.chip.outRoom site.val s.chip.node e.tenant = true)) 10 1 0x41 snpA (stMem hbmOwn 5 (fun m => { m with snoop := [snpA], parked := [pkA false] }) id)) ∧
  ((fun (site : Fin 24) (die : Fin 2) (line : BitVec 46) (e : SnoopEntry) (s : State) => (s.chip.snoopAt (lineOf line.toNat) = some e) ∧ (s.chip.recallWanted site.val die.val (lineOf line.toNat) true = true) ∧ (s.chip.mems.recalls.any (fun r => r.site == site.val && r.die == die.val && r.line == lineOf line.toNat) = false) ∧ (s.chip.outRoom site.val s.chip.node e.tenant = true)) 10 1 0x41 snpA (stMem hbmOwn 5 (fun m => { m with snoop := [snpA], parked := [pkA true] }) id)) ∧
  ((fun (site : Fin 24) (die : Fin 2) (st : Stitch) (r : Recall) (s : State) => (s.chip.dieRuns die.val = true) ∧ (st.opcode = opLOAD_RSP) ∧ (Stitch.checkOk st = true) ∧ (s.chip.recallOf site.val { st with srcNode := s.chip.node, srcSite := 8 + die.val } = some r) ∧ (s.chip.mems.parked = []) ∧ (s.chip.mems.recalls = [r]) ∧ (s.chip.placeGood r.line = true)) 10 1 (Stitch.sealed { opcode := opLOAD_RSP, tenant := 1, seq := 7, opf := 1, data := [1, 2, 3] }) rcA (stMem (hbmOwn ++ [(R.CPU_DIE_STATUS_STATE 1, 2)]) 5 (fun m => { m with recalls := [rcA] }) id)) ∧
  ((fun (site : Fin 24) (die : Fin 2) (st : Stitch) (s : State) => (s.chip.dieRuns die.val = true) ∧ (st.opcode = opLOAD_RSP) ∧ (Stitch.checkOk st = true)) 10 1 (Stitch.sealed { opcode := opLOAD_RSP, tenant := 1, seq := 7, opf := 1, data := [1, 2, 3] }) (stMem (hbmOwn ++ [(R.CPU_DIE_STATUS_STATE 1, 2)]) 5 (fun m => { m with recalls := [rcA] }) id)) ∧
  ((fun (site : Fin 24) (die : Fin 2) (line : BitVec 46) (r : Recall) (s : State) => (s.chip.mems.recalls = [r]) ∧ (r.site = site.val) ∧ (r.die = die.val) ∧ (r.line = lineOf line.toNat) ∧ (r.since + 2000 ≤ s.chip.cycles) ∧ (s.chip.mems.parked = []) ∧ (s.chip.mems.snoop = [⟨r.line, 0, r.tenant, [die.val], some die.val⟩])) 10 1 0x41 rcA (stMem hbmOwn 5 (fun m => { m with recalls := [rcA], snoop := [snpA].map (fun e => { e with view := 0 }) }) id)) ∧
  ((fun (site : Fin 24) (die : Fin 2) (line : BitVec 46) (r : Recall) (s : State) => (s.chip.mems.recalls.find? (fun r => r.site == site.val && r.die == die.val && r.line == lineOf line.toNat) = some r) ∧ (r.since + 2000 ≤ s.chip.cycles)) 10 1 0x41 rcA (stMem hbmOwn 5 (fun m => { m with recalls := [rcA], snoop := [snpA].map (fun e => { e with view := 0 }) }) id)) ∧
  ((fun (f : Fin 524288) (b : Nat) (s : State) => (s.chip.mems.zeroing = [f.val]) ∧ (s.chip.mems.parked = []) ∧ (Memory.wf s.mem = true)) 3 0x600001 { stMem [] 5 (fun m => { m with zeroing := [3] }) id with mem := [(5, 5), (0x600001, 7)] }) ∧
  ((fun (f : Fin 524288) (s : State) => (f.val ∈ s.chip.mems.zeroing)) 3 { stMem [] 5 (fun m => { m with zeroing := [3] }) id with mem := [(5, 5), (0x600001, 7)] }) := by
  iterate 13
    refine ⟨?_, ?_⟩
    · decide +kernel
  decide +kernel

theorem witness_SyncFunctionsComplete :
  ((fun (st : Stitch) (o : SyncObj) (s : State) => (s.chip.obj st.sync = some o) ∧ (o.tenant = st.tenant) ∧ (st.srcNode = s.chip.node) ∧ (s.chip.sync.waits = [])) synS { kind := 1, tenant := 1 } (stSyn { kind := 1, tenant := 1 } [])) ∧
  ((fun (st : Stitch) (o : SyncObj) (s : State) => (s.chip.obj st.sync = some o) ∧ (o.tenant = st.tenant) ∧ (st.srcNode = s.chip.node) ∧ (s.chip.sync.waits = []) ∧ (o.kind = 1 ∨ o.kind = 2)) synS { kind := 2, tenant := 1, target := 5 } (stSyn { kind := 2, tenant := 1, target := 5 } [])) ∧
  ((fun (st : Stitch) (o : SyncObj) (s : State) => (s.chip.obj st.sync = some o) ∧ (o.tenant = st.tenant) ∧ (st.srcNode = s.chip.node) ∧ (s.chip.sync.waits = []) ∧ (o.kind = 3 ∨ o.kind = 4)) synS { kind := 4, tenant := 1 } (stSyn { kind := 4, tenant := 1 } [])) ∧
  ((fun (st : Stitch) (o : SyncObj) (s : State) => (s.chip.obj st.sync = some o) ∧ (o.tenant = st.tenant) ∧ (st.srcNode = s.chip.node) ∧ (s.chip.sync.waits = []) ∧ (o.kind = 1 ∨ o.kind = 2)) synS { kind := 2, tenant := 1, error := 9 } (stSyn { kind := 2, tenant := 1, error := 9 } [])) ∧
  ((fun (st : Stitch) (o : SyncObj) (s : State) => (s.chip.obj st.sync = some o) ∧ (o.tenant = st.tenant) ∧ (st.srcNode = s.chip.node) ∧ (s.chip.sync.waits = []) ∧ (o.kind = 2)) synS { kind := 2, tenant := 1, error := 9 } (stSyn { kind := 2, tenant := 1, error := 9 } [])) ∧
  ((fun (st : Stitch) (o : SyncObj) (s : State) => (s.chip.obj st.sync = some o) ∧ (o.tenant = st.tenant) ∧ (st.srcNode = s.chip.node) ∧ (syncCond st ≤ 4) ∧ (o.holds (syncCond st) (syncValue st) = some true)) synS { kind := 1, tenant := 1, count := 5 } (stSyn { kind := 1, tenant := 1, count := 5 } [])) ∧
  ((fun (st : Stitch) (o : SyncObj) (s : State) => (s.chip.obj st.sync = some o) ∧ (o.tenant = st.tenant) ∧ (syncCond st ≤ 4) ∧ (o.holds (syncCond st) (syncValue st) = some false) ∧ (s.chip.sync.waits = [])) synS { kind := 1, tenant := 1, count := 4 } (stSyn { kind := 1, tenant := 1, count := 4 } [])) ∧
  ((fun (st : Stitch) (o : SyncObj) (s : State) => (s.chip.obj st.sync = some o) ∧ (o.tenant = st.tenant) ∧ (st.srcNode = s.chip.node) ∧ (s.chip.sync.waits = []) ∧ (o.kind = 3) ∧ (o.count + 1 = max 1 o.parties)) synS { kind := 3, tenant := 1, count := 4, parties := 5 } (stSyn { kind := 3, tenant := 1, count := 4, parties := 5 } [])) ∧
  ((fun (st : Stitch) (o : SyncObj) (s : State) => (s.chip.obj st.sync = some o) ∧ (o.tenant = st.tenant) ∧ (st.srcNode = s.chip.node) ∧ (s.chip.sync.waits = []) ∧ (o.kind = 3) ∧ (o.count + 1 ≠ max 1 o.parties) ∧ (bitOf (syncFlags st) 1 = false)) synS { kind := 3, tenant := 1, count := 3, parties := 5 } (stSyn { kind := 3, tenant := 1, count := 3, parties := 5 } [])) ∧
  ((fun (st : Stitch) (o : SyncObj) (s : State) => (s.chip.obj st.sync = some o) ∧ (o.tenant = st.tenant) ∧ (st.srcNode = s.chip.node) ∧ (s.chip.sync.waits = []) ∧ (o.kind = 3) ∧ (o.count = 0)) synS { kind := 3, tenant := 1, count := 0, parties := 5 } (stSyn { kind := 3, tenant := 1, count := 0, parties := 5 } [])) ∧
  ((fun (st : Stitch) (o : SyncObj) (s : State) => (s.chip.obj st.sync = some o) ∧ (o.tenant = st.tenant) ∧ (st.srcNode = s.chip.node) ∧ (s.chip.sync.waits = []) ∧ (o.kind = 4) ∧ (o.held = false) ∧ (s.chip.ownerFresh st = false) ∧ (syncLimit st = 0)) synS { kind := 4, tenant := 1, abandoned := true } (stSyn { kind := 4, tenant := 1, abandoned := true } [])) ∧
  ((fun (st : Stitch) (o : SyncObj) (s : State) => (s.chip.obj st.sync = some o) ∧ (o.tenant = st.tenant) ∧ (st.srcNode = s.chip.node) ∧ (o.kind = 4) ∧ (o.held = true)) synS { kind := 4, tenant := 1, held := true } (stSyn { kind := 4, tenant := 1, held := true } [])) ∧
  ((fun (st : Stitch) (o : SyncObj) (s : State) => (s.chip.obj st.sync = some o) ∧ (o.tenant = st.tenant) ∧ (st.srcNode = s.chip.node) ∧ (s.chip.sync.waits = []) ∧ (o.kind = 4) ∧ (o.ownedBy st = true)) synS { kind := 4, tenant := 1, held := true, ownerNode := 5, ownerSite := 2 } (stSyn { kind := 4, tenant := 1, held := true, ownerNode := 5, ownerSite := 2 } [])) ∧
  ((fun (st : Stitch) (o : SyncObj) (s : State) => (s.chip.obj st.sync = some o) ∧ (o.tenant = st.tenant) ∧ (st.srcNode = s.chip.node) ∧ (o.kind = 4) ∧ (o.ownedBy st = false)) synS { kind := 4, tenant := 1, held := true, ownerNode := 5, ownerSite := 3 } (stSyn { kind := 4, tenant := 1, held := true, ownerNode := 5, ownerSite := 3 } [])) ∧
  ((fun (st : Stitch) (o : SyncObj) (s : State) => (s.chip.obj st.sync = some o) ∧ (o.tenant = st.tenant) ∧ (st.srcNode = s.chip.node) ∧ (s.chip.sync.waits = []) ∧ (o.kind = 4) ∧ (o.ownedBy st = true) ∧ (o.leased = true) ∧ (syncLimit st ≠ 0)) (synT [0, 0, 0, 0, 0, 0, 0, 0, 7]) { kind := 4, tenant := 1, held := true, leased := true, ownerNode := 5, ownerSite := 2 } (stSyn { kind := 4, tenant := 1, held := true, leased := true, ownerNode := 5, ownerSite := 2 } [])) := by
  iterate 14
    refine ⟨?_, ?_⟩
    · decide +kernel
  decide +kernel

theorem witness_LandingsWaitsLeasesAndTimeComplete :
  ((fun (site : Fin 24) (obj : Fin 65536) (inc status : Nat) (o : SyncObj) (s : State) => (s.chip.obj obj.val = some o) ∧ (o.kind = 1 ∨ o.kind = 2) ∧ (s.chip.xport.landings = [⟨site.val, obj.val, inc, status, 0⟩])) 3 9 4 7 { kind := 2, tenant := 1, target := 3 } (stLand { kind := 2, tenant := 1, target := 3 } [⟨3, 9, 4, 7, 0⟩] [])) ∧
  ((fun (site : Fin 24) (obj : Fin 65536) (l : Landing) (s : State) => (s.chip.xport.merging = [l]) ∧ (l.site = site.val) ∧ (l.obj = obj.val) ∧ (l.since + s.chip.rd R.SYN_CFG_COALESCE ≤ s.chip.cycles)) 3 9 ⟨3, 9, 4, 7, 0⟩ (let s := stLand { kind := 2, tenant := 1, target := 3 } [] [⟨3, 9, 4, 7, 0⟩]; { s with chip := { s.chip with row := 9 } })) ∧
  ((fun (obj : Fin 65536) (st : Stitch) (o : SyncObj) (cond v row limit : Nat) (s : State) => (s.chip.obj obj.val = some o) ∧ (s.chip.sync.waits = [⟨obj.val, .stitch st, cond, v, row, limit, none⟩]) ∧ (row + limit < s.chip.row) ∧ (st.srcNode = s.chip.node) ∧ (st.sync = obj.val)) 9 synS { kind := 1, tenant := 1 } 0 5 40 9 (stSyn { kind := 1, tenant := 1 } [⟨9, .stitch synS, 0, 5, 40, 9, none⟩])) ∧
  ((fun (obj : Fin 65536) (o : SyncObj) (s : State) => (s.chip.obj obj.val = some o) ∧ (o.kind = 4) ∧ (o.held = true) ∧ (o.leased = true) ∧ (s.chip.expired o.expiry = true) ∧ (s.chip.on R.SYN_CFG_LEASE_HOLD = false)) 9 { kind := 4, tenant := 1, held := true, leased := true, expiry := 50 } (stSyn { kind := 4, tenant := 1, held := true, leased := true, expiry := 50 } [])) ∧
  ((fun (obj : Fin 65536) (o : SyncObj) (s : State) => (s.chip.obj obj.val = some o) ∧ (o.kind = 4) ∧ (o.held = true) ∧ (o.ownerNode = s.chip.node) ∧ (s.chip.sync.resets = [⟨o.ownerNode, o.ownerSite, o.ownerCore, s.chip.row⟩])) 9 { kind := 4, tenant := 1, held := true, ownerNode := 5, ownerSite := 2 } (stOf [(R.ROUTE_NODE_NODE, 5)] (fun c => { c with sync := { c.sync with objs := [(9, { kind := 4, tenant := 1, held := true, ownerNode := 5, ownerSite := 2 })], resets := [⟨5, 2, 0, 50⟩] }, row := 50 }))) ∧
  ((fun (s : State) => (s.chip.rd R.TIME_STATUS_STATE = tsHOLDOVER) ∧ (s.chip.time.heldSince + s.chip.rd R.TIME_CFG_HOLDOVER * 1000000000 ≤ s.chip.now) ∧ (s.chip.rd R.TIME_CFG_PRIORITY < 255) ∧ (s.chip.time.ends.all (fun e => e.state == tsFREE || betterSource (s.chip.rd R.TIME_CFG_PRIORITY) s.chip.node e.priority e.source) = true)) (stOf [(R.TIME_STATUS_STATE, 4), (R.TIME_CFG_PRIORITY, 9)] (fun c => { c with row := 2 ^ 40 }))) ∧
  ((fun (s : State) => (s.chip.rd R.TIME_STATUS_STATE = tsHOLDOVER) ∧ (s.chip.time.heldSince + s.chip.rd R.TIME_CFG_HOLDOVER * 1000000000 ≤ s.chip.now) ∧ (s.chip.rd R.TIME_CFG_PRIORITY = 255 ∨ s.chip.time.ends.all (fun e => e.state == tsFREE || betterSource (s.chip.rd R.TIME_CFG_PRIORITY) s.chip.node e.priority e.source) = false)) (stOf [(R.TIME_STATUS_STATE, 4), (R.TIME_CFG_PRIORITY, 255)] (fun c => { c with row := 2 ^ 40 }))) ∧
  ((fun (j : Fin 16) (a c : BitVec 64) (b d : BitVec 48) (s : State) => (s.chip.portUp j.val = true) ∧ (getKey j.val s.chip.time.sentRow = none)) 4 1 2 3 4 (stWith [prt 4 2])) ∧
  ((fun (j : Fin 16) (a c : BitVec 64) (b d : BitVec 48) (r : Nat) (s : State) => (s.chip.portUp j.val = true) ∧ (getKey j.val s.chip.time.sentRow = some r) ∧ (r + s.chip.exchRows ≤ s.chip.row)) 4 1 2 3 4 0 (stOf [prt 4 2] (fun c => { c.onTime (fun x => { x with sentRow := [(4, 0)] }) with row := 2 ^ 24 }))) ∧
  ((fun (j : Fin 16) (st : Stitch) (a b : BitVec 64) (s : State) => (s.chip.portUp j.val = true)) 4 { data := [0, 0, 0, 1] } 100 50 (stWith [prt 4 2])) ∧
  ((fun (j : Fin 16) (st : Stitch) (a b c : BitVec 64) (d e : BitVec 48) (s : State) => (s.chip.portUp j.val = false)) 4 {} 1 2 3 4 5 (stWith [])) := by
  iterate 10
    refine ⟨?_, ?_⟩
    · decide +kernel
  decide +kernel

theorem witness_ThreadCommandsComplete :
  ((fun (die : Fin 8) (core : Fin 136) (slot : Fin 64) (tid : Fin 2048) (rd rs1 rs2 : Fin 32) (b : Block) (t : Thread) (s : State) => (threadReady s.chip die.val core.val slot.val tid.val b t) ∧ (t.rx rs1.val % 64 = 0) ∧ (t.rx rs1.val < coreScratch) ∧ (t.rx rs2.val % 8 ≠ 7) ∧ ((s.chip.descs die.val core.val (t.rx rs2.val % 8)).length < 64)) 1 2 3 0 5 6 7 (blkA thA) thA (stThr thA)) ∧
  ((fun (die : Fin 8) (core : Fin 136) (slot : Fin 64) (tid : Fin 2048) (rd rs1 rs2 : Fin 32) (b : Block) (t : Thread) (s : State) => (threadReady s.chip die.val core.val slot.val tid.val b t) ∧ (t.rx rs1.val % 64 = 0) ∧ (t.rx rs1.val < coreScratch) ∧ (t.rx rs2.val % 8 ≠ 7) ∧ (64 ≤ (s.chip.descs die.val core.val (t.rx rs2.val % 8)).length)) 1 2 3 0 5 6 7 (blkA thA) thA (s64 thA)) ∧
  ((fun (die : Fin 8) (core : Fin 136) (slot : Fin 64) (tid : Fin 2048) (rd rs1 rs2 : Fin 32) (b : Block) (t : Thread) (s : State) => (threadReady s.chip die.val core.val slot.val tid.val b t) ∧ (t.rx rs1.val % 64 ≠ 0 ∨ coreScratch ≤ t.rx rs1.val ∨ t.rx rs2.val % 8 = 7)) 1 2 3 0 5 3 7 (blkA thA) thA (stThr thA)) ∧
  ((fun (die : Fin 8) (core : Fin 136) (slot : Fin 64) (tid : Fin 2048) (rd rs1 rs2 : Fin 32) (b : Block) (t : Thread) (s : State) => (threadReady s.chip die.val core.val slot.val tid.val b t)) 1 2 3 0 5 6 7 (blkA thA) thA (stThr thA)) ∧
  ((fun (die : Fin 8) (core : Fin 136) (slot : Fin 64) (tid : Fin 2048) (rd rs1 rs2 : Fin 32) (b : Block) (t : Thread) (s : State) (x : Nat) => (threadReady s.chip die.val core.val slot.val tid.val b t) ∧ (s.chip.ticketStatus die.val core.val (t.rx rs2.val % 8) (t.rx rs1.val % 65536) = some x)) 1 2 3 0 5 8 7 (blkA thA) thA (stTk thA) 9) ∧
  ((fun (die : Fin 8) (core : Fin 136) (slot : Fin 64) (tid : Fin 2048) (rd rs1 rs2 : Fin 32) (b : Block) (t : Thread) (s : State) => (threadReady s.chip die.val core.val slot.val tid.val b t) ∧ (s.chip.ticketStatus die.val core.val (t.rx rs2.val % 8) (t.rx rs1.val % 65536) = none)) 1 2 3 0 5 6 7 (blkA thA) thA (stThr thA)) ∧
  ((fun (die : Fin 8) (core : Fin 136) (slot : Fin 64) (tid : Fin 2048) (b : Block) (t : Thread) (s : State) => (threadReady s.chip die.val core.val slot.val tid.val b t) ∧ (tid.val = 0) ∧ (b.threads = [t])) 1 2 3 0 (blkA thA) thA (stThr thA)) ∧
  ((fun (die : Fin 8) (core : Fin 136) (slot : Fin 64) (tid : Fin 2048) (b : Block) (t : Thread) (s : State) => (threadReady s.chip die.val core.val slot.val tid.val b t)) 1 2 3 0 (blkA thA) thA (stThr thA)) ∧
  ((fun (die : Fin 8) (core : Fin 136) (slot : Fin 64) (tid : Fin 2048) (b : Block) (t : Thread) (s : State) => (threadReady s.chip die.val core.val slot.val tid.val b t) ∧ (tid.val = 0) ∧ (b.threads = [t])) 1 2 3 0 (blkA thA) thA (stThr thA)) ∧
  ((fun (die : Fin 8) (core : Fin 136) (slot : Fin 64) (tid : Fin 2048) (w : Fin 16) (rs1 rs2 : Fin 32) (b : Block) (t : Thread) (s : State) => (threadReady s.chip die.val core.val slot.val tid.val b t) ∧ (t.rx rs2.val ≠ 0xFFFFFFFF)) 1 2 3 0 9 6 7 (blkA thA) thA (stThr thA)) ∧
  ((fun (die : Fin 8) (core : Fin 136) (slot : Fin 64) (tid : Fin 2048) (w : Fin 16) (rs1 rs2 : Fin 32) (b : Block) (t : Thread) (s : State) => (threadReady s.chip die.val core.val slot.val tid.val b t) ∧ (t.rx rs2.val = 0xFFFFFFFF)) 1 2 3 0 9 6 9 (blkA thW) thW (stThr thW)) ∧
  ((fun (die : Fin 8) (core : Fin 136) (slot : Fin 64) (tid : Fin 2048) (rd : Fin 32) (b : Block) (t : Thread) (s : State) => (threadReady s.chip die.val core.val slot.val tid.val b t) ∧ (t.far = [])) 1 2 3 0 5 (blkA thA) thA (stThr thA)) ∧
  ((fun (die : Fin 8) (core : Fin 136) (slot : Fin 64) (tid : Fin 2048) (rd : Fin 32) (b : Block) (t : Thread) (s : State) => (threadReady s.chip die.val core.val slot.val tid.val b t) ∧ (t.far ≠ [])) 1 2 3 0 5 (blkA thF) thF (stThr thF)) ∧
  ((fun (die : Fin 8) (core : Fin 136) (slot : Fin 64) (tid : Fin 2048) (rd rs1 : Fin 32) (b : Block) (t : Thread) (s : State) => (threadReady s.chip die.val core.val slot.val tid.val b t)) 1 2 3 0 5 6 (blkA thA) thA (stThr thA)) ∧
  ((fun (die : Fin 8) (core : Fin 136) (slot : Fin 64) (tid : Fin 2048) (rd rs1 : Fin 32) (b : Block) (t : Thread) (s : State) => (threadReady s.chip die.val core.val slot.val tid.val b t)) 1 2 3 0 5 6 (blkA thA) thA (stThr thA)) ∧
  ((fun (die : Fin 8) (core : Fin 136) (slot : Fin 64) (tid : Fin 2048) (rd rs1 : Fin 32) (rs2 : Fin 32) (b : Block) (t : Thread) (s : State) => (threadReady s.chip die.val core.val slot.val tid.val b t)) 1 2 3 0 5 6 7 (blkA thA) thA (stThr thA)) ∧
  ((fun (die : Fin 8) (core : Fin 136) (slot : Fin 64) (tid : Fin 2048) (rd rs1 rs2 : Fin 32) (b : Block) (t : Thread) (s : State) => (threadReady s.chip die.val core.val slot.val tid.val b t)) 1 2 3 0 5 6 7 (blkA thA) thA (stThr thA)) ∧
  ((fun (die : Fin 8) (core : Fin 136) (slot : Fin 64) (tid : Fin 2048) (rd rs1 : Fin 32) (rs2 : Fin 32) (b : Block) (t : Thread) (s : State) => (threadReady s.chip die.val core.val slot.val tid.val b t)) 1 2 3 0 5 6 7 (blkA thA) thA (stThr thA)) ∧
  ((fun (die : Fin 8) (core : Fin 136) (slot : Fin 64) (tid : Fin 2048) (rd rs1 rs2 : Fin 32) (b : Block) (t : Thread) (s : State) => (threadReady s.chip die.val core.val slot.val tid.val b t)) 1 2 3 0 5 6 7 (blkA thA) thA (stThr thA)) ∧
  ((fun (die : Fin 8) (core : Fin 136) (slot : Fin 64) (tid : Fin 2048) (rd rs1 : Fin 32) (rs2 : Fin 32) (b : Block) (t : Thread) (s : State) => (threadReady s.chip die.val core.val slot.val tid.val b t)) 1 2 3 0 5 6 7 (blkA thA) thA (stThr thA)) ∧
  ((fun (die : Fin 8) (core : Fin 136) (slot : Fin 64) (tid : Fin 2048) (rd rs1 rs2 : Fin 32) (b : Block) (t : Thread) (s : State) => (threadReady s.chip die.val core.val slot.val tid.val b t)) 1 2 3 0 5 6 7 (blkA thA) thA (stThr thA)) ∧
  ((fun (die : Fin 8) (core : Fin 136) (slot : Fin 64) (tid : Fin 2048) (rd rs1 : Fin 32) (flag : Bool) (b : Block) (t : Thread) (s : State) => (threadReady s.chip die.val core.val slot.val tid.val b t)) 1 2 3 0 5 6 true (blkA thA) thA (stThr thA)) ∧
  ((fun (die : Fin 8) (core : Fin 136) (slot : Fin 64) (tid : Fin 2048) (rd rs1 : Fin 32) (flag : Bool) (b : Block) (t : Thread) (s : State) => (threadReady s.chip die.val core.val slot.val tid.val b t)) 1 2 3 0 5 6 true (blkA thA) thA (stThr thA)) ∧
  ((fun (die : Fin 8) (core : Fin 136) (slot : Fin 64) (tid : Fin 2048) (rd rs1 : Fin 32) (rs2 : Fin 32) (b : Block) (t : Thread) (s : State) => (threadReady s.chip die.val core.val slot.val tid.val b t)) 1 2 3 0 5 6 7 (blkA thA) thA (stThr thA)) ∧
  ((fun (die : Fin 8) (core : Fin 136) (slot : Fin 64) (tid : Fin 2048) (rd rs1 rs2 : Fin 32) (b : Block) (t : Thread) (s : State) => (threadReady s.chip die.val core.val slot.val tid.val b t)) 1 2 3 0 5 6 7 (blkA thA) thA (stThr thA)) ∧
  ((fun (die : Fin 8) (core : Fin 136) (slot : Fin 64) (tid : Fin 2048) (rd rs1 : Fin 32) (flag : Bool) (b : Block) (t : Thread) (s : State) => (threadReady s.chip die.val core.val slot.val tid.val b t)) 1 2 3 0 5 6 true (blkA thA) thA (stThr thA)) ∧
  ((fun (die : Fin 8) (core : Fin 136) (slot : Fin 64) (tid : Fin 2048) (rd rs1 : Fin 32) (flag : Bool) (b : Block) (t : Thread) (s : State) => (threadReady s.chip die.val core.val slot.val tid.val b t)) 1 2 3 0 5 6 true (blkA thA) thA (stThr thA)) ∧
  ((fun (die : Fin 8) (core : Fin 136) (slot : Fin 64) (tid : Fin 2048) (rd rs1 : Fin 32) (rs2 : Fin 32) (b : Block) (t : Thread) (s : State) => (threadReady s.chip die.val core.val slot.val tid.val b t)) 1 2 3 0 5 6 7 (blkA thA) thA (stThr thA)) ∧
  ((fun (die : Fin 8) (core : Fin 136) (slot : Fin 64) (tid : Fin 2048) (rd rs1 rs2 : Fin 32) (b : Block) (t : Thread) (s : State) => (threadReady s.chip die.val core.val slot.val tid.val b t)) 1 2 3 0 5 6 7 (blkA thA) thA (stThr thA)) ∧
  ((fun (die : Fin 8) (core : Fin 136) (slot : Fin 64) (tid : Fin 2048) (fn rd rs1 rs2 : Fin 32) (b : Block) (t : Thread) (s : State) (p : Nat) => (threadReady s.chip die.val core.val slot.val tid.val b t) ∧ (fn.val ≤ 0x0A) ∧ (fn.val ≠ 1) ∧ (t.rx rs1.val % 4 = 0) ∧ (s.chip.threadPlace b (t.rx rs1.val) = .here p) ∧ (scratchBase die.val core.val ≤ p) ∧ (p < scratchBase die.val core.val + coreScratch) ∧ (s.chip.placeGood p = true)) 1 2 3 0 2 5 6 7 (blkA thA) thA (stThr thA) (scratchBase 1 2 + 64)) ∧
  ((fun (die : Fin 8) (core : Fin 136) (slot : Fin 64) (tid : Fin 2048) (fn rd rs1 rs2 : Fin 32) (b : Block) (t : Thread) (s : State) => (threadReady s.chip die.val core.val slot.val tid.val b t) ∧ (fn.val ≤ 0x0A) ∧ (¬(fn.val = 1 ∧ rs2.val % 2 = 1))) 1 2 3 0 1 4 6 8 (blkA thA) thA (stThr thA)) ∧
  ((fun (die : Fin 8) (core : Fin 136) (slot : Fin 64) (tid : Fin 2048) (fn rd rs1 rs2 : Fin 32) (b : Block) (t : Thread) (s : State) (p : Nat) => (threadReady s.chip die.val core.val slot.val tid.val b t) ∧ (fn.val ≤ 0x0A) ∧ (fn.val ≠ 1) ∧ (rd.val % 2 = 0) ∧ (rs2.val % 2 = 0) ∧ (t.rx rs1.val % 8 = 0) ∧ (s.chip.threadPlace b (t.rx rs1.val) = .here p) ∧ (scratchBase die.val core.val ≤ p) ∧ (p < scratchBase die.val core.val + coreScratch) ∧ (s.chip.placeGood p = true)) 1 2 3 0 2 4 6 8 (blkA thA) thA (stThr thA) (scratchBase 1 2 + 64)) ∧
  ((fun (die : Fin 8) (core : Fin 136) (slot : Fin 64) (tid : Fin 2048) (fn rd rs1 rs2 : Fin 32) (b : Block) (t : Thread) (s : State) => (threadReady s.chip die.val core.val slot.val tid.val b t) ∧ (fn.val ≤ 0x0A) ∧ (rd.val % 2 = 0) ∧ (rs2.val % 2 = 0) ∧ (¬(fn.val = 1 ∧ rs2.val % 4 ≠ 0))) 1 2 3 0 1 4 6 8 (blkA thA) thA (stThr thA)) ∧
  ((fun (die : Fin 8) (core : Fin 136) (slot : Fin 64) (tid : Fin 2048) (fn rd rs1 rs2 : Fin 32) (b : Block) (t : Thread) (s : State) => (threadReady s.chip die.val core.val slot.val tid.val b t) ∧ (0x0A < fn.val)) 1 2 3 0 11 4 6 8 (blkA thA) thA (stThr thA)) ∧
  ((fun (die : Fin 8) (core : Fin 136) (slot : Fin 64) (tid : Fin 2048) (b : Block) (t : Thread) (tag start rd n : Nat) (sg : Bool) (d : Completion) (s : State) => (s.chip.blockAt die.val core.val slot.val = some b) ∧ (b.threads[tid.val]? = some t) ∧ (t.far = [⟨tag, start, .load rd n sg⟩]) ∧ (s.chip.xport.comps = [(tag, d)]) ∧ (d.status = stOK)) 1 2 3 0 (blkA thL) thL 77 4 5 2 true ⟨1, opLOAD_RSP, 1, 0, 0, [0, 0, 0, 0, 0x34, 0x92]⟩ (stCmp thL)) ∧
  ((fun (die : Fin 8) (core : Fin 136) (slot : Fin 64) (tid : Fin 2048) (b : Block) (t : Thread) (x : Nat × Completion) (o : FarOp) (s : State) => (s.chip.blockAt die.val core.val slot.val = some b) ∧ (b.threads[tid.val]? = some t) ∧ (s.chip.xport.comps.find? (fun x => t.far.any (fun o => o.tag == x.1)) = some x) ∧ (t.far.find? (fun o => o.tag == x.1) = some o)) 1 2 3 0 (blkA thL) thL (77, ⟨1, opLOAD_RSP, 1, 0, 0, [0, 0, 0, 0, 0x34, 0x92]⟩) ⟨77, 4, .load 5 2 true⟩ (stCmp thL)) := by
  iterate 35
    refine ⟨?_, ?_⟩
    · try unfold threadReady
      decide +kernel
  try unfold threadReady
  decide +kernel

theorem witness_ThreadFloatingPointComplete :
  ((fun (die : Fin 8) (core : Fin 136) (slot : Fin 64) (tid : Fin 2048) (rd rs1 rs2 : Fin 32) (b : Block) (t : Thread) (s : State) (rm : Rm) => (threadReady s.chip die.val core.val slot.val tid.val b t) ∧ (t.dynRm = some rm) ∧ (rd.val % 2 = 0) ∧ (rs1.val % 2 = 0) ∧ (rs2.val % 2 = 0)) 1 2 3 0 4 6 8 (blkA thA) thA (stThr thA) .rne) ∧
  ((fun (die : Fin 8) (core : Fin 136) (slot : Fin 64) (tid : Fin 2048) (rd rs1 rs2 : Fin 32) (b : Block) (t : Thread) (s : State) (rm : Rm) => (threadReady s.chip die.val core.val slot.val tid.val b t) ∧ (t.dynRm = some rm) ∧ (rd.val % 2 = 0) ∧ (rs1.val % 2 = 0) ∧ (rs2.val % 2 = 0)) 1 2 3 0 4 6 8 (blkA thA) thA (stThr thA) .rne) ∧
  ((fun (die : Fin 8) (core : Fin 136) (slot : Fin 64) (tid : Fin 2048) (rd rs1 rs2 : Fin 32) (b : Block) (t : Thread) (s : State) (rm : Rm) => (threadReady s.chip die.val core.val slot.val tid.val b t) ∧ (t.dynRm = some rm) ∧ (rd.val % 2 = 0) ∧ (rs1.val % 2 = 0) ∧ (rs2.val % 2 = 0)) 1 2 3 0 4 6 8 (blkA thA) thA (stThr thA) .rne) ∧
  ((fun (die : Fin 8) (core : Fin 136) (slot : Fin 64) (tid : Fin 2048) (rd rs1 rs2 : Fin 32) (b : Block) (t : Thread) (s : State) (rm : Rm) => (threadReady s.chip die.val core.val slot.val tid.val b t) ∧ (t.dynRm = some rm) ∧ (rd.val % 2 = 0) ∧ (rs1.val % 2 = 0) ∧ (rs2.val % 2 = 0)) 1 2 3 0 4 6 8 (blkA thA) thA (stThr thA) .rne) ∧
  ((fun (die : Fin 8) (core : Fin 136) (slot : Fin 64) (tid : Fin 2048) (rd rs1 rs2 : Fin 32) (b : Block) (t : Thread) (s : State) (rm : Rm) => (threadReady s.chip die.val core.val slot.val tid.val b t) ∧ (t.dynRm = some rm) ∧ (rd.val % 2 = 0) ∧ (rs1.val % 2 = 0) ∧ (rs2.val % 2 = 0)) 1 2 3 0 4 6 8 (blkA thA) thA (stThr thA) .rne) ∧
  ((fun (die : Fin 8) (core : Fin 136) (slot : Fin 64) (tid : Fin 2048) (rd rs1 : Fin 32) (b : Block) (t : Thread) (s : State) (rm : Rm) => (threadReady s.chip die.val core.val slot.val tid.val b t) ∧ (t.dynRm = some rm) ∧ (rd.val % 2 = 0) ∧ (rs1.val % 2 = 0)) 1 2 3 0 4 6 (blkA thA) thA (stThr thA) .rne) ∧
  ((fun (die : Fin 8) (core : Fin 136) (slot : Fin 64) (tid : Fin 2048) (rd rs1 rs2 : Fin 32) (b : Block) (t : Thread) (s : State) => (threadReady s.chip die.val core.val slot.val tid.val b t) ∧ (rd.val % 2 = 0) ∧ (rs1.val % 2 = 0) ∧ (rs2.val % 2 = 0)) 1 2 3 0 4 6 8 (blkA thA) thA (stThr thA)) ∧
  ((fun (die : Fin 8) (core : Fin 136) (slot : Fin 64) (tid : Fin 2048) (rd rs1 rs2 : Fin 32) (b : Block) (t : Thread) (s : State) => (threadReady s.chip die.val core.val slot.val tid.val b t) ∧ (rd.val % 2 = 0) ∧ (rs1.val % 2 = 0) ∧ (rs2.val % 2 = 0)) 1 2 3 0 4 6 8 (blkA thA) thA (stThr thA)) ∧
  ((fun (die : Fin 8) (core : Fin 136) (slot : Fin 64) (tid : Fin 2048) (rd rs1 : Fin 32) (b : Block) (t : Thread) (s : State) (rm : Rm) => (threadReady s.chip die.val core.val slot.val tid.val b t) ∧ (t.dynRm = some rm) ∧ (rs1.val % 2 = 0)) 1 2 3 0 5 6 (blkA thA) thA (stThr thA) .rne) ∧
  ((fun (die : Fin 8) (core : Fin 136) (slot : Fin 64) (tid : Fin 2048) (rd rs1 : Fin 32) (b : Block) (t : Thread) (s : State) => (threadReady s.chip die.val core.val slot.val tid.val b t) ∧ (rd.val % 2 = 0)) 1 2 3 0 4 7 (blkA thA) thA (stThr thA)) ∧
  ((fun (die : Fin 8) (core : Fin 136) (slot : Fin 64) (tid : Fin 2048) (rd rs1 : Fin 32) (b : Block) (t : Thread) (s : State) => (threadReady s.chip die.val core.val slot.val tid.val b t) ∧ (rd.val % 2 = 0)) 1 2 3 0 4 7 (blkA thA) thA (stThr thA)) ∧
  ((fun (die : Fin 8) (core : Fin 136) (slot : Fin 64) (tid : Fin 2048) (rd rs1 : Fin 32) (b : Block) (t : Thread) (s : State) (rm : Rm) => (threadReady s.chip die.val core.val slot.val tid.val b t) ∧ (t.dynRm = some rm) ∧ (rs1.val % 2 = 0)) 1 2 3 0 5 6 (blkA thA) thA (stThr thA) .rne) ∧
  ((fun (die : Fin 8) (core : Fin 136) (slot : Fin 64) (tid : Fin 2048) (rd rs1 rs2 : Fin 32) (b : Block) (t : Thread) (s : State) => (threadReady s.chip die.val core.val slot.val tid.val b t) ∧ (rs1.val % 2 = 0) ∧ (rs2.val % 2 = 0)) 1 2 3 0 5 6 8 (blkA thA) thA (stThr thA)) ∧
  ((fun (die : Fin 8) (core : Fin 136) (slot : Fin 64) (tid : Fin 2048) (rd rs1 rs2 : Fin 32) (b : Block) (t : Thread) (s : State) => (threadReady s.chip die.val core.val slot.val tid.val b t) ∧ (rs1.val % 2 = 0) ∧ (rs2.val % 2 = 0)) 1 2 3 0 5 6 8 (blkA thA) thA (stThr thA)) ∧
  ((fun (die : Fin 8) (core : Fin 136) (slot : Fin 64) (tid : Fin 2048) (rd rs1 rs2 : Fin 32) (b : Block) (t : Thread) (s : State) => (threadReady s.chip die.val core.val slot.val tid.val b t) ∧ (rs1.val % 2 = 0) ∧ (rs2.val % 2 = 0)) 1 2 3 0 5 6 8 (blkA thA) thA (stThr thA)) ∧
  ((fun (die : Fin 8) (core : Fin 136) (slot : Fin 64) (tid : Fin 2048) (rd rs1 rs2 : Fin 32) (b : Block) (t : Thread) (s : State) => (threadReady s.chip die.val core.val slot.val tid.val b t) ∧ (rs1.val % 2 = 1) ∧ (t.dynRm ≠ none)) 1 2 3 0 4 7 8 (blkA thA) thA (stThr thA)) := by
  iterate 15
    refine ⟨?_, ?_⟩
    · try unfold threadReady
      decide +kernel
  try unfold threadReady
  decide +kernel

theorem witness_BaseInstructionsComplete :
  ((fun (die : Fin 8) (core : Fin 136) (slot : Fin 64) (tid : Fin 2048) (w : BitVec 32) (b : Block) (t : Thread) (s : State) => (threadReady s.chip die.val core.val slot.val tid.val b t)) 1 2 3 0 0x123452B7 (blkA thA) thA (stThr thA)) ∧
  ((fun (die : Fin 8) (core : Fin 136) (slot : Fin 64) (tid : Fin 2048) (w : BitVec 32) (b : Block) (t : Thread) (s : State) => (threadReady s.chip die.val core.val slot.val tid.val b t) ∧ (iOpcode w.toNat = 0x37)) 1 2 3 0 0x123452B7 (blkA thA) thA (stThr thA)) ∧
  ((fun (die : Fin 8) (core : Fin 136) (slot : Fin 64) (tid : Fin 2048) (w : BitVec 32) (b : Block) (t : Thread) (s : State) => (threadReady s.chip die.val core.val slot.val tid.val b t) ∧ (iOpcode w.toNat = 0x17)) 1 2 3 0 0x12345297 (blkA thA) thA (stThr thA)) ∧
  ((fun (die : Fin 8) (core : Fin 136) (slot : Fin 64) (tid : Fin 2048) (w : BitVec 32) (b : Block) (t : Thread) (s : State) => (threadReady s.chip die.val core.val slot.val tid.val b t) ∧ (iOpcode w.toNat = 0x13) ∧ (iF3 w.toNat ≠ 1) ∧ (iF3 w.toNat ≠ 5)) 1 2 3 0 0xFFF30293 (blkA thA) thA (stThr thA)) ∧
  ((fun (die : Fin 8) (core : Fin 136) (slot : Fin 64) (tid : Fin 2048) (w : BitVec 32) (b : Block) (t : Thread) (s : State) => (threadReady s.chip die.val core.val slot.val tid.val b t) ∧ (iOpcode w.toNat = 0x13) ∧ (iF3 w.toNat = 5) ∧ (iF7 w.toNat = 0 ∨ iF7 w.toNat = 0x20)) 1 2 3 0 0x40335293 (blkA thA) thA (stThr thA)) ∧
  ((fun (die : Fin 8) (core : Fin 136) (slot : Fin 64) (tid : Fin 2048) (w : BitVec 32) (b : Block) (t : Thread) (s : State) => (threadReady s.chip die.val core.val slot.val tid.val b t) ∧ (iOpcode w.toNat = 0x33) ∧ (iF7 w.toNat = 0)) 1 2 3 0 0x007302B3 (blkA thA) thA (stThr thA)) ∧
  ((fun (die : Fin 8) (core : Fin 136) (slot : Fin 64) (tid : Fin 2048) (w : BitVec 32) (b : Block) (t : Thread) (s : State) => (threadReady s.chip die.val core.val slot.val tid.val b t) ∧ (iOpcode w.toNat = 0x33) ∧ (iF7 w.toNat = 0x20) ∧ (iF3 w.toNat = 0 ∨ iF3 w.toNat = 5)) 1 2 3 0 0x407302B3 (blkA thA) thA (stThr thA)) ∧
  ((fun (die : Fin 8) (core : Fin 136) (slot : Fin 64) (tid : Fin 2048) (w : BitVec 32) (b : Block) (t : Thread) (s : State) => (threadReady s.chip die.val core.val slot.val tid.val b t) ∧ (iOpcode w.toNat = 0x33) ∧ (iF7 w.toNat = 1)) 1 2 3 0 0x027342B3 (blkA thA) thA (stThr thA)) ∧
  ((fun (die : Fin 8) (core : Fin 136) (slot : Fin 64) (tid : Fin 2048) (w : BitVec 32) (b : Block) (t : Thread) (s : State) => (threadReady s.chip die.val core.val slot.val tid.val b t) ∧ (iOpcode w.toNat = 0x6F) ∧ (add32 t.pc (immJ w.toNat) % 4 = 0)) 1 2 3 0 0x008002EF (blkA thA) thA (stThr thA)) ∧
  ((fun (die : Fin 8) (core : Fin 136) (slot : Fin 64) (tid : Fin 2048) (w : BitVec 32) (b : Block) (t : Thread) (s : State) => (threadReady s.chip die.val core.val slot.val tid.val b t) ∧ (iOpcode w.toNat = 0x67) ∧ (iF3 w.toNat = 0) ∧ (add32 (t.rx (iRs1 w.toNat)) (immI w.toNat) / 2 * 2 % 4 = 0)) 1 2 3 0 0x000302E7 (blkA thA) thA (stThr thA)) ∧
  ((fun (die : Fin 8) (core : Fin 136) (slot : Fin 64) (tid : Fin 2048) (w : BitVec 32) (b : Block) (t : Thread) (s : State) => (threadReady s.chip die.val core.val slot.val tid.val b t) ∧ (iOpcode w.toNat = 0x63) ∧ (branchTaken (iF3 w.toNat) (t.rx (iRs1 w.toNat)) (t.rx (iRs2 w.toNat)) = some true) ∧ (add32 t.pc (immB w.toNat) % 4 = 0)) 1 2 3 0 0x00731463 (blkA thA) thA (stThr thA)) ∧
  ((fun (die : Fin 8) (core : Fin 136) (slot : Fin 64) (tid : Fin 2048) (w : BitVec 32) (b : Block) (t : Thread) (s : State) => (threadReady s.chip die.val core.val slot.val tid.val b t) ∧ (iOpcode w.toNat = 0x63) ∧ (branchTaken (iF3 w.toNat) (t.rx (iRs1 w.toNat)) (t.rx (iRs2 w.toNat)) = some false)) 1 2 3 0 0x00730463 (blkA thA) thA (stThr thA)) ∧
  ((fun (die : Fin 8) (core : Fin 136) (slot : Fin 64) (tid : Fin 2048) (w : BitVec 32) (b : Block) (t : Thread) (s : State) (p : Nat) => (threadReady s.chip die.val core.val slot.val tid.val b t) ∧ (iOpcode w.toNat = 0x03) ∧ (iF3 w.toNat = 2) ∧ (add32 (t.rx (iRs1 w.toNat)) (immI w.toNat) % 4 = 0) ∧ (s.chip.threadPlace b (add32 (t.rx (iRs1 w.toNat)) (immI w.toNat)) = .here p) ∧ (s.chip.placeGood p = true)) 1 2 3 0 0x00432283 (blkA thA) thA (stThr thA) (scratchBase 1 2 + 68)) ∧
  ((fun (die : Fin 8) (core : Fin 136) (slot : Fin 64) (tid : Fin 2048) (w : BitVec 32) (b : Block) (t : Thread) (s : State) (p : Nat) => (threadReady s.chip die.val core.val slot.val tid.val b t) ∧ (iOpcode w.toNat = 0x23) ∧ (iF3 w.toNat = 2) ∧ (add32 (t.rx (iRs1 w.toNat)) (immS w.toNat) % 4 = 0) ∧ (s.chip.threadPlace b (add32 (t.rx (iRs1 w.toNat)) (immS w.toNat)) = .here p) ∧ (s.chip.placeGood p = true)) 1 2 3 0 0x00732223 (blkA thA) thA (stThr thA) (scratchBase 1 2 + 68)) ∧
  ((fun (die : Fin 8) (core : Fin 136) (slot : Fin 64) (tid : Fin 2048) (w : BitVec 32) (b : Block) (t : Thread) (s : State) => (threadReady s.chip die.val core.val slot.val tid.val b t) ∧ (iOpcode w.toNat = 0x03) ∧ (iF3 w.toNat = 2) ∧ (add32 (t.rx (iRs1 w.toNat)) (immI w.toNat) % 4 ≠ 0)) 1 2 3 0 0x00332283 (blkA thA) thA (stThr thA)) ∧
  ((fun (die : Fin 8) (core : Fin 136) (slot : Fin 64) (tid : Fin 2048) (w : BitVec 32) (b : Block) (t : Thread) (s : State) => (threadReady s.chip die.val core.val slot.val tid.val b t) ∧ (iOpcode w.toNat = 0x03) ∧ (iF3 w.toNat = 2) ∧ (add32 (t.rx (iRs1 w.toNat)) (immI w.toNat) % 4 = 0) ∧ (s.chip.threadPlace b (add32 (t.rx (iRs1 w.toNat)) (immI w.toNat)) = .fault)) 1 2 3 0 0x0005A283 (blkA thA) thA (stThr thA)) ∧
  ((fun (die : Fin 8) (core : Fin 136) (slot : Fin 64) (tid : Fin 2048) (w : BitVec 32) (b : Block) (t : Thread) (s : State) => (threadReady s.chip die.val core.val slot.val tid.val b t) ∧ (iOpcode w.toNat = 0x7F)) 1 2 3 0 0x0000007F (blkA thA) thA (stThr thA)) := by
  iterate 16
    refine ⟨?_, ?_⟩
    · try unfold threadReady
      decide +kernel
  try unfold threadReady
  decide +kernel

theorem witness_CoreCommandsComplete :
  ((fun (die : Fin 8) (core : Fin 136) (slot : Fin 64) (tid : Fin 2048) (cause : Fin 7) (addr : BitVec 32) (b : Block) (s : State) => (s.chip.comp.blocks = [b]) ∧ (s.chip.blockAt die.val core.val slot.val = some b) ∧ (cause.val ≠ 0) ∧ (tid.val < b.bdim) ∧ (s.chip.rd (R.CMP_CORE_ERR_CAUSE die.val core.val) = 0) ∧ (s.chip.cmd.cmds = [])) 1 2 3 0 3 0x1234 (blkA thA) (stThr thA)) ∧
  ((fun (die : Fin 8) (core : Fin 136) (slot : Fin 64) (tid : Fin 2048) (cause : Fin 7) (addr : BitVec 32) (b : Block) (s : State) => (s.chip.blockAt die.val core.val slot.val = some b) ∧ (cause.val ≠ 0) ∧ (tid.val < b.bdim)) 1 2 3 0 3 0x1234 (blkA thA) (stThr thA)) ∧
  ((fun (die : Fin 8) (core : Fin 136) (s : State) => (s.chip.rd (R.CMP_CORE_STATE_STATE die.val core.val) ≠ 5) ∧ (s.chip.comp.queues = []) ∧ (s.chip.comp.blocks = [])) 1 2 (stWith [])) ∧
  ((fun (die : Fin 8) (core : Fin 136) (e : Option (Fin 6)) (s : State) => (s.chip.rd (R.CMP_CORE_STATE_STATE die.val core.val) = 5)) 1 2 none (stWith [(R.CMP_CORE_STATE_STATE 1 2, 5)])) ∧
  ((fun (die : Fin 8) (page : Fin 262144) (s : State) => ((die.val, page.val) ∉ s.chip.mems.sramRetired)) 1 5 (stWith [])) ∧
  ((fun (die : Fin 8) (page : Fin 262144) (s : State) => ((die.val, page.val) ∉ s.chip.mems.sramRetired)) 1 5 (stWith [])) ∧
  ((fun (die : Fin 8) (n : Fin 4) (s : State) => (s.chip.rd (R.CMP_QP_STATUS_STATE die.val n.val) ≠ 4) ∧ (s.chip.qpQueues die.val n.val = []) ∧ (s.chip.cmd.cmds = [])) 1 2 (stWith [])) ∧
  ((fun (req : Requester) (die : Fin 8) (core : Fin 136) (bh : Bool) (s : State) => (writeAccepted s.chip req (R.CMP_CORE_CTRL die.val core.val)) ∧ (s.chip.rd (R.CMP_CORE_STATE_STATE die.val core.val) = 2 ∨ s.chip.rd (R.CMP_CORE_STATE_STATE die.val core.val) = 3)) (.pcu 0) 1 2 true (stWith [hold0, (R.CMP_CORE_STATE_STATE 1 2, 2)])) ∧
  ((fun (req : Requester) (die : Fin 8) (core : Fin 136) (bh : Bool) (s : State) => (writeAccepted s.chip req (R.CMP_CORE_CTRL die.val core.val)) ∧ (s.chip.rd (R.CMP_CORE_STATE_STATE die.val core.val) = 4)) (.pcu 0) 1 2 true (stWith [hold0, (R.CMP_CORE_STATE_STATE 1 2, 4)])) ∧
  ((fun (req : Requester) (die : Fin 8) (core : Fin 136) (bh : Bool) (s : State) => (writeAccepted s.chip req (R.CMP_CORE_CTRL die.val core.val))) (.pcu 0) 1 2 true (stWith [hold0, (R.CMP_CORE_ERR_CAUSE 1 2, 4)])) ∧
  ((fun (src : CmdSrc) (idx : BitVec 16) (l : Launch) (k slot a : Nat) (s : State) => (s.chip.comp.launches = [l]) ∧ (l.src = src) ∧ (l.idx = idx.toNat) ∧ (l.next < l.blocks) ∧ (l.cores.findSome? (s.chip.blockRoom l) = some (k, slot, a)) ∧ (Memory.wf s.mem = true)) (.queue 1 2) 7 lchA 2 0 0 (stOf [(R.CMP_CORE_STATE_LOGICAL 1 2, 0)] (fun c => c.onComp (fun x => { x with launches := [lchA] })))) ∧
  ((fun (src : CmdSrc) (idx : BitVec 16) (l : Launch) (s : State) => (s.chip.comp.launches.find? (fun l => l.src == src && l.idx == idx.toNat) = some l)) (.queue 1 2) 7 lchA (stOf [(R.CMP_CORE_STATE_LOGICAL 1 2, 0)] (fun c => c.onComp (fun x => { x with launches := [lchA] })))) ∧
  ((fun (src : CmdSrc) (idx : BitVec 16) (l : Launch) (s : State) => (s.chip.comp.launches = [l]) ∧ (l.cores.findSome? (s.chip.blockRoom l) = none)) (.queue 1 2) 7 { lchA with cores := [] } (stOf [] (fun c => c.onComp (fun x => { x with launches := [{ lchA with cores := [] }] })))) ∧
  ((fun (die : Fin 8) (core : Fin 136) (slot : Fin 64) (b : Block) (s : State) => (s.chip.comp.blocks = [b]) ∧ (s.chip.blockAt die.val core.val slot.val = some b) ∧ (b.threads.all (fun t => t.wait == .ended) = true) ∧ (s.chip.comp.launches = [])) 1 2 3 (blkA { thA with wait := .ended }) (stThr { thA with wait := .ended })) ∧
  ((fun (die : Fin 8) (core : Fin 136) (slot : Fin 64) (b : Block) (l : Launch) (s : State) => (s.chip.blockAt die.val core.val slot.val = some b) ∧ (b.threads.all (fun t => t.wait == .ended) = true) ∧ ((s.chip.dropBlocks (fun y => y.die == die.val && y.core == core.val && y.slot == slot.val)).comp.launches.find? (fun l => l.src == b.src && l.idx == b.idx) = some l) ∧ (l.blocks ≤ l.ended + 1)) 1 2 3 (blkA { thA with wait := .ended }) { lchA with blocks := 1 } ((stThr { thA with wait := .ended }).onChip (fun c => c.onComp (fun x => { x with launches := [{ lchA with blocks := 1 }] })))) ∧
  ((fun (die : Fin 8) (core : Fin 136) (slot : Fin 64) (b : Block) (l : Launch) (s : State) => (s.chip.blockAt die.val core.val slot.val = some b) ∧ (b.threads.all (fun t => t.wait == .ended) = true) ∧ ((s.chip.dropBlocks (fun y => y.die == die.val && y.core == core.val && y.slot == slot.val)).comp.launches.find? (fun l => l.src == b.src && l.idx == b.idx) = some l) ∧ (l.ended + 1 < l.blocks)) 1 2 3 (blkA { thA with wait := .ended }) lchA ((stThr { thA with wait := .ended }).onChip (fun c => c.onComp (fun x => { x with launches := [lchA] })))) ∧
  ((fun (die : Fin 8) (core : Fin 136) (slot : Fin 64) (b : Block) (s : State) => (s.chip.blockAt die.val core.val slot.val = some b) ∧ (b.threads.all (fun t => t.wait == .ended) = false)) 1 2 3 (blkA thA) (stThr thA)) := by
  iterate 16
    refine ⟨?_, ?_⟩
    · try unfold writeAccepted
      decide +kernel
  try unfold writeAccepted
  decide +kernel

theorem witness_SpecialFunctionDescriptorsComplete :
  ((fun (die : Fin 8) (core : Fin 136) (x : Desc) (s : State) => (descReady s.chip die.val core.val 1 1 (sfeCheck false false x) x)) 1 2 (dscB [1, 1] 0 [(20, 1, 64), (24, 1, 2), (28, 1, 16)]) (stDsc 1 (dscB [1, 1] 0 [(20, 1, 64), (24, 1, 2), (28, 1, 16)]))) ∧
  ((fun (die : Fin 8) (core : Fin 136) (x : Desc) (s : State) => (descReady s.chip die.val core.val 1 2 (sfeCheck false false x) x)) 1 2 (dscB [2, 1] 0 [(20, 1, 64), (24, 1, 2), (28, 1, 16)]) (stDsc 1 (dscB [2, 1] 0 [(20, 1, 64), (24, 1, 2), (28, 1, 16)]))) ∧
  ((fun (die : Fin 8) (core : Fin 136) (x : Desc) (s : State) => (descReady s.chip die.val core.val 1 3 (sfeCheck false false x) x)) 1 2 (dscB [3, 1] 0 [(20, 1, 64), (24, 1, 2), (28, 1, 16)]) (stDsc 1 (dscB [3, 1] 0 [(20, 1, 64), (24, 1, 2), (28, 1, 16)]))) ∧
  ((fun (die : Fin 8) (core : Fin 136) (x : Desc) (s : State) => (descReady s.chip die.val core.val 1 4 (sfeCheck false false x) x)) 1 2 (dscB [4, 1] 0 [(20, 1, 64), (24, 1, 2), (28, 1, 16)]) (stDsc 1 (dscB [4, 1] 0 [(20, 1, 64), (24, 1, 2), (28, 1, 16)]))) ∧
  ((fun (die : Fin 8) (core : Fin 136) (x : Desc) (s : State) => (descReady s.chip die.val core.val 1 5 (sfeCheck false false x) x)) 1 2 (dscB [5, 1] 0 [(20, 1, 64), (24, 1, 2), (28, 1, 16)]) (stDsc 1 (dscB [5, 1] 0 [(20, 1, 64), (24, 1, 2), (28, 1, 16)]))) ∧
  ((fun (die : Fin 8) (core : Fin 136) (x : Desc) (s : State) => (descReady s.chip die.val core.val 1 6 (sfeCheck false false x) x)) 1 2 (dscB [6, 1] 0 [(20, 1, 64), (24, 1, 2), (28, 1, 16)]) (stDsc 1 (dscB [6, 1] 0 [(20, 1, 64), (24, 1, 2), (28, 1, 16)]))) ∧
  ((fun (die : Fin 8) (core : Fin 136) (x : Desc) (s : State) => (descReady s.chip die.val core.val 1 7 (sfeCheck false false x) x)) 1 2 (dscB [7, 1] 0 [(20, 1, 64), (24, 1, 2), (28, 1, 16)]) (stDsc 1 (dscB [7, 1] 0 [(20, 1, 64), (24, 1, 2), (28, 1, 16)]))) ∧
  ((fun (die : Fin 8) (core : Fin 136) (x : Desc) (s : State) => (descReady s.chip die.val core.val 1 8 (sfeCheck true false x) x)) 1 2 (dscB [8, 1] 0 [(20, 1, 64), (24, 1, 4), (32, 1, 2), (36, 1, 128)]) (stDsc 1 (dscB [8, 1] 0 [(20, 1, 64), (24, 1, 4), (32, 1, 2), (36, 1, 128)]))) ∧
  ((fun (die : Fin 8) (core : Fin 136) (a : Nat) (x : Desc) (s : State) => (descReady s.chip die.val core.val 1 9 (sfeCheck true false x) x) ∧ (outsideScratch die.val core.val a)) 1 2 7 (dscB [9, 1] 0 [(20, 1, 64), (24, 1, 4), (32, 1, 2), (36, 1, 128)]) (stDsc 1 (dscB [9, 1] 0 [(20, 1, 64), (24, 1, 4), (32, 1, 2), (36, 1, 128)]))) ∧
  ((fun (die : Fin 8) (core : Fin 136) (x : Desc) (s : State) => (descReady s.chip die.val core.val 1 10 (sfeCheck false true x) x)) 1 2 (dscB [10, 1] 0 [(20, 1, 64), (24, 1, 4), (43, 1, 64)]) (stDsc 1 (dscB [10, 1] 0 [(20, 1, 64), (24, 1, 4), (43, 1, 64)]))) ∧
  ((fun (die : Fin 8) (core : Fin 136) (x : Desc) (s : State) => (s.chip.startsDesc die.val core.val 1 = some x) ∧ (x.opc = 1) ∧ (x.headerGood 1 = false)) 1 2 (dscB [1, 2] 0 [(24, 1, 4)]) (stDsc 1 (dscB [1, 2] 0 [(24, 1, 4)]))) ∧
  ((fun (die : Fin 8) (core : Fin 136) (q : Fin 8) (x : Desc) (s : State) => (s.chip.descs die.val core.val q.val = [x]) ∧ (s.chip.rd (R.CMP_CORE_STATE_STATE die.val core.val) ≠ 5) ∧ (s.chip.depMet die.val core.val x = true) ∧ (x.opc = 0) ∧ (s.chip.descCheck die.val core.val q.val x 0 = 0) ∧ (s.chip.comp.done = []) ∧ (x.cmd = none) ∧ (s.chip.comp.pushers = [])) 1 2 3 (dscB [0, 3] 0 []) (stDsc 3 (dscB [0, 3] 0 []))) ∧
  ((fun (die : Fin 8) (core : Fin 136) (q : Fin 8) (x : Desc) (s : State) => ((s.chip.descs die.val core.val q.val).head? = some x) ∧ (s.chip.rd (R.CMP_CORE_STATE_STATE die.val core.val) ≠ 5) ∧ (s.chip.depMet die.val core.val x = true) ∧ (x.opc = 0)) 1 2 3 (dscB [0, 3] 0 []) (stDsc 3 (dscB [0, 3] 0 []))) ∧
  ((fun (die : Fin 8) (core : Fin 136) (q : Fin 8) (st : Nat) (x : Desc) (s : State) => (s.chip.descs die.val core.val q.val = [x]) ∧ (s.chip.rd (R.CMP_CORE_STATE_STATE die.val core.val) ≠ 5) ∧ (x.begun = true) ∧ (x.status = some st) ∧ (s.chip.comp.done = []) ∧ (x.cmd = none) ∧ (s.chip.comp.pushers = [])) 1 2 3 9 { (dscB [0, 3] 0 []) with begun := true, status := some 9 } (stDsc 3 { (dscB [0, 3] 0 []) with begun := true, status := some 9 })) ∧
  ((fun (die : Fin 8) (core : Fin 136) (q : Fin 8) (x : Desc) (s : State) => (s.chip.descs die.val core.val q.val = [x]) ∧ (s.chip.rd (R.CMP_CORE_STATE_STATE die.val core.val) ≠ 5) ∧ (s.chip.on (R.CMP_CORE_EQ_SKIP die.val core.val q.val) = true) ∧ (x.begun = false) ∧ (x.opc ≠ 0) ∧ (s.chip.comp.done = []) ∧ (x.cmd = none) ∧ (s.chip.comp.pushers = [])) 1 2 3 (dscB [1, 3] 0 []) (stSkip 3 (dscB [1, 3] 0 []))) ∧
  ((fun (die : Fin 8) (core : Fin 136) (q : Fin 8) (x : Desc) (st : Nat) (s : State) => ((s.chip.descs die.val core.val q.val).head? = some x) ∧ (s.chip.rd (R.CMP_CORE_STATE_STATE die.val core.val) ≠ 5) ∧ (s.chip.on (R.CMP_CORE_EQ_SKIP die.val core.val q.val) = false) ∧ (x.begun = true) ∧ (x.status = some st) ∧ (q.val ≠ 0)) 1 2 3 { (dscB [0, 3] 0 []) with begun := true, status := some 9 } 9 (stDsc 3 { (dscB [0, 3] 0 []) with begun := true, status := some 9 })) ∧
  ((fun (die : Fin 8) (core : Fin 136) (x : Desc) (st : Nat) (s : State) => ((s.chip.descs die.val core.val 0).head? = some x) ∧ (s.chip.rd (R.CMP_CORE_STATE_STATE die.val core.val) ≠ 5) ∧ (s.chip.on (R.CMP_CORE_EQ_SKIP die.val core.val 0) = false) ∧ (x.begun = true) ∧ (x.status = some st)) 1 2 { (dscB [1, 0] 0 []) with begun := true, status := some 9 } 9 (stDsc 0 { (dscB [1, 0] 0 []) with begun := true, status := some 9 })) ∧
  ((fun (die : Fin 8) (core : Fin 136) (q : Fin 8) (x : Desc) (s : State) => ((s.chip.descs die.val core.val q.val).head? = some x) ∧ (s.chip.rd (R.CMP_CORE_STATE_STATE die.val core.val) ≠ 5) ∧ (s.chip.on (R.CMP_CORE_EQ_SKIP die.val core.val q.val) = true) ∧ (x.begun = false) ∧ (x.opc ≠ 0)) 1 2 3 (dscB [2, 3] 0 []) (stSkip 3 (dscB [2, 3] 0 []))) ∧
  ((fun (die : Fin 8) (core : Fin 136) (q : Fin 8) (x : Desc) (s : State) => ((s.chip.descs die.val core.val q.val).head? = some x) ∧ (s.chip.rd (R.CMP_CORE_STATE_STATE die.val core.val) ≠ 5) ∧ (s.chip.on (R.CMP_CORE_EQ_SKIP die.val core.val q.val) = false) ∧ (x.begun = false) ∧ (engineTop q.val < x.opc) ∧ (s.chip.depMet die.val core.val x = true)) 1 2 3 (dscB [0x20, 3] 0 []) (stDsc 3 (dscB [0x20, 3] 0 []))) ∧
  ((fun (die : Fin 8) (core : Fin 136) (q : Fin 8) (x : Desc) (s : State) => ((s.chip.descs die.val core.val q.val).head? = some x) ∧ (s.chip.rd (R.CMP_CORE_STATE_STATE die.val core.val) ≠ 5) ∧ (s.chip.on (R.CMP_CORE_EQ_SKIP die.val core.val q.val) = false) ∧ (x.begun = true) ∧ (x.status = none) ∧ ((((s.moverStep die.val core.val q.val x.ticket).chip.descs die.val core.val q.val).head?).bind (·.status) = none)) 1 2 5 { (dscB [1, 5] 0 []) with begun := true, work := [⟨0, 64, [(128, 32)], [], 0, 0, none⟩], total := 1 } (stDsc 5 { (dscB [1, 5] 0 []) with begun := true, work := [⟨0, 64, [(128, 32)], [], 0, 0, none⟩], total := 1 })) := by
  iterate 19
    refine ⟨?_, ?_⟩
    · try unfold descReady
      try unfold outsideScratch
      decide +kernel
  try unfold descReady
  try unfold outsideScratch
  decide +kernel

theorem witness_MovingDescriptorsComplete :
  ((fun (die : Fin 8) (core : Fin 136) (p q : Nat) (x : Desc) (s : State) => (descReady s.chip die.val core.val 2 1 (gseCheck false x) x) ∧ (x.par 32 4 = 1) ∧ (s.scrNat die.val core.val (x.par 24 4) 4 < x.par 36 4) ∧ (cuts (s.chip.scrGlobal die.val core.val (x.par 28 4)) (x.par 44 2) = [(0, x.par 44 2)]) ∧ (pieces (gseAddr x (s.scrNat die.val core.val (x.par 24 4) 4) % 2 ^ 64) (x.par 44 2) = [(gseAddr x (s.scrNat die.val core.val (x.par 24 4) 4), x.par 44 2)]) ∧ (s.chip.globalPlace die.val (s.chip.coreOwner die.val core.val) (gseAddr x (s.scrNat die.val core.val (x.par 24 4) 4)) = .here p) ∧ (s.chip.globalPlace die.val (s.chip.coreOwner die.val core.val) (s.chip.scrGlobal die.val core.val (x.par 28 4)) = .here q) ∧ (s.chip.placeGood p = true) ∧ (s.chip.placeGood q = true)) 1 2 (scratchBase 1 2 + 256) (scratchBase 1 2 + 128) (dscB [1, 2] 0 [(16, 8, scratchBase 1 2 + 256), (24, 4, 0), (28, 4, 128), (32, 4, 1), (36, 4, 5), (40, 4, 4), (44, 2, 4)]) (stMov 2 (dscB [1, 2] 0 [(16, 8, scratchBase 1 2 + 256), (24, 4, 0), (28, 4, 128), (32, 4, 1), (36, 4, 5), (40, 4, 4), (44, 2, 4)]))) ∧
  ((fun (die : Fin 8) (core : Fin 136) (q : Nat) (x : Desc) (s : State) => (descReady s.chip die.val core.val 2 1 (gseCheck false x) x) ∧ (x.par 32 4 = 1) ∧ (x.par 36 4 ≤ s.scrNat die.val core.val (x.par 24 4) 4) ∧ (cuts (s.chip.scrGlobal die.val core.val (x.par 28 4)) (x.par 44 2) = [(0, x.par 44 2)]) ∧ (s.chip.globalPlace die.val (s.chip.coreOwner die.val core.val) (s.chip.scrGlobal die.val core.val (x.par 28 4)) = .here q) ∧ (s.chip.placeGood q = true)) 1 2 (scratchBase 1 2 + 128) (dscB [1, 2] 0 [(16, 8, scratchBase 1 2 + 256), (24, 4, 0), (28, 4, 128), (32, 4, 1), (36, 4, 0), (40, 4, 4), (44, 2, 4)]) (stMov 2 (dscB [1, 2] 0 [(16, 8, scratchBase 1 2 + 256), (24, 4, 0), (28, 4, 128), (32, 4, 1), (36, 4, 0), (40, 4, 4), (44, 2, 4)]))) ∧
  ((fun (die : Fin 8) (core : Fin 136) (p : Nat) (x : Desc) (s : State) => (descReady s.chip die.val core.val 2 2 (gseCheck false x) x) ∧ (x.par 32 4 = 1) ∧ (s.scrNat die.val core.val (x.par 24 4) 4 < x.par 36 4) ∧ (cuts (gseAddr x (s.scrNat die.val core.val (x.par 24 4) 4)) (x.par 44 2) = [(0, x.par 44 2)]) ∧ (gseAddr x (s.scrNat die.val core.val (x.par 24 4) 4) < 2 ^ 64) ∧ (s.chip.globalPlace die.val (s.chip.coreOwner die.val core.val) (gseAddr x (s.scrNat die.val core.val (x.par 24 4) 4)) = .here p) ∧ (s.chip.placeGood p = true)) 1 2 (scratchBase 1 2 + 256) (dscB [2, 2] 0 [(16, 8, scratchBase 1 2 + 256), (24, 4, 0), (28, 4, 128), (32, 4, 1), (36, 4, 5), (40, 4, 4), (44, 2, 4)]) (stMov 2 (dscB [2, 2] 0 [(16, 8, scratchBase 1 2 + 256), (24, 4, 0), (28, 4, 128), (32, 4, 1), (36, 4, 5), (40, 4, 4), (44, 2, 4)]))) ∧
  ((fun (die : Fin 8) (core : Fin 136) (x : Desc) (s : State) => (descReady s.chip die.val core.val 2 2 (gseCheck false x) x) ∧ (x.par 32 4 = 1) ∧ (x.par 36 4 ≤ s.scrNat die.val core.val (x.par 24 4) 4)) 1 2 (dscB [2, 2] 0 [(16, 8, scratchBase 1 2 + 256), (24, 4, 0), (28, 4, 128), (32, 4, 1), (36, 4, 0), (40, 4, 4), (44, 2, 4)]) (stMov 2 (dscB [2, 2] 0 [(16, 8, scratchBase 1 2 + 256), (24, 4, 0), (28, 4, 128), (32, 4, 1), (36, 4, 0), (40, 4, 4), (44, 2, 4)]))) ∧
  ((fun (die : Fin 8) (core : Fin 136) (p : Nat) (x : Desc) (s : State) => (descReady s.chip die.val core.val 2 3 (gseCheck true x) x) ∧ (x.par 32 4 = 1) ∧ (x.par 44 2 = 4) ∧ (s.scrNat die.val core.val (x.par 24 4) 4 < x.par 36 4) ∧ (gseAddr x (s.scrNat die.val core.val (x.par 24 4) 4) < 2 ^ 64) ∧ (s.chip.globalPlace die.val (s.chip.coreOwner die.val core.val) (gseAddr x (s.scrNat die.val core.val (x.par 24 4) 4)) = .here p) ∧ (s.chip.placeGood p = true)) 1 2 (scratchBase 1 2 + 256) (dscB [3, 2] 0 [(16, 8, scratchBase 1 2 + 256), (24, 4, 0), (28, 4, 128), (32, 4, 1), (36, 4, 5), (40, 4, 4), (44, 2, 4)]) (stMov 2 (dscB [3, 2] 0 [(16, 8, scratchBase 1 2 + 256), (24, 4, 0), (28, 4, 128), (32, 4, 1), (36, 4, 5), (40, 4, 4), (44, 2, 4)]))) ∧
  ((fun (die : Fin 8) (core : Fin 136) (n : Fin 3) (a b p q : Nat) (x : Desc) (s : State) => (descReady s.chip die.val core.val (5 + n.val) 1 (dmeCheck x 0) x) ∧ (dmeRows x = [(a, b)]) ∧ (cuts b (x.par 32 4) = [(0, x.par 32 4)]) ∧ (b < 2 ^ 64) ∧ (a < 2 ^ 64) ∧ (pieces (a % 2 ^ 64) (x.par 32 4) = [(a, x.par 32 4)]) ∧ (s.chip.globalPlace die.val (s.chip.coreOwner die.val core.val) (a) = .here p) ∧ (s.chip.placeGood p = true) ∧ (bitOf (x.par 58 1) 2 = false) ∧ (bitOf (x.par 58 1) 0 = false) ∧ (s.chip.globalPlace die.val (s.chip.coreOwner die.val core.val) (b) = .here q) ∧ (s.chip.placeGood q = true)) 1 2 0 (scratchBase 1 2 + 256) (scratchBase 1 2 + 128) (scratchBase 1 2 + 256) (scratchBase 1 2 + 128) (dscB [1, 5] 0 [(16, 8, scratchBase 1 2 + 256), (24, 8, scratchBase 1 2 + 128), (32, 4, 32)]) (stMov 5 (dscB [1, 5] 0 [(16, 8, scratchBase 1 2 + 256), (24, 8, scratchBase 1 2 + 128), (32, 4, 32)]))) ∧
  ((fun (die : Fin 8) (core : Fin 136) (n : Fin 3) (a b p : Nat) (x : Desc) (s : State) => (descReady s.chip die.val core.val (5 + n.val) 2 (reduceCheck x) x) ∧ (dmeRows x = [(a, b)]) ∧ (cuts b (x.par 32 4) = [(0, x.par 32 4)]) ∧ (b < 2 ^ 64) ∧ (a < 2 ^ 64) ∧ (pieces (a % 2 ^ 64) (x.par 32 4) = [(a, x.par 32 4)]) ∧ (s.chip.globalPlace die.val (s.chip.coreOwner die.val core.val) (a) = .here p) ∧ (s.chip.placeGood p = true) ∧ (inDieMemory die.val (b % 2 ^ 46) = true) ∧ (b / 2 ^ 46 = s.chip.node)) 1 2 0 (scratchBase 1 2 + 256) (scratchBase 1 2 + 128) (scratchBase 1 2 + 256) (dscB [2, 5] 0 [(16, 8, scratchBase 1 2 + 256), (24, 8, scratchBase 1 2 + 128), (32, 4, 32)]) (stMov 5 (dscB [2, 5] 0 [(16, 8, scratchBase 1 2 + 256), (24, 8, scratchBase 1 2 + 128), (32, 4, 32)]))) ∧
  ((fun (die : Fin 8) (core : Fin 136) (n : Fin 3) (a b p : Nat) (x : Desc) (s : State) => (descReady s.chip die.val core.val (5 + n.val) 2 (reduceCheck x) x) ∧ (dmeRows x = [(a, b)]) ∧ (cuts b (x.par 32 4) = [(0, x.par 32 4)]) ∧ (b < 2 ^ 64) ∧ (a < 2 ^ 64) ∧ (pieces (a % 2 ^ 64) (x.par 32 4) = [(a, x.par 32 4)]) ∧ (s.chip.globalPlace die.val (s.chip.coreOwner die.val core.val) (a) = .here p) ∧ (s.chip.placeGood p = true) ∧ (inDieMemory die.val (b % 2 ^ 46) = false)) 1 2 0 (scratchBase 1 2 + 256) 128 (scratchBase 1 2 + 256) (dscB [2, 5] 0 [(16, 8, scratchBase 1 2 + 256), (24, 8, 128), (32, 4, 32)]) (stMov 5 (dscB [2, 5] 0 [(16, 8, scratchBase 1 2 + 256), (24, 8, 128), (32, 4, 32)]))) ∧
  ((fun (die : Fin 8) (core : Fin 136) (n : Fin 3) (a b p : Nat) (x : Desc) (s : State) => (descReady s.chip die.val core.val (5 + n.val) 3 (mcastCheck x) x) ∧ (dmeRows x = [(a, b)]) ∧ (cuts b (x.par 32 4) = [(0, x.par 32 4)]) ∧ (b < 2 ^ 64) ∧ (a < 2 ^ 64) ∧ (pieces (a % 2 ^ 64) (x.par 32 4) = [(a, x.par 32 4)]) ∧ (s.chip.globalPlace die.val (s.chip.coreOwner die.val core.val) (a) = .here p) ∧ (s.chip.placeGood p = true)) 1 2 0 (scratchBase 1 2 + 256) 128 (scratchBase 1 2 + 256) (dscB [3, 5] 0 [(16, 8, scratchBase 1 2 + 256), (24, 8, 128), (32, 4, 32)]) (stMov 5 (dscB [3, 5] 0 [(16, 8, scratchBase 1 2 + 256), (24, 8, 128), (32, 4, 32)]))) ∧
  ((fun (die : Fin 8) (core : Fin 136) (n : Fin 3) (a b p q : Nat) (f : Xfer) (x : Desc) (s : State) => (descReady s.chip die.val core.val (5 + n.val) 4 (s.chip.streamCheck die.val core.val x) x) ∧ (streamParts x = [f]) ∧ (f.parts = [(a, b)]) ∧ (f.got = []) ∧ (f.how = 0) ∧ (f.flight = none) ∧ (f.gate ≤ ((getKey (fget (x.par 59 5) 20 5) s.chip.sync.objs).map (·.count)).getD 0 + 2 ^ (x.par 59 5 % 32)) ∧ (s.chip.globalPlace die.val (s.chip.coreOwner die.val core.val) (a) = .here p) ∧ (s.chip.globalPlace die.val (s.chip.coreOwner die.val core.val) (f.dst) = .here q) ∧ (s.chip.placeGood p = true) ∧ (s.chip.placeGood q = true)) 1 2 0 (scratchBase 1 2 + 256) 64 (scratchBase 1 2 + 256) (sramBase 1 0) ((streamParts (dscB [4, 5] 0 [(16, 8, scratchBase 1 2 + 256), (24, 8, sramBase 1 0), (32, 4, 64), (58, 1, 1), (59, 5, 12 + 32 * 9)])).headD ⟨0, 0, [], [], 0, 0, none⟩) (dscB [4, 5] 0 [(16, 8, scratchBase 1 2 + 256), (24, 8, sramBase 1 0), (32, 4, 64), (58, 1, 1), (59, 5, 12 + 32 * 9)]) (stMov 5 (dscB [4, 5] 0 [(16, 8, scratchBase 1 2 + 256), (24, 8, sramBase 1 0), (32, 4, 64), (58, 1, 1), (59, 5, 12 + 32 * 9)]))) ∧
  ((fun (die : Fin 8) (core : Fin 136) (n : Fin 3) (a b q : Nat) (x : Desc) (s : State) => (descReady s.chip die.val core.val (5 + n.val) 5 (dmeCheck x 0) x) ∧ (dmeRows x = [(a, b)]) ∧ (cuts b (x.par 32 4) = [(0, x.par 32 4)]) ∧ (b < 2 ^ 64) ∧ (bitOf (x.par 58 1) 0 = false) ∧ (s.chip.globalPlace die.val (s.chip.coreOwner die.val core.val) (b) = .here q) ∧ (s.chip.placeGood q = true)) 1 2 0 0x0807060504030201 (scratchBase 1 2 + 128) (scratchBase 1 2 + 128) (dscB [5, 5] 0 [(16, 8, 0x0807060504030201), (24, 8, scratchBase 1 2 + 128), (32, 4, 32)]) (stMov 5 (dscB [5, 5] 0 [(16, 8, 0x0807060504030201), (24, 8, scratchBase 1 2 + 128), (32, 4, 32)]))) ∧
  ((fun (die : Fin 8) (core : Fin 136) (n : Fin 3) (p : Nat) (x : Desc) (s : State) => (descReady s.chip die.val core.val (5 + n.val) 6 (atomicCheck x) x) ∧ (x.par 59 5 ≠ 1) ∧ (s.chip.globalPlace die.val (s.chip.coreOwner die.val core.val) (x.par 24 8) = .here p) ∧ (s.chip.placeGood p = true) ∧ (bitOf (x.par 58 1) 0 = false)) 1 2 0 (sramBase 1 0) (dscB [6, 5] 0 [(16, 8, 256), (24, 8, sramBase 1 0), (32, 4, 4), (40, 4, 128), (59, 5, 0)]) (stMov 5 (dscB [6, 5] 0 [(16, 8, 256), (24, 8, sramBase 1 0), (32, 4, 4), (40, 4, 128), (59, 5, 0)]))) ∧
  ((fun (die : Fin 8) (core : Fin 136) (x : Desc) (s : State) => (descReady s.chip die.val core.val 2 1 (gseCheck false x) x)) 1 2 (dscB [1, 2] 0 [(16, 8, scratchBase 1 2 + 256), (24, 4, 0), (28, 4, 128), (32, 4, 1), (36, 4, 0), (40, 4, 4), (44, 2, 4)]) (stMov 2 (dscB [1, 2] 0 [(16, 8, scratchBase 1 2 + 256), (24, 4, 0), (28, 4, 128), (32, 4, 1), (36, 4, 0), (40, 4, 4), (44, 2, 4)]))) ∧
  ((fun (die : Fin 8) (core : Fin 136) (x : Desc) (s : State) => (descReady s.chip die.val core.val 2 2 (gseCheck false x) x)) 1 2 (dscB [2, 2] 0 [(16, 8, scratchBase 1 2 + 256), (24, 4, 0), (28, 4, 128), (32, 4, 1), (36, 4, 5), (40, 4, 4), (44, 2, 4)]) (stMov 2 (dscB [2, 2] 0 [(16, 8, scratchBase 1 2 + 256), (24, 4, 0), (28, 4, 128), (32, 4, 1), (36, 4, 5), (40, 4, 4), (44, 2, 4)]))) ∧
  ((fun (die : Fin 8) (core : Fin 136) (x : Desc) (s : State) => (descReady s.chip die.val core.val 2 3 (gseCheck true x) x)) 1 2 (dscB [3, 2] 0 [(16, 8, scratchBase 1 2 + 256), (24, 4, 0), (28, 4, 128), (32, 4, 1), (36, 4, 5), (40, 4, 4), (44, 2, 4)]) (stMov 2 (dscB [3, 2] 0 [(16, 8, scratchBase 1 2 + 256), (24, 4, 0), (28, 4, 128), (32, 4, 1), (36, 4, 5), (40, 4, 4), (44, 2, 4)]))) ∧
  ((fun (die : Fin 8) (core : Fin 136) (n : Fin 3) (x : Desc) (s : State) => (descReady s.chip die.val core.val (5 + n.val) 1 (dmeCheck x 0) x)) 1 2 0 (dscB [1, 5] 0 [(16, 8, scratchBase 1 2 + 256), (24, 8, scratchBase 1 2 + 128), (32, 4, 32)]) (stMov 5 (dscB [1, 5] 0 [(16, 8, scratchBase 1 2 + 256), (24, 8, scratchBase 1 2 + 128), (32, 4, 32)]))) ∧
  ((fun (die : Fin 8) (core : Fin 136) (n : Fin 3) (x : Desc) (s : State) => (descReady s.chip die.val core.val (5 + n.val) 2 (reduceCheck x) x)) 1 2 0 (dscB [2, 5] 0 [(16, 8, scratchBase 1 2 + 256), (24, 8, scratchBase 1 2 + 128), (32, 4, 32)]) (stMov 5 (dscB [2, 5] 0 [(16, 8, scratchBase 1 2 + 256), (24, 8, scratchBase 1 2 + 128), (32, 4, 32)]))) ∧
  ((fun (die : Fin 8) (core : Fin 136) (n : Fin 3) (x : Desc) (s : State) => (descReady s.chip die.val core.val (5 + n.val) 3 (mcastCheck x) x)) 1 2 0 (dscB [3, 5] 0 [(16, 8, scratchBase 1 2 + 256), (24, 8, 128), (32, 4, 32)]) (stMov 5 (dscB [3, 5] 0 [(16, 8, scratchBase 1 2 + 256), (24, 8, 128), (32, 4, 32)]))) ∧
  ((fun (die : Fin 8) (core : Fin 136) (n : Fin 3) (x : Desc) (s : State) => (descReady s.chip die.val core.val (5 + n.val) 4 (s.chip.streamCheck die.val core.val x) x)) 1 2 0 (dscB [4, 5] 0 [(16, 8, scratchBase 1 2 + 256), (24, 8, sramBase 1 0), (32, 4, 64), (58, 1, 1), (59, 5, 12 + 32 * 9)]) (stMov 5 (dscB [4, 5] 0 [(16, 8, scratchBase 1 2 + 256), (24, 8, sramBase 1 0), (32, 4, 64), (58, 1, 1), (59, 5, 12 + 32 * 9)]))) ∧
  ((fun (die : Fin 8) (core : Fin 136) (n : Fin 3) (x : Desc) (s : State) => (descReady s.chip die.val core.val (5 + n.val) 5 (dmeCheck x 0) x)) 1 2 0 (dscB [5, 5] 0 [(16, 8, 0x0807060504030201), (24, 8, scratchBase 1 2 + 128), (32, 4, 32)]) (stMov 5 (dscB [5, 5] 0 [(16, 8, 0x0807060504030201), (24, 8, scratchBase 1 2 + 128), (32, 4, 32)]))) ∧
  ((fun (die : Fin 8) (core : Fin 136) (n : Fin 3) (x : Desc) (s : State) => (descReady s.chip die.val core.val (5 + n.val) 6 (atomicCheck x) x)) 1 2 0 (dscB [6, 5] 0 [(16, 8, 256), (24, 8, sramBase 1 0), (32, 4, 4), (40, 4, 128), (59, 5, 0)]) (stMov 5 (dscB [6, 5] 0 [(16, 8, 256), (24, 8, sramBase 1 0), (32, 4, 4), (40, 4, 128), (59, 5, 0)]))) := by
  iterate 20
    refine ⟨?_, ?_⟩
    · try unfold descReady
      decide +kernel
  try unfold descReady
  decide +kernel

theorem witness_MatrixAndSparseDescriptorsComplete :
  ((fun (die : Fin 8) (core : Fin 136) (x : Desc) (s : State) => (descReady s.chip die.val core.val 0 1 (s.mmaCheck die.val core.val x) x) ∧ (s.chip.mxeReady die.val core.val = true) ∧ (fget (x.par 31 1) 5 4 ≠ 2) ∧ (bitOf (x.par 31 1) 0 = false) ∧ (bitOf (x.par 28 1) 3 = true)) 1 2 (dscB [1, 0] 0 [(16, 4, 0), (20, 4, 4096), (24, 2, 1), (26, 2, 32), (28, 1, 8), (29, 1, 0x33), (30, 1, 0), (32, 4, 64), (36, 4, 64)]) (stMov 0 (dscB [1, 0] 0 [(16, 4, 0), (20, 4, 4096), (24, 2, 1), (26, 2, 32), (28, 1, 8), (29, 1, 0x33), (30, 1, 0), (32, 4, 64), (36, 4, 64)]))) ∧
  ((fun (die : Fin 8) (core : Fin 136) (x : Desc) (s : State) => (descReady s.chip die.val core.val 0 1 (s.mmaCheck die.val core.val x) x) ∧ (s.chip.mxeReady die.val core.val = true) ∧ (fget (x.par 31 1) 5 4 = 2) ∧ (s.panel die.val core.val (x.par 16 4) (x.par 32 4) (fget (x.par 29 1) 3 0) (x.par 24 2 / 32 * (x.par 26 2 / 32)) 0 = none)) 1 2 (dscB [1, 0] 0 [(16, 4, 0), (20, 4, 4096), (24, 2, 32), (26, 2, 32), (28, 1, 8), (29, 1, 0x33), (30, 1, 0), (32, 4, 64), (36, 4, 64), (31, 1, 32)]) (stMov 0 (dscB [1, 0] 0 [(16, 4, 0), (20, 4, 4096), (24, 2, 32), (26, 2, 32), (28, 1, 8), (29, 1, 0x33), (30, 1, 0), (32, 4, 64), (36, 4, 64), (31, 1, 32)]))) ∧
  ((fun (die : Fin 8) (core : Fin 136) (x : Desc) (s : State) => (descReady s.chip die.val core.val 0 2 (accLoadCheck x) x) ∧ (s.chip.mxeReady die.val core.val = true)) 1 2 (dscB [2, 0] 0 [(16, 4, 0), (20, 4, 64), (24, 2, 2), (26, 1, 3), (27, 1, 1)]) (stMov 0 (dscB [2, 0] 0 [(16, 4, 0), (20, 4, 64), (24, 2, 2), (26, 1, 3), (27, 1, 1)]))) ∧
  ((fun (die : Fin 8) (core : Fin 136) (a : Nat) (x : Desc) (s : State) => (descReady s.chip die.val core.val 0 3 (accStoreCheck x) x) ∧ (s.chip.mxeReady die.val core.val = true) ∧ (outsideScratch die.val core.val a)) 1 2 7 (dscB [3, 0] 0 [(16, 4, 0), (20, 4, 64), (24, 2, 1), (26, 1, 0), (27, 1, 1), (32, 4, 0x3F800000)]) (stMov 0 (dscB [3, 0] 0 [(16, 4, 0), (20, 4, 64), (24, 2, 1), (26, 1, 0), (27, 1, 1), (32, 4, 0x3F800000)]))) ∧
  ((fun (die : Fin 8) (core : Fin 136) (x : Desc) (s : State) => (descReady s.chip die.val core.val 0 3 (accStoreCheck x) x) ∧ (s.chip.mxeReady die.val core.val = true) ∧ (x.par 24 2 = 1) ∧ (x.par 26 1 = 0) ∧ (x.par 28 1 = 0) ∧ (x.par 32 4 = 0x3F800000) ∧ (s.chip.tileInt die.val core.val x.tile = false)) 1 2 (dscB [3, 0] 0 [(16, 4, 0), (20, 4, 64), (24, 2, 1), (26, 1, 0), (27, 1, 1), (32, 4, 0x3F800000)]) (stMov 0 (dscB [3, 0] 0 [(16, 4, 0), (20, 4, 64), (24, 2, 1), (26, 1, 0), (27, 1, 1), (32, 4, 0x3F800000)]))) ∧
  ((fun (die : Fin 8) (core : Fin 136) (a : Nat) (x : Desc) (s : State) => (descReady s.chip die.val core.val 3 1 (speCheck 1 x) x) ∧ (outsideScratch die.val core.val a)) 1 2 7 (dscB [1, 3] 0 [(16, 4, 0), (20, 4, 8192), (32, 2, 1), (34, 2, 1), (36, 1, 3), (24, 4, 64), (52, 4, 4096), (56, 4, 16384)]) (stMov 3 (dscB [1, 3] 0 [(16, 4, 0), (20, 4, 8192), (32, 2, 1), (34, 2, 1), (36, 1, 3), (24, 4, 64), (52, 4, 4096), (56, 4, 16384)]))) ∧
  ((fun (die : Fin 8) (core : Fin 136) (x : Desc) (s : State) => (descReady s.chip die.val core.val 3 2 (speCheck 2 x) x) ∧ (s.panel die.val core.val (x.par 16 4) (x.par 52 4) x.speFmt (x.speRows * x.speCols) 0 = none)) 1 2 (dscB [2, 3] 0 [(16, 4, 0), (20, 4, 8192), (32, 2, 1), (34, 2, 1), (36, 1, 3), (28, 4, 64), (52, 4, 4096)]) (stMov 3 (dscB [2, 3] 0 [(16, 4, 0), (20, 4, 8192), (32, 2, 1), (34, 2, 1), (36, 1, 3), (28, 4, 64), (52, 4, 4096)]))) ∧
  ((fun (die : Fin 8) (core : Fin 136) (a : Nat) (l : List TileRec) (x : Desc) (s : State) => (descReady s.chip die.val core.val 3 2 (speCheck 2 x) x) ∧ (outsideScratch die.val core.val a) ∧ (s.panel die.val core.val (x.par 16 4) (x.par 52 4) x.speFmt (x.speRows * x.speCols) 0 = some l)) 1 2 7 [⟨0, List.replicate 32 0, 64⟩] (dscB [2, 3] 0 [(16, 4, 0), (20, 4, 8192), (32, 2, 1), (34, 2, 1), (36, 1, 3), (28, 4, 64), (52, 4, 4096)]) (stPanel (dscB [2, 3] 0 [(16, 4, 0), (20, 4, 8192), (32, 2, 1), (34, 2, 1), (36, 1, 3), (28, 4, 64), (52, 4, 4096)]))) ∧
  ((fun (die : Fin 8) (core : Fin 136) (a : Nat) (x : Desc) (s : State) => (descReady s.chip die.val core.val 3 3 (speCheck 3 x) x) ∧ (outsideScratch die.val core.val a)) 1 2 7 (dscB [3, 3] 0 [(16, 4, 0), (20, 4, 8192), (32, 2, 1), (34, 2, 1), (36, 1, 3), (24, 4, 64), (28, 4, 64), (44, 4, 16384)]) (stMov 3 (dscB [3, 3] 0 [(16, 4, 0), (20, 4, 8192), (32, 2, 1), (34, 2, 1), (36, 1, 3), (24, 4, 64), (28, 4, 64), (44, 4, 16384)]))) ∧
  ((fun (die : Fin 8) (core : Fin 136) (a : Nat) (x : Desc) (s : State) => (descReady s.chip die.val core.val 3 4 (speCheck 4 x) x) ∧ (outsideScratch die.val core.val a)) 1 2 7 (dscB [4, 3] 0 [(16, 4, 0), (20, 4, 8192), (32, 2, 1), (34, 2, 1), (36, 1, 3), (24, 4, 64), (28, 4, 64), (44, 4, 16384)]) (stMov 3 (dscB [4, 3] 0 [(16, 4, 0), (20, 4, 8192), (32, 2, 1), (34, 2, 1), (36, 1, 3), (24, 4, 64), (28, 4, 64), (44, 4, 16384)]))) ∧
  ((fun (die : Fin 8) (core : Fin 136) (a : Nat) (x : Desc) (s : State) => (descReady s.chip die.val core.val 4 1 (routeCheck x) x) ∧ (outsideScratch die.val core.val a)) 1 2 7 (dscB [1, 4] 0 [(16, 4, 0), (20, 4, 1024), (24, 4, 2048), (48, 2, 1), (50, 1, 3), (51, 1, 0x02), (52, 2, 4), (54, 1, 32), (56, 2, 16), (60, 4, 4096)]) (stMov 4 (dscB [1, 4] 0 [(16, 4, 0), (20, 4, 1024), (24, 4, 2048), (48, 2, 1), (50, 1, 3), (51, 1, 0x02), (52, 2, 4), (54, 1, 32), (56, 2, 16), (60, 4, 4096)]))) := by
  iterate 10
    refine ⟨?_, ?_⟩
    · try unfold descReady
      try unfold outsideScratch
      decide +kernel
  try unfold descReady
  try unfold outsideScratch
  decide +kernel

theorem witness_QueueCommandsComplete :
  ((fun (d : Fin 2) (k : Fin 96) (tn : Fin 16) (q : Fin 64) (v : BitVec 32) (s : State) => (writeAccepted s.chip (.hart d k) (R.PCU_CQ_TAIL tn.val q.val)) ∧ (s.chip.on (R.PCU_CQ_CFG_EN tn.val q.val) = true) ∧ (s.chip.on (R.CPU_CORE_STATE_TENANT_EN d.val k.val) = true) ∧ (s.chip.rd (R.CPU_CORE_STATE_TENANT d.val k.val) = tn.val) ∧ (v.toNat < 65536) ∧ ((v.toNat + 65536 - s.chip.rd (R.PCU_CQ_HEAD_INDEX tn.val q.val)) % 65536 ≤ 2 ^ s.chip.rd (R.PCU_CQ_CFG_SIZE_LOG2 tn.val q.val))) 1 2 1 3 16 (stQ [])) ∧
  ((fun (d : Fin 2) (k : Fin 96) (tn : Fin 16) (q : Fin 64) (v : BitVec 32) (s : State) => (writeAccepted s.chip (.hart d k) (R.PCU_CQ_TAIL tn.val q.val)) ∧ (s.chip.rd R.PCU_CQ_REJECT_COUNT < 65535) ∧ (v.toNat < 65536) ∧ (2 ^ s.chip.rd (R.PCU_CQ_CFG_SIZE_LOG2 tn.val q.val) < (v.toNat + 65536 - s.chip.rd (R.PCU_CQ_HEAD_INDEX tn.val q.val)) % 65536)) 1 2 1 3 17 (stQ [])) ∧
  ((fun (src : CmdSrc) (s : State) => (s.chip.qOn src = true) ∧ (s.chip.rd (headRef src) ≠ s.chip.qTail src) ∧ ((s.chip.cmdsOf src).length < s.chip.qSize src) ∧ (s.chip.isMgmt src = false ∨ s.chip.tokenHeld = true) ∧ (s.chip.viewStatus (srcTenant src) (s.chip.qBase src + 64 * (s.chip.rd (headRef src) % s.chip.qSize src)) 64 = stOK) ∧ (s.chip.viewObstacle (srcTenant src) (s.chip.qBase src + 64 * (s.chip.rd (headRef src) % s.chip.qSize src)) 64 false = none)) (.queue 1 3) (stQ [])) ∧
  ((fun (tn : Fin 16) (q : Fin 64) (s : State) => (s.chip.on (R.PCU_CQ_CFG_EN tn.val q.val) = true) ∧ (s.chip.on (R.PCU_CQ_CFG_STOPPED tn.val q.val) = false) ∧ (s.chip.on (R.PCU_CQ_CFG_KIND tn.val q.val) = false) ∧ (s.chip.rd (R.PCU_CQ_HEAD_INDEX tn.val q.val) ≠ s.chip.rd (R.PCU_CQ_TAIL_INDEX tn.val q.val)) ∧ (s.chip.cmd.cmds = []) ∧ (s.chip.viewStatus tn.val (s.chip.qBase (.queue tn q) + 64 * (s.chip.rd (R.PCU_CQ_HEAD_INDEX tn.val q.val) % 2 ^ s.chip.rd (R.PCU_CQ_CFG_SIZE_LOG2 tn.val q.val))) 64 = stOK) ∧ (s.chip.viewObstacle tn.val (s.chip.qBase (.queue tn q) + 64 * (s.chip.rd (R.PCU_CQ_HEAD_INDEX tn.val q.val) % 2 ^ s.chip.rd (R.PCU_CQ_CFG_SIZE_LOG2 tn.val q.val))) 64 false = none)) 1 3 (stQ [])) ∧
  ((fun (tn : Fin 16) (q : Fin 64) (s : State) => (s.chip.on (R.PCU_CQ_CFG_EN tn.val q.val) = true) ∧ (s.chip.on (R.PCU_CQ_CFG_STOPPED tn.val q.val) = false) ∧ (s.chip.on (R.PCU_CQ_CFG_KIND tn.val q.val) = false) ∧ (s.chip.rd (R.PCU_CQ_HEAD_INDEX tn.val q.val) ≠ s.chip.rd (R.PCU_CQ_TAIL_INDEX tn.val q.val)) ∧ (s.chip.cmd.cmds = []) ∧ (s.chip.viewStatus tn.val (s.chip.qBase (.queue tn q) + 64 * (s.chip.rd (R.PCU_CQ_HEAD_INDEX tn.val q.val) % 2 ^ s.chip.rd (R.PCU_CQ_CFG_SIZE_LOG2 tn.val q.val))) 64 = stWINDOW) ∧ (s.chip.viewStatus tn.val (s.chip.statAddr (.queue tn q) (s.chip.rd (R.PCU_CQ_HEAD_INDEX tn.val q.val))) 16 = stOK) ∧ (s.chip.viewObstacle tn.val (s.chip.statAddr (.queue tn q) (s.chip.rd (R.PCU_CQ_HEAD_INDEX tn.val q.val))) 16 true = none)) 1 3 (stQ [(R.PCU_CQ_BASE_HI_ADDR 1 3, 0x101)])) ∧
  ((fun (tn : Fin 16) (q : Fin 64) (idx : BitVec 16) (x : Cmd) (s : State) (a b d : Nat) => (s.chip.cmd.cmds.find? (fun y => y.src == .queue tn q && y.idx == idx.toNat) = some x) ∧ (x.result = some (a, b, d)) ∧ (x.syncEn = false) ∧ (s.chip.viewStatus tn.val (s.chip.statAddr (.queue tn q) idx.toNat) 16 = stOK) ∧ (s.chip.viewObstacle tn.val (s.chip.statAddr (.queue tn q) idx.toNat) 16 true = none)) 1 3 5 { cmdA 3 [(2, 2, 9)] with src := .queue 1 3, started := true, result := some (0, 7, 8) } { stQ [] with chip := (stQ []).chip.onCmd (fun y => { y with cmds := [{ cmdA 3 [(2, 2, 9)] with src := .queue 1 3, started := true, result := some (0, 7, 8) }] }) } 0 7 8) ∧
  ((fun (idx : BitVec 16) (x : Cmd) (s : State) => (s.chip.cmd.cmds.find? (fun y => y.src == .admin && y.idx == idx.toNat) = some x) ∧ (x.opcode = 0) ∧ (s.chip.startable x = true) ∧ (s.chip.precheck x ≠ stOK)) 5 { cmdA 0 [] with pkt := [0, 0x12] } (stAdm { cmdA 0 [] with pkt := [0, 0x12] } [] id)) ∧
  ((fun (src : CmdSrc) (idx : BitVec 16) (x : Cmd) (s : State) => (cmdReady s.chip src idx 0 x) ∧ (s.chip.isMgmt src = true)) .admin 5 (cmdA 0 []) (stAdm (cmdA 0 []) [] id)) ∧
  ((fun (src : CmdSrc) (idx : BitVec 16) (x : Cmd) (s : State) => (cmdReady s.chip src idx 0x40 x)) .admin 5 (cmdA 0x40 []) (stAdm (cmdA 0x40 []) [] id)) ∧
  ((fun (src : CmdSrc) (idx : BitVec 16) (x : Cmd) (s : State) => (cmdReady s.chip src idx 0x41 x) ∧ (x.par 8 1 < 64) ∧ (s.chip.on (R.PCU_CQ_CFG_EN x.partition (x.par 8 1)) = false) ∧ (x.par 9 1 ≤ 1) ∧ (4 ≤ x.par 10 1) ∧ (x.par 10 1 ≤ 12) ∧ (x.par 11 1 ≤ 7) ∧ (x.par 12 1 ≤ 3) ∧ ((x.par 9 1 = 1 ∨ s.chip.ownsClusterOf x.partition (x.par 11 1) = true)) ∧ (s.chip.ringOk x.partition (x.par 16 8) (64 * 2 ^ x.par 10 1) = true) ∧ (s.chip.ringOk x.partition (x.par 24 8) (16 * 2 ^ x.par 10 1) = true)) .admin 5 (cmdA 0x41 [(8, 1, 3), (9, 1, 0), (10, 1, 5), (11, 1, 2), (12, 1, 1), (16, 8, 1099511627776), (24, 8, 1099511635968)]) (stAdm (cmdA 0x41 [(8, 1, 3), (9, 1, 0), (10, 1, 5), (11, 1, 2), (12, 1, 1), (16, 8, 1099511627776), (24, 8, 1099511635968)]) (ownA ++ [(R.CMP_CORE_STATE_OWNED 2 0, 1), (R.CMP_CORE_STATE_TENANT 2 0, 1)]) id)) ∧
  ((fun (src : CmdSrc) (idx : BitVec 16) (x : Cmd) (s : State) => (cmdReady s.chip src idx 0x42 x) ∧ (x.par 8 1 < 64) ∧ (s.chip.on (R.PCU_CQ_CFG_EN x.partition (x.par 8 1)) = true)) .admin 5 (cmdA 0x42 [(8, 1, 3)]) (stAdm (cmdA 0x42 [(8, 1, 3)]) [(R.PCU_CQ_CFG_EN 1 3, 1), (R.PCU_CQ_TAIL_INDEX 1 3, 7)] id)) ∧
  ((fun (src : CmdSrc) (idx : BitVec 16) (x : Cmd) (s : State) => (cmdReady s.chip src idx 0x70 x) ∧ (x.par 8 2 < 4096) ∧ (x.par 8 2 ≠ s.chip.node) ∧ (s.chip.viewStatus x.partition (x.par 16 8) 64 = stOK) ∧ (s.chip.viewObstacle x.partition (x.par 16 8) 64 false = none)) .admin 5 (cmdA 0x70 [(8, 2, 9), (16, 8, 1099511627840)]) (stAdm (cmdA 0x70 [(8, 2, 9), (16, 8, 1099511627840)]) ownA id)) ∧
  ((fun (st : Stitch) (s : State) => (s.chip.on R.ROUTE_FM_EN = true) ∧ (st.srcNode = s.chip.rd R.ROUTE_FM_NODE) ∧ (st.srcSite = 31) ∧ (isMgmtOp (leField st.data 0 1) = true)) { srcNode := 6, srcSite := 31, opcode := opCTRL, data := [0x40] } (stWith [(R.ROUTE_FM_EN, 1), (R.ROUTE_FM_NODE, 6)])) ∧
  ((fun (st : Stitch) (s : State) => (s.chip.on R.ROUTE_FM_EN = false) ∧ (s.chip.rd R.PCU_EMU_STATUS_FM_DROP < R.PCU_EMU_STATUS_FM_DROP.top)) { srcNode := 6, srcSite := 31, opcode := opCTRL, data := [0x40] } (stWith [])) ∧
  ((fun (st : Stitch) (s : State) => (s.chip.on R.PCU_FMQ_CFG_EN = true) ∧ (s.chip.viewStatus 0 (s.chip.rdPair R.PCU_FMQ_BASE_LO_VALUE R.PCU_FMQ_BASE_HI_VALUE / 64 * 64 + 128 * (s.chip.rd R.PCU_FMQ_PRODUCED_VALUE % 2 ^ max 4 (min 12 (s.chip.rd R.PCU_FMQ_CFG_SIZE_LOG2)))) 128 = stOK) ∧ (s.chip.viewObstacle 0 (s.chip.rdPair R.PCU_FMQ_BASE_LO_VALUE R.PCU_FMQ_BASE_HI_VALUE / 64 * 64 + 128 * (s.chip.rd R.PCU_FMQ_PRODUCED_VALUE % 2 ^ max 4 (min 12 (s.chip.rd R.PCU_FMQ_CFG_SIZE_LOG2)))) 128 true = none) ∧ (subMod 16 (s.chip.rd R.PCU_FMQ_PRODUCED_VALUE) (s.chip.rd R.PCU_FMQ_CONSUMED_VALUE) < 2 ^ max 4 (min 12 (s.chip.rd R.PCU_FMQ_CFG_SIZE_LOG2)))) { srcNode := 6, srcSite := 31, opcode := opCTRL, data := [0x40] } (stNot [])) ∧
  ((fun (st : Stitch) (s : State) => (s.chip.on R.PCU_FMQ_CFG_EN = true) ∧ (s.chip.viewObstacle 0 (s.chip.rdPair R.PCU_FMQ_BASE_LO_VALUE R.PCU_FMQ_BASE_HI_VALUE / 64 * 64 + 128 * (s.chip.rd R.PCU_FMQ_PRODUCED_VALUE % 2 ^ max 4 (min 12 (s.chip.rd R.PCU_FMQ_CFG_SIZE_LOG2)))) 128 true = none) ∧ (2 ^ max 4 (min 12 (s.chip.rd R.PCU_FMQ_CFG_SIZE_LOG2)) ≤ subMod 16 (s.chip.rd R.PCU_FMQ_PRODUCED_VALUE) (s.chip.rd R.PCU_FMQ_CONSUMED_VALUE)) ∧ (s.chip.rd R.PCU_FMQ_CFG_DROPPED < 65535)) { srcNode := 6, srcSite := 31, opcode := opCTRL, data := [0x40] } (stNot [(R.PCU_FMQ_CONSUMED_VALUE, 65536 - 256)])) ∧
  ((fun (src : CmdSrc) (idx : BitVec 16) (x : Cmd) (s : State) => (cmdReady s.chip src idx 0x41 x) ∧ (x.par 9 1 = 0) ∧ (s.chip.ownsClusterOf x.partition (x.par 11 1) = false)) .admin 5 (cmdA 0x41 [(8, 1, 3), (9, 1, 0), (10, 1, 5), (11, 1, 2), (12, 1, 1), (16, 8, 1099511627776), (24, 8, 1099511635968)]) (stAdm (cmdA 0x41 [(8, 1, 3), (9, 1, 0), (10, 1, 5), (11, 1, 2), (12, 1, 1), (16, 8, 1099511627776), (24, 8, 1099511635968)]) [] id)) := by
  iterate 16
    refine ⟨?_, ?_⟩
    · try unfold writeAccepted
      try unfold cmdReady
      decide +kernel
  try unfold writeAccepted
  try unfold cmdReady
  decide +kernel

theorem witness_ComputeAndAllocationCommandsComplete :
  ((fun (tn : Fin 16) (q : Fin 64) (idx : BitVec 16) (x : Cmd) (k : Nat) (ks : List Nat) (s : State) => (cmdReady s.chip (.queue tn q) idx 1 x) ∧ (s.chip.launchCores (s.chip.rd (R.PCU_CQ_CFG_DIE tn.val q.val)) x.partition (x.par 8 16) = some (k :: ks)) ∧ (launchGood x = true) ∧ (x.par 48 8 = 0) ∧ (s.chip.comp.launches = [])) 1 3 5 { (cmdA 1 [(8, 8, 1), (24, 2, 32), (28, 4, 1), (32, 4, 64), (36, 4, 16), (40, 4, 5)]) with src := .queue 1 3 } 0 [] (stAdm { (cmdA 1 [(8, 8, 1), (24, 2, 32), (28, 4, 1), (32, 4, 64), (36, 4, 16), (40, 4, 5)]) with src := .queue 1 3 } ([(R.CMP_CORE_STATE_STATE 2 0, 3), (R.CMP_CORE_STATE_OWNED 2 0, 1), (R.CMP_CORE_STATE_TENANT 2 0, 1), (R.CMP_CORE_STATE_LOGICAL 2 0, 0), (R.PCU_CQ_CFG_EN 1 3, 1), (R.PCU_CQ_CFG_DIE 1 3, 2)]) id)) ∧
  ((fun (tn : Fin 16) (q : Fin 64) (idx : BitVec 16) (x : Cmd) (k : Nat) (ks : List Nat) (s : State) => (cmdReady s.chip (.queue tn q) idx 1 x) ∧ (s.chip.launchCores (s.chip.rd (R.PCU_CQ_CFG_DIE tn.val q.val)) x.partition (x.par 8 16) = some (k :: ks)) ∧ (launchGood x = true) ∧ (x.par 48 8 = 0)) 1 3 5 { (cmdA 1 [(8, 8, 1), (24, 2, 32), (28, 4, 1), (32, 4, 64), (36, 4, 16), (40, 4, 5)]) with src := .queue 1 3 } 0 [] (stAdm { (cmdA 1 [(8, 8, 1), (24, 2, 32), (28, 4, 1), (32, 4, 64), (36, 4, 16), (40, 4, 5)]) with src := .queue 1 3 } ([(R.CMP_CORE_STATE_STATE 2 0, 3), (R.CMP_CORE_STATE_OWNED 2 0, 1), (R.CMP_CORE_STATE_TENANT 2 0, 1), (R.CMP_CORE_STATE_LOGICAL 2 0, 0), (R.PCU_CQ_CFG_EN 1 3, 1), (R.PCU_CQ_CFG_DIE 1 3, 2)]) id)) ∧
  ((fun (tn : Fin 16) (q : Fin 64) (idx : BitVec 16) (x : Cmd) (k : Nat) (ks : List Nat) (s : State) => (cmdReady s.chip (.queue tn q) idx 1 x) ∧ (s.chip.launchCores (s.chip.rd (R.PCU_CQ_CFG_DIE tn.val q.val)) x.partition (x.par 8 16) = some (k :: ks)) ∧ (launchGood x = true) ∧ (x.par 48 8 ≠ 0) ∧ (s.chip.viewStatus x.partition (x.par 48 8) 128 = stOK) ∧ (s.chip.viewObstacle x.partition (x.par 48 8) 128 false = none)) 1 3 5 { (cmdA 1 [(8, 8, 1), (24, 2, 32), (28, 4, 1), (32, 4, 64), (36, 4, 16), (40, 4, 5), (48, 8, 1099511627776)]) with src := .queue 1 3 } 0 [] (stAdm { (cmdA 1 [(8, 8, 1), (24, 2, 32), (28, 4, 1), (32, 4, 64), (36, 4, 16), (40, 4, 5), (48, 8, 1099511627776)]) with src := .queue 1 3 } ([(R.CMP_CORE_STATE_STATE 2 0, 3), (R.CMP_CORE_STATE_OWNED 2 0, 1), (R.CMP_CORE_STATE_TENANT 2 0, 1), (R.CMP_CORE_STATE_LOGICAL 2 0, 0), (R.PCU_CQ_CFG_EN 1 3, 1), (R.PCU_CQ_CFG_DIE 1 3, 2), (⟨R.PART_SRAM_OWN 0, 7, 0⟩, 129)]) id)) ∧
  ((fun (tn : Fin 16) (q : Fin 64) (idx : BitVec 16) (x : Cmd) (s : State) => (cmdReady s.chip (.queue tn q) idx 1 x) ∧ (s.chip.launchCores (s.chip.rd (R.PCU_CQ_CFG_DIE tn.val q.val)) x.partition (x.par 8 16) = none)) 1 3 5 { (cmdA 1 [(8, 8, 2), (24, 2, 32), (28, 4, 1), (32, 4, 64), (36, 4, 16), (40, 4, 5)]) with src := .queue 1 3 } (stAdm { (cmdA 1 [(8, 8, 2), (24, 2, 32), (28, 4, 1), (32, 4, 64), (36, 4, 16), (40, 4, 5)]) with src := .queue 1 3 } ([(R.CMP_CORE_STATE_STATE 2 0, 3), (R.CMP_CORE_STATE_OWNED 2 0, 1), (R.CMP_CORE_STATE_TENANT 2 0, 1), (R.CMP_CORE_STATE_LOGICAL 2 0, 0), (R.PCU_CQ_CFG_EN 1 3, 1), (R.PCU_CQ_CFG_DIE 1 3, 2)]) id)) ∧
  ((fun (tn : Fin 16) (q : Fin 64) (idx : BitVec 16) (x : Cmd) (k : Nat) (s : State) => (cmdReady s.chip (.queue tn q) idx 2 x) ∧ (s.chip.dmaCore x = some k) ∧ ((s.chip.descs (s.chip.rd (R.PCU_CQ_CFG_DIE tn.val q.val)) k 7).length < 64) ∧ (x.par 11 5 = 0) ∧ (s.chip.rd (R.CMP_CORE_STATE_STATE (s.chip.rd (R.PCU_CQ_CFG_DIE tn.val q.val)) k) ≠ 5)) 1 3 5 { (cmdA 2 [(8, 2, 0), (10, 1, 1), (16, 8, 64)]) with src := .queue 1 3 } 0 (stAdm { (cmdA 2 [(8, 2, 0), (10, 1, 1), (16, 8, 64)]) with src := .queue 1 3 } ([(R.CMP_CORE_STATE_STATE 2 0, 3), (R.CMP_CORE_STATE_OWNED 2 0, 1), (R.CMP_CORE_STATE_TENANT 2 0, 1), (R.CMP_CORE_STATE_LOGICAL 2 0, 0), (R.PCU_CQ_CFG_EN 1 3, 1), (R.PCU_CQ_CFG_DIE 1 3, 2)]) id)) ∧
  ((fun (tn : Fin 16) (q : Fin 64) (idx : BitVec 16) (x : Cmd) (o : SyncObj) (s : State) => (cmdReady s.chip (.queue tn q) idx 3 x) ∧ (s.chip.obj (x.par 8 2) = some o) ∧ (o.tenant = x.partition) ∧ (x.par 10 1 ≤ 4) ∧ (o.holds (x.par 10 1) (x.par 16 6) = some true)) 1 3 5 { (cmdA 3 [(8, 2, 9), (10, 1, 0), (16, 6, 5)]) with src := .queue 1 3 } { kind := 1, tenant := 1, count := 5 } (stAdm { (cmdA 3 [(8, 2, 9), (10, 1, 0), (16, 6, 5)]) with src := .queue 1 3 } ([(R.CMP_CORE_STATE_STATE 2 0, 3), (R.CMP_CORE_STATE_OWNED 2 0, 1), (R.CMP_CORE_STATE_TENANT 2 0, 1), (R.CMP_CORE_STATE_LOGICAL 2 0, 0), (R.PCU_CQ_CFG_EN 1 3, 1), (R.PCU_CQ_CFG_DIE 1 3, 2)]) (fun c => { c with sync := { c.sync with objs := [(9, { kind := 1, tenant := 1, count := 5 })] } }))) ∧
  ((fun (tn : Fin 16) (q : Fin 64) (idx : BitVec 16) (x : Cmd) (o : SyncObj) (s : State) => (cmdReady s.chip (.queue tn q) idx 3 x) ∧ (s.chip.obj (x.par 8 2) = some o) ∧ (o.tenant = x.partition) ∧ (x.par 10 1 ≤ 4) ∧ (o.holds (x.par 10 1) (x.par 16 6) = some false) ∧ (s.chip.sync.waits.length < 32768)) 1 3 5 { (cmdA 3 [(8, 2, 9), (10, 1, 0), (16, 6, 6)]) with src := .queue 1 3 } { kind := 1, tenant := 1, count := 5 } (stAdm { (cmdA 3 [(8, 2, 9), (10, 1, 0), (16, 6, 6)]) with src := .queue 1 3 } ([(R.CMP_CORE_STATE_STATE 2 0, 3), (R.CMP_CORE_STATE_OWNED 2 0, 1), (R.CMP_CORE_STATE_TENANT 2 0, 1), (R.CMP_CORE_STATE_LOGICAL 2 0, 0), (R.PCU_CQ_CFG_EN 1 3, 1), (R.PCU_CQ_CFG_DIE 1 3, 2)]) (fun c => { c with sync := { c.sync with objs := [(9, { kind := 1, tenant := 1, count := 5 })] } }))) ∧
  ((fun (tn : Fin 16) (q : Fin 64) (idx : BitVec 16) (x : Cmd) (o : SyncObj) (s : State) => (cmdReady s.chip (.queue tn q) idx 4 x) ∧ (s.chip.sync.objs = [(x.par 8 2, o)]) ∧ (s.chip.sync.waits = []) ∧ (o.tenant = x.partition) ∧ (o.kind = 1) ∧ (x.par 10 1 = 1)) 1 3 5 { (cmdA 4 [(8, 2, 9), (10, 1, 1), (16, 6, 6)]) with src := .queue 1 3 } { kind := 1, tenant := 1, count := 5 } (stAdm { (cmdA 4 [(8, 2, 9), (10, 1, 1), (16, 6, 6)]) with src := .queue 1 3 } ([(R.CMP_CORE_STATE_STATE 2 0, 3), (R.CMP_CORE_STATE_OWNED 2 0, 1), (R.CMP_CORE_STATE_TENANT 2 0, 1), (R.CMP_CORE_STATE_LOGICAL 2 0, 0), (R.PCU_CQ_CFG_EN 1 3, 1), (R.PCU_CQ_CFG_DIE 1 3, 2)]) (fun c => { c with sync := { c.sync with objs := [(9, { kind := 1, tenant := 1, count := 5 })] } }))) ∧
  ((fun (tn : Fin 16) (q : Fin 64) (idx : BitVec 16) (x : Cmd) (o : SyncObj) (s : State) => (cmdReady s.chip (.queue tn q) idx 4 x) ∧ (s.chip.obj (x.par 8 2) = some o) ∧ (o.tenant = x.partition) ∧ (x.par 10 1 ∈ [1, 2, 8])) 1 3 5 { (cmdA 4 [(8, 2, 9), (10, 1, 1), (16, 6, 6)]) with src := .queue 1 3 } { kind := 1, tenant := 1, count := 5 } (stAdm { (cmdA 4 [(8, 2, 9), (10, 1, 1), (16, 6, 6)]) with src := .queue 1 3 } ([(R.CMP_CORE_STATE_STATE 2 0, 3), (R.CMP_CORE_STATE_OWNED 2 0, 1), (R.CMP_CORE_STATE_TENANT 2 0, 1), (R.CMP_CORE_STATE_LOGICAL 2 0, 0), (R.PCU_CQ_CFG_EN 1 3, 1), (R.PCU_CQ_CFG_DIE 1 3, 2)]) (fun c => { c with sync := { c.sync with objs := [(9, { kind := 1, tenant := 1, count := 5 })] } }))) ∧
  ((fun (src : CmdSrc) (idx : BitVec 16) (x : Cmd) (a : Nat) (s : State) => (cmdReady s.chip src idx 0x43 x) ∧ (1 ≤ x.par 8 1) ∧ (x.par 8 1 ≤ 4) ∧ (1 ≤ x.par 10 2) ∧ (x.par 10 2 ≤ 4096) ∧ ((x.par 8 1 = 2 ∧ x.par 16 8 < 2 ^ 48) ∨ (x.par 8 1 = 3 ∧ x.par 16 8 < 2 ^ 32) ∨ x.par 16 8 = 0) ∧ (s.chip.freeRun (x.par 10 2) = some a)) .admin 5 (cmdA 0x43 [(8, 1, 1), (10, 2, 2)]) 0 (stAdm (cmdA 0x43 [(8, 1, 1), (10, 2, 2)]) [] (fun c => { c with sync := { c.sync with objs := [(9, { kind := 1, tenant := 1, count := 5 })] } }))) ∧
  ((fun (src : CmdSrc) (idx : BitVec 16) (x : Cmd) (s : State) => (cmdReady s.chip src idx 0x44 x) ∧ (x.par 8 2 + x.par 10 2 ≤ 65536) ∧ ((List.range (x.par 10 2)).all (fun i => s.chip.objFreeable x.partition (x.par 8 2 + i)) = true)) .admin 5 (cmdA 0x44 [(8, 2, 8), (10, 2, 2)]) (stAdm (cmdA 0x44 [(8, 2, 8), (10, 2, 2)]) [] (fun c => { c with sync := { c.sync with objs := [(9, { kind := 1, tenant := 1, count := 5 })] } }))) ∧
  ((fun (src : CmdSrc) (idx : BitVec 16) (x : Cmd) (i : Nat) (s : State) => (cmdReady s.chip src idx 0x48 x) ∧ (x.par 8 2 = i) ∧ (i < 1024) ∧ (s.chip.on (R.RED_CTX_A_EN i) = false) ∧ (redAllowed (x.par 12 4 / 2 ^ 22 % 16) (x.par 12 4 / 2 ^ 18 % 16) = true) ∧ (bitOf (x.par 12 4) 30 = false) ∧ (s.chip.reserveFits (x.par 20 4 / 2 ^ 16) (x.par 20 4 % 2 ^ 16) = true)) .admin 5 (cmdA 0x48 [(8, 2, 7), (12, 4, 0), (20, 4, 65538)]) 7 (stAdm (cmdA 0x48 [(8, 2, 7), (12, 4, 0), (20, 4, 65538)]) [] id)) ∧
  ((fun (src : CmdSrc) (idx : BitVec 16) (x : Cmd) (i : Nat) (s : State) => (cmdReady s.chip src idx 0x48 x) ∧ (x.par 8 2 = i ∧ i < 1024 ∧ s.chip.on (R.RED_CTX_A_EN i) = false ∨ x.par 8 2 = 0xFFFF ∧ (List.range 1024).find? (fun i => !s.chip.on (R.RED_CTX_A_EN i)) = some i) ∧ (redAllowed (x.par 12 4 / 2 ^ 22 % 16) (x.par 12 4 / 2 ^ 18 % 16) = true) ∧ (bitOf (x.par 12 4) 30 = true) ∧ (1 ≤ x.par 16 4 % 1024) ∧ (x.par 20 4 / 2 ^ 16 = 0) ∧ (s.chip.reserveFits 0 (x.par 20 4 % 2 ^ 16 * (x.par 16 4 % 1024 + 1)) = true)) .admin 5 (cmdA 0x48 [(8, 2, 65535), (12, 4, 1073741824), (16, 4, 3), (20, 4, 2)]) 0 (stAdm (cmdA 0x48 [(8, 2, 65535), (12, 4, 1073741824), (16, 4, 3), (20, 4, 2)]) [] id)) ∧
  ((fun (src : CmdSrc) (idx : BitVec 16) (x : Cmd) (s : State) => (cmdReady s.chip src idx 0x49 x) ∧ (s.chip.ctxOwned (x.par 8 2) x.partition = true) ∧ (s.chip.ctxPending (x.par 8 2) = 0)) .admin 5 (cmdA 0x49 [(8, 2, 7)]) (stAdm (cmdA 0x49 [(8, 2, 7)]) [(R.RED_CTX_A_EN 7, 1), (R.RED_CTX_A_TENANT 7, 1)] id)) ∧
  ((fun (src : CmdSrc) (idx : BitVec 16) (x : Cmd) (s : State) => (cmdReady s.chip src idx 0x49 x) ∧ (s.chip.ctxOwned (x.par 8 2) x.partition = true)) .admin 5 (cmdA 0x49 [(8, 2, 7)]) (stAdm (cmdA 0x49 [(8, 2, 7)]) [(R.RED_CTX_A_EN 7, 1), (R.RED_CTX_A_TENANT 7, 1)] id)) ∧
  ((fun (src : CmdSrc) (idx : BitVec 16) (x : Cmd) (i : Nat) (s : State) => (cmdReady s.chip src idx 0x4A x) ∧ (s.chip.ctxOwned (x.par 8 2) x.partition = true) ∧ (s.chip.ctxBusy (x.par 8 2) = false) ∧ (x.par 8 2 = i)) .admin 5 (cmdA 0x4A [(8, 2, 7)]) 7 (stAdm (cmdA 0x4A [(8, 2, 7)]) [(R.RED_CTX_A_EN 7, 1), (R.RED_CTX_A_TENANT 7, 1)] id)) ∧
  ((fun (src : CmdSrc) (idx : BitVec 16) (x : Cmd) (g : Nat) (s : State) => (cmdReady s.chip src idx 0x4B x) ∧ (s.chip.isHome = true) ∧ ((List.range 4096).find? (fun n => !s.chip.on (mcAllocRef n)) = some g)) .admin 5 (cmdA 0x4B []) 1 (stAdm (cmdA 0x4B []) [(R.RED_MC_HOME_EN, 1), (R.RED_MC_HOME_NODE, 5), (R.ROUTE_NODE_NODE, 5), (mcAllocRef 0, 1)] id)) ∧
  ((fun (src : CmdSrc) (idx : BitVec 16) (x : Cmd) (g : Nat) (s : State) => (cmdReady s.chip src idx 0x4C x) ∧ (x.par 8 2 = g) ∧ (g < 4096) ∧ (s.chip.isHome = true) ∧ (s.chip.on (mcAllocRef g) = true) ∧ (s.chip.rd (mcOwnerRef g) = x.partition)) .admin 5 (cmdA 0x4C [(8, 2, 6)]) 6 (stAdm (cmdA 0x4C [(8, 2, 6)]) [(R.RED_MC_HOME_EN, 1), (R.RED_MC_HOME_NODE, 5), (R.ROUTE_NODE_NODE, 5), (mcAllocRef 6, 1), (mcOwnerRef 6, 1)] id)) ∧
  ((fun (src : CmdSrc) (idx : BitVec 16) (x : Cmd) (g : Nat) (s : State) => (cmdReady s.chip src idx 0x4D x) ∧ (x.par 8 2 = g) ∧ (g < 4096) ∧ (s.chip.mcBad (x.par 12 4) (x.par 16 4) = false) ∧ (s.chip.on (R.RED_MC_A_EN g) = false ∨ s.chip.rd (R.RED_MC_A_TENANT g) = x.partition)) .admin 5 (cmdA 0x4D [(8, 2, 6), (12, 4, 1593835523), (16, 4, 589824)]) 6 (stAdm (cmdA 0x4D [(8, 2, 6), (12, 4, 1593835523), (16, 4, 589824)]) [(R.ROUTE_PORT_MAP_ROLE 0, 0), (R.ROUTE_PORT_MAP_ROLE 1, 1)] id)) ∧
  ((fun (src : CmdSrc) (idx : BitVec 16) (x : Cmd) (g : Nat) (s : State) => (cmdReady s.chip src idx 0x4E x) ∧ (x.par 8 2 = g) ∧ (g < 4096) ∧ (s.chip.on (R.RED_MC_A_EN g) = false ∨ s.chip.rd (R.RED_MC_A_TENANT g) = x.partition)) .admin 5 (cmdA 0x4E [(8, 2, 6)]) 6 (stAdm (cmdA 0x4E [(8, 2, 6)]) [(R.RED_MC_A_EN 6, 1), (R.RED_MC_A_TENANT 6, 1)] id)) := by
  iterate 19
    refine ⟨?_, ?_⟩
    · try unfold cmdReady
      decide +kernel
  try unfold cmdReady
  decide +kernel

theorem witness_HostIoAndImageCommandsComplete :
  ((fun (die : Fin 2) (core : Fin 96) (q : Fin 64) (m : RqSlot) (s : State) => (s.chip.hartOwnsQueue die.val core.val q.val = true) ∧ (s.chip.xport.slots = [m]) ∧ (m.site = 8 + die.val) ∧ (m.queue = q.val) ∧ (m.complete = true) ∧ (m.popped = false)) 1 2 3 rqM (stRq [rqM])) ∧
  ((fun (die : Fin 2) (core : Fin 96) (q : Fin 64) (m : RqSlot) (s : State) => (s.chip.hartOwnsQueue die.val core.val q.val = true) ∧ ((s.chip.rqUsed (8 + die.val) q.val).find? (fun x => x.complete && !x.popped) = some m)) 1 2 3 rqM (stRq [rqM])) ∧
  ((fun (die : Fin 2) (core : Fin 96) (q : Fin 64) (s : State) => (s.chip.hartOwnsQueue die.val core.val q.val = true) ∧ ((s.chip.rqUsed (8 + die.val) q.val).find? (fun x => x.complete && !x.popped) = none)) 1 2 3 (stRq [])) ∧
  ((fun (die : Fin 2) (core : Fin 96) (q : Fin 64) (s : State) => (s.chip.hartOwnsQueue die.val core.val q.val = false)) 1 2 4 (stRq [])) ∧
  ((fun (die : Fin 2) (core : Fin 96) (q : Fin 64) (m : RqSlot) (v : BitVec 64) (s : State) => (s.chip.hartOwnsQueue die.val core.val q.val = true) ∧ (s.chip.xport.slots = [m]) ∧ (m.site = 8 + die.val) ∧ (m.queue = q.val) ∧ (m.popped = true) ∧ (s.chip.slotEntry m = v.toNat % 2 ^ 15)) 1 2 3 { rqM with popped := true } 0 (stRq [{ rqM with popped := true }])) ∧
  ((fun (die : Fin 2) (core : Fin 96) (q : Fin 64) (m : RqSlot) (v : BitVec 64) (s : State) => (s.chip.hartOwnsQueue die.val core.val q.val = true) ∧ ((s.chip.rqUsed (8 + die.val) q.val).find? (fun x => x.popped && s.chip.slotEntry x == fget v.toNat 14 0) = some m)) 1 2 3 { rqM with popped := true } 0 (stRq [{ rqM with popped := true }])) ∧
  ((fun (die : Fin 2) (core : Fin 96) (q : Fin 64) (v : BitVec 64) (s : State) => (s.chip.hartOwnsQueue die.val core.val q.val = true) ∧ ((s.chip.rqUsed (8 + die.val) q.val).find? (fun x => x.popped && s.chip.slotEntry x == fget v.toNat 14 0) = none) ∧ (s.chip.rd (R.CPU_DIE_STATUS_FREE_ERR die.val) < (R.CPU_DIE_STATUS_FREE_ERR die.val).top)) 1 2 3 0 (stRq [])) ∧
  ((fun (die : Fin 2) (core : Fin 96) (s : State) => (s.chip.rd (R.CPU_CORE_STATE_STATE die.val core.val) ≠ 4)) 1 2 (stWith [])) ∧
  ((fun (die : Fin 2) (core : Fin 96) (s : State) => (s.chip.rd (R.CPU_DIE_STATUS_STATE die.val) ≠ 3)) 1 2 (stWith [])) ∧
  ((fun (die : Fin 2) (core : Fin 96) (s : State) => (s.chip.rd (R.CPU_CORE_STATE_STATE die.val core.val) = 4)) 1 2 (stWith [(R.CPU_CORE_STATE_STATE 1 2, 4)])) ∧
  ((fun (r : Fin 16) (speed : Fin 7) (width : Fin 17) (flit : Bool) (device : Fin 3) (s : State) => (s.chip.rd (R.HIO_PORT_STATUS_STATE r.val) = 1) ∧ (1 ≤ speed.val) ∧ (speed.val ≤ max 1 (min 6 (s.chip.rd (R.HIO_SLOT_CFG_MAX_SPEED (r.val / 4))))) ∧ (width.val = 1 ∨ width.val = 2 ∨ width.val = 4 ∨ width.val = 8 ∨ width.val = 16) ∧ (width.val * s.chip.slotWays (r.val / 4) ≤ 16) ∧ (flit = true ∨ speed.val < 6) ∧ (s.chip.on (R.HIO_SLOT_CFG_CXL_EN (r.val / 4)) = true)) 5 6 8 true 1 (stWith [(R.HIO_PORT_STATUS_STATE 5, 1), (R.HIO_SLOT_CFG_MAX_SPEED 1, 6), (R.HIO_SLOT_CFG_CXL_EN 1, 1)])) ∧
  ((fun (r : Fin 16) (speed : Fin 7) (width : Fin 17) (flit : Bool) (device : Fin 3) (s : State) => (s.chip.rd (R.HIO_PORT_STATUS_STATE r.val) = 1) ∧ (1 ≤ speed.val) ∧ (speed.val ≤ s.chip.slotSpeed (r.val / 4)) ∧ (width.val ∈ [1, 2, 4, 8, 16]) ∧ (width.val * s.chip.slotWays (r.val / 4) ≤ 16) ∧ (flit = true ∨ speed.val < 6) ∧ (s.chip.on (R.HIO_SLOT_CFG_CXL_EN (r.val / 4)) = false)) 5 5 8 true 1 (stWith [(R.HIO_PORT_STATUS_STATE 5, 1), (R.HIO_SLOT_CFG_MAX_SPEED 1, 6)])) ∧
  ((fun (r : Fin 16) (s : State) => (s.chip.rd (R.HIO_PORT_STATUS_STATE r.val) = 2) ∧ (s.chip.rd (R.HIO_PORT_STATUS_KIND r.val) ≠ 1) ∧ (s.chip.rd (R.HIO_PORT_STATUS_DOWNS r.val) < (R.HIO_PORT_STATUS_DOWNS r.val).top)) 5 (stWith [(R.HIO_PORT_STATUS_STATE 5, 2)])) ∧
  ((fun (r : Fin 16) (s : State) => (s.chip.rd (R.HIO_PORT_STATUS_STATE r.val) ≠ 2)) 5 (stWith [])) ∧
  ((fun (req : Requester) (o : Fin 2) (v : BitVec 32) (s : State) => (writeAccepted s.chip req (R.HIO_CLKOUT o.val)) ∧ (s.chip.feedsCommon o.val = true) ∧ (v.toNat / 16 % 16 ≠ 0)) (.pcu 0) 1 0x80000010 (stWith [hold0, (R.HIO_SLOT_CFG_EN 2, 1), (R.HIO_SLOT_CFG_CLKSRC 2, 1)])) ∧
  ((fun (req : Requester) (o : Fin 2) (v : BitVec 32) (s : State) => (writeAccepted s.chip req (R.HIO_CLKOUT o.val)) ∧ (s.chip.feedsCommon o.val = false)) (.pcu 0) 1 0x80000012 (stWith [hold0])) ∧
  ((fun (req : Requester) (sl : Fin 4) (v : BitVec 32) (s : State) => (writeAccepted s.chip req (R.HIO_SLOT_CFG sl.val)) ∧ (s.chip.on (R.HIO_SLOT_CFG_EN sl.val) = false) ∧ (v.getLsbD 31 = true) ∧ (v.getLsbD 25 = true)) (.pcu 0) 1 0x82000000 (stWith [hold0])) ∧
  ((fun (src : CmdSrc) (idx : BitVec 16) (x : Cmd) (s : State) => (cmdReady s.chip src idx 0x78 x)) .admin 5 (cmdA 0x78 []) (stAdm (cmdA 0x78 []) [(R.SEC_SESSION_VALID 0, 1), (R.SEC_SESSION_BIND 0, 2), (R.SEC_SESSION_ROLE 0, 1)] id)) ∧
  ((fun (src : CmdSrc) (idx : BitVec 16) (x : Cmd) (s : State) => (cmdReady s.chip src idx 0x7C x) ∧ (x.par 8 4 % 4096 = 0) ∧ (0 < x.par 12 4) ∧ (x.par 12 4 ≤ 0x1000000) ∧ (x.par 8 4 + x.par 12 4 ≤ slotSize) ∧ (s.chip.viewStatus x.partition (x.par 16 8) (x.par 12 4) = stOK) ∧ (s.chip.viewObstacle x.partition (x.par 16 8) (x.par 12 4) false = none) ∧ (s.chip.rd R.PCU_BOOT_STATUS_SLOT = 0)) .admin 5 (cmdA 0x7C [(8, 4, 4096), (12, 4, 64), (16, 8, 1099511627840)]) (stAdm (cmdA 0x7C [(8, 4, 4096), (12, 4, 64), (16, 8, 1099511627840)]) (ownA ++ [(R.SEC_SESSION_VALID 0, 1), (R.SEC_SESSION_BIND 0, 2), (R.SEC_SESSION_ROLE 0, 1)]) id)) ∧
  ((fun (src : CmdSrc) (idx : BitVec 16) (x : Cmd) (s : State) => (cmdReady s.chip src idx 0x7D x) ∧ (s.chip.flash.slotResult s.chip.stagedSlot = 1) ∧ (0 < x.par 8 4) ∧ (x.par 8 4 ≤ slotSize)) .admin 5 (cmdA 0x7D [(8, 4, 4096)]) (stAdm (cmdA 0x7D [(8, 4, 4096)]) [(R.SEC_SESSION_VALID 0, 1), (R.SEC_SESSION_BIND 0, 2), (R.SEC_SESSION_ROLE 0, 1)] id)) ∧
  ((fun (src : CmdSrc) (idx : BitVec 16) (x : Cmd) (s : State) => (cmdReady s.chip src idx 0x7D x) ∧ (0 < x.par 8 4) ∧ (x.par 8 4 ≤ slotSize) ∧ (s.chip.rd R.PCU_BOOT_STATUS_SLOT = 0)) .admin 5 (cmdA 0x7D [(8, 4, 4096)]) (stAdm (cmdA 0x7D [(8, 4, 4096)]) [(R.SEC_SESSION_VALID 0, 1), (R.SEC_SESSION_BIND 0, 2), (R.SEC_SESSION_ROLE 0, 1)] id)) ∧
  ((fun (src : CmdSrc) (idx : BitVec 16) (x : Cmd) (s : State) => (cmdReady s.chip src idx 0x7F x) ∧ (x.par 8 1 ≤ s.chip.flash.fused)) .admin 5 (cmdA 0x7F []) (stAdm (cmdA 0x7F []) [(R.SEC_SESSION_VALID 0, 1), (R.SEC_SESSION_BIND 0, 2), (R.SEC_SESSION_ROLE 0, 1)] id)) ∧
  ((fun (src : CmdSrc) (idx : BitVec 16) (x : Cmd) (s : State) => (cmdReady s.chip src idx 0x7F x) ∧ (s.chip.flash.fused < x.par 8 1) ∧ (x.par 8 1 ≤ 64)) .admin 5 (cmdA 0x7F [(8, 1, 9)]) (stAdm (cmdA 0x7F [(8, 1, 9)]) [(R.SEC_SESSION_VALID 0, 1), (R.SEC_SESSION_BIND 0, 2), (R.SEC_SESSION_ROLE 0, 1)] id)) := by
  iterate 22
    refine ⟨?_, ?_⟩
    · try unfold writeAccepted
      try unfold cmdReady
      decide +kernel
  try unfold writeAccepted
  try unfold cmdReady
  decide +kernel

theorem witness_PartitionCommandsComplete :
  ((fun (idx : BitVec 16) (x : Cmd) (u base : Nat) (fr sr : List Nat) (s : State) => (cmdReady s.chip .admin idx 0x50 x) ∧ (s.chip.cyc = 0) ∧ (x.par 8 1 = u) ∧ (0 < u) ∧ (u < 16) ∧ (s.chip.partState u = psFREE) ∧ (s.chip.viewStatus 0 (x.par 16 8) 64 = stOK) ∧ (s.chip.viewStatus 0 (x.par 16 8) (creationBytes (s.viewBytes 0 (x.par 16 8) 64)) = stOK) ∧ (s.chip.viewObstacle 0 (x.par 16 8) (creationBytes (s.viewBytes 0 (x.par 16 8) 64)) false = none) ∧ (s.chip.creationPlan u (creation (s.viewBytes 0 (x.par 16 8) (creationBytes (s.viewBytes 0 (x.par 16 8) 64)))) = (stOK, fr, sr, base))) 5 (cmdA 0x50 [(8, 1, 2), (16, 8, 1099511627776)]) 2 0 [] [] { (stAdm (cmdA 0x50 [(8, 1, 2), (16, 8, 1099511627776)]) [(⟨R.PART_SRAM_OWN 0, 7, 0⟩, 128), (R.PCU_PKG_ID_STACK_GIB, 0)] id) with mem := [(0x10000000006, 9), (0x10000000008, 4)] }) ∧
  ((fun (idx : BitVec 16) (x : Cmd) (s : State) => (cmdReady s.chip .admin idx 0x51 x) ∧ (s.chip.cyc = 0) ∧ (s.chip.partState x.partition = psREADY) ∧ (s.chip.rd R.THM_TRIP_PENDING = 0) ∧ (x.par 8 8 % 64 = 0) ∧ (x.par 8 8 < 2 ^ 46) ∧ (x.par 8 8 = 0 ∨ (4 ≤ x.par 16 1 ∧ x.par 16 1 ≤ 12)) ∧ (x.par 18 2 = 0xFFFF ∨ (s.chip.obj (x.par 18 2)).map (fun o => (o.kind, o.tenant)) = some (1, x.partition))) 5 (cmdA 0x51 [(8, 8, 64), (16, 1, 5), (18, 2, 65535)]) (stAdm (cmdA 0x51 [(8, 8, 64), (16, 1, 5), (18, 2, 65535)]) [(R.PART_STATE_STATE 1, 1), (R.CMP_CORE_STATE_OWNED 2 0, 1), (R.CMP_CORE_STATE_TENANT 2 0, 1), (R.CMP_CORE_STATE_STATE 2 0, 2)] id)) ∧
  ((fun (idx : BitVec 16) (x : Cmd) (s : State) => (cmdReady s.chip .admin idx 0x52 x) ∧ (0 < x.partition) ∧ (s.chip.partState x.partition = psRUNNING ∨ s.chip.partState x.partition = psREADY)) 5 (cmdA 0x52 []) (stAdm (cmdA 0x52 []) [(R.CMP_CORE_STATE_OWNED 2 0, 1), (R.CMP_CORE_STATE_TENANT 2 0, 1), (R.CMP_CORE_STATE_STATE 2 0, 2)] (fun c => c.onComp (fun y => { y with launches := [lchA] })))) ∧
  ((fun (idx : BitVec 16) (x : Cmd) (s : State) => (cmdReady s.chip .admin idx 0x53 x) ∧ (s.chip.cyc = 0) ∧ (x.partition ≠ 0) ∧ (s.chip.partState x.partition = psREADY) ∧ (s.chip.part.digests.any (fun g => g.tenant == x.partition) = false)) 5 (cmdA 0x53 []) (stAdm (cmdA 0x53 []) [(R.PART_STATE_STATE 1, 1), (R.CMP_CORE_STATE_OWNED 2 0, 1), (R.CMP_CORE_STATE_TENANT 2 0, 1), (R.CMP_CORE_STATE_STATE 2 0, 2)] (fun c => c.onMems (fun m => { m with xlat := [(0, (1, 0)), (1, (2, 1))] })))) ∧
  ((fun (idx : BitVec 16) (x : Cmd) (s : State) => (cmdReady s.chip .admin idx 0x53 x) ∧ (s.chip.cyc ≠ 0) ∧ (x.partition ≠ 0) ∧ (s.chip.partState x.partition = psREADY) ∧ (s.chip.part.digests.any (fun g => g.tenant == x.partition) = false)) 5 (cmdA 0x53 []) (stAdm (cmdA 0x53 []) [(R.PART_STATE_STATE 1, 1)] (fun c => { c with cyc := 7 }))) ∧
  ((fun (idx : BitVec 16) (x : Cmd) (s : State) => (cmdReady s.chip .admin idx 0x54 x) ∧ (x.partition ≠ 0) ∧ (s.chip.partState x.partition = psREADY) ∧ (x.par 8 4 ≠ 0) ∧ (x.par 14 2 = 1) ∧ (x.par 12 1 = s.chip.rd R.PCU_IF_VERSION_MAJOR) ∧ (s.chip.on (R.PART_STATE_JOINED x.partition) = false) ∧ (s.chip.viewStatus 0 (x.par 16 8) 2 = stOK) ∧ (s.chip.viewObstacle 0 (x.par 16 8) 2 false = none) ∧ (leField (s.viewBytes 0 (x.par 16 8) 2) 0 2 = s.chip.node) ∧ (s.chip.node < s.chip.nodeCount)) 5 (cmdA 0x54 [(8, 4, 77), (12, 1, 2), (14, 2, 1), (16, 8, 1099511627776)]) (stAdm (cmdA 0x54 [(8, 4, 77), (12, 1, 2), (14, 2, 1), (16, 8, 1099511627776)]) [(R.PART_STATE_STATE 1, 1), (⟨R.PART_SRAM_OWN 0, 7, 0⟩, 128)] id)) ∧
  ((fun (idx : BitVec 16) (x : Cmd) (nodes : List Nat) (s : State) => (cmdReady s.chip .admin idx 0x54 x) ∧ (x.partition ≠ 0) ∧ (s.chip.partState x.partition = psREADY) ∧ (x.par 8 4 ≠ 0) ∧ (x.par 14 2 ≠ 0) ∧ (x.par 14 2 ≤ 4096) ∧ (x.par 12 1 = s.chip.rd R.PCU_IF_VERSION_MAJOR) ∧ (s.chip.on (R.PART_STATE_JOINED x.partition) = false ∨ s.chip.rd (R.PART_SPID_SPID x.partition) = x.par 8 4) ∧ (s.chip.viewStatus 0 (x.par 16 8) (2 * x.par 14 2) = stOK) ∧ (s.chip.viewObstacle 0 (x.par 16 8) (2 * x.par 14 2) false = none) ∧ (nodes = (List.range (x.par 14 2)).map (fun i => leField (s.viewBytes 0 (x.par 16 8) (2 * x.par 14 2)) (2 * i) 2)) ∧ (nodes.contains s.chip.node = true) ∧ (nodes.any (fun m => decide (s.chip.nodeCount ≤ m)) = false)) 5 (cmdA 0x54 [(8, 4, 77), (12, 1, 2), (14, 2, 1), (16, 8, 1099511627776)]) [0] (stAdm (cmdA 0x54 [(8, 4, 77), (12, 1, 2), (14, 2, 1), (16, 8, 1099511627776)]) [(R.PART_STATE_STATE 1, 1), (⟨R.PART_SRAM_OWN 0, 7, 0⟩, 128)] id)) ∧
  ((fun (idx : BitVec 16) (x : Cmd) (s : State) => (cmdReady s.chip .admin idx 0x56 x) ∧ (s.chip.partState x.partition = psREADY)) 5 (cmdA 0x56 []) (stAdm (cmdA 0x56 []) [(R.PART_STATE_STATE 1, 1), (R.PART_STATE_JOINED 1, 1), (R.PART_SPID_SPID 1, 5)] id)) ∧
  ((fun (idx : BitVec 16) (x : Cmd) (s : State) => (cmdReady s.chip .admin idx 0x55 x) ∧ (x.partition ≠ 0) ∧ (s.chip.partState x.partition = psRUNNING) ∧ (s.chip.frogMembers x.partition = [s.chip.node]) ∧ (s.chip.part.frogs = [])) 5 (cmdA 0x55 [(8, 1, 3)]) (stAdm (cmdA 0x55 [(8, 1, 3)]) [] id)) ∧
  ((fun (idx : BitVec 16) (x : Cmd) (s : State) => (cmdReady s.chip .admin idx 0x55 x) ∧ (x.partition ≠ 0) ∧ (s.chip.partState x.partition = psRUNNING ∨ s.chip.partState x.partition = psREADY)) 5 (cmdA 0x55 [(8, 1, 3)]) (stAdm (cmdA 0x55 [(8, 1, 3)]) [] id)) ∧
  ((fun (idx : BitVec 16) (x : Cmd) (s : State) => (cmdReady s.chip .admin idx 0x58 x) ∧ (s.chip.partState x.partition = psRUNNING) ∧ (x.par 8 1 ≤ 7) ∧ (x.par 16 8 % 4096 = 0) ∧ (x.par 24 8 % 4096 = 0) ∧ (0 < x.par 24 8) ∧ (x.par 24 8 ≤ 2 ^ 40) ∧ (s.chip.part.digests = [])) 5 (cmdA 0x58 [(8, 1, 3), (24, 8, 4096)]) (stAdm (cmdA 0x58 [(8, 1, 3), (24, 8, 4096)]) [] id)) ∧
  ((fun (idx : BitVec 16) (x : Cmd) (s : State) => (cmdReady s.chip .admin idx 0x58 x) ∧ (s.chip.partState x.partition = psRUNNING ∨ s.chip.partState x.partition = psREADY) ∧ (x.par 8 1 ≤ 7) ∧ (x.par 16 8 % 4096 = 0) ∧ (x.par 24 8 % 4096 = 0) ∧ (0 < x.par 24 8) ∧ (x.par 24 8 ≤ 2 ^ 40) ∧ ((s.chip.part.digests.filter (fun g => g.die == x.par 8 1)).length < 9)) 5 (cmdA 0x58 [(8, 1, 3), (24, 8, 4096)]) (stAdm (cmdA 0x58 [(8, 1, 3), (24, 8, 4096)]) [] id)) ∧
  ((fun (tn : Fin 16) (spid id row origin sender cause : Nat) (st : Stitch) (s : State) => (st.data = frogData spid tn.val 1 id row origin sender cause) ∧ (spid < 2 ^ 32) ∧ (id < 65536) ∧ (row < 2 ^ 48) ∧ (origin < 4096) ∧ (s.chip.on (R.PART_STATE_JOINED tn.val) = true) ∧ (s.chip.rd (R.PART_SPID_SPID tn.val) = spid) ∧ (s.chip.partState tn.val = psRUNNING) ∧ (s.chip.part.frogs = []) ∧ (s.chip.row < row)) 1 77 9 30 6 7 3 { srcNode := 6, srcSite := 31, opcode := opCTRL, data := frogData 77 1 1 9 30 6 7 3 } (stWith [(R.PART_STATE_JOINED 1, 1), (R.PART_SPID_SPID 1, 77), (R.PART_STATE_STATE 1, 2)])) ∧
  ((fun (st : Stitch) (s : State) => (st.data.getD 5 0 = 1)) { srcNode := 6, srcSite := 31, opcode := opCTRL, data := frogData 77 1 1 9 30 6 7 3 } (stWith [])) ∧
  ((fun (tn : Fin 16) (id row origin sender cause : Nat) (w : FrogWait) (st : Stitch) (s : State) => (st.data = frogData (s.chip.rd (R.PART_SPID_SPID tn.val)) tn.val 2 id row origin sender cause) ∧ (id < 65536) ∧ (sender < 4096) ∧ (s.chip.part.waits = [w]) ∧ (w.tenant = tn.val) ∧ (w.id = id) ∧ (w.acked = []) ∧ (s.chip.frogMembers tn.val = [sender, sender + 1])) 1 9 30 6 7 3 ⟨.admin, 5, 1, 77, 9, 30, []⟩ { srcNode := 6, srcSite := 31, opcode := opCTRL, data := frogData 77 1 2 9 30 6 7 3 } (stOf [(R.PART_SPID_SPID 1, 77)] (fun c => c.onPart (fun y => { y with waits := [⟨.admin, 5, 1, 77, 9, 30, []⟩], members := [(1, [7, 8])] })))) ∧
  ((fun (st : Stitch) (s : State) => (st.data.getD 5 0 = 2)) { srcNode := 6, srcSite := 31, opcode := opCTRL, data := frogData 77 1 2 9 30 6 7 3 } (stWith [])) ∧
  ((fun (tn : Fin 16) (f : FrogArm) (s : State) => (s.chip.part.frogs = [f]) ∧ (f.tenant = tn.val) ∧ (f.row ≤ s.chip.row)) 1 ⟨1, 0⟩ (stOf [] (fun c => (c.onPart (fun y => { y with frogs := [⟨1, 0⟩] })).onComp (fun y => { y with launches := [lchA] })))) ∧
  ((fun (tn : Fin 16) (s : State) => (s.chip.part.frogs.any (fun f => f.tenant == tn.val && decide (f.row ≤ s.chip.row)) = true)) 1 (stOf [] (fun c => (c.onPart (fun y => { y with frogs := [⟨1, 0⟩] })).onComp (fun y => { y with launches := [lchA] })))) ∧
  ((fun (tn : Fin 16) (w : FrogWait) (x : Cmd) (s : State) => (s.chip.part.waits = [w]) ∧ (w.tenant = tn.val) ∧ (w.row + max 1 (s.chip.rd R.PART_FROG_WAIT_ACK_WAIT) ≤ s.chip.row) ∧ (s.chip.cmd.cmds.find? (fun y => y.src == w.src && y.idx == w.idx) = some x)) 1 ⟨.admin, 5, 1, 77, 9, 30, [7]⟩ (cmdA 0x55 []) { (stOf [] (fun c => (c.onPart (fun y => { y with waits := [⟨.admin, 5, 1, 77, 9, 30, [7]⟩], members := [(1, [7, 8])] })).onCmd (fun y => { y with cmds := [cmdA 0x55 []] }))) with chip.row := 2 ^ 40 }) ∧
  ((fun (tn : Fin 16) (s : State) => (s.chip.part.waits.any (fun w => w.tenant == tn.val && decide (w.row + s.chip.rdPos R.PART_FROG_WAIT_ACK_WAIT ≤ s.chip.row)) = true)) 1 { (stOf [] (fun c => (c.onPart (fun y => { y with waits := [⟨.admin, 5, 1, 77, 9, 30, [7]⟩], members := [(1, [7, 8])] })).onCmd (fun y => { y with cmds := [cmdA 0x55 []] }))) with chip.row := 2 ^ 40 }) ∧
  ((fun (tn : Fin 16) (f : Nat) (s : State) => (getKey tn.val s.chip.part.draining = some f) ∧ (f + max 0x1000 (s.chip.rd R.PART_FROG_CFG_DRAIN) ≤ s.chip.row)) 1 5 { (stOf [] (fun c => c.onPart (fun y => { y with draining := [(1, 5)] }))) with chip.row := 2 ^ 40 }) ∧
  ((fun (die : Fin 8) (g : Digest) (x : Cmd) (s : State) => (s.chip.part.digests.find? (fun g => g.die == die.val) = some g) ∧ (s.chip.cmd.cmds.find? (fun y => y.src == g.src && y.idx == g.idx) = some x) ∧ (s.chip.digestStatus g.tenant g.addr g.len = stOK) ∧ (s.chip.viewObstacle g.tenant g.addr g.len false = none)) 3 ⟨3, .admin, 5, 1, 0x10000000000, 64⟩ (cmdA 0x58 []) (stAdm (cmdA 0x58 []) ownA (fun c => c.onPart (fun y => { y with digests := [⟨3, .admin, 5, 1, 0x10000000000, 64⟩] })))) := by
  iterate 21
    refine ⟨?_, ?_⟩
    · try unfold cmdReady
      decide +kernel
  try unfold cmdReady
  decide +kernel

theorem witness_ClockCommandsComplete :
  ((fun (req : Requester) (d : Fin 10) (v : BitVec 32) (s : State) => (writeAccepted s.chip req (R.CLK_FCHG d.val)) ∧ (v.getLsbD 31 = true) ∧ (v.getLsbD 30 = false) ∧ ((if d.val < 8 then 24 else 32) ≤ (v.toNat / 2 ^ 23 % 128)) ∧ ((v.toNat / 2 ^ 23 % 128) ≤ (if d.val < 8 then 72 else 120)) ∧ (s.chip.row + max 2 (s.chip.rd R.CLK_CFG_ANNOUNCE_MIN) ≤ s.chip.rowAhead (v.toNat % 65536)) ∧ (s.chip.clk.announced = []) ∧ (s.chip.clk.running = [])) (.pcu 0) 3 0xA4000040 (stWith [hold0])) ∧
  ((fun (req : Requester) (d : Fin 10) (v : BitVec 32) (s : State) => (writeAccepted s.chip req (R.CLK_FCHG d.val)) ∧ (v.getLsbD 31 = true) ∧ (v.getLsbD 30 = false) ∧ ((v.toNat / 2 ^ 23 % 128) < 24)) (.pcu 0) 3 0x80000040 (stWith [hold0])) ∧
  ((fun (req : Requester) (d : Fin 10) (v : BitVec 32) (f : FreqChange) (s : State) => (writeAccepted s.chip req (R.CLK_FCHG d.val)) ∧ (v.getLsbD 31 = false) ∧ (v.getLsbD 30 = true) ∧ (s.chip.clk.announced = [f]) ∧ (f.die = d.val)) (.pcu 0) 3 0x40000000 ⟨3, 40, 90, 0⟩ (stOf [hold0] (fun c => c.onClk (fun x => { x with announced := [⟨3, 40, 90, 0⟩] })))) ∧
  ((fun (d : Fin 10) (r : Fin 82) (f : FreqRun) (s : State) => (s.chip.clk.running = [f]) ∧ (f.die = d.val) ∧ (f.locked = false) ∧ (s.chip.clk.resets = []) ∧ ((regionsOf d.val).contains r.val = true) ∧ (s.chip.regionLive r.val = true)) 3 27 ⟨3, 40, 5, false, false⟩ (stOf [] (fun c => c.onClk (fun x => { x with running := [⟨3, 40, 5, false, false⟩] })))) ∧
  ((fun (d : Fin 10) (r : Fin 82) (s : State) => (s.chip.clk.running.any (fun f => f.die == d.val && !f.locked) = true)) 3 27 (stOf [] (fun c => c.onClk (fun x => { x with running := [⟨3, 40, 5, false, false⟩] })))) ∧
  ((fun (r : Fin 94) (n : Nat) (s : State) => (s.chip.clk.resets = [⟨r.val, n, false⟩]) ∧ (s.chip.clk.waking = [])) 3 5 (stOf [] (fun c => c.onClk (fun x => { x with resets := [⟨3, 5, false⟩] })))) ∧
  ((fun (r : Fin 94) (s : State) => (s.chip.clk.resets.any (fun x => x.region == r.val && !x.locked) = true ∨ s.chip.clk.waking.any (fun x => x.region == r.val && !x.locked) = true)) 3 (stOf [] (fun c => c.onClk (fun x => { x with resets := [⟨3, 5, false⟩] })))) ∧
  ((fun (r : Fin 94) (n : Nat) (s : State) => (s.chip.clk.resets = [⟨r.val, n, false⟩]) ∧ (s.chip.clk.waking = []) ∧ (s.chip.clk.running = []) ∧ (r.val < 82) ∧ (n + max 12 (s.chip.rd R.CLK_CFG_RELOCK_MAX) ≤ s.chip.row) ∧ (s.chip.on (R.CLK_REGION_GATED r.val) = false)) 3 5 (rowAt 900 (stOf [] (fun c => c.onClk (fun x => { x with resets := [⟨3, 5, false⟩] }))))) ∧
  ((fun (r : Fin 94) (row : Nat) (s : State) => (s.chip.clk.resets = [⟨r.val, row, false⟩]) ∧ (s.chip.clk.waking = []) ∧ (s.chip.clk.running = []) ∧ (90 ≤ r.val) ∧ (row + s.chip.relockMax ≤ s.chip.row)) 91 5 (rowAt 900 (stOf [] (fun c => c.onClk (fun x => { x with resets := [⟨91, 5, false⟩] }))))) ∧
  ((fun (req : Requester) (v : BitVec 32) (s : State) => (writeAccepted s.chip req R.CLK_DOMAIN_RESET) ∧ (v.getLsbD 31 = true) ∧ ((v.toNat % 128) < 90) ∧ (s.chip.ready = false) ∧ (s.chip.on (R.CLK_REGION_GATED (v.toNat % 128)) = false) ∧ (s.chip.on (R.CLK_REGION_FENCED (v.toNat % 128)) = false) ∧ (s.chip.clk.resets = [])) (.pcu 0) 0x80000005 (stWith [hold0])) ∧
  ((fun (req : Requester) (v : BitVec 32) (s : State) => (writeAccepted s.chip req R.CLK_DOMAIN_RESET) ∧ (v.getLsbD 31 = true) ∧ (90 ≤ (v.toNat % 128))) (.pcu 0) 0x8000005A (stWith [hold0])) ∧
  ((fun (r : Fin 94) (s : State) => (s.chip.clk.absent = false) ∧ (r.val < 82) ∧ (s.chip.on (R.CLK_REGION_FENCED r.val) = false) ∧ (s.chip.on (R.CLK_REGION_GATED r.val) = false)) 5 (stWith [])) ∧
  ((fun (r : Fin 94) (stopped : Bool) (s : State) => (s.chip.clk.absent = false) ∧ (82 ≤ r.val) ∧ (r.val < 90) ∧ (s.chip.on (R.CLK_REGION_FENCED r.val) = false) ∧ (s.chip.rd (R.CLK_REGION_SRC r.val) ≠ 2)) 83 true (stWith [])) ∧
  ((fun (r : Fin 94) (stopped : Bool) (s : State) => (s.chip.clk.absent = false) ∧ (s.chip.on (R.CLK_REGION_FENCED r.val) = false ∨ s.chip.rd (R.CLK_REGION_SRC r.val) = 2) ∧ (stopped = false ∨ 82 ≤ r.val)) 91 true (stWith [])) ∧
  ((fun (r : Fin 94) (stopped : Bool) (s : State) => (s.chip.clk.absent = true)) 5 true (stOf [] (fun c => c.onClk (fun x => { x with absent := true })))) ∧
  ((fun (s : State) => (s.chip.clk.absent = false) ∧ (s.chip.on R.CLK_STATUS_REFCLK_OK = true) ∧ (s.chip.on R.CLK_STATUS_FAB_STANDBY = true)) (stWith [(R.CLK_STATUS_REFCLK_OK, 1), (R.CLK_STATUS_FAB_STANDBY, 1)])) ∧
  ((fun (s : State) => (s.chip.clk.absent = false) ∧ (s.chip.on R.CLK_STATUS_REFCLK_OK = true) ∧ (s.chip.on R.CLK_STATUS_FAB_STANDBY = false)) (stWith [(R.CLK_STATUS_REFCLK_OK, 1), (R.CLK_STATUS_FAB_STANDBY, 0)])) ∧
  ((fun (s : State) => (s.chip.clk.absent = true) ∧ (s.chip.on R.CLK_STATUS_REFCLK_OK = true) ∧ (s.chip.rd R.CLK_REFCLK_MON_GAPS < R.CLK_REFCLK_MON_GAPS.top)) (stOf [(R.CLK_STATUS_REFCLK_OK, 1)] (fun c => c.onClk (fun x => { x with absent := true })))) ∧
  ((fun (r : Fin 94) (s : State) => (s.chip.clk.absent = true) ∧ (s.chip.on R.CLK_STATUS_REFCLK_OK = true)) 5 (stOf [(R.CLK_STATUS_REFCLK_OK, 1)] (fun c => c.onClk (fun x => { x with absent := true })))) ∧
  ((fun (req : Requester) (v : BitVec 32) (s : State) => (writeAccepted s.chip req R.CLK_GATE_EN_LO)) (.pcu 0) 5 (stWith [hold0])) ∧
  ((fun (req : Requester) (v : BitVec 32) (s : State) => (writeAccepted s.chip req R.CLK_GATE_EN_HI)) (.pcu 0) 5 (stWith [hold0])) ∧
  ((fun (req : Requester) (d : Fin 8) (v : BitVec 32) (s : State) => (writeAccepted s.chip req (R.CLK_CL_GATE d.val))) (.pcu 0) 3 5 (stWith [hold0])) := by
  iterate 21
    refine ⟨?_, ?_⟩
    · try unfold writeAccepted
      decide +kernel
  try unfold writeAccepted
  decide +kernel

theorem witness_PowerCommandsComplete :
  ((fun (src : CmdSrc) (idx : BitVec 16) (x : Cmd) (s : State) => (cmdReady s.chip src idx 0x60 x)) .admin 5 (cmdA 0x60 []) (stAdm (cmdA 0x60 []) [(R.PWR_SLACK_SLACK, 9)] id)) ∧
  ((fun (src : CmdSrc) (idx : BitVec 16) (x : Cmd) (s : State) => (cmdReady s.chip src idx 0x61 x) ∧ (3000 ≤ x.par 8 2) ∧ (x.par 8 2 ≤ s.chip.ppl)) .admin 5 (cmdA 0x61 [(8, 2, 4000)]) (stAdm (cmdA 0x61 [(8, 2, 4000)]) [] id)) ∧
  ((fun (src : CmdSrc) (idx : BitVec 16) (x : Cmd) (s : State) => (cmdReady s.chip src idx 0x61 x) ∧ (x.par 8 2 < 3000)) .admin 5 (cmdA 0x61 [(8, 2, 2000)]) (stAdm (cmdA 0x61 [(8, 2, 2000)]) [] id)) ∧
  ((fun (src : CmdSrc) (idx : BitVec 16) (x : Cmd) (s : State) => (cmdReady s.chip src idx 0x62 x) ∧ (0 < x.par 8 2) ∧ (0 < x.par 10 2) ∧ (x.par 8 2 < 65536)) .admin 5 (cmdA 0x62 [(8, 2, 2000), (10, 2, 50)]) (stAdm (cmdA 0x62 [(8, 2, 2000), (10, 2, 50)]) [] id)) ∧
  ((fun (src : CmdSrc) (idx : BitVec 16) (x : Cmd) (s : State) => (cmdReady s.chip src idx 0x62 x) ∧ (x.par 8 2 = 0)) .admin 5 (cmdA 0x62 []) (stAdm (cmdA 0x62 []) [(R.PWR_LIMIT_TARGET, 400)] id)) ∧
  ((fun (s : State) => (s.chip.on R.PWR_STATUS_TARGET_VALID = true) ∧ (s.chip.pwr.targetUntil ≤ s.chip.now)) (stWith [(R.PWR_STATUS_TARGET_VALID, 1), (R.PWR_LIMIT_TARGET, 400)])) ∧
  ((fun (s : State) => (s.chip.now < s.chip.pwr.targetUntil)) (stOf [] (fun c => c.onPwr (fun x => { x with targetUntil := 5 })))) ∧
  ((fun (r : Fin 82) (s : State) => (s.chip.pwr.stretching.contains r.val = false) ∧ (s.chip.on (R.CLK_REGION_GATED r.val) = false) ∧ (r.val < 72) ∧ (s.chip.rd (R.PWR_DIE_W_DROOPS (r.val / 9)) < (R.PWR_DIE_W_DROOPS 0).top)) 30 (stWith [])) ∧
  ((fun (r : Fin 82) (d : Nat) (s : State) => (dieOfRegion r.val = some d) ∧ (s.chip.pwr.stretching.contains r.val = false) ∧ (s.chip.on (R.CLK_REGION_GATED r.val) = false)) 30 3 (stWith [])) ∧
  ((fun (d : Fin 8) (s : State) => (s.chip.on R.PWR_STATUS_FAST_LIMIT = false)) 5 (stWith [])) ∧
  ((fun (d : Fin 8) (s : State) => (s.chip.pins.phase = .running) ∧ (s.chip.on R.PWR_STATUS_BRAKE = false)) 5 (stOf [] (fun c => c.onPins (fun x => { x with phase := .running })))) ∧
  ((fun (s : State) => (s.chip.pins.phase ≠ .running)) (stOf [] (fun c => c.onPins (fun x => { x with phase := .castOn })))) ∧
  ((fun (s : State) => (s.chip.on R.PWR_STATUS_BRAKE = true)) (stOf [(R.PWR_STATUS_BRAKE, 1)] (fun c => c.onPwr (fun x => { x with emergency := [(3, .brake)] })))) ∧
  ((fun (d : Fin 10) (s : State) => (toSigned 8 (s.chip.rd (R.PWR_DIE_TRIM d.val)) < 0)) 3 (stWith [(R.PWR_DIE_TRIM 3, 246)])) ∧
  ((fun (d : Fin 10) (s : State) => (0 ≤ toSigned 8 (s.chip.rd (R.PWR_DIE_TRIM d.val)))) 3 (stWith [(R.PWR_DIE_POINT 3, 5)])) ∧
  ((fun (s : State) => (s.chip.pins.phase = .running ∨ s.chip.pins.phase = .castOn)) (stOf [] (fun c => c.onPins (fun x => { x with phase := .running })))) ∧
  ((fun (d : Fin 10) (s : State) => (s.chip.pins.phase = .running)) 3 (stOf [] (fun c => c.onPins (fun x => { x with phase := .running })))) ∧
  ((fun (s : State) => (s.chip.pins.phase = .off)) (stOf [] (fun c => c.onPins (fun x => { x with phase := .off })))) := by
  iterate 17
    refine ⟨?_, ?_⟩
    · try unfold cmdReady
      decide +kernel
  try unfold cmdReady
  decide +kernel

theorem witness_ThermalCommandsComplete :
  ((fun (z : Fin 144) (temps : List (BitVec 16)) (hot : Int) (s : State) => (s.chip.thm.broken = []) ∧ (temps.length ≤ Config.zoneSensors z.val) ∧ (hottest (temps.map BitVec.toInt) = some hot)) 3 [400, 0xFFFF, 480] 480 (stWith [])) ∧
  ((fun (z : Fin 144) (temps : List (BitVec 16)) (hot : Int) (s : State) => (hottest (((temps.zipIdx).filter (fun x => decide (x.2 < Config.zoneSensors z.val) && !s.chip.thm.broken.contains (z.val, x.2))).map (fun x => x.1.toInt)) = some hot)) 3 [400, 0xFFFF, 480] 480 (stOf [] (fun c => c.onThm (fun x => { x with broken := [(3, 0), (19, 1)] })))) ∧
  ((fun (z : Fin 144) (temps : List (BitVec 16)) (hot : Int) (s : State) => (s.chip.thm.broken = []) ∧ (temps.length ≤ Config.zoneSensors z.val) ∧ (hottest (temps.map BitVec.toInt) = some hot) ∧ (z.val < 64) ∧ (s.chip.zoneMin z.val ≤ hot)) 19 [400, 900] 900 (stWith [])) ∧
  ((fun (z : Fin 144) (sensor : Fin 64) (reading : BitVec 16) (full : Bool) (s : State) => (s.chip.thm.broken = []) ∧ (sensor.val < Config.zoneSensors z.val) ∧ (s.chip.rd (R.THM_ZONE_STATE_BROKEN z.val) < (R.THM_ZONE_STATE_BROKEN 0).top)) 19 1 0 true (stWith [])) ∧
  ((fun (z : Fin 144) (sensor : Fin 64) (reading : BitVec 16) (full : Bool) (s : State) => (s.chip.thm.broken.contains (z.val, sensor.val) = false) ∧ (sensor.val < Config.zoneSensors z.val) ∧ (s.chip.brokenIn z.val = 0)) 19 1 0 true (stOf [] (fun c => c.onThm (fun x => { x with broken := [(3, 0)] })))) ∧
  ((fun (z : Fin 144) (sensor : Fin 64) (reading : BitVec 16) (full : Bool) (d : Fin 10) (s : State) => (Config.zoneKind z.val ≠ .comb) ∧ (Config.zoneKind z.val ≠ .coolant) ∧ (s.chip.pins.phase = .running)) 19 1 1000 true 3 (stOf [] (fun c => c.onPins (fun x => { x with phase := .running })))) ∧
  ((fun (z : Fin 144) (sensor : Fin 64) (reading : BitVec 16) (full : Bool) (s : State) => (Config.zoneKind z.val = .comb) ∧ (s.chip.pins.phase = .running)) 137 1 1000 true (stOf [(R.LSU_COMB_SPACING_LOCK 1, 1)] (fun c => c.onPins (fun x => { x with phase := .running })))) ∧
  ((fun (z : Fin 144) (sensor : Fin 64) (reading : BitVec 16) (full : Bool) (s : State) => (Config.zoneKind z.val ≠ .coolant)) 19 1 1000 true (stWith [])) ∧
  ((fun (z : Fin 144) (sensor : Fin 64) (reading : BitVec 16) (full : Bool) (s : State) => (Config.zoneKind z.val = .coolant)) 143 1 1000 true (stWith [])) ∧
  ((fun (src : CmdSrc) (idx : BitVec 16) (x : Cmd) (r : TripRec) (s : State) => (cmdReady s.chip src idx 0x68 x) ∧ (s.chip.flash.reserve = [r]) ∧ (r.pending = true) ∧ (r.seq = x.par 8 4)) .admin 5 (cmdA 0x68 [(8, 4, 7)]) trpA (stAdm (cmdA 0x68 [(8, 4, 7)]) [] (fun c => c.onFlash (fun f => { f with reserve := [trpA] })))) ∧
  ((fun (src : CmdSrc) (idx : BitVec 16) (x : Cmd) (s : State) => (cmdReady s.chip src idx 0x68 x) ∧ (s.chip.flash.reserve.any (fun r => r.pending && r.seq == x.par 8 4) = true)) .admin 5 (cmdA 0x68 [(8, 4, 7)]) (stAdm (cmdA 0x68 [(8, 4, 7)]) [] (fun c => c.onFlash (fun f => { f with reserve := [trpA] })))) ∧
  ((fun (src : CmdSrc) (idx : BitVec 16) (x : Cmd) (s : State) => (cmdReady s.chip src idx 0x68 x) ∧ (s.chip.flash.reserve = [])) .admin 5 (cmdA 0x68 [(8, 4, 7)]) (stAdm (cmdA 0x68 [(8, 4, 7)]) [] id)) ∧
  ((fun (src : CmdSrc) (idx : BitVec 16) (x : Cmd) (s : State) => (cmdReady s.chip src idx 0x69 x)) .admin 5 (cmdA 0x69 []) (stAdm (cmdA 0x69 []) [(R.THM_ZONE_T_HOT 5, 400)] id)) ∧
  ((fun (s : State) => (s.chip.thm.lowFlow = false)) (stWith [])) ∧
  ((fun (d : Fin 8) (s : State) => (s.chip.thm.lowFlow = true) ∧ (s.chip.thm.ceils = []) ∧ (0 < s.chip.rd (R.THM_CEIL_CEIL d.val)) ∧ (s.chip.rd (R.THM_CEIL_CEIL d.val) ≤ s.chip.rd (R.PWR_DIE_MAX_POINT d.val))) 5 (stOf [] (fun c => c.onThm (fun x => { x with lowFlow := true })))) ∧
  ((fun (s : State) => (s.chip.thm.lowFlow = true)) (stOf [] (fun c => c.onThm (fun x => { x with lowFlow := true })))) ∧
  ((fun (d : Fin 8) (s : State) => (s.chip.thm.ceils = []) ∧ (0 < s.chip.rd (R.PWR_DIE_MAX_POINT d.val))) 5 (stWith [])) := by
  iterate 16
    refine ⟨?_, ?_⟩
    · try unfold cmdReady
      decide +kernel
  try unfold cmdReady
  decide +kernel

theorem witness_RecorderAndControlUnitCommandsComplete :
  ((fun (e : Event) (es : List Event) (s : State) => (s.chip.tokenHeld = true) ∧ (s.chip.captured = e :: es) ∧ (s.chip.captureLost = 0) ∧ (s.chip.trigs e.code = []) ∧ (Ev.nonVolatile e.code = false) ∧ (e.code ≠ Ev.volCleared) ∧ (s.chip.evr.records = []) ∧ (s.chip.evr.frozen = none)) (⟨0x0303, none, 4, [9], 70, 1⟩ : Event) [] (stOf [hold0] (fun c => { c with captured := [(⟨0x0303, none, 4, [9], 70, 1⟩ : Event)] }))) ∧
  ((fun (e : Event) (es : List Event) (s : State) => (s.chip.tokenHeld = true) ∧ (s.chip.captured = e :: es)) (⟨0x0303, none, 4, [9], 70, 1⟩ : Event) [] (stOf [hold0] (fun c => { c with captured := [(⟨0x0303, none, 4, [9], 70, 1⟩ : Event)] }))) ∧
  ((fun (req : Requester) (v : BitVec 32) (s : State) => (writeAccepted s.chip req R.EVR_CTRL) ∧ (v.getLsbD 31 = true) ∧ (v.getLsbD 30 = false) ∧ (s.chip.evr.frozen = none)) (.pcu 0) 0x80000000 (stWith [hold0])) ∧
  ((fun (req : Requester) (v : BitVec 32) (e : EventRec) (n : Nat) (s : State) => (writeAccepted s.chip req R.EVR_CTRL) ∧ (v.getLsbD 31 = false) ∧ (v.getLsbD 30 = true) ∧ (s.chip.evr.frozen = some n) ∧ (s.chip.evr.queue = [e]) ∧ (e.code ≠ Ev.volCleared) ∧ (s.chip.evr.records = [])) (.pcu 0) 0x40000000 evrA 5 (stOf [hold0] (fun c => c.onEvr (fun x => { x with frozen := some 5, queue := [evrA] })))) ∧
  ((fun (n : Nat) (s : State) => (s.chip.evr.frozen = some n) ∧ (n ≤ s.chip.now) ∧ (s.chip.evr.queue = []) ∧ (s.chip.captured = [])) 0 (stOf [] (fun c => c.onEvr (fun x => { x with frozen := some 0 })))) ∧
  ((fun (n : Nat) (s : State) => (s.chip.evr.frozen = some n) ∧ (s.chip.reached n = true)) 0 (stOf [] (fun c => c.onEvr (fun x => { x with frozen := some 0 })))) ∧
  ((fun (req : Requester) (v : BitVec 32) (s : State) => (writeAccepted s.chip req R.EVR_CLEAR) ∧ (v.getLsbD 31 = true) ∧ (s.chip.evr.frozen = none)) (.pcu 0) 0x80000000 (stOf [hold0] (fun c => c.onEvr (fun x => { x with records := [evrA] })))) ∧
  ((fun (req : Requester) (v : BitVec 32) (s : State) => (writeAccepted s.chip req R.EVR_NV_CLEAR) ∧ (v.getLsbD 31 = true) ∧ (s.chip.evr.records.length < 4095)) (.pcu 0) 0x80000000 (stOf [hold0] (fun c => c.onFlash (fun x => { x with records := [evrA] })))) ∧
  ((fun (s : State) => (s.chip.pins.pwrGood = true)) (stOf [] (fun c => c.onPins (fun x => { x with pwrGood := true })))) ∧
  ((fun (unit : Fin 2) (s : State) => (s.chip.rd R.PCU_LEASE_STATUS_HOLDER = unit.val)) 0 (stWith [hold0])) ∧
  ((fun (unit : Fin 2) (gap : BitVec 16) (s : State) => (s.chip.rd R.PCU_LEASE_STATUS_HOLDER = unit.val) ∧ (s.chip.rd (R.PCU_UNIT_STATE (1 - unit.val)) = 3) ∧ (s.chip.on R.PCU_DEBUG_HOLD_EN = false) ∧ (s.chip.sec.live = []) ∧ (s.chip.rowsRun = false ∨ s.chip.pcu.leaseUntil ≤ s.chip.cycles)) 0 9 (stWith [hold0, (R.PCU_UNIT_STATE 1, 3)])) ∧
  ((fun (beat halted : Bool) (gap bad : BitVec 16) (s : State) => (s.chip.tokenHeld = true) ∧ (s.chip.on R.PCU_DEBUG_HOLD_EN = false) ∧ (s.chip.reachedCycle s.chip.pcu.leaseUntil = true)) true false 9 0 (stWith [hold0, (R.PCU_UNIT_STATE 1, 3)])) ∧
  ((fun (unit : Fin 2) (why : Fin 4) (gap : BitVec 16) (s : State) => (s.chip.rd R.PCU_LEASE_STATUS_HOLDER = unit.val) ∧ (s.chip.rd (R.PCU_UNIT_STATE (1 - unit.val)) = 3) ∧ (s.chip.on R.PCU_DEBUG_HOLD_EN = false) ∧ (s.chip.sec.live = [])) 0 2 9 (stWith [hold0, (R.PCU_UNIT_STATE 1, 3)])) ∧
  ((fun (why : Fin 4) (beat : Bool) (gap bad : BitVec 16) (s : State) => (s.chip.tokenHeld = true)) 2 true 9 0 (stWith [hold0, (R.PCU_UNIT_STATE 1, 3)])) ∧
  ((fun (d : Fin 8) (s : State) => (s.chip.tokenHeld = false) ∧ (s.chip.on R.PCU_DEBUG_HOLD_EN = false) ∧ (s.chip.on R.PCU_LEASE_STATUS_NO_TOKEN = false) ∧ (s.chip.rowsRun = false ∨ s.chip.pcu.lostAt + 2000000 * max 1 (s.chip.rd R.PCU_LEASE_CFG_NOPCU_MS) ≤ s.chip.cycles)) 5 (stWith [(R.PCU_LEASE_STATUS_HOLDER, 3)])) ∧
  ((fun (unit : Fin 2) (gap bad : BitVec 16) (s : State) => (s.chip.tokenHeld = true) ∧ (s.chip.rd (R.PCU_UNIT_STATE unit.val) = 5)) 1 9 0 (stWith [hold0, (R.PCU_UNIT_STATE 1, 5)])) ∧
  ((fun (unit : Fin 2) (ok : Bool) (gap bad : BitVec 16) (s : State) => (s.chip.rd (R.PCU_UNIT_STATE unit.val) = 3) ∧ (s.chip.tokenHeld = false) ∧ (s.chip.on R.PCU_DEBUG_HOLD_EN = false)) 1 true 9 0 (stWith [(R.PCU_LEASE_STATUS_HOLDER, 3), (R.PCU_UNIT_STATE 1, 3)])) ∧
  ((fun (unit : Fin 2) (gap bad : BitVec 16) (s : State) => (s.chip.rd (R.PCU_UNIT_STATE unit.val) = 5) ∧ (s.chip.tokenHeld = false) ∧ (s.chip.on R.PCU_DEBUG_HOLD_EN = false)) 1 9 0 (stWith [(R.PCU_LEASE_STATUS_HOLDER, 3), (R.PCU_UNIT_STATE 1, 5)])) ∧
  ((fun (unit : Fin 2) (gap bad : BitVec 16) (s : State) => (s.chip.rd (R.PCU_UNIT_STATE unit.val) = 5)) 1 9 0 (stWith [(R.PCU_UNIT_STATE 1, 5)])) ∧
  ((fun (req : Requester) (v : BitVec 32) (s : State) => (writeAccepted s.chip req R.PCU_DEBUG_HOLD) ∧ (v.getLsbD 31 = true) ∧ (s.chip.on R.PCU_DEBUG_HOLD_EN = false)) (.pcu 0) 0x80000000 (stWith [hold0])) ∧
  ((fun (req : Requester) (v : BitVec 32) (s : State) => (writeAccepted s.chip req R.PCU_DEBUG_HOLD) ∧ (v.getLsbD 31 = false) ∧ (s.chip.on R.PCU_DEBUG_HOLD_EN = true)) (.pcu 0) 0 (stWith [hold0, (R.PCU_DEBUG_HOLD_EN, 1)])) ∧
  ((fun (idx : BitVec 16) (x : Cmd) (d : Fin 2) (k : Fin 96) (s : State) => (cmdReady s.chip .admin idx 0x59 x) ∧ (x.par 8 4 = Unit.hart d.val k.val) ∧ (s.chip.rd (R.CPU_CORE_STATE_STATE d.val k.val) ≠ 4)) 5 (cmdA 0x59 [(8, 4, Unit.hart 1 5)]) 1 5 (stAdm (cmdA 0x59 [(8, 4, Unit.hart 1 5)]) [(R.SEC_SESSION_VALID 0, 1), (R.SEC_SESSION_BIND 0, 2), (R.SEC_SESSION_ROLE 0, 1)] id)) ∧
  ((fun (idx : BitVec 16) (x : Cmd) (c : Chip) (s : State) => (cmdReady s.chip .admin idx 0x59 x) ∧ ((((s.begun x).chip.setCmd x.begun { x.begun with committed := true }).fenceUnit (x.par 8 4)) = some c)) 5 (cmdA 0x59 [(8, 4, Unit.hart 1 5)]) ((((stAdm (cmdA 0x59 [(8, 4, Unit.hart 1 5)]) [(R.SEC_SESSION_VALID 0, 1), (R.SEC_SESSION_BIND 0, 2), (R.SEC_SESSION_ROLE 0, 1)] id).begun (cmdA 0x59 [(8, 4, Unit.hart 1 5)])).chip.setCmd (Cmd.begun (cmdA 0x59 [(8, 4, Unit.hart 1 5)])) { Cmd.begun (cmdA 0x59 [(8, 4, Unit.hart 1 5)]) with committed := true }).fenceHart 1 5) (stAdm (cmdA 0x59 [(8, 4, Unit.hart 1 5)]) [(R.SEC_SESSION_VALID 0, 1), (R.SEC_SESSION_BIND 0, 2), (R.SEC_SESSION_ROLE 0, 1)] id)) ∧
  ((fun (idx : BitVec 16) (x : Cmd) (s : State) => (cmdReady s.chip .admin idx 0x59 x) ∧ (x.par 8 4 = 0)) 5 (cmdA 0x59 []) (stAdm (cmdA 0x59 []) [(R.SEC_SESSION_VALID 0, 1), (R.SEC_SESSION_BIND 0, 2), (R.SEC_SESSION_ROLE 0, 1)] id)) := by
  iterate 22
    refine ⟨?_, ?_⟩
    · try unfold writeAccepted
      try unfold cmdReady
      decide +kernel
  refine ⟨?_, ?_⟩
  · exact ⟨by unfold cmdReady; decide +kernel, rfl⟩
  try unfold writeAccepted
  try unfold cmdReady
  decide +kernel

theorem witness_SecurityCommandsComplete :
  ((fun (req : Requester) (v : BitVec 32) (w : Fin 24) (i : Fin 12) (s : State) => (writeAccepted s.chip req R.SEC_AUTH_CTRL) ∧ (v.toNat / 2 ^ 29 = 4)) (.pcu 0) 0x80000000 3 4 (stWith [hold0])) ∧
  ((fun (req : Requester) (v : BitVec 32) (n : Fin 4) (s : State) => (writeAccepted s.chip req R.SEC_AUTH_CTRL) ∧ (v.toNat / 2 ^ 29 = 2) ∧ (req ≠ .mgmt) ∧ (authFieldsGood (v.toNat / 2 ^ 27 % 4) (v.toNat / 2 ^ 25 % 4) (fget v.toNat 24 13) = true) ∧ (s.chip.sec.lockedUntil = some 5)) (.pcu 0) 0x4A000000 2 (stOf [hold0] (fun c => c.onSec (fun x => { x with lockedUntil := some 5 })))) ∧
  ((fun (req : Requester) (v : BitVec 32) (n : Fin 4) (s : State) => (writeAccepted s.chip req R.SEC_AUTH_CTRL) ∧ (v.toNat / 2 ^ 29 = 2) ∧ (req ≠ .mgmt) ∧ (authFieldsGood (v.toNat / 2 ^ 27 % 4) (v.toNat / 2 ^ 25 % 4) (fget v.toNat 24 13) = true) ∧ (s.chip.sec.lockedUntil = none) ∧ (s.chip.sec.nonceUntil = none)) (.pcu 0) 0x4A000000 2 (stWith [hold0])) ∧
  ((fun (req : Requester) (v : BitVec 32) (n : Fin 4) (s : State) => (writeAccepted s.chip req R.SEC_AUTH_CTRL) ∧ (v.toNat / 2 ^ 29 = 2) ∧ (req ≠ .mgmt) ∧ ((v.toNat / 2 ^ 27 % 4) = 3)) (.pcu 0) 0x58000000 2 (stWith [hold0])) ∧
  ((fun (req : Requester) (v : BitVec 32) (key : List Nat) (n : Nat) (s : State) => (writeAccepted s.chip req R.SEC_AUTH_CTRL) ∧ (v.toNat / 2 ^ 29 = 2) ∧ (req ≠ .mgmt) ∧ ((v.toNat / 2 ^ 27 % 4) = 1) ∧ (authFieldsGood 1 (v.toNat / 2 ^ 25 % 4) (fget v.toNat 24 13) = true) ∧ (s.chip.sec.lockedUntil = none) ∧ (s.chip.sec.nonceUntil = some n) ∧ (s.chip.now < n) ∧ (s.chip.flash.keys = [(0, key)]) ∧ (s.chip.sec.fails = []) ∧ ((List.range 4).all (fun i => !s.chip.on (R.SEC_SESSION_VALID i)) = true)) (.pcu 0) 0x4C000000 [1] 9 (stOf [hold0] (fun c => (c.onSec (fun x => { x with nonceUntil := some 9 })).onFlash (fun f => { f with keys := [(0, [1])] })))) ∧
  ((fun (u : Fin 2) (v : BitVec 32) (n : Fin 4) (s : State) => (writeAccepted s.chip (.pcu u) R.SEC_AUTH_CTRL) ∧ (v.toNat / 2 ^ 29 = 1) ∧ (v.toNat / 2 ^ 11 % 4 = n.val) ∧ (s.chip.on (R.SEC_SESSION_VALID n.val) = true)) 0 0x20001000 2 (stWith [hold0, (R.SEC_SESSION_VALID 2, 1)])) ∧
  ((fun (n : Fin 4) (u : Nat) (s : State) => (s.chip.sec.ends = [(n.val, u)]) ∧ (u ≤ s.chip.now) ∧ (s.chip.on (R.SEC_SESSION_VALID n.val) = true)) 2 0 (stOf [(R.SEC_SESSION_VALID 2, 1)] (fun c => c.onSec (fun x => { x with ends := [(2, 0)] })))) ∧
  ((fun (n : Fin 4) (u : Nat) (s : State) => (getKey n.val s.chip.sec.ends = some u) ∧ (s.chip.reached u = true)) 2 0 (stOf [(R.SEC_SESSION_VALID 2, 1)] (fun c => c.onSec (fun x => { x with ends := [(2, 0)] })))) ∧
  ((fun (w : Fin 12) (u : Nat) (s : State) => (s.chip.sec.nonceUntil = some u) ∧ (u ≤ s.chip.now)) 3 0 (stOf [] (fun c => c.onSec (fun x => { x with nonceUntil := some 0 })))) ∧
  ((fun (u : Nat) (s : State) => (s.chip.sec.lockedUntil = some u) ∧ (u ≤ s.chip.now)) 0 (stOf [] (fun c => c.onSec (fun x => { x with lockedUntil := some 0 })))) ∧
  ((fun (u : Nat) (s : State) => (s.chip.sec.lockedUntil = some u) ∧ (s.chip.rowsRun = true) ∧ (s.chip.now < u)) 5 (stOf [] (fun c => { c.onSec (fun x => { x with lockedUntil := some 5 }) with rowsRun := true }))) ∧
  ((fun (src : CmdSrc) (idx : BitVec 16) (x : Cmd) (s : State) => (cmdReady s.chip src idx 0x79 x) ∧ (s.chip.cmdRole src = .installer) ∧ (x.par 8 1 ≤ 1) ∧ (s.chip.viewStatus x.partition (x.par 16 8) 96 = stOK) ∧ (s.chip.viewObstacle x.partition (x.par 16 8) 96 false = none)) .admin 5 (cmdA 0x79 [(8, 1, 1), (16, 8, 1099511627776)]) (stAdm (cmdA 0x79 [(8, 1, 1), (16, 8, 1099511627776)]) (ownA ++ [(R.SEC_SESSION_VALID 0, 1), (R.SEC_SESSION_BIND 0, 2), (R.SEC_SESSION_ROLE 0, 1)]) id)) ∧
  ((fun (src : CmdSrc) (idx : BitVec 16) (x : Cmd) (s : State) => (cmdReady s.chip src idx 0x79 x) ∧ (s.chip.cmdRole src = .installer) ∧ (1 < x.par 8 1)) .admin 5 (cmdA 0x79 [(8, 1, 2)]) (stAdm (cmdA 0x79 [(8, 1, 2)]) (ownA ++ [(R.SEC_SESSION_VALID 0, 1), (R.SEC_SESSION_BIND 0, 2), (R.SEC_SESSION_ROLE 0, 1)]) id)) := by
  iterate 12
    refine ⟨?_, ?_⟩
    · try unfold writeAccepted
      try unfold cmdReady
      decide +kernel
  try unfold writeAccepted
  try unfold cmdReady
  decide +kernel

theorem witness_CastOnAndBindOffCommandsComplete :
  ((fun (o : CastOutcome) (s : State) => (s.chip.pins.phase = .held) ∧ (s.chip.pins.pwrGood = true) ∧ (s.chip.pins.vio = true) ∧ (s.chip.pins.resetN = false) ∧ (o.ok = true) ∧ (s.chip.rd R.EVR_POWER_CYCLES_COUNT < 2 ^ 32 - 1)) {} (stOf [] (fun c => c.onPins (fun x => { x with phase := .held, pwrGood := true, vio := true })))) ∧
  ((fun (o : CastOutcome) (s : State) => (s.chip.mayCast 2 = true) ∧ (o.ok = true)) {} (stOf ([(R.PCU_CASTON_STEP, 1), hold0] ++ []) (fun c => (id c).onPins (fun x => { x with phase := .castOn })))) ∧
  ((fun (o : CastOutcome) (s : State) => (s.chip.mayCast 2 = true) ∧ (o.ok = false) ∧ (s.chip.on R.PCU_BOOT_STATUS_TRIAL = false)) { ok := false } (stOf ([(R.PCU_CASTON_STEP, 1), hold0] ++ []) (fun c => (id c).onPins (fun x => { x with phase := .castOn })))) ∧
  ((fun (r : Fin 94) (o : CastOutcome) (s : State) => (s.chip.mayCast 5 = true) ∧ (o.ok = true) ∧ (s.chip.clk.fabLost = [])) 7 {} (stOf ([(R.PCU_CASTON_STEP, 4), hold0] ++ []) (fun c => (id c).onPins (fun x => { x with phase := .castOn })))) ∧
  ((fun (o : CastOutcome) (s : State) => (s.chip.mayCast 12 = true) ∧ (s.chip.time.step = none)) { ms := 3000 } (stOf ([(R.PCU_CASTON_STEP, 11), hold0] ++ []) (fun c => (id c).onPins (fun x => { x with phase := .castOn })))) ∧
  ((fun (n : Fin 13) (o : CastOutcome) (s : State) => (2 ≤ n.val) ∧ (s.chip.mayCast n.val = false)) 4 {} (stOf ([(R.PCU_CASTON_STEP, 1), hold0] ++ []) (fun c => (id c).onPins (fun x => { x with phase := .castOn })))) ∧
  ((fun (s : State) => (s.chip.mayCast 11 = true) ∧ (s.chip.sec.portsAt + 1000000000 * min 53 (s.chip.rd R.PCU_CASTON_CFG_PORT_WAIT) ≤ s.chip.now) ∧ ((List.range 16).all (s.chip.portSettled true) = true)) (rowAt (2 ^ 40) (stOf ([(R.PCU_CASTON_STEP, 10), hold0] ++ []) (fun c => (id c).onPins (fun x => { x with phase := .castOn }))))) ∧
  ((fun (s : State) => (s.chip.mayCast 11 = true) ∧ (s.chip.reached (s.chip.sec.portsAt + 1000000000 * min 53 (s.chip.rd R.PCU_CASTON_CFG_PORT_WAIT)) = true) ∧ ((List.range 16).all (s.chip.portSettled true) = true)) (rowAt (2 ^ 40) (stOf ([(R.PCU_CASTON_STEP, 10), hold0] ++ []) (fun c => (id c).onPins (fun x => { x with phase := .castOn }))))) ∧
  ((fun (s : State) => (s.chip.mayCast 3 = true) ∧ (s.chip.sec.booted = false) ∧ (s.chip.flash.slotA = []) ∧ (s.chip.flash.slotB = []) ∧ (s.chip.flash.order.first = 0) ∧ (s.chip.on R.PCU_BOOT_STATUS_TRIAL = false)) (stOf ([(R.PCU_CASTON_STEP, 2), hold0] ++ []) (fun c => (id c).onPins (fun x => { x with phase := .castOn })))) ∧
  ((fun (s : State) => (s.chip.mayCast 3 = true) ∧ (s.chip.sec.booted = false)) (stOf ([(R.PCU_CASTON_STEP, 2), hold0] ++ []) (fun c => (id c).onPins (fun x => { x with phase := .castOn })))) ∧
  ((fun (s : State) => (s.chip.pins.phase = .castOn) ∧ (s.chip.on R.PCU_BOOT_STATUS_TRIAL = true)) (stOf ([(R.PCU_CASTON_STEP, 4), hold0] ++ [(R.PCU_BOOT_STATUS_TRIAL, 1)]) (fun c => (id c).onPins (fun x => { x with phase := .castOn })))) ∧
  ((fun (s : State) => (s.chip.pins.phase = .safe) ∧ (s.chip.clk.absent = false) ∧ (s.chip.sec.booted = true)) (stOf [] (fun c => (c.onPins (fun x => { x with phase := .safe })).onSec (fun x => { x with booted := true })))) ∧
  ((fun (s : State) => (s.chip.pins.phase = .safe) ∧ (s.chip.clk.absent = false) ∧ (s.chip.sec.booted = true)) (stOf [] (fun c => (c.onPins (fun x => { x with phase := .safe })).onSec (fun x => { x with booted := true })))) ∧
  ((fun (s : State) => (s.chip.pins.phase = .safe) ∧ (s.chip.clk.absent = false) ∧ (s.chip.sec.booted = false)) (stOf [] (fun c => (c.onPins (fun x => { x with phase := .safe })).onSec (fun x => { x with booted := false })))) ∧
  ((fun (src : CmdSrc) (idx : BitVec 16) (x : Cmd) (s : State) => (cmdReady s.chip src idx 0x80 x) ∧ (s.chip.cmd.binding = none)) .admin 5 (cmdA 0x80 [(8, 2, 5), (10, 2, 60)]) (stAdm (cmdA 0x80 [(8, 2, 5), (10, 2, 60)]) [(R.SEC_SESSION_VALID 0, 1), (R.SEC_SESSION_BIND 0, 2), (R.SEC_SESSION_ROLE 0, 1)] id)) ∧
  ((fun (src : CmdSrc) (idx : BitVec 16) (x : Cmd) (s : State) => (cmdReady s.chip src idx 0x81 x) ∧ (s.chip.cmd.binding = none)) .admin 5 (cmdA 0x81 [(8, 2, 5), (10, 2, 60)]) (stAdm (cmdA 0x81 [(8, 2, 5), (10, 2, 60)]) [(R.SEC_SESSION_VALID 0, 1), (R.SEC_SESSION_BIND 0, 2), (R.SEC_SESSION_ROLE 0, 1)] id)) ∧
  ((fun (src : CmdSrc) (idx : BitVec 16) (x : Cmd) (s : State) => (cmdReady s.chip src idx 0x7E x) ∧ (s.chip.cmd.binding = none) ∧ (x.par 8 1 = 1)) .admin 5 (cmdA 0x7E [(8, 1, 1)]) (stAdm (cmdA 0x7E [(8, 1, 1)]) [(R.SEC_SESSION_VALID 0, 1), (R.SEC_SESSION_BIND 0, 2), (R.SEC_SESSION_ROLE 0, 1)] id)) ∧
  ((fun (src : CmdSrc) (idx : BitVec 16) (x : Cmd) (s : State) => (cmdReady s.chip src idx 0x7E x) ∧ (s.chip.tenantOn 1 = true) ∧ (x.par 8 1 = 0)) .admin 5 (cmdA 0x7E []) (stAdm (cmdA 0x7E []) [(R.SEC_SESSION_VALID 0, 1), (R.SEC_SESSION_BIND 0, 2), (R.SEC_SESSION_ROLE 0, 1)] id)) ∧
  ((fun (b : BindOff) (s : State) => (s.chip.cmd.binding = some b) ∧ (b.phase = 0) ∧ (s.chip.busyParts = [])) ⟨0, 5, 60, 1, 0, false⟩ (stOf [(R.CPU_CORE_STATE_STATE 1 5, 2)] (fun c => c.onCmd (fun y => { y with binding := some ⟨0, 5, 60, 1, 0, false⟩ })))) ∧
  ((fun (b : BindOff) (s : State) => (s.chip.cmd.binding = some b) ∧ (b.phase = 0) ∧ (s.chip.reached (b.since + 1000000000 * b.grace) = true ∨ s.chip.busyParts = [])) ⟨0, 5, 60, 1, 0, false⟩ (rowAt (2 ^ 40) (stOf [(R.CPU_CORE_STATE_STATE 1 5, 2)] (fun c => c.onCmd (fun y => { y with binding := some ⟨0, 5, 60, 1, 0, false⟩ }))))) ∧
  ((fun (b : BindOff) (d : Fin 10) (s : State) => (s.chip.cmd.binding = some b) ∧ (b.phase = 1) ∧ (b.since + 1000000000 * b.wait ≤ s.chip.now) ∧ (b.since + 66 * 1024 ≤ s.chip.now)) ⟨0, 5, 60, 1, 1, true⟩ 3 (rowAt (2 ^ 40) (stOf [] (fun c => c.onCmd (fun y => { y with binding := some ⟨0, 5, 60, 1, 1, true⟩ }))))) ∧
  ((fun (n : Fin 13) (o : CastOutcome) (u : State) (s : State) => (2 ≤ n.val) ∧ (s.chip.mayCast n.val = true) ∧ (s.castStep n.val o = some (u, true))) 4 { units := [] } ((stOf [(R.PCU_CASTON_STEP, 3), hold0] (fun c => c.onPins (fun x => { x with phase := .castOn }))).castStep 4 { units := [] } |>.map (·.1) |>.getD State.reset) (stOf [(R.PCU_CASTON_STEP, 3), hold0] (fun c => c.onPins (fun x => { x with phase := .castOn })))) ∧
  ((fun (n : Fin 13) (o : CastOutcome) (u : State) (s : State) => (4 ≤ n.val) ∧ (s.chip.mayCast n.val = true) ∧ (s.castStep n.val o = some (u, false))) 4 { ok := false } ((stOf [(R.PCU_CASTON_STEP, 3), hold0] (fun c => c.onPins (fun x => { x with phase := .castOn }))).castStep 4 { ok := false } |>.map (·.1) |>.getD State.reset) (stOf [(R.PCU_CASTON_STEP, 3), hold0] (fun c => c.onPins (fun x => { x with phase := .castOn })))) := by
  iterate 22
    refine ⟨?_, ?_⟩
    · try unfold cmdReady
      decide +kernel
  try unfold cmdReady
  decide +kernel

theorem witness_ContactCommandsComplete :
  ((fun (a : Fin 4) (long : Bool) (s : State) => (s.chip.pins.pwrGood = false) ∧ (s.chip.pins.phase ≠ .trip)) 2 false (stWith [])) ∧
  ((fun (a : Fin 4) (s : State) => (s.chip.pins.pwrGood = false) ∧ (s.chip.pins.phase = .trip)) 2 (stOf [hold0] (fun c => c.onPins (fun x => { x with phase := .trip })))) ∧
  ((fun (a : Fin 4) (s : State) => (s.chip.pins.pwrGood = false) ∧ (s.chip.pins.phase = .trip)) 2 (stOf [hold0] (fun c => c.onPins (fun x => { x with phase := .trip })))) ∧
  ((fun (s : State) => (s.chip.pins.pwrGood = true) ∧ (s.chip.pins.phase = .running)) (stOf [hold0] (fun c => c.onPins (fun x => { x with phase := .running, pwrGood := true })))) ∧
  ((fun (s : State) => (s.chip.pins.pwrGood = true) ∧ (s.chip.pins.phase = .trip)) (stOf [hold0] (fun c => c.onPins (fun x => { x with phase := .trip, pwrGood := true, thermTripN := true })))) ∧
  ((fun (s : State) => (s.chip.pins.pwrGood = true) ∧ (s.chip.pins.phase ≠ .trip)) (stOf [hold0] (fun c => c.onPins (fun x => { x with phase := .running, pwrGood := true })))) ∧
  ((fun (s : State) => (s.chip.pins.pwrGood = false)) (stWith [])) ∧
  ((fun (s : State) => (s.chip.pins.pwrGood = true) ∧ (s.chip.pins.phase = .running)) (stOf [hold0] (fun c => c.onPins (fun x => { x with phase := .running, pwrGood := true })))) ∧
  ((fun (s : State) => (s.chip.pins.pwrGood = false)) (stWith [])) ∧
  ((fun (r : Fin 16) (s : State) => (getKey r.val s.chip.pins.present = none)) 5 (stWith [])) ∧
  ((fun (r : Fin 16) (s : State) => (s.chip.rd (R.HIO_PORT_STATUS_STATE r.val) ≠ 2)) 5 (stOf [] (fun c => c.onPins (fun x => { x with present := [(5, 0)], released := [5] })))) ∧
  ((fun (r : Fin 16) (s : State) => (s.chip.perstMayRise r.val = true) ∧ (s.chip.pins.released.contains r.val = false)) 4 (rowAt (2 ^ 40) (stOf [(R.HIO_SLOT_CFG_EN 1, 1), (R.PCU_CASTON_STEP, 12), (R.HIO_SLOT_CFG_CLKSRC 1, 2)] (fun c => c.onPins (fun x => { x with phase := .running, present := [(4, 0)], slotOn := [(1, 0)] }))))) ∧
  ((fun (off v : BitVec 32) (s : State) => (s.chip.pins.phase = .running) ∧ (s.chip.pins.vio = true)) 8 9 (stOf [hold0] (fun c => c.onPins (fun x => { x with phase := .running })))) ∧
  ((fun (off v : BitVec 32) (s : State) => (s.chip.pins.phase = .running) ∧ (s.chip.pins.vio = true) ∧ (s.chip.tokenHeld = false) ∧ (s.chip.pcu.lostAt + 200000 ≤ s.chip.cycles)) 8 9 (rowAt (2 ^ 40) (stOf [(R.PCU_LEASE_STATUS_HOLDER, 3)] (fun c => c.onPins (fun x => { x with phase := .running }))))) ∧
  ((fun (off : BitVec 32) (r : RegDesc) (is : List Nat) (s : State) => (s.chip.pins.phase = .running) ∧ (s.chip.pins.vio = true) ∧ (s.chip.tokenHeld = true) ∧ (s.chip.word R.PCU_BUS_ERR = 0) ∧ (findReg off.toNat = some (r, is)) ∧ (sideEffect r.base = false) ∧ (r.base ∉ [R.DBG_MIRROR_SEL, R.DBG_MIRROR_DATA, R.DBG_MIRROR_STATUS]) ∧ (¬ (R.SYN_OBJ_W0_LO < r.base ∧ r.base ≤ R.SYN_OBJ_W1_HI)) ∧ (loBases.contains (r.base - 4) = false) ∧ (r.flds.all (fun f => f.acc != .rc) = true) ∧ (readAccepted s.chip .mgmt off.toNat)) R.PCU_CASTON (regAt R.PCU_CASTON).1 (regAt R.PCU_CASTON).2 (stOf [hold0] (fun c => c.onPins (fun x => { x with phase := .running })))) ∧
  ((fun (off v : BitVec 32) (r : RegDesc) (is : List Nat) (f : Fld) (s : State) => (s.chip.pins.phase = .running) ∧ (s.chip.pins.vio = true) ∧ (s.chip.tokenHeld = true) ∧ (s.chip.word R.PCU_BUS_ERR = 0) ∧ (findReg off.toNat = some (r, is)) ∧ (r.flds = [f]) ∧ (f.acc = .rw) ∧ (f.cls = .l) ∧ (f.lo ≤ f.hi) ∧ (f.hi < 32) ∧ (r.role = .operator) ∧ (s.chip.hookOf .mgmt r is v.toNat = .plain) ∧ (aliasOff off.toNat = false) ∧ (windowOff off.toNat = false) ∧ (writeAccepted s.chip .mgmt off.toNat)) (BitVec.ofNat 32 R.SYN_OBJ_SEL) 0x12345 (regAt R.SYN_OBJ_SEL).1 [] ⟨15, 0, .rw, .l, .val 0⟩ (stOf [hold0] (fun c => c.onPins (fun x => { x with phase := .running })))) ∧
  ((fun (off : BitVec 32) (bytes : List (BitVec 8)) (s : State) => (s.chip.pins.phase = .recovery) ∧ (s.chip.pins.vio = true) ∧ (bytes ≠ []) ∧ (bytes.length ≤ 240)) 8 [1, 2] (stOf [hold0] (fun c => c.onPins (fun x => { x with phase := .recovery })))) ∧
  ((fun (off : BitVec 32) (bytes : List (BitVec 8)) (pec : Bool) (s : State) => (bytes.isEmpty = false) ∧ (bytes.length ≤ 240)) 8 [1, 2] true (stOf [hold0] (fun c => c.onPins (fun x => { x with phase := .recovery })))) ∧
  ((fun (off : BitVec 32) (bytes : List (BitVec 8)) (len : BitVec 32) (s : State) => (s.chip.pins.phase = .running) ∧ (s.chip.pins.vio = true) ∧ (bytes ≠ []) ∧ (bytes.length ≤ 240)) 8 [1, 2] 5 (stOf [hold0] (fun c => c.onPins (fun x => { x with phase := .running })))) ∧
  ((fun (len : BitVec 32) (s : State) => (s.chip.pins.phase = .recovery) ∧ (s.chip.pins.vio = true) ∧ (s.chip.sec.image = [])) 5 (stOf [hold0] (fun c => c.onPins (fun x => { x with phase := .recovery })))) ∧
  ((fun (arg : BitVec 16) (s : State) => (s.chip.pins.phase = .running) ∧ (s.chip.pins.vio = true)) 0x2A (stOf [hold0] (fun c => c.onPins (fun x => { x with phase := .running })))) ∧
  ((fun (ccc : BitVec 8) (arg : BitVec 16) (s : State) => (s.chip.pins.phase ≠ .off) ∧ (s.chip.pins.phase ≠ .held) ∧ (s.chip.pins.vio = true)) 0x87 0x2A (stOf [hold0] (fun c => c.onPins (fun x => { x with phase := .running })))) ∧
  ((fun (cells : BitVec 64) (s : State) => (s.chip.pins.vio = true) ∧ (s.chip.pins.resetN = true ∨ s.chip.pins.pwrGood = false)) 5 (stWith [])) ∧
  ((fun (v : BitVec 32) (code : BitVec 8) (s : State) => (s.chip.pins.vio = true)) 5 9 (stWith [])) ∧
  ((fun (op : Fin 4) (addr : BitVec 18) (data : BitVec 32) (s : State) => (s.chip.pins.vio = true) ∧ ((s.chip.roleOf .jtag).rank < 2)) 1 5 6 (stWith [])) ∧
  ((fun (op : Fin 4) (addr : BitVec 18) (data : BitVec 32) (s : State) => (s.chip.pins.vio = true) ∧ ((s.chip.roleOf .jtag).rank = 2) ∧ (addr.toNat < 131072)) 1 5 6 (stWith [(R.SEC_SESSION_VALID 1, 1), (R.SEC_SESSION_BIND 1, 1), (R.SEC_SESSION_ROLE 1, 2)])) ∧
  ((fun (off : BitVec 32) (bytes : List (BitVec 8)) (s : State) => (s.chip.pins.phase = .recovery) ∧ (s.chip.pins.vio = true) ∧ (bytes.length = 252)) 8 (List.replicate 252 7) (stOf [hold0] (fun c => c.onPins (fun x => { x with phase := .recovery })))) ∧
  ((fun (off : BitVec 28) (dr : BitVec 64) (r : RegDesc) (is : List Nat) (s : State) => (s.chip.pins.phase = .running) ∧ (s.chip.pins.vio = true) ∧ (dr.toNat = off.toNat * 2 ^ 32) ∧ (s.chip.word R.PCU_BUS_ERR = 0) ∧ (s.chip.acc.emuWait = []) ∧ (findReg off.toNat = some (r, is)) ∧ (sideEffect r.base = false) ∧ (r.base ∉ [R.DBG_MIRROR_SEL, R.DBG_MIRROR_DATA, R.DBG_MIRROR_STATUS]) ∧ (¬ (R.SYN_OBJ_W0_LO < r.base ∧ r.base ≤ R.SYN_OBJ_W1_HI)) ∧ (loBases.contains (r.base - 4) = false) ∧ (r.flds.all (fun f => f.acc != .rc) = true) ∧ (readAccepted s.chip .jtag off.toNat)) (BitVec.ofNat 28 R.PCU_CASTON) (BitVec.ofNat 64 (R.PCU_CASTON * 2 ^ 32)) (regAt R.PCU_CASTON).1 (regAt R.PCU_CASTON).2 (stOf [hold0] (fun c => c.onPins (fun x => { x with phase := .running })))) ∧
  ((fun (dr : BitVec 64) (s : State) => (s.chip.pins.vio = true)) 5 (stWith [])) ∧
  ((fun (e : Fin 4) (q : Fin 4) (s : State) => (s.chip.pins.plugs.contains e.val = true) ∧ (s.chip.portUp (4 * e.val + q.val) = false) ∧ (s.chip.rd (R.EDGE_STATUS_STATE (4 * e.val + q.val)) = 1)) 2 1 (stWith [(R.EDGE_STATUS_STATE 9, 1)])) ∧
  ((fun (e : Fin 4) (s : State) => (s.chip.pins.plugs.contains e.val = true)) 2 (stWith [])) ∧
  ((fun (e : Fin 4) (s : State) => (s.chip.pins.plugs.contains e.val = false)) 2 (stOf [] (fun c => c.onPins (fun x => { x with plugs := [0] })))) := by
  iterate 15
    refine ⟨?_, ?_⟩
    · try unfold readAccepted
      decide +kernel
  refine ⟨?_, ?_⟩
  · repeat' apply And.intro
    all_goals first | decide +kernel | rfl
  iterate 15
    refine ⟨?_, ?_⟩
    · try unfold readAccepted
      decide +kernel
  try unfold readAccepted
  decide +kernel

theorem witness_AcceptedCommandWritesAct :
  ((fun (req : Requester) (site : Fin 24) (v : BitVec 32) (s : State) => (writeAccepted s.chip req (R.SITE_SUBST_REQ site.val))) (.pcu 0) 3 0 (stWith [hold0])) ∧
  ((fun (req : Requester) (site : Fin 24) (v : BitVec 32) (s : State) => (writeAccepted s.chip req (R.SITE_SUBST_REQ site.val))) (.pcu 0) 3 0 (stWith [hold0])) ∧
  ((fun (req : Requester) (v : BitVec 32) (s : State) => (writeAccepted s.chip req R.LSU_CTRL)) (.pcu 0) 0 (stWith [hold0])) ∧
  ((fun (req : Requester) (v : BitVec 32) (s : State) => (writeAccepted s.chip req R.LSU_CTRL)) (.pcu 0) 0 (stWith [hold0])) ∧
  ((fun (req : Requester) (v : BitVec 32) (s : State) => (writeAccepted s.chip req R.LSU_CTRL)) (.pcu 0) 0 (stWith [hold0])) ∧
  ((fun (req : Requester) (site : Fin 24) (v : BitVec 32) (s : State) => (writeAccepted s.chip req (R.TNS_SWATCH_REQ site.val))) (.pcu 0) 3 0 (stWith [hold0])) ∧
  ((fun (req : Requester) (site : Fin 24) (v : BitVec 32) (dev : BitVec 16) (failed : BitVec 4) (s : State) => (writeAccepted s.chip req (R.TNS_GAUGE_CTRL site.val))) (.pcu 0) 3 0 0 0 (stWith [hold0])) ∧
  ((fun (req : Requester) (site : Fin 24) (v : BitVec 32) (s : State) => (writeAccepted s.chip req (R.LANE_PAT_CTRL site.val))) (.pcu 0) 3 0 (stWith [hold0])) ∧
  ((fun (req : Requester) (site : Fin 24) (v : BitVec 32) (s : State) => (writeAccepted s.chip req (R.LANE_PAT_CTRL site.val))) (.pcu 0) 3 0 (stWith [hold0])) ∧
  ((fun (req : Requester) (site : Fin 24) (v : BitVec 32) (s : State) => (writeAccepted s.chip req (R.LANE_INJ site.val))) (.pcu 0) 3 0 (stWith [hold0])) ∧
  ((fun (req : Requester) (site : Fin 24) (q : Fin 64) (base : Bool) (v : BitVec 32) (s : State) => (writeAccepted s.chip req (if base then R.SITE_RQ_BASE site.val q.val else R.SITE_RQ_CFG site.val q.val))) (.pcu 0) 3 3 false 0 (stWith [hold0])) ∧
  ((fun (req : Requester) (t : Fin 16) (v : BitVec 32) (s : State) => (writeAccepted s.chip req (R.PART_TENANT t.val))) (.pcu 0) 3 0 (stWith [hold0])) ∧
  ((fun (req : Requester) (t : Fin 16) (v : BitVec 32) (s : State) => (writeAccepted s.chip req (R.CIRC_ARM t.val))) (.pcu 0) 3 0 (stWith [hold0])) ∧
  ((fun (req : Requester) (t : Fin 16) (v : BitVec 32) (s : State) => (writeAccepted s.chip req (R.CIRC_ARM t.val))) (.pcu 0) 3 0 (stWith [hold0])) ∧
  ((fun (req : Requester) (e : Fin 112) (v : BitVec 32) (s : State) => (writeAccepted s.chip req (R.CIRC_ALLOT e.val))) (.pcu 0) 3 0 (stWith [hold0])) ∧
  ((fun (req : Requester) (j : Fin 16) (v : BitVec 32) (agreed : Bool) (s : State) => (writeAccepted s.chip req (R.CIRC_PORT_ASSIGN j.val))) (.pcu 0) 3 0 false (stWith [hold0])) ∧
  ((fun (req : Requester) (j : Fin 16) (v : BitVec 32) (s : State) => (writeAccepted s.chip req (R.EDGE_CTRL j.val))) (.pcu 0) 3 0 (stWith [hold0])) ∧
  ((fun (req : Requester) (j : Fin 16) (v : BitVec 32) (s : State) => (writeAccepted s.chip req (R.EDGE_CTRL j.val))) (.pcu 0) 3 0 (stWith [hold0])) ∧
  ((fun (req : Requester) (j : Fin 16) (v : BitVec 32) (s : State) => (writeAccepted s.chip req (R.EDGE_PAT_CTRL j.val))) (.pcu 0) 3 0 (stWith [hold0])) ∧
  ((fun (req : Requester) (j : Fin 16) (v : BitVec 32) (s : State) => (writeAccepted s.chip req (R.EDGE_INJ j.val))) (.pcu 0) 3 0 (stWith [hold0])) ∧
  ((fun (req : Requester) (n : Fin 4096) (v : BitVec 32) (s : State) => (writeAccepted s.chip req (R.ROUTE_NODE_STATE n.val))) (.pcu 0) 3 0 (stWith [hold0])) ∧
  ((fun (req : Requester) (o : Fin 2) (v : BitVec 32) (s : State) => (writeAccepted s.chip req (R.HIO_CLKOUT o.val))) (.pcu 0) 1 0 (stWith [hold0])) ∧
  ((fun (req : Requester) (sl : Fin 4) (v : BitVec 32) (s : State) => (writeAccepted s.chip req (R.HIO_SLOT_CFG sl.val))) (.pcu 0) 1 0 (stWith [hold0])) ∧
  ((fun (req : Requester) (v : BitVec 32) (s : State) => (writeAccepted s.chip req R.SEC_AUTH_CTRL)) .jtag 0 (stWith [hold0])) ∧
  ((fun (req : Requester) (v : BitVec 32) (s : State) => (writeAccepted s.chip req R.SEC_AUTH_CTRL)) .jtag 0 (stWith [hold0])) ∧
  ((fun (req : Requester) (v : BitVec 32) (s : State) => (writeAccepted s.chip req R.SEC_AUTH_CTRL)) .jtag 0 (stWith [hold0])) ∧
  ((fun (req : Requester) (d : Fin 10) (v : BitVec 32) (s : State) => (writeAccepted s.chip req (R.CLK_FCHG d.val))) (.pcu 0) 3 0 (stWith [hold0])) ∧
  ((fun (req : Requester) (d : Fin 10) (v : BitVec 32) (s : State) => (writeAccepted s.chip req (R.CLK_FCHG d.val))) (.pcu 0) 3 0 (stWith [hold0])) ∧
  ((fun (req : Requester) (v : BitVec 32) (s : State) => (writeAccepted s.chip req R.CLK_DOMAIN_RESET)) (.pcu 0) 0 (stWith [hold0])) ∧
  ((fun (req : Requester) (hi : Bool) (v : BitVec 32) (s : State) => (writeAccepted s.chip req (if hi then R.CLK_GATE_EN_HI else R.CLK_GATE_EN_LO))) (.pcu 0) false 0 (stWith [hold0])) ∧
  ((fun (req : Requester) (d : Fin 8) (v : BitVec 32) (s : State) => (writeAccepted s.chip req (R.CLK_CL_GATE d.val))) (.pcu 0) 3 0 (stWith [hold0])) ∧
  ((fun (req : Requester) (v : BitVec 32) (s : State) => (writeAccepted s.chip req R.PCU_DEBUG_HOLD)) (.pcu 0) 0 (stWith [hold0])) ∧
  ((fun (req : Requester) (v : BitVec 32) (s : State) => (writeAccepted s.chip req R.EVR_CTRL)) (.pcu 0) 0 (stWith [hold0])) ∧
  ((fun (req : Requester) (v : BitVec 32) (s : State) => (writeAccepted s.chip req R.EVR_CTRL)) (.pcu 0) 0 (stWith [hold0])) ∧
  ((fun (req : Requester) (v : BitVec 32) (s : State) => (writeAccepted s.chip req R.EVR_CLEAR)) (.pcu 0) 0 (stWith [hold0])) ∧
  ((fun (req : Requester) (v : BitVec 32) (s : State) => (writeAccepted s.chip req R.EVR_NV_CLEAR)) (.pcu 0) 0 (stWith [hold0])) ∧
  ((fun (req : Requester) (p : Fin 64) (e : Option (Fin 112)) (v : BitVec 32) (s : State) => (writeAccepted s.chip req (match e with | none => R.CIRC_PAT_HDR p.val | some e => R.CIRC_PAT p.val e.val))) (.pcu 0) 3 (some 5) 0 (stWith [hold0])) := by
  iterate 36
    refine ⟨?_, ?_⟩
    · try unfold writeAccepted
      decide +kernel
  try unfold writeAccepted
  decide +kernel

theorem witness_RowBoundaryEndsTheRow :
  ((fun (tm : Telemetry) (temps : List (Fin 24 × Fin 42 × BitVec 16)) (raw : List (Fin 24 × List Bool)) (edgeRaw : List (Fin 16 × List Bool)) (ecc : Fin 3) (s : State) => (s.chip.rowsRun = true) ∧ (s.chip.time.step = none)) {} [] [] [] 0 (rowAt 77 (stOf [hold0] (fun c => { c with rowsRun := true, cyc := 2047 })))) ∧
  ((fun (tm : Telemetry) (temps : List (Fin 24 × Fin 42 × BitVec 16)) (raw : List (Fin 24 × List Bool)) (edgeRaw : List (Fin 16 × List Bool)) (ecc : Fin 3) (s : State) => (s.chip.rowsRun = false)) {} [] [] [] 0 (stWith [])) :=
  ⟨by decide +kernel,
   by decide +kernel⟩

theorem witness_StepRunsTheFrontCommand :
  (fun (i : Instr) (rest : List Instr) (s : State) => (s.pending = i :: rest)) .lightDip [.darkMode] { State.reset with pending := [.lightDip, .darkMode] } := rfl

theorem witness_EmptyQueueCountsACycle :
  ((fun (s : State) => (s.pending = []) ∧ (s.chip.rowsRun = true) ∧ (s.chip.cyc < 2047) ∧ (s.chip.cyc ≠ 1999)) (stOf [] (fun c => { c with rowsRun := true, cyc := 2046 }))) ∧
  ((fun (s : State) => (s.pending = []) ∧ (s.chip.rowsRun = true) ∧ (s.chip.cyc = 1999)) (stOf [] (fun c => { c with rowsRun := true, cyc := 1999 }))) ∧
  ((fun (s : State) => (s.pending = []) ∧ (s.chip.rowsRun = false ∨ 2047 ≤ s.chip.cyc)) (stOf [] (fun c => { c with rowsRun := true, cyc := 2047 }))) :=
  ⟨by decide +kernel,
   by decide +kernel,
   by decide +kernel⟩

theorem witness_MemoryStaysCanonical :
  (fun (s t : State) => (s.inv) ∧ (step s = .next t)) { State.reset with mem := [(7, 1), (9, 255)] } { State.reset with mem := [(7, 1), (9, 255)] } := ⟨by unfold State.inv; decide, rfl⟩

theorem witness_TimeStaysInRange :
  (fun (s t : State) => (s.chip.row < 2 ^ 48) ∧ (s.chip.cyc < 2048) ∧ (step s = .next t)) State.reset State.reset := ⟨by decide, by decide, rfl⟩

theorem witness_StitchesKeepTheirFieldsInBytes :
  (fun (st : Stitch) => (Stitch.wf st = true) ∧ (st.data.length = 64) ∧ (st.tag = 0)) { version := 15, dstNode := 4095, rsv := 8191, opf := 1023, opspec := 2 ^ 18 - 1, ppa := 2 ^ 46 - 1, data := List.replicate 64 255, entryTs := 2 ^ 32 - 1 } := by decide +kernel

theorem witness_BytesOfAStitchAllCount :
  (fun (bs : List Nat) => (bs.length = 96) ∧ (bytesOk bs = true)) (List.replicate 96 255) := by decide +kernel

theorem witness_AliasReadsReadNoMember :
  (fun (req : Requester) (off : BitVec 28) (s : State) => (s.chip.mayIssue req = true) ∧ (aliasOff off.toNat = true) ∧ (off.toNat % 4 = 0)) .mgmt 0x3900004 (stWith []) := by decide +kernel

theorem witness_WritesOfTooLowARole :
  ((fun (c : Chip) (req : Requester) (off v : Nat) (h : WriteHook) => (c.judge req off true true = .role)) State.reset.chip .mgmt R.ROUTE_NODE 0 .plain) ∧
  ((fun (c : Chip) (req : Requester) (off v : Nat) (r : RegDesc) (is : List Nat) (h : WriteHook) => (writeAccepted c req off) ∧ (findReg off = some (r, is)) ∧ (r.role ≠ .operator) ∧ (h.takes = true) ∧ ((∀ (d : Chip) e, e ∈ d.captured → e ∈ (h.effect d).captured)) ∧ (c.captured.length < 512)) (stWith [hold0]).chip (.pcu 0) R.ROUTE_NODE 5 (regAt R.ROUTE_NODE).1 (regAt R.ROUTE_NODE).2 .plain) :=
  ⟨by decide +kernel,
   ⟨by unfold writeAccepted; decide, by decide, by decide, rfl, fun _ _ h => h, by decide⟩⟩

theorem witness_WidthAndMappingAreChecked :
  ((fun (req : Requester) (off : BitVec 28) (v : BitVec 32) (whole : Bool) (s : State) => (s.chip.mayIssue req = true) ∧ (whole = false ∨ off.toNat % 4 ≠ 0)) (.hart 1 3) 0x3900006 7 true (stWith [(R.CPU_CORE_STATE_STATE 1 3, 2)])) ∧
  ((fun (req : Requester) (off : BitVec 28) (v : BitVec 32) (s : State) => (s.chip.mayIssue req = true) ∧ (off.toNat % 4 = 0) ∧ (aliasOff off.toNat = false) ∧ (findReg off.toNat = none)) .jtag 0xE000000 7 (stWith [])) :=
  ⟨by decide +kernel,
   by decide +kernel⟩

theorem witness_IntegerAccumulation :
  (fun (row : List (Nat × Int)) (col : Nat → Int) (g n acc : Nat) => (0 < g) ∧ (acc < 2 ^ 32)) [(0, -128), (1, 5), (4, 127)] (fun k => 3 * (k : Int) - 7) 4 2 0x7FFFFFF0 := by decide +kernel

theorem witness_LoadsReadAndStoresWriteTheirBytes :
  ((fun (s : State) (site place : Nat) (st : Stitch) => (st.opcode = opLOAD) ∧ (st.start + st.countM1 ≤ 63) ∧ ((rangeOf place = .hbm ∨ rangeOf place = .sram)) ∧ (s.chip.placeGood place = true)) (stWith []) 3 0x1000 { opcode := opLOAD, start := 60, countM1 := 3 }) ∧
  ((fun (s : State) (site place : Nat) (st : Stitch) (a : Nat) => (st.opcode = opSTORE) ∧ (st.start + st.countM1 ≤ 63) ∧ ((rangeOf place = .hbm ∨ rangeOf place = .sram)) ∧ (s.chip.placeGood place = true) ∧ (Memory.wf s.mem = true)) (stWith []) 3 0x1000 { opcode := opSTORE, start := 60, countM1 := 3, data := List.replicate 64 9 } 0x103F) :=
  ⟨by decide +kernel,
   by decide +kernel⟩

theorem witness_WaitsAnsweredDoneCarryTheObject :
  ((fun (st : Stitch) (o : SyncObj) (s : State) => (s.chip.obj st.sync = some o) ∧ (o.tenant = st.tenant) ∧ (st.srcNode = s.chip.node) ∧ ((o.kind = 1 ∨ o.kind = 2)) ∧ (o.error < 256) ∧ (o.kind * 16 + o.tenant < 256) ∧ (o.holds (syncCond st) (syncValue st) = some true)) { dstSite := 31, opcode := opSYNC_OP, sync := 7, tenant := 2, srcSite := 3, data := [5] } { kind := 2, tenant := 2, error := 11, count := 5, target := 9 } (stOf [] (fun c => c.onSync (fun y => { y with objs := [(7, { kind := 2, tenant := 2, error := 11, count := 5, target := 9 })] })))) ∧
  ((fun (st w : Stitch) (o o' : SyncObj) (row limit : Nat) (s : State) => (s.chip.obj st.sync = some o) ∧ (o.tenant = st.tenant) ∧ (w.srcNode = s.chip.node) ∧ (w.sync = st.sync) ∧ ((o.kind = 1 ∨ o.kind = 2)) ∧ (o.error < 256) ∧ (o.kind * 16 + o.tenant < 256) ∧ (o' = SyncObj.reeval { o with count := (o.count + syncValue st) % 2 ^ 48 }) ∧ (o' ≠ o) ∧ (o'.holds (syncCond w) (syncValue w) = some true) ∧ (s.chip.sync.waits = [⟨st.sync, .stitch w, syncCond w, syncValue w, row, limit, none⟩])) { dstSite := 31, opcode := opSYNC_OP, sync := 7, tenant := 2, srcSite := 3, data := [4] } { dstSite := 31, opcode := opSYNC_OP, sync := 7, tenant := 2, srcSite := 4, seq := 3, data := [9] } { kind := 2, tenant := 2, error := 11, count := 5, target := 9 } { kind := 2, tenant := 2, error := 11, count := 9, target := 9, done := true } 0 9 (stOf [] (fun c => c.onSync (fun y => { y with objs := [(7, { kind := 2, tenant := 2, error := 11, count := 5, target := 9 })], waits := [⟨7, .stitch { dstSite := 31, opcode := opSYNC_OP, sync := 7, tenant := 2, srcSite := 4, seq := 3, data := [9] }, 0, 9, 0, 9, none⟩] })))) :=
  ⟨by decide +kernel,
   by decide +kernel⟩

theorem witness_FieldsFollowTheirTypes :
  ((fun (req : Requester) (off : BitVec 28) (v : BitVec 32) (s : State) (r : RegDesc) (is : List Nat) (f : Fld) => (findReg off.toNat = some (r, is)) ∧ (f ∈ r.flds) ∧ ((∀ g ∈ r.flds, g.lo ≤ g.hi ∧ g.hi < 32)) ∧ (r.flds.Pairwise (fun g h => g.hi < h.lo ∨ h.hi < g.lo)) ∧ (r.role = .operator) ∧ (off.toNat ∉ [R.ROUTE_STATUS, R.HIO_STATUS]) ∧ (r.blk ≠ .lane) ∧ (s.chip.hookOf req r is v.toNat = .plain) ∧ (aliasOff off.toNat = false) ∧ (windowOff off.toNat = false) ∧ (writeAccepted s.chip req off.toNat)) .mgmt (BitVec.ofNat 28 R.SYN_OBJ_SEL) 0x12345 (stWith []) (regAt R.SYN_OBJ_SEL).1 [] ⟨15, 0, .rw, .l, .val 0⟩) ∧
  ((fun (c : Chip) => (c.rowsRun = true) ∧ (c.cyc < 2048)) { State.reset.chip with rowsRun := true, cyc := 1848 }) ∧
  ((fun (c : Chip) => (c.rowsRun = false)) State.reset.chip) :=
  ⟨by
    repeat' apply And.intro
    all_goals first | decide +kernel | rfl,
   by decide +kernel,
   by decide +kernel⟩

theorem witness_CommandsThatStoreNothing :
  (fun (i : Instr) (s t : State) => (storesNothing i = true) ∧ (exec i s = .next t)) .lightDip State.reset State.reset := ⟨rfl, rfl⟩

theorem witness_KeysAndSecurityTimersComplete :
  ((fun (src : CmdSrc) (idx : BitVec 16) (x : Cmd) (s : State) => (cmdReady s.chip src idx 0x79 x) ∧ (s.chip.cmdRole src = .installer) ∧ (x.par 8 1 ≤ 1) ∧ (s.chip.viewStatus x.partition (x.par 16 8) 96 = stOK) ∧ (s.chip.viewObstacle x.partition (x.par 16 8) 96 false = none)) .admin 5 (cmdA 0x79 [(8, 1, 1), (16, 8, 1099511627776)]) (stAdm (cmdA 0x79 [(8, 1, 1), (16, 8, 1099511627776)]) (ownA ++ [(R.SEC_SESSION_VALID 0, 1), (R.SEC_SESSION_BIND 0, 2), (R.SEC_SESSION_ROLE 0, 1)]) id)) ∧
  ((fun (n _ : Fin 4) (u : Nat) (s : State) => (s.chip.sec.ends = [(n.val, u)]) ∧ (s.chip.reached u = true) ∧ (s.chip.on (R.SEC_SESSION_VALID n.val) = true)) 2 3 0 (stOf [(R.SEC_SESSION_VALID 2, 1)] (fun c => c.onSec (fun x => { x with ends := [(2, 0)] })))) ∧
  ((fun (_ : Fin 12) (u : Nat) (s : State) => (s.chip.sec.nonceUntil = some u) ∧ (s.chip.reached u = true)) 3 0 (stOf [] (fun c => c.onSec (fun x => { x with nonceUntil := some 0 })))) ∧
  ((fun (u : Nat) (s : State) => (s.chip.sec.lockedUntil = some u) ∧ (s.chip.reached u = true)) 0 (stOf [] (fun c => c.onSec (fun x => { x with lockedUntil := some 0 })))) :=
  ⟨by
    try unfold cmdReady
    decide +kernel,
   by decide +kernel,
   by decide +kernel,
   by decide +kernel⟩

end Sys2Proof.Tests
end

section
/-! Rules of the checks of an access (R10 to R13, R432): what each finding leaves behind, and what the bus does with an access that passes them all. -/

namespace Sys2Proof.Machine

/-- A command whose meaning answers a next state completes with whatever holds of that state. -/
theorem completes_of_exec {i : Instr} {s t : State} {post : State → Prop} (h : exec i s = .next t) (hp : post t) : completes i s post := ⟨t, h, hp⟩

/-! Bus errors. -/

theorem busErr_onlyRegs (c : Chip) (bit off : Nat) : c.busErr bit off = { c with regs := (c.busErr bit off).regs } := by
  unfold Chip.busErr
  dsimp only
  split <;> rfl

@[simp] theorem busErr_acc (c : Chip) (bit off : Nat) : (c.busErr bit off).acc = c.acc := by rw [busErr_onlyRegs]
@[simp] theorem busErr_captured (c : Chip) (bit off : Nat) : (c.busErr bit off).captured = c.captured := by rw [busErr_onlyRegs]
@[simp] theorem busErr_captureLost (c : Chip) (bit off : Nat) : (c.busErr bit off).captureLost = c.captureLost := by rw [busErr_onlyRegs]
@[simp] theorem busErr_now (c : Chip) (bit off : Nat) : (c.busErr bit off).now = c.now := by rw [busErr_onlyRegs]; rfl

theorem rd_busErr_self (c : Chip) {bit : Nat} (off : Nat) (h : bit < 32) : (c.busErr bit off).rd ⟨R.PCU_BUS_ERR, bit, bit⟩ = 1 := by
  unfold Chip.busErr
  rw [rd_wr_self _ _ (le_refl _) h]
  simp

theorem busErr_words (c : Chip) (bit off : Nat) : regsSameBut c (c.busErr bit off) [R.PCU_BUS_ERR, R.PCU_BUS_ERR_ADDR] := by
  intro o ho
  simp only [List.mem_cons, List.not_mem_nil, or_false, not_or] at ho
  unfold Chip.busErr
  rw [word_wr_of_ne ho.1]
  split
  · exact word_wr_of_ne ho.2
  · rfl

/-- A change that leaves the registers alone leaves every register's word. -/
theorem regsSameBut_of_regs {c d e : Chip} {l : List Nat} (h : regsSameBut c d l) (he : e.regs = d.regs) : regsSameBut c e l :=
  fun o ho => (word_congr he o).trans (h o ho)

theorem regsSameBut_refl (c : Chip) (l : List Nat) : regsSameBut c c l := fun _ _ => rfl

/-! Events. -/

theorem event_onlyCapture (c : Chip) (code : Nat) (t : Option Nat) (u : Nat) (a : List Nat) :
    c.event code t u a = { c with captured := (c.event code t u a).captured, captureLost := (c.event code t u a).captureLost } := by
  unfold Chip.event
  split <;> rfl

/-- An event is captured with its time, or where the queue is full it is counted as lost (R541, R551). -/
theorem event_captured_or_lost (c : Chip) (code : Nat) (t : Option Nat) (u : Nat) (a : List Nat) :
    (∃ e ∈ (c.event code t u a).captured, e.code = code ∧ e.args = a ∧ e.time = c.now)
      ∨ (512 ≤ c.captured.length ∧ (c.event code t u a).captureLost = c.captureLost + 1) := by
  unfold Chip.event
  split
  · exact .inl ⟨_, List.mem_append_right _ (List.mem_singleton.mpr rfl), rfl, rfl, rfl⟩
  · next h => exact .inr ⟨by omega, rfl⟩

/-! Gated accesses. -/

theorem countGated_onlyRegs (c : Chip) (req : Requester) (off : Nat) (w : Bool) : c.countGated req off w = { c with regs := (c.countGated req off w).regs } := rfl

theorem countGated_words (c : Chip) (req : Requester) (off : Nat) (w : Bool) : regsSameBut c (c.countGated req off w) [R.CLK_GATED_COUNT, R.CLK_GATED_LAST] := by
  intro o ho
  simp only [List.mem_cons, List.not_mem_nil, or_false, not_or] at ho
  unfold Chip.countGated Chip.count
  rw [word_wr_of_ne ho.2, word_wr_of_ne ho.2, word_wr_of_ne ho.2, word_wr_of_ne ho.1]

theorem rd_countGated (c : Chip) (req : Requester) (off : Nat) (w : Bool) :
    (c.countGated req off w).rd R.CLK_GATED_COUNT_COUNT = min R.CLK_GATED_COUNT_COUNT.top (c.rd R.CLK_GATED_COUNT_COUNT + 1) := by
  unfold Chip.countGated
  rw [rd_wr_of_ne (by decide), rd_wr_of_ne (by decide), rd_wr_of_ne (by decide), rd_count_self _ _ (by decide) (by decide)]

/-! The checks. -/

theorem mayIssue_of_judge {c : Chip} {req : Requester} {off : Nat} {w a : Bool} (h : c.judge req off w a ≠ .held) : c.mayIssue req = true := by
  by_contra hm
  exact h (by simp [Chip.judge, hm])

theorem aligned_of_judge {c : Chip} {req : Requester} {off : Nat} {w a : Bool} (h : c.judge req off w a ≠ .held) (h' : c.judge req off w a ≠ .width) : off % 4 = 0 := by
  by_contra hm
  exact h' (by simp [Chip.judge, mayIssue_of_judge h, hm])

theorem issued_of_judge_ok {c : Chip} {req : Requester} {off : Nat} {w a : Bool} (h : c.judge req off w a = .ok) : c.mayIssue req = true ∧ off % 4 = 0 := by
  have hheld : c.judge req off w a ≠ .held := by simp [h]
  exact ⟨mayIssue_of_judge hheld, aligned_of_judge hheld (by simp [h])⟩

theorem findReg_of_judge_ok {c : Chip} {req : Requester} {off : Nat} {w a : Bool} (h : c.judge req off w a = .ok) : ∃ r is, findReg off = some (r, is) := by
  cases hf : findReg off with
  | some x => exact ⟨x.1, x.2, rfl⟩
  | none =>
    rw [Chip.judge, hf] at h
    split_ifs at h

theorem judge_of_unmapped {c : Chip} {req : Requester} {off : Nat} {w : Bool} (hm : c.mayIssue req = true) (h4 : off % 4 = 0) (hf : findReg off = none) :
    c.judge req off w true = .unmapped := by
  simp [Chip.judge, hm, h4, hf]

/-! What the bus does with an access, by what its checks find. -/

theorem writeAny_of_width {c : Chip} {req : Requester} {off : Nat} {whole : Bool} (v : Nat) (hm : c.mayIssue req = true) (h : whole = false ∨ off % 4 ≠ 0) :
    c.writeAny req off v whole = c.busErr beWIDTH off := by
  simp [Chip.writeAny, hm, h]

theorem writeAny_of_refused {c : Chip} {req : Requester} {off : Nat} (v : Nat) {x : Verdict} (ha : aliasOff off = false) (hj : c.judge req off true true = x)
    (hok : x ≠ .ok) (hheld : x ≠ .held) (hwidth : x ≠ .width) : c.writeAny req off v true = c.refused req off true x := by
  have hm := mayIssue_of_judge (hj ▸ hheld)
  have h4 := aligned_of_judge (hj ▸ hheld) (hj ▸ hwidth)
  cases x <;> simp_all [Chip.writeAny]

theorem writeAny_of_accepted {c : Chip} {req : Requester} {off : Nat} (v : Nat) (ha : aliasOff off = false) (hw : windowOff off = false) (h : writeAccepted c req off) :
    c.writeAny req off v true = c.doWrite req off v := by
  obtain ⟨hj, hs, he⟩ := h
  obtain ⟨hm, h4⟩ := issued_of_judge_ok hj
  simp [Chip.writeAny, Chip.performWrite, hm, h4, ha, hw, hj, hs, he]

theorem writeReg_of_refused {c : Chip} {req : Requester} {off : Nat} (v : Nat) (h : WriteHook) {x : Verdict} (hj : c.judge req off true true = x) (hok : x ≠ .ok) :
    c.writeReg req off v h = c.refused req off true x := by
  cases x <;> simp_all [Chip.writeReg]

theorem writeReg_of_accepted {c : Chip} {req : Requester} {off : Nat} (v : Nat) (h : WriteHook) (hacc : writeAccepted c req off) :
    c.writeReg req off v h = c.acceptWrite req off v h := by
  obtain ⟨hj, hs, he⟩ := hacc
  simp [Chip.writeReg, hj, hs, he]

theorem readReg_of_width {c : Chip} {req : Requester} {off : Nat} {whole : Bool} (hm : c.mayIssue req = true) (h : whole = false ∨ off % 4 ≠ 0) :
    c.readReg req off whole = (c.busErr beWIDTH off).answerRead req 0 := by
  simp [Chip.readReg, hm, h]

theorem readReg_of_alias {c : Chip} {req : Requester} {off : Nat} (hm : c.mayIssue req = true) (h4 : off % 4 = 0) (ha : aliasOff off = true) :
    c.readReg req off true = (c.busErr beALIAS_READ off).answerRead req 0 := by
  simp [Chip.readReg, hm, h4, ha]

theorem readReg_of_unmapped {c : Chip} {req : Requester} {off : Nat} (hm : c.mayIssue req = true) (h4 : off % 4 = 0) (ha : aliasOff off = false) (hf : findReg off = none) :
    c.readReg req off true = (c.busErr beUNMAPPED off).answerRead req 0 := by
  simp [Chip.readReg, hm, h4, ha, judge_of_unmapped hm h4 hf, Chip.refused]

theorem readReg_of_accepted {c : Chip} {req : Requester} {off : Nat} (h : readAccepted c req off) :
    c.readReg req off true = (c.readNow req off).2.answerRead req (c.readNow req off).1 := by
  obtain ⟨ha, hj, hw⟩ := h
  obtain ⟨hm, h4⟩ := issued_of_judge_ok hj
  simp [Chip.readReg, hm, h4, ha, hj, hw]

theorem exec_registerWrite (req : Requester) (off : BitVec 28) (v : BitVec 32) (whole : Bool) (s : State) :
    exec (.registerWrite req off v whole) s = .next (s.onChip (fun c => c.writeAny req off.toNat v.toNat whole)) := rfl

theorem exec_rcRead (req : Requester) (off : BitVec 28) (whole : Bool) (s : State) :
    exec (.rcRead req off whole) s = .next (s.onChip (fun c => c.readReg req off.toNat whole)) := rfl

theorem exec_aliasRead {off : BitVec 28} (req : Requester) (s : State) (ha : aliasOff off.toNat = true) :
    exec (.aliasRead req off) s = .next (s.onChip (fun c => c.readReg req off.toNat true)) := by
  show Host.Outcome.next _ = _
  simp only [ha, if_true]

end Sys2Proof.Machine
end

section
/-! The statements about accesses that the checks refuse (R10 to R13, R18, R432, R491). -/

namespace Sys2Proof.Machine

/-- What a read that ends in a bus error leaves behind: the bit, the answer zero, and nothing else. -/
theorem busErr_answered (c : Chip) (req : Requester) {bit : Nat} (off : Nat) (h : bit < 32) :
    ((c.busErr bit off).answerRead req 0).rd ⟨R.PCU_BUS_ERR, bit, bit⟩ = 1
      ∧ ((c.busErr bit off).answerRead req 0).acc = { c.acc with answer := some ⟨req, 0, 0⟩ }
      ∧ regsSameBut c ((c.busErr bit off).answerRead req 0) [R.PCU_BUS_ERR, R.PCU_BUS_ERR_ADDR]
      ∧ (c.busErr bit off).answerRead req 0 = { c with regs := ((c.busErr bit off).answerRead req 0).regs, acc := ((c.busErr bit off).answerRead req 0).acc } := by
  refine ⟨?_, by simp [Chip.answerRead], regsSameBut_of_regs (busErr_words _ _ _) rfl, by rw [busErr_onlyRegs]; rfl⟩
  exact (rd_onAcc _ _ _).trans (rd_busErr_self _ _ h)

/-- What a write that ends in a bus error leaves behind: the bit, and nothing else. -/
theorem busErr_dropped (c : Chip) {bit : Nat} (off : Nat) (h : bit < 32) :
    (c.busErr bit off).rd ⟨R.PCU_BUS_ERR, bit, bit⟩ = 1 ∧ regsSameBut c (c.busErr bit off) [R.PCU_BUS_ERR, R.PCU_BUS_ERR_ADDR]
      ∧ c.busErr bit off = { c with regs := (c.busErr bit off).regs } :=
  ⟨rd_busErr_self c off h, busErr_words c bit off, busErr_onlyRegs c bit off⟩

/-- REGISTER_WRITE that ends in a bus error. -/
theorem registerWrite_busErr {req : Requester} {off : BitVec 28} {v : BitVec 32} {whole : Bool} {s : State} {bit : Nat}
    (h : s.chip.writeAny req off.toNat v.toNat whole = s.chip.busErr bit off.toNat) (hb : bit < 32) :
    completes (.registerWrite req off v whole) s (fun t => t.chip.rd ⟨R.PCU_BUS_ERR, bit, bit⟩ = 1
      ∧ regsSameBut s.chip t.chip [R.PCU_BUS_ERR, R.PCU_BUS_ERR_ADDR] ∧ t.chip = { s.chip with regs := t.chip.regs } ∧ onlyChip s t) := by
  refine completes_of_exec (exec_registerWrite req off v whole s) ?_
  rw [State.onChip_chip, h]
  obtain ⟨hbit, hwords, honly⟩ := busErr_dropped s.chip off.toNat hb
  exact ⟨hbit, hwords, honly, rfl, rfl⟩

/-- RC_READ that ends in a bus error. -/
theorem rcRead_busErr {req : Requester} {off : BitVec 28} {whole : Bool} {s : State} {bit : Nat}
    (h : s.chip.readReg req off.toNat whole = (s.chip.busErr bit off.toNat).answerRead req 0) (hb : bit < 32) :
    completes (.rcRead req off whole) s (fun t => t.chip.rd ⟨R.PCU_BUS_ERR, bit, bit⟩ = 1 ∧ t.chip.acc = { s.chip.acc with answer := some ⟨req, 0, 0⟩ }
      ∧ regsSameBut s.chip t.chip [R.PCU_BUS_ERR, R.PCU_BUS_ERR_ADDR] ∧ t.chip = { s.chip with regs := t.chip.regs, acc := t.chip.acc } ∧ onlyChip s t) := by
  refine completes_of_exec (exec_rcRead req off whole s) ?_
  rw [State.onChip_chip, h]
  obtain ⟨hbit, hacc, hwords, honly⟩ := busErr_answered s.chip req off.toNat hb
  exact ⟨hbit, hacc, hwords, honly, rfl, rfl⟩

/-- ALIAS_READ ends in a bus error whatever its offset names. -/
theorem aliasRead_busErr {req : Requester} {off : BitVec 28} {s : State} (hm : s.chip.mayIssue req = true) (ha : aliasOff off.toNat = true) (h4 : off.toNat % 4 = 0) :
    completes (.aliasRead req off) s (fun t => t.chip.rd R.PCU_BUS_ERR_ALIAS_READ = 1 ∧ t.chip.acc = { s.chip.acc with answer := some ⟨req, 0, 0⟩ }
      ∧ regsSameBut s.chip t.chip [R.PCU_BUS_ERR, R.PCU_BUS_ERR_ADDR] ∧ t.chip = { s.chip with regs := t.chip.regs, acc := t.chip.acc } ∧ onlyChip s t) := by
  refine completes_of_exec (exec_aliasRead req s ha) ?_
  rw [State.onChip_chip, readReg_of_alias hm h4 ha]
  obtain ⟨hbit, hacc, hwords, honly⟩ := busErr_answered s.chip req off.toNat (bit := beALIAS_READ) (by decide)
  exact ⟨hbit, hacc, hwords, honly, rfl, rfl⟩

/-- Settles O42: the step function's own case of a waiting command. -/
theorem stepRunsTheFrontCommand : Obligations.StepRunsTheFrontCommand := by
  intro i rest s h
  simp only [step, h]

/-- Settles O51: the read is answered with zero before any register is looked at. -/
theorem aliasReadsReadNoMember : Obligations.AliasReadsReadNoMember := by
  intro req off s hm ha h4
  obtain ⟨t, hexec, hbit, hacc, hwords, honly, hmem⟩ := aliasRead_busErr hm ha h4
  exact ⟨t, hexec, hacc, hbit, hwords, honly, hmem⟩

/-- Settles O53: each kind of access ends in its bus error, on the way of a write and of a read. -/
theorem widthAndMappingAreChecked : Obligations.WidthAndMappingAreChecked := by
  refine ⟨fun req off v whole s hm h => ⟨?_, ?_⟩, fun req off v s hm h4 ha hf => ⟨?_, ?_⟩⟩
  · exact registerWrite_busErr (writeAny_of_width _ hm h) (by decide)
  · exact rcRead_busErr (readReg_of_width hm h) (by decide)
  · exact registerWrite_busErr (writeAny_of_refused _ ha (judge_of_unmapped hm h4 hf) (by decide) (by decide) (by decide)) (by decide)
  · exact rcRead_busErr (readReg_of_unmapped hm h4 ha hf) (by decide)

/-- What a write of too low a role leaves behind (R11). -/
theorem refused_role (c : Chip) (req : Requester) (off : Nat) : c.refused req off true .role = (c.busErr beROLE off).event Ev.writeRefused none 0 [off] := rfl

/-- Settles O2: each finding of the checks has its own trace, and REGISTER_WRITE and ALIAS_READ leave nothing but it. -/
theorem refusedAccessesOnlyShowInBusErr : Obligations.RefusedAccessesOnlyShowInBusErr := by
  refine ⟨fun req off v s hm h4 => ?_, fun req off v s hm h4 ha hf => ?_, fun req off v s ha hj => ?_, fun req off v s ha hj => ?_, fun req off v s ha hj => ?_,
    fun req off s hm ha h4 => ?_⟩
  case _ => exact registerWrite_busErr (writeAny_of_width _ hm (.inr h4)) (by decide)
  case _ => exact registerWrite_busErr (writeAny_of_refused _ ha (judge_of_unmapped hm h4 hf) (by decide) (by decide) (by decide)) (by decide)
  case _ => exact registerWrite_busErr (writeAny_of_refused _ ha hj (by decide) (by decide) (by decide)) (by decide)
  case _ =>
    refine completes_of_exec (exec_registerWrite req off v true s) ?_
    rw [State.onChip_chip, writeAny_of_refused _ ha hj (by decide) (by decide) (by decide), refused_role]
    refine ⟨(rd_event ..).trans (rd_busErr_self _ _ (by decide)), regsSameBut_of_regs (busErr_words _ _ _) (Chip.event_regs ..), ?_, rfl, rfl⟩
    rw [event_onlyCapture, busErr_onlyRegs]
  case _ =>
    refine completes_of_exec (exec_registerWrite req off v true s) ?_
    rw [State.onChip_chip, writeAny_of_refused _ ha hj (by decide) (by decide) (by decide)]
    exact ⟨rd_countGated .., countGated_words _ _ _ _, countGated_onlyRegs .., rfl, rfl⟩
  case _ =>
    obtain ⟨t, hexec, hbit, hacc, -, -, hmem⟩ := aliasRead_busErr hm ha h4
    exact ⟨t, hexec, hbit, by rw [hacc], hmem⟩

/-! Records of gated writes (R11, R437). -/

theorem recordGated_captured {c : Chip} {req : Requester} {r : RegDesc} {off old v : Nat} (hr : r.role ≠ .operator) (hroom : c.captured.length < 512) :
    ∃ e ∈ (c.recordGated req r off old v).captured, (e.code = Ev.gatedWrite ∨ e.code = Ev.makerWrite) ∧ e.args.take 3 = [off, old, v] ∧ e.time = c.now := by
  have record : ∀ code a, ∃ e ∈ ((c.count R.SEC_GATED_COUNT_COUNT).event code none 0 a).captured, e.code = code ∧ e.args = a ∧ e.time = c.now := by
    intro code a
    rcases event_captured_or_lost (c.count R.SEC_GATED_COUNT_COUNT) code none 0 a with h | ⟨h, -⟩
    · exact h
    · exact absurd hroom (by simpa using h)
  unfold Chip.recordGated
  split
  · next h => exact absurd h hr
  · obtain ⟨e, he, hcode, hargs, htime⟩ := record Ev.gatedWrite [off, old, v, c.sessionOf req]
    exact ⟨e, he, .inl hcode, by rw [hargs]; rfl, htime⟩
  · obtain ⟨e, he, hcode, hargs, htime⟩ := record Ev.makerWrite [off, old, v, c.sessionOf req]
    exact ⟨e, he, .inr hcode, by rw [hargs]; rfl, htime⟩

theorem cfgReject_onlyRegs (c : Chip) (r : RegDesc) (is : List Nat) : c.cfgReject r is = { c with regs := (c.cfgReject r is).regs } := by
  unfold Chip.cfgReject
  split <;> rfl

/-- What a field does with a written word: nothing, take a value, set the block's CFG_REJECT flag, or hold the write for its row boundary. -/
theorem storeField_cases (c : Chip) (r : RegDesc) (is : List Nat) (off v : Nat) (st : Bool) (f : Fld) :
    c.storeField r is off v st f = c ∨ (∃ x, c.storeField r is off v st f = c.wr ⟨off, f.hi, f.lo⟩ x) ∨ c.storeField r is off v st f = c.cfgReject r is
      ∨ ∃ h, c.storeField r is off v st f = c.onAcc (fun a => { a with held := a.held ++ [h] }) := by
  unfold Chip.storeField
  dsimp only
  split
  case h_6 =>
    split
    case h_1 => exact .inr (.inl ⟨_, rfl⟩)
    case h_2 => split; exacts [.inr (.inl ⟨_, rfl⟩), .inr (.inr (.inl rfl))]
    case h_3 => exact .inr (.inr (.inr ⟨_, rfl⟩))
  case h_4 | h_5 => exact .inr (.inl ⟨_, rfl⟩)
  all_goals exact .inl rfl

theorem storeField_captured (c : Chip) (r : RegDesc) (is : List Nat) (off v : Nat) (st : Bool) (f : Fld) : (c.storeField r is off v st f).captured = c.captured := by
  rcases storeField_cases c r is off v st f with h | ⟨x, h⟩ | h | ⟨w, h⟩ <;> rw [h]
  · rfl
  · rw [cfgReject_onlyRegs]
  · rfl

/-- What every step of a loop leaves alone, the loop leaves alone. -/
theorem each_keeps {α β : Type} (g : Chip → β) {f : Chip → α → Chip} : ∀ {l : List α}, (∀ a ∈ l, ∀ c, g (f c a) = g c) → ∀ c : Chip, g (c.each l f) = g c
  | [], _, _ => rfl
  | a :: _, hf, c => (each_keeps g (fun b hb => hf b (List.mem_cons_of_mem a hb)) (f c a)).trans (hf a List.mem_cons_self c)

theorem store_captured (c : Chip) (r : RegDesc) (is : List Nat) (off v : Nat) : (c.store r is off v).captured = c.captured :=
  each_keeps Chip.captured (fun f _ c => storeField_captured c r is off v _ f) c

/-- Settles O52: a refused write is recorded as its bus error is set; an accepted gated one before its fields are stored, and storing takes no event away. -/
theorem writesOfTooLowARole : Obligations.WritesOfTooLowARole := by
  refine ⟨fun c req off v h hj => ?_, fun c req off v r is h hacc hf hr ht hkeep hroom => ?_⟩
  · rw [writeReg_of_refused v h hj (by decide), refused_role]
    refine ⟨(rd_event ..).trans (rd_busErr_self _ _ (by decide)), regsSameBut_of_regs (busErr_words _ _ _) (Chip.event_regs ..), ?_, by simp⟩
    simpa using event_captured_or_lost (c.busErr beROLE off) Ev.writeRefused none 0 [off]
  · have haccept : c.writeReg req off v h = h.effect ((c.recordGated req r off (c.word off).toNat v).store r is off v) := by
      rw [writeReg_of_accepted v h hacc, Chip.acceptWrite, hf]
      simp only [ht, if_true]
    obtain ⟨e, he, hrest⟩ := recordGated_captured (req := req) (off := off) (old := (c.word off).toNat) (v := v) hr hroom
    rw [haccept]
    exact ⟨e, hkeep _ e (by rwa [store_captured]), hrest⟩

end Sys2Proof.Machine
end

section
/-! The statements about accepted writes, field by field (R7 to R9, R20). -/

namespace Sys2Proof.Machine

theorem fget_lt (w hi lo : Nat) : fget w hi lo < 2 ^ (hi + 1 - lo) := Nat.mod_lt _ (Nat.two_pow_pos _)

/-- An accepted write of an operator's register without rules of its own is the storing of its fields. -/
theorem doWrite_of_plain {c : Chip} {req : Requester} {off v : Nat} {r : RegDesc} {is : List Nat} (hf : findReg off = some (r, is)) (hr : r.role = .operator)
    (hh : c.hookOf req r is v = .plain) : c.doWrite req off v = c.store r is off v := by
  simp [Chip.doWrite, Chip.acceptWrite, hf, hh, WriteHook.plain, Chip.recordGated, hr]

/-- The value of a field after an accepted write gives it `x`, by its type and class (R7, R8, R20). -/
def Fld.after (f : Fld) (stopped : Bool) (old x : Nat) : Nat :=
  match f.acc, f.cls with
  | .w1c, _ => old - Nat.land old x
  | .w1s, _ => Nat.lor old x
  | .rw, .l => x
  | .rw, .s => if stopped then x else old
  | _, _ => old

section
variable {c : Chip} {r : RegDesc} {is : List Nat} {off v : Nat} {st : Bool} {f g : Fld}

/-- The flag of a refused write lies in a register of its own. -/
theorem word_cfgReject_of_ne {o : Nat} (hl : r.blk ≠ .lane) (ho : o ∉ [R.ROUTE_STATUS, R.HIO_STATUS]) : (c.cfgReject r is).word o = c.word o := by
  simp only [List.mem_cons, List.not_mem_nil, or_false, not_or] at ho
  unfold Chip.cfgReject
  split
  · next h => exact absurd h hl
  · exact word_wr_of_ne ho.1
  · exact word_wr_of_ne ho.2
  · rfl

theorem word_storeField_of_ne {o : Nat} (hl : r.blk ≠ .lane) (ho : o ∉ [off, R.ROUTE_STATUS, R.HIO_STATUS]) :
    (c.storeField r is off v st f).word o = c.word o := by
  rw [List.mem_cons, not_or] at ho
  rcases storeField_cases c r is off v st f with h | ⟨x, h⟩ | h | ⟨w, h⟩ <;> rw [h]
  · exact word_wr_of_ne ho.1
  · exact word_cfgReject_of_ne hl ho.2
  · rfl

theorem rd_storeField_apart (hl : r.blk ≠ .lane) (ho : off ∉ [R.ROUTE_STATUS, R.HIO_STATUS]) (hg : g.lo ≤ g.hi ∧ g.hi < 32) (h : g.hi < f.lo ∨ f.hi < g.lo) :
    (c.storeField r is off v st g).rd ⟨off, f.hi, f.lo⟩ = c.rd ⟨off, f.hi, f.lo⟩ := by
  rcases storeField_cases c r is off v st g with e | ⟨x, e⟩ | e | ⟨w, e⟩ <;> rw [e]
  · exact rd_wr_apart c x hg.1 hg.2 h
  · simp only [Chip.rd, word_cfgReject_of_ne hl ho]
  · rfl

theorem rd_storeField_self (hl : r.blk ≠ .lane) (ho : off ∉ [R.ROUTE_STATUS, R.HIO_STATUS]) (hf : f.lo ≤ f.hi ∧ f.hi < 32) :
    (c.storeField r is off v st f).rd ⟨off, f.hi, f.lo⟩ = f.after st (c.rd ⟨off, f.hi, f.lo⟩) (fget v f.hi f.lo) := by
  have taken : ∀ x, x < 2 ^ (f.hi + 1 - f.lo) → (c.wr ⟨off, f.hi, f.lo⟩ x).rd ⟨off, f.hi, f.lo⟩ = x := by
    intro x hx
    rw [rd_wr_self c x hf.1 hf.2, Nat.mod_eq_of_lt hx]
  have old : c.rd ⟨off, f.hi, f.lo⟩ < 2 ^ (f.hi + 1 - f.lo) := rd_lt c _
  unfold Chip.storeField Fld.after
  cases f.acc with
  | ro | rc | wo => rfl
  | w1c => exact taken _ (by omega)
  | w1s => exact taken _ (Nat.or_lt_two_pow old (fget_lt ..))
  | rw =>
    cases f.cls with
    | l => exact taken _ (fget_lt ..)
    | s =>
      cases st with
      | true => exact taken _ (fget_lt ..)
      | false => exact congrArg (fun w => fget w.toNat f.hi f.lo) (word_cfgReject_of_ne hl ho)
    | w => rfl

/-- A W-class field's write is held with its bits and its boundary. -/
theorem held_storeField (hf : f.lo ≤ f.hi) (hacc : f.acc = .rw) (hcls : f.cls = .w) :
    ∃ h ∈ (c.storeField r is off v st f).acc.held, h.off = off ∧ h.row = c.wRow ∧ fget h.val f.hi f.lo = fget v f.hi f.lo ∧ fget h.mask f.hi f.lo = 2 ^ (f.hi + 1 - f.lo) - 1 := by
  refine ⟨⟨off, fset 0 f.hi f.lo (2 ^ (f.hi + 1 - f.lo) - 1), fset 0 f.hi f.lo (fget v f.hi f.lo), c.wRow⟩, ?_, rfl, rfl, ?_, ?_⟩
  · simp [Chip.storeField, hacc, hcls, FRef.top]
  · rw [fget_fset_self hf, Nat.mod_eq_of_lt (fget_lt ..)]
  · rw [fget_fset_self hf, Nat.mod_eq_of_lt (Nat.sub_one_lt (Nat.two_pow_pos _).ne')]

theorem mem_held_storeField {h : HeldWrite} (hh : h ∈ c.acc.held) : h ∈ (c.storeField r is off v st f).acc.held := by
  rcases storeField_cases c r is off v st f with e | ⟨x, e⟩ | e | ⟨w, e⟩ <;> rw [e]
  · exact hh
  · exact hh
  · rw [cfgReject_onlyRegs]; exact hh
  · exact List.mem_append_left _ hh

end

theorem wRow_of_sameButRegs {c d : Chip} (h : c.sameButRegs d) : d.wRow = c.wRow := by rw [h]; rfl

/-- Every write held before a loop of stored fields is held after it. -/
theorem mem_held_each {r : RegDesc} {is : List Nat} {off v : Nat} {st : Bool} {h : HeldWrite} :
    ∀ {l : List Fld} {c : Chip}, h ∈ c.acc.held → h ∈ (c.each l (fun c f => c.storeField r is off v st f)).acc.held
  | [], _, hh => hh
  | _ :: l, _, hh => mem_held_each (l := l) (mem_held_storeField hh)

/-- Each field of a stored word follows its own type and class, whatever the other fields do (R9): its value, and the held write of a W-class field. -/
theorem store_field {c : Chip} {r : RegDesc} {is : List Nat} {off v : Nat} {f : Fld} (hmem : f ∈ r.flds) (hin : ∀ g ∈ r.flds, g.lo ≤ g.hi ∧ g.hi < 32)
    (hapart : r.flds.Pairwise (fun g h => g.hi < h.lo ∨ h.hi < g.lo)) (hl : r.blk ≠ .lane) (ho : off ∉ [R.ROUTE_STATUS, R.HIO_STATUS]) :
    (c.store r is off v).rd ⟨off, f.hi, f.lo⟩ = f.after (c.stopped r is) (c.rd ⟨off, f.hi, f.lo⟩) (fget v f.hi f.lo)
      ∧ (f.acc = .rw → f.cls = .w → ∃ h ∈ (c.store r is off v).acc.held, h.off = off ∧ h.row = c.wRow ∧ fget h.val f.hi f.lo = fget v f.hi f.lo
          ∧ fget h.mask f.hi f.lo = 2 ^ (f.hi + 1 - f.lo) - 1) := by
  have hf := hin f hmem
  unfold Chip.store
  dsimp only
  generalize c.stopped r is = st
  obtain ⟨before, rest, hsplit⟩ := List.append_of_mem hmem
  rw [hsplit] at hin hapart ⊢
  rw [List.pairwise_append, List.pairwise_cons] at hapart
  obtain ⟨-, ⟨hrest, -⟩, hbefore⟩ := hapart
  unfold Chip.each
  rw [List.foldl_append, List.foldl_cons]
  have before_rd : (before.foldl (fun c f => c.storeField r is off v st f) c).rd ⟨off, f.hi, f.lo⟩ = c.rd ⟨off, f.hi, f.lo⟩ :=
    each_keeps (fun c => c.rd ⟨off, f.hi, f.lo⟩) (fun g hg _ => rd_storeField_apart hl ho (hin g (List.mem_append_left _ hg)) (hbefore g hg f List.mem_cons_self)) c
  have before_wRow : (before.foldl (fun c f => c.storeField r is off v st f) c).wRow = c.wRow :=
    wRow_of_sameButRegs (sameButRegs_each (fun _ _ h => sameButRegs_storeField _ _ _ _ _ _ h) before c (sameButRegs_refl c))
  constructor
  · rw [← before_rd, ← rd_storeField_self hl ho hf]
    exact each_keeps (fun c => c.rd ⟨off, f.hi, f.lo⟩)
      (fun g hg _ => rd_storeField_apart hl ho (hin g (List.mem_append_right _ (List.mem_cons_of_mem f hg))) (hrest g hg).symm) _
  · intro hacc hcls
    obtain ⟨h, hh, hoff, hrow, hval⟩ := held_storeField (c := before.foldl (fun c f => c.storeField r is off v st f) c) (r := r) (is := is) (off := off) (v := v) (st := st) hf.1 hacc hcls
    exact ⟨h, mem_held_each hh, hoff, hrow.trans before_wRow, hval⟩

/-- Settles O58: each field of a stored word follows its own type, and the row of a W-class write is the first boundary at least 200 cycles away. -/
theorem fieldsFollowTheirTypes : Obligations.FieldsFollowTheirTypes := by
  refine ⟨fun req off v s r is f hf hmem hin hapart hr ho hl hh ha hw hacc => ?_, fun c hrows hcyc => ?_, fun c hrows => ?_⟩
  · refine completes_of_exec (exec_registerWrite req off v true s) ?_
    rw [State.onChip_chip, writeAny_of_accepted _ ha hw hacc, doWrite_of_plain hf hr hh]
    obtain ⟨hval, hheld⟩ := store_field (c := s.chip) (is := is) (v := v.toNat) hmem hin hapart hl ho
    refine ⟨?_, hheld, fun o hne => each_keeps (fun c => c.word o) (fun g _ _ => word_storeField_of_ne hl hne) _, rfl, rfl⟩
    rw [hval]
    rfl
  · simp only [Chip.wRow, hrows, if_true, Chip.boundaryAfter, Chip.cycles]
    split <;> omega
  · simp [Chip.wRow, hrows]

end Sys2Proof.Machine
end

section
/-! Reads that are performed (R4, R7, R15, R448): what each kind of register answers, latches and changes. -/

namespace Sys2Proof.Machine

/-- The value of a register, and the package after a draw for it at most. -/
theorem present_eq {c : Chip} {off : Nat} {r : RegDesc} {is : List Nat} (hf : findReg off = some (r, is)) :
    ∃ d : Chip, c.present off = (c.viewWord off, d) ∧ d.regs = c.regs ∧ d.acc = c.acc ∧ (isMeasured r = false → d = c) := by
  refine ⟨_, by rw [Chip.present, hf], ?_, ?_, fun h => by simp [h]⟩ <;> split <;> rfl

section
variable {c : Chip} {req : Requester} {off : Nat} {r : RegDesc} {is : List Nat}

/-- A read of a register without side effects, outside the mirror port and the latched words. -/
theorem readNow_plain (hf : findReg off = some (r, is)) (hs : sideEffect r.base = false) (hm : r.base ∉ [R.DBG_MIRROR_SEL, R.DBG_MIRROR_DATA, R.DBG_MIRROR_STATUS])
    (hw : ¬ (R.SYN_OBJ_W0_LO < r.base ∧ r.base ≤ R.SYN_OBJ_W1_HI)) (hlo : loBases.contains (r.base - 4) = false) :
    ∃ d : Chip, c.readNow req off = (c.viewWord off, d.readClears r off) ∧ d.regs = c.regs ∧ d.acc = c.acc := by
  obtain ⟨d, hd, hregs, hacc, -⟩ := present_eq (c := c) hf
  simp only [List.mem_cons, List.not_mem_nil, or_false, not_or] at hm
  obtain ⟨hsel, hdata, hstatus⟩ := hm
  simp only [sideEffect, Bool.or_eq_false_iff, beq_eq_false_iff_ne] at hs
  obtain ⟨⟨hbase, hobj⟩, hdump⟩ := hs
  refine ⟨d, ?_, hregs, hacc⟩
  simp only [Chip.readNow, hf, hd]
  rw [if_neg hdata, if_neg hsel, if_neg hstatus, if_neg (by rw [hbase]; decide), if_neg hobj, if_neg hw, if_neg (by rw [hlo]; simp), if_neg hdump]

/-- A read of a _LO register latches the matching _HI register. -/
theorem readNow_lo (hf : findReg off = some (r, is)) (hlo : loBases.contains r.base = true) :
    ∃ d : Chip, c.readNow req off = (c.viewWord off, d.setLatch ⟨req, off, [d.viewWord (off + 4)]⟩) ∧ d.regs = c.regs ∧ (isMeasured r = false → d = c) := by
  obtain ⟨d, hd, hregs, -, hsame⟩ := present_eq (c := c) hf
  have apart : ∀ b, loBases.contains b = false → r.base ≠ b := fun b hb e => by rw [e, hb] at hlo; cases hlo
  refine ⟨d, ?_, hregs, hsame⟩
  simp only [Chip.readNow, hf, hd]
  rw [if_neg (apart _ (by decide)), if_neg (apart _ (by decide)), if_neg (apart _ (by decide)), if_pos hlo]

end

/-- The registers of the control space whose reads have rules by name. -/
theorem findReg_mirrorData : ∃ r is, findReg R.DBG_MIRROR_DATA = some (r, is) ∧ r.base = R.DBG_MIRROR_DATA := ⟨_, _, rfl, rfl⟩
theorem findReg_dumpData : ∃ r is, findReg R.PCU_DUMP_DATA = some (r, is) ∧ r.base = R.PCU_DUMP_DATA := ⟨_, _, rfl, rfl⟩
theorem findReg_objW0Lo : ∃ r is, findReg R.SYN_OBJ_W0_LO = some (r, is) ∧ r.base = R.SYN_OBJ_W0_LO := ⟨_, _, rfl, rfl⟩

theorem isMeasured_of_base {r : RegDesc} {b : Nat} (h : r.base = b) (hb : isMeasured ⟨.pcu, "", b, [], .operator, []⟩ = false) : isMeasured r = false := by
  simpa [isMeasured, h] using hb

theorem readNow_mirrorData {c : Chip} {req : Requester} (h : c.mirrorFault (c.mirrorOf req).sel = none) :
    ∃ d : Chip, c.readNow req R.DBG_MIRROR_DATA = (c.viewWord (c.mirrorOf req).sel, d) ∧ d.regs = c.regs ∧ d.acc = c.acc := by
  obtain ⟨r, is, hf, hb⟩ := findReg_mirrorData
  obtain ⟨d, hd, -, -, hsame⟩ := present_eq (c := c) hf
  obtain rfl := hsame (isMeasured_of_base hb (by decide))
  obtain ⟨x, hx⟩ : ∃ x, findReg (d.mirrorOf req).sel = some x := by
    unfold Chip.mirrorFault at h
    split_ifs at h with _ _ _ hnone
    exact Option.ne_none_iff_exists'.mp (by simpa using hnone)
  obtain ⟨e, he, hregs, hacc, -⟩ := present_eq (c := d) hx
  refine ⟨e, ?_, hregs, hacc⟩
  simp only [Chip.readNow, hf, hd, hb, if_true, Chip.readMirror, h, he]

theorem readNow_dumpData (c : Chip) (req : Requester) :
    ∃ d : Chip, c.readNow req R.PCU_DUMP_DATA = (c.viewWord R.PCU_DUMP_DATA, d.wr R.PCU_DUMP_SEL_WORD (c.rd R.PCU_DUMP_SEL_WORD + 1)) ∧ d.regs = c.regs := by
  obtain ⟨r, is, hf, hb⟩ := findReg_dumpData
  obtain ⟨d, hd, hregs, -, -⟩ := present_eq (c := c) hf
  refine ⟨d, ?_, hregs⟩
  have notLo : R.PCU_DUMP_DATA ∉ loBases := by decide
  have notHi : R.PCU_DUMP_DATA - 4 ∉ loBases := by decide
  have notObj : ¬ R.SYN_OBJ_W0_LO < R.PCU_DUMP_DATA := by decide
  simp [Chip.readNow, hf, hd, hb, notLo, notHi, notObj, rd_congr hregs]

theorem readNow_objW0Lo (c : Chip) (req : Requester) : c.readNow req R.SYN_OBJ_W0_LO = (c.viewWord R.SYN_OBJ_W0_LO, c.setLatch ⟨req, R.SYN_OBJ_W0_LO, c.objWords⟩) := by
  obtain ⟨r, is, hf, hb⟩ := findReg_objW0Lo
  obtain ⟨d, hd, -, -, hsame⟩ := present_eq (c := c) hf
  obtain rfl := hsame (isMeasured_of_base hb (by decide))
  have notLo : R.SYN_OBJ_W0_LO ∉ loBases := by decide
  simp [Chip.readNow, hf, hd, hb, notLo]

/-- The latch of a requester is the one it took last. -/
theorem latchOf_setLatch (c : Chip) (l : ReadLatch) : (c.setLatch l).latchOf l.req = some l := by
  have gone : (c.acc.latches.filter (fun x => x.req != l.req)).find? (fun x => x.req == l.req) = none := by simp
  simp [Chip.latchOf, Chip.setLatch, List.find?_append, gone]

/-! Read-clear fields. -/

theorem readClears_of_none {r : RegDesc} (h : ∀ f ∈ r.flds, f.acc ≠ .rc) (c : Chip) (off : Nat) : c.readClears r off = c :=
  each_keeps id (fun f hf _ => if_neg (h f hf)) c

theorem readClears_words (c : Chip) (r : RegDesc) (off : Nat) : regsSameBut c (c.readClears r off) [off] := by
  intro o ho
  refine each_keeps (fun c => c.word o) (fun f _ c => ?_) c
  split
  · exact word_wr_of_ne (fun e => ho (List.mem_singleton.mpr e))
  · rfl

theorem rd_readClears {r : RegDesc} {f : Fld} (hr : r.flds = [f]) (hacc : f.acc = .rc) (h1 : f.lo ≤ f.hi) (h2 : f.hi < 32) (c : Chip) (off : Nat) :
    (c.readClears r off).rd ⟨off, f.hi, f.lo⟩ = 0 := by
  have hc : c.readClears r off = c.wr ⟨off, f.hi, f.lo⟩ 0 := by simp [Chip.readClears, Chip.each, hr, hacc]
  rw [hc, rd_wr_self c 0 h1 h2, Nat.zero_mod]

@[simp] theorem answerRead_regs (c : Chip) (req : Requester) (n : Nat) : (c.answerRead req n).regs = c.regs := rfl
@[simp] theorem answerRead_answer (c : Chip) (req : Requester) (n : Nat) : (c.answerRead req n).acc.answer = some ⟨req, 0, n⟩ := rfl
@[simp] theorem answerRead_latches (c : Chip) (req : Requester) (n : Nat) : (c.answerRead req n).acc.latches = c.acc.latches := rfl
@[simp] theorem answerRead_latchOf (c : Chip) (req q : Requester) (n : Nat) : (c.answerRead req n).latchOf q = c.latchOf q := rfl
@[simp] theorem setLatch_regs (c : Chip) (l : ReadLatch) : (c.setLatch l).regs = c.regs := rfl

/-- LO_READ_LATCH of a _LO register is a read of it. -/
theorem exec_loReadLatch {off : BitVec 28} {r : RegDesc} {is : List Nat} (req : Requester) (s : State) (hf : findReg off.toNat = some (r, is)) (hlo : loBases.contains r.base = true) :
    exec (.loReadLatch req off) s = .next (s.onChip (fun c => c.readReg req off.toNat true)) := by
  show Host.Outcome.next _ = _
  simp only [hf, hlo, if_true]

/-- Settles O1: an accepted write stores its field; an accepted read is performed by the rule of its register's kind. -/
theorem registerAccessesThatAreAccepted : Obligations.RegisterAccessesThatAreAccepted := by
  refine ⟨fun req off v s r is f hf hr hacc hcls h1 h2 hrole hh ha hw hok => ?_, fun req off s r is hf hs hm hw hlo hok => ?_, fun req off s r is hf hlo hok => ?_,
    fun req s hok hfault => ?_, fun req s hok => ?_, fun req s hok => ?_⟩
  case _ =>
    refine completes_of_exec (exec_registerWrite req off v true s) ?_
    have hstore : s.chip.store r is off.toNat v.toNat = s.chip.wr ⟨off.toNat, f.hi, f.lo⟩ (fget v.toNat f.hi f.lo) := by
      simp [Chip.store, Chip.each, hr, Chip.storeField, hacc, hcls]
    rw [State.onChip_chip, writeAny_of_accepted _ ha hw hok, doWrite_of_plain hf hrole hh, hstore]
    refine ⟨?_, fun o ho => word_wr_of_ne (fun e => ho (List.mem_singleton.mpr e)), rfl, rfl, rfl⟩
    rw [rd_wr_self _ _ h1 h2, Nat.mod_eq_of_lt (fget_lt ..)]
  case _ =>
    refine completes_of_exec (exec_rcRead req off true s) ?_
    obtain ⟨d, hd, hregs, -⟩ := readNow_plain (c := s.chip) (req := req) hf hs hm hw hlo
    rw [State.onChip_chip, readReg_of_accepted hok, hd]
    refine ⟨rfl, fun hrc => ?_, fun f hr hacc h1 h2 => rd_readClears hr hacc h1 h2 d _, fun o ho => ?_, rfl, rfl⟩
    · rw [readClears_of_none hrc]; exact hregs
    · exact (readClears_words d r off.toNat o ho).trans (word_congr hregs o)
  case _ =>
    refine completes_of_exec (exec_loReadLatch req s hf hlo) ?_
    obtain ⟨d, hd, hregs, hsame⟩ := readNow_lo (c := s.chip) (req := req) hf hlo
    rw [State.onChip_chip, readReg_of_accepted hok, hd]
    refine ⟨rfl, hregs, ⟨rfl, rfl⟩, fun hmeas => ?_⟩
    rw [← hsame hmeas]
    exact latchOf_setLatch d ⟨req, off.toNat, _⟩
  case _ =>
    refine completes_of_exec (t := s.onChip _) rfl ?_
    obtain ⟨d, hd, hregs, hacc⟩ := readNow_mirrorData hfault
    rw [State.onChip_chip, readReg_of_accepted hok, hd]
    exact ⟨rfl, hregs, by rw [answerRead_latches, hacc], rfl, rfl⟩
  case _ =>
    refine completes_of_exec (t := s.onChip _) rfl ?_
    obtain ⟨d, hd, hregs⟩ := readNow_dumpData s.chip req
    rw [State.onChip_chip, readReg_of_accepted hok, hd]
    refine ⟨rfl, (rd_onAcc ..).trans (rd_wr_self (f := R.PCU_DUMP_SEL_WORD) d _ (by decide) (by decide)), fun o ho => ?_, rfl, rfl⟩
    exact (word_onAcc ..).trans ((word_wr_of_ne (fun e => ho (List.mem_singleton.mpr e))).trans (word_congr hregs o))
  case _ =>
    refine completes_of_exec (t := s.onChip _) rfl ?_
    rw [State.onChip_chip, readReg_of_accepted hok, readNow_objW0Lo]
    exact ⟨rfl, latchOf_setLatch s.chip ⟨req, R.SYN_OBJ_W0_LO, _⟩, rfl, rfl, rfl⟩

end Sys2Proof.Machine
end

section
/-! Alias writes, waiting accesses and inbound DMA (R16 to R19, R404, R409, R431). -/

namespace Sys2Proof.Machine

/-! Alias writes. -/

theorem exec_aliasWrite {off : BitVec 28} (req : Requester) (v : BitVec 32) (s : State) (ha : aliasOff off.toNat = true) :
    exec (.aliasWrite req off v) s = .next (s.onChip (fun c => c.writeAny req off.toNat v.toNat true)) := by
  show Host.Outcome.next _ = _
  simp only [ha, if_true]

section
variable {c : Chip} {req : Requester} {off v b n base stride abase astride : Nat} {d : RegDesc}

/-- An aliased write that passes its checks, by a requester with no earlier write waiting, is accepted (R17). -/
theorem writeAny_of_aliasAccepted (hm : c.mayIssue req = true) (h4 : off % 4 = 0) (ha : aliasOff off = true)
    (hb : aliasBlock off = some (b, n, base, stride, abase, astride)) (hd : aliasReg n base stride ((off - abase) % astride) = some d)
    (hhart : ∀ die k, req ≠ .hart die k) (hqp : ∀ die k, req ≠ .queueProc die k) (hr : d.role.rank ≤ (c.roleOf req).rank) (hown : c.behindOwn req = false) :
    c.writeAny req off v true = c.acceptAlias req off v := by
  have hwrite : c.writeAny req off v true = c.writeAlias req off v := by simp [Chip.writeAny, hm, h4, ha]
  rw [hwrite]
  unfold Chip.writeAlias
  simp only [hb, hd]
  cases req with
  | hart die k => exact absurd rfl (hhart die k)
  | queueProc die k => exact absurd rfl (hqp die k)
  | _ => simp [Nat.not_lt.mpr hr, hown]

theorem aliasTarget_eq (hb : aliasBlock off = some (b, n, base, stride, abase, astride)) (i : Nat) : aliasTarget off i = base + i * stride + (off - abase) % astride := by
  simp [aliasTarget, hb]

theorem aliasMembers_broadcast (hb : aliasBlock off = some (b, n, base, stride, abase, astride)) (hg : (off - abase) / astride = 15) : c.aliasMembers off = List.range n := by
  simp [Chip.aliasMembers, hb, hg]

theorem aliasMembers_of_emptyMask (hb : aliasBlock off = some (b, n, base, stride, abase, astride)) (hg : (off - abase) / astride ≠ 15)
    (hmask : c.rd (R.PCU_GROUP_MASK_MEMBERS b ((off - abase) / astride)) = 0) : c.aliasMembers off = [] := by
  simp [Chip.aliasMembers, hb, hg, hmask, bitOf]

theorem staleFrom_of_notPcu (hp : ∀ u, req ≠ .pcu u) (o : Nat) : c.staleFrom req o = none := by
  cases req with
  | pcu u => exact absurd rfl (hp u)
  | _ => rfl

theorem behindOwn_of_writeWaits {o : Nat} (h : c.writeWaits req o = false) : c.behindOwn req = false := by
  rw [Chip.writeWaits, Bool.or_eq_false_iff] at h
  exact h.2

theorem token_of_writeWaits {o : Nat} (h : c.writeWaits req o = false) : (needsToken req o && c.tokenWaits) = false := by
  rw [Chip.writeWaits, Bool.or_eq_false_iff] at h
  exact h.1

/-- An accepted aliased write of members of which none waits reaches each of them, in their order (R17, R19). -/
theorem acceptAlias_delivers {l : List Nat} (hl : c.aliasMembers off = l) (hne : l ≠ []) (hs : ∀ i, c.staleFrom req (aliasTarget off i) = none)
    (hw : ∀ i ∈ l, c.writeWaits req (aliasTarget off i) = false) :
    c.acceptAlias req off v = c.each l (fun c i => c.aliasMember req (aliasTarget off i) v) := by
  have nostale : l.findSome? (fun i => c.staleFrom req (aliasTarget off i)) = none := by simp [hs]
  have nowait : (l.any (fun i => needsToken req (aliasTarget off i)) && c.tokenWaits) = false := by
    rw [Bool.and_eq_false_iff, or_iff_not_imp_right, Bool.not_eq_false]
    intro htoken
    rw [List.any_eq_false]
    intro i hi
    simpa [htoken] using token_of_writeWaits (hw i hi)
  rw [Chip.acceptAlias, hl]
  simp [hne, nostale, Chip.deliverAlias, nowait]

end

/-! Accesses that wait: a read does not look at those that wait behind it. -/

/-- The package with other accesses waiting. -/
def Chip.withWaiting (c : Chip) (l : List EmuAccess) : Chip := c.onAcc (fun a => { a with emuWait := l })

theorem viewWord_withWaiting (c : Chip) (l : List EmuAccess) (off : Nat) : (c.withWaiting l).viewWord off = c.viewWord off := rfl

theorem present_withWaiting (c : Chip) (l : List EmuAccess) (off : Nat) : (c.withWaiting l).present off = ((c.present off).1, (c.present off).2.withWaiting l) := by
  unfold Chip.present
  cases findReg off with
  | none => rfl
  | some x => exact Prod.ext (viewWord_withWaiting c l off) (by dsimp only; split <;> rfl)

theorem readMirror_withWaiting (c : Chip) (l : List EmuAccess) (req : Requester) :
    (c.withWaiting l).readMirror req = ((c.readMirror req).1, (c.readMirror req).2.withWaiting l) := by
  have same_port : (c.withWaiting l).mirrorOf req = c.mirrorOf req := rfl
  have same_fault : ∀ o, (c.withWaiting l).mirrorFault o = c.mirrorFault o := fun _ => rfl
  unfold Chip.readMirror
  simp only [same_port, same_fault]
  cases c.mirrorFault (c.mirrorOf req).sel with
  | none => exact present_withWaiting c l _
  | some b => rfl

theorem readClears_withWaiting (r : RegDesc) (off : Nat) (l : List EmuAccess) (c : Chip) : (c.withWaiting l).readClears r off = (c.readClears r off).withWaiting l := by
  unfold Chip.readClears Chip.each
  induction r.flds generalizing c with
  | nil => rfl
  | cons f fs ih =>
    rw [List.foldl_cons, List.foldl_cons, ← ih]
    split <;> rfl

theorem readNow_withWaiting (c : Chip) (l : List EmuAccess) (req : Requester) (off : Nat) :
    (c.withWaiting l).readNow req off = ((c.readNow req off).1, (c.readNow req off).2.withWaiting l) := by
  unfold Chip.readNow
  cases findReg off with
  | none => rfl
  | some x =>
    dsimp only
    rw [present_withWaiting]
    generalize c.present off = p
    obtain ⟨v, d⟩ := p
    have same_latch : (d.withWaiting l).latchOf req = d.latchOf req := rfl
    rw [readMirror_withWaiting, readClears_withWaiting, same_latch]
    split_ifs <;> rfl

/-- With a control unit holding the token the oldest waiting read is performed, and the others go on waiting (R431). -/
theorem serveEmu_read {c : Chip} {e : EmuAccess} {es : List EmuAccess} (he : c.acc.emuWait = e :: es) (hm : e.req ≠ .mgmt) (hw : e.isWrite = false) :
    c.serveEmu = ((c.readNow e.req e.off).2.withWaiting es).answerRead e.req (c.readNow e.req e.off).1 := by
  have hperform : (c.withWaiting []).performWaiting e = ((c.readNow e.req e.off).2.withWaiting []).answerRead e.req (c.readNow e.req e.off).1 := by
    simp [Chip.performWaiting, hm, hw, readNow_withWaiting]
  unfold Chip.serveEmu
  rw [he]
  show ((c.withWaiting []).performWaiting e).onAcc _ = _
  rw [hperform]
  rfl

/-- Without one the only waiting access is dropped and counted; a read is answered with zero (R431). -/
theorem dropEmu_one {c : Chip} {e : EmuAccess} (he : c.acc.emuWait = [e]) (hm : e.req ≠ .mgmt) (hd : e.dropped = true) :
    c.dropEmu = if e.isWrite then (c.withWaiting []).count R.PCU_EMU_STATUS_DROPPED 1 else ((c.withWaiting []).count R.PCU_EMU_STATUS_DROPPED 1).answerRead e.req 0 := by
  have hone : ([e].filter (fun e => e.dropped && e.req != .mgmt)).length = 1 := by simp [hd, hm]
  unfold Chip.dropEmu
  rw [he]
  simp only [hone, Chip.each, List.foldl_cons, List.foldl_nil, hd, if_true, if_neg hm]
  rfl

theorem exec_emulatedAccess {s : State} (h : s.chip.tokenHeld = true) : exec .emulatedAccess s = .next (s.onChip Chip.serveEmu) := by
  show Host.Outcome.next _ = _
  simp only [State.onChip, h, if_true]

theorem exec_emulatedAccessTimeout {s : State} (h : s.chip.tokenHeld = false) (ht : s.chip.rowsRun = false ∨ s.chip.pcu.lostAt + 200000 ≤ s.chip.cycles) :
    exec .emulatedAccessTimeout s = .next (s.onChip Chip.dropEmu) := by
  have hreached : s.chip.reachedCycle (s.chip.pcu.lostAt + 200000) = true := by simpa [Chip.reachedCycle] using ht
  show Host.Outcome.next _ = _
  simp only [State.onChip, h, hreached, and_self, if_true]

theorem count_words (c : Chip) (f : FRef) (n : Nat) : regsSameBut c (c.count f n) [f.off] := fun _ ho => word_wr_of_ne (fun e => ho (List.mem_singleton.mpr e))

/-! Inbound DMA. -/

theorem exec_inboundDma (r : Fin 16) (w : Fin 1024) (a : BitVec 46) (isWrite : Bool) {n : Fin 4097} (data : List (BitVec 8)) (s : State) (hn : n.val ≠ 0) :
    exec (.inboundDma r (some w) a isWrite n data) s = .next (s.onChip (fun c => c.inbound r.val w.val a.toNat isWrite n.val (padTo n.val (data.map BitVec.toNat)))) := by
  show Host.Outcome.next _ = _
  simp only [if_neg hn]

/-- A DMA of a port without a tenant, or stopped, is not performed (R409). -/
theorem inbound_unsupported {c : Chip} {r : Nat} (w a : Nat) (isWrite : Bool) (n : Nat) (data : List Nat)
    (h : c.on (R.HIO_PORT_TENANT_EN r) = false ∨ c.hio.dmaStopped.contains r = true) : c.inbound r w a isWrite n data = c.dmaUnsupported r := by
  have hb : (!c.on (R.HIO_PORT_TENANT_EN r) || c.hio.dmaStopped.contains r) = true := by
    rcases h with h | h
    · rw [h]; rfl
    · rw [h, Bool.or_true]
  simp only [Chip.inbound, hb, if_true]

/-- A word written to an interrupt file through the site-local window pends its identity (R404). -/
theorem inbound_imsic {c : Chip} {r a : Nat} (data : List Nat) (hen : c.on (R.HIO_PORT_TENANT_EN r) = true) (hstop : c.hio.dmaStopped.contains r = false)
    (ha : a % 4096 = 0) (hf : imsicFile a = true) :
    c.inbound r 1023 a true 4 data
      = c.onHio (fun x => { x with imsic := if x.imsic.contains (a, leField data 0 4) then x.imsic else x.imsic ++ [(a, leField data 0 4)] }) := by
  have h4 : a % 4 = 0 := by omega
  simp only [Chip.inbound, hen, hstop, ha, hf, h4]
  rfl

/-- A range within one block is one line of memory. -/
theorem viewLines_one {a n : Nat} (hn : 0 < n) (h : a % 64 + n ≤ 64) : viewLines a n = [(a, n)] := by
  have hone : (a % 64 + n + 63) / 64 = 1 := by omega
  have hlo : max a (a - a % 64 + 64 * 0) = a := by omega
  have hlen : min (a + n) (a - a % 64 + 64 * (0 + 1)) - a = n := by omega
  simp only [viewLines, lineOf, hone, List.range_one, List.map_cons, List.map_nil, hlo, hlen]

/-- A DMA within one block of memory through window 0 is one request at the host I/O site of its port (R409). -/
theorem inbound_request {c : Chip} {r a : Nat} (isWrite : Bool) {n : Nat} (data : List Nat) (hen : c.on (R.HIO_PORT_TENANT_EN r) = true)
    (hstop : c.hio.dmaStopped.contains r = false) (hlt : a < 0x3FF000000000) (hn : 0 < n) (hfit : a % 64 + n ≤ 64) :
    c.inbound r 0 a isWrite n data = c.request (22 + r / 8) 0
      { opcode := if isWrite then opSTORE else opLOAD, cls := 0, dstNode := c.node, tenant := c.rd (R.HIO_PORT_TENANT_TENANT r), ppa := lineOf a, start := a % 64
        countM1 := n - 1, data := if isWrite then List.replicate (a % 64) 0 ++ data.take n else [] } := by
  have hnot : ¬ (0x3FF000000000 ≤ a ∧ a < 0x3FF010000000) := by omega
  simp only [Chip.inbound, hen, hstop, Bool.not_true, Bool.or_self, if_true, if_neg hnot, dmaPieces, viewLines_one hn hfit, List.map_cons, List.map_nil, Nat.sub_self,
    Chip.each, List.foldl_cons, List.foldl_nil, List.drop_zero, Bool.false_eq_true, if_false]

theorem padTo_of_length {n : Nat} {l : List Nat} (h : l.length = n) : padTo n l = l := by simp [padTo, ← h]

/-- Settles O3: each kind of access by the rule of its branch, under the conditions that lead there. -/
theorem aliasesEmulatedAccessesAndInboundDma : Obligations.AliasesEmulatedAccessesAndInboundDma := by
  refine ⟨fun req off v s b n base stride abase astride d hm h4 ha hb hg hn hd hhart hqp hpcu hr hw => ?_,
    fun req off v s b n base stride abase astride d hm h4 ha hb hg hmask hd hhart hqp hr hown => ?_, fun s e es ht he hm hw => ?_, fun s e ht hlate he hm hd => ?_,
    fun r a data s hen hstop ha hf => ?_, fun r w a isWrite n data s hn h => ?_, fun r a isWrite n data s hen => ?_,
    fun r a n data s hen hstop hlt hn hfit hlen => ⟨?_, ?_⟩⟩
  case _ =>
    refine completes_of_exec (exec_aliasWrite req v s ha) ⟨⟨rfl, rfl⟩, ?_⟩
    have hown := behindOwn_of_writeWaits (hw 0 (List.mem_range.mpr hn))
    rw [State.onChip_chip, writeAny_of_aliasAccepted hm h4 ha hb hd hhart hqp hr hown,
      acceptAlias_delivers (aliasMembers_broadcast hb hg) (by simpa using hn.ne') (fun i => staleFrom_of_notPcu hpcu _) (by simpa only [aliasTarget_eq hb] using hw)]
    simp only [aliasTarget_eq hb]
    rfl
  case _ =>
    refine completes_of_exec (exec_aliasWrite req v s ha) ?_
    have hempty : s.chip.acceptAlias req off.toNat v.toNat = s.chip.busErr beALIAS_EMPTY off.toNat := by
      simp [Chip.acceptAlias, aliasMembers_of_emptyMask hb hg hmask]
    rw [State.onChip_chip, writeAny_of_aliasAccepted hm h4 ha hb hd hhart hqp hr hown, hempty]
    exact ⟨rd_busErr_self _ _ (by decide), busErr_words _ _ _, rfl, rfl⟩
  case _ =>
    refine completes_of_exec (exec_emulatedAccess ht) ?_
    rw [State.onChip_chip, serveEmu_read he hm hw]
    refine ⟨rfl, ?_, rfl, rfl⟩
    have hsame : ({ s.chip with acc := { s.chip.acc with emuWait := es } } : Chip) = s.chip.withWaiting es := rfl
    rw [hsame, readNow_withWaiting]
    rfl
  case _ =>
    refine completes_of_exec (exec_emulatedAccessTimeout ht hlate) ?_
    rw [State.onChip_chip, dropEmu_one he hm hd]
    have hcount : ((s.chip.withWaiting []).count R.PCU_EMU_STATUS_DROPPED 1).rd R.PCU_EMU_STATUS_DROPPED
        = min R.PCU_EMU_STATUS_DROPPED.top (s.chip.rd R.PCU_EMU_STATUS_DROPPED + 1) := rd_count_self _ 1 (by decide) (by decide)
    have hwords : regsSameBut s.chip ((s.chip.withWaiting []).count R.PCU_EMU_STATUS_DROPPED 1) [R.PCU_EMU_STATUS] :=
      count_words (s.chip.withWaiting []) R.PCU_EMU_STATUS_DROPPED 1
    cases e.isWrite with
    | true => exact ⟨rfl, fun h => absurd h (by decide), hcount, hwords, rfl, rfl⟩
    | false => exact ⟨rfl, fun _ => rfl, hcount, regsSameBut_of_regs hwords rfl, rfl, rfl⟩
  case _ =>
    refine completes_of_exec (exec_inboundDma r 1023 a true data s (by decide)) ?_
    rw [State.onChip_chip, show (1023 : Fin 1024).val = 1023 from rfl, show (4 : Fin 4097).val = 4 from rfl, inbound_imsic _ hen hstop ha hf]
    refine ⟨?_, rfl, rfl, rfl, rfl⟩
    rw [Chip.onHio_hio]
    dsimp only
    split
    · next h => exact List.contains_iff_mem.mp h
    · exact List.mem_append_right _ (List.mem_singleton.mpr rfl)
  case _ =>
    refine completes_of_exec (exec_inboundDma r w a isWrite data s hn.ne') ?_
    rw [State.onChip_chip, inbound_unsupported _ _ _ _ _ h]
    exact ⟨rfl, rfl, rfl⟩
  case _ =>
    refine completes_of_exec (t := s.onChip (fun c => c.dmaFault r.val a.toNat)) ?_ ⟨rfl, rfl, rfl⟩
    show Host.Outcome.next (s.onChip _) = _
    simp only [State.onChip, hen, if_true]
  case _ =>
    refine completes_of_exec (exec_inboundDma r 0 a true data s hn.ne') ⟨⟨rfl, rfl⟩, ?_⟩
    have hlen' : (data.map BitVec.toNat).length = n.val := by rw [List.length_map, hlen]
    rw [State.onChip_chip, show (0 : Fin 1024).val = 0 from rfl, inbound_request true _ hen hstop hlt hn hfit, padTo_of_length hlen', List.take_of_length_le hlen'.le]
    rfl
  case _ =>
    refine completes_of_exec (exec_inboundDma r 0 a false [] s hn.ne') ⟨⟨rfl, rfl⟩, ?_⟩
    rw [State.onChip_chip, show (0 : Fin 1024).val = 0 from rfl, inbound_request false _ hen hstop hlt hn hfit]
    rfl

end Sys2Proof.Machine
end

section
/-! The queue of waiting commands: no operation of the machine changes it. One lemma for each operation on the whole state, in the order of the model. -/

namespace Sys2Proof.Machine

/-- What every step of a loop leaves of the queue, the loop leaves. -/
theorem foldl_pending {α : Type} {f : State → α → State} (hf : ∀ s a, (f s a).pending = s.pending) : ∀ (l : List α) (s : State), (l.foldl f s).pending = s.pending
  | [], _ => rfl
  | a :: l, s => (foldl_pending hf l (f s a)).trans (hf s a)

/-! Runs and links. -/

@[simp] theorem State.landBlocks_pending (s : State) (d : DstRun) (g : Nat) (blocks : List (List Nat)) : (s.landBlocks d g blocks).pending = s.pending := rfl

@[simp] theorem State.landGroup_pending (s : State) (d : DstRun) (g : Nat) (blocks : List (List Nat)) : (s.landGroup d g blocks).pending = s.pending := by
  unfold State.landGroup
  dsimp only
  split
  · rfl
  · split <;> rfl

@[simp] theorem State.takeRun_pending (s : State) (key : Nat × Nat × Nat) (f : Frame) : (s.takeRun key f).pending = s.pending := by
  unfold State.takeRun
  dsimp only
  repeat' split
  all_goals simp

@[simp] theorem State.takeEarly_pending (s : State) (e : Nat) : (s.takeEarly e).pending = s.pending := by
  unfold State.takeEarly
  exact foldl_pending (fun s (x : (Nat × Nat × Nat) × Frame) => s.takeRun_pending x.1 x.2) _ _

@[simp] theorem State.accept_pending (s : State) (key : Nat × Nat × Nat) (f : Frame) : (s.accept key f).pending = s.pending := by
  unfold State.accept
  dsimp only
  repeat' split
  all_goals simp

@[simp] theorem State.receiveFrame_pending (s : State) (key : Nat × Nat × Nat) (f : Frame) (pos : Nat) (words : List (List Nat)) :
    (s.receiveFrame key f pos words).pending = s.pending := by
  unfold State.receiveFrame
  extract_lets
  split
  · rfl
  · split
    extract_lets
    repeat' split
    all_goals simp +zetaDelta

/-! Memory sites. -/

@[simp] theorem State.streamAnswer_pending (s : State) (site : Nat) (st : Stitch) : (s.streamAnswer site st).pending = s.pending := by
  unfold State.streamAnswer
  dsimp only
  repeat' split
  all_goals rfl

@[simp] theorem State.landReduce_pending (s : State) (site place ecc : Nat) (key : Stitch) (contribs : List (List Nat)) (held : List Stitch) (n : Nat) (short : Bool) :
    (s.landReduce site place ecc key contribs held n short).pending = s.pending := by
  unfold State.landReduce
  dsimp only
  split <;> rfl

@[simp] theorem State.doStitch_pending (s : State) (site ecc place : Nat) (st : Stitch) : (s.doStitch site ecc place st).pending = s.pending := by
  unfold State.doStitch
  extract_lets
  repeat' split
  all_goals rfl

@[simp] theorem State.tryAccess_pending (s : State) (site : Nat) (op : ParkedOp) : (s.tryAccess site op).pending = s.pending := by
  unfold State.tryAccess
  extract_lets
  cases op with
  | probe => rfl
  | stitch plane k ecc place st =>
    dsimp only
    split
    · rfl
    · rfl
    · exact State.doStitch_pending ..
  | landing place ecc p =>
    dsimp only
    split
    · rfl
    · exact State.landReduce_pending ..
  | slot place ecc d =>
    dsimp only
    split
    · rfl
    · split <;> exact State.landReduce_pending ..
  | group e n g t blocks =>
    dsimp only
    split
    · rfl
    · split
      · rfl
      · exact State.landBlocks_pending ..

@[simp] theorem State.resume_pending (s : State) : s.resume.pending = s.pending := by
  unfold State.resume
  exact foldl_pending (fun s (p : ParkedAccess) => s.tryAccess_pending p.site p.op) _ _

@[simp] theorem State.landAt_pending (s : State) (site : Nat) (key : Stitch) (held : List Stitch) (op : Nat → ParkedOp) : (s.landAt site key held op).pending = s.pending := by
  unfold State.landAt
  split <;> simp

@[simp] theorem State.landPartial_pending (s : State) (p : Partial) (ecc : Nat) : (s.landPartial p ecc).pending = s.pending := State.landAt_pending ..

@[simp] theorem State.landSlot_pending (s : State) (d : DetSlot) (ecc : Nat) : (s.landSlot d ecc).pending = s.pending := State.landAt_pending ..

@[simp] theorem State.detReduce_pending (s : State) (site ecc : Nat) (st : Stitch) : (s.detReduce site ecc st).pending = s.pending := by
  unfold State.detReduce
  extract_lets
  repeat' split
  all_goals simp +zetaDelta [apply_ite State.pending]

@[simp] theorem State.reduceIn_pending (s : State) (site ecc : Nat) (st : Stitch) : (s.reduceIn site ecc st).pending = s.pending := by
  unfold State.reduceIn
  extract_lets c u n expect alone start
  have alone_pending : ∀ s, (alone s).pending = s.pending := fun s => s.landAt_pending ..
  have start_pending : ∀ s, (start s).pending = s.pending := by
    intro s
    dsimp only [start]
    repeat' split
    all_goals simp [alone_pending]
  repeat' split
  all_goals simp [alone_pending, start_pending, apply_ite State.pending]

@[simp] theorem State.memoryOp_pending (s : State) (site plane k ecc : Nat) (st : Stitch) : (s.memoryOp site plane k ecc st).pending = s.pending := by
  unfold State.memoryOp
  extract_lets
  repeat' split
  all_goals simp +zetaDelta

@[simp] theorem State.flushUnit_pending (s : State) (u ecc : Nat) (hit : Partial → Bool) : (s.flushUnit u ecc hit).pending = s.pending := by
  unfold State.flushUnit
  split
  · rfl
  · exact foldl_pending (fun s (p : Partial × Nat) => s.landPartial_pending p.1 _) _ _

@[simp] theorem State.flushSlots_pending (s : State) (ecc : Nat) (hit : DetSlot → Bool) : (s.flushSlots ecc hit).pending = s.pending := by
  unfold State.flushSlots
  exact foldl_pending (fun s (d : DetSlot × Nat) => s.landSlot_pending d.1 _) _ _

@[simp] theorem State.recallOver_pending (s : State) (r : Recall) (keep : Bool) : (s.recallOver r keep).pending = s.pending := by
  unfold State.recallOver
  simp

@[simp] theorem State.recallAnswer_pending (s : State) (site : Nat) (st : Stitch) : (s.recallAnswer site st).pending = s.pending := by
  unfold State.recallAnswer
  dsimp only
  split
  · rfl
  · rw [State.recallOver_pending]
    split <;> rfl

/-! Commands. -/

@[simp] theorem State.viewWrite_pending (s : State) (t a : Nat) (bytes : List Nat) : (s.viewWrite t a bytes).pending = s.pending := rfl

theorem State.whenClear_pending {s : State} {t a n : Nat} {write : Bool} {k : State → State} (hk : (k s).pending = s.pending) : (s.whenClear t a n write k).pending = s.pending := by
  unfold State.whenClear
  split
  · rfl
  · exact hk

theorem State.begin_pending {s : State} {src : CmdSrc} {idx opcode : Nat} {k : State → Cmd → State} (hk : ∀ s x, (k s x).pending = s.pending) :
    (s.begin src idx opcode k).pending = s.pending := by
  unfold State.begin
  dsimp only
  repeat' split
  all_goals simp [hk]

@[simp] theorem State.atOnce_pending (s : State) (src : CmdSrc) (idx opcode : Nat) (k : Chip → Cmd → Chip × Nat × Nat × Nat) : (s.atOnce src idx opcode k).pending = s.pending :=
  State.begin_pending (fun _ _ => rfl)

@[simp] theorem State.writeStatus_pending (s : State) (src : CmdSrc) (idx : Nat) (record : List Nat) : (s.writeStatus src idx record).pending = s.pending := by
  unfold State.writeStatus
  split <;> simp

@[simp] theorem State.completeCmd_pending (s : State) (x : Cmd) (status r0 r1 : Nat) : (s.completeCmd x status r0 r1).pending = s.pending := by
  unfold State.completeCmd
  extract_lets
  split
  · rfl
  · exact State.whenClear_pending (State.writeStatus_pending ..)

@[simp] theorem State.noticeIn_pending (s : State) (st : Stitch) : (s.noticeIn st).pending = s.pending := by
  unfold State.noticeIn
  dsimp only
  repeat' split
  all_goals rfl

@[simp] theorem State.placeBlock_pending (s : State) (l : Launch) : (s.placeBlock l).pending = s.pending := by
  unfold State.placeBlock
  dsimp only
  repeat' split
  all_goals rfl

/-! Threads. -/

@[simp] theorem State.raise_pending (s : State) (i : Issue) (cause addr : Nat) : (s.raise i cause addr).pending = s.pending := rfl

@[simp] theorem State.putThread_pending (s : State) (i : Issue) (t : Thread) : (s.putThread i t).pending = s.pending := rfl

theorem State.issue_pending {s : State} {d k slot tid : Nat} {f : State → Issue → State} (hf : ∀ s i, (f s i).pending = s.pending) : (s.issue d k slot tid f).pending = s.pending := by
  unfold State.issue
  dsimp only
  repeat' split
  all_goals simp [hf]

@[simp] theorem State.farAccess_pending (s : State) (i : Issue) (t : Thread) (g opcode n : Nat) (bytes : List Nat) (opspec : Nat) (kind : FarKind) (wait : Bool) :
    (s.farAccess i t g opcode n bytes opspec kind wait).pending = s.pending := rfl

@[simp] theorem State.threadLoad_pending (s : State) (i : Issue) (a n : Nat) (kind : FarKind) (put : Thread → Nat → Thread) : (s.threadLoad i a n kind put).pending = s.pending := by
  unfold State.threadLoad
  repeat' split
  all_goals rfl

@[simp] theorem State.threadStore_pending (s : State) (i : Issue) (a n v : Nat) : (s.threadStore i a n v).pending = s.pending := by
  unfold State.threadStore
  repeat' split
  all_goals rfl

@[simp] theorem State.threadAmo_pending (s : State) (i : Issue) (fn rd a w x swap : Nat) : (s.threadAmo i fn rd a w x swap).pending = s.pending := by
  unfold State.threadAmo
  dsimp only
  repeat' split
  all_goals rfl

@[simp] theorem State.sop_pending (s : State) (die : Fin 8) (core : Fin 136) (slot : Fin 64) (tid : Fin 2048) (rd rs1 : Fin 32) (fn flags : Nat) (args : Thread → Nat × Nat) :
    (s.sop die core slot tid rd rs1 fn flags args).pending = s.pending :=
  State.issue_pending (fun _ _ => rfl)

@[simp] theorem State.dpInstr_pending (s : State) (die : Fin 8) (core : Fin 136) (slot : Fin 64) (tid : Fin 2048) (pairs : List Nat) (rounds : Bool)
    (f : Rm → Thread → Thread × FFlags) : (s.dpInstr die core slot tid pairs rounds f).pending = s.pending := by
  refine State.issue_pending (fun s i => ?_)
  generalize (if rounds then i.t.dynRm else some .rne) = rm
  cases rm with
  | none => rfl
  | some rm => dsimp only; split <;> rfl

@[simp] theorem State.jump_pending (s : State) (i : Issue) (t : Thread) (target : Nat) : (s.jump i t target).pending = s.pending := by
  unfold State.jump
  split <;> rfl

@[simp] theorem State.system_pending (s : State) (i : Issue) (w : Nat) : (s.system i w).pending = s.pending := by
  unfold State.system
  extract_lets
  repeat' split
  all_goals rfl

@[simp] theorem State.riscv_pending (s : State) (i : Issue) (w : Nat) : (s.riscv i w).pending = s.pending := by
  unfold State.riscv
  extract_lets
  repeat' split
  all_goals simp +zetaDelta

/-! Engines. -/

@[simp] theorem State.putScr_pending (s : State) (d k a : Nat) (bs : List Nat) : (s.putScr d k a bs).pending = s.pending := rfl

theorem State.engineOp_pending {s : State} {d k q opc : Nat} {body : State → Desc → Nat} {run : State → Desc → State} (hrun : ∀ s x, (run s x).pending = s.pending) :
    (s.engineOp d k q opc body run).pending = s.pending := by
  unfold State.engineOp
  dsimp only
  repeat' split
  all_goals simp [hrun]

@[simp] theorem State.sfeOut_pending (s : State) (d k : Nat) (x : Desc) (l : List Nat) : (s.sfeOut d k x l).pending = s.pending := rfl

@[simp] theorem State.sfe_pending (s : State) (die : Fin 8) (core : Fin 136) (opc : Nat) : (s.sfe die core opc).pending = s.pending := State.engineOp_pending (fun _ _ => rfl)

@[simp] theorem State.putAux_pending (s : State) (d k : Nat) (x : Desc) (l : List Nat) : (s.putAux d k x l).pending = s.pending := rfl

@[simp] theorem State.moverSend_pending (s : State) (m : Mover) (f : Xfer) (top : Nat) (st : Stitch) : (s.moverSend m f top st).1.pending = s.pending := rfl

@[simp] theorem State.moverFar_pending (s : State) (m : Mover) (f : Xfer) (g opcode n : Nat) (bytes : List Nat) (opspec : Nat) (counted : Bool) :
    (s.moverFar m f g opcode n bytes opspec counted).1.pending = s.pending := rfl

@[simp] theorem State.placeAtomic_pending (s : State) (p fn w x swap : Nat) : (s.placeAtomic p fn w x swap).1.pending = s.pending := rfl

@[simp] theorem State.atomicResult_pending (s : State) (m : Mover) (got : List Nat) (old : Nat) : (s.atomicResult m got old).pending = s.pending := by
  unfold State.atomicResult
  dsimp only
  split <;> rfl

@[simp] theorem State.writePart_pending (s : State) (m : Mover) (f : Xfer) : (s.writePart m f).1.pending = s.pending := by
  unfold State.writePart
  extract_lets
  repeat' split
  all_goals simp +zetaDelta

@[simp] theorem State.runPart_pending (s : State) (m : Mover) (f : Xfer) : (s.runPart m f).1.pending = s.pending := by
  unfold State.runPart
  dsimp only
  repeat' split
  all_goals rfl

@[simp] theorem State.partGo_pending (s : State) (m : Mover) (f : Xfer) (stitches runs : Nat) : (s.partGo m f stitches runs).1.pending = s.pending := by
  unfold State.partGo
  dsimp only
  repeat' split
  all_goals simp

@[simp] theorem State.partAnswer_pending (s : State) (m : Mover) (f : Xfer) (d : Completion) : (s.partAnswer m f d).1.pending = s.pending := by
  unfold State.partAnswer
  dsimp only
  repeat' split
  all_goals simp

@[simp] theorem State.partStep_pending (s : State) (m : Mover) (f : Xfer) (stitches runs released : Nat) : (s.partStep m f stitches runs released).1.pending = s.pending := by
  unfold State.partStep
  cases f.flight with
  | none => dsimp only; split <;> simp
  | some tag =>
    dsimp only
    split
    · rfl
    · next d _ =>
      have answered := fun s : State => s.partAnswer_pending m f d
      split
      · next h => rw [State.partGo_pending, ← congrArg (fun r => r.1.pending) h]; exact answered _
      · next h => rw [← congrArg (fun r => r.1.pending) h]; exact answered _

@[simp] theorem State.partsStep_pending (m : Mover) (released : Nat) : ∀ (l : List Xfer) (s : State) (stitches runs : Nat), (s.partsStep m released l stitches runs).1.pending = s.pending
  | [], _, _, _ => rfl
  | f :: fs, s, stitches, runs => by
    unfold State.partsStep
    dsimp only
    split <;> exact (State.partsStep_pending m released fs ..).trans (s.partStep_pending m f stitches runs released)

@[simp] theorem State.moverStep_pending (s : State) (d k q ticket : Nat) : (s.moverStep d k q ticket).pending = s.pending := by
  unfold State.moverStep
  split
  · rfl
  · dsimp only
    split <;> exact State.partsStep_pending ..

@[simp] theorem State.beginWork_pending (s : State) (d k q ticket : Nat) (work : List Xfer) (final : Nat) : (s.beginWork d k q ticket work final).pending = s.pending :=
  State.moverStep_pending ..

@[simp] theorem State.mmaRun_pending (s : State) (d k : Nat) (x : Desc) (a : MmaA) (cycles skipped : Nat) : (s.mmaRun d k x a cycles skipped).pending = s.pending := rfl

@[simp] theorem State.encodeTiles_pending (d k : Nat) (x : Desc) : ∀ (l : List Nat) (s : State) (off p w n : Nat), (s.encodeTiles d k x l off p w n).1.pending = s.pending
  | [], _, _, _, _, _ => rfl
  | t :: ts, s, off, p, w, n => by
    unfold State.encodeTiles
    extract_lets f tr tc segs scales r
    split
    · rfl
    · exact State.encodeTiles_pending d k x ts ..

/-! Launches, partitions and reports. -/

@[simp] theorem State.startLaunch_pending (s : State) (x : Cmd) (cores : List Nat) (windows : List (Nat × Nat)) : (s.startLaunch x cores windows).pending = s.pending := by
  unfold State.startLaunch
  refine foldl_pending (fun s _ => ?_) _ _
  split <;> simp

theorem State.partCmd_pending {s : State} {src : CmdSrc} {idx opcode : Nat} {own zero : Bool} {states : List Nat} {tenant : Cmd → Nat} {k : State → Cmd → Nat → State}
    (hk : ∀ s x t, (k s x t).pending = s.pending) : (s.partCmd src idx opcode own zero states tenant k).pending = s.pending := by
  refine State.begin_pending (fun s x => ?_)
  extract_lets t no
  split
  · rfl
  · split
    · rfl
    · split
      · rfl
      · split
        · rfl
        · exact hk s x t

theorem State.atRow_pending {s : State} {x : Cmd} {k : State → State} (hk : (k s).pending = s.pending) : (s.atRow x k).pending = s.pending := by
  unfold State.atRow
  split
  · exact hk
  · rfl

@[simp] theorem State.createPart_pending (s : State) (t : Nat) (r : Creation) (frames srams : List Nat) (base : Nat) : (s.createPart t r frames srams base).pending = s.pending := rfl

@[simp] theorem State.ringReport_pending (s : State) (t : Nat) (r : Report) : (s.ringReport t r).pending = s.pending := by
  unfold State.ringReport
  extract_lets _ c size n a booked written sync
  have written_pending : written.pending = s.pending := by
    dsimp only [written]
    split <;> rfl
  split
  · rfl
  · split
    · rfl
    · split <;> exact written_pending

@[simp] theorem State.deliverReport_pending (s : State) : s.deliverReport.pending = s.pending := by
  unfold State.deliverReport
  split
  · rfl
  · split
    · rfl
    · split
      · rfl
      · exact foldl_pending (fun s t => s.ringReport_pending t _) _ _

@[simp] theorem State.deliverReports_pending (s : State) : s.deliverReports.pending = s.pending := foldl_pending (fun s _ => s.deliverReport_pending) _ _

@[simp] theorem State.combineOff_pending (s : State) (ecc : Nat) : (s.combineOff ecc).pending = s.pending := by
  unfold State.combineOff
  split
  · rfl
  · exact foldl_pending (fun s u => s.flushUnit_pending u ecc _) _ _

/-! Losses and cast-on. -/

@[simp] theorem State.clockLoss_pending (s : State) : s.clockLoss.pending = s.pending := rfl

@[simp] theorem State.powerFail_pending (s : State) (b : Bool) : (s.powerFail b).pending = s.pending := rfl

@[simp] theorem State.critical_pending (s : State) (cause z i reading : Nat) (full : Bool) : (s.critical cause z i reading full).pending = s.pending := by
  unfold State.critical
  repeat' split
  all_goals rfl

@[simp] theorem State.castReset_pending (s : State) (warm : Bool) : (s.castReset warm).pending = s.pending := rfl

@[simp] theorem State.castProcessors_pending (s : State) (o : CastOutcome) : (s.castProcessors o).1.pending = s.pending := rfl

theorem State.castStep_pending {s t : State} {n : Nat} {o : CastOutcome} {b : Bool} (h : s.castStep n o = some (t, b)) : t.pending = s.pending := by
  unfold State.castStep at h
  dsimp only at h
  split at h
  case h_9 => exact (congrArg (fun r => r.1.pending) (Option.some.inj h)).symm
  all_goals (repeat' split at h)
  all_goals cases h
  all_goals rfl

@[simp] theorem State.castBegin_pending (s : State) : s.castBegin.pending = s.pending := rfl

/-! Arrivals. -/

@[simp] theorem State.runOpenIn_pending (s : State) (site plane k : Nat) (st : Stitch) : (s.runOpenIn site plane k st).pending = s.pending := by
  unfold State.runOpenIn
  extract_lets
  repeat' split
  all_goals simp +zetaDelta

@[simp] theorem State.ctrlIn_pending (s : State) (st : Stitch) : (s.ctrlIn st).pending = s.pending := by
  unfold State.ctrlIn
  dsimp only
  repeat' split
  all_goals simp

@[simp] theorem State.deliver_pending (s : State) (site plane k ecc : Nat) (st : Stitch) : (s.deliver site plane k ecc st).pending = s.pending := by
  unfold State.deliver
  dsimp only
  repeat' split
  all_goals simp

@[simp] theorem State.arrival_pending (s : State) (site plane k ecc : Nat) (st : Stitch) : (s.arrival site plane k ecc st).pending = s.pending := by
  unfold State.arrival
  extract_lets
  repeat' split
  all_goals simp +zetaDelta

@[simp] theorem State.answerIn_pending (s : State) (site : Nat) (st : Stitch) : (s.answerIn site st).pending = s.pending := by
  unfold State.answerIn
  dsimp only
  repeat' split
  all_goals simp

@[simp] theorem State.responseArrival_pending (s : State) (site plane k : Nat) (st : Stitch) : (s.responseArrival site plane k st).pending = s.pending := by
  unfold State.responseArrival
  dsimp only
  repeat' split
  all_goals simp

theorem State.takeArrived_pending {s : State} {site plane k : Nat} {st : Stitch} {f : State → State} (hf : ∀ s, (f s).pending = s.pending) :
    (s.takeArrived site plane k st f).pending = s.pending := by
  unfold State.takeArrived
  dsimp only
  split
  · exact hf _
  · rfl

end Sys2Proof.Machine
end

section
/-! Every command answers a next state that keeps the queue of waiting commands. -/

namespace Sys2Proof.Machine

/-- The result of a command is a next state with the queue of `s`. -/
def QueueKept (s : State) (r : Result) : Prop := ∃ t, r = .next t ∧ t.pending = s.pending

theorem queueKept_next {s t : State} (h : t.pending = s.pending) : QueueKept s (.next t) := ⟨t, rfl, h⟩

/-- A command that has one effect under a condition and another, or none, without it. -/
theorem queueKept_ite {c : Prop} [Decidable c] {s t u : State} (ht : t.pending = s.pending) (hu : u.pending = s.pending) : QueueKept s (.next (if c then t else u)) :=
  queueKept_next ((apply_ite State.pending c t u).trans (by rw [ht, hu, ite_self]))

/-! The commands whose effect is more than one operation on the package. -/

theorem streamResult_queueKept (site : Fin 24) (node : Fin 4096) (tenant : Fin 16) (seq : BitVec 16) (s : State) : QueueKept s (execStreamResult site node tenant seq s) := by
  refine queueKept_next ?_
  split
  · split
    · split <;> rfl
    · rfl
  · rfl

theorem recallTimeout_queueKept (site : Fin 24) (die : Fin 2) (line : BitVec 46) (s : State) : QueueKept s (execRecallTimeout site die line s) := by
  refine queueKept_next ?_
  split
  · rfl
  · split
    · exact (State.onChip_pending ..).trans (State.recallOver_pending ..)
    · rfl

theorem commandComplete_queueKept (src : CmdSrc) (idx : BitVec 16) (s : State) : QueueKept s (execCommandComplete src idx s) := by
  refine queueKept_next ?_
  split
  · rfl
  · split
    · exact State.completeCmd_pending ..
    · exact State.completeCmd_pending ..
    · split
      · split
        · exact State.completeCmd_pending ..
        · rfl
      · split
        · exact State.completeCmd_pending ..
        · rfl

theorem queueTailWrite_queueKept (req : Requester) (src : CmdSrc) (v : BitVec 32) (s : State) : QueueKept s (execQueueTailWrite req src v s) := by
  refine queueKept_next ?_
  split <;> rfl

theorem packetFetch_queueKept (src : CmdSrc) (s : State) : QueueKept s (execPacketFetch src s) := by
  refine queueKept_next ?_
  extract_lets
  split
  · split
    · exact State.whenClear_pending (State.writeStatus_pending ..)
    · exact State.whenClear_pending rfl
  · rfl

theorem redCtxFlush_queueKept (src : CmdSrc) (idx : BitVec 16) (s : State) : QueueKept s (execRedCtxFlush src idx s) := by
  refine queueKept_next (State.begin_pending (fun s x => ?_))
  extract_lets n
  split
  · rw [State.flushSlots_pending]
    exact foldl_pending (fun s (u : Nat) => s.flushUnit_pending u 0 _) _ _
  · rfl

/-- A command that first reads its block of memory: refused, waiting for the block or carried out. -/
theorem fmSend_queueKept (src : CmdSrc) (idx : BitVec 16) (s : State) : QueueKept s (execFmSend src idx s) := by
  refine queueKept_next (State.begin_pending (fun s x => ?_))
  extract_lets
  split
  · rfl
  · split
    · rfl
    · split <;> rfl

theorem blockPlace_queueKept (src : CmdSrc) (idx : BitVec 16) (s : State) : QueueKept s (execBlockPlace src idx s) := by
  refine queueKept_next ?_
  split <;> simp

theorem epush_queueKept (die : Fin 8) (core : Fin 136) (slot : Fin 64) (tid : Fin 2048) (rd rs1 rs2 : Fin 32) (s : State) :
    QueueKept s (execEpush die core slot tid rd rs1 rs2 s) := by
  refine queueKept_next (State.issue_pending (fun s i => ?_))
  extract_lets
  split
  · rfl
  · split <;> rfl

theorem ewait_queueKept (die : Fin 8) (core : Fin 136) (slot : Fin 64) (tid : Fin 2048) (rd rs1 rs2 : Fin 32) (s : State) :
    QueueKept s (execEwait die core slot tid rd rs1 rs2 s) := by
  refine queueKept_next (State.issue_pending (fun s i => ?_))
  extract_lets
  split <;> exact State.putThread_pending ..

theorem amoW_queueKept (die : Fin 8) (core : Fin 136) (slot : Fin 64) (tid : Fin 2048) (fn rd rs1 rs2 : Fin 32) (s : State) :
    QueueKept s (execAmoW die core slot tid fn rd rs1 rs2 s) := by
  refine queueKept_next (State.issue_pending (fun s i => ?_))
  split <;> simp

theorem amoD_queueKept (die : Fin 8) (core : Fin 136) (slot : Fin 64) (tid : Fin 2048) (fn rd rs1 rs2 : Fin 32) (s : State) :
    QueueKept s (execAmoD die core slot tid fn rd rs1 rs2 s) := by
  refine queueKept_next (State.issue_pending (fun s i => ?_))
  split <;> simp

theorem descriptorComplete_queueKept (die : Fin 8) (core : Fin 136) (q : Fin 8) (s : State) : QueueKept s (execDescriptorComplete die core q s) := by
  refine queueKept_next ?_
  split
  · rfl
  · split
    · rfl
    · split
      · split <;> rfl
      · split
        · extract_lets moved
          have moved_pending : moved.pending = s.pending := by
            dsimp only [moved]
            split <;> simp
          split
          · split <;> exact moved_pending
          · exact moved_pending
        · split <;> rfl

theorem mma_queueKept (die : Fin 8) (core : Fin 136) (s : State) : QueueKept s (execMma die core s) := by
  refine queueKept_next ?_
  split
  · rfl
  · refine State.engineOp_pending (fun s x => ?_)
    extract_lets
    split
    · split <;> rfl
    · rfl

theorem accStore_queueKept (die : Fin 8) (core : Fin 136) (s : State) : QueueKept s (execAccStore die core s) := by
  refine queueKept_next ?_
  split
  · rfl
  · refine State.engineOp_pending (fun s x => ?_)
    refine (foldl_pending (fun s p => ?_) _ _ : _ = _)
    rfl

theorem encode_queueKept (die : Fin 8) (core : Fin 136) (s : State) : QueueKept s (execEncode die core s) := by
  refine queueKept_next (State.engineOp_pending (fun s x => ?_))
  have tiles := State.encodeTiles_pending die core x (List.range (x.speRows * x.speCols)) s 0 0 0 0
  split
  next h =>
    rw [h] at tiles
    split <;> rw [State.onChip_pending, State.putScr_pending] <;> exact tiles

theorem decode_queueKept (die : Fin 8) (core : Fin 136) (s : State) : QueueKept s (execDecode die core s) := by
  refine queueKept_next (State.engineOp_pending (fun s x => ?_))
  extract_lets
  split
  · rfl
  · refine foldl_pending (fun s r => ?_) _ _
    split <;> rfl

theorem prune24_queueKept (die : Fin 8) (core : Fin 136) (s : State) : QueueKept s (execPrune24 die core s) := by
  refine queueKept_next (State.engineOp_pending (fun s x => ?_))
  refine foldl_pending (fun s i => ?_) _ _
  rfl

theorem expand24_queueKept (die : Fin 8) (core : Fin 136) (s : State) : QueueKept s (execExpand24 die core s) := by
  refine queueKept_next (State.engineOp_pending (fun s x => ?_))
  extract_lets
  split
  · rfl
  · refine foldl_pending (fun s r => ?_) _ _
    rfl

theorem route_queueKept (die : Fin 8) (core : Fin 136) (s : State) : QueueKept s (execRoute die core s) := by
  refine queueKept_next (State.engineOp_pending (fun s x => ?_))
  extract_lets
  split
  extract_lets _ _ _ _ _ _ entered listed gathered counted totalled
  have listed_pending : listed.pending = s.pending := by
    dsimp only [listed]
    split
    · rfl
    · refine foldl_pending (fun s r => ?_) _ _
      rfl
  have gathered_pending : gathered.pending = s.pending := by
    dsimp only [gathered]
    split
    · exact listed_pending
    · exact (State.putScr_pending ..).trans listed_pending
  rw [State.onChip_pending, State.putScr_pending, State.putScr_pending]
  exact gathered_pending

theorem launch_queueKept (src : CmdSrc) (idx : BitVec 16) (s : State) : QueueKept s (execLaunch src idx s) := by
  refine queueKept_next (State.begin_pending (fun s x => ?_))
  extract_lets
  split
  · split
    · rfl
    · split
      · exact State.startLaunch_pending ..
      · split
        · rfl
        · split
          · rfl
          · exact State.startLaunch_pending ..
  · rfl

theorem dma_queueKept (src : CmdSrc) (idx : BitVec 16) (s : State) : QueueKept s (execDma src idx s) := by
  unfold execDma
  extract_lets d full
  refine queueKept_next ?_
  split
  · rfl
  · exact State.begin_pending (fun _ _ => rfl)

theorem partCreate_queueKept (src : CmdSrc) (idx : BitVec 16) (s : State) : QueueKept s (execPartCreate src idx s) := by
  refine queueKept_next (State.partCmd_pending (fun s x t => ?_))
  extract_lets
  split
  · rfl
  · split
    · rfl
    · split
      · rfl
      · dsimp only
        split
        · rfl
        · split
          · rfl
          · exact State.atRow_pending rfl

theorem partStart_queueKept (src : CmdSrc) (idx : BitVec 16) (s : State) : QueueKept s (execPartStart src idx s) := by
  refine queueKept_next (State.partCmd_pending (fun s x t => ?_))
  extract_lets
  split
  · rfl
  · split
    · rfl
    · exact State.atRow_pending rfl

theorem partDestroy_queueKept (src : CmdSrc) (idx : BitVec 16) (s : State) : QueueKept s (execPartDestroy src idx s) := by
  refine queueKept_next (State.partCmd_pending (fun s x t => ?_))
  split
  · rfl
  · exact State.atRow_pending (State.onChip_pending ..)

theorem partJoin_queueKept (src : CmdSrc) (idx : BitVec 16) (s : State) : QueueKept s (execPartJoin src idx s) := by
  refine queueKept_next (State.partCmd_pending (fun s x t => ?_))
  extract_lets
  split
  · rfl
  · split
    · rfl
    · split
      · rfl
      · split
        · rfl
        · split
          · rfl
          · split <;> rfl

theorem digestComplete_queueKept (die : Fin 8) (s : State) : QueueKept s (execDigestComplete die s) := by
  refine queueKept_next ?_
  extract_lets
  split
  · rfl
  · extract_lets
    split
    · rfl
    · split <;> rfl

theorem fabricPllLoss_queueKept (s : State) : QueueKept s (execFabricPllLoss s) := by
  refine queueKept_next ?_
  split
  · rfl
  · extract_lets
    split <;> rfl

theorem fwStage_queueKept (src : CmdSrc) (idx : BitVec 16) (s : State) : QueueKept s (execFwStage src idx s) := by
  refine queueKept_next (State.begin_pending (fun s x => ?_))
  extract_lets
  split
  · rfl
  · split
    · rfl
    · split <;> rfl

theorem sensorBroken_queueKept (z : Fin 144) (sensor : Fin 64) (reading : BitVec 16) (full : Bool) (s : State) : QueueKept s (execSensorBroken z sensor reading full s) := by
  refine queueKept_next ?_
  split
  · rfl
  · extract_lets
    split
    · exact State.critical_pending ..
    · rfl

theorem secKeySet_queueKept (src : CmdSrc) (idx : BitVec 16) (s : State) : QueueKept s (execSecKeySet src idx s) := by
  refine queueKept_next (State.begin_pending (fun s x => ?_))
  extract_lets
  split
  · rfl
  · split
    · rfl
    · split
      · rfl
      · split <;> rfl

theorem castOn_queueKept (step : Fin 13) (o : CastOutcome) (s : State) : QueueKept s (execCastOn step o s) := by
  refine queueKept_next ?_
  extract_lets c n
  split
  · split <;> rfl
  · split
    · rfl
    · split
      · rfl
      · next h =>
        have kept := State.castStep_pending h
        exact kept
      · next h =>
        have kept := State.castStep_pending h
        exact kept

theorem pwrGoodRise_queueKept (addr : Fin 4) (long : Bool) (s : State) : QueueKept s (execPwrGoodRise addr long s) := by
  refine queueKept_next ?_
  extract_lets
  split
  · rfl
  · split <;> rfl

theorem pwrGoodFall_queueKept (s : State) : QueueKept s (execPwrGoodFall s) := by
  refine queueKept_next ?_
  split
  · rfl
  · split
    · rfl
    · dsimp only
      split <;> rfl

theorem pkgResetAssert_queueKept (s : State) : QueueKept s (execPkgResetAssert s) := by
  refine queueKept_next ?_
  extract_lets
  split <;> rfl

theorem vioLoss_queueKept (s : State) : QueueKept s (execVioLoss s) := by
  refine queueKept_next ?_
  extract_lets
  split <;> rfl

end Sys2Proof.Machine
end

section
/-! The statement about every command. -/

namespace Sys2Proof.Machine

theorem queueKept_onChip (s : State) (f : Chip → Chip) : QueueKept s (.next (s.onChip f)) := queueKept_next (s.onChip_pending f)

theorem queueKept_atOnce (s : State) (src : CmdSrc) (idx opcode : Nat) (k : Chip → Cmd → Chip × Nat × Nat × Nat) : QueueKept s (.next (s.atOnce src idx opcode k)) :=
  queueKept_next (s.atOnce_pending ..)

theorem queueKept_begin {s : State} {src : CmdSrc} {idx opcode : Nat} (f : Cmd → Chip → Chip) : QueueKept s (.next (s.begin src idx opcode (fun s x => s.onChip (f x)))) :=
  queueKept_next (State.begin_pending (fun s x => s.onChip_pending (f x)))

theorem queueKept_partCmd {s : State} {src : CmdSrc} {idx opcode : Nat} {own zero : Bool} {states : List Nat} {tenant : Cmd → Nat} (f : Cmd → Nat → Chip → Chip) :
    QueueKept s (.next (s.partCmd src idx opcode own zero states tenant (fun s x t => s.onChip (f x t)))) :=
  queueKept_next (State.partCmd_pending (fun s x t => s.onChip_pending (f x t)))

theorem queueKept_sop (s : State) (die : Fin 8) (core : Fin 136) (slot : Fin 64) (tid : Fin 2048) (rd rs1 : Fin 32) (fn flags : Nat) (args : Thread → Nat × Nat) :
    QueueKept s (.next (s.sop die core slot tid rd rs1 fn flags args)) :=
  queueKept_next (s.sop_pending ..)

theorem queueKept_dpInstr (s : State) (die : Fin 8) (core : Fin 136) (slot : Fin 64) (tid : Fin 2048) (pairs : List Nat) (rounds : Bool)
    (f : Rm → Thread → Thread × FFlags) : QueueKept s (.next (s.dpInstr die core slot tid pairs rounds f)) :=
  queueKept_next (s.dpInstr_pending ..)

theorem queueKept_sfe (s : State) (die : Fin 8) (core : Fin 136) (opc : Nat) : QueueKept s (.next (s.sfe die core opc)) := queueKept_next (s.sfe_pending ..)

/-- A command of the data movers, whose operation only begins its work. -/
theorem queueKept_mover {s : State} {d k q opc n : Nat} {body : State → Desc → Nat} (work : State → Desc → List Xfer) (final : State → Desc → Nat) :
    QueueKept s (.next (s.engineOp d k q opc body (fun s x => s.beginWork d k n x.ticket (work s x) (final s x)))) :=
  queueKept_next (State.engineOp_pending (fun s _ => s.beginWork_pending ..))

/-- What a thread instruction leaves of the queue, when what it does to its thread leaves it. -/
theorem queueKept_issue {s : State} {d k slot tid : Nat} {f : State → Issue → State} (hf : ∀ s i, (f s i).pending = s.pending) : QueueKept s (.next (s.issue d k slot tid f)) :=
  queueKept_next (State.issue_pending hf)

theorem exec_queueKept (i : Instr) (s : State) : QueueKept s (exec i s) := by
  cases i with
  | frameSend => exact queueKept_next rfl
  | frameReceive => exact queueKept_ite rfl (State.receiveFrame_pending ..)
  | streamResult => exact streamResult_queueKept ..
  | partialFlushTimeout => exact queueKept_next (State.flushUnit_pending ..)
  | detWaitTimeout => exact queueKept_next (State.flushSlots_pending ..)
  | recallResponse => exact queueKept_ite (State.recallAnswer_pending ..) rfl
  | recallTimeout => exact recallTimeout_queueKept ..
  | zeroingDone => exact queueKept_ite (State.resume_pending _) rfl
  | commandComplete => exact commandComplete_queueKept ..
  | queueTailWrite => exact queueTailWrite_queueKept ..
  | packetFetch => exact packetFetch_queueKept ..
  | cmdNop | getVersion | cqCreate | cqDestroy | syncAlloc | syncFree | signal | redCtxAlloc | redCtxFree | mcAlloc | mcFree | mcSet | mcClear | installSave | fwCommit
  | fwRatchet | pwrGet | pwrCap | pwrTarget | thmTripAck | thmGet => exact queueKept_atOnce ..
  | wait | bindOff | pkgReset | fwActivate => exact queueKept_begin _
  | redCtxFlush => exact redCtxFlush_queueKept ..
  | fmSend => exact fmSend_queueKept ..
  | launch => exact launch_queueKept ..
  | fwStage => exact fwStage_queueKept ..
  | secKeySet => exact secKeySet_queueKept ..
  | dma => exact dma_queueKept ..
  | partReset | partLeave | partFrog | partDigest | partFence => exact queueKept_partCmd _
  | partCreate => exact partCreate_queueKept ..
  | partStart => exact partStart_queueKept ..
  | partDestroy => exact partDestroy_queueKept ..
  | partJoin => exact partJoin_queueKept ..
  | noticeArrival => exact queueKept_next (State.whenClear_pending (State.noticeIn_pending ..))
  | blockPlace => exact blockPlace_queueKept ..
  | epush => exact epush_queueKept ..
  | ewait => exact ewait_queueKept ..
  | epoll | tbar | texit | fwset | fenceG => exact queueKept_issue (fun _ _ => rfl)
  | amoW => exact amoW_queueKept ..
  | amoD => exact amoD_queueKept ..
  | threadInstruction => exact queueKept_issue (fun s i => s.riscv_pending i _)
  | sopRead | sopAdd | sopSet | sopWait | sopArrive | sopAcquire | sopRelease | sopRenew => exact queueKept_sop ..
  | faddDp | fsubDp | fmulDp | fmacDp | fdivDp | fsqrtDp | fminDp | fmaxDp | fcvtSDp | fcvtDpS | fcvtDpW | fcvtWDp | feqDp | fltDp | fleDp => exact queueKept_dpInstr ..
  | sfeExp | sfeLn | sfeRecip | sfeRsqrt | sfeSigmoid | sfeTanh | sfeGelu => exact queueKept_sfe ..
  | sfeRowmax | sfeExpsum | sfeScale => exact queueKept_next (State.engineOp_pending (fun _ _ => rfl))
  | descriptorComplete => exact descriptorComplete_queueKept ..
  | gather | scatter | scatterAdd | dmeCopy | dmeReduce | dmeMcast | dmeStream | dmeFill | dmeAtomic => exact queueKept_mover _ _
  | mma => exact mma_queueKept ..
  | accLoad => exact queueKept_ite rfl (State.engineOp_pending (fun _ _ => rfl))
  | accStore => exact accStore_queueKept ..
  | encode => exact encode_queueKept ..
  | decode => exact decode_queueKept ..
  | prune24 => exact prune24_queueKept ..
  | expand24 => exact expand24_queueKept ..
  | route => exact route_queueKept ..
  | digestComplete => exact digestComplete_queueKept ..
  | fabricPllLoss => exact fabricPllLoss_queueKept ..
  | refclkLost => exact queueKept_ite s.clockLoss_pending rfl
  | powerFail => exact queueKept_ite (s.powerFail_pending true) rfl
  | criticalTrip => exact queueKept_ite rfl (State.critical_pending ..)
  | sensorBroken => exact sensorBroken_queueKept ..
  | castOn => exact castOn_queueKept ..
  | warmCastOn => exact queueKept_ite rfl ((apply_ite State.pending _ _ _).trans (ite_self _))
  | stitchArrival => exact queueKept_ite rfl (State.takeArrived_pending (fun s => s.arrival_pending ..))
  | answerArrival => exact queueKept_ite (State.takeArrived_pending (fun s => s.responseArrival_pending ..)) rfl
  | fillS | fillM | wb => exact queueKept_ite (State.takeArrived_pending (fun s => s.arrival_pending ..)) rfl
  | pwrGoodRise => exact pwrGoodRise_queueKept ..
  | pwrGoodFall => exact pwrGoodFall_queueKept ..
  | pkgResetAssert => exact pkgResetAssert_queueKept ..
  | vioLoss => exact vioLoss_queueKept ..
  | rowBoundary => exact queueKept_ite rfl ((State.deliverReports_pending _).trans (State.combineOff_pending ..))
  | _ => exact queueKept_onChip s _

/-- Settles O44: command by command; most change the package alone (`State.onChip`), the others go through the operations that keep the queue. -/
theorem everyCommandAnswersANextState : Obligations.EveryCommandAnswersANextState := exec_queueKept

end Sys2Proof.Machine
end

section
/-! What fencing a lane leaves alone. -/

namespace Sys2Proof.Machine

/-- Everything beside the lanes: the package with its lanes and its registers blanked, and the words of the registers below the lanes' blocks. -/
def Chip.besideLanes (c : Chip) : Chip × (Nat → Word) := ({ c with regs := [], lanes := {} }, fun o => if o < 0x2000000 then c.word o else 0)

theorem Chip.wr_besideLanes (c : Chip) {f : FRef} (v : Nat) (h : 0x2000000 ≤ f.off) : (c.wr f v).besideLanes = c.besideLanes := by
  refine Prod.ext rfl (funext fun o => ?_)
  dsimp only [Chip.besideLanes]
  split
  · exact word_wr_of_ne (by omega)
  · rfl

theorem Chip.patResult_besideLanes (c : Chip) (site status : Nat) : (c.patResult site status).besideLanes = c.besideLanes :=
  ((c.wr _ _).wr_besideLanes _ (by grind)).trans (c.wr_besideLanes _ (by grind))

theorem Chip.cancelInjection_besideLanes (c : Chip) (s p k : Nat) : (c.cancelInjection s p k).besideLanes = c.besideLanes := by
  unfold Chip.cancelInjection Chip.injResult
  split
  · rw [Chip.wr_besideLanes _ _ (by grind), Chip.wr_besideLanes _ _ (by grind)]
    rfl
  · rfl

theorem Chip.setLane_besideLanes (c : Chip) (s p k v : Nat) : (c.setLane s p k v).besideLanes = c.besideLanes := by
  unfold Chip.setLane
  extract_lets was d
  have noted : d.besideLanes = c.besideLanes := by unfold d; split <;> rfl
  rw [Chip.wr_besideLanes _ _ (by grind), ← noted]
  split
  · rfl
  · exact d.cancelInjection_besideLanes s p k

theorem Chip.clearBooking_besideLanes (c : Chip) (sites : List Nat) : (c.clearBooking sites).besideLanes = c.besideLanes :=
  each_keeps Chip.besideLanes (fun s _ c => ((c.wr _ _).wr_besideLanes _ (by grind)).trans (c.wr_besideLanes _ (by grind))) c

theorem Chip.runLeaves_besideLanes (c : Chip) (r : PatRun) : (c.runLeaves r).besideLanes = c.besideLanes := by
  unfold Chip.runLeaves
  split
  · exact c.clearBooking_besideLanes _
  · rfl

theorem Chip.endTests_besideLanes (c : Chip) (s p k status : Nat) : (c.endTests s p k status).besideLanes = c.besideLanes :=
  (Chip.cancelInjection_besideLanes ..).trans
    (each_keeps Chip.besideLanes (fun r _ c => ((c.runLeaves r).patResult_besideLanes s status).trans (c.runLeaves_besideLanes r)) _)

theorem Chip.fenceLane_besideLanes (c : Chip) (s p k code : Nat) : (c.fenceLane s p k code).besideLanes = c.besideLanes := by
  unfold Chip.fenceLane
  split
  · split
    · exact c.wr_besideLanes _ (by grind)
    · rfl
  · extract_lets d e
    have ended : d.besideLanes = c.besideLanes := by
      unfold d
      rw [Chip.endTests_besideLanes, Chip.wr_besideLanes _ _ (by grind), Chip.setLane_besideLanes]
    clear_value d
    split <;> exact ended

theorem opf_of_besideLanes {c d : Chip} (h : d.besideLanes = c.besideLanes) : d.opf = c.opf := congrArg (fun x => x.1.opf) h
theorem row_of_besideLanes {c d : Chip} (h : d.besideLanes = c.besideLanes) : d.row = c.row := congrArg (fun x => x.1.row) h
theorem cyc_of_besideLanes {c d : Chip} (h : d.besideLanes = c.besideLanes) : d.cyc = c.cyc := congrArg (fun x => x.1.cyc) h

theorem words_of_besideLanes {c d : Chip} (h : d.besideLanes = c.besideLanes) : ∀ o < 0x2000000, d.word o = c.word o := by
  intro o ho
  have same := congrFun (congrArg Prod.snd h) o
  simpa only [Chip.besideLanes, if_pos ho] using same

end Sys2Proof.Machine
end

section
/-! The sparing engine's commands (R47, R49, R61, R133). -/

namespace Sys2Proof.Machine

@[simp] theorem Chip.report_opf (c : Chip) (unit : Nat) (tenants : List Nat) (opclass opcode cause action : Nat) :
    (c.report unit tenants opclass opcode cause action).opf = c.opf := by
  unfold Chip.report
  dsimp only
  rw [Chip.event_opf]
  split <;> rfl

/-! The sides and spares of a site are in registers below the lanes' blocks. -/

section
variable {c d : Chip} (h : ∀ o < 0x2000000, d.word o = c.word o)
include h

theorem rd_of_words {f : FRef} (hf : f.off < 0x2000000) : d.rd f = c.rd f := by
  unfold Chip.rd
  rw [h _ hf]

theorem sideState_of_words {x : Side} (hs : x.site < 24) (hp : x.plane < 64) : d.sideState x = c.sideState x := by
  have below : R.SITE_PLANE_STATE x.site x.plane < 0x2000000 := by grind
  unfold Chip.sideState
  rw [rd_of_words h below, rd_of_words h below]

theorem sparesLit_of_words : d.sparesLit = c.sparesLit := by
  have mode : d.rd R.LSU_STATUS_MODE = c.rd R.LSU_STATUS_MODE := rd_of_words h (by decide)
  unfold Chip.sparesLit Chip.fallbackMode
  rw [mode]

omit h in
theorem sparesOf_lt : ∀ s < 24, ∀ p ∈ sparesOf s, p < 64 := by decide

theorem warmSpares_of_words {s : Nat} (hs : s < 24) (rx : Bool) : d.warmSpares s rx = c.warmSpares s rx := by
  have spares : d.sparesIn s rx 0 = c.sparesIn s rx 0 :=
    List.filter_congr (fun p hp => by rw [sideState_of_words h (x := ⟨s, p, rx⟩) hs (sparesOf_lt s hs p hp)])
  unfold Chip.warmSpares
  rw [sparesLit_of_words h, spares]

end

/-! A first fence books the side at fault. -/

/-- One lane at fault is no plane fault. -/
theorem planeFaulty_of_one {c : Chip} {f : FenceNote} (x : Side) (h : c.opf.fences = [f]) : c.planeFaulty x = false := by
  have few : (c.fencedInRow x).length ≤ 1 := by
    unfold Chip.fencedInRow
    rw [h, List.filter_singleton, Bool.cond_eq_ite]
    split <;> simp [List.eraseDups_cons]
  unfold Chip.planeFaulty
  exact decide_eq_false (by omega)

/-- With a warm spare left and nothing booked, a side on its own rings is booked (R49). -/
theorem book_first {c : Chip} {b : Booking} (hnone : c.opf.booked = []) (hauto : c.on R.OPF_CFG_AUTO_SPARE = true) (hown : c.sideState b.side = 0)
    (hwarm : c.warmSpares b.side.site b.side.rx ≠ []) : (c.book b).opf.booked = [b] := by
  have few : (c.rivals b.side).length < (c.warmSpares b.side.site b.side.rx).length + (c.testSpares b.side.site b.side.rx).length := by
    have := List.length_pos_iff.mpr hwarm
    simp only [Chip.rivals, hnone, List.filter_nil, List.length_nil]
    omega
  simp [Chip.book, hnone, hauto, hown, few, insertBooking]

/-- A fault of a fixed traffic lane in service whose transmit ring reports it books the transmit side of its plane (R47, R49). -/
theorem fenceOwn_booked {c : Chip} {s p k code : Nat} (hs : s < 24) (hp : p < 64) (hkind : Config.planeKind s p ≠ 0) (htraffic : trafficLane s p k = true)
    (hself : selfTest s p k = false) (hup : c.laneState s p k = lsUP) (hheld : c.fenceHeld s p k code = false) (hauto : c.on R.OPF_CFG_AUTO_SPARE = true)
    (hbooked : c.opf.booked = []) (hfences : c.opf.fences = []) (hguessed : c.opf.guessed = []) (hown : c.sideState ⟨s, p, false⟩ = 0)
    (hwarm : c.warmSpares s false ≠ []) :
    (c.fenceOwn s p k code true false).opf.booked = [⟨⟨s, p, false⟩, [(s, p, k)], [], c.cycles, false, c.boundaryAfter 64⟩] := by
  have beside := c.fenceLane_besideLanes s p k code
  have words := words_of_besideLanes beside
  unfold Chip.fenceOwn
  rw [if_neg (by simp [hheld, hup, hkind, lsUP, lsOFF]), if_neg (by rw [hup]; decide)]
  extract_lets trunk d tx rx before first far e whole1 side f whole guess unit g b
  have hopf : d.opf = c.opf := opf_of_besideLanes beside
  have hbefore : before = none := by simp [before, hopf, hguessed]
  have hfirst : first = tx := by simp [first, Chip.localize, hbefore]
  have hnote : e.opf.fences = [⟨(s, p, k), first, far, d.row⟩] := by simp [e, hopf, hfences]
  have hwhole1 : whole1 = false := by simp [whole1, planeFaulty_of_one _ hnote]
  have hside : side = tx := by simp [side, planeFaulty_of_one _ hnote, hfirst]
  have hwhole : whole = false := by simp [whole, hwhole1, hself]
  have hf : f = e := by simp [f, hwhole1]
  have hg : g.opf = e.opf ∧ g.regs = d.regs ∧ g.row = d.row ∧ g.cyc = d.cyc := by
    unfold g
    rw [hf]
    split <;> simp [e]
  obtain ⟨gopf, gregs, grow, gcyc⟩ := hg
  have gwords : ∀ o < 0x2000000, g.word o = c.word o := fun o ho => (word_congr gregs o).trans (words o ho)
  have hlane : (!trafficLane s p k && !whole) = false := by rw [htraffic]; rfl
  rw [if_neg (by rw [hlane]; decide), Chip.report_opf]
  have hguess : guess = false := by simp [guess]
  have hcycles : g.cycles = c.cycles := by
    simp only [Chip.cycles, grow, gcyc, d, row_of_besideLanes beside, cyc_of_besideLanes beside]
  have hafter : g.boundaryAfter 64 = c.boundaryAfter 64 := by
    simp only [Chip.boundaryAfter, grow, gcyc, d, row_of_besideLanes beside, cyc_of_besideLanes beside]
  have hb : b = g.book ⟨tx, [(s, p, k)], [], c.cycles, false, c.boundaryAfter 64⟩ := by
    simp only [b, hside, hguess, hwhole, hcycles, hafter, Bool.false_eq_true, if_false]
  rw [hb]
  refine book_first ?_ ?_ ?_ ?_
  · rw [gopf]
    simp [e, hopf, hbooked]
  · unfold Chip.on at hauto ⊢
    rw [rd_of_words gwords (by decide)]
    exact hauto
  · rw [sideState_of_words gwords hs hp]
    exact hown
  · rw [warmSpares_of_words gwords hs]
    exact hwarm

/-! The end of a change of rings. -/

/-- A loop of which no step changes the package changes nothing. -/
theorem each_fixed {α : Type} {c : Chip} {f : Chip → α → Chip} : ∀ {l : List α}, (∀ a ∈ l, f c a = c) → c.each l f = c
  | [], _ => rfl
  | a :: l, h => by
    have first : f c a = c := h a List.mem_cons_self
    calc c.each (a :: l) f = (f c a).each l f := rfl
      _ = c.each l f := by rw [first]
      _ = c := each_fixed (fun b hb => h b (List.mem_cons_of_mem a hb))

theorem reacquired_of_notChanging {c : Chip} {x : Side} (h : x ∉ c.opf.reacquiring) : c.reacquired x = c := by
  simp [Chip.reacquired, h]

/-- Of a side of which no lane holds, the end of the change is all that happens (R49). -/
theorem reacquired_of_noneHolding {c : Chip} {x : Side} (h : x ∈ c.opf.reacquiring) (hhold : ∀ l ∈ c.sideLanes x, c.laneState l.1 l.2.1 l.2.2 ≠ lsHOLD) :
    c.reacquired x = c.onOpf (fun o => { o with reacquiring := o.reacquiring.filter (fun y => y != x) }) := by
  unfold Chip.reacquired
  rw [if_pos (by simpa using h)]
  exact each_fixed (fun l hl => if_neg (fun holds => hhold l hl holds.1))

/-! Requests for test substitutions. -/

/-- An accepted write with a command bit adds one request, after those that wait, for the row at which it takes effect (R61; log entry 119). -/
theorem writeReg_substHook {c : Chip} {req : Requester} {site v : Nat} (hacc : writeAccepted c req (R.SITE_SUBST_REQ site)) (hbit : bitOf v 31 = true ∨ bitOf v 30 = true) :
    let d := c.writeReg req (R.SITE_SUBST_REQ site) v (substHook site v)
    d.opf.substReqs = c.opf.substReqs ++ [⟨site, bitOf v 31, bitOf v 30, ⟨site, fget v 5 0, bitOf v 16⟩, fget v 13 8, c.wRow⟩]
      ∧ d.xport = c.xport ∧ d.lanes = c.lanes := by
  obtain ⟨hj, hs, he⟩ := hacc
  obtain ⟨d, hd, hsame⟩ := writeReg_does (v := v) (f := fun c => if bitOf v 31 || bitOf v 30 then c.onOpf _ else c) hj hs he
  have hgo : (bitOf v 31 || bitOf v 30) = true := by simpa using hbit
  dsimp only
  rw [substHook, hd, if_pos hgo, ← wRow_of_sameButRegs hsame, hsame]
  exact ⟨rfl, rfl, rfl⟩

/-- Settles O4: the first fence by the sides' own state, which fencing a lane leaves alone; the others by what each command's operation does. -/
theorem sparingCommandsComplete : Obligations.SparingCommandsComplete := by
  refine ⟨fun l code s hkind htraffic hself hup hheld hauto hbooked hfences hguessed hown hwarm => ?_, fun sign s => ⟨_, rfl, rfl, rfl, rfl⟩,
    fun j l incoming code s => ⟨_, rfl, rfl, rfl, rfl⟩, fun site plane rx s hnot => ?_, fun site plane rx s hone hhold => ?_, fun req site v s hacc hbit => ?_⟩
  case _ =>
    refine ⟨_, rfl, ?_, rfl, rfl⟩
    have hfence : (s.chip.fenceSign ⟨l, code, true, false⟩) = s.chip.fenceOwn l.site l.plane l.k code true false := by
      unfold Chip.fenceSign Chip.fence
      exact if_neg (by rw [hkind]; decide)
    have hplane : l.plane.val < 64 := l.plane.isLt.trans (by decide)
    show (s.chip.fenceSign ⟨l, code, true, false⟩).opf.booked.map _ = _
    rw [hfence, fenceOwn_booked l.site.isLt hplane (by rw [hkind]; decide) htraffic hself hup hheld hauto hbooked hfences hguessed hown hwarm]
    rfl
  case _ =>
    show Host.Outcome.next (s.onChip _) = _
    simp only [State.onChip, reacquired_of_notChanging hnot]
  case _ =>
    refine completes_of_exec (t := s.onChip (fun c => c.reacquired ⟨site.val, plane.val, rx⟩)) rfl ?_
    rw [State.onChip_chip, reacquired_of_noneHolding (by simp [hone]) hhold]
    exact ⟨by simp [hone], rfl, rfl, rfl⟩
  case _ =>
    obtain ⟨hreqs, hxport, hlanes⟩ := writeReg_substHook hacc hbit
    exact ⟨⟨_, rfl, hreqs, hxport, hlanes, rfl, rfl⟩, ⟨_, rfl, hreqs, hxport, hlanes, rfl, rfl⟩⟩

end Sys2Proof.Machine
end

section
/-! What the fabric leaves alone when its lanes, runs and rings fail. One lemma for each operation, in the order of the model. -/

namespace Sys2Proof.Machine

/-- Everything beside the fabric: the package with the fabric's own records, events and all registers blanked, and the words of the registers below the fabric's blocks. -/
def Chip.besideFabric (c : Chip) : Chip × (Nat → Word) :=
  ({ c with regs := [], captured := [], captureLost := 0, drawn := 0, reports := [], opf := {}, lanes := {}, xport := {}, circ := {}, edge := {}, red := {}, tns := {} },
    fun o => if o < 0x700000 then c.word o else 0)

/-- The lanes are of the fabric. -/
theorem besideFabric_of_besideLanes {c d : Chip} (h : d.besideLanes = c.besideLanes) : d.besideFabric = c.besideFabric := by
  refine Prod.ext ?_ (funext fun o => ?_)
  · exact congrArg (fun x => ({ x.1 with captured := [], captureLost := 0, drawn := 0, reports := [], opf := {}, xport := {}, circ := {}, edge := {}, red := {}, tns := {} } : Chip)) h
  · dsimp only [Chip.besideFabric]
    split
    · exact words_of_besideLanes h o (by omega)
    · rfl

/-! Registers and events. -/

theorem Chip.wr_besideFabric (c : Chip) {f : FRef} (v : Nat) (h : 0x700000 ≤ f.off) : (c.wr f v).besideFabric = c.besideFabric := by
  refine Prod.ext rfl (funext fun o => ?_)
  dsimp only [Chip.besideFabric]
  split
  · exact word_wr_of_ne (by omega)
  · rfl

theorem Chip.count_besideFabric (c : Chip) {f : FRef} (n : Nat) (h : 0x700000 ≤ f.off) : (c.count f n).besideFabric = c.besideFabric := c.wr_besideFabric _ h

theorem Chip.drop_besideFabric (c : Chip) {f : FRef} (n : Nat) (h : 0x700000 ≤ f.off) : (c.drop f n).besideFabric = c.besideFabric := c.wr_besideFabric _ h

theorem Chip.event_besideFabric (c : Chip) (code : Nat) (t : Option Nat) (u : Nat) (a : List Nat) : (c.event code t u a).besideFabric = c.besideFabric := by
  unfold Chip.event
  split <;> rfl

theorem Chip.report_besideFabric (c : Chip) (unit : Nat) (tenants : List Nat) (opclass opcode cause action : Nat) :
    (c.report unit tenants opclass opcode cause action).besideFabric = c.besideFabric := by
  unfold Chip.report
  extract_lets measured r d e f
  have numbered : e.besideFabric = c.besideFabric := d.wr_besideFabric _ (by decide)
  rw [Chip.event_besideFabric, ← numbered]
  unfold f
  split
  · exact e.count_besideFabric _ (by grind)
  · rfl

theorem Chip.onLanes_besideFabric (c : Chip) (g : Lanes → Lanes) : (c.onLanes g).besideFabric = c.besideFabric := rfl

/-! Stitches and their answers. -/

theorem Chip.send_besideFabric (c : Chip) (site : Nat) (st : Stitch) : (c.send site st).besideFabric = c.besideFabric := by
  unfold Chip.send
  extract_lets st
  split
  · exact c.count_besideFabric _ (by decide)
  · split <;> rfl

theorem Chip.landCount_besideFabric (c : Chip) (site obj inc status : Nat) : (c.landCount site obj inc status).besideFabric = c.besideFabric := by
  unfold Chip.landCount
  extract_lets m mine new
  split
  · rfl
  · split
    · rfl
    · split <;> rfl

theorem Chip.outCounts_besideFabric (c : Chip) (site : Nat) : (c.outCounts site).besideFabric = c.besideFabric := by
  unfold Chip.outCounts
  split
  · exact ((c.wr _ _).wr_besideFabric _ (by grind)).trans (c.wr_besideFabric _ (by grind))
  · rfl

theorem Chip.countRefused_besideFabric (c : Chip) (site status : Nat) : (c.countRefused site status).besideFabric = c.besideFabric := by
  unfold Chip.countRefused
  split
  · exact c.count_besideFabric _ (by grind)
  · rfl

theorem Chip.finish_besideFabric (c : Chip) (site : Nat) (st : Stitch) (status : Nat) : (c.finish site st status).besideFabric = c.besideFabric := rfl

theorem Chip.messageAnswer_besideFabric (c : Chip) (mine : SendMsg → Bool) (st : Stitch) (idx status : Nat) :
    (c.messageAnswer mine st idx status).besideFabric = c.besideFabric := by
  unfold Chip.messageAnswer
  split
  · rfl
  · dsimp only
    split
    · rfl
    · split
      · exact Chip.landCount_besideFabric ..
      · rfl

theorem Chip.messageEnters_besideFabric (c : Chip) (site : Nat) (req : Stitch) (seq : Option Nat) : (c.messageEnters site req seq).besideFabric = c.besideFabric := by
  unfold Chip.messageEnters
  split
  · rfl
  · dsimp only
    split <;> rfl

theorem Chip.refuseEntry_besideFabric (c : Chip) (site : Nat) (st : Stitch) (status : Nat) : (c.refuseEntry site st status).besideFabric = c.besideFabric := by
  unfold Chip.refuseEntry
  extract_lets d e
  have counted : d.besideFabric = c.besideFabric := c.countRefused_besideFabric site status
  rw [← counted]
  split
  · exact (Chip.messageAnswer_besideFabric ..).trans (d.messageEnters_besideFabric ..)
  · split
    · exact e.landCount_besideFabric ..
    · rfl

theorem Chip.ack_besideFabric (c : Chip) (site : Nat) (st : Stitch) : (c.ack site st).besideFabric = c.besideFabric := by
  unfold Chip.ack
  extract_lets mine fresh
  split
  · rfl
  · extract_lets o
    split
    · rfl
    · exact Chip.send_besideFabric ..

theorem Chip.refuse_besideFabric (c : Chip) (site : Nat) (st : Stitch) (status : Nat) : (c.refuse site st status).besideFabric = c.besideFabric := by
  unfold Chip.refuse
  extract_lets d mine
  have counted : d.besideFabric = c.besideFabric := c.countRefused_besideFabric site status
  rw [← counted]
  clear_value d
  split
  · rfl
  · split
    · rfl
    · split
      · rfl
      · exact Chip.send_besideFabric ..

theorem Chip.relayAnswers_besideFabric (c : Chip) (r : RelayRec) (status : Nat) : (c.relayAnswers r status).besideFabric = c.besideFabric := by
  refine (each_keeps Chip.besideFabric (fun st _ c => ?_) _).trans ?_
  · split
    · exact c.refuse_besideFabric ..
    · exact c.ack_besideFabric ..
  · split
    · exact Chip.count_besideFabric _ _ (by grind)
    · rfl

theorem Chip.loadLost_besideFabric (c : Chip) (st : Stitch) (status : Nat) : (c.loadLost st status).besideFabric = c.besideFabric := by
  unfold Chip.loadLost
  split
  · exact c.report_besideFabric ..
  · rfl

theorem Chip.complete_besideFabric (c : Chip) (e : OutEntry) (status : Nat) : (c.complete e status).besideFabric = c.besideFabric := by
  unfold Chip.complete
  split
  · exact c.messageAnswer_besideFabric ..
  · split
    · exact c.relayAnswers_besideFabric ..
    · extract_lets d
      have finished : d.besideFabric = c.besideFabric := (Chip.finish_besideFabric ..).trans (c.loadLost_besideFabric ..)
      rw [← finished]
      split
      · exact d.landCount_besideFabric ..
      · rfl

theorem Chip.freeOut_besideFabric (c : Chip) (e : OutEntry) : (c.freeOut e).besideFabric = c.besideFabric := Chip.outCounts_besideFabric ..

theorem Chip.enterOne_besideFabric (c : Chip) (site : Nat) (req : Stitch) : (c.enterOne site req).besideFabric = c.besideFabric := by
  unfold Chip.enterOne
  extract_lets status _ noPath st d x e
  split
  · rfl
  · split
    · rw [Chip.refuseEntry_besideFabric]
      unfold noPath
      split
      · exact c.count_besideFabric _ (by decide)
      · rfl
    · split
      · rfl
      · split
        · have entered : d.besideFabric = c.besideFabric := by
            unfold d
            split
            · exact c.messageEnters_besideFabric ..
            · rfl
          exact (Chip.send_besideFabric ..).trans ((e.outCounts_besideFabric site).trans entered)
        · exact c.send_besideFabric ..

theorem Chip.unstallOnce_besideFabric (c : Chip) : c.unstallOnce.besideFabric = c.besideFabric :=
  each_keeps Chip.besideFabric (fun x _ c => c.enterOne_besideFabric x.1 x.2) _

theorem Chip.unstall_besideFabric (c : Chip) : c.unstall.besideFabric = c.besideFabric := by
  unfold Chip.unstall
  split
  · rfl
  · exact each_keeps Chip.besideFabric (fun _ _ c => c.unstallOnce_besideFabric) c

theorem Chip.answerPull_besideFabric (c : Chip) (pull : Option (Nat × Stitch)) (status : Nat) : (c.answerPull pull status).besideFabric = c.besideFabric := by
  unfold Chip.answerPull
  split
  · rfl
  · split
    · exact c.refuse_besideFabric ..
    · exact c.ack_besideFabric ..

theorem Chip.refuseRun_besideFabric (c : Chip) (w : RunWait) (status : Nat) : (c.refuseRun w status).besideFabric = c.besideFabric := by
  unfold Chip.refuseRun
  extract_lets d _ e
  have answered : e.besideFabric = c.besideFabric := by
    rw [← c.answerPull_besideFabric w.pull status]
    unfold e
    split <;> rfl
  rw [← answered]
  split
  · exact e.countRefused_besideFabric ..
  · exact e.refuseEntry_besideFabric ..

theorem Chip.refuseWaits_besideFabric (c : Chip) (p : RunWait → Bool) (status : Nat) : (c.refuseWaits p status).besideFabric = c.besideFabric := by
  refine each_keeps Chip.besideFabric (fun w _ c => ?_) _
  rw [Chip.refuseRun_besideFabric]
  split
  · exact c.count_besideFabric _ (by decide)
  · rfl

theorem Chip.giveCredit_besideFabric (c : Chip) (s d : Nat) (st : Stitch) : (c.giveCredit s d st).besideFabric = c.besideFabric := rfl

theorem Chip.freeCredit_besideFabric (c : Chip) (s d : Nat) (st : Stitch) : (c.freeCredit s d st).besideFabric = c.besideFabric := by
  unfold Chip.freeCredit
  dsimp only
  split <;> rfl

/-! Lanes, skeins and runs. -/

theorem Chip.setLane_besideFabric (c : Chip) (s p k v : Nat) : (c.setLane s p k v).besideFabric = c.besideFabric := besideFabric_of_besideLanes (c.setLane_besideLanes s p k v)

theorem Chip.fenceLane_besideFabric (c : Chip) (s p k code : Nat) : (c.fenceLane s p k code).besideFabric = c.besideFabric :=
  besideFabric_of_besideLanes (c.fenceLane_besideLanes s p k code)

theorem Chip.reissue_besideFabric (c : Chip) (l : Nat × Nat × Nat) : (c.reissue l).besideFabric = c.besideFabric := by
  unfold Chip.reissue
  extract_lets sts d e
  have credited : d.besideFabric = c.besideFabric := by
    unfold d
    split
    · exact each_keeps Chip.besideFabric (fun st _ c => c.giveCredit_besideFabric ..) c
    · rfl
  have moved : e.besideFabric = d.besideFabric := by
    unfold e
    split <;> rfl
  exact moved.trans credited

theorem Chip.freeEntry_besideFabric (c : Chip) (x : PoolEntry) : (c.freeEntry x).besideFabric = c.besideFabric := by
  unfold Chip.freeEntry
  split
  · rfl
  · exact c.freeCredit_besideFabric ..
  · rfl

theorem Chip.lostStitch_besideFabric (c : Chip) (s : Nat) (st : Stitch) : (c.lostStitch s st).besideFabric = c.besideFabric := by
  unfold Chip.lostStitch
  extract_lets d
  have counted : d.besideFabric = c.besideFabric := c.count_besideFabric _ (by decide)
  rw [← counted]
  clear_value d
  split
  · rfl
  · split
    · split
      · split
        · rw [Chip.complete_besideFabric, Chip.countRefused_besideFabric, Chip.freeOut_besideFabric]
        · rfl
      · rfl
    · exact d.refuse_besideFabric ..

theorem Chip.skeinGone_besideFabric (c : Chip) (s d : Nat) : (c.skeinGone s d).besideFabric = c.besideFabric := by
  unfold Chip.skeinGone
  extract_lets mine pass own through e f g
  have refused : f.besideFabric = c.besideFabric := Chip.refuseWaits_besideFabric ..
  have lost : g.besideFabric = f.besideFabric := each_keeps Chip.besideFabric (fun st _ c => c.lostStitch_besideFabric s st) f
  rw [Chip.unstall_besideFabric, ← refused, ← lost]
  exact each_keeps Chip.besideFabric (fun x _ c => (Chip.lostStitch_besideFabric ..).trans (c.freeEntry_besideFabric x)) g

theorem Chip.dropSrcRun_besideFabric (c : Chip) (r : SrcRun) : (c.dropSrcRun r).besideFabric = c.besideFabric := by
  unfold Chip.dropSrcRun
  dsimp only
  split
  · exact Chip.drop_besideFabric _ _ (by grind)
  · rfl

theorem Chip.detachRun_besideFabric (c : Chip) (e runNo : Nat) : (c.detachRun e runNo).besideFabric = c.besideFabric := by
  unfold Chip.detachRun
  dsimp only
  split
  · exact Chip.drop_besideFabric _ _ (by grind)
  · rfl

theorem Chip.landRunDone_besideFabric (c : Chip) (d : DstRun) : (c.landRunDone d).besideFabric = c.besideFabric := by
  unfold Chip.landRunDone
  extract_lets e f
  split
  · exact e.refuse_besideFabric ..
  · have acked : f.besideFabric = c.besideFabric := e.ack_besideFabric ..
    rw [← acked]
    split
    · exact f.landCount_besideFabric ..
    · rfl

theorem Chip.cutDst_besideFabric (c : Chip) (r : DstRun) : (c.cutDst r).besideFabric = c.besideFabric := by
  unfold Chip.cutDst
  rw [Chip.detachRun_besideFabric, Chip.event_besideFabric, Chip.count_besideFabric _ _ (by decide), Chip.refuse_besideFabric]
  rfl

theorem Chip.cutSrc_besideFabric (c : Chip) (r : SrcRun) : (c.cutSrc r).besideFabric = c.besideFabric := by
  unfold Chip.cutSrc
  extract_lets d e
  have counted : d.besideFabric = c.besideFabric := by
    unfold d
    rw [Chip.event_besideFabric, Chip.count_besideFabric _ _ (by decide), Chip.dropSrcRun_besideFabric]
  have answered : e.besideFabric = c.besideFabric := (d.answerPull_besideFabric ..).trans counted
  rw [← answered]
  split
  · split
    · rfl
    · rw [Chip.complete_besideFabric, Chip.countRefused_besideFabric, Chip.freeOut_besideFabric]
  · rfl

theorem Chip.settleRuns_besideFabric (c : Chip) (e : Nat) : (c.settleRuns e).besideFabric = c.besideFabric := by
  refine (each_keeps Chip.besideFabric (fun n _ c => c.detachRun_besideFabric e n) _).trans (each_keeps Chip.besideFabric (fun d _ c => ?_) c)
  split
  · rfl
  · exact c.landRunDone_besideFabric d

theorem Chip.cutRuns_besideFabric (c : Chip) (e : Nat) : (c.cutRuns e).besideFabric = c.besideFabric := by
  unfold Chip.cutRuns
  extract_lets d ds ss f
  have settled : d.besideFabric = c.besideFabric := by
    unfold d
    split
    · exact c.settleRuns_besideFabric e
    · rfl
  have cut : f.besideFabric = d.besideFabric :=
    (each_keeps Chip.besideFabric (fun r _ c => c.cutSrc_besideFabric r) _).trans (each_keeps Chip.besideFabric (fun r _ c => c.cutDst_besideFabric r) d)
  exact cut.trans settled

/-! Plane sides, rings and their calibrations. -/

theorem Chip.setSide_besideFabric (c : Chip) (x : Side) (state partner : Nat) : (c.setSide x state partner).besideFabric = c.besideFabric := by
  unfold Chip.setSide
  split <;> exact ((c.wr _ _).wr_besideFabric _ (by grind)).trans (c.wr_besideFabric _ (by grind))

theorem fabric_le_ringState (x : RingKey) : 0x700000 ≤ ringState x := by
  unfold ringState
  split <;> grind

theorem Chip.lockRing_besideFabric (c : Chip) (x : RingKey) : (c.lockRing x).besideFabric = c.besideFabric := c.wr_besideFabric loLOCKED (f := ringLoop x) (fabric_le_ringState x)

theorem Chip.stepRings_besideFabric (c : Chip) (l : List RingKey) (mhz : Int) : (c.stepRings l mhz).besideFabric = c.besideFabric :=
  each_keeps Chip.besideFabric (fun x _ c => c.wr_besideFabric _ (fabric_le_ringState x)) c

theorem Chip.showLeft_besideFabric (c : Chip) (s g : Nat) : (c.showLeft s g).besideFabric = c.besideFabric := c.wr_besideFabric _ (by grind)

theorem Chip.trigger_besideFabric (c : Chip) (s g bit : Nat) : (c.trigger s g bit).besideFabric = c.besideFabric := by
  unfold Chip.trigger
  split
  · split
    · split <;> rfl
    · exact c.wr_besideFabric _ (by grind)
  · dsimp only
    rw [Chip.showLeft_besideFabric, Chip.wr_besideFabric _ _ (by grind)]
    rfl

theorem Chip.dropCalib_besideFabric (c : Chip) (s g : Nat) : (c.dropCalib s g).besideFabric = c.besideFabric := by
  unfold Chip.dropCalib
  dsimp only
  rw [Chip.wr_besideFabric _ _ (by grind), Chip.wr_besideFabric _ _ (by grind)]
  rfl

theorem Chip.groupDone_besideFabric (c : Chip) (s g : Nat) : (c.groupDone s g).besideFabric = c.besideFabric := by
  unfold Chip.groupDone
  extract_lets again d e f
  have counted : d.besideFabric = c.besideFabric := by
    unfold d Chip.wrPair
    rw [Chip.wr_besideFabric _ _ (by grind), Chip.wr_besideFabric _ _ (by grind), Chip.count_besideFabric _ _ (by grind)]
  have dropped : f.besideFabric = c.besideFabric := by
    unfold f e
    rw [Chip.dropCalib_besideFabric, Chip.wr_besideFabric _ _ (by grind), Chip.wr_besideFabric _ _ (by grind), Chip.wr_besideFabric _ _ (by grind), counted]
  rw [← dropped]
  split
  · exact f.trigger_besideFabric s g 3
  · rfl

theorem Chip.ringsDone_besideFabric (c : Chip) (l : List RingKey) : (c.ringsDone l).besideFabric = c.besideFabric := by
  refine each_keeps Chip.besideFabric (fun g _ c => ?_) c
  split
  · rfl
  · extract_lets left d
    have shown : d.besideFabric = c.besideFabric := Chip.showLeft_besideFabric ..
    rw [← shown]
    split
    · split
      · exact d.groupDone_besideFabric ..
      · exact d.dropCalib_besideFabric ..
    · rfl

theorem Chip.fenceLoops_besideFabric (c : Chip) (l : List RingKey) : (c.fenceLoops l).besideFabric = c.besideFabric :=
  (Chip.ringsDone_besideFabric ..).trans (each_keeps Chip.besideFabric
    (fun x _ c => ((c.wr _ _).wr_besideFabric _ (fabric_le_ringState x)).trans (c.wr_besideFabric _ (fabric_le_ringState x))) c)

theorem fabric_le_fenceReg (x : Side) : 0x700000 ≤ (fenceReg x).off := by
  unfold fenceReg
  split <;> grind

theorem Chip.fenceAllRings_besideFabric (c : Chip) (x : Side) : (c.fenceAllRings x).besideFabric = c.besideFabric :=
  (Chip.fenceLoops_besideFabric ..).trans (c.wr_besideFabric _ (fabric_le_fenceReg x))

theorem Chip.fenceRing_besideFabric (c : Chip) (x : Side) (k : Nat) : (c.fenceRing x k).besideFabric = c.besideFabric :=
  (Chip.fenceLoops_besideFabric ..).trans (c.wr_besideFabric _ (fabric_le_fenceReg x))

/-! Swatches. -/

theorem Chip.clearSwatch_besideFabric (c : Chip) (w : Swatch) : (c.clearSwatch w).besideFabric = c.besideFabric := by
  unfold Chip.clearSwatch
  dsimp only
  split
  · exact (besideFabric_of_besideLanes (Chip.clearBooking_besideLanes _ w.sites)).trans rfl
  · rfl

theorem Chip.swatchDrop_besideFabric (c : Chip) (w : Swatch) : (c.swatchDrop w).besideFabric = c.besideFabric := by
  refine Eq.trans (each_keeps Chip.besideFabric (fun x _ c => ?_) _) (c.clearSwatch_besideFabric w)
  split
  · exact (Chip.wr_besideFabric _ _ (fabric_le_ringState x.1)).trans (c.lockRing_besideFabric x.1)
  · rfl

theorem Chip.swatchAbandon_besideFabric (c : Chip) (w : Swatch) : (c.swatchAbandon w).besideFabric = c.besideFabric := by
  unfold Chip.swatchAbandon
  split
  · exact c.clearSwatch_besideFabric w
  · extract_lets d
    have dropped : d.besideFabric = c.besideFabric := by
      unfold d
      rw [Chip.event_besideFabric, Chip.count_besideFabric _ _ (by grind), Chip.swatchDrop_besideFabric]
    rw [← dropped]
    clear_value d
    split <;> rfl

/-! Faults of lanes and plane sides. -/

theorem Chip.spareReason_besideFabric (c : Chip) (x : Side) (code : Nat) : (c.spareReason x code).besideFabric = c.besideFabric := by
  unfold Chip.spareReason
  split
  · exact each_keeps Chip.besideFabric (fun k _ c => c.wr_besideFabric _ (by grind)) c
  · rfl

theorem Chip.loseLane_besideFabric (c : Chip) (s p k : Nat) : (c.loseLane s p k).besideFabric = c.besideFabric := by
  unfold Chip.loseLane
  split
  · rfl
  · extract_lets d e n f g
    have noted : f.besideFabric = c.besideFabric := by
      unfold f
      split
      · exact Chip.event_besideFabric ..
      · rfl
    have reissued : g.besideFabric = c.besideFabric := (f.reissue_besideFabric _).trans noted
    rw [← reissued]
    split
    · exact (Chip.report_besideFabric ..).trans (Chip.skeinGone_besideFabric ..)
    · rfl

theorem Chip.darkSwitched_besideFabric (c : Chip) (x : Side) : (c.darkSwitched x).besideFabric = c.besideFabric := by
  unfold Chip.darkSwitched
  extract_lets e lanes cut fenced
  split
  · have ended : cut.besideFabric = c.besideFabric := each_keeps Chip.besideFabric (fun f _ c => by
      split
      · exact (Chip.wr_besideFabric _ _ (by grind)).trans (c.cutRuns_besideFabric f)
      · rfl) c
    refine (each_keeps Chip.besideFabric (fun l _ c => ?_) cut).trans ended
    split
    · exact c.setLane_besideFabric ..
    · rfl
  · have dark : fenced.besideFabric = c.besideFabric := each_keeps Chip.besideFabric (fun l _ c => c.fenceLane_besideFabric ..) c
    exact (Chip.wr_besideFabric _ _ (by grind)).trans ((fenced.cutRuns_besideFabric e).trans dark)

theorem Chip.unspared_besideFabric (c : Chip) (b : Booking) : (c.unspared b).besideFabric = c.besideFabric := by
  unfold Chip.unspared
  extract_lets x rings switched lanes d e
  have fenced : e.besideFabric = c.besideFabric := by
    have own : d.besideFabric = c.besideFabric := c.fenceAllRings_besideFabric rings
    unfold e
    rw [Chip.setSide_besideFabric, ← own]
    split
    · rfl
    · rw [Chip.fenceAllRings_besideFabric, Chip.spareReason_besideFabric, Chip.setSide_besideFabric]
  split
  · rw [← fenced]
    split
    · exact e.darkSwitched_besideFabric x
    · exact each_keeps Chip.besideFabric (fun l _ c => (Chip.loseLane_besideFabric ..).trans (c.fenceLane_besideFabric ..)) e
  · exact each_keeps Chip.besideFabric (fun l _ c => (Chip.loseLane_besideFabric ..).trans (c.fenceRing_besideFabric ..)) c

theorem Chip.book_besideFabric (c : Chip) (b : Booking) : (c.book b).besideFabric = c.besideFabric := by
  unfold Chip.book
  extract_lets x add join rivals
  split
  · rfl
  · split
    · rfl
    · split
      · exact c.unspared_besideFabric b
      · split
        · rfl
        · split
          · split
            · exact Chip.unspared_besideFabric ..
            · exact c.unspared_besideFabric b
          · exact c.unspared_besideFabric b

theorem Chip.spareFails_besideFabric (c : Chip) (x : Side) (k code : Nat) : (c.spareFails x k code).besideFabric = c.besideFabric := by
  unfold Chip.spareFails
  rw [Chip.report_besideFabric, Chip.spareReason_besideFabric, Chip.fenceAllRings_besideFabric, Chip.setSide_besideFabric]

theorem Chip.fenceOwn_besideFabric (c : Chip) (s p k code : Nat) (txFault rxFault : Bool) : (c.fenceOwn s p k code txFault rxFault).besideFabric = c.besideFabric := by
  unfold Chip.fenceOwn
  extract_lets trunk d tx rx before first far e whole1 side f whole guess unit g b
  split
  · rfl
  · split
    · exact c.fenceLane_besideFabric s p k code
    · have fenced : d.besideFabric = c.besideFabric := c.fenceLane_besideFabric s p k code
      have localized : f.besideFabric = d.besideFabric := by
        unfold f
        split <;> rfl
      have recorded : g.besideFabric = f.besideFabric := by
        unfold g
        split
        · exact f.event_besideFabric ..
        · rfl
      rw [← fenced, ← localized, ← recorded]
      split
      · rw [Chip.report_besideFabric, Chip.event_besideFabric, Chip.fenceRing_besideFabric]
      · exact (b.report_besideFabric ..).trans (g.book_besideFabric _)

theorem Chip.fence_besideFabric (c : Chip) (s p k code : Nat) (txFault rxFault : Bool) : (c.fence s p k code txFault rxFault).besideFabric = c.besideFabric := by
  unfold Chip.fence
  extract_lets x st
  split
  · split
    · rfl
    · split
      · split
        · rfl
        · exact c.spareFails_besideFabric x k code
      · split
        · exact c.fenceOwn_besideFabric ..
        · rfl
  · exact c.fenceOwn_besideFabric ..

theorem Chip.fenceSign_besideFabric (c : Chip) (f : FenceSign) : (c.fenceSign f).besideFabric = c.besideFabric := c.fence_besideFabric ..

theorem light_of_besideFabric {c d : Chip} (h : d.besideFabric = c.besideFabric) : d.light = c.light := congrArg (fun x => x.1.light) h

theorem rd_of_besideFabric {c d : Chip} {f : FRef} (h : d.besideFabric = c.besideFabric) (hf : f.off < 0x700000) : d.rd f = c.rd f := by
  have same := congrFun (congrArg Prod.snd h) f.off
  simp only [Chip.besideFabric, if_pos hf] at same
  unfold Chip.rd
  rw [same]

end Sys2Proof.Machine
end

section
/-! The commands of the light supply (R57, R65, R72, R73, R81, R82). -/

namespace Sys2Proof.Machine

@[simp] theorem setLight_eq_onLight (c : Chip) (g : Light → Light) : c.setLight g = c.onLight g := rfl

/-! LSU.CTRL and its result. -/

/-- Two packages whose light supplies are alike but for the command register and its result. -/
structure Chip.SameSupply (c d : Chip) : Prop where
  light : d.light = c.light
  row : d.row = c.row
  rd : ∀ f : FRef, f.off < 0x700000 → f.off ∉ [R.LSU_CTRL, R.LSU_CTRL_RESULT] → d.rd f = c.rd f

theorem sameSupply_ctrlResult (c : Chip) (n : Nat) : c.SameSupply (c.ctrlResult n) := by
  refine ⟨rfl, rfl, fun f _ hf => ?_⟩
  simp only [List.mem_cons, List.not_mem_nil, or_false, not_or] at hf
  unfold Chip.ctrlResult
  rw [rd_wr_of_ne hf.2, rd_wr_of_ne hf.2]

theorem rd_ctrlResult (c : Chip) (n : Nat) : (c.ctrlResult n).rd R.LSU_CTRL_RESULT_STATUS = n % 16 := by
  unfold Chip.ctrlResult
  rw [rd_wr_apart _ _ (by decide) (by decide) (by decide), rd_wr_self _ _ (by decide) (by decide)]
  rfl

/-- An accepted write of LSU.CTRL has its effect on the light supply as it was (R65). -/
theorem writeReg_lsuCtrl {c : Chip} {req : Requester} (v : Nat) (hacc : writeAccepted c req R.LSU_CTRL) :
    ∃ d, c.writeReg req R.LSU_CTRL v (lsuCtrlHook v) = (lsuCtrlHook v).effect d ∧ c.SameSupply d := by
  obtain ⟨hj, hs, he⟩ := hacc
  obtain ⟨d, hd, hsame, hwords⟩ := writeReg_does_words (v := v) (f := (lsuCtrlHook v).effect) hj hs he
  refine ⟨d, hd, by rw [hsame], by rw [hsame], fun f hlow hf => ?_⟩
  have notBookkeeping : ¬ bookkeeping f.off := by
    unfold bookkeeping
    grind
  unfold Chip.rd
  rw [hwords f.off (fun e => hf (by simp [e])) notBookkeeping]

/-- Several command bits at once are refused (R65). -/
theorem lsuCtrlHook_several {v : Nat} (h : 1 < popCount 4 (v / 2 ^ 28)) (c : Chip) : (lsuCtrlHook v).effect c = c.ctrlResult 8 := by
  have some_bit : popCount 4 (v / 2 ^ 28) ≠ 0 := by omega
  simp only [lsuCtrlHook, WriteHook.does, some_bit, h, if_true, if_false]

/-- A single command whose conditions hold is carried out while a PCU holds the token (R65). -/
theorem lsuCtrlHook_one {v : Nat} {c : Chip} (h : popCount 4 (v / 2 ^ 28) = 1) (hok : c.ctrlRefusal v = none) (htoken : c.tokenHeld = true) :
    (lsuCtrlHook v).effect c = c.lsuCtrl v := by
  simp only [lsuCtrlHook, WriteHook.does, h, hok, htoken, Nat.one_ne_zero, lt_irrefl, if_true, if_false]

section
variable {c d : Chip} (h : c.SameSupply d)
include h

theorem Chip.SameSupply.on {f : FRef} (hlow : f.off < 0x700000) (hf : f.off ∉ [R.LSU_CTRL, R.LSU_CTRL_RESULT]) : d.on f = c.on f := by
  unfold Chip.on
  rw [h.rd f hlow hf]

theorem Chip.SameSupply.tokenHeld : d.tokenHeld = c.tokenHeld := by
  unfold Chip.tokenHeld
  rw [h.rd _ (by decide) (by decide)]

theorem Chip.SameSupply.returnCandidate : d.returnCandidate = c.returnCandidate := by
  have held : ∀ x, d.combHeld x = c.combHeld x := fun x => by simp only [Chip.combHeld, h.light, h.row]
  have offset : ∀ x, d.combOffset x = c.combOffset x := fun x => by simp only [Chip.combOffset, h.light]
  have holdoff : d.rdPos R.LSU_CFG_HOLDOFF = c.rdPos R.LSU_CFG_HOLDOFF := by
    unfold Chip.rdPos
    rw [h.rd _ (by decide) (by decide)]
  have spacing0 : d.on (R.LSU_COMB_SPACING_LOCK 0) = c.on (R.LSU_COMB_SPACING_LOCK 0) := h.on (by decide) (by decide)
  have spacing1 : d.on (R.LSU_COMB_SPACING_LOCK 1) = c.on (R.LSU_COMB_SPACING_LOCK 1) := h.on (by decide) (by decide)
  have lock0 : d.on (R.LSU_COMB_OFFSET_LOCK 0) = c.on (R.LSU_COMB_OFFSET_LOCK 0) := h.on (by decide) (by decide)
  have lock1 : d.on (R.LSU_COMB_OFFSET_LOCK 1) = c.on (R.LSU_COMB_OFFSET_LOCK 1) := h.on (by decide) (by decide)
  simp only [Chip.returnCandidate, Chip.bestComb, held, offset, holdoff, spacing0, spacing1, lock0, lock1]

end

/-- An accepted write of a single command whose conditions hold carries it out on the light supply as it was, while a PCU holds the token (R65). -/
theorem writeReg_lsuCtrl_one {c : Chip} {req : Requester} {v : Nat} (hacc : writeAccepted c req R.LSU_CTRL) (hone : popCount 4 (v / 2 ^ 28) = 1) (htoken : c.tokenHeld = true)
    (hok : ∀ d, c.SameSupply d → d.ctrlRefusal v = none) : ∃ d, c.writeReg req R.LSU_CTRL v (lsuCtrlHook v) = d.lsuCtrl v ∧ c.SameSupply d := by
  obtain ⟨d, hd, hsame⟩ := writeReg_lsuCtrl v hacc
  exact ⟨d, hd.trans (lsuCtrlHook_one hone (hok d hsame) (hsame.tokenHeld.trans htoken)), hsame⟩

theorem exec_lsuSwap (req : Requester) (v : BitVec 32) (s : State) :
    exec (.lsuSwap req v) s = .next (s.onChip (fun c => c.writeReg req R.LSU_CTRL v.toNat (lsuCtrlHook v.toNat))) := rfl

theorem exec_lsuReturn (req : Requester) (v : BitVec 32) (s : State) :
    exec (.lsuReturn req v) s = .next (s.onChip (fun c => c.writeReg req R.LSU_CTRL v.toNat (lsuCtrlHook v.toNat))) := rfl

theorem exec_lsuRestart (req : Requester) (v : BitVec 32) (s : State) :
    exec (.lsuRestart req v) s = .next (s.onChip (fun c => c.writeReg req R.LSU_CTRL v.toNat (lsuCtrlHook v.toNat))) := rfl

/-! The single commands: SWAP (R73), RETURN (R81), RESTART of comb A (R72). -/

theorem ctrlRefusal_swap {c : Chip} {v : Nat} (hbit : bitOf v 31 = true) : c.ctrlRefusal v = if c.on R.LSU_STATUS_STANDBY_READY then none else some 3 := by
  simp only [Chip.ctrlRefusal, hbit, if_true]

theorem lsuCtrl_swap {c : Chip} {v : Nat} (hbit : bitOf v 31 = true) : c.lsuCtrl v = (c.ctrlResult 1).onLight (fun l => { l with swapRow := some (c.row + 1) }) := by
  simp only [Chip.lsuCtrl, hbit, if_true]
  rfl

theorem ctrlRefusal_return {c : Chip} {v x : Nat} (hswap : bitOf v 31 = false) (hbit : bitOf v 30 = true) (hmode : c.rd R.LSU_STATUS_MODE = 5)
    (hx : c.returnCandidate = some x) : c.ctrlRefusal v = none := by
  simp [Chip.ctrlRefusal, hswap, hbit, hmode, hx]

theorem lsuCtrl_return {c : Chip} {v x : Nat} (hswap : bitOf v 31 = false) (hbit : bitOf v 30 = true) (hx : c.returnCandidate = some x) :
    c.lsuCtrl v = (((c.ctrlResult 1).wr R.LSU_STATUS_MODE 6).wr (R.LSU_COMB_STATE x) 7).onLight (fun l => { l with returning := some (x, c.row + 1, false) }) := by
  have candidate : (c.ctrlResult 1).returnCandidate = some x := (sameSupply_ctrlResult c 1).returnCandidate.trans hx
  simp only [Chip.lsuCtrl, hswap, hbit, candidate, Bool.false_eq_true, if_false, if_true, Option.getD_some]
  rfl

theorem ctrlRefusal_restartA {c : Chip} {v : Nat} (hswap : bitOf v 31 = false) (hreturn : bitOf v 30 = false) (hbit : bitOf v 29 = true)
    (hfenced : c.rd (R.LSU_COMB_STATE 0) = 5) : c.ctrlRefusal v = none := by
  simp [Chip.ctrlRefusal, hswap, hreturn, hbit, hfenced]

theorem lsuCtrl_restartA {c : Chip} {v : Nat} (hswap : bitOf v 31 = false) (hreturn : bitOf v 30 = false) (hbit : bitOf v 29 = true) :
    c.lsuCtrl v = ((c.ctrlResult 1).wr (R.LSU_COMB_STATE 0) 4).onLight (fun l => { l with granted := l.granted ++ [0] }) := by
  simp only [Chip.lsuCtrl, hswap, hreturn, hbit, Bool.false_eq_true, if_false, if_true, setLight_eq_onLight]

/-- No command that is carried out is held. -/
theorem lsuCtrl_heldCtrl (c : Chip) (v : Nat) : (c.lsuCtrl v).light.heldCtrl = c.light.heldCtrl := by
  unfold Chip.lsuCtrl
  dsimp only
  split
  · rfl
  · split <;> rfl

/-! The commit of a return (R81). -/

theorem noteReturning_besideFabric {c d : Chip} {p : Prop} [Decidable p] (l : List (Nat × Nat × Nat)) (h : d.besideFabric = c.besideFabric) :
    (if p then { d with tns := { d.tns with returning := l } } else d).besideFabric = c.besideFabric := by
  split <;> exact h

theorem beginChange_light (c : Chip) : c.beginChange.light = { c.light with changeAt := some c.cycles, changeBefore := c.light.changeAt } := by
  unfold Chip.beginChange
  extract_lets d runs e
  have ended : e.besideFabric = d.besideFabric :=
    (each_keeps Chip.besideFabric (fun r _ c =>
      noteReturning_besideFabric _ (besideFabric_of_besideLanes ((Chip.patResult_besideLanes ..).trans (c.runLeaves_besideLanes r)))) _).trans (d.onLanes_besideFabric _)
  have abandoned : (e.each e.tns.swatches Chip.swatchAbandon).besideFabric = e.besideFabric := each_keeps Chip.besideFabric (fun w _ c => c.swatchAbandon_besideFabric w) e
  exact light_of_besideFabric (abandoned.trans ended)

theorem lightGroups_besideFabric (c : Chip) : c.lightGroups.besideFabric = c.besideFabric := by
  refine each_keeps Chip.besideFabric (fun s _ c => each_keeps Chip.besideFabric (fun p _ c => ?_) c) c
  split
  · rfl
  · exact c.wr_besideFabric _ (by grind)

theorem lightNotice_light (c : Chip) : c.lightNotice.light = c.light := by
  unfold Chip.lightNotice Chip.notice
  dsimp only
  split
  · exact Chip.event_light ..
  · split
    · rfl
    · exact light_of_besideFabric (Chip.send_besideFabric ..)

theorem rd_lightNotice (c : Chip) {f : FRef} (hf : f.off < 0x700000) : c.lightNotice.rd f = c.rd f := by
  unfold Chip.lightNotice Chip.notice
  dsimp only
  split
  · exact rd_event ..
  · split
    · rfl
    · exact rd_of_besideFabric (Chip.send_besideFabric ..) hf

/-- The light supply after the commit of a return to comb `x` at the time `t`. -/
def Chip.returnedTo (c : Chip) (x t : Nat) : Prop :=
  c.light.returning = none ∧ c.light.tookOver = some t ∧ c.rd (R.LSU_COMB_STATE x) = 3 ∧ c.rd (R.LSU_COMB_OUTPUT x) = 100 ∧ c.rd R.LSU_STATUS_MODE = modeOf x

theorem returnedTo_of_same {c d : Chip} {x t : Nat} (hlight : d.light = c.light) (hrd : ∀ f : FRef, f.off ∈ [R.LSU_COMB x, R.LSU_STATUS] → d.rd f = c.rd f)
    (h : c.returnedTo x t) : d.returnedTo x t := by
  unfold Chip.returnedTo
  rw [hlight, hrd _ (by simp), hrd _ (by simp), hrd _ (by simp)]
  exact h

theorem returnedTo_of_besideFabric {c d : Chip} {x t : Nat} (hx : x < 2) (hd : d.besideFabric = c.besideFabric) (h : c.returnedTo x t) : d.returnedTo x t :=
  returnedTo_of_same (light_of_besideFabric hd) (fun f hf => rd_of_besideFabric hd (by grind)) h

/-- The end of an offset lock leaves every field alone but the lock and HELD. -/
theorem rd_dropOffset (c : Chip) (x : Nat) {f : FRef} (h : 26 < f.lo ∨ 11 < f.lo ∧ f.hi < 26) : (c.dropOffset x).rd f = c.rd f := by
  unfold Chip.dropOffset
  rw [setLight_eq_onLight, rd_onLight, rd_wr_apart _ _ (by simp) (by simp) (by simp; omega), rd_wr_apart _ _ (by simp) (by simp) (by simp; omega)]

/-- The returning comb is active at full output, and MODE names it (R81). -/
theorem returnedTo_of_setComb {c : Chip} {x t : Nat} (y : Nat) (hx : x < 2) (hreturning : c.light.returning = none) (htook : c.light.tookOver = some t) :
    ((((c.setComb x 3 100).wr R.LSU_STATUS_MODE (modeOf x)).dropOffset x).dropOffset y).returnedTo x t := by
  have apart : R.LSU_COMB x ≠ R.LSU_STATUS := by grind
  refine ⟨hreturning, htook, ?_, ?_, ?_⟩
  · rw [rd_dropOffset _ _ (by simp), rd_dropOffset _ _ (by simp), rd_wr_of_ne apart]
    unfold Chip.setComb
    rw [rd_wr_apart _ _ (by simp) (by simp) (by simp), rd_wr_self _ _ (by simp) (by simp)]
    rfl
  · rw [rd_dropOffset _ _ (by simp), rd_dropOffset _ _ (by simp), rd_wr_of_ne apart]
    unfold Chip.setComb
    rw [rd_wr_self _ _ (by simp) (by simp)]
    rfl
  · rw [rd_dropOffset _ _ (by decide), rd_dropOffset _ _ (by decide), rd_wr_self _ _ (by decide) (by decide)]
    exact Nat.mod_eq_of_lt (show x + 1 < 2 ^ 4 by omega)

/-- A comb that waits as the standby is the other one. -/
theorem returnedTo_of_standby {c : Chip} {x t : Nat} (hx : x < 2) (h : c.returnedTo x t) : (c.setComb (1 - x) 2 30).returnedTo x t := by
  refine returnedTo_of_same (by rfl) (fun f hf => ?_) h
  have apart : f.off ≠ R.LSU_COMB (1 - x) := by grind
  unfold Chip.setComb
  rw [rd_wr_of_ne apart, rd_wr_of_ne apart]

theorem commitReturn_returnedTo (c : Chip) {x : Nat} (failed : List FenceSign) (hx : x < 2) :
    (c.commitReturn x failed).returnedTo x c.cycles ∧ (c.commitReturn x failed).rd R.LSU_CTRL_RESULT_STATUS = 2 := by
  unfold Chip.commitReturn
  extract_lets mhz other rings begun lit standby stepped circuits lanes fenced
  have hlit : lit.returnedTo x c.cycles := by
    refine returnedTo_of_setComb other hx ?_ ?_ <;> simp [begun, beginChange_light]
  have hstandby : standby.returnedTo x c.cycles := by
    unfold standby
    split
    · exact returnedTo_of_standby hx hlit
    · exact hlit
  have hcircuits : circuits.besideFabric = stepped.besideFabric := each_keeps Chip.besideFabric (fun e _ c => by
    split
    · exact c.wr_besideFabric _ (by grind)
    · rfl) stepped
  have hlanes : lanes.besideFabric = circuits.besideFabric := each_keeps Chip.besideFabric (fun l _ c => by
    split
    · rfl
    · exact c.setLane_besideFabric ..) circuits
  have hfenced : fenced.besideFabric = standby.besideFabric := calc
    fenced.besideFabric = lanes.lightGroups.besideFabric := each_keeps Chip.besideFabric (fun f _ c => c.fenceSign_besideFabric f) lanes.lightGroups
    _ = lanes.besideFabric := lightGroups_besideFabric lanes
    _ = standby.besideFabric := (hlanes.trans hcircuits).trans (standby.stepRings_besideFabric rings mhz)
  have hdone : fenced.returnedTo x c.cycles := returnedTo_of_besideFabric hx hfenced hstandby
  constructor
  · refine returnedTo_of_same ?_ (fun f hf => ?_) hdone
    · rw [lightNotice_light, Chip.event_light]
      rfl
    · have low : f.off < 0x700000 := by grind
      rw [rd_lightNotice _ low, rd_event, (sameSupply_ctrlResult fenced 2).rd f low (by grind)]
  · rw [rd_lightNotice _ (by decide), rd_event, rd_ctrlResult]

/-! The end of a detection hold (R57). -/

theorem exec_detectHoldEnd (lost : List FenceSign) {s : State} (hhold : s.chip.on R.OPF_STATUS_DETECT_HOLD = true) (hmode : s.chip.rd R.LSU_STATUS_MODE ≠ 4)
    (htime : s.chip.light.changeAt.all (fun t0 => decide (t0 + 40000 ≤ s.chip.cycles)) = true) :
    exec (.detectHoldEnd lost) s = .next (s.onChip (fun c => (lost.foldl Chip.fenceSign c.changeEnds).relocked)) := by
  show Host.Outcome.next (s.onChip _) = _
  cases hat : s.chip.light.changeAt with
  | none => simp [State.onChip, hat, hhold, hmode, Chip.each]
  | some t =>
    have late : t + 40000 ≤ s.chip.cycles := by simpa [hat] using htime
    simp [State.onChip, hat, hhold, hmode, late, Chip.each]

theorem changeEnds_of_mode {c : Chip} (h : c.rd R.LSU_STATUS_MODE ≠ 3) :
    c.changeEnds = (c.setDetectHold false).onLight (fun l => { l with changeAt := none, changeBefore := none, flagged := [] }) := by
  have mode : (c.setDetectHold false).rd R.LSU_STATUS_MODE = c.rd R.LSU_STATUS_MODE := by
    unfold Chip.setDetectHold
    rw [rd_wr_apart _ _ (by decide) (by decide) (by decide), rd_wr_of_ne (by decide)]
  unfold Chip.changeEnds
  rw [setLight_eq_onLight]
  exact if_neg (by rw [rd_onLight, mode]; exact h)

theorem relocked_besideLanes (c : Chip) : c.relocked.besideLanes = c.besideLanes := by
  refine each_keeps Chip.besideLanes (fun l _ c => ?_) c
  unfold Chip.phaseLocked
  split
  · split <;> rfl
  · rfl

/-- The end of a source change leaves the light supply's mode, unless a switch-over ends with it. -/
theorem changeEnds_detectHold {c : Chip} (h : c.rd R.LSU_STATUS_MODE ≠ 3) :
    c.changeEnds.on R.OPF_STATUS_DETECT_HOLD = false ∧ c.changeEnds.rd R.LSU_STATUS_MODE = c.rd R.LSU_STATUS_MODE := by
  rw [changeEnds_of_mode h, on_onLight, rd_onLight]
  unfold Chip.setDetectHold Chip.on
  rw [rd_wr_of_ne (by decide), rd_wr_self _ _ (by decide) (by decide), rd_wr_apart _ _ (by decide) (by decide) (by decide), rd_wr_of_ne (by decide)]
  exact ⟨rfl, rfl⟩

/-! Held commands and the commit as commands. -/

/-- The package with no held command of LSU.CTRL. -/
def Chip.withoutHeld (c : Chip) : Chip := c.setLight (fun l => { l with heldCtrl := none })

/-- Once a PCU holds the token, a held command is carried out where its condition holds (R65). -/
theorem exec_lsuCtrlPendingRun {s : State} {v : Nat} (hheld : s.chip.light.heldCtrl = some v) (htoken : s.chip.tokenHeld = true) :
    exec .lsuCtrlPendingRun s =
      .next (s.onChip (fun c => if (c.withoutHeld.ctrlRefusal v).isSome then c.withoutHeld.ctrlResult 6 else c.withoutHeld.lsuCtrl v)) := by
  show Host.Outcome.next (s.onChip _) = _
  simp only [State.onChip, hheld, htoken, if_true, Chip.withoutHeld]
  rfl

theorem exec_lsuCtrlPendingRun_accepted {s : State} {v : Nat} (hheld : s.chip.light.heldCtrl = some v) (htoken : s.chip.tokenHeld = true)
    (hok : s.chip.withoutHeld.ctrlRefusal v = none) : exec .lsuCtrlPendingRun s = .next (s.onChip (fun c => c.withoutHeld.lsuCtrl v)) := by
  rw [exec_lsuCtrlPendingRun hheld htoken]
  simp only [State.onChip, hok, Option.isSome_none, Bool.false_eq_true, if_false]

theorem exec_lsuCtrlPendingRun_refused {s : State} {v n : Nat} (hheld : s.chip.light.heldCtrl = some v) (htoken : s.chip.tokenHeld = true)
    (hrefused : s.chip.withoutHeld.ctrlRefusal v = some n) : exec .lsuCtrlPendingRun s = .next (s.onChip (fun c => c.withoutHeld.ctrlResult 6)) := by
  rw [exec_lsuCtrlPendingRun hheld htoken]
  simp only [State.onChip, hrefused, Option.isSome_some, if_true]

theorem exec_returnCommit (failed : List FenceSign) {s : State} {x r : Nat} (hret : s.chip.light.returning = some (x, r, true)) (hmode : s.chip.rd R.LSU_STATUS_MODE = 6)
    (hrow : r ≤ s.chip.row) (htoken : s.chip.tokenHeld = true) (hlocked : s.chip.returnLocked = true) :
    exec (.returnCommit failed) s = .next (s.onChip (fun c => c.setLight (fun l => { l with commit := some failed }))) := by
  show Host.Outcome.next (s.onChip _) = _
  simp only [State.onChip, hret, hmode, hrow, htoken, hlocked, and_self, if_true]

/-- A noted commit is carried out at a boundary after the return's own (R81, R176). -/
theorem commitStep_of_noted {c : Chip} {x r : Nat} {failed : List FenceSign} (hret : c.light.returning = some (x, r, true)) (hcommit : c.light.commit = some failed)
    (hmode : c.rd R.LSU_STATUS_MODE = 6) (hrow : r < c.row) (htoken : c.tokenHeld = true) (hlocked : c.returnLocked = true) : c.commitStep = c.commitReturn x failed := by
  simp only [Chip.commitStep, hret, hcommit, hmode, hrow, htoken, hlocked, and_self, if_true]

/-- Settles O6: the commands by their refusals and effects, the commit by what the fabric's part in it leaves alone. -/
theorem lightSupplyCommandsComplete : Obligations.LightSupplyCommandsComplete := by
  refine ⟨fun req v s hacc hv htoken hready => ?_, fun req v x s hacc hv htoken hmode hx => ?_, fun req v s hacc hv htoken hfenced => ?_, fun req v s hacc hv => ?_,
    fun s hheld htoken hready => ?_, fun s hheld htoken hready => ?_, fun v s hheld htoken => ?_, fun x r failed s hret hmode hrow htoken hlocked hcommit => ?_,
    fun lost s hhold hmode htime => ?_, fun t0 s hhold hat htime hentry hmode => ?_⟩
  case _ =>
    have hbit : bitOf v.toNat 31 = true := by simp [bitOf]; omega
    obtain ⟨d, hd, hsame⟩ := writeReg_lsuCtrl_one hacc (by rw [hv]; rfl) htoken (fun d hsame => by
      rw [ctrlRefusal_swap hbit, hsame.on (by decide) (by decide), hready, if_pos rfl])
    refine completes_of_exec (exec_lsuSwap req v s) ?_
    rw [State.onChip_chip, hd, lsuCtrl_swap hbit]
    refine ⟨congrArg (fun r => some (r + 1)) hsame.row, ?_, ?_, rfl, rfl⟩
    · rw [rd_onLight, rd_ctrlResult]
    · rw [rd_onLight, (sameSupply_ctrlResult d 1).rd _ (by decide) (by decide), hsame.rd _ (by decide) (by decide)]
  case _ =>
    have hswap : bitOf v.toNat 31 = false := by simp [bitOf]; omega
    have hbit : bitOf v.toNat 30 = true := by simp [bitOf]; omega
    obtain ⟨d, hd, hsame⟩ := writeReg_lsuCtrl_one hacc (by rw [hv]; rfl) htoken (fun d hsame =>
      ctrlRefusal_return hswap hbit ((hsame.rd _ (by decide) (by decide)).trans hmode) (hsame.returnCandidate.trans hx))
    have apart : R.LSU_STATUS ≠ R.LSU_COMB x.val := by grind
    have resultApart : R.LSU_CTRL_RESULT ≠ R.LSU_COMB x.val := by grind
    refine completes_of_exec (exec_lsuReturn req v s) ?_
    rw [State.onChip_chip, hd, lsuCtrl_return hswap hbit (hsame.returnCandidate.trans hx)]
    refine ⟨congrArg (fun r => some (x.val, r + 1, false)) hsame.row, ?_, ?_, ?_, rfl, rfl⟩
    · rw [rd_onLight, rd_wr_of_ne apart, rd_wr_self _ _ (by decide) (by decide)]
      rfl
    · rw [rd_onLight, rd_wr_self _ _ (by simp) (by simp)]
      rfl
    · rw [rd_onLight, rd_wr_of_ne resultApart, rd_wr_of_ne (by decide), rd_ctrlResult]
  case _ =>
    have hswap : bitOf v.toNat 31 = false := by simp [bitOf]; omega
    have hreturn : bitOf v.toNat 30 = false := by simp [bitOf]; omega
    have hbit : bitOf v.toNat 29 = true := by simp [bitOf]; omega
    obtain ⟨d, hd, hsame⟩ := writeReg_lsuCtrl_one hacc (by rw [hv]; rfl) htoken (fun d hsame =>
      ctrlRefusal_restartA hswap hreturn hbit ((hsame.rd _ (by decide) (by decide)).trans hfenced))
    refine completes_of_exec (exec_lsuRestart req v s) ?_
    rw [State.onChip_chip, hd, lsuCtrl_restartA hswap hreturn hbit]
    refine ⟨congrArg (fun l : Light => l.granted ++ [0]) hsame.light, ?_, ?_, rfl, rfl⟩
    · rw [rd_onLight, rd_wr_self _ _ (by decide) (by decide)]
      rfl
    · rw [rd_onLight, rd_wr_of_ne (by decide), rd_ctrlResult]
  case _ =>
    obtain ⟨d, hd, hsame⟩ := writeReg_lsuCtrl v.toNat hacc
    refine completes_of_exec (exec_lsuSwap req v s) ?_
    rw [State.onChip_chip, hd, lsuCtrlHook_several hv]
    exact ⟨rd_ctrlResult d 8, hsame.light, rfl, rfl⟩
  case _ =>
    have hbit : bitOf (2 ^ 31) 31 = true := by decide
    refine completes_of_exec (exec_lsuCtrlPendingRun_accepted hheld htoken ((ctrlRefusal_swap hbit).trans (if_pos hready))) ?_
    rw [State.onChip_chip, lsuCtrl_swap hbit]
    exact ⟨rfl, rfl, rfl, rfl⟩
  case _ =>
    have hbit : bitOf (2 ^ 31) 31 = true := by decide
    have notReady : s.chip.withoutHeld.on R.LSU_STATUS_STANDBY_READY ≠ true := by
      unfold Chip.withoutHeld
      rw [setLight_eq_onLight, on_onLight, hready]
      decide
    refine completes_of_exec (exec_lsuCtrlPendingRun_refused hheld htoken ((ctrlRefusal_swap hbit).trans (if_neg notReady))) ?_
    exact ⟨rfl, rd_ctrlResult _ 6, rfl, rfl, rfl⟩
  case _ =>
    cases hrefusal : s.chip.withoutHeld.ctrlRefusal v with
    | some n =>
      exact completes_of_exec (exec_lsuCtrlPendingRun_refused hheld htoken hrefusal)
        ⟨rfl, ⟨rfl, rfl⟩, fun _ _ => rd_ctrlResult _ 6, fun h => absurd (hrefusal.symm.trans h) (Option.some_ne_none n)⟩
    | none =>
      exact completes_of_exec (exec_lsuCtrlPendingRun_accepted hheld htoken hrefusal)
        ⟨lsuCtrl_heldCtrl _ v, ⟨rfl, rfl⟩, fun n h => absurd (h.symm.trans hrefusal) (Option.some_ne_none n), fun _ => rfl⟩
  case _ =>
    refine completes_of_exec (exec_returnCommit failed hret hmode hrow.le htoken hlocked) ?_
    rw [State.onChip_chip]
    have hstep : (s.chip.setLight (fun l => { l with commit := some failed })).commitStep = (s.chip.setLight (fun l => { l with commit := some failed })).commitReturn x failed :=
      commitStep_of_noted hret rfl hmode hrow htoken hlocked
    obtain ⟨⟨hreturning, htook, hstate, houtput, hm⟩, hresult⟩ := commitReturn_returnedTo (s.chip.setLight (fun l => { l with commit := some failed })) failed x.isLt
    rw [hstep]
    exact ⟨rfl, rfl, hreturning, htook, hstate, houtput, hm, hresult, rfl, rfl⟩
  case _ => exact completes_of_exec (exec_detectHoldEnd lost hhold hmode htime) ⟨rfl, rfl, rfl⟩
  case _ =>
    refine completes_of_exec (exec_detectHoldEnd [] hhold hentry (by simpa [hat] using htime)) ?_
    rw [State.onChip_chip, List.foldl_nil]
    have hrelocked := relocked_besideLanes s.chip.changeEnds
    have hlight : s.chip.changeEnds.relocked.light = s.chip.changeEnds.light := light_of_besideFabric (besideFabric_of_besideLanes hrelocked)
    obtain ⟨hoff, hkept⟩ := changeEnds_detectHold hmode
    have hwords := words_of_besideLanes hrelocked
    refine ⟨?_, ?_, ?_, ?_, rfl, rfl⟩
    · rw [hlight, changeEnds_of_mode hmode]
      rfl
    · rw [hlight, changeEnds_of_mode hmode]
      rfl
    · unfold Chip.on at hoff ⊢
      rw [rd_of_words hwords (by decide)]
      exact hoff
    · rw [rd_of_words hwords (by decide), hkept]

end Sys2Proof.Machine
end

section
/-! The loss of a comb that has just taken over (R69, R74). -/

namespace Sys2Proof.Machine

theorem state_of_activeComb {c : Chip} {a : Nat} (h : c.activeComb = some a) : c.rd (R.LSU_COMB_STATE a) = 3 := by
  unfold Chip.activeComb at h
  split at h
  · next h0 => cases h; exact h0
  · split at h
    · next h1 => cases h; exact h1
    · cases h

/-- A declared loss, once a line is flagged, is the loss of the active comb (R69). -/
theorem exec_combLossDeclared {s : State} {a : Nat} (hflag : s.chip.light.flagged ≠ []) (hactive : s.chip.activeComb = some a) :
    exec .combLossDeclared s = .next (s.onChip (fun c => c.combFails a)) := by
  show Host.Outcome.next (s.onChip _) = _
  simp [State.onChip, hflag, hactive]

/-- The flag has begun the source change, so the loss begins none (R68). -/
theorem combFails_of_flagged {c : Chip} {a : Nat} (hactive : c.activeComb = some a) (hcomb : c.onComb = true) (hflag : c.light.flagged ≠ []) : c.combFails a = c.combLost a := by
  have begun : c.declareChange = c := if_neg (by simpa using hflag)
  unfold Chip.combFails
  rw [if_pos ⟨state_of_activeComb hactive, hcomb⟩, begun]

/-- Within 20 µs of its own takeover the loss of a comb leads to fallback, a ready standby or not (R74). -/
theorem combLost_of_tookOver {c : Chip} {t : Nat} (a : Nat) (hswap : c.light.swapRow = none) (htook : c.light.tookOver = some t) (hfresh : c.cycles ≤ t + 40000) :
    c.combLost a = c.enterFallback := by
  have noSwap : c.dropSwap = c := if_neg (by simp [hswap])
  simp [Chip.combLost, noSwap, htook, hfresh]

/-- Comb A has taken over at time 0, comb B is a ready standby and FB0 has light; 4 µs later a line of comb A falls, and 1.12 µs after that it is flagged still. -/
def tookOverWithStandby : State :=
  let c := (State.reset.chip.wr R.LSU_STATUS_MODE 3).setComb 0 3 100
  let c := ((c.setComb 1 2 30).wr R.LSU_STATUS_STANDBY_READY 1).wr R.LSU_STATUS_FB0_LIGHT 1
  { State.reset with chip := { c with row := 5, light := { flagged := [3], changeAt := some 8000, tookOver := some 0 } } }

theorem rd_mode_tookOverWithStandby : tookOverWithStandby.chip.enterFallback.rd R.LSU_STATUS_MODE = 4 := by decide +kernel

/-- Refutes O5: the clause on COMB_LOSS_DECLARED with a ready standby does not ask that the lost comb has not itself taken over within the last 20 µs. R74 then has the package enter fallback,
where MODE is 4 and not the 3 of a switch-over. -/
theorem not_lightSourceEventsComplete : ¬ Obligations.LightSourceEventsComplete := by
  rintro ⟨-, -, -, -, -, hloss, -⟩
  have hactive : tookOverWithStandby.chip.activeComb = some 0 := by decide
  have hcomb : tookOverWithStandby.chip.onComb = true := by decide
  have hflag : tookOverWithStandby.chip.light.flagged ≠ [] := by decide
  obtain ⟨t, hexec, -, -, -, hmode, -⟩ := hloss 0 tookOverWithStandby hactive hcomb hflag (by decide) rfl rfl
  have hfallback : tookOverWithStandby.chip.combFails 0 = tookOverWithStandby.chip.enterFallback :=
    (combFails_of_flagged hactive hcomb hflag).trans (combLost_of_tookOver (t := 0) 0 rfl rfl (by decide))
  rw [exec_combLossDeclared hflag hactive] at hexec
  cases hexec
  rw [State.onChip_chip, hfallback, rd_mode_tookOverWithStandby] at hmode
  exact absurd hmode (by decide)

end Sys2Proof.Machine
end

section
/-! Association lists of the state. -/

namespace Sys2Proof.Machine

section
variable {κ ν : Type} [DecidableEq κ]

@[simp] theorem getKey_putKey_self (k : κ) (v : ν) : ∀ l : List (κ × ν), getKey k (putKey k v l) = some v
  | [] => by simp [putKey, getKey]
  | x :: xs => by
    unfold putKey
    split
    · simp [getKey]
    · next h => rw [getKey, if_neg h, getKey_putKey_self k v xs]

@[simp] theorem getKey_delKey_self (k : κ) : ∀ l : List (κ × ν), getKey k (delKey k l) = none
  | [] => rfl
  | x :: xs => by
    have rest := getKey_delKey_self k xs
    unfold delKey at rest ⊢
    by_cases h : x.1 = k
    · rw [List.filter_cons_of_neg (by simp [h]), rest]
    · rw [List.filter_cons_of_pos (by simp [h]), getKey, if_neg h, rest]

end

end Sys2Proof.Machine
end

section
/-! Visits of a ring (R90 to R94): what the measurement and the loop law store, and what a visit does in each loop state. -/

namespace Sys2Proof.Machine

/-! The registers of a ring. -/

theorem ringState_mod (x : RingKey) : ringState x % 16 = 0 := by
  unfold ringState
  split <;> grind

theorem ofSigned_lt (n : Nat) (x : Int) : ofSigned n x < 2 ^ n := by
  have pos : (0 : Int) < ((2 ^ n : Nat) : Int) := by exact_mod_cast Nat.two_pow_pos n
  have nonneg := Int.emod_nonneg x pos.ne'
  have below := Int.emod_lt_of_pos x pos
  unfold ofSigned
  omega

theorem clampCode_lt (code : Nat) (d : Int) : clampCode code d < 2 ^ 16 := by
  unfold clampCode
  omega

/-- The codes of a shift come from the ring's first three registers alone (R86, R114). -/
theorem codesFor_of_words {c d : Chip} {off : Nat} (h : ∀ o ∈ [off, off + 4, off + 8], d.word o = c.word o) (mhz : Int) : d.codesFor off mhz = c.codesFor off mhz := by
  have twin : d.rd ⟨off, 31, 31⟩ = c.rd ⟨off, 31, 31⟩ := congrArg (fun w : Word => fget w.toNat 31 31) (h off (by simp))
  unfold Chip.codesFor Chip.liveEff Chip.factory Chip.factoryOf
  rw [twin, h (off + 4) (by simp), h (off + 8) (by simp)]

/-! The measurement of a visit. -/

/-- A visit stores the detuning and the monitor power that it finds (R90). -/
def Chip.measure (c : Chip) (x : RingKey) (i p : Int) : Chip :=
  (c.wr (ringDetune x) (ofSigned 16 (c.detuneOf x i))).wr (ringPower x) (ofSigned 16 (clampSigned 16 (c.scaledPower x.site p)))

section
variable (c : Chip) (x : RingKey) (i p : Int)

theorem rd_detune_measure : (c.measure x i p).rd (ringDetune x) = ofSigned 16 (c.detuneOf x i) := by
  unfold Chip.measure ringDetune ringPower
  rw [rd_wr_apart _ _ (by simp) (by simp) (by simp), rd_wr_self _ _ (by simp) (by simp)]
  exact Nat.mod_eq_of_lt (ofSigned_lt ..)

theorem rd_power_measure : (c.measure x i p).rd (ringPower x) = ofSigned 16 (clampSigned 16 (c.scaledPower x.site p)) := by
  unfold Chip.measure ringPower
  rw [rd_wr_self _ _ (by simp) (by simp)]
  exact Nat.mod_eq_of_lt (ofSigned_lt ..)

theorem word_measure {o : Nat} (h : o ≠ ringState x + 12) : (c.measure x i p).word o = c.word o := (word_wr_of_ne h).trans (word_wr_of_ne h)

theorem rd_measure {f : FRef} (h : f.off ≠ ringState x + 12) : (c.measure x i p).rd f = c.rd f := by
  unfold Chip.rd
  rw [word_measure c x i p h]

/-! The loop law. -/

/-- A visit of a ring whose loop law runs (R91). -/
def Chip.steered : Chip := (c.measure x i p).loopLaw x (c.detuneOf x i)

/-- The heater code that the loop law gives a ring for a detuning (R91). -/
def Chip.lawCode (e : Int) : Nat := clampCode (c.rd (ringHeater x)) (c.codesFor (ringState x) (e * 10 * (c.rdPos (R.TNS_CFG_GAIN x.site) : Int) / 16))

theorem steered_eq : c.steered x i p = (c.measure x i p).wr (ringHeater x) (c.lawCode x (c.detuneOf x i)) := by
  have aligned := ringState_mod x
  have codes : ∀ mhz, (c.measure x i p).codesFor (ringState x) mhz = c.codesFor (ringState x) mhz := fun mhz =>
    codesFor_of_words (fun o ho => word_measure c x i p (by simp at ho; omega)) mhz
  have heater : (c.measure x i p).rd (ringHeater x) = c.rd (ringHeater x) := rd_measure c x i p (by simp [ringHeater])
  have gain : (c.measure x i p).rdPos (R.TNS_CFG_GAIN x.site) = c.rdPos (R.TNS_CFG_GAIN x.site) := by
    unfold Chip.rdPos
    rw [rd_measure c x i p (by grind)]
  unfold Chip.steered Chip.loopLaw Chip.lawCode
  rw [codes, heater, gain]

theorem rd_heater_steered : (c.steered x i p).rd (ringHeater x) = c.lawCode x (c.detuneOf x i) := by
  rw [steered_eq, rd_wr_self _ _ (by simp [ringHeater]) (by simp [ringHeater])]
  exact Nat.mod_eq_of_lt (clampCode_lt ..)

/-- The loop law changes nothing of a ring's registers but its heater code. -/
theorem rd_steered {f : FRef} (h : f.off ≠ ringState x ∨ 15 < f.lo) : (c.steered x i p).rd f = (c.measure x i p).rd f := by
  rw [steered_eq]
  rcases h with h | h
  · exact rd_wr_of_ne h
  · exact rd_wr_apart _ _ (by simp [ringHeater]) (by simp [ringHeater]) (.inl (by simpa [ringHeater] using h))

theorem word_steered {o : Nat} (h : o ∉ [ringState x, ringState x + 12]) : (c.steered x i p).word o = c.word o := by
  simp only [List.mem_cons, List.not_mem_nil, or_false, not_or] at h
  rw [steered_eq]
  exact (word_wr_of_ne h.1).trans (word_measure c x i p h.2)

/-- What a visit of a ring whose loop law runs leaves in the ring's registers. -/
theorem steered_ring : (c.steered x i p).rd (ringLoop x) = c.rd (ringLoop x) ∧ (c.steered x i p).rd (ringDetune x) = ofSigned 16 (c.detuneOf x i)
    ∧ (c.steered x i p).rd (ringPower x) = ofSigned 16 (clampSigned 16 (c.scaledPower x.site p)) := by
  refine ⟨?_, ?_, ?_⟩
  · rw [rd_steered c x i p (.inr (by simp [ringLoop])), rd_measure c x i p (by simp [ringLoop])]
  · rw [rd_steered c x i p (.inl (by simp [ringDetune])), rd_detune_measure]
  · rw [rd_steered c x i p (.inl (by simp [ringPower])), rd_power_measure]

/-! A visit by the loop state that it finds. -/

variable {c x i p}

/-- Whether a visit finds a locked ring's code at an end of its range (R94). -/
def Chip.atEndOf (c : Chip) (x : RingKey) : Bool := c.rd (ringHeater x) == 0 || c.rd (ringHeater x) == 65535

/-- The marks of a locked ring after a visit: a code at an end, a detuning beyond 6.0 GHz (R94). -/
def Chip.marked (c : Chip) (x : RingKey) (e : Int) : Chip :=
  c.onTns (fun t => { t with atEnd := markRing t.atEnd x (c.atEndOf x), beyond := markRing t.beyond x (decide (600 < e.natAbs)) })

theorem rd_marked (c : Chip) (x : RingKey) (e : Int) (f : FRef) : (c.marked x e).rd f = c.rd f := rd_onTns ..

/-- What a visit of a locked ring leaves before a loss of lock is found: the ring's own registers, and the marks. -/
theorem marked_steered (c : Chip) (x : RingKey) (i p e : Int) :
    ((c.steered x i p).marked x e).rd (ringHeater x) = c.lawCode x (c.detuneOf x i) ∧ ((c.steered x i p).marked x e).rd (ringLoop x) = c.rd (ringLoop x)
    ∧ ((c.steered x i p).marked x e).rd (ringDetune x) = ofSigned 16 (c.detuneOf x i)
    ∧ ((c.steered x i p).marked x e).rd (ringPower x) = ofSigned 16 (clampSigned 16 (c.scaledPower x.site p))
    ∧ regsSameBut c ((c.steered x i p).marked x e) [ringState x, ringState x + 12] ∧ ((c.steered x i p).marked x e).opf = c.opf
    ∧ ((c.steered x i p).marked x e).lanes = c.lanes := by
  obtain ⟨hloop, hdetune, hpower⟩ := steered_ring c x i p
  simp only [rd_marked]
  exact ⟨rd_heater_steered c x i p, hloop, hdetune, hpower, fun o ho => (word_onTns ..).trans (word_steered c x i p ho), rfl, rfl⟩

theorem visit_locked (h : c.rd (ringLoop x) = loLOCKED) : c.visit x i p =
    if (((c.steered x i p).atEndOf x && c.tns.atEnd.contains x) || (decide (600 < (c.detuneOf x i).natAbs) && c.tns.beyond.contains x)) = true
    then ((c.steered x i p).marked x (c.detuneOf x i)).ringLost x else (c.steered x i p).marked x (c.detuneOf x i) := by
  unfold Chip.visit
  rw [h]
  rfl

theorem visit_locked_near (h : c.rd (ringLoop x) = loLOCKED) (hsmall : (c.detuneOf x i).natAbs ≤ 600) (hend : x ∉ c.tns.atEnd) :
    c.visit x i p = (c.steered x i p).marked x (c.detuneOf x i) := by
  have notEnd : c.tns.atEnd.contains x = false := by simpa using hend
  have near : decide (600 < (c.detuneOf x i).natAbs) = false := decide_eq_false (not_lt.mpr hsmall)
  rw [visit_locked h, notEnd, near, Bool.and_false, Bool.false_and, Bool.or_self, if_neg Bool.false_ne_true]

theorem visit_locked_lost (h : c.rd (ringLoop x) = loLOCKED) (hfar : 600 < (c.detuneOf x i).natAbs) (hbeyond : x ∈ c.tns.beyond) :
    c.visit x i p = ((c.steered x i p).marked x (c.detuneOf x i)).ringLost x := by
  have marked : c.tns.beyond.contains x = true := by simpa using hbeyond
  have far : decide (600 < (c.detuneOf x i).natAbs) = true := decide_eq_true hfar
  rw [visit_locked h, marked, far, Bool.and_self, Bool.or_true, if_pos rfl]
theorem visit_acquire (h : c.rd (ringLoop x) = loACQUIRE) : c.visit x i p =
    if 4 ≤ c.goodVisits x (c.detuneOf x i) then ((c.steered x i p).setGood x 0).lockRing x else (c.steered x i p).setGood x (c.goodVisits x (c.detuneOf x i)) := by
  unfold Chip.visit
  rw [h]
  rfl

theorem visit_search (h : c.rd (ringLoop x) = loSEARCH) : c.visit x i p = (c.measure x i p).meetPower x (clampSigned 16 (c.scaledPower x.site p)) := by
  unfold Chip.visit
  rw [h]
  rfl

theorem visit_other (h : c.rd (ringLoop x) ∉ [loLOCKED, loACQUIRE, loSEARCH, loSWATCH]) : c.visit x i p = c.measure x i p := by
  simp only [List.mem_cons, List.not_mem_nil, or_false, not_or] at h
  obtain ⟨hlocked, hacquire, hsearch, hswatch⟩ := h
  unfold Chip.visit
  dsimp only
  rw [if_neg hsearch, if_neg hswatch, if_neg hacquire, if_neg hlocked]
  rfl

/-! What an acquiring ring's visits leave (R93). -/

theorem getKey_setGood (c : Chip) (x : RingKey) (n : Nat) : getKey x (c.setGood x n).tns.good = if n = 0 then none else some n := by
  unfold Chip.setGood
  split <;> simp

theorem rd_setGood (c : Chip) (x : RingKey) (n : Nat) (f : FRef) : (c.setGood x n).rd f = c.rd f := rd_congr rfl f

theorem lockRing_good (c : Chip) (x : RingKey) : (c.lockRing x).tns.good = c.tns.good := rfl

theorem rd_lockRing_eq (c : Chip) (x : RingKey) (f : FRef) : (c.lockRing x).rd f = (c.wr (ringLoop x) loLOCKED).rd f := rd_congr rfl f

/-- A lock changes nothing of a ring's registers but its loop state. -/
theorem rd_lockRing (c : Chip) (x : RingKey) {f : FRef} (h : f.off ≠ ringState x ∨ f.hi < 28) : (c.lockRing x).rd f = c.rd f := by
  rw [rd_lockRing_eq]
  rcases h with h | h
  · exact rd_wr_of_ne h
  · exact rd_wr_apart _ _ (by simp [ringLoop]) (by simp [ringLoop]) (.inr h)

theorem rd_loop_lockRing (c : Chip) (x : RingKey) : (c.lockRing x).rd (ringLoop x) = loLOCKED := by
  rw [rd_lockRing_eq, rd_wr_self _ _ (by simp [ringLoop]) (by simp [ringLoop])]
  rfl

/-- A visit of an acquiring ring steers it and counts; with the fourth good visit in a row it locks, and else the count stands. -/
theorem visit_acquire_fields (h : c.rd (ringLoop x) = loACQUIRE) :
    (∀ f : FRef, f.off ≠ ringState x ∨ f.hi < 28 → (c.visit x i p).rd f = (c.steered x i p).rd f)
    ∧ (c.visit x i p).rd (ringLoop x) = (if 4 ≤ c.goodVisits x (c.detuneOf x i) then loLOCKED else loACQUIRE)
    ∧ getKey x (c.visit x i p).tns.good = (if 4 ≤ c.goodVisits x (c.detuneOf x i) ∨ c.goodVisits x (c.detuneOf x i) = 0 then none else some (c.goodVisits x (c.detuneOf x i))) := by
  obtain ⟨hloop, -, -⟩ := steered_ring c x i p
  rw [visit_acquire h]
  by_cases hlock : 4 ≤ c.goodVisits x (c.detuneOf x i)
  · rw [if_pos hlock, if_pos hlock, if_pos (.inl hlock)]
    refine ⟨fun f hf => ?_, rd_loop_lockRing _ x, ?_⟩
    · rw [rd_lockRing _ x hf, rd_setGood]
    · rw [lockRing_good, getKey_setGood, if_pos rfl]
  · rw [if_neg hlock, if_neg hlock, getKey_setGood]
    refine ⟨fun f _ => rd_setGood .., ?_, ?_⟩
    · rw [rd_setGood, hloop, h]
    · simp only [hlock, false_or]

/-- The fourth visit in a row within 1.0 GHz (R93). -/
theorem goodVisits_fourth {e : Int} (h : getKey x c.tns.good = some 3) (he : e.natAbs < 100) : c.goodVisits x e = 4 := by
  simp [Chip.goodVisits, h, he]

/-! What a searching ring's visits leave (R93). -/

theorem rd_meetPower (c : Chip) (x : RingKey) (p : Int) (f : FRef) : (c.meetPower x p).rd f = c.rd f := by
  unfold Chip.meetPower
  split <;> rfl

/-- The power kept for a ring is at least the one it has just met. -/
theorem best_meetPower (c : Chip) (x : RingKey) (p : Int) : ∃ b, getKey x (c.meetPower x p).tns.best = some b ∧ p ≤ b.1 := by
  unfold Chip.meetPower
  split
  · exact ⟨_, getKey_putKey_self .., le_refl p⟩
  · next h =>
    cases hb : getKey x c.tns.best with
    | none => simp [hb] at h
    | some b => exact ⟨b, rfl, by simpa [hb] using h⟩

end

/-! The heater DAC of a ring (R86, R92). -/

theorem dacCode_of_unpowered {c : Chip} {x : RingKey} (q : Nat) (h : c.rd (ringLoop x) = loOFF ∨ c.rd (ringLoop x) = loFENCED) : c.dacCode x q = 0 := if_pos h

/-- Where the dither of a wavelength passes zero, an uncorrected heater is given its code. -/
theorem dacCode_of_zeroDither {c : Chip} {x : RingKey} {q : Nat} (hoff : c.rd (ringLoop x) ≠ loOFF) (hfenced : c.rd (ringLoop x) ≠ loFENCED) (hscale : c.scaleOf x.site = 0)
    (hq : (q + x.k) % 2 = 0) : c.dacCode x q = c.rd (ringHeater x) := by
  have code : c.rd (ringHeater x) < 2 ^ 16 := rd_lt c (ringHeater x)
  have up : (q + x.k) % 4 ≠ 1 := by omega
  have down : (q + x.k) % 4 ≠ 3 := by omega
  have within : clampCode 0 (c.rd (ringHeater x) : Int) = c.rd (ringHeater x) := by
    unfold clampCode
    omega
  unfold Chip.dacCode
  rw [if_neg (not_or.mpr ⟨hoff, hfenced⟩)]
  dsimp only
  rw [if_neg up, if_neg down, hscale, add_zero, add_zero, Int.mul_ediv_cancel _ (by decide), within]

end Sys2Proof.Machine
end

section
/-! The statement about lock-in loops (R90 to R94). -/

namespace Sys2Proof.Machine

theorem exec_loopVisit (site : Fin 24) (plane : Fin 42) (d : Fin 2) (k : Fin 40) (i p : BitVec 16) (s : State) :
    exec (.loopVisit site plane d k i p) s = .next (s.onChip (fun c => c.visit ⟨site.val, plane.val, d.val, k.val⟩ i.toInt p.toInt)) := rfl

theorem exec_ringLossOfLock (site : Fin 24) (plane : Fin 42) (d : Fin 2) (k : Fin 40) (s : State) :
    exec (.ringLossOfLock site plane d k) s = .next (s.onChip (fun c => c.ringLost ⟨site.val, plane.val, d.val, k.val⟩)) := rfl

theorem exec_acquireTimeout (site : Fin 24) (plane : Fin 42) (d : Fin 2) (k : Fin 40) (s : State) :
    exec (.acquireTimeout site plane d k) s = .next (s.onChip (fun c =>
      if c.rd (ringLoop ⟨site.val, plane.val, d.val, k.val⟩) = loSEARCH ∨ c.rd (ringLoop ⟨site.val, plane.val, d.val, k.val⟩) = loACQUIRE
      then c.ringFault ⟨site.val, plane.val, d.val, k.val⟩ (if c.fallbackMode then 0xA else 7) else c)) := rfl

/-- A locked ring's loss is its fault, with the code of its direction (R94). -/
theorem ringLost_of_locked {c : Chip} {site plane k : Nat} {d : Fin 2} (h : c.rd (ringLoop ⟨site, plane, d.val, k⟩) = loLOCKED) :
    c.ringLost ⟨site, plane, d.val, k⟩ = c.ringFault ⟨site, plane, d.val, k⟩ (if d = 0 then 3 else 4) := by
  have code : (if d.val = 0 then 3 else 4) = if d = 0 then 3 else 4 := by
    congr 1
    exact propext (Fin.ext_iff (b := 0)).symm
  unfold Chip.ringLost
  rw [if_pos h, code]

theorem ringLost_of_notLocked {c : Chip} {x : RingKey} (h : c.rd (ringLoop x) ≠ loLOCKED) : c.ringLost x = c := if_neg h

/-- The fault of a port ring fences its loop and then its lane (R210). -/
theorem ringFault_port {c : Chip} {x : RingKey} {code : Nat} (hport : x.isPort = true) (hheld : c.portFenceHeld x.port x.k (x.d == 1) code = false) :
    c.ringFault x code = (c.fenceLoop x).fencePort x.port x.k (x.d == 1) code := by
  simp only [Chip.ringFault, hport, hheld, if_true, Bool.false_eq_true, if_false]

/-- The fault of a plane's ring fences the ring and then the lane that it serves (R94). -/
theorem ringFault_plane {c : Chip} {x : RingKey} {code : Nat} {l : Nat × Nat × Nat} (hport : x.isPort = false) (hhold : 4 < code ∨ c.on R.OPF_STATUS_DETECT_HOLD = false)
    (hside : c.sideState x.side ≠ 3) (hlane : c.laneOfRing x = some l) (hheld : c.fenceHeld l.1 l.2.1 l.2.2 code = false)
    (hdark : (code == 0xA && c.laneDark l.1 l.2.1 l.2.2 && !c.ringDark x) = false) :
    c.ringFault x code = (c.fenceRing x.side x.k).fence l.1 l.2.1 l.2.2 code (x.d == 0) (x.d == 1) := by
  have notHeldOff : (decide (1 ≤ code) && decide (code ≤ 4) && c.on R.OPF_STATUS_DETECT_HOLD) = false := by
    rcases hhold with h | h
    · simp [Nat.not_le.mpr h]
    · simp [h]
  unfold Chip.ringFault
  simp only [hport, notHeldOff, hside, hlane, hheld, hdark, false_and, Bool.or_self, Bool.false_eq_true, if_false]

/-- Settles O7: the visits by the loop state that they find, the faults by the kind of ring. -/
theorem lockInLoopCommandsComplete : Obligations.LockInLoopCommandsComplete := by
  refine ⟨fun site plane d k i p s hlocked hsmall hend => ?_, fun site plane d k i p s hlocked hfar hbeyond => ?_, fun site plane d k i p s hacquire => ?_,
    fun site plane d k i p s hacquire hsmall hgood => ?_, fun site plane d k i p s hsearch => ?_, fun site plane d k i p s hother => ?_, fun site plane d k s hlocked => ?_,
    fun site plane d k s hruns => ?_, fun x code c hport hheld => ringFault_port hport hheld,
    fun x code l c hport hhold hside hlane hheld hdark => ringFault_plane hport hhold hside hlane hheld hdark, fun site plane d k s hidle => ?_,
    fun x q c h => dacCode_of_unpowered q h, fun x q c hoff hfenced hscale hq => dacCode_of_zeroDither hoff hfenced hscale hq⟩
  case _ =>
    refine completes_of_exec (exec_loopVisit ..) ?_
    obtain ⟨hheater, hloop, hdetune, hpower, hwords, hopf, hlanes⟩ := marked_steered s.chip ⟨site.val, plane.val, d.val, k.val⟩ i.toInt p.toInt
      (s.chip.detuneOf ⟨site.val, plane.val, d.val, k.val⟩ i.toInt)
    rw [State.onChip_chip, visit_locked_near hlocked hsmall hend]
    exact ⟨hheater, hloop.trans hlocked, hdetune, hpower, hwords, hopf, hlanes, rfl, rfl⟩
  case _ =>
    obtain ⟨-, hloop, hdetune, -, hwords, hopf, hlanes⟩ := marked_steered s.chip ⟨site.val, plane.val, d.val, k.val⟩ i.toInt p.toInt
      (s.chip.detuneOf ⟨site.val, plane.val, d.val, k.val⟩ i.toInt)
    refine completes_of_exec (exec_loopVisit ..) ⟨⟨rfl, rfl⟩, _, ?_, hdetune, hwords, hopf, hlanes⟩
    rw [State.onChip_chip, visit_locked_lost hlocked hfar hbeyond, ringLost_of_locked (hloop.trans hlocked)]
  case _ =>
    refine completes_of_exec (exec_loopVisit ..) ?_
    obtain ⟨hfields, hloop, hgood⟩ := visit_acquire_fields (i := i.toInt) (p := p.toInt) hacquire
    obtain ⟨-, hdetune, hpower⟩ := steered_ring s.chip ⟨site.val, plane.val, d.val, k.val⟩ i.toInt p.toInt
    exact ⟨(hfields _ (.inr (by simp [ringHeater]))).trans (rd_heater_steered ..), (hfields _ (.inl (by simp [ringDetune]))).trans hdetune,
      (hfields _ (.inl (by simp [ringPower]))).trans hpower, hloop, hgood, rfl, rfl⟩
  case _ =>
    refine completes_of_exec (exec_loopVisit ..) ?_
    obtain ⟨-, hloop, hcount⟩ := visit_acquire_fields (i := i.toInt) (p := p.toInt) hacquire
    have fourth : s.chip.goodVisits ⟨site.val, plane.val, d.val, k.val⟩ (s.chip.detuneOf ⟨site.val, plane.val, d.val, k.val⟩ i.toInt) = 4 := goodVisits_fourth hgood hsmall
    rw [fourth] at hloop hcount
    exact ⟨hloop, hcount, rfl, rfl⟩
  case _ =>
    refine completes_of_exec (exec_loopVisit ..) ?_
    rw [State.onChip_chip, visit_search hsearch]
    refine ⟨?_, ?_, ?_, ?_, best_meetPower .., rfl, rfl⟩
    · rw [rd_meetPower, rd_detune_measure]
      rfl
    · rw [rd_meetPower, rd_power_measure]
    · rw [rd_meetPower, rd_measure _ _ _ _ (by simp [ringHeater])]
    · rw [rd_meetPower, rd_measure _ _ _ _ (by simp [ringLoop]), hsearch]
  case _ =>
    refine completes_of_exec (exec_loopVisit ..) ?_
    rw [State.onChip_chip, visit_other hother]
    exact ⟨rd_detune_measure .., rd_power_measure .., rd_measure _ _ _ _ (by simp [ringHeater]), rd_measure _ _ _ _ (by simp [ringLoop]), rfl, rfl, rfl⟩
  case _ => exact completes_of_exec (exec_ringLossOfLock ..) ⟨ringLost_of_locked hlocked, rfl, rfl⟩
  case _ => exact completes_of_exec (exec_acquireTimeout ..) ⟨if_pos hruns, rfl, rfl⟩
  case _ =>
    simp only [List.mem_cons, List.not_mem_nil, or_false, not_or] at hidle
    obtain ⟨hlocked, hacquire, hsearch⟩ := hidle
    constructor
    · rw [exec_ringLossOfLock]
      simp only [State.onChip, ringLost_of_notLocked hlocked]
    · rw [exec_acquireTimeout]
      simp only [State.onChip, if_neg (not_or.mpr ⟨hsearch, hacquire⟩)]

end Sys2Proof.Machine
end

section
/-! A MANUAL trigger of a group whose rings are in Hold (R100). -/

namespace Sys2Proof.Machine

theorem exec_swatchReq (req : Requester) (site : Fin 24) (v : BitVec 32) (s : State) :
    exec (.swatchReq req site v) s = .next (s.onChip (fun c => c.writeReg req (R.TNS_SWATCH_REQ site.val) v.toNat (swatchReqHook site.val v.toNat))) := rfl

/-- GO for one group asks for its MANUAL trigger, which a group in Hold does not evaluate (TNS.GROUP_TRIG.DARK; log entry 157). -/
theorem swatchReqHook_of_dark {c : Chip} {s v : Nat} (hone : bitOf v 6 = false) (hdark : c.on (R.TNS_GROUP_TRIG_DARK s (fget v 5 0)) = true) :
    (swatchReqHook s v).effect c = c := by
  have manual : c.manualTrigger s (fget v 5 0) = c := if_pos hdark
  simp only [swatchReqHook, WriteHook.does, hone, manual, ite_self, Bool.false_eq_true, if_false]

/-- An accepted SWATCH_REQ for a group in Hold leaves the triggers of that group as they were. -/
theorem writeReg_swatchReq_of_dark {c : Chip} {req : Requester} {s v : Nat} (hacc : writeAccepted c req (R.TNS_SWATCH_REQ s)) (hone : bitOf v 6 = false)
    (hdark : c.on (R.TNS_GROUP_TRIG_DARK s (fget v 5 0)) = true) {f : FRef} (hf : f.off = R.TNS_GROUP_TRIG s (fget v 5 0)) :
    (c.writeReg req (R.TNS_SWATCH_REQ s) v (swatchReqHook s v)).rd f = c.rd f := by
  obtain ⟨hj, hs, he⟩ := hacc
  obtain ⟨d, hd, -, hwords⟩ := writeReg_does_words (v := v) (f := (swatchReqHook s v).effect) hj hs he
  have hgroup : fget v 5 0 < 64 := fget_lt v 5 0
  have notBookkeeping : ¬ bookkeeping (R.TNS_GROUP_TRIG s (fget v 5 0)) := by
    unfold bookkeeping
    grind
  have hword : d.word (R.TNS_GROUP_TRIG s (fget v 5 0)) = c.word (R.TNS_GROUP_TRIG s (fget v 5 0)) := hwords _ (by grind) notBookkeeping
  have hdark' : d.on (R.TNS_GROUP_TRIG_DARK s (fget v 5 0)) = true := by
    unfold Chip.on Chip.rd at hdark ⊢
    rw [hword]
    exact hdark
  have heffect : c.writeReg req (R.TNS_SWATCH_REQ s) v (swatchReqHook s v) = d := hd.trans (swatchReqHook_of_dark hone hdark')
  rw [heffect]
  unfold Chip.rd
  rw [hf, hword]

/-- A control unit holds the token, and group 2 of site 8 is in Hold without a pending calibration. -/
def groupInHold : State :=
  { State.reset with chip := (State.reset.chip.wr R.PCU_LEASE_STATUS_HOLDER 0).wr (R.TNS_GROUP_TRIG_DARK 8 2) 1 }

theorem writeAccepted_groupInHold : writeAccepted groupInHold.chip (.pcu 0) (R.TNS_SWATCH_REQ 8) := by
  unfold writeAccepted
  decide +kernel

theorem trig_groupInHold : groupInHold.chip.on (R.TNS_GROUP_TRIG_DARK 8 2) = true ∧ groupInHold.chip.rd ⟨R.TNS_GROUP_TRIG 8 2, 3, 3⟩ = 0 := by decide +kernel

/-- Refutes O8: the clause on SWATCH_REQ does not ask that the group's rings are out of Hold. In Hold no trigger of the group is evaluated (R100), and MANUAL stays 0. -/
theorem not_calibrationCommandsComplete : ¬ Obligations.CalibrationCommandsComplete := by
  rintro ⟨hreq, -⟩
  obtain ⟨hdark, hclear⟩ := trig_groupInHold
  obtain ⟨t, hexec, hset, -⟩ := hreq (.pcu 0) 8 0x80000002 groupInHold writeAccepted_groupInHold (by decide) (by decide) (by decide) rfl
  rw [exec_swatchReq] at hexec
  obtain rfl := Host.Outcome.next.inj hexec
  have hgroup : fget (0x80000002 : BitVec 32).toNat 5 0 = 2 := by decide
  have hkept := writeReg_swatchReq_of_dark (s := (8 : Fin 24).val) (v := (0x80000002 : BitVec 32).toNat) writeAccepted_groupInHold (by decide) (by rw [hgroup]; exact hdark)
    (f := ⟨R.TNS_GROUP_TRIG (8 : Fin 24).val (fget (0x80000002 : BitVec 32).toNat 5 0), 3, 3⟩) rfl
  rw [State.onChip_chip, hkept, hgroup] at hset
  exact absurd (hset.symm.trans hclear) (by decide)

end Sys2Proof.Machine
end

section
/-! What lies beside the registers of the edge ports and leaves them alone (R199 to R224). -/

namespace Sys2Proof.Machine

/-- The words of the registers of the edge ports; of every other word nothing. -/
def Chip.portWords (c : Chip) : Nat → Word := fun o => if 0x4000000 ≤ o ∧ o < 0x4400000 then c.word o else 0

section
variable {c d : Chip}

theorem rd_of_portWords (h : d.portWords = c.portWords) {f : FRef} (hf : 0x4000000 ≤ f.off ∧ f.off < 0x4400000) : d.rd f = c.rd f := by
  have words := congrFun h f.off
  simp only [Chip.portWords, hf, and_self, if_true] at words
  unfold Chip.rd
  rw [words]

theorem portWords_of_regs (h : d.regs = c.regs) : d.portWords = c.portWords := by
  unfold Chip.portWords
  simp only [word_congr h]

theorem Chip.wr_portWords (c : Chip) {f : FRef} (v : Nat) (h : f.off < 0x4000000 ∨ 0x4400000 ≤ f.off) : (c.wr f v).portWords = c.portWords := by
  funext o
  dsimp only [Chip.portWords]
  split
  · exact word_wr_of_ne (by omega)
  · rfl

end

section
variable (c : Chip)

theorem Chip.event_portWords (code : Nat) (t : Option Nat) (u : Nat) (a : List Nat) : (c.event code t u a).portWords = c.portWords := portWords_of_regs (Chip.event_regs ..)

theorem Chip.mcDiscard_portWords (st : Stitch) : (c.mcDiscard st).portWords = c.portWords := (Chip.event_portWords ..).trans (c.wr_portWords _ (by decide))

theorem Chip.send_portWords (site : Nat) (st : Stitch) : (c.send site st).portWords = c.portWords := by
  unfold Chip.send
  extract_lets
  split
  · exact c.wr_portWords _ (by decide)
  · split <;> rfl

theorem Chip.report_portWords (unit : Nat) (tenants : List Nat) (opclass opcode cause action : Nat) : (c.report unit tenants opclass opcode cause action).portWords = c.portWords := by
  have kind : unitKind unit < 16 := fget_lt unit 31 28
  unfold Chip.report
  extract_lets measured r d e f
  have numbered : e.portWords = c.portWords := d.wr_portWords _ (by decide)
  rw [Chip.event_portWords, ← numbered]
  unfold f
  split
  · exact e.wr_portWords _ (by grind)
  · rfl

theorem Chip.notice_portWords (subtype : Nat) (data : List Nat) : (c.notice subtype data).portWords = c.portWords := by
  unfold Chip.notice
  split
  · exact c.event_portWords ..
  · split
    · rfl
    · exact c.send_portWords ..

theorem Chip.portNotice_portWords (j : Nat) : (c.portNotice j).portWords = c.portWords := c.notice_portWords ..

theorem Chip.lightNotice_portWords : c.lightNotice.portWords = c.portWords := by
  unfold Chip.lightNotice
  exact Chip.notice_portWords ..

theorem Chip.onEdge_portWords (g : Edge → Edge) : (c.onEdge g).portWords = c.portWords := portWords_of_regs rfl

theorem Chip.onLanes_portWords (g : Lanes → Lanes) : (c.onLanes g).portWords = c.portWords := portWords_of_regs rfl

theorem Chip.requeuePort_portWords (j : Nat) : (c.requeuePort j).portWords = c.portWords := by
  unfold Chip.requeuePort
  extract_lets mine d e
  have freed : e.portWords = c.portWords := (each_keeps Chip.portWords (fun _ _ c => c.onEdge_portWords _) d).trans (c.onEdge_portWords _)
  rw [each_keeps Chip.portWords (fun x _ c => c.mcDiscard_portWords x.st) e, freed]

theorem Chip.setTimeState_portWords (st : Nat) : (c.setTimeState st).portWords = c.portWords := by
  unfold Chip.setTimeState
  extract_lets old
  split
  · rfl
  · exact (Chip.event_portWords ..).trans (c.wr_portWords _ (by decide))

theorem Chip.followEnd_portWords (e : TimeEnd) : (c.followEnd e).portWords = c.portWords :=
  (Chip.wr_portWords _ _ (by decide)).trans ((Chip.wr_portWords _ _ (by decide)).trans ((Chip.wr_portWords _ _ (by decide)).trans (c.wr_portWords _ (by decide))))

theorem Chip.parentLost_portWords : c.parentLost.portWords = c.portWords := by
  unfold Chip.parentLost
  split
  · exact (Chip.wr_portWords _ _ (by decide)).trans ((Chip.setTimeState_portWords ..).trans (c.followEnd_portWords _))
  · exact (Chip.setTimeState_portWords ..).trans (c.wr_portWords _ (by decide))

theorem Chip.timePortDown_portWords (j : Nat) : (c.timePortDown j).portWords = c.portWords := by
  unfold Chip.timePortDown
  extract_lets was d
  split
  · exact d.parentLost_portWords
  · rfl

theorem Chip.holdPortRx_portWords {j : Nat} (hj : j < 16) : (c.holdPortRx j).portWords = c.portWords := by
  refine each_keeps Chip.portWords (fun k hk c => ?_) c
  have lane : k < 40 := List.mem_range.mp hk
  dsimp only
  split
  · exact c.wr_portWords _ (by grind)
  · rfl

theorem Chip.reachAgain_portWords : c.reachAgain.portWords = c.portWords := by
  refine each_keeps Chip.portWords (fun n _ c => ?_) c
  split
  · exact c.wr_portWords _ (by grind)
  · rfl

theorem Chip.clearBooking_portWords {sites : List Nat} (h : ∀ s ∈ sites, s < 24) : (c.clearBooking sites).portWords = c.portWords :=
  each_keeps Chip.portWords (fun s hs c => have small := h s hs
    (Chip.wr_portWords _ _ (by grind)).trans (c.wr_portWords _ (by grind))) c

theorem Chip.clearPortTx_portWords (j : Nat) : (c.clearPortTx j).portWords = c.portWords := 
  each_keeps Chip.portWords (fun _ _ c => c.onLanes_portWords _) c

end

end Sys2Proof.Machine
end

section
/-! The registers of an edge port under the operations on its lanes (R209, R212, R214, R140). -/

namespace Sys2Proof.Machine

/-- A loop that meets an element once does to what it reads there what that step does. -/
theorem each_at {α β : Type} (g : Chip → β) (F : β → β) {f : Chip → α → Chip} {a : α} (hat : ∀ c, g (f c a) = F (g c)) (hbeside : ∀ b, b ≠ a → ∀ c, g (f c b) = g c) :
    ∀ {l : List α}, a ∈ l → l.Nodup → ∀ c : Chip, g (c.each l f) = F (g c)
  | b :: l, ha, hnodup, c => by
    obtain ⟨hb, hl⟩ := List.nodup_cons.mp hnodup
    change g ((f c b).each l f) = F (g c)
    by_cases hab : b = a
    · subst hab
      rw [each_keeps g (fun d hd c => hbeside d (fun e => hb (e ▸ hd)) c), hat]
    · rw [each_at g F hat hbeside ((List.mem_cons.mp ha).resolve_left (Ne.symm hab)) hl, hbeside b hab]

/-! The state and the reason of a port (EDGE.STATUS). -/

section
variable {c d : Chip} {j : Nat}

theorem rd_of_word {o : Nat} (h : d.word o = c.word o) (hi lo : Nat) : d.rd ⟨o, hi, lo⟩ = c.rd ⟨o, hi, lo⟩ := by
  unfold Chip.rd
  rw [h]

theorem word_of_portWords {o : Nat} (h : d.portWords = c.portWords) (ho : 0x4000000 ≤ o ∧ o < 0x4400000) : d.word o = c.word o := by
  have words := congrFun h o
  simpa only [Chip.portWords, ho, and_self, if_true] using words

theorem portUp_iff : c.portUp j = true ↔ c.rd (R.EDGE_STATUS_STATE j) = 2 := beq_iff_eq

theorem portUp_of_word (h : d.word (R.EDGE_STATUS j) = c.word (R.EDGE_STATUS j)) : d.portUp j = c.portUp j := congrArg (· == 2) (rd_of_word h 31 28)

theorem rd_setState (c : Chip) (j v : Nat) : (c.wr (R.EDGE_STATUS_STATE j) v).rd (R.EDGE_STATUS_STATE j) = v % 16 := rd_wr_self c v (by simp) (by simp)

end

/-! Light at a port and its loops (R209). -/

section
variable (c : Chip) (j : Nat)

theorem word_portLight (d l : Nat) {o : Nat} (h : o ≠ R.EDGE_LIGHT j) : (c.portLight j d l).word o = c.word o := (word_wr_of_ne h).trans (word_wr_of_ne h)

theorem rd_lightDataIn_portLight (d l : Nat) : (c.portLight j d l).rd (R.EDGE_LIGHT_DATA_IN j) = d % 65536 := by
  unfold Chip.portLight
  rw [rd_wr_apart _ _ (by simp) (by simp) (by simp), rd_wr_self _ _ (by simp) (by simp)]
  rfl

theorem rd_lightLoIn_portLight (d l : Nat) : (c.portLight j d l).rd (R.EDGE_LIGHT_LO_IN j) = l % 65536 := by
  unfold Chip.portLight
  rw [rd_wr_self _ _ (by simp) (by simp)]
  rfl

theorem word_holdLoops (hold : Bool) {o : Nat} (h : ∀ l, o ≠ R.EDGE_LANE_COH j l) : (c.holdLoops j hold).word o = c.word o :=
  each_keeps (fun c => c.word o) (fun l _ _ => word_wr_of_ne (h l)) c

theorem rd_hold_holdLoops (hold : Bool) {l : Nat} (hl : l < 40) : (c.holdLoops j hold).rd (R.EDGE_LANE_COH_HOLD j l) = b2n hold := by
  refine each_at (fun c => c.rd (R.EDGE_LANE_COH_HOLD j l)) (fun _ => b2n hold) (fun c => ?_) (fun b hb c => ?_) (List.mem_range.mpr hl) List.nodup_range c
  · rw [rd_wr_self _ _ (by simp) (by simp)]
    cases hold <;> rfl
  · exact rd_wr_of_ne (by simp; omega)

theorem rd_light_holdLoops (hold : Bool) (hi lo : Nat) : (c.holdLoops j hold).rd ⟨R.EDGE_LIGHT j, hi, lo⟩ = c.rd ⟨R.EDGE_LIGHT j, hi, lo⟩ :=
  rd_of_word (word_holdLoops c j hold (fun l => by grind)) hi lo

theorem portUp_portLight (d l : Nat) : (c.portLight j d l).portUp j = c.portUp j := portUp_of_word (word_portLight c j d l (by grind))

theorem portUp_holdLoops (hold : Bool) : (c.holdLoops j hold).portUp j = c.portUp j := portUp_of_word (word_holdLoops c j hold (fun l => by grind))

theorem portUp_onEdge (g : Edge → Edge) : (c.onEdge g).portUp j = c.portUp j := portUp_of_word (word_onEdge ..)

/-! The state of a port's lanes (EDGE.LANE_STATE). -/

@[simp] theorem portLaneRef_off (j l : Nat) (inc : Bool) : (portLaneRef j l inc).off = R.EDGE_LANE_STATE j l := by cases inc <;> rfl

theorem word_cancelEdgeInjections (lane : Nat → Bool) {o : Nat} (h : o ≠ R.EDGE_INJ_RESULT j) : (c.cancelEdgeInjections j lane).word o = c.word o := by
  unfold Chip.cancelEdgeInjections
  split
  · exact (word_wr_of_ne h).trans ((word_wr_of_ne h).trans (word_onEdge ..))
  · rfl

theorem word_setPortLane (l : Nat) (inc : Bool) (v : Nat) {o : Nat} (hinj : o ≠ R.EDGE_INJ_RESULT j) (hlane : o ≠ R.EDGE_LANE_STATE j l) :
    (c.setPortLane j l inc v).word o = c.word o := by
  unfold Chip.setPortLane
  rw [word_wr_of_ne (by rwa [portLaneRef_off])]
  split
  · rfl
  · exact word_cancelEdgeInjections c j _ hinj

theorem portLane_setPortLane (l : Nat) (inc : Bool) (v : Nat) : (c.setPortLane j l inc v).portLane j l inc = v % 16 := by
  cases inc <;> exact rd_wr_self _ _ (by simp [portLaneRef]) (by simp [portLaneRef])

/-- A lane's state is written for that lane and that direction alone. -/
theorem portLane_setPortLane_of_ne {l k : Nat} {inc dir : Bool} (v : Nat) (h : k ≠ l ∨ dir ≠ inc) : (c.setPortLane j l inc v).portLane j k dir = c.portLane j k dir := by
  have apart : ∀ d : Chip, (d.wr (portLaneRef j l inc) v).rd (portLaneRef j k dir) = d.rd (portLaneRef j k dir) := fun d => by
    by_cases hk : k = l
    · subst hk
      have other : dir ≠ inc := h.resolve_left (fun e => e rfl)
      cases dir <;> cases inc
      · exact absurd rfl other
      · exact rd_wr_apart d v (by simp [portLaneRef]) (by simp [portLaneRef]) (.inl (by simp [portLaneRef]))
      · exact rd_wr_apart d v (by simp [portLaneRef]) (by simp [portLaneRef]) (.inr (by simp [portLaneRef]))
      · exact absurd rfl other
    · exact rd_wr_of_ne (by simp; omega)
  unfold Chip.setPortLane Chip.portLane
  rw [apart]
  split
  · rfl
  · unfold Chip.rd
    rw [word_cancelEdgeInjections c j _ (by rw [portLaneRef_off]; grind)]

theorem setPortLane_circ (l : Nat) (inc : Bool) (v : Nat) : (c.setPortLane j l inc v).circ = c.circ := by
  unfold Chip.setPortLane Chip.cancelEdgeInjections
  split
  · rfl
  · split <;> rfl

/-- What no lane's state changes, a loop over both directions of the lanes that are not fenced leaves alone (R214, R219). -/
theorem eachLane_keeps {β : Type} (g : Chip → β) {j : Nat} (h : ∀ (c : Chip) (l : Nat) (inc : Bool) (v : Nat), g (c.setPortLane j l inc v) = g c) (v : Bool → Nat) (c : Chip) :
    g (c.each (List.range 40) (fun c l =>
      let put := fun (c : Chip) (inc : Bool) => if c.portLane j l inc = lsFENCED then c else c.setPortLane j l inc (v inc)
      put (put c true) false)) = g c := by
  refine each_keeps g (fun l _ c => ?_) c
  have put : ∀ (c : Chip) (inc : Bool), g (if c.portLane j l inc = lsFENCED then c else c.setPortLane j l inc (v inc)) = g c := fun c inc => by
    split
    · rfl
    · exact h c l inc _
  exact (put _ false).trans (put c true)

/-- No lane's state is in the register of the port's state. -/
theorem status_setPortLane (c : Chip) (l : Nat) (inc : Bool) (v : Nat) : (c.setPortLane j l inc v).word (R.EDGE_STATUS j) = c.word (R.EDGE_STATUS j) :=
  word_setPortLane c j l inc v (by grind) (by grind)

end

end Sys2Proof.Machine
end

section
/-! A port that goes down (R219, R220): what its registers hold after it. -/

namespace Sys2Proof.Machine

section
variable (c : Chip) (j : Nat)

/-! Tests and runs on a port. -/

theorem word_edgeRunLeaves (r : PatRun) (hr : r.site < 16) {o : Nat} (ho : 0x4000000 ≤ o ∧ o < 0x4400000) : (c.edgeRunLeaves r).word o = c.word o := by
  unfold Chip.edgeRunLeaves
  extract_lets d
  split
  · exact word_of_portWords (d.clearBooking_portWords (by simp; omega)) ho
  · rfl

theorem word_endEdgeTests (hj : j < 16) (l : Option Nat) {o : Nat} (ho : 0x4000000 ≤ o ∧ o < 0x4400000) (hpat : o ≠ R.EDGE_PAT_RESULT j) (hinj : o ≠ R.EDGE_INJ_RESULT j) :
    (c.endEdgeTests j l).word o = c.word o := by
  unfold Chip.endEdgeTests
  extract_lets d
  have ended : d.word o = c.word o := each_keeps (fun c => c.word o) (fun r hr c => by
    have mine : r.site = j := by
      have both := (List.mem_filter.mp hr).2
      simp only [Bool.and_eq_true, beq_iff_eq] at both
      exact both.1
    exact (word_wr_of_ne hpat).trans ((word_wr_of_ne hpat).trans (word_edgeRunLeaves c r (by omega) ho))) c
  rw [word_cancelEdgeInjections d j _ hinj, ended]

theorem endEdgeTests_circ (l : Option Nat) : (c.endEdgeTests j l).circ = c.circ := by
  unfold Chip.endEdgeTests
  extract_lets d
  have ended : d.circ = c.circ := each_keeps Chip.circ (fun r _ c => by
    unfold Chip.edgePatResult Chip.edgeRunLeaves
    extract_lets e
    change Chip.circ (if r.booked = true then e.clearBooking [18 + r.site / 4] else e) = c.circ
    split <;> rfl) c
  rw [← ended]
  unfold Chip.cancelEdgeInjections
  split <;> rfl

theorem requeuePort_circ : (c.requeuePort j).circ = c.circ := by
  unfold Chip.requeuePort
  extract_lets mine d e
  have freed : e.circ = d.circ := each_keeps Chip.circ (fun (x : PoolEntry) _ c => (rfl : (c.unuseCredit j (poolOf x.st)).circ = c.circ)) d
  rw [each_keeps Chip.circ (fun x _ c => ?_) e, freed]
  · rfl
  · exact Chip.event_circ ..

theorem cutPortRuns_of_noRuns {c : Chip} (hsrc : c.circ.src = []) (hdst : c.circ.dst = []) : c.cutPortRuns j = c := by
  simp [Chip.cutPortRuns, Chip.each, hsrc, hdst]

/-! The partner's record. -/

theorem word_recordComplete (d0 d1 : List Nat) {o : Nat} (ho : 0x4000000 ≤ o ∧ o < 0x4400000) (hcounts : o ≠ R.EDGE_COUNTS j) : (c.recordComplete j d0 d1).word o = c.word o := by
  unfold Chip.recordComplete
  extract_lets frames d sts entries e
  have cleared : d.word o = c.word o := (word_onEdge ..).trans (word_of_portWords (c.clearPortTx_portWords j) ho)
  have dropped : e.word o = d.word o := each_keeps (fun c => c.word o) (fun st _ c => word_of_portWords (c.mcDiscard_portWords st) ho) d
  exact (word_onEdge ..).trans ((word_wr_of_ne hcounts).trans (dropped.trans cleared))

theorem word_recordIfBoth {o : Nat} (ho : 0x4000000 ≤ o ∧ o < 0x4400000) (hcounts : o ≠ R.EDGE_COUNTS j) : (c.recordIfBoth j).word o = c.word o := by
  unfold Chip.recordIfBoth
  split
  · exact word_recordComplete c j _ _ ho hcounts
  · rfl

end

/-! The down itself. -/

/-- Whether a down holds the port, by its code or by the flap limit (R221). -/
def Chip.downHeld (c : Chip) (j code : Nat) : Bool :=
  code == 6 || code == 0xB || decide (c.rdPos (R.EDGE_CFG2_FLAP_MAX j) ≤ (c.edge.downs.filter (fun d => d.1 == j && decide (c.row < d.2 + rowsPerSecond))).length + 1)

theorem downHeld_iff {c : Chip} {j code : Nat} : c.downHeld j code = true ↔
    code = 6 ∨ code = 0xB ∨ c.rdPos (R.EDGE_CFG2_FLAP_MAX j) ≤ (c.edge.downs.filter (fun d => d.1 == j && decide (c.row < d.2 + rowsPerSecond))).length + 1 := by
  simp only [Chip.downHeld, Bool.or_eq_true, beq_iff_eq, decide_eq_true_eq, or_assoc]

/-- An Up port that goes down takes its state and its reason; with no runs under way nothing else of the down writes them. -/
theorem word_status_portDown {c : Chip} {j code : Nat} (hj : j < 16) (hup : c.portUp j = true) (hsrc : c.circ.src = []) (hdst : c.circ.dst = []) :
    (c.portDown j code).word (R.EDGE_STATUS j)
      = ((c.wr (R.EDGE_STATUS_STATE j) (if c.downHeld j code then 4 else 3)).wr (R.EDGE_STATUS_REASON j) code).word (R.EDGE_STATUS j) := by
  have port : 0x4000000 ≤ R.EDGE_STATUS j ∧ R.EDGE_STATUS j < 0x4400000 := by grind
  have up : c.rd (R.EDGE_STATUS_STATE j) = 2 := portUp_iff.mp hup
  unfold Chip.portDown
  extract_lets st _ wasUp dark last recent held counted lanesDown ended noted cut waits sent recorded dealt told toldHeld dimmed reported
  have notHeld : ¬(st = 4 ∨ st = 0 ∧ c.on (R.EDGE_CFG2_EN j) = true) := by simp [st, up]
  have notDown : ¬(st = 0 ∨ st ≠ 2 ∧ ¬(code = 6 ∨ code = 7 ∨ code = 0xB)) := by simp [st, up]
  rw [if_neg notHeld, if_neg notDown]
  have atLanes : lanesDown.word (R.EDGE_STATUS j) = counted.word (R.EDGE_STATUS j) :=
    eachLane_keeps (fun c => c.word (R.EDGE_STATUS j)) (status_setPortLane j) (fun inc => if dark && !inc then lsOFF else lsTRAIN) counted
  have lanesCirc : lanesDown.circ = c.circ :=
    eachLane_keeps Chip.circ (fun c l inc v => setPortLane_circ c j l inc v) (fun inc => if dark && !inc then lsOFF else lsTRAIN) counted
  have countedWord : counted.word (R.EDGE_STATUS j) = ((c.wr (R.EDGE_STATUS_STATE j) (if c.downHeld j code then 4 else 3)).wr (R.EDGE_STATUS_REASON j) code).word (R.EDGE_STATUS j) :=
    word_wr_of_ne (by grind)
  clear_value lanesDown
  have endedCirc : ended.circ = c.circ := (endEdgeTests_circ (lanesDown.wr (R.ROUTE_PORT_INFO_LEVEL j) 0) j none).trans lanesCirc
  have atEnd : ended.word (R.EDGE_STATUS j) = lanesDown.word (R.EDGE_STATUS j) := (word_endEdgeTests _ j hj none port (by grind) (by grind)).trans (word_wr_of_ne (by grind))
  have atNoted : noted.word (R.EDGE_STATUS j) = ended.word (R.EDGE_STATUS j) := word_onEdge ..
  have notedCirc : noted.circ = c.circ := endedCirc
  have requeuedCirc : (noted.requeuePort j).circ = c.circ := (requeuePort_circ noted j).trans notedCirc
  clear_value noted
  have cutWords : cut.portWords = noted.portWords := by
    unfold cut
    rw [cutPortRuns_of_noRuns j (by rw [requeuedCirc, hsrc]) (by rw [requeuedCirc, hdst]), Chip.timePortDown_portWords, Chip.requeuePort_portWords]
  have sentWords : sent.portWords = cut.portWords := by
    unfold sent
    split
    · exact (each_keeps Chip.portWords (fun part _ c => Chip.send_portWords ..) waits).trans (cut.onEdge_portWords _)
    · rfl
  have atRecord : recorded.word (R.EDGE_STATUS j) = sent.word (R.EDGE_STATUS j) := by
    unfold recorded
    split
    · exact word_recordIfBoth sent j port (by grind)
    · rfl
  have toldWords : toldHeld.portWords = recorded.portWords := by
    have first : told.portWords = recorded.portWords := (Chip.event_portWords ..).trans (portWords_of_regs rfl)
    unfold toldHeld
    split
    · exact (Chip.event_portWords ..).trans first
    · exact first
  have dimmedWords : dimmed.portWords = toldHeld.portWords := by
    unfold dimmed
    split
    · exact toldHeld.holdPortRx_portWords hj
    · rfl
  have reportedWords : reported.portWords = dimmed.portWords := by
    unfold reported
    split
    · exact Chip.report_portWords ..
    · rfl
  rw [word_of_portWords (((reported.portNotice_portWords j).trans reportedWords).trans (dimmedWords.trans toldWords)) port, atRecord,
    word_of_portWords (sentWords.trans cutWords) port]
  rw [atNoted, atEnd, atLanes, countedWord]

end Sys2Proof.Machine
end

section
/-! Ports that are held, released, asked to train and to depart (R214, R220, R221, R246). -/

namespace Sys2Proof.Machine

section
variable (c : Chip) (j : Nat)

/-! A port that is held (R214, R221). -/

theorem rd_state_holdPort (reason : Nat) : (c.holdPort j reason).rd (R.EDGE_STATUS_STATE j) = 4 := by
  unfold Chip.holdPort
  rw [rd_event, rd_wr_apart _ _ (by simp) (by simp) (by simp), rd_setState]

theorem rd_reason_holdPort (reason : Nat) : (c.holdPort j reason).rd (R.EDGE_STATUS_REASON j) = reason % 16 := by
  unfold Chip.holdPort
  rw [rd_event]
  exact rd_wr_self _ _ (by simp) (by simp)

theorem word_holdPort (reason : Nat) {o : Nat} (h : o ≠ R.EDGE_STATUS j) : (c.holdPort j reason).word o = c.word o := by
  unfold Chip.holdPort
  rw [word_event, word_wr_of_ne h, word_wr_of_ne h]

/-! A down of an Up port, by its fields (R220). -/

section
variable {c j}

theorem rd_reason_portDown {code : Nat} (hj : j < 16) (hcode : code < 16) (hup : c.portUp j = true) (hsrc : c.circ.src = []) (hdst : c.circ.dst = []) :
    (c.portDown j code).rd (R.EDGE_STATUS_REASON j) = code := by
  rw [rd_of_word (word_status_portDown hj hup hsrc hdst) 27 24]
  exact (rd_wr_self _ _ (by simp) (by simp)).trans (Nat.mod_eq_of_lt hcode)

theorem rd_state_portDown {code : Nat} (hj : j < 16) (hup : c.portUp j = true) (hsrc : c.circ.src = []) (hdst : c.circ.dst = []) :
    (c.portDown j code).rd (R.EDGE_STATUS_STATE j) = if c.downHeld j code then 4 else 3 := by
  rw [rd_of_word (word_status_portDown hj hup hsrc hdst) 31 28, rd_wr_apart _ _ (by simp) (by simp) (by simp), rd_setState]
  split <;> rfl

end

/-! A record that does not come (R220). -/

theorem recordLost_of_noFrames {c : Chip} (h : ∀ l < 40, c.heldOn j l none = []) :
    c.recordLost j = (c.clearPortTx j).onEdge (fun e => { e with waiting := delKey j e.waiting, record := e.record.filter (fun r => r.1.1 != j) }) := by
  have held : (List.range 40).flatMap (fun l => (c.heldOn j l none).filter (fun f => f.ftype == ftSTITCH)) = [] :=
    List.flatMap_eq_nil_iff.mpr (fun l hl => by rw [h l (List.mem_range.mp hl), List.filter_nil])
  unfold Chip.recordLost
  rw [held]
  rfl

theorem clearPortTx_keeps {β : Type} (g : Chip → β) (h : ∀ (c : Chip) (f : Lanes → Lanes), g (c.onLanes f) = g c) : g (c.clearPortTx j) = g c :=
  each_keeps g (fun _ _ c => h c _) c

/-! A write of EDGE.CTRL (R221, R246). -/

theorem findReg_edgeCtrl : ∀ j : Fin 16, ((findReg (R.EDGE_CTRL j.val)).all (fun x => x.1.blk != .lane)) = true := by decide +kernel

/-- An accepted write of EDGE.CTRL has its effect on a package that differs in registers, held writes and captured events alone, and not in the port's state. -/
theorem edgeCtrl_accepted {c : Chip} {req : Requester} {j v : Nat} (hj : j < 16) (hacc : writeAccepted c req (R.EDGE_CTRL j)) :
    ∃ d, c.writeReg req (R.EDGE_CTRL j) v (edgeCtrlHook j v) = (edgeCtrlHook j v).effect d ∧ c.sameButRegs d ∧ d.word (R.EDGE_STATUS j) = c.word (R.EDGE_STATUS j) := by
  obtain ⟨hjudge, -, -⟩ := id hacc
  obtain ⟨r, is, hf⟩ := findReg_of_judge_ok hjudge
  have blk : r.blk ≠ .lane := by
    have all := findReg_edgeCtrl ⟨j, hj⟩
    simpa [hf] using all
  have gated : ∀ old, (c.recordGated req r (R.EDGE_CTRL j) old v).word (R.EDGE_STATUS j) = c.word (R.EDGE_STATUS j) := fun old => by
    unfold Chip.recordGated
    split
    · rfl
    · exact (word_event ..).trans (word_wr_of_ne (by grind))
    · exact (word_event ..).trans (word_wr_of_ne (by grind))
  refine ⟨(c.recordGated req r (R.EDGE_CTRL j) (c.word (R.EDGE_CTRL j)).toNat v).store r is (R.EDGE_CTRL j) v, ?_, ?_, ?_⟩
  · rw [writeReg_of_accepted v _ hacc, Chip.acceptWrite, hf]
    rfl
  · exact sameButRegs_each (fun d a h => sameButRegs_storeField _ _ _ _ _ _ h) _ _ (sameButRegs_recordGated c req r _ _ v)
  · refine (each_keeps (fun c => c.word (R.EDGE_STATUS j)) (fun f _ c => word_storeField_of_ne blk ?_) _).trans (gated _)
    simp
    grind

/-- RETRAIN of a held port whose engine has not failed lets it train (R221). -/
theorem edgeCtrl_retrain {c : Chip} {j v : Nat} (hretrain : bitOf v 31 = true) (hdown : bitOf v 30 = false) (hheld : c.rd (R.EDGE_STATUS_STATE j) = 4) (hengine : c.edge.engineFailed = []) :
    (edgeCtrlHook j v).effect c = (c.wr (R.EDGE_STATUS_STATE j) 3).onEdge (fun e => { e with
      restarts := delKey j e.restarts, departing := e.departing.filter (fun d => d.port != j || !d.single), dark := e.dark.filter (fun d => d != j) }) := by
  simp [edgeCtrlHook, WriteHook.does, hretrain, hdown, hheld, hengine]

/-- DOWN of an Up port departs (R246). -/
theorem edgeCtrl_down {c : Chip} {j v : Nat} (hretrain : bitOf v 31 = false) (hdown : bitOf v 30 = true) (hup : c.portUp j = true) : (edgeCtrlHook j v).effect c = c.depart j 4 true := by
  simp [edgeCtrlHook, WriteHook.does, hretrain, hdown, hup]

/-! A departure (R246). -/

theorem requeuePort_departing : (c.requeuePort j).edge.departing = c.edge.departing := by
  unfold Chip.requeuePort
  extract_lets mine d e
  have freed : e.edge.departing = d.edge.departing := each_keeps (fun c => c.edge.departing) (fun (x : PoolEntry) _ c => (rfl : (c.unuseCredit j (poolOf x.st)).edge.departing = c.edge.departing)) d
  refine (each_keeps (fun c => c.edge.departing) (fun (x : PoolEntry) _ c => ?_) e).trans freed
  exact congrArg Edge.departing (Chip.event_edge ..)

theorem portOpen_portUp {c : Chip} {j : Nat} (h : c.portOpen j = true) : c.portUp j = true := (Bool.and_eq_true .. ▸ h).1

theorem departing_depart {c : Chip} {j : Nat} (h : c.portOpen j = true) (reason : Nat) (single : Bool) :
    (c.depart j reason single).edge.departing = c.edge.departing ++ [⟨j, c.row + 64, single⟩] := by
  unfold Chip.depart
  rw [if_pos h]
  exact requeuePort_departing ..

theorem portWords_depart (reason : Nat) (single : Bool) : (c.depart j reason single).portWords = c.portWords := by
  unfold Chip.depart
  split
  · exact (Chip.onEdge_portWords ..).trans ((Chip.onEdge_portWords ..).trans ((Chip.requeuePort_portWords ..).trans (Chip.onEdge_portWords ..)))
  · rfl

/-- At the dark row every transmitter of the port that is not fenced goes dark. -/
theorem portLane_darkRow {l : Nat} (hl : l < 40) :
    (c.each (List.range 40) (fun c l => if c.portLane j l false = lsFENCED then c else c.setPortLane j l false lsOFF)).portLane j l false
      = if c.portLane j l false = lsFENCED then lsFENCED else lsOFF := by
  refine each_at (fun c => c.portLane j l false) (fun x => if x = lsFENCED then lsFENCED else lsOFF) (fun c => ?_) (fun b hb c => ?_) (List.mem_range.mpr hl) List.nodup_range c
  · split
    · assumption
    · exact portLane_setPortLane ..
  · split
    · rfl
    · exact portLane_setPortLane_of_ne _ _ _ (.inl (Ne.symm hb))

theorem setPortLane_departing (l : Nat) (inc : Bool) (v : Nat) : (c.setPortLane j l inc v).edge.departing = c.edge.departing ∧ (c.setPortLane j l inc v).edge.dark = c.edge.dark := by
  unfold Chip.setPortLane Chip.cancelEdgeInjections
  split
  · exact ⟨rfl, rfl⟩
  · split <;> exact ⟨rfl, rfl⟩

/-- A transmitter that goes dark leaves the records of departures. -/
theorem darkLane_departing (l : Nat) : (if c.portLane j l false = lsFENCED then c else c.setPortLane j l false lsOFF).edge.departing = c.edge.departing
    ∧ (if c.portLane j l false = lsFENCED then c else c.setPortLane j l false lsOFF).edge.dark = c.edge.dark := by
  split
  · exact ⟨rfl, rfl⟩
  · exact setPortLane_departing c j l false lsOFF

end

end Sys2Proof.Machine
end

section
/-! Training of a port (R214). -/

namespace Sys2Proof.Machine

section
variable (c : Chip) (j : Nat)

theorem setPortLane_cycles (l : Nat) (inc : Bool) (v : Nat) : (c.setPortLane j l inc v).cycles = c.cycles := by
  unfold Chip.setPortLane Chip.cancelEdgeInjections
  split
  · rfl
  · split <;> rfl

theorem beginSearch_cycles (l : List RingKey) : (c.beginSearch l).cycles = c.cycles := by
  unfold Chip.beginSearch
  exact each_keeps Chip.cycles (fun x _ c => (rfl : (c.wr (ringLoop x) loSEARCH).cycles = c.cycles)) _

theorem holdLoops_cycles (hold : Bool) : (c.holdLoops j hold).cycles = c.cycles :=
  each_keeps Chip.cycles (fun l _ c => (rfl : (c.wr (R.EDGE_LANE_COH_HOLD j l) (b2n hold)).cycles = c.cycles)) c

/-- Training ends in the port's state, and the row and the cycle at which it began. -/
theorem startTraining_fields : (c.startTraining j).rd (R.EDGE_STATUS_STATE j) = 1 ∧ getKey j (c.startTraining j).edge.training = some c.cycles := by
  unfold Chip.startTraining
  extract_lets lanesUp counted rings searching
  have atLanes : lanesUp.cycles = c.cycles := eachLane_keeps Chip.cycles (setPortLane_cycles · j) (fun _ => lsTRAIN) c
  have atCounts : counted.cycles = lanesUp.cycles := each_keeps Chip.cycles (fun l _ c => (rfl : (c.setRx (24 + j, 0, l) { c.linkRx (24 + j, 0, l) with goodMarkers := 0, goodTrain := 0, badMarkers := 0 }).cycles = c.cycles)) lanesUp
  have atSearch : searching.cycles = counted.cycles := (holdLoops_cycles _ j false).trans (beginSearch_cycles counted rings)
  have now : searching.cycles = c.cycles := atSearch.trans (atCounts.trans atLanes)
  clear_value searching
  refine ⟨(rd_onEdge ..).trans (rd_setState ..), ?_⟩
  rw [← now]
  exact getKey_putKey_self ..

end

end Sys2Proof.Machine
end

section
/-! A port that comes Up (R214, R228, R247). -/

namespace Sys2Proof.Machine

/-- What every step of a loop keeps, the loop keeps. -/
theorem each_inv {α : Type} {P : Chip → Prop} {f : Chip → α → Chip} : ∀ {l : List α}, (∀ a ∈ l, ∀ c, P c → P (f c a)) → ∀ c : Chip, P c → P (c.each l f)
  | [], _, _, h => h
  | a :: _, hf, c, h => each_inv (fun b hb => hf b (List.mem_cons_of_mem a hb)) (f c a) (hf a List.mem_cons_self c h)

/-! The partner that training names. -/

/-- The partner of a port, as training names it (EDGE.PARTNER). -/
def Chip.namePartner (c : Chip) (j node site port : Nat) : Chip :=
  (((c.wr (R.EDGE_PARTNER_NODE j) node).wr (R.EDGE_PARTNER_SITE j) site).wr (R.EDGE_PARTNER_PORT j) port).wr (R.EDGE_PARTNER_VALID j) 1

/-- A port that meets another partner than before takes a new agreement for runs (R197, R224). -/
def Chip.meetPartner (c : Chip) (j node port : Nat) : Chip :=
  if c.partnerNode j == node && c.rd (R.EDGE_PARTNER_PORT j) == port then c else c.onCirc (fun x => { x with matched := x.matched.filter (fun i => i != j) })

section
variable (c : Chip) (j node site port : Nat)

theorem meetPartner_regs : (c.meetPartner j node port).regs = c.regs ∧ (c.meetPartner j node port).edge = c.edge := by
  unfold Chip.meetPartner
  split <;> exact ⟨rfl, rfl⟩

theorem rd_node_namePartner : (c.namePartner j node site port).rd (R.EDGE_PARTNER_NODE j) = node % 4096 := by
  unfold Chip.namePartner
  rw [rd_wr_apart _ _ (by simp) (by simp) (by simp), rd_wr_apart _ _ (by simp) (by simp) (by simp), rd_wr_apart _ _ (by simp) (by simp) (by simp)]
  exact rd_wr_self _ _ (by simp) (by simp)

theorem rd_port_namePartner : (c.namePartner j node site port).rd (R.EDGE_PARTNER_PORT j) = port % 16 := by
  unfold Chip.namePartner
  rw [rd_wr_apart _ _ (by simp) (by simp) (by simp)]
  exact rd_wr_self _ _ (by simp) (by simp)

theorem rd_valid_namePartner : (c.namePartner j node site port).rd (R.EDGE_PARTNER_VALID j) = 1 := by
  unfold Chip.namePartner
  exact rd_wr_self _ _ (by simp) (by simp)

theorem word_namePartner {o : Nat} (h : o ≠ R.EDGE_PARTNER j) : (c.namePartner j node site port).word o = c.word o := by
  unfold Chip.namePartner
  rw [word_wr_of_ne h, word_wr_of_ne h, word_wr_of_ne h, word_wr_of_ne h]

end

/-! A port none of whose lanes is fenced. -/

/-- No lane and no spare of a port is fenced, and no data lane carries a control stream (R212, R213). -/
def Chip.unfenced (c : Chip) (j : Nat) : Prop :=
  (∀ l < 40, ∀ inc, c.portLane j l inc ≠ lsFENCED) ∧ (∀ n < 3, ∀ inc, c.rd (spareStateRef j inc n) ≠ 3) ∧ c.edge.ctrlOn = []

section
variable {c d : Chip} {j : Nat}

/-- Which lanes and spares are fenced is read in their own registers. -/
theorem unfenced_of_words (h : c.unfenced j) (hlanes : ∀ l < 40, d.word (R.EDGE_LANE_STATE j l) = c.word (R.EDGE_LANE_STATE j l))
    (hspares : ∀ inc, d.word (spareReg j inc) = c.word (spareReg j inc)) (hctrl : d.edge.ctrlOn = c.edge.ctrlOn) : d.unfenced j := by
  obtain ⟨lanes, spares, ctrl⟩ := h
  refine ⟨fun l hl inc => ?_, fun n hn inc => ?_, hctrl.trans ctrl⟩
  · have same : d.portLane j l inc = c.portLane j l inc := by
      unfold Chip.portLane Chip.rd
      rw [portLaneRef_off, hlanes l hl]
    rw [same]
    exact lanes l hl inc
  · have same : d.rd (spareStateRef j inc n) = c.rd (spareStateRef j inc n) := rd_of_word (hspares inc) _ _
    rw [same]
    exact spares n hn inc

theorem unfenced_of_portWords (hj : j < 16) (h : c.unfenced j) (hwords : d.portWords = c.portWords) (hctrl : d.edge.ctrlOn = c.edge.ctrlOn) : d.unfenced j :=
  unfenced_of_words h (fun l hl => word_of_portWords hwords (by grind)) (fun inc => word_of_portWords hwords (by cases inc <;> grind [spareReg])) hctrl

theorem unfenced_setPortLane (h : c.unfenced j) (l : Nat) (inc : Bool) {v : Nat} (hv : v % 16 ≠ lsFENCED) : (c.setPortLane j l inc v).unfenced j := by
  obtain ⟨lanes, spares, ctrl⟩ := h
  refine ⟨fun k hk dir => ?_, fun n hn dir => ?_, ?_⟩
  · by_cases hkl : k = l ∧ dir = inc
    · rw [hkl.1, hkl.2, portLane_setPortLane]
      exact hv
    · rw [portLane_setPortLane_of_ne c j v (by tauto)]
      exact lanes k hk dir
  · have same : (c.setPortLane j l inc v).rd (spareStateRef j dir n) = c.rd (spareStateRef j dir n) :=
      rd_of_word (word_setPortLane c j l inc v (by cases dir <;> grind [spareReg]) (by cases dir <;> grind [spareReg])) _ _
    rw [same]
    exact spares n hn dir
  · rw [← ctrl]
    unfold Chip.setPortLane Chip.cancelEdgeInjections
    split
    · rfl
    · split <;> rfl

/-- A spare that takes another state than Fenced. -/
theorem unfenced_setSpare (h : c.unfenced j) {n : Nat} (hn : n < 3) (inc : Bool) {v : Nat} (lane : Nat) (hv : v % 4 ≠ 3) : (c.setSpare j inc n v lane).unfenced j := by
  obtain ⟨lanes, spares, ctrl⟩ := h
  refine ⟨fun k hk dir => ?_, fun m hm dir => ?_, ctrl⟩
  · have same : (c.setSpare j inc n v lane).portLane j k dir = c.portLane j k dir := by
      have beside : (portLaneRef j k dir).off ≠ spareReg j inc := by
        rw [portLaneRef_off]
        cases inc <;> grind [spareReg]
      exact (rd_wr_of_ne beside).trans (rd_wr_of_ne beside)
    rw [same]
    exact lanes k hk dir
  · have lanePart : (c.setSpare j inc n v lane).rd (spareStateRef j dir m) = (c.wr (spareStateRef j inc n) v).rd (spareStateRef j dir m) :=
      rd_wr_apart _ _ (by simp [spareLaneRef]) (by simp [spareLaneRef]; omega) (by simp [spareLaneRef, spareStateRef]; omega)
    rw [lanePart]
    by_cases hmn : m = n ∧ dir = inc
    · obtain ⟨rfl, rfl⟩ := hmn
      rw [rd_wr_self _ _ (by simp [spareStateRef]) (by simp [spareStateRef]; omega)]
      simpa [spareStateRef, show 10 * m + 7 + 1 - (10 * m + 6) = 2 by omega] using hv
    · have other : (c.wr (spareStateRef j inc n) v).rd (spareStateRef j dir m) = c.rd (spareStateRef j dir m) := by
        by_cases hdir : dir = inc
        · have apart : m ≠ n := fun e => hmn ⟨e, hdir⟩
          exact rd_wr_apart _ _ (by simp [spareStateRef]) (by simp [spareStateRef]; omega) (by simp [spareStateRef]; omega)
        · exact rd_wr_of_ne (by cases dir <;> cases inc <;> simp_all [spareStateRef, spareReg])
      rw [other]
      exact spares m hm dir

theorem portOnRef_bits (j l : Nat) (inc : Bool) : (portOnRef j l inc).off = R.EDGE_LANE_STATE j l ∧ (portOnRef j l inc).lo ≤ (portOnRef j l inc).hi ∧ (portOnRef j l inc).hi < 24 := by
  cases inc <;> simp [portOnRef]

/-- The carrier of a lane is another field than its state. -/
theorem unfenced_setCarrier (h : c.unfenced j) (l : Nat) (inc : Bool) (v : Nat) : (c.wr (portOnRef j l inc) v).unfenced j := by
  obtain ⟨lanes, spares, ctrl⟩ := h
  obtain ⟨hoff, horder, hhi⟩ := portOnRef_bits j l inc
  refine ⟨fun k hk dir => ?_, fun n hn dir => ?_, ctrl⟩
  · have same : (c.wr (portOnRef j l inc) v).portLane j k dir = c.portLane j k dir :=
      rd_wr_apart c v horder (by omega) (.inl (by cases dir <;> simp [portLaneRef] <;> omega))
    rw [same]
    exact lanes k hk dir
  · have same : (c.wr (portOnRef j l inc) v).rd (spareStateRef j dir n) = c.rd (spareStateRef j dir n) :=
      rd_wr_of_ne (by rw [hoff]; cases dir <;> grind [spareStateRef, spareReg])
    rw [same]
    exact spares n hn dir

/-! Sparing after training. -/

/-- What the sparing of a port without fences writes: neither the port's state nor its partner. -/
theorem sparesAtTraining_unfenced {o : Nat} (ho : o = R.EDGE_STATUS j ∨ o = R.EDGE_PARTNER j) (h : c.unfenced j) (inc : Bool) :
    (c.sparesAtTraining j inc).unfenced j ∧ (c.sparesAtTraining j inc).word o = c.word o := by
  have beside : o ≠ R.EDGE_INJ_RESULT j ∧ (∀ l, o ≠ R.EDGE_LANE_STATE j l) ∧ o ≠ spareReg j inc := by
    rcases ho with rfl | rfl <;> cases inc <;> grind [spareReg]
  obtain ⟨hinj, hlane, hspare⟩ := beside
  unfold Chip.sparesAtTraining
  extract_lets idle carried took freed
  have atIdle : idle.unfenced j ∧ idle.word o = c.word o := by
    refine each_inv (P := fun d => d.unfenced j ∧ d.word o = c.word o) (fun n hn d hd => ?_) c ⟨h, rfl⟩
    obtain ⟨hd, hword⟩ := hd
    have three : n < 3 := List.mem_range.mp hn
    obtain ⟨lanes, spares, -⟩ := id hd
    have good : (d.portLane j (36 + n) inc == lsFENCED || d.rd (spareStateRef j inc n) == 3) = false := by simp [lanes (36 + n) (by omega) inc, spares n three inc]
    simp only [good, Bool.false_eq_true, if_false]
    refine ⟨unfenced_setPortLane (unfenced_setSpare hd three inc _ (by decide)) _ inc (by decide), ?_⟩
    rw [word_setPortLane _ j _ inc _ hinj (hlane _)]
    exact (word_wr_of_ne hspare).trans ((word_wr_of_ne hspare).trans hword)
  clear_value idle
  have atCarried : carried.unfenced j ∧ carried.word o = c.word o := by
    refine each_inv (P := fun d => d.unfenced j ∧ d.word o = c.word o) (fun l hl d hd => ?_) idle atIdle
    obtain ⟨hd, hword⟩ := hd
    have forty : l < 40 := by
      simp only [List.mem_append, List.mem_range, List.mem_singleton] at hl
      omega
    have put := unfenced_setCarrier hd l inc l
    simp only [ne_eq, put.1 l forty inc, not_false_eq_true, if_true]
    refine ⟨unfenced_setPortLane put l inc (by decide), ?_⟩
    rw [word_setPortLane _ j l inc _ hinj (hlane l)]
    exact (word_wr_of_ne (by rw [(portOnRef_bits j l inc).1]; exact hlane l)).trans hword
  have noneTaken : took = [] := by simp [took, atCarried.1.2.2]
  have atFreed : freed = carried := by
    unfold freed
    rw [noneTaken]
    rfl
  rw [atFreed, if_neg (atCarried.1.1 39 (by decide) inc)]
  exact atCarried

/-! The lanes in service of a port without fences are all its data lanes (R213, R218). -/

theorem lanesIn_of_unfenced (h : c.unfenced j) (inc : Bool) : c.lanesIn j inc = 36 := by
  obtain ⟨lanes, -, ctrl⟩ := h
  have service : ∀ l ∈ List.range 36, c.dataInService j l inc = true := fun l hl => by
    have data : l < 36 := List.mem_range.mp hl
    simp [Chip.dataInService, data, lanes l (by omega) inc, ctrl]
  unfold Chip.lanesIn
  rw [List.filter_eq_self.mpr service, List.length_range]

theorem checkMinLanes_of_unfenced (h : c.unfenced j) : c.checkMinLanes j = c := by
  have least : c.minLanes j ≤ 36 := Nat.min_le_left ..
  unfold Chip.checkMinLanes
  rw [lanesIn_of_unfenced h, lanesIn_of_unfenced h, if_neg (by omega)]

/-! Notices leave the records of the ports. -/

theorem send_edge (c : Chip) (site : Nat) (st : Stitch) : (c.send site st).edge = c.edge := by
  unfold Chip.send
  extract_lets
  split
  · rfl
  · split <;> rfl

theorem notice_edge (c : Chip) (subtype : Nat) (data : List Nat) : (c.notice subtype data).edge = c.edge := by
  unfold Chip.notice
  split
  · exact Chip.event_edge ..
  · split
    · rfl
    · exact send_edge ..

theorem lightNotice_edge (c : Chip) : c.lightNotice.edge = c.edge := by
  unfold Chip.lightNotice
  exact notice_edge ..

theorem reachAgain_edge (c : Chip) : c.reachAgain.edge = c.edge := by
  refine each_keeps Chip.edge (fun n _ c => ?_) c
  split <;> rfl

/-! What is left of coming Up once the partner is known. -/

/-- A port with a good partner comes Up: fresh links, the sparing of training, its state, the event and the notices, and the packages that it reaches (R214, R240, R245). -/
def Chip.takeUp (c : Chip) (j node port level : Nat) : Chip :=
  let c := (((c.freshLinks j).sparesAtTraining j true).sparesAtTraining j false)
  let c := (c.wr (R.EDGE_STATUS_STATE j) 2).wr (R.ROUTE_PORT_INFO_LEVEL j) level
  let c := (c.event Ev.portUp none (Unit.port j) [node, port, c.row]).portNotice j
  let c := if c.light.heldNotice then (c.setLight (fun l => { l with heldNotice := false })).lightNotice else c
  (c.reachAgain.detourRecheck).checkMinLanes j

theorem unfenced_freshLinks (h : c.unfenced j) : (c.freshLinks j).unfenced j :=
  unfenced_of_words h (fun _ _ => word_congr rfl _) (fun _ => word_congr rfl _) rfl

/-- The sparing of training of a port without fences leaves it so, and its partner. -/
theorem spared_takeUp (h : c.unfenced j) : (((c.freshLinks j).sparesAtTraining j true).sparesAtTraining j false).unfenced j
    ∧ (((c.freshLinks j).sparesAtTraining j true).sparesAtTraining j false).word (R.EDGE_PARTNER j) = c.word (R.EDGE_PARTNER j) := by
  obtain ⟨incoming, incomingPartner⟩ := sparesAtTraining_unfenced (.inr rfl) (unfenced_freshLinks h) true
  obtain ⟨outgoing, outgoingPartner⟩ := sparesAtTraining_unfenced (.inr rfl) incoming false
  exact ⟨outgoing, outgoingPartner.trans (incomingPartner.trans (word_congr rfl _))⟩

/-- Of the port registers, what follows the port's own state in coming Up changes none; nor the data lanes that carry control. -/
theorem takeUp_unfenced (node port level : Nat) (hj : j < 16) (h : c.unfenced j) :
    (c.takeUp j node port level).rd (R.EDGE_STATUS_STATE j) = 2 ∧ (c.takeUp j node port level).word (R.EDGE_PARTNER j) = c.word (R.EDGE_PARTNER j) := by
  obtain ⟨sparedOpen, sparedPartner⟩ := spared_takeUp h
  unfold Chip.takeUp
  extract_lets spared stated told noticed
  change spared.unfenced j at sparedOpen
  change spared.word _ = _ at sparedPartner
  clear_value spared
  have statedWords : stated.portWords = (spared.wr (R.EDGE_STATUS_STATE j) 2).portWords := Chip.wr_portWords _ _ (by grind)
  have statedEdge : stated.edge = spared.edge := rfl
  clear_value stated
  have toldWords : told.portWords = stated.portWords := (Chip.portNotice_portWords ..).trans (Chip.event_portWords ..)
  have toldEdge : told.edge = stated.edge := (notice_edge ..).trans (Chip.event_edge ..)
  clear_value told
  have noticedSame : noticed.portWords = told.portWords ∧ noticed.edge = told.edge := by
    unfold noticed
    split
    · exact ⟨(Chip.lightNotice_portWords _).trans (portWords_of_regs rfl), lightNotice_edge _⟩
    · exact ⟨rfl, rfl⟩
  clear_value noticed
  have finalWords : noticed.reachAgain.detourRecheck.portWords = (spared.wr (R.EDGE_STATUS_STATE j) 2).portWords :=
    (Chip.onEdge_portWords ..).trans ((Chip.reachAgain_portWords _).trans (noticedSame.1.trans (toldWords.trans statedWords)))
  have finalCtrl : noticed.reachAgain.detourRecheck.edge.ctrlOn = (spared.wr (R.EDGE_STATUS_STATE j) 2).edge.ctrlOn := by
    change noticed.reachAgain.edge.ctrlOn = spared.edge.ctrlOn
    rw [reachAgain_edge, noticedSame.2, toldEdge, statedEdge]
  have statedOpen : (spared.wr (R.EDGE_STATUS_STATE j) 2).unfenced j :=
    unfenced_of_words sparedOpen (fun l _ => word_wr_of_ne (by grind)) (fun inc => word_wr_of_ne (by cases inc <;> grind [spareReg])) rfl
  rw [checkMinLanes_of_unfenced (unfenced_of_portWords hj statedOpen finalWords finalCtrl)]
  refine ⟨?_, ?_⟩
  · rw [rd_of_portWords finalWords (by grind), rd_setState]
  · rw [word_of_portWords finalWords (by grind), word_wr_of_ne (by grind), sparedPartner]

/-! The two ends of training. -/

section
variable {node site port mx mn : Nat} {bad : List (Nat × Bool)}

/-- Naming the partner leaves every other register. -/
theorem word_met {o : Nat} (h : o ≠ R.EDGE_PARTNER j) : ((c.meetPartner j node port).namePartner j node site port).word o = c.word o :=
  (word_namePartner _ j node site port h).trans (word_congr (meetPartner_regs c j node port).1 o)

theorem rd_met {f : FRef} (h : f.off ≠ R.EDGE_PARTNER j) : ((c.meetPartner j node port).namePartner j node site port).rd f = c.rd f := rd_of_word (word_met h) f.hi f.lo

/-- A level below the package's or the partner's least one holds the port with reason 9 (R247). -/
theorem portComesUp_levelTooLow (hj : j < 16) (hlevel : min (c.rd R.ROUTE_STATUS_LEVEL_MAX) mx < max (c.rd R.ROUTE_STATUS_LEVEL_MIN) mn) :
    c.portComesUp j node site port mx mn bad = ((((c.meetPartner j node port).namePartner j node site port).holdPort j 9).event Ev.portHeldRoute none (Unit.port j)
      [9, ((c.meetPartner j node port).namePartner j node site port).row]) := by
  have status : R.ROUTE_STATUS ≠ R.EDGE_PARTNER j := by grind
  rw [← rd_met (j := j) (node := node) (site := site) (port := port) (f := R.ROUTE_STATUS_LEVEL_MAX) status,
    ← rd_met (j := j) (node := node) (site := site) (port := port) (f := R.ROUTE_STATUS_LEVEL_MIN) status] at hlevel
  exact if_pos hlevel

theorem partnerExpected_of_free (node : Nat) (h : c.portRole j = 7) : c.partnerExpected j node = true := by
  unfold Chip.partnerExpected
  rw [h]
  rfl

/-- A port whose partner and level are good comes Up, with no record to wait for and no lane that disagreed. -/
theorem portComesUp_good (hj : j < 16) (hlevel : max (c.rd R.ROUTE_STATUS_LEVEL_MIN) mn ≤ min (c.rd R.ROUTE_STATUS_LEVEL_MAX) mx) (hrole : c.portRole j = 7)
    (hwaits : getKey j c.edge.waiting = none) :
    ∃ level, c.portComesUp j node site port mx mn [] = ((c.meetPartner j node port).namePartner j node site port).takeUp j node port level := by
  have status : R.ROUTE_STATUS ≠ R.EDGE_PARTNER j := by grind
  rw [← rd_met (j := j) (node := node) (site := site) (port := port) (f := R.ROUTE_STATUS_LEVEL_MAX) status,
    ← rd_met (j := j) (node := node) (site := site) (port := port) (f := R.ROUTE_STATUS_LEVEL_MIN) status] at hlevel
  have expected : ((c.meetPartner j node port).namePartner j node site port).partnerExpected j node = true := by
    refine partnerExpected_of_free node ?_
    rw [← hrole]
    unfold Chip.portRole
    rw [rd_met (by grind)]
  have noWait : ((getKey j ((c.meetPartner j node port).namePartner j node site port).edge.waiting).isSome) = false := by
    have edge : ((c.meetPartner j node port).namePartner j node site port).edge = c.edge := (meetPartner_regs c j node port).2
    rw [edge, hwaits]
    rfl
  refine ⟨min (((c.meetPartner j node port).namePartner j node site port).rd R.ROUTE_STATUS_LEVEL_MAX) mx, ?_⟩
  unfold Chip.portComesUp
  extract_lets same met named level recorded checked spared stated told noticed
  have hnamed : named = (c.meetPartner j node port).namePartner j node site port := rfl
  clear_value named
  subst hnamed
  have atRecord : recorded = (c.meetPartner j node port).namePartner j node site port := by
    unfold recorded
    rw [noWait, if_neg Bool.false_ne_true]
  rw [if_neg (not_lt.mpr hlevel), if_neg (by rw [expected]; decide)]
  have atChecked : checked = (c.meetPartner j node port).namePartner j node site port := atRecord
  clear_value checked
  subst atChecked
  rfl

/-- A port without fences whose partner and level are good comes Up, with the partner that training named. -/
theorem portComesUp_up (hj : j < 16) (hlevel : max (c.rd R.ROUTE_STATUS_LEVEL_MIN) mn ≤ min (c.rd R.ROUTE_STATUS_LEVEL_MAX) mx) (hrole : c.portRole j = 7)
    (hwaits : getKey j c.edge.waiting = none) (h : c.unfenced j) :
    (c.portComesUp j node site port mx mn []).rd (R.EDGE_STATUS_STATE j) = 2
      ∧ (c.portComesUp j node site port mx mn []).word (R.EDGE_PARTNER j) = ((c.meetPartner j node port).namePartner j node site port).word (R.EDGE_PARTNER j) := by
  obtain ⟨level, up⟩ := portComesUp_good (node := node) (site := site) (port := port) hj hlevel hrole hwaits
  have ctrl : ((c.meetPartner j node port).namePartner j node site port).edge.ctrlOn = c.edge.ctrlOn := congrArg Edge.ctrlOn (meetPartner_regs c j node port).2
  rw [up]
  exact takeUp_unfenced node port level hj (unfenced_of_words h (fun l _ => word_met (by grind)) (fun inc => word_met (by cases inc <;> grind [spareReg])) ctrl)

end

end

end Sys2Proof.Machine
end

section
/-! A register that holds its reset value: where the tables place one (R27). -/

namespace Sys2Proof.Machine

theorem matchDims_dvd {m : Nat} : ∀ {ds : List Dim} {r : Nat} {is : List Nat}, (∀ d ∈ ds, m ∣ d.stride) → matchDims ds r = some is → m ∣ r
  | [], r, is, _, h => by
    by_cases hr : r = 0
    · exact hr ▸ dvd_zero m
    · simp [matchDims, hr] at h
  | d :: ds, r, is, hm, h => by
    unfold matchDims at h
    split at h
    · obtain ⟨l, hl, -⟩ := Option.map_eq_some_iff.mp h
      have rest := matchDims_dvd (fun d hd => hm d (List.mem_cons_of_mem _ hd)) hl
      exact (Nat.dvd_mod_iff (hm d List.mem_cons_self)).mp rest
    · cases h

/-- A register lies above its base by a multiple of what divides all its strides. -/
theorem indices_dvd {m off : Nat} {d : RegDesc} {is : List Nat} (hm : ∀ x ∈ d.dims, m ∣ x.stride) (h : d.indices off = some is) : d.base ≤ off ∧ m ∣ off - d.base := by
  unfold RegDesc.indices at h
  split at h
  · cases h
  · next hle => exact ⟨not_lt.mp hle, matchDims_dvd hm h⟩

theorem mem_of_findIn {off : Nat} {d : RegDesc} {is : List Nat} : ∀ {l : List RegDesc}, findIn l off = some (d, is) → d ∈ l ∧ d.indices off = some is
  | [], h => by simp [findIn] at h
  | e :: l, h => by
    unfold findIn at h
    split at h
    · next js hi =>
      obtain ⟨rfl, rfl⟩ := Prod.mk.inj (Option.some.inj h)
      exact ⟨List.mem_cons_self, hi⟩
    · obtain ⟨hl, hi⟩ := mem_of_findIn h
      exact ⟨List.mem_cons_of_mem e hl, hi⟩

/-- The reset value of a field where it does not depend on the register's indices. -/
def Rst.fixed : Rst → Bool
  | .val _ => true
  | _ => false

theorem resetFields_fixed (is : List Nat) : ∀ {l : List Fld}, l.all (fun f => f.rst.fixed) = true → resetFields is l = resetFields [] l
  | [], _ => rfl
  | f :: l, h => by
    simp only [List.all_cons, Bool.and_eq_true] at h
    obtain ⟨hf, hl⟩ := h
    unfold resetFields
    rw [resetFields_fixed is hl]
    cases hr : f.rst with
    | val n => rfl
    | _ => simp [hr, Rst.fixed] at hf

/-- Of the registers of a site's lanes and rings, one that is not Off at reset in bits 30 to 28 is not at a multiple of 16, or is one of the site's own. -/
theorem laneTables_resetLoop : (tabLANE ++ tabTNS).all (fun d =>
    (d.flds.all (fun f => f.rst.fixed) && loopOf (BitVec.ofNat 32 (resetFields [] d.flds)) == 0)
      || (d.dims.all (fun x => x.stride % 16 == 0) && d.base % 16 != 0)
      || (d.dims.all (fun x => x.stride % 0x100000 == 0) && decide (d.base % 0x100000 < 0x50000))) = true := by decide +kernel

/-- A ring's loop is Off at reset. -/
theorem loopOf_resetWord {off : Nat} (hoff : ringStateOff off = true) : loopOf (resetWord off) = 0 := by
  simp only [ringStateOff, Bool.and_eq_true, decide_eq_true_eq, beq_iff_eq] at hoff
  obtain ⟨⟨⟨⟨hlow, hhigh⟩, hring⟩, -⟩, halign⟩ := hoff
  have table : blockTab off = tabLANE ++ tabTNS := by
    have above : ∀ n ≤ 0x2000000, ¬ off < n := fun n hn => by omega
    simp [blockTab, above, hhigh]
  unfold resetWord findReg
  rw [table]
  cases hf : findIn (tabLANE ++ tabTNS) off with
  | none => rfl
  | some x =>
    obtain ⟨d, is⟩ := x
    obtain ⟨hmem, hindices⟩ := mem_of_findIn hf
    have reset := List.all_eq_true.mp laneTables_resetLoop d hmem
    simp only [Bool.or_eq_true, Bool.and_eq_true, List.all_eq_true, beq_iff_eq, bne_iff_ne, decide_eq_true_eq] at reset
    rcases reset with (⟨hfixed, hloop⟩ | ⟨hstride, hbase⟩) | ⟨hstride, hbase⟩
    · dsimp only
      rw [resetFields_fixed is (List.all_eq_true.mpr hfixed), hloop]
    · obtain ⟨hle, hdvd⟩ := indices_dvd (fun x hx => Nat.dvd_of_mod_eq_zero (hstride x hx)) hindices
      omega
    · obtain ⟨hle, hdvd⟩ := indices_dvd (fun x hx => Nat.dvd_of_mod_eq_zero (hstride x hx)) hindices
      omega

end Sys2Proof.Machine
end

section
/-! A lock-in engine that fails (R97): its rings hold, whatever they did before. -/

namespace Sys2Proof.Machine

/-- A state that one step of a loop brings and every step keeps holds after the loop. -/
theorem each_reaches {α : Type} {P : Chip → Prop} {f : Chip → α → Chip} {a : α} (hset : ∀ c, P (f c a)) (hkeep : ∀ (b : α) (c : Chip), P c → P (f c b)) :
    ∀ {l : List α}, a ∈ l → ∀ c : Chip, P (c.each l f)
  | b :: l, ha, c => by
    change P ((f c b).each l f)
    rcases List.mem_cons.mp ha with rfl | hl
    · exact each_inv (fun b _ c => hkeep b c) _ (hset c)
    · exact each_reaches hset hkeep hl _

/-- A held port's record, its state, and the loop states among which one ring's is. -/
def Chip.heldWith (c : Chip) (e : Edge) (j : Nat) (x : RingKey) (loops : List Nat) : Prop := c.edge = e ∧ c.rd (R.EDGE_STATUS_STATE j) = 4 ∧ c.rd (ringLoop x) ∈ loops

section
variable {c d : Chip} {e : Edge} {j : Nat} {x : RingKey} {loops : List Nat}

theorem heldWith_of_regs (h : c.heldWith e j x loops) (hregs : d.regs = c.regs) (hedge : d.edge = c.edge) : d.heldWith e j x loops := by
  obtain ⟨record, state, loop⟩ := h
  refine ⟨hedge.trans record, ?_, ?_⟩ <;> rw [rd_congr hregs] <;> assumption

/-- The registers of swatches and groups are beside a port's state and a ring's loop. -/
theorem heldWith_wr (h : c.heldWith e j x loops) {f : FRef} (v : Nat) (hring : f.off % 16 ≠ 0) (hport : f.off % 16 ≠ 8 ∨ (f.lo ≤ f.hi ∧ f.hi < 28)) : (c.wr f v).heldWith e j x loops := by
  obtain ⟨record, state, loop⟩ := h
  have aligned := ringState_mod x
  have sameState : (c.wr f v).rd (R.EDGE_STATUS_STATE j) = c.rd (R.EDGE_STATUS_STATE j) := by
    rcases hport with hoff | ⟨horder, hhi⟩
    · exact rd_wr_of_ne (by grind)
    · exact rd_wr_apart c v horder (by omega) (.inl hhi)
  have sameLoop : (c.wr f v).rd (ringLoop x) = c.rd (ringLoop x) := rd_wr_of_ne (by simp [ringLoop]; omega)
  exact ⟨record, sameState.trans state, sameLoop ▸ loop⟩

/-- A ring's registers are beside a port's state. -/
theorem heldWith_ringLoop (h : c.heldWith e j x loops) (y : RingKey) {v : Nat} (hv : v % 8 ∈ loops) : (c.wr (ringLoop y) v).heldWith e j x loops := by
  obtain ⟨record, state, loop⟩ := h
  have aligned := ringState_mod y
  refine ⟨record, (rd_wr_of_ne (by grind [ringLoop])).trans state, ?_⟩
  by_cases hy : ringState x = ringState y
  · have same : ringLoop x = ringLoop y := by simp [ringLoop, hy]
    rw [same, rd_wr_self _ _ (by simp [ringLoop]) (by simp [ringLoop])]
    exact hv
  · rw [rd_wr_of_ne (by simpa [ringLoop] using hy)]
    exact loop

theorem heldWith_ringHeater (h : c.heldWith e j x loops) (y : RingKey) (v : Nat) : (c.wr (ringHeater y) v).heldWith e j x loops := by
  obtain ⟨record, state, loop⟩ := h
  have aligned := ringState_mod y
  refine ⟨record, (rd_wr_of_ne (by grind [ringHeater])).trans state, ?_⟩
  rw [rd_wr_apart _ _ (by simp [ringHeater]) (by simp [ringHeater]) (by simp [ringHeater, ringLoop])]
  exact loop

/-! Swatches that are abandoned. -/

theorem heldWith_clearSwatch (h : c.heldWith e j x loops) (w : Swatch) : (c.clearSwatch w).heldWith e j x loops := by
  unfold Chip.clearSwatch
  extract_lets t d
  have dropped : d.heldWith e j x loops := heldWith_of_regs h rfl rfl
  split
  · exact each_inv (P := (·.heldWith e j x loops)) (fun s _ c hc =>
      heldWith_wr (f := R.TNS_STATUS_SWATCH_BUSY s) (heldWith_wr (f := R.TNS_SWATCH_NOW_ACTIVE s) hc 0 (by grind) (.inl (by grind))) 0 (by grind) (.inr (by simp))) d dropped
  · exact dropped

theorem heldWith_swatchAbandon (h : c.heldWith e j x loops) (hlocked : loLOCKED ∈ loops) (w : Swatch) : (c.swatchAbandon w).heldWith e j x loops := by
  unfold Chip.swatchAbandon
  split
  · exact heldWith_clearSwatch h w
  · extract_lets counted
    have back : ((c.clearSwatch w).each w.codes (fun c x => if c.rd (ringLoop x.1) = loSWATCH then (c.lockRing x.1).wr (ringHeater x.1) x.2 else c)).heldWith e j x loops :=
      each_inv (P := (·.heldWith e j x loops)) (fun y _ c hc => by
        split
        · exact heldWith_ringHeater (heldWith_of_regs (heldWith_ringLoop hc y.1 hlocked) rfl rfl) y.1 y.2
        · exact hc) _ (heldWith_clearSwatch h w)
    have dropped : (c.swatchDrop w).heldWith e j x loops := heldWith_of_regs back rfl rfl
    have told : counted.heldWith e j x loops := heldWith_of_regs (heldWith_wr (f := R.TNS_SWATCH_COUNT_ABANDONED w.site) dropped _ (by grind) (.inl (by grind))) (Chip.event_regs ..) (Chip.event_edge ..)
    split
    · exact told
    · exact heldWith_of_regs told rfl rfl

theorem heldWith_abandonOn (h : c.heldWith e j x loops) (hlocked : loLOCKED ∈ loops) (rings : List RingKey) : (c.abandonOn rings).heldWith e j x loops :=
  each_inv (P := (·.heldWith e j x loops)) (fun w _ _ hc => heldWith_swatchAbandon hc hlocked w) c h

theorem heldWith_setDark (h : c.heldWith e j x loops) (s g : Nat) (b : Bool) : (c.setDark s g b).heldWith e j x loops   :=
  heldWith_wr (f := R.TNS_GROUP_TRIG_DARK s g) h _ (by grind) (.inl (by grind))

/-! Rings that hold. -/

theorem mem_of_regGet {o : Nat} {w : Word} : ∀ {l : List (Nat × Word)}, regGet l o = some w → (o, w) ∈ l
  | [], h => by simp [regGet] at h
  | y :: l, h => by
    unfold regGet at h
    split at h
    · next ho =>
      cases h
      exact ho ▸ List.mem_cons_self
    · exact List.mem_cons_of_mem y (mem_of_regGet h)

/-- A ring in a state other than Off is among the rings in its state: its register has been written. -/
theorem mem_ringsIn {states : List Nat} (hoff : ringStateOff (ringState x) = true) (hat : ringAt (ringState x) = x) (hzero : 0 ∉ states) (h : c.rd (ringLoop x) ∈ states) :
    x ∈ c.ringsIn states := by
  change loopOf (c.word (ringState x)) ∈ states at h
  unfold Chip.word at h
  cases hw : regGet c.regs (ringState x) with
  | none =>
    rw [hw, Option.getD_none, loopOf_resetWord hoff] at h
    exact absurd h hzero
  | some w =>
    rw [hw, Option.getD_some] at h
    exact List.mem_map.mpr ⟨(ringState x, w), List.mem_filter.mpr ⟨mem_of_regGet hw, by simp [hoff, h]⟩, hat⟩

/-- The registers of a port's rings name them. -/
theorem ringAt_port (hport : x.isPort = true) (hplane : x.plane < 42) (hd : x.d < 2) (hk : x.k < 40) : ringStateOff (ringState x) = true ∧ ringAt (ringState x) = x := by
  obtain ⟨s, p, d, k⟩ := x
  have bounds := hport
  simp only [RingKey.isPort, Bool.and_eq_true, decide_eq_true_eq] at bounds
  obtain ⟨⟨hlow, hhigh⟩, hp⟩ := bounds
  dsimp only at hplane hd hk
  obtain ⟨i, hi⟩ : ∃ i, i = (p - 38) * 80 + d * 40 + k := ⟨_, rfl⟩
  have within : i < 320 := by omega
  have off : ringState ⟨s, p, d, k⟩ = 0x2060000 + s * 0x100000 + i * 16 := by
    have register : ringState ⟨s, p, d, k⟩ = 0x2060000 + s * 0x100000 + (p - 38) * 0x500 + d * 0x280 + k * 0x10 := if_pos hport
    omega
  have site : (ringState ⟨s, p, d, k⟩ - 0x2000000) / 0x100000 = s := by omega
  have rest : ringState ⟨s, p, d, k⟩ % 0x100000 = 0x60000 + i * 16 := by omega
  refine ⟨?_, ?_⟩
  · simp only [ringStateOff, Bool.and_eq_true, decide_eq_true_eq, beq_iff_eq]
    omega
  · unfold ringAt
    rw [site, rest]
    dsimp only
    rw [if_neg (by omega), Nat.add_sub_cancel_left, Nat.mul_div_cancel _ (by decide)]
    simp only [RingKey.mk.injEq, true_and]
    rcases (by omega : d = 0 ∨ d = 1) with rfl | rfl <;> omega

/-- Of the rings that a failed engine had, each comes to Hold, and the port stays as it is held (R92, R97). -/
theorem heldWith_holdRings {p : RingKey → Bool} (h : c.heldWith e j x [loSEARCH, loACQUIRE, loLOCKED, loSWATCH]) (hx : x ∈ c.ringsIn [loSEARCH, loACQUIRE, loLOCKED, loSWATCH]) (hp : p x = true) :
    (c.holdRings p).heldWith e j x [loHOLD] := by
  unfold Chip.holdRings
  extract_lets rings
  have mine : x ∈ rings := List.mem_filter.mpr ⟨hx, hp⟩
  obtain ⟨record, state, -⟩ := each_inv (P := (·.heldWith e j x [loSEARCH, loACQUIRE, loLOCKED, loSWATCH, loHOLD])) (f := fun c y => c.wr (ringLoop y) loHOLD) (l := rings)
    (fun y _ _ hc => heldWith_ringLoop hc y (by decide)) c ⟨h.1, h.2.1, List.mem_append_left [loHOLD] h.2.2⟩
  have loop : (c.each rings (fun c y => c.wr (ringLoop y) loHOLD)).rd (ringLoop x) = loHOLD := by
    refine each_reaches (P := fun c => c.rd (ringLoop x) = loHOLD) (fun c => ?_) (fun y c hc => ?_) mine c
    · exact rd_wr_self _ _ (by simp [ringLoop]) (by simp [ringLoop])
    · by_cases hy : ringState x = ringState y
      · have same : ringLoop x = ringLoop y := by simp [ringLoop, hy]
        rw [same]
        exact rd_wr_self _ _ (by simp [ringLoop]) (by simp [ringLoop])
      · exact (rd_wr_of_ne (by simpa [ringLoop] using hy)).trans hc
  exact each_inv (P := (·.heldWith e j x [loHOLD])) (fun g _ _ hc => heldWith_setDark hc g.1 g.2 true) _ ⟨record, state, List.mem_singleton.mpr loop⟩

/-- A held port whose engine fails takes that for its reason, and nothing else (R97, R221). -/
theorem portDown_of_held {c : Chip} {j : Nat} (h : c.rd (R.EDGE_STATUS_STATE j) = 4) :
    c.portDown j 0xB = ((c.wr (R.EDGE_STATUS_STATE j) 4).wr (R.EDGE_STATUS_REASON j) 0xB).event Ev.portHeld none (Unit.port j) [0xB, c.row] := by
  unfold Chip.portDown
  extract_lets st
  rw [if_pos (.inl h)]
  rfl

end

end Sys2Proof.Machine
end

section
/-! The statement about the states of the edge ports (R97, R209, R214, R219 to R221, R246). -/

namespace Sys2Proof.Machine

/-! What the commands do, by the case that they find. -/

/-- Two ways to change the package that agree on the one at hand lead to one state. -/
theorem next_onChip {s : State} {f g : Chip → Chip} (h : f s.chip = g s.chip) : (Host.Outcome.next (s.onChip f) : Result) = .next (s.onChip g) := by
  unfold State.onChip
  rw [h]

theorem onlyChip_onChip (s : State) (f : Chip → Chip) : onlyChip s (s.onChip f) := ⟨State.onChip_mem s f, State.onChip_pending s f⟩

section
variable (s : State) (j : Fin 16)

theorem exec_portLightDrop (a b : BitVec 16) : exec (.portLightDrop j a b) s = .next (s.onChip (fun c =>
    if (c.portLight j.val a.toNat b.toNat).portUp j.val ∧ getKey j.val (c.portLight j.val a.toNat b.toNat).edge.lightLost = none
    then ((c.portLight j.val a.toNat b.toNat).holdLoops j.val true).onEdge (fun e => { e with lightLost := putKey j.val (c.portLight j.val a.toNat b.toNat).cycles e.lightLost })
    else c.portLight j.val a.toNat b.toNat)) := rfl

theorem exec_portStateArrival (st : Stitch) : exec (.portStateArrival st) s = .next (s.onChip (fun c => c.portStateIn st)) := rfl

theorem exec_departureArrival (st : Stitch) : exec (.departureArrival j st) s = .next (s.onChip (fun c => c.departureIn j.val st)) := rfl

theorem exec_portRetrain (req : Requester) (v : BitVec 32) :
    exec (.portRetrain req j v) s = .next (s.onChip (fun c => c.writeReg req (R.EDGE_CTRL j.val) v.toNat (edgeCtrlHook j.val v.toNat))) := rfl

theorem exec_portDownCmd (req : Requester) (v : BitVec 32) :
    exec (.portDownCmd req j v) s = .next (s.onChip (fun c => c.writeReg req (R.EDGE_CTRL j.val) v.toNat (edgeCtrlHook j.val v.toNat))) := rfl

end

/-- Light comes back in time: the loops run again (R209). -/
theorem exec_portLightReturn_soon {s : State} {j : Fin 16} {a b : BitVec 16} {t0 : Nat} (hlost : getKey j.val s.chip.edge.lightLost = some t0) (hsoon : s.chip.cycles - t0 < 2400) :
    exec (.portLightReturn j a b) s = .next (s.onChip (fun c => ((c.portLight j.val a.toNat b.toNat).holdLoops j.val false).onEdge (fun e => { e with
      lightLost := delKey j.val e.lightLost, lightBack := putKey j.val c.cycles e.lightBack }))) := by
  have lost : getKey j.val (s.chip.portLight j.val a.toNat b.toNat).edge.lightLost = some t0 := hlost
  have late : decide (2400 ≤ (s.chip.portLight j.val a.toNat b.toNat).cycles - t0) = false := decide_eq_false (not_le.mpr hsoon)
  refine next_onChip ?_
  simp only [lost, late, Bool.false_eq_true, if_false]
  rfl

/-- Light comes back too late: the port has been down since (R209, R219). -/
theorem exec_portLightReturn_late {s : State} {j : Fin 16} {a b : BitVec 16} {t0 : Nat} (hlost : getKey j.val s.chip.edge.lightLost = some t0) (hlate : 2400 ≤ s.chip.cycles - t0) :
    exec (.portLightReturn j a b) s = .next (s.onChip (fun c => (((c.portLight j.val a.toNat b.toNat).portDown j.val 1).holdLoops j.val false).onEdge (fun e => { e with
      lightLost := delKey j.val e.lightLost }))) := by
  have lost : getKey j.val (s.chip.portLight j.val a.toNat b.toNat).edge.lightLost = some t0 := hlost
  have late : decide (2400 ≤ (s.chip.portLight j.val a.toNat b.toNat).cycles - t0) = true := decide_eq_true hlate
  refine next_onChip ?_
  simp only [lost, late, if_true]

theorem exec_portDown {s : State} {j code : Fin 16} (h : s.chip.downHolds j.val code.val = true) :
    exec (.portDown j code) s = .next (s.onChip (fun c => c.portDown j.val code.val)) :=
  next_onChip (if_pos h)

theorem exec_recordWaitTimeout {s : State} {j : Fin 16} {row : Nat} (hwaits : getKey j.val s.chip.edge.waiting = some row) (hdue : row + s.chip.rdPos (R.EDGE_CFG2_RECORD_WAIT j.val) ≤ s.chip.row) :
    exec (.recordWaitTimeout j) s = .next (s.onChip (fun c => c.recordLost j.val)) := by
  refine next_onChip ?_
  simp only [hwaits, hdue, if_true]

theorem exec_portTrainStart {s : State} {j : Fin 16} {a b : BitVec 16} (h : (s.chip.portLight j.val a.toNat b.toNat).mayTrain j.val = true) :
    exec (.portTrainStart j a b) s = .next (s.onChip (fun c => ((c.portLight j.val a.toNat b.toNat).startTraining j.val).onEdge (fun e => { e with restarts := delKey j.val e.restarts }))) :=
  next_onChip (if_pos h)

theorem exec_portUp {s : State} {j : Fin 16} {node : Fin 4096} {site : Fin 24} {port : Fin 16} {mx mn : BitVec 8} {bad : List (Fin 40 × Bool)} (htrains : s.chip.rd (R.EDGE_STATUS_STATE j.val) = 1)
    (htrained : s.chip.portTrained j.val node.val site.val port.val (bad.map (fun x => (x.1.val, x.2))) = true) :
    exec (.portUp j node site port mx mn bad) s = .next (s.onChip (fun c => c.portComesUp j.val node.val site.val port.val mx.toNat mn.toNat (bad.map (fun x => (x.1.val, x.2))))) :=
  next_onChip (if_pos ⟨htrains, htrained⟩)

/-- Training that takes too long begins again, or after three times more holds the port (R214). -/
theorem exec_portTrainTimeout {s : State} {j : Fin 16} {t0 : Nat} (htraining : getKey j.val s.chip.edge.training = some t0) (htrains : s.chip.rd (R.EDGE_STATUS_STATE j.val) = 1)
    (hdue : t0 + 40000000 ≤ s.chip.cycles) :
    exec (.portTrainTimeout j) s = .next (s.onChip (fun c =>
      if 3 ≤ (getKey j.val c.edge.restarts).getD 0 then (c.holdPort j.val 8).onEdge (fun e => { e with training := delKey j.val e.training })
      else (c.startTraining j.val).onEdge (fun e => { e with restarts := putKey j.val ((getKey j.val c.edge.restarts).getD 0 + 1) e.restarts }))) := by
  refine next_onChip ?_
  simp only [htraining, htrains, hdue, and_self, if_true]

theorem exec_departureDarkRow {s : State} {j : Fin 16} {d : Departing} (hdeparts : s.chip.edge.departing.find? (fun d => d.port == j.val) = some d) (hdue : d.darkRow ≤ s.chip.row) :
    exec (.departureDarkRow j) s = .next (s.onChip (fun c =>
      (c.onEdge (fun e => { e with departing := e.departing.filter (fun d => d.port != j.val), dark := e.dark ++ [j.val] })).each (List.range 40)
        (fun c l => if c.portLane j.val l false = lsFENCED then c else c.setPortLane j.val l false lsOFF))) := by
  refine next_onChip ?_
  simp only [hdeparts, hdue, if_true]

/-- The rings of a failed engine hold, and its group is dark (R97). -/
def Chip.engineHolds (c : Chip) (site plane : Nat) : Chip := ((c.abandonOn (groupRings site plane)).holdRings (fun x => x.group == (site, plane))).setDark site plane true

/-- The failed engine of a port is noted (R97). -/
def Chip.noteEngine (c : Chip) (j : Nat) : Chip := if c.edge.engineFailed.contains j then c else c.onEdge (fun e => { e with engineFailed := e.engineFailed ++ [j] })

/-- A port's engine fails: its rings hold, and the port goes down under 0xB (R97, R219). -/
theorem exec_engineFail_port {s : State} {site : Fin 24} {plane : Fin 42} (hlow : 18 ≤ site.val) (hhigh : site.val < 22) (hplane : 38 ≤ plane.val) :
    exec (.engineFail site plane) s = .next (s.onChip (fun c =>
      ((c.engineHolds site.val plane.val).noteEngine (4 * (site.val - 18) + (plane.val - 38))).portDown (4 * (site.val - 18) + (plane.val - 38)) 0xB)) :=
  next_onChip (if_pos ⟨hlow, hhigh, hplane⟩)

/-- A plane's engine fails: its rings hold, and both its sides have plane faults (R97). -/
theorem exec_engineFail_plane {s : State} {site : Fin 24} {plane : Fin 42} (hplane : plane.val < 38) (hkind : Config.planeKind site.val plane.val ≠ 0) :
    exec (.engineFail site plane) s = .next (s.onChip (fun c =>
      ((c.engineHolds site.val plane.val).planeFault ⟨site.val, plane.val, false⟩).planeFault ⟨site.val, plane.val, true⟩)) := by
  refine next_onChip ?_
  dsimp only
  rw [if_neg (by omega), if_neg hkind]
  rfl

/-! The partner's record for the one port that waits (R220, R244). -/

/-- Of the ports only one waits for its partner's record: the record is for that one. -/
theorem recordPort_of_waiting {c : Chip} {st : Stitch} {j : Fin 16} {row : Nat} (hwaits : c.edge.waiting = [(j.val, row)]) (hnode : c.partnerNode j.val = leField st.data 0 2 % 4096)
    (hport : c.rd (R.EDGE_PARTNER_PORT j.val) = st.data.getD 2 0) : c.recordPort st = some j.val := by
  have first : ∀ j : Fin 16, (List.range 16).find? (fun i => i == j.val) = some j.val := by decide
  have mine : (fun i => (c.partnerNode i == leField st.data 0 2 % 4096 && c.rd (R.EDGE_PARTNER_PORT i) == st.data.getD 2 0) && (getKey i c.edge.waiting).isSome) = fun i => i == j.val := by
    funext i
    rw [hwaits]
    by_cases hi : i = j.val
    · subst hi
      rw [beq_iff_eq.mpr hnode, beq_iff_eq.mpr hport]
      simp [getKey]
    · simp [getKey, hi, Ne.symm hi]
  unfold Chip.recordPort
  dsimp only
  rw [mine, first j]
  rfl

/-- One part of a record alone is kept. -/
theorem recordIfBoth_of_one {c : Chip} {j part : Nat} {data : List Nat} (hpart : part < 2) (h : c.edge.record = [((j, part), data)]) : c.recordIfBoth j = c := by
  unfold Chip.recordIfBoth
  rw [h]
  rcases (by omega : part = 0 ∨ part = 1) with rfl | rfl
  · simp [getKey]
  · simp [getKey]

/-- The first part of a record is kept for the port that waits for it. -/
theorem portStateIn_first {c : Chip} {st : Stitch} {j : Fin 16} {row : Nat} (hwaits : c.edge.waiting = [(j.val, row)]) (hnode : c.partnerNode j.val = leField st.data 0 2 % 4096)
    (hport : c.rd (R.EDGE_PARTNER_PORT j.val) = st.data.getD 2 0) (hrecord : c.edge.record = []) :
    c.portStateIn st = c.onEdge (fun e => { e with record := [((j.val, st.opf % 2), padTo 64 st.data)] }) := by
  have kept : c.onEdge (fun e => { e with record := putKey (j.val, st.opf % 2) (padTo 64 st.data) e.record }) = c.onEdge (fun e => { e with record := [((j.val, st.opf % 2), padTo 64 st.data)] }) := by
    dsimp only [Chip.onEdge]
    rw [hrecord]
    rfl
  unfold Chip.portStateIn
  rw [recordPort_of_waiting hwaits hnode hport]
  dsimp only
  rw [kept]
  exact recordIfBoth_of_one (Nat.mod_lt _ (by decide)) rfl

/-! A failed engine's port. -/

theorem noteEngine_regs (c : Chip) (j : Nat) : (c.noteEngine j).regs = c.regs := by
  unfold Chip.noteEngine
  split <;> rfl

theorem mem_noteEngine (c : Chip) (j : Nat) : j ∈ (c.noteEngine j).edge.engineFailed := by
  unfold Chip.noteEngine
  split
  · next h => exact List.contains_iff_mem.mp h
  · exact List.mem_append_right _ (List.mem_singleton.mpr rfl)

theorem noteEngine_edge {c : Chip} {j : Nat} (h : j ∉ c.edge.engineFailed) : (c.noteEngine j).edge = { c.edge with engineFailed := c.edge.engineFailed ++ [j] } := by
  unfold Chip.noteEngine
  rw [if_neg (by simpa using h)]
  rfl

/-- Every ring of a failed port engine that had light holds; a held port stays held (R97). -/
theorem heldWith_engineHolds {c : Chip} {j : Nat} {x : RingKey} (hx : x.isPort = true) (hplane : x.plane < 42) (hd : x.d < 2) (hk : x.k < 40) (hheld : c.rd (R.EDGE_STATUS_STATE j) = 4)
    (hloop : c.rd (ringLoop x) ∈ [loSEARCH, loACQUIRE, loLOCKED, loSWATCH]) : (c.engineHolds x.site x.plane).heldWith c.edge j x [loHOLD] := by
  obtain ⟨hoff, hat⟩ := ringAt_port hx hplane hd hk
  have abandoned : (c.abandonOn (groupRings x.site x.plane)).heldWith c.edge j x [loSEARCH, loACQUIRE, loLOCKED, loSWATCH] := heldWith_abandonOn ⟨rfl, hheld, hloop⟩ (by decide) _
  obtain ⟨-, -, loops⟩ := id abandoned
  exact heldWith_setDark (heldWith_holdRings abandoned (mem_ringsIn hoff hat (by decide) loops) (p := fun y => y.group == (x.site, x.plane)) (beq_self_eq_true x.group)) _ _ _

/-- Settles O17: the states of a port through light, training, coming Up, going down and departing, and a failed engine. -/
theorem portStateCommandsComplete : Obligations.PortStateCommandsComplete := by
  refine ⟨fun j a b l s hup hlost => ?_, fun j a b l t0 s hup hlost hsoon => ?_, fun j a b t0 s hlost hlate => ?_,
    fun j code s hup hdown hsrc hdst _ _ => ?_, fun j code s hdown => completes_of_exec (exec_portDown hdown) ⟨rfl, onlyChip_onChip ..⟩, fun st j row s hwaits hnode hport hrecord => ?_,
    fun st s => completes_of_exec (exec_portStateArrival s st) ⟨rfl, onlyChip_onChip ..⟩, fun j row s hwaits hdue hheld => ?_,
    fun j row s hwaits hdue => completes_of_exec (exec_recordWaitTimeout hwaits hdue) ⟨rfl, onlyChip_onChip ..⟩, fun j a b s hmay => ?_,
    fun j node site port mx mn bad s htrains htrained hlevel => ?_,
    fun j node site port mx mn bad s htrains htrained => completes_of_exec (exec_portUp htrains htrained) ⟨rfl, onlyChip_onChip ..⟩,
    fun j node site port mx mn s htrains htrained hlevel hrole hwaits _ hlanes hctrl hspares _ => ?_, fun j t0 s htraining htrains hdue hfew => ?_,
    fun j t0 s htraining htrains hdue hmany => ?_, fun req j v s hacc hretrain hdown hheld hengine => ?_, fun req j v s hacc hretrain hdown hopen _ => ?_,
    fun j st s hsingle => ?_, fun j st s => completes_of_exec (exec_departureArrival s j st) ⟨rfl, onlyChip_onChip ..⟩, fun j d l s hdeparts hdue => ?_,
    fun j d l site plane s hsite hplane hheld hloop hengine => ?_, fun site plane s hlow hhigh hplane => ?_,
    fun site plane s hplane hkind => completes_of_exec (exec_engineFail_plane hplane hkind) ⟨rfl, onlyChip_onChip ..⟩⟩
  case _ =>
    refine completes_of_exec (exec_portLightDrop s j a b) ?_
    rw [State.onChip_chip, if_pos ⟨(portUp_portLight ..).trans hup, hlost⟩]
    refine ⟨?_, ?_, ?_, ?_, ?_, onlyChip_onChip ..⟩
    · exact (rd_onEdge ..).trans (rd_hold_holdLoops _ _ _ l.isLt)
    · rw [rd_onEdge, rd_light_holdLoops, rd_lightDataIn_portLight, Nat.mod_eq_of_lt a.isLt]
    · rw [rd_onEdge, rd_light_holdLoops, rd_lightLoIn_portLight, Nat.mod_eq_of_lt b.isLt]
    · exact getKey_putKey_self ..
    · exact (portUp_onEdge ..).trans ((portUp_holdLoops ..).trans ((portUp_portLight ..).trans hup))
  case _ =>
    refine completes_of_exec (exec_portLightReturn_soon hlost hsoon) ?_
    rw [State.onChip_chip]
    refine ⟨(rd_onEdge ..).trans (rd_hold_holdLoops _ _ _ l.isLt), getKey_delKey_self j.val ((s.chip.portLight j.val a.toNat b.toNat).holdLoops j.val false).edge.lightLost, ?_, onlyChip_onChip ..⟩
    exact (portUp_onEdge ..).trans ((portUp_holdLoops ..).trans ((portUp_portLight ..).trans hup))
  case _ =>
    refine completes_of_exec (exec_portLightReturn_late hlost hlate) ⟨?_, onlyChip_onChip ..⟩
    rw [State.onChip_chip]
  case _ =>
    refine completes_of_exec (exec_portDown hdown) ⟨rd_reason_portDown j.isLt code.isLt hup hsrc hdst, ?_, onlyChip_onChip ..⟩
    rw [State.onChip_chip, rd_state_portDown j.isLt hup hsrc hdst]
    exact if_congr downHeld_iff rfl rfl
  case _ => exact completes_of_exec (exec_portStateArrival s st) ⟨portStateIn_first hwaits hnode hport hrecord, onlyChip_onChip ..⟩
  case _ =>
    refine completes_of_exec (exec_recordWaitTimeout hwaits hdue) ?_
    rw [State.onChip_chip, recordLost_of_noFrames j.val (fun l hl => hheld ⟨l, hl⟩)]
    refine ⟨getKey_delKey_self j.val (s.chip.clearPortTx j.val).edge.waiting, ?_, ?_, onlyChip_onChip ..⟩
    · rw [Chip.onEdge_regs, clearPortTx_keeps s.chip j.val Chip.regs (fun _ _ => rfl)]
    · rw [Chip.onEdge_xport, clearPortTx_keeps s.chip j.val Chip.xport (fun _ _ => rfl)]
  case _ =>
    refine completes_of_exec (exec_portTrainStart hmay) ?_
    obtain ⟨hstate, htraining⟩ := startTraining_fields (s.chip.portLight j.val a.toNat b.toNat) j.val
    exact ⟨(rd_onEdge ..).trans hstate, htraining, getKey_delKey_self j.val ((s.chip.portLight j.val a.toNat b.toNat).startTraining j.val).edge.restarts, onlyChip_onChip ..⟩
  case _ =>
    refine completes_of_exec (exec_portUp htrains htrained) ?_
    rw [State.onChip_chip, portComesUp_levelTooLow j.isLt hlevel]
    refine ⟨?_, ?_, ?_, ?_, onlyChip_onChip ..⟩
    · rw [rd_event, rd_state_holdPort]
    · rw [rd_event, rd_reason_holdPort]
    · rw [rd_event, rd_of_word (word_holdPort _ j.val 9 (by grind)), rd_node_namePartner, Nat.mod_eq_of_lt node.isLt]
    · rw [rd_event, rd_of_word (word_holdPort _ j.val 9 (by grind)), rd_port_namePartner, Nat.mod_eq_of_lt port.isLt]
  case _ =>
    refine completes_of_exec (exec_portUp htrains htrained) ?_
    have good : s.chip.unfenced j.val :=
      ⟨fun l hl inc => by cases inc; exacts [(hlanes ⟨l, hl⟩).2, (hlanes ⟨l, hl⟩).1], fun n hn inc => hspares ⟨n, hn⟩ inc, hctrl⟩
    obtain ⟨hstate, hpartner⟩ := portComesUp_up (node := node.val) (site := site.val) (port := port.val) j.isLt hlevel hrole hwaits good
    refine ⟨hstate, ?_, ?_, onlyChip_onChip ..⟩
    · exact (rd_of_word hpartner 31 20).trans ((rd_node_namePartner ..).trans (Nat.mod_eq_of_lt node.isLt))
    · exact (rd_of_word hpartner 0 0).trans (rd_valid_namePartner ..)
  case _ =>
    refine completes_of_exec (exec_portTrainTimeout htraining htrains hdue) ?_
    rw [State.onChip_chip, if_neg (not_le.mpr hfew)]
    obtain ⟨hstate, htrain⟩ := startTraining_fields s.chip j.val
    exact ⟨(rd_onEdge ..).trans hstate, getKey_putKey_self j.val _ (s.chip.startTraining j.val).edge.restarts, htrain, onlyChip_onChip ..⟩
  case _ =>
    refine completes_of_exec (exec_portTrainTimeout htraining htrains hdue) ?_
    rw [State.onChip_chip, if_pos hmany]
    exact ⟨(rd_onEdge ..).trans (rd_state_holdPort ..), (rd_onEdge ..).trans (rd_reason_holdPort ..), getKey_delKey_self j.val (s.chip.holdPort j.val 8).edge.training, onlyChip_onChip ..⟩
  case _ =>
    refine completes_of_exec (exec_portRetrain s j req v) ?_
    obtain ⟨d, hwrite, hsame, hword⟩ := edgeCtrl_accepted (v := v.toNat) j.isLt hacc
    have engine : d.edge.engineFailed = [] := by rw [hsame]; exact hengine
    rw [State.onChip_chip, hwrite, edgeCtrl_retrain hretrain hdown ((rd_of_word hword 31 28).trans hheld) engine]
    exact ⟨(rd_onEdge ..).trans (rd_setState ..), getKey_delKey_self j.val d.edge.restarts, onlyChip_onChip ..⟩
  case _ =>
    refine completes_of_exec (exec_portDownCmd s j req v) ?_
    obtain ⟨d, hwrite, hsame, hword⟩ := edgeCtrl_accepted (v := v.toNat) j.isLt hacc
    have up : d.portUp j.val = s.chip.portUp j.val := portUp_of_word hword
    have open_ : d.portOpen j.val = true := by
      rw [← hopen]
      unfold Chip.portOpen
      rw [up, hsame]
    have isUp : d.portUp j.val = true := portOpen_portUp open_
    rw [State.onChip_chip, hwrite, edgeCtrl_down hretrain hdown isUp]
    refine ⟨?_, ?_, onlyChip_onChip ..⟩
    · rw [departing_depart open_, hsame]
    · exact (portUp_of_word (word_of_portWords (portWords_depart d j.val 4 true) (by grind))).trans isUp
  case _ =>
    refine completes_of_exec (exec_departureArrival s j st) ⟨?_, onlyChip_onChip ..⟩
    rw [State.onChip_chip]
    exact if_pos hsingle
  case _ =>
    refine completes_of_exec (exec_departureDarkRow hdeparts hdue) ?_
    rw [State.onChip_chip]
    refine ⟨?_, ?_, portLane_darkRow _ j.val l.isLt, onlyChip_onChip ..⟩
    · exact (each_keeps (fun c => c.edge.departing) (fun l _ c => (darkLane_departing c j.val l).1) _).trans rfl
    · exact (each_keeps (fun c => c.edge.dark) (fun l _ c => (darkLane_departing c j.val l).2) _).trans rfl
  case _ =>
    have port : 4 * (site.val - 18) + (plane.val - 38) = j.val := by omega
    have isPort : (⟨site.val, plane.val, d.val, l.val⟩ : RingKey).isPort = true := by
      simp [RingKey.isPort]
      omega
    have holds := heldWith_engineHolds isPort plane.isLt d.isLt l.isLt hheld hloop
    refine completes_of_exec (exec_engineFail_port (by omega) (by omega) (by omega)) ?_
    rw [State.onChip_chip, port]
    obtain ⟨hedge, hstill, hhold⟩ := holds
    have noted : ((s.chip.engineHolds site.val plane.val).noteEngine j.val).edge = { s.chip.edge with engineFailed := s.chip.edge.engineFailed ++ [j.val] } := by
      rw [noteEngine_edge (by rwa [hedge]), hedge]
    have rings := ringState_mod ⟨site.val, plane.val, d.val, l.val⟩
    rw [portDown_of_held ((rd_congr (noteEngine_regs ..) _).trans hstill)]
    refine ⟨?_, ?_, onlyChip_onChip ..⟩
    · rw [rd_event, rd_wr_of_ne (by grind [ringLoop]), rd_wr_of_ne (by grind [ringLoop]), rd_congr (noteEngine_regs ..)]
      exact List.mem_singleton.mp hhold
    · rw [Chip.event_edge]
      exact noted
  case _ =>
    refine completes_of_exec (exec_engineFail_port hlow hhigh hplane) ⟨onlyChip_onChip .., _, State.onChip_chip .., mem_noteEngine .., noteEngine_regs ..⟩

end Sys2Proof.Machine
end

section
/-! Worked examples of the manual (R118, R141, R147). -/

namespace Sys2Proof.Machine

theorem storeExample_words :
    let st : Stitch := { dstNode := 5, dstSite := 13, srcNode := 5, srcSite := 2, tenant := 1, cls := 0, opcode := opSTORE, seq := 0x42, sync := 0x200, start := 16, countM1 := 31, cnt := 1, ppa := 0x1234567040 }
    Stitch.routeWord st 0 0 = 0x1005680288400000 ∧ Stitch.opWord st = 0x120042020041F400 ∧ Stitch.addrWord st = 0x0000001234567040 := by decide

theorem crc32c_checkValue : crc32c [0x31, 0x32, 0x33, 0x34, 0x35, 0x36, 0x37, 0x38, 0x39] = 0xE3069283 := by decide +kernel

/-- The scrambler starts at the row's low 31 bits with the constant, and at 1 where the two cancel (R118). -/
theorem scramblerSeed_examples : scramblerSeed 0 = 0x5A5A5A5A ∧ scramblerSeed 0x5A5A5A5A = 1 ∧ scramblerSeed (2 ^ 31 + 0x5A5A5A5A) = 1 := by decide

/-- Settles O50, each word by evaluation of the model. -/
theorem writtenOutWords : Obligations.WrittenOutWords := ⟨storeExample_words, crc32c_checkValue, scramblerSeed_examples⟩

end Sys2Proof.Machine
end

section
/-! The two ends of a link: what each holds after a step of the link layer (R116 to R132). -/

namespace Sys2Proof.Machine

theorem isPort_pkg (l : Lane) : isPort (linkKey (.pkg l)) = false := decide_eq_false (not_le.mpr l.site.isLt)

section
variable (c : Chip) (key q : Nat × Nat × Nat)

@[simp] theorem linkTx_setTx_self (t : LinkTx) : (c.setTx key t).linkTx key = t := by simp [Chip.linkTx, Chip.setTx]
@[simp] theorem linkRx_setRx_self (r : LinkRx) : (c.setRx key r).linkRx key = r := by simp [Chip.linkRx, Chip.setRx]

/-- Sending a NAK changes only the receiving end of the link that it speaks for. -/
theorem nakSent_cases : c.nakSent key = c ∨ ∃ q r, c.nakSent key = c.setRx q r := by
  unfold Chip.nakSent
  split
  · dsimp only
    split
    · exact .inr ⟨_, _, rfl⟩
    · exact .inl rfl
  · exact .inl rfl

theorem linkTx_nakSent : (c.nakSent key).linkTx q = c.linkTx q := by
  obtain h | ⟨_, _, h⟩ := nakSent_cases c key <;> rw [h]
  rfl

theorem nakSent_regs : (c.nakSent key).regs = c.regs := by
  obtain h | ⟨_, _, h⟩ := nakSent_cases c key <;> rw [h]
  rfl

theorem nakSent_xport : (c.nakSent key).xport = c.xport := by
  obtain h | ⟨_, _, h⟩ := nakSent_cases c key <;> rw [h]
  rfl

/-! A frame that leaves (R131). -/

section
variable (f : Frame)

/-- The sending end notes the frame and keeps what it holds. -/
theorem linkTx_emit : ((c.emit key f).linkTx key).lastFrame = some f ∧ ((c.emit key f).linkTx key).replay = (c.linkTx key).replay
    ∧ ((c.emit key f).linkTx key).resend = (c.linkTx key).resend ∧ ((c.emit key f).linkTx key).nextSeq = (c.linkTx key).nextSeq := by
  unfold Chip.emit
  rw [linkTx_setTx_self, linkTx_nakSent]
  exact ⟨rfl, rfl, rfl, rfl⟩

theorem emit_regs : (c.emit key f).regs = c.regs := nakSent_regs c key

theorem emit_xport : (c.emit key f).xport = c.xport := nakSent_xport c key

end
end

/-! What a lane sends, by what its state and its replay buffer ask for (R125, R129, R131, R138). -/

section
variable {s : State} {key : Nat × Nat × Nat} {slot : Nat}

theorem carriesData_of_up (h : s.chip.txState key = lsUP) : s.chip.carriesData key = true := by simp [Chip.carriesData, h]

theorem carriesData_of_noRun (h : s.chip.txState key ≠ lsUP) (hrun : s.chip.runOn key = none) : s.chip.carriesData key = false := by
  simp [Chip.carriesData, h, hrun]

/-- A frame slot that the link has is not one of those that an on-package lane lacks. -/
theorem slot_of_link (h : isPort key = true ∨ slot < 35) : ¬(isPort key = false ∧ 35 ≤ slot) := by
  rintro ⟨hpkg, hlate⟩
  rcases h with h | h
  · rw [hpkg] at h; cases h
  · omega

theorem sendFrame_train (hslot : isPort key = true ∨ slot < 35) (hstate : s.chip.txState key = lsTRAIN) (hrun : s.chip.runOn key = none) :
    s.sendFrame key slot = s.chip.emitPlain key slot ftTRAIN (s.chip.trainPayload key) := by
  have noData := carriesData_of_noRun (by rw [hstate]; decide) hrun
  have noTest : lsTRAIN ≠ lsTEST := by decide
  simp [State.sendFrame, slot_of_link hslot, noData, hstate, hrun, noTest]

theorem sendFrame_idle (hslot : isPort key = true ∨ slot < 35) (hstate : s.chip.txState key ∈ [lsHOLD, lsPARKED, lsMONITOR, lsSTANDBY]) (hrun : s.chip.runOn key = none) :
    s.sendFrame key slot = s.chip.emitPlain key slot ftIDLE [] := by
  have idles : ∀ n ∈ [lsHOLD, lsPARKED, lsMONITOR, lsSTANDBY], n ≠ lsUP ∧ n ≠ lsTEST ∧ n ≠ lsTRAIN := by decide
  obtain ⟨noUp, noTest, noTrain⟩ := idles _ hstate
  have noData := carriesData_of_noRun noUp hrun
  simp only [List.mem_cons, List.not_mem_nil, or_false] at hstate
  simp [State.sendFrame, slot_of_link hslot, noData, hrun, noTest, noTrain, hstate]

/-- A lane that is off, fenced or under calibration sends nothing. -/
theorem sendFrame_dark (hstate : s.chip.txState key ∈ [lsOFF, lsFENCED, lsCAL]) (hrun : s.chip.runOn key = none) : s.sendFrame key slot = s.chip := by
  have silent : ∀ n ∈ [lsOFF, lsFENCED, lsCAL], n ≠ lsUP ∧ n ≠ lsTEST ∧ n ≠ lsTRAIN ∧ ¬(n = lsHOLD ∨ n = lsPARKED ∨ n = lsMONITOR ∨ n = lsSTANDBY) := by decide
  obtain ⟨noUp, noTest, noTrain, noIdle⟩ := silent _ hstate
  have noData := carriesData_of_noRun noUp hrun
  simp [State.sendFrame, noData, hrun, noTest, noTrain, noIdle]

/-- The next frame of a go-back in progress (R131). -/
theorem sendFrame_resend {f : Frame} (hslot : isPort key = true ∨ slot < 35) (hdata : s.chip.carriesData key = true) (hback : 0 < (s.chip.linkTx key).resend)
    (hf : (s.chip.linkTx key).replay[(s.chip.linkTx key).replay.length - (s.chip.linkTx key).resend]? = some f) :
    s.sendFrame key slot = (s.chip.setTx key { s.chip.linkTx key with resend := (s.chip.linkTx key).resend - 1 }).emit key
      (s.chip.makeFrame key slot f.ftype (128 + f.flags % 64) f.seq f.runCheck f.payload) := by
  simp only [State.sendFrame, slot_of_link hslot, hdata, hback, hf, if_true, if_false]

/-- A full replay buffer admits no new frame (R129). -/
theorem sendFrame_full (hslot : isPort key = true ∨ slot < 35) (hdata : s.chip.carriesData key = true) (hback : (s.chip.linkTx key).resend = 0)
    (hfull : replayDepth key ≤ (s.chip.linkTx key).replay.length) : s.sendFrame key slot = s.chip.emitPlain key slot ftIDLE [] := by
  simp only [State.sendFrame, slot_of_link hslot, hdata, hback, hfull, lt_irrefl, if_true, if_false]

theorem sendFrame_new (hslot : isPort key = true ∨ slot < 35) (hup : s.chip.txState key = lsUP) (hback : (s.chip.linkTx key).resend = 0)
    (hroom : (s.chip.linkTx key).replay.length < replayDepth key) : s.sendFrame key slot = s.sendNew key slot := by
  simp only [State.sendFrame, slot_of_link hslot, carriesData_of_up hup, hback, not_le.mpr hroom, hup, beq_self_eq_true, lt_irrefl, if_true, if_false]

theorem sendFrame_pattern {r : PatRun} (hslot : isPort key = true ∨ slot < 35) (htest : s.chip.txState key = lsTEST) (hrun : s.chip.runOn key = some r) (hframes : r.pattern = 5)
    (hback : (s.chip.linkTx key).resend = 0) (hroom : (s.chip.linkTx key).replay.length < replayDepth key) :
    s.sendFrame key slot = s.chip.emitPattern key slot r := by
  have hdata : s.chip.carriesData key = true := by simp [Chip.carriesData, htest, hrun, hframes]
  have notUp : (lsTEST == lsUP) = false := by decide
  simp only [State.sendFrame, slot_of_link hslot, hdata, hback, not_le.mpr hroom, htest, hrun, notUp, lt_irrefl, if_true, if_false]

end

/-- An Up fixed lane that is not booked sends the stitches that its calendar deals to it (R125, R164, R165). -/
theorem sendNew_stitches {s : State} {l : Lane} {slot : Nat} {sts : List Stitch} {c : Chip} (hfree : s.chip.laneBooked l.site.val l.plane.val l.k.val = false)
    (hkind : Config.planeKind l.site.val l.plane.val = 1) (hfixed : fixedTraffic l.site.val l.plane.val l.k.val = true)
    (hfill : s.chip.fillSlots l.site.val ((l.site.val + l.k.val) % 24) (s.chip.slotPlanes (linkKey (.pkg l)) slot).length ((s.chip.slotPlanes (linkKey (.pkg l)) slot).idxOf l.plane.val) = (sts, c))
    (hsome : sts ≠ []) :
    s.sendNew (linkKey (.pkg l)) slot = c.emitData (linkKey (.pkg l)) slot ftSTITCH (2 ^ sts.length - 1) 0 (sts.flatMap Stitch.bytes) := by
  have fixedPlane : (1 : Nat) ≠ 2 := by decide
  have full : sts.isEmpty = false := by simpa using hsome
  unfold State.sendNew
  rw [isPort_pkg]
  simp only [linkKey] at hfill ⊢
  simp [hfree, hkind, hfixed, hfill, Chip.emitStitches, full]

theorem exec_frameSend (ln : LinkLane) (slot : Fin 77) (s : State) : exec (.frameSend ln slot) s = .next { s with chip := s.sendFrame (linkKey ln) slot.val } := rfl

/-- FRAME_SEND ends with what `sendFrame` leaves of the package; memory and the queue stay. -/
theorem frameSend_completes {ln : LinkLane} {slot : Fin 77} {s : State} {d : Chip} (hd : s.sendFrame (linkKey ln) slot.val = d) {post : State → Prop}
    (hpost : ∀ t : State, t.chip = d → onlyChip s t → post t) : completes (.frameSend ln slot) s post :=
  completes_of_exec (exec_frameSend ln slot s) (hpost _ hd ⟨rfl, rfl⟩)

/-- Settles O9: each state of a lane and of its replay buffer selects one branch of `sendFrame`, whose frame `emit` records at the sending end. -/
theorem frameSendingCompletes : Obligations.FrameSendingCompletes := by
  unfold Obligations.FrameSendingCompletes
  refine ⟨?_, ?_, ?_, ?_, ?_, ?_, ?_, ?_⟩
  case _ =>
    intro ln slot s hslot hstate hrun
    refine frameSend_completes (sendFrame_train hslot hstate hrun) (fun t ht honly => ?_)
    rw [ht]
    obtain ⟨hlast, hreplay, -, -⟩ := linkTx_emit s.chip (linkKey ln) (s.chip.makeFrame (linkKey ln) slot.val ftTRAIN 0 (subMod 16 (s.chip.linkTx (linkKey ln)).nextSeq 1) 0 (s.chip.trainPayload (linkKey ln)))
    exact ⟨hlast, hreplay, emit_regs .., honly⟩
  case _ =>
    intro ln slot s hslot hstate hrun
    refine frameSend_completes (sendFrame_idle hslot hstate hrun) (fun t ht honly => ?_)
    rw [ht]
    obtain ⟨hlast, hreplay, -, hseq⟩ := linkTx_emit s.chip (linkKey ln) (s.chip.makeFrame (linkKey ln) slot.val ftIDLE 0 (subMod 16 (s.chip.linkTx (linkKey ln)).nextSeq 1) 0 [])
    exact ⟨hlast, hreplay, hseq, emit_regs .., honly⟩
  case _ =>
    intro ln slot f s hslot hdata hback hf
    refine frameSend_completes (sendFrame_resend hslot hdata hback hf) (fun t ht honly => ?_)
    rw [ht]
    obtain ⟨hlast, hreplay, hresend, -⟩ := linkTx_emit (s.chip.setTx (linkKey ln) { s.chip.linkTx (linkKey ln) with resend := (s.chip.linkTx (linkKey ln)).resend - 1 }) (linkKey ln)
      (s.chip.makeFrame (linkKey ln) slot.val f.ftype (128 + f.flags % 64) f.seq f.runCheck f.payload)
    rw [linkTx_setTx_self] at hreplay hresend
    exact ⟨hlast, hresend, hreplay, emit_regs .., honly⟩
  case _ =>
    intro ln slot s hslot hdata hback hfull
    refine frameSend_completes (sendFrame_full hslot hdata hback hfull) (fun t ht honly => ?_)
    rw [ht]
    obtain ⟨hlast, hreplay, -, -⟩ := linkTx_emit s.chip (linkKey ln) (s.chip.makeFrame (linkKey ln) slot.val ftIDLE 0 (subMod 16 (s.chip.linkTx (linkKey ln)).nextSeq 1) 0 [])
    exact ⟨hlast, hreplay, emit_xport .., honly⟩
  case _ =>
    intro ln slot s hslot hup hback hroom
    exact frameSend_completes (sendFrame_new hslot hup hback hroom) (fun _ => And.intro)
  case _ =>
    intro l slot sts c s hslot hup hback hroom hfree hkind hfixed hfill hsome
    exact frameSend_completes ((sendFrame_new (.inr hslot) hup hback hroom).trans (sendNew_stitches hfree hkind hfixed hfill hsome)) (fun _ => And.intro)
  case _ =>
    intro ln slot r s hslot htest hrun hframes hback hroom
    exact frameSend_completes (sendFrame_pattern hslot htest hrun hframes hback hroom) (fun _ => And.intro)
  case _ =>
    intro ln slot s hstate hrun
    rw [exec_frameSend, sendFrame_dark hstate hrun]

end Sys2Proof.Machine
end

section
/-! Timeouts and acknowledgements of a link (R128, R130 to R132, R137). -/

namespace Sys2Proof.Machine

/-! Timeouts. -/

theorem exec_nakRepeatTimeout {ln : LinkLane} {s : State} (hsent : (s.chip.linkRx (linkKey ln)).nakSent = true) (hdue : s.chip.linkTimeout (linkKey ln) ≤ (s.chip.linkRx (linkKey ln)).nakSlots) :
    exec (.nakRepeatTimeout ln) s = .next (s.onChip (fun c => c.setRx (linkKey ln) { c.linkRx (linkKey ln) with nakSent := false, nakDue := true })) :=
  next_onChip (if_pos ⟨hsent, hdue⟩)

/-- A timeout go-back of a link, before it counts as a retry event (R131). -/
def Chip.timeoutGoBack (c : Chip) (key : Nat × Nat × Nat) : Chip :=
  (c.goBack key).setTx key { (c.goBack key).linkTx key with injected := none, quiet := false, wentBack := true }

theorem exec_gobackTimeout {ln : LinkLane} {s : State} (hheld : (s.chip.linkTx (linkKey ln)).replay ≠ []) (hdue : s.chip.linkTimeout (linkKey ln) ≤ (s.chip.linkTx (linkKey ln)).waited)
    (hdata : s.chip.carriesData (linkKey ln) = true) (hspare : s.chip.waitsForSpare (linkKey ln) = false) :
    exec (.gobackTimeout ln) s = .next (s.onChip (fun c => (c.timeoutGoBack (linkKey ln)).linkRetry (linkKey ln) (!c.timeoutExcepted (linkKey ln)))) :=
  next_onChip (if_neg (by simp [hheld, hdue, hdata, hspare]))

/-- Every frame of the replay buffer is to be sent again, and the wait starts anew. -/
theorem linkTx_timeoutGoBack (c : Chip) (key : Nat × Nat × Nat) : ((c.timeoutGoBack key).linkTx key).resend = (c.linkTx key).replay.length
    ∧ ((c.timeoutGoBack key).linkTx key).replay = (c.linkTx key).replay ∧ ((c.timeoutGoBack key).linkTx key).waited = 0 := by
  unfold Chip.timeoutGoBack Chip.goBack
  rw [linkTx_setTx_self, linkTx_setTx_self]
  exact ⟨rfl, rfl, rfl⟩

/-- A retry event of an on-package lane outside its fence window is counted, and no more (R132). -/
theorem linkRetry_excepted {c : Chip} {key : Nat × Nat × Nat} (h : isPort key = false) : c.linkRetry key false = c.count (R.LANE_RETRY_COUNT key.1 key.2.1 key.2.2) := by
  simp [Chip.linkRetry, h, Chip.retryEvent]

theorem waitsForSpare_pkg (c : Chip) (l : Lane) : c.waitsForSpare (linkKey (.pkg l)) = false := by simp [Chip.waitsForSpare, isPort_pkg]

/-! Acknowledgements. -/

theorem exec_linkAckMessage {l : Lane} {s : State} (hmessage : s.chip.messageAcked (linkKey (.pkg l)) = true)
    (hdue : (s.chip.linkRx (linkKey (.pkg l))).nakDue = true ∨ 8 ≤ (s.chip.linkRx (linkKey (.pkg l))).ackSlots) :
    exec (.linkAckMessage l) s = .next (s.onChip (fun c =>
      (c.ackMessageSent (linkKey (.pkg l))).takeAck (linkKey (.pkg l)) (c.ackSeq (linkKey (.pkg l))) (c.linkRx (linkKey (.pkg l))).nakDue)) :=
  next_onChip (if_pos ⟨hmessage, hdue⟩)

section
variable (c : Chip) (key : Nat × Nat × Nat)

theorem dropSrcRun_lanes (r : SrcRun) : (c.dropSrcRun r).lanes = c.lanes := by
  unfold Chip.dropSrcRun
  split <;> rfl

/-- What an acknowledgement does to the runs of a circuit or port leaves the links alone. -/
theorem runsAcked_lanes (seqs : List Nat) : (c.runsAcked key seqs).lanes = c.lanes := by
  unfold Chip.runsAcked
  split
  · rfl
  · refine (each_keeps Chip.lanes (fun r _ c => ?_) _).trans rfl
    split
    · split
      · exact dropSrcRun_lanes c r
      · exact dropSrcRun_lanes c r
    · exact dropSrcRun_lanes c r

theorem setTx_runsAcked_lanes (seqs : List Nat) (t : LinkTx) : ((c.runsAcked key seqs).setTx key t).lanes = { c.lanes with tx := putKey key t c.lanes.tx } := by
  unfold Chip.setTx
  rw [Chip.onLanes_lanes, runsAcked_lanes]

/-- An acknowledgement without a NAK frees the frames that it covers (R126, R129). -/
theorem takeAck_lanes {a : Nat} (hfree : (c.linkTx key).suppressRow = none) : ∃ t : LinkTx, (c.takeAck key a false).lanes = { c.lanes with tx := putKey key t c.lanes.tx }
    ∧ t.replay = (c.linkTx key).replay.filter (fun f => !decide (subMod 16 a f.seq < 32768)) ∧ t.resend = min (c.linkTx key).resend t.replay.length := by
  have heard : ¬(none : Option Nat) = some c.row := by simp
  simp only [Chip.takeAck, hfree, heard, if_false, Bool.false_and, Bool.false_eq_true]
  exact ⟨_, setTx_runsAcked_lanes .., rfl, rfl⟩

/-- One that covers every held frame empties the replay buffer and leaves the receiving ends. -/
theorem takeAck_all {a : Nat} (hfree : (c.linkTx key).suppressRow = none) (hall : ∀ f ∈ (c.linkTx key).replay, subMod 16 a f.seq < 32768) :
    ((c.takeAck key a false).linkTx key).replay = [] ∧ ((c.takeAck key a false).linkTx key).resend = 0 ∧ (c.takeAck key a false).linkRx key = c.linkRx key := by
  obtain ⟨t, hlanes, hreplay, hresend⟩ := takeAck_lanes c key (a := a) hfree
  have empty : t.replay = [] := by
    rw [hreplay, List.filter_eq_nil_iff]
    simpa using hall
  have sender : (c.takeAck key a false).linkTx key = t := by
    unfold Chip.linkTx
    rw [hlanes, getKey_putKey_self]
    rfl
  rw [sender]
  refine ⟨empty, by rw [hresend, empty, List.length_nil, Nat.min_zero], ?_⟩
  unfold Chip.linkRx
  rw [hlanes]

theorem linkRx_ackMessageSent (h : (c.linkRx key).nakDue = false) : (c.ackMessageSent key).linkRx key = { c.linkRx key with ackSlots := 0 } := by
  simp [Chip.ackMessageSent, h]

end

end Sys2Proof.Machine
end

section
/-! Training of on-package lanes (R127, R135). -/

namespace Sys2Proof.Machine

/-! A fixed traffic lane and its partner. -/

theorem planeKind_fixed {s p : Nat} : Config.planeKind s p = 1 ↔ p < Config.fixedPlanes s := by
  unfold Config.planeKind
  split
  · next h => simp [h]
  · next h => split <;> [skip; split] <;> simp [h]

theorem fixedTraffic_iff {s p k : Nat} : fixedTraffic s p k = true ↔ p < Config.fixedPlanes s ∧ k ≠ 0 ∧ p < Config.fixedPlanes ((s + k) % 24) ∧ k < 24 := by
  unfold fixedTraffic fixedDest
  rw [Bool.and_eq_true, Bool.and_eq_true, Bool.and_eq_true, beq_iff_eq, planeKind_fixed, bne_iff_ne, decide_eq_true_iff]
  split <;> simp_all [and_assoc]

theorem partner_fixedTraffic {s p k : Nat} (h : fixedTraffic s p k = true) : partner s p k = some ((s + k) % 24, p, (24 - k) % 24) := by
  obtain ⟨-, hk, -⟩ := fixedTraffic_iff.mp h
  simp [partner, selfTest, hk, h]

/-- The partner of a fixed traffic lane is one too. -/
theorem fixedTraffic_partner {s p k : Nat} (hs : s < 24) (h : fixedTraffic s p k = true) : fixedTraffic ((s + k) % 24) p ((24 - k) % 24) = true := by
  obtain ⟨hsite, hk, hdest, hlt⟩ := fixedTraffic_iff.mp h
  have back : ((s + k) % 24 + (24 - k) % 24) % 24 = s := by omega
  exact fixedTraffic_iff.mpr ⟨hdest, by omega, by rw [back]; exact hsite, by omega⟩

theorem serviceState_fixedTraffic (c : Chip) {s p k : Nat} (h : fixedTraffic s p k = true) : c.serviceState s p k = lsUP := by
  have fixed : Config.planeKind s p = 1 := planeKind_fixed.mpr (fixedTraffic_iff.mp h).1
  simp [Chip.serviceState, fixed, h]

/-! A lane that enters service. -/

section
variable {c : Chip} {key : Nat × Nat × Nat}

/-- A lane that enters Up changes no register but its state (R135, R140). -/
theorem enterService_up_regs (h : c.serviceState key.1 key.2.1 key.2.2 = lsUP) : (c.enterService key).regs = (c.wr (R.LANE_STATE_STATE key.1 key.2.1 key.2.2) lsUP).regs := by
  simp only [Chip.enterService, h, Chip.setLane, if_true, Chip.onLanes_regs]
  split <;> rfl

theorem word_enterService_up (h : c.serviceState key.1 key.2.1 key.2.2 = lsUP) {o : Nat} (ho : o ≠ R.LANE_STATE key.1 key.2.1 key.2.2) : (c.enterService key).word o = c.word o :=
  (word_congr (enterService_up_regs h) o).trans (word_wr_of_ne ho)

theorem laneState_enterService_up (h : c.serviceState key.1 key.2.1 key.2.2 = lsUP) : (c.enterService key).laneState key.1 key.2.1 key.2.2 = lsUP :=
  (rd_congr (enterService_up_regs h) _).trans (rd_wr_self c lsUP (by simp) (by simp))

theorem cancelInjection_trainRow (c : Chip) (s p k : Nat) : (c.cancelInjection s p k).lanes.trainRow = c.lanes.trainRow := by
  unfold Chip.cancelInjection
  split <;> rfl

theorem setLane_trainRow (c : Chip) (s p k v : Nat) : (c.setLane s p k v).lanes.trainRow = c.lanes.trainRow := by
  have noted : ∀ b : Bool, (if b then c else c.onLanes (fun y => { y with wasUp := y.wasUp ++ [((s, p, k), c.laneState s p k == lsUP)] })).lanes.trainRow = c.lanes.trainRow := fun b => by
    cases b <;> rfl
  unfold Chip.setLane
  simp only [Chip.wr_lanes]
  split
  · exact noted _
  · exact (cancelInjection_trainRow ..).trans (noted _)

theorem trainRow_enterService : (c.enterService key).lanes.trainRow = delKey key c.lanes.trainRow := congrArg (delKey key) (setLane_trainRow c ..)

end

/-- A key that is not listed stays so when another is taken out. -/
theorem getKey_delKey_of_none {κ ν : Type} [DecidableEq κ] {k k' : κ} : ∀ {l : List (κ × ν)}, getKey k l = none → getKey k (delKey k' l) = none
  | [], _ => rfl
  | x :: xs, h => by
    unfold getKey at h
    split at h
    · cases h
    · next hne =>
      have rest := getKey_delKey_of_none (k' := k') h
      unfold delKey at rest ⊢
      by_cases hx : x.1 = k'
      · rw [List.filter_cons_of_neg (by simp [hx]), rest]
      · rw [List.filter_cons_of_pos (by simp [hx]), getKey, if_neg hne, rest]

theorem laneUp_pair {c : Chip} {key q : Nat × Nat × Nat} (hstart : c.cyc = 0) (hlit : c.laneDark key.1 key.2.1 key.2.2 = false) (htrains : c.laneState key.1 key.2.1 key.2.2 = lsTRAIN)
    (htrained : c.trained key = true) (hpartner : partner key.1 key.2.1 key.2.2 = some q) (hne : q ≠ key) (hqtrains : c.laneState q.1 q.2.1 q.2.2 = lsTRAIN) (hqtrained : c.trained q = true) :
    c.laneUp key = (c.enterService key).enterService q := by
  have notFenced : lsTRAIN ≠ lsFENCED := by decide
  simp [Chip.laneUp, hstart, hlit, htrains, htrained, hpartner, hne, hqtrains, hqtrained, notFenced]

theorem laneUp_alone {c : Chip} {key : Nat × Nat × Nat} (hstart : c.cyc = 0) (hlit : c.laneDark key.1 key.2.1 key.2.2 = false) (htrains : c.laneState key.1 key.2.1 key.2.2 = lsTRAIN)
    (htrained : c.trained key = true) (hpartner : ∀ q, partner key.1 key.2.1 key.2.2 = some q → q = key ∨ c.laneState q.1 q.2.1 q.2.2 = lsFENCED) :
    c.laneUp key = c.enterService key := by
  unfold Chip.laneUp
  rw [if_neg (by simp [hstart, hlit, htrains, htrained])]
  split
  · rfl
  · next q hq => exact if_pos (hpartner q hq)

/-- The states of two lanes of different sites lie in different registers. -/
theorem laneState_off_ne {l : Lane} {q : Nat × Nat × Nat} (hplane : q.2.1 < 64) (hk : q.2.2 < 24) (hne : q.1 ≠ l.site.val) :
    R.LANE_STATE l.site.val l.plane.val l.k.val ≠ R.LANE_STATE q.1 q.2.1 q.2.2 := by
  have := l.plane.isLt
  have := l.k.isLt
  simp only [R.LANE_STATE]
  omega

theorem exec_laneUp (l : Lane) (s : State) : exec (.laneUp l) s = .next (s.onChip (fun c => c.laneUp (linkKey (.pkg l)))) := rfl

theorem exec_trainingTimeout {l : Lane} {s : State} {r : Nat} (hrow : getKey (l.site.val, l.plane.val, l.k.val) s.chip.lanes.trainRow = some r) :
    exec (.trainingTimeout l) s = .next (s.onChip (fun c => if c.laneState l.site.val l.plane.val l.k.val = lsTRAIN ∧ r + 64 ≤ c.row then c.fence l.site.val l.plane.val l.k.val 9 false false else c)) := by
  refine next_onChip ?_
  simp only [hrow]

end Sys2Proof.Machine
end

section
/-! Writes that start and stop pattern runs and arm injections of on-package lanes (R139, R140). -/

namespace Sys2Proof.Machine

theorem exec_patternGo (req : Requester) (site : Fin 24) (v : BitVec 32) (s : State) :
    exec (.patternGo req site v) s = .next (s.onChip (fun c => c.writeReg req (R.LANE_PAT_CTRL site.val) v.toNat (patHook site.val v.toNat))) := rfl

theorem exec_patternStop (req : Requester) (site : Fin 24) (v : BitVec 32) (s : State) :
    exec (.patternStop req site v) s = .next (s.onChip (fun c => c.writeReg req (R.LANE_PAT_CTRL site.val) v.toNat (patHook site.val v.toNat))) := rfl

theorem exec_injectGo (req : Requester) (site : Fin 24) (v : BitVec 32) (s : State) :
    exec (.injectGo req site v) s = .next (s.onChip (fun c => c.writeReg req (R.LANE_INJ site.val) v.toNat (injHook site.val v.toNat))) := rfl

/-- Before a test register of a site takes effect, the choice of the lane and the states of the lanes are what they were, and so are the row and the records of the lanes. -/
def Chip.sameTests (c d : Chip) (i : Nat) : Prop :=
  (∀ f : FRef, f.off = R.LANE_PAT_SEL i → d.rd f = c.rd f) ∧ (∀ p k, p < 64 → k < 32 → d.laneState i p k = c.laneState i p k) ∧ d.lanes = c.lanes ∧ d.row = c.row ∧ d.cyc = c.cyc

theorem writeReg_sameTests {c : Chip} {req : Requester} {i off v : Nat} {f : Chip → Chip} (hacc : writeAccepted c req off) (hoff : off = R.LANE_PAT_CTRL i ∨ off = R.LANE_INJ i) :
    ∃ d, c.writeReg req off v (WriteHook.does f) = f d ∧ c.sameTests d i := by
  obtain ⟨hj, hs, he⟩ := hacc
  obtain ⟨d, hd, hsame, hwords⟩ := writeReg_does_words (v := v) (f := f) hj hs he
  refine ⟨d, hd, fun g hg => ?_, fun p k hp hk => ?_, by rw [hsame], by rw [hsame], by rw [hsame]⟩
  · have notBookkeeping : ¬ bookkeeping g.off := by
      unfold bookkeeping
      grind
    exact rd_of_word (hwords g.off (by grind) notBookkeeping) g.hi g.lo
  · have notBookkeeping : ¬ bookkeeping (R.LANE_STATE i p k) := by
      unfold bookkeeping
      grind
    exact rd_of_word (hwords _ (by grind) notBookkeeping) 31 28

theorem writeReg_patCtrl {c : Chip} {req : Requester} {i v : Nat} (hacc : writeAccepted c req (R.LANE_PAT_CTRL i)) :
    ∃ d, c.writeReg req (R.LANE_PAT_CTRL i) v (patHook i v) = (patHook i v).effect d ∧ c.sameTests d i := writeReg_sameTests (f := (patHook i v).effect) hacc (.inl rfl)

theorem writeReg_inj {c : Chip} {req : Requester} {i v : Nat} (hacc : writeAccepted c req (R.LANE_INJ i)) :
    ∃ d, c.writeReg req (R.LANE_INJ i) v (injHook i v) = (injHook i v).effect d ∧ c.sameTests d i := writeReg_sameTests (f := (injHook i v).effect) hacc (.inr rfl)

/-! LANE.PAT_CTRL. -/

/-- The run that GO asks for, of the lane and the pattern chosen in LANE.PAT_SEL. -/
def Chip.askedRun (c : Chip) (i v : Nat) : PatRun :=
  { site := i, plane := c.rd (R.LANE_PAT_SEL_PLANE i), k := c.rd (R.LANE_PAT_SEL_K i), pattern := c.rd (R.LANE_PAT_SEL_PATTERN i), row := c.boundaryAfter 64, rows := max 1 (fget v 15 0), running := false,
    selfTest := false, stop := false }

theorem askedRun_sameTests {c d : Chip} {i v : Nat} (h : c.sameTests d i) : d.askedRun i v = c.askedRun i v := by
  obtain ⟨hsel, -, -, hrow, hcyc⟩ := h
  have boundary : d.boundaryAfter 64 = c.boundaryAfter 64 := by
    unfold Chip.boundaryAfter
    rw [hrow, hcyc]
  unfold Chip.askedRun
  rw [hsel _ rfl, hsel _ rfl, hsel _ rfl, boundary]

theorem patHook_books {c : Chip} {i v : Nat} (hgo : bitOf v 31 = true) (hstop : bitOf v 30 = false) (hpattern : c.rd (R.LANE_PAT_SEL_PATTERN i) ≤ 5)
    (htraffic : monitorLane i (c.rd (R.LANE_PAT_SEL_PLANE i)) (c.rd (R.LANE_PAT_SEL_K i)) = false) (hk : c.rd (R.LANE_PAT_SEL_K i) < 24) (hplane : Config.planeKind i (c.rd (R.LANE_PAT_SEL_PLANE i)) ≠ 0)
    (hself : selfTest i (c.rd (R.LANE_PAT_SEL_PLANE i)) (c.rd (R.LANE_PAT_SEL_K i)) = false)
    (hup : c.laneState i (c.rd (R.LANE_PAT_SEL_PLANE i)) (c.rd (R.LANE_PAT_SEL_K i)) = lsUP) :
    (patHook i v).effect c = (c.patResult i 1).onLanes (fun y => { y with runs := y.runs ++ [c.askedRun i v] }) := by
  simp [patHook, WriteHook.does, hgo, hstop, not_lt.mpr hpattern, htraffic, not_le.mpr hk, hplane, hself, hup, Chip.askedRun]

theorem patHook_stops {c : Chip} {i v : Nat} (hgo : bitOf v 31 = false) (hstop : bitOf v 30 = true) :
    (patHook i v).effect c = c.onLanes (fun y => { y with runs := y.runs.map (fun r => if r.site = i then { r with stop := true } else r) }) := by
  simp [patHook, WriteHook.does, hgo, hstop]

theorem rd_patResult (c : Chip) (i n : Nat) : (c.patResult i n).rd (R.LANE_PAT_RESULT_STATUS i) = n % 16 :=
  (rd_wr_apart _ _ (by simp) (by simp) (by simp)).trans (rd_wr_self c n (by simp) (by simp))

/-! LANE.INJ. -/

theorem injHook_arms {c : Chip} {i v : Nat} (hgo : bitOf v 31 = true) (hfree : c.lanes.inj = []) (hlow : 1 ≤ fget v 29 27) (hhigh : fget v 29 27 ≤ 3) (hk : fget v 4 0 < 24)
    (hup : c.laneState i (fget v 13 8) (fget v 4 0) = lsUP) :
    (injHook i v).effect c = (c.injResult i 1).onLanes (fun y => { y with inj := y.inj ++ [⟨i, fget v 13 8, fget v 4 0, fget v 29 27, bitOf v 30⟩] }) := by
  have some_mode : fget v 29 27 ≠ 0 := by omega
  have not_clock : fget v 29 27 ≠ 7 := by omega
  simp [injHook, WriteHook.does, hgo, hfree, some_mode, not_clock, not_le.mpr hk, hup]

/-- Mode 0 is refused whatever the lane does. -/
theorem injHook_noMode {c : Chip} {i v : Nat} (hgo : bitOf v 31 = true) (hfree : c.lanes.inj = []) (hmode : fget v 29 27 = 0) : (injHook i v).effect c = c.injResult i 4 := by
  simp [injHook, WriteHook.does, hgo, hfree, hmode]

theorem rd_injResult (c : Chip) (i n : Nat) : (c.injResult i n).rd (R.LANE_INJ_RESULT_STATUS i) = n % 16 :=
  (rd_wr_apart _ _ (by simp) (by simp) (by simp)).trans (rd_wr_self c n (by simp) (by simp))

/-- The two top bits of a word, from the number that they spell. -/
theorem topBits {v n : Nat} (h : v / 2 ^ 30 = n) : bitOf v 31 = (n / 2 % 2 == 1) ∧ bitOf v 30 = (n % 2 == 1) := by
  have top : v / 2 ^ 31 = n / 2 := by rw [← h, Nat.div_div_eq_div_mul, ← pow_succ]
  exact ⟨by rw [bitOf, top], by rw [bitOf, h]⟩

end Sys2Proof.Machine
end

section
/-! The statement about timeouts, acknowledgement messages, training and tests of links (R128 to R140). -/

namespace Sys2Proof.Machine

/-- Settles O11: each clause meets one branch of its command, and an accepted write of a test register finds the lanes as they were. The boundary of a booked run is the one of log entry 133, and the
refusal of mode 0 whatever the lane does that of log entry 166. -/
theorem linkTimeoutsTrainingAndTestsComplete : Obligations.LinkTimeoutsTrainingAndTestsComplete := by
  unfold Obligations.LinkTimeoutsTrainingAndTestsComplete
  refine ⟨?_, ?_, ?_, ?_, ?_, ?_, ?_, ?_, ?_, ?_, ?_, ?_, ?_, ?_⟩
  case _ =>
    intro ln s hsent hdue
    exact completes_of_exec (exec_nakRepeatTimeout hsent hdue) ⟨linkRx_setRx_self .., rfl, rfl, onlyChip_onChip ..⟩
  case _ =>
    intro l s hheld hdue hdata hexcepted
    refine completes_of_exec (exec_gobackTimeout hheld hdue hdata (waitsForSpare_pkg ..)) ?_
    obtain ⟨hresend, hreplay, hwaited⟩ := linkTx_timeoutGoBack s.chip (linkKey (.pkg l))
    rw [State.onChip_chip, hexcepted, Bool.not_true, linkRetry_excepted (isPort_pkg l)]
    exact ⟨hresend, hreplay, hwaited, onlyChip_onChip ..⟩
  case _ =>
    intro ln s hheld hdue hdata hspare
    exact completes_of_exec (exec_gobackTimeout hheld hdue hdata hspare) ⟨rfl, onlyChip_onChip ..⟩
  case _ =>
    intro l s hmessage hdue
    exact completes_of_exec (exec_linkAckMessage hmessage hdue) ⟨rfl, onlyChip_onChip ..⟩
  case _ =>
    intro l s hmessage hnak hdue hfree hall
    refine completes_of_exec (exec_linkAckMessage hmessage (.inr hdue)) ?_
    obtain ⟨hreplay, hresend, hrx⟩ := takeAck_all (s.chip.ackMessageSent (linkKey (.pkg l))) (linkKey (.pkg l)) hfree hall
    rw [State.onChip_chip, hnak]
    exact ⟨hreplay, hresend, by rw [hrx, linkRx_ackMessageSent _ _ hnak], onlyChip_onChip ..⟩
  case _ =>
    intro l q s hstart hlit htrains htrained hpartner hsite hqtrains hqtrained hkind hfixed
    have partnered : q = ((l.site.val + l.k.val) % 24, l.plane.val, (24 - l.k.val) % 24) := Option.some.inj (hpartner.symm.trans (partner_fixedTraffic hfixed))
    have hqfixed : fixedTraffic q.1 q.2.1 q.2.2 = true := by
      rw [partnered]
      exact fixedTraffic_partner l.site.isLt hfixed
    have up := serviceState_fixedTraffic s.chip (s := l.site.val) (p := l.plane.val) (k := l.k.val) hfixed
    have qup := serviceState_fixedTraffic (s.chip.enterService (linkKey (.pkg l))) hqfixed
    have apart : R.LANE_STATE l.site.val l.plane.val l.k.val ≠ R.LANE_STATE q.1 q.2.1 q.2.2 :=
      laneState_off_ne (by rw [partnered]; exact lt_trans l.plane.isLt (by decide)) (by rw [partnered]; exact Nat.mod_lt _ (by decide)) hsite
    refine completes_of_exec (exec_laneUp l s) ?_
    rw [State.onChip_chip, laneUp_pair (key := linkKey (.pkg l)) hstart hlit htrains htrained hpartner (fun e => hsite (congrArg Prod.fst e)) hqtrains hqtrained]
    refine ⟨?_, ?_, fun o ho => ?_, onlyChip_onChip ..⟩
    · exact (rd_of_word (word_enterService_up qup apart) 31 28).trans (laneState_enterService_up (key := linkKey (.pkg l)) up)
    · rw [trainRow_enterService]
      exact getKey_delKey_of_none (by rw [trainRow_enterService]; exact getKey_delKey_self ..)
    · obtain ⟨hl, hq⟩ := not_or.mp (by simpa using ho)
      exact (word_enterService_up qup hq).trans (word_enterService_up (key := linkKey (.pkg l)) up hl)
  case _ =>
    intro l q s hstart hlit htrains htrained hpartner hne hqtrains hqtrained
    refine completes_of_exec (exec_laneUp l s) ⟨?_, onlyChip_onChip ..⟩
    exact laneUp_pair hstart hlit htrains htrained hpartner hne hqtrains hqtrained
  case _ =>
    intro l s hstart hlit htrains htrained hpartner
    refine completes_of_exec (exec_laneUp l s) ⟨?_, onlyChip_onChip ..⟩
    exact laneUp_alone hstart hlit htrains htrained hpartner
  case _ =>
    intro l r s hrow htrains hdue
    exact completes_of_exec (exec_trainingTimeout hrow) ⟨if_pos ⟨htrains, hdue⟩, onlyChip_onChip ..⟩
  case _ =>
    intro l r s hrow hsoon
    have early : ¬(s.chip.laneState l.site.val l.plane.val l.k.val = lsTRAIN ∧ r + 64 ≤ s.chip.row) := fun h => absurd h.2 (not_le.mpr hsoon)
    rw [exec_trainingTimeout hrow]
    exact next_onChip (g := id) (if_neg early)
  case _ =>
    intro req site v s hacc hgo hpattern htraffic hk hplane hself hup
    obtain ⟨hgo, hstop⟩ := topBits hgo
    obtain ⟨d, hwrite, htests⟩ := writeReg_patCtrl (v := v.toNat) hacc
    obtain ⟨hsel, hlanes, hrecords, -, -⟩ := id htests
    have hplane64 : s.chip.rd (R.LANE_PAT_SEL_PLANE site.val) < 64 := rd_lt ..
    have hk32 := lt_trans hk (show 24 < 32 by decide)
    have books := patHook_books (c := d) hgo hstop (by rwa [hsel _ rfl]) (by rwa [hsel _ rfl, hsel _ rfl]) (by rwa [hsel _ rfl]) (by rwa [hsel _ rfl]) (by rwa [hsel _ rfl, hsel _ rfl])
      (by rw [hsel _ rfl, hsel _ rfl, hlanes _ _ hplane64 hk32]; exact hup)
    refine completes_of_exec (exec_patternGo req site v s) ?_
    rw [State.onChip_chip, hwrite, books]
    refine ⟨(rd_onLanes ..).trans (rd_patResult d site.val 1), ?_, onlyChip_onChip ..⟩
    have records : (d.patResult site.val 1).lanes = s.chip.lanes := hrecords
    rw [Chip.onLanes_lanes, records, askedRun_sameTests htests]
    rfl
  case _ =>
    intro req site v s hacc hbits
    obtain ⟨hgo, hstop⟩ := topBits hbits
    obtain ⟨d, hwrite, -, -, hrecords, -⟩ := writeReg_patCtrl (v := v.toNat) hacc
    refine completes_of_exec (exec_patternStop req site v s) ?_
    rw [State.onChip_chip, hwrite, patHook_stops hgo hstop, Chip.onLanes_lanes, hrecords]
    exact ⟨rfl, onlyChip_onChip ..⟩
  case _ =>
    intro req site v s hacc hgo hfree hlow hhigh hk hup
    obtain ⟨d, hwrite, -, hlanes, hrecords, -⟩ := writeReg_inj (v := v.toNat) hacc
    have free : d.lanes.inj = [] := by rw [hrecords, hfree]
    have hplane64 : fget v.toNat 13 8 < 64 := fget_lt v.toNat 13 8
    have hk32 := lt_trans hk (show 24 < 32 by decide)
    have arms := injHook_arms (c := d) hgo free hlow hhigh hk ((hlanes _ _ hplane64 hk32).trans hup)
    refine completes_of_exec (exec_injectGo req site v s) ?_
    rw [State.onChip_chip, hwrite, arms]
    exact ⟨congrArg (· ++ _) free, (rd_onLanes ..).trans (rd_injResult d site.val 1), onlyChip_onChip ..⟩
  case _ =>
    intro req site v s hacc hgo hfree hmode
    obtain ⟨d, hwrite, -, -, hrecords, -⟩ := writeReg_inj (v := v.toNat) hacc
    have free : d.lanes.inj = [] := by rw [hrecords, hfree]
    refine completes_of_exec (exec_injectGo req site v s) ?_
    rw [State.onChip_chip, hwrite, injHook_noMode hgo free hmode]
    exact ⟨free, rd_injResult d site.val 4, onlyChip_onChip ..⟩

end Sys2Proof.Machine
end

section
/-! Frames that come while the mesh stands still (R126, R446). -/

namespace Sys2Proof.Machine

/-- No frame is taken while the mesh stands still. -/
theorem exec_frameReceive_meshStopped {s : State} (h : s.chip.meshStopped = true) (ln : LinkLane) (f : Frame) (pos : Fin 77) (words : List (List (BitVec 10))) :
    exec (.frameReceive ln f pos words) s = .next s := congrArg Host.Outcome.next (if_pos h)

/-- Where the scramblers of the two ends agree, a frame comes as it left (R118). -/
theorem unscrambled_of_agree {c : Chip} {key : Nat × Nat × Nat} {x : Side} (hx : c.rxSide key.1 key.2.1 key.2.2 = some x) (h : c.scrambles key.1 = c.scrambles x.site) (pos : Nat) (f : Frame) :
    c.unscrambled key pos f = f := by
  simp only [Chip.unscrambled, hx, h, if_true]

/-- A frame whose link CRC is one too high. -/
def crcTooHigh (f : Frame) : Frame := { f with crc := crc32 (Frame.body f) + 1 }

theorem crcOk_crcTooHigh (f : Frame) : Frame.crcOk (crcTooHigh f) = false := beq_false_of_ne (Nat.succ_ne_self (crc32 (Frame.body f)))

/-- Lane 3 of plane 0 of site 8, which ends at site 11. -/
def fixedLane : Lane := ⟨8, 0, 3⟩

/-- The fixed lane was Up as the package went into the clock-loss safe state. -/
def upInSafeState : State :=
  { State.reset with chip := (State.reset.chip.wr (R.LANE_STATE_STATE 8 0 3) lsUP).onPins (fun p => { p with phase := .safe }) }

theorem lane_upInSafeState : upInSafeState.chip.rxState (linkKey (.pkg fixedLane)) = lsUP ∧ upInSafeState.chip.rxErrReg (linkKey (.pkg fixedLane)) = some (R.LANE_RX_ERR 11 0 3) := by decide +kernel

theorem linkRx_upInSafeState : upInSafeState.chip.linkRx (linkKey (.pkg fixedLane)) = {} := by decide +kernel

theorem scramblers_upInSafeState : upInSafeState.chip.rxSide 8 0 3 = some ⟨11, 0, true⟩ ∧ upInSafeState.chip.scrambles 8 = upInSafeState.chip.scrambles 11 := by decide +kernel

/-- Refutes O10: the clause on a frame that fails its CRC asks that the lane runs and not that the mesh does. In the clock-loss safe state (R446) a lane that was Up still shows Up, no frame is taken,
and no NAK is due. -/
theorem not_frameReceivingCompletes : ¬ Obligations.FrameReceivingCompletes := by
  rintro ⟨hcrc, -⟩
  obtain ⟨hup, hreg⟩ := lane_upInSafeState
  obtain ⟨hside, hagree⟩ := scramblers_upInSafeState
  have hruns : upInSafeState.chip.rxState (linkKey (.pkg fixedLane)) ∉ [lsOFF, lsFENCED, lsCAL] := by
    rw [hup]
    decide
  have hplain := unscrambled_of_agree (key := linkKey (.pkg fixedLane)) hside hagree 3 (crcTooHigh {})
  obtain ⟨t, hexec, -, hnak, -⟩ := hcrc (.pkg fixedLane) (crcTooHigh {}) 3 (R.LANE_RX_ERR 11 0 3) upInSafeState hruns hreg (.inr hplain) (crcOk_crcTooHigh {})
    (by rw [linkRx_upInSafeState])
  rw [exec_frameReceive_meshStopped rfl] at hexec
  cases hexec
  rw [linkRx_upInSafeState] at hnak
  exact Bool.false_ne_true hnak

end Sys2Proof.Machine
end

section
/-! Link messages that are repeated (R215, R222). -/

namespace Sys2Proof.Machine

/-- A re-deal message that was taken before changes nothing. -/
theorem exec_redealLinkMessage_repeated {s : State} {j : Fin 16} {lane : Fin 40} {q : BitVec 16} {n : BitVec 8}
    (h : s.chip.newMsg j.val (linkMsg 8 lane.val lane.val (q.toNat * 2 ^ 32 + n.toNat * 2 ^ 24)) = false) : exec (.redealLinkMessage j lane q n) s = .next s :=
  next_onChip (g := id) (if_pos h)

/-- Port 0 has taken a re-deal message for its lane 0, and no re-deal has been counted since. -/
def redealTaken : State := { State.reset with chip := State.reset.chip.takeMsg 0 (linkMsg 8 0 0 0) }

/-- Refutes O18: the clause on REDEAL_LINK_MESSAGE does not ask that the message is new. One that is repeated is taken once (R215), and no further re-deal is counted. -/
theorem not_portMessageCommandsComplete : ¬ Obligations.PortMessageCommandsComplete := by
  rintro ⟨-, -, -, -, -, -, -, -, -, -, hredeal, -⟩
  obtain ⟨t, hexec, hcount, -⟩ := hredeal 0 0 0 0 redealTaken
  rw [exec_redealLinkMessage_repeated (by decide)] at hexec
  cases hexec
  exact absurd hcount (by decide)

end Sys2Proof.Machine
end

section
/-! Numbers as little-endian bytes and as words of fields (R117, R141). -/

namespace Sys2Proof.Machine

/-! Little-endian bytes. -/

@[simp] theorem length_leBytes : ∀ n v : Nat, (leBytes n v).length = n
  | 0, _ => rfl
  | n + 1, v => congrArg (· + 1) (length_leBytes n (v / 256))

theorem leNat_leBytes : ∀ n v : Nat, leNat (leBytes n v) = v % 256 ^ n
  | 0, v => by simp [leBytes, leNat, Nat.mod_one]
  | n + 1, v => by rw [leBytes, leNat, leNat_leBytes n, Nat.mod_mod, pow_succ', Nat.mod_mul]

theorem leNat_lt : ∀ l : List Nat, leNat l < 256 ^ l.length
  | [] => Nat.one_pos
  | b :: l => by
    have rest := leNat_lt l
    rw [leNat, List.length_cons, pow_succ']
    omega

theorem leBytes_leNat : ∀ {l : List Nat}, bytesOk l = true → leBytes l.length (leNat l) = l
  | [], _ => rfl
  | b :: l, h => by
    obtain ⟨hb, hl⟩ : b < 256 ∧ bytesOk l = true := by simpa [bytesOk] using h
    have low : (b % 256 + 256 * leNat l) % 256 = b := by omega
    have high : (b % 256 + 256 * leNat l) / 256 = leNat l := by omega
    rw [leNat, List.length_cons, leBytes, low, high, leBytes_leNat hl]

theorem leField_lt (bs : List Nat) (i n : Nat) : leField bs i n < 256 ^ n :=
  (leNat_lt _).trans_le (Nat.pow_le_pow_right (by decide) (List.length_take_le ..))

/-- A number that bytes spell, written back as bytes. -/
theorem leBytes_leField {bs : List Nat} (h : bytesOk bs = true) {i n : Nat} (hlen : i + n ≤ bs.length) : leBytes n (leField bs i n) = (bs.drop i).take n := by
  have part : bytesOk ((bs.drop i).take n) = true :=
    List.all_eq_true.mpr (fun b hb => List.all_eq_true.mp h b (List.mem_of_mem_drop (List.mem_of_mem_take hb)))
  have len : ((bs.drop i).take n).length = n := by simp; omega
  calc leBytes n (leField bs i n) = leBytes ((bs.drop i).take n).length (leNat ((bs.drop i).take n)) := by rw [len, leField]
    _ = (bs.drop i).take n := leBytes_leNat part

/-- A number at the front of a list of bytes reads back. -/
theorem leField_front (n v : Nat) (l : List Nat) : leField (leBytes n v ++ l) 0 n = v % 256 ^ n := by
  rw [leField, List.drop_zero, List.take_left' (length_leBytes n v), leNat_leBytes]

/-- What lies before a number does not bear on it. -/
theorem leField_behind {a : List Nat} {k : Nat} (ha : a.length = k) (l : List Nat) (i n : Nat) : leField (a ++ l) (k + i) n = leField l i n := by
  rw [leField, ← List.drop_drop, List.drop_left' ha, leField]

theorem leField_behindNumber (n v : Nat) (l : List Nat) (i m : Nat) : leField (leBytes n v ++ l) (n + i) m = leField l i m := leField_behind (length_leBytes n v) l i m

/-! Words of fields. -/

/-- The word that holds fields from bit 0 up, each given by its width and its value. -/
def packed : List (Nat × Nat) → Nat
  | [] => 0
  | (n, v) :: l => v % 2 ^ n + 2 ^ n * packed l

/-- The fields of given widths that a word holds from bit `lo` up. -/
def fieldsFrom (w : Nat) : Nat → List Nat → List (Nat × Nat)
  | _, [] => []
  | lo, n :: ns => (n, fget w (lo + n - 1) lo) :: fieldsFrom w (lo + n) ns

/-- Every field lies within its width. -/
def fieldsFit (l : List (Nat × Nat)) : Prop := ∀ x ∈ l, 0 < x.1 ∧ x.2 < 2 ^ x.1

theorem packed_lt : ∀ l : List (Nat × Nat), packed l < 2 ^ (l.map Prod.fst).sum
  | [] => Nat.one_pos
  | (n, v) :: l => by
    have low := Nat.mod_lt v (Nat.two_pow_pos n)
    have rest := Nat.mul_le_mul_left (2 ^ n) (packed_lt l)
    rw [Nat.mul_succ] at rest
    calc packed ((n, v) :: l) = v % 2 ^ n + 2 ^ n * packed l := rfl
      _ < 2 ^ n * 2 ^ (l.map Prod.fst).sum := by omega
      _ = 2 ^ (((n, v) :: l).map Prod.fst).sum := by rw [List.map_cons, List.sum_cons, pow_add]

/-- Reading a word field by field gives the fields it was made of: no two share a bit. -/
theorem fieldsFrom_packed {w : Nat} : ∀ {l : List (Nat × Nat)} {lo : Nat}, fieldsFit l → w / 2 ^ lo = packed l → fieldsFrom w lo (l.map Prod.fst) = l
  | [], _, _, _ => rfl
  | (n, v) :: l, lo, hfit, hw => by
    obtain ⟨⟨hn, hv⟩, hl⟩ := List.forall_mem_cons.mp hfit
    have field : fget w (lo + n - 1) lo = v := by
      rw [fget, hw, packed, show lo + n - 1 + 1 - lo = n by omega, Nat.add_mul_mod_self_left, Nat.mod_mod, Nat.mod_eq_of_lt hv]
    have rest : w / 2 ^ (lo + n) = packed l := by
      rw [pow_add, ← Nat.div_div_eq_div_mul, hw, packed, Nat.add_mul_div_left _ _ (Nat.two_pow_pos n), Nat.div_eq_of_lt (Nat.mod_lt _ (Nat.two_pow_pos n)), Nat.zero_add]
    rw [List.map_cons, fieldsFrom, field, fieldsFrom_packed hl rest]

/-- Fields that cover a word make it up: no bit is left out. -/
theorem packed_fieldsFrom (w : Nat) : ∀ (ns : List Nat) (lo : Nat), (∀ n ∈ ns, 0 < n) → packed (fieldsFrom w lo ns) = w / 2 ^ lo % 2 ^ ns.sum
  | [], lo, _ => by simp [fieldsFrom, packed, Nat.mod_one]
  | n :: ns, lo, hpos => by
    obtain ⟨hn, hns⟩ := List.forall_mem_cons.mp hpos
    rw [fieldsFrom, packed, packed_fieldsFrom w ns (lo + n) hns, List.sum_cons, pow_add 2 n, Nat.mod_mul, fget, show lo + n - 1 + 1 - lo = n by omega, Nat.mod_mod,
      Nat.div_div_eq_div_mul, ← pow_add]

end Sys2Proof.Machine
end

section
/-! The 96 bytes of a stitch (R141). -/

namespace Sys2Proof.Machine

/-- The fields of the route word from bit 0 up (R141). -/
def Stitch.routeFields (st : Stitch) : List (Nat × Nat) :=
  [(13, st.rsv), (1, st.escape), (5, st.hops), (3, st.cls), (4, st.tenant), (5, st.srcSite), (12, st.srcNode), (5, st.dstSite), (12, st.dstNode), (4, st.version)]

/-- The fields of the op word from bit 0 up (R141). -/
def Stitch.opFields (st : Stitch) : List (Nat × Nat) :=
  [(10, st.opf), (2, st.cnt), (6, st.countM1), (6, st.start), (16, st.sync), (16, st.seq), (8, st.opcode)]

/-- The fields of the address word from bit 0 up (R141). -/
def Stitch.addrFields (st : Stitch) : List (Nat × Nat) := [(46, st.ppa), (18, st.opspec)]

theorem routeWord_eq (st : Stitch) : Stitch.routeWord st st.hops st.escape = packed (Stitch.routeFields st) := by
  simp only [Stitch.routeWord, Stitch.routeFields, packed]
  norm_num
  ring

theorem opWord_eq (st : Stitch) : Stitch.opWord st = packed (Stitch.opFields st) := by
  simp only [Stitch.opWord, Stitch.opFields, packed]
  norm_num
  ring

theorem addrWord_eq (st : Stitch) : Stitch.addrWord st = packed (Stitch.addrFields st) := by
  simp only [Stitch.addrWord, Stitch.addrFields, packed]
  norm_num
  ring

/-- The parts of the 96 bytes, one after the other. -/
theorem bytes_eq (st : Stitch) : Stitch.bytes st = leBytes 8 (Stitch.routeWord st st.hops st.escape) ++ (leBytes 8 (Stitch.opWord st) ++ (leBytes 8 (Stitch.addrWord st)
    ++ (padTo 64 st.data ++ (leBytes 4 st.entryTs ++ (leBytes 4 st.check ++ []))))) := by
  simp only [Stitch.bytes, Stitch.body, List.append_assoc, List.append_nil]

/-- The numbers of a stitch with 64 bytes of DATA, as its bytes hold them. -/
theorem leField_bytes {st : Stitch} (h : st.data.length = 64) :
    leField (Stitch.bytes st) 0 8 = Stitch.routeWord st st.hops st.escape % 2 ^ 64 ∧ leField (Stitch.bytes st) 8 8 = Stitch.opWord st % 2 ^ 64
      ∧ leField (Stitch.bytes st) 16 8 = Stitch.addrWord st % 2 ^ 64 ∧ ((Stitch.bytes st).drop 24).take 64 = st.data
      ∧ leField (Stitch.bytes st) 88 4 = st.entryTs % 2 ^ 32 ∧ leField (Stitch.bytes st) 92 4 = st.check % 2 ^ 32 := by
  rw [bytes_eq, padTo_of_length h]
  refine ⟨leField_front .., ?_, ?_, ?_, ?_, ?_⟩
  · rw [leField_behindNumber 8 _ _ 0, leField_front]
    norm_num
  · rw [leField_behindNumber 8 _ _ 8, leField_behindNumber 8 _ _ 0, leField_front]
    norm_num
  · rw [← List.append_assoc, ← List.append_assoc, List.drop_left' (by simp), List.take_left' h]
  · rw [leField_behindNumber 8 _ _ 80, leField_behindNumber 8 _ _ 72, leField_behindNumber 8 _ _ 64, leField_behind h _ 0, leField_front]
    norm_num
  · rw [leField_behindNumber 8 _ _ 84, leField_behindNumber 8 _ _ 76, leField_behindNumber 8 _ _ 68, leField_behind h _ 4, leField_behindNumber 4 _ _ 0, leField_front]
    norm_num

/-- The fields of a stitch that are read from its bytes. -/
theorem fields_parse (bs : List Nat) : Stitch.routeFields (Stitch.parse bs) = fieldsFrom (leField bs 0 8) 0 [13, 1, 5, 3, 4, 5, 12, 5, 12, 4]
    ∧ Stitch.opFields (Stitch.parse bs) = fieldsFrom (leField bs 8 8) 0 [10, 2, 6, 6, 16, 16, 8] ∧ Stitch.addrFields (Stitch.parse bs) = fieldsFrom (leField bs 16 8) 0 [46, 18] :=
  ⟨rfl, rfl, rfl⟩

/-- The parts of a stitch determine it. -/
theorem stitch_eq {a b : Stitch} (hroute : Stitch.routeFields a = Stitch.routeFields b) (hop : Stitch.opFields a = Stitch.opFields b)
    (haddr : Stitch.addrFields a = Stitch.addrFields b) (hdata : a.data = b.data) (hts : a.entryTs = b.entryTs) (hcheck : a.check = b.check) (htag : a.tag = b.tag) : a = b := by
  cases a
  cases b
  simp_all [Stitch.routeFields, Stitch.opFields, Stitch.addrFields]

/-- A well-formed stitch, by its parts. -/
theorem stitch_wf_iff (st : Stitch) : Stitch.wf st = true ↔ bytesWithin 64 st.data = true ∧ fieldsFit (Stitch.routeFields st) ∧ fieldsFit (Stitch.opFields st)
    ∧ fieldsFit (Stitch.addrFields st) ∧ st.entryTs < 2 ^ 32 ∧ st.check < 2 ^ 32 := by
  simp only [Stitch.wf, fits, fieldsFit, Stitch.routeFields, Stitch.opFields, Stitch.addrFields, Bool.and_eq_true, List.all_eq_true, decide_eq_true_eq, List.map_cons, List.map_nil,
    List.cons_append, List.nil_append, List.forall_mem_cons, List.not_mem_nil, Nat.div_eq_zero_iff]
  norm_num
  tauto

/-- A word of fields that fit, cut to the bits that they take, reads back field by field. -/
theorem fieldsFrom_word {l : List (Nat × Nat)} {n : Nat} (hn : (l.map Prod.fst).sum = n) (hfit : fieldsFit l) : fieldsFrom (packed l % 2 ^ n) 0 (l.map Prod.fst) = l := by
  refine fieldsFrom_packed hfit ?_
  rw [Nat.pow_zero, Nat.div_one, Nat.mod_eq_of_lt (hn ▸ packed_lt l)]

/-- Settles O48: every field is a run of bits of its own, and reads back as it was laid out. -/
theorem stitchesKeepTheirFieldsInBytes : Obligations.StitchesKeepTheirFieldsInBytes := by
  intro st hwf hlen htag
  obtain ⟨-, hroute, hop, haddr, hts, hcheck⟩ := (stitch_wf_iff st).mp hwf
  obtain ⟨broute, bop, baddr, bdata, bts, bcheck⟩ := leField_bytes hlen
  obtain ⟨proute, pop, paddr⟩ := fields_parse (Stitch.bytes st)
  refine ⟨by simp [bytes_eq, padTo_of_length hlen, hlen], stitch_eq ?_ ?_ ?_ bdata ?_ ?_ htag.symm⟩
  · rw [proute, broute, routeWord_eq]
    exact fieldsFrom_word rfl hroute
  · rw [pop, bop, opWord_eq]
    exact fieldsFrom_word rfl hop
  · rw [paddr, baddr, addrWord_eq]
    exact fieldsFrom_word rfl haddr
  · exact bts.trans (Nat.mod_eq_of_lt hts)
  · exact bcheck.trans (Nat.mod_eq_of_lt hcheck)

theorem fieldsFit_fieldsFrom (w : Nat) : ∀ (ns : List Nat) (lo : Nat), (∀ n ∈ ns, 0 < n) → fieldsFit (fieldsFrom w lo ns)
  | [], _, _ => fun _ h => absurd h List.not_mem_nil
  | n :: ns, lo, hpos => by
    obtain ⟨hn, hns⟩ := List.forall_mem_cons.mp hpos
    have width : lo + n - 1 + 1 - lo = n := by omega
    exact List.forall_mem_cons.mpr ⟨⟨hn, (fget_lt ..).trans_eq (congrArg (2 ^ ·) width)⟩, fieldsFit_fieldsFrom w ns (lo + n) hns⟩

/-- A word of 8 bytes that is read field by field and laid out again. -/
theorem packed_leField {bs : List Nat} {i : Nat} {ns : List Nat} (hsum : ns.sum = 64) (hpos : ∀ n ∈ ns, 0 < n) : packed (fieldsFrom (leField bs i 8) 0 ns) = leField bs i 8 := by
  rw [packed_fieldsFrom _ ns 0 hpos, hsum, Nat.pow_zero, Nat.div_one, Nat.mod_eq_of_lt]
  exact leField_lt bs i 8

/-- Pieces of a list that follow one another make it up. -/
theorem take_append_piece {α : Type} (l : List α) (i n : Nat) (b : List α) : l.take i ++ ((l.drop i).take n ++ b) = l.take (i + n) ++ b := by
  rw [← List.append_assoc, ← List.take_add]

theorem stitch_wf_parse {bs : List Nat} (hok : bytesOk bs = true) : Stitch.wf (Stitch.parse bs) = true := by
  obtain ⟨proute, pop, paddr⟩ := fields_parse bs
  refine (stitch_wf_iff _).mpr ⟨?_, proute ▸ fieldsFit_fieldsFrom _ _ _ (by decide), pop ▸ fieldsFit_fieldsFrom _ _ _ (by decide), paddr ▸ fieldsFit_fieldsFrom _ _ _ (by decide),
    leField_lt bs 88 4, leField_lt bs 92 4⟩
  have bytes : ∀ b ∈ (bs.drop 24).take 64, b < 256 := fun b hb => of_decide_eq_true (List.all_eq_true.mp hok b (List.mem_of_mem_drop (List.mem_of_mem_take hb)))
  simpa [bytesWithin, bytesOk, Stitch.parse] using bytes

/-- Settles O49: the widths of the fields of each word add up to its 64 bits, and the words, DATA and the two numbers after it to the 96 bytes. -/
theorem bytesOfAStitchAllCount : Obligations.BytesOfAStitchAllCount := by
  intro bs hlen hok
  obtain ⟨proute, pop, paddr⟩ := fields_parse bs
  have data : (Stitch.parse bs).data.length = 64 := by simp [Stitch.parse, hlen]
  refine ⟨stitch_wf_parse hok, data, ?_⟩
  rw [bytes_eq, padTo_of_length data, routeWord_eq, opWord_eq, addrWord_eq, proute, pop, paddr, packed_leField rfl (by decide), packed_leField rfl (by decide), packed_leField rfl (by decide)]
  have piece := fun (i n : Nat) (h : i + n ≤ 96) => leBytes_leField hok (i := i) (n := n) (hlen ▸ h)
  show leBytes 8 (leField bs 0 8) ++ (leBytes 8 (leField bs 8 8) ++ (leBytes 8 (leField bs 16 8) ++ ((bs.drop 24).take 64 ++ (leBytes 4 (leField bs 88 4) ++ (leBytes 4 (leField bs 92 4) ++ []))))) = bs
  rw [piece 0 8 (by decide), piece 8 8 (by decide), piece 16 8 (by decide), piece 88 4 (by decide), piece 92 4 (by decide)]
  rw [List.drop_zero, take_append_piece, take_append_piece, take_append_piece, take_append_piece, take_append_piece, List.append_nil, List.take_of_length_le (by omega)]

end Sys2Proof.Machine
end

section
/-! A request that is refused at its source adapter (R151, R259). -/

namespace Sys2Proof.Machine

/-- Core 0 of compute die 1 is owned by partition 1, which is not enabled. -/
def ownerNotEnabled : State :=
  { State.reset with chip := (State.reset.chip.wr (R.CMP_CORE_STATE_OWNED 1 0) 1).wr (R.CMP_CORE_STATE_TENANT 1 0) 1 }

/-- A LOAD of the first block of HBM, as its adapter has aimed it at the block's owner. -/
def loadOfBlockZero : Stitch := { dstSite := 10, tenant := 1, cls := 1, opcode := opLOAD }

/-- The LOAD reaches the tenant check, and fails it. -/
theorem loadOfBlockZero_refused :
    ownerNotEnabled.chip.ctxTenant 1 (.core 0) = some 1 ∧ ownerNotEnabled.chip.rd (R.PART_STATE_STATE 1) ≠ 3
      ∧ ownerNotEnabled.chip.aim 0 { withOwner (.core 0) loadOfBlockZero with tag := 0, tenant := 1 } = (stOK, loadOfBlockZero)
      ∧ ownerNotEnabled.chip.entryCheck 1 loadOfBlockZero = stTENANT := by decide +kernel

/-- The LOAD's completion carries zero data. -/
theorem done_loadOfBlockZero :
    (ownerNotEnabled.chip.request 1 0 loadOfBlockZero).xport.done = some ⟨1, opLOAD, 1, 0, stTENANT, List.replicate 64 0⟩ := by decide +kernel

theorem exec_stitchEntry {site : Fin 24} {ctx : IssueCtx} {tn : Nat} (top : Fin 64) (req : Stitch) {s : State} (h : s.chip.ctxTenant site.val ctx = some tn) :
    exec (.stitchEntry site ctx top req) s = .next (s.onChip (fun c => c.request site.val top.val { withOwner ctx req with tag := 0, tenant := tn })) :=
  next_onChip (f := fun c => match c.ctxTenant site.val ctx with
    | some t => c.request site.val top.val { withOwner ctx req with tag := 0, tenant := t }
    | none => c) (by simp only [h])

/-- Refutes O12: the clause on a request that fails the tenant check asks that its completion carries no data. That of a LOAD carries 64 zero
bytes with the status, as a LOAD has with an error (R259). -/
theorem not_sourceAdapterCommandsComplete : ¬ Obligations.SourceAdapterCommandsComplete := by
  rintro ⟨-, -, -, hrefused, -⟩
  obtain ⟨htenant, hstate, haim, hcheck⟩ := loadOfBlockZero_refused
  obtain ⟨t, hexec, -, -, hdone, -⟩ := hrefused 1 (.core 0) 0 loadOfBlockZero loadOfBlockZero 1 ownerNotEnabled htenant hstate (by decide) haim (by decide) rfl hcheck rfl
  rw [exec_stitchEntry 0 loadOfBlockZero htenant] at hexec
  cases hexec
  exact absurd (done_loadOfBlockZero.symm.trans hdone) (by decide)

end Sys2Proof.Machine
end

section
/-! A STORE whose acknowledgement sends an earlier one (R152, R156). -/

namespace Sys2Proof.Machine

/-- A stitch that waits at its adapter and does not have to stay there is taken. -/
theorem exec_stitchArrival_taken {site : Fin 32} {plane k : Fin 64} {st : Stitch} {s : State} (ecc : Fin 3) (hwaits : (⟨site.val, plane.val, k.val, st⟩ : Arrived) ∈ s.chip.xport.arrived)
    (hresponse : opResponse st.opcode = false) (hstalls : s.stallsOpening site.val plane.val st = false) :
    exec (.stitchArrival site plane k ecc st) s = .next ((s.onChip (fun c => c.onXport (fun x => { x with
      arrived := dropFirst (fun y => y == ⟨site.val, plane.val, k.val, st⟩) x.arrived }))).arrival site.val plane.val k.val ecc.val st) := by
  have stays : (opResponse st.opcode || s.stallsOpening site.val plane.val st) = false := by rw [hresponse, hstalls, Bool.false_or]
  have taken : s.takeArrived site.val plane.val k.val st (fun s => s.arrival site.val plane.val k.val ecc.val st) = (s.onChip (fun c => c.onXport (fun x => { x with
      arrived := dropFirst (fun y => y == ⟨site.val, plane.val, k.val, st⟩) x.arrived }))).arrival site.val plane.val k.val ecc.val st := if_pos (List.contains_iff_mem.mpr hwaits)
  exact congrArg Host.Outcome.next ((if_neg (ne_true_of_eq_false stays)).trans taken)

theorem dropFirst_only {α : Type} [BEq α] [ReflBEq α] (a : α) : dropFirst (fun y => y == a) [a] = [] := by simp [dropFirst]

/-- A STORE of a whole block of the stacked SRAM of die 0, in the name of the service of this node. -/
def serviceStore : Stitch :=
  Stitch.sealed { srcSite := 31, tenant := 1, cls := 1, opcode := opSTORE, seq := 512, countM1 := 63, ppa := 0x10000000000 }

/-- The STORE waits at its adapter, which has collected an ACK for the sequence 512 before it. -/
def oldAckPending : State :=
  { State.reset with chip := ((((State.reset.chip.wr ⟨R.PART_SRAM_OWN 0, 7, 0⟩ 129).wr (R.PART_TENANT_EN 1) 1).wr (R.PART_STATE_STATE 1) 2).onXport (fun x => { x with
      acks := [⟨0, 0, 31, 1, 0, 0, [0], 0⟩], arrived := [⟨0, 3, 7, serviceStore⟩] })) }

/-- The STORE passes every check, meets no recall and no zeroing. -/
theorem serviceStore_passes :
    Stitch.checkOk serviceStore = true ∧ oldAckPending.chip.rd (R.PART_STATE_STATE 1) ≠ 3 ∧ oldAckPending.chip.arrivalCheck 0 0 serviceStore = stOK
      ∧ rangeOf 0x10000000000 = .sram ∧ oldAckPending.chip.resolve 1 0x10000000000 = some 0x10000000000 ∧ oldAckPending.chip.placeGood 0x10000000000 = true
      ∧ oldAckPending.chip.obstacle [0x10000000000] true none = none := by decide +kernel

theorem serviceStore_waits : (⟨0, 3, 7, serviceStore⟩ : Arrived) ∈ oldAckPending.chip.xport.arrived := List.mem_singleton_self _

theorem serviceStore_notStalled : oldAckPending.stallsOpening 0 3 serviceStore = false := by decide +kernel

/-- The machine as the STORE has been taken and performed. -/
def serviceStoreDone : State :=
  (oldAckPending.onChip (fun c => c.onXport (fun x => { x with arrived := dropFirst (fun y => y == ⟨0, 3, 7, serviceStore⟩) x.arrived }))).arrival 0 3 7 0 serviceStore

theorem exec_serviceStore : exec (.stitchArrival 0 3 7 0 serviceStore) oldAckPending = .next serviceStoreDone :=
  exec_stitchArrival_taken 0 serviceStore_waits rfl serviceStore_notStalled

/-- The old ACK, which the new sequence does not fit, has gone to the service over the control network. -/
theorem arrived_serviceStoreDone : serviceStoreDone.chip.xport.arrived.map (fun a => (a.site, a.st.opcode)) = [(31, opACK)] := by decide +kernel

/-- Refutes O13: the clause on a STORE asks that of the arrived stitches only the STORE is gone. Its acknowledgement may send the ACK that its flow has collected (R156), and an ACK for the
service of this node arrives there at once. -/
theorem not_destinationAdapterCommandsComplete : ¬ Obligations.DestinationAdapterCommandsComplete := by
  rintro ⟨hstore, -⟩
  obtain ⟨hcheck, hstate, hpasses, hrange, hplace, hgood, hfree⟩ := serviceStore_passes
  obtain ⟨t, hexec, -, harrived, -⟩ := hstore 0 3 7 serviceStore 0x10000000000 oldAckPending serviceStore_waits hcheck rfl rfl hstate hpasses hrange hrange hplace hgood hfree
  obtain rfl := Host.Outcome.next.inj (exec_serviceStore.symm.trans hexec)
  have ack := arrived_serviceStoreDone
  rw [harrived.trans (dropFirst_only _)] at ack
  exact List.cons_ne_nil _ _ ack.symm

end Sys2Proof.Machine
end

section
/-! Writes of the receive queues' registers and of the tenants' shares (R167, R170). -/

namespace Sys2Proof.Machine

/-! Accepted writes that a register's own rules ignore or take. -/

theorem writeReg_ignored {c : Chip} {req : Requester} {off v : Nat} {h : WriteHook} (hacc : writeAccepted c req off) (htakes : h.takes = false) : c.writeReg req off v h = h.ignored c := by
  obtain ⟨r, is, hf⟩ := findReg_of_judge_ok hacc.1
  rw [writeReg_of_accepted v h hacc, Chip.acceptWrite, hf]
  simp only [htakes, Bool.false_eq_true, if_false]

/-- A write of an operator's register that its rules take stores the fields and has its effect. -/
theorem writeReg_taken {c : Chip} {req : Requester} {off v : Nat} {h : WriteHook} {r : RegDesc} {is : List Nat} (hacc : writeAccepted c req off) (htakes : h.takes = true)
    (hf : findReg off = some (r, is)) (hr : r.role = .operator) : c.writeReg req off v h = h.effect (c.store r is off v) := by
  rw [writeReg_of_accepted v h hacc, Chip.acceptWrite, hf]
  simp only [htakes, if_true, Chip.recordGated, hr]

/-- A flag that is set: it reads 1, and nothing but its register changes. -/
theorem wr_flag (c : Chip) (off : Nat) {bit : Nat} (h : bit < 32) :
    (c.wr ⟨off, bit, bit⟩ 1).rd ⟨off, bit, bit⟩ = 1 ∧ regsSameBut c (c.wr ⟨off, bit, bit⟩ 1) [off] ∧ c.wr ⟨off, bit, bit⟩ 1 = { c with regs := (c.wr ⟨off, bit, bit⟩ 1).regs } := by
  refine ⟨?_, fun o ho => word_wr_of_ne (fun e => ho (List.mem_singleton.mpr e)), rfl⟩
  rw [rd_wr_self c 1 le_rfl h, show bit + 1 - bit = 1 by omega]
  rfl

/-! Receive queues (R170). -/

theorem exec_rqCfgWrite (req : Requester) (site : Fin 24) (q : Fin 64) (v : BitVec 32) (s : State) :
    exec (.rqCfgWrite req site q false v) s = .next (s.onChip (fun c => c.writeReg req (R.SITE_RQ_CFG site.val q.val) v.toNat (c.rqHook site.val q.val v.toNat false))) := rfl

theorem exec_rqBaseWrite (req : Requester) (site : Fin 24) (q : Fin 64) (v : BitVec 32) (s : State) :
    exec (.rqCfgWrite req site q true v) s = .next (s.onChip (fun c => c.writeReg req (R.SITE_RQ_BASE site.val q.val) v.toNat (c.rqHook site.val q.val v.toNat true))) := rfl

/-- The slots of a queue are given up. -/
def Chip.emptyQueue (c : Chip) (site q : Nat) : Chip :=
  (c.onXport (fun x => { x with slots := x.slots.filter (fun y => !(y.site == site && y.queue == q)) })).rqCounts site q

theorem emptyQueue_slots (c : Chip) (site q : Nat) : (c.emptyQueue site q).xport.slots = c.xport.slots.filter (fun y => !(y.site == site && y.queue == q)) := rfl

/-- An enabled queue that is disabled with its geometry unchanged is emptied. -/
theorem rqHook_disables {c : Chip} {site q v : Nat} (hqueues : hasQueues site = true) (hon : c.on (R.SITE_RQ_CFG_EN site q) = true) (hoff : bitOf v 31 = false)
    (htenant : fget v 29 26 = c.rd (R.SITE_RQ_CFG_TENANT site q)) (hstitches : fget v 22 15 = c.rd (R.SITE_RQ_CFG_SLOT_STITCHES site q))
    (hdepth : fget v 14 11 = c.rd (R.SITE_RQ_CFG_DEPTH_LOG2 site q)) : c.rqHook site q v false = .does (fun d => d.emptyQueue site q) := by
  simp only [Chip.rqHook, hqueues, hon, hoff, htenant, hstitches, hdepth, bne_self_eq_false, Bool.or_self, Bool.and_false, Bool.not_true, Bool.not_false, Bool.false_and, Bool.and_self,
    Bool.false_eq_true, if_false, if_true]
  rfl

/-- A write that would give an enabled queue to another tenant is ignored, and CFG_REJECT is set. -/
theorem rqHook_otherTenant {c : Chip} {site q v : Nat} (hqueues : hasQueues site = true) (hon : c.on (R.SITE_RQ_CFG_EN site q) = true)
    (htenant : fget v 29 26 ≠ c.rd (R.SITE_RQ_CFG_TENANT site q)) : c.rqHook site q v false = ⟨false, fun d => d.wr (R.SITE_XPORT_STATUS_CFG_REJECT site) 1, id⟩ := by
  simp [Chip.rqHook, hqueues, hon, htenant]

theorem rqHook_base_of_disabled {c : Chip} {site q v : Nat} (hqueues : hasQueues site = true) (hon : c.on (R.SITE_RQ_CFG_EN site q) = false) :
    (c.rqHook site q v true).takes = true ∧ (c.rqHook site q v true).effect = id := by
  simp [Chip.rqHook, hqueues, hon]

theorem blockTab_site {off : Nat} (hlow : 0x1000000 ≤ off) (hhigh : off < 0x1180000) : blockTab off = tabSITE := by
  unfold blockTab
  iterate 10 rw [if_neg (by omega)]
  exact if_pos hhigh

/-- A register that every site has lies at the same place in each site's block. -/
theorem matchDims_of_indices {d : RegDesc} {ds : List Dim} {x i : Nat} {is : List Nat} (hdims : d.dims = ⟨24, 0x10000, 0⟩ :: ds) (hbase : d.base ≤ x + 0x10000)
    (h : d.indices (x + i * 0x10000) = some is) : (matchDims ds ((x + 0x10000 - d.base) % 0x10000)).isSome = true := by
  unfold RegDesc.indices at h
  split at h
  · cases h
  · next habove =>
    rw [hdims, matchDims] at h
    split at h
    · obtain ⟨l, hl, -⟩ := Option.map_eq_some_iff.mp h
      have place : (x + i * 0x10000 - d.base) % 0x10000 = (x + 0x10000 - d.base) % 0x10000 := by omega
      exact Option.isSome_iff_exists.mpr ⟨l, place ▸ hl⟩
    · cases h

/-- Of the registers of a site, only SITE.RQ_BASE_q lies where SITE.RQ_BASE_q does. -/
theorem tabSITE_rqBase : ∀ d ∈ tabSITE, d.dims = ⟨24, 0x10000, 0⟩ :: d.dims.tail ∧ d.base ≤ 0x1010000 ∧ ∀ q : Fin 64,
    (matchDims d.dims.tail ((0x1001004 + q.val * 0x10 + 0x10000 - d.base) % 0x10000)).isSome = true → d.role = .operator ∧ d.flds = [⟨14, 0, .rw, .l, .val 0⟩] := by decide +kernel

theorem findReg_rqBase {site q : Nat} {r : RegDesc} {is : List Nat} (hsite : site < 24) (hq : q < 64) (hf : findReg (R.SITE_RQ_BASE site q) = some (r, is)) :
    r.role = .operator ∧ r.flds = [⟨14, 0, .rw, .l, .val 0⟩] := by
  have place : R.SITE_RQ_BASE site q = 0x1001004 + q * 0x10 + site * 0x10000 := Nat.add_right_comm ..
  rw [place, findReg, blockTab_site (by omega) (by omega)] at hf
  obtain ⟨hmem, hindices⟩ := mem_of_findIn hf
  obtain ⟨hdims, hbase, hfields⟩ := tabSITE_rqBase r hmem
  exact hfields ⟨q, hq⟩ (matchDims_of_indices hdims (by omega) hindices)

/-- A write of SITE.RQ_BASE_q that is taken stores BASE. -/
theorem writeReg_rqBase {c : Chip} {req : Requester} {site q v : Nat} (hsite : site < 24) (hq : q < 64) (hacc : writeAccepted c req (R.SITE_RQ_BASE site q)) (hqueues : hasQueues site = true)
    (hon : c.on (R.SITE_RQ_CFG_EN site q) = false) :
    c.writeReg req (R.SITE_RQ_BASE site q) v (c.rqHook site q v true) = c.wr (R.SITE_RQ_BASE_BASE site q) (fget v 14 0) := by
  obtain ⟨htakes, heffect⟩ := rqHook_base_of_disabled (v := v) hqueues hon
  obtain ⟨r, is, hf⟩ := findReg_of_judge_ok hacc.1
  obtain ⟨hrole, hflds⟩ := findReg_rqBase hsite hq hf
  rw [writeReg_taken hacc htakes hf hrole, heffect, Chip.store, hflds]
  rfl

/-! Shares (R167). -/

theorem exec_shareWrite (req : Requester) (t : Fin 16) (v : BitVec 32) (s : State) :
    exec (.shareWrite req t v) s = .next (s.onChip (fun c => c.writeReg req (R.PART_TENANT t.val) v.toNat (c.shareHook t.val v.toNat))) := rfl

/-- The shares of the tenants beside one. -/
def Chip.otherShares (c : Chip) (t : Nat) : Nat := (((List.range 16).filter (fun u => u != t && c.tenantOn u)).map c.latestShare).sum

theorem shareHook_eq (c : Chip) (t v : Nat) : c.shareHook t v = ⟨decide (c.otherShares t + min 256 (fget v 8 0) ≤ 256), fun d => d.wr R.PART_STATUS_SHARE_REJECT 1, id⟩ := rfl

theorem otherShares_of_noTenant {c : Chip} (t : Nat) (h : ∀ u : Fin 16, c.tenantOn u.val = false) : c.otherShares t = 0 := by
  have none_on : (List.range 16).filter (fun u => u != t && c.tenantOn u) = [] := by
    refine List.filter_eq_nil_iff.mpr (fun u hu => ?_)
    simp [h ⟨u, List.mem_range.mp hu⟩]
  rw [Chip.otherShares, none_on]
  rfl

theorem findReg_tenant : ∀ t : Fin 16, (findReg (R.PART_TENANT t.val)).map (fun x => (x.1.role, x.1.flds)) = some (.operator, [⟨31, 31, .ro, .l, .val 0⟩, ⟨8, 0, .rw, .w, .val 0⟩]) := by
  decide +kernel

/-- A SHARE that is accepted waits for its boundary. -/
def Chip.holdShare (c : Chip) (t v : Nat) : Chip :=
  c.onAcc (fun a => { a with held := a.held ++ [⟨R.PART_TENANT t, fset 0 8 0 511, fset 0 8 0 (fget v 8 0), c.wRow⟩] })

/-- A SHARE that its register takes is held for its boundary. -/
theorem writeReg_share {c : Chip} {req : Requester} {t : Fin 16} {v : Nat} (hacc : writeAccepted c req (R.PART_TENANT t.val)) (hfits : c.otherShares t.val + min 256 (fget v 8 0) ≤ 256) :
    c.writeReg req (R.PART_TENANT t.val) v (c.shareHook t.val v) = c.holdShare t.val v := by
  obtain ⟨⟨r, is⟩, hf, hr⟩ := Option.map_eq_some_iff.mp (findReg_tenant t)
  obtain ⟨hrole, hflds⟩ := Prod.mk.inj hr
  rw [shareHook_eq, writeReg_taken hacc (decide_eq_true hfits) hf hrole, Chip.store, hflds]
  rfl

theorem latestShare_holdShare (c : Chip) (t v : Nat) : (c.holdShare t v).latestShare t = min 256 (fget v 8 0) := by
  simp only [Chip.latestShare, Chip.holdShare, Chip.onAcc_acc, List.filter_append, List.filter_cons, List.filter_nil, beq_self_eq_true, if_true, List.getLast?_append, List.getLast?_singleton,
    Option.some_or]
  rw [fget_fset_self (by decide), Nat.mod_eq_of_lt (fget_lt ..)]

/-- Settles O14: whether the register takes the write is its hook's answer; one that it ignores sets the flag alone, one that it takes stores the field or holds it for its boundary. -/
theorem queueAndShareWritesComplete : Obligations.QueueAndShareWritesComplete := by
  refine ⟨fun req site q v s hacc hqueues hon hoff htenant hstitches hdepth => ?_, fun req site q v s hacc hqueues hon htenant => ?_, fun req site q v s hacc hqueues hon => ?_,
    fun req t v s hacc hover => ?_, fun req t v s hacc hnone hshare => ?_⟩
  · obtain ⟨hjudge, hstale, hwaits⟩ := hacc
    obtain ⟨d, hd, hsame⟩ := writeReg_does (v := v.toNat) (f := fun d => d.emptyQueue site.val q.val) hjudge hstale hwaits
    refine completes_of_exec (exec_rqCfgWrite req site q v s) ⟨?_, onlyChip_onChip ..⟩
    rw [State.onChip_chip, rqHook_disables hqueues hon hoff htenant hstitches hdepth, hd, emptyQueue_slots, hsame]
  · refine completes_of_exec (exec_rqCfgWrite req site q v s) ?_
    rw [State.onChip_chip, rqHook_otherTenant hqueues hon htenant, writeReg_ignored hacc rfl]
    obtain ⟨hflag, hwords, honly⟩ := wr_flag s.chip (R.SITE_XPORT_STATUS site.val) (bit := 0) (by decide)
    exact ⟨hflag, hwords, honly, onlyChip_onChip ..⟩
  · refine completes_of_exec (exec_rqBaseWrite req site q v s) ?_
    rw [State.onChip_chip, writeReg_rqBase site.isLt q.isLt hacc hqueues hon]
    exact ⟨(rd_wr_self _ _ (Nat.zero_le 14) (show 14 < 32 by decide)).trans (Nat.mod_eq_of_lt (fget_lt ..)), rfl, onlyChip_onChip ..⟩
  · refine completes_of_exec (exec_shareWrite req t v s) ?_
    rw [State.onChip_chip, shareHook_eq, writeReg_ignored hacc (decide_eq_false (not_le.mpr hover))]
    obtain ⟨hflag, hwords, honly⟩ := wr_flag s.chip R.PART_STATUS (bit := 1) (by decide)
    exact ⟨hflag, hwords, honly, onlyChip_onChip ..⟩
  · refine completes_of_exec (exec_shareWrite req t v s) ?_
    have fits : s.chip.otherShares t.val + min 256 (fget v.toNat 8 0) ≤ 256 := by
      rw [otherShares_of_noTenant t.val hnone]
      omega
    rw [State.onChip_chip, writeReg_share hacc fits]
    exact ⟨(latestShare_holdShare ..).trans (min_eq_right hshare), rfl, onlyChip_onChip ..⟩

end Sys2Proof.Machine
end

section
/-! A run request behind a message that is entering (R154, R189). -/

namespace Sys2Proof.Machine

/-- A run from compute die 0 to compute die 2, for partition 1. -/
def runToDieTwo : Stitch := { dstSite := 2, tenant := 1 }

/-- A message of two stitches from compute die 0 to this node, of which the first has its sequence and the second is still to come. -/
def enteringMessage : SendMsg := { site := 0, tag := ⟨0, 0, 1, 0⟩, dstNode := 0, total := 2, answers := [], sync := 0, cnt := 0, seqs := [0] }

/-- Partition 1 runs and owns core 0 of compute die 0; a circuit stands from the die's first switched plane to compute die 2, with one lane Up, and a message is entering in the flow to this node. -/
def messageEntering : State :=
  { State.reset with chip := (((((((((State.reset.chip.wr (R.PART_TENANT_EN 1) 1).wr (R.PART_STATE_STATE 1) 2).wr (R.CMP_CORE_STATE_OWNED 0 0) 1).wr (R.CMP_CORE_STATE_TENANT 0 0) 1).wr
      (R.CIRC_PLANE_STATE 0) 1).wr (R.CIRC_PLANE_TENANT 0) 1).wr (R.CIRC_PLANE_DST_BANK 0) 20).wr (R.LANE_STATE_STATE 0 32 0) lsUP)).onXport (fun x => { x with sends := [enteringMessage] }) }

/-- The request passes every check, and its one circuit is free to take it. -/
theorem runToDieTwo_acceptable :
    messageEntering.chip.ctxTenant 0 (.core 0) = some 1 ∧ messageEntering.chip.rd (R.PART_STATE_STATE 1) ≠ 3
      ∧ messageEntering.chip.entryCheck 0 { runToDieTwo with opcode := opRUN_OPEN, cls := 0 } = stOK
      ∧ messageEntering.chip.runCircuits 0 { runToDieTwo with opcode := opRUN_OPEN, cls := 0 } = [0] ∧ messageEntering.chip.runCircuits 0 runToDieTwo = [0]
      ∧ messageEntering.chip.isChanging 0 = false ∧ messageEntering.chip.rd (R.CIRC_PLANE_OPEN_RUNS 0) < 16 ∧ (messageEntering.chip.dealLanes 0).isEmpty = false
      ∧ messageEntering.chip.outRoom 0 0 1 = true := by decide +kernel

theorem exec_runRequest {site : Fin 24} {ctx : IssueCtx} {tn : Nat} (req : Stitch) (src : BitVec 46) (loc : Bool) {s : State} (h : s.chip.ctxTenant site.val ctx = some tn) :
    exec (.runRequest site ctx req src loc) s = .next (s.onChip (fun c => c.requestRun ⟨site.val, { req with tag := 0, tenant := tn }, src.toNat, loc, none, none, c.row⟩)) :=
  next_onChip (f := fun c => match c.ctxTenant site.val ctx with
    | some t => c.requestRun ⟨site.val, { req with tag := 0, tenant := t }, src.toNat, loc, none, none, c.row⟩
    | none => c) (by simp only [h])

/-- The request waits behind the message (R154): no run has opened. -/
theorem runToDieTwo_waits : (messageEntering.chip.requestRun ⟨0, runToDieTwo, 0, false, none, none, 0⟩).circ.src = [] := by decide +kernel

/-- Refutes O16: its first clause asks that an acceptable request with one free circuit opens a run at once. While a message of the request's flow is entering, the request waits for the message's
last stitch (R154). -/
theorem not_runAndRoutingCommandsComplete : ¬ Obligations.RunAndRoutingCommandsComplete := by
  rintro ⟨hopens, -⟩
  obtain ⟨htenant, hstate, hcheck, hcircuits, hcircuit, hsteady, hroom, hdeal, hout⟩ := runToDieTwo_acceptable
  obtain ⟨t, hexec, hopened, -⟩ := hopens 0 (.core 0) 1 runToDieTwo 0 false 0 messageEntering htenant hstate hcheck hcircuits hcircuit hsteady hroom hdeal hout
  obtain rfl := Host.Outcome.next.inj ((exec_runRequest runToDieTwo 0 false htenant).symm.trans hexec)
  exact absurd ((congrArg List.length runToDieTwo_waits).symm.trans hopened) (by decide)

end Sys2Proof.Machine
end

section
/-! Accepted writes of the registers of circuits, and what arming looks at (R179, R182, R183). -/

namespace Sys2Proof.Machine

theorem blockTab_circ {off : Nat} (hlow : 0x5100000 ≤ off) (hhigh : off < 0x5200000) : blockTab off = tabCIRC := by
  unfold blockTab
  iterate 20 rw [if_neg (by omega)]
  exact if_pos hhigh

theorem tabCIRC_blk : ∀ r ∈ tabCIRC, r.blk = .circ := by decide +kernel

/-- The registers that an accepted write of a circuits' register may change beside its own. -/
def circBookkeeping : List Nat := [R.ROUTE_STATUS, R.HIO_STATUS, R.SEC_GATED_COUNT]

/-- An accepted write of a circuits' register has its effect on a package that differs in registers, held writes and captured events alone, and in no register but its own that its effect may read. -/
theorem writeReg_circ {c : Chip} {req : Requester} {off v : Nat} {h : WriteHook} (hlow : 0x5100000 ≤ off) (hhigh : off < 0x5200000) (hacc : writeAccepted c req off) (htakes : h.takes = true) :
    ∃ d, c.writeReg req off v h = h.effect d ∧ c.sameButRegs d ∧ ∀ o, o ∉ off :: circBookkeeping → d.word o = c.word o := by
  obtain ⟨r, is, hf⟩ := findReg_of_judge_ok hacc.1
  have blk : r.blk ≠ .lane := by
    have inBlock := hf
    rw [findReg, blockTab_circ hlow hhigh] at inBlock
    simp [tabCIRC_blk r (mem_of_findIn inBlock).1]
  refine ⟨(c.recordGated req r off (c.word off).toNat v).store r is off v, ?_, ?_, fun o ho => ?_⟩
  · rw [writeReg_of_accepted v h hacc, Chip.acceptWrite, hf]
    exact if_pos htakes
  · exact sameButRegs_each (fun d a h => sameButRegs_storeField _ _ _ _ _ _ h) _ _ (sameButRegs_recordGated c req r _ _ v)
  · simp only [circBookkeeping, List.mem_cons, List.not_mem_nil, or_false, not_or] at ho
    obtain ⟨hoff, hroute, hhio, hgated⟩ := ho
    refine (each_keeps (fun c => c.word o) (fun f _ c => word_storeField_of_ne blk (by simp [hoff, hroute, hhio])) _).trans ?_
    unfold Chip.recordGated
    split
    · rfl
    · exact (word_event ..).trans (word_wr_of_ne hgated)
    · exact (word_event ..).trans (word_wr_of_ne hgated)

/-! Arming (R183). -/

theorem exec_armGo (req : Requester) (t : Fin 16) (v : BitVec 32) (s : State) :
    exec (.armGo req t v) s = .next (s.onChip (fun c => c.writeReg req (R.CIRC_ARM t.val) v.toNat (armHook t.val v.toNat))) := rfl

theorem exec_armCancel (req : Requester) (t : Fin 16) (v : BitVec 32) (s : State) :
    exec (.armCancel req t v) s = .next (s.onChip (fun c => c.writeReg req (R.CIRC_ARM t.val) v.toNat (armHook t.val v.toNat))) := rfl

theorem armResult_circ (c : Chip) (t status p : Nat) : (c.armResult t status p).circ = c.circ := rfl

theorem rd_armResult_status (c : Chip) (t status p : Nat) : (c.armResult t status p).rd (R.CIRC_ARM_RESULT_STATUS t) = status % 16 :=
  (rd_wr_apart _ _ (by simp) (by simp) (by simp)).trans ((rd_wr_apart _ _ (by simp) (by simp) (by simp)).trans (rd_wr_self c status (by simp) (by simp)))

theorem rd_armResult_pattern (c : Chip) (t status p : Nat) : (c.armResult t status p).rd (R.CIRC_ARM_RESULT_PATTERN t) = p % 64 :=
  (rd_wr_apart _ _ (by simp) (by simp) (by simp)).trans (rd_wr_self _ p (by simp) (by simp))

theorem word_armResult {c : Chip} {t status p o : Nat} (h : o ≠ R.CIRC_ARM_RESULT t) : (c.armResult t status p).word o = c.word o :=
  (word_wr_of_ne h).trans ((word_wr_of_ne h).trans (word_wr_of_ne h))

/-- What arming looks at is the same in two packages: everything but registers, held writes and captured events, and all registers of circuits but CIRC.ARM_t. -/
def Chip.sameArming (c d : Chip) (t : Nat) : Prop :=
  c.sameButRegs d ∧ ∀ o, 0x5100000 ≤ o → o < 0x5200000 → o ≠ R.CIRC_ARM t → d.word o = c.word o

section
variable {c d : Chip} {t : Nat}

theorem rd_of_sameArming (h : c.sameArming d t) {f : FRef} (hlow : 0x5100000 ≤ f.off) (hhigh : f.off < 0x5200000) (harm : f.off ≠ R.CIRC_ARM t) : d.rd f = c.rd f :=
  rd_of_word (h.2 f.off hlow hhigh harm) f.hi f.lo

theorem on_of_sameArming (h : c.sameArming d t) {f : FRef} (hlow : 0x5100000 ≤ f.off) (hhigh : f.off < 0x5200000) (harm : f.off ≠ R.CIRC_ARM t) : d.on f = c.on f :=
  congrArg (fun n => n == 1) (rd_of_sameArming h hlow hhigh harm)

theorem circ_of_sameArming (h : c.sameArming d t) : d.circ = c.circ := by rw [h.1]

theorem armedOf_of_sameArming (h : c.sameArming d t) : d.armedOf t = c.armedOf t := congrArg (fun x => x.armed.find? (fun a => a.tenant == t)) (circ_of_sameArming h)

theorem obj_of_sameArming (h : c.sameArming d t) (n : Nat) : d.obj n = c.obj n := by rw [h.1]; rfl

theorem allotted_of_sameArming (h : c.sameArming d t) (e u : Nat) : d.allotted e u = c.allotted e u := by
  unfold Chip.allotted
  by_cases he : e < 112
  · rw [on_of_sameArming h (by grind) (by grind) (by grind), rd_of_sameArming h (by grind) (by grind) (by grind)]
  · simp [he]

theorem validEntries_of_sameArming (h : c.sameArming d t) (ht : t < 16) {p : Nat} (hp : p < 64) : d.validEntries p = c.validEntries p := by
  have valid : ∀ e < 112, d.on (R.CIRC_PAT_VALID p e) = c.on (R.CIRC_PAT_VALID p e) := fun e he => on_of_sameArming h (by grind) (by grind) (by grind)
  have bank : ∀ e < 112, d.rd (R.CIRC_PAT_DST_BANK p e) = c.rd (R.CIRC_PAT_DST_BANK p e) := fun e he => rd_of_sameArming h (by grind) (by grind) (by grind)
  unfold Chip.validEntries
  rw [List.filter_congr (fun e he => valid e (List.mem_range.mp he))]
  exact List.map_congr_left (fun e he => by rw [bank e (List.mem_range.mp (List.mem_of_mem_filter he))])

theorem lt_of_mem_validEntries {p : Nat} {x : Nat × Nat} (hx : x ∈ c.validEntries p) : x.1 < 112 := by
  obtain ⟨e, he, rfl⟩ := List.mem_map.mp hx
  exact List.mem_range.mp (List.mem_of_mem_filter he)

theorem all_congr_of_mem {α : Type} {l : List α} {f g : α → Bool} (h : ∀ x ∈ l, f x = g x) : l.all f = l.all g := by
  rw [Bool.eq_iff_iff, List.all_eq_true, List.all_eq_true]
  exact forall₂_congr (fun x hx => by rw [h x hx])

theorem patternValid_of_sameArming (h : c.sameArming d t) (ht : t < 16) {p : Nat} (hp : p < 64) (mode sync : Nat) : d.patternValid t p mode sync = c.patternValid t p mode sync := by
  have entries : ∀ x ∈ c.validEntries p, d.rd (R.CIRC_PAT_TENANT p x.1) = c.rd (R.CIRC_PAT_TENANT p x.1) := fun x hx =>
    have plane := lt_of_mem_validEntries hx
    rd_of_sameArming h (by grind) (by grind) (by grind)
  unfold Chip.patternValid
  rw [validEntries_of_sameArming h ht hp, obj_of_sameArming h, rd_of_sameArming h (f := R.CIRC_PAT_HDR_TENANT p) (by grind) (by grind) (by grind)]
  dsimp only
  rw [all_congr_of_mem (fun x hx => by rw [allotted_of_sameArming h, allotted_of_sameArming h, entries x hx])]

end

theorem writeReg_arm {c : Chip} {req : Requester} {t v : Nat} (ht : t < 16) (hacc : writeAccepted c req (R.CIRC_ARM t)) :
    ∃ d, c.writeReg req (R.CIRC_ARM t) v (armHook t v) = (armHook t v).effect d ∧ c.sameArming d t := by
  obtain ⟨d, hd, hsame, hwords⟩ := writeReg_circ (v := v) (h := armHook t v) (by grind) (by grind) hacc rfl
  refine ⟨d, hd, hsame, fun o hlow hhigh harm => hwords o ?_⟩
  unfold circBookkeeping
  grind

end Sys2Proof.Machine
end

section
/-! Armed patterns: what GO and CANCEL do, triggers and target boundaries (R183 to R185). -/

namespace Sys2Proof.Machine

section
variable {c : Chip} {t v : Nat}

theorem armHook_busy (hgo : bitOf v 31 = true) (harmed : (c.armedOf t).isSome = true) : (armHook t v).effect c = c.armResult t 4 (fget v 21 16) := by
  simp [armHook, WriteHook.does, hgo, harmed]

theorem armHook_invalid (hgo : bitOf v 31 = true) (hfree : c.armedOf t = none) (hinvalid : c.patternValid t (fget v 21 16) (fget v 29 28) (c.rd (R.CIRC_ARM_SYNC_SYNC t)) = false) :
    (armHook t v).effect c = c.armResult t 3 (fget v 21 16) := by
  simp [armHook, WriteHook.does, hgo, hfree, hinvalid]

/-- The pattern that GO in row mode asks for. -/
def Chip.askedPattern (c : Chip) (t v : Nat) : ArmedPattern :=
  ⟨t, fget v 21 16, 1, fget v 15 0, c.rd (R.CIRC_ARM_SYNC_SYNC t), c.rd (R.CIRC_ARM_VALUE_VALUE t), none, 0, c.row⟩

/-- A pattern armed for a row does not trigger at once. -/
theorem armHook_arms (hgo : bitOf v 31 = true) (hmode : fget v 29 28 = 1) (hfree : c.armedOf t = none) (hvalid : c.patternValid t (fget v 21 16) 1 (c.rd (R.CIRC_ARM_SYNC_SYNC t)) = true) :
    (armHook t v).effect c = (c.onCirc (fun x => { x with armed := x.armed ++ [c.askedPattern t v] })).armResult t 1 (fget v 21 16) := by
  simp [armHook, WriteHook.does, hgo, hmode, hfree, hvalid, Chip.arm, Chip.askedPattern]

theorem armHook_cancels {a : ArmedPattern} (hgo : bitOf v 31 = false) (hcancel : bitOf v 30 = true) (harmed : c.armedOf t = some a) (huntriggered : a.target = none) :
    (armHook t v).effect c = (c.onCirc (fun x => { x with armed := x.armed.filter (fun a => a.tenant != t) })).armResult t 7 a.pattern := by
  simp [armHook, WriteHook.does, hgo, hcancel, harmed, huntriggered]

theorem askedPattern_of_sameArming {d : Chip} (h : c.sameArming d t) (ht : t < 16) : d.askedPattern t v = c.askedPattern t v := by
  have row : d.row = c.row := by rw [h.1]
  unfold Chip.askedPattern
  rw [row, rd_of_sameArming h (f := R.CIRC_ARM_SYNC_SYNC t) (by grind) (by grind) (by grind), rd_of_sameArming h (f := R.CIRC_ARM_VALUE_VALUE t) (by grind) (by grind) (by grind)]

end

/-! Triggers (R183). -/

section
variable {c : Chip} {t : Nat} {a : ArmedPattern}

theorem exec_patternTrigger {t : Fin 16} {s : State} (harmed : s.chip.armedOf t.val = some a) (hholds : s.chip.triggerHolds a = true) :
    exec (.patternTrigger t) s = .next (s.onChip (fun c => c.trigger183 t.val)) :=
  next_onChip (f := fun c => match c.armedOf t.val with
    | some a => if c.triggerHolds a then c.trigger183 t.val else c
    | none => c) (by simp only [harmed, hholds, if_true])

theorem armedOf_only (hone : c.circ.armed = [a]) (ht : a.tenant = t) : c.armedOf t = some a := by
  simp [Chip.armedOf, hone, ht]

theorem trigger183_books (hone : c.circ.armed = [a]) (ht : a.tenant = t) (huntriggered : a.target = none) (hlight : c.inFallback = false) :
    c.trigger183 t = c.onCirc (fun x => { x with armed := [{ a with target := some (c.boundaryAfter 256) }] }) := by
  have steady : ∀ g, (c.onCirc g).inFallback = false := fun _ => hlight
  unfold Chip.trigger183
  simp only [armedOf_only hone ht, huntriggered, steady]
  simp [Chip.onCirc, hone, ht, updFirst]

/-! The target boundary (R184, R185). -/

theorem exec_patternApply {t : Fin 16} {s : State} (hcyc : s.chip.cyc = 0) : exec (.patternApply t) s = .next (s.onChip (fun c => c.patternBoundary t.val)) :=
  next_onChip (f := fun c => if c.cyc = 0 then c.patternBoundary t.val else c) (if_pos hcyc)

/-- What a boundary needs for a triggered pattern to be looked at: the boundary is its target or a later one, and the package is not in fallback, nor has it just returned. -/
def Chip.atTarget (c : Chip) (t : Nat) (a : ArmedPattern) : Prop :=
  c.circ.armed = [a] ∧ a.tenant = t ∧ (∃ row, a.target = some row ∧ row ≤ c.row) ∧ c.inFallback = false ∧ c.light.returnedRow ≠ some c.row

theorem patternBoundary_defers (h : c.atTarget t a) (hready : ((c.changed t a.pattern).all c.wasDrained) = false) (hleft : a.deferrals < c.rdPos R.CIRC_CFG_DEFER_MAX) :
    c.patternBoundary t = (((c.onCirc (fun x => { x with armed := [{ a with target := some (c.row + 1), deferrals := a.deferrals + 1 }] })).armResult t 5 a.pattern).count
      R.CIRC_COUNTS_DEFERS).event Ev.patternDeferred (some t) 0 [a.pattern, c.row] := by
  obtain ⟨hone, ht, ⟨row, htarget, hrow⟩, hlight, hreturned⟩ := h
  unfold Chip.patternBoundary
  simp only [armedOf_only hone ht, htarget, hlight, hready]
  simp [Chip.onCirc, hone, ht, updFirst, hreturned, not_lt.mpr hrow, not_le.mpr hleft]

theorem patternBoundary_applies (h : c.atTarget t a) (hready : ((c.changed t a.pattern).all c.wasDrained) = true) :
    c.patternBoundary t = ((((c.onCirc (fun x => { x with armed := [] })).applyPattern t a.pattern true).armResult t 2 a.pattern).chain a).retryRuns := by
  obtain ⟨hone, ht, ⟨row, htarget, hrow⟩, hlight, hreturned⟩ := h
  unfold Chip.patternBoundary
  simp only [armedOf_only hone ht, htarget, hlight, hready]
  simp [Chip.onCirc, hone, ht, hreturned, not_lt.mpr hrow]

end

end Sys2Proof.Machine
end

section
/-! A plane that a pattern points at a bank (R180 to R185). -/

namespace Sys2Proof.Machine

/-! What pointing a plane's lanes leaves alone. -/

/-- The records of the circuits, and the words of the registers from the block CIRC on. -/
def Chip.circuits (c : Chip) : Circuits × (Nat → Word) := (c.circ, fun o => if 0x5100000 ≤ o then c.word o else 0)

section
variable {c d : Chip}

theorem circ_of_circuits (h : d.circuits = c.circuits) : d.circ = c.circ := congrArg Prod.fst h

theorem rd_of_circuits (h : d.circuits = c.circuits) {f : FRef} (hf : 0x5100000 ≤ f.off) : d.rd f = c.rd f := by
  have same := congrFun (congrArg Prod.snd h) f.off
  simp only [Chip.circuits, if_pos hf] at same
  exact rd_of_word same f.hi f.lo

theorem Chip.wr_circuits (c : Chip) {f : FRef} (v : Nat) (h : f.off < 0x5100000) : (c.wr f v).circuits = c.circuits := by
  refine Prod.ext rfl (funext fun o => ?_)
  dsimp only [Chip.circuits]
  split
  · exact word_wr_of_ne (by omega)
  · rfl

theorem Chip.onLanes_circuits (c : Chip) (g : Lanes → Lanes) : (c.onLanes g).circuits = c.circuits := rfl

theorem Chip.cancelInjection_circuits (c : Chip) {s : Nat} (p k : Nat) (hs : s < 24) : (c.cancelInjection s p k).circuits = c.circuits := by
  unfold Chip.cancelInjection Chip.injResult
  split
  · rw [Chip.wr_circuits _ _ (by grind), Chip.wr_circuits _ _ (by grind), Chip.onLanes_circuits]
  · rfl

theorem Chip.setLane_circuits (c : Chip) {s p k : Nat} (v : Nat) (hs : s < 24) (hp : p < 64) (hk : k < 24) : (c.setLane s p k v).circuits = c.circuits := by
  unfold Chip.setLane
  extract_lets was d
  have noted : d.circuits = c.circuits := by
    unfold d
    split
    · rfl
    · exact c.onLanes_circuits _
  rw [Chip.wr_circuits _ _ (by grind), ← noted]
  split
  · rfl
  · exact d.cancelInjection_circuits p k hs

theorem Chip.phaseLocked_circuits (c : Chip) (l : Nat × Nat × Nat) : (c.phaseLocked l).circuits = c.circuits := by
  unfold Chip.phaseLocked
  split
  · split
    · exact c.onLanes_circuits _
    · rfl
  · rfl

theorem switchedAt_lt {e : Nat} (he : e < 112) : (switchedAt e).1 < 24 ∧ (switchedAt e).2 < 64 := by
  unfold switchedAt
  split
  · omega
  · split <;> omega

theorem Chip.turnLanes_circuits (c : Chip) {e : Nat} (up : Bool) (he : e < 112) : (c.turnLanes e up).circuits = c.circuits := by
  obtain ⟨hsite, hplane⟩ := switchedAt_lt he
  refine each_keeps Chip.circuits (fun k hk c => ?_) c
  have turned : ∀ x y, ((c.setTx ((switchedAt e).1, (switchedAt e).2, k) x).setRx ((switchedAt e).1, (switchedAt e).2, k) y).circuits = c.circuits := fun _ _ => rfl
  dsimp only
  split
  · exact (Chip.setLane_circuits _ _ hsite hplane (List.mem_range.mp hk)).trans (turned ..)
  · exact turned ..

end

/-- What CIRC.PLANE_e shows of a circuit to a bank of a tenant. -/
def Chip.planeShows (c : Chip) (e b t : Nat) : Prop := c.rd (R.CIRC_PLANE_STATE e) = 1 ∧ c.rd (R.CIRC_PLANE_DST_BANK e) = b ∧ c.rd (R.CIRC_PLANE_TENANT e) = t

/-- CIRC.PLANE_e as a plane is pointed at a bank. -/
def Chip.showPointed (c : Chip) (e b t : Nat) : Chip :=
  ((((c.wr (R.CIRC_PLANE_STATE e) 1).wr (R.CIRC_PLANE_DST_BANK e) b).wr (R.CIRC_PLANE_TENANT e) t).wr (R.CIRC_PLANE_RUN_NO e) 0).wr (R.CIRC_PLANE_OPEN_RUNS e) 0

theorem planeShows_showPointed (c : Chip) (e : Nat) {b t : Nat} (hb : b < 112) (ht : t < 16) : (c.showPointed e b t).planeShows e b t := by
  unfold Chip.planeShows Chip.showPointed
  refine ⟨?_, ?_, ?_⟩
  · simp (disch := simp) only [rd_wr_apart, rd_wr_self]
    rfl
  · simp (disch := simp) only [rd_wr_apart, rd_wr_self]
    exact Nat.mod_eq_of_lt (by omega)
  · simp (disch := simp) only [rd_wr_apart, rd_wr_self]
    exact Nat.mod_eq_of_lt (by omega)

/-- A plane that points at a bank: its register shows the circuit, the armed patterns and the waiting requests are what they were, and so is every register of circuits but its own. -/
theorem pointPlane_points (c : Chip) {e b t : Nat} (he : e < 112) (hb : b < 112) (ht : t < 16) :
    (c.pointPlane e b t).planeShows e b t ∧ (c.pointPlane e b t).circ.armed = c.circ.armed ∧ (c.pointPlane e b t).circ.waits = c.circ.waits
      ∧ ∀ f : FRef, 0x5100000 ≤ f.off → f.off ≠ R.CIRC_PLANE e → (c.pointPlane e b t).rd f = c.rd f := by
  obtain ⟨d, hd, hregs, harmed, hwaits⟩ : ∃ d : Chip, (c.pointPlane e b t).circuits = d.circuits ∧ d.regs = (c.showPointed e b t).regs ∧ d.circ.armed = c.circ.armed ∧ d.circ.waits = c.circ.waits := by
    unfold Chip.pointPlane
    extract_lets cold c1 c2
    exact ⟨_, (each_keeps Chip.circuits (fun l _ c => c.phaseLocked_circuits l) c2).trans (Chip.turnLanes_circuits _ true he), rfl, rfl, rfl⟩
  have reads : ∀ f : FRef, 0x5100000 ≤ f.off → (c.pointPlane e b t).rd f = (c.showPointed e b t).rd f := fun f hf => (rd_of_circuits hd hf).trans (rd_congr hregs f)
  refine ⟨?_, by rw [circ_of_circuits hd, harmed], by rw [circ_of_circuits hd, hwaits], fun f hf hne => ?_⟩
  · obtain ⟨hstate, hbank, htenant⟩ := planeShows_showPointed c e hb ht
    exact ⟨(reads _ (by grind)).trans hstate, (reads _ (by grind)).trans hbank, (reads _ (by grind)).trans htenant⟩
  · rw [reads f hf]
    unfold Chip.showPointed
    simp (disch := exact hne) only [rd_wr_of_ne]

/-- A filtered range that one number alone passes. -/
theorem filter_range_of_only {n e : Nat} {p : Nat → Bool} (he : e < n) (hpass : p e = true) (honly : ∀ x < n, p x = true → x = e) : (List.range n).filter p = [e] := by
  have all_e : ∀ x ∈ (List.range n).filter p, x = e := fun x hx => by
    obtain ⟨hrange, hp⟩ := List.mem_filter.mp hx
    exact honly x (List.mem_range.mp hrange) hp
  have same := List.eq_replicate_of_mem all_e
  have once : ((List.range n).filter p).length ≤ 1 := by
    rw [← List.nodup_replicate (a := e), ← same]
    exact List.nodup_range.filter p
  have some_e : 0 < ((List.range n).filter p).length := List.length_pos_of_mem (List.mem_filter.mpr ⟨List.mem_range.mpr he, hpass⟩)
  rw [same, show ((List.range n).filter p).length = 1 by omega]
  rfl

/-- A tenant with one plane, from which no circuit stands: its pattern changes no circuit. -/
theorem changed_of_onlyPlane {c : Chip} {t e p : Nat} (honly : ∀ x < 112, c.allotted x t = true → x = e) (hparked : c.rd (R.CIRC_PLANE_STATE e) = 0) : c.changed t p = [] := by
  refine List.filter_eq_nil_iff.mpr (fun x hx => ?_)
  by_cases hx' : c.allotted x t = true
  · obtain rfl := honly x (List.mem_range.mp hx) hx'
    simp [Chip.standing, hparked]
  · simp [hx']

/-- A pattern that points the one plane of its tenant, from which no circuit stands. -/
theorem applyPattern_onlyPlane {c : Chip} {t e b p : Nat} (he : e < 112) (honly : ∀ x < 112, c.allotted x t = true → x = e) (hallotted : c.allotted e t = true)
    (hparked : c.rd (R.CIRC_PLANE_STATE e) = 0) (hpoints : c.pointed p e = some b) : c.applyPattern t p true = c.pointPlane e b t := by
  have mine : (List.range 112).filter (fun e => c.allotted e t && decide (c.rd (R.CIRC_PLANE_STATE e) < 2)) = [e] :=
    filter_range_of_only he (by simp [hallotted, hparked]) (fun x hx hp => honly x hx (Bool.and_eq_true_iff.mp hp).1)
  have standsNot : c.standing e = false := by simp [Chip.standing, hparked]
  unfold Chip.applyPattern
  rw [mine, changed_of_onlyPlane honly hparked]
  simp [Chip.each, hpoints, standsNot]

theorem chain_of_end {c : Chip} {a : ArmedPattern} (h : c.on (R.CIRC_PAT_HDR_CHAIN a.pattern) = false) : c.chain a = c := by
  simp [Chip.chain, h]

theorem retryRuns_of_none {c : Chip} (h : c.circ.waits = []) : c.retryRuns = c := by
  have same : c.onCirc (fun x => { x with waits := [] }) = c := by
    rw [Chip.onCirc, ← h]
  rw [Chip.retryRuns, h, same]
  rfl

end Sys2Proof.Machine
end

section
/-! Writes of allotments, pattern entries and port assignments (R179, R182, R196). -/

namespace Sys2Proof.Machine

/-! Allotments and pattern entries (R179, R182). -/

theorem exec_allotWrite (req : Requester) (e : Fin 112) (v : BitVec 32) (s : State) :
    exec (.allotWrite req e v) s = .next (s.onChip (fun c => c.writeReg req (R.CIRC_ALLOT e.val) v.toNat (c.allotHook e.val v.toNat))) := rfl

theorem exec_patHdrWrite (req : Requester) (p : Fin 64) (v : BitVec 32) (s : State) :
    exec (.patWrite req p none v) s = .next (s.onChip (fun c => c.writeReg req (R.CIRC_PAT_HDR p.val) v.toNat (c.patHook p.val))) := rfl

theorem exec_patEntryWrite (req : Requester) (p : Fin 64) (e : Fin 112) (v : BitVec 32) (s : State) :
    exec (.patWrite req p (some e) v) s = .next (s.onChip (fun c => c.writeReg req (R.CIRC_PAT p.val e.val) v.toNat (c.patHook p.val))) := rfl

theorem findReg_allot : ∀ e : Fin 112, (findReg (R.CIRC_ALLOT e.val)).map (fun x => (x.1.role, x.1.flds)) = some (.operator, [⟨31, 31, .rw, .l, .val 0⟩, ⟨3, 0, .rw, .l, .val 0⟩]) := by
  decide +kernel

theorem findReg_patHdr : ∀ p : Fin 64, (findReg (R.CIRC_PAT_HDR p.val)).map (fun x => (x.1.role, x.1.flds)) =
    some (.operator, [⟨31, 31, .rw, .l, .val 0⟩, ⟨29, 24, .rw, .l, .val 0⟩, ⟨19, 4, .rw, .l, .val 0⟩, ⟨3, 0, .rw, .l, .val 0⟩]) := by
  decide +kernel

/-- A field of one bit that takes a bit of a written word reads as that bit. -/
theorem on_bit {c : Chip} {f : FRef} {v i : Nat} (h : c.rd f = fget v i i) : c.on f = bitOf v i := by
  rw [Chip.on, h, fget, bitOf, show i + 1 - i = 1 by omega, pow_one]

/-- An allotment that is stored. -/
def Chip.storeAllot (c : Chip) (e v : Nat) : Chip := (c.wr (R.CIRC_ALLOT_EN e) (fget v 31 31)).wr (R.CIRC_ALLOT_TENANT e) (fget v 3 0)

theorem writeReg_allot {c : Chip} {req : Requester} {e : Fin 112} {v : Nat} (hacc : writeAccepted c req (R.CIRC_ALLOT e.val)) (htakes : (c.allotHook e.val v).takes = true) :
    c.writeReg req (R.CIRC_ALLOT e.val) v (c.allotHook e.val v) = c.storeAllot e.val v := by
  obtain ⟨⟨r, is⟩, hf, hr⟩ := Option.map_eq_some_iff.mp (findReg_allot e)
  obtain ⟨hrole, hflds⟩ := Prod.mk.inj hr
  rw [writeReg_taken hacc htakes hf hrole, Chip.store, hflds]
  rfl

/-- A header of a pattern that is stored. -/
def Chip.storePatHdr (c : Chip) (p v : Nat) : Chip :=
  (((c.wr (R.CIRC_PAT_HDR_CHAIN p) (fget v 31 31)).wr (R.CIRC_PAT_HDR_NEXT p) (fget v 29 24)).wr (R.CIRC_PAT_HDR_STEP p) (fget v 19 4)).wr (R.CIRC_PAT_HDR_TENANT p) (fget v 3 0)

theorem writeReg_patHdr {c : Chip} {req : Requester} {p : Fin 64} {v : Nat} (hacc : writeAccepted c req (R.CIRC_PAT_HDR p.val)) (htakes : (c.patHook p.val).takes = true) :
    c.writeReg req (R.CIRC_PAT_HDR p.val) v (c.patHook p.val) = c.storePatHdr p.val v := by
  obtain ⟨⟨r, is⟩, hf, hr⟩ := Option.map_eq_some_iff.mp (findReg_patHdr p)
  obtain ⟨hrole, hflds⟩ := Prod.mk.inj hr
  rw [writeReg_taken hacc htakes hf hrole, Chip.store, hflds]
  rfl

theorem storeAllot_reads (c : Chip) (e v : Nat) : (c.storeAllot e v).on (R.CIRC_ALLOT_EN e) = bitOf v 31 ∧ (c.storeAllot e v).rd (R.CIRC_ALLOT_TENANT e) = fget v 3 0 := by
  unfold Chip.storeAllot
  refine ⟨on_bit ?_, ?_⟩
  · simp (disch := simp) only [rd_wr_apart, rd_wr_self]
    exact Nat.mod_eq_of_lt (fget_lt ..)
  · simp (disch := simp) only [rd_wr_self]
    exact Nat.mod_eq_of_lt (fget_lt ..)

theorem storePatHdr_reads (c : Chip) (p v : Nat) : (c.storePatHdr p v).on (R.CIRC_PAT_HDR_CHAIN p) = bitOf v 31 ∧ (c.storePatHdr p v).rd (R.CIRC_PAT_HDR_NEXT p) = fget v 29 24
    ∧ (c.storePatHdr p v).rd (R.CIRC_PAT_HDR_STEP p) = fget v 19 4 ∧ (c.storePatHdr p v).rd (R.CIRC_PAT_HDR_TENANT p) = fget v 3 0 := by
  unfold Chip.storePatHdr
  refine ⟨on_bit ?_, ?_, ?_, ?_⟩ <;> simp (disch := simp) only [rd_wr_apart, rd_wr_self] <;> exact Nat.mod_eq_of_lt (fget_lt ..)

theorem word_storeAllot {c : Chip} {e v o : Nat} (h : o ≠ R.CIRC_ALLOT e) : (c.storeAllot e v).word o = c.word o := (word_wr_of_ne h).trans (word_wr_of_ne h)

theorem word_storePatHdr {c : Chip} {p v o : Nat} (h : o ≠ R.CIRC_PAT_HDR p) : (c.storePatHdr p v).word o = c.word o :=
  (word_wr_of_ne h).trans ((word_wr_of_ne h).trans ((word_wr_of_ne h).trans (word_wr_of_ne h)))

theorem patHook_takes {c : Chip} (p : Nat) (h : c.circ.armed = []) : (c.patHook p).takes = true := by
  simp [Chip.patHook, h]

theorem patHook_takes_not {c : Chip} {p : Nat} {a : ArmedPattern} (hmem : a ∈ c.circ.armed) (hp : a.pattern = p) : (c.patHook p).takes = false := by
  simp only [Chip.patHook, Bool.not_eq_false', List.any_eq_true]
  exact ⟨a, hmem, by simp [hp]⟩

/-! Port assignments (R196). -/

theorem exec_portAssignGo (req : Requester) (j : Fin 16) (v : BitVec 32) (agreed : Bool) (s : State) :
    exec (.portAssignGo req j v agreed) s = .next (s.onChip (fun c => c.writeReg req (R.CIRC_PORT_ASSIGN j.val) v.toNat (assignHook j.val v.toNat agreed))) := rfl

/-- What an assignment looks at is the same in two packages: the records of the circuits and of the lanes, and the registers of the edge ports. -/
def Chip.sameAssigning (c d : Chip) : Prop := d.circ = c.circ ∧ d.lanes = c.lanes ∧ ∀ o, 0x4000000 ≤ o → o < 0x4400000 → d.word o = c.word o

section
variable {c d : Chip} {j v : Nat}

theorem rd_of_sameAssigning (h : c.sameAssigning d) {f : FRef} (hlow : 0x4000000 ≤ f.off) (hhigh : f.off < 0x4400000) : d.rd f = c.rd f := rd_of_word (h.2.2 f.off hlow hhigh) f.hi f.lo

theorem portUp_of_sameAssigning (h : c.sameAssigning d) (hj : j < 16) : d.portUp j = c.portUp j := by
  rw [Chip.portUp, rd_of_sameAssigning h (by grind) (by grind)]
  rfl

theorem lanesHanded_congr (h : d.circ.reserved = c.circ.reserved) (x : Nat × Nat × Nat) : d.lanesHanded x = c.lanesHanded x := by
  simp only [Chip.lanesHanded, Chip.reservedLanes, Chip.reservedOf, h]

theorem portRunsOpen_congr (hreserved : d.circ.reserved = c.circ.reserved) (hsrc : d.circ.src = c.circ.src) (hdst : d.circ.dst = c.circ.dst) (x : Nat × Nat × Nat) : d.portRunsOpen x = c.portRunsOpen x := by
  simp only [Chip.portRunsOpen, lanesHanded_congr hreserved, hsrc, hdst]

theorem writeReg_portAssign {req : Requester} (hj : j < 16) (agreed : Bool) (hacc : writeAccepted c req (R.CIRC_PORT_ASSIGN j)) :
    ∃ d, c.writeReg req (R.CIRC_PORT_ASSIGN j) v (assignHook j v agreed) = (assignHook j v agreed).effect d ∧ c.sameAssigning d := by
  obtain ⟨d, hd, hsame, hwords⟩ := writeReg_circ (v := v) (h := assignHook j v agreed) (by grind) (by grind) hacc rfl
  refine ⟨d, hd, by rw [hsame], by rw [hsame], fun o hlow hhigh => hwords o ?_⟩
  unfold circBookkeeping
  grind

/-- The assignment that EXPRESS asks for waits in CIRC.PORT_ASSIGN_j. -/
def Chip.assignAsked (c : Chip) (j v : Nat) : Chip := (c.wr (R.CIRC_PORT_ASSIGN_STATUS j) 1).onCirc (fun y => { y with assigning := [(j, fget v 19 16, 36)] })

/-- An assignment of all lanes of a port, of which none waits, goes on at once where the partner agrees. -/
theorem assignHook_express (hgo : bitOf v 31 = true) (hup : c.portUp j = true) (hexpress : bitOf v 23 = true) (hj : 12 ≤ j) (hnone : c.circ.assigning = []) :
    (assignHook j v true).effect c = (c.assignAsked j v).assignOn (j, fget v 19 16, 36) := by
  have all : assignedLanes j v = 36 := by simp [assignedLanes, hexpress, hj]
  simp [assignHook, WriteHook.does, hgo, hup, not_lt.mpr hj, all, Chip.assignStep, Chip.each, Chip.assignAsked, Chip.onCirc, hnone]

theorem assignHook_down (agreed : Bool) (hgo : bitOf v 31 = true) (hdown : c.portUp j = false) :
    ∃ d : Chip, (assignHook j v agreed).effect c = d.wr (R.CIRC_PORT_ASSIGN_STATUS j) 3 ∧ d.circ = c.circ := by
  refine ⟨if j < 12 then c.wr (R.CIRC_PORT_ASSIGN_EXPRESS j) 0 else c, ?_, ?_⟩
  · have down : (if j < 12 then c.wr (R.CIRC_PORT_ASSIGN_EXPRESS j) 0 else c).portUp j = false := by
      split
      · rw [← hdown, Chip.portUp, rd_wr_of_ne (by grind)]
        rfl
      · exact hdown
    simp only [assignHook, WriteHook.does, hgo, down, if_true]
  · split <;> rfl

end

end Sys2Proof.Machine
end

section
/-! Port assignments that go on (R196). -/

namespace Sys2Proof.Machine

section
variable {c : Chip} {j t : Nat} {x : Nat × Nat × Nat}

theorem lt_of_mem_lanesHanded {l : Nat} (h : l ∈ c.lanesHanded x) : l < 36 := by
  unfold Chip.lanesHanded at h
  exact List.mem_range.mp (List.mem_of_mem_filter h)

theorem assignOn_waits (hopen : c.portRunsOpen x = true) : c.assignOn x = c := by
  simp [Chip.assignOn, hopen]

/-- An assignment by which no lane in service changes hands is in effect at once. -/
theorem assignOn_idle (hopen : c.portRunsOpen x = false) (hidle : ∀ l < 36, c.rd (R.EDGE_LANE_STATE_RX_STATE x.1 l) = lsFENCED ∨ c.rd (R.EDGE_LANE_STATE_RX_STATE x.1 l) = lsOFF) :
    c.assignOn x = c.assignDone x := by
  have live : (c.lanesHanded x).filter (fun l => c.rd (R.EDGE_LANE_STATE_RX_STATE x.1 l) != lsFENCED && c.rd (R.EDGE_LANE_STATE_RX_STATE x.1 l) != lsOFF) = [] := by
    refine List.filter_eq_nil_iff.mpr (fun l hl => ?_)
    rcases hidle l (lt_of_mem_lanesHanded hl) with h | h <;> simp [h]
  unfold Chip.assignOn
  simp only [hopen, live]
  rfl

/-- A lane that changes hands trains, where it is Up, and its receiver starts to look for training again. -/
def Chip.trainHanded (c : Chip) (j l : Nat) : Chip :=
  let train := fun (c : Chip) (f : FRef) => if c.rd f = lsUP then c.wr f lsTRAIN else c
  (train (train c (R.EDGE_LANE_STATE_RX_STATE j l)) (R.EDGE_LANE_STATE_TX_STATE j l)).setRx (24 + j, 0, l) { c.linkRx (24 + j, 0, l) with goodMarkers := 0, goodTrain := 0 }

/-- All lanes that change hands train. -/
def Chip.trainAll (c : Chip) (x : Nat × Nat × Nat) : Chip := c.each (c.lanesHanded x) (fun c l => c.trainHanded x.1 l)

/-- Lanes in service that change hands retrain first. -/
theorem assignOn_retrains {l : Nat} (hopen : c.portRunsOpen x = false) (hhanded : l ∈ c.lanesHanded x) (hup : c.rd (R.EDGE_LANE_STATE_RX_STATE x.1 l) = lsUP) (hfirst : c.circ.retraining = []) :
    c.assignOn x = (c.trainAll x).onCirc (fun y => { y with retraining := y.retraining ++ [x.1] }) := by
  have live : ((c.lanesHanded x).filter (fun l => c.rd (R.EDGE_LANE_STATE_RX_STATE x.1 l) != lsFENCED && c.rd (R.EDGE_LANE_STATE_RX_STATE x.1 l) != lsOFF)).isEmpty = false := by
    rw [List.isEmpty_eq_false_iff_exists_mem]
    exact ⟨l, List.mem_filter.mpr ⟨hhanded, by rw [hup]; rfl⟩⟩
  unfold Chip.assignOn
  simp only [hopen, live, hfirst]
  rfl

theorem trainHanded_circ (c : Chip) (j l : Nat) : (c.trainHanded j l).circ = c.circ := by
  unfold Chip.trainHanded
  dsimp only
  split <;> split <;> rfl

theorem trainHanded_rd_of_ne {f : FRef} {l : Nat} (h : f.off ≠ R.EDGE_LANE_STATE j l) : (c.trainHanded j l).rd f = c.rd f := by
  unfold Chip.trainHanded Chip.setRx
  dsimp only
  rw [rd_onLanes]
  split <;> split <;> simp (disch := exact h) only [rd_wr_of_ne]

theorem trainHanded_rx (c : Chip) (j l : Nat) :
    (c.trainHanded j l).rd (R.EDGE_LANE_STATE_RX_STATE j l) = if c.rd (R.EDGE_LANE_STATE_RX_STATE j l) = lsUP then lsTRAIN else c.rd (R.EDGE_LANE_STATE_RX_STATE j l) := by
  have tx : ∀ d : Chip, (if d.rd (R.EDGE_LANE_STATE_TX_STATE j l) = lsUP then d.wr (R.EDGE_LANE_STATE_TX_STATE j l) lsTRAIN else d).rd (R.EDGE_LANE_STATE_RX_STATE j l)
      = d.rd (R.EDGE_LANE_STATE_RX_STATE j l) := fun d => by
    split
    · exact rd_wr_apart d _ (by simp) (by simp) (by simp)
    · rfl
  unfold Chip.trainHanded Chip.setRx
  dsimp only
  rw [rd_onLanes, tx]
  split
  · exact rd_wr_self c _ (by simp) (by simp)
  · rfl

/-- All data lanes of a port change hands when the first assignment takes them all. -/
theorem mem_lanesHanded_all {l : Nat} (hnone : c.circ.reserved = []) (hl : l < 36) : l ∈ c.lanesHanded (j, t, 36) := by
  simp [Chip.lanesHanded, Chip.reservedLanes, Chip.reservedOf, hnone, hl]

theorem trainAll_circ : (c.trainAll x).circ = c.circ := each_keeps Chip.circ (fun l _ c => trainHanded_circ c x.1 l) c

theorem trainAll_rx {l : Nat} (hhanded : l ∈ c.lanesHanded x) (hup : c.rd (R.EDGE_LANE_STATE_RX_STATE x.1 l) = lsUP) : (c.trainAll x).rd (R.EDGE_LANE_STATE_RX_STATE x.1 l) = lsTRAIN := by
  rw [Chip.trainAll, each_at (fun c => c.rd (R.EDGE_LANE_STATE_RX_STATE x.1 l)) (fun n => if n = lsUP then lsTRAIN else n) (fun c => trainHanded_rx c x.1 l)
    (fun k hk c => trainHanded_rd_of_ne (by grind)) hhanded (List.nodup_range.filter _), hup]
  rfl

theorem trainAll_rd_of_circ {f : FRef} (hj : x.1 < 16) (hf : 0x5100000 ≤ f.off) : (c.trainAll x).rd f = c.rd f :=
  each_keeps (fun c => c.rd f) (f := fun c l => c.trainHanded x.1 l) (fun l hl c =>
    have small := lt_of_mem_lanesHanded hl
    trainHanded_rd_of_ne (by grind)) c

theorem assignDone_first (hfirst : c.circ.retraining = []) (hreserved : c.circ.reserved = []) (hassigning : c.circ.assigning = [(j, t, 36)]) :
    (c.assignDone (j, t, 36)).circ.reserved = [(j, t, 36)] ∧ (c.assignDone (j, t, 36)).circ.assigning = [] ∧ (c.assignDone (j, t, 36)).circ.src = c.circ.src
      ∧ (c.assignDone (j, t, 36)).circ.dst = c.circ.dst ∧ (c.assignDone (j, t, 36)).rd (R.CIRC_PORT_ASSIGN_STATUS j) = 2 := by
  have status : ∀ d : Chip, (d.wr (R.CIRC_PORT_ASSIGN_STATUS j) 2).rd (R.CIRC_PORT_ASSIGN_STATUS j) = 2 := fun d => rd_wr_self d 2 (by simp) (by simp)
  simp [Chip.assignDone, hfirst, hreserved, hassigning, status]

end

end Sys2Proof.Machine
end

section
/-! The statement about patterns, allotments and port assignments (R179 to R184, R196). -/

namespace Sys2Proof.Machine

/-! What the commands do, by the case that they find (R183, R184, R196). -/

section
variable {s : State} {req : Requester} {t : Fin 16} {v : BitVec 32}

/-- The state after a write of CIRC.ARM_t, by what the effect of the register is in every package that looks the same to it. -/
theorem completes_armGo {post : State → Prop} (hacc : writeAccepted s.chip req (R.CIRC_ARM t.val))
    (h : ∀ d, s.chip.sameArming d t.val → ∀ u : State, u.chip = (armHook t.val v.toNat).effect d → onlyChip s u → post u) : completes (.armGo req t v) s post := by
  obtain ⟨d, hd, hsame⟩ := writeReg_arm (v := v.toNat) t.isLt hacc
  exact completes_of_exec (exec_armGo req t v s) (h d hsame _ hd (onlyChip_onChip ..))

theorem armGo_arms (hacc : writeAccepted s.chip req (R.CIRC_ARM t.val)) (hgo : bitOf v.toNat 31 = true) (hmode : fget v.toNat 29 28 = 1) (hfree : s.chip.armedOf t.val = none)
    (hvalid : s.chip.patternValid t.val (fget v.toNat 21 16) 1 (s.chip.rd (R.CIRC_ARM_SYNC_SYNC t.val)) = true) :
    completes (.armGo req t v) s (fun u => u.chip.circ = { s.chip.circ with armed := s.chip.circ.armed ++ [s.chip.askedPattern t.val v.toNat] }
      ∧ u.chip.rd (R.CIRC_ARM_RESULT_STATUS t.val) = 1 ∧ u.chip.rd (R.CIRC_ARM_RESULT_PATTERN t.val) = fget v.toNat 21 16 ∧ onlyChip s u) := by
  refine completes_armGo hacc (fun d hsame u hu hkept => ?_)
  have pattern : fget v.toNat 21 16 < 64 := fget_lt ..
  have sync : d.rd (R.CIRC_ARM_SYNC_SYNC t.val) = s.chip.rd (R.CIRC_ARM_SYNC_SYNC t.val) := rd_of_sameArming hsame (by grind) (by grind) (by grind)
  rw [armHook_arms hgo hmode ((armedOf_of_sameArming hsame).trans hfree) (by rw [patternValid_of_sameArming hsame t.isLt pattern, sync, hvalid])] at hu
  rw [hu, askedPattern_of_sameArming hsame t.isLt]
  refine ⟨?_, rd_armResult_status .., (rd_armResult_pattern ..).trans (Nat.mod_eq_of_lt pattern), hkept⟩
  rw [armResult_circ, Chip.onCirc_circ, circ_of_sameArming hsame]

theorem armGo_invalid (hacc : writeAccepted s.chip req (R.CIRC_ARM t.val)) (hgo : bitOf v.toNat 31 = true) (hfree : s.chip.armedOf t.val = none)
    (hinvalid : s.chip.patternValid t.val (fget v.toNat 21 16) (fget v.toNat 29 28) (s.chip.rd (R.CIRC_ARM_SYNC_SYNC t.val)) = false) :
    completes (.armGo req t v) s (fun u => u.chip.circ = s.chip.circ ∧ u.chip.rd (R.CIRC_ARM_RESULT_STATUS t.val) = 3 ∧ onlyChip s u) := by
  refine completes_armGo hacc (fun d hsame u hu hkept => ?_)
  have pattern : fget v.toNat 21 16 < 64 := fget_lt ..
  have sync : d.rd (R.CIRC_ARM_SYNC_SYNC t.val) = s.chip.rd (R.CIRC_ARM_SYNC_SYNC t.val) := rd_of_sameArming hsame (by grind) (by grind) (by grind)
  rw [armHook_invalid hgo ((armedOf_of_sameArming hsame).trans hfree) (by rw [patternValid_of_sameArming hsame t.isLt pattern, sync, hinvalid])] at hu
  rw [hu]
  exact ⟨(armResult_circ ..).trans (circ_of_sameArming hsame), rd_armResult_status .., hkept⟩

theorem armGo_busy (hacc : writeAccepted s.chip req (R.CIRC_ARM t.val)) (hgo : bitOf v.toNat 31 = true) (harmed : (s.chip.armedOf t.val).isSome = true) :
    completes (.armGo req t v) s (fun u => u.chip.circ = s.chip.circ ∧ u.chip.rd (R.CIRC_ARM_RESULT_STATUS t.val) = 4 ∧ onlyChip s u) := by
  refine completes_armGo hacc (fun d hsame u hu hkept => ?_)
  rw [armHook_busy hgo (by rw [armedOf_of_sameArming hsame, harmed])] at hu
  rw [hu]
  exact ⟨(armResult_circ ..).trans (circ_of_sameArming hsame), rd_armResult_status .., hkept⟩

theorem armCancel_cancels {a : ArmedPattern} (hacc : writeAccepted s.chip req (R.CIRC_ARM t.val)) (hgo : bitOf v.toNat 31 = false) (hcancel : bitOf v.toNat 30 = true)
    (harmed : s.chip.armedOf t.val = some a) (huntriggered : a.target = none) :
    completes (.armCancel req t v) s (fun u => u.chip.circ = { s.chip.circ with armed := s.chip.circ.armed.filter (fun x => x.tenant != t.val) }
      ∧ u.chip.rd (R.CIRC_ARM_RESULT_STATUS t.val) = 7 ∧ u.chip.rd (R.CIRC_ARM_RESULT_PATTERN t.val) = a.pattern % 64 ∧ onlyChip s u) := by
  obtain ⟨d, hd, hsame⟩ := writeReg_arm (v := v.toNat) t.isLt hacc
  refine completes_of_exec (exec_armCancel req t v s) ?_
  rw [State.onChip_chip, hd, armHook_cancels hgo hcancel ((armedOf_of_sameArming hsame).trans harmed) huntriggered]
  refine ⟨?_, rd_armResult_status .., rd_armResult_pattern .., onlyChip_onChip ..⟩
  rw [armResult_circ, Chip.onCirc_circ, circ_of_sameArming hsame]

end

section
variable {s : State} {t : Fin 16} {a : ArmedPattern} (hcyc : s.chip.cyc = 0) (htarget : s.chip.atTarget t.val a)
include hcyc htarget

theorem patternApply_defers (hready : ((s.chip.changed t.val a.pattern).all s.chip.wasDrained) = false) (hleft : a.deferrals < s.chip.rdPos R.CIRC_CFG_DEFER_MAX) :
    completes (.patternApply t) s (fun u => u.chip.circ = { s.chip.circ with armed := [{ a with target := some (s.chip.row + 1), deferrals := a.deferrals + 1 }] }
      ∧ u.chip.rd (R.CIRC_ARM_RESULT_STATUS t.val) = 5 ∧ onlyChip s u) := by
  refine completes_of_exec (exec_patternApply hcyc) ?_
  rw [State.onChip_chip, patternBoundary_defers htarget hready hleft]
  refine ⟨Chip.event_circ .., ?_, onlyChip_onChip ..⟩
  rw [rd_event, Chip.count, rd_wr_of_ne (by grind), rd_armResult_status]

theorem patternApply_applies {e b : Fin 112} (honly : ∀ x : Fin 112, s.chip.allotted x.val t.val = true → x = e) (hallotted : s.chip.allotted e.val t.val = true)
    (hparked : s.chip.rd (R.CIRC_PLANE_STATE e.val) = 0) (hpoints : s.chip.pointed a.pattern e.val = some b.val) (hend : s.chip.on (R.CIRC_PAT_HDR_CHAIN a.pattern) = false)
    (hwaits : s.chip.circ.waits = []) :
    completes (.patternApply t) s (fun u => u.chip.circ.armed = [] ∧ u.chip.planeShows e.val b.val t.val ∧ u.chip.rd (R.CIRC_ARM_RESULT_STATUS t.val) = 2 ∧ onlyChip s u) := by
  have only_e : ∀ x < 112, s.chip.allotted x t.val = true → x = e.val := fun x hx h => congrArg Fin.val (honly ⟨x, hx⟩ h)
  have ready : ((s.chip.changed t.val a.pattern).all s.chip.wasDrained) = true := by
    rw [changed_of_onlyPlane only_e hparked]
    rfl
  obtain ⟨⟨hstate, hbank, htenant⟩, harmed, hwaiting, hregs⟩ := pointPlane_points (s.chip.onCirc (fun x => { x with armed := [] })) e.isLt b.isLt t.isLt
  have applied : (s.chip.onCirc (fun x => { x with armed := [] })).applyPattern t.val a.pattern true = (s.chip.onCirc (fun x => { x with armed := [] })).pointPlane e.val b.val t.val :=
    applyPattern_onlyPlane e.isLt only_e hallotted hparked hpoints
  refine completes_of_exec (exec_patternApply hcyc) ?_
  rw [State.onChip_chip, patternBoundary_applies htarget ready, applied]
  generalize (s.chip.onCirc (fun x => { x with armed := [] })).pointPlane e.val b.val t.val = d at *
  have chainless : (d.armResult t.val 2 a.pattern).on (R.CIRC_PAT_HDR_CHAIN a.pattern) = false := by
    rw [← hend, Chip.on, rd_of_word (word_armResult (by grind)) 31 31, hregs _ (by grind) (by grind)]
    rfl
  have shown : ∀ f : FRef, f.off = R.CIRC_PLANE e.val → (d.armResult t.val 2 a.pattern).rd f = d.rd f := fun f hf => rd_of_word (word_armResult (by grind)) f.hi f.lo
  rw [chain_of_end chainless, retryRuns_of_none (c := d.armResult t.val 2 a.pattern) (hwaiting.trans hwaits)]
  exact ⟨harmed, ⟨(shown _ rfl).trans hstate, (shown _ rfl).trans hbank, (shown _ rfl).trans htenant⟩, rd_armResult_status .., onlyChip_onChip ..⟩

end

section
variable {s : State} {req : Requester} {j : Fin 16} {v : BitVec 32}

/-- An agreed assignment of all lanes of an express port that is Up. -/
theorem completes_portAssign {post : State → Prop} (hacc : writeAccepted s.chip req (R.CIRC_PORT_ASSIGN j.val)) (hgo : bitOf v.toNat 31 = true) (hup : s.chip.portUp j.val = true)
    (hnone : s.chip.circ.assigning = []) (hj : 12 ≤ j.val) (hexpress : bitOf v.toNat 23 = true)
    (h : ∀ d : Chip, d.circ = { s.chip.circ with assigning := [(j.val, fget v.toNat 19 16, 36)] } → d.rd (R.CIRC_PORT_ASSIGN_STATUS j.val) = 1 →
      (∀ l < 36, d.rd (R.EDGE_LANE_STATE_RX_STATE j.val l) = s.chip.rd (R.EDGE_LANE_STATE_RX_STATE j.val l)) →
      ∀ u : State, u.chip = d.assignOn (j.val, fget v.toNat 19 16, 36) → onlyChip s u → post u) : completes (.portAssignGo req j v true) s post := by
  obtain ⟨d, hd, hsame⟩ := writeReg_portAssign (v := v.toNat) j.isLt true hacc
  obtain ⟨hcirc, -, -⟩ := id hsame
  refine completes_of_exec (exec_portAssignGo req j v true s) (h (d.assignAsked j.val v.toNat) ?_ ?_ (fun l hl => ?_) _ ?_ (onlyChip_onChip ..))
  · simp only [Chip.assignAsked, Chip.onCirc_circ, Chip.wr_circ, hcirc]
  · exact (rd_onCirc ..).trans (rd_wr_self d 1 (by simp) (by simp))
  · exact ((rd_onCirc ..).trans (rd_wr_of_ne (by grind))).trans (rd_of_sameAssigning hsame (by grind) (by grind))
  · exact hd.trans (assignHook_express hgo ((portUp_of_sameAssigning hsame j.isLt).trans hup) hexpress hj (by rw [hcirc, hnone]))

theorem portAssign_reserves (hacc : writeAccepted s.chip req (R.CIRC_PORT_ASSIGN j.val)) (hgo : bitOf v.toNat 31 = true) (hup : s.chip.portUp j.val = true)
    (hopen : s.chip.portRunsOpen (j.val, fget v.toNat 19 16, 36) = false) (hnone : s.chip.circ.assigning = []) (hreserved : s.chip.circ.reserved = []) (hj : 12 ≤ j.val)
    (hexpress : bitOf v.toNat 23 = true) (hidle : ∀ l : Fin 36, s.chip.rd (R.EDGE_LANE_STATE_RX_STATE j.val l.val) = lsFENCED ∨ s.chip.rd (R.EDGE_LANE_STATE_RX_STATE j.val l.val) = lsOFF)
    (hfirst : s.chip.circ.retraining = []) :
    completes (.portAssignGo req j v true) s (fun u => u.chip.circ.reserved = [(j.val, fget v.toNat 19 16, 36)] ∧ u.chip.circ.assigning = [] ∧ u.chip.circ.src = s.chip.circ.src
      ∧ u.chip.circ.dst = s.chip.circ.dst ∧ u.chip.rd (R.CIRC_PORT_ASSIGN_STATUS j.val) = 2 ∧ onlyChip s u) := by
  refine completes_portAssign hacc hgo hup hnone hj hexpress (fun d hcirc _ hlanes u hu hkept => ?_)
  have runs : d.portRunsOpen (j.val, fget v.toNat 19 16, 36) = false := (portRunsOpen_congr (by rw [hcirc]) (by rw [hcirc]) (by rw [hcirc]) _).trans hopen
  rw [assignOn_idle runs (fun l hl => by rw [hlanes l hl]; exact hidle ⟨l, hl⟩)] at hu
  obtain ⟨hnow, hassigned, hsrc, hdst, hstatus⟩ := assignDone_first (c := d) (j := j.val) (t := fget v.toNat 19 16) (by rw [hcirc, hfirst]) (by rw [hcirc, hreserved]) (by rw [hcirc])
  rw [hu]
  exact ⟨hnow, hassigned, by rw [hsrc, hcirc], by rw [hdst, hcirc], hstatus, hkept⟩

theorem portAssign_retrains {l : Fin 36} (hacc : writeAccepted s.chip req (R.CIRC_PORT_ASSIGN j.val)) (hgo : bitOf v.toNat 31 = true) (hup : s.chip.portUp j.val = true)
    (hopen : s.chip.portRunsOpen (j.val, fget v.toNat 19 16, 36) = false) (hnone : s.chip.circ.assigning = []) (hreserved : s.chip.circ.reserved = []) (hj : 12 ≤ j.val)
    (hexpress : bitOf v.toNat 23 = true) (hlive : s.chip.rd (R.EDGE_LANE_STATE_RX_STATE j.val l.val) = lsUP) (hfirst : s.chip.circ.retraining = []) :
    completes (.portAssignGo req j v true) s (fun u => u.chip.circ.reserved = [] ∧ u.chip.circ.assigning = [(j.val, fget v.toNat 19 16, 36)] ∧ u.chip.circ.retraining = [j.val]
      ∧ u.chip.rd (R.EDGE_LANE_STATE_RX_STATE j.val l.val) = lsTRAIN ∧ u.chip.rd (R.CIRC_PORT_ASSIGN_STATUS j.val) = 1 ∧ onlyChip s u) := by
  refine completes_portAssign hacc hgo hup hnone hj hexpress (fun d hcirc hstatus hlanes u hu hkept => ?_)
  have runs : d.portRunsOpen (j.val, fget v.toNat 19 16, 36) = false := (portRunsOpen_congr (by rw [hcirc]) (by rw [hcirc]) (by rw [hcirc]) _).trans hopen
  have handed : l.val ∈ d.lanesHanded (j.val, fget v.toNat 19 16, 36) := mem_lanesHanded_all (by rw [hcirc, hreserved]) l.isLt
  have up : d.rd (R.EDGE_LANE_STATE_RX_STATE j.val l.val) = lsUP := (hlanes l.val l.isLt).trans hlive
  rw [assignOn_retrains runs handed up (by rw [hcirc, hfirst])] at hu
  rw [hu]
  simp only [Chip.onCirc_circ, rd_onCirc]
  rw [trainAll_circ, hcirc]
  exact ⟨hreserved, rfl, by rw [hfirst]; rfl, trainAll_rx handed up, (trainAll_rd_of_circ j.isLt (by grind)).trans hstatus, hkept⟩

theorem portAssign_waits (hacc : writeAccepted s.chip req (R.CIRC_PORT_ASSIGN j.val)) (hgo : bitOf v.toNat 31 = true) (hup : s.chip.portUp j.val = true)
    (hopen : s.chip.portRunsOpen (j.val, fget v.toNat 19 16, 36) = true) (hnone : s.chip.circ.assigning = []) (hj : 12 ≤ j.val) (hexpress : bitOf v.toNat 23 = true) :
    completes (.portAssignGo req j v true) s (fun u => u.chip.circ = { s.chip.circ with assigning := [(j.val, fget v.toNat 19 16, 36)] }
      ∧ u.chip.rd (R.CIRC_PORT_ASSIGN_STATUS j.val) = 1 ∧ onlyChip s u) := by
  refine completes_portAssign hacc hgo hup hnone hj hexpress (fun d hcirc hstatus _ u hu hkept => ?_)
  have runs : d.portRunsOpen (j.val, fget v.toNat 19 16, 36) = true := (portRunsOpen_congr (by rw [hcirc]) (by rw [hcirc]) (by rw [hcirc]) _).trans hopen
  rw [assignOn_waits runs] at hu
  rw [hu]
  exact ⟨hcirc, hstatus, hkept⟩

theorem portAssign_down (agreed : Bool) (hacc : writeAccepted s.chip req (R.CIRC_PORT_ASSIGN j.val)) (hgo : bitOf v.toNat 31 = true) (hdown : s.chip.portUp j.val = false) :
    completes (.portAssignGo req j v agreed) s (fun u => u.chip.circ = s.chip.circ ∧ u.chip.rd (R.CIRC_PORT_ASSIGN_STATUS j.val) = 3 ∧ onlyChip s u) := by
  obtain ⟨d, hd, hsame⟩ := writeReg_portAssign (v := v.toNat) j.isLt agreed hacc
  obtain ⟨hcirc, -, -⟩ := id hsame
  obtain ⟨f, hf, hkept⟩ := assignHook_down (v := v.toNat) agreed hgo ((portUp_of_sameAssigning hsame j.isLt).trans hdown)
  refine completes_of_exec (exec_portAssignGo req j v agreed s) ?_
  rw [State.onChip_chip, hd, hf]
  exact ⟨hkept.trans hcirc, rd_wr_self f 3 (by simp) (by simp), onlyChip_onChip ..⟩

end

/-- Settles O15: an accepted write has its register's effect, which is one of the cases above, on a package that looks the same to that effect; at a target boundary a pattern is deferred or applied,
and pointing one plane leaves the other registers of circuits alone. -/
theorem patternAndAllotmentCommandsComplete : Obligations.PatternAndAllotmentCommandsComplete := by
  refine ⟨fun req t v s hacc hgo hmode hfree hvalid => armGo_arms hacc hgo hmode hfree hvalid, fun req t v s hacc hgo hfree hinvalid => armGo_invalid hacc hgo hfree hinvalid,
    fun req t v s hacc hgo harmed => armGo_busy hacc hgo harmed, fun req t v a s hacc hgo hcancel harmed huntriggered => armCancel_cancels hacc hgo hcancel harmed huntriggered,
    fun t a s hone ht huntriggered hholds hlight => ?trigger, fun t a s harmed hholds => ?triggers,
    fun t a row s hone ht htarget hrow hlight hreturned hcyc hready hleft => patternApply_defers hcyc ⟨hone, ht, ⟨row, htarget, hrow⟩, hlight, hreturned⟩ hready hleft,
    fun t e b a row s hone ht htarget hrow hlight hreturned hcyc honly hallotted hparked hpoints hend hwaits => ?apply, fun t s hcyc => ?boundary,
    fun req e v s hacc htakes => ?allot, fun req e v s hacc hignored => ?allotIgnored, fun req p v s hacc hnone => ?header, fun req p e v a s hacc hmem hp => ?entryIgnored,
    fun req j v s hacc hgo hup hopen hnone hreserved hj hexpress hidle hfirst => portAssign_reserves hacc hgo hup hopen hnone hreserved hj hexpress hidle hfirst,
    fun req j v l s hacc hgo hup hopen hnone hreserved hj hexpress hlive hfirst => portAssign_retrains hacc hgo hup hopen hnone hreserved hj hexpress hlive hfirst,
    fun req j v s hacc hgo hup hopen hnone hj hexpress => portAssign_waits hacc hgo hup hopen hnone hj hexpress,
    fun req j v agreed s hacc hgo hdown => portAssign_down agreed hacc hgo hdown⟩
  case trigger =>
    refine completes_of_exec (exec_patternTrigger (armedOf_only hone ht) hholds) ?_
    rw [State.onChip_chip, trigger183_books hone ht huntriggered hlight]
    exact ⟨rfl, rfl, onlyChip_onChip ..⟩
  case triggers => exact completes_of_exec (exec_patternTrigger harmed hholds) ⟨State.onChip_chip .., onlyChip_onChip ..⟩
  case apply =>
    obtain ⟨u, hexec, harmed, ⟨hstate, hbank, htenant⟩, hstatus, hkept⟩ :=
      patternApply_applies hcyc ⟨hone, ht, ⟨row, htarget, hrow⟩, hlight, hreturned⟩ honly hallotted hparked hpoints hend hwaits
    exact ⟨u, hexec, harmed, hstate, hbank, htenant, hstatus, hkept⟩
  case boundary => exact completes_of_exec (exec_patternApply hcyc) ⟨State.onChip_chip .., onlyChip_onChip ..⟩
  case allot =>
    refine completes_of_exec (exec_allotWrite req e v s) ?_
    rw [State.onChip_chip, writeReg_allot hacc htakes]
    obtain ⟨hen, htenant⟩ := storeAllot_reads s.chip e.val v.toNat
    exact ⟨hen, htenant, fun o ho => word_storeAllot (fun h => ho (List.mem_singleton.mpr h)), rfl, onlyChip_onChip ..⟩
  case allotIgnored =>
    refine completes_of_exec (exec_allotWrite req e v s) ?_
    rw [State.onChip_chip, writeReg_ignored hacc hignored]
    obtain ⟨hflag, hwords, honly⟩ := wr_flag s.chip R.CIRC_STATUS (bit := 1) (by decide)
    exact ⟨hflag, hwords, honly, onlyChip_onChip ..⟩
  case header =>
    refine completes_of_exec (exec_patHdrWrite req p v s) ?_
    rw [State.onChip_chip, writeReg_patHdr hacc (patHook_takes p.val hnone)]
    obtain ⟨hchain, hnext, hstep, htenant⟩ := storePatHdr_reads s.chip p.val v.toNat
    exact ⟨hchain, hnext, hstep, htenant, fun o ho => word_storePatHdr (fun h => ho (List.mem_singleton.mpr h)), rfl, onlyChip_onChip ..⟩
  case entryIgnored =>
    refine completes_of_exec (exec_patEntryWrite req p e v s) ?_
    rw [State.onChip_chip, writeReg_ignored hacc (patHook_takes_not hmem hp)]
    obtain ⟨hflag, hwords, honly⟩ := wr_flag s.chip R.CIRC_STATUS (bit := 2) (by decide)
    exact ⟨hflag, hwords, honly, onlyChip_onChip ..⟩

end Sys2Proof.Machine
end

section
/-! The row clock: what the changes of the package's parts leave of it. -/

namespace Sys2Proof.Machine

/-- The row clock: the row counter, the fabric cycle in the row, whether rows run, and the time step that waits (R294, R299). -/
def Chip.clock (c : Chip) : Nat × Nat × Bool × Option Int := (c.row, c.cyc, c.rowsRun, c.time.step)

theorem clock_of_besideFabric {c d : Chip} (h : d.besideFabric = c.besideFabric) : d.clock = c.clock := congrArg (fun x => x.1.clock) h

theorem clock_of_besideLanes {c d : Chip} (h : d.besideLanes = c.besideLanes) : d.clock = c.clock := congrArg (fun x => x.1.clock) h

/-! The frame lemmas of this layer that hold by definition are proved by `(rfl)`, in parentheses, so that `simp` rewrites with them inside the body of an `each`. -/

/-- Where the clock is written out by its fields. -/
@[simp] theorem Chip.fields_clock (c : Chip) : (c.row, c.cyc, c.rowsRun, c.time.step) = c.clock := (rfl)

/-- A package written out by its fields. -/
@[simp] theorem mk_clock {regs row epoch cyc rowsRun captured captureLost drawn reports acc opf lanes xport sync mems
    light tns pcu pins circ edge red cmd hio time comp mxe part clk pwr thm sec evr flash} :
    (Chip.mk regs row epoch cyc rowsRun captured captureLost drawn reports acc opf lanes xport sync mems
      light tns pcu pins circ edge red cmd hio time comp mxe part clk pwr thm sec evr flash).clock = (row, cyc, rowsRun, time.step) := (rfl)

@[simp] theorem ite_clock (p : Prop) [Decidable p] (c d : Chip) : (if p then c else d).clock = if p then c.clock else d.clock := apply_ite ..

@[simp] theorem ite_chip_clock (p : Prop) [Decidable p] (s u : State) : (if p then s else u).chip.clock = if p then s.chip.clock else u.chip.clock :=
  apply_ite (fun s : State => s.chip.clock) ..

@[simp] theorem Chip.onOpf_clock (c : Chip) (g : Opf → Opf) : (c.onOpf g).clock = c.clock := (rfl)
@[simp] theorem Chip.onLanes_clock (c : Chip) (g : Lanes → Lanes) : (c.onLanes g).clock = c.clock := (rfl)
@[simp] theorem Chip.onXport_clock (c : Chip) (g : Xport → Xport) : (c.onXport g).clock = c.clock := (rfl)
@[simp] theorem Chip.onSync_clock (c : Chip) (g : SyncStore → SyncStore) : (c.onSync g).clock = c.clock := (rfl)
@[simp] theorem Chip.onMems_clock (c : Chip) (g : MemSites → MemSites) : (c.onMems g).clock = c.clock := (rfl)
@[simp] theorem Chip.onPins_clock (c : Chip) (g : Pins → Pins) : (c.onPins g).clock = c.clock := (rfl)
@[simp] theorem Chip.onCirc_clock (c : Chip) (g : Circuits → Circuits) : (c.onCirc g).clock = c.clock := (rfl)
@[simp] theorem Chip.onEdge_clock (c : Chip) (g : Edge → Edge) : (c.onEdge g).clock = c.clock := (rfl)
@[simp] theorem Chip.onRed_clock (c : Chip) (g : Combining → Combining) : (c.onRed g).clock = c.clock := (rfl)
@[simp] theorem Chip.onComp_clock (c : Chip) (g : Compute → Compute) : (c.onComp g).clock = c.clock := (rfl)
@[simp] theorem Chip.onPart_clock (c : Chip) (g : Partitions → Partitions) : (c.onPart g).clock = c.clock := (rfl)
@[simp] theorem Chip.onClk_clock (c : Chip) (g : Clocks → Clocks) : (c.onClk g).clock = c.clock := (rfl)
@[simp] theorem Chip.onPwr_clock (c : Chip) (g : Power → Power) : (c.onPwr g).clock = c.clock := (rfl)
@[simp] theorem Chip.onEvr_clock (c : Chip) (g : Recorder → Recorder) : (c.onEvr g).clock = c.clock := (rfl)
@[simp] theorem Chip.onLight_clock (c : Chip) (g : Light → Light) : (c.onLight g).clock = c.clock := (rfl)

/-- What keeps the step of the time service that waits keeps the clock. -/
theorem Chip.onTime_clock (c : Chip) {g : TimeSvc → TimeSvc} (h : (g c.time).step = c.time.step) : (c.onTime g).clock = c.clock :=
  congrArg (fun o => (c.row, c.cyc, c.rowsRun, o)) h

@[simp] theorem Chip.wr_clock (c : Chip) (f : FRef) (v : Nat) : (c.wr f v).clock = c.clock := (rfl)
@[simp] theorem Chip.count_clock (c : Chip) (f : FRef) (n : Nat) : (c.count f n).clock = c.clock := (rfl)
@[simp] theorem Chip.wrPair_clock (c : Chip) (lo hi : FRef) (v : Nat) : (c.wrPair lo hi v).clock = c.clock := (rfl)

/-- What keeps the clock keeps it for each element of a list. -/
@[simp] theorem Chip.each_clock {α : Type} (c : Chip) (l : List α) {f : Chip → α → Chip} (h : ∀ d a, (f d a).clock = d.clock) : (c.each l f).clock = c.clock :=
  each_keeps Chip.clock (fun a _ d => h d a) c

@[simp] theorem Chip.when_clock (c : Chip) (b : Bool) {f : Chip → Chip} (h : ∀ d, (f d).clock = d.clock) : (c.when b f).clock = c.clock := by
  cases b
  · rfl
  · exact h c

end Sys2Proof.Machine
end

section
/-! The row clock in events, stitches and outstanding requests. -/

namespace Sys2Proof.Machine

@[simp] theorem Chip.event_clock (c : Chip) (code : Nat) (tenant : Option Nat) (unit : Nat) (args : List Nat) : (c.event code tenant unit args).clock = c.clock := clock_of_besideFabric (c.event_besideFabric ..)
@[simp] theorem Chip.interrupt_clock (c : Chip) (n : Nat) : (c.interrupt n).clock = c.clock := by simp [Chip.interrupt]
@[simp] theorem Chip.assertFault_clock (c : Chip) : c.assertFault.clock = c.clock := by simp [Chip.assertFault]
@[simp] theorem Chip.setReady_clock (c : Chip) (b : Bool) : (c.setReady b).clock = c.clock := by simp [Chip.setReady]
@[simp] theorem Chip.report_clock (c : Chip) (unit : Nat) (tenants : List Nat) (opclass opcode cause action : Nat) : (c.report unit tenants opclass opcode cause action).clock = c.clock := clock_of_besideFabric (c.report_besideFabric ..)
@[simp] theorem Chip.applyHeld_clock (c : Chip) (row : Nat) : (c.applyHeld row).clock = c.clock := Chip.each_clock _ _ fun _ _ => rfl
@[simp] theorem Chip.send_clock (c : Chip) (site : Nat) (st : Stitch) : (c.send site st).clock = c.clock := clock_of_besideFabric (c.send_besideFabric ..)
@[simp] theorem Chip.landCount_clock (c : Chip) (site obj inc status : Nat) : (c.landCount site obj inc status).clock = c.clock := clock_of_besideFabric (c.landCount_besideFabric ..)
@[simp] theorem Chip.outCounts_clock (c : Chip) (site : Nat) : (c.outCounts site).clock = c.clock := clock_of_besideFabric (c.outCounts_besideFabric ..)
@[simp] theorem Chip.ack_clock (c : Chip) (site : Nat) (st : Stitch) : (c.ack site st).clock = c.clock := clock_of_besideFabric (c.ack_besideFabric ..)
@[simp] theorem Chip.refuse_clock (c : Chip) (site : Nat) (st : Stitch) (status : Nat) : (c.refuse site st status).clock = c.clock := clock_of_besideFabric (c.refuse_besideFabric ..)
@[simp] theorem Chip.freeOut_clock (c : Chip) (e : OutEntry) : (c.freeOut e).clock = c.clock := clock_of_besideFabric (c.freeOut_besideFabric ..)
@[simp] theorem Chip.unstall_clock (c : Chip) : c.unstall.clock = c.clock := clock_of_besideFabric c.unstall_besideFabric
@[simp] theorem Chip.purgeDead_clock (c : Chip) : c.purgeDead.clock = c.clock := by simp [Chip.purgeDead]
@[simp] theorem Chip.freeCredit_clock (c : Chip) (s d : Nat) (st : Stitch) : (c.freeCredit s d st).clock = c.clock := clock_of_besideFabric (c.freeCredit_besideFabric ..)

end Sys2Proof.Machine
end

section
/-! The row clock in the lanes, the synchronization objects and the combining of partials. -/

namespace Sys2Proof.Machine

@[simp] theorem Chip.patResult_clock (c : Chip) (site status : Nat) : (c.patResult site status).clock = c.clock := clock_of_besideLanes (c.patResult_besideLanes ..)
@[simp] theorem Chip.injResult_clock (c : Chip) (site status : Nat) : (c.injResult site status).clock = c.clock := (rfl)
@[simp] theorem Chip.setLane_clock (c : Chip) (s p k v : Nat) : (c.setLane s p k v).clock = c.clock := clock_of_besideFabric (c.setLane_besideFabric ..)
@[simp] theorem Chip.setTx_clock (c : Chip) (l : Nat × Nat × Nat) (x : LinkTx) : (c.setTx l x).clock = c.clock := (rfl)
@[simp] theorem Chip.setRx_clock (c : Chip) (l : Nat × Nat × Nat) (x : LinkRx) : (c.setRx l x).clock = c.clock := (rfl)
@[simp] theorem Chip.reissue_clock (c : Chip) (l : Nat × Nat × Nat) : (c.reissue l).clock = c.clock := clock_of_besideFabric (c.reissue_besideFabric ..)

@[simp] theorem Chip.showBooking_clock (c : Chip) (sites : List Nat) (site plane k scope : Nat) : (c.showBooking sites site plane k scope).clock = c.clock :=
  c.each_clock _ fun _ _ => rfl

@[simp] theorem Chip.clearBooking_clock (c : Chip) (sites : List Nat) : (c.clearBooking sites).clock = c.clock := clock_of_besideLanes (c.clearBooking_besideLanes ..)
@[simp] theorem Chip.runLeaves_clock (c : Chip) (r : PatRun) : (c.runLeaves r).clock = c.clock := clock_of_besideLanes (c.runLeaves_besideLanes ..)
@[simp] theorem Chip.endTests_clock (c : Chip) (s p k status : Nat) : (c.endTests s p k status).clock = c.clock := clock_of_besideLanes (c.endTests_besideLanes ..)
@[simp] theorem Chip.goBack_clock (c : Chip) (l : Nat × Nat × Nat) : (c.goBack l).clock = c.clock := (rfl)
@[simp] theorem Chip.resync_clock (c : Chip) (l : Nat × Nat × Nat) : (c.resync l).clock = c.clock := by simp [Chip.resync]

@[simp] theorem Chip.phaseLocked_clock (c : Chip) (l : Nat × Nat × Nat) : (c.phaseLocked l).clock = c.clock := by
  unfold Chip.phaseLocked
  split
  · split <;> simp
  · rfl

@[simp] theorem Chip.laneReturns_clock (c : Chip) (l : Nat × Nat × Nat) : (c.laneReturns l).clock = c.clock := by simp [Chip.laneReturns]
@[simp] theorem Chip.setDetectHold_clock (c : Chip) (b : Bool) : (c.setDetectHold b).clock = c.clock := (rfl)
@[simp] theorem Chip.notice_clock (c : Chip) (subtype : Nat) (data : List Nat) : (c.notice subtype data).clock = c.clock := by simp [Chip.notice]
@[simp] theorem Chip.sendNotices_clock (c : Chip) : c.sendNotices.clock = c.clock := by simp [Chip.sendNotices]
@[simp] theorem Chip.lightNotice_clock (c : Chip) : c.lightNotice.clock = c.clock := by simp [Chip.lightNotice]
@[simp] theorem Chip.syncCounts_clock (c : Chip) : c.syncCounts.clock = c.clock := (rfl)

@[simp] theorem Chip.answerWait_clock (c : Chip) (who : Waiter) (code : Nat) (before after : Option SyncObj) : (c.answerWait who code before after).clock = c.clock := by
  cases who with
  | stitch st => exact Chip.send_clock ..
  | queue t q => rfl

@[simp] theorem Chip.armResult_clock (c : Chip) (t status pattern : Nat) : (c.armResult t status pattern).clock = c.clock := (rfl)

@[simp] theorem Chip.trigger183_clock (c : Chip) (t : Nat) : (c.trigger183 t).clock = c.clock := by
  unfold Chip.trigger183
  split <;> simp

@[simp] theorem Chip.triggerAll_clock (c : Chip) (p : ArmedPattern → Bool) : (c.triggerAll p).clock = c.clock := by simp [Chip.triggerAll]
@[simp] theorem Chip.setObj_clock (c : Chip) (n : Nat) (o : SyncObj) : (c.setObj n o).clock = c.clock := by simp [Chip.setObj]

@[simp] theorem Chip.abandon_clock (c : Chip) (n cause : Nat) : (c.abandon n cause).clock = c.clock := by
  unfold Chip.abandon
  split <;> simp

@[simp] theorem Chip.landing_clock (c : Chip) (obj inc status : Nat) : (c.landing obj inc status).clock = c.clock := by
  unfold Chip.landing
  split <;> simp

@[simp] theorem Chip.frogSync_clock (c : Chip) (t : Nat) : (c.frogSync t).clock = c.clock := by simp [Chip.frogSync]

@[simp] theorem Chip.leaseExpiry_clock (c : Chip) (obj : Nat) : (c.leaseExpiry obj).clock = c.clock := by
  unfold Chip.leaseExpiry
  split <;> simp

@[simp] theorem Chip.leaseStep_clock (c : Chip) : c.leaseStep.clock = c.clock := by simp [Chip.leaseStep]
@[simp] theorem Chip.frameCounts_clock (c : Chip) : c.frameCounts.clock = c.clock := (rfl)
@[simp] theorem Chip.park_clock (c : Chip) (site : Nat) (op : ParkedOp) (o : Nat × List Nat × Option Nat) (share evict : Bool) : (c.park site op o share evict).clock = c.clock := (rfl)
@[simp] theorem Chip.ctxError_clock (c : Chip) (n k : Nat) : (c.ctxError n k).clock = c.clock := (rfl)
@[simp] theorem Chip.dropPartial_clock (c : Chip) (p : Partial) : (c.dropPartial p).clock = c.clock := (rfl)
@[simp] theorem Chip.releaseEdge_clock (c : Chip) (p : Partial) : (c.releaseEdge p).clock = c.clock := by simp [Chip.releaseEdge]
@[simp] theorem Chip.flushEdge_clock (c : Chip) (e : Nat) (hit : Partial → Bool) : (c.flushEdge e hit).clock = c.clock := by simp [Chip.flushEdge]
@[simp] theorem Chip.mcDiscard_clock (c : Chip) (st : Stitch) : (c.mcDiscard st).clock = c.clock := by simp [Chip.mcDiscard]
@[simp] theorem Chip.frogCombine_clock (c : Chip) (t : Nat) : (c.frogCombine t).clock = c.clock := (rfl)

end Sys2Proof.Machine
end

section
/-! The row clock in edge credits, runs and circuits. -/

namespace Sys2Proof.Machine

@[simp] theorem Chip.unuseCredit_clock (c : Chip) (j pool : Nat) : (c.unuseCredit j pool).clock = c.clock := (rfl)
@[simp] theorem Chip.freeEntry_clock (c : Chip) (x : PoolEntry) : (c.freeEntry x).clock = c.clock := clock_of_besideFabric (c.freeEntry_besideFabric ..)
@[simp] theorem Chip.skeinGone_clock (c : Chip) (s d : Nat) : (c.skeinGone s d).clock = c.clock := clock_of_besideFabric (c.skeinGone_besideFabric ..)
@[simp] theorem Chip.creditsBack_clock (c : Chip) : c.creditsBack.clock = c.clock := (rfl)
@[simp] theorem Chip.lostSkeinStep_clock (c : Chip) : c.lostSkeinStep.clock = c.clock := by simp [Chip.lostSkeinStep]
@[simp] theorem Chip.detourRecheck_clock (c : Chip) : c.detourRecheck.clock = c.clock := (rfl)
@[simp] theorem Chip.reachAgain_clock (c : Chip) : c.reachAgain.clock = c.clock := by simp [Chip.reachAgain]
@[simp] theorem Chip.requeuePort_clock (c : Chip) (j : Nat) : (c.requeuePort j).clock = c.clock := by simp [Chip.requeuePort]
@[simp] theorem Chip.frogEdge_clock (c : Chip) (t : Nat) : (c.frogEdge t).clock = c.clock := by simp [Chip.frogEdge]
@[simp] theorem Chip.arm_clock (c : Chip) (a : ArmedPattern) : (c.arm a).clock = c.clock := by simp [Chip.arm]
@[simp] theorem Chip.dealStep_clock (c : Chip) : c.dealStep.clock = c.clock := (rfl)
@[simp] theorem Chip.dealtTo_clock (c : Chip) (e : Nat) (deal : List Nat) (start groups : Nat) : (c.dealtTo e deal start groups).clock = c.clock := (rfl)
@[simp] theorem Chip.dropSrcRun_clock (c : Chip) (r : SrcRun) : (c.dropSrcRun r).clock = c.clock := clock_of_besideFabric (c.dropSrcRun_besideFabric ..)
@[simp] theorem Chip.dropDstRun_clock (c : Chip) (r : DstRun) : (c.dropDstRun r).clock = c.clock := (rfl)
@[simp] theorem Chip.openRun_clock (c : Chip) (e : Nat) (w : RunWait) : (c.openRun e w).clock = c.clock := by simp [Chip.openRun]

@[simp] theorem Chip.tryRun_clock (c : Chip) (w : RunWait) : (c.tryRun w).clock = c.clock := by
  unfold Chip.tryRun
  dsimp only
  split <;> simp

@[simp] theorem Chip.retryRuns_clock (c : Chip) : c.retryRuns.clock = c.clock := by simp [Chip.retryRuns]
@[simp] theorem Chip.settleRuns_clock (c : Chip) (e : Nat) : (c.settleRuns e).clock = c.clock := clock_of_besideFabric (c.settleRuns_besideFabric ..)
@[simp] theorem Chip.cutRuns_clock (c : Chip) (e : Nat) : (c.cutRuns e).clock = c.clock := clock_of_besideFabric (c.cutRuns_besideFabric ..)
@[simp] theorem Chip.turnLanes_clock (c : Chip) (e : Nat) (up : Bool) : (c.turnLanes e up).clock = c.clock := by simp [Chip.turnLanes]
@[simp] theorem Chip.pointPlane_clock (c : Chip) (e b t : Nat) : (c.pointPlane e b t).clock = c.clock := by simp [Chip.pointPlane]
@[simp] theorem Chip.parkPlane_clock (c : Chip) (e : Nat) : (c.parkPlane e).clock = c.clock := by simp [Chip.parkPlane]

@[simp] theorem Chip.applyPattern_clock (c : Chip) (t p : Nat) (ready : Bool) : (c.applyPattern t p ready).clock = c.clock := by
  unfold Chip.applyPattern
  dsimp only
  rw [Chip.each_clock]
  · simp
  · intro d e
    split
    · simp
    · rfl

@[simp] theorem Chip.chain_clock (c : Chip) (a : ArmedPattern) : (c.chain a).clock = c.clock := by simp [Chip.chain]

@[simp] theorem Chip.patternBoundary_clock (c : Chip) (t : Nat) : (c.patternBoundary t).clock = c.clock := by
  unfold Chip.patternBoundary
  split
  · rfl
  · split
    · rfl
    · simp

@[simp] theorem Chip.patternStep_clock (c : Chip) : c.patternStep.clock = c.clock := by simp [Chip.patternStep]

@[simp] theorem Chip.frogRuns_clock (c : Chip) (t : Nat) : (c.frogRuns t).clock = c.clock := by
  unfold Chip.frogRuns
  dsimp only
  split <;> simp

@[simp] theorem Chip.frogPark_clock (c : Chip) (t : Nat) : (c.frogPark t).clock = c.clock := by simp [Chip.frogPark]
@[simp] theorem Chip.sendMsg_clock (c : Chip) (j word : Nat) : (c.sendMsg j word).clock = c.clock := (rfl)
@[simp] theorem Chip.assignDone_clock (c : Chip) (x : Nat × Nat × Nat) : (c.assignDone x).clock = c.clock := by simp [Chip.assignDone]
@[simp] theorem Chip.assignOn_clock (c : Chip) (x : Nat × Nat × Nat) : (c.assignOn x).clock = c.clock := by simp [Chip.assignOn]
@[simp] theorem Chip.assignStep_clock (c : Chip) : c.assignStep.clock = c.clock := by simp [Chip.assignStep]

end Sys2Proof.Machine
end

section
/-! The row clock in the time service and the ports. -/

namespace Sys2Proof.Machine

@[simp] theorem Chip.setTimeState_clock (c : Chip) (st : Nat) : (c.setTimeState st).clock = c.clock := by simp [Chip.setTimeState]
@[simp] theorem Chip.followEnd_clock (c : Chip) (e : TimeEnd) : (c.followEnd e).clock = c.clock := (rfl)

@[simp] theorem Chip.takeParent_clock (c : Chip) (e : TimeEnd) : (c.takeParent e).clock = c.clock := by
  unfold Chip.takeParent
  rw [Chip.onTime_clock _ rfl]
  simp

@[simp] theorem Chip.parentLost_clock (c : Chip) : c.parentLost.clock = c.clock := by
  unfold Chip.parentLost
  split
  · simp
  · rw [Chip.onTime_clock _ rfl]
    simp

@[simp] theorem Chip.timePortDown_clock (c : Chip) (j : Nat) : (c.timePortDown j).clock = c.clock := by
  unfold Chip.timePortDown
  dsimp only
  rw [ite_clock, Chip.parentLost_clock, Chip.onTime_clock _ rfl, ite_self]

@[simp] theorem Chip.edgePatResult_clock (c : Chip) (j status : Nat) : (c.edgePatResult j status).clock = c.clock := (rfl)
@[simp] theorem Chip.edgeInjResult_clock (c : Chip) (j status : Nat) : (c.edgeInjResult j status).clock = c.clock := (rfl)
@[simp] theorem Chip.cancelEdgeInjections_clock (c : Chip) (j : Nat) (lane : Nat → Bool) : (c.cancelEdgeInjections j lane).clock = c.clock := by simp [Chip.cancelEdgeInjections]
@[simp] theorem Chip.setPortLane_clock (c : Chip) (j l : Nat) (incoming : Bool) (v : Nat) : (c.setPortLane j l incoming v).clock = c.clock := by simp [Chip.setPortLane]
@[simp] theorem Chip.setSpare_clock (c : Chip) (j : Nat) (incoming : Bool) (n state lane : Nat) : (c.setSpare j incoming n state lane).clock = c.clock := (rfl)
@[simp] theorem Chip.portNotice_clock (c : Chip) (j : Nat) : (c.portNotice j).clock = c.clock := by simp [Chip.portNotice]
@[simp] theorem Chip.edgeRunLeaves_clock (c : Chip) (r : PatRun) : (c.edgeRunLeaves r).clock = c.clock := by simp [Chip.edgeRunLeaves]
@[simp] theorem Chip.endEdgeTests_clock (c : Chip) (j : Nat) (l : Option Nat) : (c.endEdgeTests j l).clock = c.clock := by simp [Chip.endEdgeTests]

@[simp] theorem Chip.cutPortRuns_clock (c : Chip) (j : Nat) : (c.cutPortRuns j).clock = c.clock := by
  unfold Chip.cutPortRuns
  refine (Chip.each_clock _ _ fun d x => ?_).trans (Chip.each_clock _ _ fun d x => ?_)
  · refine (Chip.each_clock _ _ fun d x => ?_).trans (by simp)
    dsimp only
    split <;> simp
  · dsimp only
    split <;> simp

@[simp] theorem Chip.clearPortTx_clock (c : Chip) (j : Nat) : (c.clearPortTx j).clock = c.clock := by simp [Chip.clearPortTx]

@[simp] theorem Chip.recordComplete_clock (c : Chip) (j : Nat) (d0 d1 : List Nat) : (c.recordComplete j d0 d1).clock = c.clock := by
  unfold Chip.recordComplete
  dsimp only
  rw [Chip.onEdge_clock, Chip.count_clock, Chip.each_clock _ _ Chip.mcDiscard_clock]
  simp

@[simp] theorem Chip.recordIfBoth_clock (c : Chip) (j : Nat) : (c.recordIfBoth j).clock = c.clock := by
  unfold Chip.recordIfBoth
  split <;> simp

@[simp] theorem Chip.holdPortRx_clock (c : Chip) (j : Nat) : (c.holdPortRx j).clock = c.clock := by simp [Chip.holdPortRx]
@[simp] theorem Chip.portDown_clock (c : Chip) (j code : Nat) : (c.portDown j code).clock = c.clock := by simp [Chip.portDown]
@[simp] theorem Chip.portGoBack_clock (c : Chip) (j l : Nat) : (c.portGoBack j l).clock = c.clock := by simp [Chip.portGoBack]
@[simp] theorem Chip.applyMove_clock (c : Chip) (m : SpareMove) : (c.applyMove m).clock = c.clock := by simp [Chip.applyMove]
@[simp] theorem Chip.edgeStep_clock (c : Chip) : c.edgeStep.clock = c.clock := by simp [Chip.edgeStep]

@[simp] theorem Chip.calRequest_clock (c : Chip) (j l : Nat) : (c.calRequest j l).clock = c.clock := by
  unfold Chip.calRequest
  split <;> simp

@[simp] theorem Chip.calEndRequest_clock (c : Chip) (j l : Nat) : (c.calEndRequest j l).clock = c.clock := (rfl)
@[simp] theorem Chip.portsDark_clock (c : Chip) : c.portsDark.clock = c.clock := by simp [Chip.portsDark]
@[simp] theorem Chip.setSide_clock (c : Chip) (x : Side) (state partner : Nat) : (c.setSide x state partner).clock = c.clock := clock_of_besideFabric (c.setSide_besideFabric ..)
@[simp] theorem Chip.mapLanes_clock (c : Chip) (g : Nat → Nat → Nat → Nat → Nat) : (c.mapLanes g).clock = c.clock := (rfl)

end Sys2Proof.Machine
end

section
/-! The row clock in fences, sparing and calibration. -/

namespace Sys2Proof.Machine

@[simp] theorem Chip.stepRings_clock (c : Chip) (l : List RingKey) (mhz : Int) : (c.stepRings l mhz).clock = c.clock := clock_of_besideFabric (c.stepRings_besideFabric ..)
@[simp] theorem Chip.heaterStep_clock (c : Chip) (mhz : Int) : (c.heaterStep mhz).clock = c.clock := by simp [Chip.heaterStep]
@[simp] theorem Chip.trigger_clock (c : Chip) (s g bit : Nat) : (c.trigger s g bit).clock = c.clock := clock_of_besideFabric (c.trigger_besideFabric ..)
@[simp] theorem Chip.triggerTimed_clock (c : Chip) (s g bit : Nat) : (c.triggerTimed s g bit).clock = c.clock := by simp [Chip.triggerTimed]
@[simp] theorem Chip.ringsDone_clock (c : Chip) (l : List RingKey) : (c.ringsDone l).clock = c.clock := clock_of_besideFabric (c.ringsDone_besideFabric ..)
@[simp] theorem Chip.fenceAllRings_clock (c : Chip) (x : Side) : (c.fenceAllRings x).clock = c.clock := clock_of_besideFabric (c.fenceAllRings_besideFabric ..)
@[simp] theorem Chip.setDark_clock (c : Chip) (s g : Nat) (b : Bool) : (c.setDark s g b).clock = c.clock := (rfl)
@[simp] theorem Chip.showSwatch_clock (c : Chip) (w : Swatch) : (c.showSwatch w).clock = c.clock := by simp [Chip.showSwatch]
@[simp] theorem Chip.clearSwatch_clock (c : Chip) (w : Swatch) : (c.clearSwatch w).clock = c.clock := clock_of_besideFabric (c.clearSwatch_besideFabric ..)
@[simp] theorem Chip.portLaneReturns_clock (c : Chip) (l : Nat × Nat × Nat) : (c.portLaneReturns l).clock = c.clock := by simp [Chip.portLaneReturns]
@[simp] theorem Chip.portSwatchEnds_clock (c : Chip) (w : Swatch) : (c.portSwatchEnds w).clock = c.clock := by simp [Chip.portSwatchEnds]
@[simp] theorem Chip.swatchDrop_clock (c : Chip) (w : Swatch) : (c.swatchDrop w).clock = c.clock := clock_of_besideFabric (c.swatchDrop_besideFabric ..)
@[simp] theorem Chip.swatchAbandon_clock (c : Chip) (w : Swatch) : (c.swatchAbandon w).clock = c.clock := clock_of_besideFabric (c.swatchAbandon_besideFabric ..)
@[simp] theorem Chip.spareReason_clock (c : Chip) (x : Side) (code : Nat) : (c.spareReason x code).clock = c.clock := clock_of_besideFabric (c.spareReason_besideFabric ..)
@[simp] theorem Chip.unspared_clock (c : Chip) (b : Booking) : (c.unspared b).clock = c.clock := clock_of_besideFabric (c.unspared_besideFabric ..)
@[simp] theorem Chip.fenceSign_clock (c : Chip) (f : FenceSign) : (c.fenceSign f).clock = c.clock := clock_of_besideFabric (c.fenceSign_besideFabric ..)
@[simp] theorem Chip.holdSide_clock (c : Chip) (x : Side) : (c.holdSide x).clock = c.clock := by simp [Chip.holdSide]

@[simp] theorem Chip.passTriggers_clock (c : Chip) (x sp : Side) : (c.passTriggers x sp).clock = c.clock := by
  unfold Chip.passTriggers
  split <;> simp

@[simp] theorem Chip.clearLanes_clock (c : Chip) (lanes : List (Nat × Nat × Nat)) : (c.clearLanes lanes).clock = c.clock := by simp [Chip.clearLanes]
@[simp] theorem Chip.joinSpare_clock (c : Chip) (x sp : Side) (state k : Nat) : (c.joinSpare x sp state k).clock = c.clock := by simp [Chip.joinSpare]
@[simp] theorem Chip.endTest_clock (c : Chip) (x : Side) (spareState : Nat) : (c.endTest x spareState).clock = c.clock := by simp [Chip.endTest]

theorem Chip.takeSpare_clock {c d : Chip} {x : Side} {n : Nat} (h : c.takeSpare x = some (n, d)) : d.clock = c.clock := by
  unfold Chip.takeSpare at h
  split at h
  · cases h
    rfl
  · split at h
    · cases h
      simp
    · cases h

@[simp] theorem Chip.substitute_clock (c : Chip) (b : Booking) : (c.substitute b).clock = c.clock := by
  unfold Chip.substitute
  dsimp only
  split
  · simp
  · split
    · simp
    · next h => simp [Chip.takeSpare_clock h]

@[simp] theorem Chip.substResult_clock (c : Chip) (site status : Nat) : (c.substResult site status).clock = c.clock := (rfl)
@[simp] theorem Chip.testSubst_clock (c : Chip) (r : SubstReq) : (c.testSubst r).clock = c.clock := by simp [Chip.testSubst]
@[simp] theorem Chip.sparingStep_clock (c : Chip) : c.sparingStep.clock = c.clock := by simp [Chip.sparingStep]
@[simp] theorem Chip.watchBand_clock (c : Chip) (x : RingKey) : (c.watchBand x).clock = c.clock := by simp [Chip.watchBand]
@[simp] theorem Chip.feedForward_clock (c : Chip) (x : RingKey) (dsum : Int) : (c.feedForward x dsum).clock = c.clock := by simp [Chip.feedForward]
@[simp] theorem Chip.groupTriggers_clock (c : Chip) (s g : Nat) : (c.groupTriggers s g).clock = c.clock := by simp [Chip.groupTriggers]
@[simp] theorem Chip.groupRow_clock (c : Chip) (s g : Nat) (reading : Int) : (c.groupRow s g reading).clock = c.clock := by simp [Chip.groupRow]
@[simp] theorem Chip.beginSearch_clock (c : Chip) (l : List RingKey) : (c.beginSearch l).clock = c.clock := Chip.each_clock _ _ fun _ _ => rfl

@[simp] theorem Chip.searchStep_clock (c : Chip) : c.searchStep.clock = c.clock := by
  unfold Chip.searchStep
  split
  · rfl
  · refine Chip.each_clock _ _ fun d x => ?_
    split
    · rfl
    · dsimp only
      split <;> rfl

@[simp] theorem Chip.swatchBegin_clock (c : Chip) (w : Swatch) : (c.swatchBegin w).clock = c.clock := by
  unfold Chip.swatchBegin
  dsimp only
  split
  · simp
  · rw [Chip.showSwatch_clock, ite_clock, Chip.setLane_clock, ite_self, Chip.each_clock, Chip.each_clock]
    · rfl
    · exact fun _ _ => rfl
    · exact fun _ _ => rfl

@[simp] theorem Chip.swatchReturn_clock (c : Chip) (w : Swatch) : (c.swatchReturn w).clock = c.clock := by simp [Chip.swatchReturn]

@[simp] theorem Chip.swatchRow_clock (c : Chip) (w : Swatch) : (c.swatchRow w).clock = c.clock := by
  unfold Chip.swatchRow
  dsimp only
  split
  · simp
  split
  · simp
  split
  · simp
  split
  · rfl
  rw [Chip.each_clock]
  · rw [ite_clock, Chip.reissue_clock, ite_self]
    exact Chip.each_clock _ _ fun _ _ => rfl
  · intro d x
    split
    · rfl
    · split
      · split <;> rfl
      · rfl

@[simp] theorem Chip.calStep_clock (c : Chip) : c.calStep.clock = c.clock := by simp [Chip.calStep]

@[simp] theorem Chip.applyFields_clock (c : Chip) : c.applyFields.clock = c.clock := by
  unfold Chip.applyFields
  rw [Chip.each_clock, Chip.applyHeld_clock]
  exact fun _ _ => rfl

@[simp] theorem Chip.gaugeStep_clock (c : Chip) : c.gaugeStep.clock = c.clock := (rfl)

end Sys2Proof.Machine
end

section
/-! The row clock in the light supply, patterns and held fields. -/

namespace Sys2Proof.Machine

@[simp] theorem Chip.setComb_clock (c : Chip) (x state output : Nat) : (c.setComb x state output).clock = c.clock := (rfl)
@[simp] theorem Chip.dropOffset_clock (c : Chip) (x : Nat) : (c.dropOffset x).clock = c.clock := (rfl)
@[simp] theorem Chip.unlockComb_clock (c : Chip) (x : Nat) : (c.unlockComb x).clock = c.clock := (rfl)
@[simp] theorem Chip.combFenced_clock (c : Chip) (x : Nat) : (c.combFenced x).clock = c.clock := by simp [Chip.combFenced]
@[simp] theorem Chip.combDown_clock (c : Chip) (x : Nat) : (c.combDown x).clock = c.clock := by simp [Chip.combDown]
@[simp] theorem Chip.ctrlResult_clock (c : Chip) (status : Nat) : (c.ctrlResult status).clock = c.clock := (rfl)

@[simp] theorem Chip.beginChange_clock (c : Chip) : c.beginChange.clock = c.clock := by
  unfold Chip.beginChange
  dsimp only
  rw [Chip.each_clock _ _ Chip.swatchAbandon_clock, Chip.each_clock]
  · simp
  · intro d r
    simp

@[simp] theorem Chip.loseJobs_clock (c : Chip) : c.loseJobs.clock = c.clock := (rfl)
@[simp] theorem Chip.holdRings_clock (c : Chip) (p : RingKey → Bool) : (c.holdRings p).clock = c.clock := by simp [Chip.holdRings]
@[simp] theorem Chip.darkMode_clock (c : Chip) : c.darkMode.clock = c.clock := by simp [Chip.darkMode]

@[simp] theorem Chip.swapStep_clock (c : Chip) : c.swapStep.clock = c.clock := by
  unfold Chip.swapStep
  split
  · dsimp only
    split <;> simp
  · rfl

@[simp] theorem Chip.returnStep_clock (c : Chip) : c.returnStep.clock = c.clock := by
  unfold Chip.returnStep
  split <;> simp

@[simp] theorem Chip.spacingStep_clock (c : Chip) : c.spacingStep.clock = c.clock := by simp [Chip.spacingStep]
@[simp] theorem Chip.lineStep_clock (c : Chip) : c.lineStep.clock = c.clock := by simp [Chip.lineStep]
@[simp] theorem Chip.lightGroups_clock (c : Chip) : c.lightGroups.clock = c.clock := clock_of_besideFabric (lightGroups_besideFabric ..)
@[simp] theorem Chip.commitReturn_clock (c : Chip) (x : Nat) (failed : List FenceSign) : (c.commitReturn x failed).clock = c.clock := by simp [Chip.commitReturn]

@[simp] theorem Chip.commitStep_clock (c : Chip) : c.commitStep.clock = c.clock := by
  unfold Chip.commitStep
  split <;> simp

@[simp] theorem Chip.usedUpStep_clock (c : Chip) : c.usedUpStep.clock = c.clock := by simp [Chip.usedUpStep]
@[simp] theorem Chip.lightStep_clock (c : Chip) : c.lightStep.clock = c.clock := by simp [Chip.lightStep]

@[simp] theorem Chip.readFallbackLight_clock (c : Chip) (fb0 fb1 : Option Bool) : (c.readFallbackLight fb0 fb1).clock = c.clock := by
  cases fb0 <;> cases fb1 <;> simp [Chip.readFallbackLight]

@[simp] theorem Chip.injected_clock (c : Chip) (key : Nat × Nat × Nat) (i : Injection) (seq : Nat) : (c.injected key i seq).clock = c.clock := by simp [Chip.injected]
@[simp] theorem Chip.newCalendars_clock (c : Chip) : c.newCalendars.clock = c.clock := (rfl)
@[simp] theorem Chip.setRun_clock (c : Chip) (key : Nat × Nat × Nat) (r r' : PatRun) : (c.setRun key r r').clock = c.clock := by simp [Chip.setRun]
@[simp] theorem State.landBlocks_clock (s : State) (d : DstRun) (g : Nat) (blocks : List (List Nat)) : (s.landBlocks d g blocks).chip.clock = s.chip.clock := (rfl)
@[simp] theorem Chip.countPattern_clock (c : Chip) (key : Nat × Nat × Nat) (bits errs : Nat) : (c.countPattern key bits errs).clock = c.clock := by simp [Chip.countPattern]
@[simp] theorem Chip.netAckStep_clock (c : Chip) : c.netAckStep.clock = c.clock := by simp [Chip.netAckStep]
@[simp] theorem Chip.rawRun_clock (c : Chip) (key : Nat × Nat × Nat) (r : PatRun) (word bits : Nat) (got : Option (List Bool)) : (c.rawRun key r word bits got).clock = c.clock := by simp [Chip.rawRun]
@[simp] theorem Chip.startRun_clock (c : Chip) (key : Nat × Nat × Nat) (r : PatRun) (row : Nat) : (c.startRun key r row).clock = c.clock := by simp [Chip.startRun]
@[simp] theorem Chip.patStep_clock (c : Chip) (raw : List (Nat × List Bool)) : (c.patStep raw).clock = c.clock := by simp [Chip.patStep]
@[simp] theorem Chip.suppressAcks_clock (c : Chip) (key : Nat × Nat × Nat) (i : Injection) : (c.suppressAcks key i).clock = c.clock := by simp [Chip.suppressAcks]
@[simp] theorem Chip.linkStep_clock (c : Chip) : c.linkStep.clock = c.clock := by simp [Chip.linkStep]

end Sys2Proof.Machine
end

section
/-! The row clock in memory accesses and commands. -/

namespace Sys2Proof.Machine

@[simp] theorem Chip.rqCounts_clock (c : Chip) (site q : Nat) : (c.rqCounts site q).clock = c.clock := (rfl)

@[simp] theorem Chip.retirePc_clock (c : Chip) (n st q : Nat) : (c.retirePc n st q).clock = c.clock := by
  unfold Chip.retirePc
  split
  · rfl
  · rw [Chip.event_clock, Chip.frameCounts_clock, Chip.when_clock]
    · rfl
    · exact fun _ => rfl

@[simp] theorem Chip.eccLast_clock (c : Chip) (a kind : Nat) : (c.eccLast a kind).clock = c.clock := (rfl)
@[simp] theorem Chip.eccCorrected_clock (c : Chip) (a : Nat) : (c.eccCorrected a).clock = c.clock := by simp [Chip.eccCorrected]
@[simp] theorem Chip.eccUncorrected_clock (c : Chip) (a opcode : Nat) (tenants : List Nat) : (c.eccUncorrected a opcode tenants).clock = c.clock := by simp [Chip.eccUncorrected]
@[simp] theorem Chip.retirePage_clock (c : Chip) (die page : Nat) (opclass opcode : Nat) : (c.retirePage die page opclass opcode).clock = c.clock := by simp [Chip.retirePage]

@[simp] theorem Chip.eccFound_clock (c : Chip) (a ecc opcode tenant : Nat) : (c.eccFound a ecc opcode tenant).clock = c.clock := by
  unfold Chip.eccFound
  split
  · rfl
  · split <;> simp

@[simp] theorem Chip.arrivalDone_clock (c : Chip) (site plane k : Nat) (st : Stitch) : (c.arrivalDone site plane k st).clock = c.clock := by
  unfold Chip.arrivalDone
  split <;> simp

@[simp] theorem Chip.refuseOp_clock (c : Chip) (site : Nat) (st : Stitch) (status : Nat) : (c.refuseOp site st status).clock = c.clock := by simp [Chip.refuseOp]
@[simp] theorem Chip.landed_clock (c : Chip) (site : Nat) (st : Stitch) : (c.landed site st).clock = c.clock := by simp [Chip.landed]
@[simp] theorem Chip.deviceBlock_clock (c : Chip) (a : Nat) : (c.deviceBlock a).2.clock = c.clock := (rfl)
@[simp] theorem Chip.snoopAdd_clock (c : Chip) (a view tenant die : Nat) (mod : Bool) : (c.snoopAdd a view tenant die mod).clock = c.clock := (rfl)
@[simp] theorem Chip.snoopLeave_clock (c : Chip) (line die : Nat) (keep : Bool) : (c.snoopLeave line die keep).clock = c.clock := (rfl)
@[simp] theorem Chip.refuseHeld_clock (c : Chip) (site : Nat) (l : List Stitch) (status : Nat) : (c.refuseHeld site l status).clock = c.clock := by simp [Chip.refuseHeld]
@[simp] theorem State.landReduce_clock (s : State) (site place ecc : Nat) (key : Stitch) (contribs : List (List Nat)) (held : List Stitch) (n : Nat) (short : Bool) : (s.landReduce site place ecc key contribs held n short).chip.clock = s.chip.clock := by simp [State.landReduce]

@[simp] theorem State.doStitch_clock (s : State) (site ecc place : Nat) (st : Stitch) : (s.doStitch site ecc place st).chip.clock = s.chip.clock := by
  simp [State.doStitch, apply_ite Prod.snd]

@[simp] theorem State.tryAccess_clock (s : State) (site : Nat) (op : ParkedOp) : (s.tryAccess site op).chip.clock = s.chip.clock := by
  unfold State.tryAccess
  dsimp only
  split
  · rfl
  · split <;> simp
  · split <;> simp
  · split <;> simp
  · split
    · rfl
    · split <;> simp

@[simp] theorem State.landAt_clock (s : State) (site : Nat) (key : Stitch) (held : List Stitch) (op : Nat → ParkedOp) : (s.landAt site key held op).chip.clock = s.chip.clock := by
  unfold State.landAt
  split <;> simp

@[simp] theorem State.landPartial_clock (s : State) (p : Partial) (ecc : Nat) : (s.landPartial p ecc).chip.clock = s.chip.clock := by simp [State.landPartial]

theorem foldl_clock {α : Type} {f : State → α → State} (h : ∀ s a, (f s a).chip.clock = s.chip.clock) :
    ∀ (l : List α) (s : State), (l.foldl f s).chip.clock = s.chip.clock
  | [], _ => rfl
  | a :: l, s => (foldl_clock h l (f s a)).trans (h s a)

@[simp] theorem State.flushUnit_clock (s : State) (u ecc : Nat) (hit : Partial → Bool) : (s.flushUnit u ecc hit).chip.clock = s.chip.clock := by
  unfold State.flushUnit
  split
  · simp
  · exact foldl_clock (fun s p => s.landPartial_clock _ _) _ s

@[simp] theorem Chip.setPort_clock (c : Chip) (r state speed width flit kind : Nat) : (c.setPort r state speed width flit kind).clock = c.clock := (rfl)
@[simp] theorem Chip.frogDma_clock (c : Chip) (t : Nat) : (c.frogDma t).clock = c.clock := (rfl)
@[simp] theorem State.viewWrite_clock (s : State) (t a : Nat) (bytes : List Nat) : (s.viewWrite t a bytes).chip.clock = s.chip.clock := (rfl)
@[simp] theorem Chip.probe_clock (c : Chip) (o : Nat × List Nat × Option Nat) (share : Bool) : (c.probe o share).clock = c.clock := by simp [Chip.probe]
@[simp] theorem Chip.endCmd_clock (c : Chip) (x : Cmd) (status r0 r1 : Nat) : (c.endCmd x status r0 r1).clock = c.clock := (rfl)
@[simp] theorem Chip.coreCounts_clock (c : Chip) (d k : Nat) : (c.coreCounts d k).clock = c.clock := by simp [Chip.coreCounts]
@[simp] theorem Chip.dropBlocks_clock (c : Chip) (hit : Block → Bool) : (c.dropBlocks hit).clock = c.clock := by simp [Chip.dropBlocks]
@[simp] theorem Chip.setDescs_clock (c : Chip) (d k q : Nat) (l : List Desc) : (c.setDescs d k q l).clock = c.clock := (rfl)
@[simp] theorem Chip.abandonTags_clock (c : Chip) (site : Nat) (tags : List Nat) : (c.abandonTags site tags).clock = c.clock := by simp [Chip.abandonTags]
@[simp] theorem Chip.clearMxe_clock (c : Chip) (d k : Nat) : (c.clearMxe d k).clock = c.clock := (rfl)
@[simp] theorem Chip.setPartState_clock (c : Chip) (t st : Nat) : (c.setPartState t st).clock = c.clock := (rfl)
@[simp] theorem Chip.partCounts_clock (c : Chip) (t : Nat) : (c.partCounts t).clock = c.clock := (rfl)

end Sys2Proof.Machine
end

section
/-! The row clock in partitions and error reports. -/

namespace Sys2Proof.Machine

@[simp] theorem Chip.stopWork_clock (c : Chip) (t : Nat) : (c.stopWork t).clock = c.clock := by simp [Chip.stopWork]

@[simp] theorem Chip.frogCmds_clock (c : Chip) (t : Nat) (self : Option (CmdSrc × Nat)) : (c.frogCmds t self).clock = c.clock := by
  unfold Chip.frogCmds
  refine Chip.each_clock _ _ fun d x => ?_
  dsimp only
  split <;> simp

@[simp] theorem Chip.frogCheck_clock (c : Chip) (t : Nat) (timeUp : Bool) : (c.frogCheck t timeUp).clock = c.clock := by
  unfold Chip.frogCheck
  split
  · rfl
  · dsimp only
    split <;> simp

@[simp] theorem Chip.frogAcked_clock (c : Chip) (t id sender : Nat) : (c.frogAcked t id sender).clock = c.clock := by simp [Chip.frogAcked]
@[simp] theorem Chip.frogAnswer_clock (c : Chip) (t row : Nat) : (c.frogAnswer t row).clock = c.clock := by simp [Chip.frogAnswer]
@[simp] theorem Chip.sendFrogAcks_clock (c : Chip) : c.sendFrogAcks.clock = c.clock := by simp [Chip.sendFrogAcks]
@[simp] theorem Chip.frogXport_clock (c : Chip) (t : Nat) : (c.frogXport t).clock = c.clock := by simp [Chip.frogXport]

@[simp] theorem Chip.frogMems_clock (c : Chip) (t : Nat) : (c.frogMems t).clock = c.clock := by
  unfold Chip.frogMems
  refine (Chip.onMems_clock _ _).trans (Chip.each_clock _ _ fun d p => ?_)
  split <;> simp

@[simp] theorem Chip.digestNow_clock (c : Chip) (d : Nat) : (c.digestNow d).clock = c.clock := by
  unfold Chip.digestNow
  dsimp only
  split <;> simp

@[simp] theorem Chip.frogDigests_clock (c : Chip) (t : Nat) : (c.frogDigests t).clock = c.clock := by
  unfold Chip.frogDigests
  dsimp only
  rw [Chip.partCounts_clock, Chip.each_clock, Chip.each_clock, Chip.each_clock]
  · rfl
  · intro d x
    split
    · rw [ite_clock, Chip.endCmd_clock, ite_self]
    · rfl
  · exact fun _ _ => rfl
  · exact Chip.digestNow_clock

@[simp] theorem Chip.frogNow_clock (c : Chip) (t : Nat) : (c.frogNow t).clock = c.clock := by simp [Chip.frogNow]
@[simp] theorem Chip.frogStep_clock (c : Chip) : c.frogStep.clock = c.clock := by simp [Chip.frogStep]
@[simp] theorem Chip.parkStep_clock (c : Chip) (l : List Nat) : (c.parkStep l).clock = c.clock := by simp [Chip.parkStep]
@[simp] theorem State.ringReport_clock (s : State) (t : Nat) (r : Report) : (s.ringReport t r).chip.clock = s.chip.clock := by simp [State.ringReport]

@[simp] theorem State.deliverReport_clock (s : State) : s.deliverReport.chip.clock = s.chip.clock := by
  unfold State.deliverReport
  split
  · rfl
  split
  · rfl
  split
  · simp [State.onChip]
  · next rest _ _ _ =>
    rw [State.onChip_chip, ite_clock, Chip.send_clock, Chip.count_clock, ite_self]
    exact (foldl_clock (fun s t => s.ringReport_clock t _) _ _).trans rfl

end Sys2Proof.Machine
end

section
/-! The row clock in clocks and power. -/

namespace Sys2Proof.Machine

@[simp] theorem Chip.setRail_clock (c : Chip) (d mv : Nat) : (c.setRail d mv).clock = c.clock := by simp [Chip.setRail]
@[simp] theorem Chip.fencePll_clock (c : Chip) (r : Nat) : (c.fencePll r).clock = c.clock := by simp [Chip.fencePll]
@[simp] theorem Chip.slotPll_clock (c : Chip) (sl : Nat) : (c.slotPll sl).clock = c.clock := by simp [Chip.slotPll]
@[simp] theorem Chip.pllLost_clock (c : Chip) (r : Nat) : (c.pllLost r).clock = c.clock := by simp [Chip.pllLost]
@[simp] theorem Chip.toInt_clock (c : Chip) (d : Nat) : (c.toInt d).clock = c.clock := by simp [Chip.toInt]
@[simp] theorem Chip.fchgStatus_clock (c : Chip) (d st : Nat) : (c.fchgStatus d st).clock = c.clock := (rfl)
@[simp] theorem Chip.withdraw_clock (c : Chip) (d st : Nat) : (c.withdraw d st).clock = c.clock := by simp [Chip.withdraw]
@[simp] theorem Chip.fchgRefuse_clock (c : Chip) (d st : Nat) : (c.fchgRefuse d st).clock = c.clock := (rfl)
@[simp] theorem Chip.announce_clock (c : Chip) (d mult row : Nat) : (c.announce d mult row).clock = c.clock := by simp [Chip.announce]
@[simp] theorem Chip.leaveInt_clock (c : Chip) (d mult : Nat) : (c.leaveInt d mult).clock = c.clock := by simp [Chip.leaveInt]
@[simp] theorem Chip.fchgDone_clock (c : Chip) (f : FreqRun) : (c.fchgDone f).clock = c.clock := by simp [Chip.fchgDone]
@[simp] theorem Chip.fchgBegin_clock (c : Chip) (f : FreqChange) : (c.fchgBegin f).clock = c.clock := by simp [Chip.fchgBegin]

@[simp] theorem Chip.fchgStep_clock (c : Chip) : c.fchgStep.clock = c.clock := by
  unfold Chip.fchgStep
  dsimp only
  rw [Chip.each_clock _ _ Chip.fchgBegin_clock, Chip.each_clock]
  · simp
  · intro d x
    split <;> simp

@[simp] theorem Chip.gateRegions_clock (c : Chip) (l : List Nat) : (c.gateRegions l).clock = c.clock := by simp [Chip.gateRegions]

@[simp] theorem Chip.ungateRegions_clock (c : Chip) (l : List Nat) : (c.ungateRegions l).clock = c.clock := by
  unfold Chip.ungateRegions
  refine Chip.each_clock _ _ fun d r => ?_
  dsimp only
  split <;> simp

@[simp] theorem Chip.wake_clock (c : Chip) (l : List Nat) : (c.wake l).clock = c.clock := (rfl)

/-- A gate opens or closes: the clock stands where what shows it keeps it. -/
@[simp] theorem Chip.gateOne_clock (c : Chip) (en is may : Bool) (regions : List Nat) {set : Chip → Bool → Bool → Chip} (h : ∀ d a b, (set d a b).clock = d.clock) :
    (c.gateOne en is may regions set).clock = c.clock := by
  simp [Chip.gateOne, h]

@[simp] theorem Chip.gateStep_clock (c : Chip) : c.gateStep.clock = c.clock := by
  simp [Chip.gateStep]

@[simp] theorem Chip.managePoint_clock (c : Chip) (d p : Nat) : (c.managePoint d p).clock = c.clock := by simp [Chip.managePoint]

@[simp] theorem Chip.powerManager_clock (c : Chip) (t : Telemetry) : (c.powerManager t).clock = c.clock := by
  unfold Chip.powerManager
  dsimp only
  split
  · rfl
  rw [ite_clock, Chip.onPwr_clock, mk_clock, Chip.fields_clock, Chip.each_clock, Chip.each_clock, ite_self, Chip.each_clock, Chip.each_clock]
  · simp
  · intro d n
    split <;> simp
  · simp
  · simp

@[simp] theorem Chip.slackStep_clock (c : Chip) (t : Telemetry) : (c.slackStep t).clock = c.clock := by simp [Chip.slackStep]
@[simp] theorem Chip.publish_clock (c : Chip) (t : Telemetry) : (c.publish t).clock = c.clock := by simp [Chip.publish]
@[simp] theorem Chip.unmetStep_clock (c : Chip) (t : Telemetry) : (c.unmetStep t).clock = c.clock := by simp [Chip.unmetStep]
@[simp] theorem Chip.trimStep_clock (c : Chip) : c.trimStep.clock = c.clock := by simp [Chip.trimStep]
@[simp] theorem Chip.brakeStep_clock (c : Chip) : c.brakeStep.clock = c.clock := by simp [Chip.brakeStep]
@[simp] theorem Chip.powerStep_clock (c : Chip) (t : Telemetry) : (c.powerStep t).clock = c.clock := by simp [Chip.powerStep]

end Sys2Proof.Machine
end

section
/-! The row clock over a row boundary (R175, R294). -/

namespace Sys2Proof.Machine

@[simp] theorem Chip.askCal_clock (c : Chip) (j l : Nat) : (c.askCal j l).clock = c.clock := by simp [Chip.askCal]
@[simp] theorem Chip.edgeRunRow_clock (c : Chip) (r : PatRun) (got : Option (List Bool)) : (c.edgeRunRow r got).clock = c.clock := by simp [Chip.edgeRunRow]
@[simp] theorem Chip.edgePatStep_clock (c : Chip) (raw : List (Nat × List Bool)) : (c.edgePatStep raw).clock = c.clock := by simp [Chip.edgePatStep]
@[simp] theorem Chip.countSeconds_clock (c : Chip) : c.countSeconds.clock = c.clock := by simp [Chip.countSeconds]
@[simp] theorem Chip.boundaryStart_clock (c : Chip) : c.boundaryStart.clock = c.clock := by simp [Chip.boundaryStart]
@[simp] theorem Chip.boundaryLanes_clock (c : Chip) (raw edgeRaw : List (Nat × List Bool)) : (c.boundaryLanes raw edgeRaw).clock = c.clock := by simp [Chip.boundaryLanes]
@[simp] theorem Chip.boundaryClocks_clock (c : Chip) : c.boundaryClocks.clock = c.clock := by simp [Chip.boundaryClocks]
@[simp] theorem Chip.readings_clock (c : Chip) (l : List (Fin 24 × Fin 42 × BitVec 16)) : (c.readings l).clock = c.clock := by simp [Chip.readings]
@[simp] theorem Chip.forgetMarker_clock (c : Chip) : c.forgetMarker.clock = c.clock := (rfl)

/-- With no step of the row counter that waits, none is taken. -/
theorem Chip.timeStepNow_of_none {c : Chip} (h : c.time.step = none) : c.timeStepNow = c := by
  simp only [Chip.timeStepNow, h]

theorem State.combineOff_clock (s : State) (ecc : Nat) : (s.combineOff ecc).chip.clock = s.chip.clock := by
  unfold State.combineOff
  split
  · rfl
  · exact foldl_clock (fun s u => s.flushUnit_clock u ecc _) _ s

theorem State.deliverReports_clock (s : State) : s.deliverReports.chip.clock = s.chip.clock := foldl_clock (fun s _ => s.deliverReport_clock) _ s

/-- The clock at the start of the next row: the row counter goes on by one of 48 bits, the fabric cycles begin again (R294). -/
theorem Chip.nextRow_clock (c : Chip) : c.nextRow.clock = ((c.row + 1) % 2 ^ 48, 0, c.rowsRun, c.time.step) := rfl

theorem step_of_clock {c d : Chip} (h : d.clock = c.clock) : d.time.step = c.time.step := congrArg (fun x => x.2.2.2) h

/-- The time step is the one part of the boundary that moves the row counter, and none waits. -/
theorem Chip.boundaryFields_clock {c : Chip} (h : c.time.step = none) : c.boundaryFields.clock = c.clock := by
  have kept : (c.leaseStep.applyFields.gateStep.reachAgain.detourRecheck.netAckStep.assignStep.retryRuns).clock = c.clock := by simp
  unfold Chip.boundaryFields
  rwa [Chip.timeStepNow_of_none ((step_of_clock kept).trans h)]

/-- All that a boundary does beside the start of the new row keeps the row clock, where no time step waits. -/
theorem Chip.boundary_clock {c : Chip} (t : Telemetry) (temps : List (Fin 24 × Fin 42 × BitVec 16)) (raw edgeRaw : List (Nat × List Bool)) (h : c.time.step = none) :
    (c.boundary t temps raw edgeRaw).clock = c.nextRow.clock := by
  have started : ((c.nextRow.readFallbackLight t.fb0 t.fb1).boundaryStart.boundaryLanes raw edgeRaw).clock = c.nextRow.clock := by simp
  have waits : ((c.nextRow.readFallbackLight t.fb0 t.fb1).boundaryStart.boundaryLanes raw edgeRaw).time.step = none := (step_of_clock started).trans h
  unfold Chip.boundary
  rw [Chip.forgetMarker_clock, Chip.countSeconds_clock, Chip.sendNotices_clock, Chip.lostSkeinStep_clock, Chip.purgeDead_clock, Chip.gaugeStep_clock, Chip.readings_clock,
    Chip.powerStep_clock, Chip.boundaryClocks_clock, Chip.newCalendars_clock, Chip.boundaryFields_clock waits, started]

/-- A boundary of running rows, with all that follows it in the state (R175, R294). -/
theorem execRowBoundary_of_runs (t : Telemetry) (temps : List (Fin 24 × Fin 42 × BitVec 16)) (raw : List (Fin 24 × List Bool)) (edgeRaw : List (Fin 16 × List Bool)) (ecc : Fin 3)
    {s : State} (hrun : s.chip.rowsRun = true) (h : s.chip.time.step = none) :
    ∃ u, exec (.rowBoundary t temps raw edgeRaw ecc) s = .next u ∧ u.chip.clock = s.chip.nextRow.clock ∧ u.pending = s.pending := by
  refine ⟨((s.onChip (fun c => c.boundary t temps (raw.map (fun x => (x.1.val, x.2))) (edgeRaw.map (fun x => (x.1.val, x.2))))).combineOff ecc.val).deliverReports, ?_, ?_, ?_⟩
  · show execRowBoundary t temps raw edgeRaw ecc s = _
    rw [execRowBoundary, hrun]
    rfl
  · rw [State.deliverReports_clock, State.combineOff_clock]
    exact Chip.boundary_clock _ _ _ _ h
  · rw [State.deliverReports_pending, State.combineOff_pending]
    rfl

/-- Settles O41: of all that a boundary does only the new row and a time step that waits touch the row clock; every other step of it keeps it. -/
theorem rowBoundaryEndsTheRow : Obligations.RowBoundaryEndsTheRow := by
  refine ⟨fun tm temps raw edgeRaw ecc s hrun hstep => ?_, fun tm temps raw edgeRaw ecc s hstopped => ?_⟩
  · obtain ⟨u, hexec, hclock, hpending⟩ := execRowBoundary_of_runs tm temps raw edgeRaw ecc hrun hstep
    have hnew := hclock.trans s.chip.nextRow_clock
    exact completes_of_exec hexec ⟨congrArg (fun x => x.1) hnew, congrArg (fun x => x.2.1) hnew, (congrArg (fun x => x.2.2.1) hnew).trans hrun, hpending⟩
  · show execRowBoundary tm temps raw edgeRaw ecc s = _
    rw [execRowBoundary, hstopped]
    rfl

end Sys2Proof.Machine
end

section
/-! The torus (R225, R226): coordinates, offsets and distance. -/

namespace Sys2Proof.Machine

theorem dimOf_bounds (v : Nat) : 0 < dimOf v ∧ dimOf v ≤ 16 := by
  unfold dimOf
  omega

/-- Every dimension has from 1 to 16 nodes (R225). -/
theorem dim_bounds (c : Chip) (i : Nat) : 0 < c.dim i ∧ c.dim i ≤ 16 := by
  unfold Chip.dim Chip.dims
  split
  · exact dimOf_bounds _
  · split <;> exact dimOf_bounds _

/-- The offset along a dimension is the difference of the coordinates in the integers modulo the dimension. -/
theorem delta_eq_emod (c : Chip) (a b i : Nat) : ((c.delta a b i : Nat) : Int) = (((c.coord b i : Nat) : Int) - ((c.coord a i : Nat) : Int)) % ((c.dim i : Nat) : Int) := by
  obtain ⟨hpos, -⟩ := dim_bounds c i
  have hle : c.coord a i % c.dim i ≤ c.coord b i + c.dim i := (Nat.mod_lt _ hpos).le.trans (Nat.le_add_left ..)
  unfold Chip.delta
  rw [Int.natCast_mod, Nat.cast_sub hle, Nat.cast_add, Int.natCast_mod, add_sub_right_comm, Int.add_emod_right, Int.sub_emod, Int.emod_emod, ← Int.sub_emod]

theorem delta_lt (c : Chip) (a b i : Nat) : c.delta a b i < c.dim i := Nat.mod_lt _ (dim_bounds c i).1

/-- A dimension contributes at most half of its nodes. -/
theorem hops_le (c : Chip) (a b i : Nat) : min (c.delta a b i) (c.dim i - c.delta a b i) ≤ 8 := by
  obtain ⟨-, hdim⟩ := dim_bounds c i
  have hlt := delta_lt c a b i
  omega

theorem dist_eq_sum (c : Chip) (a b : Nat) :
    c.dist a b = min (c.delta a b 0) (c.dim 0 - c.delta a b 0) + min (c.delta a b 1) (c.dim 1 - c.delta a b 1) + min (c.delta a b 2) (c.dim 2 - c.delta a b 2) := by
  simp only [Chip.dist, List.range, List.range.loop, List.map_cons, List.map_nil, List.sum_cons, List.sum_nil, Nat.add_zero, Nat.add_assoc]

/-- Settles O54: the distance adds up what three dimensions of at most 16 nodes contribute, each at most 8 hops. -/
theorem torusCoordinatesAndDistance : Obligations.TorusCoordinatesAndDistance := by
  refine ⟨fun c n => ⟨rfl, rfl, rfl⟩, delta_eq_emod, fun c a b => ⟨dist_eq_sum c a b, ?_⟩⟩
  have hx := hops_le c a b 0
  have hy := hops_le c a b 1
  have hz := hops_le c a b 2
  rw [dist_eq_sum]
  omega

end Sys2Proof.Machine
end

section
/-! The machine after reset (R227, R294). -/

namespace Sys2Proof.Machine

/-- Settles O47: every part of the state has the value of its reset, and ROUTE.PORT_MAP that of its table. -/
theorem resetState : Obligations.ResetState := by
  refine ⟨reset_mem_wf, rfl, rfl, rfl, rfl, rfl, rfl, rfl, rfl, ?_, ?_⟩
  · decide +kernel
  · decide +kernel

end Sys2Proof.Machine
end

section
/-! Updates of the first element of a list that has a property. -/

namespace Sys2Proof.Machine

section
variable {α : Type} {p q : α → Bool} {f g : α → α} {x : α}

theorem updFirst_cons (y : α) (ys : List α) : updFirst p f (y :: ys) = if p y = true then f y :: ys else y :: updFirst p f ys := rfl

/-- Two updates are one when both find the same element and make the same of it. -/
theorem updFirst_congr (h : f x = g x) : ∀ {l : List α}, l.find? p = some x → l.find? q = some x → updFirst p f l = updFirst q g l
  | [], hp, _ => by simp at hp
  | y :: ys, hp, hq => by
    have px := List.find?_some hp
    have qx := List.find?_some hq
    rw [List.find?_cons] at hp hq
    rw [updFirst_cons, updFirst_cons]
    cases hpy : p y with
    | true =>
      obtain rfl : y = x := by simpa [hpy] using hp
      simp [qx, h]
    | false =>
      cases hqy : q y with
      | true =>
        obtain rfl : y = x := by simpa [hqy] using hq
        simp [hpy] at px
      | false => simpa using updFirst_congr h (by simpa [hpy] using hp) (by simpa [hqy] using hq)

/-- An update that leaves the property of the element is followed by another at the same place. -/
theorem updFirst_updFirst (hf : p (f x) = true) : ∀ {l : List α}, l.find? p = some x → updFirst p g (updFirst p f l) = updFirst p (fun y => g (f y)) l
  | [], _ => rfl
  | y :: ys, hp => by
    rw [List.find?_cons] at hp
    rw [updFirst_cons]
    cases hpy : p y with
    | true =>
      obtain rfl : y = x := by simpa [hpy] using hp
      simp [updFirst_cons, hf, hpy]
    | false => simpa [updFirst_cons, hpy] using updFirst_updFirst hf (by simpa [hpy] using hp)

theorem find?_updFirst (hf : p (f x) = true) : ∀ {l : List α}, l.find? p = some x → (updFirst p f l).find? p = some (f x)
  | [], hp => by simp at hp
  | y :: ys, hp => by
    rw [List.find?_cons] at hp
    rw [updFirst_cons]
    cases hpy : p y with
    | true =>
      obtain rfl : y = x := by simpa [hpy] using hp
      simp [hf]
    | false => simpa [hpy] using find?_updFirst hf (by simpa [hpy] using hp)

/-- The first element with a property is the first that equals itself. -/
theorem find?_self [BEq α] [LawfulBEq α] {l : List α} (h : l.find? p = some x) : l.find? (fun z => z == x) = some x := by
  rw [List.find?_eq_some_iff_append] at h ⊢
  obtain ⟨hx, before, after, hl, hbefore⟩ := h
  refine ⟨beq_self_eq_true x, before, after, hl, fun y hy => ?_⟩
  have hne : y ≠ x := fun e => by simpa [e, hx] using hbefore y hy
  simpa using hne

end

end Sys2Proof.Machine
end

section
/-! A fetched command that is ready (R420, R421, R330): what its start and its end leave. -/

namespace Sys2Proof.Machine

section
variable {s : State} {src : CmdSrc} {idx : BitVec 16} {op : Nat} {x : Cmd}

@[simp] theorem par_begun (x : Cmd) : x.begun.par = x.par := rfl
@[simp] theorem partition_begun (x : Cmd) : x.begun.partition = x.partition := rfl
@[simp] theorem src_begun (x : Cmd) : x.begun.src = x.src := rfl
@[simp] theorem idx_begun (x : Cmd) : x.begun.idx = x.idx := rfl
@[simp] theorem pkt_begun (x : Cmd) : x.begun.pkt = x.pkt := rfl

/-- A ready command is the first of its queue and number. -/
theorem src_of_cmdReady (h : cmdReady s.chip src idx op x) : x.src = src ∧ x.idx = idx.toNat := by
  simpa using List.find?_some h.1

theorem find_of_cmdReady (h : cmdReady s.chip src idx op x) : s.chip.cmd.cmds.find? (fun z => z.src == x.src && z.idx == x.idx) = some x := by
  obtain ⟨hsrc, hidx⟩ := src_of_cmdReady h
  rw [hsrc, hidx]
  exact h.1

/-- A ready command's effect begins: its checks are passed (R420, R421). -/
theorem begin_of_cmdReady (h : cmdReady s.chip src idx op x) (k : State → Cmd → State) : s.begin src idx.toNat op k = k (s.begun x) x.begun := by
  obtain ⟨hfound, hop, hstart, hcheck⟩ := h
  unfold State.begin
  rw [hfound]
  dsimp only
  rw [if_pos ⟨hop, hstart⟩, if_neg (not_not.mpr hcheck)]
  rfl

theorem qpDecode_onlyRegs (c : Chip) (x : Cmd) : c.qpDecode x = { c with regs := (c.qpDecode x).regs } := by
  unfold Chip.qpDecode
  split
  · split <;> rfl
  · rfl

/-- As a command begins, only registers and its own place among the fetched commands change. -/
theorem begun_chip (s : State) (x : Cmd) : (s.begun x).chip = { s.chip.setCmd x x.begun with regs := (s.chip.qpDecode x).regs } := by
  show (s.chip.qpDecode x).setCmd x x.begun = _
  rw [qpDecode_onlyRegs]
  rfl

theorem begun_cmds (h : cmdReady s.chip src idx op x) :
    (s.begun x).chip.cmd.cmds = updFirst (fun z => z.src == x.src && z.idx == x.idx) (fun _ => x.begun) s.chip.cmd.cmds := by
  rw [begun_chip]
  exact updFirst_congr rfl (find?_self (find_of_cmdReady h)) (find_of_cmdReady h)

/-- The command has started, and its effect has changed nothing among the fetched commands. -/
theorem cmdNow_begun (h : cmdReady s.chip src idx op x) {t : State} (ht : t.chip.cmd = (s.begun x).chip.cmd) : cmdNow s t x { x with started := true } := by
  unfold cmdNow
  rw [ht, begun_cmds h]
  rfl

/-- The command has started and taken a new form. -/
theorem cmdNow_setCmd (h : cmdReady s.chip src idx op x) {c : Chip} (hc : c.cmd = (s.begun x).chip.cmd) {x' : Cmd} {t : State} (ht : t.chip.cmd = (c.setCmd x.begun x').cmd) :
    cmdNow s t x x' := by
  have found := find_of_cmdReady h
  have started := find?_updFirst (f := fun _ => x.begun) (by simp) found
  unfold cmdNow
  rw [ht]
  show updFirst _ _ c.cmd.cmds = _
  rw [hc, begun_cmds h, updFirst_congr rfl (find?_self started) started]
  exact updFirst_updFirst (by simp) found

/-- The command has ended, and its effect has changed nothing among the fetched commands. -/
theorem cmdEnded_endCmd (h : cmdReady s.chip src idx op x) {c : Chip} (hc : c.cmd = (s.begun x).chip.cmd) {st r0 r1 : Nat} {t : State} (ht : t.chip.cmd = (c.endCmd x.begun st r0 r1).cmd) :
    cmdEnded s t x st r0 r1 := by
  unfold cmdEnded cmdNow
  rw [ht]
  show updFirst _ _ c.cmd.cmds = _
  rw [hc, begun_cmds h]
  exact updFirst_updFirst (x := x) (by simp) (find_of_cmdReady h)

/-- A command of another kind than the compute commands is of a management queue (R425), which no queue processor decodes. -/
theorem isMgmt_of_cmdReady (h : cmdReady s.chip src idx op x) (hop : isComputeOp op = false) : s.chip.isMgmt x.src = true := by
  obtain ⟨-, rfl, -, hcheck⟩ := h
  by_contra hq
  unfold Chip.precheck at hcheck
  simp [hq, hop, csBAD_OPCODE, stOK] at hcheck

theorem begun_of_mgmt (h : cmdReady s.chip src idx op x) (hop : isComputeOp op = false) : s.begun x = s.onChip (fun c => c.setCmd x x.begun) := by
  have undecoded : s.chip.qpDecode x = s.chip := by
    unfold Chip.qpDecode
    split
    · exact if_pos (Or.inl (isMgmt_of_cmdReady h hop))
    · rfl
  unfold State.begun
  rw [State.onChip, undecoded]
  rfl

end

end Sys2Proof.Machine
end

section
/-! Commands that are carried out at once (R421). -/

namespace Sys2Proof.Machine

@[simp] theorem word_setCmd (c : Chip) (x x' : Cmd) (o : Nat) : (c.setCmd x x').word o = c.word o := word_congr rfl o
@[simp] theorem rd_setCmd (c : Chip) (x x' : Cmd) (f : FRef) : (c.setCmd x x').rd f = c.rd f := rd_congr rfl f
@[simp] theorem on_setCmd (c : Chip) (x x' : Cmd) (f : FRef) : (c.setCmd x x').on f = c.on f := on_congr rfl f
@[simp] theorem word_endCmd (c : Chip) (x : Cmd) (st r0 r1 o : Nat) : (c.endCmd x st r0 r1).word o = c.word o := word_congr rfl o
@[simp] theorem rd_endCmd (c : Chip) (x : Cmd) (st r0 r1 : Nat) (f : FRef) : (c.endCmd x st r0 r1).rd f = c.rd f := rd_congr rfl f
@[simp] theorem on_endCmd (c : Chip) (x : Cmd) (st r0 r1 : Nat) (f : FRef) : (c.endCmd x st r0 r1).on f = c.on f := on_congr rfl f
@[simp] theorem endCmd_sync (c : Chip) (x : Cmd) (st r0 r1 : Nat) : (c.endCmd x st r0 r1).sync = c.sync := rfl
@[simp] theorem endCmd_comp (c : Chip) (x : Cmd) (st r0 r1 : Nat) : (c.endCmd x st r0 r1).comp = c.comp := rfl

section
variable {s : State} {src : CmdSrc} {idx : BitVec 16} {op : Nat} {x : Cmd} {i : Instr} {post : State → Prop}

/-- A ready command whose effect is a change of the package with a status and results. -/
theorem completes_atOnce {k : Chip → Cmd → Chip × Nat × Nat × Nat} {c : Chip} {st r0 r1 : Nat} (hexec : exec i s = .next (s.atOnce src idx.toNat op k)) (h : cmdReady s.chip src idx op x)
    (hk : k (s.begun x).chip x.begun = (c, st, r0, r1)) (hc : c.cmd = (s.begun x).chip.cmd)
    (hpost : ∀ t, cmdEnded s t x st r0 r1 → onlyChip s t → t.chip = c.endCmd x.begun st r0 r1 → post t) : completes i s post := by
  refine completes_of_exec (t := { s with chip := c.endCmd x.begun st r0 r1 }) ?_ (hpost _ (cmdEnded_endCmd h hc rfl) ⟨rfl, rfl⟩ rfl)
  rw [hexec, State.atOnce, begin_of_cmdReady h]
  dsimp only
  rw [hk]
  rfl

/-- The same for a command of a management queue, whose start leaves every register alone. -/
theorem completes_atOnce_mgmt {k : Chip → Cmd → Chip × Nat × Nat × Nat} {c : Chip} {st r0 r1 : Nat} (hexec : exec i s = .next (s.atOnce src idx.toNat op k)) (h : cmdReady s.chip src idx op x)
    (hop : isComputeOp op = false) (hk : k (s.chip.setCmd x x.begun) x.begun = (c, st, r0, r1)) (hc : c.cmd = (s.chip.setCmd x x.begun).cmd)
    (hpost : ∀ t, cmdEnded s t x st r0 r1 → onlyChip s t → t.chip = c.endCmd x.begun st r0 r1 → post t) : completes i s post := by
  have begun : (s.begun x).chip = s.chip.setCmd x x.begun := congrArg State.chip (begun_of_mgmt h hop)
  exact completes_atOnce hexec h (begun ▸ hk) (begun ▸ hc) hpost

end

/-- Of the registers, a command at once of a management queue changes those that its effect changes. -/
theorem regsSameBut_ended {s t : State} {c : Chip} {x x' y : Cmd} {st r0 r1 : Nat} {l : List Nat} (ht : t.chip = c.endCmd y st r0 r1) (h : regsSameBut (s.chip.setCmd x x') c l) :
    regsSameBut s.chip t.chip l := by
  intro o ho
  rw [ht, word_endCmd, h o ho, word_setCmd]

theorem partition_lt (x : Cmd) : x.partition < 16 := Nat.mod_lt _ (by decide)

theorem par_lt (x : Cmd) (i n : Nat) : x.par i n < 256 ^ n := leField_lt ..

end Sys2Proof.Machine
end

section
/-! SYNC_ALLOC and SYNC_FREE (R290). -/

namespace Sys2Proof.Machine

/-- The sync store with other objects. -/
def Chip.withObjs (c : Chip) (l : List (Nat × SyncObj)) : Chip := (c.onSync (fun y => { y with objs := l })).syncCounts

theorem withObjs_words (c : Chip) (l : List (Nat × SyncObj)) : regsSameBut c (c.withObjs l) [R.SYN_STATUS_WAITS.off, R.SYN_ALLOC_ASSIGNED.off] := by
  intro o ho
  obtain ⟨hstatus, halloc⟩ : o ≠ R.SYN_STATUS ∧ o ≠ R.SYN_ALLOC := by simpa using ho
  exact (word_wr_of_ne halloc).trans ((word_wr_of_ne hstatus).trans (word_wr_of_ne hstatus))

theorem completes_syncAlloc {s : State} {src : CmdSrc} {idx : BitVec 16} {x : Cmd} {a : Nat} (h : cmdReady s.chip src idx 0x43 x) (hkind : 1 ≤ x.par 8 1) (hkind' : x.par 8 1 ≤ 4)
    (hcount : 1 ≤ x.par 10 2) (hcount' : x.par 10 2 ≤ 4096) (hparam : (x.par 8 1 = 2 ∧ x.par 16 8 < 2 ^ 48) ∨ (x.par 8 1 = 3 ∧ x.par 16 8 < 2 ^ 32) ∨ x.par 16 8 = 0)
    (hfree : s.chip.freeRun (x.par 10 2) = some a) :
    completes (.syncAlloc src idx) s (fun t => cmdEnded s t x stOK a 0 ∧ t.chip.sync.objs = s.chip.sync.objs ++ (List.range (x.par 10 2)).map (fun i => (a + i, freshObj (x.par 8 1) x.partition (x.par 16 8)))
      ∧ regsSameBut s.chip t.chip [R.SYN_STATUS_WAITS.off, R.SYN_ALLOC_ASSIGNED.off] ∧ onlyChip s t) := by
  refine completes_atOnce_mgmt rfl h rfl
    (c := (s.chip.setCmd x x.begun).withObjs (s.chip.sync.objs ++ (List.range (x.par 10 2)).map (fun i => (a + i, freshObj (x.par 8 1) x.partition (x.par 16 8))))) ?_ rfl
    fun t ended only ht => ⟨ended, congrArg (fun c => c.sync.objs) ht, regsSameBut_ended ht (withObjs_words _ _), only⟩
  have free : (s.chip.setCmd x x.begun).freeRun (x.par 10 2) = some a := hfree
  dsimp only
  rw [par_begun, partition_begun, free]
  exact if_neg (by omega)

theorem completes_syncFree {s : State} {src : CmdSrc} {idx : BitVec 16} {x : Cmd} (h : cmdReady s.chip src idx 0x44 x) (hrange : x.par 8 2 + x.par 10 2 ≤ 65536)
    (hfree : (List.range (x.par 10 2)).all (fun i => s.chip.objFreeable x.partition (x.par 8 2 + i)) = true) :
    completes (.syncFree src idx) s (fun t => cmdEnded s t x stOK 0 0 ∧ t.chip.sync.objs = s.chip.sync.objs.filter (fun o => !(decide (x.par 8 2 ≤ o.1) && decide (o.1 < x.par 8 2 + x.par 10 2)))
      ∧ regsSameBut s.chip t.chip [R.SYN_STATUS_WAITS.off, R.SYN_ALLOC_ASSIGNED.off] ∧ onlyChip s t) := by
  refine completes_atOnce_mgmt rfl h rfl
    (c := (s.chip.setCmd x x.begun).withObjs (s.chip.sync.objs.filter (fun o => !(decide (x.par 8 2 ≤ o.1) && decide (o.1 < x.par 8 2 + x.par 10 2))))) ?_ rfl
    fun t ended only ht => ⟨ended, congrArg (fun c => c.sync.objs) ht, regsSameBut_ended ht (withObjs_words _ _), only⟩
  have free : (List.range (x.par 10 2)).all (fun i => (s.chip.setCmd x x.begun).objFreeable x.partition (x.par 8 2 + i)) = true := hfree
  dsimp only
  rw [par_begun, partition_begun, free]
  exact if_neg (by omega)

end Sys2Proof.Machine
end

section
/-! Reduction contexts (R264, R271, R279). -/

namespace Sys2Proof.Machine

/-- A field of a word sees only the 32 bits that a register holds. -/
theorem fget_mod_word {hi : Nat} (n lo : Nat) (h : hi < 32) : fget (n % 2 ^ 32) hi lo = fget n hi lo := by
  unfold fget
  by_cases hle : lo ≤ 31
  · have split : (2 : Nat) ^ 32 = 2 ^ lo * 2 ^ (32 - lo) := by rw [← pow_add]; congr 1; omega
    rw [split, Nat.mod_mul_right_div_self, Nat.mod_mod_of_dvd _ (pow_dvd_pow 2 (by omega))]
  · have empty : hi + 1 - lo = 0 := by omega
    rw [empty, pow_zero, Nat.mod_one, Nat.mod_one]

/-- A field of a register that takes a whole word. -/
theorem rd_setWord_self (c : Chip) {f : FRef} (n : Nat) (h : f.hi < 32) : (c.setWord f.off (BitVec.ofNat 32 n)).rd f = fget n f.hi f.lo := by
  rw [Chip.rd, word_setWord_self, BitVec.toNat_ofNat, fget_mod_word _ _ h]

/-- The four registers of a context. -/
def Chip.putCtx (c : Chip) (i a b r : Nat) : Chip :=
  (((c.setWord (R.RED_CTX_A i) (BitVec.ofNat 32 a)).setWord (R.RED_CTX_B i) (BitVec.ofNat 32 b)).setWord (R.RED_CTX_C i) (BitVec.ofNat 32 r)).setWord (R.RED_CTX_D i) 0

theorem putCtx_words (c : Chip) (i a b r : Nat) : (c.putCtx i a b r).word (R.RED_CTX_A i) = BitVec.ofNat 32 a ∧ (c.putCtx i a b r).word (R.RED_CTX_B i) = BitVec.ofNat 32 b
    ∧ (c.putCtx i a b r).word (R.RED_CTX_C i) = BitVec.ofNat 32 r ∧ (c.putCtx i a b r).word (R.RED_CTX_D i) = 0 := by
  unfold Chip.putCtx
  refine ⟨?_, ?_, ?_, ?_⟩ <;> simp (disch := simp) only [word_setWord_of_ne, word_setWord_self]

theorem putCtx_others (c : Chip) (i a b r : Nat) : regsSameBut c (c.putCtx i a b r) [R.RED_CTX_A i, R.RED_CTX_B i, R.RED_CTX_C i, R.RED_CTX_D i] := by
  intro o ho
  simp only [List.mem_cons, List.not_mem_nil, or_false, not_or] at ho
  obtain ⟨ha, hb, hc, hd⟩ := ho
  unfold Chip.putCtx
  rw [word_setWord_of_ne hd, word_setWord_of_ne hc, word_setWord_of_ne hb, word_setWord_of_ne ha]

/-- A field of the first register of a context. -/
theorem rd_putCtx (c : Chip) {i hi : Nat} (a b r lo : Nat) (h : hi < 32) : (c.putCtx i a b r).rd ⟨R.RED_CTX_A i, hi, lo⟩ = fget a hi lo := by
  rw [Chip.rd, (putCtx_words c i a b r).1, BitVec.toNat_ofNat, fget_mod_word _ _ h]

/-- RED.CTX_A as RED_CTX_ALLOC writes it: enabled, for its tenant. -/
def ctxWord (a t : Nat) : Nat := fset (fset (fset (fset a 31 31 1) 29 26 t) 17 16 0) 12 0 0

/-- RED.CTX_B as RED_CTX_ALLOC writes it: K of a deterministic context, zero for another. -/
def ctxOrder (a b : Nat) : Nat := fset (fset b 11 10 0) 9 0 (if bitOf a 30 = true then fget b 9 0 + 1 - 1 else 0)

theorem fget_ctxWord (a t : Nat) : fget (ctxWord a t) 31 31 = 1 ∧ fget (ctxWord a t) 30 30 = fget a 30 30 ∧ fget (ctxWord a t) 29 26 = t % 16 ∧ fget (ctxWord a t) 25 22 = fget a 25 22
    ∧ fget (ctxWord a t) 21 18 = fget a 21 18 := by
  unfold ctxWord
  refine ⟨?_, ?_, ?_, ?_, ?_⟩ <;> simp (disch := simp) only [fget_fset_above, fget_fset_below, fget_fset_self] <;> rfl

/-- A context that is enabled, by its fields. -/
theorem putCtx_reads (c : Chip) (i a b r : Nat) (x : Cmd) : (c.putCtx i (ctxWord a x.partition) b r).on (R.RED_CTX_A_EN i) = true
    ∧ (c.putCtx i (ctxWord a x.partition) b r).rd (R.RED_CTX_A_TENANT i) = x.partition ∧ (c.putCtx i (ctxWord a x.partition) b r).rd (R.RED_CTX_A_TYPE i) = a / 2 ^ 22 % 16
    ∧ (c.putCtx i (ctxWord a x.partition) b r).rd (R.RED_CTX_A_OP i) = a / 2 ^ 18 % 16 ∧ (c.putCtx i (ctxWord a x.partition) b r).on (R.RED_CTX_A_DET i) = bitOf a 30 := by
  obtain ⟨hen, hdet, htenant, htype, hop⟩ := fget_ctxWord a x.partition
  have field := fun {hi : Nat} (lo : Nat) (h : hi < 32) => rd_putCtx c (i := i) (ctxWord a x.partition) b r lo h
  refine ⟨?_, ?_, (field 22 (by decide)).trans htype, (field 18 (by decide)).trans hop, on_bit ((field 30 (by decide)).trans hdet)⟩
  · rw [Chip.on, field 31 (by decide), hen]
    rfl
  · rw [field 26 (by decide), htenant, Nat.mod_eq_of_lt (partition_lt x)]

/-- The context that RED_CTX_ALLOC takes: the one named, or the lowest free one (R279). -/
theorem find_freeCtx {c : Chip} {n i : Nat} (h : n = i ∧ i < 1024 ∧ c.on (R.RED_CTX_A_EN i) = false ∨ n = 0xFFFF ∧ (List.range 1024).find? (fun i => !c.on (R.RED_CTX_A_EN i)) = some i) :
    (List.range 1024).find? (fun i => if n = 0xFFFF then !c.on (R.RED_CTX_A_EN i) else i == n && !c.on (R.RED_CTX_A_EN i)) = some i := by
  rcases h with ⟨rfl, hlt, hoff⟩ | ⟨rfl, hfree⟩
  · rw [List.find?_range_eq_some]
    refine ⟨?_, List.mem_range.mpr hlt, fun j hj => ?_⟩
    · simp [hoff]
    · have named : n ≠ 0xFFFF := by omega
      have other : j ≠ n := by omega
      simp [named, other]
  · simpa using hfree

/-- RED_CTX_ALLOC with a good entry and a free context (R264, R271, R279). -/
theorem completes_redCtxAlloc {s : State} {src : CmdSrc} {idx : BitVec 16} {x : Cmd} {i : Nat} {post : State → Prop} (h : cmdReady s.chip src idx 0x48 x)
    (hfree : x.par 8 2 = i ∧ i < 1024 ∧ s.chip.on (R.RED_CTX_A_EN i) = false ∨ x.par 8 2 = 0xFFFF ∧ (List.range 1024).find? (fun i => !s.chip.on (R.RED_CTX_A_EN i)) = some i)
    (hallowed : redAllowed (x.par 12 4 / 2 ^ 22 % 16) (x.par 12 4 / 2 ^ 18 % 16) = true)
    (hdet : bitOf (x.par 12 4) 30 = true → 1 ≤ x.par 16 4 % 1024 ∧ x.par 20 4 / 2 ^ 16 = 0)
    (hfits : s.chip.reserveFits (x.par 20 4 / 2 ^ 16) (x.par 20 4 % 2 ^ 16 * (if bitOf (x.par 12 4) 30 = true then x.par 16 4 % 1024 + 1 else 1)) = true)
    (hpost : ∀ t, cmdEnded s t x stOK i 0 → onlyChip s t → t.chip.on (R.RED_CTX_A_EN i) = true → t.chip.rd (R.RED_CTX_A_TENANT i) = x.partition
      → t.chip.rd (R.RED_CTX_A_TYPE i) = x.par 12 4 / 2 ^ 22 % 16 → t.chip.rd (R.RED_CTX_A_OP i) = x.par 12 4 / 2 ^ 18 % 16 → t.chip.on (R.RED_CTX_A_DET i) = bitOf (x.par 12 4) 30
      → t.chip.word (R.RED_CTX_C i) = BitVec.ofNat 32 (x.par 20 4) → t.chip.word (R.RED_CTX_D i) = 0
      → regsSameBut s.chip t.chip [R.RED_CTX_A i, R.RED_CTX_B i, R.RED_CTX_C i, R.RED_CTX_D i] → post t) :
    completes (.redCtxAlloc src idx) s post := by
  have edge : fget (x.par 20 4) 31 16 = x.par 20 4 / 2 ^ 16 := Nat.mod_eq_of_lt (by have := par_lt x 20 4; omega)
  have mem : fget (x.par 20 4) 15 0 = x.par 20 4 % 2 ^ 16 := by simp [fget]
  have order : fget (x.par 16 4) 9 0 = x.par 16 4 % 1024 := by simp [fget]
  refine completes_atOnce_mgmt rfl h rfl (c := (s.chip.setCmd x x.begun).putCtx i (ctxWord (x.par 12 4) x.partition)
    (ctxOrder (x.par 12 4) (x.par 16 4)) (x.par 20 4)) (st := stOK) (r0 := i) (r1 := 0) ?_ rfl fun t ended only ht => ?_
  · have free := find_freeCtx (c := s.chip.setCmd x x.begun) hfree
    have good : ¬ ((1024 ≤ x.par 8 2 ∧ x.par 8 2 ≠ 0xFFFF) ∨ redAllowed (fget (x.par 12 4) 25 22) (fget (x.par 12 4) 21 18) = false
        ∨ (bitOf (x.par 12 4) 30 = true ∧ (fget (x.par 16 4) 9 0 + 1 < 2 ∨ fget (x.par 20 4) 31 16 ≠ 0))) := by
      rintro (named | forbidden | ⟨hbit, hbad⟩)
      · omega
      · exact absurd (hallowed.symm.trans forbidden) (by decide)
      · obtain ⟨hk, hedge⟩ := hdet hbit
        omega
    have fits : (s.chip.setCmd x x.begun).reserveFits (fget (x.par 20 4) 31 16) (fget (x.par 20 4) 15 0 * (if bitOf (x.par 12 4) 30 = true then fget (x.par 16 4) 9 0 + 1 else 1)) = true := by
      rw [edge, mem, order]
      exact hfits
    dsimp only
    rw [par_begun, partition_begun, if_neg good, free]
    dsimp only
    rw [if_neg (by rw [fits]; decide)]
    rfl
  · obtain ⟨-, -, hc, hd⟩ := putCtx_words (s.chip.setCmd x x.begun) i (ctxWord (x.par 12 4) x.partition) (ctxOrder (x.par 12 4) (x.par 16 4)) (x.par 20 4)
    obtain ⟨hen, htenant, htype, hop, hdet⟩ := putCtx_reads (s.chip.setCmd x x.begun) i (x.par 12 4) (ctxOrder (x.par 12 4) (x.par 16 4)) (x.par 20 4) x
    refine hpost t ended only ?_ ?_ ?_ ?_ ?_ ?_ ?_ (regsSameBut_ended ht (putCtx_others _ _ _ _ _)) <;> simpa only [ht, word_endCmd, rd_endCmd, on_endCmd]

theorem completes_redCtxFree {s : State} {src : CmdSrc} {idx : BitVec 16} {x : Cmd} {i : Nat} (h : cmdReady s.chip src idx 0x4A x) (howned : s.chip.ctxOwned (x.par 8 2) x.partition = true)
    (hidle : s.chip.ctxBusy (x.par 8 2) = false) (hi : x.par 8 2 = i) :
    completes (.redCtxFree src idx) s (fun t => cmdEnded s t x stOK 0 0 ∧ t.chip.word (R.RED_CTX_A i) = 0 ∧ t.chip.word (R.RED_CTX_B i) = 0 ∧ t.chip.word (R.RED_CTX_C i) = 0
      ∧ t.chip.word (R.RED_CTX_D i) = 0 ∧ regsSameBut s.chip t.chip [R.RED_CTX_A i, R.RED_CTX_B i, R.RED_CTX_C i, R.RED_CTX_D i] ∧ onlyChip s t) := by
  subst hi
  refine completes_atOnce_mgmt rfl h rfl (c := (s.chip.setCmd x x.begun).putCtx (x.par 8 2) 0 0 0) (st := stOK) (r0 := 0) (r1 := 0) ?_ rfl fun t ended only ht => ?_
  · have owned : (s.chip.setCmd x x.begun).ctxOwned (x.par 8 2) x.partition = true := howned
    have idle : (s.chip.setCmd x x.begun).ctxBusy (x.par 8 2) = false := hidle
    dsimp only
    rw [par_begun, partition_begun, owned, idle]
    rfl
  · obtain ⟨ha, hb, hc, hd⟩ := putCtx_words (s.chip.setCmd x x.begun) (x.par 8 2) 0 0 0
    refine ⟨ended, ?_, ?_, ?_, ?_, regsSameBut_ended ht (putCtx_others _ _ _ _ _), only⟩ <;> rw [ht, word_endCmd] <;> assumption

end Sys2Proof.Machine
end

section
/-! RED_CTX_FLUSH (R279). -/

namespace Sys2Proof.Machine

/-- The machine as RED_CTX_FLUSH begins its work: the command has started and is committed. -/
def State.flushBegun (s : State) (x : Cmd) : State := (s.begun x).onChip (fun c => c.setCmd x.begun { x.begun with committed := true })

theorem exec_redCtxFlush {s : State} {src : CmdSrc} {idx : BitVec 16} {x : Cmd} (h : cmdReady s.chip src idx 0x49 x) (howned : s.chip.ctxOwned (x.par 8 2) x.partition = true) :
    exec (.redCtxFlush src idx) s
      = .next (((List.range 12).foldl (fun s u => s.flushUnit u 0 (fun p => p.ctx == x.par 8 2)) (s.flushBegun x)).flushSlots 0 (fun d => d.ctx == x.par 8 2)) := by
  have owned : (s.begun x).chip.ctxOwned (x.begun.par 8 2) x.begun.partition = true := by rw [begun_of_mgmt h rfl]; exact howned
  show execRedCtxFlush src idx s = _
  rw [execRedCtxFlush, begin_of_cmdReady h]
  dsimp only
  rw [if_pos owned]
  rfl

/-- A context that holds nothing has neither partials nor slots. -/
theorem holds_of_ctxPending {c : Chip} {n : Nat} (h : c.ctxPending n = 0) : (∀ p ∈ c.red.partials, p.ctx ≠ n) ∧ ∀ d ∈ c.red.slots, d.ctx ≠ n := by
  obtain ⟨hpartials, hslots⟩ := Nat.add_eq_zero_iff.mp h
  simp only [List.length_eq_zero_iff, List.filter_eq_nil_iff, beq_iff_eq] at hpartials hslots
  exact ⟨hpartials, hslots⟩

theorem flushUnit_of_none {s : State} {hit : Partial → Bool} (u ecc : Nat) (h : ∀ p ∈ s.chip.red.partials, hit p = false) : s.flushUnit u ecc hit = s := by
  have none : s.chip.red.partials.filter (fun p => p.unit == u && hit p) = [] := List.filter_eq_nil_iff.mpr fun p hp => by simp [h p hp]
  unfold State.flushUnit Chip.flushEdge
  rw [none]
  split <;> rfl

theorem flushSlots_of_none {s : State} {hit : DetSlot → Bool} (ecc : Nat) (h : ∀ d ∈ s.chip.red.slots, hit d = false) : s.flushSlots ecc hit = s := by
  have none : s.chip.red.slots.filter hit = [] := List.filter_eq_nil_iff.mpr fun d hd => by simp [h d hd]
  unfold State.flushSlots
  rw [none]
  rfl

theorem foldl_fixed {α : Type} {f : State → α → State} {s : State} (h : ∀ a, f s a = s) : ∀ l : List α, l.foldl f s = s
  | [] => rfl
  | a :: l => by rw [List.foldl_cons, h a, foldl_fixed h l]

/-- Flushing a context that holds nothing changes nothing but the command. -/
theorem flush_of_empty {s : State} {n : Nat} (h : s.chip.ctxPending n = 0) :
    ((List.range 12).foldl (fun s u => s.flushUnit u 0 (fun p => p.ctx == n)) s).flushSlots 0 (fun d => d.ctx == n) = s := by
  obtain ⟨hpartials, hslots⟩ := holds_of_ctxPending h
  rw [foldl_fixed (fun u => flushUnit_of_none u 0 fun p hp => by simpa using hpartials p hp), flushSlots_of_none 0 fun d hd => by simpa using hslots d hd]

theorem completes_redCtxFlush_empty {s : State} {src : CmdSrc} {idx : BitVec 16} {x : Cmd} (h : cmdReady s.chip src idx 0x49 x) (howned : s.chip.ctxOwned (x.par 8 2) x.partition = true)
    (hempty : s.chip.ctxPending (x.par 8 2) = 0) :
    completes (.redCtxFlush src idx) s (fun t => cmdNow s t x { x with started := true, committed := true } ∧ regsSameBut s.chip t.chip [] ∧ onlyChip s t) := by
  have begun := begun_of_mgmt h rfl
  have empty : (s.flushBegun x).chip.ctxPending (x.par 8 2) = 0 := by
    rw [State.flushBegun, begun]
    exact hempty
  refine completes_of_exec (t := s.flushBegun x) (by rw [exec_redCtxFlush h howned, flush_of_empty empty]) ⟨cmdNow_setCmd h rfl rfl, ?_, rfl, rfl⟩
  rw [State.flushBegun, begun]
  exact fun _ _ => rfl

end Sys2Proof.Machine
end

section
/-! Multicast groups (R274, R275, R279). -/

namespace Sys2Proof.Machine

section
variable {s : State} {src : CmdSrc} {idx : BitVec 16} {x : Cmd} {g : Nat}

/-- The allocation bit and the owner of a group at its home. -/
def Chip.putGroup (c : Chip) (g v t : Nat) : Chip := (c.wr (mcAllocRef g) v).wr (mcOwnerRef g) t

theorem putGroup_reads (c : Chip) (g v t : Nat) : (c.putGroup g v t).rd (mcAllocRef g) = v % 2 ∧ (c.putGroup g v t).rd (mcOwnerRef g) = t % 16 := by
  have low := Nat.mod_lt g (show 0 < 4 by decide)
  have alloc : 8 * (g % 4) + 7 + 1 - (8 * (g % 4) + 7) = 1 := by omega
  have owner : 8 * (g % 4) + 3 + 1 - 8 * (g % 4) = 4 := by omega
  constructor
  · refine (rd_wr_apart _ _ ?_ ?_ (Or.inl ?_)).trans ((rd_wr_self _ _ le_rfl ?_).trans (congrArg (v % 2 ^ ·) alloc)) <;> simp only [mcAllocRef, mcOwnerRef] <;> omega
  · refine (rd_wr_self _ _ ?_ ?_).trans (congrArg (t % 2 ^ ·) owner) <;> simp only [mcOwnerRef] <;> omega

theorem putGroup_words (c : Chip) (g v t : Nat) : regsSameBut c (c.putGroup g v t) [R.RED_MC_OWN (g / 4)] := by
  intro o ho
  have other : o ≠ R.RED_MC_OWN (g / 4) := fun e => ho (List.mem_singleton.mpr e)
  exact (word_wr_of_ne other).trans (word_wr_of_ne other)

theorem completes_mcAlloc (h : cmdReady s.chip src idx 0x4B x) (hhome : s.chip.isHome = true) (hfree : (List.range 4096).find? (fun n => !s.chip.on (mcAllocRef n)) = some g) :
    completes (.mcAlloc src idx) s (fun t => cmdEnded s t x stOK g 0 ∧ t.chip.on (mcAllocRef g) = true ∧ t.chip.rd (mcOwnerRef g) = x.partition
      ∧ regsSameBut s.chip t.chip [R.RED_MC_OWN (g / 4)] ∧ onlyChip s t) := by
  refine completes_atOnce_mgmt rfl h rfl (c := (s.chip.setCmd x x.begun).putGroup g 1 x.partition) (st := stOK) (r0 := g) (r1 := 0) ?_ rfl fun t ended only ht => ?_
  · have home : (s.chip.setCmd x x.begun).isHome = true := hhome
    have free : (List.range 4096).find? (fun n => !(s.chip.setCmd x x.begun).on (mcAllocRef n)) = some g := by simpa only [on_setCmd] using hfree
    rw [partition_begun, home, free]
    rfl
  · obtain ⟨halloc, howner⟩ := putGroup_reads (s.chip.setCmd x x.begun) g 1 x.partition
    refine ⟨ended, ?_, ?_, regsSameBut_ended ht (putGroup_words _ _ _ _), only⟩
    · rw [ht, on_endCmd, Chip.on, halloc]
      rfl
    · rw [ht, rd_endCmd, howner, Nat.mod_eq_of_lt (partition_lt x)]

theorem completes_mcFree (h : cmdReady s.chip src idx 0x4C x) (hg : x.par 8 2 = g) (hlt : g < 4096) (hhome : s.chip.isHome = true) (halloc : s.chip.on (mcAllocRef g) = true)
    (howner : s.chip.rd (mcOwnerRef g) = x.partition) :
    completes (.mcFree src idx) s (fun t => cmdEnded s t x stOK 0 0 ∧ t.chip.on (mcAllocRef g) = false ∧ regsSameBut s.chip t.chip [R.RED_MC_OWN (g / 4)] ∧ onlyChip s t) := by
  subst hg
  refine completes_atOnce_mgmt rfl h rfl (c := (s.chip.setCmd x x.begun).putGroup (x.par 8 2) 0 0) (st := stOK) (r0 := 0) (r1 := 0) ?_ rfl fun t ended only ht => ?_
  · dsimp only
    rw [par_begun, partition_begun]
    refine if_neg ?_
    rintro (hbad | hbad | hbad | hbad)
    · omega
    · exact absurd (hhome.symm.trans hbad) (by decide)
    · exact absurd (halloc.symm.trans hbad) (by decide)
    · exact hbad howner
  · refine ⟨ended, ?_, regsSameBut_ended ht (putGroup_words _ _ _ _), only⟩
    rw [ht, on_endCmd, Chip.on, (putGroup_reads ..).1]
    rfl

/-- The two registers of a group's entry. -/
def Chip.putEntry (c : Chip) (g a b : Nat) : Chip := (c.setWord (R.RED_MC_A g) (BitVec.ofNat 32 a)).setWord (R.RED_MC_B g) (BitVec.ofNat 32 b)

theorem rd_putEntry (c : Chip) {g hi : Nat} (a b lo : Nat) (h : hi < 32) : (c.putEntry g a b).rd ⟨R.RED_MC_A g, hi, lo⟩ = fget a hi lo :=
  (rd_of_word (word_setWord_of_ne (by simp)) hi lo).trans (rd_setWord_self c (f := ⟨R.RED_MC_A g, hi, lo⟩) a h)

theorem putEntry_words (c : Chip) (g a b : Nat) : regsSameBut c (c.putEntry g a b) [R.RED_MC_A g, R.RED_MC_B g] := by
  intro o ho
  obtain ⟨ha, hb⟩ : o ≠ R.RED_MC_A g ∧ o ≠ R.RED_MC_B g := by simpa using ho
  exact (word_setWord_of_ne hb).trans (word_setWord_of_ne ha)

/-- RED.MC_A as MC_SET writes it: enabled, for its tenant. -/
def entryWord (a t : Nat) : Nat := fset (fset (fset a 31 31 1) 23 20 t) 19 16 0

theorem fget_entryWord (a t : Nat) : fget (entryWord a t) 31 31 = 1 ∧ fget (entryWord a t) 28 24 = fget a 28 24 ∧ fget (entryWord a t) 23 20 = t % 16
    ∧ fget (entryWord a t) 15 0 = fget a 15 0 := by
  unfold entryWord
  refine ⟨?_, ?_, ?_, ?_⟩ <;> simp (disch := simp) only [fget_fset_above, fget_fset_below, fget_fset_self] <;> rfl

theorem completes_mcSet (h : cmdReady s.chip src idx 0x4D x) (hg : x.par 8 2 = g) (hlt : g < 4096) (hgood : s.chip.mcBad (x.par 12 4) (x.par 16 4) = false)
    (hmine : s.chip.on (R.RED_MC_A_EN g) = false ∨ s.chip.rd (R.RED_MC_A_TENANT g) = x.partition) :
    completes (.mcSet src idx) s (fun t => cmdEnded s t x stOK 0 0 ∧ t.chip.on (R.RED_MC_A_EN g) = true ∧ t.chip.rd (R.RED_MC_A_TENANT g) = x.partition
      ∧ t.chip.rd (R.RED_MC_A_PARENT g) = x.par 12 4 / 2 ^ 24 % 32 ∧ t.chip.rd (R.RED_MC_A_CHILDREN g) = x.par 12 4 % 2 ^ 16 ∧ regsSameBut s.chip t.chip [R.RED_MC_A g, R.RED_MC_B g]
      ∧ onlyChip s t) := by
  subst hg
  refine completes_atOnce_mgmt rfl h rfl (c := (s.chip.setCmd x x.begun).putEntry (x.par 8 2) (entryWord (x.par 12 4) x.partition) (fset (x.par 16 4) 14 13 0)) (st := stOK) (r0 := 0)
    (r1 := 0) ?_ rfl fun t ended only ht => ?_
  · dsimp only
    rw [par_begun, partition_begun]
    refine if_neg ?_
    rintro (hbad | hbad | ⟨hon, hother⟩)
    · omega
    · exact absurd (hgood.symm.trans hbad) (by decide)
    · rcases hmine with hoff | htenant
      · exact absurd (hoff.symm.trans hon) (by decide)
      · exact hother htenant
  · obtain ⟨hen, hparent, htenant, hchildren⟩ := fget_entryWord (x.par 12 4) x.partition
    have field := fun {hi : Nat} (lo : Nat) (hhi : hi < 32) =>
      rd_putEntry (s.chip.setCmd x x.begun) (g := x.par 8 2) (entryWord (x.par 12 4) x.partition) (fset (x.par 16 4) 14 13 0) lo hhi
    refine ⟨ended, ?_, ?_, ?_, ?_, regsSameBut_ended ht (putEntry_words _ _ _ _), only⟩
    · rw [ht, on_endCmd, Chip.on, field 31 (by decide), hen]
      rfl
    · rw [ht, rd_endCmd, field 20 (by decide), htenant, Nat.mod_eq_of_lt (partition_lt x)]
    · rw [ht, rd_endCmd, field 24 (by decide), hparent]
      rfl
    · rw [ht, rd_endCmd, field 0 (by decide), hchildren, fget, pow_zero, Nat.div_one]

theorem completes_mcClear (h : cmdReady s.chip src idx 0x4E x) (hg : x.par 8 2 = g) (hlt : g < 4096)
    (hmine : s.chip.on (R.RED_MC_A_EN g) = false ∨ s.chip.rd (R.RED_MC_A_TENANT g) = x.partition) :
    completes (.mcClear src idx) s (fun t => cmdEnded s t x stOK 0 0 ∧ t.chip.on (R.RED_MC_A_EN g) = false ∧ regsSameBut s.chip t.chip [R.RED_MC_A g] ∧ onlyChip s t) := by
  subst hg
  refine completes_atOnce_mgmt rfl h rfl (c := (s.chip.setCmd x x.begun).wr (R.RED_MC_A_EN (x.par 8 2)) 0) (st := stOK) (r0 := 0) (r1 := 0) ?_ rfl fun t ended only ht => ?_
  · dsimp only
    rw [par_begun, partition_begun]
    refine if_neg ?_
    rintro (hbad | ⟨hon, hother⟩)
    · omega
    · rcases hmine with hoff | htenant
      · exact absurd (hoff.symm.trans hon) (by decide)
      · exact hother htenant
  · refine ⟨ended, ?_, regsSameBut_ended ht (fun _ ho => word_wr_of_ne fun e => ho (List.mem_singleton.mpr e)), only⟩
    rw [ht, on_endCmd, Chip.on, rd_wr_self _ _ (by simp) (by simp)]
    rfl

end

end Sys2Proof.Machine
end

section
/-! What a queue processor's decoding of a command leaves alone (R330): every register but its own. -/

namespace Sys2Proof.Machine

/-- An offset among the registers of the queue processors (CMP.QP_STATUS, CMP.QP_COUNT). -/
def qpWord (o : Nat) : Prop := 0x6000000 ≤ o ∧ o < 0xA000000 ∧ 0x100 ≤ o % 0x800000 ∧ o % 0x800000 < 0x140

section
variable {s : State} {x : Cmd}

@[simp] theorem begun_sync (s : State) (x : Cmd) : (s.begun x).chip.sync = s.chip.sync := by rw [begun_chip]; rfl
@[simp] theorem begun_comp (s : State) (x : Cmd) : (s.begun x).chip.comp = s.chip.comp := by rw [begun_chip]; rfl
@[simp] theorem begun_mems (s : State) (x : Cmd) : (s.begun x).chip.mems = s.chip.mems := by rw [begun_chip]; rfl
@[simp] theorem begun_row (s : State) (x : Cmd) : (s.begun x).chip.row = s.chip.row := by rw [begun_chip]; rfl
@[simp] theorem begun_mem (s : State) (x : Cmd) : (s.begun x).mem = s.mem := rfl
@[simp] theorem begun_pending (s : State) (x : Cmd) : (s.begun x).pending = s.pending := rfl

theorem word_qpDecode {c : Chip} {x : Cmd} {o : Nat} (h : ¬ qpWord o) : (c.qpDecode x).word o = c.word o := by
  unfold Chip.qpDecode
  split
  · next t q _ =>
    split
    · rfl
    · have hd : c.rd (R.PCU_CQ_CFG_DIE t.val q.val) < 8 := rd_lt ..
      have hn : c.rd (R.PCU_CQ_CFG_QP t.val q.val) < 4 := rd_lt ..
      have status : o ≠ R.CMP_QP_STATUS (c.rd (R.PCU_CQ_CFG_DIE t.val q.val)) (c.rd (R.PCU_CQ_CFG_QP t.val q.val)) := fun e => h (by unfold qpWord; simp only [e, R.CMP_QP_STATUS]; omega)
      have count : o ≠ R.CMP_QP_COUNT (c.rd (R.PCU_CQ_CFG_DIE t.val q.val)) (c.rd (R.PCU_CQ_CFG_QP t.val q.val)) := fun e => h (by unfold qpWord; simp only [e, R.CMP_QP_COUNT]; omega)
      exact (word_wr_of_ne count).trans ((word_wr_of_ne status).trans (word_wr_of_ne status))
  · rfl

theorem word_begun {o : Nat} (h : ¬ qpWord o) : (s.begun x).chip.word o = s.chip.word o := (word_setCmd ..).trans (word_qpDecode h)
theorem rd_begun {f : FRef} (h : ¬ qpWord f.off) : (s.begun x).chip.rd f = s.chip.rd f := rd_of_word (word_begun h) f.hi f.lo
theorem on_begun {f : FRef} (h : ¬ qpWord f.off) : (s.begun x).chip.on f = s.chip.on f := congrArg (· == 1) (rd_begun h)

/-! Which registers are none of theirs. -/

theorem not_qpWord_of_lt {o : Nat} (h : o < 0x6000000) : ¬ qpWord o := fun hq => by unfold qpWord at hq; omega
theorem not_qpWord_of_ge {o : Nat} (h : 0xA000000 ≤ o) : ¬ qpWord o := fun hq => by unfold qpWord at hq; omega

theorem not_qpWord_coreState (d k : Nat) : ¬ qpWord (R.CMP_CORE_STATE d k) := fun hq => by
  simp only [qpWord, R.CMP_CORE_STATE] at hq
  omega

theorem not_qpWord_coreEq (d k : Nat) {q : Nat} (hq : q < 8) : ¬ qpWord (R.CMP_CORE_EQ d k q) := fun hw => by
  simp only [qpWord, R.CMP_CORE_EQ] at hw
  omega

/-- The registers of the command queues. -/
theorem not_qpWord_queue (t : Fin 16) (q : Fin 64) : ¬ qpWord (R.PCU_CQ_CFG t.val q.val) := not_qpWord_of_lt (by grind)

end

/-! The view of a tenant (R389 to R392) reads none of them. -/

section
variable {c d : Chip} (hwords : ∀ o, ¬ qpWord o → d.word o = c.word o) (hmems : d.mems = c.mems)

include hwords in
theorem rd_ofQp {f : FRef} (h : ¬ qpWord f.off) : d.rd f = c.rd f := rd_of_word (hwords _ h) f.hi f.lo

include hwords in
theorem on_ofQp {f : FRef} (h : ¬ qpWord f.off) : d.on f = c.on f := congrArg (· == 1) (rd_ofQp hwords h)

include hwords hmems in
theorem translate_ofQp {t : Nat} (ht : t < 16) (a : Nat) : d.translate t a = c.translate t a := by
  unfold Chip.translate
  rw [hmems, rd_ofQp hwords (f := R.PART_HBM_PAGES_PAGES t) (not_qpWord_of_lt (by grind)), rd_ofQp hwords (f := R.PART_HBM_BASE_BASE t) (not_qpWord_of_lt (by grind))]

include hwords in
theorem sramOwner_ofQp {p : Nat} (hp : p < 0x1000) : d.sramOwner p = c.sramOwner p := by
  unfold Chip.sramOwner
  rw [hwords _ (not_qpWord_of_lt (by grind))]

include hwords in
theorem coreTenant_ofQp (e k : Nat) : d.coreTenant e k = c.coreTenant e k := by
  unfold Chip.coreTenant
  rw [on_ofQp hwords (not_qpWord_coreState _ _), rd_ofQp hwords (not_qpWord_coreState _ _)]

include hwords in
theorem coreUsable_ofQp (e k : Nat) : d.coreUsable e k = c.coreUsable e k := by
  unfold Chip.coreUsable
  rw [rd_ofQp hwords (not_qpWord_coreState _ _)]

include hwords in
theorem inXwin_ofQp {t : Nat} (ht : t < 16) (a : Nat) : d.inXwin t a = c.inXwin t a := by
  have window : ∀ r < 4, (d.on (R.PART_XWIN_BASE_EN t r) && decide (d.rd (R.PART_XWIN_BASE_BASE t r) ≤ a / 0x200000) && decide (a / 0x200000 ≤ d.rd (R.PART_XWIN_LIMIT_LIMIT t r)))
      = (c.on (R.PART_XWIN_BASE_EN t r) && decide (c.rd (R.PART_XWIN_BASE_BASE t r) ≤ a / 0x200000) && decide (a / 0x200000 ≤ c.rd (R.PART_XWIN_LIMIT_LIMIT t r))) := fun r hr => by
    rw [on_ofQp hwords (f := R.PART_XWIN_BASE_EN t r) (not_qpWord_of_lt (by grind)), rd_ofQp hwords (f := R.PART_XWIN_BASE_BASE t r) (not_qpWord_of_lt (by grind)),
      rd_ofQp hwords (f := R.PART_XWIN_LIMIT_LIMIT t r) (not_qpWord_of_lt (by grind))]
  show [0, 1, 2, 3].any _ = [0, 1, 2, 3].any _
  simp only [List.any_cons, List.any_nil, window 0 (by decide), window 1 (by decide), window 2 (by decide), window 3 (by decide)]

include hwords hmems in
theorem resolve_ofQp {t : Nat} (ht : t < 16) (a : Nat) : d.resolve t a = c.resolve t a := by
  have page : rangeOf a = .sram → (a - 0x10000000000) / 0x200000 < 0x1000 := fun h => by
    unfold rangeOf at h
    split at h <;> [cases h; skip]
    split at h
    · omega
    · repeat' split at h
      all_goals cases h
  unfold Chip.resolve
  split
  · exact translate_ofQp hwords hmems ht a
  · next h => rw [sramOwner_ofQp hwords (page h)]
  · simp only [coreTenant_ofQp hwords, coreUsable_ofQp hwords]
  · rw [inXwin_ofQp hwords ht]
  · rw [inXwin_ofQp hwords ht]
  · rfl
  · rfl

include hwords hmems in
theorem placeGood_ofQp (a : Nat) : d.placeGood a = c.placeGood a := by
  have retired : d.machineRetired a = c.machineRetired a := by
    unfold Chip.machineRetired Chip.pcRetired
    rw [rd_ofQp hwords (f := R.MEM_PC_RETIRED_LO_Q _ _) (not_qpWord_of_ge (by grind)), rd_ofQp hwords (f := R.MEM_PC_RETIRED_HI_Q _ _) (not_qpWord_of_ge (by grind))]
  unfold Chip.placeGood
  rw [retired, hmems]

include hwords in
theorem deviceStatus_ofQp (a : Nat) : d.deviceStatus a = c.deviceStatus a := by
  have port : ∀ r, d.rd (R.HIO_PORT_STATUS_STATE r) = c.rd (R.HIO_PORT_STATUS_STATE r) ∧ d.rd (R.HIO_PORT_STATUS_KIND r) = c.rd (R.HIO_PORT_STATUS_KIND r) := fun r =>
    ⟨rd_ofQp hwords (not_qpWord_of_ge (by grind)), rd_ofQp hwords (not_qpWord_of_ge (by grind))⟩
  have ways : d.slotWays (slotOf a) = c.slotWays (slotOf a) := by
    unfold Chip.slotWays
    rw [rd_ofQp hwords (f := R.HIO_SLOT_CFG_BIFUR _) (not_qpWord_of_ge (by grind))]
  unfold Chip.deviceStatus
  simp only [port, ways]

include hwords hmems in
theorem viewPlaces_ofQp {t : Nat} (ht : t < 16) (a n : Nat) : d.viewPlaces t a n = c.viewPlaces t a n := by
  simp only [Chip.viewPlaces, resolve_ofQp hwords hmems ht]

include hwords hmems in
theorem viewStatus_ofQp {t : Nat} (ht : t < 16) (a n : Nat) : d.viewStatus t a n = c.viewStatus t a n := by
  simp only [Chip.viewStatus, viewPlaces_ofQp hwords hmems ht, deviceStatus_ofQp hwords, placeGood_ofQp hwords hmems]

include hwords hmems in
theorem recallFrom_ofQp (a : Nat) (write : Bool) (self : Option Nat) : d.recallFrom a write self = c.recallFrom a write self := by
  have cacheable : d.cacheable a = c.cacheable a := by
    unfold Chip.cacheable
    rw [on_ofQp hwords (f := R.HIO_SLOT_CFG_CXL_CACHE _) (not_qpWord_of_ge (by grind))]
  unfold Chip.recallFrom Chip.snoopAt
  rw [cacheable, hmems]

include hwords hmems in
theorem viewObstacle_ofQp {t : Nat} (ht : t < 16) (a n : Nat) (write : Bool) : d.viewObstacle t a n write = c.viewObstacle t a n write := by
  simp only [Chip.viewObstacle, Chip.obstacle, viewPlaces_ofQp hwords hmems ht, recallFrom_ofQp hwords hmems, hmems]

end

/-- As a command begins, its tenant's view is what it was. -/
theorem view_begun (s : State) (x : Cmd) (a n : Nat) : (s.begun x).chip.viewStatus x.partition a n = s.chip.viewStatus x.partition a n
    ∧ (s.begun x).chip.viewObstacle x.partition a n false = s.chip.viewObstacle x.partition a n false ∧ (s.begun x).viewBytes x.partition a n = s.viewBytes x.partition a n := by
  have words : ∀ o, ¬ qpWord o → (s.begun x).chip.word o = s.chip.word o := fun o h => word_begun h
  have mems := begun_mems s x
  refine ⟨viewStatus_ofQp words mems (partition_lt x) a n, viewObstacle_ofQp words mems (partition_lt x) a n false, ?_⟩
  unfold State.viewBytes
  rw [viewPlaces_ofQp words mems (partition_lt x)]
  rfl

end Sys2Proof.Machine
end

section
/-! WAIT and SIGNAL (R285, R286, R426). -/

namespace Sys2Proof.Machine

/-- A wait whose condition holds is answered at once (R286). -/
theorem wait_of_holds {c : Chip} {n cond value : Nat} {o : SyncObj} (who : Waiter) (limit : Nat) (hobj : c.obj n = some o) (hcond : cond ≤ 4) (hholds : o.holds cond value = some true) :
    c.wait n who cond value limit = c.answerWait who srDONE (some o) (some o) := by
  unfold Chip.wait Chip.waitFrom
  rw [hobj]
  dsimp only
  rw [if_neg (by omega), hholds]
  rfl

/-- A wait whose condition does not hold is held while the table has room (R286). -/
theorem wait_of_held {c : Chip} {n cond value : Nat} {o : SyncObj} (who : Waiter) (limit : Nat) (hobj : c.obj n = some o) (hcond : cond ≤ 4) (hholds : o.holds cond value = some false)
    (hroom : c.sync.waits.length < 32768) :
    c.wait n who cond value limit = (c.onSync (fun y => { y with waits := y.waits ++ [⟨n, who, cond, value, c.row, c.waitLimit limit, none⟩] })).syncCounts := by
  unfold Chip.wait Chip.waitFrom
  rw [hobj]
  dsimp only
  rw [if_neg (by omega), hholds]
  exact if_neg (by omega)

section
variable {s : State} {tn : Fin 16} {q : Fin 64} {idx : BitVec 16} {x : Cmd} {o : SyncObj}

theorem obj_begun (s : State) (x : Cmd) (n : Nat) : (s.begun x).chip.obj n = s.chip.obj n := by rw [Chip.obj, begun_sync, Chip.obj]

theorem waitLimit_begun (s : State) (x : Cmd) (n : Nat) : (s.begun x).chip.waitLimit n = s.chip.waitLimit n := by
  unfold Chip.waitLimit Chip.rdPos
  rw [rd_begun (not_qpWord_of_lt (by decide))]

/-- A ready WAIT on an object of its tenant is a wait of its queue. -/
theorem exec_wait (h : cmdReady s.chip (.queue tn q) idx 3 x) (hobj : s.chip.obj (x.par 8 2) = some o) (htenant : o.tenant = x.partition) :
    exec (.wait (.queue tn q) idx) s = .next ((s.begun x).onChip (fun c => c.wait (x.par 8 2) (.queue tn.val q.val) (x.par 10 1) (x.par 16 6) (x.par 24 4 % 2 ^ 20))) := by
  show execWait (.queue tn q) idx s = _
  rw [execWait, begin_of_cmdReady h, State.onChip, State.onChip, par_begun, partition_begun, obj_begun, hobj]
  dsimp only
  rw [if_pos htenant]

theorem completes_wait_holds (h : cmdReady s.chip (.queue tn q) idx 3 x) (hobj : s.chip.obj (x.par 8 2) = some o) (htenant : o.tenant = x.partition) (hcond : x.par 10 1 ≤ 4)
    (hholds : o.holds (x.par 10 1) (x.par 16 6) = some true) :
    completes (.wait (.queue tn q) idx) s (fun t => t.chip.sync.answered = s.chip.sync.answered ++ [((tn.val, q.val), (srDONE, o.count))] ∧ t.chip.sync.objs = s.chip.sync.objs
      ∧ cmdNow s t x { x with started := true } ∧ onlyChip s t) := by
  have answered := wait_of_holds (.queue tn.val q.val) (x.par 24 4 % 2 ^ 20) ((obj_begun s x _).trans hobj) hcond hholds
  refine completes_of_exec (exec_wait h hobj htenant) ⟨?_, ?_, cmdNow_begun h ?_, rfl, rfl⟩ <;> rw [State.onChip_chip, answered]
  · exact congrArg (fun y => y.answered ++ _) (begun_sync s x)
  · exact congrArg (fun y => y.objs) (begun_sync s x)
  · rfl

theorem completes_wait_held (h : cmdReady s.chip (.queue tn q) idx 3 x) (hobj : s.chip.obj (x.par 8 2) = some o) (htenant : o.tenant = x.partition) (hcond : x.par 10 1 ≤ 4)
    (hholds : o.holds (x.par 10 1) (x.par 16 6) = some false) (hroom : s.chip.sync.waits.length < 32768) :
    completes (.wait (.queue tn q) idx) s (fun t => t.chip.sync.waits = s.chip.sync.waits ++ [⟨x.par 8 2, .queue tn.val q.val, x.par 10 1, x.par 16 6, s.chip.row, s.chip.waitLimit (x.par 24 4 % 2 ^ 20), none⟩]
      ∧ t.chip.sync.objs = s.chip.sync.objs ∧ cmdNow s t x { x with started := true } ∧ onlyChip s t) := by
  have held := wait_of_held (.queue tn.val q.val) (x.par 24 4 % 2 ^ 20) ((obj_begun s x _).trans hobj) hcond hholds (by rwa [begun_sync])
  rw [begun_row, waitLimit_begun] at held
  refine completes_of_exec (exec_wait h hobj htenant) ⟨?_, ?_, cmdNow_begun h ?_, rfl, rfl⟩ <;> rw [State.onChip_chip, held]
  · exact congrArg (fun y => y.waits ++ _) (begun_sync s x)
  · exact congrArg (fun y => y.objs) (begun_sync s x)
  · rfl

end

/-! An object that takes a new value. -/

/-- The fetched commands, and the objects of the sync store. -/
def Chip.cmdsAndObjs (c : Chip) : Commands × List (Nat × SyncObj) := (c.cmd, c.sync.objs)

theorem answerWait_cmdsAndObjs (c : Chip) (who : Waiter) (code : Nat) (before after : Option SyncObj) : (c.answerWait who code before after).cmdsAndObjs = c.cmdsAndObjs := by
  cases who with
  | stitch st => exact congrArg (fun y : Chip × (Nat → Word) => y.1.cmdsAndObjs) (c.send_besideFabric ..)
  | queue t q => rfl

theorem trigger183_cmdsAndObjs (c : Chip) (t : Nat) : (c.trigger183 t).cmdsAndObjs = c.cmdsAndObjs := by
  unfold Chip.trigger183
  split
  · rfl
  · split
    · rfl
    · dsimp only
      split <;> rfl

theorem triggerAll_cmdsAndObjs (c : Chip) (p : ArmedPattern → Bool) : (c.triggerAll p).cmdsAndObjs = c.cmdsAndObjs :=
  each_keeps Chip.cmdsAndObjs (fun a _ c => by
    split
    · exact trigger183_cmdsAndObjs c a.tenant
    · rfl) c

/-- An object that takes a new value, whoever waited on it (R286). -/
theorem setObj_cmdsAndObjs (c : Chip) (n : Nat) (o : SyncObj) : (c.setObj n o).cmdsAndObjs = (c.cmd, putKey n o c.sync.objs) := by
  unfold Chip.setObj
  exact (triggerAll_cmdsAndObjs ..).trans (each_keeps Chip.cmdsAndObjs (fun w _ c => answerWait_cmdsAndObjs c ..) _)

/-- The object of a number takes a value; nothing happens where it had that value. -/
def Chip.signalled (c : Chip) (n : Nat) (o o' : SyncObj) : Chip := if o' = o then c else c.setObj n o'

theorem signalled_cmd (c : Chip) (n : Nat) (o o' : SyncObj) : (c.signalled n o o').cmd = c.cmd := by
  unfold Chip.signalled
  split
  · rfl
  · exact congrArg Prod.fst (setObj_cmdsAndObjs c n o')

theorem obj_signalled {c : Chip} {n : Nat} {o : SyncObj} (o' : SyncObj) (h : c.obj n = some o) : (c.signalled n o o').obj n = some o' := by
  unfold Chip.signalled
  split
  · next same => rw [same, h]
  · rw [Chip.obj, show (c.setObj n o').sync.objs = putKey n o' c.sync.objs from congrArg Prod.snd (setObj_cmdsAndObjs c n o'), getKey_putKey_self]

section
variable {s : State} {tn : Fin 16} {q : Fin 64} {idx : BitVec 16} {x : Cmd} {o : SyncObj} {post : State → Prop}

/-- A ready SIGNAL on an object of its tenant (R285). -/
theorem completes_signal (h : cmdReady s.chip (.queue tn q) idx 4 x) (hobj : s.chip.obj (x.par 8 2) = some o) (htenant : o.tenant = x.partition) (hfn : x.par 10 1 ∈ [1, 2, 8])
    (hpost : ∀ t, cmdEnded s t x stOK (signalObj o (x.par 10 1) (x.par 16 6)).1 ((signalObj o (x.par 10 1) (x.par 16 6)).2.count % 2 ^ 32) → onlyChip s t
      → t.chip.obj (x.par 8 2) = some (signalObj o (x.par 10 1) (x.par 16 6)).2 → post t) : completes (.signal (.queue tn q) idx) s post := by
  have begun := (obj_begun s x (x.par 8 2)).trans hobj
  have known : ¬ (x.par 10 1 ≠ 1 ∧ x.par 10 1 ≠ 2 ∧ x.par 10 1 ≠ 8) := by
    simp only [List.mem_cons, List.not_mem_nil, or_false] at hfn
    omega
  refine completes_atOnce rfl h (c := (s.begun x).chip.signalled (x.par 8 2) o (signalObj o (x.par 10 1) (x.par 16 6)).2) (st := stOK) (r0 := (signalObj o (x.par 10 1) (x.par 16 6)).1)
    (r1 := (signalObj o (x.par 10 1) (x.par 16 6)).2.count % 2 ^ 32) ?_ (signalled_cmd ..) fun t ended only ht => hpost t ended only ?_
  · dsimp only
    rw [par_begun, partition_begun, if_neg known, begun]
    dsimp only
    rw [if_pos htenant]
    rfl
  · rw [ht]
    exact obj_signalled _ begun

/-- ADD on a counter (R285). -/
theorem signalObj_add {o : SyncObj} (h : o.kind = 1) (v : Nat) : signalObj o 1 v = (srDONE, { o with count := (o.count + v) % 2 ^ 48 }) := by
  simp [signalObj, SyncObj.reeval, h]

theorem completes_signal_add (h : cmdReady s.chip (.queue tn q) idx 4 x) (hobjs : s.chip.sync.objs = [(x.par 8 2, o)]) (htenant : o.tenant = x.partition) (hkind : o.kind = 1)
    (hfn : x.par 10 1 = 1) :
    completes (.signal (.queue tn q) idx) s (fun t => (t.chip.obj (x.par 8 2)).map (fun y => y.count) = some ((o.count + x.par 16 6) % 2 ^ 48)
      ∧ cmdEnded s t x stOK srDONE ((o.count + x.par 16 6) % 2 ^ 48 % 2 ^ 32) ∧ onlyChip s t) := by
  have hobj : s.chip.obj (x.par 8 2) = some o := by rw [Chip.obj, hobjs, getKey, if_pos rfl]
  refine completes_signal h hobj htenant (by simp [hfn]) fun t ended only hafter => ?_
  rw [hfn, signalObj_add hkind] at ended hafter
  exact ⟨by rw [hafter]; rfl, ended, only⟩

end

end Sys2Proof.Machine
end

section
/-! DMA (R330, R426): a descriptor on queue 7 of its core. -/

namespace Sys2Proof.Machine

section
variable (s : State) (x : Cmd)

/-! What the compute commands read of the registers is none of the queue processors'. -/

theorem cmdDie_begun (tn : Fin 16) (q : Fin 64) : (s.begun x).chip.cmdDie (.queue tn q) = s.chip.cmdDie (.queue tn q) := rd_begun (not_qpWord_queue tn q)

theorem coreOf_begun (d k t : Nat) : (s.begun x).chip.coreOf d k t = s.chip.coreOf d k t := by
  unfold Chip.coreOf Chip.coreOwner
  rw [on_begun (not_qpWord_coreState d k), rd_begun (not_qpWord_coreState d k)]

theorem logicalCore_begun (d cl l : Nat) : (s.begun x).chip.logicalCore d cl l = s.chip.logicalCore d cl l := by
  have mapped : ∀ k, (s.begun x).chip.rd (R.CMP_CORE_STATE_LOGICAL d k) = s.chip.rd (R.CMP_CORE_STATE_LOGICAL d k) := fun k => rd_begun (not_qpWord_coreState d k)
  simp only [Chip.logicalCore, mapped]

theorem launchCores_begun (d t bits : Nat) : (s.begun x).chip.launchCores d t bits = s.chip.launchCores d t bits := by
  simp only [Chip.launchCores, logicalCore_begun, coreOf_begun]

theorem descs_begun (d k q : Nat) : (s.begun x).chip.descs d k q = s.chip.descs d k q := by
  unfold Chip.descs
  rw [begun_comp]

end

theorem dmaCore_begun {s : State} {x : Cmd} {tn : Fin 16} {q : Fin 64} (h : x.src = .queue tn q) : (s.begun x).chip.dmaCore x.begun = s.chip.dmaCore x := by
  have usable : ∀ d k, (s.begun x).chip.coreUsable d k = s.chip.coreUsable d k := coreUsable_ofQp fun _ ho => word_begun ho
  unfold Chip.dmaCore
  simp only [src_begun, par_begun, partition_begun, h, cmdDie_begun, coreOf_begun, usable]

/-! A descriptor is pushed (R319). -/

section
variable (c : Chip) (d k q : Nat) (bytes : List Nat) (cmd : Option (CmdSrc × Nat))

theorem pushDesc_cmd : (c.pushDesc d k q bytes cmd).1.cmd = c.cmd := rfl

theorem descs_pushDesc : (c.pushDesc d k q bytes cmd).1.descs d k q = c.descs d k q ++ [{ ticket := c.rd (R.CMP_CORE_EQ_NEXT d k q), bytes := padTo 64 bytes, cmd := cmd }] := by
  have queues : (c.pushDesc d k q bytes cmd).1.comp.queues
      = putKey (d, k, q) (c.descs d k q ++ [{ ticket := c.rd (R.CMP_CORE_EQ_NEXT d k q), bytes := padTo 64 bytes, cmd := cmd }]) c.comp.queues := if_neg (by simp)
  unfold Chip.descs at queues ⊢
  rw [queues, getKey_putKey_self]
  rfl

theorem rd_next_pushDesc : (c.pushDesc d k q bytes cmd).1.rd (R.CMP_CORE_EQ_NEXT d k q) = (c.rd (R.CMP_CORE_EQ_NEXT d k q) + 1) % 65536 :=
  rd_wr_self _ _ (by simp) (by simp)

end

section
variable {s : State} {tn : Fin 16} {q : Fin 64} {idx : BitVec 16} {x : Cmd} {k : Nat}

/-- A ready DMA whose core's queue has room. -/
theorem exec_dma (h : cmdReady s.chip (.queue tn q) idx 2 x) (hcore : s.chip.dmaCore x = some k) (hroom : (s.chip.descs (s.chip.rd (R.PCU_CQ_CFG_DIE tn.val q.val)) k 7).length < 64)
    (hzero : x.par 11 5 = 0) (hstate : s.chip.rd (R.CMP_CORE_STATE_STATE (s.chip.rd (R.PCU_CQ_CFG_DIE tn.val q.val)) k) ≠ 5) :
    exec (.dma (.queue tn q) idx) s = .next ((s.begun x).onChip (fun c => (c.pushDesc (s.chip.rd (R.PCU_CQ_CFG_DIE tn.val q.val)) k 7
      ([x.par 10 1, 5] ++ List.replicate 14 0 ++ (x.pkt.drop 16).take 48) (some (.queue tn q, idx.toNat))).1)) := by
  have state := (rd_begun (s := s) (x := x) (f := R.CMP_CORE_STATE_STATE (s.chip.rd (R.PCU_CQ_CFG_DIE tn.val q.val)) k) (not_qpWord_coreState _ k)).trans_ne hstate
  have core := (dmaCore_begun (src_of_cmdReady h).1).trans hcore
  show execDma (.queue tn q) idx s = _
  unfold execDma
  rw [h.1]
  dsimp only
  rw [hcore, show s.chip.cmdDie (.queue tn q) = s.chip.rd (R.PCU_CQ_CFG_DIE tn.val q.val) from rfl]
  dsimp only
  rw [if_neg (by simpa using hroom), begin_of_cmdReady h, State.onChip, State.onChip, core]
  dsimp only
  rw [par_begun, if_neg (not_not.mpr hzero), if_neg state]
  rfl

theorem completes_dma (h : cmdReady s.chip (.queue tn q) idx 2 x) (hcore : s.chip.dmaCore x = some k) (hroom : (s.chip.descs (s.chip.rd (R.PCU_CQ_CFG_DIE tn.val q.val)) k 7).length < 64)
    (hzero : x.par 11 5 = 0) (hstate : s.chip.rd (R.CMP_CORE_STATE_STATE (s.chip.rd (R.PCU_CQ_CFG_DIE tn.val q.val)) k) ≠ 5) :
    completes (.dma (.queue tn q) idx) s (fun t => t.chip.descs (s.chip.rd (R.PCU_CQ_CFG_DIE tn.val q.val)) k 7 = s.chip.descs (s.chip.rd (R.PCU_CQ_CFG_DIE tn.val q.val)) k 7
        ++ [({ ticket := s.chip.rd (R.CMP_CORE_EQ_NEXT (s.chip.rd (R.PCU_CQ_CFG_DIE tn.val q.val)) k 7), bytes := padTo 64 ([x.par 10 1, 5] ++ List.replicate 14 0 ++ (x.pkt.drop 16).take 48),
               cmd := some (.queue tn q, idx.toNat) } : Desc)]
      ∧ t.chip.rd (R.CMP_CORE_EQ_NEXT (s.chip.rd (R.PCU_CQ_CFG_DIE tn.val q.val)) k 7) = (s.chip.rd (R.CMP_CORE_EQ_NEXT (s.chip.rd (R.PCU_CQ_CFG_DIE tn.val q.val)) k 7) + 1) % 65536
      ∧ cmdNow s t x { x with started := true } ∧ onlyChip s t) := by
  have ticket : ∀ d, (s.begun x).chip.rd (R.CMP_CORE_EQ_NEXT d k 7) = s.chip.rd (R.CMP_CORE_EQ_NEXT d k 7) := fun d => rd_begun (not_qpWord_coreEq d k (by decide))
  refine completes_of_exec (exec_dma h hcore hroom hzero hstate) ⟨?_, ?_, cmdNow_begun h (pushDesc_cmd ..), rfl, rfl⟩
  · rw [State.onChip_chip, descs_pushDesc, descs_begun, ticket]
  · rw [State.onChip_chip, rd_next_pushDesc, ticket]

end

end Sys2Proof.Machine
end

section
/-! LAUNCH (R331, R426): a launch of its command with its parameters; its blocks are placed while there is room. -/

namespace Sys2Proof.Machine

/-- A launch without its progress. -/
def Launch.asked (l : Launch) : Launch := { l with next := 0, ended := 0 }

/-- What a LAUNCH command asks for on some cores with some windows. -/
def Cmd.launch (x : Cmd) (d : Nat) (cores : List Nat) (windows : List (Nat × Nat)) : Launch :=
  { src := x.src, idx := x.idx, die := d, tenant := x.partition, cores := cores, bdim := x.par 24 2, blocks := x.par 28 4
    bytes := x.par 32 4, pc := x.par 36 4, arg := x.par 40 4, windows := windows }

/-- The fetched commands, and what the launches ask for. -/
def State.cmdsAndLaunches (s : State) : Commands × List Launch := (s.chip.cmd, s.chip.comp.launches.map Launch.asked)

theorem map_updFirst {α β : Type} {p : α → Bool} {f : α → α} {g : α → β} (h : ∀ a, g (f a) = g a) : ∀ l : List α, (updFirst p f l).map g = l.map g
  | [] => rfl
  | y :: ys => by
    rw [updFirst_cons]
    split
    · rw [List.map_cons, List.map_cons, h]
    · rw [List.map_cons, List.map_cons, map_updFirst h ys]

theorem coreCounts_onlyRegs (c : Chip) (d k : Nat) : c.coreCounts d k = { c with regs := (c.coreCounts d k).regs } := by
  unfold Chip.coreCounts
  dsimp only
  split <;> rfl

/-- A block that is placed moves its launch on to the next one (R331). -/
theorem placeBlock_cmdsAndLaunches (s : State) (l : Launch) : (s.placeBlock l).cmdsAndLaunches = s.cmdsAndLaunches := by
  unfold State.placeBlock
  split
  · rfl
  · split
    · rfl
    · dsimp only
      rw [State.cmdsAndLaunches, coreCounts_onlyRegs]
      exact congrArg (Prod.mk s.chip.cmd) (map_updFirst (f := fun y : Launch => { y with next := y.next + 1 }) (fun _ => rfl) s.chip.comp.launches)

theorem startLaunch_cmdsAndLaunches (s : State) (x : Cmd) (cores : List Nat) (windows : List (Nat × Nat)) :
    (s.startLaunch x cores windows).cmdsAndLaunches = (s.chip.cmd, s.chip.comp.launches.map Launch.asked ++ [x.launch (s.chip.cmdDie x.src) cores windows]) := by
  have placed : ∀ (l : List Nat) (f : State → Nat → State), (∀ t n, (f t n).cmdsAndLaunches = t.cmdsAndLaunches) → ∀ t, (l.foldl f t).cmdsAndLaunches = t.cmdsAndLaunches := fun l f hf => by
    induction l with
    | nil => exact fun _ => rfl
    | cons n ns ih => exact fun t => (ih (f t n)).trans (hf t n)
  unfold State.startLaunch
  refine (placed _ _ (fun t _ => ?_) _).trans (congrArg (Prod.mk s.chip.cmd) (List.map_append ..))
  split
  · exact placeBlock_cmdsAndLaunches ..
  · rfl

section
variable {s : State} {tn : Fin 16} {q : Fin 64} {idx : BitVec 16} {x : Cmd} {k : Nat} {ks : List Nat}

theorem launchGood_begun (x : Cmd) : launchGood x.begun = launchGood x := rfl

/-- A ready LAUNCH on cores of its tenant and without a table of windows. -/
theorem exec_launch (h : cmdReady s.chip (.queue tn q) idx 1 x) (hcores : s.chip.launchCores (s.chip.rd (R.PCU_CQ_CFG_DIE tn.val q.val)) x.partition (x.par 8 16) = some (k :: ks))
    (hgood : launchGood x = true) (htable : x.par 48 8 = 0) : exec (.launch (.queue tn q) idx) s = .next ((s.begun x).startLaunch x.begun (k :: ks) []) := by
  show execLaunch (.queue tn q) idx s = _
  rw [execLaunch, begin_of_cmdReady h]
  dsimp only
  rw [cmdDie_begun, partition_begun, par_begun, launchCores_begun, show s.chip.launchCores (s.chip.cmdDie (.queue tn q)) x.partition (x.par 8 16) = _ from hcores]
  dsimp only
  rw [launchGood_begun, if_neg (by simp [hgood]), if_pos htable]

/-- The same with a table that can be read. -/
theorem exec_launch_table (h : cmdReady s.chip (.queue tn q) idx 1 x) (hcores : s.chip.launchCores (s.chip.rd (R.PCU_CQ_CFG_DIE tn.val q.val)) x.partition (x.par 8 16) = some (k :: ks))
    (hgood : launchGood x = true) (htable : x.par 48 8 ≠ 0) (hstatus : s.chip.viewStatus x.partition (x.par 48 8) 128 = stOK)
    (hfree : s.chip.viewObstacle x.partition (x.par 48 8) 128 false = none) :
    exec (.launch (.queue tn q) idx) s = .next ((s.begun x).startLaunch x.begun (k :: ks) (farWindows (s.viewBytes x.partition (x.par 48 8) 128))) := by
  obtain ⟨status, obstacle, bytes⟩ := view_begun s x (x.par 48 8) 128
  show execLaunch (.queue tn q) idx s = _
  rw [execLaunch, begin_of_cmdReady h]
  dsimp only
  rw [cmdDie_begun, partition_begun, par_begun, launchCores_begun, show s.chip.launchCores (s.chip.cmdDie (.queue tn q)) x.partition (x.par 8 16) = _ from hcores]
  dsimp only
  rw [launchGood_begun, if_neg (by simp [hgood]), if_neg htable, status, if_neg (not_not.mpr hstatus), obstacle, hfree]
  dsimp only
  rw [bytes]

theorem completes_launch_params (h : cmdReady s.chip (.queue tn q) idx 1 x) (hcores : s.chip.launchCores (s.chip.rd (R.PCU_CQ_CFG_DIE tn.val q.val)) x.partition (x.par 8 16) = some (k :: ks))
    (hgood : launchGood x = true) (htable : x.par 48 8 = 0) (hnone : s.chip.comp.launches = []) :
    completes (.launch (.queue tn q) idx) s (fun t => cmdNow s t x { x with started := true } ∧ t.pending = s.pending
      ∧ t.chip.comp.launches.map (fun l => (l.src, l.idx :: l.die :: l.tenant :: l.cores)) = [(.queue tn q, idx.toNat :: s.chip.rd (R.PCU_CQ_CFG_DIE tn.val q.val) :: x.partition :: k :: ks)]
      ∧ t.chip.comp.launches.map (fun l => [l.bdim, l.blocks, l.bytes, l.pc, l.arg, l.windows.length]) = [[x.par 24 2, x.par 28 4, x.par 32 4, x.par 36 4, x.par 40 4, 0]]) := by
  obtain ⟨hsrc, hidx⟩ := src_of_cmdReady h
  have started := startLaunch_cmdsAndLaunches (s.begun x) x.begun (k :: ks) []
  rw [begun_comp, hnone, src_begun, hsrc, cmdDie_begun] at started
  obtain ⟨cmds, asked⟩ := Prod.mk.inj started
  have seen : ∀ {β : Type} (g : Launch → β), (∀ l, g l.asked = g l) → ((s.begun x).startLaunch x.begun (k :: ks) []).chip.comp.launches.map g
      = [g (x.begun.launch (s.chip.cmdDie (.queue tn q)) (k :: ks) [])] := fun g hg => by
    have via := congrArg (List.map g) asked
    rwa [List.map_map, show g ∘ Launch.asked = g from funext hg] at via
  refine completes_of_exec (exec_launch h hcores hgood htable) ⟨cmdNow_begun h cmds, State.startLaunch_pending .., (seen _ fun _ => rfl).trans ?_, seen _ fun _ => rfl⟩
  rw [Cmd.launch, src_begun, idx_begun, hsrc, hidx]
  rfl

/-- A LAUNCH that names no cores of its tenant is refused. -/
theorem completes_launch_none (h : cmdReady s.chip (.queue tn q) idx 1 x) (hcores : s.chip.launchCores (s.chip.rd (R.PCU_CQ_CFG_DIE tn.val q.val)) x.partition (x.par 8 16) = none) :
    completes (.launch (.queue tn q) idx) s (fun t => cmdEnded s t x csINVALID 0 0 ∧ t.chip.comp = s.chip.comp ∧ onlyChip s t) := by
  refine completes_of_exec (t := (s.begun x).onChip (fun c => c.endCmd x.begun csINVALID 0 0)) ?_ ⟨cmdEnded_endCmd h rfl rfl, begun_comp s x, rfl, rfl⟩
  show execLaunch (.queue tn q) idx s = _
  rw [execLaunch, begin_of_cmdReady h]
  dsimp only
  rw [cmdDie_begun, partition_begun, par_begun, launchCores_begun, show s.chip.launchCores (s.chip.cmdDie (.queue tn q)) x.partition (x.par 8 16) = _ from hcores]

end

end Sys2Proof.Machine
end

section
/-! The compute and allocation commands together. -/

namespace Sys2Proof.Machine

/-- Settles O30: each command by the lemma about its own effect, and all by what the start and the end of a fetched command leave alone. -/
theorem computeAndAllocationCommandsComplete : Obligations.ComputeAndAllocationCommandsComplete := by
  refine ⟨fun _ _ _ _ _ _ _ => completes_launch_params,
    fun tn q idx x k ks s h hcores hgood htable => completes_of_exec (exec_launch h hcores hgood htable) rfl,
    fun tn q idx x k ks s h hcores hgood htable hstatus hfree => completes_of_exec (exec_launch_table h hcores hgood htable hstatus hfree) rfl,
    fun _ _ _ _ _ => completes_launch_none,
    fun _ _ _ _ _ _ => completes_dma,
    fun _ _ _ _ _ _ => completes_wait_holds,
    fun _ _ _ _ _ _ => completes_wait_held,
    fun tn q idx x o s h hobjs _ htenant hkind hfn => completes_signal_add h hobjs htenant hkind hfn,
    fun tn q idx x o s h hobj htenant hfn => completes_signal h hobj htenant hfn fun t ended only _ => ⟨ended, only⟩,
    fun _ _ _ _ _ => completes_syncAlloc,
    fun _ _ _ _ => completes_syncFree,
    fun src idx x i s h hi hlt hoff hallowed hdet hfits => ?redCtxAlloc,
    fun src idx x i s h hfree hallowed hdet hslots hzero hfits => ?redCtxAllocDet,
    fun _ _ _ _ => completes_redCtxFlush_empty,
    fun src idx x s h howned => completes_of_exec (exec_redCtxFlush h howned) rfl,
    fun _ _ _ _ _ => completes_redCtxFree,
    fun _ _ _ _ _ => completes_mcAlloc,
    fun _ _ _ _ _ => completes_mcFree,
    fun _ _ _ _ _ => completes_mcSet,
    fun _ _ _ _ _ => completes_mcClear⟩
  case redCtxAlloc =>
    refine completes_redCtxAlloc h (.inl ⟨hi, hlt, hoff⟩) hallowed (by simp [hdet]) (by simpa [hdet] using hfits) fun t ended only hon htenant htype hop hmode hreserve hcount hwords => ?_
    exact ⟨ended, hon, htenant, htype, hop, hmode.trans hdet, hreserve, hcount, hwords, only⟩
  case redCtxAllocDet =>
    refine completes_redCtxAlloc h hfree hallowed (fun _ => ⟨hslots, hzero⟩) (by rwa [hzero, if_pos hdet]) fun t ended only hon htenant _ _ hmode hreserve hcount _ => ?_
    exact ⟨ended, hon, htenant, hmode.trans hdet, hreserve, hcount, only⟩

end Sys2Proof.Machine
end

section
/-! The canonical form of memory: every operation on the whole state keeps it. One lemma for each operation, in the order of the model. -/

namespace Sys2Proof.Machine

/-! Operations of threads and movers that leave memory alone. -/

@[simp] theorem State.raise_mem (s : State) (i : Issue) (cause addr : Nat) : (s.raise i cause addr).mem = s.mem := rfl

@[simp] theorem State.putThread_mem (s : State) (i : Issue) (t : Thread) : (s.putThread i t).mem = s.mem := rfl

@[simp] theorem State.farAccess_mem (s : State) (i : Issue) (t : Thread) (g opcode n : Nat) (bytes : List Nat) (opspec : Nat) (kind : FarKind) (wait : Bool) :
    (s.farAccess i t g opcode n bytes opspec kind wait).mem = s.mem := rfl

@[simp] theorem State.threadLoad_mem (s : State) (i : Issue) (a n : Nat) (kind : FarKind) (put : Thread → Nat → Thread) : (s.threadLoad i a n kind put).mem = s.mem := by
  unfold State.threadLoad
  repeat' split
  all_goals rfl

@[simp] theorem State.jump_mem (s : State) (i : Issue) (t : Thread) (target : Nat) : (s.jump i t target).mem = s.mem := by
  unfold State.jump
  split <;> rfl

@[simp] theorem State.system_mem (s : State) (i : Issue) (w : Nat) : (s.system i w).mem = s.mem := by
  unfold State.system
  extract_lets
  repeat' split
  all_goals rfl

@[simp] theorem State.moverFar_mem (s : State) (m : Mover) (f : Xfer) (g opcode n : Nat) (bytes : List Nat) (opspec : Nat) (counted : Bool) :
    (s.moverFar m f g opcode n bytes opspec counted).1.mem = s.mem := rfl

@[simp] theorem State.moverSend_mem (s : State) (m : Mover) (f : Xfer) (top : Nat) (st : Stitch) : (s.moverSend m f top st).1.mem = s.mem := rfl

/-! Loops and branches. -/

/-- What every step of a loop keeps in canonical form, the loop keeps. -/
theorem foldl_wf {α : Type} {f : State → α → State} (hf : ∀ s a, Memory.wf s.mem = true → Memory.wf (f s a).mem = true) (l : List α) {s : State} (h : Memory.wf s.mem = true) :
    Memory.wf (l.foldl f s).mem = true :=
  List.foldlRecOn (motive := fun s : State => Memory.wf s.mem = true) l f h (fun s hs a _ => hf s a hs)

/-- An operation that has one effect under a condition and another without it. -/
theorem ite_wf {c : Prop} [Decidable c] {t u : State} (ht : Memory.wf t.mem = true) (hu : Memory.wf u.mem = true) : Memory.wf (if c then t else u).mem = true := by
  split
  · exact ht
  · exact hu

section

variable {s : State} (h : Memory.wf s.mem = true)

include h

/-! Runs and links. -/

theorem State.landBlocks_wf (d : DstRun) (g : Nat) (blocks : List (List Nat)) : Memory.wf (s.landBlocks d g blocks).mem = true := by
  refine List.foldlRecOn (motive := fun m => Memory.wf m = true) _ _ h (fun m hm x _ => ?_)
  split
  · exact memWrite_wf hm
  · exact hm

theorem State.landGroup_wf (d : DstRun) (g : Nat) (blocks : List (List Nat)) : Memory.wf (s.landGroup d g blocks).mem = true := by
  unfold State.landGroup
  dsimp only
  split
  · exact h
  · split
    · exact h
    · exact State.landBlocks_wf h ..

theorem State.takeRun_wf (key : Nat × Nat × Nat) (f : Frame) : Memory.wf (s.takeRun key f).mem = true := by
  unfold State.takeRun
  dsimp only
  repeat' split
  all_goals simp [h, State.landGroup_wf]

theorem State.takeEarly_wf (e : Nat) : Memory.wf (s.takeEarly e).mem = true :=
  foldl_wf (fun _ _ hs => State.takeRun_wf hs ..) _ h

theorem State.accept_wf (key : Nat × Nat × Nat) (f : Frame) : Memory.wf (s.accept key f).mem = true := by
  unfold State.accept
  dsimp only
  repeat' split
  all_goals simp [h, State.takeRun_wf]

theorem State.receiveFrame_wf (key : Nat × Nat × Nat) (f : Frame) (pos : Nat) (words : List (List Nat)) : Memory.wf (s.receiveFrame key f pos words).mem = true := by
  unfold State.receiveFrame
  extract_lets
  split
  · exact h
  · split
    extract_lets
    repeat' split
    all_goals simp +zetaDelta [h, State.accept_wf]

/-! Memory sites. -/

theorem State.streamAnswer_wf (site : Nat) (st : Stitch) : Memory.wf (s.streamAnswer site st).mem = true := by
  unfold State.streamAnswer
  dsimp only
  repeat' split
  all_goals simp [h, memWrite_wf]

theorem State.landReduce_wf (site place ecc : Nat) (key : Stitch) (contribs : List (List Nat)) (held : List Stitch) (n : Nat) (short : Bool) :
    Memory.wf (s.landReduce site place ecc key contribs held n short).mem = true := by
  unfold State.landReduce
  dsimp only
  split
  · exact h
  · exact memWrite_wf h

theorem State.doStitch_wf (site ecc place : Nat) (st : Stitch) : Memory.wf (s.doStitch site ecc place st).mem = true := by
  unfold State.doStitch
  extract_lets
  repeat' split
  all_goals simp [h, memWrite_wf, memPutNat_wf]

theorem State.tryAccess_wf (site : Nat) (op : ParkedOp) : Memory.wf (s.tryAccess site op).mem = true := by
  unfold State.tryAccess
  extract_lets
  cases op with
  | probe => exact h
  | stitch plane k ecc place st =>
    dsimp only
    split
    · exact h
    · exact h
    · exact State.doStitch_wf h ..
  | landing place ecc p =>
    dsimp only
    split
    · exact h
    · exact State.landReduce_wf h ..
  | slot place ecc d =>
    dsimp only
    split
    · exact h
    · split <;> exact State.landReduce_wf h ..
  | group e n g t blocks =>
    dsimp only
    split
    · exact h
    · split
      · exact h
      · exact State.landBlocks_wf h ..

theorem State.resume_wf : Memory.wf s.resume.mem = true := foldl_wf (fun _ _ hs => State.tryAccess_wf hs ..) _ h

theorem State.landAt_wf (site : Nat) (key : Stitch) (held : List Stitch) (op : Nat → ParkedOp) : Memory.wf (s.landAt site key held op).mem = true := by
  unfold State.landAt
  split
  · exact State.tryAccess_wf h ..
  · exact h

theorem State.landPartial_wf (p : Partial) (ecc : Nat) : Memory.wf (s.landPartial p ecc).mem = true := by
  refine State.landAt_wf ?_ ..
  exact h

theorem State.landSlot_wf (d : DetSlot) (ecc : Nat) : Memory.wf (s.landSlot d ecc).mem = true := by
  refine State.landAt_wf ?_ ..
  exact h

theorem State.detReduce_wf (site ecc : Nat) (st : Stitch) : Memory.wf (s.detReduce site ecc st).mem = true := by
  unfold State.detReduce
  extract_lets
  repeat' split
  case h_1.isFalse => exact ite_wf (State.landSlot_wf (by exact h) ..) h
  all_goals exact h

theorem State.reduceIn_wf (site ecc : Nat) (st : Stitch) : Memory.wf (s.reduceIn site ecc st).mem = true := by
  unfold State.reduceIn
  extract_lets c u n expect alone start
  have alone_wf : ∀ s, Memory.wf s.mem = true → Memory.wf (alone s).mem = true := fun s hs => State.landAt_wf hs ..
  have start_wf : ∀ s, Memory.wf s.mem = true → Memory.wf (start s).mem = true := by
    intro s hs
    dsimp only [start]
    repeat' split
    all_goals simp [hs, alone_wf]
  split
  · exact State.detReduce_wf h ..
  · split
    · exact alone_wf s h
    · split
      · exact start_wf s h
      · split
        · exact start_wf _ (State.landPartial_wf h ..)
        · exact ite_wf (State.landPartial_wf (by exact h) ..) h

theorem State.memoryOp_wf (site plane k ecc : Nat) (st : Stitch) : Memory.wf (s.memoryOp site plane k ecc st).mem = true := by
  unfold State.memoryOp
  extract_lets
  repeat' split
  all_goals simp +zetaDelta [h, State.reduceIn_wf, State.tryAccess_wf]

theorem State.flushUnit_wf (u ecc : Nat) (hit : Partial → Bool) : Memory.wf (s.flushUnit u ecc hit).mem = true := by
  unfold State.flushUnit
  split
  · exact h
  · exact foldl_wf (fun _ _ hs => State.landPartial_wf hs ..) _ h

theorem State.flushSlots_wf (ecc : Nat) (hit : DetSlot → Bool) : Memory.wf (s.flushSlots ecc hit).mem = true :=
  foldl_wf (fun _ _ hs => State.landSlot_wf hs ..) _ h

theorem State.recallOver_wf (r : Recall) (keep : Bool) : Memory.wf (s.recallOver r keep).mem = true := State.resume_wf h

theorem State.recallAnswer_wf (site : Nat) (st : Stitch) : Memory.wf (s.recallAnswer site st).mem = true := by
  unfold State.recallAnswer
  dsimp only
  split
  · exact h
  · refine State.recallOver_wf ?_ ..
    split
    · exact memWrite_wf h
    · exact h

/-! Commands. -/

theorem State.viewWrite_wf (t a : Nat) (bytes : List Nat) : Memory.wf (s.viewWrite t a bytes).mem = true := by
  refine List.foldlRecOn (motive := fun acc : List Host.Cell × List Nat => Memory.wf acc.1 = true) _ _ h (fun acc hacc p _ => ?_)
  dsimp only
  split
  · exact memWrite_wf hacc
  · exact hacc

theorem State.whenClear_wf {t a n : Nat} {write : Bool} {k : State → State} (hk : Memory.wf (k s).mem = true) : Memory.wf (s.whenClear t a n write k).mem = true := by
  unfold State.whenClear
  split
  · exact h
  · exact hk

theorem State.begin_wf {src : CmdSrc} {idx opcode : Nat} {k : State → Cmd → State} (hk : ∀ s x, Memory.wf s.mem = true → Memory.wf (k s x).mem = true) :
    Memory.wf (s.begin src idx opcode k).mem = true := by
  unfold State.begin
  dsimp only
  repeat' split
  all_goals simp [h, hk]

theorem State.atOnce_wf (src : CmdSrc) (idx opcode : Nat) (k : Chip → Cmd → Chip × Nat × Nat × Nat) : Memory.wf (s.atOnce src idx opcode k).mem = true :=
  State.begin_wf h (fun _ _ hs => hs)

theorem State.writeStatus_wf (src : CmdSrc) (idx : Nat) (record : List Nat) : Memory.wf (s.writeStatus src idx record).mem = true := by
  unfold State.writeStatus
  split <;> simp [h, State.viewWrite_wf]

theorem State.completeCmd_wf (x : Cmd) (status r0 r1 : Nat) : Memory.wf (s.completeCmd x status r0 r1).mem = true := by
  unfold State.completeCmd
  extract_lets
  split
  · exact h
  · exact State.whenClear_wf h (State.writeStatus_wf h ..)

theorem State.noticeIn_wf (st : Stitch) : Memory.wf (s.noticeIn st).mem = true := by
  unfold State.noticeIn
  dsimp only
  repeat' split
  all_goals simp [h, State.viewWrite_wf]

theorem State.placeBlock_wf (l : Launch) : Memory.wf (s.placeBlock l).mem = true := by
  unfold State.placeBlock
  dsimp only
  repeat' split
  all_goals simp [h, memZero_wf]

/-! Threads. -/

theorem State.issue_wf {d k slot tid : Nat} {f : State → Issue → State} (hf : ∀ s i, Memory.wf s.mem = true → Memory.wf (f s i).mem = true) :
    Memory.wf (s.issue d k slot tid f).mem = true := by
  unfold State.issue
  dsimp only
  repeat' split
  all_goals simp [h, hf]

theorem State.threadStore_wf (i : Issue) (a n v : Nat) : Memory.wf (s.threadStore i a n v).mem = true := by
  unfold State.threadStore
  repeat' split
  all_goals simp [h, memPutNat_wf]

theorem State.threadAmo_wf (i : Issue) (fn rd a w x swap : Nat) : Memory.wf (s.threadAmo i fn rd a w x swap).mem = true := by
  unfold State.threadAmo
  dsimp only
  repeat' split
  all_goals simp [h, memPutNat_wf]

theorem State.riscv_wf (i : Issue) (w : Nat) : Memory.wf (s.riscv i w).mem = true := by
  unfold State.riscv
  extract_lets
  repeat' split
  all_goals simp +zetaDelta [h, State.threadStore_wf]

/-! Engines. -/

theorem State.putScr_wf (d k a : Nat) (bs : List Nat) : Memory.wf (s.putScr d k a bs).mem = true := memWrite_wf h

theorem State.sfeOut_wf (d k : Nat) (x : Desc) (l : List Nat) : Memory.wf (s.sfeOut d k x l).mem = true := State.putScr_wf h ..

theorem State.putAux_wf (d k : Nat) (x : Desc) (l : List Nat) : Memory.wf (s.putAux d k x l).mem = true := State.putScr_wf h ..

theorem State.engineOp_wf {d k q opc : Nat} {body : State → Desc → Nat} {run : State → Desc → State} (hrun : ∀ s x, Memory.wf s.mem = true → Memory.wf (run s x).mem = true) :
    Memory.wf (s.engineOp d k q opc body run).mem = true := by
  unfold State.engineOp
  dsimp only
  repeat' split
  all_goals simp [h, hrun]

theorem State.sfe_wf (die : Fin 8) (core : Fin 136) (opc : Nat) : Memory.wf (s.sfe die core opc).mem = true :=
  State.engineOp_wf h (fun _ _ hs => State.sfeOut_wf hs ..)

theorem State.placeAtomic_wf (p fn w x swap : Nat) : Memory.wf (s.placeAtomic p fn w x swap).1.mem = true := memPutNat_wf h

theorem State.atomicResult_wf (m : Mover) (got : List Nat) (old : Nat) : Memory.wf (s.atomicResult m got old).mem = true :=
  ite_wf (State.putScr_wf (State.putScr_wf h ..) ..) (State.putScr_wf h ..)

theorem State.writePart_wf (m : Mover) (f : Xfer) : Memory.wf (s.writePart m f).1.mem = true := by
  unfold State.writePart
  extract_lets
  repeat' split
  all_goals simp +zetaDelta [h, State.placeAtomic_wf, State.atomicResult_wf, memWrite_wf]

theorem State.runPart_wf (m : Mover) (f : Xfer) : Memory.wf (s.runPart m f).1.mem = true := by
  unfold State.runPart
  dsimp only
  repeat' split
  all_goals exact h

theorem State.partGo_wf (m : Mover) (f : Xfer) (stitches runs : Nat) : Memory.wf (s.partGo m f stitches runs).1.mem = true := by
  unfold State.partGo
  dsimp only
  repeat' split
  all_goals simp [h, State.runPart_wf, State.writePart_wf]

theorem State.partAnswer_wf (m : Mover) (f : Xfer) (d : Completion) : Memory.wf (s.partAnswer m f d).1.mem = true := by
  unfold State.partAnswer
  dsimp only
  repeat' split
  all_goals simp [h, State.atomicResult_wf]

theorem State.partStep_wf (m : Mover) (f : Xfer) (stitches runs released : Nat) : Memory.wf (s.partStep m f stitches runs released).1.mem = true := by
  unfold State.partStep
  cases f.flight with
  | none =>
    dsimp only
    split
    · exact h
    · exact State.partGo_wf h ..
  | some tag =>
    dsimp only
    split
    · exact h
    · next d _ =>
      have answered := fun (c : Chip → Chip) => State.partAnswer_wf (s := s.onChip c) h m f d
      split
      · next hd => exact State.partGo_wf (congrArg (fun r => r.1.mem) hd ▸ answered _) ..
      · next hd => exact congrArg (fun r => r.1.mem) hd ▸ answered _

end

theorem State.partsStep_wf (m : Mover) (released : Nat) : ∀ (l : List Xfer) {s : State} (_ : Memory.wf s.mem = true) (stitches runs : Nat),
    Memory.wf (s.partsStep m released l stitches runs).1.mem = true
  | [], _, h, _, _ => h
  | f :: fs, s, h, stitches, runs => by
    unfold State.partsStep
    dsimp only
    split <;> exact State.partsStep_wf m released fs (State.partStep_wf h ..) ..

theorem State.encodeTiles_wf (d k : Nat) (x : Desc) : ∀ (l : List Nat) {s : State} (_ : Memory.wf s.mem = true) (off p w n : Nat), Memory.wf (s.encodeTiles d k x l off p w n).1.mem = true
  | [], _, h, _, _, _, _ => h
  | t :: ts, s, h, off, p, w, n => by
    unfold State.encodeTiles
    extract_lets f tr tc segs scales r
    split
    · exact h
    · exact State.encodeTiles_wf d k x ts (State.putScr_wf h ..) ..

section

variable {s : State} (h : Memory.wf s.mem = true)

include h

theorem State.moverStep_wf (d k q ticket : Nat) : Memory.wf (s.moverStep d k q ticket).mem = true := by
  unfold State.moverStep
  split
  · exact h
  · dsimp only
    split <;> exact State.partsStep_wf _ _ _ h ..

theorem State.beginWork_wf (d k q ticket : Nat) (work : List Xfer) (final : Nat) : Memory.wf (s.beginWork d k q ticket work final).mem = true := by
  refine State.moverStep_wf ?_ ..
  exact h

theorem State.mmaRun_wf (d k : Nat) (x : Desc) (a : MmaA) (cycles skipped : Nat) : Memory.wf (s.mmaRun d k x a cycles skipped).mem = true := h

/-! Launches, partitions and reports. -/

theorem State.startLaunch_wf (x : Cmd) (cores : List Nat) (windows : List (Nat × Nat)) : Memory.wf (s.startLaunch x cores windows).mem = true := by
  refine foldl_wf (fun s _ hs => ?_) _ h
  split
  · exact State.placeBlock_wf hs _
  · exact hs

theorem State.partCmd_wf {src : CmdSrc} {idx opcode : Nat} {own zero : Bool} {states : List Nat} {tenant : Cmd → Nat} {k : State → Cmd → Nat → State}
    (hk : ∀ s x t, Memory.wf s.mem = true → Memory.wf (k s x t).mem = true) : Memory.wf (s.partCmd src idx opcode own zero states tenant k).mem = true := by
  refine State.begin_wf h (fun s x hs => ?_)
  extract_lets t no
  repeat' split
  case isFalse => exact hk s x t hs
  all_goals exact hs

theorem State.atRow_wf {x : Cmd} {k : State → State} (hk : Memory.wf (k s).mem = true) : Memory.wf (s.atRow x k).mem = true := ite_wf hk h

theorem State.createPart_wf (t : Nat) (r : Creation) (frames srams : List Nat) (base : Nat) : Memory.wf (s.createPart t r frames srams base).mem = true := by
  unfold State.createPart
  extract_lets mem
  exact List.foldlRecOn (motive := fun m => Memory.wf m = true) _ _ h (fun _ hm _ _ => memZero_wf hm)

theorem State.ringReport_wf (t : Nat) (r : Report) : Memory.wf (s.ringReport t r).mem = true := by
  unfold State.ringReport
  extract_lets _ c size n a booked written sync
  have booked_wf : Memory.wf booked.mem = true := h
  have written_wf : Memory.wf written.mem = true := ite_wf (State.viewWrite_wf booked_wf ..) booked_wf
  split
  · exact h
  · split
    · exact h
    · split <;> exact written_wf

theorem State.deliverReport_wf : Memory.wf s.deliverReport.mem = true := by
  unfold State.deliverReport
  split
  · exact h
  · split
    · exact h
    · split
      · exact h
      · exact foldl_wf (fun _ _ hs => State.ringReport_wf hs ..) _ h

theorem State.deliverReports_wf : Memory.wf s.deliverReports.mem = true := foldl_wf (fun _ _ hs => State.deliverReport_wf hs) _ h

theorem State.combineOff_wf (ecc : Nat) : Memory.wf (s.combineOff ecc).mem = true :=
  ite_wf h (foldl_wf (fun _ _ hs => State.flushUnit_wf hs ..) _ h)

/-! Losses and cast-on. -/

theorem State.critical_wf (cause z i reading : Nat) (full : Bool) : Memory.wf (s.critical cause z i reading full).mem = true := by
  unfold State.critical
  split
  · exact h
  · split
    · exact h
    · rfl

theorem State.castHost_wf : Memory.wf s.castHost.mem = true := by
  unfold State.castHost
  extract_lets c t frames _ r given
  have given_wf : Memory.wf given.mem = true := State.createPart_wf h ..
  rwa [State.onChip_mem]

theorem State.castProcessors_wf (o : CastOutcome) : Memory.wf (s.castProcessors o).1.mem = true := by
  unfold State.castProcessors
  simp only [State.onChip_mem, State.castHost_wf, h]

theorem State.castStep_wf {t : State} {n : Nat} {o : CastOutcome} {b : Bool} (e : s.castStep n o = some (t, b)) : Memory.wf t.mem = true := by
  unfold State.castStep at e
  dsimp only at e
  split at e
  case h_9 => exact congrArg (fun r => r.1.mem) (Option.some.inj e) ▸ State.castProcessors_wf h o
  all_goals (repeat' split at e)
  all_goals cases e
  all_goals exact h

/-! Arrivals. -/

theorem State.runOpenIn_wf (site plane k : Nat) (st : Stitch) : Memory.wf (s.runOpenIn site plane k st).mem = true := by
  unfold State.runOpenIn
  extract_lets
  repeat' split
  all_goals simp +zetaDelta [h, State.takeEarly_wf]

theorem State.ctrlIn_wf (st : Stitch) : Memory.wf (s.ctrlIn st).mem = true := by
  unfold State.ctrlIn
  dsimp only
  repeat' split
  all_goals simp [h, State.noticeIn_wf]

theorem State.deliver_wf (site plane k ecc : Nat) (st : Stitch) : Memory.wf (s.deliver site plane k ecc st).mem = true := by
  unfold State.deliver
  dsimp only
  repeat' split
  all_goals simp [h, State.ctrlIn_wf, State.memoryOp_wf]

theorem State.arrival_wf (site plane k ecc : Nat) (st : Stitch) : Memory.wf (s.arrival site plane k ecc st).mem = true := by
  unfold State.arrival
  extract_lets
  repeat' split
  all_goals simp +zetaDelta [h, State.runOpenIn_wf, State.deliver_wf]

theorem State.answerIn_wf (site : Nat) (st : Stitch) : Memory.wf (s.answerIn site st).mem = true := by
  unfold State.answerIn
  dsimp only
  repeat' split
  all_goals simp [h, State.streamAnswer_wf, State.recallAnswer_wf]

theorem State.responseArrival_wf (site plane k : Nat) (st : Stitch) : Memory.wf (s.responseArrival site plane k st).mem = true := by
  unfold State.responseArrival
  dsimp only
  repeat' split
  all_goals simp [h, State.answerIn_wf]

theorem State.takeArrived_wf {site plane k : Nat} {st : Stitch} {f : State → State} (hf : ∀ s, Memory.wf s.mem = true → Memory.wf (f s).mem = true) :
    Memory.wf (s.takeArrived site plane k st f).mem = true := by
  unfold State.takeArrived
  dsimp only
  split
  · exact hf _ h
  · exact h

end

end Sys2Proof.Machine
end

section
/-! Every command keeps the canonical form of memory. -/

namespace Sys2Proof.Machine

/-- The result of a command is a next state whose memory is in canonical form. -/
def Canonical (r : Result) : Prop := ∃ t, r = .next t ∧ Memory.wf t.mem = true

theorem canonical_next {t : State} (h : Memory.wf t.mem = true) : Canonical (.next t) := ⟨t, rfl, h⟩

theorem canonical_ite {c : Prop} [Decidable c] {t u : State} (ht : Memory.wf t.mem = true) (hu : Memory.wf u.mem = true) : Canonical (.next (if c then t else u)) :=
  canonical_next (ite_wf ht hu)

section

variable {s : State} (h : Memory.wf s.mem = true)

include h

/-! The commands whose effect is more than one operation on the package. -/

theorem streamResult_canonical (site : Fin 24) (node : Fin 4096) (tenant : Fin 16) (seq : BitVec 16) : Canonical (execStreamResult site node tenant seq s) := by
  refine canonical_next ?_
  split
  · split
    · split
      · exact memWrite_wf h
      · exact h
    · exact h
  · exact h

theorem recallTimeout_canonical (site : Fin 24) (die : Fin 2) (line : BitVec 46) : Canonical (execRecallTimeout site die line s) := by
  refine canonical_next ?_
  split
  · exact h
  · split
    · exact State.recallOver_wf h ..
    · exact h

theorem commandComplete_canonical (src : CmdSrc) (idx : BitVec 16) : Canonical (execCommandComplete src idx s) := by
  refine canonical_next ?_
  repeat' split
  all_goals simp [h, State.completeCmd_wf]

theorem queueTailWrite_canonical (req : Requester) (src : CmdSrc) (v : BitVec 32) : Canonical (execQueueTailWrite req src v s) := by
  refine canonical_next ?_
  split <;> exact h

theorem packetFetch_canonical (src : CmdSrc) : Canonical (execPacketFetch src s) := by
  refine canonical_next ?_
  extract_lets
  split
  · split
    · exact State.whenClear_wf h (State.writeStatus_wf h ..)
    · exact State.whenClear_wf h h
  · exact h

theorem redCtxFlush_canonical (src : CmdSrc) (idx : BitVec 16) : Canonical (execRedCtxFlush src idx s) := by
  refine canonical_next (State.begin_wf h (fun s x hs => ?_))
  extract_lets n
  split
  · refine State.flushSlots_wf (foldl_wf (fun _ _ hs => State.flushUnit_wf hs ..) _ ?_) ..
    exact hs
  · exact hs

theorem fmSend_canonical (src : CmdSrc) (idx : BitVec 16) : Canonical (execFmSend src idx s) := by
  refine canonical_next (State.begin_wf h (fun s x hs => ?_))
  extract_lets
  repeat' split
  all_goals exact hs

theorem blockPlace_canonical (src : CmdSrc) (idx : BitVec 16) : Canonical (execBlockPlace src idx s) := by
  refine canonical_next ?_
  split
  · exact State.placeBlock_wf h _
  · exact h

theorem epush_canonical (die : Fin 8) (core : Fin 136) (slot : Fin 64) (tid : Fin 2048) (rd rs1 rs2 : Fin 32) : Canonical (execEpush die core slot tid rd rs1 rs2 s) := by
  refine canonical_next (State.issue_wf h (fun s i hs => ?_))
  extract_lets
  split
  · exact hs
  · split <;> exact hs

theorem ewait_canonical (die : Fin 8) (core : Fin 136) (slot : Fin 64) (tid : Fin 2048) (rd rs1 rs2 : Fin 32) : Canonical (execEwait die core slot tid rd rs1 rs2 s) := by
  refine canonical_next (State.issue_wf h (fun s i hs => ?_))
  extract_lets
  split <;> exact hs

theorem amoW_canonical (die : Fin 8) (core : Fin 136) (slot : Fin 64) (tid : Fin 2048) (fn rd rs1 rs2 : Fin 32) : Canonical (execAmoW die core slot tid fn rd rs1 rs2 s) := by
  refine canonical_next (State.issue_wf h (fun s i hs => ?_))
  split
  · exact hs
  · exact State.threadAmo_wf hs ..

theorem amoD_canonical (die : Fin 8) (core : Fin 136) (slot : Fin 64) (tid : Fin 2048) (fn rd rs1 rs2 : Fin 32) : Canonical (execAmoD die core slot tid fn rd rs1 rs2 s) := by
  refine canonical_next (State.issue_wf h (fun s i hs => ?_))
  split
  · exact hs
  · exact State.threadAmo_wf hs ..

theorem descriptorComplete_canonical (die : Fin 8) (core : Fin 136) (q : Fin 8) : Canonical (execDescriptorComplete die core q s) := by
  refine canonical_next ?_
  split
  · exact h
  · split
    · exact h
    · split
      · exact ite_wf h h
      · split
        · extract_lets moved
          have moved_wf : Memory.wf moved.mem = true := ite_wf h (State.moverStep_wf h ..)
          split
          · split <;> exact moved_wf
          · exact moved_wf
        · exact ite_wf h h

theorem mma_canonical (die : Fin 8) (core : Fin 136) : Canonical (execMma die core s) := by
  refine canonical_next ?_
  split
  · exact h
  · refine State.engineOp_wf h (fun s x hs => ?_)
    extract_lets
    split
    · split <;> exact hs
    · exact hs

theorem accStore_canonical (die : Fin 8) (core : Fin 136) : Canonical (execAccStore die core s) := by
  refine canonical_next ?_
  split
  · exact h
  · refine State.engineOp_wf h (fun s x hs => ?_)
    exact foldl_wf (s := { s with chip := _ }) (fun _ _ hs => State.putScr_wf (State.putScr_wf hs ..) ..) _ hs

theorem encode_canonical (die : Fin 8) (core : Fin 136) : Canonical (execEncode die core s) := by
  refine canonical_next (State.engineOp_wf h (fun s x hs => ?_))
  have tiles := State.encodeTiles_wf die core x (List.range (x.speRows * x.speCols)) hs 0 0 0 0
  split
  next e =>
    rw [e] at tiles
    split <;> exact State.putScr_wf tiles ..

theorem decode_canonical (die : Fin 8) (core : Fin 136) : Canonical (execDecode die core s) := by
  refine canonical_next (State.engineOp_wf h (fun s x hs => ?_))
  extract_lets
  split
  · exact hs
  · refine foldl_wf (fun s r hs => ?_) _ hs
    exact ite_wf (State.putScr_wf (State.putScr_wf hs ..) ..) (State.putScr_wf hs ..)

theorem prune24_canonical (die : Fin 8) (core : Fin 136) : Canonical (execPrune24 die core s) :=
  canonical_next (State.engineOp_wf h (fun _ _ hs => foldl_wf (fun _ _ hs => State.putScr_wf (State.putScr_wf hs ..) ..) _ hs))

theorem expand24_canonical (die : Fin 8) (core : Fin 136) : Canonical (execExpand24 die core s) := by
  refine canonical_next (State.engineOp_wf h (fun s x hs => ?_))
  extract_lets
  split
  · exact hs
  · exact foldl_wf (fun _ _ hs => State.putScr_wf hs ..) _ hs

theorem route_canonical (die : Fin 8) (core : Fin 136) : Canonical (execRoute die core s) := by
  refine canonical_next (State.engineOp_wf h (fun s x hs => ?_))
  extract_lets
  split
  extract_lets _ _ _ _ _ _ entered listed gathered counted totalled
  have entered_wf : Memory.wf entered.mem = true := State.putScr_wf hs ..
  have listed_wf : Memory.wf listed.mem = true := ite_wf entered_wf (foldl_wf (fun _ _ hs => State.putScr_wf hs ..) _ entered_wf)
  have gathered_wf : Memory.wf gathered.mem = true := ite_wf listed_wf (State.putScr_wf listed_wf ..)
  rw [State.onChip_mem]
  exact State.putScr_wf (State.putScr_wf gathered_wf ..) ..

theorem launch_canonical (src : CmdSrc) (idx : BitVec 16) : Canonical (execLaunch src idx s) := by
  refine canonical_next (State.begin_wf h (fun s x hs => ?_))
  extract_lets
  split
  · split
    · exact hs
    · split
      · exact State.startLaunch_wf hs ..
      · split
        · exact hs
        · split
          · exact hs
          · exact State.startLaunch_wf hs ..
  · exact hs

theorem dma_canonical (src : CmdSrc) (idx : BitVec 16) : Canonical (execDma src idx s) := by
  unfold execDma
  extract_lets d full
  refine canonical_next ?_
  split
  · exact h
  · exact State.begin_wf h (fun _ _ hs => hs)

theorem partCreate_canonical (src : CmdSrc) (idx : BitVec 16) : Canonical (execPartCreate src idx s) := by
  refine canonical_next (State.partCmd_wf h (fun s x t hs => ?_))
  extract_lets
  split
  · exact hs
  · split
    · exact hs
    · split
      · exact hs
      · dsimp only
        split
        · exact hs
        · split
          · exact hs
          · refine State.atRow_wf hs ?_
            rw [State.onChip_mem]
            exact State.createPart_wf hs ..

theorem partStart_canonical (src : CmdSrc) (idx : BitVec 16) : Canonical (execPartStart src idx s) := by
  refine canonical_next (State.partCmd_wf h (fun s x t hs => ?_))
  extract_lets
  split
  · exact hs
  · split
    · exact hs
    · refine State.atRow_wf hs ?_
      rwa [State.onChip_mem]

theorem partDestroy_canonical (src : CmdSrc) (idx : BitVec 16) : Canonical (execPartDestroy src idx s) := by
  refine canonical_next (State.partCmd_wf h (fun s x t hs => ?_))
  split
  · exact hs
  · refine State.atRow_wf hs ?_
    rwa [State.onChip_mem]

theorem partJoin_canonical (src : CmdSrc) (idx : BitVec 16) : Canonical (execPartJoin src idx s) := by
  refine canonical_next (State.partCmd_wf h (fun s x t hs => ?_))
  extract_lets
  repeat' split
  all_goals exact hs

theorem digestComplete_canonical (die : Fin 8) : Canonical (execDigestComplete die s) := by
  refine canonical_next ?_
  extract_lets
  split
  · exact h
  · extract_lets
    split
    · exact h
    · split <;> exact h

theorem fabricPllLoss_canonical : Canonical (execFabricPllLoss s) := by
  refine canonical_next ?_
  split
  · exact h
  · extract_lets
    split
    · exact h
    · rfl

theorem fwStage_canonical (src : CmdSrc) (idx : BitVec 16) : Canonical (execFwStage src idx s) := by
  refine canonical_next (State.begin_wf h (fun s x hs => ?_))
  extract_lets
  repeat' split
  all_goals exact hs

theorem sensorBroken_canonical (z : Fin 144) (sensor : Fin 64) (reading : BitVec 16) (full : Bool) : Canonical (execSensorBroken z sensor reading full s) := by
  refine canonical_next ?_
  split
  · exact h
  · extract_lets marked
    have marked_wf : Memory.wf marked.mem = true := h
    exact ite_wf (State.critical_wf marked_wf ..) marked_wf

theorem secKeySet_canonical (src : CmdSrc) (idx : BitVec 16) : Canonical (execSecKeySet src idx s) := by
  refine canonical_next (State.begin_wf h (fun s x hs => ?_))
  extract_lets
  repeat' split
  all_goals exact hs

theorem castOn_canonical (step : Fin 13) (o : CastOutcome) : Canonical (execCastOn step o s) := by
  refine canonical_next ?_
  extract_lets c n
  split
  · split
    · rfl
    · exact h
  · split
    · exact h
    · split
      · exact h
      · next e =>
        rw [State.onChip_mem]
        exact State.castStep_wf h e
      · next e =>
        rw [State.onChip_mem]
        exact State.castStep_wf h e

theorem warmCastOn_canonical : Canonical (execWarmCastOn s) := by
  refine canonical_next ?_
  split
  · exact h
  · split
    · rfl
    · exact h

theorem pwrGoodRise_canonical (addr : Fin 4) (long : Bool) : Canonical (execPwrGoodRise addr long s) := by
  refine canonical_next ?_
  extract_lets
  split
  · exact h
  · split <;> exact h

theorem pwrGoodFall_canonical : Canonical (execPwrGoodFall s) := by
  refine canonical_next ?_
  split
  · exact h
  · split
    · exact h
    · rfl

theorem pkgResetAssert_canonical : Canonical (execPkgResetAssert s) := by
  refine canonical_next ?_
  extract_lets
  split
  · exact h
  · rfl

theorem vioLoss_canonical : Canonical (execVioLoss s) := by
  refine canonical_next ?_
  extract_lets lost
  split
  · rfl
  · exact h

end

end Sys2Proof.Machine
end

section
/-! The statement about the canonical form of memory. -/

namespace Sys2Proof.Machine

section

variable {s : State} (h : Memory.wf s.mem = true)

include h

theorem canonical_onChip (f : Chip → Chip) : Canonical (.next (s.onChip f)) := canonical_next (by rwa [State.onChip_mem])

theorem canonical_atOnce (src : CmdSrc) (idx opcode : Nat) (k : Chip → Cmd → Chip × Nat × Nat × Nat) : Canonical (.next (s.atOnce src idx opcode k)) :=
  canonical_next (State.atOnce_wf h ..)

theorem canonical_begin {src : CmdSrc} {idx opcode : Nat} (f : Cmd → Chip → Chip) : Canonical (.next (s.begin src idx opcode (fun s x => s.onChip (f x)))) :=
  canonical_next (State.begin_wf h (fun _ _ hs => by rwa [State.onChip_mem]))

theorem canonical_partCmd {src : CmdSrc} {idx opcode : Nat} {own zero : Bool} {states : List Nat} {tenant : Cmd → Nat} (f : Cmd → Nat → Chip → Chip) :
    Canonical (.next (s.partCmd src idx opcode own zero states tenant (fun s x t => s.onChip (f x t)))) :=
  canonical_next (State.partCmd_wf h (fun _ _ _ hs => by rwa [State.onChip_mem]))

/-- A thread instruction that changes its thread and the package alone. -/
theorem canonical_issue_of_mem {d k slot tid : Nat} {f : State → Issue → State} (hf : ∀ s i, (f s i).mem = s.mem) : Canonical (.next (s.issue d k slot tid f)) :=
  canonical_next (State.issue_wf h (fun s i hs => by rwa [hf]))

theorem canonical_sop (die : Fin 8) (core : Fin 136) (slot : Fin 64) (tid : Fin 2048) (rd rs1 : Fin 32) (fn flags : Nat) (args : Thread → Nat × Nat) :
    Canonical (.next (s.sop die core slot tid rd rs1 fn flags args)) :=
  canonical_issue_of_mem h (fun _ _ => rfl)

theorem canonical_dpInstr (die : Fin 8) (core : Fin 136) (slot : Fin 64) (tid : Fin 2048) (pairs : List Nat) (rounds : Bool) (f : Rm → Thread → Thread × FFlags) :
    Canonical (.next (s.dpInstr die core slot tid pairs rounds f)) := by
  refine canonical_issue_of_mem h (fun s i => ?_)
  generalize (if rounds then i.t.dynRm else some .rne) = rm
  cases rm with
  | none => rfl
  | some rm => dsimp only; split <;> rfl

theorem canonical_sfe (die : Fin 8) (core : Fin 136) (opc : Nat) : Canonical (.next (s.sfe die core opc)) := canonical_next (State.sfe_wf h ..)

/-- A command of the data movers, whose operation only begins its work. -/
theorem canonical_mover {d k q opc n : Nat} {body : State → Desc → Nat} (work : State → Desc → List Xfer) (final : State → Desc → Nat) :
    Canonical (.next (s.engineOp d k q opc body (fun s x => s.beginWork d k n x.ticket (work s x) (final s x)))) :=
  canonical_next (State.engineOp_wf h (fun _ _ hs => State.beginWork_wf hs ..))

/-- A stitch that is taken from its adapter, under a condition. -/
theorem canonical_takeArrived {c : Prop} [Decidable c] {site plane k : Nat} {st : Stitch} {f : State → State} (hf : ∀ s, Memory.wf s.mem = true → Memory.wf (f s).mem = true) :
    Canonical (.next (if c then s.takeArrived site plane k st f else s)) :=
  canonical_ite (State.takeArrived_wf h hf) h

end

/-- Command by command: those that store nothing change the package alone; the others go through the operations that keep the form. -/
theorem exec_canonical (i : Instr) {s : State} (h : Memory.wf s.mem = true) : Canonical (exec i s) := by
  cases i with
  | frameSend => exact canonical_next h
  | frameReceive => exact canonical_ite h (State.receiveFrame_wf h ..)
  | streamResult => exact streamResult_canonical h ..
  | partialFlushTimeout => exact canonical_next (State.flushUnit_wf (by exact h) ..)
  | detWaitTimeout => exact canonical_next (State.flushSlots_wf h ..)
  | recallResponse => exact canonical_ite (State.recallAnswer_wf h ..) h
  | recallTimeout => exact recallTimeout_canonical h ..
  | zeroingDone => exact canonical_ite (State.resume_wf (s := { s with mem := _, chip := _ }) (memZero_wf h)) h
  | commandComplete => exact commandComplete_canonical h ..
  | queueTailWrite => exact queueTailWrite_canonical h ..
  | packetFetch => exact packetFetch_canonical h ..
  | cmdNop | getVersion | cqCreate | cqDestroy | syncAlloc | syncFree | signal | redCtxAlloc | redCtxFree | mcAlloc | mcFree | mcSet | mcClear | installSave | fwCommit
  | fwRatchet | pwrGet | pwrCap | pwrTarget | thmTripAck | thmGet => exact canonical_atOnce h ..
  | wait | bindOff | pkgReset | fwActivate => exact canonical_begin h _
  | redCtxFlush => exact redCtxFlush_canonical h ..
  | fmSend => exact fmSend_canonical h ..
  | launch => exact launch_canonical h ..
  | fwStage => exact fwStage_canonical h ..
  | secKeySet => exact secKeySet_canonical h ..
  | dma => exact dma_canonical h ..
  | partReset | partLeave | partFrog | partDigest | partFence => exact canonical_partCmd h _
  | partCreate => exact partCreate_canonical h ..
  | partStart => exact partStart_canonical h ..
  | partDestroy => exact partDestroy_canonical h ..
  | partJoin => exact partJoin_canonical h ..
  | noticeArrival => exact canonical_next (State.whenClear_wf h (State.noticeIn_wf h ..))
  | blockPlace => exact blockPlace_canonical h ..
  | epush => exact epush_canonical h ..
  | ewait => exact ewait_canonical h ..
  | epoll | tbar | texit | fwset | fenceG => exact canonical_issue_of_mem h (fun _ _ => rfl)
  | amoW => exact amoW_canonical h ..
  | amoD => exact amoD_canonical h ..
  | threadInstruction => exact canonical_next (State.issue_wf h (fun _ _ hs => State.riscv_wf hs ..))
  | sopRead | sopAdd | sopSet | sopWait | sopArrive | sopAcquire | sopRelease | sopRenew => exact canonical_sop h ..
  | faddDp | fsubDp | fmulDp | fmacDp | fdivDp | fsqrtDp | fminDp | fmaxDp | fcvtSDp | fcvtDpS | fcvtDpW | fcvtWDp | feqDp | fltDp | fleDp => exact canonical_dpInstr h ..
  | sfeExp | sfeLn | sfeRecip | sfeRsqrt | sfeSigmoid | sfeTanh | sfeGelu => exact canonical_sfe h ..
  | sfeRowmax | sfeExpsum => exact canonical_next (State.engineOp_wf h (fun _ _ hs => State.putAux_wf (State.sfeOut_wf hs ..) ..))
  | sfeScale => exact canonical_next (State.engineOp_wf h (fun _ _ hs => State.sfeOut_wf hs ..))
  | descriptorComplete => exact descriptorComplete_canonical h ..
  | gather | scatter | scatterAdd | dmeCopy | dmeReduce | dmeMcast | dmeStream | dmeFill | dmeAtomic => exact canonical_mover h _ _
  | mma => exact mma_canonical h ..
  | accLoad => exact canonical_ite h (State.engineOp_wf h (fun _ _ hs => hs))
  | accStore => exact accStore_canonical h ..
  | encode => exact encode_canonical h ..
  | decode => exact decode_canonical h ..
  | prune24 => exact prune24_canonical h ..
  | expand24 => exact expand24_canonical h ..
  | route => exact route_canonical h ..
  | digestComplete => exact digestComplete_canonical h ..
  | fabricPllLoss => exact fabricPllLoss_canonical h
  | refclkLost => exact canonical_ite rfl h
  | powerFail => exact canonical_ite rfl h
  | criticalTrip => exact canonical_ite h (State.critical_wf h ..)
  | sensorBroken => exact sensorBroken_canonical h ..
  | castOn => exact castOn_canonical h ..
  | warmCastOn => exact warmCastOn_canonical h
  | stitchArrival => exact canonical_ite h (State.takeArrived_wf h (fun _ hs => State.arrival_wf hs ..))
  | answerArrival => exact canonical_takeArrived h (fun _ hs => State.responseArrival_wf hs ..)
  | fillS | fillM | wb => exact canonical_takeArrived h (fun _ hs => State.arrival_wf hs ..)
  | pwrGoodRise => exact pwrGoodRise_canonical h ..
  | pwrGoodFall => exact pwrGoodFall_canonical h
  | pkgResetAssert => exact pkgResetAssert_canonical h
  | vioLoss => exact vioLoss_canonical h
  | rowBoundary => exact canonical_ite h (State.deliverReports_wf (State.combineOff_wf (by rwa [State.onChip_mem]) _))
  | _ => exact canonical_onChip h _

/-- Settles O45: a step runs the front command on the memory it finds, or passes a cycle, which leaves memory alone. -/
theorem memoryStaysCanonical : Obligations.MemoryStaysCanonical := by
  intro s t h e
  unfold step at e
  split at e
  · cases e
    exact h
  · next i rest _ =>
    obtain ⟨u, hu, wf⟩ := exec_canonical i (s := { s with pending := rest }) h
    cases hu.symm.trans e
    exact wf

end Sys2Proof.Machine
end

section
/-! Bytes of memory: what a read of a block gives, and what a write of bytes leaves at each of their addresses. -/

namespace Sys2Proof.Machine

@[simp] theorem memRead_length (m : List Host.Cell) : ∀ (a n : Nat), (memRead m a n).length = n
  | _, 0 => rfl
  | a, n + 1 => congrArg (· + 1) (memRead_length m (a + 1) n)

theorem memRead_getD (m : List Host.Cell) : ∀ (a n i : Nat), i < n → (memRead m a n).getD i 0 = (memGet m (a + i)).toNat
  | _, 0, _, h => absurd h (Nat.not_lt_zero _)
  | _, _ + 1, 0, _ => rfl
  | a, n + 1, i + 1, h => by
    rw [memRead, List.getD_cons_succ, memRead_getD m (a + 1) n i (by omega), Nat.add_right_comm, Nat.add_assoc]

/-- A byte reads as the last write of bytes over it left it. -/
theorem memGet_memWrite_of_inside {a' : Nat} : ∀ {bs : List Nat} {a : Nat} {m : List Host.Cell}, Memory.wf m = true → a ≤ a' → a' < a + bs.length →
    memGet (memWrite m a bs) a' = BitVec.ofNat 8 (bs.getD (a' - a) 0)
  | [], _, _, _, hlo, hhi => absurd hhi (by simpa using hlo)
  | b :: bs, a, m, w, hlo, hhi => by
    rw [List.length_cons] at hhi
    rw [memWrite]
    by_cases h : a' = a
    · subst h
      rw [memGet_memWrite_of_outside (.inl (by omega)), memGet_memPut_self w, Nat.sub_self, List.getD_cons_zero]
    · rw [memGet_memWrite_of_inside (memPut_wf w (Nat.zero_le a)) (by omega) (by omega), show a' - a = a' - (a + 1) + 1 by omega, List.getD_cons_succ]

@[simp] theorem padTo_length (n : Nat) (l : List Nat) : (padTo n l).length = n := by
  simp only [padTo, List.length_append, List.length_take, List.length_replicate]
  omega

theorem padTo_getD {n i : Nat} (l : List Nat) (h : i < n) : (padTo n l).getD i 0 = l.getD i 0 := by
  grind [padTo]

theorem take_drop_getD {n k i : Nat} (l : List Nat) (h : i < n) : ((l.drop k).take n).getD i 0 = l.getD (k + i) 0 := by
  rw [List.getD_eq_getElem?_getD, List.getElem?_take_of_lt h, List.getElem?_drop, List.getD_eq_getElem?_getD]

/-- A block's covered bytes are its own from START to START + COUNT_M1, and zero elsewhere (R254). -/
theorem coveredBytes_getD (st : Stitch) (block : List Nat) (i : Nat) :
    (coveredBytes st block).getD i 0 = if st.start ≤ i ∧ i ≤ st.start + st.countM1 then block.getD i 0 else 0 := by
  grind [coveredBytes]

end Sys2Proof.Machine
end

section
/-! Loads and stores at the owning site (R254, R255). -/

namespace Sys2Proof.Machine

/-- An access that meets no error finds nothing to count or retire. -/
@[simp] theorem Chip.eccFound_zero (c : Chip) (a opcode tenant : Nat) : c.eccFound a 0 opcode tenant = c := if_pos rfl

@[simp] theorem Chip.snoopCounts_xport (c : Chip) : c.snoopCounts.xport = c.xport := by
  unfold Chip.snoopCounts
  exact each_keeps Chip.xport (fun _ _ d => d.wr_xport ..) c

@[simp] theorem Chip.snoopAdd_xport (c : Chip) (a view tenant die : Nat) (mod : Bool) : (c.snoopAdd a view tenant die mod).xport = c.xport := Chip.snoopCounts_xport _

/-- HBM and stacked SRAM are not ranges of a device. -/
theorem not_device {r : Range} : r = .hbm ∨ r = .sram → r ≠ .cxl ∧ r ≠ .mmio := by
  rintro (rfl | rfl) <;> decide

section

variable {s : State} {place : Nat} {st : Stitch} (hrange : rangeOf place = .hbm ∨ rangeOf place = .sram) (hgood : s.chip.placeGood place = true)

include hrange hgood

/-- A LOAD at a good place of HBM or stacked SRAM is answered with the block's covered bytes; it may enter its line in the snoop filter. -/
theorem doStitch_load (site : Nat) (hop : st.opcode = opLOAD) : ∃ (c : Chip) (opf : Nat), c.xport = s.chip.xport ∧
    s.doStitch site 0 place st =
      { s with chip := c.send site (Stitch.sealed { responseTo site st opLOAD_RSP (coveredBytes st (memRead s.mem place 64)) with opf := opf }) } := by
  obtain ⟨hcxl, hmmio⟩ := not_device hrange
  simp only [State.doStitch, beq_eq_false_iff_ne.mpr hcxl, beq_eq_false_iff_ne.mpr hmmio, hmmio, hgood, hop, Chip.eccFound_zero, Bool.or_false, Bool.false_and,
    Bool.false_eq_true, ne_eq, not_true_eq_false, show ¬ 2 ≤ 0 by decide, and_false, ite_self, if_true, if_false]
  refine ⟨_, _, ?_, rfl⟩
  split
  · rfl
  · exact Chip.snoopAdd_xport ..

theorem doStitch_store_mem (site : Nat) (hop : st.opcode = opSTORE) :
    (s.doStitch site 0 place st).mem = memWrite s.mem (place + st.start) (((padTo 64 st.data).drop st.start).take (st.countM1 + 1)) := by
  obtain ⟨hcxl, hmmio⟩ := not_device hrange
  have hload : opSTORE ≠ opLOAD := by decide
  have hatomic : opSTORE ≠ opATOMIC := by decide
  simp [State.doStitch, hcxl, hmmio, hgood, hop, hload, hatomic]

end

/-- Settles O56: a LOAD sends the covered bytes of the block that memory holds; a STORE writes those of its data, and no other address. -/
theorem loadsReadAndStoresWriteTheirBytes : Obligations.LoadsReadAndStoresWriteTheirBytes := by
  refine ⟨fun s site place st hop hfit hrange hgood => ?load, fun s site place st a hop hfit hrange hgood hwf => ?store⟩
  case load =>
    obtain ⟨c, opf, hx, e⟩ := doStitch_load hrange hgood site hop
    refine ⟨c, Stitch.sealed { responseTo site st opLOAD_RSP (coveredBytes st (memRead s.mem place 64)) with opf := opf }, by rw [e], hx, rfl, rfl, rfl, rfl, rfl, rfl,
      padTo_length .., fun i hi => ?_, by rw [e]⟩
    calc (padTo 64 (coveredBytes st (memRead s.mem place 64))).getD i 0
        = (coveredBytes st (memRead s.mem place 64)).getD i 0 := padTo_getD _ hi
      _ = if st.start ≤ i ∧ i ≤ st.start + st.countM1 then (memRead s.mem place 64).getD i 0 else 0 := coveredBytes_getD ..
      _ = if st.start ≤ i ∧ i ≤ st.start + st.countM1 then (memGet s.mem (place + i)).toNat else 0 := by rw [memRead_getD _ _ _ _ hi]
  case store =>
    rw [doStitch_store_mem hrange hgood site hop]
    have hlen : (((padTo 64 st.data).drop st.start).take (st.countM1 + 1)).length = st.countM1 + 1 := by
      rw [List.length_take, List.length_drop, padTo_length]
      omega
    split
    case isTrue inside =>
      obtain ⟨hlo, hhi⟩ := inside
      rw [memGet_memWrite_of_inside hwf hlo (by omega), take_drop_getD _ (by omega), show st.start + (a - (place + st.start)) = a - place by omega]
    case isFalse outside =>
      exact memGet_memWrite_of_outside (by omega)

end Sys2Proof.Machine
end

section
/-! A recall behind a message that is entering (R154, R403). -/

namespace Sys2Proof.Machine

/-- The first line of the CXL window of slot 0, whose owner is host I/O site H0 (R407). -/
def cxlLine : BitVec 46 := 0x100000000000

/-- Slot 0 lets the processor dies cache its CXL window; die 1 holds the line modified, an access of the package waits for it at H0, and a message of partition 1 is entering in the flow from
H0 to this node. -/
def recallBehindMessage : State :=
  { State.reset with chip := ((State.reset.chip.wr (R.HIO_SLOT_CFG_CXL_CACHE 0) 1).onMems (fun m =>
      { m with snoop := [⟨cxlLine.toNat, cxlLine.toNat, 1, [1], some 1⟩], parked := [⟨22, .probe, cxlLine.toNat, [1], false, false, none, 0⟩] })).onXport (fun x =>
      { x with sends := [{ enteringMessage with site := 22, tag := ⟨0, 22, 1, 0⟩ }] }) }

/-- The recall is wanted, none is on its way, and the outstanding table has room. -/
theorem recallBehindMessage_wanted :
    recallBehindMessage.chip.snoopAt (lineOf cxlLine.toNat) = some ⟨cxlLine.toNat, cxlLine.toNat, 1, [1], some 1⟩
      ∧ recallBehindMessage.chip.recallWanted 22 1 (lineOf cxlLine.toNat) false = true
      ∧ recallBehindMessage.chip.mems.recalls.any (fun r => r.site == 22 && r.die == 1 && r.line == lineOf cxlLine.toNat) = false
      ∧ recallBehindMessage.chip.outRoom 22 recallBehindMessage.chip.node 1 = true := by decide +kernel

/-- The recall waits behind the message (R154): none is noted. -/
theorem recallBehindMessage_waits : (recallBehindMessage.chip.sendRecall 22 1 (lineOf cxlLine.toNat) false).mems.recalls = [] := by decide +kernel

theorem exec_recallInv (site : Fin 24) (die : Fin 2) (line : BitVec 46) (s : State) :
    exec (.recallInv site die line) s = .next (s.onChip (fun c => c.sendRecall site.val die.val (lineOf line.toNat) false)) := rfl

/-- Refutes O19: its clause of RECALL_INV asks that a recall that is wanted goes out whenever the outstanding table has room. While a message of the recall's flow is entering, the recall waits
for the message's last stitch (R154), for the stitches of a message take consecutive sequences. -/
theorem not_memorySiteCommandsComplete : ¬ Obligations.MemorySiteCommandsComplete := by
  rintro ⟨-, -, -, -, -, -, -, -, hrecall, -⟩
  obtain ⟨hentry, hwanted, hnone, hroom⟩ := recallBehindMessage_wanted
  obtain ⟨t, hexec, hnoted, -⟩ := hrecall 22 1 cxlLine _ recallBehindMessage hentry hwanted hnone hroom
  obtain rfl := Host.Outcome.next.inj ((exec_recallInv ..).symm.trans hexec)
  exact List.append_ne_nil_of_right_ne_nil _ (List.cons_ne_nil _ _) (hnoted.symm.trans recallBehindMessage_waits)

end Sys2Proof.Machine
end

section
/-! The passing of a fabric cycle (R294). -/

namespace Sys2Proof.Machine

theorem step_of_empty {s : State} (h : s.pending = []) : step s = .next { s with chip := s.chip.tick } := by
  unfold step
  rw [h]

theorem tick_of_idle {c : Chip} (h : c.rowsRun = false ∨ 2047 ≤ c.cyc) : c.tick = c :=
  if_neg (by rcases h with h | h <;> simp [h])

theorem tick_of_runs {c : Chip} (hrun : c.rowsRun = true) (h : c.cyc < 2047) :
    c.tick = if c.cyc + 1 = 2000 then ({ c with cyc := c.cyc + 1 } : Chip).atMarker else { c with cyc := c.cyc + 1 } :=
  if_pos (by simp [hrun]; omega)

/-- Settles O43: the cycle goes on where rows run and the row has one left; at cycle 2,000 the marker's notes are made with it. -/
theorem emptyQueueCountsACycle : Obligations.EmptyQueueCountsACycle := by
  refine ⟨fun s hqueue hrun hlast hmarker => ?_, fun s hqueue hrun hmarker => ?_, fun s hqueue hidle => ?_⟩ <;> rw [step_of_empty hqueue]
  · rw [tick_of_runs hrun hlast, if_neg (by omega)]
  · rw [tick_of_runs hrun (by omega), if_pos (by omega), hmarker]
  · rw [tick_of_idle hidle]

end Sys2Proof.Machine
end

section
/-! The answers of the sync store (R285 to R288): what a change of an object leaves of what an answer is made from. -/

namespace Sys2Proof.Machine

/-- What an answer of the sync store is made from and goes to: the number of the node, the time, and the transport between sites. -/
def Chip.answering (c : Chip) : Nat × Nat × Xport := (c.node, c.now, c.xport)

theorem syncCounts_answering (c : Chip) : c.syncCounts.answering = c.answering := by
  have same : c.syncCounts.node = c.node := (rd_wr_of_ne (by decide)).trans ((rd_wr_of_ne (by decide)).trans (rd_wr_of_ne (by decide)))
  exact congrArg (fun n => (n, c.now, c.xport)) same

theorem armResult_answering (c : Chip) (t status p : Nat) : (c.armResult t status p).answering = c.answering := by
  have same : (c.armResult t status p).node = c.node := by
    unfold Chip.node Chip.rd
    rw [word_armResult (by simp only [R.CIRC_ARM_RESULT, R.ROUTE_NODE]; omega)]
  exact congrArg (fun n => (n, c.now, c.xport)) same

theorem trigger183_answering (c : Chip) (t : Nat) : (c.trigger183 t).answering = c.answering := by
  unfold Chip.trigger183
  split
  · rfl
  · split
    · rfl
    · dsimp only
      split
      · exact armResult_answering ..
      · rfl

theorem triggerAll_answering (c : Chip) (p : ArmedPattern → Bool) : (c.triggerAll p).answering = c.answering :=
  each_keeps Chip.answering (fun a _ c => by
    split
    · exact trigger183_answering c a.tenant
    · rfl) c

/-- With no wait held, no answer goes out at an object's new value. -/
theorem signalled_answering {c : Chip} (n : Nat) (o o' : SyncObj) (h : c.sync.waits = []) : (c.signalled n o o').answering = c.answering := by
  unfold Chip.signalled
  split
  · rfl
  · unfold Chip.setObj
    rw [triggerAll_answering, syncCounts_answering, h]
    rfl

/-- The SYNC_RSP that answers a stitch with a code and the object before and after (R285). -/
def syncRsp (st : Stitch) (code : Nat) (before after : SyncObj) : Stitch :=
  responseTo 31 { st with start := 0, countM1 := 63 } opSYNC_RSP ([code] ++ List.replicate 7 0 ++ syncBytes (some before) ++ syncBytes (some after))

/-- A response of the service to its own node has arrived at its site as it is sent, stamped, for it goes by the control network (R146, R149). -/
theorem send_fromService {c : Chip} {st : Stitch} (hresponse : opResponse st.opcode = true) (hhere : st.dstNode = c.node) :
    c.send 31 st = c.onXport (fun x => { x with arrived := x.arrived ++ [⟨st.dstSite, 63, 31, c.stamped st⟩] }) := by
  have here : (c.stamped st).dstNode = c.node := hhere
  simp only [Chip.send, hresponse, Bool.true_or, if_true, bne_self_eq_false, Bool.and_false, Bool.false_and, Bool.false_eq_true, if_false, here, true_or, and_self]
  rfl

theorem answerWait_ofHere {c : Chip} {st : Stitch} (code : Nat) (before after : SyncObj) (h : st.srcNode = c.node) :
    c.answerWait (.stitch st) code (some before) (some after) = c.onXport (fun x => { x with arrived := x.arrived ++ [⟨st.srcSite, 63, 31, c.stamped (syncRsp st code before after)⟩] }) :=
  send_fromService (st := syncRsp st code before after) rfl h

theorem stamped_congr {c d : Chip} (h : d.now = c.now) (st : Stitch) : d.stamped st = c.stamped st := by
  unfold Chip.stamped
  rw [h]

/-- A function's answer is what `syncAnswered` asks of the next state. -/
theorem syncAnswered_of_syncAnswer {s : State} {st : Stitch} {o o' : SyncObj} {code : Nat} (hobj : s.chip.obj st.sync = some o) (hhere : st.srcNode = s.chip.node)
    (hwaits : s.chip.sync.waits = [] ∨ o' = o) : syncAnswered s (s.onChip (fun c => c.syncAnswer st o o' code)) st o o' code := by
  have kept : (s.chip.signalled st.sync o o').answering = s.chip.answering := by
    rcases hwaits with h | h
    · exact signalled_answering _ _ _ h
    · rw [Chip.signalled, if_pos h]
  have hnode : (s.chip.signalled st.sync o o').node = s.chip.node := congrArg Prod.fst kept
  have hnow : (s.chip.signalled st.sync o o').now = s.chip.now := congrArg (fun y => y.2.1) kept
  have hxport : (s.chip.signalled st.sync o o').xport = s.chip.xport := congrArg (fun y => y.2.2) kept
  have answered : s.chip.syncAnswer st o o' code = _ := answerWait_ofHere (c := s.chip.signalled st.sync o o') code o o' (hhere.trans hnode.symm)
  refine ⟨?_, ?_, onlyChip_onChip ..⟩ <;> rw [State.onChip_chip, answered]
  · exact obj_signalled o' hobj
  · rw [Chip.onXport_xport, hxport, stamped_congr hnow]
    rfl

end Sys2Proof.Machine
end

section
/-! The functions of SYNC_OP (R284 to R288). -/

namespace Sys2Proof.Machine

/-- A SYNC_OP of the object's tenant has its function. -/
theorem syncOp_of_tenant {c : Chip} {st : Stitch} {o : SyncObj} (fn : Nat) (hobj : c.obj st.sync = some o) (htenant : o.tenant = st.tenant) : c.syncOp fn st = c.syncFunction fn st o := by
  unfold Chip.syncOp
  rw [hobj]
  exact if_pos htenant

section
variable {s : State} {st : Stitch} {o : SyncObj} {i : Instr} {fn : Nat} {o' : SyncObj} {code : Nat} (hexec : exec i s = .next (s.onChip (fun c => c.syncOp fn st)))
  (hobj : s.chip.obj st.sync = some o) (htenant : o.tenant = st.tenant)

include hexec

/-- Whatever the object, a function changes the package alone. -/
theorem completes_syncOp : completes i s (fun t => t.chip = s.chip.syncOp fn st ∧ onlyChip s t) :=
  completes_of_exec hexec ⟨State.onChip_chip .., onlyChip_onChip ..⟩

include hobj htenant

theorem completes_syncFunction {post : State → Prop} (hpost : post (s.onChip (fun c => c.syncFunction fn st o))) : completes i s post := by
  refine completes_of_exec hexec ?_
  rwa [State.onChip, syncOp_of_tenant fn hobj htenant]

/-- A function that answers at once, where no wait is held or the object keeps its value. -/
theorem completes_syncAnswer (hhere : st.srcNode = s.chip.node) (hwaits : s.chip.sync.waits = [] ∨ o' = o) (hfn : s.chip.syncFunction fn st o = s.chip.syncAnswer st o o' code) :
    completes i s (fun t => syncAnswered s t st o o' code) := by
  refine completes_syncFunction hexec hobj htenant ?_
  rw [State.onChip, hfn]
  exact syncAnswered_of_syncAnswer hobj hhere hwaits

end

theorem onSync_firstWait {c : Chip} {w : HeldWait} (h : c.sync.waits = []) :
    c.onSync (fun y => { y with waits := y.waits ++ [w] }) = c.onSync (fun y => { y with waits := [w] }) := by
  simp only [Chip.onSync, h, List.nil_append]

/-- SYNC_ADD on a counter or completion counter (R285). -/
theorem syncFunction_add {c : Chip} {st : Stitch} {o : SyncObj} (h : o.kind = 1 ∨ o.kind = 2) :
    c.syncFunction 0x01 st o = c.syncAnswer st o (SyncObj.reeval { o with count := (o.count + syncValue st) % 2 ^ 48 }) srDONE := by
  simp [Chip.syncFunction, h]

/-- Settles O20: the conditions of each clause select one branch of its function, which answers with the object's new value. -/
theorem syncFunctionsComplete : Obligations.SyncFunctionsComplete := by
  refine ⟨fun st o s hobj htenant hhere hwaits => completes_syncAnswer rfl hobj htenant hhere (.inl hwaits) rfl, fun st s => completes_syncOp rfl,
   fun st o s hobj htenant hhere hwaits hkind => completes_syncAnswer rfl hobj htenant hhere (.inl hwaits) (syncFunction_add hkind),
   fun st o s hobj htenant hhere hwaits hkind => completes_syncAnswer rfl hobj htenant hhere (.inl hwaits) ?addWrong, fun st s => completes_syncOp rfl,
   fun st o s hobj htenant hhere hwaits hkind => completes_syncAnswer rfl hobj htenant hhere (.inl hwaits) ?set, fun st s => completes_syncOp rfl,
   fun st o s hobj htenant hhere hwaits hkind => completes_syncAnswer rfl hobj htenant hhere (.inl hwaits) ?arm, fun st s => completes_syncOp rfl,
   fun st o s hobj htenant hhere hcond hholds => completes_syncAnswer rfl hobj htenant hhere (.inr rfl) ?wait,
   fun st o s hobj htenant hcond hholds hwaits => ?held, fun st s => completes_syncOp rfl,
   fun st o s hobj htenant hhere hwaits hkind hfull => completes_syncAnswer rfl hobj htenant hhere (.inl hwaits) ?arriveFull,
   fun st o s hobj htenant hhere hwaits hkind hmore hstay => completes_syncAnswer rfl hobj htenant hhere (.inl hwaits) ?arrive, fun st s => completes_syncOp rfl,
   fun st o s hobj htenant hhere hwaits hkind hnone => completes_syncAnswer rfl hobj htenant hhere (.inl hwaits) ?parties, fun st s => completes_syncOp rfl,
   fun st o s hobj htenant hhere hwaits hkind hfree hfresh hlease => completes_syncAnswer rfl hobj htenant hhere (.inl hwaits) ?acquire,
   fun st o s hobj htenant hhere hkind hheld => completes_syncAnswer rfl hobj htenant hhere (.inr rfl) ?acquireBusy, fun st s => completes_syncOp rfl,
   fun st o s hobj htenant hhere hwaits hkind howned => completes_syncAnswer rfl hobj htenant hhere (.inl hwaits) ?release,
   fun st o s hobj htenant hhere hkind howned => completes_syncAnswer rfl hobj htenant hhere (.inr rfl) ?releaseOther, fun st s => completes_syncOp rfl,
   fun st o s hobj htenant hhere hwaits hkind howned hleased hlease => completes_syncAnswer rfl hobj htenant hhere (.inl hwaits) ?renew, fun st s => completes_syncOp rfl⟩
  case addWrong =>
    rcases hkind with h | h <;> simp [Chip.syncFunction, h]
  case set => simp [Chip.syncFunction, hkind]
  case arm => simp [Chip.syncFunction, hkind]
  case wait =>
    refine (wait_of_holds (.stitch st) (syncLimit st) hobj hcond hholds).trans ?_
    exact (congrArg (fun c : Chip => c.answerWait (.stitch st) srDONE (some o) (some o)) (if_pos rfl)).symm
  case held =>
    refine completes_syncFunction (fn := 0x04) rfl hobj htenant ?_
    have held : s.chip.syncFunction 0x04 st o = _ := wait_of_held (.stitch st) (syncLimit st) hobj hcond hholds (by simp [hwaits])
    rw [State.onChip, held, onSync_firstWait hwaits]
    exact ⟨rfl, rfl, rfl, rfl⟩
  case arriveFull => simp [Chip.syncFunction, hkind, hfull]
  case arrive => simp [Chip.syncFunction, hkind, hmore, hstay]
  case parties => simp [Chip.syncFunction, hkind, hnone]
  case acquire => simp [Chip.syncFunction, hkind, hfree, hfresh, hlease]
  case acquireBusy => simp [Chip.syncFunction, hkind, hheld]
  case release => simp [Chip.syncFunction, hkind, howned]
  case releaseOther => simp [Chip.syncFunction, hkind, howned]
  case renew => simp [Chip.syncFunction, hkind, howned, hleased, hlease, Chip.leaseEnd]

end Sys2Proof.Machine
end

section
/-! The object in an answer DONE (R281, R287). -/

namespace Sys2Proof.Machine

/-- A condition that is defined for an object is one of the five (R286). -/
theorem cond_le_of_holds {o : SyncObj} {cond value : Nat} {b : Bool} (h : o.holds cond value = some b) : cond ≤ 4 := by
  by_contra hcond
  unfold SyncObj.holds at h
  simp only [show cond ≠ 0 by omega, show cond ≠ 1 by omega, show cond ≠ 2 by omega, show cond ≠ 3 by omega, show cond ≠ 4 by omega, if_false, reduceCtorEq] at h

/-- The counters and completion counters whose kind, tenant and ERROR fit the fields of word 0 (R281). -/
def SyncObj.fitsWord (o : SyncObj) : Prop := (o.kind = 1 ∨ o.kind = 2) ∧ o.error < 256 ∧ o.kind * 16 + o.tenant < 256

/-- ERROR is bits 55 to 48 of word 0 of a counter (R281). -/
theorem fget_word0_error {o : SyncObj} (h : o.fitsWord) : fget (o.word0 % 2 ^ 64) 55 48 = o.error := by
  obtain ⟨hkind, herror, htenant⟩ := h
  unfold SyncObj.word0 fget
  rw [if_neg (by omega), if_neg (by omega)]
  omega

/-- A new count leaves kind, tenant and ERROR. -/
theorem fitsWord_reeval {o : SyncObj} (n : Nat) (h : o.fitsWord) : (SyncObj.reeval { o with count := n }).fitsWord := by
  unfold SyncObj.reeval
  split <;> exact h

theorem length_syncBytes (o : SyncObj) : (syncBytes (some o)).length = 16 := by simp [syncBytes]

/-- The 40 bytes of an answer, with the object before and after, and zeros up to the block's end (R285). -/
theorem syncRsp_data (st : Stitch) (code : Nat) (before after : SyncObj) :
    (syncRsp st code before after).data = code :: List.replicate 7 0 ++ syncBytes (some before) ++ (leBytes 8 after.word0 ++ leBytes 8 after.word1 ++ List.replicate 24 0) := by
  have full : ([code] ++ List.replicate 7 0 ++ syncBytes (some before) ++ syncBytes (some after)).length = 40 := by
    simp only [List.length_append, length_syncBytes, List.length_replicate, List.length_singleton]
  show padTo 64 _ = _
  rw [padTo, full, List.take_of_length_le (by omega)]
  simp [syncBytes]

/-- What an answer carries of the object after the function: its two words in bytes 24 to 39 (R285). -/
theorem syncRsp_carries (st : Stitch) (code : Nat) (before : SyncObj) {after : SyncObj} (h : after.fitsWord) :
    (syncRsp st code before after).data.getD 0 0 = code ∧ ((syncRsp st code before after).data.drop 24).take 16 = leBytes 8 after.word0 ++ leBytes 8 after.word1
      ∧ fget (leField (syncRsp st code before after).data 24 8) 55 48 = after.error := by
  have front : (code :: List.replicate 7 0 ++ syncBytes (some before)).length = 24 := by simp [length_syncBytes]
  rw [syncRsp_data]
  refine ⟨rfl, ?_, ?_⟩
  · rw [List.drop_left' front, List.take_left' (by simp)]
  · rw [← Nat.add_zero 24, leField_behind front, List.append_assoc, leField_front]
    exact fget_word0_error h

/-- What the statement asks of an answer: a SYNC_RSP of a request that carries DONE and an object. -/
def carriesDone (a : Arrived) (st : Stitch) (o : SyncObj) : Prop :=
  a.st.opcode = opSYNC_RSP ∧ a.st.seq = st.seq ∧ a.st.dstSite = st.srcSite ∧ a.st.data.getD 0 0 = srDONE
    ∧ (a.st.data.drop 24).take 16 = leBytes 8 o.word0 ++ leBytes 8 o.word1 ∧ fget (leField a.st.data 24 8) 55 48 = o.error

theorem carriesDone_syncRsp (c : Chip) (site : Nat) (st : Stitch) (before : SyncObj) {o : SyncObj} (h : o.fitsWord) :
    carriesDone ⟨site, 63, 31, c.stamped (syncRsp st srDONE before o)⟩ st o :=
  ⟨rfl, rfl, rfl, syncRsp_carries st srDONE before h⟩

/-- A stitch that is sent takes away none that has arrived. -/
theorem mem_arrived_send {c : Chip} {a : Arrived} (site : Nat) (st : Stitch) (h : a ∈ c.xport.arrived) : a ∈ (c.send site st).xport.arrived := by
  unfold Chip.send
  extract_lets st'
  split
  · exact h
  · split
    · exact List.mem_append_left _ h
    · exact h

/-- A held wait of this node, which the object's new value satisfies, is answered as the object takes it (R286). -/
theorem arrived_setObj {c : Chip} {w : Stitch} {n : Nat} {o : SyncObj} {row limit : Nat} (hhere : w.srcNode = c.node) (hholds : o.holds (syncCond w) (syncValue w) = some true)
    (hwaits : c.sync.waits = [⟨n, .stitch w, syncCond w, syncValue w, row, limit, none⟩]) :
    (c.setObj n o).xport.arrived = c.xport.arrived ++ [⟨w.srcSite, 63, 31, c.stamped (syncRsp w srDONE o o)⟩] := by
  have counted := congrArg (fun y => y.2.2.arrived) (((triggerAll_answering ..).trans (syncCounts_answering _) : (c.setObj n o).answering = _))
  refine counted.trans ?_
  rw [hwaits]
  simp only [List.filter_cons, beq_self_eq_true, hholds, Bool.and_self, if_true, List.filter_nil, Chip.each, List.foldl_cons, List.foldl_nil, Option.none_or]
  rw [answerWait_ofHere srDONE o o (by exact hhere)]
  rfl

/-- Settles O57: the answer to a wait is made from the object as it is then, whether the wait's condition holds at once or from a later function. -/
theorem waitsAnsweredDoneCarryTheObject : Obligations.WaitsAnsweredDoneCarryTheObject := by
  refine ⟨fun st o s hobj htenant hhere hkind herror hfits hholds => ?_, fun st w o o' row limit s hobj htenant hhere _ hkind herror hfits ho' hnew hholds hwaits => ?_⟩
  · refine completes_syncFunction (fn := 0x04) rfl hobj htenant ?_
    have answered : s.chip.syncFunction 0x04 st o = _ := wait_of_holds (.stitch st) (syncLimit st) hobj (cond_le_of_holds hholds) hholds
    rw [State.onChip_chip, answered, answerWait_ofHere srDONE o o hhere]
    exact ⟨_, List.mem_append_right _ (List.mem_singleton_self _), carriesDone_syncRsp s.chip st.srcSite st o ⟨hkind, herror, hfits⟩⟩
  · refine completes_syncFunction (fn := 0x01) rfl hobj htenant ?_
    have fits : o'.fitsWord := ho' ▸ fitsWord_reeval _ ⟨hkind, herror, hfits⟩
    have added : s.chip.syncFunction 0x01 st o = (s.chip.setObj st.sync o').answerWait (.stitch st) srDONE (some o) (some o') := by
      rw [syncFunction_add hkind, ← ho', Chip.syncAnswer, if_neg hnew]
    rw [State.onChip_chip, added]
    refine ⟨_, mem_arrived_send 31 _ ?_, carriesDone_syncRsp s.chip w.srcSite w o' fits⟩
    rw [arrived_setObj hhere hholds hwaits]
    exact List.mem_append_right _ (List.mem_singleton_self _)

end Sys2Proof.Machine
end

section
/-! The end of a holdover (R299 step 5): a neighbour advertises a source whose priority equals the package's own. -/

namespace Sys2Proof.Machine

/-- What the partner of port 4 advertises: a source with priority 9, node 7. -/
def sourceOfEqualPriority : TimeEnd := { port := 4, state := tsSOURCE, priority := 9, hops := 0, source := 7, agree := true, theta := 0 }

/-- Node 0, with PRIORITY 9, has been in holdover for longer than HOLDOVER, and port 4 advertises that source. -/
def holdoverTie : State :=
  { State.reset with chip := ((({ State.reset.chip with row := 2 ^ 40 } : Chip).wr R.TIME_STATUS_STATE tsHOLDOVER).wr R.TIME_CFG_PRIORITY 9).onTime (fun x => { x with ends := [sourceOfEqualPriority] }) }

/-- The holdover is over, and the package's node number is the smaller one. -/
theorem holdoverTie_over :
    holdoverTie.chip.rd R.TIME_STATUS_STATE = tsHOLDOVER ∧ holdoverTie.chip.time.heldSince + holdoverTie.chip.rd R.TIME_CFG_HOLDOVER * 1000000000 ≤ holdoverTie.chip.now
      ∧ holdoverTie.chip.rd R.TIME_CFG_PRIORITY < 255
      ∧ holdoverTie.chip.time.ends.all (fun e => e.state == tsFREE || betterSource (holdoverTie.chip.rd R.TIME_CFG_PRIORITY) holdoverTie.chip.node e.priority e.source) = true := by decide

/-- PRIORITY 9 is not better than 9. -/
theorem holdoverTie_notBetter :
    ¬ (holdoverTie.chip.rd R.TIME_CFG_PRIORITY < 0xFF ∧ holdoverTie.chip.time.ends.all (fun e => e.state == tsFREE || decide (holdoverTie.chip.rd R.TIME_CFG_PRIORITY < e.priority)) = true) := by
  decide

/-- At the end of a holdover a package that has no better priority than every source that is advertised has no system time any more (R299 step 5). -/
theorem exec_holdoverTimeout_free {s : State} (hstate : s.chip.rd R.TIME_STATUS_STATE = tsHOLDOVER)
    (htime : s.chip.time.heldSince + s.chip.rd R.TIME_CFG_HOLDOVER * 1000000000 ≤ s.chip.now)
    (hpriority : ¬ (s.chip.rd R.TIME_CFG_PRIORITY < 0xFF ∧ s.chip.time.ends.all (fun e => e.state == tsFREE || decide (s.chip.rd R.TIME_CFG_PRIORITY < e.priority)) = true)) :
    exec .holdoverTimeout s = .next (s.onChip Chip.becomeFree) := by
  show execHoldoverTimeout s = _
  dsimp only [execHoldoverTimeout, State.onChip]
  rw [if_pos ⟨hstate, htime⟩, if_neg hpriority]

theorem holdoverTie_free : holdoverTie.chip.becomeFree.rd R.TIME_STATUS_STATE = tsFREE := by decide

/-- Refutes O21: the clause on the end of a holdover that makes the package source compares priorities with the node numbers behind them. R299 step 5 asks for a PRIORITY that is better than that
of every source the neighbours advertise; the package of equal priority and smaller node number becomes free-run. -/
theorem not_landingsWaitsLeasesAndTimeComplete : ¬ Obligations.LandingsWaitsLeasesAndTimeComplete := by
  rintro ⟨-, -, -, -, -, -, -, -, -, -, hsource, -⟩
  obtain ⟨hstate, htime, hbelow, hbetter⟩ := holdoverTie_over
  obtain ⟨t, hexec, hbecomes, -⟩ := hsource holdoverTie hstate htime hbelow hbetter
  obtain rfl := Host.Outcome.next.inj ((exec_holdoverTimeout_free hstate htime holdoverTie_notBetter).symm.trans hexec)
  exact absurd (holdoverTie_free.symm.trans hbecomes) (by decide)

end Sys2Proof.Machine
end

section
/-! The row clock in register accesses and in what a register does about a write. Here and below the many small lemmas are elaborated one after another, which needs less memory. -/

namespace Sys2Proof.Machine

set_option Elab.async false

/-- The row counter and the fabric cycle that a row clock shows. -/
def rowAndCycle (k : Nat × Nat × Bool × Option Int) : Nat × Nat := (k.1, k.2.1)

@[simp] theorem rowAndCycle_fields (c : Chip) (b : Bool) (o : Option Int) : rowAndCycle (c.row, c.cyc, b, o) = rowAndCycle c.clock := rfl

@[simp] theorem rowAndCycle_ite (p : Prop) [Decidable p] (k l : Nat × Nat × Bool × Option Int) : rowAndCycle (if p then k else l) = if p then rowAndCycle k else rowAndCycle l :=
  apply_ite ..

@[simp] theorem Chip.onTime_rowAndCycle (c : Chip) (g : TimeSvc → TimeSvc) : rowAndCycle (c.onTime g).clock = rowAndCycle c.clock := rfl

@[simp] theorem State.onChip_clock (s : State) (f : Chip → Chip) : (s.onChip f).chip.clock = (f s.chip).clock := (rfl)

/-- What a register does about a write keeps the row clock, whether it takes the write or ignores it. -/
def WriteHook.KeepsClock (h : WriteHook) : Prop := (∀ c, (h.ignored c).clock = c.clock) ∧ ∀ c, (h.effect c).clock = c.clock

@[simp] theorem keepsClock_mk (b : Bool) (f g : Chip → Chip) : (WriteHook.mk b f g).KeepsClock ↔ (∀ c, (f c).clock = c.clock) ∧ ∀ c, (g c).clock = c.clock := Iff.rfl

@[simp] theorem keepsClock_plain : WriteHook.plain.KeepsClock := ⟨fun _ => rfl, fun _ => rfl⟩

@[simp] theorem keepsClock_does (f : Chip → Chip) : (WriteHook.does f).KeepsClock ↔ ∀ c, (f c).clock = c.clock := ⟨fun h => h.2, fun h => ⟨fun _ => rfl, h⟩⟩

@[simp] theorem Chip.onAcc_clock (c : Chip) (g : Access → Access) : (c.onAcc g).clock = c.clock := (rfl)
@[simp] theorem Chip.onPcu_clock (c : Chip) (g : Pcus → Pcus) : (c.onPcu g).clock = c.clock := (rfl)
@[simp] theorem Chip.onCmd_clock (c : Chip) (g : Commands → Commands) : (c.onCmd g).clock = c.clock := (rfl)
@[simp] theorem Chip.onHio_clock (c : Chip) (g : HostIo → HostIo) : (c.onHio g).clock = c.clock := (rfl)
@[simp] theorem Chip.onThm_clock (c : Chip) (g : Thermal → Thermal) : (c.onThm g).clock = c.clock := (rfl)
@[simp] theorem Chip.onSec_clock (c : Chip) (g : Security → Security) : (c.onSec g).clock = c.clock := (rfl)
@[simp] theorem Chip.onFlash_clock (c : Chip) (g : Flash → Flash) : (c.onFlash g).clock = c.clock := (rfl)
@[simp] theorem Chip.setWord_clock (c : Chip) (off : Nat) (w : Word) : (c.setWord off w).clock = c.clock := (rfl)
@[simp] theorem Chip.drop_clock (c : Chip) (f : FRef) (n : Nat) : (c.drop f n).clock = c.clock := (rfl)
@[simp] theorem Chip.draw_clock (c : Chip) : c.draw.2.clock = c.clock := (rfl)
@[simp] theorem Chip.busErr_clock (c : Chip) (bit off : Nat) : (c.busErr bit off).clock = c.clock := by simp [Chip.busErr]
@[simp] theorem Chip.countGated_clock (c : Chip) (req : Requester) (off : Nat) (isWrite : Bool) : (c.countGated req off isWrite).clock = c.clock := (rfl)

@[simp] theorem Chip.refused_clock (c : Chip) (req : Requester) (off : Nat) (isWrite : Bool) (v : Verdict) : (c.refused req off isWrite v).clock = c.clock := by
  unfold Chip.refused
  split <;> simp

@[simp] theorem Chip.cfgReject_clock (c : Chip) (r : RegDesc) (is : List Nat) : (c.cfgReject r is).clock = c.clock := by
  unfold Chip.cfgReject
  split <;> simp

@[simp] theorem Chip.storeField_clock (c : Chip) (r : RegDesc) (is : List Nat) (off v : Nat) (stopped : Bool) (f : Fld) : (c.storeField r is off v stopped f).clock = c.clock := by
  unfold Chip.storeField
  dsimp only
  repeat' split
  all_goals simp

@[simp] theorem Chip.store_clock (c : Chip) (r : RegDesc) (is : List Nat) (off v : Nat) : (c.store r is off v).clock = c.clock := by simp [Chip.store]
@[simp] theorem Chip.clearHold_clock (c : Chip) : c.clearHold.clock = c.clock := by simp [Chip.clearHold]

@[simp] theorem Chip.closeSession_clock (c : Chip) (n : Nat) : (c.closeSession n).clock = c.clock := by
  unfold Chip.closeSession
  dsimp only
  repeat' split
  all_goals simp

@[simp] theorem Chip.endSession_clock (c : Chip) (n code : Nat) : (c.endSession n code).clock = c.clock := by simp [Chip.endSession]

@[simp] theorem Chip.endHartSession_clock (c : Chip) (d k : Nat) : (c.endHartSession d k).clock = c.clock := by
  unfold Chip.endHartSession
  split <;> simp

@[simp] theorem Chip.recordGated_clock (c : Chip) (req : Requester) (r : RegDesc) (off old v : Nat) : (c.recordGated req r off old v).clock = c.clock := by
  unfold Chip.recordGated
  split <;> simp

@[simp] theorem Chip.acceptWrite_clock (c : Chip) (req : Requester) (off v : Nat) {h : WriteHook} (hh : h.KeepsClock) : (c.acceptWrite req off v h).clock = c.clock := by
  unfold Chip.acceptWrite
  split
  · rfl
  · simp [hh.1, hh.2]

@[simp] theorem Chip.waitEmu_clock (c : Chip) (req : Requester) (off : Nat) (isWrite : Bool) (v : Nat) : (c.waitEmu req off isWrite v).clock = c.clock := (rfl)
@[simp] theorem Chip.setUnit_clock (c : Chip) (u state : Nat) : (c.setUnit u state).clock = c.clock := (rfl)
@[simp] theorem Chip.restartUnit_clock (c : Chip) (u : Nat) : (c.restartUnit u).clock = c.clock := by simp [Chip.restartUnit]
@[simp] theorem Chip.staleWrite_clock (c : Chip) (u off : Nat) : (c.staleWrite u off).clock = c.clock := by simp [Chip.staleWrite]

@[simp] theorem Chip.writeReg_clock (c : Chip) (req : Requester) (off v : Nat) {h : WriteHook} (hh : h.KeepsClock) : (c.writeReg req off v h).clock = c.clock := by
  unfold Chip.writeReg
  split
  · split <;> simp [hh]
  · simp

end Sys2Proof.Machine
end

section
/-! The row clock in requests, their answers, credits and lanes. -/

namespace Sys2Proof.Machine

set_option Elab.async false

@[simp] theorem Chip.countRefused_clock (c : Chip) (site status : Nat) : (c.countRefused site status).clock = c.clock := by simp [Chip.countRefused]
@[simp] theorem Chip.finish_clock (c : Chip) (site : Nat) (st : Stitch) (status : Nat) : (c.finish site st status).clock = c.clock := (rfl)
@[simp] theorem Chip.finishData_clock (c : Chip) (st : Stitch) (data : List Nat) : (c.finishData st data).clock = c.clock := (rfl)

@[simp] theorem Chip.messageAnswer_clock (c : Chip) (mine : SendMsg → Bool) (st : Stitch) (idx status : Nat) : (c.messageAnswer mine st idx status).clock = c.clock := by
  unfold Chip.messageAnswer
  split <;> simp

@[simp] theorem Chip.answerSend_clock (c : Chip) (site : Nat) (st : Stitch) (status : Nat) : (c.answerSend site st status).clock = c.clock := by simp [Chip.answerSend]

@[simp] theorem Chip.messageEnters_clock (c : Chip) (site : Nat) (req : Stitch) (seq : Option Nat) : (c.messageEnters site req seq).clock = c.clock := by
  unfold Chip.messageEnters
  split <;> simp

@[simp] theorem Chip.refuseEntry_clock (c : Chip) (site : Nat) (st : Stitch) (status : Nat) : (c.refuseEntry site st status).clock = c.clock := by simp [Chip.refuseEntry]
@[simp] theorem Chip.relayAnswers_clock (c : Chip) (r : RelayRec) (status : Nat) : (c.relayAnswers r status).clock = c.clock := by simp [Chip.relayAnswers]
@[simp] theorem Chip.loadLost_clock (c : Chip) (st : Stitch) (status : Nat) : (c.loadLost st status).clock = c.clock := by simp [Chip.loadLost]

@[simp] theorem Chip.complete_clock (c : Chip) (e : OutEntry) (status : Nat) : (c.complete e status).clock = c.clock := by
  unfold Chip.complete
  dsimp only
  repeat' split
  all_goals simp

@[simp] theorem Chip.enterOne_clock (c : Chip) (site : Nat) (req : Stitch) : (c.enterOne site req).clock = c.clock := by simp [Chip.enterOne]
@[simp] theorem Chip.enter_clock (c : Chip) (site : Nat) (req : Stitch) : (c.enter site req).clock = c.clock := by simp [Chip.enter]
@[simp] theorem Chip.sendAnswers_clock (c : Chip) (site : Nat) : (c.sendAnswers site).clock = c.clock := by simp [Chip.sendAnswers]

@[simp] theorem Chip.answerOne_clock (c : Chip) (site node tenant seq status : Nat) : (c.answerOne site node tenant seq status).clock = c.clock := by
  unfold Chip.answerOne
  split <;> simp

@[simp] theorem Chip.timeOut_clock (c : Chip) (e : OutEntry) : (c.timeOut e).clock = c.clock := by simp [Chip.timeOut]

@[simp] theorem Chip.answerPull_clock (c : Chip) (pull : Option (Nat × Stitch)) (status : Nat) : (c.answerPull pull status).clock = c.clock := by
  unfold Chip.answerPull
  split <;> simp

@[simp] theorem Chip.refuseRun_clock (c : Chip) (w : RunWait) (status : Nat) : (c.refuseRun w status).clock = c.clock := by
  unfold Chip.refuseRun
  split <;> simp

@[simp] theorem Chip.refuseWaits_clock (c : Chip) (p : RunWait → Bool) (status : Nat) : (c.refuseWaits p status).clock = c.clock := by simp [Chip.refuseWaits]
@[simp] theorem Chip.nodeGone_clock (c : Chip) (node : Nat) : (c.nodeGone node).clock = c.clock := by simp [Chip.nodeGone]
@[simp] theorem Chip.takeCredit_clock (c : Chip) (s d : Nat) (st : Stitch) : (c.takeCredit s d st).clock = c.clock := (rfl)
@[simp] theorem Chip.returnCredits_clock (c : Chip) (s d pool : Nat) : (c.returnCredits s d pool).clock = c.clock := by simp [Chip.returnCredits]

@[simp] theorem Chip.fenceLane_clock (c : Chip) (s p k code : Nat) : (c.fenceLane s p k code).clock = c.clock := by
  unfold Chip.fenceLane
  dsimp only
  repeat' split
  all_goals simp

@[simp] theorem Chip.retryEvent_clock (c : Chip) (l : Nat × Nat × Nat) (inWindow : Bool) : (c.retryEvent l inWindow).clock = c.clock := by simp [Chip.retryEvent]
@[simp] theorem Chip.ackMessageSent_clock (c : Chip) (key : Nat × Nat × Nat) : (c.ackMessageSent key).clock = c.clock := (rfl)

end Sys2Proof.Machine
end

section
/-! The row clock in synchronization objects and the combining of partials. -/

namespace Sys2Proof.Machine

set_option Elab.async false

@[simp] theorem Chip.waitFrom_clock (c : Chip) (before : Option SyncObj) (n : Nat) (who : Waiter) (cond value limit : Nat) : (c.waitFrom before n who cond value limit).clock = c.clock := by
  unfold Chip.waitFrom
  dsimp only
  repeat' split
  all_goals simp

@[simp] theorem Chip.wait_clock (c : Chip) (n : Nat) (who : Waiter) (cond value limit : Nat) : (c.wait n who cond value limit).clock = c.clock := by simp [Chip.wait]
@[simp] theorem Chip.syncAnswer_clock (c : Chip) (st : Stitch) (o o' : SyncObj) (code : Nat) : (c.syncAnswer st o o' code).clock = c.clock := by simp [Chip.syncAnswer]
@[simp] theorem Chip.syncFunction_clock (c : Chip) (fn : Nat) (st : Stitch) (o : SyncObj) : (c.syncFunction fn st o).clock = c.clock := by simp [Chip.syncFunction]

@[simp] theorem Chip.syncOp_clock (c : Chip) (fn : Nat) (st : Stitch) : (c.syncOp fn st).clock = c.clock := by
  unfold Chip.syncOp
  split <;> simp

@[simp] theorem Chip.resetOwner_clock (c : Chip) (site core : Nat) : (c.resetOwner site core).clock = c.clock := (rfl)
@[simp] theorem Chip.resetOwners_clock (c : Chip) (t : Nat) : (c.resetOwners t).clock = c.clock := (rfl)
@[simp] theorem Chip.countLanding_clock (c : Chip) (site obj inc status : Nat) : (c.countLanding site obj inc status).clock = c.clock := by simp [Chip.countLanding]

@[simp] theorem Chip.landingMergeEnd_clock (c : Chip) (site obj : Nat) : (c.landingMergeEnd site obj).clock = c.clock := by
  unfold Chip.landingMergeEnd
  dsimp only
  split <;> simp

@[simp] theorem Chip.waitsExpire_clock (c : Chip) (obj : Nat) : (c.waitsExpire obj).clock = c.clock := by simp [Chip.waitsExpire]

@[simp] theorem Chip.lockAbandon_clock (c : Chip) (obj : Nat) : (c.lockAbandon obj).clock = c.clock := by
  unfold Chip.lockAbandon
  split <;> simp

@[simp] theorem Chip.setSramOwner_clock (c : Chip) (p : Nat) (t : Option Nat) : (c.setSramOwner p t).clock = c.clock := (rfl)
@[simp] theorem Chip.setPartial_clock (c : Chip) (p p' : Partial) : (c.setPartial p p').clock = c.clock := (rfl)

@[simp] theorem Chip.edgeCombine_clock (c : Chip) (e : Nat) (st : Stitch) : (c.edgeCombine e st).2.clock = c.clock := by
  unfold Chip.edgeCombine
  dsimp only
  repeat' split
  all_goals simp

/-- The package in which a partial took the stitch, where one took it. -/
theorem Chip.edgeCombine_merged_clock {c d : Chip} {e : Nat} {st : Stitch} (h : (c.edgeCombine e st).1 = some d) : d.clock = c.clock := by
  unfold Chip.edgeCombine at h
  dsimp only at h
  split at h
  · cases h
  · split at h
    · split at h
      · cases h
      · split at h
        · cases h
          rfl
        · cases h
    · split at h
      · cases h
      · split at h
        · split at h
          · cases h
          · split at h
            · cases h
              exact Chip.releaseEdge_clock ..
            · cases h
        · cases h
          split <;> simp

@[simp] theorem Chip.mcMismatch_clock (c : Chip) (e : Nat) (port : Option Nat) (st : Stitch) : (c.mcMismatch e port st).clock = c.clock := by simp [Chip.mcMismatch]

end Sys2Proof.Machine
end

section
/-! The row clock in routing, port queues and circuits. -/

namespace Sys2Proof.Machine

set_option Elab.async false

@[simp] theorem Chip.useCredit_clock (c : Chip) (j pool : Nat) : (c.useCredit j pool).clock = c.clock := (rfl)

@[simp] theorem Chip.lostStitch_clock (c : Chip) (s : Nat) (st : Stitch) : (c.lostStitch s st).clock = c.clock := by
  unfold Chip.lostStitch
  dsimp only
  repeat' split
  all_goals simp

@[simp] theorem Chip.passOn_clock (c : Chip) (s d : Nat) (x : PoolEntry) : (c.passOn s d x).clock = c.clock := by simp [Chip.passOn]
@[simp] theorem Chip.dropRingHop_clock (c : Chip) (x : PoolEntry) : (c.dropRingHop x).clock = c.clock := (rfl)

@[simp] theorem Chip.noteRingHop_clock (c : Chip) (e' : Nat) (x : PoolEntry) : (c.noteRingHop e' x).clock = c.clock := by
  unfold Chip.noteRingHop
  split <;> simp

@[simp] theorem Chip.nackUnreachable_clock (c : Chip) (e : Nat) (st : Stitch) : (c.nackUnreachable e st).clock = c.clock := by simp [Chip.nackUnreachable]
@[simp] theorem Chip.e2eFail_clock (c : Chip) (site plane k : Nat) (port : Option (Nat × Nat)) (st : Stitch) : (c.e2eFail site plane k port st).clock = c.clock := by simp [Chip.e2eFail]

@[simp] theorem Chip.mcAtEdge_clock (c : Chip) (x : PoolEntry) : (c.mcAtEdge x).clock = c.clock := by
  unfold Chip.mcAtEdge
  dsimp only
  repeat' split
  all_goals simp

@[simp] theorem Chip.edgeArrive_clock (c : Chip) (x : PoolEntry) (plane k : Nat) (lane : Option (Nat × Nat)) : (c.edgeArrive x plane k lane).clock = c.clock := by
  unfold Chip.edgeArrive
  dsimp only
  split
  · split
    · simp
    · split
      · split
        · next e => rw [Chip.freeEntry_clock, Chip.edgeCombine_merged_clock (congrArg Prod.fst e)]
        · next e => exact (Chip.onEdge_clock ..).trans ((congrArg (fun r => r.2.clock) e).symm.trans (Chip.edgeCombine_clock ..))
      · split <;> simp
  · simp

@[simp] theorem Chip.edgeIntake_clock (c : Chip) (e : Nat) : (c.edgeIntake e).clock = c.clock := (rfl)
@[simp] theorem Chip.placeOnPort_clock (c : Chip) (e j : Nat) (x : PoolEntry) : (c.placeOnPort e j x).clock = c.clock := by simp [Chip.placeOnPort]
@[simp] theorem Chip.toDetour_clock (c : Chip) (x : PoolEntry) : (c.toDetour x).clock = c.clock := by simp [Chip.toDetour]

@[simp] theorem Chip.forwardHead_clock (c : Chip) (e node pool : Nat) : (c.forwardHead e node pool).clock = c.clock := by
  unfold Chip.forwardHead
  dsimp only
  repeat' split
  all_goals simp

@[simp] theorem Chip.escapeHead_clock (c : Chip) (e node : Nat) (control : Bool) : (c.escapeHead e node control).clock = c.clock := by
  unfold Chip.escapeHead
  dsimp only
  repeat' split
  all_goals simp

@[simp] theorem Chip.answerDetour_clock (c : Chip) (n : Nat) : (c.answerDetour n).clock = c.clock := by simp [Chip.answerDetour]
@[simp] theorem Chip.declareUnreachable_clock (c : Chip) (n : Nat) : (c.declareUnreachable n).clock = c.clock := by simp [Chip.declareUnreachable]
@[simp] theorem keepsClock_chip_nodeStateHook (c : Chip) (n v : Nat) : (c.nodeStateHook n v).KeepsClock := by simp [Chip.nodeStateHook]

@[simp] theorem Chip.mcPlace_clock (c : Chip) (w : McWait) : (c.mcPlace w).clock = c.clock := by
  unfold Chip.mcPlace
  dsimp only
  split <;> simp

@[simp] theorem keepsClock_armHook (t v : Nat) : (armHook t v).KeepsClock := by
  unfold armHook
  rw [keepsClock_does]
  intro c
  dsimp only
  repeat' split
  all_goals simp

@[simp] theorem Chip.setSrcRun_clock (c : Chip) (r r' : SrcRun) : (c.setSrcRun r r').clock = c.clock := (rfl)
@[simp] theorem Chip.setDstRun_clock (c : Chip) (r r' : DstRun) : (c.setDstRun r r').clock = c.clock := (rfl)
@[simp] theorem Chip.requestRun_clock (c : Chip) (w : RunWait) : (c.requestRun w).clock = c.clock := by simp [Chip.requestRun]

@[simp] theorem Chip.runAnswered_clock (c : Chip) (site node tenant seq status : Nat) : (c.runAnswered site node tenant seq status).clock = c.clock := by
  unfold Chip.runAnswered
  dsimp only
  repeat' split
  all_goals simp

@[simp] theorem Chip.detachRun_clock (c : Chip) (e runNo : Nat) : (c.detachRun e runNo).clock = c.clock := by simp [Chip.detachRun]
@[simp] theorem Chip.landRunDone_clock (c : Chip) (d : DstRun) : (c.landRunDone d).clock = c.clock := by simp [Chip.landRunDone]
@[simp] theorem Chip.cutDst_clock (c : Chip) (r : DstRun) : (c.cutDst r).clock = c.clock := by simp [Chip.cutDst]

@[simp] theorem Chip.cutSrc_clock (c : Chip) (r : SrcRun) : (c.cutSrc r).clock = c.clock := by
  unfold Chip.cutSrc
  dsimp only
  split <;> simp

@[simp] theorem Chip.redeal_clock (c : Chip) (e k : Nat) : (c.redeal e k).clock = c.clock := by
  unfold Chip.redeal
  dsimp only
  repeat' split
  all_goals simp

@[simp] theorem keepsClock_chip_allotHook (c : Chip) (e v : Nat) : (c.allotHook e v).KeepsClock := by simp [Chip.allotHook]
@[simp] theorem keepsClock_chip_patHook (c : Chip) (p : Nat) : (c.patHook p).KeepsClock := by simp [Chip.patHook]
@[simp] theorem keepsClock_assignHook (j v : Nat) (agreed : Bool) : (assignHook j v agreed).KeepsClock := by simp [assignHook]

end Sys2Proof.Machine
end

section
/-! The row clock in the time service and the edge streams. -/

namespace Sys2Proof.Machine

set_option Elab.async false

@[simp] theorem Chip.timeConflict_clock (c : Chip) (j : Nat) : (c.timeConflict j).clock = c.clock := by simp [Chip.timeConflict]
@[simp] theorem Chip.becomeSource_clock (c : Chip) : c.becomeSource.clock = c.clock := by simp [Chip.becomeSource]
@[simp] theorem Chip.becomeFree_clock (c : Chip) : c.becomeFree.clock = c.clock := by simp [Chip.becomeFree]
@[simp] theorem Chip.stepTo_rowAndCycle (c : Chip) (e : TimeEnd) : rowAndCycle (c.stepTo e).clock = rowAndCycle c.clock := rfl

@[simp] theorem Chip.timeMismatch_clock (c : Chip) (unit : Nat) (port : Option Nat) (late : Int) : (c.timeMismatch unit port late).clock = c.clock := by
  unfold Chip.timeMismatch
  dsimp only
  split
  · simp
  · split
    · rw [Chip.parentLost_clock, Chip.onTime_clock _ (by rfl)]
      simp
    · simp

theorem Chip.timeCastOn_rowAndCycle (c : Chip) : rowAndCycle c.timeCastOn.clock = rowAndCycle c.clock := by
  unfold Chip.timeCastOn
  split <;> simp

@[simp] theorem Chip.steer_clock (c : Chip) (theta : Int) : (c.steer theta).clock = c.clock := (rfl)
@[simp] theorem Chip.parentUpdate_clock (c : Chip) (e : TimeEnd) : (c.parentUpdate e).clock = c.clock := by simp [Chip.parentUpdate, Chip.onTime_clock]

@[simp] theorem Chip.timeReact_rowAndCycle (c : Chip) (e : TimeEnd) (ready : Bool) : rowAndCycle (c.timeReact e ready).clock = rowAndCycle c.clock := by
  simp [Chip.timeReact]

theorem Chip.timeExch_rowAndCycle (c : Chip) (j : Nat) (st : Stitch) (t2 t3 : Nat) (ready : Bool) : rowAndCycle (c.timeExch j st t2 t3 ready).clock = rowAndCycle c.clock := by
  simp [Chip.timeExch]

@[simp] theorem Chip.netLost_clock (c : Chip) (m : NetMessage) : (c.netLost m).clock = c.clock := by
  unfold Chip.netLost
  split <;> simp

@[simp] theorem Chip.stopMsg_clock (c : Chip) (j type lane : Nat) : (c.stopMsg j type lane).clock = c.clock := (rfl)
@[simp] theorem Chip.takeMsg_clock (c : Chip) (j word : Nat) : (c.takeMsg j word).clock = c.clock := (rfl)
@[simp] theorem Chip.sendOnPort_clock (c : Chip) (j : Nat) (st : Stitch) : (c.sendOnPort j st).clock = c.clock := (rfl)
@[simp] theorem Chip.depart_clock (c : Chip) (j reason : Nat) (single : Bool) : (c.depart j reason single).clock = c.clock := by simp [Chip.depart]
@[simp] theorem Chip.holdPort_clock (c : Chip) (j reason : Nat) : (c.holdPort j reason).clock = c.clock := by simp [Chip.holdPort]
@[simp] theorem Chip.recordLost_clock (c : Chip) (j : Nat) : (c.recordLost j).clock = c.clock := by simp [Chip.recordLost]
@[simp] theorem Chip.checkMinLanes_clock (c : Chip) (j : Nat) : (c.checkMinLanes j).clock = c.clock := by simp [Chip.checkMinLanes]
@[simp] theorem Chip.requestCarrier_clock (c : Chip) (j l carrier : Nat) : (c.requestCarrier j l carrier).clock = c.clock := (rfl)
@[simp] theorem Chip.calMoves_clock (c : Chip) (j l carrier row : Nat) (ending : Bool) : (c.calMoves j l carrier row ending).clock = c.clock := (rfl)
@[simp] theorem Chip.endCal_clock (c : Chip) (j l row : Nat) : (c.endCal j l row).clock = c.clock := (rfl)

@[simp] theorem Chip.abandonCal_clock (c : Chip) (j n : Nat) : (c.abandonCal j n).clock = c.clock := by
  unfold Chip.abandonCal
  split <;> simp

@[simp] theorem Chip.spareIncoming_clock (c : Chip) (j l : Nat) : (c.spareIncoming j l).clock = c.clock := by
  unfold Chip.spareIncoming
  dsimp only
  repeat' split
  all_goals simp

@[simp] theorem Chip.fencePort_clock (c : Chip) (j l : Nat) (incoming : Bool) (code : Nat) : (c.fencePort j l incoming code).clock = c.clock := by simp [Chip.fencePort]
@[simp] theorem Chip.fencePortSign_clock (c : Chip) (j : Fin 16) (l : Fin 40) (incoming : Bool) (code : Fin 16) :
    (c.fencePortSign j l incoming code).clock = c.clock := by simp [Chip.fencePortSign]

end Sys2Proof.Machine
end

section
/-! The row clock in rings, spares and calibration. -/

namespace Sys2Proof.Machine

set_option Elab.async false

@[simp] theorem Chip.lockRing_clock (c : Chip) (x : RingKey) : (c.lockRing x).clock = c.clock := (rfl)
@[simp] theorem Chip.dropCalib_clock (c : Chip) (s g : Nat) : (c.dropCalib s g).clock = c.clock := (rfl)
@[simp] theorem Chip.groupDone_clock (c : Chip) (s g : Nat) : (c.groupDone s g).clock = c.clock := by simp [Chip.groupDone]
@[simp] theorem Chip.fenceLoops_clock (c : Chip) (l : List RingKey) : (c.fenceLoops l).clock = c.clock := by simp [Chip.fenceLoops]
@[simp] theorem Chip.fenceLoop_clock (c : Chip) (x : RingKey) : (c.fenceLoop x).clock = c.clock := by simp [Chip.fenceLoop]
@[simp] theorem Chip.fenceRing_clock (c : Chip) (x : Side) (k : Nat) : (c.fenceRing x k).clock = c.clock := by simp [Chip.fenceRing]
@[simp] theorem Chip.abandonOn_clock (c : Chip) (rings : List RingKey) : (c.abandonOn rings).clock = c.clock := by simp [Chip.abandonOn]

@[simp] theorem Chip.book_clock (c : Chip) (b : Booking) : (c.book b).clock = c.clock := by
  unfold Chip.book
  dsimp only
  repeat' split
  all_goals simp

@[simp] theorem Chip.localizeTo_clock (c : Chip) (x : Side) : (c.localizeTo x).clock = c.clock := (rfl)
@[simp] theorem Chip.spareFails_clock (c : Chip) (x : Side) (k code : Nat) : (c.spareFails x k code).clock = c.clock := by simp [Chip.spareFails]
@[simp] theorem Chip.ownSideFails_clock (c : Chip) (x : Side) (k code : Nat) : (c.ownSideFails x k code).clock = c.clock := by simp [Chip.ownSideFails]
@[simp] theorem Chip.sideFails_clock (c : Chip) (x : Side) : (c.sideFails x).clock = c.clock := by simp [Chip.sideFails]
@[simp] theorem Chip.planeFault_clock (c : Chip) (x : Side) : (c.planeFault x).clock = c.clock := by simp [Chip.planeFault]
@[simp] theorem Chip.fenceOwn_clock (c : Chip) (s p k code : Nat) (txFault rxFault : Bool) : (c.fenceOwn s p k code txFault rxFault).clock = c.clock := by simp [Chip.fenceOwn]

@[simp] theorem Chip.fence_clock (c : Chip) (s p k code : Nat) (txFault rxFault : Bool) : (c.fence s p k code txFault rxFault).clock = c.clock := by
  unfold Chip.fence
  dsimp only
  repeat' split
  all_goals simp

@[simp] theorem Chip.reacquired_clock (c : Chip) (x : Side) : (c.reacquired x).clock = c.clock := by simp [Chip.reacquired]
@[simp] theorem keepsClock_substHook (site v : Nat) : (substHook site v).KeepsClock := by simp [substHook]

@[simp] theorem Chip.ringFault_clock (c : Chip) (x : RingKey) (code : Nat) : (c.ringFault x code).clock = c.clock := by
  unfold Chip.ringFault
  dsimp only
  repeat' split
  all_goals simp

@[simp] theorem Chip.ringLost_clock (c : Chip) (x : RingKey) : (c.ringLost x).clock = c.clock := by simp [Chip.ringLost]
@[simp] theorem Chip.meetPower_clock (c : Chip) (x : RingKey) (p : Int) : (c.meetPower x p).clock = c.clock := by simp [Chip.meetPower]
@[simp] theorem Chip.loopLaw_clock (c : Chip) (x : RingKey) (e : Int) : (c.loopLaw x e).clock = c.clock := (rfl)
@[simp] theorem Chip.setGood_clock (c : Chip) (x : RingKey) (n : Nat) : (c.setGood x n).clock = c.clock := (rfl)

@[simp] theorem Chip.visit_clock (c : Chip) (x : RingKey) (inPhase p : Int) : (c.visit x inPhase p).clock = c.clock := by
  unfold Chip.visit
  dsimp only
  repeat' split
  all_goals simp

@[simp] theorem Chip.askPorts_clock (c : Chip) : c.askPorts.clock = c.clock := by
  refine Chip.each_clock _ _ fun d j => ?_
  dsimp only
  split <;> simp

@[simp] theorem Chip.swatchBook_clock (c : Chip) : c.swatchBook.clock = c.clock := by
  unfold Chip.swatchBook
  dsimp only
  repeat' split
  all_goals simp

@[simp] theorem Chip.updSwatch_clock (c : Chip) (w : Swatch) (f : Swatch → Swatch) : (c.updSwatch w f).clock = c.clock := (rfl)
@[simp] theorem Chip.takeResult_clock (c : Chip) (x : RingKey) (t : Nat × Nat × RingSweep) : (c.takeResult x t).clock = c.clock := by simp [Chip.takeResult]
@[simp] theorem Chip.portRingFails_clock (c : Chip) (x : RingKey) : (c.portRingFails x).clock = c.clock := by simp [Chip.portRingFails]

@[simp] theorem Chip.swatchEnd_clock (c : Chip) (s p k : Nat) (measured : List RingSweep) : (c.swatchEnd s p k measured).clock = c.clock := by
  have found : ∀ l : List (RingKey × Option (Nat × Nat × RingSweep)), (c.each l (fun c x => match x.2 with
      | some t => c.takeResult x.1 t
      | none => c)).clock = c.clock := fun l => Chip.each_clock _ _ fun d x => by
    split <;> simp
  unfold Chip.swatchEnd
  split
  · rfl
  · extract_lets rings results bad taken
    have htaken : taken.clock = c.clock := found results
    clear_value taken
    split
    · rfl
    · split
      · simp [htaken]
      · simp +zetaDelta [htaken]

@[simp] theorem Chip.gaugeCheck_clock (c : Chip) (s : Nat) (dev : Int) : (c.gaugeCheck s dev).clock = c.clock := by simp [Chip.gaugeCheck]
@[simp] theorem Chip.refGauge_clock (c : Chip) (failed : Nat) : (c.refGauge failed).clock = c.clock := by simp [Chip.refGauge]
@[simp] theorem Chip.powerGauge_clock (c : Chip) (dev : Int) : (c.powerGauge dev).clock = c.clock := by simp [Chip.powerGauge]
@[simp] theorem Chip.gaugeDone_clock (c : Chip) (sites : List Nat) : (c.gaugeDone sites).clock = c.clock := (rfl)
@[simp] theorem Chip.manualTrigger_clock (c : Chip) (s g : Nat) : (c.manualTrigger s g).clock = c.clock := by simp [Chip.manualTrigger]
@[simp] theorem keepsClock_swatchReqHook (s v : Nat) : (swatchReqHook s v).KeepsClock := by simp [swatchReqHook]
@[simp] theorem keepsClock_gaugeHook (s v : Nat) (dev : Int) (failed : Nat) : (gaugeHook s v dev failed).KeepsClock := by simp [gaugeHook]

end Sys2Proof.Machine
end

section
/-! The row clock in the light supply. -/

namespace Sys2Proof.Machine

set_option Elab.async false

@[simp] theorem Chip.dropSwap_clock (c : Chip) : c.dropSwap.clock = c.clock := by simp [Chip.dropSwap]
@[simp] theorem Chip.standbyGone_clock (c : Chip) (b : Nat) : (c.standbyGone b).clock = c.clock := by simp [Chip.standbyGone]
@[simp] theorem Chip.declareChange_clock (c : Chip) : c.declareChange.clock = c.clock := by simp [Chip.declareChange]
@[simp] theorem Chip.changeEnds_clock (c : Chip) : c.changeEnds.clock = c.clock := by simp [Chip.changeEnds]
@[simp] theorem Chip.relocked_clock (c : Chip) : c.relocked.clock = c.clock := by simp [Chip.relocked]
@[simp] theorem Chip.ringsHold_clock (c : Chip) (p : RingKey → Bool) : (c.ringsHold p).clock = c.clock := by simp [Chip.ringsHold]
@[simp] theorem Chip.holdBranchH_clock (c : Chip) : c.holdBranchH.clock = c.clock := by simp [Chip.holdBranchH]
@[simp] theorem Chip.circuitsDark_clock (c : Chip) : c.circuitsDark.clock = c.clock := by simp [Chip.circuitsDark]

@[simp] theorem Chip.enterFallback_clock (c : Chip) : c.enterFallback.clock = c.clock := by
  unfold Chip.enterFallback
  dsimp only
  repeat' split
  all_goals simp

@[simp] theorem Chip.combLost_clock (c : Chip) (a : Nat) : (c.combLost a).clock = c.clock := by simp [Chip.combLost]
@[simp] theorem Chip.returnFails_clock (c : Chip) (x : Nat) : (c.returnFails x).clock = c.clock := by simp [Chip.returnFails]
@[simp] theorem Chip.combFails_clock (c : Chip) (x : Nat) : (c.combFails x).clock = c.clock := by simp [Chip.combFails]
@[simp] theorem Chip.lsuCtrl_clock (c : Chip) (v : Nat) : (c.lsuCtrl v).clock = c.clock := by simp [Chip.lsuCtrl]

@[simp] theorem keepsClock_lsuCtrlHook (v : Nat) : (lsuCtrlHook v).KeepsClock := by
  unfold lsuCtrlHook
  rw [keepsClock_does]
  intro c
  dsimp only
  repeat' split
  all_goals simp

end Sys2Proof.Machine
end

section
/-! The row clock in frames, markers, training and control messages. -/

namespace Sys2Proof.Machine

set_option Elab.async false

@[simp] theorem Chip.linkRetry_clock (c : Chip) (key : Nat × Nat × Nat) (inWindow : Bool) : (c.linkRetry key inWindow).clock = c.clock := by simp [Chip.linkRetry]

@[simp] theorem Chip.runsAcked_clock (c : Chip) (key : Nat × Nat × Nat) (seqs : List Nat) : (c.runsAcked key seqs).clock = c.clock := by
  unfold Chip.runsAcked
  split
  · rfl
  · refine (Chip.each_clock _ _ fun d r => ?_).trans (Chip.onCirc_clock ..)
    dsimp only
    split <;> simp

@[simp] theorem Chip.takeAck_clock (c : Chip) (key : Nat × Nat × Nat) (a : Nat) (nak : Bool) : (c.takeAck key a nak).clock = c.clock := by simp [Chip.takeAck]

@[simp] theorem Chip.nakSent_clock (c : Chip) (key : Nat × Nat × Nat) : (c.nakSent key).clock = c.clock := by
  unfold Chip.nakSent
  split <;> simp

@[simp] theorem Chip.emit_clock (c : Chip) (key : Nat × Nat × Nat) (f : Frame) : (c.emit key f).clock = c.clock := by simp [Chip.emit]
@[simp] theorem Chip.emitPlain_clock (c : Chip) (key : Nat × Nat × Nat) (slot ftype : Nat) (payload : List Nat) :
    (c.emitPlain key slot ftype payload).clock = c.clock := by simp [Chip.emitPlain]

@[simp] theorem Chip.emitData_clock (c : Chip) (key : Nat × Nat × Nat) (slot ftype flags runCheck : Nat) (payload : List Nat) :
    (c.emitData key slot ftype flags runCheck payload).clock = c.clock := by
  unfold Chip.emitData
  dsimp only
  split <;> simp

@[simp] theorem Chip.useSlot_clock (c : Chip) (s d : Nat) (st : Stitch) : (c.useSlot s d st).clock = c.clock := by simp [Chip.useSlot]

@[simp] theorem Chip.takeCand_clock (c : Chip) (s d : Nat) (x : SlotCand) : (c.takeCand s d x).2.clock = c.clock := by
  cases x <;> simp [Chip.takeCand]

@[simp] theorem Chip.giveSlot_clock (c : Chip) (s d : Nat) (x : SlotCand) : (c.giveSlot s d x).2.clock = c.clock := by simp [Chip.giveSlot]

@[simp] theorem Chip.fillSlots_clock (c : Chip) (s d m r : Nat) : (c.fillSlots s d m r).2.clock = c.clock :=
  List.foldlRecOn (motive := fun z : List Stitch × Chip => z.2.clock = c.clock) _ _ rfl fun z hz x _ => (Chip.giveSlot_clock z.2 s d x).trans hz

@[simp] theorem Chip.fillControl_clock (j : Nat) : ∀ (n : Nat) (c : Chip), (c.fillControl j n).2.clock = c.clock
  | 0, _ => rfl
  | n + 1, c => by
    unfold Chip.fillControl
    split
    · rfl
    · exact (Chip.fillControl_clock j n _).trans (by simp)

@[simp] theorem Chip.emitStitches_clock (c : Chip) (key : Nat × Nat × Nat) (slot : Nat) (sts : List Stitch) : (c.emitStitches key slot sts).clock = c.clock := by simp [Chip.emitStitches]

@[simp] theorem State.sendRun_clock (s : State) (key : Nat × Nat × Nat) (e slot : Nat) : (s.sendRun key e slot).clock = s.chip.clock := by
  unfold State.sendRun
  extract_lets c k idle dest waiting
  split
  · simp +zetaDelta
  · have taken : ∀ l : List SrcRun, (l.foldl (fun (x : List SrcRun × Chip) r =>
        if 112 ≤ e then (x.1 ++ [r], x.2)
        else if x.2.hasCredit key.1 dest r.opening then (x.1 ++ [r], x.2.takeCredit key.1 dest r.opening) else x) ([], c)).2.clock = c.clock := fun l =>
      List.foldlRecOn (motive := fun z : List SrcRun × Chip => z.2.clock = c.clock) _ _ rfl fun z hz x _ => by
        split
        · exact hz
        · split
          · exact (Chip.takeCredit_clock ..).trans hz
          · exact hz
    split
    next opens d e =>
      have hd := (congrArg (fun r => r.2.clock) e).symm.trans (taken waiting)
      dsimp only at hd ⊢
      split
      · simp [hd, c]
      · split <;> simp [hd, c]

@[simp] theorem State.sendNew_clock (s : State) (key : Nat × Nat × Nat) (slot : Nat) : (s.sendNew key slot).clock = s.chip.clock := by
  simp [State.sendNew]

@[simp] theorem Chip.emitPattern_clock (c : Chip) (key : Nat × Nat × Nat) (slot : Nat) (r : PatRun) : (c.emitPattern key slot r).clock = c.clock := by
  unfold Chip.emitPattern
  generalize prbs (31, 28) 3072 r.gen = bits
  simp

@[simp] theorem State.sendFrame_clock (s : State) (key : Nat × Nat × Nat) (slot : Nat) : (s.sendFrame key slot).clock = s.chip.clock := by
  unfold State.sendFrame
  dsimp only
  repeat' split
  all_goals simp

@[simp] theorem Chip.countRx_clock (c : Chip) (key : Nat × Nat × Nat) (hi lo n : Nat) : (c.countRx key hi lo n).clock = c.clock := by
  unfold Chip.countRx
  split <;> simp

@[simp] theorem Chip.wantNak_clock (c : Chip) (key : Nat × Nat × Nat) : (c.wantNak key).clock = c.clock := by simp [Chip.wantNak]
@[simp] theorem Chip.crcFailure_clock (c : Chip) (key : Nat × Nat × Nat) : (c.crcFailure key).clock = c.clock := by simp [Chip.crcFailure]
@[simp] theorem Chip.refuseFrame_clock (c : Chip) (key : Nat × Nat × Nat) : (c.refuseFrame key).clock = c.clock := by simp [Chip.refuseFrame]

@[simp] theorem State.landGroup_clock (s : State) (d : DstRun) (g : Nat) (blocks : List (List Nat)) : (s.landGroup d g blocks).chip.clock = s.chip.clock := by
  unfold State.landGroup
  dsimp only
  repeat' split
  all_goals simp

@[simp] theorem State.takeRun_clock (s : State) (key : Nat × Nat × Nat) (f : Frame) : (s.takeRun key f).chip.clock = s.chip.clock := by
  unfold State.takeRun
  dsimp only
  repeat' split
  all_goals simp

@[simp] theorem State.takeEarly_clock (s : State) (e : Nat) : (s.takeEarly e).chip.clock = s.chip.clock := by
  unfold State.takeEarly
  exact (foldl_clock (fun _ _ => State.takeRun_clock ..) _ _).trans rfl

@[simp] theorem Chip.stitchIn_clock (c : Chip) (key : Nat × Nat × Nat) (st : Stitch) : (c.stitchIn key st).clock = c.clock := by
  unfold Chip.stitchIn
  dsimp only
  repeat' split
  all_goals simp

@[simp] theorem Chip.checkPattern_clock (c : Chip) (key : Nat × Nat × Nat) (payload : List Nat) : (c.checkPattern key payload).clock = c.clock := by
  unfold Chip.checkPattern
  split <;> simp

@[simp] theorem State.accept_clock (s : State) (key : Nat × Nat × Nat) (f : Frame) : (s.accept key f).chip.clock = s.chip.clock := by simp [State.accept]

@[simp] theorem Chip.runCheckFails_clock (c : Chip) (key : Nat × Nat × Nat) (f : Frame) : (c.runCheckFails key f).clock = c.clock := by
  unfold Chip.runCheckFails
  dsimp only
  repeat' split
  all_goals simp

@[simp] theorem Chip.decodeWords_clock (c : Chip) (j l row pos : Nat) (words : List (List Nat)) (f : Frame) : (c.decodeWords j l row pos words f).2.2.clock = c.clock := (rfl)
@[simp] theorem Chip.trainSeen_clock (c : Chip) (j l n : Nat) : (c.trainSeen j l n).clock = c.clock := by simp [Chip.trainSeen]

@[simp] theorem State.receiveFrame_clock (s : State) (key : Nat × Nat × Nat) (f : Frame) (pos : Nat) (words : List (List Nat)) :
    (s.receiveFrame key f pos words).chip.clock = s.chip.clock := by
  unfold State.receiveFrame
  extract_lets c st set
  split
  · rfl
  · have decoded : (if isPort key then (if words.isEmpty then (f, false, c) else c.decodeWords (portOf key) key.2.2 (c.streamRow key) pos words f)
        else (c.unscrambled key pos f, false, c)).2.2.clock = s.chip.clock := by
      split
      · split <;> simp [c]
      · rfl
    split
    next g lost d e =>
      rw [e] at decoded
      extract_lets r kept r1 r2 acked r3 who good
      have hkept : kept.clock = s.chip.clock := (Chip.setRx_clock ..).trans decoded
      have hacked : acked.clock = s.chip.clock := by
        simp only [acked]
        split <;> simp [hkept]
      repeat' split
      all_goals simp [set, hkept, hacked]

@[simp] theorem Chip.misaligned_clock (c : Chip) (key : Nat × Nat × Nat) : (c.misaligned key).clock = c.clock := by simp [Chip.misaligned]
@[simp] theorem Chip.creditWord_clock (c : Chip) (j w : Nat) : (c.creditWord j w).clock = c.clock := by simp [Chip.creditWord]

@[simp] theorem Chip.nextInRow_clock (c : Chip) (j l : Nat) : (c.nextInRow j l).clock = c.clock := by
  unfold Chip.nextInRow
  split <;> simp

@[simp] theorem Chip.incomingMoves_clock (c : Chip) (j row : Nat) : (c.incomingMoves j row).clock = c.clock := by simp [Chip.incomingMoves]

@[simp] theorem Chip.receiveMarker_clock (c : Chip) (key : Nat × Nat × Nat) (m : Marker) (arrived : Nat) : (c.receiveMarker key m arrived).clock = c.clock := by
  unfold Chip.receiveMarker
  extract_lets st inj injected turns turned found flagged good r bad1 bad ok1 ok known late moved1 moved unit
  clear_value inj turns
  have hinjected : injected.clock = c.clock := by
    simp only [injected]
    split <;> simp
  have hturned : turned.clock = c.clock := by
    simp only [turned]
    split <;> simp [hinjected]
  have hbad : bad.clock = c.clock := by simp [bad, bad1, hturned]
  have hok : ok.clock = c.clock := by
    simp only [ok]
    split
    · simp [ok1, hturned]
    · split <;> simp [ok1, hturned]
  have hmoved : moved.clock = c.clock := by simp [moved, moved1, hok]
  repeat' split
  all_goals simp [hbad, hok, hmoved]

@[simp] theorem Chip.enterService_clock (c : Chip) (key : Nat × Nat × Nat) : (c.enterService key).clock = c.clock := by simp [Chip.enterService]

@[simp] theorem Chip.laneUp_clock (c : Chip) (key : Nat × Nat × Nat) : (c.laneUp key).clock = c.clock := by
  unfold Chip.laneUp
  split
  · rfl
  · split <;> simp

@[simp] theorem keepsClock_patHook (i v : Nat) : (patHook i v).KeepsClock := by simp [patHook]
@[simp] theorem keepsClock_injHook (i v : Nat) : (injHook i v).KeepsClock := by simp [injHook]

@[simp] theorem Chip.refuseMessage_clock (c : Chip) (site : Nat) (st : Stitch) : (c.refuseMessage site st).clock = c.clock := by
  unfold Chip.refuseMessage
  dsimp only
  repeat' split
  all_goals simp

@[simp] theorem Chip.sendIn_clock (c : Chip) (site : Nat) (st : Stitch) : (c.sendIn site st).clock = c.clock := by
  unfold Chip.sendIn
  dsimp only
  repeat' split
  all_goals simp

@[simp] theorem Chip.streamRead_clock (c : Chip) (site : Nat) (st : Stitch) : (c.streamRead site st).clock = c.clock := by simp [Chip.streamRead]

@[simp] theorem keepsClock_chip_rqHook (c : Chip) (site q v : Nat) (base : Bool) : (c.rqHook site q v base).KeepsClock := by
  unfold Chip.rqHook
  dsimp only
  repeat' split
  all_goals simp

@[simp] theorem keepsClock_chip_shareHook (c : Chip) (t v : Nat) : (c.shareHook t v).KeepsClock := by simp [Chip.shareHook]

@[simp] theorem Chip.answered_clock (c : Chip) (site node tenant seq status : Nat) : (c.answered site node tenant seq status).clock = c.clock := by
  unfold Chip.answered
  split <;> simp

@[simp] theorem Chip.dataAnswer_clock (c : Chip) (site : Nat) (st : Stitch) (status : Nat) : (c.dataAnswer site st status).clock = c.clock := by
  unfold Chip.dataAnswer
  split <;> simp

@[simp] theorem State.streamAnswer_clock (s : State) (site : Nat) (st : Stitch) : (s.streamAnswer site st).chip.clock = s.chip.clock := by
  unfold State.streamAnswer
  dsimp only
  split <;> simp

@[simp] theorem Chip.request_clock (c : Chip) (site top : Nat) (req : Stitch) : (c.request site top req).clock = c.clock := by simp [Chip.request]

end Sys2Proof.Machine
end

section
/-! The row clock in memory accesses, host I/O and commands. -/

namespace Sys2Proof.Machine

set_option Elab.async false

@[simp] theorem State.resume_clock (s : State) : s.resume.chip.clock = s.chip.clock := by
  unfold State.resume
  exact (foldl_clock (fun _ _ => State.tryAccess_clock ..) _ _).trans rfl

@[simp] theorem State.landSlot_clock (s : State) (d : DetSlot) (ecc : Nat) : (s.landSlot d ecc).chip.clock = s.chip.clock := by simp [State.landSlot]

@[simp] theorem State.detReduce_clock (s : State) (site ecc : Nat) (st : Stitch) : (s.detReduce site ecc st).chip.clock = s.chip.clock := by
  unfold State.detReduce
  dsimp only
  split <;> simp

@[simp] theorem State.reduceIn_clock (s : State) (site ecc : Nat) (st : Stitch) : (s.reduceIn site ecc st).chip.clock = s.chip.clock := by
  unfold State.reduceIn
  dsimp only
  repeat' split
  all_goals simp

@[simp] theorem State.memoryOp_clock (s : State) (site plane k ecc : Nat) (st : Stitch) : (s.memoryOp site plane k ecc st).chip.clock = s.chip.clock := by
  unfold State.memoryOp
  dsimp only
  repeat' split
  all_goals simp

@[simp] theorem State.flushSlots_clock (s : State) (ecc : Nat) (hit : DetSlot → Bool) : (s.flushSlots ecc hit).chip.clock = s.chip.clock := by
  unfold State.flushSlots
  exact foldl_clock (fun _ _ => State.landSlot_clock ..) _ _

@[simp] theorem Chip.sendRecall_clock (c : Chip) (site die line : Nat) (share : Bool) : (c.sendRecall site die line share).clock = c.clock := by
  unfold Chip.sendRecall
  split <;> simp

@[simp] theorem State.recallOver_clock (s : State) (r : Recall) (keep : Bool) : (s.recallOver r keep).chip.clock = s.chip.clock := by
  unfold State.recallOver
  dsimp only
  split <;> simp

@[simp] theorem State.recallAnswer_clock (s : State) (site : Nat) (st : Stitch) : (s.recallAnswer site st).chip.clock = s.chip.clock := by
  unfold State.recallAnswer
  split <;> simp

@[simp] theorem Chip.answerTo_clock (c : Chip) (req : Requester) (status data : Nat) : (c.answerTo req status data).clock = c.clock := (rfl)
@[simp] theorem Chip.stopHart_clock (c : Chip) (d k : Nat) : (c.stopHart d k).clock = c.clock := by simp [Chip.stopHart]
@[simp] theorem Chip.fenceHart_clock (c : Chip) (d k : Nat) : (c.fenceHart d k).clock = c.clock := by simp [Chip.fenceHart]
@[simp] theorem Chip.fenceDie_clock (c : Chip) (d : Nat) : (c.fenceDie d).clock = c.clock := by simp [Chip.fenceDie]
@[simp] theorem Chip.dropCxlLines_clock (c : Chip) (sl : Nat) : (c.dropCxlLines sl).clock = c.clock := (rfl)
@[simp] theorem Chip.surpriseDown_clock (c : Chip) (r : Nat) : (c.surpriseDown r).clock = c.clock := by simp [Chip.surpriseDown]
@[simp] theorem Chip.clkReject_clock (c : Chip) (which : Nat) : (c.clkReject which).clock = c.clock := by simp [Chip.clkReject]
@[simp] theorem keepsClock_chip_clkoutHook (c : Chip) (o v : Nat) : (c.clkoutHook o v).KeepsClock := by simp [Chip.clkoutHook]
@[simp] theorem Chip.slotPorts_clock (c : Chip) (sl : Nat) (was : Bool) : (c.slotPorts sl was).clock = c.clock := by simp [Chip.slotPorts]
@[simp] theorem keepsClock_chip_slotHook (c : Chip) (sl v : Nat) : (c.slotHook sl v).KeepsClock := by simp [Chip.slotHook]
@[simp] theorem keepsClock_chip_portTenantHook (c : Chip) (r : Nat) : (c.portTenantHook r).KeepsClock := by simp [Chip.portTenantHook]

@[simp] theorem State.whenClear_clock (s : State) (t a n : Nat) (write : Bool) {k : State → State} (hk : ∀ u, (k u).chip.clock = u.chip.clock) :
    (s.whenClear t a n write k).chip.clock = s.chip.clock := by
  unfold State.whenClear
  split <;> simp [hk]

@[simp] theorem Chip.setCmd_clock (c : Chip) (x x' : Cmd) : (c.setCmd x x').clock = c.clock := (rfl)

@[simp] theorem Chip.qpDecode_clock (c : Chip) (x : Cmd) : (c.qpDecode x).clock = c.clock := by
  unfold Chip.qpDecode
  split <;> simp

@[simp] theorem State.begin_clock (s : State) (src : CmdSrc) (idx opcode : Nat) {k : State → Cmd → State} (hk : ∀ u x, (k u x).chip.clock = u.chip.clock) :
    (s.begin src idx opcode k).chip.clock = s.chip.clock := by
  unfold State.begin
  split <;> simp [hk]

@[simp] theorem State.atOnce_clock (s : State) (src : CmdSrc) (idx opcode : Nat) {k : Chip → Cmd → Chip × Nat × Nat × Nat} (hk : ∀ c x, (k c x).1.clock = c.clock) :
    (s.atOnce src idx opcode k).chip.clock = s.chip.clock := by
  simp [State.atOnce, hk]

@[simp] theorem Chip.noResource_clock (c : Chip) (k tenant : Nat) : (c.noResource k tenant).clock = c.clock := by simp [Chip.noResource]
@[simp] theorem State.writeStatus_clock (s : State) (src : CmdSrc) (idx : Nat) (record : List Nat) : (s.writeStatus src idx record).chip.clock = s.chip.clock := by simp [State.writeStatus]

@[simp] theorem State.completeCmd_clock (s : State) (x : Cmd) (status r0 r1 : Nat) : (s.completeCmd x status r0 r1).chip.clock = s.chip.clock := by
  unfold State.completeCmd
  dsimp only
  repeat' split
  all_goals simp

@[simp] theorem keepsClock_chip_tailHook (c : Chip) (req : Requester) (src : CmdSrc) (v : Nat) : (c.tailHook req src v).KeepsClock := by simp [Chip.tailHook]
@[simp] theorem Chip.dropQueue_clock (c : Chip) (t q : Nat) : (c.dropQueue t q).clock = c.clock := (rfl)
@[simp] theorem Chip.allocFailed_clock (c : Chip) (k n tenant : Nat) : (c.allocFailed k n tenant).clock = c.clock := by simp [Chip.allocFailed]
@[simp] theorem Chip.fmCmd_clock (c : Chip) (st : Stitch) : (c.fmCmd st).clock = c.clock := by simp [Chip.fmCmd]
@[simp] theorem State.noticeIn_clock (s : State) (st : Stitch) : (s.noticeIn st).chip.clock = s.chip.clock := by simp [State.noticeIn]

end Sys2Proof.Machine
end

section
/-! The row clock in cores and threads. -/

namespace Sys2Proof.Machine

set_option Elab.async false

@[simp] theorem Chip.onBlock_clock (c : Chip) (d k slot : Nat) (f : Block → Block) : (c.onBlock d k slot f).clock = c.clock := (rfl)
@[simp] theorem Chip.onThread_clock (c : Chip) (d k slot tid : Nat) (f : Thread → Thread) : (c.onThread d k slot tid f).clock = c.clock := (rfl)

@[simp] theorem Chip.endLaunch_clock (c : Chip) (src : CmdSrc) (idx status r0 r1 : Nat) : (c.endLaunch src idx status r0 r1).clock = c.clock := by
  unfold Chip.endLaunch
  dsimp only
  split <;> simp

@[simp] theorem Chip.threadFault_clock (c : Chip) (d k slot tid cause addr : Nat) : (c.threadFault d k slot tid cause addr).clock = c.clock := by
  unfold Chip.threadFault
  split <;> simp

@[simp] theorem Chip.pushDesc_clock (c : Chip) (d k q : Nat) (bytes : List Nat) (cmd : Option (CmdSrc × Nat)) : (c.pushDesc d k q bytes cmd).1.clock = c.clock := (rfl)
@[simp] theorem Chip.wakeTickets_clock (c : Chip) (d k : Nat) : (c.wakeTickets d k).clock = c.clock := (rfl)
@[simp] theorem Chip.wakePushers_clock (c : Chip) (d k q : Nat) : (c.wakePushers d k q).clock = c.clock := by simp [Chip.wakePushers]

@[simp] theorem Chip.descDone_clock (c : Chip) (d k q : Nat) (x : Desc) (status : Nat) : (c.descDone d k q x status).clock = c.clock := by
  unfold Chip.descDone
  dsimp only
  repeat' split
  all_goals simp

@[simp] theorem Chip.failDescs_clock (c : Chip) (d k status : Nat) : (c.failDescs d k status).clock = c.clock := by simp [Chip.failDescs]
@[simp] theorem Chip.dieCounts_clock (c : Chip) (d : Nat) : (c.dieCounts d).clock = c.clock := (rfl)
@[simp] theorem Chip.fenceCore_clock (c : Chip) (d k : Nat) : (c.fenceCore d k).clock = c.clock := by simp [Chip.fenceCore]

@[simp] theorem Chip.coreFault_clock (c : Chip) (d k : Nat) (engine : Option (Nat × Nat)) : (c.coreFault d k engine).clock = c.clock := by
  unfold Chip.coreFault
  dsimp only
  repeat' split
  all_goals simp

@[simp] theorem Chip.fenceScratch_clock (c : Chip) : c.fenceScratch.clock = c.clock := by simp [Chip.fenceScratch]
@[simp] theorem Chip.fenceQp_clock (c : Chip) (d n : Nat) : (c.fenceQp d n).clock = c.clock := by simp [Chip.fenceQp]
@[simp] theorem Chip.qpFault_clock (c : Chip) (d n : Nat) : (c.qpFault d n).clock = c.clock := by simp [Chip.qpFault]
@[simp] theorem Chip.coreCtrl_clock (c : Chip) (d k v : Nat) : (c.coreCtrl d k v).clock = c.clock := by simp [Chip.coreCtrl]
@[simp] theorem keepsClock_coreCtrlHook (d k v : Nat) : (coreCtrlHook d k v).KeepsClock := by simp [coreCtrlHook]
@[simp] theorem Chip.writeCoreCtrl_clock (c : Chip) (req : Requester) (d k bit : Nat) (breakHalt : Bool) :
    (c.writeCoreCtrl req d k bit breakHalt).clock = c.clock := by simp [Chip.writeCoreCtrl]

@[simp] theorem State.placeBlock_clock (s : State) (l : Launch) : (s.placeBlock l).chip.clock = s.chip.clock := by
  unfold State.placeBlock
  dsimp only
  repeat' split
  all_goals simp

@[simp] theorem State.raise_clock (s : State) (i : Issue) (cause addr : Nat) : (s.raise i cause addr).chip.clock = s.chip.clock := by simp [State.raise]
@[simp] theorem State.putThread_clock (s : State) (i : Issue) (t : Thread) : (s.putThread i t).chip.clock = s.chip.clock := (rfl)

@[simp] theorem State.issue_clock (s : State) (d k slot tid : Nat) {f : State → Issue → State} (hf : ∀ u i, (f u i).chip.clock = u.chip.clock) :
    (s.issue d k slot tid f).chip.clock = s.chip.clock := by
  unfold State.issue
  split <;> simp [hf]

@[simp] theorem Chip.newTag_clock (c : Chip) : c.newTag.2.clock = c.clock := (rfl)
@[simp] theorem State.farAccess_clock (s : State) (i : Issue) (t : Thread) (g opcode n : Nat) (bytes : List Nat) (opspec : Nat) (kind : FarKind) (wait : Bool) :
    (s.farAccess i t g opcode n bytes opspec kind wait).chip.clock = s.chip.clock := by simp [State.farAccess]

@[simp] theorem State.threadLoad_clock (s : State) (i : Issue) (a n : Nat) (kind : FarKind) (put : Thread → Nat → Thread) : (s.threadLoad i a n kind put).chip.clock = s.chip.clock := by
  unfold State.threadLoad
  repeat' split
  all_goals simp

@[simp] theorem State.threadStore_clock (s : State) (i : Issue) (a n v : Nat) : (s.threadStore i a n v).chip.clock = s.chip.clock := by
  unfold State.threadStore
  repeat' split
  all_goals simp

@[simp] theorem State.threadAmo_clock (s : State) (i : Issue) (fn rd a w x swap : Nat) : (s.threadAmo i fn rd a w x swap).chip.clock = s.chip.clock := by
  unfold State.threadAmo
  dsimp only
  repeat' split
  all_goals simp

@[simp] theorem State.sop_clock (s : State) (die : Fin 8) (core : Fin 136) (slot : Fin 64) (tid : Fin 2048) (rd rs1 : Fin 32) (fn flags : Nat) (args : Thread → Nat × Nat) :
    (s.sop die core slot tid rd rs1 fn flags args).chip.clock = s.chip.clock := by simp [State.sop]

@[simp] theorem State.dpInstr_clock (s : State) (die : Fin 8) (core : Fin 136) (slot : Fin 64) (tid : Fin 2048) (pairs : List Nat) (rounds : Bool) (f : Rm → Thread → Thread × FFlags) :
    (s.dpInstr die core slot tid pairs rounds f).chip.clock = s.chip.clock := by
  unfold State.dpInstr
  refine State.issue_clock _ _ _ _ _ fun u i => ?_
  generalize (if rounds then i.t.dynRm else some .rne) = rm
  cases rm with
  | none => simp
  | some m =>
    dsimp only
    split <;> simp

end Sys2Proof.Machine
end

section
/-! The row clock in the engines of a core and in launches. -/

namespace Sys2Proof.Machine

set_option Elab.async false

@[simp] theorem State.putScr_clock (s : State) (d k a : Nat) (bs : List Nat) : (s.putScr d k a bs).chip.clock = s.chip.clock := (rfl)
@[simp] theorem Chip.onDesc_clock (c : Chip) (d k q ticket : Nat) (f : Desc → Desc) : (c.onDesc d k q ticket f).clock = c.clock := (rfl)

@[simp] theorem State.engineOp_clock (s : State) (d k q opc : Nat) (body : State → Desc → Nat) {run : State → Desc → State} (hrun : ∀ u x, (run u x).chip.clock = u.chip.clock) :
    (s.engineOp d k q opc body run).chip.clock = s.chip.clock := by
  unfold State.engineOp
  split <;> simp [hrun]

@[simp] theorem Chip.workDone_clock (c : Chip) (d k q ticket status : Nat) : (c.workDone d k q ticket status).clock = c.clock := (rfl)
@[simp] theorem State.sfeOut_clock (s : State) (d k : Nat) (x : Desc) (l : List Nat) : (s.sfeOut d k x l).chip.clock = s.chip.clock := (rfl)
@[simp] theorem State.sfe_clock (s : State) (die : Fin 8) (core : Fin 136) (opc : Nat) : (s.sfe die core opc).chip.clock = s.chip.clock := by simp [State.sfe]
@[simp] theorem State.putAux_clock (s : State) (d k : Nat) (x : Desc) (l : List Nat) : (s.putAux d k x l).chip.clock = s.chip.clock := (rfl)
@[simp] theorem State.moverSend_clock (s : State) (m : Mover) (f : Xfer) (top : Nat) (st : Stitch) : (s.moverSend m f top st).1.chip.clock = s.chip.clock := by simp [State.moverSend]
@[simp] theorem State.moverFar_clock (s : State) (m : Mover) (f : Xfer) (g opcode n : Nat) (bytes : List Nat) (opspec : Nat) (counted : Bool) :
    (s.moverFar m f g opcode n bytes opspec counted).1.chip.clock = s.chip.clock := by simp [State.moverFar]
@[simp] theorem State.placeAtomic_clock (s : State) (p fn w x swap : Nat) : (s.placeAtomic p fn w x swap).1.chip.clock = s.chip.clock := (rfl)
@[simp] theorem State.atomicResult_clock (s : State) (m : Mover) (got : List Nat) (old : Nat) : (s.atomicResult m got old).chip.clock = s.chip.clock := by simp [State.atomicResult]

@[simp] theorem State.writePart_clock (s : State) (m : Mover) (f : Xfer) : (s.writePart m f).1.chip.clock = s.chip.clock := by
  unfold State.writePart
  dsimp only
  repeat' split
  all_goals simp

@[simp] theorem State.runPart_clock (s : State) (m : Mover) (f : Xfer) : (s.runPart m f).1.chip.clock = s.chip.clock := by
  unfold State.runPart
  dsimp only
  repeat' split
  all_goals simp

@[simp] theorem State.partGo_clock (s : State) (m : Mover) (f : Xfer) (stitches runs : Nat) : (s.partGo m f stitches runs).1.chip.clock = s.chip.clock := by
  unfold State.partGo
  dsimp only
  repeat' split
  all_goals simp

@[simp] theorem State.partAnswer_clock (s : State) (m : Mover) (f : Xfer) (d : Completion) : (s.partAnswer m f d).1.chip.clock = s.chip.clock := by
  unfold State.partAnswer
  dsimp only
  repeat' split
  all_goals simp

@[simp] theorem State.partStep_clock (s : State) (m : Mover) (f : Xfer) (stitches runs released : Nat) : (s.partStep m f stitches runs released).1.chip.clock = s.chip.clock := by
  unfold State.partStep
  split
  · next tag _ =>
    split
    · rfl
    · next d _ =>
      have answered := State.partAnswer_clock (s.onChip (fun c => c.onXport (fun y => { y with comps := dropFirst (fun z => z.1 == tag) y.comps }))) m f d
      dsimp only
      split
      · next e =>
        rw [State.partGo_clock, ← congrArg (fun r => r.1.chip.clock) e]
        exact answered
      · next e => exact (congrArg (fun r => r.1.chip.clock) e).symm.trans answered
  · split <;> simp

@[simp] theorem State.partsStep_clock (m : Mover) (released : Nat) : ∀ (l : List Xfer) (s : State) (stitches runs : Nat), (s.partsStep m released l stitches runs).1.chip.clock = s.chip.clock
  | [], _, _, _ => rfl
  | f :: fs, s, stitches, runs => by
    have front := s.partStep_clock m f stitches runs released
    unfold State.partsStep
    dsimp only
    split <;> exact (State.partsStep_clock m released fs _ _ _).trans front

@[simp] theorem State.moverStep_clock (s : State) (d k q ticket : Nat) : (s.moverStep d k q ticket).chip.clock = s.chip.clock := by
  unfold State.moverStep
  split <;> simp

@[simp] theorem State.beginWork_clock (s : State) (d k q ticket : Nat) (work : List Xfer) (final : Nat) :
    (s.beginWork d k q ticket work final).chip.clock = s.chip.clock := by simp [State.beginWork]
@[simp] theorem Chip.setTile_clock (c : Chip) (d k t : Nat) (l : List Nat) (int : Bool) : (c.setTile d k t l int).clock = c.clock := (rfl)
@[simp] theorem Chip.raiseMxe_clock (c : Chip) (d k flags err : Nat) : (c.raiseMxe d k flags err).1.clock = c.clock := (rfl)
@[simp] theorem Chip.badMeta_clock (c : Chip) (d k q ticket e opc : Nat) : (c.badMeta d k q ticket e opc).clock = c.clock := by simp [Chip.badMeta]
@[simp] theorem State.mmaRun_clock (s : State) (d k : Nat) (x : Desc) (a : MmaA) (cycles skipped : Nat) : (s.mmaRun d k x a cycles skipped).chip.clock = s.chip.clock := (rfl)
@[simp] theorem Chip.portBusy_clock (c : Chip) (d k : Nat) : (c.portBusy d k).clock = c.clock := (rfl)

@[simp] theorem State.encodeTiles_clock (d k : Nat) (x : Desc) : ∀ (l : List Nat) (s : State) (off p r n : Nat), (s.encodeTiles d k x l off p r n).1.chip.clock = s.chip.clock
  | [], _, _, _, _, _ => rfl
  | t :: ts, s, off, p, r, n => by
    unfold State.encodeTiles
    extract_lets f tr tc segs scales z
    by_cases h : x.par 52 4 < off + z.1.length
    · rw [if_pos h]
    · rw [if_neg h]
      exact (State.encodeTiles_clock d k x ts ..).trans (State.putScr_clock ..)

@[simp] theorem State.startLaunch_clock (s : State) (x : Cmd) (cores : List Nat) (windows : List (Nat × Nat)) : (s.startLaunch x cores windows).chip.clock = s.chip.clock := by
  refine (foldl_clock (fun u _ => ?_) _ _).trans rfl
  split <;> simp

end Sys2Proof.Machine
end

section
/-! The row clock in partitions, clocks and images. -/

namespace Sys2Proof.Machine

set_option Elab.async false

@[simp] theorem State.partCmd_clock (s : State) (src : CmdSrc) (idx opcode : Nat) (own zero : Bool) (states : List Nat) (tenant : Cmd → Nat) {k : State → Cmd → Nat → State}
    (hk : ∀ u x t, (k u x t).chip.clock = u.chip.clock) : (s.partCmd src idx opcode own zero states tenant k).chip.clock = s.chip.clock := by
  simp [State.partCmd, hk]

@[simp] theorem State.atRow_clock (s : State) (x : Cmd) {k : State → State} (hk : ∀ u, (k u).chip.clock = u.chip.clock) : (s.atRow x k).chip.clock = s.chip.clock := by
  simp [State.atRow, hk]

@[simp] theorem Chip.ownCluster_clock (c : Chip) (d cl : Nat) (t : Option Nat) : (c.ownCluster d cl t).clock = c.clock := by simp [Chip.ownCluster]
@[simp] theorem Chip.mapCluster_clock (c : Chip) (d cl : Nat) : (c.mapCluster d cl).clock = c.clock := by simp [Chip.mapCluster]
@[simp] theorem State.createPart_clock (s : State) (t : Nat) (r : Creation) (frames srams : List Nat) (base : Nat) :
    (s.createPart t r frames srams base).chip.clock = s.chip.clock := by simp [State.createPart]

@[simp] theorem Chip.reassignQueues_clock (c : Chip) (t : Nat) : (c.reassignQueues t).clock = c.clock := by
  refine Chip.each_clock _ _ fun d q => ?_
  dsimp only
  split
  · split <;> simp
  · rfl

@[simp] theorem Chip.startCore_clock (c : Chip) (d k : Nat) : (c.startCore d k).clock = c.clock := by simp [Chip.startCore]
@[simp] theorem Chip.startPart_clock (c : Chip) (x : Cmd) (t : Nat) : (c.startPart x t).clock = c.clock := by simp [Chip.startPart]
@[simp] theorem Chip.resetPart_clock (c : Chip) (t : Nat) (self : Option (CmdSrc × Nat)) : (c.resetPart t self).1.clock = c.clock := by simp [Chip.resetPart]
@[simp] theorem Chip.destroySync_clock (c : Chip) (t : Nat) : (c.destroySync t).clock = c.clock := by simp [Chip.destroySync]
@[simp] theorem Chip.destroyRegs_clock (c : Chip) (t : Nat) : (c.destroyRegs t).clock = c.clock := by simp [Chip.destroyRegs]
@[simp] theorem Chip.leavePart_clock (c : Chip) (t : Nat) : (c.leavePart t).clock = c.clock := (rfl)
@[simp] theorem Chip.destroyPart_clock (c : Chip) (t : Nat) : (c.destroyPart t).clock = c.clock := by simp [Chip.destroyPart]

@[simp] theorem Chip.armFrog_clock (c : Chip) (t id row : Nat) : (c.armFrog t id row).clock = c.clock := by
  unfold Chip.armFrog
  dsimp only
  split <;> simp

@[simp] theorem Chip.frogIn_clock (c : Chip) (st : Stitch) : (c.frogIn st).clock = c.clock := by simp [Chip.frogIn]
@[simp] theorem Chip.frogAckIn_clock (c : Chip) (st : Stitch) : (c.frogAckIn st).clock = c.clock := by simp [Chip.frogAckIn]
@[simp] theorem Chip.frogStitch_clock (c : Chip) (st : Stitch) : (c.frogStitch st).clock = c.clock := by simp [Chip.frogStitch]
@[simp] theorem keepsClock_fchgHook (d v : Nat) : (fchgHook d v).KeepsClock := by simp [fchgHook]
@[simp] theorem Chip.reannounce_clock (c : Chip) : c.reannounce.clock = c.clock := by simp [Chip.reannounce]

@[simp] theorem Chip.fenceRegion_clock (c : Chip) (r : Nat) : (c.fenceRegion r).clock = c.clock := by
  unfold Chip.fenceRegion
  dsimp only
  repeat' split
  all_goals simp

@[simp] theorem Chip.domainReset_clock (c : Chip) (r : Nat) : (c.domainReset r).clock = c.clock := by simp [Chip.domainReset]
@[simp] theorem keepsClock_domainResetHook (v : Nat) : (domainResetHook v).KeepsClock := by simp [domainResetHook]
@[simp] theorem Chip.dropTraffic_clock (c : Chip) : c.dropTraffic.clock = c.clock := (rfl)
@[simp] theorem Chip.holdDies_clock (c : Chip) : c.holdDies.clock = c.clock := by simp [Chip.holdDies]

/-- The rows stop with their count and the place in the row where they stand. -/
theorem Chip.stopped_rowAndCycle (c : Chip) (phase : Phase) :
    rowAndCycle ({ c with rowsRun := false, pins := { c.pins with phase := phase, released := [] } } : Chip).clock = rowAndCycle c.clock := rfl

@[simp] theorem Chip.forceOutputs_rowAndCycle (c : Chip) (phase : Phase) : rowAndCycle (c.forceOutputs phase).clock = rowAndCycle c.clock := by
  unfold Chip.forceOutputs
  extract_lets ports edges lanes emptied pins stopped
  have hports : ports.clock = c.clock := by simp [ports]
  have hedges : edges.clock = c.clock := by simp [edges, hports]
  have hlanes : lanes.clock = c.clock := by simp [lanes, hedges]
  have hemptied : emptied.clock = c.clock := by simp [emptied, hlanes]
  clear_value emptied
  have hstopped : rowAndCycle stopped.clock = rowAndCycle c.clock := (Chip.stopped_rowAndCycle emptied phase).trans (congrArg rowAndCycle hemptied)
  simp [hstopped]

@[simp] theorem Chip.clockLoss_rowAndCycle (c : Chip) : rowAndCycle c.clockLoss.clock = rowAndCycle c.clock := by simp [Chip.clockLoss]
@[simp] theorem State.clockLoss_rowAndCycle (s : State) : rowAndCycle s.clockLoss.chip.clock = rowAndCycle s.chip.clock := s.chip.clockLoss_rowAndCycle
@[simp] theorem Chip.stageCut_clock (c : Chip) : c.stageCut.clock = c.clock := by simp [Chip.stageCut]
@[simp] theorem Chip.stageUndefined_clock (c : Chip) (x : Cmd) : (c.stageUndefined x).clock = c.clock := (rfl)

end Sys2Proof.Machine
end

section
/-! The row clock in power and temperature. -/

namespace Sys2Proof.Machine

set_option Elab.async false

@[simp] theorem Chip.floorIssue_clock (c : Chip) (d : Nat) : (c.floorIssue d).clock = c.clock := (rfl)
@[simp] theorem Chip.emergency_clock (c : Chip) (d : Nat) (why : Emergency) : (c.emergency d why).clock = c.clock := by simp [Chip.emergency]
@[simp] theorem Chip.emergencyAll_clock (c : Chip) (why : Emergency) : (c.emergencyAll why).clock = c.clock := by simp [Chip.emergencyAll]

@[simp] theorem Chip.endEmergency_clock (c : Chip) (d : Nat) (why : Emergency) : (c.endEmergency d why).clock = c.clock := by
  unfold Chip.endEmergency
  dsimp only
  split <;> simp

@[simp] theorem keepsClock_capHook (c : Chip) (v : Nat) : (capHook c v).KeepsClock := by simp [capHook]
@[simp] theorem Chip.brakeOn_clock (c : Chip) : c.brakeOn.clock = c.clock := by simp [Chip.brakeOn]
@[simp] theorem Chip.keepTrim_clock (c : Chip) (d : Nat) : (c.keepTrim d).clock = c.clock := (rfl)
@[simp] theorem Chip.powerFail_rowAndCycle (c : Chip) (flashAnswers : Bool) : rowAndCycle (c.powerFail flashAnswers).clock = rowAndCycle c.clock := by simp [Chip.powerFail]

@[simp] theorem State.powerFail_rowAndCycle (s : State) (flashAnswers : Bool) : rowAndCycle (s.powerFail flashAnswers).chip.clock = rowAndCycle s.chip.clock :=
  s.chip.powerFail_rowAndCycle flashAnswers

@[simp] theorem Chip.setZone_clock (c : Chip) (z : Nat) (x : Zone) : (c.setZone z x).clock = c.clock := (rfl)
@[simp] theorem keepsClock_zoneLimHook (z : Nat) : (zoneLimHook z).KeepsClock := by simp [zoneLimHook]
@[simp] theorem Chip.giveCeil_clock (c : Chip) (z d p : Nat) : (c.giveCeil z d p).clock = c.clock := (rfl)
@[simp] theorem Chip.lowerCeil_clock (c : Chip) (z d p reason : Nat) : (c.lowerCeil z d p reason).clock = c.clock := by simp [Chip.lowerCeil]
@[simp] theorem Chip.stepDown_clock (c : Chip) (z d reason : Nat) : (c.stepDown z d reason).clock = c.clock := by simp [Chip.stepDown]
@[simp] theorem Chip.ruleOneActs_clock (c : Chip) (z d : Nat) (rate : Bool) : (c.ruleOneActs z d rate).clock = c.clock := by simp [Chip.ruleOneActs]
@[simp] theorem Chip.ruleOneEnds_clock (c : Chip) (z : Nat) : (c.ruleOneEnds z).clock = c.clock := by simp [Chip.ruleOneEnds]
@[simp] theorem Chip.ceilingRules_clock (c : Chip) (z : Nat) (hot rate : Int) : (c.ceilingRules z hot rate).clock = c.clock := by simp [Chip.ceilingRules]
@[simp] theorem Chip.zoneState_clock (c : Chip) (z : Nat) (all : List Int) (hot : Int) : (c.zoneState z all hot).clock = c.clock := by simp [Chip.zoneState]

@[simp] theorem Chip.tripRegs_clock (c : Chip) : c.tripRegs.clock = c.clock := by
  unfold Chip.tripRegs
  dsimp only
  split <;> simp

@[simp] theorem Chip.trip_rowAndCycle (c : Chip) (cause z i reading : Nat) (full : Bool) : rowAndCycle (c.trip cause z i reading full).clock = rowAndCycle c.clock := by simp [Chip.trip]

@[simp] theorem State.trip_rowAndCycle (s : State) (cause z i reading : Nat) (full : Bool) : rowAndCycle (s.trip cause z i reading full).chip.clock = rowAndCycle s.chip.clock :=
  s.chip.trip_rowAndCycle cause z i reading full

@[simp] theorem State.critical_rowAndCycle (s : State) (cause z i reading : Nat) (full : Bool) : rowAndCycle (s.critical cause z i reading full).chip.clock = rowAndCycle s.chip.clock := by
  unfold State.critical
  split
  · rfl
  · split <;> simp

end Sys2Proof.Machine
end

section
/-! The row clock in the recorder, leases, fences and sessions. -/

namespace Sys2Proof.Machine

set_option Elab.async false

@[simp] theorem Chip.recordNv_clock (c : Chip) (e : EventRec) : (c.recordNv e).clock = c.clock := by
  unfold Chip.recordNv
  split <;> simp

@[simp] theorem Chip.recordVol_clock (c : Chip) (e : EventRec) : (c.recordVol e).clock = c.clock := by
  unfold Chip.recordVol
  split <;> simp

@[simp] theorem Chip.clearVol_clock (c : Chip) : c.clearVol.clock = c.clock := by simp [Chip.clearVol]
@[simp] theorem Chip.toVol_clock (c : Chip) (e : EventRec) : (c.toVol e).clock = c.clock := by simp [Chip.toVol]
@[simp] theorem Chip.makeRecord_clock (c : Chip) (e : Event) : (c.makeRecord e).clock = c.clock := by simp [Chip.makeRecord]
@[simp] theorem Chip.thaw_clock (c : Chip) : c.thaw.clock = c.clock := by simp [Chip.thaw]
@[simp] theorem keepsClock_evrCtrlHook (v : Nat) : (evrCtrlHook v).KeepsClock := by simp [evrCtrlHook]
@[simp] theorem keepsClock_evrClearHook (v : Nat) : (evrClearHook v).KeepsClock := by simp [evrClearHook]
@[simp] theorem keepsClock_evrNvClearHook (v : Nat) : (evrNvClearHook v).KeepsClock := by simp [evrNvClearHook]
@[simp] theorem Chip.saveSecs_clock (c : Chip) : c.saveSecs.clock = c.clock := (rfl)
@[simp] theorem Chip.renewLease_clock (c : Chip) : c.renewLease.clock = c.clock := (rfl)
@[simp] theorem Chip.keepDump_clock (c : Chip) (u cause : Nat) : (c.keepDump u cause).clock = c.clock := by simp [Chip.keepDump]
@[simp] theorem Chip.copyDumps_clock (c : Chip) : c.copyDumps.clock = c.clock := (rfl)
@[simp] theorem Chip.loseToken_clock (c : Chip) (cause : Nat) (halted : Bool) : (c.loseToken cause halted).clock = c.clock := by simp [Chip.loseToken]
@[simp] theorem Chip.interruptCmds_clock (c : Chip) (every : Bool) : (c.interruptCmds every).clock = c.clock := by simp [Chip.interruptCmds]
@[simp] theorem Chip.rebuildPages_clock (c : Chip) (writer bad : Nat) : (c.rebuildPages writer bad).clock = c.clock := by simp [Chip.rebuildPages]
@[simp] theorem Chip.takeToken_clock (c : Chip) (u gap bad : Nat) : (c.takeToken u gap bad).clock = c.clock := by simp [Chip.takeToken]
@[simp] theorem Chip.grantStandby_clock (c : Chip) (from_ : Nat) (beat : Bool) (gap bad : Nat) : (c.grantStandby from_ beat gap bad).clock = c.clock := by simp [Chip.grantStandby]
@[simp] theorem keepsClock_debugHoldHook (c : Chip) (req : Requester) (v : Nat) : (debugHoldHook c req v).KeepsClock := by simp [debugHoldHook]
@[simp] theorem Chip.fencePc_clock (c : Chip) (n st q : Nat) : (c.fencePc n st q).clock = c.clock := by simp [Chip.fencePc]
@[simp] theorem Chip.fenceSubPort_clock (c : Chip) (r : Nat) : (c.fenceSubPort r).clock = c.clock := by simp [Chip.fenceSubPort]
@[simp] theorem Chip.fenceComb_clock (c : Chip) (x : Nat) : (c.fenceComb x).clock = c.clock := by simp [Chip.fenceComb]
@[simp] theorem Chip.fencePcu_clock (c : Chip) (u : Nat) : (c.fencePcu u).clock = c.clock := by simp [Chip.fencePcu]

theorem Chip.fenceUnit_clock {c d : Chip} {u : Nat} (h : c.fenceUnit u = some d) : d.clock = c.clock := by
  unfold Chip.fenceUnit at h
  dsimp only at h
  repeat' split at h
  all_goals cases h
  all_goals simp

@[simp] theorem Chip.authResult_clock (c : Chip) (status session : Nat) : (c.authResult status session).clock = c.clock := (rfl)
@[simp] theorem Chip.clearSig_clock (c : Chip) : c.clearSig.clock = c.clock := by simp [Chip.clearSig]
@[simp] theorem Chip.dropNonce_clock (c : Chip) : c.dropNonce.clock = c.clock := (rfl)
@[simp] theorem Chip.challenge_clock (c : Chip) : c.challenge.clock = c.clock := by simp [Chip.challenge]
@[simp] theorem Chip.authFailed_clock (c : Chip) : c.authFailed.clock = c.clock := by simp [Chip.authFailed]
@[simp] theorem Chip.openSession_clock (c : Chip) (n role bind id : Nat) : (c.openSession n role bind id).clock = c.clock := by simp [Chip.openSession]

@[simp] theorem Chip.verify_clock (c : Chip) (role bind id : Nat) : (c.verify role bind id).clock = c.clock := by
  unfold Chip.verify
  dsimp only
  repeat' split
  all_goals simp

@[simp] theorem Chip.dropSession_clock (c : Chip) (req : Requester) (n : Nat) : (c.dropSession req n).clock = c.clock := by simp [Chip.dropSession]
@[simp] theorem keepsClock_authHook (req : Requester) (v : Nat) : (authHook req v).KeepsClock := by simp [authHook]
@[simp] theorem keepsClock_sigHook (w v : Nat) : (sigHook w v).KeepsClock := by simp [sigHook]

end Sys2Proof.Machine
end

section
/-! The row clock in the steps of cast-on and in the ports. -/

namespace Sys2Proof.Machine

set_option Elab.async false

@[simp] theorem Chip.takeTrims_clock (c : Chip) : c.takeTrims.clock = c.clock := by simp [Chip.takeTrims]
@[simp] theorem Chip.takeBroken_clock (c : Chip) : c.takeBroken.clock = c.clock := by simp [Chip.takeBroken]

theorem Chip.castReset_rowAndCycle (c : Chip) (warm : Bool) : rowAndCycle (c.castReset warm).clock = (0, 0) := by
  unfold Chip.castReset
  extract_lets fresh tripped stepped leased free
  have hfresh : rowAndCycle fresh.clock = (0, 0) := rfl
  clear_value fresh
  have htripped : rowAndCycle tripped.clock = (0, 0) := by
    simp only [tripped]
    split <;> simp [hfresh]
  have hleased : rowAndCycle leased.clock = (0, 0) := by simp [leased, stepped, htripped]
  have hfree : rowAndCycle free.clock = (0, 0) := by
    simp only [free]
    split <;> simp [hleased]
  rw [Chip.frameCounts_clock, Chip.wr_clock, Chip.tripRegs_clock, Chip.takeBroken_clock, Chip.takeTrims_clock]
  exact hfree

theorem State.castReset_rowAndCycle (s : State) (warm : Bool) : rowAndCycle (s.castReset warm).chip.clock = (0, 0) := s.chip.castReset_rowAndCycle warm
@[simp] theorem Chip.trialFallback_clock (c : Chip) : c.trialFallback.clock = c.clock := by simp [Chip.trialFallback]
@[simp] theorem Chip.castFail_clock (c : Chip) (n : Nat) : (c.castFail n).clock = c.clock := by simp [Chip.castFail]
@[simp] theorem Chip.enterRecovery_clock (c : Chip) : c.enterRecovery.clock = c.clock := by simp [Chip.enterRecovery]
@[simp] theorem Chip.castDone_clock (c : Chip) (n : Nat) : (c.castDone n).clock = c.clock := (rfl)
@[simp] theorem Chip.applySaved_clock (c : Chip) (l : List Nat) : (c.applySaved l).clock = c.clock := by simp [Chip.applySaved]

@[simp] theorem Chip.castUnits_clock (c : Chip) (units : List Nat) : (c.castUnits units).1.clock = c.clock := by
  unfold Chip.castUnits
  dsimp only
  split <;> simp

@[simp] theorem Chip.castRails_clock (c : Chip) (o : CastOutcome) : (c.castRails o).1.clock = c.clock := by simp [Chip.castRails]

@[simp] theorem Chip.castCombs_clock (c : Chip) (o : CastOutcome) : (c.castCombs o).1.clock = c.clock := by
  unfold Chip.castCombs
  dsimp only
  repeat' split
  all_goals simp

@[simp] theorem Chip.castRing_clock (c : Chip) (sweeps : List (RingKey × RingSweep)) (x : RingKey) : (c.castRing sweeps x).clock = c.clock := by
  unfold Chip.castRing
  dsimp only
  repeat' split
  all_goals simp

@[simp] theorem Chip.castPortRing_clock (c : Chip) (x : RingKey) : (c.castPortRing x).clock = c.clock := by simp [Chip.castPortRing]
@[simp] theorem Chip.castSwatch_clock (c : Chip) (o : CastOutcome) : (c.castSwatch o).clock = c.clock := by simp [Chip.castSwatch]
@[simp] theorem Chip.castTrain_clock (c : Chip) (o : CastOutcome) : (c.castTrain o).clock = c.clock := by simp [Chip.castTrain]
@[simp] theorem Chip.castMemory_clock (c : Chip) (o : CastOutcome) : (c.castMemory o).1.clock = c.clock := by simp [Chip.castMemory]
@[simp] theorem State.castHost_clock (s : State) : s.castHost.chip.clock = s.chip.clock := by simp [State.castHost]
@[simp] theorem Chip.startDie_clock (c : Chip) (d : Nat) : (c.startDie d).clock = c.clock := by simp [Chip.startDie]
@[simp] theorem State.castProcessors_clock (s : State) (o : CastOutcome) : (s.castProcessors o).1.chip.clock = s.chip.clock := by simp [State.castProcessors]
@[simp] theorem Chip.castReady_clock (c : Chip) (ms : Nat) : (c.castReady ms).clock = c.clock := by simp [Chip.castReady]
@[simp] theorem Chip.slotChecked_clock (c : Chip) (n : Nat) : (c.slotChecked n).clock = c.clock := by simp [Chip.slotChecked]
@[simp] theorem Chip.bootSlot_clock (c : Chip) (n : Nat) (trial : Bool) : (c.bootSlot n trial).clock = c.clock := by simp [Chip.bootSlot]
@[simp] theorem Chip.bindNotice_clock (c : Chip) : c.bindNotice.clock = c.clock := by simp [Chip.bindNotice]
@[simp] theorem Chip.bindStart_clock (c : Chip) (x : Cmd) (reason grace wait : Nat) (restart : Bool) : (c.bindStart x reason grace wait restart).clock = c.clock := by simp [Chip.bindStart]
@[simp] theorem Chip.bindEnd_rowAndCycle (c : Chip) (b : BindOff) : rowAndCycle (c.bindEnd b).clock = rowAndCycle c.clock := by simp [Chip.bindEnd]
@[simp] theorem Chip.holdLoops_clock (c : Chip) (j : Nat) (hold : Bool) : (c.holdLoops j hold).clock = c.clock := by simp [Chip.holdLoops]
@[simp] theorem Chip.portLight_clock (c : Chip) (j d l : Nat) : (c.portLight j d l).clock = c.clock := (rfl)

@[simp] theorem Chip.portStateIn_clock (c : Chip) (st : Stitch) : (c.portStateIn st).clock = c.clock := by
  unfold Chip.portStateIn
  split <;> simp

@[simp] theorem Chip.startTraining_clock (c : Chip) (j : Nat) : (c.startTraining j).clock = c.clock := by simp [Chip.startTraining]

@[simp] theorem Chip.sparesAtTraining_clock (c : Chip) (j : Nat) (inc : Bool) : (c.sparesAtTraining j inc).clock = c.clock := by
  unfold Chip.sparesAtTraining
  extract_lets d e took f
  have hd : d.clock = c.clock := by simp [d]
  have he : e.clock = c.clock := (Chip.each_clock _ _ fun x l => by
    dsimp only
    split
    · simp
    · split <;> simp).trans hd
  have hf : f.clock = c.clock := by simp [f, he]
  split
  · split
    · split <;> simp [hf]
    · exact hf
  · exact hf

@[simp] theorem Chip.freshLinks_clock (c : Chip) (j : Nat) : (c.freshLinks j).clock = c.clock := (rfl)
@[simp] theorem Chip.portComesUp_clock (c : Chip) (j node site port maxLevel minLevel : Nat) (bad : List (Nat × Bool)) :
    (c.portComesUp j node site port maxLevel minLevel bad).clock = c.clock := by simp [Chip.portComesUp]
@[simp] theorem keepsClock_edgeCtrlHook (j v : Nat) : (edgeCtrlHook j v).KeepsClock := by simp [edgeCtrlHook]

@[simp] theorem keepsClock_edgeCfg2Hook (j v : Nat) : (edgeCfg2Hook j v).KeepsClock := by
  unfold edgeCfg2Hook
  rw [keepsClock_does]
  intro c
  split
  · split <;> simp
  · simp

@[simp] theorem Chip.departureIn_clock (c : Chip) (j : Nat) (st : Stitch) : (c.departureIn j st).clock = c.clock := by simp [Chip.departureIn]
@[simp] theorem keepsClock_edgePatHook (j v : Nat) : (edgePatHook j v).KeepsClock := by simp [edgePatHook]
@[simp] theorem keepsClock_edgeInjHook (j v : Nat) : (edgeInjHook j v).KeepsClock := by simp [edgeInjHook]

end Sys2Proof.Machine
end

section
/-! The row clock in arrivals and in the registers with rules of their own. -/

namespace Sys2Proof.Machine

set_option Elab.async false

@[simp] theorem Chip.openDst_clock (c : Chip) (site e runNo : Nat) (st : Stitch) (deal : List Nat) (start : Nat) (relay : Bool) :
    (c.openDst site e runNo st deal start relay).clock = c.clock := (rfl)
@[simp] theorem Chip.crossRun_clock (c : Chip) (site e j : Nat) (st : Stitch) : (c.crossRun site e j st).clock = c.clock := (rfl)
@[simp] theorem Chip.landRun_clock (c : Chip) (site j : Nat) (st : Stitch) : (c.landRun site j st).clock = c.clock := by simp [Chip.landRun]
@[simp] theorem Chip.pullRun_clock (c : Chip) (site : Nat) (st : Stitch) : (c.pullRun site st).clock = c.clock := by simp [Chip.pullRun]

@[simp] theorem State.runOpenIn_clock (s : State) (site plane k : Nat) (st : Stitch) : (s.runOpenIn site plane k st).chip.clock = s.chip.clock := by
  unfold State.runOpenIn
  dsimp only
  repeat' split
  all_goals simp

@[simp] theorem State.ctrlIn_clock (s : State) (st : Stitch) : (s.ctrlIn st).chip.clock = s.chip.clock := by
  unfold State.ctrlIn
  dsimp only
  repeat' split
  all_goals simp

@[simp] theorem State.deliver_clock (s : State) (site plane k ecc : Nat) (st : Stitch) : (s.deliver site plane k ecc st).chip.clock = s.chip.clock := by simp [State.deliver]
@[simp] theorem Chip.mcIn_clock (c : Chip) (site plane k : Nat) (st : Stitch) : (c.mcIn site plane k st).clock = c.clock := by simp [Chip.mcIn]
@[simp] theorem State.arrival_clock (s : State) (site plane k ecc : Nat) (st : Stitch) : (s.arrival site plane k ecc st).chip.clock = s.chip.clock := by simp [State.arrival]
@[simp] theorem State.answerIn_clock (s : State) (site : Nat) (st : Stitch) : (s.answerIn site st).chip.clock = s.chip.clock := by simp [State.answerIn]
@[simp] theorem State.responseArrival_clock (s : State) (site plane k : Nat) (st : Stitch) : (s.responseArrival site plane k st).chip.clock = s.chip.clock := by simp [State.responseArrival]

@[simp] theorem State.takeArrived_clock (s : State) (site plane k : Nat) (st : Stitch) {f : State → State} (hf : ∀ u, (f u).chip.clock = u.chip.clock) :
    (s.takeArrived site plane k st f).chip.clock = s.chip.clock := by
  simp [State.takeArrived, hf]

@[simp] theorem keepsClock_groupMaskHook (b g v : Nat) : (groupMaskHook b g v).KeepsClock := by simp [groupMaskHook]

@[simp] theorem keepsClock_portAssignHook (j v : Nat) : (portAssignHook j v).KeepsClock := by
  refine (keepsClock_does _).mpr fun c => ?_
  exact (keepsClock_assignHook j v _).2 _

@[simp] theorem keepsClock_gaugeCtrlHook (site v : Nat) : (gaugeCtrlHook site v).KeepsClock := by
  refine (keepsClock_does _).mpr fun c => ?_
  exact (keepsClock_gaugeHook site v _ _).2 _

@[simp] theorem keepsClock_admqHook (v : Nat) : (admqHook v).KeepsClock := by simp [admqHook]

@[simp] theorem keepsClock_chip_hookOf (c : Chip) (req : Requester) (r : RegDesc) (is : List Nat) (v : Nat) : (c.hookOf req r is v).KeepsClock := by
  unfold Chip.hookOf
  dsimp only
  repeat' split
  all_goals simp

@[simp] theorem Chip.doWrite_clock (c : Chip) (req : Requester) (off v : Nat) : (c.doWrite req off v).clock = c.clock := by
  unfold Chip.doWrite
  split <;> simp

@[simp] theorem Chip.setMirror_clock (c : Chip) (m : MirrorPort) : (c.setMirror m).clock = c.clock := (rfl)

@[simp] theorem Chip.writeWindow_clock (c : Chip) (req : Requester) (off v : Nat) : (c.writeWindow req off v).clock = c.clock := by
  unfold Chip.writeWindow
  split <;> simp

@[simp] theorem Chip.present_clock (c : Chip) (off : Nat) : (c.present off).2.clock = c.clock := by
  unfold Chip.present
  split <;> simp

@[simp] theorem Chip.readMirror_clock (c : Chip) (req : Requester) : (c.readMirror req).2.clock = c.clock := by
  unfold Chip.readMirror
  dsimp only
  split <;> simp

@[simp] theorem Chip.setLatch_clock (c : Chip) (l : ReadLatch) : (c.setLatch l).clock = c.clock := (rfl)
@[simp] theorem Chip.readClears_clock (c : Chip) (r : RegDesc) (off : Nat) : (c.readClears r off).clock = c.clock := by simp [Chip.readClears]

@[simp] theorem Chip.readNow_clock (c : Chip) (req : Requester) (off : Nat) : (c.readNow req off).2.clock = c.clock := by
  unfold Chip.readNow
  dsimp only
  repeat' split
  all_goals simp

@[simp] theorem Chip.answerRead_clock (c : Chip) (req : Requester) (data : Nat) : (c.answerRead req data).clock = c.clock := (rfl)

@[simp] theorem Chip.readReg_clock (c : Chip) (req : Requester) (off : Nat) (whole : Bool) : (c.readReg req off whole).clock = c.clock := by
  unfold Chip.readReg
  dsimp only
  repeat' split
  all_goals simp

@[simp] theorem Chip.aliasMember_clock (c : Chip) (req : Requester) (o v : Nat) : (c.aliasMember req o v).clock = c.clock := by
  unfold Chip.aliasMember
  split <;> simp

@[simp] theorem Chip.deliverAlias_clock (c : Chip) (req : Requester) (off v : Nat) (members : List Nat) : (c.deliverAlias req off v members).clock = c.clock := by simp [Chip.deliverAlias]

@[simp] theorem Chip.acceptAlias_clock (c : Chip) (req : Requester) (off v : Nat) : (c.acceptAlias req off v).clock = c.clock := by
  unfold Chip.acceptAlias
  dsimp only
  repeat' split
  all_goals simp

@[simp] theorem Chip.writeAlias_clock (c : Chip) (req : Requester) (off v : Nat) : (c.writeAlias req off v).clock = c.clock := by
  unfold Chip.writeAlias
  dsimp only
  repeat' split
  all_goals simp

@[simp] theorem Chip.performWrite_clock (c : Chip) (req : Requester) (off v : Nat) : (c.performWrite req off v).clock = c.clock := by simp [Chip.performWrite]

@[simp] theorem Chip.writeAny_clock (c : Chip) (req : Requester) (off v : Nat) (whole : Bool) : (c.writeAny req off v whole).clock = c.clock := by
  unfold Chip.writeAny
  repeat' split
  all_goals simp

@[simp] theorem Chip.mgmtAnswer_clock (c : Chip) (status data : Nat) : (c.mgmtAnswer status data).clock = c.clock := (rfl)
@[simp] theorem Chip.mgmtNow_clock (c : Chip) (off : Nat) (isWrite : Bool) (v : Nat) : (c.mgmtNow off isWrite v).clock = c.clock := by simp [Chip.mgmtNow]

@[simp] theorem Chip.performWaited_clock (c : Chip) (e : EmuAccess) : (c.performWaited e).clock = c.clock := by
  unfold Chip.performWaited
  split <;> simp

@[simp] theorem Chip.performWaiting_clock (c : Chip) (e : EmuAccess) : (c.performWaiting e).clock = c.clock := by simp [Chip.performWaiting]

@[simp] theorem Chip.serveEmu_clock (c : Chip) : c.serveEmu.clock = c.clock := by
  unfold Chip.serveEmu
  split <;> simp

@[simp] theorem Chip.dropEmu_clock (c : Chip) : c.dropEmu.clock = c.clock := by simp [Chip.dropEmu]
@[simp] theorem Chip.dmaFault_clock (c : Chip) (r a : Nat) : (c.dmaFault r a).clock = c.clock := (rfl)
@[simp] theorem Chip.dmaUnsupported_clock (c : Chip) (r : Nat) : (c.dmaUnsupported r).clock = c.clock := (rfl)
@[simp] theorem Chip.inbound_clock (c : Chip) (r w a : Nat) (isWrite : Bool) (n : Nat) (data : List Nat) : (c.inbound r w a isWrite n data).clock = c.clock := by simp [Chip.inbound]

end Sys2Proof.Machine
end

section
/-! The row clock in the pins and in thread instructions. -/

namespace Sys2Proof.Machine

set_option Elab.async false

@[simp] theorem Chip.mgmtRequest_clock (c : Chip) (pec : Bool) {wait serve : Chip → Chip} (hw : ∀ d, (wait d).clock = d.clock) (hs : ∀ d, (serve d).clock = d.clock) :
    (c.mgmtRequest pec wait serve).clock = c.clock := by
  simp [Chip.mgmtRequest, hw, hs]

@[simp] theorem Chip.romRequest_clock (c : Chip) (pec : Bool) {serve : Chip → Chip} (hs : ∀ d, (serve d).clock = d.clock) : (c.romRequest pec serve).clock = c.clock := by
  simp [Chip.romRequest, hs]

@[simp] theorem Chip.collect_clock (c : Chip) (off : Nat) (bytes : List (BitVec 8)) : (c.collect off bytes).clock = c.clock := (rfl)
@[simp] theorem Chip.recoveryEnd_clock (c : Chip) (len : Nat) : (c.recoveryEnd len).clock = c.clock := by simp [Chip.recoveryEnd]
@[simp] theorem Chip.i3cCode_clock (c : Chip) (ccc arg : Nat) : (c.i3cCode ccc arg).clock = c.clock := by simp [Chip.i3cCode]
@[simp] theorem Chip.tap_clock (c : Chip) (code captured : Nat) : (c.tap code captured).clock = c.clock := by simp [Chip.tap]
@[simp] theorem Chip.scan_clock (c : Chip) (code cells : Nat) : (c.scan code cells).clock = c.clock := by simp [Chip.scan]
@[simp] theorem Chip.jtagAccess_clock (c : Chip) (off v : Nat) (isWrite : Bool) : (c.jtagAccess off v isWrite).clock = c.clock := by simp [Chip.jtagAccess]
@[simp] theorem State.jump_clock (s : State) (i : Issue) (t : Thread) (target : Nat) : (s.jump i t target).chip.clock = s.chip.clock := by simp [State.jump]

theorem forall_mem_ite {α : Type} {P : α → Prop} {p : Prop} [Decidable p] {a b : Option α} (ha : ∀ r ∈ a, P r) (hb : ∀ r ∈ b, P r) : ∀ r ∈ (if p then a else b), P r := by
  split <;> assumption

theorem Chip.csrRead_clock {c d : Chip} {i : Issue} {n v : Nat} (h : c.csrRead i n = some (v, d)) : d.clock = c.clock := by
  have answered : ∀ (v : Nat) (d : Chip), d.clock = c.clock → ∀ r ∈ some (v, d), r.2.clock = c.clock := fun v d hd r hr => Option.some.inj hr ▸ hd
  have all : ∀ r ∈ c.csrRead i n, r.2.clock = c.clock := by
    unfold Chip.csrRead
    extract_lets b t cyc drawn
    repeat' refine forall_mem_ite (answered _ _ rfl) ?_
    exact fun r hr => nomatch hr
  exact all (v, d) h

@[simp] theorem State.system_clock (s : State) (i : Issue) (w : Nat) : (s.system i w).chip.clock = s.chip.clock := by
  unfold State.system
  extract_lets
  split
  · split <;> simp
  · split
    · simp
    · dsimp only
      split
      · simp
      · next e =>
        split
        · simp
        · exact (State.putThread_clock ..).trans (Chip.csrRead_clock e)

@[simp] theorem State.riscv_clock (s : State) (i : Issue) (w : Nat) : (s.riscv i w).chip.clock = s.chip.clock := by
  unfold State.riscv
  dsimp only
  repeat' split
  all_goals simp

end Sys2Proof.Machine
end

section
/-! Row and cycle within their bounds (R294): how a command keeps them, over a row boundary, and over the steps of cast-on. -/

namespace Sys2Proof.Machine

set_option Elab.async false

/-- The bounds of R294: a row counter below 2^48 and a cycle below 2,048. -/
def TimeInRange (k : Nat × Nat) : Prop := k.1 < 2 ^ 48 ∧ k.2 < 2048

/-- The result of a command is a next state whose row and cycle are within their bounds. -/
def InTime (r : Result) : Prop := ∃ t, r = .next t ∧ TimeInRange (rowAndCycle t.chip.clock)

theorem inTime_next {t : State} (h : TimeInRange (rowAndCycle t.chip.clock)) : InTime (.next t) := ⟨t, rfl, h⟩

section

variable {s : State} (h : TimeInRange (rowAndCycle s.chip.clock))

include h

theorem inTime_of_clock {t : State} (ht : t.chip.clock = s.chip.clock) : InTime (.next t) := inTime_next (by rwa [ht])

theorem inTime_of_rowAndCycle {t : State} (ht : rowAndCycle t.chip.clock = rowAndCycle s.chip.clock) : InTime (.next t) := inTime_next (by rwa [ht])

theorem inTime_onChip {f : Chip → Chip} (hf : ∀ c, (f c).clock = c.clock) : InTime (.next (s.onChip f)) := inTime_of_clock h (hf _)

theorem inTime_atOnce {src : CmdSrc} {idx opcode : Nat} {k : Chip → Cmd → Chip × Nat × Nat × Nat} (hk : ∀ c x, (k c x).1.clock = c.clock) : InTime (.next (s.atOnce src idx opcode k)) :=
  inTime_of_clock h (State.atOnce_clock _ _ _ _ hk)

theorem inTime_begin {src : CmdSrc} {idx opcode : Nat} {k : State → Cmd → State} (hk : ∀ u x, (k u x).chip.clock = u.chip.clock) : InTime (.next (s.begin src idx opcode k)) :=
  inTime_of_clock h (State.begin_clock _ _ _ _ hk)

theorem inTime_partCmd {src : CmdSrc} {idx opcode : Nat} {own zero : Bool} {states : List Nat} {tenant : Cmd → Nat} {k : State → Cmd → Nat → State}
    (hk : ∀ u x t, (k u x t).chip.clock = u.chip.clock) : InTime (.next (s.partCmd src idx opcode own zero states tenant k)) :=
  inTime_of_clock h (State.partCmd_clock _ _ _ _ _ _ _ _ hk)

theorem inTime_issue {d k slot tid : Nat} {f : State → Issue → State} (hf : ∀ u i, (f u i).chip.clock = u.chip.clock) : InTime (.next (s.issue d k slot tid f)) :=
  inTime_of_clock h (State.issue_clock _ _ _ _ _ hf)

theorem inTime_engineOp {d k q opc : Nat} {body : State → Desc → Nat} {run : State → Desc → State} (hrun : ∀ u x, (run u x).chip.clock = u.chip.clock) :
    InTime (.next (s.engineOp d k q opc body run)) :=
  inTime_of_clock h (State.engineOp_clock _ _ _ _ _ _ hrun)


end

theorem timeInRange_start : TimeInRange (0, 0) := ⟨by norm_num, by norm_num⟩

theorem State.castReset_inRange (s : State) (warm : Bool) : TimeInRange (rowAndCycle (s.castReset warm).chip.clock) := by
  rw [State.castReset_rowAndCycle]
  exact timeInRange_start

/-- A step of T moves the row counter modulo 2^48 and leaves the place in the row. -/
theorem Chip.timeStepNow_inRange {c : Chip} (h : TimeInRange (rowAndCycle c.clock)) : TimeInRange (rowAndCycle c.timeStepNow.clock) := by
  unfold Chip.timeStepNow
  split
  · exact h
  · next d _ =>
    have hshift : TimeInRange (rowAndCycle (c.shift d).clock) := ⟨by
      show (((c.row : Int) + d) % ((2 ^ 48 : Nat) : Int)).toNat < 2 ^ 48
      omega, h.2⟩
    simpa using hshift

theorem Chip.boundaryFields_inRange {c : Chip} (h : TimeInRange (rowAndCycle c.clock)) : TimeInRange (rowAndCycle c.boundaryFields.clock) :=
  Chip.timeStepNow_inRange (by simpa using h)

/-- The new row starts within the bounds, and of what follows only a step of T moves the row counter. -/
theorem Chip.boundary_inRange (c : Chip) (t : Telemetry) (temps : List (Fin 24 × Fin 42 × BitVec 16)) (raw edgeRaw : List (Nat × List Bool)) :
    TimeInRange (rowAndCycle (c.boundary t temps raw edgeRaw).clock) := by
  have hnew : TimeInRange (rowAndCycle c.nextRow.clock) := ⟨Nat.mod_lt _ (by decide), (by decide : 0 < 2048)⟩
  have hfields : TimeInRange (rowAndCycle ((c.nextRow.readFallbackLight t.fb0 t.fb1).boundaryStart.boundaryLanes raw edgeRaw).boundaryFields.clock) :=
    Chip.boundaryFields_inRange (by simpa using hnew)
  unfold Chip.boundary
  simpa using hfields

/-- A state with the row clock of another. A predicate of its own, so that two states are compared as they are written, where the kernel would otherwise evaluate the ages of tickets. -/
def State.SameClock (s t : State) : Prop := t.chip.clock = s.chip.clock

theorem inTime_issue_of_sameClock {s : State} (h : TimeInRange (rowAndCycle s.chip.clock)) {d k slot tid : Nat} {f : State → Issue → State}
    (hf : ∀ (u : State) (i : Issue), u.SameClock (f u i)) : InTime (.next (s.issue d k slot tid f)) := inTime_issue h hf

/-- A thread that asks for a ticket goes on with its status or waits for it (R320), whatever the statuses are. -/
theorem State.ticketWait_sameClock (u : State) (i : Issue) (status : Nat → Nat → Option Nat) (rd rs1 rs2 : Fin 32) :
    u.SameClock (
      have q := i.t.rx rs2.val % 8
      have n := i.t.rx rs1.val % 65536
      match status q n with
      | some st => u.putThread i (i.t.goOn.wx rd.val st)
      | none => u.putThread i { i.t.goOn with wait := .ticket q n rd.val }) := by
  dsimp only
  split <;> exact State.putThread_clock ..

theorem Chip.castClocks_inRange {c : Chip} (o : CastOutcome) (h : TimeInRange (rowAndCycle c.clock)) : TimeInRange (rowAndCycle (c.castClocks o).1.clock) := by
  unfold Chip.castClocks
  extract_lets saved fab plls points regions
  have hregions : regions.clock = c.clock := by simp [regions, points, plls, saved]
  split
  · clear_value regions
    rw [Chip.renewLease_clock]
    exact timeInRange_start
  · show TimeInRange (rowAndCycle regions.clock)
    rwa [hregions]

theorem inRange_of_mem_some {s : State} {r : Chip × Bool} (h : TimeInRange (rowAndCycle r.1.clock)) :
    ∀ x ∈ some (({ s with chip := r.1 } : State), r.2), TimeInRange (rowAndCycle x.1.chip.clock) := fun _ hx => Option.some.inj hx ▸ h

/-- A step of cast-on keeps the row clock, but for step 5, which starts the rows at row 0. -/
theorem State.castStep_inRange {s : State} {n : Nat} {o : CastOutcome} (h : TimeInRange (rowAndCycle s.chip.clock)) : ∀ x ∈ s.castStep n o, TimeInRange (rowAndCycle x.1.chip.clock) := by
  unfold State.castStep
  split
  case h_1 => exact inRange_of_mem_some (by simpa using h)
  case h_2 =>
    dsimp only
    split
    · exact inRange_of_mem_some (r := s.chip.castUnits (o.units.map (·.val))) (by rwa [Chip.castUnits_clock])
    · exact fun x hx => absurd hx (Option.not_mem_none x)
  case h_3 => exact inRange_of_mem_some (by simpa using h)
  case h_4 => exact inRange_of_mem_some (Chip.castClocks_inRange o h)
  case h_5 => exact inRange_of_mem_some (by simpa using h)
  case h_6 => exact inRange_of_mem_some (r := (s.chip.castSwatch o, true)) (by simpa using h)
  case h_7 => exact inRange_of_mem_some (r := (s.chip.castTrain o, true)) (by simpa using h)
  case h_8 => exact inRange_of_mem_some (by simpa using h)
  case h_9 =>
    intro x hx
    obtain rfl := Option.some.inj hx
    simpa using h
  case h_10 =>
    dsimp only
    split
    · exact inRange_of_mem_some (r := (s.chip.timeCastOn, true)) (by rwa [Chip.timeCastOn_rowAndCycle])
    · exact fun x hx => absurd hx (Option.not_mem_none x)
  case h_11 =>
    dsimp only
    split
    · exact inRange_of_mem_some (r := (s.chip.castReady o.ms.toNat, true)) (by rwa [Chip.castReady_clock])
    · exact fun x hx => absurd hx (Option.not_mem_none x)
  case h_12 => exact fun x hx => absurd hx (Option.not_mem_none x)

theorem Chip.islandOff_rowAndCycle (c : Chip) : rowAndCycle c.islandOff.clock = (0, 0) := by
  simp only [Chip.islandOff, Chip.wr_clock]
  rfl

end Sys2Proof.Machine
end

section
/-! The commands whose effect is more than one operation on the package keep row and cycle within their bounds. -/

namespace Sys2Proof.Machine

set_option Elab.async false

section

variable {s : State} (h : TimeInRange (rowAndCycle s.chip.clock))

include h

theorem loReadLatch_inTime (req : Requester) (off : BitVec 28) : InTime (execLoReadLatch req off s) := by
  refine inTime_onChip h fun c => ?_
  split <;> simp

theorem rowBoundary_inTime (t : Telemetry) (temps : List (Fin 24 × Fin 42 × BitVec 16)) (raw : List (Fin 24 × List Bool)) (edgeRaw : List (Fin 16 × List Bool)) (ecc : Fin 3) :
    InTime (execRowBoundary t temps raw edgeRaw ecc s) := by
  refine inTime_next ?_
  split
  · exact h
  · rw [State.deliverReports_clock, State.combineOff_clock]
    exact Chip.boundary_inRange ..

theorem laneFence_inTime (t : FenceTarget) : InTime (execLaneFence t s) := by
  refine inTime_onChip h fun c => ?_
  split <;> simp

theorem lightDip_inTime : InTime (execLightDip s) := by
  refine inTime_onChip h fun c => ?_
  dsimp only
  repeat' split
  all_goals simp

theorem combLossDeclared_inTime : InTime (execCombLossDeclared s) := by
  refine inTime_onChip h fun c => ?_
  repeat' split
  all_goals simp

theorem standbyReady_inTime (comb : Fin 2) (mhz : BitVec 16) : InTime (execStandbyReady comb mhz s) := by
  refine inTime_onChip h fun c => ?_
  dsimp only
  repeat' split
  all_goals simp

theorem restartTimeout_inTime (comb : Fin 2) : InTime (execRestartTimeout comb s) := by
  refine inTime_onChip h fun c => ?_
  dsimp only
  split <;> simp

theorem lsuCtrlPendingRun_inTime : InTime (execLsuCtrlPendingRun s) := by
  refine inTime_onChip h fun c => ?_
  dsimp only
  repeat' split
  all_goals simp

theorem returnCommit_inTime (failed : List FenceSign) : InTime (execReturnCommit failed s) := by
  refine inTime_onChip h fun c => ?_
  split <;> simp

theorem edgeTrigger_inTime (site : Fin 24) (plane : Fin 42) (d : Fin 2) (k : Fin 40) : InTime (execEdgeTrigger site plane d k s) := by
  refine inTime_onChip h fun c => ?_
  dsimp only
  split <;> simp

theorem swatchLeaseAbandon_inTime (site : Fin 24) (plane : Fin 42) (k : Fin 40) : InTime (execSwatchLeaseAbandon site plane k s) := by
  refine inTime_onChip h fun c => ?_
  split <;> simp

theorem trainingTimeout_inTime (lane : Lane) : InTime (execTrainingTimeout lane s) := by
  refine inTime_onChip h fun c => ?_
  dsimp only
  split <;> simp

theorem stitchEntry_inTime (site : Fin 24) (ctx : IssueCtx) (top : Fin 64) (req : Stitch) : InTime (execStitchEntry site ctx top req s) := by
  refine inTime_onChip h fun c => ?_
  split <;> simp

theorem e2eTimeout_inTime (site : Fin 32) (node : Fin 4096) (tenant : Fin 16) (seq : BitVec 16) : InTime (execE2eTimeout site node tenant seq s) := by
  refine inTime_onChip h fun c => ?_
  split <;> simp

theorem streamResult_inTime (site : Fin 24) (node : Fin 4096) (tenant : Fin 16) (seq : BitVec 16) : InTime (execStreamResult site node tenant seq s) := by
  refine inTime_of_clock h ?_
  dsimp only
  repeat' split
  all_goals simp

theorem patternTrigger_inTime (t : Fin 16) : InTime (execPatternTrigger t s) := by
  refine inTime_onChip h fun c => ?_
  split <;> simp

theorem patWrite_inTime (req : Requester) (p : Fin 64) (e : Option (Fin 112)) (v : BitVec 32) : InTime (execPatWrite req p e v s) := by
  refine inTime_onChip h fun c => ?_
  split <;> simp

theorem runRequest_inTime (site : Fin 24) (ctx : IssueCtx) (req : Stitch) (src : BitVec 46) (srcLocal : Bool) : InTime (execRunRequest site ctx req src srcLocal s) := by
  refine inTime_onChip h fun c => ?_
  split <;> simp

theorem runComplete_inTime (site : Fin 24) (e : Fin 144) (runNo : Fin 256) : InTime (execRunComplete site e runNo s) := by
  refine inTime_onChip h fun c => ?_
  repeat' split
  all_goals simp

theorem portLightReturn_inTime (j : Fin 16) (dataIn loIn : BitVec 16) : InTime (execPortLightReturn j dataIn loIn s) := by
  refine inTime_onChip h fun c => ?_
  dsimp only
  split <;> simp

theorem recordWaitTimeout_inTime (j : Fin 16) : InTime (execRecordWaitTimeout j s) := by
  refine inTime_onChip h fun c => ?_
  split <;> simp

theorem portTrainTimeout_inTime (j : Fin 16) : InTime (execPortTrainTimeout j s) := by
  refine inTime_onChip h fun c => ?_
  split <;> simp

theorem txFault_inTime (j : Fin 16) (lane : Fin 40) : InTime (execTxFault j lane s) := by
  refine inTime_onChip h fun c => ?_
  dsimp only
  repeat' split
  all_goals simp

theorem departureDarkRow_inTime (j : Fin 16) : InTime (execDepartureDarkRow j s) := by
  refine inTime_onChip h fun c => ?_
  split <;> simp

theorem mcCopyPlace_inTime (e : Fin 4) : InTime (execMcCopyPlace e s) := by
  refine inTime_onChip h fun c => ?_
  split <;> simp

theorem redCtxAlloc_inTime (src : CmdSrc) (idx : BitVec 16) : InTime (execRedCtxAlloc src idx s) := by
  refine inTime_atOnce h fun c x => ?_
  dsimp only
  repeat' split
  all_goals simp

theorem redCtxFlush_inTime (src : CmdSrc) (idx : BitVec 16) : InTime (execRedCtxFlush src idx s) := by
  refine inTime_begin h fun u x => ?_
  dsimp only
  split
  · exact (State.flushSlots_clock ..).trans ((foldl_clock (fun _ _ => State.flushUnit_clock ..) _ _).trans (Chip.setCmd_clock ..))
  · simp

theorem redCtxFree_inTime (src : CmdSrc) (idx : BitVec 16) : InTime (execRedCtxFree src idx s) := by
  refine inTime_atOnce h fun c x => ?_
  dsimp only
  repeat' split
  all_goals simp

theorem mcAlloc_inTime (src : CmdSrc) (idx : BitVec 16) : InTime (execMcAlloc src idx s) := by
  refine inTime_atOnce h fun c x => ?_
  repeat' split
  all_goals simp

theorem mcFree_inTime (src : CmdSrc) (idx : BitVec 16) : InTime (execMcFree src idx s) := by
  refine inTime_atOnce h fun c x => ?_
  dsimp only
  split <;> simp

theorem mcSet_inTime (src : CmdSrc) (idx : BitVec 16) : InTime (execMcSet src idx s) := by
  refine inTime_atOnce h fun c x => ?_
  dsimp only
  split <;> simp

theorem mcClear_inTime (src : CmdSrc) (idx : BitVec 16) : InTime (execMcClear src idx s) := by
  refine inTime_atOnce h fun c x => ?_
  dsimp only
  split <;> simp

theorem syncAlloc_inTime (src : CmdSrc) (idx : BitVec 16) : InTime (execSyncAlloc src idx s) := by
  refine inTime_atOnce h fun c x => ?_
  dsimp only
  repeat' split
  all_goals simp

theorem syncFree_inTime (src : CmdSrc) (idx : BitVec 16) : InTime (execSyncFree src idx s) := by
  refine inTime_atOnce h fun c x => ?_
  dsimp only
  repeat' split
  all_goals simp

theorem timeExchSend_inTime (j : Fin 16) (ttx : BitVec 64) (rs : BitVec 48) (trx : BitVec 64) (rp : BitVec 48) : InTime (execTimeExchSend j ttx rs trx rp s) := by
  refine inTime_onChip h fun c => ?_
  extract_lets due
  clear_value due
  split
  · rw [Chip.sendOnPort_clock, Chip.onTime_clock _ (by rfl)]
  · rfl

theorem timeExchArrival_inTime (j : Fin 16) (st : Stitch) (t2 t3 : BitVec 64) : InTime (execTimeExchArrival j st t2 t3 s) := by
  refine inTime_of_rowAndCycle h ?_
  rw [State.onChip_clock, Chip.timeExch_rowAndCycle]

theorem ewait_inTime (die : Fin 8) (core : Fin 136) (slot : Fin 64) (tid : Fin 2048) (rd rs1 rs2 : Fin 32) : InTime (execEwait die core slot tid rd rs1 rs2 s) :=
  inTime_issue_of_sameClock h fun u i => u.ticketWait_sameClock i (u.chip.ticketStatus die.val core.val) rd rs1 rs2

theorem farAnswer_inTime (die : Fin 8) (core : Fin 136) (slot : Fin 64) (tid : Fin 2048) : InTime (execFarAnswer die core slot tid s) := by
  refine inTime_onChip h fun c => ?_
  repeat' split
  all_goals simp

theorem threadException_inTime (die : Fin 8) (core : Fin 136) (slot : Fin 64) (tid : Fin 2048) (cause : Fin 7) (addr : BitVec 32) :
    InTime (execThreadException die core slot tid cause addr s) := by
  refine inTime_onChip h fun c => ?_
  split <;> simp

theorem blockPlace_inTime (src : CmdSrc) (idx : BitVec 16) : InTime (execBlockPlace src idx s) := by
  refine inTime_of_clock h ?_
  repeat' split
  all_goals simp

theorem blockEnd_inTime (die : Fin 8) (core : Fin 136) (slot : Fin 64) : InTime (execBlockEnd die core slot s) := by
  refine inTime_onChip h fun c => ?_
  dsimp only
  repeat' split
  all_goals simp

theorem descriptorComplete_inTime (die : Fin 8) (core : Fin 136) (q : Fin 8) : InTime (execDescriptorComplete die core q s) := by
  refine inTime_of_clock h ?_
  dsimp only
  repeat' split
  all_goals simp

theorem engineNop_inTime (die : Fin 8) (core : Fin 136) (q : Fin 8) : InTime (execEngineNop die core q s) := by
  refine inTime_onChip h fun c => ?_
  dsimp only
  split <;> simp

theorem mma_inTime (die : Fin 8) (core : Fin 136) : InTime (execMma die core s) := by
  refine inTime_of_clock h ?_
  split
  · rfl
  · refine State.engineOp_clock _ _ _ _ _ _ fun u x => ?_
    dsimp only
    split
    · split <;> simp
    · simp

theorem accStore_inTime (die : Fin 8) (core : Fin 136) : InTime (execAccStore die core s) := by
  refine inTime_of_clock h ?_
  split
  · rfl
  · refine State.engineOp_clock _ _ _ _ _ _ fun u x => ?_
    extract_lets
    split
    next c0 e =>
      have hdrawn : c0.clock = u.chip.clock := (congrArg (fun r => r.2.clock) e).symm.trans (Chip.draw_clock _)
      extract_lets bytes drawn stored
      have hstored : stored.chip.clock = u.chip.clock := (foldl_clock (fun _ _ => by simp) _ _).trans hdrawn
      clear_value stored
      rw [State.onChip_clock]
      dsimp only
      rw [Chip.workDone_clock, Chip.portBusy_clock, Chip.raiseMxe_clock]
      split
      · rw [Chip.setTile_clock, Chip.wr_clock, hstored]
      · rw [Chip.wr_clock, hstored]

theorem decode_inTime (die : Fin 8) (core : Fin 136) : InTime (execDecode die core s) := by
  refine inTime_engineOp h fun u x => ?_
  extract_lets
  split
  · simp
  · refine (State.onChip_clock ..).trans ((Chip.workDone_clock ..).trans (foldl_clock (fun v r => ?_) _ _))
    dsimp only
    split <;> simp

theorem prune24_inTime (die : Fin 8) (core : Fin 136) : InTime (execPrune24 die core s) :=
  inTime_engineOp h fun _ _ => (Chip.workDone_clock ..).trans (foldl_clock (fun _ _ => by simp) _ _)

theorem expand24_inTime (die : Fin 8) (core : Fin 136) : InTime (execExpand24 die core s) := by
  refine inTime_engineOp h fun u x => ?_
  extract_lets
  split
  · simp
  · exact (Chip.workDone_clock ..).trans (foldl_clock (fun _ _ => by simp) _ _)

theorem route_inTime (die : Fin 8) (core : Fin 136) : InTime (execRoute die core s) := by
  refine inTime_engineOp h fun u x => ?_
  extract_lets
  split
  extract_lets _ _ _ _ _ _ entered listed gathered counted totalled
  have hlisted : listed.chip.clock = u.chip.clock := by
    simp only [listed]
    split
    · rfl
    · exact (foldl_clock (fun _ _ => by simp) _ _).trans (State.putScr_clock ..)
  clear_value listed
  have hgathered : gathered.chip.clock = u.chip.clock := by
    simp only [gathered]
    split <;> simp [hlisted]
  have htotalled : totalled.chip.clock = u.chip.clock := by simp [totalled, counted, hgathered]
  rw [State.onChip_clock]
  split <;> simp [htotalled]

theorem recallTimeout_inTime (site : Fin 24) (die : Fin 2) (line : BitVec 46) : InTime (execRecallTimeout site die line s) := by
  refine inTime_of_clock h ?_
  dsimp only
  repeat' split
  all_goals simp

theorem rqPop_inTime (die : Fin 2) (core : Fin 96) (q : Fin 64) : InTime (execRqPop die core q s) := by
  refine inTime_onChip h fun c => ?_
  dsimp only
  repeat' split
  all_goals simp

theorem rqFree_inTime (die : Fin 2) (core : Fin 96) (q : Fin 64) (v : BitVec 64) : InTime (execRqFree die core q v s) := by
  refine inTime_onChip h fun c => ?_
  dsimp only
  repeat' split
  all_goals simp

theorem hartFault_inTime (die : Fin 2) (core : Option (Fin 96)) : InTime (execHartFault die core s) := by
  refine inTime_onChip h fun c => ?_
  split <;> simp

theorem queueTailWrite_inTime (req : Requester) (src : CmdSrc) (v : BitVec 32) : InTime (execQueueTailWrite req src v s) := by
  refine inTime_of_clock h ?_
  repeat' split
  all_goals simp

theorem commandComplete_inTime (src : CmdSrc) (idx : BitVec 16) : InTime (execCommandComplete src idx s) := by
  refine inTime_of_clock h ?_
  dsimp only
  repeat' split
  all_goals simp

theorem launch_inTime (src : CmdSrc) (idx : BitVec 16) : InTime (execLaunch src idx s) := by
  refine inTime_begin h fun u x => ?_
  dsimp only
  repeat' split
  all_goals simp

theorem dma_inTime (src : CmdSrc) (idx : BitVec 16) : InTime (execDma src idx s) := by
  unfold execDma
  extract_lets d full
  refine inTime_of_clock h ?_
  split
  · rfl
  · refine State.begin_clock _ _ _ _ fun u x => ?_
    rw [State.onChip_clock]
    split
    · simp
    · split
      · simp
      · split <;> simp

theorem wait_inTime (src : CmdSrc) (idx : BitVec 16) : InTime (execWait src idx s) := by
  refine inTime_begin h fun u x => ?_
  rw [State.onChip_clock]
  split
  · split <;> simp
  · simp

theorem signal_inTime (src : CmdSrc) (idx : BitVec 16) : InTime (execSignal src idx s) := by
  refine inTime_atOnce h fun c x => ?_
  dsimp only
  repeat' split
  all_goals simp

theorem cqCreate_inTime (src : CmdSrc) (idx : BitVec 16) : InTime (execCqCreate src idx s) := by
  refine inTime_atOnce h fun c x => ?_
  dsimp only
  repeat' split
  all_goals simp

theorem cqDestroy_inTime (src : CmdSrc) (idx : BitVec 16) : InTime (execCqDestroy src idx s) := by
  refine inTime_atOnce h fun c x => ?_
  dsimp only
  repeat' split
  all_goals simp

theorem fmSend_inTime (src : CmdSrc) (idx : BitVec 16) : InTime (execFmSend src idx s) := by
  refine inTime_begin h fun u x => ?_
  dsimp only
  repeat' split
  all_goals simp

theorem secKeySet_inTime (src : CmdSrc) (idx : BitVec 16) : InTime (execSecKeySet src idx s) := by
  refine inTime_begin h fun u x => ?_
  dsimp only
  repeat' split
  all_goals simp

theorem fwStage_inTime (src : CmdSrc) (idx : BitVec 16) : InTime (execFwStage src idx s) := by
  refine inTime_begin h fun u x => ?_
  dsimp only
  repeat' split
  all_goals simp

theorem fwCommit_inTime (src : CmdSrc) (idx : BitVec 16) : InTime (execFwCommit src idx s) := by
  refine inTime_atOnce h fun c x => ?_
  dsimp only
  repeat' split
  all_goals simp

theorem fwRatchet_inTime (src : CmdSrc) (idx : BitVec 16) : InTime (execFwRatchet src idx s) := by
  refine inTime_atOnce h fun c x => ?_
  dsimp only
  split <;> simp

theorem bindOffGraceExpiry_inTime : InTime (execBindOffGraceExpiry s) := by
  refine inTime_onChip h fun c => ?_
  split <;> simp

theorem bindOffHostWaitExpiry_inTime : InTime (execBindOffHostWaitExpiry s) := by
  refine inTime_of_rowAndCycle h ?_
  rw [State.onChip_clock]
  split
  · rfl
  · split <;> simp

theorem sessionExpiry_inTime (n : Fin 4) : InTime (execSessionExpiry n s) := by
  refine inTime_onChip h fun c => ?_
  split <;> simp

theorem nonceExpiry_inTime : InTime (execNonceExpiry s) := by
  refine inTime_onChip h fun c => ?_
  split <;> simp

theorem lockoutExpiry_inTime : InTime (execLockoutExpiry s) := by
  refine inTime_onChip h fun c => ?_
  split <;> simp

theorem bootRomStart_inTime : InTime (execBootRomStart s) := by
  refine inTime_onChip h fun c => ?_
  dsimp only
  repeat' split
  all_goals simp

theorem castOn_inTime (step : Fin 13) (o : CastOutcome) : InTime (execCastOn step o s) := by
  refine inTime_next ?_
  extract_lets c n
  split
  · split
    · simpa [State.castBegin] using s.castReset_inRange false
    · exact h
  · split
    · exact h
    · split
      · exact h
      · next e => simpa using State.castStep_inRange h _ e
      · next e =>
        have hu := State.castStep_inRange h _ e
        rw [State.onChip_clock]
        dsimp only
        split <;> simpa using hu

theorem portWaitTimeout_inTime : InTime (execPortWaitTimeout s) := by
  refine inTime_of_rowAndCycle h ?_
  rw [State.onChip_clock]
  dsimp only
  split
  · simp [Chip.portsDone, Chip.timeCastOn_rowAndCycle]
  · rfl

theorem warmCastOn_inTime : InTime (execWarmCastOn s) := by
  refine inTime_next ?_
  split
  · exact h
  · split
    · exact s.castReset_inRange true
    · exact h

theorem partCreate_inTime (src : CmdSrc) (idx : BitVec 16) : InTime (execPartCreate src idx s) := by
  refine inTime_partCmd h fun u x t => ?_
  dsimp only
  repeat' split
  all_goals simp

theorem partJoin_inTime (src : CmdSrc) (idx : BitVec 16) : InTime (execPartJoin src idx s) := by
  refine inTime_partCmd h fun u x t => ?_
  dsimp only
  repeat' split
  all_goals simp

theorem partFence_inTime (src : CmdSrc) (idx : BitVec 16) : InTime (execPartFence src idx s) := by
  refine inTime_partCmd h fun u x t => ?_
  rw [State.onChip_clock]
  dsimp only
  split
  · next e => simpa using Chip.fenceUnit_clock e
  · simp

theorem frogDrainEnd_inTime (tenant : Fin 16) : InTime (execFrogDrainEnd tenant s) := by
  refine inTime_onChip h fun c => ?_
  split <;> simp

theorem digestComplete_inTime (die : Fin 8) : InTime (execDigestComplete die s) := by
  refine inTime_of_clock h ?_
  extract_lets d
  split
  · rfl
  · extract_lets st fin
    have hfin : ∀ (u : State) (crc : Nat), (fin u crc).chip.clock = u.chip.clock := fun u crc => by
      simp only [fin, State.onChip_clock]
      split
      · split <;> simp
      · simp
    split
    · exact hfin ..
    · split
      · simp
      · exact hfin ..

theorem pllRelockDone_inTime (what : PllLock) : InTime (execPllRelockDone what s) := by
  refine inTime_onChip h fun c => ?_
  split <;> simp

theorem pwrCap_inTime (src : CmdSrc) (idx : BitVec 16) : InTime (execPwrCap src idx s) := by
  refine inTime_atOnce h fun c x => ?_
  dsimp only
  split <;> simp

theorem pwrTarget_inTime (src : CmdSrc) (idx : BitVec 16) : InTime (execPwrTarget src idx s) := by
  refine inTime_atOnce h fun c x => ?_
  dsimp only
  repeat' split
  all_goals simp

theorem droopDetect_inTime (r : Fin 82) : InTime (execDroopDetect r s) := by
  refine inTime_onChip h fun c => ?_
  repeat' split
  all_goals simp

theorem zoneSample_inTime (z : Fin 144) (temps : List (BitVec 16)) : InTime (execZoneSample z temps s) := by
  refine inTime_onChip h fun c => ?_
  dsimp only
  split
  · rfl
  · split
    · split <;> simp
    · split <;> simp

theorem sensorBroken_inTime (z : Fin 144) (sensor : Fin 64) (reading : BitVec 16) (full : Bool) : InTime (execSensorBroken z sensor reading full s) := by
  refine inTime_of_rowAndCycle h ?_
  split
  · rfl
  · extract_lets marked
    have hmarked : marked.chip.clock = s.chip.clock := by simp [marked]
    clear_value marked
    split <;> simp [hmarked]

theorem thmTripAck_inTime (src : CmdSrc) (idx : BitVec 16) : InTime (execThmTripAck src idx s) := by
  refine inTime_atOnce h fun c x => ?_
  dsimp only
  split <;> simp

theorem eventRecord_inTime : InTime (execEventRecord s) := by
  refine inTime_onChip h fun c => ?_
  dsimp only
  split
  · rfl
  · split
    · exact c.count_clock R.EVR_LOST_VOL c.captureLost
    · exact (Chip.makeRecord_clock ..).trans (c.count_clock R.EVR_LOST_VOL c.captureLost)

theorem freezeTimeout_inTime : InTime (execFreezeTimeout s) := by
  refine inTime_onChip h fun c => ?_
  split
  · split <;> simp
  · rfl

theorem pwrGoodRise_inTime (addr : Fin 4) (long : Bool) : InTime (execPwrGoodRise addr long s) := by
  refine inTime_next ?_
  dsimp only
  split
  · exact h
  · split
    · exact h
    · split
      · simpa [Chip.islandOff_rowAndCycle] using timeInRange_start
      · simpa using h

theorem pwrGoodFall_inTime : InTime (execPwrGoodFall s) := by
  refine inTime_next ?_
  split
  · exact h
  · split
    · exact h
    · dsimp only
      rw [Chip.islandOff_rowAndCycle]
      exact timeInRange_start

theorem vioLoss_inTime : InTime (execVioLoss s) := by
  refine inTime_of_rowAndCycle h ?_
  dsimp only
  split <;> simp

theorem inboundDma_inTime (r : Fin 16) (w : Option (Fin 1024)) (a : BitVec 46) (isWrite : Bool) (n : Fin 4097) (data : List (BitVec 8)) : InTime (execInboundDma r w a isWrite n data s) := by
  refine inTime_onChip h fun c => ?_
  split <;> split <;> simp

end

end Sys2Proof.Machine
end

section
/-! The statement about the bounds of row and cycle. -/

namespace Sys2Proof.Machine

set_option Elab.async false

/-- Command by command: those whose effect is one operation on the package or the state go by the lemma about that operation, the others by their own lemmas above; of those left, each is a
choice between such operations. -/
theorem exec_inTime (i : Instr) {s : State} (h : TimeInRange (rowAndCycle s.chip.clock)) : InTime (exec i s) := by
  cases i with
  | loReadLatch => exact loReadLatch_inTime h ..
  | rowBoundary => exact rowBoundary_inTime h ..
  | laneFence => exact laneFence_inTime h ..
  | lightDip => exact lightDip_inTime h ..
  | combLossDeclared => exact combLossDeclared_inTime h ..
  | standbyReady => exact standbyReady_inTime h ..
  | restartTimeout => exact restartTimeout_inTime h ..
  | lsuCtrlPendingRun => exact lsuCtrlPendingRun_inTime h ..
  | returnCommit => exact returnCommit_inTime h ..
  | edgeTrigger => exact edgeTrigger_inTime h ..
  | swatchLeaseAbandon => exact swatchLeaseAbandon_inTime h ..
  | trainingTimeout => exact trainingTimeout_inTime h ..
  | stitchEntry => exact stitchEntry_inTime h ..
  | e2eTimeout => exact e2eTimeout_inTime h ..
  | streamResult => exact streamResult_inTime h ..
  | patternTrigger => exact patternTrigger_inTime h ..
  | patWrite => exact patWrite_inTime h ..
  | runRequest => exact runRequest_inTime h ..
  | runComplete => exact runComplete_inTime h ..
  | portLightReturn => exact portLightReturn_inTime h ..
  | recordWaitTimeout => exact recordWaitTimeout_inTime h ..
  | portTrainTimeout => exact portTrainTimeout_inTime h ..
  | txFault => exact txFault_inTime h ..
  | departureDarkRow => exact departureDarkRow_inTime h ..
  | mcCopyPlace => exact mcCopyPlace_inTime h ..
  | redCtxAlloc => exact redCtxAlloc_inTime h ..
  | redCtxFlush => exact redCtxFlush_inTime h ..
  | redCtxFree => exact redCtxFree_inTime h ..
  | mcAlloc => exact mcAlloc_inTime h ..
  | mcFree => exact mcFree_inTime h ..
  | mcSet => exact mcSet_inTime h ..
  | mcClear => exact mcClear_inTime h ..
  | syncAlloc => exact syncAlloc_inTime h ..
  | syncFree => exact syncFree_inTime h ..
  | timeExchSend => exact timeExchSend_inTime h ..
  | timeExchArrival => exact timeExchArrival_inTime h ..
  | ewait => exact ewait_inTime h ..
  | farAnswer => exact farAnswer_inTime h ..
  | threadException => exact threadException_inTime h ..
  | blockPlace => exact blockPlace_inTime h ..
  | blockEnd => exact blockEnd_inTime h ..
  | descriptorComplete => exact descriptorComplete_inTime h ..
  | engineNop => exact engineNop_inTime h ..
  | mma => exact mma_inTime h ..
  | accStore => exact accStore_inTime h ..
  | decode => exact decode_inTime h ..
  | prune24 => exact prune24_inTime h ..
  | expand24 => exact expand24_inTime h ..
  | route => exact route_inTime h ..
  | recallTimeout => exact recallTimeout_inTime h ..
  | rqPop => exact rqPop_inTime h ..
  | rqFree => exact rqFree_inTime h ..
  | hartFault => exact hartFault_inTime h ..
  | queueTailWrite => exact queueTailWrite_inTime h ..
  | commandComplete => exact commandComplete_inTime h ..
  | launch => exact launch_inTime h ..
  | dma => exact dma_inTime h ..
  | wait => exact wait_inTime h ..
  | signal => exact signal_inTime h ..
  | cqCreate => exact cqCreate_inTime h ..
  | cqDestroy => exact cqDestroy_inTime h ..
  | fmSend => exact fmSend_inTime h ..
  | secKeySet => exact secKeySet_inTime h ..
  | fwStage => exact fwStage_inTime h ..
  | fwCommit => exact fwCommit_inTime h ..
  | fwRatchet => exact fwRatchet_inTime h ..
  | bindOffGraceExpiry => exact bindOffGraceExpiry_inTime h ..
  | bindOffHostWaitExpiry => exact bindOffHostWaitExpiry_inTime h ..
  | sessionExpiry => exact sessionExpiry_inTime h ..
  | nonceExpiry => exact nonceExpiry_inTime h ..
  | lockoutExpiry => exact lockoutExpiry_inTime h ..
  | bootRomStart => exact bootRomStart_inTime h ..
  | castOn => exact castOn_inTime h ..
  | portWaitTimeout => exact portWaitTimeout_inTime h ..
  | warmCastOn => exact warmCastOn_inTime h ..
  | partCreate => exact partCreate_inTime h ..
  | partJoin => exact partJoin_inTime h ..
  | partFence => exact partFence_inTime h ..
  | frogDrainEnd => exact frogDrainEnd_inTime h ..
  | digestComplete => exact digestComplete_inTime h ..
  | pllRelockDone => exact pllRelockDone_inTime h ..
  | pwrCap => exact pwrCap_inTime h ..
  | pwrTarget => exact pwrTarget_inTime h ..
  | droopDetect => exact droopDetect_inTime h ..
  | zoneSample => exact zoneSample_inTime h ..
  | sensorBroken => exact sensorBroken_inTime h ..
  | thmTripAck => exact thmTripAck_inTime h ..
  | eventRecord => exact eventRecord_inTime h ..
  | freezeTimeout => exact freezeTimeout_inTime h ..
  | pwrGoodRise => exact pwrGoodRise_inTime h ..
  | pwrGoodFall => exact pwrGoodFall_inTime h ..
  | vioLoss => exact vioLoss_inTime h ..
  | inboundDma => exact inboundDma_inTime h ..
  | registerWrite => exact inTime_onChip h fun c => c.writeAny_clock ..
  | rcRead | mirrorDataRead | objW0LoRead | dumpDataRead => exact inTime_onChip h fun c => c.readReg_clock ..
  | receiverReacquired => exact inTime_onChip h fun c => c.reacquired_clock ..
  | substGo | substRestore => exact inTime_onChip h fun c => c.writeReg_clock _ _ _ (keepsClock_substHook ..)
  | lsuSwap | lsuReturn | lsuRestart => exact inTime_onChip h fun c => c.writeReg_clock _ _ _ (keepsClock_lsuCtrlHook ..)
  | loopVisit => exact inTime_onChip h fun c => c.visit_clock ..
  | ringLossOfLock => exact inTime_onChip h fun c => c.ringLost_clock ..
  | swatchReq => exact inTime_onChip h fun c => c.writeReg_clock _ _ _ (keepsClock_swatchReqHook ..)
  | swatchEnd => exact inTime_onChip h fun c => c.swatchEnd_clock ..
  | gaugeGo => exact inTime_onChip h fun c => c.writeReg_clock _ _ _ (keepsClock_gaugeHook ..)
  | frameSend | frameReceive | stitchArrival | answerArrival | partialFlushTimeout | gather | scatter | scatterAdd | accLoad | encode | zeroingDone | fillS | fillM
  | wb | recallResponse | packetFetch | noticeArrival | fabricPllLoss | refclkLost | powerFail | criticalTrip | pkgResetAssert => exact inTime_of_rowAndCycle h (by simp)
  | rowMarkerReceive => exact inTime_onChip h fun c => c.receiveMarker_clock ..
  | laneUp => exact inTime_onChip h fun c => c.laneUp_clock ..
  | patternGo | patternStop => exact inTime_onChip h fun c => c.writeReg_clock _ _ _ (keepsClock_patHook ..)
  | injectGo => exact inTime_onChip h fun c => c.writeReg_clock _ _ _ (keepsClock_injHook ..)
  | ackSend => exact inTime_onChip h fun c => c.sendAnswers_clock ..
  | creditReturn => exact inTime_onChip h fun c => c.returnCredits_clock ..
  | rqCfgWrite => exact inTime_onChip h fun c => c.writeReg_clock _ _ _ (keepsClock_chip_rqHook ..)
  | shareWrite => exact inTime_onChip h fun c => c.writeReg_clock _ _ _ (keepsClock_chip_shareHook ..)
  | armGo | armCancel => exact inTime_onChip h fun c => c.writeReg_clock _ _ _ (keepsClock_armHook ..)
  | allotWrite => exact inTime_onChip h fun c => c.writeReg_clock _ _ _ (keepsClock_chip_allotHook ..)
  | portAssignGo => exact inTime_onChip h fun c => c.writeReg_clock _ _ _ (keepsClock_assignHook ..)
  | portStateArrival => exact inTime_onChip h fun c => c.portStateIn_clock ..
  | portRetrain | portDownCmd => exact inTime_onChip h fun c => c.writeReg_clock _ _ _ (keepsClock_edgeCtrlHook ..)
  | edgePatternGo => exact inTime_onChip h fun c => c.writeReg_clock _ _ _ (keepsClock_edgePatHook ..)
  | edgeInjectGo => exact inTime_onChip h fun c => c.writeReg_clock _ _ _ (keepsClock_edgeInjHook ..)
  | escapeTimeout => exact inTime_onChip h fun c => c.escapeHead_clock ..
  | nodeStateWrite => exact inTime_onChip h fun c => c.writeReg_clock _ _ _ (keepsClock_chip_nodeStateHook ..)
  | departureArrival => exact inTime_onChip h fun c => c.departureIn_clock ..
  | detWaitTimeout => exact inTime_of_clock h (State.flushSlots_clock ..)
  | syncRead | syncAdd | syncSet | syncArm | syncWait | syncArrive | syncSetParties | syncAcquire | syncRelease | syncRenew => exact inTime_onChip h fun c => c.syncOp_clock ..
  | countLanding => exact inTime_onChip h fun c => c.countLanding_clock ..
  | waitLimit => exact inTime_onChip h fun c => c.waitsExpire_clock ..
  | leaseExpiry => exact inTime_onChip h fun c => c.leaseExpiry_clock ..
  | lockAbandon => exact inTime_onChip h fun c => c.lockAbandon_clock ..
  | epush | epoll | tbar | fwset | fenceG | texit | amoW | amoD | threadInstruction => exact inTime_issue h (by simp)
  | sopRead | sopAdd | sopSet | sopWait | sopArrive | sopAcquire | sopRelease | sopRenew => exact inTime_of_clock h (State.sop_clock ..)
  | faddDp | fsubDp | fmulDp | fmacDp | fdivDp | fsqrtDp | fminDp | fmaxDp | fcvtSDp | fcvtDpS | fcvtDpW | fcvtWDp | feqDp | fltDp | fleDp => exact inTime_of_clock h (State.dpInstr_clock ..)
  | qpFault => exact inTime_onChip h fun c => c.qpFault_clock ..
  | coreHalt | coreResume | coreErrClear => exact inTime_onChip h fun c => c.writeCoreCtrl_clock ..
  | sfeExp | sfeLn | sfeRecip | sfeRsqrt | sfeSigmoid | sfeTanh | sfeGelu => exact inTime_of_clock h (State.sfe_clock ..)
  | sfeRowmax | sfeExpsum | sfeScale | dmeCopy | dmeReduce | dmeMcast | dmeStream | dmeFill | dmeAtomic => exact inTime_engineOp h (by simp)
  | recallInv | recallShare => exact inTime_onChip h fun c => c.sendRecall_clock ..
  | surpriseDown => exact inTime_onChip h fun c => c.surpriseDown_clock ..
  | clkoutWrite => exact inTime_onChip h fun c => c.writeReg_clock _ _ _ (keepsClock_chip_clkoutHook ..)
  | slotCfgWrite => exact inTime_onChip h fun c => c.writeReg_clock _ _ _ (keepsClock_chip_slotHook ..)
  | cmdNop | getVersion | installSave | pwrGet | thmGet => exact inTime_atOnce h (by simp)
  | fwActivate | bindOff | pkgReset => exact inTime_begin h (by simp)
  | fmCmdArrival => exact inTime_onChip h fun c => c.fmCmd_clock ..
  | authChallenge | authVerify | authDrop => exact inTime_onChip h fun c => c.writeReg_clock _ _ _ (keepsClock_authHook ..)
  | partStart | partReset | partDestroy | partFrog | partLeave | partDigest => exact inTime_partCmd h (by simp)
  | fchgAnnounce | fchgCancel => exact inTime_onChip h fun c => c.writeReg_clock _ _ _ (keepsClock_fchgHook ..)
  | domainReset => exact inTime_onChip h fun c => c.writeReg_clock _ _ _ (keepsClock_domainResetHook ..)
  | droopEnd => exact inTime_onChip h fun c => c.onPwr_clock ..
  | debugHoldWrite => exact inTime_onChip h fun c => c.writeReg_clock _ _ _ (keepsClock_debugHoldHook ..)
  | evrFreeze | evrUnfreeze => exact inTime_onChip h fun c => c.writeReg_clock _ _ _ (keepsClock_evrCtrlHook ..)
  | evrClear => exact inTime_onChip h fun c => c.writeReg_clock _ _ _ (keepsClock_evrClearHook ..)
  | evrNvClear => exact inTime_onChip h fun c => c.writeReg_clock _ _ _ (keepsClock_evrNvClearHook ..)
  | pkgResetRelease => exact inTime_onChip h fun c => c.onPins_clock ..
  | jtagExtest | jtagSamplePreload => exact inTime_onChip h fun c => c.scan_clock ..
  | jtagIdcode | jtagBypass => exact inTime_onChip h fun c => c.tap_clock ..
  | landingMergeEnd => exact inTime_onChip h fun c => c.landingMergeEnd_clock ..
  | _ => exact inTime_onChip h (by simp)

@[simp] theorem Chip.atMarker_clock (c : Chip) : c.atMarker.clock = c.clock := (rfl)

/-- A cycle passes only where the row has another (R294). -/
theorem Chip.tick_inRange {c : Chip} (h : TimeInRange (rowAndCycle c.clock)) : TimeInRange (rowAndCycle c.tick.clock) := by
  obtain ⟨hrow, hcyc⟩ := h
  unfold Chip.tick
  split
  next hnext =>
    have hlast : c.cyc + 1 < 2048 := by simpa using (Bool.and_eq_true_iff.mp hnext).2
    have hnew : TimeInRange (rowAndCycle ({ c with cyc := c.cyc + 1 } : Chip).clock) := ⟨hrow, hlast⟩
    split
    · rwa [Chip.atMarker_clock]
    · exact hnew
  · exact ⟨hrow, hcyc⟩

/-- Settles O46: a command keeps the row clock, starts a row or moves T by a step modulo 2^48, or starts the rows anew at row 0; and with no command waiting only a cycle that the row has passes. -/
theorem timeStaysInRange : Obligations.TimeStaysInRange := by
  intro s t hrow hcyc hstep
  unfold step at hstep
  split at hstep
  · obtain rfl := Host.Outcome.next.inj hstep
    exact Chip.tick_inRange ⟨hrow, hcyc⟩
  · next i rest _ =>
    obtain ⟨u, hu, hrange⟩ := exec_inTime i (s := { s with pending := rest }) ⟨hrow, hcyc⟩
    obtain rfl := Host.Outcome.next.inj (hu.symm.trans hstep)
    exact hrange

end Sys2Proof.Machine
end
